-- ==== Sys2Proof/Word.lean ====
section
/-! DEFINITION. The plain types that the commands of the TRL-5640 carry: bytes, times, records, frames, samples, mailbox
commands. Byte-order and check-code functions over them stand in `Sys2Proof/Machine/Bits.lean`. -/

namespace Sys2Proof

/-- One byte. -/
abbrev Byte := BitVec 8
/-- One 64-bit word, the unit of records and of firmware parameters (R14). -/
abbrev W64 := BitVec 64
/-- An instant or a duration in stitches, 1/3072 ns (R3). An instant counts from the PTP epoch of R306. -/
abbrev Tm := Nat
/-- A channel (R12). -/
abbrev Ch := Fin 256
/-- A tile (R12). -/
abbrev Tile := Fin 16
/-- A fabric port (R251). -/
abbrev Port := Fin 4
/-- A serial lane (R288). -/
abbrev Lane := Fin 16
/-- A readout context (R201). -/
abbrev Ctx := Fin 1024
/-- A Seam input (R178). -/
abbrev SeamIn := Fin 5
/-- A mailbox MB0 to MB5 (R377). -/
abbrev Mb := Fin 6
/-- A control core: 0 is Pier A, 1 is Pier B. -/
abbrev Pier := Fin 2
/-- A DDR5 channel (R335). -/
abbrev DdrCh := Fin 2

/-- An instant of the time base: its epoch and its time in stitches (R306, R307). -/
structure Stamp where
  epoch : Nat
  tb : Tm
  deriving DecidableEq, Repr

/-- A record of R14: the common header (its length follows from `body`) and the bytes after the header. -/
structure Rec where
  type : Nat
  flags : Nat
  origin : Nat
  epoch : Nat
  tb : Tm
  seq : Nat
  body : List Byte
  deriving DecidableEq, Repr

/-- One converted sample as the ring delivers it (R67); `ce` marks a sample of a word in
which the read corrected one bit, `ue` a sample of a word with an uncorrectable error (R70). -/
structure Samp where
  range : Bool
  code : BitVec 12
  ce : Bool
  ue : Bool
  deriving DecidableEq, Repr

/-- What the two shapers of a channel give its slice at one sampling edge: the conversions of the high-gain and of the low-gain
shaper in codes, uncorrected and unclamped, between which the range comparator chooses (R65, R66); `ce` and `ue` mark the ring
errors that the read of its word meets (R70). -/
structure Lvl where
  high : Int
  low : Int
  ce : Bool
  ue : Bool
  deriving DecidableEq, Repr

/-- A completed hit (R96); `tb` is the pin-referred time of its leading edge (R89). -/
structure Hit where
  tb : Tm
  tot : Nat
  peak : Nat
  merged : Bool
  coarse : Bool
  totSat : Bool
  peakSat : Bool
  deriving DecidableEq, Repr

/-- The 24-byte VC0 frame of R255 with its payload of R112, decoded. -/
structure Vc0 where
  kind : Nat
  uncomp : Bool
  nohit : Bool
  ext : Bool
  coarse : Bool
  group : Nat
  origin : Nat
  epoch : Nat
  timeNs : Nat
  stitch : Nat
  mult : Nat
  seq : Nat
  dest : Nat
  wait : Nat
  hops : Nat
  spread : Bool
  deriving DecidableEq, Repr

/-- A leading edge of a channel: the channel, and the code that an interpolator which takes the edge will deliver (R86). -/
structure ChEdge where
  ch : Ch
  code : BitVec 12
  deriving DecidableEq, Repr

/-- An edge of a gauge's input: the gauge, the edge's direction and the code of its interpolator (R86, R101). -/
structure GaugeIn where
  g : Fin 8
  rising : Bool
  code : BitVec 12
  deriving DecidableEq, Repr

/-- An edge of a timing pin: its direction and the code of its interpolator (R86, R118, R310). -/
structure PinEdge where
  rising : Bool
  code : BitVec 12
  deriving DecidableEq, Repr

/-- A test conversion: the interpolator of its pair and the code that its converter will deliver (R90). -/
structure TestCode where
  ip : Fin 2
  code : BitVec 12
  deriving DecidableEq, Repr

/-- What a lane's receiver reports at a loss of block lock: sync headers in error, and whether its clock recovery lost lock too
(R295). -/
structure LockLoss where
  invalid : Nat
  cdr : Bool
  deriving DecidableEq, Repr

/-- What a port measures in a Sync interval: the codes of its two stamps and the link phase (R311, R314). -/
structure SyncMeas where
  port : Port
  syncCode : BitVec 12
  reqCode : BitVec 12
  phase : BitVec 13
  deriving DecidableEq, Repr

/-- The lowest and the highest sample of a conversion (R42). -/
structure HkEnds where
  low : Nat
  high : Nat
  deriving DecidableEq, Repr

/-- What the ramp fit of a slice gives for one range: its offset and its gain (R71). -/
structure SliceFit where
  offset : Int
  gain : Int
  deriving DecidableEq, Repr

/-- The least and the most conversions that a code of the density check got (R71). -/
structure BinCounts where
  least : Nat
  most : Nat
  deriving DecidableEq, Repr

/-- An SMBus transaction: its instant and the address it is sent to (R391, R392). -/
structure SmbAt where
  t : Tm
  addr : BitVec 7
  deriving DecidableEq, Repr

/-- Four VC0 part blocks as they arrive (R255): each part's 6-bit tag and the 24 frame bytes. -/
structure Vc0Parts where
  tags : List (BitVec 6)
  bytes : List Byte
  deriving DecidableEq, Repr

/-- A data frame of R256: SOF fields, payload words and the trailer's fields. -/
structure Frame where
  vc : Nat
  first : Bool
  last : Bool
  dest : Nat
  src : Nat
  seq : Nat
  kind : Nat
  stream : Nat
  payload : List W64
  crc : BitVec 32
  seqRep : Nat
  deriving DecidableEq, Repr

/-- The body of a CREDIT block (R258). -/
structure Credit where
  vc : Nat
  count : Nat
  ack : Nat
  nak : Bool
  ackValid : Bool
  deriving DecidableEq, Repr

/-- A mailbox command: the header of R379, its payload bytes, and the slot it came from. -/
structure Cmd where
  opcode : Nat
  length : Nat
  seq : Nat
  flags : Nat
  context : Nat
  target : Nat
  timeoutMs : Nat
  respAddr : Nat
  respMax : Nat
  payload : List Byte
  slot : Nat
  deriving DecidableEq, Repr

/-- How the response to a DMA read of the device ended (R372). -/
inductive ReadEnd where
  | ok
  | timeout
  | error
  | poisoned
  deriving DecidableEq, Repr

/-- What a failed device read was reading (R372). -/
inductive ReadFor where
  | descriptor (ctx : Ctx)
  | request (ctx : Ctx)
  | slot (mb : Mb)
  | press (engine : Fin 6)
  | image
  deriving DecidableEq, Repr

/-- Where a DDR5 read returned poison, if anywhere, relative to the record it touched (R175, R196). -/
inductive Poison where
  | none
  | payload
  | header
  deriving DecidableEq, Repr

/-- The signature block of a firmware image (R463); a field shorter than its place is followed by zeros. -/
structure SigBlock where
  /-- Vendor ECDSA P-384 signature, r then s. -/
  vEcdsa : List Byte
  /-- Vendor LMS signature. -/
  vLms : List Byte
  /-- Owner ECDSA P-384 public key, x then y. -/
  oEcdsaPub : List Byte
  /-- Owner ECDSA signature. -/
  oEcdsa : List Byte
  /-- Owner LMS public key. -/
  oLmsPub : List Byte
  /-- Owner LMS signature. -/
  oLms : List Byte
  deriving DecidableEq, Repr

/-- What the crypto engine finds of an image by the algorithms that the spec names and does not spell out (R463, R464). -/
structure Crypto where
  /-- SHA-384 of the body. -/
  body : List Byte
  /-- The vendor ECDSA signature verifies. -/
  vEcdsa : Bool
  /-- The vendor LMS signature verifies. -/
  vLms : Bool
  /-- SHA-384 of the owner ECDSA public key. -/
  ecdsaDig : List Byte
  /-- SHA-256 of the owner LMS public key. -/
  lmsDig : List Byte
  /-- The owner ECDSA signature verifies. -/
  oEcdsa : Bool
  /-- The owner LMS signature verifies. -/
  oLms : Bool
  deriving DecidableEq, Repr

/-- A firmware image as the crypto engine reads it (R462, R463): its header, its signature block, and what the algorithms find. -/
structure Image where
  header : List Byte
  sigs : SigBlock
  crypto : Crypto
  deriving DecidableEq, Repr

/-- No image: nothing verifies. -/
def Image.none : Image := ⟨[], ⟨[], [], [], [], [], []⟩, ⟨[], false, false, [], [], false, false⟩⟩

/-- One signature check that the crypto engine is asked for (R463): the key, the message and the signature. -/
structure SigAsk where
  key : List Byte
  message : List Byte
  sig : List Byte
  deriving DecidableEq, Repr

/-- A device's reply to a discovery probe (R268, R269): who replied, over which port of which device it was reached, its
root, its level of service, and the identity and up-state of its four ports. -/
structure ProbeReply where
  identity : W64
  reachedFrom : W64
  port : Port
  root : W64
  addr : Nat
  abutment : Bool
  ports : List (W64 × Bool)
  deriving DecidableEq, Repr

/-- A route install (R270, R271, R278): address, tree up port (7 at the root), level, table entries that change, the state and the peer
address of each port, the path
delay's alignment for a trigger root, the Seam's up port and enabled inputs, and the boundary at which it applies. -/
structure Install where
  addr : Nat
  upPort : Nat
  level : Nat
  root : W64
  stranded : Bool
  regions : List (Nat × BitVec 7)
  members : List (Nat × BitVec 7)
  ports : List (Nat × Nat)
  align : Nat
  seamUp : Nat
  seamEnable : BitVec 5
  boundary : Tm
  deriving DecidableEq, Repr

/-- The four IEEE 1588-2019 messages the device uses (R311), with the stamp each carries. -/
inductive TimeBody where
  | sync
  | followUp (t1 : Int)
  | delayReq
  | delayResp (t4 : Int)
  deriving DecidableEq, Repr

/-- A time message (R311, R312): domain, the sender's clockIdentity and portNumber, sequence, the sender's phase word, the epoch the
sender keeps, the code that the interpolator of the receiving port makes of its arrival (R86; 0 in a message that the device sends), and
the message. -/
structure TimeMsg where
  domain : Nat
  clock : W64
  port : Nat
  seq : Nat
  phase : BitVec 13
  valid : Bool
  epoch : Nat
  code : BitVec 12
  body : TimeBody
  deriving DecidableEq, Repr

/-- What the device reads from a module's SPD (R335 to R337, R339, R353). -/
structure Spd where
  gib : Nat
  density32 : Bool
  ranks : Nat
  x4 : Bool
  ecc : Bool
  speed : Fin 5
  serial : W64
  critical : Int
  deriving DecidableEq, Repr

/-- A write of a 64-bit register by halves or whole (R366). -/
inductive HalfWrite where
  | low (v : BitVec 32)
  | high (v : BitVec 32)
  | whole (v : W64)
  deriving DecidableEq, Repr

/-- A mailbox message on VC1 (R390, R391): a forwarded command with its origin device and mailbox, or a reply. -/
inductive MbFrame where
  | request (origin : Nat) (originMb : Mb) (cmd : Cmd)
  | reply (mb : Mb) (seq : BitVec 32) (status : Fin 16) (interim : Bool) (result : W64) (response : List Byte)
  deriving DecidableEq, Repr

/-- Where in the MRAM a word lies (R461). -/
inductive MramWhere where
  | slot (b : Bool)
  | config (copy : Bool)
  | log (index : Nat)
  | key (bothLost : Bool)
  | hss (word : Fin 256)
  | spare
  deriving DecidableEq, Repr

/-- A write to the MSI-X capability or table (R368). -/
inductive MsixWrite where
  | enable (on : Bool)
  | function (masked : Bool)
  | vector (n : Fin 256) (masked : Bool)
  | entry (n : Fin 256) (addr : W64) (data : BitVec 32)
  deriving DecidableEq, Repr

/-- A pin the device drives (R496). -/
inductive Pin where
  | overlightN (t : Tile)
  | tout (x : Fin 8)
  | ppsOut
  | trigOut (x : Fin 2)
  | scan (i : Nat)
  deriving DecidableEq, Repr

/-- A LINK message of R292: its code and its body fields. -/
inductive LinkMsg where
  | hello (part : Fin 5) (locked : BitVec 4) (value : BitVec 32)
  | restripe (mask locked : BitVec 4)
  | ready (locked : BitVec 4)
  | loopReq (mask : BitVec 4) (start : Bool)
  | loopAck (mask : BitVec 4) (accepted : Bool)
  deriving DecidableEq, Repr

/-- What the device sends out of itself: the model's own log of emissions (log entry 5). -/
inductive Out where
  | msix (vector : Nat)
  | pin (p : Pin) (level : Bool)
  | pulser (tiles : BitVec 16) (amp : Nat)
  | hvset (tile : Nat) (widths : List Nat)
  | vc0 (port : Nat) (frame : Vc0)
  | data (port : Nat) (frame : Frame)
  | credit (port : Nat) (credit : Credit)
  | link (port : Nat) (lanes : Nat) (msg : LinkMsg)
  | claim (port : Nat) (identity : W64)
  | probe (route : Nat) (hops : Nat)
  | probeReply (reply : ProbeReply)
  | install (identity : W64) (install : Install)
  | control (dest : Nat) (what : List Nat)
  | time (port : Nat) (msg : TimeMsg)
  | mailbox (dest : Nat) (frame : MbFrame)
  | dmaWrite (addr : Nat) (bytes : List Byte)
  | completion (mb : Nat) (entry : List Byte)
  | record (stream : Nat) (record : Rec)
  | busRead (value : W64)
  | nack (code : Nat)
  | block (bytes : List Byte)
  | jtag (bits : Nat) (value : Nat)
  | prbs (port poly rate : Nat)
  | prbsError (port : Nat)
  | ddr (ch : Nat) (op : Nat)
  deriving DecidableEq, Repr

end Sys2Proof
end

