-- ==== Sys2Proof/Syntax.lean ====
section
/-! DEFINITION. The commands of the TRL-5640: one constructor per row of the opcode table. A command that happens at an
instant carries that instant, `t`, in stitches of the device's time base (R306). -/

namespace Sys2Proof

/-- The commands, one per row of the opcode table, in the table's order. -/
inductive Instr where
  /-- A discriminator leading edge on a channel is stamped by an interpolator, absorbed as MERGED, or coarse-stamped. (R88) -/
  | leadingEdge (t : Tm) (edge : ChEdge)
  /-- A discriminator trailing edge dates the end of the hit, or only re-arms the discriminator after TOT_SAT. (R97) -/
  | trailingEdge (t : Tm) (ch : Ch)
  /-- A hit whose time over threshold reaches 4,095 cc closes with TOT_SAT. (R97) -/
  | totSaturate (t : Tm) (ch : Ch)
  /-- An interpolator finishes its conversion and discharge and becomes free. (R87) -/
  | interpolatorFree (t : Tm) (unit : Fin 271) (ip : Fin 2)
  /-- A hit's peak window is readable, so its peak is computed and the hit joins its block. (R98) -/
  | hitComplete (t : Tm) (ch : Ch) (window : List Lvl)
  /-- At each span or millisecond boundary, a hit block opens for every enabled channel. (R99) -/
  | blockIntervalStart (t : Tm)
  /-- E cc after its interval ends, or after an epoch cut, a hit block is emitted. (R99) -/
  | hitBlockEmit (t : Tm) (ch : Ch)
  /-- A housekeeping sequencer pass starts at a multiple of its period and adopts a swapped sequence. (R79) -/
  | hkPassStart (t : Tm) (tile : Tile)
  /-- A sequencer entry starts its conversion at the first sample edge that meets its start conditions. (R79) -/
  | hkEntryStart (t : Tm) (tile : Tile)
  /-- A housekeeping conversion ends, yields its result and floor outcome, and emits a housekeeping record. (R80) -/
  | hkConversionComplete (t : Tm) (tile : Tile) (sum : Nat) (sumQ : Nat) (ends : HkEnds)
  /-- An urgent conversion request is queued behind the running conversion, or refused with BUSY. (R82) -/
  | hkUrgentRequest (t : Tm) (tile : Tile) (input : Fin 24) (avg : Fin 8) (shift : Fin 9)
  /-- An impedance slot starts, injecting the tone on the channel at the head of its tile's queue. (R46) -/
  | impedanceSlotStart (t : Tm) (tile : Tile)
  /-- The detector result is ready, C and R_s are computed, and the visit is judged valid or invalid. (R47) -/
  | impedanceVisitResult (t : Tm) (tile : Tile) (ire : Int) (iim : Int) (half1 : Nat) (half2 : Nat)
  /-- The settle window ends SETTLE µs after the latest trim change. (R148) -/
  | settleWindowExpire (t : Tm) (tile : Tile)
  /-- A synchronised edge on BLANK0 or BLANK1 begins or ends that pin's activity. (R53) -/
  | blankPinEdge (t : Tm) (pin : Fin 2) (level : Bool)
  /-- The guard after the end of all blank activity in a tile expires. (R53) -/
  | blankGuardExpire (t : Tm) (tile : Tile)
  /-- A frozen conversion resumes at the housekeeping sample of the next chop phase. (R54) -/
  | conversionResume (t : Tm) (tile : Tile)
  /-- A conversion frozen longer than BLANK_MAX is abandoned. (R56) -/
  | blankMaxAbandon (t : Tm) (tile : Tile)
  /-- A tile's current sum crosses its trip limit and starts or restarts the glitch filter. (R57) -/
  | tileCurrentCross (t : Tm) (tile : Tile) (sum : Nat)
  /-- The over-light glitch filter expires and the trip latch sets the tile's outputs to the tripped state. (R58) -/
  | glitchFilterExpire (t : Tm) (tile : Tile)
  /-- The trim ramp of a tripped tile reaches code 0. (R58) -/
  | tripRampDone (t : Tm) (tile : Tile)
  /-- A write of 1 to TRIP_STATUS.TRIPPED clears the trip, or is refused with DENIED. (R59) -/
  | tripClear (t : Tm) (tile : Tile)
  /-- A write of TRIP_LIMIT takes effect at once, or is refused above the fused limit. (R60) -/
  | tripLimitWrite (t : Tm) (tile : Tile) (limit : BitVec 16)
  /-- A write of 1 to CH_STATUS.BROKEN returns the channel to service at the next boundary. (R51) -/
  | channelRestore (t : Tm) (ch : Ch)
  /-- At a second boundary the firmware starts a spare-slice rotation of a tile. (R75) -/
  | rotationStart (t : Tm) (tile : Tile)
  /-- A shadow match or rematch ends and passes or fails, moving the rotation state. (R72) -/
  | sliceMatchComplete (t : Tm) (tile : Tile) (mean : Int) (rms : Nat)
  /-- A slice calibration ends and its code-density check passes or fails. (R71) -/
  | sliceCalibrationComplete (t : Tm) (tile : Tile) (slice : Fin 17) (high : SliceFit) (low : SliceFit) (expected : Nat) (bins : BinCounts)
  /-- A calibration visit of a channel or interpolator unit starts when it is due. (R92) -/
  | tdcCalVisitStart (t : Tm) (unit : Fin 268)
  /-- A test conversion starts when both interpolators are free and no edge has come for 24 cc. (R92) -/
  | testConversionStart (t : Tm) (unit : Fin 271) (test : TestCode)
  /-- A visit completes its fit and optional code-density check, and its transfer is adopted later. (R90) -/
  | tdcCalVisitComplete (t : Tm) (unit : Fin 268) (codesA : List (BitVec 12)) (codesB : List (BitVec 12)) (codesPair : List (BitVec 12 × BitVec 12))
  /-- A visit not complete within 1 s is abandoned. (R92) -/
  | tdcCalVisitTimeout (t : Tm) (unit : Fin 268)
  /-- A transfer older than 3 × EVERY makes its channel stale. (R93) -/
  | transferStale (t : Tm) (ch : Ch)
  /-- A reference delay line loses lock; its visits stop and the old transfer stays. (R93) -/
  | dllLockLoss (t : Tm) (unit : Fin 268)
  /-- A delay line locks again and visits resume. (R93) -/
  | dllRelock (t : Tm) (unit : Fin 268)
  /-- A prescaled edge on a gauge input is counted and stamped. (R101) -/
  | gaugeEdge (t : Tm) (edge : GaugeIn)
  /-- A gate ends, its fit is computed and a gauge result record is emitted. (R103) -/
  | gaugeGateEnd (t : Tm) (g : Fin 8)
  /-- A channel condition decides true at its decision time and passes its stamp to the Truss. (R107) -/
  | conditionDecide (t : Tm) (ch : Ch) (levels : List Lvl)
  /-- The discriminator is still high T cc after the leading edge. (R107) -/
  | timeoutHighExpire (t : Tm) (ch : Ch)
  /-- No leading edge has come for T, and the quiet condition becomes true. (R107) -/
  | quietTimeoutExpire (t : Tm) (ch : Ch)
  /-- A majority window closes and the group fires if N channels counted. (R109) -/
  | groupWindowClose (t : Tm) (g : Fin 64)
  /-- A sum-rule group's sum of a sample number is complete and fires when it reaches its threshold. (R110) -/
  | groupSumComplete (t : Tm) (g : Fin 64) (n : Nat) (levels : List (Ch × Lvl))
  /-- A VC0 primitive arrives at a root and is held for equalisation. (R115) -/
  | primitiveReceive (t : Tm) (port : Port) (parts : Vc0Parts)
  /-- A primitive reaches t_eq at the root logic and opens or joins a class window. (R116) -/
  | primitiveEqualised (t : Tm) (origin : Nat) (seq : Nat)
  /-- A class window closes and an accept is emitted if ROOT_N origins contributed. (R116) -/
  | rootWindowClose (t : Tm) (cls : Fin 16)
  /-- An edge on TRIG_IN forms an accept of its class, or is ignored within 100 ns. (R118) -/
  | trigInEdge (t : Tm) (pin : Fin 2) (edge : PinEdge)
  /-- A TRIG_OUT pulse reaches its end. (R119) -/
  | trigOutPulseEnd (t : Tm) (pin : Fin 2)
  /-- A device receives an accept and acts on it, ignores it as duplicate or disabled, or refuses it. (R120) -/
  | acceptReceive (t : Tm) (port : Port) (parts : Vc0Parts)
  /-- The extractor starts the next accept in key order at S, or finds it deck-served or unmappable. (R123) -/
  | extractionStart (t : Tm)
  /-- An extraction ends; the event record is built with zero suppression and offered to the Seam. (R129) -/
  | extractionEnd (t : Tm) (window : List (Ch × List Lvl))
  /-- Event-buffer space frees and a waiting extraction may start. (R128) -/
  | eventBufferSpace (t : Tm) (bytes : Nat)
  /-- An extraction still short of buffer space at D_ring is dropped with a loss record of cause 0x06. (R128) -/
  | extractionDrop (t : Tm)
  /-- A deck reply is taken in an extractor session and built into a deck-served event. (R127) -/
  | deckReplyToExtractor (t : Tm) (acceptId : Nat) (cls : Fin 16)
  /-- A loop period starts and every enabled tile requests an urgent HVMON conversion. (R137) -/
  | loopPeriodStart (t : Tm)
  /-- Once its measurement is complete, a tile's control law computes its output. (R140) -/
  | loopCompute (t : Tm) (tile : Tile)
  /-- At P/2 the outputs of every tile are applied to the trims and HVSET. (R135) -/
  | loopOutputApply (t : Tm)
  /-- No clean current has arrived for CUR_HOLD ms, so CUR_STALE is set. (R139) -/
  | curHoldExpire (t : Tm) (tile : Tile)
  /-- A completed hit above SNIP_PEAK has its snippet read from the ring. (R153) -/
  | snippetRead (t : Tm) (ch : Ch) (hitTb : Tm) (levels : List Lvl)
  /-- The deck writer writes a block interval's records in key order with thinning. (R157) -/
  | deckWriteInterval (t : Tm)
  /-- A rewind request is checked and queued, or refused. (R167) -/
  | rewindRequest (t : Tm) (ctx : Ctx) (desc : List Byte)
  /-- A request reaches a free session, looks up its start span and sends the opening record. (R168) -/
  | deckSessionOpen (t : Tm) (sid : Fin 128)
  /-- A deck read completes and its records are delivered, or the session is found overtaken. (R169) -/
  | deckReadComplete (t : Tm) (sid : Fin 128) (poison : Poison)
  /-- The write point advances and a session that waited at it continues. (R171) -/
  | writePointAdvance (t : Tm) (sid : Fin 128)
  /-- A hem mark arrives on VC1 and waits for the records it counts. (R184) -/
  | hemMarkReceive (t : Tm) (port : Port) (mark : Rec)
  /-- A mark whose records have arrived is applied, discarded as backward, or closes its input. (R184) -/
  | hemMarkApply (t : Tm) (input : SeamIn)
  /-- A hem mark falls due at a multiple of the hem interval. (R182) -/
  | hemMarkPeriodic (t : Tm)
  /-- A mark that fell due within the minimum gap is sent at the gap's end. (R182) -/
  | hemMarkGapExpire (t : Tm)
  /-- A main-stream record arrives at a Seam input and its cells are admitted. (R193) -/
  | seamRecordArrive (t : Tm) (input : SeamIn) (record : Rec)
  /-- The Seam releases the smallest head below the release point into the egress queue. (R185) -/
  | seamRelease (t : Tm)
  /-- An input whose hem has not advanced for FRAY is declared frayed with a loss record. (R188) -/
  | frayTimeout (t : Tm) (input : SeamIn)
  /-- A spill segment write completes and is released for read-back. (R195) -/
  | spillWriteComplete (t : Tm) (input : SeamIn)
  /-- The Seam reads an input's spill back in order when its queue and space allow. (R195) -/
  | spillReadback (t : Tm) (input : SeamIn) (poison : Poison)
  /-- A PROD write posts buffer descriptors, or is ignored on overrun. (R213) -/
  | ctxDoorbellWrite (t : Tm) (ctx : Ctx) (prod : BitVec 16)
  /-- A PROD write posts rewind request entries to the context. (R207) -/
  | ctxReqDoorbellWrite (t : Tm) (ctx : Ctx) (prod : BitVec 16)
  /-- A write of 1 to ARM arms the context's notification. (R214) -/
  | ctxNotifyArm (t : Tm) (ctx : Ctx)
  /-- OP = 1 creates a context after admission checks. (R215) -/
  | ctxCreate (t : Tm) (ctx : Ctx)
  /-- OP = 2 starts draining a context and cancels its rewind session and hold. (R215) -/
  | ctxDestroy (t : Tm) (ctx : Ctx)
  /-- OP = 3 rebinds a context to its host ring and resumes its stream. (R216) -/
  | ctxRebind (t : Tm) (ctx : Ctx)
  /-- The last unit of a draining context completes and it becomes FREE. (R215) -/
  | ctxDrainComplete (t : Tm) (ctx : Ctx)
  /-- The device reads a request ring entry and writes its status back. (R207) -/
  | requestEntryRead (t : Tm) (ctx : Ctx) (desc : List Byte)
  /-- The device fetches a posted buffer descriptor, or writes it back BAD. (R212) -/
  | descriptorFetch (t : Tm) (ctx : Ctx) (desc : List Byte)
  /-- A link scheduler grants a unit to a floor-due or highest-class eligible context. (R219) -/
  | schedulerGrant (t : Tm) (link : Fin 6)
  /-- A unit's data reaches its destination, and a full buffer is written back. (R212) -/
  | unitTransferComplete (t : Tm) (link : Fin 6)
  /-- A DETACH context holding a full egress queue too long is moved to the end with a loss record. (R204) -/
  | egressDetach (t : Tm) (ctx : Ctx)
  /-- An egress coalescer's timer expires and it flushes its partial unit. (R439) -/
  | coalescerTimeout (t : Tm) (ctx : Ctx)
  /-- A mailbox compress job is checked and queued for a mailbox engine. (R239) -/
  | pressCompressJob (t : Tm) (mb : Mb) (cmd : Cmd)
  /-- A mailbox decompress job is checked and queued for a mailbox engine. (R239) -/
  | pressDecompressJob (t : Tm) (mb : Mb) (cmd : Cmd)
  /-- A queued job starts on the lowest free mailbox engine. (R248) -/
  | pressJobStart (t : Tm)
  /-- A job ends OK, NO_SPACE or CHECK_FAIL and returns its result. (R241) -/
  | pressJobComplete (t : Tm) (engine : Fin 6) (input : List Byte) (poisoned : Bool) (memError : Bool)
  /-- A context job ends, emitting its container or a loss record of cause 0x08. (R238) -/
  | pressContextJobComplete (t : Tm) (ctx : Ctx) (failed : Bool)
  /-- Data is written into the on-die press buffer. (R398) -/
  | pressBufWrite (t : Tm) (mb : Mb) (cmd : Cmd)
  /-- Data is returned from the on-die press buffer. (R398) -/
  | pressBufRead (t : Tm) (mb : Mb) (cmd : Cmd)
  /-- An ALIGN block arrives and the lanes are deskewed on it. (R253) -/
  | alignBlock (t : Tm) (lane : Lane) (mask : BitVec 4) (index : BitVec 2)
  /-- A CREDIT block returns credit, acknowledges frames, or requests a replay by NAK. (R258) -/
  | creditBlock (t : Tm) (port : Port) (credit : Credit)
  /-- A record data frame is received whole, checked and forwarded or reassembled. (R257) -/
  | recordFrame (t : Tm) (port : Port) (frame : Frame)
  /-- No acknowledgement within 2 µs makes the sender replay, or declare the port down after eight. (R259) -/
  | replayTimeout (t : Tm) (port : Port)
  /-- An inbound credit frame returns window credit to a sender. (R208) -/
  | inboundCredit (t : Tm) (ctx : Ctx) (units : Nat)
  /-- A claim frame is forwarded, or withdraws a claimant with a higher identity. (R265) -/
  | claimFrame (t : Tm) (port : Port) (identity : W64)
  /-- A claimant that saw no lower identity for a window becomes root and starts discovery. (R265) -/
  | claimWindowExpire (t : Tm)
  /-- A source-routed probe reaches a device, which replies. (R268) -/
  | discoveryProbe (t : Tm) (port : Port) (src : Nat) (route : W64)
  /-- The root takes a probe reply and extends the breadth-first tree. (R268) -/
  | discoveryReply (t : Tm) (reply : ProbeReply)
  /-- A route install is stored as pending for its named boundary. (R270) -/
  | routeInstall (t : Tm) (install : Install)
  /-- A port change reaches the root, which recomputes tree and tables and sends installs. (R275) -/
  | portChangeReport (t : Tm) (identity : W64) (port : Port) (up : Bool)
  /-- Loss of the clock parent puts the PLL into frequency holdover. (R262) -/
  | clockParentLost (t : Tm)
  /-- A port's new hop delay measurement completes and takes effect at the next boundary. (R297) -/
  | hopDelayMeasured (t : Tm) (port : Port) (delay : Nat)
  /-- A lane's phase loop locks. (R291) -/
  | laneCdrLock (t : Tm) (lane : Lane)
  /-- A lane gains block lock after 64 valid sync headers. (R291) -/
  | laneBlockLock (t : Tm) (lane : Lane)
  /-- A lane loses block lock, and an active lane starts a re-stripe. (R295) -/
  | laneLockLoss (t : Tm) (lane : Lane) (loss : LockLoss)
  /-- No input transitions for 16 block times cost a lane its block lock. (R291) -/
  | laneNoTransitions (t : Tm) (lane : Lane)
  /-- HELLO parts are received, the port width is chosen and the peer is judged. (R294) -/
  | hello (t : Tm) (lane : Lane) (part : Fin 5) (locked : BitVec 4) (value : BitVec 32)
  /-- A RESTRIPE message switches the receiver and answers to reconcile the lane set. (R295) -/
  | restripe (t : Tm) (port : Port) (mask : BitVec 4) (locked : BitVec 4)
  /-- An unanswered RESTRIPE is resent every 128 ns. (R295) -/
  | restripeResend (t : Tm) (port : Port)
  /-- A re-stripe incomplete at 2 µs declares the port down. (R295) -/
  | restripeTimeout (t : Tm) (port : Port)
  /-- LANE_READY reports the peer has locked a standby lane. (R298) -/
  | laneReady (t : Tm) (port : Port) (locked : BitVec 4)
  /-- A standby lane has been good for HOLD_MS. (R298) -/
  | rejoinHoldExpire (t : Tm) (lane : Lane)
  /-- Transmitters widen at the first ALIGN slot after the boundary following hold and LANE_READY. (R298) -/
  | laneRejoin (t : Tm) (port : Port)
  /-- A retraining lane not in STANDBY within 100 ms returns to DETECT. (R301) -/
  | laneRetrainTimeout (t : Tm) (lane : Lane)
  /-- A far-end loopback request is accepted or refused by the peer. (R302) -/
  | loopReq (t : Tm) (port : Port) (mask : BitVec 4) (start : Bool)
  /-- A loopback answer completes the far-end request. (R302) -/
  | loopAck (t : Tm) (port : Port) (mask : BitVec 4) (accepted : Bool)
  /-- No LOOP_ACK within 1 ms ends the request with TIMEOUT. (R302) -/
  | farLoopTimeout (t : Tm) (lane : Lane)
  /-- A LANE_LOOP write starts or ends a loopback, or is refused on an active lane. (R302) -/
  | laneLoopWrite (t : Tm) (lane : Lane) (value : BitVec 3)
  /-- A write injects one inverted bit into the PRBS stream. (R303) -/
  | prbsInject (t : Tm) (port : Port)
  /-- The PRBS checker gains or loses lock. (R303) -/
  | prbsCheckerLock (t : Tm) (port : Port) (received : List Bool) (run : Nat) (more : List Bool)
  /-- A PTP time message is received and stamped. (R312) -/
  | timeMessage (t : Tm) (port : Port) (msg : TimeMsg)
  /-- An exchange yields delay and θ, refined by link phase. (R313) -/
  | syncExchangeComplete (t : Tm) (port : Port) (ownPhase : Nat)
  /-- A slew of the time base completes. (R315) -/
  | slewComplete (t : Tm)
  /-- Eight Sync intervals without a valid exchange or master put a locked device into holdover. (R317) -/
  | holdoverEnter (t : Tm)
  /-- A PPS_IN edge at the root is stamped and enters the servo. (R310) -/
  | ppsInEdge (t : Tm) (edge : PinEdge)
  /-- 2 s without a PPS_IN edge put the root into holdover. (R317) -/
  | ppsInMissing (t : Tm)
  /-- A forced step is checked and made pending for its boundary, and distributed with FABRIC. (R320) -/
  | timeStep (t : Tm) (mb : Mb) (cmd : Cmd)
  /-- The pending sets due at a boundary close 2 µs before it. (R324) -/
  | swapCutoff (t : Tm)
  /-- Every staged value takes effect at once and span anchors are recorded. (R324) -/
  | spanBoundary (t : Tm) (badWords : List Nat)
  /-- A command releases armed swap classes for the first boundary after the release. (R325) -/
  | swapCommit (t : Tm) (mb : Mb) (cmd : Cmd)
  /-- A write of SWAP_CFG.ARMED holds or releases swap classes at once. (R325) -/
  | swapCfgWrite (t : Tm) (armed : BitVec 8)
  /-- A timed output pulse starts at its programmed edge time. (R327) -/
  | toutPulse (t : Tm) (x : Fin 8)
  /-- PPS_OUT rises at every whole TAI second. (R328) -/
  | ppsOutEdge (t : Tm)
  /-- A write of ACT_CFG arms or disarms a scheduled-action entry, with lateness judged. (R330) -/
  | actCfgArm (t : Tm) (entry : Fin 64) (value : BitVec 32)
  /-- The schedule command fills the lowest empty entry in one step. (R400) -/
  | schedule (t : Tm) (mb : Mb) (cmd : Cmd)
  /-- A due kind-1 action makes the calibration pulser inject charge. (R329) -/
  | actionPulser (t : Tm) (entry : Fin 64)
  /-- A due kind-2 action pulses a TOUT. (R329) -/
  | actionToutPulse (t : Tm) (entry : Fin 64)
  /-- A due kind-3 action releases armed swap classes. (R329) -/
  | actionSwapRelease (t : Tm) (entry : Fin 64)
  /-- A due kind-4 action raises source 72 for the firmware. (R329) -/
  | actionFirmware (t : Tm) (entry : Fin 64)
  /-- A start-up training step of a channel completes, or fails and is retried. (R339) -/
  | ddrTrainingStep (t : Tm) (ch : DdrCh) (passed : Bool) (spd : Spd)
  /-- A refresh interval falls due and is paid, or postponed under panic. (R342) -/
  | refreshDue (t : Tm) (ch : DdrCh)
  /-- The deck writer's buffer passes LEVEL and panic begins on the channel. (R345) -/
  | panicBegin (t : Tm) (ch : DdrCh) (level : Nat)
  /-- The buffer falls below RELEASE and panic ends. (R345) -/
  | panicEnd (t : Tm) (ch : DdrCh) (level : Nat)
  /-- After panic, owed refresh intervals are repaid one every 1 µs. (R345) -/
  | refreshRepay (t : Tm) (ch : DdrCh)
  /-- The scrubber reads one access and writes back a correction or records an uncorrectable. (R347) -/
  | ddrScrubRead (t : Tm) (addr : Nat) (result : Fin 3) (written : Bool)
  /-- A periodic retraining step of one rank and subchannel runs. (R348) -/
  | ddrRetrainStep (t : Tm) (ch : DdrCh) (passed : Bool)
  /-- A parity or write-CRC alert makes the controller replay commands since the last good one. (R349) -/
  | ddrAlert (t : Tm) (ch : DdrCh) (writeCrc : Bool) (failedReplays : Nat)
  /-- A DDR5 read completes, corrected or re-read and poisoned. (R350) -/
  | ddrReadComplete (t : Tm) (ch : DdrCh) (addr : Nat) (tries : List (Fin 3)) (device : Fin 20) (rank : Fin 8)
  /-- A fence completes when all earlier requests of its sources have completed. (R351) -/
  | ddrFence (t : Tm)
  /-- The module temperature is read every second, with limits applied. (R337) -/
  | spdTempRead (t : Tm) (ch : DdrCh) (temp : Int)
  /-- MR4 is read every 32 ms and tREFI follows it. (R338) -/
  | mr4Read (t : Tm) (ch : DdrCh) (hot : Bool)
  /-- The memory-restart command retrains the memory after a failed service return. (R352) -/
  | memRestart (t : Tm) (mb : Mb) (cmd : Cmd)
  /-- Data is read from a DDR5 area. (R398) -/
  | memRead (t : Tm) (mb : Mb) (cmd : Cmd) (poisoned : List Nat)
  /-- Data is written into a DDR5 area. (R398) -/
  | memWrite (t : Tm) (mb : Mb) (cmd : Cmd)
  /-- Data is read from a context's DDR5 region and CTX_DDR_RD advances. (R398) -/
  | regionRead (t : Tm) (mb : Mb) (cmd : Cmd) (poisoned : List Nat)
  /-- A low-half read returns the live low half and latches the high half in the slot. (R364) -/
  | snapLowRead (t : Tm) (slot : Fin 4) (reg : Fin 7)
  /-- A high-half read returns the snapshot, or the live half with MISS set. (R364) -/
  | snapHighRead (t : Tm) (slot : Fin 4) (reg : Fin 7)
  /-- An 8-byte read returns one coherent value and latches SNAP_TIME_X for SNAP_TIME_NS. (R365) -/
  | snapWholeRead (t : Tm) (slot : Fin 4) (reg : Fin 7)
  /-- A low-half write is staged and a high-half write commits both halves. (R366) -/
  | reg64HalfWrite (t : Tm) (mb : Fin 2) (reg : Fin 2) (half : HalfWrite)
  /-- A W1C write clears host pending bits, losing to a raise in the same cycle. (R367) -/
  | evPendingClear (t : Tm) (g : Fin 8) (value : BitVec 32) (raised : BitVec 32)
  /-- A mask write that unmasks a pending source makes a message fall due. (R368) -/
  | evMaskWrite (t : Tm) (g : Fin 8) (value : BitVec 32)
  /-- A write raises a source in the host latch only. (R367) -/
  | evTest (t : Tm) (source : Fin 256)
  /-- PERST_N or another reset cause resets only the PCI Express block. (R373) -/
  | hostReset (t : Tm)
  /-- The PCI Express link trains up, or retrains to another rate or width. (R375) -/
  | hostLinkUp (t : Tm) (gen : Fin 6) (width : Fin 9) (mps : Fin 3)
  /-- Clearing Bus Master Enable counts as loss of every host destination. (R375) -/
  | busMasterDisable (t : Tm)
  /-- Entry to D3hot holds DMA and messages, and D0 resumes them. (R375) -/
  | powerStateChange (t : Tm) (d3hot : Bool)
  /-- A device read fails and the affected context, mailbox or job reacts. (R372) -/
  | deviceReadFail (t : Tm) (what : ReadFor) (how : ReadEnd)
  /-- A write of ENABLE turns a host mailbox on or off. (R385) -/
  | mbEnableWrite (t : Tm) (mb : Fin 2) (on : Bool)
  /-- A DOORBELL.PROD write posts command slots. (R385) -/
  | mbDoorbellWrite (t : Tm) (mb : Fin 2) (prod : BitVec 16)
  /-- A CQ_DOORBELL write frees completion entries. (R383) -/
  | mbCqDoorbellWrite (t : Tm) (mb : Fin 2) (head : BitVec 16)
  /-- The firmware reserves an entry, reads a posted slot and checks its header. (R385) -/
  | mbFetch (t : Tm) (mb : Mb) (slot : List Byte)
  /-- A state-changing command's change stands in a committed checkpoint and its completion posts. (R387) -/
  | commandCommit (t : Tm)
  /-- A command running in the background finishes and posts its final entry. (R384) -/
  | backgroundComplete (t : Tm) (mb : Mb) (seq : BitVec 32) (status : Fin 16) (result : W64)
  /-- A KIND 5 frame delivers a remote command to MB2 or returns a reply. (R390) -/
  | mailboxFrame (t : Tm) (frame : MbFrame)
  /-- No reply within timeout_ms completes a remote command with TIMEOUT. (R391) -/
  | remoteTimeout (t : Tm) (mb : Mb) (seq : BitVec 32)
  /-- The payload is returned unchanged. (R398) -/
  | echo (t : Tm) (mb : Mb) (cmd : Cmd)
  /-- The firmware version, slot, grade, address, identity and h values are returned. (R398) -/
  | identify (t : Tm) (mb : Mb) (cmd : Cmd)
  /-- The listed parameters are read in order. (R395) -/
  | paramGet (t : Tm) (mb : Mb) (cmd : Cmd)
  /-- One parameter is set under the mask, checked, and made pending or applied. (R396) -/
  | paramSet (t : Tm) (mb : Mb) (cmd : Cmd)
  /-- Several parameters are checked together and made pending all or none. (R397) -/
  | paramSetMulti (t : Tm) (mb : Mb) (cmd : Cmd)
  /-- The firmware releases an at_ns class before the cutoff of its boundary. (R397) -/
  | atNsRelease (t : Tm) (cls : Fin 8)
  /-- The configuration is saved to the alternate store copy, deferred to the permitted minute. (R461) -/
  | configSave (t : Tm) (mb : Mb) (cmd : Cmd)
  /-- A deferred configuration save is committed at the permitted minute. (R32) -/
  | configSaveDeferred (t : Tm)
  /-- The configuration store or the reset values are loaded for the next boundary. (R403) -/
  | configLoad (t : Tm) (mb : Mb) (cmd : Cmd)
  /-- A calibration visit of a channel is requested. (R398) -/
  | tdcCalVisit (t : Tm) (mb : Mb) (cmd : Cmd)
  /-- A root emits an accept of the given class and time at once. (R398) -/
  | softAccept (t : Tm) (mb : Mb) (cmd : Cmd)
  /-- A rewind descriptor is placed for its context. (R398) -/
  | deckRewind (t : Tm) (mb : Mb) (cmd : Cmd)
  /-- A hold-only hold of the context and tag is cancelled. (R398) -/
  | holdCancel (t : Tm) (mb : Mb) (cmd : Cmd)
  /-- The device floods a claim to become fabric root. (R265) -/
  | rootClaim (t : Tm) (mb : Mb) (cmd : Cmd)
  /-- The root ends its rootship, keeping routes and addresses. (R266) -/
  | rootRelease (t : Tm) (mb : Mb) (cmd : Cmd)
  /-- Address plan entries are held, and checked for closed regions on LAST. (R264) -/
  | addrPlan (t : Tm) (mb : Mb) (cmd : Cmd)
  /-- The root returns its discovered topology. (R398) -/
  | topologyRead (t : Tm) (mb : Mb) (cmd : Cmd)
  /-- A firmware image is loaded into a slot and verified. (R466) -/
  | fwLoad (t : Tm) (mb : Mb) (cmd : Cmd) (image : Image) (read : ReadEnd)
  /-- The boot slot for the next boot is selected. (R398) -/
  | slotSelect (t : Tm) (mb : Mb) (cmd : Cmd)
  /-- The active pier hands the lease to a synchronised standby as planned. (R416) -/
  | failover (t : Tm) (mb : Mb) (cmd : Cmd)
  /-- The Keystone status, health words and denied count are returned. (R398) -/
  | health (t : Tm) (mb : Mb) (cmd : Cmd)
  /-- Data and check bits are written raw into a memory's test row. (R433) -/
  | checkerWriteRaw (t : Tm) (mb : Mb) (cmd : Cmd) (sigOk : Bool)
  /-- A test-row word is read raw with its decode result. (R433) -/
  | checkerReadRaw (t : Tm) (mb : Mb) (cmd : Cmd) (sigOk : Bool)
  /-- A one-shot error is armed for the next write to a queue word. (R434) -/
  | checkerInject (t : Tm) (mb : Mb) (cmd : Cmd) (sigOk : Bool)
  /-- The armed flip bits are inverted in the next functional write to the word. (R434) -/
  | injectApply (t : Tm)
  /-- Whole log records are returned in index order. (R454) -/
  | recRead (t : Tm) (mb : Mb) (cmd : Cmd)
  /-- A token-authorised clear writes a clear record and makes older records unreadable. (R456) -/
  | recClear (t : Tm) (mb : Mb) (cmd : Cmd) (sigOk : Bool)
  /-- A fresh 48-byte nonce is issued for the mailbox. (R475) -/
  | nonce (t : Tm) (mb : Mb) (cmd : Cmd)
  /-- A nonce expires 60 s after issue. (R475) -/
  | nonceExpire (t : Tm) (mb : Mb)
  /-- An attestation report is signed with the identity key and an HSS index. (R472) -/
  | attest (t : Tm) (mb : Mb) (cmd : Cmd)
  /-- MB4 returns the slot and abutment status. (R394) -/
  | mb4Status (t : Tm) (seq : BitVec 16)
  /-- MB4 reboots the control cores or the whole device. (R394) -/
  | mb4Reset (t : Tm) (seq : BitVec 16) (arg0 : BitVec 32) (arg1 : BitVec 32)
  /-- MB4 selects the boot slot. (R394) -/
  | mb4SlotSelect (t : Tm) (seq : BitVec 16) (arg0 : BitVec 32)
  /-- MB4 loads an image into a slot by DMA and verifies it. (R394) -/
  | mb4FwLoad (t : Tm) (seq : BitVec 16) (slot : Fin 2) (arg0 : BitVec 32) (arg1 : BitVec 32) (bytes : Nat) (image : Image) (read : ReadEnd)
  /-- An SMBus block write appends bytes to the MB3 command buffer. (R392) -/
  | smbCmdAppend (b : SmbAt) (data : List Byte) (pecOk : Bool)
  /-- An SMBus write of the total length starts the MB3 command. (R392) -/
  | smbCmdStart (b : SmbAt) (total : BitVec 32) (pecOk : Bool)
  /-- An SMBus block read returns the last completion entry. (R392) -/
  | smbReadCompletion (b : SmbAt)
  /-- An SMBus block read returns the next response bytes. (R392) -/
  | smbReadResponse (b : SmbAt) (n : Fin 241)
  /-- An SMBus write starts an MB4 command in the Keystone. (R392) -/
  | smbMb4Start (b : SmbAt) (opcode : BitVec 16) (seq : BitVec 16) (arg0 : BitVec 32) (arg1 : BitVec 32) (pecOk : Bool)
  /-- An SMBus read returns the MB4 status and result. (R392) -/
  | smbMb4Read (b : SmbAt)
  /-- An update of MB5_DATA appends 4 bytes, or a capture returns 4 response bytes. (R508) -/
  | mb5Data (t : Tm) (update : Option (BitVec 32))
  /-- MB5_CTRL.GO starts the JTAG mailbox command. (R508) -/
  | mb5Go (t : Tm)
  /-- MB5_CTRL.PTR_RESET returns the command and response pointer to byte 0. (R508) -/
  | mb5PtrReset (t : Tm)
  /-- The boundary scan drives the balls, taking them from function. (R509) -/
  | extest (t : Tm)
  /-- The 32-bit IDCODE register is selected. (R508) -/
  | idcode (t : Tm)
  /-- The boundary scan samples or preloads the balls. (R508) -/
  | samplePreload (t : Tm) (cells : List Bool)
  /-- AC-coupled lanes are tested by pulses under IEEE 1149.6. (R509) -/
  | extestPulse (t : Tm)
  /-- AC-coupled lanes are tested by pulse trains under IEEE 1149.6. (R509) -/
  | extestTrain (t : Tm)
  /-- The balls are held from the boundary cells with bypass selected. (R509) -/
  | clamp (t : Tm)
  /-- The balls float with bypass selected. (R509) -/
  | highz (t : Tm)
  /-- The 1-bit bypass register is selected. (R508) -/
  | bypass (t : Tm)
  /-- TRST_N resets the test access port and MB5. (R483) -/
  | trstNAssert (t : Tm)
  /-- A renew word resets the lease counter, or is ignored for a stale generation. (R406) -/
  | leaseRenew (t : Tm) (pier : Pier) (gen : BitVec 16)
  /-- A pier publishes its health word to the Keystone. (R407) -/
  | healthWordPublish (t : Tm) (pier : Pier) (word : BitVec 32)
  /-- The lease expires and is revoked, at once or 1 cc after the boundary. (R409) -/
  | leaseExpire (t : Tm)
  /-- A healthy pier is granted the lease by warm or cold promotion. (R409) -/
  | leaseGrant (t : Tm) (pier : Pier)
  /-- A reset pier not healthy within 500 ms is failed. (R408) -/
  | pierHealthTimeout (t : Tm) (pier : Pier)
  /-- A heartbeat-and-health record is emitted per span in abutment or per second normally. (R419) -/
  | heartbeatEmit (t : Tm) (temp : Int)
  /-- At B + 40 µs the active pier writes the commit mark of a delta set. (R411) -/
  | checkpointMark (t : Tm) (bytes : Nat) (crossed : Bool)
  /-- The standby's acknowledgement commits the checkpoint. (R411) -/
  | checkpointAck (t : Tm) (accepted : Bool)
  /-- No acknowledgement within 20 µs makes the standby unsynchronised. (R414) -/
  | checkpointAckTimeout (t : Tm)
  /-- Every 100 ms the active pier copies its state to an unsynchronised standby. (R414) -/
  | fullCopy (t : Tm)
  /-- A standby self-test pass completes and sets TEST_PASS or FAULT. (R417) -/
  | selfTestPassEnd (t : Tm) (fault : BitVec 8)
  /-- A MAINT_CTRL start is judged by the interlock matrix. (R421) -/
  | maintStart (t : Tm) (act : Fin 8) (unit : Nat) (byHost : Bool)
  /-- A deferred activity starts at the boundary after the blocking activity ends. (R421) -/
  | maintDeferredStart (t : Tm) (act : Fin 8) (unit : Nat)
  /-- The SRAM scrubber reads a word and writes back a correction. (R431) -/
  | sramScrubRead (t : Tm) (memory : Fin 19) (addr : Nat) (result : Fin 3) (written : Bool)
  /-- An occurrence coalesces into the open record or takes a token, or is dropped. (R446) -/
  | recOccurrence (t : Tm) (pier : Pier) (code : BitVec 16) (severity : Fin 8) (detail : List Byte)
  /-- An open record closes after REPEAT_MS. (R446) -/
  | recRepeatExpire (t : Tm)
  /-- A record's MRAM write completes header last and is exported. (R455) -/
  | recMramWriteComplete (t : Tm)
  /-- At start-up the recorder scans the log and resumes after its last valid record. (R453) -/
  | recScan (t : Tm)
  /-- The MRAM scrubber reads a word and acts on errors by location. (R461) -/
  | mramScrubRead (t : Tm) (loc : MramWhere) (result : Fin 3)
  /-- A write raises SEC_SVN.MIN to the running image's svn. (R467) -/
  | svnCommit (t : Tm)
  /-- A write of OWNER_REQUIRE is accepted or refused with DENIED. (R468) -/
  | ownerRequireWrite (t : Tm) (value : Bool)
  /-- A write of 1 to OWNER_LOCK locks the owner settings, or is refused. (R468) -/
  | ownerLockWrite (t : Tm)
  /-- The boot ROM verifies both slots and starts one, or enters abutment mode. (R465) -/
  | bootVerify (t : Tm) (slotA : Image) (slotB : Image)
  /-- POR_N resets the whole device. (R483) -/
  | porNAssert (t : Tm) (width : Nat)
  /-- POR_N is released and start-up begins. (R482) -/
  | porNRelease (t : Tm)
  /-- The Keystone classifies CLKREF_IN by counting, or repeats every 10 ms. (R486) -/
  | clkrefClassify (t : Tm) (count : Nat)
  /-- A PLL locks and its domains leave reset. (R485) -/
  | pllLock (t : Tm) (pll : Fin 5)
  /-- A core PLL phase error over 1 ns for 10 µs resets the whole device. (R487) -/
  | corePllLockLoss (t : Tm)
  /-- A rail leaves or returns within its tolerance. (R481) -/
  | railOutOfTolerance (t : Tm) (rail : Fin 9) (out : Bool)
  /-- A rail 10 % low for 1 µs resets the whole device. (R481) -/
  | brownOut (t : Tm) (rail : Fin 9)
  /-- After reset OVERLIGHT_N is released once the tile summer is valid and below limit for 100 µs. (R484) -/
  | overlightRelease (t : Tm) (tile : Tile) (sum : Nat)
  /-- A die temperature reading sets or clears warning and throttling. (R491) -/
  | thermalReading (t : Tm) (sensor : Fin 17) (temp : Int)
  /-- A sensor above 120 °C for 100 µs resets the whole device. (R493) -/
  | thermalShutdown (t : Tm)
  /-- The shutdown reset is released after every sensor stays below 95 °C for 1 s. (R493) -/
  | thermalShutdownRelease (t : Tm)
  /-- A write to a register without a row of its own takes effect by its access code. (R6) -/
  | registerWrite (t : Tm) (bar : Fin 2) (offset : Nat) (size : Nat) (value : W64)
  /-- Every 2^SYNC_LOG s each port sends its Sync with Follow_Up and its Delay_Req, and the link-phase average of R314 closes. (R311) -/
  | syncInterval (t : Tm) (meas : SyncMeas)
  /-- A step that the root distributes on VC1 with FABRIC set reaches a device and is made pending for its boundary B. (R320) -/
  | distributedStep (t : Tm) (epoch : Nat) (b : Tm) (toTarget : Bool) (val : Int)
  /-- The root receives a device's acknowledgement of a route install and names the boundary two spans after the last acknowledgement. (R270) -/
  | routeInstallAck (t : Tm) (identity : W64)
  /-- A TOUT pulse reaches the end of its width and the output returns to its inactive level. (R327) -/
  | toutPulseEnd (t : Tm) (x : Fin 8)
  /-- PPS_OUT falls OUT_WIDTH ms after its rising edge at the second. (R328) -/
  | ppsOutFall (t : Tm)
  /-- A write that clears a vector's Mask bit or the Function Mask, or sets MSI-X Enable, sends the messages held in the pending bit array. (R368) -/
  | msixMaskWrite (t : Tm) (what : MsixWrite)
  /-- Release of PERST_N starts PCI Express link training within 1 ms. (R375) -/
  | perstNRelease (t : Tm)
  deriving DecidableEq, Repr

end Sys2Proof
end

