-- ==== Sys2Proof/Config.lean ====
section
/-! DEFINITION. The free values: what the spec leaves open is an opaque constant here, so that nothing can be proved of its
value. Each is applied to the operands it depends on, or to the State's counter `free` (a fresh value each time). Log entry 2. -/

namespace Sys2Proof.Config

/-- A fresh value of the entropy source: byte `i` of the `n`-th draw (R475: a nonce is drawn from a random bit generator). -/
opaque entropy : Nat → Nat → Byte
/-- The SHA-384 of a byte string (R462, R465, R472); the spec names the algorithm and the model does not spell it out. -/
opaque sha384 : List Byte → List Byte
/-- The identity key's ECDSA P-384 signature, 96 B, over a message (R472); the key is generated inside the die (R470). -/
opaque ecdsaSign : List Byte → List Byte
/-- The HSS signature, 3,284 B, with index q over a message (R472, R474). -/
opaque hssSign : Nat → List Byte → List Byte
/-- A result the spec does not state for these operands, where the instruction otherwise completes (log entry 2). -/
opaque unstated : Nat → List Int → Nat
/-- The contents of a DDR5 byte that nothing has written, in an area that start-up does not clear (R340). -/
opaque ddrUnwritten : Nat → Byte
/-- The device certificate of R471, whose bytes the issuing authority chooses. -/
opaque certificate : List Byte
/-- The vendor ECDSA public key and the vendor LMS public key that the boot ROM holds; neither can be changed (R463). -/
opaque vendorKeys : List Byte × List Byte
/-- The SHA-384 of the boot ROM (R472). -/
opaque romDigest : List Byte
/-- The part of a path's VC0 delay that other devices measured, in stitches, by origin and route set (R115, R282; log entry 19). -/
opaque farDelay : Nat → Nat → Nat

/-- The seven check bits of a ring word over its 52 data bits: the spec names a SEC-DED code and does not give it (R68; log
entry 83). -/
opaque ringCheck : Nat → BitVec 7

/-- The fused offset, in stitches, of a gauge pin, a trigger or PPS pin or a port, by unit (R101, R118, R310, R312; log entry 90). -/
opaque pinFused : Nat → Int

/-- How much longer than its shortest length a lease lasts, in stitches, by lease generation (R406; log entry 54). -/
opaque leaseSpread : Nat → Nat

end Sys2Proof.Config
end

