-- ==== Sys2Proof/Machine/Bits.lean ====
section
/-! DEFINITION. Bytes and fields: little-endian conversion (R14), bit fields (R4), sign extension, saturating counters,
check codes (CRC-32C of R229, CRC-16 of R255), sparse tables in canonical form, and the shapes of a firmware parameter. -/

namespace Sys2Proof.Machine

/-- One nanosecond in stitches (R3). -/
def nsSt : Nat := 3072
/-- One core cycle in stitches (R3). -/
def ccSt : Nat := 1024
/-- One sample clock in stitches (R3). -/
def scSt : Nat := 2048
/-- One microsecond in stitches. -/
def usSt : Nat := 3072 * 1000
/-- One millisecond in stitches. -/
def msSt : Nat := 3072 * 1000000
/-- One second in stitches. -/
def secSt : Nat := 3072 * 1000000000
/-- One housekeeping sample, 64 cc (R78). -/
def hkSt : Nat := 64 * 1024

/-- The time_ns of an instant (R307). -/
def tbNs (t : Tm) : Nat := t / nsSt
/-- The stitch of an instant (R306). -/
def tbStitch (t : Tm) : Nat := t % nsSt

/-- `n` rounded up to a whole number of `k`, divided by `k`. -/
def ceilDiv (n k : Nat) : Nat := (n + k - 1) / k

/-- `n` bytes of `v`, little-endian (R14). -/
def le : Nat → Nat → List Byte
  | 0, _ => []
  | n + 1, v => BitVec.ofNat 8 v :: le n (v / 256)

/-- The unsigned value of little-endian bytes (R14). -/
def ofLe : List Byte → Nat
  | [] => 0
  | b :: bs => b.toNat + 256 * ofLe bs

/-- `n` little-endian bytes of a signed value, in two's complement. -/
def leInt (n : Nat) (v : Int) : List Byte := le n (v % (256 ^ n : Nat)).toNat

/-- Bytes `off` to `off + n - 1` of a layout, as an unsigned value; absent bytes read 0. -/
def field (bs : List Byte) (off n : Nat) : Nat := ofLe ((bs.drop off).take n)

/-- Bits [hi:lo] of a number (R4). -/
def bitsOf (v hi lo : Nat) : Nat := (v / 2 ^ lo) % 2 ^ (hi + 1 - lo)

/-- Bit `i` of a number. -/
def bitOf (v i : Nat) : Bool := v.testBit i

/-- 1 for true. -/
def b2n (b : Bool) : Nat := if b then 1 else 0

/-- The signed value of the low `w` bits of `v`. -/
def sext (w v : Nat) : Int :=
  if v % 2 ^ w < 2 ^ (w - 1) then (v % 2 ^ w : Nat) else (v % 2 ^ w : Nat) - (2 ^ w : Nat)

/-- The low `w` bits of a signed value. -/
def unsgn (w : Nat) (v : Int) : Nat := (v % (2 ^ w : Nat)).toNat

/-- A signed value saturated to `w` bits, as its two's-complement bits. -/
def satSigned (w : Nat) (v : Int) : Nat :=
  unsgn w (max (-(2 ^ (w - 1) : Nat)) (min v ((2 ^ (w - 1) : Nat) - 1)))

/-- A value saturated to `w` bits. -/
def satTo (w v : Nat) : Nat := min v (2 ^ w - 1)

/-- The quotient of signed numbers rounded to the nearest integer, halves away from zero (the rounding R140 states). -/
def roundDiv (a : Int) (b : Nat) : Int :=
  if 0 ≤ a then (2 * a.toNat + b) / (2 * b) else -(((2 * (-a).toNat + b) / (2 * b) : Nat) : Int)

/-- Zero bytes up to a multiple of 8 (R14). -/
def pad8 (bs : List Byte) : List Byte := bs ++ List.replicate ((8 - bs.length % 8) % 8) 0

/-- One reflected CRC-32C step (polynomial 0x1EDC_6F41 reflected, R229). -/
def crc32cBit (c : Nat) : Nat := if c % 2 = 1 then (c / 2) ^^^ 0x82F63B78 else c / 2

/-- CRC-32C over bytes from a running state (R229). -/
def crc32cRun : Nat → List Byte → Nat
  | c, [] => c
  | c, b :: bs =>
    let x := c ^^^ b.toNat
    let x := crc32cBit (crc32cBit (crc32cBit (crc32cBit (crc32cBit (crc32cBit (crc32cBit (crc32cBit x)))))))
    crc32cRun x bs

/-- The CRC-32C of R229: initial value and final XOR 0xFFFF_FFFF. -/
def crc32c (bs : List Byte) : Nat := crc32cRun 0xFFFFFFFF bs ^^^ 0xFFFFFFFF

/-- One CRC-16 step, polynomial 0x1021, most significant bit first (R255). -/
def crc16Bit (c : Nat) : Nat := if c ≥ 0x8000 then ((c * 2) ^^^ 0x1021) % 0x10000 else c * 2

/-- CRC-16 over bytes from a running state (R255). -/
def crc16Run : Nat → List Byte → Nat
  | c, [] => c
  | c, b :: bs =>
    let x := c ^^^ (b.toNat * 256)
    let x := crc16Bit (crc16Bit (crc16Bit (crc16Bit (crc16Bit (crc16Bit (crc16Bit (crc16Bit x)))))))
    crc16Run x bs

/-- The CRC-16 of R255 over bytes 0 to 21: initial value 0xFFFF. -/
def crc16 (bs : List Byte) : Nat := crc16Run 0xFFFF bs

/-- Insert before the first element that does not sort before it. -/
def insertBy {α : Type} (lt : α → α → Bool) (x : α) : List α → List α
  | [] => [x]
  | y :: ys => if lt y x then y :: insertBy lt x ys else x :: y :: ys

/-- A list in order; equal elements keep their order. -/
def sortBy {α : Type} (lt : α → α → Bool) (l : List α) : List α := l.foldr (insertBy lt) []

/-! ### Sparse tables

A table lists (key, value) pairs with keys strictly rising and no value equal to what an unlisted key reads as. -/

/-- A sparse table. -/
abbrev Tbl (α : Type) := List (Nat × α)

namespace Tbl

/-- The value at key `k`; `d` where the table lists none. -/
def get {α : Type} (d : α) : Tbl α → Nat → α
  | [], _ => d
  | (k, v) :: r, i => if k = i then v else get d r i

/-- The table without an entry for key `i`. -/
def erase {α : Type} : Tbl α → Nat → Tbl α
  | [], _ => []
  | (k, v) :: r, i => if k = i then erase r i else (k, v) :: erase r i

/-- The table with `x` at key `i`. -/
def insert {α : Type} (x : α) : Tbl α → Nat → Tbl α
  | [], i => [(i, x)]
  | (k, v) :: r, i => if k = i then (i, x) :: r else if i < k then (i, x) :: (k, v) :: r else (k, v) :: insert x r i

/-- Write `x` at key `i`, where unlisted keys read as `d`: a write of `d` removes the entry. -/
def set {α : Type} [DecidableEq α] (d : α) (t : Tbl α) (i : Nat) (x : α) : Tbl α :=
  if x = d then erase t i else insert x t i

/-- The keys rise strictly, starting above `lo` where one is given. -/
def sortedFrom {α : Type} : Option Nat → Tbl α → Bool
  | _, [] => true
  | none, (k, _) :: r => sortedFrom (some k) r
  | some j, (k, _) :: r => decide (j < k) && sortedFrom (some k) r

/-- The canonical form: keys strictly rising and no value equal to the default. -/
def wf {α : Type} [DecidableEq α] (d : α) (t : Tbl α) : Bool :=
  sortedFrom none t && t.all fun e => decide (e.2 ≠ d)

end Tbl

/-- `n` consecutive bytes of a byte table from address `a`; `d` is what an unlisted address reads as. -/
def readBytes (d : Nat → Byte) (m : Tbl Byte) (a : Nat) : Nat → List Byte
  | 0 => []
  | n + 1 => Tbl.get (d a) m a :: readBytes d m (a + 1) n

/-- Write consecutive bytes to a byte table from address `a`. -/
def writeBytes (d : Nat → Byte) (m : Tbl Byte) (a : Nat) : List Byte → Tbl Byte
  | [] => m
  | b :: bs => writeBytes d (Tbl.set (d a) m a b) (a + 1) bs

/-- The canonical form of a byte table: addresses strictly rising, and no byte equal to what an unlisted address reads as. -/
def bytesWf (d : Nat → Byte) (m : Tbl Byte) : Bool := Tbl.sortedFrom none m && m.all fun e => decide (e.2 ≠ d e.1)

/-! ### Firmware parameters -/

/-- The access codes of R6. -/
inductive Access where
  | ro | rw | w1c | w1s | rws | rwm | wo
  deriving DecidableEq, Repr

/-- One field of a firmware parameter: the parameter's identifier at index 0 (R7), the field's lowest bit and width,
its access code, the parameter's whole reset word, and the range its map states (R396). -/
structure Fld where
  pid : Nat
  lo : Nat
  width : Nat
  acc : Access
  word : Nat
  min : Nat
  max : Nat
  deriving DecidableEq, Repr

/-- One firmware parameter: identifier at index 0, how many identifiers "+ w" spans, the indices, the fields. -/
structure Par where
  pid : Nat
  span : Nat
  insts : Nat
  fields : List Fld
  deriving DecidableEq, Repr

end Sys2Proof.Machine

namespace Sys2Proof

open Sys2Proof.Machine

/-! ### Records and stamps -/

/-- One stamp lies before another: the epoch leads (R29). -/
def Stamp.before (a b : Stamp) : Bool := decide (a.epoch < b.epoch) || (a.epoch == b.epoch && decide (a.tb < b.tb))

/-- The length of a record in bytes (R14). -/
def Rec.bytes (r : Rec) : Nat := 24 + r.body.length

/-- A record's bytes (R14). The spec does not say what the 16-bit length holds for a record of more than 65,535 units of 8 bytes:
DESIGN CHOICE, the length modulo 2^16 (log entry 102). -/
def Rec.encode (r : Rec) : List Byte :=
  [BitVec.ofNat 8 r.type, BitVec.ofNat 8 r.flags] ++ le 2 (r.bytes / 8) ++ le 2 r.origin ++ le 2 r.epoch
    ++ le 8 (tbNs r.tb) ++ le 4 (tbStitch r.tb) ++ le 4 r.seq ++ r.body

/-- The merge key of R15 as a list of unsigned integers. -/
def Rec.key (r : Rec) : List Nat := [r.epoch, tbNs r.tb, tbStitch r.tb, r.origin, r.type, r.seq]

/-- Lexicographic order of keys (R15). -/
def keyLt : List Nat → List Nat → Bool
  | a :: as, b :: bs => decide (a < b) || (a == b && keyLt as bs)
  | [], _ :: _ => true
  | _, _ => false

/-- Record `a` sorts before record `b` (R15). -/
def Rec.before (a b : Rec) : Bool := keyLt a.key b.key

/-- Set a flag bit of a record (R25). -/
def Rec.withFlag (r : Rec) (f : Nat) : Rec := { r with flags := r.flags ||| f }

/-- The earlier of two stamps (R29). -/
def Stamp.min (a b : Stamp) : Stamp := if b.before a then b else a

/-- The time of a record's key (R15). -/
def Rec.stamp (r : Rec) : Stamp := ⟨r.epoch, r.tb⟩

/-- An event record's class (R130). -/
def Rec.cls (r : Rec) : Nat := field r.body 0 1 % 16

/-- Thimble cells of a record (R192). -/
def Rec.cells (r : Rec) : Nat := ceilDiv r.bytes 64

end Sys2Proof
end

