-- ==== Sys2Proof/Machine/Flags.lean ====
section
/-! DEFINITION. The flag computations: header flags of records and replies, primitive flags, the floor result, latch bits. -/

namespace Sys2Proof.Machine

/-- LOSS (R25). -/
def flLoss : Nat := 1
/-- LATE (R25). -/
def flLate : Nat := 2
/-- UNCOMP (R25). -/
def flUncomp : Nat := 4
/-- REDUCED (R25). -/
def flReduced : Nat := 8

/-- Bit `n` of a 256-bit latch. -/
def srcBit (n : Nat) : BitVec 256 := BitVec.ofNat 256 (2 ^ (n % 256))

/-- Flag bits of a rewind reply (R170): TRUNCATED, OVERTAKEN, FOLLOWED, EPOCH_END; a truncated opening and an overtaken
closing record carry REDUCED. -/
def replyFlags (truncated overtaken followed epochEnd opening : Bool) : Nat :=
  16 * b2n truncated + 32 * b2n overtaken + 64 * b2n followed + 128 * b2n epochEnd
    + (if (opening && truncated) || (!opening && overtaken) then flReduced else 0)

/-- The flags of a primitive as bits: UNCOMP, NOHIT, EXT, COARSE. -/
def vc0Flags (f : Vc0) : Nat := b2n f.uncomp + 2 * b2n f.nohit + 4 * b2n f.ext + 8 * b2n f.coarse

/-- The floor result of R42 by the lowest and the highest sample: 0 none below the threshold, 1 some, 2 all. -/
def floorOf (low high thr : Nat) : Nat := if max low high < thr then 2 else if low < thr then 1 else 0

end Sys2Proof.Machine
end

