-- ==== Sys2Proof/Machine/Params.lean ====
section
/-! DEFINITION. The firmware parameter maps of the spec (R62, R85, R106, R133, R151, R177, R200, R226, R250, R287, R305, R334,
R356, R405, R424, R442, R458, R478, R495), one `Fld` per field row and one `Par` per parameter. -/

namespace Sys2Proof.Machine.P

/-! ### Block AFE -/

/-- FAST_CFG.PEAKING. -/
def FAST_CFG_PEAKING : Fld := ⟨0x01000001, 0, 2, .rws, 9, 0, 2⟩
/-- FAST_CFG.RANGE_LOCK. -/
def FAST_CFG_RANGE_LOCK : Fld := ⟨0x01000001, 2, 1, .rws, 9, 0, 1⟩
/-- FAST_CFG.ENABLE. -/
def FAST_CFG_ENABLE : Fld := ⟨0x01000001, 3, 1, .rws, 9, 0, 1⟩
/-- DISC_THR.THRESHOLD. -/
def DISC_THR_THRESHOLD : Fld := ⟨0x01000002, 0, 10, .rws, 2088, 0, 1023⟩
/-- DISC_THR.HYST. -/
def DISC_THR_HYST : Fld := ⟨0x01000002, 10, 4, .rws, 2088, 0, 15⟩
/-- TRIM_STATIC.STATIC. -/
def TRIM_STATIC_STATIC : Fld := ⟨0x01000003, 0, 12, .rws, 0, 0, 4095⟩
/-- TRIM_NOW.CODE. -/
def TRIM_NOW_CODE : Fld := ⟨0x01000004, 0, 12, .ro, 0, 0, 4095⟩
/-- SLOW_CFG.RANGE. -/
def SLOW_CFG_RANGE : Fld := ⟨0x01000005, 0, 2, .rws, 4, 0, 3⟩
/-- SLOW_CFG.CHOP_EN. -/
def SLOW_CFG_CHOP_EN : Fld := ⟨0x01000005, 2, 1, .rws, 4, 0, 1⟩
/-- CUR_NOW.CURRENT. -/
def CUR_NOW_CURRENT : Fld := ⟨0x01000006, 0, 32, .ro, 0, 0, 4294967295⟩
/-- FLOOR.FLOOR_NA. -/
def FLOOR_FLOOR_NA : Fld := ⟨0x01000007, 0, 16, .rws, 20, 10, 1000⟩
/-- FLOOR.BRK_HITS_MAX. -/
def FLOOR_BRK_HITS_MAX : Fld := ⟨0x01000007, 16, 8, .rws, 20, 0, 255⟩
/-- CH_STATUS.FLOOR_PART. -/
def CH_STATUS_FLOOR_PART : Fld := ⟨0x01000008, 0, 1, .ro, 0, 0, 1⟩
/-- CH_STATUS.BREAK_SUSPECT. -/
def CH_STATUS_BREAK_SUSPECT : Fld := ⟨0x01000008, 1, 1, .ro, 0, 0, 1⟩
/-- CH_STATUS.BROKEN. -/
def CH_STATUS_BROKEN : Fld := ⟨0x01000008, 2, 1, .w1c, 0, 0, 1⟩
/-- CH_STATUS.IMP_FAULT. -/
def CH_STATUS_IMP_FAULT : Fld := ⟨0x01000008, 3, 1, .w1c, 0, 0, 1⟩
/-- CH_STATUS.IMP_INVALID. -/
def CH_STATUS_IMP_INVALID : Fld := ⟨0x01000008, 4, 1, .ro, 0, 0, 1⟩
/-- CH_STATUS.TRIM_CLAMPED. -/
def CH_STATUS_TRIM_CLAMPED : Fld := ⟨0x01000008, 5, 1, .ro, 0, 0, 1⟩
/-- CH_STATUS.BLANKED. -/
def CH_STATUS_BLANKED : Fld := ⟨0x01000008, 6, 1, .ro, 0, 0, 1⟩
/-- IMP_C.CAP. -/
def IMP_C_CAP : Fld := ⟨0x01000009, 0, 24, .ro, 0, 0, 16777215⟩
/-- IMP_RES.RES. -/
def IMP_RES_RES : Fld := ⟨0x0100000A, 0, 20, .ro, 0, 0, 1048575⟩
/-- IMP_REF_C.REF. -/
def IMP_REF_C_REF : Fld := ⟨0x0100000B, 0, 24, .rws, 0, 0, 16777215⟩
/-- IMP_LIMITS.OPEN_FRAC. -/
def IMP_LIMITS_OPEN_FRAC : Fld := ⟨0x0100000C, 0, 8, .rws, 256032, 0, 255⟩
/-- IMP_LIMITS.RES_MAX. -/
def IMP_LIMITS_RES_MAX : Fld := ⟨0x0100000C, 8, 16, .rws, 256032, 0, 65535⟩
/-- HVSET_DUTY.DUTY. -/
def HVSET_DUTY_DUTY : Fld := ⟨0x01000101, 0, 16, .rwm, 0, 0, 65535⟩
/-- HVSET_CFG.ENABLE. -/
def HVSET_CFG_ENABLE : Fld := ⟨0x01000102, 0, 1, .rws, 0, 0, 1⟩
/-- TRIP_LIMIT.LIMIT. -/
def TRIP_LIMIT_LIMIT : Fld := ⟨0x01000103, 0, 16, .rw, 3200, 0, 65535⟩
/-- TRIP_FUSED.FUSED. -/
def TRIP_FUSED_FUSED : Fld := ⟨0x01000104, 0, 16, .ro, 3200, 0, 65535⟩
/-- TRIP_STATUS.TRIPPED. -/
def TRIP_STATUS_TRIPPED : Fld := ⟨0x01000105, 0, 1, .w1c, 0, 0, 1⟩
/-- TRIP_STATUS.TRIP_COUNT. -/
def TRIP_STATUS_TRIP_COUNT : Fld := ⟨0x01000105, 8, 8, .ro, 0, 0, 255⟩
/-- IMP_CFG.ENABLE. -/
def IMP_CFG_ENABLE : Fld := ⟨0x01000106, 0, 1, .rws, 3, 0, 1⟩
/-- IMP_CFG.INTERVAL. -/
def IMP_CFG_INTERVAL : Fld := ⟨0x01000106, 1, 4, .rws, 3, 1, 15⟩
/-- BLANK_CFG0.ENABLE. -/
def BLANK_CFG0_ENABLE : Fld := ⟨0x01000201, 0, 1, .rws, 4294901760, 0, 1⟩
/-- BLANK_CFG0.POLARITY. -/
def BLANK_CFG0_POLARITY : Fld := ⟨0x01000201, 1, 1, .rws, 4294901760, 0, 1⟩
/-- BLANK_CFG0.TRIG_MASK. -/
def BLANK_CFG0_TRIG_MASK : Fld := ⟨0x01000201, 2, 1, .rws, 4294901760, 0, 1⟩
/-- BLANK_CFG0.TILE_MASK. -/
def BLANK_CFG0_TILE_MASK : Fld := ⟨0x01000201, 16, 16, .rws, 4294901760, 0, 65535⟩
/-- BLANK_CFG1.ENABLE. -/
def BLANK_CFG1_ENABLE : Fld := ⟨0x01000202, 0, 1, .rws, 4294901760, 0, 1⟩
/-- BLANK_CFG1.POLARITY. -/
def BLANK_CFG1_POLARITY : Fld := ⟨0x01000202, 1, 1, .rws, 4294901760, 0, 1⟩
/-- BLANK_CFG1.TRIG_MASK. -/
def BLANK_CFG1_TRIG_MASK : Fld := ⟨0x01000202, 2, 1, .rws, 4294901760, 0, 1⟩
/-- BLANK_CFG1.TILE_MASK. -/
def BLANK_CFG1_TILE_MASK : Fld := ⟨0x01000202, 16, 16, .rws, 4294901760, 0, 65535⟩
/-- BLANK_GUARD.GUARD. -/
def BLANK_GUARD_GUARD : Fld := ⟨0x01000203, 0, 16, .rws, 655360048, 0, 65535⟩
/-- BLANK_GUARD.BLANK_MAX. -/
def BLANK_GUARD_BLANK_MAX : Fld := ⟨0x01000203, 16, 16, .rws, 655360048, 0, 65535⟩
/-- BLANK_INT.PULSER. -/
def BLANK_INT_PULSER : Fld := ⟨0x01000204, 0, 1, .rws, 3, 0, 1⟩
/-- BLANK_INT.SCHED. -/
def BLANK_INT_SCHED : Fld := ⟨0x01000204, 1, 1, .rws, 3, 0, 1⟩
/-- BLANK_INT.ABANDONED. -/
def BLANK_INT_ABANDONED : Fld := ⟨0x01000204, 16, 16, .ro, 3, 0, 65535⟩

/-- Parameters of block AFE, part 0. -/
def tabAFE0 : List Par :=
  [⟨0x01000001, 1, 256, [FAST_CFG_PEAKING, FAST_CFG_RANGE_LOCK, FAST_CFG_ENABLE]⟩,
   ⟨0x01000002, 1, 256, [DISC_THR_THRESHOLD, DISC_THR_HYST]⟩,
   ⟨0x01000003, 1, 256, [TRIM_STATIC_STATIC]⟩,
   ⟨0x01000004, 1, 256, [TRIM_NOW_CODE]⟩,
   ⟨0x01000005, 1, 256, [SLOW_CFG_RANGE, SLOW_CFG_CHOP_EN]⟩,
   ⟨0x01000006, 1, 256, [CUR_NOW_CURRENT]⟩,
   ⟨0x01000007, 1, 256, [FLOOR_FLOOR_NA, FLOOR_BRK_HITS_MAX]⟩,
   ⟨0x01000008, 1, 256, [CH_STATUS_FLOOR_PART, CH_STATUS_BREAK_SUSPECT, CH_STATUS_BROKEN, CH_STATUS_IMP_FAULT, CH_STATUS_IMP_INVALID, CH_STATUS_TRIM_CLAMPED, CH_STATUS_BLANKED]⟩,
   ⟨0x01000009, 1, 256, [IMP_C_CAP]⟩,
   ⟨0x0100000A, 1, 256, [IMP_RES_RES]⟩,
   ⟨0x0100000B, 1, 256, [IMP_REF_C_REF]⟩,
   ⟨0x0100000C, 1, 256, [IMP_LIMITS_OPEN_FRAC, IMP_LIMITS_RES_MAX]⟩,
   ⟨0x01000101, 1, 16, [HVSET_DUTY_DUTY]⟩,
   ⟨0x01000102, 1, 16, [HVSET_CFG_ENABLE]⟩,
   ⟨0x01000103, 1, 16, [TRIP_LIMIT_LIMIT]⟩,
   ⟨0x01000104, 1, 16, [TRIP_FUSED_FUSED]⟩,
   ⟨0x01000105, 1, 16, [TRIP_STATUS_TRIPPED, TRIP_STATUS_TRIP_COUNT]⟩,
   ⟨0x01000106, 1, 16, [IMP_CFG_ENABLE, IMP_CFG_INTERVAL]⟩,
   ⟨0x01000201, 1, 1, [BLANK_CFG0_ENABLE, BLANK_CFG0_POLARITY, BLANK_CFG0_TRIG_MASK, BLANK_CFG0_TILE_MASK]⟩,
   ⟨0x01000202, 1, 1, [BLANK_CFG1_ENABLE, BLANK_CFG1_POLARITY, BLANK_CFG1_TRIG_MASK, BLANK_CFG1_TILE_MASK]⟩]


/-- Parameters of block AFE, part 1. -/
def tabAFE1 : List Par :=
  [⟨0x01000203, 1, 1, [BLANK_GUARD_GUARD, BLANK_GUARD_BLANK_MAX]⟩,
   ⟨0x01000204, 1, 1, [BLANK_INT_PULSER, BLANK_INT_SCHED, BLANK_INT_ABANDONED]⟩]

/-! ### Block DIG -/

/-- SLICE_STATUS.SOURCE. -/
def SLICE_STATUS_SOURCE : Fld := ⟨0x02000001, 0, 1, .ro, 0, 0, 1⟩
/-- SLICE_STATUS.SUSPECT. -/
def SLICE_STATUS_SUSPECT : Fld := ⟨0x02000001, 1, 1, .ro, 0, 0, 1⟩
/-- SLICE_STATUS.FAULT. -/
def SLICE_STATUS_FAULT : Fld := ⟨0x02000001, 2, 1, .ro, 0, 0, 1⟩
/-- SLICE_STATUS.MISMATCH_COUNT. -/
def SLICE_STATUS_MISMATCH_COUNT : Fld := ⟨0x02000001, 8, 8, .ro, 0, 0, 255⟩
/-- SLICE_CORR.OFFSET. -/
def SLICE_CORR_OFFSET : Fld := ⟨0x02000002, 0, 16, .ro, 0, 0, 65535⟩
/-- SLICE_CORR.GAIN. -/
def SLICE_CORR_GAIN : Fld := ⟨0x02000002, 16, 16, .ro, 0, 0, 65535⟩
/-- MATCH_LAST.MEAN. -/
def MATCH_LAST_MEAN : Fld := ⟨0x02000003, 0, 8, .ro, 0, 0, 255⟩
/-- MATCH_LAST.RMS. -/
def MATCH_LAST_RMS : Fld := ⟨0x02000003, 8, 8, .ro, 0, 0, 255⟩
/-- TILE_PHASE.PHASE. -/
def TILE_PHASE_PHASE : Fld := ⟨0x02000101, 0, 6, .rws, 0, 0, 63⟩
/-- ROT_CFG.ENABLE. -/
def ROT_CFG_ENABLE : Fld := ⟨0x02000102, 0, 1, .rws, 15361, 0, 1⟩
/-- ROT_CFG.SINGLE. -/
def ROT_CFG_SINGLE : Fld := ⟨0x02000102, 1, 1, .rws, 15361, 0, 1⟩
/-- ROT_CFG.EVERY. -/
def ROT_CFG_EVERY : Fld := ⟨0x02000102, 8, 16, .rws, 15361, 1, 65535⟩
/-- ROT_STATUS.STATE. -/
def ROT_STATUS_STATE : Fld := ⟨0x02000103, 0, 4, .ro, 0, 0, 15⟩
/-- ROT_STATUS.STEP. -/
def ROT_STATUS_STEP : Fld := ⟨0x02000103, 4, 5, .ro, 0, 0, 31⟩
/-- ROT_STATUS.SPARE_FAULT. -/
def ROT_STATUS_SPARE_FAULT : Fld := ⟨0x02000103, 9, 1, .ro, 0, 0, 1⟩
/-- ROT_STATUS.ROTATIONS. -/
def ROT_STATUS_ROTATIONS : Fld := ⟨0x02000103, 16, 16, .ro, 0, 0, 65535⟩
/-- RING_ERR.CE. -/
def RING_ERR_CE : Fld := ⟨0x02000104, 0, 16, .ro, 0, 0, 65535⟩
/-- RING_ERR.UE. -/
def RING_ERR_UE : Fld := ⟨0x02000104, 16, 16, .ro, 0, 0, 65535⟩
/-- HK_PASS.PERIOD_US. -/
def HK_PASS_PERIOD_US : Fld := ⟨0x02000105, 0, 20, .rws, 1000, 100, 1000000⟩
/-- HK_URGENT.INPUT. -/
def HK_URGENT_INPUT : Fld := ⟨0x02000106, 0, 5, .wo, 0, 0, 23⟩
/-- HK_URGENT.AVG. -/
def HK_URGENT_AVG : Fld := ⟨0x02000106, 5, 3, .wo, 0, 0, 7⟩
/-- HK_URGENT.SHIFT. -/
def HK_URGENT_SHIFT : Fld := ⟨0x02000106, 8, 4, .wo, 0, 0, 8⟩
/-- HK_STATUS.SKIPPED. -/
def HK_STATUS_SKIPPED : Fld := ⟨0x02000107, 0, 16, .ro, 0, 0, 65535⟩
/-- HK_STATUS.URGENT_REFUSED. -/
def HK_STATUS_URGENT_REFUSED : Fld := ⟨0x02000107, 16, 8, .ro, 0, 0, 255⟩
/-- HK_STATUS.URGENT_PENDING. -/
def HK_STATUS_URGENT_PENDING : Fld := ⟨0x02000107, 24, 8, .ro, 0, 0, 255⟩
/-- HK_SEQ.INPUT. -/
def HK_SEQ_INPUT : Fld := ⟨0x02000140, 0, 5, .rws, 0, 0, 31⟩
/-- HK_SEQ.AVG. -/
def HK_SEQ_AVG : Fld := ⟨0x02000140, 5, 3, .rws, 0, 0, 7⟩
/-- HK_SEQ.SHIFT. -/
def HK_SEQ_SHIFT : Fld := ⟨0x02000140, 8, 4, .rws, 0, 0, 8⟩
/-- HK_SEQ.OFFSET_US. -/
def HK_SEQ_OFFSET_US : Fld := ⟨0x02000140, 12, 20, .rws, 0, 0, 1048575⟩
/-- HK_RESULT.RESULT. -/
def HK_RESULT_RESULT : Fld := ⟨0x02000180, 0, 24, .ro, 0, 0, 16777215⟩
/-- BASELINE.BASELINE. -/
def BASELINE_BASELINE : Fld := ⟨0x02000201, 0, 8, .rws, 64, 0, 255⟩
/-- ROT_TOL.MEAN_MAX. -/
def ROT_TOL_MEAN_MAX : Fld := ⟨0x02000202, 0, 8, .rws, 3200, 0, 255⟩
/-- ROT_TOL.RMS_MAX. -/
def ROT_TOL_RMS_MAX : Fld := ⟨0x02000202, 8, 8, .rws, 3200, 0, 255⟩

/-- Parameters of block DIG, part 0. -/
def tabDIG0 : List Par :=
  [⟨0x02000001, 1, 256, [SLICE_STATUS_SOURCE, SLICE_STATUS_SUSPECT, SLICE_STATUS_FAULT, SLICE_STATUS_MISMATCH_COUNT]⟩,
   ⟨0x02000002, 1, 256, [SLICE_CORR_OFFSET, SLICE_CORR_GAIN]⟩,
   ⟨0x02000003, 1, 256, [MATCH_LAST_MEAN, MATCH_LAST_RMS]⟩,
   ⟨0x02000101, 1, 16, [TILE_PHASE_PHASE]⟩,
   ⟨0x02000102, 1, 16, [ROT_CFG_ENABLE, ROT_CFG_SINGLE, ROT_CFG_EVERY]⟩,
   ⟨0x02000103, 1, 16, [ROT_STATUS_STATE, ROT_STATUS_STEP, ROT_STATUS_SPARE_FAULT, ROT_STATUS_ROTATIONS]⟩,
   ⟨0x02000104, 1, 16, [RING_ERR_CE, RING_ERR_UE]⟩,
   ⟨0x02000105, 1, 16, [HK_PASS_PERIOD_US]⟩,
   ⟨0x02000106, 1, 16, [HK_URGENT_INPUT, HK_URGENT_AVG, HK_URGENT_SHIFT]⟩,
   ⟨0x02000107, 1, 16, [HK_STATUS_SKIPPED, HK_STATUS_URGENT_REFUSED, HK_STATUS_URGENT_PENDING]⟩,
   ⟨0x02000140, 32, 16, [HK_SEQ_INPUT, HK_SEQ_AVG, HK_SEQ_SHIFT, HK_SEQ_OFFSET_US]⟩,
   ⟨0x02000180, 24, 16, [HK_RESULT_RESULT]⟩,
   ⟨0x02000201, 1, 1, [BASELINE_BASELINE]⟩,
   ⟨0x02000202, 1, 1, [ROT_TOL_MEAN_MAX, ROT_TOL_RMS_MAX]⟩]

/-! ### Block TDC -/

/-- TDC_OFFSET.USER. -/
def TDC_OFFSET_USER : Fld := ⟨0x03000001, 0, 20, .rws, 0, 0, 1048575⟩
/-- TDC_FUSED.FUSED. -/
def TDC_FUSED_FUSED : Fld := ⟨0x03000002, 0, 20, .ro, 9216, 0, 1048575⟩
/-- TDC_CNT.MERGED. -/
def TDC_CNT_MERGED : Fld := ⟨0x03000003, 0, 16, .ro, 0, 0, 65535⟩
/-- TDC_CNT.COARSE. -/
def TDC_CNT_COARSE : Fld := ⟨0x03000003, 16, 16, .ro, 0, 0, 65535⟩
/-- TDC_CAL_STATUS.CAL_VALID. -/
def TDC_CAL_STATUS_CAL_VALID : Fld := ⟨0x03000004, 0, 1, .ro, 0, 0, 1⟩
/-- TDC_CAL_STATUS.CD_FAIL. -/
def TDC_CAL_STATUS_CD_FAIL : Fld := ⟨0x03000004, 1, 1, .w1c, 0, 0, 1⟩
/-- TDC_CAL_STATUS.STALE. -/
def TDC_CAL_STATUS_STALE : Fld := ⟨0x03000004, 2, 1, .ro, 0, 0, 1⟩
/-- TDC_CAL_STATUS.VISITS. -/
def TDC_CAL_STATUS_VISITS : Fld := ⟨0x03000004, 16, 16, .ro, 0, 0, 65535⟩
/-- TDC_CAL_RESULT.INL_A. -/
def TDC_CAL_RESULT_INL_A : Fld := ⟨0x03000005, 0, 8, .ro, 0, 0, 255⟩
/-- TDC_CAL_RESULT.INL_B. -/
def TDC_CAL_RESULT_INL_B : Fld := ⟨0x03000005, 8, 8, .ro, 0, 0, 255⟩
/-- TDC_CAL_RESULT.CD_DEV. -/
def TDC_CAL_RESULT_CD_DEV : Fld := ⟨0x03000005, 16, 8, .ro, 0, 0, 255⟩
/-- HIT_RATE.RATE. -/
def HIT_RATE_RATE : Fld := ⟨0x03000006, 0, 32, .ro, 0, 0, 4294967295⟩
/-- SAMPLE_FUSED.FUSED. -/
def SAMPLE_FUSED_FUSED : Fld := ⟨0x03000101, 0, 20, .ro, 9216, 0, 1048575⟩
/-- SAMPLE_USER.USER. -/
def SAMPLE_USER_USER : Fld := ⟨0x03000102, 0, 20, .rws, 0, 0, 1048575⟩
/-- TDC_CAL.ENABLE. -/
def TDC_CAL_ENABLE : Fld := ⟨0x03000201, 0, 1, .rws, 335546883, 0, 1⟩
/-- TDC_CAL.CD_EN. -/
def TDC_CAL_CD_EN : Fld := ⟨0x03000201, 1, 1, .rws, 335546883, 0, 1⟩
/-- TDC_CAL.EVERY. -/
def TDC_CAL_EVERY : Fld := ⟨0x03000201, 8, 16, .rws, 335546883, 1, 65535⟩
/-- TDC_CAL.TEMP_DK. -/
def TDC_CAL_TEMP_DK : Fld := ⟨0x03000201, 24, 8, .rws, 335546883, 0, 255⟩
/-- CD_TOL.TOL. -/
def CD_TOL_TOL : Fld := ⟨0x03000202, 0, 8, .rws, 30, 0, 255⟩
/-- DLL_STATUS.LOCKED. -/
def DLL_STATUS_LOCKED : Fld := ⟨0x03000203, 0, 1, .ro, 0, 0, 1⟩
/-- DLL_STATUS.LOSSES. -/
def DLL_STATUS_LOSSES : Fld := ⟨0x03000203, 8, 8, .ro, 0, 0, 255⟩
/-- GAUGE_SEL.INPUT. -/
def GAUGE_SEL_INPUT : Fld := ⟨0x03000301, 0, 8, .rws, 0, 0, 255⟩
/-- GAUGE_SEL.UNIT. -/
def GAUGE_SEL_UNIT : Fld := ⟨0x03000301, 8, 8, .rws, 0, 0, 255⟩
/-- GAUGE_SEL.EDGE. -/
def GAUGE_SEL_EDGE : Fld := ⟨0x03000301, 16, 1, .rws, 0, 0, 1⟩
/-- GAUGE_PRESCALE.PRESCALE. -/
def GAUGE_PRESCALE_PRESCALE : Fld := ⟨0x03000302, 0, 16, .rws, 1, 1, 65535⟩
/-- GAUGE_GATE.GATE. -/
def GAUGE_GATE_GATE : Fld := ⟨0x03000303, 0, 4, .rws, 12, 0, 12⟩
/-- GAUGE_PERIOD_NS.PERIOD_NS. -/
def GAUGE_PERIOD_NS_PERIOD_NS : Fld := ⟨0x03000304, 0, 32, .rws, 1000000000, 0, 4294967295⟩
/-- GAUGE_PERIOD_ST.PERIOD_ST. -/
def GAUGE_PERIOD_ST_PERIOD_ST : Fld := ⟨0x03000305, 0, 12, .rws, 0, 0, 3071⟩
/-- GAUGE_STATUS.RUNNING. -/
def GAUGE_STATUS_RUNNING : Fld := ⟨0x03000306, 0, 1, .ro, 0, 0, 1⟩
/-- GAUGE_STATUS.ABANDONED. -/
def GAUGE_STATUS_ABANDONED : Fld := ⟨0x03000306, 8, 8, .ro, 0, 0, 255⟩
/-- GAUGE_STATUS.GATES. -/
def GAUGE_STATUS_GATES : Fld := ⟨0x03000306, 16, 16, .ro, 0, 0, 65535⟩
/-- GAUGE_FREQ.FREQ. -/
def GAUGE_FREQ_FREQ : Fld := ⟨0x03000307, 0, 64, .ro, 0, 0, 18446744073709551615⟩
/-- GAUGE_MEAN.MEAN. -/
def GAUGE_MEAN_MEAN : Fld := ⟨0x03000308, 0, 64, .ro, 0, 0, 18446744073709551615⟩

/-- Parameters of block TDC, part 0. -/
def tabTDC0 : List Par :=
  [⟨0x03000001, 1, 256, [TDC_OFFSET_USER]⟩,
   ⟨0x03000002, 1, 256, [TDC_FUSED_FUSED]⟩,
   ⟨0x03000003, 1, 256, [TDC_CNT_MERGED, TDC_CNT_COARSE]⟩,
   ⟨0x03000004, 1, 256, [TDC_CAL_STATUS_CAL_VALID, TDC_CAL_STATUS_CD_FAIL, TDC_CAL_STATUS_STALE, TDC_CAL_STATUS_VISITS]⟩,
   ⟨0x03000005, 1, 256, [TDC_CAL_RESULT_INL_A, TDC_CAL_RESULT_INL_B, TDC_CAL_RESULT_CD_DEV]⟩,
   ⟨0x03000006, 1, 256, [HIT_RATE_RATE]⟩,
   ⟨0x03000101, 1, 16, [SAMPLE_FUSED_FUSED]⟩,
   ⟨0x03000102, 1, 16, [SAMPLE_USER_USER]⟩,
   ⟨0x03000201, 1, 1, [TDC_CAL_ENABLE, TDC_CAL_CD_EN, TDC_CAL_EVERY, TDC_CAL_TEMP_DK]⟩,
   ⟨0x03000202, 1, 1, [CD_TOL_TOL]⟩,
   ⟨0x03000203, 1, 1, [DLL_STATUS_LOCKED, DLL_STATUS_LOSSES]⟩,
   ⟨0x03000301, 1, 8, [GAUGE_SEL_INPUT, GAUGE_SEL_UNIT, GAUGE_SEL_EDGE]⟩,
   ⟨0x03000302, 1, 8, [GAUGE_PRESCALE_PRESCALE]⟩,
   ⟨0x03000303, 1, 8, [GAUGE_GATE_GATE]⟩,
   ⟨0x03000304, 1, 8, [GAUGE_PERIOD_NS_PERIOD_NS]⟩,
   ⟨0x03000305, 1, 8, [GAUGE_PERIOD_ST_PERIOD_ST]⟩,
   ⟨0x03000306, 1, 8, [GAUGE_STATUS_RUNNING, GAUGE_STATUS_ABANDONED, GAUGE_STATUS_GATES]⟩,
   ⟨0x03000307, 1, 8, [GAUGE_FREQ_FREQ]⟩,
   ⟨0x03000308, 1, 8, [GAUGE_MEAN_MEAN]⟩]

/-! ### Block TRG -/

/-- COND_CFG.KIND. -/
def COND_CFG_KIND : Fld := ⟨0x04000001, 0, 3, .rws, 0, 0, 5⟩
/-- COND_WIDTH.MIN. -/
def COND_WIDTH_MIN : Fld := ⟨0x04000002, 0, 12, .rws, 5898246, 0, 4095⟩
/-- COND_WIDTH.MAX. -/
def COND_WIDTH_MAX : Fld := ⟨0x04000002, 16, 12, .rws, 5898246, 0, 384⟩
/-- COND_RUNT.HIGH. -/
def COND_RUNT_HIGH : Fld := ⟨0x04000003, 0, 16, .rws, 1049600, 0, 65535⟩
/-- COND_RUNT.WIN. -/
def COND_RUNT_WIN : Fld := ⟨0x04000003, 16, 8, .rws, 1049600, 1, 192⟩
/-- COND_TIMEOUT.T. -/
def COND_TIMEOUT_T : Fld := ⟨0x04000004, 0, 16, .rws, 300, 0, 65535⟩
/-- COND_TIMEOUT.UNIT. -/
def COND_TIMEOUT_UNIT : Fld := ⟨0x04000004, 16, 1, .rws, 300, 0, 1⟩
/-- COND_SLEW.S. -/
def COND_SLEW_S : Fld := ⟨0x04000005, 0, 16, .rws, 262656, 0, 65535⟩
/-- COND_SLEW.K. -/
def COND_SLEW_K : Fld := ⟨0x04000005, 16, 4, .rws, 262656, 1, 15⟩
/-- ZS_THR.THR. -/
def ZS_THR_THR : Fld := ⟨0x04000006, 0, 16, .rws, 32, 0, 65535⟩
/-- COND_CNT.COUNT. -/
def COND_CNT_COUNT : Fld := ⟨0x04000007, 0, 32, .ro, 0, 0, 4294967295⟩
/-- GROUP_MASK.MASK. -/
def GROUP_MASK_MASK : Fld := ⟨0x04000101, 0, 32, .rws, 0, 0, 4294967295⟩
/-- GROUP_CFG.WIN. -/
def GROUP_CFG_WIN : Fld := ⟨0x04000109, 0, 7, .rws, 776, 1, 64⟩
/-- GROUP_CFG.N. -/
def GROUP_CFG_N : Fld := ⟨0x04000109, 8, 9, .rws, 776, 1, 256⟩
/-- GROUP_CFG.RULE. -/
def GROUP_CFG_RULE : Fld := ⟨0x04000109, 17, 1, .rws, 776, 0, 1⟩
/-- GROUP_CFG.ENABLE. -/
def GROUP_CFG_ENABLE : Fld := ⟨0x04000109, 18, 1, .rws, 776, 0, 1⟩
/-- GROUP_CFG.OUT0. -/
def GROUP_CFG_OUT0 : Fld := ⟨0x04000109, 19, 1, .rws, 776, 0, 1⟩
/-- GROUP_CFG.OUT1. -/
def GROUP_CFG_OUT1 : Fld := ⟨0x04000109, 20, 1, .rws, 776, 0, 1⟩
/-- GROUP_SUM.THR. -/
def GROUP_SUM_THR : Fld := ⟨0x0400010A, 0, 24, .rws, 65535, 0, 16777215⟩
/-- GROUP_CNT.COUNT. -/
def GROUP_CNT_COUNT : Fld := ⟨0x0400010B, 0, 32, .ro, 0, 0, 4294967295⟩
/-- GROUP_LAT.BOUND. -/
def GROUP_LAT_BOUND : Fld := ⟨0x0400010C, 0, 16, .ro, 0, 0, 65535⟩
/-- CLASS_CFG.PRE. -/
def CLASS_CFG_PRE : Fld := ⟨0x04000201, 0, 11, .rws, 21233728, 0, 2047⟩
/-- CLASS_CFG.POST. -/
def CLASS_CFG_POST : Fld := ⟨0x04000201, 11, 10, .rws, 21233728, 0, 1023⟩
/-- CLASS_CFG.ENABLE. -/
def CLASS_CFG_ENABLE : Fld := ⟨0x04000201, 21, 1, .rws, 21233728, 0, 1⟩
/-- CLASS_CFG.ZS_EN. -/
def CLASS_CFG_ZS_EN : Fld := ⟨0x04000201, 22, 1, .rws, 21233728, 0, 1⟩
/-- CLASS_CFG.OMIT_EMPTY. -/
def CLASS_CFG_OMIT_EMPTY : Fld := ⟨0x04000201, 23, 1, .rws, 21233728, 0, 1⟩
/-- CLASS_CFG.HITS_EN. -/
def CLASS_CFG_HITS_EN : Fld := ⟨0x04000201, 24, 1, .rws, 21233728, 0, 1⟩
/-- CLASS_CFG.OUT0. -/
def CLASS_CFG_OUT0 : Fld := ⟨0x04000201, 25, 1, .rws, 21233728, 0, 1⟩
/-- CLASS_CFG.OUT1. -/
def CLASS_CFG_OUT1 : Fld := ⟨0x04000201, 26, 1, .rws, 21233728, 0, 1⟩
/-- CLASS_HITS.HITS_MAX. -/
def CLASS_HITS_HITS_MAX : Fld := ⟨0x04000202, 0, 8, .rws, 16, 0, 255⟩
/-- CLASS_MASK.MASK. -/
def CLASS_MASK_MASK : Fld := ⟨0x04000203, 0, 32, .rws, 4294967295, 0, 4294967295⟩
/-- ROOT_GROUPS_LO.GROUPS. -/
def ROOT_GROUPS_LO_GROUPS : Fld := ⟨0x0400020B, 0, 32, .rws, 0, 0, 4294967295⟩
/-- ROOT_GROUPS_HI.GROUPS. -/
def ROOT_GROUPS_HI_GROUPS : Fld := ⟨0x0400020C, 0, 32, .rws, 0, 0, 4294967295⟩
/-- ROOT_N.N. -/
def ROOT_N_N : Fld := ⟨0x0400020D, 0, 8, .rws, 1, 1, 255⟩
/-- CLASS_EVENTS.COUNT. -/
def CLASS_EVENTS_COUNT : Fld := ⟨0x0400020E, 0, 32, .ro, 0, 0, 4294967295⟩
/-- CLASS_LATE.LATE. -/
def CLASS_LATE_LATE : Fld := ⟨0x0400020F, 0, 16, .ro, 0, 0, 65535⟩
/-- CLASS_LATE.DECK. -/
def CLASS_LATE_DECK : Fld := ⟨0x0400020F, 16, 16, .ro, 0, 0, 65535⟩
/-- HORIZON.NS. -/
def HORIZON_NS : Fld := ⟨0x04000301, 0, 13, .rws, 4000, 1, 5360⟩
/-- ROOT_CFG.ROOT. -/
def ROOT_CFG_ROOT : Fld := ⟨0x04000302, 0, 1, .rws, 4294901888, 0, 1⟩
/-- ROOT_CFG.WIN. -/
def ROOT_CFG_WIN : Fld := ⟨0x04000302, 1, 8, .rws, 4294901888, 1, 255⟩
/-- ROOT_CFG.ROOT_ADDR. -/
def ROOT_CFG_ROOT_ADDR : Fld := ⟨0x04000302, 16, 16, .rws, 4294901888, 0, 65535⟩
/-- ROOT_ALIGN.ALIGN. -/
def ROOT_ALIGN_ALIGN : Fld := ⟨0x04000303, 0, 16, .rws, 4294901774, 0, 65535⟩
/-- ROOT_ALIGN.ACCEPT_DEST. -/
def ROOT_ALIGN_ACCEPT_DEST : Fld := ⟨0x04000303, 16, 16, .rws, 4294901774, 0, 65535⟩
/-- TRIG_IN_CFG.EN0. -/
def TRIG_IN_CFG_EN0 : Fld := ⟨0x04000304, 0, 1, .rws, 0, 0, 1⟩
/-- TRIG_IN_CFG.POL0. -/
def TRIG_IN_CFG_POL0 : Fld := ⟨0x04000304, 1, 1, .rws, 0, 0, 1⟩
/-- TRIG_IN_CFG.CLASS0. -/
def TRIG_IN_CFG_CLASS0 : Fld := ⟨0x04000304, 2, 4, .rws, 0, 0, 15⟩
/-- TRIG_IN_CFG.EN1. -/
def TRIG_IN_CFG_EN1 : Fld := ⟨0x04000304, 8, 1, .rws, 0, 0, 1⟩
/-- TRIG_IN_CFG.POL1. -/
def TRIG_IN_CFG_POL1 : Fld := ⟨0x04000304, 9, 1, .rws, 0, 0, 1⟩
/-- TRIG_IN_CFG.CLASS1. -/
def TRIG_IN_CFG_CLASS1 : Fld := ⟨0x04000304, 10, 4, .rws, 0, 0, 15⟩
/-- TRIG_IN_DELAY0.DELAY. -/
def TRIG_IN_DELAY0_DELAY : Fld := ⟨0x04000305, 0, 32, .rws, 0, 0, 4294967295⟩
/-- TRIG_IN_DELAY1.DELAY. -/
def TRIG_IN_DELAY1_DELAY : Fld := ⟨0x04000306, 0, 32, .rws, 0, 0, 4294967295⟩
/-- TRIG_OUT_CFG.WIDTH0. -/
def TRIG_OUT_CFG_WIDTH0 : Fld := ⟨0x04000307, 0, 8, .rws, 7710, 0, 255⟩
/-- TRIG_OUT_CFG.WIDTH1. -/
def TRIG_OUT_CFG_WIDTH1 : Fld := ⟨0x04000307, 8, 8, .rws, 7710, 0, 255⟩
/-- TRIG_OUT_CFG.EN0. -/
def TRIG_OUT_CFG_EN0 : Fld := ⟨0x04000307, 16, 1, .rws, 7710, 0, 1⟩
/-- TRIG_OUT_CFG.EN1. -/
def TRIG_OUT_CFG_EN1 : Fld := ⟨0x04000307, 17, 1, .rws, 7710, 0, 1⟩
/-- EXTRACT_STATUS.OUTSTANDING. -/
def EXTRACT_STATUS_OUTSTANDING : Fld := ⟨0x04000308, 0, 7, .ro, 0, 0, 127⟩
/-- EXTRACT_STATUS.PEAK. -/
def EXTRACT_STATUS_PEAK : Fld := ⟨0x04000308, 8, 7, .ro, 0, 0, 127⟩
/-- EXTRACT_STATUS.REFUSED. -/
def EXTRACT_STATUS_REFUSED : Fld := ⟨0x04000308, 16, 16, .ro, 0, 0, 65535⟩
/-- ACCEPT_STATUS.DUP. -/
def ACCEPT_STATUS_DUP : Fld := ⟨0x04000309, 0, 16, .ro, 0, 0, 65535⟩
/-- ACCEPT_STATUS.IGNORED. -/
def ACCEPT_STATUS_IGNORED : Fld := ⟨0x04000309, 16, 16, .ro, 0, 0, 65535⟩
/-- TRIG_UNCOMP.COUNT. -/
def TRIG_UNCOMP_COUNT : Fld := ⟨0x0400030A, 0, 32, .ro, 0, 0, 4294967295⟩

/-- Parameters of block TRG, part 0. -/
def tabTRG0 : List Par :=
  [⟨0x04000001, 1, 256, [COND_CFG_KIND]⟩,
   ⟨0x04000002, 1, 256, [COND_WIDTH_MIN, COND_WIDTH_MAX]⟩,
   ⟨0x04000003, 1, 256, [COND_RUNT_HIGH, COND_RUNT_WIN]⟩,
   ⟨0x04000004, 1, 256, [COND_TIMEOUT_T, COND_TIMEOUT_UNIT]⟩,
   ⟨0x04000005, 1, 256, [COND_SLEW_S, COND_SLEW_K]⟩,
   ⟨0x04000006, 1, 256, [ZS_THR_THR]⟩,
   ⟨0x04000007, 1, 256, [COND_CNT_COUNT]⟩,
   ⟨0x04000101, 8, 64, [GROUP_MASK_MASK]⟩,
   ⟨0x04000109, 1, 64, [GROUP_CFG_WIN, GROUP_CFG_N, GROUP_CFG_RULE, GROUP_CFG_ENABLE, GROUP_CFG_OUT0, GROUP_CFG_OUT1]⟩,
   ⟨0x0400010A, 1, 64, [GROUP_SUM_THR]⟩,
   ⟨0x0400010B, 1, 64, [GROUP_CNT_COUNT]⟩,
   ⟨0x0400010C, 1, 64, [GROUP_LAT_BOUND]⟩,
   ⟨0x04000201, 1, 16, [CLASS_CFG_PRE, CLASS_CFG_POST, CLASS_CFG_ENABLE, CLASS_CFG_ZS_EN, CLASS_CFG_OMIT_EMPTY, CLASS_CFG_HITS_EN, CLASS_CFG_OUT0, CLASS_CFG_OUT1]⟩,
   ⟨0x04000202, 1, 16, [CLASS_HITS_HITS_MAX]⟩,
   ⟨0x04000203, 8, 16, [CLASS_MASK_MASK]⟩,
   ⟨0x0400020B, 1, 16, [ROOT_GROUPS_LO_GROUPS]⟩,
   ⟨0x0400020C, 1, 16, [ROOT_GROUPS_HI_GROUPS]⟩,
   ⟨0x0400020D, 1, 16, [ROOT_N_N]⟩,
   ⟨0x0400020E, 1, 16, [CLASS_EVENTS_COUNT]⟩,
   ⟨0x0400020F, 1, 16, [CLASS_LATE_LATE, CLASS_LATE_DECK]⟩]


/-- Parameters of block TRG, part 1. -/
def tabTRG1 : List Par :=
  [⟨0x04000301, 1, 1, [HORIZON_NS]⟩,
   ⟨0x04000302, 1, 1, [ROOT_CFG_ROOT, ROOT_CFG_WIN, ROOT_CFG_ROOT_ADDR]⟩,
   ⟨0x04000303, 1, 1, [ROOT_ALIGN_ALIGN, ROOT_ALIGN_ACCEPT_DEST]⟩,
   ⟨0x04000304, 1, 1, [TRIG_IN_CFG_EN0, TRIG_IN_CFG_POL0, TRIG_IN_CFG_CLASS0, TRIG_IN_CFG_EN1, TRIG_IN_CFG_POL1, TRIG_IN_CFG_CLASS1]⟩,
   ⟨0x04000305, 1, 1, [TRIG_IN_DELAY0_DELAY]⟩,
   ⟨0x04000306, 1, 1, [TRIG_IN_DELAY1_DELAY]⟩,
   ⟨0x04000307, 1, 1, [TRIG_OUT_CFG_WIDTH0, TRIG_OUT_CFG_WIDTH1, TRIG_OUT_CFG_EN0, TRIG_OUT_CFG_EN1]⟩,
   ⟨0x04000308, 1, 1, [EXTRACT_STATUS_OUTSTANDING, EXTRACT_STATUS_PEAK, EXTRACT_STATUS_REFUSED]⟩,
   ⟨0x04000309, 1, 1, [ACCEPT_STATUS_DUP, ACCEPT_STATUS_IGNORED]⟩,
   ⟨0x0400030A, 1, 1, [TRIG_UNCOMP_COUNT]⟩]

/-! ### Block LOOP -/

/-- LOOP_MODE.MODE. -/
def LOOP_MODE_MODE : Fld := ⟨0x05000101, 0, 1, .rws, 0, 0, 1⟩
/-- LOOP_CFG.ENABLE. -/
def LOOP_CFG_ENABLE : Fld := ⟨0x05000102, 0, 1, .rwm, 128, 0, 1⟩
/-- LOOP_CFG.SP_SRC. -/
def LOOP_CFG_SP_SRC : Fld := ⟨0x05000102, 1, 1, .rwm, 128, 0, 1⟩
/-- LOOP_CFG.GAUGE. -/
def LOOP_CFG_GAUGE : Fld := ⟨0x05000102, 2, 3, .rwm, 128, 0, 7⟩
/-- LOOP_CFG.REP_EN. -/
def LOOP_CFG_REP_EN : Fld := ⟨0x05000102, 5, 1, .rwm, 128, 0, 1⟩
/-- LOOP_CFG.CUR_EN. -/
def LOOP_CFG_CUR_EN : Fld := ⟨0x05000102, 6, 1, .rwm, 128, 0, 1⟩
/-- LOOP_CFG.LEAD. -/
def LOOP_CFG_LEAD : Fld := ⟨0x05000102, 7, 4, .rwm, 128, 0, 15⟩
/-- LOOP_GAIN.KP. -/
def LOOP_GAIN_KP : Fld := ⟨0x05000103, 0, 16, .rwm, 8388608, 0, 65535⟩
/-- LOOP_GAIN.KI. -/
def LOOP_GAIN_KI : Fld := ⟨0x05000103, 16, 16, .rwm, 8388608, 0, 65535⟩
/-- LOOP_REP.N. -/
def LOOP_REP_N : Fld := ⟨0x05000104, 0, 13, .rwm, 4280287332, 2, 4096⟩
/-- LOOP_REP.LEARN. -/
def LOOP_REP_LEARN : Fld := ⟨0x05000104, 16, 8, .rwm, 4280287332, 0, 255⟩
/-- LOOP_REP.FORGET. -/
def LOOP_REP_FORGET : Fld := ⟨0x05000104, 24, 8, .rwm, 4280287332, 0, 255⟩
/-- LOOP_OFFLOAD.GAIN. -/
def LOOP_OFFLOAD_GAIN : Fld := ⟨0x05000105, 0, 8, .rwm, 16, 0, 255⟩
/-- LOOP_OFFLOAD.CENTRE. -/
def LOOP_OFFLOAD_CENTRE : Fld := ⟨0x05000105, 16, 16, .rwm, 16, 0, 65535⟩
/-- LOOP_DEADBAND.BAND. -/
def LOOP_DEADBAND_BAND : Fld := ⟨0x05000106, 0, 8, .rwm, 16, 0, 255⟩
/-- HV_SCALE.SCALE. -/
def HV_SCALE_SCALE : Fld := ⟨0x05000107, 0, 16, .rwm, 0, 0, 65535⟩
/-- R_SER.OHM. -/
def R_SER_OHM : Fld := ⟨0x05000108, 0, 16, .rwm, 0, 0, 65535⟩
/-- OV_TARGET.TARGET. -/
def OV_TARGET_TARGET : Fld := ⟨0x05000109, 0, 16, .rws, 40000, 0, 65535⟩
/-- VBD.REF. -/
def VBD_REF : Fld := ⟨0x0500010A, 0, 20, .rws, 0, 0, 1048575⟩
/-- VBD_TC.TC. -/
def VBD_TC_TC : Fld := ⟨0x0500010B, 0, 16, .rws, 0, 0, 65535⟩
/-- TEMP_MAP.T_OFF. -/
def TEMP_MAP_T_OFF : Fld := ⟨0x0500010C, 0, 16, .rws, 2500, 0, 65535⟩
/-- TEMP_MAP.T_GAIN. -/
def TEMP_MAP_T_GAIN : Fld := ⟨0x0500010C, 16, 16, .rws, 2500, 0, 65535⟩
/-- TEMP_X0.X0. -/
def TEMP_X0_X0 : Fld := ⟨0x0500010D, 0, 24, .rws, 0, 0, 16777215⟩
/-- T_REF.T_REF. -/
def T_REF_T_REF : Fld := ⟨0x0500010E, 0, 16, .rws, 2500, 0, 65535⟩
/-- LOOP_SLEW.U_SLEW. -/
def LOOP_SLEW_U_SLEW : Fld := ⟨0x0500010F, 0, 16, .rws, 4194464, 0, 65535⟩
/-- LOOP_SLEW.D_SLEW. -/
def LOOP_SLEW_D_SLEW : Fld := ⟨0x0500010F, 16, 16, .rws, 4194464, 0, 65535⟩
/-- MAN_U.U. -/
def MAN_U_U : Fld := ⟨0x05000110, 0, 16, .rwm, 0, 0, 65535⟩
/-- SETTLE.US. -/
def SETTLE_US : Fld := ⟨0x05000111, 0, 11, .rws, 200, 20, 2000⟩
/-- LOOP_OUTLIER.MASK. -/
def LOOP_OUTLIER_MASK : Fld := ⟨0x05000112, 0, 16, .ro, 4194304, 0, 65535⟩
/-- LOOP_OUTLIER.FRAC. -/
def LOOP_OUTLIER_FRAC : Fld := ⟨0x05000112, 16, 8, .rws, 4194304, 0, 255⟩
/-- LOOP_STATUS.MODE_NOW. -/
def LOOP_STATUS_MODE_NOW : Fld := ⟨0x05000113, 0, 1, .ro, 0, 0, 1⟩
/-- LOOP_STATUS.SLEW_LIMITED. -/
def LOOP_STATUS_SLEW_LIMITED : Fld := ⟨0x05000113, 1, 1, .ro, 0, 0, 1⟩
/-- LOOP_STATUS.RANGE_LIMITED. -/
def LOOP_STATUS_RANGE_LIMITED : Fld := ⟨0x05000113, 2, 1, .ro, 0, 0, 1⟩
/-- LOOP_STATUS.LOOP_OVERRUN. -/
def LOOP_STATUS_LOOP_OVERRUN : Fld := ⟨0x05000113, 3, 1, .w1c, 0, 0, 1⟩
/-- LOOP_STATUS.SP_FAULT. -/
def LOOP_STATUS_SP_FAULT : Fld := ⟨0x05000113, 4, 1, .ro, 0, 0, 1⟩
/-- LOOP_STATUS.CUR_STALE. -/
def LOOP_STATUS_CUR_STALE : Fld := ⟨0x05000113, 5, 1, .ro, 0, 0, 1⟩
/-- LOOP_STATUS.TRIP_HELD. -/
def LOOP_STATUS_TRIP_HELD : Fld := ⟨0x05000113, 6, 1, .ro, 0, 0, 1⟩
/-- LOOP_STATUS.OVERRUNS. -/
def LOOP_STATUS_OVERRUNS : Fld := ⟨0x05000113, 16, 16, .ro, 0, 0, 65535⟩
/-- LOOP_OUT.U. -/
def LOOP_OUT_U : Fld := ⟨0x05000114, 0, 16, .ro, 0, 0, 65535⟩
/-- LOOP_OUT.DUTY. -/
def LOOP_OUT_DUTY : Fld := ⟨0x05000114, 16, 16, .ro, 0, 0, 65535⟩
/-- LOOP_TELEM.DIV. -/
def LOOP_TELEM_DIV : Fld := ⟨0x05000115, 0, 8, .rws, 10, 0, 255⟩
/-- SETTLE_CNT.RESTARTS. -/
def SETTLE_CNT_RESTARTS : Fld := ⟨0x05000116, 0, 16, .ro, 0, 0, 65535⟩
/-- LOOP_PERIOD.US. -/
def LOOP_PERIOD_US : Fld := ⟨0x05000201, 0, 14, .rwm, 100, 20, 10000⟩
/-- LOOP_HV_AVG.AVG. -/
def LOOP_HV_AVG_AVG : Fld := ⟨0x05000202, 0, 3, .rwm, 5, 0, 7⟩
/-- CUR_HOLD.MS. -/
def CUR_HOLD_MS : Fld := ⟨0x05000203, 0, 16, .rws, 100, 0, 65535⟩

/-- Parameters of block LOOP, part 0. -/
def tabLOOP0 : List Par :=
  [⟨0x05000101, 1, 16, [LOOP_MODE_MODE]⟩,
   ⟨0x05000102, 1, 16, [LOOP_CFG_ENABLE, LOOP_CFG_SP_SRC, LOOP_CFG_GAUGE, LOOP_CFG_REP_EN, LOOP_CFG_CUR_EN, LOOP_CFG_LEAD]⟩,
   ⟨0x05000103, 1, 16, [LOOP_GAIN_KP, LOOP_GAIN_KI]⟩,
   ⟨0x05000104, 1, 16, [LOOP_REP_N, LOOP_REP_LEARN, LOOP_REP_FORGET]⟩,
   ⟨0x05000105, 1, 16, [LOOP_OFFLOAD_GAIN, LOOP_OFFLOAD_CENTRE]⟩,
   ⟨0x05000106, 1, 16, [LOOP_DEADBAND_BAND]⟩,
   ⟨0x05000107, 1, 16, [HV_SCALE_SCALE]⟩,
   ⟨0x05000108, 1, 16, [R_SER_OHM]⟩,
   ⟨0x05000109, 1, 16, [OV_TARGET_TARGET]⟩,
   ⟨0x0500010A, 1, 16, [VBD_REF]⟩,
   ⟨0x0500010B, 1, 16, [VBD_TC_TC]⟩,
   ⟨0x0500010C, 1, 16, [TEMP_MAP_T_OFF, TEMP_MAP_T_GAIN]⟩,
   ⟨0x0500010D, 1, 16, [TEMP_X0_X0]⟩,
   ⟨0x0500010E, 1, 16, [T_REF_T_REF]⟩,
   ⟨0x0500010F, 1, 16, [LOOP_SLEW_U_SLEW, LOOP_SLEW_D_SLEW]⟩,
   ⟨0x05000110, 1, 16, [MAN_U_U]⟩,
   ⟨0x05000111, 1, 16, [SETTLE_US]⟩,
   ⟨0x05000112, 1, 16, [LOOP_OUTLIER_MASK, LOOP_OUTLIER_FRAC]⟩,
   ⟨0x05000113, 1, 16, [LOOP_STATUS_MODE_NOW, LOOP_STATUS_SLEW_LIMITED, LOOP_STATUS_RANGE_LIMITED, LOOP_STATUS_LOOP_OVERRUN, LOOP_STATUS_SP_FAULT, LOOP_STATUS_CUR_STALE, LOOP_STATUS_TRIP_HELD, LOOP_STATUS_OVERRUNS]⟩,
   ⟨0x05000114, 1, 16, [LOOP_OUT_U, LOOP_OUT_DUTY]⟩]


/-- Parameters of block LOOP, part 1. -/
def tabLOOP1 : List Par :=
  [⟨0x05000115, 1, 16, [LOOP_TELEM_DIV]⟩,
   ⟨0x05000116, 1, 16, [SETTLE_CNT_RESTARTS]⟩,
   ⟨0x05000201, 1, 1, [LOOP_PERIOD_US]⟩,
   ⟨0x05000202, 1, 1, [LOOP_HV_AVG_AVG]⟩,
   ⟨0x05000203, 1, 1, [CUR_HOLD_MS]⟩]

/-! ### Block DECK -/

/-- DECK_CH_CFG.DECK_PEAK. -/
def DECK_CH_CFG_DECK_PEAK : Fld := ⟨0x06000001, 0, 8, .rws, 5349376, 0, 255⟩
/-- DECK_CH_CFG.SNIP_PEAK. -/
def DECK_CH_CFG_SNIP_PEAK : Fld := ⟨0x06000001, 8, 8, .rws, 5349376, 0, 255⟩
/-- DECK_CH_CFG.SNIP_LONG. -/
def DECK_CH_CFG_SNIP_LONG : Fld := ⟨0x06000001, 16, 1, .rws, 5349376, 0, 1⟩
/-- DECK_CH_CFG.SNIP_PRE. -/
def DECK_CH_CFG_SNIP_PRE : Fld := ⟨0x06000001, 17, 5, .rws, 5349376, 0, 31⟩
/-- DECK_CH_CFG.ENABLE. -/
def DECK_CH_CFG_ENABLE : Fld := ⟨0x06000001, 22, 1, .rws, 5349376, 0, 1⟩
/-- DECK_CH_THIN.THINNED. -/
def DECK_CH_THIN_THINNED : Fld := ⟨0x06000002, 0, 32, .ro, 0, 0, 4294967295⟩
/-- HOLD_STATE.STATE. -/
def HOLD_STATE_STATE : Fld := ⟨0x06000101, 0, 2, .ro, 0, 0, 3⟩
/-- HOLD_STATE.CONTEXT. -/
def HOLD_STATE_CONTEXT : Fld := ⟨0x06000101, 16, 10, .ro, 0, 0, 1023⟩
/-- HOLD_POS.TIME_NS. -/
def HOLD_POS_TIME_NS : Fld := ⟨0x06000102, 0, 64, .ro, 0, 0, 18446744073709551615⟩
/-- DECK_CFG.ENABLE. -/
def DECK_CFG_ENABLE : Fld := ⟨0x06000201, 0, 1, .rws, 6145, 0, 1⟩
/-- DECK_CFG.HOLD_WARN_GIB. -/
def DECK_CFG_HOLD_WARN_GIB : Fld := ⟨0x06000201, 8, 8, .rws, 6145, 1, 255⟩
/-- DECK_REGION.SIZE_GIB. -/
def DECK_REGION_SIZE_GIB : Fld := ⟨0x06000202, 0, 16, .rws, 0, 0, 65535⟩
/-- DECK_STATUS.ONLINE. -/
def DECK_STATUS_ONLINE : Fld := ⟨0x06000203, 0, 1, .ro, 0, 0, 1⟩
/-- DECK_STATUS.THINNING. -/
def DECK_STATUS_THINNING : Fld := ⟨0x06000203, 1, 1, .ro, 0, 0, 1⟩
/-- DECK_STATUS.SESSIONS. -/
def DECK_STATUS_SESSIONS : Fld := ⟨0x06000203, 8, 8, .ro, 0, 0, 255⟩
/-- DECK_STATUS.HOLDS. -/
def DECK_STATUS_HOLDS : Fld := ⟨0x06000203, 16, 7, .ro, 0, 0, 127⟩
/-- DECK_CAP.CAP. -/
def DECK_CAP_CAP : Fld := ⟨0x06000204, 0, 16, .ro, 0, 0, 65535⟩
/-- DECK_ALLOW.BYTES. -/
def DECK_ALLOW_BYTES : Fld := ⟨0x06000205, 0, 32, .ro, 0, 0, 4294967295⟩
/-- DECK_WOFF.OFFSET. -/
def DECK_WOFF_OFFSET : Fld := ⟨0x06000206, 0, 64, .ro, 0, 0, 18446744073709551615⟩
/-- DECK_OLDEST.TIME_NS. -/
def DECK_OLDEST_TIME_NS : Fld := ⟨0x06000207, 0, 64, .ro, 0, 0, 18446744073709551615⟩
/-- DECK_OLDEST_EPOCH.EPOCH. -/
def DECK_OLDEST_EPOCH_EPOCH : Fld := ⟨0x06000208, 0, 16, .ro, 0, 0, 65535⟩
/-- DECK_WPOINT.TIME_NS. -/
def DECK_WPOINT_TIME_NS : Fld := ⟨0x06000209, 0, 64, .ro, 0, 0, 18446744073709551615⟩
/-- DECK_RATE.KB. -/
def DECK_RATE_KB : Fld := ⟨0x0600020A, 0, 32, .ro, 0, 0, 4294967295⟩
/-- DECK_COUNTS.OVERTAKEN. -/
def DECK_COUNTS_OVERTAKEN : Fld := ⟨0x0600020B, 0, 16, .ro, 0, 0, 65535⟩
/-- DECK_COUNTS.TRUNCATED. -/
def DECK_COUNTS_TRUNCATED : Fld := ⟨0x0600020B, 16, 16, .ro, 0, 0, 65535⟩
/-- DECK_POISON.COUNT. -/
def DECK_POISON_COUNT : Fld := ⟨0x0600020C, 0, 32, .ro, 0, 0, 4294967295⟩
/-- DECK_DEPTH.MS. -/
def DECK_DEPTH_MS : Fld := ⟨0x0600020D, 0, 32, .ro, 0, 0, 4294967295⟩

/-- Parameters of block DECK, part 0. -/
def tabDECK0 : List Par :=
  [⟨0x06000001, 1, 256, [DECK_CH_CFG_DECK_PEAK, DECK_CH_CFG_SNIP_PEAK, DECK_CH_CFG_SNIP_LONG, DECK_CH_CFG_SNIP_PRE, DECK_CH_CFG_ENABLE]⟩,
   ⟨0x06000002, 1, 256, [DECK_CH_THIN_THINNED]⟩,
   ⟨0x06000101, 1, 64, [HOLD_STATE_STATE, HOLD_STATE_CONTEXT]⟩,
   ⟨0x06000102, 1, 64, [HOLD_POS_TIME_NS]⟩,
   ⟨0x06000201, 1, 1, [DECK_CFG_ENABLE, DECK_CFG_HOLD_WARN_GIB]⟩,
   ⟨0x06000202, 1, 1, [DECK_REGION_SIZE_GIB]⟩,
   ⟨0x06000203, 1, 1, [DECK_STATUS_ONLINE, DECK_STATUS_THINNING, DECK_STATUS_SESSIONS, DECK_STATUS_HOLDS]⟩,
   ⟨0x06000204, 1, 1, [DECK_CAP_CAP]⟩,
   ⟨0x06000205, 1, 1, [DECK_ALLOW_BYTES]⟩,
   ⟨0x06000206, 1, 1, [DECK_WOFF_OFFSET]⟩,
   ⟨0x06000207, 1, 1, [DECK_OLDEST_TIME_NS]⟩,
   ⟨0x06000208, 1, 1, [DECK_OLDEST_EPOCH_EPOCH]⟩,
   ⟨0x06000209, 1, 1, [DECK_WPOINT_TIME_NS]⟩,
   ⟨0x0600020A, 1, 1, [DECK_RATE_KB]⟩,
   ⟨0x0600020B, 1, 1, [DECK_COUNTS_OVERTAKEN, DECK_COUNTS_TRUNCATED]⟩,
   ⟨0x0600020C, 1, 1, [DECK_POISON_COUNT]⟩,
   ⟨0x0600020D, 1, 1, [DECK_DEPTH_MS]⟩]

/-! ### Block SEAM -/

/-- SEAM_IN_CFG.ENABLE. -/
def SEAM_IN_CFG_ENABLE : Fld := ⟨0x07000001, 0, 1, .rws, 20996096, 0, 1⟩
/-- SEAM_IN_CFG.RESERVE_KIB. -/
def SEAM_IN_CFG_RESERVE_KIB : Fld := ⟨0x07000001, 8, 10, .rws, 20996096, 32, 256⟩
/-- SEAM_IN_CFG.FRAY. -/
def SEAM_IN_CFG_FRAY : Fld := ⟨0x07000001, 20, 12, .rws, 20996096, 1, 1000⟩
/-- SEAM_IN_STATUS.STATE. -/
def SEAM_IN_STATUS_STATE : Fld := ⟨0x07000002, 0, 2, .ro, 0, 0, 3⟩
/-- SEAM_IN_STATUS.LAG. -/
def SEAM_IN_STATUS_LAG : Fld := ⟨0x07000002, 2, 1, .ro, 0, 0, 1⟩
/-- SEAM_IN_STATUS.BACKPRESSURED. -/
def SEAM_IN_STATUS_BACKPRESSURED : Fld := ⟨0x07000002, 3, 1, .ro, 0, 0, 1⟩
/-- SEAM_IN_STATUS.SPILLING. -/
def SEAM_IN_STATUS_SPILLING : Fld := ⟨0x07000002, 4, 1, .ro, 0, 0, 1⟩
/-- SEAM_IN_HEM.TIME_NS. -/
def SEAM_IN_HEM_TIME_NS : Fld := ⟨0x07000003, 0, 64, .ro, 0, 0, 18446744073709551615⟩
/-- SEAM_IN_HEMX.EPOCH. -/
def SEAM_IN_HEMX_EPOCH : Fld := ⟨0x07000004, 0, 16, .ro, 0, 0, 65535⟩
/-- SEAM_IN_HEMX.STITCH. -/
def SEAM_IN_HEMX_STITCH : Fld := ⟨0x07000004, 16, 12, .ro, 0, 0, 4095⟩
/-- SEAM_IN_OCC.BYTES. -/
def SEAM_IN_OCC_BYTES : Fld := ⟨0x07000005, 0, 24, .ro, 0, 0, 16777215⟩
/-- SEAM_IN_SPILL.KIB. -/
def SEAM_IN_SPILL_KIB : Fld := ⟨0x07000006, 0, 32, .ro, 0, 0, 4294967295⟩
/-- SEAM_IN_COUNTS.FRAYS. -/
def SEAM_IN_COUNTS_FRAYS : Fld := ⟨0x07000007, 0, 16, .ro, 0, 0, 65535⟩
/-- SEAM_IN_COUNTS.LATE. -/
def SEAM_IN_COUNTS_LATE : Fld := ⟨0x07000007, 16, 16, .ro, 0, 0, 65535⟩
/-- SEAM_IN_RECS.COUNT. -/
def SEAM_IN_RECS_COUNT : Fld := ⟨0x07000008, 0, 64, .ro, 0, 0, 18446744073709551615⟩
/-- SEAM_CFG.UP_PORT. -/
def SEAM_CFG_UP_PORT : Fld := ⟨0x07000201, 0, 3, .rws, 15, 0, 7⟩
/-- SEAM_CFG.ENABLE. -/
def SEAM_CFG_ENABLE : Fld := ⟨0x07000201, 3, 1, .rws, 15, 0, 1⟩
/-- HEM_CFG.INTERVAL_US. -/
def HEM_CFG_INTERVAL_US : Fld := ⟨0x07000202, 0, 5, .rws, 12298, 1, 20⟩
/-- HEM_CFG.GAP. -/
def HEM_CFG_GAP : Fld := ⟨0x07000202, 8, 8, .rws, 12298, 1, 255⟩
/-- SPILL_CFG.SIZE_MIB. -/
def SPILL_CFG_SIZE_MIB : Fld := ⟨0x07000203, 0, 13, .rws, 12587008, 64, 4096⟩
/-- SPILL_CFG.WM. -/
def SPILL_CFG_WM : Fld := ⟨0x07000203, 16, 8, .rws, 12587008, 64, 248⟩
/-- SPILL_BP.KIB. -/
def SPILL_BP_KIB : Fld := ⟨0x07000204, 0, 16, .rws, 512, 0, 65535⟩
/-- SEAM_RP.TIME_NS. -/
def SEAM_RP_TIME_NS : Fld := ⟨0x07000205, 0, 64, .ro, 0, 0, 18446744073709551615⟩
/-- SEAM_RPX.EPOCH. -/
def SEAM_RPX_EPOCH : Fld := ⟨0x07000206, 0, 16, .ro, 0, 0, 65535⟩
/-- SEAM_RPX.STITCH. -/
def SEAM_RPX_STITCH : Fld := ⟨0x07000206, 16, 12, .ro, 0, 0, 4095⟩
/-- THIMBLE_STATUS.POOL_FREE_KIB. -/
def THIMBLE_STATUS_POOL_FREE_KIB : Fld := ⟨0x07000207, 0, 16, .ro, 0, 0, 65535⟩
/-- THIMBLE_STATUS.POOL_PEAK_KIB. -/
def THIMBLE_STATUS_POOL_PEAK_KIB : Fld := ⟨0x07000207, 16, 16, .ro, 0, 0, 65535⟩
/-- SPILL_STATUS.USED_MIB. -/
def SPILL_STATUS_USED_MIB : Fld := ⟨0x07000208, 0, 16, .ro, 0, 0, 65535⟩
/-- SPILL_STATUS.POISON. -/
def SPILL_STATUS_POISON : Fld := ⟨0x07000208, 16, 16, .ro, 0, 0, 65535⟩
/-- SEAM_ERR.HEM_REJECTED. -/
def SEAM_ERR_HEM_REJECTED : Fld := ⟨0x07000209, 0, 16, .ro, 0, 0, 65535⟩
/-- SEAM_ERR.PROMISE_BROKEN. -/
def SEAM_ERR_PROMISE_BROKEN : Fld := ⟨0x07000209, 16, 16, .ro, 0, 0, 65535⟩
/-- SEAM_OUT.RELEASED. -/
def SEAM_OUT_RELEASED : Fld := ⟨0x0700020A, 0, 64, .ro, 0, 0, 18446744073709551615⟩

/-- Parameters of block SEAM, part 0. -/
def tabSEAM0 : List Par :=
  [⟨0x07000001, 1, 5, [SEAM_IN_CFG_ENABLE, SEAM_IN_CFG_RESERVE_KIB, SEAM_IN_CFG_FRAY]⟩,
   ⟨0x07000002, 1, 5, [SEAM_IN_STATUS_STATE, SEAM_IN_STATUS_LAG, SEAM_IN_STATUS_BACKPRESSURED, SEAM_IN_STATUS_SPILLING]⟩,
   ⟨0x07000003, 1, 5, [SEAM_IN_HEM_TIME_NS]⟩,
   ⟨0x07000004, 1, 5, [SEAM_IN_HEMX_EPOCH, SEAM_IN_HEMX_STITCH]⟩,
   ⟨0x07000005, 1, 5, [SEAM_IN_OCC_BYTES]⟩,
   ⟨0x07000006, 1, 5, [SEAM_IN_SPILL_KIB]⟩,
   ⟨0x07000007, 1, 5, [SEAM_IN_COUNTS_FRAYS, SEAM_IN_COUNTS_LATE]⟩,
   ⟨0x07000008, 1, 5, [SEAM_IN_RECS_COUNT]⟩,
   ⟨0x07000201, 1, 1, [SEAM_CFG_UP_PORT, SEAM_CFG_ENABLE]⟩,
   ⟨0x07000202, 1, 1, [HEM_CFG_INTERVAL_US, HEM_CFG_GAP]⟩,
   ⟨0x07000203, 1, 1, [SPILL_CFG_SIZE_MIB, SPILL_CFG_WM]⟩,
   ⟨0x07000204, 1, 1, [SPILL_BP_KIB]⟩,
   ⟨0x07000205, 1, 1, [SEAM_RP_TIME_NS]⟩,
   ⟨0x07000206, 1, 1, [SEAM_RPX_EPOCH, SEAM_RPX_STITCH]⟩,
   ⟨0x07000207, 1, 1, [THIMBLE_STATUS_POOL_FREE_KIB, THIMBLE_STATUS_POOL_PEAK_KIB]⟩,
   ⟨0x07000208, 1, 1, [SPILL_STATUS_USED_MIB, SPILL_STATUS_POISON]⟩,
   ⟨0x07000209, 1, 1, [SEAM_ERR_HEM_REJECTED, SEAM_ERR_PROMISE_BROKEN]⟩,
   ⟨0x0700020A, 1, 1, [SEAM_OUT_RELEASED]⟩]

/-! ### Block CTX -/

/-- CTX_CFG.DEST_KIND. -/
def CTX_CFG_DEST_KIND : Fld := ⟨0x08000001, 0, 2, .rws, 28, 0, 2⟩
/-- CTX_CFG.CLASS. -/
def CTX_CFG_CLASS : Fld := ⟨0x08000001, 2, 2, .rws, 28, 0, 3⟩
/-- CTX_CFG.WEIGHT. -/
def CTX_CFG_WEIGHT : Fld := ⟨0x08000001, 4, 8, .rws, 28, 1, 255⟩
/-- CTX_CFG.PRESS. -/
def CTX_CFG_PRESS : Fld := ⟨0x08000001, 12, 1, .rws, 28, 0, 1⟩
/-- CTX_CFG.DETACH. -/
def CTX_CFG_DETACH : Fld := ⟨0x08000001, 13, 1, .rws, 28, 0, 1⟩
/-- CTX_CFG.WRAP. -/
def CTX_CFG_WRAP : Fld := ⟨0x08000001, 14, 1, .rws, 28, 0, 1⟩
/-- CTX_CFG.NOTIFY. -/
def CTX_CFG_NOTIFY : Fld := ⟨0x08000001, 15, 3, .rws, 28, 0, 7⟩
/-- CTX_CFG.NOTIFY_EN. -/
def CTX_CFG_NOTIFY_EN : Fld := ⟨0x08000001, 18, 1, .rws, 28, 0, 1⟩
/-- CTX_SRC.MERGED. -/
def CTX_SRC_MERGED : Fld := ⟨0x08000002, 0, 1, .rws, 4294901760, 0, 1⟩
/-- CTX_SRC.LATE. -/
def CTX_SRC_LATE : Fld := ⟨0x08000002, 1, 1, .rws, 4294901760, 0, 1⟩
/-- CTX_SRC.REWIND. -/
def CTX_SRC_REWIND : Fld := ⟨0x08000002, 2, 1, .rws, 4294901760, 0, 1⟩
/-- CTX_SRC.RAW. -/
def CTX_SRC_RAW : Fld := ⟨0x08000002, 3, 1, .rws, 4294901760, 0, 1⟩
/-- CTX_SRC.INBOUND. -/
def CTX_SRC_INBOUND : Fld := ⟨0x08000002, 4, 1, .rws, 4294901760, 0, 1⟩
/-- CTX_SRC.MON. -/
def CTX_SRC_MON : Fld := ⟨0x08000002, 5, 5, .rws, 4294901760, 0, 31⟩
/-- CTX_SRC.CLASSES. -/
def CTX_SRC_CLASSES : Fld := ⟨0x08000002, 16, 16, .rws, 4294901760, 0, 65535⟩
/-- CTX_RAW_MASK.MASK. -/
def CTX_RAW_MASK_MASK : Fld := ⟨0x08000003, 0, 32, .rws, 0, 0, 4294967295⟩
/-- CTX_RING_BASE.ADDR. -/
def CTX_RING_BASE_ADDR : Fld := ⟨0x0800000B, 0, 64, .rws, 0, 0, 18446744073709551615⟩
/-- CTX_REQ_BASE.ADDR. -/
def CTX_REQ_BASE_ADDR : Fld := ⟨0x0800000C, 0, 64, .rws, 0, 0, 18446744073709551615⟩
/-- CTX_RING_CFG.LOG2. -/
def CTX_RING_CFG_LOG2 : Fld := ⟨0x0800000D, 0, 4, .rws, 1034, 4, 15⟩
/-- CTX_RING_CFG.REQ_LOG2. -/
def CTX_RING_CFG_REQ_LOG2 : Fld := ⟨0x0800000D, 8, 4, .rws, 1034, 4, 12⟩
/-- CTX_FAB_DEST.ADDR. -/
def CTX_FAB_DEST_ADDR : Fld := ⟨0x0800000E, 0, 16, .rws, 65535, 0, 65535⟩
/-- CTX_FAB_DEST.REMOTE. -/
def CTX_FAB_DEST_REMOTE : Fld := ⟨0x0800000E, 16, 10, .rws, 65535, 0, 1023⟩
/-- CTX_DDR_DEST.BASE_MIB. -/
def CTX_DDR_DEST_BASE_MIB : Fld := ⟨0x0800000F, 0, 16, .rws, 0, 0, 65535⟩
/-- CTX_DDR_DEST.SIZE_MIB. -/
def CTX_DDR_DEST_SIZE_MIB : Fld := ⟨0x0800000F, 16, 16, .rws, 0, 0, 65535⟩
/-- CTX_DDR_RD.OFFSET. -/
def CTX_DDR_RD_OFFSET : Fld := ⟨0x08000010, 0, 64, .rw, 0, 0, 18446744073709551615⟩
/-- CTX_DDR_WOFF.OFFSET. -/
def CTX_DDR_WOFF_OFFSET : Fld := ⟨0x08000011, 0, 64, .ro, 0, 0, 18446744073709551615⟩
/-- CTX_INBOUND.WINDOW. -/
def CTX_INBOUND_WINDOW : Fld := ⟨0x08000012, 0, 8, .rws, 16, 1, 64⟩
/-- CTX_DETACH.US. -/
def CTX_DETACH_US : Fld := ⟨0x08000013, 0, 16, .rws, 2000, 100, 65535⟩
/-- CTX_CTRL.OP. -/
def CTX_CTRL_OP : Fld := ⟨0x08000014, 0, 2, .wo, 0, 1, 3⟩
/-- CTX_STATUS.STATE. -/
def CTX_STATUS_STATE : Fld := ⟨0x08000015, 0, 3, .ro, 0, 0, 7⟩
/-- CTX_STATUS.BACKLOGGED. -/
def CTX_STATUS_BACKLOGGED : Fld := ⟨0x08000015, 3, 1, .ro, 0, 0, 1⟩
/-- CTX_STATUS.FLOOR_DUE. -/
def CTX_STATUS_FLOOR_DUE : Fld := ⟨0x08000015, 4, 1, .ro, 0, 0, 1⟩
/-- CTX_STATUS.CREDIT_WAIT. -/
def CTX_STATUS_CREDIT_WAIT : Fld := ⟨0x08000015, 5, 1, .ro, 0, 0, 1⟩
/-- CTX_STATUS.REPLY_ACTIVE. -/
def CTX_STATUS_REPLY_ACTIVE : Fld := ⟨0x08000015, 6, 1, .ro, 0, 0, 1⟩
/-- CTX_STATUS.REQ_QUEUED. -/
def CTX_STATUS_REQ_QUEUED : Fld := ⟨0x08000015, 8, 8, .ro, 0, 0, 255⟩
/-- CTX_STATUS.RESETS. -/
def CTX_STATUS_RESETS : Fld := ⟨0x08000015, 16, 16, .ro, 0, 0, 65535⟩
/-- CTX_BYTES.BYTES. -/
def CTX_BYTES_BYTES : Fld := ⟨0x08000016, 0, 64, .ro, 0, 0, 18446744073709551615⟩
/-- CTX_RECS.RECORDS. -/
def CTX_RECS_RECORDS : Fld := ⟨0x08000017, 0, 64, .ro, 0, 0, 18446744073709551615⟩
/-- CTX_FLOOR.UNITS. -/
def CTX_FLOOR_UNITS : Fld := ⟨0x08000018, 0, 32, .ro, 0, 0, 4294967295⟩
/-- CTX_DEFICIT.BYTES. -/
def CTX_DEFICIT_BYTES : Fld := ⟨0x08000019, 0, 32, .ro, 0, 0, 4294967295⟩
/-- CTX_LINK.BOUND. -/
def CTX_LINK_BOUND : Fld := ⟨0x08000101, 0, 11, .ro, 0, 0, 2047⟩
/-- CTX_LINK.LIMIT. -/
def CTX_LINK_LIMIT : Fld := ⟨0x08000101, 16, 11, .ro, 0, 0, 2047⟩
/-- CTX_LINK.OVER. -/
def CTX_LINK_OVER : Fld := ⟨0x08000101, 27, 1, .ro, 0, 0, 1⟩
/-- CTX_LINK_RATE.MBPS. -/
def CTX_LINK_RATE_MBPS : Fld := ⟨0x08000102, 0, 32, .ro, 0, 0, 4294967295⟩
/-- EGRESS_STATUS.USED_KIB. -/
def EGRESS_STATUS_USED_KIB : Fld := ⟨0x08000201, 0, 16, .ro, 0, 0, 65535⟩
/-- EGRESS_STATUS.PEAK_KIB. -/
def EGRESS_STATUS_PEAK_KIB : Fld := ⟨0x08000201, 16, 16, .ro, 0, 0, 65535⟩
/-- EGRESS_HOLDER.CONTEXT. -/
def EGRESS_HOLDER_CONTEXT : Fld := ⟨0x08000202, 0, 10, .ro, 0, 0, 1023⟩
/-- EGRESS_HOLDER.VALID. -/
def EGRESS_HOLDER_VALID : Fld := ⟨0x08000202, 15, 1, .ro, 0, 0, 1⟩
/-- EGRESS_HOLDER.HOLD_US. -/
def EGRESS_HOLDER_HOLD_US : Fld := ⟨0x08000202, 16, 16, .ro, 0, 0, 65535⟩
/-- MON_STATUS.USED_KIB. -/
def MON_STATUS_USED_KIB : Fld := ⟨0x08000203, 0, 16, .ro, 0, 0, 65535⟩
/-- MON_STATUS.RESETS. -/
def MON_STATUS_RESETS : Fld := ⟨0x08000203, 16, 16, .ro, 0, 0, 65535⟩
/-- INBOUND_STATUS.RESERVED_KIB. -/
def INBOUND_STATUS_RESERVED_KIB : Fld := ⟨0x08000204, 0, 16, .ro, 0, 0, 65535⟩
/-- CTX_DDR_AREA.SIZE_MIB. -/
def CTX_DDR_AREA_SIZE_MIB : Fld := ⟨0x08000205, 0, 16, .rws, 0, 0, 65535⟩

/-- Parameters of block CTX, part 0. -/
def tabCTX0 : List Par :=
  [⟨0x08000001, 1, 1024, [CTX_CFG_DEST_KIND, CTX_CFG_CLASS, CTX_CFG_WEIGHT, CTX_CFG_PRESS, CTX_CFG_DETACH, CTX_CFG_WRAP, CTX_CFG_NOTIFY, CTX_CFG_NOTIFY_EN]⟩,
   ⟨0x08000002, 1, 1024, [CTX_SRC_MERGED, CTX_SRC_LATE, CTX_SRC_REWIND, CTX_SRC_RAW, CTX_SRC_INBOUND, CTX_SRC_MON, CTX_SRC_CLASSES]⟩,
   ⟨0x08000003, 8, 1024, [CTX_RAW_MASK_MASK]⟩,
   ⟨0x0800000B, 1, 1024, [CTX_RING_BASE_ADDR]⟩,
   ⟨0x0800000C, 1, 1024, [CTX_REQ_BASE_ADDR]⟩,
   ⟨0x0800000D, 1, 1024, [CTX_RING_CFG_LOG2, CTX_RING_CFG_REQ_LOG2]⟩,
   ⟨0x0800000E, 1, 1024, [CTX_FAB_DEST_ADDR, CTX_FAB_DEST_REMOTE]⟩,
   ⟨0x0800000F, 1, 1024, [CTX_DDR_DEST_BASE_MIB, CTX_DDR_DEST_SIZE_MIB]⟩,
   ⟨0x08000010, 1, 1024, [CTX_DDR_RD_OFFSET]⟩,
   ⟨0x08000011, 1, 1024, [CTX_DDR_WOFF_OFFSET]⟩,
   ⟨0x08000012, 1, 1024, [CTX_INBOUND_WINDOW]⟩,
   ⟨0x08000013, 1, 1024, [CTX_DETACH_US]⟩,
   ⟨0x08000014, 1, 1024, [CTX_CTRL_OP]⟩,
   ⟨0x08000015, 1, 1024, [CTX_STATUS_STATE, CTX_STATUS_BACKLOGGED, CTX_STATUS_FLOOR_DUE, CTX_STATUS_CREDIT_WAIT, CTX_STATUS_REPLY_ACTIVE, CTX_STATUS_REQ_QUEUED, CTX_STATUS_RESETS]⟩,
   ⟨0x08000016, 1, 1024, [CTX_BYTES_BYTES]⟩,
   ⟨0x08000017, 1, 1024, [CTX_RECS_RECORDS]⟩,
   ⟨0x08000018, 1, 1024, [CTX_FLOOR_UNITS]⟩,
   ⟨0x08000019, 1, 1024, [CTX_DEFICIT_BYTES]⟩,
   ⟨0x08000101, 1, 6, [CTX_LINK_BOUND, CTX_LINK_LIMIT, CTX_LINK_OVER]⟩,
   ⟨0x08000102, 1, 6, [CTX_LINK_RATE_MBPS]⟩]


/-- Parameters of block CTX, part 1. -/
def tabCTX1 : List Par :=
  [⟨0x08000201, 1, 1, [EGRESS_STATUS_USED_KIB, EGRESS_STATUS_PEAK_KIB]⟩,
   ⟨0x08000202, 1, 1, [EGRESS_HOLDER_CONTEXT, EGRESS_HOLDER_VALID, EGRESS_HOLDER_HOLD_US]⟩,
   ⟨0x08000203, 1, 1, [MON_STATUS_USED_KIB, MON_STATUS_RESETS]⟩,
   ⟨0x08000204, 1, 1, [INBOUND_STATUS_RESERVED_KIB]⟩,
   ⟨0x08000205, 1, 1, [CTX_DDR_AREA_SIZE_MIB]⟩]

/-! ### Block PRESS -/

/-- PRESS_ENG_STATUS.STATE. -/
def PRESS_ENG_STATUS_STATE : Fld := ⟨0x09000001, 0, 2, .ro, 0, 0, 3⟩
/-- PRESS_ENG_STATUS.MBOX. -/
def PRESS_ENG_STATUS_MBOX : Fld := ⟨0x09000001, 2, 1, .ro, 0, 0, 1⟩
/-- PRESS_ENG_STATUS.CONTEXT. -/
def PRESS_ENG_STATUS_CONTEXT : Fld := ⟨0x09000001, 16, 10, .ro, 0, 0, 1023⟩
/-- PRESS_ENG_IN.BYTES. -/
def PRESS_ENG_IN_BYTES : Fld := ⟨0x09000002, 0, 64, .ro, 0, 0, 18446744073709551615⟩
/-- PRESS_ENG_OUT.BYTES. -/
def PRESS_ENG_OUT_BYTES : Fld := ⟨0x09000003, 0, 64, .ro, 0, 0, 18446744073709551615⟩
/-- PRESS_CFG.MBOX_ENGINES. -/
def PRESS_CFG_MBOX_ENGINES : Fld := ⟨0x09000201, 0, 3, .rws, 1, 0, 6⟩
/-- PRESS_QUEUE.QUEUED. -/
def PRESS_QUEUE_QUEUED : Fld := ⟨0x09000202, 0, 6, .ro, 0, 0, 63⟩
/-- PRESS_QUEUE.REFUSED. -/
def PRESS_QUEUE_REFUSED : Fld := ⟨0x09000202, 8, 14, .ro, 0, 0, 16383⟩
/-- PRESS_COUNTS.CHECK_FAIL. -/
def PRESS_COUNTS_CHECK_FAIL : Fld := ⟨0x09000203, 0, 16, .ro, 0, 0, 65535⟩
/-- PRESS_COUNTS.NO_SPACE. -/
def PRESS_COUNTS_NO_SPACE : Fld := ⟨0x09000203, 16, 16, .ro, 0, 0, 65535⟩

/-- Parameters of block PRESS, part 0. -/
def tabPRESS0 : List Par :=
  [⟨0x09000001, 1, 6, [PRESS_ENG_STATUS_STATE, PRESS_ENG_STATUS_MBOX, PRESS_ENG_STATUS_CONTEXT]⟩,
   ⟨0x09000002, 1, 6, [PRESS_ENG_IN_BYTES]⟩,
   ⟨0x09000003, 1, 6, [PRESS_ENG_OUT_BYTES]⟩,
   ⟨0x09000201, 1, 1, [PRESS_CFG_MBOX_ENGINES]⟩,
   ⟨0x09000202, 1, 1, [PRESS_QUEUE_QUEUED, PRESS_QUEUE_REFUSED]⟩,
   ⟨0x09000203, 1, 1, [PRESS_COUNTS_CHECK_FAIL, PRESS_COUNTS_NO_SPACE]⟩]

/-! ### Block FAB -/

/-- FAB_PORT_CFG.ENABLE. -/
def FAB_PORT_CFG_ENABLE : Fld := ⟨0x0A000001, 0, 1, .rws, 66307, 0, 1⟩
/-- FAB_PORT_CFG.SHORTCUT_EN. -/
def FAB_PORT_CFG_SHORTCUT_EN : Fld := ⟨0x0A000001, 1, 1, .rws, 66307, 0, 1⟩
/-- FAB_PORT_CFG.VC2_WEIGHT. -/
def FAB_PORT_CFG_VC2_WEIGHT : Fld := ⟨0x0A000001, 8, 8, .rws, 66307, 1, 255⟩
/-- FAB_PORT_CFG.VC3_WEIGHT. -/
def FAB_PORT_CFG_VC3_WEIGHT : Fld := ⟨0x0A000001, 16, 8, .rws, 66307, 1, 255⟩
/-- FAB_PORT_STATUS.STATE. -/
def FAB_PORT_STATUS_STATE : Fld := ⟨0x0A000002, 0, 3, .ro, 4294901760, 0, 7⟩
/-- FAB_PORT_STATUS.WIDTH. -/
def FAB_PORT_STATUS_WIDTH : Fld := ⟨0x0A000002, 3, 3, .ro, 4294901760, 0, 7⟩
/-- FAB_PORT_STATUS.PEER_ADDR. -/
def FAB_PORT_STATUS_PEER_ADDR : Fld := ⟨0x0A000002, 16, 16, .ro, 4294901760, 0, 65535⟩
/-- FAB_PORT_DELAY.HOP. -/
def FAB_PORT_DELAY_HOP : Fld := ⟨0x0A000003, 0, 32, .ro, 0, 0, 4294967295⟩
/-- FAB_PORT_ERR.CRC. -/
def FAB_PORT_ERR_CRC : Fld := ⟨0x0A000004, 0, 16, .ro, 0, 0, 65535⟩
/-- FAB_PORT_ERR.REPLAYS. -/
def FAB_PORT_ERR_REPLAYS : Fld := ⟨0x0A000004, 16, 16, .ro, 0, 0, 65535⟩
/-- FAB_PORT_DROP.VC0_DROPPED. -/
def FAB_PORT_DROP_VC0_DROPPED : Fld := ⟨0x0A000005, 0, 16, .ro, 0, 0, 65535⟩
/-- FAB_PORT_DROP.DISCARDED. -/
def FAB_PORT_DROP_DISCARDED : Fld := ⟨0x0A000005, 16, 16, .ro, 0, 0, 65535⟩
/-- FAB_PORT_CREDIT.VC2. -/
def FAB_PORT_CREDIT_VC2 : Fld := ⟨0x0A000006, 0, 16, .ro, 0, 0, 65535⟩
/-- FAB_PORT_CREDIT.VC3. -/
def FAB_PORT_CREDIT_VC3 : Fld := ⟨0x0A000006, 16, 16, .ro, 0, 0, 65535⟩
/-- FAB_PORT_PEER_ID.ID. -/
def FAB_PORT_PEER_ID_ID : Fld := ⟨0x0A000007, 0, 64, .ro, 0, 0, 18446744073709551615⟩
/-- FAB_PORT_BYTES.TX. -/
def FAB_PORT_BYTES_TX : Fld := ⟨0x0A000008, 0, 64, .ro, 0, 0, 18446744073709551615⟩
/-- FAB_REGION_ROUTE.PORT. -/
def FAB_REGION_ROUTE_PORT : Fld := ⟨0x0A000101, 0, 3, .ro, 63, 0, 7⟩
/-- FAB_REGION_ROUTE.PORT0. -/
def FAB_REGION_ROUTE_PORT0 : Fld := ⟨0x0A000101, 3, 3, .ro, 63, 0, 7⟩
/-- FAB_REGION_ROUTE.SHORTCUT. -/
def FAB_REGION_ROUTE_SHORTCUT : Fld := ⟨0x0A000101, 6, 1, .ro, 63, 0, 1⟩
/-- FAB_MEMBER_ROUTE.PORT. -/
def FAB_MEMBER_ROUTE_PORT : Fld := ⟨0x0A000102, 0, 3, .ro, 63, 0, 7⟩
/-- FAB_MEMBER_ROUTE.PORT0. -/
def FAB_MEMBER_ROUTE_PORT0 : Fld := ⟨0x0A000102, 3, 3, .ro, 63, 0, 7⟩
/-- FAB_MEMBER_ROUTE.SHORTCUT. -/
def FAB_MEMBER_ROUTE_SHORTCUT : Fld := ⟨0x0A000102, 6, 1, .ro, 63, 0, 1⟩
/-- FAB_ADDR.ADDR. -/
def FAB_ADDR_ADDR : Fld := ⟨0x0A000201, 0, 16, .ro, 65535, 0, 65535⟩
/-- FAB_ADDR.ROOT. -/
def FAB_ADDR_ROOT : Fld := ⟨0x0A000201, 16, 1, .ro, 65535, 0, 1⟩
/-- FAB_ADDR.STRANDED. -/
def FAB_ADDR_STRANDED : Fld := ⟨0x0A000201, 17, 1, .ro, 65535, 0, 1⟩
/-- FAB_ROOT_ID.ID. -/
def FAB_ROOT_ID_ID : Fld := ⟨0x0A000202, 0, 64, .ro, 0, 0, 18446744073709551615⟩
/-- FAB_TREE.UP_PORT. -/
def FAB_TREE_UP_PORT : Fld := ⟨0x0A000203, 0, 3, .ro, 7, 0, 7⟩
/-- FAB_TREE.LEVEL. -/
def FAB_TREE_LEVEL : Fld := ⟨0x0A000203, 8, 5, .ro, 7, 0, 31⟩
/-- FAB_TREE.ROUTE_SETS. -/
def FAB_TREE_ROUTE_SETS : Fld := ⟨0x0A000203, 16, 16, .ro, 7, 0, 65535⟩
/-- FAB_CLAIM_CFG.WINDOW_MS. -/
def FAB_CLAIM_CFG_WINDOW_MS : Fld := ⟨0x0A000204, 0, 16, .rw, 10, 1, 1000⟩
/-- FAB_CLOCK.SOURCE. -/
def FAB_CLOCK_SOURCE : Fld := ⟨0x0A000205, 0, 2, .ro, 0, 0, 3⟩
/-- FAB_CLOCK.LOCKED. -/
def FAB_CLOCK_LOCKED : Fld := ⟨0x0A000205, 2, 1, .ro, 0, 0, 1⟩
/-- FAB_CLOCK.CHANGES. -/
def FAB_CLOCK_CHANGES : Fld := ⟨0x0A000205, 8, 8, .ro, 0, 0, 255⟩
/-- FAB_ID.ID. -/
def FAB_ID_ID : Fld := ⟨0x0A000206, 0, 64, .ro, 1, 0, 18446744073709551615⟩
/-- FAB_ACCEPT_GAP.MISSED. -/
def FAB_ACCEPT_GAP_MISSED : Fld := ⟨0x0A000207, 0, 32, .ro, 0, 0, 4294967295⟩
/-- FAB_ROUTE_PENDING.TIME_NS. -/
def FAB_ROUTE_PENDING_TIME_NS : Fld := ⟨0x0A000208, 0, 64, .ro, 0, 0, 18446744073709551615⟩

/-- Parameters of block FAB, part 0. -/
def tabFAB0 : List Par :=
  [⟨0x0A000001, 1, 4, [FAB_PORT_CFG_ENABLE, FAB_PORT_CFG_SHORTCUT_EN, FAB_PORT_CFG_VC2_WEIGHT, FAB_PORT_CFG_VC3_WEIGHT]⟩,
   ⟨0x0A000002, 1, 4, [FAB_PORT_STATUS_STATE, FAB_PORT_STATUS_WIDTH, FAB_PORT_STATUS_PEER_ADDR]⟩,
   ⟨0x0A000003, 1, 4, [FAB_PORT_DELAY_HOP]⟩,
   ⟨0x0A000004, 1, 4, [FAB_PORT_ERR_CRC, FAB_PORT_ERR_REPLAYS]⟩,
   ⟨0x0A000005, 1, 4, [FAB_PORT_DROP_VC0_DROPPED, FAB_PORT_DROP_DISCARDED]⟩,
   ⟨0x0A000006, 1, 4, [FAB_PORT_CREDIT_VC2, FAB_PORT_CREDIT_VC3]⟩,
   ⟨0x0A000007, 1, 4, [FAB_PORT_PEER_ID_ID]⟩,
   ⟨0x0A000008, 1, 4, [FAB_PORT_BYTES_TX]⟩,
   ⟨0x0A000101, 1, 256, [FAB_REGION_ROUTE_PORT, FAB_REGION_ROUTE_PORT0, FAB_REGION_ROUTE_SHORTCUT]⟩,
   ⟨0x0A000102, 1, 255, [FAB_MEMBER_ROUTE_PORT, FAB_MEMBER_ROUTE_PORT0, FAB_MEMBER_ROUTE_SHORTCUT]⟩,
   ⟨0x0A000201, 1, 1, [FAB_ADDR_ADDR, FAB_ADDR_ROOT, FAB_ADDR_STRANDED]⟩,
   ⟨0x0A000202, 1, 1, [FAB_ROOT_ID_ID]⟩,
   ⟨0x0A000203, 1, 1, [FAB_TREE_UP_PORT, FAB_TREE_LEVEL, FAB_TREE_ROUTE_SETS]⟩,
   ⟨0x0A000204, 1, 1, [FAB_CLAIM_CFG_WINDOW_MS]⟩,
   ⟨0x0A000205, 1, 1, [FAB_CLOCK_SOURCE, FAB_CLOCK_LOCKED, FAB_CLOCK_CHANGES]⟩,
   ⟨0x0A000206, 1, 1, [FAB_ID_ID]⟩,
   ⟨0x0A000207, 1, 1, [FAB_ACCEPT_GAP_MISSED]⟩,
   ⟨0x0A000208, 1, 1, [FAB_ROUTE_PENDING_TIME_NS]⟩]

/-! ### Block LANE -/

/-- LANE_CFG.ENABLE. -/
def LANE_CFG_ENABLE : Fld := ⟨0x0B000001, 0, 1, .rws, 33, 0, 1⟩
/-- LANE_CFG.TX_INV. -/
def LANE_CFG_TX_INV : Fld := ⟨0x0B000001, 1, 1, .rws, 33, 0, 1⟩
/-- LANE_CFG.RX_INV. -/
def LANE_CFG_RX_INV : Fld := ⟨0x0B000001, 2, 1, .rws, 33, 0, 1⟩
/-- LANE_CFG.CTLE. -/
def LANE_CFG_CTLE : Fld := ⟨0x0B000001, 3, 3, .rws, 33, 0, 7⟩
/-- LANE_TX.PRE. -/
def LANE_TX_PRE : Fld := ⟨0x0B000002, 0, 4, .rws, 2244, 0, 12⟩
/-- LANE_TX.POST. -/
def LANE_TX_POST : Fld := ⟨0x0B000002, 4, 5, .rws, 2244, 0, 24⟩
/-- LANE_TX.SWING. -/
def LANE_TX_SWING : Fld := ⟨0x0B000002, 9, 3, .rws, 2244, 0, 7⟩
/-- LANE_STATUS.STATE. -/
def LANE_STATUS_STATE : Fld := ⟨0x0B000003, 0, 3, .ro, 0, 0, 7⟩
/-- LANE_STATUS.CDR_LOCK. -/
def LANE_STATUS_CDR_LOCK : Fld := ⟨0x0B000003, 3, 1, .ro, 0, 0, 1⟩
/-- LANE_STATUS.BLOCK_LOCK. -/
def LANE_STATUS_BLOCK_LOCK : Fld := ⟨0x0B000003, 4, 1, .ro, 0, 0, 1⟩
/-- LANE_STATUS.FLAPPED. -/
def LANE_STATUS_FLAPPED : Fld := ⟨0x0B000003, 5, 1, .w1c, 0, 0, 1⟩
/-- LANE_STATUS.LOSSES. -/
def LANE_STATUS_LOSSES : Fld := ⟨0x0B000003, 8, 8, .ro, 0, 0, 255⟩
/-- LANE_STATUS.SKEW_UI. -/
def LANE_STATUS_SKEW_UI : Fld := ⟨0x0B000003, 16, 7, .ro, 0, 0, 127⟩
/-- LANE_ERR.SYNC_ERR. -/
def LANE_ERR_SYNC_ERR : Fld := ⟨0x0B000004, 0, 16, .ro, 0, 0, 65535⟩
/-- LANE_ERR.RETRAINS. -/
def LANE_ERR_RETRAINS : Fld := ⟨0x0B000004, 16, 16, .ro, 0, 0, 65535⟩
/-- LANE_LOOP.MODE. -/
def LANE_LOOP_MODE : Fld := ⟨0x0B000005, 0, 2, .rw, 0, 0, 3⟩
/-- LANE_LOOP.FAR_ALLOW. -/
def LANE_LOOP_FAR_ALLOW : Fld := ⟨0x0B000005, 2, 1, .rw, 0, 0, 1⟩
/-- LANE_PORT.TX_MASK. -/
def LANE_PORT_TX_MASK : Fld := ⟨0x0B000101, 0, 4, .ro, 6553600, 0, 15⟩
/-- LANE_PORT.RX_MASK. -/
def LANE_PORT_RX_MASK : Fld := ⟨0x0B000101, 4, 4, .ro, 6553600, 0, 15⟩
/-- LANE_PORT.RESTRIPES. -/
def LANE_PORT_RESTRIPES : Fld := ⟨0x0B000101, 8, 8, .ro, 6553600, 0, 255⟩
/-- LANE_PORT.HOLD_MS. -/
def LANE_PORT_HOLD_MS : Fld := ⟨0x0B000101, 16, 16, .rws, 6553600, 1, 65535⟩
/-- PRBS_CFG.POLY. -/
def PRBS_CFG_POLY : Fld := ⟨0x0B000102, 0, 2, .rw, 3, 0, 3⟩
/-- PRBS_CFG.GEN_EN. -/
def PRBS_CFG_GEN_EN : Fld := ⟨0x0B000102, 2, 1, .rw, 3, 0, 1⟩
/-- PRBS_CFG.CHK_EN. -/
def PRBS_CFG_CHK_EN : Fld := ⟨0x0B000102, 3, 1, .rw, 3, 0, 1⟩
/-- PRBS_CFG.INJ_RATE. -/
def PRBS_CFG_INJ_RATE : Fld := ⟨0x0B000102, 4, 4, .rw, 3, 0, 15⟩
/-- PRBS_INJECT.ONE. -/
def PRBS_INJECT_ONE : Fld := ⟨0x0B000103, 0, 1, .wo, 0, 0, 1⟩
/-- PRBS_STATUS.CHK_LOCK. -/
def PRBS_STATUS_CHK_LOCK : Fld := ⟨0x0B000104, 0, 1, .ro, 0, 0, 1⟩
/-- PRBS_STATUS.LOCK_LOSSES. -/
def PRBS_STATUS_LOCK_LOSSES : Fld := ⟨0x0B000104, 8, 8, .ro, 0, 0, 255⟩
/-- PRBS_BITS.BITS. -/
def PRBS_BITS_BITS : Fld := ⟨0x0B000105, 0, 64, .ro, 0, 0, 18446744073709551615⟩
/-- PRBS_ERRS.ERRORS. -/
def PRBS_ERRS_ERRORS : Fld := ⟨0x0B000106, 0, 64, .ro, 0, 0, 18446744073709551615⟩
/-- LANE_FLAP.MAX_LOSSES. -/
def LANE_FLAP_MAX_LOSSES : Fld := ⟨0x0B000201, 0, 8, .rws, 8, 1, 255⟩

/-- Parameters of block LANE, part 0. -/
def tabLANE0 : List Par :=
  [⟨0x0B000001, 1, 16, [LANE_CFG_ENABLE, LANE_CFG_TX_INV, LANE_CFG_RX_INV, LANE_CFG_CTLE]⟩,
   ⟨0x0B000002, 1, 16, [LANE_TX_PRE, LANE_TX_POST, LANE_TX_SWING]⟩,
   ⟨0x0B000003, 1, 16, [LANE_STATUS_STATE, LANE_STATUS_CDR_LOCK, LANE_STATUS_BLOCK_LOCK, LANE_STATUS_FLAPPED, LANE_STATUS_LOSSES, LANE_STATUS_SKEW_UI]⟩,
   ⟨0x0B000004, 1, 16, [LANE_ERR_SYNC_ERR, LANE_ERR_RETRAINS]⟩,
   ⟨0x0B000005, 1, 16, [LANE_LOOP_MODE, LANE_LOOP_FAR_ALLOW]⟩,
   ⟨0x0B000101, 1, 4, [LANE_PORT_TX_MASK, LANE_PORT_RX_MASK, LANE_PORT_RESTRIPES, LANE_PORT_HOLD_MS]⟩,
   ⟨0x0B000102, 1, 4, [PRBS_CFG_POLY, PRBS_CFG_GEN_EN, PRBS_CFG_CHK_EN, PRBS_CFG_INJ_RATE]⟩,
   ⟨0x0B000103, 1, 4, [PRBS_INJECT_ONE]⟩,
   ⟨0x0B000104, 1, 4, [PRBS_STATUS_CHK_LOCK, PRBS_STATUS_LOCK_LOSSES]⟩,
   ⟨0x0B000105, 1, 4, [PRBS_BITS_BITS]⟩,
   ⟨0x0B000106, 1, 4, [PRBS_ERRS_ERRORS]⟩,
   ⟨0x0B000201, 1, 1, [LANE_FLAP_MAX_LOSSES]⟩]

/-! ### Block TIME -/

/-- TIME_PORT_CFG.SYNC_EN. -/
def TIME_PORT_CFG_SYNC_EN : Fld := ⟨0x0C000001, 0, 1, .rws, 1, 0, 1⟩
/-- TIME_PORT_ASYM.ASYM. -/
def TIME_PORT_ASYM_ASYM : Fld := ⟨0x0C000002, 0, 32, .rws, 0, 0, 4294967295⟩
/-- TIME_PORT_DELAY.DELAY. -/
def TIME_PORT_DELAY_DELAY : Fld := ⟨0x0C000003, 0, 32, .ro, 0, 0, 4294967295⟩
/-- TOUT_CFG.ENABLE. -/
def TOUT_CFG_ENABLE : Fld := ⟨0x0C000101, 0, 1, .rws, 0, 0, 1⟩
/-- TOUT_CFG.MODE. -/
def TOUT_CFG_MODE : Fld := ⟨0x0C000101, 1, 2, .rws, 0, 0, 2⟩
/-- TOUT_CFG.POL. -/
def TOUT_CFG_POL : Fld := ⟨0x0C000101, 3, 1, .rws, 0, 0, 1⟩
/-- TOUT_START.TIME_NS. -/
def TOUT_START_TIME_NS : Fld := ⟨0x0C000102, 0, 64, .rws, 0, 0, 18446744073709551615⟩
/-- TOUT_PERIOD.NS. -/
def TOUT_PERIOD_NS : Fld := ⟨0x0C000103, 0, 32, .rws, 1000000, 0, 4294967295⟩
/-- TOUT_FINE.START_ST. -/
def TOUT_FINE_START_ST : Fld := ⟨0x0C000104, 0, 12, .rws, 0, 0, 3071⟩
/-- TOUT_FINE.PERIOD_ST. -/
def TOUT_FINE_PERIOD_ST : Fld := ⟨0x0C000104, 12, 12, .rws, 0, 0, 3071⟩
/-- TOUT_WIDTH.WIDTH. -/
def TOUT_WIDTH_WIDTH : Fld := ⟨0x0C000105, 0, 32, .rws, 9600, 0, 4294967295⟩
/-- TOUT_STATUS.MISSED. -/
def TOUT_STATUS_MISSED : Fld := ⟨0x0C000106, 0, 1, .w1c, 0, 0, 1⟩
/-- TOUT_STATUS.PULSES. -/
def TOUT_STATUS_PULSES : Fld := ⟨0x0C000106, 16, 16, .ro, 0, 0, 65535⟩
/-- ACT_TIME.TIME_NS. -/
def ACT_TIME_TIME_NS : Fld := ⟨0x0C000201, 0, 64, .rw, 0, 0, 18446744073709551615⟩
/-- ACT_CFG.STITCH. -/
def ACT_CFG_STITCH : Fld := ⟨0x0C000202, 0, 12, .rw, 0, 0, 3071⟩
/-- ACT_CFG.KIND. -/
def ACT_CFG_KIND : Fld := ⟨0x0C000202, 12, 3, .rw, 0, 0, 4⟩
/-- ACT_CFG.RUN_LATE. -/
def ACT_CFG_RUN_LATE : Fld := ⟨0x0C000202, 15, 1, .rw, 0, 0, 1⟩
/-- ACT_CFG.BLANK. -/
def ACT_CFG_BLANK : Fld := ⟨0x0C000202, 16, 1, .rw, 0, 0, 1⟩
/-- ACT_CFG.BLANK_LEN. -/
def ACT_CFG_BLANK_LEN : Fld := ⟨0x0C000202, 20, 12, .rw, 0, 0, 4095⟩
/-- ACT_ARG.ARG. -/
def ACT_ARG_ARG : Fld := ⟨0x0C000203, 0, 32, .rw, 0, 0, 4294967295⟩
/-- ACT_PERIOD.NS. -/
def ACT_PERIOD_NS : Fld := ⟨0x0C000204, 0, 32, .rw, 0, 0, 4294967295⟩
/-- ACT_STATUS.STATE. -/
def ACT_STATUS_STATE : Fld := ⟨0x0C000205, 0, 2, .ro, 0, 0, 3⟩
/-- ACT_STATUS.RAN_LATE. -/
def ACT_STATUS_RAN_LATE : Fld := ⟨0x0C000205, 2, 1, .ro, 0, 0, 1⟩
/-- ACT_STATUS.LATE_US. -/
def ACT_STATUS_LATE_US : Fld := ⟨0x0C000205, 8, 24, .ro, 0, 0, 16777215⟩
/-- TIME_CFG.ROOT_SRC. -/
def TIME_CFG_ROOT_SRC : Fld := ⟨0x0C000301, 0, 1, .rws, 144, 0, 1⟩
/-- TIME_CFG.SYNC_LOG. -/
def TIME_CFG_SYNC_LOG : Fld := ⟨0x0C000301, 4, 4, .rws, 144, 0, 15⟩
/-- TIME_CFG.DOMAIN. -/
def TIME_CFG_DOMAIN : Fld := ⟨0x0C000301, 8, 8, .rws, 144, 0, 255⟩
/-- TIME_SERVO.AVG. -/
def TIME_SERVO_AVG : Fld := ⟨0x0C000302, 0, 7, .rws, 16, 1, 64⟩
/-- TIME_SLEW.PPM. -/
def TIME_SLEW_PPM : Fld := ⟨0x0C000303, 0, 7, .rws, 100, 1, 100⟩
/-- TIME_JUMP.NS. -/
def TIME_JUMP_NS : Fld := ⟨0x0C000304, 0, 30, .rws, 200, 10, 1000000000⟩
/-- TIME_SPAN.LEN. -/
def TIME_SPAN_LEN : Fld := ⟨0x0C000305, 0, 3, .rws, 3, 0, 6⟩
/-- TIME_STATUS.STATE. -/
def TIME_STATUS_STATE : Fld := ⟨0x0C000306, 0, 3, .ro, 0, 0, 7⟩
/-- TIME_STATUS.TIME_JUMP_REFUSED. -/
def TIME_STATUS_TIME_JUMP_REFUSED : Fld := ⟨0x0C000306, 3, 1, .ro, 0, 0, 1⟩
/-- TIME_STATUS.SLEWING. -/
def TIME_STATUS_SLEWING : Fld := ⟨0x0C000306, 4, 1, .ro, 0, 0, 1⟩
/-- TIME_STATUS.STEP_DROPPED. -/
def TIME_STATUS_STEP_DROPPED : Fld := ⟨0x0C000306, 5, 1, .w1c, 0, 0, 1⟩
/-- TIME_STATUS.DISCARDS. -/
def TIME_STATUS_DISCARDS : Fld := ⟨0x0C000306, 16, 16, .ro, 0, 0, 65535⟩
/-- TIME_OFFSET.ST. -/
def TIME_OFFSET_ST : Fld := ⟨0x0C000307, 0, 32, .ro, 0, 0, 4294967295⟩
/-- TIME_NOW_NS.TIME_NS. -/
def TIME_NOW_NS_TIME_NS : Fld := ⟨0x0C000308, 0, 64, .ro, 0, 0, 18446744073709551615⟩
/-- TIME_NOW_X.EPOCH. -/
def TIME_NOW_X_EPOCH : Fld := ⟨0x0C000309, 0, 16, .ro, 0, 0, 65535⟩
/-- TIME_NOW_X.STITCH. -/
def TIME_NOW_X_STITCH : Fld := ⟨0x0C000309, 16, 12, .ro, 0, 0, 4095⟩
/-- TIME_EPOCH.EPOCH. -/
def TIME_EPOCH_EPOCH : Fld := ⟨0x0C00030A, 0, 16, .ro, 0, 0, 65535⟩
/-- TIME_EPOCH.STEPS. -/
def TIME_EPOCH_STEPS : Fld := ⟨0x0C00030A, 16, 16, .ro, 0, 0, 65535⟩
/-- PPS_CFG.IN_POL. -/
def PPS_CFG_IN_POL : Fld := ⟨0x0C00030B, 0, 1, .rws, 402, 0, 1⟩
/-- PPS_CFG.OUT_EN. -/
def PPS_CFG_OUT_EN : Fld := ⟨0x0C00030B, 1, 1, .rws, 402, 0, 1⟩
/-- PPS_CFG.OUT_WIDTH. -/
def PPS_CFG_OUT_WIDTH : Fld := ⟨0x0C00030B, 2, 10, .rws, 402, 1, 500⟩
/-- SWAP_CFG.ARMED. -/
def SWAP_CFG_ARMED : Fld := ⟨0x0C00030C, 1, 7, .rw, 0, 0, 127⟩
/-- SWAP_LAST.TIME_NS. -/
def SWAP_LAST_TIME_NS : Fld := ⟨0x0C00030D, 0, 64, .ro, 0, 0, 18446744073709551615⟩
/-- ACT_COUNTS.LATE. -/
def ACT_COUNTS_LATE : Fld := ⟨0x0C00030E, 0, 16, .ro, 0, 0, 65535⟩
/-- ACT_COUNTS.SKIPPED. -/
def ACT_COUNTS_SKIPPED : Fld := ⟨0x0C00030E, 16, 16, .ro, 0, 0, 65535⟩

/-- Parameters of block TIME, part 0. -/
def tabTIME0 : List Par :=
  [⟨0x0C000001, 1, 4, [TIME_PORT_CFG_SYNC_EN]⟩,
   ⟨0x0C000002, 1, 4, [TIME_PORT_ASYM_ASYM]⟩,
   ⟨0x0C000003, 1, 4, [TIME_PORT_DELAY_DELAY]⟩,
   ⟨0x0C000101, 1, 8, [TOUT_CFG_ENABLE, TOUT_CFG_MODE, TOUT_CFG_POL]⟩,
   ⟨0x0C000102, 1, 8, [TOUT_START_TIME_NS]⟩,
   ⟨0x0C000103, 1, 8, [TOUT_PERIOD_NS]⟩,
   ⟨0x0C000104, 1, 8, [TOUT_FINE_START_ST, TOUT_FINE_PERIOD_ST]⟩,
   ⟨0x0C000105, 1, 8, [TOUT_WIDTH_WIDTH]⟩,
   ⟨0x0C000106, 1, 8, [TOUT_STATUS_MISSED, TOUT_STATUS_PULSES]⟩,
   ⟨0x0C000201, 1, 64, [ACT_TIME_TIME_NS]⟩,
   ⟨0x0C000202, 1, 64, [ACT_CFG_STITCH, ACT_CFG_KIND, ACT_CFG_RUN_LATE, ACT_CFG_BLANK, ACT_CFG_BLANK_LEN]⟩,
   ⟨0x0C000203, 1, 64, [ACT_ARG_ARG]⟩,
   ⟨0x0C000204, 1, 64, [ACT_PERIOD_NS]⟩,
   ⟨0x0C000205, 1, 64, [ACT_STATUS_STATE, ACT_STATUS_RAN_LATE, ACT_STATUS_LATE_US]⟩,
   ⟨0x0C000301, 1, 1, [TIME_CFG_ROOT_SRC, TIME_CFG_SYNC_LOG, TIME_CFG_DOMAIN]⟩,
   ⟨0x0C000302, 1, 1, [TIME_SERVO_AVG]⟩,
   ⟨0x0C000303, 1, 1, [TIME_SLEW_PPM]⟩,
   ⟨0x0C000304, 1, 1, [TIME_JUMP_NS]⟩,
   ⟨0x0C000305, 1, 1, [TIME_SPAN_LEN]⟩,
   ⟨0x0C000306, 1, 1, [TIME_STATUS_STATE, TIME_STATUS_TIME_JUMP_REFUSED, TIME_STATUS_SLEWING, TIME_STATUS_STEP_DROPPED, TIME_STATUS_DISCARDS]⟩]


/-- Parameters of block TIME, part 1. -/
def tabTIME1 : List Par :=
  [⟨0x0C000307, 1, 1, [TIME_OFFSET_ST]⟩,
   ⟨0x0C000308, 1, 1, [TIME_NOW_NS_TIME_NS]⟩,
   ⟨0x0C000309, 1, 1, [TIME_NOW_X_EPOCH, TIME_NOW_X_STITCH]⟩,
   ⟨0x0C00030A, 1, 1, [TIME_EPOCH_EPOCH, TIME_EPOCH_STEPS]⟩,
   ⟨0x0C00030B, 1, 1, [PPS_CFG_IN_POL, PPS_CFG_OUT_EN, PPS_CFG_OUT_WIDTH]⟩,
   ⟨0x0C00030C, 1, 1, [SWAP_CFG_ARMED]⟩,
   ⟨0x0C00030D, 1, 1, [SWAP_LAST_TIME_NS]⟩,
   ⟨0x0C00030E, 1, 1, [ACT_COUNTS_LATE, ACT_COUNTS_SKIPPED]⟩]

/-! ### Block DDR -/

/-- DDR_CH_STATUS.STATE. -/
def DDR_CH_STATUS_STATE : Fld := ⟨0x0D000001, 0, 2, .ro, 0, 0, 3⟩
/-- DDR_CH_STATUS.LNK_STATE. -/
def DDR_CH_STATUS_LNK_STATE : Fld := ⟨0x0D000001, 2, 3, .ro, 0, 0, 7⟩
/-- DDR_CH_STATUS.DENSITY. -/
def DDR_CH_STATUS_DENSITY : Fld := ⟨0x0D000001, 5, 1, .ro, 0, 0, 1⟩
/-- DDR_CH_STATUS.RANKS. -/
def DDR_CH_STATUS_RANKS : Fld := ⟨0x0D000001, 6, 4, .ro, 0, 0, 15⟩
/-- DDR_CH_STATUS.HOT. -/
def DDR_CH_STATUS_HOT : Fld := ⟨0x0D000001, 10, 1, .ro, 0, 0, 1⟩
/-- DDR_CH_STATUS.PANIC. -/
def DDR_CH_STATUS_PANIC : Fld := ⟨0x0D000001, 11, 1, .ro, 0, 0, 1⟩
/-- DDR_CH_SIZE.GIB. -/
def DDR_CH_SIZE_GIB : Fld := ⟨0x0D000002, 0, 16, .ro, 0, 0, 65535⟩
/-- DDR_CE.COUNT. -/
def DDR_CE_COUNT : Fld := ⟨0x0D000003, 0, 32, .ro, 0, 0, 4294967295⟩
/-- DDR_UE.READ. -/
def DDR_UE_READ : Fld := ⟨0x0D000004, 0, 16, .ro, 0, 0, 65535⟩
/-- DDR_UE.SCRUB. -/
def DDR_UE_SCRUB : Fld := ⟨0x0D000004, 16, 16, .ro, 0, 0, 65535⟩
/-- DDR_RETRY.PARITY. -/
def DDR_RETRY_PARITY : Fld := ⟨0x0D000005, 0, 16, .ro, 0, 0, 65535⟩
/-- DDR_RETRY.WCRC. -/
def DDR_RETRY_WCRC : Fld := ⟨0x0D000005, 16, 16, .ro, 0, 0, 65535⟩
/-- DDR_REFRESH.DEBT. -/
def DDR_REFRESH_DEBT : Fld := ⟨0x0D000006, 0, 3, .ro, 0, 0, 7⟩
/-- DDR_REFRESH.DEBT_PEAK. -/
def DDR_REFRESH_DEBT_PEAK : Fld := ⟨0x0D000006, 8, 8, .ro, 0, 0, 255⟩
/-- DDR_REFRESH.FORCED. -/
def DDR_REFRESH_FORCED : Fld := ⟨0x0D000006, 16, 16, .ro, 0, 0, 65535⟩
/-- DDR_PANIC_CNT.COUNT. -/
def DDR_PANIC_CNT_COUNT : Fld := ⟨0x0D000007, 0, 32, .ro, 0, 0, 4294967295⟩
/-- DDR_SUSPECT.DEVICE. -/
def DDR_SUSPECT_DEVICE : Fld := ⟨0x0D000008, 0, 5, .ro, 0, 0, 31⟩
/-- DDR_SUSPECT.RANK. -/
def DDR_SUSPECT_RANK : Fld := ⟨0x0D000008, 5, 3, .ro, 0, 0, 7⟩
/-- DDR_SUSPECT.VALID. -/
def DDR_SUSPECT_VALID : Fld := ⟨0x0D000008, 8, 1, .w1c, 0, 0, 1⟩
/-- DDR_TEMP.TEMP. -/
def DDR_TEMP_TEMP : Fld := ⟨0x0D000009, 0, 16, .ro, 0, 0, 65535⟩
/-- DDR_UE_ADDR.ADDR. -/
def DDR_UE_ADDR_ADDR : Fld := ⟨0x0D00000A, 0, 64, .ro, 0, 0, 18446744073709551615⟩
/-- DDR_CFG.WCRC_EN. -/
def DDR_CFG_WCRC_EN : Fld := ⟨0x0D000201, 0, 1, .rws, 4, 0, 1⟩
/-- DDR_CFG.REF_MODE. -/
def DDR_CFG_REF_MODE : Fld := ⟨0x0D000201, 1, 1, .rws, 4, 0, 1⟩
/-- DDR_CFG.FAST_TRAIN. -/
def DDR_CFG_FAST_TRAIN : Fld := ⟨0x0D000201, 2, 1, .rw, 4, 0, 1⟩
/-- DDR_SPEED.MAX. -/
def DDR_SPEED_MAX : Fld := ⟨0x0D000202, 0, 3, .rw, 4, 0, 4⟩
/-- DDR_MAP.FW_MIB. -/
def DDR_MAP_FW_MIB : Fld := ⟨0x0D000203, 0, 16, .rws, 0, 0, 1024⟩
/-- DDR_MAP.PRESS_MIB. -/
def DDR_MAP_PRESS_MIB : Fld := ⟨0x0D000203, 16, 16, .rws, 0, 0, 16384⟩
/-- DDR_PANIC.LEVEL_KIB. -/
def DDR_PANIC_LEVEL_KIB : Fld := ⟨0x0D000204, 0, 8, .rws, 4128, 8, 96⟩
/-- DDR_PANIC.RELEASE_KIB. -/
def DDR_PANIC_RELEASE_KIB : Fld := ⟨0x0D000204, 8, 8, .rws, 4128, 0, 255⟩
/-- DDR_ARB.DECK_READ. -/
def DDR_ARB_DECK_READ : Fld := ⟨0x0D000205, 0, 8, .rws, 33817608, 1, 255⟩
/-- DDR_ARB.SPILL. -/
def DDR_ARB_SPILL : Fld := ⟨0x0D000205, 8, 8, .rws, 33817608, 1, 255⟩
/-- DDR_ARB.PRESS. -/
def DDR_ARB_PRESS : Fld := ⟨0x0D000205, 16, 8, .rws, 33817608, 1, 255⟩
/-- DDR_ARB.CONTEXT. -/
def DDR_ARB_CONTEXT : Fld := ⟨0x0D000205, 24, 8, .rws, 33817608, 1, 255⟩
/-- DDR_SCRUB.PERIOD_H. -/
def DDR_SCRUB_PERIOD_H : Fld := ⟨0x0D000206, 0, 10, .rws, 65560, 1, 720⟩
/-- DDR_SCRUB.ENABLE. -/
def DDR_SCRUB_ENABLE : Fld := ⟨0x0D000206, 16, 1, .rws, 65560, 0, 1⟩
/-- DDR_SCRUB_STATUS.PASSES. -/
def DDR_SCRUB_STATUS_PASSES : Fld := ⟨0x0D000207, 0, 16, .ro, 0, 0, 65535⟩
/-- DDR_SCRUB_STATUS.PROGRESS. -/
def DDR_SCRUB_STATUS_PROGRESS : Fld := ⟨0x0D000207, 16, 10, .ro, 0, 0, 1023⟩
/-- DDR_RETRAIN.INTERVAL_MS. -/
def DDR_RETRAIN_INTERVAL_MS : Fld := ⟨0x0D000208, 0, 16, .rws, 328680, 100, 60000⟩
/-- DDR_RETRAIN.TEMP_K. -/
def DDR_RETRAIN_TEMP_K : Fld := ⟨0x0D000208, 16, 8, .rws, 328680, 1, 50⟩
/-- DDR_STATUS.ONLINE. -/
def DDR_STATUS_ONLINE : Fld := ⟨0x0D000209, 0, 1, .ro, 0, 0, 1⟩
/-- DDR_STATUS.MISMATCH. -/
def DDR_STATUS_MISMATCH : Fld := ⟨0x0D000209, 1, 1, .ro, 0, 0, 1⟩
/-- DDR_STATUS.FAST_TRAINED. -/
def DDR_STATUS_FAST_TRAINED : Fld := ⟨0x0D000209, 2, 1, .ro, 0, 0, 1⟩
/-- DDR_STATUS.SPEED. -/
def DDR_STATUS_SPEED : Fld := ⟨0x0D000209, 8, 3, .ro, 0, 0, 7⟩
/-- DDR_STATUS.USABLE_GIB. -/
def DDR_STATUS_USABLE_GIB : Fld := ⟨0x0D000209, 16, 16, .ro, 0, 0, 65535⟩
/-- DDR_CE_LIMIT.PER_HOUR. -/
def DDR_CE_LIMIT_PER_HOUR : Fld := ⟨0x0D00020A, 0, 16, .rws, 64, 0, 65535⟩

/-- Parameters of block DDR, part 0. -/
def tabDDR0 : List Par :=
  [⟨0x0D000001, 1, 2, [DDR_CH_STATUS_STATE, DDR_CH_STATUS_LNK_STATE, DDR_CH_STATUS_DENSITY, DDR_CH_STATUS_RANKS, DDR_CH_STATUS_HOT, DDR_CH_STATUS_PANIC]⟩,
   ⟨0x0D000002, 1, 2, [DDR_CH_SIZE_GIB]⟩,
   ⟨0x0D000003, 1, 2, [DDR_CE_COUNT]⟩,
   ⟨0x0D000004, 1, 2, [DDR_UE_READ, DDR_UE_SCRUB]⟩,
   ⟨0x0D000005, 1, 2, [DDR_RETRY_PARITY, DDR_RETRY_WCRC]⟩,
   ⟨0x0D000006, 1, 2, [DDR_REFRESH_DEBT, DDR_REFRESH_DEBT_PEAK, DDR_REFRESH_FORCED]⟩,
   ⟨0x0D000007, 1, 2, [DDR_PANIC_CNT_COUNT]⟩,
   ⟨0x0D000008, 1, 2, [DDR_SUSPECT_DEVICE, DDR_SUSPECT_RANK, DDR_SUSPECT_VALID]⟩,
   ⟨0x0D000009, 1, 2, [DDR_TEMP_TEMP]⟩,
   ⟨0x0D00000A, 1, 2, [DDR_UE_ADDR_ADDR]⟩,
   ⟨0x0D000201, 1, 1, [DDR_CFG_WCRC_EN, DDR_CFG_REF_MODE, DDR_CFG_FAST_TRAIN]⟩,
   ⟨0x0D000202, 1, 1, [DDR_SPEED_MAX]⟩,
   ⟨0x0D000203, 1, 1, [DDR_MAP_FW_MIB, DDR_MAP_PRESS_MIB]⟩,
   ⟨0x0D000204, 1, 1, [DDR_PANIC_LEVEL_KIB, DDR_PANIC_RELEASE_KIB]⟩,
   ⟨0x0D000205, 1, 1, [DDR_ARB_DECK_READ, DDR_ARB_SPILL, DDR_ARB_PRESS, DDR_ARB_CONTEXT]⟩,
   ⟨0x0D000206, 1, 1, [DDR_SCRUB_PERIOD_H, DDR_SCRUB_ENABLE]⟩,
   ⟨0x0D000207, 1, 1, [DDR_SCRUB_STATUS_PASSES, DDR_SCRUB_STATUS_PROGRESS]⟩,
   ⟨0x0D000208, 1, 1, [DDR_RETRAIN_INTERVAL_MS, DDR_RETRAIN_TEMP_K]⟩,
   ⟨0x0D000209, 1, 1, [DDR_STATUS_ONLINE, DDR_STATUS_MISMATCH, DDR_STATUS_FAST_TRAINED, DDR_STATUS_SPEED, DDR_STATUS_USABLE_GIB]⟩,
   ⟨0x0D00020A, 1, 1, [DDR_CE_LIMIT_PER_HOUR]⟩]

/-! ### Block CORE -/

/-- CORE_STATUS.ACTIVE. -/
def CORE_STATUS_ACTIVE : Fld := ⟨0x0F000001, 0, 2, .ro, 0, 0, 3⟩
/-- CORE_STATUS.STANDBY_SYNC. -/
def CORE_STATUS_STANDBY_SYNC : Fld := ⟨0x0F000001, 2, 1, .ro, 0, 0, 1⟩
/-- CORE_STATUS.COLD. -/
def CORE_STATUS_COLD : Fld := ⟨0x0F000001, 3, 1, .ro, 0, 0, 1⟩
/-- CORE_STATUS.TAKEOVERS. -/
def CORE_STATUS_TAKEOVERS : Fld := ⟨0x0F000001, 8, 8, .ro, 0, 0, 255⟩
/-- CORE_STATUS.COLD_COUNT. -/
def CORE_STATUS_COLD_COUNT : Fld := ⟨0x0F000001, 16, 16, .ro, 0, 0, 65535⟩
/-- CKPT_STATUS.UNSYNC. -/
def CKPT_STATUS_UNSYNC : Fld := ⟨0x0F000002, 0, 1, .ro, 0, 0, 1⟩
/-- CKPT_STATUS.LATE. -/
def CKPT_STATUS_LATE : Fld := ⟨0x0F000002, 8, 8, .ro, 0, 0, 255⟩
/-- CKPT_STATUS.RESYNCS. -/
def CKPT_STATUS_RESYNCS : Fld := ⟨0x0F000002, 16, 16, .ro, 0, 0, 65535⟩
/-- CKPT_LAST.TIME_NS. -/
def CKPT_LAST_TIME_NS : Fld := ⟨0x0F000003, 0, 64, .ro, 0, 0, 18446744073709551615⟩
/-- CKPT_SIZE.BYTES. -/
def CKPT_SIZE_BYTES : Fld := ⟨0x0F000004, 0, 24, .ro, 0, 0, 16777215⟩
/-- STBY_TEST.ENABLE. -/
def STBY_TEST_ENABLE : Fld := ⟨0x0F000005, 0, 1, .rws, 513, 0, 1⟩
/-- STBY_TEST.PASS_S. -/
def STBY_TEST_PASS_S : Fld := ⟨0x0F000005, 8, 16, .rws, 513, 2, 3600⟩
/-- PIER_RESETS.A. -/
def PIER_RESETS_A : Fld := ⟨0x0F000006, 0, 8, .ro, 0, 0, 255⟩
/-- PIER_RESETS.B. -/
def PIER_RESETS_B : Fld := ⟨0x0F000006, 8, 8, .ro, 0, 0, 255⟩
/-- MAINT_CTRL.UNIT. -/
def MAINT_CTRL_UNIT : Fld := ⟨0x0F000101, 0, 16, .wo, 0, 0, 65535⟩
/-- MAINT_CTRL.START. -/
def MAINT_CTRL_START : Fld := ⟨0x0F000101, 16, 1, .wo, 0, 0, 1⟩
/-- MAINT_STATUS.STATE. -/
def MAINT_STATUS_STATE : Fld := ⟨0x0F000102, 0, 2, .ro, 0, 0, 3⟩
/-- MAINT_STATUS.DEFERS. -/
def MAINT_STATUS_DEFERS : Fld := ⟨0x0F000102, 8, 8, .ro, 0, 0, 255⟩
/-- MAINT_STATUS.REFUSED. -/
def MAINT_STATUS_REFUSED : Fld := ⟨0x0F000102, 16, 16, .ro, 0, 0, 65535⟩
/-- MAINT_LAST.TIME_NS. -/
def MAINT_LAST_TIME_NS : Fld := ⟨0x0F000103, 0, 64, .ro, 0, 0, 18446744073709551615⟩
/-- MB_CFG.ENABLE. -/
def MB_CFG_ENABLE : Fld := ⟨0x0F000301, 0, 1, .rw, 19457, 0, 1⟩
/-- MB_CFG.PRIV_EN. -/
def MB_CFG_PRIV_EN : Fld := ⟨0x0F000301, 1, 1, .rw, 19457, 0, 1⟩
/-- MB_CFG.SMB_ADDR. -/
def MB_CFG_SMB_ADDR : Fld := ⟨0x0F000301, 8, 7, .rw, 19457, 0, 127⟩
/-- MB_STATS.COMMANDS. -/
def MB_STATS_COMMANDS : Fld := ⟨0x0F000302, 0, 16, .ro, 0, 0, 65535⟩
/-- MB_STATS.DUPS. -/
def MB_STATS_DUPS : Fld := ⟨0x0F000302, 16, 8, .ro, 0, 0, 255⟩
/-- MB_STATS.PEC_ERR. -/
def MB_STATS_PEC_ERR : Fld := ⟨0x0F000302, 24, 8, .ro, 0, 0, 255⟩
/-- MB_LAST_SEQ.H. -/
def MB_LAST_SEQ_H : Fld := ⟨0x0F000303, 0, 32, .ro, 0, 0, 4294967295⟩
/-- START_STATUS.CAUSE. -/
def START_STATUS_CAUSE : Fld := ⟨0x0F000401, 0, 3, .ro, 0, 0, 7⟩
/-- START_STATUS.RAIL. -/
def START_STATUS_RAIL : Fld := ⟨0x0F000401, 3, 4, .ro, 0, 0, 15⟩
/-- START_STATUS.REF_KIND. -/
def START_STATUS_REF_KIND : Fld := ⟨0x0F000401, 7, 2, .ro, 0, 0, 3⟩
/-- START_STATUS.ACQ. -/
def START_STATUS_ACQ : Fld := ⟨0x0F000401, 9, 1, .ro, 0, 0, 1⟩
/-- START_STATUS.STARTS. -/
def START_STATUS_STARTS : Fld := ⟨0x0F000401, 16, 16, .ro, 0, 0, 65535⟩
/-- START_TIMES.GRANT_MS. -/
def START_TIMES_GRANT_MS : Fld := ⟨0x0F000402, 0, 16, .ro, 0, 0, 65535⟩
/-- START_TIMES.ACQ_MS. -/
def START_TIMES_ACQ_MS : Fld := ⟨0x0F000402, 16, 16, .ro, 0, 0, 65535⟩
/-- THERM_CFG.WARN_C. -/
def THERM_CFG_WARN_C : Fld := ⟨0x0F000403, 0, 8, .rws, 354660, 60, 110⟩
/-- THERM_CFG.THROTTLE_C. -/
def THERM_CFG_THROTTLE_C : Fld := ⟨0x0F000403, 8, 8, .rws, 354660, 60, 110⟩
/-- THERM_CFG.HYST_K. -/
def THERM_CFG_HYST_K : Fld := ⟨0x0F000403, 16, 8, .rws, 354660, 1, 20⟩
/-- THERM_STATUS.TJ_MAX. -/
def THERM_STATUS_TJ_MAX : Fld := ⟨0x0F000404, 0, 16, .ro, 0, 0, 65535⟩
/-- THERM_STATUS.WARN. -/
def THERM_STATUS_WARN : Fld := ⟨0x0F000404, 16, 1, .ro, 0, 0, 1⟩
/-- THERM_STATUS.THROTTLED. -/
def THERM_STATUS_THROTTLED : Fld := ⟨0x0F000404, 17, 1, .ro, 0, 0, 1⟩
/-- THERM_STATUS.THROTTLES. -/
def THERM_STATUS_THROTTLES : Fld := ⟨0x0F000404, 24, 8, .ro, 0, 0, 255⟩
/-- POWER_EST.POWER. -/
def POWER_EST_POWER : Fld := ⟨0x0F000405, 0, 16, .ro, 0, 0, 65535⟩
/-- RAIL_STATUS.OUT. -/
def RAIL_STATUS_OUT : Fld := ⟨0x0F000406, 0, 9, .ro, 0, 0, 511⟩

/-- Parameters of block CORE, part 0. -/
def tabCORE0 : List Par :=
  [⟨0x0F000001, 1, 1, [CORE_STATUS_ACTIVE, CORE_STATUS_STANDBY_SYNC, CORE_STATUS_COLD, CORE_STATUS_TAKEOVERS, CORE_STATUS_COLD_COUNT]⟩,
   ⟨0x0F000002, 1, 1, [CKPT_STATUS_UNSYNC, CKPT_STATUS_LATE, CKPT_STATUS_RESYNCS]⟩,
   ⟨0x0F000003, 1, 1, [CKPT_LAST_TIME_NS]⟩,
   ⟨0x0F000004, 1, 1, [CKPT_SIZE_BYTES]⟩,
   ⟨0x0F000005, 1, 1, [STBY_TEST_ENABLE, STBY_TEST_PASS_S]⟩,
   ⟨0x0F000006, 1, 1, [PIER_RESETS_A, PIER_RESETS_B]⟩,
   ⟨0x0F000101, 1, 8, [MAINT_CTRL_UNIT, MAINT_CTRL_START]⟩,
   ⟨0x0F000102, 1, 8, [MAINT_STATUS_STATE, MAINT_STATUS_DEFERS, MAINT_STATUS_REFUSED]⟩,
   ⟨0x0F000103, 1, 8, [MAINT_LAST_TIME_NS]⟩,
   ⟨0x0F000301, 1, 6, [MB_CFG_ENABLE, MB_CFG_PRIV_EN, MB_CFG_SMB_ADDR]⟩,
   ⟨0x0F000302, 1, 6, [MB_STATS_COMMANDS, MB_STATS_DUPS, MB_STATS_PEC_ERR]⟩,
   ⟨0x0F000303, 1, 6, [MB_LAST_SEQ_H]⟩,
   ⟨0x0F000401, 1, 1, [START_STATUS_CAUSE, START_STATUS_RAIL, START_STATUS_REF_KIND, START_STATUS_ACQ, START_STATUS_STARTS]⟩,
   ⟨0x0F000402, 1, 1, [START_TIMES_GRANT_MS, START_TIMES_ACQ_MS]⟩,
   ⟨0x0F000403, 1, 1, [THERM_CFG_WARN_C, THERM_CFG_THROTTLE_C, THERM_CFG_HYST_K]⟩,
   ⟨0x0F000404, 1, 1, [THERM_STATUS_TJ_MAX, THERM_STATUS_WARN, THERM_STATUS_THROTTLED, THERM_STATUS_THROTTLES]⟩,
   ⟨0x0F000405, 1, 1, [POWER_EST_POWER]⟩,
   ⟨0x0F000406, 1, 1, [RAIL_STATUS_OUT]⟩]

/-! ### Block MEM -/

/-- MEM_ERR.CE. -/
def MEM_ERR_CE : Fld := ⟨0x10000001, 0, 16, .ro, 0, 0, 65535⟩
/-- MEM_ERR.UE. -/
def MEM_ERR_UE : Fld := ⟨0x10000001, 16, 16, .ro, 0, 0, 65535⟩
/-- MEM_UE_ADDR.ADDR. -/
def MEM_UE_ADDR_ADDR : Fld := ⟨0x10000002, 0, 64, .ro, 0, 0, 18446744073709551615⟩
/-- MEM_SCRUB.PERIOD_MS. -/
def MEM_SCRUB_PERIOD_MS : Fld := ⟨0x10000201, 0, 16, .rws, 66536, 10, 60000⟩
/-- MEM_SCRUB.ENABLE. -/
def MEM_SCRUB_ENABLE : Fld := ⟨0x10000201, 16, 1, .rws, 66536, 0, 1⟩
/-- MEM_SCRUB_STATUS.PASSES. -/
def MEM_SCRUB_STATUS_PASSES : Fld := ⟨0x10000202, 0, 32, .ro, 0, 0, 4294967295⟩
/-- MEM_CE_LIMIT.PER_HOUR. -/
def MEM_CE_LIMIT_PER_HOUR : Fld := ⟨0x10000203, 0, 16, .rws, 256, 0, 65535⟩
/-- MEM_COALESCE.US. -/
def MEM_COALESCE_US : Fld := ⟨0x10000204, 0, 10, .rws, 20, 1, 1000⟩
/-- MEM_INJECT.ARMED. -/
def MEM_INJECT_ARMED : Fld := ⟨0x10000205, 0, 1, .ro, 0, 0, 1⟩
/-- MEM_INJECT.MEMORY. -/
def MEM_INJECT_MEMORY : Fld := ⟨0x10000205, 8, 5, .ro, 0, 0, 31⟩

/-- Parameters of block MEM, part 0. -/
def tabMEM0 : List Par :=
  [⟨0x10000001, 1, 19, [MEM_ERR_CE, MEM_ERR_UE]⟩,
   ⟨0x10000002, 1, 19, [MEM_UE_ADDR_ADDR]⟩,
   ⟨0x10000201, 1, 1, [MEM_SCRUB_PERIOD_MS, MEM_SCRUB_ENABLE]⟩,
   ⟨0x10000202, 1, 1, [MEM_SCRUB_STATUS_PASSES]⟩,
   ⟨0x10000203, 1, 1, [MEM_CE_LIMIT_PER_HOUR]⟩,
   ⟨0x10000204, 1, 1, [MEM_COALESCE_US]⟩,
   ⟨0x10000205, 1, 1, [MEM_INJECT_ARMED, MEM_INJECT_MEMORY]⟩]

/-! ### Block REC -/

/-- REC_SRC_MASK.MASK. -/
def REC_SRC_MASK_MASK : Fld := ⟨0x11000001, 0, 32, .rw, 0, 0, 4294967295⟩
/-- REC_CFG.SEV_MIN. -/
def REC_CFG_SEV_MIN : Fld := ⟨0x11000201, 0, 3, .rw, 6553600, 0, 7⟩
/-- REC_CFG.REPEAT_MS. -/
def REC_CFG_REPEAT_MS : Fld := ⟨0x11000201, 16, 10, .rw, 6553600, 1, 1000⟩
/-- REC_RATE.PER_S. -/
def REC_RATE_PER_S : Fld := ⟨0x11000202, 0, 16, .rw, 2097162, 1, 65535⟩
/-- REC_RATE.BURST. -/
def REC_RATE_BURST : Fld := ⟨0x11000202, 16, 16, .rw, 2097162, 1, 65535⟩
/-- REC_STATUS.DROPPED_RATE. -/
def REC_STATUS_DROPPED_RATE : Fld := ⟨0x11000203, 0, 16, .ro, 0, 0, 65535⟩
/-- REC_STATUS.DROPPED_SPACE. -/
def REC_STATUS_DROPPED_SPACE : Fld := ⟨0x11000203, 16, 16, .ro, 0, 0, 65535⟩
/-- REC_NEXT_INDEX.INDEX. -/
def REC_NEXT_INDEX_INDEX : Fld := ⟨0x11000204, 0, 64, .ro, 0, 0, 18446744073709551615⟩
/-- REC_OLDEST.INDEX. -/
def REC_OLDEST_INDEX : Fld := ⟨0x11000205, 0, 64, .ro, 0, 0, 18446744073709551615⟩
/-- REC_CLEARED.INDEX. -/
def REC_CLEARED_INDEX : Fld := ⟨0x11000206, 0, 64, .ro, 0, 0, 18446744073709551615⟩
/-- REC_WEAR.LAPS. -/
def REC_WEAR_LAPS : Fld := ⟨0x11000207, 0, 32, .ro, 0, 0, 4294967295⟩
/-- REC_BUDGET.WORDS. -/
def REC_BUDGET_WORDS : Fld := ⟨0x11000208, 0, 19, .ro, 262144, 0, 524287⟩

/-- Parameters of block REC, part 0. -/
def tabREC0 : List Par :=
  [⟨0x11000001, 1, 8, [REC_SRC_MASK_MASK]⟩,
   ⟨0x11000201, 1, 1, [REC_CFG_SEV_MIN, REC_CFG_REPEAT_MS]⟩,
   ⟨0x11000202, 1, 1, [REC_RATE_PER_S, REC_RATE_BURST]⟩,
   ⟨0x11000203, 1, 1, [REC_STATUS_DROPPED_RATE, REC_STATUS_DROPPED_SPACE]⟩,
   ⟨0x11000204, 1, 1, [REC_NEXT_INDEX_INDEX]⟩,
   ⟨0x11000205, 1, 1, [REC_OLDEST_INDEX]⟩,
   ⟨0x11000206, 1, 1, [REC_CLEARED_INDEX]⟩,
   ⟨0x11000207, 1, 1, [REC_WEAR_LAPS]⟩,
   ⟨0x11000208, 1, 1, [REC_BUDGET_WORDS]⟩]

/-! ### Block SEC -/

/-- SEC_STATUS.BOOT_SEL. -/
def SEC_STATUS_BOOT_SEL : Fld := ⟨0x12000001, 0, 1, .ro, 0, 0, 1⟩
/-- SEC_STATUS.RUNNING. -/
def SEC_STATUS_RUNNING : Fld := ⟨0x12000001, 1, 1, .ro, 0, 0, 1⟩
/-- SEC_STATUS.A_OK. -/
def SEC_STATUS_A_OK : Fld := ⟨0x12000001, 2, 1, .ro, 0, 0, 1⟩
/-- SEC_STATUS.B_OK. -/
def SEC_STATUS_B_OK : Fld := ⟨0x12000001, 3, 1, .ro, 0, 0, 1⟩
/-- SEC_STATUS.FALLBACK. -/
def SEC_STATUS_FALLBACK : Fld := ⟨0x12000001, 4, 1, .ro, 0, 0, 1⟩
/-- SEC_STATUS.OWNER_REQUIRED. -/
def SEC_STATUS_OWNER_REQUIRED : Fld := ⟨0x12000001, 5, 1, .ro, 0, 0, 1⟩
/-- SEC_STATUS.OWNER_LOCKED. -/
def SEC_STATUS_OWNER_LOCKED : Fld := ⟨0x12000001, 6, 1, .ro, 0, 0, 1⟩
/-- SEC_STATUS.KEY_LOST. -/
def SEC_STATUS_KEY_LOST : Fld := ⟨0x12000001, 7, 1, .ro, 0, 0, 1⟩
/-- SEC_STATUS.LOAD_FAILS. -/
def SEC_STATUS_LOAD_FAILS : Fld := ⟨0x12000001, 16, 16, .ro, 0, 0, 65535⟩
/-- SEC_SVN.MIN. -/
def SEC_SVN_MIN : Fld := ⟨0x12000002, 0, 16, .ro, 0, 0, 65535⟩
/-- SEC_SVN.RUNNING. -/
def SEC_SVN_RUNNING : Fld := ⟨0x12000002, 16, 16, .ro, 0, 0, 65535⟩
/-- SEC_CFG.SVN_COMMIT. -/
def SEC_CFG_SVN_COMMIT : Fld := ⟨0x12000003, 0, 1, .w1s, 0, 0, 1⟩
/-- SEC_CFG.OWNER_REQUIRE. -/
def SEC_CFG_OWNER_REQUIRE : Fld := ⟨0x12000003, 1, 1, .rw, 0, 0, 1⟩
/-- SEC_CFG.OWNER_LOCK. -/
def SEC_CFG_OWNER_LOCK : Fld := ⟨0x12000003, 2, 1, .w1s, 0, 0, 1⟩
/-- SEC_HSS.NEXT. -/
def SEC_HSS_NEXT : Fld := ⟨0x12000004, 0, 31, .ro, 0, 0, 2147483647⟩
/-- SEC_TOKENS.ACCEPTED. -/
def SEC_TOKENS_ACCEPTED : Fld := ⟨0x12000005, 0, 16, .ro, 0, 0, 65535⟩
/-- SEC_TOKENS.REFUSED. -/
def SEC_TOKENS_REFUSED : Fld := ⟨0x12000005, 16, 16, .ro, 0, 0, 65535⟩
/-- OWNER_ECDSA_DIG.WORD. -/
def OWNER_ECDSA_DIG_WORD : Fld := ⟨0x12000101, 0, 64, .rw, 0, 0, 18446744073709551615⟩
/-- OWNER_LMS_DIG.WORD. -/
def OWNER_LMS_DIG_WORD : Fld := ⟨0x12000102, 0, 64, .rw, 0, 0, 18446744073709551615⟩
/-- OPER_KEY_LO.ID. -/
def OPER_KEY_LO_ID : Fld := ⟨0x12000201, 0, 64, .rw, 0, 0, 18446744073709551615⟩
/-- OPER_KEY_HI.ID. -/
def OPER_KEY_HI_ID : Fld := ⟨0x12000202, 0, 64, .rw, 0, 0, 18446744073709551615⟩

/-- Parameters of block SEC, part 0. -/
def tabSEC0 : List Par :=
  [⟨0x12000001, 1, 1, [SEC_STATUS_BOOT_SEL, SEC_STATUS_RUNNING, SEC_STATUS_A_OK, SEC_STATUS_B_OK, SEC_STATUS_FALLBACK, SEC_STATUS_OWNER_REQUIRED, SEC_STATUS_OWNER_LOCKED, SEC_STATUS_KEY_LOST, SEC_STATUS_LOAD_FAILS]⟩,
   ⟨0x12000002, 1, 1, [SEC_SVN_MIN, SEC_SVN_RUNNING]⟩,
   ⟨0x12000003, 1, 1, [SEC_CFG_SVN_COMMIT, SEC_CFG_OWNER_REQUIRE, SEC_CFG_OWNER_LOCK]⟩,
   ⟨0x12000004, 1, 1, [SEC_HSS_NEXT]⟩,
   ⟨0x12000005, 1, 1, [SEC_TOKENS_ACCEPTED, SEC_TOKENS_REFUSED]⟩,
   ⟨0x12000101, 1, 6, [OWNER_ECDSA_DIG_WORD]⟩,
   ⟨0x12000102, 1, 4, [OWNER_LMS_DIG_WORD]⟩,
   ⟨0x12000201, 1, 4, [OPER_KEY_LO_ID]⟩,
   ⟨0x12000202, 1, 4, [OPER_KEY_HI_ID]⟩]

/-- Every firmware parameter of the spec. -/
def table : List Par :=
  tabAFE0 ++
  tabAFE1 ++
  tabDIG0 ++
  tabTDC0 ++
  tabTRG0 ++
  tabTRG1 ++
  tabLOOP0 ++
  tabLOOP1 ++
  tabDECK0 ++
  tabSEAM0 ++
  tabCTX0 ++
  tabCTX1 ++
  tabPRESS0 ++
  tabFAB0 ++
  tabLANE0 ++
  tabTIME0 ++
  tabTIME1 ++
  tabDDR0 ++
  tabCORE0 ++
  tabMEM0 ++
  tabREC0 ++
  tabSEC0

end Sys2Proof.Machine.P
end

