-- ==== Sys2Proof/Machine/Selvedge.lean ====
section
/-! DEFINITION. The Selvedge format (R227 to R236, R242 to R246): coding and decoding of blocks, the trailer, and the run of a
compress or decompress job against its output space. -/

namespace Sys2Proof.Machine

/-! ### Rice codes (R232, R233) -/

/-- bitlen of R233. -/
def bitlen (n : Nat) : Nat := if n = 0 then 0 else Nat.log2 n + 1

/-- K(S, n) of R233; 0 for n = 0 (R230). -/
def riceK (kmax sum n : Nat) : Nat := if n = 0 then 0 else min kmax (bitlen (sum / n) - 1)

/-- `n` bits of a value, least significant first. -/
def bitsLe : Nat → Nat → List Bool
  | 0, _ => []
  | n + 1, v => v.testBit 0 :: bitsLe n (v / 2)

/-- The value of bits, least significant first. -/
def ofBits : List Bool → Nat
  | [] => 0
  | b :: bs => b2n b + 2 * ofBits bs

/-- The Rice code of `z` with parameter `k`; an escape carries `w` raw bits. -/
def riceCode (k w z : Nat) : List Bool :=
  let q := z / 2 ^ k
  if q < 24 then List.replicate q true ++ [false] ++ bitsLe k z else List.replicate 24 true ++ bitsLe w z

/-- The map of a signed difference (R232). -/
def zig (d : Int) : Nat := if 0 ≤ d then (2 * d).toNat else (-2 * d - 1).toNat

/-- The signed difference of a mapped value. -/
def unzig (z : Nat) : Int := if z % 2 = 0 then (z / 2 : Nat) else -(((z + 1) / 2 : Nat) : Int)

/-- The parameter of a coded field with the sum of its present group (R233). -/
structure RiceSt where
  k : Nat
  n : Nat
  sum : Nat
  deriving DecidableEq, Repr

/-- After each value; the parameter adapts after every 16. -/
def RiceSt.next (r : RiceSt) (kmax z : Nat) : RiceSt :=
  if r.n = 15 then ⟨riceK kmax (r.sum + z) 16, 0, 0⟩ else ⟨r.k, r.n + 1, r.sum + z⟩

/-- One item of a bit stream: raw bits, or a coded value of a field: 0 sample, 1 hit channel, 2 hit offset, 3 hit tot. -/
inductive Tok where
  | raw (w v : Nat)
  | coded (field z : Nat)
  deriving DecidableEq, Repr

/-- W of a field (R233). -/
def fieldW (f : Nat) : Nat := if f = 0 then 14 else if f = 1 then 8 else if f = 2 then 34 else 12
/-- k_max of a field (R233). -/
def fieldMax (f : Nat) : Nat := if f = 0 then 12 else if f = 1 then 0 else if f = 2 then 30 else 10

/-- The parameters of the four fields in a block. -/
structure Coder where
  s : RiceSt
  o : RiceSt
  t : RiceSt
  deriving DecidableEq, Repr

/-- The parameters at a block's start (R233). -/
def Coder.start (ks ko kt : Nat) : Coder := ⟨⟨ks, 0, 0⟩, ⟨ko, 0, 0⟩, ⟨kt, 0, 0⟩⟩

/-- The present parameter of a field; the hit channel's is fixed at 0. -/
def Coder.k (c : Coder) (f : Nat) : Nat := if f = 0 then c.s.k else if f = 2 then c.o.k else if f = 3 then c.t.k else 0

/-- After a value of a field. -/
def Coder.next (c : Coder) (f z : Nat) : Coder :=
  if f = 0 then { c with s := c.s.next 12 z } else if f = 2 then { c with o := c.o.next 30 z }
  else if f = 3 then { c with t := c.t.next 10 z } else c

/-- The bits of a list of items. -/
def tokBits : Coder → List Tok → List Bool
  | _, [] => []
  | c, .raw w v :: ts => bitsLe w v ++ tokBits c ts
  | c, .coded f z :: ts => riceCode (c.k f) (fieldW f) z ++ tokBits (c.next f z) ts

/-- The values of a field in a list of items. -/
def tokValues (f : Nat) (ts : List Tok) : List Nat :=
  ts.filterMap fun t => match t with | .coded g z => if g = f then some z else none | .raw _ _ => none

/-- The initial parameter of a field in a block (R230). -/
def initialK (f : Nat) (ts : List Tok) : Nat := let v := (tokValues f ts).take 16; riceK (fieldMax f) v.sum v.length

/-- Bits packed into bytes from bit 0, zero bits up to a whole byte (R232). -/
def packBits : List Bool → List Byte
  | a :: b :: c :: d :: e :: f :: g :: h :: r => BitVec.ofNat 8 (ofBits [a, b, c, d, e, f, g, h]) :: packBits r
  | [] => []
  | r => [BitVec.ofNat 8 (ofBits r)]

/-- The bits of bytes. -/
def bytesBits (l : List Byte) : List Bool := l.flatMap fun b => bitsLe 8 b.toNat

/-! ### Words into items (R234 to R236) -/

/-- The items of a 13-bit sample after `p`. -/
def sampleTok : Option Nat → Nat → Tok
  | none, v => .raw 13 v
  | some p, v => .coded 0 (zig ((v : Int) - p))

/-- The items of sample words; the first sample of the run is raw (R234). -/
def sampleToks : Option Nat → List Nat → List Tok
  | _, [] => []
  | p, w :: ws =>
    let a := bitsOf w 12 0
    let b := bitsOf w 25 13
    let c := bitsOf w 38 26
    let d := bitsOf w 51 39
    sampleTok p a :: sampleTok (some a) b :: sampleTok (some b) c :: sampleTok (some c) d :: sampleToks (some d) ws

/-- The items of hit words after the previous channel and offset (R235). -/
def hitToks : Nat → Nat → List Nat → List Tok
  | _, _, [] => []
  | pc, po, w :: ws =>
    let c := bitsOf w 7 0
    let o := bitsOf w 39 8
    .coded 1 (zig (sext 8 (c + 256 - pc))) :: .coded 2 (zig ((o : Int) - po)) :: .coded 3 (bitsOf w 51 40)
      :: .raw 8 (bitsOf w 59 52) :: .raw 4 (bitsOf w 63 60) :: hitToks c o ws

/-- The compressor's place in the records (R236): none where it has no record boundary. -/
structure TagSt where
  alive : Bool
  left : Nat
  lit : Nat
  samp : Nat
  hits : Nat
  phase : Nat
  blks : Nat
  deriving DecidableEq, Repr

/-- No record boundary. -/
def TagSt.dead : TagSt := ⟨false, 0, 0, 0, 0, 0, 0⟩

/-- The first record begins after `n` words; the words before it continue a record and are literal (log entry 111). -/
def TagSt.after (n : Nat) : TagSt := ⟨true, n, n, 0, 0, 2, 0⟩

/-- Is a word a hit word or a sample word by its place (R236): 2 or 1, else 0; and the place after it. -/
def TagSt.place (s : TagSt) (w : Nat) : Nat × TagSt :=
  if !s.alive then (0, s)
  else if s.left = 0 then
    let len := bitsOf w 31 16
    let type := bitsOf w 7 0
    if len = 0 then (0, TagSt.dead)
    else (0, ⟨true, len - 1, 2, 0, if type = 1 then len - 3 else 0, if type = 2 then 0 else 2, 0⟩)
  else
    let s := { s with left := s.left - 1 }
    if 0 < s.lit then (0, { s with lit := s.lit - 1 })
    else if 0 < s.samp then (1, { s with samp := s.samp - 1 })
    else if 0 < s.hits then (2, { s with hits := s.hits - 1 })
    else if s.phase = 0 then (0, { s with phase := 1, lit := 1, blks := bitsOf w 24 16 })
    else if s.phase = 1 ∧ 0 < s.blks then
      (0, { s with blks := s.blks - 1, lit := 2, samp := if bitOf w 8 then ceilDiv (bitsOf w 26 16) 4 else 0, hits := bitsOf w 47 32 })
    else (0, s)

/-- The tag of a word at a place: 3 zero, 2 hit, 1 sample, 0 literal. A word equal to 0 is a zero word wherever it stands. -/
def wordTag (place w : Nat) : Nat := if w = 0 then 3 else if place = 2 then 2 else if place = 1 ∧ w < 2 ^ 52 then 1 else 0

/-- Tag the words of a block; the parse is carried on. -/
def tagWords : TagSt → List Nat → List (Nat × Nat) × TagSt
  | s, [] => ([], s)
  | s, w :: ws =>
    let p := s.place w
    let r := tagWords p.2 ws
    ((wordTag p.1 w, w) :: r.1, r.2)

/-- Cut tagged words into runs of one tag and at most 64 words, the newest run held open. -/
def cutRuns : Nat → List Nat → List (Nat × Nat) → List (Nat × List Nat)
  | t, acc, [] => if acc.isEmpty then [] else [(t, acc.reverse)]
  | t, acc, (u, w) :: r =>
    if acc.isEmpty then cutRuns u [w] r
    else if u = t ∧ acc.length < 64 then cutRuns t (w :: acc) r
    else (t, acc.reverse) :: cutRuns u [w] r

/-- The items of a run (R236). -/
def runToks (r : Nat × List Nat) : List Tok :=
  .raw 2 r.1 :: .raw 6 (r.2.length - 1) ::
    (if r.1 = 0 then r.2.map (.raw 64 ·) else if r.1 = 1 then sampleToks none r.2 else if r.1 = 2 then hitToks 0 0 r.2 else [])

/-- The 64-bit words of bytes. -/
def natWords : List Byte → List Nat
  | a :: b :: c :: d :: e :: f :: g :: h :: r => ofLe [a, b, c, d, e, f, g, h] :: natWords r
  | _ => []

/-! ### Blocks (R227, R228, R230) -/

/-- A coded block: mode, payload and initial parameters. -/
structure Coded where
  mode : Nat
  payload : List Byte
  ks : Nat
  ko : Nat
  kt : Nat
  deriving DecidableEq, Repr

/-- The coding of items in a mode. -/
def codeToks (mode : Nat) (ts : List Tok) : Coded :=
  let ks := initialK 0 ts
  let ko := initialK 2 ts
  let kt := initialK 3 ts
  ⟨mode, packBits (tokBits (Coder.start ks ko kt) ts), ks, ko, kt⟩

/-- The codings that apply to a block, by rising mode (R230). -/
def candidates (data : List Byte) (runs : List (Nat × List Nat)) : List Coded :=
  let stored : Coded := ⟨0, data, 0, 0, 0⟩
  if data.length % 8 ≠ 0 then [stored]
  else
    let ws := natWords data
    [stored] ++ (if ws.all (· < 2 ^ 52) then [codeToks 1 (sampleToks none ws)] else [])
      ++ [codeToks 2 (hitToks 0 0 ws), codeToks 3 (runs.flatMap runToks)]

/-- The smallest padded size wins; a tie takes the lower mode (R230). -/
def bestCoded : Coded → List Coded → Coded
  | b, [] => b
  | b, c :: cs => bestCoded (if ceilDiv c.payload.length 8 < ceilDiv b.payload.length 8 then c else b) cs

/-- The block header (R228). -/
def blockHeader (c : Coded) (last : Bool) (n : Nat) : Nat :=
  c.mode + 8 * b2n last + (n - 1) * 2 ^ 4 + c.payload.length * 2 ^ 20 + c.ks * 2 ^ 40 + c.ko * 2 ^ 45 + c.kt * 2 ^ 50

/-- A block of the job, and the parse after it (R230, R236). -/
def encodeBlock (st : TagSt) (last : Bool) (data : List Byte) : List Byte × TagSt :=
  let t := tagWords st (natWords data)
  let c := match candidates data (cutRuns 0 [] t.1) with
    | [] => (⟨0, data, 0, 0, 0⟩ : Coded)
    | c :: cs => bestCoded c cs
  (le 8 (blockHeader c last data.length) ++ pad8 c.payload, t.2)

/-- The trailer (R229). -/
def trailer (ulen crc nblk : Nat) : List Byte := le 4 0x53454C56 ++ [1, 0, 0, 0] ++ le 8 ulen ++ le 4 crc ++ le 4 nblk

/-- The progress of a job (R242): input consumed and output written since it began, the running CRC state, blocks so far, and
the parse of R236. -/
structure Prog where
  inTotal : Nat
  outTotal : Nat
  crc : Nat
  nblk : Nat
  deriving DecidableEq, Repr

/-- A job at its start. -/
def Prog.start : Prog := ⟨0, 0, 0xFFFFFFFF, 0⟩

/-- How a job's run ended. -/
structure Ran where
  /-- 0 complete, 1 short of space, 2 a check failed. -/
  how : Nat
  /-- The reason of R246. -/
  reason : Nat
  /-- Input bytes consumed. -/
  used : Nat
  /-- The blocks or the trailer written, in order. -/
  out : List (List Byte)
  /-- The progress. -/
  prog : Prog
  /-- The record parse. -/
  tag : TagSt
  deriving DecidableEq, Repr

/-- Bytes written by a run. -/
def Ran.bytes (r : Ran) : Nat := (r.out.map List.length).sum

/-- A block or trailer written before the rest of a run. -/
def Ran.cons (used : Nat) (b : List Byte) (r : Ran) : Ran := { r with used := r.used + used, out := b :: r.out }

/-- Run a compress job over `n` blocks at most (R227, R242, R243). -/
def compressRun : Nat → TagSt → Prog → Nat → List Byte → Ran
  | 0, st, p, _, _ => ⟨1, 0, 0, [], p, st⟩
  | n + 1, st, p, space, data =>
    match data with
    | [] =>
      let t := trailer p.inTotal (p.crc ^^^ 0xFFFFFFFF) p.nblk
      if t.length ≤ space then ⟨0, 0, 0, [t], { p with outTotal := p.outTotal + 24 }, st⟩ else ⟨1, 0, 0, [], p, st⟩
    | _ =>
      let d := data.take 65536
      let rest := data.drop 65536
      let e := encodeBlock st rest.isEmpty d
      if e.1.length ≤ space then
        (compressRun n e.2 ⟨p.inTotal + d.length, p.outTotal + e.1.length, crc32cRun p.crc d, p.nblk + 1⟩ (space - e.1.length) rest).cons
          d.length e.1
      else ⟨1, 0, 0, [], p, st⟩

/-- A compress job over an input. -/
def compress (st : TagSt) (p : Prog) (space : Nat) (data : List Byte) : Ran :=
  compressRun (data.length / 65536 + 2) st p space data

/-- The whole job of an input with unlimited space. -/
def compressAll (st : TagSt) (data : List Byte) : List Byte :=
  (compress st Prog.start (2 * data.length + 1024) data).out.flatten

/-! ### Decoding (R244, R245) -/

/-- Take `n` raw bits. -/
def takeBits (n : Nat) (l : List Bool) : Option (Nat × List Bool) :=
  if n ≤ l.length then some (ofBits (l.take n), l.drop n) else none

/-- Count one-bits up to 24; after fewer than 24 the zero-bit is taken too. -/
def takeUnary : Nat → Nat → List Bool → Option (Nat × List Bool)
  | q, 0, l => some (q, l)
  | _, _ + 1, [] => none
  | q, n + 1, b :: l => if b then takeUnary (q + 1) n l else some (q, l)

/-- A Rice-coded value. -/
def takeRice (k w : Nat) (l : List Bool) : Option (Nat × List Bool) :=
  match takeUnary 0 24 l with
  | none => none
  | some (24, l) => takeBits w l
  | some (q, l) => (takeBits k l).map fun r => (q * 2 ^ k + r.1, r.2)

/-- A value of a field; the parameters go on. -/
def takeField (f : Nat) (c : Coder) (l : List Bool) : Option (Nat × Coder × List Bool) :=
  (takeRice (c.k f) (fieldW f) l).map fun r => (r.1, c.next f r.1, r.2)

/-- A sample after `p`, within 0 to 8,191 (R244). -/
def takeSample (p : Option Nat) (c : Coder) (l : List Bool) : Option (Nat × Coder × List Bool) :=
  match p with
  | none => (takeBits 13 l).map fun r => (r.1, c, r.2)
  | some p => match takeField 0 c l with
    | none => none
    | some (z, c, l) =>
      let v := (p : Int) + unzig z
      if 0 ≤ v ∧ v ≤ 8191 then some (v.toNat, c, l) else none

/-- `n` samples. -/
def takeSamples : Nat → Option Nat → Coder → List Bool → Option (List Nat × Coder × List Bool)
  | 0, _, c, l => some ([], c, l)
  | n + 1, p, c, l => match takeSample p c l with
    | none => none
    | some (v, c, l) => (takeSamples n (some v) c l).map fun r => (v :: r.1, r.2)

/-- Sample words of samples. -/
def sampleWordsOf : List Nat → List Nat
  | a :: b :: c :: d :: r => (a + b * 2 ^ 13 + c * 2 ^ 26 + d * 2 ^ 39) :: sampleWordsOf r
  | _ => []

/-- `n` hit words (R235); an offset outside 32 bits is invalid. -/
def takeHits : Nat → Nat → Nat → Coder → List Bool → Option (List Nat × Coder × List Bool)
  | 0, _, _, c, l => some ([], c, l)
  | n + 1, pc, po, c, l =>
    match takeField 1 c l with
    | none => none
    | some (zc, c, l) => match takeField 2 c l with
      | none => none
      | some (zo, c, l) => match takeField 3 c l with
        | none => none
        | some (tot, c, l) => match takeBits 12 l with
          | none => none
          | some (pf, l) =>
            let ch := ((pc : Int) + unzig zc) % 256
            let o := (po : Int) + unzig zo
            if 0 ≤ o ∧ o < 2 ^ 32 ∧ tot < 4096 then
              (takeHits n ch.toNat o.toNat c l).map fun r => ((ch.toNat + o.toNat * 2 ^ 8 + tot * 2 ^ 40 + pf * 2 ^ 52) :: r.1, r.2)
            else none

/-- `n` raw words. -/
def takeRaw : Nat → List Bool → Option (List Nat × List Bool)
  | 0, l => some ([], l)
  | n + 1, l => match takeBits 64 l with
    | none => none
    | some (v, l) => (takeRaw n l).map fun r => (v :: r.1, r.2)

/-- The words of one run (R236). -/
def takeRun (tag n : Nat) (c : Coder) (l : List Bool) : Option (List Nat × Coder × List Bool) :=
  if tag = 0 then (takeRaw n l).map fun r => (r.1, c, r.2)
  else if tag = 1 then (takeSamples (4 * n) none c l).map fun r => (sampleWordsOf r.1, r.2)
  else if tag = 2 then takeHits n 0 0 c l
  else some (List.replicate n 0, c, l)

/-- Runs until `need` words stand, `fuel` runs at most. -/
def takeRuns : Nat → Nat → Coder → List Bool → Option (List Nat × List Bool)
  | 0, need, _, l => if need = 0 then some ([], l) else none
  | fuel + 1, need, c, l =>
    if need = 0 then some ([], l) else
    match takeBits 8 l with
    | none => none
    | some (h, l) =>
      let n := h / 4 + 1
      if need < n then none else
      match takeRun (h % 4) n c l with
      | none => none
      | some (ws, c, l) => (takeRuns fuel (need - n) c l).map fun r => (ws ++ r.1, r.2)

/-- The words of a coded block's bit stream; nothing but zero bits may follow its last code (R244). -/
def decodeWords (mode n : Nat) (c : Coder) (l : List Bool) : Option (List Nat) :=
  let r := if mode = 1 then (takeSamples (4 * n) none c l).map fun r => (sampleWordsOf r.1, r.2.2)
    else if mode = 2 then (takeHits n 0 0 c l).map fun r => (r.1, r.2.2)
    else takeRuns n n c l
  match r with
  | some (ws, rest) => if rest.all (!·) then some ws else none
  | none => none

/-- The header of a block is valid (R244). -/
def headerOk (h : Nat) : Bool :=
  let ilen := bitsOf h 19 4 + 1
  decide (h % 8 ≤ 3) && bitsOf h 39 37 == 0 && bitsOf h 63 54 == 0 && decide (bitsOf h 44 40 ≤ 12) && decide (bitsOf h 49 45 ≤ 30)
    && decide (bitsOf h 53 50 ≤ 10) && (if h % 8 = 0 then bitsOf h 36 20 == ilen else ilen % 8 == 0)

/-- The uncompressed bytes of a block's payload. -/
def decodeBlock (h : Nat) (payload padding : List Byte) : Option (List Byte) :=
  if h % 8 = 0 then some payload
  else if padding.all (· == 0) then
    (decodeWords (h % 8) ((bitsOf h 19 4 + 1) / 8) (Coder.start (bitsOf h 44 40) (bitsOf h 49 45) (bitsOf h 53 50))
      (bytesBits payload)).map fun ws => ws.flatMap (le 8)
  else none

/-- The trailer at the end of a decompress job (R244 to R246). -/
def checkTrailer (p : Prog) (l : List Byte) : Ran :=
  let fail (r : Nat) : Ran := ⟨2, r, 0, [], p, .dead⟩
  if l.length < 24 then fail 6
  else if field l 0 4 != 0x53454C56 || field l 4 4 != 1 then fail 1
  else if field l 8 8 != p.outTotal || field l 20 4 != p.nblk then fail 4
  else if field l 16 4 != p.crc ^^^ 0xFFFFFFFF then fail 5
  else ⟨0, 0, 24, [], { p with inTotal := p.inTotal + 24 }, .dead⟩

/-- Run a decompress job over `n` blocks at most (R242, R244, R245). -/
def decompressRun : Nat → Prog → Nat → List Byte → Ran
  | 0, p, _, _ => ⟨2, 6, 0, [], p, .dead⟩
  | n + 1, p, space, l =>
    let fail (r : Nat) : Ran := ⟨2, r, 0, [], p, .dead⟩
    if p.nblk = 0 ∧ field l 0 4 = 0x53454C56 then checkTrailer p l
    else if l.length < 8 then fail 6
    else
      let h := field l 0 8
      let ilen := bitsOf h 19 4 + 1
      let olen := bitsOf h 36 20
      let size := 8 + 8 * ceilDiv olen 8
      if !headerOk h then fail 2
      else if l.length < size then fail 6
      else if space < ilen then ⟨1, 0, 0, [], p, .dead⟩
      else match decodeBlock h ((l.drop 8).take olen) ((l.drop (8 + olen)).take (size - 8 - olen)) with
        | none => fail 3
        | some d =>
          let p' : Prog := ⟨p.inTotal + size, p.outTotal + ilen, crc32cRun p.crc d, p.nblk + 1⟩
          let rest := l.drop size
          (if bitOf h 3 then checkTrailer p' rest else decompressRun n p' (space - ilen) rest).cons size d

/-- A decompress job over an input. -/
def decompress (p : Prog) (space : Nat) (data : List Byte) : Ran := decompressRun (data.length / 8 + 1) p space data

/-! ### The resume token (R242) -/

/-- The token of a progress. -/
def Prog.token (p : Prog) : List Byte :=
  let b := le 4 p.inTotal ++ le 4 p.outTotal ++ le 4 p.crc ++ le 2 p.nblk
  b ++ le 2 (crc32c b)

/-- The progress of a token; none where its check fails (R243). -/
def Prog.ofToken (t : List Byte) : Option Prog :=
  if field t 14 2 = crc32c (t.take 14) % 65536 then some ⟨field t 0 4, field t 4 4, field t 8 4, field t 12 2⟩ else none

end Sys2Proof.Machine
end

