-- ==== Sys2Proof/Machine/Types.lean ====
section
/-! DEFINITION. The element types of the machine's state: one entry of a table, a queue or a session (plain data). -/

namespace Sys2Proof.Machine

/-- A swap-shadowed value that waits (R324, R325): the whole new word of its RWS fields, its class, its boundary. -/
structure Pend where
  /-- The parameter's identifier. (R324) -/
  id : Nat
  /-- The new word. (R324) -/
  val : W64
  /-- The swap class of its last write. (R325) -/
  cls : Nat
  /-- The boundary it joins; none while its class is held armed. (R324) -/
  due : Option Tm
  deriving DecidableEq, Repr

/-- `Pend` at reset. -/
def Pend.reset : Pend where
  id := 0
  val := 0
  cls := 0
  due := none

/-- A forced step that waits for its boundary (R320). -/
structure PendStep where
  /-- The boundary. (R320) -/
  b : Tm
  /-- The epoch of the boundary. (R320) -/
  epoch : Nat
  /-- MODE 1: `val` is a target time. (R399) -/
  toTarget : Bool
  /-- The signed offset J or the target time, in stitches. (R399) -/
  val : Int
  /-- The epoch adopted from the master, for an adoption. (R321) -/
  adopt : Option Nat
  deriving DecidableEq, Repr

/-- `PendStep` at reset. -/
def PendStep.reset : PendStep where
  b := 0
  epoch := 0
  toTarget := false
  val := 0
  adopt := none

/-- What the scheduled-action table holds beside its parameters (R329 to R332). -/
structure ActSt where
  /-- The next due time. (R329) -/
  due : Tm
  /-- The boundary at which a late occurrence runs. (R330) -/
  late : Option Tm
  /-- The entry is armed. (R330) -/
  armed : Bool
  deriving DecidableEq, Repr

/-- `ActSt` at reset. -/
def ActSt.reset : ActSt where
  due := 0
  late := none
  armed := false

/-- A timed output (R327). -/
structure ToutSt where
  /-- A pulse is running. (R327) -/
  level : Bool
  /-- The end of the running pulse. (R327) -/
  stop : Tm
  /-- The next edge time of the output's own mode. (R327) -/
  next : Option Tm
  deriving DecidableEq, Repr

/-- `ToutSt` at reset. -/
def ToutSt.reset : ToutSt where
  level := false
  stop := 0
  next := none

/-- The exchange in progress on a port (R311 to R314). -/
structure PortTime where
  /-- Master stamp of Sync. (R313) -/
  t1 : Option Int
  /-- Own stamp of Sync. (R313) -/
  t2 : Option Int
  /-- Own stamp of Delay_Req. (R313) -/
  t3 : Option Int
  /-- Master stamp of Delay_Req. (R313) -/
  t4 : Option Int
  /-- The master's transmit phase, where VALID was 1. (R312) -/
  phase : Option Nat
  /-- The epoch the master reports. (R321) -/
  masterEpoch : Nat
  /-- The sequence of the exchange. (R311) -/
  seq : Nat
  /-- When the last valid exchange completed. (R317) -/
  lastValid : Tm
  /-- The sequence number of the messages that the port last sent. (R311) -/
  sent : Nat
  deriving DecidableEq, Repr

/-- `PortTime` at reset. -/
def PortTime.reset : PortTime where
  t1 := none
  t2 := none
  t3 := none
  t4 := none
  phase := none
  masterEpoch := 0
  seq := 0
  lastValid := 0
  sent := 0

/-- A record of the event recorder (R443). -/
structure LogRec where
  /-- Code. (R445) -/
  code : Nat
  /-- Severity. (R444) -/
  severity : Nat
  /-- Further occurrences coalesced. (R446) -/
  rep : Nat
  /-- Record index. (R443) -/
  index : Nat
  /-- Time and epoch of the first occurrence. (R443) -/
  first : Stamp
  /-- Time of the last occurrence. (R443) -/
  lastTb : Tm
  /-- Occurrences of this code dropped since the previous record. (R447) -/
  dropped : Nat
  /-- Detail. (R443) -/
  detail : List Byte
  deriving DecidableEq, Repr

/-- `LogRec` at reset. -/
def LogRec.reset : LogRec where
  code := 0
  severity := 0
  rep := 0
  index := 0
  first := ⟨0, 0⟩
  lastTb := 0
  dropped := 0
  detail := []

/-- The token bucket of one recorder code (R447), in tokens × secSt. -/
structure Bucket where
  /-- Tokens held, scaled by one second of stitches. (R447) -/
  level : Nat
  /-- When the level was last brought up to date. (R447) -/
  seen : Tm
  /-- The bucket has been touched; an untouched one is full. (R447) -/
  used : Bool
  /-- Occurrences dropped since the last admitted record. (R447) -/
  dropped : Nat
  deriving DecidableEq, Repr

/-- `Bucket` at reset. -/
def Bucket.reset : Bucket where
  level := 0
  seen := 0
  used := false
  dropped := 0

/-- A channel's front end beside its parameters. -/
structure FeCh where
  /-- The discriminator output. (R37) -/
  high : Bool
  /-- The DISC_THR word the threshold DAC still applies while a swapped one waits. (R38) -/
  dac : Option W64
  /-- The present range of the automatic mode; DESIGN CHOICE 1 (log entry 3). (R39) -/
  autoRange : Nat
  /-- Latest current without a settle mark, pA. (R139) -/
  clean : Option Nat
  deriving DecidableEq, Repr

/-- `FeCh` at reset. -/
def FeCh.reset : FeCh where
  high := false
  dac := none
  autoRange := 1
  clean := none

/-- A tile's front end beside its parameters. -/
structure FeTile where
  /-- The common trim offset applied. (R43) -/
  common : Int
  /-- Start of the trip ramp in progress. (R58) -/
  rampFrom : Option Tm
  /-- Trim codes at the start of the ramp. (R58) -/
  rampCodes : List Nat
  /-- Steps of the ramp already acted on. (R58, R148) -/
  rampSeen : Nat
  /-- End of the settle window. (R148) -/
  settleUntil : Tm
  /-- The latest change of an applied trim code. (R148, R150) -/
  trimAt : Option Tm
  /-- The settle window is open. (R148) -/
  settleOpen : Bool
  /-- The tile current sum as last reported by the summer. (R57) -/
  sum : Nat
  /-- Start of the glitch filter's present run. (R57) -/
  filterFrom : Option Tm
  /-- Since when the sum has stayed below half the limit. (R59) -/
  halfFrom : Option Tm
  /-- Level of OVERLIGHT_N. (R484) -/
  overlightN : Bool
  /-- End of the pulser's blank. (R53) -/
  pulserUntil : Option Tm
  /-- End of a scheduled action's blank. (R53) -/
  schedUntil : Option Tm
  /-- End of the guard that follows the blank. (R53) -/
  guardUntil : Option Tm
  /-- A blank or its guard covers the tile. (R53) -/
  blanked : Bool
  /-- Trigger masking by pin: pin, begin, end with its guard; none while the pin is active. (R55) -/
  masks : List (Nat × Tm × Option Tm)
  /-- Channels at the head of the impedance queue, first first. (R48, R50) -/
  queue : List Nat
  /-- Channel of the visit in progress. (R46) -/
  visit : Option Nat
  /-- Confirmation visits refused while a rotation ran. (R421) -/
  missed : List Nat
  deriving DecidableEq, Repr

/-- `FeTile` at reset. -/
def FeTile.reset : FeTile where
  common := 0
  rampFrom := none
  rampCodes := []
  rampSeen := 0
  settleUntil := 0
  trimAt := none
  settleOpen := false
  sum := 0
  filterFrom := none
  halfFrom := some 0
  overlightN := false
  pulserUntil := none
  schedUntil := none
  guardUntil := none
  blanked := false
  masks := []
  queue := []
  visit := none
  missed := []

/-- A housekeeping conversion in progress (R79 to R83). -/
structure Conv where
  /-- Sequencer entry, 255 for an urgent conversion. (R83) -/
  entry : Nat
  /-- Input. (R78) -/
  input : Nat
  /-- AVG_LOG2. (R79) -/
  avg : Nat
  /-- Shift. (R79) -/
  shift : Nat
  /-- Time of the first sample. (R83) -/
  first : Tm
  /-- Edge of the next sample of the run that goes on without a freeze. (R54) -/
  seg : Tm
  /-- Samples taken before that edge. (R54, R80) -/
  taken : Nat
  /-- A sample carries a settle mark. (R83) -/
  settle : Bool
  /-- A blank froze it at least once. (R83) -/
  frozen : Bool
  /-- Frozen since. (R54) -/
  frozenAt : Option Tm
  /-- Slow range 1 to 3. (R83) -/
  range : Nat
  /-- Hits of the channel during the sampling. (R50) -/
  hits : Nat
  /-- The start of the loop period that requested it, where the bias loop did. (R136, R137) -/
  loop : Option Tm
  deriving DecidableEq, Repr

/-- `Conv` at reset. -/
def Conv.reset : Conv where
  entry := 255
  input := 0
  avg := 1
  shift := 0
  first := 0
  seg := 0
  taken := 0
  settle := false
  frozen := false
  frozenAt := none
  range := 0
  hits := 0
  loop := none

/-- A queued urgent request (R82). -/
structure Urg where
  /-- Input. (R82) -/
  input : Nat
  /-- AVG_LOG2. (R82) -/
  avg : Nat
  /-- Shift. (R82) -/
  shift : Nat
  /-- The start of the loop period that requested it, where the bias loop did. (R136, R137) -/
  loop : Option Tm
  deriving DecidableEq, Repr

/-- `Urg` at reset. -/
def Urg.reset : Urg where
  input := 0
  avg := 1
  shift := 0
  loop := none

/-- A tile's housekeeping sequencer. -/
structure HkTile where
  /-- The adopted sequence; empty until the first pass. (R80) -/
  seq : List W64
  /-- The adopted pass period, µs. (R80) -/
  period : Nat
  /-- Start of the present pass. (R79) -/
  passAt : Option Tm
  /-- The next entry. (R79) -/
  entry : Nat
  /-- The conversion in progress. (R79) -/
  run : Option Conv
  /-- Queued urgent requests. (R82) -/
  urgent : List Urg
  /-- Urgent requests accepted in this pass. (R82) -/
  asked : Nat
  /-- End of the previous conversion. (R79) -/
  lastEnd : Tm
  /-- Latest result of input 17. (R138) -/
  temp : Option Nat
  /-- HVMON result of the present loop period, with the end of its conversion. (R137) -/
  hv : Option (Nat × Tm)
  deriving DecidableEq, Repr

/-- `HkTile` at reset. -/
def HkTile.reset : HkTile where
  seq := []
  period := 1000
  passAt := none
  entry := 32
  run := none
  urgent := []
  asked := 0
  lastEnd := 0
  temp := none
  hv := none

/-- A tile's rotation sequencer beside ROT_STATUS (R74 to R77). -/
structure RotTile where
  /-- The shadow match of this step failed once. (R77) -/
  failed : Bool
  /-- SPARE_CAL restarts the step. (R77) -/
  restart : Bool
  /-- The calibration passed; the next boundary acts. (R77) -/
  done : Bool
  /-- Boundaries since the step began. (R74) -/
  bounds : Nat
  /-- Start of the match or calibration in progress. (R71, R72) -/
  since : Tm
  /-- Start of the previous rotation. (R75) -/
  last : Option Tm
  /-- The rotation ends at its next swap-back. (R75, R76) -/
  ending : Bool
  /-- Offset coefficient of the spare. (R72) -/
  spareOff : Int
  /-- Gain coefficient of the spare. (R66) -/
  spareGain : Int
  /-- Slices that have passed their first calibration. (R488) -/
  calDone : Nat
  /-- Range-1 offset and gain coefficients by slice, 16 the spare. (R66, R71) -/
  lows : Tbl (Int × Int)
  deriving DecidableEq, Repr

/-- `RotTile` at reset. -/
def RotTile.reset : RotTile where
  failed := false
  restart := false
  done := false
  bounds := 0
  since := 0
  last := none
  ending := false
  spareOff := 0
  spareGain := 0
  calDone := 0
  lows := []

/-- One interpolator (R87, R92). -/
structure Ip where
  /-- Free from this instant on. (R87) -/
  stop : Tm
  /-- The code of the test conversion it holds. (R92) -/
  test : Option Nat
  /-- Test conversions of the visit that count. (R90, R91) -/
  n : Nat
  /-- Sum of the codes by tap, newest visit. (R90) -/
  sums : List Nat
  /-- Histogram of the density conversions by code. (R91) -/
  hist : Tbl Nat
  /-- The fitted transfer that waits: 256 × the mean code by tap. (R90, R92) -/
  fit : List Nat
  /-- The transfer in force, in the same form; none before the first. (R86, R90) -/
  xfer : List Nat
  deriving DecidableEq, Repr

/-- `Ip` at reset. -/
def Ip.reset : Ip where
  stop := 0
  test := none
  n := 0
  sums := []
  hist := []
  fit := []
  xfer := []

/-- The interpolator pair of a unit (R88, R94) and its calibration. -/
structure Pair where
  /-- Interpolator A. (R88) -/
  a : Ip
  /-- Interpolator B. (R88) -/
  b : Ip
  /-- The interpolator the last interpolated hit used. (R88) -/
  last : Option Nat
  /-- The last edge. (R92) -/
  edge : Option Tm
  /-- Start of the visit in progress. (R92) -/
  visitAt : Option Tm
  /-- End of the last completed visit. (R92) -/
  visited : Option Tm
  /-- Temperature at that visit. (R92) -/
  temp : Int
  /-- A new transfer waits for its boundary or gate. (R92) -/
  fitted : Bool
  /-- The new transfer of a port pair waits for its Sync interval. (R94) -/
  ready : Bool
  /-- When the transfer in force took effect. (R93) -/
  fitAt : Tm
  /-- Its delay line is not locked; DESIGN CHOICE true at reset (log entry 3). (R93, R106) -/
  unlocked : Bool
  deriving DecidableEq, Repr

/-- `Pair` at reset. -/
def Pair.reset : Pair where
  a := Ip.reset
  b := Ip.reset
  last := none
  edge := none
  visitAt := none
  visited := none
  temp := 0
  fitted := false
  ready := false
  fitAt := 0
  unlocked := true

/-- The settings a condition is judged under (R107, R108). -/
structure Cond where
  /-- KIND. (R107) -/
  kind : Nat
  /-- MIN. (R107) -/
  lo : Nat
  /-- MAX. (R107) -/
  hi : Nat
  /-- HIGH. (R107) -/
  high : Nat
  /-- WIN. (R107) -/
  win : Nat
  /-- T. (R107) -/
  tmo : Nat
  /-- UNIT. (R107) -/
  unitUs : Bool
  /-- S. (R107) -/
  slew : Nat
  /-- K. (R107) -/
  k : Nat
  deriving DecidableEq, Repr

/-- `Cond` at reset. -/
def Cond.reset : Cond where
  kind := 0
  lo := 6
  hi := 90
  high := 1024
  win := 16
  tmo := 300
  unitUs := false
  slew := 512
  k := 4

/-- A hit from its leading edge to its completion (R88 to R98). -/
structure HitSt where
  /-- Raw stamp. (R86) -/
  raw : Tm
  /-- When the stamp is ready. (R88) -/
  ready : Tm
  /-- First core-clock edge after the raw edge. (R97) -/
  lead : Tm
  /-- Pin-referred time. (R89) -/
  at_ : Stamp
  /-- Sequence of its block. (R99) -/
  block : Nat
  /-- No block was open for it. (R99) -/
  noBlock : Bool
  /-- Raw trailing edge or close. (R97) -/
  trail : Option Tm
  /-- Time over threshold. (R97) -/
  tot : Nat
  /-- MERGED. (R88) -/
  merged : Bool
  /-- COARSE. (R88) -/
  coarse : Bool
  /-- TOT_SAT. (R97) -/
  totSat : Bool
  /-- DECK_PEAK in force at the leading edge. (R152) -/
  deckPeak : Nat
  /-- DECK_CH_CFG in force at the leading edge. (R153) -/
  snip : Nat
  /-- Condition settings in force at the leading edge. (R108) -/
  cond : Cond
  deriving DecidableEq, Repr

/-- `HitSt` at reset. -/
def HitSt.reset : HitSt where
  raw := 0
  ready := 0
  lead := 0
  at_ := ⟨0, 0⟩
  block := 0
  noBlock := false
  trail := none
  tot := 0
  merged := false
  coarse := false
  totSat := false
  deckPeak := 0
  snip := 0
  cond := Cond.reset

/-- A hit that its condition has not yet judged (R107). -/
structure CondHit where
  /-- The hit. (R107) -/
  hit : HitSt
  /-- When it completed. (R107) -/
  done : Option Tm
  /-- Still high T cc after the leading edge. (R107) -/
  high : Bool
  deriving DecidableEq, Repr

/-- `CondHit` at reset. -/
def CondHit.reset : CondHit where
  hit := HitSt.reset
  done := none
  high := false

/-- A hit in a block, with what the deck makes of it (R152, R153). -/
structure BHit where
  /-- The hit record. (R96) -/
  hit : Hit
  /-- The deck keeps it. (R152) -/
  deck : Bool
  /-- DECK_CH_CFG in force at its leading edge. (R153) -/
  snip : Nat
  deriving DecidableEq, Repr

/-- `BHit` at reset. -/
def BHit.reset : BHit where
  hit := ⟨0, 0, 0, false, false, false, false⟩
  deck := true
  snip := 0

/-- A hit block (R99, R100). -/
structure Blk where
  /-- Start of its interval. (R99) -/
  start : Stamp
  /-- End of its interval. (R99) -/
  stop : Tm
  /-- Header time. (R100) -/
  head : Tm
  /-- Hit-block sequence. (R100) -/
  seq : Nat
  /-- CONT. (R100) -/
  cont : Bool
  /-- CAL_STALE. (R100) -/
  stale : Bool
  /-- EPOCH_CUT. (R100) -/
  cut : Bool
  /-- When it is emitted, unless full. (R99) -/
  due : Tm
  /-- Hits assigned. (R99) -/
  taken : Nat
  /-- Hits complete. (R99) -/
  hits : List BHit
  /-- Full and emitted; it stands until its interval is over. (R99) -/
  sent : Bool
  /-- The deck takes it. (R152) -/
  deck : Bool
  deriving DecidableEq, Repr

/-- `Blk` at reset. -/
def Blk.reset : Blk where
  start := ⟨0, 0⟩
  stop := 0
  head := 0
  seq := 0
  cont := false
  stale := false
  cut := false
  due := 0
  taken := 0
  hits := []
  sent := false
  deck := true

/-- A channel's time measurement. -/
structure TdcCh where
  /-- The previous accepted leading edge. (R88) -/
  last : Option Tm
  /-- Hits before completion, oldest first. (R97) -/
  open_ : List HitSt
  /-- Hits the condition has not judged, oldest first. (R107) -/
  judged : List CondHit
  /-- Blocks not yet emitted, oldest first. (R99) -/
  blocks : List Blk
  /-- Complete hits pinned in an interval that is still to come. (R99) -/
  early : List (Stamp × BHit)
  /-- Places of recent pin times and their COARSE, newest first. (R110) -/
  edges : List (Tm × Bool)
  /-- Hits in the present second. (R106) -/
  rate : Nat
  /-- Start of the quiet interval. (R107) -/
  quietFrom : Tm
  /-- The quiet condition has been true in it. (R107) -/
  quietDone : Bool
  /-- Expiry that waits for its decision. (R107) -/
  quietAt : Option Tm
  /-- The slew condition is not re-armed. (R107) -/
  slewOff : Bool
  /-- The last swap of the condition and the settings before it. (R108) -/
  prev : Option (Stamp × Cond)
  /-- Complete hits a window may still hold, with their epoch, newest first. (R129) -/
  recent : List (Nat × Hit)
  deriving DecidableEq, Repr

/-- `TdcCh` at reset. -/
def TdcCh.reset : TdcCh where
  last := none
  open_ := []
  judged := []
  blocks := []
  early := []
  edges := []
  rate := 0
  quietFrom := 0
  quietDone := false
  quietAt := none
  slewOff := false
  prev := none
  recent := []

/-- A gauge input (R101 to R104). -/
structure Gauge where
  /-- T0 of the gate in progress or to come. (R102) -/
  start : Option Tm
  /-- INPUT. (R101) -/
  input : Nat
  /-- UNIT. (R101) -/
  unit : Nat
  /-- EDGE. (R101) -/
  edge : Nat
  /-- PRESCALE. (R101) -/
  prescale : Nat
  /-- GATE. (R102) -/
  gate : Nat
  /-- PERIOD. (R102) -/
  period : Nat
  /-- Edges since the last prescaled one. (R101) -/
  skip : Nat
  /-- Prescaled edges counted. (R101) -/
  count : Nat
  /-- Edge count and time of the stamps kept, newest first. (R103) -/
  stamps : List (Nat × Tm)
  /-- Edges counted and not stamped, newest first. (R104) -/
  lost : List (Nat × Tm)
  /-- When the last gate gave its result. (R138) -/
  resultAt : Option Tm
  /-- That result carried FEW. (R138) -/
  few : Bool
  deriving DecidableEq, Repr

/-- `Gauge` at reset. -/
def Gauge.reset : Gauge where
  start := none
  input := 0
  unit := 0
  edge := 0
  prescale := 1
  gate := 12
  period := 0
  skip := 0
  count := 0
  stamps := []
  lost := []
  resultAt := none
  few := false

/-- The open window of a group, with the settings of its opening (R109, R111). -/
structure GrpWin where
  /-- Close. (R109) -/
  close : Tm
  /-- Mask at its opening. (R111) -/
  mask : BitVec 256
  /-- N at its opening. (R111) -/
  n : Nat
  /-- Channels counted. (R109) -/
  chans : List Nat
  /-- Earliest stamp. (R111) -/
  at_ : Stamp
  /-- That stamp is COARSE. (R111) -/
  coarse : Bool
  /-- That stamp came from a quiet timeout. (R111) -/
  nohit : Bool
  /-- OUT0 at its opening. (R111) -/
  out0 : Bool
  /-- OUT1 at its opening. (R111) -/
  out1 : Bool
  deriving DecidableEq, Repr

/-- `GrpWin` at reset. -/
def GrpWin.reset : GrpWin where
  close := 0
  mask := 0
  n := 0
  chans := []
  at_ := ⟨0, 0⟩
  coarse := false
  nohit := false
  out0 := false
  out1 := false

/-- A primitive held at the root (R115). -/
structure Prim where
  /-- The frame. (R112) -/
  frame : Vc0
  /-- Its time restored. (R113) -/
  at_ : Stamp
  /-- t_eq. (R115) -/
  eq : Tm
  deriving DecidableEq, Repr

/-- `Prim` at reset. -/
def Prim.reset : Prim where
  frame := ⟨0, false, false, false, false, 0, 0, 0, 0, 0, 0, 0, 0, 0, 0, false⟩
  at_ := ⟨0, 0⟩
  eq := 0

/-- The open window of a class (R116). -/
structure RootWin where
  /-- Close. (R116) -/
  close : Tm
  /-- ROOT_N at its opening. (R116) -/
  n : Nat
  /-- ROOT_GROUPS at its opening. (R116) -/
  groups : Nat
  /-- Distinct origins. (R116) -/
  origins : List Nat
  /-- Earliest primitive time. (R116) -/
  at_ : Stamp
  /-- OR of the flags: UNCOMP, NOHIT, EXT, COARSE. (R116) -/
  flags : Nat
  deriving DecidableEq, Repr

/-- `RootWin` at reset. -/
def RootWin.reset : RootWin where
  close := 0
  n := 1
  groups := 0
  origins := []
  at_ := ⟨0, 0⟩
  flags := 0

/-- An outstanding accept (R120 to R128). -/
structure Acc where
  /-- Its time. (R112) -/
  at_ : Stamp
  /-- Class. (R112) -/
  cls : Nat
  /-- accept_id. (R112) -/
  id : Nat
  /-- Origin of the accept. (R130) -/
  root : Nat
  /-- UNCOMP. (R117) -/
  uncomp : Bool
  /-- EXT. (R130) -/
  ext : Bool
  /-- t_arrival. (R123) -/
  arrival : Tm
  /-- It arrived after t_a + H. (R126) -/
  late : Bool
  /-- Its extraction waits for space. (R128) -/
  waits : Bool
  /-- The parameters in force at its S, once that has come. (R27, R123) -/
  regs : Option (Tbl W64)
  /-- The channels out of service at its S. (R27, R129) -/
  out : List Nat
  deriving DecidableEq, Repr

/-- `Acc` at reset. -/
def Acc.reset : Acc where
  at_ := ⟨0, 0⟩
  cls := 0
  id := 0
  root := 0
  uncomp := false
  ext := false
  arrival := 0
  late := false
  waits := false
  regs := none
  out := []

/-- The extraction in progress (R123). -/
structure Extract where
  /-- Its accept. (R123) -/
  acc : Acc
  /-- S. (R123) -/
  start : Tm
  /-- PRE. (R122) -/
  pre : Nat
  /-- POST. (R122) -/
  post : Nat
  /-- First sample number by tile. (R122) -/
  first : List Nat
  /-- t_ws by tile. (R122) -/
  begins : List Tm
  /-- S_max reserved. (R128) -/
  reserved : Nat
  /-- CLASS_CFG. (R129) -/
  cfg : W64
  /-- CLASS_MASK. (R129) -/
  mask : BitVec 256
  /-- HITS_MAX. (R131) -/
  hitsMax : Nat
  /-- The parameters in force at S. (R27, R129) -/
  regs : Tbl W64
  deriving DecidableEq, Repr

/-- `Extract` at reset. -/
def Extract.reset : Extract where
  acc := Acc.reset
  start := 0
  pre := 64
  post := 128
  first := []
  begins := []
  reserved := 0
  cfg := 0
  mask := 0
  hitsMax := 16
  regs := []

/-- A tile's bias loop, quantities in 1/256 code (R140). -/
structure LoopTile where
  /-- The output u. (R140) -/
  u : Int
  /-- The integrator i. (R140) -/
  integ : Int
  /-- The duty, with its fraction. (R143) -/
  duty : Nat
  /-- The repetitive memory. (R141) -/
  m : Tbl Int
  /-- Periods since the loop entered AUTO. (R141) -/
  k : Nat
  /-- The next AUTO period is the first. (R146) -/
  first : Bool
  /-- The output computed this period, not yet applied. (R135) -/
  nextU : Option Int
  /-- The integrator computed this period. (R135) -/
  nextI : Int
  /-- The repetitive memory update computed this period. (R141) -/
  nextM : Option (Nat × Int)
  /-- The duty computed this period. (R143) -/
  nextDuty : Nat
  /-- SLEW_LIMITED, RANGE_LIMITED, HV_SLEW, in deadband, as computed this period. (R142, R149) -/
  nextFlags : Nat
  /-- The last valid T. (R138) -/
  temp : Int
  /-- The last Ī. (R139) -/
  cur : Nat
  /-- When the last clean current arrived. (R139) -/
  curAt : Option Tm
  /-- Error before the deadband. (R149) -/
  e : Int
  /-- Repetitive term. (R149) -/
  r : Int
  /-- Tile high voltage. (R149) -/
  v : Int
  /-- HV_SLEW and deadband of the last applied output. (R149) -/
  status : Nat
  /-- Flags of the last telemetry record. (R149) -/
  flags : Nat
  /-- Periods since the last telemetry record. (R149) -/
  since : Nat
  /-- The present period's measurement was requested. (R135, R137) -/
  asked : Bool
  /-- FROZEN in abutment mode. (R145) -/
  frozen : Bool
  deriving DecidableEq, Repr

/-- `LoopTile` at reset. -/
def LoopTile.reset : LoopTile where
  u := 0
  integ := 0
  duty := 0
  m := []
  k := 0
  first := true
  nextU := none
  nextI := 0
  nextM := none
  nextDuty := 0
  nextFlags := 0
  temp := 0
  cur := 0
  curAt := none
  e := 0
  r := 0
  v := 0
  status := 0
  flags := 0
  since := 0
  asked := false
  frozen := false

/-- A record in the data ring. -/
structure DRec where
  /-- Deck offset of its first byte. (R157) -/
  pos : Nat
  /-- The record. (R157) -/
  data : Rec
  /-- Its channel; 256 for none. (R169) -/
  chan : Nat
  /-- End of a hit block's interval. (R169) -/
  stop : Tm
  /-- Start of the block interval it was written with. (R157, R169) -/
  from_ : Tm
  deriving DecidableEq, Repr

/-- `DRec` at reset. -/
def DRec.reset : DRec where
  pos := 0
  data := ⟨0, 0, 0, 0, 0, 0, []⟩
  chan := 256
  stop := 0
  from_ := 0

/-- A directory entry (R158). -/
structure Dir where
  /-- Deck offset of its first record. (R158) -/
  first : Nat
  /-- Boundary. (R158) -/
  at_ : Stamp
  /-- Span length code. (R158) -/
  span : Nat
  /-- THINNED. (R158) -/
  thinned : Bool
  /-- Records. (R158) -/
  records : Nat
  /-- Bytes. (R158) -/
  bytes : Nat
  /-- Hits written. (R155) -/
  hits : Nat
  /-- Hits thinned. (R155) -/
  drops : Nat
  /-- Snippets written. (R155) -/
  snips : Nat
  /-- Channels thinned. (R155) -/
  chans : List Nat
  deriving DecidableEq, Repr

/-- `Dir` at reset. -/
def Dir.reset : Dir where
  first := 0
  at_ := ⟨0, 0⟩
  span := 3
  thinned := false
  records := 0
  bytes := 0
  hits := 0
  drops := 0
  snips := 0
  chans := []

/-- A deck session (R168). -/
structure Sess where
  /-- Context. (R166) -/
  ctx : Nat
  /-- Tag. (R166) -/
  tag : Nat
  /-- Request flags. (R166) -/
  flags : Nat
  /-- Epoch. (R166) -/
  epoch : Nat
  /-- Requested start. (R166) -/
  start : Tm
  /-- Requested end. (R166) -/
  stop : Tm
  /-- Channels. (R166) -/
  mask : BitVec 256
  /-- 0 context or mailbox, 1 extractor, 2 raw. (R168) -/
  kind : Nat
  /-- Its opening record is still to come. (R168) -/
  queued : Bool
  /-- Served start. (R172) -/
  served : Tm
  /-- Deck offset of the next record. (R169) -/
  pos : Nat
  /-- Records delivered. (R170) -/
  sent : Nat
  /-- FOLLOWED. (R171) -/
  followed : Bool
  /-- TRUNCATED. (R172) -/
  truncated : Bool
  /-- The next record carries LOSS. (R169) -/
  mark : Bool
  /-- Its hold. (R173) -/
  hold : Option Nat
  /-- Reply of an extractor session. (R127) -/
  reply : List Rec
  /-- It waits at the write point. (R171) -/
  waits : Bool
  /-- Time of its next record when that was overwritten. (R174) -/
  lostFrom : Option Tm
  /-- An extractor reply is complete. (R127) -/
  ended : Bool
  /-- Time up to which records have been read. (R171) -/
  at_ : Tm
  /-- Its place in the order of placement. (R168) -/
  order : Nat
  /-- It resumes at the next directory entry. (R175) -/
  resume : Bool
  deriving DecidableEq, Repr

/-- `Sess` at reset. -/
def Sess.reset : Sess where
  ctx := 0
  tag := 0
  flags := 0
  epoch := 0
  start := 0
  stop := 0
  mask := 0
  kind := 0
  queued := true
  served := 0
  pos := 0
  sent := 0
  followed := false
  truncated := false
  mark := false
  hold := none
  reply := []
  waits := false
  lostFrom := none
  ended := false
  at_ := 0
  order := 0
  resume := false

/-- A hold (R173, R174). -/
structure Hold where
  /-- In use. (R173) -/
  used : Bool
  /-- Context. (R173) -/
  ctx : Nat
  /-- Tag of its request. (R398) -/
  tag : Nat
  /-- Epoch. (R173) -/
  epoch : Nat
  /-- Start. (R173) -/
  start : Tm
  /-- End. (R173) -/
  stop : Tm
  /-- Placed by a hold-only request. (R173) -/
  only : Bool
  deriving DecidableEq, Repr

/-- `Hold` at reset. -/
def Hold.reset : Hold where
  used := false
  ctx := 0
  tag := 0
  epoch := 0
  start := 0
  stop := 0
  only := false

/-- A main-stream record held by the Seam (R193, R195). -/
structure SRec where
  /-- The record. (R185) -/
  data : Rec
  /-- It lies in spill. (R193) -/
  spilled : Bool
  /-- Its spill segment is written. (R195) -/
  written : Bool
  /-- The segment it starts in. (R195) -/
  seg : Nat
  deriving DecidableEq, Repr

/-- `SRec` at reset. -/
def SRec.reset : SRec where
  data := ⟨0, 0, 0, 0, 0, 0, []⟩
  spilled := false
  written := false
  seg := 0

/-- A hem mark that waits for the records it counts (R184). -/
structure Mark where
  /-- Hem. (R183) -/
  hem : Stamp
  /-- sent. (R183) -/
  sent : Nat
  /-- CLOSE. (R183) -/
  close : Bool
  deriving DecidableEq, Repr

/-- `Mark` at reset. -/
def Mark.reset : Mark where
  hem := ⟨0, 0⟩
  sent := 0
  close := false

/-- A Seam input beside its parameters. -/
structure SeamQ where
  /-- Main-stream records in arrival order. (R185) -/
  q : List SRec
  /-- The applied hem. (R181) -/
  hem : Option Stamp
  /-- Marks not yet applied, oldest first. (R184) -/
  marks : List Mark
  /-- Main-stream records received since the link came up. (R184) -/
  recv : Nat
  /-- Key of the previous main-stream record. (R186) -/
  lastKey : List Nat
  /-- When the hem last advanced, or credit was released. (R188) -/
  hemAt : Tm
  /-- The hem at which it frayed. (R191) -/
  frayHem : Option Stamp
  /-- Records sent to the late stream since it frayed. (R191) -/
  frayLate : Nat
  /-- Source 198 raised in this fray interval. (R189) -/
  frayTold : Bool
  /-- Bytes sent to spill. (R195) -/
  spillOff : Nat
  /-- Bytes of the oldest unwritten record that the segments written so far hold. (R195) -/
  spillPart : Nat
  /-- Disabled; it closes with its CLOSE mark. (R180, R184) -/
  closing : Bool
  deriving DecidableEq, Repr

/-- `SeamQ` at reset. -/
def SeamQ.reset : SeamQ where
  q := []
  hem := none
  marks := []
  recv := 0
  lastKey := []
  hemAt := 0
  frayHem := none
  frayLate := 0
  frayTold := false
  spillOff := 0
  spillPart := 0
  closing := false

/-- The main stream and its hem marks on one port (R182, R183). -/
structure UpPort where
  /-- Main-stream records sent since the link came up. (R183) -/
  sent : Nat
  /-- Key time of the last main-stream record sent, until a mark passes it. (R182) -/
  lastSent : Option Stamp
  /-- When the last mark was sent. (R182) -/
  lastMark : Option Tm
  /-- The hem it carried. (R182) -/
  lastHem : Stamp
  /-- A mark that waits for the gap, with its flags. (R182) -/
  due : Option Nat
  deriving DecidableEq, Repr

/-- `UpPort` at reset. -/
def UpPort.reset : UpPort where
  sent := 0
  lastSent := none
  lastMark := none
  lastHem := ⟨0, 0⟩
  due := none

/-- A record in a queue with the byte position of its first byte. -/
structure QRec where
  /-- Byte position. (R429) -/
  pos : Nat
  /-- The record. (R429) -/
  data : Rec
  /-- It belongs to the late stream. (R202) -/
  late : Bool
  deriving DecidableEq, Repr

/-- `QRec` at reset. -/
def QRec.reset : QRec where
  pos := 0
  data := ⟨0, 0, 0, 0, 0, 0, []⟩
  late := false

/-- One source of a context: its read position and the loss records placed before its next record. -/
structure CtxSrc where
  /-- Attached. (R203) -/
  on : Bool
  /-- Byte position of the next record. (R204) -/
  pos : Nat
  /-- Attached at this boundary. (R203) -/
  since : Tm
  /-- Epoch of that boundary. (R203) -/
  sinceEpoch : Nat
  /-- Loss records placed before the next record. (R204) -/
  loss : List Rec
  /-- The next delivered record carries LOSS. (R28) -/
  mark : Bool
  /-- Sequence of its container records. (R237) -/
  cseq : Nat
  deriving DecidableEq, Repr

/-- `CtxSrc` at reset. -/
def CtxSrc.reset : CtxSrc where
  on := false
  pos := 0
  since := 0
  sinceEpoch := 0
  loss := []
  mark := false
  cseq := 0

/-- A unit granted and not yet delivered (R218, R219). -/
structure CtxUnit where
  /-- Context. (R218) -/
  ctx : Nat
  /-- Source, in the order of R202. (R202) -/
  src : Nat
  /-- Reserved size. (R218) -/
  bytes : Nat
  /-- The unit's bytes. (R218) -/
  data : List Byte
  /-- Offsets within the unit at which records end. (R211) -/
  ends : List Nat
  /-- Offsets within the unit at which records begin. (R211) -/
  starts : List Nat
  /-- A press job. (R218) -/
  job : Bool
  /-- Its bytes are in link staging. (R218) -/
  ready : Bool
  /-- Input of a press job. (R209) -/
  input : List Byte
  /-- Key time of its container. (R237) -/
  key : Stamp
  /-- Key time of its last record. (R26) -/
  last : Stamp
  /-- Flags of its container. (R237) -/
  flags : Nat
  /-- CONT_IN. (R237) -/
  contIn : Bool
  /-- CONT_OUT. (R237) -/
  contOut : Bool
  deriving DecidableEq, Repr

/-- `CtxUnit` at reset. -/
def CtxUnit.reset : CtxUnit where
  ctx := 0
  src := 0
  bytes := 0
  data := []
  ends := []
  starts := []
  job := false
  ready := true
  input := []
  key := ⟨0, 0⟩
  last := ⟨0, 0⟩
  flags := 0
  contIn := false
  contOut := false

/-- A fetched host descriptor (R211). -/
structure Buf where
  /-- Buffer address. (R211) -/
  addr : Nat
  /-- Buffer size. (R211) -/
  size : Nat
  /-- Bytes filled. (R211) -/
  used : Nat
  /-- Bytes up to the last record end. (R212) -/
  lastEnd : Nat
  /-- START. (R211) -/
  start : Bool
  /-- The last used byte ends a record. (R211) -/
  endsNow : Bool
  /-- Ring index. (R213) -/
  index : Nat
  /-- Bytes after the last record end. (R212) -/
  tail : List Byte
  deriving DecidableEq, Repr

/-- `Buf` at reset. -/
def Buf.reset : Buf where
  addr := 0
  size := 0
  used := 0
  lastEnd := 0
  start := false
  endsNow := false
  index := 0
  tail := []

/-- A readout context beside its parameters. -/
structure CtxSt where
  /-- STATE. (R215) -/
  state : Nat
  /-- The state it takes at the next boundary. (R215) -/
  next : Option Nat
  /-- A rebind takes effect at the next boundary. (R215) -/
  rebind : Bool
  /-- CTX_DOORBELL.PROD. (R213) -/
  prod : Nat
  /-- CTX_REQ_DOORBELL.PROD. (R213) -/
  reqProd : Nat
  /-- CTX_CONSUMER.CONS. (R213) -/
  cons : Nat
  /-- CTX_CONSUMER.REQ_CONS. (R213) -/
  reqCons : Nat
  /-- CTX_NOTIFY.ARM. (R213) -/
  arm : Bool
  /-- Index of the next descriptor to fetch. (R212) -/
  fetched : Nat
  /-- Fetched descriptors, the one being filled first. (R212) -/
  bufs : List Buf
  /-- Sources 0 Merged, 1 Late, 2 Rewind, 3 Raw, 4 Monitoring, 5 Inbound. (R202) -/
  src : Tbl CtxSrc
  /-- The rest of a record that has begun. (R209) -/
  cut : List Byte
  /-- The source of the record that has begun. (R209) -/
  cutSrc : Nat
  /-- The next source in the round robin. (R209) -/
  turn : Nat
  /-- Queued rewind descriptors, oldest first. (R207) -/
  requests : List (List Byte)
  /-- Records of the reply in progress, ready to deliver. (R169) -/
  reply : List Rec
  /-- A reply is in progress. (R207) -/
  replyOn : Bool
  /-- Start of the next span the raw source covers. (R206) -/
  rawAt : Option Stamp
  /-- Hit blocks of the raw source ready to deliver. (R206) -/
  raw : List Rec
  /-- Inbound records ready to deliver, with their sending device. (R208) -/
  inbound : List (Nat × Rec)
  /-- Ports on which items were lost whose keys are not known: their loss records stand before the next record. (R26, R277) -/
  laneLoss : List Nat
  /-- Delivered bytes whose credit is not returned, by sending device. (R208) -/
  inDone : Tbl Nat
  /-- Credit of the remote inbound window. (R208) -/
  fabCredit : Nat
  /-- Received a unit since the previous boundary. (R221) -/
  served : Bool
  /-- The coalescer's timer. (R439) -/
  coalesceFrom : Option Tm
  /-- Bytes in the egress coalescer: a partial DDR5 unit or frame, or bytes that wait for a buffer. (R439, R212) -/
  tailUnit : List Byte
  /-- Frames of the present record have been sent. (R256) -/
  begun : Bool
  /-- Records begun whose end has not been written back, with their source. (R216) -/
  kept : List (Nat × List Byte)
  /-- Bytes of the first of them that have been written back. (R216) -/
  keptOff : Nat
  /-- Records to be sent again after a rebind. (R216) -/
  again : List (Nat × List Byte)
  /-- Key time of the record that has begun. (R237) -/
  cutKey : Stamp
  /-- Inbound window reserved, in 4 KiB. (R208) -/
  window : Nat
  deriving DecidableEq, Repr

/-- `CtxSt` at reset. -/
def CtxSt.reset : CtxSt where
  state := 0
  next := none
  rebind := false
  prod := 0
  reqProd := 0
  cons := 0
  reqCons := 0
  arm := false
  fetched := 0
  bufs := []
  src := []
  cut := []
  cutSrc := 0
  turn := 0
  requests := []
  reply := []
  replyOn := false
  rawAt := none
  raw := []
  inbound := []
  laneLoss := []
  inDone := []
  fabCredit := 0
  served := false
  coalesceFrom := none
  tailUnit := []
  begun := false
  kept := []
  keptOff := 0
  again := []
  cutKey := ⟨0, 0⟩
  window := 0

/-- A record or message in reassembly (R257). -/
structure RxItem where
  /-- Source. (R257) -/
  src : Nat
  /-- VC. (R257) -/
  vc : Nat
  /-- STREAM. (R257) -/
  stream : Nat
  /-- KIND. (R256) -/
  kind : Nat
  /-- Destination context of the delivery word. (R256) -/
  ctx : Nat
  /-- Payload so far. (R257) -/
  words : List W64
  deriving DecidableEq, Repr

/-- `RxItem` at reset. -/
def RxItem.reset : RxItem where
  src := 0
  vc := 0
  stream := 0
  kind := 0
  ctx := 0
  words := []

/-- A fabric port beside its parameters. -/
structure FabPort where
  /-- Running count of VC0 frames. (R255) -/
  tag : Nat
  /-- When the queued VC0 frames will have been sent. (R283) -/
  vc0Busy : Tm
  /-- VC1 frames that wait for credit. (R252) -/
  q1 : List Frame
  /-- VC2 frames that wait. (R252) -/
  q2 : List Frame
  /-- VC3 frames that wait. (R252) -/
  q3 : List Frame
  /-- Frames of the present round sent: VC2, then VC3. (R252) -/
  turn : Nat
  /-- Credit in use by VC. (R258) -/
  used : Tbl Nat
  /-- SEQ of the next frame. (R259) -/
  seq : Nat
  /-- Frames in the replay buffer with their times, oldest first. (R259) -/
  unacked : List (Frame × Tm)
  /-- Replays of the oldest frame. (R259) -/
  tries : Nat
  /-- The next replay is caused by a re-stripe. (R296) -/
  restriped : Bool
  /-- SEQ of the next good frame. (R259) -/
  rxSeq : Nat
  /-- Frames are discarded until the replay. (R259) -/
  gap : Bool
  /-- Reassembly. (R257) -/
  rx : List RxItem
  /-- Credit withheld by VC. (R195) -/
  owed : Tbl Nat
  /-- The hop delay is not re-measured. (R297) -/
  uncomp : Bool
  /-- A measured hop delay that waits for its boundary. (R282) -/
  hop : Option Nat
  deriving DecidableEq, Repr

/-- `FabPort` at reset. -/
def FabPort.reset : FabPort where
  tag := 0
  vc0Busy := 0
  q1 := []
  q2 := []
  q3 := []
  turn := 0
  used := []
  seq := 0
  unacked := []
  tries := 0
  restriped := false
  rxSeq := 0
  gap := false
  rx := []
  owed := []
  uncomp := true
  hop := none

/-- A device as the root has discovered it (R268). -/
structure Node where
  /-- Identity. (R268) -/
  id : W64
  /-- Parent. (R268) -/
  parent : W64
  /-- Port of the parent. (R268) -/
  port : Nat
  /-- Its own port towards the parent. (R270) -/
  up : Nat
  /-- Level. (R268) -/
  level : Nat
  /-- Address. (R264) -/
  addr : Nat
  /-- It answers in abutment mode. (R269) -/
  abut : Bool
  /-- Left over by re-attachment. (R276) -/
  stranded : Bool
  /-- Port numbers from the root. (R268) -/
  route : List Nat
  /-- Its up links: port and the identity at the far end. (R268) -/
  links : List (Nat × W64)
  /-- Its install is acknowledged. (R270) -/
  acked : Bool
  deriving DecidableEq, Repr

/-- `Node` at reset. -/
def Node.reset : Node where
  id := 0
  parent := 0
  port := 0
  up := 7
  level := 0
  addr := 0xFFFF
  abut := false
  stranded := false
  route := []
  links := []
  acked := false

/-- A lane beside its parameters. -/
structure LaneSt where
  /-- ALIGN blocks seen since block lock. (R293) -/
  aligns : Nat
  /-- Arrival of the ALIGN that measured its skew. (R293) -/
  alignAt : Option Tm
  /-- HELLO parts received. (R292) -/
  parts : Tbl Nat
  /-- Mask of HELLO parts received. (R293) -/
  got : Nat
  /-- The peer reports this lane locked. (R291) -/
  peer : Bool
  /-- Lock losses within 60 s. (R300) -/
  losses : List Tm
  /-- Start of the present retraining. (R301) -/
  retrainAt : Option Tm
  /-- In STANDBY and good since. (R298) -/
  goodFrom : Option Tm
  /-- The hold is complete. (R298) -/
  held : Bool
  /-- LANE_READY received. (R298) -/
  ready : Bool
  /-- A far-end request sent and not answered. (R302) -/
  far : Option Tm
  /-- The lane retransmits for the peer. (R302) -/
  looped : Bool
  deriving DecidableEq, Repr

/-- `LaneSt` at reset. -/
def LaneSt.reset : LaneSt where
  aligns := 0
  alignAt := none
  parts := []
  got := 0
  peer := false
  losses := []
  retrainAt := none
  goodFrom := none
  held := false
  ready := false
  far := none
  looped := false

/-- A pattern checker (R303). -/
structure Prbs where
  /-- Bits that its next prediction rests on, newest first: received until it locks, its own after. (R303) -/
  past : List Bool
  /-- Consecutive correct bits before lock. (R303) -/
  good : Nat
  /-- Which of the last bits since lock erred, newest first. (R303) -/
  wrong : List Bool
  deriving DecidableEq, Repr

/-- `Prbs` at reset. -/
def Prbs.reset : Prbs where
  past := []
  good := 0
  wrong := []

/-- A port's lane set beside LANE_PORT. -/
structure PortLane where
  /-- Loss of lock that began the re-stripe in progress. (R295) -/
  stripeAt : Option Tm
  /-- When RESTRIPE was last sent. (R295) -/
  sentAt : Tm
  /-- Mask of the RESTRIPE sent. (R295) -/
  sent : Nat
  /-- Boundary after which the transmitter widens. (R298) -/
  widen : Option Tm
  /-- This end began its last re-stripe. (R295) -/
  lead : Bool
  /-- The pattern checker of lane 0. (R303) -/
  prbs : Prbs
  deriving DecidableEq, Repr

/-- `PortLane` at reset. -/
def PortLane.reset : PortLane where
  stripeAt := none
  sentAt := 0
  sent := 0
  widen := none
  lead := false
  prbs := Prbs.reset

/-- One 64 B access of a DDR5 channel (R343). -/
structure DdrAcc where
  /-- A write. (R343) -/
  write : Bool
  /-- 0 deck writer, 1 deck reader, 2 spill, 3 press, 4 context, 5 firmware, 6 scrubber. (R343) -/
  src : Nat
  /-- Its address. (R341) -/
  addr : Nat
  deriving DecidableEq, Repr

/-- `DdrAcc` at reset. -/
def DdrAcc.reset : DdrAcc where
  write := false
  src := 0
  addr := 0

/-- A DDR5 channel beside its parameters. -/
structure DdrSt where
  /-- What the module's SPD says. (R335) -/
  spd : Option Spd
  /-- The present training step failed once. (R339) -/
  failed : Bool
  /-- Source 171 raised in this span. (R345) -/
  panicTold : Bool
  /-- When an owed interval was last repaid. (R345) -/
  repaid : Tm
  /-- Non-real-time sources are halved. (R353) -/
  halved : Bool
  /-- Steps of the present pass done. (R348) -/
  steps : Nat
  /-- The last step. (R348) -/
  stepAt : Option Tm
  /-- Start of the latest pass. (R348) -/
  passAt : Tm
  /-- Temperature at its start. (R348) -/
  passTemp : Int
  /-- Hour and corrections by device and rank. (R350) -/
  marked : Tbl (Nat × Nat)
  /-- Its training checks stored results in place of the four training steps. (R339) -/
  fast : Bool
  /-- It retrains fully after a loss of service. (R352) -/
  whole : Bool
  /-- Accesses that have not entered a queue, oldest first. (R343) -/
  wait : List DdrAcc
  /-- The read queue, oldest first. (R343) -/
  rq : List DdrAcc
  /-- The write queue, oldest first. (R343) -/
  wq : List DdrAcc
  /-- A write drain runs. (R344) -/
  drain : Bool
  /-- The source whose turn the round robin last gave. (R343) -/
  turn : Nat
  /-- The turn carried over while every second access waits. (R353) -/
  half : Nat
  /-- What is left of its share, in accesses. (R343) -/
  left : Nat
  /-- When the next refresh interval falls due; 0 before the first. (R342) -/
  refAt : Tm
  /-- When a refresh blocks each bank address. (R342) -/
  busy : Tbl (Tm × Tm)
  /-- The retry buffer: the last accesses issued, the latest first. (R349) -/
  retry : List DdrAcc
  deriving DecidableEq, Repr

/-- `DdrSt` at reset. -/
def DdrSt.reset : DdrSt where
  spd := none
  failed := false
  panicTold := false
  repaid := 0
  halved := false
  steps := 0
  stepAt := none
  passAt := 0
  passTemp := 0
  marked := []
  fast := false
  whole := false
  wait := []
  rq := []
  wq := []
  drain := false
  turn := 0
  half := 0
  left := 0
  refAt := 0
  busy := []
  retry := []

/-- The hardware registers of a host mailbox (R362) and its state (R385). -/
structure MbRegs where
  /-- SQ_BASE. (R362) -/
  sqBase : Nat
  /-- CQ_BASE. (R362) -/
  cqBase : Nat
  /-- Staged low half of SQ_BASE. (R366) -/
  sqLow : Nat
  /-- Staged low half of CQ_BASE. (R366) -/
  cqLow : Nat
  /-- CFG.SQ_LOG2. (R362) -/
  sqLog2 : Nat
  /-- CFG.CQ_LOG2. (R362) -/
  cqLog2 : Nat
  /-- CFG.ENABLE. (R362) -/
  enable : Bool
  /-- DOORBELL.PROD. (R362) -/
  prod : Nat
  /-- CQ_DOORBELL.HEAD. (R362) -/
  head : Nat
  /-- STATUS.CONS. (R362) -/
  cons : Nat
  /-- STATUS.READY. (R362) -/
  ready : Bool
  /-- STATUS.ERROR. (R362) -/
  error : Bool
  /-- Completion entries written, free-running. (R383) -/
  tail : Nat
  /-- Completion entries reserved. (R383) -/
  reserved : Nat
  deriving DecidableEq, Repr

/-- `MbRegs` at reset. -/
def MbRegs.reset : MbRegs where
  sqBase := 0
  cqBase := 0
  sqLow := 0
  cqLow := 0
  sqLog2 := 2
  cqLog2 := 4
  enable := false
  prod := 0
  head := 0
  cons := 0
  ready := false
  error := false
  tail := 0
  reserved := 0

/-- A snapshot slot (R364, R365). -/
structure Snap where
  /-- The register whose high half is latched. (R364) -/
  tag : Option Nat
  /-- The latched high half. (R364) -/
  high : Nat
  /-- SNAP_TIME_X.EPOCH. (R365) -/
  epoch : Nat
  /-- SNAP_TIME_X.STITCH. (R365) -/
  stitch : Nat
  deriving DecidableEq, Repr

/-- `Snap` at reset. -/
def Snap.reset : Snap where
  tag := none
  high := 0
  epoch := 0
  stitch := 0

/-- A stored completion of a state-changing command (R388). -/
structure Hist where
  /-- Host sequence. (R388) -/
  seq : Nat
  /-- Status. (R388) -/
  status : Nat
  /-- Result. (R388) -/
  result : W64
  deriving DecidableEq, Repr

/-- `Hist` at reset. -/
def Hist.reset : Hist where
  seq := 0
  status := 0
  result := 0

/-- Where a command came from: its mailbox, and for MB2 the origin device and mailbox (R388, R390). -/
structure Who where
  /-- The mailbox it executes for. (R377) -/
  mb : Nat
  /-- Origin device of an MB2 command. (R390) -/
  origin : Nat
  /-- Origin mailbox of an MB2 command. (R390) -/
  originMb : Nat
  deriving DecidableEq, Repr

/-- `Who` at reset. -/
def Who.reset : Who where
  mb := 0
  origin := 0xFFFF
  originMb := 0

/-- A command that waits for its commit (R387) or runs in the background (R384). -/
structure Wait where
  /-- Its sender. (R377) -/
  who : Who
  /-- Host sequence. (R379) -/
  seq : Nat
  /-- Opcode. (R379) -/
  opcode : Nat
  /-- Flags. (R379) -/
  flags : Nat
  /-- Slot index. (R382) -/
  slot : Nat
  /-- RESP_ADDR. (R379) -/
  respAddr : Nat
  /-- RESP_MAX. (R379) -/
  respMax : Nat
  /-- Status of its completion. (R382) -/
  status : Nat
  /-- Result of its completion. (R382) -/
  result : W64
  /-- Response. (R381) -/
  response : List Byte
  /-- The boundary whose delta set holds its change. (R411) -/
  commit : Tm
  /-- It runs in the background. (R384) -/
  background : Bool
  /-- Its interim entry has been posted. (R384) -/
  interim : Bool
  /-- Its mailbox was disabled: no entry is written. (R385) -/
  mute : Bool
  /-- Identifiers that its sets named. (R396, R428) -/
  sets : List Nat
  /-- Lanes whose peers' answers it waits for. (R302) -/
  lanes : List Nat
  deriving DecidableEq, Repr

/-- `Wait` at reset. -/
def Wait.reset : Wait where
  who := Who.reset
  seq := 0
  opcode := 0
  flags := 0
  slot := 0
  respAddr := 0
  respMax := 0
  status := 0
  result := 0
  response := []
  commit := 0
  background := false
  interim := false
  mute := false
  sets := []
  lanes := []

/-- A command forwarded to another device (R390, R391). -/
structure Remote where
  /-- Its sender. (R390) -/
  who : Who
  /-- Host sequence. (R391) -/
  seq : Nat
  /-- Slot index. (R382) -/
  slot : Nat
  /-- Flags. (R379) -/
  flags : Nat
  /-- RESP_ADDR. (R379) -/
  respAddr : Nat
  /-- RESP_MAX. (R379) -/
  respMax : Nat
  /-- The reply limit; none once an interim reply has come. (R391) -/
  due : Option Tm
  deriving DecidableEq, Repr

/-- `Remote` at reset. -/
def Remote.reset : Remote where
  who := Who.reset
  seq := 0
  slot := 0
  flags := 0
  respAddr := 0
  respMax := 0
  due := none

/-- A class to be released before a boundary (R397). -/
structure AtNs where
  /-- Class. (R397) -/
  cls : Nat
  /-- The boundary. (R397) -/
  at_ : Tm
  deriving DecidableEq, Repr

/-- `AtNs` at reset. -/
def AtNs.reset : AtNs where
  cls := 0
  at_ := 0

/-- A control core as the Keystone sees it (R406 to R409). -/
structure PierSt where
  /-- Health word as last published, without ALIVE. (R407) -/
  word : Nat
  /-- When the last word arrived. (R407) -/
  heard : Option Tm
  /-- Held in reset. (R409) -/
  held : Bool
  /-- When the Keystone last reset or released it. (R408) -/
  resetAt : Option Tm
  /-- Its resets by the Keystone within 60 s. (R408) -/
  resets : List Tm
  /-- Failed. (R408) -/
  failed : Bool
  deriving DecidableEq, Repr

/-- `PierSt` at reset. -/
def PierSt.reset : PierSt where
  word := 0
  heard := none
  held := true
  resetAt := none
  resets := []
  failed := false

/-- What a committed checkpoint holds of the firmware's state (R412). -/
structure Ckpt where
  /-- Pending values with boundary and class. (R412) -/
  pend : List Pend
  /-- Duplicate histories. (R412) -/
  hist : Tbl (List Hist)
  /-- h. (R412) -/
  high : Tbl Nat
  /-- Keys with an accepted command. (R412) -/
  seen : Tbl Bool
  /-- Commands running in the background. (R412) -/
  wait : List Wait
  /-- Releases owed. (R412) -/
  atNs : List AtNs
  deriving DecidableEq, Repr

/-- `Ckpt` at reset. -/
def Ckpt.reset : Ckpt where
  pend := []
  hist := []
  high := []
  seen := []
  wait := []
  atNs := []

/-- A maintenance activity on one unit (R420, R421). -/
structure Act where
  /-- Activity. (R420) -/
  code : Nat
  /-- Unit. (R420) -/
  unit : Nat
  /-- Started with MAINT_CTRL. (R420) -/
  byHost : Bool
  /-- Start. (R420) -/
  since : Tm
  /-- Suspended by the activity of cell S. (R421) -/
  suspended : Bool
  /-- Deferrals in a row. (R421) -/
  defers : Nat
  deriving DecidableEq, Repr

/-- `Act` at reset. -/
def Act.reset : Act where
  code := 0
  unit := 0
  byHost := false
  since := 0
  suspended := false
  defers := 0

/-- An error in a queue memory (R428, R434). -/
structure Flaw where
  /-- Memory ID. (R425) -/
  mem : Nat
  /-- Egress and monitoring queue: byte position of the record; else records still to be read before it. (R434) -/
  at_ : Nat
  /-- Functional word index. (R434) -/
  word : Nat
  /-- Uncorrectable. (R434) -/
  ue : Bool
  deriving DecidableEq, Repr

/-- `Flaw` at reset. -/
def Flaw.reset : Flaw where
  mem := 0
  at_ := 0
  word := 0
  ue := false

/-- A mailbox press job (R239). -/
structure Job where
  /-- Its sender. (R377) -/
  who : Who
  /-- Host sequence of its command. (R379) -/
  seq : Nat
  /-- op. (R239) -/
  compress : Bool
  /-- RECORDS. (R239) -/
  records : Bool
  /-- RESUME. (R239) -/
  resume : Bool
  /-- NOTIFY. (R239) -/
  notify : Bool
  /-- src_kind. (R239) -/
  srcKind : Nat
  /-- dst_kind. (R239) -/
  dstKind : Nat
  /-- tag. (R239) -/
  tag : Nat
  /-- src. (R239) -/
  src : Nat
  /-- src_len. (R239) -/
  srcLen : Nat
  /-- dst. (R239) -/
  dst : Nat
  /-- dst_len. (R239) -/
  dstLen : Nat
  /-- dst_addr. (R239) -/
  dstAddr : Nat
  /-- dst_ctx. (R239) -/
  dstCtx : Nat
  /-- in_total of the resume token. (R242) -/
  inTotal : Nat
  /-- out_total. (R242) -/
  outTotal : Nat
  /-- Running CRC-32C state. (R242) -/
  crc : Nat
  /-- Blocks so far. (R242) -/
  nblk : Nat
  deriving DecidableEq, Repr

/-- `Job` at reset. -/
def Job.reset : Job where
  who := Who.reset
  seq := 0
  compress := true
  records := false
  resume := false
  notify := false
  srcKind := 0
  dstKind := 0
  tag := 0
  src := 0
  srcLen := 0
  dst := 0
  dstLen := 0
  dstAddr := 0
  dstCtx := 0
  inTotal := 0
  outTotal := 0
  crc := 0xFFFFFFFF
  nblk := 0

/-- A firmware slot in MRAM (R459, R465). -/
structure Slot where
  /-- Verdict; DESIGN CHOICE false (log entry 3). (R465) -/
  ok : Bool
  /-- The image it holds; DESIGN CHOICE none (log entry 3). (R462) -/
  image : Image
  /-- SHA-384 of the header. (R465) -/
  digest : List Byte
  deriving DecidableEq, Repr

/-- `Slot` at reset. -/
def Slot.reset : Slot where
  ok := false
  image := Image.none
  digest := []

/-- A copy of the configuration store (R461). -/
structure Store where
  /-- Commit word and CRC-32C are valid. (R461) -/
  valid : Bool
  /-- Version that saved it. (R403) -/
  version : Nat
  /-- Order of the saves. (R461) -/
  number : Nat
  /-- The parameters it holds. (R461) -/
  regs : Tbl W64
  /-- SPD serial numbers of the stored training results. (R339) -/
  training : Option (List W64)
  /-- Subsystem Vendor ID and Subsystem ID. (R358) -/
  sub : Option (Nat × Nat)
  deriving DecidableEq, Repr

/-- `Store` at reset. -/
def Store.reset : Store where
  valid := false
  version := 0
  number := 0
  regs := []
  training := none
  sub := none

/-- The nonce of a mailbox (R475). -/
structure Nonce where
  /-- The nonce. (R475) -/
  bytes : List Byte
  /-- When it expires. (R475) -/
  until_ : Tm
  deriving DecidableEq, Repr

/-- `Nonce` at reset. -/
def Nonce.reset : Nonce where
  bytes := []
  until_ := 0

end Sys2Proof.Machine
end

