-- ==== Sys2Proof/Machine/State.lean ====
section
/-! DEFINITION. The state of the TRL-5640: every register, queue, counter, mode and pin the spec gives the device, the
queue of waiting commands, and the reasons a step can stop. Plain data throughout. -/

namespace Sys2Proof.Machine

/-- The reasons a step can stop with a fault. The spec gives every command of the table an effect, so there is none:
no meaning raises a fault (safe: nothing is cut short). -/
inductive Fault where
  deriving DecidableEq, Repr

/-- The reasons a command has no meaning. -/
inductive Refusal where
  /-- Raised by `exec` for a row of the opcode table whose meaning has not been written (safe: the step stops). -/
  | notModelled (mnemonic : String)
  deriving DecidableEq, Repr

/-- The time base, spans, swaps, timed outputs and scheduled actions. -/
structure TimeSt where
  /-- Seconds, ns and stitch of the time base. (R306) -/
  now : Tm
  /-- The epoch. (R306) -/
  epoch : Nat
  /-- Time since POR_N was released. (R365) -/
  up : Tm
  /-- The latest span boundary. (R323) -/
  last : Tm
  /-- The next span boundary. (R323, R322) -/
  next : Tm
  /-- Span code in force. (R323) -/
  span : Nat
  /-- The correction still outstanding. (R315) -/
  slew : Int
  /-- When the running slew began. (R315) -/
  slewAt : Tm
  /-- Forced steps pending, one a boundary. (R320) -/
  steps : List PendStep
  /-- Refined offsets collected for the mean. (R315) -/
  thetas : List Int
  /-- The time has been set once. (R317) -/
  set : Bool
  /-- A master stands on the up port. (R310) -/
  master : Bool
  /-- Exchanges by port. (R313) -/
  port : Tbl PortTime
  /-- The last PPS_IN edge. (R317) -/
  lastPps : Option Tm
  /-- The last valid exchange on the up port, or the end of the own rootship. (R317) -/
  mastered : Tm
  /-- The timed outputs. (R327) -/
  tout : Tbl ToutSt
  /-- PPS_OUT is high. (R328) -/
  ppsOut : Bool
  /-- When PPS_OUT falls. (R328) -/
  ppsStop : Tm
  /-- The action table's working state. (R329) -/
  act : Tbl ActSt
  /-- Pending swap-shadowed values, oldest first. (R324) -/
  pend : List Pend
  /-- Sets closed at the cutoff, in the staging registers. (R324) -/
  staged : List Pend
  /-- Starts of the stretches that the time base held without a step, and the count of sampling edges at each, newest first. (R69, R122) -/
  anchors : List (Stamp × Nat)
  /-- Sampling edges since start-up at the latest boundary. (R68) -/
  samples : Nat
  deriving DecidableEq, Repr

/-- `TimeSt` at reset. -/
def TimeSt.reset : TimeSt where
  now := 0
  epoch := 0
  up := 0
  last := 0
  next := 0
  span := 3
  slew := 0
  slewAt := 0
  steps := []
  thetas := []
  set := false
  master := false
  port := []
  lastPps := none
  mastered := 0
  tout := []
  ppsOut := false
  ppsStop := 0
  act := []
  pend := []
  staged := []
  anchors := [(⟨0, 0⟩, 0)]
  samples := 0

/-- Event sources, the host's latch and MSI-X (R11, R21, R367, R368). -/
structure EvSt where
  /-- EV_PENDING. (R367) -/
  host : BitVec 256
  /-- The firmware's latch. (R21) -/
  fw : BitVec 256
  /-- The recorder's latch. (R21) -/
  recd : BitVec 256
  /-- EV_MASK. (R367) -/
  mask : BitVec 256
  /-- EV_GROUP_MODE.SHARED. (R367) -/
  shared : BitVec 8
  /-- SNAP_EV_RAISES. (R365) -/
  raises : Nat
  /-- MSI-X Enable; DESIGN CHOICE 0 (log entry 3). (R368) -/
  msixEnable : Bool
  /-- The Function Mask; DESIGN CHOICE 0 (log entry 3). (R368) -/
  funcMask : Bool
  /-- The Mask bits of the MSI-X table; DESIGN CHOICE all 1 (log entry 3). (R368) -/
  vecMask : BitVec 256
  /-- The pending bit array. (R368) -/
  pba : BitVec 256
  /-- Message address and data of the MSI-X table. (R360) -/
  table : Tbl (Nat × Nat)
  deriving DecidableEq, Repr

/-- `EvSt` at reset. -/
def EvSt.reset : EvSt where
  host := 0
  fw := 0
  recd := 0
  mask := BitVec.allOnes 256
  shared := 0
  raises := 0
  msixEnable := false
  funcMask := false
  vecMask := BitVec.allOnes 256
  pba := 0
  table := []

/-- The event recorder (R443 to R458). -/
structure RecSt where
  /-- Closed records, oldest first, and the open record last where `opened`. (R446) -/
  staging : List LogRec
  /-- The last record of staging is open. (R446) -/
  opened : Bool
  /-- Token buckets by code. (R447) -/
  buckets : Tbl Bucket
  /-- When source 235 was last raised. (R447) -/
  lastRateTb : Option Tm
  /-- Ring segments, oldest first: sequence and records. (R449) -/
  segs : List (Nat × List LogRec)
  /-- The next segment sequence; DESIGN CHOICE 0 (log entry 3). (R449) -/
  segSeq : Nat
  /-- The audit area. (R449) -/
  audit : List LogRec
  /-- Segment 63. (R449) -/
  clears : List LogRec
  /-- The start-up scan is running. (R453) -/
  scanning : Bool
  /-- When the word budget was last brought up to date. (R452) -/
  budgetTb : Tm
  /-- The part of a word not yet refilled. (R452) -/
  budgetRem : Nat
  deriving DecidableEq, Repr

/-- `RecSt` at reset. -/
def RecSt.reset : RecSt where
  staging := []
  opened := false
  buckets := []
  lastRateTb := none
  segs := []
  segSeq := 0
  audit := []
  clears := []
  scanning := true
  budgetTb := 0
  budgetRem := 0

/-- The front end (R34 to R62). -/
structure AfeSt where
  /-- Per channel. (R34) -/
  ch : Tbl FeCh
  /-- Per tile. (R34) -/
  tile : Tbl FeTile
  /-- Synchronised level of BLANK0. (R53) -/
  pin0 : Bool
  /-- Synchronised level of BLANK1. (R53) -/
  pin1 : Bool
  /-- Channels that leave the Truss and the loop at the next boundary. (R51) -/
  leave : List Nat
  /-- Channels restored at the next boundary. (R51) -/
  back : List Nat
  /-- Channel and group from whose mask it was removed. (R51) -/
  removed : List (Nat × Nat)
  /-- Channels out of service as BROKEN. (R51) -/
  out : List Nat
  deriving DecidableEq, Repr

/-- `AfeSt` at reset. -/
def AfeSt.reset : AfeSt where
  ch := []
  tile := []
  pin0 := false
  pin1 := false
  leave := []
  back := []
  removed := []
  out := []

/-- The digitiser (R63 to R85). -/
structure DigSt where
  /-- Housekeeping converters. (R78) -/
  hk : Tbl HkTile
  /-- Rotation sequencers. (R77) -/
  rot : Tbl RotTile
  /-- Ring samples that a reader has called for, by channel and sample number mod 8,192, each with its sample number. (R68) -/
  ring : Tbl (Tbl (Option (Nat × Samp)))
  /-- The parameters in force before the latest boundary, for samples whose edges lie before it. (R64, R66, R89) -/
  was : Tbl W64
  /-- Offset of the housekeeping sample grid and its chop phase in the time base. (R78, R54) -/
  grid : Nat
  deriving DecidableEq, Repr

/-- `DigSt` at reset. -/
def DigSt.reset : DigSt where
  hk := []
  rot := []
  ring := []
  was := []
  grid := 0

/-- Picosecond timing and the gauge (R86 to R106). -/
structure TdcSt where
  /-- Channels. (R88) -/
  ch : Tbl TdcCh
  /-- Interpolator pairs: channels, gauge inputs 256–263, ports 264–267, TRIG_IN0, TRIG_IN1, PPS_IN. (R94) -/
  pair : Tbl Pair
  /-- Gauge inputs. (R101) -/
  gauge : Tbl Gauge
  /-- Start of the latest block interval. (R99) -/
  interval : Option Stamp
  /-- Unit + 1 last visited, by tile and the sequence of R94. (R92, R94) -/
  visitLast : Tbl Nat
  deriving DecidableEq, Repr

/-- `TdcSt` at reset. -/
def TdcSt.reset : TdcSt where
  ch := []
  pair := []
  gauge := []
  interval := none
  visitLast := []

/-- Trigger, capture and event extraction (R107 to R133). -/
structure TrgSt where
  /-- Open majority windows. (R109) -/
  win : Tbl (Option GrpWin)
  /-- When a sum-rule group last fired. (R110) -/
  fired : Tbl (Option Tm)
  /-- Primitive sequence. (R111) -/
  seq : Nat
  /-- Primitives held, oldest first. (R115) -/
  prims : List Prim
  /-- Open class windows. (R116) -/
  root : Tbl (Option RootWin)
  /-- Accept count. (R116) -/
  acceptId : Nat
  /-- Last TRIG_IN edge that formed an accept. (R118) -/
  lastIn : Tbl (Option Tm)
  /-- TRIG_OUT pulses running and to come: start and end, earliest first. (R119) -/
  trigOut : Tbl (List (Tm × Tm))
  /-- Accepts received: time, class, arrival. (R120) -/
  seen : List (Stamp × Nat × Tm)
  /-- Outstanding accepts in key order. (R123) -/
  accs : List Acc
  /-- Accepts that wait for a deck session, oldest first. (R127) -/
  deckWait : List Extract
  /-- The extraction in progress. (R123) -/
  run : Option Extract
  /-- Deck-served accepts in a session, with its number. (R127) -/
  deckAccs : List (Extract × Nat)
  /-- Events and loss records the Seam has not taken, oldest first. (R128) -/
  buf : List Rec
  /-- Event-buffer bytes reserved or held. (R128) -/
  used : Nat
  /-- Bytes the Seam has taken and not yet freed. (R128) -/
  taken : Nat
  deriving DecidableEq, Repr

/-- `TrgSt` at reset. -/
def TrgSt.reset : TrgSt where
  win := []
  fired := []
  seq := 0
  prims := []
  root := []
  acceptId := 0
  lastIn := []
  trigOut := []
  seen := []
  accs := []
  deckWait := []
  run := none
  deckAccs := []
  buf := []
  used := 0
  taken := 0

/-- The closed-loop control engine (R134 to R151). -/
structure LoopSt where
  /-- Per tile. (R134) -/
  tile : Tbl LoopTile
  /-- Start of the present period. (R134) -/
  start : Option Tm
  /-- The period in force, µs. (R134) -/
  period : Nat
  /-- The outputs of the present period have been applied. (R135) -/
  applied : Bool
  /-- End of the engine's latest computation. (R135) -/
  freeAt : Tm
  deriving DecidableEq, Repr

/-- `LoopSt` at reset. -/
def LoopSt.reset : LoopSt where
  tile := []
  start := none
  period := 100
  applied := true
  freeAt := 0

/-- The rewind deck (R152 to R177). -/
structure DeckSt where
  /-- Blocks emitted and not yet written, with their channel. (R157) -/
  blocks : List (Nat × Blk)
  /-- Snippets read and not yet written. (R153) -/
  snips : List Rec
  /-- Snippets to be read: channel, leading edge, settings. (R153, R154) -/
  want : List (Nat × Stamp × Nat)
  /-- Records in the data ring, oldest first, by deck offset. (R157) -/
  data : List DRec
  /-- DECK_WOFF. (R157) -/
  woff : Nat
  /-- Write point W. (R157) -/
  wpoint : Stamp
  /-- Directory, oldest first; the last is the span being written. (R158) -/
  dir : List Dir
  /-- Span boundaries the writer has not reached, with the length code of the span that starts; 8 where the writer stops there. (R155) -/
  bounds : List (Stamp × Nat)
  /-- Contexts with queued requests, in order of placement. (R168) -/
  placed : List Nat
  /-- The next marker carries FIRST. (R155) -/
  first : Bool
  /-- Intervals that end at or before this are discarded. (R156) -/
  floor : Option Stamp
  /-- The writer runs. (R155) -/
  running : Bool
  /-- The writer has stopped, and the newest directory entry's span has ended. (R155, R177) -/
  idle : Bool
  /-- Source 161 raised in this span. (R165) -/
  thinTold : Bool
  /-- The next record written carries LOSS. (R165) -/
  mark : Bool
  /-- Sessions: 0–63 contexts and mailboxes, 64–127 extractor. (R168) -/
  sess : Tbl (Option Sess)
  /-- Holds. (R173) -/
  hold : Tbl Hold
  /-- The end of each epoch, and the first core-clock edge of the next. (R171) -/
  epochEnds : List (Stamp × Stamp)
  /-- D. (R156) -/
  sized : Nat
  /-- Sessions placed. (R168) -/
  orders : Nat
  /-- The place in that order last served by the round robin. (R168) -/
  rr : Nat
  /-- Bytes written in the present second. (R177) -/
  second : Nat
  deriving DecidableEq, Repr

/-- `DeckSt` at reset. -/
def DeckSt.reset : DeckSt where
  blocks := []
  snips := []
  want := []
  data := []
  woff := 0
  wpoint := ⟨0, 0⟩
  dir := []
  bounds := []
  placed := []
  first := true
  floor := none
  running := false
  idle := false
  thinTold := false
  mark := false
  sess := []
  hold := []
  epochEnds := []
  sized := 0
  orders := 0
  rr := 0
  second := 0

/-- The Seam and the Thimble (R178 to R200). -/
structure SeamSt where
  /-- Inputs. (R178) -/
  input : Tbl SeamQ
  /-- The Seam's own loss records, oldest first. (R191) -/
  loss : List Rec
  /-- The release point. (R185) -/
  rp : Stamp
  /-- The next record released carries LOSS. (R28) -/
  lossNext : Bool
  /-- The late stream not yet in the egress queue. (R189) -/
  late : List Rec
  /-- The next late record carries LOSS. (R28) -/
  lateNext : Bool
  /-- The main stream by port. (R182) -/
  up : Tbl UpPort
  /-- The up port until the present boundary. (R180, R182) -/
  upWas : Nat
  /-- Backpressure holds. (R195) -/
  pressed : Bool
  /-- The spill region is full. (R195) -/
  full : Bool
  /-- The pool has passed its watermark. (R193) -/
  wm : Bool
  /-- SPILL_CFG.SIZE_MIB in force. (R200) -/
  spillMib : Nat
  /-- Records discarded on entry to abutment mode. (R199) -/
  lost : Nat
  /-- The key time of the first of them. (R26, R199) -/
  lostFrom : Stamp
  /-- The time of the last. (R26, R199) -/
  lostTo : Tm
  deriving DecidableEq, Repr

/-- `SeamSt` at reset. -/
def SeamSt.reset : SeamSt where
  input := []
  loss := []
  rp := ⟨0, 0⟩
  lossNext := false
  late := []
  lateNext := false
  up := []
  upWas := 7
  pressed := false
  full := false
  wm := false
  spillMib := 4096
  lost := 0
  lostFrom := ⟨0, 0⟩
  lostTo := 0

/-- Readout contexts, the egress and monitoring queues, the schedulers (R201 to R226). -/
structure CtxBlk where
  /-- Contexts. (R201) -/
  c : Tbl CtxSt
  /-- The merged-stream egress queue, oldest first. (R204) -/
  egress : List QRec
  /-- Byte position after the last record written. (R204) -/
  egressEnd : Nat
  /-- Read position of the up port's transmitter. (R204) -/
  upPos : Nat
  /-- Since when the present holder holds the oldest byte of a full queue. (R204) -/
  holdFrom : Option Tm
  /-- That holder. (R204) -/
  holdBy : Option Nat
  /-- The monitoring queue, oldest first. (R205) -/
  mon : List QRec
  /-- Byte position after the last record written. (R205) -/
  monEnd : Nat
  /-- Units in flight by link, oldest first. (R219) -/
  flight : Tbl (List CtxUnit)
  /-- When a link may grant its next unit. (R219) -/
  grantFrom : Tbl Tm
  /-- Context last visited, by link × 4 + class. (R220) -/
  rr : Tbl Nat
  /-- Context last served by the floor, by link. (R221) -/
  floorRr : Tbl Nat
  /-- Inbound windows reserved. (R208) -/
  inboundUsed : Nat
  /-- Next sequence of each record type. (R14) -/
  seqs : Tbl Nat
  deriving DecidableEq, Repr

/-- `CtxBlk` at reset. -/
def CtxBlk.reset : CtxBlk where
  c := []
  egress := []
  egressEnd := 0
  upPos := 0
  holdFrom := none
  holdBy := none
  mon := []
  monEnd := 0
  flight := []
  grantFrom := []
  rr := []
  floorRr := []
  inboundUsed := 0
  seqs := []

/-- The fabric (R251 to R287). -/
structure FabSt where
  /-- Ports. (R251) -/
  port : Tbl FabPort
  /-- End of the claim window of this device's own claim. (R265) -/
  claimUntil : Option Tm
  /-- Lowest identity seen in a claim and when. (R265) -/
  low : Option (W64 × Tm)
  /-- Topology at the root, in reach order. (R268) -/
  nodes : List Node
  /-- Probes outstanding, by route. (R268) -/
  probes : List (List Nat)
  /-- Probes still to send. (R268) -/
  toProbe : List (List Nat)
  /-- Discovery is running. (R268) -/
  discovering : Bool
  /-- Installs sent and not acknowledged or not yet dated. (R270) -/
  installs : List (W64 × Install)
  /-- The route set last computed, by device. (R275) -/
  last : List (W64 × Install)
  /-- A further change waits for the boundary. (R285) -/
  again : Bool
  /-- The boundary of the route set in flight. (R270) -/
  named : Option Tm
  /-- Address plan. (R264) -/
  plan : List (W64 × Nat)
  /-- Plan entries of a plan being loaded. (R264) -/
  planNext : List (W64 × Nat)
  /-- This device's pending install. (R270) -/
  mine : Option Install
  /-- Highest accept_id by root, and the time of that accept. (R284) -/
  baseline : Tbl (Option (Nat × Tm))
  /-- A route set has taken effect. (R262) -/
  routed : Bool
  /-- Up port that is the clock parent. (R261) -/
  clock : Option Nat
  /-- Lane of that port the clock is recovered from. (R299) -/
  clockLane : Option Nat
  /-- Changes of that lane, each with a phase build-out. (R299) -/
  buildOuts : Nat
  deriving DecidableEq, Repr

/-- `FabSt` at reset. -/
def FabSt.reset : FabSt where
  port := []
  claimUntil := none
  low := none
  nodes := []
  probes := []
  toProbe := []
  discovering := false
  installs := []
  last := []
  again := false
  named := none
  plan := []
  planNext := []
  mine := none
  baseline := []
  routed := false
  clock := none
  clockLane := none
  buildOuts := 0

/-- The serial lanes (R288 to R305). -/
structure LaneBlk where
  /-- Lanes. (R293) -/
  lane : Tbl LaneSt
  /-- Ports. (R295) -/
  port : Tbl PortLane
  deriving DecidableEq, Repr

/-- `LaneBlk` at reset. -/
def LaneBlk.reset : LaneBlk where
  lane := []
  port := []

/-- The DDR5 controller (R335 to R356). -/
structure DdrBlk where
  /-- Channels. (R335) -/
  ch : Tbl DdrSt
  /-- Bytes of the firmware, press and context areas; cleared at start-up. (R341) -/
  mem : Tbl Byte
  /-- Accesses that read uncorrectable, by address of 64 B. (R350) -/
  bad : List Nat
  /-- Accesses read in the present pass. (R347) -/
  scrubbed : Nat
  /-- When the next access of the pass falls due. (R347) -/
  scrubDue : Tm
  /-- Service returns at the next boundary. (R352) -/
  back : Bool
  /-- Memory service has run. (R155) -/
  wasOn : Bool
  /-- Changes of DDR_MAP since start-up cleared the areas. (R341) -/
  remaps : Nat
  /-- Fences completed. (R351) -/
  fences : Nat
  deriving DecidableEq, Repr

/-- `DdrBlk` at reset. -/
def DdrBlk.reset : DdrBlk where
  ch := []
  mem := []
  bad := []
  scrubbed := 0
  scrubDue := 0
  back := false
  wasOn := false
  remaps := 0
  fences := 0

/-- The PCI Express block and BAR0 (R357 to R376). -/
structure HostSt where
  /-- ID_GRADE.GRADE, fused; DESIGN CHOICE 0 (log entry 3). (R361) -/
  grade : Nat
  /-- ID_PART.STEPPING, fused; DESIGN CHOICE 1 (log entry 3). (R361) -/
  stepping : Nat
  /-- ID_FW.SLOT. (R361) -/
  fwSlot : Nat
  /-- ID_FW.VERSION. (R361) -/
  fwVersion : Nat
  /-- HOST_LINK.GEN. (R361) -/
  gen : Nat
  /-- HOST_LINK.WIDTH. (R361) -/
  width : Nat
  /-- HOST_LINK.MPS. (R361) -/
  mps : Nat
  /-- HOST_LINK.LINK_RESETS. (R361) -/
  linkResets : Nat
  /-- HOST_ERR CPL_TIMEOUT, CPL_ERROR, POISONED. (R361) -/
  err : BitVec 3
  /-- HOST_ERR.COUNT. (R361) -/
  errCount : Nat
  /-- HOST_SNAP.MISS. (R361) -/
  snapMiss : BitVec 4
  /-- MB0 and MB1. (R362) -/
  mb : Tbl MbRegs
  /-- KS_MB4_CMD.OPCODE. (R363) -/
  ksOp : Nat
  /-- KS_MB4_CMD.SEQ. (R363) -/
  ksSeq : Nat
  /-- KS_MB4_ARG0. (R363) -/
  ksArg0 : Nat
  /-- KS_MB4_ARG1. (R363) -/
  ksArg1 : Nat
  /-- KS_MB4_GO. (R363) -/
  ksGo : Bool
  /-- KS_MB4_STATUS.STATUS. (R363) -/
  ksStatus : Nat
  /-- KS_MB4_STATUS.SEQ. (R363) -/
  ksDoneSeq : Nat
  /-- A command has completed since POR_N. (R394) -/
  ksDone : Bool
  /-- KS_MB4_RESULT. (R363) -/
  ksResult : Nat
  /-- Snapshot slots. (R364) -/
  snap : Tbl Snap
  /-- SNAP_DMA_WR. (R365) -/
  dmaWr : Nat
  /-- SNAP_DMA_RD. (R365) -/
  dmaRd : Nat
  /-- The link is up. (R375) -/
  linkUp : Bool
  /-- PERST_N is asserted. (R373) -/
  perst : Bool
  /-- Link training has started. (R375) -/
  training : Bool
  /-- The function is in D3hot. (R375) -/
  d3hot : Bool
  /-- Bus Master Enable; PRESUMED 0, PCI Express (log entry 3). (R375) -/
  busMaster : Bool
  /-- Subsystem Vendor ID. (R358) -/
  subVendor : Nat
  /-- Subsystem ID. (R358) -/
  subId : Nat
  /-- BAR0 base; PRESUMED 0, PCI Express (log entry 3). (R358) -/
  bar0 : Nat
  /-- BAR2 base; PRESUMED 0, PCI Express (log entry 3). (R358) -/
  bar2 : Nat
  deriving DecidableEq, Repr

/-- `HostSt` at reset. -/
def HostSt.reset : HostSt where
  grade := 0
  stepping := 1
  fwSlot := 0
  fwVersion := 0
  gen := 0
  width := 0
  mps := 0
  linkResets := 0
  err := 0
  errCount := 0
  snapMiss := 0
  mb := []
  ksOp := 0
  ksSeq := 0
  ksArg0 := 0
  ksArg1 := 0
  ksGo := false
  ksStatus := 0
  ksDoneSeq := 0
  ksDone := false
  ksResult := 0
  snap := []
  dmaWr := 0
  dmaRd := 0
  linkUp := false
  perst := true
  training := false
  d3hot := false
  busMaster := false
  subVendor := 0x1F5A
  subId := 0x5640
  bar0 := 0
  bar2 := 0

/-- The mailboxes as the firmware serves them (R377 to R405). -/
structure MboxSt where
  /-- Histories, newest first: mailbox for MB0, MB1, MB3, MB5; 8 + origin × 8 + origin mailbox for MB2. (R388) -/
  hist : Tbl (List Hist)
  /-- h, by the same keys. (R388) -/
  high : Tbl Nat
  /-- A state-changing command has been accepted on this key. (R388) -/
  seen : Tbl Bool
  /-- Commands that wait for their commit or run in the background, oldest first. (R387) -/
  wait : List Wait
  /-- Commands accepted and not yet executed. (R385) -/
  fetched : List (Who × Cmd)
  /-- Forwarded commands without a final reply. (R391) -/
  remote : List Remote
  /-- Releases the firmware owes. (R397) -/
  atNs : List AtNs
  /-- MB3's command buffer. (R392) -/
  cmdBuf : List Byte
  /-- The next append starts at header byte 0. (R392) -/
  cmdFresh : Bool
  /-- A started MB3 command that waits for a lease holder: its length. (R392, R378) -/
  start3 : Option Nat
  /-- A started MB5 command that waits for a lease holder. (R508, R378) -/
  start5 : Bool
  /-- Last completion entry of MB3. (R392) -/
  entry3 : List Byte
  /-- Response of MB3 not yet read. (R392) -/
  resp3 : List Byte
  /-- MB5's command buffer. (R508) -/
  jtagBuf : List Byte
  /-- MB5's completion entry and response. (R508) -/
  jtagOut : List Byte
  /-- MB5's response pointer. (R508) -/
  jtagPtr : Nat
  /-- The next answer of MB5 is lost to a TRST_N reset. (R518) -/
  jtagLost : Bool
  /-- MB5_CTRL.DONE. (R508) -/
  jtagDone : Bool
  /-- Last commit of the configuration store. (R32) -/
  saves : Option Tm
  /-- Units whose calibration visit was asked for. (R398) -/
  tdcAsk : List Nat
  /-- An armed inject: memory, word, flip. (R434) -/
  injected : Option (Nat × Nat × Nat)
  /-- Data and check bits of the test rows, by memory × 8 + word. (R432) -/
  testRow : Tbl (Nat × Nat)
  deriving DecidableEq, Repr

/-- `MboxSt` at reset. -/
def MboxSt.reset : MboxSt where
  hist := []
  high := []
  seen := []
  wait := []
  fetched := []
  remote := []
  atNs := []
  cmdBuf := []
  cmdFresh := true
  start3 := none
  start5 := false
  entry3 := []
  resp3 := []
  jtagBuf := []
  jtagOut := []
  jtagPtr := 0
  jtagLost := false
  jtagDone := false
  saves := none
  tdcAsk := []
  injected := none
  testRow := []

/-- The Keystone, the lease, the checkpoint and maintenance (R406 to R424). -/
structure CoreSt where
  /-- Keystone state: 0 START, 1 BOOT, 2 HELD, 3 REVOKING, 4 VACANT, 5 ABUTMENT. (R409) -/
  ks : Nat
  /-- KS_STATUS.HOLDER: 0 none, 1 Pier A, 2 Pier B. (R363) -/
  holder : Nat
  /-- The previous holder. (R409) -/
  last : Nat
  /-- The boundary before the lease last lapsed. (R17, R410) -/
  lapsed : Tm
  /-- KS_STATUS.STANDBY_SYNC. (R363) -/
  sync : Bool
  /-- KS_STATUS.GRANTS. (R363) -/
  grants : Nat
  /-- KS_DENIED. (R363) -/
  denied : Nat
  /-- Lease generation G. (R406) -/
  gen : Nat
  /-- When the lease counter was last reset. (R406) -/
  renewed : Tm
  /-- When BOOT began. (R409) -/
  bootAt : Tm
  /-- A lease that lapsed in a hold window is revoked then. (R410) -/
  revokeAt : Option Tm
  /-- Cause of abutment mode. (R419) -/
  cause : Nat
  /-- Pier A and Pier B. (R407) -/
  pier : Tbl PierSt
  /-- The mark that waits for its acknowledgement. (R411) -/
  mark : Option Tm
  /-- When it was written. (R411) -/
  markAt : Tm
  /-- Marks refused by CRC in a row. (R414) -/
  refused : Nat
  /-- Boundary of the last commit. (R411) -/
  committed : Tm
  /-- The last committed checkpoint. (R412) -/
  ckpt : Ckpt
  /-- The state at the boundary whose set is being committed. (R411) -/
  delta : Ckpt
  /-- A full copy is complete and waits for a commit. (R414) -/
  copied : Bool
  /-- The old holder of a FAILOVER is synchronised by the next commit. (R416) -/
  joined : Bool
  /-- The present set's mark is late. (R413) -/
  late : Bool
  /-- FAILOVER waits for its boundary's acknowledgement. (R416) -/
  handing : Bool
  /-- The boundary whose commit FAILOVER waits for. (R416) -/
  handAfter : Tm
  /-- Running slot: 0 none, 1 A, 2 B. (R394) -/
  booted : Nat
  /-- The last heartbeat-and-health record. (R419) -/
  lastBeat : Option Tm
  /-- An uncorrectable pier memory word with no synchronised standby. (R428) -/
  fwFault : Bool
  /-- Activities running, oldest first. (R420) -/
  run : List Act
  /-- Starts not delayed, which begin at the next boundary. (R420) -/
  soon : List Act
  /-- Activities deferred, oldest first. (R421) -/
  wait : List Act
  deriving DecidableEq, Repr

/-- `CoreSt` at reset. -/
def CoreSt.reset : CoreSt where
  ks := 1
  holder := 0
  last := 0
  lapsed := 0
  sync := false
  grants := 0
  denied := 0
  gen := 0
  renewed := 0
  bootAt := 0
  revokeAt := none
  cause := 0
  pier := []
  mark := none
  markAt := 0
  refused := 0
  committed := 0
  ckpt := Ckpt.reset
  delta := Ckpt.reset
  copied := false
  joined := false
  late := false
  handing := false
  handAfter := 0
  booted := 0
  lastBeat := none
  fwFault := false
  run := []
  soon := []
  wait := []

/-- On-chip memories and their scrubbers (R425 to R442). -/
structure MemSt where
  /-- Hour of the time base and corrected errors in it, by memory. (R427) -/
  ceHour : Tbl (Nat × Nat)
  /-- Hour + 1 in which source 232 was raised, by memory. (R427) -/
  ceTold : Tbl Nat
  /-- Words the SRAM scrubber has read in this pass. (R430) -/
  scrubAt : Nat
  /-- When the scrubber's next read falls due. (R430) -/
  scrubDue : Tm
  /-- Parameters whose staged word was found uncorrectable. (R428) -/
  badWords : List Nat
  /-- Errors that the records in the queue memories hold. (R428, R434) -/
  flaws : List Flaw
  deriving DecidableEq, Repr

/-- `MemSt` at reset. -/
def MemSt.reset : MemSt where
  ceHour := []
  ceTold := []
  scrubAt := 0
  scrubDue := 0
  badWords := []
  flaws := []

/-- The press engines (R227 to R250). -/
structure PressSt where
  /-- Mailbox jobs waiting, oldest first. (R248) -/
  queue : List Job
  /-- Mailbox job of each engine. (R248) -/
  run : Tbl (Option Job)
  /-- Context whose job runs on each engine. (R248) -/
  ctxRun : Tbl (Option Nat)
  /-- Instant at which each engine took its job. (R248) -/
  begun : Tbl Tm
  /-- The on-die press buffer; unwritten bytes read 0, DESIGN CHOICE (log entry 3). (R239) -/
  buf : Tbl Byte
  /-- Where the record parse of a stopped compress job stands, by its resume token. (R236, R243) -/
  parse : List (List Byte × TagSt)
  deriving DecidableEq, Repr

/-- `PressSt` at reset. -/
def PressSt.reset : PressSt where
  queue := []
  run := []
  ctxRun := []
  begun := []
  buf := []
  parse := []

/-- The MRAM store, identity, attestation and tokens (R459 to R478). -/
structure SecSt where
  /-- Firmware slots A and B. (R459) -/
  slot : Tbl Slot
  /-- Copies of the configuration store. (R461) -/
  store : Tbl Store
  /-- The copy last saved or loaded. (R461) -/
  lastCopy : Option Nat
  /-- Saves made. (R461) -/
  saves : Nat
  /-- DIRTY. (R472) -/
  dirty : Bool
  /-- HSS state ring: index and validity. (R474) -/
  hssRing : Tbl (Nat × Bool)
  /-- KEY_LOST. (R461) -/
  keyLost : Bool
  /-- Source 241 raised: 1 low, 2 exhausted. (R473) -/
  hssTold : Nat
  /-- Nonces by mailbox. (R475) -/
  nonce : Tbl (Option Nonce)
  /-- Reports left in the burst, scaled by one second. (R473) -/
  burst : Nat
  /-- When `burst` was last brought up to date. (R473) -/
  burstAt : Tm
  /-- A report has been signed. (R473) -/
  burstUsed : Bool
  /-- When the MRAM scrubber's next read falls due. (R461) -/
  scrubDue : Tm
  /-- Log records lost to uncorrectable words. (R461) -/
  mramBad : List Nat
  /-- Signature checks of the last verification, in order. (R463) -/
  asked : List SigAsk
  deriving DecidableEq, Repr

/-- `SecSt` at reset. -/
def SecSt.reset : SecSt where
  slot := []
  store := []
  lastCopy := none
  saves := 0
  dirty := false
  hssRing := []
  keyLost := false
  hssTold := 0
  nonce := []
  burst := 16
  burstAt := 0
  burstUsed := false
  scrubDue := 0
  mramBad := []
  asked := []

/-- Start-up, clocking, power, temperature and the test access port (R479 to R509). -/
structure PwrSt where
  /-- A whole-device reset is held. (R482) -/
  por : Bool
  /-- When it was asserted. (R482) -/
  porAt : Tm
  /-- Acquisition released. (R488) -/
  acq : Bool
  /-- The configuration store has been applied. (R488) -/
  cfgApplied : Bool
  /-- The boundary at which the loaded configuration applies. (R403, R488) -/
  cfgDue : Option Tm
  /-- Locks: auxiliary, core, DDR5 0, DDR5 1, PCI Express. (R485) -/
  pll : BitVec 5
  /-- Waiting for a reference of a known class. (R486) -/
  refWait : Bool
  /-- Readings of the tile sensors 0 to 15 and the Keystone sensor 16. (R491) -/
  sensors : Tbl Int
  /-- Held in reset by a thermal shutdown. (R493) -/
  shutdownHeld : Bool
  /-- Times of thermal shutdowns within the last hour. (R493) -/
  shutdowns : List Tm
  /-- Keystone time at the last release. (R493) -/
  uptimeBase : Tm
  /-- Held until POR_N after the third thermal shutdown. (R493) -/
  locked : Bool
  /-- The TAP instruction in force; IDCODE after the test-logic reset (IEEE 1149.1), PRESUMED (log entry 3). (R508) -/
  tap : Nat
  /-- Boundary-scan cells as last preloaded. (R508) -/
  cells : List Bool
  deriving DecidableEq, Repr

/-- `PwrSt` at reset. -/
def PwrSt.reset : PwrSt where
  por := false
  porAt := 0
  acq := false
  cfgApplied := false
  cfgDue := none
  pll := 0
  refWait := true
  sensors := []
  shutdownHeld := false
  shutdowns := []
  uptimeBase := 0
  locked := false
  tap := 0x01
  cells := []

/-- The machine's state. -/
structure State where
  /-- The time base, spans, swaps, timed outputs and scheduled actions. -/
  time : TimeSt
  /-- Event sources, the host's latch and MSI-X (R11, R21, R367, R368). -/
  ev : EvSt
  /-- The event recorder (R443 to R458). -/
  recd : RecSt
  /-- The front end (R34 to R62). -/
  afe : AfeSt
  /-- The digitiser (R63 to R85). -/
  dig : DigSt
  /-- Picosecond timing and the gauge (R86 to R106). -/
  tdc : TdcSt
  /-- Trigger, capture and event extraction (R107 to R133). -/
  trg : TrgSt
  /-- The closed-loop control engine (R134 to R151). -/
  loop : LoopSt
  /-- The rewind deck (R152 to R177). -/
  deck : DeckSt
  /-- The Seam and the Thimble (R178 to R200). -/
  seam : SeamSt
  /-- Readout contexts, the egress and monitoring queues, the schedulers (R201 to R226). -/
  ctx : CtxBlk
  /-- The fabric (R251 to R287). -/
  fab : FabSt
  /-- The serial lanes (R288 to R305). -/
  lane : LaneBlk
  /-- The DDR5 controller (R335 to R356). -/
  ddr : DdrBlk
  /-- The PCI Express block and BAR0 (R357 to R376). -/
  host : HostSt
  /-- The mailboxes as the firmware serves them (R377 to R405). -/
  mbox : MboxSt
  /-- The Keystone, the lease, the checkpoint and maintenance (R406 to R424). -/
  core : CoreSt
  /-- On-chip memories and their scrubbers (R425 to R442). -/
  mem : MemSt
  /-- The press engines (R227 to R250). -/
  press : PressSt
  /-- The MRAM store, identity, attestation and tokens (R459 to R478). -/
  sec : SecSt
  /-- Start-up, clocking, power, temperature and the test access port (R479 to R509). -/
  pwr : PwrSt
  /-- Firmware parameter words in force, by identifier (R7); an unlisted one reads its reset word. -/
  regs : Tbl W64
  /-- What the device has sent out of itself, newest first (the model's own field, log entry 5). -/
  out : List Out
  /-- The number of free values taken so far (the model's own field, log entry 2). -/
  free : Nat
  /-- The commands that wait, first in first out. -/
  pending : List Instr
  deriving DecidableEq, Repr

/-- The machine right after reset. -/
def State.reset : State where
  time := TimeSt.reset
  ev := EvSt.reset
  recd := RecSt.reset
  afe := AfeSt.reset
  dig := DigSt.reset
  tdc := TdcSt.reset
  trg := TrgSt.reset
  loop := LoopSt.reset
  deck := DeckSt.reset
  seam := SeamSt.reset
  ctx := CtxBlk.reset
  fab := FabSt.reset
  lane := LaneBlk.reset
  ddr := DdrBlk.reset
  host := HostSt.reset
  mbox := MboxSt.reset
  core := CoreSt.reset
  mem := MemSt.reset
  press := PressSt.reset
  sec := SecSt.reset
  pwr := PwrSt.reset
  regs := []
  out := []
  free := 0
  pending := []

end Sys2Proof.Machine
end

