-- ==== Sys2Proof/Machine/Ops.lean ====
section
/-! DEFINITION. The named operations over the state that every family uses: the time base, firmware parameters, the record
counters, the event sources with MSI-X, the recorder's staging, loss records and the monitoring queue. -/

namespace Sys2Proof.Machine

/-! ### Tables, emissions, free values -/

/-- Change the entry at key `i`; an unlisted key reads `d`. -/
def Tbl.mod {α : Type} [DecidableEq α] (d : α) (t : Tbl α) (i : Nat) (f : α → α) : Tbl α :=
  Tbl.set d t i (f (Tbl.get d t i))

/-- Note an emission (log entry 5). -/
def State.emit (s : State) (o : Out) : State := { s with out := o :: s.out }

/-- Drive a pin. -/
def State.drive (s : State) (p : Pin) (level : Bool) : State := s.emit (.pin p level)

/-- Advance the counter of free values (log entry 2). -/
def State.fresh (s : State) : State := { s with free := s.free + 1 }

/-! ### The time base -/

/-- Bring the time base and the uptime to the instant `t` (R306, R308); an instant already passed leaves them. -/
def State.clock (s : State) (t : Tm) : State :=
  { s with time := { s.time with now := max s.time.now t, up := s.time.up + (t - s.time.now) } }

/-- A command at the instant `t`: nothing happens while a whole-device reset is held (R483), else `f` acts at `t`. -/
def live (t : Tm) (s : State) (f : State → State) : Host.Outcome State Fault Refusal :=
  if s.pwr.por then .next s else .next (f (s.clock t))

/-- The present instant with its epoch. -/
def State.stamp (s : State) : Stamp := ⟨s.time.epoch, s.time.now⟩

/-! ### The continuous grid and the time base (R64, R69) -/

/-- The quotient of an integer by a positive number, rounded up. -/
def ceilInt (a b : Int) : Int := -((-a) / b)

/-- The place on today's time base of the start of a stretch that holds the sampling edge of a count (R64, R69). -/
def State.countPos (s : State) (count : Nat) : Int := (s.time.last : Int) - ((s.time.samples : Int) - count) * (scSt : Nat)

/-- The stamp, in its own stretch of the time base, of a place on today's time base (R69, R99). -/
def State.stampIn (s : State) (x : Int) : List (Stamp × Nat) → Stamp
  | [] => ⟨s.time.epoch, x.toNat⟩
  | [(b, c)] => ⟨b.epoch, ((b.tb : Int) + (x - s.countPos c)).toNat⟩
  | (b, c) :: r => if s.countPos c ≤ x then ⟨b.epoch, ((b.tb : Int) + (x - s.countPos c)).toNat⟩ else s.stampIn x r

/-- The stamp of a place on today's time base: before a forced step it is an instant of the time that was held then (R69, R99). -/
def State.stampAt (s : State) (x : Int) : Stamp := s.stampIn x s.time.anchors

/-- The stamp of an instant that lies `d` stitches before now (R89, R99). -/
def State.backStamp (s : State) (d : Int) : Stamp := s.stampAt ((s.time.now : Int) - d)

/-- Find a stamp in the stretches that the time base held (R122): its place on the count of sampling edges, in stitches. -/
def livedIn (at_ : Stamp) : List (Stamp × Nat) → Option Nat → Option Nat
  | [], _ => none
  | (b, c) :: r, lim =>
    if b.epoch = at_.epoch ∧ b.tb ≤ at_.tb then
      let v := c * scSt + (at_.tb - b.tb)
      match lim with
      | some l => if v < l * scSt then some v else none
      | none => some v
    else livedIn at_ r (some c)

/-- The place of a stamp on the count of sampling edges, in stitches; none where the time base never held it (R122). -/
def State.lived (s : State) (at_ : Stamp) : Option Nat := livedIn at_ s.time.anchors none

/-- The place of a stamp on today's time base; a stamp that the time base never held stands where its time says. -/
def State.place (s : State) (at_ : Stamp) : Int :=
  match s.lived at_ with
  | some v => s.countPos 0 + v
  | none => at_.tb

/-- The start of the stretch that the time base has held since its last step. -/
def State.stretchFrom (s : State) : Tm := match s.time.anchors.head? with | some a => a.1.tb | none => 0

/-- Find the end of an interval in the stretches that the time base held: its place on the count of sampling edges, in stitches; a
forced step that passes it ends it. -/
def endedIn (at_ : Stamp) : List (Stamp × Nat) → Option Nat → Option Nat
  | [], _ => none
  | (b, c) :: r, lim =>
    if b.epoch = at_.epoch ∧ b.tb < at_.tb then
      some (match lim with | some l => min (c * scSt + (at_.tb - b.tb)) (l * scSt) | none => c * scSt + (at_.tb - b.tb))
    else endedIn at_ r (some c)

/-- The place of an interval's end on today's time base (R99, R157). -/
def State.endPlace (s : State) (at_ : Stamp) : Int :=
  match endedIn at_ s.time.anchors none with
  | some v => s.countPos 0 + v
  | none => at_.tb

/-! ### Firmware parameters -/

/-- The reset word of entry `e` of HK_SEQ (R81): input, AVG_LOG2 − 1, shift and offset. -/
def hkSeqReset (e : Nat) : Nat :=
  if e < 3 then 16 + e + 7 * 32 + 8 * 256 + 6 * e * 4096
  else if e < 19 then (e - 3) + 7 * 32 + 8 * 256 + (18 + 56 * (e - 3)) * 4096
  else if e < 22 then e + 7 * 32 + 8 * 256 + (900 + 6 * (e - 19)) * 4096
  else if e = 22 then 22 + 6 * 32 + 7 * 256 + 918 * 4096
  else 31

/-- The identifier of index `i`, word `w` of a parameter (R7). -/
def Fld.id (f : Fld) (i w : Nat) : Nat := f.pid + w + i % 4096 * 4096

/-- The reset word of an identifier whose parameter's map gives `word`: HK_SEQ follows R81, index 0 of SEAM_IN_CFG is
enabled (R200), index 7 of REC_SRC_MASK is all ones (R458). -/
def resetWord (id word : Nat) : W64 :=
  let base := id / 16777216 * 16777216 + id % 4096
  let inst := id / 4096 % 4096
  if 0x02000140 ≤ base ∧ base < 0x02000160 then BitVec.ofNat 64 (hkSeqReset (base - 0x02000140))
  else if base = 0x07000001 ∧ inst = 0 then BitVec.ofNat 64 (word + (1 - word % 2))
  else if base = 0x11000001 ∧ inst = 7 then 0xFFFFFFFF
  else BitVec.ofNat 64 word

/-- The word in force of the parameter of field `f`, index `i`, word `w`. -/
def Regs.word (r : Tbl W64) (f : Fld) (i : Nat) (w : Nat := 0) : W64 :=
  Tbl.get (resetWord (f.id i w) f.word) r (f.id i w)

/-- The value of a field within a word. -/
def Fld.of (f : Fld) (v : W64) : Nat := v.toNat / 2 ^ f.lo % 2 ^ f.width

/-- A word with the field `f` set to `v`. -/
def Fld.put (f : Fld) (w : W64) (v : Nat) : W64 :=
  BitVec.ofNat 64 (w.toNat - f.of w * 2 ^ f.lo + v % 2 ^ f.width * 2 ^ f.lo)

/-- A field's value in force. -/
def Regs.get (r : Tbl W64) (f : Fld) (i : Nat) (w : Nat := 0) : Nat := f.of (Regs.word r f i w)

/-- Set a whole word in force. -/
def Regs.setWord (r : Tbl W64) (f : Fld) (i : Nat) (v : W64) (w : Nat := 0) : Tbl W64 :=
  Tbl.set (resetWord (f.id i w) f.word) r (f.id i w) v

/-- Set a field in force. -/
def Regs.set (r : Tbl W64) (f : Fld) (i v : Nat) (w : Nat := 0) : Tbl W64 :=
  Regs.setWord r f i (f.put (Regs.word r f i w) v) w

/-- A field's value in force. -/
def State.get (s : State) (f : Fld) (i : Nat) (w : Nat := 0) : Nat := Regs.get s.regs f i w

/-- A one-bit field in force. -/
def State.flag (s : State) (f : Fld) (i : Nat) (w : Nat := 0) : Bool := s.get f i w != 0

/-- A signed field in force. -/
def State.int (s : State) (f : Fld) (i : Nat) (w : Nat := 0) : Int := sext f.width (s.get f i w)

/-- Set a field in force, as the hardware does. -/
def State.put (s : State) (f : Fld) (i v : Nat) (w : Nat := 0) : State := { s with regs := Regs.set s.regs f i v w }

/-- Set a whole word in force, as the hardware does. -/
def State.putWord (s : State) (f : Fld) (i : Nat) (v : W64) : State := { s with regs := Regs.setWord s.regs f i v }

/-- Set a one-bit field. -/
def State.putB (s : State) (f : Fld) (i : Nat) (b : Bool) (w : Nat := 0) : State := s.put f i (b2n b) w

/-- Add to a counter field, saturating at its width. -/
def State.bump (s : State) (f : Fld) (i : Nat) (n : Nat := 1) : State := s.put f i (satTo f.width (s.get f i + n))

/-- The pending value of an identifier, the newest write (R324). -/
def State.pendWord (s : State) (id : Nat) : Option W64 :=
  ((s.time.pend ++ s.time.staged).find? fun p => p.id == id).map (·.val)

/-! ### The lease and abutment mode -/

/-- Abutment mode (R418). -/
def State.abut (s : State) : Bool := s.core.ks == 5

/-- A pier holds the lease (R23). -/
def State.leased (s : State) : Bool := s.core.holder != 0

/-- Local acquisition runs: released (R488) and not in abutment mode (R418). -/
def State.acquiring (s : State) : Bool := s.pwr.acq && !s.abut

/-! ### Records -/

/-- The fabric address records carry as origin (R14, R263). -/
def State.origin (s : State) : Nat := s.get P.FAB_ADDR_ADDR 0

/-- The UNCOMP flag of records the device stamps while a time jump stands refused (R316). -/
def State.uncomp (s : State) : Nat := if s.flag P.TIME_STATUS_TIME_JUMP_REFUSED 0 then 4 else 0

/-- The next sequence of a record type (R14). -/
def State.seqOf (s : State) (type : Nat) : Nat := Tbl.get 0 s.ctx.seqs type

/-- Take the next sequence of a record type (R14). -/
def State.takeSeq (s : State) (type : Nat) : State :=
  { s with ctx := { s.ctx with seqs := Tbl.set 0 s.ctx.seqs type ((s.seqOf type + 1) % 2 ^ 32) } }

/-- A record of the device at the given stamp; its sequence is the next of its type (R14). -/
def State.mkRec (s : State) (type flags : Nat) (at_ : Stamp) (body : List Byte) : Rec :=
  ⟨type, flags ||| s.uncomp, s.origin, at_.epoch, at_.tb, s.seqOf type, pad8 body⟩

/-- The body of a loss record (R26). -/
def lossBody (cause unit count firstNs lastNs : Nat) : List Byte :=
  [BitVec.ofNat 8 cause, 0] ++ le 2 unit ++ le 4 (satTo 32 count) ++ le 8 firstNs ++ le 8 lastNs

/-- A loss record at a key (R26). -/
def State.lossRec (s : State) (cause unit count : Nat) (key : Stamp) (firstTb lastTb : Tm) : Rec :=
  s.mkRec 0x06 0 key (lossBody cause unit count (tbNs firstTb) (tbNs lastTb))

/-! ### Event sources -/

/-- The MSI-X vector source `n` signals (R368). -/
def EvSt.vector (e : EvSt) (n : Nat) : Nat := if e.shared.getLsbD (n / 32) then 32 * (n / 32) else n

/-- A message falls due on a vector: it is sent, or held in the pending bit array (R368; D3hot stops messages, R375). -/
def State.msixDue (s : State) (v : Nat) : State :=
  if s.ev.msixEnable && !s.ev.funcMask && !s.ev.vecMask.getLsbD v && !s.host.d3hot then s.emit (.msix v)
  else { s with ev := { s.ev with pba := s.ev.pba ||| srcBit v } }

/-- Send the held messages whose mask has lifted, from vector `v` up, `n` of them (R368). -/
def State.msixFlush (s : State) (v : Nat) : Nat → State
  | 0 => s
  | n + 1 =>
    let s' := if s.ev.pba.getLsbD v && s.ev.msixEnable && !s.ev.funcMask && !s.ev.vecMask.getLsbD v && !s.host.d3hot
      then ({ s with ev := { s.ev with pba := s.ev.pba &&& ~~~ srcBit v } }).emit (.msix v) else s
    s'.msixFlush (v + 1) n

/-- Set a source in the host latch alone; a message falls due when the bit rises unmasked (R367, R368). -/
def State.latchHost (s : State) (n : Nat) : State :=
  let s1 := { s with ev := { s.ev with host := s.ev.host ||| srcBit n } }
  if !s.ev.host.getLsbD n && !s.ev.mask.getLsbD n then s1.msixDue (s.ev.vector n) else s1

/-- Latch a source in the host, firmware and recorder latches and count the raise (R21, R365, R367). -/
def State.latch (s : State) (n : Nat) : State :=
  ({ s with ev := { s.ev with raises := s.ev.raises + 1, fw := s.ev.fw ||| srcBit n, recd := s.ev.recd ||| srcBit n } }).latchHost n

/-! ### The recorder's staging -/

/-- The length of a log record in 8-byte units (R443). -/
def LogRec.len (r : LogRec) : Nat := (32 + r.detail.length + 7) / 8

/-- Bytes of a list of log records. -/
def logBytes : List LogRec → Nat
  | [] => 0
  | r :: rs => 8 * r.len + logBytes rs

/-- A bucket brought up to date (R447): level in tokens × secSt. -/
def Bucket.refill (b : Bucket) (now perS burst : Nat) : Bucket :=
  { b with used := true, seen := now,
           level := if b.used then min (burst * secSt) (b.level + (now - b.seen) * perS) else burst * secSt }

/-- Set the bucket of a code (R447). -/
def State.setBucket (s : State) (code : Nat) (b : Bucket) : State :=
  { s with recd := { s.recd with buckets := Tbl.set Bucket.reset s.recd.buckets code b } }

/-- The bucket of a code, brought up to date (R447). -/
def State.bucketOf (s : State) (code : Nat) : Bucket :=
  (Tbl.get Bucket.reset s.recd.buckets code).refill s.time.now (s.get P.REC_RATE_PER_S 0) (s.get P.REC_RATE_BURST 0)

/-- The open record that a repeat of code and severity joins (R446). -/
def State.openRepeat (s : State) (code severity : Nat) : Option LogRec :=
  s.recd.staging.getLast?.filter fun l => s.recd.opened && l.code == code && l.severity == severity && decide (l.rep < 65535)
    && decide ((s.time.now : Int) < s.place l.first + (s.get P.REC_CFG_REPEAT_MS 0 * msSt : Nat))

/-- A repeat joins the open record (R446). -/
def State.occurRepeat (s : State) (l : LogRec) : State :=
  { s with recd := { s.recd with
      staging := s.recd.staging.dropLast ++ [{ l with rep := l.rep + 1, lastTb := s.time.now }],
      opened := decide (l.rep + 1 < 65535) } }

/-- The record an occurrence would open (R443, R446). -/
def State.newRecord (s : State) (code severity : Nat) (detail : List Byte) : LogRec :=
  ⟨code, severity, 0, (Regs.word s.regs P.REC_NEXT_INDEX_INDEX 0).toNat, s.stamp, s.time.now, (s.bucketOf code).dropped, detail⟩

/-- Where records written one after another end, from a byte position on; no record straddles a segment of 64 KiB (R449). -/
def logEnd (pos : Nat) : List LogRec → Nat
  | [] => pos
  | r :: rs => logEnd ((if 65536 < pos % 65536 + 8 * r.len then (pos / 65536 + 1) * 65536 else pos) + 8 * r.len) rs

/-- Staging, or for a record of severity 7 the three audit segments, have no room for a record (R444, R449, R451). -/
def State.noRoom (s : State) (l : LogRec) : Bool :=
  decide (16384 < logBytes s.recd.staging + 8 * l.len) || (l.severity == 7 && l.code != 0x1101 &&
    decide (3 * 65536 < logEnd 0 (s.recd.audit ++ s.recd.staging.filter (·.severity == 7) ++ [l])))

/-- The occurrence is dropped: the open record closes and the code's bucket counts it, less the tokens it took (R447, R448). -/
def State.occurDrop (s : State) (code tokens : Nat) : State :=
  ({ s with recd := { s.recd with opened := false } }).setBucket code
    { s.bucketOf code with
      level := (s.bucketOf code).level - tokens * secSt, dropped := satTo 16 ((s.bucketOf code).dropped + 1) }

/-- The drop of an occurrence by the limit of rate: source 235 at most once a second (R447, R448). -/
def State.occurRate (s : State) (code : Nat) : State × List Nat :=
  let s1 := (s.occurDrop code 0).bump P.REC_STATUS_DROPPED_RATE 0
  if s.recd.lastRateTb.all fun t => decide (t + secSt ≤ s.time.now) then
    ({ s1 with recd := { s1.recd with lastRateTb := some s.time.now } }, [235])
  else (s1, [])

/-- A new record opens in staging and takes the next index (R443, R446). -/
def State.occurOpen (s : State) (code severity : Nat) (detail : List Byte) : State :=
  let l := s.newRecord code severity detail
  let s1 := s.setBucket code { s.bucketOf code with level := (s.bucketOf code).level - secSt, dropped := 0 }
  ({ s1 with recd := { s1.recd with staging := s.recd.staging ++ [l], opened := true } }).put P.REC_NEXT_INDEX_INDEX 0 (l.index + 1)

/-- An occurrence enters staging (R444, R446 to R448, R451). Answers the state and the sources it raises. -/
def State.occur (s : State) (code severity : Nat) (detail : List Byte) : State × List Nat :=
  if severity < s.get P.REC_CFG_SEV_MIN 0 then (s, []) else
  match s.openRepeat code severity with
  | some l => (s.occurRepeat l, [])
  | none =>
    if (s.bucketOf code).level < secSt then s.occurRate code
    else if s.noRoom (s.newRecord code severity detail) then ((s.occurDrop code 1).bump P.REC_STATUS_DROPPED_SPACE 0, [234])
    else (s.occurOpen code severity detail, [])

/-- Raises of source `n` are logged (R445). -/
def State.logged (s : State) (n : Nat) : Bool := (s.get P.REC_SRC_MASK_MASK (n / 32)).testBit (n % 32)

/-- The severity of a source-raise record (R445). -/
def srcSeverity (n : Nat) : Nat := if 224 ≤ n then 4 else 2

/-- The sources the recorder raises for its own drops; each such raise is logged once and raises no further one
(log entry 6). -/
def State.recRaises (s : State) : List Nat → State
  | [] => s
  | n :: ns =>
    let s1 := s.latch n
    (if s1.logged n then (s1.occur (0xFF00 + n) (srcSeverity n) []).1 else s1).recRaises ns

/-- Raise event source `n` (R21, R367, R368, R445). -/
def State.raise (s : State) (n : Nat) : State :=
  let s1 := s.latch n
  if s1.logged n then
    let p := s1.occur (0xFF00 + n) (srcSeverity n) []
    p.1.recRaises p.2
  else s1

/-- The Keystone discards a write that comes without the lease: it counts it and raises source 225 (R23). -/
def State.deny (s : State) : State :=
  ({ s with core := { s.core with denied := satTo 32 (s.core.denied + 1) } }).raise 225

/-- A firmware record: only the lease holder's write port takes it (R23, R457). -/
def State.log (s : State) (code severity : Nat) (detail : List Byte) : State :=
  if s.leased then
    let p := s.occur code severity detail
    p.1.recRaises p.2
  else s.deny

/-- Raise a source when a condition holds. -/
def State.raiseIf (s : State) (b : Bool) (n : Nat) : State := if b then s.raise n else s

/-! ### The monitoring queue -/

/-- The bit of CTX_SRC.MON for a record type (R202). -/
def monBit (type : Nat) : Option Nat :=
  if type = 0x07 then some 0 else if type = 0x08 then some 1 else if type = 0x09 then some 2
  else if type = 0x0C then some 3 else if type = 0x0D then some 4 else none

/-- A context's monitoring source selects a record type (R202). -/
def State.monWants (s : State) (c type : Nat) : Bool :=
  match monBit type with
  | none => false
  | some b => (s.get P.CTX_SRC_MON c).testBit b

/-- One source of a context. -/
def CtxSt.source (x : CtxSt) (i : Nat) : CtxSrc := Tbl.get CtxSrc.reset x.src i

/-- Change one source of a context. -/
def CtxSt.modSource (x : CtxSt) (i : Nat) (f : CtxSrc → CtxSrc) : CtxSt :=
  { x with src := Tbl.mod CtxSrc.reset x.src i f }

/-- Context `c`. -/
def State.ctxOf (s : State) (c : Nat) : CtxSt := Tbl.get CtxSt.reset s.ctx.c c

/-- Change context `c`. -/
def State.modCtx (s : State) (c : Nat) (f : CtxSt → CtxSt) : State :=
  { s with ctx := { s.ctx with c := Tbl.mod CtxSt.reset s.ctx.c c f } }

/-- A source reset of a context (R204, R205): one loss record of cause 0x0A for the records skipped, LOSS on the next
record, RESETS, source 202. -/
def State.ctxSkip (s : State) (c src : Nat) (skipped : List Rec) (pos : Nat) : State :=
  match skipped with
  | [] => s.modCtx c fun x => x.modSource src fun k => { k with pos := max k.pos pos }
  | r :: _ =>
    let lastTb := (skipped.getLast?.map (·.tb)).getD r.tb
    let l := s.lossRec 0x0A c skipped.length ⟨r.epoch, r.tb⟩ r.tb lastTb
    let s1 := (s.takeSeq 0x06).modCtx c fun x => x.modSource src fun k =>
      { k with pos := pos, loss := k.loss ++ [l], mark := true }
    (s1.bump P.CTX_STATUS_RESETS c).raise 202

/-- The 16-byte-free size in KiB, rounded up. -/
def kib (n : Nat) : Nat := (n + 1023) / 1024

/-- Reposition every context whose unread monitoring records were overwritten (R205). -/
def State.monReposition (s : State) (dropped : List QRec) (pos : Nat) : List (Nat × CtxSt) → State
  | [] => s
  | (c, x) :: rest =>
    let k := x.source 4
    let s1 := if k.on && decide (k.pos < pos) then
        let skipped := (dropped.filter fun q => decide (k.pos ≤ q.pos) && s.monWants c q.data.type).map (·.data)
        let s2 := s.ctxSkip c 4 skipped pos
        if skipped.isEmpty then s2 else s2.bump P.MON_STATUS_RESETS 0
      else s
    s1.monReposition dropped pos rest

/-- A record enters the monitoring queue (R205); its producer never waits. -/
def State.monPut (s0 : State) (r : Rec) : State :=
  let e' := s0.ctx.monEnd + r.bytes
  let keep := s0.ctx.mon.filter fun q => decide (e' ≤ q.pos + 262144)
  let dropped := s0.ctx.mon.filter fun q => !decide (e' ≤ q.pos + 262144)
  let q : QRec := ⟨s0.ctx.monEnd, r, false⟩
  let pos := match keep with | [] => s0.ctx.monEnd | k :: _ => k.pos
  let s1 := { s0 with ctx := { s0.ctx with mon := keep ++ [q], monEnd := e' } }
  let s2 := s1.put P.MON_STATUS_USED_KIB 0 (kib (e' - pos))
  if dropped.isEmpty then s2 else s2.monReposition dropped pos s2.ctx.c

/-- A record of this device enters the monitoring queue, with the next sequence of its type (R14, R205). -/
def State.monEmit (s : State) (r : Rec) : State := (s.takeSeq r.type).monPut r

end Sys2Proof.Machine
end

