-- ==== Sys2Proof/Machine/Maint.lean ====
section
/-! DEFINITION. Maintenance activities: the interlock matrix of R421 and the shared start and end of an activity (R420 to
R422, R492). -/

namespace Sys2Proof.Machine

/-- What the matrix decides of a start (R421). -/
inductive Judged where
  | run
  | suspend
  | defer
  | interlock
  | busy
  deriving DecidableEq, Repr

/-- The tile of an interpolator unit, or a number of its own for a gauge input or a port pair (footnote ᵇ of R421). -/
def tcalScope (unit : Nat) : Nat := if unit < 256 then unit / 16 else unit

/-- The cell of the matrix for one running activity (R421). -/
def maintCell (a : Act) (code unit : Nat) : Judged :=
  match a.code, code with
  | 0, 0 => if a.unit / 16 = unit / 16 then .defer else .run
  | 0, 1 => if a.unit / 16 = unit then .defer else .run
  | 1, 0 => if a.unit = unit / 16 then .interlock else .run
  | 1, 1 => if a.unit = unit then .busy else .run
  | 2, 2 => if tcalScope a.unit = tcalScope unit then .defer else .run
  | 2, 7 => if a.unit = 264 + unit / 4 then .defer else .run
  | 3, 3 => if a.unit = unit then .busy else .run
  | 3, 4 => if a.unit = unit then .suspend else .run
  | 4, 3 => if a.unit = unit then .defer else .run
  | 4, 4 => if a.unit = unit then .busy else .run
  | 5, 5 => .busy
  | 6, 6 => .busy
  | 7, 2 => if unit = 264 + a.unit / 4 then .defer else .run
  | 7, 7 => if a.unit = unit then .busy else if a.unit / 4 = unit / 4 then .defer else .run
  | _, _ => .run

/-- The stronger of two outcomes: B, then I, then D, then S. -/
def Judged.worse : Judged → Judged → Judged
  | .busy, _ => .busy
  | _, .busy => .busy
  | .interlock, _ => .interlock
  | _, .interlock => .interlock
  | .defer, _ => .defer
  | _, .defer => .defer
  | .suspend, _ => .suspend
  | _, .suspend => .suspend
  | .run, .run => .run

/-- The outcome of a start against everything that runs or begins at the next boundary (R421, R422); while throttled, starts other than the standby self-test
are deferred (R492). -/
def State.maintJudge (s : State) (code unit : Nat) : Judged :=
  let j := (s.core.run ++ s.core.soon).foldl (fun j a => j.worse (maintCell a code unit)) .run
  if s.flag P.THERM_STATUS_THROTTLED 0 && code != 6 then (if j = .busy then j else if j = .interlock then j else .defer) else j

/-- MAINT_STATUS.STATE of an activity from what runs and waits (R420). -/
def State.maintState (s : State) (code : Nat) : State :=
  s.put P.MAINT_STATUS_STATE code
    (if s.core.run.any (·.code == code) then 1 else if s.core.wait.any (·.code == code) then 2 else 0)

/-- An activity begins on a unit; under cell S the running scrub of that channel is suspended (R421). -/
def State.maintBegin (s : State) (code unit : Nat) (byHost : Bool) : State :=
  let run := s.core.run.map fun a => if maintCell a code unit = .suspend then { a with suspended := true } else a
  let other (a : Act) : Bool := !(a.code == code && a.unit == unit)
  ({ s with core := { s.core with
    run := run ++ [(⟨code, unit, byHost, s.time.now, false, 0⟩ : Act)],
    wait := s.core.wait.filter other, soon := s.core.soon.filter other } }).maintState code

/-- An activity ends; what it had suspended goes on (R421). -/
def State.maintEnd (s : State) (code unit : Nat) : State :=
  if s.core.run.any fun a => a.code == code && a.unit == unit then
    let run := s.core.run.filter fun a => !(a.code == code && a.unit == unit)
    let run := run.map fun a => if code = 4 ∧ a.code = 3 ∧ a.unit = unit then { a with suspended := false } else a
    (({ s with core := { s.core with run := run } }).maintState code).put P.MAINT_LAST_TIME_NS code (tbNs s.time.now)
  else s

/-- An activity is deferred (R421): DEFERS increments and source 230 is raised. -/
def State.maintDefer (s : State) (code unit : Nat) (byHost : Bool) : State :=
  let old := (s.core.wait.find? fun a => a.code == code && a.unit == unit).map (·.defers)
  let rest := s.core.wait.filter fun a => !(a.code == code && a.unit == unit)
  let wait := rest ++ [(⟨code, unit, byHost, s.time.now, false, old.getD 0 + 1⟩ : Act)]
  (((({ s with core := { s.core with wait := wait } }).maintState code).bump P.MAINT_STATUS_DEFERS code)).raise 230

/-- A start is refused with INTERLOCK (R421). -/
def State.maintRefuse (s : State) (code : Nat) : State := s.bump P.MAINT_STATUS_REFUSED code

/-- An activity runs on a unit. -/
def State.maintRuns (s : State) (code unit : Nat) : Bool := s.core.run.any fun a => a.code == code && a.unit == unit

end Sys2Proof.Machine
end

