-- ==== Sys2Proof/Machine/Tile.lean ====
section
/-! DEFINITION. Operations on a tile that several families share: trims and the settle window (R43, R148), blanking (R53 to
R55), the housekeeping converter (R79 to R83) and the over-light trip (R57 to R60). -/

namespace Sys2Proof.Machine

/-! ### Accessors -/

/-- Channel `c`'s front end. -/
def State.feCh (s : State) (c : Nat) : FeCh := Tbl.get FeCh.reset s.afe.ch c
/-- Change channel `c`'s front end. -/
def State.modFeCh (s : State) (c : Nat) (f : FeCh → FeCh) : State :=
  { s with afe := { s.afe with ch := Tbl.mod FeCh.reset s.afe.ch c f } }
/-- Tile `t`'s front end. -/
def State.fe (s : State) (t : Nat) : FeTile := Tbl.get FeTile.reset s.afe.tile t
/-- Change tile `t`'s front end. -/
def State.modFe (s : State) (t : Nat) (f : FeTile → FeTile) : State :=
  { s with afe := { s.afe with tile := Tbl.mod FeTile.reset s.afe.tile t f } }
/-- Tile `t`'s housekeeping converter. -/
def State.hk (s : State) (t : Nat) : HkTile := Tbl.get HkTile.reset s.dig.hk t
/-- Change tile `t`'s housekeeping converter. -/
def State.modHk (s : State) (t : Nat) (f : HkTile → HkTile) : State :=
  { s with dig := { s.dig with hk := Tbl.mod HkTile.reset s.dig.hk t f } }
/-- Tile `t`'s bias loop. -/
def State.lp (s : State) (t : Nat) : LoopTile := Tbl.get LoopTile.reset s.loop.tile t
/-- Change tile `t`'s bias loop. -/
def State.modLp (s : State) (t : Nat) (f : LoopTile → LoopTile) : State :=
  { s with loop := { s.loop with tile := Tbl.mod LoopTile.reset s.loop.tile t f } }

/-- The numbers 0 to n − 1. -/
def upTo (n : Nat) : List Nat := List.range n

/-- The 16 channels of tile `t` (R12). -/
def channelsOf (t : Nat) : List Nat := (upTo 16).map (16 * t + ·)

/-- Do something for each of a list of numbers. -/
def State.each (s : State) (l : List Nat) (f : State → Nat → State) : State := l.foldl f s

/-- The tile is tripped (R58). -/
def State.tripped (s : State) (t : Nat) : Bool := s.flag P.TRIP_STATUS_TRIPPED t

/-- A TAP instruction holds the balls away from function (R509). -/
def State.scanHold (s : State) : Bool := [0x00, 0x03, 0x04, 0x05, 0x06].contains s.pwr.tap

/-! ### The housekeeping converter -/

/-- The chop period: 32 housekeeping samples (R39, R54). -/
def chopLen : Nat := 32 * hkSt

/-- The first instant at or after `t` of a grid of step `len` through `from_`. -/
def gridNext (t from_ len : Nat) : Tm := let k := (t + len - from_ % len) % len; if k = 0 then t else t + len - k

/-- The first housekeeping sample edge at or after an instant (R78); the grid runs on through steps of the time base (R64). -/
def State.hkEdge (s : State) (t : Tm) : Tm := gridNext t s.dig.grid hkSt

/-- Samples of a conversion (R79, R80). -/
def Conv.samples (c : Conv) : Nat := if c.input = 22 then 2 * 2 ^ c.avg else 2 ^ c.avg

/-- The slow range a conversion of channel `c` uses (R39). -/
def State.slowRange (s : State) (c : Nat) : Nat :=
  if s.get P.SLOW_CFG_RANGE c = 0 then (s.feCh c).autoRange else s.get P.SLOW_CFG_RANGE c

/-- A sample at an instant carries the settle mark of the tile (R148). -/
def State.marked (s : State) (t : Nat) (at_ : Tm) : Bool := decide (at_ < (s.fe t).settleUntil)

/-- The end of the run of samples that a conversion is in, when nothing freezes it (R80). -/
def Conv.stop (c : Conv) : Tm := c.seg + (c.samples - c.taken) * hkSt

/-- Start a conversion: its first sample is the first edge at or after now and the previous conversion's end; samples of a
channel input taken in the settle window carry its mark (R148). In a tile that is blanked already a channel input waits
frozen, with no sample taken, as R54 lays down for a blank that begins: DESIGN CHOICE (log entry 84). -/
def State.hkStart (s : State) (t entry input avg shift : Nat) (loop : Option Tm) : State :=
  let first := s.hkEdge (max s.time.now (s.hk t).lastEnd)
  let slow := decide (input < 16)
  let blk := slow && (s.fe t).blanked
  let c : Conv := {
    entry := entry, input := input, avg := avg, shift := shift, first := first, seg := first, taken := 0,
    settle := slow && !blk && s.marked t first,
    frozen := blk, frozenAt := if blk then some first else none,
    range := if slow then s.slowRange (16 * t + input) else 0, hits := 0, loop := loop }
  s.modHk t fun h => { h with run := some c }

/-- HK_STATUS.URGENT_PENDING. -/
def State.hkPending (s : State) (t : Nat) : State := s.put P.HK_STATUS_URGENT_PENDING t (s.hk t).urgent.length

/-- The converter takes the next waiting urgent request when it is free (R79, R82). -/
def State.hkNext (s : State) (t : Nat) : State :=
  match (s.hk t).run, (s.hk t).urgent with
  | none, u :: us =>
    (((s.modHk t fun h => { h with urgent := us }).hkStart t 255 u.input u.avg u.shift u.loop)).hkPending t
  | _, _ => s

/-- How many loop requests remain in the tile's present pass after now (R137). -/
def State.loopRemaining (s : State) (t : Nat) : Nat :=
  match (s.hk t).passAt with
  | none => 0
  | some p =>
    if s.flag P.LOOP_CFG_ENABLE t then
      let e := p + (s.hk t).period * usSt
      (e - 1) / (s.loop.period * usSt) - s.time.now / (s.loop.period * usSt)
    else 0

/-- An urgent request (R82, R137); the loop's own is never refused. Answers the state and whether it was accepted. -/
def State.urgent (s : State) (t input avg shift : Nat) (loop : Option Tm) : State × Bool :=
  let refused := loop.isNone && decide (16 < (s.hk t).asked + 1 + s.loopRemaining t)
  if refused then (s.bump P.HK_STATUS_URGENT_REFUSED t, false)
  else
    let s1 := s.modHk t fun h => { h with urgent := h.urgent ++ [⟨input, avg, shift, loop⟩], asked := h.asked + 1 }
    (((s1.hkPending t).hkNext t), true)

/-! ### Trims and the settle window -/

/-- `n` changes of an applied trim code, the last at an instant: the settle window opens or extends, and a channel-current
conversion in progress restarts at the next sample, once for each (R148); changes that enter R43 in one core cycle are one
(R150). -/
def State.settleAt (s : State) (t : Nat) (at_ : Tm) (n : Nat) : State :=
  let s1 := s.modFe t fun f => { f with
    settleOpen := true, settleUntil := at_ + s.get P.SETTLE_US t * usSt, trimAt := some at_ }
  if (s.fe t).trimAt = some at_ then s1 else
  match (s1.hk t).run with
  | some c =>
    if c.input < 16 then
      let next := s.hkEdge (at_ + 1)
      (s1.modHk t fun h => { h with run := some { c with
        first := next, seg := if c.frozenAt.isSome then c.seg else next, taken := 0,
        settle := c.frozenAt.isNone && s1.marked t next, hits := 0 } }).bump P.SETTLE_CNT_RESTARTS t n
    else s1
  | none => s1

/-- A change of an applied trim code now (R148). -/
def State.settle (s : State) (t : Nat) : State := s.settleAt t s.time.now 1

/-- Steps that the trip ramp of a tile has taken by an instant: 256 codes a µs, until every code is 0 (R58). -/
def FeTile.rampSteps (f : FeTile) (at_ : Tm) : Nat :=
  match f.rampFrom with
  | some t0 => min (f.rampCodes.foldl max 0) (256 * (at_ - t0) / usSt)
  | none => 0

/-- The trip ramp is brought up to now: each step is a change of the trims (R58, R148). -/
def State.rampTo (s : State) (t : Nat) : State :=
  let f := s.fe t
  let n := f.rampSteps s.time.now
  match f.rampFrom with
  | some t0 =>
    if f.rampSeen < n then
      (s.modFe t fun f => { f with rampSeen := n }).settleAt t (t0 + ceilDiv (n * usSt) 256) (n - f.rampSeen)
    else s
  | none => s

/-- The trim sum of R43 before clamping. -/
def State.trimSum (s : State) (c : Nat) : Int := s.get P.TRIM_STATIC_STATIC c + (s.fe (c / 16)).common

/-- The code applied to a channel when no ramp overrides it (R43, R509). -/
def State.trimCode (s : State) (c : Nat) : Nat := if s.scanHold then 0 else (max 0 (min 4095 (s.trimSum c))).toNat

/-- The code of a channel now, the steps of a trip ramp included (R43, R58). -/
def State.trimNow (s : State) (c : Nat) : Nat :=
  match (s.fe (c / 16)).rampFrom with
  | some t0 => (s.fe (c / 16)).rampCodes.getD (c % 16) 0 - 256 * (s.time.now - t0) / usSt
  | none => s.get P.TRIM_NOW_CODE c

/-- Apply R43 to every channel of tile `t`; a changed code opens the settle window. -/
def State.applyTrims (s : State) (t : Nat) : State :=
  if (s.fe t).rampFrom.isSome then s else
  let changed := (channelsOf t).any fun c => s.trimCode c != s.get P.TRIM_NOW_CODE c
  let s1 := s.each (channelsOf t) fun s c =>
    (s.put P.TRIM_NOW_CODE c (s.trimCode c)).putB P.CH_STATUS_TRIM_CLAMPED c (s.trimSum c < 0 || 4095 < s.trimSum c)
  if changed then s1.settle t else s1

/-- The duty in whole units, rounded to the nearest. -/
def LoopTile.dutyOut (l : LoopTile) : Nat := min 65535 ((l.duty + 128) / 256)

/-- The tile's duty as HVSET drives it: 0 while tripped or disabled (R45, R58). -/
def State.hvOut (s : State) (t : Nat) : Nat :=
  if s.tripped t || !s.flag P.HVSET_CFG_ENABLE t then 0 else (s.lp t).dutyOut

/-- The pulse widths, in cc of a period of 4,096 cc, that a 16-bit duty gives in 16 periods: the four low bits are dithered over
them (R45). Which periods take the longer pulse is open: the first ones, DESIGN CHOICE (log entry 85). -/
def hvWidths (duty : Nat) : List Nat := (upTo 16).map fun k => duty / 16 + b2n (decide (k < duty % 16))

/-- HVSET drives another duty (R45). -/
def State.hvDrive (s : State) (before : Nat) (t : Tile) : State :=
  if before = s.hvOut t then s else s.emit (.hvset t (hvWidths (s.hvOut t)))

/-! ### Blanking -/

/-- Pin `p` is active in tile `t` (R53). -/
def State.pinActive (s : State) (p t : Nat) : Bool :=
  if p = 0 then s.flag P.BLANK_CFG0_ENABLE 0 && (s.afe.pin0 != s.flag P.BLANK_CFG0_POLARITY 0)
      && (s.get P.BLANK_CFG0_TILE_MASK 0).testBit t
  else s.flag P.BLANK_CFG1_ENABLE 0 && (s.afe.pin1 != s.flag P.BLANK_CFG1_POLARITY 0)
      && (s.get P.BLANK_CFG1_TILE_MASK 0).testBit t

/-- Pin `p` masks triggers (R55). -/
def State.pinMasks (s : State) (p : Nat) : Bool :=
  if p = 0 then s.flag P.BLANK_CFG0_TRIG_MASK 0 else s.flag P.BLANK_CFG1_TRIG_MASK 0

/-- The guard in stitches (R53). -/
def State.guardLen (s : State) : Nat := s.get P.BLANK_GUARD_GUARD 0 * hkSt

/-- Trigger masking by pin `p` begins or ends in tile `t` as its activity does; intervals that ended a second ago are
dropped (R55). -/
def State.maskEval (s : State) (p t : Nat) : State :=
  let on := (s.pinActive p t || s.scanHold) && (s.pinMasks p || s.scanHold)
  let ms := (s.fe t).masks.filter fun m => match m.2.2 with | some e => decide (s.time.now < e + secSt) | none => true
  let open_ := ms.any fun m => m.1 == p && m.2.2 == none
  let guard := if s.pinMasks p || s.scanHold then s.guardLen else 0
  let ms := if on && !open_ then ms ++ [(p, s.time.now, none)]
    else if !on && open_ then ms.map fun m =>
      if m.1 == p && m.2.2 == none then (p, m.2.1, some (s.time.now + guard)) else m
    else ms
  let ms := if on || guard != 0 then ms else ms.map fun m =>
    if m.1 == p then (m.1, m.2.1, m.2.2.map (min s.time.now)) else m
  s.modFe t fun f => { f with masks := ms }

/-- CH_STATUS.BLANKED of the tile's channels. -/
def State.showBlank (s : State) (t : Nat) : State :=
  s.each (channelsOf t) fun s c => s.putB P.CH_STATUS_BLANKED c (s.fe t).blanked

/-- Samples of the present run taken before an instant (R54). -/
def Conv.got (c : Conv) (at_ : Tm) : Nat := min (c.samples - c.taken) (if at_ ≤ c.seg then 0 else ceilDiv (at_ - c.seg) hkSt)

/-- Freeze a channel-current conversion in progress after its last unblanked sample (R54). -/
def State.freeze (s : State) (t : Nat) : State :=
  match (s.hk t).run with
  | some c =>
    let k := c.got s.time.now
    if c.input < 16 ∧ c.frozenAt = none ∧ c.taken + k < c.samples then
      s.modHk t fun h => { h with run := some { c with
        frozen := true, frozenAt := some s.time.now, seg := c.seg + k * hkSt, taken := c.taken + k,
        settle := c.settle && decide (0 < c.taken + k) } }
    else s
  | none => s

/-- The later of an optional end and an instant. -/
def laterOf (a : Option Tm) (b : Tm) : Tm := match a with | some x => max x b | none => b

/-- Judge the tile's blank from the present activity of every source (R53): while a pin is active it stands open; else it
ends one guard after the last end of activity. -/
def State.blankEval (s : State) (t : Nat) : State :=
  let s0 := (s.maskEval 0 t).maskEval 1 t
  let f := s0.fe t
  let pin := s0.pinActive 0 t || s0.pinActive 1 t || s0.scanHold
  let timed := (f.pulserUntil.any fun e => decide (s.time.now < e)) || (f.schedUntil.any fun e => decide (s.time.now < e))
  if pin then ((s0.modFe t fun f => { f with blanked := true, guardUntil := none }).showBlank t).freeze t
  else if timed then
    ((s0.modFe t fun f => { f with
        blanked := true, guardUntil := some (laterOf f.pulserUntil (laterOf f.schedUntil s.time.now) + s.guardLen) }).showBlank t).freeze t
  else if f.blanked && f.guardUntil.isNone then
    s0.modFe t fun f => { f with guardUntil := some (s.time.now + s.guardLen) }
  else s0

/-- Judge the blank of every tile. -/
def State.blankAll (s : State) : State := s.each (upTo 16) State.blankEval

/-! ### The over-light trip -/

/-- The limit the comparator applies (R57). -/
def State.tripLimit (s : State) (t : Nat) : Nat := min (s.get P.TRIP_LIMIT_LIMIT t) (s.get P.TRIP_FUSED_FUSED t)

/-- The comparator and the half-limit watch judge the tile's sum (R57, R59, R60). -/
def State.sumEval (s : State) (t : Nat) : State :=
  let lim := s.tripLimit t
  s.modFe t fun f => { f with
    filterFrom := if lim < f.sum then (match f.filterFrom with | some x => some x | none => some s.time.now) else none,
    halfFrom := if 2 * f.sum < lim then (match f.halfFrom with | some x => some x | none => some s.time.now) else none }

/-- Drop the pending values of one identifier. -/
def State.dropPend (s : State) (id : Nat) : State :=
  { s with time := { s.time with pend := s.time.pend.filter (·.id != id), staged := s.time.staged.filter (·.id != id) } }

/-- The period has no computation of the tile: no limit acts (R142, R145). -/
def State.loopClear (s : State) (t : Nat) : State :=
  ((s.putB P.LOOP_STATUS_SLEW_LIMITED t false).putB P.LOOP_STATUS_RANGE_LIMITED t false).modLp t
    fun l => { l with status := 0, nextU := none, nextM := none }

/-- The zero-bias output and TRIPPED state of the loop (R145, R147). -/
def State.loopTrip (s : State) (t : Nat) : State :=
  let s1 := ((s.put P.MAN_U_U t (unsgn 16 (-4096))).put P.HVSET_DUTY_DUTY t 0).put P.LOOP_MODE_MODE t 0
  let s2 := ((s1.dropPend (P.LOOP_MODE_MODE.id t 0)).loopClear t).putB P.LOOP_STATUS_MODE_NOW t false
  let s3 := (s2.putB P.LOOP_STATUS_TRIP_HELD t true).put P.LOOP_OUT_U t (unsgn 16 (-4096))
  (s3.put P.LOOP_OUT_DUTY t 0).modLp t fun l =>
    { l with u := -4096 * 256, integ := 0, duty := 0, m := [], k := 0, first := true }

/-- The impedance visit of a tripped tile is discarded (R61). -/
def State.visitDrop (s : State) (t : Nat) : State :=
  match (s.fe t).visit with
  | some i => (s.modFe t fun f => { f with visit := none }).maintEnd 0 (16 * t + i)
  | none => s

/-- The latch trips tile `t` (R58). -/
def State.trip (s : State) (t : Tile) : State :=
  let before := s.hvOut t
  let codes := (channelsOf t).map s.trimNow
  let s1 := ((s.putB P.TRIP_STATUS_TRIPPED t true).bump P.TRIP_STATUS_TRIP_COUNT t).modFe t fun f =>
    { f with rampFrom := some s.time.now, rampCodes := codes, rampSeen := 0, common := -4096, overlightN := false }
  let s2 := (s1.drive (.overlightN t) false).loopTrip t
  ((s2.hvDrive before t).visitDrop t).raise (97 + 2 * t)

/-- A trip may be cleared: the sum has stayed below half the limit for 100 ms, and a pier holds the lease (R59). -/
def State.tripClearable (s : State) (t : Nat) : Bool :=
  s.leased && (match (s.fe t).halfFrom with | some h => decide (h + 100 * msSt ≤ s.time.now) | none => false)

/-- The trip of tile `t` is cleared (R59, R145, R148). -/
def State.tripClear (s : State) (t : Tile) : State :=
  let s1 := (s.putB P.TRIP_STATUS_TRIPPED t false).putB P.LOOP_STATUS_TRIP_HELD t false
  ((s1.modFe t fun f => { f with overlightN := true }).drive (.overlightN t) true).applyTrims t

/-! ### The balls under a TAP instruction (R509) -/

/-- The TAP takes an instruction: where it takes the balls away from function or gives them back, blanks, trigger masking and
trims follow (R509). -/
def State.tapSet (s : State) (code : Nat) : State :=
  let s1 := { s with pwr := { s.pwr with tap := code } }
  if s1.scanHold = s.scanHold then s1 else s1.blankAll.each (upTo 16) State.applyTrims

end Sys2Proof.Machine
end

