-- ==== Sys2Proof/Machine/Afe.lean ====
section
/-! DEFINITION. The front end's commands (chapter 02): impedance visits, blanking, the over-light trip, settle windows and a
broken channel's return. -/

namespace Sys2Proof.Machine

/-! ### Settle window -/

/-- SETTLE_WINDOW_EXPIRE (R148): the window closes SETTLE µs after the latest change. -/
def execSettleWindowExpire (t : Tm) (tile : Tile) (s : State) : Host.Outcome State Fault Refusal :=
  live t s fun s =>
    if (s.fe tile).settleOpen && decide ((s.fe tile).settleUntil ≤ s.time.now)
    then s.modFe tile fun f => { f with settleOpen := false } else s

/-! ### Impedance check -/

/-- A slot of the impedance check: 62.5 ms, aligned to the second (R46). -/
def slotLen : Nat := secSt / 16

/-- The channel, within its tile, that a slot visits (R46): the head of the queue, or the slot's own channel in the first
second of a round. A queued channel takes the slot's place; the channel whose slot it was has no visit in that round: DESIGN
CHOICE (log entry 86). -/
def State.slotChannel (s : State) (t : Nat) : Option Nat :=
  match (s.fe t).queue with
  | i :: _ => some i
  | [] => if s.time.now / secSt % s.get P.IMP_CFG_INTERVAL t = 0
      then some (s.time.now % secSt / slotLen) else none

/-- IMPEDANCE_SLOT_START (R46, R49, R61, R421): the slot's visit starts unless the tile is tripped or the matrix decides
otherwise; a refused confirmation visit keeps its place for the next slot. -/
def execImpedanceSlotStart (t : Tm) (tile : Tile) (s : State) : Host.Outcome State Fault Refusal :=
  live t s fun s =>
    if s.time.now % slotLen == 0 && s.flag P.IMP_CFG_ENABLE tile && !s.tripped tile && s.leased && !s.abut then
      match s.slotChannel tile with
      | none => s
      | some i =>
        match s.maintJudge 0 (16 * tile + i) with
        | .run | .suspend =>
          (s.modFe tile fun f => { f with visit := some i, queue := f.queue.filter (· != i) }).maintBegin 0 (16 * tile + i) false
        | .defer => s.maintDefer 0 (16 * tile + i) false
        | .interlock => s.maintRefuse 0
        | .busy => s
    else s

/-- The squared magnitude of the current phasor. -/
def impMag2 (ire iim : Int) : Nat := (ire * ire + iim * iim).toNat

/-- R_s = Re(V / I) in 0.1 Ω for a current in pA and V = 2 mV (R47); none where the spec states no result. -/
def impRes (ire iim : Int) : Option Int :=
  if impMag2 ire iim = 0 then none else some (roundDiv (20000000000 * ire) (impMag2 ire iim))

/-- C = −1 / (ω Im(V / I)) in 0.1 pF with ω = 575,235 rad/s (R47); none where the quotient does not exist. -/
def impCap (ire iim : Int) : Option Int :=
  if iim = 0 then none else some (roundDiv (1000 * (ire * ire + iim * iim) * iim.sign) (115047 * iim.natAbs))

/-- The result of a visit where R47 gives one inside the field, else a free value (log entry 2). -/
def impField (o : Option Int) (f : Fld) (args : List Int) : Nat :=
  match o with
  | some v => if 0 ≤ v ∧ v.toNat < 2 ^ f.width then v.toNat else Config.unstated f.pid args % 2 ^ f.width
  | none => Config.unstated f.pid args % 2 ^ f.width

/-- The classification of a valid visit (R48). -/
inductive ImpClass where
  | open_
  | fault
  | normal
  deriving DecidableEq, Repr

/-- The first class of R48 that applies; `cap` and `res` are C and R_s as rounded to the units of IMP_C and IMP_RES: DESIGN CHOICE
(log entry 87). -/
def State.impClassify (s : State) (c : Nat) (cap res : Int) : ImpClass :=
  let ref := s.get P.IMP_REF_C_REF c
  let isOpen := if ref = 0 then decide (cap < 100) else decide (cap * 256 < (ref * s.get P.IMP_LIMITS_OPEN_FRAC c : Nat))
  if isOpen then .open_
  else if ((s.get P.IMP_LIMITS_RES_MAX c * 10 : Nat) : Int) < res then .fault else .normal

/-- Put a channel of tile `t` on the impedance queue in report order (R48, R50, R61). -/
def State.queueVisit (s : State) (t i : Nat) : State :=
  s.modFe t fun f => { f with queue := if f.queue.contains i then f.queue else f.queue ++ [i] }

/-- Act on a valid visit's class (R48, R51). -/
def State.impAct (s : State) (t i : Nat) (k : ImpClass) : State :=
  let c := 16 * t + i
  let src := 96 + 2 * t
  if s.flag P.CH_STATUS_BREAK_SUSPECT c then
    let s1 := s.putB P.CH_STATUS_BREAK_SUSPECT c false
    match k with
    | .open_ =>
      let s2 := s1.putB P.CH_STATUS_BROKEN c true
      let s3 := { s2 with afe := { s2.afe with leave := s2.afe.leave ++ [c], back := s2.afe.back.filter (· != c) } }
      (s3.raise src).log 0x0101 5 (le 2 c)
    | .fault => (s1.putB P.CH_STATUS_IMP_FAULT c true).raise src
    | .normal => s1.raise src
  else
    match k with
    | .open_ => ((s.putB P.CH_STATUS_BREAK_SUSPECT c true).raise src).queueVisit t i
    | .fault => (s.putB P.CH_STATUS_IMP_FAULT c true).raise src
    | .normal => s

/-- Two halves of integration differ by more than 25 % of the larger (R47; log entry 7). -/
def halvesDiffer (a b : Nat) : Bool := decide (max a b < 4 * (max a b - min a b))

/-- How long a visit takes: 4.000 ms of settling and 4,096 tone periods (R46). -/
def visitLen : Nat := 4 * msSt + 4096 * 32768 * ccSt

/-- IMPEDANCE_VISIT_RESULT (R47, R48, R51): the detector's result is ready 48.739 ms into the slot. -/
def execImpedanceVisitResult (t : Tm) (tile : Tile) (ire iim : Int) (half1 half2 : Nat) (s : State) :
    Host.Outcome State Fault Refusal :=
  live t s fun s =>
    match (s.fe tile).visit with
    | none => s
    | some i =>
      let c := 16 * tile.val + i
      let due := s.core.run.any fun a => a.code == 0 && a.unit == c && decide (a.since + visitLen ≤ s.time.now)
      if due then
        let s1 := (s.modFe tile fun f => { f with visit := none }).maintEnd 0 c
        if halvesDiffer half1 half2 then
          (s1.putB P.CH_STATUS_IMP_INVALID c true).modFe tile fun f => { f with queue := i :: f.queue.filter (· != i) }
        else
          let cap := impField (impCap ire iim) P.IMP_C_CAP [ire, iim]
          let res := impField (impRes ire iim) P.IMP_RES_RES [ire, iim]
          let s2 := ((s1.putB P.CH_STATUS_IMP_INVALID c false).put P.IMP_C_CAP c cap).put P.IMP_RES_RES c res
          s2.impAct tile i (s2.impClassify c ((impCap ire iim).getD cap) ((impRes ire iim).getD res))
      else s

/-- A write of 1 to CH_STATUS.BROKEN: the channel is restored at the next boundary (R51). -/
def State.channelRestore (s : State) (c : Nat) : State :=
  if s.flag P.CH_STATUS_BROKEN c then
    let s1 := s.putB P.CH_STATUS_BROKEN c false
    { s1 with afe := { s1.afe with leave := s1.afe.leave.filter (· != c), back := s1.afe.back ++ [c] } }
  else s

/-- CHANNEL_RESTORE (R51): the host writes 1 to CH_STATUS.BROKEN. -/
def execChannelRestore (t : Tm) (ch : Ch) (s : State) : Host.Outcome State Fault Refusal := live t s fun s => s.channelRestore ch

/-! ### Blanking -/

/-- The synchronised level of a BLANK pin. -/
def State.pinSet (s : State) (pin : Fin 2) (level : Bool) : State :=
  { s with afe := if pin = 0 then { s.afe with pin0 := level } else { s.afe with pin1 := level } }

/-- BLANK_PIN_EDGE (R53 to R55): the synchronised level of a BLANK pin changes. While a whole-device reset is held the ball's
level changes and nothing else. -/
def execBlankPinEdge (t : Tm) (pin : Fin 2) (level : Bool) (s : State) : Host.Outcome State Fault Refusal :=
  if s.pwr.por then .next (s.pinSet pin level) else .next ((s.clock t).pinSet pin level).blankAll

/-- The blank of a tile ended at an instant: a frozen conversion goes on at the first housekeeping sample from then on whose
chop phase follows that of its last sample, at most 31 samples later; one that has no sample yet takes its first there (R54). -/
def State.thaw (s : State) (t : Nat) (at_ : Tm) : State :=
  match (s.hk t).run with
  | some c =>
    if c.frozenAt.isSome then
      let seg := if c.taken = 0 then s.hkEdge (max at_ c.first) else gridNext (max at_ c.seg) c.seg chopLen
      s.modHk t fun h => { h with run := some { c with seg := seg, first := if c.taken = 0 then seg else c.first } }
    else s
  | none => s

/-- BLANK_GUARD_EXPIRE (R53): the guard ends and with it the blank. -/
def execBlankGuardExpire (t : Tm) (tile : Tile) (s : State) : Host.Outcome State Fault Refusal :=
  live t s fun s =>
    match (s.fe tile).guardUntil with
    | some g =>
      if g ≤ s.time.now then
        ((s.modFe tile fun f => { f with
          blanked := false, guardUntil := none, pulserUntil := none, schedUntil := none }).showBlank tile).thaw tile g
      else s
    | none => s

/-- CONVERSION_RESUME (R54, R148): once the blank has ended, the frozen conversion goes on at the sample that `State.thaw` found;
the settle mark is that of the samples taken. -/
def execConversionResume (t : Tm) (tile : Tile) (s : State) : Host.Outcome State Fault Refusal :=
  live t s fun s =>
    match (s.hk tile).run with
    | some c =>
      if !(s.fe tile).blanked && c.frozenAt.isSome && decide (c.seg ≤ s.time.now) then
        s.modHk tile fun h => { h with run := some { c with frozenAt := none, settle := c.settle || s.marked tile c.seg } }
      else s
    | none => s

/-- BLANK_MAX_ABANDON (R56): a conversion frozen for longer than BLANK_MAX is abandoned. -/
def execBlankMaxAbandon (t : Tm) (tile : Tile) (s : State) : Host.Outcome State Fault Refusal :=
  live t s fun s =>
    match (s.hk tile).run with
    | some c =>
      match c.frozenAt with
      | some f =>
        if f + s.get P.BLANK_GUARD_BLANK_MAX 0 * usSt < s.time.now then
          let s1 := s.modHk tile fun h => { h with run := none, lastEnd := s.time.now }
          ((s1.bump P.BLANK_INT_ABANDONED 0).raise (96 + 2 * tile)).hkNext tile
        else s
      | none => s
    | none => s

/-! ### Over-light trip -/

/-- TILE_CURRENT_CROSS (R57): the tile's current sum, in 10 µA, crosses the limit or half of it. -/
def execTileCurrentCross (t : Tm) (tile : Tile) (sum : Nat) (s : State) : Host.Outcome State Fault Refusal :=
  live t s fun s => (s.modFe tile fun f => { f with sum := sum }).sumEval tile

/-- The glitch filter's shortest run: 100 oscillator cycles at 120 MHz (R57, R58). -/
def glitchMin : Nat := 100 * secSt / 120000000

/-- GLITCH_FILTER_EXPIRE (R57, R58): a sum above the limit for 100 oscillator cycles trips the tile. -/
def execGlitchFilterExpire (t : Tm) (tile : Tile) (s : State) : Host.Outcome State Fault Refusal :=
  live t s fun s =>
    match (s.fe tile).filterFrom with
    | some f => if f + glitchMin ≤ s.time.now && !s.tripped tile then s.trip tile else s
    | none => s

/-- TRIP_RAMP_DONE (R58, R148): every trim has reached code 0. -/
def execTripRampDone (t : Tm) (tile : Tile) (s : State) : Host.Outcome State Fault Refusal :=
  live t s fun s0 =>
    let s := s0.rampTo tile
    if (s.fe tile).rampFrom.isSome && (channelsOf tile).all (fun c => s.trimNow c == 0) then
      let s1 := s.modFe tile fun f => { f with rampFrom := none, rampCodes := [] }
      s1.each (channelsOf tile) fun s c =>
        (s.put P.TRIM_NOW_CODE c 0).putB P.CH_STATUS_TRIM_CLAMPED c (s.trimSum c < 0)
    else s

/-- TRIP_CLEAR (R59): a write of 1 to TRIP_STATUS.TRIPPED; at any other time it is refused with DENIED and the trip
remains. -/
def execTripClear (t : Tm) (tile : Tile) (s : State) : Host.Outcome State Fault Refusal :=
  live t s fun s => if s.tripped tile && s.tripClearable tile then s.tripClear tile else s

/-- TRIP_LIMIT_WRITE (R60): above the fused limit it is refused with DENIED; else it takes effect in one step, and the
filter starts at once where the sum lies above the new limit. -/
def execTripLimitWrite (t : Tm) (tile : Tile) (limit : BitVec 16) (s : State) : Host.Outcome State Fault Refusal :=
  live t s fun s =>
    if s.get P.TRIP_FUSED_FUSED tile < limit.toNat then s
    else (s.put P.TRIP_LIMIT_LIMIT tile limit.toNat).sumEval tile

end Sys2Proof.Machine
end

