-- ==== Sys2Proof/Machine/DdrQueue.lean ====
section
/-! DEFINITION. The DDR5 channels' queues (R341 to R345, R349): the areas of the memory, entry by deficit round robin, reads first,
write drains, and refresh. -/

namespace Sys2Proof.Machine

/-- One mebibyte. -/
def mib : Nat := 1048576

/-- Size of the firmware area. -/
def State.fwSize (s : State) : Nat := s.get P.DDR_MAP_FW_MIB 0 * mib
/-- Size of the press area. -/
def State.pressSize (s : State) : Nat := s.get P.DDR_MAP_PRESS_MIB 0 * mib
/-- Size of the context area. -/
def State.ctxAreaSize (s : State) : Nat := s.get P.CTX_DDR_AREA_SIZE_MIB 0 * mib
/-- First address of the press area. -/
def State.pressBase (s : State) : Nat := s.fwSize
/-- First address of the context area. -/
def State.ctxBase (s : State) : Nat := s.pressBase + s.pressSize
/-- First address of the spill region. -/
def State.spillBase (s : State) : Nat := s.ctxBase + s.ctxAreaSize
/-- First address of the deck region. -/
def State.deckBase (s : State) : Nat := s.spillBase + s.seam.spillMib * mib

/-- Memory service is on (R352). -/
def State.ddrOn (s : State) : Bool := s.flag P.DDR_STATUS_ONLINE 0

/-- DDR5 channel `c`. -/
def State.dc (s : State) (c : Nat) : DdrSt := Tbl.get DdrSt.reset s.ddr.ch c
/-- Change DDR5 channel `c`. -/
def State.modDc (s : State) (c : Nat) (f : DdrSt → DdrSt) : State :=
  { s with ddr := { s.ddr with ch := Tbl.mod DdrSt.reset s.ddr.ch c f } }

/-- The state of a channel: 0 absent, 1 training, 2 in service, 3 out of service. -/
def State.dcState (s : State) (c : Nat) : Nat := s.get P.DDR_CH_STATUS_STATE c
/-- The channel of an address (R341). -/
def chOf (addr : Nat) : Nat := addr / 128 % 2
/-- The bank address of an address, the same in every bank group (R341). -/
def bankOf (addr : Nat) : Nat := addr / 2048 % 4

/-! ### Entry (R343, R345) -/

/-- A queue's accesses (R343). -/
def ddrDepth : Nat := 64

/-- The queue of an access has room; in panic no source but the deck writer enters the write queue (R343, R345). -/
def DdrSt.room (x : DdrSt) (panic : Bool) (a : DdrAcc) : Bool :=
  if a.write then decide (x.wq.length < ddrDepth) && (!panic || a.src == 0) else decide (x.rq.length < ddrDepth)

/-- An access leaves its source and enters its queue (R343). -/
def DdrSt.enter (x : DdrSt) (a : DdrAcc) : DdrSt :=
  let x := { x with wait := x.wait.erase a }
  if a.write then { x with wq := x.wq ++ [a] } else { x with rq := x.rq ++ [a] }

/-- The oldest access of a source that may enter. -/
def DdrSt.head (x : DdrSt) (panic : Bool) (src : Nat) : Option DdrAcc :=
  match x.wait.find? fun a => a.src == src with
  | some a => if x.room panic a then some a else none
  | none => none

/-- The weight of a source in accesses of 64 B (R343): 1 deck reader, 2 spill, 3 press, 4 context, 5 firmware, 6 scrubber; the
scrubber's share is that of the firmware (log entry 103). -/
def State.ddrWeight (s : State) (src : Nat) : Nat :=
  match src with
  | 1 => s.get P.DDR_ARB_DECK_READ 0
  | 2 => s.get P.DDR_ARB_SPILL 0
  | 3 => s.get P.DDR_ARB_PRESS 0
  | 4 => s.get P.DDR_ARB_CONTEXT 0
  | _ => 1

/-- The source whose turn it is in the round robin: the one in turn while it has a share left, else the next that may enter. -/
def DdrSt.source (x : DdrSt) (panic : Bool) : Option Nat :=
  let may (k : Nat) : Bool := (x.head panic k).isSome
  if x.left != 0 && may x.turn then some x.turn
  else ((upTo 6).map fun i => (x.turn + i) % 6 + 1).find? may

/-- One access enters a queue (R343): the deck writer's ahead of all, the others by deficit round robin, as many of them as
`quota` allows. -/
def DdrSt.enterOne (x : DdrSt) (panic : Bool) (quota : Nat) (weight : Nat → Nat) : Option DdrSt :=
  match x.head panic 0 with
  | some a => some (x.enter a)
  | none =>
    match if quota = 0 then none else x.source panic with
    | none => none
    | some k =>
      let left := if x.left != 0 && k == x.turn then x.left else weight k
      match x.head panic k with
      | some a => some { x.enter a with turn := k, left := left - 1 }
      | none => none

/-! ### Issue (R342, R344, R345) -/

/-- A bank is free: no refresh of it is in progress (R342, R344). -/
def DdrSt.free (x : DdrSt) (now : Tm) (a : DdrAcc) : Bool :=
  let b := Tbl.get (0, 0) x.busy (bankOf a.addr)
  !(decide (b.1 ≤ now) && decide (now < b.2))

/-- A write drain runs (R344, R345): from 48 accesses down to 16, and through panic. -/
def DdrSt.drains (x : DdrSt) (panic : Bool) : Bool :=
  panic || (if x.drain then decide (16 < x.wq.length) else decide (48 ≤ x.wq.length))

/-- One access issues (R344): reads first; writes while the read queue is empty and in a write drain; in each direction the
oldest whose bank is free. The retry buffer keeps the last 64 (R349). -/
def DdrSt.issue (x : DdrSt) (panic : Bool) (now : Tm) : Option DdrSt :=
  let drain := x.drains panic
  if drain || x.rq.isEmpty then
    (x.wq.find? (x.free now)).map fun a => { x with drain := drain, wq := x.wq.erase a, retry := (a :: x.retry).take ddrDepth }
  else
    (x.rq.find? (x.free now)).map fun a => { x with drain := drain, rq := x.rq.erase a, retry := (a :: x.retry).take ddrDepth }

/-- The accesses that wait of sources other than the deck writer. -/
def DdrSt.slow (x : DdrSt) : Nat := (x.wait.filter fun a => a.src != 0).length

/-- Accesses enter and issue until none can, at most `n` of them and at most `quota` from sources other than the deck writer. -/
def DdrSt.run (panic : Bool) (weight : Nat → Nat) (now : Tm) : Nat → Nat → DdrSt → DdrSt
  | 0, _, x => { x with drain := x.drains panic }
  | n + 1, quota, x =>
    match x.enterOne panic quota weight with
    | some y => DdrSt.run panic weight now n (quota - (x.slow - y.slow)) y
    | none =>
      match x.issue panic now with
      | some y => DdrSt.run panic weight now n quota y
      | none => { x with drain := x.drains panic }

/-- The sources other than the deck writer are limited to half of their scheduled accesses: the module is hot, or the device
throttles (R353, R492). -/
def State.ddrHalved (s : State) (c : Nat) : Bool := (s.dc c).halved || s.flag P.THERM_STATUS_THROTTLED 0

/-- A channel serves what waits (R343 to R345); while limited, every second access of the other sources waits on (log entry
103). -/
def State.ddrRun (s : State) (c : Nat) : State :=
  let x := s.dc c
  let turns := x.slow + x.half
  let go (quota : Nat) := DdrSt.run (s.flag P.DDR_CH_STATUS_PANIC c) s.ddrWeight s.time.now
    (2 * (x.wait.length + x.rq.length + x.wq.length)) quota
  if s.ddrHalved c then s.modDc c fun x => { go (turns / 2) x with half := turns % 2 } else s.modDc c (go x.slow)

/-- A source reads or writes a range: its 64 B accesses on both channels (R341, R343). Sources: 0 deck writer, 1 deck reader,
2 spill, 3 press, 4 context writer and region reader, 5 firmware, 6 scrubber. -/
def State.ddrUse (s : State) (src : Nat) (write : Bool) (addr len : Nat) : State :=
  if !s.ddrOn || len == 0 then s else
  let accs := (List.range ((addr + len - 1) / 64 - addr / 64 + 1)).map fun i => (⟨write, src, (addr / 64 + i) * 64⟩ : DdrAcc)
  s.each [0, 1] fun s c =>
    match accs.filter fun a => chOf a.addr == c with
    | [] => s
    | l => (s.modDc c fun x => { x with wait := x.wait ++ l }).ddrRun c

/-- The banks that one refresh interval blocks, and until when (R342): REFsb blocks a bank address at a time, REFab all. -/
def State.refreshBusy (s : State) (c : Nat) : Tbl (Tm × Tm) :=
  let dense := s.flag P.DDR_CH_STATUS_DENSITY c
  let now := s.time.now
  if s.get P.DDR_CFG_REF_MODE 0 = 1 then
    let d : Nat := (if dense then 410 else 295) * nsSt
    (upTo 4).map fun b => (b, (now, now + d))
  else
    let d : Nat := (if dense then 190 else 130) * nsSt
    (upTo 4).map fun b => (b, (now + (b * d : Nat), now + ((b + 1) * d : Nat)))

/-- One refresh interval is paid (R342): 0 a REFsb set, 1 REFab. -/
def State.refresh (s : State) (c : Nat) : State :=
  (s.modDc c fun x => { x with busy := s.refreshBusy c }).emit (.ddr c (s.get P.DDR_CFG_REF_MODE 0))

/-- tREFI (R338, R342): 3.9 µs, or 1.95 µs while MR4 reports a high temperature. -/
def State.refi (s : State) (c : Nat) : Nat := (if s.flag P.DDR_CH_STATUS_HOT c then 1950 else 3900) * nsSt

/-- The next refresh interval of a channel falls due tREFI after this one. -/
def State.refreshNext (s : State) (c : Nat) : State :=
  s.modDc c fun x => { x with refAt := (if x.refAt = 0 then s.time.now else x.refAt) + s.refi c }

/-- A channel's queues are emptied with its service (R352). -/
def State.ddrDrop (s : State) : State :=
  s.each [0, 1] fun s c => s.modDc c fun x => { x with wait := [], rq := [], wq := [], drain := false, retry := [], busy := [], refAt := 0 }

end Sys2Proof.Machine
end

