-- ==== Sys2Proof/Machine/Samples.lean ====
section
/-! DEFINITION. Sampling edges and samples: sample numbers, phases and pin times (R64, R68, R69, R89), the range decision and the
correction of a conversion (R65 to R67), the ring (R68). -/

namespace Sys2Proof.Machine

/-! ### Sampling edges (R64, R68, R89) -/

/-- The grid place of sampling edge N, without the tile's phase. -/
def State.edgeOf (s : State) (n : Int) : Int := (s.time.last : Int) + (n - s.time.samples) * (scSt : Nat)

/-- A sampling edge lies before the latest span boundary, whose swaps do not reach it. -/
def State.edgeOld (s : State) (n : Int) : Bool := decide (n < s.time.samples)

/-- The parameters in force at sampling edge N. -/
def State.regsAt (s : State) (n : Int) : Tbl W64 := if s.edgeOld n then s.dig.was else s.regs

/-- A phase after `k` sample clocks of a slide from `p` to `q`, one unit a sample clock (R64). The first sampling edge after the
boundary still has phase `p`: DESIGN CHOICE (log entry 81). -/
def slide (p q : Nat) (k : Nat) : Nat := if p ≤ q then min (p + k) q else max (p - k) q

/-- TILE_PHASE in force at sampling edge N (R64). -/
def State.phaseAt (s : State) (t : Nat) (n : Int) : Nat :=
  let p := Regs.get s.dig.was P.TILE_PHASE_PHASE t
  if s.edgeOld n then p else slide p (s.get P.TILE_PHASE_PHASE t) (n - s.time.samples).toNat

/-- SAMPLE_FUSED.FUSED + SAMPLE_USER.USER of a tile (R89). -/
def State.sampleOffset (s : State) (t : Nat) : Int := s.int P.SAMPLE_FUSED_FUSED t + s.int P.SAMPLE_USER_USER t

/-- The sample offset in force at sampling edge N (R89). -/
def State.offsetAt (s : State) (t : Nat) (n : Int) : Int :=
  s.int P.SAMPLE_FUSED_FUSED t + sext P.SAMPLE_USER_USER.width (Regs.get (s.regsAt n) P.SAMPLE_USER_USER t)

/-- The place of sampling edge N of a tile (R64). -/
def State.edgeAt (s : State) (t : Nat) (n : Int) : Int := s.edgeOf n + 32 * s.phaseAt t n

/-- The place of the pin time of sample N of a tile (R89). -/
def State.pinAt (s : State) (t : Nat) (n : Int) : Int := s.edgeAt t n - s.offsetAt t n

/-- The lowest sample number whose edge lies before the latest boundary and at or after a place `y`, under phase `p`. -/
def State.oldNo (s : State) (y : Int) (p : Nat) : Int := s.time.samples + ceilInt (y - 32 * p - s.time.last) (scSt : Nat)

/-- The lowest sample number at or after the latest boundary whose edge lies at or after a place `y`, the phase sliding from `p`
to `q` (R64). -/
def State.newNo (s : State) (y : Int) (p q : Nat) : Int :=
  let d : Nat := if p ≤ q then q - p else p - q
  let step : Int := if p ≤ q then 2048 + 32 else 2048 - 32
  let x := y - s.time.last
  let k1 := if d = 0 then 0 else ceilInt (x - 32 * p) step
  let k := if k1 < d then k1 else max (d : Int) (ceilInt (x - 32 * q) 2048)
  s.time.samples + max 0 (if d = 0 then ceilInt (x - 32 * q) 2048 else k)

/-- The lowest sample number of a tile whose pin time lies at or after a place (R89, R122). -/
def State.firstPin (s : State) (t : Nat) (x : Int) : Int :=
  let p := Regs.get s.dig.was P.TILE_PHASE_PHASE t
  let old := s.oldNo (x + s.offsetAt t ((s.time.samples : Int) - 1)) p
  if old < s.time.samples then old else s.newNo (x + s.sampleOffset t) p (s.get P.TILE_PHASE_PHASE t)

/-- The lowest sample number of a tile whose sampling edge lies at or after a place (R98, R107). -/
def State.firstEdge (s : State) (t : Nat) (x : Int) : Int :=
  let p := Regs.get s.dig.was P.TILE_PHASE_PHASE t
  let old := s.oldNo x p
  if old < s.time.samples then old else s.newNo x p (s.get P.TILE_PHASE_PHASE t)

/-- When a sample is readable after its sampling edge: 14 sc (R63, R67). -/
def readLen : Nat := 14 * scSt

/-- Sample N of a tile is readable now (R67, R68). -/
def State.readable (s : State) (t : Nat) (n : Int) : Bool := decide (s.edgeAt t n + (readLen : Nat) ≤ s.time.now)

/-! ### Range and correction (R65 to R67) -/

/-- The correction of R66 without the baseline: the offset, in 1/16 code, is subtracted and the gain, in 2^-16, applied; rounded
to the nearest code, DESIGN CHOICE (log entry 82). -/
def correct (offset gain raw : Int) : Int := roundDiv ((16 * raw - offset) * (65536 + gain)) (16 * 65536)

/-- A code held in 12 bits. -/
def clamp12 (v : Int) : BitVec 12 := BitVec.ofNat 12 (max 0 (min 4095 v)).toNat

/-- Tile `t`'s rotation sequencer. -/
def State.rot (s : State) (t : Nat) : RotTile := Tbl.get RotTile.reset s.dig.rot t
/-- Change tile `t`'s rotation sequencer. -/
def State.modRot (s : State) (t : Nat) (f : RotTile → RotTile) : State :=
  { s with dig := { s.dig with rot := Tbl.mod RotTile.reset s.dig.rot t f } }

/-- The spare serves channel `c` at sampling edge N (R73). -/
def State.onSpare (s : State) (c : Nat) (n : Int) : Bool := Regs.get (s.regsAt n) P.SLICE_STATUS_SOURCE c != 0

/-- The range-0 coefficients, offset and gain, of the slice that serves channel `c` at sampling edge N (R66, R73). -/
def State.highCoef (s : State) (c : Nat) (n : Int) : Int × Int :=
  if s.onSpare c n then ((s.rot (c / 16)).spareOff, (s.rot (c / 16)).spareGain)
  else (s.int P.SLICE_CORR_OFFSET c, s.int P.SLICE_CORR_GAIN c)

/-- The range-1 coefficients of that slice (R66, R71). -/
def State.lowCoef (s : State) (c : Nat) (n : Int) : Int × Int :=
  Tbl.get (0, 0) (s.rot (c / 16)).lows (if s.onSpare c n then 16 else c % 16)

/-- The range-0 code that the slice of channel `c` makes of a conversion, unclamped: the baseline included (R66). -/
def State.highCode (s : State) (c : Nat) (n : Int) (x : Lvl) : Int :=
  correct (s.highCoef c n).1 (s.highCoef c n).2 x.high + Regs.get (s.regsAt n) P.BASELINE_BASELINE 0

/-- The comparator's decision at sampling edge N: range 1 at or above corrected code 3,840 (R65), never under RANGE_LOCK (R35). -/
def State.rangeAt (s : State) (c : Nat) (n : Int) (x : Lvl) : Bool :=
  Regs.get (s.regsAt n) P.FAST_CFG_RANGE_LOCK c == 0 && decide (3840 ≤ s.highCode c n x)

/-- Sample N of channel `c` as stored (R65 to R68): a disabled channel stores range 0 at BASELINE. -/
def State.sampleOf (s : State) (c : Nat) (n : Int) (x : Lvl) : Samp :=
  if Regs.get (s.regsAt n) P.FAST_CFG_ENABLE c = 0 then
    ⟨false, BitVec.ofNat 12 (Regs.get (s.regsAt n) P.BASELINE_BASELINE 0), x.ce, x.ue⟩
  else if s.rangeAt c n x then ⟨true, clamp12 (correct (s.lowCoef c n).1 (s.lowCoef c n).2 x.low), x.ce, x.ue⟩
  else ⟨false, clamp12 (s.highCode c n x), x.ce, x.ue⟩

/-- The amplitude of sample N above the baseline, in high-gain code units (R66). -/
def State.amp (s : State) (n : Int) (x : Samp) : Int :=
  if x.range then 16 * x.code.toNat else x.code.toNat - Regs.get (s.regsAt n) P.BASELINE_BASELINE 0

/-- Sample N is saturated (R98). -/
def State.satSample (s : State) (c : Nat) (n : Int) (x : Samp) : Bool :=
  x.code == 4095 && (x.range || Regs.get (s.regsAt n) P.FAST_CFG_RANGE_LOCK c != 0)

/-! ### The ring (R68, R70) -/

/-- Sample N of channel `c` where a reader has called for it before. -/
def State.ringAt (s : State) (c : Nat) (n : Int) : Option Samp :=
  match Tbl.get none (Tbl.get [] s.dig.ring c) (n.toNat % 8192) with
  | some (m, x) => if m = n.toNat then some x else none
  | none => none

/-- What a read delivers of sample N (R68, R70): what earlier readers found, and a word with an uncorrectable error as read. -/
def State.ringGive (s : State) (c : Nat) (n : Int) (x : Lvl) : Samp :=
  match s.ringAt c n with
  | some y => if x.ue then s.sampleOf c n x else { y with ce := x.ce, ue := false }
  | none => s.sampleOf c n x

/-- Sample N is held as it was first read (R68). -/
def State.ringKeep (s : State) (c : Nat) (n : Int) (x : Lvl) : State :=
  if x.ue || (s.ringAt c n).isSome then s else
  let row := Tbl.get [] s.dig.ring c
  let y : Samp := { s.sampleOf c n x with ce := false, ue := false }
  { s with dig := { s.dig with ring := Tbl.set [] s.dig.ring c (Tbl.set none row (n.toNat % 8192) (some (n.toNat, y))) } }

/-- The samples of channel `c` from number `n` on, as a read delivers them. -/
def State.samplesFrom (s : State) (c : Nat) (n : Int) (l : List Lvl) : List Samp :=
  (l.zipIdx 0).map fun x => s.ringGive c (n + x.2) x.1

/-- Those samples stay in the ring. -/
def State.ringNote (s : State) (c : Nat) (n : Int) : List Lvl → State
  | [] => s
  | x :: xs => (s.ringKeep c n x).ringNote c (n + 1) xs

/-- The amplitudes of samples from number `n` on. -/
def State.amps (s : State) (n : Int) (l : List Samp) : List Int := (l.zipIdx 0).map fun x => s.amp (n + x.2) x.1

/-- One of the samples from number `n` on is saturated. -/
def State.anySat (s : State) (c : Nat) (n : Int) (l : List Samp) : Bool := (l.zipIdx 0).any fun x => s.satSample c (n + x.2) x.1

/-- Bits [51:0] of a ring word: four samples of 13 bits (R67, R68). -/
def ringData (l : List Samp) : Nat :=
  (l.take 4).zipIdx 0 |>.foldl (fun a x => a + (x.1.code.toNat + 4096 * b2n x.1.range) * 2 ^ (13 * x.2)) 0

/-- Word (N div 4) mod 2,048 of channel `c`'s ring, for a word whose four samples are held: the samples, and the SEC-DED code over
them in bits [58:52], a code that the spec does not give (R68; log entry 83). -/
def State.ringWord (s : State) (c : Nat) (n : Nat) : Option (BitVec 59) :=
  match (upTo 4).mapM fun j => s.ringAt c (n / 4 * 4 + j : Nat) with
  | some l => some (BitVec.ofNat 59 (ringData l + (Config.ringCheck (ringData l)).toNat * 2 ^ 52))
  | none => none

/-- Words of a read, of four samples each, in which `f` holds of a sample; sample numbers start at `n` (R68, R70). -/
def badWords (f : Lvl → Bool) (n : Int) (l : List Lvl) : Nat :=
  ((l.zipIdx 0).filterMap fun p => if f p.1 then some ((n + p.2) / 4) else none).eraseDups.length

/-- One read of the ring by any reader (R70): each corrected word counts in CE, each uncorrectable one in UE with source 159. -/
def State.ringRead (s : State) (c : Nat) (n : Int) (l : List Lvl) : State :=
  let t := c / 16
  let ue := badWords (·.ue) n l
  let s1 := ((s.ringNote c n l).bump P.RING_ERR_CE t (badWords (fun x => x.ce && !x.ue) n l)).bump P.RING_ERR_UE t ue
  s1.each (upTo ue) fun s _ => s.raise 159

end Sys2Proof.Machine
end

