-- ==== Sys2Proof/Machine/Dig.lean ====
section
/-! DEFINITION. The digitiser's commands (chapter 03): housekeeping passes and conversions, urgent requests, and the
spare-slice rotation. -/

namespace Sys2Proof.Machine

/-! ### Housekeeping sequencer -/

/-- Entry `e` of the adopted sequence. -/
def HkTile.entryWord (h : HkTile) (e : Nat) : W64 := h.seq.getD e 31

/-- Entry `e` is enabled (R81: input field 31 is empty). -/
def HkTile.enabled (h : HkTile) (e : Nat) : Bool := decide (P.HK_SEQ_INPUT.of (h.entryWord e) < 24)

/-- The first enabled entry from `e` on, `n` entries looked at. -/
def HkTile.nextEnabled (h : HkTile) (e : Nat) : Nat → Nat
  | 0 => 32
  | n + 1 => if h.enabled e then e else h.nextEnabled (e + 1) n

/-- The start of the pass that an instant lies in, for a period in µs: a multiple of the period after its second (R79). -/
def passStart (t : Tm) (period : Nat) : Tm := t / secSt * secSt + t % secSt / (period * usSt) * (period * usSt)

/-- HK_PASS_START (R79, R80): entries that could not start are skipped and counted; the sequencer adopts the sequence and
period in force. -/
def execHkPassStart (t : Tm) (tile : Tile) (s : State) : Host.Outcome State Fault Refusal :=
  live t s fun s =>
    let h := s.hk tile
    let period := if h.passAt.isNone then s.get P.HK_PASS_PERIOD_US tile else h.period
    let p := passStart s.time.now period
    if h.passAt = some p || decide (p < s.stretchFrom) || s.abut then s else
    let left := (upTo 32).filter fun e => decide (h.entry ≤ e) && h.enabled e
    let skipped := if h.passAt.isNone then 0 else left.length
    let seq := (upTo 32).map fun e => Regs.word s.regs P.HK_SEQ_INPUT tile e
    (s.bump P.HK_STATUS_SKIPPED tile skipped).modHk tile fun h =>
      { h with seq := seq, period := s.get P.HK_PASS_PERIOD_US tile, passAt := some p, entry := 0, asked := 0 }

/-- HK_ENTRY_START (R79): the next enabled entry starts once its offset is reached, the converter is free and no urgent
request waits. -/
def execHkEntryStart (t : Tm) (tile : Tile) (s : State) : Host.Outcome State Fault Refusal :=
  live t s fun s0 =>
    let s := s0.rampTo tile
    let h := s.hk tile
    match h.passAt with
    | none => s
    | some p =>
      let e := h.nextEnabled h.entry 32
      if e < 32 && h.run.isNone && h.urgent.isEmpty then
        let w := h.entryWord e
        let due := p + P.HK_SEQ_OFFSET_US.of w * usSt
        let next := passStart (max p (s.stretchFrom - 1)) h.period + h.period * usSt
        let first := s.hkEdge (max (max due s.time.now) h.lastEnd)
        if next ≤ first then
          (s.bump P.HK_STATUS_SKIPPED tile).modHk tile fun h => { h with entry := e + 1 }
        else if due ≤ s.time.now then
          (s.modHk tile fun h => { h with entry := e + 1 }).hkStart tile e (P.HK_SEQ_INPUT.of w) (P.HK_SEQ_AVG.of w + 1)
            (P.HK_SEQ_SHIFT.of w) none
        else s
      else s

/-- HK_URGENT_REQUEST (R82, R137): accepted into the queue, or refused with BUSY and counted. On input 22 an average above
2^7 is refused (R80). -/
def execHkUrgentRequest (t : Tm) (tile : Tile) (input : Fin 24) (avg : Fin 8) (shift : Fin 9) (s : State) :
    Host.Outcome State Fault Refusal :=
  live t s fun s =>
    if input.val = 22 ∧ avg.val = 7 ∨ s.abut = true then s else ((s.rampTo tile).urgent tile input (avg + 1) shift none).1

/-- Full scale of a slow range in pA (R39). -/
def slowFull (range : Nat) : Nat := if range = 1 then 2000000 else if range = 2 then 64000000 else 2048000000

/-- A channel-current result in pA, rounded to the nearest (R41; log entry 8): the result stands in units of full scale /
65,536 at shift = AVG_LOG2. -/
def slowPa (range avg shift result : Nat) : Nat :=
  (2 * (result * 2 ^ shift * slowFull range) + 2 ^ avg * 65536) / (2 * (2 ^ avg * 65536))

/-- The range the automatic mode takes next (R39): up above 90 % of full scale, down below 2.5 %. -/
def nextRange (range avg shift result : Nat) : Nat :=
  let v := result * 2 ^ shift
  let full := 2 ^ avg * 65536
  if full * 90 < v * 100 then min 3 (range + 1)
  else if v * 1000 < full * 25 then max 1 (range - 1) else range

/-- CHOP_INC of a conversion (R40): 2 to 16 samples of a chopped channel current. -/
def State.chopInc (s : State) (t : Nat) (c : Conv) : Bool :=
  decide (c.input < 16) && s.flag P.SLOW_CFG_CHOP_EN (16 * t + c.input) && decide (c.samples ≤ 16)

/-- The housekeeping record of R83. -/
def State.hkRecord (s : State) (t : Nat) (c : Conv) (result resultQ floor : Nat) : Rec :=
  let flags := (if s.chopInc t c then 16 else 0) + (if c.entry = 255 then 32 else 0) + (if c.settle then 64 else 0)
  let dur := satTo 32 ((c.stop - c.first) / hkSt - 1)
  s.mkRec 0x07 flags (s.stampAt c.first)
    ([BitVec.ofNat 8 t, BitVec.ofNat 8 c.entry, BitVec.ofNat 8 c.input, BitVec.ofNat 8 (c.avg - 1 + 8 * c.shift)]
      ++ le 4 result ++ [BitVec.ofNat 8 (c.range + 4 * floor + 16 * b2n c.frozen)] ++ le 3 resultQ ++ le 4 dur)

/-- A suspected break (R50): every sample below the floor, no settle mark, at most BRK_HITS_MAX hits; not in a tripped tile
(R61) and not on a channel already suspected or broken. -/
def State.breakSuspect (s : State) (t : Nat) (c : Conv) (floor : Nat) : Bool :=
  let ch := 16 * t + c.input
  floor == 2 && !c.settle && decide (c.hits ≤ s.get P.FLOOR_BRK_HITS_MAX ch) && !s.tripped t
    && !s.flag P.CH_STATUS_BREAK_SUSPECT ch && !s.flag P.CH_STATUS_BROKEN ch

/-- What a completed channel-current conversion leaves (R39, R41, R42, R50, R139). -/
def State.slowResult (s : State) (t : Nat) (c : Conv) (result floor : Nat) : State :=
  let ch := 16 * t + c.input
  let pa := satTo 32 (slowPa c.range c.avg c.shift result)
  let s1 := (s.put P.CUR_NOW_CURRENT ch pa).putB P.CH_STATUS_FLOOR_PART ch (floor == 1)
  let s2 := s1.modFeCh ch fun f => { f with
    autoRange := if s.get P.SLOW_CFG_RANGE ch = 0 then nextRange c.range c.avg c.shift result else f.autoRange,
    clean := if c.settle then f.clean else some pa }
  let s3 := if c.settle || !s.flag P.FAST_CFG_ENABLE ch || s.flag P.CH_STATUS_BROKEN ch then s2
    else s2.modLp t fun l => { l with curAt := some s.time.now }
  if s.breakSuspect t c floor then
    let s4 := (s3.putB P.CH_STATUS_BREAK_SUSPECT ch true).raise (96 + 2 * t)
    s4.modFe t fun f => { f with queue := if f.queue.contains c.input then f.queue else f.queue ++ [c.input] }
  else s3

/-- HK_CONVERSION_COMPLETE (R79, R80, R83): all samples are taken; the sum of the samples, shifted, is the result; the record enters the monitoring
stream and the next waiting urgent request starts. `sumQ` is the quadrature sum of input 22, `low` and `high` the lowest
and the highest sample in pA as the floor comparator judges them (R42). -/
def execHkConversionComplete (t : Tm) (tile : Tile) (sum : Nat) (sumQ : Nat) (ends : HkEnds) (s : State) : Host.Outcome State Fault Refusal :=
  live t s fun s0 =>
    let s := s0.rampTo tile
    match (s.hk tile).run with
    | none => s
    | some c =>
      if c.frozenAt.isSome || decide (s.time.now < c.stop) then s else
      let result := sum / 2 ^ c.shift % 2 ^ 24
      let resultQ := if c.input = 22 then sumQ / 2 ^ c.shift % 2 ^ 24 else 0
      let floor := if c.input < 16 then floorOf ends.low ends.high (1000 * s.get P.FLOOR_FLOOR_NA (16 * tile + c.input)) else 3
      let s1 := s.put P.HK_RESULT_RESULT tile result (c.input % 24)
      let s2 := if c.input < 16 then s1.slowResult tile c result floor else s1
      let s3 := s2.modHk tile fun h => { h with
        run := none, lastEnd := c.stop,
        temp := if c.input = 17 then some (result * 2 ^ c.shift * 256 / 2 ^ c.avg) else h.temp,
        hv := if c.input = 18 && c.loop.isSome && c.loop == s.loop.start then
          some (result * 2 ^ c.shift * 256 / 2 ^ c.avg, c.stop) else h.hv }
      (s3.monEmit (s.hkRecord tile c result resultQ floor)).hkNext tile

/-! ### Spare-slice rotation -/

/-- An impedance visit of the tile is due within a rotation's length (R421): a tone second, or a channel that waits at the
head of the queue. -/
def State.visitsDue (s : State) (t : Nat) : Bool :=
  s.flag P.IMP_CFG_ENABLE t && !s.tripped t
    && (s.time.now / secSt % s.get P.IMP_CFG_INTERVAL t == 0 || !(s.fe t).queue.isEmpty)

/-- Deferrals in a row of the tile's rotation (R421). -/
def State.rotDefers (s : State) (t : Nat) : Nat :=
  ((s.core.wait.find? fun a => a.code == 1 && a.unit == t).map (·.defers)).getD 0

/-- The rotation begins (R74, R77). -/
def State.rotBegin (s : State) (t : Nat) : State :=
  let s0 := { s with core := { s.core with wait := s.core.wait.filter fun a => !(a.code == 1 && a.unit == t) } }
  ((((s0.put P.ROT_STATUS_STATE t 1).put P.ROT_STATUS_STEP t 0).modRot t fun r => { r with
      failed := false, restart := false, done := false, bounds := 0, since := s.time.now, last := some s.time.now,
      ending := false })).maintBegin 1 t false

/-- ROT_CFG permits a rotation (R75): ENABLE, and EVERY seconds since the previous one began. They are elapsed seconds, which a
forced step of the time base neither shortens nor lengthens: DESIGN CHOICE (log entry 88). -/
def State.rotPermits (s : State) (t : Nat) : Bool :=
  s.flag P.ROT_CFG_ENABLE t
    && match (s.rot t).last with
      | none => true
      | some l => decide (l + s.get P.ROT_CFG_EVERY t * secSt ≤ s.time.now)

/-- ROTATION_START (R75, R77, R421, R422): at a second boundary, with ENABLE, EVERY and the matrix permitting. -/
def execRotationStart (t : Tm) (tile : Tile) (s : State) : Host.Outcome State Fault Refusal :=
  live t s fun s =>
    if s.leased && !s.abut && s.time.now % secSt == 0 && s.rotPermits tile && s.get P.ROT_STATUS_STATE tile == 0 then
      let j := s.maintJudge 1 tile
      let j := if j = .run ∧ s.visitsDue tile = true then .defer else j
      match j with
      | .run | .suspend => s.rotBegin tile
      | .defer => if 5 ≤ s.rotDefers tile then s.rotBegin tile else s.maintDefer 1 tile false
      | .interlock => s.maintRefuse 1
      | .busy => s
    else s

/-- The sequencer stops (R77): the channel, or the spare, is faulted. -/
def State.rotStop (s : State) (t : Nat) (code : Nat) : State :=
  let k := s.get P.ROT_STATUS_STEP t
  let s1 := s.put P.ROT_STATUS_STATE t 8
  let s2 := if code = 0x0203 then s1.putB P.ROT_STATUS_SPARE_FAULT t true
    else s1.putB P.SLICE_STATUS_FAULT (16 * t + k) true
  ((s2.maintEnd 1 t).raise 158).log code 4 (le 2 (if code = 0x0203 then t else 16 * t + k))

/-- A match passes (R72). -/
def State.matchOk (s : State) (mean : Int) (rms : Nat) : Bool :=
  decide (mean.natAbs ≤ s.get P.ROT_TOL_MEAN_MAX 0) && decide (rms ≤ s.get P.ROT_TOL_RMS_MAX 0)

/-- T_match (R72): 4,096 sc of comparison and 3,000 cc of arithmetic. -/
def matchLen : Nat := 4096 * scSt + 3000 * ccSt
/-- T_cal (R71): 4,200,000 sc. -/
def calLen : Nat := 4200000 * scSt

/-- A coefficient held in 16 bits, signed. -/
def clamp16 (v : Int) : Int := max (-32768) (min 32767 v)

/-- SLICE_MATCH_COMPLETE (R72, R77): T_match after the match began; mean and rms of the difference in 1/8 code, newcomer minus incumbent. -/
def execSliceMatchComplete (t : Tm) (tile : Tile) (mean : Int) (rms : Nat) (s : State) : Host.Outcome State Fault Refusal :=
  live t s fun s =>
    let st := s.get P.ROT_STATUS_STATE tile
    let k := s.get P.ROT_STATUS_STEP tile
    let c := 16 * tile.val + k
    if (st == 1 || st == 4) && decide (k < 16) && !(s.rot tile).done && decide ((s.rot tile).since + matchLen ≤ s.time.now) then
      let s0 := (s.put P.MATCH_LAST_MEAN c (satSigned 8 mean)).put P.MATCH_LAST_RMS c (satTo 8 rms)
      if s.matchOk mean rms then
        if st = 1 then
          (s0.put P.ROT_STATUS_STATE tile 2).modRot tile fun r => { r with spareOff := clamp16 (r.spareOff + 2 * mean) }
        else (s0.put P.ROT_STATUS_STATE tile 5).put P.SLICE_CORR_OFFSET c
          (satSigned 16 (s.int P.SLICE_CORR_OFFSET c + 2 * mean))
      else
        let s1 := s0.bump P.SLICE_STATUS_MISMATCH_COUNT c
        if st = 4 then s1.rotStop tile 0x0202
        else if (s.rot tile).failed then
          (((s1.putB P.SLICE_STATUS_SUSPECT c true).modRot tile fun r => { r with done := true }).raise 158).log 0x0201 3 (le 2 c)
        else (s1.put P.ROT_STATUS_STATE tile 6).modRot tile fun r => { r with
          failed := true, restart := true, done := false, since := s.time.now }
    else s

/-- The ramp fit sets a slice's coefficients of both ranges (R66, R71); slice 16 is the spare. -/
def State.sliceFit (s : State) (t slice : Nat) (offset gain lowOffset lowGain : Int) : State :=
  let s1 := s.modRot t fun r => { r with lows := Tbl.set (0, 0) r.lows slice (clamp16 lowOffset, clamp16 lowGain) }
  if slice = 16 then s1.modRot t fun r => { r with spareOff := clamp16 offset, spareGain := clamp16 gain }
  else (s1.put P.SLICE_CORR_OFFSET (16 * t + slice) (satSigned 16 offset)).put P.SLICE_CORR_GAIN (16 * t + slice) (satSigned 16 gain)

/-- The code-density check passes (R71): no code from 16 to 4,079 receives less than 25 % or more than 175 % of its expected
share; `least` and `most` are the smallest and the largest count among them. -/
def densityOk (expected least most : Nat) : Bool := decide (expected ≤ 4 * least) && decide (4 * most ≤ 7 * expected)

/-- SLICE_CALIBRATION_COMPLETE (R71, R77, R488), T_cal after the calibration began: the fit's coefficients of both ranges, and the
expected, the least and the greatest count of the code-density check. -/
def execSliceCalibrationComplete (t : Tm) (tile : Tile) (slice : Fin 17) (high low : SliceFit) (expected : Nat) (bins : BinCounts)
    (s : State) : Host.Outcome State Fault Refusal :=
  live t s fun s =>
    let st := s.get P.ROT_STATUS_STATE tile
    let k := s.get P.ROT_STATUS_STEP tile
    let ok := densityOk expected bins.least bins.most
    let ended := decide ((s.rot tile).since + calLen ≤ s.time.now)
    let s1 := s.sliceFit tile slice high.offset high.gain low.offset low.gain
    if st = 3 ∧ slice.val = k then
      if !ended then s
      else if ok then (s1.put P.ROT_STATUS_STATE tile 4).modRot tile fun r => { r with
        since := s.time.now, calDone := r.calDone ||| 2 ^ slice.val }
      else s1.rotStop tile 0x0202
    else if st = 6 ∧ slice.val = 16 then
      if !ended || (s.rot tile).done then s
      else if ok then s1.modRot tile fun r => { r with done := true, calDone := r.calDone ||| 2 ^ slice.val }
      else s1.rotStop tile 0x0203
    else if st = 0 ∧ s.pwr.acq = false then
      if ok then s1.modRot tile fun r => { r with calDone := r.calDone ||| 2 ^ slice.val } else s1
    else s

/-- The step after channel `k`'s (R74, R77). -/
def State.rotAdvance (s : State) (t k : Nat) : State :=
  let s1 := s.modRot t fun r => { r with failed := false, restart := false, done := false, bounds := 0, since := s.time.last }
  if (s.rot t).ending || !s.flag P.ROT_CFG_ENABLE t then (s1.put P.ROT_STATUS_STATE t 0).maintEnd 1 t
  else if k = 15 then (s1.put P.ROT_STATUS_STATE t 6).put P.ROT_STATUS_STEP t 16
  else (s1.put P.ROT_STATUS_STATE t 1).put P.ROT_STATUS_STEP t (k + 1)

/-- A rotation sequencer at a span boundary (R73, R74, R77). -/
def State.rotBoundary (s : State) (t : Nat) : State :=
  let st := s.get P.ROT_STATUS_STATE t
  let k := s.get P.ROT_STATUS_STEP t
  let r := s.rot t
  let s1 := s.modRot t fun r => { r with bounds := r.bounds + 1 }
  match st with
  | 1 => if r.done then s1.rotAdvance t k else s1
  | 2 => ((s1.put P.ROT_STATUS_STATE t 3).putB P.SLICE_STATUS_SOURCE (16 * t + k) true).modRot t fun r => { r with since := s.time.last }
  | 3 | 4 => s1
  | 5 =>
    if 3 ≤ r.bounds + 1 then
      ((s1.putB P.SLICE_STATUS_SOURCE (16 * t + k) false).putB P.SLICE_STATUS_SUSPECT (16 * t + k) false).rotAdvance t k
    else s1
  | 6 =>
    if r.done then
      if r.restart then
        (s1.put P.ROT_STATUS_STATE t 1).modRot t fun r => { r with
          restart := false, done := false, bounds := 0, since := s.time.last }
      else
        let s2 := ((s1.put P.ROT_STATUS_STATE t 0).bump P.ROT_STATUS_ROTATIONS t).modRot t fun r => { r with done := false }
        (if s.flag P.ROT_CFG_SINGLE t then s2.putB P.ROT_CFG_ENABLE t false else s2).maintEnd 1 t
    else s1
  | _ => s

/-- On entry to abutment mode a rotation ends at its next swap-back (R76). -/
def State.rotAbut (s : State) : State := s.each (upTo 16) fun s t => s.modRot t fun r => { r with ending := true }

end Sys2Proof.Machine
end

