-- ==== Sys2Proof/Machine/MemOps.lean ====
section
/-! DEFINITION. Errors in on-chip memories as their readers meet them (R427 to R429, R434). -/

namespace Sys2Proof.Machine

/-- When the read after one due at `due` falls due, with reads `step` apart; after a pause the spacing starts anew
(R347, R430). -/
def paced (due step now : Nat) : Nat := if due + step ≤ now then now + step else due + step

/-- One hour in stitches. -/
def hourSt : Nat := 3600 * secSt

/-- A read of memory `m` corrects an error (R427): MEM_ERR.CE, and source 232 with a record once an hour above the limit. -/
def State.memCe (s : State) (m : Nat) : State :=
  let hour := s.time.now / hourSt
  let c := Tbl.get (0, 0) s.mem.ceHour m
  let n := if c.1 = hour then c.2 + 1 else 1
  let s1 := ({ s with mem := { s.mem with ceHour := Tbl.set (0, 0) s.mem.ceHour m (hour, n) } }).bump P.MEM_ERR_CE m
  if s.get P.MEM_CE_LIMIT_PER_HOUR 0 < n ∧ Tbl.get 0 s.mem.ceTold m ≠ hour + 1 then
    (({ s1 with mem := { s1.mem with ceTold := Tbl.set 0 s1.mem.ceTold m (hour + 1) } }).raise 232).log 0x1001 3 (le 2 m)
  else s1

/-- A read of memory `m` at byte offset `addr` is uncorrectable (R428). -/
def State.memUe (s : State) (m addr : Nat) : State :=
  ((s.bump P.MEM_ERR_UE m).put P.MEM_UE_ADDR_ADDR m addr).raise 233

/-- The read of a flawed word (R427, R428). -/
def State.flawRead (s : State) (f : Flaw) : State := if f.ue then s.memUe f.mem (8 * f.word) else s.memCe f.mem

/-- The next record is read out of queue memory `m` (R428, R434): the state, and whether it is delivered with REDUCED. -/
def State.flawNext (s : State) (m : Nat) : State × Bool :=
  match s.mem.flaws.find? fun f => f.mem == m && f.at_ == 0 with
  | some f => (({ s with mem := { s.mem with flaws := s.mem.flaws.erase f } }).flawRead f, f.ue)
  | none =>
    if s.mem.flaws.any fun f => f.mem == m then
      ({ s with mem := { s.mem with flaws := s.mem.flaws.map fun f => if f.mem = m then { f with at_ := f.at_ - 1 } else f } }, false)
    else (s, false)

/-- A record at a byte position of the egress or the monitoring queue is read (R428, R434); the error stays with the record. -/
def State.flawAt (s : State) (m pos : Nat) : State × Bool :=
  match s.mem.flaws.find? fun f => f.mem == m && f.at_ == pos with
  | some f => (s.flawRead f, f.ue)
  | none => (s, false)

end Sys2Proof.Machine
end

