-- ==== Sys2Proof/Machine/Interp.lean ====
section
/-! DEFINITION. The interpolator pairs (R86 to R94): cycle, test conversions, transfers and the stamps they give. -/

namespace Sys2Proof.Machine

/-- The interpolator pair of a unit. -/
def State.pair (s : State) (u : Nat) : Pair := Tbl.get Pair.reset s.tdc.pair u
/-- Change the interpolator pair of a unit. -/
def State.modPair (s : State) (u : Nat) (f : Pair → Pair) : State :=
  { s with tdc := { s.tdc with pair := Tbl.mod Pair.reset s.tdc.pair u f } }
/-! ### Interpolators (R86 to R88) -/

/-- The first core-clock edge strictly after an instant (R86). -/
def edge1 (t : Tm) : Tm := (t / ccSt + 1) * ccSt
/-- E2, the second core-clock edge strictly after an instant (R86). -/
def edge2 (t : Tm) : Tm := edge1 t + ccSt

/-- An interpolator is free at an instant. -/
def Ip.free (i : Ip) (t : Tm) : Bool := decide (i.stop ≤ t)

/-- Interpolator `n` of a pair. -/
def Pair.ip (p : Pair) (n : Nat) : Ip := if n = 0 then p.a else p.b
/-- Set interpolator `n` of a pair. -/
def Pair.setIp (p : Pair) (n : Nat) (i : Ip) : Pair := if n = 0 then { p with a := i } else { p with b := i }

/-- The alternate interpolator: the one the last interpolated hit did not use, at first A (R88). -/
def Pair.alternate (p : Pair) : Nat := match p.last with | some n => 1 - n | none => 0

/-- The interpolator an edge takes: the alternate if free, else the other if free (R88). -/
def Pair.choose (p : Pair) (t : Tm) : Option Nat :=
  if (p.ip p.alternate).free t then some p.alternate
  else if (p.ip (1 - p.alternate)).free t then some (1 - p.alternate) else none

/-- Test conversions of the delay-line fit: 32 taps, 256 of each (R90). -/
def fitTests : Nat := 8192
/-- Conversions of the code-density check (R91). -/
def densityTests : Nat := 65536

/-- A finished test conversion counts: one of the fit adds its code to the sum of its tap, one of the density check its code to the
histogram (R90, R91). -/
def Ip.count (i : Ip) (code : Nat) : Ip :=
  if i.n < fitTests then { i with n := i.n + 1, sums := i.sums.set (i.n / 256) (i.sums.getD (i.n / 256) 0 + code) }
  else { i with n := i.n + 1, hist := Tbl.mod 0 i.hist code (· + 1) }

/-- Finished test conversions count in turn, up to the number due (R90, R91). -/
def Ip.countAll (i : Ip) (due : Nat) (codes : List (BitVec 12)) : Ip :=
  (codes.take (due - i.n)).foldl (fun i c => i.count c.toNat) i

/-- A test conversion that has finished by an instant counts (R90 to R92). -/
def Ip.collect (i : Ip) (t : Tm) : Ip :=
  match i.test with
  | some code => if i.free t then { i.count code with test := none } else i
  | none => i

/-- An edge abandons a test conversion in progress: the interpolator is discharged within 12 cc, and the conversion is repeated
later (R92). -/
def Ip.abandon (i : Ip) (t : Tm) : Ip :=
  let i := i.collect t
  if i.test.isSome then { i with stop := t + 12 * ccSt, test := none } else i

/-- The segment of a transfer from tap `j` on that holds a code, in 1/256 code; the last one is extended (R90). -/
def segOf (l : List Nat) (x : Nat) (j : Nat) : Nat → Nat
  | 0 => j
  | f + 1 =>
    let down := decide (l.getD 31 0 ≤ l.getD 0 0)
    let y := l.getD (j + 1) 0
    if (if down then decide (y ≤ x) else decide (x ≤ y)) then j else segOf l x (j + 1) f

/-- The interval d in stitches that a transfer gives a code: piecewise linear through the 32 mean codes at d = 2,048 − 32 j, on
from the last by the slope of the last segment; rounded to the nearest stitch and held in (1,024, 2,048] (R86, R90). -/
def delayOf (l : List Nat) (code : Nat) : Nat :=
  let x := 256 * code
  let j := segOf l x 0 30
  let a : Int := l.getD j 0
  let b : Int := l.getD (j + 1) 0
  let d : Int := if a = b then 2048 - 32 * j else
    2048 - 32 * j + roundDiv (-32 * ((x : Int) - a) * (b - a).sign) (b - a).natAbs
  (max 1025 (min 2048 d)).toNat

/-- d of a code under the transfer in force; before the first one it is a free value, made of `z` (log entry 2). -/
def Ip.delay (i : Ip) (code z : Nat) : Nat := if i.xfer.isEmpty then 1025 + z % 1024 else delayOf i.xfer code

/-- An edge at a pair: test conversions are abandoned, and an interpolator is taken until 22 cc after E2 (R87, R88, R92).
Answers the pair and, where the edge was stamped, the raw stamp E2 − d (R86). -/
def Pair.take (p : Pair) (t : Tm) (code z : Nat) : Pair × Option Tm :=
  let p := { p with a := p.a.abandon t, b := p.b.abandon t, edge := some t }
  match p.choose t with
  | some n => ({ (p.setIp n { p.ip n with stop := edge2 t + 22 * ccSt }) with last := some n }, some (edge2 t - (p.ip n).delay code z))
  | none => (p, none)

/-- An edge now at the pair of a unit, whose interpolator's converter delivers a code. Answers the state and the raw stamp. -/
def State.pairEdge (s : State) (u code : Nat) : State × Option Tm :=
  let r := (s.pair u).take s.time.now code (Config.unstated 13 [u, code])
  (s.modPair u fun _ => r.1, r.2)

/-- An edge at a pin or port of its own pair: its stamp, referred to the pin by a fused offset to which the spec gives neither a
parameter nor a value (R101, R118, R310, R312; log entry 90); none where no interpolator is free. -/
def State.pinEdge (s : State) (u code : Nat) : State × Option Int :=
  let r := s.pairEdge u code
  (r.1, r.2.map fun x => (x : Int) - Config.pinFused u)

/-! ### Transfers taking effect -/

/-- A new transfer takes effect (R92, R94). -/
def State.transferAdopt (s : State) (u : Nat) : State :=
  if (s.pair u).fitted then
    let s1 := s.modPair u fun p => { p with
      a := { p.a with xfer := p.a.fit }, b := { p.b with xfer := p.b.fit }, fitted := false, ready := false, fitAt := s.time.now }
    if u < 256 then (s1.putB P.TDC_CAL_STATUS_CAL_VALID u true).putB P.TDC_CAL_STATUS_STALE u false else s1
  else s

/-- A port pair's new transfer takes effect at the first Sync interval after its boundary (R94). -/
def State.portAdopt (s : State) (port : Nat) : State := if (s.pair (264 + port)).ready then s.transferAdopt (264 + port) else s

end Sys2Proof.Machine
end

