-- ==== Sys2Proof/Machine/Time.lean ====
section
/-! DEFINITION. The time base, spans, swap classes, timed outputs and scheduled actions (chapter 13): the shared operations and
the commands, but for the span boundary itself (`Machine/Span.lean`) and the mailbox commands. -/

namespace Sys2Proof.Machine

/-! ### Spans (R323, R324) -/

/-- A span code's length in stitches (R323). -/
def spanLenOf (code : Nat) : Nat := [100, 250, 500, 1000, 2000, 5000, 10000].getD code 1000 * usSt

/-- The span length in force. -/
def State.spanLen (s : State) : Nat := spanLenOf s.time.span

/-- The write cutoff before a boundary: 6,000 cc (R324). -/
def cutoffLen : Nat := 6000 * ccSt

/-- The first boundary after an instant, at a span length. -/
def boundaryAfter (t : Tm) (len : Nat) : Tm := (t / len + 1) * len

/-- The boundary that a value written now joins (R324). -/
def State.dueNow (s : State) : Tm :=
  if s.time.now + cutoffLen < s.time.next then s.time.next else s.time.next + s.spanLen

/-- The instant at which a change accepted now is committed: 40 µs after the first boundary strictly after it (R411). -/
def State.commitAt (s : State) : Tm := s.time.next + 40 * usSt

/-- The first boundary whose cutoff follows the commit of a change accepted now (R320, R330). -/
def State.afterCommit (s : State) : Tm := boundaryAfter (s.commitAt + cutoffLen) s.spanLen

/-- The span length in force at a coming boundary (R320, R323): a new length acts from the first whole second at or after
the boundary at which its value applies. -/
def State.spanLenAt (s : State) (b : Tm) : Nat :=
  let reg := s.get P.TIME_SPAN_LEN 0
  let pend := (s.time.pend ++ s.time.staged).find? fun p => p.id == P.TIME_SPAN_LEN.id 0 0 && p.due.isSome
  let (code, start) := match pend with
    | some p => (P.TIME_SPAN_LEN.of p.val, p.due.getD 0)
    | none => (reg, s.time.now)
  if code ≠ s.time.span ∧ ceilDiv start secSt * secSt ≤ b then spanLenOf code else s.spanLen

/-! ### Swap classes (R325) -/

/-- A class is held armed. -/
def State.armed (s : State) (cls : Nat) : Bool := decide (0 < cls) && (s.get P.SWAP_CFG_ARMED 0).testBit (cls - 1)

/-- Release one class: its held values join the first boundary whose cutoff lies after the release; source 70 (R325). -/
def State.releaseClass (s : State) (cls : Nat) : State :=
  let due := s.dueNow
  ({ s with time := { s.time with
    pend := s.time.pend.map fun (p : Pend) => if p.cls == cls && p.due.isNone then { p with due := some due } else p } }).raise 70

/-- Release the armed classes of a mask whose bit c stands for class c (R325). -/
def State.release (s : State) (mask : Nat) : State :=
  s.each ((upTo 8).filter fun c => mask.testBit c && s.armed c) State.releaseClass

/-- A write of SWAP_CFG.ARMED (R325); `armed` numbers its bits as the register does. -/
def State.writeArmed (s : State) (armed : Nat) : State :=
  let old := s.get P.SWAP_CFG_ARMED 0 * 2
  let cleared := (upTo 8).filter fun c => decide (0 < c) && old.testBit c && !armed.testBit c
  let armedNow := (upTo 8).filter fun c => decide (0 < c) && !old.testBit c && armed.testBit c
  let s1 := s.each cleared State.releaseClass
  let s2 := s1.put P.SWAP_CFG_ARMED 0 (armed / 2)
  let hold (p : Pend) : Pend :=
    match p.due with
    | some b => if armedNow.contains p.cls && decide (s.time.now + cutoffLen < b) then { p with due := none } else p
    | none => p
  { s2 with time := { s2.time with pend := s2.time.pend.map hold } }

/-- SWAP_CFG_WRITE (R23, R325): takes effect at the end of the write; discarded without the lease. -/
def execSwapCfgWrite (t : Tm) (armed : BitVec 8) (s : State) : Host.Outcome State Fault Refusal :=
  live t s fun s => if s.leased then s.writeArmed armed.toNat else s.deny

/-- SWAP_CUTOFF (R324): 6,000 cc before the boundary the pending sets due at it are closed and staged. -/
def execSwapCutoff (t : Tm) (s : State) : Host.Outcome State Fault Refusal :=
  live t s fun s =>
    if s.time.next ≤ s.time.now + cutoffLen then
      let closes (p : Pend) : Bool := match p.due with | some b => decide (b ≤ s.time.next) | none => false
      { s with time := { s.time with
        staged := s.time.staged ++ s.time.pend.filter closes, pend := s.time.pend.filter fun p => !closes p } }
    else s

/-! ### The state of the time base (R315 to R318) -/

/-- TIME_STATUS.STATE takes a value; every change raises source 64 (R318). -/
def State.timeState (s : State) (n : Nat) : State :=
  if s.get P.TIME_STATUS_STATE 0 = n then s else (s.put P.TIME_STATUS_STATE 0 n).raise 64

/-- The jump threshold in stitches (R316). -/
def State.jumpLen (s : State) : Nat := s.get P.TIME_JUMP_NS 0 * nsSt

/-- The device is the fabric root. -/
def State.isRoot (s : State) : Bool := s.flag P.FAB_ADDR_ROOT 0

/-- The device has a time master (R310, R317). -/
def State.hasMaster (s : State) : Bool :=
  if s.isRoot then
    !s.flag P.TIME_CFG_ROOT_SRC 0 || (match s.time.lastPps with | some p => decide (s.time.now < p + 2 * secSt) | none => false)
  else s.time.master

/-- Begin a slew of `d` stitches; it replaces the outstanding part of the previous one (R315). -/
def State.slew (s : State) (d : Int) : State :=
  if d = 0 ∧ s.time.slew = 0 then s else
  ({ s with time := { s.time with slew := d, slewAt := s.time.now } }).putB P.TIME_STATUS_SLEWING 0 (d != 0)

/-- How long the running slew takes (R315). -/
def State.slewLen (s : State) : Nat := s.time.slew.natAbs * 1000000 / max 1 (s.get P.TIME_SLEW_PPM 0)

/-- A mean θ beyond the threshold, or a master of a lower epoch (R316, R318). -/
def State.jumpRefused (s : State) : State :=
  ((s.timeState 3).putB P.TIME_STATUS_TIME_JUMP_REFUSED 0 true).raise 65

/-- Act on a mean θ (R315, R316, R318). -/
def State.servo (s : State) (theta : Int) (masterEpoch : Nat) : State :=
  let s1 := s.put P.TIME_OFFSET_ST 0 (satSigned 32 theta)
  if s.get P.TIME_STATUS_STATE 0 = 0 then
    { s1 with time := { s1.time with steps := s1.time.steps ++ [(⟨s.dueNow, s.time.epoch, false, -theta, some masterEpoch⟩ : PendStep)] } }
  else if s.jumpLen < theta.natAbs then s1.jumpRefused
  else ((s1.putB P.TIME_STATUS_TIME_JUMP_REFUSED 0 false).timeState 1).slew (-theta)

/-- A refined θ joins the average of AVG exchanges; the firmware computes no correction while the lease is vacant (R315). -/
def State.theta (s : State) (th : Int) (masterEpoch : Nat) : State :=
  if !s.leased then s else
  let l := s.time.thetas ++ [th]
  if l.length < s.get P.TIME_SERVO_AVG 0 then { s with time := { s.time with thetas := l } }
  else ({ s with time := { s.time with thetas := [] } }).servo (roundDiv l.sum l.length) masterEpoch

/-- A master of a higher epoch: adoption at the first boundary after the cutoff that follows (R321). -/
def State.adopt (s : State) (theta : Int) (masterEpoch : Nat) : State :=
  if s.time.steps.any (·.adopt.isSome) then s else
  { s with time := { s.time with
      steps := s.time.steps ++ [(⟨s.dueNow, s.time.epoch, false, -theta, some masterEpoch⟩ : PendStep)], thetas := [] } }

/-! ### Exchanges (R311 to R314) -/

/-- The exchange of a port. -/
def State.portTime (s : State) (p : Nat) : PortTime := Tbl.get PortTime.reset s.time.port p
/-- Change the exchange of a port. -/
def State.modPortTime (s : State) (p : Nat) (f : PortTime → PortTime) : State :=
  { s with time := { s.time with port := Tbl.mod PortTime.reset s.time.port p f } }

/-- Time messages run on a port in state tree up, tree down or shortcut with SYNC_EN (R311). -/
def State.syncRuns (s : State) (p : Nat) : Bool :=
  s.flag P.TIME_PORT_CFG_SYNC_EN p && [3, 4, 5].contains (s.get P.FAB_PORT_STATUS_STATE p)

/-- The port the device takes its time from. -/
def State.upPort (s : State) : Nat := s.get P.FAB_TREE_UP_PORT 0

/-- A message that the device sends on a port (R311, R312): its own domain, identity and port number. -/
def State.timeMsg (s : State) (port seq : Nat) (phase : BitVec 13) (valid : Bool) (b : TimeBody) : TimeMsg :=
  ⟨s.get P.TIME_CFG_DOMAIN 0, Regs.word s.regs P.FAB_ID_ID 0, port + 1, seq, phase, valid, s.time.epoch, 0, b⟩

/-- A time message of the device's domain acts (R311, R312): Sync and Delay_Req are stamped by the port's interpolator pair, and
Delay_Req is answered with Delay_Resp, which carries its sequence number; Follow_Up and Delay_Resp belong to the messages of
theirs. -/
def State.timeTake (s : State) (port : Port) (msg : TimeMsg) : State :=
  match msg.body with
  | .sync =>
    let r := s.pinEdge (264 + port) msg.code.toNat
    r.1.modPortTime port fun p => { p with
      t2 := r.2, t1 := none, seq := msg.seq, masterEpoch := msg.epoch, phase := if msg.valid then some msg.phase.toNat else none }
  | .followUp t1 => s.modPortTime port fun p => if p.seq = msg.seq then { p with t1 := some t1 } else p
  | .delayReq =>
    let r := s.pinEdge (264 + port) msg.code.toNat
    match r.2 with
    | some x => r.1.emit (.time port (s.timeMsg port msg.seq 0 false (.delayResp x)))
    | none => r.1
  | .delayResp t4 => s.modPortTime port fun p => if p.sent = msg.seq then { p with t4 := some t4, masterEpoch := msg.epoch } else p

/-- TIME_MESSAGE (R311, R312): a message of another domain is discarded. -/
def execTimeMessage (t : Tm) (port : Port) (msg : TimeMsg) (s : State) : Host.Outcome State Fault Refusal :=
  live t s fun s => if !s.syncRuns port || msg.domain != s.get P.TIME_CFG_DOMAIN 0 then s else s.timeTake port msg

/-- The Sync interval in stitches (R311): 2^SYNC_LOG s. -/
def State.syncLen (s : State) : Nat :=
  let l := s.int P.TIME_CFG_SYNC_LOG 0
  if l < 0 then secSt / 2 ^ l.natAbs else secSt

/-- SYNC_INTERVAL (R94, R311, R312, R314): the port's new transfer takes effect; the port sends Sync, Follow_Up and Delay_Req, its
interpolator pair stamps the first and the last, with the codes given, and Sync carries the transmit phase measured over the interval,
which is always valid (log entry 112). -/
def execSyncInterval (t : Tm) (meas : SyncMeas) (s : State) : Host.Outcome State Fault Refusal :=
  live t s fun s0 =>
    let s := s0.portAdopt meas.port
    if !s.syncRuns meas.port then s else
    let q := ((s.portTime meas.port).sent + 1) % 65536
    let m := s.timeMsg meas.port q meas.phase true
    let a := s.pinEdge (264 + meas.port) meas.syncCode.toNat
    let b := a.1.pinEdge (264 + meas.port) meas.reqCode.toNat
    let s1 := b.1.modPortTime meas.port fun p => { p with t3 := b.2, t4 := none, sent := q }
    let s2 := s1.emit (.time meas.port (m .sync))
    (match a.2 with | some x => s2.emit (.time meas.port (m (.followUp x))) | none => s2).emit (.time meas.port (m .delayReq))

/-- The value congruent to `phase` modulo 8,192 that lies nearest to `th` (R314). -/
def refine (th phase : Int) : Int :=
  let d := (phase - th) % 8192
  th + (if d ≤ 4096 then d else d - 8192)

/-- The device has had a master until now (R317). -/
def State.mastered (s : State) : State := { s with time := { s.time with mastered := s.time.now } }

/-- SYNC_EXCHANGE_COMPLETE (R313 to R316, R318, R321): `ownPhase` is the phase the receiving end measured. -/
def execSyncExchangeComplete (t : Tm) (port : Port) (ownPhase : Nat) (s : State) : Host.Outcome State Fault Refusal :=
  live t s fun s =>
    let p := s.portTime port
    match p.t1, p.t2, p.t3, p.t4 with
    | some t1, some t2, some t3, some t4 =>
      let asym := s.int P.TIME_PORT_ASYM_ASYM port
      let dms := roundDiv ((t2 - t1) + (t4 - t3)) 2 + asym
      let th := t2 - t1 - dms
      let s0 := s.modPortTime port fun p => { p with t1 := none, t2 := none, t3 := none, t4 := none }
      let r := match p.phase with | some m => refine th (ownPhase - m : Int) | none => th
      if 2048 < (th - r).natAbs then s0.bump P.TIME_STATUS_DISCARDS 0 else
      let s1 := s0.put P.TIME_PORT_DELAY_DELAY port (satSigned 32 dms)
      if port.val = s.upPort && !s.isRoot && !s.abut then
        let s2 := (s1.modPortTime port fun p => { p with lastValid := s.time.now }).mastered
        if !s.leased then s2
        else if s.time.epoch < p.masterEpoch && s.get P.TIME_STATUS_STATE 0 != 0 then s2.adopt r p.masterEpoch
        else if p.masterEpoch < s.time.epoch then s2.jumpRefused
        else s2.theta r p.masterEpoch
      else s1
    | _, _, _, _ => s

/-- SLEW_COMPLETE (R315): the running slew is complete. -/
def execSlewComplete (t : Tm) (s : State) : Host.Outcome State Fault Refusal :=
  live t s fun s =>
    if s.flag P.TIME_STATUS_SLEWING 0 && decide (s.time.slewAt + s.slewLen ≤ s.time.now) then s.slew 0 else s

/-- HOLDOVER_ENTER (R317, R318): from LOCKED, after eight Sync intervals without a valid exchange on the up port, or without a master.
The fabric root counts as having a master. -/
def execHoldoverEnter (t : Tm) (s : State) : Host.Outcome State Fault Refusal :=
  live t s fun s =>
    let lost := !s.isRoot && decide (s.time.mastered + 8 * s.syncLen ≤ s.time.now)
    if s.get P.TIME_STATUS_STATE 0 = 1 && lost then (s.timeState 2).raise 69 else s

/-- The offset of a stamp from the nearest whole second (R310). -/
def secondOffset (x : Int) : Int := let f := x % (secSt : Nat); if 2 * f ≤ (secSt : Nat) then f else f - (secSt : Nat)

/-- PPS_IN_EDGE (R94, R310, R315, R316): an edge of the chosen polarity is stamped by its own interpolator pair, with the code given;
at the root with ROOT_SRC = 1 the offset from the nearest whole second enters the servo. The seconds value comes from a forced
step, so nothing is steered before it. -/
def execPpsInEdge (t : Tm) (edge : PinEdge) (s : State) : Host.Outcome State Fault Refusal :=
  live t s fun s =>
    if edge.rising == s.flag P.PPS_CFG_IN_POL 0 then s else
    let r := s.pinEdge 270 edge.code.toNat
    if s.isRoot && s.flag P.TIME_CFG_ROOT_SRC 0 then
      let s1 := { r.1 with time := { r.1.time with lastPps := some s.time.now } }
      match r.2 with
      | some x => if s.time.set && !s.abut then s1.theta (secondOffset x) s.time.epoch else s1
      | none => s1
    else r.1

/-- PPS_IN_MISSING (R317): 2 s without an edge at the root with ROOT_SRC = 1. -/
def execPpsInMissing (t : Tm) (s : State) : Host.Outcome State Fault Refusal :=
  live t s fun s =>
    if s.isRoot && s.flag P.TIME_CFG_ROOT_SRC 0 && !s.hasMaster && s.get P.TIME_STATUS_STATE 0 == 1 then
      ((s.timeState 2).raise 68).raise 69
    else s

/-! ### Steps (R320 to R322) -/

/-- Discard the pending steps whose boundary will not occur (R320): a step of another epoch, or before the next boundary. -/
def State.dropSteps (s : State) : State :=
  let gone (p : PendStep) : Bool := p.epoch != s.time.epoch || decide (p.b < s.time.next)
  let n := (s.time.steps.filter gone).length
  let s1 := { s with time := { s.time with steps := s.time.steps.filter fun p => !gone p } }
  if n = 0 then s else s1.each (upTo n) fun s _ => (s.putB P.TIME_STATUS_STEP_DROPPED 0 true).raise 66

/-- DISTRIBUTED_STEP (R320): a step distributed from the root is pending at its boundary; one whose boundary has passed is
discarded. -/
def execDistributedStep (t : Tm) (epoch : Nat) (b : Tm) (toTarget : Bool) (val : Int) (s : State) :
    Host.Outcome State Fault Refusal :=
  live t s fun s =>
    if s.time.steps.any (fun p => p.b == b && p.epoch == epoch) then s
    else ({ s with time := { s.time with steps := s.time.steps ++ [(⟨b, epoch, toTarget, val, none⟩ : PendStep)] } }).dropSteps

/-! ### Scheduled actions (R329 to R332) -/

/-- Entry `i`'s working state. -/
def State.actOf (s : State) (i : Nat) : ActSt := Tbl.get ActSt.reset s.time.act i
/-- Change entry `i`'s working state. -/
def State.modAct (s : State) (i : Nat) (f : ActSt → ActSt) : State :=
  { s with time := { s.time with act := Tbl.mod ActSt.reset s.time.act i f } }

/-- The period of an entry in stitches; 0 for a one-shot entry. -/
def State.actPeriod (s : State) (i : Nat) : Nat := s.get P.ACT_PERIOD_NS i * nsSt

/-- The programmed due time of an entry (R329). -/
def State.actTime (s : State) (i : Nat) : Tm := s.get P.ACT_TIME_TIME_NS i * nsSt + s.get P.ACT_CFG_STITCH i

/-- The first occurrence of an entry after an instant, in the phase of its T (R330, R332). -/
def occurrenceAfter (due period : Nat) (t : Tm) : Tm :=
  if period = 0 ∨ t < due then due else due + ((t - due) / period + 1) * period

/-- An occurrence runs late at boundary `b` (R330, R332). -/
def State.runLate (s : State) (i : Nat) (due b : Tm) : State :=
  let s1 := s.modAct i fun a => { a with late := some b, armed := true }
  let s2 := (s1.putB P.ACT_STATUS_RAN_LATE i true).put P.ACT_STATUS_LATE_US i (satTo 24 ((b - due) / usSt))
  ((s2.bump P.ACT_COUNTS_LATE 0).raise 71).log 0x0C01 2 (le 2 i)

/-- An arming write of ACT_CFG (R329, R330). Answers the state and a status code of R10. -/
def State.armEntry (s : State) (i value : Nat) : State × Nat :=
  let kind := value / 4096 % 8
  if 4 < kind then (s, 3)
  else if kind = 0 then
    (((s.put P.ACT_STATUS_STATE i 0).modAct i fun _ => ActSt.reset).putWord P.ACT_CFG_KIND i
      (BitVec.ofNat 64 (value % 2 ^ 17 + value / 2 ^ 20 % 2 ^ 12 * 2 ^ 20)), 0)
  else if (s.actOf i).armed then (s, 4)
  else
    let w := value % 2 ^ 17 + value / 2 ^ 20 % 2 ^ 12 * 2 ^ 20
    let s1 := s.putWord P.ACT_CFG_KIND i (BitVec.ofNat 64 w)
    let due := s1.actTime i
    let late := decide (due < s.commitAt + 10 * usSt)
    if late && !s1.flag P.ACT_CFG_RUN_LATE i then (s, 5)
    else
      let s2 := ((s1.put P.ACT_STATUS_STATE i 1).putB P.ACT_STATUS_RAN_LATE i false).put P.ACT_STATUS_LATE_US i 0
      let s3 := s2.modAct i fun _ => ⟨occurrenceAfter due (s1.actPeriod i) (if late then s.afterCommit else due - 1), none, true⟩
      (if late then s3.runLate i due s.afterCommit else s3, 0)

/-- ACT_CFG_ARM (R23, R330): a write of ACT_CFG arms or disarms an entry; a refused write changes nothing, and one without the lease
is discarded. -/
def execActCfgArm (t : Tm) (entry : Fin 64) (value : BitVec 32) (s : State) : Host.Outcome State Fault Refusal :=
  live t s fun s => if s.leased then (s.armEntry entry value.toNat).1 else s.deny

/-- The occurrence of an entry that is due now, if any: its time, and whether it runs late. -/
def State.actDue (s : State) (i kind : Nat) : Option (Tm × Bool) :=
  let a := s.actOf i
  if !a.armed || s.get P.ACT_CFG_KIND i != kind then none else
  match a.late with
  | some b => if b ≤ s.time.now then some (b, true) else none
  | none => if a.due ≤ s.time.now then some (a.due, false) else none

/-- The entry after an occurrence: a one-shot entry is empty, a periodic one waits for its next (R329, R330). -/
def State.actDone (s : State) (i : Nat) (due : Tm) (late : Bool) : State :=
  if s.actPeriod i = 0 then
    ((s.put P.ACT_STATUS_STATE i 2).put P.ACT_CFG_KIND i 0).modAct i fun _ => ActSt.reset
  else s.modAct i fun a => { a with late := none, due := if late then a.due else due + s.actPeriod i }

/-- The blank that an action carries (R53, R329). -/
def State.actBlank (s : State) (i : Nat) (due : Tm) (tiles : Nat) : State :=
  if s.flag P.ACT_CFG_BLANK i && s.flag P.BLANK_INT_SCHED 0 then
    let stop := due + s.get P.ACT_CFG_BLANK_LEN i * hkSt
    s.each ((upTo 16).filter fun t => tiles.testBit t) fun s t =>
      (s.modFe t fun f => { f with schedUntil := some (laterOf f.schedUntil stop) }).blankEval t
  else s

/-- An occurrence acts, or is counted as skipped in abutment mode (R331). -/
def State.act (s : State) (i kind : Nat) (tiles : Nat) (f : State → Tm → State) : State :=
  match s.actDue i kind with
  | none => s
  | some (due, late) =>
    let s1 := if s.abut then s.bump P.ACT_COUNTS_SKIPPED 0 else (f s due).actBlank i due tiles
    s1.actDone i due late

/-- The calibration pulser's own blank (R53): the pulse is an instant, so the guard alone follows it. -/
def State.pulserBlank (s : State) (tiles : Nat) (due : Tm) : State :=
  if s.flag P.BLANK_INT_PULSER 0 then
    s.each ((upTo 16).filter fun t => tiles.testBit t) fun s t =>
      ((s.modFe t fun f => { f with pulserUntil := some (laterOf f.pulserUntil (max due s.time.now + 1)) }).blankEval t)
  else s

/-- ACTION_PULSER (R329, kind 1): the pulser injects AMP × 0.01 pC into the enabled channels of the masked tiles. -/
def execActionPulser (t : Tm) (entry : Fin 64) (s : State) : Host.Outcome State Fault Refusal :=
  live t s fun s =>
    let arg := s.get P.ACT_ARG_ARG entry
    s.act entry 1 (arg % 65536) fun s due =>
      (s.emit (.pulser (BitVec.ofNat 16 arg) (arg / 65536 % 4096))).pulserBlank (arg % 65536) due

/-! ### Timed outputs (R327, R328) -/

/-- Output `x`'s working state. -/
def State.toutOf (s : State) (x : Nat) : ToutSt := Tbl.get ToutSt.reset s.time.tout x
/-- Change output `x`'s working state. -/
def State.modTout (s : State) (x : Nat) (f : ToutSt → ToutSt) : State :=
  { s with time := { s.time with tout := Tbl.mod ToutSt.reset s.time.tout x f } }

/-- An edge time rounded to the nearest multiple of 32 stitches, halves up (R327). -/
def round32 (t : Tm) : Tm := (t + 16) / 32 * 32

/-- The level an output drives. -/
def State.toutLevel (s : State) (x : Fin 8) : Bool := (s.toutOf x).level != s.flag P.TOUT_CFG_POL x

/-- A pulse of a width in 32 stitches begins; pulses overlap by OR (R327). -/
def State.toutPulse (s : State) (x : Fin 8) (due : Tm) (width : Nat) : State :=
  let stop := round32 (due + 32 * width)
  let s1 := (s.modTout x fun o => { o with level := true, stop := if o.level then max o.stop stop else stop }).bump
    P.TOUT_STATUS_PULSES x
  s1.drive (.tout x) (s1.toutLevel x)

/-- ACTION_TOUT_PULSE (R327, R329, kind 2): one pulse on TOUTx; a disabled output ignores it. -/
def execActionToutPulse (t : Tm) (entry : Fin 64) (s : State) : Host.Outcome State Fault Refusal :=
  live t s fun s =>
    let arg := s.get P.ACT_ARG_ARG entry
    let x : Fin 8 := ⟨arg % 8, Nat.mod_lt _ (by decide)⟩
    s.act entry 2 0xFFFF fun s due =>
      if s.flag P.TOUT_CFG_ENABLE x then s.toutPulse x due (arg / 256 % 2 ^ 24) else s

/-- ACTION_SWAP_RELEASE (R325, R329, kind 3): armed classes are released. -/
def execActionSwapRelease (t : Tm) (entry : Fin 64) (s : State) : Host.Outcome State Fault Refusal :=
  live t s fun s => s.act entry 3 0xFFFF fun s _ => s.release (s.get P.ACT_ARG_ARG entry)

/-- ACTION_FIRMWARE (R329, kind 4): source 72. -/
def execActionFirmware (t : Tm) (entry : Fin 64) (s : State) : Host.Outcome State Fault Refusal :=
  live t s fun s => s.act entry 4 0xFFFF fun s _ => s.raise 72

/-- The start of an output's own mode (R327). -/
def State.toutStart (s : State) (x : Nat) : Tm := s.get P.TOUT_START_TIME_NS x * nsSt + s.get P.TOUT_FINE_START_ST x
/-- The period of an output's own mode (R327). -/
def State.toutPeriod (s : State) (x : Nat) : Nat := s.get P.TOUT_PERIOD_NS x * nsSt + s.get P.TOUT_FINE_PERIOD_ST x

/-- An output's mode from a boundary on (R327): a one-shot START already past gives no pulse, sets MISSED and raises
source 73. -/
def State.toutProgram (s : State) (x : Fin 8) (b : Tm) : State :=
  let start := s.toutStart x
  if !s.flag P.TOUT_CFG_ENABLE x then
    s.modTout x fun _ => ToutSt.reset
  else
    match s.get P.TOUT_CFG_MODE x with
    | 1 => if start < b then ((s.modTout x fun o => { o with next := none }).putB P.TOUT_STATUS_MISSED x true).raise 73
        else s.modTout x fun o => { o with next := some start }
    | 2 => s.modTout x fun o => { o with next := some (if b ≤ start then start
        else start + ceilDiv (b - start) (max 1 (s.toutPeriod x)) * s.toutPeriod x) }
    | _ => s.modTout x fun o => { o with next := none }

/-- TOUT_PULSE (R327): the output's own mode starts a pulse at its programmed time. -/
def execToutPulse (t : Tm) (x : Fin 8) (s : State) : Host.Outcome State Fault Refusal :=
  live t s fun s =>
    match (s.toutOf x).next with
    | some n =>
      if round32 n ≤ s.time.now && s.flag P.TOUT_CFG_ENABLE x then
        (s.toutPulse x n (s.get P.TOUT_WIDTH_WIDTH x)).modTout x fun o => { o with
          next := if s.get P.TOUT_CFG_MODE x = 2 then some (n + s.toutPeriod x) else none }
      else s
    | none => s

/-- TOUT_PULSE_END (R327): the running pulse ends. -/
def execToutPulseEnd (t : Tm) (x : Fin 8) (s : State) : Host.Outcome State Fault Refusal :=
  live t s fun s =>
    let o := s.toutOf x
    if o.level && decide (o.stop ≤ s.time.now) then
      let s1 := s.modTout x fun o => { o with level := false }
      s1.drive (.tout x) (s1.toutLevel x)
    else s

/-- PPS_OUT_EDGE (R328): PPS_OUT rises at a whole TAI second unless STATE is UNSET or OUT_EN is 0. -/
def execPpsOutEdge (t : Tm) (s : State) : Host.Outcome State Fault Refusal :=
  live t s fun s =>
    if s.time.now % secSt == 0 && s.get P.TIME_STATUS_STATE 0 != 0 && s.flag P.PPS_CFG_OUT_EN 0 then
      ({ s with time := { s.time with
        ppsOut := true, ppsStop := s.time.now + s.get P.PPS_CFG_OUT_WIDTH 0 * msSt } }).drive .ppsOut true
    else s

/-- PPS_OUT_FALL (R328): PPS_OUT falls after OUT_WIDTH. -/
def execPpsOutFall (t : Tm) (s : State) : Host.Outcome State Fault Refusal :=
  live t s fun s =>
    if s.time.ppsOut && decide (s.time.ppsStop ≤ s.time.now) then
      ({ s with time := { s.time with ppsOut := false } }).drive .ppsOut false
    else s

/-! ### A step is applied (R320 to R322, R332) -/

/-- What a forward step passed over, for one entry (R332). -/
def State.actPassed (s : State) (i : Nat) (new : Tm) : State :=
  let a := s.actOf i
  if !a.armed || a.late.isSome || decide (new ≤ a.due) then s else
  let per := s.actPeriod i
  let n := if per = 0 then 1 else (new - 1 - a.due) / per + 1
  let b := s.time.next
  let s1 := s.bump P.ACT_COUNTS_SKIPPED 0 (n - 1)
  let s2 := s1.modAct i fun a => { a with due := if per = 0 then a.due else a.due + n * per }
  if s.flag P.ACT_CFG_RUN_LATE i then s2.runLate i a.due b
  else if per = 0 then
    ((((s2.put P.ACT_STATUS_STATE i 3).put P.ACT_CFG_KIND i 0).modAct i fun _ => ActSt.reset).bump P.ACT_COUNTS_LATE 0).raise 71
  else (s2.bump P.ACT_COUNTS_LATE 0).raise 71

/-- Values pending in the unarmed set, and a configuration that start-up released, join the next boundary of the stepped
time base. -/
def State.redue (s : State) : State := { s with
  time := { s.time with
    pend := s.time.pend.map fun (p : Pend) => if p.due.isSome then { p with due := some s.time.next } else p },
  pwr := { s.pwr with cfgDue := s.pwr.cfgDue.map fun _ => s.time.next } }

/-- J of a step: the signed offset, or the target less the boundary (R320). -/
def PendStep.offset (p : PendStep) : Int := if p.toTarget then p.val - (p.b : Int) else p.val

/-- The whole sample clocks of J, in stitches, rounded towards zero (R320); a step at boundary `b` does not pass the zero of the time
base (log entry 100). -/
def PendStep.whole (p : PendStep) (b : Tm) : Int := max (Int.tdiv p.offset 2048 * 2048) (-(b : Int))

/-- The first sampling edge after a boundary, at which a step is applied (R320, R324). -/
def stepEdge (b : Tm) : Tm := b + scSt

/-- The epoch after a step (R320, R321). The first setting in UNSET takes the master's epoch whatever the present one: where the two
are equal and the master's time is behind, time steps back within one epoch, which R29 excludes and R318 does not guard: DESIGN
CHOICE (log entry 93). -/
def State.stepEpochNo (s : State) (p : PendStep) : Nat :=
  match p.adopt with | some e => e | none => if p.offset < 0 then s.time.epoch + 1 else s.time.epoch

/-- The time base takes a step at the first sampling edge after boundary `b` (R320 to R323): the whole sample clocks, the epoch, a span
length whose second it carries the base over, the end of the span that holds it, the first aligned boundary at least one span
length later; a new stretch of the time base begins there (R69). -/
def State.stepSet (s : State) (p : PendStep) (b : Tm) : State :=
  let epoch := s.stepEpochNo p
  let new := ((stepEdge b : Int) + p.whole b).toNat
  let crossed := decide (stepEdge b / secSt < new / secSt) && s.get P.TIME_SPAN_LEN 0 != s.time.span
  let s1 := if crossed then ({ s with time := { s.time with span := s.get P.TIME_SPAN_LEN 0 } }).raise 74 else s
  let now := ((s.time.now : Int) + p.whole b).toNat
  { s1 with time := { s1.time with
    now := now, epoch := epoch, set := true, next := ceilDiv (new + s1.spanLen) s1.spanLen * s1.spanLen,
    last := ((b : Int) + p.whole b).toNat, slewAt := min s1.time.slewAt now,
    anchors := (⟨epoch, new⟩, s1.time.samples + 1) :: s1.time.anchors.take 63 } }

/-- What a step that has been taken does: the epoch and the count, its sources, the remainder slewed, values and actions whose instants it
passed, timed outputs (R315, R318, R320, R321, R327, R330). -/
def State.stepActs (s : State) (p : PendStep) (b : Tm) (oldEpoch : Nat) : State :=
  let epoch := s.time.epoch
  let new := s.stretchFrom
  let s3 := ((s.put P.TIME_EPOCH_EPOCH 0 epoch).bump P.TIME_EPOCH_STEPS 0).raise 66
  let s4 := if epoch = oldEpoch then s3 else s3.raise 67
  let s5 := ((s4.putB P.TIME_STATUS_TIME_JUMP_REFUSED 0 false).slew (p.offset - p.whole b)).redue
  let s6 := s5.timeState (if p.adopt.isSome || s5.hasMaster then 1 else 2)
  let s7 := if 0 ≤ p.offset && epoch == oldEpoch then s6.each (upTo 64) fun s i => s.actPassed i new else s6
  (s7.each (upTo 8) fun s x => if h : x < 8 then
    (if s.get P.TOUT_CFG_MODE x = 2 then s.toutProgram ⟨x, h⟩ new else s) else s).dropSteps

end Sys2Proof.Machine
end

