-- ==== Sys2Proof/Machine/Tdc.lean ====
section
/-! DEFINITION. Picosecond timing and the gauge (chapter 04): hits, hit blocks, calibration visits, gauge gates. -/

namespace Sys2Proof.Machine

/-! ### Accessors -/

/-- Channel `c`'s time measurement. -/
def State.td (s : State) (c : Nat) : TdcCh := Tbl.get TdcCh.reset s.tdc.ch c
/-- Change channel `c`'s time measurement. -/
def State.modTd (s : State) (c : Nat) (f : TdcCh → TdcCh) : State :=
  { s with tdc := { s.tdc with ch := Tbl.mod TdcCh.reset s.tdc.ch c f } }
/-- Gauge input `g`. -/
def State.gauge (s : State) (g : Nat) : Gauge := Tbl.get Gauge.reset s.tdc.gauge g
/-- Change gauge input `g`. -/
def State.modGauge (s : State) (g : Nat) (f : Gauge → Gauge) : State :=
  { s with tdc := { s.tdc with gauge := Tbl.mod Gauge.reset s.tdc.gauge g f } }

/-! ### Pin-referred times -/

/-- TDC_FUSED.FUSED + TDC_OFFSET.USER of a channel (R89). -/
def State.hitOffset (s : State) (c : Nat) : Int := s.int P.TDC_FUSED_FUSED c + s.int P.TDC_OFFSET_USER c

/-! ### Hit blocks (R99, R100) -/

/-- The end of the block interval that starts at an instant (R99). -/
def State.intervalEnd (s : State) (t : Tm) : Tm := min ((t / msSt + 1) * msSt) s.time.next

/-- E of R99 in stitches, for a channel. -/
def State.blockWait (s : State) (c : Nat) : Nat := (4120 + ceilDiv (s.hitOffset c).toNat ccSt) * ccSt

/-- A block covers an instant. -/
def Blk.covers (b : Blk) (at_ : Stamp) : Bool :=
  b.start.epoch == at_.epoch && decide (b.start.tb ≤ at_.tb) && (b.cut || decide (at_.tb < b.stop))

/-- A block that opens takes the hits pinned in its interval that came before it: those not yet complete, and those complete
(R89, R99: a negative offset dates a hit after its edge). -/
def TdcCh.join (x : TdcCh) (b : Blk) : TdcCh :=
  let mine (h : HitSt) : Bool := h.noBlock && b.covers h.at_
  let early := x.early.filter fun e => b.covers e.1
  let b1 : Blk := { b with taken := (x.open_.filter mine).length + early.length, hits := early.map (·.2) }
  { x with
    open_ := x.open_.map fun h => if mine h then { h with block := b.seq, noBlock := false } else h,
    early := x.early.filter fun e => !e.1.before b.start && !b.covers e.1, blocks := x.blocks ++ [b1] }

/-- Open a hit block; it takes the next value of the hit-block sequence (R99, R100). -/
def State.blockOpen (s : State) (c : Nat) (start : Stamp) (stop head : Tm) (cont deck : Bool) : State :=
  let b : Blk := {
    start := start, stop := stop, head := head, seq := s.seqOf 0x01, cont := cont,
    stale := s.flag P.TDC_CAL_STATUS_STALE c, cut := false, due := stop + s.blockWait c, taken := 0, hits := [],
    sent := false, deck := deck }
  (s.takeSeq 0x01).modTd c fun x => if cont then { x with blocks := x.blocks ++ [b] } else x.join b

/-- Open a block for every channel with FAST_CFG.ENABLE = 1, in channel order, for the interval that starts at an instant (R99). -/
def State.blocksOpen (s : State) (at_ : Stamp) : State :=
  let s1 := { s with tdc := { s.tdc with interval := some at_ } }
  s1.each ((upTo 256).filter fun c => s.flag P.FAST_CFG_ENABLE c) fun s c =>
    s.blockOpen c at_ (s.intervalEnd at_.tb) at_.tb false (s.flag P.DECK_CH_CFG_ENABLE c && s.deck.running)

/-- BLOCK_INTERVAL_START (R99): at a span or millisecond boundary. -/
def execBlockIntervalStart (t : Tm) (s : State) : Host.Outcome State Fault Refusal :=
  live t s fun s =>
    let due := s.time.now % msSt == 0 || s.time.now == s.time.last
    if s.acquiring && due && s.tdc.interval != some s.stamp then s.blocksOpen s.stamp else s

/-- A hit word (R96). -/
def hitWord (h : Hit) (c offset : Nat) : W64 :=
  BitVec.ofNat 64 (c + offset % 2 ^ 32 * 2 ^ 8 + h.tot * 2 ^ 40 + h.peak * 2 ^ 52 + b2n h.merged * 2 ^ 60
    + b2n h.coarse * 2 ^ 61 + b2n h.totSat * 2 ^ 62 + b2n h.peakSat * 2 ^ 63)

/-- The bytes of a word. -/
def wordBytes (w : W64) : List Byte := le 8 w.toNat

/-- The record of a hit block, with given hits (R100). -/
def State.blockRec (s : State) (c : Nat) (b : Blk) (hits : List BHit) : Rec :=
  let flags := 16 * b2n b.cont + 32 * b2n b.stale + 64 * b2n b.cut
  ⟨0x01, flags ||| s.uncomp, s.origin, b.start.epoch, b.head, b.seq,
    hits.flatMap fun h => wordBytes (hitWord h.hit c (h.hit.tb - b.head))⟩

/-- A block is emitted: the deck takes it, with the hits it keeps (R99, R152). -/
def State.blockEmit (s : State) (c : Nat) (b : Blk) : State :=
  if b.deck && s.flag P.DECK_STATUS_ONLINE 0 then
    { s with deck := { s.deck with blocks := s.deck.blocks ++ [(c, { b with hits := b.hits.filter (·.deck) })] } }
  else s

/-- HIT_BLOCK_EMIT (R99): E after its interval ended, or after its cut, the oldest block not yet emitted is emitted; a full
block that was emitted before is let go. -/
def execHitBlockEmit (t : Tm) (ch : Ch) (s : State) : Host.Outcome State Fault Refusal :=
  live t s fun s =>
    let s1 := s.modTd ch fun x => { x with blocks := x.blocks.filter fun b => !(b.sent && decide (b.due ≤ s.time.now)) }
    match (s1.td ch).blocks with
    | b :: bs =>
      if !b.sent && decide (b.due ≤ s.time.now) then (s1.modTd ch fun x => { x with blocks := bs }).blockEmit ch b else s1
    | [] => s1

/-- The block a hit belongs to, with a continuation opened where the last is full (R99). Answers the state and the block's
sequence. -/
def State.blockFor (s : State) (c : Nat) (at_ : Stamp) : State × Option Nat :=
  match ((s.td c).blocks.filter (·.covers at_)).getLast? with
  | none => (s, none)
  | some b =>
    if b.taken < 4096 then
      (s.modTd c fun x => { x with blocks := x.blocks.map fun y => if y.seq == b.seq then { y with taken := y.taken + 1 } else y }, some b.seq)
    else
      let q := s.seqOf 0x01
      let s1 := s.blockOpen c b.start b.stop at_.tb true b.deck
      (s1.modTd c fun x => { x with blocks := x.blocks.map fun y => if y.seq == q then { y with taken := 1 } else y }, some q)

/-- A block is open: its interval has not ended before an instant. -/
def Blk.openAt (b : Blk) (at_ : Stamp) : Bool := b.start.epoch == at_.epoch && decide (at_.tb < b.stop)

/-- An epoch change closes every open block with EPOCH_CUT, and new blocks open at the first core-clock edge of the new epoch
(R99, R100): `at_` is the cut in the old epoch, `new` that edge. -/
def State.epochCut (s : State) (at_ new : Stamp) : State :=
  let s1 := s.each (upTo 256) fun s c => s.modTd c fun x => { x with
    blocks := x.blocks.map fun b => if b.openAt at_ then { b with cut := true, stop := at_.tb, due := new.tb + s.blockWait c } else b }
  if s.acquiring then s1.blocksOpen new else s1

/-- After a step within the epoch the interval in progress ends at the next of its boundaries that occurs (R99, R322): `at_` is the
edge of the step in the old time, `new` in the new. -/
def State.blocksStep (s : State) (at_ new : Stamp) : State :=
  s.each (upTo 256) fun s c => s.modTd c fun x => { x with
    blocks := x.blocks.map fun b => if b.openAt at_ then
      { b with stop := s.intervalEnd new.tb, due := s.intervalEnd new.tb + s.blockWait c } else b }

/-! ### Hits (R88 to R98) -/

/-- The condition settings in force on a channel (R107). -/
def State.condOf (s : State) (c : Nat) : Cond := {
  kind := s.get P.COND_CFG_KIND c, lo := s.get P.COND_WIDTH_MIN c, hi := s.get P.COND_WIDTH_MAX c,
  high := s.get P.COND_RUNT_HIGH c, win := s.get P.COND_RUNT_WIN c, tmo := s.get P.COND_TIMEOUT_T c,
  unitUs := s.flag P.COND_TIMEOUT_UNIT c, slew := s.get P.COND_SLEW_S c, k := s.get P.COND_SLEW_K c }

/-- The condition settings in force on a channel at a stamp (R108). -/
def State.condAt (s : State) (c : Nat) (at_ : Stamp) : Cond :=
  match (s.td c).prev with
  | some (b, old) => if at_.before b then old else s.condOf c
  | none => s.condOf c

/-- Note an edge of a channel in every gauge that measures it (R101). -/
def Gauge.edgeAt (g : Gauge) (t : Tm) (stamped : Bool) : Gauge :=
  if g.skip + 1 < g.prescale then { g with skip := g.skip + 1 }
  else
    let g1 := { g with skip := 0, count := g.count + 1 }
    if stamped then { g1 with stamps := (g.count, t) :: g.stamps } else { g1 with lost := (g.count, t) :: g.lost }

/-- A hit of a channel counts to its conversion in progress, in the conversion's sampling interval (R50, R54). -/
def State.hitCount (s : State) (c : Nat) : State :=
  match (s.hk (c / 16)).run with
  | some k =>
    if k.input = c % 16 ∧ k.frozenAt = none ∧ k.seg ≤ s.time.now ∧ s.time.now < k.stop then
      s.modHk (c / 16) fun h => { h with run := some { k with hits := k.hits + 1 } }
    else s
  | none => s

/-- A new hit, with the raw stamp that its interpolator gave it, if any (R86, R88, R89). -/
def State.hitNew (s : State) (c : Nat) (stamp : Option Tm) : State :=
  let stamped := stamp.isSome
  let raw := stamp.getD (edge1 s.time.now - 512)
  let pin : Int := (raw : Int) - s.hitOffset c
  let at_ := s.stampAt pin
  let p := s.blockFor c at_
  let h : HitSt := {
    raw := raw, ready := edge2 s.time.now + 12 * ccSt, lead := edge1 s.time.now, at_ := at_, block := p.2.getD 0,
    noBlock := p.2.isNone, trail := none, tot := 0, merged := false, coarse := !stamped, totSat := false,
    deckPeak := s.get P.DECK_CH_CFG_DECK_PEAK c, snip := (Regs.word s.regs P.DECK_CH_CFG_SNIP_PEAK c).toNat,
    cond := s.condAt c at_ }
  let s1 := if stamped then p.1 else p.1.bump P.TDC_CNT_COARSE c
  let s2 := s1.modTd c fun x => { x with
    last := some s.time.now, open_ := x.open_ ++ [h], rate := x.rate + 1,
    judged := if h.cond.kind = 1 ∨ h.cond.kind = 2 ∨ h.cond.kind = 3 then x.judged ++ [{ CondHit.reset with hit := h }] else x.judged,
    edges := (pin.toNat, !stamped) :: x.edges.filter fun e => decide (s.time.now < e.1 + 2048 * ccSt) }
  (s2.hitCount c).each (upTo 8) fun s g =>
    if (s.gauge g).start.isSome && (s.gauge g).input == 0x10 && (s.gauge g).unit == c
    then s.modGauge g fun x => x.edgeAt at_.tb true else s

/-- Reopen the latest hit of a list: it takes the trailing edge that follows an absorbed edge (R88). -/
def mergeLast : List HitSt → List HitSt
  | [] => []
  | [h] => [{ h with merged := true, trail := none }]
  | h :: hs => h :: mergeLast hs

/-- LEADING_EDGE (R18, R37, R86, R88, R89, R92, R107): the raw edge, and the code that the interpolator's converter makes of it. A
disabled channel produces no hits. -/
def execLeadingEdge (t : Tm) (edge : ChEdge) (s : State) : Host.Outcome State Fault Refusal :=
  live t s fun s =>
    let s0 := s.modFeCh edge.ch fun f => { f with high := true }
    if !s.flag P.FAST_CFG_ENABLE edge.ch || s.abut then s0 else
    let now := s.time.now
    let s1 := s0.modTd edge.ch fun x => { x with quietFrom := now, quietDone := false }
    let merged := match (s.td edge.ch).last with | some l => decide (now < l + 3072) | none => false
    if merged then
      let s2 := s1.modPair edge.ch fun p => { p with a := p.a.abandon now, b := p.b.abandon now, edge := some now }
      (s2.modTd edge.ch fun x => { x with open_ := mergeLast x.open_ }).bump P.TDC_CNT_MERGED edge.ch
    else
      let r := s1.pairEdge edge.ch edge.code.toNat
      r.1.hitNew edge.ch r.2

/-- The threshold DAC takes a swapped DISC_THR that waited (R38). -/
def State.thrApply (s : State) (c : Nat) : State := s.modFeCh c fun f => { f with dac := none }

/-- Close the oldest hit of a list that has no trailing edge: its tot is the count of core-clock edges, and a hit whose tot has
reached 4,095 before the edge closes there with TOT_SAT (R97). -/
def closeHit (trail : Tm) : List HitSt → List HitSt
  | [] => []
  | h :: hs =>
    if h.trail.isNone then
      (if h.lead + 4095 * ccSt ≤ trail then { h with trail := some (h.lead + 4095 * ccSt), totSat := true, tot := 4095 }
       else { h with trail := some trail, totSat := false, tot := (edge1 trail - h.lead) / ccSt }) :: hs
    else h :: closeHit trail hs

/-- TRAILING_EDGE (R37, R38, R97): dates the end of the open hit, or only re-arms the discriminator. -/
def execTrailingEdge (t : Tm) (ch : Ch) (s : State) : Host.Outcome State Fault Refusal :=
  live t s fun s =>
    ((s.modFeCh ch fun f => { f with high := false }).modTd ch fun x => { x with
      open_ := closeHit s.time.now x.open_ }).thrApply ch

/-- TOT_SATURATE (R38, R97): the open hit closes at 4,095 cc. -/
def execTotSaturate (t : Tm) (ch : Ch) (s : State) : Host.Outcome State Fault Refusal :=
  live t s fun s =>
    match (s.td ch).open_.find? (·.trail.isNone) with
    | some h =>
      if h.lead + 4095 * ccSt ≤ s.time.now then
        (s.modTd ch fun x => { x with open_ := x.open_.map fun y =>
          if y.trail.isNone then { y with trail := some (y.lead + 4095 * ccSt), totSat := true, tot := 4095 } else y }).thrApply ch
      else s
    | none => s

/-- INTERPOLATOR_FREE (R87, R92): an interpolator that has finished is free, and the test conversion it held counts. -/
def execInterpolatorFree (t : Tm) (unit : Fin 271) (ip : Fin 2) (s : State) : Host.Outcome State Fault Refusal :=
  live t s fun s =>
    s.modPair unit fun p =>
      p.setIp ip ((p.ip ip).collect s.time.now)

/-- The log-coded peak of an amplitude: round(16 log₂ A) (R98). -/
def peakCode (a : Int) : Nat := if a < 1 then 0 else min 255 ((Nat.log2 (a.toNat ^ 32) + 1) / 2)

/-- The largest of a list of numbers. -/
def maxInt : List Int → Int
  | [] => 0
  | [x] => x
  | x :: xs => max x (maxInt xs)

/-- The instant that ends a hit's peak window: the trailing edge, or for a saturated hit the leading edge plus 4,095 cc (R98). -/
def HitSt.finish (h : HitSt) : Tm := if h.totSat then h.raw + 4095 * ccSt else h.trail.getD h.raw

/-- The peak window of a hit: its first sample number, and the samples whose sampling edges lie from 2 sc before the leading edge
to 2 sc before the trailing edge (R98). -/
def State.peakWindow (s : State) (c : Nat) (h : HitSt) : Int × Nat :=
  let n := s.firstEdge (c / 16) ((h.raw : Int) - (2 * scSt : Nat))
  (n, (s.firstEdge (c / 16) ((h.finish : Int) - (2 * scSt : Nat) + 1) - n).toNat)

/-- A closed hit is complete: its stamp is ready and the last sample of its window readable (R98). -/
def State.hitReady (s : State) (c : Nat) (h : HitSt) : Bool :=
  let w := s.peakWindow c h
  h.trail.isSome && decide (h.ready ≤ s.time.now) && (w.2 == 0 || s.readable (c / 16) (w.1 + w.2 - 1))

/-- The hit record that a completed hit leaves, from the samples of its window (R96, R98). -/
def State.hitOf (s : State) (c : Nat) (h : HitSt) (n : Int) (l : List Samp) : Hit :=
  ⟨h.at_.tb, h.tot, peakCode (maxInt (s.amps n l)), h.merged, h.coarse, h.totSat, s.anySat c n l⟩

/-- A completed hit leaves the open ones: it stands among the recent hits, for its condition, and in its block, or waits for the
block whose interval is still to come (R99, R107, R129). -/
def TdcCh.complete (x : TdcCh) (h : HitSt) (b : BHit) (now : Tm) (waits : Bool) : TdcCh := { x with
  open_ := x.open_.drop 1, recent := (h.at_.epoch, b.hit) :: x.recent.take 4096,
  judged := x.judged.map fun j => if j.hit.lead == h.lead then { j with hit := { h with tot := h.tot }, done := some now } else j,
  early := if h.noBlock && waits then x.early ++ [(h.at_, b)] else x.early,
  blocks := if h.noBlock then x.blocks else
    x.blocks.map fun y => if y.seq == h.block then { y with hits := y.hits ++ [b] } else y }

/-- A hit whose peak calls for a snippet is noted for the deck, where the deck takes its block (R153). -/
def State.snipWant (s : State) (c : Nat) (h : HitSt) (b : BHit) : State :=
  let taken := if h.noBlock then s.acquiring && s.flag P.DECK_CH_CFG_ENABLE c && s.deck.running
    else (s.td c).blocks.any fun y => y.seq == h.block && y.deck
  if b.deck && decide (P.DECK_CH_CFG_SNIP_PEAK.of (BitVec.ofNat 64 h.snip) ≤ b.hit.peak) && s.flag P.DECK_STATUS_ONLINE 0 && taken then
    { s with deck := { s.deck with want := s.deck.want ++ [(c, h.at_, h.snip)] } }
  else s

/-- A block that holds its 4,096th complete hit is emitted (R99). -/
def State.blockFull (s : State) (c : Nat) (h : HitSt) : State :=
  match (s.td c).blocks.find? fun y => y.seq == h.block && !y.sent && decide (4096 ≤ y.hits.length) with
  | some y =>
    if h.noBlock then s
    else (s.modTd c fun x => { x with
      blocks := x.blocks.map fun z => if z.seq == y.seq then { z with sent := true, hits := [] } else z }).blockEmit c y
  | none => s

/-- HIT_COMPLETE (R98, R99, R153): the oldest closed hit of the channel; `window` holds the shaper levels at the sampling edges of
its peak window. -/
def execHitComplete (t : Tm) (ch : Ch) (window : List Lvl) (s : State) : Host.Outcome State Fault Refusal :=
  live t s fun s =>
    match (s.td ch).open_ with
    | [] => s
    | h :: _ =>
      let w := s.peakWindow ch h
      if !s.hitReady ch h || window.length != w.2 then s else
      let hit := s.hitOf ch h w.1 (s.samplesFrom ch w.1 window)
      let b : BHit := ⟨hit, decide (h.deckPeak ≤ hit.peak), h.snip⟩
      let s1 := s.modTd ch fun x => x.complete h b s.time.now s.acquiring
      (((s1.snipWant ch h b).ringNote ch w.1 window)).blockFull ch h

/-! ### Calibration visits (R90 to R94) -/

/-- The temperature that a unit's visits follow: its tile's, or THERM_STATUS.TJ_MAX (R92, R94). -/
def State.unitTemp (s : State) (u : Nat) : Int :=
  if u < 256 then Tbl.get 0 s.pwr.sensors (u / 16) else s.int P.THERM_STATUS_TJ_MAX 0

/-- A unit's visit is due (R92, R94, R398). -/
def State.visitDue (s : State) (u : Nat) : Bool :=
  let p := s.pair u
  s.mbox.tdcAsk.contains u || (s.flag P.TDC_CAL_ENABLE 0 &&
    (match p.visited with
      | none => true
      | some v => decide (v + s.get P.TDC_CAL_EVERY 0 * secSt ≤ s.time.now)
          || decide ((s.get P.TDC_CAL_TEMP_DK 0 : Int) ≤ (s.unitTemp u - p.temp).natAbs)))

/-- The scope within which one unit is visited at a time: a tile, or the sequence of R94. -/
def visitScope (u : Nat) : Nat := if u < 256 then u / 16 else 16

/-- The units of a scope in their order (R92, R94). -/
def scopeUnits (k : Nat) : List Nat := if k < 16 then channelsOf k else (upTo 12).map (256 + ·)

/-- The unit whose visit is next in its scope: the first in order after the one last visited, and round again, that is due, whose
delay line is locked and whose start does not wait for the matrix (R92 to R94, R421). -/
def State.visitNext (s : State) (k : Nat) : Option Nat :=
  let l := scopeUnits k
  let last := Tbl.get 0 s.tdc.visitLast k
  ((l.filter fun u => decide (last ≤ u)) ++ l.filter fun u => decide (u < last)).find? fun u =>
    s.visitDue u && !(s.pair u).unlocked && !s.core.wait.any fun a => a.code == 2 && a.unit == u

/-- The pairs that the visit of a unit calibrates: its own, and after that of gauge inputs 0 to 2 the pair of TRIG_IN0, TRIG_IN1 or
PPS_IN (R94). -/
def visitPairs (u : Nat) : List Nat := if 256 ≤ u ∧ u < 259 then [u, u + 12] else [u]

/-- The interpolator begins a visit with nothing counted. -/
def Ip.visit (i : Ip) : Ip := { i with test := none, n := 0, sums := List.replicate 32 0, hist := [] }

/-- The visit of a unit begins (R92, R94). -/
def State.visitBegin (s : State) (u : Nat) (byHost : Bool) : State :=
  let s1 := { s with
    mbox := { s.mbox with tdcAsk := s.mbox.tdcAsk.filter (· != u) },
    tdc := { s.tdc with visitLast := Tbl.set 0 s.tdc.visitLast (visitScope u) (u + 1) } }
  let s2 := s1.each (visitPairs u) fun s p => s.modPair p fun p => { p with a := p.a.visit, b := p.b.visit }
  (s2.modPair u fun p => { p with visitAt := some s.time.now }).maintBegin 2 u byHost

/-- TDC_CAL_VISIT_START (R92, R94, R421): the next due unit of its sequence, where no other of it runs and the matrix permits. -/
def execTdcCalVisitStart (t : Tm) (unit : Fin 268) (s : State) : Host.Outcome State Fault Refusal :=
  live t s fun s =>
    let busy := s.core.run.any fun a => a.code == 2 && visitScope a.unit == visitScope unit
    if s.leased && !s.abut && s.visitNext (visitScope unit) == some unit.val && !busy then
      match s.maintJudge 2 unit with
      | .run | .suspend => s.visitBegin unit false
      | .defer => s.maintDefer 2 unit false
      | .interlock => s.maintRefuse 2
      | .busy => s
    else s

/-- The visit that covers a pair: its own, or that of gauge input 0 to 2 for TRIG_IN0, TRIG_IN1 and PPS_IN (R94). -/
def visitOf (u : Nat) : Nat := if u < 268 then u else 256 + (u - 268)

/-- Test conversions that an interpolator makes in a visit (R90, R91). -/
def State.testsDue (s : State) : Nat := fitTests + (if s.flag P.TDC_CAL_CD_EN 0 then densityTests else 0)

/-- Both interpolators of a pair have made their test conversions. -/
def State.pairDone (s : State) (u : Nat) : Bool := decide (s.testsDue ≤ (s.pair u).a.n) && decide (s.testsDue ≤ (s.pair u).b.n)

/-- Finished test conversions of a pair count (R90 to R92). -/
def State.pairCollect (s : State) (u : Nat) : State :=
  s.modPair u fun p => { p with a := p.a.collect s.time.now, b := p.b.collect s.time.now }

/-- The test conversions of a pair whose codes come together count, in turn on each interpolator (R90, R91). -/
def State.pairCount (s : State) (u : Nat) (a b : List (BitVec 12)) : State :=
  s.modPair u fun p => { p with a := p.a.countAll s.testsDue a, b := p.b.countAll s.testsDue b }

/-- Test conversions that a pair has made in a visit. -/
def State.testsMade (s : State) (u : Nat) : Nat := (s.pair u).a.n + (s.pair u).b.n

/-- Test conversions that no TEST_CONVERSION_START began and whose codes a visit's completion brings: they count where the visit
runs, no edge has come to its pairs since it began, and its time holds every conversion with 24 cc for each, DESIGN CHOICE (log
entry 114). -/
def State.visitCount (s : State) (u : Nat) (a b : List (BitVec 12)) (pair : List (BitVec 12 × BitVec 12)) : State :=
  let s1 := (s.pairCount u a b).each ((visitPairs u).drop 1) fun s p => s.pairCount p (pair.map (·.1)) (pair.map (·.2))
  match (s.pair u).visitAt with
  | some v =>
    let still := (visitPairs u).all fun p => (s.pair p).edge.all fun e => decide (e ≤ v)
    if still && decide (v + 24 * ccSt * ((visitPairs u).map s1.testsMade).sum ≤ s.time.now) then s1 else s
  | none => s

/-- What a visit has counted once every conversion that has finished counts (R90 to R92). -/
def State.visitMade (s : State) (u : Nat) (a b : List (BitVec 12)) (pair : List (BitVec 12 × BitVec 12)) : State :=
  (s.each (visitPairs u) State.pairCollect).visitCount u a b pair

/-- TEST_CONVERSION_START (R90 to R92, R94): in a visit, with both interpolators free and no edge in the last 24 cc; the trigger and
PPS pairs follow the gauge pair of their visit. `code` is what the interpolator's converter will deliver. -/
def execTestConversionStart (t : Tm) (unit : Fin 271) (test : TestCode) (s : State) :
    Host.Outcome State Fault Refusal :=
  live t s fun s0 =>
    let s := s0.pairCollect unit
    let p := s.pair unit
    let now := s.time.now
    let quiet := match p.edge with | some e => decide (e + 24 * ccSt ≤ now) | none => true
    let turn := (s.pair (visitOf unit)).visitAt.isSome && (unit.val < 268 || s.pairDone (visitOf unit))
    if turn && p.a.free now && p.b.free now && quiet && decide ((p.ip test.ip).n < s.testsDue) then
      s.modPair unit fun p => p.setIp test.ip { p.ip test.ip with stop := now + 24 * ccSt, test := some test.code.toNat }
    else s

/-- Stitches in 0.1 ps, rounded to the nearest. -/
def toTenthPs (d : Nat) : Nat := (d * 20000 + 3072) / 6144

/-- The largest deviation of a fit from a line, in 0.1 ps (R106): the line through its first and last mean code, DESIGN CHOICE
(log entry 89). -/
def inlOf (l : List Nat) : Nat :=
  let a : Int := l.getD 0 0
  let b : Int := l.getD 31 0
  if a = b then 0 else
  ((upTo 32).map fun j =>
    toTenthPs (roundDiv (-992 * ((l.getD j 0 : Int) - a) * (b - a).sign) (b - a).natAbs + 32 * j).natAbs).foldl max 0

/-- The interval d that the cumulative histogram of the density check gives each code that it holds (R91): the edges fall evenly in
(1,024, 2,048], so a code's d follows from the share of conversions below the middle of its bin, DESIGN CHOICE (log entry 89). -/
def densityDelays (total : Nat) (down : Bool) : Nat → Tbl Nat → List (Nat × Int)
  | _, [] => []
  | below, (code, k) :: r =>
    let share : Int := roundDiv ((2 * below + k) * 512 : Nat) (max 1 total)
    (code, if down then 1024 + share else 2048 - share) :: densityDelays total down (below + k) r

/-- The largest difference between a fit and the density transfer, in 0.1 ps (R91). -/
def cdDevOf (l : List Nat) (hist : Tbl Nat) : Nat :=
  let total := (hist.map (·.2)).sum
  ((densityDelays total (decide (l.getD 31 0 ≤ l.getD 0 0)) 0 hist).map fun x =>
    toTenthPs ((delayOf l x.1 : Int) - x.2).natAbs).foldl max 0

/-- The largest fit-to-density difference over the interpolators of the pairs that a visit calibrates (R91). -/
def State.visitDev (s : State) (u : Nat) : Nat :=
  ((visitPairs u).map fun p => max (cdDevOf (s.pair p).a.sums (s.pair p).a.hist) (cdDevOf (s.pair p).b.sums (s.pair p).b.hist)).foldl max 0

/-- A fitted transfer waits for the instant at which it takes effect (R92, R94). -/
def Pair.fitNow (p : Pair) : Pair := { p with a := { p.a with fit := p.a.sums }, b := { p.b with fit := p.b.sums }, fitted := true }

/-- What the completed visit of a channel shows (R91, R106). -/
def State.visitShow (s : State) (c : Nat) (cd fail : Bool) : State :=
  let p := s.pair c
  let s1 := ((s.put P.TDC_CAL_RESULT_INL_A c (satTo 8 (inlOf p.a.sums))).put P.TDC_CAL_RESULT_INL_B c (satTo 8 (inlOf p.b.sums))).bump
    P.TDC_CAL_STATUS_VISITS c
  let s2 := if cd then s1.put P.TDC_CAL_RESULT_CD_DEV c (satTo 8 (s.visitDev c)) else s1
  if fail then s2.putB P.TDC_CAL_STATUS_CD_FAIL c true else s2

/-- TDC_CAL_VISIT_COMPLETE (R90, R91, R94): every test conversion of the visit is made; the delay-line fit waits to take effect, and
the density check judges it. The codes are those of conversions that no TEST_CONVERSION_START began: of interpolators A and B of the
unit, and of A and B of the pair that follows it in the visit. -/
def execTdcCalVisitComplete (t : Tm) (unit : Fin 268) (codesA codesB : List (BitVec 12))
    (codesPair : List (BitVec 12 × BitVec 12)) (s : State) : Host.Outcome State Fault Refusal :=
  live t s fun s0 =>
    let s := s0.visitMade unit codesA codesB codesPair
    match (s.pair unit).visitAt with
    | none => s
    | some v =>
      if v + secSt < s.time.now || !(visitPairs unit).all s.pairDone then s else
      let cd := s.flag P.TDC_CAL_CD_EN 0
      let fail := cd && decide (s.get P.CD_TOL_TOL 0 < s.visitDev unit)
      let s1 := s.each (visitPairs unit) fun s p => s.modPair p Pair.fitNow
      let s2 := (s1.modPair unit fun p => { p with
        visitAt := none, visited := some s.time.now, temp := s.unitTemp unit }).maintEnd 2 unit
      let s3 := if unit.val < 256 then s2.visitShow unit cd fail else s2
      if fail then (s3.raise 157).log 0x0301 3 (le 2 unit) else s3

/-- TDC_CAL_VISIT_TIMEOUT (R92, R94): a visit not complete within 1 s is abandoned. -/
def execTdcCalVisitTimeout (t : Tm) (unit : Fin 268) (s : State) : Host.Outcome State Fault Refusal :=
  live t s fun s =>
    match (s.pair unit).visitAt with
    | some v =>
      if v + secSt ≤ s.time.now then (s.modPair unit fun p => { p with visitAt := none }).maintEnd 2 unit else s
    | none => s

/-- New transfers at a span boundary: those of channels and of the trigger and PPS pairs take effect, those of port pairs may from
now on (R92, R94). -/
def State.transfersAdopt (s : State) : State :=
  let l := (s.tdc.pair.filter fun e => e.2.fitted).map (·.1)
  let s1 := s.each (l.filter fun u => decide (264 ≤ u) && decide (u < 268)) fun s u => s.modPair u fun p => { p with ready := true }
  s1.each (l.filter fun u => decide (u < 256) || decide (267 < u)) State.transferAdopt

/-- TRANSFER_STALE (R93, R100): the transfer is older than 3 × EVERY; blocks whose interval is still open are marked. -/
def execTransferStale (t : Tm) (ch : Ch) (s : State) : Host.Outcome State Fault Refusal :=
  live t s fun s =>
    if s.flag P.TDC_CAL_STATUS_CAL_VALID ch
        && decide ((s.pair ch).fitAt + 3 * s.get P.TDC_CAL_EVERY 0 * secSt < s.time.now) then
      (s.putB P.TDC_CAL_STATUS_STALE ch true).modTd ch fun x => { x with
        blocks := x.blocks.map fun b =>
          if b.cut || b.start.epoch != s.time.epoch || decide (b.stop ≤ s.time.now) then b else { b with stale := true } }
    else s

/-- DLL_STATUS.LOCKED: every delay line is locked (R106). -/
def State.dllShow (s : State) : State := s.putB P.DLL_STATUS_LOCKED 0 ((upTo 268).all fun u => !(s.pair u).unlocked)

/-- DLL_LOCK_LOSS (R93, R94): the old transfer stays, visits stop, source 157. -/
def execDllLockLoss (t : Tm) (unit : Fin 268) (s : State) : Host.Outcome State Fault Refusal :=
  live t s fun s =>
    if (s.pair unit).unlocked then s else
    let s1 := (s.modPair unit fun p => { p with unlocked := true, visitAt := none }).maintEnd 2 unit
    let s2 := (((s1.dllShow).bump P.DLL_STATUS_LOSSES 0)).raise 157
    if unit.val < 256 then s2 else s2.log 0x0301 3 (le 2 unit)

/-- DLL_RELOCK (R93): visits resume. -/
def execDllRelock (t : Tm) (unit : Fin 268) (s : State) : Host.Outcome State Fault Refusal :=
  live t s fun s => (s.modPair unit fun p => { p with unlocked := false }).dllShow

/-! ### The gauge (R101 to R104) -/

/-- A gate length in stitches (R102). -/
def gateLen (code : Nat) : Nat := [1, 2, 5, 10, 20, 50, 100, 200, 500, 1000, 2000, 5000, 10000].getD code 10000 * msSt

/-- P of R102 in stitches. -/
def Gauge.nominal (g : Gauge) : Nat := g.prescale * g.period

/-- The source, edges and nominal period of a gauge input: what its stamps are stamps of. -/
def Gauge.source (g : Gauge) : List Nat := [g.input, g.unit, g.edge, g.prescale, g.period]

/-- GAUGE_STATUS.RUNNING of a gauge input: a gate is in progress (R106). -/
def State.gaugeRuns (s : State) (g : Nat) : Bool := (s.gauge g).start.any fun t0 => decide (t0 ≤ s.time.now)

/-- A gauge input adopts its settings and starts its next gate at the first aligned time from an instant on (R94, R102); stamps of
another source do not enter it (R103). -/
def State.gaugeArm (s : State) (g : Nat) (from_ : Tm) : State :=
  let s0 := s.transferAdopt (256 + g)
  let len := gateLen (s.get P.GAUGE_GATE_GATE g)
  let on := s.get P.GAUGE_SEL_INPUT g != 0
  let old := s.gauge g
  let x : Gauge := { old with
    start := if on then some (ceilDiv from_ len * len) else none, input := s.get P.GAUGE_SEL_INPUT g, unit := s.get P.GAUGE_SEL_UNIT g,
    edge := s.get P.GAUGE_SEL_EDGE g, prescale := s.get P.GAUGE_PRESCALE_PRESCALE g, gate := s.get P.GAUGE_GATE_GATE g,
    period := s.get P.GAUGE_PERIOD_NS_PERIOD_NS g * nsSt + s.get P.GAUGE_PERIOD_ST_PERIOD_ST g }
  s0.modGauge g fun _ => if x.source = old.source then x else { x with skip := 0, count := 0, stamps := [], lost := [] }

/-- The edges that a gauge input counts (R101): on a pin those that EDGE selects; on a lane's clock the rising ones, DESIGN CHOICE
(log entry 91). -/
def Gauge.counts (g : Gauge) (rising : Bool) : Bool := if g.input = 0x20 then rising else rising == (g.edge == 0)

/-- GAUGE_EDGE (R101): an edge of the pin or lane that the gauge measures, with the code of its interpolator; a channel's own stamps
enter with its hits. -/
def execGaugeEdge (t : Tm) (edge : GaugeIn) (s : State) : Host.Outcome State Fault Refusal :=
  live t s fun s =>
    let x := s.gauge edge.g
    if x.start.isNone || x.input == 0x10 || !x.counts edge.rising || s.abut then s else
    if x.skip + 1 < x.prescale then s.modGauge edge.g fun x => x.edgeAt s.time.now true
    else
      let r := s.pinEdge (256 + edge.g) edge.code.toNat
      r.1.modGauge edge.g fun x => x.edgeAt (r.2.getD s.time.now).toNat r.2.isSome

/-- What a gate's fit gives (R103); a gate with fewer than three stamps reports only N, and its other results read 0, DESIGN CHOICE
(log entry 92): N, freq, mean, sd, least and greatest residual, all in the record's units. -/
structure GateFit where
  n : Nat
  freq : Int
  mean : Int
  sd : Nat
  lo : Int
  hi : Int
  deriving DecidableEq, Repr

/-- Stitches, as a fraction a / b, in fs. -/
def toFs (a : Int) (b : Nat) : Int := roundDiv (a * 1000000) (3072 * b)

/-- The square root of a / b rounded to the nearest integer. -/
def sqrtRound (a b : Nat) : Nat := (Nat.sqrt (4 * a / max 1 b) + 1) / 2

/-- The least of a list of numbers. -/
def minInt : List Int → Int
  | [] => 0
  | [x] => x
  | x :: xs => min x (minInt xs)

/-- The least-squares fit of R103 over (n, e) pairs, in stitches, with nominal period `p`; `k` selects the stored stamps. -/
def gateFit (p k : Nat) (l : List (Int × Int)) : GateFit :=
  let n := l.length
  let s1 := (l.map (·.1)).sum
  let s2 := (l.map fun x => x.1 * x.1).sum
  let se := (l.map (·.2)).sum
  let sne := (l.map fun x => x.1 * x.2).sum
  let bd := (n : Int) * s2 - s1 * s1
  let bn := (n : Int) * sne - s1 * se
  if n < 3 ∨ bd ≤ 0 then ⟨n, 0, 0, 0, 0, 0⟩ else
  let den := (p : Int) * bd + bn
  let freq := if den = 0 then (0 : Int) else
    (if 0 < den then roundDiv (-(10 ^ 15 * bn)) den.toNat else roundDiv (10 ^ 15 * bn) (-den).toNat)
  let d := n * bd.toNat
  let r (x : Int × Int) : Int := x.2 * n * bd - se * bd - bn * (n * x.1 - s1)
  let rs := l.map r
  let stored := ((l.zipIdx 0).filter fun x => x.2 % max 1 k == 0).map fun x => r x.1
  let sq := (rs.map fun x => (x * x).toNat).sum
  ⟨n, freq, toFs se n, sqrtRound (sq * 1000000 * 1000000) (3072 * 3072 * d * d * (n - 2)), toFs (minInt stored) d, toFs (maxInt stored) d⟩

/-- The smallest power of two k with ⌈G / P⌉ / k ≤ 4,096 (R103), from `k` on. -/
def storeStep (m k : Nat) : Nat → Nat
  | 0 => k
  | f + 1 => if m ≤ 4096 * k then k else storeStep m (2 * k) f

/-- The stamps of a gate as (n, e) pairs, oldest first (R103). -/
def Gauge.residuals (g : Gauge) (t0 len : Nat) : List (Int × Int) :=
  let p := g.nominal
  let l := (g.stamps.filter fun x => decide (2 * t0 ≤ 2 * x.2 + p)).reverse
  match l with
  | [] => []
  | (c0, x0) :: _ =>
    let n0 := roundDiv ((x0 : Int) - t0) (max 1 p)
    (l.map fun x => let n : Int := n0 + ((x.1 : Int) - c0); (n, (x.2 : Int) - t0 - n * p)).filter fun y =>
      decide (0 ≤ y.1) && decide (y.1 * p < len)

/-- Prescaled edges of the gate counted and not stamped (R104). -/
def Gauge.missed (g : Gauge) (t0 len : Nat) : Nat :=
  (g.lost.filter fun x => decide (t0 ≤ x.2) && decide (x.2 < t0 + len)).length

/-- A signed value exceeds 32 bits. -/
def over32 (x : Int) : Bool := decide (x < -2147483648) || decide (2147483647 < x)

/-- The gauge result record of R104. -/
def State.gaugeRec (s : State) (g : Nat) (x : Gauge) (t0 : Tm) (f : GateFit) (missed flags : Nat) : Rec :=
  s.mkRec 0x08 flags ⟨s.time.epoch, t0⟩
    ([BitVec.ofNat 8 g, BitVec.ofNat 8 x.input] ++ le 2 x.unit ++ le 4 (satTo 32 f.n) ++ leInt 8 f.freq ++ leInt 8 f.mean
      ++ le 4 (satTo 32 f.sd) ++ le 4 (satSigned 32 f.lo) ++ le 4 (satSigned 32 f.hi) ++ le 4 (satTo 32 missed))

/-- GAUGE_GATE_END (R94, R102 to R104): the fit, the record, sources 88 and 89, and the next gate, at the first aligned time that
the time base still holds. -/
def execGaugeGateEnd (t : Tm) (g : Fin 8) (s : State) : Host.Outcome State Fault Refusal :=
  live t s fun s =>
    let x := s.gauge g
    match x.start with
    | none => s
    | some t0 =>
      let len := gateLen x.gate
      if s.time.now < t0 + len || s.abut then s else
      let k := storeStep (ceilDiv len (max 1 x.nominal)) 1 40
      let f := gateFit x.nominal k (x.residuals t0 len)
      let missed := x.missed t0 len
      let slew := s.flag P.TIME_STATUS_SLEWING 0 || decide (t0 < s.time.slewAt)
      let few := decide (f.n < 3)
      let sat := over32 f.lo || over32 f.hi || decide (2 ^ 32 ≤ f.sd)
      let flags := 16 * b2n sat + 32 * b2n (decide (0 < missed)) + 64 * b2n few + 128 * b2n slew
      let s1 := ((s.monEmit (s.gaugeRec g x t0 f missed flags)).put P.GAUGE_FREQ_FREQ g (unsgn 64 f.freq)).put
        P.GAUGE_MEAN_MEAN g (unsgn 64 f.mean)
      let s2 := ((s1.bump P.GAUGE_STATUS_GATES g).raise 88).raiseIf (flags != 0) 89
      let half := x.nominal / 2
      (s2.modGauge g fun x => { x with
        resultAt := some s.time.now, few := few,
        stamps := x.stamps.filter fun y => decide (t0 + len ≤ y.2 + half), lost := x.lost.filter fun y => decide (t0 + len ≤ y.2) }).gaugeArm
        g (max (t0 + len) s.stretchFrom)

/-- An epoch change abandons the gates in progress (R104). -/
def State.gaugesCut (s : State) : State :=
  s.each (upTo 8) fun s g =>
    match (s.gauge g).start with
    | none => s
    | some _ =>
      let s1 := if s.gaugeRuns g then (s.bump P.GAUGE_STATUS_ABANDONED g).raise 89 else s
      (s1.modGauge g fun x => { x with stamps := [], lost := [] }).gaugeArm g s.time.now

/-- Gates that abutment mode ended begin again at the next aligned time after it (R18, R102). -/
def State.gaugesResume (s : State) (b : Tm) : State :=
  s.each ((upTo 8).filter fun g => (s.gauge g).start.isNone && s.get P.GAUGE_SEL_INPUT g != 0 && !s.abut) fun s g => s.gaugeArm g b

end Sys2Proof.Machine
end

