-- ==== Sys2Proof/Machine/FabOps.lean ====
section
/-! DEFINITION. Operations on the fabric ports that several families share (chapter 11): VC0 frames and their routes, data
frames with credit and replay, and the splitting of records into frames. -/

namespace Sys2Proof.Machine

/-- Port `p`. -/
def State.fp (s : State) (p : Nat) : FabPort := Tbl.get FabPort.reset s.fab.port p
/-- Change port `p`. -/
def State.modFp (s : State) (p : Nat) (f : FabPort → FabPort) : State :=
  { s with fab := { s.fab with port := Tbl.mod FabPort.reset s.fab.port p f } }

/-- The state of a port (R287). -/
def State.portState (s : State) (p : Nat) : Nat := s.get P.FAB_PORT_STATUS_STATE p
/-- The active lanes of a port. -/
def State.portWidth (s : State) (p : Nat) : Nat := s.get P.FAB_PORT_STATUS_WIDTH p
/-- A port is up: it has lanes, and it is neither down nor training. -/
def State.portUp (s : State) (p : Nat) : Bool := decide (2 ≤ s.portState p) && decide (0 < s.portWidth p)
/-- The lane set of port `p`. -/
def State.portLane (s : State) (p : Nat) : PortLane := Tbl.get PortLane.reset s.lane.port p
/-- A re-stripe runs on a port: what arrives on it is discarded (R295, R296). -/
def State.striped (s : State) (p : Nat) : Bool := (s.portLane p).stripeAt.isSome
/-- A port carries traffic: up and not FOREIGN (R267). -/
def State.portCarries (s : State) (p : Nat) : Bool := s.portUp p && s.portState p != 6

/-! ### VC0 frames (R112, R113, R255) -/

/-- Bytes 0 to 21 of a VC0 frame (R112, R255). -/
def vc0Head (f : Vc0) : List Byte :=
  [BitVec.ofNat 8 (f.kind % 16 + 16 * b2n f.uncomp + 32 * b2n f.nohit + 64 * b2n f.ext + 128 * b2n f.coarse),
   BitVec.ofNat 8 f.group] ++ le 2 f.origin ++ le 2 f.epoch ++ le 6 f.timeNs ++ le 2 (f.stitch % 4096 + f.mult % 16 * 4096)
    ++ le 2 f.seq ++ le 2 f.dest ++ le 2 f.wait ++ [BitVec.ofNat 8 f.hops, BitVec.ofNat 8 (b2n f.spread)]

/-- The 24 bytes of a VC0 frame (R255). -/
def vc0Encode (f : Vc0) : List Byte := vc0Head f ++ le 2 (crc16 (vc0Head f))

/-- A received VC0 frame: four parts with one tag and a good CRC (R255). -/
def vc0Decode (p : Vc0Parts) : Option Vc0 :=
  let same := match p.tags with | t :: ts => ts.length == 3 && ts.all (· == t) | [] => false
  if same && p.bytes.length == 24 && crc16 (p.bytes.take 22) == field p.bytes 22 2 then
    let b0 := field p.bytes 0 1
    let w := field p.bytes 12 2
    some { kind := b0 % 16, uncomp := bitOf b0 4, nohit := bitOf b0 5, ext := bitOf b0 6, coarse := bitOf b0 7,
           group := field p.bytes 1 1, origin := field p.bytes 2 2, epoch := field p.bytes 4 2, timeNs := field p.bytes 6 6,
           stitch := w % 4096, mult := w / 4096, seq := field p.bytes 14 2, dest := field p.bytes 16 2,
           wait := field p.bytes 18 2, hops := field p.bytes 20 1, spread := bitOf (field p.bytes 21 1) 0 }
  else none

/-- The 64-bit value with given bits [47:0] that lies nearest a present time (R113). -/
def nearest48 (present low : Nat) : Nat :=
  let m := 2 ^ 48
  let base := present / m * m + low
  if base + m / 2 < present then base + m else if present + m / 2 < base ∧ m ≤ base then base - m else base

/-- The time of a trigger frame (R113). -/
def State.vc0Time (s : State) (f : Vc0) : Stamp :=
  ⟨f.epoch, nearest48 (tbNs s.time.now) f.timeNs * nsSt + f.stitch⟩

/-- The time a VC0 frame occupies a port of width `w`: four blocks (R253, R255). -/
def vc0Len (w : Nat) : Nat := 8448 * 4 / max 1 w

/-- Send a VC0 frame on a port: queued behind at most 15 others, or dropped with source 36 (R277, R281, R283). -/
def State.vc0Send (s : State) (p : Nat) (f : Vc0) : State :=
  if !s.portCarries p then s.bump P.FAB_PORT_DROP_VC0_DROPPED p else
  let len := vc0Len (s.portWidth p)
  let busy := max s.time.now (s.fp p).vc0Busy
  if 16 ≤ ceilDiv (busy - s.time.now) len then (s.bump P.FAB_PORT_DROP_VC0_DROPPED p).raise 36
  else
    let wait := satTo 16 (f.wait + (busy - s.time.now) / ccSt)
    (s.modFp p fun x => { x with vc0Busy := busy + len, tag := (x.tag + 1) % 64 }).emit (.vc0 p { f with wait := wait })

/-- The port towards the region of an address, or member of the own region, for VC0 (R271). -/
def State.vc0Entry (s : State) (dest : Nat) : Nat :=
  if dest = s.origin then 4
  else if dest / 256 = s.origin / 256 then
    (if dest % 256 < 255 then s.get P.FAB_MEMBER_ROUTE_PORT0 (dest % 256) else 7)
  else s.get P.FAB_REGION_ROUTE_PORT0 (dest / 256)

/-- The port towards an address for VC1 to VC3 (R271). -/
def State.dataEntry (s : State) (dest : Nat) : Nat :=
  if dest = s.origin then 4
  else if dest / 256 = s.origin / 256 then
    (if dest % 256 < 255 then s.get P.FAB_MEMBER_ROUTE_PORT (dest % 256) else 7)
  else s.get P.FAB_REGION_ROUTE_PORT (dest / 256)

/-- The tree child ports (R273). -/
def State.childPorts (s : State) : List Nat := (upTo 4).filter fun p => s.portState p == 4

/-- The device is the top of its region (R264, R273). -/
def State.isTop (s : State) : Bool :=
  s.isRoot || s.upPort == 7 || s.get P.FAB_PORT_STATUS_PEER_ADDR s.upPort / 256 != s.origin / 256

/-- Where a VC0 frame goes: output ports, local delivery, the SPREAD bit it leaves with (R271, R273). -/
def State.vc0Route (s : State) (dest : Nat) (spread : Bool) : List Nat × Bool × Bool :=
  let up := if s.upPort < 4 then [s.upPort] else []
  if dest = 0xFEFF then
    (if spread || s.isRoot then (s.childPorts, true, true) else (up, false, false))
  else if 0xFE ≤ dest / 256 then ([], false, false)
  else if dest % 256 = 0xFF ∧ dest / 256 = s.origin / 256 then
    (if spread || s.isTop then
      (s.childPorts.filter fun p => s.get P.FAB_PORT_STATUS_PEER_ADDR p / 256 == s.origin / 256, true, true)
    else (up, false, false))
  else
    let e := s.vc0Entry dest
    if e = 4 then ([], true, spread) else if e < 4 then ([e], false, spread) else ([], false, spread)

/-- Send a VC0 frame towards its destination (R271, R273). Answers the state and whether this device takes it too. -/
def State.vc0Forward (s : State) (f : Vc0) (inPort : Option Nat) : State × Bool :=
  let r := s.vc0Route f.dest f.spread
  let f' := { f with spread := r.2.2, hops := if inPort.isSome then satTo 8 (f.hops + 1) else f.hops }
  let s1 := r.1.foldl (fun s p => s.vc0Send p f') s
  if r.1.isEmpty && !r.2.1 then
    let s2 := match inPort with | some p => s1.bump P.FAB_PORT_DROP_DISCARDED p | none => s1
    (if 0xFE ≤ f.dest / 256 then s2 else s2.raise 38, false)
  else (s1, r.2.1)

/-- A VC0 frame arrives (R255, R262, R267, R281, R296, R297): none where it is discarded, as while the port re-stripes; UNCOMP is set where the port's hop delay is not
re-measured, before the first route set, and where its wait has saturated. -/
def State.vc0Arrive (s : State) (p : Nat) (parts : Vc0Parts) : State × Option Vc0 :=
  if !s.portCarries p then (s, none)
  else match if s.striped p then none else vc0Decode parts with
  | none => (s.bump P.FAB_PORT_DROP_VC0_DROPPED p, none)
  | some f => (s, some { f with uncomp := f.uncomp || (s.fp p).uncomp || !s.fab.routed || decide (0xFFFF ≤ f.wait) })

/-! ### Data frames (R256 to R259) -/

/-- The credit units of a frame of W payload words (R258). -/
def frameUnits (w : Nat) : Nat := ceilDiv (w + 2) 4

/-- The SOF body of a frame (R256). -/
def sofBody (f : Frame) : Nat :=
  f.vc % 4 + (f.payload.length - 1) % 32 * 4 + b2n f.first * 2 ^ 7 + b2n f.last * 2 ^ 8 + f.dest % 2 ^ 16 * 2 ^ 9
    + f.src % 2 ^ 16 * 2 ^ 25 + f.seq % 256 * 2 ^ 41 + f.kind % 16 * 2 ^ 49 + f.stream % 8 * 2 ^ 53

/-- The CRC-32C of a frame (R256). -/
def frameCrc (f : Frame) : Nat := crc32c (le 7 (sofBody f) ++ f.payload.flatMap wordBytes)

/-- The whole credit of a VC (R258): 16 KiB, 64 KiB, 64 KiB in units of 32 B. -/
def vcCredit (vc : Nat) : Nat := if vc = 1 then 512 else 2048

/-- Credit held on a VC. -/
def FabPort.credit (x : FabPort) (vc : Nat) : Nat := vcCredit vc - Tbl.get 0 x.used vc

/-- A frame may be sent now (R258, R259). -/
def FabPort.ready (x : FabPort) (f : Frame) : Bool :=
  decide (frameUnits f.payload.length ≤ x.credit f.vc) && decide (x.unacked.length < 127)

/-- Show the credit held (R287). -/
def State.showCredit (s : State) (p : Nat) : State :=
  (s.put P.FAB_PORT_CREDIT_VC2 p ((s.fp p).credit 2)).put P.FAB_PORT_CREDIT_VC3 p ((s.fp p).credit 3)

/-- Return credit and acknowledge on a port (R258). -/
def State.creditReturn (s : State) (p vc units : Nat) (nak : Bool) : State :=
  s.emit (.credit p ⟨vc, units, ((s.fp p).rxSeq + 255) % 256, nak, true⟩)

/-- Acknowledge on a port without credit (R258). -/
def State.ack (s : State) (p : Nat) : State := s.creditReturn p 0 0 false

/-- Credit of a frame that has left its buffer is returned, or withheld while the Seam withholds it on that port, which then
acknowledges alone (R195, R258). -/
def State.creditBack (s : State) (p vc units : Nat) : State :=
  if vc = 2 ∧ s.flag P.SEAM_IN_STATUS_BACKPRESSURED (p + 1) then
    (s.modFp p fun x => { x with owed := Tbl.mod 0 x.owed 2 (· + units) }).ack p
  else s.creditReturn p vc units false

/-- A forwarded frame leaves the buffer of the port it came in by; while a frame is queued, `seqRep` holds that port + 1. -/
def State.frameLeft (s : State) (f : Frame) : State :=
  if f.seqRep = 0 then s else s.creditBack (f.seqRep - 1) f.vc (frameUnits f.payload.length)

/-- Transmit a frame: it takes the next SEQ and credit and enters the replay buffer (R258, R259). -/
def State.frameSend (s0 : State) (p : Nat) (f : Frame) : State :=
  let s := s0.frameLeft f
  let q := (s.fp p).seq
  let f1 := { f with seq := q, seqRep := q }
  let f2 := { f1 with crc := BitVec.ofNat 32 (frameCrc f1) }
  let s1 := s.modFp p fun x => { x with
    seq := (q + 1) % 256, used := Tbl.mod 0 x.used f.vc (· + frameUnits f.payload.length),
    unacked := x.unacked ++ [(f2, s.time.now)] }
  ((s1.bump P.FAB_PORT_BYTES_TX p (8 * f.payload.length)).showCredit p).emit (.data p f2)

/-- The next frame a transmitter chooses (R252, R274): VC1 first, then VC2 and VC3 by weighted round robin; no VC waits for the
credit of another. -/
def State.nextFrame (s : State) (p : Nat) : Option (Frame × FabPort) :=
  let x := s.fp p
  let w2 := s.get P.FAB_PORT_CFG_VC2_WEIGHT p
  let w3 := s.get P.FAB_PORT_CFG_VC3_WEIGHT p
  let turn := if x.turn < w2 + w3 then x.turn else 0
  match match x.q1 with | f :: fs => if x.ready f then some (f, fs) else none | [] => none with
  | some (f, fs) => some (f, { x with q1 := fs })
  | none =>
    let two := match x.q2 with | f :: fs => if x.ready f then some (f, fs) else none | [] => none
    let three := match x.q3 with | f :: fs => if x.ready f then some (f, fs) else none | [] => none
    match two, three with
    | some (f, fs), none => some (f, { x with q2 := fs, turn := if turn < w2 then turn + 1 else 1 })
    | none, some (f, fs) => some (f, { x with q3 := fs, turn := if w2 ≤ turn then turn + 1 else w2 + 1 })
    | some (f, fs), some (g, gs) =>
      if turn < w2 then some (f, { x with q2 := fs, turn := turn + 1 }) else some (g, { x with q3 := gs, turn := turn + 1 })
    | none, none => none

/-- Send waiting frames while credit lasts, `n` of them. -/
def State.fabPump (s : State) (p : Nat) : Nat → State
  | 0 => s
  | n + 1 =>
    if !s.portCarries p then s else
    match s.nextFrame p with
    | none => s
    | some (f, x) => ((s.modFp p fun _ => x).frameSend p f).fabPump p n

/-- Frames waiting on a port. -/
def FabPort.waiting (x : FabPort) : Nat := x.q1.length + x.q2.length + x.q3.length

/-- Frames of a VC that wait on a port. -/
def FabPort.waits (x : FabPort) (vc : Nat) : List Frame := if vc = 1 then x.q1 else if vc = 2 then x.q2 else x.q3

/-- Queue frames on a port and send what credit allows. -/
def State.fabQueue (s : State) (p : Nat) (fs : List Frame) : State :=
  let s1 := s.modFp p fun x => fs.foldl (fun x f =>
    if f.vc = 1 then { x with q1 := x.q1 ++ [f] } else if f.vc = 2 then { x with q2 := x.q2 ++ [f] } else { x with q3 := x.q3 ++ [f] }) x
  s1.fabPump p (s1.fp p).waiting

/-- Words of a byte string, zero-padded (R14). -/
def toWords : List Byte → List W64
  | a :: b :: c :: d :: e :: f :: g :: h :: r => BitVec.ofNat 64 (ofLe [a, b, c, d, e, f, g, h]) :: toWords r
  | [] => []
  | r => [BitVec.ofNat 64 (ofLe r)]

/-- Cut words into frame payloads of at most 32. -/
def cutFrames : Nat → List W64 → List (List W64)
  | 0, _ => []
  | _ + 1, [] => []
  | n + 1, ws => ws.take 32 :: cutFrames n (ws.drop 32)

/-- The frames of one record or message (R256, R257). -/
def State.framesOf (s : State) (vc kind stream dest : Nat) (words : List W64) : List Frame :=
  let cuts := cutFrames (words.length / 32 + 1) words
  let n := cuts.length
  (cuts.zipIdx 0).map fun x =>
    ⟨vc, x.2 == 0, x.2 + 1 == n, dest, s.origin, 0, kind, stream, x.1, 0, 0⟩

/-- Send a record or message on a port; `ctx` is the destination context of the delivery word of KIND 0 (R256). -/
def State.fabSend (s : State) (p vc kind stream dest ctx : Nat) (bytes : List Byte) : State :=
  let words := toWords bytes
  let words := if kind = 0 then BitVec.ofNat 64 ctx :: words else words
  s.fabQueue p (s.framesOf vc kind stream dest words)

/-- A record from its bytes (R14). -/
def parseRec (bs : List Byte) : Option Rec :=
  let len := field bs 2 2 * 8
  if 24 ≤ len ∧ len ≤ bs.length then
    some ⟨field bs 0 1, field bs 1 1, field bs 4 2, field bs 6 2, field bs 8 8 * nsSt + field bs 16 4 % 4096, field bs 20 4,
      (bs.take len).drop 24⟩
  else none

/-- The key time of an item of which at least the header has arrived (R14). -/
def RxItem.key (x : RxItem) : Option Stamp :=
  if 3 ≤ x.words.length then
    let b := x.words.flatMap wordBytes
    some ⟨field b 6 2, field b 8 8 * nsSt + field b 16 4 % 4096⟩
  else none

/-- An item for a context's inbound source is discarded (R26, R277): its loss record stands at its key, or, where its header has not
arrived, before the next record. -/
def State.itemLost (s : State) (p : Nat) (x : RxItem) : State :=
  if (s.ctxOf x.ctx).state = 0 then s else
  match x.key with
  | some k => (s.takeSeq 0x06).modCtx x.ctx fun c => { c with inbound := c.inbound ++ [(s.origin, s.lossRec 0x09 p 1 k k.tb k.tb)] }
  | none => s.modCtx x.ctx fun c => { c with laneLoss := c.laneLoss ++ [p] }

/-- A port goes down (R275, R277, R295): frames unacknowledged or queued are discarded and counted, partial records are
discarded, source 32; a discarded item of a context stream leaves a loss record. -/
def State.portDown (s : State) (p : Nat) : State :=
  let x := s.fp p
  let n := x.unacked.length + x.waiting
  let lost := x.rx.filter fun r => r.kind == 0 && (r.stream == 3 || (r.stream == 4 && r.vc == 3))
  let s0 := (x.q1 ++ x.q2 ++ x.q3).foldl (fun (s : State) f => s.frameLeft f) s
  let s1 := s0.bump P.FAB_PORT_DROP_DISCARDED p n
  let s2 := s1.modFp p fun x => { FabPort.reset with tag := x.tag }
  let s3 := (s2.put P.FAB_PORT_STATUS_STATE p 1).put P.FAB_PORT_STATUS_WIDTH p 0
  let s4 := lost.foldl (fun s r => s.itemLost p r) s3
  (((s4.put P.FAB_PORT_CREDIT_VC2 p 0).put P.FAB_PORT_CREDIT_VC3 p 0).raise 32).emit (.control 0xFFFF [p, 0])

/-- A link comes up (R184, R258): full credit, counts restart. -/
def State.linkUp (s : State) (p : Nat) : State :=
  let s1 := s.modFp p fun x => { FabPort.reset with tag := x.tag }
  let s2 := { s1 with seam := { s1.seam with
    input := Tbl.mod SeamQ.reset s1.seam.input (p + 1) fun i => { i with recv := 0, marks := [] },
    up := Tbl.mod UpPort.reset s1.seam.up p fun u => { u with sent := 0, due := none } } }
  ((s2.showCredit p).raise 32).emit (.control 0xFFFF [p, 1])

end Sys2Proof.Machine
end

