-- ==== Sys2Proof/Machine/Seam.lean ====
section
/-! DEFINITION. The Seam, the Thimble, the egress queue and hem marks (chapter 08, R204): operations and commands. -/

namespace Sys2Proof.Machine

/-! ### The egress queue (R204) -/

/-- The egress queue's size. -/
def egressSize : Nat := 1572864

/-- Source `src` of context `c` delivers a record of the egress queue (R202, R203). -/
def State.egressWants (s : State) (c src : Nat) (k : CtxSrc) (q : QRec) : Bool :=
  k.on && (q.late == (src == 1)) &&
    (q.data.type != 0x02 || (s.get P.CTX_SRC_CLASSES c).testBit q.data.cls) &&
    (src == 1 || !(Stamp.before ⟨q.data.epoch, q.data.tb⟩ ⟨k.sinceEpoch, k.since⟩))

/-- The first record of the egress queue that a source still has to deliver. -/
def State.egressNext (s : State) (c src : Nat) : Option QRec :=
  let k := (s.ctxOf c).source src
  s.ctx.egress.find? fun q => decide (k.pos ≤ q.pos) && s.egressWants c src k q

/-- The read position of one source: the first byte it has not passed. -/
def State.egressPos (s : State) (c src : Nat) : Nat := ((s.egressNext c src).map (·.pos)).getD s.ctx.egressEnd

/-- The readers of the egress queue among the contexts: context, source, position. -/
def State.egressReaders (s : State) : List (Nat × Nat × Nat) :=
  s.ctx.c.flatMap fun e => ([0, 1].filter fun i => (e.2.source i).on).map fun i => (e.1, i, s.egressPos e.1 i)

/-- The up port reads the egress queue (R179). -/
def State.hasUp (s : State) : Bool := decide (s.get P.SEAM_CFG_UP_PORT 0 < 4)

/-- The oldest byte some reader has not passed (R204). -/
def State.egressFloor (s : State) : Nat :=
  (s.egressReaders.map (·.2.2)).foldl min (if s.hasUp then s.ctx.upPos else s.ctx.egressEnd)

/-- Free what every reader has passed, and show the queue (R204). -/
def State.egressTrim (s : State) : State :=
  let fl := s.egressFloor
  let keep := s.ctx.egress.filter fun q => decide (fl ≤ q.pos)
  let s1 := { s with ctx := { s.ctx with egress := keep } }
  let used := s.ctx.egressEnd - (match keep with | q :: _ => q.pos | [] => s.ctx.egressEnd)
  let s2 := (s1.put P.EGRESS_STATUS_USED_KIB 0 (kib used)).put P.EGRESS_STATUS_PEAK_KIB 0
    (max (s1.get P.EGRESS_STATUS_PEAK_KIB 0) (kib used))
  match if keep.isEmpty then none else s.egressReaders.find? fun r => r.2.2 == fl with
  | some r => (s2.put P.EGRESS_HOLDER_CONTEXT 0 r.1).putB P.EGRESS_HOLDER_VALID 0 true
  | none => s2.putB P.EGRESS_HOLDER_VALID 0 false

/-- Bytes of the egress queue in use. -/
def State.egressUsed (s : State) : Nat :=
  s.ctx.egressEnd - (match s.ctx.egress with | q :: _ => q.pos | [] => s.ctx.egressEnd)

/-- The egress queue has room for a whole record (R185). -/
def State.egressRoom (s : State) (r : Rec) : Bool := decide (s.egressUsed + r.bytes ≤ egressSize)

/-- The next record the up port's transmitter sends. -/
def State.upNext (s : State) : Option QRec := s.ctx.egress.find? fun q => decide (s.ctx.upPos ≤ q.pos)

/-- The main stream on a port. -/
def State.upOf (s : State) (p : Nat) : UpPort := Tbl.get UpPort.reset s.seam.up p
/-- Change the main stream on a port. -/
def State.modUp (s : State) (p : Nat) (f : UpPort → UpPort) : State :=
  { s with seam := { s.seam with up := Tbl.mod UpPort.reset s.seam.up p f } }

/-- The up port's transmitter takes records while its VC2 queue is empty, `n` of them (R179, R183, R189). -/
def State.upPump (s : State) : Nat → State
  | 0 => s
  | n + 1 =>
    let p := s.get P.SEAM_CFG_UP_PORT 0
    if !s.hasUp || !s.portCarries p || !(s.fp p).q2.isEmpty then s else
    match s.upNext with
    | none => s
    | some q =>
      let s1 := { s with ctx := { s.ctx with upPos := q.pos + q.data.bytes } }
      let s2 := if q.late then s1 else s1.modUp p fun x => { x with sent := x.sent + 1, lastSent := some ⟨q.data.epoch, q.data.tb⟩ }
      (s2.fabSend p 2 0 (if q.late then 1 else 0) (s.get P.FAB_PORT_STATUS_PEER_ADDR p) 0 q.data.encode).upPump n

/-- A record enters the egress queue whole (R185, R204). -/
def State.egressWrite (s : State) (r : Rec) (late : Bool) : State :=
  let q : QRec := ⟨s.ctx.egressEnd, r, late⟩
  let s1 := { s with ctx := { s.ctx with egress := s.ctx.egress ++ [q], egressEnd := s.ctx.egressEnd + r.bytes } }
  (s1.upPump s1.ctx.egress.length).egressTrim

/-! ### The late stream (R189) -/

/-- Move late records into the egress queue while there is room, `n` of them. -/
def State.lateFlush (s : State) : Nat → State
  | 0 => s
  | n + 1 =>
    match s.seam.late with
    | [] => s
    | r :: rs =>
      if s.egressRoom r then (({ s with seam := { s.seam with late := rs } }).egressWrite r true).lateFlush n else s

/-- A record enters the late stream with LATE; the record after a loss record carries LOSS (R25, R28, R189). -/
def State.lateEmit (s : State) (r : Rec) : State :=
  let r1 := r.withFlag (flLate + (if s.seam.lateNext then flLoss else 0))
  let s1 := { s with seam := { s.seam with late := s.seam.late ++ [r1], lateNext := r.type == 0x06 } }
  s1.lateFlush s1.seam.late.length

/-! ### A context's inbound source (R208) -/

/-- A record arrives for a context's inbound source, the loss records that wait for it first (R26, R208, R277). -/
def State.inboundPut (s : State) (c src : Nat) (r : Rec) : State :=
  if (s.ctxOf c).state = 0 then s else
  let s1 := (s.ctxOf c).laneLoss.foldl (fun (s : State) p =>
    (s.takeSeq 0x06).modCtx c fun x => { x with inbound := x.inbound ++ [(s.origin, s.lossRec 0x09 p 1 r.stamp r.tb r.tb)] }) s
  s1.modCtx c fun x => { x with inbound := x.inbound ++ [(src, r)], laneLoss := [] }

/-! ### Inputs -/

/-- Input `i`. -/
def State.si (s : State) (i : Nat) : SeamQ := Tbl.get SeamQ.reset s.seam.input i
/-- Change input `i`. -/
def State.modSi (s : State) (i : Nat) (f : SeamQ → SeamQ) : State :=
  { s with seam := { s.seam with input := Tbl.mod SeamQ.reset s.seam.input i f } }
/-- STATE of an input: 0 closed, 1 joining, 2 live, 3 frayed. -/
def State.inState (s : State) (i : Nat) : Nat := s.get P.SEAM_IN_STATUS_STATE i
/-- An input is live. -/
def State.inLive (s : State) (i : Nat) : Bool := s.inState i == 2

/-- The trigger horizon in stitches (R121). -/
def State.horizon (s : State) : Nat := s.get P.HORIZON_NS 0 * nsSt

/-- The hem of the local event input (R124, R181). -/
def State.hemLocal (s : State) : Stamp :=
  let h := s.backStamp s.horizon
  let run := match s.trg.run with | some x => [x.acc] | none => []
  let accs := ((run ++ s.trg.accs).filter fun a => !a.late).map (·.at_)
  (accs ++ s.trg.buf.map (·.stamp)).foldl Stamp.min h

/-- The hem of an input, where it has one (R181). -/
def State.hemOf (s : State) (i : Nat) : Option Stamp := if i = 0 then some s.hemLocal else (s.si i).hem

/-- The numbers of the inputs. -/
def seamInputs : List Nat := [0, 1, 2, 3, 4]

/-- On-die cells of an input. -/
def SeamQ.cells (x : SeamQ) : Nat := ((x.q.filter fun r => !r.spilled).map fun r => r.data.cells).sum

/-- Bytes of an input in spill. -/
def SeamQ.spillBytes (x : SeamQ) : Nat := ((x.q.filter (·.spilled)).map fun r => r.data.bytes).sum

/-- Bytes of an input in spill and not yet written. -/
def SeamQ.backlog (x : SeamQ) : Nat := ((x.q.filter fun r => r.spilled && !r.written).map fun r => r.data.bytes).sum

/-- An input has records in spill. -/
def SeamQ.spilling (x : SeamQ) : Bool := x.q.any (·.spilled)

/-- The reserve of an input in cells (R192). -/
def State.reserve (s : State) (i : Nat) : Nat := s.get P.SEAM_IN_CFG_RESERVE_KIB i * 16

/-- The shared pool in cells: 2,032 KiB less the reserves (R192). -/
def State.poolSize (s : State) : Nat := 32512 - (seamInputs.map s.reserve).sum

/-- Cells of the pool in use. -/
def State.poolUse (s : State) : Nat := (seamInputs.map fun i => (s.si i).cells - s.reserve i).sum

/-- A lag lane: a live input whose hem equals RP (R193). -/
def State.lag (s : State) (i : Nat) : Bool := s.inLive i && s.hemOf i == some s.seam.rp

/-- Spill can be written and read: memory service is on and no retraining suspends it (R195, R348, R352). -/
def State.spillOpen (s : State) : Bool := s.flag P.DDR_STATUS_ONLINE 0 && !(s.core.run.any fun a => a.code == 4)

/-- Bytes in spill. -/
def State.spillUsed (s : State) : Nat := (seamInputs.map fun i => (s.si i).spillBytes).sum

/-! ### Hem marks sent (R182, R183) -/

/-- The output hem (R182). -/
def State.outHem (s : State) : Stamp :=
  let held := seamInputs.flatMap fun i => (s.si i).q.map fun r => r.data.stamp
  let eg := (s.ctx.egress.filter fun q => !q.late && decide (s.ctx.upPos ≤ q.pos)).map fun q => q.data.stamp
  (held ++ s.seam.loss.map (·.stamp) ++ eg).foldl Stamp.min s.seam.rp

/-- Send a hem mark on a port, or keep it for the end of the minimum gap (R182, R183): flags 1 PROMPT, 2 CLOSE. -/
def State.markSend (s : State) (p flags : Nat) : State :=
  if 4 ≤ p ∨ s.portCarries p = false then s else
  let x := s.upOf p
  let soon := match x.lastMark with | some l => decide (s.time.now < l + s.get P.HEM_CFG_GAP 0 * hkSt) | none => false
  if soon then s.modUp p fun x => { x with due := some (flags ||| x.due.getD 0) }
  else
    let out := s.outHem
    let hem := if out.epoch = x.lastHem.epoch ∧ out.before x.lastHem = true then x.lastHem else out
    let r := s.mkRec 0x05 (16 * flags) hem (le 8 x.sent ++ [BitVec.ofNat 8 p] ++ List.replicate 7 0)
    let s1 := (s.takeSeq 0x05).fabSend p 1 0 2 (s.get P.FAB_PORT_STATUS_PEER_ADDR p) 0 r.encode
    s1.modUp p fun x => { x with
      lastMark := some s.time.now, lastHem := hem, due := none,
      lastSent := (match x.lastSent with | some k => if k.before hem then none else some k | none => none) }

/-- A prompt mark, as soon as the output hem passes the key of the last record sent (R182). -/
def State.markPrompt (s : State) : State :=
  let p := s.get P.SEAM_CFG_UP_PORT 0
  match (s.upOf p).lastSent with
  | some k => if s.hasUp && k.before s.outHem then s.markSend p 1 else s
  | none => s

/-! ### The release point and what the Seam shows -/

/-- Put a hem or RP into its two parameters. -/
def State.putStamp (s : State) (ns ep st : Fld) (i : Nat) (v : Stamp) : State :=
  ((s.put ns i (tbNs v.tb)).put ep i v.epoch).put st i (tbStitch v.tb)

/-- RP over the live inputs (R185). -/
def State.rpOf (s : State) : Stamp :=
  match (seamInputs.filter s.inLive).filterMap s.hemOf with
  | [] => s.seam.rp
  | h :: hs => let m := hs.foldl Stamp.min h; if m.before s.seam.rp then s.seam.rp else m

/-- Credit withheld on an input's port is returned (R195). -/
def State.creditFree (s : State) (i : Nat) : State :=
  if i = 0 then s else
  let n := Tbl.get 0 (s.fp (i - 1)).owed 2
  let s1 := s.modFp (i - 1) fun x => { x with owed := Tbl.set 0 x.owed 2 0 }
  if n = 0 then s else s1.creditReturn (i - 1) 2 n false

/-- Some head or late record waits for room in the egress queue (R185, R193). -/
def State.egressFull (s : State) : Bool :=
  let heads := (seamInputs.filterMap fun i => ((s.si i).q.head?).map (·.data)) ++ s.seam.loss.take 1
  (heads.any fun r => r.stamp.before s.seam.rp && !s.egressRoom r) || (s.seam.late.take 1).any fun r => !s.egressRoom r

/-- The spill region is full, or gone with memory service (R195, R352). -/
def State.spillFull (s : State) : Bool :=
  decide (s.seam.spillMib * 1048576 ≤ s.spillUsed) || !s.flag P.DDR_STATUS_ONLINE 0

/-- The non-lagging input with the most cells above its reserve (R193). -/
def State.displaceFrom (s : State) : Option Nat :=
  let cand := (seamInputs.filter fun i => !s.lag i && decide (s.reserve i < (s.si i).cells)).map fun i => (i, (s.si i).cells - s.reserve i)
  (cand.foldl (fun b c => match b with | none => some c | some x => if x.2 < c.2 then some c else some x) none).map (·.1)

/-- Judge backpressure of one input (R188, R195). -/
def State.pressure (s : State) (behind : Bool) (i : Nat) : State :=
  let spill := (s.si i).spilling
  let on := if s.lag i then s.egressFull && decide (s.poolSize ≤ s.poolUse) && (s.displaceFrom.isNone || s.spillFull)
    else behind && spill
  let was := s.flag P.SEAM_IN_STATUS_BACKPRESSURED i
  let s1 := s.putB P.SEAM_IN_STATUS_BACKPRESSURED i on
  if was && !on then (s1.modSi i fun x => { x with hemAt := s.time.now }).creditFree i else s1

/-- Show an input's occupancy. -/
def State.inShow (s : State) (i : Nat) : State :=
  let x := s.si i
  let s1 := (s.putB P.SEAM_IN_STATUS_LAG i (s.lag i)).putB P.SEAM_IN_STATUS_SPILLING i x.spilling
  let s2 := (s1.put P.SEAM_IN_OCC_BYTES i (64 * x.cells)).put P.SEAM_IN_SPILL_KIB i (kib x.spillBytes)
  match s2.hemOf i with
  | some h => s2.putStamp P.SEAM_IN_HEM_TIME_NS P.SEAM_IN_HEMX_EPOCH P.SEAM_IN_HEMX_STITCH i h
  | none => s2

/-- The local hem, RP, and what the inputs show (R181, R185). -/
def State.seamRp (s : State) : State :=
  let h0 := s.hemLocal
  let s0 := if (s.si 0).hem = some h0 then s else s.modSi 0 fun x => { x with hem := some h0, hemAt := s.time.now }
  let s1 := { s0 with seam := { s0.seam with rp := s0.rpOf } }
  (s1.putStamp P.SEAM_RP_TIME_NS P.SEAM_RPX_EPOCH P.SEAM_RPX_STITCH 0 s1.seam.rp).each seamInputs State.inShow

/-- The pool's watermark and what the Thimble shows (R193, R200). -/
def State.seamPool (s : State) : State :=
  let use := s.poolUse
  let wm := decide (s.poolSize * s.get P.SPILL_CFG_WM 0 ≤ use * 256)
  let s1 := ({ s with seam := { s.seam with wm := wm } }).raiseIf (wm && !s.seam.wm) 194
  (s1.put P.THIMBLE_STATUS_POOL_FREE_KIB 0 ((s1.poolSize - use) / 16)).put P.THIMBLE_STATUS_POOL_PEAK_KIB 0
    (max (s1.get P.THIMBLE_STATUS_POOL_PEAK_KIB 0) (ceilDiv use 16))

/-- Spill has fallen behind (R195, R348). -/
def State.spillBehind (s : State) : Bool :=
  s.spillFull || !s.spillOpen || decide (s.get P.SPILL_BP_KIB 0 * 1024 < (seamInputs.map fun i => (s.si i).backlog).sum)

/-- Backpressure of every input, sources 195 and 196 (R195). -/
def State.seamPress (s : State) : State :=
  let behind := s.spillBehind
  let filled := s.spillFull && decide (0 < s.spillUsed)
  let s1 := (s.put P.SPILL_STATUS_USED_MIB 0 (ceilDiv s.spillUsed 1048576)).each seamInputs fun s i => s.pressure behind i
  let pressed := seamInputs.any fun i => s1.flag P.SEAM_IN_STATUS_BACKPRESSURED i
  (({ s1 with seam := { s1.seam with pressed := pressed, full := filled } }).raiseIf (pressed && !s.seam.pressed) 195).raiseIf
    (filled && !s.seam.full) 196

/-- Since when the context that holds the oldest byte holds it of a full queue (R204). -/
def State.egressHold (s : State) : State :=
  let by_ := if s.egressFull && s.flag P.EGRESS_HOLDER_VALID 0 then some (s.get P.EGRESS_HOLDER_CONTEXT 0) else none
  let since := if by_ = none then none else if by_ = s.ctx.holdBy then s.ctx.holdFrom else some s.time.now
  let us := match since with | some t => satTo 16 ((s.time.now - t) / usSt) | none => 0
  ({ s with ctx := { s.ctx with holdFrom := since, holdBy := by_ } }).put P.EGRESS_HOLDER_HOLD_US 0 us

/-- The Seam after any change (R181, R182, R185, R193, R195). -/
def State.seamEval (s : State) : State := s.seamRp.seamPool.seamPress.egressHold.markPrompt

/-- The egress queue after a reader has moved (R195, R204). -/
def State.egressMoved (s : State) : State := let s1 := s.egressTrim; (s1.lateFlush s1.seam.late.length).seamEval

/-- Credit has come back on a port: where it is the up port, its transmitter goes on (R179, R204). -/
def State.upDrain (s : State) (p : Nat) : State :=
  if s.get P.SEAM_CFG_UP_PORT 0 = p ∧ s.upNext.isSome ∧ (s.fp p).q2.isEmpty then (s.upPump s.ctx.egress.length).egressMoved else s

/-! ### Admission (R193) -/

/-- Spill the last on-die record of a queue. -/
def spillLast (off : Nat) : List SRec → List SRec
  | [] => []
  | r :: rs =>
    if !r.spilled && rs.all (·.spilled) then { r with spilled := true, written := false, seg := off / 65472 } :: rs
    else r :: spillLast off rs

/-- The last on-die record of a queue. -/
def lastDie : List SRec → Nat := fun l => ((l.filter fun r => !r.spilled).getLast?.map fun r => r.data.bytes).getD 0

/-- Displace records until the pool has `need` free cells, `n` records at most (R193). -/
def State.displace (s : State) (need : Nat) : Nat → State
  | 0 => s
  | n + 1 =>
    if decide (need ≤ s.poolSize - s.poolUse) || s.spillFull then s else
    match s.displaceFrom with
    | none => s
    | some i => (s.modSi i fun x => { x with
        q := spillLast x.spillOff x.q, spillOff := x.spillOff + lastDie x.q }).displace need n

/-- Admit a main-stream record of an input (R193): reserve, pool, displacement, spill. -/
def State.takeIn (s : State) (i : Nat) (r : Rec) : State :=
  let x := s.si i
  let need := r.cells - (s.reserve i - min (s.reserve i) x.cells)
  let wmCells := s.poolSize * s.get P.SPILL_CFG_WM 0
  let count := (seamInputs.map fun j => (s.si j).q.length).sum
  let s1 := if s.lag i && !x.spilling then s.displace need count else s
  let fits := if s.lag i then decide (need ≤ s1.poolSize - s1.poolUse)
    else decide (need = 0) || (decide ((s.poolUse + need - 1) * 256 < wmCells) && decide (s.poolUse + need ≤ s.poolSize))
  let die := (!x.spilling && fits) || !s.flag P.DDR_STATUS_ONLINE 0
  let sr : SRec := if die then ⟨r, false, false, 0⟩ else ⟨r, true, false, x.spillOff / 65472⟩
  s1.modSi i fun x => { x with
    q := x.q ++ [sr], lastKey := r.key, spillOff := if die then x.spillOff else x.spillOff + r.bytes }

/-- A record of an input goes to the late stream (R186, R188, R189). -/
def State.inLate (s : State) (i : Nat) (r : Rec) : State :=
  let frayed := s.inState i == 3
  let first := frayed && !(s.si i).frayTold
  let s1 := (s.lateEmit r).bump P.SEAM_IN_COUNTS_LATE i
  let s2 := if frayed then s1.modSi i fun x => { x with frayLate := x.frayLate + 1, frayTold := true } else s1
  s2.raiseIf first 198

/-- A record arrives at an input (R184, R186, R188, R189, R193). One in flight to an input that was disabled before it was live goes
late until the CLOSE mark (R180, R184). -/
def State.seamArrive (s0 : State) (i : Nat) (r : Rec) : State :=
  let s := if s0.inState i = 0 ∧ (s0.si i).closing = false ∧ r.flags.testBit 1 = false then
    s0.modSi i fun x => { x with recv := x.recv + 1 } else s0
  if s.abut || (s.inState i == 0 && !(s.si i).closing) then s
  else if r.flags.testBit 1 then (s.lateEmit r).bump P.SEAM_IN_COUNTS_LATE i
  else
    let s1 := s.modSi i fun x => { x with recv := x.recv + 1 }
    let below := (match s.hemOf i with | some h => decide (0 < i) && r.stamp.before h | none => false)
      || keyLt r.key (s.si i).lastKey
    let s2 := if s.inState i = 3 ∨ s.inState i = 0 then s1.inLate i r
      else if below then ((s1.inLate i r).bump P.SEAM_ERR_PROMISE_BROKEN 0).raise 198
      else (s1.takeIn i r).bump P.SEAM_IN_RECS_COUNT i
    s2.seamEval

/-- A record of the event buffer has its place in key order: no accept still to be extracted, nor one that may yet arrive in
time, stands before it (R124, R178). -/
def State.placed (s : State) (r : Rec) : Bool :=
  let run := match s.trg.run with | some x => [x.acc] | none => []
  !(s.backStamp s.horizon).before r.stamp && !((run ++ s.trg.accs).any fun a => !a.late && a.at_.before r.stamp)

/-- SEAM_RECORD_ARRIVE (R178, R186, R193, R428): a main-stream record at an input. Input 0 takes the oldest record of the event
buffer, and only while it takes part and is not backpressured (R128, R195); space of the buffer returns for an event, not for a loss
record, which has space of its own (R128). -/
def execSeamRecordArrive (t : Tm) (input : SeamIn) (record : Rec) (s : State) : Host.Outcome State Fault Refusal :=
  live t s fun s =>
    if input.val = 0 then
      match s.trg.buf with
      | r :: rs =>
        if r = record ∧ s.placed r = true ∧ s.flag P.SEAM_IN_STATUS_BACKPRESSURED 0 = false ∧ s.abut = false
            ∧ s.inState 0 ≠ 0 then
          let p := s.flawNext 8
          ({ p.1 with trg := { p.1.trg with buf := rs, taken := p.1.trg.taken + (if r.type = 0x02 then r.bytes else 0) } }).seamArrive 0
            (if p.2 then r.withFlag flReduced else r)
        else s
      | [] => s
    else s.seamArrive input record

/-! ### Release (R185) -/

/-- The heads: input number (5: the Seam's own loss records), record, and whether it lies in spill. -/
def State.heads (s : State) : List (Nat × Rec × Bool) :=
  (seamInputs.filterMap fun i =>
    if s.inState i = 0 ∨ s.inState i = 2 then (s.si i).q.head?.map fun r => (i, r.data, r.spilled) else none)
  ++ (s.seam.loss.take 1).map fun r => (5, r, false)

/-- The head with the smallest key (R15, R185). -/
def leastHead : List (Nat × Rec × Bool) → Option (Nat × Rec × Bool)
  | [] => none
  | h :: hs => match leastHead hs with | none => some h | some g => if g.2.1.before h.2.1 then some g else some h

/-- SEAM_RELEASE (R25, R28, R185, R428): the smallest head below RP enters the egress queue, if it is on die and there is room; the
record after a loss record carries LOSS. -/
def execSeamRelease (t : Tm) (s : State) : Host.Outcome State Fault Refusal :=
  live t s fun s =>
    let s := s.seamEval
    if !s.flag P.SEAM_CFG_ENABLE 0 || s.abut then s else
    match leastHead s.heads with
    | none => s
    | some (i, r, spilled) =>
      if spilled || !(r.stamp.before s.seam.rp) || !s.egressRoom r then s else
      let p := if i = 5 then (s, false) else s.flawNext 6
      let s1 := if i = 5 then { s with seam := { s.seam with loss := s.seam.loss.drop 1 } }
        else p.1.modSi i fun x => { x with q := x.q.drop 1 }
      let r1 := r.withFlag ((if s.seam.lossNext then flLoss else 0) + (if p.2 then flReduced else 0))
      let s2 := { s1 with seam := { s1.seam with lossNext := r.type == 0x06 } }
      ((s2.egressWrite r1 false).bump P.SEAM_OUT_RELEASED 0).seamEval

/-! ### Hem marks received (R184) -/

/-- A hem mark arrives and waits for the records it counts. -/
def State.markReceive (s : State) (p : Nat) (r : Rec) : State :=
  if (s.inState (p + 1) = 0 && !(s.si (p + 1)).closing) || s.abut then s else
  s.modSi (p + 1) fun x => { x with marks := x.marks ++ [(⟨r.stamp, field r.body 0 8, r.flags.testBit 5⟩ : Mark)] }

/-- HEM_MARK_RECEIVE (R184). -/
def execHemMarkReceive (t : Tm) (port : Port) (mark : Rec) (s : State) : Host.Outcome State Fault Refusal :=
  live t s fun s => if mark.type = 0x05 then s.markReceive port mark else s

/-- An input leaves the live set with nothing lost: every record of it has arrived (R184). -/
def State.seamClose (s : State) (i : Nat) : State :=
  (s.put P.SEAM_IN_STATUS_STATE i 0).modSi i fun x => { x with hem := none, marks := [], closing := false, frayHem := none }

/-- HEM_MARK_APPLY (R184): the oldest waiting mark, once the records it counts have arrived. -/
def execHemMarkApply (t : Tm) (input : SeamIn) (s : State) : Host.Outcome State Fault Refusal :=
  live t s fun s =>
    match (s.si input).marks with
    | [] => s
    | m :: ms =>
      if (s.si input).recv < m.sent then s else
      let s1 := s.modSi input fun x => { x with marks := ms }
      let backward := match (s.si input).hem with | some h => m.hem.before h | none => false
      if backward then (s1.bump P.SEAM_ERR_HEM_REJECTED 0).raise 199
      else
        let moved := match (s.si input).hem with | some h => h.before m.hem | none => true
        let s2 := s1.modSi input fun x => { x with hem := some m.hem, hemAt := if moved then s.time.now else x.hemAt }
        (if m.close then s2.seamClose input else s2).seamEval

/-- HEM_MARK_PERIODIC (R182): at a multiple of the hem interval after the second. -/
def execHemMarkPeriodic (t : Tm) (s : State) : Host.Outcome State Fault Refusal :=
  live t s fun s =>
    let s1 := s.seamEval
    if s.time.now % secSt % (s.get P.HEM_CFG_INTERVAL_US 0 * usSt) == 0 && !s.abut then s1.markSend (s1.get P.SEAM_CFG_UP_PORT 0) 0
    else s1

/-- HEM_MARK_GAP_EXPIRE (R182): a mark that fell due within the gap is sent with the value now in force. -/
def execHemMarkGapExpire (t : Tm) (s : State) : Host.Outcome State Fault Refusal :=
  live t s fun s =>
    s.seamEval.each (upTo 4) fun s p =>
      match (s.upOf p).due with
      | some fl => s.markSend p fl
      | none => s

/-! ### Fraying, joining, closing (R188 to R191) -/

/-- The Seam places a loss record of its own (R191). -/
def State.seamLoss (s : State) (cause unit count : Nat) (key : Stamp) (first last : Tm) : State :=
  let r := s.lossRec cause unit count key first last
  let s1 := s.takeSeq 0x06
  { s1 with seam := { s1.seam with loss := s1.seam.loss ++ [r] } }

/-- FRAY_TIMEOUT (R188, R191): a live input whose hem has stood still for FRAY frays. -/
def execFrayTimeout (t : Tm) (input : SeamIn) (s : State) : Host.Outcome State Fault Refusal :=
  live t s fun s =>
    let s := s.seamEval
    let x := s.si input
    if s.inLive input && !s.abut && !s.flag P.SEAM_IN_STATUS_BACKPRESSURED input
        && decide (x.hemAt + s.get P.SEAM_IN_CFG_FRAY input * 100 * usSt ≤ s.time.now) then
      let hem := (s.hemOf input).getD s.seam.rp
      let s1 := ((s.put P.SEAM_IN_STATUS_STATE input 3).bump P.SEAM_IN_COUNTS_FRAYS input).raise 192
      let s2 := s1.modSi input fun x => { x with
        frayHem := some hem, frayLate := 0, frayTold := false, q := x.q.filter (·.spilled) }
      let s3 := (x.q.filter fun r => !r.spilled).foldl (fun s r => s.inLate input r.data) s2
      let s4 := s3.seamEval
      let s5 := s4.seamLoss 0x04 input 0 s4.seam.rp hem.tb hem.tb
      (if x.closing then s5.seamClose input else s5).seamEval
    else s

/-- An input joins at a boundary (R190, R191). -/
def State.seamJoin (s : State) (i : Nat) : State :=
  let ok := match s.hemOf i with | some h => !h.before s.seam.rp | none => false
  if (s.inState i == 1 || s.inState i == 3) && s.flag P.SEAM_IN_CFG_ENABLE i && ok then
    let x := s.si i
    let low := x.q.filter fun r => r.data.stamp.before s.seam.rp
    let s1 := s.modSi i fun x => { x with q := x.q.filter fun r => !r.data.stamp.before s.seam.rp, hemAt := s.time.now }
    let s2 := low.foldl (fun s r => s.inLate i r.data) s1
    let s3 := match x.frayHem with
      | some h => s2.seamLoss 0x04 i (s2.si i).frayLate s.seam.rp h.tb s.seam.rp.tb
      | none => s2
    ((s3.put P.SEAM_IN_STATUS_STATE i 2).modSi i fun x => { x with frayHem := none, frayLate := 0, frayTold := false }).raise 193
  else s

/-- The enable of an input as swapped at a boundary (R180, R184, R190): a port input that is disabled closes with its CLOSE mark, once
every record of it has arrived; one that is not live leaves at once, and its records in flight go late. Input 0 has no mark. -/
def State.seamEnable (s : State) (i : Nat) : State :=
  let st := s.inState i
  if s.flag P.SEAM_IN_CFG_ENABLE i then
    (if st = 0 then s.put P.SEAM_IN_STATUS_STATE i 1 else s).modSi i fun x => { x with closing := false }
  else if st = 0 then s
  else if i = 0 then s.seamClose 0
  else (if st = 2 then s else s.put P.SEAM_IN_STATUS_STATE i 0).modSi i fun x => { x with closing := true }

/-- At the boundary at which the up port moves, the input on the far side of the old one closes: a CLOSE mark goes to it (R180, R182).
A merge root that gets an up port sends it what it releases from then on (log entry 105). -/
def State.seamUp (s : State) : State :=
  let p := s.get P.SEAM_CFG_UP_PORT 0
  let s1 := if s.seam.upWas = p then s else s.markSend s.seam.upWas 2
  let s2 := { s1 with seam := { s1.seam with upWas := p } }
  if s.seam.upWas = 7 then { s2 with ctx := { s2.ctx with upPos := s2.ctx.egressEnd } } else s2

/-- What stands in the egress queue goes to the up port where its transmitter can take it (R179). -/
def State.upResume (s : State) : State :=
  if s.hasUp && s.upNext.isSome then (s.upPump s.ctx.egress.length).egressTrim else s

/-- The Seam at a span boundary: the up port, enables, then joins (R180, R190, R199). -/
def State.seamBoundary (s : State) : State :=
  let s1 := ((s.seamUp.upResume.each seamInputs State.seamEnable).seamEval).each seamInputs State.seamJoin
  let s2 := if s1.spillUsed = 0 then { s1 with seam := { s1.seam with spillMib := s1.get P.SPILL_CFG_SIZE_MIB 0 } } else s1
  s2.seamEval

/-! ### Spill (R195, R196) -/

/-- The oldest unwritten spilled records that `n` bytes hold whole are written; a record may span segments, and what is left of the
bytes belongs to the next one. -/
def writeSpill : List SRec → Nat → List SRec × Nat
  | [], _ => ([], 0)
  | r :: rs, n =>
    if !r.spilled || r.written then let p := writeSpill rs n; (r :: p.1, p.2)
    else if r.data.bytes ≤ n then let p := writeSpill rs (n - r.data.bytes); ({ r with written := true } :: p.1, p.2)
    else (r :: rs, n)

/-- SPILL_WRITE_COMPLETE (R195, R351): one 64 KiB segment of an input is released for read-back. -/
def execSpillWriteComplete (t : Tm) (input : SeamIn) (s : State) : Host.Outcome State Fault Refusal :=
  live t s fun s =>
    if s.spillOpen then
      let n := min 65472 ((s.si input).backlog - (s.si input).spillPart)
      ((s.ddrUse 2 true s.spillBase n).modSi input fun x =>
        let p := writeSpill x.q (x.spillPart + n)
        { x with q := p.1, spillPart := p.2 }).seamEval
    else s

/-- Replace the first spilled record of a queue. -/
def firstSpilled (f : SRec → List SRec) : List SRec → List SRec
  | [] => []
  | r :: rs => if r.spilled then f r ++ rs else r :: firstSpilled f rs

/-- SPILL_READBACK (R188, R195, R196): the oldest spilled record of an input returns on die, when its queue is below 64 KiB
and there is room; a frayed input's goes late. -/
def execSpillReadback (t : Tm) (input : SeamIn) (poison : Poison) (s : State) : Host.Outcome State Fault Refusal :=
  live t s fun s =>
    let x := s.si input
    match x.q.find? (·.spilled) with
    | none => s
    | some r =>
      let room := decide (r.data.cells ≤ (s.reserve input - min (s.reserve input) x.cells) + (s.poolSize - s.poolUse))
      if !s.spillOpen || !r.written || decide (65536 ≤ 64 * x.cells) || !room then s else
      let bad (s : State) : State := (s.bump P.SPILL_STATUS_POISON 0).raise 197
      let s := s.ddrUse 2 false s.spillBase r.data.bytes
      match poison with
      | .header =>
        let gone := x.q.filter fun y => y.spilled && y.seg == r.seg
        let s1 := s.modSi input fun x => { x with q := x.q.filter fun y => !(y.spilled && y.seg == r.seg) }
        let last := (gone.getLast?.map fun y => y.data.tb).getD r.data.tb
        (bad (s1.seamLoss 0x07 input gone.length r.data.stamp r.data.tb last)).seamEval
      | p =>
        let d := if p = .payload then r.data.withFlag flReduced else r.data
        let s1 := if s.inState input = 3 then
            (s.modSi input fun x => { x with q := firstSpilled (fun _ => []) x.q }).inLate input d
          else s.modSi input fun x => { x with q := firstSpilled (fun r => [{ r with data := d, spilled := false }]) x.q }
        (if p = .payload then bad s1 else s1).seamEval

/-! ### Abutment and service loss (R199, R352) -/

/-- On entry to abutment mode the Thimble and spill are discarded; on return every input joins anew (R199). -/
def State.seamAbut (s : State) : State :=
  let gone := seamInputs.flatMap fun i => (s.si i).q.map (·.data)
  let s1 := s.each seamInputs fun s i =>
    (s.modSi i fun x => { SeamQ.reset with recv := x.recv }).put P.SEAM_IN_STATUS_STATE i (if s.inState i = 0 then 0 else 1)
  match gone with
  | [] => { s1 with seam := { s1.seam with loss := [] } }
  | r :: rs => { s1 with seam := { s1.seam with
      lost := s1.seam.lost + gone.length, loss := [],
      lostFrom := (rs.map (·.stamp)).foldl Stamp.min r.stamp, lostTo := (rs.map (·.tb)).foldl max r.tb } }

/-- On return from abutment mode a loss record counts what was discarded (R199). -/
def State.seamReturn (s : State) : State :=
  if s.seam.lost = 0 then s else
  let s1 := s.seamLoss 0x04 0xFFFF s.seam.lost s.seam.lostFrom s.seam.lostFrom.tb s.seam.lostTo
  { s1 with seam := { s1.seam with lost := 0 } }

/-- Records in spill are lost with memory service: one loss record per affected input (R352). -/
def State.spillLost (s : State) : State :=
  (s.each seamInputs fun s i =>
    match (s.si i).q.filter (·.spilled) with
    | [] => s
    | r :: rs =>
      let last := (rs.getLast?.map fun y => y.data.tb).getD r.data.tb
      (s.modSi i fun x => { x with q := x.q.filter fun y => !y.spilled }).seamLoss 0x07 i (rs.length + 1) r.data.stamp r.data.tb last).seamEval

end Sys2Proof.Machine
end

