-- ==== Sys2Proof/Machine/Deck.lean ====
section
/-! DEFINITION. The rewind deck's writer, holds and sessions (chapter 07): operations, snippets and the write of an interval. -/

namespace Sys2Proof.Machine

/-! ### Accessors -/

/-- Session `i`. -/
def State.sess (s : State) (i : Nat) : Option Sess := Tbl.get none s.deck.sess i
/-- Set session `i`. -/
def State.setSess (s : State) (i : Nat) (x : Option Sess) : State :=
  let s1 := { s with deck := { s.deck with sess := Tbl.set none s.deck.sess i x } }
  s1.put P.DECK_STATUS_SESSIONS 0 ((s1.deck.sess.filter fun e => e.2.isSome).length)
/-- Hold `i`. -/
def State.holdOf (s : State) (i : Nat) : Hold := Tbl.get Hold.reset s.deck.hold i

/-- D, the data ring's size (R156, R341): what the region leaves beside the 128 MiB directory. -/
def State.deckSize (s : State) : Nat :=
  let usable := s.get P.DDR_STATUS_USABLE_GIB 0 * 1024
  let other := s.get P.DDR_MAP_FW_MIB 0 + s.get P.DDR_MAP_PRESS_MIB 0 + s.get P.CTX_DDR_AREA_SIZE_MIB 0 + s.seam.spillMib
  let region := if s.get P.DECK_REGION_SIZE_GIB 0 = 0 then usable - other else s.get P.DECK_REGION_SIZE_GIB 0 * 1024
  (region - 128) * 1048576

/-- C of R162 in MB/s for a speed code. -/
def deckCap (code : Nat) : Nat := 18000 + 1500 * code

/-- Channels whose blocks enter the deck (R152). -/
def State.deckChannels (s : State) : Nat :=
  ((upTo 256).filter fun c => s.flag P.FAST_CFG_ENABLE c && s.flag P.DECK_CH_CFG_ENABLE c).length

/-- A of R163: the allowance of one channel in an interval. -/
def deckAllow (capMb interval n : Nat) : Nat := 8 * ((capMb * 1000000 * interval / secSt - 56) / (8 * max 1 n))

/-- C of R162 now, in MB/s. -/
def State.deckCapNow (s : State) : Nat := if s.flag P.DDR_STATUS_ONLINE 0 then deckCap (s.get P.DDR_STATUS_SPEED 0) else 0

/-- DECK_CAP and DECK_ALLOW (R162, R163). -/
def State.deckRates (s : State) : State :=
  let cap := s.deckCapNow
  (s.put P.DECK_CAP_CAP 0 cap).put P.DECK_ALLOW_BYTES 0 (satTo 32 (deckAllow cap (min s.spanLen msSt) s.deckChannels))

/-! ### Lookup and retention (R158 to R160, R172) -/

/-- The directory entry of the span that holds a key. -/
def State.dirAt (s : State) (at_ : Stamp) : Option Dir := (s.deck.dir.filter fun d => !at_.before d.at_).getLast?

/-- The oldest offset not yet overwritten (R160). -/
def State.deckTail (s : State) : Nat := s.deck.woff - s.deck.sized

/-- A span is retained (R160). -/
def State.retained (s : State) (d : Dir) : Bool := decide (s.deckTail ≤ d.first)

/-- The oldest retained span. -/
def State.oldestDir (s : State) : Option Dir := s.deck.dir.find? s.retained

/-- The directory offset of the span that holds a key (R159): the write offset for a key at or past the write point. -/
def State.deckOffset (s : State) (at_ : Stamp) : Nat :=
  if !at_.before s.deck.wpoint then s.deck.woff else
  match s.dirAt at_ with
  | some d => d.first
  | none => (s.deck.dir.head?.map (·.first)).getD s.deck.woff

/-- A record belongs to an interval that reaches a key, or follows it. -/
def DRec.reaches (d : DRec) (at_ : Stamp) : Bool :=
  if d.data.epoch = at_.epoch then (if d.data.type = 0x01 then decide (at_.tb < d.stop) else decide (at_.tb ≤ d.data.tb))
  else decide (at_.epoch < d.data.epoch)

/-- The first record of an interval that starts at a key (R174). -/
def State.deckFirst (s : State) (at_ : Stamp) : Option DRec := s.deck.data.find? (·.reaches at_)

/-- The time that passed between two boundaries, across epochs as elapsed time (R160). -/
def State.deckGap (s : State) (a b : Stamp) : Nat :=
  if a.epoch = b.epoch then b.tb - a.tb else
  match s.deck.epochEnds.find? fun e => e.1.epoch == a.epoch with
  | some e => e.1.tb - a.tb + (if e.2.epoch = b.epoch then b.tb - e.2.tb else 0)
  | none => 0

/-- The time that passed along a list of instants. -/
def State.deckSpanTime (s : State) : List Stamp → Nat
  | a :: b :: r => s.deckGap a b + s.deckSpanTime (b :: r)
  | _ => 0

/-- Aligned spans of the present length that overlap [a, b). -/
def gridSpans (len a b : Nat) : Nat := if a < b then (b - 1) / len - a / len + 1 else 0

/-- The spans of an epoch that overlap [a, b) (R172). -/
def State.countSpans (s : State) (epoch a b : Nat) : Nat :=
  let ds := s.deck.dir.filter (·.at_.epoch == epoch)
  let held := (ds.filter fun d => decide (d.at_.tb < b) && decide (a < d.at_.tb + spanLenOf d.span)).length
  match ds.head?, ds.getLast? with
  | some x, some y =>
    held + gridSpans s.spanLen a (min b x.at_.tb) + gridSpans s.spanLen (max a (y.at_.tb + spanLenOf y.span)) b
  | _, _ => gridSpans s.spanLen a b

/-- DECK_OLDEST, DECK_OLDEST_EPOCH, DECK_DEPTH, DECK_WOFF, DECK_WPOINT (R160, R177). -/
def State.deckShow (s : State) : State :=
  let s1 := (s.put P.DECK_WOFF_OFFSET 0 s.deck.woff).put P.DECK_WPOINT_TIME_NS 0 (tbNs s.deck.wpoint.tb)
  match s1.oldestDir with
  | some d =>
    let depth := s1.deckSpanTime ((s1.deck.dir.filter s1.retained).map (·.at_) ++ [s1.deck.wpoint])
    ((s1.put P.DECK_OLDEST_TIME_NS 0 (tbNs d.at_.tb)).put P.DECK_OLDEST_EPOCH_EPOCH 0 d.at_.epoch).put P.DECK_DEPTH_MS 0
      (satTo 32 (depth / msSt))
  | none => s1

/-! ### Rewind reply records (R170) -/

/-- A rewind reply record. -/
def State.replyRec (s : State) (x : Sess) (kind status : Nat) (at_ : Stamp) (flags records : Nat) (toNs : Tm) : Rec :=
  s.mkRec 0x0A flags at_
    ([BitVec.ofNat 8 kind, BitVec.ofNat 8 status] ++ le 2 x.ctx ++ le 4 x.tag ++ le 8 (tbNs at_.tb) ++ le 2 (tbStitch at_.tb)
      ++ le 2 x.flags ++ le 4 records ++ le 8 (tbNs toNs) ++ le 2 (tbStitch toNs) ++ List.replicate 6 0)

/-- A record joins a session's reply: LOSS after a loss record of the reader or the deck (R169). -/
def State.replyAdd (s : State) (i : Nat) (r : Rec) (count : Bool) : State :=
  match s.sess i with
  | none => s
  | some x =>
    let r1 := if x.mark then r.withFlag flLoss else r
    let x1 := { x with mark := r.type == 0x06, sent := if count then x.sent + 1 else x.sent }
    if x.kind = 1 then s.setSess i (some { x1 with reply := x1.reply ++ [r1] })
    else if x.kind = 2 then (s.setSess i (some x1)).modCtx x.ctx fun c => { c with raw := c.raw ++ [r1] }
    else (s.setSess i (some x1)).modCtx x.ctx fun c => { c with reply := c.reply ++ [r1] }

/-! ### Holds (R173, R174) -/

/-- Show a hold. -/
def State.holdShow (s : State) (i state : Nat) : State :=
  let h := s.holdOf i
  let n := (s.deck.hold.filter fun e => e.2.used).length
  ((s.put P.HOLD_STATE_STATE i state).put P.HOLD_STATE_CONTEXT i (if state = 0 then 0 else h.ctx)).put P.DECK_STATUS_HOLDS 0 n

/-- Free a hold. -/
def State.holdFree (s : State) (i : Nat) : State :=
  (({ s with deck := { s.deck with hold := Tbl.set Hold.reset s.deck.hold i Hold.reset } }).holdShow i 0).put P.HOLD_POS_TIME_NS i 0

/-- The lowest free hold. -/
def State.freeHold (s : State) : Option Nat := (upTo 64).find? fun i => !(s.holdOf i).used

/-- Place a hold. -/
def State.holdPlace (s : State) (i ctx tag epoch start stop : Nat) (only : Bool) : State :=
  let s1 := { s with deck := { s.deck with hold := Tbl.set Hold.reset s.deck.hold i ⟨true, ctx, tag, epoch, start, stop, only⟩ } }
  s1.holdShow i 1

/-- The session that carries a hold. -/
def State.holdSess (s : State) (i : Nat) : Option (Nat × Sess) :=
  s.deck.sess.findSome? fun e => match e.2 with | some x => if x.hold = some i then some (e.1, x) else none | none => none

/-- The first unread byte of a hold's region: the session's read offset, where one has opened or is to open; of a hold-only hold
the first byte of its interval (R173, R174). -/
def State.holdPos (s : State) (i : Nat) : Nat :=
  match s.holdSess i with
  | some (_, x) => x.pos
  | none =>
    let h := s.holdOf i
    if h.only then ((s.deckFirst ⟨h.epoch, h.start⟩).map (·.pos)).getD s.deck.woff else s.deckOffset ⟨h.epoch, h.start⟩

/-- The time of the first unread record of a hold's region (R177): its start where that is not written yet. -/
def State.holdTime (s : State) (i : Nat) : Tm :=
  let h := s.holdOf i
  match s.deck.data.find? fun d => decide (s.holdPos i ≤ d.pos) with
  | some d => d.data.tb
  | none => if s.deck.wpoint.epoch = h.epoch then max h.start s.deck.wpoint.tb else h.start

/-- HOLD_POS of every hold in use (R177). -/
def State.holdsShow (s : State) : State :=
  s.each ((upTo 64).filter fun i => (s.holdOf i).used) fun s i => s.put P.HOLD_POS_TIME_NS i (tbNs (s.holdTime i))

/-! ### Sessions end (R170, R174) -/

/-- A session ends without a closing record; its hold is freed, and its context's next request may open. -/
def State.sessEnd (s : State) (i : Nat) : State :=
  match s.sess i with
  | none => s
  | some x =>
    let s1 := match x.hold with | some h => s.holdFree h | none => s
    let s2 := s1.setSess i none
    if x.kind = 0 then (s2.modCtx x.ctx fun c => { c with replyOn := false }) else s2

/-- A session closes with its closing record (R170). -/
def State.sessClose (s : State) (i status : Nat) (at_ : Stamp) (overtaken epochEnd : Bool) : State :=
  match s.sess i with
  | none => s
  | some x =>
    if x.kind = 0 then
      let r := s.replyRec x 2 status at_ (replyFlags x.truncated overtaken x.followed epochEnd false) x.sent x.stop
      ((s.takeSeq 0x0A).replyAdd i r false).sessEnd i
    else if x.kind = 1 then
      let s1 := match x.hold with | some h => s.holdFree h | none => s
      s1.setSess i (some { x with ended := true, hold := none })
    else s.sessEnd i

/-- A loss record of the reader in a session's reply. -/
def State.sessLoss (s : State) (i cause count : Nat) (key : Stamp) (first last : Tm) : State :=
  match s.sess i with
  | none => s
  | some x => (s.takeSeq 0x06).replyAdd i (s.lossRec cause x.ctx count key first last) true

/-- The writer's boundary whose span is the newest with all records written (R206). -/
def State.newestWritten (s : State) : Option Dir :=
  (s.deck.dir.filter fun d => !(s.deck.wpoint.before ⟨d.at_.epoch, d.at_.tb + spanLenOf d.span⟩)).getLast?

/-- A raw source moves to the newest written span after an overtaken session (R206). -/
def State.rawSkip (s : State) (i : Nat) (x : Sess) : State :=
  match s.newestWritten with
  | some d =>
    let s1 := if x.stop < d.at_.tb ∧ d.at_.epoch = x.epoch then
        s.sessLoss i 0x02 (s.countSpans x.epoch x.stop d.at_.tb) ⟨x.epoch, x.stop⟩ x.stop d.at_.tb
      else s
    s1.modCtx x.ctx fun c => { c with rawAt := some d.at_ }
  | none => s

/-- Keep the hit words of a block body whose hits lie in [a, b) (R96, R169). -/
def keepHits (head a b : Tm) : Nat → List Byte → List Byte
  | 0, _ => []
  | n + 1, l =>
    let w := l.take 8
    let x := head + field w 1 4
    (if a ≤ x ∧ x < b then w else []) ++ keepHits head a b n (l.drop 8)

/-- What a session delivers of a deck record (R169); none where it is not selected. -/
def Sess.select (x : Sess) (d : DRec) : Option Rec :=
  let r := d.data
  let masked := d.chan < 256 && x.mask.getLsbD d.chan
  let inside := decide (x.start ≤ r.tb) && decide (r.tb < x.stop)
  if r.epoch != x.epoch then none
  else match r.type with
    | 0x01 => if x.flags.testBit 0 && masked && decide (x.start < d.stop) && decide (d.from_ < x.stop)
        then some { r with body := keepHits r.tb x.start x.stop (r.body.length / 8) r.body } else none
    | 0x03 => if x.flags.testBit 1 && masked && inside then some r else none
    | 0x04 => if x.flags.testBit 2 && inside then some r else none
    | 0x06 => if masked && decide (field r.body 8 8 * nsSt < x.stop) && decide (x.start < (field r.body 16 8 + 1) * nsSt)
        then some r else none
    | _ => none

/-- The time of a session's first record not delivered (R174): the first of those that were overwritten, else the first still in
the deck, else the write point. -/
def State.sessLost (s : State) (x : Sess) : Tm :=
  let next := s.deck.data.findSome? fun d => if x.pos ≤ d.pos then (x.select d).map (·.tb) else none
  let after := if s.deck.wpoint.epoch = x.epoch then max s.deck.wpoint.tb x.at_ else if x.epoch < s.deck.wpoint.epoch then x.stop else x.at_
  min x.stop (max x.served (x.lostFrom.getD (next.getD after)))

/-- A session is overtaken (R174, R206): its loss record, its closing record, source 163. -/
def State.overtaken (s : State) (i : Nat) : State :=
  match s.sess i with
  | none => s
  | some x =>
    let from_ := s.sessLost x
    let s1 := s.sessLoss i 0x02 (s.countSpans x.epoch from_ x.stop) ⟨x.epoch, from_⟩ from_ x.stop
    let s2 := if x.kind = 2 then s1.rawSkip i x else s1
    ((s2.sessClose i 10 ⟨x.epoch, from_⟩ true false).bump P.DECK_COUNTS_OVERTAKEN 0).raise 163

/-- Judge every hold at a write that takes DECK_WOFF to `woff` (R173, R174). -/
def State.holdsJudge (s : State) (woff : Nat) : State :=
  s.each ((upTo 64).filter fun i => (s.holdOf i).used) fun s i =>
    let pos := s.holdPos i
    if pos + s.deck.sized < woff then
      match s.holdSess i with
      | some (j, _) => s.overtaken j
      | none => ((s.holdFree i).bump P.DECK_COUNTS_OVERTAKEN 0).raise 163
    else if s.get P.HOLD_STATE_STATE i = 1
        ∧ pos + s.deck.sized ≤ woff + s.get P.DECK_CFG_HOLD_WARN_GIB 0 * 1073741824 then
      (s.put P.HOLD_STATE_STATE i 2).raise 162
    else s

/-! ### The writer (R157 to R165) -/

/-- One hit with its snippet, as the writer ranks them (R164). -/
structure DeckUnit where
  hit : BHit
  snip : Option Rec
  deriving DecidableEq, Repr

/-- Bytes of a unit. -/
def DeckUnit.bytes (u : DeckUnit) : Nat := 8 + (match u.snip with | some r => r.bytes | none => 0)

/-- Unit `a` ranks before unit `b` (R164). -/
def DeckUnit.ranks (a b : DeckUnit) : Bool :=
  decide (b.hit.hit.tot < a.hit.hit.tot) || (a.hit.hit.tot == b.hit.hit.tot && decide (a.hit.hit.tb < b.hit.hit.tb))

/-- The longest run of top-ranked units that fits a budget (R164). -/
def fitUnits : List DeckUnit → Nat → List DeckUnit
  | [], _ => []
  | u :: us, n => if u.bytes ≤ n then u :: fitUnits us (n - u.bytes) else []

/-- The writer's work on one block: the records it yields, the budget left, hits dropped, hits and snippets written. -/
structure DeckOut where
  recs : List DRec := []
  left : Nat := 0
  drops : Nat := 0
  hits : Nat := 0
  snips : Nat := 0
  deriving DecidableEq, Repr

/-- Thin one block to its budget (R164, R165). -/
def State.thinBlock (s : State) (c : Nat) (b : Blk) (budget : Nat) : State × DeckOut :=
  let units : List DeckUnit := b.hits.map fun h =>
    ⟨h, s.deck.snips.find? fun r => r.epoch == b.start.epoch && r.tb == h.hit.tb && field r.body 0 1 == c⟩
  let ranked := sortBy DeckUnit.ranks units
  let kept := fitUnits ranked budget
  let gone := units.filter fun u => !kept.contains u
  let stay := units.filter fun u => kept.contains u
  let size := (stay.map DeckUnit.bytes).sum
  let snips := stay.filterMap (·.snip)
  let item (stop : Tm) (r : Rec) : DRec := ⟨0, r, c, stop, b.start.tb⟩
  let r := item b.stop (s.blockRec c b (stay.map (·.hit)))
  match gone with
  | [] => (s, ⟨r :: snips.map (fun x => item x.tb x), budget - size, 0, stay.length, snips.length⟩)
  | g :: gs =>
    let last := (gs.getLast?.map fun u => u.hit.hit.tb).getD g.hit.hit.tb
    let l := s.lossRec 0x01 c gone.length ⟨b.start.epoch, g.hit.hit.tb⟩ g.hit.hit.tb last
    let s1 := (s.takeSeq 0x06).bump P.DECK_CH_THIN_THINNED c gone.length
    let s2 := if s1.deck.thinTold then s1 else ({ s1 with deck := { s1.deck with thinTold := true } }).raise 161
    (s2, ⟨{ r with data := r.data.withFlag flReduced } :: item l.tb l :: snips.map (fun x => item x.tb x), budget - size, gone.length, stay.length, snips.length⟩)

/-- Work through the blocks of an interval; `left` is what a channel's earlier blocks left of its allowance. -/
def State.thinAll (s : State) (allow : Nat) (left : Tbl Nat) (acc : DeckOut) (thinned : List Nat) :
    List (Nat × Blk) → State × DeckOut × List Nat
  | [] => (s, acc, thinned)
  | (c, b) :: bs =>
    let budget := if b.cont then Tbl.get 0 left c - 24 else allow - 72
    let p := s.thinBlock c b budget
    let acc' : DeckOut := ⟨acc.recs ++ p.2.recs, 0, acc.drops + p.2.drops, acc.hits + p.2.hits, acc.snips + p.2.snips⟩
    p.1.thinAll allow (Tbl.set 0 left c p.2.left) acc' (if p.2.drops = 0 ∨ thinned.contains c then thinned else thinned ++ [c]) bs

/-- Records that carry LOSS after a loss record before them (R165). -/
def markLoss : Bool → List DRec → List DRec × Bool
  | m, [] => ([], m)
  | m, r :: rs =>
    let p := markLoss (r.data.type == 0x06) rs
    ((if m then { r with data := r.data.withFlag flLoss } else r) :: p.1, p.2)

/-- The first record read from a buffer with an uncorrectable word carries REDUCED (R428). -/
def reduceFirst : Bool → List DRec → List DRec
  | true, r :: rs => { r with data := r.data.withFlag flReduced } :: rs
  | _, l => l

/-- Change the directory entry being written. -/
def modLastDir (f : Dir → Dir) : List Dir → List Dir
  | [] => []
  | [d] => [f d]
  | d :: ds => d :: modLastDir f ds

/-- Write one record (R157, R174): sessions whose next record is overwritten note its time. -/
def State.deckPut (s : State) (d : DRec) : State :=
  let r := d.data
  let woff := s.deck.woff + r.bytes
  let gone := s.deck.data.filter fun q => decide (q.pos + s.deck.sized < woff)
  let note (e : Nat × Option Sess) : Nat × Option Sess :=
    match e.2 with
    | some x =>
      match if x.queued ∨ x.lostFrom.isSome then none else gone.find? fun q => decide (x.pos ≤ q.pos) && (x.select q).isSome with
      | some q => (e.1, some { x with lostFrom := some q.data.tb })
      | none => e
    | none => e
  { s with deck := { s.deck with
    woff := woff, sess := s.deck.sess.map note,
    data := (s.deck.data.filter fun q => !decide (q.pos + s.deck.sized < woff)) ++ [{ d with pos := s.deck.woff }],
    dir := modLastDir (fun d => { d with records := d.records + 1, bytes := d.bytes + r.bytes }) s.deck.dir,
    second := s.deck.second + r.bytes } }

/-- The span marker for the span that has ended (R155). -/
def State.markerRec (s : State) (d : Dir) (at_ : Stamp) : Rec :=
  s.mkRec 0x04 (16 * b2n d.thinned + 32 * b2n s.deck.first) at_
    ([BitVec.ofNat 8 d.span] ++ List.replicate 7 0 ++ le 4 (satTo 32 d.hits) ++ le 4 (satTo 32 d.drops)
      ++ le 4 (satTo 32 d.snips) ++ le 4 d.chans.length ++ le 8 d.bytes)

/-- The length code that stands for a stop of the writer among the boundaries it has not reached. -/
def writerStops : Nat := 8

/-- The writer reaches a boundary (R155, R158): the marker of the span before, and a directory entry of the span that starts;
none where the writer stops there. Answers the marker. -/
def State.spanStart (s : State) (b : Stamp × Nat) : State × List DRec :=
  let p : State × List DRec :=
    match if s.deck.idle then none else s.deck.dir.getLast? with
    | some old =>
      let m := s.markerRec old b.1
      let s1 := (s.takeSeq 0x04).putB P.DECK_STATUS_THINNING 0 old.thinned
      ({ s1 with deck := { s1.deck with first := false } }, [⟨0, m, 256, m.tb, m.tb⟩])
    | none => (s, [])
  let s2 := p.1
  let d : Dir := { Dir.reset with first := s2.deck.woff, at_ := b.1, span := b.2 }
  if b.2 = writerStops then ({ s2 with deck := { s2.deck with idle := true, thinTold := false } }, p.2)
  else ({ s2 with deck := { s2.deck with
    idle := false, thinTold := false, dir := (s2.deck.dir ++ [d]).drop (s2.deck.dir.length + 1 - 4194304) } }, p.2)

/-- The writer reaches several boundaries in turn. -/
def State.spanStarts (s : State) : List (Stamp × Nat) → State × List DRec
  | [] => (s, [])
  | b :: bs =>
    let p := s.spanStart b
    let q := p.1.spanStarts bs
    (q.1, p.2 ++ q.2)

/-- The oldest interval whose blocks wait for the writer, with its end. -/
def State.deckInterval (s : State) : Option (Stamp × Tm) :=
  s.deck.blocks.foldl (fun (o : Option (Stamp × Tm)) b =>
    match o with
    | none => some (b.2.start, b.2.stop)
    | some x => if b.2.start.before x.1 then some (b.2.start, b.2.stop) else some x) none

/-- Records join the data ring in order; each write is judged against the holds before it overwrites (R157, R174);
the deck writer is a source of the memory ahead of all others (R343). -/
def State.deckWrites (s : State) (recs : List DRec) : State :=
  let m := markLoss s.deck.mark recs
  let s1 := m.1.foldl (fun (s : State) r => (s.holdsJudge (s.deck.woff + r.data.bytes)).deckPut r)
    { s with deck := { s.deck with mark := m.2 } }
  s1.ddrUse 0 true (s.deckBase + s.deck.woff % max 1 s.deck.sized) (s1.deck.woff - s.deck.woff)

/-- A boundary with no block of an earlier interval left to write: its marker alone is written (R155). -/
def State.boundWrite (s : State) : State :=
  match s.deck.bounds with
  | [] => s
  | b :: bs =>
    let due := decide (s.place b.1 + (6144 * ccSt : Nat) ≤ s.time.now)
    let waits := s.tdc.ch.any fun c => c.2.blocks.any fun k => k.deck && !k.sent && k.start.before b.1
    if !due || waits || !s.flag P.DECK_STATUS_ONLINE 0 then s else
    let p := s.spanStart b
    let s1 := p.1.deckWrites p.2
    ({ s1 with deck := { s1.deck with bounds := bs, wpoint := if s1.deck.wpoint.before b.1 then b.1 else s1.deck.wpoint } }).deckShow.holdsShow

/-- A of R163 for the blocks of one interval: the channels they come from, the interval of the span they lie in, the cap. -/
def State.intervalAllow (s : State) (blks : List (Nat × Blk)) : Nat :=
  let span := match s.deck.dir.getLast? with | some d => spanLenOf d.span | none => s.spanLen
  deckAllow s.deckCapNow (min span msSt) (blks.map (·.1)).eraseDups.length

/-- DECK_WRITE_INTERVAL (R157, R163 to R165, R174): 6,144 cc after a block interval ends, its records are written in key
order. -/
def execDeckWriteInterval (t : Tm) (s : State) : Host.Outcome State Fault Refusal :=
  live t s fun s =>
    match s.deckInterval with
    | none => s.boundWrite
    | some (start, stop) =>
      let due := decide (s.endPlace ⟨start.epoch, stop⟩ + (6144 * ccSt : Nat) ≤ s.time.now)
      if !due || !s.flag P.DECK_STATUS_ONLINE 0 then s else
      let blks := s.deck.blocks.filter fun b => b.2.start == start
      let isIn (r : Rec) : Bool := r.epoch == start.epoch && decide (r.tb < stop)
      let rest (s : State) : State := { s with deck := { s.deck with
        blocks := s.deck.blocks.filter fun b => b.2.start != start, snips := s.deck.snips.filter fun r => !isIn r } }
      let dropped := match s.deck.floor with
        | some f => !(f.before ⟨start.epoch, stop⟩)
        | none => false
      if dropped then rest s else
      let flaw := s.flawNext 13
      let s := flaw.1
      let p0 := s.spanStarts (s.deck.bounds.filter fun b => !(start.before b.1))
      let p0 : State × List DRec :=
        ({ p0.1 with deck := { p0.1.deck with bounds := p0.1.deck.bounds.filter fun b => start.before b.1 } }, p0.2)
      let s1 := p0.1
      let allow := s1.intervalAllow blks
      let sorted := sortBy (fun (a b : Nat × Blk) => decide (a.1 < b.1) || (a.1 == b.1 && decide (a.2.seq < b.2.seq))) blks
      let p := s1.thinAll allow [] {} [] sorted
      let s2 := p.1.deckWrites (sortBy (fun (a b : DRec) => a.data.before b.data) (reduceFirst flaw.2 p.2.1.recs ++ p0.2))
      let s3 := { s2 with deck := { s2.deck with
        wpoint := ⟨start.epoch, stop⟩,
        dir := modLastDir (fun d => { d with
          hits := d.hits + p.2.1.hits, drops := d.drops + p.2.1.drops, snips := d.snips + p.2.1.snips,
          thinned := d.thinned || decide (0 < p.2.1.drops), chans := d.chans ++ p.2.2.filter fun c => !d.chans.contains c })
          s2.deck.dir } }
      (rest s3).deckShow.holdsShow

/-- The samples of a snippet: how many, and how many of them before the anchor (R153). -/
def snipShape (cfg : Nat) : Nat × Nat :=
  (if P.DECK_CH_CFG_SNIP_LONG.of (BitVec.ofNat 64 cfg) = 1 then 32 else 16, P.DECK_CH_CFG_SNIP_PRE.of (BitVec.ofNat 64 cfg))

/-- Samples packed in 13 bits each (R154). -/
def packSamples (l : List Samp) : Nat :=
  (l.zipIdx 0).foldl (fun a x => a + (x.1.code.toNat + 4096 * b2n x.1.range) * 2 ^ (13 * x.2)) 0

/-- The snippet record of a hit of channel `c` at stamp `at_`, from sample number `n` on (R154). -/
def State.snipRec (s : State) (c : Nat) (at_ : Stamp) (n : Int) (cfg : Nat) (l : List Samp) : Rec :=
  let sh := snipShape cfg
  let ue := l.any (·.ue)
  s.mkRec 0x03 (16 * b2n (s.anySat c n l) + 32 * b2n ue + (if ue then flReduced else 0)) at_
    ([BitVec.ofNat 8 c, BitVec.ofNat 8 sh.1, BitVec.ofNat 8 sh.2, 0] ++ le 4 (unsgn 32 (s.pinAt (c / 16) n - s.place at_))
      ++ le (if sh.1 = 32 then 56 else 32) (packSamples l))

/-- SNIPPET_READ (R70, R153, R154): a kept hit's snippet is read from the ring once its last sample is readable; `levels` are the
shaper levels at the sampling edges of its samples. -/
def execSnippetRead (t : Tm) (ch : Ch) (hitTb : Tm) (levels : List Lvl) (s : State) : Host.Outcome State Fault Refusal :=
  live t s fun s =>
    match s.deck.want.find? fun w => w.1 == ch.val && w.2.1.tb == hitTb with
    | none => s
    | some w =>
      let sh := snipShape w.2.2
      let n : Int := s.firstPin (ch / 16) (s.place w.2.1) - sh.2
      if levels.length != sh.1 || !s.readable (ch / 16) (n + sh.1 - 1) then s else
      let r := s.snipRec ch w.2.1 n w.2.2 (s.samplesFrom ch n levels)
      let s1 := (s.takeSeq 0x03).ringRead ch n levels
      { s1 with deck := { s1.deck with snips := s1.deck.snips ++ [r], want := s1.deck.want.filter (· != w) } }

/-! ### The deck starts, stops, is emptied (R155, R156, R176) -/

/-- ONLINE takes a value; a change raises source 160. The writer starts at the next span boundary (R488). -/
def State.deckOnline (s : State) (on : Bool) : State :=
  let s1 := { s with deck := { s.deck with
    running := on && s.deck.running, sized := if on && s.deck.woff == 0 then s.deckSize else s.deck.sized } }
  if s.flag P.DECK_STATUS_ONLINE 0 = on then s1 else (s1.putB P.DECK_STATUS_ONLINE 0 on).raise 160

/-- The sessions whose replies are not complete. -/
def State.openSess (s : State) : List Nat :=
  (s.deck.sess.filter fun e => match e.2 with | some x => !x.ended | none => false).map (·.1)

/-- The deck is emptied at a boundary (R156): sessions are overtaken, holds broken. -/
def State.deckEmpty (s : State) (at_ : Stamp) : State :=
  let s1 := s.each s.openSess State.overtaken
  let s2 := s1.each ((upTo 64).filter fun i => (s1.holdOf i).used) fun s i =>
    ((s.holdFree i).bump P.DECK_COUNTS_OVERTAKEN 0).raise 163
  let s3 := { s2 with deck := { s2.deck with
    data := [], dir := [], woff := 0, first := true, idle := false, floor := some at_, sized := s2.deckSize,
    bounds := s2.deck.bounds.filter fun b => !(b.1.before at_) } }
  s3.deckShow

/-- Sessions end with a loss record of cause 0x07 to their end when memory service stops (R176). -/
def State.sessLostAll (s : State) : State :=
  s.each s.openSess fun s i =>
    match s.sess i with
    | none => s
    | some x =>
      let from_ := s.sessLost x
      ((s.sessLoss i 0x07 (s.countSpans x.epoch from_ x.stop) ⟨x.epoch, from_⟩ from_ x.stop).sessClose i 0 ⟨x.epoch, from_⟩ false false)

/-- Abutment mode: the writer stops, sessions end without a closing record, holds are released (R176). -/
def State.deckAbut (s : State) : State :=
  let s1 := s.each ((s.deck.sess.filter fun e => e.2.isSome).map (·.1)) State.sessEnd
  let s2 := s1.each ((upTo 64).filter fun i => (s1.holdOf i).used) State.holdFree
  ({ s2 with deck := { s2.deck with blocks := [], snips := [], want := [], idle := true } }).deckOnline false

end Sys2Proof.Machine
end

