-- ==== Sys2Proof/Machine/DdrOps.lean ====
section
/-! DEFINITION. The areas of the DDR5 memory (R341) and reads and writes of their bytes. -/

namespace Sys2Proof.Machine

/-- The areas a range may lie in: 0 firmware, 1 press, 2 context (base and size). -/
def State.area (s : State) (k : Nat) : Nat × Nat :=
  if k = 0 then (0, s.fwSize) else if k = 1 then (s.pressBase, s.pressSize) else (s.ctxBase, s.ctxAreaSize)

/-- A range lies within an area. -/
def State.inArea (s : State) (k addr len : Nat) : Bool :=
  decide ((s.area k).1 ≤ addr) && decide (addr + len ≤ (s.area k).1 + (s.area k).2)

/-- What a byte of the areas that nothing has written reads as: 0 after start-up has cleared them (R339); after a change of
DDR_MAP the spec does not say (R341; log entry 57). -/
def State.ddrDefault (s : State) (addr : Nat) : Byte :=
  if s.ddr.remaps = 0 then 0 else Config.ddrUnwritten (s.ddr.remaps * 2 ^ 64 + addr)

/-- Read bytes. -/
def State.ddrRead (s : State) (addr len : Nat) : List Byte := readBytes s.ddrDefault s.ddr.mem addr len

/-- Write bytes; a write makes an access readable again. -/
def State.ddrWrite (s : State) (addr : Nat) (bs : List Byte) : State :=
  { s with ddr := { s.ddr with
    mem := writeBytes s.ddrDefault s.ddr.mem addr bs,
    bad := s.ddr.bad.filter fun a => !(decide (addr ≤ a) && decide (a + 64 ≤ addr + bs.length)) } }

end Sys2Proof.Machine
end

