-- ==== Sys2Proof/Machine/Operands.lean ====
section
/-! DEFINITION. The operand forms that commands carry as bytes: the status codes of R10 and the rewind descriptor of R166. -/

namespace Sys2Proof.Machine

/-! ### Status codes (R10) -/

/-- OK. -/
def stOk : Nat := 0
/-- PENDING. -/
def stPending : Nat := 1
/-- BAD_OPCODE. -/
def stBadOpcode : Nat := 2
/-- BAD_PARAM. -/
def stBadParam : Nat := 3
/-- BUSY. -/
def stBusy : Nat := 4
/-- LATE. -/
def stLate : Nat := 5
/-- LOOP_CLOSED. -/
def stLoopClosed : Nat := 6
/-- NO_SPACE. -/
def stNoSpace : Nat := 7
/-- DENIED. -/
def stDenied : Nat := 8
/-- CHECK_FAIL. -/
def stCheckFail : Nat := 9
/-- OVERTAKEN. -/
def stOvertaken : Nat := 10
/-- TAKEOVER_RETRY. -/
def stTakeover : Nat := 11
/-- NO_RESOURCE. -/
def stNoResource : Nat := 12
/-- TIMEOUT. -/
def stTimeout : Nat := 13
/-- INTERLOCK. -/
def stInterlock : Nat := 14
/-- UNSUPPORTED. -/
def stUnsupported : Nat := 15

/-! ### The rewind descriptor (R166) -/

/-- A rewind request. -/
structure Req where
  flags : Nat
  ctx : Nat
  epoch : Nat
  start : Tm
  stop : Tm
  startSt : Nat
  stopSt : Nat
  tag : Nat
  mask : BitVec 256
  deriving DecidableEq, Repr

/-- The request of a 64-byte descriptor. -/
def Req.parse (d : List Byte) : Req := {
  flags := field d 0 2 % 16, ctx := field d 2 2 % 1024, epoch := field d 4 2,
  start := field d 8 8 * nsSt + field d 6 2 % 4096, stop := field d 16 8 * nsSt + field d 24 2 % 4096,
  startSt := field d 6 2 % 4096, stopSt := field d 24 2 % 4096, tag := field d 28 4, mask := BitVec.ofNat 256 (field d 32 32) }

/-- The request delivers something: HITS, SNIPPETS or MARKERS. -/
def Req.delivers (r : Req) : Bool := r.flags % 8 != 0

/-- HOLD is set. -/
def Req.holds (r : Req) : Bool := r.flags.testBit 3

/-- The conditions of R167 that a request breaks at an instant. -/
def Req.bad (r : Req) (now : Stamp) : Bool :=
  decide (r.stop ≤ r.start) || decide (3600 * secSt < r.stop - r.start) || decide (3071 < r.startSt) || decide (3071 < r.stopSt)
    || decide (now.epoch < r.epoch) || (r.epoch == now.epoch && decide (now.tb + 10 * secSt < r.stop))
    || (r.flags % 4 != 0 && r.mask == 0) || r.flags == 0

end Sys2Proof.Machine
end

