-- ==== Sys2Proof/Machine/Trigger.lean ====
section
/-! DEFINITION. Trigger and capture (chapter 05): channel conditions, Truss groups, the trigger root, accepts and the event
extractor. -/

namespace Sys2Proof.Machine

/-! ### TRIG_OUT (R119) -/

/-- TRIG_OUTx is driven. -/
def State.trigOutOn (s : State) (x : Fin 2) : Bool :=
  if x = 0 then s.flag P.TRIG_OUT_CFG_EN0 0 else s.flag P.TRIG_OUT_CFG_EN1 0

/-- A pulse joins those of a ball, each from its start to its end, earliest first: one that starts while another runs extends it
to the later end (R119). -/
def addPulse (p : Tm × Tm) : List (Tm × Tm) → List (Tm × Tm)
  | [] => [p]
  | q :: r =>
    if p.2 < q.1 then p :: q :: r
    else if q.2 < p.1 then q :: addPulse p r
    else addPulse (min p.1 q.1, max p.2 q.2) r

/-- The pulses of TRIG_OUTx, running and to come. -/
def State.pulsesOf (s : State) (x : Nat) : List (Tm × Tm) := Tbl.get [] s.trg.trigOut x
/-- Set the pulses of TRIG_OUTx. -/
def State.setPulses (s : State) (x : Nat) (l : List (Tm × Tm)) : State :=
  { s with trg := { s.trg with trigOut := Tbl.set [] s.trg.trigOut x l } }

/-- A pulse on TRIG_OUTx for an event at an instant: 12 cc later (R119). -/
def State.trigPulse (s : State) (x : Fin 2) (at_ : Tm) : State :=
  if !s.trigOutOn x then s else
  let width := if x = 0 then s.get P.TRIG_OUT_CFG_WIDTH0 0 else s.get P.TRIG_OUT_CFG_WIDTH1 0
  let start := at_ + 12 * ccSt
  let s1 := s.setPulses x (addPulse (start, start + width * ccSt) (s.pulsesOf x))
  if (s.pulsesOf x).isEmpty then s1.drive (.trigOut x) true else s1

/-- The pulses that a primitive or accept starts. -/
def State.trigPulses (s : State) (out0 out1 : Bool) (at_ : Tm) : State :=
  let s1 := if out0 then s.trigPulse 0 at_ else s
  if out1 then s1.trigPulse 1 at_ else s1

/-- TRIG_OUT_PULSE_END (R119): the running pulse ends; the next one to come follows it. -/
def execTrigOutPulseEnd (t : Tm) (pin : Fin 2) (s : State) : Host.Outcome State Fault Refusal :=
  live t s fun s =>
    match s.pulsesOf pin with
    | q :: r =>
      if q.2 ≤ s.time.now then
        let s1 := (s.setPulses pin r).drive (.trigOut pin) false
        if r.isEmpty then s1 else s1.drive (.trigOut pin) true
      else s
    | [] => s

/-! ### The trigger root (R115 to R117) -/

/-- The device is a trigger root whose root logic runs (R115, R120). -/
def State.rootOn (s : State) : Bool := s.flag P.ROOT_CFG_ROOT 0 && !s.abut

/-- λ of R115: the VC0 path delay from an origin in stitches, by the port its frames come in; the hops that other devices
measured are free (log entry 19). -/
def State.pathDelay (s : State) (origin : Nat) (port : Nat) : Nat :=
  if origin = s.origin then 0
  else if s.get P.FAB_PORT_STATUS_PEER_ADDR port = origin then s.get P.FAB_PORT_DELAY_HOP port
  else s.get P.FAB_PORT_DELAY_HOP port + Config.farDelay origin (s.get P.FAB_TREE_ROUTE_SETS 0)

/-- A primitive arrives at the root logic (R115, R117, R281). -/
def State.rootTake (s : State) (f : Vc0) (arrival : Tm) (delay : Nat) : State :=
  if !s.rootOn then s else
  let eq := arrival + s.get P.ROOT_ALIGN_ALIGN 0 * ccSt
  let late := decide (eq < s.time.now + delay)
  let unc := f.uncomp || late
  let p : Prim := ⟨{ f with uncomp := unc }, s.vc0Time f, if late then s.time.now else eq - delay⟩
  let s1 := { s with trg := { s.trg with prims := s.trg.prims ++ [p] } }
  if unc then (s1.bump P.TRIG_UNCOMP_COUNT 0).raise 132 else s1

/-- PRIMITIVE_RECEIVE (R113, R115, R117, R255, R271, R281): a VC0 frame of kind 1 is forwarded or taken by the root logic; a
frame of a reserved kind is discarded. -/
def execPrimitiveReceive (t : Tm) (port : Port) (parts : Vc0Parts) (s : State) : Host.Outcome State Fault Refusal :=
  live t s fun s =>
    let a := s.vc0Arrive port parts
    match a.2 with
    | none => a.1
    | some f =>
      if f.kind != 1 then a.1 else
      let r := a.1.vc0Forward f (some port)
      if r.2 then r.1.rootTake f (s.time.now - f.wait * ccSt) (s.pathDelay f.origin port) else r.1

/-! ### Accepts received (R120, R123, R284) -/

/-- A loss record of the extractor or the gap check: in the local input at its key, or in the late stream where that key lies
below the local hem (R26). -/
def State.localLoss (s : State) (cause unit count : Nat) (key : Stamp) (first last : Tm) : State :=
  let r := s.lossRec cause unit count key first last
  let s1 := s.takeSeq 0x06
  if key.before s.hemLocal then s1.lateEmit r
  else { s1 with trg := { s1.trg with buf := insertBy Rec.before r s1.trg.buf } }

/-- Accepts outstanding (R123). -/
def State.outstanding (s : State) : Nat :=
  s.trg.accs.length + s.trg.deckWait.length + (if s.trg.run.isSome then 1 else 0)

/-- EXTRACT_STATUS.OUTSTANDING and PEAK. -/
def State.accShow (s : State) : State :=
  (s.put P.EXTRACT_STATUS_OUTSTANDING 0 s.outstanding).put P.EXTRACT_STATUS_PEAK 0
    (max (s.get P.EXTRACT_STATUS_PEAK 0) s.outstanding)

/-- Accept `a` stands before accept `b` in key order (R123). -/
def Acc.before (a b : Acc) : Bool := a.at_.before b.at_ || (a.at_ == b.at_ && decide (a.cls < b.cls))

/-- The accept-id check of one root (R284). -/
def State.gapCheck (s : State) (f : Vc0) (port : Nat) (at_ : Stamp) : State :=
  let set (s : State) : State :=
    { s with fab := { s.fab with baseline := Tbl.set none s.fab.baseline f.origin (some (f.seq, at_.tb)) } }
  match Tbl.get none s.fab.baseline f.origin with
  | none => set s
  | some (last, lastTb) =>
    let g := (f.seq + 65536 - last % 65536) % 65536
    if g = 0 ∨ 0x8000 ≤ g then s
    else if g = 1 then set s
    else (((set s).localLoss 0x09 port (g - 1) at_ lastTb at_.tb).bump P.FAB_ACCEPT_GAP_MISSED 0 (g - 1)).raise 36

/-- The device acts on an accept (R119, R120, R123, R126): ignored in abutment mode, of a disabled class, or as a duplicate of
one received in the last 8,192 sc; refused as the 65th. A duplicate does not itself begin another 8,192 sc: DESIGN CHOICE (log
entry 94). -/
def State.acceptTake (s : State) (f : Vc0) (arrival : Tm) : State :=
  if s.abut then s else
  let cls := f.group % 16
  let at_ := s.vc0Time f
  if !s.flag P.CLASS_CFG_ENABLE cls then s.bump P.ACCEPT_STATUS_IGNORED 0 else
  let seen := s.trg.seen.filter fun x => decide (arrival ≤ x.2.2 + 8192 * scSt)
  if seen.any fun x => x.1 == at_ && x.2.1 == cls then
    ({ s with trg := { s.trg with seen := seen } }).bump P.ACCEPT_STATUS_DUP 0
  else
    let s1 := { s with trg := { s.trg with seen := seen ++ [(at_, cls, arrival)] } }
    let s2 : State := if f.uncomp then (s1.bump P.TRIG_UNCOMP_COUNT 0).raise 132 else s1
    let s3 : State := s2.trigPulses (s.flag P.CLASS_CFG_OUT0 cls) (s.flag P.CLASS_CFG_OUT1 cls) arrival
    if 64 ≤ s3.outstanding then
      ((s3.localLoss 0x05 cls 1 at_ at_.tb at_.tb).bump P.EXTRACT_STATUS_REFUSED 0).raise 128
    else
      let a : Acc := {
        Acc.reset with
        at_ := at_, cls := cls, id := f.seq, root := f.origin, uncomp := f.uncomp, ext := f.ext, arrival := arrival,
        late := at_.before (s.stampAt ((arrival : Int) - s.horizon)) }
      ({ s3 with trg := { s3.trg with accs := insertBy Acc.before a s3.trg.accs } }).accShow

/-- ACCEPT_RECEIVE (R113, R120, R255, R271, R284): a VC0 frame of kind 2 is forwarded and acted on. -/
def execAcceptReceive (t : Tm) (port : Port) (parts : Vc0Parts) (s : State) : Host.Outcome State Fault Refusal :=
  live t s fun s =>
    let a := s.vc0Arrive port parts
    match a.2 with
    | none => a.1
    | some f =>
      if f.kind != 2 then a.1 else
      let r := a.1.vc0Forward f (some port)
      if r.2 && !s.abut then (r.1.gapCheck f port (s.vc0Time f)).acceptTake f s.time.now else r.1

/-! ### Accepts emitted (R116, R118) -/

/-- Where accepts go (R116): 0xFFFF stands for the broadcast member of the root's own region. -/
def State.acceptDest (s : State) : Nat :=
  let d := s.get P.ROOT_ALIGN_ACCEPT_DEST 0
  if d = 0xFFFF then s.origin / 256 * 256 + 0xFF else d

/-- The device emits an accept at an instant and acts on it itself (R116, R118, R119; log entry 18). -/
def State.acceptEmit (s : State) (cls : Nat) (at_ : Stamp) (uncomp nohit ext coarse : Bool) (mult : Nat) (due : Tm) : State :=
  if s.abut then s else
  let id := s.trg.acceptId
  let f : Vc0 := {
    kind := 2, uncomp := uncomp || s.uncomp != 0, nohit := nohit, ext := ext, coarse := coarse, group := cls % 16,
    origin := s.origin, epoch := at_.epoch, timeNs := tbNs at_.tb % 2 ^ 48, stitch := tbStitch at_.tb, mult := min 15 mult,
    seq := id, dest := s.acceptDest, wait := 0, hops := 0, spread := false }
  let s1 := { s with trg := { s.trg with acceptId := (id + 1) % 65536 } }
  let s2 := (s1.vc0Forward f none).1
  (s2.trigPulses (s.flag P.CLASS_CFG_OUT0 cls) (s.flag P.CLASS_CFG_OUT1 cls) due).acceptTake f due

/-- The open window of class `k`. -/
def State.rootWin (s : State) (k : Nat) : Option RootWin := Tbl.get none s.trg.root k
/-- Set the open window of class `k`. -/
def State.setRootWin (s : State) (k : Nat) (w : Option RootWin) : State :=
  { s with trg := { s.trg with root := Tbl.set none s.trg.root k w } }

/-- A class window that has reached its close: an accept 4 cc later if ROOT_N origins contributed (R116). -/
def State.rootClose (s : State) (k : Nat) : State :=
  match s.rootWin k with
  | none => s
  | some w =>
    if s.time.now < w.close then s else
    let s1 := s.setRootWin k none
    if s.rootOn && decide (w.n ≤ w.origins.length) then
      s1.acceptEmit k w.at_ (bitOf w.flags 0) (bitOf w.flags 1) (bitOf w.flags 2) (bitOf w.flags 3) w.origins.length
        (w.close + 4 * ccSt)
    else s1

/-- Class windows whose close has come by an instant, in order of their close, and in class order within one cycle (R116). -/
def State.rootDue (s : State) (lim : Tm) : List Nat :=
  let l := (upTo 16).filterMap fun k => (s.rootWin k).bind fun w => if w.close ≤ min lim s.time.now then some (w.close, k) else none
  (sortBy (fun a b => decide (a.1 < b.1) || (a.1 == b.1 && decide (a.2 < b.2))) l).map (·.2)

/-- ROOT_WINDOW_CLOSE (R116): a class window closes, after those that close before it or in the same cycle ahead of it. -/
def execRootWindowClose (t : Tm) (cls : Fin 16) (s : State) : Host.Outcome State Fault Refusal :=
  live t s fun s => match s.rootWin cls with | some w => s.each (s.rootDue w.close) State.rootClose | none => s

/-- ROOT_GROUPS of a class as one 64-bit mask. -/
def State.rootGroups (s : State) (k : Nat) : Nat :=
  s.get P.ROOT_GROUPS_LO_GROUPS k + s.get P.ROOT_GROUPS_HI_GROUPS k * 2 ^ 32

/-- A primitive at its t_eq opens or joins the window of one class (R116). -/
def State.rootJoin (s : State) (p : Prim) (k : Nat) : State :=
  let s := s.rootClose k
  let g := p.frame.group % 64
  match s.rootWin k with
  | some w =>
    if w.groups.testBit g then
      s.setRootWin k (some { w with
        origins := if w.origins.contains p.frame.origin then w.origins else w.origins ++ [p.frame.origin],
        at_ := w.at_.min p.at_, flags := w.flags ||| vc0Flags p.frame })
    else s
  | none =>
    if s.flag P.CLASS_CFG_ENABLE k && (s.rootGroups k).testBit g then
      s.setRootWin k (some ⟨p.eq + s.get P.ROOT_CFG_WIN 0 * ccSt, s.get P.ROOT_N_N k, s.rootGroups k, [p.frame.origin], p.at_,
        vc0Flags p.frame⟩)
    else s

/-- PRIMITIVE_EQUALISED (R115, R116): a held primitive reaches t_eq. -/
def execPrimitiveEqualised (t : Tm) (origin seq : Nat) (s : State) : Host.Outcome State Fault Refusal :=
  live t s fun s =>
    match s.trg.prims.find? fun p => p.frame.origin == origin && p.frame.seq == seq && decide (p.eq ≤ s.time.now) with
    | none => s
    | some p =>
      let s0 := s.each (s.rootDue p.eq) State.rootClose
      let s1 := { s0 with trg := { s0.trg with prims := s0.trg.prims.erase p } }
      if s.rootOn then s1.each (upTo 16) fun s k => s.rootJoin p k else s1

/-- TRIG_IN_EDGE (R94, R118): an edge of the chosen polarity, stamped with the code of its own interpolator pair, forms an accept, unless it comes less than 100 ns after the last one
that did. -/
def execTrigInEdge (t : Tm) (pin : Fin 2) (edge : PinEdge) (s : State) : Host.Outcome State Fault Refusal :=
  live t s fun s =>
    let en := if pin = 0 then s.flag P.TRIG_IN_CFG_EN0 0 else s.flag P.TRIG_IN_CFG_EN1 0
    let pol := if pin = 0 then s.flag P.TRIG_IN_CFG_POL0 0 else s.flag P.TRIG_IN_CFG_POL1 0
    let cls := if pin = 0 then s.get P.TRIG_IN_CFG_CLASS0 0 else s.get P.TRIG_IN_CFG_CLASS1 0
    let delay := if pin = 0 then s.int P.TRIG_IN_DELAY0_DELAY 0 else s.int P.TRIG_IN_DELAY1_DELAY 0
    if edge.rising == pol then s else
    let r := s.pinEdge (268 + pin) edge.code.toNat
    let s0 := r.1
    if !en || s.abut then s0 else
    let soon := match Tbl.get none s.trg.lastIn pin with | some l => decide (s.time.now < l + 100 * nsSt) | none => false
    if soon then (s0.bump P.ACCEPT_STATUS_IGNORED 0).raise 133
    else
      let s1 := { s0 with trg := { s0.trg with lastIn := Tbl.set none s0.trg.lastIn pin (some s.time.now) } }
      let x := r.2.getD ((edge1 s.time.now : Int) - 512 - Config.pinFused (268 + pin))
      s1.acceptEmit cls (s.stampAt (x - delay)) false false true false 0 (s.time.now + 6 * ccSt)

/-! ### Truss groups (R109 to R111) -/

/-- GROUP_MASK of a group as one word. -/
def State.groupMask (s : State) (g : Nat) : BitVec 256 :=
  BitVec.ofNat 256 ((upTo 8).foldl (fun a w => a + s.get P.GROUP_MASK_MASK g w * 2 ^ (32 * w)) 0)

/-- A group fires: its primitive is formed 6 cc after an instant, and drives the outputs of its settings (R111, R112, R114, R119). -/
def State.groupFire (s : State) (g : Nat) (at_ : Stamp) (coarse nohit : Bool) (mult : Nat) (out0 out1 : Bool) (done : Tm) : State :=
  let formed := done + 6 * ccSt
  let q := s.trg.seq
  let dest := s.get P.ROOT_CFG_ROOT_ADDR 0
  let f : Vc0 := {
    kind := 1, uncomp := s.uncomp != 0, nohit := nohit, ext := false, coarse := coarse, group := g, origin := s.origin,
    epoch := at_.epoch, timeNs := tbNs at_.tb % 2 ^ 48, stitch := tbStitch at_.tb, mult := min 15 mult, seq := q,
    dest := dest, wait := 0, hops := 0, spread := false }
  let s1 := ({ s with trg := { s.trg with seq := (q + 1) % 65536 } }).bump P.GROUP_CNT_COUNT g
  let s2 := s1.trigPulses out0 out1 formed
  if dest = 0xFFFF then s2
  else if dest = s.origin then s2.rootTake f (formed + 60 * ccSt) 0
  else (s2.vc0Forward f none).1

/-- The open window of group `g`. -/
def State.grpWin (s : State) (g : Nat) : Option GrpWin := Tbl.get none s.trg.win g
/-- Set the open window of group `g`. -/
def State.setGrpWin (s : State) (g : Nat) (w : Option GrpWin) : State :=
  { s with trg := { s.trg with win := Tbl.set none s.trg.win g w } }

/-- A majority window that has reached its close (R109). -/
def State.groupClose (s : State) (g : Nat) : State :=
  match s.grpWin g with
  | none => s
  | some w =>
    if s.time.now < w.close then s else
    let s1 := s.setGrpWin g none
    if w.n ≤ w.chans.length && s.acquiring then s1.groupFire g w.at_ w.coarse w.nohit w.chans.length w.out0 w.out1 w.close
    else s1

/-- Group windows whose close has come by an instant, in order of their close, and in group order within one cycle (R111). -/
def State.groupDue (s : State) (lim : Tm) : List Nat :=
  let l := (upTo 64).filterMap fun g => (s.grpWin g).bind fun w => if w.close ≤ min lim s.time.now then some (w.close, g) else none
  (sortBy (fun a b => decide (a.1 < b.1) || (a.1 == b.1 && decide (a.2 < b.2))) l).map (·.2)

/-- GROUP_WINDOW_CLOSE (R109, R111): a group's window closes, after those that close before it or in the same cycle ahead of it. -/
def execGroupWindowClose (t : Tm) (g : Fin 64) (s : State) : Host.Outcome State Fault Refusal :=
  live t s fun s => match s.grpWin g with | some w => s.each (s.groupDue w.close) State.groupClose | none => s

/-- A true pulse of a channel at one group (R109, R111): a window past its close closes first. -/
def State.groupPulse (s : State) (c : Nat) (at_ : Stamp) (coarse nohit : Bool) (g : Nat) : State :=
  let s := s.groupClose g
  match s.grpWin g with
  | some w =>
    if w.mask.getLsbD c then
      let first := at_.before w.at_
      s.setGrpWin g (some { w with
        chans := if w.chans.contains c then w.chans else w.chans ++ [c],
        at_ := if first then at_ else w.at_, coarse := if first then coarse else w.coarse,
        nohit := if first then nohit else w.nohit })
    else s
  | none =>
    if s.flag P.GROUP_CFG_ENABLE g && s.get P.GROUP_CFG_RULE g == 0 && (s.groupMask g).getLsbD c then
      s.setGrpWin g (some ⟨s.time.now + s.get P.GROUP_CFG_WIN g * ccSt, s.groupMask g, s.get P.GROUP_CFG_N g, [c], at_, coarse, nohit,
        s.flag P.GROUP_CFG_OUT0 g, s.flag P.GROUP_CFG_OUT1 g⟩)
    else s

/-- A blank with TRIG_MASK covers tile `t` at a place on today's time base (R55). -/
def State.masked (s : State) (t : Nat) (x : Int) : Bool :=
  (s.fe t).masks.any fun m => decide ((m.2.1 : Int) ≤ x) && match m.2.2 with | some e => decide (x < e) | none => true

/-- A channel's condition may be true: enabled, not out of service as BROKEN, not masked by a blank at the stamp, and acquiring
(R55, R108, R132). -/
def State.condMay (s : State) (c : Nat) (at_ : Stamp) : Bool :=
  s.flag P.FAST_CFG_ENABLE c && !s.afe.out.contains c && !s.masked (c / 16) (s.place at_) && s.acquiring

/-- A condition's true pulse at its decision (R107, R109). -/
def State.truePulse (s : State) (c : Nat) (at_ : Stamp) (coarse nohit : Bool) : State :=
  if s.condMay c at_ then
    (s.bump P.COND_CNT_COUNT c).each (upTo 64) fun s g => s.groupPulse c at_ coarse nohit g
  else s

/-! ### Conditions (R107, R108) -/

/-- The first of the samples whose edges follow a hit's leading edge (R107, KIND 2). -/
def State.runtFirst (s : State) (c : Nat) (h : HitSt) : Int := s.firstEdge (c / 16) ((h.raw : Int) + 1)

/-- When a hit's condition decides, where that is known: never before 2 cc after its stamp is ready (R107). -/
def State.condDue (s : State) (c : Nat) (h : CondHit) : Option Tm :=
  let k := h.hit.cond
  let after (x : Tm) : Option Tm := some (max x h.hit.ready + 2 * ccSt)
  match k.kind with
  | 1 => h.done.bind after
  | 2 => after ((s.edgeAt (c / 16) (s.runtFirst c h.hit + k.win - 1)).toNat + readLen)
  | 3 => after (h.hit.raw + k.tmo * ccSt)
  | _ => some s.time.now

/-- What a hit's condition decides (R107); `l` are the samples from the first that follows the leading edge on. -/
def State.condTrue (s : State) (c : Nat) (h : CondHit) (l : List Samp) : Bool :=
  let k := h.hit.cond
  match k.kind with
  | 1 => decide (k.lo ≤ h.hit.tot) && decide (h.hit.tot ≤ k.hi)
  | 2 => !((s.amps (s.runtFirst c h.hit) l).any fun a => decide ((k.high : Int) ≤ a))
  | 3 => h.high
  | _ => false

/-- The sample that became readable 2 cc ago (R107, KIND 5). -/
def State.slewSample (s : State) (c : Nat) : Int := s.firstEdge (c / 16) ((s.time.now : Int) - (readLen + 2 * ccSt : Nat) + 1) - 1

/-- The slew condition of a sample n (R107): `levels` belong to samples n − K to n; the settings are those in force at the stamp, the
pin time of sample n − K. -/
def State.slewJudge (s : State) (c : Nat) (levels : List Lvl) : State :=
  let n := s.slewSample c
  let back (k : Nat) : Stamp := s.stampAt (s.pinAt (c / 16) (n - k))
  let k := s.condAt c (back (s.condOf c).k)
  if k.kind != 5 || levels.length != k.k + 1 then s else
  let amps := s.amps (n - k.k) (s.samplesFrom c (n - k.k) levels)
  let d := amps.getLastD 0 - amps.headD 0
  if (s.td c).slewOff then
    if 2 * d < k.slew then s.modTd c fun x => { x with slewOff := false } else s
  else if (k.slew : Int) ≤ d then (s.modTd c fun x => { x with slewOff := true }).truePulse c (back k.k) false false
  else s

/-- A hit's condition is judged (R107, R108): of KIND 2 with the levels of its WIN samples. -/
def State.condJudge (s : State) (c : Nat) (h : CondHit) (levels : List Lvl) : State :=
  let k := h.hit.cond
  if k.kind = 2 ∧ levels.length ≠ k.win then s else
  let s1 := s.modTd c fun x => { x with judged := x.judged.erase h }
  if s.condTrue c h (s.samplesFrom c (s.runtFirst c h.hit) levels) then s1.truePulse c h.hit.at_ h.hit.coarse false else s1

/-- CONDITION_DECIDE (R107, R108): the channel's first hit whose decision is due is judged; else a quiet timeout that expired
2 cc ago; else the slew condition of the sample that became readable 2 cc ago. `levels` are the shaper levels at the sampling
edges that the condition looks at. -/
def execConditionDecide (t : Tm) (ch : Ch) (levels : List Lvl) (s : State) : Host.Outcome State Fault Refusal :=
  live t s fun s =>
    let due (h : CondHit) : Bool := match s.condDue ch h with | some d => decide (d ≤ s.time.now) | none => false
    match (s.td ch).judged.find? due with
    | some h => s.condJudge ch h levels
    | none =>
      match (s.td ch).quietAt with
      | some q =>
        if q + 2 * ccSt ≤ s.time.now then
          (s.modTd ch fun x => { x with quietAt := none }).truePulse ch (s.stampAt q) false true
        else s
      | none => s.slewJudge ch levels

/-- TIMEOUT_HIGH_EXPIRE (R107, KIND 3): the discriminator is still high T cc after the leading edge. -/
def execTimeoutHighExpire (t : Tm) (ch : Ch) (s : State) : Host.Outcome State Fault Refusal :=
  live t s fun s =>
    let still (x : TdcCh) (j : CondHit) : Bool :=
      j.hit.cond.kind == 3 && decide (j.hit.raw + j.hit.cond.tmo * ccSt ≤ s.time.now)
        && x.open_.any fun h => h.lead == j.hit.lead && h.trail.isNone
    s.modTd ch fun x => { x with judged := x.judged.map fun j => if still x j then { j with high := true } else j }

/-- T of the quiet timeout in stitches (R107, R133). -/
def Cond.quiet (k : Cond) : Nat := if k.unitUs then k.tmo * usSt else k.tmo * ccSt

/-- QUIET_TIMEOUT_EXPIRE (R107, KIND 4): once per quiet interval. -/
def execQuietTimeoutExpire (t : Tm) (ch : Ch) (s : State) : Host.Outcome State Fault Refusal :=
  live t s fun s =>
    let x := s.td ch
    let k := s.condOf ch
    let at_ := x.quietFrom + k.quiet
    if k.kind == 4 && !x.quietDone && decide (at_ ≤ s.time.now) then
      s.modTd ch fun x => { x with quietDone := true, quietAt := some at_ }
    else s

/-- The masked channels of a group, in channel order. -/
def State.groupChans (s : State) (g : Nat) : List Nat := (upTo 256).filter fun c => (s.groupMask g).getLsbD c

/-- The earliest of a list of leading edges, each with its COARSE mark (R110). -/
def earliestEdge (edges : List (Tm × Bool)) : Option (Tm × Bool) :=
  edges.foldl (fun (b : Option (Tm × Bool)) e => match b with | none => some e | some x => if e.1 < x.1 then some e else b) none

/-- The leading edges of a group's channels within a window before an instant (R110). -/
def State.sumEdges (s : State) (g win : Nat) (at_ : Tm) : List (Tm × Bool) :=
  (s.groupChans g).flatMap fun c => (s.td c).edges.filter fun e => decide (at_ ≤ e.1 + win) && decide (e.1 ≤ at_)

/-- The sum of a group fires it: at its first edge, or with NOHIT at the sample's own time (R110, R111). The multiplicity is the
number of channels summed, which the spec does not state: DESIGN CHOICE (log entry 95). -/
def State.sumFire (s : State) (g mult : Nat) (tn : Stamp) (first : Option (Tm × Bool)) : State :=
  let s1 := { s with trg := { s.trg with fired := Tbl.set none s.trg.fired g (some s.time.now) } }
  let out0 := s.flag P.GROUP_CFG_OUT0 g
  let out1 := s.flag P.GROUP_CFG_OUT1 g
  match first with
  | some e => s1.groupFire g (s.stampAt e.1) e.2 false mult out0 out1 s.time.now
  | none => s1.groupFire g tn false true mult out0 out1 s.time.now

/-- A group's sum is judged: enabled, in the sum rule, acquiring, and its window after the last firing over (R110). -/
def State.sumJudged (s : State) (g : Nat) : Bool :=
  s.flag P.GROUP_CFG_ENABLE g && s.get P.GROUP_CFG_RULE g != 0 && s.acquiring
    && (Tbl.get none s.trg.fired g).all fun l => decide (l + s.get P.GROUP_CFG_WIN g * ccSt < s.time.now)

/-- The sum of A over samples of one number (R110): every masked channel counts; a disabled one adds 0 (R68). -/
def State.sumOf (s : State) (n : Nat) (mine : List (Ch × Lvl)) : Int :=
  (mine.map fun x => s.amp n (s.ringGive x.1 n x.2)).sum

/-- The place of t_N of a group's sum (R110): the pin time of sample N in the tile of the first masked channel, DESIGN CHOICE (log
entry 95). -/
def State.sumPin (s : State) (g n : Nat) : Int := s.pinAt (((s.groupChans g).head?.getD 0) / 16) n

/-- The sum of sample N of a group is complete: 6 cc after the sample is readable in every masked tile (R110). -/
def State.sumReady (s : State) (g n : Nat) : Bool :=
  ((s.groupChans g).map (· / 16)).eraseDups.all fun t => decide (s.edgeAt t n + (readLen + 6 * ccSt : Nat) ≤ s.time.now)

/-- GROUP_SUM_COMPLETE (R70, R110, R111): the sum of sample number `n` over the masked channels is complete; `levels` gives each
masked channel its shaper levels at that edge. -/
def execGroupSumComplete (t : Tm) (g : Fin 64) (n : Nat) (levels : List (Ch × Lvl)) (s : State) :
    Host.Outcome State Fault Refusal :=
  live t s fun s =>
    if (levels.map fun x => x.1.val) != s.groupChans g || !s.sumReady g n || s.abut then s else
    let s1 := levels.foldl (fun s x => s.ringRead x.1 n [x.2]) s
    if s.sumJudged g && decide ((s.get P.GROUP_SUM_THR g : Int) ≤ s.sumOf n levels) then
      s1.sumFire g levels.length (s.stampAt (s.sumPin g n))
        (earliestEdge (s.sumEdges g (s.get P.GROUP_CFG_WIN g * ccSt) (s.sumPin g n).toNat))
    else s1

/-! ### Windows (R122, R127) -/

/-- CLASS_MASK of a class as one word. -/
def classMask (r : Tbl W64) (k : Nat) : BitVec 256 :=
  BitVec.ofNat 256 ((upTo 8).foldl (fun a w => a + Regs.get r P.CLASS_MASK_MASK k w * 2 ^ (32 * w)) 0)

/-- The tiles that hold channels of a mask; all of them for an empty mask. -/
def tilesOf (m : BitVec 256) : List Nat :=
  match (upTo 16).filter fun t => (channelsOf t).any fun c => m.getLsbD c with
  | [] => upTo 16
  | l => l

/-- The channels of a mask. -/
def chansOf (m : BitVec 256) : List Nat := (upTo 256).filter fun c => m.getLsbD c

/-- L of a window (R121). -/
def Extract.len (x : Extract) : Nat := x.pre + x.post

/-- S_max (R128). -/
def eventMax (n len hits : Nat) : Nat := 40 + n * (24 + 8 * ceilDiv len 4 + 8 * hits)

/-- The first sample number of a tile's window and the place of its pin time, where the time base held the whole window (R89, R122):
the window's first and last pin times lie in one stretch of the accept's epoch. -/
def State.tileWindow (s : State) (t : Nat) (at_ : Stamp) (pre len : Nat) : Option (Nat × Int) :=
  match s.lived at_ with
  | none => none
  | some _ =>
    let n := s.firstPin t (s.place at_) - pre
    let x := s.pinAt t n
    let y := s.pinAt t (n + len - 1)
    let a := s.stampAt x
    let b := s.stampAt y
    if 0 ≤ n ∧ a.epoch = at_.epoch ∧ b.epoch = at_.epoch ∧ (b.tb : Int) - a.tb = y - x then some (n.toNat, x) else none

/-- The settings in force at an accept's S, with the channels out of service then (R27, R123). -/
def State.latched (s : State) (a : Acc) : Acc :=
  if a.regs.isSome then a else { a with regs := some s.regs, out := s.afe.out }

/-- The extraction of an accept under the class settings latched at its S (R27, R122, R128); none where its window cannot be
mapped. -/
def State.windowOf (s : State) (a0 : Acc) : Option Extract :=
  let a := s.latched a0
  let r := a.regs.getD s.regs
  let pre := Regs.get r P.CLASS_CFG_PRE a.cls
  let post := Regs.get r P.CLASS_CFG_POST a.cls
  let mask := classMask r a.cls
  let tiles := (upTo 16).map fun t => s.tileWindow t a.at_ pre (pre + post)
  if (tilesOf mask).all fun t => (tiles.getD t none).isSome then
    some { acc := a, start := s.time.now, pre := pre, post := post, first := tiles.map fun o => (o.map (·.1)).getD 0,
           begins := tiles.map fun o => (o.map fun x => (s.stampAt x.2).tb).getD 0,
           reserved := eventMax (chansOf mask).length (pre + post) (Regs.get r P.CLASS_HITS_HITS_MAX a.cls),
           cfg := Regs.word r P.CLASS_CFG_PRE a.cls, mask := mask, hitsMax := Regs.get r P.CLASS_HITS_HITS_MAX a.cls, regs := r }
  else none

/-- The earliest t_ws of an extraction, over the tiles that hold channels of the class mask: DESIGN CHOICE (log entry 96). -/
def Extract.from (x : Extract) : Tm :=
  match (tilesOf x.mask).map fun t => x.begins.getD t 0 with | [] => 0 | b :: bs => bs.foldl min b

/-- The latest window end of an extraction. -/
def Extract.to (x : Extract) : Tm :=
  ((tilesOf x.mask).map fun t => x.begins.getD t 0).foldl max 0 + x.len * scSt

/-- The present instant lies past the ring deadline of R127. -/
def State.pastRing (s : State) (x : Extract) : Bool :=
  decide (s.place ⟨x.acc.at_.epoch, x.from⟩ + (8192 * scSt : Nat) < (s.time.now + 100 * nsSt + x.len * scSt : Nat))

/-- Remove an accept from those that wait for the extractor. -/
def State.accDrop (s : State) (a : Acc) : State := ({ s with trg := { s.trg with accs := s.trg.accs.erase a } }).accShow

/-- An accept is not served (R122, R127): cause 0x0B at its key, in the late stream for a deck-served one; source 131. -/
def State.notServed (s : State) (a : Acc) (late : Bool) : State :=
  let r := s.lossRec 0x0B a.cls 1 a.at_ a.at_.tb a.at_.tb
  (if late then (s.takeSeq 0x06).lateEmit r else s.localLoss 0x0B a.cls 1 a.at_ a.at_.tb a.at_.tb).raise 131

/-- An accept is handed to the deck, or not served while the deck is offline (R127). -/
def State.deckServe (s : State) (a : Acc) (x : Extract) : State :=
  let s1 := s.accDrop a
  if s.flag P.DECK_STATUS_ONLINE 0 then ({ s1 with trg := { s1.trg with deckWait := s1.trg.deckWait ++ [x] } }).accShow
  else s1.notServed a true

/-- Bytes of the event buffer (R128). -/
def eventBuffer : Nat := 2097152

/-- S of the first waiting accept has come (R123). -/
def State.accDue (s : State) (a : Acc) : Bool :=
  !(s.backStamp s.horizon).before a.at_ && decide (a.arrival + 2 * ccSt ≤ s.time.now)

/-- An accept waits for event-buffer space (R128). -/
def State.accWait (s : State) (a : Acc) : State :=
  { s with trg := { s.trg with accs := s.trg.accs.map fun b => if b = a then { s.latched b with waits := true } else b } }

/-- An extraction begins (R127). -/
def State.extractBegin (s : State) (a : Acc) (x : Extract) : State :=
  { s with trg := { s.trg with accs := s.trg.accs.erase a, run := some x, used := s.trg.used + x.reserved } }

/-- The event buffer lacks room for an extraction (R128). -/
def State.bufferFull (s : State) (x : Extract) : Bool := decide (eventBuffer < s.trg.used + x.reserved)

/-- The extractor takes one accept at S (R122, R123, R126 to R128). -/
def State.extractOn (s : State) (a : Acc) (w : Option Extract) : State :=
  match w with
  | none => (s.notServed a false).accDrop a
  | some x =>
    if s.pastRing x then
      if a.waits then ((s.localLoss 0x06 a.cls 1 a.at_ a.at_.tb a.at_.tb).accDrop a).raise 131 else s.deckServe a x
    else if s.bufferFull x then s.accWait a
    else
      let s1 := s.extractBegin a x
      let s2 := if a.late then (s1.bump P.CLASS_LATE_LATE a.cls).raise 129 else s1
      s2.accShow

/-- The next accept is taken up with its window (R122 to R128). -/
def State.extractTake (s : State) (a : Acc) : State := s.extractOn a (s.windowOf a)

/-- EXTRACTION_START (R122, R123, R126 to R128): the first accept in key order whose S has come. -/
def execExtractionStart (t : Tm) (s : State) : Host.Outcome State Fault Refusal :=
  live t s fun s =>
    match s.trg.run, s.trg.accs with
    | none, a :: _ => if s.accDue a && !s.abut then s.extractTake a else s
    | _, _ => s

/-- EXTRACTION_DROP (R128): a wait for event-buffer space has reached the ring deadline. -/
def execExtractionDrop (t : Tm) (s : State) : Host.Outcome State Fault Refusal :=
  live t s fun s =>
    match s.trg.accs with
    | a :: _ => if a.waits && (s.windowOf a).any s.pastRing then s.extractTake a else s
    | [] => s

/-- EVENT_BUFFER_SPACE (R128): space of events that the Seam has taken returns, and a waiting extraction may start. -/
def execEventBufferSpace (t : Tm) (bytes : Nat) (s : State) : Host.Outcome State Fault Refusal :=
  live t s fun s =>
    let n := min bytes s.trg.taken
    let s1 := { s with trg := { s.trg with taken := s.trg.taken - n, used := s.trg.used - n } }
    match s1.trg.run, s1.trg.accs with
    | none, a :: _ => if a.waits && !s1.abut then s1.extractTake a else s1
    | _, _ => s1

/-! ### Events (R129 to R131) -/

/-- T_ext (R123). -/
def Extract.time (x : Extract) : Nat := (32 * ceilDiv x.len 4 + 264) * ccSt

/-- The largest amplitude as the 16-bit field; a negative one has no stated form (log entry 22). -/
def peakField (a : Int) : Nat := if a < 0 then Config.unstated 1 [a] % 65536 else satTo 16 a.toNat

/-- Sample words of a window (R131). -/
def sampleWords : Nat → List Samp → List Byte
  | 0, _ => []
  | n + 1, l =>
    le 8 ((l.take 4).zipIdx 0 |>.foldl (fun a x => a + (x.1.code.toNat + 4096 * b2n x.1.range) * 2 ^ (13 * x.2)) 0)
      ++ sampleWords n (l.drop 4)

/-- What one channel gives to an event. -/
structure EvBlock where
  bytes : List Byte
  ue : Bool
  kept : Bool
  deriving DecidableEq, Repr

/-- One channel block (R129, R131); `hits` are the hits of the window, `l` its samples, none in a deck-served event. -/
def State.chanBlock (s : State) (x : Extract) (c : Nat) (l : Option (List Samp)) (hits : List Hit) : EvBlock :=
  let tws := x.begins.getD (c / 16) 0
  let n : Int := x.first.getD (c / 16) 0
  let amps := s.amps n (l.getD [])
  let hi := maxInt amps
  let lo := minInt amps
  let ptp := (hi - lo).toNat
  let wave := l.isSome && !(P.CLASS_CFG_ZS_EN.of x.cfg == 1 && decide (ptp < Regs.get x.regs P.ZS_THR_THR c))
  let ue := (l.getD []).any (·.ue)
  let sat := s.anySat c n (l.getD [])
  let nhw := if P.CLASS_CFG_HITS_EN.of x.cfg = 1 then min hits.length x.hitsMax else 0
  let flags := b2n wave + 2 * b2n ue + 4 * b2n sat + 8 * b2n (decide (nhw < hits.length))
  let sums := if l.isSome then
      le 4 (satSigned 32 amps.sum) ++ le 2 (amps.findIdx (· == hi)) ++ le 2 (peakField hi) ++ le 2 (satTo 16 ptp) ++ [0, 0]
    else List.replicate 12 0
  let t0 : Int := (tws : Int) - x.acc.at_.tb
  ⟨[BitVec.ofNat 8 c, BitVec.ofNat 8 flags] ++ le 2 (if wave then x.len else 0) ++ le 2 nhw ++ le 2 (satTo 16 hits.length)
      ++ le 4 (unsgn 32 t0) ++ sums
      ++ (if wave then sampleWords (ceilDiv x.len 4) (l.getD []) else [])
      ++ (hits.take nhw).flatMap fun h => wordBytes (hitWord h c (h.tb - tws)),
    ue, wave || !hits.isEmpty || P.CLASS_CFG_OMIT_EMPTY.of x.cfg == 0⟩

/-- The event record of an extraction (R130): `snips` are the snippet records of a deck-served one. -/
def State.eventRec (s : State) (x : Extract) (blocks : List EvBlock) (snips : List Rec) (deck late : Bool) : Rec :=
  let kept := blocks.filter (·.kept)
  let ue := kept.any (·.ue)
  let flags := 16 * b2n deck + 32 * b2n ue + 64 * b2n x.acc.ext + (if late then flLate else 0)
    + (if x.acc.uncomp then flUncomp else 0) + (if ue || deck then flReduced else 0)
  ⟨0x02, flags, s.origin, x.acc.at_.epoch, x.acc.at_.tb, s.seqOf 0x02,
    [BitVec.ofNat 8 x.acc.cls, 0] ++ le 2 kept.length ++ le 2 x.pre ++ le 2 x.post ++ le 2 x.acc.id ++ le 2 x.acc.root
      ++ le 2 snips.length ++ [0, 0] ++ kept.flatMap (·.bytes) ++ snips.flatMap Rec.encode⟩

/-- The channels an event covers: enabled and not out of service as BROKEN, as its S found them (R27, R129). -/
def Extract.chans (x : Extract) : List Nat :=
  (chansOf x.mask).filter fun c => Regs.get x.regs P.FAST_CFG_ENABLE c != 0 && !x.acc.out.contains c

/-- A hit that is still open when its event is built: it counts by its leading edge, and what its word holds of its end and its
peak is a free value (R129, R131; log entry 97). -/
def HitSt.soFar (h : HitSt) : Hit :=
  ⟨h.at_.tb, Config.unstated 14 [h.at_.tb] % 4096, Config.unstated 14 [h.at_.tb, 1] % 256, h.merged, h.coarse,
    Config.unstated 14 [h.at_.tb, 2] % 2 == 1, Config.unstated 14 [h.at_.tb, 3] % 2 == 1⟩

/-- A channel's hits whose leading edges lie in its window, in time order (R129). -/
def State.windowHits (s : State) (x : Extract) (c : Nat) : List Hit :=
  let tws := x.begins.getD (c / 16) 0
  let all := (s.td c).recent.reverse ++ (s.td c).open_.map fun h => (h.at_.epoch, h.soFar)
  let l := (all.filter fun h => h.1 == x.acc.at_.epoch && decide (tws ≤ h.2.tb) && decide (h.2.tb < tws + x.len * scSt)).map (·.2)
  sortBy (fun (a b : Hit) => decide (a.tb < b.tb)) l

/-- The shaper levels of a channel in the given window data. -/
def windowData (window : List (Ch × List Lvl)) (c : Nat) : List Lvl :=
  ((window.find? fun w => w.1.val == c).map (·.2)).getD []

/-- EXTRACTION_END (R70, R123, R125, R126, R129 to R131): the event is built and offered to the Seam, or goes to the late
stream; `window` gives each channel its shaper levels at the sampling edges of its tile's window. In abutment mode the extractor
stands still (R418). -/
def execExtractionEnd (t : Tm) (window : List (Ch × List Lvl)) (s : State) : Host.Outcome State Fault Refusal :=
  live t s fun s =>
    match s.trg.run with
    | none => s
    | some x =>
      let chans := x.chans
      if s.time.now < x.start + x.time || s.abut || !chans.all fun c => (windowData window c).length == x.len then s else
      let first (c : Nat) : Int := x.first.getD (c / 16) 0
      let s1 := s.each chans fun s c => s.ringRead c (first c) (windowData window c)
      let blocks := chans.map fun c => s.chanBlock x c (some (s.samplesFrom c (first c) (windowData window c))) (s.windowHits x c)
      let r := s.eventRec x blocks [] false x.acc.late
      let s2 := (s1.takeSeq 0x02).bump P.CLASS_EVENTS_COUNT x.acc.cls
      let s3 := { s2 with trg := { s2.trg with run := none, used := s2.trg.used - x.reserved } }
      (if x.acc.late then s3.lateEmit r
       else { s3 with trg := { s3.trg with buf := insertBy Rec.before r s3.trg.buf, used := s3.trg.used + r.bytes } }).accShow

/-- GROUP_LAT of a group (R114): the largest L over its enabled masked channels, in cc. -/
def State.groupLat (s : State) (g : Nat) : Nat :=
  let chans := (s.groupChans g).filter fun c => s.flag P.FAST_CFG_ENABLE c
  if s.get P.GROUP_CFG_RULE g = 1 then
    (chans.map fun c => 28 + 72 + ceilDiv (s.sampleOffset (c / 16)).toNat ccSt).foldl max 0
  else
    let d (c : Nat) : Nat :=
      let k := s.condOf c
      match k.kind with
      | 1 => 36 + k.hi
      | 2 => 12 + 2 * (k.win + 14)
      | 3 => 12 + max k.tmo 14
      | 4 => 2
      | 5 => 12 + 2 * (k.k + 14)
      | _ => 0
    ((chans.filter fun c => (s.condOf c).kind != 0).map fun c => d c + s.get P.GROUP_CFG_WIN g + 66).foldl max 0

end Sys2Proof.Machine
end

