-- ==== Sys2Proof/Machine/DeckRead.lean ====
section
/-! DEFINITION. The rewind deck's reader (chapter 07, R206, R207): requests, sessions, deck reads, raw sessions, and the
deck-served events of the extractor. -/

namespace Sys2Proof.Machine

/-! ### A context's rewind requests (R207) -/

/-- What a context shows of its rewind source. -/
def State.reqShow (s : State) (c : Nat) : State :=
  (s.put P.CTX_STATUS_REQ_QUEUED c (s.ctxOf c).requests.length).putB P.CTX_STATUS_REPLY_ACTIVE c (s.ctxOf c).replyOn

/-- Contexts that have or await a session of the 64 for contexts and mailboxes (R168). -/
def State.sessCtxs (s : State) : List Nat :=
  (s.deck.placed ++ s.deck.sess.filterMap fun e =>
    match e.2 with | some x => if e.1 < 64 && x.kind == 0 then some x.ctx else none | none => none).eraseDups

/-- Raw sessions in use. -/
def State.rawSessions (s : State) : Nat :=
  (s.deck.sess.filter fun e => match e.2 with | some x => x.kind == 2 | none => false).length

/-- The lowest free session of a range. -/
def State.freeSess (s : State) (lo hi : Nat) : Option Nat :=
  (upTo hi).find? fun i => decide (lo ≤ i) && (s.sess i).isNone

/-- A start that lies before the oldest retained span (R172): the served start, where it differs. -/
def State.servedFrom (s : State) (epoch start stop : Nat) : Option Tm :=
  match s.oldestDir with
  | some d => if Stamp.before ⟨epoch, start⟩ d.at_ then some (if d.at_.epoch = epoch then min d.at_.tb stop else stop) else none
  | none => none

/-- The hold-only hold of a context that an interval lies within (R173). -/
def State.holdCovers (s : State) (ctx : Nat) (r : Req) : Option Nat :=
  (upTo 64).find? fun i => let h := s.holdOf i
    h.used && h.only && h.ctx == ctx && h.epoch == r.epoch && decide (h.start ≤ r.start) && decide (r.stop ≤ h.stop)

/-- The refusal that a request meets, or OK (R167, R168, R173, R207). -/
def State.reqJudge (s : State) (ctx : Nat) (r : Req) : Nat :=
  let c := s.ctxOf ctx
  if r.bad s.stamp || r.ctx != ctx || !s.flag P.CTX_SRC_REWIND ctx then stBadParam
  else if c.state != 1 && c.state != 2 then stDenied
  else if !s.flag P.DECK_STATUS_ONLINE 0 then stNoResource
  else if r.delivers && (decide (16 ≤ c.requests.length)
      || (!s.sessCtxs.contains ctx && decide (64 ≤ s.sessCtxs.length + s.rawSessions))) then stBusy
  else if r.holds && s.freeHold.isNone && !(r.delivers && (s.holdCovers ctx r).isSome) then stNoResource
  else stOk

/-- A hold for a request: a new one, or the hold-only hold it takes over (R173). -/
def State.reqHold (s : State) (ctx : Nat) (r : Req) : State :=
  let start := (s.servedFrom r.epoch r.start r.stop).getD r.start
  match if r.delivers then s.holdCovers ctx r else none with
  | some i => s.holdPlace i ctx r.tag r.epoch start r.stop false
  | none =>
    if r.holds then
      match s.freeHold with
      | some i => s.holdPlace i ctx r.tag r.epoch start r.stop (!r.delivers)
      | none => s
    else s

/-- A request is placed for a context (R167, R168, R173, R207). Answers the state and its status. -/
def State.rewind (s : State) (ctx : Nat) (desc : List Byte) : State × Nat :=
  let r := Req.parse desc
  let j := s.reqJudge ctx r
  if j ≠ stOk then (s, j) else
  let s1 := s.reqHold ctx r
  let s2 := if r.delivers then
      let p := s1.modCtx ctx fun c => { c with requests := c.requests ++ [desc] }
      ({ p with deck := { p.deck with placed := p.deck.placed ++ [ctx] } }).reqShow ctx
    else s1
  ((s2.holdsJudge s2.deck.woff).holdsShow, stOk)

/-- REWIND_REQUEST (R167, R168, R173, R207): a request of a context is checked and queued, or refused. -/
def execRewindRequest (t : Tm) (ctx : Ctx) (desc : List Byte) (s : State) : Host.Outcome State Fault Refusal :=
  live t s fun s => (s.rewind ctx desc).1

/-! ### Sessions open (R168, R170, R172) -/

/-- The hold that waits for a session of a context's request. -/
def State.holdFor (s : State) (ctx tag epoch stop : Nat) : Option Nat :=
  (upTo 64).find? fun i => let h := s.holdOf i
    h.used && !h.only && h.ctx == ctx && h.tag == tag && h.epoch == epoch && h.stop == stop && (s.holdSess i).isNone

/-- A session takes its place in the order of placement (R168). -/
def State.sessOrder (s : State) : State × Nat :=
  ({ s with deck := { s.deck with orders := s.deck.orders + 1 } }, s.deck.orders + 1)

/-- Open a session: truncation, its opening record, and its read position (R170, R172). -/
def State.sessOpen (s : State) (i : Nat) (x : Sess) : State :=
  let served := s.servedFrom x.epoch x.start x.stop
  let from_ := served.getD x.start
  let p := s.sessOrder
  let s := p.1
  let x1 := { x with queued := false, order := p.2, served := from_, at_ := from_, truncated := served.isSome,
                     pos := s.deckOffset ⟨x.epoch, from_⟩ }
  let s1 := s.setSess i (some x1)
  let opening := s.replyRec x1 1 0 ⟨x.epoch, from_⟩ (replyFlags served.isSome false false false true) 0 x.start
  let s2 := if x.kind = 0 then (s1.takeSeq 0x0A).replyAdd i opening false else s1
  let s3 := if served.isSome then
      ((s2.sessLoss i 0x03 (s.countSpans x.epoch x.start from_) ⟨x.epoch, x.start⟩ x.start from_).bump
        P.DECK_COUNTS_TRUNCATED 0).raise 164
    else s2
  if served.isSome ∧ from_ = x.stop then s3.sessClose i 0 ⟨x.epoch, x.stop⟩ false false else s3.holdsShow

/-- The next context whose request may open: in order of placement, none of its replies in progress. -/
def State.nextRequest (s : State) : Option Nat :=
  s.deck.placed.find? fun c => !(s.ctxOf c).replyOn && !(s.ctxOf c).requests.isEmpty

/-- A context's request opens its session. -/
def State.ctxSessOpen (s : State) (i c : Nat) : State :=
  match (s.ctxOf c).requests with
  | [] => s
  | d :: ds =>
    let r := Req.parse d
    let s1 := (s.modCtx c fun x => { x with requests := ds, replyOn := true })
    let s2 := { s1 with deck := { s1.deck with placed := s1.deck.placed.erase c } }
    let x : Sess := { Sess.reset with
      ctx := c, tag := r.tag, flags := r.flags, epoch := r.epoch, start := r.start, stop := r.stop, mask := r.mask, kind := 0,
      hold := s.holdFor c r.tag r.epoch r.stop }
    (s2.sessOpen i x).reqShow c

/-- A deck-served accept takes an extractor session: HITS and SNIPPETS over its window (R127). -/
def State.extSessOpen (s : State) (i : Nat) (e : Extract) : State :=
  let s1 := { s with trg := { s.trg with deckWait := s.trg.deckWait.erase e, deckAccs := s.trg.deckAccs ++ [(e, i)] } }
  let x : Sess := { Sess.reset with
    ctx := 0, tag := e.acc.id + e.acc.cls * 65536, flags := 3, epoch := e.acc.at_.epoch, start := e.from, stop := e.to,
    mask := e.mask, kind := 1 }
  (s1.sessOpen i x).accShow

/-- DECK_SESSION_OPEN (R127, R168, R170, R172): a free session takes the next request of a context, or of the extractor. -/
def execDeckSessionOpen (t : Tm) (sid : Fin 128) (s : State) : Host.Outcome State Fault Refusal :=
  live t s fun s =>
    if (s.sess sid).isSome || !s.flag P.DECK_STATUS_ONLINE 0 then s
    else if sid.val < 64 then
      match s.nextRequest with
      | some c => s.ctxSessOpen sid c
      | none => s
    else
      match s.trg.deckWait with
      | e :: _ => s.extSessOpen sid e
      | [] => s

/-! ### The raw source (R206) -/

/-- The start of the first span after an instant that the deck knows. -/
def State.spanAfter (s : State) (at_ : Stamp) : Option Stamp :=
  match s.deck.dir.find? fun d => at_.before d.at_ with
  | some d => some d.at_
  | none => (s.deck.bounds.find? fun b => at_.before b.1).map (·.1)

/-- The length of the span that starts at an instant. -/
def State.spanLenOfDeck (s : State) (at_ : Stamp) : Nat :=
  match s.deck.dir.find? fun d => d.at_ == at_ with
  | some d => spanLenOf d.span
  | none => match s.deck.bounds.find? fun b => b.1 == at_ with | some b => spanLenOf b.2 | none => s.spanLen

/-- A raw session of a context exists. -/
def State.rawBusy (s : State) (c : Nat) : Bool :=
  s.deck.sess.any fun e => match e.2 with | some x => x.kind == 2 && x.ctx == c | none => false

/-- CTX_RAW_MASK as one word. -/
def State.rawMask (s : State) (c : Nat) : BitVec 256 :=
  BitVec.ofNat 256 ((upTo 8).foldl (fun a w => a + s.get P.CTX_RAW_MASK_MASK c w * 2 ^ (32 * w)) 0)

/-- A raw source places the session of its next span, once that span has ended (R206). -/
def State.rawPlace (s : State) (c : Nat) : State :=
  let x := s.ctxOf c
  match x.rawAt, s.freeSess 0 64 with
  | some at_, some i =>
    match s.spanAfter at_ with
    | some next =>
      if !(x.source 3).on || x.state != 1 && x.state != 2 || s.rawBusy c || !s.flag P.DECK_STATUS_ONLINE 0
          || decide (64 ≤ s.sessCtxs.length + s.rawSessions) then s
      else
        let stop := if next.epoch = at_.epoch then next.tb else at_.tb + s.spanLenOfDeck at_
        s.sessOrder.1.setSess i (some { Sess.reset with
          order := s.sessOrder.2, ctx := c, flags := 1, epoch := at_.epoch, start := at_.tb, stop := stop, mask := s.rawMask c, kind := 2,
          queued := false, served := at_.tb, at_ := at_.tb, pos := s.deckOffset at_ })
    | none => s
  | _, _ => s

/-- Every raw source whose span has ended places its session. -/
def State.rawPlaceAll (s : State) : State :=
  s.each ((s.ctx.c.filter fun e => e.2.rawAt.isSome).map (·.1)) State.rawPlace

/-- A raw session is complete: the source goes on with the next span (R206). -/
def State.rawNext (s : State) (x : Sess) : State :=
  let next := s.spanAfter ⟨x.epoch, x.start⟩
  (s.modCtx x.ctx fun c => { c with rawAt := match next with | some n => some n | none => c.rawAt }).rawPlace x.ctx

/-! ### Reading (R169 to R171, R174, R175) -/

/-- The times of a hit word (R96). -/
def hitWordTb (head : Tm) (w : List Byte) : Tm := head + field w 1 4

/-- A session has nothing to read at or after a record: it was written with an interval that starts at or past the end (R169). -/
def Sess.past (x : Sess) (d : DRec) : Bool := !(Stamp.before ⟨d.data.epoch, d.from_⟩ ⟨x.epoch, x.stop⟩)

/-- All that an epoch gave the deck has been written. -/
def State.epochWritten (s : State) (e : Nat) : Bool :=
  !(s.deck.blocks.any fun b => b.2.start.epoch == e)
    && !(s.tdc.ch.any fun c => c.2.blocks.any fun b => b.start.epoch == e && b.deck && !b.sent)

/-- The first core-clock edge of the epoch that followed a session's own, where that ended before the session's end (R171). -/
def State.epochOver (s : State) (x : Sess) : Option Stamp :=
  match s.deck.epochEnds.find? fun e => decide (x.epoch < e.2.epoch) with
  | some e => if e.1.before ⟨x.epoch, x.stop⟩ then some e.2 else none
  | none => none

/-- A session's interval has been read, or its epoch has ended (R170, R171). -/
def State.sessDone (s : State) (i : Nat) (x : Sess) : State :=
  let s1 := match s.epochOver x with
    | some e => s.sessClose i 0 e false true
    | none => s.sessClose i 0 ⟨x.epoch, x.stop⟩ false false
  if x.kind = 0 then s1.reqShow x.ctx else if x.kind = 2 then s1.rawNext x else s1

/-- The write point has passed a session's end, or all of its epoch has been written (R171). -/
def State.sessOver (s : State) (x : Sess) : Bool :=
  !(s.deck.wpoint.before ⟨x.epoch, x.stop⟩) || (decide (x.epoch < s.time.epoch) && s.epochWritten x.epoch)

/-- A session waits at the write point (R171). -/
def State.sessWait (s : State) (i : Nat) (x : Sess) : State := s.setSess i (some { x with waits := true, followed := true })

/-- DECK_POISON counts, with source 165 (R175). -/
def State.deckPoison (s : State) : State := (s.bump P.DECK_POISON_COUNT 0).raise 165

/-- After a poisoned header at a position the session resumes at the next directory entry, with a loss record of cause 0x07 up to
that boundary; until there is one it waits for it (R175). -/
def State.sessResume (s : State) (i : Nat) (x : Sess) : State :=
  let lost (stop pos : Nat) : State :=
    let n := (s.deck.data.filter fun q => decide (x.pos ≤ q.pos) && decide (q.pos < pos)).length
    let first := match s.deck.data.find? fun q => decide (x.pos ≤ q.pos) with | some q => min q.data.tb stop | none => x.at_
    (s.setSess i (some { x with pos := pos, at_ := max x.at_ stop, resume := false, waits := false })).sessLoss i 0x07 n
      ⟨x.epoch, first⟩ first stop
  match s.deck.dir.find? fun e => decide (x.pos < e.first) with
  | some e => lost (if e.at_.epoch = x.epoch then min e.at_.tb x.stop else x.stop) e.first
  | none => if s.sessOver x then lost x.stop s.deck.woff else s.setSess i (some { x with resume := true, waits := true })

/-- A read reaches a record (R169, R175): it is delivered, or skipped by its length. -/
def State.sessRecord (s : State) (i : Nat) (x : Sess) (d : DRec) (poison : Poison) : State :=
  let s1 := s.setSess i (some { x with pos := d.pos + d.data.bytes, at_ := max x.at_ (min x.stop d.data.tb) })
  match poison, x.select d with
  | .header, _ => s.deckPoison.sessResume i x
  | _, none => if x.past d then s.sessDone i x else s1
  | .payload, some r => (s1.replyAdd i (r.withFlag flReduced) true).deckPoison
  | .none, some r => s1.replyAdd i r true

/-- One read of a session: the record at its position; at the write point it ends or waits; overwritten, it is overtaken (R169 to
R171, R174, R175). -/
def State.sessRead (s : State) (i : Nat) (x : Sess) (poison : Poison) : State :=
  if x.pos + s.deck.sized < s.deck.woff then
    let s1 := s.overtaken i
    if x.kind = 2 then s1.rawPlace x.ctx else if x.kind = 0 then s1.reqShow x.ctx else s1
  else if x.resume then s.sessResume i x
  else match s.deck.data.find? fun d => decide (x.pos ≤ d.pos) with
    | some d => s.sessRecord i x d poison
    | none => if s.sessOver x then s.sessDone i x else s.sessWait i x

/-- WRITE_POINT_ADVANCE (R171, R351): a session that waited continues once the writer has passed it. -/
def execWritePointAdvance (t : Tm) (sid : Fin 128) (s : State) : Host.Outcome State Fault Refusal :=
  live t s fun s =>
    match s.sess sid with
    | some x =>
      let more := s.sessOver x || decide (x.epoch < s.time.epoch)
        || (if x.resume then s.deck.dir.any fun e => decide (x.pos < e.first) else decide (x.pos < s.deck.woff))
      if x.waits && more then s.setSess sid (some { x with waits := false }) else s
    | none => s

/-! ### Deck-served events (R127, R131) -/

/-- The hits of a channel in a deck reply, within its own tile's window. -/
def replyHits (x : Extract) (c : Nat) (reply : List Rec) : List Hit :=
  let tws := x.begins.getD (c / 16) 0
  let words := (reply.filter (·.type == 0x01)).flatMap fun r =>
    ((upTo (r.body.length / 8)).map fun i => (r.tb, (r.body.drop (8 * i)).take 8)).filter fun w => field w.2 0 1 == c
  (words.map fun w =>
    let v := ofLe w.2
    (⟨hitWordTb w.1 w.2, bitsOf v 51 40, bitsOf v 59 52, bitOf v 60, bitOf v 61, bitOf v 62, bitOf v 63⟩ : Hit)).filter fun h =>
      decide (tws ≤ h.tb) && decide (h.tb < tws + x.len * scSt)

/-- The snippet records of a deck reply within their tiles' windows. -/
def replySnips (x : Extract) (reply : List Rec) : List Rec :=
  reply.filter fun r => r.type == 0x03 &&
    (let tws := x.begins.getD (field r.body 0 1 / 16) 0
     decide (tws ≤ r.tb) && decide (r.tb < tws + x.len * scSt))

/-- DECK_REPLY_TO_EXTRACTOR (R127, R130, R131): a complete reply becomes a deck-served event of the late stream. -/
def execDeckReplyToExtractor (t : Tm) (acceptId : Nat) (cls : Fin 16) (s : State) : Host.Outcome State Fault Refusal :=
  live t s fun s =>
    let mine (e : Extract × Nat) : Bool := e.1.acc.id == acceptId && e.1.acc.cls == cls.val
    match s.trg.deckAccs.find? mine with
    | none => s
    | some (x, i) =>
      match s.sess i with
      | none => s
      | some k =>
        if !k.ended then s else
        let blocks := x.chans.map fun c => s.chanBlock x c none (replyHits x c k.reply)
        let r := s.eventRec x blocks (replySnips x k.reply) true true
        let s1 := { s with trg := { s.trg with deckAccs := s.trg.deckAccs.erase (x, i) } }
        let s2 := (((s1.sessEnd i).takeSeq 0x02).bump P.CLASS_EVENTS_COUNT cls).bump P.CLASS_LATE_DECK cls
        (s2.raise 130).lateEmit r

/-! ### Service of the deck (R127, R155, R176) -/

/-- The deck comes online or goes offline; accepts that wait for a session are then not served (R127). -/
def State.deckService (s : State) (on : Bool) : State :=
  let s1 := s.deckOnline on
  if on then s1
  else
    let s2 : State := { s1 with trg := { s1.trg with deckWait := [] } }
    (s1.trg.deckWait.foldl (fun (s : State) x => s.notServed x.acc true) s2).accShow

/-- A context's queued requests and sessions are cancelled without a closing record (R215, R216). -/
def State.rewindCancel (s : State) (c : Nat) : State :=
  let mine := (s.deck.sess.filter fun e => match e.2 with | some x => x.kind != 1 && x.ctx == c | none => false).map (·.1)
  let s1 := s.each mine State.sessEnd
  let holds := (upTo 64).filter fun i => (s1.holdOf i).used && (s1.holdOf i).ctx == c
  let s2 := s1.each holds State.holdFree
  let s3 := { s2 with deck := { s2.deck with placed := s2.deck.placed.filter (· != c) } }
  (s3.modCtx c fun x => { x with requests := [], replyOn := false, reply := [], raw := [], rawAt := none }).reqShow c

end Sys2Proof.Machine
end

