-- ==== Sys2Proof/Machine/Contexts.lean ====
section
/-! DEFINITION. Readout contexts (chapter 09): links, sources, units, the schedulers, destinations, and a context's life. -/

namespace Sys2Proof.Machine

/-! ### Values that a pending write will give (R201, R324) -/

/-- A field as it stands once what is pending has taken effect. -/
def State.nextGet (s : State) (f : Fld) (i : Nat) (w : Nat := 0) : Nat :=
  match s.pendWord (f.id i w) with | some v => f.of v | none => s.get f i w

/-! ### Links (R210, R219, R222) -/

/-- The host can be reached (R375). -/
def State.hostUp (s : State) : Bool := s.host.linkUp && s.host.busMaster
/-- DMA moves: the host can be reached and the function is in D0 (R375). -/
def State.hostMoves (s : State) : Bool := s.hostUp && !s.host.d3hot

/-- A DMA write of the device (R365, R370). -/
def State.dma (s : State) (addr : Nat) (bs : List Byte) : State :=
  ({ s with host := { s.host with dmaWr := (s.host.dmaWr + bs.length) % 2 ^ 64 } }).emit (.dmaWrite addr bs)

/-- The writes that bytes go out in (R370): at most `mps` bytes each, and none across a 4 KiB boundary. -/
def tlpCut (mps : Nat) : Nat → Nat → List Byte → List (Nat × List Byte)
  | 0, _, _ => []
  | n + 1, addr, bs =>
    if bs.isEmpty then []
    else
      let k := min mps (4096 - addr % 4096)
      (addr, bs.take k) :: tlpCut mps n (addr + k) (bs.drop k)

/-- A write of data to the host, cut into posted writes (R361, R370). -/
def State.dmaData (s : State) (addr : Nat) (bs : List Byte) : State :=
  (tlpCut (128 * 2 ^ s.host.mps) bs.length addr bs).foldl (fun s w => s.dma w.1 w.2) s

/-- A DMA read of the device (R365). -/
def State.dmaGot (s : State) (n : Nat) : State := { s with host := { s.host with dmaRd := (s.host.dmaRd + n) % 2 ^ 64 } }

/-- The link of a destination (R210). -/
def State.linkFor (s : State) (kind dest : Nat) : Option Nat :=
  if kind = 0 then some 0
  else if kind = 1 then (let e := s.dataEntry dest; if e < 4 then some (1 + e) else none)
  else if kind = 2 then some 5 else none

/-- The link of a context. -/
def State.linkOf (s : State) (c : Nat) : Option Nat := s.linkFor (s.get P.CTX_CFG_DEST_KIND c) (s.get P.CTX_FAB_DEST_ADDR c)

/-- C_link in MB/s (R222, R296, R359): a fabric port at x4, or down, counts 10.5 GB/s, a narrower one its share (log entry 106). -/
def State.linkRate (s : State) (l : Nat) : Nat :=
  if l = 0 then
    (if s.host.mps = 0 then 24800 else 27000) * ([0, 25, 50, 80, 160, 320].getD s.host.gen 0) * s.host.width / 2560
  else if l = 5 then 8000
  else
    let w := s.get P.FAB_PORT_STATUS_WIDTH (l - 1)
    if w = 1 ∨ w = 2 then 10530 * w / 4 else 10500

/-- N_max of a link at a span length in µs (R222). -/
def State.nMax (s : State) (l spanUs : Nat) : Nat := min 1024 ((s.linkRate l * (spanUs / 2 - 1) - 266240) / 4096)

/-- Non-FREE contexts on a link, those about to be bound among them. -/
def State.bound (s : State) (l : Nat) : Nat :=
  (s.ctx.c.filter fun e => (e.2.state != 0 || e.2.next == some 1) && s.linkOf e.1 == some l).length

/-- The span length in µs. -/
def State.spanUs (s : State) : Nat := s.spanLen / usSt

/-- The links' counts, limits and rates (R222): source 203 when a link comes to lie above its limit. -/
def State.linkShow (s : State) : State :=
  s.each (upTo 6) fun s l =>
    let n := s.bound l
    let lim := s.nMax l s.spanUs
    let above := decide (lim < n)
    let was := s.flag P.CTX_LINK_OVER l
    ((((s.put P.CTX_LINK_BOUND l n).put P.CTX_LINK_LIMIT l lim).putB P.CTX_LINK_OVER l above).put P.CTX_LINK_RATE_MBPS l
      (s.linkRate l)).raiseIf (above && !was) 203

/-! ### Sources (R202 to R209) -/

/-- Source `i` is selected by CTX_SRC (R202). -/
def State.srcSelected (s : State) (c i : Nat) : Bool :=
  if i = 0 then s.flag P.CTX_SRC_MERGED c else if i = 1 then s.flag P.CTX_SRC_LATE c
  else if i = 2 then s.flag P.CTX_SRC_REWIND c else if i = 3 then s.flag P.CTX_SRC_RAW c
  else if i = 4 then s.get P.CTX_SRC_MON c != 0 else s.flag P.CTX_SRC_INBOUND c

/-- The six sources. -/
def sources : List Nat := [0, 1, 2, 3, 4, 5]

/-- The next record of the monitoring queue for a context (R202, R205). -/
def State.monNext (s : State) (c : Nat) : Option QRec :=
  let k := (s.ctxOf c).source 4
  s.ctx.mon.find? fun q => decide (k.pos ≤ q.pos) && s.monWants c q.data.type

/-- The next data record of a source, where it has one ready. -/
def State.srcData (s : State) (c i : Nat) : Option Rec :=
  let x := s.ctxOf c
  if !(x.source i).on then none
  else if i < 2 then (s.egressNext c i).map (·.data)
  else if i = 2 then x.reply.head?
  else if i = 3 then x.raw.head?
  else if i = 4 then (s.monNext c).map (·.data)
  else x.inbound.head?.map (·.2)

/-- The next record of a source: a loss record placed before its next record comes first (R204). -/
def State.srcPeek (s : State) (c i : Nat) : Option Rec :=
  match ((s.ctxOf c).source i).loss with
  | l :: _ => some l
  | [] => s.srcData c i

/-- Take the next data record out of a source: the state, and whether its words held an uncorrectable error (R428). -/
def State.srcDrop (s : State) (c i : Nat) : State × Bool :=
  let setPos (s : State) (p : Nat) : State := s.modCtx c fun x => x.modSource i fun k => { k with pos := p }
  if i < 2 then
    match s.egressNext c i with
    | some q => let p := s.flawAt 7 q.pos; ((setPos p.1 (q.pos + q.data.bytes)).egressMoved, p.2)
    | none => (s, false)
  else if i = 2 then (s.modCtx c fun x => { x with reply := x.reply.drop 1 }, false)
  else if i = 3 then (s.modCtx c fun x => { x with raw := x.raw.drop 1 }, false)
  else if i = 4 then
    match s.monNext c with
    | some q => let p := s.flawAt 9 q.pos; (setPos p.1 (q.pos + q.data.bytes), p.2)
    | none => (s, false)
  else
    let p := s.flawNext 10
    (p.1.modCtx c fun x => { x with inbound := x.inbound.drop 1 }, p.2)

/-- Take the next record of a source, with LOSS after a loss record of the context or of the source (R25, R28, R204). -/
def State.srcTake (s : State) (c i : Nat) : Option (State × Rec) :=
  match ((s.ctxOf c).source i).loss with
  | l :: ls => some (s.modCtx c fun x => x.modSource i fun k => { k with loss := ls, mark := true }, l)
  | [] =>
    match s.srcData c i with
    | none => none
    | some r =>
      let p := s.srcDrop c i
      let mark := ((s.ctxOf c).source i).mark
      let s1 := p.1.modCtx c fun x => x.modSource i fun k => { k with mark := r.type == 0x06 }
      some (s1, r.withFlag ((if mark then flLoss else 0) + (if p.2 then flReduced else 0)))

/-- A reply is in progress: the context's other sources wait (R207). -/
def State.replying (s : State) (c : Nat) : Bool := (s.ctxOf c).replyOn || !(s.ctxOf c).reply.isEmpty

/-- A source may be begun now (R207, R209). -/
def State.srcReady (s : State) (c i : Nat) : Bool := (s.srcPeek c i).isSome && (!s.replying c || i == 2)

/-- The source the round robin takes next (R209). -/
def State.srcChoose (s : State) (c : Nat) : Option Nat :=
  let turn := (s.ctxOf c).turn
  ((sources.map fun i => (turn + i) % 6).find? fun i => s.srcReady c i)

/-- Where an attached source has got to (R209). -/
def State.srcProgress (s : State) (i : Nat) : Stamp := if i = 0 then s.seam.rp else s.stamp

/-! ### Attaching and detaching (R203, R206) -/

/-- A source attaches at the boundary just taken. -/
def State.srcAttach (s : State) (c i : Nat) : State :=
  let pos := if i < 2 then s.ctx.egressEnd else s.ctx.monEnd
  (s.modCtx c fun x => x.modSource i fun k => { k with on := true, pos := pos, since := s.time.last, sinceEpoch := s.time.epoch }).modCtx c
    fun x => if i = 3 then { x with rawAt := some ⟨s.time.epoch, s.time.last⟩ } else x

/-- A source detaches (R203). -/
def State.srcDetach (s : State) (c i : Nat) : State :=
  let s1 := s.modCtx c fun x => x.modSource i fun k => { k with on := false, loss := [], mark := false }
  if i < 2 then s1.egressMoved
  else if i = 2 then
    let raw := (s1.ctxOf c).raw
    let at_ := (s1.ctxOf c).rawAt
    (s1.rewindCancel c).modCtx c fun x => { x with raw := raw, rawAt := at_ }
  else if i = 3 then
    let mine := (s1.deck.sess.filter fun e => match e.2 with | some x => x.kind == 2 && x.ctx == c | none => false).map (·.1)
    (s1.each mine State.sessEnd).modCtx c fun x => { x with raw := [], rawAt := none }
  else if i = 5 then s1.modCtx c fun x => { x with inbound := [], laneLoss := [] }
  else s1

/-- Sources attach and detach as CTX_SRC now selects them. -/
def State.ctxSources (s : State) (c : Nat) : State :=
  s.each sources fun s i =>
    let on := ((s.ctxOf c).source i).on
    if s.srcSelected c i && !on then s.srcAttach c i else if !s.srcSelected c i && on then s.srcDetach c i else s

/-! ### Credit (R210, R218) -/

/-- Units in flight on a link. -/
def State.flight (s : State) (l : Nat) : List CtxUnit := Tbl.get [] s.ctx.flight l
/-- Set the units in flight on a link. -/
def State.setFlight (s : State) (l : Nat) (us : List CtxUnit) : State :=
  { s with ctx := { s.ctx with flight := Tbl.set [] s.ctx.flight l us } }

/-- Bytes a context has reserved on a link. -/
def State.reserved (s : State) (c l : Nat) : Nat := (((s.flight l).filter fun u => u.ctx == c).map (·.bytes)).sum

/-- A context has units in flight. -/
def State.flying (s : State) (c : Nat) : Bool := (upTo 6).any fun l => (s.flight l).any fun u => u.ctx == c

/-- Size of a context's DDR5 region. -/
def State.regionSize (s : State) (c : Nat) : Nat := s.get P.CTX_DDR_DEST_SIZE_MIB c * mib
/-- First address of a context's DDR5 region. -/
def State.regionBase (s : State) (c : Nat) : Nat := s.ctxBase + s.get P.CTX_DDR_DEST_BASE_MIB c * mib

/-- Destination credit of a context that no unit holds (R210). -/
def State.credit (s : State) (c l : Nat) : Nat :=
  let x := s.ctxOf c
  if x.state ≠ 1 then 0
  else if l = 0 then
    if s.hostMoves then (x.bufs.map fun b => b.size - b.used).sum - s.reserved c l - x.tailUnit.length else 0
  else if l = 5 then
    if !s.ddrOn || !s.inArea 2 (s.regionBase c) (s.regionSize c) || s.regionSize c == 0 then 0
    else if s.flag P.CTX_CFG_WRAP c then 2 ^ 32
    else s.regionSize c - (s.get P.CTX_DDR_WOFF_OFFSET c - s.get P.CTX_DDR_RD_OFFSET c) - s.reserved c l - x.tailUnit.length
  else if s.portCarries (l - 1) then x.fabCredit - s.reserved c l else 0

/-! ### Units (R209, R218) -/

/-- Begin a record in a unit: the bytes that fit, the rest kept back (R209). -/
def State.unitBegin (s : State) (c i need : Nat) (r : List Byte) (key : Stamp) (keep : Bool) (u : CtxUnit) : State × CtxUnit :=
  let u1 := { u with starts := u.starts ++ [u.data.length], data := u.data ++ r.take need }
  let u2 := if r.length ≤ need then { u1 with ends := u1.ends ++ [u1.data.length] } else u1
  (s.modCtx c fun x => { x with
    cut := r.drop need, cutSrc := i, cutKey := key, kept := if keep then x.kept ++ [(i, r)] else x.kept }, u2)

/-- Go on with the record that has begun. -/
def State.unitCut (s : State) (c need : Nat) (u : CtxUnit) : State × CtxUnit :=
  let cut := (s.ctxOf c).cut
  let u1 := { u with data := u.data ++ cut.take need }
  let u2 := if cut.length ≤ need ∧ cut ≠ [] then { u1 with ends := u1.ends ++ [u1.data.length] } else u1
  (s.modCtx c fun x => { x with cut := cut.drop need }, u2)

/-- Whether a context keeps what it has sent until it is written back (R216). -/
def State.keeps (s : State) (c : Nat) : Bool := s.get P.CTX_CFG_DEST_KIND c == 0 && !s.flag P.CTX_CFG_PRESS c

/-- Fill a unit with whole records of one source, `n` of them at most, the last one cut where the space ends. -/
def State.unitFill (s : State) (c i size : Nat) (u : CtxUnit) : Nat → State × CtxUnit
  | 0 => (s, u)
  | n + 1 =>
    if size ≤ u.data.length || !s.srcReady c i then (s, u) else
    match s.srcTake c i with
    | none => (s, u)
    | some (s1, r) =>
      let p := s1.unitBegin c i (size - u.data.length) r.encode r.stamp (s.keeps c) u
      p.1.unitFill c i size p.2 n

/-- The next unit of an uncompressed context, of at most `size` bytes (R209, R216, R218). -/
def State.unitPlain (s : State) (c size : Nat) : Option (State × CtxUnit) :=
  let x := s.ctxOf c
  let u : CtxUnit := { CtxUnit.reset with ctx := c }
  let done (p : State × CtxUnit) : Option (State × CtxUnit) := some (p.1, { p.2 with bytes := p.2.data.length })
  if size = 0 then none
  else if x.cut ≠ [] then
    let p := s.unitCut c size { u with src := x.cutSrc }
    if (p.1.ctxOf c).cut ≠ [] || !(p.1.ctxOf c).again.isEmpty then done p else done (p.1.unitFill c x.cutSrc size p.2 size)
  else match x.again with
    | (i, r) :: rest =>
      done ((s.modCtx c fun x => { x with again := rest }).unitBegin c i size r s.stamp true { u with src := i })
    | [] =>
      match s.srcChoose c with
      | none => none
      | some i => done ((s.modCtx c fun x => { x with turn := (i + 1) % 6 }).unitFill c i size { u with src := i } size)

/-- Fill a press job up to 65,536 B and the end of its span, `n` records at most (R209). Answers whether the job is closed. -/
def State.jobFill (s : State) (c i : Nat) (stop : Stamp) (u : CtxUnit) : Nat → State × CtxUnit × Bool
  | 0 => (s, u, true)
  | n + 1 =>
    if 65536 ≤ u.data.length then (s, u, true) else
    match s.srcPeek c i with
    | none => (s, u, !((s.srcProgress i).before stop))
    | some r =>
      if !(r.stamp.before stop) then (s, u, true)
      else if !s.srcReady c i then (s, u, false)
      else match s.srcTake c i with
        | none => (s, u, false)
        | some (s1, r) =>
          let fl := u.flags ||| r.flags % 16
          let p := s1.unitBegin c i (65536 - u.data.length) r.encode r.stamp false
            { u with flags := fl, key := if u.starts.isEmpty then r.stamp else u.key, last := r.stamp }
          p.1.jobFill c i stop p.2 n

/-- The end of the span that holds an instant. -/
def State.spanEnd (s : State) (k : Stamp) : Stamp := ⟨k.epoch, boundaryAfter k.tb s.spanLen⟩

/-- The bytes a job reserves: its growth bound and its container header (R218, R231). -/
def jobBound (n : Nat) : Nat := n + 8 * ceilDiv n 4096 + 64

/-- The next job of a compressed context, where it is closed (R209, R237). -/
def State.unitJob (s : State) (c : Nat) : Option (State × CtxUnit) :=
  let x := s.ctxOf c
  let u : CtxUnit := { CtxUnit.reset with ctx := c, job := true, ready := false }
  let finish (p : State × CtxUnit × Bool) : Option (State × CtxUnit) :=
    if p.2.2 && !p.2.1.data.isEmpty then
      let d := p.2.1
      some (p.1, { d with
        input := d.data, data := [], bytes := jobBound d.data.length, contOut := !(p.1.ctxOf c).cut.isEmpty })
    else none
  if x.cut ≠ [] then
    let p := s.unitCut c 65536 { u with src := x.cutSrc, key := x.cutKey, last := x.cutKey, contIn := true }
    if (p.1.ctxOf c).cut ≠ [] then finish (p.1, p.2, true) else finish (p.1.jobFill c x.cutSrc (s.spanEnd x.cutKey) p.2 65536)
  else
    match (sources.map fun i => (x.turn + i) % 6).findSome? fun i =>
      if s.srcReady c i then
        match s.srcPeek c i with
        | some r => finish ((s.modCtx c fun x => { x with turn := (i + 1) % 6 }).jobFill c i (s.spanEnd r.stamp) { u with src := i } 65536)
        | none => none
      else none with
    | some p => some p
    | none => none

/-- A unit resent after a rebind: a container written whole (R216). -/
def State.unitAgain (s : State) (c : Nat) : Option (State × CtxUnit) :=
  match (s.ctxOf c).again with
  | [] => none
  | (i, r) :: rest =>
    some (s.modCtx c fun x => { x with again := rest, kept := x.kept ++ [(i, r)] },
      { CtxUnit.reset with ctx := c, src := i, data := r, bytes := r.length, starts := [0], ends := [r.length] })

/-- The engines that serve contexts: all but the highest MBOX_ENGINES (R248). -/
def State.ctxEngines (s : State) : List Nat := upTo (6 - min 6 (s.get P.PRESS_CFG_MBOX_ENGINES 0))

/-- An engine runs nothing. -/
def State.engineFree (s : State) (e : Nat) : Bool := (Tbl.get none s.press.run e).isNone && (Tbl.get none s.press.ctxRun e).isNone

/-- A free engine may take a job: while throttled at most three engines run at once (R492). -/
def State.engineMay (s : State) (e : Nat) : Bool :=
  s.engineFree e &&
    (!s.flag P.THERM_STATUS_THROTTLED 0 || decide (((upTo 6).filter fun k => !s.engineFree k).length < 3))

/-- The lowest free engine for a context's job. -/
def State.ctxEngine (s : State) : Option Nat := s.ctxEngines.find? s.engineMay

/-- The next unit of a context, whatever credit it holds. -/
def State.unitNext (s : State) (c : Nat) : Option (State × CtxUnit) :=
  if s.flag P.CTX_CFG_PRESS c then (match s.unitAgain c with | some p => some p | none => s.unitJob c) else s.unitPlain c 4096

/-- A context is backlogged (R219). -/
def State.backlogged (s : State) (c : Nat) : Bool :=
  let x := s.ctxOf c
  (x.state == 1 || x.state == 2) && (if s.flag P.CTX_CFG_PRESS c then (s.unitNext c).isSome
    else !x.cut.isEmpty || !x.again.isEmpty || (s.srcChoose c).isSome)

/-- What a context shows; source 200 when a wait for credit begins, and the deficit of a context that is no longer backlogged
(R219, R220). -/
def State.ctxEval (s : State) (c : Nat) : State :=
  match s.linkOf c with
  | none => s
  | some l =>
    let b := s.backlogged c
    let wait := b && s.credit c l == 0
    let was := s.flag P.CTX_STATUS_CREDIT_WAIT c
    let s1 := ((s.putB P.CTX_STATUS_BACKLOGGED c b).putB P.CTX_STATUS_CREDIT_WAIT c wait).raiseIf (wait && !was) 200
    if b then s1 else s1.put P.CTX_DEFICIT_BYTES c 0

/-! ### The scheduler (R219 to R221) -/

/-- A unit of a context that holds every resource (R217, R218): credit, an engine for a job, room in flight. -/
def State.grantable (s : State) (c l : Nat) : Option (State × CtxUnit) :=
  let cr := s.credit c l
  let u := if s.flag P.CTX_CFG_PRESS c then s.unitNext c else s.unitPlain c (min 4096 cr)
  match u with
  | none => none
  | some (s1, u) =>
    let room := decide ((s.flight l).length < 4) && decide (((s.flight l).map (·.bytes)).sum + u.bytes ≤ 266240)
    let engine := !u.job || s.ctxEngine.isSome
    if decide (u.bytes ≤ cr) && room && engine && decide (0 < u.bytes) then some (s1, u) else none

/-- The size a unit counts for in the deficit: its input (R220). -/
def CtxUnit.size (u : CtxUnit) : Nat := if u.job then u.input.length else u.data.length

/-- A unit is granted (R218, R219); the link grants its next one 4 cc later at the earliest. -/
def State.grant (s : State) (l c : Nat) (p : State × CtxUnit) : State :=
  let s0 := p.1.setFlight l (s.flight l ++ [p.2])
  let s1 := { s0 with ctx := { s0.ctx with grantFrom := Tbl.set 0 s0.ctx.grantFrom l (s.time.now + 4 * ccSt) } }
  let s2 := s1.modCtx c fun x => { x with served := true }
  match if p.2.job then s.ctxEngine else none with
  | some e => (({ s2 with press := { s2.press with
      ctxRun := Tbl.set none s2.press.ctxRun e (some c), begun := Tbl.set 0 s2.press.begun e s.time.now } }).put
      P.PRESS_ENG_STATUS_STATE e 1).put P.PRESS_ENG_STATUS_CONTEXT e c
  | none => s2

/-- Contexts on a link that are backlogged and hold credit. -/
def State.eligible (s : State) (l : Nat) : List Nat :=
  (s.ctx.c.filter fun e => e.2.state == 1 && s.linkOf e.1 == some l && s.backlogged e.1 && decide (0 < s.credit e.1 l)).map (·.1)

/-- A list of contexts in number order, starting after the one last served. -/
def fromAfter (last : Nat) (cs : List Nat) : List Nat := cs.filter (fun c => decide (last ≤ c)) ++ cs.filter fun c => decide (c < last)

/-- The deficit's cap (R220). -/
def State.deficitCap (s : State) (c : Nat) : Nat := s.get P.CTX_CFG_WEIGHT c * 4096 + 65536

/-- Visit contexts in order until one is granted (R220): one whose resources are not all free keeps its place and its deficit, and
the next is visited (R217, R219). -/
def State.visit (s : State) (l k : Nat) : List Nat → State
  | [] => s
  | c :: cs =>
    let d := min (s.deficitCap c) (s.get P.CTX_DEFICIT_BYTES c + s.get P.CTX_CFG_WEIGHT c * 4096)
    let s1 := s.put P.CTX_DEFICIT_BYTES c d
    let s2 := { s1 with ctx := { s1.ctx with rr := Tbl.set 0 s1.ctx.rr (4 * l + k) (c + 1) } }
    (s1.grantable c l).elim (s.visit l k cs) fun p =>
      if p.2.size ≤ d then (s2.grant l c ({ p.1 with ctx := { p.1.ctx with rr := s2.ctx.rr } }, p.2)).put P.CTX_DEFICIT_BYTES c (d - p.2.size)
      else s2.visit l k cs

/-- Repeat a list. -/
def rounds {α : Type} (l : List α) : Nat → List α
  | 0 => []
  | n + 1 => l ++ rounds l n

/-- The grant of a class on a link (R220): the visit in progress goes on, or passes on to the next context. -/
def State.classGrant (s : State) (l k : Nat) (cs : List Nat) : State :=
  let v := Tbl.get 0 s.ctx.rr (4 * l + k)
  let next := s.visit l k (rounds (fromAfter v cs) 17)
  if v = 0 || !cs.contains (v - 1) then next
  else
    let c := v - 1
    let d := s.get P.CTX_DEFICIT_BYTES c
    match s.grantable c l with
    | none => next
    | some p => if p.2.size ≤ d then (s.grant l c p).put P.CTX_DEFICIT_BYTES c (d - p.2.size) else next

/-- The next floor-due context of a link whose unit holds every resource (R217, R221). -/
def State.floorNext (s : State) (l : Nat) : Option Nat :=
  (fromAfter (Tbl.get 0 s.ctx.floorRr l) (s.eligible l)).find? fun c =>
    s.flag P.CTX_STATUS_FLOOR_DUE c && (s.grantable c l).isSome

/-- A floor unit (R221): it leaves the deficit alone. -/
def State.floorGrant (s : State) (l c : Nat) : State :=
  match s.grantable c l with
  | none => s
  | some p =>
    let s1 := ((s.grant l c p).putB P.CTX_STATUS_FLOOR_DUE c false).bump P.CTX_FLOOR_UNITS c
    { s1 with ctx := { s1.ctx with floorRr := Tbl.set 0 s1.ctx.floorRr l (c + 1) } }

/-- SCHEDULER_GRANT (R202, R207, R209, R210, R217 to R221): a link grants one unit, to a floor-due context first, else to the
highest class with an eligible context. -/
def execSchedulerGrant (t : Tm) (link : Fin 6) (s : State) : Host.Outcome State Fault Refusal :=
  live t s fun s =>
    if s.abut || decide (s.time.now < Tbl.get 0 s.ctx.grantFrom link) then s else
    let mine := (s.ctx.c.filter fun e => (e.2.state == 1 || e.2.state == 2) && s.linkOf e.1 == some link.val).map (·.1)
    let s := s.each mine State.ctxEval
    match s.floorNext link with
    | some c => s.floorGrant link c
    | none =>
      let el := s.eligible link
      match [0, 1, 2, 3].find? fun k => el.any fun c => s.get P.CTX_CFG_CLASS c == k with
      | some k => s.classGrant link k (el.filter fun c => s.get P.CTX_CFG_CLASS c == k)
      | none => s

/-! ### The host destination (R211 to R214) -/

/-- The bytes written back so far release the records that end in them (R216). -/
def dropKept : Nat → List (Nat × List Byte) → List (Nat × List Byte) × Nat
  | n, [] => ([], n)
  | n, (i, r) :: rs => if r.length ≤ n then dropKept (n - r.length) rs else ((i, r) :: rs, n)

/-- Buffers refused as BAD at the front of the ring are passed over. -/
def CtxSt.passBad (x : CtxSt) : Nat → CtxSt
  | 0 => x
  | n + 1 => match x.bufs with
    | b :: bs => if b.size = 0 then ({ x with bufs := bs, cons := (b.index + 1) % 65536 }).passBad n else x
    | [] => x

/-- The notification of a write-back (R214). -/
def State.ctxNotify (s : State) (c : Nat) : State :=
  if s.flag P.CTX_CFG_NOTIFY_EN c && (s.ctxOf c).arm then
    (s.modCtx c fun x => { x with arm := false }).raise (208 + s.get P.CTX_CFG_NOTIFY c)
  else s

/-- The 16 bytes of a descriptor as written back (R211). -/
def descBytes (addr used : Nat) (start stop flushed bad : Bool) : List Byte :=
  le 8 addr ++ le 4 used ++ [BitVec.ofNat 8 (1 + 2 * b2n start + 4 * b2n stop + 8 * b2n flushed + 16 * b2n bad), 0, 0, 0]

/-- The address of entry `i` of a context's descriptor ring. -/
def State.ringEntry (s : State) (c i : Nat) : Nat := s.get P.CTX_RING_BASE_ADDR c + 16 * (i % 2 ^ s.get P.CTX_RING_CFG_LOG2 c)

/-- The front buffer is written back with `used` bytes (R212, R214). -/
def State.bufBack (s : State) (c : Nat) (b : Buf) (used : Nat) (flushed : Bool) : State :=
  let s1 := s.dma (s.ringEntry c b.index) (descBytes b.addr used b.start (if flushed then true else b.endsNow) flushed false)
  let s2 := s1.modCtx c fun x =>
    let k := dropKept (x.keptOff + used) x.kept
    ({ x with bufs := x.bufs.drop 1, cons := (b.index + 1) % 65536, kept := k.1, keptOff := k.2 }).passBad 8
  s2.ctxNotify c

/-- The buffer after a chunk of `n` bytes with the record ends and starts given as offsets in the chunk. -/
def Buf.fill (b : Buf) (chunk : List Byte) (starts ends : List Nat) : Buf :=
  let es := ends.filter fun e => decide (0 < e) && decide (e ≤ chunk.length)
  let e := es.foldl max 0
  { b with
    used := b.used + chunk.length,
    start := if b.used = 0 then starts.contains 0 else b.start,
    lastEnd := if e = 0 then b.lastEnd else b.used + e,
    endsNow := if chunk.isEmpty then b.endsNow else e == chunk.length,
    tail := if e = 0 then b.tail ++ chunk else chunk.drop e }

/-- Fill buffers with bytes of the stream; each full one is written back (R212). -/
def State.hostPlace (s : State) (c : Nat) (bs : List Byte) (starts ends : List Nat) : Nat → State
  | 0 => s
  | n + 1 =>
    if bs.isEmpty then s else
    match (s.ctxOf c).bufs with
    | [] => s.modCtx c fun x => { x with tailUnit := x.tailUnit ++ bs }
    | b :: rest =>
      let k := min (b.size - b.used) bs.length
      let s1 := s.dmaData (b.addr + b.used) (bs.take k)
      let b1 := b.fill (bs.take k) starts ends
      if b1.used = b1.size then
        (s1.bufBack c b1 b1.used false).hostPlace c (bs.drop k) ((starts.filter (k ≤ ·)).map (· - k)) ((ends.filter (k < ·)).map (· - k)) n
      else s1.modCtx c fun x => { x with bufs := b1 :: rest }

/-- Data reaches the host: bytes that waited for a buffer go first. -/
def State.hostPut (s : State) (c : Nat) (u : CtxUnit) : State :=
  let tail := (s.ctxOf c).tailUnit
  let k := tail.length
  let s1 := s.modCtx c fun x => ({ x with tailUnit := [] }).passBad 8
  s1.hostPlace c (tail ++ u.data) ((if k = 0 then [] else [0]) ++ u.starts.map (k + ·)) (u.ends.map (k + ·)) 20

/-! ### Fabric and DDR5 destinations (R210, R256, R351) -/

/-- Send one frame of a context's stream. -/
def State.ctxFrame (s : State) (c p vc : Nat) (bs : List Byte) (last : Bool) : State :=
  let x := s.ctxOf c
  let words := toWords bs
  let words := if x.begun then words else BitVec.ofNat 64 (s.get P.CTX_FAB_DEST_REMOTE c) :: words
  (s.modCtx c fun x => { x with begun := !last }).fabQueue p
    [⟨vc, !x.begun, last, s.get P.CTX_FAB_DEST_ADDR c, s.origin, 0, 0, 3, words, 0, 0⟩]

/-- Bytes a frame of the present record takes: the delivery word stands in its first. -/
def State.frameRoom (s : State) (c : Nat) : Nat := if (s.ctxOf c).begun then 256 else 248

/-- Frames from bytes of one record: full frames go, the rest waits in the coalescer unless the record ends. -/
def State.fabPiece (s : State) (c p vc : Nat) (bs : List Byte) (ended : Bool) : Nat → State
  | 0 => s
  | n + 1 =>
    let room := s.frameRoom c
    if room < bs.length then (s.ctxFrame c p vc (bs.take room) false).fabPiece c p vc (bs.drop room) ended n
    else if ended then s.ctxFrame c p vc bs true
    else s.modCtx c fun x => { x with tailUnit := bs }

/-- The pieces of a unit between record ends; `done` bytes of it have gone. -/
def State.fabPut (s : State) (c p vc : Nat) (bs : List Byte) (done : Nat) : List Nat → State
  | [] => if bs.isEmpty then s else
      let tail := (s.ctxOf c).tailUnit
      (s.modCtx c fun x => { x with tailUnit := [] }).fabPiece c p vc (tail ++ bs) false (tail.length + bs.length)
  | e :: es =>
    let tail := (s.ctxOf c).tailUnit
    let piece := tail ++ bs.take (e - done)
    ((s.modCtx c fun x => { x with tailUnit := [] }).fabPiece c p vc piece true piece.length).fabPut c p vc (bs.drop (e - done)) e es

/-- Write bytes at a context's write offset, wrapping at the region's end (R210). -/
def State.regionWrite (s : State) (c : Nat) (bs : List Byte) : State :=
  let size := s.regionSize c
  let w := s.get P.CTX_DDR_WOFF_OFFSET c
  let k := size - w % size
  let s0 := (s.ddrUse 4 true (s.regionBase c + w % size) (bs.take k).length).ddrUse 4 true (s.regionBase c) (bs.drop k).length
  let s1 := (s0.ddrWrite (s.regionBase c + w % size) (bs.take k)).ddrWrite (s.regionBase c) (bs.drop k)
  s1.put P.CTX_DDR_WOFF_OFFSET c (w + bs.length)

/-- Data reaches the DDR5 region in units of 256 B (R351, R439). -/
def State.ddrPut (s : State) (c : Nat) (bs : List Byte) : State :=
  let all := (s.ctxOf c).tailUnit ++ bs
  let w := s.get P.CTX_DDR_WOFF_OFFSET c
  let n := (w + all.length) / 256 * 256 - w
  (s.regionWrite c (all.take n)).modCtx c fun x => { x with tailUnit := all.drop n }

/-! ### Delivery (R208, R212, R439) -/

/-- Credit of inbound bytes goes back in 4 KiB units (R208). -/
def State.inboundDone (s : State) (c src n : Nat) : State :=
  let have_ := Tbl.get 0 (s.ctxOf c).inDone src + n
  let units := have_ / 4096
  let s1 := s.modCtx c fun x => { x with inDone := Tbl.set 0 x.inDone src (have_ % 4096) }
  if units = 0 ∨ src = s.origin then s1 else s1.emit (.control src [4, c, units])

/-- The coalescer of a context holds something. -/
def State.coalescing (s : State) (c : Nat) : Bool :=
  let x := s.ctxOf c
  !x.tailUnit.isEmpty || (match x.bufs with | b :: _ => decide (0 < b.used) | [] => false)

/-- The coalescer's timer: it starts when the coalescer becomes non-empty and restarts when it is drained (R439). -/
def State.coalesce (s : State) (c : Nat) (drained : Bool) : State :=
  let at_ := if !s.coalescing c then none
    else if drained then some s.time.now
    else match (s.ctxOf c).coalesceFrom with | some t => some t | none => some s.time.now
  s.modCtx c fun x => { x with coalesceFrom := at_ }

/-- A unit can be handed over now. -/
def State.deliverable (s : State) (l : Nat) (u : CtxUnit) : Bool :=
  u.ready && (if l = 0 then s.hostMoves && decide (u.data.length + (s.ctxOf u.ctx).tailUnit.length ≤
      ((s.ctxOf u.ctx).bufs.map fun b => b.size - b.used).sum)
    else if l = 5 then s.ddrOn else s.portCarries (l - 1))

/-- The oldest unit that can be handed over, none of its context before it. -/
def State.nextUnit (s : State) (l : Nat) : List CtxUnit → List Nat → Option CtxUnit
  | [], _ => none
  | u :: us, seen =>
    if s.deliverable l u && !seen.contains u.ctx then some u else s.nextUnit l us (u.ctx :: seen)

/-- Hand a unit's bytes to its destination. -/
def State.unitPut (s : State) (l : Nat) (u : CtxUnit) : State :=
  let c := u.ctx
  if l = 0 then
    let before := (s.ctxOf c).cons
    let s1 := s.hostPut c u
    s1.coalesce c ((s1.ctxOf c).cons != before)
  else if l = 5 then
    let before := s.get P.CTX_DDR_WOFF_OFFSET c
    let s1 := s.ddrPut c u.data
    s1.coalesce c (s1.get P.CTX_DDR_WOFF_OFFSET c != before)
  else
    let vc := if u.src = 2 then 3 else 2
    let s1 := (s.modCtx c fun x => { x with fabCredit := x.fabCredit - u.data.length }).fabPut c (l - 1) vc u.data 0 u.ends
    s1.coalesce c true

/-- UNIT_TRANSFER_COMPLETE (R208, R211, R212, R214, R370, R371): the oldest unit ready on a link reaches its destination. -/
def execUnitTransferComplete (t : Tm) (link : Fin 6) (s : State) : Host.Outcome State Fault Refusal :=
  live t s fun s =>
    match s.nextUnit link (s.flight link) [] with
    | none => s
    | some u =>
      let s1 := (s.setFlight link ((s.flight link).erase u)).unitPut link u
      (s1.put P.CTX_BYTES_BYTES u.ctx (s1.get P.CTX_BYTES_BYTES u.ctx + u.data.length)).put P.CTX_RECS_RECORDS u.ctx
        (s1.get P.CTX_RECS_RECORDS u.ctx + u.ends.length)

/-- The coalescer of a context flushes (R212, R439). -/
def State.flushUnit (s : State) (c : Nat) : State :=
  let x := s.ctxOf c
  match s.linkOf c with
  | none => s
  | some 0 =>
    match x.bufs with
    | b :: _ =>
      if b.lastEnd = 0 || !s.hostMoves then s.modCtx c fun x => { x with coalesceFrom := some s.time.now }
      else ((s.bufBack c b b.lastEnd true).hostPlace c b.tail [0] [] 20).coalesce c true
    | [] => s.coalesce c true
  | some 5 => if s.ddrOn then ((s.regionWrite c x.tailUnit).modCtx c fun x => { x with tailUnit := [] }).coalesce c true else s
  | some l =>
    let vc := if x.cutSrc = 2 then 3 else 2
    if x.tailUnit.isEmpty then s.coalesce c true
    else ((s.ctxFrame c (l - 1) vc x.tailUnit false).modCtx c fun x => { x with tailUnit := [] }).coalesce c true

/-- COALESCER_TIMEOUT (R212, R214, R439): a coalescer that has not been drained for MEM_COALESCE flushes. -/
def execCoalescerTimeout (t : Tm) (ctx : Ctx) (s : State) : Host.Outcome State Fault Refusal :=
  live t s fun s =>
    match (s.ctxOf ctx).coalesceFrom with
    | some f => if f + s.get P.MEM_COALESCE_US 0 * usSt ≤ s.time.now then s.flushUnit ctx else s
    | none => s

/-! ### Doorbells, descriptors and requests (R207, R211 to R214) -/

/-- Buffer descriptors are posted; an overrun of the ring is ignored with source 201 (R213). -/
def State.ctxDoorbell (s : State) (c prod : Nat) : State :=
  if 2 ^ s.get P.CTX_RING_CFG_LOG2 c < (prod + 65536 - (s.ctxOf c).cons) % 65536 then s.raise 201
  else s.modCtx c fun x => { x with prod := prod }

/-- Request entries are posted (R207, R213). -/
def State.ctxReqDoorbell (s : State) (c prod : Nat) : State :=
  if 2 ^ s.get P.CTX_RING_CFG_REQ_LOG2 c < (prod + 65536 - (s.ctxOf c).reqCons) % 65536 then s.raise 201
  else s.modCtx c fun x => { x with reqProd := prod }

/-- CTX_DOORBELL_WRITE (R213). -/
def execCtxDoorbellWrite (t : Tm) (ctx : Ctx) (prod : BitVec 16) (s : State) : Host.Outcome State Fault Refusal :=
  live t s fun s => s.ctxDoorbell ctx prod.toNat

/-- CTX_REQ_DOORBELL_WRITE (R207, R213). -/
def execCtxReqDoorbellWrite (t : Tm) (ctx : Ctx) (prod : BitVec 16) (s : State) : Host.Outcome State Fault Refusal :=
  live t s fun s => s.ctxReqDoorbell ctx prod.toNat

/-- CTX_NOTIFY_ARM (R214). -/
def execCtxNotifyArm (t : Tm) (ctx : Ctx) (s : State) : Host.Outcome State Fault Refusal :=
  live t s fun s => s.modCtx ctx fun x => { x with arm := true }

/-- A descriptor's size and alignment are valid (R211). -/
def descOk (addr size : Nat) : Bool :=
  addr % 64 == 0 && size % 4096 == 0 && decide (4096 ≤ size) && decide (size ≤ 16773120)

/-- DESCRIPTOR_FETCH (R211, R212): a posted descriptor is fetched, or written back BAD with source 201. -/
def execDescriptorFetch (t : Tm) (ctx : Ctx) (desc : List Byte) (s : State) : Host.Outcome State Fault Refusal :=
  live t s fun s =>
    let x := s.ctxOf ctx
    if x.state != 1 || s.get P.CTX_CFG_DEST_KIND ctx != 0 || !s.hostMoves || x.fetched == x.prod || decide (8 ≤ x.bufs.length) then s
    else
      let addr := field desc 0 8
      let size := field desc 8 4
      let ok := descOk addr size
      let b : Buf := { Buf.reset with addr := addr, size := if ok then size else 0, index := x.fetched }
      let s1 := (s.dmaGot 16).modCtx ctx fun x => ({ x with bufs := x.bufs ++ [b], fetched := (x.fetched + 1) % 65536 }).passBad 8
      if ok then s1 else (s1.dma (s.ringEntry ctx x.fetched) (descBytes addr 0 false false false true)).raise 201

/-- REQUEST_ENTRY_READ (R167, R207): a request ring entry is read and its status written back. -/
def execRequestEntryRead (t : Tm) (ctx : Ctx) (desc : List Byte) (s : State) : Host.Outcome State Fault Refusal :=
  live t s fun s =>
    let x := s.ctxOf ctx
    if x.state != 1 || s.get P.CTX_CFG_DEST_KIND ctx != 0 || !s.hostMoves || x.reqCons == x.reqProd then s
    else
      let p := if (Req.parse desc).ctx = ctx.val then s.rewind ctx desc else (s, stBadParam)
      let entry := s.get P.CTX_REQ_BASE_ADDR ctx + 64 * (x.reqCons % 2 ^ s.get P.CTX_RING_CFG_REQ_LOG2 ctx)
      ((p.1.dmaGot 64).modCtx ctx fun x => { x with reqCons := (x.reqCons + 1) % 65536 }).dma (entry + 26) [BitVec.ofNat 8 p.2, 1]

/-! ### Life (R208, R215, R216, R222) -/

/-- Show and report a context's state (R215). -/
def State.ctxState (s : State) (c n : Nat) : State :=
  if (s.ctxOf c).state = n then s
  else ((s.modCtx c fun x => { x with state := n }).put P.CTX_STATUS_STATE c n).raise 201

/-- The inbound windows reserved (R208). -/
def State.inboundShow (s : State) (n : Nat) : State :=
  ({ s with ctx := { s.ctx with inboundUsed := n } }).put P.INBOUND_STATUS_RESERVED_KIB 0 (4 * n)

/-- The inbound window a context holds reserved: it has been created, with INBOUND selected. -/
def State.inboundWindow (s : State) (c : Nat) : Nat := if s.nextGet P.CTX_SRC_INBOUND c = 1 then s.nextGet P.CTX_INBOUND_WINDOW c else 0

/-- OP = 1 (R208, R215, R222): the status, and the context bound at the next boundary. -/
def State.ctxCreate (s : State) (c : Nat) : State × Nat :=
  let x := s.ctxOf c
  let kind := s.nextGet P.CTX_CFG_DEST_KIND c
  let w := s.inboundWindow c
  if x.state != 0 || x.next.isSome then (s, stDenied)
  else if kind = 1 ∧ 0 < w then (s, stBadParam)
  else
    let full := match s.linkFor kind (s.nextGet P.CTX_FAB_DEST_ADDR c) with
      | some l => decide (s.nMax l s.spanUs ≤ s.bound l)
      | none => false
    if full || decide (256 < s.ctx.inboundUsed + w) then (s, stNoResource)
    else (((s.modCtx c fun x => { x with next := some 1, window := w }).inboundShow (s.ctx.inboundUsed + w)).linkShow, stOk)

/-- OP = 2 (R215): no new units, the rewind session cancelled, the hold released. -/
def State.ctxDestroy (s : State) (c : Nat) : State × Nat :=
  if (s.ctxOf c).state ≠ 1 then (s, stDenied)
  else ((((s.modCtx c fun x => { x with next := none, rebind := false, cut := [], again := [] }).rewindCancel c).ctxState c 3).linkShow, stOk)

/-- OP = 3 (R215, R216): rebound at the next boundary. -/
def State.ctxRebind (s : State) (c : Nat) : State × Nat :=
  let x := s.ctxOf c
  if x.state = 1 ∨ x.state = 2 then (s.modCtx c fun x => { x with next := some 1, rebind := true }, stOk) else (s, stDenied)

/-- A write of CTX_CTRL.OP (R215). -/
def State.ctxOp (s : State) (c op : Nat) : State × Nat :=
  if op = 1 then s.ctxCreate c else if op = 2 then s.ctxDestroy c else if op = 3 then s.ctxRebind c else (s, stBadParam)

/-- CTX_CREATE (R208, R215, R222). -/
def execCtxCreate (t : Tm) (ctx : Ctx) (s : State) : Host.Outcome State Fault Refusal := live t s fun s => (s.ctxCreate ctx).1

/-- CTX_DESTROY (R215). -/
def execCtxDestroy (t : Tm) (ctx : Ctx) (s : State) : Host.Outcome State Fault Refusal := live t s fun s => (s.ctxDestroy ctx).1

/-- CTX_REBIND (R215, R216). -/
def execCtxRebind (t : Tm) (ctx : Ctx) (s : State) : Host.Outcome State Fault Refusal := live t s fun s => (s.ctxRebind ctx).1

/-- CTX_DRAIN_COMPLETE (R215): the last unit of a draining context has gone; it becomes FREE at the next boundary. -/
def execCtxDrainComplete (t : Tm) (ctx : Ctx) (s : State) : Host.Outcome State Fault Refusal :=
  live t s fun s =>
    if (s.ctxOf ctx).state = 3 ∧ s.flying ctx = false then
      let s1 := s.modCtx ctx fun x => { x with src := [], next := some 0, raw := [], inbound := [], laneLoss := [] }
      s1.egressMoved
    else s

/-- Units of a context whose bytes are in link staging are dropped; the records they carry are kept for a rebind (R216). -/
def State.unitsDrop (s : State) (c : Nat) : State :=
  s.each (upTo 6) fun s l => s.setFlight l ((s.flight l).filter fun u => u.ctx != c || !u.ready)

/-- The host destination of a context is lost (R215, R373). -/
def State.ctxLost (s : State) (c : Nat) : State :=
  if s.get P.CTX_CFG_DEST_KIND c = 0 then
    let s1 := if (s.ctxOf c).state = 1 ∨ (s.ctxOf c).state = 3 then
        (s.unitsDrop c).modCtx c fun x => { x with bufs := [], tailUnit := [], cut := [], coalesceFrom := none }
      else s
    if (s.ctxOf c).state = 1 then (s1.modCtx c fun x => { x with next := none, rebind := false }).ctxState c 2 else s1
  else s

/-- Every host destination is lost (R373, R375). -/
def State.ctxLostAll (s : State) : State := s.each (s.ctx.c.map (·.1)) State.ctxLost

/-- Records a source would still deliver. -/
def State.srcUnsent (s : State) (c i : Nat) : List Rec :=
  let x := s.ctxOf c
  let k := x.source i
  if !k.on then []
  else if i < 2 then (s.ctx.egress.filter fun q => decide (k.pos ≤ q.pos) && s.egressWants c i k q).map (·.data)
  else if i = 2 then x.reply
  else if i = 3 then x.raw
  else if i = 4 then (s.ctx.mon.filter fun q => decide (k.pos ≤ q.pos) && s.monWants c q.data.type).map (·.data)
  else x.inbound.map (·.2)

/-- The sources of a context, detached; the sequences of their containers go on. -/
def CtxSt.srcOff (x : CtxSt) : CtxSt :=
  { x with src := x.src.foldl (fun t e => Tbl.set CtxSrc.reset t e.1 { CtxSrc.reset with cseq := e.2.cseq }) [] }

/-- A context reset ordered by the control cores (R215, R216). -/
def State.ctxReset (s : State) (c : Nat) : State :=
  let x := s.ctxOf c
  if x.state = 0 then s else
  let gone : List Rec := sources.flatMap fun i => s.srcUnsent c i
  let first : Rec := match gone with | r :: rs => rs.foldl (fun (a : Rec) r => if r.stamp.before a.stamp then r else a) r | [] => s.mkRec 0x06 0 s.stamp []
  let lastTb := (gone.map fun (r : Rec) => r.tb).foldl max first.tb
  let l := s.lossRec 0x0A c gone.length first.stamp first.tb lastTb
  let home := ((sources.find? fun i => s.srcSelected c i).getD 0)
  let s1 := ((s.takeSeq 0x06).rewindCancel c).modCtx c fun x => { x.srcOff with inbound := [], laneLoss := [], next := some 1 }
  let s2 := s1.modCtx c fun x => x.modSource home fun k => { k with loss := [l], mark := true }
  s2.egressMoved

/-- A context becomes FREE at a boundary. -/
def State.ctxFree (s : State) (c : Nat) : State :=
  let w := (s.ctxOf c).window
  let s1 := (s.ctxState c 0).inboundShow (s.ctx.inboundUsed - w)
  let s2 := s1.modCtx c fun x => { CtxSt.reset with prod := x.prod, reqProd := x.reqProd, cons := x.cons, reqCons := x.reqCons }
  ((s2.put P.CTX_DEFICIT_BYTES c 0).putB P.CTX_STATUS_FLOOR_DUE c false).egressMoved

/-- A context becomes BOUND at a boundary (R203, R215, R216). -/
def State.ctxBind (s : State) (c : Nat) : State :=
  let x := s.ctxOf c
  let s1 := if x.rebind then
      (s.unitsDrop c).modCtx c fun x => { x with
        again := x.kept ++ x.again, kept := [], keptOff := 0, cut := if x.state = 1 ∧ s.get P.CTX_CFG_DEST_KIND c ≠ 0 then x.cut else [],
        bufs := [], tailUnit := [], begun := false,
        prod := 0, reqProd := 0, cons := 0, reqCons := 0, fetched := 0, coalesceFrom := none }
    else s
  (s1.modCtx c fun x => { x with next := none, rebind := false }).ctxState c 1

/-- Contexts at a boundary, after the swap (R201, R203, R215, R221). -/
def State.ctxBoundary (s : State) : State :=
  let s1 := s.each (s.ctx.c.map (·.1)) fun s c =>
    match (s.ctxOf c).next with
    | some 0 => s.ctxFree c
    | some _ => s.ctxBind c
    | none => s
  let s2 := s1.each ((s1.ctx.c.filter fun e => e.2.state == 1 || e.2.state == 2).map (·.1)) fun s c => s.ctxSources c
  let s3 := s2.each ((s2.ctx.c.filter fun e => e.2.state == 1 || e.2.state == 2).map (·.1)) fun s c =>
    let due := s.backlogged c && !(s.ctxOf c).served
    ((if due then s.putB P.CTX_STATUS_FLOOR_DUE c true else s).modCtx c fun x => { x with served := false }).ctxEval c
  s3.linkShow

/-- Entry to abutment mode drops every position (R215). -/
def State.ctxAbut (s : State) : State :=
  (s.each (s.ctx.c.map (·.1)) fun s c => (s.rewindCancel c).modCtx c fun x => { x.srcOff with
    cut := [], again := [], kept := [], keptOff := 0, inbound := [], laneLoss := [], raw := [], next := none, rebind := false }).egressMoved

/-- On return from abutment mode every context is FREE (R215). -/
def State.ctxReturn (s : State) : State := (s.each (s.ctx.c.map (·.1)) State.ctxFree).linkShow

/-- EGRESS_DETACH (R204): a DETACH context that has held the oldest byte of a full queue for its limit moves to the end. -/
def execEgressDetach (t : Tm) (ctx : Ctx) (s : State) : Host.Outcome State Fault Refusal :=
  live t s fun s =>
    let s := s.egressTrim.egressHold
    match s.ctx.holdFrom with
    | none => s
    | some f =>
      if s.ctx.holdBy != some ctx.val || !s.flag P.CTX_CFG_DETACH ctx
          || decide (s.time.now < f + s.get P.CTX_DETACH_US ctx * usSt) then s
      else
        let mine := [0, 1].filter fun i => ((s.ctxOf ctx).source i).on && s.egressPos ctx i == s.egressFloor
        (s.each mine fun s i => s.ctxSkip ctx i (s.srcUnsent ctx i) s.ctx.egressEnd).egressMoved

/-- INBOUND_CREDIT (R208): a remote inbound window returns credit in units of 4 KiB. -/
def execInboundCredit (t : Tm) (ctx : Ctx) (units : Nat) (s : State) : Host.Outcome State Fault Refusal :=
  live t s fun s =>
    if (s.ctxOf ctx).state = 0 then s else s.modCtx ctx fun x => { x with fabCredit := min (64 * 4096) (x.fabCredit + units * 4096) }

end Sys2Proof.Machine
end

