-- ==== Sys2Proof/Machine/MbOps.lean ====
section
/-! DEFINITION. The mailboxes as the firmware serves them (chapter 16): header checks, duplicates, completion entries, and the
course of a command from its slot to its completion. -/

namespace Sys2Proof.Machine

/-! ### Classes and opcodes (R377, R398) -/

/-- The command classes (R377). -/
inductive Cls where
  | r | n | p | d
  deriving DecidableEq, Repr

/-- A set of a parameter of this block is class P (R396). -/
def idPriv (id : Nat) : Bool := let b := id / 2 ^ 24; b == 0x0F || b == 0x10 || b == 0x11 || b == 0x12

/-- The identifiers of a PARAM_SET_MULTI payload (R397). -/
def multiIds (p : List Byte) : List Nat := (List.range (min 168 (field p 0 2))).map fun i => field p (16 + 24 * i) 4

/-- The class of an opcode, where the index has it (R396 to R398). -/
def opClass (op : Nat) (payload : List Byte) : Option Cls :=
  if [0x0001, 0x0002, 0x0003, 0x0903, 0x0A04, 0x0F04, 0x1101, 0x1201, 0x1202].contains op then some .r
  else if op = 0x0004 then some (if idPriv (field payload 0 4) then .p else .n)
  else if op = 0x0005 then some (if (multiIds payload).any idPriv then .p else .n)
  else if [0x0006, 0x0301, 0x0401, 0x0601, 0x0602, 0x0801, 0x0901, 0x0902, 0x0C02].contains op then some .n
  else if [0x0007, 0x0008, 0x0A01, 0x0A02, 0x0A03, 0x0C01, 0x0D01, 0x0D02, 0x0D03, 0x0F01, 0x0F02, 0x0F03, 0x1102].contains op then some .p
  else if op = 0x1001 then some .d
  else none

/-- A mailbox serves a class; MB2 with the privileges of the origin mailbox (R377, R390). -/
def State.serves (s : State) (w : Who) (c : Cls) : Bool :=
  match w.mb, c with
  | 0, .r => true
  | 0, .n => true
  | 1, _ => true
  | 2, .r => true
  | 2, .n => w.originMb == 0 || w.originMb == 1 || w.originMb == 5
  | 2, .p => w.originMb == 1 && s.flag P.MB_CFG_PRIV_EN 2
  | 3, .r => true
  | 5, .r => true
  | 5, .n => true
  | 5, .p => true
  | _, _ => false

/-- The key of a history (R388): the mailbox; for MB2 the pair of origin device and origin mailbox. -/
def Who.key (w : Who) : Nat := if w.mb = 2 then 8 + w.origin * 8 + w.originMb else w.mb

/-! ### Entries (R381 to R383) -/

/-- The registers of a host mailbox. -/
def State.mbRegs (s : State) (m : Nat) : MbRegs := Tbl.get MbRegs.reset s.host.mb m
/-- Change the registers of a host mailbox. -/
def State.modMb (s : State) (m : Nat) (f : MbRegs → MbRegs) : State :=
  { s with host := { s.host with mb := Tbl.mod MbRegs.reset s.host.mb m f } }

/-- The 16 bytes of a completion entry (R382). -/
def entryBytes (seq status flags slot respLen : Nat) (result : W64) : List Byte :=
  le 4 seq ++ [BitVec.ofNat 8 status, BitVec.ofNat 8 flags, BitVec.ofNat 8 slot, BitVec.ofNat 8 respLen] ++ le 8 result.toNat

/-- What is posted: the entry's flags beside PHASE, and the response. -/
structure Post where
  who : Who
  seq : Nat
  status : Nat
  result : W64
  slot : Nat
  respAddr : Nat
  respMax : Nat
  response : List Byte
  quiet : Bool
  dup : Bool
  interim : Bool
  takeover : Bool
  /-- The slot is released with this entry (CONS + 1). -/
  release : Bool
  deriving DecidableEq, Repr

/-- Where a response goes (R381, R384): its bytes as cut, and whether it was cut. -/
def Post.cut (p : Post) : List Byte × Bool :=
  let lim := if p.respAddr = 0 then 4064 else p.respMax
  (p.response.take lim, decide (lim < p.response.length))

/-- Post on a host mailbox (R371, R381 to R383, R385): response, CONS, entry, message. -/
def State.postHost (s : State) (p : Post) (m : Nat) : State :=
  let r := s.mbRegs m
  if !r.enable || !s.hostMoves then s.modMb m fun x => { x with reserved := x.reserved - 1 } else
  let cut := p.cut
  let given := !cut.1.isEmpty && (p.respAddr != 0 || p.release)
  let s1 := if given then s.dmaData (if p.respAddr = 0 then r.sqBase + 4096 * p.slot + 32 else p.respAddr) cut.1 else s
  let size := 2 ^ r.cqLog2
  let phase := if r.tail / size % 2 = 0 then 1 else 0
  let flags := phase + 2 * b2n p.dup + 4 * b2n p.interim + 8 * b2n given + 16 * b2n p.takeover
  let len := if given && p.respAddr == 0 then ceilDiv cut.1.length 16 else 0
  let status := if cut.2 then stNoSpace else p.status
  let s2 := s1.modMb m fun x => { x with
    cons := if p.release then (x.cons + 1) % 65536 else x.cons, tail := (x.tail + 1) % 65536, reserved := x.reserved - 1 }
  let s3 := s2.dma (r.cqBase + 16 * (r.tail % size)) (entryBytes p.seq status flags p.slot len p.result)
  if p.quiet then s3 else s3.raise m

/-- Post a completion in its mailbox (R382, R390, R392, R393). -/
def State.post (s : State) (p : Post) : State :=
  let cut := p.cut
  let status := if cut.2 then stNoSpace else p.status
  let flags := 1 + 2 * b2n p.dup + 4 * b2n p.interim + 8 * b2n (!cut.1.isEmpty)
  let entry := entryBytes p.seq status flags p.slot (ceilDiv cut.1.length 16) p.result
  match p.who.mb with
  | 0 => s.postHost p 0
  | 1 => s.postHost p 1
  | 2 =>
    let s1 := s.emit (.mailbox p.who.origin (.reply (Fin.ofNat 6 p.who.originMb) (BitVec.ofNat 32 p.seq) (Fin.ofNat 16 status) p.interim
      p.result cut.1))
    s1.raiseIf (decide (stBadOpcode ≤ status) && !p.quiet) 2
  | 3 =>
    let s1 := { s with mbox := { s.mbox with entry3 := entry, resp3 := cut.1, cmdFresh := true } }
    (s1.emit (.completion 3 entry)).raiseIf (!p.quiet) 3
  | _ =>
    let out := { s.mbox with jtagOut := entry ++ cut.1, jtagPtr := 0, jtagDone := true }
    let s1 := { s with mbox := if s.mbox.jtagLost then { s.mbox with jtagLost := p.interim } else out }
    (s1.emit (.completion 5 entry)).raiseIf (!p.quiet) 5

/-! ### Sequences and duplicates (R388) -/

/-- Serial order modulo 2^32. -/
def seqAbove (a b : Nat) : Bool := let d := (a + 2 ^ 32 - b) % 2 ^ 32; decide (0 < d) && decide (d < 2 ^ 31)

/-- h of a key, 0 before the first command. -/
def State.highOf (s : State) (k : Nat) : Nat := Tbl.get 0 s.mbox.high k

/-- A seq is new on a key (R388, rule 3): the first one, or one above h. -/
def State.seqNew (s : State) (k seq : Nat) : Bool := !Tbl.get false s.mbox.seen k || seqAbove seq (s.highOf k)

/-- Accept a state-changing command's seq (R388). -/
def State.seqAccept (s : State) (w : Who) (seq : Nat) : State :=
  if s.seqNew w.key seq then
    let s1 := { s with mbox := { s.mbox with
      high := Tbl.set 0 s.mbox.high w.key seq, seen := Tbl.set false s.mbox.seen w.key true } }
    s1.put P.MB_LAST_SEQ_H w.mb seq
  else s

/-- Record a completion in its history of 64 (R388). -/
def State.record (s : State) (w : Who) (seq status : Nat) (result : W64) : State :=
  let h := Tbl.get [] s.mbox.hist w.key
  { s with mbox := { s.mbox with hist := Tbl.set [] s.mbox.hist w.key (((⟨seq, status, result⟩ : Hist) :: h).take 64) } }

/-! ### Header checks (R380) -/

end Sys2Proof.Machine

namespace Sys2Proof

open Sys2Proof.Machine

/-- The command of a slot's bytes (R379). -/
def Cmd.parse (b : List Byte) (slot : Nat) : Cmd :=
  { opcode := field b 0 2, length := field b 2 2, seq := field b 4 4, flags := field b 8 2, context := field b 10 2,
    target := field b 12 2, timeoutMs := field b 14 2, respAddr := field b 16 8, respMax := field b 24 4,
    payload := (b.drop 32).take (field b 2 2), slot := slot }


end Sys2Proof

namespace Sys2Proof.Machine

/-- The reserved bytes 28 to 31 of a slot's header. -/
def headerRest (b : List Byte) : Nat := field b 28 4

/-- A broadcast address (R263). -/
def isBroadcast (a : Nat) : Bool := a == 0xFEFF || (decide (a / 256 < 0xFE) && a % 256 == 0xFF)

end Sys2Proof.Machine

namespace Sys2Proof

open Sys2Proof.Machine

/-- QUIET (R379). -/
def Cmd.quiet (c : Cmd) : Bool := c.flags.testBit 0
/-- ORDER (R379). -/
def Cmd.order (c : Cmd) : Bool := c.flags.testBit 1


end Sys2Proof

namespace Sys2Proof.Machine

/-- Checks 1 to 3 of R380: the status of the first that fails. A remote command's RESP_ADDR is judged by its origin mailbox, where its
response is placed (R390; log entry 107). -/
def State.headerCheck (s : State) (w : Who) (c : Cmd) (rest : Nat) : Nat :=
  match opClass c.opcode c.payload with
  | none => stBadOpcode
  | some cls =>
    if decide (4064 < c.length) || c.flags / 4 != 0 || rest != 0 || isBroadcast c.target
        || (c.respAddr != 0 && 2 ≤ (if w.mb = 2 then w.originMb else w.mb)) || c.respAddr % 8 != 0 then stBadParam
    else if !s.serves w cls then stDenied
    else stOk

end Sys2Proof.Machine

namespace Sys2Proof

open Sys2Proof.Machine

/-- The completion of a command. -/
def Cmd.post (c : Cmd) (w : Who) (status : Nat) (result : W64) (response : List Byte) (release : Bool) : Post :=
  { who := w, seq := c.seq, status := status, result := result, slot := c.slot, respAddr := c.respAddr, respMax := c.respMax,
    response := response, quiet := c.quiet, dup := false, interim := false, takeover := false, release := release }


end Sys2Proof

namespace Sys2Proof.Machine

/-- The command is to be executed by another device (R390). -/
def State.elsewhere (s : State) (c : Cmd) : Bool := c.target != 0xFFFF && c.target != s.origin

/-- Forward a command to its target (R390, R391). -/
def State.forward (s : State) (w : Who) (c : Cmd) : State :=
  let wait := if c.timeoutMs = 0 then 100 else c.timeoutMs
  let r : Remote := { Remote.reset with
    who := w, seq := c.seq, slot := c.slot, flags := c.flags, respAddr := c.respAddr, respMax := c.respMax,
    due := some (s.time.now + wait * msSt) }
  ({ s with mbox := { s.mbox with remote := s.mbox.remote ++ [r] } }).emit
    (.mailbox c.target (.request s.origin (Fin.ofNat 6 w.mb) c))

/-- Keep an accepted command until it is executed. -/
def State.accepted (s : State) (w : Who) (c : Cmd) : State :=
  { s with mbox := { s.mbox with fetched := s.mbox.fetched ++ [(w, c)] } }

/-- A duplicate or stale command (R388, rules 2 and 4). -/
def State.dupJudge (s : State) (w : Who) (c : Cmd) : State :=
  let stat (s : State) : State := (s.bump P.MB_STATS_DUPS w.mb).raise 6
  match (Tbl.get [] s.mbox.hist w.key).find? fun h => h.seq == c.seq with
  | some h => (stat s).post { c.post w h.status h.result [] true with dup := true }
  | none =>
    if s.mbox.wait.any fun x => x.who.key == w.key && x.seq == c.seq then
      (stat s).post { c.post w stPending 0 [] true with dup := true, interim := true }
    else if s.seqNew w.key c.seq then (s.seqAccept w c.seq).accepted w c
    else (stat s).post (c.post w stDenied 0 [] true)

/-- A slot has been read (R380, R385, R388, R390): the header is checked, and the command is refused, forwarded or accepted. -/
def State.slotRead (s : State) (w : Who) (c : Cmd) (rest : Nat) : State :=
  let st := s.headerCheck w c rest
  if st ≠ stOk then s.post (c.post w st 0 [] true)
  else if w.mb = 2 ∧ s.elsewhere c = true then s.post (c.post w stBadParam 0 [] true)
  else if s.elsewhere c then s.forward w c
  else if opClass c.opcode c.payload = some .r then s.accepted w c
  else s.dupJudge w c

/-! ### Execution (R380, R384 to R388) -/

/-- What an execution yields. -/
structure Done where
  s : State
  status : Nat
  result : W64
  response : List Byte
  /-- The command goes on in the background (R384). -/
  background : Bool

/-- A command ends with a status and nothing more. -/
def State.ends (s : State) (status : Nat) : Done := ⟨s, status, 0, [], false⟩
/-- A command ends OK with a result. -/
def State.gives (s : State) (result : Nat) : Done := ⟨s, stOk, BitVec.ofNat 64 result, [], false⟩
/-- A command ends OK with a response. -/
def State.answers (s : State) (response : List Byte) : Done := ⟨s, stOk, 0, response, false⟩
/-- A command goes on in the background. -/
def State.goesOn (s : State) : Done := ⟨s, stOk, 0, [], true⟩

end Sys2Proof.Machine

namespace Sys2Proof

open Sys2Proof.Machine

/-- The payload's length against its opcode's layout (R380). -/
def Cmd.fits (c : Cmd) (need : Nat) : Nat :=
  if c.length < need then stBadParam else if (c.payload.drop need).all (· == 0) then stOk else stUnsupported


end Sys2Proof

namespace Sys2Proof.Machine

/-- The sender of a command, and the command taken out of those accepted. -/
def State.sender (s : State) (mb : Mb) (c : Cmd) : State × Who :=
  match s.mbox.fetched.find? fun f => f.1.mb == mb.val && f.2 == c with
  | some f => ({ s with mbox := { s.mbox with fetched := s.mbox.fetched.erase f } }, f.1)
  | none => (s, { Who.reset with mb := mb })

/-- Commands of a sender's mailbox in the background (R384). -/
def State.backgrounds (s : State) (w : Who) : Nat := (s.mbox.wait.filter fun x => x.background && x.who.mb == w.mb).length

end Sys2Proof.Machine

namespace Sys2Proof

open Sys2Proof.Machine

/-- PARAM_SET or PARAM_SET_MULTI. -/
def Cmd.isSet (c : Cmd) : Bool := c.opcode == 0x0004 || c.opcode == 0x0005

/-- A command's wait for its commit or its end. -/
def Cmd.wait (c : Cmd) (w : Who) (d : Done) (commit : Tm) : Wait := { Wait.reset with
  who := w, seq := c.seq, opcode := c.opcode, flags := c.flags, slot := c.slot, respAddr := c.respAddr, respMax := c.respMax,
  status := d.status, result := d.result, response := d.response, commit := commit, background := d.background,
  interim := d.background && !c.isSet,
  lanes := if d.background ∧ c.isSet = true then (upTo 16).filter fun l => (Tbl.get LaneSt.reset d.s.lane.lane l).far == some d.s.time.now else [],
  sets := if c.opcode = 0x0004 then [field c.payload 0 4] else if c.opcode = 0x0005 then multiIds c.payload else [] }


end Sys2Proof

namespace Sys2Proof.Machine

/-- Finish a command's execution (R384, R387): class R and failures post at once, a change waits for its commit; a PARAM_SET
that waits for peers' answers posts no interim entry, since the index does not let it go PENDING (R302, R398). -/
def State.finish (s : State) (w : Who) (c : Cmd) (cls : Cls) (d : Done) : State :=
  let s1 := d.s.bump P.MB_STATS_COMMANDS w.mb
  if cls = .r then s1.post (c.post w d.status d.result d.response true)
  else
    let s2 := s1.seqAccept w c.seq
    if d.background then
      if 16 ≤ s.backgrounds w then ((s.seqAccept w c.seq).record w c.seq stBusy 0).post (c.post w stBusy 0 [] true)
      else
        let s3 := { s2 with mbox := { s2.mbox with wait := s2.mbox.wait ++ [c.wait w d 0] } }
        if c.isSet then s3 else s3.post { c.post w stPending 0 [] true with interim := true }
    else if d.status = stOk then { s2 with mbox := { s2.mbox with wait := s2.mbox.wait ++ [c.wait w d s2.time.next] } }
    else (s2.record w c.seq d.status d.result).post (c.post w d.status d.result d.response true)

/-- A command is executed by the lease holder (R377, R380, R385 to R388): its class, its payload, its effect, its completion.
What a pier without the lease would write is discarded and counted (R23). -/
def State.command (s : State) (mb : Mb) (c : Cmd) (need : Nat) (f : State → Who → Done) : State :=
  if !s.leased then (if opClass c.opcode c.payload = some .r ∨ opClass c.opcode c.payload = none then s else s.deny) else
  let p := s.sender mb c
  if p.1.elsewhere c then p.1.forward p.2 c
  else match opClass c.opcode c.payload with
    | none => p.1.post (c.post p.2 stBadOpcode 0 [] true)
    | some cls =>
      if !p.1.serves p.2 cls then p.1.post (c.post p.2 stDenied 0 [] true)
      else p.1.finish p.2 c cls (if c.fits need = stOk then f p.1 p.2 else p.1.ends (c.fits need))

/-- A change in the background has ended: its final entry waits for its commit (R384, R387). -/
def State.backEnd (s : State) (f : Wait → Bool) (status : Nat) (result : W64) (response : List Byte) : State :=
  let done (x : Wait) : Wait := { x with
    background := false, status := status, result := result, response := response, commit := s.time.next }
  let wait := s.mbox.wait.map fun x => if x.background && f x then done x else x
  { s with mbox := { s.mbox with wait := wait } }

/-- Post the completion of a change that is committed (R384, R387, R388). -/
def State.waitPost (s : State) (x : Wait) : State :=
  let s1 := s.record x.who x.seq x.status x.result
  if x.mute then s1 else
  let resp : List Byte := if x.interim && x.respAddr == 0 then [] else x.response
  s1.post { who := x.who, seq := x.seq, status := x.status, result := x.result, slot := x.slot, respAddr := x.respAddr,
            respMax := x.respMax, response := resp, quiet := x.flags.testBit 0, dup := false, interim := false, takeover := false,
            release := !x.interim }

/-- A command in the background fails: its final entry follows at once (R384). -/
def State.backFail (s : State) (f : Wait → Bool) (status : Nat) (result : W64) : State :=
  match s.mbox.wait.find? fun x => x.background && f x with
  | some x => ({ s with mbox := { s.mbox with wait := s.mbox.wait.erase x } }).waitPost { x with status := status, result := result }
  | none => s

/-- Every change that stands in the committed checkpoint completes (R387). -/
def State.commitPosts (s : State) : State :=
  let due := s.mbox.wait.filter fun x => !x.background && decide (x.commit ≤ s.core.committed)
  let s1 := { s with mbox := { s.mbox with wait := s.mbox.wait.filter fun x => x.background || !decide (x.commit ≤ s.core.committed) } }
  due.foldl (fun (s : State) x => s.waitPost x) s1

/-! ### READY (R378, R385) -/

/-- READY of the host mailboxes follows the lease and ENABLE: source 7 on a change. -/
def State.mbReady (s : State) : State :=
  s.each [0, 1] fun s m =>
    let want := (s.mbRegs m).enable && s.leased && !s.abut
    if (s.mbRegs m).ready = want then s else (s.modMb m fun x => { x with ready := want }).raise 7

end Sys2Proof.Machine
end

