-- ==== Sys2Proof/Machine/Mailbox.lean ====
section
/-! DEFINITION. Mailbox transports and the commands that read or start something simple (chapter 16, R508): doorbells, fetch,
commit, remote commands, MB3 and MB5, ECHO, IDENTIFY, TDC_CAL_VISIT, SOFT_ACCEPT, DECK_REWIND, HOLD_CANCEL. -/

namespace Sys2Proof.Machine

/-! ### The registers of a host mailbox (R362, R383, R385) -/

/-- The mailbox's commands lose their entries when it is disabled (R385). -/
def State.muteWaits (s : State) (m : Nat) : State :=
  let wait := s.mbox.wait.map fun x => if x.who.mb = m then { x with mute := true } else x
  { s with mbox := { s.mbox with wait := wait, remote := s.mbox.remote.filter fun r => r.who.mb != m } }

/-- ENABLE of a host mailbox is written (R362, R372, R385). -/
def State.mbEnable (s : State) (mb : Nat) (on : Bool) : State :=
  if on then
    if (s.mbRegs mb).enable then s
    else (s.modMb mb fun x => { x with enable := true, prod := 0, head := 0, cons := 0, tail := 0, reserved := 0 }).mbReady
  else if (s.mbRegs mb).enable then
    ((s.modMb mb fun x => { x with enable := false, error := false }).muteWaits mb).mbReady
  else s

/-- MB_ENABLE_WRITE (R362, R372, R385). -/
def execMbEnableWrite (t : Tm) (mb : Fin 2) (on : Bool) (s : State) : Host.Outcome State Fault Refusal :=
  live t s fun s => s.mbEnable mb on

/-- MB_DOORBELL_WRITE (R378, R385): command slots are posted; kept while no pier serves. -/
def execMbDoorbellWrite (t : Tm) (mb : Fin 2) (prod : BitVec 16) (s : State) : Host.Outcome State Fault Refusal :=
  live t s fun s => s.modMb mb fun x => { x with prod := prod.toNat }

/-- MB_CQ_DOORBELL_WRITE (R383): completion entries are freed. -/
def execMbCqDoorbellWrite (t : Tm) (mb : Fin 2) (head : BitVec 16) (s : State) : Host.Outcome State Fault Refusal :=
  live t s fun s => s.modMb mb fun x => { x with head := head.toNat }

/-- A mailbox works on a command (R385). -/
def State.mbBusy (s : State) (m : Nat) : Bool :=
  (s.mbox.fetched.any fun f => f.1.mb == m) || (s.mbox.wait.any fun x => x.who.mb == m && !x.interim && !x.mute)
    || s.mbox.remote.any fun r => r.who.mb == m && r.due.isSome

/-- A command of the mailbox has no final completion yet (R379). -/
def State.mbPending (s : State) (m : Nat) : Bool :=
  (s.mbox.wait.any fun x => x.who.mb == m && !x.mute) || s.mbox.remote.any fun r => r.who.mb == m

/-- A host mailbox may read its next slot: a command posted, and a free completion entry (R383, R385). -/
def State.mbFetches (s : State) (m : Nat) : Bool :=
  let r := s.mbRegs m
  r.enable && r.ready && !r.error && r.prod != r.cons && s.hostMoves && !s.mbBusy m
    && decide (r.reserved + (r.tail + 65536 - r.head) % 65536 < 2 ^ r.cqLog2)

/-- MB_FETCH (R379, R380, R383, R385, R388, R390): the next posted slot is read and its header checked. -/
def execMbFetch (t : Tm) (mb : Mb) (slot : List Byte) (s : State) : Host.Outcome State Fault Refusal :=
  live t s fun s =>
    if 2 ≤ mb.val || !s.mbFetches mb then s else
    let r := s.mbRegs mb
    let c := Cmd.parse slot (r.cons % 2 ^ r.sqLog2)
    if c.order && s.mbPending mb then s
    else ((s.dmaGot 4096).modMb mb fun x => { x with reserved := x.reserved + 1 }).slotRead { Who.reset with mb := mb } c (headerRest slot)

/-- COMMAND_COMMIT (R387, R411): completions whose change stands in a committed checkpoint are posted. -/
def execCommandCommit (t : Tm) (s : State) : Host.Outcome State Fault Refusal :=
  live t s fun s => if s.leased then s.commitPosts else s

/-- BACKGROUND_COMPLETE (R384, R387): a command in the background finishes; its final entry follows, for a change once that is
committed. -/
def execBackgroundComplete (t : Tm) (mb : Mb) (seq : BitVec 32) (status : Fin 16) (result : W64) (s : State) :
    Host.Outcome State Fault Refusal :=
  live t s fun s =>
    let mine (x : Wait) : Bool := x.who.mb == mb.val && x.seq == seq.toNat
    if !s.leased then s
    else if status.val = stOk then s.backEnd mine stOk result []
    else s.backFail mine status result

/-! ### Remote commands (R390, R391) -/

/-- Post what a remote device answered. -/
def State.remotePost (s : State) (r : Remote) (status : Nat) (result : W64) (response : List Byte) (interim : Bool) : State :=
  s.post { who := r.who, seq := r.seq, status := status, result := result, slot := r.slot, respAddr := r.respAddr,
           respMax := r.respMax, response := response, quiet := r.flags.testBit 0, dup := false, interim := interim, takeover := false,
           release := r.due.isSome }

/-- Take a forwarded command out of those that wait. -/
def State.remoteDrop (s : State) (r : Remote) : State := { s with mbox := { s.mbox with remote := s.mbox.remote.erase r } }

/-- MAILBOX_FRAME (R377, R380, R388, R390, R391): a remote command arrives at MB2, or a reply returns. -/
def execMailboxFrame (t : Tm) (frame : MbFrame) (s : State) : Host.Outcome State Fault Refusal :=
  live t s fun s =>
    if !s.leased then s else
    match frame with
    | .request origin originMb cmd =>
      if s.flag P.MB_CFG_ENABLE 2 then s.slotRead ⟨2, origin, originMb⟩ cmd 0 else s
    | .reply mb seq status interim result response =>
      match s.mbox.remote.find? fun r => r.who.mb == mb.val && r.seq == seq.toNat with
      | none => s
      | some r =>
        if interim then
          if r.due.isNone then s
          else ((s.remoteDrop r).remotePost r stPending 0 [] true |> fun s =>
            { s with mbox := { s.mbox with remote := s.mbox.remote ++ [{ r with due := none }] } })
        else (s.remoteDrop r).remotePost r status result response false

/-- REMOTE_TIMEOUT (R391): no reply within the limit. -/
def execRemoteTimeout (t : Tm) (mb : Mb) (seq : BitVec 32) (s : State) : Host.Outcome State Fault Refusal :=
  live t s fun s =>
    match s.mbox.remote.find? fun r => r.who.mb == mb.val && r.seq == seq.toNat with
    | some r =>
      match r.due with
      | some d => if d ≤ s.time.now then ((s.remoteDrop r).remotePost r stTimeout 0 [] false).raise 2 else s
      | none => s
    | none => s

/-! ### MB3, the SMBus target (R392) -/

/-- A transport mailbox takes its started command once a pier serves (R378, R392, R393). -/
def State.takeStarted (s : State) : State :=
  if !s.leased then s else
  let s1 := match s.mbox.start3 with
    | some n =>
      if s.mbBusy 3 then s else
      let b := s.mbox.cmdBuf.take n
      ({ s with mbox := { s.mbox with start3 := none } }).slotRead { Who.reset with mb := 3 } (Cmd.parse b 0) (headerRest b)
    | none => s
  if s1.mbox.start5 && !s1.mbBusy 5 then
    let b := s1.mbox.jtagBuf
    ({ s1 with mbox := { s1.mbox with start5 := false } }).slotRead { Who.reset with mb := 5 } (Cmd.parse b 0) (headerRest b)
  else s1

/-- MB3 answers: it is enabled, and the device is not in abutment mode (R392, R405). -/
def State.smbOn (s : State) : Bool := s.flag P.MB_CFG_ENABLE 3 && !s.abut

/-- A transaction names the target by its 7-bit address (R392); one to another address is not the device's. -/
def State.smbMine (s : State) (addr : BitVec 7) : Bool := addr.toNat == s.get P.MB_CFG_SMB_ADDR 3

/-- A block write whose PEC fails (R392). -/
def State.pecFail (s : State) : State := (s.bump P.MB_STATS_PEC_ERR 3).emit (.nack 0x100)

/-- SMB_CMD_APPEND (R392): bytes join the command buffer; after a completion the first write starts it anew. -/
def execSmbCmdAppend (b : SmbAt) (data : List Byte) (pecOk : Bool) (s : State) :
    Host.Outcome State Fault Refusal :=
  live b.t s fun s =>
    if !s.smbMine b.addr then s
    else if !s.smbOn then s.emit (.nack 0x10)
    else if !pecOk then s.pecFail
    else
      let buf := (if s.mbox.cmdFresh then [] else s.mbox.cmdBuf) ++ data
      { s with mbox := { s.mbox with cmdBuf := buf.take 4096, cmdFresh := false } }

/-- SMB_CMD_START (R378, R392): the command in the buffer starts. -/
def execSmbCmdStart (b : SmbAt) (total : BitVec 32) (pecOk : Bool) (s : State) :
    Host.Outcome State Fault Refusal :=
  live b.t s fun s =>
    if !s.smbMine b.addr then s
    else if !s.smbOn then s.emit (.nack 0x11)
    else if !pecOk then s.pecFail
    else ({ s with mbox := { s.mbox with start3 := some total.toNat } }).takeStarted

/-- SMB_READ_COMPLETION (R392). -/
def execSmbReadCompletion (b : SmbAt) (s : State) : Host.Outcome State Fault Refusal :=
  live b.t s fun s => if !s.smbMine b.addr then s else if s.smbOn then s.emit (.block s.mbox.entry3) else s.emit (.nack 0x12)

/-- SMB_READ_RESPONSE (R392): the next bytes of the response. -/
def execSmbReadResponse (b : SmbAt) (n : Fin 241) (s : State) : Host.Outcome State Fault Refusal :=
  live b.t s fun s =>
    if !s.smbMine b.addr then s else if s.smbOn then
      ({ s with mbox := { s.mbox with resp3 := s.mbox.resp3.drop n } }).emit (.block (s.mbox.resp3.take n))
    else s.emit (.nack 0x13)

/-! ### MB5, the JTAG mailbox (R393, R508) -/

/-- MB5_DATA (R508): an update appends 4 bytes of the command; a capture returns the next 4 bytes of the answer. -/
def execMb5Data (t : Tm) (update : Option (BitVec 32)) (s : State) : Host.Outcome State Fault Refusal :=
  live t s fun s =>
    let s := s.tapSet 0x20
    match update with
    | some v =>
      let buf := s.mbox.jtagBuf ++ le 4 v.toNat
      { s with mbox := { s.mbox with jtagBuf := buf.take 4096 } }
    | none =>
      ({ s with mbox := { s.mbox with jtagPtr := s.mbox.jtagPtr + 4 } }).emit
        (.jtag 32 (field s.mbox.jtagOut s.mbox.jtagPtr 4))

/-- MB5_GO (R393, R508): the command starts; nothing starts in abutment mode (R378). -/
def execMb5Go (t : Tm) (s : State) : Host.Outcome State Fault Refusal :=
  live t s fun s =>
    let s := s.tapSet 0x21
    if s.abut || !s.flag P.MB_CFG_ENABLE 5 then s
    else ({ s with mbox := { s.mbox with start5 := true, jtagDone := false } }).takeStarted

/-- MB5_PTR_RESET (R508): the command and response pointer returns to byte 0. -/
def execMb5PtrReset (t : Tm) (s : State) : Host.Outcome State Fault Refusal :=
  live t s fun s =>
    let s := s.tapSet 0x21
    { s with mbox := { s.mbox with jtagBuf := [], jtagPtr := 0 } }

/-! ### Commands (R398) -/

/-- ECHO: the payload returned unchanged. -/
def execEcho (t : Tm) (mb : Mb) (cmd : Cmd) (s : State) : Host.Outcome State Fault Refusal :=
  live t s fun s => s.command mb cmd cmd.length fun s _ => s.answers cmd.payload

/-- The IDENTIFY response (R398, R401). -/
def State.identity (s : State) : List Byte :=
  le 3 s.host.fwVersion ++ [0, BitVec.ofNat 8 s.core.booted, BitVec.ofNat 8 s.host.grade] ++ le 2 s.origin
    ++ le 8 (s.get P.FAB_ID_ID 0) ++ ([0, 1, 2, 3, 4, 5].flatMap fun m => le 4 (s.get P.MB_LAST_SEQ_H m)) ++ List.replicate 24 0

/-- IDENTIFY (R398). -/
def execIdentify (t : Tm) (mb : Mb) (cmd : Cmd) (s : State) : Host.Outcome State Fault Refusal :=
  live t s fun s => s.command mb cmd 0 fun s _ => s.answers s.identity

/-- TDC_CAL_VISIT (R92, R398): a channel's calibration visit is asked for. -/
def execTdcCalVisit (t : Tm) (mb : Mb) (cmd : Cmd) (s : State) : Host.Outcome State Fault Refusal :=
  live t s fun s => s.command mb cmd 2 fun s _ =>
    let c := field cmd.payload 0 2
    if 256 ≤ c then s.ends stBadParam
    else ({ s with mbox := { s.mbox with tdcAsk := if s.mbox.tdcAsk.contains c then s.mbox.tdcAsk else s.mbox.tdcAsk ++ [c] } }).gives 0

/-- SOFT_ACCEPT (R116, R398): a root emits an accept of the given class and time, 2 cc after the command. -/
def execSoftAccept (t : Tm) (mb : Mb) (cmd : Cmd) (s : State) : Host.Outcome State Fault Refusal :=
  live t s fun s => s.command mb cmd 16 fun s _ =>
    let p := cmd.payload
    let cls := field p 0 1
    let stitch := field p 4 2
    if !s.flag P.ROOT_CFG_ROOT 0 then s.ends stDenied
    else if 15 < cls ∨ 3071 < stitch then s.ends stBadParam
    else
      let id := s.trg.acceptId
      (s.acceptEmit cls ⟨field p 2 2, field p 8 8 * nsSt + stitch⟩ false false false false 0 (s.time.now + 2 * ccSt)).gives id

/-- DECK_REWIND (R166, R167, R398): a rewind descriptor is placed for its context. -/
def execDeckRewind (t : Tm) (mb : Mb) (cmd : Cmd) (s : State) : Host.Outcome State Fault Refusal :=
  live t s fun s => s.command mb cmd 64 fun s _ =>
    let p := s.rewind (Req.parse cmd.payload).ctx (cmd.payload.take 64)
    p.1.ends p.2

/-- HOLD_CANCEL (R173, R398): a hold-only hold of the context and tag is cancelled. -/
def execHoldCancel (t : Tm) (mb : Mb) (cmd : Cmd) (s : State) : Host.Outcome State Fault Refusal :=
  live t s fun s => s.command mb cmd 4 fun s _ =>
    if 1024 ≤ cmd.context then s.ends stBadParam
    else
      match (upTo 64).find? fun i =>
        (s.holdOf i).used && (s.holdOf i).only && (s.holdOf i).ctx == cmd.context && (s.holdOf i).tag == field cmd.payload 0 4 with
      | some i => (s.holdFree i).gives 1
      | none => s.gives 0

end Sys2Proof.Machine
end

