-- ==== Sys2Proof/Machine/Press.lean ====
section
/-! DEFINITION. The press engines (R237 to R250): mailbox jobs, context jobs and the on-die press buffer. -/

namespace Sys2Proof.Machine

/-! ### The job descriptor (R239) -/

/-- The size of the on-die press buffer. -/
def pressBufSize : Nat := 262144

/-- A job of a 64-byte descriptor. -/
def Job.parse (w : Who) (seq : Nat) (d : List Byte) : Job :=
  let f := field d 1 1
  let j : Job := { Job.reset with
    who := w, seq := seq, compress := field d 0 1 % 4 == 1, records := bitOf f 0, resume := bitOf f 1, notify := bitOf f 2,
    srcKind := field d 2 1 % 4, dstKind := field d 3 1 % 4, tag := field d 4 4, src := field d 8 8, srcLen := field d 16 8,
    dst := field d 24 8, dstLen := field d 32 8, dstAddr := field d 40 2, dstCtx := field d 42 2 % 1024 }
  match if j.resume then Prog.ofToken (d.drop 48) else none with
  | some p => { j with inTotal := p.inTotal, outTotal := p.outTotal, crc := p.crc, nblk := p.nblk }
  | none => j

/-- Two ranges overlap. -/
def overlaps (a n b m : Nat) : Bool := decide (0 < n) && decide (0 < m) && decide (a < b + m) && decide (b < a + n)

/-- A range of a kind is refused (R239). -/
def State.badRange (s : State) (kind addr len : Nat) : Bool :=
  if kind = 0 then addr % 8 != 0
  else if kind = 1 then addr % 8 != 0 || !s.inArea 1 addr len
  else if kind = 2 then decide (pressBufSize < addr + len)
  else false

/-- The descriptor is refused with BAD_PARAM (R239, R243). -/
def State.jobBad (s : State) (d : List Byte) : Bool :=
  let j := Job.parse Who.reset 0 d
  let op := field d 0 1 % 4
  op == 0 || op == 3 || j.srcKind == 3 || (j.compress && decide (2 ^ 30 < j.srcLen))
    || (j.srcKind == j.dstKind && overlaps j.src j.srcLen j.dst j.dstLen)
    || s.badRange j.srcKind j.src j.srcLen || s.badRange j.dstKind j.dst j.dstLen
    || (j.dstKind == 3 && decide (pressBufSize < j.dstLen))
    || (j.resume && (Prog.ofToken ((d.drop 48).take 16)).isNone)

/-- The queue shows its length (R250). -/
def State.pressShow (s : State) : State :=
  let n := min 6 (s.get P.PRESS_CFG_MBOX_ENGINES 0)
  (s.put P.PRESS_QUEUE_QUEUED 0 s.press.queue.length).each (upTo 6) fun s e =>
    if s.engineFree e then s.putB P.PRESS_ENG_STATUS_MBOX e (decide (6 - n ≤ e)) else s

/-- PRESS_JOB (R239, R248): checked and queued; it goes on in the background. -/
def State.pressJob (s : State) (w : Who) (c : Cmd) : Done :=
  if c.respAddr = 0 ∨ s.jobBad c.payload = true then s.ends stBadParam
  else if s.get P.PRESS_CFG_MBOX_ENGINES 0 = 0 then s.ends stNoResource
  else if 32 ≤ s.press.queue.length then (s.bump P.PRESS_QUEUE_REFUSED 0).ends stBusy
  else (({ s with press := { s.press with queue := s.press.queue ++ [Job.parse w c.seq c.payload] } }).pressShow).goesOn

/-- PRESS_COMPRESS_JOB (R239, R248): PRESS_JOB with op 1. -/
def execPressCompressJob (t : Tm) (mb : Mb) (cmd : Cmd) (s : State) : Host.Outcome State Fault Refusal :=
  live t s fun s => s.command mb cmd 64 fun s w => s.pressJob w cmd

/-- PRESS_DECOMPRESS_JOB (R239, R248): PRESS_JOB with op 2. -/
def execPressDecompressJob (t : Tm) (mb : Mb) (cmd : Cmd) (s : State) : Host.Outcome State Fault Refusal :=
  live t s fun s => s.command mb cmd 64 fun s w => s.pressJob w cmd

/-- The engines that serve mailbox jobs: the highest MBOX_ENGINES (R248). -/
def State.mboxEngines (s : State) : List Nat := (upTo 6).filter fun e => decide (6 - min 6 (s.get P.PRESS_CFG_MBOX_ENGINES 0) ≤ e)

/-- PRESS_JOB_START (R248): the oldest queued job takes the lowest free mailbox engine. -/
def execPressJobStart (t : Tm) (s : State) : Host.Outcome State Fault Refusal :=
  live t s fun s =>
    match s.press.queue, s.mboxEngines.find? s.engineMay with
    | j :: js, some e =>
      let s1 := { s with press := { s.press with
        queue := js, run := Tbl.set none s.press.run e (some j), begun := Tbl.set 0 s.press.begun e s.time.now } }
      (((s1.put P.PRESS_ENG_STATUS_STATE e (if j.compress then 1 else 2)).putB P.PRESS_ENG_STATUS_MBOX e true).put
        P.PRESS_ENG_STATUS_CONTEXT e 0).pressShow
    | _, _ => s

/-! ### A job's end (R240 to R247) -/

/-- The input of a job: what the engine read from the host, or the bytes in DDR5 or the press buffer. -/
def State.jobInput (s : State) (j : Job) (input : List Byte) : List Byte :=
  if j.srcKind = 0 then input.take j.srcLen
  else if j.srcKind = 1 then s.ddrRead j.src j.srcLen
  else readBytes (fun _ => 0) s.press.buf j.src j.srcLen

/-- The input holds poisoned DDR5 data, or its memory is out of service (R246, R352). -/
def State.jobPoisoned (s : State) (j : Job) (poisoned : Bool) : Bool :=
  (j.srcKind == 1 && (poisoned || !s.ddrOn || s.ddr.bad.any fun a => decide (a < j.src + j.srcLen) && decide (j.src < a + 64)))
    || (j.dstKind == 1 && !s.ddrOn)

/-- The progress a job starts from. -/
def Job.prog (j : Job) : Prog := if j.resume then ⟨j.inTotal, j.outTotal, j.crc, j.nblk⟩ else Prog.start

/-- The record parse a compress job starts with (R236, R243). -/
def State.jobTag (s : State) (j : Job) : TagSt :=
  if j.resume then ((s.press.parse.find? fun p => p.1 == j.prog.token).map (·.2)).getD .dead
  else if j.records then TagSt.after 0 else .dead

/-- Run a job over its whole input. -/
def State.jobRun (s : State) (j : Job) (input : List Byte) : Ran :=
  let data := s.jobInput j input
  if j.compress then compress (s.jobTag j) j.prog j.dstLen data else decompress j.prog j.dstLen data

/-- An engine has had the time that its job's bytes take it (R248): 10 GB/s of input for a compress job, 4 B of output per cc for
a decompress job. -/
def State.engineDue (s : State) (e : Nat) (compress : Bool) (n : Nat) : Bool :=
  decide (Tbl.get 0 s.press.begun e + (if compress then ceilDiv (3 * n * ccSt) 10 else n * ccSt / 4) ≤ s.time.now)

/-- The records of bytes; none where the bytes are not whole records (R240). -/
def wholeRecs : Nat → List Byte → Option (List (List Byte))
  | 0, l => if l.isEmpty then some [] else none
  | n + 1, l =>
    if l.isEmpty then some [] else
    let len := field l 2 2 * 8
    if 24 ≤ len ∧ len ≤ l.length then (wholeRecs n (l.drop len)).map (l.take len :: ·) else none

/-- Send a fabric message to a context of a device on VC3 (R240, R256). -/
def State.message (s : State) (j : Job) (bytes : List Byte) : State :=
  let e := s.dataEntry j.dstAddr
  if e = 4 then
    match parseRec bytes with
    | some r => if ((s.ctxOf j.dstCtx).source 5).on then s.inboundPut j.dstCtx s.origin r else s
    | none => s
  else if e < 4 then s.fabSend e 3 0 4 j.dstAddr j.dstCtx bytes
  else s.raise 38

/-- What a job's records say of its container (R237): the flags [3:0] of every record that begins in its bytes, and whether the
job ends inside a record. A header of length 0 ends the records. -/
def jobFlags : Nat → List Byte → Nat × Bool
  | 0, _ => (0, false)
  | n + 1, l =>
    let len := field l 2 2 * 8
    if l.isEmpty || len == 0 then (0, false)
    else
      let r := jobFlags n (l.drop len)
      (field l 1 1 % 16 ||| r.1, if l.length < len then true else r.2)

/-- The container of a mailbox job over its input (R237, R240): source 6. With RECORDS its time and flags are those of its records;
the context, and the time where no record boundary is known, are not stated and are free values (log entry 2). -/
def State.boxContainer (s : State) (j : Job) (data job : List Byte) : Rec :=
  let known := j.records && !j.resume && decide (24 ≤ data.length)
  let fl := if known then jobFlags (data.length / 8) data else (0, false)
  ⟨0x0B, fl.1, s.origin, if known then field data 6 2 else s.time.epoch,
    if known then field data 8 8 * nsSt + field data 16 4 % 4096 else Config.unstated 3 [s.free, 0], s.seqOf 0x0B,
    le 2 (Config.unstated 3 [s.free, 1] % 1024) ++ [6, BitVec.ofNat 8 (2 * b2n fl.2), 0, 0, 0, 0] ++ job⟩

/-- Write the output of a job over `data` (R239, R240). -/
def State.jobOut (s : State) (j : Job) (data : List Byte) (blocks : List (List Byte)) : State :=
  let all := blocks.flatten
  if j.dstKind = 0 then s.dmaData j.dst all
  else if j.dstKind = 1 then (s.ddrUse 3 true j.dst all.length).ddrWrite j.dst all
  else if j.dstKind = 2 then { s with press := { s.press with buf := writeBytes (fun _ => 0) s.press.buf j.dst all } }
  else if j.compress then (s.fresh.takeSeq 0x0B).message j (s.boxContainer j data all).encode
  else ((wholeRecs all.length all).getD []).foldl (fun s r => s.message j r) s

/-- How a job ended (R241). -/
structure Ended where
  status : Nat
  reason : Nat
  used : Nat
  out : List (List Byte)
  invalid : Nat
  token : List Byte
  deriving DecidableEq, Repr

/-- A failed check: a small job's output is discarded, a large one's stands and is invalid (R246). -/
def Job.failed (j : Job) (reason used : Nat) (out : List (List Byte)) : Ended :=
  let small := decide (2 ≤ j.dstKind)
  ⟨stCheckFail, reason, used, if small then [] else out, if small then 0 else (out.map List.length).sum, []⟩

/-- A job's run as its outcome (R240 to R247). How much a job has written when a fault of its memories stops it is not stated: a
free value of blocks. -/
def State.jobEnd (s : State) (j : Job) (input : List Byte) (poisoned memError : Bool) : Ended :=
  let r := s.jobRun j input
  let k := Config.unstated 6 [s.free, j.tag] % (r.out.length + 1)
  if memError then j.failed 8 (Config.unstated 4 [s.free, j.tag]) (r.out.take k)
  else if s.jobPoisoned j poisoned then j.failed 7 (Config.unstated 4 [s.free, j.tag]) (r.out.take k)
  else if r.how = 2 then j.failed r.reason r.used r.out
  else if r.how = 1 then
    if 2 ≤ j.dstKind then ⟨stNoSpace, 0, 0, [], 0, []⟩ else ⟨stNoSpace, 0, r.used, r.out, 0, r.prog.token⟩
  else if j.dstKind = 3 ∧ j.compress = false ∧ (wholeRecs r.out.flatten.length r.out.flatten).isNone then j.failed 9 r.used r.out
  else ⟨stOk, 0, r.used, r.out, 0, []⟩

/-- The 48-byte result (R241). -/
def Ended.bytes (e : Ended) (engine tag : Nat) : List Byte :=
  [BitVec.ofNat 8 e.status, BitVec.ofNat 8 e.reason, BitVec.ofNat 8 engine, 0] ++ le 4 tag ++ le 8 e.used
    ++ le 8 (e.out.map List.length).sum ++ le 8 e.invalid ++ (if e.token.isEmpty then List.replicate 16 0 else e.token)

/-- A mailbox job leaves its engine with an outcome (R241, R248). -/
def State.jobLeave (s : State) (e : Nat) (j : Job) (x : Ended) : State :=
  let out := (x.out.map List.length).sum
  let s0 := (({ s with press := { s.press with run := Tbl.set none s.press.run e none } }).put P.PRESS_ENG_STATUS_STATE e 0).pressShow
  let s1 := (s0.put P.PRESS_ENG_IN_BYTES e (s.get P.PRESS_ENG_IN_BYTES e + x.used)).put P.PRESS_ENG_OUT_BYTES e
    (s.get P.PRESS_ENG_OUT_BYTES e + out)
  let s2 := if x.status = stCheckFail then (s1.bump P.PRESS_COUNTS_CHECK_FAIL 0).raise 216
    else if x.status = stNoSpace then (s1.bump P.PRESS_COUNTS_NO_SPACE 0).raise 217 else s1
  (s2.raiseIf j.notify 218).backEnd (fun w => w.opcode == 0x0901 && w.who == j.who && w.seq == j.seq) x.status (BitVec.ofNat 64 out)
    (x.bytes e j.tag)

/-- PRESS_JOB_COMPLETE (R240 to R247): the job ends, its output stands at its destination and its result is returned. -/
def execPressJobComplete (t : Tm) (engine : Fin 6) (input : List Byte) (poisoned memError : Bool) (s : State) :
    Host.Outcome State Fault Refusal :=
  live t s fun s =>
    match Tbl.get none s.press.run engine with
    | none => s
    | some j =>
      let x := s.jobEnd j input poisoned memError
      let r := s.jobRun j input
      if !(memError || s.jobPoisoned j poisoned || s.engineDue engine j.compress (if j.compress then r.used else r.bytes)) then s else
      let s0 := if j.srcKind = 1 then s.ddrUse 3 false j.src j.srcLen else s
      let s1 := s0.fresh.jobOut j (s.jobInput j input) x.out
      let s2 := if j.srcKind = 0 then s1.dmaGot x.used else s1
      let s3 := if j.compress ∧ x.token.isEmpty = false then
          { s2 with press := { s2.press with parse := (x.token, r.tag) :: s2.press.parse.filter fun p => p.1 != x.token } }
        else s2
      s3.jobLeave engine j x

/-- A job whose host input failed ends with TIMEOUT (R372). -/
def State.jobTimeout (s : State) (e : Nat) : State :=
  match Tbl.get none s.press.run e with
  | none => s
  | some j => s.jobLeave e j ⟨stTimeout, 0, 0, [], 0, []⟩

/-! ### Context jobs (R209, R237, R238) -/

/-- The container of a context's job. -/
def State.container (s : State) (u : CtxUnit) : Rec :=
  let tag := match u.starts with | n :: _ => TagSt.after (n / 8) | [] => .dead
  let k := (s.ctxOf u.ctx).source u.src
  ⟨0x0B, u.flags % 16, s.origin, u.key.epoch, u.key.tb, k.cseq,
    le 2 u.ctx ++ [BitVec.ofNat 8 u.src, BitVec.ofNat 8 (b2n u.contIn + 2 * b2n u.contOut), 0, 0, 0, 0] ++ compressAll tag u.input⟩

/-- Replace a unit of a list. -/
def replaceUnit (u v : CtxUnit) : List CtxUnit → List CtxUnit
  | [] => []
  | x :: xs => if x = u then v :: xs else x :: replaceUnit u v xs

/-- A context job's record takes its unit's place; a context without its destination keeps it for the rebind (R216). -/
def State.jobPlace (s : State) (l : Nat) (u : CtxUnit) (r : Rec) : State :=
  let b := r.encode
  let x := s.ctxOf u.ctx
  let v : CtxUnit := { u with data := b, bytes := b.length, starts := [0], ends := [b.length], ready := true, input := [] }
  let gone := !(x.state == 1 || x.state == 3)
  let us := if gone then (s.flight l).erase u else replaceUnit u v (s.flight l)
  let host := s.get P.CTX_CFG_DEST_KIND u.ctx == 0 && x.state != 0
  (s.setFlight l us).modCtx u.ctx fun x => if host then { x with kept := x.kept ++ [(u.src, b)] } else x

/-- PRESS_CONTEXT_JOB_COMPLETE (R237, R238): the oldest job of a context yields its container, or a loss record. -/
def execPressContextJobComplete (t : Tm) (ctx : Ctx) (failed : Bool) (s : State) : Host.Outcome State Fault Refusal :=
  live t s fun s =>
    match (upTo 6).findSome? fun l => ((s.flight l).find? fun u => u.ctx == ctx.val && u.job && !u.ready).map fun u => (l, u) with
    | none => s
    | some (l, u) =>
      let run := (upTo 6).find? fun e => Tbl.get none s.press.ctxRun e == some ctx.val
      let free (s : State) : State := match run with
        | some e => (({ s with press := { s.press with ctxRun := Tbl.set none s.press.ctxRun e none } }).put
            P.PRESS_ENG_STATUS_STATE e 0).pressShow
        | none => s
      if !failed && run.any (fun e => !s.engineDue e true u.input.length) then s
      else if failed then
        let r := s.lossRec 0x08 ctx u.starts.length u.key u.key.tb u.last.tb
        let s1 := (s.takeSeq 0x06).modCtx ctx fun x => x.modSource u.src fun k => { k with mark := true }
        (free (s1.jobPlace l u r)).bump P.PRESS_COUNTS_CHECK_FAIL 0 |>.raise 216
      else
        let r := s.container u
        let s1 := s.modCtx ctx fun x => x.modSource u.src fun k => { k with cseq := (k.cseq + 1) % 2 ^ 32 }
        match run with
        | some e => free (((s1.put P.PRESS_ENG_IN_BYTES e (s.get P.PRESS_ENG_IN_BYTES e + u.input.length)).put P.PRESS_ENG_OUT_BYTES e
            (s.get P.PRESS_ENG_OUT_BYTES e + r.bytes)).jobPlace l u r)
        | none => s1.jobPlace l u r

/-- Jobs are abandoned without result in abutment mode (R249). -/
def State.pressAbut (s : State) : State :=
  let s1 := { s with press := { s.press with queue := [], run := [], ctxRun := [] } }
  let s2 := s1.each (upTo 6) fun s l => s.setFlight l ((s.flight l).filter (·.ready))
  (s2.each (upTo 6) fun s e => s.put P.PRESS_ENG_STATUS_STATE e 0).pressShow

/-! ### The on-die press buffer (R239, R398) -/

/-- PRESS_BUF_WRITE. -/
def execPressBufWrite (t : Tm) (mb : Mb) (cmd : Cmd) (s : State) : Host.Outcome State Fault Refusal :=
  live t s fun s => s.command mb cmd (max 8 cmd.length) fun s _ =>
    let off := field cmd.payload 0 4
    let data := (cmd.payload.take cmd.length).drop 8
    if pressBufSize < off + data.length then s.ends stBadParam
    else ({ s with press := { s.press with buf := writeBytes (fun _ => 0) s.press.buf off data } }).gives 0

/-- PRESS_BUF_READ. -/
def execPressBufRead (t : Tm) (mb : Mb) (cmd : Cmd) (s : State) : Host.Outcome State Fault Refusal :=
  live t s fun s => s.command mb cmd 8 fun s _ =>
    let off := field cmd.payload 0 4
    let n := field cmd.payload 4 4
    if pressBufSize < off + n then s.ends stBadParam else s.answers (readBytes (fun _ => 0) s.press.buf off n)

end Sys2Proof.Machine
end

