-- ==== Sys2Proof/Machine/Ddr.lean ====
section
/-! DEFINITION. The DDR5 controller (chapter 14): training, refresh under panic, scrubbing, retraining, alerts, poison, loss and
return of service, and the mailbox commands that read and write its areas. -/

namespace Sys2Proof.Machine

/-! ### Service (R336, R352) -/

/-- Interleaved capacity and speed follow the modules (R336). -/
def State.ddrShape (s : State) : State :=
  match (s.dc 0).spd, (s.dc 1).spd with
  | some a, some b =>
    let s1 := (s.putB P.DDR_STATUS_MISMATCH 0 (a.gib != b.gib)).put P.DDR_STATUS_USABLE_GIB 0 (2 * min a.gib b.gib)
    s1.put P.DDR_STATUS_SPEED 0 (min (min a.speed.val b.speed.val) (s.get P.DDR_SPEED_MAX 0))
  | _, _ => s

/-- Memory service runs from now on (R155, R352): sources 166 and 160. -/
def State.ddrOnline (s : State) : State :=
  let s1 := (s.putB P.DDR_STATUS_ONLINE 0 true).raise 166
  let s2 := { s1 with ddr := { s1.ddr with back := false, wasOn := true } }
  ((s2.deckOnline true).deckRates).seamEval

/-- A press job reads or writes the DDR5. -/
def Job.onDdr (j : Job) : Bool := j.srcKind == 1 || j.dstKind == 1

/-- Press jobs on DDR5 end with CHECK_FAIL, reason 7 (R352). -/
def State.ddrJobsEnd (s : State) : State :=
  s.each (upTo 6) fun s e =>
    match Tbl.get none s.press.run e with
    | some j => if j.onDdr then s.fresh.jobLeave e j (j.failed 7 (Config.unstated 4 [s.free, j.tag]) []) else s
    | none => s

/-- A channel goes out of service (R352): service stops for both, and the channel retrains fully once. -/
def State.ddrLoss (s : State) (c : Nat) : State :=
  let s1 := ((s.put P.DDR_CH_STATUS_STATE c 3).putB P.DDR_CH_STATUS_PANIC c false).maintEnd 4 c
  let s2 := if s.ddrOn then
      (((((s1.putB P.DDR_STATUS_ONLINE 0 false).raise 166).deckService false).sessLostAll.spillLost).ddrJobsEnd).ddrDrop.each
        (s1.ctx.c.map (·.1)) State.ctxEval
    else s1
  let s3 := { s2 with ddr := { s2.ddr with back := false } }
  ((s3.modDc c fun x => { x with whole := true, failed := false, fast := false }).put P.DDR_CH_STATUS_STATE c 1).put
    P.DDR_CH_STATUS_LNK_STATE c 1

/-- Service returns at a boundary (R352): the deck and spill are empty, contexts with a DDR5 destination are reset. -/
def State.ddrReturn (s : State) : State :=
  if !s.ddr.back then s else
  let s1 := s.deckEmpty s.stamp
  let s2 := s1.each ((s1.ctx.c.map (·.1)).filter fun c => (s1.ctxOf c).state != 0 && s1.get P.CTX_CFG_DEST_KIND c == 2) State.ctxReset
  s2.ddrOnline.backEnd (fun w => w.opcode == 0x0D01) stOk 0 []

/-! ### Training (R335, R336, R339) -/

/-- A supported module organisation (R335). -/
def spdOk (d : Spd) : Bool :=
  d.x4 && d.ecc && [(32, false, 1), (64, false, 2), (64, true, 1), (128, true, 2), (128, false, 4), (256, true, 4)].contains
    (d.gib, d.density32, d.ranks)

/-- The stored training results may be used (R339): both modules are the ones they were made with. -/
def State.fastMay (s : State) : Bool :=
  match s.sec.lastCopy, (s.dc 0).spd, (s.dc 1).spd with
  | some k, some a, some b =>
    s.flag P.DDR_CFG_FAST_TRAIN 0 && (Tbl.get Store.reset s.sec.store k).training == some [a.serial, b.serial]
  | _, _, _ => false

/-- What the SPD says of a module. -/
def State.spdTake (s : State) (c : Nat) (d : Spd) : State :=
  let s1 := (s.modDc c fun x => { x with spd := some d }).putB P.DDR_CH_STATUS_DENSITY c d.density32
  ((s1.put P.DDR_CH_STATUS_RANKS c d.ranks).put P.DDR_CH_SIZE_GIB c d.gib).ddrShape

/-- A channel enters a training step. -/
def State.trainAt (s : State) (c n : Nat) : State :=
  (s.put P.DDR_CH_STATUS_LNK_STATE c n).modDc c fun x => { x with failed := false }

/-- A channel has passed its last step. -/
def State.trained (s : State) (c : Nat) : State :=
  let s1 := (s.put P.DDR_CH_STATUS_STATE c 2).modDc c fun x => { x with whole := false, failed := false, passAt := s.time.now }
  let s2 := s1.modDc c fun x => { x with passTemp := s1.int P.DDR_TEMP_TEMP c }
  if s2.dcState 0 = 2 ∧ s2.dcState 1 = 2 then
    let s3 := { s2 with ddr := { s2.ddr with mem := [], remaps := 0, bad := [], scrubbed := 0 } }
    if s3.ddr.wasOn then { s3 with ddr := { s3.ddr with back := true } }
    else s3.ddrShape.ddrOnline.backEnd (fun w => w.opcode == 0x0D01) stOk 0 []
  else s2

/-- Training of a channel has failed for good: source 166 (R339, R352). -/
def State.trainFailed (s : State) (c : Nat) : State :=
  ((((s.put P.DDR_CH_STATUS_STATE c 3).modDc c fun x => { x with whole := false, fast := false, failed := false }).raise 166).backFail
    (fun w => w.opcode == 0x0D01) stCheckFail 0)

/-- The step after one that passed; a check of stored results replaces the four training steps (R339). -/
def State.trainNext (s : State) (c n : Nat) : State :=
  if n = 7 then s.trained c
  else if n = 1 then
    if s.fastMay && !(s.dc c).whole then ((s.modDc c fun x => { x with fast := true }).putB P.DDR_STATUS_FAST_TRAINED 0 true).trainAt c 2
    else (s.putB P.DDR_STATUS_FAST_TRAINED 0 false).trainAt c 2
  else if n = 2 ∧ (s.dc c).fast then s.trainAt c 6
  else s.trainAt c (n + 1)

/-- DDR_TRAINING_STEP (R335 to R340, R352): the step in progress of a channel has ended. -/
def execDdrTrainingStep (t : Tm) (ch : DdrCh) (passed : Bool) (spd : Spd) (s : State) : Host.Outcome State Fault Refusal :=
  live t s fun s =>
    let c := ch.val
    if 2 ≤ s.dcState c ∨ !s.pwr.pll.getLsbD (2 + c) then s else
    let s := if s.dcState c = 0 then s.put P.DDR_CH_STATUS_STATE c 1 else s
    let n := s.get P.DDR_CH_STATUS_LNK_STATE c
    let s1 := if n = 0 then s.spdTake c spd else s
    if passed && (n != 0 || spdOk spd) then s1.trainNext c n
    else if n = 2 && (s1.dc c).fast then
      ((s1.modDc c fun x => { x with fast := false }).putB P.DDR_STATUS_FAST_TRAINED 0 false).trainAt c 2
    else if (s1.dc c).failed then s1.trainFailed c
    else s1.modDc c fun x => { x with failed := true }

/-! ### Refresh and panic (R342, R345, R346) -/

/-- REFRESH_DUE (R342, R345): an interval falls due; panic postpones it, the fifth forces the oldest. -/
def execRefreshDue (t : Tm) (ch : DdrCh) (s : State) : Host.Outcome State Fault Refusal :=
  live t s fun s =>
    let c := ch.val
    if s.dcState c ≠ 2 ∨ s.time.now < (s.dc c).refAt then s else
    let s := s.refreshNext c
    if !s.flag P.DDR_CH_STATUS_PANIC c then (s.refresh c).ddrRun c
    else
      let d := s.get P.DDR_REFRESH_DEBT c
      if d = 4 then ((s.refresh c).ddrRun c).bump P.DDR_REFRESH_FORCED c
      else (s.put P.DDR_REFRESH_DEBT c (d + 1)).put P.DDR_REFRESH_DEBT_PEAK c (max (s.get P.DDR_REFRESH_DEBT_PEAK c) (d + 1))

/-- PANIC_BEGIN (R345): the deck writer's buffer, in bytes, rises above the level. -/
def execPanicBegin (t : Tm) (ch : DdrCh) (level : Nat) (s : State) : Host.Outcome State Fault Refusal :=
  live t s fun s =>
    let c := ch.val
    if s.dcState c ≠ 2 ∨ s.flag P.DDR_CH_STATUS_PANIC c = true ∨ level ≤ s.get P.DDR_PANIC_LEVEL_KIB 0 * 1024 then s
    else
      let s1 := ((s.putB P.DDR_CH_STATUS_PANIC c true).bump P.DDR_PANIC_CNT_COUNT c).ddrRun c
      if (s.dc c).panicTold then s1 else (s1.modDc c fun x => { x with panicTold := true }).raise 171

/-- PANIC_END (R345): the level falls below the release level. -/
def execPanicEnd (t : Tm) (ch : DdrCh) (level : Nat) (s : State) : Host.Outcome State Fault Refusal :=
  live t s fun s =>
    if level < s.get P.DDR_PANIC_RELEASE_KIB 0 * 1024 then (s.putB P.DDR_CH_STATUS_PANIC ch false).ddrRun ch else s

/-- REFRESH_REPAY (R345): after panic, one owed interval every 1 µs. -/
def execRefreshRepay (t : Tm) (ch : DdrCh) (s : State) : Host.Outcome State Fault Refusal :=
  live t s fun s =>
    let c := ch.val
    let d := s.get P.DDR_REFRESH_DEBT c
    if d = 0 ∨ s.flag P.DDR_CH_STATUS_PANIC c = true ∨ (s.dc c).repaid + (if (s.dc c).repaid = 0 then 0 else usSt) > s.time.now then s
    else (((s.put P.DDR_REFRESH_DEBT c (d - 1)).modDc c fun x => { x with repaid := s.time.now }).refresh c).ddrRun c

/-! ### Errors, scrubbing, retraining (R347 to R350) -/

/-- A corrected read (R350). -/
def State.ddrCe (s : State) (c device rank : Nat) : State :=
  let hour := s.time.now / hourSt
  let k := device * 8 + rank
  let m := Tbl.get (0, 0) (s.dc c).marked k
  let n := if m.1 = hour then m.2 + 1 else 1
  let s1 := (s.bump P.DDR_CE_COUNT c).modDc c fun x => { x with marked := Tbl.set (0, 0) x.marked k (hour, n) }
  if n = s.get P.DDR_CE_LIMIT_PER_HOUR 0 + 1 then
    ((((s1.put P.DDR_SUSPECT_DEVICE c device).put P.DDR_SUSPECT_RANK c rank).putB P.DDR_SUSPECT_VALID c true).raise 170)
  else s1

/-- An access that reads uncorrectable is remembered. -/
def State.ddrBad (s : State) (addr : Nat) : State :=
  let a := addr / 64 * 64
  { s with ddr := { s.ddr with bad := if s.ddr.bad.contains a then s.ddr.bad else a :: s.ddr.bad } }

/-- A read is returned poisoned (R350). -/
def State.poisonRead (s : State) (addr : Nat) : State :=
  ((s.bump P.DDR_UE_READ (chOf addr)).put P.DDR_UE_ADDR_ADDR (chOf addr) addr).raise 168

/-- DDR_READ_COMPLETE (R350): a read and its re-reads: 0 clean, 1 corrected, 2 uncorrectable. -/
def execDdrReadComplete (t : Tm) (ch : DdrCh) (addr : Nat) (tries : List (Fin 3)) (device : Fin 20) (rank : Fin 8) (s : State) :
    Host.Outcome State Fault Refusal :=
  live t s fun s =>
    if !s.ddrOn then s else
    let s := s.ddrRun ch
    match (tries.take 3).getLast? with
    | none => s
    | some last =>
      if last = 1 then s.ddrCe ch device rank
      else if last = 2 ∧ 3 ≤ tries.length then
        (((s.bump P.DDR_UE_READ ch).put P.DDR_UE_ADDR_ADDR ch addr).raise 168).ddrBad addr
      else s

/-- Accesses of 64 B that the scrubber covers in a pass (R340, R347). -/
def State.scrubTotal (s : State) : Nat :=
  max 1 (ceilDiv (s.spillBase + s.seam.spillMib * mib + min s.deck.woff s.deck.sized) 64)

/-- A scrub pass begins on the channels the matrix lets it begin on (R347, R420, R421). -/
def State.scrubBegin (s : State) : State :=
  s.each [0, 1] fun s c =>
    if s.maintRuns 3 c then s else
    match s.maintJudge 3 c with
    | .run | .suspend => s.maintBegin 3 c false
    | .defer => if s.core.wait.any fun a => a.code == 3 && a.unit == c then s else s.maintDefer 3 c false
    | .interlock | .busy => s

/-- The scrub pass runs on a channel and no retraining of that channel suspends it (R421). -/
def State.scrubReads (s : State) (c : Nat) : Bool := s.core.run.any fun a => a.code == 3 && a.unit == c && !a.suspended

/-- DDR_SCRUB_READ (R347): one access is scrubbed: 0 clean, 1 corrected, 2 uncorrectable; `written` where another source wrote
to it before the write-back, which is then cancelled. The reads of a pass lie evenly in PERIOD_H. -/
def execDdrScrubRead (t : Tm) (addr : Nat) (result : Fin 3) (written : Bool) (s : State) : Host.Outcome State Fault Refusal :=
  live t s fun s =>
    if !s.ddrOn || !s.flag P.DDR_SCRUB_ENABLE 0 || s.flag P.THERM_STATUS_THROTTLED 0 || decide (s.time.now < s.ddr.scrubDue) then s else
    let c := chOf addr
    if s.scrubTotal ≤ addr / 64 then s else
    let s := s.scrubBegin
    if !s.scrubReads c then s else
    let s : State := { s with ddr := { s.ddr with
      scrubDue := paced s.ddr.scrubDue (s.get P.DDR_SCRUB_PERIOD_H 0 * hourSt / s.scrubTotal) s.time.now } }
    let s := s.ddrUse 6 false (addr / 64 * 64) 64
    let s1 := if result = 1 then
        let s2 := s.bump P.DDR_CE_COUNT c
        if written then s2 else (s2.ddrUse 6 true (addr / 64 * 64) 64).emit (.ddr c 2)
      else if result = 2 then ((((s.bump P.DDR_UE_SCRUB c).put P.DDR_UE_ADDR_ADDR c addr).raise 169).ddrBad addr)
      else s
    let n := s1.ddr.scrubbed + 1
    let total := s1.scrubTotal
    if total ≤ n then
      let s2 := (({ s1 with ddr := { s1.ddr with scrubbed := 0 } }).bump P.DDR_SCRUB_STATUS_PASSES 0).put P.DDR_SCRUB_STATUS_PROGRESS 0 0
      (s2.maintEnd 3 0).maintEnd 3 1
    else ({ s1 with ddr := { s1.ddr with scrubbed := n } }).put P.DDR_SCRUB_STATUS_PROGRESS 0 (n * 1000 / total)

/-- A retraining pass of a channel is due (R348): after INTERVAL_MS, or a temperature step of TEMP_K. -/
def State.retrainDue (s : State) (c : Nat) : Bool :=
  decide ((s.dc c).passAt + s.get P.DDR_RETRAIN_INTERVAL_MS 0 * msSt ≤ s.time.now)
    || decide (s.get P.DDR_RETRAIN_TEMP_K 0 * 100 ≤ (s.int P.DDR_TEMP_TEMP c - (s.dc c).passTemp).natAbs)

/-- A retraining pass begins (R348). -/
def State.retrainBegin (s : State) (c : Nat) : State :=
  s.modDc c fun x => { x with steps := 0, stepAt := none, passAt := s.time.now, passTemp := s.int P.DDR_TEMP_TEMP c }

/-- DDR_RETRAIN_STEP (R348, R352): one of 16 steps, at least 100 µs apart and never in panic; a failed one loses service. -/
def execDdrRetrainStep (t : Tm) (ch : DdrCh) (passed : Bool) (s : State) : Host.Outcome State Fault Refusal :=
  live t s fun s =>
    let c := ch.val
    let early := match (s.dc c).stepAt with | some a => decide (s.time.now < a + 100 * usSt) | none => false
    if !s.maintRuns 4 c || s.flag P.DDR_CH_STATUS_PANIC c || early || s.dcState c != 2 then s
    else if !passed then s.ddrLoss c
    else
      let s1 := s.modDc c fun x => { x with steps := x.steps + 1, stepAt := some s.time.now }
      if (s1.dc c).steps < 16 then s1 else (s1.maintEnd 4 c).raise 173

/-- DDR_ALERT (R349, R352): a parity or write-CRC alert, and how many replays of one command have failed. -/
def execDdrAlert (t : Tm) (ch : DdrCh) (writeCrc : Bool) (failedReplays : Nat) (s : State) : Host.Outcome State Fault Refusal :=
  live t s fun s =>
    let c := ch.val
    if s.dcState c ≠ 2 ∨ (writeCrc = true ∧ s.flag P.DDR_CFG_WCRC_EN 0 = false) then s
    else
      let s1 := (if writeCrc then s.bump P.DDR_RETRY_WCRC c else s.bump P.DDR_RETRY_PARITY c).raise 167
      if 3 ≤ failedReplays then s1.ddrLoss c else s1

/-- No access waits for a queue or in one. -/
def State.ddrQuiet (s : State) : Bool :=
  [0, 1].all fun c => (s.dc c).wait.isEmpty && (s.dc c).rq.isEmpty && (s.dc c).wq.isEmpty

/-- DDR_FENCE (R351): a fence completes once every request accepted before it has completed. -/
def execDdrFence (t : Tm) (s : State) : Host.Outcome State Fault Refusal :=
  live t s fun s =>
    let s := (s.ddrRun 0).ddrRun 1
    if s.ddrQuiet then { s with ddr := { s.ddr with fences := s.ddr.fences + 1 } } else s

/-- SPD_TEMP_READ (R337, R353): a module's temperature in 0.01 °C. -/
def execSpdTempRead (t : Tm) (ch : DdrCh) (temp : Int) (s : State) : Host.Outcome State Fault Refusal :=
  live t s fun s =>
    let c := ch.val
    let s1 := s.put P.DDR_TEMP_TEMP c (satSigned 16 temp)
    let hot := decide (9500 < temp)
    let s2 := (s1.modDc c fun x => { x with halved := hot }).raiseIf (hot && !(s.dc c).halved) 172
    match (s.dc c).spd with
    | some d => if d.critical < temp && s.dcState c == 2 then s2.ddrLoss c else s2
    | none => s2

/-- MR4_READ (R338): tREFI halves while MR4 reports a high temperature. -/
def execMr4Read (t : Tm) (ch : DdrCh) (hot : Bool) (s : State) : Host.Outcome State Fault Refusal :=
  live t s fun s => s.putB P.DDR_CH_STATUS_HOT ch hot

/-! ### Mailbox commands (R352, R398) -/

/-- MEM_RESTART (R352): channels out of service train again; it ends when service returns. -/
def execMemRestart (t : Tm) (mb : Mb) (cmd : Cmd) (s : State) : Host.Outcome State Fault Refusal :=
  live t s fun s => s.command mb cmd 0 fun s _ =>
    if s.ddrOn then s.ends stDenied
    else if s.ddr.back || s.mbox.wait.any (fun w => w.background && w.opcode == 0x0D01) then s.ends stBusy
    else
      (s.each ((upTo 2).filter fun c => s.dcState c != 2) fun s c =>
        ((s.put P.DDR_CH_STATUS_STATE c 1).put P.DDR_CH_STATUS_LNK_STATE c 0).modDc c fun x => { x with
          failed := false, fast := false, whole := true }).goesOn

/-- Positions in a read whose 64 B access is poisoned: those known to be bad, and those that now read so (R350). -/
def State.poisonAt (s : State) (addrs : List Nat) (now : List Nat) : List Nat :=
  ((addrs.zipIdx 0).filter fun a => s.ddr.bad.contains (a.1 / 64 * 64) || now.contains a.2).map (·.2)

/-- The limit of a response (R381). -/
def respLimit (c : Cmd) : Nat := if c.respAddr = 0 then 4064 else c.respMax

/-- A read of DDR5 data for a completion (R350, R381, R398): bytes, first poisoned unit, poisoned units. -/
def State.memAnswer (s : State) (c : Cmd) (data : List Byte) (addrs now : List Nat) : Done :=
  let bad := s.poisonAt addrs now
  let s1 := bad.foldl (fun (s : State) i => (s.poisonRead (addrs.getD i 0)).ddrBad (addrs.getD i 0)) s
  let n := min data.length (respLimit c)
  ⟨s1, stOk, BitVec.ofNat 64 (n + bad.headD 0 % 65536 * 2 ^ 32 + satTo 16 bad.length * 2 ^ 48), data, false⟩

/-- The addresses of the 64 B units of a read. -/
def unitAddrs (addr len : Nat) : List Nat :=
  if len = 0 then [] else (List.range ((addr + len - 1) / 64 - addr / 64 + 1)).map fun i => (addr / 64 + i) * 64

/-- MEM_READ (R350, R398). -/
def execMemRead (t : Tm) (mb : Mb) (cmd : Cmd) (poisoned : List Nat) (s : State) : Host.Outcome State Fault Refusal :=
  live t s fun s => s.command mb cmd 20 fun s _ =>
    let p := cmd.payload
    let k := field p 0 1
    let addr := (s.area k).1 + field p 8 8
    let n := field p 16 4
    if 2 < k ∨ 2 * mib < n ∨ s.inArea k addr n = false then s.ends stBadParam
    else if !s.ddrOn then s.ends stNoResource
    else (s.ddrUse 5 false addr n).memAnswer cmd (s.ddrRead addr n) (unitAddrs addr n) poisoned

/-- MEM_WRITE (R398). -/
def execMemWrite (t : Tm) (mb : Mb) (cmd : Cmd) (s : State) : Host.Outcome State Fault Refusal :=
  live t s fun s => s.command mb cmd (24 + min 4040 (field cmd.payload 16 4)) fun s _ =>
    let p := cmd.payload
    let k := field p 0 1
    let addr := (s.area k).1 + field p 8 8
    let n := field p 16 4
    if 2 < k ∨ 4040 < n ∨ s.inArea k addr n = false then s.ends stBadParam
    else if !s.ddrOn then s.ends stNoResource
    else ((s.ddrUse 5 true addr n).ddrWrite addr ((p.drop 24).take n)).gives n

/-- REGION_READ (R210, R350, R398): data of a context's region from CTX_DDR_RD, which advances. -/
def execRegionRead (t : Tm) (mb : Mb) (cmd : Cmd) (poisoned : List Nat) (s : State) : Host.Outcome State Fault Refusal :=
  live t s fun s => s.command mb cmd 4 fun s _ =>
    let c := cmd.context
    let n := field cmd.payload 0 4
    let size := s.regionSize c
    if 1024 ≤ c ∨ n % 8 ≠ 0 ∨ 2 * mib < n then s.ends stBadParam
    else if (s.ctxOf c).state = 0 then s.ends stDenied
    else if s.get P.CTX_CFG_DEST_KIND c ≠ 2 ∨ size = 0 ∨ s.inArea 2 (s.regionBase c) size = false then s.ends stBadParam
    else if !s.ddrOn then s.ends stNoResource
    else
      let rd := s.get P.CTX_DDR_RD_OFFSET c
      let len := min (min n (s.get P.CTX_DDR_WOFF_OFFSET c - rd)) size
      let a := rd % size
      let k := min len (size - a)
      let data := s.ddrRead (s.regionBase c + a) k ++ s.ddrRead (s.regionBase c) (len - k)
      let d := ((s.ddrUse 4 false (s.regionBase c + a) k).ddrUse 4 false (s.regionBase c) (len - k)).memAnswer cmd data (unitAddrs (s.regionBase c + a) k ++ unitAddrs (s.regionBase c) (len - k)) poisoned
      { d with s := d.s.put P.CTX_DDR_RD_OFFSET c (rd + min len (respLimit cmd)) }

end Sys2Proof.Machine
end

