-- ==== Sys2Proof/Machine/HostIf.lean ====
section
/-! DEFINITION. The PCI Express block and BAR0 (chapter 15): snapshot slots, 64-bit registers, host events and MSI-X, resets, the
link, power states and failed device reads. -/

namespace Sys2Proof.Machine

/-! ### Snapshot slots (R364, R365) -/

/-- Slot `i`. -/
def State.snapOf (s : State) (i : Nat) : Snap := Tbl.get Snap.reset s.host.snap i
/-- Change slot `i`. -/
def State.modSnap (s : State) (i : Nat) (f : Snap → Snap) : State :=
  { s with host := { s.host with snap := Tbl.mod Snap.reset s.host.snap i f } }

/-- The live value of a register of the slots: 0 SNAP_TIME_NS, 1 SNAP_TIME_X, 2 SNAP_DEVICE_ID, 3 SNAP_UPTIME_NS,
4 SNAP_DMA_WR, 5 SNAP_DMA_RD, 6 SNAP_EV_RAISES. -/
def State.snapLive (s : State) (slot reg : Nat) : Nat :=
  match reg with
  | 0 => tbNs s.time.now % 2 ^ 64
  | 1 => (s.snapOf slot).epoch + (s.snapOf slot).stitch * 2 ^ 16
  | 2 => s.get P.FAB_ID_ID 0
  | 3 => tbNs s.time.up % 2 ^ 64
  | 4 => s.host.dmaWr
  | 5 => s.host.dmaRd
  | _ => s.ev.raises % 2 ^ 64

/-- A register of the slots is wider than 32 bits: SNAP_TIME_X alone is not, and takes no snapshot (R364, R365). -/
def snapWide (reg : Nat) : Bool := reg != 1

/-- A read of SNAP_TIME_NS latches the epoch and the stitch of its core-clock edge (R365). -/
def State.snapTime (s : State) (slot reg : Nat) : State :=
  if reg = 0 then s.modSnap slot fun x => { x with epoch := s.time.epoch, stitch := tbStitch s.time.now } else s

/-- The bus answers a read with a value. -/
def State.busAnswer (s : State) (v : Nat) : State := s.emit (.busRead (BitVec.ofNat 64 v))

/-- A 4-byte read of a register's low half in a slot: the live half; the high half is latched (R364, R365). -/
def State.snapLow (s : State) (slot reg : Nat) : State × Nat :=
  let v := s.snapLive slot reg
  if snapWide reg then
    ((s.modSnap slot fun x => { x with tag := some reg, high := v / 2 ^ 32 }).snapTime slot reg, v % 2 ^ 32)
  else (s, v)

/-- A 4-byte read of a register's high half in a slot: the snapshot, or the live half with MISS (R364); above SNAP_TIME_X
the offset is reserved. -/
def State.snapHigh (s : State) (slot reg : Nat) : State × Nat :=
  if snapWide reg = false then (s, 0)
  else if (s.snapOf slot).tag = some reg then (s, (s.snapOf slot).high)
  else ({ s with host := { s.host with snapMiss := s.host.snapMiss ||| BitVec.ofNat 4 (2 ^ slot) } }, s.snapLive slot reg / 2 ^ 32)

/-- An 8-byte read in a slot: one value; only SNAP_TIME_X is latched (R364, R365). -/
def State.snapWhole (s : State) (slot reg : Nat) : State × Nat := (s.snapTime slot reg, s.snapLive slot reg)

/-! ### 64-bit registers (R362, R366) -/

/-- A write of SQ_BASE (0) or CQ_BASE (1) of a host mailbox; ignored while it is enabled. -/
def State.baseWrite (s : State) (m reg : Nat) (h : HalfWrite) : State :=
  if (s.mbRegs m).enable then s else
  s.modMb m fun x =>
    match h, reg with
    | .low v, 0 => { x with sqLow := v.toNat }
    | .low v, _ => { x with cqLow := v.toNat }
    | .high v, 0 => { x with sqBase := v.toNat * 2 ^ 32 + x.sqLow }
    | .high v, _ => { x with cqBase := v.toNat * 2 ^ 32 + x.cqLow }
    | .whole v, 0 => { x with sqBase := v.toNat }
    | .whole v, _ => { x with cqBase := v.toNat }

/-- REG64_HALF_WRITE (R362, R366). -/
def execReg64HalfWrite (t : Tm) (mb : Fin 2) (reg : Fin 2) (half : HalfWrite) (s : State) : Host.Outcome State Fault Refusal :=
  live t s fun s => s.baseWrite mb reg half

/-! ### Host events (R367, R368) -/

/-- The 32 bits of a group within a latch of 256. -/
def groupBits (g v : Nat) : BitVec 256 := BitVec.ofNat 256 (v * 2 ^ (32 * g))

/-- EV_PENDING_CLEAR (R367, R368): `raised` are the sources of the group raised in the same cycle; a raise wins. -/
def execEvPendingClear (t : Tm) (g : Fin 8) (value raised : BitVec 32) (s : State) : Host.Outcome State Fault Refusal :=
  live t s fun s =>
    let s1 := { s with ev := { s.ev with host := s.ev.host &&& ~~~ groupBits g value.toNat } }
    s1.each ((upTo 32).filter fun i => raised.getLsbD i) fun s i => s.raise (32 * g.val + i)

/-- A write of EV_MASK: a pending source that is unmasked signals its vector (R368). -/
def State.evMask (s : State) (g v : Nat) : State :=
  let old := s.ev.mask
  let new := (old &&& ~~~ groupBits g 0xFFFFFFFF) ||| groupBits g v
  let s1 := { s with ev := { s.ev with mask := new } }
  s1.each ((upTo 32).map (32 * g + ·)) fun s n =>
    if old.getLsbD n && !new.getLsbD n && s.ev.host.getLsbD n then s.msixDue (s.ev.vector n) else s

/-- EV_MASK_WRITE (R367, R368). -/
def execEvMaskWrite (t : Tm) (g : Fin 8) (value : BitVec 32) (s : State) : Host.Outcome State Fault Refusal :=
  live t s fun s => s.evMask g value.toNat

/-- EV_TEST (R367): the host latch alone. -/
def execEvTest (t : Tm) (source : Fin 256) (s : State) : Host.Outcome State Fault Refusal :=
  live t s fun s => s.latchHost source

/-- A write to the MSI-X capability or table. -/
def State.msixWrite (s : State) (w : MsixWrite) : State :=
  match w with
  | .enable on => { s with ev := { s.ev with msixEnable := on } }
  | .function masked => { s with ev := { s.ev with funcMask := masked } }
  | .vector n masked => { s with ev := { s.ev with
      vecMask := if masked then s.ev.vecMask ||| srcBit n else s.ev.vecMask &&& ~~~ srcBit n } }
  | .entry n addr data => { s with ev := { s.ev with table := Tbl.set (0, 0) s.ev.table n.val (addr.toNat, data.toNat) } }

/-- MSIX_MASK_WRITE (R360, R368): messages held in the pending bit array go out where the mask has lifted. -/
def execMsixMaskWrite (t : Tm) (what : MsixWrite) (s : State) : Host.Outcome State Fault Refusal :=
  live t s fun s => (s.msixWrite what).msixFlush 0 256

/-! ### Failed device reads (R372) -/

/-- A device read fails: HOST_ERR, COUNT, source 26 (R372). -/
def State.readFail (s : State) (how : ReadEnd) : State :=
  let bit (n : Nat) : State :=
    ({ s with host := { s.host with err := s.host.err ||| BitVec.ofNat 3 n, errCount := satTo 16 (s.host.errCount + 1) } }).raise 26
  match how with
  | .ok => s
  | .timeout => bit 1
  | .error => bit 2
  | .poisoned => bit 4

/-! ### Resets, link and power states (R373 to R375) -/

/-- Press jobs on host memory end with TIMEOUT (R372, R376). -/
def State.hostJobsEnd (s : State) : State :=
  s.each (upTo 6) fun s e =>
    match Tbl.get none s.press.run e with
    | some j => if j.srcKind == 0 || j.dstKind == 0 then (s.readFail .timeout).jobTimeout e else s
    | none => s

/-- The PCI Express block as its reset leaves it (R373). -/
def State.hostBlockReset (s : State) : State :=
  let s1 := { s with host := { s.host with
    gen := 0, width := 0, mps := 0, linkUp := false, training := false, d3hot := false, busMaster := false, bar0 := 0, bar2 := 0,
    mb := [], ksArg0 := 0, ksArg1 := 0, linkResets := satTo 16 (s.host.linkResets + 1) } }
  { s1 with ev := { s1.ev with
    mask := BitVec.allOnes 256, shared := 0, msixEnable := false, funcMask := false, vecMask := BitVec.allOnes 256, pba := 0,
    table := [] } }

/-- HOST_RESET (R373, R374): PERST_N, hot reset, link disable, function level reset or link down. -/
def execHostReset (t : Tm) (s : State) : Host.Outcome State Fault Refusal :=
  live t s fun s =>
    let s1 := ((s.muteWaits 0).muteWaits 1).hostBlockReset
    let s2 := ({ s1 with host := { s1.host with perst := true } }).ctxLostAll.hostJobsEnd
    (s2.raise 24).linkShow

/-- PERST_N_RELEASE (R375): link training starts. -/
def execPerstNRelease (t : Tm) (s : State) : Host.Outcome State Fault Refusal :=
  live t s fun s => { s with host := { s.host with perst := false, training := true } }

/-- HOST_LINK_UP (R222, R369, R375): the link trains, or retrains to another rate or width; the host has set up the function. -/
def execHostLinkUp (t : Tm) (gen : Fin 6) (width : Fin 9) (mps : Fin 3) (s : State) : Host.Outcome State Fault Refusal :=
  live t s fun s =>
    if gen.val = 0 ∨ [1, 2, 4, 8].contains width.val = false ∨ s.pwr.pll.getLsbD 4 = false then s else
    let changed := !s.host.linkUp || s.host.gen != gen.val || s.host.width != width.val
    let s1 := { s with host := { s.host with
      gen := gen, width := width, mps := mps, linkUp := true, training := false, perst := false, busMaster := true } }
    (s1.raiseIf changed 24).linkShow

/-- BUS_MASTER_DISABLE (R375): every host destination is lost. -/
def execBusMasterDisable (t : Tm) (s : State) : Host.Outcome State Fault Refusal :=
  live t s fun s => ({ s with host := { s.host with busMaster := false } }).ctxLostAll

/-- POWER_STATE_CHANGE (R375): D3hot holds DMA and messages; both resume in D0. -/
def execPowerStateChange (t : Tm) (d3hot : Bool) (s : State) : Host.Outcome State Fault Refusal :=
  live t s fun s =>
    let s1 := { s with host := { s.host with d3hot := d3hot } }
    let s2 := if d3hot then s1 else s1.msixFlush 0 256
    s2.each (s2.ctx.c.map (·.1)) State.ctxEval

end Sys2Proof.Machine
end

