-- ==== Sys2Proof/Machine/LaneOps.lean ====
section
/-! DEFINITION. Operations on the serial lanes and the active set of a port (chapter 12). -/

namespace Sys2Proof.Machine

/-- Lane `l`. -/
def State.laneOf (s : State) (l : Nat) : LaneSt := Tbl.get LaneSt.reset s.lane.lane l
/-- Change lane `l`. -/
def State.modLane (s : State) (l : Nat) (f : LaneSt → LaneSt) : State :=
  { s with lane := { s.lane with lane := Tbl.mod LaneSt.reset s.lane.lane l f } }
/-- Change the lane set of port `p`. -/
def State.modPortLane (s : State) (p : Nat) (f : PortLane → PortLane) : State :=
  { s with lane := { s.lane with port := Tbl.mod PortLane.reset s.lane.port p f } }

/-- The state of a lane (R293): 0 DISABLED, 1 DETECT, 2 LOCK, 3 DESKEW, 4 EXCHANGE, 5 ACTIVE, 6 STANDBY, 7 TEST. -/
def State.laneState (s : State) (l : Nat) : Nat := s.get P.LANE_STATUS_STATE l
/-- Enter a lane state. -/
def State.setLane (s : State) (l n : Nat) : State := s.put P.LANE_STATUS_STATE l n
/-- The lanes of a port. -/
def lanesOf (p : Nat) : List Nat := (upTo 4).map (4 * p + ·)
/-- The mask of those lanes of a port that satisfy a test. -/
def laneMask (p : Nat) (f : Nat → Bool) : Nat := (((upTo 4).filter fun i => f (4 * p + i)).map (2 ^ ·)).sum
/-- Lanes with block lock at the port's own receivers. -/
def State.lockedMask (s : State) (p : Nat) : Nat := laneMask p fun l => s.flag P.LANE_STATUS_BLOCK_LOCK l

/-- A lane is good: locked at both ends (R291), and deskewed. -/
def State.laneGood (s : State) (l : Nat) : Bool :=
  s.flag P.LANE_STATUS_BLOCK_LOCK l && (s.laneOf l).peer && decide (4 ≤ s.laneState l) && decide (s.laneState l ≤ 6)

/-- The widest set of R294 within a mask of good lanes. -/
def laneSet (good : Nat) : Nat :=
  if good % 16 = 15 then 15
  else if good % 4 = 3 then 3
  else if good / 4 % 4 = 3 then 12
  else match (upTo 4).find? fun i => good.testBit i with | some i => 2 ^ i | none => 0

/-- Lanes in a mask. -/
def maskCount (m : Nat) : Nat := ((upTo 4).filter fun i => m.testBit i).length

/-- The lanes of a port that the peer reports locked at its receivers. -/
def State.peerLocks (s : State) (p locked : Nat) : State :=
  s.each (upTo 4) fun s i => s.modLane (4 * p + i) fun x => { x with peer := locked.testBit i }

/-- Send a LINK message on the lanes of a port (R292). -/
def State.linkSend (s : State) (p : Nat) (m : LinkMsg) : State := s.emit (.link p (s.lockedMask p) m)

/-- Send HELLO on a port (R292): own identity, root identity, version. -/
def State.helloSend (s : State) (p : Nat) : State :=
  let id := s.get P.FAB_ID_ID 0
  let root := s.get P.FAB_ROOT_ID_ID 0
  let vals := [id % 2 ^ 32, id / 2 ^ 32, root % 2 ^ 32, root / 2 ^ 32, 1]
  (upTo 5).foldl (fun s k =>
    s.linkSend p (.hello (Fin.ofNat 5 k) (BitVec.ofNat 4 (s.lockedMask p)) (BitVec.ofNat 32 (vals.getD k 0)))) s

/-! ### The clock parent's lane (R299) -/

/-- The lane of a port that its clock is recovered from: lane 0 while it has CDR lock, else the lowest lane that has. -/
def State.cdrLane (s : State) (p : Nat) : Option Nat := (upTo 4).find? fun i => s.flag P.LANE_STATUS_CDR_LOCK (4 * p + i)

/-- The clock parent is recovered from its port's lane; a change of lane is built out in phase, so the time base sees no step. -/
def State.parentLane (s : State) : State :=
  let l := s.fab.clock.bind s.cdrLane
  if l = s.fab.clockLane then s
  else { s with fab := { s.fab with
    clockLane := l, buildOuts := if s.fab.clockLane.isSome && l.isSome then s.fab.buildOuts + 1 else s.fab.buildOuts } }

/-! ### Skew (R253, R293) -/

/-- ALIGN blocks of a lane are 4,096 slots of 2.75 ns apart. -/
def alignGap : Nat := 4096 * 8448

/-- How much later within the ALIGN interval `a` lies than `b`, to the nearer side. -/
def skewTo (a b : Tm) : Int :=
  let d := ((a : Int) - (b : Int)) % (alignGap : Int)
  if 2 * d ≤ (alignGap : Int) then d else d - (alignGap : Int)

/-- SKEW_UI of a port's measured lanes: each to the latest of them, in whole units of 24 UI, which last 1 ns (R293; log entry
104). -/
def State.skewShow (s : State) (p : Nat) : State :=
  let at_ := (lanesOf p).filterMap fun l => (s.laneOf l).alignAt
  s.each (lanesOf p) fun s l =>
    match (s.laneOf l).alignAt with
    | some a => s.put P.LANE_STATUS_SKEW_UI l (min 127 ((at_.map fun b => (skewTo b a).toNat).foldl max 0 / nsSt))
    | none => s

/-! ### Retraining (R300, R301) -/

/-- A lane starts to retrain (R301). -/
def State.retrain (s : State) (l : Nat) : State :=
  let s1 := s.modLane l fun x => { x with retrainAt := some s.time.now }
  if s1.maintRuns 7 l then s1 else s1.maintBegin 7 l false

/-- A lane's training ends: it reached STANDBY or ACTIVE, or it was disabled (R301). -/
def State.retrained (s : State) (l : Nat) : State := (s.modLane l fun x => { x with retrainAt := none }).maintEnd 7 l

/-- What a lane has learnt in training is dropped. -/
def LaneSt.fresh (x : LaneSt) : LaneSt :=
  { x with aligns := 0, alignAt := none, parts := [], got := 0, peer := false, goodFrom := none, held := false, ready := false }

/-- A lane returns to DETECT (R293, R301). -/
def State.laneDetect (s : State) (l : Nat) : State :=
  ((((s.setLane l 1).putB P.LANE_STATUS_CDR_LOCK l false).putB P.LANE_STATUS_BLOCK_LOCK l false).modLane l LaneSt.fresh).parentLane

/-- A lane enters DISABLED. -/
def State.laneOff (s : State) (l : Nat) : State := (((s.laneDetect l).setLane l 0)).retrained l

/-- The lane may train: lane and port enabled, and not held by R300. -/
def State.laneWanted (s : State) (l : Nat) : Bool :=
  s.flag P.LANE_CFG_ENABLE l && s.flag P.FAB_PORT_CFG_ENABLE (l / 4) && !s.flag P.LANE_STATUS_FLAPPED l

/-! ### The active set (R294 to R298) -/

/-- The active set of a port becomes a mask: the lanes in it are ACTIVE, the other good ones STANDBY. -/
def State.laneActive (s : State) (p mask : Nat) : State :=
  let s1 := s.each (upTo 4) fun s i =>
    let l := 4 * p + i
    if mask.testBit i then (s.setLane l 5).retrained l else if s.laneState l = 5 then s.setLane l 6 else s
  s1.put P.LANE_PORT_TX_MASK p mask

/-- The width of a port follows its set; the hop delay is to be measured again (R296, R297). -/
def State.portWidens (s : State) (p mask : Nat) : State :=
  ((s.put P.FAB_PORT_STATUS_WIDTH p (maskCount mask)).modFp p fun x => { x with uncomp := true, hop := none }).linkShow

/-- A port is declared down and its lanes train again (R259, R295). -/
def State.portFail (s : State) (p : Nat) : State :=
  let s1 := s.portDown p
  let s2 := (s1.modPortLane p fun x => { x with stripeAt := none, sent := 0, widen := none }).each (lanesOf p) fun s l =>
    if 2 ≤ s.laneState l ∧ s.laneState l ≤ 6 then (s.laneDetect l).retrain l else s
  let s3 := if s2.upPort = p then { s2 with time := { s2.time with master := false } } else s2
  ((s3.put P.LANE_PORT_TX_MASK p 0).put P.LANE_PORT_RX_MASK p 0).linkShow

/-- A set is sent with RESTRIPE and taken by the transmitter (R295); `lead` where this end begins the re-stripe. -/
def State.stripeSend (s : State) (p set : Nat) (lead : Bool) : State :=
  let s1 := (s.laneActive p set).modPortLane p fun x => { x with
    stripeAt := some (x.stripeAt.getD s.time.now), sentAt := s.time.now, sent := set, widen := none, lead := lead || (x.stripeAt.isSome && x.lead) }
  let s2 := (s1.bump P.LANE_PORT_RESTRIPES p).raise 48
  s2.linkSend p (.restripe (BitVec.ofNat 4 set) (BitVec.ofNat 4 (s2.lockedMask p)))

/-- The good lanes of a port. -/
def State.goodMask (s : State) (p : Nat) : Nat := laneMask p fun l => decide (5 ≤ s.laneState l) && s.laneGood l

/-- An active lane has been lost: the port re-stripes, or goes down where no good lane remains (R295). -/
def State.restripe (s : State) (p : Nat) : State :=
  let set := laneSet (s.goodMask p)
  if set = 0 then s.portFail p else s.stripeSend p set true

/-- The re-stripe of a port is complete (R295 to R297): frames lost in it come again by the replay of R259. -/
def State.stripeDone (s : State) (p set : Nat) : State :=
  let s1 := s.modPortLane p fun x => { x with stripeAt := none }
  ((s1.put P.LANE_PORT_RX_MASK p set).portWidens p set).modFp p fun x => { x with restriped := true }

/-- A lane loses block lock (R291, R293, R295, R300, R301). -/
def State.laneLost (s : State) (l : Nat) : State :=
  let was := s.laneState l
  if was < 3 ∨ was = 7 then s.putB P.LANE_STATUS_BLOCK_LOCK l false else
  let recent := s.time.now :: (s.laneOf l).losses.filter fun t => decide (s.time.now < t + 60 * secSt)
  let s1 := ((s.putB P.LANE_STATUS_BLOCK_LOCK l false).bump P.LANE_STATUS_LOSSES l).modLane l fun x =>
    { x.fresh with losses := recent }
  let p := l / 4
  let s2 := if s.get P.LANE_FLAP_MAX_LOSSES 0 < recent.length then ((s1.laneOff l).putB P.LANE_STATUS_FLAPPED l true).raise 51
    else (s1.setLane l 2).retrain l
  let s3 := if (s.portLane p).widen.isSome || (lanesOf p).any fun m => (s.laneOf m).held then
      (s2.modPortLane p fun x => { x with widen := none }).each (lanesOf p) fun s m =>
        s.modLane m fun x => { x with held := false, goodFrom := x.goodFrom.map fun _ => s.time.now }
    else s2
  if was = 5 then s3.restripe p else s3

/-- A lane reaches STANDBY (R293, R298): LANE_READY is sent. -/
def State.laneStandby (s : State) (l : Nat) : State :=
  let s1 := (s.setLane l 6).retrained l
  let s2 := s1.modLane l fun x => { x with goodFrom := if x.peer then some s.time.now else none, held := false }
  s2.linkSend (l / 4) (.ready (BitVec.ofNat 4 (s2.lockedMask (l / 4))))

end Sys2Proof.Machine
end

