-- ==== Sys2Proof/Machine/Topology.lean ====
section
/-! DEFINITION. The fabric root's view of the topology (R264, R268 to R276): the discovered tree, addresses, the paths of R272
and the route installs that follow from them. -/

namespace Sys2Proof.Machine

/-! ### The discovered tree (R268) -/

/-- The node of an identity. -/
def nodeOf (ns : List Node) (id : W64) : Option Node := ns.find? (·.id == id)

/-- The links of a device to devices that are known, lowest port first. -/
def linksOf (ns : List Node) (x : Node) : List (Nat × Node) :=
  (sortBy (fun a b : Nat × W64 => decide (a.1 < b.1)) x.links).filterMap fun l => (nodeOf ns l.2).map fun y => (l.1, y)

/-- A device's port towards another: its lowest port that leads there, 7 if it names none. -/
def portTo (x : Node) (id : W64) : Nat :=
  match sortBy (fun a b : Nat × W64 => decide (a.1 < b.1)) (x.links.filter (·.2 == id)) with
  | l :: _ => l.1
  | [] => 7

/-- A device attached below another through that device's port. -/
def attach (x : Node) (p : Nat) (y : Node) : Node :=
  { y with parent := x.id, port := p, up := portTo y x.id, level := x.level + 1, route := x.route ++ [p], stranded := false }

/-- The devices first reached from a device, in the order of its ports (R268). -/
def reachFrom (ns order : List Node) (x : Node) : List Node :=
  (linksOf ns x).foldl (fun acc l =>
    if (order ++ acc).any (·.id == l.2.id) || 29 ≤ x.level then acc else acc ++ [attach x l.1 l.2]) []

/-- Breadth-first: reached devices in reach order, and those whose ports are still to be followed (R268). -/
def bfs (ns : List Node) : Nat → List Node → List Node → List Node
  | 0, order, _ => order
  | _, order, [] => order
  | n + 1, order, x :: q => let new := reachFrom ns order x; bfs ns n (order ++ new) (q ++ new)

/-- The root of a list of nodes as the tree starts from it. -/
def rootNode (x : Node) : Node := { x with parent := 0, port := 7, up := 7, level := 0, route := [], stranded := false }

/-- The tree of a discovery, in reach order (R268). -/
def discoverTree (ns : List Node) : List Node :=
  match ns with
  | [] => []
  | r :: _ => bfs ns (ns.length + 1) [rootNode r] [rootNode r]

/-! ### Addresses (R264, R269) -/

/-- An address of one device (R263). -/
def isUnicast (a : Nat) : Bool := decide (a / 256 < 0xFE) && decide (a % 256 < 0xFF)

/-- The lowest free member of a region. -/
def freeMember (used : List Nat) (region : Nat) : Option Nat :=
  ((List.range 255).map (region * 256 + ·)).find? fun a => !used.contains a

/-- Member 0 of the lowest free region. -/
def freeRegion (used : List Nat) : Option Nat :=
  ((List.range 254).find? fun r => !used.any fun a => a / 256 == r).map (256 * ·)

/-- The address of one device in reach order (R264): from the plan, else in its parent's region, else as the top of a free one. -/
def addrFor (plan : List (W64 × Nat)) (done : List Node) (used : List Nat) (x : Node) : Nat :=
  match plan.find? (·.1 == x.id) with
  | some p => p.2
  | none =>
    let joined := if x.level = 0 then freeMember used 0 else
      match nodeOf done x.parent with
      | some y => if y.addr = 0xFFFF then none else freeMember used (y.addr / 256)
      | none => none
    match joined with
    | some a => a
    | none => (freeRegion used).getD 0xFFFF

/-- Give every device without an address one, in reach order; a device in abutment mode keeps the address it has only where
it is given the same one (R264, R269). -/
def assign (plan : List (W64 × Nat)) : List Node → List Node → List Node
  | done, [] => done
  | done, x :: q =>
    if x.addr != 0xFFFF && !x.abut then assign plan (done ++ [x]) q
    else
      let used := (done ++ q).filterMap (fun y => if y.addr = 0xFFFF then none else some y.addr) ++ plan.map (·.2)
      let a := addrFor plan done used x
      let a := if x.abut && a != x.addr then 0xFFFF else a
      assign plan (done ++ [{ x with addr := a }]) q

/-- A device is its region's top: it is the root, or its parent lies in another region (R264). -/
def isTopOf (ns : List Node) (x : Node) : Bool :=
  x.level == 0 || (match nodeOf ns x.parent with | some y => y.addr / 256 != x.addr / 256 | none => true)

/-- Every region has exactly one top (R264). -/
def closedTree (ns : List Node) : Bool :=
  let at_ := ns.filter fun x => x.addr != 0xFFFF && !x.stranded
  (List.range 254).all fun r =>
    let m := at_.filter fun x => x.addr / 256 == r
    m.isEmpty || (m.filter (isTopOf ns)).length == 1

/-! ### Re-attachment (R276) -/

/-- The devices whose tree links up to the root still stand, in reach order. -/
def keepTree (old : List Node) : Nat → List Node → List Node → List Node
  | 0, order, _ => order
  | _, order, [] => order
  | n + 1, order, x :: q =>
    let kept := old.filter fun y => y.level != 0 && !y.stranded && y.parent == x.id && y.links.any (·.2 == x.id)
      && x.links.any (fun l => l.1 == y.port && l.2 == y.id) && !(order.any (·.id == y.id))
    let kept := kept.map fun y => { y with level := x.level + 1, route := x.route ++ [y.port] }
    keepTree old n (order ++ kept) (q ++ kept)

/-- An attachment is allowed: the parent lies in the orphan's region, or all of that region is orphaned (R276). -/
def mayAttach (order : List Node) (o y : Node) : Bool :=
  o.addr == 0xFFFF || y.addr / 256 == o.addr / 256 || !(order.any fun z => z.addr != 0xFFFF && z.addr / 256 == o.addr / 256)

/-- The attachments that an orphan may make. -/
def offers (order : List Node) (o : Node) : List (Node × Node × Nat) :=
  order.flatMap fun y =>
    if y.abut || !(o.links.any (·.2 == y.id)) || !mayAttach order o y || 29 ≤ y.level then []
    else (y.links.filter (·.2 == o.id)).map fun l => (o, y, l.1)

/-- One attachment lies before another: lower level, then lower identity, then the parent's identity and port (R276). -/
def offerLt (a b : Node × Node × Nat) : Bool :=
  keyLt [a.2.1.level, a.1.id.toNat, a.2.1.id.toNat, a.2.2] [b.2.1.level, b.1.id.toNat, b.2.1.id.toNat, b.2.2]

/-- Attach orphans one by one (R276). -/
def reattach (ns : List Node) : Nat → List Node → List Node
  | 0, order => order
  | n + 1, order =>
    let orphans := ns.filter fun x => !(order.any (·.id == x.id))
    match sortBy offerLt (orphans.flatMap (offers order)) with
    | (o, y, p) :: _ => reattach ns n (order ++ [attach y p o])
    | [] => order

/-- The tree after a change, with the stranded devices last (R276). -/
def changedTree (ns : List Node) : List Node :=
  match ns with
  | [] => []
  | r :: _ =>
    let order := reattach ns ns.length (keepTree ns (ns.length + 1) [rootNode r] [rootNode r])
    order ++ ((ns.filter fun x => !(order.any (·.id == x.id))).map fun x => { x with stranded := true })

/-! ### Paths (R271, R272) -/

/-- The link from `x` to `y` is up: towards the lower level, between equal levels from the higher identity to the lower. -/
def upLink (x y : Node) : Bool := decide (y.level < x.level) || (y.level == x.level && decide (y.id.toNat < x.id.toNat))

/-- The devices a path may use towards a member of region `r`: attached members. -/
def members (ns : List Node) (r : Nat) : List Node :=
  ns.filter fun x => x.addr != 0xFFFF && !x.stranded && x.addr / 256 == r

/-- A device's links to other members; a device in abutment mode passes nothing on (R269). -/
def memberLinks (ms : List Node) (x : Node) : List (Nat × Node) := if x.abut then [] else linksOf ms x

/-- The least of a list of numbers. -/
def leastOf : List Nat → Option Nat
  | [] => none
  | a :: r => some (r.foldl min a)

/-- Hops to a destination so far known, by identity. -/
def hopsOf (d : List (W64 × Nat)) (x : W64) : Option Nat := (d.find? (·.1 == x)).map (·.2)

/-- One round of shortest paths over the links that `f` allows; a node keeps what `d0` gives it. -/
def relax (ms : List Node) (f : Node → Node → Bool) (d0 d : List (W64 × Nat)) : List (W64 × Nat) :=
  ms.filterMap fun x =>
    let via := ((memberLinks ms x).filter fun l => f x l.2).filterMap fun l => (hopsOf d l.2.id).map (· + 1)
    ((leastOf ((hopsOf d0 x.id).toList ++ via))).map fun n => (x.id, n)

/-- `n` rounds of shortest paths. -/
def relaxN (ms : List Node) (f : Node → Node → Bool) (d0 : List (W64 × Nat)) : Nat → List (W64 × Nat) → List (W64 × Nat)
  | 0, d => d
  | n + 1, d => relaxN ms f d0 n (relax ms f d0 d)

/-- Hops to a member over down links alone. -/
def downHops (ms : List Node) (d : Node) : List (W64 × Nat) :=
  relaxN ms (fun x y => !upLink x y) [(d.id, 0)] ms.length [(d.id, 0)]

/-- Hops to a member over legal paths: up links, then down links. -/
def legalHops (ms : List Node) (down : List (W64 × Nat)) : List (W64 × Nat) := relaxN ms upLink down ms.length down

/-- The output of device `x` for member `d` on VC1 to VC3 (R272): fewer hops, then the lower port. -/
def memberOut (ms : List Node) (down legal : List (W64 × Nat)) (x d : Node) : Nat :=
  if x.id = d.id then 4 else
  let downTo := (memberLinks ms x).filter fun l => !upLink x l.2
  let upTo_ := (memberLinks ms x).filter fun l => upLink x l.2
  let pick (ls : List (Nat × Node)) (h : List (W64 × Nat)) (n : Nat) : Nat :=
    match ls.find? fun l => hopsOf h l.2.id == some n with | some l => l.1 | none => 7
  match hopsOf down x.id with
  | some (n + 1) => pick downTo down n
  | _ =>
    match leastOf (upTo_.filterMap fun l => hopsOf legal l.2.id) with
    | some n => pick upTo_ legal n
    | none => 7

/-- The output of device `x` along the tree towards device `d` (R271, R273). -/
def treeOut (x d : Node) : Nat :=
  if x.route.isPrefixOf d.route then (match d.route.drop x.route.length with | p :: _ => p | [] => 4)
  else x.up

/-- A port of a device is a tree port. -/
def treePort (ns : List Node) (x : Node) (p : Nat) : Bool :=
  (x.level != 0 && p == x.up) || ns.any fun y => y.level != 0 && !y.stranded && y.parent == x.id && y.port == p

/-- A table entry from its outputs for VC1 to VC3 and VC0 (R271). -/
def tableEntry (ns : List Node) (x : Node) (out out0 : Nat) : BitVec 7 :=
  BitVec.ofNat 7 (out + 8 * out0 + 64 * b2n (decide (out < 4) && !treePort ns x out))

/-- The tables of a device: regions by their tops over tree links, members of its own region (R271 to R273). -/
def tablesOf (ns : List Node) (x : Node) : List (Nat × BitVec 7) × List (Nat × BitVec 7) :=
  let live := ns.filter fun y => y.addr != 0xFFFF && !y.stranded
  let regions := (live.filter (isTopOf ns)).map fun d => (d.addr / 256, tableEntry ns x (treeOut x d) (treeOut x d))
  let ms := members ns (x.addr / 256)
  let mem := ms.map fun d =>
    let down := downHops ms d
    (d.addr % 256, tableEntry ns x (memberOut ms down (legalHops ms down) x d) (treeOut x d))
  (sortBy (fun a b : Nat × BitVec 7 => decide (a.1 < b.1)) regions, sortBy (fun a b : Nat × BitVec 7 => decide (a.1 < b.1)) mem)

/-- The port states and peer addresses of a device (R287): tree up, tree down, shortcut, up unused; 0 where no known link
stands. -/
def portStates (ns : List Node) (x : Node) : List (Nat × Nat) :=
  [0, 1, 2, 3].map fun p =>
    match (linksOf ns x).find? (·.1 == p) with
    | none => (0, 0xFFFF)
    | some l =>
      (if x.level != 0 && p == x.up then 3
      else if treePort ns x p then 4
      else if l.2.addr / 256 == x.addr / 256 then 5 else 7, l.2.addr)

/-- The install of a device (R270, R276, R278): a stranded device keeps its address and tables. -/
def installOf (ns : List Node) (root : W64) (align : Nat) (x : Node) : Install :=
  if x.stranded then
    { addr := x.addr, upPort := 7, level := x.level, root := root, stranded := true, regions := [], members := [], ports := [],
      align := 0, seamUp := 7, seamEnable := 0, boundary := 0 }
  else
    let t := if x.addr = 0xFFFF then ([], []) else tablesOf ns x
    let st := portStates ns x
    let kids := ((st.zipIdx 1).filter fun e => e.1.1 == 4).map (·.2)
    { addr := x.addr, upPort := if x.level = 0 then 7 else x.up, level := x.level, root := root, stranded := false,
      regions := t.1, members := t.2, ports := st, align := align, seamUp := if x.level = 0 then 7 else x.up,
      seamEnable := BitVec.ofNat 5 (1 + (kids.map (2 ^ ·)).sum), boundary := 0 }

/-- The entries of a table in which an entry stood at another value before; an entry that is gone becomes unreachable. -/
def tableDelta (old new : List (Nat × BitVec 7)) : List (Nat × BitVec 7) :=
  (new.filter fun e => !old.contains e) ++ ((old.filter fun e => !(new.any (·.1 == e.1))).map fun e => (e.1, 63))

/-- The install that takes a device from one to the next: only the entries that change (R270, R275). -/
def installDelta (old new : Install) : Install :=
  if new.stranded then new
  else if old.addr / 256 ≠ new.addr / 256 ∨ old.stranded then
    let gone := (old.members.filter fun e => !(new.members.any (·.1 == e.1))).map fun e => (e.1, (63 : BitVec 7))
    { new with regions := tableDelta old.regions new.regions, members := new.members ++ gone }
  else { new with regions := tableDelta old.regions new.regions, members := tableDelta old.members new.members }

end Sys2Proof.Machine
end

