-- ==== Sys2Proof/Machine/Fabric.lean ====
section
/-! DEFINITION. The fabric's commands (chapter 11): data frames, credit and replay, the root claim, discovery, route installs
and route changes, the clock parent, and the fabric's mailbox commands. -/

namespace Sys2Proof.Machine

/-! ### Data frames (R256 to R259, R271, R277) -/

/-- A frame's own checks (R256, R259): the CRC of its trailer, SEQ repeated, a valid VC, 1 to 32 words. -/
def frameGood (f : Frame) : Bool :=
  f.crc.toNat == frameCrc f && f.seqRep == f.seq && decide (1 ≤ f.vc) && decide (f.vc ≤ 3) && decide (1 ≤ f.payload.length)
    && decide (f.payload.length ≤ 32)

/-- The receiver starts to discard frames and asks for a replay (R259). -/
def State.frameNak (s : State) (p : Nat) : State :=
  if (s.fp p).gap then s else (s.modFp p fun x => { x with gap := true }).creditReturn p 0 0 true

/-- Change or remove the item in reassembly of a key (R257). -/
def setItem (l : List RxItem) (f : Frame) (x : Option RxItem) : List RxItem :=
  (l.filter fun r => !(r.src == f.src && r.vc == f.vc && r.stream == f.stream)) ++ x.toList

/-- A whole item has arrived for this device (R178, R208, R256): by its stream. The root places the heartbeat records of devices
in abutment mode in its monitoring stream (R419). -/
def State.rxDeliver (s : State) (p : Nat) (x : RxItem) : State :=
  match parseRec (x.words.flatMap wordBytes) with
  | none => s
  | some r =>
    match x.stream with
    | 0 => s.seamArrive (p + 1) r
    | 1 => if s.abut || (s.inState (p + 1) == 0 && !(s.si (p + 1)).closing) then s else s.lateEmit r
    | 2 => s.markReceive p r
    | 3 => s.inboundPut x.ctx x.src r
    | 4 => if x.vc = 1 ∧ r.type = 0x0C then (if s.isRoot && s.leased then s.monPut r else s)
      else s.inboundPut x.ctx x.src r
    | _ => s

/-- An incomplete item that a new one ends is discarded, and counted in its stream (R26, R28, R257): the main and the late stream of a
Seam input, or a context's inbound source. -/
def State.itemEnds (s : State) (p : Nat) (x : RxItem) : State :=
  let at_ := x.key.getD s.stamp
  if x.stream = 0 then
    (if s.inState (p + 1) = 0 then s
     else let k := if at_.before s.seam.rp then s.seam.rp else at_; (s.seamLoss 0x09 p 1 k at_.tb at_.tb).seamEval)
  else if x.stream = 1 then (s.takeSeq 0x06).lateEmit (s.lossRec 0x09 p 1 at_ at_.tb at_.tb)
  else if x.stream = 3 ∨ (x.stream = 4 ∧ x.vc = 3) then s.itemLost p x
  else s

/-- A frame for this device joins its item; a FIRST frame ends an incomplete item, which is discarded (R256, R257). -/
def State.reassemble (s0 : State) (p : Nat) (f : Frame) : State :=
  if f.kind ≠ 0 then s0 else
  let s := match if f.first then (s0.fp p).rx.find? fun r => r.src == f.src && r.vc == f.vc && r.stream == f.stream else none with
    | some x => s0.itemEnds p x
    | none => s0
  let start : Option RxItem :=
    if f.first then some ⟨f.src, f.vc, f.stream, f.kind, (f.payload.headD 0).toNat % 1024, f.payload.drop 1⟩
    else ((s.fp p).rx.find? fun r => r.src == f.src && r.vc == f.vc && r.stream == f.stream).map fun r =>
      { r with words := r.words ++ f.payload }
  match start with
  | none => s
  | some x =>
    if f.last then (s.modFp p fun y => { y with rx := setItem y.rx f none }).rxDeliver p x
    else s.modFp p fun y => { y with rx := setItem y.rx f (some x) }

/-- A good frame is forwarded or taken (R257, R258, R263, R271); one that has to wait for its output is acknowledged at once. -/
def State.frameTake (s : State) (p : Nat) (f : Frame) : State :=
  let units := frameUnits f.payload.length
  let e := s.dataEntry f.dest
  if e = 4 then (s.reassemble p f).creditBack p f.vc units
  else if 0xFE ≤ f.dest / 256 then (s.bump P.FAB_PORT_DROP_DISCARDED p).creditBack p f.vc units
  else if e < 4 then
    if s.portCarries e then
      let s1 := s.fabQueue e [{ f with seqRep := p + 1 }]
      if ((s1.fp e).waits f.vc).isEmpty then s1 else s1.ack p
    else (s.bump P.FAB_PORT_DROP_DISCARDED e).creditBack p f.vc units
  else ((s.bump P.FAB_PORT_DROP_DISCARDED p).raise 38).creditBack p f.vc units

/-- RECORD_FRAME (R257 to R259, R271, R277, R295, R428): a data frame is checked, acknowledged, forwarded or taken. -/
def execRecordFrame (t : Tm) (port : Port) (frame : Frame) (s : State) : Host.Outcome State Fault Refusal :=
  live t s fun s =>
    let p := port.val
    let x := s.fp p
    if !s.portCarries p || s.striped p then s
    else if !frameGood frame then (s.bump P.FAB_PORT_ERR_CRC p).frameNak p
    else if frame.seq ≠ x.rxSeq then
      if (x.rxSeq + 256 - frame.seq) % 256 ≤ 127 then s.creditReturn p 0 0 false else s.frameNak p
    else
      let m := s.flawNext 14
      if m.2 then m.1.frameNak p
      else
        let s1 := m.1.modFp p fun x => { x with rxSeq := (x.rxSeq + 1) % 256, gap := false }
        s1.frameTake p frame

/-- The sender replays every unacknowledged frame, or declares the port down after eight replays (R259, R296). -/
def State.replay (s : State) (p : Nat) : State :=
  let x := s.fp p
  if x.unacked.isEmpty then s
  else if 8 ≤ x.tries && !x.restriped then s.portFail p
  else
    let s1 := s.modFp p fun x => { x with
      unacked := x.unacked.map fun u => (u.1, s.time.now), tries := if x.restriped then x.tries else x.tries + 1, restriped := false }
    let s2 := (s1.bump P.FAB_PORT_ERR_REPLAYS p).raise 37
    x.unacked.foldl (fun (s : State) u => s.emit (.data p u.1)) s2

/-- Frames up to an acknowledged SEQ leave the replay buffer (R259). -/
def ackDrop (ack : Nat) (l : List (Frame × Tm)) : List (Frame × Tm) :=
  if l.any fun u => u.1.seq == ack then (l.dropWhile fun u => u.1.seq != ack).drop 1 else l

/-- CREDIT_BLOCK (R258, R259): credit is returned, frames are acknowledged, a NAK replays. -/
def execCreditBlock (t : Tm) (port : Port) (credit : Credit) (s : State) : Host.Outcome State Fault Refusal :=
  live t s fun s =>
    let p := port.val
    if !s.portCarries p then s else
    let s1 := if credit.ackValid then s.modFp p fun x =>
        let l := ackDrop credit.ack x.unacked
        { x with unacked := l, tries := if l.length < x.unacked.length then 0 else x.tries }
      else s
    let s2 := (s1.modFp p fun x => { x with used := Tbl.mod 0 x.used credit.vc fun n => n - credit.count }).showCredit p
    let s3 := if credit.nak then s2.replay p else s2
    (s3.fabPump p (s3.fp p).waiting).upDrain p

/-- REPLAY_TIMEOUT (R259): no acknowledgement 2 µs after the oldest unacknowledged frame. -/
def execReplayTimeout (t : Tm) (port : Port) (s : State) : Host.Outcome State Fault Refusal :=
  live t s fun s =>
    match (s.fp port).unacked with
    | u :: _ => if u.2 + 2 * usSt ≤ s.time.now then s.replay port else s
    | [] => s

/-! ### Root claim (R265, R266) -/

/-- The claim window in stitches. -/
def State.claimWindow (s : State) : Nat := s.get P.FAB_CLAIM_CFG_WINDOW_MS 0 * msSt

/-- The device's identity. -/
def State.ownId (s : State) : W64 := Regs.word s.regs P.FAB_ID_ID 0
/-- The identity of the root, 0 for none. -/
def State.rootId (s : State) : W64 := Regs.word s.regs P.FAB_ROOT_ID_ID 0
/-- Set the identity of the root; every port tells its peer. -/
def State.setRoot (s : State) (id : W64) : State :=
  let s1 := s.putWord P.FAB_ROOT_ID_ID 0 id
  if s.rootId = id then s1 else s1.each ((upTo 4).filter s1.portUp) State.helloSend

/-- The lowest identity claimed within the last window. -/
def State.lowClaim (s : State) : Option W64 :=
  match s.fab.low with
  | some (id, t) => if s.time.now < t + s.claimWindow then some id else none
  | none => none

/-- Ports a claim is flooded through. -/
def State.claimPorts (s : State) : List Nat := (upTo 4).filter s.portCarries

/-- Flood a claim (R265). -/
def State.claimSend (s : State) (id : W64) (except : Option Nat) : State :=
  let s1 := { s with fab := { s.fab with low := some (id, s.time.now) } }
  s1.each (s.claimPorts.filter fun p => except != some p) fun s p => s.emit (.claim p id)

/-- The commands of an opcode in the background. -/
def isOp (op : Nat) (x : Wait) : Bool := x.opcode == op

/-- ROOT_CLAIM (R265, R266, R341). -/
def execRootClaim (t : Tm) (mb : Mb) (cmd : Cmd) (s : State) : Host.Outcome State Fault Refusal :=
  live t s fun s => s.command mb cmd 0 fun s _ =>
    if s.rootId ≠ 0 ∨ s.fab.claimUntil.isSome then s.ends stBusy
    else if s.get P.DDR_MAP_FW_MIB 0 < 64 then s.ends stNoResource
    else match s.lowClaim with
      | some id =>
        if id.toNat < s.ownId.toNat then ((s.setRoot id).raise 33).ends stDenied
        else ({ s with fab := { s.fab with claimUntil := some (s.time.now + s.claimWindow) } }.claimSend s.ownId none).goesOn
      | none => ({ s with fab := { s.fab with claimUntil := some (s.time.now + s.claimWindow) } }.claimSend s.ownId none).goesOn

/-- CLAIM_FRAME (R265 to R267): a claim is forwarded, refused, or withdraws this device's own. -/
def execClaimFrame (t : Tm) (port : Port) (identity : W64) (s : State) : Host.Outcome State Fault Refusal :=
  live t s fun s =>
    if !s.leased || !s.portCarries port then s
    else match s.lowClaim with
      | some id =>
        if id.toNat ≤ identity.toNat then s
        else
          let s1 := s.claimSend identity (some port)
          if s.fab.claimUntil.isSome && identity.toNat < s.ownId.toNat then
            ((({ s1 with fab := { s1.fab with claimUntil := none } }.setRoot identity).raise 33).backFail (isOp 0x0A01) stDenied 0)
          else s1
      | none => if s.rootId ≠ 0 then s else s.claimSend identity (some port)

/-! ### Discovery (R268 to R270) -/

/-- The first payload word of a probe (R268): hop count in [4:0], 2 bits of port number a hop from bit 5 up. -/
def probeWord (route : List Nat) : Nat := route.length + ((route.zipIdx 0).map fun e => e.1 * 2 ^ (5 + 2 * e.2)).sum

/-- Send probes while fewer than 64 are outstanding, `n` of them (R268). -/
def State.probePump (s : State) : Nat → State
  | 0 => s
  | n + 1 =>
    match s.fab.toProbe with
    | r :: rest =>
      if s.fab.probes.length < 64 then
        (({ s with fab := { s.fab with toProbe := rest, probes := s.fab.probes ++ [r] } }).emit
          (.probe (probeWord r) r.length)).probePump n
      else s
    | [] => s

/-- The device's own links. -/
def State.ownLinks (s : State) : List (Nat × W64) :=
  ((upTo 4).filter s.portCarries).map fun p => (p, Regs.word s.regs P.FAB_PORT_PEER_ID_ID p)

/-- The root itself as a node. -/
def State.ownNode (s : State) : Node := { Node.reset with id := s.ownId, links := s.ownLinks }

/-- The routes that lead on from a device. -/
def routesOn (x : Node) : List (List Nat) := if 29 ≤ x.route.length then [] else x.links.map fun l => x.route ++ [l.1]

/-- The path alignment of a device that is a trigger root (R115, R278): the greatest path delay, and 14 cc; what other devices
measured is free (log entry 19). -/
def State.alignFor (s : State) (ns : List Node) (x : Node) : Nat :=
  let far (d : Node) : Nat :=
    if x.level = 0 then s.pathDelay d.addr (d.route.headD 7)
    else Config.farDelay (65536 * (x.addr + 1) + d.addr) (s.get P.FAB_TREE_ROUTE_SETS 0 + 1)
  let ds := ((ns.filter fun d => d.addr != 0xFFFF && !d.stranded && d.id != x.id).map far).foldl max 0
  satTo 16 (ceilDiv ds ccSt + 14)

/-- The installs of a tree, by device (R270). -/
def State.installsOf (s : State) (ns : List Node) : List (W64 × Install) :=
  (ns.filter fun x => x.addr != 0xFFFF && !x.abut).map fun x => (x.id, installOf ns s.ownId (s.alignFor ns x) x)

/-- An install changes something that the device must be told (R275). -/
def installNeeded (old : Option Install) (new : Install) : Bool :=
  match old with
  | none => true
  | some o =>
    let d := installDelta o new
    !d.regions.isEmpty || !d.members.isEmpty || o.addr != new.addr || o.upPort != new.upPort || o.root != new.root
      || o.stranded != new.stranded

/-- The install to send: whole to a device that has none, else what changes. -/
def installSend (old : Option Install) (new : Install) : Install :=
  match old with | none => new | some o => installDelta o new

/-- Name the boundary of a route set once every install is acknowledged (R270). -/
def State.routeName (s : State) : State :=
  let waits := s.fab.installs.any fun e => s.fab.nodes.any fun x => x.id == e.1 && !x.acked && !x.stranded
  if waits || s.fab.named.isSome || s.fab.mine.isNone then s else
  let b := ceilDiv (s.time.now + 2 * s.spanLen) s.spanLen * s.spanLen
  let s1 := { s with fab := { s.fab with named := some b, mine := s.fab.mine.map fun (i : Install) => { i with boundary := b } } }
  let s2 := s1.put P.FAB_ROUTE_PENDING_TIME_NS 0 (tbNs b)
  s.fab.installs.foldl (fun (s : State) e => s.emit (.install e.1 { e.2 with boundary := b })) s2

/-- A new tree is computed: installs go to the devices that it changes (R270, R275). -/
def State.routeSet (s : State) (ns : List Node) : State :=
  let all := s.installsOf ns
  let old (id : W64) : Option Install := (s.fab.last.find? (·.1 == id)).map (·.2)
  let others := all.filter fun e => e.1 != s.ownId && installNeeded (old e.1) e.2
  let sent := others.map fun e => (e.1, installSend (old e.1) e.2)
  let mine := (all.find? (·.1 == s.ownId)).map fun e => installSend (old e.1) e.2
  let s1 := { s with fab := { s.fab with
    nodes := ns.map fun x => { x with acked := !(sent.any (·.1 == x.id)) },
    last := all, installs := sent, mine := mine, named := none, again := false } }
  let s2 := sent.foldl (fun (s : State) e => s.emit (.install e.1 e.2)) s1
  s2.routeName

/-- A route set is in flight (R285). -/
def State.routeBusy (s : State) : Bool := s.fab.mine.isSome || !s.fab.probes.isEmpty || !s.fab.toProbe.isEmpty

/-- The root computes the new tree of a change, or keeps it for the boundary of the set in flight (R275, R276, R285). -/
def State.routeChange (s : State) : State :=
  if !s.isRoot then s
  else if s.routeBusy || !s.leased then { s with fab := { s.fab with again := true } }
  else
    let tree := changedTree s.fab.nodes
    let live := assign s.fab.plan [] (tree.filter fun x => !x.stranded)
    let ns := live ++ tree.filter (·.stranded)
    let fresh := ns.any fun x => x.stranded && (s.fab.nodes.any fun y => y.id == x.id && !y.stranded)
    (s.raiseIf fresh 38).routeSet ns

/-- Discovery is complete: the tree, addresses, source 34, and the first route set (R264, R268, R270). -/
def State.discovered (s : State) : State :=
  if !s.fab.probes.isEmpty || !s.fab.toProbe.isEmpty then s
  else if s.fab.discovering then
    let ns := assign s.fab.plan [] (discoverTree s.fab.nodes)
    (({ s with fab := { s.fab with discovering := false, last := [] } }).raise 34).routeSet ns
  else s.routeChange

/-- CLAIM_WINDOW_EXPIRE (R265, R268): no lower identity in a whole window makes the claimant root; discovery starts. -/
def execClaimWindowExpire (t : Tm) (s : State) : Host.Outcome State Fault Refusal :=
  live t s fun s =>
    match s.fab.claimUntil with
    | some u =>
      if u ≤ s.time.now && s.leased then
        let s1 := ((({ s with fab := { s.fab with claimUntil := none } }).putB P.FAB_ADDR_ROOT 0 true).setRoot s.ownId).raise 33
        let own := s1.ownNode
        let s2 := { s1 with fab := { s1.fab with
          nodes := [own], probes := [], toProbe := routesOn own, discovering := true, installs := [], named := none, mine := none } }
        (s2.probePump 64).discovered
      else s
    | none => s

/-- DISCOVERY_PROBE (R268, R269): the device answers, from its Keystone in abutment mode. -/
def execDiscoveryProbe (t : Tm) (port : Port) (src : Nat) (route : W64) (s : State) : Host.Outcome State Fault Refusal :=
  live t s fun s =>
    if !(s.leased || s.abut) || !s.portCarries port || src = s.origin && s.isRoot then s else
    let hops := route.toNat % 32
    let via := bitsOf route.toNat (5 + 2 * (hops - 1) + 1) (5 + 2 * (hops - 1))
    s.emit (.probeReply {
      identity := s.ownId, reachedFrom := Regs.word s.regs P.FAB_PORT_PEER_ID_ID port, port := Fin.ofNat 4 via, root := s.rootId,
      addr := s.origin, abutment := s.abut,
      ports := (upTo 4).map fun p => (Regs.word s.regs P.FAB_PORT_PEER_ID_ID p, s.portCarries p) })

/-- The links that a reply shows. -/
def replyLinks (r : ProbeReply) : List (Nat × W64) :=
  if r.abutment then [] else ((r.ports.zipIdx 0).filter fun e => e.1.2).map fun e => (e.2, e.1.1)

/-- Change a node of the topology. -/
def modNode (id : W64) (f : Node → Node) (ns : List Node) : List Node := ns.map fun x => if x.id = id then f x else x

/-- A device has replied (R268): a foreign link is left out, an unknown device extends the tree. -/
def State.nodeTake (s : State) (x : Node) (r : ProbeReply) : State :=
  let route := x.route ++ [r.port.val]
  if r.root ≠ 0 ∧ r.root ≠ s.ownId then
    { s with fab := { s.fab with nodes := modNode x.id (fun x => { x with links := x.links.filter (·.1 != r.port.val) }) s.fab.nodes } }
  else if s.fab.nodes.any (·.id == r.identity) then
    let known := modNode x.id (fun x => if x.links.any (·.1 == r.port.val) then x else
      { x with links := x.links ++ [(r.port.val, r.identity)] }) s.fab.nodes
    { s with fab := { s.fab with nodes :=
      if r.identity = s.ownId then known else modNode r.identity (fun y => { y with links := replyLinks r, abut := r.abutment }) known } }
  else
    let y : Node := { Node.reset with
      id := r.identity, addr := if r.abutment then r.addr else 0xFFFF, abut := r.abutment, level := x.level + 1, route := route,
      links := replyLinks r, stranded := !s.fab.discovering }
    let known := modNode x.id (fun x => if x.links.any (·.1 == r.port.val) then x else
      { x with links := x.links ++ [(r.port.val, r.identity)] }) s.fab.nodes
    { s with fab := { s.fab with nodes := known ++ [y], toProbe := s.fab.toProbe ++ routesOn y } }

/-- DISCOVERY_REPLY (R264, R267 to R270): the root takes a reply. -/
def execDiscoveryReply (t : Tm) (reply : ProbeReply) (s : State) : Host.Outcome State Fault Refusal :=
  live t s fun s =>
    if !s.isRoot || !s.leased then s
    else match nodeOf s.fab.nodes reply.reachedFrom with
      | none => s
      | some x =>
        let route := x.route ++ [reply.port.val]
        if !s.fab.probes.contains route then s else
        let s1 := { s with fab := { s.fab with probes := s.fab.probes.erase route } }
        ((s1.nodeTake x reply).probePump 64).discovered

/-! ### Route installs (R270, R278) -/

/-- ROUTE_INSTALL (R270): an install is kept for its boundary and acknowledged; one that misses the cutoff is not dated. -/
def execRouteInstall (t : Tm) (install : Install) (s : State) : Host.Outcome State Fault Refusal :=
  live t s fun s =>
    if !s.leased then s
    else if install.boundary = 0 then
      ({ s with fab := { s.fab with mine := some install } }).emit (.control 0xFFFF [3, s.origin])
    else if install.boundary ≤ s.time.now + cutoffLen then s
    else ({ s with fab := { s.fab with mine := some install } }).put P.FAB_ROUTE_PENDING_TIME_NS 0 (tbNs install.boundary)

/-- ROUTE_INSTALL_ACK (R270): the last acknowledgement names the boundary. -/
def execRouteInstallAck (t : Tm) (identity : W64) (s : State) : Host.Outcome State Fault Refusal :=
  live t s fun s =>
    if !s.isRoot || !s.leased || !(s.fab.installs.any (·.1 == identity)) then s
    else ({ s with fab := { s.fab with nodes := modNode identity (fun x => { x with acked := true }) s.fab.nodes } }).routeName

/-- Write table entries (R271). -/
def State.tableWrite (s : State) (f : Fld) (l : List (Nat × BitVec 7)) : State :=
  l.foldl (fun s e => s.putWord f e.1 (BitVec.ofNat 64 e.2.toNat)) s

/-- The Seam follows the new tree (R180, R278); a merge root by choice stays one (log entry 36). -/
def State.seamFollow (s : State) (i : Install) : State :=
  let keep := s.fab.routed && s.get P.SEAM_CFG_UP_PORT 0 == 7
  let s1 := if keep then s else s.put P.SEAM_CFG_UP_PORT 0 i.seamUp
  s1.each [1, 2, 3, 4] fun s k => s.putB P.SEAM_IN_CFG_ENABLE k (i.seamEnable.getLsbD k)

/-- The clock parent follows the new tree (R261, R262, R282). -/
def State.clockFollow (s : State) (i : Install) : State :=
  let parent := if i.upPort < 4 then some i.upPort else none
  let s1 := { s with time := { s.time with master := parent.isSome } }
  if s.fab.clock = parent ∧ s.get P.FAB_CLOCK_SOURCE 0 ≠ 2 then s1 else
  let s2 := (({ s1 with fab := { s1.fab with clock := parent } }).put P.FAB_CLOCK_SOURCE 0 (if parent.isSome then 1 else 0)).parentLane
  let s3 := s2.each ((upTo 4).filter s2.portUp) fun s p => s.modFp p fun x => { x with uncomp := true }
  (s3.bump P.FAB_CLOCK_CHANGES 0).raise 40

/-- Port states and peer addresses follow the new tree (R287). -/
def State.portsFollow (s : State) (l : List (Nat × Nat)) : State :=
  (l.zipIdx 0).foldl (fun s e =>
    if s.portCarries e.2 then
      let st := if e.1.1 = 0 then 2 else e.1.1
      let st := if st = 5 ∧ !s.flag P.FAB_PORT_CFG_SHORTCUT_EN e.2 then 7 else st
      (s.put P.FAB_PORT_STATUS_STATE e.2 st).put P.FAB_PORT_STATUS_PEER_ADDR e.2 e.1.2
    else s) s

/-- No master stands on the up port any more (R310). -/
def State.noMaster (s : State) : State := { s with time := { s.time with master := false } }

/-- The clock holds its frequency over; source 40 (R262). -/
def State.clockHold (s : State) : State :=
  if s.get P.FAB_CLOCK_SOURCE 0 = 2 then s else (s.put P.FAB_CLOCK_SOURCE 0 2).raise 40

/-- This device is left over by a route change (R276). -/
def State.strand (s : State) (i : Install) : State :=
  (((s.putB P.FAB_ADDR_STRANDED 0 true).setRoot i.root).raise 38).noMaster.clockHold

/-- The claim of a root completes with its first route set (R264, R265). -/
def State.claimDone (s : State) : State :=
  if s.fab.nodes.any fun x => x.addr == 0xFFFF && !x.abut then s.backFail (isOp 0x0A01) stNoResource 0
  else s.backEnd (isOp 0x0A01) stOk 0 []

/-- The fabric root's own path alignment follows the tables and the hop delays now in force (R115, R278). -/
def State.alignOwn (s : State) : State :=
  match nodeOf s.fab.nodes s.ownId with
  | some x => if s.isRoot && s.flag P.ROOT_CFG_ROOT 0 then s.put P.ROOT_ALIGN_ALIGN 0 (s.alignFor s.fab.nodes x) else s
  | none => s

/-- The route set pending at this boundary takes effect (R262, R270, R276, R278). -/
def State.routeApply (s : State) : State :=
  match s.fab.mine with
  | none => s
  | some i =>
    if i.boundary = 0 ∨ s.time.now < i.boundary then s else
    let s0 := { s with fab := { s.fab with mine := none } }
    let s1 := if i.stranded then s0.strand i
      else
        let a := ((s0.put P.FAB_ADDR_ADDR 0 i.addr).putB P.FAB_ADDR_STRANDED 0 false).setRoot i.root
        let b := ((a.put P.FAB_TREE_UP_PORT 0 i.upPort).put P.FAB_TREE_LEVEL 0 i.level).tableWrite P.FAB_REGION_ROUTE_PORT i.regions
        let c := (b.tableWrite P.FAB_MEMBER_ROUTE_PORT i.members).portsFollow i.ports
        let d := (c.seamFollow i).clockFollow i
        let e := if d.flag P.ROOT_CFG_ROOT 0 then d.put P.ROOT_ALIGN_ALIGN 0 i.align else d
        { e with fab := { e.fab with routed := true } }
    let s2 := ((s1.bump P.FAB_TREE_ROUTE_SETS 0).put P.FAB_ROUTE_PENDING_TIME_NS 0 0).raise 35
    let s3 := if s2.isRoot then ({ s2.alignOwn with fab := { s2.fab with named := none, installs := [] } }).claimDone else s2
    (if s3.fab.again then (s3.probePump 64).routeChange else s3).linkShow

/-! ### Route changes (R275, R276) -/

/-- PORT_CHANGE_REPORT (R275): a lost link changes the tree; a link that came up is probed first. -/
def execPortChangeReport (t : Tm) (identity : W64) (port : Port) (up : Bool) (s : State) : Host.Outcome State Fault Refusal :=
  live t s fun s =>
    if !s.isRoot then s
    else match nodeOf s.fab.nodes identity with
      | none => s
      | some x =>
        if up then
          let s1 := { s with fab := { s.fab with toProbe := s.fab.toProbe ++ [x.route ++ [port.val]] } }
          if s.leased && s.fab.mine.isNone then s1.probePump 64 else { s1 with fab := { s1.fab with again := true } }
        else
          let far := (x.links.find? (·.1 == port.val)).map (·.2)
          let cut (y : Node) : Node :=
            if y.id = identity then { y with links := y.links.filter (·.1 != port.val) }
            else if some y.id = far ∧ (y.links.filter (·.2 == identity)).length = 1 then
              { y with links := y.links.filter (·.2 != identity) }
            else y
          let gone := x.route ++ [port.val]
          let s1 := { s with fab := { s.fab with
            nodes := s.fab.nodes.map cut, probes := s.fab.probes.filter fun r => !gone.isPrefixOf r,
            toProbe := s.fab.toProbe.filter fun r => !gone.isPrefixOf r } }
          if s.fab.discovering then s1.discovered else s1.routeChange

/-- CLOCK_PARENT_LOST (R262): the PLL holds its frequency over. -/
def execClockParentLost (t : Tm) (s : State) : Host.Outcome State Fault Refusal :=
  live t s State.clockHold

/-- HOP_DELAY_MEASURED (R282, R297): the new hop delay waits for the next boundary. -/
def execHopDelayMeasured (t : Tm) (port : Port) (delay : Nat) (s : State) : Host.Outcome State Fault Refusal :=
  live t s fun s => if s.portUp port then s.modFp port fun x => { x with hop := some delay } else s

/-- Hop delays measured since the last boundary take effect; the root's own alignment follows (R115, R282, R297). -/
def State.hopsAdopt (s : State) : State :=
  let due := (upTo 4).filter fun p => (s.fp p).hop.isSome
  let s1 := s.each due fun s p =>
    (s.put P.FAB_PORT_DELAY_HOP p (satTo 32 ((s.fp p).hop.getD 0))).modFp p fun x => { x with hop := none, uncomp := false }
  if due.isEmpty then s1 else s1.alignOwn

/-! ### Mailbox commands (R264, R266, R398) -/

/-- ROOT_RELEASE (R266): the fabric is left headless; tables, addresses and clock parents stay in force. -/
def execRootRelease (t : Tm) (mb : Mb) (cmd : Cmd) (s : State) : Host.Outcome State Fault Refusal :=
  live t s fun s => s.command mb cmd 0 fun s _ =>
    if !s.isRoot then s.ends stDenied
    else
      let s1 := (s.putB P.FAB_ADDR_ROOT 0 false).setRoot 0
      let s2 := { s1 with fab := { s1.fab with discovering := false, probes := [], toProbe := [], again := false } }
      (s2.mastered.raise 33).gives 0

/-- The entries of an ADDR_PLAN payload. -/
def planEntries (p : List Byte) (n : Nat) : List (W64 × Nat) :=
  (List.range n).map fun i => (BitVec.ofNat 64 (field p (8 + 16 * i) 8), field p (16 + 16 * i) 2)

/-- A plan that can be used (R264): addresses of devices, none twice, and closed regions in the topology that is known. -/
def State.planOk (s : State) (plan : List (W64 × Nat)) : Bool :=
  plan.all (fun e => isUnicast e.2) && (plan.map (·.1)).eraseDups.length == plan.length
    && (plan.map (·.2)).eraseDups.length == plan.length
    && closedTree (assign plan [] ((discoverTree s.fab.nodes).map fun x => if x.abut then x else { x with addr := 0xFFFF }))

/-- ADDR_PLAN (R264). -/
def execAddrPlan (t : Tm) (mb : Mb) (cmd : Cmd) (s : State) : Host.Outcome State Fault Refusal :=
  live t s fun s => s.command mb cmd (8 + 16 * min 253 (field cmd.payload 0 2)) fun s _ =>
    let p := cmd.payload
    let n := field p 0 2
    let flags := field p 2 1
    if 253 < n then s.ends stBadParam
    else
      let held := (if flags.testBit 0 then [] else s.fab.planNext) ++ planEntries p n
      if flags.testBit 1 then
        if s.planOk held then ({ s with fab := { s.fab with plan := held, planNext := held } }).gives held.length
        else s.ends stBadParam
      else ({ s with fab := { s.fab with planNext := held } }).gives held.length

/-- One device of a TOPOLOGY_READ response (R398). -/
def State.topologyEntry (s : State) (x : Node) : List Byte :=
  let parent := if x.level = 0 then 0xFFFF else ((nodeOf s.fab.nodes x.parent).map (·.addr)).getD 0xFFFF
  le 8 x.id.toNat ++ le 2 x.addr ++ le 2 parent ++ [BitVec.ofNat 8 x.level]
    ++ (portStates s.fab.nodes x).map (fun e => BitVec.ofNat 8 e.1) ++ List.replicate 15 0

/-- TOPOLOGY_READ (R398): only at the root. -/
def execTopologyRead (t : Tm) (mb : Mb) (cmd : Cmd) (s : State) : Host.Outcome State Fault Refusal :=
  live t s fun s => s.command mb cmd 8 fun s _ =>
    if !s.isRoot then s.ends stDenied
    else s.answers (((s.fab.nodes.drop (field cmd.payload 0 4)).take (field cmd.payload 4 4)).flatMap s.topologyEntry)

end Sys2Proof.Machine
end

