-- ==== Sys2Proof/Machine/Lanes.lean ====
section
/-! DEFINITION. The commands of the serial lanes (chapter 12): lock, training, re-striping, rejoin, loopbacks and PRBS. -/

namespace Sys2Proof.Machine

/-! ### Lock and training (R253, R291 to R294, R301) -/

/-- LANE_CDR_LOCK (R291, R293): the phase loop locks. -/
def execLaneCdrLock (t : Tm) (lane : Lane) (s : State) : Host.Outcome State Fault Refusal :=
  live t s fun s =>
    if s.laneState lane = 1 then ((s.putB P.LANE_STATUS_CDR_LOCK lane true).setLane lane 2).parentLane
    else if s.laneState lane = 0 then s else (s.putB P.LANE_STATUS_CDR_LOCK lane true).parentLane

/-- LANE_BLOCK_LOCK (R291, R293): 64 consecutive valid sync headers. -/
def execLaneBlockLock (t : Tm) (lane : Lane) (s : State) : Host.Outcome State Fault Refusal :=
  live t s fun s =>
    if !s.flag P.LANE_STATUS_CDR_LOCK lane then s
    else if s.laneState lane = 2 then (s.putB P.LANE_STATUS_BLOCK_LOCK lane true).setLane lane 3
    else if s.laneState lane = 7 then s.putB P.LANE_STATUS_BLOCK_LOCK lane true else s

/-- LANE_LOCK_LOSS (R291, R295, R299 to R301): block lock is lost, with `invalid` invalid sync headers; `cdr` where the phase
loop has lost lock, which the clock parent's lane follows. -/
def execLaneLockLoss (t : Tm) (lane : Lane) (loss : LockLoss) (s : State) : Host.Outcome State Fault Refusal :=
  live t s fun s =>
    let s1 := if loss.cdr then (s.putB P.LANE_STATUS_CDR_LOCK lane false).parentLane else s
    (s1.bump P.LANE_ERR_SYNC_ERR lane loss.invalid).laneLost lane

/-- LANE_NO_TRANSITIONS (R291): no input transitions for 16 block times, each without a valid sync header. -/
def execLaneNoTransitions (t : Tm) (lane : Lane) (s : State) : Host.Outcome State Fault Refusal :=
  live t s fun s => (s.bump P.LANE_ERR_SYNC_ERR lane 16).laneLost lane

/-- The peer's root identity stands against this device's (R267). -/
def State.peerRoot (s : State) (p : Nat) (root : W64) : State :=
  let foreign := root != 0 && s.rootId != 0 && root != s.rootId
  if s.portState p = 6 then
    if foreign then s else s.put P.FAB_PORT_STATUS_STATE p 2
  else if foreign then (s.put P.FAB_PORT_STATUS_STATE p 6).raise 39
  else if root = 0 && s.rootId != 0 && !s.isRoot && s.upPort == p && s.portState p == 3 then (s.setRoot 0).raise 33
  else s

/-- The identity that HELLO parts give. -/
def LaneSt.value (x : LaneSt) (k : Nat) : W64 := BitVec.ofNat 64 (Tbl.get 0 x.parts k + Tbl.get 0 x.parts (k + 1) * 2 ^ 32)

/-- A port comes up at the widest set of good lanes (R258, R267, R293, R294). -/
def State.portComesUp (s : State) (p : Nat) (x : LaneSt) : State :=
  let set := laneSet (laneMask p fun l => s.laneGood l)
  let s1 := (s.laneActive p set).put P.LANE_PORT_RX_MASK p set
  let s2 := s1.putWord P.FAB_PORT_PEER_ID_ID p (x.value 0)
  let s3 := (s2.put P.FAB_PORT_STATUS_STATE p 2).put P.FAB_PORT_STATUS_WIDTH p (maskCount set)
  ((s3.linkUp p).peerRoot p (x.value 2)).linkShow

/-- A lane's exchange is complete: the port comes up, or the lane stands by (R293). -/
def State.laneExchanged (s : State) (l : Nat) : State :=
  if s.portUp (l / 4) then s.laneStandby l
  else
    let s1 := s.portComesUp (l / 4) (s.laneOf l)
    if s1.laneState l = 5 then s1 else s1.laneStandby l

/-- HELLO (R184, R258, R267, R292 to R294). -/
def execHello (t : Tm) (lane : Lane) (part : Fin 5) (locked : BitVec 4) (value : BitVec 32) (s : State) :
    Host.Outcome State Fault Refusal :=
  live t s fun s =>
    let p := lane.val / 4
    if s.laneState lane < 3 ∨ s.laneState lane = 7 then s else
    let s1 := (s.peerLocks p locked.toNat).modLane lane fun x => { x with
      parts := Tbl.set 0 x.parts part.val value.toNat, got := x.got ||| 2 ^ part.val }
    let x := s1.laneOf lane
    if s1.laneState lane = 4 && x.got == 31 && x.peer then s1.laneExchanged lane
    else if 5 ≤ s1.laneState lane && x.got == 31 && s1.portUp p then s1.peerRoot p (x.value 2)
    else s1

/-- ALIGN_BLOCK (R253, R293, R297, R298): the second ALIGN of a lane in DESKEW gives its skew and starts the exchange; a new mask
on an active port tells the receiver to destripe at the new width, and its frames carry UNCOMP until the hop is measured. -/
def execAlignBlock (t : Tm) (lane : Lane) (mask : BitVec 4) (index : BitVec 2) (s : State) : Host.Outcome State Fault Refusal :=
  live t s fun s =>
    let p := lane.val / 4
    if index.toNat ≠ lane.val % 4 then s
    else if s.laneState lane = 3 then
      if (s.laneOf lane).aligns = 0 then s.modLane lane fun x => { x with aligns := 1 }
      else
        let s1 := (s.modLane lane fun x => { x with aligns := 2, alignAt := some s.time.now }).skewShow p
        let s2 := (s1.setLane lane 4).helloSend p
        if (s2.laneOf lane).got = 31 && (s2.laneOf lane).peer then s2.laneExchanged lane else s2
    else if s.laneState lane = 5 && s.portUp p && (s.portLane p).stripeAt.isNone && mask != 0 then
      if s.get P.LANE_PORT_RX_MASK p = mask.toNat then s
      else (s.put P.LANE_PORT_RX_MASK p mask.toNat).modFp p fun x => { x with uncomp := true, hop := none }
    else s

/-- LANE_RETRAIN_TIMEOUT (R301): a lane that has not reached STANDBY within 100 ms returns to DETECT. -/
def execLaneRetrainTimeout (t : Tm) (lane : Lane) (s : State) : Host.Outcome State Fault Refusal :=
  live t s fun s =>
    match (s.laneOf lane).retrainAt with
    | some a =>
      if a + 100 * msSt ≤ s.time.now then ((s.laneDetect lane).bump P.LANE_ERR_RETRAINS lane).retrain lane else s
    | none => s

/-- A lane starts to train again from DETECT (R293, R301). -/
def State.laneRestart (s : State) (l : Nat) : State := (s.laneDetect l).retrain l

/-- Whether the host may start the retraining of a lane (R301). -/
def State.laneMayRetrain (s : State) (l : Nat) : Bool :=
  s.laneState l == 6 || (s.laneState l == 0 && s.flag P.LANE_CFG_ENABLE l)

/-- Enables of lanes and ports as they stand after a boundary (R293, R301). -/
def State.laneEnables (s : State) : State :=
  let s1 := s.each (upTo 4) fun s p =>
    if !s.flag P.FAB_PORT_CFG_ENABLE p && s.portUp p then s.portFail p else s
  let s2 := s1.each (upTo 16) fun s l =>
    if s.laneWanted l then (if s.laneState l = 0 then s.laneDetect l |>.setLane l 1 else s)
    else if s.laneState l = 0 then s
    else
      let was := s.laneState l
      let s3 := s.laneOff l
      if was = 5 && s3.portUp (l / 4) then s3.restripe (l / 4) else s3
  s2.each (upTo 4) fun s p =>
    if s.portUp p then s
    else s.put P.FAB_PORT_STATUS_STATE p (if (lanesOf p).any fun l => s.laneState l != 0 then 1 else 0)

/-! ### Re-striping (R295 to R297) -/

/-- The port is up, or a re-stripe runs on it. -/
def State.striping (s : State) (p : Nat) : Bool := decide (2 ≤ s.portState p)

/-- RESTRIPE (R295 to R297): the peer's set arrives; one that repeats the set in force is answered again by the end that did not
begin the re-stripe (log entry 110). -/
def execRestripe (t : Tm) (port : Port) (mask locked : BitVec 4) (s : State) : Host.Outcome State Fault Refusal :=
  live t s fun s =>
    let p := port.val
    if !s.striping p then s else
    let s1 := s.peerLocks p locked.toNat
    let set := laneSet (s1.goodMask p &&& locked.toNat)
    if set = 0 then s1.portFail p
    else
      let x := s1.portLane p
      if x.stripeAt.isNone && mask.toNat == set && s.get P.LANE_PORT_TX_MASK p == set && s.get P.LANE_PORT_RX_MASK p == set then
        (if x.lead then s1 else s1.linkSend p (.restripe mask (BitVec.ofNat 4 (s1.lockedMask p))))
      else
      let s2 := if x.stripeAt.isNone || x.sent != set then s1.stripeSend p set false else s1
      if mask.toNat = set then s2.stripeDone p set else s2

/-- RESTRIPE_RESEND (R295): no answer yet; the set is sent again every 128 ns. -/
def execRestripeResend (t : Tm) (port : Port) (s : State) : Host.Outcome State Fault Refusal :=
  live t s fun s =>
    let x := s.portLane port
    match x.stripeAt with
    | some a =>
      if x.sentAt + 128 * nsSt ≤ s.time.now && decide (s.time.now < a + 2 * usSt) then
        (s.modPortLane port fun y => { y with sentAt := s.time.now }).linkSend port
          (.restripe (BitVec.ofNat 4 x.sent) (BitVec.ofNat 4 (s.lockedMask port)))
      else s
    | none => s

/-- RESTRIPE_TIMEOUT (R277, R295): a re-stripe incomplete at 2 µs takes the port down. -/
def execRestripeTimeout (t : Tm) (port : Port) (s : State) : Host.Outcome State Fault Refusal :=
  live t s fun s =>
    match (s.portLane port).stripeAt with
    | some a => if a + 2 * usSt ≤ s.time.now then s.portFail port else s
    | none => s

/-! ### Rejoin (R298) -/

/-- LANE_READY (R292, R298): the peer's receivers have locked these lanes. -/
def execLaneReady (t : Tm) (port : Port) (locked : BitVec 4) (s : State) : Host.Outcome State Fault Refusal :=
  live t s fun s =>
    (s.peerLocks port locked.toNat).each (lanesOf port) fun s l =>
      let s1 := if locked.getLsbD (l % 4) && decide (1 ≤ s.laneState l) && decide (s.laneState l ≤ 6) then
          s.modLane l fun x => { x with ready := true }
        else s
      if s.laneState l = 6 && s.laneGood l then s1.modLane l fun x => { x with goodFrom := some (x.goodFrom.getD s.time.now) }
      else s1

/-- REJOIN_HOLD_EXPIRE (R298): a STANDBY lane has been good for HOLD_MS. -/
def execRejoinHoldExpire (t : Tm) (lane : Lane) (s : State) : Host.Outcome State Fault Refusal :=
  live t s fun s =>
    match (s.laneOf lane).goodFrom with
    | some a =>
      if s.laneState lane = 6 && s.laneGood lane && decide (a + s.get P.LANE_PORT_HOLD_MS (lane / 4) * msSt ≤ s.time.now) then
        s.modLane lane fun x => { x with held := true }
      else s
    | none => s

/-- The set a port would have with the lanes that may rejoin. -/
def State.rejoinSet (s : State) (p : Nat) : Nat :=
  laneSet (laneMask p fun l =>
    (s.laneState l == 5 || (s.laneState l == 6 && (s.laneOf l).held && (s.laneOf l).ready)) && s.laneGood l)

/-- A span boundary arms the rejoins whose hold is complete (R298). -/
def State.rejoinArm (s : State) : State :=
  s.each (upTo 4) fun s p =>
    if s.portUp p && (s.portLane p).stripeAt.isNone && decide (maskCount (s.get P.LANE_PORT_TX_MASK p) < maskCount (s.rejoinSet p)) then
      s.modPortLane p fun x => { x with widen := some s.time.now }
    else s

/-- LANE_REJOIN (R297, R298): the transmitter widens at the ALIGN slot after that boundary. -/
def execLaneRejoin (t : Tm) (port : Port) (s : State) : Host.Outcome State Fault Refusal :=
  live t s fun s =>
    let p := port.val
    if (s.portLane p).widen.isNone || !s.portUp p then s else
    let set := s.rejoinSet p
    let s1 := (s.modPortLane p fun x => { x with widen := none }).laneActive p set
    ((s1.each (lanesOf p) fun s l => s.modLane l fun x => { x with held := false }).portWidens p set).raise 49

/-! ### Loopbacks (R302) -/

/-- A lane under test leaves it and trains again. -/
def State.testEnd (s : State) (l : Nat) : State :=
  if s.laneState l != 7 then s else if s.laneWanted l then s.laneRestart l else s.laneOff l

/-- A lane enters TEST. -/
def State.testBegin (s : State) (l : Nat) : State :=
  ((s.retrained l).setLane l 7).modLane l fun x => { x with goodFrom := none, held := false, ready := false }

/-- The value of LANE_LOOP that a write asks for: status, or none while the peer's answer is awaited (R302). -/
def State.laneLoop (s : State) (l v : Nat) : State × Option Nat :=
  let mode := v % 4
  let s1 := s.put P.LANE_LOOP_FAR_ALLOW l (v / 4 % 2)
  let old := s.get P.LANE_LOOP_MODE l
  if mode ≠ 0 ∧ s.laneState l = 5 then (s, some stDenied)
  else if mode = old then (s1, some stOk)
  else
    let s2 := if old = 3 then s1.linkSend (l / 4) (.loopReq (BitVec.ofNat 4 (2 ^ (l % 4))) false) else s1
    if mode = 0 then (((s2.put P.LANE_LOOP_MODE l 0).testEnd l), some stOk)
    else if mode = 3 then
      ((s2.modLane l fun x => { x with far := some s.time.now }).linkSend (l / 4) (.loopReq (BitVec.ofNat 4 (2 ^ (l % 4))) true), none)
    else ((s2.put P.LANE_LOOP_MODE l mode).testBegin l, some stOk)

/-- LANE_LOOP_WRITE (R302): a loopback is selected. -/
def execLaneLoopWrite (t : Tm) (lane : Lane) (value : BitVec 3) (s : State) : Host.Outcome State Fault Refusal :=
  live t s fun s => (s.laneLoop lane value.toNat).1

/-- LOOP_REQ (R292, R302): the peer asks for far-end loopback, or ends it. -/
def execLoopReq (t : Tm) (port : Port) (mask : BitVec 4) (start : Bool) (s : State) : Host.Outcome State Fault Refusal :=
  live t s fun s =>
    let ls := (upTo 4).filter (fun i => mask.getLsbD i) |>.map (4 * port.val + ·)
    let ok := ls.all fun l => s.flag P.LANE_LOOP_FAR_ALLOW l && s.laneState l != 5
    let s1 := if !start then s.each ls fun s l => (s.modLane l fun x => { x with looped := false }).testEnd l
      else if ok then s.each ls fun s l => (s.testBegin l).modLane l fun x => { x with looped := true }
      else s
    s1.linkSend port (.loopAck mask (ok || !start))

/-- A command whose set of LANE_LOOP waits for the peer's answer on a lane. -/
def farWait (l : Nat) (x : Wait) : Bool := x.lanes.contains l

/-- The peer has accepted on a lane: a set that waits for no other lane ends OK (R302). -/
def State.farDone (s : State) (l : Nat) : State :=
  match s.mbox.wait.find? fun x => x.background && farWait l x with
  | some x =>
    let rest := x.lanes.filter (· != l)
    if rest = [] then s.backEnd (farWait l) stOk x.result []
    else { s with mbox := { s.mbox with wait := s.mbox.wait.map fun y => if y = x then { y with lanes := rest } else y } }
  | none => s

/-- LOOP_ACK (R292, R302): the peer accepts or refuses. -/
def execLoopAck (t : Tm) (port : Port) (mask : BitVec 4) (accepted : Bool) (s : State) : Host.Outcome State Fault Refusal :=
  live t s fun s =>
    let ls := ((upTo 4).filter (fun i => mask.getLsbD i) |>.map (4 * port.val + ·)).filter fun l => (s.laneOf l).far.isSome
    s.each ls fun s l =>
      let s1 := s.modLane l fun x => { x with far := none }
      if accepted then ((s1.put P.LANE_LOOP_MODE l 3).testBegin l).farDone l
      else s1.backFail (farWait l) stDenied 0

/-- FAR_LOOP_TIMEOUT (R302): no answer within 1 ms. -/
def execFarLoopTimeout (t : Tm) (lane : Lane) (s : State) : Host.Outcome State Fault Refusal :=
  live t s fun s =>
    match (s.laneOf lane).far with
    | some a =>
      if a + msSt ≤ s.time.now then (s.modLane lane fun x => { x with far := none }).backFail (farWait lane) stTimeout 0 else s
    | none => s

/-! ### PRBS (R303) -/

/-- The two taps of a polynomial (R303). -/
def prbsTaps (poly : Nat) : Nat × Nat := [(7, 6), (15, 14), (23, 18), (31, 28)].getD poly (7, 6)

/-- The next bit of a pattern after its past bits, newest first. -/
def prbsNext (poly : Nat) (past : List Bool) : Bool :=
  xor (past.getD ((prbsTaps poly).1 - 1) false) (past.getD ((prbsTaps poly).2 - 1) false)

/-- A pattern after `k` bits from a seed, newest first. -/
def prbsPast (poly : Nat) (seed : List Bool) : Nat → List Bool
  | 0 => seed
  | k + 1 => prbsNext poly (prbsPast poly seed k) :: prbsPast poly seed k

/-- Bit `k` that a generator sends (R303): the pattern's, inverted once in 10^INJ_RATE bits; the seed is the sender's. The emission
of a generator's start stands for these bits. -/
def prbsLine (poly rate : Nat) (seed : List Bool) (k : Nat) : Bool :=
  xor ((prbsPast poly seed (k + 1)).headD false) (rate != 0 && (k + 1) % 10 ^ rate == 0)

/-- A write of PRBS_CFG (R303): generator and checker take lane 0 of the port into TEST; a generator that is enabled sends its
pattern from then on. -/
def State.prbsWrite (s : State) (p v : Nat) : State × Nat :=
  let on := bitOf v 2 || bitOf v 3
  let l := 4 * p
  if on && s.laneState l == 5 then (s, stDenied)
  else
    let was := s.flag P.PRBS_CFG_GEN_EN p || s.flag P.PRBS_CFG_CHK_EN p
    let s1 := s.putWord P.PRBS_CFG_POLY p (BitVec.ofNat 64 (v % 256))
    let s2 := if on && !was then s1.testBegin l else if was && !on then s1.testEnd l else s1
    let s3 := if bitOf v 3 then s2 else s2.modPortLane p fun x => { x with prbs := Prbs.reset }
    let s4 := if !bitOf v 3 && s3.flag P.PRBS_STATUS_CHK_LOCK p then
      ((s3.putB P.PRBS_STATUS_CHK_LOCK p false).bump P.PRBS_STATUS_LOCK_LOSSES p).raise 50 else s3
    (if bitOf v 2 then s4.emit (.prbs p (v % 4) (v / 16 % 16)) else s4, stOk)

/-- PRBS_INJECT (R303): one inverted bit. -/
def execPrbsInject (t : Tm) (port : Port) (s : State) : Host.Outcome State Fault Refusal :=
  live t s fun s => if s.flag P.PRBS_CFG_GEN_EN port then s.emit (.prbsError port) else s

/-- The checker's counters after a change of lock, which raises source 50. -/
def State.prbsLock (s : State) (p : Nat) (on : Bool) : State :=
  let s1 := s.putB P.PRBS_STATUS_CHK_LOCK p on
  (if on then (s1.put P.PRBS_BITS_BITS p 0).put P.PRBS_ERRS_ERRORS p 0 else s1.bump P.PRBS_STATUS_LOCK_LOSSES p).raise 50

/-- The checker takes a bit (R303): it seeds itself from received bits and locks after 64 correct ones in a row; then it counts
against its own sequence, and loses lock when 512 of the last 1,024 bits erred (log entry 109). -/
def State.prbsBit (s : State) (p : Nat) (b : Bool) : State :=
  let c := (s.portLane p).prbs
  let poly := s.get P.PRBS_CFG_POLY p
  let n := (prbsTaps poly).1
  let next := prbsNext poly c.past
  let set (c : Prbs) (s : State) : State := s.modPortLane p fun x => { x with prbs := c }
  if s.flag P.PRBS_STATUS_CHK_LOCK p then
    let wrong := (xor b next :: c.wrong).take 1024
    let s1 := (s.bump P.PRBS_BITS_BITS p).bump P.PRBS_ERRS_ERRORS p (b2n (xor b next))
    if 512 ≤ wrong.count true then set Prbs.reset (s1.prbsLock p false)
    else set { c with past := (next :: c.past).take n, wrong := wrong } s1
  else if c.past.length < n then set { c with past := b :: c.past } s
  else
    let good := if b = next then c.good + 1 else 0
    let c1 := { c with past := (b :: c.past).take n, good := good }
    if 64 ≤ good then set { c1 with wrong := [] } (s.prbsLock p true) else set c1 s

/-- The checker takes bits one after the other. -/
def State.prbsBits (s : State) (p : Nat) (bits : List Bool) : State := bits.foldl (fun s b => s.prbsBit p b) s

/-- The checker takes bits that each continue the pattern of those before. -/
def State.prbsRun (s : State) (p : Nat) : Nat → State
  | 0 => s
  | k + 1 => (s.prbsBit p (prbsNext (s.get P.PRBS_CFG_POLY p) (s.portLane p).prbs.past)).prbsRun p k

/-- PRBS_CHECKER_LOCK (R303): bits received on lane 0, in order, on which the checker may lock or lose lock: those of `received`,
then `run` bits that continue their pattern, then those of `more`. -/
def execPrbsCheckerLock (t : Tm) (port : Port) (received : List Bool) (run : Nat) (more : List Bool) (s : State) :
    Host.Outcome State Fault Refusal :=
  live t s fun s =>
    if s.flag P.PRBS_CFG_CHK_EN port then ((s.prbsBits port received).prbsRun port run).prbsBits port more else s

end Sys2Proof.Machine
end

