-- ==== Sys2Proof/Machine/Loop.lean ====
section
/-! DEFINITION. The bias loops (chapter 06): the measurement, the control law, the outputs and the telemetry. Voltages are held
in nV, temperatures in µ°C, outputs in 1/256 code. -/

namespace Sys2Proof.Machine

/-- The loop of a tile runs: enabled, and not frozen in abutment mode (R144, R145). -/
def State.loopRuns (s : State) (t : Nat) : Bool := s.flag P.LOOP_CFG_ENABLE t && !(s.lp t).frozen

/-- Clamp a number. -/
def clampInt (x lo hi : Int) : Int := max lo (min x hi)

/-! ### Periods and modes (R134, R137, R144 to R146) -/

/-- P in force, in stitches. -/
def State.loopLen (s : State) : Nat := s.loop.period * usSt

/-- The outputs of a tile as whole codes and duty units. -/
def LoopTile.code (l : LoopTile) : Int := roundDiv l.u 256

/-- The mode in force takes the swapped mode (R144 to R146). -/
def State.loopMode (s : State) (t : Nat) : State :=
  let want := s.flag P.LOOP_MODE_MODE t
  let now := s.flag P.LOOP_STATUS_MODE_NOW t
  if s.tripped t || (s.lp t).frozen then s
  else if want && !now && s.flag P.LOOP_CFG_ENABLE t then
    (s.putB P.LOOP_STATUS_MODE_NOW t true).modLp t fun l => { l with m := [], k := 0, first := true }
  else if !want && now then
    ((s.putB P.LOOP_STATUS_MODE_NOW t false).put P.MAN_U_U t (unsgn 16 (s.lp t).code)).put P.HVSET_DUTY_DUTY t (s.lp t).dutyOut
  else s

/-- A tile at a period start: its mode, and the urgent HVMON conversion (R137, R144). -/
def State.loopTileStart (s : State) (t : Nat) : State :=
  let s1 := s.loopMode t
  if s1.loopRuns t then
    let a := s1.get P.LOOP_HV_AVG_AVG 0 + 1
    let s2 := (s1.modHk t fun h => { h with hv := none }).modLp t fun l => { l with nextU := none, nextM := none, asked := true }
    (s2.urgent t 18 a a s.loop.start).1
  else s1.modLp t fun l => { l with nextU := none, nextM := none, asked := false }

/-- LOOP_PERIOD_START (R134, R137, R144 to R146): at every multiple of P after the second; a new P takes effect at the
second. -/
def execLoopPeriodStart (t : Tm) (s : State) : Host.Outcome State Fault Refusal :=
  live t s fun s =>
    let now := s.time.now
    let p := if now % secSt = 0 then s.get P.LOOP_PERIOD_US 0 else s.loop.period
    if now % secSt % (p * usSt) = 0 ∧ s.loop.start ≠ some now then
      let s1 := { s with loop := { s.loop with start := some now, period := p, applied := false } }
      s1.each (upTo 16) State.loopTileStart
    else s

/-! ### Measurement and set-point (R137 to R139) -/

/-- v of R137 in nV. -/
def State.loopV (s : State) (t : Nat) (hv : Nat) : Int := (hv * 27470 * s.get P.HV_SCALE_SCALE t / 65536 : Nat)

/-- The x of R138 in thousandths of its unit (µV, or mHz), and whether the source is faulted. -/
def State.loopX (s : State) (t : Nat) : Option Int × Bool :=
  if s.flag P.LOOP_CFG_SP_SRC t then
    let gi := s.get P.LOOP_CFG_GAUGE t
    let g := s.gauge gi
    let stale := match g.resultAt with | some r => decide (r + 3 * gateLen g.gate ≤ s.time.now) | none => true
    let x : Int := roundDiv ((10 ^ 15 + s.int P.GAUGE_FREQ_FREQ gi) * 3072 * 10 ^ 12) (10 ^ 15 * max 1 g.period)
    (some x, stale || g.few)
  else
    match (s.hk t).temp with
    | some c =>
      let x : Int := (c * 27470 / 256000 : Nat)
      (some x, decide (x < 50000) || decide (1750000 < x))
    | none => (none, false)

/-- T of R138 in µ°C, from x in thousandths of its unit. -/
def State.loopT (s : State) (t : Nat) (x : Int) : Int :=
  s.int P.TEMP_MAP_T_OFF t * 10000 + s.int P.TEMP_MAP_T_GAIN t * (x - s.get P.TEMP_X0_X0 t * 1000)

/-- The temperature is brought up to date; while the source is faulted the last valid T stays, and the rising edge raises
source 20 (R138). -/
def State.loopTemp (s : State) (t : Nat) : State :=
  match s.loopX t with
  | (some x, false) => (s.putB P.LOOP_STATUS_SP_FAULT t false).modLp t fun l => { l with temp := s.loopT t x }
  | (_, true) => (s.putB P.LOOP_STATUS_SP_FAULT t true).raiseIf (!s.flag P.LOOP_STATUS_SP_FAULT t) 20
  | (none, false) => s

/-- The breakdown voltage b of R138 in nV. -/
def State.loopB (s : State) (t : Nat) : Int :=
  s.get P.VBD_REF t * 100000 + roundDiv (s.int P.VBD_TC_TC t * ((s.lp t).temp - s.int P.T_REF_T_REF t * 10000)) 100

/-- Channels of a tile that are enabled and not BROKEN. -/
def State.loopChans (s : State) (t : Nat) : List Nat :=
  (channelsOf t).filter fun c => s.flag P.FAST_CFG_ENABLE c && !s.afe.out.contains c

/-- The median of sorted numbers; of an even count the mean of the middle two (log entry 27). -/
def medianOf (l : List Nat) : Nat :=
  let n := l.length
  if n % 2 = 1 then l.getD (n / 2) 0 else (l.getD (n / 2 - 1) 0 + l.getD (n / 2) 0) / 2

/-- The outlier channels of R139: their latest clean current departs from the median of the tile. -/
def State.loopOutliers (s : State) (t : Nat) : List Nat :=
  let curs := (s.loopChans t).filterMap fun c => (s.feCh c).clean.map fun x => (c, x)
  let med := medianOf (sortBy (fun (a b : Nat) => decide (a < b)) (curs.map (·.2)))
  let lim := med * s.get P.LOOP_OUTLIER_FRAC t / 256 + 20000
  (curs.filter fun x => decide (lim < x.2 - med) || decide (lim < med - x.2)).map (·.1)

/-- The mean of a list of currents; none of an empty one. -/
def meanNat (l : List Nat) : Option Nat := if l.isEmpty then none else some (roundDiv l.sum l.length).toNat

/-- The mean applied anode voltage a of R139 in nV; of no participating channel it is not stated (log entry 27). -/
def State.loopA (s : State) (t : Nat) (chans : List Nat) : Int :=
  if chans.isEmpty then Config.unstated 2 [t] else
  roundDiv ((chans.map fun c => s.trimNow c).sum * 9765625) (10 * chans.length)

/-- A clean current of the tile has arrived within CUR_HOLD (R139). -/
def State.curFresh (s : State) (t : Nat) : Bool :=
  match (s.lp t).curAt with
  | some a => decide (s.time.now < a + s.get P.CUR_HOLD_MS 0 * msSt)
  | none => false

/-- The outliers and the tile's mean current are brought up to date; once no clean current has arrived within CUR_HOLD the last
mean stays (R139). -/
def State.loopCur (s : State) (t : Nat) : State :=
  let out := s.loopOutliers t
  let chans := (s.loopChans t).filter fun c => !out.contains c
  let mask := out.foldl (fun a c => a + 2 ^ (c % 16)) 0
  let cur := meanNat (chans.filterMap fun c => (s.feCh c).clean)
  let s1 := s.put P.LOOP_OUTLIER_MASK t mask
  if s.curFresh t then (s1.putB P.LOOP_STATUS_CUR_STALE t false).modLp t fun l => { l with cur := cur.getD l.cur } else s1

/-- The overvoltage o of R139 in nV. -/
def State.loopO (s : State) (t : Nat) (v : Int) : Int :=
  let chans := (s.loopChans t).filter fun c => !(s.loopOutliers t).contains c
  let d : Int := if s.flag P.LOOP_CFG_CUR_EN t then (s.get P.R_SER_OHM t * (s.lp t).cur / 1000 : Nat) else 0
  v - s.loopA t chans - s.loopB t - d

/-! ### The control law (R140 to R144) -/

/-- s of R140 in 1/256 code. -/
def State.loopS (s : State) (t : Nat) : Int := roundDiv ((s.get P.LOOP_SLEW_U_SLEW t * s.loop.period * 2 : Nat)) 125
/-- D_SLEW × P in 1/256 duty unit. -/
def State.loopD (s : State) (t : Nat) : Int := roundDiv ((s.get P.LOOP_SLEW_D_SLEW t * s.loop.period * 32 : Nat)) 125

/-- What a computation gives: u, i, the memory update, the duty, and the flags SLEW, RANGE, HV_SLEW, deadband. -/
structure LoopOut where
  u : Int
  integ : Int
  m : Option (Nat × Int)
  duty : Nat
  flags : Nat
  r : Int
  deriving DecidableEq, Repr

/-- The control law of R140 and the offload of R143 in AUTO; `e0` is the error before the deadband in nV. -/
def State.loopAuto (s : State) (t : Nat) (e0 : Int) : LoopOut :=
  let l := s.lp t
  let band := decide (e0.natAbs < s.get P.LOOP_DEADBAND_BAND t * 62500)
  let e := if band then 0 else e0
  let kp := roundDiv ((s.get P.LOOP_GAIN_KP t : Int) * e) 1000000
  let n := max 1 (s.get P.LOOP_REP_N t)
  let rep := s.flag P.LOOP_CFG_REP_EN t
  let r := if rep then Tbl.get 0 l.m ((l.k + s.get P.LOOP_CFG_LEAD t) % n) else 0
  let i := if l.first then l.u - kp - r else l.integ + roundDiv ((s.get P.LOOP_GAIN_KI t : Int) * e) 1000000
  let w := kp + i + r
  let sl := s.loopS t
  let u1 := clampInt w (l.u - sl) (l.u + sl)
  let u := clampInt u1 (-4096 * 256) (4095 * 256)
  let i1 := if u = w then i else u - kp - r
  let m0 := Tbl.get 0 l.m (l.k % n)
  let m1 := clampInt (roundDiv (s.get P.LOOP_REP_FORGET t * m0) 256 + roundDiv (s.get P.LOOP_REP_LEARN t * e) 1000000)
    (-4096 * 256) (4095 * 256)
  let step := -(roundDiv (s.get P.LOOP_OFFLOAD_GAIN t * (u - s.int P.LOOP_OFFLOAD_CENTRE t * 256)) 256)
  let d := s.loopD t
  let duty := clampInt (l.duty + clampInt step (-d) d) 0 (65535 * 256)
  let lim := decide (duty ≠ l.duty + step)
  ⟨u, i1, if rep then some (l.k % n, m1) else none, duty.toNat,
    b2n (decide (u1 ≠ w)) + 2 * b2n (decide (u ≠ u1)) + 4 * b2n lim + 8 * b2n band, r⟩

/-- In MANUAL the outputs move towards MAN_U and HVSET_DUTY (R144). -/
def State.loopManual (s : State) (t : Nat) : LoopOut :=
  let l := s.lp t
  let sl := s.loopS t
  let d := s.loopD t
  let duty := clampInt (s.get P.HVSET_DUTY_DUTY t * 256) (l.duty - d) (l.duty + d)
  ⟨clampInt (s.int P.MAN_U_U t * 256) (l.u - sl) (l.u + sl), l.integ, none, duty.toNat, 0, 0⟩

/-- The cycles of one computation (R135). -/
def loopCc : Nat := 320 * ccSt

/-- When the engine can begin a tile's computation of this period: its measurement is complete, and the engine is free (R135). -/
def State.loopReady (s : State) (t : Nat) : Option Tm :=
  match (s.hk t).hv with
  | some hv => if s.loopRuns t && (s.lp t).asked && (s.lp t).nextU.isNone then some (max hv.2 s.loop.freeAt) else none
  | none => none

/-- The tile's computation is the engine's next: of those that can begin earliest, the lowest tile's (R135). -/
def State.loopTurn (s : State) (t : Nat) (begin : Tm) : Bool :=
  (upTo 16).all fun o => match s.loopReady o with
    | some b => decide (begin < b) || (begin == b && decide (t ≤ o))
    | none => true

/-- LOOP_COMPUTE (R135, R138 to R142): once the tile's measurement is complete and its 320 cc of computation in tile order have
passed, before P/2. -/
def execLoopCompute (t : Tm) (tile : Tile) (s : State) : Host.Outcome State Fault Refusal :=
  live t s fun s =>
    match s.loop.start, (s.hk tile).hv, s.loopReady tile with
    | some t0, some hv, some begin =>
      if s.loop.applied || !s.loopTurn tile begin || decide (s.time.now < begin + loopCc)
        || decide (t0 + s.loopLen / 2 < s.time.now) then s else
      let s1 := (s.loopTemp tile).loopCur tile
      let v := s1.loopV tile hv.1
      let e0 := s1.loopO tile v - s1.get P.OV_TARGET_TARGET tile * 100000
      let o := if s1.flag P.LOOP_STATUS_MODE_NOW tile then s1.loopAuto tile e0 else s1.loopManual tile
      let s2 := s1.modLp tile fun l => { l with
        nextU := some o.u, nextI := o.integ, nextM := o.m, nextDuty := o.duty, nextFlags := o.flags, e := e0, r := o.r, v := v }
      { s2 with loop := { s2.loop with freeAt := begin + loopCc } }
    | _, _, _ => s

/-! ### Outputs and telemetry (R135, R136, R147 to R149) -/

/-- The state of a loop in the telemetry. -/
def State.loopState (s : State) (t : Nat) : Nat :=
  if s.tripped t then 2 else if s.flag P.LOOP_STATUS_MODE_NOW t then 1 else 0

/-- Flags of the telemetry record: header bits [7:4], then the status bits of byte 25. -/
def State.loopFlags (s : State) (t : Nat) (settle : Bool) : Nat :=
  let st := (s.lp t).status
  b2n (s.flag P.LOOP_STATUS_SLEW_LIMITED t) + 2 * b2n (s.flag P.LOOP_STATUS_LOOP_OVERRUN t) + 4 * b2n settle + 8 * b2n (s.flag P.LOOP_STATUS_RANGE_LIMITED t)
    + 16 * b2n (bitOf st 0) + 32 * b2n (s.flag P.LOOP_STATUS_CUR_STALE t) + 64 * b2n (s.flag P.LOOP_STATUS_SP_FAULT t)
    + 128 * b2n (bitOf st 1)

/-- The bias loop telemetry record (R149). -/
def State.loopRec (s : State) (t : Nat) (t0 : Tm) (flags : Nat) : Rec :=
  let l := s.lp t
  s.mkRec 0x09 (flags % 16 * 16) (s.stampAt t0)
    ([BitVec.ofNat 8 (t + 16 * s.loopState t), BitVec.ofNat 8 (flags / 16)] ++ le 2 (s.get P.LOOP_OUTLIER_MASK t)
      ++ le 2 (s.get P.LOOP_OUT_U t) ++ le 2 (s.get P.LOOP_OUT_DUTY t) ++ leInt 4 (roundDiv (l.e * 16) 1000000)
      ++ leInt 4 l.r ++ leInt 4 (roundDiv l.v 100000) ++ leInt 2 (roundDiv l.temp 10000) ++ [0, 0] ++ le 4 l.cur
      ++ le 4 (s.get P.LOOP_STATUS_OVERRUNS t))

/-- Telemetry of one tile for the period: every DIV periods, and in any period in which a flag changes (R149). -/
def State.loopTelem (s : State) (t : Nat) (t0 : Tm) (settle : Bool) : State :=
  let flags := s.loopFlags t settle
  let div := s.get P.LOOP_TELEM_DIV t
  let n := (s.lp t).since + 1
  let s1 := s.modLp t fun l => { l with flags := flags, since := if div ≤ n then 0 else n }
  if (0 < div ∧ div ≤ n) ∨ flags ≠ (s.lp t).flags then s1.monEmit (s.loopRec t t0 flags) else s1

/-- A tile's applied outputs as the parameters and HVSET show them. -/
def State.loopShow (s : State) (before : Nat) (t : Tile) : State :=
  ((s.put P.LOOP_OUT_U t (unsgn 16 (s.lp t).code)).put P.LOOP_OUT_DUTY t (s.lp t).dutyOut).hvDrive before t

/-- A tile's computed output is applied (R43, R135, R142, R143). -/
def State.loopApply (s : State) (t : Tile) (u : Int) : State :=
  let l := s.lp t
  let before := s.hvOut t
  let auto := s.flag P.LOOP_STATUS_MODE_NOW t
  let m := match l.nextM with | some x => Tbl.set 0 l.m x.1 x.2 | none => l.m
  let s1 := s.modLp t fun l => { l with
    u := u, integ := l.nextI, m := m, duty := l.nextDuty, status := bitsOf l.nextFlags 3 2, nextU := none, nextM := none,
    k := if auto then l.k + 1 else l.k, first := if auto then false else l.first }
  let s2 := (s1.putB P.LOOP_STATUS_SLEW_LIMITED t (bitOf l.nextFlags 0)).putB P.LOOP_STATUS_RANGE_LIMITED t (bitOf l.nextFlags 1)
  ((s2.modFe t fun f => { f with common := roundDiv u 256 }).applyTrims t).loopShow before t

/-- A tile at P/2 (R135, R136, R149): its output is applied, or the previous one stays where its measurement or computation came
late. -/
def State.loopTileEnd (s : State) (t0 : Tm) (t : Tile) : State :=
  if !s.loopRuns t then s.loopClear t else
  if !(s.lp t).asked then s else
  let settle := (s.fe t).settleOpen
  if s.tripped t then (s.loopClear t).loopTelem t t0 settle
  else match (s.lp t).nextU with
    | some u => (s.loopApply t u).loopTelem t t0 settle
    | none =>
      let s1 := ((s.putB P.LOOP_STATUS_LOOP_OVERRUN t true).bump P.LOOP_STATUS_OVERRUNS t).raise 20
      (s1.modLp t fun l => { l with k := if s.flag P.LOOP_STATUS_MODE_NOW t then l.k + 1 else l.k }).loopTelem t t0 settle

/-- Something for each tile, in order. -/
def State.eachTile (s : State) (f : State → Tile → State) : State :=
  s.each (upTo 16) fun s t => if h : t < 16 then f s ⟨t, h⟩ else s

/-- LOOP_OUTPUT_APPLY (R135, R136, R143, R148, R149): at P/2 the outputs of every tile change together. -/
def execLoopOutputApply (t : Tm) (s : State) : Host.Outcome State Fault Refusal :=
  live t s fun s =>
    match s.loop.start with
    | some t0 =>
      if s.loop.applied || decide (s.time.now < t0 + s.loopLen / 2) then s else
      ({ s with loop := { s.loop with applied := true } }).eachTile fun s t => s.loopTileEnd t0 t
    | none => s

/-- CUR_HOLD_EXPIRE (R139): no clean current for CUR_HOLD ms. -/
def execCurHoldExpire (t : Tm) (tile : Tile) (s : State) : Host.Outcome State Fault Refusal :=
  live t s fun s =>
    let due := match (s.lp tile).curAt with
      | some a => decide (a + s.get P.CUR_HOLD_MS 0 * msSt ≤ s.time.now)
      | none => decide (s.get P.CUR_HOLD_MS 0 * msSt ≤ s.time.up)
    if due && s.loopRuns tile && !s.flag P.LOOP_STATUS_CUR_STALE tile then
      (s.putB P.LOOP_STATUS_CUR_STALE tile true).raise 20
    else s

/-! ### Writes and abutment mode (R144, R145) -/

/-- MAN_U written while the engine does not run for the tile: applied to R43 in one step (R144). -/
def State.manWrite (s : State) (t : Tile) : State :=
  if s.loopRuns t || s.tripped t then s else
  let u := s.int P.MAN_U_U t
  let s1 := s.modLp t fun l => { l with u := u * 256 }
  ((s1.modFe t fun f => { f with common := u }).applyTrims t).loopShow (s.hvOut t) t

/-- HVSET_DUTY written while the engine does not run for the tile: applied to HVSET in one step (R144). -/
def State.dutyWrite (s : State) (t : Tile) : State :=
  if s.loopRuns t || s.tripped t then s else
  (s.modLp t fun l => { l with duty := s.get P.HVSET_DUTY_DUTY t * 256 }).loopShow (s.hvOut t) t

/-- Abutment mode freezes every loop (R145). -/
def State.loopFreeze (s : State) : State :=
  s.each (upTo 16) fun s t => (s.loopClear t).modLp t fun l => { l with frozen := true, asked := false }

/-- The firmware holds the lease again: every loop is MANUAL with the held outputs (R145). -/
def State.loopThaw (s : State) : State :=
  s.each (upTo 16) fun s t =>
    if (s.lp t).frozen then
      let s1 := (s.modLp t fun l => { l with frozen := false }).putB P.LOOP_STATUS_MODE_NOW t false
      if s.tripped t then s1 else
      ((s1.put P.LOOP_MODE_MODE t 0).put P.MAN_U_U t (unsgn 16 (s.lp t).code)).put P.HVSET_DUTY_DUTY t (s.lp t).dutyOut
    else s

end Sys2Proof.Machine
end

