-- ==== Sys2Proof/Machine/ParamOps.lean ====
section
/-! DEFINITION. Firmware parameters as a set sees them (R5 to R8, R324 to R326, R396): what an identifier names, its shadow
value, pending values, the rules that settings keep together, and the load of the configuration store (R403, R484). -/

namespace Sys2Proof.Machine

/-! ### Identifiers (R7, R8) -/

/-- What an identifier names: a parameter, an index of it and a word of it. -/
structure Named where
  par : Par
  inst : Nat
  word : Nat
  deriving DecidableEq, Repr

/-- The index number that stands for every index (R8). -/
def allInst : Nat := 0xFFF

/-- What an identifier names; none where it is unknown (R7, R8). -/
def named (id : Nat) : Option Named :=
  match P.table.find? fun p => p.pid / 2 ^ 24 == id / 2 ^ 24 && decide (p.pid % 4096 ≤ id % 4096)
      && decide (id % 4096 < p.pid % 4096 + p.span) with
  | some p =>
    let i := id / 4096 % 4096
    if i < p.insts ∨ i = allInst then some ⟨p, i, id % 4096 - p.pid % 4096⟩ else none
  | none => none

/-- The identifier of an index. -/
def Named.id (n : Named) (i : Nat) : Nat := n.par.pid + n.word + i * 4096

/-- The indices a set reaches (R8). -/
def Named.insts (n : Named) : List Nat := if n.inst = allInst then upTo n.par.insts else [n.inst]

/-- The bits of a field within its word. -/
def Fld.mask (f : Fld) : W64 := BitVec.ofNat 64 ((2 ^ f.width - 1) * 2 ^ f.lo)

/-- The bits of a parameter's fields that satisfy a condition. -/
def Par.mask (p : Par) (f : Fld → Bool) : W64 := p.fields.foldl (fun m x => if f x then m ||| x.mask else m) 0

/-- A field of an access code. -/
def Fld.has (a : Access) (f : Fld) : Bool := f.acc == a

/-- A field that keeps what is written: RW, RWS, RWM (R6). -/
def Fld.keeps (f : Fld) : Bool := f.acc == .rw || f.acc == .rws || f.acc == .rwm

/-- A field that a write can reach. -/
def Fld.writable (f : Fld) : Bool := f.acc != .ro

/-- A word with the bits of a mask taken from another. -/
def mixBits (old new mask : W64) : W64 := (old &&& ~~~ mask) ||| (new &&& mask)

/-- The word of a parameter at reset. -/
def Par.resetAt (p : Par) (id : Nat) : W64 := resetWord id (match p.fields with | f :: _ => f.word | [] => 0)

/-- A parameter's word in a register table. -/
def Par.inTable (p : Par) (r : Tbl W64) (id : Nat) : W64 := Tbl.get (p.resetAt id) r id

/-- A register table with a parameter's word set. -/
def Par.setIn (p : Par) (r : Tbl W64) (id : Nat) (v : W64) : Tbl W64 := Tbl.set (p.resetAt id) r id v

/-- A parameter's word as a get shows it: the shadow value of RWS fields, the others in force (R6, R395). -/
def State.shadow (s : State) (p : Par) (id : Nat) : W64 :=
  let now := p.inTable s.regs id
  match s.pendWord id with | some v => mixBits now v (p.mask (Fld.has .rws)) | none => now

/-! ### Pending values (R324, R325) -/

/-- A pending value joins a register table. -/
def overlay (r : Tbl W64) (x : Pend) : Tbl W64 :=
  match named x.id with
  | some n => n.par.setIn r x.id (mixBits (n.par.inTable r x.id) x.val (n.par.mask (Fld.has .rws)))
  | none => r

/-- The set a class belongs to at this moment: 0 for the unarmed set, else its own number (R325). -/
def State.setOf (s : State) (cls : Nat) : Nat := if s.armed cls then cls else 0

/-- The set a pending value stands in (R325). -/
def pendSet (x : Pend) : Nat := if x.due.isNone then x.cls else 0

/-- A write of a class would leave the parameter pending in two sets (R325). -/
def State.twoSets (s : State) (id cls : Nat) : Bool :=
  s.time.pend.any fun x => x.id == id && pendSet x != s.setOf cls

/-- A value becomes pending in a class and replaces an earlier one (R324, R325). -/
def State.pendAt (s : State) (id : Nat) (v : W64) (cls : Nat) (due : Option Tm) : State :=
  let rest := s.time.pend.filter fun x => x.id != id
  { s with time := { s.time with pend := rest ++ [(⟨id, v, cls, due⟩ : Pend)] } }

/-- The boundary a value of a class joins now: none in an armed class (R324, R325). -/
def State.dueFor (s : State) (cls : Nat) : Option Tm := if s.armed cls then none else some s.dueNow

/-! ### Combinations (R326) -/

/-- The armed classes that hold something. -/
def State.heldClasses (s : State) : List Nat :=
  (upTo 8).filter fun c => s.time.pend.any fun x => x.due.isNone && x.cls == c

/-- Every subset of the held classes added to a register table. -/
def State.withHeld (s : State) (r : Tbl W64) : List Nat → List (Tbl W64)
  | [] => [r]
  | c :: cs =>
    let held := s.time.pend.filter fun x => x.due.isNone && x.cls == c
    s.withHeld r cs ++ s.withHeld (held.foldl overlay r) cs

/-- Every combination that can come into force with some writes (R326): the values in force, the pending unarmed set, and any
subset of the armed classes' pending sets; the writes join the set `own`, 0 the unarmed one. -/
def State.combos (s : State) (own : Nat) (writes : List Pend) : List (Tbl W64) :=
  let base := (s.time.staged ++ s.time.pend.filter (·.due.isSome)).foldl overlay s.regs
  if own = 0 then s.withHeld (writes.foldl overlay base) s.heldClasses
  else
    let held := s.time.pend.filter fun x => x.due.isNone && x.cls == own
    let rest := s.withHeld base (s.heldClasses.filter (· != own))
    rest ++ rest.map fun r => (held ++ writes).foldl overlay r

/-! ### The rules that settings keep (R396) -/

/-- R81: inputs 0 to 23 and 31, and AVG_LOG2 at most 7 on input 22. -/
def hkSeqOk (v : Tbl W64) (t e : Nat) : Bool :=
  let input := Regs.get v P.HK_SEQ_INPUT t e
  (decide (input < 24) || input == 31) && (input != 22 || decide (Regs.get v P.HK_SEQ_AVG t e ≤ 6))

/-- R79, R134: both periods divide a second, and a pass holds at most sixteen loop periods. -/
def periodsOk (v : Tbl W64) : Bool :=
  let p := Regs.get v P.LOOP_PERIOD_US 0
  1000000 % p == 0 && (upTo 16).all fun t =>
    let h := Regs.get v P.HK_PASS_PERIOD_US t
    1000000 % h == 0 && decide (h ≤ 16 * p)

/-- R101, R102: the inputs of the gauge, and 40 ns ≤ P ≤ G / 3. -/
def gaugeOk (v : Tbl W64) (g : Nat) : Bool :=
  let input := Regs.get v P.GAUGE_SEL_INPUT g
  let p := Regs.get v P.GAUGE_PRESCALE_PRESCALE g
    * (Regs.get v P.GAUGE_PERIOD_NS_PERIOD_NS g * nsSt + Regs.get v P.GAUGE_PERIOD_ST_PERIOD_ST g)
  let gate := [1, 2, 5, 10, 20, 50, 100, 200, 500, 1000, 2000, 5000, 10000].getD (Regs.get v P.GAUGE_GATE_GATE g) 10000 * msSt
  (decide (input ≤ 6) || input == 0x10 || input == 0x20)
    && (input != 0x20 || decide (Regs.get v P.GAUGE_SEL_UNIT g < 16)) && decide (40 * nsSt ≤ p) && decide (3 * p ≤ gate)

/-- R107: a width condition's bounds in order; a timeout after the leading edge is at most 384 cc. -/
def condOk (v : Tbl W64) (c : Nat) : Bool :=
  decide (Regs.get v P.COND_WIDTH_MIN c ≤ Regs.get v P.COND_WIDTH_MAX c)
    && (Regs.get v P.COND_CFG_KIND c != 3
        || (decide (Regs.get v P.COND_TIMEOUT_T c ≤ 384) && Regs.get v P.COND_TIMEOUT_UNIT c == 0))

/-- Bits set in a word. -/
def countBits (n : Nat) : Nat := ((upTo 32).filter fun i => n.testBit i).length

/-- R119, R121, R128: the window of a class, and for an enabled one the horizon and its largest event. -/
def classOk (v : Tbl W64) (k : Nat) : Bool :=
  let pre := Regs.get v P.CLASS_CFG_PRE k
  let post := Regs.get v P.CLASS_CFG_POST k
  let len := pre + post
  let h := Regs.get v P.HORIZON_NS 0 * nsSt
  let n := ((upTo 8).map fun w => countBits (Regs.get v P.CLASS_MASK_MASK k w)).sum
  let size := 40 + n * (24 + 8 * ceilDiv len 4 + 8 * Regs.get v P.CLASS_HITS_HITS_MAX k)
  decide (1 ≤ len) && decide (len ≤ 1024)
    && (Regs.get v P.CLASS_CFG_ENABLE k == 0
        || (decide ((post + 14) * scSt ≤ h) && decide (h + (pre + len) * scSt ≤ 16470016) && decide (size ≤ 1048576)))

/-- R140: the gains for which a loop is stable. -/
def gainOk (v : Tbl W64) (t : Nat) : Bool :=
  let ki := Regs.get v P.LOOP_GAIN_KI t
  decide (0 < ki) && decide (ki + 2 * Regs.get v P.LOOP_GAIN_KP t ≤ 524)

/-- R145: AUTO needs the loop enabled. -/
def modeOk (v : Tbl W64) (t : Nat) : Bool := Regs.get v P.LOOP_MODE_MODE t == 0 || Regs.get v P.LOOP_CFG_ENABLE t == 1

/-- MAN_U lies in −4,096 to 4,095. -/
def manOk (v : Tbl W64) (t : Nat) : Bool :=
  let u := sext 16 (Regs.get v P.MAN_U_U t)
  decide (-4096 ≤ u) && decide (u ≤ 4095)

/-- R159: the samples of a snippet. -/
def snipSamples (v : Tbl W64) (c : Nat) : Nat := if Regs.get v P.DECK_CH_CFG_SNIP_LONG c = 1 then 32 else 16

/-- R177: fewer samples before the anchor than the snippet has. -/
def snipOk (v : Tbl W64) (c : Nat) : Bool := decide (Regs.get v P.DECK_CH_CFG_SNIP_PRE c < snipSamples v c)

/-- R192: the reserves sum to at most 768 KiB. -/
def reserveOk (v : Tbl W64) : Bool := decide (((upTo 5).map fun i => Regs.get v P.SEAM_IN_CFG_RESERVE_KIB i).sum ≤ 768)

/-- R179: the up port is the tree's, or none; enabled inputs stand on tree-down ports other than it. -/
def State.seamOk (s : State) (v : Tbl W64) : Bool :=
  let up := Regs.get v P.SEAM_CFG_UP_PORT 0
  (up == 7 || (decide (up < 4) && up == s.upPort))
    && (upTo 4).all fun p => Regs.get v P.SEAM_IN_CFG_ENABLE (p + 1) == 0 || (s.portState p == 4 && p != up)

/-- R208: a context with a fabric destination selects no inbound source. -/
def ctxOk (v : Tbl W64) (c : Nat) : Bool := Regs.get v P.CTX_CFG_DEST_KIND c != 1 || Regs.get v P.CTX_SRC_INBOUND c == 0

/-- R226: the rings are 4 KiB aligned. -/
def ringOk (v : Tbl W64) (c : Nat) : Bool :=
  Regs.get v P.CTX_RING_BASE_ADDR c % 4096 == 0 && Regs.get v P.CTX_REQ_BASE_ADDR c % 4096 == 0

/-- R222: no link above its limit under a span length. -/
def State.spanOk (s : State) (v : Tbl W64) : Bool :=
  let us := spanLenOf (Regs.get v P.TIME_SPAN_LEN 0) / usSt
  (upTo 6).all fun l => decide (s.bound l ≤ s.nMax l us)

/-- R327: the limits of a timed output; a width counts in 32 stitches. -/
def toutOk (v : Tbl W64) (x : Nat) : Bool :=
  let per := Regs.get v P.TOUT_PERIOD_NS x * nsSt + Regs.get v P.TOUT_FINE_PERIOD_ST x
  let w := Regs.get v P.TOUT_WIDTH_WIDTH x * 32
  decide (10 * nsSt ≤ per) && decide (2 * nsSt ≤ w) && (Regs.get v P.TOUT_CFG_MODE x != 2 || decide (w + 2 * nsSt ≤ per))

/-- R330: a period is 0 or at least 1,000 ns. -/
def actOk (v : Tbl W64) (i : Nat) : Bool :=
  let p := Regs.get v P.ACT_PERIOD_NS i
  p == 0 || decide (1000 ≤ p)

/-- R311: the Sync interval's codes −7 to 0. -/
def syncOk (v : Tbl W64) : Bool :=
  let l := Regs.get v P.TIME_CFG_SYNC_LOG 0
  l == 0 || decide (9 ≤ l)

/-- R341: the areas of the memory, judged once its capacity is known; the deck keeps 1 GiB and its directory. -/
def State.mapOk (s : State) (v : Tbl W64) : Bool :=
  let fw := Regs.get v P.DDR_MAP_FW_MIB 0
  let press := Regs.get v P.DDR_MAP_PRESS_MIB 0
  let usable := s.get P.DDR_STATUS_USABLE_GIB 0 * 1024
  let other := fw + press + Regs.get v P.CTX_DDR_AREA_SIZE_MIB 0 + Regs.get v P.SPILL_CFG_SIZE_MIB 0
  let gib := Regs.get v P.DECK_REGION_SIZE_GIB 0
  let deck := if gib = 0 then usable - other else gib * 1024
  fw % 64 == 0 && press % 64 == 0
    && (usable == 0 || (decide (other + deck ≤ usable) && decide (1024 + 128 ≤ deck)))

/-- R345: the release level lies below the panic level. -/
def panicOk (v : Tbl W64) : Bool := decide (Regs.get v P.DDR_PANIC_RELEASE_KIB 0 < Regs.get v P.DDR_PANIC_LEVEL_KIB 0)

/-- R492: the throttle level lies at or above the warning level. -/
def thermOk (v : Tbl W64) : Bool := decide (Regs.get v P.THERM_CFG_WARN_C 0 ≤ Regs.get v P.THERM_CFG_THROTTLE_C 0)

/-- R303: the injection rates. -/
def prbsOk (v : Tbl W64) (p : Nat) : Bool :=
  let r := Regs.get v P.PRBS_CFG_INJ_RATE p
  r == 0 || (decide (6 ≤ r) && decide (r ≤ 12))

/-- The rules that a write of word `w`, index `i`, of a parameter must keep, judged on one combination. -/
def State.ruleOk (s : State) (v : Tbl W64) (pid i w : Nat) : Bool :=
  if pid = P.HK_SEQ_INPUT.pid then hkSeqOk v i w
  else if pid = P.HK_PASS_PERIOD_US.pid ∨ pid = P.LOOP_PERIOD_US.pid then periodsOk v
  else if P.GAUGE_SEL_INPUT.pid ≤ pid ∧ pid ≤ P.GAUGE_PERIOD_ST_PERIOD_ST.pid then gaugeOk v i
  else if P.COND_CFG_KIND.pid ≤ pid ∧ pid ≤ P.COND_SLEW_S.pid then condOk v i
  else if pid = P.CLASS_CFG_PRE.pid ∨ pid = P.CLASS_HITS_HITS_MAX.pid ∨ pid = P.CLASS_MASK_MASK.pid then classOk v i
  else if pid = P.HORIZON_NS.pid then (upTo 16).all fun k => classOk v k
  else if pid = P.LOOP_GAIN_KP.pid then gainOk v i
  else if pid = P.LOOP_MODE_MODE.pid ∨ pid = P.LOOP_CFG_ENABLE.pid then modeOk v i
  else if pid = P.MAN_U_U.pid then manOk v i
  else if pid = P.DECK_CH_CFG_DECK_PEAK.pid then snipOk v i
  else if pid = P.SEAM_CFG_UP_PORT.pid then s.seamOk v
  else if pid = P.SEAM_IN_CFG_ENABLE.pid then reserveOk v && s.seamOk v
  else if pid = P.CTX_CFG_DEST_KIND.pid ∨ pid = P.CTX_SRC_MERGED.pid then ctxOk v i
  else if pid = P.CTX_RING_BASE_ADDR.pid ∨ pid = P.CTX_REQ_BASE_ADDR.pid then ringOk v i
  else if pid = P.TIME_SPAN_LEN.pid then s.spanOk v
  else if P.TOUT_CFG_ENABLE.pid ≤ pid ∧ pid ≤ P.TOUT_WIDTH_WIDTH.pid then toutOk v i
  else if pid = P.ACT_PERIOD_NS.pid then actOk v i
  else if pid = P.TIME_CFG_SYNC_LOG.pid then syncOk v
  else if pid = P.DDR_MAP_FW_MIB.pid ∨ pid = P.CTX_DDR_AREA_SIZE_MIB.pid ∨ pid = P.SPILL_CFG_SIZE_MIB.pid
      ∨ pid = P.DECK_REGION_SIZE_GIB.pid then s.mapOk v
  else if pid = P.DDR_PANIC_LEVEL_KIB.pid then panicOk v
  else if pid = P.THERM_CFG_WARN_C.pid then thermOk v
  else if pid = P.PRBS_CFG_POLY.pid then prbsOk v i
  else true

/-- Every field that keeps its value, and every write-only field that the mask covers, lies in the range its map states
(R396). -/
def Par.inRange (p : Par) (v mask : W64) : Bool :=
  p.fields.all fun f => !(f.keeps || (f.acc == .wo && f.mask &&& mask != 0)) || (decide (f.min ≤ f.of v) && decide (f.of v ≤ f.max))

/-! ### The configuration store (R32, R403, R484) -/

/-- Parameters that the configuration store does not hold: block SEC, the action table, SWAP_CFG, and what R484 resets by
itself (log entry 53). -/
def notStored : List Nat :=
  [P.ACT_TIME_TIME_NS.pid, P.ACT_CFG_KIND.pid, P.ACT_ARG_ARG.pid, P.ACT_PERIOD_NS.pid, P.SWAP_CFG_ARMED.pid,
   P.CTX_DDR_RD_OFFSET.pid, P.LANE_LOOP_MODE.pid, P.PRBS_CFG_POLY.pid, P.HVSET_DUTY_DUTY.pid, P.MAN_U_U.pid, P.LOOP_MODE_MODE.pid]

/-- The store holds a parameter. -/
def Par.stored (p : Par) : Bool := p.pid / 2 ^ 24 != 0x12 && !notStored.contains p.pid

/-- What a save of the configuration writes: the kept fields of every parameter that differ from reset, the shadow value of
RWS fields (R32). -/
def State.configOf (s : State) : Tbl W64 :=
  let ids := (s.regs.map (·.1)) ++ s.time.pend.map (·.id) ++ s.time.staged.map (·.id)
  ids.foldl (fun r id =>
    match named id with
    | some n => if n.par.stored then
        n.par.setIn r id (mixBits (n.par.resetAt id) (s.shadow n.par id) (n.par.mask Fld.keeps)) else r
    | none => r) []

/-- A loop is closed for a parameter (R144): its own tile's, or for a block-wide parameter any. -/
def State.loopClosed (s : State) (p : Par) (i : Nat) : Bool :=
  if p.insts = 1 then (upTo 16).any fun t => s.flag P.LOOP_STATUS_MODE_NOW t else s.flag P.LOOP_STATUS_MODE_NOW i

/-- One parameter takes the value of a loaded configuration: RWS fields become pending, the others act at once; the
destination of a context that is not FREE stays (R201), and so do the RWM fields of a closed loop, which only a set with the loop
open can write (R6; log entry 98). A write of LOOP_REP clears the repetitive memory (R141). -/
def State.loadOne (s : State) (target : Tbl W64) (id : Nat) : State :=
  match named id with
  | none => s
  | some n =>
    let i := id / 4096 % 4096
    let ctxHeld := decide (s.get P.CTX_STATUS_STATE i ≠ 0)
      && [P.CTX_FAB_DEST_ADDR.pid, P.CTX_DDR_DEST_BASE_MIB.pid].contains n.par.pid
    let closed := n.par.fields.any (Fld.has .rwm) && s.loopClosed n.par i
    if !n.par.stored || ctxHeld || closed then s else
    let want := n.par.inTable target id
    let old := s.shadow n.par id
    let plain := n.par.mask fun f => f.acc == .rw || f.acc == .rwm
    let swap := n.par.mask (Fld.has .rws)
    let s0 := if n.par.pid = P.LOOP_REP_N.pid then s.modLp i fun l => { l with m := [] } else s
    let s1 := { s0 with regs := n.par.setIn s.regs id (mixBits (n.par.inTable s.regs id) want plain) }
    if (want ^^^ old) &&& swap = 0 then s1
    else s1.pendAt id (mixBits (n.par.inTable s1.regs id) want swap) 0 (some s.dueNow)

/-- A configuration is loaded: every stored parameter takes the value given, or its reset value (R403); the pending value
joins the next boundary whose cutoff follows. -/
def State.configApply (s : State) (target : Tbl W64) : State :=
  let ids := ((target.map (·.1)) ++ s.regs.map (·.1) ++ s.time.pend.map (·.id) ++ s.time.staged.map (·.id)).eraseDups
  let s1 := s.each ids fun s id => s.loadOne target id
  s1.each (upTo 16) State.sumEval

/-- The copy of the store that is read, with its number: the newest valid one (R461). -/
def SecSt.newest (x : SecSt) : Option (Nat × Store) :=
  let a := Tbl.get Store.reset x.store 0
  let b := Tbl.get Store.reset x.store 1
  match a.valid, b.valid with
  | true, true => some (if a.number < b.number then (1, b) else (0, a))
  | true, false => some (0, a)
  | false, true => some (1, b)
  | false, false => none

/-- The configuration store is read and applied (R358, R403): a store of another major version is not applied. -/
def State.configLoad (s : State) : State :=
  match s.sec.newest with
  | none => s.configApply []
  | some (k, c) =>
    if c.version / 65536 = s.host.fwVersion / 65536 then
      let ids := c.sub.getD (0x1F5A, 0x5640)
      let s1 : State := { s with
        sec := { s.sec with lastCopy := some k, dirty := false }, host := { s.host with subVendor := ids.1, subId := ids.2 } }
      s1.configApply c.regs
    else ((s.configApply []).raise 9).log 0x0F01 4 (le 4 c.version)

end Sys2Proof.Machine
end

