-- ==== Sys2Proof/Machine/Recorder.lean ====
section
/-! DEFINITION. The event recorder's commands (chapter 19): occurrences, the MRAM log, compaction and the start-up scan. -/

namespace Sys2Proof.Machine

/-! ### Log record bytes -/

/-- A log record's bytes (R443). -/
def LogRec.encode (r : LogRec) : List Byte :=
  [BitVec.ofNat 8 r.len, BitVec.ofNat 8 r.severity] ++ le 2 r.code ++ le 2 r.rep ++ [0, 0xA5] ++ le 8 r.index
    ++ le 8 (tbNs r.first.tb) ++ le 2 r.first.epoch ++ le 2 r.dropped
    ++ le 4 (satTo 32 ((r.lastTb - r.first.tb) / usSt)) ++ pad8 r.detail

/-! ### The word budget (R452) -/

/-- Words that flow back into the budget since it was last brought up to date. -/
def State.budgetFill (s : State) : State :=
  let acc := s.recd.budgetRem + (s.time.now - s.recd.budgetTb) * 96000
  let w := min 262144 (s.get P.REC_BUDGET_WORDS 0 + acc / secSt)
  ({ s with recd := { s.recd with budgetTb := s.time.now, budgetRem := acc % secSt } }).put P.REC_BUDGET_WORDS 0 w

/-- Take words from the budget. -/
def State.budgetTake (s : State) (n : Nat) : State := s.put P.REC_BUDGET_WORDS 0 (s.get P.REC_BUDGET_WORDS 0 - n)

/-! ### The ring, compaction -/

/-- Bytes used in a ring segment: its header word and its records (R449). -/
def segBytes (rs : List LogRec) : Nat := 8 + logBytes rs

/-- Every record of the ring. -/
def RecSt.ringRecs (r : RecSt) : List LogRec := r.segs.flatMap (·.2)

/-- A compaction step keeps a record (R450). -/
def keepRec (cleared : Nat) (all : List LogRec) (r : LogRec) : Bool :=
  decide (cleared < r.index) && !(all.any fun q => decide (r.index < q.index) && decide (r.severity ≤ q.severity))

/-- Append to the open segment, the last of the list. -/
def segAppend (segs : List (Nat × List LogRec)) (l : List LogRec) : List (Nat × List LogRec) :=
  match segs.getLast? with
  | some (q, rs) => segs.dropLast ++ [(q, rs ++ l)]
  | none => segs

/-- Open the next ring segment; once the ring has wrapped, compact the oldest (R449, R450). -/
def State.segOpen (s : State) : State :=
  let r := s.recd
  let segs := r.segs ++ [(r.segSeq, [])]
  let s1 := { s with recd := { r with segs := segs, segSeq := r.segSeq + 1 } }
  let s2 := if 0 < r.segSeq ∧ r.segSeq % 60 = 0 then s1.bump P.REC_WEAR_LAPS 0 else s1
  if segs.length < 60 then s2 else
    match segs with
    | [] => s2
    | (_, old) :: rest =>
      let kept := old.filter (keepRec (Regs.word s.regs P.REC_CLEARED_INDEX 0).toNat (segs.flatMap (·.2)))
      let s3 := { s2 with recd := { s2.recd with segs := segAppend rest kept } }
      (((s3.budgetTake (logBytes kept / 8))).maintBegin 5 0 false).maintEnd 5 0

/-- The lowest readable index (R454). -/
def State.recOldest (s : State) : State :=
  let all := s.recd.ringRecs ++ s.recd.audit ++ s.recd.clears
  let cleared := (Regs.word s.regs P.REC_CLEARED_INDEX 0).toNat
  let ok := all.filter fun r => decide (cleared < r.index) || r.code == 0x1101
  match ok with
  | [] => s
  | r :: rs => s.put P.REC_OLDEST_INDEX 0 (rs.foldl (fun m x => min m x.index) r.index)

/-- Bytes free in the open ring segment; none when no segment is open (R449). -/
def RecSt.room (r : RecSt) : Nat :=
  match r.segs.getLast? with
  | some (_, rs) => 65536 - segBytes rs
  | none => 0

/-- A record goes into the ring (R449, R451). -/
def LogRec.ringed (r : LogRec) : Bool := r.code != 0x1101 && r.severity != 7

/-- Words that writing a record takes from the budget: its own, and where the open segment has no room for it the pad that
fills that segment and the header of the next (R449, R452). -/
def State.logCost (s : State) (r : LogRec) : Nat :=
  r.len + (if r.ringed && decide (s.recd.room < 8 * r.len) then s.recd.room / 8 + 1 else 0)

/-- Write one record into its area of the log (R449, R451). -/
def State.logPlace (s : State) (r : LogRec) : State :=
  if r.code = 0x1101 then { s with recd := { s.recd with clears := s.recd.clears ++ [r] } }
  else if r.severity = 7 then { s with recd := { s.recd with audit := s.recd.audit ++ [r] } }
  else
    let s1 := if s.recd.room < 8 * r.len then s.segOpen else s
    { s1 with recd := { s1.recd with segs := segAppend s1.recd.segs [r] } }

/-- A record's MRAM write completes: it draws on the word budget, stands in its area of the log and is exported into the
monitoring stream (R449, R451, R452, R455). -/
def State.logWrite (s : State) (r : LogRec) : State :=
  let s1 := ((s.budgetTake (s.logCost r)).logPlace r).recOldest
  s1.monEmit (s1.mkRec 0x0D 0 ⟨r.first.epoch, tbNs r.first.tb * nsSt⟩ r.encode)

/-- The record whose MRAM write is due: the first in staging, closed (R446). -/
def RecSt.head (r : RecSt) : Option LogRec :=
  match r.staging with
  | [] => none
  | l :: rest => if rest.isEmpty && r.opened then none else some l

/-- The start-up scan holds the records in staging: until REC_SCAN, or 5 ms after the start (R453). -/
def State.logScanHolds (s : State) : Bool := s.recd.scanning && decide (s.time.up < 5 * msSt)

/-- REC_MRAM_WRITE_COMPLETE (R446, R449 to R452, R455): the oldest closed record has been written, header last. The write waits while the start-up scan runs or the word budget is short. -/
def execRecMramWriteComplete (t : Tm) (s : State) : Host.Outcome State Fault Refusal :=
  live t s fun s =>
    let s := s.budgetFill
    match s.recd.head with
    | none => s
    | some l =>
      if s.logScanHolds || decide (s.get P.REC_BUDGET_WORDS 0 < s.logCost l) then s else
      ({ s with recd := { s.recd with staging := s.recd.staging.drop 1 } }).logWrite l

/-- REC_OCCURRENCE (R23, R444 to R448, R451): a firmware record through the write port, which only the lease holder has. -/
def execRecOccurrence (t : Tm) (pier : Pier) (code : BitVec 16) (severity : Fin 8) (detail : List Byte) (s : State) :
    Host.Outcome State Fault Refusal :=
  live t s fun s =>
    if s.core.holder = pier.val + 1 then
      let p := s.occur code.toNat severity (detail.take 224)
      p.1.recRaises p.2
    else s.deny

/-- REC_REPEAT_EXPIRE (R446): the open record closes REPEAT_MS after its first occurrence. -/
def execRecRepeatExpire (t : Tm) (s : State) : Host.Outcome State Fault Refusal :=
  live t s fun s =>
    match s.recd.staging.getLast? with
    | some l =>
      if s.recd.opened && decide (s.place l.first + (s.get P.REC_CFG_REPEAT_MS 0 * msSt : Nat) ≤ s.time.now)
      then { s with recd := { s.recd with opened := false } } else s
    | none => s

/-- REC_SCAN (R453): the start-up scan ends; the highest segment sequence is open, and the index goes on above every index
ever admitted. -/
def execRecScan (t : Tm) (s : State) : Host.Outcome State Fault Refusal :=
  live t s fun s => ({ s with recd := { s.recd with scanning := false } }).recOldest

/-- Records REC_READ may return, in index order, from an index on (R454). -/
def State.recReadable (s : State) (first : Nat) : List LogRec :=
  let cleared := (Regs.word s.regs P.REC_CLEARED_INDEX 0).toNat
  let all := (s.recd.ringRecs ++ s.recd.audit ++ s.recd.clears).filter fun r =>
    decide (first ≤ r.index) && (decide (cleared < r.index) || r.code == 0x1101)
  sortBy (fun a b => decide (a.index < b.index)) all

/-- Whole records up to a byte count (R454). -/
def takeRecs : List LogRec → Nat → List LogRec
  | [], _ => []
  | r :: rs, n => if 8 * r.len ≤ n then r :: takeRecs rs (n - 8 * r.len) else []

/-- Drain staging into the log at once (R456). -/
def State.recDrain (s : State) : State :=
  s.recd.staging.foldl (fun s l => s.logWrite l)
    { s with recd := { s.recd with staging := [], opened := false } }

/-- The effect of a valid clear (R456): staging drains, the clear record is written, older records become unreadable. Answers
the state and the clear record's index. -/
def State.recClear (s : State) (key : List Byte) : State × Nat :=
  let s1 := s.recDrain
  let idx := (Regs.word s1.regs P.REC_NEXT_INDEX_INDEX 0).toNat
  let l : LogRec := ⟨0x1101, 7, 0, idx, s1.stamp, s1.time.now, 0, le 8 (idx - 1) ++ key⟩
  let s2 := (s1.logWrite l).put P.REC_NEXT_INDEX_INDEX 0 (idx + 1)
  let s3 := ({ s2 with recd := { s2.recd with audit := [] } }).put P.REC_CLEARED_INDEX 0 (idx - 1)
  ((s3.recOldest.raise 236), idx)

end Sys2Proof.Machine
end

