-- ==== Sys2Proof/Machine/Cores.lean ====
section
/-! DEFINITION. The control cores (chapter 17): the lease and its holders, promotion, checkpoints, abutment mode, the standby
self-test and the maintenance activities. -/

namespace Sys2Proof.Machine

/-! ### Piers as the Keystone sees them (R406 to R408) -/

/-- Pier `i`: 0 Pier A, 1 Pier B. -/
def State.pierOf (s : State) (i : Nat) : PierSt := Tbl.get PierSt.reset s.core.pier i
/-- Change pier `i`. -/
def State.modPier (s : State) (i : Nat) (f : PierSt → PierSt) : State :=
  { s with core := { s.core with pier := Tbl.mod PierSt.reset s.core.pier i f } }

/-- The shortest lease: 100,000 Keystone cycles at 120 MHz (R406). -/
def leaseMin : Nat := 2560000000
/-- The longest lease: 100,000 Keystone cycles at 80 MHz (R406). -/
def leaseMax : Nat := 3840000000

/-- The length of the present lease, a free value within its bounds (R406; log entry 54). -/
def State.leaseLen (s : State) : Nat := leaseMin + Config.leaseSpread s.core.gen % (leaseMax - leaseMin + 1)

/-- A lease length has passed (R406). -/
def State.leaseOver (s : State) (d : Nat) : Bool :=
  decide (leaseMax ≤ d) || (decide (leaseMin ≤ d) && decide (s.leaseLen ≤ d))

/-- A health word has arrived within the last lease length (R407). -/
def State.pierAlive (s : State) (i : Nat) : Bool :=
  match (s.pierOf i).heard with
  | none => false
  | some h => decide (s.time.up - h ≤ leaseMin) || decide (s.time.up - h ≤ s.leaseLen)

/-- A pier's health word as KS_HEALTH_A or KS_HEALTH_B shows it (R407, R408, R486). -/
def State.pierWord (s : State) (i : Nat) : Nat :=
  let p := s.pierOf i
  if p.failed then 6 * 16 else if p.held || s.pwr.refWait then 0 else p.word / 2 * 2 + b2n (s.pierAlive i)

/-- STATE of a health word (R407). -/
def wordState (w : Nat) : Nat := bitsOf w 6 4

/-- A health word says that the pier is healthy (R407). -/
def wordHealthy (w : Nat) : Bool :=
  w.testBit 0 && w.testBit 3 && (wordState w == 4 || wordState w == 5) && w / 2 ^ 24 == 0

/-- A pier is healthy (R407). -/
def State.healthy (s : State) (i : Nat) : Bool := wordHealthy (s.pierWord i)

/-- Both piers are failed (R408, R409). -/
def State.bothFailed (s : State) : Bool := (s.pierOf 0).failed && (s.pierOf 1).failed

/-- KS_STATUS (R363). -/
def State.ksStatus (s : State) : Nat :=
  s.core.holder + 4 * b2n s.abut + 8 * b2n (s.core.sync && s.leased) + 65536 * s.core.grants

/-- CORE_STATUS follows the Keystone (R424). -/
def State.coreShow (s : State) : State :=
  (s.put P.CORE_STATUS_ACTIVE 0 s.core.holder).putB P.CORE_STATUS_STANDBY_SYNC 0 (s.core.sync && s.leased)

/-- Each maintenance activity's STATE follows what runs and waits (R420). -/
def State.maintShow (s : State) : State := s.each (upTo 8) State.maintState

/-! ### Abutment mode (R418, R423) -/

/-- Commands that the firmware holds are dropped with the lease; forwarded ones and reserved entries with them. -/
def State.mbDrop (s : State) : State :=
  let s1 := { s with mbox := { s.mbox with fetched := [], wait := [], remote := [], atNs := [] } }
  s1.each [0, 1] fun s m => s.modMb m fun x => { x with reserved := 0 }

/-- A channel's acquisition stops: hits and blocks in progress end without a record (R18, R418; log entry 99). -/
def TdcCh.stopped (x : TdcCh) : TdcCh := { x with open_ := [], judged := [], blocks := [], early := [], edges := [], quietAt := none }

/-- A housekeeping converter stops: its conversion and its requests end without a result (R18, R418; log entry 99). -/
def HkTile.stopped (h : HkTile) : HkTile := { h with run := none, urgent := [], passAt := none, entry := 32, asked := 0, hv := none }

/-- A gauge input stops: its gate ends without a result (R18, R418; log entry 99). -/
def Gauge.stopped (g : Gauge) : Gauge := { g with start := none, skip := 0, count := 0, stamps := [], lost := [] }

/-- The extraction in progress ends without an event; its accept waits again, and its reservation returns (R18, R418; log entry
99). -/
def TrgSt.stopped (x : TrgSt) : TrgSt :=
  match x.run with
  | some e => { x with win := [], root := [], prims := [], run := none, accs := insertBy Acc.before e.acc x.accs, used := x.used - e.reserved }
  | none => { x with win := [], root := [], prims := [] }

/-- Local acquisition and the extractor stop in abutment mode (R18, R418). -/
def State.acquireStop (s : State) : State :=
  let s1 := s.each (upTo 256) fun s c => s.modTd c TdcCh.stopped
  let s2 := s1.each (upTo 16) fun s t => s.modHk t HkTile.stopped
  let s3 := s2.each (upTo 8) fun s g => s.modGauge g Gauge.stopped
  ({ s3 with trg := s3.trg.stopped, tdc := { s3.tdc with interval := none } }).accShow

/-- The data plane's parts that abutment mode stops (R18, R76, R120, R145, R176, R199, R215, R265 of chapter 10, R418). -/
def State.planeStop (s : State) : State :=
  ((((((s.acquireStop.deckAbut).deckService false).seamAbut).loopFreeze).rotAbut).ctxAbut).pressAbut

/-- Shadow values not yet swapped are discarded when the lease lapses (R17). -/
def State.shadowsDrop (s : State) : State :=
  { s with time := { s.time with pend := [], staged := [] }, core := { s.core with lapsed := s.time.last } }

/-- Abutment mode is entered (R409, R418, R423): hardware activities finish under their own rules, the rest end. -/
def State.abutEnter (s : State) (cause : Nat) : State :=
  let s1 : State := { s with core := { s.core with
    ks := 5, holder := 0, cause := cause, revokeAt := none, mark := none, handing := false, copied := false, joined := false,
    sync := false, run := s.core.run.filter fun a => a.code != 6, soon := [], wait := [] } }
  ((((s1.shadowsDrop.mbDrop.planeStop).coreShow).maintShow).mbReady).raise 227

/-! ### Resets and the lease (R408 to R410) -/

/-- One second of the Keystone's timers, which run on the uptime (log entry 54). -/
def upSec : Nat := secSt

/-- PIER_RESETS of a pier counts (R408). -/
def State.bumpPier (s : State) (i : Nat) : State := if i = 0 then s.bump P.PIER_RESETS_A 0 else s.bump P.PIER_RESETS_B 0

/-- The Keystone resets a pier (R408, R409): source 229; the third reset within 60 s fails it, else it reboots at once. -/
def State.pierReset (s : State) (i : Nat) : State :=
  let recent := ((s.pierOf i).resets.filter fun r => decide (s.time.up < r + 60 * upSec)) ++ [s.time.up]
  let fails := decide (3 ≤ recent.length)
  let s1 := s.modPier i fun _ =>
    { PierSt.reset with held := fails, failed := fails, resetAt := some s.time.up, resets := recent }
  (s1.bumpPier i).raise 229

/-- Both piers failed while no pier holds the lease: abutment mode (R409). -/
def State.abutCheck (s : State) : State := if !s.leased && !s.abut && s.bothFailed then s.abutEnter 1 else s

/-- The lease is revoked (R409, R410): the holder is reset, G + 1, values pending for later boundaries are discarded. -/
def State.revoke (s : State) : State :=
  let x := s.core.holder
  let s1 : State := { s with
    core := { s.core with
      ks := 4, holder := 0, last := x, gen := (s.core.gen + 1) % 65536, revokeAt := none, mark := none, refused := 0,
      copied := false, joined := false, handing := false, fwFault := false } }
  ((((s1.shadowsDrop.mbDrop.coreShow).raise 224).pierReset (x - 1)).mbReady).abutCheck

/-- LEASE_RENEW (R406): a renewal with the present generation by the holder resets the lease counter; any other is counted in
KS_DENIED (R423). -/
def execLeaseRenew (t : Tm) (pier : Pier) (gen : BitVec 16) (s : State) : Host.Outcome State Fault Refusal :=
  live t s fun s =>
    if s.core.holder = pier.val + 1 ∧ s.core.gen = gen.toNat then { s with core := { s.core with renewed := s.time.up } }
    else { s with core := { s.core with denied := satTo 32 (s.core.denied + 1) } }

/-- HEALTH_WORD_PUBLISH (R407, R408): the Keystone stores the word and sets ALIVE itself. -/
def execHealthWordPublish (t : Tm) (pier : Pier) (word : BitVec 32) (s : State) : Host.Outcome State Fault Refusal :=
  live t s fun s =>
    if (s.pierOf pier).held || s.pwr.refWait then s else
    let s1 := s.modPier pier fun p => { p with word := word.toNat / 2 * 2, heard := some s.time.up }
    if s1.healthy pier then s1.modPier pier fun p => { p with resetAt := none } else s1

/-- The hold window of the next boundary (R410). -/
def State.holdWindow (s : State) : Bool := decide (s.time.next ≤ s.time.now + 80 * usSt)

/-- LEASE_EXPIRE (R406, R409, R410): the lease lapses; inside a hold window it is revoked 1 cc after the boundary. -/
def execLeaseExpire (t : Tm) (s : State) : Host.Outcome State Fault Refusal :=
  live t s fun s =>
    if !s.leased || s.core.revokeAt.isSome || !s.leaseOver (s.time.up - s.core.renewed) then s
    else if s.holdWindow then { s with core := { s.core with revokeAt := some s.time.next } }
    else s.revoke

/-- PIER_HEALTH_TIMEOUT (R408, R409): a reset pier that is not healthy within 500 ms is failed and held in
reset, which is a reset by the Keystone (log entry 54). -/
def execPierHealthTimeout (t : Tm) (pier : Pier) (s : State) : Host.Outcome State Fault Refusal :=
  live t s fun s =>
    match (s.pierOf pier).resetAt with
    | some r =>
      if s.pwr.refWait || (s.pierOf pier).failed || s.healthy pier || decide (s.time.up < r + 500 * msSt) then s
      else
        let s1 := s.modPier pier fun p => { p with failed := true, held := true, word := 0, heard := none }
        ((s1.bumpPier pier).raise 229).abutCheck
    | none => s

/-! ### Promotion (R389, R409, R410, R415) -/

/-- The Keystone may grant the lease to a pier (R409). -/
def State.mayGrant (s : State) (i : Nat) : Bool :=
  s.healthy i && (if s.core.ks = 1 then i == 0 || decide (s.core.bootAt + 500 * msSt ≤ s.time.up)
    else s.core.ks == 4 && (s.core.last != i + 1 || !s.healthy (1 - i)))

/-- Every duplicate history and h are empty (R415). -/
def State.histClear (s : State) : State :=
  let s1 := { s with mbox := { s.mbox with hist := [], high := [], seen := [] } }
  s1.each (upTo 6) fun s m => s.put P.MB_LAST_SEQ_H m 0

/-- A pending value of the committed checkpoint is written again (R17, R410): for its own boundary, or where that has passed
unswapped while the lease was vacant, for the next one that a write still reaches. -/
def State.rewrite (s : State) (p : Pend) : Option Pend :=
  match p.due with
  | some b => if b ≤ s.core.lapsed then none else some { p with due := some (max b s.dueNow) }
  | none => some p

/-- The promoted core takes over what the committed checkpoint holds (R388, R410, R412). -/
def State.ckptTake (s : State) : State :=
  let k := s.core.ckpt
  let s1 : State := { s with
    time := { s.time with pend := k.pend.filterMap s.rewrite },
    mbox := { s.mbox with hist := k.hist, high := k.high, seen := k.seen, wait := k.wait, atNs := k.atNs } }
  s1.each [0, 1, 3, 5] fun s m => s.put P.MB_LAST_SEQ_H m (s.highOf m)

/-- The takeover entries (R389): on each enabled host mailbox, before any other entry. -/
def State.takeoverPost (s : State) (cold : Bool) : State :=
  s.each [0, 1] fun s m =>
    if (s.mbRegs m).enable then
      s.post { who := { Who.reset with mb := m }, seq := s.highOf m, status := stTakeover, result := BitVec.ofNat 64 (b2n cold), slot := 0,
               respAddr := 0, respMax := 0, response := [], quiet := false, dup := false, interim := false, takeover := true,
               release := false }
    else s

/-- What every new holder does (R378, R390): READY, started commands, the deck writer goes on, a
change of the fabric that waited is computed. -/
def State.holderStart (s : State) : State :=
  let s1 := s.mbReady.takeStarted
  let s2 := if s1.ddrOn && !s1.flag P.DECK_STATUS_ONLINE 0 && s1.ddr.wasOn then (s1.deckOnline true).deckRates else s1
  if s2.fab.again then (s2.probePump 64).routeChange else s2

/-- The lease is granted (R145, R406, R409): HOLDER, G + 1, GRANTS, source 224; the loops leave FROZEN. -/
def State.leaseTake (s : State) (i : Nat) : State :=
  let s1 := { s with core := { s.core with
    ks := 2, holder := i + 1, gen := (s.core.gen + 1) % 65536, grants := satTo 16 (s.core.grants + 1), renewed := s.time.up,
    revokeAt := none, mark := none, refused := 0, handing := false, copied := false, sync := false, fwFault := false } }
  ((s1.coreShow).raise 224).loopThaw

/-- A promotion counts (R415, R424). -/
def State.promoted (s : State) (cold : Bool) : State :=
  let s1 := (s.bump P.CORE_STATUS_TAKEOVERS 0).putB P.CORE_STATUS_COLD 0 cold
  if cold then s1.bump P.CORE_STATUS_COLD_COUNT 0 else s1

/-- Configuration loaded at a start: it is applied at the boundary its values join (R403, R488). -/
def State.bootConfig (s : State) : State :=
  let s1 := s.configLoad
  if s1.pwr.cfgApplied then s1 else { s1 with pwr := { s1.pwr with cfgDue := some s1.dueNow } }

/-- A cold promotion (R415): the configuration store, contexts reset, histories cleared. -/
def State.coldLoad (s : State) : State :=
  let s1 := s.bootConfig.each (s.ctx.c.map (·.1)) State.ctxReset
  s1.histClear

/-- LEASE_GRANT (R389, R403, R406, R409, R410, R415, R424). -/
def execLeaseGrant (t : Tm) (pier : Pier) (s : State) : Host.Outcome State Fault Refusal :=
  live t s fun s =>
    if !s.mayGrant pier then s
    else if s.core.ks = 1 then
      let s1 := s.leaseTake pier
      let s2 := if s1.pwr.cfgApplied then s1 else s1.put P.START_TIMES_GRANT_MS 0 (satTo 16 (s1.time.up / msSt))
      ((s2.histClear).bootConfig).holderStart
    else
      let cold := !(s.core.sync && s.core.last != pier.val + 1)
      let s1 := (s.leaseTake pier).promoted cold
      let s2 := if cold then s1.coldLoad else s1.ckptTake
      ((s2.takeoverPost cold).holderStart)

/-! ### Checkpoints (R411 to R414, R416) -/

/-- What the delta set of the boundary just passed holds (R411, R412): completions of its changes included. -/
def State.snapshotCkpt (s : State) : Ckpt :=
  let mine := s.mbox.wait.filter fun x => !x.background && decide (x.commit ≤ s.time.last)
  let s1 := mine.foldl (fun (s : State) x => s.record x.who x.seq x.status x.result) s
  { pend := s.time.pend, hist := s1.mbox.hist, high := s.mbox.high, seen := s.mbox.seen,
    wait := s.mbox.wait.filter (·.background), atNs := s.mbox.atNs }

/-- FAILOVER releases the lease after the commit it waited for (R17, R416). -/
def State.handOver (s : State) : State :=
  let s1 : State := { s with core := { s.core with
    ks := 4, last := s.core.holder, holder := 0, handing := false, mark := none, joined := true } }
  ((s1.shadowsDrop.mbDrop.coreShow).raise 224).mbReady

/-- The set of boundary `b` is committed (R387, R411, R414, R416). -/
def State.commit (s : State) (b : Tm) : State :=
  let s1 := ({ s with core := { s.core with committed := b, ckpt := s.core.delta, mark := none, refused := 0 } }).put
    P.CKPT_LAST_TIME_NS 0 (tbNs b)
  let s2 :=
    if !s1.core.sync && s1.core.copied then
      let a : State := { s1 with core := { s1.core with sync := true, copied := false, joined := false } }
      (((a.putB P.CKPT_STATUS_UNSYNC 0 false).bump P.CKPT_STATUS_RESYNCS 0).coreShow).raise 226
    else if !s1.core.sync && s1.core.joined then
      let a : State := { s1 with core := { s1.core with sync := true, joined := false } }
      (a.coreShow).raise 226
    else s1
  let s3 := s2.commitPosts
  if s3.core.handing && decide (s3.core.handAfter ≤ b) && s3.core.sync then s3.handOver else s3

/-- The standby is declared unsynchronised (R414). -/
def State.unsync (s : State) : State :=
  let was := s.core.sync
  let s1 : State := { s with core := { s.core with
    sync := false, copied := false, joined := false, handing := false, refused := 0 } }
  let s2 := (s1.putB P.CKPT_STATUS_UNSYNC 0 true).coreShow
  if was then (s2.raise 226).log 0x0F02 4 [] else s2

/-- CHECKPOINT_MARK (R411, R413): 40 µs after a boundary its set is marked, later where it has not crossed the channel;
without a synchronised standby the commit is local. -/
def execCheckpointMark (t : Tm) (bytes : Nat) (crossed : Bool) (s : State) : Host.Outcome State Fault Refusal :=
  live t s fun s =>
    if !s.leased || s.core.mark.isSome || decide (s.time.last ≤ s.core.committed) || decide (s.time.now < s.time.last + 40 * usSt) then s
    else
      let s1 := s.put P.CKPT_SIZE_BYTES 0 (satTo 24 bytes)
      if !(s.core.sync || s.core.copied || s.core.joined) then s1.commit s.time.last
      else if crossed then { s1 with core := { s1.core with mark := some s.time.last, markAt := s.time.now } }
      else if s.core.late then s
      else (({ s with core := { s.core with late := true } }).bump P.CKPT_STATUS_LATE 0).raise 231

/-- CHECKPOINT_ACK (R411, R414): the standby accepts the mark, or refuses it by CRC. -/
def execCheckpointAck (t : Tm) (accepted : Bool) (s : State) : Host.Outcome State Fault Refusal :=
  live t s fun s =>
    match s.core.mark with
    | none => s
    | some b =>
      if !s.leased then s
      else if accepted then s.commit b
      else if 2 ≤ s.core.refused + 1 then s.unsync.commit b
      else { s with core := { s.core with mark := none, refused := s.core.refused + 1 } }

/-- CHECKPOINT_ACK_TIMEOUT (R413, R414): no acknowledgement within 20 µs of a mark; the commit is then local. -/
def execCheckpointAckTimeout (t : Tm) (s : State) : Host.Outcome State Fault Refusal :=
  live t s fun s =>
    match s.core.mark with
    | some b => if s.leased && decide (s.core.markAt + 20 * usSt ≤ s.time.now) then s.unsync.commit b else s
    | none => s

/-- FULL_COPY (R414): a full copy of the active core's state has reached the standby. -/
def execFullCopy (t : Tm) (s : State) : Host.Outcome State Fault Refusal :=
  live t s fun s =>
    let w := s.pierWord (2 - s.core.holder)
    if s.leased && !s.core.sync && w.testBit 0 && decide (3 ≤ wordState w) && wordState w != 6 && w.testBit 7
    then { s with core := { s.core with copied := true } } else s

/-- FAILOVER (R398, R416): refused with DENIED without a synchronised standby; the lease is released after the commit of the
boundary that follows the command's own. -/
def execFailover (t : Tm) (mb : Mb) (cmd : Cmd) (s : State) : Host.Outcome State Fault Refusal :=
  live t s fun s => s.command mb cmd 0 fun s _ =>
    if s.core.sync then
      ({ s with core := { s.core with handing := true, handAfter := s.time.next + s.spanLen } }).gives 0
    else s.ends stDenied

/-- HEALTH (R398): KS_STATUS, KS_HEALTH_A, KS_HEALTH_B, KS_DENIED. -/
def execHealth (t : Tm) (mb : Mb) (cmd : Cmd) (s : State) : Host.Outcome State Fault Refusal :=
  live t s fun s => s.command mb cmd 0 fun s _ =>
    s.answers (le 4 s.ksStatus ++ le 4 (s.pierWord 0) ++ le 4 (s.pierWord 1) ++ le 4 s.core.denied)

/-! ### Heartbeat and health (R419) -/

/-- The heartbeat-and-health record (R419): its header time is the boundary. -/
def State.heartbeat (s : State) (temp : Int) : Rec :=
  let tripped := ((upTo 16).map fun t => 2 ^ t * s.get P.TRIP_STATUS_TRIPPED t).sum
  let slots := s.get P.SEC_STATUS_A_OK 0 + 2 * s.get P.SEC_STATUS_B_OK 0 + 4 * s.get P.SEC_STATUS_BOOT_SEL 0
  let cause := if s.abut then s.core.cause else 0
  s.mkRec 0x0C 0 ⟨s.time.epoch, s.time.last⟩
    ([BitVec.ofNat 8 (s.ksStatus % 16), BitVec.ofNat 8 cause] ++ le 2 tripped ++ le 4 (s.pierWord 0) ++ le 4 (s.pierWord 1)
      ++ leInt 2 temp ++ [BitVec.ofNat 8 (s.get P.TIME_STATUS_STATE 0), BitVec.ofNat 8 slots] ++ le 4 s.core.grants ++ le 4 0)

/-- HEARTBEAT_EMIT (R419): once per boundary in abutment mode, through the tree up port; else once per second into the own
monitoring stream. -/
def execHeartbeatEmit (t : Tm) (temp : Int) (s : State) : Host.Outcome State Fault Refusal :=
  live t s fun s =>
    let told (s : State) : State := { s with core := { s.core with lastBeat := some s.time.last } }
    if s.abut then
      if s.core.lastBeat = some s.time.last then s
      else
        let r := s.heartbeat temp
        let s1 := (told s).takeSeq 0x0C
        if s.upPort < 4 ∧ s.portUp s.upPort = true then s1.emit (.record 4 r) else s1
    else
      let due := match s.core.lastBeat with | some b => decide (b / secSt < s.time.last / secSt) || decide (s.time.last < b) | none => true
      if due then (told s).monEmit (s.heartbeat temp) else s

/-! ### The standby self-test (R417) -/

/-- SELF_TEST_PASS_END (R407, R417, R420): a fault fails the test of the standby; else, PASS_S seconds after the pass began, the
next pass begins. -/
def execSelfTestPassEnd (t : Tm) (fault : BitVec 8) (s : State) : Host.Outcome State Fault Refusal :=
  live t s fun s =>
    let since := (s.core.run.find? fun a => a.code == 6).map (·.since)
    let early := since.any fun a => decide (s.time.now < a + s.get P.STBY_TEST_PASS_S 0 * secSt)
    if !s.leased || (fault == 0 && early) then s else
    let i := 2 - s.core.holder
    let w := (s.pierOf i).word
    let setW (v : Nat) : State := s.modPier i fun p => { p with word := v }
    let s1 :=
      if fault = 0 then setW (w % 2 ^ 16 + (w / 2 ^ 16 + 1) % 256 * 2 ^ 16)
      else ((setW (w % 2 ^ 24 - (if w.testBit 3 then 8 else 0) + fault.toNat * 2 ^ 24)).raise 228).log 0x0F03 5 [fault]
    let s2 := s1.maintEnd 6 0
    if s2.flag P.STBY_TEST_ENABLE 0 && fault == 0 then s2.maintBegin 6 0 false else s2

/-! ### Maintenance activities (R420 to R422) -/

/-- The units of an activity (R420). -/
def maintUnits (code : Nat) : Nat :=
  match code with | 0 => 256 | 1 => 16 | 2 => 268 | 3 => 2 | 4 => 2 | 7 => 16 | _ => 1

/-- A compaction step of the oldest ring segment (R450). -/
def State.compactStep (s : State) : State :=
  match s.recd.segs with
  | (_, old) :: r :: rest =>
    let kept := old.filter (keepRec (Regs.word s.regs P.REC_CLEARED_INDEX 0).toNat s.recd.ringRecs)
    let s1 := s.maintBegin 5 0 false
    let s2 := ({ s1 with recd := { s1.recd with segs := segAppend (r :: rest) kept } }).budgetTake (logBytes kept / 8)
    s2.maintEnd 5 0
  | _ => s

/-- A start that is not delayed begins (R420): at a span boundary. -/
def State.maintGo (s : State) (a : Act) : State :=
  match a.code with
  | 0 => if s.tripped (a.unit / 16) then s else
      (s.modFe (a.unit / 16) fun f => { f with visit := some (a.unit % 16), queue := f.queue.filter (· != a.unit % 16) }).maintBegin 0 a.unit a.byHost
  | 1 => s.rotBegin a.unit
  | 2 => s.visitBegin a.unit a.byHost
  | 4 => (s.retrainBegin a.unit).maintBegin 4 a.unit a.byHost
  | 5 => s.compactStep
  | 7 => s.laneRestart a.unit
  | c => s.maintBegin c a.unit a.byHost

/-- A start through MAINT_CTRL or by the firmware (R301, R420, R421): the state and a status of R10. -/
def State.maintStart (s : State) (code unit : Nat) (byHost : Bool) : State × Nat :=
  if maintUnits code ≤ unit then (s, stBadParam)
  else if code = 7 ∧ s.laneMayRetrain unit = false then (s, stDenied)
  else if code = 1 ∧ s.get P.ROT_STATUS_STATE unit = 8 then (s, stDenied)
  else
    match s.maintJudge code unit with
    | .run | .suspend =>
      ({ s with core := { s.core with soon := s.core.soon ++ [(⟨code, unit, byHost, s.time.now, false, 0⟩ : Act)] } }, stOk)
    | .defer => (s.maintDefer code unit byHost, stOk)
    | .interlock => (s.maintRefuse code, stInterlock)
    | .busy => (s, stBusy)

/-- MAINT_START (R420, R421): begins at the next span boundary where the matrix does not delay it. -/
def execMaintStart (t : Tm) (act : Fin 8) (unit : Nat) (byHost : Bool) (s : State) : Host.Outcome State Fault Refusal :=
  live t s fun s => if s.leased then (s.maintStart act unit byHost).1 else s

/-- A deferred start leaves the waiting ones. -/
def State.waitDrop (s : State) (a : Act) : State :=
  ({ s with core := { s.core with wait := s.core.wait.erase a } }).maintState a.code

/-- A deferred rotation may start (R75, R421): at a second boundary, where ROT_CFG permits one that the firmware scheduled, when no
visit of the tile is due, or after five deferrals. -/
def State.rotMay (s : State) (a : Act) : Bool :=
  s.time.last % secSt == 0 && (a.byHost || s.rotPermits a.unit) && (!s.visitsDue a.unit || decide (5 ≤ a.defers))

/-- MAINT_DEFERRED_START (R420 to R422): a deferred start is judged again at a span boundary. -/
def execMaintDeferredStart (t : Tm) (act : Fin 8) (unit : Nat) (s : State) : Host.Outcome State Fault Refusal :=
  live t s fun s =>
    match s.core.wait.find? fun a => a.code == act.val && a.unit == unit with
    | none => s
    | some a =>
      if !s.leased || decide (s.time.last + 2 * ccSt < s.time.now) then s
      else
        match s.maintJudge a.code a.unit with
        | .run | .suspend =>
          if a.code = 1 then
            (if s.time.last % secSt ≠ 0 then s
            else if !a.byHost && !s.rotPermits a.unit then s.waitDrop a
            else if s.rotMay a then s.maintGo a else s.maintDefer 1 a.unit a.byHost)
          else (s.waitDrop a).maintGo a
        | .defer => if a.code = 1 ∧ s.time.last % secSt ≠ 0 then s else s.maintDefer a.code a.unit a.byHost
        | .interlock => (s.waitDrop a).maintRefuse a.code
        | .busy => s.waitDrop a

end Sys2Proof.Machine
end

