-- ==== Sys2Proof/Machine/Security.lean ====
section
/-! DEFINITION. Security, identity and boot (chapter 20) and the recorder's mailbox commands: firmware slots and their
verification, owner settings, nonces and operator tokens, attestation, MRAM. -/

namespace Sys2Proof

/-- The first `n` bytes, filled with zeros. -/
def Machine.fit (n : Nat) (b : List Byte) : List Byte := (b ++ List.replicate n 0).take n

/-- The 3,888 bytes of a signature block, in their order (R463). -/
def SigBlock.bytes (b : SigBlock) : List Byte :=
  Machine.fit 96 b.vEcdsa ++ Machine.fit 1772 b.vLms ++ Machine.fit 96 b.oEcdsaPub ++ Machine.fit 96 b.oEcdsa
    ++ Machine.fit 56 b.oLmsPub ++ Machine.fit 1772 b.oLms

/-- Mark of a header (R462). -/
def Image.mark (v : Image) : Nat := Machine.field v.header 0 4
/-- Header version (R462). -/
def Image.hversion (v : Image) : Nat := Machine.field v.header 4 4
/-- Firmware version (R401, R462). -/
def Image.version (v : Image) : Nat := Machine.field v.header 8 3
/-- OWNER_RELEASE (R462, R469). -/
def Image.ownerRelease (v : Image) : Bool := Machine.bitOf (Machine.field v.header 12 4) 0
/-- Body bytes (R462). -/
def Image.bodyLen (v : Image) : Nat := Machine.field v.header 16 4
/-- Security version number (R462). -/
def Image.svn (v : Image) : Nat := Machine.field v.header 20 2
/-- The device an image is bound to; 0 any (R462). -/
def Image.bind (v : Image) : Nat := Machine.field v.header 24 8
/-- The digest of the body that a header names (R462). -/
def Image.digest (v : Image) : List Byte := Machine.fit 48 ((v.header.drop 32).take 48)

end Sys2Proof

namespace Sys2Proof.Machine

/-! ### Firmware slots (R459, R464 to R466, R469) -/

/-- Firmware slot `i`: 0 A, 1 B. -/
def State.slotOf (s : State) (i : Nat) : Slot := Tbl.get Slot.reset s.sec.slot i

/-- Set a slot; SEC_STATUS shows its verdict. -/
def State.setSlot (s : State) (i : Nat) (x : Slot) : State :=
  let s1 := { s with sec := { s.sec with slot := Tbl.set Slot.reset s.sec.slot i x } }
  if i = 0 then s1.putB P.SEC_STATUS_A_OK 0 x.ok else s1.putB P.SEC_STATUS_B_OK 0 x.ok

/-- OWNER_REQUIRE in force. -/
def State.ownerRequired (s : State) : Bool := s.flag P.SEC_CFG_OWNER_REQUIRE 0
/-- OWNER_LOCK in force. -/
def State.ownerLocked (s : State) : Bool := s.flag P.SEC_CFG_OWNER_LOCK 0

/-- Checks 1 to 4 of R464 pass: mark, header version and body length; binding; svn; digest of the body. -/
def State.headOk (s : State) (v : Image) : Bool :=
  v.mark == 0x46574C59 && v.hversion == 1 && decide (v.bodyLen ≤ 4190160) && v.bodyLen % 8 == 0
    && (v.bind == 0 || v.bind == s.get P.FAB_ID_ID 0) && decide (s.get P.SEC_SVN_MIN 0 ≤ v.svn)
    && fit 48 v.crypto.body == v.digest

/-- The digests of an image's owner keys are those in force (R464). -/
def State.ownerKeys (s : State) (v : Image) : Bool :=
  ((upTo 6).all fun i => field v.crypto.ecdsaDig (8 * i) 8 == s.get P.OWNER_ECDSA_DIG_WORD i)
    && (upTo 4).all fun i => field v.crypto.lmsDig (8 * i) 8 == s.get P.OWNER_LMS_DIG_WORD i

/-- An image carries an owner pair that verifies under the digests in force (R464, R468). -/
def State.ownerPair (s : State) (v : Image) : Bool := s.ownerKeys v && v.crypto.oEcdsa && v.crypto.oLms

/-- An image verifies (R464): its header and body, both vendor signatures, and the owner pair where it is required; without that
the owner fields are not read. -/
def State.verifies (s : State) (v : Image) : Bool :=
  s.headOk v && v.crypto.vEcdsa && v.crypto.vLms && (!s.ownerRequired || s.ownerPair v)

/-- The signature checks of a verification, in order (R463, R464): all cover the header, ECDSA by its SHA-384; the first check
that fails ends it. -/
def State.sigAsks (s : State) (v : Image) : List SigAsk :=
  let h := fit 256 v.header
  let hash := Config.sha384 h
  let part (off n : Nat) : List Byte := (v.sigs.bytes.drop off).take n
  if s.headOk v = false then [] else
  ⟨Config.vendorKeys.1, hash, part 0 96⟩ :: if v.crypto.vEcdsa = false then [] else
  ⟨Config.vendorKeys.2, h, part 96 1772⟩ :: if !v.crypto.vLms || !s.ownerRequired || !s.ownerKeys v then [] else
  ⟨part 1868 96, hash, part 1964 96⟩ :: if v.crypto.oEcdsa = false then [] else
  [⟨part 2060 56, h, part 2116 1772⟩]

/-- The crypto engine verifies images in turn. -/
def State.askSigs (s : State) (l : List Image) : State := { s with sec := { s.sec with asked := l.flatMap s.sigAsks } }

/-- The slot as a verification records it (R465, R466). -/
def State.slotVerdict (s : State) (v : Image) : Slot :=
  { ok := s.verifies v, image := v, digest := Config.sha384 (fit 256 v.header) }

/-- The running firmware came from a slot. -/
def State.slotRuns (s : State) (i : Nat) : Bool := s.core.booted == i + 1

/-- An image is loaded into a slot (R394, R466): marked invalid, read by DMA, verified. Answers a status of R10. -/
def State.loadSlot (s : State) (i bytes : Nat) (v : Image) (read : ReadEnd) : State × Nat :=
  if s.slotRuns i then (s, stDenied) else
  let s1 := s.setSlot i Slot.reset
  if read ≠ .ok then (s1.readFail read, stTimeout)
  else
    let s2 := (s1.dmaGot bytes).askSigs [v]
    if s2.verifies v then (s2.setSlot i (s2.slotVerdict v), stOk)
    else ((s2.bump P.SEC_STATUS_LOAD_FAILS 0).raise 238, stCheckFail)

/-- FW_LOAD (R394, R398, R466): a 4 KiB aligned host address and at most 4 MiB. -/
def execFwLoad (t : Tm) (mb : Mb) (cmd : Cmd) (image : Image) (read : ReadEnd) (s : State) : Host.Outcome State Fault Refusal :=
  live t s fun s => s.command mb cmd 24 fun s _ =>
    let slot := field cmd.payload 0 1
    let addr := field cmd.payload 8 8
    let bytes := field cmd.payload 16 8
    if 2 ≤ slot ∨ addr % 4096 ≠ 0 ∨ 4194304 < bytes then s.ends stBadParam
    else
      let p := s.loadSlot slot bytes image read
      if p.2 = stOk then p.1.gives bytes else p.1.ends p.2

/-- SLOT_SELECT (R398): the boot slot from the next boot on. -/
def execSlotSelect (t : Tm) (mb : Mb) (cmd : Cmd) (s : State) : Host.Outcome State Fault Refusal :=
  live t s fun s => s.command mb cmd 1 fun s _ =>
    let slot := field cmd.payload 0 1
    if 2 ≤ slot then s.ends stBadParam else (s.put P.SEC_STATUS_BOOT_SEL 0 slot).gives 0

/-- The owner is released by an image that starts (R469). -/
def State.ownerRelease (s : State) : State :=
  let s1 := ((s.putB P.SEC_CFG_OWNER_LOCK 0 false).putB P.SEC_CFG_OWNER_REQUIRE 0 false).putB P.SEC_STATUS_OWNER_LOCKED 0 false
  let s2 := s1.putB P.SEC_STATUS_OWNER_REQUIRED 0 false
  let s3 := s2.each (upTo 6) fun s i => s.put P.OWNER_ECDSA_DIG_WORD i 0
  (s3.each (upTo 4) fun s i => s.put P.OWNER_LMS_DIG_WORD i 0).raise 240

/-- The firmware of a slot starts (R361, R465, R469). -/
def State.bootFrom (s : State) (i : Nat) : State :=
  let x := s.slotOf i
  let released := x.image.ownerRelease && s.ownerRequired
  let s1 : State := { s with
    core := { s.core with booted := i + 1 }, host := { s.host with fwSlot := i + 1, fwVersion := x.image.version } }
  let s2 := (s1.put P.SEC_STATUS_RUNNING 0 i).put P.SEC_SVN_RUNNING 0 x.image.svn
  if released then s2.ownerRelease else s2

/-- BOOT_VERIFY (R409, R465): the boot slot, else the other one, starts; where neither verifies, abutment mode. -/
def execBootVerify (t : Tm) (slotA slotB : Image) (s : State) : Host.Outcome State Fault Refusal :=
  live t s fun s =>
    if s.core.booted ≠ 0 ∨ s.leased = true ∨ s.abut = true ∨ s.pwr.refWait = true then s else
    let sel := s.get P.SEC_STATUS_BOOT_SEL 0
    let s1 := ((s.setSlot 0 (s.slotVerdict slotA)).setSlot 1 (s.slotVerdict slotB)).askSigs
      (if sel = 0 then [slotA, slotB] else [slotB, slotA])
    if (s1.slotOf sel).ok then (s1.putB P.SEC_STATUS_FALLBACK 0 false).bootFrom sel
    else if (s1.slotOf (1 - sel)).ok then ((s1.putB P.SEC_STATUS_FALLBACK 0 true).raise 237).bootFrom (1 - sel)
    else s1.abutEnter 2

/-! ### SVN and owner settings (R467, R468) -/

/-- SVN_COMMIT (R467): MIN rises to the running svn; a slot below it loses its verdict. -/
def State.svnCommit (s : State) : State :=
  let min := max (s.get P.SEC_SVN_MIN 0) (s.get P.SEC_SVN_RUNNING 0)
  (s.put P.SEC_SVN_MIN 0 min).each [0, 1] fun s i =>
    let x := s.slotOf i
    if x.ok && decide (x.image.svn < min) then s.setSlot i { x with ok := false } else s

/-- A write of OWNER_REQUIRE (R468): the state and a status of R10. -/
def State.ownerRequire (s : State) (on : Bool) : State × Nat :=
  if s.ownerLocked then (s, stDenied)
  else if on && !(0 < s.core.booted && s.ownerPair (s.slotOf (s.core.booted - 1)).image) then (s, stDenied)
  else if s.ownerRequired = on then (s, stOk)
  else (((s.putB P.SEC_CFG_OWNER_REQUIRE 0 on).putB P.SEC_STATUS_OWNER_REQUIRED 0 on).raise 240, stOk)

/-- A write of 1 to OWNER_LOCK (R468). -/
def State.ownerLock (s : State) : State × Nat :=
  if !s.ownerRequired then (s, stDenied)
  else if s.ownerLocked then (s, stOk)
  else (((s.putB P.SEC_CFG_OWNER_LOCK 0 true).putB P.SEC_STATUS_OWNER_LOCKED 0 true).raise 240, stOk)

/-- SVN_COMMIT (R23, R467): a write of the MRAM store, which only the lease holder makes. -/
def execSvnCommit (t : Tm) (s : State) : Host.Outcome State Fault Refusal :=
  live t s fun s => if s.leased then s.svnCommit else s.deny

/-- OWNER_REQUIRE_WRITE (R23, R468). -/
def execOwnerRequireWrite (t : Tm) (value : Bool) (s : State) : Host.Outcome State Fault Refusal :=
  live t s fun s => if s.leased then (s.ownerRequire value).1 else s.deny

/-- OWNER_LOCK_WRITE (R23, R468). -/
def execOwnerLockWrite (t : Tm) (s : State) : Host.Outcome State Fault Refusal :=
  live t s fun s => if s.leased then s.ownerLock.1 else s.deny

/-! ### Nonces and operator tokens (R475, R476) -/

/-- The nonce of a mailbox. -/
def State.nonceOf (s : State) (m : Nat) : Option Nonce := Tbl.get none s.sec.nonce m
/-- Set the nonce of a mailbox. -/
def State.setNonce (s : State) (m : Nat) (x : Option Nonce) : State :=
  { s with sec := { s.sec with nonce := Tbl.set none s.sec.nonce m x } }

/-- NONCE (R475): 48 fresh bytes; it replaces the mailbox's nonce and expires 60 s later. -/
def execNonce (t : Tm) (mb : Mb) (cmd : Cmd) (s : State) : Host.Outcome State Fault Refusal :=
  live t s fun s => s.command mb cmd 0 fun s w =>
    let bytes := (upTo 48).map fun i => Config.entropy s.free i
    (s.fresh.setNonce w.mb (some ⟨bytes, s.time.now + 60 * secSt⟩)).answers bytes

/-- NONCE_EXPIRE (R475). -/
def execNonceExpire (t : Tm) (mb : Mb) (s : State) : Host.Outcome State Fault Refusal :=
  live t s fun s =>
    match s.nonceOf mb with
    | some n => if n.until_ ≤ s.time.now then s.setNonce mb none else s
    | none => s

/-- A key identifier as an operator key slot holds it. -/
def State.operKey (s : State) (i : Nat) : List Byte := le 8 (s.get P.OPER_KEY_LO_ID i) ++ le 8 (s.get P.OPER_KEY_HI_ID i)

/-- A token is valid (R476); `sigOk` is the outcome of the signature check. -/
def State.tokenValid (s : State) (m : Nat) (token : List Byte) (sigOk : Bool) : Bool :=
  let key := token.take 16
  key == (Config.sha384 ((token.drop 16).take 96)).take 16 && ofLe key != 0 && ((upTo 4).any fun i => s.operKey i == key)
    && (match s.nonceOf m with | some n => decide (s.time.now < n.until_) | none => false) && sigOk

/-- A token is presented on a mailbox (R475, R476): the nonce is consumed; a refused one raises source 239. -/
def State.token (s : State) (m : Nat) (token : List Byte) (sigOk : Bool) : State × Bool :=
  let s1 := s.setNonce m none
  if s.tokenValid m token sigOk then (s1.bump P.SEC_TOKENS_ACCEPTED 0, true)
  else ((s1.bump P.SEC_TOKENS_REFUSED 0).raise 239, false)

/-! ### Attestation (R472 to R474) -/

/-- HSS indices in all (R470). -/
def hssCount : Nat := 2 ^ 30

/-- The rate of reports, in reports × secSt (R473). -/
def State.attestLevel (s : State) : Nat :=
  if s.sec.burstUsed then min (16 * secSt) (s.sec.burst + (s.time.now - s.sec.burstAt)) else 16 * secSt

/-- The crypto engine takes the next HSS index (R474): the ring advances before the signature is released. -/
def State.hssTake (s : State) : State :=
  let q := s.get P.SEC_HSS_NEXT 0
  let s1 := { s with sec := { s.sec with hssRing := Tbl.set (0, true) s.sec.hssRing ((q + 1) % 256) (q + 1, true) } }
  let s2 := s1.put P.SEC_HSS_NEXT 0 (q + 1)
  let told (n : Nat) : State := ({ s2 with sec := { s2.sec with hssTold := n } }).raise 241
  if hssCount ≤ q + 1 ∧ s2.sec.hssTold < 2 then told 2
  else if hssCount - (q + 1) < 2 ^ 24 ∧ s2.sec.hssTold < 1 then told 1
  else s2

/-- The bytes of a configuration store copy, as its digest covers them (log entry 55). -/
def Store.image (x : Store) : List Byte := le 4 x.version ++ x.regs.flatMap fun e => le 4 e.1 ++ le 8 e.2.toNat

/-- The digest of the copy last saved or loaded (R472). -/
def State.configDigest (s : State) : List Byte :=
  match s.sec.lastCopy with
  | some i => fit 48 (Config.sha384 (Tbl.get Store.reset s.sec.store i).image)
  | none => List.replicate 48 0

/-- Bytes 0 to 255 of a report, which both signatures cover (R472). -/
def State.reportHead (s : State) (hostNonce : List Byte) (q : Nat) : List Byte :=
  let flags := b2n s.ownerRequired + 2 * b2n s.ownerLocked + 4 * s.get P.SEC_STATUS_FALLBACK 0 + 8 * b2n s.sec.dirty
  let running := s.slotOf (s.core.booted - 1)
  le 4 0x53545441 ++ [1, BitVec.ofNat 8 flags, BitVec.ofNat 8 s.host.grade, BitVec.ofNat 8 s.core.booted]
    ++ le 8 (s.get P.FAB_ID_ID 0) ++ fit 48 hostNonce ++ fit 48 Config.romDigest ++ fit 48 running.digest ++ s.configDigest
    ++ le 3 s.host.fwVersion ++ List.replicate 5 0 ++ le 2 (s.get P.SEC_SVN_MIN 0) ++ le 2 (s.get P.SEC_SVN_RUNNING 0) ++ le 4 q
    ++ le 8 (tbNs s.time.now) ++ le 2 s.time.epoch ++ List.replicate 22 0

/-- A signed report; the appendix follows where the response goes to an address (R472). -/
def State.report (s : State) (hostNonce : List Byte) (q : Nat) (appendix : Bool) : List Byte :=
  let head := s.reportHead hostNonce q
  let body := head ++ fit 96 (Config.ecdsaSign head) ++ fit 3284 (Config.hssSign q head)
  if appendix then pad8 (body ++ le 4 Config.certificate.length ++ Config.certificate) else body

/-- ATTEST (R472 to R474). -/
def execAttest (t : Tm) (mb : Mb) (cmd : Cmd) (s : State) : Host.Outcome State Fault Refusal :=
  live t s fun s => s.command mb cmd 48 fun s _ =>
    let q := s.get P.SEC_HSS_NEXT 0
    let level := s.attestLevel
    if s.sec.keyLost || decide (hssCount ≤ q) then s.ends stNoResource
    else if level < secSt then s.ends stBusy
    else
      let r := s.report (cmd.payload.take 48) q (cmd.respAddr != 0)
      let s1 : State := { s with sec := { s.sec with burst := level - secSt, burstAt := s.time.now, burstUsed := true } }
      ⟨s1.hssTake, stOk, BitVec.ofNat 64 r.length, r, false⟩

/-! ### The event recorder's commands (R454, R456) -/

/-- REC_READ (R454): whole records in index order, up to the byte count asked for. -/
def execRecRead (t : Tm) (mb : Mb) (cmd : Cmd) (s : State) : Host.Outcome State Fault Refusal :=
  live t s fun s => s.command mb cmd 12 fun s _ =>
    let all := s.recReadable (field cmd.payload 0 8)
    let out := takeRecs all (field cmd.payload 8 4)
    let next := if out.length < all.length then (match out.getLast? with | some r => r.index + 1 | none => field cmd.payload 0 8)
      else (Regs.word s.regs P.REC_NEXT_INDEX_INDEX 0).toNat
    ⟨s, stOk, BitVec.ofNat 64 next, out.flatMap LogRec.encode, false⟩

/-- The clear records that segment 63 holds (R456). -/
def clearMax : Nat := 1170

/-- REC_CLEAR (R456, R476): refused with DENIED on an invalid token, with NO_SPACE when segment 63 is full. -/
def execRecClear (t : Tm) (mb : Mb) (cmd : Cmd) (sigOk : Bool) (s : State) : Host.Outcome State Fault Refusal :=
  live t s fun s => s.command mb cmd 208 fun s w =>
    let token := cmd.payload.take 208
    let p := s.token w.mb token sigOk
    if !p.2 then p.1.ends stDenied
    else if clearMax ≤ p.1.recd.clears.length then p.1.ends stNoSpace
    else
      let c := p.1.recClear (token.take 16)
      c.1.gives c.2

/-! ### The MRAM scrubber (R461) -/

/-- What an uncorrectable MRAM word means by its place (R461). -/
def State.mramLost (s : State) (loc : MramWhere) : State :=
  match loc with
  | .slot b => let i := b2n b; s.setSlot i { s.slotOf i with ok := false }
  | .config b => let i := b2n b
    { s with sec := { s.sec with store := Tbl.mod Store.reset s.sec.store i fun x => { x with valid := false } } }
  | .log idx =>
    let keep (r : LogRec) : Bool := r.index != idx
    let s1 : State := { s with
      recd := { s.recd with
        segs := s.recd.segs.map fun x => (x.1, x.2.filter keep), audit := s.recd.audit.filter keep,
        clears := s.recd.clears.filter keep },
      sec := { s.sec with mramBad := s.sec.mramBad ++ [idx] } }
    s1.recOldest
  | .key lost =>
    if lost then (({ s with sec := { s.sec with keyLost := true } }).putB P.SEC_STATUS_KEY_LOST 0 true).raise 241 else s
  | .hss w =>
    let old := Tbl.get (0, true) s.sec.hssRing w.val
    { s with sec := { s.sec with hssRing := Tbl.set (0, true) s.sec.hssRing w.val (old.1, false) } }
  | .spare => s

/-- Words of the MRAM that a scrub pass reads in 24 h (R425, R461). -/
def mramWords : Nat := 2097152

/-- MRAM_SCRUB_READ (R461, R492): 0 clean, 1 corrected and written back, 2 uncorrectable; the word's address is a free value.
The reads of a pass lie evenly in 24 h; the scrubber pauses while throttled. -/
def execMramScrubRead (t : Tm) (loc : MramWhere) (result : Fin 3) (s : State) : Host.Outcome State Fault Refusal :=
  live t s fun s =>
    if s.flag P.THERM_STATUS_THROTTLED 0 || decide (s.time.now < s.sec.scrubDue) then s else
    let s : State := { s with sec := { s.sec with scrubDue := paced s.sec.scrubDue (24 * hourSt / mramWords) s.time.now } }
    match result with
    | 0 => s
    | 1 => s.memCe 18
    | 2 => (s.fresh.memUe 18 (Config.unstated 7 [s.free] % 2 ^ 24)).mramLost loc

end Sys2Proof.Machine
end

