-- ==== Sys2Proof/Machine/Mem.lean ====
section
/-! DEFINITION. On-chip memories (chapter 18): the SRAM scrubber, the checker test mode and the one-shot error. -/

namespace Sys2Proof.Machine

/-! ### The SRAM scrubber (R428, R430, R431) -/

/-- Memories that the scrubber reads (R425). -/
def scrubbed (m : Nat) : Bool := decide (m ≤ 5) || m == 12

/-- Words in one pass of the scrubber (R430). -/
def scrubWords : Nat := 393216

/-- An uncorrectable word of a pier's memory found by the scrubber (R428): the pier's word shows a fault; an active pier with a
synchronised standby hands over, else the recorder logs the word. -/
def State.pierWordBad (s : State) (i addr : Nat) : State :=
  let s1 := s.modPier i fun p => { p with word := p.word % 2 ^ 24 + max 1 (p.word / 2 ^ 24) * 2 ^ 24 }
  if s1.core.holder ≠ i + 1 then s1
  else if s1.core.sync then { s1 with core := { s1.core with handing := true, handAfter := s1.time.next } }
  else ({ s1 with core := { s1.core with fwFault := true } }).log 0x0F04 6 (le 8 addr)

/-- A word of the configuration SRAM is uncorrectable: which waiting value it holds the spec does not state (R428; log
entry 56). -/
def State.configWordBad (s : State) (addr : Nat) : State :=
  let ids := (s.time.staged ++ s.time.pend).map (·.id)
  match ids[Config.unstated 8 [addr] % max 1 ids.length]? with
  | some id => { s with mem := { s.mem with badWords := s.mem.badWords ++ [id] } }
  | none => s

/-- The standby discards a bank and answers its mark as refused (R414, R428). -/
def State.bankBad (s : State) : State :=
  match s.core.mark with
  | some b =>
    if 2 ≤ s.core.refused + 1 then s.unsync.commit b
    else { s with core := { s.core with mark := none, refused := s.core.refused + 1 } }
  | none => s

/-- What an uncorrectable scrub read means by memory (R428). -/
def State.scrubBad (s : State) (m addr : Nat) : State :=
  let s1 := s.memUe m addr
  if m < 4 then s1.pierWordBad (m / 2) addr
  else if m = 4 then s1.configWordBad addr
  else if m = 5 then s1.bankBad
  else s1

/-- SRAM_SCRUB_READ (R428, R430, R431, R492): 0 clean, 1 corrected, 2 uncorrectable. A write to the word between the read and
the write-back cancels the write-back; the correction counts all the same. The reads of a pass lie evenly in PERIOD_MS; the
scrubber pauses while throttled. -/
def execSramScrubRead (t : Tm) (memory : Fin 19) (addr : Nat) (result : Fin 3) (_written : Bool) (s : State) :
    Host.Outcome State Fault Refusal :=
  live t s fun s =>
    if !scrubbed memory || !s.flag P.MEM_SCRUB_ENABLE 0 || s.flag P.THERM_STATUS_THROTTLED 0 || decide (s.time.now < s.mem.scrubDue) then s else
    let n := s.mem.scrubAt + 1
    let s1 : State := { s with mem := { s.mem with
      scrubAt := if scrubWords ≤ n then 0 else n,
      scrubDue := paced s.mem.scrubDue (s.get P.MEM_SCRUB_PERIOD_MS 0 * msSt / scrubWords) s.time.now } }
    let s2 := if scrubWords ≤ n then s1.bump P.MEM_SCRUB_STATUS_PASSES 0 else s1
    match result with
    | 0 => s2
    | 1 => s2.memCe memory
    | 2 => s2.scrubBad memory addr

/-! ### The checker test mode (R432, R433) -/

/-- The check bits a memory keeps per word: 5 per byte, or 8 (R426, R433). -/
def checkBits (m : Nat) : Nat := if m ≤ 4 then 40 else 8

/-- A test-row word and its check bits (R432). -/
def State.testWord (s : State) (m w : Nat) : Nat × Nat := Tbl.get (0, 0) s.mbox.testRow (m * 8 + w)

/-- The decode of raw data and check bits: the spec does not lay the code out, so the result is a free value (log entry 56). -/
def rawDecode (m data check : Nat) : Nat := Config.unstated 9 [checkBits m, data, check] % 3

/-- The response of a raw access (R433). -/
def State.rawAnswer (s : State) (m w : Nat) : List Byte :=
  let x := s.testWord m w
  let d := rawDecode m x.1 x.2
  let pos := if d = 1 then Config.unstated 10 [checkBits m, x.1, x.2] % 104 else 0xFF
  le 8 x.1 ++ le 8 x.2 ++ [BitVec.ofNat 8 d, BitVec.ofNat 8 pos] ++ List.replicate 6 0

/-- Memories that an inject may name (R434). -/
def injectable (m : Nat) : Bool := (decide (6 ≤ m) && decide (m ≤ 10)) || m == 13 || m == 14

/-- The test that follows the token (R432 to R434). -/
def State.checkerTest (s : State) (d : List Byte) : Done :=
  let op := field d 0 1
  let m := field d 1 1
  let w := field d 4 4
  if op = 0 ∨ 3 < op ∨ 16 < m then s.ends stBadParam
  else if op = 3 then
    if !injectable m then s.ends stDenied
    else if s.mbox.injected.isSome then s.ends stBusy
    else
      let s1 := { s with mbox := { s.mbox with injected := some (m, w, field d 24 8) } }
      ((s1.putB P.MEM_INJECT_ARMED 0 true).put P.MEM_INJECT_MEMORY 0 m).answers (List.replicate 24 0)
  else if 7 < w then s.ends stBadParam
  else if op = 1 then
    let x := (field d 8 8, field d 16 8 % 2 ^ checkBits m)
    let s1 := { s with mbox := { s.mbox with testRow := Tbl.set (0, 0) s.mbox.testRow (m * 8 + w) x } }
    s1.answers (s1.rawAnswer m w)
  else s.answers (s.rawAnswer m w)

/-- CHECKER_TEST (R432, R476): an invalid token is refused with DENIED. -/
def State.checker (s : State) (mb : Mb) (cmd : Cmd) (sigOk : Bool) : State :=
  s.command mb cmd 240 fun s w =>
    let p := s.token w.mb (cmd.payload.take 208) sigOk
    if p.2 then p.1.checkerTest ((cmd.payload.drop 208).take 32) else p.1.ends stDenied

/-- CHECKER_WRITE_RAW (R432, R433): op 1; the response reports a read of the word just written. -/
def execCheckerWriteRaw (t : Tm) (mb : Mb) (cmd : Cmd) (sigOk : Bool) (s : State) : Host.Outcome State Fault Refusal :=
  live t s fun s => s.checker mb cmd sigOk

/-- CHECKER_READ_RAW (R432, R433): op 2. -/
def execCheckerReadRaw (t : Tm) (mb : Mb) (cmd : Cmd) (sigOk : Bool) (s : State) : Host.Outcome State Fault Refusal :=
  live t s fun s => s.checker mb cmd sigOk

/-- CHECKER_INJECT (R434): op 3. -/
def execCheckerInject (t : Tm) (mb : Mb) (cmd : Cmd) (sigOk : Bool) (s : State) : Host.Outcome State Fault Refusal :=
  live t s fun s => s.checker mb cmd sigOk

/-! ### The armed error (R434) -/

/-- Where the newest record of a queue memory stands (R434): a byte position in the egress and the monitoring queue, else the
records that will be read before it; none where the queue holds no record. -/
def State.newestAt (s : State) (m : Nat) : Option Nat :=
  let count (n : Nat) : Option Nat := if n = 0 then none else some (n - 1)
  match m with
  | 6 => count (s.seam.input.map fun e => (e.2.q.filter fun r => !r.spilled).length).sum
  | 7 => s.ctx.egress.getLast?.map (·.pos)
  | 8 => count s.trg.buf.length
  | 9 => s.ctx.mon.getLast?.map (·.pos)
  | 10 => count (s.ctx.c.map fun e => e.2.inbound.length).sum
  | 13 => count (s.deck.blocks.length + s.deck.snips.length)
  | _ => some 0

/-- Bits set in a 64-bit value. -/
def popCount (v : Nat) : Nat := ((upTo 64).filter fun i => v.testBit i).length

/-- INJECT_APPLY (R434): the next functional write to the word inverts the flip bits after the code is computed; the arming
clears. One bit gives a corrected error, two or more an uncorrectable one. -/
def execInjectApply (t : Tm) (s : State) : Host.Outcome State Fault Refusal :=
  live t s fun s =>
    match s.mbox.injected with
    | none => s
    | some (m, w, flip) =>
      let s1 := ({ s with mbox := { s.mbox with injected := none } }).putB P.MEM_INJECT_ARMED 0 false
      match s1.newestAt m with
      | some at_ =>
        if popCount flip = 0 then s1
        else { s1 with mem := { s1.mem with flaws := s1.mem.flaws ++ [(⟨m, at_, w, decide (2 ≤ popCount flip)⟩ : Flaw)] } }
      | none => s1

end Sys2Proof.Machine
end

