-- ==== Sys2Proof/Machine/Settings.lean ====
section
/-! DEFINITION. The parameter commands and the other commands that change settings (chapters 13 and 16): PARAM_GET, PARAM_SET,
PARAM_SET_MULTI, SWAP_COMMIT, the configuration store, TIME_STEP and SCHEDULE. -/

namespace Sys2Proof.Machine

/-! ### PARAM_GET (R309, R395) -/

/-- What reading a parameter does beside answering (R309): the time latch, and peaks that hold "since read". -/
def State.readEffect (s : State) (n : Named) : State :=
  let i := n.inst
  if n.par.pid = P.TIME_NOW_NS_TIME_NS.pid then
    (s.put P.TIME_NOW_X_EPOCH 0 s.time.epoch).put P.TIME_NOW_X_STITCH 0 (tbStitch s.time.now)
  else if n.par.pid = P.DDR_REFRESH_DEBT_PEAK.pid then s.put P.DDR_REFRESH_DEBT_PEAK i (s.get P.DDR_REFRESH_DEBT i)
  else if n.par.pid = P.EGRESS_STATUS_PEAK_KIB.pid then s.put P.EGRESS_STATUS_PEAK_KIB 0 (s.get P.EGRESS_STATUS_USED_KIB 0)
  else if n.par.pid = P.THIMBLE_STATUS_POOL_PEAK_KIB.pid then s.put P.THIMBLE_STATUS_POOL_PEAK_KIB 0 (ceilDiv s.poolUse 16)
  else if n.par.pid = P.POWER_EST_POWER.pid then s.fresh
  else s

/-- The value a get returns (R6, R395): TIME_NOW_NS is the present time, TRIM_NOW the code of the present step of a ramp (R43),
GAUGE_STATUS.RUNNING that of the present instant (R106); the power estimate is a free value (R490). -/
def State.readValue (s : State) (n : Named) (id : Nat) : W64 :=
  if n.par.pid = P.TIME_NOW_NS_TIME_NS.pid then BitVec.ofNat 64 (tbNs s.time.now)
  else if n.par.pid = P.POWER_EST_POWER.pid then BitVec.ofNat 64 (Config.unstated 11 [s.free] % 65536)
  else if n.par.pid = P.TRIM_NOW_CODE.pid then BitVec.ofNat 64 (s.trimNow n.inst)
  else if n.par.pid = P.GAUGE_STATUS_RUNNING.pid then P.GAUGE_STATUS_RUNNING.put (s.shadow n.par id) (b2n (s.gaugeRuns n.inst))
  else s.shadow n.par id

/-- One entry of a get: the state, its status and its value (R395). -/
def State.getOne (s : State) (id : Nat) : State × Nat × W64 :=
  match named id with
  | none => (s, stBadParam, 0)
  | some n => if n.inst = allInst then (s, stBadParam, 0) else (s.readEffect n, stOk, s.readValue n id)

/-- The entries of a get in listed order: state, first failing status, response. -/
def State.getAll (s : State) : List Nat → State × Nat × List Byte
  | [] => (s, stOk, [])
  | id :: ids =>
    let r := s.getOne id
    let rest := r.1.getAll ids
    (rest.1, if r.2.1 = stOk then rest.2.1 else r.2.1,
      le 4 id ++ [BitVec.ofNat 8 r.2.1, 0, 0, 0] ++ le 8 r.2.2.toNat ++ rest.2.2)

/-- PARAM_GET (R395). -/
def execParamGet (t : Tm) (mb : Mb) (cmd : Cmd) (s : State) : Host.Outcome State Fault Refusal :=
  live t s fun s => s.command mb cmd (8 + 4 * field cmd.payload 0 2) fun s _ =>
    let n := field cmd.payload 0 2
    if n = 0 ∨ 254 < n then s.ends stBadParam
    else
      let r := s.getAll ((upTo n).map fun i => field cmd.payload (8 + 4 * i) 4)
      ⟨r.1, r.2.1, 0, r.2.2, false⟩

/-! ### One set (R325, R326, R396) -/

/-- One entry of a set: identifier, value, mask (R396). -/
structure Entry where
  id : Nat
  value : W64
  mask : W64
  deriving DecidableEq, Repr

/-- The entry at an offset of a payload (R396). -/
def Entry.parse (p : List Byte) (off : Nat) : Entry :=
  ⟨field p off 4, BitVec.ofNat 64 (field p (off + 8) 8), BitVec.ofNat 64 (field p (off + 16) 8)⟩

/-- A mask covers a field. -/
def covers (mask : W64) (f : Fld) : Bool := f.mask &&& mask != 0

/-- The first time_ns that no time may reach (R307). -/
def timeLimit : Nat := 18446744073 * 1000000000

/-- Parameters whose write is stored by an operation of their own. -/
def ownStore : List Nat :=
  [P.SWAP_CFG_ARMED.pid, P.ACT_CFG_KIND.pid, P.LANE_LOOP_MODE.pid, P.PRBS_CFG_POLY.pid, P.SEC_CFG_SVN_COMMIT.pid]

/-- What a set of index `i` is refused for beside its value's range and its rules; OK where nothing stands against it. -/
def State.setDenied (s : State) (n : Named) (i : Nat) (mask bits new : W64) : Nat :=
  let pid := n.par.pid
  let free := s.get P.CTX_STATUS_STATE i == 0
  if (n.par.fields.any (Fld.has .rwm)) && s.loopClosed n.par i then stLoopClosed
  else if pid = P.TRIP_LIMIT_LIMIT.pid ∧ s.get P.TRIP_FUSED_FUSED i < P.TRIP_LIMIT_LIMIT.of new then stDenied
  else if pid = P.TRIP_STATUS_TRIPPED.pid ∧ P.TRIP_STATUS_TRIPPED.of bits = 1 ∧ s.tripClearable i = false then stDenied
  else if (pid = P.MAN_U_U.pid ∨ pid = P.HVSET_DUTY_DUTY.pid) ∧ s.tripped i = true then stDenied
  else if pid = P.LOOP_MODE_MODE.pid ∧ P.LOOP_MODE_MODE.of new = 1 ∧ s.tripped i = true then stDenied
  else if pid = P.ROT_CFG_ENABLE.pid ∧ covers mask P.ROT_CFG_ENABLE = true ∧ P.ROT_CFG_ENABLE.of new = 1
      ∧ s.get P.ROT_STATUS_STATE i = 8 then stDenied
  else if !free && (pid == P.CTX_FAB_DEST_ADDR.pid || pid == P.CTX_DDR_DEST_BASE_MIB.pid
      || (pid == P.CTX_CFG_DEST_KIND.pid && covers mask P.CTX_CFG_DEST_KIND)) then stDenied
  else if (pid = P.ACT_TIME_TIME_NS.pid ∨ pid = P.ACT_ARG_ARG.pid ∨ pid = P.ACT_PERIOD_NS.pid) ∧ (s.actOf i).armed = true then stBusy
  else if [P.OWNER_ECDSA_DIG_WORD.pid, P.OWNER_LMS_DIG_WORD.pid, P.OPER_KEY_LO_ID.pid, P.OPER_KEY_HI_ID.pid].contains pid
      && s.ownerLocked then stDenied
  else if pid = P.HK_URGENT_INPUT.pid ∧ P.HK_URGENT_INPUT.of bits = 22 ∧ P.HK_URGENT_AVG.of bits = 7 then stBadParam
  else if (pid = P.ACT_TIME_TIME_NS.pid ∨ pid = P.TOUT_START_TIME_NS.pid) ∧ timeLimit ≤ new.toNat then stBadParam
  else stOk

/-- A new word of an owner or operator setting: source 240 on a change (R468). -/
def State.ownerWrite (s : State) (old new : W64) : State := s.raiseIf (old != new) 240

/-- The parts of a write of SEC_CFG (R467, R468). -/
def State.secWrite (s : State) (mask bits : W64) : State × Nat :=
  let p1 : State × Nat :=
    if covers mask P.SEC_CFG_OWNER_REQUIRE then s.ownerRequire (P.SEC_CFG_OWNER_REQUIRE.of bits == 1) else (s, stOk)
  if p1.2 ≠ stOk then (s, p1.2) else
  let p2 := if P.SEC_CFG_OWNER_LOCK.of bits = 1 then p1.1.ownerLock else p1
  if p2.2 ≠ stOk then (s, p2.2)
  else (if P.SEC_CFG_SVN_COMMIT.of bits = 1 then p2.1.svnCommit else p2.1, stOk)

/-- What a set does at once beside storing its plain fields: the state, and a status or none where the command waits for a
peer. `old` and `new` are the word before and after, `bits` the value under the mask. -/
def State.setEffect (s : State) (n : Named) (i : Nat) (mask bits old new : W64) : State × Option Nat :=
  let pid := n.par.pid
  let done (p : State × Nat) : State × Option Nat := (p.1, some p.2)
  if pid = P.TRIP_LIMIT_LIMIT.pid then (s.sumEval i, some stOk)
  else if pid = P.TRIP_STATUS_TRIPPED.pid then
    (if P.TRIP_STATUS_TRIPPED.of bits = 1 ∧ s.tripped i = true then s.tripClear (Fin.ofNat 16 i) else s, some stOk)
  else if pid = P.CH_STATUS_BROKEN.pid then (if P.CH_STATUS_BROKEN.of bits = 1 then s.channelRestore i else s, some stOk)
  else if pid = P.HK_URGENT_INPUT.pid then
    let p := s.urgent i (P.HK_URGENT_INPUT.of bits) (P.HK_URGENT_AVG.of bits + 1) (P.HK_URGENT_SHIFT.of bits) none
    (p.1, some (if p.2 then stOk else stBusy))
  else if pid = P.LOOP_REP_N.pid then (s.modLp i fun l => { l with m := [] }, some stOk)
  else if pid = P.MAN_U_U.pid then (s.manWrite (Fin.ofNat 16 i), some stOk)
  else if pid = P.HVSET_DUTY_DUTY.pid then (s.dutyWrite (Fin.ofNat 16 i), some stOk)
  else if pid = P.CTX_CTRL_OP.pid then done (s.ctxOp i (P.CTX_CTRL_OP.of bits))
  else if pid = P.LANE_STATUS_FLAPPED.pid then
    (if P.LANE_STATUS_FLAPPED.of bits = 1 ∧ P.LANE_STATUS_FLAPPED.of old = 1 then s.laneRestart i else s, some stOk)
  else if pid = P.LANE_LOOP_MODE.pid then s.laneLoop i (new.toNat % 8)
  else if pid = P.PRBS_CFG_POLY.pid then done (s.prbsWrite i (new.toNat % 256))
  else if pid = P.PRBS_INJECT_ONE.pid then
    (if P.PRBS_INJECT_ONE.of bits = 1 ∧ s.flag P.PRBS_CFG_GEN_EN i = true then s.emit (.prbsError i) else s, some stOk)
  else if pid = P.MAINT_CTRL_UNIT.pid then
    if P.MAINT_CTRL_START.of bits = 1 then done (s.maintStart i (P.MAINT_CTRL_UNIT.of bits) true) else (s, some stOk)
  else if pid = P.SWAP_CFG_ARMED.pid then (s.writeArmed (new.toNat % 256), some stOk)
  else if pid = P.ACT_CFG_KIND.pid then done (s.armEntry i new.toNat)
  else if pid = P.SEC_CFG_SVN_COMMIT.pid then done (s.secWrite mask bits)
  else if [P.OWNER_ECDSA_DIG_WORD.pid, P.OWNER_LMS_DIG_WORD.pid, P.OPER_KEY_LO_ID.pid, P.OPER_KEY_HI_ID.pid].contains pid then
    (s.ownerWrite old new, some stOk)
  else (s, some stOk)

/-- The bits that a write clears by W1C, but for those that an operation of their own clears. -/
def Named.clears (n : Named) : W64 :=
  if n.par.pid = P.TRIP_STATUS_TRIPPED.pid then 0
  else if n.par.pid = P.CH_STATUS_BROKEN.pid then P.CH_STATUS_IMP_FAULT.mask
  else n.par.mask (Fld.has .w1c)

/-- The plain fields of index `i` take a value under a mask, W1C bits are cleared, and the write acts. -/
def State.storeEntry (s : State) (n : Named) (i : Nat) (e : Entry) : State × Option Nat :=
  let id := n.id i
  let cur := n.par.inTable s.regs id
  let bits := e.value &&& e.mask
  let plain := e.mask &&& n.par.mask fun f => f.acc == .rw || f.acc == .rwm
  let stored := if ownStore.contains n.par.pid then cur else mixBits cur e.value plain
  let s1 : State := { s with regs := n.par.setIn s.regs id (stored &&& ~~~ (bits &&& n.clears)) }
  s1.setEffect n i e.mask bits cur (mixBits cur e.value plain)

/-- The new word of an index: the old one is the pending value where one exists, else the value in force (R396). -/
def State.newWord (s : State) (n : Named) (i : Nat) (e : Entry) : W64 :=
  mixBits (s.shadow n.par (n.id i)) e.value (e.mask &&& n.par.mask Fld.keeps)

/-- An entry has swap-shadowed fields of what it names under its mask. -/
def Entry.shadowed (e : Entry) (n : Named) : Bool := e.mask &&& n.par.mask (Fld.has .rws) != 0

/-- What an accepted write of an index leaves beside its effect: the store is out of date, and swap-shadowed fields become
pending (R32, R324). -/
def State.instKeep (s : State) (n : Named) (cls : Nat) (e : Entry) (i : Nat) (new : W64) : State :=
  let s1 : State := { s with sec := { s.sec with dirty := s.sec.dirty || n.par.stored } }
  if e.shadowed n then s1.pendAt (n.id i) new cls (s.dueFor cls) else s1

/-- The checks of an entry on one index that come before its effect: a status of R10 (R326, R396). -/
def State.instCheck (s : State) (n : Named) (i cls : Nat) (e : Entry) : Nat :=
  let new := s.newWord n i e
  let bits := e.value &&& e.mask
  let denied := s.setDenied n i e.mask bits new
  let plain := e.mask &&& n.par.mask fun f => f.acc == .rw || f.acc == .rwm
  let writes := if e.shadowed n then [(⟨n.id i, new, cls, none⟩ : Pend)] else []
  let s1 : State := { s with regs := n.par.setIn s.regs (n.id i) (mixBits (n.par.inTable s.regs (n.id i)) e.value plain) }
  if denied ≠ stOk then denied
  else if !n.par.inRange (new ||| (bits &&& n.par.mask (Fld.has .wo))) e.mask then stBadParam
  else if e.shadowed n && s.twoSets (n.id i) cls then stBusy
  else if !((s1.combos (s.setOf cls) writes).all fun v => s.ruleOk v n.par.pid i n.word) then stBadParam
  else stOk

/-- What sets come to: the state that their entries leave one after the other, the status of the first that fails, the tile whose
urgent request that entry was refused, and whether a peer's answer is awaited. -/
structure SetRun where
  s : State
  status : Nat
  refused : Option Nat
  waits : Bool
  deriving DecidableEq, Repr

/-- An entry acts on one index: plain fields at once, swap-shadowed ones become pending (R324, R396). -/
def State.instSet (s : State) (n : Named) (cls : Nat) (e : Entry) (i : Nat) : SetRun :=
  let st := s.instCheck n i cls e
  if st ≠ stOk then ⟨s, st, none, false⟩ else
  let p := s.storeEntry n i e
  match p.2 with
  | some st =>
    if st ≠ stOk then ⟨s, st, if n.par.pid = P.HK_URGENT_INPUT.pid then some i else none, false⟩
    else ⟨p.1.instKeep n cls e i (s.newWord n i e), stOk, none, false⟩
  | none => ⟨p.1.instKeep n cls e i (s.newWord n i e), stOk, none, true⟩

/-- An entry acts on its indices in order, each judged with those before it in effect (R8, R326). -/
def State.instsSet (s : State) (n : Named) (cls : Nat) (e : Entry) (waits : Bool) : List Nat → SetRun
  | [] => ⟨s, stOk, none, waits⟩
  | i :: is =>
    let r := s.instSet n cls e i
    if r.status ≠ stOk then r else r.s.instsSet n cls e (waits || r.waits) is

/-- MB_CFG of indices 0, 1 and 4 belongs to BAR0 and the Keystone (R405). -/
def Named.mbRefused (n : Named) : Bool := n.par.pid == P.MB_CFG_ENABLE.pid && n.insts.any fun i => i == 0 || i == 1 || i == 4

/-- One entry of a set (R8, R396): what it names, and its effect on every index of it. -/
def State.entrySet (s : State) (cls : Nat) (e : Entry) : SetRun :=
  match named e.id with
  | none => ⟨s, stBadParam, none, false⟩
  | some n =>
    if 7 < cls || n.mbRefused || e.value &&& ~~~ n.par.mask (fun _ => true) != 0 then ⟨s, stBadParam, none, false⟩
    else if e.mask &&& n.par.mask Fld.writable = 0 then ⟨s, stDenied, none, false⟩
    else s.instsSet n cls e false n.insts

/-- An entry has swap-shadowed fields under its mask. -/
def Entry.swaps (e : Entry) : Bool := match named e.id with | some n => e.shadowed n | none => false

/-- The result of a set (R396): the boundary's time_ns, all ones for a held value, 0 for what takes effect at once. -/
def setResult (swaps : Bool) (due : Option Tm) : W64 :=
  if swaps then (match due with | some b => BitVec.ofNat 64 (tbNs b) | none => BitVec.allOnes 64) else 0

/-- Nothing of a refused set takes effect (R396); an urgent request refused with BUSY is counted (R82). -/
def State.setRefused (s : State) (r : SetRun) : State :=
  match r.refused with | some t => s.bump P.HK_STATUS_URGENT_REFUSED t | none => s

/-- PARAM_SET (R396). -/
def State.paramSet (s : State) (p : List Byte) : Done :=
  let e := Entry.parse p 0
  let cls := field p 4 1
  let r := s.entrySet cls e
  if r.status ≠ stOk then (s.setRefused r).ends r.status
  else ⟨r.s, stOk, setResult e.swaps (s.dueFor cls), [], r.waits⟩

/-- PARAM_SET (R6 to R8, R325, R326, R396, R405). -/
def execParamSet (t : Tm) (mb : Mb) (cmd : Cmd) (s : State) : Host.Outcome State Fault Refusal :=
  live t s fun s => s.command mb cmd 24 fun s _ => s.paramSet cmd.payload

/-! ### Several sets (R397) -/

/-- The entries act in listed order, each judged with those before it in effect, as far as one that fails: what they come to, and
the index of that one. -/
def State.entriesSet (s : State) (cls : Nat) (waits : Bool) : Nat → List Entry → SetRun × Nat
  | k, [] => (⟨s, stOk, none, waits⟩, k)
  | k, e :: es =>
    let r := s.entrySet cls e
    if r.status ≠ stOk then (r, k) else r.s.entriesSet cls (waits || r.waits) (k + 1) es

/-- A status that ends with a result. -/
def State.endsWith (s : State) (status result : Nat) : Done := ⟨s, status, BitVec.ofNat 64 result, [], false⟩

/-- The release a set with at_ns asks for (R397): a status of R10. -/
def State.atNsCheck (s : State) (cls : Nat) (b : Tm) : Nat :=
  if cls = 0 ∨ s.armed cls = false ∨ b % s.spanLenAt b ≠ 0 then stBadParam
  else if b ≤ s.time.now + cutoffLen then stLate
  else stOk

/-- PARAM_SET_MULTI (R397). -/
def State.multiSet (s : State) (p : List Byte) : Done :=
  let n := field p 0 2
  let cls := field p 2 1
  let check := (field p 3 1).testBit 0
  let atNs := field p 8 8
  let b := atNs * nsSt
  let es := (upTo n).map fun i => Entry.parse p (16 + 24 * i)
  if n = 0 ∨ 168 < n ∨ 7 < cls then s.ends stBadParam
  else
    let st := if atNs = 0 then stOk else s.atNsCheck cls b
    if st ≠ stOk then s.ends st
    else
      let r := s.entriesSet cls false 0 es
      if r.1.status ≠ stOk then (if check then s else s.setRefused r.1).endsWith r.1.status r.2
      else if check then s.gives 0
      else if atNs = 0 then ⟨r.1.s, stOk, setResult (es.any Entry.swaps) (s.dueFor cls), [], r.1.waits⟩
      else
        ⟨{ r.1.s with mbox := { r.1.s.mbox with atNs := r.1.s.mbox.atNs ++ [(⟨cls, b⟩ : AtNs)] } }, stOk, BitVec.ofNat 64 atNs, [],
          r.1.waits⟩

/-- PARAM_SET_MULTI (R326, R397). -/
def execParamSetMulti (t : Tm) (mb : Mb) (cmd : Cmd) (s : State) : Host.Outcome State Fault Refusal :=
  live t s fun s => s.command mb cmd (16 + 24 * field cmd.payload 0 2) fun s _ => s.multiSet cmd.payload

/-- AT_NS_RELEASE (R397): the firmware releases a class within the span that ends at its at_ns; one missed is released as soon
as a pier holds the lease. -/
def execAtNsRelease (t : Tm) (cls : Fin 8) (s : State) : Host.Outcome State Fault Refusal :=
  live t s fun s =>
    match s.mbox.atNs.find? fun a => a.cls == cls.val && decide (a.at_ ≤ s.time.next) with
    | some a =>
      if !s.leased then s else
      let s1 := { s with mbox := { s.mbox with atNs := s.mbox.atNs.erase a } }
      if s1.armed cls then s1.releaseClass cls else s1
    | none => s

/-- SWAP_COMMIT (R325, R398): armed classes of the mask are released; the result is their boundary. -/
def execSwapCommit (t : Tm) (mb : Mb) (cmd : Cmd) (s : State) : Host.Outcome State Fault Refusal :=
  live t s fun s => s.command mb cmd 1 fun s _ =>
    let b := s.dueNow
    (s.release (field cmd.payload 0 1 / 2 * 2)).gives (tbNs b)

/-! ### The configuration store (R32, R339, R358, R398, R461) -/

/-- The interval that two commits of the store keep (R32). -/
def saveGap : Nat := 60 * secSt

/-- A commit of the store is permitted now (R32). -/
def State.maySave (s : State) : Bool :=
  match s.mbox.saves with | some a => decide (a + saveGap ≤ s.time.now) || decide (s.time.now < a) | none => true

/-- The serial numbers of modules whose training is in force (R339). -/
def State.trainedWith (s : State) : Option (List W64) :=
  match (Tbl.get DdrSt.reset s.ddr.ch 0).spd, (Tbl.get DdrSt.reset s.ddr.ch 1).spd with
  | some a, some b => if s.get P.DDR_CH_STATUS_STATE 0 = 2 ∧ s.get P.DDR_CH_STATUS_STATE 1 = 2 then some [a.serial, b.serial] else none
  | _, _ => none

/-- The store is committed (R461): into the copy that was not loaded or saved last. -/
def State.saveNow (s : State) : State :=
  let k := match s.sec.lastCopy with | some 0 => 1 | _ => 0
  let before := match s.sec.newest with | some c => c.2.training | none => none
  let copy : Store := {
    valid := true, version := s.host.fwVersion, number := s.sec.saves + 1, regs := s.configOf,
    training := (match s.trainedWith with | some l => some l | none => before), sub := some (s.host.subVendor, s.host.subId) }
  { s with
    sec := { s.sec with
      store := Tbl.set Store.reset s.sec.store k copy, lastCopy := some k, saves := s.sec.saves + 1, dirty := false },
    mbox := { s.mbox with saves := some s.time.now } }

/-- CONFIG_SAVE (R32, R398): at most one commit a minute; a faster one is deferred and goes PENDING. -/
def execConfigSave (t : Tm) (mb : Mb) (cmd : Cmd) (s : State) : Host.Outcome State Fault Refusal :=
  live t s fun s => s.command mb cmd 0 fun s _ =>
    if s.maySave then s.saveNow.gives (tbNs s.time.now) else s.goesOn

/-- CONFIG_SAVE_DEFERRED (R32, R384): the deferred saves are committed at the permitted minute. -/
def execConfigSaveDeferred (t : Tm) (s : State) : Host.Outcome State Fault Refusal :=
  live t s fun s =>
    let mine (x : Wait) : Bool := x.opcode == 0x0007
    if s.leased && s.maySave && s.mbox.wait.any (fun x => x.background && mine x) then
      s.saveNow.backEnd mine stOk (BitVec.ofNat 64 (tbNs s.time.now)) []
    else s

/-- CONFIG_LOAD (R398, R403): from the store, or the reset values; the result is the boundary its values join. -/
def execConfigLoad (t : Tm) (mb : Mb) (cmd : Cmd) (s : State) : Host.Outcome State Fault Refusal :=
  live t s fun s => s.command mb cmd 1 fun s _ =>
    let from_ := field cmd.payload 0 1
    if 1 < from_ then s.ends stBadParam
    else (if from_ = 0 then s.configLoad else s.configApply []).gives (tbNs s.dueNow)

/-! ### TIME_STEP and SCHEDULE (R307, R320, R329, R330, R399, R400) -/

/-- The message that distributes a step (R320). -/
def State.stepSend (s : State) (b : Tm) (toTarget : Bool) (val : Int) : State :=
  s.emit (.control 0xFFFF [6, s.time.epoch, b, b2n toTarget, unsgn 96 val])

/-- TIME_STEP (R307, R320, R399). -/
def State.timeStep (s : State) (p : List Byte) : Done :=
  let flags := field p 0 1
  let toTarget := flags.testBit 0
  let fabric := flags.testBit 1
  let stitch := field p 16 2 % 4096
  let b := field p 24 8 * nsSt
  let val : Int := if toTarget then (field p 8 8 * nsSt + stitch : Nat) else sext 64 (field p 8 8)
  let j : Int := if toTarget then val - (b : Int) else val
  let reached := (b : Int) + j
  if 3071 < stitch || (!toTarget && stitch != 0) || b % s.spanLenAt b != 0 || decide (b ≤ s.time.now)
      || decide ((timeLimit * nsSt : Nat) ≤ reached) || decide (reached < 0) then s.ends stBadParam
  else if fabric && !s.isRoot then s.ends stDenied
  else if b < s.afterCommit then s.ends stLate
  else if fabric && decide (b < s.time.now + max (10 * s.spanLen) (10 * msSt)) then s.ends stLate
  else if s.time.steps.any (·.b == b) then s.ends stBusy
  else if j < 0 ∧ s.time.epoch = 0xFFFF then s.ends stDenied
  else
    let s1 : State := { s with time := { s.time with
      steps := s.time.steps ++ [(⟨b, s.time.epoch, toTarget, val, none⟩ : PendStep)] } }
    (if fabric then s1.stepSend b toTarget val else s1).gives (tbNs b)

/-- TIME_STEP (R320, R399). -/
def execTimeStep (t : Tm) (mb : Mb) (cmd : Cmd) (s : State) : Host.Outcome State Fault Refusal :=
  live t s fun s => s.command mb cmd 32 fun s _ => s.timeStep cmd.payload

/-- The lowest empty entry of the action table (R330, R400). -/
def State.emptyEntry (s : State) : Option Nat := (upTo 64).find? fun i => !(s.actOf i).armed && s.get P.ACT_CFG_KIND i == 0

/-- The ACT_CFG word that a SCHEDULE's payload gives its entry (R400). -/
def scheduleWord (p : List Byte) : Nat :=
  let bits := field p 10 1
  field p 8 2 % 4096 + bits % 8 * 4096 + bits / 8 % 2 * 32768 + bits / 16 % 2 * 65536 + field p 12 2 % 4096 * 2 ^ 20

/-- What an arming answers (R400): the entry's number, or the status that refuses it and no change. -/
def State.armAnswer (s : State) (i : Nat) (r : State × Nat) : Done := if r.2 = stOk then r.1.gives i else s.ends r.2

/-- SCHEDULE fills and arms an entry (R400). -/
def State.scheduleIn (s : State) (p : List Byte) (entry : Option Nat) : Done :=
  match entry with
  | none => s.ends stNoResource
  | some i =>
    let s1 := ((s.put P.ACT_TIME_TIME_NS i (field p 0 8)).put P.ACT_ARG_ARG i (field p 16 4)).put P.ACT_PERIOD_NS i (field p 20 4)
    s.armAnswer i (s1.armEntry i (scheduleWord p))

/-- SCHEDULE (R400): fills and arms the lowest empty entry. -/
def State.schedule (s : State) (p : List Byte) : Done :=
  let kind := field p 10 1 % 8
  let period := field p 20 4
  if kind = 0 ∨ 4 < kind ∨ 3071 < field p 8 2 % 4096 ∨ timeLimit ≤ field p 0 8 ∨ (0 < period ∧ period < 1000) then
    s.ends stBadParam
  else s.scheduleIn p s.emptyEntry

/-- SCHEDULE (R330, R398, R400). -/
def execSchedule (t : Tm) (mb : Mb) (cmd : Cmd) (s : State) : Host.Outcome State Fault Refusal :=
  live t s fun s => s.command mb cmd 24 fun s _ => s.schedule cmd.payload

end Sys2Proof.Machine
end

