-- ==== Sys2Proof/Machine/PowerUp.lean ====
section
/-! DEFINITION. Start-up, clocks, rails and temperature (chapter 21): the whole-device reset, the reference, the PLLs, the rails,
the release of the over-light lines, throttling and thermal shutdown. -/

namespace Sys2Proof.Machine

/-! ### The whole-device reset (R482 to R484) -/

/-- The balls that a whole-device reset drives low, beside HVSET (R484). -/
def resetPins : List Pin :=
  ((List.finRange 16).map .overlightN) ++ ((List.finRange 8).map .tout) ++ [.trigOut 0, .trigOut 1, .ppsOut]

/-- The outputs that a whole-device reset drives low: the balls, and HVSET of every tile with no pulse (R45, R484). -/
def resetOuts : List Out := (resetPins.map fun p => Out.pin p false) ++ (List.finRange 16).map fun t => Out.hvset t (hvWidths 0)

/-- The parameters whose words live in MRAM, in fuses or in the start-up latch (R62, R106, R287, R458, R478, R495). -/
def keptPids : List Nat :=
  [P.TRIP_FUSED_FUSED.pid, P.TDC_FUSED_FUSED.pid, P.SAMPLE_FUSED_FUSED.pid, P.FAB_ID_ID.pid, P.REC_NEXT_INDEX_INDEX.pid,
   P.REC_OLDEST_INDEX.pid, P.REC_CLEARED_INDEX.pid, P.REC_WEAR_LAPS.pid, P.SEC_CFG_OWNER_REQUIRE.pid, P.OWNER_ECDSA_DIG_WORD.pid,
   P.OWNER_LMS_DIG_WORD.pid, P.OPER_KEY_LO_ID.pid, P.OPER_KEY_HI_ID.pid]

/-- The parameter words that outlive a whole-device reset. -/
def keptRegs (r : Tbl W64) : Tbl W64 := r.filter fun e => keptPids.contains (e.1 / 16777216 * 16777216 + e.1 % 4096)

/-- The next HSS index as start-up finds it: the highest valid one of the ring (R474). -/
def hssScan (ring : Tbl (Nat × Bool)) : Nat := ring.foldl (fun m e => if e.2.2 then max m e.2.1 else m) 0

/-- The Keystone's time since its first release, which outlives a thermal shutdown (R493). -/
def State.keystoneTime (s : State) : Tm := s.pwr.uptimeBase + s.time.up

/-- What the log in MRAM keeps (R449, R483): staging is lost with the power of its memory. -/
def State.keptLog (s : State) : RecSt :=
  { RecSt.reset with segs := s.recd.segs, segSeq := s.recd.segSeq, audit := s.recd.audit, clears := s.recd.clears }

/-- What the rest of the MRAM keeps (R459, R461, R474, R483). -/
def State.keptSec (s : State) : SecSt :=
  { SecSt.reset with slot := s.sec.slot, store := s.sec.store, saves := s.sec.saves, hssRing := s.sec.hssRing,
                     keyLost := s.sec.keyLost, mramBad := s.sec.mramBad }

/-- The fields of parameters that are stored beside others that are not (R478, R495): the start-up latch takes its cause. -/
def State.keptFields (s old : State) (cause rail : Nat) : State :=
  let s1 := (s.put P.SEC_STATUS_BOOT_SEL 0 (old.get P.SEC_STATUS_BOOT_SEL 0)).put P.SEC_STATUS_OWNER_REQUIRED 0
    (old.get P.SEC_STATUS_OWNER_REQUIRED 0)
  let s2 := (s1.put P.SEC_STATUS_OWNER_LOCKED 0 (old.get P.SEC_STATUS_OWNER_LOCKED 0)).put P.SEC_SVN_MIN 0 (old.get P.SEC_SVN_MIN 0)
  let s3 := (s2.put P.SEC_HSS_NEXT 0 (hssScan old.sec.hssRing)).put P.START_STATUS_CAUSE 0 cause
  let s4 := s3.put P.START_STATUS_RAIL 0 rail
  s4.put P.START_STATUS_STARTS 0 (satTo P.START_STATUS_STARTS.width (old.get P.START_STATUS_STARTS 0 + 1))

/-- The state of a whole-device reset that is still held: everything but MRAM, fuses and the start-up latch is discarded, and
the outputs are low (R483, R484); the levels outside the device on BLANK0 and BLANK1 stay what they are (R53). -/
def State.held (s : State) (cause rail : Nat) : State :=
  let s1 : State := { State.reset with
    regs := keptRegs s.regs, recd := s.keptLog, sec := s.keptSec, out := s.out, free := s.free, pending := s.pending,
    core := { CoreSt.reset with ks := 0 }, afe := { AfeSt.reset with pin0 := s.afe.pin0, pin1 := s.afe.pin1 },
    host := { HostSt.reset with grade := s.host.grade, stepping := s.host.stepping },
    pwr := { PwrSt.reset with por := true, porAt := s.time.now, shutdowns := s.pwr.shutdowns, uptimeBase := s.keystoneTime } }
  let s2 := s1.keptFields s cause rail
  { s2 with out := resetOuts ++ s2.out }

/-- The reset is released and start-up begins (R409, R453, R460, R482): the keys area is read. -/
def State.startUp (s : State) : State :=
  let s1 : State := { s with
    pwr := { s.pwr with por := false, shutdownHeld := false }, core := { s.core with ks := 1, bootAt := s.time.up } }
  (if s1.sec.keyLost then (s1.putB P.SEC_STATUS_KEY_LOST 0 true).raise 241 else s1).blankAll

/-- A whole-device reset after which the device starts at once (R483). -/
def State.restart (s : State) (cause rail : Nat) : State := (s.held cause rail).startUp

/-- The brown-out rail as latched (R495). -/
def State.startRail (s : State) : Nat := s.get P.START_STATUS_RAIL 0

/-- A low pulse on POR_N that the glitch filter ignores (R482). -/
def porIgnored : Tm := 830 * nsSt
/-- A low pulse on POR_N that resets the device (R482). -/
def porReset : Tm := 1250 * nsSt

/-- POR_N resets the device: its own reset ends a thermal shutdown (R482, R483, R493). -/
def State.porTake (s : State) : State :=
  let s1 := s.held 0 s.startRail
  { s1 with pwr := { s1.pwr with shutdowns := [] } }

/-- POR_N_ASSERT (R482 to R484): a pulse between the two bounds of the glitch filter is ignored or resets the whole device. -/
def execPorNAssert (t : Tm) (width : Nat) (s : State) : Host.Outcome State Fault Refusal :=
  let s1 := if s.pwr.por then s else s.clock t
  if width < porIgnored then .next s1
  else if porReset ≤ width then .next s1.porTake
  else if Config.unstated 12 [(s1.free : Int)] % 2 = 0 then .next s1.fresh else .next s1.fresh.porTake

/-- POR_N_RELEASE (R409, R482): the start-up begins; a reset that a thermal shutdown holds goes on. -/
def execPorNRelease (_ : Tm) (s : State) : Host.Outcome State Fault Refusal :=
  if s.pwr.por && !s.pwr.shutdownHeld then .next s.startUp else .next s

/-! ### The reference and the PLLs (R485 to R487) -/

/-- The class of CLKREF_IN by its count over 4,096 Keystone cycles (R486): 1 10 MHz, 2 100 MHz, 0 neither. -/
def refKind (count : Nat) : Nat :=
  if 256 ≤ count ∧ count ≤ 768 then 1 else if 2560 ≤ count ∧ count ≤ 7680 then 2 else 0

/-- The reference is known: both piers leave reset into the boot ROM (R465, R486). -/
def State.pierStart (s : State) : State :=
  s.each [0, 1] fun s i => s.modPier i fun p => { p with held := false, resetAt := some s.time.up }

/-- CLKREF_CLASSIFY (R486): the device waits for a known class; later a change of class raises source 245,
and a device whose clock parent is CLKREF_IN has lost it (R262). -/
def execClkrefClassify (t : Tm) (count : Nat) (s : State) : Host.Outcome State Fault Refusal :=
  live t s fun s =>
    let k := refKind count
    if s.pwr.refWait then
      if k = 0 then s
      else ({ s with pwr := { s.pwr with refWait := false } }.put P.START_STATUS_REF_KIND 0 k).pierStart
    else if s.get P.START_STATUS_REF_KIND 0 = k then s
    else
      let s1 := (s.put P.START_STATUS_REF_KIND 0 k).raise 245
      if s1.get P.FAB_CLOCK_SOURCE 0 = 0 then s1.clockHold else s1

/-- PLL_LOCK (R485, R486): 0 auxiliary, 1 core, 2 and 3 DDR5, 4 PCI Express; the first two stay in reset without a known
reference, and the DDR5 loops take theirs from the core PLL, whose lock FAB_CLOCK.LOCKED shows. -/
def execPllLock (t : Tm) (pll : Fin 5) (s : State) : Host.Outcome State Fault Refusal :=
  live t s fun s =>
    if (pll.val < 2 ∧ s.pwr.refWait = true) ∨ ((pll.val = 2 ∨ pll.val = 3) ∧ s.pwr.pll.getLsbD 1 = false) then s
    else
      let s1 := { s with pwr := { s.pwr with pll := s.pwr.pll ||| BitVec.ofNat 5 (2 ^ pll.val) } }
      if pll.val = 1 then s1.putB P.FAB_CLOCK_LOCKED 0 true else s1

/-- CORE_PLL_LOCK_LOSS (R487): a whole-device reset with cause 4. -/
def execCorePllLockLoss (t : Tm) (s : State) : Host.Outcome State Fault Refusal := live t s fun s => s.restart 4 s.startRail

/-! ### Rails (R481, R484) -/

/-- RAIL_OUT_OF_TOLERANCE (R481): RAIL_STATUS shows the rail; leaving its tolerance raises source 244. -/
def execRailOutOfTolerance (t : Tm) (rail : Fin 9) (out : Bool) (s : State) : Host.Outcome State Fault Refusal :=
  live t s fun s =>
    let v := BitVec.ofNat 9 (s.get P.RAIL_STATUS_OUT 0)
    let bit := BitVec.ofNat 9 (2 ^ rail.val)
    let was := v.getLsbD rail.val
    (s.put P.RAIL_STATUS_OUT 0 (if out then v ||| bit else v &&& ~~~ bit).toNat).raiseIf (out && !was) 244

/-- BROWN_OUT (R481, R483): the cause and the rail are latched and the device resets as by POR_N. -/
def execBrownOut (t : Tm) (rail : Fin 9) (s : State) : Host.Outcome State Fault Refusal :=
  live t s fun s =>
    let s1 := s.held 1 rail
    { s1 with pwr := { s1.pwr with shutdowns := [] } }.startUp

/-- OVERLIGHT_RELEASE (R57, R484): after a reset the line of a tile is released with VDDA_EXC in tolerance and a sum below the
limit for 100 µs; above it the tile trips without a release. -/
def execOverlightRelease (t : Tm) (tile : Tile) (sum : Nat) (s : State) : Host.Outcome State Fault Refusal :=
  live t s fun s =>
    if (s.fe tile).overlightN || s.tripped tile || (s.get P.RAIL_STATUS_OUT 0).testBit 8 || decide (s.time.up < 100 * usSt) then s
    else
      let s1 := (s.modFe tile fun f => { f with sum := sum }).sumEval tile
      if s1.tripLimit tile < sum then s1.trip tile
      else if sum < s1.tripLimit tile then (s1.modFe tile fun f => { f with overlightN := true }).drive (.overlightN tile) true
      else s1

/-! ### Temperature (R491 to R493) -/

/-- The hottest of the readings, in 0.1 °C (R491). -/
def hottest : Tbl Int → Option Int
  | [] => none
  | (_, v) :: r => match hottest r with | none => some v | some m => some (max v m)

/-- THERMAL_READING (R491): temperatures in 0.1 °C; each flag clears when every reading has fallen HYST_K below its threshold. -/
def execThermalReading (t : Tm) (sensor : Fin 17) (temp : Int) (s : State) : Host.Outcome State Fault Refusal :=
  live t s fun s =>
    let sensors := Tbl.insert temp s.pwr.sensors sensor
    let hot := (hottest sensors).getD temp
    let hyst : Int := 10 * (s.get P.THERM_CFG_HYST_K 0 : Int)
    let warnAt : Int := 10 * (s.get P.THERM_CFG_WARN_C 0 : Int)
    let slowAt : Int := 10 * (s.get P.THERM_CFG_THROTTLE_C 0 : Int)
    let warn := s.flag P.THERM_STATUS_WARN 0
    let slow := s.flag P.THERM_STATUS_THROTTLED 0
    let warn' := decide (warnAt < hot) || (warn && decide (warnAt - hyst < hot))
    let slow' := decide (slowAt < hot) || (slow && decide (slowAt - hyst < hot))
    let s1 := { s with pwr := { s.pwr with sensors := sensors } }.put P.THERM_STATUS_TJ_MAX 0 (satSigned 16 hot)
    let s2 := ((s1.putB P.THERM_STATUS_WARN 0 warn').raiseIf (warn' && !warn) 242).putB P.THERM_STATUS_THROTTLED 0 slow'
    let s3 := if slow' && !slow then s2.bump P.THERM_STATUS_THROTTLES 0 else s2
    s3.raiseIf (slow' != slow) 243

/-- THERMAL_SHUTDOWN (R493): a whole-device reset with cause 3 that is held; the third within one hour holds until POR_N. -/
def execThermalShutdown (t : Tm) (s : State) : Host.Outcome State Fault Refusal :=
  live t s fun s =>
    let now := s.keystoneTime
    let recent := (s.pwr.shutdowns.filter fun x => decide (now < x + 3600 * secSt)) ++ [now]
    let s1 := s.held 3 s.startRail
    { s1 with pwr := { s1.pwr with shutdowns := recent, shutdownHeld := true, locked := decide (3 ≤ recent.length) } }

/-- THERMAL_SHUTDOWN_RELEASE (R493): every sensor has stayed below 95 °C for 1 s. -/
def execThermalShutdownRelease (_ : Tm) (s : State) : Host.Outcome State Fault Refusal :=
  if s.pwr.shutdownHeld && !s.pwr.locked then .next s.startUp else .next s

end Sys2Proof.Machine
end

