-- ==== Sys2Proof/Machine/Reader.lean ====
section
/-! DEFINITION. The order in which the deck reader serves its sessions, and the space their reads wait for (R31, R168); one read. -/

namespace Sys2Proof.Machine

/-- Bytes of a session's reply that its context has not begun to send. -/
def State.sessBacklog (s : State) (x : Sess) : Nat :=
  (((if x.kind = 2 then (s.ctxOf x.ctx).raw else (s.ctxOf x.ctx).reply).map (·.bytes))).sum

/-- A session has reserved destination space for its next read (R31, R168): a context's backlog stays below one unit of its
scheduler and below the credit of its link. The extractor keeps its own space. -/
def State.sessMay (s : State) (x : Sess) : Bool :=
  x.kind == 1 ||
    (match s.linkOf x.ctx with
     | none => false
     | some l => decide (s.sessBacklog x < min (if s.flag P.CTX_CFG_PRESS x.ctx then 65536 else 4096) (s.credit x.ctx l)))

/-- A session can read now. -/
def State.sessCan (s : State) (x : Sess) : Bool := !x.queued && !x.waits && !x.ended && s.sessMay x

/-- The class of a session in the order of service: 0 extractor, 1 with a warned hold, 2 all others (R168, R173). -/
def State.sessClass (s : State) (x : Sess) : Nat :=
  if x.kind = 1 then 0
  else match x.hold with
    | some h => if s.get P.HOLD_STATE_STATE h = 2 then 1 else 2
    | none => 2

/-- The sessions that can read now. -/
def State.sessReady (s : State) : List Sess := (s.deck.sess.filterMap (·.2)).filter s.sessCan

/-- No ready session of the third class comes before one with place `order`: the round robin goes from the place last served up,
and round again (R168). -/
def State.sessFirst (s : State) (order : Nat) : Bool :=
  let others := (s.sessReady.filter fun y => s.sessClass y == 2).map (·.order)
  if s.deck.rr < order then others.all fun o => decide (o ≤ s.deck.rr) || decide (order ≤ o)
  else others.all fun o => decide (o ≤ s.deck.rr) && decide (order ≤ o)

/-- It is a session's turn to read (R168). -/
def State.sessTurn (s : State) (x : Sess) : Bool :=
  s.sessCan x && s.sessReady.all (fun y => decide (s.sessClass x ≤ s.sessClass y)) && (s.sessClass x != 2 || s.sessFirst x.order)

/-- DECK_READ_COMPLETE (R168 to R171, R174, R175): the session whose turn it is reads the record at its position: it is delivered,
or skipped; the session ends at the end of its interval or of its epoch, waits at the write point, or is found overtaken. -/
def execDeckReadComplete (t : Tm) (sid : Fin 128) (poison : Poison) (s : State) : Host.Outcome State Fault Refusal :=
  live t s fun s =>
    match s.sess sid with
    | none => s
    | some x =>
      if !s.sessTurn x then s else
      let s1 := if s.sessClass x = 2 then { s with deck := { s.deck with rr := x.order } } else s
      let n := ((s1.deck.data.find? fun d => decide (x.pos ≤ d.pos)).map fun d => d.data.bytes).getD 0
      ((s1.ddrUse 1 false (s1.deckBase + x.pos % max 1 s1.deck.sized) n).sessRead sid x poison).holdsShow

end Sys2Proof.Machine
end

