-- ==== Sys2Proof/Machine/Registers.lean ====
section
/-! DEFINITION. The hardware's own interfaces beside the firmware: MB4 in the Keystone (R363, R394), the register writes of BAR0
and BAR2 (R6, R360 to R368, R213), and the test access port (R508, R509). -/

namespace Sys2Proof.Machine

/-! ### MB4 (R363, R394, R409) -/

/-- A pier is reset and reboots; its failed mark is cleared (R394, R408, R409). -/
def State.pierBoot (s : State) (i : Nat) : State :=
  let s1 := s.modPier i fun _ => { PierSt.reset with held := s.pwr.refWait, resetAt := some s.time.up, resets := [s.time.up] }
  (s1.bumpPier i).raise 229

/-- Both control cores reboot from the boot slot (R394, R409, R483): abutment mode ends into BOOT; a lease in force is revoked. -/
def State.coreReset (s : State) : State :=
  let s1 : State := { s with
    core := { s.core with
      ks := if s.abut || s.core.ks == 1 then 1 else 4, holder := 0, last := 0, cause := 0, booted := 0, bootAt := s.time.up,
      gen := if s.leased then (s.core.gen + 1) % 65536 else s.core.gen, revokeAt := none, mark := none, refused := 0,
      copied := false, joined := false, handing := false, sync := false, fwFault := false, late := false },
    host := { s.host with fwSlot := 0, fwVersion := 0 } }
  let s2 := s1.shadowsDrop.mbDrop.coreShow
  let s3 := if s.abut then (s2.ctxReturn.seamReturn).raise 227 else if s.leased then s2.raise 224 else s2
  ((s3.pierBoot 0).pierBoot 1).mbReady

/-- What a load brings: the image's bytes, the image as the crypto engine reads it, and how the read ended (R394, R466). -/
structure Load where
  bytes : Nat
  image : Image
  read : ReadEnd
  deriving DecidableEq, Repr

/-- An MB4 command completes (R363, R405). -/
def State.mb4Done (s : State) (status result : Nat) : State :=
  ({ s with host := { s.host with
    ksGo := false, ksDone := true, ksStatus := status, ksDoneSeq := s.host.ksSeq, ksResult := result } }).raise 4

/-- The RESULT of STATUS (R394). -/
def State.mb4Result (s : State) : Nat :=
  s.core.booted + 4 * b2n s.abut + 8 * s.get P.SEC_STATUS_A_OK 0 + 16 * s.get P.SEC_STATUS_B_OK 0 + 32 * s.get P.SEC_STATUS_BOOT_SEL 0

/-- The image address of a load (R394). -/
def State.mb4Addr (s : State) : Nat := s.host.ksArg0 + s.host.ksArg1 * 2 ^ 32

/-- FW_LOAD_A and FW_LOAD_B (R394, R466): a 4 KiB aligned address; the command runs until the image has been read and verified. -/
def State.mb4Load (s : State) (slot : Nat) (load : Option Load) : State :=
  if s.mb4Addr % 4096 ≠ 0 then s.mb4Done stBadParam 0
  else if s.slotRuns slot then s.mb4Done stDenied 0
  else
    match load with
    | none => { s with host := { s.host with ksGo := true } }
    | some l =>
      let p := s.loadSlot slot l.bytes l.image l.read
      p.1.mb4Done p.2 (if p.2 = stOk then l.bytes else 0)

/-- GO (R363, R394): the command in the registers runs; a SEQ equal to the last completed one returns the stored status. -/
def State.mb4Go (s : State) (load : Option Load) : State :=
  if s.host.ksDone && s.host.ksSeq == s.host.ksDoneSeq then ({ s with host := { s.host with ksGo := false } }).raise 4
  else
    match s.host.ksOp with
    | 1 => s.mb4Done stOk s.mb4Result
    | 2 =>
      if s.host.ksArg1 ≠ 0xA5A5 then s.mb4Done stDenied 0
      else if s.host.ksArg0 = 1 then s.coreReset.mb4Done stOk 0
      else if s.host.ksArg0 = 2 then s.restart 2 s.startRail
      else s.mb4Done stBadParam 0
    | 3 => if s.host.ksArg0 < 2 then (s.put P.SEC_STATUS_BOOT_SEL 0 s.host.ksArg0).mb4Done stOk 0 else s.mb4Done stBadParam 0
    | 4 => s.mb4Load 0 load
    | 5 => s.mb4Load 1 load
    | _ => s.mb4Done stBadOpcode 0

/-- The command and argument registers are written; ignored while a command runs (R363). -/
def State.mb4Write (s : State) (op seq arg0 arg1 : Nat) : State :=
  if s.host.ksGo then s else { s with host := { s.host with ksOp := op, ksSeq := seq, ksArg0 := arg0, ksArg1 := arg1 } }

/-- A whole MB4 command: its registers, then GO. -/
def State.mb4 (s : State) (op seq arg0 arg1 : Nat) : State := if s.host.ksGo then s else (s.mb4Write op seq arg0 arg1).mb4Go none

/-- MB4_STATUS (R394). -/
def execMb4Status (t : Tm) (seq : BitVec 16) (s : State) : Host.Outcome State Fault Refusal := live t s fun s => s.mb4 1 seq.toNat 0 0

/-- MB4_RESET (R394, R409, R483). -/
def execMb4Reset (t : Tm) (seq : BitVec 16) (arg0 arg1 : BitVec 32) (s : State) : Host.Outcome State Fault Refusal :=
  live t s fun s => s.mb4 2 seq.toNat arg0.toNat arg1.toNat

/-- MB4_SLOT_SELECT (R394). -/
def execMb4SlotSelect (t : Tm) (seq : BitVec 16) (arg0 : BitVec 32) (s : State) : Host.Outcome State Fault Refusal :=
  live t s fun s => s.mb4 3 seq.toNat arg0.toNat 0

/-- MB4_FW_LOAD (R372, R394, R464, R466): the whole command, or the end of the load that a write of GO began. -/
def execMb4FwLoad (t : Tm) (seq : BitVec 16) (slot : Fin 2) (arg0 arg1 : BitVec 32) (bytes : Nat) (image : Image) (read : ReadEnd)
    (s : State) : Host.Outcome State Fault Refusal :=
  live t s fun s =>
    let op := 4 + slot.val
    if s.host.ksGo && !(s.host.ksOp == op && s.host.ksSeq == seq.toNat) then s
    else (s.mb4Write op seq.toNat arg0.toNat arg1.toNat).mb4Go (some ⟨bytes, image, read⟩)

/-- DEVICE_READ_FAIL (R372): the context, mailbox, job or load that read reacts. -/
def execDeviceReadFail (t : Tm) (what : ReadFor) (how : ReadEnd) (s : State) : Host.Outcome State Fault Refusal :=
  live t s fun s =>
    if how = .ok then s else
    let s1 := s.readFail how
    match what with
    | .descriptor c => s1.ctxLost c
    | .request c => s1.ctxLost c
    | .slot mb => if mb.val < 2 then s1.modMb mb fun x => { x with error := true } else s1
    | .press e => s1.jobTimeout e
    | .image => if s1.host.ksGo then s1.mb4Done stTimeout 0 else s1

/-- SMB_MB4_START (R392, R394): the pass-through to MB4, in abutment mode too; a load is refused with UNSUPPORTED. -/
def execSmbMb4Start (b : SmbAt) (opcode : BitVec 16) (seq : BitVec 16) (arg0 : BitVec 32) (arg1 : BitVec 32) (pecOk : Bool) (s : State) :
    Host.Outcome State Fault Refusal :=
  live b.t s fun s =>
    if !s.smbMine b.addr then s
    else if !s.flag P.MB_CFG_ENABLE 3 then s.emit (.nack 0x20)
    else if !pecOk then s.pecFail
    else if s.host.ksGo then s
    else
      let s1 := s.mb4Write opcode.toNat seq.toNat arg0.toNat arg1.toNat
      let dup := s.host.ksDone && seq.toNat == s.host.ksDoneSeq
      if (opcode = 4 ∨ opcode = 5) ∧ dup = false then s1.mb4Done stUnsupported 0 else s1.mb4Go none

/-- KS_MB4_STATUS (R363). -/
def State.mb4Status (s : State) : Nat := s.host.ksStatus + 256 * b2n s.host.ksGo + 65536 * s.host.ksDoneSeq

/-- SMB_MB4_READ (R392): KS_MB4_STATUS and KS_MB4_RESULT. -/
def execSmbMb4Read (b : SmbAt) (s : State) : Host.Outcome State Fault Refusal :=
  live b.t s fun s =>
    if !s.smbMine b.addr then s else if s.flag P.MB_CFG_ENABLE 3 then s.emit (.block (le 4 s.mb4Status ++ le 4 s.host.ksResult)) else s.emit (.nack 0x21)

/-! ### Register writes (R6, R213, R360 to R363, R366 to R368) -/

/-- A base-2 logarithm field: values outside its range are taken as its reset value (R362). -/
def ringLog (v lo hi reset : Nat) : Nat := if lo ≤ v ∧ v ≤ hi then v else reset

/-- MBn_CFG (R362, R385): fields other than ENABLE take a value only while the mailbox is disabled. -/
def State.mbCfgWrite (s : State) (m v : Nat) : State :=
  let s1 := if (s.mbRegs m).enable then s else s.modMb m fun x =>
    { x with sqLog2 := ringLog (bitsOf v 3 0) 2 8 2, cqLog2 := ringLog (bitsOf v 7 4) 4 12 4 }
  s1.mbEnable m (bitOf v 8)

/-- A 32-bit register of a mailbox block, or half of a base (R362, R366). -/
def State.mbRegWrite (s : State) (m off v : Nat) : State :=
  match off with
  | 0x000 => s.baseWrite m 0 (.low (BitVec.ofNat 32 v))
  | 0x004 => s.baseWrite m 0 (.high (BitVec.ofNat 32 v))
  | 0x008 => s.baseWrite m 1 (.low (BitVec.ofNat 32 v))
  | 0x00C => s.baseWrite m 1 (.high (BitVec.ofNat 32 v))
  | 0x010 => s.mbCfgWrite m v
  | 0x018 => s.modMb m fun x => { x with prod := v % 65536 }
  | 0x01C => s.modMb m fun x => { x with head := v % 65536 }
  | _ => s

/-- A 32-bit register of the Keystone window (R363). -/
def State.ksRegWrite (s : State) (off v : Nat) : State :=
  match off with
  | 0x010 => s.mb4Write (v % 65536) (v / 65536) s.host.ksArg0 s.host.ksArg1
  | 0x014 => s.mb4Write s.host.ksOp s.host.ksSeq v s.host.ksArg1
  | 0x018 => s.mb4Write s.host.ksOp s.host.ksSeq s.host.ksArg0 v
  | 0x01C => if bitOf v 0 && !s.host.ksGo then s.mb4Go none else s
  | _ => s

/-- A word of the MSI-X table (R360, R368): address, data, and the Mask bit of vector control. -/
def State.msixTableWrite (s : State) (k v : Nat) : State :=
  let n := k / 4
  let e := Tbl.get (0, 0) s.ev.table n
  let put (e : Nat × Nat) : State := { s with ev := { s.ev with table := Tbl.set (0, 0) s.ev.table n e } }
  match k % 4 with
  | 0 => put (e.1 / 2 ^ 32 * 2 ^ 32 + v, e.2)
  | 1 => put (e.1 % 2 ^ 32 + v * 2 ^ 32, e.2)
  | 2 => put (e.1, v)
  | _ => (s.msixWrite (.vector (Fin.ofNat 256 n) (bitOf v 0))).msixFlush n 1

/-- A register of the event block (R367, R368). -/
def State.evRegWrite (s : State) (off v : Nat) : State :=
  if off < 0x020 then { s with ev := { s.ev with host := s.ev.host &&& ~~~ groupBits (off / 4) v } }
  else if off < 0x040 then s.evMask ((off - 0x020) / 4) v
  else if off = 0x044 then { s with ev := { s.ev with shared := BitVec.ofNat 8 v } }
  else if off = 0x048 then s.latchHost (v % 256)
  else s

/-- A 4-byte write at an aligned offset of BAR0, by the register's access code (R6, R360). -/
def State.bar0Write (s : State) (off v : Nat) : State :=
  if off = 0x010 then { s with host := { s.host with err := s.host.err &&& ~~~ BitVec.ofNat 3 v } }
  else if off = 0x014 then { s with host := { s.host with snapMiss := s.host.snapMiss &&& ~~~ BitVec.ofNat 4 v } }
  else if 0x1000 ≤ off ∧ off < 0x2000 then s.evRegWrite (off - 0x1000) v
  else if 0x2000 ≤ off ∧ off < 0x4000 then s.mbRegWrite (off / 0x1000 - 2) (off % 0x1000) v
  else if 0x4000 ≤ off ∧ off < 0x5000 then s.ksRegWrite (off - 0x4000) v
  else if 0xF0000 ≤ off ∧ off < 0xF1000 then s.msixTableWrite ((off - 0xF0000) / 4) v
  else s

/-- A 4-byte write at an aligned offset of BAR2 (R213). -/
def State.bar2Write (s : State) (off v : Nat) : State :=
  let c := off / 64
  if 1024 ≤ c then s else
  match off % 64 with
  | 0x00 => s.ctxDoorbell c (v % 65536)
  | 0x04 => s.ctxReqDoorbell c (v % 65536)
  | 0x0C => if bitOf v 0 then s.modCtx c fun x => { x with arm := true } else s
  | _ => s

/-- A 4-byte write of BAR0 (0) or BAR2 (1). -/
def State.barWrite (s : State) (bar off v : Nat) : State := if bar = 0 then s.bar0Write off v else s.bar2Write off v

/-- REGISTER_WRITE (R5, R6, R360, R366): an aligned 4-byte write, or an aligned 8-byte one over two registers or one whole 64-bit
register; any other has no effect. -/
def execRegisterWrite (t : Tm) (bar : Fin 2) (offset size : Nat) (value : W64) (s : State) : Host.Outcome State Fault Refusal :=
  live t s fun s =>
    if size = 4 ∧ offset % 4 = 0 then s.barWrite bar offset (value.toNat % 2 ^ 32)
    else if size = 8 ∧ offset % 8 = 0 then
      (if bar.val = 0 ∧ 0x2000 ≤ offset ∧ offset < 0x4000 ∧ offset % 0x1000 < 0x010 then
        s.baseWrite (offset / 0x1000 - 2) (offset % 0x1000 / 8) (.whole value)
       else (s.barWrite bar offset (value.toNat % 2 ^ 32)).barWrite bar (offset + 4) (value.toNat / 2 ^ 32))
    else s

/-! ### Register reads (R5, R6, R213, R360 to R365, R367) -/

/-- A register of the identity and host status block (R361). -/
def State.idRegRead (s : State) (off : Nat) : Nat :=
  match off with
  | 0x000 => 0x5640 + 0x01 * 2 ^ 16 + s.host.stepping % 256 * 2 ^ 24
  | 0x004 => s.host.grade % 4
  | 0x008 => s.host.fwSlot % 4 + s.host.fwVersion % 2 ^ 24 * 2 ^ 8
  | 0x00C => s.host.gen % 8 + s.host.width % 16 * 2 ^ 4 + s.host.mps % 8 * 2 ^ 8 + s.host.linkResets * 2 ^ 16
  | 0x010 => s.host.err.toNat + s.host.errCount * 2 ^ 16
  | 0x014 => s.host.snapMiss.toNat
  | _ => 0

/-- A register of the event block; EV_TEST is write-only (R6, R367). -/
def State.evRegRead (s : State) (off : Nat) : Nat :=
  let word (b : BitVec 256) (g : Nat) : Nat := b.toNat / 2 ^ (32 * g) % 2 ^ 32
  if off < 0x020 then word s.ev.host (off / 4)
  else if off < 0x040 then word s.ev.mask ((off - 0x020) / 4)
  else if off = 0x040 then
    (((upTo 8).filter fun g => word (s.ev.host &&& ~~~ s.ev.mask) g != 0).map fun g => 2 ^ g).sum
  else if off = 0x044 then s.ev.shared.toNat
  else 0

/-- A 32-bit register of a mailbox block, or the committed half of a base (R362, R366). -/
def State.mbRegRead (s : State) (m off : Nat) : Nat :=
  let x := s.mbRegs m
  match off with
  | 0x000 => x.sqBase % 2 ^ 32
  | 0x004 => x.sqBase / 2 ^ 32
  | 0x008 => x.cqBase % 2 ^ 32
  | 0x00C => x.cqBase / 2 ^ 32
  | 0x010 => x.sqLog2 + x.cqLog2 * 2 ^ 4 + b2n x.enable * 2 ^ 8
  | 0x018 => x.prod % 65536
  | 0x01C => x.head % 65536
  | 0x020 => x.cons % 65536 + b2n x.ready * 2 ^ 16 + b2n x.error * 2 ^ 17
  | _ => 0

/-- A register of the Keystone window (R363). -/
def State.ksRegRead (s : State) (off : Nat) : Nat :=
  match off with
  | 0x000 => s.ksStatus
  | 0x004 => s.pierWord 0
  | 0x008 => s.pierWord 1
  | 0x00C => s.core.denied
  | 0x010 => s.host.ksOp + s.host.ksSeq * 2 ^ 16
  | 0x014 => s.host.ksArg0
  | 0x018 => s.host.ksArg1
  | 0x01C => b2n s.host.ksGo
  | 0x020 => s.mb4Status
  | 0x024 => s.host.ksResult
  | _ => 0

/-- A word of the MSI-X table (R360, R368). -/
def State.msixTableRead (s : State) (k : Nat) : Nat :=
  let n := k / 4
  let e := Tbl.get (0, 0) s.ev.table n
  match k % 4 with
  | 0 => e.1 % 2 ^ 32
  | 1 => e.1 / 2 ^ 32 % 2 ^ 32
  | 2 => e.2 % 2 ^ 32
  | _ => b2n (s.ev.vecMask.getLsbD n)

/-- A 4-byte read at an aligned offset of BAR0 outside the snapshot slots; reserved fields and offsets read as 0 (R5, R360). -/
def State.bar0Read (s : State) (off : Nat) : Nat :=
  if off < 0x1000 then s.idRegRead off
  else if off < 0x2000 then s.evRegRead (off - 0x1000)
  else if off < 0x4000 then s.mbRegRead (off / 0x1000 - 2) (off % 0x1000)
  else if off < 0x5000 then s.ksRegRead (off - 0x4000)
  else if 0xF0000 ≤ off ∧ off < 0xF1000 then s.msixTableRead ((off - 0xF0000) / 4)
  else if 0xF8000 ≤ off ∧ off < 0xF8020 then s.ev.pba.toNat / 2 ^ (8 * (off - 0xF8000)) % 2 ^ 32
  else 0

/-- A 4-byte read at an aligned offset of BAR2 (R213). -/
def State.bar2Read (s : State) (off : Nat) : Nat :=
  let x := s.ctxOf (off / 64)
  if 65536 ≤ off then 0 else
  match off % 64 with
  | 0x00 => x.prod % 65536
  | 0x04 => x.reqProd % 65536
  | 0x08 => x.cons % 65536 + x.reqCons % 65536 * 2 ^ 16
  | 0x0C => b2n x.arm
  | 0x10 => x.state % 8
  | _ => 0

/-- The slot and the byte within its page of an offset of BAR0 (R360, R364). -/
def snapAt (off : Nat) : Option (Nat × Nat) :=
  if 0x80000 ≤ off ∧ off < 0xC0000 ∧ off % 0x10000 < 0x1000 then some (off / 0x10000 - 8, off % 0x10000) else none

/-- A read in a slot's page: a half, or a whole register (R364, R365); offsets above the registers are reserved. -/
def State.snapRead (s : State) (slot off size : Nat) : State × Nat :=
  if 56 ≤ off then (s, 0)
  else if size = 8 then s.snapWhole slot (off / 8)
  else if off % 8 = 0 then s.snapLow slot (off / 8)
  else s.snapHigh slot (off / 8)

/-- A read on the bus of BAR0 (0) or BAR2 (1): aligned 4-byte or 8-byte reads alone, and 0 for any other (R360). -/
def State.barRead (s : State) (bar off size : Nat) : State × Nat :=
  let word (o : Nat) : Nat := if bar = 0 then s.bar0Read o else s.bar2Read o
  if (size = 4 ∨ size = 8) ∧ off % size = 0 then
    match if bar = 0 then snapAt off else none with
    | some p => s.snapRead p.1 p.2 size
    | none => (s, if size = 4 then word off else word off + word (off + 4) * 2 ^ 32)
  else (s, 0)

/-- The bus reads, and the device answers. -/
def State.barAnswer (s : State) (bar off size : Nat) : State :=
  let p := s.barRead bar off size
  p.1.busAnswer p.2

/-- SNAP_LOW_READ (R364, R365). -/
def execSnapLowRead (t : Tm) (slot : Fin 4) (reg : Fin 7) (s : State) : Host.Outcome State Fault Refusal :=
  live t s fun s => s.barAnswer 0 (0x80000 + 0x10000 * slot + 8 * reg) 4

/-- SNAP_HIGH_READ (R364). -/
def execSnapHighRead (t : Tm) (slot : Fin 4) (reg : Fin 7) (s : State) : Host.Outcome State Fault Refusal :=
  live t s fun s => s.barAnswer 0 (0x80000 + 0x10000 * slot + 8 * reg + 4) 4

/-- SNAP_WHOLE_READ (R364, R365). -/
def execSnapWholeRead (t : Tm) (slot : Fin 4) (reg : Fin 7) (s : State) : Host.Outcome State Fault Refusal :=
  live t s fun s => s.barAnswer 0 (0x80000 + 0x10000 * slot + 8 * reg) 8

/-! ### The test access port (R508, R509, R518) -/

/-- The balls as the boundary cells drive them; a latched trip drives its line low whatever its cell holds (R509). -/
def State.scanDrive (s : State) : State :=
  let cells := s.pwr.cells.zipIdx.map fun e => Out.pin (.scan e.2) e.1
  let trips := ((List.finRange 16).filter fun t => s.tripped t.val).map fun t => Out.pin (.overlightN t) false
  { s with out := trips ++ cells.reverse ++ s.out }

/-- EXTEST (R509): the balls are taken from function and driven by the boundary cells. -/
def execExtest (t : Tm) (s : State) : Host.Outcome State Fault Refusal := live t s fun s => (s.tapSet 0x00).scanDrive

/-- IDCODE (R508): 0x1564_0A6B with the stepping in bits [31:28]. -/
def execIdcode (t : Tm) (s : State) : Host.Outcome State Fault Refusal :=
  live t s fun s => (s.tapSet 0x01).emit (.jtag 32 (0x05640A6B + s.host.stepping % 16 * 2 ^ 28))

/-- SAMPLE/PRELOAD (R508): the boundary cells are preloaded. -/
def execSamplePreload (t : Tm) (cells : List Bool) (s : State) : Host.Outcome State Fault Refusal :=
  live t s fun s =>
    let s1 := s.tapSet 0x02
    { s1 with pwr := { s1.pwr with cells := cells } }

/-- EXTEST_PULSE (R508, R509). -/
def execExtestPulse (t : Tm) (s : State) : Host.Outcome State Fault Refusal := live t s fun s => (s.tapSet 0x03).scanDrive

/-- EXTEST_TRAIN (R508, R509): as EXTEST_PULSE. -/
def execExtestTrain (t : Tm) (s : State) : Host.Outcome State Fault Refusal := live t s fun s => (s.tapSet 0x04).scanDrive

/-- CLAMP (R508, R509): the balls are held by the boundary cells; the bypass bit is selected. -/
def execClamp (t : Tm) (s : State) : Host.Outcome State Fault Refusal := live t s fun s => ((s.tapSet 0x05).scanDrive).emit (.jtag 1 0)

/-- HIGHZ (R499, R508, R509): the balls float, and the pull-downs assert the over-light lines; the bypass bit is selected. -/
def execHighz (t : Tm) (s : State) : Host.Outcome State Fault Refusal :=
  live t s fun s =>
    let s1 := s.tapSet 0x06
    ({ s1 with out := ((List.finRange 16).map fun t => Out.pin (.overlightN t) false) ++ s1.out }).emit (.jtag 1 0)

/-- BYPASS (R508). -/
def execBypass (t : Tm) (s : State) : Host.Outcome State Fault Refusal := live t s fun s => (s.tapSet 0xFF).emit (.jtag 1 0)

/-- TRST_N_ASSERT (R483, R518): the TAP returns to IDCODE and MB5 is reset; a command in progress completes and its response is
lost. -/
def execTrstNAssert (t : Tm) (s : State) : Host.Outcome State Fault Refusal :=
  live t s fun s =>
    let s1 := (s.tapSet 0x01).muteWaits 5
    let busy := s.mbox.fetched.any fun f => f.1.mb == 5
    { s1 with mbox := { s1.mbox with
      jtagBuf := [], jtagOut := [], jtagPtr := 0, jtagDone := false, start5 := false, jtagLost := s.mbox.jtagLost || busy } }

end Sys2Proof.Machine
end

