-- ==== Sys2Proof/Machine/Rebase.lean ====
section
/-! DEFINITION. A forced step of the time base moves the places of what runs on the core clock: a step changes the time base and
no elapsed time (R64, R308, R320). -/

namespace Sys2Proof.Machine

/-- An instant of elapsed time on a time base that has stepped by `j`; one that would fall before the base's zero stands at zero
(log entry 100). -/
def moved (j : Int) (t : Tm) : Tm := ((t : Int) + j).toNat

/-- A time, if any, on the stepped time base. -/
def movedOpt (j : Int) (t : Option Tm) : Option Tm := t.map (moved j)

/-- The entries of a table, each changed by `f`. -/
def Tbl.each {α : Type} (t : Tbl α) (f : α → α) : Tbl α := t.map fun e => (e.1, f e.2)

/-! ### Front end and digitiser -/

/-- A tile's front end (R53, R55, R57 to R59, R148). -/
def FeTile.rebase (j : Int) (f : FeTile) : FeTile := { f with
  rampFrom := movedOpt j f.rampFrom, settleUntil := moved j f.settleUntil, trimAt := movedOpt j f.trimAt,
  filterFrom := movedOpt j f.filterFrom, halfFrom := movedOpt j f.halfFrom, pulserUntil := movedOpt j f.pulserUntil,
  schedUntil := movedOpt j f.schedUntil, guardUntil := movedOpt j f.guardUntil,
  masks := f.masks.map fun m => (m.1, moved j m.2.1, movedOpt j m.2.2) }

/-- A housekeeping conversion (R54, R79). -/
def Conv.rebase (j : Int) (c : Conv) : Conv := { c with
  first := moved j c.first, seg := moved j c.seg, frozenAt := movedOpt j c.frozenAt, loop := movedOpt j c.loop }

/-- A tile's housekeeping sequencer (R79, R82, R137). -/
def HkTile.rebase (j : Int) (h : HkTile) : HkTile := { h with
  passAt := movedOpt j h.passAt, run := h.run.map (·.rebase j), lastEnd := moved j h.lastEnd,
  urgent := h.urgent.map fun u => { u with loop := movedOpt j u.loop }, hv := h.hv.map fun v => (v.1, moved j v.2) }

/-- A tile's rotation sequencer (R71, R72, R75). -/
def RotTile.rebase (j : Int) (r : RotTile) : RotTile := { r with since := moved j r.since, last := movedOpt j r.last }

/-- The front end, the digitiser and the bias loop. -/
def State.rebaseTiles (s : State) (j : Int) : State :=
  let s1 := s.each (upTo 16) fun s t =>
    (((s.modFe t (·.rebase j)).modHk t (·.rebase j)).modRot t (·.rebase j)).modLp t fun l => { l with curAt := movedOpt j l.curAt }
  { s1 with
    dig := { s1.dig with grid := (((s1.dig.grid : Int) + j) % (chopLen : Nat)).toNat },
    loop := { s1.loop with start := movedOpt j s1.loop.start, freeAt := moved j s1.loop.freeAt } }

/-! ### Picosecond timing and the trigger -/

/-- An interpolator pair (R87, R92, R93). -/
def Pair.rebase (j : Int) (p : Pair) : Pair := { p with
  a := { p.a with stop := moved j p.a.stop }, b := { p.b with stop := moved j p.b.stop }, edge := movedOpt j p.edge,
  visitAt := movedOpt j p.visitAt, visited := movedOpt j p.visited, fitAt := moved j p.fitAt }

/-- A hit in progress (R86, R88, R97). -/
def HitSt.rebase (j : Int) (h : HitSt) : HitSt := { h with
  raw := moved j h.raw, ready := moved j h.ready, lead := moved j h.lead, trail := movedOpt j h.trail }

/-- A channel's time measurement (R88, R97, R99, R107, R110). -/
def TdcCh.rebase (j : Int) (x : TdcCh) : TdcCh := { x with
  last := movedOpt j x.last, open_ := x.open_.map (·.rebase j),
  judged := x.judged.map fun c => { c with hit := c.hit.rebase j, done := movedOpt j c.done },
  blocks := x.blocks.map fun b => { b with due := moved j b.due }, edges := x.edges.map fun e => (moved j e.1, e.2),
  quietFrom := moved j x.quietFrom, quietAt := movedOpt j x.quietAt }

/-- Channels, interpolator pairs and gauges. -/
def State.rebaseTdc (s : State) (j : Int) : State :=
  let s1 := s.each (upTo 256) fun s c => s.modTd c (·.rebase j)
  let s2 := s1.each (upTo 271) fun s u => s.modPair u (·.rebase j)
  s2.each (upTo 8) fun s g => s.modGauge g fun x => { x with resultAt := movedOpt j x.resultAt }

/-- Trigger windows, primitives and accepts on their way, the extraction, TRIG_IN and TRIG_OUT (R109, R110, R115 to R120, R123). -/
def TrgSt.rebase (j : Int) (x : TrgSt) : TrgSt := { x with
  win := x.win.each fun w => w.map fun w => { w with close := moved j w.close }, fired := x.fired.each (movedOpt j),
  prims := x.prims.map fun p => { p with eq := moved j p.eq },
  root := x.root.each fun w => w.map fun w => { w with close := moved j w.close }, lastIn := x.lastIn.each (movedOpt j),
  trigOut := x.trigOut.each fun l => l.map fun p => (moved j p.1, moved j p.2),
  seen := x.seen.map fun e => (e.1, e.2.1, moved j e.2.2), accs := x.accs.map fun a => { a with arrival := moved j a.arrival },
  run := x.run.map fun e => { e with start := moved j e.start, acc := { e.acc with arrival := moved j e.acc.arrival } } }

/-! ### Streams, the fabric, lanes and memory -/

/-- The Seam's inputs and marks, and the contexts (R182, R188, R204, R439). -/
def State.rebaseStreams (s : State) (j : Int) : State :=
  let s1 := s.each seamInputs fun s i => s.modSi i fun x => { x with hemAt := moved j x.hemAt }
  { s1 with
    seam := { s1.seam with up := s1.seam.up.each fun x => { x with lastMark := movedOpt j x.lastMark } },
    press := { s1.press with begun := s1.press.begun.each (moved j) },
    ctx := { s1.ctx with
      c := s1.ctx.c.each fun x => { x with coalesceFrom := movedOpt j x.coalesceFrom }, grantFrom := s1.ctx.grantFrom.each (moved j),
      holdFrom := movedOpt j s1.ctx.holdFrom } }

/-- Ports, claims and lanes (R259, R265, R283, R295, R298, R300 to R302). -/
def State.rebasePorts (s : State) (j : Int) : State :=
  let s1 := s.each (upTo 4) fun s p => (s.modFp p fun x => { x with
    vc0Busy := moved j x.vc0Busy, unacked := x.unacked.map fun u => (u.1, moved j u.2) }).modPortLane p fun x =>
      { x with stripeAt := movedOpt j x.stripeAt, sentAt := moved j x.sentAt }
  let s2 := s1.each (upTo 16) fun s l => s.modLane l fun x => { x with
    losses := x.losses.map (moved j), retrainAt := movedOpt j x.retrainAt, alignAt := movedOpt j x.alignAt, goodFrom := movedOpt j x.goodFrom, far := movedOpt j x.far }
  { s2 with fab := { s2.fab with claimUntil := movedOpt j s2.fab.claimUntil, low := s2.fab.low.map fun l => (l.1, moved j l.2) } }

/-- Time outputs and holdover, the recorder's rates, memory, mailboxes, the Keystone and security (R317, R327, R328, R345, R348,
R391, R411, R420, R447, R452, R473, R475). -/
def State.rebaseCore (s : State) (j : Int) : State :=
  let s1 := s.each [0, 1] fun s c => s.modDc c fun x => { x with
    busy := x.busy.each fun e => (moved j e.1, moved j e.2),
    refAt := moved j x.refAt, repaid := moved j x.repaid, stepAt := movedOpt j x.stepAt, passAt := moved j x.passAt }
  let s2 := s1.each (upTo 4) fun s p => s.modPortTime p fun x => { x with lastValid := moved j x.lastValid }
  { s2 with
    ddr := { s2.ddr with scrubDue := moved j s2.ddr.scrubDue }, mem := { s2.mem with scrubDue := moved j s2.mem.scrubDue },
    time := { s2.time with
      mastered := moved j s2.time.mastered, lastPps := movedOpt j s2.time.lastPps, tout := s2.time.tout.each fun x => { x with stop := moved j x.stop },
      ppsStop := moved j s2.time.ppsStop },
    recd := { s2.recd with
      buckets := s2.recd.buckets.each fun b => { b with seen := moved j b.seen },
      lastRateTb := movedOpt j s2.recd.lastRateTb, budgetTb := moved j s2.recd.budgetTb },
    mbox := { s2.mbox with
      remote := s2.mbox.remote.map fun (r : Remote) => { r with due := movedOpt j r.due }, saves := movedOpt j s2.mbox.saves },
    core := { s2.core with
      markAt := moved j s2.core.markAt, run := s2.core.run.map fun (a : Act) => { a with since := moved j a.since } },
    sec := { s2.sec with
      scrubDue := moved j s2.sec.scrubDue,
      nonce := s2.sec.nonce.each fun n => n.map fun n => { n with until_ := moved j n.until_ }, burstAt := moved j s2.sec.burstAt } }

/-- Every instant that counts elapsed time stands at the same distance from now after a step of the time base by `j` as before
(R64, R320). -/
def State.rebase (s : State) (j : Int) : State :=
  let s1 := (((s.rebaseTiles j).rebaseTdc j).rebaseStreams j).rebasePorts j
  ({ s1 with trg := s1.trg.rebase j }).rebaseCore j

end Sys2Proof.Machine
end

