-- ==== Sys2Proof/Machine/Span.lean ====
section
/-! DEFINITION. The span boundary (R324): the swap of every staged value, and all that each part of the device does at the same
edge; then the steps of R320. -/

namespace Sys2Proof.Machine

/-! ### The swap (R201, R215, R324, R341, R428) -/

/-- The parameters whose change waits until a context is rebound (R201, R215). -/
def ringPids : List Nat := [P.CTX_RING_BASE_ADDR.pid, P.CTX_REQ_BASE_ADDR.pid, P.CTX_RING_CFG_LOG2.pid]

/-- A press job of a mailbox is queued or running (R341). -/
def State.mboxJobs (s : State) : Bool :=
  !s.press.queue.isEmpty || (upTo 6).any fun e => (Tbl.get none s.press.run e).isSome

/-- A value waits for a later boundary: the ring fields of a context until it is rebound, DDR_MAP until spill is empty and no
mailbox press job is queued or running, SPILL_CFG.SIZE_MIB by itself (R200, R201, R215, R341). -/
def State.swapWaits (s : State) (x : Pend) : Bool :=
  match named x.id with
  | none => false
  | some n =>
    let c := s.ctxOf n.inst
    (ringPids.contains n.par.pid && c.state != 0 && !c.rebind)
      || (n.par.pid == P.DDR_MAP_FW_MIB.pid && (s.spillUsed != 0 || s.mboxJobs))

/-- An identifier that a set named reaches an identifier (R8). -/
def reaches (sets id : Nat) : Bool :=
  sets == id || (sets / 4096 % 4096 == allInst && sets - allInst * 4096 == id - id / 4096 % 4096 * 4096)

/-- Sets of a value found uncorrectable name the boundary at which the rewritten value takes effect (R428). -/
def State.renameWaits (s : State) (b next : Tm) (ids : List Nat) : State :=
  let named (w : Wait) : Bool := w.result.toNat == tbNs b && (ids.any fun i => w.sets.any fun x => reaches x i)
  { s with mbox := { s.mbox with
      wait := s.mbox.wait.map fun (w : Wait) => if named w then { w with result := BitVec.ofNat 64 (tbNs next) } else w } }

/-- The values due at boundary `b` take effect at once; those that wait, or whose staged word is uncorrectable, stay pending
for the boundary `next`. Answers the state and the values that took effect. -/
def State.swap (s : State) (b next : Tm) (badWords : List Nat) : State × List Pend :=
  let due (x : Pend) : Bool := match x.due with | some d => decide (d ≤ b) | none => false
  let all := s.time.staged ++ s.time.pend.filter due
  let rest := s.time.pend.filter fun x => !due x
  let bad := s.mem.badWords ++ badWords
  let waits (x : Pend) : Bool := bad.contains x.id || s.swapWaits x
  let taken := all.filter fun x => !waits x
  let kept := (all.filter fun x => waits x && !rest.any (·.id == x.id) && (s.leased || !bad.contains x.id)).map
    fun (x : Pend) => { x with due := some next }
  let s1 := s.each (badWords.filter fun id => all.any (·.id == id)) fun s id => s.memUe 4 (Config.unstated 8 [id])
  let s2 : State := { s1 with
    regs := taken.foldl overlay s1.regs, mem := { s1.mem with badWords := [] },
    time := { s1.time with staged := [], pend := rest ++ kept } }
  let s3 := s2.renameWaits b next (bad.filter fun id => kept.any (·.id == id))
  (if taken.isEmpty then s3 else s3.put P.SWAP_LAST_TIME_NS 0 (tbNs b), taken)

/-! ### What follows from a changed setting -/

/-- The indices of a parameter whose word in force differs from an earlier table, among values that took effect. -/
def State.swapped (s : State) (old : Tbl W64) (taken : List Pend) (pids : List Nat) : List Nat :=
  (taken.filterMap fun x =>
    match named x.id with
    | some n => if pids.contains n.par.pid && n.par.inTable old x.id != n.par.inTable s.regs x.id then some n.inst else none
    | none => none).eraseDups

/-- A new threshold waits on a channel whose discriminator is high until its hit closes (R38). -/
def State.swapThreshold (s : State) (old : Tbl W64) (c : Nat) : State :=
  let busy := (s.feCh c).high && (s.td c).open_.any (·.trail.isNone)
  s.modFeCh c fun f => { f with
    dac := if busy then (match f.dac with | some w => some w | none => some (Regs.word old P.DISC_THR_THRESHOLD c)) else none }

/-- Conditions judge each hit under the settings in force at its leading edge; quiet timeouts start again (R107, R108): a change of any
word of the condition does, of one that its KIND does not use too, DESIGN CHOICE (log entry 101). -/
def State.swapCondition (s old : State) (b : Tm) (c : Nat) : State :=
  s.modTd c fun x => { x with prev := some (⟨s.time.epoch, b⟩, old.condOf c), quietFrom := b, quietDone := false }

/-- An output of the time base follows its settings (R327). -/
def State.swapTout (s old : State) (b : Tm) (programmed : List Nat) (x : Fin 8) : State :=
  let s1 := if programmed.contains x.val then s.toutProgram x b else s
  if s1.toutLevel x = old.toutLevel x then s1 else s1.drive (.tout x) (s1.toutLevel x)

/-- A TRIG_OUT ball that is no longer enabled goes low (R119). -/
def State.swapTrigOut (s old : State) (x : Fin 2) : State :=
  if old.trigOutOn x && !s.trigOutOn x then
    if (s.pulsesOf x).isEmpty then s else (s.setPulses x []).drive (.trigOut x) false
  else s

/-- A gauge without a gate in progress adopts its settings (R102). -/
def State.swapGauge (s : State) (b : Tm) (g : Nat) : State :=
  let idle := match (s.gauge g).start with | none => true | some t0 => decide (b ≤ t0)
  if idle then s.gaugeArm g b else s

/-- The parameters that GROUP_LAT follows (R114). -/
def latPids : List Nat :=
  [P.COND_CFG_KIND.pid, P.COND_WIDTH_MIN.pid, P.COND_RUNT_HIGH.pid, P.COND_TIMEOUT_T.pid, P.COND_SLEW_S.pid,
   P.GROUP_MASK_MASK.pid, P.GROUP_CFG_WIN.pid, P.FAST_CFG_ENABLE.pid, P.SAMPLE_USER_USER.pid]

/-- The front end after a swap (R38, R43, R44, R53). -/
def State.swapFront (s old : State) (taken : List Pend) : State :=
  let ch (fs : List Fld) : List Nat := s.swapped old.regs taken (fs.map (·.pid))
  let s1 := s.each (ch [P.DISC_THR_THRESHOLD]) fun s c => s.swapThreshold old.regs c
  let s2 := s1.each ((ch [P.TRIM_STATIC_STATIC]).map (· / 16)).eraseDups State.applyTrims
  let s3 := if ch [P.BLANK_CFG0_ENABLE, P.BLANK_CFG1_ENABLE, P.BLANK_GUARD_GUARD, P.BLANK_INT_PULSER] = [] then s2 else s2.blankAll
  s3.eachTile fun s t => s.hvDrive (old.hvOut t) t

/-- PPS_OUT goes low where it is no longer enabled (R328). -/
def State.swapPps (s : State) : State :=
  if s.time.ppsOut && !s.flag P.PPS_CFG_OUT_EN 0 then ({ s with time := { s.time with ppsOut := false } }).drive .ppsOut false else s

/-- Trigger, gauge, timed outputs and PPS_OUT after a swap (R102, R107, R108, R114, R119, R327, R328). -/
def State.swapTiming (s old : State) (b : Tm) (taken : List Pend) : State :=
  let ch (fs : List Fld) : List Nat := s.swapped old.regs taken (fs.map (·.pid))
  let conds := ch [P.COND_CFG_KIND, P.COND_WIDTH_MIN, P.COND_RUNT_HIGH, P.COND_TIMEOUT_T, P.COND_SLEW_S]
  let s1 := s.each conds fun s c => s.swapCondition old b c
  let on := (ch [P.FAST_CFG_ENABLE]).filter fun c => s.flag P.FAST_CFG_ENABLE c && !old.flag P.FAST_CFG_ENABLE c
  let s2 := s1.each on fun s c => s.modTd c fun x => { x with quietFrom := b, quietDone := false }
  let s3 := if s.swapped old.regs taken latPids = [] then s2
    else s2.each (upTo 64) fun s g => s.put P.GROUP_LAT_BOUND g (s.groupLat g)
  let s4 := (s3.swapTrigOut old 0).swapTrigOut old 1
  let s5 := s4.each (ch [P.GAUGE_SEL_INPUT, P.GAUGE_PRESCALE_PRESCALE, P.GAUGE_GATE_GATE, P.GAUGE_PERIOD_NS_PERIOD_NS,
    P.GAUGE_PERIOD_ST_PERIOD_ST]) fun s g => s.swapGauge b g
  let mode := (ch [P.TOUT_CFG_ENABLE]).filter fun x => old.get P.TOUT_CFG_MODE x != s.get P.TOUT_CFG_MODE x
    || old.flag P.TOUT_CFG_ENABLE x != s.flag P.TOUT_CFG_ENABLE x
  let touts := mode ++ ch [P.TOUT_START_TIME_NS, P.TOUT_PERIOD_NS, P.TOUT_FINE_START_ST]
  (s5.swapPps.gaugesResume b).each (upTo 8) fun s x => if h : x < 8 then s.swapTout old b touts ⟨x, h⟩ else s

/-- The DDR5 areas and the deck region after a swap (R156, R341). -/
def State.swapAreas (s old : State) (taken : List Pend) (at_ : Stamp) : State :=
  let ch (f : Fld) : Bool := !(s.swapped old.regs taken [f.pid]).isEmpty
  let s1 := if ch P.DDR_MAP_FW_MIB then { s with ddr := { s.ddr with mem := [], remaps := s.ddr.remaps + 1 } } else s
  if ch P.DDR_MAP_FW_MIB || ch P.DECK_REGION_SIZE_GIB then s1.deckEmpty at_ else s1

/-- A new span length takes effect at the first whole second (R323): source 74. -/
def State.spanLength (s : State) (b : Tm) : State :=
  if b % secSt = 0 ∧ s.get P.TIME_SPAN_LEN 0 ≠ s.time.span then
    ({ s with time := { s.time with span := s.get P.TIME_SPAN_LEN 0 } }).raise 74
  else s

/-! ### Counts and notes of a span -/

/-- Rates of the second that ended (R106, R177). -/
def State.secondEnds (s : State) (b : Tm) : State :=
  if b % secSt = 0 then
    let s1 := s.each (upTo 256) fun s c => (s.put P.HIT_RATE_RATE c (satTo 32 (s.td c).rate)).modTd c fun x => { x with rate := 0 }
    let s2 := s1.put P.DECK_RATE_KB 0 (satTo 32 (s1.deck.second / 1000))
    { s2 with deck := { s2.deck with second := 0 } }
  else s

/-- What is told once a span may be told again (R189, R345). -/
def State.spanNotes (s : State) : State :=
  let s1 := s.each [0, 1] fun s c => s.modDc c fun x => { x with panicTold := false }
  s1.each seamInputs fun s i => s.modSi i fun x => { x with frayTold := false }

/-- A broken channel leaves a Truss group whose mask holds it (R51). -/
def State.groupLeave (s : State) (c g : Nat) : State :=
  if (s.groupMask g).getLsbD c then
    let s2 := s.put P.GROUP_MASK_MASK g (s.get P.GROUP_MASK_MASK g (c / 32 % 8) - 2 ^ (c % 32)) (c / 32 % 8)
    { s2 with afe := { s2.afe with removed := s2.afe.removed ++ [(c, g)] } }
  else s

/-- A restored channel comes back to a Truss group that it left (R51). -/
def State.groupJoin (s : State) (c g : Nat) : State :=
  if (s.groupMask g).getLsbD c then s
  else s.put P.GROUP_MASK_MASK g (s.get P.GROUP_MASK_MASK g (c / 32 % 8) + 2 ^ (c % 32)) (c / 32 % 8)

/-- The channels out of conditions, events and the loop: those that CH_STATUS shows BROKEN at the boundary (R51, R132). -/
def State.brokenOut (s : State) : State :=
  { s with afe := { s.afe with
      out := (s.afe.out ++ s.afe.leave.filter fun c => !s.afe.out.contains c).filter fun c => !s.afe.back.contains c } }

/-- The lists of channels that leave and come back have been worked through (R51). -/
def State.brokenDone (s : State) : State :=
  { s with afe := { s.afe with
      removed := s.afe.removed.filter fun p => !s.afe.back.contains p.1, leave := [], back := [] } }

/-- Channels found broken are out of service; the firmware takes them from the Truss groups and puts restored ones back into those they
left, and GROUP_LAT follows (R51, R114). -/
def State.brokenMasks (s0 : State) : State :=
  let s := s0.brokenOut
  if !s.leased then s else
  let s1 := s.each s.afe.leave fun s c => s.each (upTo 64) fun s g => s.groupLeave c g
  let s2 := s1.each s1.afe.back fun s c => s.each ((s.afe.removed.filter (·.1 == c)).map (·.2)) fun s g => s.groupJoin c g
  let s3 := if s.afe.leave.isEmpty && s.afe.back.isEmpty then s2
    else s2.each (upTo 64) fun s g => s.put P.GROUP_LAT_BOUND g (s.groupLat g)
  s3.brokenDone

/-! ### Acquisition (R488) -/

/-- A slice that has passed its first calibration, where it is enabled (R71, R488). -/
def State.slicesReady (s : State) : Bool :=
  (upTo 16).all fun t => ((upTo 16).filter fun k => s.flag P.FAST_CFG_ENABLE (16 * t + k)).all (s.rot t).calDone.testBit
    && (s.rot t).calDone.testBit 16

/-- Every condition of the acquisition release holds (R488). -/
def State.mayAcquire (s : State) : Bool :=
  s.leased && s.pwr.cfgApplied && s.slicesReady
    && ((upTo 256).all fun c => !s.flag P.FAST_CFG_ENABLE c || s.flag P.TDC_CAL_STATUS_CAL_VALID c)
    && [1, 2].contains (s.get P.TIME_STATUS_STATE 0)

/-- The acquisition release (R488), and source 255 of an E-grade device (R2, R369; log entry 58). -/
def State.acquisition (s : State) : State :=
  if s.pwr.acq || !s.mayAcquire then s else
  let s1 : State := { s with pwr := { s.pwr with acq := true } }
  let s2 := ((s1.putB P.START_STATUS_ACQ 0 true).put P.START_TIMES_ACQ_MS 0 (satTo 16 (s.time.up / msSt))).raise 246
  s2.raiseIf (s.host.grade == 2) 255

/-- The configuration loaded at the start has applied (R488). -/
def State.configDone (s : State) (b : Tm) : State :=
  match s.pwr.cfgDue with
  | some d => if d ≤ b then { s with pwr := { s.pwr with cfgApplied := true, cfgDue := none } } else s
  | none => s

/-- The deck writer at a boundary (R155, R177, R488): it starts, goes on or stops, and notes the boundary. -/
def State.writerBoundary (s : State) (at_ : Stamp) : State :=
  let runs := s.flag P.DECK_STATUS_ONLINE 0 && s.flag P.DECK_CFG_ENABLE 0 && s.acquiring
  let code := if runs then some s.time.span else if s.deck.running then some writerStops else none
  { s with deck := { s.deck with
      running := runs, bounds := s.deck.bounds ++ (match code with | some k => [(at_, k)] | none => []) } }

/-! ### Steps (R320 to R322) -/

/-- What waited at boundary `b` for a commit, a hand-over or a late action waits at its place on the stepped time base, or at its next
boundary (R320, R322, R330, R411, R416). -/
def State.stepWaits (s : State) (b : Tm) : State :=
  let last := s.time.last
  let at_ (x : Tm) : Tm := if x ≤ b then last else x
  { s with
    time := { s.time with act := s.time.act.each fun (a : ActSt) => { a with late := a.late.map fun x => if x ≤ b then last else s.time.next } },
    mbox := { s.mbox with wait := s.mbox.wait.map fun (w : Wait) => { w with commit := at_ w.commit } },
    core := { s.core with committed := min s.core.committed (last - 1), handAfter := at_ s.core.handAfter } }

/-- A change of the epoch: the deck notes it, hit blocks are cut and gates abandoned (R99, R104, R171): `old` and `new` are the edge of
the step in the old and in the new time. -/
def State.stepEpoch (s : State) (old new : Stamp) : State :=
  let s1 : State := { s with deck := { s.deck with
    epochEnds := (s.deck.epochEnds ++ [(old, new)]).drop (s.deck.epochEnds.length - 63) } }
  (s1.epochCut old new).gaugesCut

/-- A pending step is taken at the first sampling edge after boundary `b`, 2 cc later (R320, R321, R324): the blocks of the interval
that starts at the boundary open before it; an epoch that would pass 16 bits discards it. -/
def State.stepTake (s : State) (b : Tm) (p : PendStep) : State :=
  let s0 : State := { s with time := { s.time with steps := s.time.steps.erase p } }
  if 65536 ≤ s0.stepEpochNo p then (s0.putB P.TIME_STATUS_STEP_DROPPED 0 true).raise 66 else
  let start : Stamp := ⟨s.time.epoch, b⟩
  let s1 := (if s.acquiring && s.tdc.interval != some start then s0.blocksOpen start else s0).clock (stepEdge b)
  let old : Stamp := ⟨s.time.epoch, stepEdge b⟩
  let s2 := ((s1.stepSet p b).rebase (p.whole b)).stepWaits b
  let new : Stamp := ⟨s2.time.epoch, s2.stretchFrom⟩
  let s3 := if new.epoch = old.epoch then s2.blocksStep old new else s2.stepEpoch old new
  s3.stepActs p b s.time.epoch

/-- The step pending at a boundary is applied; hit blocks, gauges, the deck and the sample anchors follow an epoch change or a
jump (R69, R99, R104, R171, R320, R321). -/
def State.boundaryStep (s : State) (b : Tm) : State :=
  match s.time.steps.find? fun p => p.epoch == s.time.epoch && decide (p.b ≤ b) with
  | none => s
  | some p => s.stepTake b p

/-! ### The boundary -/

/-- Time-keeping of a boundary: the span that ended, the sample count at its end (R69, R323). -/
def State.anchor (s : State) (b : Tm) : State :=
  { s with time := { s.time with last := b, next := boundaryAfter b s.spanLen, samples := s.time.samples + (b - s.time.last) / scSt } }

/-- The settings change, and each part of the device follows its own. -/
def State.swapAll (s : State) (b : Tm) (badWords : List Nat) : State :=
  let next := boundaryAfter b s.spanLen
  let p := s.swap b next badWords
  let at_ : Stamp := ⟨s.time.epoch, b⟩
  let s0 : State := { p.1 with dig := { p.1.dig with was := s.regs } }
  let s1 := ((s0.swapFront s p.2).swapTiming s b p.2).swapAreas s p.2 at_
  ((s1.laneEnables).pressShow).spanLength b

/-- What the parts of the device do at a boundary after the swap: transfers, routes, hop delays, rejoins, memory service, the
rotation, broken channels, the Seam, contexts, raw sources, the maintenance starts. -/
def State.partsBoundary (s : State) : State :=
  let s1 := ((s.transfersAdopt).routeApply).hopsAdopt
  let s2 := (((s1.rejoinArm).ddrReturn).each (upTo 16) State.rotBoundary).brokenMasks
  let s3 := ((s2.seamBoundary).ctxBoundary).rawPlaceAll
  s3.core.soon.foldl State.maintGo { s3 with core := { s3.core with soon := [] } }

/-- The checkpoint's set of this boundary is closed, and a lease that lapsed in the hold window is revoked (R410, R411). -/
def State.coreBoundary (s : State) : State :=
  let s1 : State := { s with core := { s.core with delta := s.snapshotCkpt, late := false } }
  if s1.core.revokeAt.isSome then s1.revoke else s1

/-- SPAN_BOUNDARY (R69, R99, R104, R155, R320 to R325, R488): the boundary at or before `t`; `badWords` are the parameters whose
staged word is uncorrectable (R428). -/
def execSpanBoundary (t : Tm) (badWords : List Nat) (s : State) : Host.Outcome State Fault Refusal :=
  live t s fun s =>
    if s.time.now < s.time.next then s else
    let b := max s.time.next (s.time.now / s.spanLen * s.spanLen)
    let s1 := ((s.swapAll b badWords).anchor b).secondEnds b
    let s2 := ((s1.spanNotes).partsBoundary).configDone b
    let s3 := ((s2.acquisition).writerBoundary ⟨s.time.epoch, b⟩).deckRates
    (s3.coreBoundary).boundaryStep b

end Sys2Proof.Machine
end

