-- ==== Sys2Proof/Machine/Dispatch.lean ====
section
/-! DEFINITION. `exec`: one arm per constructor of `Instr`, each one direct call of that command's meaning. -/

namespace Sys2Proof.Machine

/-- The effect of one command on everything but the queue of waiting commands. -/
def exec (i : Instr) (s : State) : Host.Outcome State Fault Refusal :=
  match i with
  | .leadingEdge t edge => Sys2Proof.Machine.execLeadingEdge t edge s
  | .trailingEdge t ch => Sys2Proof.Machine.execTrailingEdge t ch s
  | .totSaturate t ch => Sys2Proof.Machine.execTotSaturate t ch s
  | .interpolatorFree t unit ip => Sys2Proof.Machine.execInterpolatorFree t unit ip s
  | .hitComplete t ch window => Sys2Proof.Machine.execHitComplete t ch window s
  | .blockIntervalStart t => Sys2Proof.Machine.execBlockIntervalStart t s
  | .hitBlockEmit t ch => Sys2Proof.Machine.execHitBlockEmit t ch s
  | .hkPassStart t tile => Sys2Proof.Machine.execHkPassStart t tile s
  | .hkEntryStart t tile => Sys2Proof.Machine.execHkEntryStart t tile s
  | .hkConversionComplete t tile sum sumQ ends => Sys2Proof.Machine.execHkConversionComplete t tile sum sumQ ends s
  | .hkUrgentRequest t tile input avg shift => Sys2Proof.Machine.execHkUrgentRequest t tile input avg shift s
  | .impedanceSlotStart t tile => Sys2Proof.Machine.execImpedanceSlotStart t tile s
  | .impedanceVisitResult t tile ire iim half1 half2 => Sys2Proof.Machine.execImpedanceVisitResult t tile ire iim half1 half2 s
  | .settleWindowExpire t tile => Sys2Proof.Machine.execSettleWindowExpire t tile s
  | .blankPinEdge t pin level => Sys2Proof.Machine.execBlankPinEdge t pin level s
  | .blankGuardExpire t tile => Sys2Proof.Machine.execBlankGuardExpire t tile s
  | .conversionResume t tile => Sys2Proof.Machine.execConversionResume t tile s
  | .blankMaxAbandon t tile => Sys2Proof.Machine.execBlankMaxAbandon t tile s
  | .tileCurrentCross t tile sum => Sys2Proof.Machine.execTileCurrentCross t tile sum s
  | .glitchFilterExpire t tile => Sys2Proof.Machine.execGlitchFilterExpire t tile s
  | .tripRampDone t tile => Sys2Proof.Machine.execTripRampDone t tile s
  | .tripClear t tile => Sys2Proof.Machine.execTripClear t tile s
  | .tripLimitWrite t tile limit => Sys2Proof.Machine.execTripLimitWrite t tile limit s
  | .channelRestore t ch => Sys2Proof.Machine.execChannelRestore t ch s
  | .rotationStart t tile => Sys2Proof.Machine.execRotationStart t tile s
  | .sliceMatchComplete t tile mean rms => Sys2Proof.Machine.execSliceMatchComplete t tile mean rms s
  | .sliceCalibrationComplete t tile slice high low expected bins => Sys2Proof.Machine.execSliceCalibrationComplete t tile slice high low expected bins s
  | .tdcCalVisitStart t unit => Sys2Proof.Machine.execTdcCalVisitStart t unit s
  | .testConversionStart t unit test => Sys2Proof.Machine.execTestConversionStart t unit test s
  | .tdcCalVisitComplete t unit codesA codesB codesPair => Sys2Proof.Machine.execTdcCalVisitComplete t unit codesA codesB codesPair s
  | .tdcCalVisitTimeout t unit => Sys2Proof.Machine.execTdcCalVisitTimeout t unit s
  | .transferStale t ch => Sys2Proof.Machine.execTransferStale t ch s
  | .dllLockLoss t unit => Sys2Proof.Machine.execDllLockLoss t unit s
  | .dllRelock t unit => Sys2Proof.Machine.execDllRelock t unit s
  | .gaugeEdge t edge => Sys2Proof.Machine.execGaugeEdge t edge s
  | .gaugeGateEnd t g => Sys2Proof.Machine.execGaugeGateEnd t g s
  | .conditionDecide t ch levels => Sys2Proof.Machine.execConditionDecide t ch levels s
  | .timeoutHighExpire t ch => Sys2Proof.Machine.execTimeoutHighExpire t ch s
  | .quietTimeoutExpire t ch => Sys2Proof.Machine.execQuietTimeoutExpire t ch s
  | .groupWindowClose t g => Sys2Proof.Machine.execGroupWindowClose t g s
  | .groupSumComplete t g n levels => Sys2Proof.Machine.execGroupSumComplete t g n levels s
  | .primitiveReceive t port parts => Sys2Proof.Machine.execPrimitiveReceive t port parts s
  | .primitiveEqualised t origin seq => Sys2Proof.Machine.execPrimitiveEqualised t origin seq s
  | .rootWindowClose t cls => Sys2Proof.Machine.execRootWindowClose t cls s
  | .trigInEdge t pin edge => Sys2Proof.Machine.execTrigInEdge t pin edge s
  | .trigOutPulseEnd t pin => Sys2Proof.Machine.execTrigOutPulseEnd t pin s
  | .acceptReceive t port parts => Sys2Proof.Machine.execAcceptReceive t port parts s
  | .extractionStart t => Sys2Proof.Machine.execExtractionStart t s
  | .extractionEnd t window => Sys2Proof.Machine.execExtractionEnd t window s
  | .eventBufferSpace t bytes => Sys2Proof.Machine.execEventBufferSpace t bytes s
  | .extractionDrop t => Sys2Proof.Machine.execExtractionDrop t s
  | .deckReplyToExtractor t acceptId cls => Sys2Proof.Machine.execDeckReplyToExtractor t acceptId cls s
  | .loopPeriodStart t => Sys2Proof.Machine.execLoopPeriodStart t s
  | .loopCompute t tile => Sys2Proof.Machine.execLoopCompute t tile s
  | .loopOutputApply t => Sys2Proof.Machine.execLoopOutputApply t s
  | .curHoldExpire t tile => Sys2Proof.Machine.execCurHoldExpire t tile s
  | .snippetRead t ch hitTb levels => Sys2Proof.Machine.execSnippetRead t ch hitTb levels s
  | .deckWriteInterval t => Sys2Proof.Machine.execDeckWriteInterval t s
  | .rewindRequest t ctx desc => Sys2Proof.Machine.execRewindRequest t ctx desc s
  | .deckSessionOpen t sid => Sys2Proof.Machine.execDeckSessionOpen t sid s
  | .deckReadComplete t sid poison => Sys2Proof.Machine.execDeckReadComplete t sid poison s
  | .writePointAdvance t sid => Sys2Proof.Machine.execWritePointAdvance t sid s
  | .hemMarkReceive t port mark => Sys2Proof.Machine.execHemMarkReceive t port mark s
  | .hemMarkApply t input => Sys2Proof.Machine.execHemMarkApply t input s
  | .hemMarkPeriodic t => Sys2Proof.Machine.execHemMarkPeriodic t s
  | .hemMarkGapExpire t => Sys2Proof.Machine.execHemMarkGapExpire t s
  | .seamRecordArrive t input record => Sys2Proof.Machine.execSeamRecordArrive t input record s
  | .seamRelease t => Sys2Proof.Machine.execSeamRelease t s
  | .frayTimeout t input => Sys2Proof.Machine.execFrayTimeout t input s
  | .spillWriteComplete t input => Sys2Proof.Machine.execSpillWriteComplete t input s
  | .spillReadback t input poison => Sys2Proof.Machine.execSpillReadback t input poison s
  | .ctxDoorbellWrite t ctx prod => Sys2Proof.Machine.execCtxDoorbellWrite t ctx prod s
  | .ctxReqDoorbellWrite t ctx prod => Sys2Proof.Machine.execCtxReqDoorbellWrite t ctx prod s
  | .ctxNotifyArm t ctx => Sys2Proof.Machine.execCtxNotifyArm t ctx s
  | .ctxCreate t ctx => Sys2Proof.Machine.execCtxCreate t ctx s
  | .ctxDestroy t ctx => Sys2Proof.Machine.execCtxDestroy t ctx s
  | .ctxRebind t ctx => Sys2Proof.Machine.execCtxRebind t ctx s
  | .ctxDrainComplete t ctx => Sys2Proof.Machine.execCtxDrainComplete t ctx s
  | .requestEntryRead t ctx desc => Sys2Proof.Machine.execRequestEntryRead t ctx desc s
  | .descriptorFetch t ctx desc => Sys2Proof.Machine.execDescriptorFetch t ctx desc s
  | .schedulerGrant t link => Sys2Proof.Machine.execSchedulerGrant t link s
  | .unitTransferComplete t link => Sys2Proof.Machine.execUnitTransferComplete t link s
  | .egressDetach t ctx => Sys2Proof.Machine.execEgressDetach t ctx s
  | .coalescerTimeout t ctx => Sys2Proof.Machine.execCoalescerTimeout t ctx s
  | .pressCompressJob t mb cmd => Sys2Proof.Machine.execPressCompressJob t mb cmd s
  | .pressDecompressJob t mb cmd => Sys2Proof.Machine.execPressDecompressJob t mb cmd s
  | .pressJobStart t => Sys2Proof.Machine.execPressJobStart t s
  | .pressJobComplete t engine input poisoned memError => Sys2Proof.Machine.execPressJobComplete t engine input poisoned memError s
  | .pressContextJobComplete t ctx failed => Sys2Proof.Machine.execPressContextJobComplete t ctx failed s
  | .pressBufWrite t mb cmd => Sys2Proof.Machine.execPressBufWrite t mb cmd s
  | .pressBufRead t mb cmd => Sys2Proof.Machine.execPressBufRead t mb cmd s
  | .alignBlock t lane mask index => Sys2Proof.Machine.execAlignBlock t lane mask index s
  | .creditBlock t port credit => Sys2Proof.Machine.execCreditBlock t port credit s
  | .recordFrame t port frame => Sys2Proof.Machine.execRecordFrame t port frame s
  | .replayTimeout t port => Sys2Proof.Machine.execReplayTimeout t port s
  | .inboundCredit t ctx units => Sys2Proof.Machine.execInboundCredit t ctx units s
  | .claimFrame t port identity => Sys2Proof.Machine.execClaimFrame t port identity s
  | .claimWindowExpire t => Sys2Proof.Machine.execClaimWindowExpire t s
  | .discoveryProbe t port src route => Sys2Proof.Machine.execDiscoveryProbe t port src route s
  | .discoveryReply t reply => Sys2Proof.Machine.execDiscoveryReply t reply s
  | .routeInstall t install => Sys2Proof.Machine.execRouteInstall t install s
  | .portChangeReport t identity port up => Sys2Proof.Machine.execPortChangeReport t identity port up s
  | .clockParentLost t => Sys2Proof.Machine.execClockParentLost t s
  | .hopDelayMeasured t port delay => Sys2Proof.Machine.execHopDelayMeasured t port delay s
  | .laneCdrLock t lane => Sys2Proof.Machine.execLaneCdrLock t lane s
  | .laneBlockLock t lane => Sys2Proof.Machine.execLaneBlockLock t lane s
  | .laneLockLoss t lane loss => Sys2Proof.Machine.execLaneLockLoss t lane loss s
  | .laneNoTransitions t lane => Sys2Proof.Machine.execLaneNoTransitions t lane s
  | .hello t lane part locked value => Sys2Proof.Machine.execHello t lane part locked value s
  | .restripe t port mask locked => Sys2Proof.Machine.execRestripe t port mask locked s
  | .restripeResend t port => Sys2Proof.Machine.execRestripeResend t port s
  | .restripeTimeout t port => Sys2Proof.Machine.execRestripeTimeout t port s
  | .laneReady t port locked => Sys2Proof.Machine.execLaneReady t port locked s
  | .rejoinHoldExpire t lane => Sys2Proof.Machine.execRejoinHoldExpire t lane s
  | .laneRejoin t port => Sys2Proof.Machine.execLaneRejoin t port s
  | .laneRetrainTimeout t lane => Sys2Proof.Machine.execLaneRetrainTimeout t lane s
  | .loopReq t port mask start => Sys2Proof.Machine.execLoopReq t port mask start s
  | .loopAck t port mask accepted => Sys2Proof.Machine.execLoopAck t port mask accepted s
  | .farLoopTimeout t lane => Sys2Proof.Machine.execFarLoopTimeout t lane s
  | .laneLoopWrite t lane value => Sys2Proof.Machine.execLaneLoopWrite t lane value s
  | .prbsInject t port => Sys2Proof.Machine.execPrbsInject t port s
  | .prbsCheckerLock t port received run more => Sys2Proof.Machine.execPrbsCheckerLock t port received run more s
  | .timeMessage t port msg => Sys2Proof.Machine.execTimeMessage t port msg s
  | .syncExchangeComplete t port ownPhase => Sys2Proof.Machine.execSyncExchangeComplete t port ownPhase s
  | .slewComplete t => Sys2Proof.Machine.execSlewComplete t s
  | .holdoverEnter t => Sys2Proof.Machine.execHoldoverEnter t s
  | .ppsInEdge t edge => Sys2Proof.Machine.execPpsInEdge t edge s
  | .ppsInMissing t => Sys2Proof.Machine.execPpsInMissing t s
  | .timeStep t mb cmd => Sys2Proof.Machine.execTimeStep t mb cmd s
  | .swapCutoff t => Sys2Proof.Machine.execSwapCutoff t s
  | .spanBoundary t badWords => Sys2Proof.Machine.execSpanBoundary t badWords s
  | .swapCommit t mb cmd => Sys2Proof.Machine.execSwapCommit t mb cmd s
  | .swapCfgWrite t armed => Sys2Proof.Machine.execSwapCfgWrite t armed s
  | .toutPulse t x => Sys2Proof.Machine.execToutPulse t x s
  | .ppsOutEdge t => Sys2Proof.Machine.execPpsOutEdge t s
  | .actCfgArm t entry value => Sys2Proof.Machine.execActCfgArm t entry value s
  | .schedule t mb cmd => Sys2Proof.Machine.execSchedule t mb cmd s
  | .actionPulser t entry => Sys2Proof.Machine.execActionPulser t entry s
  | .actionToutPulse t entry => Sys2Proof.Machine.execActionToutPulse t entry s
  | .actionSwapRelease t entry => Sys2Proof.Machine.execActionSwapRelease t entry s
  | .actionFirmware t entry => Sys2Proof.Machine.execActionFirmware t entry s
  | .ddrTrainingStep t ch passed spd => Sys2Proof.Machine.execDdrTrainingStep t ch passed spd s
  | .refreshDue t ch => Sys2Proof.Machine.execRefreshDue t ch s
  | .panicBegin t ch level => Sys2Proof.Machine.execPanicBegin t ch level s
  | .panicEnd t ch level => Sys2Proof.Machine.execPanicEnd t ch level s
  | .refreshRepay t ch => Sys2Proof.Machine.execRefreshRepay t ch s
  | .ddrScrubRead t addr result written => Sys2Proof.Machine.execDdrScrubRead t addr result written s
  | .ddrRetrainStep t ch passed => Sys2Proof.Machine.execDdrRetrainStep t ch passed s
  | .ddrAlert t ch writeCrc failedReplays => Sys2Proof.Machine.execDdrAlert t ch writeCrc failedReplays s
  | .ddrReadComplete t ch addr tries device rank => Sys2Proof.Machine.execDdrReadComplete t ch addr tries device rank s
  | .ddrFence t => Sys2Proof.Machine.execDdrFence t s
  | .spdTempRead t ch temp => Sys2Proof.Machine.execSpdTempRead t ch temp s
  | .mr4Read t ch hot => Sys2Proof.Machine.execMr4Read t ch hot s
  | .memRestart t mb cmd => Sys2Proof.Machine.execMemRestart t mb cmd s
  | .memRead t mb cmd poisoned => Sys2Proof.Machine.execMemRead t mb cmd poisoned s
  | .memWrite t mb cmd => Sys2Proof.Machine.execMemWrite t mb cmd s
  | .regionRead t mb cmd poisoned => Sys2Proof.Machine.execRegionRead t mb cmd poisoned s
  | .snapLowRead t slot reg => Sys2Proof.Machine.execSnapLowRead t slot reg s
  | .snapHighRead t slot reg => Sys2Proof.Machine.execSnapHighRead t slot reg s
  | .snapWholeRead t slot reg => Sys2Proof.Machine.execSnapWholeRead t slot reg s
  | .reg64HalfWrite t mb reg half => Sys2Proof.Machine.execReg64HalfWrite t mb reg half s
  | .evPendingClear t g value raised => Sys2Proof.Machine.execEvPendingClear t g value raised s
  | .evMaskWrite t g value => Sys2Proof.Machine.execEvMaskWrite t g value s
  | .evTest t source => Sys2Proof.Machine.execEvTest t source s
  | .hostReset t => Sys2Proof.Machine.execHostReset t s
  | .hostLinkUp t gen width mps => Sys2Proof.Machine.execHostLinkUp t gen width mps s
  | .busMasterDisable t => Sys2Proof.Machine.execBusMasterDisable t s
  | .powerStateChange t d3hot => Sys2Proof.Machine.execPowerStateChange t d3hot s
  | .deviceReadFail t what how => Sys2Proof.Machine.execDeviceReadFail t what how s
  | .mbEnableWrite t mb on => Sys2Proof.Machine.execMbEnableWrite t mb on s
  | .mbDoorbellWrite t mb prod => Sys2Proof.Machine.execMbDoorbellWrite t mb prod s
  | .mbCqDoorbellWrite t mb head => Sys2Proof.Machine.execMbCqDoorbellWrite t mb head s
  | .mbFetch t mb slot => Sys2Proof.Machine.execMbFetch t mb slot s
  | .commandCommit t => Sys2Proof.Machine.execCommandCommit t s
  | .backgroundComplete t mb seq status result => Sys2Proof.Machine.execBackgroundComplete t mb seq status result s
  | .mailboxFrame t frame => Sys2Proof.Machine.execMailboxFrame t frame s
  | .remoteTimeout t mb seq => Sys2Proof.Machine.execRemoteTimeout t mb seq s
  | .echo t mb cmd => Sys2Proof.Machine.execEcho t mb cmd s
  | .identify t mb cmd => Sys2Proof.Machine.execIdentify t mb cmd s
  | .paramGet t mb cmd => Sys2Proof.Machine.execParamGet t mb cmd s
  | .paramSet t mb cmd => Sys2Proof.Machine.execParamSet t mb cmd s
  | .paramSetMulti t mb cmd => Sys2Proof.Machine.execParamSetMulti t mb cmd s
  | .atNsRelease t cls => Sys2Proof.Machine.execAtNsRelease t cls s
  | .configSave t mb cmd => Sys2Proof.Machine.execConfigSave t mb cmd s
  | .configSaveDeferred t => Sys2Proof.Machine.execConfigSaveDeferred t s
  | .configLoad t mb cmd => Sys2Proof.Machine.execConfigLoad t mb cmd s
  | .tdcCalVisit t mb cmd => Sys2Proof.Machine.execTdcCalVisit t mb cmd s
  | .softAccept t mb cmd => Sys2Proof.Machine.execSoftAccept t mb cmd s
  | .deckRewind t mb cmd => Sys2Proof.Machine.execDeckRewind t mb cmd s
  | .holdCancel t mb cmd => Sys2Proof.Machine.execHoldCancel t mb cmd s
  | .rootClaim t mb cmd => Sys2Proof.Machine.execRootClaim t mb cmd s
  | .rootRelease t mb cmd => Sys2Proof.Machine.execRootRelease t mb cmd s
  | .addrPlan t mb cmd => Sys2Proof.Machine.execAddrPlan t mb cmd s
  | .topologyRead t mb cmd => Sys2Proof.Machine.execTopologyRead t mb cmd s
  | .fwLoad t mb cmd image read => Sys2Proof.Machine.execFwLoad t mb cmd image read s
  | .slotSelect t mb cmd => Sys2Proof.Machine.execSlotSelect t mb cmd s
  | .failover t mb cmd => Sys2Proof.Machine.execFailover t mb cmd s
  | .health t mb cmd => Sys2Proof.Machine.execHealth t mb cmd s
  | .checkerWriteRaw t mb cmd sigOk => Sys2Proof.Machine.execCheckerWriteRaw t mb cmd sigOk s
  | .checkerReadRaw t mb cmd sigOk => Sys2Proof.Machine.execCheckerReadRaw t mb cmd sigOk s
  | .checkerInject t mb cmd sigOk => Sys2Proof.Machine.execCheckerInject t mb cmd sigOk s
  | .injectApply t => Sys2Proof.Machine.execInjectApply t s
  | .recRead t mb cmd => Sys2Proof.Machine.execRecRead t mb cmd s
  | .recClear t mb cmd sigOk => Sys2Proof.Machine.execRecClear t mb cmd sigOk s
  | .nonce t mb cmd => Sys2Proof.Machine.execNonce t mb cmd s
  | .nonceExpire t mb => Sys2Proof.Machine.execNonceExpire t mb s
  | .attest t mb cmd => Sys2Proof.Machine.execAttest t mb cmd s
  | .mb4Status t seq => Sys2Proof.Machine.execMb4Status t seq s
  | .mb4Reset t seq arg0 arg1 => Sys2Proof.Machine.execMb4Reset t seq arg0 arg1 s
  | .mb4SlotSelect t seq arg0 => Sys2Proof.Machine.execMb4SlotSelect t seq arg0 s
  | .mb4FwLoad t seq slot arg0 arg1 bytes image read => Sys2Proof.Machine.execMb4FwLoad t seq slot arg0 arg1 bytes image read s
  | .smbCmdAppend b data pecOk => Sys2Proof.Machine.execSmbCmdAppend b data pecOk s
  | .smbCmdStart b total pecOk => Sys2Proof.Machine.execSmbCmdStart b total pecOk s
  | .smbReadCompletion b => Sys2Proof.Machine.execSmbReadCompletion b s
  | .smbReadResponse b n => Sys2Proof.Machine.execSmbReadResponse b n s
  | .smbMb4Start b opcode seq arg0 arg1 pecOk => Sys2Proof.Machine.execSmbMb4Start b opcode seq arg0 arg1 pecOk s
  | .smbMb4Read b => Sys2Proof.Machine.execSmbMb4Read b s
  | .mb5Data t update => Sys2Proof.Machine.execMb5Data t update s
  | .mb5Go t => Sys2Proof.Machine.execMb5Go t s
  | .mb5PtrReset t => Sys2Proof.Machine.execMb5PtrReset t s
  | .extest t => Sys2Proof.Machine.execExtest t s
  | .idcode t => Sys2Proof.Machine.execIdcode t s
  | .samplePreload t cells => Sys2Proof.Machine.execSamplePreload t cells s
  | .extestPulse t => Sys2Proof.Machine.execExtestPulse t s
  | .extestTrain t => Sys2Proof.Machine.execExtestTrain t s
  | .clamp t => Sys2Proof.Machine.execClamp t s
  | .highz t => Sys2Proof.Machine.execHighz t s
  | .bypass t => Sys2Proof.Machine.execBypass t s
  | .trstNAssert t => Sys2Proof.Machine.execTrstNAssert t s
  | .leaseRenew t pier gen => Sys2Proof.Machine.execLeaseRenew t pier gen s
  | .healthWordPublish t pier word => Sys2Proof.Machine.execHealthWordPublish t pier word s
  | .leaseExpire t => Sys2Proof.Machine.execLeaseExpire t s
  | .leaseGrant t pier => Sys2Proof.Machine.execLeaseGrant t pier s
  | .pierHealthTimeout t pier => Sys2Proof.Machine.execPierHealthTimeout t pier s
  | .heartbeatEmit t temp => Sys2Proof.Machine.execHeartbeatEmit t temp s
  | .checkpointMark t bytes crossed => Sys2Proof.Machine.execCheckpointMark t bytes crossed s
  | .checkpointAck t accepted => Sys2Proof.Machine.execCheckpointAck t accepted s
  | .checkpointAckTimeout t => Sys2Proof.Machine.execCheckpointAckTimeout t s
  | .fullCopy t => Sys2Proof.Machine.execFullCopy t s
  | .selfTestPassEnd t fault => Sys2Proof.Machine.execSelfTestPassEnd t fault s
  | .maintStart t act unit byHost => Sys2Proof.Machine.execMaintStart t act unit byHost s
  | .maintDeferredStart t act unit => Sys2Proof.Machine.execMaintDeferredStart t act unit s
  | .sramScrubRead t memory addr result written => Sys2Proof.Machine.execSramScrubRead t memory addr result written s
  | .recOccurrence t pier code severity detail => Sys2Proof.Machine.execRecOccurrence t pier code severity detail s
  | .recRepeatExpire t => Sys2Proof.Machine.execRecRepeatExpire t s
  | .recMramWriteComplete t => Sys2Proof.Machine.execRecMramWriteComplete t s
  | .recScan t => Sys2Proof.Machine.execRecScan t s
  | .mramScrubRead t loc result => Sys2Proof.Machine.execMramScrubRead t loc result s
  | .svnCommit t => Sys2Proof.Machine.execSvnCommit t s
  | .ownerRequireWrite t value => Sys2Proof.Machine.execOwnerRequireWrite t value s
  | .ownerLockWrite t => Sys2Proof.Machine.execOwnerLockWrite t s
  | .bootVerify t slotA slotB => Sys2Proof.Machine.execBootVerify t slotA slotB s
  | .porNAssert t width => Sys2Proof.Machine.execPorNAssert t width s
  | .porNRelease t => Sys2Proof.Machine.execPorNRelease t s
  | .clkrefClassify t count => Sys2Proof.Machine.execClkrefClassify t count s
  | .pllLock t pll => Sys2Proof.Machine.execPllLock t pll s
  | .corePllLockLoss t => Sys2Proof.Machine.execCorePllLockLoss t s
  | .railOutOfTolerance t rail out => Sys2Proof.Machine.execRailOutOfTolerance t rail out s
  | .brownOut t rail => Sys2Proof.Machine.execBrownOut t rail s
  | .overlightRelease t tile sum => Sys2Proof.Machine.execOverlightRelease t tile sum s
  | .thermalReading t sensor temp => Sys2Proof.Machine.execThermalReading t sensor temp s
  | .thermalShutdown t => Sys2Proof.Machine.execThermalShutdown t s
  | .thermalShutdownRelease t => Sys2Proof.Machine.execThermalShutdownRelease t s
  | .registerWrite t bar offset size value => Sys2Proof.Machine.execRegisterWrite t bar offset size value s
  | .syncInterval t meas => Sys2Proof.Machine.execSyncInterval t meas s
  | .distributedStep t epoch b toTarget val => Sys2Proof.Machine.execDistributedStep t epoch b toTarget val s
  | .routeInstallAck t identity => Sys2Proof.Machine.execRouteInstallAck t identity s
  | .toutPulseEnd t x => Sys2Proof.Machine.execToutPulseEnd t x s
  | .ppsOutFall t => Sys2Proof.Machine.execPpsOutFall t s
  | .msixMaskWrite t what => Sys2Proof.Machine.execMsixMaskWrite t what s
  | .perstNRelease t => Sys2Proof.Machine.execPerstNRelease t s

end Sys2Proof.Machine
end

