-- ==== Sys2Proof/Safety.lean ====
section
/-! DEFINITION. What a safe run is, and what a step leaves alone, in the terms the statements use. -/

namespace Sys2Proof

open Sys2Proof.Machine

/-- The instant at which a command given for `t` acts: time does not run back (R306, R308). -/
def Machine.State.instant (s : State) (t : Tm) : Tm := max s.time.now t

/-- A command completes from `s`: it answers a next state, and `P` holds of it. -/
def Acts (c : Instr) (s : State) (P : State → Prop) : Prop := ∃ u, exec c s = .next u ∧ P u

/-- A press job may end now (R246, R248): its memories fail, or its engine has had the time that the job's bytes take it. -/
abbrev JobDue (s : State) (e : Fin 6) (j : Job) (input : List Byte) (poisoned memError : Bool) : Prop :=
  memError = true ∨ s.jobPoisoned j poisoned = true ∨
    s.engineDue e j.compress (if j.compress then (s.jobRun j input).used else (s.jobRun j input).bytes) = true

/-- Event source `n` stands in the host, the firmware and the recorder latch (R21, R365, R367). -/
abbrev Raised (n : Nat) (u : State) : Prop :=
  u.ev.host.getLsbD n = true ∧ u.ev.fw.getLsbD n = true ∧ u.ev.recd.getLsbD n = true

/-- Between `s` and `u` the device sent `o` (log entry 5). -/
abbrev Emits (o : Out) (s u : State) : Prop := o ∈ u.out.take (u.out.length - s.out.length)

/-- The state in which the effect of command `c` of mailbox `mb` begins at `t`: taken out of the accepted ones (R385). -/
def Machine.State.met (s : State) (t : Tm) (mb : Mb) (c : Cmd) : State := ((s.clock t).sender mb c).1

/-- Who sent command `c` of mailbox `mb` (R377, R390). -/
def Machine.State.sentBy (s : State) (t : Tm) (mb : Mb) (c : Cmd) : Who := ((s.clock t).sender mb c).2

/-- The lease holder takes command `c` of mailbox `mb` at `t` for execution (R377, R380, R390): the device itself is its target,
the mailbox serves its class `k`, and its payload of `need` bytes fits. -/
abbrev Served (s : State) (t : Tm) (mb : Mb) (c : Cmd) (need : Nat) (k : Cls) : Prop :=
  s.leased = true ∧ (s.met t mb c).elsewhere c = false ∧ opClass c.opcode c.payload = some k ∧
    (s.met t mb c).serves (s.sentBy t mb c) k = true ∧ c.fits need = stOk

/-- A change is done and its completion, OK with result `r`, waits for the commit of the next boundary (R387). -/
abbrev Owed (c : Cmd) (w : Who) (r : W64) (u : State) : Prop :=
  u.mbox.wait.getLast?.map (fun x => (x.who, x.seq, x.status)) = some (w, c.seq, stOk) ∧
    u.mbox.wait.getLast?.map (fun x => (x.result, x.commit, x.background)) = some (r, u.time.next, false)

/-- A command goes on in the background: its final entry waits for its end (R384). -/
abbrev GoesOn (c : Cmd) (w : Who) (u : State) : Prop :=
  u.mbox.wait.getLast?.map (fun x => (x.who, x.seq, x.background)) = some (w, c.seq, true)

/-- The byte of DDR5 at an address of the map, as the areas hold it (R341, R351). -/
def Machine.State.ddrByte (s : State) (a : Nat) : Byte := Tbl.get (s.ddrDefault a) s.ddr.mem a

/-- A byte of the on-die press buffer (R239). -/
def Machine.State.pressByte (s : State) (a : Nat) : Byte := Tbl.get 0 s.press.buf a

/-- Both byte memories are in canonical form: addresses strictly rise and no entry holds what an unlisted address reads as. -/
abbrev Machine.State.MemoryCanonical (s : State) : Prop :=
  bytesWf s.ddrDefault s.ddr.mem = true ∧ bytesWf (fun _ => 0) s.press.buf = true

/-- A step goes on. -/
def Goes (o : Host.Outcome State Fault Refusal) (t : State) : Prop := o = .next t

/-- A run of `k` steps goes on to a state: nothing faults and nothing is refused. -/
def SafeRun (k : Nat) (s : State) : Prop := ∃ t, core.run k s = .next t

/-- The parts of the state, one for each field of `State`. -/
inductive Part where
  | time | ev | recd | afe | dig | tdc | trg | loop | deck | seam | ctx | fab | lane | ddr | host | mbox | core | mem
  | press | sec | pwr | regs | out | free | pending
  deriving DecidableEq, Repr

/-- A part stands as before. The words of the firmware parameters are judged one by one, in `Only`. -/
def Part.same (s u : State) : Part → Prop
  | .time => u.time = s.time
  | .ev => u.ev = s.ev
  | .recd => u.recd = s.recd
  | .afe => u.afe = s.afe
  | .dig => u.dig = s.dig
  | .tdc => u.tdc = s.tdc
  | .trg => u.trg = s.trg
  | .loop => u.loop = s.loop
  | .deck => u.deck = s.deck
  | .seam => u.seam = s.seam
  | .ctx => u.ctx = s.ctx
  | .fab => u.fab = s.fab
  | .lane => u.lane = s.lane
  | .ddr => u.ddr = s.ddr
  | .host => u.host = s.host
  | .mbox => u.mbox = s.mbox
  | .core => u.core = s.core
  | .mem => u.mem = s.mem
  | .press => u.press = s.press
  | .sec => u.sec = s.sec
  | .pwr => u.pwr = s.pwr
  | .regs => True
  | .out => u.out = s.out
  | .free => u.free = s.free
  | .pending => u.pending = s.pending

/-- The parameter an identifier belongs to, as its identifier at index 0 (R7). -/
def parOf (id : Nat) : Nat := id / 16777216 * 16777216 + id % 4096

/-- Every word of every firmware parameter but those of `rs` reads as before. -/
def RegsSame (rs : List Nat) (s u : State) : Prop :=
  ∀ id d, parOf id ∉ rs → Tbl.get d u.regs id = Tbl.get d s.regs id

/-- From `s` to `u` only the parts `ps` may change, and of the firmware parameters only `rs` (all of them where `ps` names
`Part.regs`). -/
def Only (ps : List Part) (rs : List Nat) (s u : State) : Prop :=
  (∀ p, p ∉ ps → p.same s u) ∧ (Part.regs ∈ ps ∨ RegsSame rs s u)

end Sys2Proof
end

