-- ==== Sys2Proof/Certificates/Slice0/Obligations.lean ====
section
/-! DEFINITION. The statements for the provers. `s` is any state, reached or not, in which no whole-device reset is held;
`t` is the instant of the command; every clause says that the command answers a next state and what that state holds. -/

open Sys2Proof Sys2Proof.Machine

/-- For every state that holds no whole-device reset: a slot, at a multiple of 62.5 ms, whose channel the interlock matrix lets run starts that channel's visit; a due result with agreeing halves is written to IMP_C and IMP_RES and ends the visit; one with disagreeing halves marks IMP_INVALID and puts the channel at the head of the queue; a write of 1 to BROKEN clears it and queues the channel's return for the next boundary. (R46, R47, R48, R51, R421) -/
def Obligations.FrontEndVisitsComplete : Prop :=
  ∀ (s : State) (t : Tm), s.pwr.por = false →
    (∀ (tile : Tile) (i : Nat),
      s.instant t % slotLen = 0 →
      s.flag P.IMP_CFG_ENABLE tile = true →
      s.tripped tile = false →
      s.leased = true →
      s.abut = false →
      (s.clock t).slotChannel tile = some i →
      s.maintJudge 0 (16 * tile.val + i) = .run →
      Acts (.impedanceSlotStart t tile) s fun u =>
        (u.fe tile).visit = some i ∧
        i ∉ (u.fe tile).queue ∧
        u.maintRuns 0 (16 * tile.val + i) = true ∧
        u.get P.MAINT_STATUS_STATE 0 = 1) ∧
    -- A result whose two halves agree.
    (∀ (tile : Tile) (i : Nat) (ire iim : Int) (half1 half2 : Nat),
      (s.fe tile).visit = some i →
      (s.core.run.any (fun a => a.code == 0 && a.unit == 16 * tile.val + i && decide (a.since + visitLen ≤ s.instant t)) = true) →
      halvesDiffer half1 half2 = false →
      Acts (.impedanceVisitResult t tile ire iim half1 half2) s fun u =>
        (u.fe tile).visit = none ∧
        u.get P.IMP_C_CAP (16 * tile.val + i) = impField (impCap ire iim) P.IMP_C_CAP [ire, iim] ∧
        u.get P.IMP_RES_RES (16 * tile.val + i) = impField (impRes ire iim) P.IMP_RES_RES [ire, iim] ∧
        u.flag P.CH_STATUS_IMP_INVALID (16 * tile.val + i) = false ∧
        u.maintRuns 0 (16 * tile.val + i) = false) ∧
    -- A result whose halves differ by more than a quarter of the larger.
    (∀ (tile : Tile) (i : Nat) (ire iim : Int) (half1 half2 : Nat),
      (s.fe tile).visit = some i →
      (s.core.run.any (fun a => a.code == 0 && a.unit == 16 * tile.val + i && decide (a.since + visitLen ≤ s.instant t)) = true) →
      halvesDiffer half1 half2 = true →
      Acts (.impedanceVisitResult t tile ire iim half1 half2) s fun u =>
        (u.fe tile).visit = none ∧
        (u.fe tile).queue.head? = some i ∧
        u.flag P.CH_STATUS_IMP_INVALID (16 * tile.val + i) = true ∧
        u.get P.IMP_C_CAP (16 * tile.val + i) = s.get P.IMP_C_CAP (16 * tile.val + i)) ∧
    (∀ (ch : Ch),
      s.flag P.CH_STATUS_BROKEN ch = true →
      Acts (.channelRestore t ch) s fun u =>
        u.flag P.CH_STATUS_BROKEN ch = false ∧
        ch.val ∈ u.afe.back ∧
        ch.val ∉ u.afe.leave)

/-- For every state that holds no whole-device reset: a pin that becomes active in a tile blanks it with no guard running; a guard that ends unblanks the tile and its 16 channels; a frozen conversion goes on at its next sample once the tile is unblanked; one frozen for longer than BLANK_MAX is abandoned, counted and reported; a settle window closes at its end and touches no other tile. (R53, R54, R56, R148) -/
def Obligations.BlankingCompletes : Prop :=
  ∀ (s : State) (t : Tm), s.pwr.por = false →
    (∀ (pin : Fin 2) (level : Bool),
      Acts (.blankPinEdge t pin level) s fun u =>
        ((if pin = 0 then u.afe.pin0 else u.afe.pin1) = level) ∧
        (if pin = 0 then u.afe.pin1 = s.afe.pin1 else u.afe.pin0 = s.afe.pin0) ∧
        (∀ tile : Tile, u.pinActive pin tile = true → (u.fe tile).blanked = true ∧ (u.fe tile).guardUntil = none)) ∧
    (∀ (tile : Tile) (g : Tm),
      (s.fe tile).guardUntil = some g →
      g ≤ s.instant t →
      Acts (.blankGuardExpire t tile) s fun u =>
        (u.fe tile).blanked = false ∧
        (u.fe tile).guardUntil = none ∧
        (∀ i : Fin 16, u.flag P.CH_STATUS_BLANKED (16 * tile.val + i.val) = false) ∧
        (∀ j, j ≠ tile.val → u.fe j = s.fe j)) ∧
    (∀ (tile : Tile) (c : Conv),
      (s.hk tile).run = some c →
      (s.fe tile).blanked = false →
      c.frozenAt ≠ none →
      c.seg ≤ s.instant t →
      Acts (.conversionResume t tile) s fun u =>
        (u.hk tile).run = some { c with frozenAt := none, settle := c.settle || s.marked tile c.seg } ∧
        (∀ j, j ≠ tile.val → u.hk j = s.hk j)) ∧
    (∀ (tile : Tile) (c : Conv) (f : Tm),
      (s.hk tile).run = some c →
      c.frozenAt = some f →
      f + s.get P.BLANK_GUARD_BLANK_MAX 0 * usSt < s.instant t →
      Acts (.blankMaxAbandon t tile) s fun u =>
        (u.hk tile).lastEnd = s.instant t ∧
        ((u.hk tile).run.map (fun d => (d.entry, d.input)) = (s.hk tile).urgent.head?.map (fun d => (255, d.input))) ∧
        u.get P.BLANK_INT_ABANDONED 0 = satTo P.BLANK_INT_ABANDONED.width (s.get P.BLANK_INT_ABANDONED 0 + 1) ∧
        Raised (96 + 2 * tile.val) u) ∧
    (∀ (tile : Tile),
      (s.fe tile).settleOpen = true →
      (s.fe tile).settleUntil ≤ s.instant t →
      Acts (.settleWindowExpire t tile) s fun u =>
        u.fe tile = { s.fe tile with settleOpen := false } ∧
        (∀ j, j ≠ tile.val → u.fe j = s.fe j))

/-- For every state that holds no whole-device reset: a reported sum above the limit starts the glitch filter, any other sum stops it; a filter that has run 100 oscillator cycles trips the tile (TRIPPED, a pulled OVERLIGHT_N, the common trim at -4,096, the ramp begun from the codes of the moment, the loop output at -4,096 and held, the tile's source raised); a finished ramp leaves every trim code of the tile at 0, and its last steps open the settle window; an allowed clear releases TRIPPED, TRIP_HELD and OVERLIGHT_N and a refused one leaves TRIPPED; a limit no higher than the fused one is stored and judged at once, a higher one is not stored. (R57, R58, R59, R60, R145, R148) -/
def Obligations.OverlightTripCompletes : Prop :=
  ∀ (s : State) (t : Tm), s.pwr.por = false →
    (∀ (tile : Tile) (sum : Nat),
      Acts (.tileCurrentCross t tile sum) s fun u =>
        (u.fe tile).sum = sum ∧
        ((u.fe tile).filterFrom = none ↔ sum ≤ s.tripLimit tile) ∧
        ((s.fe tile).filterFrom = none → s.tripLimit tile < sum → (u.fe tile).filterFrom = some (s.instant t)) ∧
        ((u.fe tile).halfFrom = none ↔ s.tripLimit tile ≤ 2 * sum)) ∧
    (∀ (tile : Tile) (f : Tm),
      (s.fe tile).filterFrom = some f →
      f + glitchMin ≤ s.instant t →
      s.tripped tile = false →
      Acts (.glitchFilterExpire t tile) s fun u =>
        u.tripped tile = true ∧
        u.get P.TRIP_STATUS_TRIP_COUNT tile = satTo P.TRIP_STATUS_TRIP_COUNT.width (s.get P.TRIP_STATUS_TRIP_COUNT tile + 1) ∧
        (u.fe tile).common = -4096 ∧
        (u.fe tile).rampFrom = some (s.instant t) ∧
        (u.fe tile).overlightN = false ∧
        (u.fe tile).visit = none ∧
        (u.fe tile).rampCodes = (channelsOf tile).map (s.clock t).trimNow ∧
        u.flag P.LOOP_STATUS_TRIP_HELD tile = true ∧
        u.get P.LOOP_OUT_DUTY tile = 0 ∧
        (u.lp tile).u = -4096 * 256 ∧
        Raised (97 + 2 * tile.val) u ∧
        Emits (.pin (.overlightN tile) false) s u) ∧
    (∀ (tile : Tile) (f : Tm),
      (s.fe tile).rampFrom = some f →
      ((channelsOf tile).all (fun c => (s.clock t).trimNow c == 0) = true) →
      Acts (.tripRampDone t tile) s fun u =>
        (u.fe tile).rampFrom = none ∧
        (∀ i : Fin 16, u.get P.TRIM_NOW_CODE (16 * tile.val + i.val) = 0) ∧
        ((s.fe tile).rampSeen < (s.fe tile).rampSteps (s.instant t) → (u.fe tile).settleOpen = true ∧ (u.fe tile).settleUntil = f + ceilDiv ((s.fe tile).rampSteps (s.instant t) * usSt) 256 + s.get P.SETTLE_US tile * usSt)) ∧
    -- A clear inside the conditions of R59.
    (∀ (tile : Tile),
      s.tripped tile = true →
      (s.clock t).tripClearable tile = true →
      Acts (.tripClear t tile) s fun u =>
        u.tripped tile = false ∧
        u.flag P.LOOP_STATUS_TRIP_HELD tile = false ∧
        (u.fe tile).overlightN = true ∧
        ((s.fe tile).rampFrom = none → (channelsOf tile).any (fun c => s.trimCode c != s.get P.TRIM_NOW_CODE c) = true → (u.fe tile).settleOpen = true) ∧
        Emits (.pin (.overlightN tile) true) s u) ∧
    -- A clear at any other time.
    (∀ (tile : Tile),
      s.tripped tile = true →
      (s.clock t).tripClearable tile = false →
      Acts (.tripClear t tile) s fun u =>
        u = s.clock t) ∧
    (∀ (tile : Tile) (limit : BitVec 16),
      limit.toNat ≤ s.get P.TRIP_FUSED_FUSED tile →
      Acts (.tripLimitWrite t tile limit) s fun u =>
        u.get P.TRIP_LIMIT_LIMIT tile = limit.toNat ∧
        u.tripLimit tile = limit.toNat ∧
        ((u.fe tile).filterFrom = none ↔ (s.fe tile).sum ≤ limit.toNat)) ∧
    -- A limit above the fused one is refused.
    (∀ (tile : Tile) (limit : BitVec 16),
      s.get P.TRIP_FUSED_FUSED tile < limit.toNat →
      Acts (.tripLimitWrite t tile limit) s fun u =>
        u = s.clock t)

/-- For every state that holds no whole-device reset: a pass start adopts the sequence and the period in force and counts the enabled entries the old pass had not started; an entry whose offset is reached starts on a free converter when no urgent request waits; an accepted urgent request starts at once on an idle converter and else joins the queue, a refused one only counts; a finished conversion stores its shifted sum, ends, emits its housekeeping record to the monitoring stream and lets the next urgent request start. (R79, R80, R82, R83, R137, R39, R41) -/
def Obligations.HousekeepingCompletes : Prop :=
  ∀ (s : State) (t : Tm), s.pwr.por = false →
    (∀ (tile : Tile) (p : Tm),
      (passStart (s.instant t) (if (s.hk tile).passAt.isNone then s.get P.HK_PASS_PERIOD_US tile else (s.hk tile).period) = p) →
      (s.hk tile).passAt ≠ some p →
      s.stretchFrom ≤ p →
      s.abut = false →
      Acts (.hkPassStart t tile) s fun u =>
        (u.hk tile).passAt = some p ∧
        (u.hk tile).period = s.get P.HK_PASS_PERIOD_US tile ∧
        (u.hk tile).entry = 0 ∧
        (u.hk tile).asked = 0 ∧
        (∀ e : Fin 32, (u.hk tile).entryWord e = Regs.word s.regs P.HK_SEQ_INPUT tile e) ∧
        (u.get P.HK_STATUS_SKIPPED tile = satTo P.HK_STATUS_SKIPPED.width (s.get P.HK_STATUS_SKIPPED tile +
          (if (s.hk tile).passAt.isNone then 0 else ((upTo 32).filter fun e => decide ((s.hk tile).entry ≤ e) && (s.hk tile).enabled e).length)))) ∧
    (∀ (tile : Tile) (p : Tm) (e : Nat),
      (s.hk tile).passAt = some p →
      (s.hk tile).nextEnabled (s.hk tile).entry 32 = e →
      e < 32 →
      (s.hk tile).run = none →
      (s.hk tile).urgent = [] →
      p + P.HK_SEQ_OFFSET_US.of ((s.hk tile).entryWord e) * usSt ≤ s.instant t →
      s.hkEdge (max (s.instant t) (s.hk tile).lastEnd) < passStart (max p (s.stretchFrom - 1)) (s.hk tile).period + (s.hk tile).period * usSt →
      Acts (.hkEntryStart t tile) s fun u =>
        (u.hk tile).entry = e + 1 ∧
        ((u.hk tile).run.map (fun c => (c.entry, c.input, c.avg, c.shift, c.first)) =
          some (e, P.HK_SEQ_INPUT.of ((s.hk tile).entryWord e), P.HK_SEQ_AVG.of ((s.hk tile).entryWord e) + 1,
          P.HK_SEQ_SHIFT.of ((s.hk tile).entryWord e), s.hkEdge (max (s.instant t) (s.hk tile).lastEnd))) ∧
        u.get P.HK_STATUS_SKIPPED tile = s.get P.HK_STATUS_SKIPPED tile) ∧
    -- Accepted, on a free converter and on a busy one.
    (∀ (tile : Tile) (input : Fin 24) (avg : Fin 8) (shift : Fin 9),
      (¬(input.val = 22 ∧ avg.val = 7)) →
      s.abut = false →
      (s.hk tile).asked + 1 + (s.clock t).loopRemaining tile ≤ 16 →
      Acts (.hkUrgentRequest t tile input avg shift) s fun u =>
        (u.hk tile).asked = (s.hk tile).asked + 1 ∧
        ((s.hk tile).run ≠ none → (u.hk tile).urgent = (s.hk tile).urgent ++ [⟨input, avg + 1, shift, none⟩] ∧ (u.hk tile).run = (((s.clock t).rampTo tile).hk tile).run) ∧
        ((s.hk tile).run = none → (s.hk tile).urgent = [] → (u.hk tile).urgent = [] ∧
          (u.hk tile).run.map (fun c => (c.entry, c.input, c.avg, c.shift, c.loop)) = some (255, input.val, avg.val + 1, shift.val, none)) ∧
        u.get P.HK_STATUS_URGENT_REFUSED tile = s.get P.HK_STATUS_URGENT_REFUSED tile) ∧
    -- Refused: 16 requests of the pass are taken or kept for the loop.
    (∀ (tile : Tile) (input : Fin 24) (avg : Fin 8) (shift : Fin 9),
      (¬(input.val = 22 ∧ avg.val = 7)) →
      s.abut = false →
      16 < (s.hk tile).asked + 1 + (s.clock t).loopRemaining tile →
      Acts (.hkUrgentRequest t tile input avg shift) s fun u =>
        u.hk tile = ((s.clock t).rampTo tile).hk tile ∧
        u.get P.HK_STATUS_URGENT_REFUSED tile = satTo P.HK_STATUS_URGENT_REFUSED.width (s.get P.HK_STATUS_URGENT_REFUSED tile + 1)) ∧
    (∀ (tile : Tile) (c : Conv) (sum sumQ low high : Nat),
      (((s.clock t).rampTo tile).hk tile).run = some c →
      c.frozenAt = none →
      c.stop ≤ s.instant t →
      Acts (.hkConversionComplete t tile sum sumQ ⟨low, high⟩) s fun u =>
        u.get P.HK_RESULT_RESULT tile (c.input % 24) = sum / 2 ^ c.shift % 2 ^ 24 ∧
        (u.hk tile).lastEnd = c.stop ∧
        ((u.hk tile).run.map (fun d => (d.entry, d.input)) = (s.hk tile).urgent.head?.map (fun d => (255, d.input))) ∧
        (c.input < 16 → u.get P.CUR_NOW_CURRENT (16 * tile.val + c.input) = satTo 32 (slowPa c.range c.avg c.shift (sum / 2 ^ c.shift % 2 ^ 24))) ∧
        (c.input < 16 → u.flag P.CH_STATUS_FLOOR_PART (16 * tile.val + c.input) = (floorOf low high (1000 * s.get P.FLOOR_FLOOR_NA (16 * tile.val + c.input)) == 1)) ∧
        (u.ctx.mon.getLast?.map (fun q => (q.pos, q.data.type, q.data.tb)) = some (s.ctx.monEnd, 7, ((s.clock t).stampAt c.first).tb)) ∧
        (u.ctx.mon.getLast?.map (fun q => q.data.body.take 8) = some ([BitVec.ofNat 8 tile.val, BitVec.ofNat 8 c.entry, BitVec.ofNat 8 c.input,
          BitVec.ofNat 8 (c.avg - 1 + 8 * c.shift)] ++ le 4 (sum / 2 ^ c.shift % 2 ^ 24))))

/-- For every state that holds no whole-device reset: a rotation begins at a second boundary when it is enabled, due and let run by the matrix; a passed match moves SPARE_MATCH on and corrects the spare's offset, or the channel's own offset in CHANNEL_MATCH; a first failed match counts and sends the spare to calibration with the step to be restarted; a good calibration of the slice in hand sets its coefficients and moves on to CHANNEL_MATCH; one of the spare marks the calibration done. (R71, R72, R74, R75, R77, R421, R488) -/
def Obligations.SliceRotationCompletes : Prop :=
  ∀ (s : State) (t : Tm), s.pwr.por = false →
    (∀ (tile : Tile),
      s.leased = true →
      s.abut = false →
      s.instant t % secSt = 0 →
      (s.clock t).rotPermits tile = true →
      s.get P.ROT_STATUS_STATE tile = 0 →
      s.maintJudge 1 tile = .run →
      (s.clock t).visitsDue tile = false →
      Acts (.rotationStart t tile) s fun u =>
        u.get P.ROT_STATUS_STATE tile = 1 ∧
        u.get P.ROT_STATUS_STEP tile = 0 ∧
        (u.rot tile).last = some (s.instant t) ∧
        u.maintRuns 1 tile = true) ∧
    -- SPARE_MATCH passes.
    (∀ (tile : Tile) (mean : Int) (rms : Nat),
      s.get P.ROT_STATUS_STATE tile = 1 →
      s.get P.ROT_STATUS_STEP tile < 16 →
      (s.rot tile).done = false →
      (s.rot tile).since + matchLen ≤ s.instant t →
      s.matchOk mean rms = true →
      Acts (.sliceMatchComplete t tile mean rms) s fun u =>
        u.get P.ROT_STATUS_STATE tile = 2 ∧
        u.rot tile = { s.rot tile with spareOff := clamp16 ((s.rot tile).spareOff + 2 * mean) } ∧
        u.get P.MATCH_LAST_RMS (16 * tile.val + s.get P.ROT_STATUS_STEP tile) = satTo 8 rms) ∧
    -- CHANNEL_MATCH passes.
    (∀ (tile : Tile) (mean : Int) (rms : Nat),
      s.get P.ROT_STATUS_STATE tile = 4 →
      s.get P.ROT_STATUS_STEP tile < 16 →
      (s.rot tile).done = false →
      (s.rot tile).since + matchLen ≤ s.instant t →
      s.matchOk mean rms = true →
      Acts (.sliceMatchComplete t tile mean rms) s fun u =>
        u.get P.ROT_STATUS_STATE tile = 5 ∧
        u.get P.SLICE_CORR_OFFSET (16 * tile.val + s.get P.ROT_STATUS_STEP tile) =
          satSigned 16 (s.int P.SLICE_CORR_OFFSET (16 * tile.val + s.get P.ROT_STATUS_STEP tile) + 2 * mean)) ∧
    -- SPARE_MATCH fails for the first time in its step.
    (∀ (tile : Tile) (mean : Int) (rms : Nat),
      s.get P.ROT_STATUS_STATE tile = 1 →
      s.get P.ROT_STATUS_STEP tile < 16 →
      (s.rot tile).done = false →
      (s.rot tile).failed = false →
      (s.rot tile).since + matchLen ≤ s.instant t →
      s.matchOk mean rms = false →
      Acts (.sliceMatchComplete t tile mean rms) s fun u =>
        u.get P.ROT_STATUS_STATE tile = 6 ∧
        (u.rot tile).restart = true ∧
        u.get P.SLICE_STATUS_MISMATCH_COUNT (16 * tile.val + s.get P.ROT_STATUS_STEP tile) =
          satTo P.SLICE_STATUS_MISMATCH_COUNT.width (s.get P.SLICE_STATUS_MISMATCH_COUNT (16 * tile.val + s.get P.ROT_STATUS_STEP tile) + 1)) ∧
    -- CHANNEL_CAL of the slice in hand.
    (∀ (tile : Tile) (slice : Fin 17) (offset gain lowOffset lowGain : Int) (expected least most : Nat),
      s.get P.ROT_STATUS_STATE tile = 3 →
      s.get P.ROT_STATUS_STEP tile = slice.val →
      (s.rot tile).since + calLen ≤ s.instant t →
      densityOk expected least most = true →
      Acts (.sliceCalibrationComplete t tile slice ⟨offset, gain⟩ ⟨lowOffset, lowGain⟩ expected ⟨least, most⟩) s fun u =>
        u.get P.ROT_STATUS_STATE tile = 4 ∧
        Tbl.get (0, 0) (u.rot tile).lows slice.val = (clamp16 lowOffset, clamp16 lowGain) ∧
        u.get P.SLICE_CORR_OFFSET (16 * tile.val + slice.val) = satSigned 16 offset ∧
        u.get P.SLICE_CORR_GAIN (16 * tile.val + slice.val) = satSigned 16 gain) ∧
    -- SPARE_CAL.
    (∀ (tile : Tile) (slice : Fin 17) (offset gain lowOffset lowGain : Int) (expected least most : Nat),
      s.get P.ROT_STATUS_STATE tile = 6 →
      (s.rot tile).done = false →
      slice.val = 16 →
      (s.rot tile).since + calLen ≤ s.instant t →
      densityOk expected least most = true →
      Acts (.sliceCalibrationComplete t tile slice ⟨offset, gain⟩ ⟨lowOffset, lowGain⟩ expected ⟨least, most⟩) s fun u =>
        (u.rot tile).done = true ∧
        (u.rot tile).spareOff = clamp16 offset ∧
        (u.rot tile).spareGain = clamp16 gain ∧
        Tbl.get (0, 0) (u.rot tile).lows 16 = (clamp16 lowOffset, clamp16 lowGain))

/-- For every state that holds no whole-device reset: a period start adopts the period and puts every enabled, untripped, unfrozen tile whose LOOP_MODE is AUTO into AUTO; a computation, 320 cc after the engine could begin it and in tile order, in MANUAL moves the output towards MAN_U by at most the slew bound, and one in AUTO gives an output inside the code range; at P/2 every running, untripped tile that began the period takes its computed output, or keeps the old one and shows LOOP_OVERRUN; a current older than CUR_HOLD shows CUR_STALE and raises source 20. (R134, R135, R137, R139, R140, R142, R143, R144) -/
def Obligations.BiasLoopCompletes : Prop :=
  ∀ (s : State) (t : Tm), s.pwr.por = false →
    (∀ (p : Nat),
      ((if s.instant t % secSt = 0 then s.get P.LOOP_PERIOD_US 0 else s.loop.period) = p) →
      s.instant t % secSt % (p * usSt) = 0 →
      s.loop.start ≠ some (s.instant t) →
      Acts (.loopPeriodStart t) s fun u =>
        u.loop.start = some (s.instant t) ∧
        u.loop.period = p ∧
        u.loop.applied = false ∧
        (∀ tile : Tile, s.flag P.LOOP_MODE_MODE tile = true → s.flag P.LOOP_CFG_ENABLE tile = true → s.tripped tile = false →
          (s.lp tile).frozen = false → u.flag P.LOOP_STATUS_MODE_NOW tile = true)) ∧
    -- MANUAL.
    (∀ (tile : Tile) (t0 : Tm) (hv : Nat × Tm) (begin : Tm),
      s.loop.start = some t0 →
      (s.hk tile).hv = some hv →
      s.loopReady tile = some begin →
      s.loopTurn tile begin = true →
      begin + loopCc ≤ s.instant t →
      s.loop.applied = false →
      s.instant t ≤ t0 + s.loopLen / 2 →
      s.flag P.LOOP_STATUS_MODE_NOW tile = false →
      Acts (.loopCompute t tile) s fun u =>
        (u.lp tile).nextU = some (clampInt (s.int P.MAN_U_U tile * 256) ((s.lp tile).u - s.loopS tile) ((s.lp tile).u + s.loopS tile)) ∧
        (u.lp tile).v = s.loopV tile hv.1 ∧
        u.loop.freeAt = begin + loopCc ∧
        (u.lp tile).u = (s.lp tile).u) ∧
    -- AUTO.
    (∀ (tile : Tile) (t0 : Tm) (hv : Nat × Tm) (begin : Tm),
      s.loop.start = some t0 →
      (s.hk tile).hv = some hv →
      s.loopReady tile = some begin →
      s.loopTurn tile begin = true →
      begin + loopCc ≤ s.instant t →
      s.loop.applied = false →
      s.instant t ≤ t0 + s.loopLen / 2 →
      s.flag P.LOOP_STATUS_MODE_NOW tile = true →
      Acts (.loopCompute t tile) s fun u =>
        (u.lp tile).nextU ≠ none ∧
        ((u.lp tile).nextU.all (fun x => decide (-4096 * 256 ≤ x ∧ x ≤ 4095 * 256)) = true) ∧
        (u.lp tile).nextDuty ≤ 65535 * 256 ∧
        (u.lp tile).v = s.loopV tile hv.1 ∧
        u.loop.freeAt = begin + loopCc ∧
        (u.lp tile).u = (s.lp tile).u) ∧
    (∀ (t0 : Tm),
      s.loop.start = some t0 →
      s.loop.applied = false →
      t0 + s.loopLen / 2 ≤ s.instant t →
      Acts (.loopOutputApply t) s fun u =>
        u.loop.applied = true ∧
        (∀ tile : Tile, s.loopRuns tile = true → (s.lp tile).asked = true → s.tripped tile = false →
          (u.lp tile).u = (s.lp tile).nextU.getD (s.lp tile).u ∧ (u.lp tile).nextU = none ∧
          ((s.lp tile).nextU = none → u.flag P.LOOP_STATUS_LOOP_OVERRUN tile = true))) ∧
    (∀ (tile : Tile),
      (((s.lp tile).curAt.map fun a => decide (a + s.get P.CUR_HOLD_MS 0 * msSt ≤ s.instant t)).getD (decide (s.get P.CUR_HOLD_MS 0 * msSt ≤ (s.clock t).time.up)) = true) →
      s.loopRuns tile = true →
      s.flag P.LOOP_STATUS_CUR_STALE tile = false →
      Acts (.curHoldExpire t tile) s fun u =>
        u.flag P.LOOP_STATUS_CUR_STALE tile = true ∧
        Raised 20 u)

/-- For every state that holds no whole-device reset: a leading edge of an enabled channel opens one hit, stamped with E2 less the interval that the converter's code stands for where an interpolator is free, and coarse where none is, or merges into the latest hit when it follows the last edge by less than 1 ns; a disabled channel takes no hit; a trailing edge closes the oldest open hit with its time over threshold, and 4,095 core cycles saturate it; a completed hit leaves the open list with its peak code; an expired interpolator is free; an interval start opens a block for every enabled channel, with the hits of the interval that came before it; the oldest due block is emitted to the deck with the hits the deck keeps. (R37, R86, R87, R88, R89, R96, R97, R98, R99) -/
def Obligations.HitTimingCompletes : Prop :=
  ∀ (s : State) (t : Tm), s.pwr.por = false →
    -- A new hit.
    (∀ (ch : Ch) (code : BitVec 12),
      s.flag P.FAST_CFG_ENABLE ch = true →
      s.abut = false →
      ((s.td ch).last.all (fun l => decide (l + 3072 ≤ s.instant t)) = true) →
      Acts (.leadingEdge t ⟨ch, code⟩) s fun u =>
        (u.td ch).open_.length = (s.td ch).open_.length + 1 ∧
        ((u.td ch).open_.getLast?.map (fun h => (h.coarse, h.merged, h.trail)) = some (((s.pair ch).take (s.instant t) code.toNat (Config.unstated 13 [ch, code.toNat])).2.isNone, false, none)) ∧
        ((u.td ch).open_.getLast?.map (fun h => h.raw) = some (((s.pair ch).take (s.instant t) code.toNat (Config.unstated 13 [ch, code.toNat])).2.getD (edge1 (s.instant t) - 512))) ∧
        ((u.td ch).open_.getLast?.map (fun h => h.at_) = (u.td ch).open_.getLast?.map fun h => (s.clock t).stampAt ((h.raw : Int) - s.hitOffset ch)) ∧
        (((s.pair ch).take (s.instant t) code.toNat (Config.unstated 13 [ch, code.toNat])).2 = none →
          u.get P.TDC_CNT_COARSE ch = satTo P.TDC_CNT_COARSE.width (s.get P.TDC_CNT_COARSE ch + 1)) ∧
        u.pair ch = ((s.pair ch).take (s.instant t) code.toNat (Config.unstated 13 [ch, code.toNat])).1 ∧
        (u.td ch).last = some (s.instant t) ∧
        (u.feCh ch).high = true) ∧
    -- An edge less than 1 ns after the last.
    (∀ (ch : Ch) (code : BitVec 12) (l : Tm),
      s.flag P.FAST_CFG_ENABLE ch = true →
      s.abut = false →
      (s.td ch).last = some l →
      s.instant t < l + 3072 →
      Acts (.leadingEdge t ⟨ch, code⟩) s fun u =>
        (u.td ch).open_.length = (s.td ch).open_.length ∧
        ((u.td ch).open_.getLast?.map (fun h => (h.merged, h.trail)) = (s.td ch).open_.getLast?.map (fun _ => (true, none))) ∧
        (u.td ch).last = (s.td ch).last ∧
        (u.pair ch).a = (s.pair ch).a.abandon (s.instant t) ∧
        (u.pair ch).b = (s.pair ch).b.abandon (s.instant t) ∧
        u.get P.TDC_CNT_MERGED ch = satTo P.TDC_CNT_MERGED.width (s.get P.TDC_CNT_MERGED ch + 1)) ∧
    -- A disabled channel.
    (∀ (ch : Ch) (code : BitVec 12),
      s.flag P.FAST_CFG_ENABLE ch = false →
      Acts (.leadingEdge t ⟨ch, code⟩) s fun u =>
        u.tdc = s.tdc ∧
        (u.feCh ch).high = true) ∧
    (∀ (ch : Ch) (h : HitSt),
      (s.td ch).open_.find? (·.trail.isNone) = some h →
      s.instant t < h.lead + 4095 * ccSt →
      Acts (.trailingEdge t ch) s fun u =>
        (u.feCh ch).high = false ∧
        (u.feCh ch).dac = none ∧
        { h with trail := some (s.instant t), totSat := false, tot := (edge1 (s.instant t) - h.lead) / ccSt } ∈ (u.td ch).open_ ∧
        ((u.td ch).open_.filter (·.trail.isNone)).length + 1 = ((s.td ch).open_.filter (·.trail.isNone)).length) ∧
    (∀ (ch : Ch) (h : HitSt),
      (s.td ch).open_.find? (·.trail.isNone) = some h →
      h.lead + 4095 * ccSt ≤ s.instant t →
      Acts (.totSaturate t ch) s fun u =>
        { h with trail := some (h.lead + 4095 * ccSt), totSat := true, tot := 4095 } ∈ (u.td ch).open_ ∧
        (∀ y ∈ (u.td ch).open_, y.trail ≠ none)) ∧
    -- Its stamp is ready and the last sample of its window readable.
    (∀ (ch : Ch) (window : List Lvl) (h : HitSt) (rest : List HitSt),
      (s.td ch).open_ = h :: rest →
      (s.clock t).hitReady ch h = true →
      window.length = (s.peakWindow ch h).2 →
      Acts (.hitComplete t ch window) s fun u =>
        (u.td ch).open_ = rest ∧
        (u.td ch).recent.head? = some (h.at_.epoch, ⟨h.at_.tb, h.tot,
          peakCode (maxInt (s.amps (s.peakWindow ch h).1 (s.samplesFrom ch (s.peakWindow ch h).1 window))), h.merged, h.coarse, h.totSat,
          s.anySat ch (s.peakWindow ch h).1 (s.samplesFrom ch (s.peakWindow ch h).1 window)⟩)) ∧
    (∀ (unit : Fin 271) (ip : Fin 2),
      ((s.pair unit).ip ip).stop ≤ s.instant t →
      Acts (.interpolatorFree t unit ip) s fun u =>
        ((u.pair unit).ip ip).test = none ∧
        ((u.pair unit).ip ip).free (s.instant t) = true ∧
        (((u.pair unit).ip ip).n = ((s.pair unit).ip ip).n + (if ((s.pair unit).ip ip).test.isSome then 1 else 0)) ∧
        (u.pair unit).ip (1 - ip.val) = (s.pair unit).ip (1 - ip.val)) ∧
    (s.acquiring = true →
      (s.instant t % msSt = 0 ∨ s.instant t = s.time.last) →
      s.tdc.interval ≠ some (s.clock t).stamp →
      Acts (.blockIntervalStart t) s fun u =>
        u.tdc.interval = some (s.clock t).stamp ∧
        (∀ ch : Ch, s.flag P.FAST_CFG_ENABLE ch = true → (u.td ch).blocks.getLast?.map (fun b => (b.start, b.stop, b.head, b.cont)) =
          some ((s.clock t).stamp, s.intervalEnd (s.instant t), s.instant t, false)) ∧
        (∀ ch : Ch, s.flag P.FAST_CFG_ENABLE ch = true → (u.td ch).blocks.getLast?.map (fun b => b.hits) =
          (u.td ch).blocks.getLast?.map fun b => ((s.td ch).early.filter fun e => b.covers e.1).map (·.2)) ∧
        (∀ ch : Ch, s.flag P.FAST_CFG_ENABLE ch = false → u.td ch = s.td ch)) ∧
    (∀ (ch : Ch) (b : Blk) (bs : List Blk),
      (((s.td ch).blocks.filter fun y => !(y.sent && decide (y.due ≤ s.instant t))) = b :: bs) →
      b.sent = false →
      b.due ≤ s.instant t →
      Acts (.hitBlockEmit t ch) s fun u =>
        (u.td ch).blocks = bs ∧
        (u.deck.blocks = s.deck.blocks ++ (if b.deck && s.flag P.DECK_STATUS_ONLINE 0 then [(ch.val, { b with hits := b.hits.filter (·.deck) })] else [])))

/-- For every state that holds no whole-device reset: the next due visit starts, takes test conversions of 24 core cycles, and, once every conversion is made, completes within 1 s with its fit waiting to take effect and its INL and code-density results, or is abandoned after it; a code-density difference above the tolerance raises source 157; a transfer older than three times EVERY shows STALE; a lost lock stops the visit, counts and raises source 157, and a regained one shows LOCKED when no line is unlocked; an edge that EDGE does not select counts nowhere; an edge that a running gauge's prescaler skips only advances the prescaler, any other is counted and stamped where an interpolator is free; the end of a gate stores the fitted frequency and mean, counts the gate, raises source 88, emits the result record with the gate's start, and starts the next gate of the settings in force at an aligned instant. (R90, R92, R93, R94, R100, R101, R102, R103, R104, R421) -/
def Obligations.CalibrationAndGaugeComplete : Prop :=
  ∀ (s : State) (t : Tm), s.pwr.por = false →
    (∀ (unit : Fin 268),
      s.leased = true →
      s.abut = false →
      (s.clock t).visitNext (visitScope unit) = some unit.val →
      (s.core.run.any (fun a => a.code == 2 && visitScope a.unit == visitScope unit) = false) →
      s.maintJudge 2 unit = .run →
      Acts (.tdcCalVisitStart t unit) s fun u =>
        (u.pair unit).visitAt = some (s.instant t) ∧
        (∀ p ∈ visitPairs unit, (u.pair p).a.n = 0 ∧ (u.pair p).b.n = 0) ∧
        u.maintRuns 2 unit = true ∧
        unit.val ∉ u.mbox.tdcAsk) ∧
    (∀ (unit : Fin 271) (ip : Fin 2) (code : BitVec 12),
      (s.pair (visitOf unit)).visitAt ≠ none →
      (unit.val < 268 ∨ s.pairDone (visitOf unit) = true) →
      (s.pair unit).a.free (s.instant t) = true →
      (s.pair unit).b.free (s.instant t) = true →
      ((s.pair unit).edge.all (fun e => decide (e + 24 * ccSt ≤ s.instant t)) = true) →
      (((s.pair unit).ip ip).collect (s.instant t)).n < s.testsDue →
      Acts (.testConversionStart t unit ⟨ip, code⟩) s fun u =>
        (u.pair unit).ip ip = { ((s.pair unit).ip ip).collect (s.instant t) with stop := s.instant t + 24 * ccSt, test := some code.toNat } ∧
        (u.pair unit).ip (1 - ip.val) = ((s.pair unit).ip (1 - ip.val)).collect (s.instant t)) ∧
    (∀ (unit : Fin 268) (v : Tm),
      (s.pair unit).visitAt = some v →
      s.instant t ≤ v + secSt →
      (visitPairs unit).all ((s.clock t).each (visitPairs unit) State.pairCollect).pairDone = true →
      Acts (.tdcCalVisitComplete t unit [] [] []) s fun u =>
        (u.pair unit).visitAt = none ∧
        (u.pair unit).visited = some (s.instant t) ∧
        (∀ p ∈ visitPairs unit, (u.pair p).fitted = true ∧ (u.pair p).a.fit = ((s.pair p).a.collect (s.instant t)).sums ∧
          (u.pair p).b.fit = ((s.pair p).b.collect (s.instant t)).sums) ∧
        u.maintRuns 2 unit = false ∧
        (unit.val < 256 → u.get P.TDC_CAL_RESULT_INL_A unit = satTo 8 (inlOf ((s.pair unit).a.collect (s.instant t)).sums) ∧
          u.get P.TDC_CAL_RESULT_INL_B unit = satTo 8 (inlOf ((s.pair unit).b.collect (s.instant t)).sums) ∧
          u.get P.TDC_CAL_STATUS_VISITS unit = satTo P.TDC_CAL_STATUS_VISITS.width (s.get P.TDC_CAL_STATUS_VISITS unit + 1)) ∧
        (s.flag P.TDC_CAL_CD_EN 0 = true → s.get P.CD_TOL_TOL 0 < ((s.clock t).each (visitPairs unit) State.pairCollect).visitDev unit →
          Raised 157 u ∧ (unit.val < 256 → u.flag P.TDC_CAL_STATUS_CD_FAIL unit = true))) ∧
    -- With any codes that the command brings.
    (∀ (unit : Fin 268) (v : Tm) (codesA codesB : List (BitVec 12)) (codesPair : List (BitVec 12 × BitVec 12)),
      (s.pair unit).visitAt = some v →
      s.instant t ≤ v + secSt →
      (visitPairs unit).all ((s.clock t).visitMade unit codesA codesB codesPair).pairDone = true →
      Acts (.tdcCalVisitComplete t unit codesA codesB codesPair) s fun u =>
        (u.pair unit).visitAt = none ∧
        (u.pair unit).visited = some (s.instant t) ∧
        (∀ p ∈ visitPairs unit, (u.pair p).fitted = true ∧
          (u.pair p).a.fit = (((s.clock t).visitMade unit codesA codesB codesPair).pair p).a.sums ∧
          (u.pair p).b.fit = (((s.clock t).visitMade unit codesA codesB codesPair).pair p).b.sums) ∧
        u.maintRuns 2 unit = false ∧
        (s.flag P.TDC_CAL_CD_EN 0 = true → s.get P.CD_TOL_TOL 0 < ((s.clock t).visitMade unit codesA codesB codesPair).visitDev unit →
          Raised 157 u ∧ (unit.val < 256 → u.flag P.TDC_CAL_STATUS_CD_FAIL unit = true))) ∧
    -- The last conversions' codes come with the command.
    (∀ (unit : Fin 268) (v : Tm) (codesA codesB : List (BitVec 12)) (codesPair : List (BitVec 12 × BitVec 12)),
      unit.val < 256 →
      (s.pair unit).visitAt = some v →
      s.instant t ≤ v + secSt →
      v + 24 * ccSt * (2 * s.testsDue) ≤ s.instant t →
      ((s.pair unit).edge.all (fun e => decide (e ≤ v)) = true) →
      ((s.pair unit).a.test = none ∧ (s.pair unit).b.test = none) →
      (s.pair unit).a.n + codesA.length = s.testsDue →
      (s.pair unit).b.n + codesB.length = s.testsDue →
      Acts (.tdcCalVisitComplete t unit codesA codesB codesPair) s fun u =>
        (u.pair unit).visitAt = none ∧
        (u.pair unit).fitted = true ∧
        ((u.pair unit).a.fit = (codesA.foldl (fun i c => i.count c.toNat) (s.pair unit).a).sums) ∧
        ((u.pair unit).b.fit = (codesB.foldl (fun i c => i.count c.toNat) (s.pair unit).b).sums)) ∧
    (∀ (unit : Fin 268) (v : Tm),
      (s.pair unit).visitAt = some v →
      v + secSt ≤ s.instant t →
      Acts (.tdcCalVisitTimeout t unit) s fun u =>
        (u.pair unit).visitAt = none ∧
        (u.pair unit).visited = (s.pair unit).visited ∧
        (u.pair unit).fitted = (s.pair unit).fitted ∧
        u.maintRuns 2 unit = false) ∧
    (∀ (ch : Ch),
      s.flag P.TDC_CAL_STATUS_CAL_VALID ch = true →
      (s.pair ch).fitAt + 3 * s.get P.TDC_CAL_EVERY 0 * secSt < s.instant t →
      Acts (.transferStale t ch) s fun u =>
        u.flag P.TDC_CAL_STATUS_STALE ch = true ∧
        u.flag P.TDC_CAL_STATUS_CAL_VALID ch = true ∧
        (∀ b ∈ (u.td ch).blocks, b.cut = true ∨ b.start.epoch ≠ s.time.epoch ∨ b.stop ≤ s.instant t ∨ b.stale = true)) ∧
    (∀ (unit : Fin 268),
      (s.pair unit).unlocked = false →
      Acts (.dllLockLoss t unit) s fun u =>
        (u.pair unit).unlocked = true ∧
        (u.pair unit).visitAt = none ∧
        (u.pair unit).fitAt = (s.pair unit).fitAt ∧
        u.maintRuns 2 unit = false ∧
        u.flag P.DLL_STATUS_LOCKED 0 = false ∧
        u.get P.DLL_STATUS_LOSSES 0 = satTo P.DLL_STATUS_LOSSES.width (s.get P.DLL_STATUS_LOSSES 0 + 1) ∧
        Raised 157 u) ∧
    (∀ (unit : Fin 268),
      Acts (.dllRelock t unit) s fun u =>
        (u.pair unit).unlocked = false ∧
        (u.flag P.DLL_STATUS_LOCKED 0 = (upTo 268).all fun k => !(u.pair k).unlocked)) ∧
    -- An edge that EDGE does not select.
    (∀ (g : Fin 8) (rising : Bool) (code : BitVec 12),
      (s.gauge g).counts rising = false →
      Acts (.gaugeEdge t ⟨g, rising, code⟩) s fun u =>
        u.gauge g = s.gauge g ∧
        u.pair (256 + g) = s.pair (256 + g)) ∧
    -- An edge that the prescaler skips.
    (∀ (g : Fin 8) (rising : Bool) (code : BitVec 12),
      s.abut = false →
      (s.gauge g).start ≠ none →
      (s.gauge g).input ≠ 0x10 →
      (s.gauge g).counts rising = true →
      (s.gauge g).skip + 1 < (s.gauge g).prescale →
      Acts (.gaugeEdge t ⟨g, rising, code⟩) s fun u =>
        u.gauge g = { s.gauge g with skip := (s.gauge g).skip + 1 }) ∧
    -- An edge that the prescaler passes.
    (∀ (g : Fin 8) (rising : Bool) (code : BitVec 12),
      s.abut = false →
      (s.gauge g).start ≠ none →
      (s.gauge g).input ≠ 0x10 →
      (s.gauge g).counts rising = true →
      (s.gauge g).prescale ≤ (s.gauge g).skip + 1 →
      Acts (.gaugeEdge t ⟨g, rising, code⟩) s fun u =>
        (u.gauge g).skip = 0 ∧
        (u.gauge g).count = (s.gauge g).count + 1 ∧
        ((((s.pair (256 + g)).take (s.instant t) code.toNat (Config.unstated 13 [256 + g.val, code.toNat])).2.all fun x =>
          (u.gauge g).stamps == ((s.gauge g).count, ((x : Int) - Config.pinFused (256 + g)).toNat) :: (s.gauge g).stamps) = true) ∧
        (((s.pair (256 + g)).take (s.instant t) code.toNat (Config.unstated 13 [256 + g.val, code.toNat])).2 = none →
          (u.gauge g).lost = ((s.gauge g).count, s.instant t) :: (s.gauge g).lost) ∧
        u.pair (256 + g) = ((s.pair (256 + g)).take (s.instant t) code.toNat (Config.unstated 13 [256 + g.val, code.toNat])).1) ∧
    (∀ (g : Fin 8) (t0 : Tm) (len k : Nat),
      s.abut = false →
      (s.gauge g).start = some t0 →
      gateLen (s.gauge g).gate = len →
      t0 + len ≤ s.instant t →
      storeStep (ceilDiv len (max 1 (s.gauge g).nominal)) 1 40 = k →
      Acts (.gaugeGateEnd t g) s fun u =>
        u.get P.GAUGE_FREQ_FREQ g = unsgn 64 (gateFit (s.gauge g).nominal k ((s.gauge g).residuals t0 len)).freq ∧
        u.get P.GAUGE_MEAN_MEAN g = unsgn 64 (gateFit (s.gauge g).nominal k ((s.gauge g).residuals t0 len)).mean ∧
        u.get P.GAUGE_STATUS_GATES g = satTo P.GAUGE_STATUS_GATES.width (s.get P.GAUGE_STATUS_GATES g + 1) ∧
        Raised 88 u ∧
        (u.gauge g).resultAt = some (s.instant t) ∧
        ((u.gauge g).start = (if s.get P.GAUGE_SEL_INPUT g = 0 then none else
          some (ceilDiv (max (t0 + len) (s.clock t).stretchFrom) (gateLen (s.get P.GAUGE_GATE_GATE g)) * gateLen (s.get P.GAUGE_GATE_GATE g)))) ∧
        (u.ctx.mon.getLast?.map (fun q => (q.pos, q.data.type, q.data.tb)) = some (s.ctx.monEnd, 8, t0)))

/-- For every state that holds no whole-device reset: a write of SWAP_CFG without the lease is denied and counted; with it, it stores the armed set, gives every held value of a class it disarms a boundary with source 70, and holds every value of a class it arms whose cutoff lies ahead; at the cutoff every value due at the next boundary moves to the staging registers in order; a distributed step of the present epoch at a coming boundary becomes pending, one whose boundary has passed is discarded with STEP_DROPPED and source 66; at a boundary that has come and at which no step waits, the boundary is the last one at or before the instant, the next follows by the span length, nothing stays staged; a discriminator threshold that alone is pending and due takes effect there, leaves the pending values, and SWAP_LAST shows the boundary. (R69, R320, R323, R324, R325, R398, R411, R488) -/
def Obligations.SpanSwapsComplete : Prop :=
  ∀ (s : State) (t : Tm), s.pwr.por = false →
    (∀ (armed : BitVec 8),
      s.leased = true →
      Acts (.swapCfgWrite t armed) s fun u =>
        u.get P.SWAP_CFG_ARMED 0 = armed.toNat / 2 ∧
        (∀ c : Fin 8, s.armed c = true → armed.toNat.testBit c = false → Raised 70 u ∧ ∀ p ∈ u.time.pend, p.cls = c.val → p.due ≠ none) ∧
        (∀ c : Fin 8, 0 < c.val → s.armed c = false → armed.toNat.testBit c = true →
          ∀ p ∈ u.time.pend, p.cls = c.val → p.due.all (fun b => decide (b ≤ s.instant t + cutoffLen)) = true) ∧
        (u.time.pend.map (fun p => (p.id, p.val, p.cls)) = s.time.pend.map (fun p => (p.id, p.val, p.cls)))) ∧
    -- Without the lease the write is denied.
    (∀ (armed : BitVec 8),
      s.leased = false →
      Acts (.swapCfgWrite t armed) s fun u =>
        u.get P.SWAP_CFG_ARMED 0 = s.get P.SWAP_CFG_ARMED 0 ∧
        u.time.pend = s.time.pend ∧
        u.core.denied = satTo 32 (s.core.denied + 1) ∧
        Raised 225 u) ∧
    (s.time.next ≤ s.instant t + cutoffLen →
      Acts (.swapCutoff t) s fun u =>
        (u.time.staged = s.time.staged ++ s.time.pend.filter (fun p => p.due.any fun b => decide (b ≤ s.time.next))) ∧
        (u.time.pend = s.time.pend.filter (fun p => p.due.all fun b => decide (s.time.next < b)))) ∧
    -- A step whose boundary is to come.
    (∀ (epoch : Nat) (b : Tm) (toTarget : Bool) (val : Int),
      (s.time.steps.any (fun p => p.b == b && p.epoch == epoch) = false) →
      epoch = s.time.epoch →
      s.time.next ≤ b →
      Acts (.distributedStep t epoch b toTarget val) s fun u =>
        (⟨b, epoch, toTarget, val, none⟩ : PendStep) ∈ u.time.steps ∧
        (∀ p ∈ u.time.steps, p.epoch = s.time.epoch ∧ s.time.next ≤ p.b)) ∧
    -- A step whose boundary has passed, or of another epoch.
    (∀ (epoch : Nat) (b : Tm) (toTarget : Bool) (val : Int),
      (s.time.steps.any (fun p => p.b == b && p.epoch == epoch) = false) →
      (epoch ≠ s.time.epoch ∨ b < s.time.next) →
      Acts (.distributedStep t epoch b toTarget val) s fun u =>
        (⟨b, epoch, toTarget, val, none⟩ : PendStep) ∉ u.time.steps ∧
        u.flag P.TIME_STATUS_STEP_DROPPED 0 = true ∧
        Raised 66 u) ∧
    (∀ (badWords : List Nat) (b : Tm),
      s.time.next ≤ s.instant t →
      s.time.steps = [] →
      max s.time.next (s.instant t / s.spanLen * s.spanLen) = b →
      Acts (.spanBoundary t badWords) s fun u =>
        u.time.last = b ∧
        u.time.next = boundaryAfter b u.spanLen ∧
        u.core.late = false ∧
        u.time.staged = []) ∧
    -- A threshold that is due.
    (∀ (badWords : List Nat) (b d : Tm) (c : Ch) (x : Pend),
      s.time.next ≤ s.instant t →
      s.time.steps = [] →
      max s.time.next (s.instant t / s.spanLen * s.spanLen) = b →
      badWords = [] →
      s.mem.badWords = [] →
      s.time.staged = [] →
      s.time.pend = [x] →
      x.id = P.DISC_THR_THRESHOLD.id c 0 →
      x.due = some d →
      d ≤ b →
      Acts (.spanBoundary t badWords) s fun u =>
        u.get P.DISC_THR_THRESHOLD c = P.DISC_THR_THRESHOLD.of x.val ∧
        u.time.pend = [] ∧
        u.get P.SWAP_LAST_TIME_NS 0 = tbNs b % 2 ^ P.SWAP_LAST_TIME_NS.width)

/-- For every state that holds no whole-device reset: each message of the device's own domain on a running port does its part (Sync and Delay_Req are stamped by the port's interpolator pair, Follow_Up and Delay_Resp of the port's own messages are noted, Delay_Req is answered with its stamp), a message of another domain does nothing; a Sync interval sends Sync with the transmit phase, Follow_Up with its stamp, and Delay_Req; a complete exchange with a refined offset more than 2,048 stitches off is counted as a discard and stores no delay, and any other stores the delay; at the up port its offset joins the average, whose mean starts the slew and shows in TIME_OFFSET; a completed slew clears SLEWING; in LOCKED eight Sync intervals without a master bring HOLDOVER with sources 64 and 69; a PPS edge of the chosen polarity is stamped, noted at a root that follows it, and joins the average once time is set; two seconds without one bring HOLDOVER with sources 64, 68 and 69. (R94, R310, R311, R312, R313, R314, R315, R316, R317, R318) -/
def Obligations.TimeExchangeCompletes : Prop :=
  ∀ (s : State) (t : Tm), s.pwr.por = false →
    -- Sync.
    (∀ (port : Port) (msg : TimeMsg),
      s.syncRuns port = true →
      msg.domain = s.get P.TIME_CFG_DOMAIN 0 →
      msg.body = .sync →
      Acts (.timeMessage t port msg) s fun u =>
        ((u.portTime port).t2 = ((s.pair (264 + port.val)).take (s.instant t) msg.code.toNat (Config.unstated 13 [264 + port.val, msg.code.toNat])).2.map fun x => (x : Int) - Config.pinFused (264 + port)) ∧
        u.pair (264 + port.val) = ((s.pair (264 + port.val)).take (s.instant t) msg.code.toNat (Config.unstated 13 [264 + port.val, msg.code.toNat])).1 ∧
        (u.portTime port).t1 = none ∧
        (u.portTime port).seq = msg.seq ∧
        (u.portTime port).masterEpoch = msg.epoch ∧
        ((u.portTime port).phase = (if msg.valid then some msg.phase.toNat else none))) ∧
    -- Follow_Up of the noted Sync.
    (∀ (port : Port) (msg : TimeMsg) (t1 : Int),
      s.syncRuns port = true →
      msg.domain = s.get P.TIME_CFG_DOMAIN 0 →
      msg.body = .followUp t1 →
      (s.portTime port).seq = msg.seq →
      Acts (.timeMessage t port msg) s fun u =>
        (u.portTime port).t1 = some t1) ∧
    -- Delay_Req.
    (∀ (port : Port) (msg : TimeMsg),
      s.syncRuns port = true →
      msg.domain = s.get P.TIME_CFG_DOMAIN 0 →
      msg.body = .delayReq →
      Acts (.timeMessage t port msg) s fun u =>
        u.pair (264 + port.val) = ((s.pair (264 + port.val)).take (s.instant t) msg.code.toNat (Config.unstated 13 [264 + port.val, msg.code.toNat])).1 ∧
        (∀ x ∈ ((s.pair (264 + port.val)).take (s.instant t) msg.code.toNat (Config.unstated 13 [264 + port.val, msg.code.toNat])).2,
          Emits (.time port ⟨msg.domain, Regs.word s.regs P.FAB_ID_ID 0, port + 1, msg.seq, 0, false, s.time.epoch, 0, .delayResp ((x : Int) - Config.pinFused (264 + port))⟩) s u) ∧
        (((s.pair (264 + port.val)).take (s.instant t) msg.code.toNat (Config.unstated 13 [264 + port.val, msg.code.toNat])).2 = none → u.out = s.out)) ∧
    -- Delay_Resp to the port's own Delay_Req.
    (∀ (port : Port) (msg : TimeMsg) (t4 : Int),
      s.syncRuns port = true →
      msg.domain = s.get P.TIME_CFG_DOMAIN 0 →
      msg.body = .delayResp t4 →
      (s.portTime port).sent = msg.seq →
      Acts (.timeMessage t port msg) s fun u =>
        (u.portTime port).t4 = some t4 ∧
        (u.portTime port).masterEpoch = msg.epoch) ∧
    -- A message of another domain.
    (∀ (port : Port) (msg : TimeMsg),
      msg.domain ≠ s.get P.TIME_CFG_DOMAIN 0 →
      Acts (.timeMessage t port msg) s fun u =>
        u = s.clock t) ∧
    (∀ (port : Port) (syncCode reqCode : BitVec 12) (phase : BitVec 13),
      s.syncRuns port = true →
      Acts (.syncInterval t ⟨port, syncCode, reqCode, phase⟩) s fun u =>
        (u.portTime port).t3 = ((((s.clock t).portAdopt port).pinEdge (264 + port) syncCode.toNat).1.pinEdge (264 + port) reqCode.toNat).2 ∧
        (u.portTime port).sent = ((s.portTime port).sent + 1) % 65536 ∧
        Emits (.time port ⟨s.get P.TIME_CFG_DOMAIN 0, Regs.word s.regs P.FAB_ID_ID 0, port + 1, ((s.portTime port).sent + 1) % 65536, phase, true, s.time.epoch, 0, .sync⟩) s u ∧
        (∀ x ∈ (((s.clock t).portAdopt port).pinEdge (264 + port) syncCode.toNat).2,
          Emits (.time port ⟨s.get P.TIME_CFG_DOMAIN 0, Regs.word s.regs P.FAB_ID_ID 0, port + 1, ((s.portTime port).sent + 1) % 65536, phase, true, s.time.epoch, 0, .followUp x⟩) s u) ∧
        Emits (.time port ⟨s.get P.TIME_CFG_DOMAIN 0, Regs.word s.regs P.FAB_ID_ID 0, port + 1, ((s.portTime port).sent + 1) % 65536, phase, true, s.time.epoch, 0, .delayReq⟩) s u) ∧
    -- An offset that the phases put more than 2,048 stitches away.
    (∀ (port : Port) (ownPhase : Nat) (t1 t2 t3 t4 d th r : Int),
      ((s.portTime port).t1 = some t1 ∧ (s.portTime port).t2 = some t2 ∧ (s.portTime port).t3 = some t3 ∧ (s.portTime port).t4 = some t4) →
      roundDiv ((t2 - t1) + (t4 - t3)) 2 + s.int P.TIME_PORT_ASYM_ASYM port = d →
      t2 - t1 - d = th →
      ((s.portTime port).phase.elim th (fun m => refine th ((ownPhase : Int) - m)) = r) →
      2048 < (th - r).natAbs →
      Acts (.syncExchangeComplete t port ownPhase) s fun u =>
        u.get P.TIME_PORT_DELAY_DELAY port = s.get P.TIME_PORT_DELAY_DELAY port ∧
        u.get P.TIME_STATUS_DISCARDS 0 = satTo 16 (s.get P.TIME_STATUS_DISCARDS 0 + 1) ∧
        ((u.portTime port).t1 = none ∧ (u.portTime port).t4 = none) ∧
        u.time.thetas = s.time.thetas) ∧
    -- An offset that joins the average.
    (∀ (port : Port) (ownPhase : Nat) (t1 t2 t3 t4 d th r : Int),
      ((s.portTime port).t1 = some t1 ∧ (s.portTime port).t2 = some t2 ∧ (s.portTime port).t3 = some t3 ∧ (s.portTime port).t4 = some t4) →
      roundDiv ((t2 - t1) + (t4 - t3)) 2 + s.int P.TIME_PORT_ASYM_ASYM port = d →
      t2 - t1 - d = th →
      ((s.portTime port).phase.elim th (fun m => refine th ((ownPhase : Int) - m)) = r) →
      (th - r).natAbs ≤ 2048 →
      (port.val = s.upPort ∧ s.isRoot = false ∧ s.abut = false ∧ s.leased = true) →
      (s.portTime port).masterEpoch = s.time.epoch →
      s.time.thetas.length + 1 < s.get P.TIME_SERVO_AVG 0 →
      Acts (.syncExchangeComplete t port ownPhase) s fun u =>
        u.get P.TIME_PORT_DELAY_DELAY port = satSigned 32 d ∧
        (u.portTime port).lastValid = s.instant t ∧
        u.time.mastered = s.instant t ∧
        u.time.thetas = s.time.thetas ++ [r] ∧
        u.time.slew = s.time.slew) ∧
    -- The last offset of an average: its mean is slewed out.
    (∀ (port : Port) (ownPhase : Nat) (t1 t2 t3 t4 d th r m : Int),
      ((s.portTime port).t1 = some t1 ∧ (s.portTime port).t2 = some t2 ∧ (s.portTime port).t3 = some t3 ∧ (s.portTime port).t4 = some t4) →
      roundDiv ((t2 - t1) + (t4 - t3)) 2 + s.int P.TIME_PORT_ASYM_ASYM port = d →
      t2 - t1 - d = th →
      ((s.portTime port).phase.elim th (fun x => refine th ((ownPhase : Int) - x)) = r) →
      (th - r).natAbs ≤ 2048 →
      (port.val = s.upPort ∧ s.isRoot = false ∧ s.abut = false ∧ s.leased = true) →
      (s.portTime port).masterEpoch = s.time.epoch →
      s.get P.TIME_SERVO_AVG 0 ≤ s.time.thetas.length + 1 →
      roundDiv (s.time.thetas ++ [r]).sum (s.time.thetas.length + 1) = m →
      s.get P.TIME_STATUS_STATE 0 ≠ 0 →
      (m ≠ 0 ∧ m.natAbs ≤ s.jumpLen) →
      Acts (.syncExchangeComplete t port ownPhase) s fun u =>
        u.time.slew = -m ∧
        u.get P.TIME_OFFSET_ST 0 = satSigned 32 m ∧
        u.flag P.TIME_STATUS_TIME_JUMP_REFUSED 0 = false ∧
        u.time.slewAt = s.instant t ∧
        u.time.thetas = [] ∧
        u.get P.TIME_STATUS_STATE 0 = 1 ∧
        u.flag P.TIME_STATUS_SLEWING 0 = true) ∧
    (s.flag P.TIME_STATUS_SLEWING 0 = true →
      s.time.slew ≠ 0 →
      s.time.slewAt + s.slewLen ≤ s.instant t →
      Acts (.slewComplete t) s fun u =>
        u.time.slew = 0 ∧
        u.flag P.TIME_STATUS_SLEWING 0 = false) ∧
    (s.get P.TIME_STATUS_STATE 0 = 1 →
      s.isRoot = false →
      s.time.mastered + 8 * s.syncLen ≤ s.instant t →
      Acts (.holdoverEnter t) s fun u =>
        u.get P.TIME_STATUS_STATE 0 = 2 ∧
        Raised 64 u ∧
        Raised 69 u) ∧
    -- At a root that follows PPS_IN.
    (∀ (rising : Bool) (code : BitVec 12),
      s.isRoot = true →
      s.flag P.TIME_CFG_ROOT_SRC 0 = true →
      rising = !s.flag P.PPS_CFG_IN_POL 0 →
      Acts (.ppsInEdge t ⟨rising, code⟩) s fun u =>
        u.time.lastPps = some (s.instant t) ∧
        u.pair 270 = ((s.pair 270).take (s.instant t) code.toNat (Config.unstated 13 [270, code.toNat])).1 ∧
        (s.time.set = false → u.time.thetas = s.time.thetas ∧ u.time.slew = s.time.slew) ∧
        (s.time.set = true → s.abut = false → s.leased = true → s.time.thetas.length + 1 < s.get P.TIME_SERVO_AVG 0 →
          (((s.pair 270).take (s.instant t) code.toNat (Config.unstated 13 [270, code.toNat])).2.all fun x =>
          u.time.thetas == s.time.thetas ++ [secondOffset ((x : Int) - Config.pinFused 270)]) = true)) ∧
    -- Anywhere else.
    (∀ (rising : Bool) (code : BitVec 12),
      (s.isRoot = false ∨ s.flag P.TIME_CFG_ROOT_SRC 0 = false) →
      rising = !s.flag P.PPS_CFG_IN_POL 0 →
      Acts (.ppsInEdge t ⟨rising, code⟩) s fun u =>
        u.pair 270 = ((s.pair 270).take (s.instant t) code.toNat (Config.unstated 13 [270, code.toNat])).1 ∧
        u.time.thetas = s.time.thetas ∧
        u.time.lastPps = s.time.lastPps) ∧
    -- The other polarity.
    (∀ (rising : Bool) (code : BitVec 12),
      rising = s.flag P.PPS_CFG_IN_POL 0 →
      Acts (.ppsInEdge t ⟨rising, code⟩) s fun u =>
        u = s.clock t) ∧
    (s.isRoot = true →
      s.flag P.TIME_CFG_ROOT_SRC 0 = true →
      (s.clock t).hasMaster = false →
      s.get P.TIME_STATUS_STATE 0 = 1 →
      Acts (.ppsInMissing t) s fun u =>
        u.get P.TIME_STATUS_STATE 0 = 2 ∧
        Raised 64 u ∧
        Raised 68 u ∧
        Raised 69 u)

/-- For every state that holds no whole-device reset: an arming write without the lease is denied and counted; one in time arms the entry at its due time, one that is late without RUN_LATE or that meets an armed entry changes nothing, and KIND 0 empties the entry; a due pulser action pulses the masked tiles and blanks them where BLANK_INT says so; a due pulse action pulses its enabled output; a due release gives the held values of the armed classes it names their boundary; a due firmware action raises source 72; a one-shot entry is empty afterwards, a periodic one waits one period on, and in abutment mode the occurrence only counts as skipped; a due pulse of an enabled output drives it active, counts, and is followed one period later in the repeating mode and not at all in the one-shot mode; a pulse's end drives the output inactive; PPS_OUT rises at a whole second where time is set and OUT_EN is 1, and falls OUT_WIDTH later. (R53, R325, R327, R328, R329, R330, R331) -/
def Obligations.ScheduledActionsComplete : Prop :=
  ∀ (s : State) (t : Tm), s.pwr.por = false →
    -- In time.
    (∀ (entry : Fin 64) (value : BitVec 32) (due : Tm),
      s.leased = true →
      (0 < value.toNat / 4096 % 8 ∧ value.toNat / 4096 % 8 ≤ 4) →
      (s.actOf entry).armed = false →
      s.get P.ACT_TIME_TIME_NS entry * nsSt + value.toNat % 4096 = due →
      s.commitAt + 10 * usSt ≤ due →
      Acts (.actCfgArm t entry value) s fun u =>
        u.actOf entry = ⟨due, none, true⟩ ∧
        u.get P.ACT_CFG_KIND entry = value.toNat / 4096 % 8 ∧
        u.get P.ACT_STATUS_STATE entry = 1 ∧
        u.flag P.ACT_STATUS_RAN_LATE entry = false) ∧
    -- Too late, without RUN_LATE.
    (∀ (entry : Fin 64) (value : BitVec 32),
      (0 < value.toNat / 4096 % 8 ∧ value.toNat / 4096 % 8 ≤ 4) →
      (s.actOf entry).armed = false →
      s.leased = true →
      s.get P.ACT_TIME_TIME_NS entry * nsSt + value.toNat % 4096 < s.commitAt + 10 * usSt →
      value.getLsbD 15 = false →
      Acts (.actCfgArm t entry value) s fun u =>
        u = s.clock t) ∧
    -- Without the lease.
    (∀ (entry : Fin 64) (value : BitVec 32),
      s.leased = false →
      Acts (.actCfgArm t entry value) s fun u =>
        u.actOf entry = s.actOf entry ∧
        u.get P.ACT_CFG_KIND entry = s.get P.ACT_CFG_KIND entry ∧
        u.core.denied = satTo 32 (s.core.denied + 1) ∧
        Raised 225 u) ∧
    -- An armed entry takes no other kind.
    (∀ (entry : Fin 64) (value : BitVec 32),
      s.leased = true →
      value.toNat / 4096 % 8 ≠ 0 →
      (s.actOf entry).armed = true →
      Acts (.actCfgArm t entry value) s fun u =>
        u = s.clock t) ∧
    -- KIND 0 empties the entry.
    (∀ (entry : Fin 64) (value : BitVec 32),
      s.leased = true →
      value.toNat / 4096 % 8 = 0 →
      Acts (.actCfgArm t entry value) s fun u =>
        u.actOf entry = ActSt.reset ∧
        u.get P.ACT_STATUS_STATE entry = 0 ∧
        u.get P.ACT_CFG_KIND entry = 0) ∧
    (∀ (entry : Fin 64) (due : Tm) (late : Bool),
      (s.clock t).actDue entry 1 = some (due, late) →
      s.abut = false →
      Acts (.actionPulser t entry) s fun u =>
        Emits (.pulser (BitVec.ofNat 16 (s.get P.ACT_ARG_ARG entry)) (s.get P.ACT_ARG_ARG entry / 65536 % 4096)) s u ∧
        (s.flag P.BLANK_INT_PULSER 0 = true → ∀ tile : Tile, (s.get P.ACT_ARG_ARG entry).testBit tile = true → (u.fe tile).blanked = true) ∧
        (s.actPeriod entry = 0 → u.actOf entry = ActSt.reset ∧ u.get P.ACT_STATUS_STATE entry = 2) ∧
        (s.actPeriod entry ≠ 0 → late = false → u.actOf entry = ⟨due + s.actPeriod entry, none, true⟩)) ∧
    -- In abutment mode.
    (∀ (entry : Fin 64) (due : Tm) (late : Bool),
      (s.clock t).actDue entry 1 = some (due, late) →
      s.abut = true →
      Acts (.actionPulser t entry) s fun u =>
        u.get P.ACT_COUNTS_SKIPPED 0 = satTo P.ACT_COUNTS_SKIPPED.width (s.get P.ACT_COUNTS_SKIPPED 0 + 1) ∧
        u.afe = s.afe ∧
        u.out = s.out) ∧
    (∀ (entry : Fin 64) (due : Tm) (late : Bool) (x : Fin 8),
      (s.clock t).actDue entry 2 = some (due, late) →
      s.abut = false →
      s.get P.ACT_ARG_ARG entry % 8 = x.val →
      s.flag P.TOUT_CFG_ENABLE x = true →
      Acts (.actionToutPulse t entry) s fun u =>
        (u.toutOf x).level = true ∧
        round32 (due + 32 * (s.get P.ACT_ARG_ARG entry / 256 % 2 ^ 24)) ≤ (u.toutOf x).stop ∧
        u.get P.TOUT_STATUS_PULSES x = satTo P.TOUT_STATUS_PULSES.width (s.get P.TOUT_STATUS_PULSES x + 1) ∧
        Emits (.pin (.tout x) (!s.flag P.TOUT_CFG_POL x)) s u ∧
        (s.actPeriod entry = 0 → u.actOf entry = ActSt.reset) ∧
        (s.actPeriod entry ≠ 0 → late = false → u.actOf entry = ⟨due + s.actPeriod entry, none, true⟩)) ∧
    -- In abutment mode.
    (∀ (entry : Fin 64) (due : Tm) (late : Bool),
      (s.clock t).actDue entry 2 = some (due, late) →
      s.abut = true →
      Acts (.actionToutPulse t entry) s fun u =>
        u.get P.ACT_COUNTS_SKIPPED 0 = satTo P.ACT_COUNTS_SKIPPED.width (s.get P.ACT_COUNTS_SKIPPED 0 + 1) ∧
        u.time.pend = s.time.pend ∧
        u.out = s.out) ∧
    (∀ (entry : Fin 64) (due : Tm) (late : Bool),
      (s.clock t).actDue entry 3 = some (due, late) →
      s.abut = false →
      Acts (.actionSwapRelease t entry) s fun u =>
        (∀ c : Fin 8, (s.get P.ACT_ARG_ARG entry).testBit c = true → s.armed c = true → Raised 70 u ∧ ∀ p ∈ u.time.pend, p.cls = c.val → p.due ≠ none) ∧
        u.get P.SWAP_CFG_ARMED 0 = s.get P.SWAP_CFG_ARMED 0 ∧
        (s.actPeriod entry = 0 → u.actOf entry = ActSt.reset) ∧
        (s.actPeriod entry ≠ 0 → late = false → u.actOf entry = ⟨due + s.actPeriod entry, none, true⟩)) ∧
    -- In abutment mode.
    (∀ (entry : Fin 64) (due : Tm) (late : Bool),
      (s.clock t).actDue entry 3 = some (due, late) →
      s.abut = true →
      Acts (.actionSwapRelease t entry) s fun u =>
        u.get P.ACT_COUNTS_SKIPPED 0 = satTo P.ACT_COUNTS_SKIPPED.width (s.get P.ACT_COUNTS_SKIPPED 0 + 1) ∧
        u.time.pend = s.time.pend ∧
        u.out = s.out) ∧
    (∀ (entry : Fin 64) (due : Tm) (late : Bool),
      (s.clock t).actDue entry 4 = some (due, late) →
      s.abut = false →
      Acts (.actionFirmware t entry) s fun u =>
        Raised 72 u ∧
        (s.actPeriod entry = 0 → u.actOf entry = ActSt.reset) ∧
        (s.actPeriod entry ≠ 0 → late = false → u.actOf entry = ⟨due + s.actPeriod entry, none, true⟩)) ∧
    -- In abutment mode.
    (∀ (entry : Fin 64) (due : Tm) (late : Bool),
      (s.clock t).actDue entry 4 = some (due, late) →
      s.abut = true →
      Acts (.actionFirmware t entry) s fun u =>
        u.get P.ACT_COUNTS_SKIPPED 0 = satTo P.ACT_COUNTS_SKIPPED.width (s.get P.ACT_COUNTS_SKIPPED 0 + 1) ∧
        u.time.pend = s.time.pend ∧
        u.out = s.out) ∧
    (∀ (x : Fin 8) (n : Tm),
      (s.toutOf x).next = some n →
      round32 n ≤ s.instant t →
      s.flag P.TOUT_CFG_ENABLE x = true →
      Acts (.toutPulse t x) s fun u =>
        (u.toutOf x).level = true ∧
        ((u.toutOf x).stop = (if (s.toutOf x).level then max (s.toutOf x).stop (round32 (n + 32 * s.get P.TOUT_WIDTH_WIDTH x)) else round32 (n + 32 * s.get P.TOUT_WIDTH_WIDTH x))) ∧
        ((u.toutOf x).next = (if s.get P.TOUT_CFG_MODE x = 2 then some (n + s.toutPeriod x) else none)) ∧
        u.get P.TOUT_STATUS_PULSES x = satTo P.TOUT_STATUS_PULSES.width (s.get P.TOUT_STATUS_PULSES x + 1) ∧
        Emits (.pin (.tout x) (!s.flag P.TOUT_CFG_POL x)) s u) ∧
    (∀ (x : Fin 8),
      (s.toutOf x).level = true →
      (s.toutOf x).stop ≤ s.instant t →
      Acts (.toutPulseEnd t x) s fun u =>
        (u.toutOf x).level = false ∧
        Emits (.pin (.tout x) (s.flag P.TOUT_CFG_POL x)) s u) ∧
    (s.instant t % secSt = 0 →
      s.get P.TIME_STATUS_STATE 0 ≠ 0 →
      s.flag P.PPS_CFG_OUT_EN 0 = true →
      Acts (.ppsOutEdge t) s fun u =>
        u.time.ppsOut = true ∧
        u.time.ppsStop = s.instant t + s.get P.PPS_CFG_OUT_WIDTH 0 * msSt ∧
        Emits (.pin .ppsOut true) s u) ∧
    (s.time.ppsOut = true →
      s.time.ppsStop ≤ s.instant t →
      Acts (.ppsOutFall t) s fun u =>
        u.time.ppsOut = false ∧
        Emits (.pin .ppsOut false) s u)

/-- For every state that holds no whole-device reset: a true condition of a channel that may trigger is counted and opens the window of every enabled majority group that masks it; a false one only leaves the list; the quiet timeout and the slew condition fire in their turn; the discriminator still high at T is noted; a majority window closes with one primitive when enough channels took part and without one else; an energy sum at or above its threshold fires the group and notes the instant. (R107, R108, R109, R110, R111, R133) -/
def Obligations.ConditionsAndGroupsComplete : Prop :=
  ∀ (s : State) (t : Tm), s.pwr.por = false →
    -- The decision of a hit's condition, true.
    (∀ (ch : Ch) (levels : List Lvl) (h : CondHit),
      ((s.td ch).judged.find? (fun x => ((s.clock t).condDue ch x).any fun d => decide (d ≤ s.instant t)) = some h) →
      (h.hit.cond.kind = 2 → levels.length = h.hit.cond.win) →
      s.condTrue ch h (s.samplesFrom ch (s.runtFirst ch h.hit) levels) = true →
      (s.clock t).condMay ch h.hit.at_ = true →
      Acts (.conditionDecide t ch levels) s fun u =>
        (u.td ch).judged = (s.td ch).judged.erase h ∧
        u.get P.COND_CNT_COUNT ch = satTo P.COND_CNT_COUNT.width (s.get P.COND_CNT_COUNT ch + 1) ∧
        (∀ g : Fin 64, s.grpWin g = none → s.flag P.GROUP_CFG_ENABLE g = true → s.get P.GROUP_CFG_RULE g = 0 → (s.groupMask g).getLsbD ch = true →
          u.grpWin g = some ⟨s.instant t + s.get P.GROUP_CFG_WIN g * ccSt, s.groupMask g, s.get P.GROUP_CFG_N g, [ch.val], h.hit.at_, h.hit.coarse, false, s.flag P.GROUP_CFG_OUT0 g, s.flag P.GROUP_CFG_OUT1 g⟩)) ∧
    -- The decision of a hit's condition, false.
    (∀ (ch : Ch) (levels : List Lvl) (h : CondHit),
      ((s.td ch).judged.find? (fun x => ((s.clock t).condDue ch x).any fun d => decide (d ≤ s.instant t)) = some h) →
      (h.hit.cond.kind = 2 → levels.length = h.hit.cond.win) →
      s.condTrue ch h (s.samplesFrom ch (s.runtFirst ch h.hit) levels) = false →
      Acts (.conditionDecide t ch levels) s fun u =>
        (u.td ch).judged = (s.td ch).judged.erase h ∧
        u.get P.COND_CNT_COUNT ch = s.get P.COND_CNT_COUNT ch ∧
        u.trg = s.trg) ∧
    -- A quiet timeout that expired 2 cc ago.
    (∀ (ch : Ch) (levels : List Lvl) (q : Tm),
      ((s.td ch).judged.find? (fun x => ((s.clock t).condDue ch x).any fun d => decide (d ≤ s.instant t)) = none) →
      (s.td ch).quietAt = some q →
      q + 2 * ccSt ≤ s.instant t →
      (s.clock t).condMay ch ((s.clock t).stampAt q) = true →
      Acts (.conditionDecide t ch levels) s fun u =>
        (u.td ch).quietAt = none ∧
        u.get P.COND_CNT_COUNT ch = satTo P.COND_CNT_COUNT.width (s.get P.COND_CNT_COUNT ch + 1)) ∧
    -- The slew condition.
    (∀ (ch : Ch) (levels : List Lvl) (n : Int) (k : Cond),
      ((s.td ch).judged.find? (fun x => ((s.clock t).condDue ch x).any fun d => decide (d ≤ s.instant t)) = none) →
      (s.td ch).quietAt = none →
      (s.clock t).slewSample ch = n →
      s.condAt ch ((s.clock t).stampAt (s.pinAt (ch / 16) (n - (s.condOf ch).k))) = k →
      k.kind = 5 →
      levels.length = k.k + 1 →
      (s.td ch).slewOff = false →
      (k.slew : Int) ≤ (s.amps (n - k.k) (s.samplesFrom ch (n - k.k) levels)).getLastD 0 - (s.amps (n - k.k) (s.samplesFrom ch (n - k.k) levels)).headD 0 →
      Acts (.conditionDecide t ch levels) s fun u =>
        (u.td ch).slewOff = true ∧
        ((s.clock t).condMay ch ((s.clock t).stampAt (s.pinAt (ch / 16) (n - k.k))) = true →
          u.get P.COND_CNT_COUNT ch = satTo P.COND_CNT_COUNT.width (s.get P.COND_CNT_COUNT ch + 1))) ∧
    (∀ (ch : Ch) (j : CondHit),
      j ∈ (s.td ch).judged →
      (j.hit.cond.kind = 3 ∧ j.hit.raw + j.hit.cond.tmo * ccSt ≤ s.instant t) →
      ((s.td ch).open_.any (fun h => h.lead == j.hit.lead && h.trail.isNone) = true) →
      Acts (.timeoutHighExpire t ch) s fun u =>
        { j with high := true } ∈ (u.td ch).judged ∧
        (u.td ch).judged.length = (s.td ch).judged.length) ∧
    (∀ (ch : Ch),
      (s.condOf ch).kind = 4 →
      (s.td ch).quietDone = false →
      (s.td ch).quietFrom + (s.condOf ch).quiet ≤ s.instant t →
      Acts (.quietTimeoutExpire t ch) s fun u =>
        (u.td ch).quietDone = true ∧
        (u.td ch).quietAt = some ((s.td ch).quietFrom + (s.condOf ch).quiet)) ∧
    -- Enough channels.
    (∀ (g : Fin 64) (w : GrpWin),
      s.grpWin g = some w →
      w.close ≤ s.instant t →
      w.n ≤ w.chans.length →
      s.acquiring = true →
      Acts (.groupWindowClose t g) s fun u =>
        u.grpWin g = none ∧
        u.get P.GROUP_CNT_COUNT g = satTo P.GROUP_CNT_COUNT.width (s.get P.GROUP_CNT_COUNT g + 1) ∧
        ((s.clock t).groupDue w.close = [g.val] → u.trg.seq = (s.trg.seq + 1) % 65536) ∧
        ((s.clock t).groupDue w.close = [g.val] → s.get P.ROOT_CFG_ROOT_ADDR 0 = s.origin → s.origin ≠ 0xFFFF → s.rootOn = true →
          u.trg.prims.getLast?.map (fun p => (p.frame.kind, p.frame.group, p.frame.mult, p.frame.seq, p.frame.epoch)) =
          some (1, g.val, min 15 w.chans.length, s.trg.seq, w.at_.epoch))) ∧
    -- Too few channels.
    (∀ (g : Fin 64) (w : GrpWin),
      s.grpWin g = some w →
      w.close ≤ s.instant t →
      w.chans.length < w.n →
      Acts (.groupWindowClose t g) s fun u =>
        u.grpWin g = none ∧
        u.get P.GROUP_CNT_COUNT g = s.get P.GROUP_CNT_COUNT g ∧
        ((s.clock t).groupDue w.close = [g.val] → u.trg.seq = s.trg.seq ∧ u.trg.prims = s.trg.prims)) ∧
    -- At or above the threshold.
    (∀ (g : Fin 64) (n : Nat) (levels : List (Ch × Lvl)),
      (levels.map (fun x => x.1.val) = s.groupChans g) →
      (s.clock t).sumReady g n = true →
      s.abut = false →
      (s.clock t).sumJudged g = true →
      (s.get P.GROUP_SUM_THR g : Int) ≤ s.sumOf n levels →
      Acts (.groupSumComplete t g n levels) s fun u =>
        Tbl.get none u.trg.fired g = some (s.instant t) ∧
        u.get P.GROUP_CNT_COUNT g = satTo P.GROUP_CNT_COUNT.width (s.get P.GROUP_CNT_COUNT g + 1) ∧
        u.trg.seq = (s.trg.seq + 1) % 65536) ∧
    -- Below the threshold.
    (∀ (g : Fin 64) (n : Nat) (levels : List (Ch × Lvl)),
      s.sumOf n levels < (s.get P.GROUP_SUM_THR g : Int) →
      Acts (.groupSumComplete t g n levels) s fun u =>
        u.trg = s.trg ∧
        u.get P.GROUP_CNT_COUNT g = s.get P.GROUP_CNT_COUNT g)

/-- For every state that holds no whole-device reset: a primitive for this device enters the root logic with its time, and one for a neighbour leaves on that port with one hop more; at its t_eq it opens the window of every enabled class that masks its group; a window with enough origins closes with an accept id, one with too few without; a TRIG_IN edge of the chosen polarity forms an accept unless one formed less than 100 ns ago; a TRIG_OUT pulse ends; an accept for an enabled class becomes outstanding, one of a disabled class or a duplicate is counted only, and a gap in the ids is counted with source 36. (R112, R113, R115, R116, R118, R119, R120, R255, R271, R284) -/
def Obligations.TriggerRootCompletes : Prop :=
  ∀ (s : State) (t : Tm), s.pwr.por = false →
    -- A primitive for this device.
    (∀ (port : Port) (parts : Vc0Parts) (f : Vc0),
      s.portCarries port = true →
      s.striped port = false →
      vc0Decode parts = some f →
      f.kind = 1 →
      (s.vc0Route f.dest f.spread).2.1 = true →
      s.rootOn = true →
      Acts (.primitiveReceive t port parts) s fun u =>
        u.trg.prims.length = s.trg.prims.length + 1 ∧
        (u.trg.prims.getLast?.map (fun p => (p.frame.origin, p.frame.group, p.frame.seq, p.at_)) = some (f.origin, f.group, f.seq, (s.clock t).vc0Time f))) ∧
    -- A primitive for a neighbour.
    (∀ (port : Port) (parts : Vc0Parts) (f : Vc0) (p : Nat) (sp : Bool),
      s.portCarries port = true →
      s.striped port = false →
      vc0Decode parts = some f →
      f.kind = 1 →
      s.vc0Route f.dest f.spread = ([p], false, sp) →
      s.portCarries p = true →
      (s.fp p).vc0Busy ≤ s.instant t →
      Acts (.primitiveReceive t port parts) s fun u =>
        Emits (.vc0 p { f with uncomp := f.uncomp || (s.fp port).uncomp || !s.fab.routed || decide (0xFFFF ≤ f.wait), spread := sp, hops := satTo 8 (f.hops + 1), wait := satTo 16 f.wait }) s u ∧
        u.trg = s.trg) ∧
    (∀ (origin seq : Nat) (p : Prim),
      (s.trg.prims.find? (fun y => y.frame.origin == origin && y.frame.seq == seq && decide (y.eq ≤ s.instant t)) = some p) →
      s.rootOn = true →
      Acts (.primitiveEqualised t origin seq) s fun u =>
        u.trg.prims = s.trg.prims.erase p ∧
        (∀ k : Fin 16, s.rootWin k = none → s.flag P.CLASS_CFG_ENABLE k = true → (s.rootGroups k).testBit (p.frame.group % 64) = true →
          u.rootWin k = some ⟨p.eq + s.get P.ROOT_CFG_WIN 0 * ccSt, s.get P.ROOT_N_N k, s.rootGroups k, [p.frame.origin], p.at_, vc0Flags p.frame⟩)) ∧
    -- Enough origins.
    (∀ (cls : Fin 16) (w : RootWin),
      s.rootWin cls = some w →
      w.close ≤ s.instant t →
      s.rootOn = true →
      w.n ≤ w.origins.length →
      Acts (.rootWindowClose t cls) s fun u =>
        u.rootWin cls = none ∧
        ((s.clock t).rootDue w.close = [cls.val] → u.trg.acceptId = (s.trg.acceptId + 1) % 65536)) ∧
    -- Too few origins.
    (∀ (cls : Fin 16) (w : RootWin),
      s.rootWin cls = some w →
      w.close ≤ s.instant t →
      w.origins.length < w.n →
      Acts (.rootWindowClose t cls) s fun u =>
        u.rootWin cls = none ∧
        ((s.clock t).rootDue w.close = [cls.val] → u.trg.acceptId = s.trg.acceptId ∧ u.trg.accs = s.trg.accs)) ∧
    -- An edge that forms an accept.
    (∀ (pin : Fin 2) (rising : Bool) (code : BitVec 12),
      ((if pin = 0 then s.flag P.TRIG_IN_CFG_EN0 0 else s.flag P.TRIG_IN_CFG_EN1 0) = true) →
      (rising = !(if pin = 0 then s.flag P.TRIG_IN_CFG_POL0 0 else s.flag P.TRIG_IN_CFG_POL1 0)) →
      s.abut = false →
      ((Tbl.get none s.trg.lastIn pin).all (fun l => decide (l + 100 * nsSt ≤ s.instant t)) = true) →
      Acts (.trigInEdge t pin ⟨rising, code⟩) s fun u =>
        Tbl.get none u.trg.lastIn pin = some (s.instant t) ∧
        u.trg.acceptId = (s.trg.acceptId + 1) % 65536 ∧
        u.pair (268 + pin.val) = ((s.pair (268 + pin.val)).take (s.instant t) code.toNat (Config.unstated 13 [268 + pin.val, code.toNat])).1) ∧
    -- An edge less than 100 ns after one that formed an accept.
    (∀ (pin : Fin 2) (rising : Bool) (code : BitVec 12) (l : Tm),
      ((if pin = 0 then s.flag P.TRIG_IN_CFG_EN0 0 else s.flag P.TRIG_IN_CFG_EN1 0) = true) →
      (rising = !(if pin = 0 then s.flag P.TRIG_IN_CFG_POL0 0 else s.flag P.TRIG_IN_CFG_POL1 0)) →
      s.abut = false →
      Tbl.get none s.trg.lastIn pin = some l →
      s.instant t < l + 100 * nsSt →
      Acts (.trigInEdge t pin ⟨rising, code⟩) s fun u =>
        u.get P.ACCEPT_STATUS_IGNORED 0 = satTo P.ACCEPT_STATUS_IGNORED.width (s.get P.ACCEPT_STATUS_IGNORED 0 + 1) ∧
        Raised 133 u ∧
        u.trg = s.trg) ∧
    -- An edge at an input that is off.
    (∀ (pin : Fin 2) (rising : Bool) (code : BitVec 12),
      ((if pin = 0 then s.flag P.TRIG_IN_CFG_EN0 0 else s.flag P.TRIG_IN_CFG_EN1 0) = false) →
      Acts (.trigInEdge t pin ⟨rising, code⟩) s fun u =>
        u.trg = s.trg ∧
        u.get P.ACCEPT_STATUS_IGNORED 0 = s.get P.ACCEPT_STATUS_IGNORED 0) ∧
    (∀ (pin : Fin 2) (b e : Tm) (rest : List (Tm × Tm)),
      s.pulsesOf pin = (b, e) :: rest →
      e ≤ s.instant t →
      Acts (.trigOutPulseEnd t pin) s fun u =>
        u.pulsesOf pin = rest ∧
        Emits (.pin (.trigOut pin) false) s u ∧
        (rest ≠ [] → Emits (.pin (.trigOut pin) true) s u)) ∧
    -- An accept of an enabled class that no accept received lately repeats.
    (∀ (port : Port) (parts : Vc0Parts) (f : Vc0),
      s.portCarries port = true →
      s.striped port = false →
      vc0Decode parts = some f →
      f.kind = 2 →
      (s.vc0Route f.dest f.spread).2.1 = true →
      s.abut = false →
      Tbl.get none s.fab.baseline f.origin = none →
      s.flag P.CLASS_CFG_ENABLE (f.group % 16) = true →
      (s.trg.seen.any (fun x => x.1 == (s.clock t).vc0Time f && x.2.1 == f.group % 16) = false) →
      s.outstanding < 64 →
      Acts (.acceptReceive t port parts) s fun u =>
        u.trg.accs.length = s.trg.accs.length + 1 ∧
        (u.trg.accs.any (fun a => a.at_ == (s.clock t).vc0Time f && a.cls == f.group % 16 && a.id == f.seq && a.root == f.origin && a.arrival == s.instant t) = true) ∧
        Tbl.get none u.fab.baseline f.origin = some (f.seq, ((s.clock t).vc0Time f).tb)) ∧
    -- An accept of a disabled class.
    (∀ (port : Port) (parts : Vc0Parts) (f : Vc0),
      s.portCarries port = true →
      s.striped port = false →
      vc0Decode parts = some f →
      f.kind = 2 →
      (s.vc0Route f.dest f.spread).2.1 = true →
      s.abut = false →
      s.flag P.CLASS_CFG_ENABLE (f.group % 16) = false →
      Acts (.acceptReceive t port parts) s fun u =>
        u.trg.accs = s.trg.accs ∧
        u.get P.ACCEPT_STATUS_IGNORED 0 = satTo P.ACCEPT_STATUS_IGNORED.width (s.get P.ACCEPT_STATUS_IGNORED 0 + 1)) ∧
    -- A duplicate of one received in the last 8,192 sc.
    (∀ (port : Port) (parts : Vc0Parts) (f : Vc0),
      s.portCarries port = true →
      s.striped port = false →
      vc0Decode parts = some f →
      f.kind = 2 →
      (s.vc0Route f.dest f.spread).2.1 = true →
      s.abut = false →
      s.flag P.CLASS_CFG_ENABLE (f.group % 16) = true →
      (s.trg.seen.any (fun x => decide (s.instant t ≤ x.2.2 + 8192 * scSt) && x.1 == (s.clock t).vc0Time f && x.2.1 == f.group % 16) = true) →
      Acts (.acceptReceive t port parts) s fun u =>
        u.trg.accs = s.trg.accs ∧
        u.get P.ACCEPT_STATUS_DUP 0 = satTo P.ACCEPT_STATUS_DUP.width (s.get P.ACCEPT_STATUS_DUP 0 + 1)) ∧
    -- An accept whose id leaves a gap.
    (∀ (port : Port) (parts : Vc0Parts) (f : Vc0) (last : Nat) (lastTb : Tm),
      s.portCarries port = true →
      s.striped port = false →
      vc0Decode parts = some f →
      f.kind = 2 →
      (s.vc0Route f.dest f.spread).2.1 = true →
      s.abut = false →
      Tbl.get none s.fab.baseline f.origin = some (last, lastTb) →
      (1 < (f.seq + 65536 - last % 65536) % 65536 ∧ (f.seq + 65536 - last % 65536) % 65536 < 0x8000) →
      Acts (.acceptReceive t port parts) s fun u =>
        u.get P.FAB_ACCEPT_GAP_MISSED 0 = satTo P.FAB_ACCEPT_GAP_MISSED.width (s.get P.FAB_ACCEPT_GAP_MISSED 0 + ((f.seq + 65536 - last % 65536) % 65536 - 1)) ∧
        Raised 36 u ∧
        Tbl.get none u.fab.baseline f.origin = some (f.seq, ((s.clock t).vc0Time f).tb))

/-- For every state that holds no whole-device reset: the first due accept is extracted with its space reserved when its window is mapped, inside the ring deadline and fits the event buffer; it waits for space when it does not fit, goes to the deck past the deadline, and is lost with source 131 when its window cannot be mapped or a wait reaches the deadline; space that the Seam returns lets a waiting extraction start; an extraction's end counts the event and, unless it is late, puts its record into the local input. (R122, R123, R125, R126, R127, R128, R129, R130) -/
def Obligations.ExtractionCompletes : Prop :=
  ∀ (s : State) (t : Tm), s.pwr.por = false →
    (∀ (a : Acc) (rest : List Acc) (x : Extract),
      s.trg.run = none →
      s.trg.accs = a :: rest →
      (s.clock t).accDue a = true →
      s.abut = false →
      (s.clock t).windowOf a = some x →
      (s.clock t).pastRing x = false →
      s.bufferFull x = false →
      Acts (.extractionStart t) s fun u =>
        u.trg.run = some x ∧
        u.trg.accs = rest ∧
        u.trg.used = s.trg.used + x.reserved ∧
        (a.late = true → Raised 129 u ∧ u.get P.CLASS_LATE_LATE a.cls = satTo P.CLASS_LATE_LATE.width (s.get P.CLASS_LATE_LATE a.cls + 1))) ∧
    -- No room in the event buffer.
    (∀ (a : Acc) (rest : List Acc) (x : Extract),
      s.trg.run = none →
      s.trg.accs = a :: rest →
      (s.clock t).accDue a = true →
      s.abut = false →
      (s.clock t).windowOf a = some x →
      (s.clock t).pastRing x = false →
      s.bufferFull x = true →
      Acts (.extractionStart t) s fun u =>
        u.trg.run = none ∧
        u.trg.accs.head? = some { s.latched a with waits := true } ∧
        u.trg.used = s.trg.used) ∧
    -- The window cannot be mapped.
    (∀ (a : Acc) (rest : List Acc),
      s.trg.run = none →
      s.trg.accs = a :: rest →
      (s.clock t).accDue a = true →
      s.abut = false →
      (s.clock t).windowOf a = none →
      Acts (.extractionStart t) s fun u =>
        u.trg.run = none ∧
        u.trg.accs = rest ∧
        Raised 131 u) ∧
    -- Past the ring deadline.
    (∀ (a : Acc) (rest : List Acc) (x : Extract),
      s.trg.run = none →
      s.trg.accs = a :: rest →
      (s.clock t).accDue a = true →
      s.abut = false →
      (s.clock t).windowOf a = some x →
      (s.clock t).pastRing x = true →
      a.waits = false →
      s.flag P.DECK_STATUS_ONLINE 0 = true →
      Acts (.extractionStart t) s fun u =>
        u.trg.run = none ∧
        u.trg.accs = rest ∧
        u.trg.deckWait = s.trg.deckWait ++ [x]) ∧
    (∀ (a : Acc) (rest : List Acc) (x : Extract),
      s.trg.accs = a :: rest →
      a.waits = true →
      (s.clock t).windowOf a = some x →
      (s.clock t).pastRing x = true →
      Acts (.extractionDrop t) s fun u =>
        u.trg.accs = rest ∧
        u.trg.run = s.trg.run ∧
        u.trg.used = s.trg.used ∧
        Raised 131 u) ∧
    -- Nothing waits for the space.
    (∀ (bytes : Nat),
      (s.trg.accs.head?.all (fun a => !a.waits) = true) →
      Acts (.eventBufferSpace t bytes) s fun u =>
        u.trg.taken = s.trg.taken - min bytes s.trg.taken ∧
        u.trg.used = s.trg.used - min bytes s.trg.taken ∧
        u.trg.run = s.trg.run) ∧
    -- A waiting extraction starts.
    (∀ (bytes : Nat) (a : Acc) (rest : List Acc) (x : Extract),
      s.trg.run = none →
      s.trg.accs = a :: rest →
      a.waits = true →
      s.abut = false →
      (s.clock t).windowOf a = some x →
      (s.clock t).pastRing x = false →
      s.trg.used - min bytes s.trg.taken + x.reserved ≤ eventBuffer →
      Acts (.eventBufferSpace t bytes) s fun u =>
        u.trg.run = some x ∧
        u.trg.accs = rest ∧
        u.trg.used = s.trg.used - min bytes s.trg.taken + x.reserved) ∧
    -- An event in time.
    (∀ (window : List (Ch × List Lvl)) (x : Extract),
      s.trg.run = some x →
      s.abut = false →
      (x.chans.all (fun c => (windowData window c).length == x.len) = true) →
      x.start + x.time ≤ s.instant t →
      x.acc.late = false →
      Acts (.extractionEnd t window) s fun u =>
        u.trg.run = none ∧
        u.get P.CLASS_EVENTS_COUNT x.acc.cls = satTo P.CLASS_EVENTS_COUNT.width (s.get P.CLASS_EVENTS_COUNT x.acc.cls + 1) ∧
        u.seqOf 0x02 = (s.seqOf 0x02 + 1) % 2 ^ 32 ∧
        u.trg.buf.length = s.trg.buf.length + 1 ∧
        (u.trg.buf.any (fun r => r.type == 0x02 && r.tb == x.acc.at_.tb && r.epoch == x.acc.at_.epoch && r.seq == s.seqOf 0x02) = true)) ∧
    -- A late event goes to the late stream.
    (∀ (window : List (Ch × List Lvl)) (x : Extract),
      s.trg.run = some x →
      s.abut = false →
      (x.chans.all (fun c => (windowData window c).length == x.len) = true) →
      x.start + x.time ≤ s.instant t →
      x.acc.late = true →
      Acts (.extractionEnd t window) s fun u =>
        u.trg.run = none ∧
        u.get P.CLASS_EVENTS_COUNT x.acc.cls = satTo P.CLASS_EVENTS_COUNT.width (s.get P.CLASS_EVENTS_COUNT x.acc.cls + 1) ∧
        u.trg.buf = s.trg.buf ∧
        u.trg.used = s.trg.used - x.reserved)

/-- For every state that holds no whole-device reset: an occurrence from the lease holder at or above SEV_MIN opens a record with the next index while the code's bucket and staging have room, and joins the open record of its code and severity inside REPEAT_MS; one below SEV_MIN is not kept; one from the other pier is denied with source 225; an open record closes after REPEAT_MS; a written record stands in the log and is exported to the monitoring stream; the start-up scan ends. (R23, R443, R444, R446, R447, R449, R453, R455, R457) -/
def Obligations.RecorderCompletes : Prop :=
  ∀ (s : State) (t : Tm), s.pwr.por = false →
    -- A new record.
    (∀ (pier : Pier) (code : BitVec 16) (severity : Fin 8) (detail : List Byte),
      s.core.holder = pier.val + 1 →
      s.get P.REC_CFG_SEV_MIN 0 ≤ severity.val →
      (s.clock t).openRepeat code.toNat severity = none →
      secSt ≤ ((s.clock t).bucketOf code.toNat).level →
      (s.clock t).noRoom ((s.clock t).newRecord code.toNat severity (detail.take 224)) = false →
      Acts (.recOccurrence t pier code severity detail) s fun u =>
        u.recd.staging = s.recd.staging ++ [(s.clock t).newRecord code.toNat severity (detail.take 224)] ∧
        u.recd.opened = true ∧
        u.get P.REC_NEXT_INDEX_INDEX 0 = (s.get P.REC_NEXT_INDEX_INDEX 0 + 1) % 2 ^ 64) ∧
    -- A repeat.
    (∀ (pier : Pier) (code : BitVec 16) (severity : Fin 8) (detail : List Byte) (l : LogRec),
      s.core.holder = pier.val + 1 →
      s.get P.REC_CFG_SEV_MIN 0 ≤ severity.val →
      (s.clock t).openRepeat code.toNat severity = some l →
      Acts (.recOccurrence t pier code severity detail) s fun u =>
        u.recd.staging.length = s.recd.staging.length ∧
        u.recd.staging.getLast? = some { l with rep := l.rep + 1, lastTb := s.instant t } ∧
        u.get P.REC_NEXT_INDEX_INDEX 0 = s.get P.REC_NEXT_INDEX_INDEX 0) ∧
    -- Below SEV_MIN.
    (∀ (pier : Pier) (code : BitVec 16) (severity : Fin 8) (detail : List Byte),
      s.core.holder = pier.val + 1 →
      severity.val < s.get P.REC_CFG_SEV_MIN 0 →
      Acts (.recOccurrence t pier code severity detail) s fun u =>
        u = s.clock t) ∧
    -- From a pier without the lease.
    (∀ (pier : Pier) (code : BitVec 16) (severity : Fin 8) (detail : List Byte),
      s.core.holder ≠ pier.val + 1 →
      Acts (.recOccurrence t pier code severity detail) s fun u =>
        u.core.denied = satTo 32 (s.core.denied + 1) ∧
        Raised 225 u) ∧
    (∀ (l : LogRec),
      s.recd.staging.getLast? = some l →
      s.recd.opened = true →
      (s.clock t).place l.first + (s.get P.REC_CFG_REPEAT_MS 0 * msSt : Nat) ≤ (s.instant t : Int) →
      Acts (.recRepeatExpire t) s fun u =>
        u.recd.opened = false ∧
        u.recd.staging = s.recd.staging) ∧
    (∀ (l : LogRec),
      s.recd.head = some l →
      (s.clock t).logScanHolds = false →
      (s.clock t).budgetFill.logCost l ≤ (s.clock t).budgetFill.get P.REC_BUDGET_WORDS 0 →
      Acts (.recMramWriteComplete t) s fun u =>
        l ∈ u.recd.ringRecs ++ u.recd.audit ++ u.recd.clears ∧
        (u.ctx.mon.getLast?.map (fun q => (q.pos, q.data.type, q.data.body)) = some (s.ctx.monEnd, 0x0D, pad8 l.encode))) ∧
    (Acts (.recScan t) s fun u =>
        u.recd.scanning = false ∧
        u.recd.staging = s.recd.staging ∧
        u.logScanHolds = false)

/-- For every state that holds no whole-device reset: once the oldest waiting block interval has ended for 6,144 core cycles, its blocks leave the queue, the write point stands at its end and the write offset does not fall; an interval that ends before the last emptying is discarded; with no block waiting the next boundary is written, and a directory entry of its span opens unless the writer stops there; a wanted snippet joins the snippets with its channel, length and edge. (R153, R154, R155, R156, R157, R158, R163) -/
def Obligations.DeckWriterCompletes : Prop :=
  ∀ (s : State) (t : Tm), s.pwr.por = false →
    (∀ (start : Stamp) (stop : Tm),
      s.deckInterval = some (start, stop) →
      (s.clock t).endPlace ⟨start.epoch, stop⟩ + (6144 * ccSt : Nat) ≤ (s.instant t : Int) →
      s.flag P.DECK_STATUS_ONLINE 0 = true →
      (s.deck.floor.all (fun f => f.before ⟨start.epoch, stop⟩) = true) →
      Acts (.deckWriteInterval t) s fun u =>
        (u.deck.blocks = s.deck.blocks.filter (fun b => b.2.start != start)) ∧
        u.deck.wpoint = ⟨start.epoch, stop⟩ ∧
        s.deck.woff ≤ u.deck.woff ∧
        u.get P.DECK_WOFF_OFFSET 0 = u.deck.woff % 2 ^ P.DECK_WOFF_OFFSET.width) ∧
    -- An interval that ends before the last emptying.
    (∀ (start : Stamp) (stop : Tm) (f : Stamp),
      s.deckInterval = some (start, stop) →
      (s.clock t).endPlace ⟨start.epoch, stop⟩ + (6144 * ccSt : Nat) ≤ (s.instant t : Int) →
      s.flag P.DECK_STATUS_ONLINE 0 = true →
      s.deck.floor = some f →
      f.before ⟨start.epoch, stop⟩ = false →
      Acts (.deckWriteInterval t) s fun u =>
        (u.deck.blocks = s.deck.blocks.filter (fun b => b.2.start != start)) ∧
        u.deck.woff = s.deck.woff ∧
        u.deck.data = s.deck.data ∧
        u.deck.wpoint = s.deck.wpoint) ∧
    -- A boundary with no block before it.
    (∀ (b : Stamp × Nat) (bs : List (Stamp × Nat)),
      s.deckInterval = none →
      s.deck.bounds = b :: bs →
      (s.clock t).place b.1 + (6144 * ccSt : Nat) ≤ (s.instant t : Int) →
      (s.tdc.ch.any (fun c => c.2.blocks.any fun k => k.deck && !k.sent && k.start.before b.1) = false) →
      s.flag P.DECK_STATUS_ONLINE 0 = true →
      Acts (.deckWriteInterval t) s fun u =>
        u.deck.bounds = bs ∧
        (u.deck.wpoint = (if s.deck.wpoint.before b.1 then b.1 else s.deck.wpoint)) ∧
        (b.2 ≠ writerStops → u.deck.dir.getLast?.map (fun d => (d.at_, d.span)) = some b) ∧
        (b.2 = writerStops → u.deck.idle = true)) ∧
    -- Its last sample is readable.
    (∀ (ch : Ch) (hitTb : Tm) (levels : List Lvl) (w : Nat × Stamp × Nat) (n : Int),
      (s.deck.want.find? (fun y => y.1 == ch.val && y.2.1.tb == hitTb) = some w) →
      (s.clock t).firstPin (ch / 16) ((s.clock t).place w.2.1) - (snipShape w.2.2).2 = n →
      levels.length = (snipShape w.2.2).1 →
      (s.clock t).readable (ch / 16) (n + (snipShape w.2.2).1 - 1) = true →
      Acts (.snippetRead t ch hitTb levels) s fun u =>
        u.deck.want = s.deck.want.filter (· != w) ∧
        u.deck.snips.length = s.deck.snips.length + 1 ∧
        (u.deck.snips.getLast?.map (fun r => (r.type, r.epoch, r.tb, r.body.take 3)) = some (0x03, w.2.1.epoch, w.2.1.tb,
          [BitVec.ofNat 8 ch.val, BitVec.ofNat 8 (snipShape w.2.2).1, BitVec.ofNat 8 (snipShape w.2.2).2])) ∧
        u.seqOf 0x03 = (s.seqOf 0x03 + 1) % 2 ^ 32)

/-- For every state that holds no whole-device reset: a request that breaks no condition joins its context's queue in order of placement, and one that breaks a condition changes nothing; a free session takes the next request of a context with an opening record, or the next waiting accept of the extractor; a read, by the session whose turn it is, delivers the next selected record and moves past it, skips another, ends at the end of the interval, waits at the write point, or finds itself overtaken with source 163; poison in a header counts with source 165, and the session resumes at the next directory entry with a loss record, or waits for one; a waiting session goes on once the writer has passed it; a complete reply becomes a deck-served event with source 130. (R127, R130, R167, R168, R169, R170, R171, R174, R175, R207) -/
def Obligations.DeckReaderCompletes : Prop :=
  ∀ (s : State) (t : Tm), s.pwr.por = false →
    (∀ (ctx : Ctx) (desc : List Byte),
      (s.clock t).reqJudge ctx (Req.parse desc) = stOk →
      (Req.parse desc).delivers = true →
      Acts (.rewindRequest t ctx desc) s fun u =>
        (u.ctxOf ctx).requests = (s.ctxOf ctx).requests ++ [desc] ∧
        u.deck.placed = s.deck.placed ++ [ctx.val]) ∧
    -- A request without records asks for a hold only.
    (∀ (ctx : Ctx) (desc : List Byte),
      (s.clock t).reqJudge ctx (Req.parse desc) = stOk →
      (Req.parse desc).delivers = false →
      Acts (.rewindRequest t ctx desc) s fun u =>
        (u.ctxOf ctx).requests = (s.ctxOf ctx).requests ∧
        u.deck.placed = s.deck.placed) ∧
    -- A refused request.
    (∀ (ctx : Ctx) (desc : List Byte),
      (s.clock t).reqJudge ctx (Req.parse desc) ≠ stOk →
      Acts (.rewindRequest t ctx desc) s fun u =>
        u = s.clock t) ∧
    -- A context's request.
    (∀ (sid : Fin 128) (c : Nat) (d : List Byte) (ds : List (List Byte)),
      s.sess sid = none →
      s.flag P.DECK_STATUS_ONLINE 0 = true →
      sid.val < 64 →
      s.nextRequest = some c →
      (s.ctxOf c).requests = d :: ds →
      s.servedFrom (Req.parse d).epoch (Req.parse d).start (Req.parse d).stop = none →
      Acts (.deckSessionOpen t sid) s fun u =>
        ((u.sess sid).map (fun x => (x.ctx, x.tag, x.kind, x.queued)) = some (c, (Req.parse d).tag, 0, false)) ∧
        ((u.sess sid).map (fun x => (x.epoch, x.start, x.stop, x.mask)) = some ((Req.parse d).epoch, (Req.parse d).start, (Req.parse d).stop, (Req.parse d).mask)) ∧
        (u.ctxOf c).requests = ds ∧
        (u.ctxOf c).replyOn = true ∧
        ((u.ctxOf c).reply.getLast?.map (fun r => (r.type, r.body.take 2)) = some (0x0A, [1, 0])) ∧
        ((u.sess sid).map (fun x => x.order) = some (s.deck.orders + 1))) ∧
    -- An accept of the extractor.
    (∀ (sid : Fin 128) (e : Extract) (rest : List Extract),
      s.sess sid = none →
      s.flag P.DECK_STATUS_ONLINE 0 = true →
      64 ≤ sid.val →
      s.trg.deckWait = e :: rest →
      s.servedFrom e.acc.at_.epoch e.from e.to = none →
      Acts (.deckSessionOpen t sid) s fun u =>
        ((u.sess sid).map (fun x => (x.epoch, x.start, x.stop, x.mask, x.kind, x.flags)) = some (e.acc.at_.epoch, e.from, e.to, e.mask, 1, 3)) ∧
        u.trg.deckWait = rest ∧
        u.trg.deckAccs = s.trg.deckAccs ++ [(e, sid.val)]) ∧
    -- The next selected record.
    (∀ (sid : Fin 128) (poison : Poison) (x : Sess) (d : DRec) (r : Rec),
      s.sess sid = some x →
      (s.clock t).sessTurn x = true →
      x.resume = false →
      s.deck.woff ≤ x.pos + s.deck.sized →
      (s.deck.data.find? (fun y => decide (x.pos ≤ y.pos)) = some d) →
      x.select d = some r →
      poison ≠ .header →
      Acts (.deckReadComplete t sid poison) s fun u =>
        ((u.sess sid).map (fun y => (y.pos, y.at_, y.sent)) = some (d.pos + d.data.bytes, max x.at_ (min x.stop d.data.tb), x.sent + 1)) ∧
        (x.kind = 0 → (u.ctxOf x.ctx).reply.getLast?.map (fun y => (y.type, y.tb, y.body)) = some (r.type, r.tb, r.body)) ∧
        (x.kind = 1 → (u.sess sid).map (fun y => y.reply.length) = some (x.reply.length + 1)) ∧
        (x.kind = 2 → (u.ctxOf x.ctx).raw.getLast?.map (fun y => (y.type, y.tb, y.body)) = some (r.type, r.tb, r.body)) ∧
        (poison = .payload → Raised 165 u) ∧
        ((s.clock t).sessClass x = 2 → u.deck.rr = x.order)) ∧
    -- A record that the session does not take.
    (∀ (sid : Fin 128) (poison : Poison) (x : Sess) (d : DRec),
      s.sess sid = some x →
      (s.clock t).sessTurn x = true →
      x.resume = false →
      s.deck.woff ≤ x.pos + s.deck.sized →
      (s.deck.data.find? (fun y => decide (x.pos ≤ y.pos)) = some d) →
      x.select d = none →
      x.past d = false →
      poison ≠ .header →
      Acts (.deckReadComplete t sid poison) s fun u =>
        u.sess sid = some { x with pos := d.pos + d.data.bytes, at_ := max x.at_ (min x.stop d.data.tb) } ∧
        u.ctx = s.ctx) ∧
    -- A header with an uncorrectable word, with a directory entry after it.
    (∀ (sid : Fin 128) (poison : Poison) (x : Sess) (d : DRec) (e : Dir),
      s.sess sid = some x →
      (s.clock t).sessTurn x = true →
      x.resume = false →
      s.deck.woff ≤ x.pos + s.deck.sized →
      (s.deck.data.find? (fun y => decide (x.pos ≤ y.pos)) = some d) →
      poison = .header →
      (s.deck.dir.find? (fun y => decide (x.pos < y.first)) = some e) →
      Acts (.deckReadComplete t sid poison) s fun u =>
        u.get P.DECK_POISON_COUNT 0 = satTo P.DECK_POISON_COUNT.width (s.get P.DECK_POISON_COUNT 0 + 1) ∧
        Raised 165 u ∧
        ((u.sess sid).map (fun y => y.pos) = some e.first) ∧
        (x.kind = 0 → (u.ctxOf x.ctx).reply.getLast?.map (fun y => y.type) = some 0x06)) ∧
    -- The same without such an entry yet: the session waits for one.
    (∀ (sid : Fin 128) (poison : Poison) (x : Sess) (d : DRec),
      s.sess sid = some x →
      (s.clock t).sessTurn x = true →
      x.resume = false →
      s.deck.woff ≤ x.pos + s.deck.sized →
      (s.deck.data.find? (fun y => decide (x.pos ≤ y.pos)) = some d) →
      poison = .header →
      (s.deck.dir.find? (fun y => decide (x.pos < y.first)) = none) →
      s.sessOver x = false →
      Acts (.deckReadComplete t sid poison) s fun u =>
        u.get P.DECK_POISON_COUNT 0 = satTo P.DECK_POISON_COUNT.width (s.get P.DECK_POISON_COUNT 0 + 1) ∧
        Raised 165 u ∧
        u.sess sid = some { x with resume := true, waits := true }) ∧
    -- The end of a context's interval, in the records or at the write point.
    (∀ (sid : Fin 128) (poison : Poison) (x : Sess),
      s.sess sid = some x →
      (s.clock t).sessTurn x = true →
      x.resume = false →
      s.deck.woff ≤ x.pos + s.deck.sized →
      (s.deck.data.find? (fun y => decide (x.pos ≤ y.pos)) = none ∧ s.sessOver x = true ∨ poison ≠ .header ∧ (s.deck.data.find? fun d => decide (x.pos ≤ d.pos)).any (fun d => (x.select d).isNone && x.past d) = true) →
      x.kind = 0 →
      Acts (.deckReadComplete t sid poison) s fun u =>
        u.sess sid = none ∧
        (u.ctxOf x.ctx).replyOn = false ∧
        ((u.ctxOf x.ctx).reply.getLast?.map (fun y => (y.type, y.body.take 2)) = some (0x0A, [2, 0]))) ∧
    -- At the write point.
    (∀ (sid : Fin 128) (poison : Poison) (x : Sess),
      s.sess sid = some x →
      (s.clock t).sessTurn x = true →
      x.resume = false →
      s.deck.woff ≤ x.pos + s.deck.sized →
      (s.deck.data.find? (fun y => decide (x.pos ≤ y.pos)) = none) →
      s.sessOver x = false →
      Acts (.deckReadComplete t sid poison) s fun u =>
        u.sess sid = some { x with waits := true, followed := true } ∧
        u.ctx = s.ctx) ∧
    -- Overtaken.
    (∀ (sid : Fin 128) (poison : Poison) (x : Sess),
      s.sess sid = some x →
      (s.clock t).sessTurn x = true →
      x.pos + s.deck.sized < s.deck.woff →
      x.kind = 0 →
      Acts (.deckReadComplete t sid poison) s fun u =>
        u.sess sid = none ∧
        u.get P.DECK_COUNTS_OVERTAKEN 0 = satTo P.DECK_COUNTS_OVERTAKEN.width (s.get P.DECK_COUNTS_OVERTAKEN 0 + 1) ∧
        Raised 163 u ∧
        ((u.ctxOf x.ctx).reply.getLast?.map (fun y => (y.type, y.body.take 2)) = some (0x0A, [2, 10]))) ∧
    (∀ (sid : Fin 128) (x : Sess),
      s.sess sid = some x →
      x.waits = true →
      (s.sessOver x = true ∨ x.epoch < s.time.epoch ∨ (x.resume = false ∧ x.pos < s.deck.woff) ∨ (x.resume = true ∧ s.deck.dir.any (fun y => decide (x.pos < y.first)) = true)) →
      Acts (.writePointAdvance t sid) s fun u =>
        u.sess sid = some { x with waits := false }) ∧
    (∀ (acceptId : Nat) (cls : Fin 16) (x : Extract) (i : Nat) (k : Sess),
      (s.trg.deckAccs.find? (fun e => e.1.acc.id == acceptId && e.1.acc.cls == cls.val) = some (x, i)) →
      s.sess i = some k →
      k.ended = true →
      Acts (.deckReplyToExtractor t acceptId cls) s fun u =>
        u.trg.deckAccs = s.trg.deckAccs.erase (x, i) ∧
        u.sess i = none ∧
        u.get P.CLASS_EVENTS_COUNT cls = satTo P.CLASS_EVENTS_COUNT.width (s.get P.CLASS_EVENTS_COUNT cls + 1) ∧
        u.get P.CLASS_LATE_DECK cls = satTo P.CLASS_LATE_DECK.width (s.get P.CLASS_LATE_DECK cls + 1) ∧
        u.seqOf 0x02 = (s.seqOf 0x02 + 1) % 2 ^ 32 ∧
        Raised 130 u)

/-- For every state that holds no whole-device reset: a main-stream record in order joins its live input, one with LATE goes to the late stream, one below the hem or the last key is a broken promise with source 198, and the local input takes the oldest placed record of the event buffer; the least head below the release point enters the egress queue whole; a hem mark waits for the records it counts and then moves the hem, unless it runs backward (source 199); periodic marks and those that fell due within the gap are sent on a port that carries; a hem that has stood still for FRAY frays its input with one loss record and source 192; a spill segment written marks the records it completes, and the oldest written record returns on die or, from a frayed input goes late, or, with a bad header, takes its segment into a loss record with source 197. (R178, R182, R184, R185, R186, R188, R189, R191, R193, R195, R196) -/
def Obligations.SeamCompletes : Prop :=
  ∀ (s : State) (t : Tm), s.pwr.por = false →
    -- In order, at a live input.
    (∀ (input : SeamIn) (record : Rec),
      input ≠ 0 →
      s.abut = false →
      s.inState input = 2 →
      record.flags.testBit 1 = false →
      ((s.si input).hem.all (fun h => !record.stamp.before h) = true) →
      keyLt record.key (s.si input).lastKey = false →
      Acts (.seamRecordArrive t input record) s fun u =>
        (u.si input).q.length = (s.si input).q.length + 1 ∧
        (u.si input).q.getLast?.map (·.data) = some record ∧
        (u.si input).recv = (s.si input).recv + 1 ∧
        (u.si input).lastKey = record.key ∧
        u.get P.SEAM_IN_RECS_COUNT input = satTo P.SEAM_IN_RECS_COUNT.width (s.get P.SEAM_IN_RECS_COUNT input + 1)) ∧
    -- With LATE.
    (∀ (input : SeamIn) (record : Rec),
      input ≠ 0 →
      s.abut = false →
      (s.inState input ≠ 0 ∨ (s.si input).closing = true) →
      record.flags.testBit 1 = true →
      Acts (.seamRecordArrive t input record) s fun u =>
        u.seam.input = s.seam.input ∧
        u.seam.lateNext = (record.type == 0x06) ∧
        u.get P.SEAM_IN_COUNTS_LATE input = satTo P.SEAM_IN_COUNTS_LATE.width (s.get P.SEAM_IN_COUNTS_LATE input + 1)) ∧
    -- Below the hem or the last key of its live input.
    (∀ (input : SeamIn) (record : Rec),
      input ≠ 0 →
      s.abut = false →
      s.inState input = 2 →
      record.flags.testBit 1 = false →
      (keyLt record.key (s.si input).lastKey = true ∨ (s.si input).hem.any (fun h => record.stamp.before h) = true) →
      Acts (.seamRecordArrive t input record) s fun u =>
        (u.si input).q = (s.si input).q ∧
        (u.si input).lastKey = (s.si input).lastKey ∧
        u.get P.SEAM_ERR_PROMISE_BROKEN 0 = satTo P.SEAM_ERR_PROMISE_BROKEN.width (s.get P.SEAM_ERR_PROMISE_BROKEN 0 + 1) ∧
        Raised 198 u) ∧
    -- The local input.
    (∀ (input : SeamIn) (record : Rec) (rs : List Rec),
      input = 0 →
      s.trg.buf = record :: rs →
      (s.clock t).placed record = true →
      s.flag P.SEAM_IN_STATUS_BACKPRESSURED 0 = false →
      s.abut = false →
      s.inState 0 ≠ 0 →
      Acts (.seamRecordArrive t input record) s fun u =>
        u.trg.buf = rs ∧
        (u.trg.taken = s.trg.taken + (if record.type = 0x02 then record.bytes else 0))) ∧
    (∀ (i : Nat) (r : Rec),
      s.flag P.SEAM_CFG_ENABLE 0 = true →
      s.abut = false →
      leastHead ((s.clock t).seamEval).heads = some (i, r, false) →
      r.stamp.before ((s.clock t).seamEval).seam.rp = true →
      ((s.clock t).seamEval).egressRoom r = true →
      Acts (.seamRelease t) s fun u =>
        u.get P.SEAM_OUT_RELEASED 0 = satTo P.SEAM_OUT_RELEASED.width (s.get P.SEAM_OUT_RELEASED 0 + 1) ∧
        u.ctx.egressEnd = s.ctx.egressEnd + r.bytes ∧
        (i = 5 → u.seam.loss = s.seam.loss.drop 1) ∧
        (i ≠ 5 → (u.si i).q = (s.si i).q.drop 1)) ∧
    (∀ (port : Port) (mark : Rec),
      mark.type = 0x05 →
      (s.inState (port + 1) ≠ 0 ∨ (s.si (port + 1)).closing = true) →
      s.abut = false →
      Acts (.hemMarkReceive t port mark) s fun u =>
        (u.si (port + 1)).marks = (s.si (port + 1)).marks ++ [⟨mark.stamp, field mark.body 0 8, mark.flags.testBit 5⟩]) ∧
    -- A mark whose records have arrived.
    (∀ (input : SeamIn) (m : Mark) (ms : List Mark),
      (s.si input).marks = m :: ms →
      m.sent ≤ (s.si input).recv →
      ((s.si input).hem.all (fun h => !m.hem.before h) = true) →
      Acts (.hemMarkApply t input) s fun u =>
        ((u.si input).marks = (if m.close then [] else ms)) ∧
        (m.close = false → input ≠ 0 → (u.si input).hem = some m.hem) ∧
        (m.close = true → u.inState input = 0 ∧ (u.si input).closing = false)) ∧
    -- A mark that runs backward.
    (∀ (input : SeamIn) (m : Mark) (ms : List Mark) (h : Stamp),
      (s.si input).marks = m :: ms →
      m.sent ≤ (s.si input).recv →
      (s.si input).hem = some h →
      m.hem.before h = true →
      Acts (.hemMarkApply t input) s fun u =>
        (u.si input).marks = ms ∧
        (u.si input).hem = some h ∧
        u.get P.SEAM_ERR_HEM_REJECTED 0 = satTo P.SEAM_ERR_HEM_REJECTED.width (s.get P.SEAM_ERR_HEM_REJECTED 0 + 1) ∧
        Raised 199 u) ∧
    (∀ (p : Port),
      s.instant t % secSt % (s.get P.HEM_CFG_INTERVAL_US 0 * usSt) = 0 →
      s.abut = false →
      s.get P.SEAM_CFG_UP_PORT 0 = p.val →
      ((s.clock t).seamEval).portCarries p = true →
      ((((s.clock t).seamEval).upOf p).lastMark.all (fun l => decide (l + s.get P.HEM_CFG_GAP 0 * hkSt ≤ s.instant t)) = true) →
      Acts (.hemMarkPeriodic t) s fun u =>
        (u.upOf p).lastMark = some (s.instant t) ∧
        (u.upOf p).due = none ∧
        u.seqOf 0x05 = (((s.clock t).seamEval).seqOf 0x05 + 1) % 2 ^ 32) ∧
    (∀ (p : Port) (fl : Nat),
      (((s.clock t).seamEval).upOf p).due = some fl →
      ((s.clock t).seamEval).portCarries p = true →
      ((((s.clock t).seamEval).upOf p).lastMark.all (fun l => decide (l + s.get P.HEM_CFG_GAP 0 * hkSt ≤ s.instant t)) = true) →
      Acts (.hemMarkGapExpire t) s fun u =>
        (u.upOf p).lastMark = some (s.instant t) ∧
        (u.upOf p).due = none) ∧
    (∀ (input : SeamIn),
      s.inLive input = true →
      s.abut = false →
      ((s.clock t).seamEval).flag P.SEAM_IN_STATUS_BACKPRESSURED input = false →
      (s.si input).closing = false →
      (((s.clock t).seamEval).si input).hemAt + s.get P.SEAM_IN_CFG_FRAY input * 100 * usSt ≤ s.instant t →
      Acts (.frayTimeout t input) s fun u =>
        u.inState input = 3 ∧
        u.get P.SEAM_IN_COUNTS_FRAYS input = satTo P.SEAM_IN_COUNTS_FRAYS.width (s.get P.SEAM_IN_COUNTS_FRAYS input + 1) ∧
        u.seam.loss.length = s.seam.loss.length + 1 ∧
        (u.si input).q.all (·.spilled) = true ∧
        Raised 192 u) ∧
    (∀ (input : SeamIn) (r : SRec),
      s.spillOpen = true →
      ((s.si input).q.find? (fun y => y.spilled && !y.written) = some r) →
      r.data.bytes ≤ (s.si input).spillPart + min 65472 ((s.si input).backlog - (s.si input).spillPart) →
      Acts (.spillWriteComplete t input) s fun u =>
        { r with written := true } ∈ (u.si input).q ∧
        (u.si input).q.map (·.data) = (s.si input).q.map (·.data) ∧
        (u.si input).spillPart = (writeSpill (s.si input).q ((s.si input).spillPart + min 65472 ((s.si input).backlog - (s.si input).spillPart))).2) ∧
    -- A readable record of an input that is not frayed.
    (∀ (input : SeamIn) (poison : Poison) (r : SRec),
      (s.si input).q.find? (·.spilled) = some r →
      (s.spillOpen = true ∧ r.written = true) →
      64 * (s.si input).cells < 65536 →
      r.data.cells ≤ (s.reserve input - min (s.reserve input) (s.si input).cells) + (s.poolSize - s.poolUse) →
      poison ≠ .header →
      s.inState input ≠ 3 →
      Acts (.spillReadback t input poison) s fun u =>
        (u.si input).q.length = (s.si input).q.length ∧
        ({ r with data := if poison = .payload then r.data.withFlag flReduced else r.data, spilled := false } ∈ (u.si input).q) ∧
        (poison = .payload → Raised 197 u)) ∧
    -- A readable record of a frayed input.
    (∀ (input : SeamIn) (poison : Poison) (r : SRec),
      (s.si input).q.find? (·.spilled) = some r →
      (s.spillOpen = true ∧ r.written = true) →
      64 * (s.si input).cells < 65536 →
      r.data.cells ≤ (s.reserve input - min (s.reserve input) (s.si input).cells) + (s.poolSize - s.poolUse) →
      poison ≠ .header →
      s.inState input = 3 →
      Acts (.spillReadback t input poison) s fun u =>
        (u.si input).q.length + 1 = (s.si input).q.length ∧
        u.get P.SEAM_IN_COUNTS_LATE input = satTo P.SEAM_IN_COUNTS_LATE.width (s.get P.SEAM_IN_COUNTS_LATE input + 1) ∧
        (u.si input).frayLate = (s.si input).frayLate + 1) ∧
    -- A segment with a bad header.
    (∀ (input : SeamIn) (poison : Poison) (r : SRec),
      (s.si input).q.find? (·.spilled) = some r →
      (s.spillOpen = true ∧ r.written = true) →
      64 * (s.si input).cells < 65536 →
      r.data.cells ≤ (s.reserve input - min (s.reserve input) (s.si input).cells) + (s.poolSize - s.poolUse) →
      poison = .header →
      Acts (.spillReadback t input poison) s fun u =>
        ((u.si input).q = (s.si input).q.filter (fun y => !(y.spilled && y.seg == r.seg))) ∧
        u.seam.loss.length = s.seam.loss.length + 1 ∧
        u.get P.SPILL_STATUS_POISON 0 = satTo P.SPILL_STATUS_POISON.width (s.get P.SPILL_STATUS_POISON 0 + 1) ∧
        Raised 197 u)

/-- For every state that holds no whole-device reset: a link grants a floor-due context first, leaving its deficit alone, and else a sole eligible context within its deficit; a transferred unit leaves the link and counts its bytes and records; a coalescer that has waited MEM_COALESCE flushes to its destination; a valid descriptor becomes a buffer and a bad one is written back with source 201; a request entry gets its status written back; returned inbound credit is added up to the window; a detaching context moves past the egress queue's end. (R204, R207, R208, R209, R210, R211, R212, R213, R214, R218, R220, R221) -/
def Obligations.ContextServiceCompletes : Prop :=
  ∀ (s : State) (t : Tm), s.pwr.por = false →
    -- A floor-due context.
    (∀ (link : Fin 6) (v : State) (c : Nat) (p : State × CtxUnit),
      ((s.clock t).each ((s.ctx.c.filter fun e => (e.2.state == 1 || e.2.state == 2) && s.linkOf e.1 == some link.val).map (·.1)) State.ctxEval = v) →
      s.abut = false →
      Tbl.get 0 s.ctx.grantFrom link ≤ s.instant t →
      v.floorNext link = some c →
      v.grantable c link = some p →
      Acts (.schedulerGrant t link) s fun u =>
        u.flight link = s.flight link ++ [p.2] ∧
        (u.ctxOf c).served = true ∧
        Tbl.get 0 u.ctx.grantFrom link = s.instant t + 4 * ccSt ∧
        u.flag P.CTX_STATUS_FLOOR_DUE c = false ∧
        u.get P.CTX_FLOOR_UNITS c = satTo P.CTX_FLOOR_UNITS.width (s.get P.CTX_FLOOR_UNITS c + 1) ∧
        u.get P.CTX_DEFICIT_BYTES c = v.get P.CTX_DEFICIT_BYTES c) ∧
    -- The only eligible context of the link.
    (∀ (link : Fin 6) (v : State) (c d : Nat) (p : State × CtxUnit),
      ((s.clock t).each ((s.ctx.c.filter fun e => (e.2.state == 1 || e.2.state == 2) && s.linkOf e.1 == some link.val).map (·.1)) State.ctxEval = v) →
      s.abut = false →
      Tbl.get 0 s.ctx.grantFrom link ≤ s.instant t →
      v.floorNext link = none →
      v.eligible link = [c] →
      Tbl.get 0 v.ctx.rr (4 * link.val + v.get P.CTX_CFG_CLASS c) = 0 →
      min (v.deficitCap c) (v.get P.CTX_DEFICIT_BYTES c + v.get P.CTX_CFG_WEIGHT c * 4096) = d →
      (v.put P.CTX_DEFICIT_BYTES c d).grantable c link = some p →
      p.2.size ≤ d →
      Acts (.schedulerGrant t link) s fun u =>
        u.flight link = s.flight link ++ [p.2] ∧
        (u.ctxOf c).served = true ∧
        Tbl.get 0 u.ctx.grantFrom link = s.instant t + 4 * ccSt ∧
        u.get P.CTX_DEFICIT_BYTES c = (d - p.2.size) % 2 ^ P.CTX_DEFICIT_BYTES.width) ∧
    (∀ (link : Fin 6) (x : CtxUnit),
      s.nextUnit link (s.flight link) [] = some x →
      Acts (.unitTransferComplete t link) s fun u =>
        u.flight link = (s.flight link).erase x ∧
        u.get P.CTX_BYTES_BYTES x.ctx = (s.get P.CTX_BYTES_BYTES x.ctx + x.data.length) % 2 ^ P.CTX_BYTES_BYTES.width ∧
        u.get P.CTX_RECS_RECORDS x.ctx = (s.get P.CTX_RECS_RECORDS x.ctx + x.ends.length) % 2 ^ P.CTX_RECS_RECORDS.width) ∧
    -- The host.
    (∀ (ctx : Ctx) (f : Tm) (b : Buf) (bs : List Buf),
      (s.ctxOf ctx).coalesceFrom = some f →
      f + s.get P.MEM_COALESCE_US 0 * usSt ≤ s.instant t →
      s.linkOf ctx = some 0 →
      (s.ctxOf ctx).bufs = b :: bs →
      (b.lastEnd ≠ 0 ∧ s.hostMoves = true) →
      Acts (.coalescerTimeout t ctx) s fun u =>
        Emits (.dmaWrite (s.ringEntry ctx b.index) (descBytes b.addr b.lastEnd b.start true true false)) s u) ∧
    -- A DDR5 region.
    (∀ (ctx : Ctx) (f : Tm),
      (s.ctxOf ctx).coalesceFrom = some f →
      f + s.get P.MEM_COALESCE_US 0 * usSt ≤ s.instant t →
      s.linkOf ctx = some 5 →
      s.ddrOn = true →
      Acts (.coalescerTimeout t ctx) s fun u =>
        (u.ctxOf ctx).tailUnit = [] ∧
        u.get P.CTX_DDR_WOFF_OFFSET ctx = (s.get P.CTX_DDR_WOFF_OFFSET ctx + (s.ctxOf ctx).tailUnit.length) % 2 ^ P.CTX_DDR_WOFF_OFFSET.width) ∧
    -- A fabric port.
    (∀ (ctx : Ctx) (f : Tm) (p : Port),
      (s.ctxOf ctx).coalesceFrom = some f →
      f + s.get P.MEM_COALESCE_US 0 * usSt ≤ s.instant t →
      s.linkOf ctx = some (p.val + 1) →
      Acts (.coalescerTimeout t ctx) s fun u =>
        (u.ctxOf ctx).tailUnit = []) ∧
    -- A valid descriptor.
    (∀ (ctx : Ctx) (desc : List Byte),
      (s.ctxOf ctx).state = 1 →
      s.get P.CTX_CFG_DEST_KIND ctx = 0 →
      s.hostMoves = true →
      (s.ctxOf ctx).fetched ≠ (s.ctxOf ctx).prod →
      (s.ctxOf ctx).bufs.length < 8 →
      descOk (field desc 0 8) (field desc 8 4) = true →
      Acts (.descriptorFetch t ctx desc) s fun u =>
        ((u.ctxOf ctx).bufs.getLast?.map (fun b => (b.addr, b.size, b.used, b.index)) = some (field desc 0 8, field desc 8 4, 0, (s.ctxOf ctx).fetched)) ∧
        (u.ctxOf ctx).fetched = ((s.ctxOf ctx).fetched + 1) % 65536 ∧
        u.host.dmaRd = (s.host.dmaRd + 16) % 2 ^ 64) ∧
    -- A bad descriptor.
    (∀ (ctx : Ctx) (desc : List Byte),
      (s.ctxOf ctx).state = 1 →
      s.get P.CTX_CFG_DEST_KIND ctx = 0 →
      s.hostMoves = true →
      (s.ctxOf ctx).fetched ≠ (s.ctxOf ctx).prod →
      (s.ctxOf ctx).bufs.length < 8 →
      descOk (field desc 0 8) (field desc 8 4) = false →
      Acts (.descriptorFetch t ctx desc) s fun u =>
        (u.ctxOf ctx).fetched = ((s.ctxOf ctx).fetched + 1) % 65536 ∧
        Emits (.dmaWrite (s.ringEntry ctx (s.ctxOf ctx).fetched) (descBytes (field desc 0 8) 0 false false false true)) s u ∧
        Raised 201 u) ∧
    (∀ (ctx : Ctx) (desc : List Byte) (code : Nat),
      (s.ctxOf ctx).state = 1 →
      s.get P.CTX_CFG_DEST_KIND ctx = 0 →
      s.hostMoves = true →
      (s.ctxOf ctx).reqCons ≠ (s.ctxOf ctx).reqProd →
      ((if (Req.parse desc).ctx = ctx.val then (s.clock t).reqJudge ctx (Req.parse desc) else stBadParam) = code) →
      Acts (.requestEntryRead t ctx desc) s fun u =>
        (u.ctxOf ctx).reqCons = ((s.ctxOf ctx).reqCons + 1) % 65536 ∧
        u.host.dmaRd = (s.host.dmaRd + 64) % 2 ^ 64 ∧
        Emits (.dmaWrite (s.get P.CTX_REQ_BASE_ADDR ctx + 64 * ((s.ctxOf ctx).reqCons % 2 ^ s.get P.CTX_RING_CFG_REQ_LOG2 ctx) + 26) [BitVec.ofNat 8 code, 1]) s u ∧
        (code = stOk → (Req.parse desc).delivers = true → (u.ctxOf ctx).requests = (s.ctxOf ctx).requests ++ [desc])) ∧
    (∀ (ctx : Ctx) (units : Nat),
      (s.ctxOf ctx).state ≠ 0 →
      Acts (.inboundCredit t ctx units) s fun u =>
        (u.ctxOf ctx).fabCredit = min (64 * 4096) ((s.ctxOf ctx).fabCredit + units * 4096)) ∧
    (∀ (ctx : Ctx) (f : Tm),
      ((s.clock t).egressTrim.egressHold).ctx.holdFrom = some f →
      ((s.clock t).egressTrim.egressHold).ctx.holdBy = some ctx.val →
      s.flag P.CTX_CFG_DETACH ctx = true →
      f + s.get P.CTX_DETACH_US ctx * usSt ≤ s.instant t →
      Acts (.egressDetach t ctx) s fun u =>
        (∀ i : Fin 2, ((s.ctxOf ctx).source i).on = true →
          ((s.clock t).egressTrim.egressHold).egressPos ctx i = ((s.clock t).egressTrim.egressHold).egressFloor →
          s.ctx.egressEnd ≤ ((u.ctxOf ctx).source i).pos))

/-- For every state that holds no whole-device reset: a doorbell within the ring stores the producer index and one beyond it is ignored with source 201; arming sets the notification; a create of a FREE context with room on its link is bound at the next boundary, and every other create changes nothing; a destroy of a BOUND context drains it, cancels its requests and raises source 201; a rebind of a BOUND or LOST context is noted; a drained context gives up its sources and becomes FREE at the next boundary. (R207, R208, R213, R214, R215, R216, R222) -/
def Obligations.ContextLifeCompletes : Prop :=
  ∀ (s : State) (t : Tm), s.pwr.por = false →
    (∀ (ctx : Ctx) (prod : BitVec 16),
      (prod.toNat + 65536 - (s.ctxOf ctx).cons) % 65536 ≤ 2 ^ s.get P.CTX_RING_CFG_LOG2 ctx →
      Acts (.ctxDoorbellWrite t ctx prod) s fun u =>
        (u.ctxOf ctx).prod = prod.toNat ∧
        (u.ctxOf ctx).cons = (s.ctxOf ctx).cons) ∧
    (∀ (ctx : Ctx) (prod : BitVec 16),
      2 ^ s.get P.CTX_RING_CFG_LOG2 ctx < (prod.toNat + 65536 - (s.ctxOf ctx).cons) % 65536 →
      Acts (.ctxDoorbellWrite t ctx prod) s fun u =>
        u.ctx = s.ctx ∧
        Raised 201 u) ∧
    (∀ (ctx : Ctx) (prod : BitVec 16),
      (prod.toNat + 65536 - (s.ctxOf ctx).reqCons) % 65536 ≤ 2 ^ s.get P.CTX_RING_CFG_REQ_LOG2 ctx →
      Acts (.ctxReqDoorbellWrite t ctx prod) s fun u =>
        (u.ctxOf ctx).reqProd = prod.toNat ∧
        (u.ctxOf ctx).reqCons = (s.ctxOf ctx).reqCons) ∧
    (∀ (ctx : Ctx) (prod : BitVec 16),
      2 ^ s.get P.CTX_RING_CFG_REQ_LOG2 ctx < (prod.toNat + 65536 - (s.ctxOf ctx).reqCons) % 65536 →
      Acts (.ctxReqDoorbellWrite t ctx prod) s fun u =>
        u.ctx = s.ctx ∧
        Raised 201 u) ∧
    (∀ (ctx : Ctx),
      Acts (.ctxNotifyArm t ctx) s fun u =>
        u.ctxOf ctx = { s.ctxOf ctx with arm := true }) ∧
    (∀ (ctx : Ctx),
      (s.ctxOf ctx).state = 0 →
      (s.ctxOf ctx).next = none →
      (¬(s.nextGet P.CTX_CFG_DEST_KIND ctx = 1 ∧ 0 < s.inboundWindow ctx)) →
      ((s.linkFor (s.nextGet P.CTX_CFG_DEST_KIND ctx) (s.nextGet P.CTX_FAB_DEST_ADDR ctx)).all (fun l => decide (s.bound l < s.nMax l s.spanUs)) = true) →
      s.ctx.inboundUsed + s.inboundWindow ctx ≤ 256 →
      Acts (.ctxCreate t ctx) s fun u =>
        (u.ctxOf ctx).next = some 1 ∧
        (u.ctxOf ctx).window = s.inboundWindow ctx ∧
        u.ctx.inboundUsed = s.ctx.inboundUsed + s.inboundWindow ctx) ∧
    -- A context that is not FREE, or about to change.
    (∀ (ctx : Ctx),
      ((s.ctxOf ctx).state ≠ 0 ∨ (s.ctxOf ctx).next ≠ none) →
      Acts (.ctxCreate t ctx) s fun u =>
        u = s.clock t) ∧
    (∀ (ctx : Ctx),
      (s.ctxOf ctx).state = 1 →
      Acts (.ctxDestroy t ctx) s fun u =>
        (u.ctxOf ctx).state = 3 ∧
        ((u.ctxOf ctx).requests = [] ∧ (u.ctxOf ctx).replyOn = false ∧ (u.ctxOf ctx).next = none) ∧
        ctx.val ∉ u.deck.placed ∧
        u.get P.CTX_STATUS_STATE ctx = 3 ∧
        Raised 201 u) ∧
    (∀ (ctx : Ctx),
      (s.ctxOf ctx).state ≠ 1 →
      Acts (.ctxDestroy t ctx) s fun u =>
        u = s.clock t) ∧
    (∀ (ctx : Ctx),
      ((s.ctxOf ctx).state = 1 ∨ (s.ctxOf ctx).state = 2) →
      Acts (.ctxRebind t ctx) s fun u =>
        u.ctxOf ctx = { s.ctxOf ctx with next := some 1, rebind := true }) ∧
    (∀ (ctx : Ctx),
      ((s.ctxOf ctx).state ≠ 1 ∧ (s.ctxOf ctx).state ≠ 2) →
      Acts (.ctxRebind t ctx) s fun u =>
        u = s.clock t) ∧
    (∀ (ctx : Ctx),
      (s.ctxOf ctx).state = 3 →
      s.flying ctx = false →
      Acts (.ctxDrainComplete t ctx) s fun u =>
        (u.ctxOf ctx).next = some 0 ∧
        ((u.ctxOf ctx).src = [] ∧ (u.ctxOf ctx).raw = [] ∧ (u.ctxOf ctx).inbound = []))

/-- For every state that holds no whole-device reset: enabling a host mailbox clears its indices and shows READY while a pier serves; disabling mutes what it has outstanding; doorbells store their index; a slot read whose header is good is accepted, a new state-changing sequence becomes h, a bad header is completed at once, and a command for another device is forwarded; a committed completion is recorded and posted; a background command's end waits for its commit or is posted; a remote request is accepted at MB2, a reply ends the forwarded command, and a lapsed one ends with source 2. (R362, R372, R377, R378, R379, R380, R383, R385, R387, R388, R390, R391) -/
def Obligations.MailboxTransportCompletes : Prop :=
  ∀ (s : State) (t : Tm), s.pwr.por = false →
    (∀ (m : Fin 2) (on : Bool),
      on = true →
      (s.mbRegs m).enable = false →
      Acts (.mbEnableWrite t m on) s fun u =>
        u.mbRegs m = { s.mbRegs m with enable := true, prod := 0, head := 0, cons := 0, tail := 0, reserved := 0, ready := s.leased && !s.abut }) ∧
    (∀ (m : Fin 2) (on : Bool),
      on = false →
      (s.mbRegs m).enable = true →
      Acts (.mbEnableWrite t m on) s fun u =>
        u.mbRegs m = { s.mbRegs m with enable := false, error := false, ready := false } ∧
        (∀ x ∈ u.mbox.wait, x.who.mb = m.val → x.mute = true) ∧
        (∀ x ∈ u.mbox.remote, x.who.mb ≠ m.val)) ∧
    (∀ (m : Fin 2) (p : BitVec 16),
      Acts (.mbDoorbellWrite t m p) s fun u =>
        u.mbRegs m = { s.mbRegs m with prod := p.toNat }) ∧
    (∀ (m : Fin 2) (p : BitVec 16),
      Acts (.mbCqDoorbellWrite t m p) s fun u =>
        u.mbRegs m = { s.mbRegs m with head := p.toNat }) ∧
    -- A command that changes nothing.
    (∀ (m : Mb) (b : List Byte) (c : Cmd),
      m.val < 2 →
      s.mbFetches m = true →
      Cmd.parse b ((s.mbRegs m).cons % 2 ^ (s.mbRegs m).sqLog2) = c →
      (c.order && s.mbPending m) = false →
      s.headerCheck { Who.reset with mb := m } c (headerRest b) = stOk →
      s.elsewhere c = false →
      opClass c.opcode c.payload = some .r →
      Acts (.mbFetch t m b) s fun u =>
        u.mbox.fetched = s.mbox.fetched ++ [({ Who.reset with mb := m }, c)] ∧
        (u.mbRegs m).reserved = (s.mbRegs m).reserved + 1 ∧
        u.host.dmaRd = (s.host.dmaRd + 4096) % 2 ^ 64) ∧
    -- A new command that changes state.
    (∀ (m : Mb) (b : List Byte) (c : Cmd),
      m.val < 2 →
      s.mbFetches m = true →
      Cmd.parse b ((s.mbRegs m).cons % 2 ^ (s.mbRegs m).sqLog2) = c →
      (c.order && s.mbPending m) = false →
      s.headerCheck { Who.reset with mb := m } c (headerRest b) = stOk →
      s.elsewhere c = false →
      opClass c.opcode c.payload = some .n →
      ((Tbl.get [] s.mbox.hist m.val).find? (fun h => h.seq == c.seq) = none) →
      ((s.mbox.wait.any fun x => x.who.key == m.val && x.seq == c.seq) = false) →
      s.seqNew m c.seq = true →
      Acts (.mbFetch t m b) s fun u =>
        u.mbox.fetched = s.mbox.fetched ++ [({ Who.reset with mb := m }, c)] ∧
        u.highOf m = c.seq ∧
        u.get P.MB_LAST_SEQ_H m = c.seq % 2 ^ P.MB_LAST_SEQ_H.width) ∧
    -- A header that fails its check.
    (∀ (m : Mb) (b : List Byte) (c : Cmd) (st : Nat),
      m.val < 2 →
      s.mbFetches m = true →
      Cmd.parse b ((s.mbRegs m).cons % 2 ^ (s.mbRegs m).sqLog2) = c →
      (c.order && s.mbPending m) = false →
      s.headerCheck { Who.reset with mb := m } c (headerRest b) = st →
      st ≠ stOk →
      Acts (.mbFetch t m b) s fun u =>
        u.mbox.fetched = s.mbox.fetched ∧
        (u.mbRegs m).cons = ((s.mbRegs m).cons + 1) % 65536 ∧
        (u.mbRegs m).tail = ((s.mbRegs m).tail + 1) % 65536) ∧
    -- A command for another device.
    (∀ (m : Mb) (b : List Byte) (c : Cmd),
      m.val < 2 →
      s.mbFetches m = true →
      Cmd.parse b ((s.mbRegs m).cons % 2 ^ (s.mbRegs m).sqLog2) = c →
      (c.order && s.mbPending m) = false →
      s.headerCheck { Who.reset with mb := m } c (headerRest b) = stOk →
      s.elsewhere c = true →
      Acts (.mbFetch t m b) s fun u =>
        Emits (.mailbox c.target (.request s.origin (Fin.ofNat 6 m.val) c)) s u ∧
        (u.mbox.remote.getLast?.map (fun r => (r.who.mb, r.seq, r.due.isSome)) = some (m.val, c.seq, true))) ∧
    (∀ (m : Fin 2) (x : Wait),
      s.leased = true →
      ((s.mbox.wait.filter fun y => !y.background && decide (y.commit ≤ s.core.committed)) = [x]) →
      x.who.mb = m.val →
      (s.mbRegs m).enable = true →
      s.hostMoves = true →
      x.mute = false →
      Acts (.commandCommit t) s fun u =>
        (u.mbox.wait = s.mbox.wait.filter fun y => y.background || !decide (y.commit ≤ s.core.committed)) ∧
        Tbl.get [] u.mbox.hist x.who.key = (⟨x.seq, x.status, x.result⟩ :: Tbl.get [] s.mbox.hist x.who.key).take 64 ∧
        (u.mbRegs m).tail = ((s.mbRegs m).tail + 1) % 65536) ∧
    -- Done.
    (∀ (m : Mb) (q : BitVec 32) (st : Fin 16) (r : W64),
      s.leased = true →
      st.val = stOk →
      Acts (.backgroundComplete t m q st r) s fun u =>
        (u.mbox.wait = s.mbox.wait.map fun y => if y.background && (y.who.mb == m.val && y.seq == q.toNat) then
          { y with background := false, status := stOk, result := r, response := [], commit := s.time.next } else y)) ∧
    -- Failed.
    (∀ (m : Mb) (q : BitVec 32) (st : Fin 16) (r : W64) (x : Wait),
      s.leased = true →
      st.val ≠ stOk →
      (s.mbox.wait.find? (fun y => y.background && (y.who.mb == m.val && y.seq == q.toNat)) = some x) →
      Acts (.backgroundComplete t m q st r) s fun u =>
        u.mbox.wait = s.mbox.wait.erase x ∧
        Tbl.get [] u.mbox.hist x.who.key = (⟨x.seq, st.val, r⟩ :: Tbl.get [] s.mbox.hist x.who.key).take 64) ∧
    -- A remote command.
    (∀ (frame : MbFrame) (o : Nat) (om : Fin 6) (c : Cmd),
      frame = .request o om c →
      s.leased = true →
      s.flag P.MB_CFG_ENABLE 2 = true →
      s.headerCheck ⟨2, o, om⟩ c 0 = stOk →
      s.elsewhere c = false →
      opClass c.opcode c.payload = some .r →
      Acts (.mailboxFrame t frame) s fun u =>
        u.mbox.fetched = s.mbox.fetched ++ [(⟨2, o, om⟩, c)]) ∧
    -- A reply from elsewhere, to MB3.
    (∀ (frame : MbFrame) (m : Fin 6) (q : BitVec 32) (st : Fin 16) (v : W64) (bs : List Byte) (r : Remote),
      frame = .reply m q st false v bs →
      s.leased = true →
      (s.mbox.remote.find? (fun y => y.who.mb == m.val && y.seq == q.toNat) = some r) →
      m.val = 3 →
      r.respAddr = 0 →
      Acts (.mailboxFrame t frame) s fun u =>
        u.mbox.remote = s.mbox.remote.erase r ∧
        u.mbox.resp3 = bs.take 4064 ∧
        u.mbox.entry3.take 4 = le 4 r.seq) ∧
    (∀ (m : Mb) (q : BitVec 32) (r : Remote) (d : Tm),
      (s.mbox.remote.find? (fun y => y.who.mb == m.val && y.seq == q.toNat) = some r) →
      r.due = some d →
      d ≤ s.instant t →
      Acts (.remoteTimeout t m q) s fun u =>
        u.mbox.remote = s.mbox.remote.erase r ∧
        Raised 2 u)

/-- For every state that holds no whole-device reset: a transaction to another address is not MB3's; a good SMBus block joins MB3's buffer, which a completion makes start anew; the start command hands the buffer to a serving pier or waits for one; reads give the completion entry and the next response bytes; MB5 appends 4 bytes per update, captures the next 4 bytes of its answer, starts its command, and returns its pointers to 0. (R377, R378, R392, R393, R405, R508) -/
def Obligations.ServiceMailboxesComplete : Prop :=
  ∀ (s : State) (t : Tm), s.pwr.por = false →
    (∀ (addr : BitVec 7) (bs : List Byte) (ok : Bool),
      s.smbMine addr = true →
      s.smbOn = true →
      ok = true →
      Acts (.smbCmdAppend ⟨t, addr⟩ bs ok) s fun u =>
        (u.mbox.cmdBuf = ((if s.mbox.cmdFresh then [] else s.mbox.cmdBuf) ++ bs).take 4096) ∧
        u.mbox.cmdFresh = false) ∧
    -- A transaction that names another address.
    (∀ (addr : BitVec 7) (bs : List Byte) (ok : Bool),
      s.smbMine addr = false →
      Acts (.smbCmdAppend ⟨t, addr⟩ bs ok) s fun u =>
        u = s.clock t) ∧
    -- No pier serves.
    (∀ (addr : BitVec 7) (n : BitVec 32) (ok : Bool),
      s.smbMine addr = true →
      s.smbOn = true →
      ok = true →
      s.leased = false →
      Acts (.smbCmdStart ⟨t, addr⟩ n ok) s fun u =>
        u.mbox.start3 = some n.toNat) ∧
    -- A pier serves.
    (∀ (addr : BitVec 7) (n : BitVec 32) (ok : Bool) (c : Cmd),
      s.smbMine addr = true →
      s.smbOn = true →
      ok = true →
      s.leased = true →
      s.mbox.start5 = false →
      s.mbBusy 3 = false →
      Cmd.parse (s.mbox.cmdBuf.take n.toNat) 0 = c →
      s.headerCheck { Who.reset with mb := 3 } c (headerRest (s.mbox.cmdBuf.take n.toNat)) = stOk →
      s.elsewhere c = false →
      opClass c.opcode c.payload = some .r →
      Acts (.smbCmdStart ⟨t, addr⟩ n ok) s fun u =>
        u.mbox.start3 = none ∧
        u.mbox.fetched = s.mbox.fetched ++ [({ Who.reset with mb := 3 }, c)]) ∧
    -- A block whose check fails.
    (∀ (addr : BitVec 7) (n : BitVec 32) (ok : Bool),
      s.smbMine addr = true →
      s.smbOn = true →
      ok = false →
      Acts (.smbCmdStart ⟨t, addr⟩ n ok) s fun u =>
        u.mbox = s.mbox ∧
        u.get P.MB_STATS_PEC_ERR 3 = satTo P.MB_STATS_PEC_ERR.width (s.get P.MB_STATS_PEC_ERR 3 + 1)) ∧
    (∀ (addr : BitVec 7),
      s.smbMine addr = true →
      s.smbOn = true →
      Acts (.smbReadCompletion ⟨t, addr⟩) s fun u =>
        Emits (.block s.mbox.entry3) s u) ∧
    (∀ (addr : BitVec 7) (n : Fin 241),
      s.smbMine addr = true →
      s.smbOn = true →
      Acts (.smbReadResponse ⟨t, addr⟩ n) s fun u =>
        Emits (.block (s.mbox.resp3.take n)) s u ∧
        u.mbox.resp3 = s.mbox.resp3.drop n) ∧
    (∀ (v : BitVec 32),
      Acts (.mb5Data t (some v)) s fun u =>
        u.mbox.jtagBuf = (s.mbox.jtagBuf ++ le 4 v.toNat).take 4096) ∧
    (Acts (.mb5Data t none) s fun u =>
        Emits (.jtag 32 (field s.mbox.jtagOut s.mbox.jtagPtr 4)) s u ∧
        u.mbox.jtagPtr = s.mbox.jtagPtr + 4) ∧
    (s.abut = false →
      s.flag P.MB_CFG_ENABLE 5 = true →
      s.leased = false →
      Acts (.mb5Go t) s fun u =>
        u.mbox.start5 = true ∧
        u.mbox.jtagDone = false) ∧
    (∀ (c : Cmd),
      s.abut = false →
      s.flag P.MB_CFG_ENABLE 5 = true →
      s.leased = true →
      s.mbox.start3 = none →
      s.mbBusy 5 = false →
      Cmd.parse s.mbox.jtagBuf 0 = c →
      s.headerCheck { Who.reset with mb := 5 } c (headerRest s.mbox.jtagBuf) = stOk →
      s.elsewhere c = false →
      opClass c.opcode c.payload = some .r →
      Acts (.mb5Go t) s fun u =>
        u.mbox.start5 = false ∧
        u.mbox.fetched = s.mbox.fetched ++ [({ Who.reset with mb := 5 }, c)]) ∧
    (Acts (.mb5PtrReset t) s fun u =>
        u.mbox.jtagBuf = [] ∧
        u.mbox.jtagPtr = 0)

/-- For every state that holds no whole-device reset, and every command that the lease holder takes for execution: ECHO answers its payload and IDENTIFY the device's identity with status OK; HEALTH answers KS_STATUS, both health words and KS_DENIED; TDC_CAL_VISIT adds a channel of the device to those asked for; SOFT_ACCEPT at a root takes the next accept id and gives it as its result; DECK_REWIND places a request that breaks no condition; HOLD_CANCEL frees the lowest matching hold-only hold and gives 1, or 0 where none matches; FAILOVER arms the hand-over after the boundary that follows its own. (R92, R116, R166, R167, R173, R398, R401, R406, R416) -/
def Obligations.MailboxCommandsComplete : Prop :=
  ∀ (s : State) (t : Tm), s.pwr.por = false →
    (∀ (mb : Mb) (cmd : Cmd),
      Served s t mb cmd cmd.length .r →
      Acts (.echo t mb cmd) s fun u =>
        u = ((s.met t mb cmd).bump P.MB_STATS_COMMANDS (s.sentBy t mb cmd).mb).post (cmd.post (s.sentBy t mb cmd) stOk 0 cmd.payload true)) ∧
    (∀ (mb : Mb) (cmd : Cmd),
      Served s t mb cmd 0 .r →
      Acts (.identify t mb cmd) s fun u =>
        (u = ((s.met t mb cmd).bump P.MB_STATS_COMMANDS (s.sentBy t mb cmd).mb).post
          (cmd.post (s.sentBy t mb cmd) stOk 0 (le 3 s.host.fwVersion ++ [0, BitVec.ofNat 8 s.core.booted, BitVec.ofNat 8 s.host.grade] ++ le 2 s.origin
          ++ le 8 (s.get P.FAB_ID_ID 0) ++ ([0, 1, 2, 3, 4, 5].flatMap fun m => le 4 (s.get P.MB_LAST_SEQ_H m)) ++ List.replicate 24 0) true))) ∧
    (∀ (mb : Mb) (cmd : Cmd),
      Served s t mb cmd 0 .r →
      Acts (.health t mb cmd) s fun u =>
        u = ((s.met t mb cmd).bump P.MB_STATS_COMMANDS (s.sentBy t mb cmd).mb).post
          (cmd.post (s.sentBy t mb cmd) stOk 0 (le 4 s.ksStatus ++ le 4 ((s.clock t).pierWord 0) ++ le 4 ((s.clock t).pierWord 1) ++ le 4 s.core.denied) true)) ∧
    (∀ (mb : Mb) (cmd : Cmd),
      Served s t mb cmd 2 .n →
      field cmd.payload 0 2 < 256 →
      Acts (.tdcCalVisit t mb cmd) s fun u =>
        field cmd.payload 0 2 ∈ u.mbox.tdcAsk ∧
        Owed cmd (s.sentBy t mb cmd) 0 u) ∧
    -- A channel that does not exist.
    (∀ (mb : Mb) (cmd : Cmd),
      Served s t mb cmd 2 .n →
      256 ≤ field cmd.payload 0 2 →
      Acts (.tdcCalVisit t mb cmd) s fun u =>
        u.mbox.tdcAsk = s.mbox.tdcAsk ∧
        u.mbox.wait = s.mbox.wait) ∧
    (∀ (mb : Mb) (cmd : Cmd),
      Served s t mb cmd 16 .n →
      s.abut = false →
      s.flag P.ROOT_CFG_ROOT 0 = true →
      field cmd.payload 0 1 ≤ 15 →
      field cmd.payload 4 2 ≤ 3071 →
      Acts (.softAccept t mb cmd) s fun u =>
        u.trg.acceptId = (s.trg.acceptId + 1) % 65536 ∧
        Owed cmd (s.sentBy t mb cmd) (BitVec.ofNat 64 s.trg.acceptId) u) ∧
    -- A device that is no root.
    (∀ (mb : Mb) (cmd : Cmd),
      Served s t mb cmd 16 .n →
      s.flag P.ROOT_CFG_ROOT 0 = false →
      Acts (.softAccept t mb cmd) s fun u =>
        u.trg = s.trg ∧
        u.mbox.wait = s.mbox.wait) ∧
    (∀ (mb : Mb) (cmd : Cmd) (c : Nat),
      Served s t mb cmd 64 .n →
      (Req.parse cmd.payload).ctx = c →
      (Req.parse (cmd.payload.take 64)).delivers = true →
      (s.clock t).reqJudge c (Req.parse (cmd.payload.take 64)) = stOk →
      Acts (.deckRewind t mb cmd) s fun u =>
        (u.ctxOf c).requests = (s.ctxOf c).requests ++ [cmd.payload.take 64] ∧
        u.deck.placed = s.deck.placed ++ [c] ∧
        Owed cmd (s.sentBy t mb cmd) 0 u) ∧
    (∀ (mb : Mb) (cmd : Cmd) (i : Nat),
      Served s t mb cmd 4 .n →
      cmd.context < 1024 →
      (((upTo 64).find? fun j => (s.holdOf j).used && (s.holdOf j).only && (s.holdOf j).ctx == cmd.context && (s.holdOf j).tag == field cmd.payload 0 4) = some i) →
      Acts (.holdCancel t mb cmd) s fun u =>
        (u.holdOf i).used = false ∧
        u.get P.HOLD_STATE_STATE i = 0 ∧
        Owed cmd (s.sentBy t mb cmd) 1 u) ∧
    -- No hold matches.
    (∀ (mb : Mb) (cmd : Cmd),
      Served s t mb cmd 4 .n →
      cmd.context < 1024 →
      (((upTo 64).find? fun j => (s.holdOf j).used && (s.holdOf j).only && (s.holdOf j).ctx == cmd.context && (s.holdOf j).tag == field cmd.payload 0 4) = none) →
      Acts (.holdCancel t mb cmd) s fun u =>
        u.deck = s.deck ∧
        Owed cmd (s.sentBy t mb cmd) 0 u) ∧
    (∀ (mb : Mb) (cmd : Cmd),
      Served s t mb cmd 0 .p →
      s.core.sync = true →
      Acts (.failover t mb cmd) s fun u =>
        u.core.handing = true ∧
        u.core.handAfter = s.time.next + s.spanLen ∧
        Owed cmd (s.sentBy t mb cmd) 0 u) ∧
    -- No synchronised standby.
    (∀ (mb : Mb) (cmd : Cmd),
      Served s t mb cmd 0 .p →
      s.core.sync = false →
      Acts (.failover t mb cmd) s fun u =>
        u.core.handing = s.core.handing ∧
        u.mbox.wait = s.mbox.wait)

/-- For every state that holds no whole-device reset: the holder's renewal with the present generation resets the lease counter and any other is counted as denied; a health word of a pier out of reset is stored with its time, and a healthy one ends the pier's grace; a grant at the start and a promotion give the lease to the pier with a new generation and source 224, a warm promotion takes histories and h from the committed checkpoint, and a cold one begins with none; a lapsed lease is revoked, with sources 224 and 229, at once or after the boundary of the hold window; a reset pier that is not healthy within 500 ms fails with source 229. (R388, R389, R406, R407, R408, R409, R410, R412, R415, R424) -/
def Obligations.LeaseCompletes : Prop :=
  ∀ (s : State) (t : Tm), s.pwr.por = false →
    (∀ (pier : Pier) (gen : BitVec 16),
      s.core.holder = pier.val + 1 →
      s.core.gen = gen.toNat →
      Acts (.leaseRenew t pier gen) s fun u =>
        u.core.renewed = (s.clock t).time.up ∧
        u.core.denied = s.core.denied) ∧
    (∀ (pier : Pier) (gen : BitVec 16),
      (s.core.holder ≠ pier.val + 1 ∨ s.core.gen ≠ gen.toNat) →
      Acts (.leaseRenew t pier gen) s fun u =>
        u.core.renewed = s.core.renewed ∧
        u.core.denied = satTo 32 (s.core.denied + 1)) ∧
    -- The Keystone sets ALIVE itself.
    (∀ (pier : Pier) (word : BitVec 32),
      (s.pierOf pier).held = false →
      s.pwr.refWait = false →
      Acts (.healthWordPublish t pier word) s fun u =>
        (u.pierOf pier).word = word.toNat / 2 * 2 ∧
        (u.pierOf pier).heard = some (s.clock t).time.up ∧
        (u.healthy pier = true → (u.pierOf pier).resetAt = none)) ∧
    -- The first grant after a start.
    (∀ (pier : Pier),
      (s.clock t).mayGrant pier = true →
      s.core.ks = 1 →
      Acts (.leaseGrant t pier) s fun u =>
        u.core.holder = pier.val + 1 ∧
        u.core.ks = 2 ∧
        u.core.gen = (s.core.gen + 1) % 65536 ∧
        u.core.grants = satTo 16 (s.core.grants + 1) ∧
        Raised 224 u) ∧
    -- A warm promotion.
    (∀ (pier : Pier),
      (s.clock t).mayGrant pier = true →
      s.core.ks ≠ 1 →
      s.core.sync = true →
      s.core.last ≠ pier.val + 1 →
      Acts (.leaseGrant t pier) s fun u =>
        u.core.holder = pier.val + 1 ∧
        u.core.gen = (s.core.gen + 1) % 65536 ∧
        u.flag P.CORE_STATUS_COLD 0 = false ∧
        (s.fab.again = false → u.mbox.hist = s.core.ckpt.hist) ∧
        Raised 224 u) ∧
    -- A cold promotion.
    (∀ (pier : Pier),
      (s.clock t).mayGrant pier = true →
      s.core.ks ≠ 1 →
      (s.core.sync = false ∨ s.core.last = pier.val + 1) →
      Acts (.leaseGrant t pier) s fun u =>
        u.core.holder = pier.val + 1 ∧
        u.core.gen = (s.core.gen + 1) % 65536 ∧
        (s.fab.again = false → u.mbox.hist = []) ∧
        Raised 224 u) ∧
    -- Outside a hold window.
    (s.leased = true →
      s.core.revokeAt = none →
      (s.clock t).leaseOver ((s.clock t).time.up - s.core.renewed) = true →
      (s.clock t).holdWindow = false →
      Acts (.leaseExpire t) s fun u =>
        u.core.holder = 0 ∧
        u.core.gen = (s.core.gen + 1) % 65536 ∧
        u.time.pend = [] ∧
        Raised 224 u ∧
        Raised 229 u) ∧
    -- Within the hold window.
    (s.leased = true →
      s.core.revokeAt = none →
      (s.clock t).leaseOver ((s.clock t).time.up - s.core.renewed) = true →
      (s.clock t).holdWindow = true →
      Acts (.leaseExpire t) s fun u =>
        u.core.revokeAt = some s.time.next ∧
        u.core.holder = s.core.holder) ∧
    (∀ (pier : Pier) (r : Tm),
      (s.pierOf pier).resetAt = some r →
      s.pwr.refWait = false →
      (s.pierOf pier).failed = false →
      (s.clock t).healthy pier = false →
      r + 500 * msSt ≤ (s.clock t).time.up →
      Acts (.pierHealthTimeout t pier) s fun u =>
        (u.pierOf pier).failed = true ∧
        (u.pierOf pier).held = true ∧
        Raised 229 u)

/-- For every state that holds no whole-device reset: 40 µs after a boundary its set is committed locally where no standby keeps step, marked where it has crossed the channel, and counted as late with source 231 where it has not; an accepted mark commits, brings a copied standby into step with source 226 and completes a hand-over that waits for it; the first refusal asks again, the second and a missed acknowledgement declare the standby unsynchronised and commit locally; a full copy is noted. (R387, R398, R410, R411, R412, R413, R414, R416) -/
def Obligations.CheckpointCompletes : Prop :=
  ∀ (s : State) (t : Tm), s.pwr.por = false →
    -- No standby keeps step.
    (∀ (bytes : Nat) (crossed : Bool),
      s.leased = true →
      s.core.mark = none →
      s.core.committed < s.time.last →
      s.time.last + 40 * usSt ≤ s.instant t →
      (s.core.sync || s.core.copied || s.core.joined) = false →
      Acts (.checkpointMark t bytes crossed) s fun u =>
        u.core.committed = s.time.last ∧
        u.core.ckpt = s.core.delta ∧
        u.get P.CKPT_SIZE_BYTES 0 = satTo 24 bytes) ∧
    -- The set has crossed.
    (∀ (bytes : Nat) (crossed : Bool),
      s.leased = true →
      s.core.mark = none →
      s.core.committed < s.time.last →
      s.time.last + 40 * usSt ≤ s.instant t →
      (s.core.sync || s.core.copied || s.core.joined) = true →
      crossed = true →
      Acts (.checkpointMark t bytes crossed) s fun u =>
        u.core.mark = some s.time.last ∧
        u.core.markAt = s.instant t ∧
        u.core.committed = s.core.committed) ∧
    -- The set is late.
    (∀ (bytes : Nat) (crossed : Bool),
      s.leased = true →
      s.core.mark = none →
      s.core.committed < s.time.last →
      s.time.last + 40 * usSt ≤ s.instant t →
      (s.core.sync || s.core.copied || s.core.joined) = true →
      crossed = false →
      s.core.late = false →
      Acts (.checkpointMark t bytes crossed) s fun u =>
        u.core.mark = none ∧
        u.core.late = true ∧
        u.get P.CKPT_STATUS_LATE 0 = satTo P.CKPT_STATUS_LATE.width (s.get P.CKPT_STATUS_LATE 0 + 1) ∧
        Raised 231 u) ∧
    (∀ (accepted : Bool) (b : Tm),
      s.leased = true →
      s.core.mark = some b →
      accepted = true →
      Acts (.checkpointAck t accepted) s fun u =>
        u.core.committed = b ∧
        u.core.mark = none ∧
        u.core.ckpt = s.core.delta ∧
        u.get P.CKPT_LAST_TIME_NS 0 = tbNs b % 2 ^ P.CKPT_LAST_TIME_NS.width) ∧
    -- A copied standby comes into step.
    (∀ (accepted : Bool) (b : Tm),
      s.leased = true →
      s.core.mark = some b →
      accepted = true →
      s.core.sync = false →
      s.core.copied = true →
      Acts (.checkpointAck t accepted) s fun u =>
        u.core.sync = true ∧
        u.flag P.CKPT_STATUS_UNSYNC 0 = false ∧
        Raised 226 u) ∧
    -- A hand-over that waits.
    (∀ (accepted : Bool) (b : Tm),
      s.leased = true →
      s.core.mark = some b →
      accepted = true →
      s.core.sync = true →
      s.core.handing = true →
      s.core.handAfter ≤ b →
      Acts (.checkpointAck t accepted) s fun u =>
        u.core.holder = 0 ∧
        u.core.last = s.core.holder ∧
        u.core.ks = 4 ∧
        Raised 224 u) ∧
    -- The first refusal.
    (∀ (accepted : Bool) (b : Tm),
      s.leased = true →
      s.core.mark = some b →
      accepted = false →
      s.core.refused = 0 →
      Acts (.checkpointAck t accepted) s fun u =>
        u.core.mark = none ∧
        u.core.refused = 1 ∧
        u.core.committed = s.core.committed) ∧
    -- The second refusal.
    (∀ (accepted : Bool) (b : Tm),
      s.leased = true →
      s.core.mark = some b →
      accepted = false →
      1 ≤ s.core.refused →
      Acts (.checkpointAck t accepted) s fun u =>
        u.core.committed = b ∧
        u.core.sync = false ∧
        u.flag P.CKPT_STATUS_UNSYNC 0 = true) ∧
    (∀ (b : Tm),
      s.leased = true →
      s.core.mark = some b →
      s.core.markAt + 20 * usSt ≤ s.instant t →
      Acts (.checkpointAckTimeout t) s fun u =>
        u.core.committed = b ∧
        u.core.sync = false ∧
        u.flag P.CKPT_STATUS_UNSYNC 0 = true) ∧
    (∀ (x : Nat),
      (s.clock t).pierWord (2 - s.core.holder) = x →
      s.leased = true →
      s.core.sync = false →
      x.testBit 0 = true →
      x.testBit 7 = true →
      3 ≤ wordState x →
      wordState x ≠ 6 →
      Acts (.fullCopy t) s fun u =>
        u.core.copied = true)

/-- For every state that holds no whole-device reset: a start that the matrix lets run waits for the next boundary, one it defers waits with source 230, one it interlocks is counted as refused; a deferred start is judged again and begins, or, for a rotation whose visits are due, is deferred again, and one that ROT_CFG no longer permits is given up; a self-test pass counts in the standby's health word and a fault clears its test bit with source 228; the heartbeat goes out once per boundary in abutment mode and else once per second into the monitoring queue. (R301, R407, R417, R419, R420, R421, R422) -/
def Obligations.MaintenanceCompletes : Prop :=
  ∀ (s : State) (t : Tm), s.pwr.por = false →
    -- The matrix lets it run.
    (∀ (act : Fin 8) (unit : Nat) (byHost : Bool),
      s.leased = true →
      unit < maintUnits act →
      (act.val = 7 → s.laneMayRetrain unit = true) →
      (act.val = 1 → s.get P.ROT_STATUS_STATE unit ≠ 8) →
      (s.maintJudge act unit = .run ∨ s.maintJudge act unit = .suspend) →
      Acts (.maintStart t act unit byHost) s fun u =>
        u.core.soon = s.core.soon ++ [⟨act.val, unit, byHost, s.instant t, false, 0⟩]) ∧
    -- The matrix defers it.
    (∀ (act : Fin 8) (unit : Nat) (byHost : Bool),
      s.leased = true →
      unit < maintUnits act →
      (act.val = 7 → s.laneMayRetrain unit = true) →
      (act.val = 1 → s.get P.ROT_STATUS_STATE unit ≠ 8) →
      s.maintJudge act unit = .defer →
      Acts (.maintStart t act unit byHost) s fun u =>
        (u.core.wait.getLast?.map (fun a => (a.code, a.unit, a.byHost)) = some (act.val, unit, byHost)) ∧
        u.core.soon = s.core.soon ∧
        Raised 230 u) ∧
    -- The matrix interlocks it.
    (∀ (act : Fin 8) (unit : Nat) (byHost : Bool),
      s.leased = true →
      unit < maintUnits act →
      (act.val = 7 → s.laneMayRetrain unit = true) →
      (act.val = 1 → s.get P.ROT_STATUS_STATE unit ≠ 8) →
      s.maintJudge act unit = .interlock →
      Acts (.maintStart t act unit byHost) s fun u =>
        u.core = s.core ∧
        u.get P.MAINT_STATUS_REFUSED act = satTo P.MAINT_STATUS_REFUSED.width (s.get P.MAINT_STATUS_REFUSED act + 1)) ∧
    -- Any activity but a rotation.
    (∀ (act : Fin 8) (unit : Nat) (a : Act),
      (s.core.wait.find? (fun x => x.code == act.val && x.unit == unit) = some a) →
      s.leased = true →
      s.instant t ≤ s.time.last + 2 * ccSt →
      (s.maintJudge a.code a.unit = .run ∨ s.maintJudge a.code a.unit = .suspend) →
      a.code ≠ 1 →
      Acts (.maintDeferredStart t act unit) s fun u =>
        u = ((s.clock t).waitDrop a).maintGo a) ∧
    -- A calibration visit of an interpolator pair begins.
    (∀ (act : Fin 8) (unit : Nat) (a : Act),
      (s.core.wait.find? (fun x => x.code == act.val && x.unit == unit) = some a) →
      s.leased = true →
      s.instant t ≤ s.time.last + 2 * ccSt →
      s.maintJudge a.code a.unit = .run →
      act.val = 2 →
      Acts (.maintDeferredStart t act unit) s fun u =>
        (u.pair unit).visitAt = some (s.instant t) ∧
        u.maintRuns 2 unit = true) ∧
    -- A rotation at a second boundary.
    (∀ (act : Fin 8) (unit : Nat) (a : Act),
      (s.core.wait.find? (fun x => x.code == act.val && x.unit == unit) = some a) →
      s.leased = true →
      s.instant t ≤ s.time.last + 2 * ccSt →
      s.maintJudge a.code a.unit = .run →
      act.val = 1 →
      s.time.last % secSt = 0 →
      Acts (.maintDeferredStart t act unit) s fun u =>
        (u = if a.byHost = false ∧ (s.clock t).rotPermits unit = false then (s.clock t).waitDrop a else if (s.clock t).rotMay a then (s.clock t).rotBegin unit else (s.clock t).maintDefer 1 unit a.byHost)) ∧
    -- No fault.
    (∀ (fault : BitVec 8) (i w : Nat),
      s.leased = true →
      fault = 0 →
      ((s.core.run.find? fun a => a.code == 6).all (fun a => decide (a.since + s.get P.STBY_TEST_PASS_S 0 * secSt ≤ s.instant t)) = true) →
      2 - s.core.holder = i →
      (s.pierOf i).word = w →
      Acts (.selfTestPassEnd t fault) s fun u =>
        (u.pierOf i).word = w % 2 ^ 16 + (w / 2 ^ 16 + 1) % 256 * 2 ^ 16 ∧
        u.maintRuns 6 0 = s.flag P.STBY_TEST_ENABLE 0) ∧
    -- A fault.
    (∀ (fault : BitVec 8) (i w : Nat),
      s.leased = true →
      fault ≠ 0 →
      2 - s.core.holder = i →
      (s.pierOf i).word = w →
      Acts (.selfTestPassEnd t fault) s fun u =>
        ((u.pierOf i).word = w % 2 ^ 24 - (if w.testBit 3 then 8 else 0) + fault.toNat * 2 ^ 24) ∧
        u.maintRuns 6 0 = false ∧
        Raised 228 u) ∧
    -- Abutment mode.
    (∀ (temp : Int),
      s.abut = true →
      s.core.lastBeat ≠ some s.time.last →
      s.upPort < 4 →
      s.portUp s.upPort = true →
      Acts (.heartbeatEmit t temp) s fun u =>
        Emits (.record 4 ((s.clock t).heartbeat temp)) s u ∧
        u.core.lastBeat = some s.time.last) ∧
    -- A pier holds the lease.
    (∀ (temp : Int),
      s.abut = false →
      ((match s.core.lastBeat with | some b => decide (b / secSt < s.time.last / secSt) || decide (s.time.last < b) | none => true) = true) →
      Acts (.heartbeatEmit t temp) s fun u =>
        u.ctx.mon.getLast?.map (·.data) = some ((s.clock t).heartbeat temp) ∧
        u.core.lastBeat = some s.time.last)

/-- For every state that holds no whole-device reset: a good frame in sequence advances the expected SEQ, a whole record for this device is delivered and its credit returned; a bad frame or a gap asks once for a replay; returned credit and acknowledgements are taken, and a NAK or a timeout replays every unacknowledged frame with source 37, while the ninth attempt takes the port down with source 32; a lost clock parent leaves holdover with source 40; a hop delay waits for its boundary. (R256, R257, R258, R259, R262, R271, R277, R282, R295, R297) -/
def Obligations.FabricLinkCompletes : Prop :=
  ∀ (s : State) (t : Tm), s.pwr.por = false →
    -- A record for a context of this device.
    (∀ (port : Port) (frame : Frame) (c : Nat) (r : Rec),
      s.portCarries port = true →
      s.striped port = false →
      frameGood frame = true →
      frame.seq = (s.fp port).rxSeq →
      ((s.mem.flaws.any fun f => f.mem == 14) = false) →
      s.dataEntry frame.dest = 4 →
      (frame.kind = 0 ∧ frame.first = true ∧ frame.last = true ∧ frame.stream = 3 ∧ frame.vc = 3) →
      (frame.payload.headD 0).toNat % 1024 = c →
      parseRec ((frame.payload.drop 1).flatMap wordBytes) = some r →
      (s.ctxOf c).state ≠ 0 →
      Acts (.recordFrame t port frame) s fun u =>
        (u.ctxOf c).inbound = (s.ctxOf c).inbound ++ [(frame.src, r)] ∧
        (u.fp port).rxSeq = ((s.fp port).rxSeq + 1) % 256 ∧
        (u.fp port).gap = false ∧
        Emits (.credit port ⟨3, frameUnits frame.payload.length, (s.fp port).rxSeq % 256, false, true⟩) s u) ∧
    -- A frame whose check fails.
    (∀ (port : Port) (frame : Frame),
      s.portCarries port = true →
      s.striped port = false →
      frameGood frame = false →
      (s.fp port).gap = false →
      Acts (.recordFrame t port frame) s fun u =>
        (u.fp port).gap = true ∧
        (u.fp port).rxSeq = (s.fp port).rxSeq ∧
        u.get P.FAB_PORT_ERR_CRC port = satTo P.FAB_PORT_ERR_CRC.width (s.get P.FAB_PORT_ERR_CRC port + 1) ∧
        Emits (.credit port ⟨0, 0, ((s.fp port).rxSeq + 255) % 256, true, true⟩) s u) ∧
    -- Credit and acknowledgement, with nothing waiting.
    (∀ (port : Port) (credit : Credit),
      s.portCarries port = true →
      credit.nak = false →
      (s.fp port).waiting = 0 →
      (s.get P.SEAM_CFG_UP_PORT 0 ≠ port.val ∨ s.upNext = none) →
      Acts (.creditBlock t port credit) s fun u =>
        Tbl.get 0 (u.fp port).used credit.vc = Tbl.get 0 (s.fp port).used credit.vc - credit.count ∧
        ((u.fp port).unacked = if credit.ackValid then ackDrop credit.ack (s.fp port).unacked else (s.fp port).unacked)) ∧
    -- A NAK.
    (∀ (port : Port) (credit : Credit),
      s.portCarries port = true →
      credit.nak = true →
      credit.ackValid = false →
      (s.fp port).unacked ≠ [] →
      (s.fp port).tries < 8 →
      Acts (.creditBlock t port credit) s fun u =>
        (∀ x ∈ (s.fp port).unacked, Emits (.data port x.1) s u) ∧
        Raised 37 u) ∧
    (∀ (port : Port) (f : Frame) (a : Tm) (rest : List (Frame × Tm)),
      (s.fp port).unacked = (f, a) :: rest →
      a + 2 * usSt ≤ s.instant t →
      (s.fp port).tries < 8 →
      Acts (.replayTimeout t port) s fun u =>
        (∀ x ∈ (s.fp port).unacked, Emits (.data port x.1) s u) ∧
        u.get P.FAB_PORT_ERR_REPLAYS port = satTo P.FAB_PORT_ERR_REPLAYS.width (s.get P.FAB_PORT_ERR_REPLAYS port + 1) ∧
        Raised 37 u) ∧
    -- The ninth attempt.
    (∀ (port : Port) (f : Frame) (a : Tm) (rest : List (Frame × Tm)),
      (s.fp port).unacked = (f, a) :: rest →
      a + 2 * usSt ≤ s.instant t →
      8 ≤ (s.fp port).tries →
      (s.fp port).restriped = false →
      Acts (.replayTimeout t port) s fun u =>
        u.portState port = 1 ∧
        (u.fp port).unacked = [] ∧
        Raised 32 u) ∧
    (s.get P.FAB_CLOCK_SOURCE 0 ≠ 2 →
      Acts (.clockParentLost t) s fun u =>
        u.get P.FAB_CLOCK_SOURCE 0 = 2 ∧
        Raised 40 u) ∧
    (∀ (port : Port) (delay : Nat),
      s.portUp port = true →
      Acts (.hopDelayMeasured t port delay) s fun u =>
        (u.fp port).hop = some delay)

/-- For every state that holds no whole-device reset: a claim starts its window and goes out on every port that carries traffic; a lower claim withdraws this device's own with source 33, and a claim with none seen is forwarded; a window without a lower identity makes the claimant root; a probe is answered; the root takes a reply that extends the tree, and the last reply ends discovery with source 34; installs are kept and acknowledged, and the last acknowledgement names the boundary; a reported link is probed or cut; ROOT_RELEASE gives up the root with source 33 and changes nothing elsewhere; a part of a plan is kept, and a last part of a plan that can be used makes it the plan; TOPOLOGY_READ answers the entries asked for. (R115, R264, R265, R266, R267, R268, R269, R270, R275, R278, R285, R398) -/
def Obligations.FabricRootCompletes : Prop :=
  ∀ (s : State) (t : Tm), s.pwr.por = false →
    (∀ (mb : Mb) (cmd : Cmd),
      Served s t mb cmd 0 .p →
      s.backgrounds (s.sentBy t mb cmd) < 16 →
      s.rootId = 0 →
      s.fab.claimUntil = none →
      64 ≤ s.get P.DDR_MAP_FW_MIB 0 →
      (s.clock t).lowClaim = none →
      Acts (.rootClaim t mb cmd) s fun u =>
        u.fab.claimUntil = some (s.instant t + s.claimWindow) ∧
        (∀ p ∈ s.claimPorts, Emits (.claim p s.ownId) s u) ∧
        GoesOn cmd (s.sentBy t mb cmd) u) ∧
    -- No claim seen.
    (∀ (port : Port) (identity : W64),
      s.leased = true →
      s.portCarries port = true →
      (s.clock t).lowClaim = none →
      s.rootId = 0 →
      Acts (.claimFrame t port identity) s fun u =>
        u.fab.low = some (identity, s.instant t) ∧
        (∀ p ∈ s.claimPorts, p ≠ port.val → Emits (.claim p identity) s u)) ∧
    -- A lower identity than this claimant's.
    (∀ (port : Port) (identity low : W64),
      s.leased = true →
      s.portCarries port = true →
      (s.clock t).lowClaim = some low →
      identity.toNat < low.toNat →
      s.fab.claimUntil.isSome = true →
      identity.toNat < s.ownId.toNat →
      Acts (.claimFrame t port identity) s fun u =>
        u.fab.claimUntil = none ∧
        u.rootId = identity ∧
        Raised 33 u) ∧
    (∀ (w : Tm),
      s.fab.claimUntil = some w →
      w ≤ s.instant t →
      s.leased = true →
      Acts (.claimWindowExpire t) s fun u =>
        u.isRoot = true ∧
        u.rootId = s.ownId ∧
        u.fab.claimUntil = none ∧
        Raised 33 u) ∧
    (∀ (port : Port) (src : Nat) (route : W64),
      (s.leased || s.abut) = true →
      s.portCarries port = true →
      (¬(src = s.origin ∧ s.isRoot = true)) →
      Acts (.discoveryProbe t port src route) s fun u =>
        (Emits (.probeReply ⟨s.ownId, Regs.word s.regs P.FAB_PORT_PEER_ID_ID port, Fin.ofNat 4 (bitsOf route.toNat (5 + 2 * (route.toNat % 32 - 1) + 1) (5 + 2 * (route.toNat % 32 - 1))),
          s.rootId, s.origin, s.abut, (upTo 4).map fun p => (Regs.word s.regs P.FAB_PORT_PEER_ID_ID p, s.portCarries p)⟩) s u)) ∧
    -- An unknown device, with other probes outstanding.
    (∀ (reply : ProbeReply) (x : Node),
      s.isRoot = true →
      s.leased = true →
      nodeOf s.fab.nodes reply.reachedFrom = some x →
      s.fab.probes.contains (x.route ++ [reply.port.val]) = true →
      s.fab.probes.erase (x.route ++ [reply.port.val]) ≠ [] →
      (reply.root = 0 ∨ reply.root = s.ownId) →
      (s.fab.nodes.any (·.id == reply.identity)) = false →
      Acts (.discoveryReply t reply) s fun u =>
        ((nodeOf u.fab.nodes reply.identity).map (fun y => (y.level, y.route)) = some (x.level + 1, x.route ++ [reply.port.val])) ∧
        (nodeOf u.fab.nodes reply.identity).map (·.abut) = some reply.abutment) ∧
    -- The last reply, of a device that has another root.
    (∀ (reply : ProbeReply) (x : Node),
      s.isRoot = true →
      s.leased = true →
      nodeOf s.fab.nodes reply.reachedFrom = some x →
      s.fab.probes = [x.route ++ [reply.port.val]] →
      s.fab.toProbe = [] →
      s.fab.discovering = true →
      reply.root ≠ 0 →
      reply.root ≠ s.ownId →
      Acts (.discoveryReply t reply) s fun u =>
        u.fab.discovering = false ∧
        u.fab.probes = [] ∧
        Raised 34 u) ∧
    (∀ (install : Install),
      s.leased = true →
      install.boundary = 0 →
      Acts (.routeInstall t install) s fun u =>
        u.fab.mine = some install ∧
        Emits (.control 0xFFFF [3, s.origin]) s u) ∧
    -- The boundary is named.
    (∀ (install : Install),
      s.leased = true →
      install.boundary ≠ 0 →
      s.instant t + cutoffLen < install.boundary →
      Acts (.routeInstall t install) s fun u =>
        u.fab.mine = some install ∧
        u.get P.FAB_ROUTE_PENDING_TIME_NS 0 = tbNs install.boundary % 2 ^ P.FAB_ROUTE_PENDING_TIME_NS.width) ∧
    -- The last acknowledgement.
    (∀ (identity : W64) (i : Install),
      s.isRoot = true →
      s.leased = true →
      s.fab.installs.any (·.1 == identity) = true →
      s.fab.mine = some i →
      s.fab.named = none →
      ((s.fab.installs.any fun e => s.fab.nodes.any fun x => x.id == e.1 && x.id != identity && !x.acked && !x.stranded) = false) →
      Acts (.routeInstallAck t identity) s fun u =>
        u.fab.named = some (ceilDiv (s.instant t + 2 * s.spanLen) s.spanLen * s.spanLen) ∧
        u.fab.mine = some { i with boundary := ceilDiv (s.instant t + 2 * s.spanLen) s.spanLen * s.spanLen }) ∧
    -- Another acknowledgement is still missing.
    (∀ (identity : W64) (x : Node),
      s.isRoot = true →
      s.leased = true →
      s.fab.installs.any (·.1 == identity) = true →
      nodeOf s.fab.nodes identity = some x →
      ((s.fab.installs.any fun e => s.fab.nodes.any fun y => y.id == e.1 && y.id != identity && !y.acked && !y.stranded) = true) →
      Acts (.routeInstallAck t identity) s fun u =>
        (nodeOf u.fab.nodes identity).map (·.acked) = some true ∧
        u.fab.named = s.fab.named) ∧
    -- A link came up.
    (∀ (identity : W64) (port : Port) (up : Bool) (x : Node),
      s.isRoot = true →
      s.leased = true →
      up = true →
      nodeOf s.fab.nodes identity = some x →
      s.fab.mine = none →
      s.fab.toProbe = [] →
      s.fab.probes.length < 64 →
      Acts (.portChangeReport t identity port up) s fun u =>
        Emits (.probe (probeWord (x.route ++ [port.val])) (x.route.length + 1)) s u ∧
        u.fab.probes = s.fab.probes ++ [x.route ++ [port.val]]) ∧
    -- A link was lost while a route set is in flight.
    (∀ (identity : W64) (port : Port) (up : Bool) (x : Node),
      s.isRoot = true →
      up = false →
      nodeOf s.fab.nodes identity = some x →
      s.fab.mine.isSome = true →
      s.fab.discovering = false →
      Acts (.portChangeReport t identity port up) s fun u =>
        (nodeOf u.fab.nodes identity).map (·.links) = some (x.links.filter (·.1 != port.val)) ∧
        u.fab.again = true) ∧
    (∀ (mb : Mb) (cmd : Cmd),
      Served s t mb cmd 0 .p →
      s.isRoot = true →
      Acts (.rootRelease t mb cmd) s fun u =>
        u.isRoot = false ∧
        u.rootId = 0 ∧
        Raised 33 u ∧
        Owed cmd (s.sentBy t mb cmd) 0 u) ∧
    -- Only the root releases.
    (∀ (mb : Mb) (cmd : Cmd),
      Served s t mb cmd 0 .p →
      s.isRoot = false →
      Acts (.rootRelease t mb cmd) s fun u =>
        u.fab = s.fab ∧
        u.mbox.wait = s.mbox.wait) ∧
    -- Part of a plan.
    (∀ (mb : Mb) (cmd : Cmd) (n : Nat),
      field cmd.payload 0 2 = n →
      Served s t mb cmd (8 + 16 * min 253 n) .p →
      n ≤ 253 →
      (field cmd.payload 2 1).testBit 1 = false →
      Acts (.addrPlan t mb cmd) s fun u =>
        (u.fab.planNext = (if (field cmd.payload 2 1).testBit 0 then [] else s.fab.planNext) ++ planEntries cmd.payload n) ∧
        u.fab.plan = s.fab.plan) ∧
    -- The plan is complete and can be used.
    (∀ (mb : Mb) (cmd : Cmd) (n : Nat),
      field cmd.payload 0 2 = n →
      Served s t mb cmd (8 + 16 * min 253 n) .p →
      n ≤ 253 →
      (field cmd.payload 2 1).testBit 1 = true →
      (s.planOk ((if (field cmd.payload 2 1).testBit 0 then [] else s.fab.planNext) ++ planEntries cmd.payload n) = true) →
      Acts (.addrPlan t mb cmd) s fun u =>
        (u.fab.plan = (if (field cmd.payload 2 1).testBit 0 then [] else s.fab.planNext) ++ planEntries cmd.payload n) ∧
        Owed cmd (s.sentBy t mb cmd) (BitVec.ofNat 64 u.fab.plan.length) u) ∧
    (∀ (mb : Mb) (cmd : Cmd),
      Served s t mb cmd 8 .r →
      s.isRoot = true →
      Acts (.topologyRead t mb cmd) s fun u =>
        u = ((s.met t mb cmd).bump P.MB_STATS_COMMANDS (s.sentBy t mb cmd).mb).post
          (cmd.post (s.sentBy t mb cmd) stOk 0 (((s.fab.nodes.drop (field cmd.payload 0 4)).take (field cmd.payload 4 4)).flatMap s.topologyEntry) true))

/-- For every state that holds no whole-device reset: CDR lock and block lock take a lane on to LOCK and DESKEW; two ALIGN blocks take it to EXCHANGE, and a new mask tells an active port's receiver; the last HELLO part of the exchange brings the port up at the widest set of good lanes with source 32; a lane without lock returns to LOCK and counts the loss, one that flaps is held with source 51, and a lost active lane re-stripes its port with source 48 or takes it down; a lane that trains for 100 ms starts again. (R253, R258, R291, R292, R293, R294, R295, R298, R300, R301) -/
def Obligations.LaneTrainingCompletes : Prop :=
  ∀ (s : State) (t : Tm), s.pwr.por = false →
    (∀ (lane : Lane),
      s.laneState lane = 1 →
      Acts (.laneCdrLock t lane) s fun u =>
        u.laneState lane = 2 ∧
        u.flag P.LANE_STATUS_CDR_LOCK lane = true) ∧
    (∀ (lane : Lane),
      s.flag P.LANE_STATUS_CDR_LOCK lane = true →
      s.laneState lane = 2 →
      Acts (.laneBlockLock t lane) s fun u =>
        u.laneState lane = 3 ∧
        u.flag P.LANE_STATUS_BLOCK_LOCK lane = true) ∧
    -- The first ALIGN block.
    (∀ (lane : Lane) (mask : BitVec 4) (index : BitVec 2),
      index.toNat = lane.val % 4 →
      s.laneState lane = 3 →
      (s.laneOf lane).aligns = 0 →
      Acts (.alignBlock t lane mask index) s fun u =>
        (u.laneOf lane).aligns = 1 ∧
        u.laneState lane = 3) ∧
    -- The second ALIGN block.
    (∀ (lane : Lane) (mask : BitVec 4) (index : BitVec 2),
      index.toNat = lane.val % 4 →
      s.laneState lane = 3 →
      (s.laneOf lane).aligns ≠ 0 →
      (s.laneOf lane).got ≠ 31 →
      Acts (.alignBlock t lane mask index) s fun u =>
        u.laneState lane = 4 ∧
        (u.laneOf lane).aligns = 2 ∧
        (u.laneOf lane).alignAt = some (s.instant t)) ∧
    -- A new mask on an active port.
    (∀ (lane : Lane) (mask : BitVec 4) (index : BitVec 2),
      index.toNat = lane.val % 4 →
      s.laneState lane = 5 →
      s.portUp (lane / 4) = true →
      (s.portLane (lane / 4)).stripeAt = none →
      mask ≠ 0 →
      Acts (.alignBlock t lane mask index) s fun u =>
        u.get P.LANE_PORT_RX_MASK (lane / 4) = mask.toNat) ∧
    -- The exchange completes.
    (∀ (lane : Lane) (part : Fin 5) (locked : BitVec 4) (value : BitVec 32) (m : Nat),
      s.laneState lane = 4 →
      (s.laneOf lane).got ||| 2 ^ part.val = 31 →
      locked.getLsbD (lane % 4) = true →
      s.portUp (lane / 4) = false →
      (laneSet (laneMask (lane / 4) fun l => s.flag P.LANE_STATUS_BLOCK_LOCK l && locked.getLsbD (l % 4) && (decide (4 ≤ s.laneState l) && decide (s.laneState l ≤ 6))) = m) →
      Acts (.hello t lane part locked value) s fun u =>
        u.get P.LANE_PORT_TX_MASK (lane / 4) = m ∧
        u.get P.FAB_PORT_STATUS_WIDTH (lane / 4) = maskCount m ∧
        Raised 32 u) ∧
    -- A part on the way.
    (∀ (lane : Lane) (part : Fin 5) (locked : BitVec 4) (value : BitVec 32),
      s.laneState lane = 3 →
      Acts (.hello t lane part locked value) s fun u =>
        Tbl.get 0 (u.laneOf lane).parts part = value.toNat ∧
        (u.laneOf lane).got = (s.laneOf lane).got ||| 2 ^ part.val ∧
        (u.laneOf lane).peer = locked.getLsbD (lane % 4)) ∧
    -- A lane in STANDBY that does not flap; where the phase loop has lost lock, CDR_LOCK says so.
    (∀ (lane : Lane) (invalid : Nat) (cdr : Bool),
      s.laneState lane = 6 →
      (((s.laneOf lane).losses.filter fun x => decide (s.instant t < x + 60 * secSt)).length + 1 ≤ s.get P.LANE_FLAP_MAX_LOSSES 0) →
      Acts (.laneLockLoss t lane ⟨invalid, cdr⟩) s fun u =>
        u.laneState lane = 2 ∧
        u.flag P.LANE_STATUS_BLOCK_LOCK lane = false ∧
        u.get P.LANE_STATUS_LOSSES lane = satTo P.LANE_STATUS_LOSSES.width (s.get P.LANE_STATUS_LOSSES lane + 1) ∧
        u.get P.LANE_ERR_SYNC_ERR lane = satTo P.LANE_ERR_SYNC_ERR.width (s.get P.LANE_ERR_SYNC_ERR lane + invalid) ∧
        u.flag P.LANE_STATUS_CDR_LOCK lane = (s.flag P.LANE_STATUS_CDR_LOCK lane && !cdr)) ∧
    -- A lane that flaps.
    (∀ (lane : Lane) (invalid : Nat) (cdr : Bool),
      s.laneState lane = 6 →
      (s.get P.LANE_FLAP_MAX_LOSSES 0 < ((s.laneOf lane).losses.filter fun x => decide (s.instant t < x + 60 * secSt)).length + 1) →
      Acts (.laneLockLoss t lane ⟨invalid, cdr⟩) s fun u =>
        u.laneState lane = 0 ∧
        u.flag P.LANE_STATUS_FLAPPED lane = true ∧
        Raised 51 u) ∧
    -- An active lane among other good ones.
    (∀ (lane : Lane) (m : Nat),
      s.laneState lane = 5 →
      (laneSet (laneMask (lane / 4) fun l => decide (l ≠ lane.val) && (decide (5 ≤ s.laneState l) && s.laneGood l)) = m) →
      m ≠ 0 →
      Acts (.laneNoTransitions t lane) s fun u =>
        u.get P.LANE_PORT_TX_MASK (lane / 4) = m ∧
        (u.portLane (lane / 4)).sent = m ∧
        u.get P.LANE_ERR_SYNC_ERR lane = satTo P.LANE_ERR_SYNC_ERR.width (s.get P.LANE_ERR_SYNC_ERR lane + 16) ∧
        Raised 48 u) ∧
    -- The last active lane.
    (∀ (lane : Lane),
      s.laneState lane = 5 →
      (laneSet (laneMask (lane / 4) fun l => decide (l ≠ lane.val) && (decide (5 ≤ s.laneState l) && s.laneGood l)) = 0) →
      Acts (.laneNoTransitions t lane) s fun u =>
        u.portState (lane / 4) = 1 ∧
        Raised 32 u) ∧
    (∀ (lane : Lane) (a : Tm),
      (s.laneOf lane).retrainAt = some a →
      a + 100 * msSt ≤ s.instant t →
      Acts (.laneRetrainTimeout t lane) s fun u =>
        u.laneState lane = 1 ∧
        u.get P.LANE_ERR_RETRAINS lane = satTo P.LANE_ERR_RETRAINS.width (s.get P.LANE_ERR_RETRAINS lane + 1) ∧
        (u.laneOf lane).retrainAt = some (s.instant t))

/-- For every state that holds no whole-device reset: a re-stripe ends when both sides hold the same set, is answered where they differ or the set in force comes again, takes the port down without a good lane or after 2 µs, and is sent again every 128 ns; lanes that the peer has locked become ready and held, and a boundary's rejoin widens the port with source 49; near loopbacks enter TEST at once, the far one asks the peer, which answers and loops or refuses, and an unanswered request ends after 1 ms; one PRBS error is injected, and the checker takes bits in order, locks after 64 correct ones with source 50, counts bits and errors, and loses lock at 512 errors of the last 1,024. (R277, R292, R295, R296, R297, R298, R302, R303) -/
def Obligations.LaneSetCompletes : Prop :=
  ∀ (s : State) (t : Tm), s.pwr.por = false →
    -- Both sides hold the same set.
    (∀ (port : Port) (mask locked : BitVec 4) (m : Nat),
      s.striping port = true →
      laneSet ((s.peerLocks port locked.toNat).goodMask port &&& locked.toNat) = m →
      m ≠ 0 →
      mask.toNat = m →
      (¬((s.portLane port).stripeAt = none ∧ s.get P.LANE_PORT_TX_MASK port = m ∧ s.get P.LANE_PORT_RX_MASK port = m)) →
      Acts (.restripe t port mask locked) s fun u =>
        (u.portLane port).stripeAt = none ∧
        u.get P.LANE_PORT_RX_MASK port = m ∧
        u.get P.FAB_PORT_STATUS_WIDTH port = maskCount m ∧
        (u.fp port).restriped = true) ∧
    -- The set in force comes again to the end that did not begin the re-stripe: it answers again.
    (∀ (port : Port) (mask locked : BitVec 4) (m : Nat),
      s.striping port = true →
      laneSet ((s.peerLocks port locked.toNat).goodMask port &&& locked.toNat) = m →
      m ≠ 0 →
      mask.toNat = m →
      ((s.portLane port).stripeAt = none ∧ s.get P.LANE_PORT_TX_MASK port = m ∧ s.get P.LANE_PORT_RX_MASK port = m) →
      (s.portLane port).lead = false →
      Acts (.restripe t port mask locked) s fun u =>
        Emits (.link port (s.lockedMask port) (.restripe mask (BitVec.ofNat 4 (s.lockedMask port)))) s u ∧
        (u.portLane port).stripeAt = none ∧
        u.regs = s.regs) ∧
    -- The sets differ.
    (∀ (port : Port) (mask locked : BitVec 4) (m : Nat),
      s.striping port = true →
      laneSet ((s.peerLocks port locked.toNat).goodMask port &&& locked.toNat) = m →
      m ≠ 0 →
      mask.toNat ≠ m →
      (s.portLane port).stripeAt = none →
      Acts (.restripe t port mask locked) s fun u =>
        (u.portLane port).stripeAt = some (s.instant t) ∧
        (u.portLane port).sent = m ∧
        u.get P.LANE_PORT_TX_MASK port = m ∧
        Raised 48 u) ∧
    -- No good lane is left.
    (∀ (port : Port) (mask locked : BitVec 4),
      s.striping port = true →
      laneSet ((s.peerLocks port locked.toNat).goodMask port &&& locked.toNat) = 0 →
      Acts (.restripe t port mask locked) s fun u =>
        u.portState port = 1 ∧
        Raised 32 u) ∧
    (∀ (port : Port) (a : Tm),
      (s.portLane port).stripeAt = some a →
      (s.portLane port).sentAt + 128 * nsSt ≤ s.instant t →
      s.instant t < a + 2 * usSt →
      Acts (.restripeResend t port) s fun u =>
        Emits (.link port (s.lockedMask port) (.restripe (BitVec.ofNat 4 (s.portLane port).sent) (BitVec.ofNat 4 (s.lockedMask port)))) s u ∧
        (u.portLane port).sentAt = s.instant t) ∧
    (∀ (port : Port) (a : Tm),
      (s.portLane port).stripeAt = some a →
      a + 2 * usSt ≤ s.instant t →
      Acts (.restripeTimeout t port) s fun u =>
        u.portState port = 1 ∧
        Raised 32 u) ∧
    (∀ (port : Port) (locked : BitVec 4) (i : Fin 4),
      locked.getLsbD i = true →
      s.laneState (4 * port.val + i.val) = 6 →
      s.flag P.LANE_STATUS_BLOCK_LOCK (4 * port.val + i.val) = true →
      Acts (.laneReady t port locked) s fun u =>
        (u.laneOf (4 * port.val + i.val)).ready = true ∧
        (u.laneOf (4 * port.val + i.val)).goodFrom = some ((s.laneOf (4 * port.val + i.val)).goodFrom.getD (s.instant t))) ∧
    (∀ (lane : Lane) (a : Tm),
      (s.laneOf lane).goodFrom = some a →
      s.laneState lane = 6 →
      s.laneGood lane = true →
      a + s.get P.LANE_PORT_HOLD_MS (lane / 4) * msSt ≤ s.instant t →
      Acts (.rejoinHoldExpire t lane) s fun u =>
        (u.laneOf lane).held = true) ∧
    (∀ (port : Port),
      (s.portLane port).widen.isSome = true →
      s.portUp port = true →
      Acts (.laneRejoin t port) s fun u =>
        u.get P.LANE_PORT_TX_MASK port = s.rejoinSet port ∧
        u.get P.FAB_PORT_STATUS_WIDTH port = maskCount (s.rejoinSet port) ∧
        (u.portLane port).widen = none ∧
        Raised 49 u) ∧
    -- A loopback at this end.
    (∀ (lane : Lane) (value : BitVec 3),
      (value.toNat % 4 = 1 ∨ value.toNat % 4 = 2) →
      s.laneState lane ≠ 5 →
      s.get P.LANE_LOOP_MODE lane ≠ value.toNat % 4 →
      Acts (.laneLoopWrite t lane value) s fun u =>
        u.get P.LANE_LOOP_MODE lane = value.toNat % 4 ∧
        u.laneState lane = 7 ∧
        u.get P.LANE_LOOP_FAR_ALLOW lane = value.toNat / 4) ∧
    -- The far end's loopback.
    (∀ (lane : Lane) (value : BitVec 3),
      value.toNat % 4 = 3 →
      s.laneState lane ≠ 5 →
      s.get P.LANE_LOOP_MODE lane ≠ 3 →
      Acts (.laneLoopWrite t lane value) s fun u =>
        (u.laneOf lane).far = some (s.instant t) ∧
        Emits (.link (lane / 4) (s.lockedMask (lane / 4)) (.loopReq (BitVec.ofNat 4 (2 ^ (lane.val % 4))) true)) s u) ∧
    -- A lane that carries traffic refuses.
    (∀ (lane : Lane) (value : BitVec 3),
      value.toNat % 4 ≠ 0 →
      s.laneState lane = 5 →
      Acts (.laneLoopWrite t lane value) s fun u =>
        u = s.clock t) ∧
    -- The peer's lanes loop back.
    (∀ (port : Port) (mask : BitVec 4) (start : Bool) (i : Fin 4),
      start = true →
      (∀ j : Fin 4, mask.getLsbD j = true → s.flag P.LANE_LOOP_FAR_ALLOW (4 * port.val + j.val) = true ∧ s.laneState (4 * port.val + j.val) ≠ 5) →
      mask.getLsbD i = true →
      Acts (.loopReq t port mask start) s fun u =>
        u.laneState (4 * port.val + i.val) = 7 ∧
        (u.laneOf (4 * port.val + i.val)).looped = true ∧
        Emits (.link port (s.lockedMask port) (.loopAck mask true)) s u) ∧
    -- It is not allowed.
    (∀ (port : Port) (mask : BitVec 4) (start : Bool) (i : Fin 4),
      start = true →
      mask.getLsbD i = true →
      (s.flag P.LANE_LOOP_FAR_ALLOW (4 * port.val + i.val) = false ∨ s.laneState (4 * port.val + i.val) = 5) →
      Acts (.loopReq t port mask start) s fun u =>
        u.lane = s.lane ∧
        Emits (.link port (s.lockedMask port) (.loopAck mask false)) s u) ∧
    -- It ends.
    (∀ (port : Port) (mask : BitVec 4) (start : Bool) (i : Fin 4),
      start = false →
      mask.getLsbD i = true →
      Acts (.loopReq t port mask start) s fun u =>
        (u.laneOf (4 * port.val + i.val)).looped = false ∧
        u.laneState (4 * port.val + i.val) ≠ 7) ∧
    -- The peer accepts.
    (∀ (port : Port) (mask : BitVec 4) (accepted : Bool) (i : Fin 4),
      accepted = true →
      mask.getLsbD i = true →
      (s.laneOf (4 * port.val + i.val)).far.isSome = true →
      Acts (.loopAck t port mask accepted) s fun u =>
        (u.laneOf (4 * port.val + i.val)).far = none ∧
        u.get P.LANE_LOOP_MODE (4 * port.val + i.val) = 3 ∧
        u.laneState (4 * port.val + i.val) = 7) ∧
    -- The peer refuses.
    (∀ (port : Port) (mask : BitVec 4) (accepted : Bool) (i : Fin 4),
      accepted = false →
      mask.getLsbD i = true →
      (s.laneOf (4 * port.val + i.val)).far.isSome = true →
      Acts (.loopAck t port mask accepted) s fun u =>
        (u.laneOf (4 * port.val + i.val)).far = none ∧
        u.get P.LANE_LOOP_MODE (4 * port.val + i.val) = s.get P.LANE_LOOP_MODE (4 * port.val + i.val)) ∧
    (∀ (lane : Lane) (a : Tm) (x : Wait),
      (s.laneOf lane).far = some a →
      a + msSt ≤ s.instant t →
      (s.mbox.wait.find? (fun y => y.background && farWait lane y) = some x) →
      Acts (.farLoopTimeout t lane) s fun u =>
        (u.laneOf lane).far = none ∧
        u.mbox.wait = s.mbox.wait.erase x ∧
        Tbl.get [] u.mbox.hist x.who.key = (⟨x.seq, stTimeout, 0⟩ :: Tbl.get [] s.mbox.hist x.who.key).take 64) ∧
    (∀ (port : Port),
      s.flag P.PRBS_CFG_GEN_EN port = true →
      Acts (.prbsInject t port) s fun u =>
        Emits (.prbsError port) s u) ∧
    -- The checker takes the bits one after the other.
    (∀ (port : Port) (received more : List Bool) (run : Nat),
      s.flag P.PRBS_CFG_CHK_EN port = true →
      Acts (.prbsCheckerLock t port received run more) s fun u =>
        (u = more.foldl (fun x b => x.prbsBit port b) ((received.foldl (fun x b => x.prbsBit port b) (s.clock t)).prbsRun port run))) ∧
    -- The 64th correct bit in a row locks it.
    (∀ (port : Port) (received : List Bool) (b : Bool),
      received = [b] →
      s.flag P.PRBS_CFG_CHK_EN port = true →
      s.flag P.PRBS_STATUS_CHK_LOCK port = false →
      (prbsTaps (s.get P.PRBS_CFG_POLY port)).1 ≤ (s.portLane port).prbs.past.length →
      b = prbsNext (s.get P.PRBS_CFG_POLY port) (s.portLane port).prbs.past →
      63 ≤ (s.portLane port).prbs.good →
      Acts (.prbsCheckerLock t port received 0 []) s fun u =>
        u.flag P.PRBS_STATUS_CHK_LOCK port = true ∧
        (u.get P.PRBS_BITS_BITS port = 0 ∧ u.get P.PRBS_ERRS_ERRORS port = 0) ∧
        Raised 50 u) ∧
    -- A bit under lock that leaves fewer than 512 errors in the last 1,024.
    (∀ (port : Port) (received : List Bool) (b : Bool),
      received = [b] →
      s.flag P.PRBS_CFG_CHK_EN port = true →
      s.flag P.PRBS_STATUS_CHK_LOCK port = true →
      ((xor b (prbsNext (s.get P.PRBS_CFG_POLY port) (s.portLane port).prbs.past) :: (s.portLane port).prbs.wrong).take 1024).count true < 512 →
      Acts (.prbsCheckerLock t port received 0 []) s fun u =>
        u.get P.PRBS_BITS_BITS port = satTo P.PRBS_BITS_BITS.width (s.get P.PRBS_BITS_BITS port + 1) ∧
        u.get P.PRBS_ERRS_ERRORS port = satTo P.PRBS_ERRS_ERRORS.width (s.get P.PRBS_ERRS_ERRORS port + b2n (xor b (prbsNext (s.get P.PRBS_CFG_POLY port) (s.portLane port).prbs.past))) ∧
        u.flag P.PRBS_STATUS_CHK_LOCK port = true) ∧
    -- The 512th error of the last 1,024 bits loses lock.
    (∀ (port : Port) (received : List Bool) (b : Bool),
      received = [b] →
      s.flag P.PRBS_CFG_CHK_EN port = true →
      s.flag P.PRBS_STATUS_CHK_LOCK port = true →
      512 ≤ ((xor b (prbsNext (s.get P.PRBS_CFG_POLY port) (s.portLane port).prbs.past) :: (s.portLane port).prbs.wrong).take 1024).count true →
      Acts (.prbsCheckerLock t port received 0 []) s fun u =>
        u.flag P.PRBS_STATUS_CHK_LOCK port = false ∧
        u.get P.PRBS_STATUS_LOCK_LOSSES port = satTo P.PRBS_STATUS_LOCK_LOSSES.width (s.get P.PRBS_STATUS_LOCK_LOSSES port + 1) ∧
        Raised 50 u)

/-- For every state that holds no whole-device reset: a good descriptor joins the queue in the background, and a full queue refuses it; the oldest job takes the lowest free mailbox engine; a job's end writes its output to the press buffer or wherever it goes, counts its bytes, frees its engine and sets its result, with source 216 or 217 for a failed check or no space; a context's job yields its container or a loss record; the press buffer is written and read. (R209, R237, R238, R239, R240, R241, R243, R246, R248, R250, R398) -/
def Obligations.PressCompletes : Prop :=
  ∀ (s : State) (t : Tm), s.pwr.por = false →
    (∀ (mb : Mb) (cmd : Cmd),
      Served s t mb cmd 64 .n →
      s.backgrounds (s.sentBy t mb cmd) < 16 →
      cmd.respAddr ≠ 0 →
      s.jobBad cmd.payload = false →
      s.get P.PRESS_CFG_MBOX_ENGINES 0 ≠ 0 →
      s.press.queue.length < 32 →
      Acts (.pressCompressJob t mb cmd) s fun u =>
        u.press.queue = s.press.queue ++ [Job.parse (s.sentBy t mb cmd) cmd.seq cmd.payload] ∧
        GoesOn cmd (s.sentBy t mb cmd) u) ∧
    -- The queue is full.
    (∀ (mb : Mb) (cmd : Cmd),
      Served s t mb cmd 64 .n →
      cmd.respAddr ≠ 0 →
      s.jobBad cmd.payload = false →
      s.get P.PRESS_CFG_MBOX_ENGINES 0 ≠ 0 →
      32 ≤ s.press.queue.length →
      Acts (.pressDecompressJob t mb cmd) s fun u =>
        u.press.queue = s.press.queue ∧
        u.get P.PRESS_QUEUE_REFUSED 0 = satTo P.PRESS_QUEUE_REFUSED.width (s.get P.PRESS_QUEUE_REFUSED 0 + 1)) ∧
    (∀ (mb : Mb) (cmd : Cmd),
      Served s t mb cmd 64 .n →
      s.backgrounds (s.sentBy t mb cmd) < 16 →
      cmd.respAddr ≠ 0 →
      s.jobBad cmd.payload = false →
      s.get P.PRESS_CFG_MBOX_ENGINES 0 ≠ 0 →
      s.press.queue.length < 32 →
      Acts (.pressDecompressJob t mb cmd) s fun u =>
        u.press.queue = s.press.queue ++ [Job.parse (s.sentBy t mb cmd) cmd.seq cmd.payload] ∧
        GoesOn cmd (s.sentBy t mb cmd) u) ∧
    (∀ (j : Job) (js : List Job) (e : Nat),
      s.press.queue = j :: js →
      s.mboxEngines.find? s.engineMay = some e →
      Acts (.pressJobStart t) s fun u =>
        u.press.queue = js ∧
        Tbl.get none u.press.run e = some j ∧
        (u.get P.PRESS_ENG_STATUS_STATE e = (if j.compress then 1 else 2))) ∧
    -- To the press buffer.
    (∀ (engine : Fin 6) (input : List Byte) (poisoned memError : Bool) (j : Job),
      Tbl.get none s.press.run engine = some j →
      JobDue (s.clock t) engine j input poisoned memError →
      j.dstKind = 2 →
      Acts (.pressJobComplete t engine input poisoned memError) s fun u =>
        (u.press.buf = writeBytes (fun _ => 0) s.press.buf j.dst ((s.clock t).jobEnd j input poisoned memError).out.flatten) ∧
        Tbl.get none u.press.run engine = none ∧
        u.get P.PRESS_ENG_STATUS_STATE engine = 0) ∧
    -- Its result, and what a failed check or a lack of space raises.
    (∀ (engine : Fin 6) (input : List Byte) (poisoned memError : Bool) (j : Job),
      Tbl.get none s.press.run engine = some j →
      JobDue (s.clock t) engine j input poisoned memError →
      Acts (.pressJobComplete t engine input poisoned memError) s fun u =>
        (u.mbox.wait = s.mbox.wait.map fun y => if y.background && (y.opcode == 0x0901 && y.who == j.who && y.seq == j.seq) then
          { y with background := false, status := ((s.clock t).jobEnd j input poisoned memError).status, result := BitVec.ofNat 64 (((s.clock t).jobEnd j input poisoned memError).out.map List.length).sum, response := ((s.clock t).jobEnd j input poisoned memError).bytes engine j.tag, commit := s.time.next } else y) ∧
        (((s.clock t).jobEnd j input poisoned memError).status = stCheckFail → Raised 216 u) ∧
        (((s.clock t).jobEnd j input poisoned memError).status = stNoSpace → Raised 217 u) ∧
        (j.notify = true → Raised 218 u)) ∧
    (∀ (ctx : Ctx) (failed : Bool) (l : Nat) (x : CtxUnit),
      (((upTo 6).findSome? fun k => ((s.flight k).find? fun y => y.ctx == ctx.val && y.job && !y.ready).map fun y => (k, y)) = some (l, x)) →
      failed = false →
      (s.ctxOf ctx).state = 1 →
      (((upTo 6).find? fun e => Tbl.get none s.press.ctxRun e == some ctx.val).any (fun e => !(s.clock t).engineDue e true x.input.length) = false) →
      Acts (.pressContextJobComplete t ctx failed) s fun u =>
        ((u.ctxOf ctx).source x.src).cseq = (((s.ctxOf ctx).source x.src).cseq + 1) % 2 ^ 32 ∧
        (((u.flight l).any fun y => y.ready && y.data == (s.container x).encode) = true)) ∧
    -- A failed check.
    (∀ (ctx : Ctx) (failed : Bool) (l : Nat) (x : CtxUnit),
      (((upTo 6).findSome? fun k => ((s.flight k).find? fun y => y.ctx == ctx.val && y.job && !y.ready).map fun y => (k, y)) = some (l, x)) →
      failed = true →
      (s.ctxOf ctx).state = 1 →
      Acts (.pressContextJobComplete t ctx failed) s fun u =>
        (((u.flight l).any fun y => y.ready && y.data == (s.lossRec 0x08 ctx x.starts.length x.key x.key.tb x.last.tb).encode) = true) ∧
        Raised 216 u) ∧
    (∀ (mb : Mb) (cmd : Cmd),
      Served s t mb cmd (max 8 cmd.length) .n →
      field cmd.payload 0 4 + ((cmd.payload.take cmd.length).drop 8).length ≤ pressBufSize →
      Acts (.pressBufWrite t mb cmd) s fun u =>
        (u.press.buf = writeBytes (fun _ => 0) s.press.buf (field cmd.payload 0 4) ((cmd.payload.take cmd.length).drop 8)) ∧
        Owed cmd (s.sentBy t mb cmd) 0 u) ∧
    -- Past the end of the buffer.
    (∀ (mb : Mb) (cmd : Cmd),
      Served s t mb cmd (max 8 cmd.length) .n →
      pressBufSize < field cmd.payload 0 4 + ((cmd.payload.take cmd.length).drop 8).length →
      Acts (.pressBufWrite t mb cmd) s fun u =>
        u.press = s.press ∧
        u.mbox.wait = s.mbox.wait) ∧
    (∀ (mb : Mb) (cmd : Cmd),
      Served s t mb cmd 8 .r →
      field cmd.payload 0 4 + field cmd.payload 4 4 ≤ pressBufSize →
      Acts (.pressBufRead t mb cmd) s fun u =>
        (u = ((s.met t mb cmd).bump P.MB_STATS_COMMANDS (s.sentBy t mb cmd).mb).post
          (cmd.post (s.sentBy t mb cmd) stOk 0 (readBytes (fun _ => 0) s.press.buf (field cmd.payload 0 4) (field cmd.payload 4 4)) true)))

/-- For every state that holds no whole-device reset: a passed training step leads to the next and the last to service; a step that fails twice takes the channel out with source 166; a due refresh is paid, or owed in panic, and repaid after it; panic begins, counted, with source 171 for the first one in a span, and ends; a scrub read, a corrected and an uncorrectable read are counted, the last with source 168 or 169; the sixteenth retraining step ends the pass with source 173 and a failed one loses service; alerts are counted with source 167; a fence is counted once every access before it has been issued; temperatures are stored, a module that becomes hot raises source 172, one above its critical temperature loses service, and the HOT bit of MR4 is shown. (R335, R336, R337, R338, R339, R342, R345, R347, R348, R349, R350, R352) -/
def Obligations.DdrServiceCompletes : Prop :=
  ∀ (s : State) (t : Tm), s.pwr.por = false →
    -- The SPD is read and supported.
    (∀ (ch : DdrCh) (passed : Bool) (spd : Spd),
      s.pwr.pll.getLsbD (2 + ch.val) = true →
      s.dcState ch < 2 →
      s.get P.DDR_CH_STATUS_LNK_STATE ch = 0 →
      passed = true →
      spdOk spd = true →
      Acts (.ddrTrainingStep t ch passed spd) s fun u =>
        u.get P.DDR_CH_STATUS_LNK_STATE ch = 1 ∧
        u.dcState ch = 1 ∧
        (u.dc ch).spd = some spd ∧
        u.get P.DDR_CH_STATUS_RANKS ch = spd.ranks % 2 ^ P.DDR_CH_STATUS_RANKS.width) ∧
    -- A step that leads to the next.
    (∀ (ch : DdrCh) (passed : Bool) (spd : Spd) (n : Nat),
      s.pwr.pll.getLsbD (2 + ch.val) = true →
      s.dcState ch < 2 →
      s.get P.DDR_CH_STATUS_LNK_STATE ch = n →
      (3 ≤ n ∧ n ≤ 6) →
      passed = true →
      Acts (.ddrTrainingStep t ch passed spd) s fun u =>
        u.get P.DDR_CH_STATUS_LNK_STATE ch = n + 1 ∧
        u.dcState ch = 1) ∧
    -- The last step.
    (∀ (ch : DdrCh) (passed : Bool) (spd : Spd),
      s.pwr.pll.getLsbD (2 + ch.val) = true →
      s.dcState ch < 2 →
      s.get P.DDR_CH_STATUS_LNK_STATE ch = 7 →
      passed = true →
      Acts (.ddrTrainingStep t ch passed spd) s fun u =>
        u.dcState ch = 2 ∧
        (u.dc ch).passAt = s.instant t) ∧
    -- A first failure.
    (∀ (ch : DdrCh) (passed : Bool) (spd : Spd) (n : Nat),
      s.pwr.pll.getLsbD (2 + ch.val) = true →
      s.dcState ch < 2 →
      s.get P.DDR_CH_STATUS_LNK_STATE ch = n →
      1 ≤ n →
      passed = false →
      (s.dc ch).fast = false →
      (s.dc ch).failed = false →
      Acts (.ddrTrainingStep t ch passed spd) s fun u =>
        (u.dc ch).failed = true ∧
        u.get P.DDR_CH_STATUS_LNK_STATE ch = n) ∧
    -- A second failure.
    (∀ (ch : DdrCh) (passed : Bool) (spd : Spd) (n : Nat),
      s.pwr.pll.getLsbD (2 + ch.val) = true →
      s.dcState ch < 2 →
      s.get P.DDR_CH_STATUS_LNK_STATE ch = n →
      1 ≤ n →
      passed = false →
      (s.dc ch).fast = false →
      (s.dc ch).failed = true →
      Acts (.ddrTrainingStep t ch passed spd) s fun u =>
        u.dcState ch = 3 ∧
        Raised 166 u) ∧
    -- Outside panic.
    (∀ (ch : DdrCh),
      s.dcState ch = 2 →
      (s.dc ch).refAt ≤ s.instant t →
      s.flag P.DDR_CH_STATUS_PANIC ch = false →
      Acts (.refreshDue t ch) s fun u =>
        Emits (.ddr ch (s.get P.DDR_CFG_REF_MODE 0)) s u ∧
        u.get P.DDR_REFRESH_DEBT ch = s.get P.DDR_REFRESH_DEBT ch) ∧
    -- In panic.
    (∀ (ch : DdrCh),
      s.dcState ch = 2 →
      (s.dc ch).refAt ≤ s.instant t →
      s.flag P.DDR_CH_STATUS_PANIC ch = true →
      s.get P.DDR_REFRESH_DEBT ch < 4 →
      Acts (.refreshDue t ch) s fun u =>
        u.get P.DDR_REFRESH_DEBT ch = s.get P.DDR_REFRESH_DEBT ch + 1 ∧
        u.out = s.out) ∧
    -- The fifth is forced.
    (∀ (ch : DdrCh),
      s.dcState ch = 2 →
      (s.dc ch).refAt ≤ s.instant t →
      s.flag P.DDR_CH_STATUS_PANIC ch = true →
      s.get P.DDR_REFRESH_DEBT ch = 4 →
      Acts (.refreshDue t ch) s fun u =>
        Emits (.ddr ch (s.get P.DDR_CFG_REF_MODE 0)) s u ∧
        u.get P.DDR_REFRESH_FORCED ch = satTo P.DDR_REFRESH_FORCED.width (s.get P.DDR_REFRESH_FORCED ch + 1)) ∧
    (∀ (ch : DdrCh) (level : Nat),
      s.dcState ch = 2 →
      s.flag P.DDR_CH_STATUS_PANIC ch = false →
      s.get P.DDR_PANIC_LEVEL_KIB 0 * 1024 < level →
      Acts (.panicBegin t ch level) s fun u =>
        u.flag P.DDR_CH_STATUS_PANIC ch = true ∧
        u.get P.DDR_PANIC_CNT_COUNT ch = satTo P.DDR_PANIC_CNT_COUNT.width (s.get P.DDR_PANIC_CNT_COUNT ch + 1) ∧
        ((s.dc ch).panicTold = false → Raised 171 u)) ∧
    (∀ (ch : DdrCh) (level : Nat),
      level < s.get P.DDR_PANIC_RELEASE_KIB 0 * 1024 →
      Acts (.panicEnd t ch level) s fun u =>
        u.flag P.DDR_CH_STATUS_PANIC ch = false) ∧
    (∀ (ch : DdrCh) (d : Nat),
      s.get P.DDR_REFRESH_DEBT ch = d + 1 →
      s.flag P.DDR_CH_STATUS_PANIC ch = false →
      ((s.dc ch).repaid = 0 ∨ (s.dc ch).repaid + usSt ≤ s.instant t) →
      Acts (.refreshRepay t ch) s fun u =>
        u.get P.DDR_REFRESH_DEBT ch = d ∧
        Emits (.ddr ch (s.get P.DDR_CFG_REF_MODE 0)) s u ∧
        (u.dc ch).repaid = s.instant t) ∧
    -- An access within a pass.
    (∀ (addr : Nat) (result : Fin 3) (written : Bool),
      s.ddrOn = true →
      s.flag P.DDR_SCRUB_ENABLE 0 = true →
      s.flag P.THERM_STATUS_THROTTLED 0 = false →
      s.maintRuns 3 0 = true →
      s.maintRuns 3 1 = true →
      s.scrubReads (chOf addr) = true →
      addr / 64 < s.scrubTotal →
      s.ddr.scrubDue ≤ s.instant t →
      s.ddr.scrubbed + 1 < s.scrubTotal →
      Acts (.ddrScrubRead t addr result written) s fun u =>
        u.ddr.scrubbed = s.ddr.scrubbed + 1 ∧
        (result = 1 → u.get P.DDR_CE_COUNT (chOf addr) = satTo P.DDR_CE_COUNT.width (s.get P.DDR_CE_COUNT (chOf addr) + 1)) ∧
        (result = 1 → written = false → Emits (.ddr (chOf addr) 2) s u) ∧
        (result = 2 → Raised 169 u ∧ addr / 64 * 64 ∈ u.ddr.bad)) ∧
    -- The last access of a pass.
    (∀ (addr : Nat) (result : Fin 3) (written : Bool),
      s.ddrOn = true →
      s.flag P.DDR_SCRUB_ENABLE 0 = true →
      s.flag P.THERM_STATUS_THROTTLED 0 = false →
      s.maintRuns 3 0 = true →
      s.maintRuns 3 1 = true →
      s.scrubReads (chOf addr) = true →
      addr / 64 < s.scrubTotal →
      s.ddr.scrubDue ≤ s.instant t →
      s.scrubTotal ≤ s.ddr.scrubbed + 1 →
      Acts (.ddrScrubRead t addr result written) s fun u =>
        u.ddr.scrubbed = 0 ∧
        u.get P.DDR_SCRUB_STATUS_PASSES 0 = satTo P.DDR_SCRUB_STATUS_PASSES.width (s.get P.DDR_SCRUB_STATUS_PASSES 0 + 1) ∧
        u.maintRuns 3 0 = false ∧
        u.maintRuns 3 1 = false) ∧
    -- A step on the way.
    (∀ (ch : DdrCh) (passed : Bool),
      s.maintRuns 4 ch = true →
      s.flag P.DDR_CH_STATUS_PANIC ch = false →
      ((match (s.dc ch).stepAt with | some a => decide (s.instant t < a + 100 * usSt) | none => false) = false) →
      s.dcState ch = 2 →
      passed = true →
      (s.dc ch).steps < 15 →
      Acts (.ddrRetrainStep t ch passed) s fun u =>
        (u.dc ch).steps = (s.dc ch).steps + 1 ∧
        (u.dc ch).stepAt = some (s.instant t)) ∧
    -- The sixteenth step.
    (∀ (ch : DdrCh) (passed : Bool),
      s.maintRuns 4 ch = true →
      s.flag P.DDR_CH_STATUS_PANIC ch = false →
      ((match (s.dc ch).stepAt with | some a => decide (s.instant t < a + 100 * usSt) | none => false) = false) →
      s.dcState ch = 2 →
      passed = true →
      15 ≤ (s.dc ch).steps →
      Acts (.ddrRetrainStep t ch passed) s fun u =>
        u.maintRuns 4 ch = false ∧
        Raised 173 u) ∧
    -- A failed step.
    (∀ (ch : DdrCh) (passed : Bool),
      s.maintRuns 4 ch = true →
      s.flag P.DDR_CH_STATUS_PANIC ch = false →
      ((match (s.dc ch).stepAt with | some a => decide (s.instant t < a + 100 * usSt) | none => false) = false) →
      s.dcState ch = 2 →
      passed = false →
      s.ddrOn = true →
      Acts (.ddrRetrainStep t ch passed) s fun u =>
        u.ddrOn = false ∧
        u.dcState ch = 1 ∧
        Raised 166 u) ∧
    (∀ (ch : DdrCh) (writeCrc : Bool) (failedReplays : Nat),
      s.dcState ch = 2 →
      writeCrc = false →
      failedReplays < 3 →
      Acts (.ddrAlert t ch writeCrc failedReplays) s fun u =>
        u.get P.DDR_RETRY_PARITY ch = satTo P.DDR_RETRY_PARITY.width (s.get P.DDR_RETRY_PARITY ch + 1) ∧
        u.dcState ch = 2 ∧
        Raised 167 u) ∧
    -- A write CRC alert, and the third failed replay.
    (∀ (ch : DdrCh) (writeCrc : Bool) (failedReplays : Nat),
      s.dcState ch = 2 →
      writeCrc = true →
      s.flag P.DDR_CFG_WCRC_EN 0 = true →
      3 ≤ failedReplays →
      Acts (.ddrAlert t ch writeCrc failedReplays) s fun u =>
        u.get P.DDR_RETRY_WCRC ch = satTo P.DDR_RETRY_WCRC.width (s.get P.DDR_RETRY_WCRC ch + 1) ∧
        u.dcState ch = 1 ∧
        Raised 167 u) ∧
    -- A corrected read below the limit.
    (∀ (ch : DdrCh) (addr : Nat) (tries : List (Fin 3)) (device : Fin 20) (rank : Fin 8),
      s.ddrOn = true →
      (tries.take 3).getLast? = some 1 →
      Acts (.ddrReadComplete t ch addr tries device rank) s fun u =>
        u.get P.DDR_CE_COUNT ch = satTo P.DDR_CE_COUNT.width (s.get P.DDR_CE_COUNT ch + 1)) ∧
    -- Uncorrectable in the read and both re-reads.
    (∀ (ch : DdrCh) (addr : Nat) (tries : List (Fin 3)) (device : Fin 20) (rank : Fin 8),
      s.ddrOn = true →
      (tries.take 3).getLast? = some 2 →
      3 ≤ tries.length →
      Acts (.ddrReadComplete t ch addr tries device rank) s fun u =>
        u.get P.DDR_UE_READ ch = satTo P.DDR_UE_READ.width (s.get P.DDR_UE_READ ch + 1) ∧
        u.get P.DDR_UE_ADDR_ADDR ch = addr % 2 ^ P.DDR_UE_ADDR_ADDR.width ∧
        addr / 64 * 64 ∈ u.ddr.bad ∧
        Raised 168 u) ∧
    -- Every access before it has been issued.
    ((((s.clock t).ddrRun 0).ddrRun 1).ddrQuiet = true →
      Acts (.ddrFence t) s fun u =>
        u.ddr.fences = s.ddr.fences + 1) ∧
    -- An access still waits.
    ((((s.clock t).ddrRun 0).ddrRun 1).ddrQuiet = false →
      Acts (.ddrFence t) s fun u =>
        u = ((s.clock t).ddrRun 0).ddrRun 1) ∧
    -- Below the critical temperature.
    (∀ (ch : DdrCh) (temp : Int) (d : Spd),
      (s.dc ch).spd = some d →
      temp ≤ d.critical →
      Acts (.spdTempRead t ch temp) s fun u =>
        u.int P.DDR_TEMP_TEMP ch = max (-32768) (min 32767 temp) ∧
        (u.dc ch).halved = decide (9500 < temp) ∧
        ((9500 < temp ∧ (s.dc ch).halved = false) → Raised 172 u)) ∧
    -- Above it.
    (∀ (ch : DdrCh) (temp : Int) (d : Spd),
      (s.dc ch).spd = some d →
      d.critical < temp →
      s.dcState ch = 2 →
      Acts (.spdTempRead t ch temp) s fun u =>
        u.dcState ch = 1 ∧
        u.ddrOn = false) ∧
    (∀ (ch : DdrCh) (hot : Bool),
      Acts (.mr4Read t ch hot) s fun u =>
        u.flag P.DDR_CH_STATUS_HOT ch = hot)

/-- For every state that holds no whole-device reset, and every command that the lease holder takes for execution: MEM_RESTART sends the channels that are out of service through training again in the background; MEM_WRITE stores its bytes at the address in the area it names; MEM_READ answers the bytes that stand there; REGION_READ answers bytes from the context's read offset, which advances by what it answers; of a queued read and a queued write whose banks are free the read issues first, and in panic the write alone. (R210, R341, R344, R345, R350, R352, R381, R398) -/
def Obligations.DdrCommandsComplete : Prop :=
  ∀ (s : State) (t : Tm), s.pwr.por = false →
    (∀ (mb : Mb) (cmd : Cmd) (ch : DdrCh),
      Served s t mb cmd 0 .p →
      s.backgrounds (s.sentBy t mb cmd) < 16 →
      s.ddrOn = false →
      s.ddr.back = false →
      ((s.mbox.wait.any fun y => y.background && y.opcode == 0x0D01) = false) →
      s.dcState ch ≠ 2 →
      Acts (.memRestart t mb cmd) s fun u =>
        u.dcState ch = 1 ∧
        u.get P.DDR_CH_STATUS_LNK_STATE ch = 0 ∧
        (u.dc ch).whole = true ∧
        GoesOn cmd (s.sentBy t mb cmd) u) ∧
    -- Service is on.
    (∀ (mb : Mb) (cmd : Cmd),
      Served s t mb cmd 0 .p →
      s.ddrOn = true →
      Acts (.memRestart t mb cmd) s fun u =>
        u.ddr = s.ddr ∧
        u.mbox.wait = s.mbox.wait) ∧
    (∀ (mb : Mb) (cmd : Cmd) (k n addr : Nat),
      field cmd.payload 0 1 = k →
      field cmd.payload 16 4 = n →
      (s.area k).1 + field cmd.payload 8 8 = addr →
      Served s t mb cmd (24 + min 4040 n) .p →
      k ≤ 2 →
      n ≤ 4040 →
      s.inArea k addr n = true →
      s.ddrOn = true →
      Acts (.memWrite t mb cmd) s fun u =>
        u.ddr.mem = writeBytes s.ddrDefault s.ddr.mem addr ((cmd.payload.drop 24).take n) ∧
        Owed cmd (s.sentBy t mb cmd) (BitVec.ofNat 64 n) u) ∧
    -- Outside its area.
    (∀ (mb : Mb) (cmd : Cmd) (k n addr : Nat),
      field cmd.payload 0 1 = k →
      field cmd.payload 16 4 = n →
      (s.area k).1 + field cmd.payload 8 8 = addr →
      Served s t mb cmd (24 + min 4040 n) .p →
      s.inArea k addr n = false →
      Acts (.memWrite t mb cmd) s fun u =>
        u.ddr = s.ddr ∧
        u.mbox.wait = s.mbox.wait) ∧
    -- No poisoned unit.
    (∀ (mb : Mb) (cmd : Cmd) (poisoned : List Nat) (k n addr : Nat),
      field cmd.payload 0 1 = k →
      field cmd.payload 16 4 = n →
      (s.area k).1 + field cmd.payload 8 8 = addr →
      Served s t mb cmd 20 .p →
      k ≤ 2 →
      n ≤ 2 * mib →
      s.inArea k addr n = true →
      s.ddrOn = true →
      s.poisonAt (unitAddrs addr n) poisoned = [] →
      Acts (.memRead t mb cmd poisoned) s fun u =>
        u.mbox.wait.getLast?.map (·.response) = some (s.ddrRead addr n) ∧
        Owed cmd (s.sentBy t mb cmd) (BitVec.ofNat 64 (min (s.ddrRead addr n).length (respLimit cmd))) u ∧
        u.ddr.mem = s.ddr.mem) ∧
    -- Within the region, with no poisoned unit.
    (∀ (mb : Mb) (cmd : Cmd) (poisoned : List Nat) (c n size a len : Nat),
      cmd.context = c →
      field cmd.payload 0 4 = n →
      s.regionSize c = size →
      Served s t mb cmd 4 .n →
      c < 1024 →
      n % 8 = 0 →
      n ≤ 2 * mib →
      (s.ctxOf c).state ≠ 0 →
      s.get P.CTX_CFG_DEST_KIND c = 2 →
      size ≠ 0 →
      s.inArea 2 (s.regionBase c) size = true →
      s.ddrOn = true →
      s.get P.CTX_DDR_RD_OFFSET c % size = a →
      min (min n (s.get P.CTX_DDR_WOFF_OFFSET c - s.get P.CTX_DDR_RD_OFFSET c)) size = len →
      a + len ≤ size →
      s.poisonAt (unitAddrs (s.regionBase c + a) len) poisoned = [] →
      Acts (.regionRead t mb cmd poisoned) s fun u =>
        u.mbox.wait.getLast?.map (·.response) = some (s.ddrRead (s.regionBase c + a) len) ∧
        u.get P.CTX_DDR_RD_OFFSET c = (s.get P.CTX_DDR_RD_OFFSET c + min len (respLimit cmd)) % 2 ^ P.CTX_DDR_RD_OFFSET.width) ∧
    -- A read issues before a write.
    (∀ (ch : DdrCh) (r w : DdrAcc),
      (s.dc ch).wait = [] →
      (s.dc ch).rq = [r] →
      (s.dc ch).wq = [w] →
      s.flag P.DDR_CH_STATUS_PANIC ch = false →
      ((s.dc ch).free (s.instant t) r = true ∧ (s.dc ch).free (s.instant t) w = true) →
      Acts (.ddrFence t) s fun u =>
        ((u.dc ch).rq = [] ∧ (u.dc ch).wq = []) ∧
        (u.dc ch).retry = ([w, r] ++ (s.dc ch).retry).take 64) ∧
    -- In panic the write alone.
    (∀ (ch : DdrCh) (r w : DdrAcc),
      (s.dc ch).wait = [] →
      (s.dc ch).rq = [r] →
      (s.dc ch).wq = [w] →
      s.flag P.DDR_CH_STATUS_PANIC ch = true →
      (s.dc ch).free (s.instant t) w = true →
      Acts (.ddrFence t) s fun u =>
        ((u.dc ch).rq = [r] ∧ (u.dc ch).wq = []) ∧
        (u.dc ch).retry = ([w] ++ (s.dc ch).retry).take 64)

/-- For every state that holds no whole-device reset: a low read answers the low half and keeps the whole value in its slot, a high read answers the kept half or sets MISS and answers the live one, a whole read answers at once; a half or whole write of a base reaches a disabled mailbox; clearing pending bits leaves those raised in the same cycle (sources 234 and 235 apart, which the recorder may raise itself), unmasking signals what is pending, EV_TEST sets the host latch alone; a mask that lifts sends the held message. (R360, R362, R364, R365, R366, R367, R368) -/
def Obligations.BarAccessCompletes : Prop :=
  ∀ (s : State) (t : Tm), s.pwr.por = false →
    -- A 64-bit register.
    (∀ (slot : Fin 4) (reg : Fin 7),
      reg ≠ 1 →
      Acts (.snapLowRead t slot reg) s fun u =>
        Emits (.busRead (BitVec.ofNat 64 ((s.clock t).snapLive slot reg % 2 ^ 32))) s u ∧
        (u.snapOf slot).tag = some reg.val ∧
        (u.snapOf slot).high = (s.clock t).snapLive slot reg / 2 ^ 32 ∧
        (reg = 0 → (u.snapOf slot).epoch = s.time.epoch ∧ (u.snapOf slot).stitch = tbStitch (s.instant t))) ∧
    -- SNAP_TIME_X is 32 bits wide and takes no snapshot.
    (∀ (slot : Fin 4) (reg : Fin 7),
      reg = 1 →
      Acts (.snapLowRead t slot reg) s fun u =>
        Emits (.busRead (BitVec.ofNat 64 (((s.snapOf slot).epoch + (s.snapOf slot).stitch * 2 ^ 16) % 2 ^ 32))) s u ∧
        u.host.snap = s.host.snap) ∧
    -- Above it nothing stands.
    (∀ (slot : Fin 4) (reg : Fin 7),
      reg = 1 →
      Acts (.snapHighRead t slot reg) s fun u =>
        Emits (.busRead 0) s u ∧
        u.host.snapMiss = s.host.snapMiss) ∧
    -- The slot holds this register.
    (∀ (slot : Fin 4) (reg : Fin 7),
      reg ≠ 1 →
      (s.snapOf slot).tag = some reg.val →
      Acts (.snapHighRead t slot reg) s fun u =>
        Emits (.busRead (BitVec.ofNat 64 (s.snapOf slot).high)) s u ∧
        u.host.snapMiss = s.host.snapMiss) ∧
    -- It holds another one, or none.
    (∀ (slot : Fin 4) (reg : Fin 7),
      reg ≠ 1 →
      (s.snapOf slot).tag ≠ some reg.val →
      Acts (.snapHighRead t slot reg) s fun u =>
        Emits (.busRead (BitVec.ofNat 64 ((s.clock t).snapLive slot reg / 2 ^ 32))) s u ∧
        u.host.snapMiss.getLsbD slot = true) ∧
    (∀ (slot : Fin 4) (reg : Fin 7),
      Acts (.snapWholeRead t slot reg) s fun u =>
        Emits (.busRead (BitVec.ofNat 64 ((s.clock t).snapLive slot reg))) s u ∧
        (u.snapOf slot).tag = (s.snapOf slot).tag) ∧
    -- The halves of SQ_BASE.
    (∀ (m reg : Fin 2) (half : HalfWrite) (v : BitVec 32),
      (s.mbRegs m).enable = false →
      reg = 0 →
      half = .high v →
      Acts (.reg64HalfWrite t m reg half) s fun u =>
        (u.mbRegs m).sqBase = v.toNat * 2 ^ 32 + (s.mbRegs m).sqLow ∧
        (u.mbRegs m).cqBase = (s.mbRegs m).cqBase) ∧
    (∀ (m reg : Fin 2) (half : HalfWrite) (v : BitVec 32),
      (s.mbRegs m).enable = false →
      reg = 1 →
      half = .low v →
      Acts (.reg64HalfWrite t m reg half) s fun u =>
        (u.mbRegs m).cqLow = v.toNat ∧
        (u.mbRegs m).cqBase = (s.mbRegs m).cqBase) ∧
    -- The whole register.
    (∀ (m reg : Fin 2) (half : HalfWrite) (v : W64),
      (s.mbRegs m).enable = false →
      reg = 0 →
      half = .whole v →
      Acts (.reg64HalfWrite t m reg half) s fun u =>
        (u.mbRegs m).sqBase = v.toNat ∧
        (u.mbRegs m).cqBase = (s.mbRegs m).cqBase) ∧
    -- An enabled mailbox keeps its bases.
    (∀ (m reg : Fin 2) (half : HalfWrite),
      (s.mbRegs m).enable = true →
      Acts (.reg64HalfWrite t m reg half) s fun u =>
        u = s.clock t) ∧
    (∀ (g : Fin 8) (value raised : BitVec 32) (i : Fin 32),
      value.getLsbD i = true →
      (32 * g.val + i.val ≠ 234 ∧ 32 * g.val + i.val ≠ 235) →
      Acts (.evPendingClear t g value raised) s fun u =>
        u.ev.host.getLsbD (32 * g.val + i.val) = raised.getLsbD i) ∧
    -- A bit that is not written and not raised.
    (∀ (g : Fin 8) (value raised : BitVec 32) (i : Fin 32),
      value.getLsbD i = false →
      raised.getLsbD i = false →
      (32 * g.val + i.val ≠ 234 ∧ 32 * g.val + i.val ≠ 235) →
      Acts (.evPendingClear t g value raised) s fun u =>
        u.ev.host.getLsbD (32 * g.val + i.val) = s.ev.host.getLsbD (32 * g.val + i.val)) ∧
    (∀ (g : Fin 8) (value : BitVec 32) (i : Fin 32),
      Acts (.evMaskWrite t g value) s fun u =>
        u.ev.mask.getLsbD (32 * g.val + i.val) = value.getLsbD i) ∧
    -- A pending source that is unmasked signals.
    (∀ (g : Fin 8) (value : BitVec 32) (i : Fin 32) (v : Nat),
      s.ev.mask.getLsbD (32 * g.val + i.val) = true →
      value.getLsbD i = false →
      s.ev.host.getLsbD (32 * g.val + i.val) = true →
      s.ev.vector (32 * g.val + i.val) = v →
      (s.ev.msixEnable = true ∧ s.ev.funcMask = false ∧ s.ev.vecMask.getLsbD v = false ∧ s.host.d3hot = false) →
      Acts (.evMaskWrite t g value) s fun u =>
        Emits (.msix v) s u) ∧
    (∀ (source : Fin 256),
      Acts (.evTest t source) s fun u =>
        u.ev.host.getLsbD source = true ∧
        u.ev.fw = s.ev.fw ∧
        u.ev.recd = s.ev.recd ∧
        u.ev.raises = s.ev.raises) ∧
    -- A vector's mask lifts with a message held.
    (∀ (what : MsixWrite) (n : Fin 256),
      what = .vector n false →
      s.ev.pba.getLsbD n = true →
      (s.ev.msixEnable = true ∧ s.ev.funcMask = false ∧ s.host.d3hot = false) →
      Acts (.msixMaskWrite t what) s fun u =>
        Emits (.msix n) s u ∧
        u.ev.pba.getLsbD n = false ∧
        u.ev.vecMask.getLsbD n = false) ∧
    -- A table entry.
    (∀ (what : MsixWrite) (n : Fin 256) (addr : W64) (data : BitVec 32),
      what = .entry n addr data →
      Acts (.msixMaskWrite t what) s fun u =>
        Tbl.get (0, 0) u.ev.table n = (addr.toNat, data.toNat))

/-- For every state that holds no whole-device reset: a host reset clears the host block, disables both host mailboxes and raises source 24; releasing PERST_N starts training; a trained link shows its rate and width, with source 24 where it was down; losing bus mastering or being in D3hot stops DMA; a failed device read sets its HOST_ERR bit, counts, raises source 26, and stops the mailbox that read. (R222, R369, R372, R373, R374, R375) -/
def Obligations.HostLinkCompletes : Prop :=
  ∀ (s : State) (t : Tm), s.pwr.por = false →
    (Acts (.hostReset t) s fun u =>
        u.host.linkUp = false ∧
        u.host.busMaster = false ∧
        u.host.mb = [] ∧
        u.host.linkResets = satTo 16 (s.host.linkResets + 1) ∧
        u.ev.mask = BitVec.allOnes 256 ∧
        Raised 24 u) ∧
    (Acts (.perstNRelease t) s fun u =>
        u.host.perst = false ∧
        u.host.training = true) ∧
    (∀ (gen : Fin 6) (width : Fin 9) (mps : Fin 3),
      gen.val ≠ 0 →
      [1, 2, 4, 8].contains width.val = true →
      s.pwr.pll.getLsbD 4 = true →
      Acts (.hostLinkUp t gen width mps) s fun u =>
        u.host.linkUp = true ∧
        u.host.gen = gen.val ∧
        u.host.width = width.val ∧
        (s.host.linkUp = false → Raised 24 u)) ∧
    (Acts (.busMasterDisable t) s fun u =>
        u.host.busMaster = false ∧
        u.hostMoves = false) ∧
    (∀ (d : Bool),
      Acts (.powerStateChange t d) s fun u =>
        u.host.d3hot = d ∧
        (d = true → u.hostMoves = false)) ∧
    -- A command slot times out.
    (∀ (what : ReadFor) (how : ReadEnd) (m : Mb),
      what = .slot m →
      m.val < 2 →
      how = .timeout →
      Acts (.deviceReadFail t what how) s fun u =>
        u.host.err.getLsbD 0 = true ∧
        u.host.errCount = satTo 16 (s.host.errCount + 1) ∧
        (u.mbRegs m).error = true ∧
        Raised 26 u) ∧
    -- A descriptor comes poisoned.
    (∀ (what : ReadFor) (how : ReadEnd) (c : Ctx),
      what = .descriptor c →
      how = .poisoned →
      Acts (.deviceReadFail t what how) s fun u =>
        u.host.err.getLsbD 2 = true ∧
        u.host.errCount = satTo 16 (s.host.errCount + 1) ∧
        Raised 26 u)

/-- For every state that holds no whole-device reset in which no MB4 command runs and the sequence is new: a device reset restarts with cause 2, and every other command ends with its status, its sequence and source 4; a core reset takes the lease away and resets both piers; the boot slot is selected; a verified image fills its slot; over SMBus, at this device's address, the same runs, but a load is refused as unsupported, and a read answers status and result. (R363, R392, R394, R405, R409, R466, R483) -/
def Obligations.KeystoneMailboxCompletes : Prop :=
  ∀ (s : State) (t : Tm), s.pwr.por = false →
    (∀ (seq : BitVec 16),
      s.host.ksGo = false →
      (s.host.ksDone = false ∨ s.host.ksDoneSeq ≠ seq.toNat) →
      Acts (.mb4Status t seq) s fun u =>
        u.host.ksDone = true ∧
        u.host.ksStatus = stOk ∧
        u.host.ksResult = s.mb4Result ∧
        u.host.ksDoneSeq = seq.toNat ∧
        Raised 4 u) ∧
    -- The cores.
    (∀ (seq : BitVec 16) (arg0 arg1 : BitVec 32),
      s.host.ksGo = false →
      (s.host.ksDone = false ∨ s.host.ksDoneSeq ≠ seq.toNat) →
      arg1.toNat = 0xA5A5 →
      arg0.toNat = 1 →
      Acts (.mb4Reset t seq arg0 arg1) s fun u =>
        u.core.holder = 0 ∧
        u.core.booted = 0 ∧
        u.host.ksStatus = stOk ∧
        (u.host.ksDone = true ∧ u.host.ksDoneSeq = seq.toNat) ∧
        u.get P.PIER_RESETS_B 0 = satTo P.PIER_RESETS_B.width (s.get P.PIER_RESETS_B 0 + 1) ∧
        u.get P.PIER_RESETS_A 0 = satTo P.PIER_RESETS_A.width (s.get P.PIER_RESETS_A 0 + 1) ∧
        Raised 229 u ∧
        Raised 4 u) ∧
    -- The device.
    (∀ (seq : BitVec 16) (arg0 arg1 : BitVec 32),
      s.host.ksGo = false →
      (s.host.ksDone = false ∨ s.host.ksDoneSeq ≠ seq.toNat) →
      arg1.toNat = 0xA5A5 →
      arg0.toNat = 2 →
      Acts (.mb4Reset t seq arg0 arg1) s fun u =>
        u.get P.START_STATUS_CAUSE 0 = 2 ∧
        u.core.holder = 0 ∧
        u.time.now = 0 ∧
        u.ddr = State.reset.ddr) ∧
    -- Without its key.
    (∀ (seq : BitVec 16) (arg0 arg1 : BitVec 32),
      s.host.ksGo = false →
      (s.host.ksDone = false ∨ s.host.ksDoneSeq ≠ seq.toNat) →
      arg1.toNat ≠ 0xA5A5 →
      Acts (.mb4Reset t seq arg0 arg1) s fun u =>
        u.core.holder = s.core.holder ∧
        u.host.ksStatus = stDenied ∧
        (u.host.ksDone = true ∧ u.host.ksDoneSeq = seq.toNat) ∧
        Raised 4 u) ∧
    (∀ (seq : BitVec 16) (arg0 : BitVec 32),
      s.host.ksGo = false →
      (s.host.ksDone = false ∨ s.host.ksDoneSeq ≠ seq.toNat) →
      arg0.toNat < 2 →
      Acts (.mb4SlotSelect t seq arg0) s fun u =>
        u.get P.SEC_STATUS_BOOT_SEL 0 = arg0.toNat ∧
        u.host.ksStatus = stOk ∧
        (u.host.ksDone = true ∧ u.host.ksDoneSeq = seq.toNat) ∧
        Raised 4 u) ∧
    (∀ (seq : BitVec 16) (slot : Fin 2) (arg0 arg1 : BitVec 32) (bytes : Nat) (image : Image) (read : ReadEnd),
      s.host.ksGo = false →
      (s.host.ksDone = false ∨ s.host.ksDoneSeq ≠ seq.toNat) →
      arg0.toNat % 4096 = 0 →
      s.slotRuns slot = false →
      read = .ok →
      s.verifies image = true →
      Acts (.mb4FwLoad t seq slot arg0 arg1 bytes image read) s fun u =>
        (u.slotOf slot).ok = true ∧
        (u.slotOf slot).image = image ∧
        u.host.ksStatus = stOk ∧
        u.host.ksResult = bytes ∧
        (u.host.ksDone = true ∧ u.host.ksDoneSeq = seq.toNat) ∧
        Raised 4 u) ∧
    -- An image that fails its checks.
    (∀ (seq : BitVec 16) (slot : Fin 2) (arg0 arg1 : BitVec 32) (bytes : Nat) (image : Image) (read : ReadEnd),
      s.host.ksGo = false →
      (s.host.ksDone = false ∨ s.host.ksDoneSeq ≠ seq.toNat) →
      arg0.toNat % 4096 = 0 →
      s.slotRuns slot = false →
      read = .ok →
      s.verifies image = false →
      Acts (.mb4FwLoad t seq slot arg0 arg1 bytes image read) s fun u =>
        (u.slotOf slot).ok = false ∧
        u.host.ksStatus = stCheckFail ∧
        (u.host.ksDone = true ∧ u.host.ksDoneSeq = seq.toNat) ∧
        Raised 238 u ∧
        Raised 4 u) ∧
    (∀ (addr : BitVec 7) (opcode seq : BitVec 16) (arg0 arg1 : BitVec 32) (ok : Bool),
      s.smbMine addr = true →
      s.flag P.MB_CFG_ENABLE 3 = true →
      ok = true →
      s.host.ksGo = false →
      (s.host.ksDone = false ∨ s.host.ksDoneSeq ≠ seq.toNat) →
      opcode.toNat = 1 →
      Acts (.smbMb4Start ⟨t, addr⟩ opcode seq arg0 arg1 ok) s fun u =>
        u.host.ksStatus = stOk ∧
        u.host.ksDoneSeq = seq.toNat ∧
        Raised 4 u) ∧
    -- A load.
    (∀ (addr : BitVec 7) (opcode seq : BitVec 16) (arg0 arg1 : BitVec 32) (ok : Bool),
      s.smbMine addr = true →
      s.flag P.MB_CFG_ENABLE 3 = true →
      ok = true →
      s.host.ksGo = false →
      (s.host.ksDone = false ∨ s.host.ksDoneSeq ≠ seq.toNat) →
      (opcode.toNat = 4 ∨ opcode.toNat = 5) →
      Acts (.smbMb4Start ⟨t, addr⟩ opcode seq arg0 arg1 ok) s fun u =>
        u.host.ksStatus = stUnsupported ∧
        (u.host.ksDone = true ∧ u.host.ksDoneSeq = seq.toNat) ∧
        u.sec = s.sec ∧
        Raised 4 u) ∧
    (∀ (addr : BitVec 7),
      s.smbMine addr = true →
      s.flag P.MB_CFG_ENABLE 3 = true →
      Acts (.smbMb4Read ⟨t, addr⟩) s fun u =>
        Emits (.block (le 4 s.mb4Status ++ le 4 s.host.ksResult)) s u)

/-- For every state that holds no whole-device reset: an aligned 4-byte write of an error register clears the bits written, of EV_SHARED stores them, of a doorbell stores its index, of GO runs the Keystone's STATUS command, of a context's doorbells stores its producer indices, and of ARM arms its notification; an aligned 8-byte write of a base of a disabled mailbox stores it whole; a write of another size or alignment has no effect. (R6, R213, R360, R362, R363, R366, R367) -/
def Obligations.RegisterWriteCompletes : Prop :=
  ∀ (s : State) (t : Tm), s.pwr.por = false →
    -- HOST_ERR clears by ones.
    (∀ (bar : Fin 2) (offset size : Nat) (value : W64),
      bar = 0 →
      offset = 0x010 →
      size = 4 →
      Acts (.registerWrite t bar offset size value) s fun u =>
        u.host.err = s.host.err &&& ~~~ BitVec.ofNat 3 (value.toNat % 2 ^ 32)) ∧
    -- EV_SHARED.
    (∀ (bar : Fin 2) (offset size : Nat) (value : W64),
      bar = 0 →
      offset = 0x1044 →
      size = 4 →
      Acts (.registerWrite t bar offset size value) s fun u =>
        u.ev.shared = BitVec.ofNat 8 (value.toNat % 2 ^ 32)) ∧
    -- A mailbox's doorbell.
    (∀ (bar : Fin 2) (offset size : Nat) (value : W64) (m : Fin 2),
      bar = 0 →
      offset = 0x2018 + 0x1000 * m.val →
      size = 4 →
      Acts (.registerWrite t bar offset size value) s fun u =>
        (u.mbRegs m).prod = value.toNat % 65536) ∧
    -- A base, whole.
    (∀ (bar : Fin 2) (offset size : Nat) (value : W64) (m : Fin 2),
      bar = 0 →
      offset = 0x2000 + 0x1000 * m.val →
      size = 8 →
      (s.mbRegs m).enable = false →
      Acts (.registerWrite t bar offset size value) s fun u =>
        (u.mbRegs m).sqBase = value.toNat) ∧
    -- GO of the Keystone window.
    (∀ (bar : Fin 2) (offset size : Nat) (value : W64),
      bar = 0 →
      offset = 0x401C →
      size = 4 →
      value.toNat = 1 →
      s.host.ksGo = false →
      s.host.ksDone = false →
      s.host.ksOp = 1 →
      Acts (.registerWrite t bar offset size value) s fun u =>
        u.host.ksStatus = stOk ∧
        u.host.ksResult = s.mb4Result ∧
        Raised 4 u) ∧
    -- A context's doorbell in BAR2.
    (∀ (bar : Fin 2) (offset size : Nat) (value : W64) (c : Ctx),
      bar = 1 →
      offset = 64 * c.val →
      size = 4 →
      (value.toNat + 65536 - (s.ctxOf c).cons) % 65536 ≤ 2 ^ s.get P.CTX_RING_CFG_LOG2 c →
      Acts (.registerWrite t bar offset size value) s fun u =>
        (u.ctxOf c).prod = value.toNat % 65536) ∧
    -- ARM of a context in BAR2.
    (∀ (bar : Fin 2) (offset size : Nat) (value : W64) (c : Ctx),
      bar = 1 →
      offset = 64 * c.val + 0x0C →
      size = 4 →
      value.toNat = 1 →
      Acts (.registerWrite t bar offset size value) s fun u =>
        (u.ctxOf c).arm = true) ∧
    -- Any other size or alignment.
    (∀ (bar : Fin 2) (offset size : Nat) (value : W64),
      (¬(size = 4 ∧ offset % 4 = 0)) →
      (¬(size = 8 ∧ offset % 8 = 0)) →
      Acts (.registerWrite t bar offset size value) s fun u =>
        u = s.clock t)

/-- For every state that holds no whole-device reset: EXTEST, EXTEST_PULSE, EXTEST_TRAIN and CLAMP drive the balls from the boundary cells and hold a tripped tile's line low; IDCODE answers the code with the stepping; SAMPLE/PRELOAD loads the cells; HIGHZ asserts every over-light line; CLAMP, HIGHZ and BYPASS select the one bypass bit; TRST_N returns the port to IDCODE, empties the buffers of MB5, stops its start and mutes what it has outstanding. (R483, R499, R508, R509, R518) -/
def Obligations.TestPortCompletes : Prop :=
  ∀ (s : State) (t : Tm), s.pwr.por = false →
    (Acts (.extest t) s fun u =>
        u.pwr.tap = 0x00 ∧
        (∀ x ∈ s.pwr.cells.zipIdx, Emits (.pin (.scan x.2) x.1) s u) ∧
        (∀ tile : Tile, s.tripped tile = true → Emits (.pin (.overlightN tile) false) s u)) ∧
    (Acts (.extestPulse t) s fun u =>
        u.pwr.tap = 0x03 ∧
        (∀ x ∈ s.pwr.cells.zipIdx, Emits (.pin (.scan x.2) x.1) s u) ∧
        (∀ tile : Tile, s.tripped tile = true → Emits (.pin (.overlightN tile) false) s u)) ∧
    (Acts (.extestTrain t) s fun u =>
        u.pwr.tap = 0x04 ∧
        (∀ x ∈ s.pwr.cells.zipIdx, Emits (.pin (.scan x.2) x.1) s u) ∧
        (∀ tile : Tile, s.tripped tile = true → Emits (.pin (.overlightN tile) false) s u)) ∧
    (Acts (.clamp t) s fun u =>
        u.pwr.tap = 0x05 ∧
        (∀ x ∈ s.pwr.cells.zipIdx, Emits (.pin (.scan x.2) x.1) s u) ∧
        (∀ tile : Tile, s.tripped tile = true → Emits (.pin (.overlightN tile) false) s u) ∧
        Emits (.jtag 1 0) s u) ∧
    (Acts (.highz t) s fun u =>
        u.pwr.tap = 0x06 ∧
        (∀ tile : Tile, Emits (.pin (.overlightN tile) false) s u) ∧
        Emits (.jtag 1 0) s u) ∧
    (Acts (.idcode t) s fun u =>
        u.pwr.tap = 0x01 ∧
        Emits (.jtag 32 (0x05640A6B + s.host.stepping % 16 * 2 ^ 28)) s u) ∧
    (∀ (cells : List Bool),
      Acts (.samplePreload t cells) s fun u =>
        u.pwr.tap = 0x02 ∧
        u.pwr.cells = cells) ∧
    (Acts (.bypass t) s fun u =>
        u.pwr.tap = 0xFF ∧
        Emits (.jtag 1 0) s u) ∧
    (Acts (.trstNAssert t) s fun u =>
        u.pwr.tap = 0x01 ∧
        u.mbox.jtagBuf = [] ∧
        u.mbox.jtagOut = [] ∧
        u.mbox.start5 = false ∧
        (∀ x ∈ u.mbox.wait, x.who.mb = 5 → x.mute = true))

/-- For every state that holds no whole-device reset, and every command that the lease holder takes for execution: a get answers each identifier with its status and value in listed order; a set that passes its checks changes a plain field at once (shown on FAB_CLAIM_CFG.WINDOW_MS) and makes a swap-shadowed one pending with the boundary as result; a refused set leaves the pending values and ends with its status; several sets take effect together, each judged with those before it, in check mode not at all, and with at_ns they wait for their release; SWAP_COMMIT and a due release give every held value of an armed class its boundary, with source 70. (R6, R8, R309, R324, R325, R326, R395, R396, R397, R398) -/
def Obligations.ParameterCommandsComplete : Prop :=
  ∀ (s : State) (t : Tm), s.pwr.por = false →
    -- One known identifier.
    (∀ (mb : Mb) (cmd : Cmd) (id : Nat) (nm : Named),
      Served s t mb cmd (8 + 4 * field cmd.payload 0 2) .r →
      field cmd.payload 0 2 = 1 →
      field cmd.payload 8 4 = id →
      named id = some nm →
      nm.inst ≠ allInst →
      Acts (.paramGet t mb cmd) s fun u =>
        u = (((s.met t mb cmd).readEffect nm).bump P.MB_STATS_COMMANDS (s.sentBy t mb cmd).mb).post
          (cmd.post (s.sentBy t mb cmd) stOk 0 (le 4 id ++ [0, 0, 0, 0] ++ le 8 ((s.met t mb cmd).readValue nm id).toNat) true)) ∧
    -- Any number of identifiers.
    (∀ (mb : Mb) (cmd : Cmd) (n : Nat),
      field cmd.payload 0 2 = n →
      Served s t mb cmd (8 + 4 * n) .r →
      (1 ≤ n ∧ n ≤ 254) →
      Acts (.paramGet t mb cmd) s fun u =>
        (u = (((s.met t mb cmd).getAll ((upTo n).map fun i => field cmd.payload (8 + 4 * i) 4)).1.bump P.MB_STATS_COMMANDS (s.sentBy t mb cmd).mb).post
          (cmd.post (s.sentBy t mb cmd) ((s.met t mb cmd).getAll ((upTo n).map fun i => field cmd.payload (8 + 4 * i) 4)).2.1 0
          ((s.met t mb cmd).getAll ((upTo n).map fun i => field cmd.payload (8 + 4 * i) 4)).2.2 true))) ∧
    -- A plain field, by the example of FAB_CLAIM_CFG.WINDOW_MS.
    (∀ (mb : Mb) (cmd : Cmd) (e : Entry),
      Served s t mb cmd 24 .n →
      Entry.parse cmd.payload 0 = e →
      e.id = P.FAB_CLAIM_CFG_WINDOW_MS.id 0 0 →
      ((s.met t mb cmd).entrySet (field cmd.payload 4 1) e).status = stOk →
      Acts (.paramSet t mb cmd) s fun u =>
        u.get P.FAB_CLAIM_CFG_WINDOW_MS 0 = P.FAB_CLAIM_CFG_WINDOW_MS.of (mixBits (Regs.word s.regs P.FAB_CLAIM_CFG_WINDOW_MS 0) e.value e.mask) ∧
        Owed cmd (s.sentBy t mb cmd) 0 u ∧
        u.sec.dirty = true) ∧
    -- A swap-shadowed field of one index.
    (∀ (mb : Mb) (cmd : Cmd) (k : Cls) (e : Entry) (n : Named) (cls : Nat),
      (k = .n ∨ k = .p) →
      Served s t mb cmd 24 k →
      Entry.parse cmd.payload 0 = e →
      field cmd.payload 4 1 = cls →
      named e.id = some n →
      n.inst ≠ allInst →
      n.par.pid ≠ P.LANE_LOOP_MODE.pid →
      e.mask &&& n.par.mask (Fld.has .rws) ≠ 0 →
      ((s.met t mb cmd).entrySet cls e).status = stOk →
      Acts (.paramSet t mb cmd) s fun u =>
        u.time.pend.getLast? = some ⟨n.id n.inst, (s.met t mb cmd).newWord n n.inst e, cls, (s.clock t).dueFor cls⟩ ∧
        Owed cmd (s.sentBy t mb cmd) (setResult true ((s.clock t).dueFor cls)) u) ∧
    -- A refused set.
    (∀ (mb : Mb) (cmd : Cmd) (k : Cls) (st : Nat),
      (k = .n ∨ k = .p) →
      Served s t mb cmd 24 k →
      ((s.met t mb cmd).entrySet (field cmd.payload 4 1) (Entry.parse cmd.payload 0)).status = st →
      st ≠ stOk →
      Acts (.paramSet t mb cmd) s fun u =>
        u.time.pend = s.time.pend ∧
        u.mbox.wait = s.mbox.wait ∧
        (Tbl.get [] u.mbox.hist (s.sentBy t mb cmd).key).head? = some ⟨cmd.seq, st, 0⟩) ∧
    -- Several sets take effect.
    (∀ (mb : Mb) (cmd : Cmd) (k : Cls) (n cls : Nat) (es : List Entry),
      (k = .n ∨ k = .p) →
      field cmd.payload 0 2 = n →
      field cmd.payload 2 1 = cls →
      (((upTo n).map fun i => Entry.parse cmd.payload (16 + 24 * i)) = es) →
      Served s t mb cmd (16 + 24 * n) k →
      (1 ≤ n ∧ n ≤ 168) →
      cls ≤ 7 →
      (field cmd.payload 3 1).testBit 0 = false →
      field cmd.payload 8 8 = 0 →
      ((s.met t mb cmd).entriesSet cls false 0 es).1.status = stOk →
      ((s.met t mb cmd).entriesSet cls false 0 es).1.waits = false →
      Acts (.paramSetMulti t mb cmd) s fun u =>
        u.time.pend = ((s.met t mb cmd).entriesSet cls false 0 es).1.s.time.pend ∧
        Owed cmd (s.sentBy t mb cmd) (setResult (es.any Entry.swaps) ((s.clock t).dueFor cls)) u) ∧
    -- With at_ns, the class waits for its release.
    (∀ (mb : Mb) (cmd : Cmd) (k : Cls) (n cls a : Nat) (es : List Entry),
      (k = .n ∨ k = .p) →
      field cmd.payload 0 2 = n →
      field cmd.payload 2 1 = cls →
      field cmd.payload 8 8 = a →
      (((upTo n).map fun i => Entry.parse cmd.payload (16 + 24 * i)) = es) →
      Served s t mb cmd (16 + 24 * n) k →
      (1 ≤ n ∧ n ≤ 168) →
      (1 ≤ cls ∧ cls ≤ 7) →
      (field cmd.payload 3 1).testBit 0 = false →
      a ≠ 0 →
      s.armed cls = true →
      a * nsSt % (s.clock t).spanLenAt (a * nsSt) = 0 →
      s.instant t + cutoffLen < a * nsSt →
      ((s.met t mb cmd).entriesSet cls false 0 es).1.status = stOk →
      ((s.met t mb cmd).entriesSet cls false 0 es).1.waits = false →
      Acts (.paramSetMulti t mb cmd) s fun u =>
        u.time.pend = ((s.met t mb cmd).entriesSet cls false 0 es).1.s.time.pend ∧
        u.mbox.atNs = s.mbox.atNs ++ [⟨cls, a * nsSt⟩] ∧
        Owed cmd (s.sentBy t mb cmd) (BitVec.ofNat 64 a) u) ∧
    -- Check mode, and the first entry that fails.
    (∀ (mb : Mb) (cmd : Cmd) (k : Cls) (n cls : Nat) (es : List Entry),
      (k = .n ∨ k = .p) →
      field cmd.payload 0 2 = n →
      field cmd.payload 2 1 = cls →
      (((upTo n).map fun i => Entry.parse cmd.payload (16 + 24 * i)) = es) →
      Served s t mb cmd (16 + 24 * n) k →
      (1 ≤ n ∧ n ≤ 168) →
      cls ≤ 7 →
      (field cmd.payload 3 1).testBit 0 = true →
      field cmd.payload 8 8 = 0 →
      Acts (.paramSetMulti t mb cmd) s fun u =>
        u.time.pend = s.time.pend ∧
        (((s.met t mb cmd).entriesSet cls false 0 es).1.status = stOk → Owed cmd (s.sentBy t mb cmd) 0 u) ∧
        (((s.met t mb cmd).entriesSet cls false 0 es).1.status ≠ stOk → (Tbl.get [] u.mbox.hist (s.sentBy t mb cmd).key).head? =
          some ⟨cmd.seq, ((s.met t mb cmd).entriesSet cls false 0 es).1.status, BitVec.ofNat 64 ((s.met t mb cmd).entriesSet cls false 0 es).2⟩)) ∧
    (∀ (mb : Mb) (cmd : Cmd) (k : Fin 8),
      Served s t mb cmd 1 .n →
      (field cmd.payload 0 1 / 2 * 2).testBit k = true →
      s.armed k = true →
      Acts (.swapCommit t mb cmd) s fun u =>
        (∀ x ∈ u.time.pend, x.cls = k.val → x.due.isSome = true) ∧
        Owed cmd (s.sentBy t mb cmd) (BitVec.ofNat 64 (tbNs (s.clock t).dueNow)) u ∧
        Raised 70 u) ∧
    (∀ (cls : Fin 8) (a : AtNs),
      (s.mbox.atNs.find? (fun y => y.cls == cls.val && decide (y.at_ ≤ s.time.next)) = some a) →
      s.leased = true →
      s.armed cls = true →
      Acts (.atNsRelease t cls) s fun u =>
        u.mbox.atNs = s.mbox.atNs.erase a ∧
        (∀ x ∈ u.time.pend, x.cls = cls.val → x.due.isSome = true) ∧
        Raised 70 u)

/-- For every state that holds no whole-device reset, and every command that the lease holder takes for execution: a save within its minute goes PENDING and is committed when permitted, else at once into the copy not used last; a load gives a stored parameter (shown on FAB_CLAIM_CFG.WINDOW_MS) the store's value or its reset value; a step is kept for its boundary and distributed by the root; an action fills and arms the lowest empty entry. (R32, R307, R320, R329, R330, R358, R384, R398, R399, R400, R403, R461) -/
def Obligations.ConfigurationCompletes : Prop :=
  ∀ (s : State) (t : Tm), s.pwr.por = false →
    (∀ (mb : Mb) (cmd : Cmd) (k : Nat),
      Served s t mb cmd 0 .p →
      (s.clock t).maySave = true →
      ((match s.sec.lastCopy with | some 0 => 1 | _ => 0) = k) →
      Acts (.configSave t mb cmd) s fun u =>
        (Tbl.get Store.reset u.sec.store k).regs = s.configOf ∧
        (Tbl.get Store.reset u.sec.store k).number = s.sec.saves + 1 ∧
        u.sec.lastCopy = some k ∧
        u.sec.dirty = false ∧
        Owed cmd (s.sentBy t mb cmd) (BitVec.ofNat 64 (tbNs (s.instant t))) u) ∧
    -- Within the minute after the last one.
    (∀ (mb : Mb) (cmd : Cmd),
      Served s t mb cmd 0 .p →
      s.backgrounds (s.sentBy t mb cmd) < 16 →
      (s.clock t).maySave = false →
      Acts (.configSave t mb cmd) s fun u =>
        u.sec = s.sec ∧
        GoesOn cmd (s.sentBy t mb cmd) u) ∧
    (s.leased = true →
      (s.clock t).maySave = true →
      ((s.mbox.wait.any fun y => y.background && y.opcode == 0x0007) = true) →
      Acts (.configSaveDeferred t) s fun u =>
        u.sec.saves = s.sec.saves + 1 ∧
        u.mbox.saves = some (s.instant t) ∧
        (∀ y ∈ u.mbox.wait, y.opcode = 0x0007 → y.background = false)) ∧
    -- From the store.
    (∀ (mb : Mb) (cmd : Cmd) (k : Nat) (c : Store),
      Served s t mb cmd 1 .p →
      field cmd.payload 0 1 = 0 →
      s.sec.newest = some (k, c) →
      c.version / 65536 = s.host.fwVersion / 65536 →
      Acts (.configLoad t mb cmd) s fun u =>
        u.get P.FAB_CLAIM_CFG_WINDOW_MS 0 = Regs.get c.regs P.FAB_CLAIM_CFG_WINDOW_MS 0 ∧
        u.sec.lastCopy = some k ∧
        u.sec.dirty = false ∧
        Owed cmd (s.sentBy t mb cmd) (BitVec.ofNat 64 (tbNs (s.clock t).dueNow)) u) ∧
    -- The reset values.
    (∀ (mb : Mb) (cmd : Cmd),
      Served s t mb cmd 1 .p →
      field cmd.payload 0 1 = 1 →
      Acts (.configLoad t mb cmd) s fun u =>
        u.get P.FAB_CLAIM_CFG_WINDOW_MS 0 = 10 ∧
        u.sec.lastCopy = s.sec.lastCopy ∧
        Owed cmd (s.sentBy t mb cmd) (BitVec.ofNat 64 (tbNs (s.clock t).dueNow)) u) ∧
    -- An offset of this device alone.
    (∀ (mb : Mb) (cmd : Cmd) (b : Tm) (j : Int),
      Served s t mb cmd 32 .p →
      field cmd.payload 0 1 = 0 →
      field cmd.payload 16 2 % 4096 = 0 →
      field cmd.payload 24 8 * nsSt = b →
      sext 64 (field cmd.payload 8 8) = j →
      b % (s.clock t).spanLenAt b = 0 →
      s.instant t < b →
      (0 ≤ (b : Int) + j ∧ (b : Int) + j < (timeLimit * nsSt : Nat)) →
      (s.clock t).afterCommit ≤ b →
      s.time.steps.any (·.b == b) = false →
      (¬(j < 0 ∧ s.time.epoch = 0xFFFF)) →
      Acts (.timeStep t mb cmd) s fun u =>
        u.time.steps = s.time.steps ++ [⟨b, s.time.epoch, false, j, none⟩] ∧
        Owed cmd (s.sentBy t mb cmd) (BitVec.ofNat 64 (tbNs b)) u) ∧
    -- A target time of the whole fabric, at its root.
    (∀ (mb : Mb) (cmd : Cmd) (b : Tm) (x : Nat),
      Served s t mb cmd 32 .p →
      field cmd.payload 0 1 = 3 →
      field cmd.payload 16 2 % 4096 ≤ 3071 →
      field cmd.payload 24 8 * nsSt = b →
      field cmd.payload 8 8 * nsSt + field cmd.payload 16 2 % 4096 = x →
      b % (s.clock t).spanLenAt b = 0 →
      s.instant t < b →
      x < timeLimit * nsSt →
      s.isRoot = true →
      (s.clock t).afterCommit ≤ b →
      s.instant t + max (10 * s.spanLen) (10 * msSt) ≤ b →
      s.time.steps.any (·.b == b) = false →
      (¬(x < b ∧ s.time.epoch = 0xFFFF)) →
      Acts (.timeStep t mb cmd) s fun u =>
        u.time.steps = s.time.steps ++ [⟨b, s.time.epoch, true, x, none⟩] ∧
        Emits (.control 0xFFFF [6, s.time.epoch, b, 1, unsgn 96 x]) s u ∧
        Owed cmd (s.sentBy t mb cmd) (BitVec.ofNat 64 (tbNs b)) u) ∧
    (∀ (mb : Mb) (cmd : Cmd) (i : Nat),
      Served s t mb cmd 24 .n →
      (1 ≤ field cmd.payload 10 1 % 8 ∧ field cmd.payload 10 1 % 8 ≤ 4) →
      field cmd.payload 8 2 % 4096 ≤ 3071 →
      field cmd.payload 0 8 < timeLimit →
      (field cmd.payload 20 4 = 0 ∨ 1000 ≤ field cmd.payload 20 4) →
      s.emptyEntry = some i →
      (s.clock t).commitAt + 10 * usSt ≤ field cmd.payload 0 8 * nsSt + field cmd.payload 8 2 % 4096 →
      Acts (.schedule t mb cmd) s fun u =>
        (u.actOf i).armed = true ∧
        u.get P.ACT_TIME_TIME_NS i = field cmd.payload 0 8 ∧
        u.get P.ACT_CFG_KIND i = field cmd.payload 10 1 % 8 ∧
        u.get P.ACT_STATUS_STATE i = 1 ∧
        Owed cmd (s.sentBy t mb cmd) (BitVec.ofNat 64 i) u) ∧
    -- No entry is empty.
    (∀ (mb : Mb) (cmd : Cmd),
      Served s t mb cmd 24 .n →
      s.emptyEntry = none →
      Acts (.schedule t mb cmd) s fun u =>
        u.time.act = s.time.act ∧
        u.mbox.wait = s.mbox.wait)

/-- For every state that holds no whole-device reset: a load of a verified image fills its slot and gives its bytes, and a failed one leaves it invalid with source 238; SLOT_SELECT sets the boot slot; at boot the selected slot starts, else the other with source 237, and where neither verifies abutment mode begins with source 227; SVN_COMMIT raises the minimum and drops slots below it; OWNER_REQUIRE and OWNER_LOCK change with source 240 where they may, and without the lease each of the three is denied, counted, and raises source 225. (R361, R394, R398, R409, R464, R465, R466, R467, R468, R469) -/
def Obligations.FirmwareCommandsComplete : Prop :=
  ∀ (s : State) (t : Tm), s.pwr.por = false →
    (∀ (mb : Mb) (cmd : Cmd) (image : Image) (read : ReadEnd) (i bytes : Nat),
      Served s t mb cmd 24 .p →
      field cmd.payload 0 1 = i →
      field cmd.payload 16 8 = bytes →
      i < 2 →
      field cmd.payload 8 8 % 4096 = 0 →
      bytes ≤ 4194304 →
      s.slotRuns i = false →
      read = .ok →
      s.verifies image = true →
      Acts (.fwLoad t mb cmd image read) s fun u =>
        (u.slotOf i).ok = true ∧
        (u.slotOf i).image = image ∧
        u.host.dmaRd = (s.host.dmaRd + bytes) % 2 ^ 64 ∧
        Owed cmd (s.sentBy t mb cmd) (BitVec.ofNat 64 bytes) u) ∧
    -- An image that fails its checks.
    (∀ (mb : Mb) (cmd : Cmd) (image : Image) (read : ReadEnd) (i bytes : Nat),
      Served s t mb cmd 24 .p →
      field cmd.payload 0 1 = i →
      field cmd.payload 16 8 = bytes →
      i < 2 →
      field cmd.payload 8 8 % 4096 = 0 →
      bytes ≤ 4194304 →
      s.slotRuns i = false →
      read = .ok →
      s.verifies image = false →
      Acts (.fwLoad t mb cmd image read) s fun u =>
        (u.slotOf i).ok = false ∧
        u.mbox.wait = s.mbox.wait ∧
        Raised 238 u) ∧
    (∀ (mb : Mb) (cmd : Cmd),
      Served s t mb cmd 1 .p →
      field cmd.payload 0 1 < 2 →
      Acts (.slotSelect t mb cmd) s fun u =>
        u.get P.SEC_STATUS_BOOT_SEL 0 = field cmd.payload 0 1 ∧
        Owed cmd (s.sentBy t mb cmd) 0 u) ∧
    -- The selected slot.
    (∀ (slotA slotB : Image),
      s.core.booted = 0 →
      s.leased = false →
      s.abut = false →
      s.pwr.refWait = false →
      s.get P.SEC_STATUS_BOOT_SEL 0 = 0 →
      s.verifies slotA = true →
      Acts (.bootVerify t slotA slotB) s fun u =>
        u.core.booted = 1 ∧
        u.flag P.SEC_STATUS_FALLBACK 0 = false ∧
        u.get P.SEC_SVN_RUNNING 0 = slotA.svn % 65536 ∧
        u.host.fwVersion = slotA.version) ∧
    -- The other slot.
    (∀ (slotA slotB : Image),
      s.core.booted = 0 →
      s.leased = false →
      s.abut = false →
      s.pwr.refWait = false →
      s.get P.SEC_STATUS_BOOT_SEL 0 = 0 →
      s.verifies slotA = false →
      s.verifies slotB = true →
      Acts (.bootVerify t slotA slotB) s fun u =>
        u.core.booted = 2 ∧
        u.flag P.SEC_STATUS_FALLBACK 0 = true ∧
        Raised 237 u) ∧
    -- Neither.
    (∀ (slotA slotB : Image),
      s.core.booted = 0 →
      s.leased = false →
      s.abut = false →
      s.pwr.refWait = false →
      s.verifies slotA = false →
      s.verifies slotB = false →
      s.get P.SEC_STATUS_BOOT_SEL 0 ≤ 1 →
      Acts (.bootVerify t slotA slotB) s fun u =>
        u.abut = true ∧
        u.core.cause = 2 ∧
        Raised 227 u) ∧
    (∀ (m : Nat),
      s.leased = true →
      max (s.get P.SEC_SVN_MIN 0) (s.get P.SEC_SVN_RUNNING 0) = m →
      Acts (.svnCommit t) s fun u =>
        u.get P.SEC_SVN_MIN 0 = m ∧
        (∀ i ∈ ([0, 1] : List Nat), (u.slotOf i).ok = true → m ≤ (u.slotOf i).image.svn)) ∧
    -- Without the lease.
    (s.leased = false →
      Acts (.svnCommit t) s fun u =>
        u.sec = s.sec ∧
        u.get P.SEC_SVN_MIN 0 = s.get P.SEC_SVN_MIN 0 ∧
        u.core.denied = satTo 32 (s.core.denied + 1) ∧
        Raised 225 u) ∧
    (∀ (on : Bool),
      s.leased = true →
      s.ownerLocked = false →
      (on = true → 0 < s.core.booted ∧ s.ownerPair (s.slotOf (s.core.booted - 1)).image = true) →
      s.ownerRequired ≠ on →
      Acts (.ownerRequireWrite t on) s fun u =>
        u.ownerRequired = on ∧
        u.flag P.SEC_STATUS_OWNER_REQUIRED 0 = on ∧
        Raised 240 u) ∧
    -- Without the lease.
    (∀ (on : Bool),
      s.leased = false →
      Acts (.ownerRequireWrite t on) s fun u =>
        u.ownerRequired = s.ownerRequired ∧
        u.core.denied = satTo 32 (s.core.denied + 1) ∧
        Raised 225 u) ∧
    -- A locked owner.
    (∀ (on : Bool),
      s.leased = true →
      s.ownerLocked = true →
      Acts (.ownerRequireWrite t on) s fun u =>
        u = s.clock t) ∧
    -- Without the lease the write is denied, counted, and raises source 225.
    (s.leased = false →
      Acts (.ownerLockWrite t) s fun u =>
        u.sec = s.sec ∧
        u.ownerLocked = s.ownerLocked ∧
        u.core.denied = satTo 32 (s.core.denied + 1) ∧
        Raised 225 u) ∧
    (s.leased = true →
      s.ownerRequired = true →
      s.ownerLocked = false →
      Acts (.ownerLockWrite t) s fun u =>
        u.ownerLocked = true ∧
        u.flag P.SEC_STATUS_OWNER_LOCKED 0 = true ∧
        Raised 240 u)

/-- For every state that holds no whole-device reset, and every command that the lease holder takes for execution: NONCE answers 48 bytes of entropy that the mailbox holds for 60 s; every token consumes it, an invalid one raises source 239 and has no effect, and a valid one clears the log with source 236, writes or reads a test word, or arms an inject; ATTEST takes the next signature index and answers the signed report within its rate; REC_READ answers whole records in index order. (R432, R433, R434, R454, R456, R470, R472, R473, R474, R475, R476) -/
def Obligations.TokenCommandsComplete : Prop :=
  ∀ (s : State) (t : Tm), s.pwr.por = false →
    (∀ (mb : Mb) (cmd : Cmd),
      Served s t mb cmd 0 .r →
      Acts (.nonce t mb cmd) s fun u =>
        (u.nonceOf (s.sentBy t mb cmd).mb = some ⟨(upTo 48).map fun i => Config.entropy s.free i, s.instant t + 60 * secSt⟩) ∧
        (u = (((s.met t mb cmd).fresh.setNonce (s.sentBy t mb cmd).mb (some ⟨(upTo 48).map fun i => Config.entropy s.free i, s.instant t + 60 * secSt⟩)).bump
          P.MB_STATS_COMMANDS (s.sentBy t mb cmd).mb).post (cmd.post (s.sentBy t mb cmd) stOk 0 ((upTo 48).map fun i => Config.entropy s.free i) true)) ∧
        u.free = s.free + 1) ∧
    (∀ (mb : Mb) (n : Nonce),
      s.nonceOf mb = some n →
      n.until_ ≤ s.instant t →
      Acts (.nonceExpire t mb) s fun u =>
        u.nonceOf mb = none) ∧
    (∀ (mb : Mb) (cmd : Cmd) (q : Nat),
      Served s t mb cmd 48 .r →
      s.get P.SEC_HSS_NEXT 0 = q →
      s.sec.keyLost = false →
      q < hssCount →
      secSt ≤ (s.clock t).attestLevel →
      Acts (.attest t mb cmd) s fun u =>
        u.get P.SEC_HSS_NEXT 0 = q + 1 ∧
        Tbl.get (0, true) u.sec.hssRing ((q + 1) % 256) = (q + 1, true) ∧
        u.sec.burst = (s.clock t).attestLevel - secSt ∧
        (s.sentBy t mb cmd = ⟨3, 0xFFFF, 0⟩ → u.mbox.resp3 = ((s.clock t).report (cmd.payload.take 48) q (cmd.respAddr != 0)).take (respLimit cmd))) ∧
    (∀ (mb : Mb) (cmd : Cmd) (all : List LogRec) (out : List LogRec),
      Served s t mb cmd 12 .r →
      s.recReadable (field cmd.payload 0 8) = all →
      takeRecs all (field cmd.payload 8 4) = out →
      Acts (.recRead t mb cmd) s fun u =>
        (u = ((s.met t mb cmd).bump P.MB_STATS_COMMANDS (s.sentBy t mb cmd).mb).post
          (cmd.post (s.sentBy t mb cmd) stOk (BitVec.ofNat 64 (if out.length < all.length then (match out.getLast? with | some r => r.index + 1 | none => field cmd.payload 0 8) else (Regs.word s.regs P.REC_NEXT_INDEX_INDEX 0).toNat)) (out.flatMap LogRec.encode) true))) ∧
    (∀ (mb : Mb) (cmd : Cmd) (sigOk valid : Bool),
      Served s t mb cmd 208 .p →
      s.recd.clears.length < clearMax →
      Acts (.recClear t mb cmd sigOk) s fun u =>
        ((s.clock t).tokenValid (s.sentBy t mb cmd).mb (cmd.payload.take 208) sigOk = valid → valid = true → Raised 236 u ∧ u.recd.audit = []) ∧
        ((s.clock t).tokenValid (s.sentBy t mb cmd).mb (cmd.payload.take 208) sigOk = valid → valid = false → Raised 239 u ∧ u.mbox.wait = s.mbox.wait) ∧
        u.nonceOf (s.sentBy t mb cmd).mb = none) ∧
    (∀ (mb : Mb) (cmd : Cmd) (sigOk : Bool) (m w : Nat),
      Served s t mb cmd 240 .d →
      field ((cmd.payload.drop 208).take 32) 0 1 = 1 →
      field ((cmd.payload.drop 208).take 32) 1 1 = m →
      field ((cmd.payload.drop 208).take 32) 4 4 = w →
      m ≤ 16 →
      w ≤ 7 →
      Acts (.checkerWriteRaw t mb cmd sigOk) s fun u =>
        ((s.clock t).tokenValid (s.sentBy t mb cmd).mb (cmd.payload.take 208) sigOk = true →
          u.testWord m w = (field ((cmd.payload.drop 208).take 32) 8 8, field ((cmd.payload.drop 208).take 32) 16 8 % 2 ^ checkBits m)) ∧
        ((s.clock t).tokenValid (s.sentBy t mb cmd).mb (cmd.payload.take 208) sigOk = false → Raised 239 u ∧ u.mbox.testRow = s.mbox.testRow) ∧
        u.nonceOf (s.sentBy t mb cmd).mb = none) ∧
    (∀ (mb : Mb) (cmd : Cmd) (sigOk : Bool) (m w : Nat),
      Served s t mb cmd 240 .d →
      field ((cmd.payload.drop 208).take 32) 0 1 = 2 →
      field ((cmd.payload.drop 208).take 32) 1 1 = m →
      field ((cmd.payload.drop 208).take 32) 4 4 = w →
      m ≤ 16 →
      w ≤ 7 →
      Acts (.checkerReadRaw t mb cmd sigOk) s fun u =>
        ((s.clock t).tokenValid (s.sentBy t mb cmd).mb (cmd.payload.take 208) sigOk = true →
          u.mbox.wait.getLast?.map (·.response) = some (s.rawAnswer m w)) ∧
        ((s.clock t).tokenValid (s.sentBy t mb cmd).mb (cmd.payload.take 208) sigOk = false → Raised 239 u) ∧
        u.mbox.testRow = s.mbox.testRow ∧
        u.nonceOf (s.sentBy t mb cmd).mb = none) ∧
    (∀ (mb : Mb) (cmd : Cmd) (sigOk : Bool) (m w : Nat),
      Served s t mb cmd 240 .d →
      field ((cmd.payload.drop 208).take 32) 0 1 = 3 →
      field ((cmd.payload.drop 208).take 32) 1 1 = m →
      field ((cmd.payload.drop 208).take 32) 4 4 = w →
      injectable m = true →
      s.mbox.injected = none →
      Acts (.checkerInject t mb cmd sigOk) s fun u =>
        ((s.clock t).tokenValid (s.sentBy t mb cmd).mb (cmd.payload.take 208) sigOk = true →
          u.mbox.injected = some (m, w, field ((cmd.payload.drop 208).take 32) 24 8) ∧ u.flag P.MEM_INJECT_ARMED 0 = true ∧ u.get P.MEM_INJECT_MEMORY 0 = m) ∧
        ((s.clock t).tokenValid (s.sentBy t mb cmd).mb (cmd.payload.take 208) sigOk = false → Raised 239 u ∧ u.mbox.injected = none) ∧
        u.nonceOf (s.sentBy t mb cmd).mb = none)

/-- For every state that holds no whole-device reset: a scrub read advances the scrubber and the last of a pass counts the pass; a corrected word counts, an uncorrectable one is counted with its address and source 233, in a pier's memory with a fault in its health word; an uncorrectable MRAM word of a slot invalidates the slot, and of both copies of a key loses the key with source 241, while a corrected one only counts; an armed inject becomes a flaw of the next word written. (R425, R426, R427, R428, R430, R434, R461) -/
def Obligations.MemoryErrorsComplete : Prop :=
  ∀ (s : State) (t : Tm), s.pwr.por = false →
    (∀ (memory : Fin 19) (addr : Nat) (result : Fin 3) (written : Bool),
      scrubbed memory = true →
      s.flag P.MEM_SCRUB_ENABLE 0 = true →
      s.flag P.THERM_STATUS_THROTTLED 0 = false →
      s.mem.scrubDue ≤ s.instant t →
      s.mem.scrubAt + 1 < scrubWords →
      Acts (.sramScrubRead t memory addr result written) s fun u =>
        u.mem.scrubAt = s.mem.scrubAt + 1 ∧
        (result = 1 → u.get P.MEM_ERR_CE memory = satTo P.MEM_ERR_CE.width (s.get P.MEM_ERR_CE memory + 1)) ∧
        (result = 2 → u.get P.MEM_ERR_UE memory = satTo P.MEM_ERR_UE.width (s.get P.MEM_ERR_UE memory + 1) ∧ u.get P.MEM_UE_ADDR_ADDR memory = addr % 2 ^ P.MEM_UE_ADDR_ADDR.width) ∧
        (result = 2 → Raised 233 u)) ∧
    -- The last word of a pass.
    (∀ (memory : Fin 19) (addr : Nat) (result : Fin 3) (written : Bool),
      scrubbed memory = true →
      s.flag P.MEM_SCRUB_ENABLE 0 = true →
      s.flag P.THERM_STATUS_THROTTLED 0 = false →
      s.mem.scrubDue ≤ s.instant t →
      scrubWords ≤ s.mem.scrubAt + 1 →
      Acts (.sramScrubRead t memory addr result written) s fun u =>
        u.mem.scrubAt = 0 ∧
        u.get P.MEM_SCRUB_STATUS_PASSES 0 = satTo P.MEM_SCRUB_STATUS_PASSES.width (s.get P.MEM_SCRUB_STATUS_PASSES 0 + 1)) ∧
    -- A pier's memory, of the pier without the lease.
    (∀ (memory : Fin 19) (addr : Nat) (result : Fin 3) (written : Bool),
      memory.val < 4 →
      s.core.holder ≠ memory.val / 2 + 1 →
      s.flag P.MEM_SCRUB_ENABLE 0 = true →
      s.flag P.THERM_STATUS_THROTTLED 0 = false →
      s.mem.scrubDue ≤ s.instant t →
      result = 2 →
      Acts (.sramScrubRead t memory addr result written) s fun u =>
        (u.pierOf (memory.val / 2)).word = (s.pierOf (memory.val / 2)).word % 2 ^ 24 + max 1 ((s.pierOf (memory.val / 2)).word / 2 ^ 24) * 2 ^ 24 ∧
        Raised 233 u) ∧
    (∀ (loc : MramWhere) (result : Fin 3) (b : Bool),
      s.flag P.THERM_STATUS_THROTTLED 0 = false →
      s.sec.scrubDue ≤ s.instant t →
      loc = .slot b →
      result = 2 →
      Acts (.mramScrubRead t loc result) s fun u =>
        (u.slotOf (b2n b)).ok = false ∧
        u.get P.MEM_ERR_UE 18 = satTo P.MEM_ERR_UE.width (s.get P.MEM_ERR_UE 18 + 1) ∧
        Raised 233 u) ∧
    -- Both copies of a key.
    (∀ (loc : MramWhere) (result : Fin 3),
      s.flag P.THERM_STATUS_THROTTLED 0 = false →
      s.sec.scrubDue ≤ s.instant t →
      loc = .key true →
      result = 2 →
      Acts (.mramScrubRead t loc result) s fun u =>
        u.sec.keyLost = true ∧
        u.flag P.SEC_STATUS_KEY_LOST 0 = true ∧
        Raised 241 u) ∧
    -- A corrected word.
    (∀ (loc : MramWhere) (result : Fin 3),
      s.flag P.THERM_STATUS_THROTTLED 0 = false →
      s.sec.scrubDue ≤ s.instant t →
      result = 1 →
      Acts (.mramScrubRead t loc result) s fun u =>
        u.get P.MEM_ERR_CE 18 = satTo P.MEM_ERR_CE.width (s.get P.MEM_ERR_CE 18 + 1) ∧
        u.sec = { s.sec with scrubDue := u.sec.scrubDue }) ∧
    (∀ (m w flip a : Nat),
      s.mbox.injected = some (m, w, flip) →
      s.newestAt m = some a →
      popCount flip ≠ 0 →
      Acts (.injectApply t) s fun u =>
        u.mem.flaws = s.mem.flaws ++ [⟨m, a, w, decide (2 ≤ popCount flip)⟩] ∧
        u.mbox.injected = none ∧
        u.flag P.MEM_INJECT_ARMED 0 = false)

/-- For every state that holds no whole-device reset: a long pulse on POR_N holds the device in reset with its outputs low and no HVSET pulse and its log and slots kept, and a short one is ignored; a known reference releases the piers, and a later change raises source 245 and leaves a clock that follows it in holdover with source 40; a PLL's lock shows, the core PLL's in FAB_CLOCK too; losing the core PLL and a brown-out restart the device with their cause; a rail that leaves its tolerance raises source 244; an over-light line is released below its limit and trips above it; temperature flags follow their thresholds with sources 242 and 243; a thermal shutdown holds the device in reset, the third within an hour until POR_N. (R57, R481, R482, R483, R484, R485, R486, R487, R491, R492, R493, R495) -/
def Obligations.PowerCompletes : Prop :=
  ∀ (s : State) (t : Tm), s.pwr.por = false →
    (∀ (width : Nat) (p : Pin),
      porReset ≤ width →
      p ∈ resetPins →
      Acts (.porNAssert t width) s fun u =>
        u.pwr.por = true ∧
        u.get P.START_STATUS_CAUSE 0 = 0 ∧
        Emits (.pin p false) s u ∧
        (∀ tile : Tile, Emits (.hvset tile (hvWidths 0)) s u) ∧
        u.recd.segs = s.recd.segs ∧
        u.sec.slot = s.sec.slot ∧
        u.pwr.shutdowns = []) ∧
    -- A glitch.
    (∀ (width : Nat),
      width < porIgnored →
      Acts (.porNAssert t width) s fun u =>
        u = s.clock t) ∧
    -- The device waits for a reference.
    (∀ (count : Nat),
      s.pwr.refWait = true →
      refKind count ≠ 0 →
      Acts (.clkrefClassify t count) s fun u =>
        u.pwr.refWait = false ∧
        u.get P.START_STATUS_REF_KIND 0 = refKind count ∧
        (u.pierOf 0).held = false ∧
        (u.pierOf 1).held = false) ∧
    -- A later change.
    (∀ (count : Nat),
      s.pwr.refWait = false →
      s.get P.START_STATUS_REF_KIND 0 ≠ refKind count →
      Acts (.clkrefClassify t count) s fun u =>
        u.get P.START_STATUS_REF_KIND 0 = refKind count ∧
        Raised 245 u ∧
        (s.get P.FAB_CLOCK_SOURCE 0 = 0 → u.get P.FAB_CLOCK_SOURCE 0 = 2 ∧ Raised 40 u)) ∧
    (∀ (pll : Fin 5),
      (pll.val < 2 → s.pwr.refWait = false) →
      ((pll.val = 2 ∨ pll.val = 3) → s.pwr.pll.getLsbD 1 = true) →
      Acts (.pllLock t pll) s fun u =>
        u.pwr.pll.getLsbD pll = true ∧
        (pll = 1 → u.flag P.FAB_CLOCK_LOCKED 0 = true)) ∧
    (Acts (.corePllLockLoss t) s fun u =>
        u.get P.START_STATUS_CAUSE 0 = 4 ∧
        u.pwr.por = false ∧
        u.core.ks = 1 ∧
        u.core.holder = 0 ∧
        u.recd.segs = s.recd.segs) ∧
    (∀ (rail : Fin 9) (out : Bool),
      Acts (.railOutOfTolerance t rail out) s fun u =>
        ((s.get P.RAIL_STATUS_OUT 0).testBit rail = false → out = true → Raised 244 u) ∧
        (u.get P.RAIL_STATUS_OUT 0).testBit rail = out) ∧
    (∀ (rail : Fin 9),
      Acts (.brownOut t rail) s fun u =>
        u.get P.START_STATUS_CAUSE 0 = 1 ∧
        u.get P.START_STATUS_RAIL 0 = rail.val ∧
        u.pwr.por = false ∧
        u.core.holder = 0) ∧
    (∀ (tile : Tile) (sum : Nat),
      (s.fe tile).overlightN = false →
      s.tripped tile = false →
      (s.get P.RAIL_STATUS_OUT 0).testBit 8 = false →
      100 * usSt ≤ (s.clock t).time.up →
      sum < s.tripLimit tile →
      Acts (.overlightRelease t tile sum) s fun u =>
        (u.fe tile).overlightN = true ∧
        Emits (.pin (.overlightN tile) true) s u ∧
        u.tripped tile = false) ∧
    -- Above the limit.
    (∀ (tile : Tile) (sum : Nat),
      (s.fe tile).overlightN = false →
      s.tripped tile = false →
      (s.get P.RAIL_STATUS_OUT 0).testBit 8 = false →
      100 * usSt ≤ (s.clock t).time.up →
      s.tripLimit tile < sum →
      Acts (.overlightRelease t tile sum) s fun u =>
        u.tripped tile = true ∧
        (u.fe tile).overlightN = false ∧
        Raised (97 + 2 * tile.val) u) ∧
    (∀ (sensor : Fin 17) (temp hot : Int),
      hottest (Tbl.insert temp s.pwr.sensors sensor) = some hot →
      Acts (.thermalReading t sensor temp) s fun u =>
        u.int P.THERM_STATUS_TJ_MAX 0 = max (-32768) (min 32767 hot) ∧
        u.flag P.THERM_STATUS_WARN 0 = (decide (10 * (s.get P.THERM_CFG_WARN_C 0 : Int) < hot) ||
          (s.flag P.THERM_STATUS_WARN 0 && decide (10 * (s.get P.THERM_CFG_WARN_C 0 : Int) - 10 * (s.get P.THERM_CFG_HYST_K 0 : Int) < hot))) ∧
        (u.flag P.THERM_STATUS_WARN 0 = true → s.flag P.THERM_STATUS_WARN 0 = false → Raised 242 u) ∧
        u.flag P.THERM_STATUS_THROTTLED 0 = (decide (10 * (s.get P.THERM_CFG_THROTTLE_C 0 : Int) < hot) ||
          (s.flag P.THERM_STATUS_THROTTLED 0 && decide (10 * (s.get P.THERM_CFG_THROTTLE_C 0 : Int) - 10 * (s.get P.THERM_CFG_HYST_K 0 : Int) < hot))) ∧
        (u.flag P.THERM_STATUS_THROTTLED 0 ≠ s.flag P.THERM_STATUS_THROTTLED 0 → Raised 243 u)) ∧
    (Acts (.thermalShutdown t) s fun u =>
        u.pwr.por = true ∧
        u.pwr.shutdownHeld = true ∧
        u.get P.START_STATUS_CAUSE 0 = 3 ∧
        (u.pwr.locked = decide (3 ≤ ((s.pwr.shutdowns.filter fun x => decide ((s.clock t).keystoneTime < x + 3600 * secSt)).length + 1))) ∧
        u.core.holder = 0)

/-- For every state that holds a whole-device reset: releasing POR_N begins the start-up unless a thermal shutdown holds it, and that one's release begins it unless the shutdown has locked. (R409, R482, R483, R493) -/
def Obligations.HeldResetReleases : Prop :=
  ∀ (s : State) (t : Tm), s.pwr.por = true →
    (s.pwr.shutdownHeld = false →
      Acts (.porNRelease t) s fun u =>
        u.pwr.por = false ∧
        u.core.ks = 1 ∧
        u.core.bootAt = s.time.up) ∧
    (s.pwr.shutdownHeld = true →
      s.pwr.locked = false →
      Acts (.thermalShutdownRelease t) s fun u =>
        u.pwr.por = false ∧
        u.pwr.shutdownHeld = false ∧
        u.core.ks = 1) ∧
    (s.pwr.shutdownHeld = true →
      Acts (.porNRelease t) s fun u =>
        u = s)

/-- For every command c, every queue rest cs and every state s: a step of s with c in front of cs is exec of c on s with cs as its queue; with an empty queue the block idles (log entry 4: the queue is the model's own, the choice is the model's). (R386, R306) -/
def Obligations.StepTakesTheFrontCommand : Prop :=
  ∀ (c : Instr) (cs : List Instr) (s : State),
    step { s with pending := c :: cs } = exec c { s with pending := cs } ∧ step { s with pending := [] } = .next { s with pending := [] }

/-- For every command and every state, held in reset or not, in abutment or not, with any operands: exec answers a next state (never a fault, never a refusal), and the queue of that state is the queue it was given, so a step consumes exactly the command it runs. (R16, R17, R18, R21, R483) -/
def Obligations.CommandsAnswerAndKeepTheQueue : Prop :=
  ∀ (c : Instr) (s : State), (∃ u, exec c s = .next u ∧ u.pending = s.pending) ∧
    (∀ cs, s.pending = c :: cs → ∃ u, step s = .next u ∧ u.pending = cs)

/-- From every state whose DDR5 bytes and press-buffer bytes are in canonical form (addresses strictly rising, no entry equal to what an unlisted address reads as), every step leads to a state where they are; the default that a change of DDR_MAP brings is the one the form is judged by. (R239, R339, R341, R343, R398) -/
def Obligations.MemoryStaysCanonical : Prop :=
  ∀ s u : State, s.MemoryCanonical → step s = .next u → u.MemoryCanonical

/-- For every state in which no adoption of the own or a lower epoch is pending, and every command: the next state has a later epoch, or the same epoch and no earlier instant, unless a whole-device reset has set the time base back to its reset state. (R29, R306, R316, R320, R321, R483) -/
def Obligations.TimeNeverRunsBack : Prop :=
  ∀ (c : Instr) (s u : State),
    (∀ p ∈ s.time.steps, ∀ e, p.adopt = some e → s.time.epoch < e) →
    exec c s = .next u →
      s.time.epoch < u.time.epoch ∨
      (u.time.epoch = s.time.epoch ∧ s.time.now ≤ u.time.now) ∨
      (u.time.now = 0 ∧ u.time.epoch = 0 ∧ u.time.set = false ∧ u.core.holder = 0)

/-- In every state that holds a whole-device reset, every command but POR_N's two edges, the release of a thermal shutdown and an edge of a BLANK pin leaves the state as it is, and an edge of a BLANK pin changes nothing but the level on that pin; a low pulse on POR_N shorter than the filter leaves it too, and a long one keeps it held, with every tile's over-light line low, the trims at 0, HVSET without a pulse and no pier holding the lease. (R409, R482, R483, R484, R493) -/
def Obligations.HeldResetIgnoresCommands : Prop :=
  ∀ s : State, s.pwr.por = true →
    (∀ c : Instr, (∀ t w, c ≠ .porNAssert t w) → (∀ t, c ≠ .porNRelease t) → (∀ t, c ≠ .thermalShutdownRelease t) →
      (∀ t p l, c ≠ .blankPinEdge t p l) → exec c s = .next s) ∧
    (∀ t l, exec (.blankPinEdge t 0 l) s = .next { s with afe := { s.afe with pin0 := l } }) ∧
    (∀ t l, exec (.blankPinEdge t 1 l) s = .next { s with afe := { s.afe with pin1 := l } }) ∧
    (∀ t w, w < porIgnored → exec (.porNAssert t w) s = .next s) ∧
    (∀ t w, porReset ≤ w → Acts (.porNAssert t w) s fun u =>
      u.pwr.por = true ∧ u.core.holder = 0 ∧
        (∀ tile : Tile, (u.fe tile).overlightN = false ∧ (u.fe tile).common = 0) ∧
        (∀ ch : Ch, u.get P.TRIM_NOW_CODE ch = 0) ∧
        (∀ p ∈ resetPins, Emits (.pin p false) s u) ∧
        (∀ tile : Tile, Emits (.hvset tile (hvWidths 0)) s u))

/-- Right after reset the queue and the byte memories are empty and canonical, no pier holds the lease, every event source is clear and masked, the mailboxes are disabled, every over-light line is low and every trim at 0, time is unset, and the parameters that the rules give a default have it: BLANK_MAX 10,000 µs, FLOOR_NA 20 nA, CHOP_EN 1, LOOP_PERIOD 100 µs, JUMP_NS 200 ns, AVG 16, PPM 100, OUT_WIDTH 100 ms, PEAKING 3 ns. (R36, R40, R42, R56, R134, R315, R316, R328, R365, R378, R409, R484) -/
def Obligations.ResetState : Prop :=
  State.reset.pending = [] ∧ State.reset.ddr.mem = [] ∧ State.reset.press.buf = [] ∧ State.reset.MemoryCanonical ∧
    State.reset.core.holder = 0 ∧ State.reset.leased = false ∧
    State.reset.ev.host = 0 ∧ State.reset.ev.mask = BitVec.allOnes 256 ∧
    State.reset.time.now = 0 ∧ State.reset.time.epoch = 0 ∧ State.reset.get P.TIME_STATUS_STATE 0 = 0 ∧
    (∀ m : Fin 2, (State.reset.mbRegs m).ready = false ∧ (State.reset.mbRegs m).enable = false) ∧
    (∀ tile : Tile, (State.reset.fe tile).overlightN = false ∧ State.reset.tripped tile = false) ∧
    (∀ ch : Ch, State.reset.get P.TRIM_NOW_CODE ch = 0 ∧ State.reset.get P.FAST_CFG_PEAKING ch = 1) ∧
    State.reset.get P.BLANK_GUARD_BLANK_MAX 0 = 10000 ∧ State.reset.get P.LOOP_PERIOD_US 0 = 100 ∧
    State.reset.get P.TIME_JUMP_NS 0 = 200 ∧ State.reset.get P.TIME_SERVO_AVG 0 = 16 ∧
    State.reset.get P.TIME_SLEW_PPM 0 = 100 ∧ State.reset.get P.PPS_CFG_OUT_WIDTH 0 = 100 ∧
    (∀ ch : Ch, State.reset.get P.FLOOR_FLOOR_NA ch = 20 ∧ State.reset.flag P.SLOW_CFG_CHOP_EN ch = true)

/-- BLANK_MAX is 10,000 µs at reset. In every state that holds no whole-device reset, a conversion frozen for longer than BLANK_MAX ends without a result (no result word, no current, no monitoring record changes), the sequence goes on with the entry it had as its next (an urgent request that waits comes first), the abandoned count rises, and source 96 + 2t is raised; one frozen for no longer stays. (R56) -/
def Obligations.FrozenConversionIsAbandoned : Prop :=
  ∀ (s : State) (t : Tm), s.pwr.por = false →
    (∀ (tile : Tile) (c : Conv) (f : Tm),
      (s.hk tile).run = some c →
      c.frozenAt = some f →
      f + s.get P.BLANK_GUARD_BLANK_MAX 0 * usSt < s.instant t →
      Acts (.blankMaxAbandon t tile) s fun u =>
        State.reset.get P.BLANK_GUARD_BLANK_MAX 0 = 10000 ∧
        ((u.hk tile).run.map (fun d => (d.entry, d.input)) = (s.hk tile).urgent.head?.map (fun d => (255, d.input))) ∧
        (∀ j : Tile, ∀ i : Fin 24, u.get P.HK_RESULT_RESULT j i = s.get P.HK_RESULT_RESULT j i) ∧
        (∀ ch : Ch, u.get P.CUR_NOW_CURRENT ch = s.get P.CUR_NOW_CURRENT ch) ∧
        u.ctx.mon = s.ctx.mon ∧
        (u.hk tile).entry = (s.hk tile).entry ∧
        (u.hk tile).passAt = (s.hk tile).passAt ∧
        u.get P.BLANK_INT_ABANDONED 0 = satTo P.BLANK_INT_ABANDONED.width (s.get P.BLANK_INT_ABANDONED 0 + 1) ∧
        Raised (96 + 2 * tile.val) u) ∧
    -- One frozen for no longer.
    (∀ (tile : Tile) (c : Conv) (f : Tm),
      (s.hk tile).run = some c →
      c.frozenAt = some f →
      s.instant t ≤ f + s.get P.BLANK_GUARD_BLANK_MAX 0 * usSt →
      Acts (.blankMaxAbandon t tile) s fun u =>
        u = s.clock t)

/-- In every state that holds no whole-device reset: a hit's leading count is the first core-clock edge strictly after its raw edge; its trailing edge closes it with the number of core-clock edges from there to the first one strictly after the trailing raw edge; when 4,095 is reached first, the hit closes at 4,095 with TOT_SAT; and a trailing edge that finds no open hit changes no hit and only re-arms the discriminator. (R97) -/
def Obligations.TimeOverThreshold : Prop :=
  ∀ (s : State) (t : Tm), s.pwr.por = false →
    -- The count of the leading edge.
    (∀ (ch : Ch) (code : BitVec 12),
      s.flag P.FAST_CFG_ENABLE ch = true →
      s.abut = false →
      ((s.td ch).last.all (fun l => decide (l + 3072 ≤ s.instant t)) = true) →
      Acts (.leadingEdge t ⟨ch, code⟩) s fun u =>
        (s.instant t < edge1 (s.instant t) ∧ edge1 (s.instant t) ≤ s.instant t + ccSt ∧ edge1 (s.instant t) % ccSt = 0) ∧
        ((u.td ch).open_.getLast?.map (fun h => (h.lead, h.trail)) = some (edge1 (s.instant t), none))) ∧
    -- The trailing edge.
    (∀ (ch : Ch) (h : HitSt),
      (s.td ch).open_.find? (·.trail.isNone) = some h →
      s.instant t < h.lead + 4095 * ccSt →
      Acts (.trailingEdge t ch) s fun u =>
        (u.feCh ch).high = false ∧
        { h with trail := some (s.instant t), totSat := false, tot := (edge1 (s.instant t) - h.lead) / ccSt } ∈ (u.td ch).open_) ∧
    -- Saturation.
    (∀ (ch : Ch) (h : HitSt),
      (s.td ch).open_.find? (·.trail.isNone) = some h →
      h.lead + 4095 * ccSt ≤ s.instant t →
      Acts (.totSaturate t ch) s fun u =>
        { h with trail := some (h.lead + 4095 * ccSt), totSat := true, tot := 4095 } ∈ (u.td ch).open_ ∧
        (∀ y ∈ (u.td ch).open_, y.trail ≠ none)) ∧
    -- A later trailing edge.
    (∀ (ch : Ch),
      ((s.td ch).open_.all (fun h => h.trail.isSome) = true) →
      Acts (.trailingEdge t ch) s fun u =>
        (u.feCh ch).high = false ∧
        (u.feCh ch).dac = none ∧
        (∀ c : Ch, u.td c = s.td c) ∧
        Only [.afe, .tdc] [] (s.clock t) u)

/-- For every state, context, buffer and fill: writing the buffer back raises source 208 + NOTIFY and clears ARM where the context has NOTIFY_EN = 1 and ARM set, and raises nothing and leaves ARM where it does not; the host reads the context's consumer index past that buffer. (R214) -/
def Obligations.WriteBackNotifies : Prop :=
  ∀ (s : State) (c : Ctx) (b : Buf) (used : Nat) (flushed : Bool),
    (s.flag P.CTX_CFG_NOTIFY_EN c = true → (s.ctxOf c).arm = true →
      Raised (208 + s.get P.CTX_CFG_NOTIFY c) (s.bufBack c b used flushed) ∧ ((s.bufBack c b used flushed).ctxOf c).arm = false) ∧
    (¬(s.flag P.CTX_CFG_NOTIFY_EN c = true ∧ (s.ctxOf c).arm = true) →
      (s.bufBack c b used flushed).ev = s.ev ∧ ((s.bufBack c b used flushed).ctxOf c).arm = (s.ctxOf c).arm) ∧
    ((s.ctxOf c).bufs.length ≤ 1 → ((s.bufBack c b used flushed).ctxOf c).cons = (b.index + 1) % 65536)

/-- In every state that holds no whole-device reset: a visit's result, a broken channel's return, a trip clear, a trip limit, a conversion's start, an edge, a gauge edge, an output pulse, an action's arming, a loop's computation, a context's doorbell and notification, a lane's lock, a mailbox's doorbell, a nonce's expiry and a sensor's reading change nothing of the other channels, tiles, gauges, outputs, entries, loops, contexts, lanes, mailboxes and sensors. (R43, R47, R57, R60, R79, R86, R101, R135, R214, R291, R327, R475) -/
def Obligations.InstancesStayApart : Prop :=
  ∀ (s : State) (t : Tm), s.pwr.por = false →
    (∀ (tile : Tile) (i : Nat) (ire iim : Int) (half1 half2 : Nat),
      (s.fe tile).visit = some i →
      i < 16 →
      Acts (.impedanceVisitResult t tile ire iim half1 half2) s fun u =>
        (∀ c : Ch, c.val ≠ 16 * tile.val + i → u.get P.IMP_C_CAP c = s.get P.IMP_C_CAP c ∧ u.get P.IMP_RES_RES c = s.get P.IMP_RES_RES c) ∧
        (∀ j : Tile, j ≠ tile → u.fe j = s.fe j)) ∧
    (∀ (ch : Ch),
      Acts (.channelRestore t ch) s fun u =>
        (∀ c : Ch, c ≠ ch → u.flag P.CH_STATUS_BROKEN c = s.flag P.CH_STATUS_BROKEN c ∧ (c.val ∈ u.afe.back → c.val ∈ s.afe.back))) ∧
    (∀ (tile : Tile) (limit : BitVec 16),
      Acts (.tripLimitWrite t tile limit) s fun u =>
        (∀ j : Tile, j ≠ tile → u.get P.TRIP_LIMIT_LIMIT j = s.get P.TRIP_LIMIT_LIMIT j ∧ u.fe j = s.fe j) ∧
        (∀ j : Tile, u.get P.TRIP_FUSED_FUSED j = s.get P.TRIP_FUSED_FUSED j)) ∧
    (∀ (tile : Tile),
      Acts (.tripClear t tile) s fun u =>
        (∀ j : Tile, j ≠ tile → u.tripped j = s.tripped j ∧ u.fe j = s.fe j ∧ u.flag P.LOOP_STATUS_TRIP_HELD j = s.flag P.LOOP_STATUS_TRIP_HELD j)) ∧
    (∀ (tile : Tile),
      Acts (.hkEntryStart t tile) s fun u =>
        (∀ j : Tile, j ≠ tile → u.hk j = s.hk j)) ∧
    (∀ (ch : Ch) (code : BitVec 12),
      Acts (.leadingEdge t ⟨ch, code⟩) s fun u =>
        (∀ c : Ch, c ≠ ch → u.td c = s.td c ∧ u.feCh c = s.feCh c ∧ u.pair c = s.pair c)) ∧
    (∀ (g : Fin 8) (rising : Bool) (code : BitVec 12),
      Acts (.gaugeEdge t ⟨g, rising, code⟩) s fun u =>
        (∀ j : Fin 8, j ≠ g → u.gauge j = s.gauge j) ∧
        (∀ c : Ch, u.td c = s.td c ∧ u.pair c = s.pair c)) ∧
    (∀ (x : Fin 8),
      Acts (.toutPulse t x) s fun u =>
        (∀ j : Fin 8, j ≠ x → u.toutOf j = s.toutOf j ∧ u.get P.TOUT_STATUS_PULSES j = s.get P.TOUT_STATUS_PULSES j)) ∧
    (∀ (entry : Fin 64) (value : BitVec 32),
      Acts (.actCfgArm t entry value) s fun u =>
        (∀ j : Fin 64, j ≠ entry → u.actOf j = s.actOf j ∧ u.get P.ACT_CFG_KIND j = s.get P.ACT_CFG_KIND j ∧ u.get P.ACT_STATUS_STATE j = s.get P.ACT_STATUS_STATE j)) ∧
    (∀ (tile : Tile),
      Acts (.loopCompute t tile) s fun u =>
        (∀ j : Tile, j ≠ tile → u.lp j = s.lp j)) ∧
    (∀ (ctx : Ctx) (prod : BitVec 16),
      Acts (.ctxDoorbellWrite t ctx prod) s fun u =>
        (∀ j : Ctx, j ≠ ctx → u.ctxOf j = s.ctxOf j)) ∧
    (∀ (ctx : Ctx),
      Acts (.ctxNotifyArm t ctx) s fun u =>
        (∀ j : Ctx, j ≠ ctx → u.ctxOf j = s.ctxOf j)) ∧
    (∀ (lane : Lane),
      Acts (.laneBlockLock t lane) s fun u =>
        (∀ l : Lane, l ≠ lane → u.laneState l = s.laneState l ∧ u.laneOf l = s.laneOf l)) ∧
    (∀ (mb : Fin 2) (prod : BitVec 16),
      Acts (.mbDoorbellWrite t mb prod) s fun u =>
        (∀ j : Fin 2, j ≠ mb → u.mbRegs j = s.mbRegs j)) ∧
    (∀ (mb : Mb),
      Acts (.nonceExpire t mb) s fun u =>
        (∀ j : Mb, j ≠ mb → u.nonceOf j = s.nonceOf j)) ∧
    (∀ (sensor : Fin 17) (temp : Int),
      Acts (.thermalReading t sensor temp) s fun u =>
        (∀ j : Fin 17, j ≠ sensor → Tbl.get 0 u.pwr.sensors j = Tbl.get 0 s.pwr.sensors j))

/-- In every state that holds no whole-device reset: MEM_WRITE changes no byte outside the range its payload names, PRESS_BUF_WRITE none outside its own, a press job's end none outside its output at its destination (in the memory that its destination names alone), a context's unit and a coalescer's flush none outside the context's region from its base on (a DDR5 destination alone); reads, refreshes, panics, scrubs, retraining, alerts, fences, module temperatures, memory restarts and deferred starts change none. (R208, R210, R237, R239, R240, R341, R347, R351, R352, R398, R399, R439) -/
def Obligations.MemoryBytesOutsideStoresStay : Prop :=
  ∀ (s u : State) (t : Tm), s.pwr.por = false →
    (∀ (mb : Mb) (cmd : Cmd), exec (.memWrite t mb cmd) s = .next u →
      (∀ a, a < (s.area (field cmd.payload 0 1)).1 + field cmd.payload 8 8 ∨
        (s.area (field cmd.payload 0 1)).1 + field cmd.payload 8 8 + field cmd.payload 16 4 ≤ a → u.ddrByte a = s.ddrByte a) ∧
      ∀ a, u.pressByte a = s.pressByte a) ∧
    (∀ (mb : Mb) (cmd : Cmd), exec (.pressBufWrite t mb cmd) s = .next u →
      (∀ a, a < field cmd.payload 0 4 ∨ field cmd.payload 0 4 + (cmd.length - 8) ≤ a → u.pressByte a = s.pressByte a) ∧
      ∀ a, u.ddrByte a = s.ddrByte a) ∧
    (∀ (engine : Fin 6) (input : List Byte) (poisoned memError : Bool) (j : Job),
      exec (.pressJobComplete t engine input poisoned memError) s = .next u → Tbl.get none s.press.run engine = some j →
      (∀ a, j.dstKind ≠ 1 ∨ a < j.dst ∨ j.dst + ((s.clock t).jobEnd j input poisoned memError).out.flatten.length ≤ a →
        u.ddrByte a = s.ddrByte a) ∧
      ∀ a, j.dstKind ≠ 2 ∨ a < j.dst ∨ j.dst + ((s.clock t).jobEnd j input poisoned memError).out.flatten.length ≤ a →
        u.pressByte a = s.pressByte a) ∧
    (∀ (link : Fin 6) (x : CtxUnit), exec (.unitTransferComplete t link) s = .next u →
      (s.clock t).nextUnit link (s.flight link) [] = some x →
      (∀ a, link.val ≠ 5 ∨ a < s.regionBase x.ctx ∨
        s.regionBase x.ctx + max (s.regionSize x.ctx) ((s.ctxOf x.ctx).tailUnit.length + x.data.length) ≤ a → u.ddrByte a = s.ddrByte a) ∧
      ∀ a, u.pressByte a = s.pressByte a) ∧
    (∀ (ctx : Ctx), exec (.coalescerTimeout t ctx) s = .next u →
      (∀ a, s.linkOf ctx ≠ some 5 ∨ a < s.regionBase ctx ∨
        s.regionBase ctx + max (s.regionSize ctx) (s.ctxOf ctx).tailUnit.length ≤ a → u.ddrByte a = s.ddrByte a) ∧
      ∀ a, u.pressByte a = s.pressByte a) ∧
    (∀ (mb : Mb) (cmd : Cmd) (bad : List Nat) (ch : DdrCh) (n addr : Nat) (temp : Int) (yes : Bool) (act : Fin 8)
        (tries : List (Fin 3)) (result : Fin 3) (device : Fin 20) (rank : Fin 8),
      ∀ c ∈ ([.memRead t mb cmd bad, .regionRead t mb cmd bad, .memRestart t mb cmd, .panicBegin t ch n, .refreshRepay t ch,
          .ddrReadComplete t ch addr tries device rank, .ddrScrubRead t addr result yes, .ddrRetrainStep t ch yes,
          .ddrAlert t ch yes n, .ddrFence t, .spdTempRead t ch temp, .maintDeferredStart t act n] : List Instr),
        exec c s = .next u → (∀ a, u.ddrByte a = s.ddrByte a) ∧ ∀ a, u.pressByte a = s.pressByte a)

/-- Frames: `Only ps rs` names the parts of the state and the firmware parameters that may change. (R7, R17, R40, R62, R79, R86, R104, R306, R329, R443) -/
def Obligations.FrontEndFrames : Prop :=
  ∀ (s u : State) (t : Tm), s.pwr.por = false →
    (∀ (edge : ChEdge), exec (.leadingEdge t edge) s = .next u →
        Only [.afe, .dig, .tdc, .ctx] [P.TDC_CNT_MERGED.pid] (s.clock t) u) ∧
    (∀ (ch : Ch), exec (.trailingEdge t ch) s = .next u →
        Only [.afe, .tdc] [] (s.clock t) u) ∧
    (∀ (ch : Ch), exec (.totSaturate t ch) s = .next u →
        Only [.afe, .tdc] [] (s.clock t) u) ∧
    (∀ (unit : Fin 271) (ip : Fin 2), exec (.interpolatorFree t unit ip) s = .next u →
        Only [.tdc] [] (s.clock t) u) ∧
    (∀ (ch : Ch) (window : List Lvl), exec (.hitComplete t ch window) s = .next u →
        Only [.dig, .tdc, .deck] [] (s.clock t) u) ∧
    (exec (.blockIntervalStart t) s = .next u →
        Only [.tdc, .ctx] [] (s.clock t) u) ∧
    (∀ (ch : Ch), exec (.hitBlockEmit t ch) s = .next u →
        Only [.tdc, .deck] [] (s.clock t) u) ∧
    (∀ (tile : Tile), exec (.hkPassStart t tile) s = .next u →
        Only [.dig] [P.HK_STATUS_SKIPPED.pid] (s.clock t) u) ∧
    (∀ (tile : Tile), exec (.hkEntryStart t tile) s = .next u →
        Only [.afe, .dig] [P.HK_STATUS_SKIPPED.pid, P.SETTLE_CNT_RESTARTS.pid] (s.clock t) u) ∧
    (∀ (tile : Tile) (sum : Nat) (sumQ : Nat) (ends : HkEnds), exec (.hkConversionComplete t tile sum sumQ ends) s = .next u →
        Only [.ev, .recd, .afe, .dig, .loop, .ctx, .out] [P.CUR_NOW_CURRENT.pid, P.CH_STATUS_FLOOR_PART.pid, P.HK_STATUS_SKIPPED.pid, P.HK_RESULT_RESULT.pid,
          0x02000181, 0x02000182, 0x02000183, 0x02000184, 0x02000185, 0x02000186, 0x02000187, 0x02000188, 0x02000189,
          0x0200018A, 0x0200018B, 0x0200018C, 0x0200018D, 0x0200018E, 0x0200018F, 0x02000190, 0x02000191, 0x02000192,
          0x02000193, 0x02000194, 0x02000195, 0x02000196, 0x02000197, P.SETTLE_CNT_RESTARTS.pid,
          P.CTX_STATUS_STATE.pid, P.MON_STATUS_USED_KIB.pid, P.REC_STATUS_DROPPED_RATE.pid, P.REC_NEXT_INDEX_INDEX.pid] (s.clock t) u) ∧
    (∀ (tile : Tile) (input : Fin 24) (avg : Fin 8) (shift : Fin 9), exec (.hkUrgentRequest t tile input avg shift) s = .next u →
        Only [.afe, .dig] [P.HK_STATUS_SKIPPED.pid, P.SETTLE_CNT_RESTARTS.pid] (s.clock t) u) ∧
    (∀ (tile : Tile), exec (.impedanceSlotStart t tile) s = .next u →
        Only [.ev, .recd, .afe, .core, .out] [P.MAINT_STATUS_STATE.pid, P.REC_STATUS_DROPPED_RATE.pid, P.REC_NEXT_INDEX_INDEX.pid] (s.clock t) u) ∧
    (∀ (tile : Tile) (ire iim : Int) (half1 half2 : Nat), exec (.impedanceVisitResult t tile ire iim half1 half2) s = .next u →
        Only [.ev, .recd, .afe, .core, .out] [P.CH_STATUS_FLOOR_PART.pid, P.IMP_C_CAP.pid, P.IMP_RES_RES.pid, P.MAINT_STATUS_STATE.pid,
          P.MAINT_LAST_TIME_NS.pid, P.REC_STATUS_DROPPED_RATE.pid, P.REC_NEXT_INDEX_INDEX.pid] (s.clock t) u) ∧
    (∀ (tile : Tile), exec (.settleWindowExpire t tile) s = .next u →
        Only [.afe] [] (s.clock t) u) ∧
    (∀ (pin : Fin 2) (level : Bool), exec (.blankPinEdge t pin level) s = .next u →
        Only [.time, .afe, .dig] [P.CH_STATUS_FLOOR_PART.pid, P.SETTLE_CNT_RESTARTS.pid] (s.clock t) u) ∧
    (∀ (tile : Tile), exec (.blankGuardExpire t tile) s = .next u →
        Only [.afe, .dig] [P.CH_STATUS_FLOOR_PART.pid] (s.clock t) u) ∧
    (∀ (tile : Tile), exec (.conversionResume t tile) s = .next u →
        Only [.afe, .dig] [P.SETTLE_CNT_RESTARTS.pid] (s.clock t) u) ∧
    (∀ (tile : Tile), exec (.blankMaxAbandon t tile) s = .next u →
        Only [.ev, .recd, .dig, .out] [P.BLANK_INT_PULSER.pid, P.HK_STATUS_SKIPPED.pid, P.REC_STATUS_DROPPED_RATE.pid, P.REC_NEXT_INDEX_INDEX.pid] (s.clock t) u) ∧
    (∀ (tile : Tile) (sum : Nat), exec (.tileCurrentCross t tile sum) s = .next u →
        Only [.afe] [] (s.clock t) u) ∧
    (∀ (tile : Tile), exec (.glitchFilterExpire t tile) s = .next u →
        Only [.time, .ev, .recd, .afe, .loop, .core, .out] [P.HVSET_DUTY_DUTY.pid, P.TRIP_STATUS_TRIPPED.pid, P.LOOP_MODE_MODE.pid, P.MAN_U_U.pid,
          P.LOOP_STATUS_MODE_NOW.pid, P.LOOP_OUT_U.pid, P.MAINT_STATUS_STATE.pid, P.MAINT_LAST_TIME_NS.pid,
          P.REC_STATUS_DROPPED_RATE.pid, P.REC_NEXT_INDEX_INDEX.pid] (s.clock t) u) ∧
    (∀ (tile : Tile), exec (.tripRampDone t tile) s = .next u →
        Only [.afe, .dig] [P.TRIM_NOW_CODE.pid, P.CH_STATUS_FLOOR_PART.pid, P.SETTLE_CNT_RESTARTS.pid] (s.clock t) u) ∧
    (∀ (tile : Tile), exec (.tripClear t tile) s = .next u →
        Only [.afe, .dig, .out] [P.TRIM_NOW_CODE.pid, P.CH_STATUS_FLOOR_PART.pid, P.TRIP_STATUS_TRIPPED.pid, P.LOOP_STATUS_MODE_NOW.pid,
          P.SETTLE_CNT_RESTARTS.pid] (s.clock t) u) ∧
    (∀ (tile : Tile) (limit : BitVec 16), exec (.tripLimitWrite t tile limit) s = .next u →
        Only [.afe] [P.TRIP_LIMIT_LIMIT.pid] (s.clock t) u) ∧
    (∀ (ch : Ch), exec (.channelRestore t ch) s = .next u →
        Only [.afe] [P.CH_STATUS_FLOOR_PART.pid] (s.clock t) u) ∧
    (∀ (tile : Tile), exec (.rotationStart t tile) s = .next u →
        Only [.ev, .recd, .dig, .core, .out] [P.ROT_STATUS_STATE.pid, P.MAINT_STATUS_STATE.pid, P.REC_STATUS_DROPPED_RATE.pid, P.REC_NEXT_INDEX_INDEX.pid] (s.clock t) u) ∧
    (∀ (tile : Tile) (mean : Int) (rms : Nat), exec (.sliceMatchComplete t tile mean rms) s = .next u →
        Only [.ev, .recd, .dig, .core, .out] [P.SLICE_STATUS_SOURCE.pid, P.SLICE_CORR_OFFSET.pid, P.MATCH_LAST_MEAN.pid, P.ROT_STATUS_STATE.pid,
          P.MAINT_STATUS_STATE.pid, P.MAINT_LAST_TIME_NS.pid, P.REC_STATUS_DROPPED_RATE.pid, P.REC_NEXT_INDEX_INDEX.pid] (s.clock t) u) ∧
    (∀ (tile : Tile) (slice : Fin 17) (high low : SliceFit) (expected : Nat) (bins : BinCounts), exec (.sliceCalibrationComplete t tile slice high low expected bins) s = .next u →
        Only [.ev, .recd, .dig, .core, .out] [P.SLICE_STATUS_SOURCE.pid, P.SLICE_CORR_OFFSET.pid, P.ROT_STATUS_STATE.pid, P.MAINT_STATUS_STATE.pid,
          P.MAINT_LAST_TIME_NS.pid, P.REC_STATUS_DROPPED_RATE.pid, P.REC_NEXT_INDEX_INDEX.pid] (s.clock t) u) ∧
    (∀ (unit : Fin 268), exec (.tdcCalVisitStart t unit) s = .next u →
        Only [.ev, .recd, .tdc, .mbox, .core, .out] [P.MAINT_STATUS_STATE.pid, P.REC_STATUS_DROPPED_RATE.pid, P.REC_NEXT_INDEX_INDEX.pid] (s.clock t) u) ∧
    (∀ (unit : Fin 271) (test : TestCode), exec (.testConversionStart t unit test) s = .next u →
        Only [.tdc] [] (s.clock t) u) ∧
    (∀ (unit : Fin 268) (codesA codesB : List (BitVec 12)) (codesPair : List (BitVec 12 × BitVec 12)), exec (.tdcCalVisitComplete t unit codesA codesB codesPair) s = .next u →
        Only [.ev, .recd, .tdc, .core, .out] [P.TDC_CAL_STATUS_CAL_VALID.pid, P.TDC_CAL_RESULT_INL_A.pid, P.MAINT_STATUS_STATE.pid,
          P.MAINT_LAST_TIME_NS.pid, P.REC_STATUS_DROPPED_RATE.pid, P.REC_NEXT_INDEX_INDEX.pid] (s.clock t) u) ∧
    (∀ (unit : Fin 268), exec (.tdcCalVisitTimeout t unit) s = .next u →
        Only [.tdc, .core] [P.MAINT_STATUS_STATE.pid, P.MAINT_LAST_TIME_NS.pid] (s.clock t) u) ∧
    (∀ (ch : Ch), exec (.transferStale t ch) s = .next u →
        Only [.tdc] [P.TDC_CAL_STATUS_CAL_VALID.pid] (s.clock t) u) ∧
    (∀ (unit : Fin 268), exec (.dllLockLoss t unit) s = .next u →
        Only [.ev, .recd, .tdc, .core, .out] [P.DLL_STATUS_LOCKED.pid, P.MAINT_STATUS_STATE.pid, P.MAINT_LAST_TIME_NS.pid, P.REC_STATUS_DROPPED_RATE.pid,
          P.REC_NEXT_INDEX_INDEX.pid] (s.clock t) u) ∧
    (∀ (unit : Fin 268), exec (.dllRelock t unit) s = .next u →
        Only [.tdc] [P.DLL_STATUS_LOCKED.pid] (s.clock t) u) ∧
    (∀ (edge : GaugeIn), exec (.gaugeEdge t edge) s = .next u →
        Only [.tdc] [] (s.clock t) u) ∧
    (∀ (g : Fin 8), exec (.gaugeGateEnd t g) s = .next u →
        Only [.ev, .recd, .tdc, .ctx, .out] [P.TDC_CAL_STATUS_CAL_VALID.pid, P.GAUGE_STATUS_RUNNING.pid, P.GAUGE_FREQ_FREQ.pid, P.GAUGE_MEAN_MEAN.pid,
          P.CTX_STATUS_STATE.pid, P.MON_STATUS_USED_KIB.pid, P.REC_STATUS_DROPPED_RATE.pid, P.REC_NEXT_INDEX_INDEX.pid] (s.clock t) u) ∧
    (exec (.loopPeriodStart t) s = .next u →
        Only [.dig, .loop] [P.HVSET_DUTY_DUTY.pid, P.HK_STATUS_SKIPPED.pid, P.MAN_U_U.pid, P.LOOP_STATUS_MODE_NOW.pid] (s.clock t) u) ∧
    (∀ (tile : Tile), exec (.loopCompute t tile) s = .next u →
        Only [.ev, .recd, .loop, .out] [P.LOOP_OUTLIER_MASK.pid, P.LOOP_STATUS_MODE_NOW.pid, P.REC_STATUS_DROPPED_RATE.pid, P.REC_NEXT_INDEX_INDEX.pid] (s.clock t) u) ∧
    (exec (.loopOutputApply t) s = .next u →
        Only [.ev, .recd, .afe, .dig, .loop, .ctx, .out] [P.TRIM_NOW_CODE.pid, P.CH_STATUS_FLOOR_PART.pid, P.LOOP_STATUS_MODE_NOW.pid, P.LOOP_OUT_U.pid,
          P.SETTLE_CNT_RESTARTS.pid, P.CTX_STATUS_STATE.pid, P.MON_STATUS_USED_KIB.pid, P.REC_STATUS_DROPPED_RATE.pid,
          P.REC_NEXT_INDEX_INDEX.pid] (s.clock t) u) ∧
    (∀ (tile : Tile), exec (.curHoldExpire t tile) s = .next u →
        Only [.ev, .recd, .out] [P.LOOP_STATUS_MODE_NOW.pid, P.REC_STATUS_DROPPED_RATE.pid, P.REC_NEXT_INDEX_INDEX.pid] (s.clock t) u) ∧
    (∀ (port : Port) (msg : TimeMsg), exec (.timeMessage t port msg) s = .next u →
        Only [.time, .tdc, .out] [] (s.clock t) u) ∧
    (∀ (port : Port) (ownPhase : Nat), exec (.syncExchangeComplete t port ownPhase) s = .next u →
        Only [.time, .ev, .recd, .out] [P.TIME_PORT_DELAY_DELAY.pid, P.TIME_STATUS_STATE.pid, P.TIME_OFFSET_ST.pid, P.REC_STATUS_DROPPED_RATE.pid,
          P.REC_NEXT_INDEX_INDEX.pid] (s.clock t) u) ∧
    (exec (.slewComplete t) s = .next u →
        Only [.time] [P.TIME_STATUS_STATE.pid] (s.clock t) u) ∧
    (exec (.holdoverEnter t) s = .next u →
        Only [.time, .ev, .recd, .out] [P.TIME_STATUS_STATE.pid, P.REC_STATUS_DROPPED_RATE.pid, P.REC_NEXT_INDEX_INDEX.pid] (s.clock t) u) ∧
    (∀ (edge : PinEdge), exec (.ppsInEdge t edge) s = .next u →
        Only [.time, .ev, .recd, .tdc, .out] [P.TIME_STATUS_STATE.pid, P.TIME_OFFSET_ST.pid, P.REC_STATUS_DROPPED_RATE.pid, P.REC_NEXT_INDEX_INDEX.pid] (s.clock t) u) ∧
    (exec (.ppsInMissing t) s = .next u →
        Only [.ev, .recd, .out] [P.TIME_STATUS_STATE.pid, P.REC_STATUS_DROPPED_RATE.pid, P.REC_NEXT_INDEX_INDEX.pid] (s.clock t) u) ∧
    (exec (.swapCutoff t) s = .next u →
        Only [.time] [] (s.clock t) u) ∧
    (∀ (armed : BitVec 8), exec (.swapCfgWrite t armed) s = .next u →
        Only [.time, .ev, .recd, .core, .out] [P.SWAP_CFG_ARMED.pid, P.REC_STATUS_DROPPED_RATE.pid, P.REC_NEXT_INDEX_INDEX.pid] (s.clock t) u) ∧
    (∀ (x : Fin 8), exec (.toutPulse t x) s = .next u →
        Only [.time, .out] [P.TOUT_STATUS_MISSED.pid] (s.clock t) u) ∧
    (exec (.ppsOutEdge t) s = .next u →
        Only [.time, .out] [] (s.clock t) u) ∧
    (∀ (entry : Fin 64) (value : BitVec 32), exec (.actCfgArm t entry value) s = .next u →
        Only [.time, .ev, .recd, .core, .out] [P.ACT_CFG_STITCH.pid, P.ACT_STATUS_STATE.pid, P.ACT_COUNTS_LATE.pid, P.REC_STATUS_DROPPED_RATE.pid,
          P.REC_NEXT_INDEX_INDEX.pid] (s.clock t) u) ∧
    (∀ (entry : Fin 64), exec (.actionPulser t entry) s = .next u →
        Only [.time, .afe, .dig, .out] [P.CH_STATUS_FLOOR_PART.pid, P.SETTLE_CNT_RESTARTS.pid, P.ACT_CFG_STITCH.pid, P.ACT_STATUS_STATE.pid,
          P.ACT_COUNTS_LATE.pid] (s.clock t) u) ∧
    (∀ (entry : Fin 64), exec (.actionToutPulse t entry) s = .next u →
        Only [.time, .afe, .dig, .out] [P.CH_STATUS_FLOOR_PART.pid, P.SETTLE_CNT_RESTARTS.pid, P.TOUT_STATUS_MISSED.pid, P.ACT_CFG_STITCH.pid,
          P.ACT_STATUS_STATE.pid, P.ACT_COUNTS_LATE.pid] (s.clock t) u) ∧
    (∀ (entry : Fin 64), exec (.actionSwapRelease t entry) s = .next u →
        Only [.time, .ev, .recd, .afe, .dig, .out] [P.CH_STATUS_FLOOR_PART.pid, P.SETTLE_CNT_RESTARTS.pid, P.ACT_CFG_STITCH.pid, P.ACT_STATUS_STATE.pid,
          P.ACT_COUNTS_LATE.pid, P.REC_STATUS_DROPPED_RATE.pid, P.REC_NEXT_INDEX_INDEX.pid] (s.clock t) u) ∧
    (∀ (entry : Fin 64), exec (.actionFirmware t entry) s = .next u →
        Only [.time, .ev, .recd, .afe, .dig, .out] [P.CH_STATUS_FLOOR_PART.pid, P.SETTLE_CNT_RESTARTS.pid, P.ACT_CFG_STITCH.pid, P.ACT_STATUS_STATE.pid,
          P.ACT_COUNTS_LATE.pid, P.REC_STATUS_DROPPED_RATE.pid, P.REC_NEXT_INDEX_INDEX.pid] (s.clock t) u) ∧
    (∀ (pier : Pier) (code : BitVec 16) (severity : Fin 8) (detail : List Byte), exec (.recOccurrence t pier code severity detail) s = .next u →
        Only [.ev, .recd, .core, .out] [P.REC_STATUS_DROPPED_RATE.pid, P.REC_NEXT_INDEX_INDEX.pid] (s.clock t) u) ∧
    (exec (.recRepeatExpire t) s = .next u →
        Only [.recd] [] (s.clock t) u) ∧
    (exec (.recMramWriteComplete t) s = .next u →
        Only [.ev, .recd, .ctx, .core, .out] [P.CTX_STATUS_STATE.pid, P.MON_STATUS_USED_KIB.pid, P.MAINT_STATUS_STATE.pid, P.MAINT_LAST_TIME_NS.pid,
          P.REC_STATUS_DROPPED_RATE.pid, P.REC_NEXT_INDEX_INDEX.pid, P.REC_OLDEST_INDEX.pid, P.REC_WEAR_LAPS.pid,
          P.REC_BUDGET_WORDS.pid] (s.clock t) u) ∧
    (exec (.recScan t) s = .next u →
        Only [.recd] [P.REC_OLDEST_INDEX.pid] (s.clock t) u) ∧
    (∀ (meas : SyncMeas), exec (.syncInterval t meas) s = .next u →
        Only [.time, .tdc, .out] [P.TDC_CAL_STATUS_CAL_VALID.pid] (s.clock t) u) ∧
    (∀ (epoch : Nat) (b : Tm) (toTarget : Bool) (val : Int), exec (.distributedStep t epoch b toTarget val) s = .next u →
        Only [.time, .ev, .recd, .out] [P.TIME_STATUS_STATE.pid, P.REC_STATUS_DROPPED_RATE.pid, P.REC_NEXT_INDEX_INDEX.pid] (s.clock t) u) ∧
    (∀ (x : Fin 8), exec (.toutPulseEnd t x) s = .next u →
        Only [.time, .out] [] (s.clock t) u) ∧
    (exec (.ppsOutFall t) s = .next u →
        Only [.time, .out] [] (s.clock t) u)

/-- Frames: `Only ps rs` names the parts of the state and the firmware parameters that may change. (R7, R16, R109, R123, R155, R178, R192, R206, R237) -/
def Obligations.EventPathFrames : Prop :=
  ∀ (s u : State) (t : Tm), s.pwr.por = false →
    (∀ (ch : Ch) (levels : List Lvl), exec (.conditionDecide t ch levels) s = .next u →
        Only [.ev, .recd, .tdc, .trg, .fab, .out] [P.COND_CNT_COUNT.pid, P.GROUP_CNT_COUNT.pid, P.TRIG_UNCOMP_COUNT.pid, P.FAB_PORT_DROP_VC0_DROPPED.pid,
          P.REC_STATUS_DROPPED_RATE.pid, P.REC_NEXT_INDEX_INDEX.pid] (s.clock t) u) ∧
    (∀ (ch : Ch), exec (.timeoutHighExpire t ch) s = .next u →
        Only [.tdc] [] (s.clock t) u) ∧
    (∀ (ch : Ch), exec (.quietTimeoutExpire t ch) s = .next u →
        Only [.tdc] [] (s.clock t) u) ∧
    (∀ (g : Fin 64), exec (.groupWindowClose t g) s = .next u →
        Only [.ev, .recd, .trg, .fab, .out] [P.GROUP_CNT_COUNT.pid, P.TRIG_UNCOMP_COUNT.pid, P.FAB_PORT_DROP_VC0_DROPPED.pid,
          P.REC_STATUS_DROPPED_RATE.pid, P.REC_NEXT_INDEX_INDEX.pid] (s.clock t) u) ∧
    (∀ (g : Fin 64) (n : Nat) (levels : List (Ch × Lvl)), exec (.groupSumComplete t g n levels) s = .next u →
        Only [.ev, .recd, .dig, .trg, .fab, .out] [P.RING_ERR_CE.pid, P.GROUP_CNT_COUNT.pid, P.TRIG_UNCOMP_COUNT.pid, P.FAB_PORT_DROP_VC0_DROPPED.pid,
          P.REC_STATUS_DROPPED_RATE.pid, P.REC_NEXT_INDEX_INDEX.pid] (s.clock t) u) ∧
    (∀ (port : Port) (parts : Vc0Parts), exec (.primitiveReceive t port parts) s = .next u →
        Only [.ev, .recd, .trg, .fab, .out] [P.TRIG_UNCOMP_COUNT.pid, P.FAB_PORT_DROP_VC0_DROPPED.pid, P.REC_STATUS_DROPPED_RATE.pid,
          P.REC_NEXT_INDEX_INDEX.pid] (s.clock t) u) ∧
    (∀ (origin seq : Nat), exec (.primitiveEqualised t origin seq) s = .next u →
        Only [.ev, .recd, .trg, .seam, .ctx, .fab, .out] [P.EXTRACT_STATUS_OUTSTANDING.pid, P.ACCEPT_STATUS_DUP.pid, P.TRIG_UNCOMP_COUNT.pid,
          P.EGRESS_STATUS_USED_KIB.pid, P.EGRESS_HOLDER_CONTEXT.pid, P.FAB_PORT_DROP_VC0_DROPPED.pid,
          P.FAB_PORT_CREDIT_VC2.pid, P.FAB_PORT_BYTES_TX.pid, P.REC_STATUS_DROPPED_RATE.pid, P.REC_NEXT_INDEX_INDEX.pid] (s.clock t) u) ∧
    (∀ (cls : Fin 16), exec (.rootWindowClose t cls) s = .next u →
        Only [.ev, .recd, .trg, .seam, .ctx, .fab, .out] [P.EXTRACT_STATUS_OUTSTANDING.pid, P.ACCEPT_STATUS_DUP.pid, P.TRIG_UNCOMP_COUNT.pid,
          P.EGRESS_STATUS_USED_KIB.pid, P.EGRESS_HOLDER_CONTEXT.pid, P.FAB_PORT_DROP_VC0_DROPPED.pid,
          P.FAB_PORT_CREDIT_VC2.pid, P.FAB_PORT_BYTES_TX.pid, P.REC_STATUS_DROPPED_RATE.pid, P.REC_NEXT_INDEX_INDEX.pid] (s.clock t) u) ∧
    (∀ (pin : Fin 2) (edge : PinEdge), exec (.trigInEdge t pin edge) s = .next u →
        Only [.ev, .recd, .tdc, .trg, .seam, .ctx, .fab, .out] [P.EXTRACT_STATUS_OUTSTANDING.pid, P.ACCEPT_STATUS_DUP.pid, P.TRIG_UNCOMP_COUNT.pid,
          P.EGRESS_STATUS_USED_KIB.pid, P.EGRESS_HOLDER_CONTEXT.pid, P.FAB_PORT_DROP_VC0_DROPPED.pid,
          P.FAB_PORT_CREDIT_VC2.pid, P.FAB_PORT_BYTES_TX.pid, P.REC_STATUS_DROPPED_RATE.pid, P.REC_NEXT_INDEX_INDEX.pid] (s.clock t) u) ∧
    (∀ (pin : Fin 2), exec (.trigOutPulseEnd t pin) s = .next u →
        Only [.trg, .out] [] (s.clock t) u) ∧
    (∀ (port : Port) (parts : Vc0Parts), exec (.acceptReceive t port parts) s = .next u →
        Only [.ev, .recd, .trg, .seam, .ctx, .fab, .out] [P.EXTRACT_STATUS_OUTSTANDING.pid, P.ACCEPT_STATUS_DUP.pid, P.TRIG_UNCOMP_COUNT.pid,
          P.EGRESS_STATUS_USED_KIB.pid, P.EGRESS_HOLDER_CONTEXT.pid, P.FAB_PORT_DROP_VC0_DROPPED.pid,
          P.FAB_PORT_CREDIT_VC2.pid, P.FAB_PORT_BYTES_TX.pid, P.FAB_ACCEPT_GAP_MISSED.pid,
          P.REC_STATUS_DROPPED_RATE.pid, P.REC_NEXT_INDEX_INDEX.pid] (s.clock t) u) ∧
    (exec (.extractionStart t) s = .next u →
        Only [.ev, .recd, .trg, .seam, .ctx, .fab, .out] [P.CLASS_LATE_LATE.pid, P.EXTRACT_STATUS_OUTSTANDING.pid, P.EGRESS_STATUS_USED_KIB.pid,
          P.EGRESS_HOLDER_CONTEXT.pid, P.FAB_PORT_CREDIT_VC2.pid, P.FAB_PORT_BYTES_TX.pid,
          P.REC_STATUS_DROPPED_RATE.pid, P.REC_NEXT_INDEX_INDEX.pid] (s.clock t) u) ∧
    (∀ (window : List (Ch × List Lvl)), exec (.extractionEnd t window) s = .next u →
        Only [.ev, .recd, .dig, .trg, .seam, .ctx, .fab, .out] [P.RING_ERR_CE.pid, P.CLASS_EVENTS_COUNT.pid, P.EXTRACT_STATUS_OUTSTANDING.pid, P.EGRESS_STATUS_USED_KIB.pid,
          P.EGRESS_HOLDER_CONTEXT.pid, P.FAB_PORT_CREDIT_VC2.pid, P.FAB_PORT_BYTES_TX.pid,
          P.REC_STATUS_DROPPED_RATE.pid, P.REC_NEXT_INDEX_INDEX.pid] (s.clock t) u) ∧
    (∀ (bytes : Nat), exec (.eventBufferSpace t bytes) s = .next u →
        Only [.ev, .recd, .trg, .seam, .ctx, .fab, .out] [P.CLASS_LATE_LATE.pid, P.EXTRACT_STATUS_OUTSTANDING.pid, P.EGRESS_STATUS_USED_KIB.pid,
          P.EGRESS_HOLDER_CONTEXT.pid, P.FAB_PORT_CREDIT_VC2.pid, P.FAB_PORT_BYTES_TX.pid,
          P.REC_STATUS_DROPPED_RATE.pid, P.REC_NEXT_INDEX_INDEX.pid] (s.clock t) u) ∧
    (exec (.extractionDrop t) s = .next u →
        Only [.ev, .recd, .trg, .seam, .ctx, .fab, .out] [P.CLASS_LATE_LATE.pid, P.EXTRACT_STATUS_OUTSTANDING.pid, P.EGRESS_STATUS_USED_KIB.pid,
          P.EGRESS_HOLDER_CONTEXT.pid, P.FAB_PORT_CREDIT_VC2.pid, P.FAB_PORT_BYTES_TX.pid,
          P.REC_STATUS_DROPPED_RATE.pid, P.REC_NEXT_INDEX_INDEX.pid] (s.clock t) u) ∧
    (∀ (acceptId : Nat) (cls : Fin 16), exec (.deckReplyToExtractor t acceptId cls) s = .next u →
        Only [.ev, .recd, .trg, .deck, .seam, .ctx, .fab, .out] [P.CLASS_EVENTS_COUNT.pid, P.CLASS_LATE_LATE.pid, P.HOLD_STATE_STATE.pid, P.HOLD_POS_TIME_NS.pid,
          P.DECK_STATUS_ONLINE.pid, P.EGRESS_STATUS_USED_KIB.pid, P.EGRESS_HOLDER_CONTEXT.pid,
          P.FAB_PORT_CREDIT_VC2.pid, P.FAB_PORT_BYTES_TX.pid, P.REC_STATUS_DROPPED_RATE.pid, P.REC_NEXT_INDEX_INDEX.pid] (s.clock t) u) ∧
    (∀ (ch : Ch) (hitTb : Tm) (levels : List Lvl), exec (.snippetRead t ch hitTb levels) s = .next u →
        Only [.ev, .recd, .dig, .deck, .ctx, .out] [P.RING_ERR_CE.pid, P.REC_STATUS_DROPPED_RATE.pid, P.REC_NEXT_INDEX_INDEX.pid] (s.clock t) u) ∧
    (exec (.deckWriteInterval t) s = .next u →
        Only [.ev, .recd, .deck, .ctx, .ddr, .core, .mem, .out] [P.DECK_CH_THIN_THINNED.pid, P.HOLD_STATE_STATE.pid, P.HOLD_POS_TIME_NS.pid, P.DECK_STATUS_ONLINE.pid,
          P.DECK_WOFF_OFFSET.pid, P.DECK_OLDEST_TIME_NS.pid, P.DECK_OLDEST_EPOCH_EPOCH.pid, P.DECK_WPOINT_TIME_NS.pid,
          P.DECK_COUNTS_OVERTAKEN.pid, P.DECK_DEPTH_MS.pid, P.MEM_ERR_CE.pid, P.MEM_UE_ADDR_ADDR.pid,
          P.REC_STATUS_DROPPED_RATE.pid, P.REC_NEXT_INDEX_INDEX.pid] (s.clock t) u) ∧
    (∀ (ctx : Ctx) (desc : List Byte), exec (.rewindRequest t ctx desc) s = .next u →
        Only [.ev, .recd, .deck, .ctx, .out] [P.HOLD_STATE_STATE.pid, P.HOLD_POS_TIME_NS.pid, P.DECK_STATUS_ONLINE.pid, P.DECK_COUNTS_OVERTAKEN.pid,
          P.CTX_STATUS_STATE.pid, P.REC_STATUS_DROPPED_RATE.pid, P.REC_NEXT_INDEX_INDEX.pid] (s.clock t) u) ∧
    (∀ (sid : Fin 128), exec (.deckSessionOpen t sid) s = .next u →
        Only [.ev, .recd, .trg, .deck, .ctx, .out] [P.EXTRACT_STATUS_OUTSTANDING.pid, P.HOLD_STATE_STATE.pid, P.HOLD_POS_TIME_NS.pid, P.DECK_STATUS_ONLINE.pid,
          P.DECK_COUNTS_OVERTAKEN.pid, P.CTX_STATUS_STATE.pid, P.REC_STATUS_DROPPED_RATE.pid, P.REC_NEXT_INDEX_INDEX.pid] (s.clock t) u) ∧
    (∀ (sid : Fin 128) (poison : Poison), exec (.deckReadComplete t sid poison) s = .next u →
        Only [.ev, .recd, .deck, .ctx, .ddr, .out] [P.HOLD_STATE_STATE.pid, P.HOLD_POS_TIME_NS.pid, P.DECK_STATUS_ONLINE.pid, P.DECK_COUNTS_OVERTAKEN.pid,
          P.DECK_POISON_COUNT.pid, P.CTX_STATUS_STATE.pid, P.REC_STATUS_DROPPED_RATE.pid, P.REC_NEXT_INDEX_INDEX.pid] (s.clock t) u) ∧
    (∀ (sid : Fin 128), exec (.writePointAdvance t sid) s = .next u →
        Only [.deck] [P.DECK_STATUS_ONLINE.pid] (s.clock t) u) ∧
    (∀ (port : Port) (mark : Rec), exec (.hemMarkReceive t port mark) s = .next u →
        Only [.seam] [] (s.clock t) u) ∧
    (∀ (input : SeamIn), exec (.hemMarkApply t input) s = .next u →
        Only [.ev, .recd, .seam, .ctx, .fab, .out] [P.SEAM_IN_STATUS_STATE.pid, P.SEAM_IN_HEM_TIME_NS.pid, P.SEAM_IN_HEMX_EPOCH.pid, P.SEAM_IN_OCC_BYTES.pid,
          P.SEAM_IN_SPILL_KIB.pid, P.SEAM_RP_TIME_NS.pid, P.SEAM_RPX_EPOCH.pid, P.THIMBLE_STATUS_POOL_FREE_KIB.pid,
          P.SPILL_STATUS_USED_MIB.pid, P.SEAM_ERR_HEM_REJECTED.pid, P.EGRESS_HOLDER_CONTEXT.pid,
          P.FAB_PORT_CREDIT_VC2.pid, P.FAB_PORT_BYTES_TX.pid, P.REC_STATUS_DROPPED_RATE.pid, P.REC_NEXT_INDEX_INDEX.pid] (s.clock t) u) ∧
    (exec (.hemMarkPeriodic t) s = .next u →
        Only [.ev, .recd, .seam, .ctx, .fab, .out] [P.SEAM_IN_STATUS_STATE.pid, P.SEAM_IN_HEM_TIME_NS.pid, P.SEAM_IN_HEMX_EPOCH.pid, P.SEAM_IN_OCC_BYTES.pid,
          P.SEAM_IN_SPILL_KIB.pid, P.SEAM_RP_TIME_NS.pid, P.SEAM_RPX_EPOCH.pid, P.THIMBLE_STATUS_POOL_FREE_KIB.pid,
          P.SPILL_STATUS_USED_MIB.pid, P.EGRESS_HOLDER_CONTEXT.pid, P.FAB_PORT_CREDIT_VC2.pid, P.FAB_PORT_BYTES_TX.pid,
          P.REC_STATUS_DROPPED_RATE.pid, P.REC_NEXT_INDEX_INDEX.pid] (s.clock t) u) ∧
    (exec (.hemMarkGapExpire t) s = .next u →
        Only [.ev, .recd, .seam, .ctx, .fab, .out] [P.SEAM_IN_STATUS_STATE.pid, P.SEAM_IN_HEM_TIME_NS.pid, P.SEAM_IN_HEMX_EPOCH.pid, P.SEAM_IN_OCC_BYTES.pid,
          P.SEAM_IN_SPILL_KIB.pid, P.SEAM_RP_TIME_NS.pid, P.SEAM_RPX_EPOCH.pid, P.THIMBLE_STATUS_POOL_FREE_KIB.pid,
          P.SPILL_STATUS_USED_MIB.pid, P.EGRESS_HOLDER_CONTEXT.pid, P.FAB_PORT_CREDIT_VC2.pid, P.FAB_PORT_BYTES_TX.pid,
          P.REC_STATUS_DROPPED_RATE.pid, P.REC_NEXT_INDEX_INDEX.pid] (s.clock t) u) ∧
    (∀ (input : SeamIn) (record : Rec), exec (.seamRecordArrive t input record) s = .next u →
        Only [.ev, .recd, .trg, .seam, .ctx, .fab, .core, .mem, .out] [P.SEAM_IN_STATUS_STATE.pid, P.SEAM_IN_HEM_TIME_NS.pid, P.SEAM_IN_HEMX_EPOCH.pid, P.SEAM_IN_OCC_BYTES.pid,
          P.SEAM_IN_SPILL_KIB.pid, P.SEAM_IN_COUNTS_FRAYS.pid, P.SEAM_IN_RECS_COUNT.pid, P.SEAM_RP_TIME_NS.pid,
          P.SEAM_RPX_EPOCH.pid, P.THIMBLE_STATUS_POOL_FREE_KIB.pid, P.SPILL_STATUS_USED_MIB.pid,
          P.SEAM_ERR_HEM_REJECTED.pid, P.EGRESS_STATUS_USED_KIB.pid, P.EGRESS_HOLDER_CONTEXT.pid,
          P.FAB_PORT_CREDIT_VC2.pid, P.FAB_PORT_BYTES_TX.pid, P.MEM_ERR_CE.pid, P.MEM_UE_ADDR_ADDR.pid,
          P.REC_STATUS_DROPPED_RATE.pid, P.REC_NEXT_INDEX_INDEX.pid] (s.clock t) u) ∧
    (exec (.seamRelease t) s = .next u →
        Only [.ev, .recd, .seam, .ctx, .fab, .core, .mem, .out] [P.SEAM_IN_STATUS_STATE.pid, P.SEAM_IN_HEM_TIME_NS.pid, P.SEAM_IN_HEMX_EPOCH.pid, P.SEAM_IN_OCC_BYTES.pid,
          P.SEAM_IN_SPILL_KIB.pid, P.SEAM_RP_TIME_NS.pid, P.SEAM_RPX_EPOCH.pid, P.THIMBLE_STATUS_POOL_FREE_KIB.pid,
          P.SPILL_STATUS_USED_MIB.pid, P.SEAM_OUT_RELEASED.pid, P.EGRESS_STATUS_USED_KIB.pid,
          P.EGRESS_HOLDER_CONTEXT.pid, P.FAB_PORT_CREDIT_VC2.pid, P.FAB_PORT_BYTES_TX.pid, P.MEM_ERR_CE.pid,
          P.MEM_UE_ADDR_ADDR.pid, P.REC_STATUS_DROPPED_RATE.pid, P.REC_NEXT_INDEX_INDEX.pid] (s.clock t) u) ∧
    (∀ (input : SeamIn), exec (.frayTimeout t input) s = .next u →
        Only [.ev, .recd, .seam, .ctx, .fab, .out] [P.SEAM_IN_STATUS_STATE.pid, P.SEAM_IN_HEM_TIME_NS.pid, P.SEAM_IN_HEMX_EPOCH.pid, P.SEAM_IN_OCC_BYTES.pid,
          P.SEAM_IN_SPILL_KIB.pid, P.SEAM_IN_COUNTS_FRAYS.pid, P.SEAM_RP_TIME_NS.pid, P.SEAM_RPX_EPOCH.pid,
          P.THIMBLE_STATUS_POOL_FREE_KIB.pid, P.SPILL_STATUS_USED_MIB.pid, P.EGRESS_STATUS_USED_KIB.pid,
          P.EGRESS_HOLDER_CONTEXT.pid, P.FAB_PORT_CREDIT_VC2.pid, P.FAB_PORT_BYTES_TX.pid,
          P.REC_STATUS_DROPPED_RATE.pid, P.REC_NEXT_INDEX_INDEX.pid] (s.clock t) u) ∧
    (∀ (input : SeamIn), exec (.spillWriteComplete t input) s = .next u →
        Only [.ev, .recd, .seam, .ctx, .fab, .ddr, .out] [P.SEAM_IN_STATUS_STATE.pid, P.SEAM_IN_HEM_TIME_NS.pid, P.SEAM_IN_HEMX_EPOCH.pid, P.SEAM_IN_OCC_BYTES.pid,
          P.SEAM_IN_SPILL_KIB.pid, P.SEAM_RP_TIME_NS.pid, P.SEAM_RPX_EPOCH.pid, P.THIMBLE_STATUS_POOL_FREE_KIB.pid,
          P.SPILL_STATUS_USED_MIB.pid, P.EGRESS_HOLDER_CONTEXT.pid, P.FAB_PORT_CREDIT_VC2.pid, P.FAB_PORT_BYTES_TX.pid,
          P.REC_STATUS_DROPPED_RATE.pid, P.REC_NEXT_INDEX_INDEX.pid] (s.clock t) u) ∧
    (∀ (input : SeamIn) (poison : Poison), exec (.spillReadback t input poison) s = .next u →
        Only [.ev, .recd, .seam, .ctx, .fab, .ddr, .out] [P.SEAM_IN_STATUS_STATE.pid, P.SEAM_IN_HEM_TIME_NS.pid, P.SEAM_IN_HEMX_EPOCH.pid, P.SEAM_IN_OCC_BYTES.pid,
          P.SEAM_IN_SPILL_KIB.pid, P.SEAM_IN_COUNTS_FRAYS.pid, P.SEAM_RP_TIME_NS.pid, P.SEAM_RPX_EPOCH.pid,
          P.THIMBLE_STATUS_POOL_FREE_KIB.pid, P.SPILL_STATUS_USED_MIB.pid, P.EGRESS_STATUS_USED_KIB.pid,
          P.EGRESS_HOLDER_CONTEXT.pid, P.FAB_PORT_CREDIT_VC2.pid, P.FAB_PORT_BYTES_TX.pid,
          P.REC_STATUS_DROPPED_RATE.pid, P.REC_NEXT_INDEX_INDEX.pid] (s.clock t) u) ∧
    (∀ (ctx : Ctx) (prod : BitVec 16), exec (.ctxDoorbellWrite t ctx prod) s = .next u →
        Only [.ev, .recd, .ctx, .out] [P.REC_STATUS_DROPPED_RATE.pid, P.REC_NEXT_INDEX_INDEX.pid] (s.clock t) u) ∧
    (∀ (ctx : Ctx) (prod : BitVec 16), exec (.ctxReqDoorbellWrite t ctx prod) s = .next u →
        Only [.ev, .recd, .ctx, .out] [P.REC_STATUS_DROPPED_RATE.pid, P.REC_NEXT_INDEX_INDEX.pid] (s.clock t) u) ∧
    (∀ (ctx : Ctx), exec (.ctxNotifyArm t ctx) s = .next u →
        Only [.ctx] [] (s.clock t) u) ∧
    (∀ (ctx : Ctx), exec (.ctxCreate t ctx) s = .next u →
        Only [.ev, .recd, .ctx, .out] [P.CTX_LINK_BOUND.pid, P.CTX_LINK_RATE_MBPS.pid, P.INBOUND_STATUS_RESERVED_KIB.pid,
          P.REC_STATUS_DROPPED_RATE.pid, P.REC_NEXT_INDEX_INDEX.pid] (s.clock t) u) ∧
    (∀ (ctx : Ctx), exec (.ctxDestroy t ctx) s = .next u →
        Only [.ev, .recd, .deck, .ctx, .out] [P.HOLD_STATE_STATE.pid, P.HOLD_POS_TIME_NS.pid, P.DECK_STATUS_ONLINE.pid, P.CTX_STATUS_STATE.pid,
          P.CTX_LINK_BOUND.pid, P.CTX_LINK_RATE_MBPS.pid, P.REC_STATUS_DROPPED_RATE.pid, P.REC_NEXT_INDEX_INDEX.pid] (s.clock t) u) ∧
    (∀ (ctx : Ctx), exec (.ctxRebind t ctx) s = .next u →
        Only [.ctx] [] (s.clock t) u) ∧
    (∀ (ctx : Ctx), exec (.ctxDrainComplete t ctx) s = .next u →
        Only [.ev, .recd, .seam, .ctx, .fab, .out] [P.SEAM_IN_STATUS_STATE.pid, P.SEAM_IN_HEM_TIME_NS.pid, P.SEAM_IN_HEMX_EPOCH.pid, P.SEAM_IN_OCC_BYTES.pid,
          P.SEAM_IN_SPILL_KIB.pid, P.SEAM_RP_TIME_NS.pid, P.SEAM_RPX_EPOCH.pid, P.THIMBLE_STATUS_POOL_FREE_KIB.pid,
          P.SPILL_STATUS_USED_MIB.pid, P.EGRESS_STATUS_USED_KIB.pid, P.EGRESS_HOLDER_CONTEXT.pid,
          P.FAB_PORT_CREDIT_VC2.pid, P.FAB_PORT_BYTES_TX.pid, P.REC_STATUS_DROPPED_RATE.pid, P.REC_NEXT_INDEX_INDEX.pid] (s.clock t) u) ∧
    (∀ (ctx : Ctx) (desc : List Byte), exec (.requestEntryRead t ctx desc) s = .next u →
        Only [.ev, .recd, .deck, .ctx, .host, .out] [P.HOLD_STATE_STATE.pid, P.HOLD_POS_TIME_NS.pid, P.DECK_STATUS_ONLINE.pid, P.DECK_COUNTS_OVERTAKEN.pid,
          P.CTX_STATUS_STATE.pid, P.REC_STATUS_DROPPED_RATE.pid, P.REC_NEXT_INDEX_INDEX.pid] (s.clock t) u) ∧
    (∀ (ctx : Ctx) (desc : List Byte), exec (.descriptorFetch t ctx desc) s = .next u →
        Only [.ev, .recd, .ctx, .host, .out] [P.REC_STATUS_DROPPED_RATE.pid, P.REC_NEXT_INDEX_INDEX.pid] (s.clock t) u) ∧
    (∀ (link : Fin 6), exec (.schedulerGrant t link) s = .next u →
        Only [.ev, .recd, .seam, .ctx, .fab, .core, .mem, .press, .out] [P.SEAM_IN_STATUS_STATE.pid, P.SEAM_IN_HEM_TIME_NS.pid, P.SEAM_IN_HEMX_EPOCH.pid, P.SEAM_IN_OCC_BYTES.pid,
          P.SEAM_IN_SPILL_KIB.pid, P.SEAM_RP_TIME_NS.pid, P.SEAM_RPX_EPOCH.pid, P.THIMBLE_STATUS_POOL_FREE_KIB.pid,
          P.SPILL_STATUS_USED_MIB.pid, P.CTX_STATUS_STATE.pid, P.CTX_FLOOR_UNITS.pid, P.CTX_DEFICIT_BYTES.pid,
          P.EGRESS_STATUS_USED_KIB.pid, P.EGRESS_HOLDER_CONTEXT.pid, P.PRESS_ENG_STATUS_STATE.pid,
          P.FAB_PORT_CREDIT_VC2.pid, P.FAB_PORT_BYTES_TX.pid, P.MEM_ERR_CE.pid, P.MEM_UE_ADDR_ADDR.pid,
          P.REC_STATUS_DROPPED_RATE.pid, P.REC_NEXT_INDEX_INDEX.pid] (s.clock t) u) ∧
    (∀ (link : Fin 6), exec (.unitTransferComplete t link) s = .next u →
        Only [.ev, .recd, .ctx, .fab, .ddr, .host, .out] [P.CTX_DDR_WOFF_OFFSET.pid, P.CTX_BYTES_BYTES.pid, P.CTX_RECS_RECORDS.pid, P.FAB_PORT_CREDIT_VC2.pid,
          P.FAB_PORT_BYTES_TX.pid, P.REC_STATUS_DROPPED_RATE.pid, P.REC_NEXT_INDEX_INDEX.pid] (s.clock t) u) ∧
    (∀ (ctx : Ctx), exec (.egressDetach t ctx) s = .next u →
        Only [.ev, .recd, .seam, .ctx, .fab, .out] [P.SEAM_IN_STATUS_STATE.pid, P.SEAM_IN_HEM_TIME_NS.pid, P.SEAM_IN_HEMX_EPOCH.pid, P.SEAM_IN_OCC_BYTES.pid,
          P.SEAM_IN_SPILL_KIB.pid, P.SEAM_RP_TIME_NS.pid, P.SEAM_RPX_EPOCH.pid, P.THIMBLE_STATUS_POOL_FREE_KIB.pid,
          P.SPILL_STATUS_USED_MIB.pid, P.CTX_STATUS_STATE.pid, P.EGRESS_STATUS_USED_KIB.pid,
          P.EGRESS_HOLDER_CONTEXT.pid, P.FAB_PORT_CREDIT_VC2.pid, P.FAB_PORT_BYTES_TX.pid,
          P.REC_STATUS_DROPPED_RATE.pid, P.REC_NEXT_INDEX_INDEX.pid] (s.clock t) u) ∧
    (∀ (ctx : Ctx), exec (.coalescerTimeout t ctx) s = .next u →
        Only [.ev, .recd, .ctx, .fab, .ddr, .host, .out] [P.CTX_DDR_WOFF_OFFSET.pid, P.FAB_PORT_CREDIT_VC2.pid, P.FAB_PORT_BYTES_TX.pid, P.REC_STATUS_DROPPED_RATE.pid,
          P.REC_NEXT_INDEX_INDEX.pid] (s.clock t) u) ∧
    (∀ (mb : Mb) (cmd : Cmd), exec (.pressCompressJob t mb cmd) s = .next u →
        Only [.ev, .recd, .host, .mbox, .core, .press, .out] [P.PRESS_ENG_STATUS_STATE.pid, P.PRESS_QUEUE_QUEUED.pid, P.MB_STATS_COMMANDS.pid, P.MB_LAST_SEQ_H.pid,
          P.REC_STATUS_DROPPED_RATE.pid, P.REC_NEXT_INDEX_INDEX.pid] (s.clock t) u) ∧
    (∀ (mb : Mb) (cmd : Cmd), exec (.pressDecompressJob t mb cmd) s = .next u →
        Only [.ev, .recd, .host, .mbox, .core, .press, .out] [P.PRESS_ENG_STATUS_STATE.pid, P.PRESS_QUEUE_QUEUED.pid, P.MB_STATS_COMMANDS.pid, P.MB_LAST_SEQ_H.pid,
          P.REC_STATUS_DROPPED_RATE.pid, P.REC_NEXT_INDEX_INDEX.pid] (s.clock t) u) ∧
    (exec (.pressJobStart t) s = .next u →
        Only [.press] [P.PRESS_ENG_STATUS_STATE.pid, P.PRESS_QUEUE_QUEUED.pid] (s.clock t) u) ∧
    (∀ (engine : Fin 6) (input : List Byte) (poisoned memError : Bool), exec (.pressJobComplete t engine input poisoned memError) s = .next u →
        Only [.ev, .recd, .ctx, .fab, .ddr, .host, .mbox, .press, .out, .free] [P.PRESS_ENG_STATUS_STATE.pid, P.PRESS_ENG_IN_BYTES.pid, P.PRESS_ENG_OUT_BYTES.pid, P.PRESS_QUEUE_QUEUED.pid,
          P.PRESS_COUNTS_CHECK_FAIL.pid, P.FAB_PORT_CREDIT_VC2.pid, P.FAB_PORT_BYTES_TX.pid,
          P.REC_STATUS_DROPPED_RATE.pid, P.REC_NEXT_INDEX_INDEX.pid] (s.clock t) u) ∧
    (∀ (ctx : Ctx) (failed : Bool), exec (.pressContextJobComplete t ctx failed) s = .next u →
        Only [.ev, .recd, .ctx, .press, .out] [P.PRESS_ENG_STATUS_STATE.pid, P.PRESS_ENG_IN_BYTES.pid, P.PRESS_ENG_OUT_BYTES.pid, P.PRESS_QUEUE_QUEUED.pid,
          P.PRESS_COUNTS_CHECK_FAIL.pid, P.REC_STATUS_DROPPED_RATE.pid, P.REC_NEXT_INDEX_INDEX.pid] (s.clock t) u) ∧
    (∀ (mb : Mb) (cmd : Cmd), exec (.pressBufWrite t mb cmd) s = .next u →
        Only [.ev, .recd, .host, .mbox, .core, .press, .out] [P.MB_STATS_COMMANDS.pid, P.MB_LAST_SEQ_H.pid, P.REC_STATUS_DROPPED_RATE.pid, P.REC_NEXT_INDEX_INDEX.pid] (s.clock t) u) ∧
    (∀ (mb : Mb) (cmd : Cmd), exec (.pressBufRead t mb cmd) s = .next u →
        Only [.ev, .recd, .host, .mbox, .core, .out] [P.MB_STATS_COMMANDS.pid, P.MB_LAST_SEQ_H.pid, P.REC_STATUS_DROPPED_RATE.pid, P.REC_NEXT_INDEX_INDEX.pid] (s.clock t) u) ∧
    (∀ (ctx : Ctx) (units : Nat), exec (.inboundCredit t ctx units) s = .next u →
        Only [.ctx] [] (s.clock t) u)

/-- Frames: `Only ps rs` names the parts of the state and the firmware parameters that may change. (R7, R256, R288, R335, R356, R365, R376) -/
def Obligations.LinkFrames : Prop :=
  ∀ (s u : State) (t : Tm), s.pwr.por = false →
    (∀ (lane : Lane) (mask : BitVec 4) (index : BitVec 2), exec (.alignBlock t lane mask index) s = .next u →
        Only [.ev, .recd, .seam, .fab, .lane, .core, .out] [P.CTX_LINK_BOUND.pid, P.CTX_LINK_RATE_MBPS.pid, P.FAB_PORT_STATUS_STATE.pid, P.FAB_PORT_CREDIT_VC2.pid,
          P.FAB_PORT_PEER_ID_ID.pid, P.FAB_ROOT_ID_ID.pid, P.LANE_STATUS_STATE.pid, P.LANE_PORT_TX_MASK.pid,
          P.MAINT_STATUS_STATE.pid, P.MAINT_LAST_TIME_NS.pid, P.REC_STATUS_DROPPED_RATE.pid, P.REC_NEXT_INDEX_INDEX.pid] (s.clock t) u) ∧
    (∀ (port : Port) (credit : Credit), exec (.creditBlock t port credit) s = .next u →
        Only [.time, .ev, .recd, .seam, .ctx, .fab, .lane, .core, .out, .free] [P.SEAM_IN_STATUS_STATE.pid, P.SEAM_IN_HEM_TIME_NS.pid, P.SEAM_IN_HEMX_EPOCH.pid, P.SEAM_IN_OCC_BYTES.pid,
          P.SEAM_IN_SPILL_KIB.pid, P.SEAM_RP_TIME_NS.pid, P.SEAM_RPX_EPOCH.pid, P.THIMBLE_STATUS_POOL_FREE_KIB.pid,
          P.SPILL_STATUS_USED_MIB.pid, P.CTX_LINK_BOUND.pid, P.CTX_LINK_RATE_MBPS.pid, P.EGRESS_STATUS_USED_KIB.pid,
          P.EGRESS_HOLDER_CONTEXT.pid, P.FAB_PORT_STATUS_STATE.pid, P.FAB_PORT_ERR_CRC.pid,
          P.FAB_PORT_DROP_VC0_DROPPED.pid, P.FAB_PORT_CREDIT_VC2.pid, P.FAB_PORT_BYTES_TX.pid, P.LANE_STATUS_STATE.pid,
          P.LANE_PORT_TX_MASK.pid, P.MAINT_STATUS_STATE.pid, P.REC_STATUS_DROPPED_RATE.pid, P.REC_NEXT_INDEX_INDEX.pid] (s.clock t) u) ∧
    (∀ (port : Port) (frame : Frame), exec (.recordFrame t port frame) s = .next u →
        Only [.ev, .recd, .seam, .ctx, .fab, .core, .mem, .out] [P.SEAM_IN_STATUS_STATE.pid, P.SEAM_IN_HEM_TIME_NS.pid, P.SEAM_IN_HEMX_EPOCH.pid, P.SEAM_IN_OCC_BYTES.pid,
          P.SEAM_IN_SPILL_KIB.pid, P.SEAM_IN_COUNTS_FRAYS.pid, P.SEAM_IN_RECS_COUNT.pid, P.SEAM_RP_TIME_NS.pid,
          P.SEAM_RPX_EPOCH.pid, P.THIMBLE_STATUS_POOL_FREE_KIB.pid, P.SPILL_STATUS_USED_MIB.pid,
          P.SEAM_ERR_HEM_REJECTED.pid, P.CTX_STATUS_STATE.pid, P.EGRESS_STATUS_USED_KIB.pid,
          P.EGRESS_HOLDER_CONTEXT.pid, P.MON_STATUS_USED_KIB.pid, P.FAB_PORT_ERR_CRC.pid,
          P.FAB_PORT_DROP_VC0_DROPPED.pid, P.FAB_PORT_CREDIT_VC2.pid, P.FAB_PORT_BYTES_TX.pid, P.MEM_ERR_CE.pid,
          P.MEM_UE_ADDR_ADDR.pid, P.REC_STATUS_DROPPED_RATE.pid, P.REC_NEXT_INDEX_INDEX.pid] (s.clock t) u) ∧
    (∀ (port : Port), exec (.replayTimeout t port) s = .next u →
        Only [.time, .ev, .recd, .ctx, .fab, .lane, .core, .out, .free] [P.CTX_LINK_BOUND.pid, P.CTX_LINK_RATE_MBPS.pid, P.FAB_PORT_STATUS_STATE.pid, P.FAB_PORT_ERR_CRC.pid,
          P.FAB_PORT_DROP_VC0_DROPPED.pid, P.FAB_PORT_CREDIT_VC2.pid, P.LANE_STATUS_STATE.pid, P.LANE_PORT_TX_MASK.pid,
          P.MAINT_STATUS_STATE.pid, P.REC_STATUS_DROPPED_RATE.pid, P.REC_NEXT_INDEX_INDEX.pid] (s.clock t) u) ∧
    (∀ (port : Port) (identity : W64), exec (.claimFrame t port identity) s = .next u →
        Only [.ev, .recd, .fab, .host, .mbox, .out] [P.FAB_ROOT_ID_ID.pid, P.REC_STATUS_DROPPED_RATE.pid, P.REC_NEXT_INDEX_INDEX.pid] (s.clock t) u) ∧
    (exec (.claimWindowExpire t) s = .next u →
        Only [.ev, .recd, .fab, .out] [P.FAB_ADDR_ADDR.pid, P.FAB_ROOT_ID_ID.pid, P.FAB_ROUTE_PENDING_TIME_NS.pid, P.REC_STATUS_DROPPED_RATE.pid,
          P.REC_NEXT_INDEX_INDEX.pid] (s.clock t) u) ∧
    (∀ (port : Port) (src : Nat) (route : W64), exec (.discoveryProbe t port src route) s = .next u →
        Only [.out] [] (s.clock t) u) ∧
    (∀ (reply : ProbeReply), exec (.discoveryReply t reply) s = .next u →
        Only [.ev, .recd, .fab, .out] [P.FAB_ROUTE_PENDING_TIME_NS.pid, P.REC_STATUS_DROPPED_RATE.pid, P.REC_NEXT_INDEX_INDEX.pid] (s.clock t) u) ∧
    (∀ (install : Install), exec (.routeInstall t install) s = .next u →
        Only [.fab, .out] [P.FAB_ROUTE_PENDING_TIME_NS.pid] (s.clock t) u) ∧
    (∀ (identity : W64) (port : Port) (up : Bool), exec (.portChangeReport t identity port up) s = .next u →
        Only [.ev, .recd, .fab, .out] [P.FAB_ROUTE_PENDING_TIME_NS.pid, P.REC_STATUS_DROPPED_RATE.pid, P.REC_NEXT_INDEX_INDEX.pid] (s.clock t) u) ∧
    (exec (.clockParentLost t) s = .next u →
        Only [.ev, .recd, .out] [P.FAB_CLOCK_SOURCE.pid, P.REC_STATUS_DROPPED_RATE.pid, P.REC_NEXT_INDEX_INDEX.pid] (s.clock t) u) ∧
    (∀ (port : Port) (delay : Nat), exec (.hopDelayMeasured t port delay) s = .next u →
        Only [.fab] [] (s.clock t) u) ∧
    (∀ (lane : Lane), exec (.laneCdrLock t lane) s = .next u →
        Only [.time, .fab] [P.LANE_STATUS_STATE.pid] (s.clock t) u) ∧
    (∀ (lane : Lane), exec (.laneBlockLock t lane) s = .next u →
        Only [] [P.LANE_STATUS_STATE.pid] (s.clock t) u) ∧
    (∀ (lane : Lane) (loss : LockLoss), exec (.laneLockLoss t lane loss) s = .next u →
        Only [.time, .ev, .recd, .ctx, .fab, .lane, .core, .out, .free] [P.CTX_LINK_BOUND.pid, P.CTX_LINK_RATE_MBPS.pid, P.FAB_PORT_STATUS_STATE.pid, P.FAB_PORT_DROP_VC0_DROPPED.pid,
          P.FAB_PORT_CREDIT_VC2.pid, P.LANE_STATUS_STATE.pid, P.LANE_ERR_SYNC_ERR.pid, P.LANE_PORT_TX_MASK.pid,
          P.MAINT_STATUS_STATE.pid, P.MAINT_LAST_TIME_NS.pid, P.REC_STATUS_DROPPED_RATE.pid, P.REC_NEXT_INDEX_INDEX.pid] (s.clock t) u) ∧
    (∀ (lane : Lane), exec (.laneNoTransitions t lane) s = .next u →
        Only [.time, .ev, .recd, .ctx, .fab, .lane, .core, .out, .free] [P.CTX_LINK_BOUND.pid, P.CTX_LINK_RATE_MBPS.pid, P.FAB_PORT_STATUS_STATE.pid, P.FAB_PORT_DROP_VC0_DROPPED.pid,
          P.FAB_PORT_CREDIT_VC2.pid, P.LANE_STATUS_STATE.pid, P.LANE_ERR_SYNC_ERR.pid, P.LANE_PORT_TX_MASK.pid,
          P.MAINT_STATUS_STATE.pid, P.MAINT_LAST_TIME_NS.pid, P.REC_STATUS_DROPPED_RATE.pid, P.REC_NEXT_INDEX_INDEX.pid] (s.clock t) u) ∧
    (∀ (lane : Lane) (part : Fin 5) (locked : BitVec 4) (value : BitVec 32), exec (.hello t lane part locked value) s = .next u →
        Only [.ev, .recd, .seam, .fab, .lane, .core, .out] [P.CTX_LINK_BOUND.pid, P.CTX_LINK_RATE_MBPS.pid, P.FAB_PORT_STATUS_STATE.pid, P.FAB_PORT_CREDIT_VC2.pid,
          P.FAB_PORT_PEER_ID_ID.pid, P.FAB_ROOT_ID_ID.pid, P.LANE_STATUS_STATE.pid, P.LANE_PORT_TX_MASK.pid,
          P.MAINT_STATUS_STATE.pid, P.MAINT_LAST_TIME_NS.pid, P.REC_STATUS_DROPPED_RATE.pid, P.REC_NEXT_INDEX_INDEX.pid] (s.clock t) u) ∧
    (∀ (port : Port) (mask locked : BitVec 4), exec (.restripe t port mask locked) s = .next u →
        Only [.time, .ev, .recd, .ctx, .fab, .lane, .core, .out, .free] [P.CTX_LINK_BOUND.pid, P.CTX_LINK_RATE_MBPS.pid, P.FAB_PORT_STATUS_STATE.pid, P.FAB_PORT_DROP_VC0_DROPPED.pid,
          P.FAB_PORT_CREDIT_VC2.pid, P.LANE_STATUS_STATE.pid, P.LANE_PORT_TX_MASK.pid, P.MAINT_STATUS_STATE.pid,
          P.MAINT_LAST_TIME_NS.pid, P.REC_STATUS_DROPPED_RATE.pid, P.REC_NEXT_INDEX_INDEX.pid] (s.clock t) u) ∧
    (∀ (port : Port), exec (.restripeResend t port) s = .next u →
        Only [.time, .ev, .recd, .ctx, .fab, .lane, .core, .out, .free] [P.CTX_LINK_BOUND.pid, P.CTX_LINK_RATE_MBPS.pid, P.FAB_PORT_STATUS_STATE.pid, P.FAB_PORT_DROP_VC0_DROPPED.pid,
          P.FAB_PORT_CREDIT_VC2.pid, P.LANE_STATUS_STATE.pid, P.LANE_PORT_TX_MASK.pid, P.MAINT_STATUS_STATE.pid,
          P.MAINT_LAST_TIME_NS.pid, P.REC_STATUS_DROPPED_RATE.pid, P.REC_NEXT_INDEX_INDEX.pid] (s.clock t) u) ∧
    (∀ (port : Port), exec (.restripeTimeout t port) s = .next u →
        Only [.time, .ev, .recd, .ctx, .fab, .lane, .core, .out, .free] [P.CTX_LINK_BOUND.pid, P.CTX_LINK_RATE_MBPS.pid, P.FAB_PORT_STATUS_STATE.pid, P.FAB_PORT_DROP_VC0_DROPPED.pid,
          P.FAB_PORT_CREDIT_VC2.pid, P.LANE_STATUS_STATE.pid, P.LANE_PORT_TX_MASK.pid, P.MAINT_STATUS_STATE.pid,
          P.REC_STATUS_DROPPED_RATE.pid, P.REC_NEXT_INDEX_INDEX.pid] (s.clock t) u) ∧
    (∀ (port : Port) (locked : BitVec 4), exec (.laneReady t port locked) s = .next u →
        Only [.lane] [] (s.clock t) u) ∧
    (∀ (lane : Lane), exec (.rejoinHoldExpire t lane) s = .next u →
        Only [.lane] [] (s.clock t) u) ∧
    (∀ (port : Port), exec (.laneRejoin t port) s = .next u →
        Only [.ev, .recd, .fab, .lane, .core, .out] [P.CTX_LINK_BOUND.pid, P.CTX_LINK_RATE_MBPS.pid, P.FAB_PORT_STATUS_STATE.pid, P.LANE_STATUS_STATE.pid,
          P.LANE_PORT_TX_MASK.pid, P.MAINT_STATUS_STATE.pid, P.MAINT_LAST_TIME_NS.pid, P.REC_STATUS_DROPPED_RATE.pid,
          P.REC_NEXT_INDEX_INDEX.pid] (s.clock t) u) ∧
    (∀ (lane : Lane), exec (.laneRetrainTimeout t lane) s = .next u →
        Only [.time, .fab, .lane, .core, .free] [P.LANE_STATUS_STATE.pid, P.LANE_ERR_SYNC_ERR.pid, P.MAINT_STATUS_STATE.pid] (s.clock t) u) ∧
    (∀ (port : Port) (mask : BitVec 4) (start : Bool), exec (.loopReq t port mask start) s = .next u →
        Only [.time, .fab, .lane, .core, .out, .free] [P.LANE_STATUS_STATE.pid, P.MAINT_STATUS_STATE.pid, P.MAINT_LAST_TIME_NS.pid] (s.clock t) u) ∧
    (∀ (port : Port) (mask : BitVec 4) (accepted : Bool), exec (.loopAck t port mask accepted) s = .next u →
        Only [.ev, .recd, .lane, .host, .mbox, .core, .out] [P.LANE_STATUS_STATE.pid, P.LANE_LOOP_MODE.pid, P.MAINT_STATUS_STATE.pid, P.MAINT_LAST_TIME_NS.pid,
          P.REC_STATUS_DROPPED_RATE.pid, P.REC_NEXT_INDEX_INDEX.pid] (s.clock t) u) ∧
    (∀ (lane : Lane), exec (.farLoopTimeout t lane) s = .next u →
        Only [.ev, .recd, .lane, .host, .mbox, .out] [P.REC_STATUS_DROPPED_RATE.pid, P.REC_NEXT_INDEX_INDEX.pid] (s.clock t) u) ∧
    (∀ (lane : Lane) (value : BitVec 3), exec (.laneLoopWrite t lane value) s = .next u →
        Only [.time, .fab, .lane, .core, .out, .free] [P.LANE_STATUS_STATE.pid, P.LANE_LOOP_MODE.pid, P.MAINT_STATUS_STATE.pid, P.MAINT_LAST_TIME_NS.pid] (s.clock t) u) ∧
    (∀ (port : Port), exec (.prbsInject t port) s = .next u →
        Only [.out] [] (s.clock t) u) ∧
    (∀ (port : Port) (received : List Bool) (run : Nat) (more : List Bool), exec (.prbsCheckerLock t port received run more) s = .next u →
        Only [.ev, .recd, .lane, .out] [P.PRBS_STATUS_CHK_LOCK.pid, P.PRBS_BITS_BITS.pid, P.PRBS_ERRS_ERRORS.pid, P.REC_STATUS_DROPPED_RATE.pid,
          P.REC_NEXT_INDEX_INDEX.pid] (s.clock t) u) ∧
    (∀ (ch : DdrCh) (passed : Bool) (spd : Spd), exec (.ddrTrainingStep t ch passed spd) s = .next u →
        Only [.ev, .recd, .deck, .seam, .ctx, .fab, .ddr, .host, .mbox, .out] [P.DECK_STATUS_ONLINE.pid, P.DECK_CAP_CAP.pid, P.DECK_ALLOW_BYTES.pid, P.SEAM_IN_STATUS_STATE.pid,
          P.SEAM_IN_HEM_TIME_NS.pid, P.SEAM_IN_HEMX_EPOCH.pid, P.SEAM_IN_OCC_BYTES.pid, P.SEAM_IN_SPILL_KIB.pid,
          P.SEAM_RP_TIME_NS.pid, P.SEAM_RPX_EPOCH.pid, P.THIMBLE_STATUS_POOL_FREE_KIB.pid, P.SPILL_STATUS_USED_MIB.pid,
          P.EGRESS_HOLDER_CONTEXT.pid, P.FAB_PORT_CREDIT_VC2.pid, P.FAB_PORT_BYTES_TX.pid, P.DDR_CH_STATUS_STATE.pid,
          P.DDR_CH_SIZE_GIB.pid, P.DDR_STATUS_ONLINE.pid, P.REC_STATUS_DROPPED_RATE.pid, P.REC_NEXT_INDEX_INDEX.pid] (s.clock t) u) ∧
    (∀ (ch : DdrCh), exec (.refreshDue t ch) s = .next u →
        Only [.ddr, .out] [P.DDR_REFRESH_DEBT.pid] (s.clock t) u) ∧
    (∀ (ch : DdrCh) (level : Nat), exec (.panicBegin t ch level) s = .next u →
        Only [.ev, .recd, .ddr, .out] [P.DDR_CH_STATUS_STATE.pid, P.DDR_PANIC_CNT_COUNT.pid, P.REC_STATUS_DROPPED_RATE.pid,
          P.REC_NEXT_INDEX_INDEX.pid] (s.clock t) u) ∧
    (∀ (ch : DdrCh) (level : Nat), exec (.panicEnd t ch level) s = .next u →
        Only [.ddr] [P.DDR_CH_STATUS_STATE.pid] (s.clock t) u) ∧
    (∀ (ch : DdrCh), exec (.refreshRepay t ch) s = .next u →
        Only [.ddr, .out] [P.DDR_REFRESH_DEBT.pid] (s.clock t) u) ∧
    (∀ (addr : Nat) (result : Fin 3) (written : Bool), exec (.ddrScrubRead t addr result written) s = .next u →
        Only [.ev, .recd, .ddr, .core, .out] [P.DDR_CE_COUNT.pid, P.DDR_UE_READ.pid, P.DDR_UE_ADDR_ADDR.pid, P.DDR_SCRUB_STATUS_PASSES.pid,
          P.MAINT_STATUS_STATE.pid, P.MAINT_LAST_TIME_NS.pid, P.REC_STATUS_DROPPED_RATE.pid, P.REC_NEXT_INDEX_INDEX.pid] (s.clock t) u) ∧
    (∀ (ch : DdrCh) (passed : Bool), exec (.ddrRetrainStep t ch passed) s = .next u →
        Only [.ev, .recd, .trg, .deck, .seam, .ctx, .fab, .ddr, .mbox, .core, .press, .out, .free] [P.EXTRACT_STATUS_OUTSTANDING.pid, P.HOLD_STATE_STATE.pid, P.HOLD_POS_TIME_NS.pid, P.DECK_STATUS_ONLINE.pid,
          P.SEAM_IN_STATUS_STATE.pid, P.SEAM_IN_HEM_TIME_NS.pid, P.SEAM_IN_HEMX_EPOCH.pid, P.SEAM_IN_OCC_BYTES.pid,
          P.SEAM_IN_SPILL_KIB.pid, P.SEAM_RP_TIME_NS.pid, P.SEAM_RPX_EPOCH.pid, P.THIMBLE_STATUS_POOL_FREE_KIB.pid,
          P.SPILL_STATUS_USED_MIB.pid, P.CTX_STATUS_STATE.pid, P.CTX_DEFICIT_BYTES.pid, P.EGRESS_STATUS_USED_KIB.pid,
          P.EGRESS_HOLDER_CONTEXT.pid, P.PRESS_ENG_STATUS_STATE.pid, P.PRESS_ENG_IN_BYTES.pid,
          P.PRESS_ENG_OUT_BYTES.pid, P.PRESS_QUEUE_QUEUED.pid, P.PRESS_COUNTS_CHECK_FAIL.pid,
          P.FAB_PORT_CREDIT_VC2.pid, P.FAB_PORT_BYTES_TX.pid, P.DDR_CH_STATUS_STATE.pid, P.DDR_STATUS_ONLINE.pid,
          P.MAINT_STATUS_STATE.pid, P.MAINT_LAST_TIME_NS.pid, P.REC_STATUS_DROPPED_RATE.pid, P.REC_NEXT_INDEX_INDEX.pid] (s.clock t) u) ∧
    (∀ (ch : DdrCh) (writeCrc : Bool) (failedReplays : Nat), exec (.ddrAlert t ch writeCrc failedReplays) s = .next u →
        Only [.ev, .recd, .trg, .deck, .seam, .ctx, .fab, .ddr, .mbox, .core, .press, .out, .free] [P.EXTRACT_STATUS_OUTSTANDING.pid, P.HOLD_STATE_STATE.pid, P.HOLD_POS_TIME_NS.pid, P.DECK_STATUS_ONLINE.pid,
          P.SEAM_IN_STATUS_STATE.pid, P.SEAM_IN_HEM_TIME_NS.pid, P.SEAM_IN_HEMX_EPOCH.pid, P.SEAM_IN_OCC_BYTES.pid,
          P.SEAM_IN_SPILL_KIB.pid, P.SEAM_RP_TIME_NS.pid, P.SEAM_RPX_EPOCH.pid, P.THIMBLE_STATUS_POOL_FREE_KIB.pid,
          P.SPILL_STATUS_USED_MIB.pid, P.CTX_STATUS_STATE.pid, P.CTX_DEFICIT_BYTES.pid, P.EGRESS_STATUS_USED_KIB.pid,
          P.EGRESS_HOLDER_CONTEXT.pid, P.PRESS_ENG_STATUS_STATE.pid, P.PRESS_ENG_IN_BYTES.pid,
          P.PRESS_ENG_OUT_BYTES.pid, P.PRESS_QUEUE_QUEUED.pid, P.PRESS_COUNTS_CHECK_FAIL.pid,
          P.FAB_PORT_CREDIT_VC2.pid, P.FAB_PORT_BYTES_TX.pid, P.DDR_CH_STATUS_STATE.pid, P.DDR_RETRY_PARITY.pid,
          P.DDR_STATUS_ONLINE.pid, P.MAINT_STATUS_STATE.pid, P.MAINT_LAST_TIME_NS.pid, P.REC_STATUS_DROPPED_RATE.pid,
          P.REC_NEXT_INDEX_INDEX.pid] (s.clock t) u) ∧
    (∀ (ch : DdrCh) (addr : Nat) (tries : List (Fin 3)) (device : Fin 20) (rank : Fin 8), exec (.ddrReadComplete t ch addr tries device rank) s = .next u →
        Only [.ev, .recd, .ddr, .out] [P.DDR_CE_COUNT.pid, P.DDR_UE_READ.pid, P.DDR_SUSPECT_DEVICE.pid, P.DDR_UE_ADDR_ADDR.pid,
          P.REC_STATUS_DROPPED_RATE.pid, P.REC_NEXT_INDEX_INDEX.pid] (s.clock t) u) ∧
    (exec (.ddrFence t) s = .next u →
        Only [.ddr] [] (s.clock t) u) ∧
    (∀ (ch : DdrCh) (temp : Int), exec (.spdTempRead t ch temp) s = .next u →
        Only [.ev, .recd, .trg, .deck, .seam, .ctx, .fab, .ddr, .mbox, .core, .press, .out, .free] [P.EXTRACT_STATUS_OUTSTANDING.pid, P.HOLD_STATE_STATE.pid, P.HOLD_POS_TIME_NS.pid, P.DECK_STATUS_ONLINE.pid,
          P.SEAM_IN_STATUS_STATE.pid, P.SEAM_IN_HEM_TIME_NS.pid, P.SEAM_IN_HEMX_EPOCH.pid, P.SEAM_IN_OCC_BYTES.pid,
          P.SEAM_IN_SPILL_KIB.pid, P.SEAM_RP_TIME_NS.pid, P.SEAM_RPX_EPOCH.pid, P.THIMBLE_STATUS_POOL_FREE_KIB.pid,
          P.SPILL_STATUS_USED_MIB.pid, P.CTX_STATUS_STATE.pid, P.CTX_DEFICIT_BYTES.pid, P.EGRESS_STATUS_USED_KIB.pid,
          P.EGRESS_HOLDER_CONTEXT.pid, P.PRESS_ENG_STATUS_STATE.pid, P.PRESS_ENG_IN_BYTES.pid,
          P.PRESS_ENG_OUT_BYTES.pid, P.PRESS_QUEUE_QUEUED.pid, P.PRESS_COUNTS_CHECK_FAIL.pid,
          P.FAB_PORT_CREDIT_VC2.pid, P.FAB_PORT_BYTES_TX.pid, P.DDR_CH_STATUS_STATE.pid, P.DDR_TEMP_TEMP.pid,
          P.DDR_STATUS_ONLINE.pid, P.MAINT_STATUS_STATE.pid, P.MAINT_LAST_TIME_NS.pid, P.REC_STATUS_DROPPED_RATE.pid,
          P.REC_NEXT_INDEX_INDEX.pid] (s.clock t) u) ∧
    (∀ (ch : DdrCh) (hot : Bool), exec (.mr4Read t ch hot) s = .next u →
        Only [] [P.DDR_CH_STATUS_STATE.pid] (s.clock t) u) ∧
    (∀ (mb : Mb) (cmd : Cmd), exec (.memRestart t mb cmd) s = .next u →
        Only [.ev, .recd, .ddr, .host, .mbox, .core, .out] [P.DDR_CH_STATUS_STATE.pid, P.MB_STATS_COMMANDS.pid, P.MB_LAST_SEQ_H.pid, P.REC_STATUS_DROPPED_RATE.pid,
          P.REC_NEXT_INDEX_INDEX.pid] (s.clock t) u) ∧
    (∀ (mb : Mb) (cmd : Cmd) (poisoned : List Nat), exec (.memRead t mb cmd poisoned) s = .next u →
        Only [.ev, .recd, .ddr, .host, .mbox, .core, .out] [P.DDR_UE_READ.pid, P.DDR_UE_ADDR_ADDR.pid, P.MB_STATS_COMMANDS.pid, P.MB_LAST_SEQ_H.pid,
          P.REC_STATUS_DROPPED_RATE.pid, P.REC_NEXT_INDEX_INDEX.pid] (s.clock t) u) ∧
    (∀ (mb : Mb) (cmd : Cmd), exec (.memWrite t mb cmd) s = .next u →
        Only [.ev, .recd, .ddr, .host, .mbox, .core, .out] [P.MB_STATS_COMMANDS.pid, P.MB_LAST_SEQ_H.pid, P.REC_STATUS_DROPPED_RATE.pid, P.REC_NEXT_INDEX_INDEX.pid] (s.clock t) u) ∧
    (∀ (mb : Mb) (cmd : Cmd) (poisoned : List Nat), exec (.regionRead t mb cmd poisoned) s = .next u →
        Only [.ev, .recd, .ddr, .host, .mbox, .core, .out] [P.CTX_DDR_RD_OFFSET.pid, P.DDR_UE_READ.pid, P.DDR_UE_ADDR_ADDR.pid, P.MB_STATS_COMMANDS.pid,
          P.MB_LAST_SEQ_H.pid, P.REC_STATUS_DROPPED_RATE.pid, P.REC_NEXT_INDEX_INDEX.pid] (s.clock t) u) ∧
    (∀ (mb : Fin 2) (reg : Fin 2) (half : HalfWrite), exec (.reg64HalfWrite t mb reg half) s = .next u →
        Only [.host] [] (s.clock t) u) ∧
    (∀ (g : Fin 8) (value raised : BitVec 32), exec (.evPendingClear t g value raised) s = .next u →
        Only [.ev, .recd, .out] [P.REC_STATUS_DROPPED_RATE.pid, P.REC_NEXT_INDEX_INDEX.pid] (s.clock t) u) ∧
    (∀ (g : Fin 8) (value : BitVec 32), exec (.evMaskWrite t g value) s = .next u →
        Only [.ev, .out] [] (s.clock t) u) ∧
    (∀ (source : Fin 256), exec (.evTest t source) s = .next u →
        Only [.ev, .out] [] (s.clock t) u) ∧
    (exec (.hostReset t) s = .next u →
        Only [.ev, .recd, .ctx, .host, .mbox, .press, .out] [P.CTX_STATUS_STATE.pid, P.CTX_LINK_BOUND.pid, P.CTX_LINK_RATE_MBPS.pid, P.PRESS_ENG_STATUS_STATE.pid,
          P.PRESS_ENG_IN_BYTES.pid, P.PRESS_ENG_OUT_BYTES.pid, P.PRESS_QUEUE_QUEUED.pid, P.PRESS_COUNTS_CHECK_FAIL.pid,
          P.REC_STATUS_DROPPED_RATE.pid, P.REC_NEXT_INDEX_INDEX.pid] (s.clock t) u) ∧
    (∀ (gen : Fin 6) (width : Fin 9) (mps : Fin 3), exec (.hostLinkUp t gen width mps) s = .next u →
        Only [.ev, .recd, .seam, .fab, .host, .out] [P.CTX_LINK_BOUND.pid, P.CTX_LINK_RATE_MBPS.pid, P.FAB_PORT_CREDIT_VC2.pid, P.REC_STATUS_DROPPED_RATE.pid,
          P.REC_NEXT_INDEX_INDEX.pid] (s.clock t) u) ∧
    (exec (.busMasterDisable t) s = .next u →
        Only [.ev, .recd, .ctx, .host, .out] [P.CTX_STATUS_STATE.pid, P.REC_STATUS_DROPPED_RATE.pid, P.REC_NEXT_INDEX_INDEX.pid] (s.clock t) u) ∧
    (∀ (d3hot : Bool), exec (.powerStateChange t d3hot) s = .next u →
        Only [.ev, .recd, .host, .out] [P.CTX_STATUS_STATE.pid, P.CTX_DEFICIT_BYTES.pid, P.REC_STATUS_DROPPED_RATE.pid, P.REC_NEXT_INDEX_INDEX.pid] (s.clock t) u) ∧
    (∀ (mb : Fin 2) (on : Bool), exec (.mbEnableWrite t mb on) s = .next u →
        Only [.ev, .recd, .host, .mbox, .out] [P.REC_STATUS_DROPPED_RATE.pid, P.REC_NEXT_INDEX_INDEX.pid] (s.clock t) u) ∧
    (∀ (mb : Fin 2) (prod : BitVec 16), exec (.mbDoorbellWrite t mb prod) s = .next u →
        Only [.host] [] (s.clock t) u) ∧
    (∀ (mb : Fin 2) (head : BitVec 16), exec (.mbCqDoorbellWrite t mb head) s = .next u →
        Only [.host] [] (s.clock t) u) ∧
    (∀ (mb : Mb) (slot : List Byte), exec (.mbFetch t mb slot) s = .next u →
        Only [.ev, .recd, .host, .mbox, .out] [P.MB_STATS_COMMANDS.pid, P.MB_LAST_SEQ_H.pid, P.REC_STATUS_DROPPED_RATE.pid, P.REC_NEXT_INDEX_INDEX.pid] (s.clock t) u) ∧
    (exec (.commandCommit t) s = .next u →
        Only [.ev, .recd, .host, .mbox, .out] [P.REC_STATUS_DROPPED_RATE.pid, P.REC_NEXT_INDEX_INDEX.pid] (s.clock t) u) ∧
    (∀ (mb : Mb) (seq : BitVec 32) (status : Fin 16) (result : W64), exec (.backgroundComplete t mb seq status result) s = .next u →
        Only [.ev, .recd, .host, .mbox, .out] [P.REC_STATUS_DROPPED_RATE.pid, P.REC_NEXT_INDEX_INDEX.pid] (s.clock t) u) ∧
    (∀ (frame : MbFrame), exec (.mailboxFrame t frame) s = .next u →
        Only [.ev, .recd, .host, .mbox, .out] [P.MB_STATS_COMMANDS.pid, P.MB_LAST_SEQ_H.pid, P.REC_STATUS_DROPPED_RATE.pid, P.REC_NEXT_INDEX_INDEX.pid] (s.clock t) u) ∧
    (∀ (mb : Mb) (seq : BitVec 32), exec (.remoteTimeout t mb seq) s = .next u →
        Only [.ev, .recd, .host, .mbox, .out] [P.REC_STATUS_DROPPED_RATE.pid, P.REC_NEXT_INDEX_INDEX.pid] (s.clock t) u) ∧
    (∀ (mb : Mb) (cmd : Cmd), exec (.echo t mb cmd) s = .next u →
        Only [.ev, .recd, .host, .mbox, .core, .out] [P.MB_STATS_COMMANDS.pid, P.MB_LAST_SEQ_H.pid, P.REC_STATUS_DROPPED_RATE.pid, P.REC_NEXT_INDEX_INDEX.pid] (s.clock t) u) ∧
    (∀ (mb : Mb) (cmd : Cmd), exec (.identify t mb cmd) s = .next u →
        Only [.ev, .recd, .host, .mbox, .core, .out] [P.MB_STATS_COMMANDS.pid, P.MB_LAST_SEQ_H.pid, P.REC_STATUS_DROPPED_RATE.pid, P.REC_NEXT_INDEX_INDEX.pid] (s.clock t) u) ∧
    (∀ (mb : Mb) (cmd : Cmd), exec (.tdcCalVisit t mb cmd) s = .next u →
        Only [.ev, .recd, .host, .mbox, .core, .out] [P.MB_STATS_COMMANDS.pid, P.MB_LAST_SEQ_H.pid, P.REC_STATUS_DROPPED_RATE.pid, P.REC_NEXT_INDEX_INDEX.pid] (s.clock t) u) ∧
    (∀ (mb : Mb) (cmd : Cmd), exec (.softAccept t mb cmd) s = .next u →
        Only [.ev, .recd, .trg, .seam, .ctx, .fab, .host, .mbox, .core, .out] [P.EXTRACT_STATUS_OUTSTANDING.pid, P.ACCEPT_STATUS_DUP.pid, P.TRIG_UNCOMP_COUNT.pid,
          P.EGRESS_STATUS_USED_KIB.pid, P.EGRESS_HOLDER_CONTEXT.pid, P.FAB_PORT_DROP_VC0_DROPPED.pid,
          P.FAB_PORT_CREDIT_VC2.pid, P.FAB_PORT_BYTES_TX.pid, P.MB_STATS_COMMANDS.pid, P.MB_LAST_SEQ_H.pid,
          P.REC_STATUS_DROPPED_RATE.pid, P.REC_NEXT_INDEX_INDEX.pid] (s.clock t) u) ∧
    (∀ (mb : Mb) (cmd : Cmd), exec (.deckRewind t mb cmd) s = .next u →
        Only [.ev, .recd, .deck, .ctx, .host, .mbox, .core, .out] [P.HOLD_STATE_STATE.pid, P.HOLD_POS_TIME_NS.pid, P.DECK_STATUS_ONLINE.pid, P.DECK_COUNTS_OVERTAKEN.pid,
          P.CTX_STATUS_STATE.pid, P.MB_STATS_COMMANDS.pid, P.MB_LAST_SEQ_H.pid, P.REC_STATUS_DROPPED_RATE.pid,
          P.REC_NEXT_INDEX_INDEX.pid] (s.clock t) u) ∧
    (∀ (mb : Mb) (cmd : Cmd), exec (.holdCancel t mb cmd) s = .next u →
        Only [.ev, .recd, .deck, .host, .mbox, .core, .out] [P.HOLD_STATE_STATE.pid, P.HOLD_POS_TIME_NS.pid, P.DECK_STATUS_ONLINE.pid, P.MB_STATS_COMMANDS.pid,
          P.MB_LAST_SEQ_H.pid, P.REC_STATUS_DROPPED_RATE.pid, P.REC_NEXT_INDEX_INDEX.pid] (s.clock t) u) ∧
    (∀ (mb : Mb) (cmd : Cmd), exec (.rootClaim t mb cmd) s = .next u →
        Only [.ev, .recd, .fab, .host, .mbox, .core, .out] [P.FAB_ROOT_ID_ID.pid, P.MB_STATS_COMMANDS.pid, P.MB_LAST_SEQ_H.pid, P.REC_STATUS_DROPPED_RATE.pid,
          P.REC_NEXT_INDEX_INDEX.pid] (s.clock t) u) ∧
    (∀ (mb : Mb) (cmd : Cmd), exec (.rootRelease t mb cmd) s = .next u →
        Only [.time, .ev, .recd, .fab, .host, .mbox, .core, .out] [P.FAB_ADDR_ADDR.pid, P.FAB_ROOT_ID_ID.pid, P.MB_STATS_COMMANDS.pid, P.MB_LAST_SEQ_H.pid,
          P.REC_STATUS_DROPPED_RATE.pid, P.REC_NEXT_INDEX_INDEX.pid] (s.clock t) u) ∧
    (∀ (mb : Mb) (cmd : Cmd), exec (.addrPlan t mb cmd) s = .next u →
        Only [.ev, .recd, .fab, .host, .mbox, .core, .out] [P.MB_STATS_COMMANDS.pid, P.MB_LAST_SEQ_H.pid, P.REC_STATUS_DROPPED_RATE.pid, P.REC_NEXT_INDEX_INDEX.pid] (s.clock t) u) ∧
    (∀ (mb : Mb) (cmd : Cmd), exec (.topologyRead t mb cmd) s = .next u →
        Only [.ev, .recd, .host, .mbox, .core, .out] [P.MB_STATS_COMMANDS.pid, P.MB_LAST_SEQ_H.pid, P.REC_STATUS_DROPPED_RATE.pid, P.REC_NEXT_INDEX_INDEX.pid] (s.clock t) u) ∧
    (∀ (addr : BitVec 7) (data : List Byte) (pecOk : Bool), exec (.smbCmdAppend ⟨t, addr⟩ data pecOk) s = .next u →
        Only [.mbox, .out] [P.MB_STATS_COMMANDS.pid] (s.clock t) u) ∧
    (∀ (addr : BitVec 7) (total : BitVec 32) (pecOk : Bool), exec (.smbCmdStart ⟨t, addr⟩ total pecOk) s = .next u →
        Only [.ev, .recd, .host, .mbox, .out] [P.MB_STATS_COMMANDS.pid, P.MB_LAST_SEQ_H.pid, P.REC_STATUS_DROPPED_RATE.pid, P.REC_NEXT_INDEX_INDEX.pid] (s.clock t) u) ∧
    (∀ (addr : BitVec 7), exec (.smbReadCompletion ⟨t, addr⟩) s = .next u →
        Only [.out] [] (s.clock t) u) ∧
    (∀ (addr : BitVec 7) (n : Fin 241), exec (.smbReadResponse ⟨t, addr⟩ n) s = .next u →
        Only [.mbox, .out] [] (s.clock t) u) ∧
    (∀ (update : Option (BitVec 32)), exec (.mb5Data t update) s = .next u →
        Only [.afe, .dig, .mbox, .pwr, .out] [P.TRIM_NOW_CODE.pid, P.CH_STATUS_FLOOR_PART.pid, P.SETTLE_CNT_RESTARTS.pid] (s.clock t) u) ∧
    (exec (.mb5Go t) s = .next u →
        Only [.ev, .recd, .afe, .dig, .host, .mbox, .pwr, .out] [P.TRIM_NOW_CODE.pid, P.CH_STATUS_FLOOR_PART.pid, P.SETTLE_CNT_RESTARTS.pid, P.MB_STATS_COMMANDS.pid,
          P.MB_LAST_SEQ_H.pid, P.REC_STATUS_DROPPED_RATE.pid, P.REC_NEXT_INDEX_INDEX.pid] (s.clock t) u) ∧
    (exec (.mb5PtrReset t) s = .next u →
        Only [.afe, .dig, .mbox, .pwr] [P.TRIM_NOW_CODE.pid, P.CH_STATUS_FLOOR_PART.pid, P.SETTLE_CNT_RESTARTS.pid] (s.clock t) u) ∧
    (∀ (identity : W64), exec (.routeInstallAck t identity) s = .next u →
        Only [.fab, .out] [P.FAB_ROUTE_PENDING_TIME_NS.pid] (s.clock t) u) ∧
    (∀ (what : MsixWrite), exec (.msixMaskWrite t what) s = .next u →
        Only [.ev, .out] [] (s.clock t) u) ∧
    (exec (.perstNRelease t) s = .next u →
        Only [.host] [] (s.clock t) u)

/-- Frames: `Only ps rs` names the parts of the state and the firmware parameters that may change. (R7, R324, R405, R427, R456, R462, R483) -/
def Obligations.ControlFrames : Prop :=
  ∀ (s u : State) (t : Tm), s.pwr.por = false →
    (∀ (mb : Mb) (cmd : Cmd), exec (.timeStep t mb cmd) s = .next u →
        Only [.time, .ev, .recd, .host, .mbox, .core, .out] [P.MB_STATS_COMMANDS.pid, P.MB_LAST_SEQ_H.pid, P.REC_STATUS_DROPPED_RATE.pid, P.REC_NEXT_INDEX_INDEX.pid] (s.clock t) u) ∧
    (∀ (badWords : List Nat), exec (.spanBoundary t badWords) s = .next u →
        Only [.time, .ev, .recd, .afe, .dig, .tdc, .trg, .loop, .deck, .seam, .ctx, .fab, .lane, .ddr, .host, .mbox, .core, .mem, .press, .sec, .pwr, .out, .free, .regs] [] (s.clock t) u) ∧
    (∀ (mb : Mb) (cmd : Cmd), exec (.swapCommit t mb cmd) s = .next u →
        Only [.time, .ev, .recd, .host, .mbox, .core, .out] [P.MB_STATS_COMMANDS.pid, P.MB_LAST_SEQ_H.pid, P.REC_STATUS_DROPPED_RATE.pid, P.REC_NEXT_INDEX_INDEX.pid] (s.clock t) u) ∧
    (∀ (mb : Mb) (cmd : Cmd), exec (.schedule t mb cmd) s = .next u →
        Only [.time, .ev, .recd, .host, .mbox, .core, .out] [P.ACT_TIME_TIME_NS.pid, P.ACT_CFG_STITCH.pid, P.ACT_ARG_ARG.pid, P.ACT_PERIOD_NS.pid, P.ACT_STATUS_STATE.pid,
          P.ACT_COUNTS_LATE.pid, P.MB_STATS_COMMANDS.pid, P.MB_LAST_SEQ_H.pid, P.REC_STATUS_DROPPED_RATE.pid,
          P.REC_NEXT_INDEX_INDEX.pid] (s.clock t) u) ∧
    (∀ (slot : Fin 4) (reg : Fin 7), exec (.snapLowRead t slot reg) s = .next u →
        Only [.host, .out] [] (s.clock t) u) ∧
    (∀ (slot : Fin 4) (reg : Fin 7), exec (.snapHighRead t slot reg) s = .next u →
        Only [.host, .out] [] (s.clock t) u) ∧
    (∀ (slot : Fin 4) (reg : Fin 7), exec (.snapWholeRead t slot reg) s = .next u →
        Only [.host, .out] [] (s.clock t) u) ∧
    (∀ (what : ReadFor) (how : ReadEnd), exec (.deviceReadFail t what how) s = .next u →
        Only [.ev, .recd, .ctx, .host, .mbox, .press, .out] [P.CTX_STATUS_STATE.pid, P.PRESS_ENG_STATUS_STATE.pid, P.PRESS_ENG_IN_BYTES.pid, P.PRESS_ENG_OUT_BYTES.pid,
          P.PRESS_QUEUE_QUEUED.pid, P.PRESS_COUNTS_CHECK_FAIL.pid, P.REC_STATUS_DROPPED_RATE.pid,
          P.REC_NEXT_INDEX_INDEX.pid] (s.clock t) u) ∧
    (∀ (mb : Mb) (cmd : Cmd), exec (.paramGet t mb cmd) s = .next u →
        Only [.ev, .recd, .host, .mbox, .core, .out, .free] [P.THIMBLE_STATUS_POOL_FREE_KIB.pid, P.EGRESS_STATUS_USED_KIB.pid, P.TIME_NOW_X_EPOCH.pid,
          P.DDR_REFRESH_DEBT.pid, P.MB_STATS_COMMANDS.pid, P.MB_LAST_SEQ_H.pid, P.REC_STATUS_DROPPED_RATE.pid,
          P.REC_NEXT_INDEX_INDEX.pid] (s.clock t) u) ∧
    (∀ (mb : Mb) (cmd : Cmd), exec (.paramSet t mb cmd) s = .next u →
        Only [.time, .ev, .recd, .afe, .dig, .loop, .deck, .ctx, .fab, .lane, .host, .mbox, .core, .sec, .out, .free, .regs] [] (s.clock t) u) ∧
    (∀ (mb : Mb) (cmd : Cmd), exec (.paramSetMulti t mb cmd) s = .next u →
        Only [.time, .ev, .recd, .afe, .dig, .loop, .deck, .ctx, .fab, .lane, .host, .mbox, .core, .sec, .out, .free, .regs] [] (s.clock t) u) ∧
    (∀ (cls : Fin 8), exec (.atNsRelease t cls) s = .next u →
        Only [.time, .ev, .recd, .mbox, .out] [P.REC_STATUS_DROPPED_RATE.pid, P.REC_NEXT_INDEX_INDEX.pid] (s.clock t) u) ∧
    (∀ (mb : Mb) (cmd : Cmd), exec (.configSave t mb cmd) s = .next u →
        Only [.ev, .recd, .host, .mbox, .core, .sec, .out] [P.MB_STATS_COMMANDS.pid, P.MB_LAST_SEQ_H.pid, P.REC_STATUS_DROPPED_RATE.pid, P.REC_NEXT_INDEX_INDEX.pid] (s.clock t) u) ∧
    (exec (.configSaveDeferred t) s = .next u →
        Only [.mbox, .sec] [] (s.clock t) u) ∧
    (∀ (mb : Mb) (cmd : Cmd), exec (.configLoad t mb cmd) s = .next u →
        Only [.time, .ev, .recd, .afe, .loop, .host, .mbox, .core, .sec, .out, .regs] [] (s.clock t) u) ∧
    (∀ (mb : Mb) (cmd : Cmd) (image : Image) (read : ReadEnd), exec (.fwLoad t mb cmd image read) s = .next u →
        Only [.ev, .recd, .host, .mbox, .core, .sec, .out] [P.MB_STATS_COMMANDS.pid, P.MB_LAST_SEQ_H.pid, P.REC_STATUS_DROPPED_RATE.pid, P.REC_NEXT_INDEX_INDEX.pid,
          P.SEC_STATUS_BOOT_SEL.pid] (s.clock t) u) ∧
    (∀ (mb : Mb) (cmd : Cmd), exec (.slotSelect t mb cmd) s = .next u →
        Only [.ev, .recd, .host, .mbox, .core, .out] [P.MB_STATS_COMMANDS.pid, P.MB_LAST_SEQ_H.pid, P.REC_STATUS_DROPPED_RATE.pid, P.REC_NEXT_INDEX_INDEX.pid,
          P.SEC_STATUS_BOOT_SEL.pid] (s.clock t) u) ∧
    (∀ (mb : Mb) (cmd : Cmd), exec (.failover t mb cmd) s = .next u →
        Only [.ev, .recd, .host, .mbox, .core, .out] [P.MB_STATS_COMMANDS.pid, P.MB_LAST_SEQ_H.pid, P.REC_STATUS_DROPPED_RATE.pid, P.REC_NEXT_INDEX_INDEX.pid] (s.clock t) u) ∧
    (∀ (mb : Mb) (cmd : Cmd), exec (.health t mb cmd) s = .next u →
        Only [.ev, .recd, .host, .mbox, .core, .out] [P.MB_STATS_COMMANDS.pid, P.MB_LAST_SEQ_H.pid, P.REC_STATUS_DROPPED_RATE.pid, P.REC_NEXT_INDEX_INDEX.pid] (s.clock t) u) ∧
    (∀ (mb : Mb) (cmd : Cmd) (sigOk : Bool), exec (.checkerWriteRaw t mb cmd sigOk) s = .next u →
        Only [.ev, .recd, .host, .mbox, .core, .sec, .out] [P.MB_STATS_COMMANDS.pid, P.MB_LAST_SEQ_H.pid, P.MEM_INJECT_ARMED.pid, P.REC_STATUS_DROPPED_RATE.pid,
          P.REC_NEXT_INDEX_INDEX.pid, P.SEC_TOKENS_ACCEPTED.pid] (s.clock t) u) ∧
    (∀ (mb : Mb) (cmd : Cmd) (sigOk : Bool), exec (.checkerReadRaw t mb cmd sigOk) s = .next u →
        Only [.ev, .recd, .host, .mbox, .core, .sec, .out] [P.MB_STATS_COMMANDS.pid, P.MB_LAST_SEQ_H.pid, P.MEM_INJECT_ARMED.pid, P.REC_STATUS_DROPPED_RATE.pid,
          P.REC_NEXT_INDEX_INDEX.pid, P.SEC_TOKENS_ACCEPTED.pid] (s.clock t) u) ∧
    (∀ (mb : Mb) (cmd : Cmd) (sigOk : Bool), exec (.checkerInject t mb cmd sigOk) s = .next u →
        Only [.ev, .recd, .host, .mbox, .core, .sec, .out] [P.MB_STATS_COMMANDS.pid, P.MB_LAST_SEQ_H.pid, P.MEM_INJECT_ARMED.pid, P.REC_STATUS_DROPPED_RATE.pid,
          P.REC_NEXT_INDEX_INDEX.pid, P.SEC_TOKENS_ACCEPTED.pid] (s.clock t) u) ∧
    (exec (.injectApply t) s = .next u →
        Only [.mbox, .mem] [P.MEM_INJECT_ARMED.pid] (s.clock t) u) ∧
    (∀ (mb : Mb) (cmd : Cmd), exec (.recRead t mb cmd) s = .next u →
        Only [.ev, .recd, .host, .mbox, .core, .out] [P.MB_STATS_COMMANDS.pid, P.MB_LAST_SEQ_H.pid, P.REC_STATUS_DROPPED_RATE.pid, P.REC_NEXT_INDEX_INDEX.pid] (s.clock t) u) ∧
    (∀ (mb : Mb) (cmd : Cmd) (sigOk : Bool), exec (.recClear t mb cmd sigOk) s = .next u →
        Only [.ev, .recd, .ctx, .host, .mbox, .core, .sec, .out] [P.CTX_STATUS_STATE.pid, P.MON_STATUS_USED_KIB.pid, P.MAINT_STATUS_STATE.pid, P.MAINT_LAST_TIME_NS.pid,
          P.MB_STATS_COMMANDS.pid, P.MB_LAST_SEQ_H.pid, P.REC_STATUS_DROPPED_RATE.pid, P.REC_NEXT_INDEX_INDEX.pid,
          P.REC_OLDEST_INDEX.pid, P.REC_CLEARED_INDEX.pid, P.REC_WEAR_LAPS.pid, P.REC_BUDGET_WORDS.pid,
          P.SEC_TOKENS_ACCEPTED.pid] (s.clock t) u) ∧
    (∀ (mb : Mb) (cmd : Cmd), exec (.nonce t mb cmd) s = .next u →
        Only [.ev, .recd, .host, .mbox, .core, .sec, .out, .free] [P.MB_STATS_COMMANDS.pid, P.MB_LAST_SEQ_H.pid, P.REC_STATUS_DROPPED_RATE.pid, P.REC_NEXT_INDEX_INDEX.pid] (s.clock t) u) ∧
    (∀ (mb : Mb), exec (.nonceExpire t mb) s = .next u →
        Only [.sec] [] (s.clock t) u) ∧
    (∀ (mb : Mb) (cmd : Cmd), exec (.attest t mb cmd) s = .next u →
        Only [.ev, .recd, .host, .mbox, .core, .sec, .out] [P.MB_STATS_COMMANDS.pid, P.MB_LAST_SEQ_H.pid, P.REC_STATUS_DROPPED_RATE.pid, P.REC_NEXT_INDEX_INDEX.pid,
          P.SEC_HSS_NEXT.pid] (s.clock t) u) ∧
    (∀ (seq : BitVec 16), exec (.mb4Status t seq) s = .next u →
        Only [.time, .ev, .recd, .afe, .dig, .tdc, .trg, .loop, .deck, .seam, .ctx, .fab, .lane, .ddr, .host, .mbox, .core, .mem, .press, .sec, .pwr, .out, .regs] [] (s.clock t) u) ∧
    (∀ (seq : BitVec 16) (arg0 arg1 : BitVec 32), exec (.mb4Reset t seq arg0 arg1) s = .next u →
        Only [.time, .ev, .recd, .afe, .dig, .tdc, .trg, .loop, .deck, .seam, .ctx, .fab, .lane, .ddr, .host, .mbox, .core, .mem, .press, .sec, .pwr, .out, .regs] [] (s.clock t) u) ∧
    (∀ (seq : BitVec 16) (arg0 : BitVec 32), exec (.mb4SlotSelect t seq arg0) s = .next u →
        Only [.time, .ev, .recd, .afe, .dig, .tdc, .trg, .loop, .deck, .seam, .ctx, .fab, .lane, .ddr, .host, .mbox, .core, .mem, .press, .sec, .pwr, .out, .regs] [] (s.clock t) u) ∧
    (∀ (seq : BitVec 16) (slot : Fin 2) (arg0 arg1 : BitVec 32) (bytes : Nat) (image : Image) (read : ReadEnd), exec (.mb4FwLoad t seq slot arg0 arg1 bytes image read) s = .next u →
        Only [.time, .ev, .recd, .afe, .dig, .tdc, .trg, .loop, .deck, .seam, .ctx, .fab, .lane, .ddr, .host, .mbox, .core, .mem, .press, .sec, .pwr, .out, .regs] [] (s.clock t) u) ∧
    (∀ (addr : BitVec 7) (opcode : BitVec 16) (seq : BitVec 16) (arg0 : BitVec 32) (arg1 : BitVec 32) (pecOk : Bool), exec (.smbMb4Start ⟨t, addr⟩ opcode seq arg0 arg1 pecOk) s = .next u →
        Only [.time, .ev, .recd, .afe, .dig, .tdc, .trg, .loop, .deck, .seam, .ctx, .fab, .lane, .ddr, .host, .mbox, .core, .mem, .press, .sec, .pwr, .out, .regs] [] (s.clock t) u) ∧
    (∀ (addr : BitVec 7), exec (.smbMb4Read ⟨t, addr⟩) s = .next u →
        Only [.out] [] (s.clock t) u) ∧
    (exec (.extest t) s = .next u →
        Only [.afe, .dig, .pwr, .out] [P.TRIM_NOW_CODE.pid, P.CH_STATUS_FLOOR_PART.pid, P.SETTLE_CNT_RESTARTS.pid] (s.clock t) u) ∧
    (exec (.idcode t) s = .next u →
        Only [.afe, .dig, .pwr, .out] [P.TRIM_NOW_CODE.pid, P.CH_STATUS_FLOOR_PART.pid, P.SETTLE_CNT_RESTARTS.pid] (s.clock t) u) ∧
    (∀ (cells : List Bool), exec (.samplePreload t cells) s = .next u →
        Only [.afe, .dig, .pwr] [P.TRIM_NOW_CODE.pid, P.CH_STATUS_FLOOR_PART.pid, P.SETTLE_CNT_RESTARTS.pid] (s.clock t) u) ∧
    (exec (.extestPulse t) s = .next u →
        Only [.afe, .dig, .pwr, .out] [P.TRIM_NOW_CODE.pid, P.CH_STATUS_FLOOR_PART.pid, P.SETTLE_CNT_RESTARTS.pid] (s.clock t) u) ∧
    (exec (.extestTrain t) s = .next u →
        Only [.afe, .dig, .pwr, .out] [P.TRIM_NOW_CODE.pid, P.CH_STATUS_FLOOR_PART.pid, P.SETTLE_CNT_RESTARTS.pid] (s.clock t) u) ∧
    (exec (.clamp t) s = .next u →
        Only [.afe, .dig, .pwr, .out] [P.TRIM_NOW_CODE.pid, P.CH_STATUS_FLOOR_PART.pid, P.SETTLE_CNT_RESTARTS.pid] (s.clock t) u) ∧
    (exec (.highz t) s = .next u →
        Only [.afe, .dig, .pwr, .out] [P.TRIM_NOW_CODE.pid, P.CH_STATUS_FLOOR_PART.pid, P.SETTLE_CNT_RESTARTS.pid] (s.clock t) u) ∧
    (exec (.bypass t) s = .next u →
        Only [.afe, .dig, .pwr, .out] [P.TRIM_NOW_CODE.pid, P.CH_STATUS_FLOOR_PART.pid, P.SETTLE_CNT_RESTARTS.pid] (s.clock t) u) ∧
    (exec (.trstNAssert t) s = .next u →
        Only [.afe, .dig, .mbox, .pwr] [P.TRIM_NOW_CODE.pid, P.CH_STATUS_FLOOR_PART.pid, P.SETTLE_CNT_RESTARTS.pid] (s.clock t) u) ∧
    (∀ (pier : Pier) (gen : BitVec 16), exec (.leaseRenew t pier gen) s = .next u →
        Only [.core] [] (s.clock t) u) ∧
    (∀ (pier : Pier) (word : BitVec 32), exec (.healthWordPublish t pier word) s = .next u →
        Only [.core] [] (s.clock t) u) ∧
    (exec (.leaseExpire t) s = .next u →
        Only [.time, .ev, .recd, .dig, .tdc, .trg, .loop, .deck, .seam, .ctx, .fab, .host, .mbox, .core, .press, .out] [P.EXTRACT_STATUS_OUTSTANDING.pid, P.LOOP_STATUS_MODE_NOW.pid, P.HOLD_STATE_STATE.pid, P.HOLD_POS_TIME_NS.pid,
          P.DECK_STATUS_ONLINE.pid, P.SEAM_IN_STATUS_STATE.pid, P.SEAM_IN_HEM_TIME_NS.pid, P.SEAM_IN_HEMX_EPOCH.pid,
          P.SEAM_IN_OCC_BYTES.pid, P.SEAM_IN_SPILL_KIB.pid, P.SEAM_RP_TIME_NS.pid, P.SEAM_RPX_EPOCH.pid,
          P.THIMBLE_STATUS_POOL_FREE_KIB.pid, P.SPILL_STATUS_USED_MIB.pid, P.CTX_STATUS_STATE.pid,
          P.EGRESS_STATUS_USED_KIB.pid, P.EGRESS_HOLDER_CONTEXT.pid, P.PRESS_ENG_STATUS_STATE.pid,
          P.PRESS_QUEUE_QUEUED.pid, P.FAB_PORT_CREDIT_VC2.pid, P.FAB_PORT_BYTES_TX.pid, P.CORE_STATUS_ACTIVE.pid,
          P.PIER_RESETS_A.pid, P.MAINT_STATUS_STATE.pid, P.REC_STATUS_DROPPED_RATE.pid, P.REC_NEXT_INDEX_INDEX.pid] (s.clock t) u) ∧
    (∀ (pier : Pier), exec (.leaseGrant t pier) s = .next u →
        Only [.time, .ev, .recd, .afe, .loop, .deck, .seam, .ctx, .fab, .host, .mbox, .core, .sec, .pwr, .out, .regs] [] (s.clock t) u) ∧
    (∀ (pier : Pier), exec (.pierHealthTimeout t pier) s = .next u →
        Only [.time, .ev, .recd, .dig, .tdc, .trg, .loop, .deck, .seam, .ctx, .fab, .host, .mbox, .core, .press, .out] [P.EXTRACT_STATUS_OUTSTANDING.pid, P.LOOP_STATUS_MODE_NOW.pid, P.HOLD_STATE_STATE.pid, P.HOLD_POS_TIME_NS.pid,
          P.DECK_STATUS_ONLINE.pid, P.SEAM_IN_STATUS_STATE.pid, P.SEAM_IN_HEM_TIME_NS.pid, P.SEAM_IN_HEMX_EPOCH.pid,
          P.SEAM_IN_OCC_BYTES.pid, P.SEAM_IN_SPILL_KIB.pid, P.SEAM_RP_TIME_NS.pid, P.SEAM_RPX_EPOCH.pid,
          P.THIMBLE_STATUS_POOL_FREE_KIB.pid, P.SPILL_STATUS_USED_MIB.pid, P.CTX_STATUS_STATE.pid,
          P.EGRESS_STATUS_USED_KIB.pid, P.EGRESS_HOLDER_CONTEXT.pid, P.PRESS_ENG_STATUS_STATE.pid,
          P.PRESS_QUEUE_QUEUED.pid, P.FAB_PORT_CREDIT_VC2.pid, P.FAB_PORT_BYTES_TX.pid, P.CORE_STATUS_ACTIVE.pid,
          P.PIER_RESETS_A.pid, P.MAINT_STATUS_STATE.pid, P.REC_STATUS_DROPPED_RATE.pid, P.REC_NEXT_INDEX_INDEX.pid] (s.clock t) u) ∧
    (∀ (temp : Int), exec (.heartbeatEmit t temp) s = .next u →
        Only [.ev, .recd, .ctx, .mbox, .core, .out] [P.CTX_STATUS_STATE.pid, P.MON_STATUS_USED_KIB.pid, P.REC_STATUS_DROPPED_RATE.pid, P.REC_NEXT_INDEX_INDEX.pid] (s.clock t) u) ∧
    (∀ (bytes : Nat) (crossed : Bool), exec (.checkpointMark t bytes crossed) s = .next u →
        Only [.time, .ev, .recd, .host, .mbox, .core, .out] [P.CORE_STATUS_ACTIVE.pid, P.CKPT_STATUS_UNSYNC.pid, P.CKPT_LAST_TIME_NS.pid, P.CKPT_SIZE_BYTES.pid,
          P.REC_STATUS_DROPPED_RATE.pid, P.REC_NEXT_INDEX_INDEX.pid] (s.clock t) u) ∧
    (∀ (accepted : Bool), exec (.checkpointAck t accepted) s = .next u →
        Only [.time, .ev, .recd, .host, .mbox, .core, .out] [P.CORE_STATUS_ACTIVE.pid, P.CKPT_STATUS_UNSYNC.pid, P.CKPT_LAST_TIME_NS.pid, P.REC_STATUS_DROPPED_RATE.pid,
          P.REC_NEXT_INDEX_INDEX.pid] (s.clock t) u) ∧
    (exec (.checkpointAckTimeout t) s = .next u →
        Only [.time, .ev, .recd, .host, .mbox, .core, .out] [P.CORE_STATUS_ACTIVE.pid, P.CKPT_STATUS_UNSYNC.pid, P.CKPT_LAST_TIME_NS.pid, P.REC_STATUS_DROPPED_RATE.pid,
          P.REC_NEXT_INDEX_INDEX.pid] (s.clock t) u) ∧
    (exec (.fullCopy t) s = .next u →
        Only [.core] [] (s.clock t) u) ∧
    (∀ (fault : BitVec 8), exec (.selfTestPassEnd t fault) s = .next u →
        Only [.ev, .recd, .core, .out] [P.MAINT_STATUS_STATE.pid, P.MAINT_LAST_TIME_NS.pid, P.REC_STATUS_DROPPED_RATE.pid, P.REC_NEXT_INDEX_INDEX.pid] (s.clock t) u) ∧
    (∀ (act : Fin 8) (unit : Nat) (byHost : Bool), exec (.maintStart t act unit byHost) s = .next u →
        Only [.ev, .recd, .core, .out] [P.MAINT_STATUS_STATE.pid, P.REC_STATUS_DROPPED_RATE.pid, P.REC_NEXT_INDEX_INDEX.pid] (s.clock t) u) ∧
    (∀ (act : Fin 8) (unit : Nat), exec (.maintDeferredStart t act unit) s = .next u →
        Only [.time, .ev, .recd, .afe, .dig, .tdc, .fab, .lane, .ddr, .mbox, .core, .out, .free] [P.ROT_STATUS_STATE.pid, P.LANE_STATUS_STATE.pid, P.MAINT_STATUS_STATE.pid, P.MAINT_LAST_TIME_NS.pid,
          P.REC_STATUS_DROPPED_RATE.pid, P.REC_NEXT_INDEX_INDEX.pid, P.REC_BUDGET_WORDS.pid] (s.clock t) u) ∧
    (∀ (memory : Fin 19) (addr : Nat) (result : Fin 3) (_written : Bool), exec (.sramScrubRead t memory addr result _written) s = .next u →
        Only [.time, .ev, .recd, .host, .mbox, .core, .mem, .out] [P.CORE_STATUS_ACTIVE.pid, P.CKPT_STATUS_UNSYNC.pid, P.CKPT_LAST_TIME_NS.pid, P.MEM_ERR_CE.pid,
          P.MEM_UE_ADDR_ADDR.pid, P.MEM_SCRUB_STATUS_PASSES.pid, P.REC_STATUS_DROPPED_RATE.pid,
          P.REC_NEXT_INDEX_INDEX.pid] (s.clock t) u) ∧
    (∀ (loc : MramWhere) (result : Fin 3), exec (.mramScrubRead t loc result) s = .next u →
        Only [.ev, .recd, .core, .mem, .sec, .out, .free] [P.MEM_ERR_CE.pid, P.MEM_UE_ADDR_ADDR.pid, P.REC_STATUS_DROPPED_RATE.pid, P.REC_NEXT_INDEX_INDEX.pid,
          P.REC_OLDEST_INDEX.pid, P.SEC_STATUS_BOOT_SEL.pid] (s.clock t) u) ∧
    (exec (.svnCommit t) s = .next u →
        Only [.ev, .recd, .core, .sec, .out] [P.REC_STATUS_DROPPED_RATE.pid, P.REC_NEXT_INDEX_INDEX.pid, P.SEC_STATUS_BOOT_SEL.pid, P.SEC_SVN_MIN.pid] (s.clock t) u) ∧
    (∀ (value : Bool), exec (.ownerRequireWrite t value) s = .next u →
        Only [.ev, .recd, .core, .out] [P.REC_STATUS_DROPPED_RATE.pid, P.REC_NEXT_INDEX_INDEX.pid, P.SEC_STATUS_BOOT_SEL.pid, P.SEC_CFG_SVN_COMMIT.pid] (s.clock t) u) ∧
    (exec (.ownerLockWrite t) s = .next u →
        Only [.ev, .recd, .core, .out] [P.REC_STATUS_DROPPED_RATE.pid, P.REC_NEXT_INDEX_INDEX.pid, P.SEC_STATUS_BOOT_SEL.pid, P.SEC_CFG_SVN_COMMIT.pid] (s.clock t) u) ∧
    (∀ (slotA slotB : Image), exec (.bootVerify t slotA slotB) s = .next u →
        Only [.time, .ev, .recd, .dig, .tdc, .trg, .loop, .deck, .seam, .ctx, .fab, .host, .mbox, .core, .press, .sec, .out] [P.EXTRACT_STATUS_OUTSTANDING.pid, P.LOOP_STATUS_MODE_NOW.pid, P.HOLD_STATE_STATE.pid, P.HOLD_POS_TIME_NS.pid,
          P.DECK_STATUS_ONLINE.pid, P.SEAM_IN_STATUS_STATE.pid, P.SEAM_IN_HEM_TIME_NS.pid, P.SEAM_IN_HEMX_EPOCH.pid,
          P.SEAM_IN_OCC_BYTES.pid, P.SEAM_IN_SPILL_KIB.pid, P.SEAM_RP_TIME_NS.pid, P.SEAM_RPX_EPOCH.pid,
          P.THIMBLE_STATUS_POOL_FREE_KIB.pid, P.SPILL_STATUS_USED_MIB.pid, P.CTX_STATUS_STATE.pid,
          P.EGRESS_STATUS_USED_KIB.pid, P.EGRESS_HOLDER_CONTEXT.pid, P.PRESS_ENG_STATUS_STATE.pid,
          P.PRESS_QUEUE_QUEUED.pid, P.FAB_PORT_CREDIT_VC2.pid, P.FAB_PORT_BYTES_TX.pid, P.CORE_STATUS_ACTIVE.pid,
          P.MAINT_STATUS_STATE.pid, P.REC_STATUS_DROPPED_RATE.pid, P.REC_NEXT_INDEX_INDEX.pid,
          P.SEC_STATUS_BOOT_SEL.pid, P.SEC_SVN_MIN.pid, P.SEC_CFG_SVN_COMMIT.pid, P.OWNER_ECDSA_DIG_WORD.pid,
          P.OWNER_LMS_DIG_WORD.pid] (s.clock t) u) ∧
    (∀ (width : Nat), exec (.porNAssert t width) s = .next u →
        Only [.time, .ev, .recd, .afe, .dig, .tdc, .trg, .loop, .deck, .seam, .ctx, .fab, .lane, .ddr, .host, .mbox, .core, .mem, .press, .sec, .pwr, .out, .free, .regs] [] (s.clock t) u) ∧
    (exec (.porNRelease t) s = .next u →
        Only [.time, .ev, .recd, .afe, .dig, .core, .pwr, .out] [P.CH_STATUS_FLOOR_PART.pid, P.SETTLE_CNT_RESTARTS.pid, P.REC_STATUS_DROPPED_RATE.pid,
          P.REC_NEXT_INDEX_INDEX.pid, P.SEC_STATUS_BOOT_SEL.pid] (s.clock t) u) ∧
    (∀ (count : Nat), exec (.clkrefClassify t count) s = .next u →
        Only [.ev, .recd, .core, .pwr, .out] [P.FAB_CLOCK_SOURCE.pid, P.START_STATUS_CAUSE.pid, P.REC_STATUS_DROPPED_RATE.pid, P.REC_NEXT_INDEX_INDEX.pid] (s.clock t) u) ∧
    (∀ (pll : Fin 5), exec (.pllLock t pll) s = .next u →
        Only [.pwr] [P.FAB_CLOCK_SOURCE.pid] (s.clock t) u) ∧
    (exec (.corePllLockLoss t) s = .next u →
        Only [.time, .ev, .recd, .afe, .dig, .tdc, .trg, .loop, .deck, .seam, .ctx, .fab, .lane, .ddr, .host, .mbox, .core, .mem, .press, .sec, .pwr, .out, .regs] [] (s.clock t) u) ∧
    (∀ (rail : Fin 9) (out : Bool), exec (.railOutOfTolerance t rail out) s = .next u →
        Only [.ev, .recd, .out] [P.RAIL_STATUS_OUT.pid, P.REC_STATUS_DROPPED_RATE.pid, P.REC_NEXT_INDEX_INDEX.pid] (s.clock t) u) ∧
    (∀ (rail : Fin 9), exec (.brownOut t rail) s = .next u →
        Only [.time, .ev, .recd, .afe, .dig, .tdc, .trg, .loop, .deck, .seam, .ctx, .fab, .lane, .ddr, .host, .mbox, .core, .mem, .press, .sec, .pwr, .out, .regs] [] (s.clock t) u) ∧
    (∀ (tile : Tile) (sum : Nat), exec (.overlightRelease t tile sum) s = .next u →
        Only [.time, .ev, .recd, .afe, .loop, .core, .out] [P.HVSET_DUTY_DUTY.pid, P.TRIP_STATUS_TRIPPED.pid, P.LOOP_MODE_MODE.pid, P.MAN_U_U.pid,
          P.LOOP_STATUS_MODE_NOW.pid, P.LOOP_OUT_U.pid, P.MAINT_STATUS_STATE.pid, P.MAINT_LAST_TIME_NS.pid,
          P.REC_STATUS_DROPPED_RATE.pid, P.REC_NEXT_INDEX_INDEX.pid] (s.clock t) u) ∧
    (∀ (sensor : Fin 17) (temp : Int), exec (.thermalReading t sensor temp) s = .next u →
        Only [.ev, .recd, .pwr, .out] [P.THERM_STATUS_TJ_MAX.pid, P.REC_STATUS_DROPPED_RATE.pid, P.REC_NEXT_INDEX_INDEX.pid] (s.clock t) u) ∧
    (exec (.thermalShutdown t) s = .next u →
        Only [.time, .ev, .recd, .afe, .dig, .tdc, .trg, .loop, .deck, .seam, .ctx, .fab, .lane, .ddr, .host, .mbox, .core, .mem, .press, .sec, .pwr, .out, .regs] [] (s.clock t) u) ∧
    (exec (.thermalShutdownRelease t) s = .next u →
        Only [.time, .ev, .recd, .afe, .dig, .core, .pwr, .out] [P.CH_STATUS_FLOOR_PART.pid, P.SETTLE_CNT_RESTARTS.pid, P.REC_STATUS_DROPPED_RATE.pid,
          P.REC_NEXT_INDEX_INDEX.pid, P.SEC_STATUS_BOOT_SEL.pid] (s.clock t) u) ∧
    (∀ (bar : Fin 2) (offset size : Nat) (value : W64), exec (.registerWrite t bar offset size value) s = .next u →
        Only [.time, .ev, .recd, .afe, .dig, .tdc, .trg, .loop, .deck, .seam, .ctx, .fab, .lane, .ddr, .host, .mbox, .core, .mem, .press, .sec, .pwr, .out, .regs] [] (s.clock t) u)
end

