-- ==== Sys2Proof/Laws/Tbl.lean ====
section
/-! SUPPORT. Laws of the sparse tables and byte tables: a read after a write, and the canonical form every write keeps. -/

namespace Sys2Proof.Machine

variable {α : Type}

namespace Tbl

theorem get_insert_same (d x : α) (t : Tbl α) (i : Nat) : get d (insert x t i) i = x := by
  induction t with
  | nil => simp [insert, get]
  | cons e r ih =>
    obtain ⟨k, v⟩ := e
    simp only [insert]
    split
    · simp [get]
    · split
      · simp [get]
      · simp [get, *]

theorem get_insert_ne (d x : α) (t : Tbl α) {i j : Nat} (h : j ≠ i) : get d (insert x t i) j = get d t j := by
  induction t with
  | nil => simp [insert, get, Ne.symm h]
  | cons e r ih =>
    obtain ⟨k, v⟩ := e
    simp only [insert]
    split
    · subst_vars; simp [get, Ne.symm h]
    · split
      · simp [get, Ne.symm h]
      · simp [get, ih]

theorem get_erase_same (d : α) (t : Tbl α) (i : Nat) : get d (erase t i) i = d := by
  induction t with
  | nil => rfl
  | cons e r ih =>
    obtain ⟨k, v⟩ := e
    simp only [erase]
    split
    · exact ih
    · simp [get, *]

theorem get_erase_ne (d : α) (t : Tbl α) {i j : Nat} (h : j ≠ i) : get d (erase t i) j = get d t j := by
  induction t with
  | nil => rfl
  | cons e r ih =>
    obtain ⟨k, v⟩ := e
    simp only [erase]
    split
    · subst_vars; simp [get, ih, Ne.symm h]
    · simp [get, ih]

/-- A read of the key just written gives the value written. -/
@[simp] theorem get_set_same [DecidableEq α] (d x : α) (t : Tbl α) (i : Nat) : get d (set d t i x) i = x := by
  unfold set
  split
  · subst_vars; exact get_erase_same _ t i
  · exact get_insert_same d x t i

/-- A write leaves every other key alone, whatever unlisted keys read as. -/
theorem get_set_ne [DecidableEq α] (d e x : α) (t : Tbl α) {i j : Nat} (h : j ≠ i) : get e (set d t i x) j = get e t j := by
  unfold set
  split
  · exact get_erase_ne e t h
  · exact get_insert_ne e x t h

theorem get_set [DecidableEq α] (d x : α) (t : Tbl α) (i j : Nat) : get d (set d t i x) j = if j = i then x else get d t j := by
  split
  · subst_vars; exact get_set_same d x t _
  · exact get_set_ne d d x t ‹_›

/-- What a table looks like above a bound: keys strictly rising. -/
theorem sorted_some_iff (j : Nat) (t : Tbl α) :
    sortedFrom (some j) t = true ↔ sortedFrom none t = true ∧ ∀ e ∈ t, j < e.1 := by
  induction t generalizing j with
  | nil => simp [sortedFrom]
  | cons e r ih =>
    obtain ⟨k, v⟩ := e
    simp only [sortedFrom, Bool.and_eq_true, decide_eq_true_eq, List.mem_cons, forall_eq_or_imp, ih k]
    constructor
    · rintro ⟨h, h1, h2⟩; exact ⟨⟨h1, h2⟩, h, fun e he => lt_trans h (h2 e he)⟩
    · rintro ⟨⟨h1, h2⟩, h, _⟩; exact ⟨h, h1, h2⟩

theorem sorted_cons (k : Nat) (v : α) (r : Tbl α) :
    sortedFrom none ((k, v) :: r) = true ↔ sortedFrom none r = true ∧ ∀ e ∈ r, k < e.1 := by
  rw [← sorted_some_iff]; rfl

theorem mem_erase {t : Tbl α} {i : Nat} {e : Nat × α} (h : e ∈ erase t i) : e ∈ t := by
  induction t with
  | nil => exact h
  | cons a r ih =>
    obtain ⟨k, v⟩ := a
    simp only [erase] at h
    split at h
    · exact List.mem_cons_of_mem _ (ih h)
    · rcases List.mem_cons.1 h with rfl | h
      · exact List.mem_cons_self
      · exact List.mem_cons_of_mem _ (ih h)

theorem mem_insert {t : Tbl α} {i : Nat} {x : α} {e : Nat × α} (h : e ∈ insert x t i) : e = (i, x) ∨ e ∈ t := by
  induction t with
  | nil => exact .inl (List.mem_singleton.1 h)
  | cons a r ih =>
    obtain ⟨k, v⟩ := a
    simp only [insert] at h
    split at h
    · rcases List.mem_cons.1 h with rfl | h
      · exact .inl rfl
      · exact .inr (List.mem_cons_of_mem _ h)
    · split at h
      · rcases List.mem_cons.1 h with rfl | h
        · exact .inl rfl
        · exact .inr h
      · rcases List.mem_cons.1 h with rfl | h
        · exact .inr List.mem_cons_self
        · exact (ih h).imp id (List.mem_cons_of_mem _)

theorem sorted_erase {t : Tbl α} {i : Nat} (h : sortedFrom none t = true) : sortedFrom none (erase t i) = true := by
  induction t with
  | nil => exact h
  | cons a r ih =>
    obtain ⟨k, v⟩ := a
    obtain ⟨h1, h2⟩ := (sorted_cons k v r).1 h
    simp only [erase]
    split
    · exact ih h1
    · exact (sorted_cons k v _).2 ⟨ih h1, fun e he => h2 e (mem_erase he)⟩

theorem sorted_insert {t : Tbl α} {i : Nat} {x : α} (h : sortedFrom none t = true) :
    sortedFrom none (insert x t i) = true := by
  induction t with
  | nil => rfl
  | cons a r ih =>
    obtain ⟨k, v⟩ := a
    obtain ⟨h1, h2⟩ := (sorted_cons k v r).1 h
    simp only [insert]
    split
    · subst_vars; exact (sorted_cons _ x r).2 ⟨h1, h2⟩
    · split
      · refine (sorted_cons i x _).2 ⟨h, fun e he => ?_⟩
        rcases List.mem_cons.1 he with rfl | he
        · assumption
        · exact lt_trans ‹_› (h2 e he)
      · refine (sorted_cons k v _).2 ⟨ih h1, fun e he => ?_⟩
        rcases mem_insert he with rfl | he
        · simp only; omega
        · exact h2 e he

/-- Every write keeps the canonical form. -/
theorem wf_set [DecidableEq α] {d : α} {t : Tbl α} (i : Nat) (x : α) (h : wf d t = true) : wf d (set d t i x) = true := by
  simp only [wf, Bool.and_eq_true, List.all_eq_true, decide_eq_true_eq] at h ⊢
  unfold set
  split
  · exact ⟨sorted_erase h.1, fun e he => h.2 e (mem_erase he)⟩
  · refine ⟨sorted_insert h.1, fun e he => ?_⟩
    rcases mem_insert he with rfl | he
    · assumption
    · exact h.2 e he

end Tbl

/-! ### Byte tables -/

/-- A write of bytes keeps the canonical form of a byte table. -/
theorem bytesWf_writeBytes {d : Nat → Byte} (bs : List Byte) {m : Tbl Byte} (a : Nat) (h : bytesWf d m = true) :
    bytesWf d (writeBytes d m a bs) = true := by
  induction bs generalizing m a with
  | nil => exact h
  | cons b bs ih =>
    refine ih _ ?_
    simp only [bytesWf, Bool.and_eq_true, List.all_eq_true, decide_eq_true_eq] at h ⊢
    unfold Tbl.set
    split
    · exact ⟨Tbl.sorted_erase h.1, fun e he => h.2 e (Tbl.mem_erase he)⟩
    · refine ⟨Tbl.sorted_insert h.1, fun e he => ?_⟩
      rcases Tbl.mem_insert he with rfl | he
      · assumption
      · exact h.2 e he

/-- A byte outside the bytes written reads as before. -/
theorem get_writeBytes_out (d : Nat → Byte) (e : Byte) (bs : List Byte) (m : Tbl Byte) (a : Nat) {i : Nat}
    (h : i < a ∨ a + bs.length ≤ i) : Tbl.get e (writeBytes d m a bs) i = Tbl.get e m i := by
  induction bs generalizing m a with
  | nil => rfl
  | cons b bs ih =>
    simp only [List.length_cons] at h
    rw [writeBytes, ih _ _ (by omega), Tbl.get_set_ne]
    omega

/-- A byte within the bytes written reads as the byte written there. -/
theorem get_writeBytes_in (d : Nat → Byte) (bs : List Byte) (m : Tbl Byte) (a k : Nat) (h : k < bs.length) :
    Tbl.get (d (a + k)) (writeBytes d m a bs) (a + k) = bs[k] := by
  induction bs generalizing m a k with
  | nil => simp at h
  | cons b bs ih =>
    cases k with
    | zero =>
      rw [writeBytes, get_writeBytes_out _ _ _ _ _ (.inl (by omega))]
      simp
    | succ k =>
      have := ih (Tbl.set (d a) m a b) (a + 1) k (by simpa using h)
      simpa [writeBytes, Nat.add_assoc, Nat.add_comm 1 k] using this

/-- What was written reads back. -/
theorem readBytes_writeBytes (d : Nat → Byte) (bs : List Byte) (m : Tbl Byte) (a : Nat) :
    readBytes d (writeBytes d m a bs) a bs.length = bs := by
  have key : ∀ (n : Nat) (m' : Tbl Byte) (a' : Nat) (l : List Byte), l.length = n →
      (∀ k (h : k < l.length), Tbl.get (d (a' + k)) m' (a' + k) = l[k]) → readBytes d m' a' n = l := by
    intro n
    induction n with
    | zero => intro m' a' l hl _; simp [readBytes, List.length_eq_zero_iff.1 hl]
    | succ n ih =>
      intro m' a' l hl hk
      cases l with
      | nil => simp at hl
      | cons b l =>
        simp only [readBytes]
        have h0 := hk 0 (by simp)
        simp only [Nat.add_zero, List.getElem_cons_zero] at h0
        rw [h0, ih m' (a' + 1) l (by simpa using hl)]
        intro k h
        have := hk (k + 1) (by simpa using h)
        simpa [Nat.add_assoc, Nat.add_comm 1 k] using this
  exact key _ _ _ _ rfl fun k h => get_writeBytes_in d bs m a k h

end Sys2Proof.Machine
end

