-- ==== Sys2Proof/Laws/Frame.lean ====
section
/-! SUPPORT. How `Only` composes: nothing changed, one thing after another, a choice, a list worked through, a record update. -/

namespace Sys2Proof

open Sys2Proof.Machine

/-- Every element of one list is in another. -/
def sub {α : Type} [DecidableEq α] (xs ys : List α) : Bool := xs.all fun x => decide (x ∈ ys)

theorem sub_mem {α : Type} [DecidableEq α] {xs ys : List α} (h : sub xs ys = true) {x : α} (hx : x ∈ xs) : x ∈ ys := by
  simpa using List.all_eq_true.1 h x hx

theorem sub_trans {α : Type} [DecidableEq α] {xs ys zs : List α} (h : sub xs ys = true) (k : sub ys zs = true) :
    sub xs zs = true := List.all_eq_true.2 fun _ hx => decide_eq_true (sub_mem k (sub_mem h hx))

/-- Every parameter of one list is in another, or all of them may change. -/
def subR (ps : List Part) (ms rs : List Nat) : Bool := decide (Part.regs ∈ ps) || sub ms rs

theorem subR_trans {ps : List Part} {ms ns rs : List Nat} (h : sub ms ns = true) (k : subR ps ns rs = true) :
    subR ps ms rs = true := by
  simp only [subR, Bool.or_eq_true, decide_eq_true_eq] at k ⊢
  exact k.imp id (sub_trans h)

namespace Only

variable {ps qs : List Part} {rs ms : List Nat} {s u v : State}

theorem refl : Only ps rs s s := ⟨fun p _ => by cases p <;> simp [Part.same], .inr fun _ _ _ => rfl⟩

theorem symm (h : Only ps rs s u) : Only ps rs u s := by
  refine ⟨fun p hp => ?_, ?_⟩
  · have a := h.1 p hp
    cases p <;> first | exact a.symm | trivial
  · exact h.2.imp id fun h id d hi => (h id d hi).symm

theorem of_eq (h : u = s) : Only ps rs s u := h ▸ refl

/-- One thing after another. -/
theorem trans (h : Only ps rs s u) (k : Only ps rs u v) : Only ps rs s v := by
  refine ⟨fun p hp => ?_, ?_⟩
  · have a := h.1 p hp; have b := k.1 p hp
    cases p <;> first | exact b.trans a | trivial
  · rcases h.2 with h | h
    · exact .inl h
    · rcases k.2 with k | k
      · exact .inl k
      · exact .inr fun id d hi => (k id d hi).trans (h id d hi)

theorem mono (h : Only qs ms s u) (hp : sub qs ps = true) (hr : subR ps ms rs = true) : Only ps rs s u := by
  refine ⟨fun p hn => h.1 p fun hq => hn (sub_mem hp hq), ?_⟩
  simp only [subR, Bool.or_eq_true, decide_eq_true_eq] at hr
  rcases h.2 with h | h
  · exact .inl (sub_mem hp h)
  · exact hr.imp id fun hr id d hi => h id d fun hm => hi (sub_mem hr hm)

/-- One more operation, which changes no more than is allowed. -/
theorem step (h : Only qs ms u v) (hp : sub qs ps = true) (hr : subR ps ms rs = true) (h0 : Only ps rs s u) : Only ps rs s v :=
  h0.trans (h.mono hp hr)

theorem ite {c : Prop} [Decidable c] {a b : State} (ha : Only ps rs s a) (hb : Only ps rs s b) :
    Only ps rs s (if c then a else b) := by split <;> assumption

theorem iteFst {α : Type} {c : Prop} [Decidable c] {a b : State × α} (ha : Only ps rs s a.1) (hb : Only ps rs s b.1) :
    Only ps rs s (if c then a else b).1 := by split <;> assumption

/-- A list worked through. -/
theorem foldl {α : Type} {f : State → α → State} (hf : ∀ v a, Only ps rs v (f v a)) (l : List α) (h : Only ps rs s u) :
    Only ps rs s (l.foldl f u) := by
  induction l generalizing u with
  | nil => exact h
  | cons a l ih => exact ih (h.trans (hf u a))

theorem each {f : State → Nat → State} (hf : ∀ v a, Only ps rs v (f v a)) (l : List Nat) (h : Only ps rs s u) :
    Only ps rs s (u.each l f) := foldl hf l h

/-- A register outside the listed parameters reads as before. -/
theorem regs_get (h : Only ps rs s u) (hp : Part.regs ∉ ps) {id : Nat} (hr : parOf id ∉ rs) (d : W64) :
    Tbl.get d u.regs id = Tbl.get d s.regs id := (h.2.resolve_left hp) id d hr

/-- A write of one parameter's word. -/
theorem setWord (f : Fld) (i w : Nat) (x : W64) (hf : f.pid / 4096 % 4096 = 0 ∧ f.pid % 4096 + w < 4096)
    (hr : Part.regs ∈ ps ∨ f.pid + w ∈ rs) (h : Only ps rs s u) : Only ps rs s { u with regs := Regs.setWord u.regs f i x w } := by
  refine h.trans ⟨fun p _ => by cases p <;> simp [Part.same],
    hr.imp (fun x => x) fun hr id d hi => Tbl.get_set_ne _ _ _ _ fun he => hi ?_⟩
  have : parOf id = f.pid + w := by subst he; unfold parOf Fld.id; omega
  rwa [this]

theorem put (f : Fld) (i x : Nat) (hf : f.pid / 4096 % 4096 = 0) (hr : Part.regs ∈ ps ∨ f.pid ∈ rs) (h : Only ps rs s u) :
    Only ps rs s (u.put f i x) := setWord f i 0 _ ⟨hf, by omega⟩ hr h

theorem putB (f : Fld) (i : Nat) (b : Bool) (hf : f.pid / 4096 % 4096 = 0) (hr : Part.regs ∈ ps ∨ f.pid ∈ rs) (h : Only ps rs s u) :
    Only ps rs s (u.putB f i b) := put f i _ hf hr h

theorem bump (f : Fld) (i n : Nat) (hf : f.pid / 4096 % 4096 = 0) (hr : Part.regs ∈ ps ∨ f.pid ∈ rs) (h : Only ps rs s u) :
    Only ps rs s (u.bump f i n) := put f i _ hf hr h

/-! ### As rewriting rules -/

theorem refl_iff : Only ps rs s s ↔ True := iff_true_intro refl

theorem step_iff (h : Only qs ms u v) (hp : sub qs ps = true) (hr : subR ps ms rs = true) : Only ps rs s v ↔ Only ps rs s u :=
  ⟨fun k => k.trans (h.mono hp hr).symm, fun k => k.trans (h.mono hp hr)⟩

theorem put_iff {f : Fld} {i x w : Nat} (hf : f.pid / 4096 % 4096 = 0 ∧ f.pid % 4096 + w < 4096) (hr : Part.regs ∈ ps ∨ f.pid + w ∈ rs) :
    Only ps rs s (u.put f i x w) ↔ Only ps rs s u :=
  have k : Only ps rs u (u.put f i x w) := setWord f i w _ hf hr refl
  ⟨fun h => h.trans k.symm, fun h => h.trans k⟩

theorem putB_iff {f : Fld} {i w : Nat} {b : Bool} (hf : f.pid / 4096 % 4096 = 0 ∧ f.pid % 4096 + w < 4096)
    (hr : Part.regs ∈ ps ∨ f.pid + w ∈ rs) : Only ps rs s (u.putB f i b w) ↔ Only ps rs s u := put_iff hf hr

theorem bump_iff {f : Fld} {i n : Nat} (hf : f.pid / 4096 % 4096 = 0 ∧ f.pid % 4096 + 0 < 4096) (hr : Part.regs ∈ ps ∨ f.pid + 0 ∈ rs) :
    Only ps rs s (u.bump f i n) ↔ Only ps rs s u := put_iff hf hr

theorem putWord_iff {f : Fld} {i : Nat} {x : W64} (hf : f.pid / 4096 % 4096 = 0 ∧ f.pid % 4096 + 0 < 4096) (hr : Part.regs ∈ ps ∨ f.pid + 0 ∈ rs) :
    Only ps rs s (u.putWord f i x) ↔ Only ps rs s u :=
  have k : Only ps rs u (u.putWord f i x) := setWord f i 0 x hf hr refl
  ⟨fun h => h.trans k.symm, fun h => h.trans k⟩

theorem dite_iff {c : Prop} [Decidable c] {a : c → State} {b : ¬ c → State} :
    Only ps rs s (if h : c then a h else b h) ↔ (∀ h, Only ps rs s (a h)) ∧ ∀ h, Only ps rs s (b h) := by split <;> simp [*]

theorem setWord_iff {f : Fld} {i w : Nat} {x : W64} (hf : f.pid / 4096 % 4096 = 0 ∧ f.pid % 4096 + w < 4096)
    (hr : Part.regs ∈ ps ∨ f.pid + w ∈ rs) : Only ps rs s { u with regs := Regs.setWord u.regs f i x w } ↔ Only ps rs s u :=
  have k : Only ps rs u { u with regs := Regs.setWord u.regs f i x w } := setWord f i w x hf hr refl
  ⟨fun h => h.trans k.symm, fun h => h.trans k⟩

theorem ite_iff {c : Prop} [Decidable c] {a b : State} :
    Only ps rs s (if c then a else b) ↔ (c → Only ps rs s a) ∧ (¬ c → Only ps rs s b) := by split <;> simp [*]

theorem iteFst_iff {α : Type} {c : Prop} [Decidable c] {a b : State × α} :
    Only ps rs s (if c then a else b).1 ↔ (c → Only ps rs s a.1) ∧ (¬ c → Only ps rs s b.1) := by split <;> simp [*]

theorem each_iff {f : State → Nat → State} {l : List Nat} (hf : ∀ v a, Only ps rs v (f v a)) :
    Only ps rs s (u.each l f) ↔ Only ps rs s u :=
  have k : Only ps rs u (u.each l f) := each hf l refl
  ⟨fun h => h.trans k.symm, fun h => h.trans k⟩

theorem foldl_iff {α : Type} {f : State → α → State} {l : List α} (hf : ∀ v a, Only ps rs v (f v a)) :
    Only ps rs s (l.foldl f u) ↔ Only ps rs s u :=
  have k : Only ps rs u (l.foldl f u) := foldl hf l refl
  ⟨fun h => h.trans k.symm, fun h => h.trans k⟩

/-! ### Record updates -/

theorem set_time {x0} (h0 : Part.time ∈ ps) : Only ps rs s { u with time := x0 } ↔ Only ps rs s u :=
  have k : Only ps rs u { u with time := x0 } :=
    ⟨fun p hn => by cases p <;> first | exact absurd h0 hn | trivial, .inr fun _ _ _ => rfl⟩
  ⟨fun h => h.trans k.symm, fun h => h.trans k⟩

theorem set_ev {x0} (h0 : Part.ev ∈ ps) : Only ps rs s { u with ev := x0 } ↔ Only ps rs s u :=
  have k : Only ps rs u { u with ev := x0 } :=
    ⟨fun p hn => by cases p <;> first | exact absurd h0 hn | trivial, .inr fun _ _ _ => rfl⟩
  ⟨fun h => h.trans k.symm, fun h => h.trans k⟩

theorem set_recd {x0} (h0 : Part.recd ∈ ps) : Only ps rs s { u with recd := x0 } ↔ Only ps rs s u :=
  have k : Only ps rs u { u with recd := x0 } :=
    ⟨fun p hn => by cases p <;> first | exact absurd h0 hn | trivial, .inr fun _ _ _ => rfl⟩
  ⟨fun h => h.trans k.symm, fun h => h.trans k⟩

theorem set_afe {x0} (h0 : Part.afe ∈ ps) : Only ps rs s { u with afe := x0 } ↔ Only ps rs s u :=
  have k : Only ps rs u { u with afe := x0 } :=
    ⟨fun p hn => by cases p <;> first | exact absurd h0 hn | trivial, .inr fun _ _ _ => rfl⟩
  ⟨fun h => h.trans k.symm, fun h => h.trans k⟩

theorem set_dig {x0} (h0 : Part.dig ∈ ps) : Only ps rs s { u with dig := x0 } ↔ Only ps rs s u :=
  have k : Only ps rs u { u with dig := x0 } :=
    ⟨fun p hn => by cases p <;> first | exact absurd h0 hn | trivial, .inr fun _ _ _ => rfl⟩
  ⟨fun h => h.trans k.symm, fun h => h.trans k⟩

theorem set_tdc {x0} (h0 : Part.tdc ∈ ps) : Only ps rs s { u with tdc := x0 } ↔ Only ps rs s u :=
  have k : Only ps rs u { u with tdc := x0 } :=
    ⟨fun p hn => by cases p <;> first | exact absurd h0 hn | trivial, .inr fun _ _ _ => rfl⟩
  ⟨fun h => h.trans k.symm, fun h => h.trans k⟩

theorem set_trg {x0} (h0 : Part.trg ∈ ps) : Only ps rs s { u with trg := x0 } ↔ Only ps rs s u :=
  have k : Only ps rs u { u with trg := x0 } :=
    ⟨fun p hn => by cases p <;> first | exact absurd h0 hn | trivial, .inr fun _ _ _ => rfl⟩
  ⟨fun h => h.trans k.symm, fun h => h.trans k⟩

theorem set_loop {x0} (h0 : Part.loop ∈ ps) : Only ps rs s { u with loop := x0 } ↔ Only ps rs s u :=
  have k : Only ps rs u { u with loop := x0 } :=
    ⟨fun p hn => by cases p <;> first | exact absurd h0 hn | trivial, .inr fun _ _ _ => rfl⟩
  ⟨fun h => h.trans k.symm, fun h => h.trans k⟩

theorem set_deck {x0} (h0 : Part.deck ∈ ps) : Only ps rs s { u with deck := x0 } ↔ Only ps rs s u :=
  have k : Only ps rs u { u with deck := x0 } :=
    ⟨fun p hn => by cases p <;> first | exact absurd h0 hn | trivial, .inr fun _ _ _ => rfl⟩
  ⟨fun h => h.trans k.symm, fun h => h.trans k⟩

theorem set_seam {x0} (h0 : Part.seam ∈ ps) : Only ps rs s { u with seam := x0 } ↔ Only ps rs s u :=
  have k : Only ps rs u { u with seam := x0 } :=
    ⟨fun p hn => by cases p <;> first | exact absurd h0 hn | trivial, .inr fun _ _ _ => rfl⟩
  ⟨fun h => h.trans k.symm, fun h => h.trans k⟩

theorem set_ctx {x0} (h0 : Part.ctx ∈ ps) : Only ps rs s { u with ctx := x0 } ↔ Only ps rs s u :=
  have k : Only ps rs u { u with ctx := x0 } :=
    ⟨fun p hn => by cases p <;> first | exact absurd h0 hn | trivial, .inr fun _ _ _ => rfl⟩
  ⟨fun h => h.trans k.symm, fun h => h.trans k⟩

theorem set_fab {x0} (h0 : Part.fab ∈ ps) : Only ps rs s { u with fab := x0 } ↔ Only ps rs s u :=
  have k : Only ps rs u { u with fab := x0 } :=
    ⟨fun p hn => by cases p <;> first | exact absurd h0 hn | trivial, .inr fun _ _ _ => rfl⟩
  ⟨fun h => h.trans k.symm, fun h => h.trans k⟩

theorem set_lane {x0} (h0 : Part.lane ∈ ps) : Only ps rs s { u with lane := x0 } ↔ Only ps rs s u :=
  have k : Only ps rs u { u with lane := x0 } :=
    ⟨fun p hn => by cases p <;> first | exact absurd h0 hn | trivial, .inr fun _ _ _ => rfl⟩
  ⟨fun h => h.trans k.symm, fun h => h.trans k⟩

theorem set_ddr {x0} (h0 : Part.ddr ∈ ps) : Only ps rs s { u with ddr := x0 } ↔ Only ps rs s u :=
  have k : Only ps rs u { u with ddr := x0 } :=
    ⟨fun p hn => by cases p <;> first | exact absurd h0 hn | trivial, .inr fun _ _ _ => rfl⟩
  ⟨fun h => h.trans k.symm, fun h => h.trans k⟩

theorem set_host {x0} (h0 : Part.host ∈ ps) : Only ps rs s { u with host := x0 } ↔ Only ps rs s u :=
  have k : Only ps rs u { u with host := x0 } :=
    ⟨fun p hn => by cases p <;> first | exact absurd h0 hn | trivial, .inr fun _ _ _ => rfl⟩
  ⟨fun h => h.trans k.symm, fun h => h.trans k⟩

theorem set_mbox {x0} (h0 : Part.mbox ∈ ps) : Only ps rs s { u with mbox := x0 } ↔ Only ps rs s u :=
  have k : Only ps rs u { u with mbox := x0 } :=
    ⟨fun p hn => by cases p <;> first | exact absurd h0 hn | trivial, .inr fun _ _ _ => rfl⟩
  ⟨fun h => h.trans k.symm, fun h => h.trans k⟩

theorem set_core {x0} (h0 : Part.core ∈ ps) : Only ps rs s { u with core := x0 } ↔ Only ps rs s u :=
  have k : Only ps rs u { u with core := x0 } :=
    ⟨fun p hn => by cases p <;> first | exact absurd h0 hn | trivial, .inr fun _ _ _ => rfl⟩
  ⟨fun h => h.trans k.symm, fun h => h.trans k⟩

theorem set_mem {x0} (h0 : Part.mem ∈ ps) : Only ps rs s { u with mem := x0 } ↔ Only ps rs s u :=
  have k : Only ps rs u { u with mem := x0 } :=
    ⟨fun p hn => by cases p <;> first | exact absurd h0 hn | trivial, .inr fun _ _ _ => rfl⟩
  ⟨fun h => h.trans k.symm, fun h => h.trans k⟩

theorem set_press {x0} (h0 : Part.press ∈ ps) : Only ps rs s { u with press := x0 } ↔ Only ps rs s u :=
  have k : Only ps rs u { u with press := x0 } :=
    ⟨fun p hn => by cases p <;> first | exact absurd h0 hn | trivial, .inr fun _ _ _ => rfl⟩
  ⟨fun h => h.trans k.symm, fun h => h.trans k⟩

theorem set_sec {x0} (h0 : Part.sec ∈ ps) : Only ps rs s { u with sec := x0 } ↔ Only ps rs s u :=
  have k : Only ps rs u { u with sec := x0 } :=
    ⟨fun p hn => by cases p <;> first | exact absurd h0 hn | trivial, .inr fun _ _ _ => rfl⟩
  ⟨fun h => h.trans k.symm, fun h => h.trans k⟩

theorem set_pwr {x0} (h0 : Part.pwr ∈ ps) : Only ps rs s { u with pwr := x0 } ↔ Only ps rs s u :=
  have k : Only ps rs u { u with pwr := x0 } :=
    ⟨fun p hn => by cases p <;> first | exact absurd h0 hn | trivial, .inr fun _ _ _ => rfl⟩
  ⟨fun h => h.trans k.symm, fun h => h.trans k⟩

theorem set_out {x0} (h0 : Part.out ∈ ps) : Only ps rs s { u with out := x0 } ↔ Only ps rs s u :=
  have k : Only ps rs u { u with out := x0 } :=
    ⟨fun p hn => by cases p <;> first | exact absurd h0 hn | trivial, .inr fun _ _ _ => rfl⟩
  ⟨fun h => h.trans k.symm, fun h => h.trans k⟩

theorem set_free {x0} (h0 : Part.free ∈ ps) : Only ps rs s { u with free := x0 } ↔ Only ps rs s u :=
  have k : Only ps rs u { u with free := x0 } :=
    ⟨fun p hn => by cases p <;> first | exact absurd h0 hn | trivial, .inr fun _ _ _ => rfl⟩
  ⟨fun h => h.trans k.symm, fun h => h.trans k⟩

theorem set_time_mbox {x0} {x1} (h0 : Part.time ∈ ps) (h1 : Part.mbox ∈ ps) : Only ps rs s { u with time := x0, mbox := x1 } ↔ Only ps rs s u :=
  have k : Only ps rs u { u with time := x0, mbox := x1 } :=
    ⟨fun p hn => by cases p <;> first | exact absurd h0 hn | exact absurd h1 hn | trivial, .inr fun _ _ _ => rfl⟩
  ⟨fun h => h.trans k.symm, fun h => h.trans k⟩

theorem set_time_core {x0} {x1} (h0 : Part.time ∈ ps) (h1 : Part.core ∈ ps) : Only ps rs s { u with time := x0, core := x1 } ↔ Only ps rs s u :=
  have k : Only ps rs u { u with time := x0, core := x1 } :=
    ⟨fun p hn => by cases p <;> first | exact absurd h0 hn | exact absurd h1 hn | trivial, .inr fun _ _ _ => rfl⟩
  ⟨fun h => h.trans k.symm, fun h => h.trans k⟩

theorem set_recd_sec {x0} {x1} (h0 : Part.recd ∈ ps) (h1 : Part.sec ∈ ps) : Only ps rs s { u with recd := x0, sec := x1 } ↔ Only ps rs s u :=
  have k : Only ps rs u { u with recd := x0, sec := x1 } :=
    ⟨fun p hn => by cases p <;> first | exact absurd h0 hn | exact absurd h1 hn | trivial, .inr fun _ _ _ => rfl⟩
  ⟨fun h => h.trans k.symm, fun h => h.trans k⟩

theorem set_host_core {x0} {x1} (h0 : Part.host ∈ ps) (h1 : Part.core ∈ ps) : Only ps rs s { u with host := x0, core := x1 } ↔ Only ps rs s u :=
  have k : Only ps rs u { u with host := x0, core := x1 } :=
    ⟨fun p hn => by cases p <;> first | exact absurd h0 hn | exact absurd h1 hn | trivial, .inr fun _ _ _ => rfl⟩
  ⟨fun h => h.trans k.symm, fun h => h.trans k⟩

theorem set_host_sec {x0} {x1} (h0 : Part.host ∈ ps) (h1 : Part.sec ∈ ps) : Only ps rs s { u with host := x0, sec := x1 } ↔ Only ps rs s u :=
  have k : Only ps rs u { u with host := x0, sec := x1 } :=
    ⟨fun p hn => by cases p <;> first | exact absurd h0 hn | exact absurd h1 hn | trivial, .inr fun _ _ _ => rfl⟩
  ⟨fun h => h.trans k.symm, fun h => h.trans k⟩

theorem set_mbox_sec {x0} {x1} (h0 : Part.mbox ∈ ps) (h1 : Part.sec ∈ ps) : Only ps rs s { u with mbox := x0, sec := x1 } ↔ Only ps rs s u :=
  have k : Only ps rs u { u with mbox := x0, sec := x1 } :=
    ⟨fun p hn => by cases p <;> first | exact absurd h0 hn | exact absurd h1 hn | trivial, .inr fun _ _ _ => rfl⟩
  ⟨fun h => h.trans k.symm, fun h => h.trans k⟩

theorem set_core_pwr {x0} {x1} (h0 : Part.core ∈ ps) (h1 : Part.pwr ∈ ps) : Only ps rs s { u with core := x0, pwr := x1 } ↔ Only ps rs s u :=
  have k : Only ps rs u { u with core := x0, pwr := x1 } :=
    ⟨fun p hn => by cases p <;> first | exact absurd h0 hn | exact absurd h1 hn | trivial, .inr fun _ _ _ => rfl⟩
  ⟨fun h => h.trans k.symm, fun h => h.trans k⟩

theorem set_time_host_core {x0} {x1} {x2} (h0 : Part.time ∈ ps) (h1 : Part.host ∈ ps) (h2 : Part.core ∈ ps) : Only ps rs s { u with time := x0, host := x1, core := x2 } ↔ Only ps rs s u :=
  have k : Only ps rs u { u with time := x0, host := x1, core := x2 } :=
    ⟨fun p hn => by cases p <;> first | exact absurd h0 hn | exact absurd h1 hn | exact absurd h2 hn | trivial, .inr fun _ _ _ => rfl⟩
  ⟨fun h => h.trans k.symm, fun h => h.trans k⟩

theorem set_time_mem_regs {x0} {x1} {x2} (h0 : Part.time ∈ ps) (h1 : Part.mem ∈ ps) (h2 : Part.regs ∈ ps) : Only ps rs s { u with time := x0, mem := x1, regs := x2 } ↔ Only ps rs s u :=
  have k : Only ps rs u { u with time := x0, mem := x1, regs := x2 } :=
    ⟨fun p hn => by cases p <;> first | exact absurd h0 hn | exact absurd h1 hn | trivial, .inl h2⟩
  ⟨fun h => h.trans k.symm, fun h => h.trans k⟩

theorem set_time_tdc_mbox_core {x0} {x1} {x2} {x3} (h0 : Part.time ∈ ps) (h1 : Part.tdc ∈ ps) (h2 : Part.mbox ∈ ps) (h3 : Part.core ∈ ps) : Only ps rs s { u with time := x0, tdc := x1, mbox := x2, core := x3 } ↔ Only ps rs s u :=
  have k : Only ps rs u { u with time := x0, tdc := x1, mbox := x2, core := x3 } :=
    ⟨fun p hn => by cases p <;> first | exact absurd h0 hn | exact absurd h1 hn | exact absurd h2 hn | exact absurd h3 hn | trivial, .inr fun _ _ _ => rfl⟩
  ⟨fun h => h.trans k.symm, fun h => h.trans k⟩

theorem set_time_pwr {x0} {x1} (h0 : Part.time ∈ ps) (h1 : Part.pwr ∈ ps) : Only ps rs s { u with time := x0, pwr := x1 } ↔ Only ps rs s u :=
  have k : Only ps rs u { u with time := x0, pwr := x1 } :=
    ⟨fun p hn => by cases p <;> first | exact absurd h0 hn | exact absurd h1 hn | trivial, .inr fun _ _ _ => rfl⟩
  ⟨fun h => h.trans k.symm, fun h => h.trans k⟩

theorem set_time_deck {x0} {x1} (h0 : Part.time ∈ ps) (h1 : Part.deck ∈ ps) :
    Only ps rs s { u with time := x0, deck := x1 } ↔ Only ps rs s u :=
  have k : Only ps rs u { u with time := x0, deck := x1 } :=
    ⟨fun p hn => by cases p <;> first | exact absurd h0 hn | exact absurd h1 hn | trivial, .inr fun _ _ _ => rfl⟩
  ⟨fun h => h.trans k.symm, fun h => h.trans k⟩

theorem set_time_fab {x0} {x1} (h0 : Part.time ∈ ps) (h1 : Part.fab ∈ ps) :
    Only ps rs s { u with time := x0, fab := x1 } ↔ Only ps rs s u :=
  have k : Only ps rs u { u with time := x0, fab := x1 } :=
    ⟨fun p hn => by cases p <;> first | exact absurd h0 hn | exact absurd h1 hn | trivial, .inr fun _ _ _ => rfl⟩
  ⟨fun h => h.trans k.symm, fun h => h.trans k⟩

theorem set_ev_host {x0} {x1} (h0 : Part.ev ∈ ps) (h1 : Part.host ∈ ps) :
    Only ps rs s { u with ev := x0, host := x1 } ↔ Only ps rs s u :=
  have k : Only ps rs u { u with ev := x0, host := x1 } :=
    ⟨fun p hn => by cases p <;> first | exact absurd h0 hn | exact absurd h1 hn | trivial, .inr fun _ _ _ => rfl⟩
  ⟨fun h => h.trans k.symm, fun h => h.trans k⟩

theorem set_seam_ctx {x0} {x1} (h0 : Part.seam ∈ ps) (h1 : Part.ctx ∈ ps) :
    Only ps rs s { u with seam := x0, ctx := x1 } ↔ Only ps rs s u :=
  have k : Only ps rs u { u with seam := x0, ctx := x1 } :=
    ⟨fun p hn => by cases p <;> first | exact absurd h0 hn | exact absurd h1 hn | trivial, .inr fun _ _ _ => rfl⟩
  ⟨fun h => h.trans k.symm, fun h => h.trans k⟩

theorem set_mbox_mem {x0} {x1} (h0 : Part.mbox ∈ ps) (h1 : Part.mem ∈ ps) :
    Only ps rs s { u with mbox := x0, mem := x1 } ↔ Only ps rs s u :=
  have k : Only ps rs u { u with mbox := x0, mem := x1 } :=
    ⟨fun p hn => by cases p <;> first | exact absurd h0 hn | exact absurd h1 hn | trivial, .inr fun _ _ _ => rfl⟩
  ⟨fun h => h.trans k.symm, fun h => h.trans k⟩

theorem set_dig_loop {x0} {x1} (h0 : Part.dig ∈ ps) (h1 : Part.loop ∈ ps) :
    Only ps rs s { u with dig := x0, loop := x1 } ↔ Only ps rs s u :=
  have k : Only ps rs u { u with dig := x0, loop := x1 } :=
    ⟨fun p hn => by cases p <;> first | exact absurd h0 hn | exact absurd h1 hn | trivial, .inr fun _ _ _ => rfl⟩
  ⟨fun h => h.trans k.symm, fun h => h.trans k⟩

theorem set_seam_ctx_press {x0} {x1} {x2} (h0 : Part.seam ∈ ps) (h1 : Part.ctx ∈ ps) (h2 : Part.press ∈ ps) :
    Only ps rs s { u with seam := x0, ctx := x1, press := x2 } ↔ Only ps rs s u :=
  have k : Only ps rs u { u with seam := x0, ctx := x1, press := x2 } :=
    ⟨fun p hn => by cases p <;> first | exact absurd h0 hn | exact absurd h1 hn | exact absurd h2 hn | trivial, .inr fun _ _ _ => rfl⟩
  ⟨fun h => h.trans k.symm, fun h => h.trans k⟩

theorem set_tdc_mbox {x0} {x1} (h0 : Part.tdc ∈ ps) (h1 : Part.mbox ∈ ps) :
    Only ps rs s { u with tdc := x0, mbox := x1 } ↔ Only ps rs s u :=
  have k : Only ps rs u { u with tdc := x0, mbox := x1 } :=
    ⟨fun p hn => by cases p <;> first | exact absurd h0 hn | exact absurd h1 hn | trivial, .inr fun _ _ _ => rfl⟩
  ⟨fun h => h.trans k.symm, fun h => h.trans k⟩

theorem set_tdc_trg {x0} {x1} (h0 : Part.tdc ∈ ps) (h1 : Part.trg ∈ ps) :
    Only ps rs s { u with tdc := x0, trg := x1 } ↔ Only ps rs s u :=
  have k : Only ps rs u { u with tdc := x0, trg := x1 } :=
    ⟨fun p hn => by cases p <;> first | exact absurd h0 hn | exact absurd h1 hn | trivial, .inr fun _ _ _ => rfl⟩
  ⟨fun h => h.trans k.symm, fun h => h.trans k⟩

theorem set_time_mbox_core {x0} {x1} {x2} (h0 : Part.time ∈ ps) (h1 : Part.mbox ∈ ps) (h2 : Part.core ∈ ps) :
    Only ps rs s { u with time := x0, mbox := x1, core := x2 } ↔ Only ps rs s u :=
  have k : Only ps rs u { u with time := x0, mbox := x1, core := x2 } :=
    ⟨fun p hn => by cases p <;> first | exact absurd h0 hn | exact absurd h1 hn | exact absurd h2 hn | trivial, .inr fun _ _ _ => rfl⟩
  ⟨fun h => h.trans k.symm, fun h => h.trans k⟩

theorem set_time_recd_ddr_mbox_core_mem_sec {x0} {x1} {x2} {x3} {x4} {x5} {x6} (h0 : Part.time ∈ ps) (h1 : Part.recd ∈ ps) (h2 : Part.ddr ∈ ps) (h3 : Part.mbox ∈ ps) (h4 : Part.core ∈ ps) (h5 : Part.mem ∈ ps) (h6 : Part.sec ∈ ps) :
    Only ps rs s { u with time := x0, recd := x1, ddr := x2, mbox := x3, core := x4, mem := x5, sec := x6 } ↔ Only ps rs s u :=
  have k : Only ps rs u { u with time := x0, recd := x1, ddr := x2, mbox := x3, core := x4, mem := x5, sec := x6 } :=
    ⟨fun p hn => by cases p <;> first | exact absurd h0 hn | exact absurd h1 hn | exact absurd h2 hn | exact absurd h3 hn | exact absurd h4 hn | exact absurd h5 hn | exact absurd h6 hn | trivial, .inr fun _ _ _ => rfl⟩
  ⟨fun h => h.trans k.symm, fun h => h.trans k⟩

theorem set_regs {x0} (h0 : Part.regs ∈ ps) : Only ps rs s { u with regs := x0 } ↔ Only ps rs s u :=
  have k : Only ps rs u { u with regs := x0 } := ⟨fun p hn => by cases p <;> first | exact absurd h0 hn | trivial, .inl h0⟩
  ⟨fun h => h.trans k.symm, fun h => h.trans k⟩

end Only

/-- A command that is not held back by a reset acts at its instant. -/
theorem live_next {t : Tm} {s u : State} {f : State → State} (hp : s.pwr.por = false) (h : live t s f = .next u) :
    f (s.clock t) = u := by
  unfold live at h
  rw [hp] at h
  exact Host.Outcome.next.inj h

end Sys2Proof
end

