-- ==== Sys2Proof/Laws/OnlyOps.lean ====
section
/-! SUPPORT. What the operations of Machine/Ops.lean leave alone: one lemma for each. -/

namespace Sys2Proof.Machine

theorem State.emit_only (s : State) (o : Out) : Only [.out] [] s (State.emit s o) := by
  unfold State.emit
  simp (disch := decide) only [Only.refl_iff, Only.set_out]

theorem State.drive_only (s : State) (p : Pin) (level : Bool) : Only [.out] [] s (State.drive s p level) := by
  unfold State.drive
  simp (disch := decide) only [Only.refl_iff, Only.step_iff (State.emit_only _ _)]

theorem State.fresh_only (s : State) : Only [.free] [] s (State.fresh s) := by
  unfold State.fresh
  simp (disch := decide) only [Only.refl_iff, Only.set_free]

theorem State.clock_only (s : State) (t : Tm) : Only [.time] [] s (State.clock s t) := by
  unfold State.clock
  simp (disch := decide) only [Only.refl_iff, Only.set_time]

theorem State.takeSeq_only (s : State) (type : Nat) : Only [.ctx] [] s (State.takeSeq s type) := by
  unfold State.takeSeq
  simp (disch := decide) only [Only.refl_iff, Only.set_ctx]

theorem State.msixDue_only (s : State) (v : Nat) : Only [.ev, .out] [] s (State.msixDue s v) := by
  unfold State.msixDue
  simp (disch := decide) only [Only.refl_iff, Only.set_ev, Only.step_iff (State.emit_only _ _), Only.ite_iff, Only.iteFst_iff, implies_true, and_self]

theorem State.msixFlush_only (s : State) (v : Nat) (x : Nat) : Only [.ev, .out] [] s (State.msixFlush s v x) := by
  induction x generalizing s v with
  | zero => exact Only.refl
  | succ k ih =>
    unfold State.msixFlush
    simp (disch := decide) only [Only.refl_iff, Only.set_ev, Only.step_iff (State.emit_only _ _), Only.ite_iff, Only.iteFst_iff, implies_true, and_self, Only.step_iff (ih _ _)]

theorem State.latchHost_only (s : State) (n : Nat) : Only [.ev, .out] [] s (State.latchHost s n) := by
  unfold State.latchHost
  simp (disch := decide) only [Only.refl_iff, Only.set_ev, Only.step_iff (State.msixDue_only _ _), Only.ite_iff, Only.iteFst_iff, implies_true, and_self]

theorem State.latch_only (s : State) (n : Nat) : Only [.ev, .out] [] s (State.latch s n) := by
  unfold State.latch
  simp (disch := decide) only [Only.refl_iff, Only.set_ev, Only.step_iff (State.latchHost_only _ _)]

theorem State.setBucket_only (s : State) (code : Nat) (b : Bucket) : Only [.recd] [] s (State.setBucket s code b) := by
  unfold State.setBucket
  simp (disch := decide) only [Only.refl_iff, Only.set_recd]

theorem State.occurRepeat_only (s : State) (l : LogRec) : Only [.recd] [] s (State.occurRepeat s l) := by
  unfold State.occurRepeat
  simp (disch := decide) only [Only.refl_iff, Only.set_recd]

theorem State.occurDrop_only (s : State) (code tokens : Nat) : Only [.recd] [] s (State.occurDrop s code tokens) := by
  unfold State.occurDrop
  simp (disch := decide) only [Only.refl_iff, Only.set_recd, Only.step_iff (State.setBucket_only _ _ _)]

theorem State.occurRate_only (s : State) (code : Nat) : Only [.recd] [0x11000203] s (State.occurRate s code).1 := by
  unfold State.occurRate
  simp (disch := decide) only [Only.refl_iff, Only.set_recd, Only.bump_iff, Only.step_iff (State.occurDrop_only _ _ _), Only.ite_iff, Only.iteFst_iff, implies_true, and_self]

theorem State.occurOpen_only (s : State) (code severity : Nat) (detail : List Byte) : Only [.recd] [0x11000204] s (State.occurOpen s code severity detail) := by
  unfold State.occurOpen
  simp (disch := decide) only [Only.refl_iff, Only.set_recd, Only.put_iff, Only.step_iff (State.setBucket_only _ _ _)]

theorem State.occur_only (s : State) (code severity : Nat) (detail : List Byte) : Only [.recd] [0x11000203, 0x11000204] s (State.occur s code severity detail).1 := by
  unfold State.occur
  repeat' first
    | simp (disch := decide) only [Only.refl_iff, Only.bump_iff, Only.step_iff (State.occurDrop_only _ _ _), Only.step_iff (State.occurOpen_only _ _ _ _), Only.step_iff (State.occurRate_only _ _), Only.step_iff (State.occurRepeat_only _ _), Only.ite_iff, Only.iteFst_iff, implies_true, and_self]
    | split

theorem State.recRaises_only (s : State) (x : List Nat) : Only [.ev, .recd, .out] [0x11000203, 0x11000204] s (State.recRaises s x) := by
  induction x generalizing s with
  | nil => exact Only.refl
  | cons a l ih =>
    unfold State.recRaises
    simp (disch := decide) only [Only.refl_iff, Only.step_iff (State.latch_only _ _), Only.step_iff (State.occur_only _ _ _ _), Only.ite_iff, Only.iteFst_iff, implies_true, and_self, Only.step_iff (ih _)]

theorem State.raise_only (s : State) (n : Nat) : Only [.ev, .recd, .out] [0x11000203, 0x11000204] s (State.raise s n) := by
  unfold State.raise
  simp (disch := decide) only [Only.refl_iff, Only.step_iff (State.latch_only _ _), Only.step_iff (State.occur_only _ _ _ _), Only.step_iff (State.recRaises_only _ _), Only.ite_iff, Only.iteFst_iff, implies_true, and_self]

theorem State.deny_only (s : State) : Only [.ev, .recd, .core, .out] [0x11000203, 0x11000204] s (State.deny s) := by
  unfold State.deny
  simp (disch := decide) only [Only.refl_iff, Only.set_core, Only.step_iff (State.raise_only _ _)]

theorem State.log_only (s : State) (code severity : Nat) (detail : List Byte) : Only [.ev, .recd, .core, .out] [0x11000203, 0x11000204] s (State.log s code severity detail) := by
  unfold State.log
  simp (disch := decide) only [Only.refl_iff, Only.step_iff (State.deny_only _), Only.step_iff (State.occur_only _ _ _ _), Only.step_iff (State.recRaises_only _ _), Only.ite_iff, Only.iteFst_iff, implies_true, and_self]

theorem State.raiseIf_only (s : State) (b : Bool) (n : Nat) : Only [.ev, .recd, .out] [0x11000203, 0x11000204] s (State.raiseIf s b n) := by
  unfold State.raiseIf
  simp (disch := decide) only [Only.refl_iff, Only.step_iff (State.raise_only _ _), Only.ite_iff, Only.iteFst_iff, implies_true, and_self]

theorem State.modCtx_only (s : State) (c : Nat) (f : CtxSt → CtxSt) : Only [.ctx] [] s (State.modCtx s c f) := by
  unfold State.modCtx
  simp (disch := decide) only [Only.refl_iff, Only.set_ctx]

theorem State.ctxSkip_only (s : State) (c src : Nat) (skipped : List Rec) (pos : Nat) : Only [.ev, .recd, .ctx, .out] [0x08000015, 0x11000203, 0x11000204] s (State.ctxSkip s c src skipped pos) := by
  unfold State.ctxSkip
  repeat' first
    | simp (disch := decide) only [Only.refl_iff, Only.bump_iff, Only.step_iff (State.modCtx_only _ _ _), Only.step_iff (State.raise_only _ _), Only.step_iff (State.takeSeq_only _ _)]
    | split

theorem State.monReposition_only (s : State) (dropped : List QRec) (pos : Nat) (x : List (Nat × CtxSt)) : Only [.ev, .recd, .ctx, .out] [0x08000015, 0x08000203, 0x11000203, 0x11000204] s (State.monReposition s dropped pos x) := by
  induction x generalizing s dropped pos with
  | nil => exact Only.refl
  | cons a l ih =>
    unfold State.monReposition
    simp (disch := decide) only [Only.refl_iff, Only.bump_iff, Only.step_iff (State.ctxSkip_only _ _ _ _ _), Only.ite_iff, Only.iteFst_iff, implies_true, and_self, Only.step_iff (ih _ _ _)]

theorem State.monPut_only (s0 : State) (r : Rec) : Only [.ev, .recd, .ctx, .out] [0x08000015, 0x08000203, 0x11000203, 0x11000204] s0 (State.monPut s0 r) := by
  unfold State.monPut
  repeat' first
    | simp (disch := decide) only [Only.refl_iff, Only.set_ctx, Only.step_iff (State.monReposition_only _ _ _ _), Only.put_iff, Only.ite_iff, Only.iteFst_iff, implies_true, and_self]
    | split

theorem State.monEmit_only (s : State) (r : Rec) : Only [.ev, .recd, .ctx, .out] [0x08000015, 0x08000203, 0x11000203, 0x11000204] s (State.monEmit s r) := by
  unfold State.monEmit
  simp (disch := decide) only [Only.refl_iff, Only.step_iff (State.monPut_only _ _), Only.step_iff (State.takeSeq_only _ _)]

end Sys2Proof.Machine
end

