-- ==== Sys2Proof/Laws/Regs.lean ====
section
/-! SUPPORT. Laws of the firmware parameters in force: a field reads what was put into it, modulo its width; every other field
of the same word, and every other word, reads as before. -/

namespace Sys2Proof.Machine

/-- Two fields of one word do not overlap. -/
def Fld.apart (f g : Fld) : Bool := decide (f.lo + f.width ≤ g.lo) || decide (g.lo + g.width ≤ f.lo)

theorem put_toNat (f : Fld) (w : W64) (v : Nat) (h : f.lo + f.width ≤ 64) :
    (f.put w v).toNat = w.toNat - f.of w * 2 ^ f.lo + v % 2 ^ f.width * 2 ^ f.lo := by
  unfold Fld.put
  rw [BitVec.toNat_ofNat]
  refine Nat.mod_eq_of_lt ?_
  have hw := w.isLt
  have hp : 2 ^ (f.lo + f.width) ≤ 2 ^ 64 := Nat.pow_le_pow_right (by decide) h
  have h1 : v % 2 ^ f.width < 2 ^ f.width := Nat.mod_lt _ (by positivity)
  have e : w.toNat = 2 ^ f.lo * (2 ^ f.width * (w.toNat / 2 ^ f.lo / 2 ^ f.width) + f.of w) + w.toNat % 2 ^ f.lo := by
    unfold Fld.of
    rw [Nat.div_add_mod, Nat.div_add_mod]
  have hl : w.toNat % 2 ^ f.lo < 2 ^ f.lo := Nat.mod_lt _ (by positivity)
  have hd : w.toNat / 2 ^ f.lo / 2 ^ f.width < 2 ^ (64 - (f.lo + f.width)) := by
    rw [Nat.div_div_eq_div_mul, ← pow_add, Nat.div_lt_iff_lt_mul (by positivity), ← pow_add]
    simpa [Nat.sub_add_cancel h] using hw
  generalize w.toNat / 2 ^ f.lo / 2 ^ f.width = q at e hd
  have : w.toNat - f.of w * 2 ^ f.lo = 2 ^ f.lo * (2 ^ f.width * q) + w.toNat % 2 ^ f.lo := by
    rw [Nat.mul_add] at e
    have : f.of w * 2 ^ f.lo = 2 ^ f.lo * f.of w := Nat.mul_comm _ _
    omega
  rw [this]
  have hq : q + 1 ≤ 2 ^ (64 - (f.lo + f.width)) := hd
  calc 2 ^ f.lo * (2 ^ f.width * q) + w.toNat % 2 ^ f.lo + v % 2 ^ f.width * 2 ^ f.lo
      < 2 ^ f.lo * (2 ^ f.width * q) + 2 ^ f.lo + v % 2 ^ f.width * 2 ^ f.lo := by omega
    _ = 2 ^ f.lo * (2 ^ f.width * q + (v % 2 ^ f.width + 1)) := by ring
    _ ≤ 2 ^ f.lo * (2 ^ f.width * q + 2 ^ f.width) := by gcongr; omega
    _ = 2 ^ f.lo * 2 ^ f.width * (q + 1) := by ring
    _ ≤ 2 ^ f.lo * 2 ^ f.width * 2 ^ (64 - (f.lo + f.width)) := by gcongr
    _ = 2 ^ 64 := by rw [← pow_add, ← pow_add]; congr 1; omega

/-- The bits of a word below a field, the field, and the bits above it. -/
theorem put_parts (f : Fld) (w : W64) (v : Nat) (h : f.lo + f.width ≤ 64) :
    (f.put w v).toNat = 2 ^ f.lo * (2 ^ f.width * (w.toNat / 2 ^ f.lo / 2 ^ f.width) + v % 2 ^ f.width) + w.toNat % 2 ^ f.lo := by
  rw [put_toNat f w v h]
  have e : w.toNat = 2 ^ f.lo * (2 ^ f.width * (w.toNat / 2 ^ f.lo / 2 ^ f.width) + f.of w) + w.toNat % 2 ^ f.lo := by
    unfold Fld.of
    rw [Nat.div_add_mod, Nat.div_add_mod]
  generalize w.toNat / 2 ^ f.lo / 2 ^ f.width = q at e ⊢
  rw [Nat.mul_add] at e ⊢
  have c1 : f.of w * 2 ^ f.lo = 2 ^ f.lo * f.of w := Nat.mul_comm _ _
  have c2 : v % 2 ^ f.width * 2 ^ f.lo = 2 ^ f.lo * (v % 2 ^ f.width) := Nat.mul_comm _ _
  omega

theorem of_put_same (f : Fld) (w : W64) (v : Nat) (h : f.lo + f.width ≤ 64) : f.of (f.put w v) = v % 2 ^ f.width := by
  have hl : w.toNat % 2 ^ f.lo < 2 ^ f.lo := Nat.mod_lt _ (by positivity)
  rw [Fld.of, put_parts f w v h, Nat.mul_add_div (by positivity), Nat.div_eq_of_lt hl, Nat.add_zero, Nat.mul_add_mod,
    Nat.mod_mod]

theorem of_put_apart (f g : Fld) (w : W64) (v : Nat) (h : f.lo + f.width ≤ 64) (ha : f.apart g = true) :
    g.of (f.put w v) = g.of w := by
  have e := put_parts f w v h
  have hl : w.toNat % 2 ^ f.lo < 2 ^ f.lo := Nat.mod_lt _ (by positivity)
  simp only [Fld.apart, Bool.or_eq_true, decide_eq_true_eq] at ha
  rcases ha with ha | ha
  · have key : ∀ y : W64, g.of y = y.toNat / 2 ^ f.lo / 2 ^ f.width / 2 ^ (g.lo - (f.lo + f.width)) % 2 ^ g.width := by
      intro y
      rw [Fld.of, Nat.div_div_eq_div_mul, Nat.div_div_eq_div_mul, ← pow_add, ← pow_add, ← Nat.add_assoc, Nat.add_sub_cancel' ha]
    rw [key, key w, e, Nat.mul_add_div (by positivity), Nat.div_eq_of_lt hl, Nat.add_zero, Nat.mul_add_div (by positivity),
      Nat.div_eq_of_lt (Nat.mod_lt v (by positivity)), Nat.add_zero]
  · have key : ∀ y : W64, g.of y = y.toNat % 2 ^ f.lo % 2 ^ (g.lo + g.width) / 2 ^ g.lo := by
      intro y
      rw [Fld.of, Nat.mod_mod_of_dvd _ (pow_dvd_pow 2 ha), pow_add, Nat.mod_mul_right_div_self]
    rw [key, key w, e, Nat.mul_add_mod, Nat.mod_mod]

/-- A field reads what was put into it, modulo its width. -/
theorem State.get_put_same (s : State) (f : Fld) (i v w : Nat) (h : f.lo + f.width ≤ 64) :
    (s.put f i v w).get f i w = v % 2 ^ f.width := by
  unfold State.put State.get Regs.get Regs.set Regs.setWord
  rw [Regs.word, Tbl.get_set_same, of_put_same f _ v h]

/-- Another field of the same word reads as before. -/
theorem State.get_put_apart (s : State) (f g : Fld) (i v w : Nat) (h : f.lo + f.width ≤ 64) (ha : f.apart g = true)
    (hp : f.pid = g.pid) (hw : f.word = g.word) : (s.put f i v w).get g i w = s.get g i w := by
  unfold State.put State.get Regs.get Regs.set Regs.setWord
  have hi : g.id i w = f.id i w := by unfold Fld.id; rw [hp]
  rw [Regs.word, hi, ← hw, Tbl.get_set_same, of_put_apart f g _ v h ha, Regs.word, Regs.word, hi, hw]

/-- A field of another identifier reads as before. -/
theorem State.get_put_ne (s : State) (f g : Fld) (i v w j x : Nat) (h : g.id j x ≠ f.id i w) :
    (s.put f i v w).get g j x = s.get g j x := by
  unfold State.put State.get Regs.get Regs.set Regs.setWord
  rw [Regs.word, Tbl.get_set_ne _ _ _ _ h, Regs.word]

/-- A field of another parameter reads as before. -/
theorem State.get_put_par (s : State) (f g : Fld) (i v w j x : Nat) (hf : f.pid / 4096 % 4096 = 0 ∧ f.pid % 4096 + w < 4096)
    (hg : g.pid / 4096 % 4096 = 0 ∧ g.pid % 4096 + x < 4096) (h : g.pid + x ≠ f.pid + w) :
    (s.put f i v w).get g j x = s.get g j x := by
  refine State.get_put_ne s f g i v w j x fun he => h ?_
  unfold Fld.id at he
  omega

/-- The same index of an instance below 4,096 that differs reads as before. -/
theorem State.get_put_inst (s : State) (f g : Fld) (i v w j x : Nat) (hf : f.pid / 4096 % 4096 = 0 ∧ f.pid % 4096 + w < 4096)
    (hg : g.pid / 4096 % 4096 = 0 ∧ g.pid % 4096 + x < 4096) (h : i % 4096 ≠ j % 4096) :
    (s.put f i v w).get g j x = s.get g j x := by
  refine State.get_put_ne s f g i v w j x fun he => h ?_
  unfold Fld.id at he
  omega

/-- A field outside the parameters that may change reads as before. -/
theorem State.get_of_only {ps : List Part} {rs : List Nat} {s u : State} (h : Only ps rs s u) (hp : Part.regs ∉ ps) (f : Fld)
    (i w : Nat) (hf : f.pid / 4096 % 4096 = 0 ∧ f.pid % 4096 + w < 4096) (hr : f.pid + w ∉ rs) : u.get f i w = s.get f i w := by
  have hi : parOf (f.id i w) = f.pid + w := by unfold parOf Fld.id; omega
  unfold State.get Regs.get Regs.word
  rw [h.regs_get hp (hi ▸ hr)]

end Sys2Proof.Machine
end

