-- ==== Sys2Proof/Laws/State.lean ====
section
/-! SUPPORT. What each small update of the state leaves as it was, field by field, and what the changed entry then holds. -/

namespace Sys2Proof.Machine

namespace Tbl

variable {α : Type} [DecidableEq α]

theorem get_mod (d : α) (t : Tbl α) (i j : Nat) (f : α → α) : get d (mod d t i f) j = if j = i then f (get d t i) else get d t j :=
  get_set d (f (get d t i)) t i j

theorem get_mod_same (d : α) (t : Tbl α) (i : Nat) (f : α → α) : get d (mod d t i f) i = f (get d t i) := by simp [get_mod]

theorem get_mod_ne (d : α) (t : Tbl α) {i j : Nat} (h : j ≠ i) (f : α → α) : get d (mod d t i f) j = get d t j := by
  simp [get_mod, h]

end Tbl

/-! ### Fields -/

theorem State.with_time_ev (s : State) (x : TimeSt) : ({ s with time := x } : State).ev = s.ev := rfl
theorem State.with_time_recd (s : State) (x : TimeSt) : ({ s with time := x } : State).recd = s.recd := rfl
theorem State.with_time_afe (s : State) (x : TimeSt) : ({ s with time := x } : State).afe = s.afe := rfl
theorem State.with_time_dig (s : State) (x : TimeSt) : ({ s with time := x } : State).dig = s.dig := rfl
theorem State.with_time_tdc (s : State) (x : TimeSt) : ({ s with time := x } : State).tdc = s.tdc := rfl
theorem State.with_time_trg (s : State) (x : TimeSt) : ({ s with time := x } : State).trg = s.trg := rfl
theorem State.with_time_loop (s : State) (x : TimeSt) : ({ s with time := x } : State).loop = s.loop := rfl
theorem State.with_time_deck (s : State) (x : TimeSt) : ({ s with time := x } : State).deck = s.deck := rfl
theorem State.with_time_seam (s : State) (x : TimeSt) : ({ s with time := x } : State).seam = s.seam := rfl
theorem State.with_time_ctx (s : State) (x : TimeSt) : ({ s with time := x } : State).ctx = s.ctx := rfl
theorem State.with_time_fab (s : State) (x : TimeSt) : ({ s with time := x } : State).fab = s.fab := rfl
theorem State.with_time_lane (s : State) (x : TimeSt) : ({ s with time := x } : State).lane = s.lane := rfl
theorem State.with_time_ddr (s : State) (x : TimeSt) : ({ s with time := x } : State).ddr = s.ddr := rfl
theorem State.with_time_host (s : State) (x : TimeSt) : ({ s with time := x } : State).host = s.host := rfl
theorem State.with_time_mbox (s : State) (x : TimeSt) : ({ s with time := x } : State).mbox = s.mbox := rfl
theorem State.with_time_core (s : State) (x : TimeSt) : ({ s with time := x } : State).core = s.core := rfl
theorem State.with_time_mem (s : State) (x : TimeSt) : ({ s with time := x } : State).mem = s.mem := rfl
theorem State.with_time_press (s : State) (x : TimeSt) : ({ s with time := x } : State).press = s.press := rfl
theorem State.with_time_sec (s : State) (x : TimeSt) : ({ s with time := x } : State).sec = s.sec := rfl
theorem State.with_time_pwr (s : State) (x : TimeSt) : ({ s with time := x } : State).pwr = s.pwr := rfl
theorem State.with_time_regs (s : State) (x : TimeSt) : ({ s with time := x } : State).regs = s.regs := rfl
theorem State.with_time_out (s : State) (x : TimeSt) : ({ s with time := x } : State).out = s.out := rfl
theorem State.with_time_free (s : State) (x : TimeSt) : ({ s with time := x } : State).free = s.free := rfl
theorem State.with_time_pending (s : State) (x : TimeSt) : ({ s with time := x } : State).pending = s.pending := rfl

theorem State.with_afe_time (s : State) (x : AfeSt) : ({ s with afe := x } : State).time = s.time := rfl
theorem State.with_afe_ev (s : State) (x : AfeSt) : ({ s with afe := x } : State).ev = s.ev := rfl
theorem State.with_afe_recd (s : State) (x : AfeSt) : ({ s with afe := x } : State).recd = s.recd := rfl
theorem State.with_afe_dig (s : State) (x : AfeSt) : ({ s with afe := x } : State).dig = s.dig := rfl
theorem State.with_afe_tdc (s : State) (x : AfeSt) : ({ s with afe := x } : State).tdc = s.tdc := rfl
theorem State.with_afe_trg (s : State) (x : AfeSt) : ({ s with afe := x } : State).trg = s.trg := rfl
theorem State.with_afe_loop (s : State) (x : AfeSt) : ({ s with afe := x } : State).loop = s.loop := rfl
theorem State.with_afe_deck (s : State) (x : AfeSt) : ({ s with afe := x } : State).deck = s.deck := rfl
theorem State.with_afe_seam (s : State) (x : AfeSt) : ({ s with afe := x } : State).seam = s.seam := rfl
theorem State.with_afe_ctx (s : State) (x : AfeSt) : ({ s with afe := x } : State).ctx = s.ctx := rfl
theorem State.with_afe_fab (s : State) (x : AfeSt) : ({ s with afe := x } : State).fab = s.fab := rfl
theorem State.with_afe_lane (s : State) (x : AfeSt) : ({ s with afe := x } : State).lane = s.lane := rfl
theorem State.with_afe_ddr (s : State) (x : AfeSt) : ({ s with afe := x } : State).ddr = s.ddr := rfl
theorem State.with_afe_host (s : State) (x : AfeSt) : ({ s with afe := x } : State).host = s.host := rfl
theorem State.with_afe_mbox (s : State) (x : AfeSt) : ({ s with afe := x } : State).mbox = s.mbox := rfl
theorem State.with_afe_core (s : State) (x : AfeSt) : ({ s with afe := x } : State).core = s.core := rfl
theorem State.with_afe_mem (s : State) (x : AfeSt) : ({ s with afe := x } : State).mem = s.mem := rfl
theorem State.with_afe_press (s : State) (x : AfeSt) : ({ s with afe := x } : State).press = s.press := rfl
theorem State.with_afe_sec (s : State) (x : AfeSt) : ({ s with afe := x } : State).sec = s.sec := rfl
theorem State.with_afe_pwr (s : State) (x : AfeSt) : ({ s with afe := x } : State).pwr = s.pwr := rfl
theorem State.with_afe_regs (s : State) (x : AfeSt) : ({ s with afe := x } : State).regs = s.regs := rfl
theorem State.with_afe_out (s : State) (x : AfeSt) : ({ s with afe := x } : State).out = s.out := rfl
theorem State.with_afe_free (s : State) (x : AfeSt) : ({ s with afe := x } : State).free = s.free := rfl
theorem State.with_afe_pending (s : State) (x : AfeSt) : ({ s with afe := x } : State).pending = s.pending := rfl

theorem State.with_dig_time (s : State) (x : DigSt) : ({ s with dig := x } : State).time = s.time := rfl
theorem State.with_dig_ev (s : State) (x : DigSt) : ({ s with dig := x } : State).ev = s.ev := rfl
theorem State.with_dig_recd (s : State) (x : DigSt) : ({ s with dig := x } : State).recd = s.recd := rfl
theorem State.with_dig_afe (s : State) (x : DigSt) : ({ s with dig := x } : State).afe = s.afe := rfl
theorem State.with_dig_tdc (s : State) (x : DigSt) : ({ s with dig := x } : State).tdc = s.tdc := rfl
theorem State.with_dig_trg (s : State) (x : DigSt) : ({ s with dig := x } : State).trg = s.trg := rfl
theorem State.with_dig_loop (s : State) (x : DigSt) : ({ s with dig := x } : State).loop = s.loop := rfl
theorem State.with_dig_deck (s : State) (x : DigSt) : ({ s with dig := x } : State).deck = s.deck := rfl
theorem State.with_dig_seam (s : State) (x : DigSt) : ({ s with dig := x } : State).seam = s.seam := rfl
theorem State.with_dig_ctx (s : State) (x : DigSt) : ({ s with dig := x } : State).ctx = s.ctx := rfl
theorem State.with_dig_fab (s : State) (x : DigSt) : ({ s with dig := x } : State).fab = s.fab := rfl
theorem State.with_dig_lane (s : State) (x : DigSt) : ({ s with dig := x } : State).lane = s.lane := rfl
theorem State.with_dig_ddr (s : State) (x : DigSt) : ({ s with dig := x } : State).ddr = s.ddr := rfl
theorem State.with_dig_host (s : State) (x : DigSt) : ({ s with dig := x } : State).host = s.host := rfl
theorem State.with_dig_mbox (s : State) (x : DigSt) : ({ s with dig := x } : State).mbox = s.mbox := rfl
theorem State.with_dig_core (s : State) (x : DigSt) : ({ s with dig := x } : State).core = s.core := rfl
theorem State.with_dig_mem (s : State) (x : DigSt) : ({ s with dig := x } : State).mem = s.mem := rfl
theorem State.with_dig_press (s : State) (x : DigSt) : ({ s with dig := x } : State).press = s.press := rfl
theorem State.with_dig_sec (s : State) (x : DigSt) : ({ s with dig := x } : State).sec = s.sec := rfl
theorem State.with_dig_pwr (s : State) (x : DigSt) : ({ s with dig := x } : State).pwr = s.pwr := rfl
theorem State.with_dig_regs (s : State) (x : DigSt) : ({ s with dig := x } : State).regs = s.regs := rfl
theorem State.with_dig_out (s : State) (x : DigSt) : ({ s with dig := x } : State).out = s.out := rfl
theorem State.with_dig_free (s : State) (x : DigSt) : ({ s with dig := x } : State).free = s.free := rfl
theorem State.with_dig_pending (s : State) (x : DigSt) : ({ s with dig := x } : State).pending = s.pending := rfl

theorem State.with_tdc_time (s : State) (x : TdcSt) : ({ s with tdc := x } : State).time = s.time := rfl
theorem State.with_tdc_ev (s : State) (x : TdcSt) : ({ s with tdc := x } : State).ev = s.ev := rfl
theorem State.with_tdc_recd (s : State) (x : TdcSt) : ({ s with tdc := x } : State).recd = s.recd := rfl
theorem State.with_tdc_afe (s : State) (x : TdcSt) : ({ s with tdc := x } : State).afe = s.afe := rfl
theorem State.with_tdc_dig (s : State) (x : TdcSt) : ({ s with tdc := x } : State).dig = s.dig := rfl
theorem State.with_tdc_trg (s : State) (x : TdcSt) : ({ s with tdc := x } : State).trg = s.trg := rfl
theorem State.with_tdc_loop (s : State) (x : TdcSt) : ({ s with tdc := x } : State).loop = s.loop := rfl
theorem State.with_tdc_deck (s : State) (x : TdcSt) : ({ s with tdc := x } : State).deck = s.deck := rfl
theorem State.with_tdc_seam (s : State) (x : TdcSt) : ({ s with tdc := x } : State).seam = s.seam := rfl
theorem State.with_tdc_ctx (s : State) (x : TdcSt) : ({ s with tdc := x } : State).ctx = s.ctx := rfl
theorem State.with_tdc_fab (s : State) (x : TdcSt) : ({ s with tdc := x } : State).fab = s.fab := rfl
theorem State.with_tdc_lane (s : State) (x : TdcSt) : ({ s with tdc := x } : State).lane = s.lane := rfl
theorem State.with_tdc_ddr (s : State) (x : TdcSt) : ({ s with tdc := x } : State).ddr = s.ddr := rfl
theorem State.with_tdc_host (s : State) (x : TdcSt) : ({ s with tdc := x } : State).host = s.host := rfl
theorem State.with_tdc_mbox (s : State) (x : TdcSt) : ({ s with tdc := x } : State).mbox = s.mbox := rfl
theorem State.with_tdc_core (s : State) (x : TdcSt) : ({ s with tdc := x } : State).core = s.core := rfl
theorem State.with_tdc_mem (s : State) (x : TdcSt) : ({ s with tdc := x } : State).mem = s.mem := rfl
theorem State.with_tdc_press (s : State) (x : TdcSt) : ({ s with tdc := x } : State).press = s.press := rfl
theorem State.with_tdc_sec (s : State) (x : TdcSt) : ({ s with tdc := x } : State).sec = s.sec := rfl
theorem State.with_tdc_pwr (s : State) (x : TdcSt) : ({ s with tdc := x } : State).pwr = s.pwr := rfl
theorem State.with_tdc_regs (s : State) (x : TdcSt) : ({ s with tdc := x } : State).regs = s.regs := rfl
theorem State.with_tdc_out (s : State) (x : TdcSt) : ({ s with tdc := x } : State).out = s.out := rfl
theorem State.with_tdc_free (s : State) (x : TdcSt) : ({ s with tdc := x } : State).free = s.free := rfl
theorem State.with_tdc_pending (s : State) (x : TdcSt) : ({ s with tdc := x } : State).pending = s.pending := rfl

theorem State.with_loop_time (s : State) (x : LoopSt) : ({ s with loop := x } : State).time = s.time := rfl
theorem State.with_loop_ev (s : State) (x : LoopSt) : ({ s with loop := x } : State).ev = s.ev := rfl
theorem State.with_loop_recd (s : State) (x : LoopSt) : ({ s with loop := x } : State).recd = s.recd := rfl
theorem State.with_loop_afe (s : State) (x : LoopSt) : ({ s with loop := x } : State).afe = s.afe := rfl
theorem State.with_loop_dig (s : State) (x : LoopSt) : ({ s with loop := x } : State).dig = s.dig := rfl
theorem State.with_loop_tdc (s : State) (x : LoopSt) : ({ s with loop := x } : State).tdc = s.tdc := rfl
theorem State.with_loop_trg (s : State) (x : LoopSt) : ({ s with loop := x } : State).trg = s.trg := rfl
theorem State.with_loop_deck (s : State) (x : LoopSt) : ({ s with loop := x } : State).deck = s.deck := rfl
theorem State.with_loop_seam (s : State) (x : LoopSt) : ({ s with loop := x } : State).seam = s.seam := rfl
theorem State.with_loop_ctx (s : State) (x : LoopSt) : ({ s with loop := x } : State).ctx = s.ctx := rfl
theorem State.with_loop_fab (s : State) (x : LoopSt) : ({ s with loop := x } : State).fab = s.fab := rfl
theorem State.with_loop_lane (s : State) (x : LoopSt) : ({ s with loop := x } : State).lane = s.lane := rfl
theorem State.with_loop_ddr (s : State) (x : LoopSt) : ({ s with loop := x } : State).ddr = s.ddr := rfl
theorem State.with_loop_host (s : State) (x : LoopSt) : ({ s with loop := x } : State).host = s.host := rfl
theorem State.with_loop_mbox (s : State) (x : LoopSt) : ({ s with loop := x } : State).mbox = s.mbox := rfl
theorem State.with_loop_core (s : State) (x : LoopSt) : ({ s with loop := x } : State).core = s.core := rfl
theorem State.with_loop_mem (s : State) (x : LoopSt) : ({ s with loop := x } : State).mem = s.mem := rfl
theorem State.with_loop_press (s : State) (x : LoopSt) : ({ s with loop := x } : State).press = s.press := rfl
theorem State.with_loop_sec (s : State) (x : LoopSt) : ({ s with loop := x } : State).sec = s.sec := rfl
theorem State.with_loop_pwr (s : State) (x : LoopSt) : ({ s with loop := x } : State).pwr = s.pwr := rfl
theorem State.with_loop_regs (s : State) (x : LoopSt) : ({ s with loop := x } : State).regs = s.regs := rfl
theorem State.with_loop_out (s : State) (x : LoopSt) : ({ s with loop := x } : State).out = s.out := rfl
theorem State.with_loop_free (s : State) (x : LoopSt) : ({ s with loop := x } : State).free = s.free := rfl
theorem State.with_loop_pending (s : State) (x : LoopSt) : ({ s with loop := x } : State).pending = s.pending := rfl

theorem State.with_seam_time (s : State) (x : SeamSt) : ({ s with seam := x } : State).time = s.time := rfl
theorem State.with_seam_ev (s : State) (x : SeamSt) : ({ s with seam := x } : State).ev = s.ev := rfl
theorem State.with_seam_recd (s : State) (x : SeamSt) : ({ s with seam := x } : State).recd = s.recd := rfl
theorem State.with_seam_afe (s : State) (x : SeamSt) : ({ s with seam := x } : State).afe = s.afe := rfl
theorem State.with_seam_dig (s : State) (x : SeamSt) : ({ s with seam := x } : State).dig = s.dig := rfl
theorem State.with_seam_tdc (s : State) (x : SeamSt) : ({ s with seam := x } : State).tdc = s.tdc := rfl
theorem State.with_seam_trg (s : State) (x : SeamSt) : ({ s with seam := x } : State).trg = s.trg := rfl
theorem State.with_seam_loop (s : State) (x : SeamSt) : ({ s with seam := x } : State).loop = s.loop := rfl
theorem State.with_seam_deck (s : State) (x : SeamSt) : ({ s with seam := x } : State).deck = s.deck := rfl
theorem State.with_seam_ctx (s : State) (x : SeamSt) : ({ s with seam := x } : State).ctx = s.ctx := rfl
theorem State.with_seam_fab (s : State) (x : SeamSt) : ({ s with seam := x } : State).fab = s.fab := rfl
theorem State.with_seam_lane (s : State) (x : SeamSt) : ({ s with seam := x } : State).lane = s.lane := rfl
theorem State.with_seam_ddr (s : State) (x : SeamSt) : ({ s with seam := x } : State).ddr = s.ddr := rfl
theorem State.with_seam_host (s : State) (x : SeamSt) : ({ s with seam := x } : State).host = s.host := rfl
theorem State.with_seam_mbox (s : State) (x : SeamSt) : ({ s with seam := x } : State).mbox = s.mbox := rfl
theorem State.with_seam_core (s : State) (x : SeamSt) : ({ s with seam := x } : State).core = s.core := rfl
theorem State.with_seam_mem (s : State) (x : SeamSt) : ({ s with seam := x } : State).mem = s.mem := rfl
theorem State.with_seam_press (s : State) (x : SeamSt) : ({ s with seam := x } : State).press = s.press := rfl
theorem State.with_seam_sec (s : State) (x : SeamSt) : ({ s with seam := x } : State).sec = s.sec := rfl
theorem State.with_seam_pwr (s : State) (x : SeamSt) : ({ s with seam := x } : State).pwr = s.pwr := rfl
theorem State.with_seam_regs (s : State) (x : SeamSt) : ({ s with seam := x } : State).regs = s.regs := rfl
theorem State.with_seam_out (s : State) (x : SeamSt) : ({ s with seam := x } : State).out = s.out := rfl
theorem State.with_seam_free (s : State) (x : SeamSt) : ({ s with seam := x } : State).free = s.free := rfl
theorem State.with_seam_pending (s : State) (x : SeamSt) : ({ s with seam := x } : State).pending = s.pending := rfl

theorem State.with_ctx_time (s : State) (x : CtxBlk) : ({ s with ctx := x } : State).time = s.time := rfl
theorem State.with_ctx_ev (s : State) (x : CtxBlk) : ({ s with ctx := x } : State).ev = s.ev := rfl
theorem State.with_ctx_recd (s : State) (x : CtxBlk) : ({ s with ctx := x } : State).recd = s.recd := rfl
theorem State.with_ctx_afe (s : State) (x : CtxBlk) : ({ s with ctx := x } : State).afe = s.afe := rfl
theorem State.with_ctx_dig (s : State) (x : CtxBlk) : ({ s with ctx := x } : State).dig = s.dig := rfl
theorem State.with_ctx_tdc (s : State) (x : CtxBlk) : ({ s with ctx := x } : State).tdc = s.tdc := rfl
theorem State.with_ctx_trg (s : State) (x : CtxBlk) : ({ s with ctx := x } : State).trg = s.trg := rfl
theorem State.with_ctx_loop (s : State) (x : CtxBlk) : ({ s with ctx := x } : State).loop = s.loop := rfl
theorem State.with_ctx_deck (s : State) (x : CtxBlk) : ({ s with ctx := x } : State).deck = s.deck := rfl
theorem State.with_ctx_seam (s : State) (x : CtxBlk) : ({ s with ctx := x } : State).seam = s.seam := rfl
theorem State.with_ctx_fab (s : State) (x : CtxBlk) : ({ s with ctx := x } : State).fab = s.fab := rfl
theorem State.with_ctx_lane (s : State) (x : CtxBlk) : ({ s with ctx := x } : State).lane = s.lane := rfl
theorem State.with_ctx_ddr (s : State) (x : CtxBlk) : ({ s with ctx := x } : State).ddr = s.ddr := rfl
theorem State.with_ctx_host (s : State) (x : CtxBlk) : ({ s with ctx := x } : State).host = s.host := rfl
theorem State.with_ctx_mbox (s : State) (x : CtxBlk) : ({ s with ctx := x } : State).mbox = s.mbox := rfl
theorem State.with_ctx_core (s : State) (x : CtxBlk) : ({ s with ctx := x } : State).core = s.core := rfl
theorem State.with_ctx_mem (s : State) (x : CtxBlk) : ({ s with ctx := x } : State).mem = s.mem := rfl
theorem State.with_ctx_press (s : State) (x : CtxBlk) : ({ s with ctx := x } : State).press = s.press := rfl
theorem State.with_ctx_sec (s : State) (x : CtxBlk) : ({ s with ctx := x } : State).sec = s.sec := rfl
theorem State.with_ctx_pwr (s : State) (x : CtxBlk) : ({ s with ctx := x } : State).pwr = s.pwr := rfl
theorem State.with_ctx_regs (s : State) (x : CtxBlk) : ({ s with ctx := x } : State).regs = s.regs := rfl
theorem State.with_ctx_out (s : State) (x : CtxBlk) : ({ s with ctx := x } : State).out = s.out := rfl
theorem State.with_ctx_free (s : State) (x : CtxBlk) : ({ s with ctx := x } : State).free = s.free := rfl
theorem State.with_ctx_pending (s : State) (x : CtxBlk) : ({ s with ctx := x } : State).pending = s.pending := rfl

theorem State.with_fab_time (s : State) (x : FabSt) : ({ s with fab := x } : State).time = s.time := rfl
theorem State.with_fab_ev (s : State) (x : FabSt) : ({ s with fab := x } : State).ev = s.ev := rfl
theorem State.with_fab_recd (s : State) (x : FabSt) : ({ s with fab := x } : State).recd = s.recd := rfl
theorem State.with_fab_afe (s : State) (x : FabSt) : ({ s with fab := x } : State).afe = s.afe := rfl
theorem State.with_fab_dig (s : State) (x : FabSt) : ({ s with fab := x } : State).dig = s.dig := rfl
theorem State.with_fab_tdc (s : State) (x : FabSt) : ({ s with fab := x } : State).tdc = s.tdc := rfl
theorem State.with_fab_trg (s : State) (x : FabSt) : ({ s with fab := x } : State).trg = s.trg := rfl
theorem State.with_fab_loop (s : State) (x : FabSt) : ({ s with fab := x } : State).loop = s.loop := rfl
theorem State.with_fab_deck (s : State) (x : FabSt) : ({ s with fab := x } : State).deck = s.deck := rfl
theorem State.with_fab_seam (s : State) (x : FabSt) : ({ s with fab := x } : State).seam = s.seam := rfl
theorem State.with_fab_ctx (s : State) (x : FabSt) : ({ s with fab := x } : State).ctx = s.ctx := rfl
theorem State.with_fab_lane (s : State) (x : FabSt) : ({ s with fab := x } : State).lane = s.lane := rfl
theorem State.with_fab_ddr (s : State) (x : FabSt) : ({ s with fab := x } : State).ddr = s.ddr := rfl
theorem State.with_fab_host (s : State) (x : FabSt) : ({ s with fab := x } : State).host = s.host := rfl
theorem State.with_fab_mbox (s : State) (x : FabSt) : ({ s with fab := x } : State).mbox = s.mbox := rfl
theorem State.with_fab_core (s : State) (x : FabSt) : ({ s with fab := x } : State).core = s.core := rfl
theorem State.with_fab_mem (s : State) (x : FabSt) : ({ s with fab := x } : State).mem = s.mem := rfl
theorem State.with_fab_press (s : State) (x : FabSt) : ({ s with fab := x } : State).press = s.press := rfl
theorem State.with_fab_sec (s : State) (x : FabSt) : ({ s with fab := x } : State).sec = s.sec := rfl
theorem State.with_fab_pwr (s : State) (x : FabSt) : ({ s with fab := x } : State).pwr = s.pwr := rfl
theorem State.with_fab_regs (s : State) (x : FabSt) : ({ s with fab := x } : State).regs = s.regs := rfl
theorem State.with_fab_out (s : State) (x : FabSt) : ({ s with fab := x } : State).out = s.out := rfl
theorem State.with_fab_free (s : State) (x : FabSt) : ({ s with fab := x } : State).free = s.free := rfl
theorem State.with_fab_pending (s : State) (x : FabSt) : ({ s with fab := x } : State).pending = s.pending := rfl

theorem State.with_lane_time (s : State) (x : LaneBlk) : ({ s with lane := x } : State).time = s.time := rfl
theorem State.with_lane_ev (s : State) (x : LaneBlk) : ({ s with lane := x } : State).ev = s.ev := rfl
theorem State.with_lane_recd (s : State) (x : LaneBlk) : ({ s with lane := x } : State).recd = s.recd := rfl
theorem State.with_lane_afe (s : State) (x : LaneBlk) : ({ s with lane := x } : State).afe = s.afe := rfl
theorem State.with_lane_dig (s : State) (x : LaneBlk) : ({ s with lane := x } : State).dig = s.dig := rfl
theorem State.with_lane_tdc (s : State) (x : LaneBlk) : ({ s with lane := x } : State).tdc = s.tdc := rfl
theorem State.with_lane_trg (s : State) (x : LaneBlk) : ({ s with lane := x } : State).trg = s.trg := rfl
theorem State.with_lane_loop (s : State) (x : LaneBlk) : ({ s with lane := x } : State).loop = s.loop := rfl
theorem State.with_lane_deck (s : State) (x : LaneBlk) : ({ s with lane := x } : State).deck = s.deck := rfl
theorem State.with_lane_seam (s : State) (x : LaneBlk) : ({ s with lane := x } : State).seam = s.seam := rfl
theorem State.with_lane_ctx (s : State) (x : LaneBlk) : ({ s with lane := x } : State).ctx = s.ctx := rfl
theorem State.with_lane_fab (s : State) (x : LaneBlk) : ({ s with lane := x } : State).fab = s.fab := rfl
theorem State.with_lane_ddr (s : State) (x : LaneBlk) : ({ s with lane := x } : State).ddr = s.ddr := rfl
theorem State.with_lane_host (s : State) (x : LaneBlk) : ({ s with lane := x } : State).host = s.host := rfl
theorem State.with_lane_mbox (s : State) (x : LaneBlk) : ({ s with lane := x } : State).mbox = s.mbox := rfl
theorem State.with_lane_core (s : State) (x : LaneBlk) : ({ s with lane := x } : State).core = s.core := rfl
theorem State.with_lane_mem (s : State) (x : LaneBlk) : ({ s with lane := x } : State).mem = s.mem := rfl
theorem State.with_lane_press (s : State) (x : LaneBlk) : ({ s with lane := x } : State).press = s.press := rfl
theorem State.with_lane_sec (s : State) (x : LaneBlk) : ({ s with lane := x } : State).sec = s.sec := rfl
theorem State.with_lane_pwr (s : State) (x : LaneBlk) : ({ s with lane := x } : State).pwr = s.pwr := rfl
theorem State.with_lane_regs (s : State) (x : LaneBlk) : ({ s with lane := x } : State).regs = s.regs := rfl
theorem State.with_lane_out (s : State) (x : LaneBlk) : ({ s with lane := x } : State).out = s.out := rfl
theorem State.with_lane_free (s : State) (x : LaneBlk) : ({ s with lane := x } : State).free = s.free := rfl
theorem State.with_lane_pending (s : State) (x : LaneBlk) : ({ s with lane := x } : State).pending = s.pending := rfl

theorem State.with_ddr_time (s : State) (x : DdrBlk) : ({ s with ddr := x } : State).time = s.time := rfl
theorem State.with_ddr_ev (s : State) (x : DdrBlk) : ({ s with ddr := x } : State).ev = s.ev := rfl
theorem State.with_ddr_recd (s : State) (x : DdrBlk) : ({ s with ddr := x } : State).recd = s.recd := rfl
theorem State.with_ddr_afe (s : State) (x : DdrBlk) : ({ s with ddr := x } : State).afe = s.afe := rfl
theorem State.with_ddr_dig (s : State) (x : DdrBlk) : ({ s with ddr := x } : State).dig = s.dig := rfl
theorem State.with_ddr_tdc (s : State) (x : DdrBlk) : ({ s with ddr := x } : State).tdc = s.tdc := rfl
theorem State.with_ddr_trg (s : State) (x : DdrBlk) : ({ s with ddr := x } : State).trg = s.trg := rfl
theorem State.with_ddr_loop (s : State) (x : DdrBlk) : ({ s with ddr := x } : State).loop = s.loop := rfl
theorem State.with_ddr_deck (s : State) (x : DdrBlk) : ({ s with ddr := x } : State).deck = s.deck := rfl
theorem State.with_ddr_seam (s : State) (x : DdrBlk) : ({ s with ddr := x } : State).seam = s.seam := rfl
theorem State.with_ddr_ctx (s : State) (x : DdrBlk) : ({ s with ddr := x } : State).ctx = s.ctx := rfl
theorem State.with_ddr_fab (s : State) (x : DdrBlk) : ({ s with ddr := x } : State).fab = s.fab := rfl
theorem State.with_ddr_lane (s : State) (x : DdrBlk) : ({ s with ddr := x } : State).lane = s.lane := rfl
theorem State.with_ddr_host (s : State) (x : DdrBlk) : ({ s with ddr := x } : State).host = s.host := rfl
theorem State.with_ddr_mbox (s : State) (x : DdrBlk) : ({ s with ddr := x } : State).mbox = s.mbox := rfl
theorem State.with_ddr_core (s : State) (x : DdrBlk) : ({ s with ddr := x } : State).core = s.core := rfl
theorem State.with_ddr_mem (s : State) (x : DdrBlk) : ({ s with ddr := x } : State).mem = s.mem := rfl
theorem State.with_ddr_press (s : State) (x : DdrBlk) : ({ s with ddr := x } : State).press = s.press := rfl
theorem State.with_ddr_sec (s : State) (x : DdrBlk) : ({ s with ddr := x } : State).sec = s.sec := rfl
theorem State.with_ddr_pwr (s : State) (x : DdrBlk) : ({ s with ddr := x } : State).pwr = s.pwr := rfl
theorem State.with_ddr_regs (s : State) (x : DdrBlk) : ({ s with ddr := x } : State).regs = s.regs := rfl
theorem State.with_ddr_out (s : State) (x : DdrBlk) : ({ s with ddr := x } : State).out = s.out := rfl
theorem State.with_ddr_free (s : State) (x : DdrBlk) : ({ s with ddr := x } : State).free = s.free := rfl
theorem State.with_ddr_pending (s : State) (x : DdrBlk) : ({ s with ddr := x } : State).pending = s.pending := rfl

theorem State.with_host_time (s : State) (x : HostSt) : ({ s with host := x } : State).time = s.time := rfl
theorem State.with_host_ev (s : State) (x : HostSt) : ({ s with host := x } : State).ev = s.ev := rfl
theorem State.with_host_recd (s : State) (x : HostSt) : ({ s with host := x } : State).recd = s.recd := rfl
theorem State.with_host_afe (s : State) (x : HostSt) : ({ s with host := x } : State).afe = s.afe := rfl
theorem State.with_host_dig (s : State) (x : HostSt) : ({ s with host := x } : State).dig = s.dig := rfl
theorem State.with_host_tdc (s : State) (x : HostSt) : ({ s with host := x } : State).tdc = s.tdc := rfl
theorem State.with_host_trg (s : State) (x : HostSt) : ({ s with host := x } : State).trg = s.trg := rfl
theorem State.with_host_loop (s : State) (x : HostSt) : ({ s with host := x } : State).loop = s.loop := rfl
theorem State.with_host_deck (s : State) (x : HostSt) : ({ s with host := x } : State).deck = s.deck := rfl
theorem State.with_host_seam (s : State) (x : HostSt) : ({ s with host := x } : State).seam = s.seam := rfl
theorem State.with_host_ctx (s : State) (x : HostSt) : ({ s with host := x } : State).ctx = s.ctx := rfl
theorem State.with_host_fab (s : State) (x : HostSt) : ({ s with host := x } : State).fab = s.fab := rfl
theorem State.with_host_lane (s : State) (x : HostSt) : ({ s with host := x } : State).lane = s.lane := rfl
theorem State.with_host_ddr (s : State) (x : HostSt) : ({ s with host := x } : State).ddr = s.ddr := rfl
theorem State.with_host_mbox (s : State) (x : HostSt) : ({ s with host := x } : State).mbox = s.mbox := rfl
theorem State.with_host_core (s : State) (x : HostSt) : ({ s with host := x } : State).core = s.core := rfl
theorem State.with_host_mem (s : State) (x : HostSt) : ({ s with host := x } : State).mem = s.mem := rfl
theorem State.with_host_press (s : State) (x : HostSt) : ({ s with host := x } : State).press = s.press := rfl
theorem State.with_host_sec (s : State) (x : HostSt) : ({ s with host := x } : State).sec = s.sec := rfl
theorem State.with_host_pwr (s : State) (x : HostSt) : ({ s with host := x } : State).pwr = s.pwr := rfl
theorem State.with_host_regs (s : State) (x : HostSt) : ({ s with host := x } : State).regs = s.regs := rfl
theorem State.with_host_out (s : State) (x : HostSt) : ({ s with host := x } : State).out = s.out := rfl
theorem State.with_host_free (s : State) (x : HostSt) : ({ s with host := x } : State).free = s.free := rfl
theorem State.with_host_pending (s : State) (x : HostSt) : ({ s with host := x } : State).pending = s.pending := rfl

theorem State.with_core_time (s : State) (x : CoreSt) : ({ s with core := x } : State).time = s.time := rfl
theorem State.with_core_ev (s : State) (x : CoreSt) : ({ s with core := x } : State).ev = s.ev := rfl
theorem State.with_core_recd (s : State) (x : CoreSt) : ({ s with core := x } : State).recd = s.recd := rfl
theorem State.with_core_afe (s : State) (x : CoreSt) : ({ s with core := x } : State).afe = s.afe := rfl
theorem State.with_core_dig (s : State) (x : CoreSt) : ({ s with core := x } : State).dig = s.dig := rfl
theorem State.with_core_tdc (s : State) (x : CoreSt) : ({ s with core := x } : State).tdc = s.tdc := rfl
theorem State.with_core_trg (s : State) (x : CoreSt) : ({ s with core := x } : State).trg = s.trg := rfl
theorem State.with_core_loop (s : State) (x : CoreSt) : ({ s with core := x } : State).loop = s.loop := rfl
theorem State.with_core_deck (s : State) (x : CoreSt) : ({ s with core := x } : State).deck = s.deck := rfl
theorem State.with_core_seam (s : State) (x : CoreSt) : ({ s with core := x } : State).seam = s.seam := rfl
theorem State.with_core_ctx (s : State) (x : CoreSt) : ({ s with core := x } : State).ctx = s.ctx := rfl
theorem State.with_core_fab (s : State) (x : CoreSt) : ({ s with core := x } : State).fab = s.fab := rfl
theorem State.with_core_lane (s : State) (x : CoreSt) : ({ s with core := x } : State).lane = s.lane := rfl
theorem State.with_core_ddr (s : State) (x : CoreSt) : ({ s with core := x } : State).ddr = s.ddr := rfl
theorem State.with_core_host (s : State) (x : CoreSt) : ({ s with core := x } : State).host = s.host := rfl
theorem State.with_core_mbox (s : State) (x : CoreSt) : ({ s with core := x } : State).mbox = s.mbox := rfl
theorem State.with_core_mem (s : State) (x : CoreSt) : ({ s with core := x } : State).mem = s.mem := rfl
theorem State.with_core_press (s : State) (x : CoreSt) : ({ s with core := x } : State).press = s.press := rfl
theorem State.with_core_sec (s : State) (x : CoreSt) : ({ s with core := x } : State).sec = s.sec := rfl
theorem State.with_core_pwr (s : State) (x : CoreSt) : ({ s with core := x } : State).pwr = s.pwr := rfl
theorem State.with_core_regs (s : State) (x : CoreSt) : ({ s with core := x } : State).regs = s.regs := rfl
theorem State.with_core_out (s : State) (x : CoreSt) : ({ s with core := x } : State).out = s.out := rfl
theorem State.with_core_free (s : State) (x : CoreSt) : ({ s with core := x } : State).free = s.free := rfl
theorem State.with_core_pending (s : State) (x : CoreSt) : ({ s with core := x } : State).pending = s.pending := rfl

theorem State.with_regs_time (s : State) (x : Tbl W64) : ({ s with regs := x } : State).time = s.time := rfl
theorem State.with_regs_ev (s : State) (x : Tbl W64) : ({ s with regs := x } : State).ev = s.ev := rfl
theorem State.with_regs_recd (s : State) (x : Tbl W64) : ({ s with regs := x } : State).recd = s.recd := rfl
theorem State.with_regs_afe (s : State) (x : Tbl W64) : ({ s with regs := x } : State).afe = s.afe := rfl
theorem State.with_regs_dig (s : State) (x : Tbl W64) : ({ s with regs := x } : State).dig = s.dig := rfl
theorem State.with_regs_tdc (s : State) (x : Tbl W64) : ({ s with regs := x } : State).tdc = s.tdc := rfl
theorem State.with_regs_trg (s : State) (x : Tbl W64) : ({ s with regs := x } : State).trg = s.trg := rfl
theorem State.with_regs_loop (s : State) (x : Tbl W64) : ({ s with regs := x } : State).loop = s.loop := rfl
theorem State.with_regs_deck (s : State) (x : Tbl W64) : ({ s with regs := x } : State).deck = s.deck := rfl
theorem State.with_regs_seam (s : State) (x : Tbl W64) : ({ s with regs := x } : State).seam = s.seam := rfl
theorem State.with_regs_ctx (s : State) (x : Tbl W64) : ({ s with regs := x } : State).ctx = s.ctx := rfl
theorem State.with_regs_fab (s : State) (x : Tbl W64) : ({ s with regs := x } : State).fab = s.fab := rfl
theorem State.with_regs_lane (s : State) (x : Tbl W64) : ({ s with regs := x } : State).lane = s.lane := rfl
theorem State.with_regs_ddr (s : State) (x : Tbl W64) : ({ s with regs := x } : State).ddr = s.ddr := rfl
theorem State.with_regs_host (s : State) (x : Tbl W64) : ({ s with regs := x } : State).host = s.host := rfl
theorem State.with_regs_mbox (s : State) (x : Tbl W64) : ({ s with regs := x } : State).mbox = s.mbox := rfl
theorem State.with_regs_core (s : State) (x : Tbl W64) : ({ s with regs := x } : State).core = s.core := rfl
theorem State.with_regs_mem (s : State) (x : Tbl W64) : ({ s with regs := x } : State).mem = s.mem := rfl
theorem State.with_regs_press (s : State) (x : Tbl W64) : ({ s with regs := x } : State).press = s.press := rfl
theorem State.with_regs_sec (s : State) (x : Tbl W64) : ({ s with regs := x } : State).sec = s.sec := rfl
theorem State.with_regs_pwr (s : State) (x : Tbl W64) : ({ s with regs := x } : State).pwr = s.pwr := rfl
theorem State.with_regs_out (s : State) (x : Tbl W64) : ({ s with regs := x } : State).out = s.out := rfl
theorem State.with_regs_free (s : State) (x : Tbl W64) : ({ s with regs := x } : State).free = s.free := rfl
theorem State.with_regs_pending (s : State) (x : Tbl W64) : ({ s with regs := x } : State).pending = s.pending := rfl

theorem State.with_out_time (s : State) (x : List Out) : ({ s with out := x } : State).time = s.time := rfl
theorem State.with_out_ev (s : State) (x : List Out) : ({ s with out := x } : State).ev = s.ev := rfl
theorem State.with_out_recd (s : State) (x : List Out) : ({ s with out := x } : State).recd = s.recd := rfl
theorem State.with_out_afe (s : State) (x : List Out) : ({ s with out := x } : State).afe = s.afe := rfl
theorem State.with_out_dig (s : State) (x : List Out) : ({ s with out := x } : State).dig = s.dig := rfl
theorem State.with_out_tdc (s : State) (x : List Out) : ({ s with out := x } : State).tdc = s.tdc := rfl
theorem State.with_out_trg (s : State) (x : List Out) : ({ s with out := x } : State).trg = s.trg := rfl
theorem State.with_out_loop (s : State) (x : List Out) : ({ s with out := x } : State).loop = s.loop := rfl
theorem State.with_out_deck (s : State) (x : List Out) : ({ s with out := x } : State).deck = s.deck := rfl
theorem State.with_out_seam (s : State) (x : List Out) : ({ s with out := x } : State).seam = s.seam := rfl
theorem State.with_out_ctx (s : State) (x : List Out) : ({ s with out := x } : State).ctx = s.ctx := rfl
theorem State.with_out_fab (s : State) (x : List Out) : ({ s with out := x } : State).fab = s.fab := rfl
theorem State.with_out_lane (s : State) (x : List Out) : ({ s with out := x } : State).lane = s.lane := rfl
theorem State.with_out_ddr (s : State) (x : List Out) : ({ s with out := x } : State).ddr = s.ddr := rfl
theorem State.with_out_host (s : State) (x : List Out) : ({ s with out := x } : State).host = s.host := rfl
theorem State.with_out_mbox (s : State) (x : List Out) : ({ s with out := x } : State).mbox = s.mbox := rfl
theorem State.with_out_core (s : State) (x : List Out) : ({ s with out := x } : State).core = s.core := rfl
theorem State.with_out_mem (s : State) (x : List Out) : ({ s with out := x } : State).mem = s.mem := rfl
theorem State.with_out_press (s : State) (x : List Out) : ({ s with out := x } : State).press = s.press := rfl
theorem State.with_out_sec (s : State) (x : List Out) : ({ s with out := x } : State).sec = s.sec := rfl
theorem State.with_out_pwr (s : State) (x : List Out) : ({ s with out := x } : State).pwr = s.pwr := rfl
theorem State.with_out_regs (s : State) (x : List Out) : ({ s with out := x } : State).regs = s.regs := rfl
theorem State.with_out_free (s : State) (x : List Out) : ({ s with out := x } : State).free = s.free := rfl
theorem State.with_out_pending (s : State) (x : List Out) : ({ s with out := x } : State).pending = s.pending := rfl

theorem State.with_free_time (s : State) (x : Nat) : ({ s with free := x } : State).time = s.time := rfl
theorem State.with_free_ev (s : State) (x : Nat) : ({ s with free := x } : State).ev = s.ev := rfl
theorem State.with_free_recd (s : State) (x : Nat) : ({ s with free := x } : State).recd = s.recd := rfl
theorem State.with_free_afe (s : State) (x : Nat) : ({ s with free := x } : State).afe = s.afe := rfl
theorem State.with_free_dig (s : State) (x : Nat) : ({ s with free := x } : State).dig = s.dig := rfl
theorem State.with_free_tdc (s : State) (x : Nat) : ({ s with free := x } : State).tdc = s.tdc := rfl
theorem State.with_free_trg (s : State) (x : Nat) : ({ s with free := x } : State).trg = s.trg := rfl
theorem State.with_free_loop (s : State) (x : Nat) : ({ s with free := x } : State).loop = s.loop := rfl
theorem State.with_free_deck (s : State) (x : Nat) : ({ s with free := x } : State).deck = s.deck := rfl
theorem State.with_free_seam (s : State) (x : Nat) : ({ s with free := x } : State).seam = s.seam := rfl
theorem State.with_free_ctx (s : State) (x : Nat) : ({ s with free := x } : State).ctx = s.ctx := rfl
theorem State.with_free_fab (s : State) (x : Nat) : ({ s with free := x } : State).fab = s.fab := rfl
theorem State.with_free_lane (s : State) (x : Nat) : ({ s with free := x } : State).lane = s.lane := rfl
theorem State.with_free_ddr (s : State) (x : Nat) : ({ s with free := x } : State).ddr = s.ddr := rfl
theorem State.with_free_host (s : State) (x : Nat) : ({ s with free := x } : State).host = s.host := rfl
theorem State.with_free_mbox (s : State) (x : Nat) : ({ s with free := x } : State).mbox = s.mbox := rfl
theorem State.with_free_core (s : State) (x : Nat) : ({ s with free := x } : State).core = s.core := rfl
theorem State.with_free_mem (s : State) (x : Nat) : ({ s with free := x } : State).mem = s.mem := rfl
theorem State.with_free_press (s : State) (x : Nat) : ({ s with free := x } : State).press = s.press := rfl
theorem State.with_free_sec (s : State) (x : Nat) : ({ s with free := x } : State).sec = s.sec := rfl
theorem State.with_free_pwr (s : State) (x : Nat) : ({ s with free := x } : State).pwr = s.pwr := rfl
theorem State.with_free_regs (s : State) (x : Nat) : ({ s with free := x } : State).regs = s.regs := rfl
theorem State.with_free_out (s : State) (x : Nat) : ({ s with free := x } : State).out = s.out := rfl
theorem State.with_free_pending (s : State) (x : Nat) : ({ s with free := x } : State).pending = s.pending := rfl

/-- Parameters read alike where the table of their words is the same. -/
theorem State.get_congr {s u : State} (h : u.regs = s.regs) (g : Fld) (j w : Nat) : u.get g j w = s.get g j w := by
  unfold State.get; rw [h]

@[simp] theorem State.emit_time (s : State) (o : Out) : (State.emit s o).time = s.time := State.with_out_time s _
@[simp] theorem State.emit_ev (s : State) (o : Out) : (State.emit s o).ev = s.ev := State.with_out_ev s _
@[simp] theorem State.emit_recd (s : State) (o : Out) : (State.emit s o).recd = s.recd := State.with_out_recd s _
@[simp] theorem State.emit_afe (s : State) (o : Out) : (State.emit s o).afe = s.afe := State.with_out_afe s _
@[simp] theorem State.emit_dig (s : State) (o : Out) : (State.emit s o).dig = s.dig := State.with_out_dig s _
@[simp] theorem State.emit_tdc (s : State) (o : Out) : (State.emit s o).tdc = s.tdc := State.with_out_tdc s _
@[simp] theorem State.emit_trg (s : State) (o : Out) : (State.emit s o).trg = s.trg := State.with_out_trg s _
@[simp] theorem State.emit_loop (s : State) (o : Out) : (State.emit s o).loop = s.loop := State.with_out_loop s _
@[simp] theorem State.emit_deck (s : State) (o : Out) : (State.emit s o).deck = s.deck := State.with_out_deck s _
@[simp] theorem State.emit_seam (s : State) (o : Out) : (State.emit s o).seam = s.seam := State.with_out_seam s _
@[simp] theorem State.emit_ctx (s : State) (o : Out) : (State.emit s o).ctx = s.ctx := State.with_out_ctx s _
@[simp] theorem State.emit_fab (s : State) (o : Out) : (State.emit s o).fab = s.fab := State.with_out_fab s _
@[simp] theorem State.emit_lane (s : State) (o : Out) : (State.emit s o).lane = s.lane := State.with_out_lane s _
@[simp] theorem State.emit_ddr (s : State) (o : Out) : (State.emit s o).ddr = s.ddr := State.with_out_ddr s _
@[simp] theorem State.emit_host (s : State) (o : Out) : (State.emit s o).host = s.host := State.with_out_host s _
@[simp] theorem State.emit_mbox (s : State) (o : Out) : (State.emit s o).mbox = s.mbox := State.with_out_mbox s _
@[simp] theorem State.emit_core (s : State) (o : Out) : (State.emit s o).core = s.core := State.with_out_core s _
@[simp] theorem State.emit_mem (s : State) (o : Out) : (State.emit s o).mem = s.mem := State.with_out_mem s _
@[simp] theorem State.emit_press (s : State) (o : Out) : (State.emit s o).press = s.press := State.with_out_press s _
@[simp] theorem State.emit_sec (s : State) (o : Out) : (State.emit s o).sec = s.sec := State.with_out_sec s _
@[simp] theorem State.emit_pwr (s : State) (o : Out) : (State.emit s o).pwr = s.pwr := State.with_out_pwr s _
@[simp] theorem State.emit_regs (s : State) (o : Out) : (State.emit s o).regs = s.regs := State.with_out_regs s _
@[simp] theorem State.emit_free (s : State) (o : Out) : (State.emit s o).free = s.free := State.with_out_free s _
@[simp] theorem State.emit_pending (s : State) (o : Out) : (State.emit s o).pending = s.pending := State.with_out_pending s _
@[simp] theorem State.emit_get (s : State) (o : Out) (g : Fld) (j w : Nat) : (State.emit s o).get g j w = s.get g j w :=
  State.get_congr (State.with_out_regs s _) g j w

@[simp] theorem State.drive_time (s : State) (p : Pin) (level : Bool) : (State.drive s p level).time = s.time := State.with_out_time s _
@[simp] theorem State.drive_ev (s : State) (p : Pin) (level : Bool) : (State.drive s p level).ev = s.ev := State.with_out_ev s _
@[simp] theorem State.drive_recd (s : State) (p : Pin) (level : Bool) : (State.drive s p level).recd = s.recd := State.with_out_recd s _
@[simp] theorem State.drive_afe (s : State) (p : Pin) (level : Bool) : (State.drive s p level).afe = s.afe := State.with_out_afe s _
@[simp] theorem State.drive_dig (s : State) (p : Pin) (level : Bool) : (State.drive s p level).dig = s.dig := State.with_out_dig s _
@[simp] theorem State.drive_tdc (s : State) (p : Pin) (level : Bool) : (State.drive s p level).tdc = s.tdc := State.with_out_tdc s _
@[simp] theorem State.drive_trg (s : State) (p : Pin) (level : Bool) : (State.drive s p level).trg = s.trg := State.with_out_trg s _
@[simp] theorem State.drive_loop (s : State) (p : Pin) (level : Bool) : (State.drive s p level).loop = s.loop := State.with_out_loop s _
@[simp] theorem State.drive_deck (s : State) (p : Pin) (level : Bool) : (State.drive s p level).deck = s.deck := State.with_out_deck s _
@[simp] theorem State.drive_seam (s : State) (p : Pin) (level : Bool) : (State.drive s p level).seam = s.seam := State.with_out_seam s _
@[simp] theorem State.drive_ctx (s : State) (p : Pin) (level : Bool) : (State.drive s p level).ctx = s.ctx := State.with_out_ctx s _
@[simp] theorem State.drive_fab (s : State) (p : Pin) (level : Bool) : (State.drive s p level).fab = s.fab := State.with_out_fab s _
@[simp] theorem State.drive_lane (s : State) (p : Pin) (level : Bool) : (State.drive s p level).lane = s.lane := State.with_out_lane s _
@[simp] theorem State.drive_ddr (s : State) (p : Pin) (level : Bool) : (State.drive s p level).ddr = s.ddr := State.with_out_ddr s _
@[simp] theorem State.drive_host (s : State) (p : Pin) (level : Bool) : (State.drive s p level).host = s.host := State.with_out_host s _
@[simp] theorem State.drive_mbox (s : State) (p : Pin) (level : Bool) : (State.drive s p level).mbox = s.mbox := State.with_out_mbox s _
@[simp] theorem State.drive_core (s : State) (p : Pin) (level : Bool) : (State.drive s p level).core = s.core := State.with_out_core s _
@[simp] theorem State.drive_mem (s : State) (p : Pin) (level : Bool) : (State.drive s p level).mem = s.mem := State.with_out_mem s _
@[simp] theorem State.drive_press (s : State) (p : Pin) (level : Bool) : (State.drive s p level).press = s.press := State.with_out_press s _
@[simp] theorem State.drive_sec (s : State) (p : Pin) (level : Bool) : (State.drive s p level).sec = s.sec := State.with_out_sec s _
@[simp] theorem State.drive_pwr (s : State) (p : Pin) (level : Bool) : (State.drive s p level).pwr = s.pwr := State.with_out_pwr s _
@[simp] theorem State.drive_regs (s : State) (p : Pin) (level : Bool) : (State.drive s p level).regs = s.regs := State.with_out_regs s _
@[simp] theorem State.drive_free (s : State) (p : Pin) (level : Bool) : (State.drive s p level).free = s.free := State.with_out_free s _
@[simp] theorem State.drive_pending (s : State) (p : Pin) (level : Bool) : (State.drive s p level).pending = s.pending := State.with_out_pending s _
@[simp] theorem State.drive_get (s : State) (p : Pin) (level : Bool) (g : Fld) (j w : Nat) : (State.drive s p level).get g j w = s.get g j w :=
  State.get_congr (State.with_out_regs s _) g j w

@[simp] theorem State.fresh_time (s : State) : (State.fresh s).time = s.time := State.with_free_time s _
@[simp] theorem State.fresh_ev (s : State) : (State.fresh s).ev = s.ev := State.with_free_ev s _
@[simp] theorem State.fresh_recd (s : State) : (State.fresh s).recd = s.recd := State.with_free_recd s _
@[simp] theorem State.fresh_afe (s : State) : (State.fresh s).afe = s.afe := State.with_free_afe s _
@[simp] theorem State.fresh_dig (s : State) : (State.fresh s).dig = s.dig := State.with_free_dig s _
@[simp] theorem State.fresh_tdc (s : State) : (State.fresh s).tdc = s.tdc := State.with_free_tdc s _
@[simp] theorem State.fresh_trg (s : State) : (State.fresh s).trg = s.trg := State.with_free_trg s _
@[simp] theorem State.fresh_loop (s : State) : (State.fresh s).loop = s.loop := State.with_free_loop s _
@[simp] theorem State.fresh_deck (s : State) : (State.fresh s).deck = s.deck := State.with_free_deck s _
@[simp] theorem State.fresh_seam (s : State) : (State.fresh s).seam = s.seam := State.with_free_seam s _
@[simp] theorem State.fresh_ctx (s : State) : (State.fresh s).ctx = s.ctx := State.with_free_ctx s _
@[simp] theorem State.fresh_fab (s : State) : (State.fresh s).fab = s.fab := State.with_free_fab s _
@[simp] theorem State.fresh_lane (s : State) : (State.fresh s).lane = s.lane := State.with_free_lane s _
@[simp] theorem State.fresh_ddr (s : State) : (State.fresh s).ddr = s.ddr := State.with_free_ddr s _
@[simp] theorem State.fresh_host (s : State) : (State.fresh s).host = s.host := State.with_free_host s _
@[simp] theorem State.fresh_mbox (s : State) : (State.fresh s).mbox = s.mbox := State.with_free_mbox s _
@[simp] theorem State.fresh_core (s : State) : (State.fresh s).core = s.core := State.with_free_core s _
@[simp] theorem State.fresh_mem (s : State) : (State.fresh s).mem = s.mem := State.with_free_mem s _
@[simp] theorem State.fresh_press (s : State) : (State.fresh s).press = s.press := State.with_free_press s _
@[simp] theorem State.fresh_sec (s : State) : (State.fresh s).sec = s.sec := State.with_free_sec s _
@[simp] theorem State.fresh_pwr (s : State) : (State.fresh s).pwr = s.pwr := State.with_free_pwr s _
@[simp] theorem State.fresh_regs (s : State) : (State.fresh s).regs = s.regs := State.with_free_regs s _
@[simp] theorem State.fresh_out (s : State) : (State.fresh s).out = s.out := State.with_free_out s _
@[simp] theorem State.fresh_pending (s : State) : (State.fresh s).pending = s.pending := State.with_free_pending s _
@[simp] theorem State.fresh_get (s : State) (g : Fld) (j w : Nat) : (State.fresh s).get g j w = s.get g j w :=
  State.get_congr (State.with_free_regs s _) g j w

@[simp] theorem State.clock_ev (s : State) (t : Tm) : (State.clock s t).ev = s.ev := State.with_time_ev s _
@[simp] theorem State.clock_recd (s : State) (t : Tm) : (State.clock s t).recd = s.recd := State.with_time_recd s _
@[simp] theorem State.clock_afe (s : State) (t : Tm) : (State.clock s t).afe = s.afe := State.with_time_afe s _
@[simp] theorem State.clock_dig (s : State) (t : Tm) : (State.clock s t).dig = s.dig := State.with_time_dig s _
@[simp] theorem State.clock_tdc (s : State) (t : Tm) : (State.clock s t).tdc = s.tdc := State.with_time_tdc s _
@[simp] theorem State.clock_trg (s : State) (t : Tm) : (State.clock s t).trg = s.trg := State.with_time_trg s _
@[simp] theorem State.clock_loop (s : State) (t : Tm) : (State.clock s t).loop = s.loop := State.with_time_loop s _
@[simp] theorem State.clock_deck (s : State) (t : Tm) : (State.clock s t).deck = s.deck := State.with_time_deck s _
@[simp] theorem State.clock_seam (s : State) (t : Tm) : (State.clock s t).seam = s.seam := State.with_time_seam s _
@[simp] theorem State.clock_ctx (s : State) (t : Tm) : (State.clock s t).ctx = s.ctx := State.with_time_ctx s _
@[simp] theorem State.clock_fab (s : State) (t : Tm) : (State.clock s t).fab = s.fab := State.with_time_fab s _
@[simp] theorem State.clock_lane (s : State) (t : Tm) : (State.clock s t).lane = s.lane := State.with_time_lane s _
@[simp] theorem State.clock_ddr (s : State) (t : Tm) : (State.clock s t).ddr = s.ddr := State.with_time_ddr s _
@[simp] theorem State.clock_host (s : State) (t : Tm) : (State.clock s t).host = s.host := State.with_time_host s _
@[simp] theorem State.clock_mbox (s : State) (t : Tm) : (State.clock s t).mbox = s.mbox := State.with_time_mbox s _
@[simp] theorem State.clock_core (s : State) (t : Tm) : (State.clock s t).core = s.core := State.with_time_core s _
@[simp] theorem State.clock_mem (s : State) (t : Tm) : (State.clock s t).mem = s.mem := State.with_time_mem s _
@[simp] theorem State.clock_press (s : State) (t : Tm) : (State.clock s t).press = s.press := State.with_time_press s _
@[simp] theorem State.clock_sec (s : State) (t : Tm) : (State.clock s t).sec = s.sec := State.with_time_sec s _
@[simp] theorem State.clock_pwr (s : State) (t : Tm) : (State.clock s t).pwr = s.pwr := State.with_time_pwr s _
@[simp] theorem State.clock_regs (s : State) (t : Tm) : (State.clock s t).regs = s.regs := State.with_time_regs s _
@[simp] theorem State.clock_out (s : State) (t : Tm) : (State.clock s t).out = s.out := State.with_time_out s _
@[simp] theorem State.clock_free (s : State) (t : Tm) : (State.clock s t).free = s.free := State.with_time_free s _
@[simp] theorem State.clock_pending (s : State) (t : Tm) : (State.clock s t).pending = s.pending := State.with_time_pending s _
@[simp] theorem State.clock_get (s : State) (t : Tm) (g : Fld) (j w : Nat) : (State.clock s t).get g j w = s.get g j w :=
  State.get_congr (State.with_time_regs s _) g j w

@[simp] theorem State.put_time (s : State) (f : Fld) (i v w : Nat) : (State.put s f i v w).time = s.time := State.with_regs_time s _
@[simp] theorem State.put_ev (s : State) (f : Fld) (i v w : Nat) : (State.put s f i v w).ev = s.ev := State.with_regs_ev s _
@[simp] theorem State.put_recd (s : State) (f : Fld) (i v w : Nat) : (State.put s f i v w).recd = s.recd := State.with_regs_recd s _
@[simp] theorem State.put_afe (s : State) (f : Fld) (i v w : Nat) : (State.put s f i v w).afe = s.afe := State.with_regs_afe s _
@[simp] theorem State.put_dig (s : State) (f : Fld) (i v w : Nat) : (State.put s f i v w).dig = s.dig := State.with_regs_dig s _
@[simp] theorem State.put_tdc (s : State) (f : Fld) (i v w : Nat) : (State.put s f i v w).tdc = s.tdc := State.with_regs_tdc s _
@[simp] theorem State.put_trg (s : State) (f : Fld) (i v w : Nat) : (State.put s f i v w).trg = s.trg := State.with_regs_trg s _
@[simp] theorem State.put_loop (s : State) (f : Fld) (i v w : Nat) : (State.put s f i v w).loop = s.loop := State.with_regs_loop s _
@[simp] theorem State.put_deck (s : State) (f : Fld) (i v w : Nat) : (State.put s f i v w).deck = s.deck := State.with_regs_deck s _
@[simp] theorem State.put_seam (s : State) (f : Fld) (i v w : Nat) : (State.put s f i v w).seam = s.seam := State.with_regs_seam s _
@[simp] theorem State.put_ctx (s : State) (f : Fld) (i v w : Nat) : (State.put s f i v w).ctx = s.ctx := State.with_regs_ctx s _
@[simp] theorem State.put_fab (s : State) (f : Fld) (i v w : Nat) : (State.put s f i v w).fab = s.fab := State.with_regs_fab s _
@[simp] theorem State.put_lane (s : State) (f : Fld) (i v w : Nat) : (State.put s f i v w).lane = s.lane := State.with_regs_lane s _
@[simp] theorem State.put_ddr (s : State) (f : Fld) (i v w : Nat) : (State.put s f i v w).ddr = s.ddr := State.with_regs_ddr s _
@[simp] theorem State.put_host (s : State) (f : Fld) (i v w : Nat) : (State.put s f i v w).host = s.host := State.with_regs_host s _
@[simp] theorem State.put_mbox (s : State) (f : Fld) (i v w : Nat) : (State.put s f i v w).mbox = s.mbox := State.with_regs_mbox s _
@[simp] theorem State.put_core (s : State) (f : Fld) (i v w : Nat) : (State.put s f i v w).core = s.core := State.with_regs_core s _
@[simp] theorem State.put_mem (s : State) (f : Fld) (i v w : Nat) : (State.put s f i v w).mem = s.mem := State.with_regs_mem s _
@[simp] theorem State.put_press (s : State) (f : Fld) (i v w : Nat) : (State.put s f i v w).press = s.press := State.with_regs_press s _
@[simp] theorem State.put_sec (s : State) (f : Fld) (i v w : Nat) : (State.put s f i v w).sec = s.sec := State.with_regs_sec s _
@[simp] theorem State.put_pwr (s : State) (f : Fld) (i v w : Nat) : (State.put s f i v w).pwr = s.pwr := State.with_regs_pwr s _
@[simp] theorem State.put_out (s : State) (f : Fld) (i v w : Nat) : (State.put s f i v w).out = s.out := State.with_regs_out s _
@[simp] theorem State.put_free (s : State) (f : Fld) (i v w : Nat) : (State.put s f i v w).free = s.free := State.with_regs_free s _
@[simp] theorem State.put_pending (s : State) (f : Fld) (i v w : Nat) : (State.put s f i v w).pending = s.pending := State.with_regs_pending s _

@[simp] theorem State.putWord_time (s : State) (f : Fld) (i : Nat) (v : W64) : (State.putWord s f i v).time = s.time := State.with_regs_time s _
@[simp] theorem State.putWord_ev (s : State) (f : Fld) (i : Nat) (v : W64) : (State.putWord s f i v).ev = s.ev := State.with_regs_ev s _
@[simp] theorem State.putWord_recd (s : State) (f : Fld) (i : Nat) (v : W64) : (State.putWord s f i v).recd = s.recd := State.with_regs_recd s _
@[simp] theorem State.putWord_afe (s : State) (f : Fld) (i : Nat) (v : W64) : (State.putWord s f i v).afe = s.afe := State.with_regs_afe s _
@[simp] theorem State.putWord_dig (s : State) (f : Fld) (i : Nat) (v : W64) : (State.putWord s f i v).dig = s.dig := State.with_regs_dig s _
@[simp] theorem State.putWord_tdc (s : State) (f : Fld) (i : Nat) (v : W64) : (State.putWord s f i v).tdc = s.tdc := State.with_regs_tdc s _
@[simp] theorem State.putWord_trg (s : State) (f : Fld) (i : Nat) (v : W64) : (State.putWord s f i v).trg = s.trg := State.with_regs_trg s _
@[simp] theorem State.putWord_loop (s : State) (f : Fld) (i : Nat) (v : W64) : (State.putWord s f i v).loop = s.loop := State.with_regs_loop s _
@[simp] theorem State.putWord_deck (s : State) (f : Fld) (i : Nat) (v : W64) : (State.putWord s f i v).deck = s.deck := State.with_regs_deck s _
@[simp] theorem State.putWord_seam (s : State) (f : Fld) (i : Nat) (v : W64) : (State.putWord s f i v).seam = s.seam := State.with_regs_seam s _
@[simp] theorem State.putWord_ctx (s : State) (f : Fld) (i : Nat) (v : W64) : (State.putWord s f i v).ctx = s.ctx := State.with_regs_ctx s _
@[simp] theorem State.putWord_fab (s : State) (f : Fld) (i : Nat) (v : W64) : (State.putWord s f i v).fab = s.fab := State.with_regs_fab s _
@[simp] theorem State.putWord_lane (s : State) (f : Fld) (i : Nat) (v : W64) : (State.putWord s f i v).lane = s.lane := State.with_regs_lane s _
@[simp] theorem State.putWord_ddr (s : State) (f : Fld) (i : Nat) (v : W64) : (State.putWord s f i v).ddr = s.ddr := State.with_regs_ddr s _
@[simp] theorem State.putWord_host (s : State) (f : Fld) (i : Nat) (v : W64) : (State.putWord s f i v).host = s.host := State.with_regs_host s _
@[simp] theorem State.putWord_mbox (s : State) (f : Fld) (i : Nat) (v : W64) : (State.putWord s f i v).mbox = s.mbox := State.with_regs_mbox s _
@[simp] theorem State.putWord_core (s : State) (f : Fld) (i : Nat) (v : W64) : (State.putWord s f i v).core = s.core := State.with_regs_core s _
@[simp] theorem State.putWord_mem (s : State) (f : Fld) (i : Nat) (v : W64) : (State.putWord s f i v).mem = s.mem := State.with_regs_mem s _
@[simp] theorem State.putWord_press (s : State) (f : Fld) (i : Nat) (v : W64) : (State.putWord s f i v).press = s.press := State.with_regs_press s _
@[simp] theorem State.putWord_sec (s : State) (f : Fld) (i : Nat) (v : W64) : (State.putWord s f i v).sec = s.sec := State.with_regs_sec s _
@[simp] theorem State.putWord_pwr (s : State) (f : Fld) (i : Nat) (v : W64) : (State.putWord s f i v).pwr = s.pwr := State.with_regs_pwr s _
@[simp] theorem State.putWord_out (s : State) (f : Fld) (i : Nat) (v : W64) : (State.putWord s f i v).out = s.out := State.with_regs_out s _
@[simp] theorem State.putWord_free (s : State) (f : Fld) (i : Nat) (v : W64) : (State.putWord s f i v).free = s.free := State.with_regs_free s _
@[simp] theorem State.putWord_pending (s : State) (f : Fld) (i : Nat) (v : W64) : (State.putWord s f i v).pending = s.pending := State.with_regs_pending s _

@[simp] theorem State.putB_time (s : State) (f : Fld) (i : Nat) (b : Bool) (w : Nat) : (State.putB s f i b w).time = s.time := State.with_regs_time s _
@[simp] theorem State.putB_ev (s : State) (f : Fld) (i : Nat) (b : Bool) (w : Nat) : (State.putB s f i b w).ev = s.ev := State.with_regs_ev s _
@[simp] theorem State.putB_recd (s : State) (f : Fld) (i : Nat) (b : Bool) (w : Nat) : (State.putB s f i b w).recd = s.recd := State.with_regs_recd s _
@[simp] theorem State.putB_afe (s : State) (f : Fld) (i : Nat) (b : Bool) (w : Nat) : (State.putB s f i b w).afe = s.afe := State.with_regs_afe s _
@[simp] theorem State.putB_dig (s : State) (f : Fld) (i : Nat) (b : Bool) (w : Nat) : (State.putB s f i b w).dig = s.dig := State.with_regs_dig s _
@[simp] theorem State.putB_tdc (s : State) (f : Fld) (i : Nat) (b : Bool) (w : Nat) : (State.putB s f i b w).tdc = s.tdc := State.with_regs_tdc s _
@[simp] theorem State.putB_trg (s : State) (f : Fld) (i : Nat) (b : Bool) (w : Nat) : (State.putB s f i b w).trg = s.trg := State.with_regs_trg s _
@[simp] theorem State.putB_loop (s : State) (f : Fld) (i : Nat) (b : Bool) (w : Nat) : (State.putB s f i b w).loop = s.loop := State.with_regs_loop s _
@[simp] theorem State.putB_deck (s : State) (f : Fld) (i : Nat) (b : Bool) (w : Nat) : (State.putB s f i b w).deck = s.deck := State.with_regs_deck s _
@[simp] theorem State.putB_seam (s : State) (f : Fld) (i : Nat) (b : Bool) (w : Nat) : (State.putB s f i b w).seam = s.seam := State.with_regs_seam s _
@[simp] theorem State.putB_ctx (s : State) (f : Fld) (i : Nat) (b : Bool) (w : Nat) : (State.putB s f i b w).ctx = s.ctx := State.with_regs_ctx s _
@[simp] theorem State.putB_fab (s : State) (f : Fld) (i : Nat) (b : Bool) (w : Nat) : (State.putB s f i b w).fab = s.fab := State.with_regs_fab s _
@[simp] theorem State.putB_lane (s : State) (f : Fld) (i : Nat) (b : Bool) (w : Nat) : (State.putB s f i b w).lane = s.lane := State.with_regs_lane s _
@[simp] theorem State.putB_ddr (s : State) (f : Fld) (i : Nat) (b : Bool) (w : Nat) : (State.putB s f i b w).ddr = s.ddr := State.with_regs_ddr s _
@[simp] theorem State.putB_host (s : State) (f : Fld) (i : Nat) (b : Bool) (w : Nat) : (State.putB s f i b w).host = s.host := State.with_regs_host s _
@[simp] theorem State.putB_mbox (s : State) (f : Fld) (i : Nat) (b : Bool) (w : Nat) : (State.putB s f i b w).mbox = s.mbox := State.with_regs_mbox s _
@[simp] theorem State.putB_core (s : State) (f : Fld) (i : Nat) (b : Bool) (w : Nat) : (State.putB s f i b w).core = s.core := State.with_regs_core s _
@[simp] theorem State.putB_mem (s : State) (f : Fld) (i : Nat) (b : Bool) (w : Nat) : (State.putB s f i b w).mem = s.mem := State.with_regs_mem s _
@[simp] theorem State.putB_press (s : State) (f : Fld) (i : Nat) (b : Bool) (w : Nat) : (State.putB s f i b w).press = s.press := State.with_regs_press s _
@[simp] theorem State.putB_sec (s : State) (f : Fld) (i : Nat) (b : Bool) (w : Nat) : (State.putB s f i b w).sec = s.sec := State.with_regs_sec s _
@[simp] theorem State.putB_pwr (s : State) (f : Fld) (i : Nat) (b : Bool) (w : Nat) : (State.putB s f i b w).pwr = s.pwr := State.with_regs_pwr s _
@[simp] theorem State.putB_out (s : State) (f : Fld) (i : Nat) (b : Bool) (w : Nat) : (State.putB s f i b w).out = s.out := State.with_regs_out s _
@[simp] theorem State.putB_free (s : State) (f : Fld) (i : Nat) (b : Bool) (w : Nat) : (State.putB s f i b w).free = s.free := State.with_regs_free s _
@[simp] theorem State.putB_pending (s : State) (f : Fld) (i : Nat) (b : Bool) (w : Nat) : (State.putB s f i b w).pending = s.pending := State.with_regs_pending s _

@[simp] theorem State.bump_time (s : State) (f : Fld) (i n : Nat) : (State.bump s f i n).time = s.time := State.with_regs_time s _
@[simp] theorem State.bump_ev (s : State) (f : Fld) (i n : Nat) : (State.bump s f i n).ev = s.ev := State.with_regs_ev s _
@[simp] theorem State.bump_recd (s : State) (f : Fld) (i n : Nat) : (State.bump s f i n).recd = s.recd := State.with_regs_recd s _
@[simp] theorem State.bump_afe (s : State) (f : Fld) (i n : Nat) : (State.bump s f i n).afe = s.afe := State.with_regs_afe s _
@[simp] theorem State.bump_dig (s : State) (f : Fld) (i n : Nat) : (State.bump s f i n).dig = s.dig := State.with_regs_dig s _
@[simp] theorem State.bump_tdc (s : State) (f : Fld) (i n : Nat) : (State.bump s f i n).tdc = s.tdc := State.with_regs_tdc s _
@[simp] theorem State.bump_trg (s : State) (f : Fld) (i n : Nat) : (State.bump s f i n).trg = s.trg := State.with_regs_trg s _
@[simp] theorem State.bump_loop (s : State) (f : Fld) (i n : Nat) : (State.bump s f i n).loop = s.loop := State.with_regs_loop s _
@[simp] theorem State.bump_deck (s : State) (f : Fld) (i n : Nat) : (State.bump s f i n).deck = s.deck := State.with_regs_deck s _
@[simp] theorem State.bump_seam (s : State) (f : Fld) (i n : Nat) : (State.bump s f i n).seam = s.seam := State.with_regs_seam s _
@[simp] theorem State.bump_ctx (s : State) (f : Fld) (i n : Nat) : (State.bump s f i n).ctx = s.ctx := State.with_regs_ctx s _
@[simp] theorem State.bump_fab (s : State) (f : Fld) (i n : Nat) : (State.bump s f i n).fab = s.fab := State.with_regs_fab s _
@[simp] theorem State.bump_lane (s : State) (f : Fld) (i n : Nat) : (State.bump s f i n).lane = s.lane := State.with_regs_lane s _
@[simp] theorem State.bump_ddr (s : State) (f : Fld) (i n : Nat) : (State.bump s f i n).ddr = s.ddr := State.with_regs_ddr s _
@[simp] theorem State.bump_host (s : State) (f : Fld) (i n : Nat) : (State.bump s f i n).host = s.host := State.with_regs_host s _
@[simp] theorem State.bump_mbox (s : State) (f : Fld) (i n : Nat) : (State.bump s f i n).mbox = s.mbox := State.with_regs_mbox s _
@[simp] theorem State.bump_core (s : State) (f : Fld) (i n : Nat) : (State.bump s f i n).core = s.core := State.with_regs_core s _
@[simp] theorem State.bump_mem (s : State) (f : Fld) (i n : Nat) : (State.bump s f i n).mem = s.mem := State.with_regs_mem s _
@[simp] theorem State.bump_press (s : State) (f : Fld) (i n : Nat) : (State.bump s f i n).press = s.press := State.with_regs_press s _
@[simp] theorem State.bump_sec (s : State) (f : Fld) (i n : Nat) : (State.bump s f i n).sec = s.sec := State.with_regs_sec s _
@[simp] theorem State.bump_pwr (s : State) (f : Fld) (i n : Nat) : (State.bump s f i n).pwr = s.pwr := State.with_regs_pwr s _
@[simp] theorem State.bump_out (s : State) (f : Fld) (i n : Nat) : (State.bump s f i n).out = s.out := State.with_regs_out s _
@[simp] theorem State.bump_free (s : State) (f : Fld) (i n : Nat) : (State.bump s f i n).free = s.free := State.with_regs_free s _
@[simp] theorem State.bump_pending (s : State) (f : Fld) (i n : Nat) : (State.bump s f i n).pending = s.pending := State.with_regs_pending s _

@[simp] theorem State.takeSeq_time (s : State) (type : Nat) : (State.takeSeq s type).time = s.time := State.with_ctx_time s _
@[simp] theorem State.takeSeq_ev (s : State) (type : Nat) : (State.takeSeq s type).ev = s.ev := State.with_ctx_ev s _
@[simp] theorem State.takeSeq_recd (s : State) (type : Nat) : (State.takeSeq s type).recd = s.recd := State.with_ctx_recd s _
@[simp] theorem State.takeSeq_afe (s : State) (type : Nat) : (State.takeSeq s type).afe = s.afe := State.with_ctx_afe s _
@[simp] theorem State.takeSeq_dig (s : State) (type : Nat) : (State.takeSeq s type).dig = s.dig := State.with_ctx_dig s _
@[simp] theorem State.takeSeq_tdc (s : State) (type : Nat) : (State.takeSeq s type).tdc = s.tdc := State.with_ctx_tdc s _
@[simp] theorem State.takeSeq_trg (s : State) (type : Nat) : (State.takeSeq s type).trg = s.trg := State.with_ctx_trg s _
@[simp] theorem State.takeSeq_loop (s : State) (type : Nat) : (State.takeSeq s type).loop = s.loop := State.with_ctx_loop s _
@[simp] theorem State.takeSeq_deck (s : State) (type : Nat) : (State.takeSeq s type).deck = s.deck := State.with_ctx_deck s _
@[simp] theorem State.takeSeq_seam (s : State) (type : Nat) : (State.takeSeq s type).seam = s.seam := State.with_ctx_seam s _
@[simp] theorem State.takeSeq_fab (s : State) (type : Nat) : (State.takeSeq s type).fab = s.fab := State.with_ctx_fab s _
@[simp] theorem State.takeSeq_lane (s : State) (type : Nat) : (State.takeSeq s type).lane = s.lane := State.with_ctx_lane s _
@[simp] theorem State.takeSeq_ddr (s : State) (type : Nat) : (State.takeSeq s type).ddr = s.ddr := State.with_ctx_ddr s _
@[simp] theorem State.takeSeq_host (s : State) (type : Nat) : (State.takeSeq s type).host = s.host := State.with_ctx_host s _
@[simp] theorem State.takeSeq_mbox (s : State) (type : Nat) : (State.takeSeq s type).mbox = s.mbox := State.with_ctx_mbox s _
@[simp] theorem State.takeSeq_core (s : State) (type : Nat) : (State.takeSeq s type).core = s.core := State.with_ctx_core s _
@[simp] theorem State.takeSeq_mem (s : State) (type : Nat) : (State.takeSeq s type).mem = s.mem := State.with_ctx_mem s _
@[simp] theorem State.takeSeq_press (s : State) (type : Nat) : (State.takeSeq s type).press = s.press := State.with_ctx_press s _
@[simp] theorem State.takeSeq_sec (s : State) (type : Nat) : (State.takeSeq s type).sec = s.sec := State.with_ctx_sec s _
@[simp] theorem State.takeSeq_pwr (s : State) (type : Nat) : (State.takeSeq s type).pwr = s.pwr := State.with_ctx_pwr s _
@[simp] theorem State.takeSeq_regs (s : State) (type : Nat) : (State.takeSeq s type).regs = s.regs := State.with_ctx_regs s _
@[simp] theorem State.takeSeq_out (s : State) (type : Nat) : (State.takeSeq s type).out = s.out := State.with_ctx_out s _
@[simp] theorem State.takeSeq_free (s : State) (type : Nat) : (State.takeSeq s type).free = s.free := State.with_ctx_free s _
@[simp] theorem State.takeSeq_pending (s : State) (type : Nat) : (State.takeSeq s type).pending = s.pending := State.with_ctx_pending s _
@[simp] theorem State.takeSeq_get (s : State) (type : Nat) (g : Fld) (j w : Nat) : (State.takeSeq s type).get g j w = s.get g j w :=
  State.get_congr (State.with_ctx_regs s _) g j w

@[simp] theorem State.ddrWrite_time (s : State) (addr : Nat) (bs : List Byte) : (State.ddrWrite s addr bs).time = s.time := State.with_ddr_time s _
@[simp] theorem State.ddrWrite_ev (s : State) (addr : Nat) (bs : List Byte) : (State.ddrWrite s addr bs).ev = s.ev := State.with_ddr_ev s _
@[simp] theorem State.ddrWrite_recd (s : State) (addr : Nat) (bs : List Byte) : (State.ddrWrite s addr bs).recd = s.recd := State.with_ddr_recd s _
@[simp] theorem State.ddrWrite_afe (s : State) (addr : Nat) (bs : List Byte) : (State.ddrWrite s addr bs).afe = s.afe := State.with_ddr_afe s _
@[simp] theorem State.ddrWrite_dig (s : State) (addr : Nat) (bs : List Byte) : (State.ddrWrite s addr bs).dig = s.dig := State.with_ddr_dig s _
@[simp] theorem State.ddrWrite_tdc (s : State) (addr : Nat) (bs : List Byte) : (State.ddrWrite s addr bs).tdc = s.tdc := State.with_ddr_tdc s _
@[simp] theorem State.ddrWrite_trg (s : State) (addr : Nat) (bs : List Byte) : (State.ddrWrite s addr bs).trg = s.trg := State.with_ddr_trg s _
@[simp] theorem State.ddrWrite_loop (s : State) (addr : Nat) (bs : List Byte) : (State.ddrWrite s addr bs).loop = s.loop := State.with_ddr_loop s _
@[simp] theorem State.ddrWrite_deck (s : State) (addr : Nat) (bs : List Byte) : (State.ddrWrite s addr bs).deck = s.deck := State.with_ddr_deck s _
@[simp] theorem State.ddrWrite_seam (s : State) (addr : Nat) (bs : List Byte) : (State.ddrWrite s addr bs).seam = s.seam := State.with_ddr_seam s _
@[simp] theorem State.ddrWrite_ctx (s : State) (addr : Nat) (bs : List Byte) : (State.ddrWrite s addr bs).ctx = s.ctx := State.with_ddr_ctx s _
@[simp] theorem State.ddrWrite_fab (s : State) (addr : Nat) (bs : List Byte) : (State.ddrWrite s addr bs).fab = s.fab := State.with_ddr_fab s _
@[simp] theorem State.ddrWrite_lane (s : State) (addr : Nat) (bs : List Byte) : (State.ddrWrite s addr bs).lane = s.lane := State.with_ddr_lane s _
@[simp] theorem State.ddrWrite_host (s : State) (addr : Nat) (bs : List Byte) : (State.ddrWrite s addr bs).host = s.host := State.with_ddr_host s _
@[simp] theorem State.ddrWrite_mbox (s : State) (addr : Nat) (bs : List Byte) : (State.ddrWrite s addr bs).mbox = s.mbox := State.with_ddr_mbox s _
@[simp] theorem State.ddrWrite_core (s : State) (addr : Nat) (bs : List Byte) : (State.ddrWrite s addr bs).core = s.core := State.with_ddr_core s _
@[simp] theorem State.ddrWrite_mem (s : State) (addr : Nat) (bs : List Byte) : (State.ddrWrite s addr bs).mem = s.mem := State.with_ddr_mem s _
@[simp] theorem State.ddrWrite_press (s : State) (addr : Nat) (bs : List Byte) : (State.ddrWrite s addr bs).press = s.press := State.with_ddr_press s _
@[simp] theorem State.ddrWrite_sec (s : State) (addr : Nat) (bs : List Byte) : (State.ddrWrite s addr bs).sec = s.sec := State.with_ddr_sec s _
@[simp] theorem State.ddrWrite_pwr (s : State) (addr : Nat) (bs : List Byte) : (State.ddrWrite s addr bs).pwr = s.pwr := State.with_ddr_pwr s _
@[simp] theorem State.ddrWrite_regs (s : State) (addr : Nat) (bs : List Byte) : (State.ddrWrite s addr bs).regs = s.regs := State.with_ddr_regs s _
@[simp] theorem State.ddrWrite_out (s : State) (addr : Nat) (bs : List Byte) : (State.ddrWrite s addr bs).out = s.out := State.with_ddr_out s _
@[simp] theorem State.ddrWrite_free (s : State) (addr : Nat) (bs : List Byte) : (State.ddrWrite s addr bs).free = s.free := State.with_ddr_free s _
@[simp] theorem State.ddrWrite_pending (s : State) (addr : Nat) (bs : List Byte) : (State.ddrWrite s addr bs).pending = s.pending := State.with_ddr_pending s _
@[simp] theorem State.ddrWrite_get (s : State) (addr : Nat) (bs : List Byte) (g : Fld) (j w : Nat) : (State.ddrWrite s addr bs).get g j w = s.get g j w :=
  State.get_congr (State.with_ddr_regs s _) g j w

@[simp] theorem State.modFeCh_time (s : State) (i : Nat) (f : FeCh → FeCh) : (State.modFeCh s i f).time = s.time := State.with_afe_time s _
@[simp] theorem State.modFeCh_ev (s : State) (i : Nat) (f : FeCh → FeCh) : (State.modFeCh s i f).ev = s.ev := State.with_afe_ev s _
@[simp] theorem State.modFeCh_recd (s : State) (i : Nat) (f : FeCh → FeCh) : (State.modFeCh s i f).recd = s.recd := State.with_afe_recd s _
@[simp] theorem State.modFeCh_dig (s : State) (i : Nat) (f : FeCh → FeCh) : (State.modFeCh s i f).dig = s.dig := State.with_afe_dig s _
@[simp] theorem State.modFeCh_tdc (s : State) (i : Nat) (f : FeCh → FeCh) : (State.modFeCh s i f).tdc = s.tdc := State.with_afe_tdc s _
@[simp] theorem State.modFeCh_trg (s : State) (i : Nat) (f : FeCh → FeCh) : (State.modFeCh s i f).trg = s.trg := State.with_afe_trg s _
@[simp] theorem State.modFeCh_loop (s : State) (i : Nat) (f : FeCh → FeCh) : (State.modFeCh s i f).loop = s.loop := State.with_afe_loop s _
@[simp] theorem State.modFeCh_deck (s : State) (i : Nat) (f : FeCh → FeCh) : (State.modFeCh s i f).deck = s.deck := State.with_afe_deck s _
@[simp] theorem State.modFeCh_seam (s : State) (i : Nat) (f : FeCh → FeCh) : (State.modFeCh s i f).seam = s.seam := State.with_afe_seam s _
@[simp] theorem State.modFeCh_ctx (s : State) (i : Nat) (f : FeCh → FeCh) : (State.modFeCh s i f).ctx = s.ctx := State.with_afe_ctx s _
@[simp] theorem State.modFeCh_fab (s : State) (i : Nat) (f : FeCh → FeCh) : (State.modFeCh s i f).fab = s.fab := State.with_afe_fab s _
@[simp] theorem State.modFeCh_lane (s : State) (i : Nat) (f : FeCh → FeCh) : (State.modFeCh s i f).lane = s.lane := State.with_afe_lane s _
@[simp] theorem State.modFeCh_ddr (s : State) (i : Nat) (f : FeCh → FeCh) : (State.modFeCh s i f).ddr = s.ddr := State.with_afe_ddr s _
@[simp] theorem State.modFeCh_host (s : State) (i : Nat) (f : FeCh → FeCh) : (State.modFeCh s i f).host = s.host := State.with_afe_host s _
@[simp] theorem State.modFeCh_mbox (s : State) (i : Nat) (f : FeCh → FeCh) : (State.modFeCh s i f).mbox = s.mbox := State.with_afe_mbox s _
@[simp] theorem State.modFeCh_core (s : State) (i : Nat) (f : FeCh → FeCh) : (State.modFeCh s i f).core = s.core := State.with_afe_core s _
@[simp] theorem State.modFeCh_mem (s : State) (i : Nat) (f : FeCh → FeCh) : (State.modFeCh s i f).mem = s.mem := State.with_afe_mem s _
@[simp] theorem State.modFeCh_press (s : State) (i : Nat) (f : FeCh → FeCh) : (State.modFeCh s i f).press = s.press := State.with_afe_press s _
@[simp] theorem State.modFeCh_sec (s : State) (i : Nat) (f : FeCh → FeCh) : (State.modFeCh s i f).sec = s.sec := State.with_afe_sec s _
@[simp] theorem State.modFeCh_pwr (s : State) (i : Nat) (f : FeCh → FeCh) : (State.modFeCh s i f).pwr = s.pwr := State.with_afe_pwr s _
@[simp] theorem State.modFeCh_regs (s : State) (i : Nat) (f : FeCh → FeCh) : (State.modFeCh s i f).regs = s.regs := State.with_afe_regs s _
@[simp] theorem State.modFeCh_out (s : State) (i : Nat) (f : FeCh → FeCh) : (State.modFeCh s i f).out = s.out := State.with_afe_out s _
@[simp] theorem State.modFeCh_free (s : State) (i : Nat) (f : FeCh → FeCh) : (State.modFeCh s i f).free = s.free := State.with_afe_free s _
@[simp] theorem State.modFeCh_pending (s : State) (i : Nat) (f : FeCh → FeCh) : (State.modFeCh s i f).pending = s.pending := State.with_afe_pending s _
@[simp] theorem State.modFeCh_get (s : State) (i : Nat) (f : FeCh → FeCh) (g : Fld) (j w : Nat) : (State.modFeCh s i f).get g j w = s.get g j w :=
  State.get_congr (State.with_afe_regs s _) g j w

@[simp] theorem State.modFe_time (s : State) (i : Nat) (f : FeTile → FeTile) : (State.modFe s i f).time = s.time := State.with_afe_time s _
@[simp] theorem State.modFe_ev (s : State) (i : Nat) (f : FeTile → FeTile) : (State.modFe s i f).ev = s.ev := State.with_afe_ev s _
@[simp] theorem State.modFe_recd (s : State) (i : Nat) (f : FeTile → FeTile) : (State.modFe s i f).recd = s.recd := State.with_afe_recd s _
@[simp] theorem State.modFe_dig (s : State) (i : Nat) (f : FeTile → FeTile) : (State.modFe s i f).dig = s.dig := State.with_afe_dig s _
@[simp] theorem State.modFe_tdc (s : State) (i : Nat) (f : FeTile → FeTile) : (State.modFe s i f).tdc = s.tdc := State.with_afe_tdc s _
@[simp] theorem State.modFe_trg (s : State) (i : Nat) (f : FeTile → FeTile) : (State.modFe s i f).trg = s.trg := State.with_afe_trg s _
@[simp] theorem State.modFe_loop (s : State) (i : Nat) (f : FeTile → FeTile) : (State.modFe s i f).loop = s.loop := State.with_afe_loop s _
@[simp] theorem State.modFe_deck (s : State) (i : Nat) (f : FeTile → FeTile) : (State.modFe s i f).deck = s.deck := State.with_afe_deck s _
@[simp] theorem State.modFe_seam (s : State) (i : Nat) (f : FeTile → FeTile) : (State.modFe s i f).seam = s.seam := State.with_afe_seam s _
@[simp] theorem State.modFe_ctx (s : State) (i : Nat) (f : FeTile → FeTile) : (State.modFe s i f).ctx = s.ctx := State.with_afe_ctx s _
@[simp] theorem State.modFe_fab (s : State) (i : Nat) (f : FeTile → FeTile) : (State.modFe s i f).fab = s.fab := State.with_afe_fab s _
@[simp] theorem State.modFe_lane (s : State) (i : Nat) (f : FeTile → FeTile) : (State.modFe s i f).lane = s.lane := State.with_afe_lane s _
@[simp] theorem State.modFe_ddr (s : State) (i : Nat) (f : FeTile → FeTile) : (State.modFe s i f).ddr = s.ddr := State.with_afe_ddr s _
@[simp] theorem State.modFe_host (s : State) (i : Nat) (f : FeTile → FeTile) : (State.modFe s i f).host = s.host := State.with_afe_host s _
@[simp] theorem State.modFe_mbox (s : State) (i : Nat) (f : FeTile → FeTile) : (State.modFe s i f).mbox = s.mbox := State.with_afe_mbox s _
@[simp] theorem State.modFe_core (s : State) (i : Nat) (f : FeTile → FeTile) : (State.modFe s i f).core = s.core := State.with_afe_core s _
@[simp] theorem State.modFe_mem (s : State) (i : Nat) (f : FeTile → FeTile) : (State.modFe s i f).mem = s.mem := State.with_afe_mem s _
@[simp] theorem State.modFe_press (s : State) (i : Nat) (f : FeTile → FeTile) : (State.modFe s i f).press = s.press := State.with_afe_press s _
@[simp] theorem State.modFe_sec (s : State) (i : Nat) (f : FeTile → FeTile) : (State.modFe s i f).sec = s.sec := State.with_afe_sec s _
@[simp] theorem State.modFe_pwr (s : State) (i : Nat) (f : FeTile → FeTile) : (State.modFe s i f).pwr = s.pwr := State.with_afe_pwr s _
@[simp] theorem State.modFe_regs (s : State) (i : Nat) (f : FeTile → FeTile) : (State.modFe s i f).regs = s.regs := State.with_afe_regs s _
@[simp] theorem State.modFe_out (s : State) (i : Nat) (f : FeTile → FeTile) : (State.modFe s i f).out = s.out := State.with_afe_out s _
@[simp] theorem State.modFe_free (s : State) (i : Nat) (f : FeTile → FeTile) : (State.modFe s i f).free = s.free := State.with_afe_free s _
@[simp] theorem State.modFe_pending (s : State) (i : Nat) (f : FeTile → FeTile) : (State.modFe s i f).pending = s.pending := State.with_afe_pending s _
@[simp] theorem State.modFe_get (s : State) (i : Nat) (f : FeTile → FeTile) (g : Fld) (j w : Nat) : (State.modFe s i f).get g j w = s.get g j w :=
  State.get_congr (State.with_afe_regs s _) g j w

@[simp] theorem State.modHk_time (s : State) (i : Nat) (f : HkTile → HkTile) : (State.modHk s i f).time = s.time := State.with_dig_time s _
@[simp] theorem State.modHk_ev (s : State) (i : Nat) (f : HkTile → HkTile) : (State.modHk s i f).ev = s.ev := State.with_dig_ev s _
@[simp] theorem State.modHk_recd (s : State) (i : Nat) (f : HkTile → HkTile) : (State.modHk s i f).recd = s.recd := State.with_dig_recd s _
@[simp] theorem State.modHk_afe (s : State) (i : Nat) (f : HkTile → HkTile) : (State.modHk s i f).afe = s.afe := State.with_dig_afe s _
@[simp] theorem State.modHk_tdc (s : State) (i : Nat) (f : HkTile → HkTile) : (State.modHk s i f).tdc = s.tdc := State.with_dig_tdc s _
@[simp] theorem State.modHk_trg (s : State) (i : Nat) (f : HkTile → HkTile) : (State.modHk s i f).trg = s.trg := State.with_dig_trg s _
@[simp] theorem State.modHk_loop (s : State) (i : Nat) (f : HkTile → HkTile) : (State.modHk s i f).loop = s.loop := State.with_dig_loop s _
@[simp] theorem State.modHk_deck (s : State) (i : Nat) (f : HkTile → HkTile) : (State.modHk s i f).deck = s.deck := State.with_dig_deck s _
@[simp] theorem State.modHk_seam (s : State) (i : Nat) (f : HkTile → HkTile) : (State.modHk s i f).seam = s.seam := State.with_dig_seam s _
@[simp] theorem State.modHk_ctx (s : State) (i : Nat) (f : HkTile → HkTile) : (State.modHk s i f).ctx = s.ctx := State.with_dig_ctx s _
@[simp] theorem State.modHk_fab (s : State) (i : Nat) (f : HkTile → HkTile) : (State.modHk s i f).fab = s.fab := State.with_dig_fab s _
@[simp] theorem State.modHk_lane (s : State) (i : Nat) (f : HkTile → HkTile) : (State.modHk s i f).lane = s.lane := State.with_dig_lane s _
@[simp] theorem State.modHk_ddr (s : State) (i : Nat) (f : HkTile → HkTile) : (State.modHk s i f).ddr = s.ddr := State.with_dig_ddr s _
@[simp] theorem State.modHk_host (s : State) (i : Nat) (f : HkTile → HkTile) : (State.modHk s i f).host = s.host := State.with_dig_host s _
@[simp] theorem State.modHk_mbox (s : State) (i : Nat) (f : HkTile → HkTile) : (State.modHk s i f).mbox = s.mbox := State.with_dig_mbox s _
@[simp] theorem State.modHk_core (s : State) (i : Nat) (f : HkTile → HkTile) : (State.modHk s i f).core = s.core := State.with_dig_core s _
@[simp] theorem State.modHk_mem (s : State) (i : Nat) (f : HkTile → HkTile) : (State.modHk s i f).mem = s.mem := State.with_dig_mem s _
@[simp] theorem State.modHk_press (s : State) (i : Nat) (f : HkTile → HkTile) : (State.modHk s i f).press = s.press := State.with_dig_press s _
@[simp] theorem State.modHk_sec (s : State) (i : Nat) (f : HkTile → HkTile) : (State.modHk s i f).sec = s.sec := State.with_dig_sec s _
@[simp] theorem State.modHk_pwr (s : State) (i : Nat) (f : HkTile → HkTile) : (State.modHk s i f).pwr = s.pwr := State.with_dig_pwr s _
@[simp] theorem State.modHk_regs (s : State) (i : Nat) (f : HkTile → HkTile) : (State.modHk s i f).regs = s.regs := State.with_dig_regs s _
@[simp] theorem State.modHk_out (s : State) (i : Nat) (f : HkTile → HkTile) : (State.modHk s i f).out = s.out := State.with_dig_out s _
@[simp] theorem State.modHk_free (s : State) (i : Nat) (f : HkTile → HkTile) : (State.modHk s i f).free = s.free := State.with_dig_free s _
@[simp] theorem State.modHk_pending (s : State) (i : Nat) (f : HkTile → HkTile) : (State.modHk s i f).pending = s.pending := State.with_dig_pending s _
@[simp] theorem State.modHk_get (s : State) (i : Nat) (f : HkTile → HkTile) (g : Fld) (j w : Nat) : (State.modHk s i f).get g j w = s.get g j w :=
  State.get_congr (State.with_dig_regs s _) g j w

@[simp] theorem State.modRot_time (s : State) (i : Nat) (f : RotTile → RotTile) : (State.modRot s i f).time = s.time := State.with_dig_time s _
@[simp] theorem State.modRot_ev (s : State) (i : Nat) (f : RotTile → RotTile) : (State.modRot s i f).ev = s.ev := State.with_dig_ev s _
@[simp] theorem State.modRot_recd (s : State) (i : Nat) (f : RotTile → RotTile) : (State.modRot s i f).recd = s.recd := State.with_dig_recd s _
@[simp] theorem State.modRot_afe (s : State) (i : Nat) (f : RotTile → RotTile) : (State.modRot s i f).afe = s.afe := State.with_dig_afe s _
@[simp] theorem State.modRot_tdc (s : State) (i : Nat) (f : RotTile → RotTile) : (State.modRot s i f).tdc = s.tdc := State.with_dig_tdc s _
@[simp] theorem State.modRot_trg (s : State) (i : Nat) (f : RotTile → RotTile) : (State.modRot s i f).trg = s.trg := State.with_dig_trg s _
@[simp] theorem State.modRot_loop (s : State) (i : Nat) (f : RotTile → RotTile) : (State.modRot s i f).loop = s.loop := State.with_dig_loop s _
@[simp] theorem State.modRot_deck (s : State) (i : Nat) (f : RotTile → RotTile) : (State.modRot s i f).deck = s.deck := State.with_dig_deck s _
@[simp] theorem State.modRot_seam (s : State) (i : Nat) (f : RotTile → RotTile) : (State.modRot s i f).seam = s.seam := State.with_dig_seam s _
@[simp] theorem State.modRot_ctx (s : State) (i : Nat) (f : RotTile → RotTile) : (State.modRot s i f).ctx = s.ctx := State.with_dig_ctx s _
@[simp] theorem State.modRot_fab (s : State) (i : Nat) (f : RotTile → RotTile) : (State.modRot s i f).fab = s.fab := State.with_dig_fab s _
@[simp] theorem State.modRot_lane (s : State) (i : Nat) (f : RotTile → RotTile) : (State.modRot s i f).lane = s.lane := State.with_dig_lane s _
@[simp] theorem State.modRot_ddr (s : State) (i : Nat) (f : RotTile → RotTile) : (State.modRot s i f).ddr = s.ddr := State.with_dig_ddr s _
@[simp] theorem State.modRot_host (s : State) (i : Nat) (f : RotTile → RotTile) : (State.modRot s i f).host = s.host := State.with_dig_host s _
@[simp] theorem State.modRot_mbox (s : State) (i : Nat) (f : RotTile → RotTile) : (State.modRot s i f).mbox = s.mbox := State.with_dig_mbox s _
@[simp] theorem State.modRot_core (s : State) (i : Nat) (f : RotTile → RotTile) : (State.modRot s i f).core = s.core := State.with_dig_core s _
@[simp] theorem State.modRot_mem (s : State) (i : Nat) (f : RotTile → RotTile) : (State.modRot s i f).mem = s.mem := State.with_dig_mem s _
@[simp] theorem State.modRot_press (s : State) (i : Nat) (f : RotTile → RotTile) : (State.modRot s i f).press = s.press := State.with_dig_press s _
@[simp] theorem State.modRot_sec (s : State) (i : Nat) (f : RotTile → RotTile) : (State.modRot s i f).sec = s.sec := State.with_dig_sec s _
@[simp] theorem State.modRot_pwr (s : State) (i : Nat) (f : RotTile → RotTile) : (State.modRot s i f).pwr = s.pwr := State.with_dig_pwr s _
@[simp] theorem State.modRot_regs (s : State) (i : Nat) (f : RotTile → RotTile) : (State.modRot s i f).regs = s.regs := State.with_dig_regs s _
@[simp] theorem State.modRot_out (s : State) (i : Nat) (f : RotTile → RotTile) : (State.modRot s i f).out = s.out := State.with_dig_out s _
@[simp] theorem State.modRot_free (s : State) (i : Nat) (f : RotTile → RotTile) : (State.modRot s i f).free = s.free := State.with_dig_free s _
@[simp] theorem State.modRot_pending (s : State) (i : Nat) (f : RotTile → RotTile) : (State.modRot s i f).pending = s.pending := State.with_dig_pending s _
@[simp] theorem State.modRot_get (s : State) (i : Nat) (f : RotTile → RotTile) (g : Fld) (j w : Nat) : (State.modRot s i f).get g j w = s.get g j w :=
  State.get_congr (State.with_dig_regs s _) g j w

@[simp] theorem State.modLp_time (s : State) (i : Nat) (f : LoopTile → LoopTile) : (State.modLp s i f).time = s.time := State.with_loop_time s _
@[simp] theorem State.modLp_ev (s : State) (i : Nat) (f : LoopTile → LoopTile) : (State.modLp s i f).ev = s.ev := State.with_loop_ev s _
@[simp] theorem State.modLp_recd (s : State) (i : Nat) (f : LoopTile → LoopTile) : (State.modLp s i f).recd = s.recd := State.with_loop_recd s _
@[simp] theorem State.modLp_afe (s : State) (i : Nat) (f : LoopTile → LoopTile) : (State.modLp s i f).afe = s.afe := State.with_loop_afe s _
@[simp] theorem State.modLp_dig (s : State) (i : Nat) (f : LoopTile → LoopTile) : (State.modLp s i f).dig = s.dig := State.with_loop_dig s _
@[simp] theorem State.modLp_tdc (s : State) (i : Nat) (f : LoopTile → LoopTile) : (State.modLp s i f).tdc = s.tdc := State.with_loop_tdc s _
@[simp] theorem State.modLp_trg (s : State) (i : Nat) (f : LoopTile → LoopTile) : (State.modLp s i f).trg = s.trg := State.with_loop_trg s _
@[simp] theorem State.modLp_deck (s : State) (i : Nat) (f : LoopTile → LoopTile) : (State.modLp s i f).deck = s.deck := State.with_loop_deck s _
@[simp] theorem State.modLp_seam (s : State) (i : Nat) (f : LoopTile → LoopTile) : (State.modLp s i f).seam = s.seam := State.with_loop_seam s _
@[simp] theorem State.modLp_ctx (s : State) (i : Nat) (f : LoopTile → LoopTile) : (State.modLp s i f).ctx = s.ctx := State.with_loop_ctx s _
@[simp] theorem State.modLp_fab (s : State) (i : Nat) (f : LoopTile → LoopTile) : (State.modLp s i f).fab = s.fab := State.with_loop_fab s _
@[simp] theorem State.modLp_lane (s : State) (i : Nat) (f : LoopTile → LoopTile) : (State.modLp s i f).lane = s.lane := State.with_loop_lane s _
@[simp] theorem State.modLp_ddr (s : State) (i : Nat) (f : LoopTile → LoopTile) : (State.modLp s i f).ddr = s.ddr := State.with_loop_ddr s _
@[simp] theorem State.modLp_host (s : State) (i : Nat) (f : LoopTile → LoopTile) : (State.modLp s i f).host = s.host := State.with_loop_host s _
@[simp] theorem State.modLp_mbox (s : State) (i : Nat) (f : LoopTile → LoopTile) : (State.modLp s i f).mbox = s.mbox := State.with_loop_mbox s _
@[simp] theorem State.modLp_core (s : State) (i : Nat) (f : LoopTile → LoopTile) : (State.modLp s i f).core = s.core := State.with_loop_core s _
@[simp] theorem State.modLp_mem (s : State) (i : Nat) (f : LoopTile → LoopTile) : (State.modLp s i f).mem = s.mem := State.with_loop_mem s _
@[simp] theorem State.modLp_press (s : State) (i : Nat) (f : LoopTile → LoopTile) : (State.modLp s i f).press = s.press := State.with_loop_press s _
@[simp] theorem State.modLp_sec (s : State) (i : Nat) (f : LoopTile → LoopTile) : (State.modLp s i f).sec = s.sec := State.with_loop_sec s _
@[simp] theorem State.modLp_pwr (s : State) (i : Nat) (f : LoopTile → LoopTile) : (State.modLp s i f).pwr = s.pwr := State.with_loop_pwr s _
@[simp] theorem State.modLp_regs (s : State) (i : Nat) (f : LoopTile → LoopTile) : (State.modLp s i f).regs = s.regs := State.with_loop_regs s _
@[simp] theorem State.modLp_out (s : State) (i : Nat) (f : LoopTile → LoopTile) : (State.modLp s i f).out = s.out := State.with_loop_out s _
@[simp] theorem State.modLp_free (s : State) (i : Nat) (f : LoopTile → LoopTile) : (State.modLp s i f).free = s.free := State.with_loop_free s _
@[simp] theorem State.modLp_pending (s : State) (i : Nat) (f : LoopTile → LoopTile) : (State.modLp s i f).pending = s.pending := State.with_loop_pending s _
@[simp] theorem State.modLp_get (s : State) (i : Nat) (f : LoopTile → LoopTile) (g : Fld) (j w : Nat) : (State.modLp s i f).get g j w = s.get g j w :=
  State.get_congr (State.with_loop_regs s _) g j w

@[simp] theorem State.modTd_time (s : State) (i : Nat) (f : TdcCh → TdcCh) : (State.modTd s i f).time = s.time := State.with_tdc_time s _
@[simp] theorem State.modTd_ev (s : State) (i : Nat) (f : TdcCh → TdcCh) : (State.modTd s i f).ev = s.ev := State.with_tdc_ev s _
@[simp] theorem State.modTd_recd (s : State) (i : Nat) (f : TdcCh → TdcCh) : (State.modTd s i f).recd = s.recd := State.with_tdc_recd s _
@[simp] theorem State.modTd_afe (s : State) (i : Nat) (f : TdcCh → TdcCh) : (State.modTd s i f).afe = s.afe := State.with_tdc_afe s _
@[simp] theorem State.modTd_dig (s : State) (i : Nat) (f : TdcCh → TdcCh) : (State.modTd s i f).dig = s.dig := State.with_tdc_dig s _
@[simp] theorem State.modTd_trg (s : State) (i : Nat) (f : TdcCh → TdcCh) : (State.modTd s i f).trg = s.trg := State.with_tdc_trg s _
@[simp] theorem State.modTd_loop (s : State) (i : Nat) (f : TdcCh → TdcCh) : (State.modTd s i f).loop = s.loop := State.with_tdc_loop s _
@[simp] theorem State.modTd_deck (s : State) (i : Nat) (f : TdcCh → TdcCh) : (State.modTd s i f).deck = s.deck := State.with_tdc_deck s _
@[simp] theorem State.modTd_seam (s : State) (i : Nat) (f : TdcCh → TdcCh) : (State.modTd s i f).seam = s.seam := State.with_tdc_seam s _
@[simp] theorem State.modTd_ctx (s : State) (i : Nat) (f : TdcCh → TdcCh) : (State.modTd s i f).ctx = s.ctx := State.with_tdc_ctx s _
@[simp] theorem State.modTd_fab (s : State) (i : Nat) (f : TdcCh → TdcCh) : (State.modTd s i f).fab = s.fab := State.with_tdc_fab s _
@[simp] theorem State.modTd_lane (s : State) (i : Nat) (f : TdcCh → TdcCh) : (State.modTd s i f).lane = s.lane := State.with_tdc_lane s _
@[simp] theorem State.modTd_ddr (s : State) (i : Nat) (f : TdcCh → TdcCh) : (State.modTd s i f).ddr = s.ddr := State.with_tdc_ddr s _
@[simp] theorem State.modTd_host (s : State) (i : Nat) (f : TdcCh → TdcCh) : (State.modTd s i f).host = s.host := State.with_tdc_host s _
@[simp] theorem State.modTd_mbox (s : State) (i : Nat) (f : TdcCh → TdcCh) : (State.modTd s i f).mbox = s.mbox := State.with_tdc_mbox s _
@[simp] theorem State.modTd_core (s : State) (i : Nat) (f : TdcCh → TdcCh) : (State.modTd s i f).core = s.core := State.with_tdc_core s _
@[simp] theorem State.modTd_mem (s : State) (i : Nat) (f : TdcCh → TdcCh) : (State.modTd s i f).mem = s.mem := State.with_tdc_mem s _
@[simp] theorem State.modTd_press (s : State) (i : Nat) (f : TdcCh → TdcCh) : (State.modTd s i f).press = s.press := State.with_tdc_press s _
@[simp] theorem State.modTd_sec (s : State) (i : Nat) (f : TdcCh → TdcCh) : (State.modTd s i f).sec = s.sec := State.with_tdc_sec s _
@[simp] theorem State.modTd_pwr (s : State) (i : Nat) (f : TdcCh → TdcCh) : (State.modTd s i f).pwr = s.pwr := State.with_tdc_pwr s _
@[simp] theorem State.modTd_regs (s : State) (i : Nat) (f : TdcCh → TdcCh) : (State.modTd s i f).regs = s.regs := State.with_tdc_regs s _
@[simp] theorem State.modTd_out (s : State) (i : Nat) (f : TdcCh → TdcCh) : (State.modTd s i f).out = s.out := State.with_tdc_out s _
@[simp] theorem State.modTd_free (s : State) (i : Nat) (f : TdcCh → TdcCh) : (State.modTd s i f).free = s.free := State.with_tdc_free s _
@[simp] theorem State.modTd_pending (s : State) (i : Nat) (f : TdcCh → TdcCh) : (State.modTd s i f).pending = s.pending := State.with_tdc_pending s _
@[simp] theorem State.modTd_get (s : State) (i : Nat) (f : TdcCh → TdcCh) (g : Fld) (j w : Nat) : (State.modTd s i f).get g j w = s.get g j w :=
  State.get_congr (State.with_tdc_regs s _) g j w

@[simp] theorem State.modPair_time (s : State) (i : Nat) (f : Pair → Pair) : (State.modPair s i f).time = s.time := State.with_tdc_time s _
@[simp] theorem State.modPair_ev (s : State) (i : Nat) (f : Pair → Pair) : (State.modPair s i f).ev = s.ev := State.with_tdc_ev s _
@[simp] theorem State.modPair_recd (s : State) (i : Nat) (f : Pair → Pair) : (State.modPair s i f).recd = s.recd := State.with_tdc_recd s _
@[simp] theorem State.modPair_afe (s : State) (i : Nat) (f : Pair → Pair) : (State.modPair s i f).afe = s.afe := State.with_tdc_afe s _
@[simp] theorem State.modPair_dig (s : State) (i : Nat) (f : Pair → Pair) : (State.modPair s i f).dig = s.dig := State.with_tdc_dig s _
@[simp] theorem State.modPair_trg (s : State) (i : Nat) (f : Pair → Pair) : (State.modPair s i f).trg = s.trg := State.with_tdc_trg s _
@[simp] theorem State.modPair_loop (s : State) (i : Nat) (f : Pair → Pair) : (State.modPair s i f).loop = s.loop := State.with_tdc_loop s _
@[simp] theorem State.modPair_deck (s : State) (i : Nat) (f : Pair → Pair) : (State.modPair s i f).deck = s.deck := State.with_tdc_deck s _
@[simp] theorem State.modPair_seam (s : State) (i : Nat) (f : Pair → Pair) : (State.modPair s i f).seam = s.seam := State.with_tdc_seam s _
@[simp] theorem State.modPair_ctx (s : State) (i : Nat) (f : Pair → Pair) : (State.modPair s i f).ctx = s.ctx := State.with_tdc_ctx s _
@[simp] theorem State.modPair_fab (s : State) (i : Nat) (f : Pair → Pair) : (State.modPair s i f).fab = s.fab := State.with_tdc_fab s _
@[simp] theorem State.modPair_lane (s : State) (i : Nat) (f : Pair → Pair) : (State.modPair s i f).lane = s.lane := State.with_tdc_lane s _
@[simp] theorem State.modPair_ddr (s : State) (i : Nat) (f : Pair → Pair) : (State.modPair s i f).ddr = s.ddr := State.with_tdc_ddr s _
@[simp] theorem State.modPair_host (s : State) (i : Nat) (f : Pair → Pair) : (State.modPair s i f).host = s.host := State.with_tdc_host s _
@[simp] theorem State.modPair_mbox (s : State) (i : Nat) (f : Pair → Pair) : (State.modPair s i f).mbox = s.mbox := State.with_tdc_mbox s _
@[simp] theorem State.modPair_core (s : State) (i : Nat) (f : Pair → Pair) : (State.modPair s i f).core = s.core := State.with_tdc_core s _
@[simp] theorem State.modPair_mem (s : State) (i : Nat) (f : Pair → Pair) : (State.modPair s i f).mem = s.mem := State.with_tdc_mem s _
@[simp] theorem State.modPair_press (s : State) (i : Nat) (f : Pair → Pair) : (State.modPair s i f).press = s.press := State.with_tdc_press s _
@[simp] theorem State.modPair_sec (s : State) (i : Nat) (f : Pair → Pair) : (State.modPair s i f).sec = s.sec := State.with_tdc_sec s _
@[simp] theorem State.modPair_pwr (s : State) (i : Nat) (f : Pair → Pair) : (State.modPair s i f).pwr = s.pwr := State.with_tdc_pwr s _
@[simp] theorem State.modPair_regs (s : State) (i : Nat) (f : Pair → Pair) : (State.modPair s i f).regs = s.regs := State.with_tdc_regs s _
@[simp] theorem State.modPair_out (s : State) (i : Nat) (f : Pair → Pair) : (State.modPair s i f).out = s.out := State.with_tdc_out s _
@[simp] theorem State.modPair_free (s : State) (i : Nat) (f : Pair → Pair) : (State.modPair s i f).free = s.free := State.with_tdc_free s _
@[simp] theorem State.modPair_pending (s : State) (i : Nat) (f : Pair → Pair) : (State.modPair s i f).pending = s.pending := State.with_tdc_pending s _
@[simp] theorem State.modPair_get (s : State) (i : Nat) (f : Pair → Pair) (g : Fld) (j w : Nat) : (State.modPair s i f).get g j w = s.get g j w :=
  State.get_congr (State.with_tdc_regs s _) g j w

@[simp] theorem State.modGauge_time (s : State) (i : Nat) (f : Gauge → Gauge) : (State.modGauge s i f).time = s.time := State.with_tdc_time s _
@[simp] theorem State.modGauge_ev (s : State) (i : Nat) (f : Gauge → Gauge) : (State.modGauge s i f).ev = s.ev := State.with_tdc_ev s _
@[simp] theorem State.modGauge_recd (s : State) (i : Nat) (f : Gauge → Gauge) : (State.modGauge s i f).recd = s.recd := State.with_tdc_recd s _
@[simp] theorem State.modGauge_afe (s : State) (i : Nat) (f : Gauge → Gauge) : (State.modGauge s i f).afe = s.afe := State.with_tdc_afe s _
@[simp] theorem State.modGauge_dig (s : State) (i : Nat) (f : Gauge → Gauge) : (State.modGauge s i f).dig = s.dig := State.with_tdc_dig s _
@[simp] theorem State.modGauge_trg (s : State) (i : Nat) (f : Gauge → Gauge) : (State.modGauge s i f).trg = s.trg := State.with_tdc_trg s _
@[simp] theorem State.modGauge_loop (s : State) (i : Nat) (f : Gauge → Gauge) : (State.modGauge s i f).loop = s.loop := State.with_tdc_loop s _
@[simp] theorem State.modGauge_deck (s : State) (i : Nat) (f : Gauge → Gauge) : (State.modGauge s i f).deck = s.deck := State.with_tdc_deck s _
@[simp] theorem State.modGauge_seam (s : State) (i : Nat) (f : Gauge → Gauge) : (State.modGauge s i f).seam = s.seam := State.with_tdc_seam s _
@[simp] theorem State.modGauge_ctx (s : State) (i : Nat) (f : Gauge → Gauge) : (State.modGauge s i f).ctx = s.ctx := State.with_tdc_ctx s _
@[simp] theorem State.modGauge_fab (s : State) (i : Nat) (f : Gauge → Gauge) : (State.modGauge s i f).fab = s.fab := State.with_tdc_fab s _
@[simp] theorem State.modGauge_lane (s : State) (i : Nat) (f : Gauge → Gauge) : (State.modGauge s i f).lane = s.lane := State.with_tdc_lane s _
@[simp] theorem State.modGauge_ddr (s : State) (i : Nat) (f : Gauge → Gauge) : (State.modGauge s i f).ddr = s.ddr := State.with_tdc_ddr s _
@[simp] theorem State.modGauge_host (s : State) (i : Nat) (f : Gauge → Gauge) : (State.modGauge s i f).host = s.host := State.with_tdc_host s _
@[simp] theorem State.modGauge_mbox (s : State) (i : Nat) (f : Gauge → Gauge) : (State.modGauge s i f).mbox = s.mbox := State.with_tdc_mbox s _
@[simp] theorem State.modGauge_core (s : State) (i : Nat) (f : Gauge → Gauge) : (State.modGauge s i f).core = s.core := State.with_tdc_core s _
@[simp] theorem State.modGauge_mem (s : State) (i : Nat) (f : Gauge → Gauge) : (State.modGauge s i f).mem = s.mem := State.with_tdc_mem s _
@[simp] theorem State.modGauge_press (s : State) (i : Nat) (f : Gauge → Gauge) : (State.modGauge s i f).press = s.press := State.with_tdc_press s _
@[simp] theorem State.modGauge_sec (s : State) (i : Nat) (f : Gauge → Gauge) : (State.modGauge s i f).sec = s.sec := State.with_tdc_sec s _
@[simp] theorem State.modGauge_pwr (s : State) (i : Nat) (f : Gauge → Gauge) : (State.modGauge s i f).pwr = s.pwr := State.with_tdc_pwr s _
@[simp] theorem State.modGauge_regs (s : State) (i : Nat) (f : Gauge → Gauge) : (State.modGauge s i f).regs = s.regs := State.with_tdc_regs s _
@[simp] theorem State.modGauge_out (s : State) (i : Nat) (f : Gauge → Gauge) : (State.modGauge s i f).out = s.out := State.with_tdc_out s _
@[simp] theorem State.modGauge_free (s : State) (i : Nat) (f : Gauge → Gauge) : (State.modGauge s i f).free = s.free := State.with_tdc_free s _
@[simp] theorem State.modGauge_pending (s : State) (i : Nat) (f : Gauge → Gauge) : (State.modGauge s i f).pending = s.pending := State.with_tdc_pending s _
@[simp] theorem State.modGauge_get (s : State) (i : Nat) (f : Gauge → Gauge) (g : Fld) (j w : Nat) : (State.modGauge s i f).get g j w = s.get g j w :=
  State.get_congr (State.with_tdc_regs s _) g j w

@[simp] theorem State.modPortTime_ev (s : State) (i : Nat) (f : PortTime → PortTime) : (State.modPortTime s i f).ev = s.ev := State.with_time_ev s _
@[simp] theorem State.modPortTime_recd (s : State) (i : Nat) (f : PortTime → PortTime) : (State.modPortTime s i f).recd = s.recd := State.with_time_recd s _
@[simp] theorem State.modPortTime_afe (s : State) (i : Nat) (f : PortTime → PortTime) : (State.modPortTime s i f).afe = s.afe := State.with_time_afe s _
@[simp] theorem State.modPortTime_dig (s : State) (i : Nat) (f : PortTime → PortTime) : (State.modPortTime s i f).dig = s.dig := State.with_time_dig s _
@[simp] theorem State.modPortTime_tdc (s : State) (i : Nat) (f : PortTime → PortTime) : (State.modPortTime s i f).tdc = s.tdc := State.with_time_tdc s _
@[simp] theorem State.modPortTime_trg (s : State) (i : Nat) (f : PortTime → PortTime) : (State.modPortTime s i f).trg = s.trg := State.with_time_trg s _
@[simp] theorem State.modPortTime_loop (s : State) (i : Nat) (f : PortTime → PortTime) : (State.modPortTime s i f).loop = s.loop := State.with_time_loop s _
@[simp] theorem State.modPortTime_deck (s : State) (i : Nat) (f : PortTime → PortTime) : (State.modPortTime s i f).deck = s.deck := State.with_time_deck s _
@[simp] theorem State.modPortTime_seam (s : State) (i : Nat) (f : PortTime → PortTime) : (State.modPortTime s i f).seam = s.seam := State.with_time_seam s _
@[simp] theorem State.modPortTime_ctx (s : State) (i : Nat) (f : PortTime → PortTime) : (State.modPortTime s i f).ctx = s.ctx := State.with_time_ctx s _
@[simp] theorem State.modPortTime_fab (s : State) (i : Nat) (f : PortTime → PortTime) : (State.modPortTime s i f).fab = s.fab := State.with_time_fab s _
@[simp] theorem State.modPortTime_lane (s : State) (i : Nat) (f : PortTime → PortTime) : (State.modPortTime s i f).lane = s.lane := State.with_time_lane s _
@[simp] theorem State.modPortTime_ddr (s : State) (i : Nat) (f : PortTime → PortTime) : (State.modPortTime s i f).ddr = s.ddr := State.with_time_ddr s _
@[simp] theorem State.modPortTime_host (s : State) (i : Nat) (f : PortTime → PortTime) : (State.modPortTime s i f).host = s.host := State.with_time_host s _
@[simp] theorem State.modPortTime_mbox (s : State) (i : Nat) (f : PortTime → PortTime) : (State.modPortTime s i f).mbox = s.mbox := State.with_time_mbox s _
@[simp] theorem State.modPortTime_core (s : State) (i : Nat) (f : PortTime → PortTime) : (State.modPortTime s i f).core = s.core := State.with_time_core s _
@[simp] theorem State.modPortTime_mem (s : State) (i : Nat) (f : PortTime → PortTime) : (State.modPortTime s i f).mem = s.mem := State.with_time_mem s _
@[simp] theorem State.modPortTime_press (s : State) (i : Nat) (f : PortTime → PortTime) : (State.modPortTime s i f).press = s.press := State.with_time_press s _
@[simp] theorem State.modPortTime_sec (s : State) (i : Nat) (f : PortTime → PortTime) : (State.modPortTime s i f).sec = s.sec := State.with_time_sec s _
@[simp] theorem State.modPortTime_pwr (s : State) (i : Nat) (f : PortTime → PortTime) : (State.modPortTime s i f).pwr = s.pwr := State.with_time_pwr s _
@[simp] theorem State.modPortTime_regs (s : State) (i : Nat) (f : PortTime → PortTime) : (State.modPortTime s i f).regs = s.regs := State.with_time_regs s _
@[simp] theorem State.modPortTime_out (s : State) (i : Nat) (f : PortTime → PortTime) : (State.modPortTime s i f).out = s.out := State.with_time_out s _
@[simp] theorem State.modPortTime_free (s : State) (i : Nat) (f : PortTime → PortTime) : (State.modPortTime s i f).free = s.free := State.with_time_free s _
@[simp] theorem State.modPortTime_pending (s : State) (i : Nat) (f : PortTime → PortTime) : (State.modPortTime s i f).pending = s.pending := State.with_time_pending s _
@[simp] theorem State.modPortTime_get (s : State) (i : Nat) (f : PortTime → PortTime) (g : Fld) (j w : Nat) : (State.modPortTime s i f).get g j w = s.get g j w :=
  State.get_congr (State.with_time_regs s _) g j w

@[simp] theorem State.modAct_ev (s : State) (i : Nat) (f : ActSt → ActSt) : (State.modAct s i f).ev = s.ev := State.with_time_ev s _
@[simp] theorem State.modAct_recd (s : State) (i : Nat) (f : ActSt → ActSt) : (State.modAct s i f).recd = s.recd := State.with_time_recd s _
@[simp] theorem State.modAct_afe (s : State) (i : Nat) (f : ActSt → ActSt) : (State.modAct s i f).afe = s.afe := State.with_time_afe s _
@[simp] theorem State.modAct_dig (s : State) (i : Nat) (f : ActSt → ActSt) : (State.modAct s i f).dig = s.dig := State.with_time_dig s _
@[simp] theorem State.modAct_tdc (s : State) (i : Nat) (f : ActSt → ActSt) : (State.modAct s i f).tdc = s.tdc := State.with_time_tdc s _
@[simp] theorem State.modAct_trg (s : State) (i : Nat) (f : ActSt → ActSt) : (State.modAct s i f).trg = s.trg := State.with_time_trg s _
@[simp] theorem State.modAct_loop (s : State) (i : Nat) (f : ActSt → ActSt) : (State.modAct s i f).loop = s.loop := State.with_time_loop s _
@[simp] theorem State.modAct_deck (s : State) (i : Nat) (f : ActSt → ActSt) : (State.modAct s i f).deck = s.deck := State.with_time_deck s _
@[simp] theorem State.modAct_seam (s : State) (i : Nat) (f : ActSt → ActSt) : (State.modAct s i f).seam = s.seam := State.with_time_seam s _
@[simp] theorem State.modAct_ctx (s : State) (i : Nat) (f : ActSt → ActSt) : (State.modAct s i f).ctx = s.ctx := State.with_time_ctx s _
@[simp] theorem State.modAct_fab (s : State) (i : Nat) (f : ActSt → ActSt) : (State.modAct s i f).fab = s.fab := State.with_time_fab s _
@[simp] theorem State.modAct_lane (s : State) (i : Nat) (f : ActSt → ActSt) : (State.modAct s i f).lane = s.lane := State.with_time_lane s _
@[simp] theorem State.modAct_ddr (s : State) (i : Nat) (f : ActSt → ActSt) : (State.modAct s i f).ddr = s.ddr := State.with_time_ddr s _
@[simp] theorem State.modAct_host (s : State) (i : Nat) (f : ActSt → ActSt) : (State.modAct s i f).host = s.host := State.with_time_host s _
@[simp] theorem State.modAct_mbox (s : State) (i : Nat) (f : ActSt → ActSt) : (State.modAct s i f).mbox = s.mbox := State.with_time_mbox s _
@[simp] theorem State.modAct_core (s : State) (i : Nat) (f : ActSt → ActSt) : (State.modAct s i f).core = s.core := State.with_time_core s _
@[simp] theorem State.modAct_mem (s : State) (i : Nat) (f : ActSt → ActSt) : (State.modAct s i f).mem = s.mem := State.with_time_mem s _
@[simp] theorem State.modAct_press (s : State) (i : Nat) (f : ActSt → ActSt) : (State.modAct s i f).press = s.press := State.with_time_press s _
@[simp] theorem State.modAct_sec (s : State) (i : Nat) (f : ActSt → ActSt) : (State.modAct s i f).sec = s.sec := State.with_time_sec s _
@[simp] theorem State.modAct_pwr (s : State) (i : Nat) (f : ActSt → ActSt) : (State.modAct s i f).pwr = s.pwr := State.with_time_pwr s _
@[simp] theorem State.modAct_regs (s : State) (i : Nat) (f : ActSt → ActSt) : (State.modAct s i f).regs = s.regs := State.with_time_regs s _
@[simp] theorem State.modAct_out (s : State) (i : Nat) (f : ActSt → ActSt) : (State.modAct s i f).out = s.out := State.with_time_out s _
@[simp] theorem State.modAct_free (s : State) (i : Nat) (f : ActSt → ActSt) : (State.modAct s i f).free = s.free := State.with_time_free s _
@[simp] theorem State.modAct_pending (s : State) (i : Nat) (f : ActSt → ActSt) : (State.modAct s i f).pending = s.pending := State.with_time_pending s _
@[simp] theorem State.modAct_get (s : State) (i : Nat) (f : ActSt → ActSt) (g : Fld) (j w : Nat) : (State.modAct s i f).get g j w = s.get g j w :=
  State.get_congr (State.with_time_regs s _) g j w

@[simp] theorem State.modTout_ev (s : State) (i : Nat) (f : ToutSt → ToutSt) : (State.modTout s i f).ev = s.ev := State.with_time_ev s _
@[simp] theorem State.modTout_recd (s : State) (i : Nat) (f : ToutSt → ToutSt) : (State.modTout s i f).recd = s.recd := State.with_time_recd s _
@[simp] theorem State.modTout_afe (s : State) (i : Nat) (f : ToutSt → ToutSt) : (State.modTout s i f).afe = s.afe := State.with_time_afe s _
@[simp] theorem State.modTout_dig (s : State) (i : Nat) (f : ToutSt → ToutSt) : (State.modTout s i f).dig = s.dig := State.with_time_dig s _
@[simp] theorem State.modTout_tdc (s : State) (i : Nat) (f : ToutSt → ToutSt) : (State.modTout s i f).tdc = s.tdc := State.with_time_tdc s _
@[simp] theorem State.modTout_trg (s : State) (i : Nat) (f : ToutSt → ToutSt) : (State.modTout s i f).trg = s.trg := State.with_time_trg s _
@[simp] theorem State.modTout_loop (s : State) (i : Nat) (f : ToutSt → ToutSt) : (State.modTout s i f).loop = s.loop := State.with_time_loop s _
@[simp] theorem State.modTout_deck (s : State) (i : Nat) (f : ToutSt → ToutSt) : (State.modTout s i f).deck = s.deck := State.with_time_deck s _
@[simp] theorem State.modTout_seam (s : State) (i : Nat) (f : ToutSt → ToutSt) : (State.modTout s i f).seam = s.seam := State.with_time_seam s _
@[simp] theorem State.modTout_ctx (s : State) (i : Nat) (f : ToutSt → ToutSt) : (State.modTout s i f).ctx = s.ctx := State.with_time_ctx s _
@[simp] theorem State.modTout_fab (s : State) (i : Nat) (f : ToutSt → ToutSt) : (State.modTout s i f).fab = s.fab := State.with_time_fab s _
@[simp] theorem State.modTout_lane (s : State) (i : Nat) (f : ToutSt → ToutSt) : (State.modTout s i f).lane = s.lane := State.with_time_lane s _
@[simp] theorem State.modTout_ddr (s : State) (i : Nat) (f : ToutSt → ToutSt) : (State.modTout s i f).ddr = s.ddr := State.with_time_ddr s _
@[simp] theorem State.modTout_host (s : State) (i : Nat) (f : ToutSt → ToutSt) : (State.modTout s i f).host = s.host := State.with_time_host s _
@[simp] theorem State.modTout_mbox (s : State) (i : Nat) (f : ToutSt → ToutSt) : (State.modTout s i f).mbox = s.mbox := State.with_time_mbox s _
@[simp] theorem State.modTout_core (s : State) (i : Nat) (f : ToutSt → ToutSt) : (State.modTout s i f).core = s.core := State.with_time_core s _
@[simp] theorem State.modTout_mem (s : State) (i : Nat) (f : ToutSt → ToutSt) : (State.modTout s i f).mem = s.mem := State.with_time_mem s _
@[simp] theorem State.modTout_press (s : State) (i : Nat) (f : ToutSt → ToutSt) : (State.modTout s i f).press = s.press := State.with_time_press s _
@[simp] theorem State.modTout_sec (s : State) (i : Nat) (f : ToutSt → ToutSt) : (State.modTout s i f).sec = s.sec := State.with_time_sec s _
@[simp] theorem State.modTout_pwr (s : State) (i : Nat) (f : ToutSt → ToutSt) : (State.modTout s i f).pwr = s.pwr := State.with_time_pwr s _
@[simp] theorem State.modTout_regs (s : State) (i : Nat) (f : ToutSt → ToutSt) : (State.modTout s i f).regs = s.regs := State.with_time_regs s _
@[simp] theorem State.modTout_out (s : State) (i : Nat) (f : ToutSt → ToutSt) : (State.modTout s i f).out = s.out := State.with_time_out s _
@[simp] theorem State.modTout_free (s : State) (i : Nat) (f : ToutSt → ToutSt) : (State.modTout s i f).free = s.free := State.with_time_free s _
@[simp] theorem State.modTout_pending (s : State) (i : Nat) (f : ToutSt → ToutSt) : (State.modTout s i f).pending = s.pending := State.with_time_pending s _
@[simp] theorem State.modTout_get (s : State) (i : Nat) (f : ToutSt → ToutSt) (g : Fld) (j w : Nat) : (State.modTout s i f).get g j w = s.get g j w :=
  State.get_congr (State.with_time_regs s _) g j w

@[simp] theorem State.modSi_time (s : State) (i : Nat) (f : SeamQ → SeamQ) : (State.modSi s i f).time = s.time := State.with_seam_time s _
@[simp] theorem State.modSi_ev (s : State) (i : Nat) (f : SeamQ → SeamQ) : (State.modSi s i f).ev = s.ev := State.with_seam_ev s _
@[simp] theorem State.modSi_recd (s : State) (i : Nat) (f : SeamQ → SeamQ) : (State.modSi s i f).recd = s.recd := State.with_seam_recd s _
@[simp] theorem State.modSi_afe (s : State) (i : Nat) (f : SeamQ → SeamQ) : (State.modSi s i f).afe = s.afe := State.with_seam_afe s _
@[simp] theorem State.modSi_dig (s : State) (i : Nat) (f : SeamQ → SeamQ) : (State.modSi s i f).dig = s.dig := State.with_seam_dig s _
@[simp] theorem State.modSi_tdc (s : State) (i : Nat) (f : SeamQ → SeamQ) : (State.modSi s i f).tdc = s.tdc := State.with_seam_tdc s _
@[simp] theorem State.modSi_trg (s : State) (i : Nat) (f : SeamQ → SeamQ) : (State.modSi s i f).trg = s.trg := State.with_seam_trg s _
@[simp] theorem State.modSi_loop (s : State) (i : Nat) (f : SeamQ → SeamQ) : (State.modSi s i f).loop = s.loop := State.with_seam_loop s _
@[simp] theorem State.modSi_deck (s : State) (i : Nat) (f : SeamQ → SeamQ) : (State.modSi s i f).deck = s.deck := State.with_seam_deck s _
@[simp] theorem State.modSi_ctx (s : State) (i : Nat) (f : SeamQ → SeamQ) : (State.modSi s i f).ctx = s.ctx := State.with_seam_ctx s _
@[simp] theorem State.modSi_fab (s : State) (i : Nat) (f : SeamQ → SeamQ) : (State.modSi s i f).fab = s.fab := State.with_seam_fab s _
@[simp] theorem State.modSi_lane (s : State) (i : Nat) (f : SeamQ → SeamQ) : (State.modSi s i f).lane = s.lane := State.with_seam_lane s _
@[simp] theorem State.modSi_ddr (s : State) (i : Nat) (f : SeamQ → SeamQ) : (State.modSi s i f).ddr = s.ddr := State.with_seam_ddr s _
@[simp] theorem State.modSi_host (s : State) (i : Nat) (f : SeamQ → SeamQ) : (State.modSi s i f).host = s.host := State.with_seam_host s _
@[simp] theorem State.modSi_mbox (s : State) (i : Nat) (f : SeamQ → SeamQ) : (State.modSi s i f).mbox = s.mbox := State.with_seam_mbox s _
@[simp] theorem State.modSi_core (s : State) (i : Nat) (f : SeamQ → SeamQ) : (State.modSi s i f).core = s.core := State.with_seam_core s _
@[simp] theorem State.modSi_mem (s : State) (i : Nat) (f : SeamQ → SeamQ) : (State.modSi s i f).mem = s.mem := State.with_seam_mem s _
@[simp] theorem State.modSi_press (s : State) (i : Nat) (f : SeamQ → SeamQ) : (State.modSi s i f).press = s.press := State.with_seam_press s _
@[simp] theorem State.modSi_sec (s : State) (i : Nat) (f : SeamQ → SeamQ) : (State.modSi s i f).sec = s.sec := State.with_seam_sec s _
@[simp] theorem State.modSi_pwr (s : State) (i : Nat) (f : SeamQ → SeamQ) : (State.modSi s i f).pwr = s.pwr := State.with_seam_pwr s _
@[simp] theorem State.modSi_regs (s : State) (i : Nat) (f : SeamQ → SeamQ) : (State.modSi s i f).regs = s.regs := State.with_seam_regs s _
@[simp] theorem State.modSi_out (s : State) (i : Nat) (f : SeamQ → SeamQ) : (State.modSi s i f).out = s.out := State.with_seam_out s _
@[simp] theorem State.modSi_free (s : State) (i : Nat) (f : SeamQ → SeamQ) : (State.modSi s i f).free = s.free := State.with_seam_free s _
@[simp] theorem State.modSi_pending (s : State) (i : Nat) (f : SeamQ → SeamQ) : (State.modSi s i f).pending = s.pending := State.with_seam_pending s _
@[simp] theorem State.modSi_get (s : State) (i : Nat) (f : SeamQ → SeamQ) (g : Fld) (j w : Nat) : (State.modSi s i f).get g j w = s.get g j w :=
  State.get_congr (State.with_seam_regs s _) g j w

@[simp] theorem State.modCtx_time (s : State) (i : Nat) (f : CtxSt → CtxSt) : (State.modCtx s i f).time = s.time := State.with_ctx_time s _
@[simp] theorem State.modCtx_ev (s : State) (i : Nat) (f : CtxSt → CtxSt) : (State.modCtx s i f).ev = s.ev := State.with_ctx_ev s _
@[simp] theorem State.modCtx_recd (s : State) (i : Nat) (f : CtxSt → CtxSt) : (State.modCtx s i f).recd = s.recd := State.with_ctx_recd s _
@[simp] theorem State.modCtx_afe (s : State) (i : Nat) (f : CtxSt → CtxSt) : (State.modCtx s i f).afe = s.afe := State.with_ctx_afe s _
@[simp] theorem State.modCtx_dig (s : State) (i : Nat) (f : CtxSt → CtxSt) : (State.modCtx s i f).dig = s.dig := State.with_ctx_dig s _
@[simp] theorem State.modCtx_tdc (s : State) (i : Nat) (f : CtxSt → CtxSt) : (State.modCtx s i f).tdc = s.tdc := State.with_ctx_tdc s _
@[simp] theorem State.modCtx_trg (s : State) (i : Nat) (f : CtxSt → CtxSt) : (State.modCtx s i f).trg = s.trg := State.with_ctx_trg s _
@[simp] theorem State.modCtx_loop (s : State) (i : Nat) (f : CtxSt → CtxSt) : (State.modCtx s i f).loop = s.loop := State.with_ctx_loop s _
@[simp] theorem State.modCtx_deck (s : State) (i : Nat) (f : CtxSt → CtxSt) : (State.modCtx s i f).deck = s.deck := State.with_ctx_deck s _
@[simp] theorem State.modCtx_seam (s : State) (i : Nat) (f : CtxSt → CtxSt) : (State.modCtx s i f).seam = s.seam := State.with_ctx_seam s _
@[simp] theorem State.modCtx_fab (s : State) (i : Nat) (f : CtxSt → CtxSt) : (State.modCtx s i f).fab = s.fab := State.with_ctx_fab s _
@[simp] theorem State.modCtx_lane (s : State) (i : Nat) (f : CtxSt → CtxSt) : (State.modCtx s i f).lane = s.lane := State.with_ctx_lane s _
@[simp] theorem State.modCtx_ddr (s : State) (i : Nat) (f : CtxSt → CtxSt) : (State.modCtx s i f).ddr = s.ddr := State.with_ctx_ddr s _
@[simp] theorem State.modCtx_host (s : State) (i : Nat) (f : CtxSt → CtxSt) : (State.modCtx s i f).host = s.host := State.with_ctx_host s _
@[simp] theorem State.modCtx_mbox (s : State) (i : Nat) (f : CtxSt → CtxSt) : (State.modCtx s i f).mbox = s.mbox := State.with_ctx_mbox s _
@[simp] theorem State.modCtx_core (s : State) (i : Nat) (f : CtxSt → CtxSt) : (State.modCtx s i f).core = s.core := State.with_ctx_core s _
@[simp] theorem State.modCtx_mem (s : State) (i : Nat) (f : CtxSt → CtxSt) : (State.modCtx s i f).mem = s.mem := State.with_ctx_mem s _
@[simp] theorem State.modCtx_press (s : State) (i : Nat) (f : CtxSt → CtxSt) : (State.modCtx s i f).press = s.press := State.with_ctx_press s _
@[simp] theorem State.modCtx_sec (s : State) (i : Nat) (f : CtxSt → CtxSt) : (State.modCtx s i f).sec = s.sec := State.with_ctx_sec s _
@[simp] theorem State.modCtx_pwr (s : State) (i : Nat) (f : CtxSt → CtxSt) : (State.modCtx s i f).pwr = s.pwr := State.with_ctx_pwr s _
@[simp] theorem State.modCtx_regs (s : State) (i : Nat) (f : CtxSt → CtxSt) : (State.modCtx s i f).regs = s.regs := State.with_ctx_regs s _
@[simp] theorem State.modCtx_out (s : State) (i : Nat) (f : CtxSt → CtxSt) : (State.modCtx s i f).out = s.out := State.with_ctx_out s _
@[simp] theorem State.modCtx_free (s : State) (i : Nat) (f : CtxSt → CtxSt) : (State.modCtx s i f).free = s.free := State.with_ctx_free s _
@[simp] theorem State.modCtx_pending (s : State) (i : Nat) (f : CtxSt → CtxSt) : (State.modCtx s i f).pending = s.pending := State.with_ctx_pending s _
@[simp] theorem State.modCtx_get (s : State) (i : Nat) (f : CtxSt → CtxSt) (g : Fld) (j w : Nat) : (State.modCtx s i f).get g j w = s.get g j w :=
  State.get_congr (State.with_ctx_regs s _) g j w

@[simp] theorem State.modFp_time (s : State) (i : Nat) (f : FabPort → FabPort) : (State.modFp s i f).time = s.time := State.with_fab_time s _
@[simp] theorem State.modFp_ev (s : State) (i : Nat) (f : FabPort → FabPort) : (State.modFp s i f).ev = s.ev := State.with_fab_ev s _
@[simp] theorem State.modFp_recd (s : State) (i : Nat) (f : FabPort → FabPort) : (State.modFp s i f).recd = s.recd := State.with_fab_recd s _
@[simp] theorem State.modFp_afe (s : State) (i : Nat) (f : FabPort → FabPort) : (State.modFp s i f).afe = s.afe := State.with_fab_afe s _
@[simp] theorem State.modFp_dig (s : State) (i : Nat) (f : FabPort → FabPort) : (State.modFp s i f).dig = s.dig := State.with_fab_dig s _
@[simp] theorem State.modFp_tdc (s : State) (i : Nat) (f : FabPort → FabPort) : (State.modFp s i f).tdc = s.tdc := State.with_fab_tdc s _
@[simp] theorem State.modFp_trg (s : State) (i : Nat) (f : FabPort → FabPort) : (State.modFp s i f).trg = s.trg := State.with_fab_trg s _
@[simp] theorem State.modFp_loop (s : State) (i : Nat) (f : FabPort → FabPort) : (State.modFp s i f).loop = s.loop := State.with_fab_loop s _
@[simp] theorem State.modFp_deck (s : State) (i : Nat) (f : FabPort → FabPort) : (State.modFp s i f).deck = s.deck := State.with_fab_deck s _
@[simp] theorem State.modFp_seam (s : State) (i : Nat) (f : FabPort → FabPort) : (State.modFp s i f).seam = s.seam := State.with_fab_seam s _
@[simp] theorem State.modFp_ctx (s : State) (i : Nat) (f : FabPort → FabPort) : (State.modFp s i f).ctx = s.ctx := State.with_fab_ctx s _
@[simp] theorem State.modFp_lane (s : State) (i : Nat) (f : FabPort → FabPort) : (State.modFp s i f).lane = s.lane := State.with_fab_lane s _
@[simp] theorem State.modFp_ddr (s : State) (i : Nat) (f : FabPort → FabPort) : (State.modFp s i f).ddr = s.ddr := State.with_fab_ddr s _
@[simp] theorem State.modFp_host (s : State) (i : Nat) (f : FabPort → FabPort) : (State.modFp s i f).host = s.host := State.with_fab_host s _
@[simp] theorem State.modFp_mbox (s : State) (i : Nat) (f : FabPort → FabPort) : (State.modFp s i f).mbox = s.mbox := State.with_fab_mbox s _
@[simp] theorem State.modFp_core (s : State) (i : Nat) (f : FabPort → FabPort) : (State.modFp s i f).core = s.core := State.with_fab_core s _
@[simp] theorem State.modFp_mem (s : State) (i : Nat) (f : FabPort → FabPort) : (State.modFp s i f).mem = s.mem := State.with_fab_mem s _
@[simp] theorem State.modFp_press (s : State) (i : Nat) (f : FabPort → FabPort) : (State.modFp s i f).press = s.press := State.with_fab_press s _
@[simp] theorem State.modFp_sec (s : State) (i : Nat) (f : FabPort → FabPort) : (State.modFp s i f).sec = s.sec := State.with_fab_sec s _
@[simp] theorem State.modFp_pwr (s : State) (i : Nat) (f : FabPort → FabPort) : (State.modFp s i f).pwr = s.pwr := State.with_fab_pwr s _
@[simp] theorem State.modFp_regs (s : State) (i : Nat) (f : FabPort → FabPort) : (State.modFp s i f).regs = s.regs := State.with_fab_regs s _
@[simp] theorem State.modFp_out (s : State) (i : Nat) (f : FabPort → FabPort) : (State.modFp s i f).out = s.out := State.with_fab_out s _
@[simp] theorem State.modFp_free (s : State) (i : Nat) (f : FabPort → FabPort) : (State.modFp s i f).free = s.free := State.with_fab_free s _
@[simp] theorem State.modFp_pending (s : State) (i : Nat) (f : FabPort → FabPort) : (State.modFp s i f).pending = s.pending := State.with_fab_pending s _
@[simp] theorem State.modFp_get (s : State) (i : Nat) (f : FabPort → FabPort) (g : Fld) (j w : Nat) : (State.modFp s i f).get g j w = s.get g j w :=
  State.get_congr (State.with_fab_regs s _) g j w

@[simp] theorem State.modLane_time (s : State) (i : Nat) (f : LaneSt → LaneSt) : (State.modLane s i f).time = s.time := State.with_lane_time s _
@[simp] theorem State.modLane_ev (s : State) (i : Nat) (f : LaneSt → LaneSt) : (State.modLane s i f).ev = s.ev := State.with_lane_ev s _
@[simp] theorem State.modLane_recd (s : State) (i : Nat) (f : LaneSt → LaneSt) : (State.modLane s i f).recd = s.recd := State.with_lane_recd s _
@[simp] theorem State.modLane_afe (s : State) (i : Nat) (f : LaneSt → LaneSt) : (State.modLane s i f).afe = s.afe := State.with_lane_afe s _
@[simp] theorem State.modLane_dig (s : State) (i : Nat) (f : LaneSt → LaneSt) : (State.modLane s i f).dig = s.dig := State.with_lane_dig s _
@[simp] theorem State.modLane_tdc (s : State) (i : Nat) (f : LaneSt → LaneSt) : (State.modLane s i f).tdc = s.tdc := State.with_lane_tdc s _
@[simp] theorem State.modLane_trg (s : State) (i : Nat) (f : LaneSt → LaneSt) : (State.modLane s i f).trg = s.trg := State.with_lane_trg s _
@[simp] theorem State.modLane_loop (s : State) (i : Nat) (f : LaneSt → LaneSt) : (State.modLane s i f).loop = s.loop := State.with_lane_loop s _
@[simp] theorem State.modLane_deck (s : State) (i : Nat) (f : LaneSt → LaneSt) : (State.modLane s i f).deck = s.deck := State.with_lane_deck s _
@[simp] theorem State.modLane_seam (s : State) (i : Nat) (f : LaneSt → LaneSt) : (State.modLane s i f).seam = s.seam := State.with_lane_seam s _
@[simp] theorem State.modLane_ctx (s : State) (i : Nat) (f : LaneSt → LaneSt) : (State.modLane s i f).ctx = s.ctx := State.with_lane_ctx s _
@[simp] theorem State.modLane_fab (s : State) (i : Nat) (f : LaneSt → LaneSt) : (State.modLane s i f).fab = s.fab := State.with_lane_fab s _
@[simp] theorem State.modLane_ddr (s : State) (i : Nat) (f : LaneSt → LaneSt) : (State.modLane s i f).ddr = s.ddr := State.with_lane_ddr s _
@[simp] theorem State.modLane_host (s : State) (i : Nat) (f : LaneSt → LaneSt) : (State.modLane s i f).host = s.host := State.with_lane_host s _
@[simp] theorem State.modLane_mbox (s : State) (i : Nat) (f : LaneSt → LaneSt) : (State.modLane s i f).mbox = s.mbox := State.with_lane_mbox s _
@[simp] theorem State.modLane_core (s : State) (i : Nat) (f : LaneSt → LaneSt) : (State.modLane s i f).core = s.core := State.with_lane_core s _
@[simp] theorem State.modLane_mem (s : State) (i : Nat) (f : LaneSt → LaneSt) : (State.modLane s i f).mem = s.mem := State.with_lane_mem s _
@[simp] theorem State.modLane_press (s : State) (i : Nat) (f : LaneSt → LaneSt) : (State.modLane s i f).press = s.press := State.with_lane_press s _
@[simp] theorem State.modLane_sec (s : State) (i : Nat) (f : LaneSt → LaneSt) : (State.modLane s i f).sec = s.sec := State.with_lane_sec s _
@[simp] theorem State.modLane_pwr (s : State) (i : Nat) (f : LaneSt → LaneSt) : (State.modLane s i f).pwr = s.pwr := State.with_lane_pwr s _
@[simp] theorem State.modLane_regs (s : State) (i : Nat) (f : LaneSt → LaneSt) : (State.modLane s i f).regs = s.regs := State.with_lane_regs s _
@[simp] theorem State.modLane_out (s : State) (i : Nat) (f : LaneSt → LaneSt) : (State.modLane s i f).out = s.out := State.with_lane_out s _
@[simp] theorem State.modLane_free (s : State) (i : Nat) (f : LaneSt → LaneSt) : (State.modLane s i f).free = s.free := State.with_lane_free s _
@[simp] theorem State.modLane_pending (s : State) (i : Nat) (f : LaneSt → LaneSt) : (State.modLane s i f).pending = s.pending := State.with_lane_pending s _
@[simp] theorem State.modLane_get (s : State) (i : Nat) (f : LaneSt → LaneSt) (g : Fld) (j w : Nat) : (State.modLane s i f).get g j w = s.get g j w :=
  State.get_congr (State.with_lane_regs s _) g j w

@[simp] theorem State.modPortLane_time (s : State) (i : Nat) (f : PortLane → PortLane) : (State.modPortLane s i f).time = s.time := State.with_lane_time s _
@[simp] theorem State.modPortLane_ev (s : State) (i : Nat) (f : PortLane → PortLane) : (State.modPortLane s i f).ev = s.ev := State.with_lane_ev s _
@[simp] theorem State.modPortLane_recd (s : State) (i : Nat) (f : PortLane → PortLane) : (State.modPortLane s i f).recd = s.recd := State.with_lane_recd s _
@[simp] theorem State.modPortLane_afe (s : State) (i : Nat) (f : PortLane → PortLane) : (State.modPortLane s i f).afe = s.afe := State.with_lane_afe s _
@[simp] theorem State.modPortLane_dig (s : State) (i : Nat) (f : PortLane → PortLane) : (State.modPortLane s i f).dig = s.dig := State.with_lane_dig s _
@[simp] theorem State.modPortLane_tdc (s : State) (i : Nat) (f : PortLane → PortLane) : (State.modPortLane s i f).tdc = s.tdc := State.with_lane_tdc s _
@[simp] theorem State.modPortLane_trg (s : State) (i : Nat) (f : PortLane → PortLane) : (State.modPortLane s i f).trg = s.trg := State.with_lane_trg s _
@[simp] theorem State.modPortLane_loop (s : State) (i : Nat) (f : PortLane → PortLane) : (State.modPortLane s i f).loop = s.loop := State.with_lane_loop s _
@[simp] theorem State.modPortLane_deck (s : State) (i : Nat) (f : PortLane → PortLane) : (State.modPortLane s i f).deck = s.deck := State.with_lane_deck s _
@[simp] theorem State.modPortLane_seam (s : State) (i : Nat) (f : PortLane → PortLane) : (State.modPortLane s i f).seam = s.seam := State.with_lane_seam s _
@[simp] theorem State.modPortLane_ctx (s : State) (i : Nat) (f : PortLane → PortLane) : (State.modPortLane s i f).ctx = s.ctx := State.with_lane_ctx s _
@[simp] theorem State.modPortLane_fab (s : State) (i : Nat) (f : PortLane → PortLane) : (State.modPortLane s i f).fab = s.fab := State.with_lane_fab s _
@[simp] theorem State.modPortLane_ddr (s : State) (i : Nat) (f : PortLane → PortLane) : (State.modPortLane s i f).ddr = s.ddr := State.with_lane_ddr s _
@[simp] theorem State.modPortLane_host (s : State) (i : Nat) (f : PortLane → PortLane) : (State.modPortLane s i f).host = s.host := State.with_lane_host s _
@[simp] theorem State.modPortLane_mbox (s : State) (i : Nat) (f : PortLane → PortLane) : (State.modPortLane s i f).mbox = s.mbox := State.with_lane_mbox s _
@[simp] theorem State.modPortLane_core (s : State) (i : Nat) (f : PortLane → PortLane) : (State.modPortLane s i f).core = s.core := State.with_lane_core s _
@[simp] theorem State.modPortLane_mem (s : State) (i : Nat) (f : PortLane → PortLane) : (State.modPortLane s i f).mem = s.mem := State.with_lane_mem s _
@[simp] theorem State.modPortLane_press (s : State) (i : Nat) (f : PortLane → PortLane) : (State.modPortLane s i f).press = s.press := State.with_lane_press s _
@[simp] theorem State.modPortLane_sec (s : State) (i : Nat) (f : PortLane → PortLane) : (State.modPortLane s i f).sec = s.sec := State.with_lane_sec s _
@[simp] theorem State.modPortLane_pwr (s : State) (i : Nat) (f : PortLane → PortLane) : (State.modPortLane s i f).pwr = s.pwr := State.with_lane_pwr s _
@[simp] theorem State.modPortLane_regs (s : State) (i : Nat) (f : PortLane → PortLane) : (State.modPortLane s i f).regs = s.regs := State.with_lane_regs s _
@[simp] theorem State.modPortLane_out (s : State) (i : Nat) (f : PortLane → PortLane) : (State.modPortLane s i f).out = s.out := State.with_lane_out s _
@[simp] theorem State.modPortLane_free (s : State) (i : Nat) (f : PortLane → PortLane) : (State.modPortLane s i f).free = s.free := State.with_lane_free s _
@[simp] theorem State.modPortLane_pending (s : State) (i : Nat) (f : PortLane → PortLane) : (State.modPortLane s i f).pending = s.pending := State.with_lane_pending s _
@[simp] theorem State.modPortLane_get (s : State) (i : Nat) (f : PortLane → PortLane) (g : Fld) (j w : Nat) : (State.modPortLane s i f).get g j w = s.get g j w :=
  State.get_congr (State.with_lane_regs s _) g j w

@[simp] theorem State.modDc_time (s : State) (i : Nat) (f : DdrSt → DdrSt) : (State.modDc s i f).time = s.time := State.with_ddr_time s _
@[simp] theorem State.modDc_ev (s : State) (i : Nat) (f : DdrSt → DdrSt) : (State.modDc s i f).ev = s.ev := State.with_ddr_ev s _
@[simp] theorem State.modDc_recd (s : State) (i : Nat) (f : DdrSt → DdrSt) : (State.modDc s i f).recd = s.recd := State.with_ddr_recd s _
@[simp] theorem State.modDc_afe (s : State) (i : Nat) (f : DdrSt → DdrSt) : (State.modDc s i f).afe = s.afe := State.with_ddr_afe s _
@[simp] theorem State.modDc_dig (s : State) (i : Nat) (f : DdrSt → DdrSt) : (State.modDc s i f).dig = s.dig := State.with_ddr_dig s _
@[simp] theorem State.modDc_tdc (s : State) (i : Nat) (f : DdrSt → DdrSt) : (State.modDc s i f).tdc = s.tdc := State.with_ddr_tdc s _
@[simp] theorem State.modDc_trg (s : State) (i : Nat) (f : DdrSt → DdrSt) : (State.modDc s i f).trg = s.trg := State.with_ddr_trg s _
@[simp] theorem State.modDc_loop (s : State) (i : Nat) (f : DdrSt → DdrSt) : (State.modDc s i f).loop = s.loop := State.with_ddr_loop s _
@[simp] theorem State.modDc_deck (s : State) (i : Nat) (f : DdrSt → DdrSt) : (State.modDc s i f).deck = s.deck := State.with_ddr_deck s _
@[simp] theorem State.modDc_seam (s : State) (i : Nat) (f : DdrSt → DdrSt) : (State.modDc s i f).seam = s.seam := State.with_ddr_seam s _
@[simp] theorem State.modDc_ctx (s : State) (i : Nat) (f : DdrSt → DdrSt) : (State.modDc s i f).ctx = s.ctx := State.with_ddr_ctx s _
@[simp] theorem State.modDc_fab (s : State) (i : Nat) (f : DdrSt → DdrSt) : (State.modDc s i f).fab = s.fab := State.with_ddr_fab s _
@[simp] theorem State.modDc_lane (s : State) (i : Nat) (f : DdrSt → DdrSt) : (State.modDc s i f).lane = s.lane := State.with_ddr_lane s _
@[simp] theorem State.modDc_host (s : State) (i : Nat) (f : DdrSt → DdrSt) : (State.modDc s i f).host = s.host := State.with_ddr_host s _
@[simp] theorem State.modDc_mbox (s : State) (i : Nat) (f : DdrSt → DdrSt) : (State.modDc s i f).mbox = s.mbox := State.with_ddr_mbox s _
@[simp] theorem State.modDc_core (s : State) (i : Nat) (f : DdrSt → DdrSt) : (State.modDc s i f).core = s.core := State.with_ddr_core s _
@[simp] theorem State.modDc_mem (s : State) (i : Nat) (f : DdrSt → DdrSt) : (State.modDc s i f).mem = s.mem := State.with_ddr_mem s _
@[simp] theorem State.modDc_press (s : State) (i : Nat) (f : DdrSt → DdrSt) : (State.modDc s i f).press = s.press := State.with_ddr_press s _
@[simp] theorem State.modDc_sec (s : State) (i : Nat) (f : DdrSt → DdrSt) : (State.modDc s i f).sec = s.sec := State.with_ddr_sec s _
@[simp] theorem State.modDc_pwr (s : State) (i : Nat) (f : DdrSt → DdrSt) : (State.modDc s i f).pwr = s.pwr := State.with_ddr_pwr s _
@[simp] theorem State.modDc_regs (s : State) (i : Nat) (f : DdrSt → DdrSt) : (State.modDc s i f).regs = s.regs := State.with_ddr_regs s _
@[simp] theorem State.modDc_out (s : State) (i : Nat) (f : DdrSt → DdrSt) : (State.modDc s i f).out = s.out := State.with_ddr_out s _
@[simp] theorem State.modDc_free (s : State) (i : Nat) (f : DdrSt → DdrSt) : (State.modDc s i f).free = s.free := State.with_ddr_free s _
@[simp] theorem State.modDc_pending (s : State) (i : Nat) (f : DdrSt → DdrSt) : (State.modDc s i f).pending = s.pending := State.with_ddr_pending s _
@[simp] theorem State.modDc_get (s : State) (i : Nat) (f : DdrSt → DdrSt) (g : Fld) (j w : Nat) : (State.modDc s i f).get g j w = s.get g j w :=
  State.get_congr (State.with_ddr_regs s _) g j w

@[simp] theorem State.modSnap_time (s : State) (i : Nat) (f : Snap → Snap) : (State.modSnap s i f).time = s.time := State.with_host_time s _
@[simp] theorem State.modSnap_ev (s : State) (i : Nat) (f : Snap → Snap) : (State.modSnap s i f).ev = s.ev := State.with_host_ev s _
@[simp] theorem State.modSnap_recd (s : State) (i : Nat) (f : Snap → Snap) : (State.modSnap s i f).recd = s.recd := State.with_host_recd s _
@[simp] theorem State.modSnap_afe (s : State) (i : Nat) (f : Snap → Snap) : (State.modSnap s i f).afe = s.afe := State.with_host_afe s _
@[simp] theorem State.modSnap_dig (s : State) (i : Nat) (f : Snap → Snap) : (State.modSnap s i f).dig = s.dig := State.with_host_dig s _
@[simp] theorem State.modSnap_tdc (s : State) (i : Nat) (f : Snap → Snap) : (State.modSnap s i f).tdc = s.tdc := State.with_host_tdc s _
@[simp] theorem State.modSnap_trg (s : State) (i : Nat) (f : Snap → Snap) : (State.modSnap s i f).trg = s.trg := State.with_host_trg s _
@[simp] theorem State.modSnap_loop (s : State) (i : Nat) (f : Snap → Snap) : (State.modSnap s i f).loop = s.loop := State.with_host_loop s _
@[simp] theorem State.modSnap_deck (s : State) (i : Nat) (f : Snap → Snap) : (State.modSnap s i f).deck = s.deck := State.with_host_deck s _
@[simp] theorem State.modSnap_seam (s : State) (i : Nat) (f : Snap → Snap) : (State.modSnap s i f).seam = s.seam := State.with_host_seam s _
@[simp] theorem State.modSnap_ctx (s : State) (i : Nat) (f : Snap → Snap) : (State.modSnap s i f).ctx = s.ctx := State.with_host_ctx s _
@[simp] theorem State.modSnap_fab (s : State) (i : Nat) (f : Snap → Snap) : (State.modSnap s i f).fab = s.fab := State.with_host_fab s _
@[simp] theorem State.modSnap_lane (s : State) (i : Nat) (f : Snap → Snap) : (State.modSnap s i f).lane = s.lane := State.with_host_lane s _
@[simp] theorem State.modSnap_ddr (s : State) (i : Nat) (f : Snap → Snap) : (State.modSnap s i f).ddr = s.ddr := State.with_host_ddr s _
@[simp] theorem State.modSnap_mbox (s : State) (i : Nat) (f : Snap → Snap) : (State.modSnap s i f).mbox = s.mbox := State.with_host_mbox s _
@[simp] theorem State.modSnap_core (s : State) (i : Nat) (f : Snap → Snap) : (State.modSnap s i f).core = s.core := State.with_host_core s _
@[simp] theorem State.modSnap_mem (s : State) (i : Nat) (f : Snap → Snap) : (State.modSnap s i f).mem = s.mem := State.with_host_mem s _
@[simp] theorem State.modSnap_press (s : State) (i : Nat) (f : Snap → Snap) : (State.modSnap s i f).press = s.press := State.with_host_press s _
@[simp] theorem State.modSnap_sec (s : State) (i : Nat) (f : Snap → Snap) : (State.modSnap s i f).sec = s.sec := State.with_host_sec s _
@[simp] theorem State.modSnap_pwr (s : State) (i : Nat) (f : Snap → Snap) : (State.modSnap s i f).pwr = s.pwr := State.with_host_pwr s _
@[simp] theorem State.modSnap_regs (s : State) (i : Nat) (f : Snap → Snap) : (State.modSnap s i f).regs = s.regs := State.with_host_regs s _
@[simp] theorem State.modSnap_out (s : State) (i : Nat) (f : Snap → Snap) : (State.modSnap s i f).out = s.out := State.with_host_out s _
@[simp] theorem State.modSnap_free (s : State) (i : Nat) (f : Snap → Snap) : (State.modSnap s i f).free = s.free := State.with_host_free s _
@[simp] theorem State.modSnap_pending (s : State) (i : Nat) (f : Snap → Snap) : (State.modSnap s i f).pending = s.pending := State.with_host_pending s _
@[simp] theorem State.modSnap_get (s : State) (i : Nat) (f : Snap → Snap) (g : Fld) (j w : Nat) : (State.modSnap s i f).get g j w = s.get g j w :=
  State.get_congr (State.with_host_regs s _) g j w

@[simp] theorem State.modMb_time (s : State) (i : Nat) (f : MbRegs → MbRegs) : (State.modMb s i f).time = s.time := State.with_host_time s _
@[simp] theorem State.modMb_ev (s : State) (i : Nat) (f : MbRegs → MbRegs) : (State.modMb s i f).ev = s.ev := State.with_host_ev s _
@[simp] theorem State.modMb_recd (s : State) (i : Nat) (f : MbRegs → MbRegs) : (State.modMb s i f).recd = s.recd := State.with_host_recd s _
@[simp] theorem State.modMb_afe (s : State) (i : Nat) (f : MbRegs → MbRegs) : (State.modMb s i f).afe = s.afe := State.with_host_afe s _
@[simp] theorem State.modMb_dig (s : State) (i : Nat) (f : MbRegs → MbRegs) : (State.modMb s i f).dig = s.dig := State.with_host_dig s _
@[simp] theorem State.modMb_tdc (s : State) (i : Nat) (f : MbRegs → MbRegs) : (State.modMb s i f).tdc = s.tdc := State.with_host_tdc s _
@[simp] theorem State.modMb_trg (s : State) (i : Nat) (f : MbRegs → MbRegs) : (State.modMb s i f).trg = s.trg := State.with_host_trg s _
@[simp] theorem State.modMb_loop (s : State) (i : Nat) (f : MbRegs → MbRegs) : (State.modMb s i f).loop = s.loop := State.with_host_loop s _
@[simp] theorem State.modMb_deck (s : State) (i : Nat) (f : MbRegs → MbRegs) : (State.modMb s i f).deck = s.deck := State.with_host_deck s _
@[simp] theorem State.modMb_seam (s : State) (i : Nat) (f : MbRegs → MbRegs) : (State.modMb s i f).seam = s.seam := State.with_host_seam s _
@[simp] theorem State.modMb_ctx (s : State) (i : Nat) (f : MbRegs → MbRegs) : (State.modMb s i f).ctx = s.ctx := State.with_host_ctx s _
@[simp] theorem State.modMb_fab (s : State) (i : Nat) (f : MbRegs → MbRegs) : (State.modMb s i f).fab = s.fab := State.with_host_fab s _
@[simp] theorem State.modMb_lane (s : State) (i : Nat) (f : MbRegs → MbRegs) : (State.modMb s i f).lane = s.lane := State.with_host_lane s _
@[simp] theorem State.modMb_ddr (s : State) (i : Nat) (f : MbRegs → MbRegs) : (State.modMb s i f).ddr = s.ddr := State.with_host_ddr s _
@[simp] theorem State.modMb_mbox (s : State) (i : Nat) (f : MbRegs → MbRegs) : (State.modMb s i f).mbox = s.mbox := State.with_host_mbox s _
@[simp] theorem State.modMb_core (s : State) (i : Nat) (f : MbRegs → MbRegs) : (State.modMb s i f).core = s.core := State.with_host_core s _
@[simp] theorem State.modMb_mem (s : State) (i : Nat) (f : MbRegs → MbRegs) : (State.modMb s i f).mem = s.mem := State.with_host_mem s _
@[simp] theorem State.modMb_press (s : State) (i : Nat) (f : MbRegs → MbRegs) : (State.modMb s i f).press = s.press := State.with_host_press s _
@[simp] theorem State.modMb_sec (s : State) (i : Nat) (f : MbRegs → MbRegs) : (State.modMb s i f).sec = s.sec := State.with_host_sec s _
@[simp] theorem State.modMb_pwr (s : State) (i : Nat) (f : MbRegs → MbRegs) : (State.modMb s i f).pwr = s.pwr := State.with_host_pwr s _
@[simp] theorem State.modMb_regs (s : State) (i : Nat) (f : MbRegs → MbRegs) : (State.modMb s i f).regs = s.regs := State.with_host_regs s _
@[simp] theorem State.modMb_out (s : State) (i : Nat) (f : MbRegs → MbRegs) : (State.modMb s i f).out = s.out := State.with_host_out s _
@[simp] theorem State.modMb_free (s : State) (i : Nat) (f : MbRegs → MbRegs) : (State.modMb s i f).free = s.free := State.with_host_free s _
@[simp] theorem State.modMb_pending (s : State) (i : Nat) (f : MbRegs → MbRegs) : (State.modMb s i f).pending = s.pending := State.with_host_pending s _
@[simp] theorem State.modMb_get (s : State) (i : Nat) (f : MbRegs → MbRegs) (g : Fld) (j w : Nat) : (State.modMb s i f).get g j w = s.get g j w :=
  State.get_congr (State.with_host_regs s _) g j w

@[simp] theorem State.modPier_time (s : State) (i : Nat) (f : PierSt → PierSt) : (State.modPier s i f).time = s.time := State.with_core_time s _
@[simp] theorem State.modPier_ev (s : State) (i : Nat) (f : PierSt → PierSt) : (State.modPier s i f).ev = s.ev := State.with_core_ev s _
@[simp] theorem State.modPier_recd (s : State) (i : Nat) (f : PierSt → PierSt) : (State.modPier s i f).recd = s.recd := State.with_core_recd s _
@[simp] theorem State.modPier_afe (s : State) (i : Nat) (f : PierSt → PierSt) : (State.modPier s i f).afe = s.afe := State.with_core_afe s _
@[simp] theorem State.modPier_dig (s : State) (i : Nat) (f : PierSt → PierSt) : (State.modPier s i f).dig = s.dig := State.with_core_dig s _
@[simp] theorem State.modPier_tdc (s : State) (i : Nat) (f : PierSt → PierSt) : (State.modPier s i f).tdc = s.tdc := State.with_core_tdc s _
@[simp] theorem State.modPier_trg (s : State) (i : Nat) (f : PierSt → PierSt) : (State.modPier s i f).trg = s.trg := State.with_core_trg s _
@[simp] theorem State.modPier_loop (s : State) (i : Nat) (f : PierSt → PierSt) : (State.modPier s i f).loop = s.loop := State.with_core_loop s _
@[simp] theorem State.modPier_deck (s : State) (i : Nat) (f : PierSt → PierSt) : (State.modPier s i f).deck = s.deck := State.with_core_deck s _
@[simp] theorem State.modPier_seam (s : State) (i : Nat) (f : PierSt → PierSt) : (State.modPier s i f).seam = s.seam := State.with_core_seam s _
@[simp] theorem State.modPier_ctx (s : State) (i : Nat) (f : PierSt → PierSt) : (State.modPier s i f).ctx = s.ctx := State.with_core_ctx s _
@[simp] theorem State.modPier_fab (s : State) (i : Nat) (f : PierSt → PierSt) : (State.modPier s i f).fab = s.fab := State.with_core_fab s _
@[simp] theorem State.modPier_lane (s : State) (i : Nat) (f : PierSt → PierSt) : (State.modPier s i f).lane = s.lane := State.with_core_lane s _
@[simp] theorem State.modPier_ddr (s : State) (i : Nat) (f : PierSt → PierSt) : (State.modPier s i f).ddr = s.ddr := State.with_core_ddr s _
@[simp] theorem State.modPier_host (s : State) (i : Nat) (f : PierSt → PierSt) : (State.modPier s i f).host = s.host := State.with_core_host s _
@[simp] theorem State.modPier_mbox (s : State) (i : Nat) (f : PierSt → PierSt) : (State.modPier s i f).mbox = s.mbox := State.with_core_mbox s _
@[simp] theorem State.modPier_mem (s : State) (i : Nat) (f : PierSt → PierSt) : (State.modPier s i f).mem = s.mem := State.with_core_mem s _
@[simp] theorem State.modPier_press (s : State) (i : Nat) (f : PierSt → PierSt) : (State.modPier s i f).press = s.press := State.with_core_press s _
@[simp] theorem State.modPier_sec (s : State) (i : Nat) (f : PierSt → PierSt) : (State.modPier s i f).sec = s.sec := State.with_core_sec s _
@[simp] theorem State.modPier_pwr (s : State) (i : Nat) (f : PierSt → PierSt) : (State.modPier s i f).pwr = s.pwr := State.with_core_pwr s _
@[simp] theorem State.modPier_regs (s : State) (i : Nat) (f : PierSt → PierSt) : (State.modPier s i f).regs = s.regs := State.with_core_regs s _
@[simp] theorem State.modPier_out (s : State) (i : Nat) (f : PierSt → PierSt) : (State.modPier s i f).out = s.out := State.with_core_out s _
@[simp] theorem State.modPier_free (s : State) (i : Nat) (f : PierSt → PierSt) : (State.modPier s i f).free = s.free := State.with_core_free s _
@[simp] theorem State.modPier_pending (s : State) (i : Nat) (f : PierSt → PierSt) : (State.modPier s i f).pending = s.pending := State.with_core_pending s _
@[simp] theorem State.modPier_get (s : State) (i : Nat) (f : PierSt → PierSt) (g : Fld) (j w : Nat) : (State.modPier s i f).get g j w = s.get g j w :=
  State.get_congr (State.with_core_regs s _) g j w

/-! ### The changed entry and the others -/

@[simp] theorem State.modFeCh_same (s : State) (i : Nat) (f : FeCh → FeCh) : (State.modFeCh s i f).feCh i = f (s.feCh i) :=
  Tbl.get_mod_same _ _ _ _
theorem State.modFeCh_ne (s : State) {i j : Nat} (h : j ≠ i) (f : FeCh → FeCh) : (State.modFeCh s i f).feCh j = s.feCh j :=
  Tbl.get_mod_ne _ _ h _

@[simp] theorem State.modFe_same (s : State) (i : Nat) (f : FeTile → FeTile) : (State.modFe s i f).fe i = f (s.fe i) :=
  Tbl.get_mod_same _ _ _ _
theorem State.modFe_ne (s : State) {i j : Nat} (h : j ≠ i) (f : FeTile → FeTile) : (State.modFe s i f).fe j = s.fe j :=
  Tbl.get_mod_ne _ _ h _

@[simp] theorem State.modHk_same (s : State) (i : Nat) (f : HkTile → HkTile) : (State.modHk s i f).hk i = f (s.hk i) :=
  Tbl.get_mod_same _ _ _ _
theorem State.modHk_ne (s : State) {i j : Nat} (h : j ≠ i) (f : HkTile → HkTile) : (State.modHk s i f).hk j = s.hk j :=
  Tbl.get_mod_ne _ _ h _

@[simp] theorem State.modRot_same (s : State) (i : Nat) (f : RotTile → RotTile) : (State.modRot s i f).rot i = f (s.rot i) :=
  Tbl.get_mod_same _ _ _ _
theorem State.modRot_ne (s : State) {i j : Nat} (h : j ≠ i) (f : RotTile → RotTile) : (State.modRot s i f).rot j = s.rot j :=
  Tbl.get_mod_ne _ _ h _

@[simp] theorem State.modLp_same (s : State) (i : Nat) (f : LoopTile → LoopTile) : (State.modLp s i f).lp i = f (s.lp i) :=
  Tbl.get_mod_same _ _ _ _
theorem State.modLp_ne (s : State) {i j : Nat} (h : j ≠ i) (f : LoopTile → LoopTile) : (State.modLp s i f).lp j = s.lp j :=
  Tbl.get_mod_ne _ _ h _

@[simp] theorem State.modTd_same (s : State) (i : Nat) (f : TdcCh → TdcCh) : (State.modTd s i f).td i = f (s.td i) :=
  Tbl.get_mod_same _ _ _ _
theorem State.modTd_ne (s : State) {i j : Nat} (h : j ≠ i) (f : TdcCh → TdcCh) : (State.modTd s i f).td j = s.td j :=
  Tbl.get_mod_ne _ _ h _

@[simp] theorem State.modPair_same (s : State) (i : Nat) (f : Pair → Pair) : (State.modPair s i f).pair i = f (s.pair i) :=
  Tbl.get_mod_same _ _ _ _
theorem State.modPair_ne (s : State) {i j : Nat} (h : j ≠ i) (f : Pair → Pair) : (State.modPair s i f).pair j = s.pair j :=
  Tbl.get_mod_ne _ _ h _

@[simp] theorem State.modGauge_same (s : State) (i : Nat) (f : Gauge → Gauge) : (State.modGauge s i f).gauge i = f (s.gauge i) :=
  Tbl.get_mod_same _ _ _ _
theorem State.modGauge_ne (s : State) {i j : Nat} (h : j ≠ i) (f : Gauge → Gauge) : (State.modGauge s i f).gauge j = s.gauge j :=
  Tbl.get_mod_ne _ _ h _

@[simp] theorem State.modPortTime_same (s : State) (i : Nat) (f : PortTime → PortTime) : (State.modPortTime s i f).portTime i = f (s.portTime i) :=
  Tbl.get_mod_same _ _ _ _
theorem State.modPortTime_ne (s : State) {i j : Nat} (h : j ≠ i) (f : PortTime → PortTime) : (State.modPortTime s i f).portTime j = s.portTime j :=
  Tbl.get_mod_ne _ _ h _

@[simp] theorem State.modAct_same (s : State) (i : Nat) (f : ActSt → ActSt) : (State.modAct s i f).actOf i = f (s.actOf i) :=
  Tbl.get_mod_same _ _ _ _
theorem State.modAct_ne (s : State) {i j : Nat} (h : j ≠ i) (f : ActSt → ActSt) : (State.modAct s i f).actOf j = s.actOf j :=
  Tbl.get_mod_ne _ _ h _

@[simp] theorem State.modTout_same (s : State) (i : Nat) (f : ToutSt → ToutSt) : (State.modTout s i f).toutOf i = f (s.toutOf i) :=
  Tbl.get_mod_same _ _ _ _
theorem State.modTout_ne (s : State) {i j : Nat} (h : j ≠ i) (f : ToutSt → ToutSt) : (State.modTout s i f).toutOf j = s.toutOf j :=
  Tbl.get_mod_ne _ _ h _

@[simp] theorem State.modSi_same (s : State) (i : Nat) (f : SeamQ → SeamQ) : (State.modSi s i f).si i = f (s.si i) :=
  Tbl.get_mod_same _ _ _ _
theorem State.modSi_ne (s : State) {i j : Nat} (h : j ≠ i) (f : SeamQ → SeamQ) : (State.modSi s i f).si j = s.si j :=
  Tbl.get_mod_ne _ _ h _

@[simp] theorem State.modCtx_same (s : State) (i : Nat) (f : CtxSt → CtxSt) : (State.modCtx s i f).ctxOf i = f (s.ctxOf i) :=
  Tbl.get_mod_same _ _ _ _
theorem State.modCtx_ne (s : State) {i j : Nat} (h : j ≠ i) (f : CtxSt → CtxSt) : (State.modCtx s i f).ctxOf j = s.ctxOf j :=
  Tbl.get_mod_ne _ _ h _

@[simp] theorem State.modFp_same (s : State) (i : Nat) (f : FabPort → FabPort) : (State.modFp s i f).fp i = f (s.fp i) :=
  Tbl.get_mod_same _ _ _ _
theorem State.modFp_ne (s : State) {i j : Nat} (h : j ≠ i) (f : FabPort → FabPort) : (State.modFp s i f).fp j = s.fp j :=
  Tbl.get_mod_ne _ _ h _

@[simp] theorem State.modLane_same (s : State) (i : Nat) (f : LaneSt → LaneSt) : (State.modLane s i f).laneOf i = f (s.laneOf i) :=
  Tbl.get_mod_same _ _ _ _
theorem State.modLane_ne (s : State) {i j : Nat} (h : j ≠ i) (f : LaneSt → LaneSt) : (State.modLane s i f).laneOf j = s.laneOf j :=
  Tbl.get_mod_ne _ _ h _

@[simp] theorem State.modPortLane_same (s : State) (i : Nat) (f : PortLane → PortLane) : (State.modPortLane s i f).portLane i = f (s.portLane i) :=
  Tbl.get_mod_same _ _ _ _
theorem State.modPortLane_ne (s : State) {i j : Nat} (h : j ≠ i) (f : PortLane → PortLane) : (State.modPortLane s i f).portLane j = s.portLane j :=
  Tbl.get_mod_ne _ _ h _

@[simp] theorem State.modDc_same (s : State) (i : Nat) (f : DdrSt → DdrSt) : (State.modDc s i f).dc i = f (s.dc i) :=
  Tbl.get_mod_same _ _ _ _
theorem State.modDc_ne (s : State) {i j : Nat} (h : j ≠ i) (f : DdrSt → DdrSt) : (State.modDc s i f).dc j = s.dc j :=
  Tbl.get_mod_ne _ _ h _

@[simp] theorem State.modSnap_same (s : State) (i : Nat) (f : Snap → Snap) : (State.modSnap s i f).snapOf i = f (s.snapOf i) :=
  Tbl.get_mod_same _ _ _ _
theorem State.modSnap_ne (s : State) {i j : Nat} (h : j ≠ i) (f : Snap → Snap) : (State.modSnap s i f).snapOf j = s.snapOf j :=
  Tbl.get_mod_ne _ _ h _

@[simp] theorem State.modMb_same (s : State) (i : Nat) (f : MbRegs → MbRegs) : (State.modMb s i f).mbRegs i = f (s.mbRegs i) :=
  Tbl.get_mod_same _ _ _ _
theorem State.modMb_ne (s : State) {i j : Nat} (h : j ≠ i) (f : MbRegs → MbRegs) : (State.modMb s i f).mbRegs j = s.mbRegs j :=
  Tbl.get_mod_ne _ _ h _

@[simp] theorem State.modPier_same (s : State) (i : Nat) (f : PierSt → PierSt) : (State.modPier s i f).pierOf i = f (s.pierOf i) :=
  Tbl.get_mod_same _ _ _ _
theorem State.modPier_ne (s : State) {i j : Nat} (h : j ≠ i) (f : PierSt → PierSt) : (State.modPier s i f).pierOf j = s.pierOf j :=
  Tbl.get_mod_ne _ _ h _

/-! ### Outputs, the clock and the queue -/

@[simp] theorem State.emit_out (s : State) (o : Out) : (s.emit o).out = o :: s.out := rfl
@[simp] theorem State.drive_out (s : State) (p : Pin) (level : Bool) : (s.drive p level).out = .pin p level :: s.out := rfl
@[simp] theorem State.fresh_free (s : State) : s.fresh.free = s.free + 1 := rfl
@[simp] theorem State.clock_now (s : State) (t : Tm) : (s.clock t).time.now = max s.time.now t := rfl
@[simp] theorem State.clock_epoch (s : State) (t : Tm) : (s.clock t).time.epoch = s.time.epoch := rfl
@[simp] theorem State.withCommand_pending (s : State) (c : Instr) : (s.withCommand c).pending = c :: s.pending := rfl

/-- The step takes the front command. -/
theorem step_cons (s : State) (c : Instr) (cs : List Instr) : step { s with pending := c :: cs } = exec c { s with pending := cs } := rfl

/-- A command acts at its instant where no whole-device reset is held. -/
theorem live_of {s : State} (h : s.pwr.por = false) (t : Tm) (f : State → State) : live t s f = .next (f (s.clock t)) := by
  simp [live, h]

/-- A command has no effect while one is held. -/
theorem live_held {s : State} (h : s.pwr.por = true) (t : Tm) (f : State → State) : live t s f = .next s := by
  simp [live, h]

/-! ### The byte memories -/

/-- A write to DDR5 keeps the canonical form. -/
theorem State.ddrWrite_canonical {s : State} (a : Nat) (bs : List Byte) (h : s.MemoryCanonical) : (s.ddrWrite a bs).MemoryCanonical :=
  ⟨bytesWf_writeBytes bs a h.1, h.2⟩

/-- A write to the press buffer keeps it. -/
theorem State.pressWrite_canonical {s : State} (a : Nat) (bs : List Byte) (h : s.MemoryCanonical) :
    ({ s with press := { s.press with buf := writeBytes (fun _ => 0) s.press.buf a bs } } : State).MemoryCanonical :=
  ⟨h.1, bytesWf_writeBytes bs a h.2⟩

/-- A byte outside a write to DDR5 stays. -/
theorem State.ddrByte_out (s : State) (a : Nat) (bs : List Byte) {i : Nat} (h : i < a ∨ a + bs.length ≤ i) :
    (s.ddrWrite a bs).ddrByte i = s.ddrByte i := by
  unfold State.ddrByte
  exact get_writeBytes_out _ _ bs _ a h

/-- The bytes of a write to DDR5 are read back. -/
theorem State.ddrRead_ddrWrite (s : State) (a : Nat) (bs : List Byte) : (s.ddrWrite a bs).ddrRead a bs.length = bs :=
  readBytes_writeBytes _ bs _ a

end Sys2Proof.Machine
end

