-- ==== Sys2Proof/Laws/Events.lean ====
section
/-! SUPPORT. What raising an event source does to the latches and to what the device has sent out. -/

namespace Sys2Proof.Machine

/-- A latch bit that stood stays set: `e` has at least the bits of `d`. -/
def Latched (d e : EvSt) : Prop :=
  ∀ n, (d.host.getLsbD n = true → e.host.getLsbD n = true) ∧ (d.fw.getLsbD n = true → e.fw.getLsbD n = true) ∧
    (d.recd.getLsbD n = true → e.recd.getLsbD n = true)

theorem Latched.refl (e : EvSt) : Latched e e := fun _ => ⟨id, id, id⟩

theorem Latched.trans {a b c : EvSt} (h : Latched a b) (k : Latched b c) : Latched a c :=
  fun n => ⟨fun x => (k n).1 ((h n).1 x), fun x => (k n).2.1 ((h n).2.1 x), fun x => (k n).2.2 ((h n).2.2 x)⟩

theorem srcBit_self {n : Nat} (h : n < 256) : (srcBit n).getLsbD n = true := by
  unfold srcBit
  rw [BitVec.getLsbD_ofNat, Nat.mod_eq_of_lt h, Nat.testBit_two_pow_self]
  simp [h]

theorem State.msixDue_latches (s : State) (v : Nat) :
    (s.msixDue v).ev.host = s.ev.host ∧ (s.msixDue v).ev.fw = s.ev.fw ∧ (s.msixDue v).ev.recd = s.ev.recd := by
  unfold State.msixDue
  split <;> exact ⟨rfl, rfl, rfl⟩

/-- What the host latch alone takes. -/
theorem State.latchHost_latches (s : State) (n : Nat) :
    (s.latchHost n).ev.host = s.ev.host ||| srcBit n ∧ (s.latchHost n).ev.fw = s.ev.fw ∧ (s.latchHost n).ev.recd = s.ev.recd := by
  unfold State.latchHost
  dsimp only
  split
  · exact State.msixDue_latches _ _
  · exact ⟨rfl, rfl, rfl⟩

/-- What the three latches take. -/
theorem State.latch_latches (s : State) (n : Nat) :
    (s.latch n).ev.host = s.ev.host ||| srcBit n ∧ (s.latch n).ev.fw = s.ev.fw ||| srcBit n ∧
      (s.latch n).ev.recd = s.ev.recd ||| srcBit n := by
  unfold State.latch
  exact State.latchHost_latches _ _

theorem State.latch_latched (s : State) (n : Nat) : Latched s.ev (s.latch n).ev := by
  obtain ⟨a, b, c⟩ := State.latch_latches s n
  intro k
  rw [a, b, c]
  simp only [BitVec.getLsbD_or, Bool.or_eq_true]
  exact ⟨.inl, .inl, .inl⟩

theorem State.latch_raised (s : State) {n : Nat} (h : n < 256) : Raised n (s.latch n) := by
  obtain ⟨a, b, c⟩ := State.latch_latches s n
  simp only [Raised, a, b, c, BitVec.getLsbD_or, srcBit_self h, Bool.or_true, and_self]

/-- An occurrence in staging leaves the latches. -/
theorem State.occur_ev (s : State) (code severity : Nat) (detail : List Byte) : (s.occur code severity detail).1.ev = s.ev :=
  (State.occur_only s code severity detail).1 .ev (by decide)

theorem State.recRaises_latched (s : State) (ns : List Nat) : Latched s.ev (s.recRaises ns).ev := by
  induction ns generalizing s with
  | nil => exact .refl _
  | cons n ns ih =>
    unfold State.recRaises
    refine (State.latch_latched s n).trans (Latched.trans ?_ (ih _))
    split
    · rw [State.occur_ev]; exact .refl _
    · exact .refl _

/-- Raising a source sets no latch bit back. -/
theorem State.raise_latched (s : State) (n : Nat) : Latched s.ev (s.raise n).ev := by
  unfold State.raise
  refine (State.latch_latched s n).trans ?_
  dsimp only
  split
  · exact Latched.trans (by rw [State.occur_ev]; exact .refl _) (State.recRaises_latched _ _)
  · exact .refl _

/-- A source that stands in the three latches stands there after another raise. -/
theorem State.raise_keeps (s : State) {n : Nat} (k : Nat) (h : Raised n s) : Raised n (s.raise k) :=
  ⟨(State.raise_latched s k n).1 h.1, (State.raise_latched s k n).2.1 h.2.1, (State.raise_latched s k n).2.2 h.2.2⟩

/-- Raising a source sets it in the three latches. -/
theorem State.raise_raised (s : State) {n : Nat} (h : n < 256) : Raised n (s.raise n) := by
  have hl := State.latch_raised s h
  unfold State.raise
  dsimp only
  split
  · have k := State.recRaises_latched ((s.latch n).occur (0xFF00 + n) (srcSeverity n) []).1
      ((s.latch n).occur (0xFF00 + n) (srcSeverity n) []).2 n
    rw [State.occur_ev] at k
    exact ⟨k.1 hl.1, k.2.1 hl.2.1, k.2.2 hl.2.2⟩
  · exact hl

end Sys2Proof.Machine
end

