-- ==== Sys2Proof/Laws/OnlyMemOps.lean ====
section
/-! SUPPORT. What the operations of Machine/MemOps.lean leave alone: one lemma for each. -/

namespace Sys2Proof.Machine

theorem State.memCe_only (s : State) (m : Nat) : Only [.ev, .recd, .core, .mem, .out] [0x10000001, 0x11000203, 0x11000204] s (State.memCe s m) := by
  unfold State.memCe
  simp (disch := decide) only [Only.refl_iff, Only.set_mem, Only.bump_iff, Only.step_iff (State.log_only _ _ _ _), Only.step_iff (State.raise_only _ _), Only.ite_iff, Only.iteFst_iff, implies_true, and_self]

theorem State.memUe_only (s : State) (m addr : Nat) : Only [.ev, .recd, .out] [0x10000001, 0x10000002, 0x11000203, 0x11000204] s (State.memUe s m addr) := by
  unfold State.memUe
  simp (disch := decide) only [Only.refl_iff, Only.bump_iff, Only.put_iff, Only.step_iff (State.raise_only _ _)]

theorem State.flawRead_only (s : State) (f : Flaw) : Only [.ev, .recd, .core, .mem, .out] [0x10000001, 0x10000002, 0x11000203, 0x11000204] s (State.flawRead s f) := by
  unfold State.flawRead
  simp (disch := decide) only [Only.refl_iff, Only.step_iff (State.memCe_only _ _), Only.step_iff (State.memUe_only _ _ _), Only.ite_iff, Only.iteFst_iff, implies_true, and_self]

theorem State.flawNext_only (s : State) (m : Nat) : Only [.ev, .recd, .core, .mem, .out] [0x10000001, 0x10000002, 0x11000203, 0x11000204] s (State.flawNext s m).1 := by
  unfold State.flawNext
  repeat' first
    | simp (disch := decide) only [Only.refl_iff, Only.set_mem, Only.step_iff (State.flawRead_only _ _), Only.ite_iff, Only.iteFst_iff, implies_true, and_self]
    | split

theorem State.flawAt_only (s : State) (m pos : Nat) : Only [.ev, .recd, .core, .mem, .out] [0x10000001, 0x10000002, 0x11000203, 0x11000204] s (State.flawAt s m pos).1 := by
  unfold State.flawAt
  repeat' first
    | simp (disch := decide) only [Only.refl_iff, Only.step_iff (State.flawRead_only _ _)]
    | split

end Sys2Proof.Machine
end

