-- ==== Sys2Proof/Laws/OnlyMaint.lean ====
section
/-! SUPPORT. What the operations of Machine/Maint.lean leave alone: one lemma for each. -/

namespace Sys2Proof.Machine

theorem State.maintState_only (s : State) (code : Nat) : Only [] [0x0F000102] s (State.maintState s code) := by
  unfold State.maintState
  simp (disch := decide) only [Only.refl_iff, Only.put_iff, Only.ite_iff, Only.iteFst_iff, implies_true, and_self]

theorem State.maintBegin_only (s : State) (code unit : Nat) (byHost : Bool) : Only [.core] [0x0F000102] s (State.maintBegin s code unit byHost) := by
  unfold State.maintBegin
  simp (disch := decide) only [Only.refl_iff, Only.set_core, Only.step_iff (State.maintState_only _ _), Only.ite_iff, Only.iteFst_iff, implies_true, and_self]

theorem State.maintEnd_only (s : State) (code unit : Nat) : Only [.core] [0x0F000102, 0x0F000103] s (State.maintEnd s code unit) := by
  unfold State.maintEnd
  simp (disch := decide) only [Only.refl_iff, Only.set_core, Only.step_iff (State.maintState_only _ _), Only.put_iff, Only.ite_iff, Only.iteFst_iff, implies_true, and_self]

theorem State.maintDefer_only (s : State) (code unit : Nat) (byHost : Bool) : Only [.ev, .recd, .core, .out] [0x0F000102, 0x11000203, 0x11000204] s (State.maintDefer s code unit byHost) := by
  unfold State.maintDefer
  simp (disch := decide) only [Only.refl_iff, Only.set_core, Only.bump_iff, Only.step_iff (State.maintState_only _ _), Only.step_iff (State.raise_only _ _)]

theorem State.maintRefuse_only (s : State) (code : Nat) : Only [] [0x0F000102] s (State.maintRefuse s code) := by
  unfold State.maintRefuse
  simp (disch := decide) only [Only.refl_iff, Only.bump_iff]

end Sys2Proof.Machine
end

