-- ==== Sys2Proof/Laws/OnlyTile.lean ====
section
/-! SUPPORT. What the operations of Machine/Tile.lean leave alone: one lemma for each. -/

namespace Sys2Proof.Machine

theorem State.modFeCh_only (s : State) (c : Nat) (f : FeCh → FeCh) : Only [.afe] [] s (State.modFeCh s c f) := by
  unfold State.modFeCh
  simp (disch := decide) only [Only.refl_iff, Only.set_afe]

theorem State.modFe_only (s : State) (t : Nat) (f : FeTile → FeTile) : Only [.afe] [] s (State.modFe s t f) := by
  unfold State.modFe
  simp (disch := decide) only [Only.refl_iff, Only.set_afe]

theorem State.modHk_only (s : State) (t : Nat) (f : HkTile → HkTile) : Only [.dig] [] s (State.modHk s t f) := by
  unfold State.modHk
  simp (disch := decide) only [Only.refl_iff, Only.set_dig]

theorem State.modLp_only (s : State) (t : Nat) (f : LoopTile → LoopTile) : Only [.loop] [] s (State.modLp s t f) := by
  unfold State.modLp
  simp (disch := decide) only [Only.refl_iff, Only.set_loop]

theorem State.hkStart_only (s : State) (t entry input avg shift : Nat) (loop : Option Tm) : Only [.dig] [] s (State.hkStart s t entry input avg shift loop) := by
  unfold State.hkStart
  simp (disch := decide) only [Only.refl_iff, Only.step_iff (State.modHk_only _ _ _), Only.ite_iff, Only.iteFst_iff, implies_true, and_self]

theorem State.hkPending_only (s : State) (t : Nat) : Only [] [0x02000107] s (State.hkPending s t) := by
  unfold State.hkPending
  simp (disch := decide) only [Only.refl_iff, Only.put_iff]

theorem State.hkNext_only (s : State) (t : Nat) : Only [.dig] [0x02000107] s (State.hkNext s t) := by
  unfold State.hkNext
  repeat' first
    | simp (disch := decide) only [Only.refl_iff, Only.step_iff (State.hkPending_only _ _), Only.step_iff (State.hkStart_only _ _ _ _ _ _ _), Only.step_iff (State.modHk_only _ _ _)]
    | split

theorem State.urgent_only (s : State) (t input avg shift : Nat) (loop : Option Tm) : Only [.dig] [0x02000107] s (State.urgent s t input avg shift loop).1 := by
  unfold State.urgent
  simp (disch := decide) only [Only.refl_iff, Only.bump_iff, Only.step_iff (State.hkNext_only _ _), Only.step_iff (State.hkPending_only _ _), Only.step_iff (State.modHk_only _ _ _), Only.ite_iff, Only.iteFst_iff, implies_true, and_self]

theorem State.settleAt_only (s : State) (t : Nat) (at_ : Tm) (n : Nat) : Only [.afe, .dig] [0x05000116] s (State.settleAt s t at_ n) := by
  unfold State.settleAt
  repeat' first
    | simp (disch := decide) only [Only.refl_iff, Only.bump_iff, Only.step_iff (State.modFe_only _ _ _), Only.step_iff (State.modHk_only _ _ _), Only.ite_iff, Only.iteFst_iff, implies_true, and_self]
    | split

theorem State.settle_only (s : State) (t : Nat) : Only [.afe, .dig] [0x05000116] s (State.settle s t) := by
  unfold State.settle
  simp (disch := decide) only [Only.refl_iff, Only.step_iff (State.settleAt_only _ _ _ _)]

theorem State.rampTo_only (s : State) (t : Nat) : Only [.afe, .dig] [0x05000116] s (State.rampTo s t) := by
  unfold State.rampTo
  repeat' first
    | simp (disch := decide) only [Only.refl_iff, Only.step_iff (State.modFe_only _ _ _), Only.step_iff (State.settleAt_only _ _ _ _), Only.ite_iff, Only.iteFst_iff, implies_true, and_self]
    | split

theorem State.applyTrims_only (s : State) (t : Nat) : Only [.afe, .dig] [0x01000004, 0x01000008, 0x05000116] s (State.applyTrims s t) := by
  unfold State.applyTrims
  simp (disch := first | decide | (intro _ _; simp (disch := decide) only [Only.refl_iff, Only.each_iff, Only.put_iff, Only.putB_iff, Only.step_iff (State.settle_only _ _), Only.ite_iff, Only.iteFst_iff, implies_true, and_self])) only [Only.refl_iff, Only.each_iff, Only.put_iff, Only.putB_iff, Only.step_iff (State.settle_only _ _), Only.ite_iff, Only.iteFst_iff, implies_true, and_self]

theorem State.hvDrive_only (s : State) (before : Nat) (t : Tile) : Only [.out] [] s (State.hvDrive s before t) := by
  unfold State.hvDrive
  simp (disch := decide) only [Only.refl_iff, Only.step_iff (State.emit_only _ _), Only.ite_iff, Only.iteFst_iff, implies_true, and_self]

theorem State.maskEval_only (s : State) (p t : Nat) : Only [.afe] [] s (State.maskEval s p t) := by
  unfold State.maskEval
  repeat' first
    | simp (disch := decide) only [Only.refl_iff, Only.step_iff (State.modFe_only _ _ _), Only.ite_iff, Only.iteFst_iff, implies_true, and_self]
    | split

theorem State.showBlank_only (s : State) (t : Nat) : Only [] [0x01000008] s (State.showBlank s t) := by
  unfold State.showBlank
  simp (disch := first | decide | (intro _ _; simp (disch := decide) only [Only.refl_iff, Only.each_iff, Only.putB_iff])) only [Only.refl_iff, Only.each_iff, Only.putB_iff]

theorem State.freeze_only (s : State) (t : Nat) : Only [.afe, .dig] [0x05000116] s (State.freeze s t) := by
  unfold State.freeze
  repeat' first
    | simp (disch := decide) only [Only.refl_iff, Only.step_iff (State.modHk_only _ _ _), Only.step_iff (State.settle_only _ _), Only.ite_iff, Only.iteFst_iff, implies_true, and_self]
    | split

theorem State.blankEval_only (s : State) (t : Nat) : Only [.afe, .dig] [0x01000008, 0x05000116] s (State.blankEval s t) := by
  unfold State.blankEval
  simp (disch := decide) only [Only.refl_iff, Only.step_iff (State.freeze_only _ _), Only.step_iff (State.maskEval_only _ _ _), Only.step_iff (State.modFe_only _ _ _), Only.step_iff (State.showBlank_only _ _), Only.ite_iff, Only.iteFst_iff, implies_true, and_self]

theorem State.blankAll_only (s : State) : Only [.afe, .dig] [0x01000008, 0x05000116] s (State.blankAll s) := by
  unfold State.blankAll
  simp (disch := first | decide | (intro _ _; simp (disch := decide) only [Only.refl_iff, Only.step_iff (State.blankEval_only _ _), Only.each_iff])) only [Only.refl_iff, Only.step_iff (State.blankEval_only _ _), Only.each_iff]

theorem State.sumEval_only (s : State) (t : Nat) : Only [.afe] [] s (State.sumEval s t) := by
  unfold State.sumEval
  repeat' first
    | simp (disch := decide) only [Only.refl_iff, Only.step_iff (State.modFe_only _ _ _), Only.ite_iff, Only.iteFst_iff, implies_true, and_self]
    | split

theorem State.dropPend_only (s : State) (id : Nat) : Only [.time] [] s (State.dropPend s id) := by
  unfold State.dropPend
  simp (disch := decide) only [Only.refl_iff, Only.set_time]

theorem State.loopClear_only (s : State) (t : Nat) : Only [.loop] [0x05000113] s (State.loopClear s t) := by
  unfold State.loopClear
  simp (disch := decide) only [Only.refl_iff, Only.step_iff (State.modLp_only _ _ _), Only.putB_iff]

theorem State.loopTrip_only (s : State) (t : Nat) : Only [.time, .loop] [0x01000101, 0x05000101, 0x05000110, 0x05000113, 0x05000114] s (State.loopTrip s t) := by
  unfold State.loopTrip
  simp (disch := decide) only [Only.refl_iff, Only.step_iff (State.dropPend_only _ _), Only.step_iff (State.loopClear_only _ _), Only.step_iff (State.modLp_only _ _ _), Only.put_iff, Only.putB_iff]

theorem State.visitDrop_only (s : State) (t : Nat) : Only [.afe, .core] [0x0F000102, 0x0F000103] s (State.visitDrop s t) := by
  unfold State.visitDrop
  repeat' first
    | simp (disch := decide) only [Only.refl_iff, Only.step_iff (State.maintEnd_only _ _ _), Only.step_iff (State.modFe_only _ _ _)]
    | split

theorem State.trip_only (s : State) (t : Tile) : Only [.time, .ev, .recd, .afe, .loop, .core, .out] [0x01000101, 0x01000105, 0x05000101, 0x05000110, 0x05000113, 0x05000114, 0x0F000102, 0x0F000103, 0x11000203, 0x11000204] s (State.trip s t) := by
  unfold State.trip
  simp (disch := decide) only [Only.refl_iff, Only.bump_iff, Only.step_iff (State.drive_only _ _ _), Only.step_iff (State.hvDrive_only _ _ _), Only.step_iff (State.loopTrip_only _ _), Only.step_iff (State.modFe_only _ _ _), Only.putB_iff, Only.step_iff (State.raise_only _ _), Only.step_iff (State.visitDrop_only _ _)]

theorem State.tripClear_only (s : State) (t : Tile) : Only [.afe, .dig, .out] [0x01000004, 0x01000008, 0x01000105, 0x05000113, 0x05000116] s (State.tripClear s t) := by
  unfold State.tripClear
  simp (disch := decide) only [Only.refl_iff, Only.step_iff (State.applyTrims_only _ _), Only.step_iff (State.drive_only _ _ _), Only.step_iff (State.modFe_only _ _ _), Only.putB_iff]

theorem State.tapSet_only (s : State) (code : Nat) : Only [.afe, .dig, .pwr] [0x01000004, 0x01000008, 0x05000116] s (State.tapSet s code) := by
  unfold State.tapSet
  simp (disch := first | decide | (intro _ _; simp (disch := decide) only [Only.refl_iff, Only.set_pwr, Only.step_iff (State.applyTrims_only _ _), Only.step_iff (State.blankAll_only _), Only.each_iff, Only.ite_iff, Only.iteFst_iff, implies_true, and_self])) only [Only.refl_iff, Only.set_pwr, Only.step_iff (State.applyTrims_only _ _), Only.step_iff (State.blankAll_only _), Only.each_iff, Only.ite_iff, Only.iteFst_iff, implies_true, and_self]

end Sys2Proof.Machine
end

