-- ==== Sys2Proof/Laws/OnlyDdrQueue.lean ====
section
/-! SUPPORT. What the operations of Machine/DdrQueue.lean leave alone: one lemma for each. -/

namespace Sys2Proof.Machine

theorem State.modDc_only (s : State) (c : Nat) (f : DdrSt → DdrSt) : Only [.ddr] [] s (State.modDc s c f) := by
  unfold State.modDc
  simp (disch := decide) only [Only.refl_iff, Only.set_ddr]

theorem State.ddrRun_only (s : State) (c : Nat) : Only [.ddr] [] s (State.ddrRun s c) := by
  unfold State.ddrRun
  simp (disch := decide) only [Only.refl_iff, Only.step_iff (State.modDc_only _ _ _), Only.ite_iff, Only.iteFst_iff, implies_true, and_self]

theorem State.ddrUse_only (s : State) (src : Nat) (write : Bool) (addr len : Nat) : Only [.ddr] [] s (State.ddrUse s src write addr len) := by
  unfold State.ddrUse
  repeat' first
    | simp (disch := first | decide | (intro _ _; repeat' first | simp (disch := decide) only [Only.refl_iff, Only.step_iff (State.ddrRun_only _ _), Only.each_iff, Only.step_iff (State.modDc_only _ _ _), Only.ite_iff, Only.iteFst_iff, implies_true, and_self] | split)) only [Only.refl_iff, Only.step_iff (State.ddrRun_only _ _), Only.each_iff, Only.step_iff (State.modDc_only _ _ _), Only.ite_iff, Only.iteFst_iff, implies_true, and_self]
    | split

theorem State.refresh_only (s : State) (c : Nat) : Only [.ddr, .out] [] s (State.refresh s c) := by
  unfold State.refresh
  simp (disch := decide) only [Only.refl_iff, Only.step_iff (State.emit_only _ _), Only.step_iff (State.modDc_only _ _ _)]

theorem State.refreshNext_only (s : State) (c : Nat) : Only [.ddr] [] s (State.refreshNext s c) := by
  unfold State.refreshNext
  simp (disch := decide) only [Only.refl_iff, Only.step_iff (State.modDc_only _ _ _), Only.ite_iff, Only.iteFst_iff, implies_true, and_self]

theorem State.ddrDrop_only (s : State) : Only [.ddr] [] s (State.ddrDrop s) := by
  unfold State.ddrDrop
  simp (disch := first | decide | (intro _ _; simp (disch := decide) only [Only.refl_iff, Only.each_iff, Only.step_iff (State.modDc_only _ _ _)])) only [Only.refl_iff, Only.each_iff, Only.step_iff (State.modDc_only _ _ _)]

end Sys2Proof.Machine
end

