-- ==== Sys2Proof/Laws/OnlyAfe.lean ====
section
/-! SUPPORT. What the operations of Machine/Afe.lean leave alone: one lemma for each. -/

namespace Sys2Proof.Machine

theorem execSettleWindowExpire_only (t : Tm) (tile : Tile) {s u : State} (hp : s.pwr.por = false) (h : execSettleWindowExpire t tile s = .next u) :
    Only [.afe] [] (s.clock t) u := by
  obtain rfl := live_next hp h
  generalize s.clock t = v
  simp (disch := decide) only [Only.refl_iff, Only.step_iff (State.modFe_only _ _ _), Only.ite_iff, Only.iteFst_iff, implies_true, and_self]

theorem execImpedanceSlotStart_only (t : Tm) (tile : Tile) {s u : State} (hp : s.pwr.por = false) (h : execImpedanceSlotStart t tile s = .next u) :
    Only [.ev, .recd, .afe, .core, .out] [0x0F000102, 0x11000203, 0x11000204] (s.clock t) u := by
  obtain rfl := live_next hp h
  generalize s.clock t = v
  repeat' first
    | simp (disch := decide) only [Only.refl_iff, Only.step_iff (State.maintBegin_only _ _ _ _), Only.step_iff (State.maintDefer_only _ _ _ _), Only.step_iff (State.maintRefuse_only _ _), Only.step_iff (State.modFe_only _ _ _), Only.ite_iff, Only.iteFst_iff, implies_true, and_self]
    | split

theorem State.queueVisit_only (s : State) (t i : Nat) : Only [.afe] [] s (State.queueVisit s t i) := by
  unfold State.queueVisit
  simp (disch := decide) only [Only.refl_iff, Only.step_iff (State.modFe_only _ _ _), Only.ite_iff, Only.iteFst_iff, implies_true, and_self]

theorem State.impAct_only (s : State) (t i : Nat) (k : ImpClass) : Only [.ev, .recd, .afe, .core, .out] [0x01000008, 0x11000203, 0x11000204] s (State.impAct s t i k) := by
  unfold State.impAct
  repeat' first
    | simp (disch := decide) only [Only.refl_iff, Only.set_afe, Only.step_iff (State.log_only _ _ _ _), Only.putB_iff, Only.step_iff (State.queueVisit_only _ _ _), Only.step_iff (State.raise_only _ _), Only.ite_iff, Only.iteFst_iff, implies_true, and_self]
    | split

theorem execImpedanceVisitResult_only (t : Tm) (tile : Tile) (ire iim : Int) (half1 half2 : Nat) {s u : State} (hp : s.pwr.por = false) (h : execImpedanceVisitResult t tile ire iim half1 half2 s = .next u) :
    Only [.ev, .recd, .afe, .core, .out] [0x01000008, 0x01000009, 0x0100000A, 0x0F000102, 0x0F000103, 0x11000203, 0x11000204] (s.clock t) u := by
  obtain rfl := live_next hp h
  generalize s.clock t = v
  repeat' first
    | simp (disch := decide) only [Only.refl_iff, Only.step_iff (State.impAct_only _ _ _ _), Only.step_iff (State.maintEnd_only _ _ _), Only.step_iff (State.modFe_only _ _ _), Only.put_iff, Only.putB_iff, Only.ite_iff, Only.iteFst_iff, implies_true, and_self]
    | split

theorem State.channelRestore_only (s : State) (c : Nat) : Only [.afe] [0x01000008] s (State.channelRestore s c) := by
  unfold State.channelRestore
  simp (disch := decide) only [Only.refl_iff, Only.set_afe, Only.putB_iff, Only.ite_iff, Only.iteFst_iff, implies_true, and_self]

theorem execChannelRestore_only (t : Tm) (ch : Ch) {s u : State} (hp : s.pwr.por = false) (h : execChannelRestore t ch s = .next u) :
    Only [.afe] [0x01000008] (s.clock t) u := by
  obtain rfl := live_next hp h
  generalize s.clock t = v
  simp (disch := decide) only [Only.refl_iff, Only.step_iff (State.channelRestore_only _ _)]

theorem State.pinSet_only (s : State) (pin : Fin 2) (level : Bool) : Only [.afe] [] s (State.pinSet s pin level) := by
  unfold State.pinSet
  simp (disch := decide) only [Only.refl_iff, Only.set_afe, Only.ite_iff, Only.iteFst_iff, implies_true, and_self]

theorem execBlankPinEdge_only (t : Tm) (pin : Fin 2) (level : Bool) {s u : State} (hp : s.pwr.por = false) (h : execBlankPinEdge t pin level s = .next u) :
    Only [.time, .afe, .dig] [0x01000008, 0x05000116] (s.clock t) u := by
  unfold execBlankPinEdge at h
  rw [hp] at h
  obtain rfl := Host.Outcome.next.inj h
  generalize s.clock t = v
  simp (disch := decide) only [Only.refl_iff, Only.step_iff (State.blankAll_only _), Only.step_iff (State.clock_only _ _), Only.step_iff (State.pinSet_only _ _ _), Only.ite_iff, Only.iteFst_iff, implies_true, and_self]

theorem State.thaw_only (s : State) (t : Nat) (at_ : Tm) : Only [.dig] [] s (State.thaw s t at_) := by
  unfold State.thaw
  repeat' first
    | simp (disch := decide) only [Only.refl_iff, Only.step_iff (State.modHk_only _ _ _), Only.ite_iff, Only.iteFst_iff, implies_true, and_self]
    | split

theorem execBlankGuardExpire_only (t : Tm) (tile : Tile) {s u : State} (hp : s.pwr.por = false) (h : execBlankGuardExpire t tile s = .next u) :
    Only [.afe, .dig] [0x01000008] (s.clock t) u := by
  obtain rfl := live_next hp h
  generalize s.clock t = v
  repeat' first
    | simp (disch := decide) only [Only.refl_iff, Only.step_iff (State.modFe_only _ _ _), Only.step_iff (State.showBlank_only _ _), Only.step_iff (State.thaw_only _ _ _), Only.ite_iff, Only.iteFst_iff, implies_true, and_self]
    | split

theorem execConversionResume_only (t : Tm) (tile : Tile) {s u : State} (hp : s.pwr.por = false) (h : execConversionResume t tile s = .next u) :
    Only [.afe, .dig] [0x05000116] (s.clock t) u := by
  obtain rfl := live_next hp h
  generalize s.clock t = v
  repeat' first
    | simp (disch := decide) only [Only.refl_iff, Only.step_iff (State.modHk_only _ _ _), Only.step_iff (State.settle_only _ _), Only.ite_iff, Only.iteFst_iff, implies_true, and_self]
    | split

theorem execBlankMaxAbandon_only (t : Tm) (tile : Tile) {s u : State} (hp : s.pwr.por = false) (h : execBlankMaxAbandon t tile s = .next u) :
    Only [.ev, .recd, .dig, .out] [0x01000204, 0x02000107, 0x11000203, 0x11000204] (s.clock t) u := by
  obtain rfl := live_next hp h
  generalize s.clock t = v
  repeat' first
    | simp (disch := decide) only [Only.refl_iff, Only.bump_iff, Only.step_iff (State.hkNext_only _ _), Only.step_iff (State.modHk_only _ _ _), Only.step_iff (State.raise_only _ _), Only.ite_iff, Only.iteFst_iff, implies_true, and_self]
    | split

theorem execTileCurrentCross_only (t : Tm) (tile : Tile) (sum : Nat) {s u : State} (hp : s.pwr.por = false) (h : execTileCurrentCross t tile sum s = .next u) :
    Only [.afe] [] (s.clock t) u := by
  obtain rfl := live_next hp h
  generalize s.clock t = v
  simp (disch := decide) only [Only.refl_iff, Only.step_iff (State.modFe_only _ _ _), Only.step_iff (State.sumEval_only _ _)]

theorem execGlitchFilterExpire_only (t : Tm) (tile : Tile) {s u : State} (hp : s.pwr.por = false) (h : execGlitchFilterExpire t tile s = .next u) :
    Only [.time, .ev, .recd, .afe, .loop, .core, .out] [0x01000101, 0x01000105, 0x05000101, 0x05000110, 0x05000113, 0x05000114, 0x0F000102, 0x0F000103, 0x11000203, 0x11000204] (s.clock t) u := by
  obtain rfl := live_next hp h
  generalize s.clock t = v
  repeat' first
    | simp (disch := decide) only [Only.refl_iff, Only.step_iff (State.trip_only _ _), Only.ite_iff, Only.iteFst_iff, implies_true, and_self]
    | split

theorem execTripRampDone_only (t : Tm) (tile : Tile) {s u : State} (hp : s.pwr.por = false) (h : execTripRampDone t tile s = .next u) :
    Only [.afe, .dig] [0x01000004, 0x01000008, 0x05000116] (s.clock t) u := by
  obtain rfl := live_next hp h
  generalize s.clock t = v
  simp (disch := first | decide | (intro _ _; simp (disch := decide) only [Only.refl_iff, Only.each_iff, Only.step_iff (State.modFe_only _ _ _), Only.put_iff, Only.putB_iff, Only.step_iff (State.rampTo_only _ _), Only.ite_iff, Only.iteFst_iff, implies_true, and_self])) only [Only.refl_iff, Only.each_iff, Only.step_iff (State.modFe_only _ _ _), Only.put_iff, Only.putB_iff, Only.step_iff (State.rampTo_only _ _), Only.ite_iff, Only.iteFst_iff, implies_true, and_self]

theorem execTripClear_only (t : Tm) (tile : Tile) {s u : State} (hp : s.pwr.por = false) (h : execTripClear t tile s = .next u) :
    Only [.afe, .dig, .out] [0x01000004, 0x01000008, 0x01000105, 0x05000113, 0x05000116] (s.clock t) u := by
  obtain rfl := live_next hp h
  generalize s.clock t = v
  simp (disch := decide) only [Only.refl_iff, Only.step_iff (State.tripClear_only _ _), Only.ite_iff, Only.iteFst_iff, implies_true, and_self]

theorem execTripLimitWrite_only (t : Tm) (tile : Tile) (limit : BitVec 16) {s u : State} (hp : s.pwr.por = false) (h : execTripLimitWrite t tile limit s = .next u) :
    Only [.afe] [0x01000103] (s.clock t) u := by
  obtain rfl := live_next hp h
  generalize s.clock t = v
  simp (disch := decide) only [Only.refl_iff, Only.put_iff, Only.step_iff (State.sumEval_only _ _), Only.ite_iff, Only.iteFst_iff, implies_true, and_self]

end Sys2Proof.Machine
end

