-- ==== Sys2Proof/Laws/OnlySamples.lean ====
section
/-! SUPPORT. What the operations of Machine/Samples.lean leave alone: one lemma for each. -/

namespace Sys2Proof.Machine

theorem State.modRot_only (s : State) (t : Nat) (f : RotTile → RotTile) : Only [.dig] [] s (State.modRot s t f) := by
  unfold State.modRot
  simp (disch := decide) only [Only.refl_iff, Only.set_dig]

theorem State.ringKeep_only (s : State) (c : Nat) (n : Int) (x : Lvl) : Only [.dig] [] s (State.ringKeep s c n x) := by
  unfold State.ringKeep
  simp (disch := decide) only [Only.refl_iff, Only.set_dig, Only.ite_iff, Only.iteFst_iff, implies_true, and_self]

theorem State.ringNote_only (s : State) (c : Nat) (n : Int) (x : List Lvl) : Only [.dig] [] s (State.ringNote s c n x) := by
  induction x generalizing s c n with
  | nil => exact Only.refl
  | cons a l ih =>
    unfold State.ringNote
    simp (disch := decide) only [Only.refl_iff, Only.step_iff (State.ringKeep_only _ _ _ _), Only.step_iff (ih _ _ _)]

theorem State.ringRead_only (s : State) (c : Nat) (n : Int) (l : List Lvl) : Only [.ev, .recd, .dig, .out] [0x02000104, 0x11000203, 0x11000204] s (State.ringRead s c n l) := by
  unfold State.ringRead
  simp (disch := first | decide | (intro _ _; simp (disch := decide) only [Only.refl_iff, Only.bump_iff, Only.each_iff, Only.step_iff (State.raise_only _ _), Only.step_iff (State.ringNote_only _ _ _ _)])) only [Only.refl_iff, Only.bump_iff, Only.each_iff, Only.step_iff (State.raise_only _ _), Only.step_iff (State.ringNote_only _ _ _ _)]

end Sys2Proof.Machine
end

