-- ==== Sys2Proof/Laws/OnlyDig.lean ====
section
/-! SUPPORT. What the operations of Machine/Dig.lean leave alone: one lemma for each. -/

namespace Sys2Proof.Machine

theorem execHkPassStart_only (t : Tm) (tile : Tile) {s u : State} (hp : s.pwr.por = false) (h : execHkPassStart t tile s = .next u) :
    Only [.dig] [0x02000107] (s.clock t) u := by
  obtain rfl := live_next hp h
  generalize s.clock t = v
  simp (disch := decide) only [Only.refl_iff, Only.bump_iff, Only.step_iff (State.modHk_only _ _ _), Only.ite_iff, Only.iteFst_iff, implies_true, and_self]

theorem execHkEntryStart_only (t : Tm) (tile : Tile) {s u : State} (hp : s.pwr.por = false) (h : execHkEntryStart t tile s = .next u) :
    Only [.afe, .dig] [0x02000107, 0x05000116] (s.clock t) u := by
  obtain rfl := live_next hp h
  generalize s.clock t = v
  repeat' first
    | simp (disch := decide) only [Only.refl_iff, Only.bump_iff, Only.step_iff (State.hkStart_only _ _ _ _ _ _ _), Only.step_iff (State.modHk_only _ _ _), Only.step_iff (State.rampTo_only _ _), Only.ite_iff, Only.iteFst_iff, implies_true, and_self]
    | split

theorem execHkUrgentRequest_only (t : Tm) (tile : Tile) (input : Fin 24) (avg : Fin 8) (shift : Fin 9) {s u : State} (hp : s.pwr.por = false) (h : execHkUrgentRequest t tile input avg shift s = .next u) :
    Only [.afe, .dig] [0x02000107, 0x05000116] (s.clock t) u := by
  obtain rfl := live_next hp h
  generalize s.clock t = v
  simp (disch := decide) only [Only.refl_iff, Only.step_iff (State.rampTo_only _ _), Only.step_iff (State.urgent_only _ _ _ _ _ _), Only.ite_iff, Only.iteFst_iff, implies_true, and_self]

theorem State.slowResult_only (s : State) (t : Nat) (c : Conv) (result floor : Nat) : Only [.ev, .recd, .afe, .loop, .out] [0x01000006, 0x01000008, 0x11000203, 0x11000204] s (State.slowResult s t c result floor) := by
  unfold State.slowResult
  simp (disch := decide) only [Only.refl_iff, Only.step_iff (State.modFe_only _ _ _), Only.step_iff (State.modFeCh_only _ _ _), Only.step_iff (State.modLp_only _ _ _), Only.put_iff, Only.putB_iff, Only.step_iff (State.raise_only _ _), Only.ite_iff, Only.iteFst_iff, implies_true, and_self]

theorem execHkConversionComplete_only (t : Tm) (tile : Tile) (sum : Nat) (sumQ : Nat) (ends : HkEnds) {s u : State} (hp : s.pwr.por = false) (h : execHkConversionComplete t tile sum sumQ ends s = .next u) :
    Only [.ev, .recd, .afe, .dig, .loop, .ctx, .out] [0x01000006, 0x01000008, 0x02000107, 0x02000180, 0x02000181, 0x02000182, 0x02000183, 0x02000184, 0x02000185, 0x02000186, 0x02000187, 0x02000188, 0x02000189, 0x0200018A, 0x0200018B, 0x0200018C, 0x0200018D, 0x0200018E, 0x0200018F, 0x02000190, 0x02000191, 0x02000192, 0x02000193, 0x02000194, 0x02000195, 0x02000196, 0x02000197, 0x05000116, 0x08000015, 0x08000203, 0x11000203, 0x11000204] (s.clock t) u := by
  obtain rfl := live_next hp h
  generalize s.clock t = v
  have h24 : ∀ w < 24, P.HK_RESULT_RESULT.pid + w ∈ ([0x01000006, 0x01000008, 0x02000107, 0x02000180, 0x02000181, 0x02000182, 0x02000183, 0x02000184, 0x02000185, 0x02000186, 0x02000187, 0x02000188, 0x02000189, 0x0200018A, 0x0200018B, 0x0200018C, 0x0200018D, 0x0200018E, 0x0200018F, 0x02000190, 0x02000191, 0x02000192, 0x02000193, 0x02000194, 0x02000195, 0x02000196, 0x02000197, 0x05000116, 0x08000015, 0x08000203, 0x11000203, 0x11000204] : List Nat) := by decide
  have hk : ∀ (s' u' : State) (x c : Nat), Only [.ev, .recd, .afe, .dig, .loop, .ctx, .out] [0x01000006, 0x01000008, 0x02000107, 0x02000180, 0x02000181, 0x02000182, 0x02000183, 0x02000184, 0x02000185, 0x02000186, 0x02000187, 0x02000188, 0x02000189, 0x0200018A, 0x0200018B, 0x0200018C, 0x0200018D, 0x0200018E, 0x0200018F, 0x02000190, 0x02000191, 0x02000192, 0x02000193, 0x02000194, 0x02000195, 0x02000196, 0x02000197, 0x05000116, 0x08000015, 0x08000203, 0x11000203, 0x11000204] s' (u'.put P.HK_RESULT_RESULT tile x (c % 24)) ↔ Only [.ev, .recd, .afe, .dig, .loop, .ctx, .out] [0x01000006, 0x01000008, 0x02000107, 0x02000180, 0x02000181, 0x02000182, 0x02000183, 0x02000184, 0x02000185, 0x02000186, 0x02000187, 0x02000188, 0x02000189, 0x0200018A, 0x0200018B, 0x0200018C, 0x0200018D, 0x0200018E, 0x0200018F, 0x02000190, 0x02000191, 0x02000192, 0x02000193, 0x02000194, 0x02000195, 0x02000196, 0x02000197, 0x05000116, 0x08000015, 0x08000203, 0x11000203, 0x11000204] s' u' :=
    fun s' u' x c => Only.put_iff ⟨by decide, by
      have := Nat.mod_lt c (show 0 < 24 by decide); have : P.HK_RESULT_RESULT.pid % 4096 = 384 := by decide
      omega⟩ (.inr (h24 _ (Nat.mod_lt c (by decide))))
  repeat' first
    | simp (disch := decide) only [hk, Only.refl_iff, Only.step_iff (State.hkNext_only _ _), Only.step_iff (State.modHk_only _ _ _), Only.step_iff (State.monEmit_only _ _), Only.put_iff, Only.step_iff (State.rampTo_only _ _), Only.step_iff (State.slowResult_only _ _ _ _ _), Only.ite_iff, Only.iteFst_iff, implies_true, and_self]
    | split

theorem State.rotBegin_only (s : State) (t : Nat) : Only [.dig, .core] [0x02000103, 0x0F000102] s (State.rotBegin s t) := by
  unfold State.rotBegin
  simp (disch := decide) only [Only.refl_iff, Only.set_core, Only.step_iff (State.maintBegin_only _ _ _ _), Only.step_iff (State.modRot_only _ _ _), Only.put_iff]

theorem execRotationStart_only (t : Tm) (tile : Tile) {s u : State} (hp : s.pwr.por = false) (h : execRotationStart t tile s = .next u) :
    Only [.ev, .recd, .dig, .core, .out] [0x02000103, 0x0F000102, 0x11000203, 0x11000204] (s.clock t) u := by
  obtain rfl := live_next hp h
  generalize s.clock t = v
  repeat' first
    | simp (disch := decide) only [Only.refl_iff, Only.step_iff (State.maintDefer_only _ _ _ _), Only.step_iff (State.maintRefuse_only _ _), Only.step_iff (State.rotBegin_only _ _), Only.ite_iff, Only.iteFst_iff, implies_true, and_self]
    | split

theorem State.rotStop_only (s : State) (t : Nat) (code : Nat) : Only [.ev, .recd, .core, .out] [0x02000001, 0x02000103, 0x0F000102, 0x0F000103, 0x11000203, 0x11000204] s (State.rotStop s t code) := by
  unfold State.rotStop
  simp (disch := decide) only [Only.refl_iff, Only.step_iff (State.log_only _ _ _ _), Only.step_iff (State.maintEnd_only _ _ _), Only.put_iff, Only.putB_iff, Only.step_iff (State.raise_only _ _), Only.ite_iff, Only.iteFst_iff, implies_true, and_self]

theorem execSliceMatchComplete_only (t : Tm) (tile : Tile) (mean : Int) (rms : Nat) {s u : State} (hp : s.pwr.por = false) (h : execSliceMatchComplete t tile mean rms s = .next u) :
    Only [.ev, .recd, .dig, .core, .out] [0x02000001, 0x02000002, 0x02000003, 0x02000103, 0x0F000102, 0x0F000103, 0x11000203, 0x11000204] (s.clock t) u := by
  obtain rfl := live_next hp h
  generalize s.clock t = v
  simp (disch := decide) only [Only.refl_iff, Only.bump_iff, Only.step_iff (State.log_only _ _ _ _), Only.step_iff (State.modRot_only _ _ _), Only.put_iff, Only.putB_iff, Only.step_iff (State.raise_only _ _), Only.step_iff (State.rotStop_only _ _ _), Only.ite_iff, Only.iteFst_iff, implies_true, and_self]

theorem State.sliceFit_only (s : State) (t slice : Nat) (offset gain lowOffset lowGain : Int) : Only [.dig] [0x02000002] s (State.sliceFit s t slice offset gain lowOffset lowGain) := by
  unfold State.sliceFit
  simp (disch := decide) only [Only.refl_iff, Only.step_iff (State.modRot_only _ _ _), Only.put_iff, Only.ite_iff, Only.iteFst_iff, implies_true, and_self]

theorem execSliceCalibrationComplete_only (t : Tm) (tile : Tile) (slice : Fin 17) (high low : SliceFit) (expected : Nat) (bins : BinCounts) {s u : State} (hp : s.pwr.por = false) (h : execSliceCalibrationComplete t tile slice high low expected bins s = .next u) :
    Only [.ev, .recd, .dig, .core, .out] [0x02000001, 0x02000002, 0x02000103, 0x0F000102, 0x0F000103, 0x11000203, 0x11000204] (s.clock t) u := by
  obtain rfl := live_next hp h
  generalize s.clock t = v
  simp (disch := decide) only [Only.refl_iff, Only.step_iff (State.modRot_only _ _ _), Only.put_iff, Only.step_iff (State.rotStop_only _ _ _), Only.step_iff (State.sliceFit_only _ _ _ _ _ _ _), Only.ite_iff, Only.iteFst_iff, implies_true, and_self]

theorem State.rotAdvance_only (s : State) (t k : Nat) : Only [.dig, .core] [0x02000103, 0x0F000102, 0x0F000103] s (State.rotAdvance s t k) := by
  unfold State.rotAdvance
  simp (disch := decide) only [Only.refl_iff, Only.step_iff (State.maintEnd_only _ _ _), Only.step_iff (State.modRot_only _ _ _), Only.put_iff, Only.ite_iff, Only.iteFst_iff, implies_true, and_self]

theorem State.rotBoundary_only (s : State) (t : Nat) : Only [.dig, .core] [0x02000001, 0x02000102, 0x02000103, 0x0F000102, 0x0F000103] s (State.rotBoundary s t) := by
  unfold State.rotBoundary
  repeat' first
    | simp (disch := decide) only [Only.refl_iff, Only.bump_iff, Only.step_iff (State.maintEnd_only _ _ _), Only.step_iff (State.modRot_only _ _ _), Only.put_iff, Only.putB_iff, Only.step_iff (State.rotAdvance_only _ _ _), Only.ite_iff, Only.iteFst_iff, implies_true, and_self]
    | split

theorem State.rotAbut_only (s : State) : Only [.dig] [] s (State.rotAbut s) := by
  unfold State.rotAbut
  simp (disch := first | decide | (intro _ _; simp (disch := decide) only [Only.refl_iff, Only.each_iff, Only.step_iff (State.modRot_only _ _ _)])) only [Only.refl_iff, Only.each_iff, Only.step_iff (State.modRot_only _ _ _)]

end Sys2Proof.Machine
end

