-- ==== Sys2Proof/Laws/OnlyInterp.lean ====
section
/-! SUPPORT. What the operations of Machine/Interp.lean leave alone: one lemma for each. -/

namespace Sys2Proof.Machine

theorem State.modPair_only (s : State) (u : Nat) (f : Pair → Pair) : Only [.tdc] [] s (State.modPair s u f) := by
  unfold State.modPair
  simp (disch := decide) only [Only.refl_iff, Only.set_tdc]

theorem State.pairEdge_only (s : State) (u code : Nat) : Only [.tdc] [] s (State.pairEdge s u code).1 := by
  unfold State.pairEdge
  simp (disch := decide) only [Only.refl_iff, Only.step_iff (State.modPair_only _ _ _)]

theorem State.pinEdge_only (s : State) (u code : Nat) : Only [.tdc] [] s (State.pinEdge s u code).1 := by
  unfold State.pinEdge
  simp (disch := decide) only [Only.refl_iff, Only.step_iff (State.pairEdge_only _ _ _)]

theorem State.transferAdopt_only (s : State) (u : Nat) : Only [.tdc] [0x03000004] s (State.transferAdopt s u) := by
  unfold State.transferAdopt
  simp (disch := decide) only [Only.refl_iff, Only.step_iff (State.modPair_only _ _ _), Only.putB_iff, Only.ite_iff, Only.iteFst_iff, implies_true, and_self]

theorem State.portAdopt_only (s : State) (port : Nat) : Only [.tdc] [0x03000004] s (State.portAdopt s port) := by
  unfold State.portAdopt
  simp (disch := decide) only [Only.refl_iff, Only.step_iff (State.transferAdopt_only _ _), Only.ite_iff, Only.iteFst_iff, implies_true, and_self]

end Sys2Proof.Machine
end

