-- ==== Sys2Proof/Laws/OnlyRecorder.lean ====
section
/-! SUPPORT. What the operations of Machine/Recorder.lean leave alone: one lemma for each. -/

namespace Sys2Proof.Machine

theorem State.budgetFill_only (s : State) : Only [.recd] [0x11000208] s (State.budgetFill s) := by
  unfold State.budgetFill
  simp (disch := decide) only [Only.refl_iff, Only.set_recd, Only.put_iff]

theorem State.budgetTake_only (s : State) (n : Nat) : Only [] [0x11000208] s (State.budgetTake s n) := by
  unfold State.budgetTake
  simp (disch := decide) only [Only.refl_iff, Only.put_iff]

theorem State.segOpen_only (s : State) : Only [.recd, .core] [0x0F000102, 0x0F000103, 0x11000207, 0x11000208] s (State.segOpen s) := by
  unfold State.segOpen
  repeat' first
    | simp (disch := decide) only [Only.refl_iff, Only.set_recd, Only.step_iff (State.budgetTake_only _ _), Only.bump_iff, Only.step_iff (State.maintBegin_only _ _ _ _), Only.step_iff (State.maintEnd_only _ _ _), Only.ite_iff, Only.iteFst_iff, implies_true, and_self]
    | split

theorem State.recOldest_only (s : State) : Only [] [0x11000205] s (State.recOldest s) := by
  unfold State.recOldest
  repeat' first
    | simp (disch := first | decide | (intro _ _; repeat' first | simp (disch := decide) only [Only.refl_iff, Only.put_iff, Only.foldl_iff] | split)) only [Only.refl_iff, Only.put_iff, Only.foldl_iff]
    | split

theorem State.logPlace_only (s : State) (r : LogRec) : Only [.recd, .core] [0x0F000102, 0x0F000103, 0x11000207, 0x11000208] s (State.logPlace s r) := by
  unfold State.logPlace
  simp (disch := decide) only [Only.refl_iff, Only.set_recd, Only.step_iff (State.segOpen_only _), Only.ite_iff, Only.iteFst_iff, implies_true, and_self]

theorem State.logWrite_only (s : State) (r : LogRec) : Only [.ev, .recd, .ctx, .core, .out] [0x08000015, 0x08000203, 0x0F000102, 0x0F000103, 0x11000203, 0x11000204, 0x11000205, 0x11000207, 0x11000208] s (State.logWrite s r) := by
  unfold State.logWrite
  simp (disch := decide) only [Only.refl_iff, Only.step_iff (State.budgetTake_only _ _), Only.step_iff (State.logPlace_only _ _), Only.step_iff (State.monEmit_only _ _), Only.step_iff (State.recOldest_only _)]

theorem execRecMramWriteComplete_only (t : Tm) {s u : State} (hp : s.pwr.por = false) (h : execRecMramWriteComplete t s = .next u) :
    Only [.ev, .recd, .ctx, .core, .out] [0x08000015, 0x08000203, 0x0F000102, 0x0F000103, 0x11000203, 0x11000204, 0x11000205, 0x11000207, 0x11000208] (s.clock t) u := by
  obtain rfl := live_next hp h
  generalize s.clock t = v
  repeat' first
    | simp (disch := decide) only [Only.refl_iff, Only.set_recd, Only.step_iff (State.budgetFill_only _), Only.step_iff (State.logWrite_only _ _), Only.ite_iff, Only.iteFst_iff, implies_true, and_self]
    | split

theorem execRecOccurrence_only (t : Tm) (pier : Pier) (code : BitVec 16) (severity : Fin 8) (detail : List Byte) {s u : State} (hp : s.pwr.por = false) (h : execRecOccurrence t pier code severity detail s = .next u) :
    Only [.ev, .recd, .core, .out] [0x11000203, 0x11000204] (s.clock t) u := by
  obtain rfl := live_next hp h
  generalize s.clock t = v
  simp (disch := decide) only [Only.refl_iff, Only.step_iff (State.deny_only _), Only.step_iff (State.occur_only _ _ _ _), Only.step_iff (State.recRaises_only _ _), Only.ite_iff, Only.iteFst_iff, implies_true, and_self]

theorem execRecRepeatExpire_only (t : Tm) {s u : State} (hp : s.pwr.por = false) (h : execRecRepeatExpire t s = .next u) :
    Only [.recd] [] (s.clock t) u := by
  obtain rfl := live_next hp h
  generalize s.clock t = v
  repeat' first
    | simp (disch := decide) only [Only.refl_iff, Only.set_recd, Only.ite_iff, Only.iteFst_iff, implies_true, and_self]
    | split

theorem execRecScan_only (t : Tm) {s u : State} (hp : s.pwr.por = false) (h : execRecScan t s = .next u) :
    Only [.recd] [0x11000205] (s.clock t) u := by
  obtain rfl := live_next hp h
  generalize s.clock t = v
  simp (disch := decide) only [Only.refl_iff, Only.set_recd, Only.step_iff (State.recOldest_only _)]

theorem State.recDrain_only (s : State) : Only [.ev, .recd, .ctx, .core, .out] [0x08000015, 0x08000203, 0x0F000102, 0x0F000103, 0x11000203, 0x11000204, 0x11000205, 0x11000207, 0x11000208] s (State.recDrain s) := by
  unfold State.recDrain
  simp (disch := first | decide | (intro _ _; simp (disch := decide) only [Only.refl_iff, Only.set_recd, Only.step_iff (State.logWrite_only _ _), Only.foldl_iff])) only [Only.refl_iff, Only.set_recd, Only.step_iff (State.logWrite_only _ _), Only.foldl_iff]

theorem State.recClear_only (s : State) (key : List Byte) : Only [.ev, .recd, .ctx, .core, .out] [0x08000015, 0x08000203, 0x0F000102, 0x0F000103, 0x11000203, 0x11000204, 0x11000205, 0x11000206, 0x11000207, 0x11000208] s (State.recClear s key).1 := by
  unfold State.recClear
  simp (disch := decide) only [Only.refl_iff, Only.set_recd, Only.step_iff (State.logWrite_only _ _), Only.put_iff, Only.step_iff (State.raise_only _ _), Only.step_iff (State.recDrain_only _), Only.step_iff (State.recOldest_only _)]

end Sys2Proof.Machine
end

