-- ==== Sys2Proof/Laws/OnlyTime.lean ====
section
/-! SUPPORT. What the operations of Machine/Time.lean leave alone: one lemma for each. -/

namespace Sys2Proof.Machine

theorem State.releaseClass_only (s : State) (cls : Nat) : Only [.time, .ev, .recd, .out] [0x11000203, 0x11000204] s (State.releaseClass s cls) := by
  unfold State.releaseClass
  simp (disch := decide) only [Only.refl_iff, Only.set_time, Only.step_iff (State.raise_only _ _), Only.ite_iff, Only.iteFst_iff, implies_true, and_self]

theorem State.release_only (s : State) (mask : Nat) : Only [.time, .ev, .recd, .out] [0x11000203, 0x11000204] s (State.release s mask) := by
  unfold State.release
  simp (disch := first | decide | (intro _ _; simp (disch := decide) only [Only.refl_iff, Only.each_iff, Only.step_iff (State.releaseClass_only _ _)])) only [Only.refl_iff, Only.each_iff, Only.step_iff (State.releaseClass_only _ _)]

theorem State.writeArmed_only (s : State) (armed : Nat) : Only [.time, .ev, .recd, .out] [0x0C00030C, 0x11000203, 0x11000204] s (State.writeArmed s armed) := by
  unfold State.writeArmed
  repeat' first
    | simp (disch := first | decide | (intro _ _; repeat' first | simp (disch := decide) only [Only.refl_iff, Only.set_time, Only.each_iff, Only.put_iff, Only.step_iff (State.releaseClass_only _ _), Only.ite_iff, Only.iteFst_iff, implies_true, and_self] | split)) only [Only.refl_iff, Only.set_time, Only.each_iff, Only.put_iff, Only.step_iff (State.releaseClass_only _ _), Only.ite_iff, Only.iteFst_iff, implies_true, and_self]
    | split

theorem execSwapCfgWrite_only (t : Tm) (armed : BitVec 8) {s u : State} (hp : s.pwr.por = false) (h : execSwapCfgWrite t armed s = .next u) :
    Only [.time, .ev, .recd, .core, .out] [0x0C00030C, 0x11000203, 0x11000204] (s.clock t) u := by
  obtain rfl := live_next hp h
  generalize s.clock t = v
  simp (disch := decide) only [Only.refl_iff, Only.step_iff (State.deny_only _), Only.step_iff (State.writeArmed_only _ _), Only.ite_iff, Only.iteFst_iff, implies_true, and_self]

theorem execSwapCutoff_only (t : Tm) {s u : State} (hp : s.pwr.por = false) (h : execSwapCutoff t s = .next u) :
    Only [.time] [] (s.clock t) u := by
  obtain rfl := live_next hp h
  generalize s.clock t = v
  repeat' first
    | simp (disch := decide) only [Only.refl_iff, Only.set_time, Only.ite_iff, Only.iteFst_iff, implies_true, and_self]
    | split

theorem State.timeState_only (s : State) (n : Nat) : Only [.ev, .recd, .out] [0x0C000306, 0x11000203, 0x11000204] s (State.timeState s n) := by
  unfold State.timeState
  simp (disch := decide) only [Only.refl_iff, Only.put_iff, Only.step_iff (State.raise_only _ _), Only.ite_iff, Only.iteFst_iff, implies_true, and_self]

theorem State.slew_only (s : State) (d : Int) : Only [.time] [0x0C000306] s (State.slew s d) := by
  unfold State.slew
  simp (disch := decide) only [Only.refl_iff, Only.set_time, Only.putB_iff, Only.ite_iff, Only.iteFst_iff, implies_true, and_self]

theorem State.jumpRefused_only (s : State) : Only [.ev, .recd, .out] [0x0C000306, 0x11000203, 0x11000204] s (State.jumpRefused s) := by
  unfold State.jumpRefused
  simp (disch := decide) only [Only.refl_iff, Only.putB_iff, Only.step_iff (State.raise_only _ _), Only.step_iff (State.timeState_only _ _)]

theorem State.servo_only (s : State) (theta : Int) (masterEpoch : Nat) : Only [.time, .ev, .recd, .out] [0x0C000306, 0x0C000307, 0x11000203, 0x11000204] s (State.servo s theta masterEpoch) := by
  unfold State.servo
  simp (disch := decide) only [Only.refl_iff, Only.set_time, Only.step_iff (State.jumpRefused_only _), Only.put_iff, Only.putB_iff, Only.step_iff (State.slew_only _ _), Only.step_iff (State.timeState_only _ _), Only.ite_iff, Only.iteFst_iff, implies_true, and_self]

theorem State.theta_only (s : State) (th : Int) (masterEpoch : Nat) : Only [.time, .ev, .recd, .out] [0x0C000306, 0x0C000307, 0x11000203, 0x11000204] s (State.theta s th masterEpoch) := by
  unfold State.theta
  simp (disch := decide) only [Only.refl_iff, Only.set_time, Only.step_iff (State.servo_only _ _ _), Only.ite_iff, Only.iteFst_iff, implies_true, and_self]

theorem State.adopt_only (s : State) (theta : Int) (masterEpoch : Nat) : Only [.time] [] s (State.adopt s theta masterEpoch) := by
  unfold State.adopt
  simp (disch := decide) only [Only.refl_iff, Only.set_time, Only.ite_iff, Only.iteFst_iff, implies_true, and_self]

theorem State.modPortTime_only (s : State) (p : Nat) (f : PortTime → PortTime) : Only [.time] [] s (State.modPortTime s p f) := by
  unfold State.modPortTime
  simp (disch := decide) only [Only.refl_iff, Only.set_time]

theorem State.timeTake_only (s : State) (port : Port) (msg : TimeMsg) : Only [.time, .tdc, .out] [] s (State.timeTake s port msg) := by
  unfold State.timeTake
  repeat' first
    | simp (disch := decide) only [Only.refl_iff, Only.step_iff (State.emit_only _ _), Only.step_iff (State.modPortTime_only _ _ _), Only.step_iff (State.pinEdge_only _ _ _), Only.ite_iff, Only.iteFst_iff, implies_true, and_self]
    | split

theorem execTimeMessage_only (t : Tm) (port : Port) (msg : TimeMsg) {s u : State} (hp : s.pwr.por = false) (h : execTimeMessage t port msg s = .next u) :
    Only [.time, .tdc, .out] [] (s.clock t) u := by
  obtain rfl := live_next hp h
  generalize s.clock t = v
  simp (disch := decide) only [Only.refl_iff, Only.step_iff (State.timeTake_only _ _ _), Only.ite_iff, Only.iteFst_iff, implies_true, and_self]

theorem execSyncInterval_only (t : Tm) (meas : SyncMeas) {s u : State} (hp : s.pwr.por = false) (h : execSyncInterval t meas s = .next u) :
    Only [.time, .tdc, .out] [0x03000004] (s.clock t) u := by
  obtain rfl := live_next hp h
  generalize s.clock t = v
  repeat' first
    | simp (disch := decide) only [Only.refl_iff, Only.step_iff (State.emit_only _ _), Only.step_iff (State.modPortTime_only _ _ _), Only.step_iff (State.pinEdge_only _ _ _), Only.step_iff (State.portAdopt_only _ _), Only.ite_iff, Only.iteFst_iff, implies_true, and_self]
    | split

theorem State.mastered_only (s : State) : Only [.time] [] s (State.mastered s) := by
  unfold State.mastered
  simp (disch := decide) only [Only.refl_iff, Only.set_time]

theorem execSyncExchangeComplete_only (t : Tm) (port : Port) (ownPhase : Nat) {s u : State} (hp : s.pwr.por = false) (h : execSyncExchangeComplete t port ownPhase s = .next u) :
    Only [.time, .ev, .recd, .out] [0x0C000003, 0x0C000306, 0x0C000307, 0x11000203, 0x11000204] (s.clock t) u := by
  obtain rfl := live_next hp h
  generalize s.clock t = v
  repeat' first
    | simp (disch := decide) only [Only.refl_iff, Only.step_iff (State.adopt_only _ _ _), Only.bump_iff, Only.step_iff (State.jumpRefused_only _), Only.step_iff (State.mastered_only _), Only.step_iff (State.modPortTime_only _ _ _), Only.put_iff, Only.step_iff (State.theta_only _ _ _), Only.ite_iff, Only.iteFst_iff, implies_true, and_self]
    | split

theorem execSlewComplete_only (t : Tm) {s u : State} (hp : s.pwr.por = false) (h : execSlewComplete t s = .next u) :
    Only [.time] [0x0C000306] (s.clock t) u := by
  obtain rfl := live_next hp h
  generalize s.clock t = v
  simp (disch := decide) only [Only.refl_iff, Only.step_iff (State.slew_only _ _), Only.ite_iff, Only.iteFst_iff, implies_true, and_self]

theorem execHoldoverEnter_only (t : Tm) {s u : State} (hp : s.pwr.por = false) (h : execHoldoverEnter t s = .next u) :
    Only [.time, .ev, .recd, .out] [0x0C000306, 0x11000203, 0x11000204] (s.clock t) u := by
  obtain rfl := live_next hp h
  generalize s.clock t = v
  simp (disch := decide) only [Only.refl_iff, Only.step_iff (State.mastered_only _), Only.step_iff (State.raise_only _ _), Only.step_iff (State.timeState_only _ _), Only.ite_iff, Only.iteFst_iff, implies_true, and_self]

theorem execPpsInEdge_only (t : Tm) (edge : PinEdge) {s u : State} (hp : s.pwr.por = false) (h : execPpsInEdge t edge s = .next u) :
    Only [.time, .ev, .recd, .tdc, .out] [0x0C000306, 0x0C000307, 0x11000203, 0x11000204] (s.clock t) u := by
  obtain rfl := live_next hp h
  generalize s.clock t = v
  repeat' first
    | simp (disch := decide) only [Only.refl_iff, Only.set_time, Only.step_iff (State.pinEdge_only _ _ _), Only.step_iff (State.theta_only _ _ _), Only.ite_iff, Only.iteFst_iff, implies_true, and_self]
    | split

theorem execPpsInMissing_only (t : Tm) {s u : State} (hp : s.pwr.por = false) (h : execPpsInMissing t s = .next u) :
    Only [.ev, .recd, .out] [0x0C000306, 0x11000203, 0x11000204] (s.clock t) u := by
  obtain rfl := live_next hp h
  generalize s.clock t = v
  simp (disch := decide) only [Only.refl_iff, Only.step_iff (State.raise_only _ _), Only.step_iff (State.timeState_only _ _), Only.ite_iff, Only.iteFst_iff, implies_true, and_self]

theorem State.dropSteps_only (s : State) : Only [.time, .ev, .recd, .out] [0x0C000306, 0x11000203, 0x11000204] s (State.dropSteps s) := by
  unfold State.dropSteps
  simp (disch := first | decide | (intro _ _; simp (disch := decide) only [Only.refl_iff, Only.set_time, Only.each_iff, Only.putB_iff, Only.step_iff (State.raise_only _ _), Only.ite_iff, Only.iteFst_iff, implies_true, and_self])) only [Only.refl_iff, Only.set_time, Only.each_iff, Only.putB_iff, Only.step_iff (State.raise_only _ _), Only.ite_iff, Only.iteFst_iff, implies_true, and_self]

theorem execDistributedStep_only (t : Tm) (epoch : Nat) (b : Tm) (toTarget : Bool) (val : Int) {s u : State} (hp : s.pwr.por = false) (h : execDistributedStep t epoch b toTarget val s = .next u) :
    Only [.time, .ev, .recd, .out] [0x0C000306, 0x11000203, 0x11000204] (s.clock t) u := by
  obtain rfl := live_next hp h
  generalize s.clock t = v
  simp (disch := decide) only [Only.refl_iff, Only.set_time, Only.step_iff (State.dropSteps_only _), Only.ite_iff, Only.iteFst_iff, implies_true, and_self]

theorem State.modAct_only (s : State) (i : Nat) (f : ActSt → ActSt) : Only [.time] [] s (State.modAct s i f) := by
  unfold State.modAct
  simp (disch := decide) only [Only.refl_iff, Only.set_time]

theorem State.runLate_only (s : State) (i : Nat) (due b : Tm) : Only [.time, .ev, .recd, .core, .out] [0x0C000205, 0x0C00030E, 0x11000203, 0x11000204] s (State.runLate s i due b) := by
  unfold State.runLate
  simp (disch := decide) only [Only.refl_iff, Only.bump_iff, Only.step_iff (State.log_only _ _ _ _), Only.step_iff (State.modAct_only _ _ _), Only.put_iff, Only.putB_iff, Only.step_iff (State.raise_only _ _)]

theorem State.armEntry_only (s : State) (i value : Nat) : Only [.time, .ev, .recd, .core, .out] [0x0C000202, 0x0C000205, 0x0C00030E, 0x11000203, 0x11000204] s (State.armEntry s i value).1 := by
  unfold State.armEntry
  simp (disch := decide) only [Only.refl_iff, Only.step_iff (State.modAct_only _ _ _), Only.put_iff, Only.putB_iff, Only.putWord_iff, Only.step_iff (State.runLate_only _ _ _ _), Only.ite_iff, Only.iteFst_iff, implies_true, and_self]

theorem execActCfgArm_only (t : Tm) (entry : Fin 64) (value : BitVec 32) {s u : State} (hp : s.pwr.por = false) (h : execActCfgArm t entry value s = .next u) :
    Only [.time, .ev, .recd, .core, .out] [0x0C000202, 0x0C000205, 0x0C00030E, 0x11000203, 0x11000204] (s.clock t) u := by
  obtain rfl := live_next hp h
  generalize s.clock t = v
  simp (disch := decide) only [Only.refl_iff, Only.step_iff (State.armEntry_only _ _ _), Only.step_iff (State.deny_only _), Only.ite_iff, Only.iteFst_iff, implies_true, and_self]

theorem State.actDone_only (s : State) (i : Nat) (due : Tm) (late : Bool) : Only [.time] [0x0C000202, 0x0C000205] s (State.actDone s i due late) := by
  unfold State.actDone
  simp (disch := decide) only [Only.refl_iff, Only.step_iff (State.modAct_only _ _ _), Only.put_iff, Only.ite_iff, Only.iteFst_iff, implies_true, and_self]

theorem State.actBlank_only (s : State) (i : Nat) (due : Tm) (tiles : Nat) : Only [.afe, .dig] [0x01000008, 0x05000116] s (State.actBlank s i due tiles) := by
  unfold State.actBlank
  simp (disch := first | decide | (intro _ _; simp (disch := decide) only [Only.refl_iff, Only.step_iff (State.blankEval_only _ _), Only.each_iff, Only.step_iff (State.modFe_only _ _ _), Only.ite_iff, Only.iteFst_iff, implies_true, and_self])) only [Only.refl_iff, Only.step_iff (State.blankEval_only _ _), Only.each_iff, Only.step_iff (State.modFe_only _ _ _), Only.ite_iff, Only.iteFst_iff, implies_true, and_self]

theorem State.act_only {ps : List Part} {rs : List Nat} {s : State} (i kind tiles : Nat) {f : State → Tm → State}
    (hf : ∀ v d, Only ps rs v (f v d)) (hp : sub [.time, .afe, .dig] ps = true)
    (hr : subR ps [0x01000008, 0x05000116, 0x0C000202, 0x0C000205, 0x0C00030E] rs = true) : Only ps rs s (State.act s i kind tiles f) := by
  unfold State.act
  split
  · exact Only.refl
  · rename_i due late _
    refine Only.trans ?_ ((State.actDone_only _ i due late).mono (sub_trans (by decide) hp) (subR_trans (by decide) hr))
    split
    · exact ((Only.bump_iff (ps := []) (rs := [0x0C00030E]) (by decide) (by decide)).2 Only.refl).mono
        (sub_trans (by decide) hp) (subR_trans (by decide) hr)
    · exact (hf s due).trans ((State.actBlank_only _ _ _ _).mono (sub_trans (by decide) hp) (subR_trans (by decide) hr))

theorem State.act_iff {ps : List Part} {rs : List Nat} {s u : State} {i kind tiles : Nat} {f : State → Tm → State}
    (hf : ∀ v d, Only ps rs v (f v d)) (hp : sub [.time, .afe, .dig] ps = true)
    (hr : subR ps [0x01000008, 0x05000116, 0x0C000202, 0x0C000205, 0x0C00030E] rs = true) : Only ps rs s (u.act i kind tiles f) ↔ Only ps rs s u :=
  have k : Only ps rs u (u.act i kind tiles f) := State.act_only i kind tiles hf hp hr
  ⟨fun h => h.trans k.symm, fun h => h.trans k⟩

theorem State.pulserBlank_only (s : State) (tiles : Nat) (due : Tm) : Only [.afe, .dig] [0x01000008, 0x05000116] s (State.pulserBlank s tiles due) := by
  unfold State.pulserBlank
  simp (disch := first | decide | (intro _ _; simp (disch := decide) only [Only.refl_iff, Only.step_iff (State.blankEval_only _ _), Only.each_iff, Only.step_iff (State.modFe_only _ _ _), Only.ite_iff, Only.iteFst_iff, implies_true, and_self])) only [Only.refl_iff, Only.step_iff (State.blankEval_only _ _), Only.each_iff, Only.step_iff (State.modFe_only _ _ _), Only.ite_iff, Only.iteFst_iff, implies_true, and_self]

theorem execActionPulser_only (t : Tm) (entry : Fin 64) {s u : State} (hp : s.pwr.por = false) (h : execActionPulser t entry s = .next u) :
    Only [.time, .afe, .dig, .out] [0x01000008, 0x05000116, 0x0C000202, 0x0C000205, 0x0C00030E] (s.clock t) u := by
  obtain rfl := live_next hp h
  generalize s.clock t = v
  simp (disch := first | decide | (intro _ _; simp (disch := decide) only [Only.refl_iff, State.act_iff, Only.step_iff (State.emit_only _ _), Only.step_iff (State.pulserBlank_only _ _ _)])) only [Only.refl_iff, State.act_iff, Only.step_iff (State.emit_only _ _), Only.step_iff (State.pulserBlank_only _ _ _)]

theorem State.modTout_only (s : State) (x : Nat) (f : ToutSt → ToutSt) : Only [.time] [] s (State.modTout s x f) := by
  unfold State.modTout
  simp (disch := decide) only [Only.refl_iff, Only.set_time]

theorem State.toutPulse_only (s : State) (x : Fin 8) (due : Tm) (width : Nat) : Only [.time, .out] [0x0C000106] s (State.toutPulse s x due width) := by
  unfold State.toutPulse
  simp (disch := decide) only [Only.refl_iff, Only.bump_iff, Only.step_iff (State.drive_only _ _ _), Only.step_iff (State.modTout_only _ _ _), Only.ite_iff, Only.iteFst_iff, implies_true, and_self]

theorem execActionToutPulse_only (t : Tm) (entry : Fin 64) {s u : State} (hp : s.pwr.por = false) (h : execActionToutPulse t entry s = .next u) :
    Only [.time, .afe, .dig, .out] [0x01000008, 0x05000116, 0x0C000106, 0x0C000202, 0x0C000205, 0x0C00030E] (s.clock t) u := by
  obtain rfl := live_next hp h
  generalize s.clock t = v
  simp (disch := first | decide | (intro _ _; simp (disch := decide) only [Only.refl_iff, State.act_iff, Only.step_iff (State.toutPulse_only _ _ _ _), Only.ite_iff, Only.iteFst_iff, implies_true, and_self])) only [Only.refl_iff, State.act_iff, Only.step_iff (State.toutPulse_only _ _ _ _), Only.ite_iff, Only.iteFst_iff, implies_true, and_self]

theorem execActionSwapRelease_only (t : Tm) (entry : Fin 64) {s u : State} (hp : s.pwr.por = false) (h : execActionSwapRelease t entry s = .next u) :
    Only [.time, .ev, .recd, .afe, .dig, .out] [0x01000008, 0x05000116, 0x0C000202, 0x0C000205, 0x0C00030E, 0x11000203, 0x11000204] (s.clock t) u := by
  obtain rfl := live_next hp h
  generalize s.clock t = v
  simp (disch := first | decide | (intro _ _; simp (disch := decide) only [Only.refl_iff, State.act_iff, Only.step_iff (State.release_only _ _)])) only [Only.refl_iff, State.act_iff, Only.step_iff (State.release_only _ _)]

theorem execActionFirmware_only (t : Tm) (entry : Fin 64) {s u : State} (hp : s.pwr.por = false) (h : execActionFirmware t entry s = .next u) :
    Only [.time, .ev, .recd, .afe, .dig, .out] [0x01000008, 0x05000116, 0x0C000202, 0x0C000205, 0x0C00030E, 0x11000203, 0x11000204] (s.clock t) u := by
  obtain rfl := live_next hp h
  generalize s.clock t = v
  simp (disch := first | decide | (intro _ _; simp (disch := decide) only [Only.refl_iff, State.act_iff, Only.step_iff (State.raise_only _ _)])) only [Only.refl_iff, State.act_iff, Only.step_iff (State.raise_only _ _)]

theorem State.toutProgram_only (s : State) (x : Fin 8) (b : Tm) : Only [.time, .ev, .recd, .out] [0x0C000106, 0x11000203, 0x11000204] s (State.toutProgram s x b) := by
  unfold State.toutProgram
  repeat' first
    | simp (disch := decide) only [Only.refl_iff, Only.step_iff (State.modTout_only _ _ _), Only.putB_iff, Only.step_iff (State.raise_only _ _), Only.ite_iff, Only.iteFst_iff, implies_true, and_self]
    | split

theorem execToutPulse_only (t : Tm) (x : Fin 8) {s u : State} (hp : s.pwr.por = false) (h : execToutPulse t x s = .next u) :
    Only [.time, .out] [0x0C000106] (s.clock t) u := by
  obtain rfl := live_next hp h
  generalize s.clock t = v
  repeat' first
    | simp (disch := decide) only [Only.refl_iff, Only.step_iff (State.modTout_only _ _ _), Only.step_iff (State.toutPulse_only _ _ _ _), Only.ite_iff, Only.iteFst_iff, implies_true, and_self]
    | split

theorem execToutPulseEnd_only (t : Tm) (x : Fin 8) {s u : State} (hp : s.pwr.por = false) (h : execToutPulseEnd t x s = .next u) :
    Only [.time, .out] [] (s.clock t) u := by
  obtain rfl := live_next hp h
  generalize s.clock t = v
  simp (disch := decide) only [Only.refl_iff, Only.step_iff (State.drive_only _ _ _), Only.step_iff (State.modTout_only _ _ _), Only.ite_iff, Only.iteFst_iff, implies_true, and_self]

theorem execPpsOutEdge_only (t : Tm) {s u : State} (hp : s.pwr.por = false) (h : execPpsOutEdge t s = .next u) :
    Only [.time, .out] [] (s.clock t) u := by
  obtain rfl := live_next hp h
  generalize s.clock t = v
  simp (disch := decide) only [Only.refl_iff, Only.set_time, Only.step_iff (State.drive_only _ _ _), Only.ite_iff, Only.iteFst_iff, implies_true, and_self]

theorem execPpsOutFall_only (t : Tm) {s u : State} (hp : s.pwr.por = false) (h : execPpsOutFall t s = .next u) :
    Only [.time, .out] [] (s.clock t) u := by
  obtain rfl := live_next hp h
  generalize s.clock t = v
  simp (disch := decide) only [Only.refl_iff, Only.set_time, Only.step_iff (State.drive_only _ _ _), Only.ite_iff, Only.iteFst_iff, implies_true, and_self]

theorem State.actPassed_only (s : State) (i : Nat) (new : Tm) : Only [.time, .ev, .recd, .core, .out] [0x0C000202, 0x0C000205, 0x0C00030E, 0x11000203, 0x11000204] s (State.actPassed s i new) := by
  unfold State.actPassed
  simp (disch := decide) only [Only.refl_iff, Only.bump_iff, Only.step_iff (State.modAct_only _ _ _), Only.put_iff, Only.step_iff (State.raise_only _ _), Only.step_iff (State.runLate_only _ _ _ _), Only.ite_iff, Only.iteFst_iff, implies_true, and_self]

theorem State.redue_only (s : State) : Only [.time, .pwr] [] s (State.redue s) := by
  unfold State.redue
  simp (disch := decide) only [Only.refl_iff, Only.set_time_pwr, Only.ite_iff, Only.iteFst_iff, implies_true, and_self]

theorem State.stepSet_only (s : State) (p : PendStep) (b : Tm) : Only [.time, .ev, .recd, .out] [0x11000203, 0x11000204] s (State.stepSet s p b) := by
  unfold State.stepSet
  simp (disch := decide) only [Only.refl_iff, Only.set_time, Only.step_iff (State.raise_only _ _), Only.ite_iff, Only.iteFst_iff, implies_true, and_self]

theorem State.stepActs_only (s : State) (p : PendStep) (b : Tm) (oldEpoch : Nat) : Only [.time, .ev, .recd, .core, .pwr, .out] [0x0C000106, 0x0C000202, 0x0C000205, 0x0C000306, 0x0C00030A, 0x0C00030E, 0x11000203, 0x11000204] s (State.stepActs s p b oldEpoch) := by
  unfold State.stepActs
  simp (disch := first | decide | (intro _ _; simp (disch := decide) only [Only.refl_iff, Only.step_iff (State.actPassed_only _ _ _), Only.step_iff (State.adopt_only _ _ _), Only.bump_iff, Only.step_iff (State.dropSteps_only _), Only.each_iff, Only.put_iff, Only.putB_iff, Only.step_iff (State.raise_only _ _), Only.step_iff (State.redue_only _), Only.step_iff (State.slew_only _ _), Only.step_iff (State.timeState_only _ _), Only.step_iff (State.toutProgram_only _ _ _), Only.dite_iff, implies_true, forall_const, Only.ite_iff, Only.iteFst_iff, and_self])) only [Only.refl_iff, Only.step_iff (State.actPassed_only _ _ _), Only.step_iff (State.adopt_only _ _ _), Only.bump_iff, Only.step_iff (State.dropSteps_only _), Only.each_iff, Only.put_iff, Only.putB_iff, Only.step_iff (State.raise_only _ _), Only.step_iff (State.redue_only _), Only.step_iff (State.slew_only _ _), Only.step_iff (State.timeState_only _ _), Only.step_iff (State.toutProgram_only _ _ _), Only.dite_iff, implies_true, forall_const, Only.ite_iff, Only.iteFst_iff, and_self]

end Sys2Proof.Machine
end

