-- ==== Sys2Proof/Laws/OnlyTdc.lean ====
section
/-! SUPPORT. What the operations of Machine/Tdc.lean leave alone: one lemma for each. -/

namespace Sys2Proof.Machine

theorem State.modTd_only (s : State) (c : Nat) (f : TdcCh → TdcCh) : Only [.tdc] [] s (State.modTd s c f) := by
  unfold State.modTd
  simp (disch := decide) only [Only.refl_iff, Only.set_tdc]

theorem State.modGauge_only (s : State) (g : Nat) (f : Gauge → Gauge) : Only [.tdc] [] s (State.modGauge s g f) := by
  unfold State.modGauge
  simp (disch := decide) only [Only.refl_iff, Only.set_tdc]

theorem State.blockOpen_only (s : State) (c : Nat) (start : Stamp) (stop head : Tm) (cont deck : Bool) : Only [.tdc, .ctx] [] s (State.blockOpen s c start stop head cont deck) := by
  unfold State.blockOpen
  simp (disch := decide) only [Only.refl_iff, Only.step_iff (State.modTd_only _ _ _), Only.step_iff (State.takeSeq_only _ _), Only.ite_iff, Only.iteFst_iff, implies_true, and_self]

theorem State.blocksOpen_only (s : State) (at_ : Stamp) : Only [.tdc, .ctx] [] s (State.blocksOpen s at_) := by
  unfold State.blocksOpen
  simp (disch := first | decide | (intro _ _; simp (disch := decide) only [Only.refl_iff, Only.set_tdc, Only.step_iff (State.blockOpen_only _ _ _ _ _ _ _), Only.each_iff])) only [Only.refl_iff, Only.set_tdc, Only.step_iff (State.blockOpen_only _ _ _ _ _ _ _), Only.each_iff]

theorem execBlockIntervalStart_only (t : Tm) {s u : State} (hp : s.pwr.por = false) (h : execBlockIntervalStart t s = .next u) :
    Only [.tdc, .ctx] [] (s.clock t) u := by
  obtain rfl := live_next hp h
  generalize s.clock t = v
  simp (disch := decide) only [Only.refl_iff, Only.step_iff (State.blocksOpen_only _ _), Only.ite_iff, Only.iteFst_iff, implies_true, and_self]

theorem State.blockEmit_only (s : State) (c : Nat) (b : Blk) : Only [.deck] [] s (State.blockEmit s c b) := by
  unfold State.blockEmit
  simp (disch := decide) only [Only.refl_iff, Only.set_deck, Only.ite_iff, Only.iteFst_iff, implies_true, and_self]

theorem execHitBlockEmit_only (t : Tm) (ch : Ch) {s u : State} (hp : s.pwr.por = false) (h : execHitBlockEmit t ch s = .next u) :
    Only [.tdc, .deck] [] (s.clock t) u := by
  obtain rfl := live_next hp h
  generalize s.clock t = v
  repeat' first
    | simp (disch := decide) only [Only.refl_iff, Only.step_iff (State.blockEmit_only _ _ _), Only.step_iff (State.modTd_only _ _ _), Only.ite_iff, Only.iteFst_iff, implies_true, and_self]
    | split

theorem State.blockFor_only (s : State) (c : Nat) (at_ : Stamp) : Only [.tdc, .ctx] [] s (State.blockFor s c at_).1 := by
  unfold State.blockFor
  repeat' first
    | simp (disch := decide) only [Only.refl_iff, Only.step_iff (State.blockOpen_only _ _ _ _ _ _ _), Only.step_iff (State.modTd_only _ _ _), Only.ite_iff, Only.iteFst_iff, implies_true, and_self]
    | split

theorem State.epochCut_only (s : State) (at_ new : Stamp) : Only [.tdc, .ctx] [] s (State.epochCut s at_ new) := by
  unfold State.epochCut
  simp (disch := first | decide | (intro _ _; simp (disch := decide) only [Only.refl_iff, Only.step_iff (State.blocksOpen_only _ _), Only.each_iff, Only.step_iff (State.modTd_only _ _ _), Only.ite_iff, Only.iteFst_iff, implies_true, and_self])) only [Only.refl_iff, Only.step_iff (State.blocksOpen_only _ _), Only.each_iff, Only.step_iff (State.modTd_only _ _ _), Only.ite_iff, Only.iteFst_iff, implies_true, and_self]

theorem State.blocksStep_only (s : State) (at_ new : Stamp) : Only [.tdc] [] s (State.blocksStep s at_ new) := by
  unfold State.blocksStep
  simp (disch := first | decide | (intro _ _; simp (disch := decide) only [Only.refl_iff, Only.each_iff, Only.step_iff (State.modTd_only _ _ _), Only.ite_iff, Only.iteFst_iff, implies_true, and_self])) only [Only.refl_iff, Only.each_iff, Only.step_iff (State.modTd_only _ _ _), Only.ite_iff, Only.iteFst_iff, implies_true, and_self]

theorem State.hitCount_only (s : State) (c : Nat) : Only [.dig] [] s (State.hitCount s c) := by
  unfold State.hitCount
  repeat' first
    | simp (disch := decide) only [Only.refl_iff, Only.step_iff (State.modHk_only _ _ _), Only.ite_iff, Only.iteFst_iff, implies_true, and_self]
    | split

theorem State.hitNew_only (s : State) (c : Nat) (stamp : Option Tm) : Only [.dig, .tdc, .ctx] [0x03000003] s (State.hitNew s c stamp) := by
  unfold State.hitNew
  simp (disch := first | decide | (intro _ _; simp (disch := decide) only [Only.refl_iff, Only.step_iff (State.blockFor_only _ _ _), Only.bump_iff, Only.each_iff, Only.step_iff (State.hitCount_only _ _), Only.step_iff (State.modGauge_only _ _ _), Only.step_iff (State.modTd_only _ _ _), Only.ite_iff, Only.iteFst_iff, implies_true, and_self])) only [Only.refl_iff, Only.step_iff (State.blockFor_only _ _ _), Only.bump_iff, Only.each_iff, Only.step_iff (State.hitCount_only _ _), Only.step_iff (State.modGauge_only _ _ _), Only.step_iff (State.modTd_only _ _ _), Only.ite_iff, Only.iteFst_iff, implies_true, and_self]

theorem execLeadingEdge_only (t : Tm) (edge : ChEdge) {s u : State} (hp : s.pwr.por = false) (h : execLeadingEdge t edge s = .next u) :
    Only [.afe, .dig, .tdc, .ctx] [0x03000003] (s.clock t) u := by
  obtain rfl := live_next hp h
  generalize s.clock t = v
  repeat' first
    | simp (disch := decide) only [Only.refl_iff, Only.bump_iff, Only.step_iff (State.hitNew_only _ _ _), Only.step_iff (State.modFeCh_only _ _ _), Only.step_iff (State.modPair_only _ _ _), Only.step_iff (State.modTd_only _ _ _), Only.step_iff (State.pairEdge_only _ _ _), Only.ite_iff, Only.iteFst_iff, implies_true, and_self]
    | split

theorem State.thrApply_only (s : State) (c : Nat) : Only [.afe] [] s (State.thrApply s c) := by
  unfold State.thrApply
  simp (disch := decide) only [Only.refl_iff, Only.step_iff (State.modFeCh_only _ _ _)]

theorem execTrailingEdge_only (t : Tm) (ch : Ch) {s u : State} (hp : s.pwr.por = false) (h : execTrailingEdge t ch s = .next u) :
    Only [.afe, .tdc] [] (s.clock t) u := by
  obtain rfl := live_next hp h
  generalize s.clock t = v
  simp (disch := decide) only [Only.refl_iff, Only.step_iff (State.modFeCh_only _ _ _), Only.step_iff (State.modTd_only _ _ _), Only.step_iff (State.thrApply_only _ _)]

theorem execTotSaturate_only (t : Tm) (ch : Ch) {s u : State} (hp : s.pwr.por = false) (h : execTotSaturate t ch s = .next u) :
    Only [.afe, .tdc] [] (s.clock t) u := by
  obtain rfl := live_next hp h
  generalize s.clock t = v
  repeat' first
    | simp (disch := decide) only [Only.refl_iff, Only.step_iff (State.modTd_only _ _ _), Only.step_iff (State.thrApply_only _ _), Only.ite_iff, Only.iteFst_iff, implies_true, and_self]
    | split

theorem execInterpolatorFree_only (t : Tm) (unit : Fin 271) (ip : Fin 2) {s u : State} (hp : s.pwr.por = false) (h : execInterpolatorFree t unit ip s = .next u) :
    Only [.tdc] [] (s.clock t) u := by
  obtain rfl := live_next hp h
  generalize s.clock t = v
  simp (disch := decide) only [Only.refl_iff, Only.step_iff (State.modPair_only _ _ _)]

theorem State.snipWant_only (s : State) (c : Nat) (h : HitSt) (b : BHit) : Only [.deck] [] s (State.snipWant s c h b) := by
  unfold State.snipWant
  simp (disch := decide) only [Only.refl_iff, Only.set_deck, Only.ite_iff, Only.iteFst_iff, implies_true, and_self]

theorem State.blockFull_only (s : State) (c : Nat) (h : HitSt) : Only [.tdc, .deck] [] s (State.blockFull s c h) := by
  unfold State.blockFull
  repeat' first
    | simp (disch := decide) only [Only.refl_iff, Only.step_iff (State.blockEmit_only _ _ _), Only.step_iff (State.modTd_only _ _ _), Only.ite_iff, Only.iteFst_iff, implies_true, and_self]
    | split

theorem execHitComplete_only (t : Tm) (ch : Ch) (window : List Lvl) {s u : State} (hp : s.pwr.por = false) (h : execHitComplete t ch window s = .next u) :
    Only [.dig, .tdc, .deck] [] (s.clock t) u := by
  obtain rfl := live_next hp h
  generalize s.clock t = v
  repeat' first
    | simp (disch := decide) only [Only.refl_iff, Only.step_iff (State.blockFull_only _ _ _), Only.step_iff (State.modTd_only _ _ _), Only.step_iff (State.ringNote_only _ _ _ _), Only.step_iff (State.snipWant_only _ _ _ _), Only.ite_iff, Only.iteFst_iff, implies_true, and_self]
    | split

theorem State.visitBegin_only (s : State) (u : Nat) (byHost : Bool) : Only [.tdc, .mbox, .core] [0x0F000102] s (State.visitBegin s u byHost) := by
  unfold State.visitBegin
  simp (disch := first | decide | (intro _ _; simp (disch := decide) only [Only.refl_iff, Only.set_tdc_mbox, Only.each_iff, Only.step_iff (State.maintBegin_only _ _ _ _), Only.step_iff (State.modPair_only _ _ _)])) only [Only.refl_iff, Only.set_tdc_mbox, Only.each_iff, Only.step_iff (State.maintBegin_only _ _ _ _), Only.step_iff (State.modPair_only _ _ _)]

theorem execTdcCalVisitStart_only (t : Tm) (unit : Fin 268) {s u : State} (hp : s.pwr.por = false) (h : execTdcCalVisitStart t unit s = .next u) :
    Only [.ev, .recd, .tdc, .mbox, .core, .out] [0x0F000102, 0x11000203, 0x11000204] (s.clock t) u := by
  obtain rfl := live_next hp h
  generalize s.clock t = v
  repeat' first
    | simp (disch := decide) only [Only.refl_iff, Only.step_iff (State.maintDefer_only _ _ _ _), Only.step_iff (State.maintRefuse_only _ _), Only.step_iff (State.visitBegin_only _ _ _), Only.ite_iff, Only.iteFst_iff, implies_true, and_self]
    | split

theorem State.pairCollect_only (s : State) (u : Nat) : Only [.tdc] [] s (State.pairCollect s u) := by
  unfold State.pairCollect
  simp (disch := decide) only [Only.refl_iff, Only.step_iff (State.modPair_only _ _ _)]

theorem State.pairCount_only (s : State) (u : Nat) (a b : List (BitVec 12)) : Only [.tdc] [] s (State.pairCount s u a b) := by
  unfold State.pairCount
  simp (disch := decide) only [Only.refl_iff, Only.step_iff (State.modPair_only _ _ _)]

theorem State.visitCount_only (s : State) (u : Nat) (a b : List (BitVec 12)) (pair : List (BitVec 12 × BitVec 12)) : Only [.tdc] [] s (State.visitCount s u a b pair) := by
  unfold State.visitCount
  repeat' first
    | simp (disch := first | decide | (intro _ _; repeat' first | simp (disch := decide) only [Only.refl_iff, Only.each_iff, Only.step_iff (State.pairCount_only _ _ _ _), Only.ite_iff, Only.iteFst_iff, implies_true, and_self] | split)) only [Only.refl_iff, Only.each_iff, Only.step_iff (State.pairCount_only _ _ _ _), Only.ite_iff, Only.iteFst_iff, implies_true, and_self]
    | split

theorem State.visitMade_only (s : State) (u : Nat) (a b : List (BitVec 12)) (pair : List (BitVec 12 × BitVec 12)) : Only [.tdc] [] s (State.visitMade s u a b pair) := by
  unfold State.visitMade
  simp (disch := first | decide | (intro _ _; simp (disch := decide) only [Only.refl_iff, Only.each_iff, Only.step_iff (State.pairCollect_only _ _), Only.step_iff (State.visitCount_only _ _ _ _ _)])) only [Only.refl_iff, Only.each_iff, Only.step_iff (State.pairCollect_only _ _), Only.step_iff (State.visitCount_only _ _ _ _ _)]

theorem execTestConversionStart_only (t : Tm) (unit : Fin 271) (test : TestCode) {s u : State} (hp : s.pwr.por = false) (h : execTestConversionStart t unit test s = .next u) :
    Only [.tdc] [] (s.clock t) u := by
  obtain rfl := live_next hp h
  generalize s.clock t = v
  repeat' first
    | simp (disch := decide) only [Only.refl_iff, Only.step_iff (State.modPair_only _ _ _), Only.step_iff (State.pairCollect_only _ _), Only.ite_iff, Only.iteFst_iff, implies_true, and_self]
    | split

theorem State.visitShow_only (s : State) (c : Nat) (cd fail : Bool) : Only [] [0x03000004, 0x03000005] s (State.visitShow s c cd fail) := by
  unfold State.visitShow
  simp (disch := decide) only [Only.refl_iff, Only.bump_iff, Only.put_iff, Only.putB_iff, Only.ite_iff, Only.iteFst_iff, implies_true, and_self]

theorem execTdcCalVisitComplete_only (t : Tm) (unit : Fin 268) (codesA codesB : List (BitVec 12)) (codesPair : List (BitVec 12 × BitVec 12)) {s u : State} (hp : s.pwr.por = false) (h : execTdcCalVisitComplete t unit codesA codesB codesPair s = .next u) :
    Only [.ev, .recd, .tdc, .core, .out] [0x03000004, 0x03000005, 0x0F000102, 0x0F000103, 0x11000203, 0x11000204] (s.clock t) u := by
  obtain rfl := live_next hp h
  generalize s.clock t = v
  repeat' first
    | simp (disch := first | decide | (intro _ _; repeat' first | simp (disch := decide) only [Only.refl_iff, Only.each_iff, Only.step_iff (State.log_only _ _ _ _), Only.step_iff (State.maintEnd_only _ _ _), Only.step_iff (State.modPair_only _ _ _), Only.step_iff (State.raise_only _ _), Only.step_iff (State.visitMade_only _ _ _ _ _), Only.step_iff (State.visitShow_only _ _ _ _), Only.ite_iff, Only.iteFst_iff, implies_true, and_self] | split)) only [Only.refl_iff, Only.each_iff, Only.step_iff (State.log_only _ _ _ _), Only.step_iff (State.maintEnd_only _ _ _), Only.step_iff (State.modPair_only _ _ _), Only.step_iff (State.raise_only _ _), Only.step_iff (State.visitMade_only _ _ _ _ _), Only.step_iff (State.visitShow_only _ _ _ _), Only.ite_iff, Only.iteFst_iff, implies_true, and_self]
    | split

theorem execTdcCalVisitTimeout_only (t : Tm) (unit : Fin 268) {s u : State} (hp : s.pwr.por = false) (h : execTdcCalVisitTimeout t unit s = .next u) :
    Only [.tdc, .core] [0x0F000102, 0x0F000103] (s.clock t) u := by
  obtain rfl := live_next hp h
  generalize s.clock t = v
  repeat' first
    | simp (disch := decide) only [Only.refl_iff, Only.step_iff (State.maintEnd_only _ _ _), Only.step_iff (State.modPair_only _ _ _), Only.ite_iff, Only.iteFst_iff, implies_true, and_self]
    | split

theorem State.transfersAdopt_only (s : State) : Only [.tdc] [0x03000004] s (State.transfersAdopt s) := by
  unfold State.transfersAdopt
  simp (disch := first | decide | (intro _ _; simp (disch := decide) only [Only.refl_iff, Only.each_iff, Only.step_iff (State.modPair_only _ _ _), Only.step_iff (State.transferAdopt_only _ _)])) only [Only.refl_iff, Only.each_iff, Only.step_iff (State.modPair_only _ _ _), Only.step_iff (State.transferAdopt_only _ _)]

theorem execTransferStale_only (t : Tm) (ch : Ch) {s u : State} (hp : s.pwr.por = false) (h : execTransferStale t ch s = .next u) :
    Only [.tdc] [0x03000004] (s.clock t) u := by
  obtain rfl := live_next hp h
  generalize s.clock t = v
  simp (disch := decide) only [Only.refl_iff, Only.step_iff (State.modTd_only _ _ _), Only.putB_iff, Only.ite_iff, Only.iteFst_iff, implies_true, and_self]

theorem State.dllShow_only (s : State) : Only [] [0x03000203] s (State.dllShow s) := by
  unfold State.dllShow
  simp (disch := decide) only [Only.refl_iff, Only.putB_iff]

theorem execDllLockLoss_only (t : Tm) (unit : Fin 268) {s u : State} (hp : s.pwr.por = false) (h : execDllLockLoss t unit s = .next u) :
    Only [.ev, .recd, .tdc, .core, .out] [0x03000203, 0x0F000102, 0x0F000103, 0x11000203, 0x11000204] (s.clock t) u := by
  obtain rfl := live_next hp h
  generalize s.clock t = v
  simp (disch := decide) only [Only.refl_iff, Only.bump_iff, Only.step_iff (State.dllShow_only _), Only.step_iff (State.log_only _ _ _ _), Only.step_iff (State.maintEnd_only _ _ _), Only.step_iff (State.modPair_only _ _ _), Only.step_iff (State.raise_only _ _), Only.ite_iff, Only.iteFst_iff, implies_true, and_self]

theorem execDllRelock_only (t : Tm) (unit : Fin 268) {s u : State} (hp : s.pwr.por = false) (h : execDllRelock t unit s = .next u) :
    Only [.tdc] [0x03000203] (s.clock t) u := by
  obtain rfl := live_next hp h
  generalize s.clock t = v
  simp (disch := decide) only [Only.refl_iff, Only.step_iff (State.dllShow_only _), Only.step_iff (State.modPair_only _ _ _)]

theorem State.gaugeArm_only (s : State) (g : Nat) (from_ : Tm) : Only [.tdc] [0x03000004] s (State.gaugeArm s g from_) := by
  unfold State.gaugeArm
  simp (disch := decide) only [Only.refl_iff, Only.step_iff (State.modGauge_only _ _ _), Only.step_iff (State.transferAdopt_only _ _), Only.ite_iff, Only.iteFst_iff, implies_true, and_self]

theorem execGaugeEdge_only (t : Tm) (edge : GaugeIn) {s u : State} (hp : s.pwr.por = false) (h : execGaugeEdge t edge s = .next u) :
    Only [.tdc] [] (s.clock t) u := by
  obtain rfl := live_next hp h
  generalize s.clock t = v
  simp (disch := decide) only [Only.refl_iff, Only.step_iff (State.modGauge_only _ _ _), Only.step_iff (State.pinEdge_only _ _ _), Only.ite_iff, Only.iteFst_iff, implies_true, and_self]

theorem execGaugeGateEnd_only (t : Tm) (g : Fin 8) {s u : State} (hp : s.pwr.por = false) (h : execGaugeGateEnd t g s = .next u) :
    Only [.ev, .recd, .tdc, .ctx, .out] [0x03000004, 0x03000306, 0x03000307, 0x03000308, 0x08000015, 0x08000203, 0x11000203, 0x11000204] (s.clock t) u := by
  obtain rfl := live_next hp h
  generalize s.clock t = v
  repeat' first
    | simp (disch := decide) only [Only.refl_iff, Only.bump_iff, Only.step_iff (State.gaugeArm_only _ _ _), Only.step_iff (State.modGauge_only _ _ _), Only.step_iff (State.monEmit_only _ _), Only.put_iff, Only.step_iff (State.raise_only _ _), Only.step_iff (State.raiseIf_only _ _ _), Only.ite_iff, Only.iteFst_iff, implies_true, and_self]
    | split

theorem State.gaugesCut_only (s : State) : Only [.ev, .recd, .tdc, .out] [0x03000004, 0x03000306, 0x11000203, 0x11000204] s (State.gaugesCut s) := by
  unfold State.gaugesCut
  repeat' first
    | simp (disch := first | decide | (intro _ _; repeat' first | simp (disch := decide) only [Only.refl_iff, Only.bump_iff, Only.each_iff, Only.step_iff (State.gaugeArm_only _ _ _), Only.step_iff (State.modGauge_only _ _ _), Only.step_iff (State.raise_only _ _), Only.ite_iff, Only.iteFst_iff, implies_true, and_self] | split)) only [Only.refl_iff, Only.bump_iff, Only.each_iff, Only.step_iff (State.gaugeArm_only _ _ _), Only.step_iff (State.modGauge_only _ _ _), Only.step_iff (State.raise_only _ _), Only.ite_iff, Only.iteFst_iff, implies_true, and_self]
    | split

theorem State.gaugesResume_only (s : State) (b : Tm) : Only [.tdc] [0x03000004] s (State.gaugesResume s b) := by
  unfold State.gaugesResume
  simp (disch := first | decide | (intro _ _; simp (disch := decide) only [Only.refl_iff, Only.each_iff, Only.step_iff (State.gaugeArm_only _ _ _)])) only [Only.refl_iff, Only.each_iff, Only.step_iff (State.gaugeArm_only _ _ _)]

end Sys2Proof.Machine
end

