-- ==== Sys2Proof/Laws/OnlyFabOps.lean ====
section
/-! SUPPORT. What the operations of Machine/FabOps.lean leave alone: one lemma for each. -/

namespace Sys2Proof.Machine

theorem State.modFp_only (s : State) (p : Nat) (f : FabPort → FabPort) : Only [.fab] [] s (State.modFp s p f) := by
  unfold State.modFp
  simp (disch := decide) only [Only.refl_iff, Only.set_fab]

theorem State.vc0Send_only (s : State) (p : Nat) (f : Vc0) : Only [.ev, .recd, .fab, .out] [0x0A000005, 0x11000203, 0x11000204] s (State.vc0Send s p f) := by
  unfold State.vc0Send
  simp (disch := decide) only [Only.refl_iff, Only.bump_iff, Only.step_iff (State.emit_only _ _), Only.step_iff (State.modFp_only _ _ _), Only.step_iff (State.raise_only _ _), Only.ite_iff, Only.iteFst_iff, implies_true, and_self]

theorem State.vc0Forward_only (s : State) (f : Vc0) (inPort : Option Nat) : Only [.ev, .recd, .fab, .out] [0x0A000005, 0x11000203, 0x11000204] s (State.vc0Forward s f inPort).1 := by
  unfold State.vc0Forward
  repeat' first
    | simp (disch := first | decide | (intro _ _; repeat' first | simp (disch := decide) only [Only.refl_iff, Only.bump_iff, Only.step_iff (State.raise_only _ _), Only.step_iff (State.vc0Send_only _ _ _), Only.foldl_iff, Only.ite_iff, Only.iteFst_iff, implies_true, and_self] | split)) only [Only.refl_iff, Only.bump_iff, Only.step_iff (State.raise_only _ _), Only.step_iff (State.vc0Send_only _ _ _), Only.foldl_iff, Only.ite_iff, Only.iteFst_iff, implies_true, and_self]
    | split

theorem State.vc0Arrive_only (s : State) (p : Nat) (parts : Vc0Parts) : Only [] [0x0A000005] s (State.vc0Arrive s p parts).1 := by
  unfold State.vc0Arrive
  repeat' first
    | simp (disch := decide) only [Only.refl_iff, Only.bump_iff, Only.ite_iff, Only.iteFst_iff, implies_true, and_self]
    | split

theorem State.showCredit_only (s : State) (p : Nat) : Only [] [0x0A000006] s (State.showCredit s p) := by
  unfold State.showCredit
  simp (disch := decide) only [Only.refl_iff, Only.put_iff]

theorem State.creditReturn_only (s : State) (p vc units : Nat) (nak : Bool) : Only [.out] [] s (State.creditReturn s p vc units nak) := by
  unfold State.creditReturn
  simp (disch := decide) only [Only.refl_iff, Only.step_iff (State.emit_only _ _)]

theorem State.ack_only (s : State) (p : Nat) : Only [.out] [] s (State.ack s p) := by
  unfold State.ack
  simp (disch := decide) only [Only.refl_iff, Only.step_iff (State.creditReturn_only _ _ _ _ _)]

theorem State.creditBack_only (s : State) (p vc units : Nat) : Only [.fab, .out] [] s (State.creditBack s p vc units) := by
  unfold State.creditBack
  simp (disch := decide) only [Only.refl_iff, Only.step_iff (State.ack_only _ _), Only.step_iff (State.creditReturn_only _ _ _ _ _), Only.step_iff (State.modFp_only _ _ _), Only.ite_iff, Only.iteFst_iff, implies_true, and_self]

theorem State.frameLeft_only (s : State) (f : Frame) : Only [.fab, .out] [] s (State.frameLeft s f) := by
  unfold State.frameLeft
  simp (disch := decide) only [Only.refl_iff, Only.step_iff (State.creditBack_only _ _ _ _), Only.ite_iff, Only.iteFst_iff, implies_true, and_self]

theorem State.frameSend_only (s0 : State) (p : Nat) (f : Frame) : Only [.fab, .out] [0x0A000006, 0x0A000008] s0 (State.frameSend s0 p f) := by
  unfold State.frameSend
  simp (disch := decide) only [Only.refl_iff, Only.bump_iff, Only.step_iff (State.emit_only _ _), Only.step_iff (State.frameLeft_only _ _), Only.step_iff (State.modFp_only _ _ _), Only.step_iff (State.showCredit_only _ _)]

theorem State.fabPump_only (s : State) (p : Nat) (x : Nat) : Only [.fab, .out] [0x0A000006, 0x0A000008] s (State.fabPump s p x) := by
  induction x generalizing s p with
  | zero => exact Only.refl
  | succ k ih =>
    unfold State.fabPump
    repeat' first
      | simp (disch := decide) only [Only.refl_iff, Only.step_iff (State.frameSend_only _ _ _), Only.step_iff (State.modFp_only _ _ _), Only.ite_iff, Only.iteFst_iff, implies_true, and_self, Only.step_iff (ih _ _)]
      | split

theorem State.fabQueue_only (s : State) (p : Nat) (fs : List Frame) : Only [.fab, .out] [0x0A000006, 0x0A000008] s (State.fabQueue s p fs) := by
  unfold State.fabQueue
  simp (disch := first | decide | (intro _ _; simp (disch := decide) only [Only.refl_iff, Only.step_iff (State.fabPump_only _ _ _), Only.step_iff (State.modFp_only _ _ _), Only.foldl_iff, Only.ite_iff, Only.iteFst_iff, implies_true, and_self])) only [Only.refl_iff, Only.step_iff (State.fabPump_only _ _ _), Only.step_iff (State.modFp_only _ _ _), Only.foldl_iff, Only.ite_iff, Only.iteFst_iff, implies_true, and_self]

theorem State.fabSend_only (s : State) (p vc kind stream dest ctx : Nat) (bytes : List Byte) : Only [.fab, .out] [0x0A000006, 0x0A000008] s (State.fabSend s p vc kind stream dest ctx bytes) := by
  unfold State.fabSend
  simp (disch := decide) only [Only.refl_iff, Only.step_iff (State.fabQueue_only _ _ _), Only.ite_iff, Only.iteFst_iff, implies_true, and_self]

theorem State.itemLost_only (s : State) (p : Nat) (x : RxItem) : Only [.ctx] [] s (State.itemLost s p x) := by
  unfold State.itemLost
  repeat' first
    | simp (disch := decide) only [Only.refl_iff, Only.step_iff (State.modCtx_only _ _ _), Only.step_iff (State.takeSeq_only _ _), Only.ite_iff, Only.iteFst_iff, implies_true, and_self]
    | split

theorem State.portDown_only (s : State) (p : Nat) : Only [.ev, .recd, .ctx, .fab, .out] [0x0A000002, 0x0A000005, 0x0A000006, 0x11000203, 0x11000204] s (State.portDown s p) := by
  unfold State.portDown
  simp (disch := first | decide | (intro _ _; simp (disch := decide) only [Only.refl_iff, Only.bump_iff, Only.step_iff (State.emit_only _ _), Only.step_iff (State.frameLeft_only _ _), Only.step_iff (State.itemLost_only _ _ _), Only.step_iff (State.modFp_only _ _ _), Only.put_iff, Only.step_iff (State.raise_only _ _), Only.foldl_iff])) only [Only.refl_iff, Only.bump_iff, Only.step_iff (State.emit_only _ _), Only.step_iff (State.frameLeft_only _ _), Only.step_iff (State.itemLost_only _ _ _), Only.step_iff (State.modFp_only _ _ _), Only.put_iff, Only.step_iff (State.raise_only _ _), Only.foldl_iff]

theorem State.linkUp_only (s : State) (p : Nat) : Only [.ev, .recd, .seam, .fab, .out] [0x0A000006, 0x11000203, 0x11000204] s (State.linkUp s p) := by
  unfold State.linkUp
  simp (disch := decide) only [Only.refl_iff, Only.set_seam, Only.step_iff (State.emit_only _ _), Only.step_iff (State.modFp_only _ _ _), Only.step_iff (State.raise_only _ _), Only.step_iff (State.showCredit_only _ _)]

end Sys2Proof.Machine
end

