-- ==== Sys2Proof/Laws/OnlyTopology.lean ====
section
/-! SUPPORT. What the operations of Machine/Topology.lean leave alone: one lemma for each. -/

namespace Sys2Proof.Machine


end Sys2Proof.Machine
end

