-- ==== Sys2Proof/Laws/OnlySeam.lean ====
section
/-! SUPPORT. What the operations of Machine/Seam.lean leave alone: one lemma for each. -/

namespace Sys2Proof.Machine

theorem State.egressTrim_only (s : State) : Only [.ctx] [0x08000201, 0x08000202] s (State.egressTrim s) := by
  unfold State.egressTrim
  repeat' first
    | simp (disch := decide) only [Only.refl_iff, Only.set_ctx, Only.put_iff, Only.putB_iff, Only.ite_iff, Only.iteFst_iff, implies_true, and_self]
    | split

theorem State.modUp_only (s : State) (p : Nat) (f : UpPort → UpPort) : Only [.seam] [] s (State.modUp s p f) := by
  unfold State.modUp
  simp (disch := decide) only [Only.refl_iff, Only.set_seam]

theorem State.upPump_only (s : State) (x : Nat) : Only [.seam, .ctx, .fab, .out] [0x0A000006, 0x0A000008] s (State.upPump s x) := by
  induction x generalizing s with
  | zero => exact Only.refl
  | succ k ih =>
    unfold State.upPump
    repeat' first
      | simp (disch := decide) only [Only.refl_iff, Only.set_ctx, Only.step_iff (State.fabSend_only _ _ _ _ _ _ _ _), Only.step_iff (State.modUp_only _ _ _), Only.ite_iff, Only.iteFst_iff, implies_true, and_self, Only.step_iff (ih _)]
      | split

theorem State.egressWrite_only (s : State) (r : Rec) (late : Bool) : Only [.seam, .ctx, .fab, .out] [0x08000201, 0x08000202, 0x0A000006, 0x0A000008] s (State.egressWrite s r late) := by
  unfold State.egressWrite
  simp (disch := decide) only [Only.refl_iff, Only.set_ctx, Only.step_iff (State.egressTrim_only _), Only.step_iff (State.upPump_only _ _)]

theorem State.lateFlush_only (s : State) (x : Nat) : Only [.seam, .ctx, .fab, .out] [0x08000201, 0x08000202, 0x0A000006, 0x0A000008] s (State.lateFlush s x) := by
  induction x generalizing s with
  | zero => exact Only.refl
  | succ k ih =>
    unfold State.lateFlush
    repeat' first
      | simp (disch := decide) only [Only.refl_iff, Only.set_seam, Only.step_iff (State.egressWrite_only _ _ _), Only.ite_iff, Only.iteFst_iff, implies_true, and_self, Only.step_iff (ih _)]
      | split

theorem State.lateEmit_only (s : State) (r : Rec) : Only [.seam, .ctx, .fab, .out] [0x08000201, 0x08000202, 0x0A000006, 0x0A000008] s (State.lateEmit s r) := by
  unfold State.lateEmit
  simp (disch := decide) only [Only.refl_iff, Only.set_seam, Only.step_iff (State.lateFlush_only _ _), Only.ite_iff, Only.iteFst_iff, implies_true, and_self]

theorem State.inboundPut_only (s : State) (c src : Nat) (r : Rec) : Only [.ctx] [] s (State.inboundPut s c src r) := by
  unfold State.inboundPut
  simp (disch := first | decide | (intro _ _; simp (disch := decide) only [Only.refl_iff, Only.step_iff (State.modCtx_only _ _ _), Only.step_iff (State.takeSeq_only _ _), Only.foldl_iff, Only.ite_iff, Only.iteFst_iff, implies_true, and_self])) only [Only.refl_iff, Only.step_iff (State.modCtx_only _ _ _), Only.step_iff (State.takeSeq_only _ _), Only.foldl_iff, Only.ite_iff, Only.iteFst_iff, implies_true, and_self]

theorem State.modSi_only (s : State) (i : Nat) (f : SeamQ → SeamQ) : Only [.seam] [] s (State.modSi s i f) := by
  unfold State.modSi
  simp (disch := decide) only [Only.refl_iff, Only.set_seam]

theorem State.markSend_only (s : State) (p flags : Nat) : Only [.seam, .ctx, .fab, .out] [0x0A000006, 0x0A000008] s (State.markSend s p flags) := by
  unfold State.markSend
  repeat' first
    | simp (disch := decide) only [Only.refl_iff, Only.step_iff (State.fabSend_only _ _ _ _ _ _ _ _), Only.step_iff (State.modUp_only _ _ _), Only.step_iff (State.takeSeq_only _ _), Only.ite_iff, Only.iteFst_iff, implies_true, and_self]
    | split

theorem State.markPrompt_only (s : State) : Only [.seam, .ctx, .fab, .out] [0x0A000006, 0x0A000008] s (State.markPrompt s) := by
  unfold State.markPrompt
  repeat' first
    | simp (disch := decide) only [Only.refl_iff, Only.step_iff (State.markSend_only _ _ _), Only.ite_iff, Only.iteFst_iff, implies_true, and_self]
    | split

theorem State.putStamp_iff {ps : List Part} {rs : List Nat} {s u : State} {ns ep st : Fld} {i : Nat} {v : Stamp}
    (h1 : ns.pid / 4096 % 4096 = 0 ∧ ns.pid % 4096 + 0 < 4096) (r1 : Part.regs ∈ ps ∨ ns.pid + 0 ∈ rs)
    (h2 : ep.pid / 4096 % 4096 = 0 ∧ ep.pid % 4096 + 0 < 4096) (r2 : Part.regs ∈ ps ∨ ep.pid + 0 ∈ rs)
    (h3 : st.pid / 4096 % 4096 = 0 ∧ st.pid % 4096 + 0 < 4096) (r3 : Part.regs ∈ ps ∨ st.pid + 0 ∈ rs) :
    Only ps rs s (u.putStamp ns ep st i v) ↔ Only ps rs s u :=
  ((Only.put_iff h3 r3).trans (Only.put_iff h2 r2)).trans (Only.put_iff h1 r1)

theorem State.creditFree_only (s : State) (i : Nat) : Only [.fab, .out] [] s (State.creditFree s i) := by
  unfold State.creditFree
  simp (disch := decide) only [Only.refl_iff, Only.step_iff (State.creditReturn_only _ _ _ _ _), Only.step_iff (State.modFp_only _ _ _), Only.ite_iff, Only.iteFst_iff, implies_true, and_self]

theorem State.pressure_only (s : State) (behind : Bool) (i : Nat) : Only [.seam, .fab, .out] [0x07000002] s (State.pressure s behind i) := by
  unfold State.pressure
  simp (disch := decide) only [Only.refl_iff, Only.step_iff (State.creditFree_only _ _), Only.step_iff (State.modSi_only _ _ _), Only.putB_iff, Only.ite_iff, Only.iteFst_iff, implies_true, and_self]

theorem State.inShow_only (s : State) (i : Nat) : Only [] [0x07000002, 0x07000003, 0x07000004, 0x07000005, 0x07000006] s (State.inShow s i) := by
  unfold State.inShow
  repeat' first
    | simp (disch := decide) only [Only.refl_iff, Only.put_iff, Only.putB_iff, State.putStamp_iff]
    | split

theorem State.seamRp_only (s : State) : Only [.seam] [0x07000002, 0x07000003, 0x07000004, 0x07000005, 0x07000006, 0x07000205, 0x07000206] s (State.seamRp s) := by
  unfold State.seamRp
  simp (disch := first | decide | (intro _ _; simp (disch := decide) only [Only.refl_iff, Only.set_seam, Only.each_iff, Only.step_iff (State.inShow_only _ _), Only.step_iff (State.modSi_only _ _ _), State.putStamp_iff, Only.ite_iff, Only.iteFst_iff, implies_true, and_self])) only [Only.refl_iff, Only.set_seam, Only.each_iff, Only.step_iff (State.inShow_only _ _), Only.step_iff (State.modSi_only _ _ _), State.putStamp_iff, Only.ite_iff, Only.iteFst_iff, implies_true, and_self]

theorem State.seamPool_only (s : State) : Only [.ev, .recd, .seam, .out] [0x07000207, 0x11000203, 0x11000204] s (State.seamPool s) := by
  unfold State.seamPool
  simp (disch := decide) only [Only.refl_iff, Only.set_seam, Only.put_iff, Only.step_iff (State.raiseIf_only _ _ _)]

theorem State.seamPress_only (s : State) : Only [.ev, .recd, .seam, .fab, .out] [0x07000002, 0x07000208, 0x11000203, 0x11000204] s (State.seamPress s) := by
  unfold State.seamPress
  simp (disch := first | decide | (intro _ _; simp (disch := decide) only [Only.refl_iff, Only.set_seam, Only.each_iff, Only.step_iff (State.pressure_only _ _ _), Only.put_iff, Only.step_iff (State.raiseIf_only _ _ _)])) only [Only.refl_iff, Only.set_seam, Only.each_iff, Only.step_iff (State.pressure_only _ _ _), Only.put_iff, Only.step_iff (State.raiseIf_only _ _ _)]

theorem State.egressHold_only (s : State) : Only [.ctx] [0x08000202] s (State.egressHold s) := by
  unfold State.egressHold
  repeat' first
    | simp (disch := decide) only [Only.refl_iff, Only.set_ctx, Only.put_iff, Only.ite_iff, Only.iteFst_iff, implies_true, and_self]
    | split

theorem State.seamEval_only (s : State) : Only [.ev, .recd, .seam, .ctx, .fab, .out] [0x07000002, 0x07000003, 0x07000004, 0x07000005, 0x07000006, 0x07000205, 0x07000206, 0x07000207, 0x07000208, 0x08000202, 0x0A000006, 0x0A000008, 0x11000203, 0x11000204] s (State.seamEval s) := by
  unfold State.seamEval
  simp (disch := decide) only [Only.refl_iff, Only.step_iff (State.egressHold_only _), Only.step_iff (State.markPrompt_only _), Only.step_iff (State.seamPool_only _), Only.step_iff (State.seamPress_only _), Only.step_iff (State.seamRp_only _)]

theorem State.egressMoved_only (s : State) : Only [.ev, .recd, .seam, .ctx, .fab, .out] [0x07000002, 0x07000003, 0x07000004, 0x07000005, 0x07000006, 0x07000205, 0x07000206, 0x07000207, 0x07000208, 0x08000201, 0x08000202, 0x0A000006, 0x0A000008, 0x11000203, 0x11000204] s (State.egressMoved s) := by
  unfold State.egressMoved
  simp (disch := decide) only [Only.refl_iff, Only.step_iff (State.egressTrim_only _), Only.step_iff (State.lateFlush_only _ _), Only.step_iff (State.seamEval_only _)]

theorem State.upDrain_only (s : State) (p : Nat) : Only [.ev, .recd, .seam, .ctx, .fab, .out] [0x07000002, 0x07000003, 0x07000004, 0x07000005, 0x07000006, 0x07000205, 0x07000206, 0x07000207, 0x07000208, 0x08000201, 0x08000202, 0x0A000006, 0x0A000008, 0x11000203, 0x11000204] s (State.upDrain s p) := by
  unfold State.upDrain
  simp (disch := decide) only [Only.refl_iff, Only.step_iff (State.egressMoved_only _), Only.step_iff (State.upPump_only _ _), Only.ite_iff, Only.iteFst_iff, implies_true, and_self]

theorem State.displace_only (s : State) (need : Nat) (x : Nat) : Only [.seam] [] s (State.displace s need x) := by
  induction x generalizing s need with
  | zero => exact Only.refl
  | succ k ih =>
    unfold State.displace
    repeat' first
      | simp (disch := decide) only [Only.refl_iff, Only.step_iff (State.modSi_only _ _ _), Only.ite_iff, Only.iteFst_iff, implies_true, and_self, Only.step_iff (ih _ _)]
      | split

theorem State.takeIn_only (s : State) (i : Nat) (r : Rec) : Only [.seam] [] s (State.takeIn s i r) := by
  unfold State.takeIn
  simp (disch := decide) only [Only.refl_iff, Only.step_iff (State.displace_only _ _ _), Only.step_iff (State.modSi_only _ _ _), Only.ite_iff, Only.iteFst_iff, implies_true, and_self]

theorem State.inLate_only (s : State) (i : Nat) (r : Rec) : Only [.ev, .recd, .seam, .ctx, .fab, .out] [0x07000007, 0x08000201, 0x08000202, 0x0A000006, 0x0A000008, 0x11000203, 0x11000204] s (State.inLate s i r) := by
  unfold State.inLate
  simp (disch := decide) only [Only.refl_iff, Only.bump_iff, Only.step_iff (State.lateEmit_only _ _), Only.step_iff (State.modSi_only _ _ _), Only.step_iff (State.raiseIf_only _ _ _), Only.ite_iff, Only.iteFst_iff, implies_true, and_self]

theorem State.seamArrive_only (s0 : State) (i : Nat) (r : Rec) : Only [.ev, .recd, .seam, .ctx, .fab, .out] [0x07000002, 0x07000003, 0x07000004, 0x07000005, 0x07000006, 0x07000007, 0x07000008, 0x07000205, 0x07000206, 0x07000207, 0x07000208, 0x07000209, 0x08000201, 0x08000202, 0x0A000006, 0x0A000008, 0x11000203, 0x11000204] s0 (State.seamArrive s0 i r) := by
  unfold State.seamArrive
  repeat' first
    | simp (disch := decide) only [Only.refl_iff, Only.bump_iff, Only.step_iff (State.inLate_only _ _ _), Only.step_iff (State.lateEmit_only _ _), Only.step_iff (State.modSi_only _ _ _), Only.step_iff (State.raise_only _ _), Only.step_iff (State.seamEval_only _), Only.step_iff (State.takeIn_only _ _ _), Only.ite_iff, Only.iteFst_iff, implies_true, and_self]
    | split

theorem execSeamRecordArrive_only (t : Tm) (input : SeamIn) (record : Rec) {s u : State} (hp : s.pwr.por = false) (h : execSeamRecordArrive t input record s = .next u) :
    Only [.ev, .recd, .trg, .seam, .ctx, .fab, .core, .mem, .out] [0x07000002, 0x07000003, 0x07000004, 0x07000005, 0x07000006, 0x07000007, 0x07000008, 0x07000205, 0x07000206, 0x07000207, 0x07000208, 0x07000209, 0x08000201, 0x08000202, 0x0A000006, 0x0A000008, 0x10000001, 0x10000002, 0x11000203, 0x11000204] (s.clock t) u := by
  obtain rfl := live_next hp h
  generalize s.clock t = v
  repeat' first
    | simp (disch := decide) only [Only.refl_iff, Only.set_trg, Only.step_iff (State.flawNext_only _ _), Only.step_iff (State.seamArrive_only _ _ _), Only.ite_iff, Only.iteFst_iff, implies_true, and_self]
    | split

theorem execSeamRelease_only (t : Tm) {s u : State} (hp : s.pwr.por = false) (h : execSeamRelease t s = .next u) :
    Only [.ev, .recd, .seam, .ctx, .fab, .core, .mem, .out] [0x07000002, 0x07000003, 0x07000004, 0x07000005, 0x07000006, 0x07000205, 0x07000206, 0x07000207, 0x07000208, 0x0700020A, 0x08000201, 0x08000202, 0x0A000006, 0x0A000008, 0x10000001, 0x10000002, 0x11000203, 0x11000204] (s.clock t) u := by
  obtain rfl := live_next hp h
  generalize s.clock t = v
  repeat' first
    | simp (disch := decide) only [Only.refl_iff, Only.set_seam, Only.bump_iff, Only.step_iff (State.egressWrite_only _ _ _), Only.step_iff (State.flawNext_only _ _), Only.step_iff (State.modSi_only _ _ _), Only.step_iff (State.seamEval_only _), Only.ite_iff, Only.iteFst_iff, implies_true, and_self]
    | split

theorem State.markReceive_only (s : State) (p : Nat) (r : Rec) : Only [.seam] [] s (State.markReceive s p r) := by
  unfold State.markReceive
  simp (disch := decide) only [Only.refl_iff, Only.step_iff (State.modSi_only _ _ _), Only.ite_iff, Only.iteFst_iff, implies_true, and_self]

theorem execHemMarkReceive_only (t : Tm) (port : Port) (mark : Rec) {s u : State} (hp : s.pwr.por = false) (h : execHemMarkReceive t port mark s = .next u) :
    Only [.seam] [] (s.clock t) u := by
  obtain rfl := live_next hp h
  generalize s.clock t = v
  simp (disch := decide) only [Only.refl_iff, Only.step_iff (State.markReceive_only _ _ _), Only.ite_iff, Only.iteFst_iff, implies_true, and_self]

theorem State.seamClose_only (s : State) (i : Nat) : Only [.seam] [0x07000002] s (State.seamClose s i) := by
  unfold State.seamClose
  simp (disch := decide) only [Only.refl_iff, Only.step_iff (State.modSi_only _ _ _), Only.put_iff]

theorem execHemMarkApply_only (t : Tm) (input : SeamIn) {s u : State} (hp : s.pwr.por = false) (h : execHemMarkApply t input s = .next u) :
    Only [.ev, .recd, .seam, .ctx, .fab, .out] [0x07000002, 0x07000003, 0x07000004, 0x07000005, 0x07000006, 0x07000205, 0x07000206, 0x07000207, 0x07000208, 0x07000209, 0x08000202, 0x0A000006, 0x0A000008, 0x11000203, 0x11000204] (s.clock t) u := by
  obtain rfl := live_next hp h
  generalize s.clock t = v
  repeat' first
    | simp (disch := decide) only [Only.refl_iff, Only.bump_iff, Only.step_iff (State.modSi_only _ _ _), Only.step_iff (State.raise_only _ _), Only.step_iff (State.seamClose_only _ _), Only.step_iff (State.seamEval_only _), Only.ite_iff, Only.iteFst_iff, implies_true, and_self]
    | split

theorem execHemMarkPeriodic_only (t : Tm) {s u : State} (hp : s.pwr.por = false) (h : execHemMarkPeriodic t s = .next u) :
    Only [.ev, .recd, .seam, .ctx, .fab, .out] [0x07000002, 0x07000003, 0x07000004, 0x07000005, 0x07000006, 0x07000205, 0x07000206, 0x07000207, 0x07000208, 0x08000202, 0x0A000006, 0x0A000008, 0x11000203, 0x11000204] (s.clock t) u := by
  obtain rfl := live_next hp h
  generalize s.clock t = v
  simp (disch := decide) only [Only.refl_iff, Only.step_iff (State.markSend_only _ _ _), Only.step_iff (State.seamEval_only _), Only.ite_iff, Only.iteFst_iff, implies_true, and_self]

theorem execHemMarkGapExpire_only (t : Tm) {s u : State} (hp : s.pwr.por = false) (h : execHemMarkGapExpire t s = .next u) :
    Only [.ev, .recd, .seam, .ctx, .fab, .out] [0x07000002, 0x07000003, 0x07000004, 0x07000005, 0x07000006, 0x07000205, 0x07000206, 0x07000207, 0x07000208, 0x08000202, 0x0A000006, 0x0A000008, 0x11000203, 0x11000204] (s.clock t) u := by
  obtain rfl := live_next hp h
  generalize s.clock t = v
  repeat' first
    | simp (disch := first | decide | (intro _ _; repeat' first | simp (disch := decide) only [Only.refl_iff, Only.each_iff, Only.step_iff (State.markSend_only _ _ _), Only.step_iff (State.seamEval_only _)] | split)) only [Only.refl_iff, Only.each_iff, Only.step_iff (State.markSend_only _ _ _), Only.step_iff (State.seamEval_only _)]
    | split

theorem State.seamLoss_only (s : State) (cause unit count : Nat) (key : Stamp) (first last : Tm) : Only [.seam, .ctx] [] s (State.seamLoss s cause unit count key first last) := by
  unfold State.seamLoss
  simp (disch := decide) only [Only.refl_iff, Only.set_seam, Only.step_iff (State.takeSeq_only _ _)]

theorem execFrayTimeout_only (t : Tm) (input : SeamIn) {s u : State} (hp : s.pwr.por = false) (h : execFrayTimeout t input s = .next u) :
    Only [.ev, .recd, .seam, .ctx, .fab, .out] [0x07000002, 0x07000003, 0x07000004, 0x07000005, 0x07000006, 0x07000007, 0x07000205, 0x07000206, 0x07000207, 0x07000208, 0x08000201, 0x08000202, 0x0A000006, 0x0A000008, 0x11000203, 0x11000204] (s.clock t) u := by
  obtain rfl := live_next hp h
  generalize s.clock t = v
  simp (disch := first | decide | (intro _ _; simp (disch := decide) only [Only.refl_iff, Only.bump_iff, Only.step_iff (State.inLate_only _ _ _), Only.step_iff (State.modSi_only _ _ _), Only.put_iff, Only.step_iff (State.raise_only _ _), Only.step_iff (State.seamClose_only _ _), Only.step_iff (State.seamEval_only _), Only.step_iff (State.seamLoss_only _ _ _ _ _ _ _), Only.foldl_iff, Only.ite_iff, Only.iteFst_iff, implies_true, and_self])) only [Only.refl_iff, Only.bump_iff, Only.step_iff (State.inLate_only _ _ _), Only.step_iff (State.modSi_only _ _ _), Only.put_iff, Only.step_iff (State.raise_only _ _), Only.step_iff (State.seamClose_only _ _), Only.step_iff (State.seamEval_only _), Only.step_iff (State.seamLoss_only _ _ _ _ _ _ _), Only.foldl_iff, Only.ite_iff, Only.iteFst_iff, implies_true, and_self]

theorem State.seamJoin_only (s : State) (i : Nat) : Only [.ev, .recd, .seam, .ctx, .fab, .out] [0x07000002, 0x07000007, 0x08000201, 0x08000202, 0x0A000006, 0x0A000008, 0x11000203, 0x11000204] s (State.seamJoin s i) := by
  unfold State.seamJoin
  repeat' first
    | simp (disch := first | decide | (intro _ _; repeat' first | simp (disch := decide) only [Only.refl_iff, Only.step_iff (State.inLate_only _ _ _), Only.step_iff (State.modSi_only _ _ _), Only.put_iff, Only.step_iff (State.raise_only _ _), Only.step_iff (State.seamLoss_only _ _ _ _ _ _ _), Only.foldl_iff, Only.ite_iff, Only.iteFst_iff, implies_true, and_self] | split)) only [Only.refl_iff, Only.step_iff (State.inLate_only _ _ _), Only.step_iff (State.modSi_only _ _ _), Only.put_iff, Only.step_iff (State.raise_only _ _), Only.step_iff (State.seamLoss_only _ _ _ _ _ _ _), Only.foldl_iff, Only.ite_iff, Only.iteFst_iff, implies_true, and_self]
    | split

theorem State.seamEnable_only (s : State) (i : Nat) : Only [.seam] [0x07000002] s (State.seamEnable s i) := by
  unfold State.seamEnable
  simp (disch := decide) only [Only.refl_iff, Only.step_iff (State.modSi_only _ _ _), Only.put_iff, Only.step_iff (State.seamClose_only _ _), Only.ite_iff, Only.iteFst_iff, implies_true, and_self]

theorem State.seamUp_only (s : State) : Only [.seam, .ctx, .fab, .out] [0x0A000006, 0x0A000008] s (State.seamUp s) := by
  unfold State.seamUp
  simp (disch := decide) only [Only.refl_iff, Only.set_ctx, Only.set_seam, Only.set_seam_ctx, Only.step_iff (State.markSend_only _ _ _), Only.ite_iff, Only.iteFst_iff, implies_true, and_self]

theorem State.upResume_only (s : State) : Only [.seam, .ctx, .fab, .out] [0x08000201, 0x08000202, 0x0A000006, 0x0A000008] s (State.upResume s) := by
  unfold State.upResume
  simp (disch := decide) only [Only.refl_iff, Only.step_iff (State.egressTrim_only _), Only.step_iff (State.upPump_only _ _), Only.ite_iff, Only.iteFst_iff, implies_true, and_self]

theorem State.seamBoundary_only (s : State) : Only [.ev, .recd, .seam, .ctx, .fab, .out] [0x07000002, 0x07000003, 0x07000004, 0x07000005, 0x07000006, 0x07000007, 0x07000205, 0x07000206, 0x07000207, 0x07000208, 0x08000201, 0x08000202, 0x0A000006, 0x0A000008, 0x11000203, 0x11000204] s (State.seamBoundary s) := by
  unfold State.seamBoundary
  simp (disch := first | decide | (intro _ _; simp (disch := decide) only [Only.refl_iff, Only.set_seam, Only.each_iff, Only.step_iff (State.seamEnable_only _ _), Only.step_iff (State.seamEval_only _), Only.step_iff (State.seamJoin_only _ _), Only.step_iff (State.seamUp_only _), Only.step_iff (State.upResume_only _), Only.ite_iff, Only.iteFst_iff, implies_true, and_self])) only [Only.refl_iff, Only.set_seam, Only.each_iff, Only.step_iff (State.seamEnable_only _ _), Only.step_iff (State.seamEval_only _), Only.step_iff (State.seamJoin_only _ _), Only.step_iff (State.seamUp_only _), Only.step_iff (State.upResume_only _), Only.ite_iff, Only.iteFst_iff, implies_true, and_self]

theorem execSpillWriteComplete_only (t : Tm) (input : SeamIn) {s u : State} (hp : s.pwr.por = false) (h : execSpillWriteComplete t input s = .next u) :
    Only [.ev, .recd, .seam, .ctx, .fab, .ddr, .out] [0x07000002, 0x07000003, 0x07000004, 0x07000005, 0x07000006, 0x07000205, 0x07000206, 0x07000207, 0x07000208, 0x08000202, 0x0A000006, 0x0A000008, 0x11000203, 0x11000204] (s.clock t) u := by
  obtain rfl := live_next hp h
  generalize s.clock t = v
  simp (disch := decide) only [Only.refl_iff, Only.step_iff (State.ddrUse_only _ _ _ _ _), Only.step_iff (State.modSi_only _ _ _), Only.step_iff (State.seamEval_only _), Only.ite_iff, Only.iteFst_iff, implies_true, and_self]

theorem execSpillReadback_only (t : Tm) (input : SeamIn) (poison : Poison) {s u : State} (hp : s.pwr.por = false) (h : execSpillReadback t input poison s = .next u) :
    Only [.ev, .recd, .seam, .ctx, .fab, .ddr, .out] [0x07000002, 0x07000003, 0x07000004, 0x07000005, 0x07000006, 0x07000007, 0x07000205, 0x07000206, 0x07000207, 0x07000208, 0x08000201, 0x08000202, 0x0A000006, 0x0A000008, 0x11000203, 0x11000204] (s.clock t) u := by
  obtain rfl := live_next hp h
  generalize s.clock t = v
  repeat' first
    | simp (disch := decide) only [Only.refl_iff, Only.bump_iff, Only.step_iff (State.ddrUse_only _ _ _ _ _), Only.step_iff (State.inLate_only _ _ _), Only.step_iff (State.modSi_only _ _ _), Only.step_iff (State.raise_only _ _), Only.step_iff (State.seamEval_only _), Only.step_iff (State.seamLoss_only _ _ _ _ _ _ _), Only.ite_iff, Only.iteFst_iff, implies_true, and_self]
    | split

theorem State.seamAbut_only (s : State) : Only [.seam] [0x07000002] s (State.seamAbut s) := by
  unfold State.seamAbut
  repeat' first
    | simp (disch := first | decide | (intro _ _; repeat' first | simp (disch := decide) only [Only.refl_iff, Only.set_seam, Only.each_iff, Only.step_iff (State.modSi_only _ _ _), Only.put_iff, Only.foldl_iff, Only.ite_iff, Only.iteFst_iff, implies_true, and_self] | split)) only [Only.refl_iff, Only.set_seam, Only.each_iff, Only.step_iff (State.modSi_only _ _ _), Only.put_iff, Only.foldl_iff, Only.ite_iff, Only.iteFst_iff, implies_true, and_self]
    | split

theorem State.seamReturn_only (s : State) : Only [.seam, .ctx] [] s (State.seamReturn s) := by
  unfold State.seamReturn
  simp (disch := decide) only [Only.refl_iff, Only.set_seam, Only.step_iff (State.seamLoss_only _ _ _ _ _ _ _), Only.ite_iff, Only.iteFst_iff, implies_true, and_self]

theorem State.spillLost_only (s : State) : Only [.ev, .recd, .seam, .ctx, .fab, .out] [0x07000002, 0x07000003, 0x07000004, 0x07000005, 0x07000006, 0x07000205, 0x07000206, 0x07000207, 0x07000208, 0x08000202, 0x0A000006, 0x0A000008, 0x11000203, 0x11000204] s (State.spillLost s) := by
  unfold State.spillLost
  repeat' first
    | simp (disch := first | decide | (intro _ _; repeat' first | simp (disch := decide) only [Only.refl_iff, Only.each_iff, Only.step_iff (State.modSi_only _ _ _), Only.step_iff (State.seamEval_only _), Only.step_iff (State.seamLoss_only _ _ _ _ _ _ _)] | split)) only [Only.refl_iff, Only.each_iff, Only.step_iff (State.modSi_only _ _ _), Only.step_iff (State.seamEval_only _), Only.step_iff (State.seamLoss_only _ _ _ _ _ _ _)]
    | split

end Sys2Proof.Machine
end

