-- ==== Sys2Proof/Laws/OnlyDeck.lean ====
section
/-! SUPPORT. What the operations of Machine/Deck.lean leave alone: one lemma for each. -/

namespace Sys2Proof.Machine

theorem State.setSess_only (s : State) (i : Nat) (x : Option Sess) : Only [.deck] [0x06000203] s (State.setSess s i x) := by
  unfold State.setSess
  simp (disch := decide) only [Only.refl_iff, Only.set_deck, Only.put_iff]

theorem State.deckRates_only (s : State) : Only [] [0x06000204, 0x06000205] s (State.deckRates s) := by
  unfold State.deckRates
  simp (disch := decide) only [Only.refl_iff, Only.put_iff]

theorem State.deckShow_only (s : State) : Only [] [0x06000206, 0x06000207, 0x06000208, 0x06000209, 0x0600020D] s (State.deckShow s) := by
  unfold State.deckShow
  repeat' first
    | simp (disch := decide) only [Only.refl_iff, Only.put_iff]
    | split

theorem State.replyAdd_only (s : State) (i : Nat) (r : Rec) (count : Bool) : Only [.deck, .ctx] [0x06000203] s (State.replyAdd s i r count) := by
  unfold State.replyAdd
  repeat' first
    | simp (disch := decide) only [Only.refl_iff, Only.step_iff (State.modCtx_only _ _ _), Only.step_iff (State.setSess_only _ _ _), Only.ite_iff, Only.iteFst_iff, implies_true, and_self]
    | split

theorem State.holdShow_only (s : State) (i state : Nat) : Only [] [0x06000101, 0x06000203] s (State.holdShow s i state) := by
  unfold State.holdShow
  simp (disch := decide) only [Only.refl_iff, Only.put_iff, Only.ite_iff, Only.iteFst_iff, implies_true, and_self]

theorem State.holdFree_only (s : State) (i : Nat) : Only [.deck] [0x06000101, 0x06000102, 0x06000203] s (State.holdFree s i) := by
  unfold State.holdFree
  simp (disch := decide) only [Only.refl_iff, Only.set_deck, Only.step_iff (State.holdShow_only _ _ _), Only.put_iff]

theorem State.holdPlace_only (s : State) (i ctx tag epoch start stop : Nat) (only : Bool) : Only [.deck] [0x06000101, 0x06000203] s (State.holdPlace s i ctx tag epoch start stop only) := by
  unfold State.holdPlace
  simp (disch := decide) only [Only.refl_iff, Only.set_deck, Only.step_iff (State.holdShow_only _ _ _)]

theorem State.holdsShow_only (s : State) : Only [] [0x06000102] s (State.holdsShow s) := by
  unfold State.holdsShow
  simp (disch := first | decide | (intro _ _; simp (disch := decide) only [Only.refl_iff, Only.each_iff, Only.put_iff])) only [Only.refl_iff, Only.each_iff, Only.put_iff]

theorem State.sessEnd_only (s : State) (i : Nat) : Only [.deck, .ctx] [0x06000101, 0x06000102, 0x06000203] s (State.sessEnd s i) := by
  unfold State.sessEnd
  repeat' first
    | simp (disch := decide) only [Only.refl_iff, Only.step_iff (State.holdFree_only _ _), Only.step_iff (State.modCtx_only _ _ _), Only.step_iff (State.setSess_only _ _ _), Only.ite_iff, Only.iteFst_iff, implies_true, and_self]
    | split

theorem State.sessClose_only (s : State) (i status : Nat) (at_ : Stamp) (overtaken epochEnd : Bool) : Only [.deck, .ctx] [0x06000101, 0x06000102, 0x06000203] s (State.sessClose s i status at_ overtaken epochEnd) := by
  unfold State.sessClose
  repeat' first
    | simp (disch := decide) only [Only.refl_iff, Only.step_iff (State.holdFree_only _ _), Only.step_iff (State.replyAdd_only _ _ _ _), Only.step_iff (State.sessEnd_only _ _), Only.step_iff (State.setSess_only _ _ _), Only.step_iff (State.takeSeq_only _ _), Only.ite_iff, Only.iteFst_iff, implies_true, and_self]
    | split

theorem State.sessLoss_only (s : State) (i cause count : Nat) (key : Stamp) (first last : Tm) : Only [.deck, .ctx] [0x06000203] s (State.sessLoss s i cause count key first last) := by
  unfold State.sessLoss
  repeat' first
    | simp (disch := decide) only [Only.refl_iff, Only.step_iff (State.replyAdd_only _ _ _ _), Only.step_iff (State.takeSeq_only _ _)]
    | split

theorem State.rawSkip_only (s : State) (i : Nat) (x : Sess) : Only [.deck, .ctx] [0x06000203] s (State.rawSkip s i x) := by
  unfold State.rawSkip
  repeat' first
    | simp (disch := decide) only [Only.refl_iff, Only.step_iff (State.modCtx_only _ _ _), Only.step_iff (State.sessLoss_only _ _ _ _ _ _ _), Only.ite_iff, Only.iteFst_iff, implies_true, and_self]
    | split

theorem State.overtaken_only (s : State) (i : Nat) : Only [.ev, .recd, .deck, .ctx, .out] [0x06000101, 0x06000102, 0x06000203, 0x0600020B, 0x11000203, 0x11000204] s (State.overtaken s i) := by
  unfold State.overtaken
  repeat' first
    | simp (disch := decide) only [Only.refl_iff, Only.bump_iff, Only.step_iff (State.raise_only _ _), Only.step_iff (State.rawSkip_only _ _ _), Only.step_iff (State.sessClose_only _ _ _ _ _ _), Only.step_iff (State.sessLoss_only _ _ _ _ _ _ _), Only.ite_iff, Only.iteFst_iff, implies_true, and_self]
    | split

theorem State.holdsJudge_only (s : State) (woff : Nat) : Only [.ev, .recd, .deck, .ctx, .out] [0x06000101, 0x06000102, 0x06000203, 0x0600020B, 0x11000203, 0x11000204] s (State.holdsJudge s woff) := by
  unfold State.holdsJudge
  repeat' first
    | simp (disch := first | decide | (intro _ _; repeat' first | simp (disch := decide) only [Only.refl_iff, Only.bump_iff, Only.each_iff, Only.step_iff (State.holdFree_only _ _), Only.step_iff (State.overtaken_only _ _), Only.put_iff, Only.step_iff (State.raise_only _ _), Only.ite_iff, Only.iteFst_iff, implies_true, and_self] | split)) only [Only.refl_iff, Only.bump_iff, Only.each_iff, Only.step_iff (State.holdFree_only _ _), Only.step_iff (State.overtaken_only _ _), Only.put_iff, Only.step_iff (State.raise_only _ _), Only.ite_iff, Only.iteFst_iff, implies_true, and_self]
    | split

theorem State.thinBlock_only (s : State) (c : Nat) (b : Blk) (budget : Nat) : Only [.ev, .recd, .deck, .ctx, .out] [0x06000002, 0x11000203, 0x11000204] s (State.thinBlock s c b budget).1 := by
  unfold State.thinBlock
  repeat' first
    | simp (disch := decide) only [Only.refl_iff, Only.set_deck, Only.bump_iff, Only.step_iff (State.raise_only _ _), Only.step_iff (State.takeSeq_only _ _), Only.ite_iff, Only.iteFst_iff, implies_true, and_self]
    | split

theorem State.thinAll_only (s : State) (allow : Nat) (left : Tbl Nat) (acc : DeckOut) (thinned : List Nat) (x : List (Nat × Blk)) : Only [.ev, .recd, .deck, .ctx, .out] [0x06000002, 0x11000203, 0x11000204] s (State.thinAll s allow left acc thinned x).1 := by
  induction x generalizing s allow left acc thinned with
  | nil => exact Only.refl
  | cons a l ih =>
    unfold State.thinAll
    simp (disch := decide) only [Only.refl_iff, Only.step_iff (State.thinBlock_only _ _ _ _), Only.ite_iff, Only.iteFst_iff, implies_true, and_self, Only.step_iff (ih _ _ _ _ _)]

theorem State.deckPut_only (s : State) (d : DRec) : Only [.deck] [] s (State.deckPut s d) := by
  unfold State.deckPut
  repeat' first
    | simp (disch := decide) only [Only.refl_iff, Only.set_deck, Only.ite_iff, Only.iteFst_iff, implies_true, and_self]
    | split

theorem State.spanStart_only (s : State) (b : Stamp × Nat) : Only [.deck, .ctx] [0x06000203] s (State.spanStart s b).1 := by
  unfold State.spanStart
  repeat' first
    | simp (disch := decide) only [Only.refl_iff, Only.set_deck, Only.putB_iff, Only.step_iff (State.takeSeq_only _ _), Only.ite_iff, Only.iteFst_iff, implies_true, and_self]
    | split

theorem State.spanStarts_only (s : State) (x : List (Stamp × Nat)) : Only [.deck, .ctx] [0x06000203] s (State.spanStarts s x).1 := by
  induction x generalizing s with
  | nil => exact Only.refl
  | cons a l ih =>
    unfold State.spanStarts
    simp (disch := decide) only [Only.refl_iff, Only.step_iff (State.spanStart_only _ _), Only.step_iff (ih _)]

theorem State.deckWrites_only (s : State) (recs : List DRec) : Only [.ev, .recd, .deck, .ctx, .ddr, .out] [0x06000101, 0x06000102, 0x06000203, 0x0600020B, 0x11000203, 0x11000204] s (State.deckWrites s recs) := by
  unfold State.deckWrites
  simp (disch := first | decide | (intro _ _; simp (disch := decide) only [Only.refl_iff, Only.set_deck, Only.step_iff (State.ddrUse_only _ _ _ _ _), Only.step_iff (State.deckPut_only _ _), Only.step_iff (State.holdsJudge_only _ _), Only.foldl_iff])) only [Only.refl_iff, Only.set_deck, Only.step_iff (State.ddrUse_only _ _ _ _ _), Only.step_iff (State.deckPut_only _ _), Only.step_iff (State.holdsJudge_only _ _), Only.foldl_iff]

theorem State.boundWrite_only (s : State) : Only [.ev, .recd, .deck, .ctx, .ddr, .out] [0x06000101, 0x06000102, 0x06000203, 0x06000206, 0x06000207, 0x06000208, 0x06000209, 0x0600020B, 0x0600020D, 0x11000203, 0x11000204] s (State.boundWrite s) := by
  unfold State.boundWrite
  repeat' first
    | simp (disch := decide) only [Only.refl_iff, Only.set_deck, Only.step_iff (State.deckShow_only _), Only.step_iff (State.deckWrites_only _ _), Only.step_iff (State.holdsShow_only _), Only.step_iff (State.spanStart_only _ _), Only.ite_iff, Only.iteFst_iff, implies_true, and_self]
    | split

theorem execDeckWriteInterval_only (t : Tm) {s u : State} (hp : s.pwr.por = false) (h : execDeckWriteInterval t s = .next u) :
    Only [.ev, .recd, .deck, .ctx, .ddr, .core, .mem, .out] [0x06000002, 0x06000101, 0x06000102, 0x06000203, 0x06000206, 0x06000207, 0x06000208, 0x06000209, 0x0600020B, 0x0600020D, 0x10000001, 0x10000002, 0x11000203, 0x11000204] (s.clock t) u := by
  obtain rfl := live_next hp h
  generalize s.clock t = v
  repeat' first
    | simp (disch := decide) only [Only.refl_iff, Only.set_deck, Only.step_iff (State.boundWrite_only _), Only.step_iff (State.deckShow_only _), Only.step_iff (State.deckWrites_only _ _), Only.step_iff (State.flawNext_only _ _), Only.step_iff (State.holdsShow_only _), Only.step_iff (State.spanStarts_only _ _), Only.step_iff (State.thinAll_only _ _ _ _ _ _), Only.ite_iff, Only.iteFst_iff, implies_true, and_self]
    | split

theorem execSnippetRead_only (t : Tm) (ch : Ch) (hitTb : Tm) (levels : List Lvl) {s u : State} (hp : s.pwr.por = false) (h : execSnippetRead t ch hitTb levels s = .next u) :
    Only [.ev, .recd, .dig, .deck, .ctx, .out] [0x02000104, 0x11000203, 0x11000204] (s.clock t) u := by
  obtain rfl := live_next hp h
  generalize s.clock t = v
  repeat' first
    | simp (disch := decide) only [Only.refl_iff, Only.set_deck, Only.step_iff (State.ringRead_only _ _ _ _), Only.step_iff (State.takeSeq_only _ _), Only.ite_iff, Only.iteFst_iff, implies_true, and_self]
    | split

theorem State.deckOnline_only (s : State) (on : Bool) : Only [.ev, .recd, .deck, .out] [0x06000203, 0x11000203, 0x11000204] s (State.deckOnline s on) := by
  unfold State.deckOnline
  simp (disch := decide) only [Only.refl_iff, Only.set_deck, Only.putB_iff, Only.step_iff (State.raise_only _ _), Only.ite_iff, Only.iteFst_iff, implies_true, and_self]

theorem State.deckEmpty_only (s : State) (at_ : Stamp) : Only [.ev, .recd, .deck, .ctx, .out] [0x06000101, 0x06000102, 0x06000203, 0x06000206, 0x06000207, 0x06000208, 0x06000209, 0x0600020B, 0x0600020D, 0x11000203, 0x11000204] s (State.deckEmpty s at_) := by
  unfold State.deckEmpty
  simp (disch := first | decide | (intro _ _; simp (disch := decide) only [Only.refl_iff, Only.set_deck, Only.bump_iff, Only.step_iff (State.deckShow_only _), Only.each_iff, Only.step_iff (State.holdFree_only _ _), Only.step_iff (State.overtaken_only _ _), Only.step_iff (State.raise_only _ _)])) only [Only.refl_iff, Only.set_deck, Only.bump_iff, Only.step_iff (State.deckShow_only _), Only.each_iff, Only.step_iff (State.holdFree_only _ _), Only.step_iff (State.overtaken_only _ _), Only.step_iff (State.raise_only _ _)]

theorem State.sessLostAll_only (s : State) : Only [.deck, .ctx] [0x06000101, 0x06000102, 0x06000203] s (State.sessLostAll s) := by
  unfold State.sessLostAll
  repeat' first
    | simp (disch := first | decide | (intro _ _; repeat' first | simp (disch := decide) only [Only.refl_iff, Only.each_iff, Only.step_iff (State.sessClose_only _ _ _ _ _ _), Only.step_iff (State.sessLoss_only _ _ _ _ _ _ _)] | split)) only [Only.refl_iff, Only.each_iff, Only.step_iff (State.sessClose_only _ _ _ _ _ _), Only.step_iff (State.sessLoss_only _ _ _ _ _ _ _)]
    | split

theorem State.deckAbut_only (s : State) : Only [.ev, .recd, .deck, .ctx, .out] [0x06000101, 0x06000102, 0x06000203, 0x11000203, 0x11000204] s (State.deckAbut s) := by
  unfold State.deckAbut
  simp (disch := first | decide | (intro _ _; simp (disch := decide) only [Only.refl_iff, Only.set_deck, Only.step_iff (State.deckOnline_only _ _), Only.each_iff, Only.step_iff (State.holdFree_only _ _), Only.step_iff (State.sessEnd_only _ _)])) only [Only.refl_iff, Only.set_deck, Only.step_iff (State.deckOnline_only _ _), Only.each_iff, Only.step_iff (State.holdFree_only _ _), Only.step_iff (State.sessEnd_only _ _)]

end Sys2Proof.Machine
end

