-- ==== Sys2Proof/Laws/OnlyDdrOps.lean ====
section
/-! SUPPORT. What the operations of Machine/DdrOps.lean leave alone: one lemma for each. -/

namespace Sys2Proof.Machine

theorem State.ddrWrite_only (s : State) (addr : Nat) (bs : List Byte) : Only [.ddr] [] s (State.ddrWrite s addr bs) := by
  unfold State.ddrWrite
  simp (disch := decide) only [Only.refl_iff, Only.set_ddr]

end Sys2Proof.Machine
end

