-- ==== Sys2Proof/Laws/OnlyTrigger.lean ====
section
/-! SUPPORT. What the operations of Machine/Trigger.lean leave alone: one lemma for each. -/

namespace Sys2Proof.Machine

theorem State.setPulses_only (s : State) (x : Nat) (l : List (Tm × Tm)) : Only [.trg] [] s (State.setPulses s x l) := by
  unfold State.setPulses
  simp (disch := decide) only [Only.refl_iff, Only.set_trg]

theorem State.trigPulse_only (s : State) (x : Fin 2) (at_ : Tm) : Only [.trg, .out] [] s (State.trigPulse s x at_) := by
  unfold State.trigPulse
  simp (disch := decide) only [Only.refl_iff, Only.step_iff (State.drive_only _ _ _), Only.step_iff (State.setPulses_only _ _ _), Only.ite_iff, Only.iteFst_iff, implies_true, and_self]

theorem State.trigPulses_only (s : State) (out0 out1 : Bool) (at_ : Tm) : Only [.trg, .out] [] s (State.trigPulses s out0 out1 at_) := by
  unfold State.trigPulses
  simp (disch := decide) only [Only.refl_iff, Only.step_iff (State.trigPulse_only _ _ _), Only.ite_iff, Only.iteFst_iff, implies_true, and_self]

theorem execTrigOutPulseEnd_only (t : Tm) (pin : Fin 2) {s u : State} (hp : s.pwr.por = false) (h : execTrigOutPulseEnd t pin s = .next u) :
    Only [.trg, .out] [] (s.clock t) u := by
  obtain rfl := live_next hp h
  generalize s.clock t = v
  repeat' first
    | simp (disch := decide) only [Only.refl_iff, Only.step_iff (State.drive_only _ _ _), Only.step_iff (State.setPulses_only _ _ _), Only.ite_iff, Only.iteFst_iff, implies_true, and_self]
    | split

theorem State.rootTake_only (s : State) (f : Vc0) (arrival : Tm) (delay : Nat) : Only [.ev, .recd, .trg, .out] [0x0400030A, 0x11000203, 0x11000204] s (State.rootTake s f arrival delay) := by
  unfold State.rootTake
  simp (disch := decide) only [Only.refl_iff, Only.set_trg, Only.bump_iff, Only.step_iff (State.raise_only _ _), Only.ite_iff, Only.iteFst_iff, implies_true, and_self]

theorem execPrimitiveReceive_only (t : Tm) (port : Port) (parts : Vc0Parts) {s u : State} (hp : s.pwr.por = false) (h : execPrimitiveReceive t port parts s = .next u) :
    Only [.ev, .recd, .trg, .fab, .out] [0x0400030A, 0x0A000005, 0x11000203, 0x11000204] (s.clock t) u := by
  obtain rfl := live_next hp h
  generalize s.clock t = v
  repeat' first
    | simp (disch := decide) only [Only.refl_iff, Only.step_iff (State.rootTake_only _ _ _ _), Only.step_iff (State.vc0Arrive_only _ _ _), Only.step_iff (State.vc0Forward_only _ _ _), Only.ite_iff, Only.iteFst_iff, implies_true, and_self]
    | split

theorem State.localLoss_only (s : State) (cause unit count : Nat) (key : Stamp) (first last : Tm) : Only [.trg, .seam, .ctx, .fab, .out] [0x08000201, 0x08000202, 0x0A000006, 0x0A000008] s (State.localLoss s cause unit count key first last) := by
  unfold State.localLoss
  simp (disch := decide) only [Only.refl_iff, Only.set_trg, Only.step_iff (State.lateEmit_only _ _), Only.step_iff (State.takeSeq_only _ _), Only.ite_iff, Only.iteFst_iff, implies_true, and_self]

theorem State.accShow_only (s : State) : Only [] [0x04000308] s (State.accShow s) := by
  unfold State.accShow
  simp (disch := decide) only [Only.refl_iff, Only.put_iff]

theorem State.gapCheck_only (s : State) (f : Vc0) (port : Nat) (at_ : Stamp) : Only [.ev, .recd, .trg, .seam, .ctx, .fab, .out] [0x08000201, 0x08000202, 0x0A000006, 0x0A000008, 0x0A000207, 0x11000203, 0x11000204] s (State.gapCheck s f port at_) := by
  unfold State.gapCheck
  repeat' first
    | simp (disch := decide) only [Only.refl_iff, Only.set_fab, Only.bump_iff, Only.step_iff (State.localLoss_only _ _ _ _ _ _ _), Only.step_iff (State.raise_only _ _), Only.ite_iff, Only.iteFst_iff, implies_true, and_self]
    | split

theorem State.acceptTake_only (s : State) (f : Vc0) (arrival : Tm) : Only [.ev, .recd, .trg, .seam, .ctx, .fab, .out] [0x04000308, 0x04000309, 0x0400030A, 0x08000201, 0x08000202, 0x0A000006, 0x0A000008, 0x11000203, 0x11000204] s (State.acceptTake s f arrival) := by
  unfold State.acceptTake
  simp (disch := decide) only [Only.refl_iff, Only.set_trg, Only.step_iff (State.accShow_only _), Only.bump_iff, Only.step_iff (State.localLoss_only _ _ _ _ _ _ _), Only.step_iff (State.raise_only _ _), Only.step_iff (State.trigPulses_only _ _ _ _), Only.ite_iff, Only.iteFst_iff, implies_true, and_self]

theorem execAcceptReceive_only (t : Tm) (port : Port) (parts : Vc0Parts) {s u : State} (hp : s.pwr.por = false) (h : execAcceptReceive t port parts s = .next u) :
    Only [.ev, .recd, .trg, .seam, .ctx, .fab, .out] [0x04000308, 0x04000309, 0x0400030A, 0x08000201, 0x08000202, 0x0A000005, 0x0A000006, 0x0A000008, 0x0A000207, 0x11000203, 0x11000204] (s.clock t) u := by
  obtain rfl := live_next hp h
  generalize s.clock t = v
  repeat' first
    | simp (disch := decide) only [Only.refl_iff, Only.step_iff (State.acceptTake_only _ _ _), Only.step_iff (State.gapCheck_only _ _ _ _), Only.step_iff (State.vc0Arrive_only _ _ _), Only.step_iff (State.vc0Forward_only _ _ _), Only.ite_iff, Only.iteFst_iff, implies_true, and_self]
    | split

theorem State.acceptEmit_only (s : State) (cls : Nat) (at_ : Stamp) (uncomp nohit ext coarse : Bool) (mult : Nat) (due : Tm) : Only [.ev, .recd, .trg, .seam, .ctx, .fab, .out] [0x04000308, 0x04000309, 0x0400030A, 0x08000201, 0x08000202, 0x0A000005, 0x0A000006, 0x0A000008, 0x11000203, 0x11000204] s (State.acceptEmit s cls at_ uncomp nohit ext coarse mult due) := by
  unfold State.acceptEmit
  simp (disch := decide) only [Only.refl_iff, Only.set_trg, Only.step_iff (State.acceptTake_only _ _ _), Only.step_iff (State.trigPulses_only _ _ _ _), Only.step_iff (State.vc0Forward_only _ _ _), Only.ite_iff, Only.iteFst_iff, implies_true, and_self]

theorem State.setRootWin_only (s : State) (k : Nat) (w : Option RootWin) : Only [.trg] [] s (State.setRootWin s k w) := by
  unfold State.setRootWin
  simp (disch := decide) only [Only.refl_iff, Only.set_trg]

theorem State.rootClose_only (s : State) (k : Nat) : Only [.ev, .recd, .trg, .seam, .ctx, .fab, .out] [0x04000308, 0x04000309, 0x0400030A, 0x08000201, 0x08000202, 0x0A000005, 0x0A000006, 0x0A000008, 0x11000203, 0x11000204] s (State.rootClose s k) := by
  unfold State.rootClose
  repeat' first
    | simp (disch := decide) only [Only.refl_iff, Only.step_iff (State.acceptEmit_only _ _ _ _ _ _ _ _ _), Only.step_iff (State.setRootWin_only _ _ _), Only.ite_iff, Only.iteFst_iff, implies_true, and_self]
    | split

theorem execRootWindowClose_only (t : Tm) (cls : Fin 16) {s u : State} (hp : s.pwr.por = false) (h : execRootWindowClose t cls s = .next u) :
    Only [.ev, .recd, .trg, .seam, .ctx, .fab, .out] [0x04000308, 0x04000309, 0x0400030A, 0x08000201, 0x08000202, 0x0A000005, 0x0A000006, 0x0A000008, 0x11000203, 0x11000204] (s.clock t) u := by
  obtain rfl := live_next hp h
  generalize s.clock t = v
  repeat' first
    | simp (disch := first | decide | (intro _ _; repeat' first | simp (disch := decide) only [Only.refl_iff, Only.each_iff, Only.step_iff (State.rootClose_only _ _)] | split)) only [Only.refl_iff, Only.each_iff, Only.step_iff (State.rootClose_only _ _)]
    | split

theorem State.rootJoin_only (s : State) (p : Prim) (k : Nat) : Only [.ev, .recd, .trg, .seam, .ctx, .fab, .out] [0x04000308, 0x04000309, 0x0400030A, 0x08000201, 0x08000202, 0x0A000005, 0x0A000006, 0x0A000008, 0x11000203, 0x11000204] s (State.rootJoin s p k) := by
  unfold State.rootJoin
  repeat' first
    | simp (disch := decide) only [Only.refl_iff, Only.step_iff (State.rootClose_only _ _), Only.step_iff (State.setRootWin_only _ _ _), Only.ite_iff, Only.iteFst_iff, implies_true, and_self]
    | split

theorem execPrimitiveEqualised_only (t : Tm) (origin seq : Nat) {s u : State} (hp : s.pwr.por = false) (h : execPrimitiveEqualised t origin seq s = .next u) :
    Only [.ev, .recd, .trg, .seam, .ctx, .fab, .out] [0x04000308, 0x04000309, 0x0400030A, 0x08000201, 0x08000202, 0x0A000005, 0x0A000006, 0x0A000008, 0x11000203, 0x11000204] (s.clock t) u := by
  obtain rfl := live_next hp h
  generalize s.clock t = v
  repeat' first
    | simp (disch := first | decide | (intro _ _; repeat' first | simp (disch := decide) only [Only.refl_iff, Only.set_trg, Only.each_iff, Only.step_iff (State.rootClose_only _ _), Only.step_iff (State.rootJoin_only _ _ _), Only.ite_iff, Only.iteFst_iff, implies_true, and_self] | split)) only [Only.refl_iff, Only.set_trg, Only.each_iff, Only.step_iff (State.rootClose_only _ _), Only.step_iff (State.rootJoin_only _ _ _), Only.ite_iff, Only.iteFst_iff, implies_true, and_self]
    | split

theorem execTrigInEdge_only (t : Tm) (pin : Fin 2) (edge : PinEdge) {s u : State} (hp : s.pwr.por = false) (h : execTrigInEdge t pin edge s = .next u) :
    Only [.ev, .recd, .tdc, .trg, .seam, .ctx, .fab, .out] [0x04000308, 0x04000309, 0x0400030A, 0x08000201, 0x08000202, 0x0A000005, 0x0A000006, 0x0A000008, 0x11000203, 0x11000204] (s.clock t) u := by
  obtain rfl := live_next hp h
  generalize s.clock t = v
  repeat' first
    | simp (disch := decide) only [Only.refl_iff, Only.set_trg, Only.step_iff (State.acceptEmit_only _ _ _ _ _ _ _ _ _), Only.bump_iff, Only.step_iff (State.pinEdge_only _ _ _), Only.step_iff (State.raise_only _ _), Only.ite_iff, Only.iteFst_iff, implies_true, and_self]
    | split

theorem State.groupFire_only (s : State) (g : Nat) (at_ : Stamp) (coarse nohit : Bool) (mult : Nat) (out0 out1 : Bool) (done : Tm) : Only [.ev, .recd, .trg, .fab, .out] [0x0400010B, 0x0400030A, 0x0A000005, 0x11000203, 0x11000204] s (State.groupFire s g at_ coarse nohit mult out0 out1 done) := by
  unfold State.groupFire
  simp (disch := decide) only [Only.refl_iff, Only.set_trg, Only.bump_iff, Only.step_iff (State.rootTake_only _ _ _ _), Only.step_iff (State.trigPulses_only _ _ _ _), Only.step_iff (State.vc0Forward_only _ _ _), Only.ite_iff, Only.iteFst_iff, implies_true, and_self]

theorem State.setGrpWin_only (s : State) (g : Nat) (w : Option GrpWin) : Only [.trg] [] s (State.setGrpWin s g w) := by
  unfold State.setGrpWin
  simp (disch := decide) only [Only.refl_iff, Only.set_trg]

theorem State.groupClose_only (s : State) (g : Nat) : Only [.ev, .recd, .trg, .fab, .out] [0x0400010B, 0x0400030A, 0x0A000005, 0x11000203, 0x11000204] s (State.groupClose s g) := by
  unfold State.groupClose
  repeat' first
    | simp (disch := decide) only [Only.refl_iff, Only.step_iff (State.groupFire_only _ _ _ _ _ _ _ _ _), Only.step_iff (State.setGrpWin_only _ _ _), Only.ite_iff, Only.iteFst_iff, implies_true, and_self]
    | split

theorem execGroupWindowClose_only (t : Tm) (g : Fin 64) {s u : State} (hp : s.pwr.por = false) (h : execGroupWindowClose t g s = .next u) :
    Only [.ev, .recd, .trg, .fab, .out] [0x0400010B, 0x0400030A, 0x0A000005, 0x11000203, 0x11000204] (s.clock t) u := by
  obtain rfl := live_next hp h
  generalize s.clock t = v
  repeat' first
    | simp (disch := first | decide | (intro _ _; repeat' first | simp (disch := decide) only [Only.refl_iff, Only.each_iff, Only.step_iff (State.groupClose_only _ _)] | split)) only [Only.refl_iff, Only.each_iff, Only.step_iff (State.groupClose_only _ _)]
    | split

theorem State.groupPulse_only (s : State) (c : Nat) (at_ : Stamp) (coarse nohit : Bool) (g : Nat) : Only [.ev, .recd, .trg, .fab, .out] [0x0400010B, 0x0400030A, 0x0A000005, 0x11000203, 0x11000204] s (State.groupPulse s c at_ coarse nohit g) := by
  unfold State.groupPulse
  repeat' first
    | simp (disch := decide) only [Only.refl_iff, Only.step_iff (State.groupClose_only _ _), Only.step_iff (State.setGrpWin_only _ _ _), Only.ite_iff, Only.iteFst_iff, implies_true, and_self]
    | split

theorem State.truePulse_only (s : State) (c : Nat) (at_ : Stamp) (coarse nohit : Bool) : Only [.ev, .recd, .trg, .fab, .out] [0x04000007, 0x0400010B, 0x0400030A, 0x0A000005, 0x11000203, 0x11000204] s (State.truePulse s c at_ coarse nohit) := by
  unfold State.truePulse
  simp (disch := first | decide | (intro _ _; simp (disch := decide) only [Only.refl_iff, Only.bump_iff, Only.each_iff, Only.step_iff (State.groupPulse_only _ _ _ _ _ _), Only.ite_iff, Only.iteFst_iff, implies_true, and_self])) only [Only.refl_iff, Only.bump_iff, Only.each_iff, Only.step_iff (State.groupPulse_only _ _ _ _ _ _), Only.ite_iff, Only.iteFst_iff, implies_true, and_self]

theorem State.slewJudge_only (s : State) (c : Nat) (levels : List Lvl) : Only [.ev, .recd, .tdc, .trg, .fab, .out] [0x04000007, 0x0400010B, 0x0400030A, 0x0A000005, 0x11000203, 0x11000204] s (State.slewJudge s c levels) := by
  unfold State.slewJudge
  simp (disch := decide) only [Only.refl_iff, Only.step_iff (State.modTd_only _ _ _), Only.step_iff (State.truePulse_only _ _ _ _ _), Only.ite_iff, Only.iteFst_iff, implies_true, and_self]

theorem State.condJudge_only (s : State) (c : Nat) (h : CondHit) (levels : List Lvl) : Only [.ev, .recd, .tdc, .trg, .fab, .out] [0x04000007, 0x0400010B, 0x0400030A, 0x0A000005, 0x11000203, 0x11000204] s (State.condJudge s c h levels) := by
  unfold State.condJudge
  simp (disch := decide) only [Only.refl_iff, Only.step_iff (State.modTd_only _ _ _), Only.step_iff (State.truePulse_only _ _ _ _ _), Only.ite_iff, Only.iteFst_iff, implies_true, and_self]

theorem execConditionDecide_only (t : Tm) (ch : Ch) (levels : List Lvl) {s u : State} (hp : s.pwr.por = false) (h : execConditionDecide t ch levels s = .next u) :
    Only [.ev, .recd, .tdc, .trg, .fab, .out] [0x04000007, 0x0400010B, 0x0400030A, 0x0A000005, 0x11000203, 0x11000204] (s.clock t) u := by
  obtain rfl := live_next hp h
  generalize s.clock t = v
  repeat' first
    | simp (disch := decide) only [Only.refl_iff, Only.step_iff (State.condJudge_only _ _ _ _), Only.step_iff (State.modTd_only _ _ _), Only.step_iff (State.slewJudge_only _ _ _), Only.step_iff (State.truePulse_only _ _ _ _ _), Only.ite_iff, Only.iteFst_iff, implies_true, and_self]
    | split

theorem execTimeoutHighExpire_only (t : Tm) (ch : Ch) {s u : State} (hp : s.pwr.por = false) (h : execTimeoutHighExpire t ch s = .next u) :
    Only [.tdc] [] (s.clock t) u := by
  obtain rfl := live_next hp h
  generalize s.clock t = v
  simp (disch := decide) only [Only.refl_iff, Only.step_iff (State.modTd_only _ _ _), Only.ite_iff, Only.iteFst_iff, implies_true, and_self]

theorem execQuietTimeoutExpire_only (t : Tm) (ch : Ch) {s u : State} (hp : s.pwr.por = false) (h : execQuietTimeoutExpire t ch s = .next u) :
    Only [.tdc] [] (s.clock t) u := by
  obtain rfl := live_next hp h
  generalize s.clock t = v
  simp (disch := decide) only [Only.refl_iff, Only.step_iff (State.modTd_only _ _ _), Only.ite_iff, Only.iteFst_iff, implies_true, and_self]

theorem State.sumFire_only (s : State) (g mult : Nat) (tn : Stamp) (first : Option (Tm × Bool)) : Only [.ev, .recd, .trg, .fab, .out] [0x0400010B, 0x0400030A, 0x0A000005, 0x11000203, 0x11000204] s (State.sumFire s g mult tn first) := by
  unfold State.sumFire
  repeat' first
    | simp (disch := decide) only [Only.refl_iff, Only.set_trg, Only.step_iff (State.groupFire_only _ _ _ _ _ _ _ _ _)]
    | split

theorem execGroupSumComplete_only (t : Tm) (g : Fin 64) (n : Nat) (levels : List (Ch × Lvl)) {s u : State} (hp : s.pwr.por = false) (h : execGroupSumComplete t g n levels s = .next u) :
    Only [.ev, .recd, .dig, .trg, .fab, .out] [0x02000104, 0x0400010B, 0x0400030A, 0x0A000005, 0x11000203, 0x11000204] (s.clock t) u := by
  obtain rfl := live_next hp h
  generalize s.clock t = v
  simp (disch := first | decide | (intro _ _; simp (disch := decide) only [Only.refl_iff, Only.step_iff (State.ringRead_only _ _ _ _), Only.step_iff (State.sumFire_only _ _ _ _ _), Only.foldl_iff, Only.ite_iff, Only.iteFst_iff, implies_true, and_self])) only [Only.refl_iff, Only.step_iff (State.ringRead_only _ _ _ _), Only.step_iff (State.sumFire_only _ _ _ _ _), Only.foldl_iff, Only.ite_iff, Only.iteFst_iff, implies_true, and_self]

theorem State.accDrop_only (s : State) (a : Acc) : Only [.trg] [0x04000308] s (State.accDrop s a) := by
  unfold State.accDrop
  simp (disch := decide) only [Only.refl_iff, Only.set_trg, Only.step_iff (State.accShow_only _)]

theorem State.notServed_only (s : State) (a : Acc) (late : Bool) : Only [.ev, .recd, .trg, .seam, .ctx, .fab, .out] [0x08000201, 0x08000202, 0x0A000006, 0x0A000008, 0x11000203, 0x11000204] s (State.notServed s a late) := by
  unfold State.notServed
  simp (disch := decide) only [Only.refl_iff, Only.step_iff (State.lateEmit_only _ _), Only.step_iff (State.localLoss_only _ _ _ _ _ _ _), Only.step_iff (State.raise_only _ _), Only.step_iff (State.takeSeq_only _ _), Only.ite_iff, Only.iteFst_iff, implies_true, and_self]

theorem State.deckServe_only (s : State) (a : Acc) (x : Extract) : Only [.ev, .recd, .trg, .seam, .ctx, .fab, .out] [0x04000308, 0x08000201, 0x08000202, 0x0A000006, 0x0A000008, 0x11000203, 0x11000204] s (State.deckServe s a x) := by
  unfold State.deckServe
  simp (disch := decide) only [Only.refl_iff, Only.set_trg, Only.step_iff (State.accDrop_only _ _), Only.step_iff (State.accShow_only _), Only.step_iff (State.notServed_only _ _ _), Only.ite_iff, Only.iteFst_iff, implies_true, and_self]

theorem State.accWait_only (s : State) (a : Acc) : Only [.trg] [] s (State.accWait s a) := by
  unfold State.accWait
  simp (disch := decide) only [Only.refl_iff, Only.set_trg, Only.ite_iff, Only.iteFst_iff, implies_true, and_self]

theorem State.extractBegin_only (s : State) (a : Acc) (x : Extract) : Only [.trg] [] s (State.extractBegin s a x) := by
  unfold State.extractBegin
  simp (disch := decide) only [Only.refl_iff, Only.set_trg]

theorem State.extractOn_only (s : State) (a : Acc) (w : Option Extract) : Only [.ev, .recd, .trg, .seam, .ctx, .fab, .out] [0x0400020F, 0x04000308, 0x08000201, 0x08000202, 0x0A000006, 0x0A000008, 0x11000203, 0x11000204] s (State.extractOn s a w) := by
  unfold State.extractOn
  repeat' first
    | simp (disch := decide) only [Only.refl_iff, Only.step_iff (State.accDrop_only _ _), Only.step_iff (State.accShow_only _), Only.step_iff (State.accWait_only _ _), Only.bump_iff, Only.step_iff (State.deckServe_only _ _ _), Only.step_iff (State.extractBegin_only _ _ _), Only.step_iff (State.localLoss_only _ _ _ _ _ _ _), Only.step_iff (State.notServed_only _ _ _), Only.step_iff (State.raise_only _ _), Only.ite_iff, Only.iteFst_iff, implies_true, and_self]
    | split

theorem State.extractTake_only (s : State) (a : Acc) : Only [.ev, .recd, .trg, .seam, .ctx, .fab, .out] [0x0400020F, 0x04000308, 0x08000201, 0x08000202, 0x0A000006, 0x0A000008, 0x11000203, 0x11000204] s (State.extractTake s a) := by
  unfold State.extractTake
  simp (disch := decide) only [Only.refl_iff, Only.step_iff (State.extractOn_only _ _ _)]

theorem execExtractionStart_only (t : Tm) {s u : State} (hp : s.pwr.por = false) (h : execExtractionStart t s = .next u) :
    Only [.ev, .recd, .trg, .seam, .ctx, .fab, .out] [0x0400020F, 0x04000308, 0x08000201, 0x08000202, 0x0A000006, 0x0A000008, 0x11000203, 0x11000204] (s.clock t) u := by
  obtain rfl := live_next hp h
  generalize s.clock t = v
  repeat' first
    | simp (disch := decide) only [Only.refl_iff, Only.step_iff (State.extractTake_only _ _), Only.ite_iff, Only.iteFst_iff, implies_true, and_self]
    | split

theorem execExtractionDrop_only (t : Tm) {s u : State} (hp : s.pwr.por = false) (h : execExtractionDrop t s = .next u) :
    Only [.ev, .recd, .trg, .seam, .ctx, .fab, .out] [0x0400020F, 0x04000308, 0x08000201, 0x08000202, 0x0A000006, 0x0A000008, 0x11000203, 0x11000204] (s.clock t) u := by
  obtain rfl := live_next hp h
  generalize s.clock t = v
  repeat' first
    | simp (disch := decide) only [Only.refl_iff, Only.step_iff (State.extractTake_only _ _), Only.ite_iff, Only.iteFst_iff, implies_true, and_self]
    | split

theorem execEventBufferSpace_only (t : Tm) (bytes : Nat) {s u : State} (hp : s.pwr.por = false) (h : execEventBufferSpace t bytes s = .next u) :
    Only [.ev, .recd, .trg, .seam, .ctx, .fab, .out] [0x0400020F, 0x04000308, 0x08000201, 0x08000202, 0x0A000006, 0x0A000008, 0x11000203, 0x11000204] (s.clock t) u := by
  obtain rfl := live_next hp h
  generalize s.clock t = v
  repeat' first
    | simp (disch := decide) only [Only.refl_iff, Only.set_trg, Only.step_iff (State.extractTake_only _ _), Only.ite_iff, Only.iteFst_iff, implies_true, and_self]
    | split

theorem execExtractionEnd_only (t : Tm) (window : List (Ch × List Lvl)) {s u : State} (hp : s.pwr.por = false) (h : execExtractionEnd t window s = .next u) :
    Only [.ev, .recd, .dig, .trg, .seam, .ctx, .fab, .out] [0x02000104, 0x0400020E, 0x04000308, 0x08000201, 0x08000202, 0x0A000006, 0x0A000008, 0x11000203, 0x11000204] (s.clock t) u := by
  obtain rfl := live_next hp h
  generalize s.clock t = v
  repeat' first
    | simp (disch := first | decide | (intro _ _; repeat' first | simp (disch := decide) only [Only.refl_iff, Only.set_trg, Only.step_iff (State.accShow_only _), Only.bump_iff, Only.each_iff, Only.step_iff (State.lateEmit_only _ _), Only.step_iff (State.ringRead_only _ _ _ _), Only.step_iff (State.takeSeq_only _ _), Only.ite_iff, Only.iteFst_iff, implies_true, and_self] | split)) only [Only.refl_iff, Only.set_trg, Only.step_iff (State.accShow_only _), Only.bump_iff, Only.each_iff, Only.step_iff (State.lateEmit_only _ _), Only.step_iff (State.ringRead_only _ _ _ _), Only.step_iff (State.takeSeq_only _ _), Only.ite_iff, Only.iteFst_iff, implies_true, and_self]
    | split

end Sys2Proof.Machine
end

