-- ==== Sys2Proof/Laws/OnlyDeckRead.lean ====
section
/-! SUPPORT. What the operations of Machine/DeckRead.lean leave alone: one lemma for each. -/

namespace Sys2Proof.Machine

theorem State.reqShow_only (s : State) (c : Nat) : Only [] [0x08000015] s (State.reqShow s c) := by
  unfold State.reqShow
  simp (disch := decide) only [Only.refl_iff, Only.put_iff, Only.putB_iff]

theorem State.reqHold_only (s : State) (ctx : Nat) (r : Req) : Only [.deck] [0x06000101, 0x06000203] s (State.reqHold s ctx r) := by
  unfold State.reqHold
  repeat' first
    | simp (disch := decide) only [Only.refl_iff, Only.step_iff (State.holdPlace_only _ _ _ _ _ _ _ _), Only.ite_iff, Only.iteFst_iff, implies_true, and_self]
    | split

theorem State.rewind_only (s : State) (ctx : Nat) (desc : List Byte) : Only [.ev, .recd, .deck, .ctx, .out] [0x06000101, 0x06000102, 0x06000203, 0x0600020B, 0x08000015, 0x11000203, 0x11000204] s (State.rewind s ctx desc).1 := by
  unfold State.rewind
  simp (disch := decide) only [Only.refl_iff, Only.set_deck, Only.step_iff (State.holdsJudge_only _ _), Only.step_iff (State.holdsShow_only _), Only.step_iff (State.modCtx_only _ _ _), Only.step_iff (State.reqHold_only _ _ _), Only.step_iff (State.reqShow_only _ _), Only.ite_iff, Only.iteFst_iff, implies_true, and_self]

theorem execRewindRequest_only (t : Tm) (ctx : Ctx) (desc : List Byte) {s u : State} (hp : s.pwr.por = false) (h : execRewindRequest t ctx desc s = .next u) :
    Only [.ev, .recd, .deck, .ctx, .out] [0x06000101, 0x06000102, 0x06000203, 0x0600020B, 0x08000015, 0x11000203, 0x11000204] (s.clock t) u := by
  obtain rfl := live_next hp h
  generalize s.clock t = v
  simp (disch := decide) only [Only.refl_iff, Only.step_iff (State.rewind_only _ _ _)]

theorem State.sessOrder_only (s : State) : Only [.deck] [] s (State.sessOrder s).1 := by
  unfold State.sessOrder
  simp (disch := decide) only [Only.refl_iff, Only.set_deck]

theorem State.sessOpen_only (s : State) (i : Nat) (x : Sess) : Only [.ev, .recd, .deck, .ctx, .out] [0x06000101, 0x06000102, 0x06000203, 0x0600020B, 0x11000203, 0x11000204] s (State.sessOpen s i x) := by
  unfold State.sessOpen
  simp (disch := decide) only [Only.refl_iff, Only.bump_iff, Only.step_iff (State.holdsShow_only _), Only.step_iff (State.raise_only _ _), Only.step_iff (State.replyAdd_only _ _ _ _), Only.step_iff (State.sessClose_only _ _ _ _ _ _), Only.step_iff (State.sessLoss_only _ _ _ _ _ _ _), Only.step_iff (State.sessOrder_only _), Only.step_iff (State.setSess_only _ _ _), Only.step_iff (State.takeSeq_only _ _), Only.ite_iff, Only.iteFst_iff, implies_true, and_self]

theorem State.ctxSessOpen_only (s : State) (i c : Nat) : Only [.ev, .recd, .deck, .ctx, .out] [0x06000101, 0x06000102, 0x06000203, 0x0600020B, 0x08000015, 0x11000203, 0x11000204] s (State.ctxSessOpen s i c) := by
  unfold State.ctxSessOpen
  repeat' first
    | simp (disch := decide) only [Only.refl_iff, Only.set_deck, Only.step_iff (State.modCtx_only _ _ _), Only.step_iff (State.reqShow_only _ _), Only.step_iff (State.sessOpen_only _ _ _)]
    | split

theorem State.extSessOpen_only (s : State) (i : Nat) (e : Extract) : Only [.ev, .recd, .trg, .deck, .ctx, .out] [0x04000308, 0x06000101, 0x06000102, 0x06000203, 0x0600020B, 0x11000203, 0x11000204] s (State.extSessOpen s i e) := by
  unfold State.extSessOpen
  simp (disch := decide) only [Only.refl_iff, Only.set_trg, Only.step_iff (State.accShow_only _), Only.step_iff (State.sessOpen_only _ _ _)]

theorem execDeckSessionOpen_only (t : Tm) (sid : Fin 128) {s u : State} (hp : s.pwr.por = false) (h : execDeckSessionOpen t sid s = .next u) :
    Only [.ev, .recd, .trg, .deck, .ctx, .out] [0x04000308, 0x06000101, 0x06000102, 0x06000203, 0x0600020B, 0x08000015, 0x11000203, 0x11000204] (s.clock t) u := by
  obtain rfl := live_next hp h
  generalize s.clock t = v
  repeat' first
    | simp (disch := decide) only [Only.refl_iff, Only.step_iff (State.ctxSessOpen_only _ _ _), Only.step_iff (State.extSessOpen_only _ _ _), Only.ite_iff, Only.iteFst_iff, implies_true, and_self]
    | split

theorem State.rawPlace_only (s : State) (c : Nat) : Only [.deck] [0x06000203] s (State.rawPlace s c) := by
  unfold State.rawPlace
  repeat' first
    | simp (disch := decide) only [Only.refl_iff, Only.step_iff (State.sessOrder_only _), Only.step_iff (State.setSess_only _ _ _), Only.ite_iff, Only.iteFst_iff, implies_true, and_self]
    | split

theorem State.rawPlaceAll_only (s : State) : Only [.deck] [0x06000203] s (State.rawPlaceAll s) := by
  unfold State.rawPlaceAll
  simp (disch := first | decide | (intro _ _; simp (disch := decide) only [Only.refl_iff, Only.each_iff, Only.step_iff (State.rawPlace_only _ _)])) only [Only.refl_iff, Only.each_iff, Only.step_iff (State.rawPlace_only _ _)]

theorem State.rawNext_only (s : State) (x : Sess) : Only [.deck, .ctx] [0x06000203] s (State.rawNext s x) := by
  unfold State.rawNext
  repeat' first
    | simp (disch := decide) only [Only.refl_iff, Only.step_iff (State.modCtx_only _ _ _), Only.step_iff (State.rawPlace_only _ _)]
    | split

theorem State.sessDone_only (s : State) (i : Nat) (x : Sess) : Only [.deck, .ctx] [0x06000101, 0x06000102, 0x06000203, 0x08000015] s (State.sessDone s i x) := by
  unfold State.sessDone
  repeat' first
    | simp (disch := decide) only [Only.refl_iff, Only.step_iff (State.rawNext_only _ _), Only.step_iff (State.reqShow_only _ _), Only.step_iff (State.sessClose_only _ _ _ _ _ _), Only.ite_iff, Only.iteFst_iff, implies_true, and_self]
    | split

theorem State.sessWait_only (s : State) (i : Nat) (x : Sess) : Only [.deck] [0x06000203] s (State.sessWait s i x) := by
  unfold State.sessWait
  simp (disch := decide) only [Only.refl_iff, Only.step_iff (State.setSess_only _ _ _)]

theorem State.deckPoison_only (s : State) : Only [.ev, .recd, .out] [0x0600020C, 0x11000203, 0x11000204] s (State.deckPoison s) := by
  unfold State.deckPoison
  simp (disch := decide) only [Only.refl_iff, Only.bump_iff, Only.step_iff (State.raise_only _ _)]

theorem State.sessResume_only (s : State) (i : Nat) (x : Sess) : Only [.deck, .ctx] [0x06000203] s (State.sessResume s i x) := by
  unfold State.sessResume
  repeat' first
    | simp (disch := decide) only [Only.refl_iff, Only.step_iff (State.sessLoss_only _ _ _ _ _ _ _), Only.step_iff (State.setSess_only _ _ _), Only.ite_iff, Only.iteFst_iff, implies_true, and_self]
    | split

theorem State.sessRecord_only (s : State) (i : Nat) (x : Sess) (d : DRec) (poison : Poison) : Only [.ev, .recd, .deck, .ctx, .out] [0x06000101, 0x06000102, 0x06000203, 0x0600020C, 0x08000015, 0x11000203, 0x11000204] s (State.sessRecord s i x d poison) := by
  unfold State.sessRecord
  repeat' first
    | simp (disch := decide) only [Only.refl_iff, Only.step_iff (State.deckPoison_only _), Only.step_iff (State.replyAdd_only _ _ _ _), Only.step_iff (State.sessDone_only _ _ _), Only.step_iff (State.sessResume_only _ _ _), Only.step_iff (State.setSess_only _ _ _), Only.ite_iff, Only.iteFst_iff, implies_true, and_self]
    | split

theorem State.sessRead_only (s : State) (i : Nat) (x : Sess) (poison : Poison) : Only [.ev, .recd, .deck, .ctx, .out] [0x06000101, 0x06000102, 0x06000203, 0x0600020B, 0x0600020C, 0x08000015, 0x11000203, 0x11000204] s (State.sessRead s i x poison) := by
  unfold State.sessRead
  repeat' first
    | simp (disch := decide) only [Only.refl_iff, Only.step_iff (State.overtaken_only _ _), Only.step_iff (State.rawPlace_only _ _), Only.step_iff (State.reqShow_only _ _), Only.step_iff (State.sessDone_only _ _ _), Only.step_iff (State.sessRecord_only _ _ _ _ _), Only.step_iff (State.sessResume_only _ _ _), Only.step_iff (State.sessWait_only _ _ _), Only.ite_iff, Only.iteFst_iff, implies_true, and_self]
    | split

theorem execWritePointAdvance_only (t : Tm) (sid : Fin 128) {s u : State} (hp : s.pwr.por = false) (h : execWritePointAdvance t sid s = .next u) :
    Only [.deck] [0x06000203] (s.clock t) u := by
  obtain rfl := live_next hp h
  generalize s.clock t = v
  repeat' first
    | simp (disch := decide) only [Only.refl_iff, Only.step_iff (State.setSess_only _ _ _), Only.ite_iff, Only.iteFst_iff, implies_true, and_self]
    | split

theorem execDeckReplyToExtractor_only (t : Tm) (acceptId : Nat) (cls : Fin 16) {s u : State} (hp : s.pwr.por = false) (h : execDeckReplyToExtractor t acceptId cls s = .next u) :
    Only [.ev, .recd, .trg, .deck, .seam, .ctx, .fab, .out] [0x0400020E, 0x0400020F, 0x06000101, 0x06000102, 0x06000203, 0x08000201, 0x08000202, 0x0A000006, 0x0A000008, 0x11000203, 0x11000204] (s.clock t) u := by
  obtain rfl := live_next hp h
  generalize s.clock t = v
  repeat' first
    | simp (disch := decide) only [Only.refl_iff, Only.set_trg, Only.bump_iff, Only.step_iff (State.lateEmit_only _ _), Only.step_iff (State.raise_only _ _), Only.step_iff (State.sessEnd_only _ _), Only.step_iff (State.takeSeq_only _ _), Only.ite_iff, Only.iteFst_iff, implies_true, and_self]
    | split

theorem State.deckService_only (s : State) (on : Bool) : Only [.ev, .recd, .trg, .deck, .seam, .ctx, .fab, .out] [0x04000308, 0x06000203, 0x08000201, 0x08000202, 0x0A000006, 0x0A000008, 0x11000203, 0x11000204] s (State.deckService s on) := by
  unfold State.deckService
  simp (disch := first | decide | (intro _ _; simp (disch := decide) only [Only.refl_iff, Only.set_trg, Only.step_iff (State.accShow_only _), Only.step_iff (State.deckOnline_only _ _), Only.step_iff (State.notServed_only _ _ _), Only.foldl_iff, Only.ite_iff, Only.iteFst_iff, implies_true, and_self])) only [Only.refl_iff, Only.set_trg, Only.step_iff (State.accShow_only _), Only.step_iff (State.deckOnline_only _ _), Only.step_iff (State.notServed_only _ _ _), Only.foldl_iff, Only.ite_iff, Only.iteFst_iff, implies_true, and_self]

theorem State.rewindCancel_only (s : State) (c : Nat) : Only [.deck, .ctx] [0x06000101, 0x06000102, 0x06000203, 0x08000015] s (State.rewindCancel s c) := by
  unfold State.rewindCancel
  repeat' first
    | simp (disch := first | decide | (intro _ _; repeat' first | simp (disch := decide) only [Only.refl_iff, Only.set_deck, Only.each_iff, Only.step_iff (State.holdFree_only _ _), Only.step_iff (State.modCtx_only _ _ _), Only.step_iff (State.reqShow_only _ _), Only.step_iff (State.sessEnd_only _ _)] | split)) only [Only.refl_iff, Only.set_deck, Only.each_iff, Only.step_iff (State.holdFree_only _ _), Only.step_iff (State.modCtx_only _ _ _), Only.step_iff (State.reqShow_only _ _), Only.step_iff (State.sessEnd_only _ _)]
    | split

end Sys2Proof.Machine
end

