-- ==== Sys2Proof/Laws/OnlyLoop.lean ====
section
/-! SUPPORT. What the operations of Machine/Loop.lean leave alone: one lemma for each. -/

namespace Sys2Proof.Machine

theorem State.loopMode_only (s : State) (t : Nat) : Only [.loop] [0x01000101, 0x05000110, 0x05000113] s (State.loopMode s t) := by
  unfold State.loopMode
  simp (disch := decide) only [Only.refl_iff, Only.step_iff (State.modLp_only _ _ _), Only.put_iff, Only.putB_iff, Only.ite_iff, Only.iteFst_iff, implies_true, and_self]

theorem State.loopTileStart_only (s : State) (t : Nat) : Only [.dig, .loop] [0x01000101, 0x02000107, 0x05000110, 0x05000113] s (State.loopTileStart s t) := by
  unfold State.loopTileStart
  simp (disch := decide) only [Only.refl_iff, Only.step_iff (State.loopMode_only _ _), Only.step_iff (State.modHk_only _ _ _), Only.step_iff (State.modLp_only _ _ _), Only.step_iff (State.urgent_only _ _ _ _ _ _), Only.ite_iff, Only.iteFst_iff, implies_true, and_self]

theorem execLoopPeriodStart_only (t : Tm) {s u : State} (hp : s.pwr.por = false) (h : execLoopPeriodStart t s = .next u) :
    Only [.dig, .loop] [0x01000101, 0x02000107, 0x05000110, 0x05000113] (s.clock t) u := by
  obtain rfl := live_next hp h
  generalize s.clock t = v
  simp (disch := first | decide | (intro _ _; simp (disch := decide) only [Only.refl_iff, Only.set_loop, Only.each_iff, Only.step_iff (State.loopTileStart_only _ _), Only.ite_iff, Only.iteFst_iff, implies_true, and_self])) only [Only.refl_iff, Only.set_loop, Only.each_iff, Only.step_iff (State.loopTileStart_only _ _), Only.ite_iff, Only.iteFst_iff, implies_true, and_self]

theorem State.loopTemp_only (s : State) (t : Nat) : Only [.ev, .recd, .loop, .out] [0x05000113, 0x11000203, 0x11000204] s (State.loopTemp s t) := by
  unfold State.loopTemp
  repeat' first
    | simp (disch := decide) only [Only.refl_iff, Only.step_iff (State.modLp_only _ _ _), Only.putB_iff, Only.step_iff (State.raiseIf_only _ _ _)]
    | split

theorem State.loopCur_only (s : State) (t : Nat) : Only [.loop] [0x05000112, 0x05000113] s (State.loopCur s t) := by
  unfold State.loopCur
  simp (disch := first | decide | (intro _ _; simp (disch := decide) only [Only.refl_iff, Only.step_iff (State.modLp_only _ _ _), Only.put_iff, Only.putB_iff, Only.foldl_iff, Only.ite_iff, Only.iteFst_iff, implies_true, and_self])) only [Only.refl_iff, Only.step_iff (State.modLp_only _ _ _), Only.put_iff, Only.putB_iff, Only.foldl_iff, Only.ite_iff, Only.iteFst_iff, implies_true, and_self]

theorem execLoopCompute_only (t : Tm) (tile : Tile) {s u : State} (hp : s.pwr.por = false) (h : execLoopCompute t tile s = .next u) :
    Only [.ev, .recd, .loop, .out] [0x05000112, 0x05000113, 0x11000203, 0x11000204] (s.clock t) u := by
  obtain rfl := live_next hp h
  generalize s.clock t = v
  repeat' first
    | simp (disch := decide) only [Only.refl_iff, Only.set_loop, Only.step_iff (State.loopCur_only _ _), Only.step_iff (State.loopTemp_only _ _), Only.step_iff (State.modLp_only _ _ _), Only.ite_iff, Only.iteFst_iff, implies_true, and_self]
    | split

theorem State.loopTelem_only (s : State) (t : Nat) (t0 : Tm) (settle : Bool) : Only [.ev, .recd, .loop, .ctx, .out] [0x08000015, 0x08000203, 0x11000203, 0x11000204] s (State.loopTelem s t t0 settle) := by
  unfold State.loopTelem
  simp (disch := decide) only [Only.refl_iff, Only.step_iff (State.modLp_only _ _ _), Only.step_iff (State.monEmit_only _ _), Only.ite_iff, Only.iteFst_iff, implies_true, and_self]

theorem State.loopShow_only (s : State) (before : Nat) (t : Tile) : Only [.out] [0x05000114] s (State.loopShow s before t) := by
  unfold State.loopShow
  simp (disch := decide) only [Only.refl_iff, Only.step_iff (State.hvDrive_only _ _ _), Only.put_iff]

theorem State.loopApply_only (s : State) (t : Tile) (u : Int) : Only [.afe, .dig, .loop, .out] [0x01000004, 0x01000008, 0x05000113, 0x05000114, 0x05000116] s (State.loopApply s t u) := by
  unfold State.loopApply
  repeat' first
    | simp (disch := decide) only [Only.refl_iff, Only.step_iff (State.applyTrims_only _ _), Only.step_iff (State.loopShow_only _ _ _), Only.step_iff (State.modFe_only _ _ _), Only.step_iff (State.modLp_only _ _ _), Only.putB_iff, Only.ite_iff, Only.iteFst_iff, implies_true, and_self]
    | split

theorem State.loopTileEnd_only (s : State) (t0 : Tm) (t : Tile) : Only [.ev, .recd, .afe, .dig, .loop, .ctx, .out] [0x01000004, 0x01000008, 0x05000113, 0x05000114, 0x05000116, 0x08000015, 0x08000203, 0x11000203, 0x11000204] s (State.loopTileEnd s t0 t) := by
  unfold State.loopTileEnd
  repeat' first
    | simp (disch := decide) only [Only.refl_iff, Only.bump_iff, Only.step_iff (State.loopApply_only _ _ _), Only.step_iff (State.loopClear_only _ _), Only.step_iff (State.loopTelem_only _ _ _ _), Only.step_iff (State.modLp_only _ _ _), Only.putB_iff, Only.step_iff (State.raise_only _ _), Only.ite_iff, Only.iteFst_iff, implies_true, and_self]
    | split

theorem State.eachTile_iff {ps : List Part} {rs : List Nat} {s u : State} {f : State → Tile → State}
    (hf : ∀ v t, Only ps rs v (f v t)) : Only ps rs s (u.eachTile f) ↔ Only ps rs s u :=
  Only.each_iff fun v a => by split; exacts [hf v _, Only.refl]

theorem execLoopOutputApply_only (t : Tm) {s u : State} (hp : s.pwr.por = false) (h : execLoopOutputApply t s = .next u) :
    Only [.ev, .recd, .afe, .dig, .loop, .ctx, .out] [0x01000004, 0x01000008, 0x05000113, 0x05000114, 0x05000116, 0x08000015, 0x08000203, 0x11000203, 0x11000204] (s.clock t) u := by
  obtain rfl := live_next hp h
  generalize s.clock t = v
  repeat' first
    | simp (disch := first | decide | (intro _ _; repeat' first | simp (disch := decide) only [Only.refl_iff, Only.set_loop, State.eachTile_iff, Only.step_iff (State.loopTileEnd_only _ _ _), Only.ite_iff, Only.iteFst_iff, implies_true, and_self] | split)) only [Only.refl_iff, Only.set_loop, State.eachTile_iff, Only.step_iff (State.loopTileEnd_only _ _ _), Only.ite_iff, Only.iteFst_iff, implies_true, and_self]
    | split

theorem execCurHoldExpire_only (t : Tm) (tile : Tile) {s u : State} (hp : s.pwr.por = false) (h : execCurHoldExpire t tile s = .next u) :
    Only [.ev, .recd, .out] [0x05000113, 0x11000203, 0x11000204] (s.clock t) u := by
  obtain rfl := live_next hp h
  generalize s.clock t = v
  repeat' first
    | simp (disch := decide) only [Only.refl_iff, Only.putB_iff, Only.step_iff (State.raise_only _ _), Only.ite_iff, Only.iteFst_iff, implies_true, and_self]
    | split

theorem State.manWrite_only (s : State) (t : Tile) : Only [.afe, .dig, .loop, .out] [0x01000004, 0x01000008, 0x05000114, 0x05000116] s (State.manWrite s t) := by
  unfold State.manWrite
  simp (disch := decide) only [Only.refl_iff, Only.step_iff (State.applyTrims_only _ _), Only.step_iff (State.loopShow_only _ _ _), Only.step_iff (State.modFe_only _ _ _), Only.step_iff (State.modLp_only _ _ _), Only.ite_iff, Only.iteFst_iff, implies_true, and_self]

theorem State.dutyWrite_only (s : State) (t : Tile) : Only [.loop, .out] [0x05000114] s (State.dutyWrite s t) := by
  unfold State.dutyWrite
  simp (disch := decide) only [Only.refl_iff, Only.step_iff (State.loopShow_only _ _ _), Only.step_iff (State.modLp_only _ _ _), Only.ite_iff, Only.iteFst_iff, implies_true, and_self]

theorem State.loopFreeze_only (s : State) : Only [.loop] [0x05000113] s (State.loopFreeze s) := by
  unfold State.loopFreeze
  simp (disch := first | decide | (intro _ _; simp (disch := decide) only [Only.refl_iff, Only.each_iff, Only.step_iff (State.loopClear_only _ _), Only.step_iff (State.modLp_only _ _ _)])) only [Only.refl_iff, Only.each_iff, Only.step_iff (State.loopClear_only _ _), Only.step_iff (State.modLp_only _ _ _)]

theorem State.loopThaw_only (s : State) : Only [.loop] [0x01000101, 0x05000101, 0x05000110, 0x05000113] s (State.loopThaw s) := by
  unfold State.loopThaw
  simp (disch := first | decide | (intro _ _; simp (disch := decide) only [Only.refl_iff, Only.each_iff, Only.step_iff (State.modLp_only _ _ _), Only.put_iff, Only.putB_iff, Only.ite_iff, Only.iteFst_iff, implies_true, and_self])) only [Only.refl_iff, Only.each_iff, Only.step_iff (State.modLp_only _ _ _), Only.put_iff, Only.putB_iff, Only.ite_iff, Only.iteFst_iff, implies_true, and_self]

end Sys2Proof.Machine
end

