-- ==== Sys2Proof/Laws/OnlyContexts.lean ====
section
/-! SUPPORT. What the operations of Machine/Contexts.lean leave alone: one lemma for each. -/

namespace Sys2Proof.Machine

theorem State.dma_only (s : State) (addr : Nat) (bs : List Byte) : Only [.host, .out] [] s (State.dma s addr bs) := by
  unfold State.dma
  simp (disch := decide) only [Only.refl_iff, Only.set_host, Only.step_iff (State.emit_only _ _)]

theorem State.dmaData_only (s : State) (addr : Nat) (bs : List Byte) : Only [.host, .out] [] s (State.dmaData s addr bs) := by
  unfold State.dmaData
  simp (disch := first | decide | (intro _ _; simp (disch := decide) only [Only.refl_iff, Only.step_iff (State.dma_only _ _ _), Only.foldl_iff])) only [Only.refl_iff, Only.step_iff (State.dma_only _ _ _), Only.foldl_iff]

theorem State.dmaGot_only (s : State) (n : Nat) : Only [.host] [] s (State.dmaGot s n) := by
  unfold State.dmaGot
  simp (disch := decide) only [Only.refl_iff, Only.set_host]

theorem State.linkShow_only (s : State) : Only [.ev, .recd, .out] [0x08000101, 0x08000102, 0x11000203, 0x11000204] s (State.linkShow s) := by
  unfold State.linkShow
  simp (disch := first | decide | (intro _ _; simp (disch := decide) only [Only.refl_iff, Only.each_iff, Only.put_iff, Only.putB_iff, Only.step_iff (State.raiseIf_only _ _ _)])) only [Only.refl_iff, Only.each_iff, Only.put_iff, Only.putB_iff, Only.step_iff (State.raiseIf_only _ _ _)]

theorem State.srcDrop_only (s : State) (c i : Nat) : Only [.ev, .recd, .seam, .ctx, .fab, .core, .mem, .out] [0x07000002, 0x07000003, 0x07000004, 0x07000005, 0x07000006, 0x07000205, 0x07000206, 0x07000207, 0x07000208, 0x08000201, 0x08000202, 0x0A000006, 0x0A000008, 0x10000001, 0x10000002, 0x11000203, 0x11000204] s (State.srcDrop s c i).1 := by
  unfold State.srcDrop
  repeat' first
    | simp (disch := decide) only [Only.refl_iff, Only.step_iff (State.egressMoved_only _), Only.step_iff (State.flawAt_only _ _ _), Only.step_iff (State.flawNext_only _ _), Only.step_iff (State.modCtx_only _ _ _), Only.ite_iff, Only.iteFst_iff, implies_true, and_self]
    | split

theorem State.srcTake_only (s : State) (c i : Nat) {p} (h : (State.srcTake s c i) = some p) : Only [.ev, .recd, .seam, .ctx, .fab, .core, .mem, .out] [0x07000002, 0x07000003, 0x07000004, 0x07000005, 0x07000006, 0x07000205, 0x07000206, 0x07000207, 0x07000208, 0x08000201, 0x08000202, 0x0A000006, 0x0A000008, 0x10000001, 0x10000002, 0x11000203, 0x11000204] s p.1 := by
  unfold State.srcTake at h
  (repeat' split at h) <;> first
    | (cases h; done)
    | (obtain rfl := Option.some.inj h; simp (disch := decide) only [Only.refl_iff, Only.step_iff (State.modCtx_only _ _ _), Only.step_iff (State.srcDrop_only _ _ _), Only.ite_iff, Only.iteFst_iff, implies_true, and_self])

theorem State.srcAttach_only (s : State) (c i : Nat) : Only [.ctx] [] s (State.srcAttach s c i) := by
  unfold State.srcAttach
  simp (disch := decide) only [Only.refl_iff, Only.step_iff (State.modCtx_only _ _ _), Only.ite_iff, Only.iteFst_iff, implies_true, and_self]

theorem State.srcDetach_only (s : State) (c i : Nat) : Only [.ev, .recd, .deck, .seam, .ctx, .fab, .out] [0x06000101, 0x06000102, 0x06000203, 0x07000002, 0x07000003, 0x07000004, 0x07000005, 0x07000006, 0x07000205, 0x07000206, 0x07000207, 0x07000208, 0x08000015, 0x08000201, 0x08000202, 0x0A000006, 0x0A000008, 0x11000203, 0x11000204] s (State.srcDetach s c i) := by
  unfold State.srcDetach
  repeat' first
    | simp (disch := first | decide | (intro _ _; repeat' first | simp (disch := decide) only [Only.refl_iff, Only.each_iff, Only.step_iff (State.egressMoved_only _), Only.step_iff (State.modCtx_only _ _ _), Only.step_iff (State.rewindCancel_only _ _), Only.step_iff (State.sessEnd_only _ _), Only.ite_iff, Only.iteFst_iff, implies_true, and_self] | split)) only [Only.refl_iff, Only.each_iff, Only.step_iff (State.egressMoved_only _), Only.step_iff (State.modCtx_only _ _ _), Only.step_iff (State.rewindCancel_only _ _), Only.step_iff (State.sessEnd_only _ _), Only.ite_iff, Only.iteFst_iff, implies_true, and_self]
    | split

theorem State.ctxSources_only (s : State) (c : Nat) : Only [.ev, .recd, .deck, .seam, .ctx, .fab, .out] [0x06000101, 0x06000102, 0x06000203, 0x07000002, 0x07000003, 0x07000004, 0x07000005, 0x07000006, 0x07000205, 0x07000206, 0x07000207, 0x07000208, 0x08000015, 0x08000201, 0x08000202, 0x0A000006, 0x0A000008, 0x11000203, 0x11000204] s (State.ctxSources s c) := by
  unfold State.ctxSources
  simp (disch := first | decide | (intro _ _; simp (disch := decide) only [Only.refl_iff, Only.each_iff, Only.step_iff (State.srcAttach_only _ _ _), Only.step_iff (State.srcDetach_only _ _ _), Only.ite_iff, Only.iteFst_iff, implies_true, and_self])) only [Only.refl_iff, Only.each_iff, Only.step_iff (State.srcAttach_only _ _ _), Only.step_iff (State.srcDetach_only _ _ _), Only.ite_iff, Only.iteFst_iff, implies_true, and_self]

theorem State.setFlight_only (s : State) (l : Nat) (us : List CtxUnit) : Only [.ctx] [] s (State.setFlight s l us) := by
  unfold State.setFlight
  simp (disch := decide) only [Only.refl_iff, Only.set_ctx]

theorem State.unitBegin_only (s : State) (c i need : Nat) (r : List Byte) (key : Stamp) (keep : Bool) (u : CtxUnit) : Only [.ctx] [] s (State.unitBegin s c i need r key keep u).1 := by
  unfold State.unitBegin
  simp (disch := decide) only [Only.refl_iff, Only.step_iff (State.modCtx_only _ _ _), Only.ite_iff, Only.iteFst_iff, implies_true, and_self]

theorem State.unitCut_only (s : State) (c need : Nat) (u : CtxUnit) : Only [.ctx] [] s (State.unitCut s c need u).1 := by
  unfold State.unitCut
  simp (disch := decide) only [Only.refl_iff, Only.step_iff (State.modCtx_only _ _ _), Only.ite_iff, Only.iteFst_iff, implies_true, and_self]

theorem State.unitFill_only (s : State) (c i size : Nat) (u : CtxUnit) (x : Nat) : Only [.ev, .recd, .seam, .ctx, .fab, .core, .mem, .out] [0x07000002, 0x07000003, 0x07000004, 0x07000005, 0x07000006, 0x07000205, 0x07000206, 0x07000207, 0x07000208, 0x08000201, 0x08000202, 0x0A000006, 0x0A000008, 0x10000001, 0x10000002, 0x11000203, 0x11000204] s (State.unitFill s c i size u x).1 := by
  induction x generalizing s c i size u with
  | zero => exact Only.refl
  | succ k ih =>
    unfold State.unitFill
    split
    · exact Only.refl
    · split
      · exact Only.refl
      · rename_i h
        exact (Only.step_iff (ih _ _ _ _ _) (by decide) (by decide)).2 ((Only.step_iff (State.unitBegin_only ..) (by decide) (by decide)).2 (State.srcTake_only _ _ _ h))

theorem State.unitPlain_only (s : State) (c size : Nat) {p} (h : (State.unitPlain s c size) = some p) : Only [.ev, .recd, .seam, .ctx, .fab, .core, .mem, .out] [0x07000002, 0x07000003, 0x07000004, 0x07000005, 0x07000006, 0x07000205, 0x07000206, 0x07000207, 0x07000208, 0x08000201, 0x08000202, 0x0A000006, 0x0A000008, 0x10000001, 0x10000002, 0x11000203, 0x11000204] s p.1 := by
  unfold State.unitPlain at h
  dsimp only at h
  (repeat' split at h) <;> first
    | (cases h; done)
    | (obtain rfl := Option.some.inj h; simp (disch := decide) only [Only.refl_iff, Only.set_ctx, Only.step_iff (State.modCtx_only _ _ _), Only.step_iff (State.unitBegin_only _ _ _ _ _ _ _ _), Only.step_iff (State.unitCut_only _ _ _ _), Only.step_iff (State.unitFill_only _ _ _ _ _ _), Only.ite_iff, Only.iteFst_iff, implies_true, and_self])

theorem State.jobFill_only (s : State) (c i : Nat) (stop : Stamp) (u : CtxUnit) (x : Nat) : Only [.ev, .recd, .seam, .ctx, .fab, .core, .mem, .out] [0x07000002, 0x07000003, 0x07000004, 0x07000005, 0x07000006, 0x07000205, 0x07000206, 0x07000207, 0x07000208, 0x08000201, 0x08000202, 0x0A000006, 0x0A000008, 0x10000001, 0x10000002, 0x11000203, 0x11000204] s (State.jobFill s c i stop u x).1 := by
  induction x generalizing s c i stop u with
  | zero => exact Only.refl
  | succ k ih =>
    unfold State.jobFill
    split
    · exact Only.refl
    · split
      · exact Only.refl
      · split
        · exact Only.refl
        · split
          · exact Only.refl
          · split
            · exact Only.refl
            · rename_i h
              exact (Only.step_iff (ih _ _ _ _ _) (by decide) (by decide)).2 ((Only.step_iff (State.unitBegin_only ..) (by decide) (by decide)).2 (State.srcTake_only _ _ _ h))

theorem State.unitJob_only (s : State) (c : Nat) {p} (h : (State.unitJob s c) = some p) : Only [.ev, .recd, .seam, .ctx, .fab, .core, .mem, .out] [0x07000002, 0x07000003, 0x07000004, 0x07000005, 0x07000006, 0x07000205, 0x07000206, 0x07000207, 0x07000208, 0x08000201, 0x08000202, 0x0A000006, 0x0A000008, 0x10000001, 0x10000002, 0x11000203, 0x11000204] s p.1 := by
  unfold State.unitJob at h
  dsimp only at h
  split at h
  · (repeat' split at h) <;> first
      | (cases h; done)
      | (obtain rfl := Option.some.inj h; simp (disch := decide) only [Only.refl_iff, Only.step_iff (State.jobFill_only _ _ _ _ _ _), Only.step_iff (State.modCtx_only _ _ _), Only.step_iff (State.unitCut_only _ _ _ _), Only.ite_iff, Only.iteFst_iff, implies_true, and_self])
  · split at h
    · rename_i h'
      obtain rfl := Option.some.inj h
      obtain ⟨i, _, hi⟩ := List.exists_of_findSome?_eq_some h'
      (repeat' split at hi) <;> first
        | (cases hi; done)
        | (obtain rfl := Option.some.inj hi; simp (disch := decide) only [Only.refl_iff, Only.step_iff (State.jobFill_only _ _ _ _ _ _), Only.step_iff (State.modCtx_only _ _ _), Only.step_iff (State.unitCut_only _ _ _ _), Only.ite_iff, Only.iteFst_iff, implies_true, and_self])
    · cases h

theorem State.unitAgain_only (s : State) (c : Nat) {p} (h : (State.unitAgain s c) = some p) : Only [.ctx] [] s p.1 := by
  unfold State.unitAgain at h
  (repeat' split at h) <;> first
    | (cases h; done)
    | (obtain rfl := Option.some.inj h; simp (disch := decide) only [Only.refl_iff, Only.step_iff (State.modCtx_only _ _ _)])

theorem State.unitNext_only (s : State) (c : Nat) {p} (h : (State.unitNext s c) = some p) : Only [.ev, .recd, .seam, .ctx, .fab, .core, .mem, .out] [0x07000002, 0x07000003, 0x07000004, 0x07000005, 0x07000006, 0x07000205, 0x07000206, 0x07000207, 0x07000208, 0x08000201, 0x08000202, 0x0A000006, 0x0A000008, 0x10000001, 0x10000002, 0x11000203, 0x11000204] s p.1 := by
  unfold State.unitNext at h
  split at h
  · split at h
    · rename_i h'
      obtain rfl := Option.some.inj h
      exact (State.unitAgain_only _ _ h').mono (by decide) (by decide)
    · exact (State.unitJob_only _ _ h).mono (by decide) (by decide)
  · exact (State.unitPlain_only _ _ _ h).mono (by decide) (by decide)

theorem State.ctxEval_only (s : State) (c : Nat) : Only [.ev, .recd, .out] [0x08000015, 0x08000019, 0x11000203, 0x11000204] s (State.ctxEval s c) := by
  unfold State.ctxEval
  repeat' first
    | simp (disch := decide) only [Only.refl_iff, Only.put_iff, Only.putB_iff, Only.step_iff (State.raiseIf_only _ _ _), Only.ite_iff, Only.iteFst_iff, implies_true, and_self]
    | split

theorem State.grantable_only (s : State) (c l : Nat) {p} (h : (State.grantable s c l) = some p) : Only [.ev, .recd, .seam, .ctx, .fab, .core, .mem, .out] [0x07000002, 0x07000003, 0x07000004, 0x07000005, 0x07000006, 0x07000205, 0x07000206, 0x07000207, 0x07000208, 0x08000201, 0x08000202, 0x0A000006, 0x0A000008, 0x10000001, 0x10000002, 0x11000203, 0x11000204] s p.1 := by
  unfold State.grantable at h
  dsimp only at h
  split at h
  · cases h
  · rename_i h'
    split at h
    · obtain rfl := Option.some.inj h
      split at h'
      · exact (State.unitNext_only _ _ h').mono (by decide) (by decide)
      · exact (State.unitPlain_only _ _ _ h').mono (by decide) (by decide)
    · cases h

theorem State.grant_only (s : State) (l c : Nat) (p : State × CtxUnit) : Only [.ctx, .press] [0x09000001] p.1 (State.grant s l c p) := by
  unfold State.grant
  repeat' first
    | simp (disch := decide) only [Only.refl_iff, Only.set_ctx, Only.set_press, Only.step_iff (State.modCtx_only _ _ _), Only.put_iff, Only.step_iff (State.setFlight_only _ _ _), Only.ite_iff, implies_true, and_self]
    | split

theorem State.visit_only (s : State) (l k : Nat) (x : List Nat) : Only [.ev, .recd, .seam, .ctx, .fab, .core, .mem, .press, .out] [0x07000002, 0x07000003, 0x07000004, 0x07000005, 0x07000006, 0x07000205, 0x07000206, 0x07000207, 0x07000208, 0x08000019, 0x08000201, 0x08000202, 0x09000001, 0x0A000006, 0x0A000008, 0x10000001, 0x10000002, 0x11000203, 0x11000204] s (State.visit s l k x) := by
  induction x generalizing s l k with
  | nil => exact Only.refl
  | cons a tl ih =>
    unfold State.visit
    dsimp only
    cases h : (s.put P.CTX_DEFICIT_BYTES a _).grantable a l with
    | none => exact ih _ _ _
    | some p =>
      have hg := State.grantable_only _ _ _ h
      dsimp only [Option.elim]
      split
      · simp (disch := decide) only [Only.put_iff, Only.step_iff (State.grant_only _ _ _ _), Only.set_ctx]
        refine Only.trans ((Only.put_iff (f := P.CTX_DEFICIT_BYTES) (by decide) (by decide)).2 Only.refl)
          (hg.mono (by decide) (by decide))
      · simp (disch := decide) only [Only.step_iff (ih _ _ _), Only.set_ctx, Only.put_iff, Only.refl_iff]

theorem State.classGrant_only (s : State) (l k : Nat) (cs : List Nat) : Only [.ev, .recd, .seam, .ctx, .fab, .core, .mem, .press, .out] [0x07000002, 0x07000003, 0x07000004, 0x07000005, 0x07000006, 0x07000205, 0x07000206, 0x07000207, 0x07000208, 0x08000019, 0x08000201, 0x08000202, 0x09000001, 0x0A000006, 0x0A000008, 0x10000001, 0x10000002, 0x11000203, 0x11000204] s (State.classGrant s l k cs) := by
  unfold State.classGrant
  dsimp only
  split
  · exact (State.visit_only _ _ _ _).mono (by decide) (by decide)
  · split
    · exact (State.visit_only _ _ _ _).mono (by decide) (by decide)
    · rename_i h
      split
      · simp (disch := decide) only [Only.put_iff, Only.step_iff (State.grant_only _ _ _ _)]
        exact (State.grantable_only _ _ _ h).mono (by decide) (by decide)
      · exact (State.visit_only _ _ _ _).mono (by decide) (by decide)

theorem State.floorGrant_only (s : State) (l c : Nat) : Only [.ev, .recd, .seam, .ctx, .fab, .core, .mem, .press, .out] [0x07000002, 0x07000003, 0x07000004, 0x07000005, 0x07000006, 0x07000205, 0x07000206, 0x07000207, 0x07000208, 0x08000015, 0x08000018, 0x08000201, 0x08000202, 0x09000001, 0x0A000006, 0x0A000008, 0x10000001, 0x10000002, 0x11000203, 0x11000204] s (State.floorGrant s l c) := by
  unfold State.floorGrant
  split
  · exact Only.refl
  · rename_i h
    simp (disch := decide) only [Only.set_ctx, Only.bump_iff, Only.putB_iff, Only.step_iff (State.grant_only _ _ _ _)]
    exact (State.grantable_only _ _ _ h).mono (by decide) (by decide)

theorem execSchedulerGrant_only (t : Tm) (link : Fin 6) {s u : State} (hp : s.pwr.por = false) (h : execSchedulerGrant t link s = .next u) :
    Only [.ev, .recd, .seam, .ctx, .fab, .core, .mem, .press, .out] [0x07000002, 0x07000003, 0x07000004, 0x07000005, 0x07000006, 0x07000205, 0x07000206, 0x07000207, 0x07000208, 0x08000015, 0x08000018, 0x08000019, 0x08000201, 0x08000202, 0x09000001, 0x0A000006, 0x0A000008, 0x10000001, 0x10000002, 0x11000203, 0x11000204] (s.clock t) u := by
  obtain rfl := live_next hp h
  generalize s.clock t = v
  repeat' first
    | simp (disch := first | decide | (intro _ _; repeat' first | simp (disch := decide) only [Only.refl_iff, Only.step_iff (State.classGrant_only _ _ _ _), Only.step_iff (State.ctxEval_only _ _), Only.each_iff, Only.step_iff (State.floorGrant_only _ _ _), Only.ite_iff, Only.iteFst_iff, implies_true, and_self] | split)) only [Only.refl_iff, Only.step_iff (State.classGrant_only _ _ _ _), Only.step_iff (State.ctxEval_only _ _), Only.each_iff, Only.step_iff (State.floorGrant_only _ _ _), Only.ite_iff, Only.iteFst_iff, implies_true, and_self]
    | split

theorem State.ctxNotify_only (s : State) (c : Nat) : Only [.ev, .recd, .ctx, .out] [0x11000203, 0x11000204] s (State.ctxNotify s c) := by
  unfold State.ctxNotify
  simp (disch := decide) only [Only.refl_iff, Only.step_iff (State.modCtx_only _ _ _), Only.step_iff (State.raise_only _ _), Only.ite_iff, Only.iteFst_iff, implies_true, and_self]

theorem State.bufBack_only (s : State) (c : Nat) (b : Buf) (used : Nat) (flushed : Bool) : Only [.ev, .recd, .ctx, .host, .out] [0x11000203, 0x11000204] s (State.bufBack s c b used flushed) := by
  unfold State.bufBack
  simp (disch := decide) only [Only.refl_iff, Only.step_iff (State.ctxNotify_only _ _), Only.step_iff (State.dma_only _ _ _), Only.step_iff (State.modCtx_only _ _ _), Only.ite_iff, Only.iteFst_iff, implies_true, and_self]

theorem State.hostPlace_only (s : State) (c : Nat) (bs : List Byte) (starts ends : List Nat) (x : Nat) : Only [.ev, .recd, .ctx, .host, .out] [0x11000203, 0x11000204] s (State.hostPlace s c bs starts ends x) := by
  induction x generalizing s c bs starts ends with
  | zero => exact Only.refl
  | succ k ih =>
    unfold State.hostPlace
    repeat' first
      | simp (disch := decide) only [Only.refl_iff, Only.step_iff (State.bufBack_only _ _ _ _ _), Only.step_iff (State.dmaData_only _ _ _), Only.step_iff (State.modCtx_only _ _ _), Only.ite_iff, Only.iteFst_iff, implies_true, and_self, Only.step_iff (ih _ _ _ _ _)]
      | split

theorem State.hostPut_only (s : State) (c : Nat) (u : CtxUnit) : Only [.ev, .recd, .ctx, .host, .out] [0x11000203, 0x11000204] s (State.hostPut s c u) := by
  unfold State.hostPut
  simp (disch := decide) only [Only.refl_iff, Only.step_iff (State.hostPlace_only _ _ _ _ _ _), Only.step_iff (State.modCtx_only _ _ _), Only.ite_iff, Only.iteFst_iff, implies_true, and_self]

theorem State.ctxFrame_only (s : State) (c p vc : Nat) (bs : List Byte) (last : Bool) : Only [.ctx, .fab, .out] [0x0A000006, 0x0A000008] s (State.ctxFrame s c p vc bs last) := by
  unfold State.ctxFrame
  simp (disch := decide) only [Only.refl_iff, Only.step_iff (State.fabQueue_only _ _ _), Only.step_iff (State.modCtx_only _ _ _), Only.ite_iff, Only.iteFst_iff, implies_true, and_self]

theorem State.fabPiece_only (s : State) (c p vc : Nat) (bs : List Byte) (ended : Bool) (x : Nat) : Only [.ctx, .fab, .out] [0x0A000006, 0x0A000008] s (State.fabPiece s c p vc bs ended x) := by
  induction x generalizing s c p vc bs ended with
  | zero => exact Only.refl
  | succ k ih =>
    unfold State.fabPiece
    simp (disch := decide) only [Only.refl_iff, Only.step_iff (State.ctxFrame_only _ _ _ _ _ _), Only.step_iff (State.modCtx_only _ _ _), Only.ite_iff, Only.iteFst_iff, implies_true, and_self, Only.step_iff (ih _ _ _ _ _ _)]

theorem State.fabPut_only (s : State) (c p vc : Nat) (bs : List Byte) (done : Nat) (x : List Nat) : Only [.ctx, .fab, .out] [0x0A000006, 0x0A000008] s (State.fabPut s c p vc bs done x) := by
  induction x generalizing s c p vc bs done with
  | nil => unfold State.fabPut; simp (disch := decide) only [Only.refl_iff, Only.step_iff (State.fabPiece_only _ _ _ _ _ _ _), Only.step_iff (State.modCtx_only _ _ _), Only.ite_iff, Only.iteFst_iff, implies_true, and_self]
  | cons a l ih =>
    unfold State.fabPut
    simp (disch := decide) only [Only.refl_iff, Only.step_iff (State.fabPiece_only _ _ _ _ _ _ _), Only.step_iff (State.modCtx_only _ _ _), Only.ite_iff, Only.iteFst_iff, implies_true, and_self, Only.step_iff (ih _ _ _ _ _ _)]

theorem State.regionWrite_only (s : State) (c : Nat) (bs : List Byte) : Only [.ddr] [0x08000011] s (State.regionWrite s c bs) := by
  unfold State.regionWrite
  simp (disch := decide) only [Only.refl_iff, Only.step_iff (State.ddrUse_only _ _ _ _ _), Only.step_iff (State.ddrWrite_only _ _ _), Only.put_iff]

theorem State.ddrPut_only (s : State) (c : Nat) (bs : List Byte) : Only [.ctx, .ddr] [0x08000011] s (State.ddrPut s c bs) := by
  unfold State.ddrPut
  simp (disch := decide) only [Only.refl_iff, Only.step_iff (State.modCtx_only _ _ _), Only.step_iff (State.regionWrite_only _ _ _)]

theorem State.inboundDone_only (s : State) (c src n : Nat) : Only [.ctx, .out] [] s (State.inboundDone s c src n) := by
  unfold State.inboundDone
  simp (disch := decide) only [Only.refl_iff, Only.step_iff (State.emit_only _ _), Only.step_iff (State.modCtx_only _ _ _), Only.ite_iff, Only.iteFst_iff, implies_true, and_self]

theorem State.coalesce_only (s : State) (c : Nat) (drained : Bool) : Only [.ctx] [] s (State.coalesce s c drained) := by
  unfold State.coalesce
  repeat' first
    | simp (disch := decide) only [Only.refl_iff, Only.step_iff (State.modCtx_only _ _ _), Only.ite_iff, Only.iteFst_iff, implies_true, and_self]
    | split

theorem State.unitPut_only (s : State) (l : Nat) (u : CtxUnit) : Only [.ev, .recd, .ctx, .fab, .ddr, .host, .out] [0x08000011, 0x0A000006, 0x0A000008, 0x11000203, 0x11000204] s (State.unitPut s l u) := by
  unfold State.unitPut
  simp (disch := decide) only [Only.refl_iff, Only.step_iff (State.coalesce_only _ _ _), Only.step_iff (State.ddrPut_only _ _ _), Only.step_iff (State.fabPut_only _ _ _ _ _ _ _), Only.step_iff (State.hostPut_only _ _ _), Only.step_iff (State.modCtx_only _ _ _), Only.ite_iff, Only.iteFst_iff, implies_true, and_self]

theorem execUnitTransferComplete_only (t : Tm) (link : Fin 6) {s u : State} (hp : s.pwr.por = false) (h : execUnitTransferComplete t link s = .next u) :
    Only [.ev, .recd, .ctx, .fab, .ddr, .host, .out] [0x08000011, 0x08000016, 0x08000017, 0x0A000006, 0x0A000008, 0x11000203, 0x11000204] (s.clock t) u := by
  obtain rfl := live_next hp h
  generalize s.clock t = v
  repeat' first
    | simp (disch := decide) only [Only.refl_iff, Only.put_iff, Only.step_iff (State.setFlight_only _ _ _), Only.step_iff (State.unitPut_only _ _ _)]
    | split

theorem State.flushUnit_only (s : State) (c : Nat) : Only [.ev, .recd, .ctx, .fab, .ddr, .host, .out] [0x08000011, 0x0A000006, 0x0A000008, 0x11000203, 0x11000204] s (State.flushUnit s c) := by
  unfold State.flushUnit
  repeat' first
    | simp (disch := decide) only [Only.refl_iff, Only.step_iff (State.bufBack_only _ _ _ _ _), Only.step_iff (State.coalesce_only _ _ _), Only.step_iff (State.ctxFrame_only _ _ _ _ _ _), Only.step_iff (State.hostPlace_only _ _ _ _ _ _), Only.step_iff (State.modCtx_only _ _ _), Only.step_iff (State.regionWrite_only _ _ _), Only.ite_iff, Only.iteFst_iff, implies_true, and_self]
    | split

theorem execCoalescerTimeout_only (t : Tm) (ctx : Ctx) {s u : State} (hp : s.pwr.por = false) (h : execCoalescerTimeout t ctx s = .next u) :
    Only [.ev, .recd, .ctx, .fab, .ddr, .host, .out] [0x08000011, 0x0A000006, 0x0A000008, 0x11000203, 0x11000204] (s.clock t) u := by
  obtain rfl := live_next hp h
  generalize s.clock t = v
  repeat' first
    | simp (disch := decide) only [Only.refl_iff, Only.step_iff (State.flushUnit_only _ _), Only.ite_iff, Only.iteFst_iff, implies_true, and_self]
    | split

theorem State.ctxDoorbell_only (s : State) (c prod : Nat) : Only [.ev, .recd, .ctx, .out] [0x11000203, 0x11000204] s (State.ctxDoorbell s c prod) := by
  unfold State.ctxDoorbell
  simp (disch := decide) only [Only.refl_iff, Only.step_iff (State.modCtx_only _ _ _), Only.step_iff (State.raise_only _ _), Only.ite_iff, Only.iteFst_iff, implies_true, and_self]

theorem State.ctxReqDoorbell_only (s : State) (c prod : Nat) : Only [.ev, .recd, .ctx, .out] [0x11000203, 0x11000204] s (State.ctxReqDoorbell s c prod) := by
  unfold State.ctxReqDoorbell
  simp (disch := decide) only [Only.refl_iff, Only.step_iff (State.modCtx_only _ _ _), Only.step_iff (State.raise_only _ _), Only.ite_iff, Only.iteFst_iff, implies_true, and_self]

theorem execCtxDoorbellWrite_only (t : Tm) (ctx : Ctx) (prod : BitVec 16) {s u : State} (hp : s.pwr.por = false) (h : execCtxDoorbellWrite t ctx prod s = .next u) :
    Only [.ev, .recd, .ctx, .out] [0x11000203, 0x11000204] (s.clock t) u := by
  obtain rfl := live_next hp h
  generalize s.clock t = v
  simp (disch := decide) only [Only.refl_iff, Only.step_iff (State.ctxDoorbell_only _ _ _)]

theorem execCtxReqDoorbellWrite_only (t : Tm) (ctx : Ctx) (prod : BitVec 16) {s u : State} (hp : s.pwr.por = false) (h : execCtxReqDoorbellWrite t ctx prod s = .next u) :
    Only [.ev, .recd, .ctx, .out] [0x11000203, 0x11000204] (s.clock t) u := by
  obtain rfl := live_next hp h
  generalize s.clock t = v
  simp (disch := decide) only [Only.refl_iff, Only.step_iff (State.ctxReqDoorbell_only _ _ _)]

theorem execCtxNotifyArm_only (t : Tm) (ctx : Ctx) {s u : State} (hp : s.pwr.por = false) (h : execCtxNotifyArm t ctx s = .next u) :
    Only [.ctx] [] (s.clock t) u := by
  obtain rfl := live_next hp h
  generalize s.clock t = v
  simp (disch := decide) only [Only.refl_iff, Only.step_iff (State.modCtx_only _ _ _)]

theorem execDescriptorFetch_only (t : Tm) (ctx : Ctx) (desc : List Byte) {s u : State} (hp : s.pwr.por = false) (h : execDescriptorFetch t ctx desc s = .next u) :
    Only [.ev, .recd, .ctx, .host, .out] [0x11000203, 0x11000204] (s.clock t) u := by
  obtain rfl := live_next hp h
  generalize s.clock t = v
  simp (disch := decide) only [Only.refl_iff, Only.step_iff (State.dma_only _ _ _), Only.step_iff (State.dmaGot_only _ _), Only.step_iff (State.modCtx_only _ _ _), Only.step_iff (State.raise_only _ _), Only.ite_iff, Only.iteFst_iff, implies_true, and_self]

theorem execRequestEntryRead_only (t : Tm) (ctx : Ctx) (desc : List Byte) {s u : State} (hp : s.pwr.por = false) (h : execRequestEntryRead t ctx desc s = .next u) :
    Only [.ev, .recd, .deck, .ctx, .host, .out] [0x06000101, 0x06000102, 0x06000203, 0x0600020B, 0x08000015, 0x11000203, 0x11000204] (s.clock t) u := by
  obtain rfl := live_next hp h
  generalize s.clock t = v
  simp (disch := decide) only [Only.refl_iff, Only.step_iff (State.dma_only _ _ _), Only.step_iff (State.dmaGot_only _ _), Only.step_iff (State.modCtx_only _ _ _), Only.step_iff (State.rewind_only _ _ _), Only.ite_iff, Only.iteFst_iff, implies_true, and_self]

theorem State.ctxState_only (s : State) (c n : Nat) : Only [.ev, .recd, .ctx, .out] [0x08000015, 0x11000203, 0x11000204] s (State.ctxState s c n) := by
  unfold State.ctxState
  simp (disch := decide) only [Only.refl_iff, Only.step_iff (State.modCtx_only _ _ _), Only.put_iff, Only.step_iff (State.raise_only _ _), Only.ite_iff, Only.iteFst_iff, implies_true, and_self]

theorem State.inboundShow_only (s : State) (n : Nat) : Only [.ctx] [0x08000204] s (State.inboundShow s n) := by
  unfold State.inboundShow
  simp (disch := decide) only [Only.refl_iff, Only.set_ctx, Only.put_iff]

theorem State.ctxCreate_only (s : State) (c : Nat) : Only [.ev, .recd, .ctx, .out] [0x08000101, 0x08000102, 0x08000204, 0x11000203, 0x11000204] s (State.ctxCreate s c).1 := by
  unfold State.ctxCreate
  repeat' first
    | simp (disch := decide) only [Only.refl_iff, Only.step_iff (State.inboundShow_only _ _), Only.step_iff (State.linkShow_only _), Only.step_iff (State.modCtx_only _ _ _), Only.ite_iff, Only.iteFst_iff, implies_true, and_self]
    | split

theorem State.ctxDestroy_only (s : State) (c : Nat) : Only [.ev, .recd, .deck, .ctx, .out] [0x06000101, 0x06000102, 0x06000203, 0x08000015, 0x08000101, 0x08000102, 0x11000203, 0x11000204] s (State.ctxDestroy s c).1 := by
  unfold State.ctxDestroy
  simp (disch := decide) only [Only.refl_iff, Only.step_iff (State.ctxState_only _ _ _), Only.step_iff (State.linkShow_only _), Only.step_iff (State.modCtx_only _ _ _), Only.step_iff (State.rewindCancel_only _ _), Only.ite_iff, Only.iteFst_iff, implies_true, and_self]

theorem State.ctxRebind_only (s : State) (c : Nat) : Only [.ctx] [] s (State.ctxRebind s c).1 := by
  unfold State.ctxRebind
  simp (disch := decide) only [Only.refl_iff, Only.step_iff (State.modCtx_only _ _ _), Only.ite_iff, Only.iteFst_iff, implies_true, and_self]

theorem State.ctxOp_only (s : State) (c op : Nat) : Only [.ev, .recd, .deck, .ctx, .out] [0x06000101, 0x06000102, 0x06000203, 0x08000015, 0x08000101, 0x08000102, 0x08000204, 0x11000203, 0x11000204] s (State.ctxOp s c op).1 := by
  unfold State.ctxOp
  simp (disch := decide) only [Only.refl_iff, Only.step_iff (State.ctxCreate_only _ _), Only.step_iff (State.ctxDestroy_only _ _), Only.step_iff (State.ctxRebind_only _ _), Only.ite_iff, Only.iteFst_iff, implies_true, and_self]

theorem execCtxCreate_only (t : Tm) (ctx : Ctx) {s u : State} (hp : s.pwr.por = false) (h : execCtxCreate t ctx s = .next u) :
    Only [.ev, .recd, .ctx, .out] [0x08000101, 0x08000102, 0x08000204, 0x11000203, 0x11000204] (s.clock t) u := by
  obtain rfl := live_next hp h
  generalize s.clock t = v
  simp (disch := decide) only [Only.refl_iff, Only.step_iff (State.ctxCreate_only _ _)]

theorem execCtxDestroy_only (t : Tm) (ctx : Ctx) {s u : State} (hp : s.pwr.por = false) (h : execCtxDestroy t ctx s = .next u) :
    Only [.ev, .recd, .deck, .ctx, .out] [0x06000101, 0x06000102, 0x06000203, 0x08000015, 0x08000101, 0x08000102, 0x11000203, 0x11000204] (s.clock t) u := by
  obtain rfl := live_next hp h
  generalize s.clock t = v
  simp (disch := decide) only [Only.refl_iff, Only.step_iff (State.ctxDestroy_only _ _)]

theorem execCtxRebind_only (t : Tm) (ctx : Ctx) {s u : State} (hp : s.pwr.por = false) (h : execCtxRebind t ctx s = .next u) :
    Only [.ctx] [] (s.clock t) u := by
  obtain rfl := live_next hp h
  generalize s.clock t = v
  simp (disch := decide) only [Only.refl_iff, Only.step_iff (State.ctxRebind_only _ _)]

theorem execCtxDrainComplete_only (t : Tm) (ctx : Ctx) {s u : State} (hp : s.pwr.por = false) (h : execCtxDrainComplete t ctx s = .next u) :
    Only [.ev, .recd, .seam, .ctx, .fab, .out] [0x07000002, 0x07000003, 0x07000004, 0x07000005, 0x07000006, 0x07000205, 0x07000206, 0x07000207, 0x07000208, 0x08000201, 0x08000202, 0x0A000006, 0x0A000008, 0x11000203, 0x11000204] (s.clock t) u := by
  obtain rfl := live_next hp h
  generalize s.clock t = v
  simp (disch := decide) only [Only.refl_iff, Only.step_iff (State.egressMoved_only _), Only.step_iff (State.modCtx_only _ _ _), Only.ite_iff, Only.iteFst_iff, implies_true, and_self]

theorem State.unitsDrop_only (s : State) (c : Nat) : Only [.ctx] [] s (State.unitsDrop s c) := by
  unfold State.unitsDrop
  simp (disch := first | decide | (intro _ _; simp (disch := decide) only [Only.refl_iff, Only.each_iff, Only.step_iff (State.setFlight_only _ _ _)])) only [Only.refl_iff, Only.each_iff, Only.step_iff (State.setFlight_only _ _ _)]

theorem State.ctxLost_only (s : State) (c : Nat) : Only [.ev, .recd, .ctx, .out] [0x08000015, 0x11000203, 0x11000204] s (State.ctxLost s c) := by
  unfold State.ctxLost
  simp (disch := decide) only [Only.refl_iff, Only.step_iff (State.ctxState_only _ _ _), Only.step_iff (State.modCtx_only _ _ _), Only.step_iff (State.unitsDrop_only _ _), Only.ite_iff, Only.iteFst_iff, implies_true, and_self]

theorem State.ctxLostAll_only (s : State) : Only [.ev, .recd, .ctx, .out] [0x08000015, 0x11000203, 0x11000204] s (State.ctxLostAll s) := by
  unfold State.ctxLostAll
  simp (disch := first | decide | (intro _ _; simp (disch := decide) only [Only.refl_iff, Only.step_iff (State.ctxLost_only _ _), Only.each_iff])) only [Only.refl_iff, Only.step_iff (State.ctxLost_only _ _), Only.each_iff]

theorem State.ctxReset_only (s : State) (c : Nat) : Only [.ev, .recd, .deck, .seam, .ctx, .fab, .out] [0x06000101, 0x06000102, 0x06000203, 0x07000002, 0x07000003, 0x07000004, 0x07000005, 0x07000006, 0x07000205, 0x07000206, 0x07000207, 0x07000208, 0x08000015, 0x08000201, 0x08000202, 0x0A000006, 0x0A000008, 0x11000203, 0x11000204] s (State.ctxReset s c) := by
  unfold State.ctxReset
  repeat' first
    | simp (disch := first | decide | (intro _ _; repeat' first | simp (disch := decide) only [Only.refl_iff, Only.step_iff (State.egressMoved_only _), Only.step_iff (State.modCtx_only _ _ _), Only.step_iff (State.rewindCancel_only _ _), Only.step_iff (State.takeSeq_only _ _), Only.foldl_iff, Only.ite_iff, Only.iteFst_iff, implies_true, and_self] | split)) only [Only.refl_iff, Only.step_iff (State.egressMoved_only _), Only.step_iff (State.modCtx_only _ _ _), Only.step_iff (State.rewindCancel_only _ _), Only.step_iff (State.takeSeq_only _ _), Only.foldl_iff, Only.ite_iff, Only.iteFst_iff, implies_true, and_self]
    | split

theorem State.ctxFree_only (s : State) (c : Nat) : Only [.ev, .recd, .seam, .ctx, .fab, .out] [0x07000002, 0x07000003, 0x07000004, 0x07000005, 0x07000006, 0x07000205, 0x07000206, 0x07000207, 0x07000208, 0x08000015, 0x08000019, 0x08000201, 0x08000202, 0x08000204, 0x0A000006, 0x0A000008, 0x11000203, 0x11000204] s (State.ctxFree s c) := by
  unfold State.ctxFree
  simp (disch := decide) only [Only.refl_iff, Only.step_iff (State.ctxState_only _ _ _), Only.step_iff (State.egressMoved_only _), Only.step_iff (State.inboundShow_only _ _), Only.step_iff (State.modCtx_only _ _ _), Only.put_iff, Only.putB_iff]

theorem State.ctxBind_only (s : State) (c : Nat) : Only [.ev, .recd, .ctx, .out] [0x08000015, 0x11000203, 0x11000204] s (State.ctxBind s c) := by
  unfold State.ctxBind
  simp (disch := decide) only [Only.refl_iff, Only.step_iff (State.ctxState_only _ _ _), Only.step_iff (State.modCtx_only _ _ _), Only.step_iff (State.unitsDrop_only _ _), Only.ite_iff, Only.iteFst_iff, implies_true, and_self]

theorem State.ctxBoundary_only (s : State) : Only [.ev, .recd, .deck, .seam, .ctx, .fab, .out] [0x06000101, 0x06000102, 0x06000203, 0x07000002, 0x07000003, 0x07000004, 0x07000005, 0x07000006, 0x07000205, 0x07000206, 0x07000207, 0x07000208, 0x08000015, 0x08000019, 0x08000101, 0x08000102, 0x08000201, 0x08000202, 0x08000204, 0x0A000006, 0x0A000008, 0x11000203, 0x11000204] s (State.ctxBoundary s) := by
  unfold State.ctxBoundary
  repeat' first
    | simp (disch := first | decide | (intro _ _; repeat' first | simp (disch := decide) only [Only.refl_iff, Only.step_iff (State.ctxBind_only _ _), Only.step_iff (State.ctxEval_only _ _), Only.step_iff (State.ctxFree_only _ _), Only.step_iff (State.ctxSources_only _ _), Only.each_iff, Only.step_iff (State.linkShow_only _), Only.step_iff (State.modCtx_only _ _ _), Only.putB_iff, Only.ite_iff, Only.iteFst_iff, implies_true, and_self] | split)) only [Only.refl_iff, Only.step_iff (State.ctxBind_only _ _), Only.step_iff (State.ctxEval_only _ _), Only.step_iff (State.ctxFree_only _ _), Only.step_iff (State.ctxSources_only _ _), Only.each_iff, Only.step_iff (State.linkShow_only _), Only.step_iff (State.modCtx_only _ _ _), Only.putB_iff, Only.ite_iff, Only.iteFst_iff, implies_true, and_self]
    | split

theorem State.ctxAbut_only (s : State) : Only [.ev, .recd, .deck, .seam, .ctx, .fab, .out] [0x06000101, 0x06000102, 0x06000203, 0x07000002, 0x07000003, 0x07000004, 0x07000005, 0x07000006, 0x07000205, 0x07000206, 0x07000207, 0x07000208, 0x08000015, 0x08000201, 0x08000202, 0x0A000006, 0x0A000008, 0x11000203, 0x11000204] s (State.ctxAbut s) := by
  unfold State.ctxAbut
  simp (disch := first | decide | (intro _ _; simp (disch := decide) only [Only.refl_iff, Only.each_iff, Only.step_iff (State.egressMoved_only _), Only.step_iff (State.modCtx_only _ _ _), Only.step_iff (State.rewindCancel_only _ _)])) only [Only.refl_iff, Only.each_iff, Only.step_iff (State.egressMoved_only _), Only.step_iff (State.modCtx_only _ _ _), Only.step_iff (State.rewindCancel_only _ _)]

theorem State.ctxReturn_only (s : State) : Only [.ev, .recd, .seam, .ctx, .fab, .out] [0x07000002, 0x07000003, 0x07000004, 0x07000005, 0x07000006, 0x07000205, 0x07000206, 0x07000207, 0x07000208, 0x08000015, 0x08000019, 0x08000101, 0x08000102, 0x08000201, 0x08000202, 0x08000204, 0x0A000006, 0x0A000008, 0x11000203, 0x11000204] s (State.ctxReturn s) := by
  unfold State.ctxReturn
  simp (disch := first | decide | (intro _ _; simp (disch := decide) only [Only.refl_iff, Only.step_iff (State.ctxFree_only _ _), Only.each_iff, Only.step_iff (State.linkShow_only _)])) only [Only.refl_iff, Only.step_iff (State.ctxFree_only _ _), Only.each_iff, Only.step_iff (State.linkShow_only _)]

theorem execEgressDetach_only (t : Tm) (ctx : Ctx) {s u : State} (hp : s.pwr.por = false) (h : execEgressDetach t ctx s = .next u) :
    Only [.ev, .recd, .seam, .ctx, .fab, .out] [0x07000002, 0x07000003, 0x07000004, 0x07000005, 0x07000006, 0x07000205, 0x07000206, 0x07000207, 0x07000208, 0x08000015, 0x08000201, 0x08000202, 0x0A000006, 0x0A000008, 0x11000203, 0x11000204] (s.clock t) u := by
  obtain rfl := live_next hp h
  generalize s.clock t = v
  repeat' first
    | simp (disch := first | decide | (intro _ _; repeat' first | simp (disch := decide) only [Only.refl_iff, Only.step_iff (State.ctxSkip_only _ _ _ _ _), Only.each_iff, Only.step_iff (State.egressHold_only _), Only.step_iff (State.egressMoved_only _), Only.step_iff (State.egressTrim_only _), Only.ite_iff, Only.iteFst_iff, implies_true, and_self] | split)) only [Only.refl_iff, Only.step_iff (State.ctxSkip_only _ _ _ _ _), Only.each_iff, Only.step_iff (State.egressHold_only _), Only.step_iff (State.egressMoved_only _), Only.step_iff (State.egressTrim_only _), Only.ite_iff, Only.iteFst_iff, implies_true, and_self]
    | split

theorem execInboundCredit_only (t : Tm) (ctx : Ctx) (units : Nat) {s u : State} (hp : s.pwr.por = false) (h : execInboundCredit t ctx units s = .next u) :
    Only [.ctx] [] (s.clock t) u := by
  obtain rfl := live_next hp h
  generalize s.clock t = v
  simp (disch := decide) only [Only.refl_iff, Only.step_iff (State.modCtx_only _ _ _), Only.ite_iff, Only.iteFst_iff, implies_true, and_self]

end Sys2Proof.Machine
end

