-- ==== Sys2Proof/Laws/OnlyReader.lean ====
section
/-! SUPPORT. What the operations of Machine/Reader.lean leave alone: one lemma for each. -/

namespace Sys2Proof.Machine

theorem execDeckReadComplete_only (t : Tm) (sid : Fin 128) (poison : Poison) {s u : State} (hp : s.pwr.por = false) (h : execDeckReadComplete t sid poison s = .next u) :
    Only [.ev, .recd, .deck, .ctx, .ddr, .out] [0x06000101, 0x06000102, 0x06000203, 0x0600020B, 0x0600020C, 0x08000015, 0x11000203, 0x11000204] (s.clock t) u := by
  obtain rfl := live_next hp h
  generalize s.clock t = v
  repeat' first
    | simp (disch := decide) only [Only.refl_iff, Only.set_deck, Only.step_iff (State.ddrUse_only _ _ _ _ _), Only.step_iff (State.holdsShow_only _), Only.step_iff (State.sessRead_only _ _ _ _), Only.ite_iff, Only.iteFst_iff, implies_true, and_self]
    | split

end Sys2Proof.Machine
end

