-- ==== Sys2Proof/Laws/OnlyLaneOps.lean ====
section
/-! SUPPORT. What the operations of Machine/LaneOps.lean leave alone: one lemma for each. -/

namespace Sys2Proof.Machine

theorem State.modLane_only (s : State) (l : Nat) (f : LaneSt → LaneSt) : Only [.lane] [] s (State.modLane s l f) := by
  unfold State.modLane
  simp (disch := decide) only [Only.refl_iff, Only.set_lane]

theorem State.modPortLane_only (s : State) (p : Nat) (f : PortLane → PortLane) : Only [.lane] [] s (State.modPortLane s p f) := by
  unfold State.modPortLane
  simp (disch := decide) only [Only.refl_iff, Only.set_lane]

theorem State.setLane_only (s : State) (l n : Nat) : Only [] [0x0B000003] s (State.setLane s l n) := by
  unfold State.setLane
  simp (disch := decide) only [Only.refl_iff, Only.put_iff]

theorem State.peerLocks_only (s : State) (p locked : Nat) : Only [.lane] [] s (State.peerLocks s p locked) := by
  unfold State.peerLocks
  simp (disch := first | decide | (intro _ _; simp (disch := decide) only [Only.refl_iff, Only.each_iff, Only.step_iff (State.modLane_only _ _ _)])) only [Only.refl_iff, Only.each_iff, Only.step_iff (State.modLane_only _ _ _)]

theorem State.linkSend_only (s : State) (p : Nat) (m : LinkMsg) : Only [.out] [] s (State.linkSend s p m) := by
  unfold State.linkSend
  simp (disch := decide) only [Only.refl_iff, Only.step_iff (State.emit_only _ _)]

theorem State.helloSend_only (s : State) (p : Nat) : Only [.out] [] s (State.helloSend s p) := by
  unfold State.helloSend
  simp (disch := first | decide | (intro _ _; simp (disch := decide) only [Only.refl_iff, Only.step_iff (State.linkSend_only _ _ _), Only.foldl_iff])) only [Only.refl_iff, Only.step_iff (State.linkSend_only _ _ _), Only.foldl_iff]

theorem State.parentLane_only (s : State) : Only [.time, .fab] [] s (State.parentLane s) := by
  unfold State.parentLane
  simp (disch := decide) only [Only.refl_iff, Only.set_fab, Only.step_iff (State.clock_only _ _), Only.ite_iff, Only.iteFst_iff, implies_true, and_self]

theorem State.skewShow_only (s : State) (p : Nat) : Only [] [0x0B000003] s (State.skewShow s p) := by
  unfold State.skewShow
  repeat' first
    | simp (disch := first | decide | (intro _ _; repeat' first | simp (disch := decide) only [Only.refl_iff, Only.each_iff, Only.put_iff, Only.foldl_iff] | split)) only [Only.refl_iff, Only.each_iff, Only.put_iff, Only.foldl_iff]
    | split

theorem State.retrain_only (s : State) (l : Nat) : Only [.lane, .core] [0x0F000102] s (State.retrain s l) := by
  unfold State.retrain
  simp (disch := decide) only [Only.refl_iff, Only.step_iff (State.maintBegin_only _ _ _ _), Only.step_iff (State.modLane_only _ _ _), Only.ite_iff, Only.iteFst_iff, implies_true, and_self]

theorem State.retrained_only (s : State) (l : Nat) : Only [.lane, .core] [0x0F000102, 0x0F000103] s (State.retrained s l) := by
  unfold State.retrained
  simp (disch := decide) only [Only.refl_iff, Only.step_iff (State.maintEnd_only _ _ _), Only.step_iff (State.modLane_only _ _ _)]

theorem State.laneDetect_only (s : State) (l : Nat) : Only [.time, .fab, .lane, .free] [0x0B000003] s (State.laneDetect s l) := by
  unfold State.laneDetect
  simp (disch := decide) only [Only.refl_iff, Only.step_iff (State.fresh_only _), Only.step_iff (State.modLane_only _ _ _), Only.step_iff (State.parentLane_only _), Only.putB_iff, Only.step_iff (State.setLane_only _ _ _)]

theorem State.laneOff_only (s : State) (l : Nat) : Only [.time, .fab, .lane, .core, .free] [0x0B000003, 0x0F000102, 0x0F000103] s (State.laneOff s l) := by
  unfold State.laneOff
  simp (disch := decide) only [Only.refl_iff, Only.step_iff (State.laneDetect_only _ _), Only.step_iff (State.retrained_only _ _), Only.step_iff (State.setLane_only _ _ _)]

theorem State.laneActive_only (s : State) (p mask : Nat) : Only [.lane, .core] [0x0B000003, 0x0B000101, 0x0F000102, 0x0F000103] s (State.laneActive s p mask) := by
  unfold State.laneActive
  simp (disch := first | decide | (intro _ _; simp (disch := decide) only [Only.refl_iff, Only.each_iff, Only.put_iff, Only.step_iff (State.retrained_only _ _), Only.step_iff (State.setLane_only _ _ _), Only.ite_iff, Only.iteFst_iff, implies_true, and_self])) only [Only.refl_iff, Only.each_iff, Only.put_iff, Only.step_iff (State.retrained_only _ _), Only.step_iff (State.setLane_only _ _ _), Only.ite_iff, Only.iteFst_iff, implies_true, and_self]

theorem State.portWidens_only (s : State) (p mask : Nat) : Only [.ev, .recd, .fab, .out] [0x08000101, 0x08000102, 0x0A000002, 0x11000203, 0x11000204] s (State.portWidens s p mask) := by
  unfold State.portWidens
  simp (disch := decide) only [Only.refl_iff, Only.step_iff (State.linkShow_only _), Only.step_iff (State.modFp_only _ _ _), Only.put_iff]

theorem State.portFail_only (s : State) (p : Nat) : Only [.time, .ev, .recd, .ctx, .fab, .lane, .core, .out, .free] [0x08000101, 0x08000102, 0x0A000002, 0x0A000005, 0x0A000006, 0x0B000003, 0x0B000101, 0x0F000102, 0x11000203, 0x11000204] s (State.portFail s p) := by
  unfold State.portFail
  simp (disch := first | decide | (intro _ _; simp (disch := decide) only [Only.refl_iff, Only.set_time, Only.each_iff, Only.step_iff (State.laneDetect_only _ _), Only.step_iff (State.linkShow_only _), Only.step_iff (State.modPortLane_only _ _ _), Only.step_iff (State.portDown_only _ _), Only.put_iff, Only.step_iff (State.retrain_only _ _), Only.ite_iff, Only.iteFst_iff, implies_true, and_self])) only [Only.refl_iff, Only.set_time, Only.each_iff, Only.step_iff (State.laneDetect_only _ _), Only.step_iff (State.linkShow_only _), Only.step_iff (State.modPortLane_only _ _ _), Only.step_iff (State.portDown_only _ _), Only.put_iff, Only.step_iff (State.retrain_only _ _), Only.ite_iff, Only.iteFst_iff, implies_true, and_self]

theorem State.stripeSend_only (s : State) (p set : Nat) (lead : Bool) : Only [.ev, .recd, .lane, .core, .out] [0x0B000003, 0x0B000101, 0x0F000102, 0x0F000103, 0x11000203, 0x11000204] s (State.stripeSend s p set lead) := by
  unfold State.stripeSend
  simp (disch := decide) only [Only.refl_iff, Only.bump_iff, Only.step_iff (State.laneActive_only _ _ _), Only.step_iff (State.linkSend_only _ _ _), Only.step_iff (State.modPortLane_only _ _ _), Only.step_iff (State.raise_only _ _)]

theorem State.restripe_only (s : State) (p : Nat) : Only [.time, .ev, .recd, .ctx, .fab, .lane, .core, .out, .free] [0x08000101, 0x08000102, 0x0A000002, 0x0A000005, 0x0A000006, 0x0B000003, 0x0B000101, 0x0F000102, 0x0F000103, 0x11000203, 0x11000204] s (State.restripe s p) := by
  unfold State.restripe
  simp (disch := decide) only [Only.refl_iff, Only.step_iff (State.portFail_only _ _), Only.step_iff (State.stripeSend_only _ _ _ _), Only.ite_iff, Only.iteFst_iff, implies_true, and_self]

theorem State.stripeDone_only (s : State) (p set : Nat) : Only [.ev, .recd, .fab, .lane, .out] [0x08000101, 0x08000102, 0x0A000002, 0x0B000101, 0x11000203, 0x11000204] s (State.stripeDone s p set) := by
  unfold State.stripeDone
  simp (disch := decide) only [Only.refl_iff, Only.step_iff (State.modFp_only _ _ _), Only.step_iff (State.modPortLane_only _ _ _), Only.step_iff (State.portWidens_only _ _ _), Only.put_iff]

theorem State.laneLost_only (s : State) (l : Nat) : Only [.time, .ev, .recd, .ctx, .fab, .lane, .core, .out, .free] [0x08000101, 0x08000102, 0x0A000002, 0x0A000005, 0x0A000006, 0x0B000003, 0x0B000101, 0x0F000102, 0x0F000103, 0x11000203, 0x11000204] s (State.laneLost s l) := by
  unfold State.laneLost
  simp (disch := first | decide | (intro _ _; simp (disch := decide) only [Only.refl_iff, Only.bump_iff, Only.each_iff, Only.step_iff (State.fresh_only _), Only.step_iff (State.laneOff_only _ _), Only.step_iff (State.modLane_only _ _ _), Only.step_iff (State.modPortLane_only _ _ _), Only.putB_iff, Only.step_iff (State.raise_only _ _), Only.step_iff (State.restripe_only _ _), Only.step_iff (State.retrain_only _ _), Only.step_iff (State.setLane_only _ _ _), Only.ite_iff, Only.iteFst_iff, implies_true, and_self])) only [Only.refl_iff, Only.bump_iff, Only.each_iff, Only.step_iff (State.fresh_only _), Only.step_iff (State.laneOff_only _ _), Only.step_iff (State.modLane_only _ _ _), Only.step_iff (State.modPortLane_only _ _ _), Only.putB_iff, Only.step_iff (State.raise_only _ _), Only.step_iff (State.restripe_only _ _), Only.step_iff (State.retrain_only _ _), Only.step_iff (State.setLane_only _ _ _), Only.ite_iff, Only.iteFst_iff, implies_true, and_self]

theorem State.laneStandby_only (s : State) (l : Nat) : Only [.lane, .core, .out] [0x0B000003, 0x0F000102, 0x0F000103] s (State.laneStandby s l) := by
  unfold State.laneStandby
  simp (disch := decide) only [Only.refl_iff, Only.step_iff (State.linkSend_only _ _ _), Only.step_iff (State.modLane_only _ _ _), Only.step_iff (State.retrained_only _ _), Only.step_iff (State.setLane_only _ _ _), Only.ite_iff, Only.iteFst_iff, implies_true, and_self]

end Sys2Proof.Machine
end

