-- ==== Sys2Proof/Laws/OnlyParamOps.lean ====
section
/-! SUPPORT. What the operations of Machine/ParamOps.lean leave alone: one lemma for each. -/

namespace Sys2Proof.Machine

theorem State.pendAt_only (s : State) (id : Nat) (v : W64) (cls : Nat) (due : Option Tm) : Only [.time] [] s (State.pendAt s id v cls due) := by
  unfold State.pendAt
  simp (disch := decide) only [Only.refl_iff, Only.set_time]

theorem State.loadOne_only (s : State) (target : Tbl W64) (id : Nat) : Only [.time, .loop, .regs] [] s (State.loadOne s target id) := by
  unfold State.loadOne
  repeat' first
    | simp (disch := decide) only [Only.refl_iff, Only.set_regs, Only.step_iff (State.modLp_only _ _ _), Only.step_iff (State.pendAt_only _ _ _ _ _), Only.ite_iff, Only.iteFst_iff, implies_true, and_self]
    | split

theorem State.configApply_only (s : State) (target : Tbl W64) : Only [.time, .afe, .loop, .regs] [] s (State.configApply s target) := by
  unfold State.configApply
  simp (disch := first | decide | (intro _ _; simp (disch := decide) only [Only.refl_iff, Only.each_iff, Only.step_iff (State.loadOne_only _ _ _), Only.step_iff (State.sumEval_only _ _)])) only [Only.refl_iff, Only.each_iff, Only.step_iff (State.loadOne_only _ _ _), Only.step_iff (State.sumEval_only _ _)]

theorem State.configLoad_only (s : State) : Only [.time, .ev, .recd, .afe, .loop, .host, .core, .sec, .out, .regs] [] s (State.configLoad s) := by
  unfold State.configLoad
  repeat' first
    | simp (disch := decide) only [Only.refl_iff, Only.set_host_sec, Only.step_iff (State.configApply_only _ _), Only.step_iff (State.log_only _ _ _ _), Only.step_iff (State.raise_only _ _), Only.ite_iff, Only.iteFst_iff, implies_true, and_self]
    | split

end Sys2Proof.Machine
end

