-- ==== Sys2Proof/Laws/OnlyMbOps.lean ====
section
/-! SUPPORT. What the operations of Machine/MbOps.lean leave alone: one lemma for each. -/

namespace Sys2Proof.Machine

theorem State.modMb_only (s : State) (m : Nat) (f : MbRegs → MbRegs) : Only [.host] [] s (State.modMb s m f) := by
  unfold State.modMb
  simp (disch := decide) only [Only.refl_iff, Only.set_host]

theorem State.postHost_only (s : State) (p : Post) (m : Nat) : Only [.ev, .recd, .host, .out] [0x11000203, 0x11000204] s (State.postHost s p m) := by
  unfold State.postHost
  simp (disch := decide) only [Only.refl_iff, Only.step_iff (State.dma_only _ _ _), Only.step_iff (State.dmaData_only _ _ _), Only.step_iff (State.modMb_only _ _ _), Only.step_iff (State.raise_only _ _), Only.ite_iff, Only.iteFst_iff, implies_true, and_self]

theorem State.post_only (s : State) (p : Post) : Only [.ev, .recd, .host, .mbox, .out] [0x11000203, 0x11000204] s (State.post s p) := by
  unfold State.post
  repeat' first
    | simp (disch := decide) only [Only.refl_iff, Only.set_mbox, Only.step_iff (State.emit_only _ _), Only.step_iff (State.postHost_only _ _ _), Only.step_iff (State.raiseIf_only _ _ _), Only.ite_iff, Only.iteFst_iff, implies_true, and_self]
    | split

theorem State.seqAccept_only (s : State) (w : Who) (seq : Nat) : Only [.mbox] [0x0F000303] s (State.seqAccept s w seq) := by
  unfold State.seqAccept
  simp (disch := decide) only [Only.refl_iff, Only.set_mbox, Only.put_iff, Only.ite_iff, Only.iteFst_iff, implies_true, and_self]

theorem State.record_only (s : State) (w : Who) (seq status : Nat) (result : W64) : Only [.mbox] [] s (State.record s w seq status result) := by
  unfold State.record
  simp (disch := decide) only [Only.refl_iff, Only.set_mbox]

theorem State.forward_only (s : State) (w : Who) (c : Cmd) : Only [.mbox, .out] [] s (State.forward s w c) := by
  unfold State.forward
  simp (disch := decide) only [Only.refl_iff, Only.set_mbox, Only.step_iff (State.emit_only _ _), Only.ite_iff, Only.iteFst_iff, implies_true, and_self]

theorem State.accepted_only (s : State) (w : Who) (c : Cmd) : Only [.mbox] [] s (State.accepted s w c) := by
  unfold State.accepted
  simp (disch := decide) only [Only.refl_iff, Only.set_mbox]

theorem State.dupJudge_only (s : State) (w : Who) (c : Cmd) : Only [.ev, .recd, .host, .mbox, .out] [0x0F000302, 0x0F000303, 0x11000203, 0x11000204] s (State.dupJudge s w c) := by
  unfold State.dupJudge
  repeat' first
    | simp (disch := decide) only [Only.refl_iff, Only.step_iff (State.accepted_only _ _ _), Only.bump_iff, Only.step_iff (State.post_only _ _), Only.step_iff (State.raise_only _ _), Only.step_iff (State.seqAccept_only _ _ _), Only.ite_iff, Only.iteFst_iff, implies_true, and_self]
    | split

theorem State.slotRead_only (s : State) (w : Who) (c : Cmd) (rest : Nat) : Only [.ev, .recd, .host, .mbox, .out] [0x0F000302, 0x0F000303, 0x11000203, 0x11000204] s (State.slotRead s w c rest) := by
  unfold State.slotRead
  simp (disch := decide) only [Only.refl_iff, Only.step_iff (State.accepted_only _ _ _), Only.step_iff (State.dupJudge_only _ _ _), Only.step_iff (State.forward_only _ _ _), Only.step_iff (State.post_only _ _), Only.ite_iff, Only.iteFst_iff, implies_true, and_self]

theorem Only.iteDone_iff {ps : List Part} {rs : List Nat} {s : State} {c : Prop} [Decidable c] {a b : Done} :
    Only ps rs s (if c then a else b).s ↔ (c → Only ps rs s a.s) ∧ (¬ c → Only ps rs s b.s) := by split <;> simp [*]

@[simp] theorem State.ends_s (s : State) (status : Nat) : (s.ends status).s = s := rfl

@[simp] theorem State.gives_s (s : State) (result : Nat) : (s.gives result).s = s := rfl

@[simp] theorem State.answers_s (s : State) (response : List Byte) : (s.answers response).s = s := rfl

@[simp] theorem State.goesOn_s (s : State)  : (s.goesOn).s = s := rfl

theorem State.sender_only (s : State) (mb : Mb) (c : Cmd) : Only [.mbox] [] s (State.sender s mb c).1 := by
  unfold State.sender
  repeat' first
    | simp (disch := decide) only [Only.refl_iff, Only.set_mbox]
    | split

theorem State.finish_only {ps : List Part} {rs : List Nat} {s : State} (w : Who) (c : Cmd) (cls : Cls) (d : Done) (h : Only ps rs s d.s)
    (hp : sub [.ev, .recd, .host, .mbox, .out] ps = true) (hr : subR ps [0x0F000302, 0x0F000303, 0x11000203, 0x11000204] rs = true) :
    Only ps rs s (s.finish w c cls d) := by
  have k : Only [.ev, .recd, .host, .mbox, .out] [0x0F000302, 0x0F000303, 0x11000203, 0x11000204] d.s (s.finish w c cls d) ∨
      Only [.ev, .recd, .host, .mbox, .out] [0x0F000302, 0x0F000303, 0x11000203, 0x11000204] s (s.finish w c cls d) := by
    unfold State.finish
    dsimp only
    split
    · left; simp (disch := decide) only [Only.refl_iff, Only.bump_iff, Only.step_iff (State.post_only _ _)]
    · split
      · split
        · right
          simp (disch := decide) only [Only.refl_iff, Only.step_iff (State.post_only _ _),
            Only.step_iff (State.record_only _ _ _ _ _), Only.step_iff (State.seqAccept_only _ _ _)]
        · left
          simp (disch := decide) only [Only.refl_iff, Only.bump_iff, Only.set_mbox, Only.step_iff (State.post_only _ _),
            Only.step_iff (State.seqAccept_only _ _ _), Only.ite_iff, implies_true, and_self]
      · left
        simp (disch := decide) only [Only.refl_iff, Only.bump_iff, Only.set_mbox, Only.step_iff (State.post_only _ _),
          Only.step_iff (State.record_only _ _ _ _ _), Only.step_iff (State.seqAccept_only _ _ _), Only.ite_iff, implies_true, and_self]
  exact k.elim (fun k => h.trans (k.mono hp hr)) fun k => k.mono hp hr

theorem State.command_only {ps : List Part} {rs : List Nat} {s : State} (mb : Mb) (c : Cmd) (need : Nat) {f : State → Who → Done}
    (hf : ∀ v w, Only ps rs v (f v w).s) (hp : sub [.ev, .recd, .host, .mbox, .core, .out] ps = true)
    (hr : subR ps [0x0F000302, 0x0F000303, 0x11000203, 0x11000204] rs = true) : Only ps rs s (s.command mb c need f) := by
  have hs : Only ps rs s (s.sender mb c).1 :=
    (State.sender_only s mb c).mono (sub_trans (by decide) hp) (subR_trans (by decide) hr)
  unfold State.command
  dsimp only
  split
  · split
    · exact Only.refl
    · exact (State.deny_only s).mono (sub_trans (by decide) hp) (subR_trans (by decide) hr)
  · split
    · exact hs.trans ((State.forward_only _ _ _).mono (sub_trans (by decide) hp) (subR_trans (by decide) hr))
    · split
      · exact hs.trans ((State.post_only _ _).mono (sub_trans (by decide) hp) (subR_trans (by decide) hr))
      · split
        · exact hs.trans ((State.post_only _ _).mono (sub_trans (by decide) hp) (subR_trans (by decide) hr))
        · refine hs.trans (State.finish_only _ _ _ _ ?_ (sub_trans (by decide) hp) hr)
          split
          · exact hf _ _
          · exact Only.refl

theorem State.command_iff {ps : List Part} {rs : List Nat} {s u : State} {mb : Mb} {c : Cmd} {need : Nat} {f : State → Who → Done}
    (hf : ∀ v w, Only ps rs v (f v w).s) (hp : sub [.ev, .recd, .host, .mbox, .core, .out] ps = true)
    (hr : subR ps [0x0F000302, 0x0F000303, 0x11000203, 0x11000204] rs = true) : Only ps rs s (u.command mb c need f) ↔ Only ps rs s u :=
  have k : Only ps rs u (u.command mb c need f) := State.command_only mb c need hf hp hr
  ⟨fun h => h.trans k.symm, fun h => h.trans k⟩

theorem State.backEnd_only (s : State) (f : Wait → Bool) (status : Nat) (result : W64) (response : List Byte) : Only [.mbox] [] s (State.backEnd s f status result response) := by
  unfold State.backEnd
  simp (disch := decide) only [Only.refl_iff, Only.set_mbox, Only.ite_iff, Only.iteFst_iff, implies_true, and_self]

theorem State.waitPost_only (s : State) (x : Wait) : Only [.ev, .recd, .host, .mbox, .out] [0x11000203, 0x11000204] s (State.waitPost s x) := by
  unfold State.waitPost
  simp (disch := decide) only [Only.refl_iff, Only.step_iff (State.post_only _ _), Only.step_iff (State.record_only _ _ _ _ _), Only.ite_iff, Only.iteFst_iff, implies_true, and_self]

theorem State.backFail_only (s : State) (f : Wait → Bool) (status : Nat) (result : W64) : Only [.ev, .recd, .host, .mbox, .out] [0x11000203, 0x11000204] s (State.backFail s f status result) := by
  unfold State.backFail
  repeat' first
    | simp (disch := decide) only [Only.refl_iff, Only.set_mbox, Only.step_iff (State.waitPost_only _ _)]
    | split

theorem State.commitPosts_only (s : State) : Only [.ev, .recd, .host, .mbox, .out] [0x11000203, 0x11000204] s (State.commitPosts s) := by
  unfold State.commitPosts
  simp (disch := first | decide | (intro _ _; simp (disch := decide) only [Only.refl_iff, Only.set_mbox, Only.step_iff (State.waitPost_only _ _), Only.foldl_iff])) only [Only.refl_iff, Only.set_mbox, Only.step_iff (State.waitPost_only _ _), Only.foldl_iff]

theorem State.mbReady_only (s : State) : Only [.ev, .recd, .host, .out] [0x11000203, 0x11000204] s (State.mbReady s) := by
  unfold State.mbReady
  simp (disch := first | decide | (intro _ _; simp (disch := decide) only [Only.refl_iff, Only.each_iff, Only.step_iff (State.modMb_only _ _ _), Only.step_iff (State.raise_only _ _), Only.ite_iff, Only.iteFst_iff, implies_true, and_self])) only [Only.refl_iff, Only.each_iff, Only.step_iff (State.modMb_only _ _ _), Only.step_iff (State.raise_only _ _), Only.ite_iff, Only.iteFst_iff, implies_true, and_self]

end Sys2Proof.Machine
end

