-- ==== Sys2Proof/Laws/OnlyMailbox.lean ====
section
/-! SUPPORT. What the operations of Machine/Mailbox.lean leave alone: one lemma for each. -/

namespace Sys2Proof.Machine

theorem State.muteWaits_only (s : State) (m : Nat) : Only [.mbox] [] s (State.muteWaits s m) := by
  unfold State.muteWaits
  simp (disch := decide) only [Only.refl_iff, Only.set_mbox, Only.ite_iff, Only.iteFst_iff, implies_true, and_self]

theorem State.mbEnable_only (s : State) (mb : Nat) (on : Bool) : Only [.ev, .recd, .host, .mbox, .out] [0x11000203, 0x11000204] s (State.mbEnable s mb on) := by
  unfold State.mbEnable
  simp (disch := decide) only [Only.refl_iff, Only.step_iff (State.mbReady_only _), Only.step_iff (State.modMb_only _ _ _), Only.step_iff (State.muteWaits_only _ _), Only.ite_iff, Only.iteFst_iff, implies_true, and_self]

theorem execMbEnableWrite_only (t : Tm) (mb : Fin 2) (on : Bool) {s u : State} (hp : s.pwr.por = false) (h : execMbEnableWrite t mb on s = .next u) :
    Only [.ev, .recd, .host, .mbox, .out] [0x11000203, 0x11000204] (s.clock t) u := by
  obtain rfl := live_next hp h
  generalize s.clock t = v
  simp (disch := decide) only [Only.refl_iff, Only.step_iff (State.mbEnable_only _ _ _)]

theorem execMbDoorbellWrite_only (t : Tm) (mb : Fin 2) (prod : BitVec 16) {s u : State} (hp : s.pwr.por = false) (h : execMbDoorbellWrite t mb prod s = .next u) :
    Only [.host] [] (s.clock t) u := by
  obtain rfl := live_next hp h
  generalize s.clock t = v
  simp (disch := decide) only [Only.refl_iff, Only.step_iff (State.modMb_only _ _ _)]

theorem execMbCqDoorbellWrite_only (t : Tm) (mb : Fin 2) (head : BitVec 16) {s u : State} (hp : s.pwr.por = false) (h : execMbCqDoorbellWrite t mb head s = .next u) :
    Only [.host] [] (s.clock t) u := by
  obtain rfl := live_next hp h
  generalize s.clock t = v
  simp (disch := decide) only [Only.refl_iff, Only.step_iff (State.modMb_only _ _ _)]

theorem execMbFetch_only (t : Tm) (mb : Mb) (slot : List Byte) {s u : State} (hp : s.pwr.por = false) (h : execMbFetch t mb slot s = .next u) :
    Only [.ev, .recd, .host, .mbox, .out] [0x0F000302, 0x0F000303, 0x11000203, 0x11000204] (s.clock t) u := by
  obtain rfl := live_next hp h
  generalize s.clock t = v
  simp (disch := decide) only [Only.refl_iff, Only.step_iff (State.dmaGot_only _ _), Only.step_iff (State.modMb_only _ _ _), Only.step_iff (State.slotRead_only _ _ _ _), Only.ite_iff, Only.iteFst_iff, implies_true, and_self]

theorem execCommandCommit_only (t : Tm) {s u : State} (hp : s.pwr.por = false) (h : execCommandCommit t s = .next u) :
    Only [.ev, .recd, .host, .mbox, .out] [0x11000203, 0x11000204] (s.clock t) u := by
  obtain rfl := live_next hp h
  generalize s.clock t = v
  simp (disch := decide) only [Only.refl_iff, Only.step_iff (State.commitPosts_only _), Only.ite_iff, Only.iteFst_iff, implies_true, and_self]

theorem execBackgroundComplete_only (t : Tm) (mb : Mb) (seq : BitVec 32) (status : Fin 16) (result : W64) {s u : State} (hp : s.pwr.por = false) (h : execBackgroundComplete t mb seq status result s = .next u) :
    Only [.ev, .recd, .host, .mbox, .out] [0x11000203, 0x11000204] (s.clock t) u := by
  obtain rfl := live_next hp h
  generalize s.clock t = v
  simp (disch := decide) only [Only.refl_iff, Only.step_iff (State.backEnd_only _ _ _ _ _), Only.step_iff (State.backFail_only _ _ _ _), Only.ite_iff, Only.iteFst_iff, implies_true, and_self]

theorem State.remotePost_only (s : State) (r : Remote) (status : Nat) (result : W64) (response : List Byte) (interim : Bool) : Only [.ev, .recd, .host, .mbox, .out] [0x11000203, 0x11000204] s (State.remotePost s r status result response interim) := by
  unfold State.remotePost
  simp (disch := decide) only [Only.refl_iff, Only.step_iff (State.post_only _ _)]

theorem State.remoteDrop_only (s : State) (r : Remote) : Only [.mbox] [] s (State.remoteDrop s r) := by
  unfold State.remoteDrop
  simp (disch := decide) only [Only.refl_iff, Only.set_mbox]

theorem execMailboxFrame_only (t : Tm) (frame : MbFrame) {s u : State} (hp : s.pwr.por = false) (h : execMailboxFrame t frame s = .next u) :
    Only [.ev, .recd, .host, .mbox, .out] [0x0F000302, 0x0F000303, 0x11000203, 0x11000204] (s.clock t) u := by
  obtain rfl := live_next hp h
  generalize s.clock t = v
  repeat' first
    | simp (disch := decide) only [Only.refl_iff, Only.set_mbox, Only.step_iff (State.remoteDrop_only _ _), Only.step_iff (State.remotePost_only _ _ _ _ _ _), Only.step_iff (State.slotRead_only _ _ _ _), Only.ite_iff, Only.iteFst_iff, implies_true, and_self]
    | split

theorem execRemoteTimeout_only (t : Tm) (mb : Mb) (seq : BitVec 32) {s u : State} (hp : s.pwr.por = false) (h : execRemoteTimeout t mb seq s = .next u) :
    Only [.ev, .recd, .host, .mbox, .out] [0x11000203, 0x11000204] (s.clock t) u := by
  obtain rfl := live_next hp h
  generalize s.clock t = v
  repeat' first
    | simp (disch := decide) only [Only.refl_iff, Only.step_iff (State.raise_only _ _), Only.step_iff (State.remoteDrop_only _ _), Only.step_iff (State.remotePost_only _ _ _ _ _ _), Only.ite_iff, Only.iteFst_iff, implies_true, and_self]
    | split

theorem State.takeStarted_only (s : State) : Only [.ev, .recd, .host, .mbox, .out] [0x0F000302, 0x0F000303, 0x11000203, 0x11000204] s (State.takeStarted s) := by
  unfold State.takeStarted
  repeat' first
    | simp (disch := decide) only [Only.refl_iff, Only.set_mbox, Only.step_iff (State.slotRead_only _ _ _ _), Only.ite_iff, Only.iteFst_iff, implies_true, and_self]
    | split

theorem State.pecFail_only (s : State) : Only [.out] [0x0F000302] s (State.pecFail s) := by
  unfold State.pecFail
  simp (disch := decide) only [Only.refl_iff, Only.bump_iff, Only.step_iff (State.emit_only _ _)]

theorem execSmbCmdAppend_only (b : SmbAt) (data : List Byte) (pecOk : Bool) {s u : State} (hp : s.pwr.por = false) (h : execSmbCmdAppend b data pecOk s = .next u) :
    Only [.mbox, .out] [0x0F000302] (s.clock b.t) u := by
  obtain rfl := live_next hp h
  generalize s.clock b.t = v
  simp (disch := decide) only [Only.refl_iff, Only.set_mbox, Only.step_iff (State.emit_only _ _), Only.step_iff (State.pecFail_only _), Only.ite_iff, Only.iteFst_iff, implies_true, and_self]

theorem execSmbCmdStart_only (b : SmbAt) (total : BitVec 32) (pecOk : Bool) {s u : State} (hp : s.pwr.por = false) (h : execSmbCmdStart b total pecOk s = .next u) :
    Only [.ev, .recd, .host, .mbox, .out] [0x0F000302, 0x0F000303, 0x11000203, 0x11000204] (s.clock b.t) u := by
  obtain rfl := live_next hp h
  generalize s.clock b.t = v
  simp (disch := decide) only [Only.refl_iff, Only.set_mbox, Only.step_iff (State.emit_only _ _), Only.step_iff (State.pecFail_only _), Only.step_iff (State.takeStarted_only _), Only.ite_iff, Only.iteFst_iff, implies_true, and_self]

theorem execSmbReadCompletion_only (b : SmbAt) {s u : State} (hp : s.pwr.por = false) (h : execSmbReadCompletion b s = .next u) :
    Only [.out] [] (s.clock b.t) u := by
  obtain rfl := live_next hp h
  generalize s.clock b.t = v
  simp (disch := decide) only [Only.refl_iff, Only.step_iff (State.emit_only _ _), Only.ite_iff, Only.iteFst_iff, implies_true, and_self]

theorem execSmbReadResponse_only (b : SmbAt) (n : Fin 241) {s u : State} (hp : s.pwr.por = false) (h : execSmbReadResponse b n s = .next u) :
    Only [.mbox, .out] [] (s.clock b.t) u := by
  obtain rfl := live_next hp h
  generalize s.clock b.t = v
  simp (disch := decide) only [Only.refl_iff, Only.set_mbox, Only.step_iff (State.emit_only _ _), Only.ite_iff, Only.iteFst_iff, implies_true, and_self]

theorem execMb5Data_only (t : Tm) (update : Option (BitVec 32)) {s u : State} (hp : s.pwr.por = false) (h : execMb5Data t update s = .next u) :
    Only [.afe, .dig, .mbox, .pwr, .out] [0x01000004, 0x01000008, 0x05000116] (s.clock t) u := by
  obtain rfl := live_next hp h
  generalize s.clock t = v
  repeat' first
    | simp (disch := decide) only [Only.refl_iff, Only.set_mbox, Only.step_iff (State.emit_only _ _), Only.step_iff (State.tapSet_only _ _)]
    | split

theorem execMb5Go_only (t : Tm) {s u : State} (hp : s.pwr.por = false) (h : execMb5Go t s = .next u) :
    Only [.ev, .recd, .afe, .dig, .host, .mbox, .pwr, .out] [0x01000004, 0x01000008, 0x05000116, 0x0F000302, 0x0F000303, 0x11000203, 0x11000204] (s.clock t) u := by
  obtain rfl := live_next hp h
  generalize s.clock t = v
  simp (disch := decide) only [Only.refl_iff, Only.set_mbox, Only.step_iff (State.takeStarted_only _), Only.step_iff (State.tapSet_only _ _), Only.ite_iff, Only.iteFst_iff, implies_true, and_self]

theorem execMb5PtrReset_only (t : Tm) {s u : State} (hp : s.pwr.por = false) (h : execMb5PtrReset t s = .next u) :
    Only [.afe, .dig, .mbox, .pwr] [0x01000004, 0x01000008, 0x05000116] (s.clock t) u := by
  obtain rfl := live_next hp h
  generalize s.clock t = v
  simp (disch := decide) only [Only.refl_iff, Only.set_mbox, Only.step_iff (State.tapSet_only _ _)]

theorem execEcho_only (t : Tm) (mb : Mb) (cmd : Cmd) {s u : State} (hp : s.pwr.por = false) (h : execEcho t mb cmd s = .next u) :
    Only [.ev, .recd, .host, .mbox, .core, .out] [0x0F000302, 0x0F000303, 0x11000203, 0x11000204] (s.clock t) u := by
  obtain rfl := live_next hp h
  generalize s.clock t = v
  refine (State.command_iff (fun _ _ => ?_) (by decide) (by decide)).2 Only.refl
  simp (disch := decide) only [Only.refl_iff, State.answers_s, Only.iteDone_iff, State.ends_s, State.gives_s, State.goesOn_s]

theorem execIdentify_only (t : Tm) (mb : Mb) (cmd : Cmd) {s u : State} (hp : s.pwr.por = false) (h : execIdentify t mb cmd s = .next u) :
    Only [.ev, .recd, .host, .mbox, .core, .out] [0x0F000302, 0x0F000303, 0x11000203, 0x11000204] (s.clock t) u := by
  obtain rfl := live_next hp h
  generalize s.clock t = v
  refine (State.command_iff (fun _ _ => ?_) (by decide) (by decide)).2 Only.refl
  simp (disch := decide) only [Only.refl_iff, State.answers_s, Only.iteDone_iff, State.ends_s, State.gives_s, State.goesOn_s]

theorem execTdcCalVisit_only (t : Tm) (mb : Mb) (cmd : Cmd) {s u : State} (hp : s.pwr.por = false) (h : execTdcCalVisit t mb cmd s = .next u) :
    Only [.ev, .recd, .host, .mbox, .core, .out] [0x0F000302, 0x0F000303, 0x11000203, 0x11000204] (s.clock t) u := by
  obtain rfl := live_next hp h
  generalize s.clock t = v
  refine (State.command_iff (fun _ _ => ?_) (by decide) (by decide)).2 Only.refl
  simp (disch := decide) only [Only.refl_iff, Only.set_mbox, State.ends_s, State.gives_s, Only.ite_iff, Only.iteFst_iff, implies_true, and_self, Only.iteDone_iff, State.answers_s, State.goesOn_s]

theorem execSoftAccept_only (t : Tm) (mb : Mb) (cmd : Cmd) {s u : State} (hp : s.pwr.por = false) (h : execSoftAccept t mb cmd s = .next u) :
    Only [.ev, .recd, .trg, .seam, .ctx, .fab, .host, .mbox, .core, .out] [0x04000308, 0x04000309, 0x0400030A, 0x08000201, 0x08000202, 0x0A000005, 0x0A000006, 0x0A000008, 0x0F000302, 0x0F000303, 0x11000203, 0x11000204] (s.clock t) u := by
  obtain rfl := live_next hp h
  generalize s.clock t = v
  refine (State.command_iff (fun _ _ => ?_) (by decide) (by decide)).2 Only.refl
  simp (disch := decide) only [Only.refl_iff, Only.step_iff (State.acceptEmit_only _ _ _ _ _ _ _ _ _), State.ends_s, State.gives_s, Only.ite_iff, Only.iteFst_iff, implies_true, and_self, Only.iteDone_iff, State.answers_s, State.goesOn_s]

theorem execDeckRewind_only (t : Tm) (mb : Mb) (cmd : Cmd) {s u : State} (hp : s.pwr.por = false) (h : execDeckRewind t mb cmd s = .next u) :
    Only [.ev, .recd, .deck, .ctx, .host, .mbox, .core, .out] [0x06000101, 0x06000102, 0x06000203, 0x0600020B, 0x08000015, 0x0F000302, 0x0F000303, 0x11000203, 0x11000204] (s.clock t) u := by
  obtain rfl := live_next hp h
  generalize s.clock t = v
  refine (State.command_iff (fun _ _ => ?_) (by decide) (by decide)).2 Only.refl
  simp (disch := decide) only [Only.refl_iff, State.ends_s, Only.step_iff (State.rewind_only _ _ _), Only.iteDone_iff, State.gives_s, State.answers_s, State.goesOn_s]

theorem execHoldCancel_only (t : Tm) (mb : Mb) (cmd : Cmd) {s u : State} (hp : s.pwr.por = false) (h : execHoldCancel t mb cmd s = .next u) :
    Only [.ev, .recd, .deck, .host, .mbox, .core, .out] [0x06000101, 0x06000102, 0x06000203, 0x0F000302, 0x0F000303, 0x11000203, 0x11000204] (s.clock t) u := by
  obtain rfl := live_next hp h
  generalize s.clock t = v
  refine (State.command_iff (fun _ _ => ?_) (by decide) (by decide)).2 Only.refl
  repeat' first
    | simp (disch := decide) only [Only.refl_iff, State.ends_s, State.gives_s, Only.step_iff (State.holdFree_only _ _), Only.ite_iff, Only.iteFst_iff, implies_true, and_self, Only.iteDone_iff, State.answers_s, State.goesOn_s]
    | split

end Sys2Proof.Machine
end

