-- ==== Sys2Proof/Laws/OnlyPress.lean ====
section
/-! SUPPORT. What the operations of Machine/Press.lean leave alone: one lemma for each. -/

namespace Sys2Proof.Machine

theorem State.pressShow_only (s : State) : Only [] [0x09000001, 0x09000202] s (State.pressShow s) := by
  unfold State.pressShow
  simp (disch := first | decide | (intro _ _; simp (disch := decide) only [Only.refl_iff, Only.each_iff, Only.put_iff, Only.putB_iff, Only.ite_iff, Only.iteFst_iff, implies_true, and_self])) only [Only.refl_iff, Only.each_iff, Only.put_iff, Only.putB_iff, Only.ite_iff, Only.iteFst_iff, implies_true, and_self]

theorem State.pressJob_only (s : State) (w : Who) (c : Cmd) : Only [.press] [0x09000001, 0x09000202] s (State.pressJob s w c).s := by
  unfold State.pressJob
  simp (disch := decide) only [Only.refl_iff, Only.set_press, Only.bump_iff, State.ends_s, State.goesOn_s, Only.step_iff (State.pressShow_only _), Only.ite_iff, Only.iteDone_iff, implies_true, and_self, State.gives_s, State.answers_s]

theorem execPressCompressJob_only (t : Tm) (mb : Mb) (cmd : Cmd) {s u : State} (hp : s.pwr.por = false) (h : execPressCompressJob t mb cmd s = .next u) :
    Only [.ev, .recd, .host, .mbox, .core, .press, .out] [0x09000001, 0x09000202, 0x0F000302, 0x0F000303, 0x11000203, 0x11000204] (s.clock t) u := by
  obtain rfl := live_next hp h
  generalize s.clock t = v
  refine (State.command_iff (fun _ _ => ?_) (by decide) (by decide)).2 Only.refl
  simp (disch := decide) only [Only.refl_iff, Only.step_iff (State.pressJob_only _ _ _), Only.iteDone_iff, State.ends_s, State.gives_s, State.answers_s, State.goesOn_s]

theorem execPressDecompressJob_only (t : Tm) (mb : Mb) (cmd : Cmd) {s u : State} (hp : s.pwr.por = false) (h : execPressDecompressJob t mb cmd s = .next u) :
    Only [.ev, .recd, .host, .mbox, .core, .press, .out] [0x09000001, 0x09000202, 0x0F000302, 0x0F000303, 0x11000203, 0x11000204] (s.clock t) u := by
  obtain rfl := live_next hp h
  generalize s.clock t = v
  refine (State.command_iff (fun _ _ => ?_) (by decide) (by decide)).2 Only.refl
  simp (disch := decide) only [Only.refl_iff, Only.step_iff (State.pressJob_only _ _ _), Only.iteDone_iff, State.ends_s, State.gives_s, State.answers_s, State.goesOn_s]

theorem execPressJobStart_only (t : Tm) {s u : State} (hp : s.pwr.por = false) (h : execPressJobStart t s = .next u) :
    Only [.press] [0x09000001, 0x09000202] (s.clock t) u := by
  obtain rfl := live_next hp h
  generalize s.clock t = v
  repeat' first
    | simp (disch := decide) only [Only.refl_iff, Only.set_press, Only.step_iff (State.pressShow_only _), Only.put_iff, Only.putB_iff, Only.ite_iff, Only.iteFst_iff, implies_true, and_self]
    | split

theorem State.message_only (s : State) (j : Job) (bytes : List Byte) : Only [.ev, .recd, .ctx, .fab, .out] [0x0A000006, 0x0A000008, 0x11000203, 0x11000204] s (State.message s j bytes) := by
  unfold State.message
  repeat' first
    | simp (disch := decide) only [Only.refl_iff, Only.step_iff (State.fabSend_only _ _ _ _ _ _ _ _), Only.step_iff (State.inboundPut_only _ _ _ _), Only.step_iff (State.raise_only _ _), Only.ite_iff, Only.iteFst_iff, implies_true, and_self]
    | split

theorem State.jobOut_only (s : State) (j : Job) (data : List Byte) (blocks : List (List Byte)) : Only [.ev, .recd, .ctx, .fab, .ddr, .host, .press, .out, .free] [0x0A000006, 0x0A000008, 0x11000203, 0x11000204] s (State.jobOut s j data blocks) := by
  unfold State.jobOut
  simp (disch := first | decide | (intro _ _; simp (disch := decide) only [Only.refl_iff, Only.set_press, Only.step_iff (State.ddrUse_only _ _ _ _ _), Only.step_iff (State.ddrWrite_only _ _ _), Only.step_iff (State.dmaData_only _ _ _), Only.step_iff (State.fresh_only _), Only.step_iff (State.message_only _ _ _), Only.step_iff (State.takeSeq_only _ _), Only.foldl_iff, Only.ite_iff, Only.iteFst_iff, implies_true, and_self])) only [Only.refl_iff, Only.set_press, Only.step_iff (State.ddrUse_only _ _ _ _ _), Only.step_iff (State.ddrWrite_only _ _ _), Only.step_iff (State.dmaData_only _ _ _), Only.step_iff (State.fresh_only _), Only.step_iff (State.message_only _ _ _), Only.step_iff (State.takeSeq_only _ _), Only.foldl_iff, Only.ite_iff, Only.iteFst_iff, implies_true, and_self]

theorem State.jobLeave_only (s : State) (e : Nat) (j : Job) (x : Ended) : Only [.ev, .recd, .mbox, .press, .out] [0x09000001, 0x09000002, 0x09000003, 0x09000202, 0x09000203, 0x11000203, 0x11000204] s (State.jobLeave s e j x) := by
  unfold State.jobLeave
  simp (disch := decide) only [Only.refl_iff, Only.set_press, Only.step_iff (State.backEnd_only _ _ _ _ _), Only.bump_iff, Only.step_iff (State.pressShow_only _), Only.put_iff, Only.step_iff (State.raise_only _ _), Only.step_iff (State.raiseIf_only _ _ _), Only.ite_iff, Only.iteFst_iff, implies_true, and_self]

theorem execPressJobComplete_only (t : Tm) (engine : Fin 6) (input : List Byte) (poisoned memError : Bool) {s u : State} (hp : s.pwr.por = false) (h : execPressJobComplete t engine input poisoned memError s = .next u) :
    Only [.ev, .recd, .ctx, .fab, .ddr, .host, .mbox, .press, .out, .free] [0x09000001, 0x09000002, 0x09000003, 0x09000202, 0x09000203, 0x0A000006, 0x0A000008, 0x11000203, 0x11000204] (s.clock t) u := by
  obtain rfl := live_next hp h
  generalize s.clock t = v
  repeat' first
    | simp (disch := decide) only [Only.refl_iff, Only.set_press, Only.step_iff (State.ddrUse_only _ _ _ _ _), Only.step_iff (State.dmaGot_only _ _), Only.step_iff (State.fresh_only _), Only.step_iff (State.jobLeave_only _ _ _ _), Only.step_iff (State.jobOut_only _ _ _ _), Only.ite_iff, Only.iteFst_iff, implies_true, and_self]
    | split

theorem State.jobTimeout_only (s : State) (e : Nat) : Only [.ev, .recd, .mbox, .press, .out] [0x09000001, 0x09000002, 0x09000003, 0x09000202, 0x09000203, 0x11000203, 0x11000204] s (State.jobTimeout s e) := by
  unfold State.jobTimeout
  repeat' first
    | simp (disch := decide) only [Only.refl_iff, Only.step_iff (State.jobLeave_only _ _ _ _)]
    | split

theorem State.jobPlace_only (s : State) (l : Nat) (u : CtxUnit) (r : Rec) : Only [.ctx] [] s (State.jobPlace s l u r) := by
  unfold State.jobPlace
  simp (disch := decide) only [Only.refl_iff, Only.step_iff (State.modCtx_only _ _ _), Only.step_iff (State.setFlight_only _ _ _), Only.ite_iff, Only.iteFst_iff, implies_true, and_self]

theorem execPressContextJobComplete_only (t : Tm) (ctx : Ctx) (failed : Bool) {s u : State} (hp : s.pwr.por = false) (h : execPressContextJobComplete t ctx failed s = .next u) :
    Only [.ev, .recd, .ctx, .press, .out] [0x09000001, 0x09000002, 0x09000003, 0x09000202, 0x09000203, 0x11000203, 0x11000204] (s.clock t) u := by
  obtain rfl := live_next hp h
  generalize s.clock t = v
  repeat' first
    | simp (disch := decide) only [Only.refl_iff, Only.set_press, Only.bump_iff, Only.step_iff (State.jobPlace_only _ _ _ _), Only.step_iff (State.modCtx_only _ _ _), Only.step_iff (State.pressShow_only _), Only.put_iff, Only.step_iff (State.raise_only _ _), Only.step_iff (State.takeSeq_only _ _), Only.ite_iff, Only.iteFst_iff, implies_true, and_self]
    | split

theorem State.pressAbut_only (s : State) : Only [.ctx, .press] [0x09000001, 0x09000202] s (State.pressAbut s) := by
  unfold State.pressAbut
  simp (disch := first | decide | (intro _ _; simp (disch := decide) only [Only.refl_iff, Only.set_press, Only.each_iff, Only.step_iff (State.pressShow_only _), Only.put_iff, Only.step_iff (State.setFlight_only _ _ _)])) only [Only.refl_iff, Only.set_press, Only.each_iff, Only.step_iff (State.pressShow_only _), Only.put_iff, Only.step_iff (State.setFlight_only _ _ _)]

theorem execPressBufWrite_only (t : Tm) (mb : Mb) (cmd : Cmd) {s u : State} (hp : s.pwr.por = false) (h : execPressBufWrite t mb cmd s = .next u) :
    Only [.ev, .recd, .host, .mbox, .core, .press, .out] [0x0F000302, 0x0F000303, 0x11000203, 0x11000204] (s.clock t) u := by
  obtain rfl := live_next hp h
  generalize s.clock t = v
  refine (State.command_iff (fun _ _ => ?_) (by decide) (by decide)).2 Only.refl
  simp (disch := decide) only [Only.refl_iff, Only.set_press, State.ends_s, State.gives_s, Only.ite_iff, Only.iteFst_iff, implies_true, and_self, Only.iteDone_iff, State.answers_s, State.goesOn_s]

theorem execPressBufRead_only (t : Tm) (mb : Mb) (cmd : Cmd) {s u : State} (hp : s.pwr.por = false) (h : execPressBufRead t mb cmd s = .next u) :
    Only [.ev, .recd, .host, .mbox, .core, .out] [0x0F000302, 0x0F000303, 0x11000203, 0x11000204] (s.clock t) u := by
  obtain rfl := live_next hp h
  generalize s.clock t = v
  refine (State.command_iff (fun _ _ => ?_) (by decide) (by decide)).2 Only.refl
  simp (disch := decide) only [Only.refl_iff, State.answers_s, State.ends_s, Only.ite_iff, Only.iteFst_iff, implies_true, and_self, Only.iteDone_iff, State.gives_s, State.goesOn_s]

end Sys2Proof.Machine
end

