-- ==== Sys2Proof/Laws/OnlyFabric.lean ====
section
/-! SUPPORT. What the operations of Machine/Fabric.lean leave alone: one lemma for each. -/

namespace Sys2Proof.Machine

theorem State.frameNak_only (s : State) (p : Nat) : Only [.fab, .out] [] s (State.frameNak s p) := by
  unfold State.frameNak
  simp (disch := decide) only [Only.refl_iff, Only.step_iff (State.creditReturn_only _ _ _ _ _), Only.step_iff (State.modFp_only _ _ _), Only.ite_iff, Only.iteFst_iff, implies_true, and_self]

theorem State.rxDeliver_only (s : State) (p : Nat) (x : RxItem) : Only [.ev, .recd, .seam, .ctx, .fab, .out] [0x07000002, 0x07000003, 0x07000004, 0x07000005, 0x07000006, 0x07000007, 0x07000008, 0x07000205, 0x07000206, 0x07000207, 0x07000208, 0x07000209, 0x08000015, 0x08000201, 0x08000202, 0x08000203, 0x0A000006, 0x0A000008, 0x11000203, 0x11000204] s (State.rxDeliver s p x) := by
  unfold State.rxDeliver
  repeat' first
    | simp (disch := decide) only [Only.refl_iff, Only.step_iff (State.inboundPut_only _ _ _ _), Only.step_iff (State.lateEmit_only _ _), Only.step_iff (State.markReceive_only _ _ _), Only.step_iff (State.monPut_only _ _), Only.step_iff (State.seamArrive_only _ _ _), Only.ite_iff, Only.iteFst_iff, implies_true, and_self]
    | split

theorem State.itemEnds_only (s : State) (p : Nat) (x : RxItem) : Only [.ev, .recd, .seam, .ctx, .fab, .out] [0x07000002, 0x07000003, 0x07000004, 0x07000005, 0x07000006, 0x07000205, 0x07000206, 0x07000207, 0x07000208, 0x08000201, 0x08000202, 0x0A000006, 0x0A000008, 0x11000203, 0x11000204] s (State.itemEnds s p x) := by
  unfold State.itemEnds
  simp (disch := decide) only [Only.refl_iff, Only.step_iff (State.itemLost_only _ _ _), Only.step_iff (State.lateEmit_only _ _), Only.step_iff (State.seamEval_only _), Only.step_iff (State.seamLoss_only _ _ _ _ _ _ _), Only.step_iff (State.takeSeq_only _ _), Only.ite_iff, Only.iteFst_iff, implies_true, and_self]

theorem State.reassemble_only (s0 : State) (p : Nat) (f : Frame) : Only [.ev, .recd, .seam, .ctx, .fab, .out] [0x07000002, 0x07000003, 0x07000004, 0x07000005, 0x07000006, 0x07000007, 0x07000008, 0x07000205, 0x07000206, 0x07000207, 0x07000208, 0x07000209, 0x08000015, 0x08000201, 0x08000202, 0x08000203, 0x0A000006, 0x0A000008, 0x11000203, 0x11000204] s0 (State.reassemble s0 p f) := by
  unfold State.reassemble
  repeat' first
    | simp (disch := decide) only [Only.refl_iff, Only.step_iff (State.itemEnds_only _ _ _), Only.step_iff (State.modFp_only _ _ _), Only.step_iff (State.rxDeliver_only _ _ _), Only.ite_iff, Only.iteFst_iff, implies_true, and_self]
    | split

theorem State.frameTake_only (s : State) (p : Nat) (f : Frame) : Only [.ev, .recd, .seam, .ctx, .fab, .out] [0x07000002, 0x07000003, 0x07000004, 0x07000005, 0x07000006, 0x07000007, 0x07000008, 0x07000205, 0x07000206, 0x07000207, 0x07000208, 0x07000209, 0x08000015, 0x08000201, 0x08000202, 0x08000203, 0x0A000005, 0x0A000006, 0x0A000008, 0x11000203, 0x11000204] s (State.frameTake s p f) := by
  unfold State.frameTake
  simp (disch := decide) only [Only.refl_iff, Only.step_iff (State.ack_only _ _), Only.bump_iff, Only.step_iff (State.creditBack_only _ _ _ _), Only.step_iff (State.fabQueue_only _ _ _), Only.step_iff (State.raise_only _ _), Only.step_iff (State.reassemble_only _ _ _), Only.ite_iff, Only.iteFst_iff, implies_true, and_self]

theorem execRecordFrame_only (t : Tm) (port : Port) (frame : Frame) {s u : State} (hp : s.pwr.por = false) (h : execRecordFrame t port frame s = .next u) :
    Only [.ev, .recd, .seam, .ctx, .fab, .core, .mem, .out] [0x07000002, 0x07000003, 0x07000004, 0x07000005, 0x07000006, 0x07000007, 0x07000008, 0x07000205, 0x07000206, 0x07000207, 0x07000208, 0x07000209, 0x08000015, 0x08000201, 0x08000202, 0x08000203, 0x0A000004, 0x0A000005, 0x0A000006, 0x0A000008, 0x10000001, 0x10000002, 0x11000203, 0x11000204] (s.clock t) u := by
  obtain rfl := live_next hp h
  generalize s.clock t = v
  simp (disch := decide) only [Only.refl_iff, Only.bump_iff, Only.step_iff (State.creditReturn_only _ _ _ _ _), Only.step_iff (State.flawNext_only _ _), Only.step_iff (State.frameNak_only _ _), Only.step_iff (State.frameTake_only _ _ _), Only.step_iff (State.modFp_only _ _ _), Only.ite_iff, Only.iteFst_iff, implies_true, and_self]

theorem State.replay_only (s : State) (p : Nat) : Only [.time, .ev, .recd, .ctx, .fab, .lane, .core, .out, .free] [0x08000101, 0x08000102, 0x0A000002, 0x0A000004, 0x0A000005, 0x0A000006, 0x0B000003, 0x0B000101, 0x0F000102, 0x11000203, 0x11000204] s (State.replay s p) := by
  unfold State.replay
  simp (disch := first | decide | (intro _ _; simp (disch := decide) only [Only.refl_iff, Only.bump_iff, Only.step_iff (State.emit_only _ _), Only.step_iff (State.modFp_only _ _ _), Only.step_iff (State.portFail_only _ _), Only.step_iff (State.raise_only _ _), Only.foldl_iff, Only.ite_iff, Only.iteFst_iff, implies_true, and_self])) only [Only.refl_iff, Only.bump_iff, Only.step_iff (State.emit_only _ _), Only.step_iff (State.modFp_only _ _ _), Only.step_iff (State.portFail_only _ _), Only.step_iff (State.raise_only _ _), Only.foldl_iff, Only.ite_iff, Only.iteFst_iff, implies_true, and_self]

theorem execCreditBlock_only (t : Tm) (port : Port) (credit : Credit) {s u : State} (hp : s.pwr.por = false) (h : execCreditBlock t port credit s = .next u) :
    Only [.time, .ev, .recd, .seam, .ctx, .fab, .lane, .core, .out, .free] [0x07000002, 0x07000003, 0x07000004, 0x07000005, 0x07000006, 0x07000205, 0x07000206, 0x07000207, 0x07000208, 0x08000101, 0x08000102, 0x08000201, 0x08000202, 0x0A000002, 0x0A000004, 0x0A000005, 0x0A000006, 0x0A000008, 0x0B000003, 0x0B000101, 0x0F000102, 0x11000203, 0x11000204] (s.clock t) u := by
  obtain rfl := live_next hp h
  generalize s.clock t = v
  simp (disch := decide) only [Only.refl_iff, Only.step_iff (State.ack_only _ _), Only.step_iff (State.fabPump_only _ _ _), Only.step_iff (State.modFp_only _ _ _), Only.step_iff (State.replay_only _ _), Only.step_iff (State.showCredit_only _ _), Only.step_iff (State.upDrain_only _ _), Only.ite_iff, Only.iteFst_iff, implies_true, and_self]

theorem execReplayTimeout_only (t : Tm) (port : Port) {s u : State} (hp : s.pwr.por = false) (h : execReplayTimeout t port s = .next u) :
    Only [.time, .ev, .recd, .ctx, .fab, .lane, .core, .out, .free] [0x08000101, 0x08000102, 0x0A000002, 0x0A000004, 0x0A000005, 0x0A000006, 0x0B000003, 0x0B000101, 0x0F000102, 0x11000203, 0x11000204] (s.clock t) u := by
  obtain rfl := live_next hp h
  generalize s.clock t = v
  repeat' first
    | simp (disch := decide) only [Only.refl_iff, Only.step_iff (State.replay_only _ _), Only.ite_iff, Only.iteFst_iff, implies_true, and_self]
    | split

theorem State.setRoot_only (s : State) (id : W64) : Only [.out] [0x0A000202] s (State.setRoot s id) := by
  unfold State.setRoot
  simp (disch := first | decide | (intro _ _; simp (disch := decide) only [Only.refl_iff, Only.each_iff, Only.step_iff (State.helloSend_only _ _), Only.putWord_iff, Only.ite_iff, Only.iteFst_iff, implies_true, and_self])) only [Only.refl_iff, Only.each_iff, Only.step_iff (State.helloSend_only _ _), Only.putWord_iff, Only.ite_iff, Only.iteFst_iff, implies_true, and_self]

theorem State.claimSend_only (s : State) (id : W64) (except : Option Nat) : Only [.fab, .out] [] s (State.claimSend s id except) := by
  unfold State.claimSend
  simp (disch := first | decide | (intro _ _; simp (disch := decide) only [Only.refl_iff, Only.set_fab, Only.each_iff, Only.step_iff (State.emit_only _ _)])) only [Only.refl_iff, Only.set_fab, Only.each_iff, Only.step_iff (State.emit_only _ _)]

theorem execRootClaim_only (t : Tm) (mb : Mb) (cmd : Cmd) {s u : State} (hp : s.pwr.por = false) (h : execRootClaim t mb cmd s = .next u) :
    Only [.ev, .recd, .fab, .host, .mbox, .core, .out] [0x0A000202, 0x0F000302, 0x0F000303, 0x11000203, 0x11000204] (s.clock t) u := by
  obtain rfl := live_next hp h
  generalize s.clock t = v
  refine (State.command_iff (fun _ _ => ?_) (by decide) (by decide)).2 Only.refl
  repeat' first
    | simp (disch := decide) only [Only.refl_iff, Only.set_fab, Only.step_iff (State.claimSend_only _ _ _), State.ends_s, State.goesOn_s, Only.step_iff (State.raise_only _ _), Only.step_iff (State.setRoot_only _ _), Only.ite_iff, Only.iteFst_iff, implies_true, and_self, Only.iteDone_iff, State.gives_s, State.answers_s]
    | split

theorem execClaimFrame_only (t : Tm) (port : Port) (identity : W64) {s u : State} (hp : s.pwr.por = false) (h : execClaimFrame t port identity s = .next u) :
    Only [.ev, .recd, .fab, .host, .mbox, .out] [0x0A000202, 0x11000203, 0x11000204] (s.clock t) u := by
  obtain rfl := live_next hp h
  generalize s.clock t = v
  repeat' first
    | simp (disch := decide) only [Only.refl_iff, Only.set_fab, Only.step_iff (State.backFail_only _ _ _ _), Only.step_iff (State.claimSend_only _ _ _), Only.step_iff (State.raise_only _ _), Only.step_iff (State.setRoot_only _ _), Only.ite_iff, Only.iteFst_iff, implies_true, and_self]
    | split

theorem State.probePump_only (s : State) (x : Nat) : Only [.fab, .out] [] s (State.probePump s x) := by
  induction x generalizing s with
  | zero => exact Only.refl
  | succ k ih =>
    unfold State.probePump
    repeat' first
      | simp (disch := decide) only [Only.refl_iff, Only.set_fab, Only.step_iff (State.emit_only _ _), Only.ite_iff, Only.iteFst_iff, implies_true, and_self, Only.step_iff (ih _)]
      | split

theorem State.routeName_only (s : State) : Only [.fab, .out] [0x0A000208] s (State.routeName s) := by
  unfold State.routeName
  simp (disch := first | decide | (intro _ _; simp (disch := decide) only [Only.refl_iff, Only.set_fab, Only.step_iff (State.emit_only _ _), Only.put_iff, Only.foldl_iff, Only.ite_iff, Only.iteFst_iff, implies_true, and_self])) only [Only.refl_iff, Only.set_fab, Only.step_iff (State.emit_only _ _), Only.put_iff, Only.foldl_iff, Only.ite_iff, Only.iteFst_iff, implies_true, and_self]

theorem State.routeSet_only (s : State) (ns : List Node) : Only [.fab, .out] [0x0A000208] s (State.routeSet s ns) := by
  unfold State.routeSet
  simp (disch := first | decide | (intro _ _; simp (disch := decide) only [Only.refl_iff, Only.set_fab, Only.step_iff (State.emit_only _ _), Only.step_iff (State.routeName_only _), Only.foldl_iff])) only [Only.refl_iff, Only.set_fab, Only.step_iff (State.emit_only _ _), Only.step_iff (State.routeName_only _), Only.foldl_iff]

theorem State.routeChange_only (s : State) : Only [.ev, .recd, .fab, .out] [0x0A000208, 0x11000203, 0x11000204] s (State.routeChange s) := by
  unfold State.routeChange
  simp (disch := decide) only [Only.refl_iff, Only.set_fab, Only.step_iff (State.raiseIf_only _ _ _), Only.step_iff (State.routeSet_only _ _), Only.ite_iff, Only.iteFst_iff, implies_true, and_self]

theorem State.discovered_only (s : State) : Only [.ev, .recd, .fab, .out] [0x0A000208, 0x11000203, 0x11000204] s (State.discovered s) := by
  unfold State.discovered
  simp (disch := decide) only [Only.refl_iff, Only.set_fab, Only.step_iff (State.raise_only _ _), Only.step_iff (State.routeChange_only _), Only.step_iff (State.routeSet_only _ _), Only.ite_iff, Only.iteFst_iff, implies_true, and_self]

theorem execClaimWindowExpire_only (t : Tm) {s u : State} (hp : s.pwr.por = false) (h : execClaimWindowExpire t s = .next u) :
    Only [.ev, .recd, .fab, .out] [0x0A000201, 0x0A000202, 0x0A000208, 0x11000203, 0x11000204] (s.clock t) u := by
  obtain rfl := live_next hp h
  generalize s.clock t = v
  repeat' first
    | simp (disch := decide) only [Only.refl_iff, Only.set_fab, Only.step_iff (State.discovered_only _), Only.step_iff (State.probePump_only _ _), Only.putB_iff, Only.step_iff (State.raise_only _ _), Only.step_iff (State.setRoot_only _ _), Only.ite_iff, Only.iteFst_iff, implies_true, and_self]
    | split

theorem execDiscoveryProbe_only (t : Tm) (port : Port) (src : Nat) (route : W64) {s u : State} (hp : s.pwr.por = false) (h : execDiscoveryProbe t port src route s = .next u) :
    Only [.out] [] (s.clock t) u := by
  obtain rfl := live_next hp h
  generalize s.clock t = v
  simp (disch := decide) only [Only.refl_iff, Only.step_iff (State.emit_only _ _), Only.ite_iff, Only.iteFst_iff, implies_true, and_self]

theorem State.nodeTake_only (s : State) (x : Node) (r : ProbeReply) : Only [.fab] [] s (State.nodeTake s x r) := by
  unfold State.nodeTake
  simp (disch := decide) only [Only.refl_iff, Only.set_fab, Only.ite_iff, Only.iteFst_iff, implies_true, and_self]

theorem execDiscoveryReply_only (t : Tm) (reply : ProbeReply) {s u : State} (hp : s.pwr.por = false) (h : execDiscoveryReply t reply s = .next u) :
    Only [.ev, .recd, .fab, .out] [0x0A000208, 0x11000203, 0x11000204] (s.clock t) u := by
  obtain rfl := live_next hp h
  generalize s.clock t = v
  repeat' first
    | simp (disch := decide) only [Only.refl_iff, Only.set_fab, Only.step_iff (State.discovered_only _), Only.step_iff (State.nodeTake_only _ _ _), Only.step_iff (State.probePump_only _ _), Only.ite_iff, Only.iteFst_iff, implies_true, and_self]
    | split

theorem execRouteInstall_only (t : Tm) (install : Install) {s u : State} (hp : s.pwr.por = false) (h : execRouteInstall t install s = .next u) :
    Only [.fab, .out] [0x0A000208] (s.clock t) u := by
  obtain rfl := live_next hp h
  generalize s.clock t = v
  simp (disch := decide) only [Only.refl_iff, Only.set_fab, Only.step_iff (State.emit_only _ _), Only.put_iff, Only.ite_iff, Only.iteFst_iff, implies_true, and_self]

theorem execRouteInstallAck_only (t : Tm) (identity : W64) {s u : State} (hp : s.pwr.por = false) (h : execRouteInstallAck t identity s = .next u) :
    Only [.fab, .out] [0x0A000208] (s.clock t) u := by
  obtain rfl := live_next hp h
  generalize s.clock t = v
  simp (disch := decide) only [Only.refl_iff, Only.set_fab, Only.step_iff (State.routeName_only _), Only.ite_iff, Only.iteFst_iff, implies_true, and_self]

theorem State.tableWrite_iff {ps : List Part} {rs : List Nat} {s u : State} {f : Fld} {l : List (Nat × BitVec 7)}
    (hf : f.pid / 4096 % 4096 = 0 ∧ f.pid % 4096 + 0 < 4096) (hr : Part.regs ∈ ps ∨ f.pid + 0 ∈ rs) : Only ps rs s (u.tableWrite f l) ↔ Only ps rs s u :=
  Only.foldl_iff fun _ _ => (Only.putWord_iff hf hr).2 Only.refl

theorem State.seamFollow_only (s : State) (i : Install) : Only [.seam, .ctx, .fab, .out] [0x07000001, 0x07000002, 0x07000201, 0x0A000006, 0x0A000008] s (State.seamFollow s i) := by
  unfold State.seamFollow
  simp (disch := first | decide | (intro _ _; simp (disch := decide) only [Only.refl_iff, Only.each_iff, Only.put_iff, Only.putB_iff, Only.step_iff (State.seamEnable_only _ _), Only.step_iff (State.seamUp_only _), Only.ite_iff, Only.iteFst_iff, implies_true, and_self])) only [Only.refl_iff, Only.each_iff, Only.put_iff, Only.putB_iff, Only.step_iff (State.seamEnable_only _ _), Only.step_iff (State.seamUp_only _), Only.ite_iff, Only.iteFst_iff, implies_true, and_self]

theorem State.clockFollow_only (s : State) (i : Install) : Only [.time, .ev, .recd, .fab, .out] [0x0A000205, 0x11000203, 0x11000204] s (State.clockFollow s i) := by
  unfold State.clockFollow
  simp (disch := first | decide | (intro _ _; simp (disch := decide) only [Only.refl_iff, Only.set_fab, Only.set_time, Only.set_time_fab, Only.bump_iff, Only.each_iff, Only.step_iff (State.modFp_only _ _ _), Only.step_iff (State.parentLane_only _), Only.put_iff, Only.step_iff (State.raise_only _ _), Only.ite_iff, Only.iteFst_iff, implies_true, and_self])) only [Only.refl_iff, Only.set_fab, Only.set_time, Only.set_time_fab, Only.bump_iff, Only.each_iff, Only.step_iff (State.modFp_only _ _ _), Only.step_iff (State.parentLane_only _), Only.put_iff, Only.step_iff (State.raise_only _ _), Only.ite_iff, Only.iteFst_iff, implies_true, and_self]

theorem State.portsFollow_only (s : State) (l : List (Nat × Nat)) : Only [] [0x0A000002] s (State.portsFollow s l) := by
  unfold State.portsFollow
  simp (disch := first | decide | (intro _ _; simp (disch := decide) only [Only.refl_iff, Only.put_iff, Only.foldl_iff, Only.ite_iff, Only.iteFst_iff, implies_true, and_self])) only [Only.refl_iff, Only.put_iff, Only.foldl_iff, Only.ite_iff, Only.iteFst_iff, implies_true, and_self]

theorem State.noMaster_only (s : State) : Only [.time] [] s (State.noMaster s) := by
  unfold State.noMaster
  simp (disch := decide) only [Only.refl_iff, Only.set_time]

theorem State.clockHold_only (s : State) : Only [.ev, .recd, .out] [0x0A000205, 0x11000203, 0x11000204] s (State.clockHold s) := by
  unfold State.clockHold
  simp (disch := decide) only [Only.refl_iff, Only.put_iff, Only.step_iff (State.raise_only _ _), Only.ite_iff, Only.iteFst_iff, implies_true, and_self]

theorem State.strand_only (s : State) (i : Install) : Only [.time, .ev, .recd, .out] [0x0A000201, 0x0A000202, 0x0A000205, 0x11000203, 0x11000204] s (State.strand s i) := by
  unfold State.strand
  simp (disch := decide) only [Only.refl_iff, Only.step_iff (State.clockHold_only _), Only.step_iff (State.noMaster_only _), Only.putB_iff, Only.step_iff (State.raise_only _ _), Only.step_iff (State.setRoot_only _ _)]

theorem State.claimDone_only (s : State) : Only [.ev, .recd, .host, .mbox, .out] [0x11000203, 0x11000204] s (State.claimDone s) := by
  unfold State.claimDone
  simp (disch := decide) only [Only.refl_iff, Only.step_iff (State.backEnd_only _ _ _ _ _), Only.step_iff (State.backFail_only _ _ _ _), Only.ite_iff, Only.iteFst_iff, implies_true, and_self]

theorem State.alignOwn_only (s : State) : Only [] [0x04000303] s (State.alignOwn s) := by
  unfold State.alignOwn
  repeat' first
    | simp (disch := decide) only [Only.refl_iff, Only.put_iff, Only.ite_iff, Only.iteFst_iff, implies_true, and_self]
    | split

theorem State.routeApply_only (s : State) : Only [.time, .ev, .recd, .seam, .ctx, .fab, .host, .mbox, .out] [0x04000303, 0x07000001, 0x07000002, 0x07000201, 0x08000101, 0x08000102, 0x0A000002, 0x0A000006, 0x0A000008, 0x0A000101, 0x0A000102, 0x0A000201, 0x0A000202, 0x0A000203, 0x0A000205, 0x0A000208, 0x11000203, 0x11000204] s (State.routeApply s) := by
  unfold State.routeApply
  repeat' first
    | simp (disch := decide) only [Only.refl_iff, Only.set_fab, Only.step_iff (State.alignOwn_only _), Only.bump_iff, Only.step_iff (State.claimDone_only _), Only.step_iff (State.clockFollow_only _ _), Only.step_iff (State.linkShow_only _), Only.step_iff (State.portsFollow_only _ _), Only.step_iff (State.probePump_only _ _), Only.put_iff, Only.putB_iff, Only.step_iff (State.raise_only _ _), Only.step_iff (State.routeChange_only _), Only.step_iff (State.seamFollow_only _ _), Only.step_iff (State.setRoot_only _ _), Only.step_iff (State.strand_only _ _), State.tableWrite_iff, Only.ite_iff, Only.iteFst_iff, implies_true, and_self]
    | split

theorem execPortChangeReport_only (t : Tm) (identity : W64) (port : Port) (up : Bool) {s u : State} (hp : s.pwr.por = false) (h : execPortChangeReport t identity port up s = .next u) :
    Only [.ev, .recd, .fab, .out] [0x0A000208, 0x11000203, 0x11000204] (s.clock t) u := by
  obtain rfl := live_next hp h
  generalize s.clock t = v
  repeat' first
    | simp (disch := decide) only [Only.refl_iff, Only.set_fab, Only.step_iff (State.discovered_only _), Only.step_iff (State.probePump_only _ _), Only.step_iff (State.routeChange_only _), Only.ite_iff, Only.iteFst_iff, implies_true, and_self]
    | split

theorem execClockParentLost_only (t : Tm) {s u : State} (hp : s.pwr.por = false) (h : execClockParentLost t s = .next u) :
    Only [.ev, .recd, .out] [0x0A000205, 0x11000203, 0x11000204] (s.clock t) u := by
  obtain rfl := live_next hp h
  generalize s.clock t = v
  simp (disch := decide) only [Only.refl_iff, Only.step_iff (State.clockHold_only _)]

theorem execHopDelayMeasured_only (t : Tm) (port : Port) (delay : Nat) {s u : State} (hp : s.pwr.por = false) (h : execHopDelayMeasured t port delay s = .next u) :
    Only [.fab] [] (s.clock t) u := by
  obtain rfl := live_next hp h
  generalize s.clock t = v
  simp (disch := decide) only [Only.refl_iff, Only.step_iff (State.modFp_only _ _ _), Only.ite_iff, Only.iteFst_iff, implies_true, and_self]

theorem State.hopsAdopt_only (s : State) : Only [.fab] [0x04000303, 0x0A000003] s (State.hopsAdopt s) := by
  unfold State.hopsAdopt
  simp (disch := first | decide | (intro _ _; simp (disch := decide) only [Only.refl_iff, Only.step_iff (State.alignOwn_only _), Only.each_iff, Only.step_iff (State.modFp_only _ _ _), Only.put_iff, Only.ite_iff, Only.iteFst_iff, implies_true, and_self])) only [Only.refl_iff, Only.step_iff (State.alignOwn_only _), Only.each_iff, Only.step_iff (State.modFp_only _ _ _), Only.put_iff, Only.ite_iff, Only.iteFst_iff, implies_true, and_self]

theorem execRootRelease_only (t : Tm) (mb : Mb) (cmd : Cmd) {s u : State} (hp : s.pwr.por = false) (h : execRootRelease t mb cmd s = .next u) :
    Only [.time, .ev, .recd, .fab, .host, .mbox, .core, .out] [0x0A000201, 0x0A000202, 0x0F000302, 0x0F000303, 0x11000203, 0x11000204] (s.clock t) u := by
  obtain rfl := live_next hp h
  generalize s.clock t = v
  refine (State.command_iff (fun _ _ => ?_) (by decide) (by decide)).2 Only.refl
  simp (disch := decide) only [Only.refl_iff, Only.set_fab, State.ends_s, State.gives_s, Only.step_iff (State.mastered_only _), Only.putB_iff, Only.step_iff (State.raise_only _ _), Only.step_iff (State.setRoot_only _ _), Only.ite_iff, Only.iteFst_iff, implies_true, and_self, Only.iteDone_iff, State.answers_s, State.goesOn_s]

theorem execAddrPlan_only (t : Tm) (mb : Mb) (cmd : Cmd) {s u : State} (hp : s.pwr.por = false) (h : execAddrPlan t mb cmd s = .next u) :
    Only [.ev, .recd, .fab, .host, .mbox, .core, .out] [0x0F000302, 0x0F000303, 0x11000203, 0x11000204] (s.clock t) u := by
  obtain rfl := live_next hp h
  generalize s.clock t = v
  refine (State.command_iff (fun _ _ => ?_) (by decide) (by decide)).2 Only.refl
  simp (disch := decide) only [Only.refl_iff, Only.set_fab, State.ends_s, State.gives_s, Only.ite_iff, Only.iteFst_iff, implies_true, and_self, Only.iteDone_iff, State.answers_s, State.goesOn_s]

theorem execTopologyRead_only (t : Tm) (mb : Mb) (cmd : Cmd) {s u : State} (hp : s.pwr.por = false) (h : execTopologyRead t mb cmd s = .next u) :
    Only [.ev, .recd, .host, .mbox, .core, .out] [0x0F000302, 0x0F000303, 0x11000203, 0x11000204] (s.clock t) u := by
  obtain rfl := live_next hp h
  generalize s.clock t = v
  refine (State.command_iff (fun _ _ => ?_) (by decide) (by decide)).2 Only.refl
  simp (disch := decide) only [Only.refl_iff, State.answers_s, State.ends_s, Only.ite_iff, Only.iteFst_iff, implies_true, and_self, Only.iteDone_iff, State.gives_s, State.goesOn_s]

end Sys2Proof.Machine
end

