-- ==== Sys2Proof/Laws/OnlyLanes.lean ====
section
/-! SUPPORT. What the operations of Machine/Lanes.lean leave alone: one lemma for each. -/

namespace Sys2Proof.Machine

theorem execLaneCdrLock_only (t : Tm) (lane : Lane) {s u : State} (hp : s.pwr.por = false) (h : execLaneCdrLock t lane s = .next u) :
    Only [.time, .fab] [0x0B000003] (s.clock t) u := by
  obtain rfl := live_next hp h
  generalize s.clock t = v
  simp (disch := decide) only [Only.refl_iff, Only.step_iff (State.parentLane_only _), Only.putB_iff, Only.step_iff (State.setLane_only _ _ _), Only.ite_iff, Only.iteFst_iff, implies_true, and_self]

theorem execLaneBlockLock_only (t : Tm) (lane : Lane) {s u : State} (hp : s.pwr.por = false) (h : execLaneBlockLock t lane s = .next u) :
    Only [] [0x0B000003] (s.clock t) u := by
  obtain rfl := live_next hp h
  generalize s.clock t = v
  simp (disch := decide) only [Only.refl_iff, Only.putB_iff, Only.step_iff (State.setLane_only _ _ _), Only.ite_iff, Only.iteFst_iff, implies_true, and_self]

theorem execLaneLockLoss_only (t : Tm) (lane : Lane) (loss : LockLoss) {s u : State} (hp : s.pwr.por = false) (h : execLaneLockLoss t lane loss s = .next u) :
    Only [.time, .ev, .recd, .ctx, .fab, .lane, .core, .out, .free] [0x08000101, 0x08000102, 0x0A000002, 0x0A000005, 0x0A000006, 0x0B000003, 0x0B000004, 0x0B000101, 0x0F000102, 0x0F000103, 0x11000203, 0x11000204] (s.clock t) u := by
  obtain rfl := live_next hp h
  generalize s.clock t = v
  simp (disch := decide) only [Only.refl_iff, Only.bump_iff, Only.step_iff (State.laneLost_only _ _), Only.step_iff (State.parentLane_only _), Only.putB_iff, Only.ite_iff, Only.iteFst_iff, implies_true, and_self]

theorem execLaneNoTransitions_only (t : Tm) (lane : Lane) {s u : State} (hp : s.pwr.por = false) (h : execLaneNoTransitions t lane s = .next u) :
    Only [.time, .ev, .recd, .ctx, .fab, .lane, .core, .out, .free] [0x08000101, 0x08000102, 0x0A000002, 0x0A000005, 0x0A000006, 0x0B000003, 0x0B000004, 0x0B000101, 0x0F000102, 0x0F000103, 0x11000203, 0x11000204] (s.clock t) u := by
  obtain rfl := live_next hp h
  generalize s.clock t = v
  simp (disch := decide) only [Only.refl_iff, Only.bump_iff, Only.step_iff (State.laneLost_only _ _)]

theorem State.peerRoot_only (s : State) (p : Nat) (root : W64) : Only [.ev, .recd, .out] [0x0A000002, 0x0A000202, 0x11000203, 0x11000204] s (State.peerRoot s p root) := by
  unfold State.peerRoot
  simp (disch := decide) only [Only.refl_iff, Only.put_iff, Only.step_iff (State.raise_only _ _), Only.step_iff (State.setRoot_only _ _), Only.ite_iff, Only.iteFst_iff, implies_true, and_self]

theorem State.portComesUp_only (s : State) (p : Nat) (x : LaneSt) : Only [.ev, .recd, .seam, .fab, .lane, .core, .out] [0x08000101, 0x08000102, 0x0A000002, 0x0A000006, 0x0A000007, 0x0A000202, 0x0B000003, 0x0B000101, 0x0F000102, 0x0F000103, 0x11000203, 0x11000204] s (State.portComesUp s p x) := by
  unfold State.portComesUp
  simp (disch := decide) only [Only.refl_iff, Only.step_iff (State.laneActive_only _ _ _), Only.step_iff (State.linkShow_only _), Only.step_iff (State.linkUp_only _ _), Only.step_iff (State.peerRoot_only _ _ _), Only.put_iff, Only.putWord_iff]

theorem State.laneExchanged_only (s : State) (l : Nat) : Only [.ev, .recd, .seam, .fab, .lane, .core, .out] [0x08000101, 0x08000102, 0x0A000002, 0x0A000006, 0x0A000007, 0x0A000202, 0x0B000003, 0x0B000101, 0x0F000102, 0x0F000103, 0x11000203, 0x11000204] s (State.laneExchanged s l) := by
  unfold State.laneExchanged
  simp (disch := decide) only [Only.refl_iff, Only.step_iff (State.laneStandby_only _ _), Only.step_iff (State.portComesUp_only _ _ _), Only.ite_iff, Only.iteFst_iff, implies_true, and_self]

theorem execHello_only (t : Tm) (lane : Lane) (part : Fin 5) (locked : BitVec 4) (value : BitVec 32) {s u : State} (hp : s.pwr.por = false) (h : execHello t lane part locked value s = .next u) :
    Only [.ev, .recd, .seam, .fab, .lane, .core, .out] [0x08000101, 0x08000102, 0x0A000002, 0x0A000006, 0x0A000007, 0x0A000202, 0x0B000003, 0x0B000101, 0x0F000102, 0x0F000103, 0x11000203, 0x11000204] (s.clock t) u := by
  obtain rfl := live_next hp h
  generalize s.clock t = v
  simp (disch := decide) only [Only.refl_iff, Only.step_iff (State.laneExchanged_only _ _), Only.step_iff (State.modLane_only _ _ _), Only.step_iff (State.peerLocks_only _ _ _), Only.step_iff (State.peerRoot_only _ _ _), Only.ite_iff, Only.iteFst_iff, implies_true, and_self]

theorem execAlignBlock_only (t : Tm) (lane : Lane) (mask : BitVec 4) (index : BitVec 2) {s u : State} (hp : s.pwr.por = false) (h : execAlignBlock t lane mask index s = .next u) :
    Only [.ev, .recd, .seam, .fab, .lane, .core, .out] [0x08000101, 0x08000102, 0x0A000002, 0x0A000006, 0x0A000007, 0x0A000202, 0x0B000003, 0x0B000101, 0x0F000102, 0x0F000103, 0x11000203, 0x11000204] (s.clock t) u := by
  obtain rfl := live_next hp h
  generalize s.clock t = v
  simp (disch := decide) only [Only.refl_iff, Only.step_iff (State.helloSend_only _ _), Only.step_iff (State.laneExchanged_only _ _), Only.step_iff (State.modFp_only _ _ _), Only.step_iff (State.modLane_only _ _ _), Only.put_iff, Only.step_iff (State.setLane_only _ _ _), Only.step_iff (State.skewShow_only _ _), Only.ite_iff, Only.iteFst_iff, implies_true, and_self]

theorem execLaneRetrainTimeout_only (t : Tm) (lane : Lane) {s u : State} (hp : s.pwr.por = false) (h : execLaneRetrainTimeout t lane s = .next u) :
    Only [.time, .fab, .lane, .core, .free] [0x0B000003, 0x0B000004, 0x0F000102] (s.clock t) u := by
  obtain rfl := live_next hp h
  generalize s.clock t = v
  repeat' first
    | simp (disch := decide) only [Only.refl_iff, Only.bump_iff, Only.step_iff (State.laneDetect_only _ _), Only.step_iff (State.retrain_only _ _), Only.ite_iff, Only.iteFst_iff, implies_true, and_self]
    | split

theorem State.laneRestart_only (s : State) (l : Nat) : Only [.time, .fab, .lane, .core, .free] [0x0B000003, 0x0F000102] s (State.laneRestart s l) := by
  unfold State.laneRestart
  simp (disch := decide) only [Only.refl_iff, Only.step_iff (State.laneDetect_only _ _), Only.step_iff (State.retrain_only _ _)]

theorem State.laneEnables_only (s : State) : Only [.time, .ev, .recd, .ctx, .fab, .lane, .core, .out, .free] [0x08000101, 0x08000102, 0x0A000002, 0x0A000005, 0x0A000006, 0x0B000003, 0x0B000101, 0x0F000102, 0x0F000103, 0x11000203, 0x11000204] s (State.laneEnables s) := by
  unfold State.laneEnables
  simp (disch := first | decide | (intro _ _; simp (disch := decide) only [Only.refl_iff, Only.each_iff, Only.step_iff (State.laneDetect_only _ _), Only.step_iff (State.laneOff_only _ _), Only.step_iff (State.portFail_only _ _), Only.put_iff, Only.step_iff (State.restripe_only _ _), Only.step_iff (State.setLane_only _ _ _), Only.ite_iff, Only.iteFst_iff, implies_true, and_self])) only [Only.refl_iff, Only.each_iff, Only.step_iff (State.laneDetect_only _ _), Only.step_iff (State.laneOff_only _ _), Only.step_iff (State.portFail_only _ _), Only.put_iff, Only.step_iff (State.restripe_only _ _), Only.step_iff (State.setLane_only _ _ _), Only.ite_iff, Only.iteFst_iff, implies_true, and_self]

theorem execRestripe_only (t : Tm) (port : Port) (mask locked : BitVec 4) {s u : State} (hp : s.pwr.por = false) (h : execRestripe t port mask locked s = .next u) :
    Only [.time, .ev, .recd, .ctx, .fab, .lane, .core, .out, .free] [0x08000101, 0x08000102, 0x0A000002, 0x0A000005, 0x0A000006, 0x0B000003, 0x0B000101, 0x0F000102, 0x0F000103, 0x11000203, 0x11000204] (s.clock t) u := by
  obtain rfl := live_next hp h
  generalize s.clock t = v
  simp (disch := decide) only [Only.refl_iff, Only.step_iff (State.linkSend_only _ _ _), Only.step_iff (State.peerLocks_only _ _ _), Only.step_iff (State.portFail_only _ _), Only.step_iff (State.restripe_only _ _), Only.step_iff (State.stripeDone_only _ _ _), Only.step_iff (State.stripeSend_only _ _ _ _), Only.ite_iff, Only.iteFst_iff, implies_true, and_self]

theorem execRestripeResend_only (t : Tm) (port : Port) {s u : State} (hp : s.pwr.por = false) (h : execRestripeResend t port s = .next u) :
    Only [.time, .ev, .recd, .ctx, .fab, .lane, .core, .out, .free] [0x08000101, 0x08000102, 0x0A000002, 0x0A000005, 0x0A000006, 0x0B000003, 0x0B000101, 0x0F000102, 0x0F000103, 0x11000203, 0x11000204] (s.clock t) u := by
  obtain rfl := live_next hp h
  generalize s.clock t = v
  repeat' first
    | simp (disch := decide) only [Only.refl_iff, Only.step_iff (State.linkSend_only _ _ _), Only.step_iff (State.modPortLane_only _ _ _), Only.step_iff (State.restripe_only _ _), Only.ite_iff, Only.iteFst_iff, implies_true, and_self]
    | split

theorem execRestripeTimeout_only (t : Tm) (port : Port) {s u : State} (hp : s.pwr.por = false) (h : execRestripeTimeout t port s = .next u) :
    Only [.time, .ev, .recd, .ctx, .fab, .lane, .core, .out, .free] [0x08000101, 0x08000102, 0x0A000002, 0x0A000005, 0x0A000006, 0x0B000003, 0x0B000101, 0x0F000102, 0x11000203, 0x11000204] (s.clock t) u := by
  obtain rfl := live_next hp h
  generalize s.clock t = v
  repeat' first
    | simp (disch := decide) only [Only.refl_iff, Only.step_iff (State.portFail_only _ _), Only.ite_iff, Only.iteFst_iff, implies_true, and_self]
    | split

theorem execLaneReady_only (t : Tm) (port : Port) (locked : BitVec 4) {s u : State} (hp : s.pwr.por = false) (h : execLaneReady t port locked s = .next u) :
    Only [.lane] [] (s.clock t) u := by
  obtain rfl := live_next hp h
  generalize s.clock t = v
  simp (disch := first | decide | (intro _ _; simp (disch := decide) only [Only.refl_iff, Only.each_iff, Only.step_iff (State.modLane_only _ _ _), Only.step_iff (State.peerLocks_only _ _ _), Only.ite_iff, Only.iteFst_iff, implies_true, and_self])) only [Only.refl_iff, Only.each_iff, Only.step_iff (State.modLane_only _ _ _), Only.step_iff (State.peerLocks_only _ _ _), Only.ite_iff, Only.iteFst_iff, implies_true, and_self]

theorem execRejoinHoldExpire_only (t : Tm) (lane : Lane) {s u : State} (hp : s.pwr.por = false) (h : execRejoinHoldExpire t lane s = .next u) :
    Only [.lane] [] (s.clock t) u := by
  obtain rfl := live_next hp h
  generalize s.clock t = v
  repeat' first
    | simp (disch := decide) only [Only.refl_iff, Only.step_iff (State.modLane_only _ _ _), Only.ite_iff, Only.iteFst_iff, implies_true, and_self]
    | split

theorem State.rejoinArm_only (s : State) : Only [.lane] [] s (State.rejoinArm s) := by
  unfold State.rejoinArm
  simp (disch := first | decide | (intro _ _; simp (disch := decide) only [Only.refl_iff, Only.each_iff, Only.step_iff (State.modPortLane_only _ _ _), Only.ite_iff, Only.iteFst_iff, implies_true, and_self])) only [Only.refl_iff, Only.each_iff, Only.step_iff (State.modPortLane_only _ _ _), Only.ite_iff, Only.iteFst_iff, implies_true, and_self]

theorem execLaneRejoin_only (t : Tm) (port : Port) {s u : State} (hp : s.pwr.por = false) (h : execLaneRejoin t port s = .next u) :
    Only [.ev, .recd, .fab, .lane, .core, .out] [0x08000101, 0x08000102, 0x0A000002, 0x0B000003, 0x0B000101, 0x0F000102, 0x0F000103, 0x11000203, 0x11000204] (s.clock t) u := by
  obtain rfl := live_next hp h
  generalize s.clock t = v
  simp (disch := first | decide | (intro _ _; simp (disch := decide) only [Only.refl_iff, Only.each_iff, Only.step_iff (State.laneActive_only _ _ _), Only.step_iff (State.modLane_only _ _ _), Only.step_iff (State.modPortLane_only _ _ _), Only.step_iff (State.portWidens_only _ _ _), Only.step_iff (State.raise_only _ _), Only.ite_iff, Only.iteFst_iff, implies_true, and_self])) only [Only.refl_iff, Only.each_iff, Only.step_iff (State.laneActive_only _ _ _), Only.step_iff (State.modLane_only _ _ _), Only.step_iff (State.modPortLane_only _ _ _), Only.step_iff (State.portWidens_only _ _ _), Only.step_iff (State.raise_only _ _), Only.ite_iff, Only.iteFst_iff, implies_true, and_self]

theorem State.testEnd_only (s : State) (l : Nat) : Only [.time, .fab, .lane, .core, .free] [0x0B000003, 0x0F000102, 0x0F000103] s (State.testEnd s l) := by
  unfold State.testEnd
  simp (disch := decide) only [Only.refl_iff, Only.step_iff (State.laneOff_only _ _), Only.step_iff (State.laneRestart_only _ _), Only.ite_iff, Only.iteFst_iff, implies_true, and_self]

theorem State.testBegin_only (s : State) (l : Nat) : Only [.lane, .core] [0x0B000003, 0x0F000102, 0x0F000103] s (State.testBegin s l) := by
  unfold State.testBegin
  simp (disch := decide) only [Only.refl_iff, Only.step_iff (State.modLane_only _ _ _), Only.step_iff (State.retrained_only _ _), Only.step_iff (State.setLane_only _ _ _)]

theorem State.laneLoop_only (s : State) (l v : Nat) : Only [.time, .fab, .lane, .core, .out, .free] [0x0B000003, 0x0B000005, 0x0F000102, 0x0F000103] s (State.laneLoop s l v).1 := by
  unfold State.laneLoop
  simp (disch := decide) only [Only.refl_iff, Only.step_iff (State.linkSend_only _ _ _), Only.step_iff (State.modLane_only _ _ _), Only.put_iff, Only.step_iff (State.testBegin_only _ _), Only.step_iff (State.testEnd_only _ _), Only.ite_iff, Only.iteFst_iff, implies_true, and_self]

theorem execLaneLoopWrite_only (t : Tm) (lane : Lane) (value : BitVec 3) {s u : State} (hp : s.pwr.por = false) (h : execLaneLoopWrite t lane value s = .next u) :
    Only [.time, .fab, .lane, .core, .out, .free] [0x0B000003, 0x0B000005, 0x0F000102, 0x0F000103] (s.clock t) u := by
  obtain rfl := live_next hp h
  generalize s.clock t = v
  simp (disch := decide) only [Only.refl_iff, Only.step_iff (State.laneLoop_only _ _ _)]

theorem execLoopReq_only (t : Tm) (port : Port) (mask : BitVec 4) (start : Bool) {s u : State} (hp : s.pwr.por = false) (h : execLoopReq t port mask start s = .next u) :
    Only [.time, .fab, .lane, .core, .out, .free] [0x0B000003, 0x0F000102, 0x0F000103] (s.clock t) u := by
  obtain rfl := live_next hp h
  generalize s.clock t = v
  simp (disch := first | decide | (intro _ _; simp (disch := decide) only [Only.refl_iff, Only.each_iff, Only.step_iff (State.linkSend_only _ _ _), Only.step_iff (State.modLane_only _ _ _), Only.step_iff (State.testBegin_only _ _), Only.step_iff (State.testEnd_only _ _), Only.ite_iff, Only.iteFst_iff, implies_true, and_self])) only [Only.refl_iff, Only.each_iff, Only.step_iff (State.linkSend_only _ _ _), Only.step_iff (State.modLane_only _ _ _), Only.step_iff (State.testBegin_only _ _), Only.step_iff (State.testEnd_only _ _), Only.ite_iff, Only.iteFst_iff, implies_true, and_self]

theorem State.farDone_only (s : State) (l : Nat) : Only [.mbox] [] s (State.farDone s l) := by
  unfold State.farDone
  repeat' first
    | simp (disch := decide) only [Only.refl_iff, Only.set_mbox, Only.step_iff (State.backEnd_only _ _ _ _ _), Only.ite_iff, Only.iteFst_iff, implies_true, and_self]
    | split

theorem execLoopAck_only (t : Tm) (port : Port) (mask : BitVec 4) (accepted : Bool) {s u : State} (hp : s.pwr.por = false) (h : execLoopAck t port mask accepted s = .next u) :
    Only [.ev, .recd, .lane, .host, .mbox, .core, .out] [0x0B000003, 0x0B000005, 0x0F000102, 0x0F000103, 0x11000203, 0x11000204] (s.clock t) u := by
  obtain rfl := live_next hp h
  generalize s.clock t = v
  simp (disch := first | decide | (intro _ _; simp (disch := decide) only [Only.refl_iff, Only.step_iff (State.backFail_only _ _ _ _), Only.each_iff, Only.step_iff (State.farDone_only _ _), Only.step_iff (State.modLane_only _ _ _), Only.put_iff, Only.step_iff (State.testBegin_only _ _), Only.ite_iff, Only.iteFst_iff, implies_true, and_self])) only [Only.refl_iff, Only.step_iff (State.backFail_only _ _ _ _), Only.each_iff, Only.step_iff (State.farDone_only _ _), Only.step_iff (State.modLane_only _ _ _), Only.put_iff, Only.step_iff (State.testBegin_only _ _), Only.ite_iff, Only.iteFst_iff, implies_true, and_self]

theorem execFarLoopTimeout_only (t : Tm) (lane : Lane) {s u : State} (hp : s.pwr.por = false) (h : execFarLoopTimeout t lane s = .next u) :
    Only [.ev, .recd, .lane, .host, .mbox, .out] [0x11000203, 0x11000204] (s.clock t) u := by
  obtain rfl := live_next hp h
  generalize s.clock t = v
  repeat' first
    | simp (disch := decide) only [Only.refl_iff, Only.step_iff (State.backFail_only _ _ _ _), Only.step_iff (State.modLane_only _ _ _), Only.ite_iff, Only.iteFst_iff, implies_true, and_self]
    | split

theorem State.prbsWrite_only (s : State) (p v : Nat) : Only [.time, .ev, .recd, .fab, .lane, .core, .out, .free] [0x0B000003, 0x0B000102, 0x0B000104, 0x0F000102, 0x0F000103, 0x11000203, 0x11000204] s (State.prbsWrite s p v).1 := by
  unfold State.prbsWrite
  simp (disch := decide) only [Only.refl_iff, Only.bump_iff, Only.step_iff (State.emit_only _ _), Only.step_iff (State.modPortLane_only _ _ _), Only.putB_iff, Only.putWord_iff, Only.step_iff (State.raise_only _ _), Only.step_iff (State.testBegin_only _ _), Only.step_iff (State.testEnd_only _ _), Only.ite_iff, Only.iteFst_iff, implies_true, and_self]

theorem execPrbsInject_only (t : Tm) (port : Port) {s u : State} (hp : s.pwr.por = false) (h : execPrbsInject t port s = .next u) :
    Only [.out] [] (s.clock t) u := by
  obtain rfl := live_next hp h
  generalize s.clock t = v
  simp (disch := decide) only [Only.refl_iff, Only.step_iff (State.emit_only _ _), Only.ite_iff, Only.iteFst_iff, implies_true, and_self]

theorem State.prbsLock_only (s : State) (p : Nat) (on : Bool) : Only [.ev, .recd, .out] [0x0B000104, 0x0B000105, 0x0B000106, 0x11000203, 0x11000204] s (State.prbsLock s p on) := by
  unfold State.prbsLock
  simp (disch := decide) only [Only.refl_iff, Only.bump_iff, Only.put_iff, Only.putB_iff, Only.step_iff (State.raise_only _ _), Only.ite_iff, Only.iteFst_iff, implies_true, and_self]

theorem State.prbsBit_only (s : State) (p : Nat) (b : Bool) : Only [.ev, .recd, .lane, .out] [0x0B000104, 0x0B000105, 0x0B000106, 0x11000203, 0x11000204] s (State.prbsBit s p b) := by
  unfold State.prbsBit
  simp (disch := decide) only [Only.refl_iff, Only.bump_iff, Only.step_iff (State.modPortLane_only _ _ _), Only.step_iff (State.prbsLock_only _ _ _), Only.ite_iff, Only.iteFst_iff, implies_true, and_self]

theorem State.prbsBits_only (s : State) (p : Nat) (bits : List Bool) : Only [.ev, .recd, .lane, .out] [0x0B000104, 0x0B000105, 0x0B000106, 0x11000203, 0x11000204] s (State.prbsBits s p bits) := by
  unfold State.prbsBits
  simp (disch := first | decide | (intro _ _; simp (disch := decide) only [Only.refl_iff, Only.step_iff (State.prbsBit_only _ _ _), Only.foldl_iff])) only [Only.refl_iff, Only.step_iff (State.prbsBit_only _ _ _), Only.foldl_iff]

theorem State.prbsRun_only (s : State) (p : Nat) (x : Nat) : Only [.ev, .recd, .lane, .out] [0x0B000104, 0x0B000105, 0x0B000106, 0x11000203, 0x11000204] s (State.prbsRun s p x) := by
  induction x generalizing s p with
  | zero => exact Only.refl
  | succ k ih =>
    unfold State.prbsRun
    simp (disch := decide) only [Only.refl_iff, Only.step_iff (State.prbsBit_only _ _ _), Only.step_iff (ih _ _)]

theorem execPrbsCheckerLock_only (t : Tm) (port : Port) (received : List Bool) (run : Nat) (more : List Bool) {s u : State} (hp : s.pwr.por = false) (h : execPrbsCheckerLock t port received run more s = .next u) :
    Only [.ev, .recd, .lane, .out] [0x0B000104, 0x0B000105, 0x0B000106, 0x11000203, 0x11000204] (s.clock t) u := by
  obtain rfl := live_next hp h
  generalize s.clock t = v
  simp (disch := decide) only [Only.refl_iff, Only.step_iff (State.prbsBits_only _ _ _), Only.step_iff (State.prbsRun_only _ _ _), Only.ite_iff, Only.iteFst_iff, implies_true, and_self]

end Sys2Proof.Machine
end

