-- ==== Sys2Proof/Laws/OnlyDdr.lean ====
section
/-! SUPPORT. What the operations of Machine/Ddr.lean leave alone: one lemma for each. -/

namespace Sys2Proof.Machine

theorem State.ddrShape_only (s : State) : Only [] [0x0D000209] s (State.ddrShape s) := by
  unfold State.ddrShape
  repeat' first
    | simp (disch := decide) only [Only.refl_iff, Only.put_iff, Only.putB_iff]
    | split

theorem State.ddrOnline_only (s : State) : Only [.ev, .recd, .deck, .seam, .ctx, .fab, .ddr, .out] [0x06000203, 0x06000204, 0x06000205, 0x07000002, 0x07000003, 0x07000004, 0x07000005, 0x07000006, 0x07000205, 0x07000206, 0x07000207, 0x07000208, 0x08000202, 0x0A000006, 0x0A000008, 0x0D000209, 0x11000203, 0x11000204] s (State.ddrOnline s) := by
  unfold State.ddrOnline
  simp (disch := decide) only [Only.refl_iff, Only.set_ddr, Only.step_iff (State.deckOnline_only _ _), Only.step_iff (State.deckRates_only _), Only.putB_iff, Only.step_iff (State.raise_only _ _), Only.step_iff (State.seamEval_only _)]

theorem State.ddrJobsEnd_only (s : State) : Only [.ev, .recd, .mbox, .press, .out, .free] [0x09000001, 0x09000002, 0x09000003, 0x09000202, 0x09000203, 0x11000203, 0x11000204] s (State.ddrJobsEnd s) := by
  unfold State.ddrJobsEnd
  repeat' first
    | simp (disch := first | decide | (intro _ _; repeat' first | simp (disch := decide) only [Only.refl_iff, Only.each_iff, Only.step_iff (State.fresh_only _), Only.step_iff (State.jobLeave_only _ _ _ _), Only.ite_iff, Only.iteFst_iff, implies_true, and_self] | split)) only [Only.refl_iff, Only.each_iff, Only.step_iff (State.fresh_only _), Only.step_iff (State.jobLeave_only _ _ _ _), Only.ite_iff, Only.iteFst_iff, implies_true, and_self]
    | split

theorem State.ddrLoss_only (s : State) (c : Nat) : Only [.ev, .recd, .trg, .deck, .seam, .ctx, .fab, .ddr, .mbox, .core, .press, .out, .free] [0x04000308, 0x06000101, 0x06000102, 0x06000203, 0x07000002, 0x07000003, 0x07000004, 0x07000005, 0x07000006, 0x07000205, 0x07000206, 0x07000207, 0x07000208, 0x08000015, 0x08000019, 0x08000201, 0x08000202, 0x09000001, 0x09000002, 0x09000003, 0x09000202, 0x09000203, 0x0A000006, 0x0A000008, 0x0D000001, 0x0D000209, 0x0F000102, 0x0F000103, 0x11000203, 0x11000204] s (State.ddrLoss s c) := by
  unfold State.ddrLoss
  simp (disch := first | decide | (intro _ _; simp (disch := decide) only [Only.refl_iff, Only.set_ddr, Only.step_iff (State.ctxEval_only _ _), Only.step_iff (State.ddrDrop_only _), Only.step_iff (State.ddrJobsEnd_only _), Only.step_iff (State.deckService_only _ _), Only.each_iff, Only.step_iff (State.maintEnd_only _ _ _), Only.step_iff (State.modDc_only _ _ _), Only.put_iff, Only.putB_iff, Only.step_iff (State.raise_only _ _), Only.step_iff (State.sessLostAll_only _), Only.step_iff (State.spillLost_only _), Only.ite_iff, Only.iteFst_iff, implies_true, and_self])) only [Only.refl_iff, Only.set_ddr, Only.step_iff (State.ctxEval_only _ _), Only.step_iff (State.ddrDrop_only _), Only.step_iff (State.ddrJobsEnd_only _), Only.step_iff (State.deckService_only _ _), Only.each_iff, Only.step_iff (State.maintEnd_only _ _ _), Only.step_iff (State.modDc_only _ _ _), Only.put_iff, Only.putB_iff, Only.step_iff (State.raise_only _ _), Only.step_iff (State.sessLostAll_only _), Only.step_iff (State.spillLost_only _), Only.ite_iff, Only.iteFst_iff, implies_true, and_self]

theorem State.ddrReturn_only (s : State) : Only [.ev, .recd, .deck, .seam, .ctx, .fab, .ddr, .mbox, .out] [0x06000101, 0x06000102, 0x06000203, 0x06000204, 0x06000205, 0x06000206, 0x06000207, 0x06000208, 0x06000209, 0x0600020B, 0x0600020D, 0x07000002, 0x07000003, 0x07000004, 0x07000005, 0x07000006, 0x07000205, 0x07000206, 0x07000207, 0x07000208, 0x08000015, 0x08000201, 0x08000202, 0x0A000006, 0x0A000008, 0x0D000209, 0x11000203, 0x11000204] s (State.ddrReturn s) := by
  unfold State.ddrReturn
  simp (disch := first | decide | (intro _ _; simp (disch := decide) only [Only.refl_iff, Only.step_iff (State.backEnd_only _ _ _ _ _), Only.step_iff (State.ctxReset_only _ _), Only.step_iff (State.ddrOnline_only _), Only.step_iff (State.deckEmpty_only _ _), Only.each_iff, Only.ite_iff, Only.iteFst_iff, implies_true, and_self])) only [Only.refl_iff, Only.step_iff (State.backEnd_only _ _ _ _ _), Only.step_iff (State.ctxReset_only _ _), Only.step_iff (State.ddrOnline_only _), Only.step_iff (State.deckEmpty_only _ _), Only.each_iff, Only.ite_iff, Only.iteFst_iff, implies_true, and_self]

theorem State.spdTake_only (s : State) (c : Nat) (d : Spd) : Only [.ddr] [0x0D000001, 0x0D000002, 0x0D000209] s (State.spdTake s c d) := by
  unfold State.spdTake
  simp (disch := decide) only [Only.refl_iff, Only.step_iff (State.ddrShape_only _), Only.step_iff (State.modDc_only _ _ _), Only.put_iff, Only.putB_iff]

theorem State.trainAt_only (s : State) (c n : Nat) : Only [.ddr] [0x0D000001] s (State.trainAt s c n) := by
  unfold State.trainAt
  simp (disch := decide) only [Only.refl_iff, Only.step_iff (State.modDc_only _ _ _), Only.put_iff]

theorem State.trained_only (s : State) (c : Nat) : Only [.ev, .recd, .deck, .seam, .ctx, .fab, .ddr, .mbox, .out] [0x06000203, 0x06000204, 0x06000205, 0x07000002, 0x07000003, 0x07000004, 0x07000005, 0x07000006, 0x07000205, 0x07000206, 0x07000207, 0x07000208, 0x08000202, 0x0A000006, 0x0A000008, 0x0D000001, 0x0D000209, 0x11000203, 0x11000204] s (State.trained s c) := by
  unfold State.trained
  simp (disch := decide) only [Only.refl_iff, Only.set_ddr, Only.step_iff (State.backEnd_only _ _ _ _ _), Only.step_iff (State.ddrOnline_only _), Only.step_iff (State.ddrShape_only _), Only.step_iff (State.modDc_only _ _ _), Only.put_iff, Only.ite_iff, Only.iteFst_iff, implies_true, and_self]

theorem State.trainFailed_only (s : State) (c : Nat) : Only [.ev, .recd, .ddr, .host, .mbox, .out] [0x0D000001, 0x11000203, 0x11000204] s (State.trainFailed s c) := by
  unfold State.trainFailed
  simp (disch := decide) only [Only.refl_iff, Only.step_iff (State.backFail_only _ _ _ _), Only.step_iff (State.modDc_only _ _ _), Only.put_iff, Only.step_iff (State.raise_only _ _)]

theorem State.trainNext_only (s : State) (c n : Nat) : Only [.ev, .recd, .deck, .seam, .ctx, .fab, .ddr, .mbox, .out] [0x06000203, 0x06000204, 0x06000205, 0x07000002, 0x07000003, 0x07000004, 0x07000005, 0x07000006, 0x07000205, 0x07000206, 0x07000207, 0x07000208, 0x08000202, 0x0A000006, 0x0A000008, 0x0D000001, 0x0D000209, 0x11000203, 0x11000204] s (State.trainNext s c n) := by
  unfold State.trainNext
  simp (disch := decide) only [Only.refl_iff, Only.step_iff (State.modDc_only _ _ _), Only.putB_iff, Only.step_iff (State.trainAt_only _ _ _), Only.step_iff (State.trained_only _ _), Only.ite_iff, Only.iteFst_iff, implies_true, and_self]

theorem execDdrTrainingStep_only (t : Tm) (ch : DdrCh) (passed : Bool) (spd : Spd) {s u : State} (hp : s.pwr.por = false) (h : execDdrTrainingStep t ch passed spd s = .next u) :
    Only [.ev, .recd, .deck, .seam, .ctx, .fab, .ddr, .host, .mbox, .out] [0x06000203, 0x06000204, 0x06000205, 0x07000002, 0x07000003, 0x07000004, 0x07000005, 0x07000006, 0x07000205, 0x07000206, 0x07000207, 0x07000208, 0x08000202, 0x0A000006, 0x0A000008, 0x0D000001, 0x0D000002, 0x0D000209, 0x11000203, 0x11000204] (s.clock t) u := by
  obtain rfl := live_next hp h
  generalize s.clock t = v
  simp (disch := decide) only [Only.refl_iff, Only.step_iff (State.modDc_only _ _ _), Only.put_iff, Only.putB_iff, Only.step_iff (State.spdTake_only _ _ _), Only.step_iff (State.trainAt_only _ _ _), Only.step_iff (State.trainFailed_only _ _), Only.step_iff (State.trainNext_only _ _ _), Only.ite_iff, Only.iteFst_iff, implies_true, and_self]

theorem execRefreshDue_only (t : Tm) (ch : DdrCh) {s u : State} (hp : s.pwr.por = false) (h : execRefreshDue t ch s = .next u) :
    Only [.ddr, .out] [0x0D000006] (s.clock t) u := by
  obtain rfl := live_next hp h
  generalize s.clock t = v
  simp (disch := decide) only [Only.refl_iff, Only.bump_iff, Only.step_iff (State.ddrRun_only _ _), Only.put_iff, Only.step_iff (State.refresh_only _ _), Only.step_iff (State.refreshNext_only _ _), Only.ite_iff, Only.iteFst_iff, implies_true, and_self]

theorem execPanicBegin_only (t : Tm) (ch : DdrCh) (level : Nat) {s u : State} (hp : s.pwr.por = false) (h : execPanicBegin t ch level s = .next u) :
    Only [.ev, .recd, .ddr, .out] [0x0D000001, 0x0D000007, 0x11000203, 0x11000204] (s.clock t) u := by
  obtain rfl := live_next hp h
  generalize s.clock t = v
  simp (disch := decide) only [Only.refl_iff, Only.bump_iff, Only.step_iff (State.ddrRun_only _ _), Only.step_iff (State.modDc_only _ _ _), Only.putB_iff, Only.step_iff (State.raise_only _ _), Only.ite_iff, Only.iteFst_iff, implies_true, and_self]

theorem execPanicEnd_only (t : Tm) (ch : DdrCh) (level : Nat) {s u : State} (hp : s.pwr.por = false) (h : execPanicEnd t ch level s = .next u) :
    Only [.ddr] [0x0D000001] (s.clock t) u := by
  obtain rfl := live_next hp h
  generalize s.clock t = v
  simp (disch := decide) only [Only.refl_iff, Only.step_iff (State.ddrRun_only _ _), Only.putB_iff, Only.ite_iff, Only.iteFst_iff, implies_true, and_self]

theorem execRefreshRepay_only (t : Tm) (ch : DdrCh) {s u : State} (hp : s.pwr.por = false) (h : execRefreshRepay t ch s = .next u) :
    Only [.ddr, .out] [0x0D000006] (s.clock t) u := by
  obtain rfl := live_next hp h
  generalize s.clock t = v
  simp (disch := decide) only [Only.refl_iff, Only.step_iff (State.ddrRun_only _ _), Only.step_iff (State.modDc_only _ _ _), Only.put_iff, Only.step_iff (State.refresh_only _ _), Only.ite_iff, Only.iteFst_iff, implies_true, and_self]

theorem State.ddrCe_only (s : State) (c device rank : Nat) : Only [.ev, .recd, .ddr, .out] [0x0D000003, 0x0D000008, 0x11000203, 0x11000204] s (State.ddrCe s c device rank) := by
  unfold State.ddrCe
  simp (disch := decide) only [Only.refl_iff, Only.bump_iff, Only.step_iff (State.modDc_only _ _ _), Only.put_iff, Only.putB_iff, Only.step_iff (State.raise_only _ _), Only.ite_iff, Only.iteFst_iff, implies_true, and_self]

theorem State.ddrBad_only (s : State) (addr : Nat) : Only [.ddr] [] s (State.ddrBad s addr) := by
  unfold State.ddrBad
  simp (disch := decide) only [Only.refl_iff, Only.set_ddr, Only.ite_iff, Only.iteFst_iff, implies_true, and_self]

theorem State.poisonRead_only (s : State) (addr : Nat) : Only [.ev, .recd, .out] [0x0D000004, 0x0D00000A, 0x11000203, 0x11000204] s (State.poisonRead s addr) := by
  unfold State.poisonRead
  simp (disch := decide) only [Only.refl_iff, Only.bump_iff, Only.put_iff, Only.step_iff (State.raise_only _ _)]

theorem execDdrReadComplete_only (t : Tm) (ch : DdrCh) (addr : Nat) (tries : List (Fin 3)) (device : Fin 20) (rank : Fin 8) {s u : State} (hp : s.pwr.por = false) (h : execDdrReadComplete t ch addr tries device rank s = .next u) :
    Only [.ev, .recd, .ddr, .out] [0x0D000003, 0x0D000004, 0x0D000008, 0x0D00000A, 0x11000203, 0x11000204] (s.clock t) u := by
  obtain rfl := live_next hp h
  generalize s.clock t = v
  repeat' first
    | simp (disch := decide) only [Only.refl_iff, Only.bump_iff, Only.step_iff (State.ddrBad_only _ _), Only.step_iff (State.ddrCe_only _ _ _ _), Only.step_iff (State.ddrRun_only _ _), Only.put_iff, Only.step_iff (State.raise_only _ _), Only.ite_iff, Only.iteFst_iff, implies_true, and_self]
    | split

theorem State.scrubBegin_only (s : State) : Only [.ev, .recd, .core, .out] [0x0F000102, 0x11000203, 0x11000204] s (State.scrubBegin s) := by
  unfold State.scrubBegin
  repeat' first
    | simp (disch := first | decide | (intro _ _; repeat' first | simp (disch := decide) only [Only.refl_iff, Only.each_iff, Only.step_iff (State.maintBegin_only _ _ _ _), Only.step_iff (State.maintDefer_only _ _ _ _), Only.ite_iff, Only.iteFst_iff, implies_true, and_self] | split)) only [Only.refl_iff, Only.each_iff, Only.step_iff (State.maintBegin_only _ _ _ _), Only.step_iff (State.maintDefer_only _ _ _ _), Only.ite_iff, Only.iteFst_iff, implies_true, and_self]
    | split

theorem execDdrScrubRead_only (t : Tm) (addr : Nat) (result : Fin 3) (written : Bool) {s u : State} (hp : s.pwr.por = false) (h : execDdrScrubRead t addr result written s = .next u) :
    Only [.ev, .recd, .ddr, .core, .out] [0x0D000003, 0x0D000004, 0x0D00000A, 0x0D000207, 0x0F000102, 0x0F000103, 0x11000203, 0x11000204] (s.clock t) u := by
  obtain rfl := live_next hp h
  generalize s.clock t = v
  simp (disch := decide) only [Only.refl_iff, Only.set_ddr, Only.bump_iff, Only.step_iff (State.ddrBad_only _ _), Only.step_iff (State.ddrUse_only _ _ _ _ _), Only.step_iff (State.emit_only _ _), Only.step_iff (State.maintEnd_only _ _ _), Only.put_iff, Only.step_iff (State.raise_only _ _), Only.step_iff (State.scrubBegin_only _), Only.ite_iff, Only.iteFst_iff, implies_true, and_self]

theorem State.retrainBegin_only (s : State) (c : Nat) : Only [.ddr] [] s (State.retrainBegin s c) := by
  unfold State.retrainBegin
  simp (disch := decide) only [Only.refl_iff, Only.step_iff (State.modDc_only _ _ _)]

theorem execDdrRetrainStep_only (t : Tm) (ch : DdrCh) (passed : Bool) {s u : State} (hp : s.pwr.por = false) (h : execDdrRetrainStep t ch passed s = .next u) :
    Only [.ev, .recd, .trg, .deck, .seam, .ctx, .fab, .ddr, .mbox, .core, .press, .out, .free] [0x04000308, 0x06000101, 0x06000102, 0x06000203, 0x07000002, 0x07000003, 0x07000004, 0x07000005, 0x07000006, 0x07000205, 0x07000206, 0x07000207, 0x07000208, 0x08000015, 0x08000019, 0x08000201, 0x08000202, 0x09000001, 0x09000002, 0x09000003, 0x09000202, 0x09000203, 0x0A000006, 0x0A000008, 0x0D000001, 0x0D000209, 0x0F000102, 0x0F000103, 0x11000203, 0x11000204] (s.clock t) u := by
  obtain rfl := live_next hp h
  generalize s.clock t = v
  repeat' first
    | simp (disch := decide) only [Only.refl_iff, Only.step_iff (State.ddrLoss_only _ _), Only.step_iff (State.maintEnd_only _ _ _), Only.step_iff (State.modDc_only _ _ _), Only.step_iff (State.raise_only _ _), Only.ite_iff, Only.iteFst_iff, implies_true, and_self]
    | split

theorem execDdrAlert_only (t : Tm) (ch : DdrCh) (writeCrc : Bool) (failedReplays : Nat) {s u : State} (hp : s.pwr.por = false) (h : execDdrAlert t ch writeCrc failedReplays s = .next u) :
    Only [.ev, .recd, .trg, .deck, .seam, .ctx, .fab, .ddr, .mbox, .core, .press, .out, .free] [0x04000308, 0x06000101, 0x06000102, 0x06000203, 0x07000002, 0x07000003, 0x07000004, 0x07000005, 0x07000006, 0x07000205, 0x07000206, 0x07000207, 0x07000208, 0x08000015, 0x08000019, 0x08000201, 0x08000202, 0x09000001, 0x09000002, 0x09000003, 0x09000202, 0x09000203, 0x0A000006, 0x0A000008, 0x0D000001, 0x0D000005, 0x0D000209, 0x0F000102, 0x0F000103, 0x11000203, 0x11000204] (s.clock t) u := by
  obtain rfl := live_next hp h
  generalize s.clock t = v
  simp (disch := decide) only [Only.refl_iff, Only.bump_iff, Only.step_iff (State.ddrLoss_only _ _), Only.step_iff (State.raise_only _ _), Only.ite_iff, Only.iteFst_iff, implies_true, and_self]

theorem execDdrFence_only (t : Tm) {s u : State} (hp : s.pwr.por = false) (h : execDdrFence t s = .next u) :
    Only [.ddr] [] (s.clock t) u := by
  obtain rfl := live_next hp h
  generalize s.clock t = v
  simp (disch := decide) only [Only.refl_iff, Only.set_ddr, Only.step_iff (State.ddrRun_only _ _), Only.ite_iff, Only.iteFst_iff, implies_true, and_self]

theorem execSpdTempRead_only (t : Tm) (ch : DdrCh) (temp : Int) {s u : State} (hp : s.pwr.por = false) (h : execSpdTempRead t ch temp s = .next u) :
    Only [.ev, .recd, .trg, .deck, .seam, .ctx, .fab, .ddr, .mbox, .core, .press, .out, .free] [0x04000308, 0x06000101, 0x06000102, 0x06000203, 0x07000002, 0x07000003, 0x07000004, 0x07000005, 0x07000006, 0x07000205, 0x07000206, 0x07000207, 0x07000208, 0x08000015, 0x08000019, 0x08000201, 0x08000202, 0x09000001, 0x09000002, 0x09000003, 0x09000202, 0x09000203, 0x0A000006, 0x0A000008, 0x0D000001, 0x0D000009, 0x0D000209, 0x0F000102, 0x0F000103, 0x11000203, 0x11000204] (s.clock t) u := by
  obtain rfl := live_next hp h
  generalize s.clock t = v
  repeat' first
    | simp (disch := decide) only [Only.refl_iff, Only.step_iff (State.ddrLoss_only _ _), Only.step_iff (State.modDc_only _ _ _), Only.put_iff, Only.step_iff (State.raiseIf_only _ _ _), Only.ite_iff, Only.iteFst_iff, implies_true, and_self]
    | split

theorem execMr4Read_only (t : Tm) (ch : DdrCh) (hot : Bool) {s u : State} (hp : s.pwr.por = false) (h : execMr4Read t ch hot s = .next u) :
    Only [] [0x0D000001] (s.clock t) u := by
  obtain rfl := live_next hp h
  generalize s.clock t = v
  simp (disch := decide) only [Only.refl_iff, Only.putB_iff]

theorem execMemRestart_only (t : Tm) (mb : Mb) (cmd : Cmd) {s u : State} (hp : s.pwr.por = false) (h : execMemRestart t mb cmd s = .next u) :
    Only [.ev, .recd, .ddr, .host, .mbox, .core, .out] [0x0D000001, 0x0F000302, 0x0F000303, 0x11000203, 0x11000204] (s.clock t) u := by
  obtain rfl := live_next hp h
  generalize s.clock t = v
  refine (State.command_iff (fun _ _ => ?_) (by decide) (by decide)).2 Only.refl
  simp (disch := first | decide | (intro _ _; simp (disch := decide) only [Only.refl_iff, Only.each_iff, State.ends_s, State.goesOn_s, Only.step_iff (State.modDc_only _ _ _), Only.put_iff, Only.ite_iff, Only.iteFst_iff, implies_true, and_self, Only.iteDone_iff, State.gives_s, State.answers_s])) only [Only.refl_iff, Only.each_iff, State.ends_s, State.goesOn_s, Only.step_iff (State.modDc_only _ _ _), Only.put_iff, Only.ite_iff, Only.iteFst_iff, implies_true, and_self, Only.iteDone_iff, State.gives_s, State.answers_s]

theorem State.memAnswer_only (s : State) (c : Cmd) (data : List Byte) (addrs now : List Nat) : Only [.ev, .recd, .ddr, .out] [0x0D000004, 0x0D00000A, 0x11000203, 0x11000204] s (State.memAnswer s c data addrs now).s := by
  unfold State.memAnswer
  simp (disch := first | decide | (intro _ _; simp (disch := decide) only [Only.refl_iff, Only.step_iff (State.ddrBad_only _ _), Only.step_iff (State.poisonRead_only _ _), Only.foldl_iff, State.ends_s, State.gives_s, State.answers_s, State.goesOn_s])) only [Only.refl_iff, Only.step_iff (State.ddrBad_only _ _), Only.step_iff (State.poisonRead_only _ _), Only.foldl_iff, State.ends_s, State.gives_s, State.answers_s, State.goesOn_s]

theorem execMemRead_only (t : Tm) (mb : Mb) (cmd : Cmd) (poisoned : List Nat) {s u : State} (hp : s.pwr.por = false) (h : execMemRead t mb cmd poisoned s = .next u) :
    Only [.ev, .recd, .ddr, .host, .mbox, .core, .out] [0x0D000004, 0x0D00000A, 0x0F000302, 0x0F000303, 0x11000203, 0x11000204] (s.clock t) u := by
  obtain rfl := live_next hp h
  generalize s.clock t = v
  refine (State.command_iff (fun _ _ => ?_) (by decide) (by decide)).2 Only.refl
  simp (disch := decide) only [Only.refl_iff, Only.step_iff (State.ddrUse_only _ _ _ _ _), State.ends_s, Only.step_iff (State.memAnswer_only _ _ _ _ _), Only.ite_iff, Only.iteFst_iff, implies_true, and_self, Only.iteDone_iff, State.gives_s, State.answers_s, State.goesOn_s]

theorem execMemWrite_only (t : Tm) (mb : Mb) (cmd : Cmd) {s u : State} (hp : s.pwr.por = false) (h : execMemWrite t mb cmd s = .next u) :
    Only [.ev, .recd, .ddr, .host, .mbox, .core, .out] [0x0F000302, 0x0F000303, 0x11000203, 0x11000204] (s.clock t) u := by
  obtain rfl := live_next hp h
  generalize s.clock t = v
  refine (State.command_iff (fun _ _ => ?_) (by decide) (by decide)).2 Only.refl
  simp (disch := decide) only [Only.refl_iff, Only.step_iff (State.ddrUse_only _ _ _ _ _), Only.step_iff (State.ddrWrite_only _ _ _), State.ends_s, State.gives_s, Only.ite_iff, Only.iteFst_iff, implies_true, and_self, Only.iteDone_iff, State.answers_s, State.goesOn_s]

theorem execRegionRead_only (t : Tm) (mb : Mb) (cmd : Cmd) (poisoned : List Nat) {s u : State} (hp : s.pwr.por = false) (h : execRegionRead t mb cmd poisoned s = .next u) :
    Only [.ev, .recd, .ddr, .host, .mbox, .core, .out] [0x08000010, 0x0D000004, 0x0D00000A, 0x0F000302, 0x0F000303, 0x11000203, 0x11000204] (s.clock t) u := by
  obtain rfl := live_next hp h
  generalize s.clock t = v
  refine (State.command_iff (fun _ _ => ?_) (by decide) (by decide)).2 Only.refl
  simp (disch := decide) only [Only.refl_iff, Only.step_iff (State.ddrUse_only _ _ _ _ _), State.ends_s, Only.step_iff (State.memAnswer_only _ _ _ _ _), Only.put_iff, Only.ite_iff, Only.iteFst_iff, implies_true, and_self, Only.iteDone_iff, State.gives_s, State.answers_s, State.goesOn_s]

end Sys2Proof.Machine
end

