-- ==== Sys2Proof/Laws/OnlyHostIf.lean ====
section
/-! SUPPORT. What the operations of Machine/HostIf.lean leave alone: one lemma for each. -/

namespace Sys2Proof.Machine

theorem State.modSnap_only (s : State) (i : Nat) (f : Snap → Snap) : Only [.host] [] s (State.modSnap s i f) := by
  unfold State.modSnap
  simp (disch := decide) only [Only.refl_iff, Only.set_host]

theorem State.snapTime_only (s : State) (slot reg : Nat) : Only [.host] [] s (State.snapTime s slot reg) := by
  unfold State.snapTime
  simp (disch := decide) only [Only.refl_iff, Only.step_iff (State.modSnap_only _ _ _), Only.ite_iff, Only.iteFst_iff, implies_true, and_self]

theorem State.busAnswer_only (s : State) (v : Nat) : Only [.out] [] s (State.busAnswer s v) := by
  unfold State.busAnswer
  simp (disch := decide) only [Only.refl_iff, Only.step_iff (State.emit_only _ _)]

theorem State.snapLow_only (s : State) (slot reg : Nat) : Only [.host] [] s (State.snapLow s slot reg).1 := by
  unfold State.snapLow
  simp (disch := decide) only [Only.refl_iff, Only.step_iff (State.modSnap_only _ _ _), Only.step_iff (State.snapTime_only _ _ _), Only.ite_iff, Only.iteFst_iff, implies_true, and_self]

theorem State.snapHigh_only (s : State) (slot reg : Nat) : Only [.host] [] s (State.snapHigh s slot reg).1 := by
  unfold State.snapHigh
  simp (disch := decide) only [Only.refl_iff, Only.set_host, Only.ite_iff, Only.iteFst_iff, implies_true, and_self]

theorem State.snapWhole_only (s : State) (slot reg : Nat) : Only [.host] [] s (State.snapWhole s slot reg).1 := by
  unfold State.snapWhole
  simp (disch := decide) only [Only.refl_iff, Only.step_iff (State.snapTime_only _ _ _)]

theorem State.baseWrite_only (s : State) (m reg : Nat) (h : HalfWrite) : Only [.host] [] s (State.baseWrite s m reg h) := by
  unfold State.baseWrite
  repeat' first
    | simp (disch := decide) only [Only.refl_iff, Only.step_iff (State.modMb_only _ _ _), Only.ite_iff, Only.iteFst_iff, implies_true, and_self]
    | split

theorem execReg64HalfWrite_only (t : Tm) (mb : Fin 2) (reg : Fin 2) (half : HalfWrite) {s u : State} (hp : s.pwr.por = false) (h : execReg64HalfWrite t mb reg half s = .next u) :
    Only [.host] [] (s.clock t) u := by
  obtain rfl := live_next hp h
  generalize s.clock t = v
  simp (disch := decide) only [Only.refl_iff, Only.step_iff (State.baseWrite_only _ _ _ _)]

theorem execEvPendingClear_only (t : Tm) (g : Fin 8) (value raised : BitVec 32) {s u : State} (hp : s.pwr.por = false) (h : execEvPendingClear t g value raised s = .next u) :
    Only [.ev, .recd, .out] [0x11000203, 0x11000204] (s.clock t) u := by
  obtain rfl := live_next hp h
  generalize s.clock t = v
  simp (disch := first | decide | (intro _ _; simp (disch := decide) only [Only.refl_iff, Only.set_ev, Only.each_iff, Only.step_iff (State.raise_only _ _)])) only [Only.refl_iff, Only.set_ev, Only.each_iff, Only.step_iff (State.raise_only _ _)]

theorem State.evMask_only (s : State) (g v : Nat) : Only [.ev, .out] [] s (State.evMask s g v) := by
  unfold State.evMask
  simp (disch := first | decide | (intro _ _; simp (disch := decide) only [Only.refl_iff, Only.set_ev, Only.each_iff, Only.step_iff (State.msixDue_only _ _), Only.ite_iff, Only.iteFst_iff, implies_true, and_self])) only [Only.refl_iff, Only.set_ev, Only.each_iff, Only.step_iff (State.msixDue_only _ _), Only.ite_iff, Only.iteFst_iff, implies_true, and_self]

theorem execEvMaskWrite_only (t : Tm) (g : Fin 8) (value : BitVec 32) {s u : State} (hp : s.pwr.por = false) (h : execEvMaskWrite t g value s = .next u) :
    Only [.ev, .out] [] (s.clock t) u := by
  obtain rfl := live_next hp h
  generalize s.clock t = v
  simp (disch := decide) only [Only.refl_iff, Only.step_iff (State.evMask_only _ _ _)]

theorem execEvTest_only (t : Tm) (source : Fin 256) {s u : State} (hp : s.pwr.por = false) (h : execEvTest t source s = .next u) :
    Only [.ev, .out] [] (s.clock t) u := by
  obtain rfl := live_next hp h
  generalize s.clock t = v
  simp (disch := decide) only [Only.refl_iff, Only.step_iff (State.latchHost_only _ _)]

theorem State.msixWrite_only (s : State) (w : MsixWrite) : Only [.ev] [] s (State.msixWrite s w) := by
  unfold State.msixWrite
  repeat' first
    | simp (disch := decide) only [Only.refl_iff, Only.set_ev, Only.ite_iff, Only.iteFst_iff, implies_true, and_self]
    | split

theorem execMsixMaskWrite_only (t : Tm) (what : MsixWrite) {s u : State} (hp : s.pwr.por = false) (h : execMsixMaskWrite t what s = .next u) :
    Only [.ev, .out] [] (s.clock t) u := by
  obtain rfl := live_next hp h
  generalize s.clock t = v
  simp (disch := decide) only [Only.refl_iff, Only.step_iff (State.msixFlush_only _ _ _), Only.step_iff (State.msixWrite_only _ _)]

theorem State.readFail_only (s : State) (how : ReadEnd) : Only [.ev, .recd, .host, .out] [0x11000203, 0x11000204] s (State.readFail s how) := by
  unfold State.readFail
  repeat' first
    | simp (disch := decide) only [Only.refl_iff, Only.set_host, Only.step_iff (State.raise_only _ _)]
    | split

theorem State.hostJobsEnd_only (s : State) : Only [.ev, .recd, .host, .mbox, .press, .out] [0x09000001, 0x09000002, 0x09000003, 0x09000202, 0x09000203, 0x11000203, 0x11000204] s (State.hostJobsEnd s) := by
  unfold State.hostJobsEnd
  repeat' first
    | simp (disch := first | decide | (intro _ _; repeat' first | simp (disch := decide) only [Only.refl_iff, Only.each_iff, Only.step_iff (State.jobTimeout_only _ _), Only.step_iff (State.readFail_only _ _), Only.ite_iff, Only.iteFst_iff, implies_true, and_self] | split)) only [Only.refl_iff, Only.each_iff, Only.step_iff (State.jobTimeout_only _ _), Only.step_iff (State.readFail_only _ _), Only.ite_iff, Only.iteFst_iff, implies_true, and_self]
    | split

theorem State.hostBlockReset_only (s : State) : Only [.ev, .host] [] s (State.hostBlockReset s) := by
  unfold State.hostBlockReset
  simp (disch := decide) only [Only.refl_iff, Only.set_ev, Only.set_host, Only.set_ev_host]

theorem execHostReset_only (t : Tm) {s u : State} (hp : s.pwr.por = false) (h : execHostReset t s = .next u) :
    Only [.ev, .recd, .ctx, .host, .mbox, .press, .out] [0x08000015, 0x08000101, 0x08000102, 0x09000001, 0x09000002, 0x09000003, 0x09000202, 0x09000203, 0x11000203, 0x11000204] (s.clock t) u := by
  obtain rfl := live_next hp h
  generalize s.clock t = v
  simp (disch := decide) only [Only.refl_iff, Only.set_host, Only.step_iff (State.ctxLostAll_only _), Only.step_iff (State.hostBlockReset_only _), Only.step_iff (State.hostJobsEnd_only _), Only.step_iff (State.linkShow_only _), Only.step_iff (State.muteWaits_only _ _), Only.step_iff (State.raise_only _ _)]

theorem execPerstNRelease_only (t : Tm) {s u : State} (hp : s.pwr.por = false) (h : execPerstNRelease t s = .next u) :
    Only [.host] [] (s.clock t) u := by
  obtain rfl := live_next hp h
  generalize s.clock t = v
  simp (disch := decide) only [Only.refl_iff, Only.set_host]

theorem execHostLinkUp_only (t : Tm) (gen : Fin 6) (width : Fin 9) (mps : Fin 3) {s u : State} (hp : s.pwr.por = false) (h : execHostLinkUp t gen width mps s = .next u) :
    Only [.ev, .recd, .seam, .fab, .host, .out] [0x08000101, 0x08000102, 0x0A000006, 0x11000203, 0x11000204] (s.clock t) u := by
  obtain rfl := live_next hp h
  generalize s.clock t = v
  simp (disch := decide) only [Only.refl_iff, Only.set_host, Only.step_iff (State.linkShow_only _), Only.step_iff (State.linkUp_only _ _), Only.step_iff (State.raiseIf_only _ _ _), Only.ite_iff, Only.iteFst_iff, implies_true, and_self]

theorem execBusMasterDisable_only (t : Tm) {s u : State} (hp : s.pwr.por = false) (h : execBusMasterDisable t s = .next u) :
    Only [.ev, .recd, .ctx, .host, .out] [0x08000015, 0x11000203, 0x11000204] (s.clock t) u := by
  obtain rfl := live_next hp h
  generalize s.clock t = v
  simp (disch := decide) only [Only.refl_iff, Only.set_host, Only.step_iff (State.ctxLostAll_only _)]

theorem execPowerStateChange_only (t : Tm) (d3hot : Bool) {s u : State} (hp : s.pwr.por = false) (h : execPowerStateChange t d3hot s = .next u) :
    Only [.ev, .recd, .host, .out] [0x08000015, 0x08000019, 0x11000203, 0x11000204] (s.clock t) u := by
  obtain rfl := live_next hp h
  generalize s.clock t = v
  simp (disch := first | decide | (intro _ _; simp (disch := decide) only [Only.refl_iff, Only.set_host, Only.step_iff (State.ctxEval_only _ _), Only.each_iff, Only.step_iff (State.msixFlush_only _ _ _), Only.ite_iff, Only.iteFst_iff, implies_true, and_self])) only [Only.refl_iff, Only.set_host, Only.step_iff (State.ctxEval_only _ _), Only.each_iff, Only.step_iff (State.msixFlush_only _ _ _), Only.ite_iff, Only.iteFst_iff, implies_true, and_self]

end Sys2Proof.Machine
end

