-- ==== Sys2Proof/Laws/OnlyCores.lean ====
section
/-! SUPPORT. What the operations of Machine/Cores.lean leave alone: one lemma for each. -/

namespace Sys2Proof.Machine

theorem State.modPier_only (s : State) (i : Nat) (f : PierSt → PierSt) : Only [.core] [] s (State.modPier s i f) := by
  unfold State.modPier
  simp (disch := decide) only [Only.refl_iff, Only.set_core]

theorem State.coreShow_only (s : State) : Only [] [0x0F000001] s (State.coreShow s) := by
  unfold State.coreShow
  simp (disch := decide) only [Only.refl_iff, Only.put_iff, Only.putB_iff]

theorem State.maintShow_only (s : State) : Only [] [0x0F000102] s (State.maintShow s) := by
  unfold State.maintShow
  simp (disch := first | decide | (intro _ _; simp (disch := decide) only [Only.refl_iff, Only.each_iff, Only.step_iff (State.maintState_only _ _)])) only [Only.refl_iff, Only.each_iff, Only.step_iff (State.maintState_only _ _)]

theorem State.mbDrop_only (s : State) : Only [.host, .mbox] [] s (State.mbDrop s) := by
  unfold State.mbDrop
  simp (disch := first | decide | (intro _ _; simp (disch := decide) only [Only.refl_iff, Only.set_mbox, Only.each_iff, Only.step_iff (State.modMb_only _ _ _)])) only [Only.refl_iff, Only.set_mbox, Only.each_iff, Only.step_iff (State.modMb_only _ _ _)]

theorem State.acquireStop_only (s : State) : Only [.dig, .tdc, .trg] [0x04000308] s (State.acquireStop s) := by
  unfold State.acquireStop
  simp (disch := first | decide | (intro _ _; simp (disch := decide) only [Only.refl_iff, Only.set_tdc_trg, Only.step_iff (State.accShow_only _), Only.each_iff, Only.step_iff (State.modGauge_only _ _ _), Only.step_iff (State.modHk_only _ _ _), Only.step_iff (State.modTd_only _ _ _)])) only [Only.refl_iff, Only.set_tdc_trg, Only.step_iff (State.accShow_only _), Only.each_iff, Only.step_iff (State.modGauge_only _ _ _), Only.step_iff (State.modHk_only _ _ _), Only.step_iff (State.modTd_only _ _ _)]

theorem State.planeStop_only (s : State) : Only [.ev, .recd, .dig, .tdc, .trg, .loop, .deck, .seam, .ctx, .fab, .press, .out] [0x04000308, 0x05000113, 0x06000101, 0x06000102, 0x06000203, 0x07000002, 0x07000003, 0x07000004, 0x07000005, 0x07000006, 0x07000205, 0x07000206, 0x07000207, 0x07000208, 0x08000015, 0x08000201, 0x08000202, 0x09000001, 0x09000202, 0x0A000006, 0x0A000008, 0x11000203, 0x11000204] s (State.planeStop s) := by
  unfold State.planeStop
  simp (disch := decide) only [Only.refl_iff, Only.step_iff (State.acquireStop_only _), Only.step_iff (State.ctxAbut_only _), Only.step_iff (State.deckAbut_only _), Only.step_iff (State.deckService_only _ _), Only.step_iff (State.loopFreeze_only _), Only.step_iff (State.pressAbut_only _), Only.step_iff (State.rotAbut_only _), Only.step_iff (State.seamAbut_only _)]

theorem State.shadowsDrop_only (s : State) : Only [.time, .core] [] s (State.shadowsDrop s) := by
  unfold State.shadowsDrop
  simp (disch := decide) only [Only.refl_iff, Only.set_time_core]

theorem State.abutEnter_only (s : State) (cause : Nat) : Only [.time, .ev, .recd, .dig, .tdc, .trg, .loop, .deck, .seam, .ctx, .fab, .host, .mbox, .core, .press, .out] [0x04000308, 0x05000113, 0x06000101, 0x06000102, 0x06000203, 0x07000002, 0x07000003, 0x07000004, 0x07000005, 0x07000006, 0x07000205, 0x07000206, 0x07000207, 0x07000208, 0x08000015, 0x08000201, 0x08000202, 0x09000001, 0x09000202, 0x0A000006, 0x0A000008, 0x0F000001, 0x0F000102, 0x11000203, 0x11000204] s (State.abutEnter s cause) := by
  unfold State.abutEnter
  simp (disch := decide) only [Only.refl_iff, Only.set_core, Only.step_iff (State.coreShow_only _), Only.step_iff (State.maintShow_only _), Only.step_iff (State.mbDrop_only _), Only.step_iff (State.mbReady_only _), Only.step_iff (State.planeStop_only _), Only.step_iff (State.raise_only _ _), Only.step_iff (State.shadowsDrop_only _)]

theorem State.bumpPier_only (s : State) (i : Nat) : Only [] [0x0F000006] s (State.bumpPier s i) := by
  unfold State.bumpPier
  simp (disch := decide) only [Only.refl_iff, Only.bump_iff, Only.ite_iff, Only.iteFst_iff, implies_true, and_self]

theorem State.pierReset_only (s : State) (i : Nat) : Only [.ev, .recd, .core, .out] [0x0F000006, 0x11000203, 0x11000204] s (State.pierReset s i) := by
  unfold State.pierReset
  simp (disch := decide) only [Only.refl_iff, Only.step_iff (State.bumpPier_only _ _), Only.step_iff (State.modPier_only _ _ _), Only.step_iff (State.raise_only _ _)]

theorem State.abutCheck_only (s : State) : Only [.time, .ev, .recd, .dig, .tdc, .trg, .loop, .deck, .seam, .ctx, .fab, .host, .mbox, .core, .press, .out] [0x04000308, 0x05000113, 0x06000101, 0x06000102, 0x06000203, 0x07000002, 0x07000003, 0x07000004, 0x07000005, 0x07000006, 0x07000205, 0x07000206, 0x07000207, 0x07000208, 0x08000015, 0x08000201, 0x08000202, 0x09000001, 0x09000202, 0x0A000006, 0x0A000008, 0x0F000001, 0x0F000102, 0x11000203, 0x11000204] s (State.abutCheck s) := by
  unfold State.abutCheck
  simp (disch := decide) only [Only.refl_iff, Only.step_iff (State.abutEnter_only _ _), Only.ite_iff, Only.iteFst_iff, implies_true, and_self]

theorem State.revoke_only (s : State) : Only [.time, .ev, .recd, .dig, .tdc, .trg, .loop, .deck, .seam, .ctx, .fab, .host, .mbox, .core, .press, .out] [0x04000308, 0x05000113, 0x06000101, 0x06000102, 0x06000203, 0x07000002, 0x07000003, 0x07000004, 0x07000005, 0x07000006, 0x07000205, 0x07000206, 0x07000207, 0x07000208, 0x08000015, 0x08000201, 0x08000202, 0x09000001, 0x09000202, 0x0A000006, 0x0A000008, 0x0F000001, 0x0F000006, 0x0F000102, 0x11000203, 0x11000204] s (State.revoke s) := by
  unfold State.revoke
  simp (disch := decide) only [Only.refl_iff, Only.set_core, Only.step_iff (State.abutCheck_only _), Only.step_iff (State.coreShow_only _), Only.step_iff (State.mbDrop_only _), Only.step_iff (State.mbReady_only _), Only.step_iff (State.pierReset_only _ _), Only.step_iff (State.raise_only _ _), Only.step_iff (State.shadowsDrop_only _)]

theorem execLeaseRenew_only (t : Tm) (pier : Pier) (gen : BitVec 16) {s u : State} (hp : s.pwr.por = false) (h : execLeaseRenew t pier gen s = .next u) :
    Only [.core] [] (s.clock t) u := by
  obtain rfl := live_next hp h
  generalize s.clock t = v
  simp (disch := decide) only [Only.refl_iff, Only.set_core, Only.ite_iff, Only.iteFst_iff, implies_true, and_self]

theorem execHealthWordPublish_only (t : Tm) (pier : Pier) (word : BitVec 32) {s u : State} (hp : s.pwr.por = false) (h : execHealthWordPublish t pier word s = .next u) :
    Only [.core] [] (s.clock t) u := by
  obtain rfl := live_next hp h
  generalize s.clock t = v
  simp (disch := decide) only [Only.refl_iff, Only.step_iff (State.modPier_only _ _ _), Only.ite_iff, Only.iteFst_iff, implies_true, and_self]

theorem execLeaseExpire_only (t : Tm) {s u : State} (hp : s.pwr.por = false) (h : execLeaseExpire t s = .next u) :
    Only [.time, .ev, .recd, .dig, .tdc, .trg, .loop, .deck, .seam, .ctx, .fab, .host, .mbox, .core, .press, .out] [0x04000308, 0x05000113, 0x06000101, 0x06000102, 0x06000203, 0x07000002, 0x07000003, 0x07000004, 0x07000005, 0x07000006, 0x07000205, 0x07000206, 0x07000207, 0x07000208, 0x08000015, 0x08000201, 0x08000202, 0x09000001, 0x09000202, 0x0A000006, 0x0A000008, 0x0F000001, 0x0F000006, 0x0F000102, 0x11000203, 0x11000204] (s.clock t) u := by
  obtain rfl := live_next hp h
  generalize s.clock t = v
  simp (disch := decide) only [Only.refl_iff, Only.set_core, Only.step_iff (State.revoke_only _), Only.ite_iff, Only.iteFst_iff, implies_true, and_self]

theorem execPierHealthTimeout_only (t : Tm) (pier : Pier) {s u : State} (hp : s.pwr.por = false) (h : execPierHealthTimeout t pier s = .next u) :
    Only [.time, .ev, .recd, .dig, .tdc, .trg, .loop, .deck, .seam, .ctx, .fab, .host, .mbox, .core, .press, .out] [0x04000308, 0x05000113, 0x06000101, 0x06000102, 0x06000203, 0x07000002, 0x07000003, 0x07000004, 0x07000005, 0x07000006, 0x07000205, 0x07000206, 0x07000207, 0x07000208, 0x08000015, 0x08000201, 0x08000202, 0x09000001, 0x09000202, 0x0A000006, 0x0A000008, 0x0F000001, 0x0F000006, 0x0F000102, 0x11000203, 0x11000204] (s.clock t) u := by
  obtain rfl := live_next hp h
  generalize s.clock t = v
  repeat' first
    | simp (disch := decide) only [Only.refl_iff, Only.step_iff (State.abutCheck_only _), Only.step_iff (State.bumpPier_only _ _), Only.step_iff (State.modPier_only _ _ _), Only.step_iff (State.raise_only _ _), Only.ite_iff, Only.iteFst_iff, implies_true, and_self]
    | split

theorem State.histClear_only (s : State) : Only [.mbox] [0x0F000303] s (State.histClear s) := by
  unfold State.histClear
  simp (disch := first | decide | (intro _ _; simp (disch := decide) only [Only.refl_iff, Only.set_mbox, Only.each_iff, Only.put_iff])) only [Only.refl_iff, Only.set_mbox, Only.each_iff, Only.put_iff]

theorem State.ckptTake_only (s : State) : Only [.time, .mbox] [0x0F000303] s (State.ckptTake s) := by
  unfold State.ckptTake
  simp (disch := first | decide | (intro _ _; simp (disch := decide) only [Only.refl_iff, Only.set_time_mbox, Only.each_iff, Only.put_iff])) only [Only.refl_iff, Only.set_time_mbox, Only.each_iff, Only.put_iff]

theorem State.takeoverPost_only (s : State) (cold : Bool) : Only [.ev, .recd, .host, .mbox, .out] [0x11000203, 0x11000204] s (State.takeoverPost s cold) := by
  unfold State.takeoverPost
  simp (disch := first | decide | (intro _ _; simp (disch := decide) only [Only.refl_iff, Only.each_iff, Only.step_iff (State.post_only _ _), Only.ite_iff, Only.iteFst_iff, implies_true, and_self])) only [Only.refl_iff, Only.each_iff, Only.step_iff (State.post_only _ _), Only.ite_iff, Only.iteFst_iff, implies_true, and_self]

theorem State.holderStart_only (s : State) : Only [.ev, .recd, .deck, .fab, .host, .mbox, .out] [0x06000203, 0x06000204, 0x06000205, 0x0A000208, 0x0F000302, 0x0F000303, 0x11000203, 0x11000204] s (State.holderStart s) := by
  unfold State.holderStart
  simp (disch := decide) only [Only.refl_iff, Only.step_iff (State.deckOnline_only _ _), Only.step_iff (State.deckRates_only _), Only.step_iff (State.mbReady_only _), Only.step_iff (State.probePump_only _ _), Only.step_iff (State.routeChange_only _), Only.step_iff (State.takeStarted_only _), Only.ite_iff, Only.iteFst_iff, implies_true, and_self]

theorem State.leaseTake_only (s : State) (i : Nat) : Only [.ev, .recd, .loop, .core, .out] [0x01000101, 0x05000101, 0x05000110, 0x05000113, 0x0F000001, 0x11000203, 0x11000204] s (State.leaseTake s i) := by
  unfold State.leaseTake
  simp (disch := decide) only [Only.refl_iff, Only.set_core, Only.step_iff (State.coreShow_only _), Only.step_iff (State.loopThaw_only _), Only.step_iff (State.raise_only _ _)]

theorem State.promoted_only (s : State) (cold : Bool) : Only [] [0x0F000001] s (State.promoted s cold) := by
  unfold State.promoted
  simp (disch := decide) only [Only.refl_iff, Only.bump_iff, Only.putB_iff, Only.ite_iff, Only.iteFst_iff, implies_true, and_self]

theorem State.bootConfig_only (s : State) : Only [.time, .ev, .recd, .afe, .loop, .host, .core, .sec, .pwr, .out, .regs] [] s (State.bootConfig s) := by
  unfold State.bootConfig
  simp (disch := decide) only [Only.refl_iff, Only.set_pwr, Only.step_iff (State.configLoad_only _), Only.ite_iff, Only.iteFst_iff, implies_true, and_self]

theorem State.coldLoad_only (s : State) : Only [.time, .ev, .recd, .afe, .loop, .deck, .seam, .ctx, .fab, .host, .mbox, .core, .sec, .pwr, .out, .regs] [] s (State.coldLoad s) := by
  unfold State.coldLoad
  simp (disch := first | decide | (intro _ _; simp (disch := decide) only [Only.refl_iff, Only.step_iff (State.bootConfig_only _), Only.step_iff (State.ctxReset_only _ _), Only.each_iff, Only.step_iff (State.histClear_only _)])) only [Only.refl_iff, Only.step_iff (State.bootConfig_only _), Only.step_iff (State.ctxReset_only _ _), Only.each_iff, Only.step_iff (State.histClear_only _)]

theorem execLeaseGrant_only (t : Tm) (pier : Pier) {s u : State} (hp : s.pwr.por = false) (h : execLeaseGrant t pier s = .next u) :
    Only [.time, .ev, .recd, .afe, .loop, .deck, .seam, .ctx, .fab, .host, .mbox, .core, .sec, .pwr, .out, .regs] [] (s.clock t) u := by
  obtain rfl := live_next hp h
  generalize s.clock t = v
  simp (disch := decide) only [Only.refl_iff, Only.step_iff (State.bootConfig_only _), Only.step_iff (State.ckptTake_only _), Only.step_iff (State.coldLoad_only _), Only.step_iff (State.histClear_only _), Only.step_iff (State.holderStart_only _), Only.step_iff (State.leaseTake_only _ _), Only.step_iff (State.promoted_only _ _), Only.put_iff, Only.step_iff (State.takeoverPost_only _ _), Only.ite_iff, Only.iteFst_iff, implies_true, and_self]

theorem State.handOver_only (s : State) : Only [.time, .ev, .recd, .host, .mbox, .core, .out] [0x0F000001, 0x11000203, 0x11000204] s (State.handOver s) := by
  unfold State.handOver
  simp (disch := decide) only [Only.refl_iff, Only.set_core, Only.step_iff (State.coreShow_only _), Only.step_iff (State.mbDrop_only _), Only.step_iff (State.mbReady_only _), Only.step_iff (State.raise_only _ _), Only.step_iff (State.shadowsDrop_only _)]

theorem State.commit_only (s : State) (b : Tm) : Only [.time, .ev, .recd, .host, .mbox, .core, .out] [0x0F000001, 0x0F000002, 0x0F000003, 0x11000203, 0x11000204] s (State.commit s b) := by
  unfold State.commit
  simp (disch := decide) only [Only.refl_iff, Only.set_core, Only.bump_iff, Only.step_iff (State.commitPosts_only _), Only.step_iff (State.coreShow_only _), Only.step_iff (State.handOver_only _), Only.put_iff, Only.putB_iff, Only.step_iff (State.raise_only _ _), Only.ite_iff, Only.iteFst_iff, implies_true, and_self]

theorem State.unsync_only (s : State) : Only [.ev, .recd, .core, .out] [0x0F000001, 0x0F000002, 0x11000203, 0x11000204] s (State.unsync s) := by
  unfold State.unsync
  simp (disch := decide) only [Only.refl_iff, Only.set_core, Only.step_iff (State.coreShow_only _), Only.step_iff (State.log_only _ _ _ _), Only.putB_iff, Only.step_iff (State.raise_only _ _), Only.ite_iff, Only.iteFst_iff, implies_true, and_self]

theorem execCheckpointMark_only (t : Tm) (bytes : Nat) (crossed : Bool) {s u : State} (hp : s.pwr.por = false) (h : execCheckpointMark t bytes crossed s = .next u) :
    Only [.time, .ev, .recd, .host, .mbox, .core, .out] [0x0F000001, 0x0F000002, 0x0F000003, 0x0F000004, 0x11000203, 0x11000204] (s.clock t) u := by
  obtain rfl := live_next hp h
  generalize s.clock t = v
  simp (disch := decide) only [Only.refl_iff, Only.set_core, Only.bump_iff, Only.step_iff (State.commit_only _ _), Only.put_iff, Only.step_iff (State.raise_only _ _), Only.ite_iff, Only.iteFst_iff, implies_true, and_self]

theorem execCheckpointAck_only (t : Tm) (accepted : Bool) {s u : State} (hp : s.pwr.por = false) (h : execCheckpointAck t accepted s = .next u) :
    Only [.time, .ev, .recd, .host, .mbox, .core, .out] [0x0F000001, 0x0F000002, 0x0F000003, 0x11000203, 0x11000204] (s.clock t) u := by
  obtain rfl := live_next hp h
  generalize s.clock t = v
  repeat' first
    | simp (disch := decide) only [Only.refl_iff, Only.set_core, Only.step_iff (State.commit_only _ _), Only.step_iff (State.unsync_only _), Only.ite_iff, Only.iteFst_iff, implies_true, and_self]
    | split

theorem execCheckpointAckTimeout_only (t : Tm) {s u : State} (hp : s.pwr.por = false) (h : execCheckpointAckTimeout t s = .next u) :
    Only [.time, .ev, .recd, .host, .mbox, .core, .out] [0x0F000001, 0x0F000002, 0x0F000003, 0x11000203, 0x11000204] (s.clock t) u := by
  obtain rfl := live_next hp h
  generalize s.clock t = v
  repeat' first
    | simp (disch := decide) only [Only.refl_iff, Only.step_iff (State.commit_only _ _), Only.step_iff (State.unsync_only _), Only.ite_iff, Only.iteFst_iff, implies_true, and_self]
    | split

theorem execFullCopy_only (t : Tm) {s u : State} (hp : s.pwr.por = false) (h : execFullCopy t s = .next u) :
    Only [.core] [] (s.clock t) u := by
  obtain rfl := live_next hp h
  generalize s.clock t = v
  simp (disch := decide) only [Only.refl_iff, Only.set_core, Only.ite_iff, Only.iteFst_iff, implies_true, and_self]

theorem execFailover_only (t : Tm) (mb : Mb) (cmd : Cmd) {s u : State} (hp : s.pwr.por = false) (h : execFailover t mb cmd s = .next u) :
    Only [.ev, .recd, .host, .mbox, .core, .out] [0x0F000302, 0x0F000303, 0x11000203, 0x11000204] (s.clock t) u := by
  obtain rfl := live_next hp h
  generalize s.clock t = v
  refine (State.command_iff (fun _ _ => ?_) (by decide) (by decide)).2 Only.refl
  simp (disch := decide) only [Only.refl_iff, Only.set_core, State.ends_s, State.gives_s, Only.ite_iff, Only.iteFst_iff, implies_true, and_self, Only.iteDone_iff, State.answers_s, State.goesOn_s]

theorem execHealth_only (t : Tm) (mb : Mb) (cmd : Cmd) {s u : State} (hp : s.pwr.por = false) (h : execHealth t mb cmd s = .next u) :
    Only [.ev, .recd, .host, .mbox, .core, .out] [0x0F000302, 0x0F000303, 0x11000203, 0x11000204] (s.clock t) u := by
  obtain rfl := live_next hp h
  generalize s.clock t = v
  refine (State.command_iff (fun _ _ => ?_) (by decide) (by decide)).2 Only.refl
  simp (disch := decide) only [Only.refl_iff, State.answers_s, Only.iteDone_iff, State.ends_s, State.gives_s, State.goesOn_s]

theorem execHeartbeatEmit_only (t : Tm) (temp : Int) {s u : State} (hp : s.pwr.por = false) (h : execHeartbeatEmit t temp s = .next u) :
    Only [.ev, .recd, .ctx, .mbox, .core, .out] [0x08000015, 0x08000203, 0x11000203, 0x11000204] (s.clock t) u := by
  obtain rfl := live_next hp h
  generalize s.clock t = v
  repeat' first
    | simp (disch := decide) only [Only.refl_iff, Only.set_core, Only.step_iff (State.emit_only _ _), Only.step_iff (State.monEmit_only _ _), Only.step_iff (State.record_only _ _ _ _ _), Only.step_iff (State.takeSeq_only _ _), Only.ite_iff, Only.iteFst_iff, implies_true, and_self]
    | split

theorem execSelfTestPassEnd_only (t : Tm) (fault : BitVec 8) {s u : State} (hp : s.pwr.por = false) (h : execSelfTestPassEnd t fault s = .next u) :
    Only [.ev, .recd, .core, .out] [0x0F000102, 0x0F000103, 0x11000203, 0x11000204] (s.clock t) u := by
  obtain rfl := live_next hp h
  generalize s.clock t = v
  simp (disch := decide) only [Only.refl_iff, Only.step_iff (State.log_only _ _ _ _), Only.step_iff (State.maintBegin_only _ _ _ _), Only.step_iff (State.maintEnd_only _ _ _), Only.step_iff (State.modPier_only _ _ _), Only.step_iff (State.raise_only _ _), Only.ite_iff, Only.iteFst_iff, implies_true, and_self]

theorem State.compactStep_only (s : State) : Only [.recd, .core] [0x0F000102, 0x0F000103, 0x11000208] s (State.compactStep s) := by
  unfold State.compactStep
  repeat' first
    | simp (disch := decide) only [Only.refl_iff, Only.set_recd, Only.step_iff (State.budgetTake_only _ _), Only.step_iff (State.maintBegin_only _ _ _ _), Only.step_iff (State.maintEnd_only _ _ _)]
    | split

theorem State.maintGo_only (s : State) (a : Act) : Only [.time, .recd, .afe, .dig, .tdc, .fab, .lane, .ddr, .mbox, .core, .free] [0x02000103, 0x0B000003, 0x0F000102, 0x0F000103, 0x11000208] s (State.maintGo s a) := by
  unfold State.maintGo
  repeat' first
    | simp (disch := decide) only [Only.refl_iff, Only.step_iff (State.compactStep_only _), Only.step_iff (State.laneRestart_only _ _), Only.step_iff (State.maintBegin_only _ _ _ _), Only.step_iff (State.modFe_only _ _ _), Only.step_iff (State.retrainBegin_only _ _), Only.step_iff (State.rotBegin_only _ _), Only.step_iff (State.visitBegin_only _ _ _), Only.ite_iff, Only.iteFst_iff, implies_true, and_self]
    | split

theorem State.maintStart_only (s : State) (code unit : Nat) (byHost : Bool) : Only [.ev, .recd, .core, .out] [0x0F000102, 0x11000203, 0x11000204] s (State.maintStart s code unit byHost).1 := by
  unfold State.maintStart
  repeat' first
    | simp (disch := decide) only [Only.refl_iff, Only.set_core, Only.step_iff (State.maintDefer_only _ _ _ _), Only.step_iff (State.maintRefuse_only _ _), Only.ite_iff, Only.iteFst_iff, implies_true, and_self]
    | split

theorem execMaintStart_only (t : Tm) (act : Fin 8) (unit : Nat) (byHost : Bool) {s u : State} (hp : s.pwr.por = false) (h : execMaintStart t act unit byHost s = .next u) :
    Only [.ev, .recd, .core, .out] [0x0F000102, 0x11000203, 0x11000204] (s.clock t) u := by
  obtain rfl := live_next hp h
  generalize s.clock t = v
  simp (disch := decide) only [Only.refl_iff, Only.step_iff (State.maintStart_only _ _ _ _), Only.ite_iff, Only.iteFst_iff, implies_true, and_self]

theorem State.waitDrop_only (s : State) (a : Act) : Only [.core] [0x0F000102] s (State.waitDrop s a) := by
  unfold State.waitDrop
  simp (disch := decide) only [Only.refl_iff, Only.set_core, Only.step_iff (State.maintState_only _ _)]

theorem execMaintDeferredStart_only (t : Tm) (act : Fin 8) (unit : Nat) {s u : State} (hp : s.pwr.por = false) (h : execMaintDeferredStart t act unit s = .next u) :
    Only [.time, .ev, .recd, .afe, .dig, .tdc, .fab, .lane, .ddr, .mbox, .core, .out, .free] [0x02000103, 0x0B000003, 0x0F000102, 0x0F000103, 0x11000203, 0x11000204, 0x11000208] (s.clock t) u := by
  obtain rfl := live_next hp h
  generalize s.clock t = v
  repeat' first
    | simp (disch := decide) only [Only.refl_iff, Only.step_iff (State.maintDefer_only _ _ _ _), Only.step_iff (State.maintGo_only _ _), Only.step_iff (State.maintRefuse_only _ _), Only.step_iff (State.waitDrop_only _ _), Only.ite_iff, Only.iteFst_iff, implies_true, and_self]
    | split

end Sys2Proof.Machine
end

