-- ==== Sys2Proof/Laws/OnlySecurity.lean ====
section
/-! SUPPORT. What the operations of Machine/Security.lean leave alone: one lemma for each. -/

namespace Sys2Proof.Machine

theorem State.setSlot_only (s : State) (i : Nat) (x : Slot) : Only [.sec] [0x12000001] s (State.setSlot s i x) := by
  unfold State.setSlot
  simp (disch := decide) only [Only.refl_iff, Only.set_sec, Only.putB_iff, Only.ite_iff, Only.iteFst_iff, implies_true, and_self]

theorem State.askSigs_only (s : State) (l : List Image) : Only [.sec] [] s (State.askSigs s l) := by
  unfold State.askSigs
  simp (disch := decide) only [Only.refl_iff, Only.set_sec]

theorem State.loadSlot_only (s : State) (i bytes : Nat) (v : Image) (read : ReadEnd) : Only [.ev, .recd, .host, .sec, .out] [0x11000203, 0x11000204, 0x12000001] s (State.loadSlot s i bytes v read).1 := by
  unfold State.loadSlot
  simp (disch := decide) only [Only.refl_iff, Only.step_iff (State.askSigs_only _ _), Only.bump_iff, Only.step_iff (State.dmaGot_only _ _), Only.step_iff (State.raise_only _ _), Only.step_iff (State.readFail_only _ _), Only.step_iff (State.setSlot_only _ _ _), Only.ite_iff, Only.iteFst_iff, implies_true, and_self]

theorem execFwLoad_only (t : Tm) (mb : Mb) (cmd : Cmd) (image : Image) (read : ReadEnd) {s u : State} (hp : s.pwr.por = false) (h : execFwLoad t mb cmd image read s = .next u) :
    Only [.ev, .recd, .host, .mbox, .core, .sec, .out] [0x0F000302, 0x0F000303, 0x11000203, 0x11000204, 0x12000001] (s.clock t) u := by
  obtain rfl := live_next hp h
  generalize s.clock t = v
  refine (State.command_iff (fun _ _ => ?_) (by decide) (by decide)).2 Only.refl
  simp (disch := decide) only [Only.refl_iff, State.ends_s, State.gives_s, Only.step_iff (State.loadSlot_only _ _ _ _ _), Only.ite_iff, Only.iteFst_iff, implies_true, and_self, Only.iteDone_iff, State.answers_s, State.goesOn_s]

theorem execSlotSelect_only (t : Tm) (mb : Mb) (cmd : Cmd) {s u : State} (hp : s.pwr.por = false) (h : execSlotSelect t mb cmd s = .next u) :
    Only [.ev, .recd, .host, .mbox, .core, .out] [0x0F000302, 0x0F000303, 0x11000203, 0x11000204, 0x12000001] (s.clock t) u := by
  obtain rfl := live_next hp h
  generalize s.clock t = v
  refine (State.command_iff (fun _ _ => ?_) (by decide) (by decide)).2 Only.refl
  simp (disch := decide) only [Only.refl_iff, State.ends_s, State.gives_s, Only.put_iff, Only.ite_iff, Only.iteFst_iff, implies_true, and_self, Only.iteDone_iff, State.answers_s, State.goesOn_s]

theorem State.ownerRelease_only (s : State) : Only [.ev, .recd, .out] [0x11000203, 0x11000204, 0x12000001, 0x12000003, 0x12000101, 0x12000102] s (State.ownerRelease s) := by
  unfold State.ownerRelease
  simp (disch := first | decide | (intro _ _; simp (disch := decide) only [Only.refl_iff, Only.each_iff, Only.put_iff, Only.putB_iff, Only.step_iff (State.raise_only _ _)])) only [Only.refl_iff, Only.each_iff, Only.put_iff, Only.putB_iff, Only.step_iff (State.raise_only _ _)]

theorem State.bootFrom_only (s : State) (i : Nat) : Only [.ev, .recd, .host, .core, .out] [0x11000203, 0x11000204, 0x12000001, 0x12000002, 0x12000003, 0x12000101, 0x12000102] s (State.bootFrom s i) := by
  unfold State.bootFrom
  simp (disch := decide) only [Only.refl_iff, Only.set_host_core, Only.step_iff (State.ownerRelease_only _), Only.put_iff, Only.ite_iff, Only.iteFst_iff, implies_true, and_self]

theorem execBootVerify_only (t : Tm) (slotA slotB : Image) {s u : State} (hp : s.pwr.por = false) (h : execBootVerify t slotA slotB s = .next u) :
    Only [.time, .ev, .recd, .dig, .tdc, .trg, .loop, .deck, .seam, .ctx, .fab, .host, .mbox, .core, .press, .sec, .out] [0x04000308, 0x05000113, 0x06000101, 0x06000102, 0x06000203, 0x07000002, 0x07000003, 0x07000004, 0x07000005, 0x07000006, 0x07000205, 0x07000206, 0x07000207, 0x07000208, 0x08000015, 0x08000201, 0x08000202, 0x09000001, 0x09000202, 0x0A000006, 0x0A000008, 0x0F000001, 0x0F000102, 0x11000203, 0x11000204, 0x12000001, 0x12000002, 0x12000003, 0x12000101, 0x12000102] (s.clock t) u := by
  obtain rfl := live_next hp h
  generalize s.clock t = v
  simp (disch := decide) only [Only.refl_iff, Only.step_iff (State.abutEnter_only _ _), Only.step_iff (State.askSigs_only _ _), Only.step_iff (State.bootFrom_only _ _), Only.putB_iff, Only.step_iff (State.raise_only _ _), Only.step_iff (State.setSlot_only _ _ _), Only.ite_iff, Only.iteFst_iff, implies_true, and_self]

theorem State.svnCommit_only (s : State) : Only [.sec] [0x12000001, 0x12000002] s (State.svnCommit s) := by
  unfold State.svnCommit
  simp (disch := first | decide | (intro _ _; simp (disch := decide) only [Only.refl_iff, Only.each_iff, Only.put_iff, Only.step_iff (State.setSlot_only _ _ _), Only.ite_iff, Only.iteFst_iff, implies_true, and_self])) only [Only.refl_iff, Only.each_iff, Only.put_iff, Only.step_iff (State.setSlot_only _ _ _), Only.ite_iff, Only.iteFst_iff, implies_true, and_self]

theorem State.ownerRequire_only (s : State) (on : Bool) : Only [.ev, .recd, .out] [0x11000203, 0x11000204, 0x12000001, 0x12000003] s (State.ownerRequire s on).1 := by
  unfold State.ownerRequire
  simp (disch := decide) only [Only.refl_iff, Only.putB_iff, Only.step_iff (State.raise_only _ _), Only.ite_iff, Only.iteFst_iff, implies_true, and_self]

theorem State.ownerLock_only (s : State) : Only [.ev, .recd, .out] [0x11000203, 0x11000204, 0x12000001, 0x12000003] s (State.ownerLock s).1 := by
  unfold State.ownerLock
  simp (disch := decide) only [Only.refl_iff, Only.putB_iff, Only.step_iff (State.raise_only _ _), Only.ite_iff, Only.iteFst_iff, implies_true, and_self]

theorem execSvnCommit_only (t : Tm) {s u : State} (hp : s.pwr.por = false) (h : execSvnCommit t s = .next u) :
    Only [.ev, .recd, .core, .sec, .out] [0x11000203, 0x11000204, 0x12000001, 0x12000002] (s.clock t) u := by
  obtain rfl := live_next hp h
  generalize s.clock t = v
  simp (disch := decide) only [Only.refl_iff, Only.step_iff (State.deny_only _), Only.step_iff (State.svnCommit_only _), Only.ite_iff, Only.iteFst_iff, implies_true, and_self]

theorem execOwnerRequireWrite_only (t : Tm) (value : Bool) {s u : State} (hp : s.pwr.por = false) (h : execOwnerRequireWrite t value s = .next u) :
    Only [.ev, .recd, .core, .out] [0x11000203, 0x11000204, 0x12000001, 0x12000003] (s.clock t) u := by
  obtain rfl := live_next hp h
  generalize s.clock t = v
  simp (disch := decide) only [Only.refl_iff, Only.step_iff (State.deny_only _), Only.step_iff (State.ownerRequire_only _ _), Only.ite_iff, Only.iteFst_iff, implies_true, and_self]

theorem execOwnerLockWrite_only (t : Tm) {s u : State} (hp : s.pwr.por = false) (h : execOwnerLockWrite t s = .next u) :
    Only [.ev, .recd, .core, .out] [0x11000203, 0x11000204, 0x12000001, 0x12000003] (s.clock t) u := by
  obtain rfl := live_next hp h
  generalize s.clock t = v
  simp (disch := decide) only [Only.refl_iff, Only.step_iff (State.deny_only _), Only.step_iff (State.ownerLock_only _), Only.ite_iff, Only.iteFst_iff, implies_true, and_self]

theorem State.setNonce_only (s : State) (m : Nat) (x : Option Nonce) : Only [.sec] [] s (State.setNonce s m x) := by
  unfold State.setNonce
  simp (disch := decide) only [Only.refl_iff, Only.set_sec]

theorem execNonce_only (t : Tm) (mb : Mb) (cmd : Cmd) {s u : State} (hp : s.pwr.por = false) (h : execNonce t mb cmd s = .next u) :
    Only [.ev, .recd, .host, .mbox, .core, .sec, .out, .free] [0x0F000302, 0x0F000303, 0x11000203, 0x11000204] (s.clock t) u := by
  obtain rfl := live_next hp h
  generalize s.clock t = v
  refine (State.command_iff (fun _ _ => ?_) (by decide) (by decide)).2 Only.refl
  simp (disch := decide) only [Only.refl_iff, State.answers_s, Only.step_iff (State.fresh_only _), Only.step_iff (State.setNonce_only _ _ _), Only.iteDone_iff, State.ends_s, State.gives_s, State.goesOn_s]

theorem execNonceExpire_only (t : Tm) (mb : Mb) {s u : State} (hp : s.pwr.por = false) (h : execNonceExpire t mb s = .next u) :
    Only [.sec] [] (s.clock t) u := by
  obtain rfl := live_next hp h
  generalize s.clock t = v
  repeat' first
    | simp (disch := decide) only [Only.refl_iff, Only.step_iff (State.setNonce_only _ _ _), Only.ite_iff, Only.iteFst_iff, implies_true, and_self]
    | split

theorem State.token_only (s : State) (m : Nat) (token : List Byte) (sigOk : Bool) : Only [.ev, .recd, .sec, .out] [0x11000203, 0x11000204, 0x12000005] s (State.token s m token sigOk).1 := by
  unfold State.token
  simp (disch := decide) only [Only.refl_iff, Only.bump_iff, Only.step_iff (State.raise_only _ _), Only.step_iff (State.setNonce_only _ _ _), Only.ite_iff, Only.iteFst_iff, implies_true, and_self]

theorem State.hssTake_only (s : State) : Only [.ev, .recd, .sec, .out] [0x11000203, 0x11000204, 0x12000004] s (State.hssTake s) := by
  unfold State.hssTake
  simp (disch := decide) only [Only.refl_iff, Only.set_sec, Only.put_iff, Only.step_iff (State.raise_only _ _), Only.ite_iff, Only.iteFst_iff, implies_true, and_self]

theorem execAttest_only (t : Tm) (mb : Mb) (cmd : Cmd) {s u : State} (hp : s.pwr.por = false) (h : execAttest t mb cmd s = .next u) :
    Only [.ev, .recd, .host, .mbox, .core, .sec, .out] [0x0F000302, 0x0F000303, 0x11000203, 0x11000204, 0x12000004] (s.clock t) u := by
  obtain rfl := live_next hp h
  generalize s.clock t = v
  refine (State.command_iff (fun _ _ => ?_) (by decide) (by decide)).2 Only.refl
  simp (disch := decide) only [Only.refl_iff, Only.set_sec, State.ends_s, Only.step_iff (State.hssTake_only _), Only.ite_iff, Only.iteFst_iff, implies_true, and_self, Only.iteDone_iff, State.gives_s, State.answers_s, State.goesOn_s]

theorem execRecRead_only (t : Tm) (mb : Mb) (cmd : Cmd) {s u : State} (hp : s.pwr.por = false) (h : execRecRead t mb cmd s = .next u) :
    Only [.ev, .recd, .host, .mbox, .core, .out] [0x0F000302, 0x0F000303, 0x11000203, 0x11000204] (s.clock t) u := by
  obtain rfl := live_next hp h
  generalize s.clock t = v
  refine (State.command_iff (fun _ _ => ?_) (by decide) (by decide)).2 Only.refl
  repeat' first
    | simp (disch := decide) only [Only.refl_iff, Only.ite_iff, Only.iteFst_iff, implies_true, and_self, Only.iteDone_iff, State.ends_s, State.gives_s, State.answers_s, State.goesOn_s]
    | split

theorem execRecClear_only (t : Tm) (mb : Mb) (cmd : Cmd) (sigOk : Bool) {s u : State} (hp : s.pwr.por = false) (h : execRecClear t mb cmd sigOk s = .next u) :
    Only [.ev, .recd, .ctx, .host, .mbox, .core, .sec, .out] [0x08000015, 0x08000203, 0x0F000102, 0x0F000103, 0x0F000302, 0x0F000303, 0x11000203, 0x11000204, 0x11000205, 0x11000206, 0x11000207, 0x11000208, 0x12000005] (s.clock t) u := by
  obtain rfl := live_next hp h
  generalize s.clock t = v
  refine (State.command_iff (fun _ _ => ?_) (by decide) (by decide)).2 Only.refl
  simp (disch := decide) only [Only.refl_iff, State.ends_s, State.gives_s, Only.step_iff (State.recClear_only _ _), Only.step_iff (State.token_only _ _ _ _), Only.ite_iff, Only.iteFst_iff, implies_true, and_self, Only.iteDone_iff, State.answers_s, State.goesOn_s]

theorem State.mramLost_only (s : State) (loc : MramWhere) : Only [.ev, .recd, .core, .sec, .out] [0x11000203, 0x11000204, 0x11000205, 0x12000001] s (State.mramLost s loc) := by
  unfold State.mramLost
  repeat' first
    | simp (disch := decide) only [Only.refl_iff, Only.set_recd_sec, Only.set_sec, Only.step_iff (State.log_only _ _ _ _), Only.putB_iff, Only.step_iff (State.raise_only _ _), Only.step_iff (State.recOldest_only _), Only.step_iff (State.setSlot_only _ _ _), Only.ite_iff, Only.iteFst_iff, implies_true, and_self]
    | split

theorem execMramScrubRead_only (t : Tm) (loc : MramWhere) (result : Fin 3) {s u : State} (hp : s.pwr.por = false) (h : execMramScrubRead t loc result s = .next u) :
    Only [.ev, .recd, .core, .mem, .sec, .out, .free] [0x10000001, 0x10000002, 0x11000203, 0x11000204, 0x11000205, 0x12000001] (s.clock t) u := by
  obtain rfl := live_next hp h
  generalize s.clock t = v
  repeat' first
    | simp (disch := decide) only [Only.refl_iff, Only.set_sec, Only.step_iff (State.fresh_only _), Only.step_iff (State.memCe_only _ _), Only.step_iff (State.memUe_only _ _ _), Only.step_iff (State.mramLost_only _ _), Only.ite_iff, Only.iteFst_iff, implies_true, and_self]
    | split

end Sys2Proof.Machine
end

