-- ==== Sys2Proof/Laws/OnlyMem.lean ====
section
/-! SUPPORT. What the operations of Machine/Mem.lean leave alone: one lemma for each. -/

namespace Sys2Proof.Machine

theorem State.pierWordBad_only (s : State) (i addr : Nat) : Only [.ev, .recd, .core, .out] [0x11000203, 0x11000204] s (State.pierWordBad s i addr) := by
  unfold State.pierWordBad
  simp (disch := decide) only [Only.refl_iff, Only.set_core, Only.step_iff (State.log_only _ _ _ _), Only.step_iff (State.modPier_only _ _ _), Only.ite_iff, Only.iteFst_iff, implies_true, and_self]

theorem State.configWordBad_only (s : State) (addr : Nat) : Only [.mem] [] s (State.configWordBad s addr) := by
  unfold State.configWordBad
  repeat' first
    | simp (disch := decide) only [Only.refl_iff, Only.set_mem]
    | split

theorem State.bankBad_only (s : State) : Only [.time, .ev, .recd, .host, .mbox, .core, .out] [0x0F000001, 0x0F000002, 0x0F000003, 0x11000203, 0x11000204] s (State.bankBad s) := by
  unfold State.bankBad
  repeat' first
    | simp (disch := decide) only [Only.refl_iff, Only.set_core, Only.step_iff (State.commit_only _ _), Only.step_iff (State.unsync_only _), Only.ite_iff, Only.iteFst_iff, implies_true, and_self]
    | split

theorem State.scrubBad_only (s : State) (m addr : Nat) : Only [.time, .ev, .recd, .host, .mbox, .core, .mem, .out] [0x0F000001, 0x0F000002, 0x0F000003, 0x10000001, 0x10000002, 0x11000203, 0x11000204] s (State.scrubBad s m addr) := by
  unfold State.scrubBad
  simp (disch := decide) only [Only.refl_iff, Only.step_iff (State.bankBad_only _), Only.step_iff (State.configWordBad_only _ _), Only.step_iff (State.memUe_only _ _ _), Only.step_iff (State.pierWordBad_only _ _ _), Only.ite_iff, Only.iteFst_iff, implies_true, and_self]

theorem execSramScrubRead_only (t : Tm) (memory : Fin 19) (addr : Nat) (result : Fin 3) (_written : Bool) {s u : State} (hp : s.pwr.por = false) (h : execSramScrubRead t memory addr result _written s = .next u) :
    Only [.time, .ev, .recd, .host, .mbox, .core, .mem, .out] [0x0F000001, 0x0F000002, 0x0F000003, 0x10000001, 0x10000002, 0x10000202, 0x11000203, 0x11000204] (s.clock t) u := by
  obtain rfl := live_next hp h
  generalize s.clock t = v
  repeat' first
    | simp (disch := decide) only [Only.refl_iff, Only.set_mem, Only.bump_iff, Only.step_iff (State.memCe_only _ _), Only.step_iff (State.scrubBad_only _ _ _), Only.ite_iff, Only.iteFst_iff, implies_true, and_self]
    | split

theorem State.checkerTest_only (s : State) (d : List Byte) : Only [.mbox] [0x10000205] s (State.checkerTest s d).s := by
  unfold State.checkerTest
  simp (disch := decide) only [Only.refl_iff, Only.set_mbox, State.answers_s, State.ends_s, Only.put_iff, Only.putB_iff, Only.ite_iff, Only.iteDone_iff, implies_true, and_self, State.gives_s, State.goesOn_s]

theorem State.checker_only (s : State) (mb : Mb) (cmd : Cmd) (sigOk : Bool) : Only [.ev, .recd, .host, .mbox, .core, .sec, .out] [0x0F000302, 0x0F000303, 0x10000205, 0x11000203, 0x11000204, 0x12000005] s (State.checker s mb cmd sigOk) := by
  unfold State.checker
  simp (disch := first | decide | (intro _ _; simp (disch := decide) only [Only.refl_iff, Only.step_iff (State.checkerTest_only _ _), State.command_iff, State.ends_s, Only.step_iff (State.token_only _ _ _ _), Only.ite_iff, Only.iteFst_iff, implies_true, and_self, Only.iteDone_iff, State.gives_s, State.answers_s, State.goesOn_s])) only [Only.refl_iff, Only.step_iff (State.checkerTest_only _ _), State.command_iff, State.ends_s, Only.step_iff (State.token_only _ _ _ _), Only.ite_iff, Only.iteFst_iff, implies_true, and_self, Only.iteDone_iff, State.gives_s, State.answers_s, State.goesOn_s]

theorem execCheckerWriteRaw_only (t : Tm) (mb : Mb) (cmd : Cmd) (sigOk : Bool) {s u : State} (hp : s.pwr.por = false) (h : execCheckerWriteRaw t mb cmd sigOk s = .next u) :
    Only [.ev, .recd, .host, .mbox, .core, .sec, .out] [0x0F000302, 0x0F000303, 0x10000205, 0x11000203, 0x11000204, 0x12000005] (s.clock t) u := by
  obtain rfl := live_next hp h
  generalize s.clock t = v
  simp (disch := decide) only [Only.refl_iff, Only.step_iff (State.checker_only _ _ _ _)]

theorem execCheckerReadRaw_only (t : Tm) (mb : Mb) (cmd : Cmd) (sigOk : Bool) {s u : State} (hp : s.pwr.por = false) (h : execCheckerReadRaw t mb cmd sigOk s = .next u) :
    Only [.ev, .recd, .host, .mbox, .core, .sec, .out] [0x0F000302, 0x0F000303, 0x10000205, 0x11000203, 0x11000204, 0x12000005] (s.clock t) u := by
  obtain rfl := live_next hp h
  generalize s.clock t = v
  simp (disch := decide) only [Only.refl_iff, Only.step_iff (State.checker_only _ _ _ _)]

theorem execCheckerInject_only (t : Tm) (mb : Mb) (cmd : Cmd) (sigOk : Bool) {s u : State} (hp : s.pwr.por = false) (h : execCheckerInject t mb cmd sigOk s = .next u) :
    Only [.ev, .recd, .host, .mbox, .core, .sec, .out] [0x0F000302, 0x0F000303, 0x10000205, 0x11000203, 0x11000204, 0x12000005] (s.clock t) u := by
  obtain rfl := live_next hp h
  generalize s.clock t = v
  simp (disch := decide) only [Only.refl_iff, Only.step_iff (State.checker_only _ _ _ _)]

theorem execInjectApply_only (t : Tm) {s u : State} (hp : s.pwr.por = false) (h : execInjectApply t s = .next u) :
    Only [.mbox, .mem] [0x10000205] (s.clock t) u := by
  obtain rfl := live_next hp h
  generalize s.clock t = v
  repeat' first
    | simp (disch := decide) only [Only.refl_iff, Only.set_mbox, Only.set_mem, Only.set_mbox_mem, Only.putB_iff, Only.ite_iff, Only.iteFst_iff, implies_true, and_self]
    | split

end Sys2Proof.Machine
end

