-- ==== Sys2Proof/Laws/OnlySettings.lean ====
section
/-! SUPPORT. What the operations of Machine/Settings.lean leave alone: one lemma for each. -/

namespace Sys2Proof.Machine

theorem State.readEffect_only (s : State) (n : Named) : Only [.free] [0x07000207, 0x08000201, 0x0C000309, 0x0D000006] s (State.readEffect s n) := by
  unfold State.readEffect
  simp (disch := decide) only [Only.refl_iff, Only.step_iff (State.fresh_only _), Only.put_iff, Only.ite_iff, Only.iteFst_iff, implies_true, and_self]

theorem State.getOne_only (s : State) (id : Nat) : Only [.free] [0x07000207, 0x08000201, 0x0C000309, 0x0D000006] s (State.getOne s id).1 := by
  unfold State.getOne
  repeat' first
    | simp (disch := decide) only [Only.refl_iff, Only.step_iff (State.readEffect_only _ _), Only.ite_iff, Only.iteFst_iff, implies_true, and_self]
    | split

theorem State.getAll_only (s : State) (x : List Nat) : Only [.free] [0x07000207, 0x08000201, 0x0C000309, 0x0D000006] s (State.getAll s x).1 := by
  induction x generalizing s with
  | nil => exact Only.refl
  | cons a l ih =>
    unfold State.getAll
    simp (disch := decide) only [Only.refl_iff, Only.step_iff (State.getOne_only _ _), Only.ite_iff, Only.iteFst_iff, implies_true, and_self, Only.step_iff (ih _)]

theorem execParamGet_only (t : Tm) (mb : Mb) (cmd : Cmd) {s u : State} (hp : s.pwr.por = false) (h : execParamGet t mb cmd s = .next u) :
    Only [.ev, .recd, .host, .mbox, .core, .out, .free] [0x07000207, 0x08000201, 0x0C000309, 0x0D000006, 0x0F000302, 0x0F000303, 0x11000203, 0x11000204] (s.clock t) u := by
  obtain rfl := live_next hp h
  generalize s.clock t = v
  refine (State.command_iff (fun _ _ => ?_) (by decide) (by decide)).2 Only.refl
  simp (disch := decide) only [Only.refl_iff, State.ends_s, Only.step_iff (State.getAll_only _ _), Only.ite_iff, Only.iteFst_iff, implies_true, and_self, Only.iteDone_iff, State.gives_s, State.answers_s, State.goesOn_s]

theorem State.ownerWrite_only (s : State) (old new : W64) : Only [.ev, .recd, .out] [0x11000203, 0x11000204] s (State.ownerWrite s old new) := by
  unfold State.ownerWrite
  simp (disch := decide) only [Only.refl_iff, Only.step_iff (State.raiseIf_only _ _ _)]

theorem State.secWrite_only (s : State) (mask bits : W64) : Only [.ev, .recd, .sec, .out] [0x11000203, 0x11000204, 0x12000001, 0x12000002, 0x12000003] s (State.secWrite s mask bits).1 := by
  unfold State.secWrite
  simp (disch := decide) only [Only.refl_iff, Only.step_iff (State.ownerLock_only _), Only.step_iff (State.ownerRequire_only _ _), Only.step_iff (State.svnCommit_only _), Only.ite_iff, Only.iteFst_iff, implies_true, and_self]

theorem State.setEffect_only (s : State) (n : Named) (i : Nat) (mask bits old new : W64) : Only [.time, .ev, .recd, .afe, .dig, .loop, .deck, .ctx, .fab, .lane, .core, .sec, .out, .free] [0x01000004, 0x01000008, 0x01000105, 0x02000107, 0x05000113, 0x05000114, 0x05000116, 0x06000101, 0x06000102, 0x06000203, 0x08000015, 0x08000101, 0x08000102, 0x08000204, 0x0B000003, 0x0B000005, 0x0B000102, 0x0B000104, 0x0C000202, 0x0C000205, 0x0C00030C, 0x0C00030E, 0x0F000102, 0x0F000103, 0x11000203, 0x11000204, 0x12000001, 0x12000002, 0x12000003] s (State.setEffect s n i mask bits old new).1 := by
  unfold State.setEffect
  dsimp only
  repeat' with_reducible refine Only.iteFst_iff.2 ⟨fun _ => ?_, fun _ => ?_⟩
  all_goals simp (disch := decide) only [Only.refl_iff, Only.step_iff (State.armEntry_only _ _ _), Only.step_iff (State.channelRestore_only _ _), Only.step_iff (State.ctxOp_only _ _ _), Only.step_iff (State.dutyWrite_only _ _), Only.step_iff (State.emit_only _ _), Only.step_iff (State.laneLoop_only _ _ _), Only.step_iff (State.laneRestart_only _ _), Only.step_iff (State.maintStart_only _ _ _ _), Only.step_iff (State.manWrite_only _ _), Only.step_iff (State.modLp_only _ _ _), Only.step_iff (State.ownerWrite_only _ _ _), Only.step_iff (State.prbsWrite_only _ _ _), Only.step_iff (State.secWrite_only _ _ _), Only.step_iff (State.sumEval_only _ _), Only.step_iff (State.tripClear_only _ _), Only.step_iff (State.urgent_only _ _ _ _ _ _), Only.step_iff (State.writeArmed_only _ _), Only.ite_iff, Only.iteFst_iff, implies_true, and_self]

theorem State.storeEntry_only (s : State) (n : Named) (i : Nat) (e : Entry) : Only [.time, .ev, .recd, .afe, .dig, .loop, .deck, .ctx, .fab, .lane, .core, .sec, .out, .free, .regs] [] s (State.storeEntry s n i e).1 := by
  unfold State.storeEntry
  simp (disch := decide) only [Only.refl_iff, Only.set_regs, Only.step_iff (State.setEffect_only _ _ _ _ _ _ _), Only.ite_iff, Only.iteFst_iff, implies_true, and_self]

theorem State.instKeep_only (s : State) (n : Named) (cls : Nat) (e : Entry) (i : Nat) (new : W64) : Only [.time, .sec] [] s (State.instKeep s n cls e i new) := by
  unfold State.instKeep
  simp (disch := decide) only [Only.refl_iff, Only.set_sec, Only.step_iff (State.pendAt_only _ _ _ _ _), Only.ite_iff, Only.iteFst_iff, implies_true, and_self]

theorem State.instSet_only (s : State) (n : Named) (cls : Nat) (e : Entry) (i : Nat) : Only [.time, .ev, .recd, .afe, .dig, .loop, .deck, .ctx, .fab, .lane, .core, .sec, .out, .free, .regs] [] s (State.instSet s n cls e i).s := by
  unfold State.instSet
  dsimp only
  (repeat' split) <;> simp (disch := decide) only [Only.refl_iff, Only.step_iff (State.instKeep_only _ _ _ _ _ _),
    Only.step_iff (State.storeEntry_only _ _ _ _)]

theorem State.instsSet_only (s : State) (n : Named) (cls : Nat) (e : Entry) (waits : Bool) (x : List Nat) : Only [.time, .ev, .recd, .afe, .dig, .loop, .deck, .ctx, .fab, .lane, .core, .sec, .out, .free, .regs] [] s (State.instsSet s n cls e waits x).s := by
  induction x generalizing s waits with
  | nil => exact Only.refl
  | cons a l ih =>
    unfold State.instsSet
    dsimp only
    split
    · exact State.instSet_only _ _ _ _ _
    · exact (State.instSet_only _ _ _ _ _).trans (ih _ _)

theorem State.entrySet_only (s : State) (cls : Nat) (e : Entry) : Only [.time, .ev, .recd, .afe, .dig, .loop, .deck, .ctx, .fab, .lane, .core, .sec, .out, .free, .regs] [] s (State.entrySet s cls e).s := by
  unfold State.entrySet
  (repeat' split) <;> first | exact Only.refl | exact State.instsSet_only _ _ _ _ _ _

theorem State.setRefused_only (s : State) (r : SetRun) : Only [] [0x02000107] s (State.setRefused s r) := by
  unfold State.setRefused
  repeat' first
    | simp (disch := decide) only [Only.refl_iff, Only.bump_iff]
    | split

theorem State.paramSet_only (s : State) (p : List Byte) : Only [.time, .ev, .recd, .afe, .dig, .loop, .deck, .ctx, .fab, .lane, .core, .sec, .out, .free, .regs] [] s (State.paramSet s p).s := by
  unfold State.paramSet
  dsimp only
  split
  · exact (State.setRefused_only _ _).mono (by decide) (by decide)
  · exact State.entrySet_only _ _ _

theorem execParamSet_only (t : Tm) (mb : Mb) (cmd : Cmd) {s u : State} (hp : s.pwr.por = false) (h : execParamSet t mb cmd s = .next u) :
    Only [.time, .ev, .recd, .afe, .dig, .loop, .deck, .ctx, .fab, .lane, .host, .mbox, .core, .sec, .out, .free, .regs] [] (s.clock t) u := by
  obtain rfl := live_next hp h
  generalize s.clock t = v
  refine (State.command_iff (fun _ _ => ?_) (by decide) (by decide)).2 Only.refl
  simp (disch := decide) only [Only.refl_iff, Only.step_iff (State.paramSet_only _ _), Only.iteDone_iff, State.ends_s, State.gives_s, State.answers_s, State.goesOn_s]

theorem State.entriesSet_only (s : State) (cls : Nat) (waits : Bool) (k : Nat) (l : List Entry) :
    Only [.time, .ev, .recd, .afe, .dig, .loop, .deck, .ctx, .fab, .lane, .core, .sec, .out, .free, .regs] [] s
      (s.entriesSet cls waits k l).1.s := by
  induction l generalizing s waits k with
  | nil => exact Only.refl
  | cons e l ih =>
    unfold State.entriesSet
    dsimp only
    split
    · exact State.entrySet_only _ _ _
    · exact (State.entrySet_only _ _ _).trans (ih _ _ _)

theorem State.endsWith_only (s : State) (status result : Nat) : Only [] [] s (State.endsWith s status result).s := by
  unfold State.endsWith
  simp (disch := decide) only [Only.refl_iff, State.ends_s, State.gives_s, State.answers_s, State.goesOn_s]

theorem State.multiSet_only (s : State) (p : List Byte) : Only [.time, .ev, .recd, .afe, .dig, .loop, .deck, .ctx, .fab, .lane, .mbox, .core, .sec, .out, .free, .regs] [] s (State.multiSet s p).s := by
  unfold State.multiSet
  dsimp only
  (repeat' split) <;> first
    | exact Only.refl
    | exact (State.setRefused_only _ _).mono (by decide) (by decide)
    | exact (State.entriesSet_only ..).mono (by decide) (by decide)
    | exact ((State.entriesSet_only ..).mono (by decide) (by decide)).trans ((Only.set_mbox (by decide)).2 Only.refl)

theorem execParamSetMulti_only (t : Tm) (mb : Mb) (cmd : Cmd) {s u : State} (hp : s.pwr.por = false) (h : execParamSetMulti t mb cmd s = .next u) :
    Only [.time, .ev, .recd, .afe, .dig, .loop, .deck, .ctx, .fab, .lane, .host, .mbox, .core, .sec, .out, .free, .regs] [] (s.clock t) u := by
  obtain rfl := live_next hp h
  generalize s.clock t = v
  refine (State.command_iff (fun _ _ => ?_) (by decide) (by decide)).2 Only.refl
  simp (disch := decide) only [Only.refl_iff, Only.step_iff (State.multiSet_only _ _), Only.iteDone_iff, State.ends_s, State.gives_s, State.answers_s, State.goesOn_s]

theorem execAtNsRelease_only (t : Tm) (cls : Fin 8) {s u : State} (hp : s.pwr.por = false) (h : execAtNsRelease t cls s = .next u) :
    Only [.time, .ev, .recd, .mbox, .out] [0x11000203, 0x11000204] (s.clock t) u := by
  obtain rfl := live_next hp h
  generalize s.clock t = v
  repeat' first
    | simp (disch := decide) only [Only.refl_iff, Only.set_mbox, Only.step_iff (State.releaseClass_only _ _), Only.ite_iff, Only.iteFst_iff, implies_true, and_self]
    | split

theorem execSwapCommit_only (t : Tm) (mb : Mb) (cmd : Cmd) {s u : State} (hp : s.pwr.por = false) (h : execSwapCommit t mb cmd s = .next u) :
    Only [.time, .ev, .recd, .host, .mbox, .core, .out] [0x0F000302, 0x0F000303, 0x11000203, 0x11000204] (s.clock t) u := by
  obtain rfl := live_next hp h
  generalize s.clock t = v
  refine (State.command_iff (fun _ _ => ?_) (by decide) (by decide)).2 Only.refl
  simp (disch := decide) only [Only.refl_iff, State.gives_s, Only.step_iff (State.release_only _ _), Only.iteDone_iff, State.ends_s, State.answers_s, State.goesOn_s]

theorem State.saveNow_only (s : State) : Only [.mbox, .sec] [] s (State.saveNow s) := by
  unfold State.saveNow
  repeat' first
    | simp (disch := decide) only [Only.refl_iff, Only.set_mbox_sec]
    | split

theorem execConfigSave_only (t : Tm) (mb : Mb) (cmd : Cmd) {s u : State} (hp : s.pwr.por = false) (h : execConfigSave t mb cmd s = .next u) :
    Only [.ev, .recd, .host, .mbox, .core, .sec, .out] [0x0F000302, 0x0F000303, 0x11000203, 0x11000204] (s.clock t) u := by
  obtain rfl := live_next hp h
  generalize s.clock t = v
  refine (State.command_iff (fun _ _ => ?_) (by decide) (by decide)).2 Only.refl
  simp (disch := decide) only [Only.refl_iff, State.gives_s, State.goesOn_s, Only.step_iff (State.saveNow_only _), Only.ite_iff, Only.iteFst_iff, implies_true, and_self, Only.iteDone_iff, State.ends_s, State.answers_s]

theorem execConfigSaveDeferred_only (t : Tm) {s u : State} (hp : s.pwr.por = false) (h : execConfigSaveDeferred t s = .next u) :
    Only [.mbox, .sec] [] (s.clock t) u := by
  obtain rfl := live_next hp h
  generalize s.clock t = v
  simp (disch := decide) only [Only.refl_iff, Only.step_iff (State.backEnd_only _ _ _ _ _), Only.step_iff (State.saveNow_only _), Only.ite_iff, Only.iteFst_iff, implies_true, and_self]

theorem execConfigLoad_only (t : Tm) (mb : Mb) (cmd : Cmd) {s u : State} (hp : s.pwr.por = false) (h : execConfigLoad t mb cmd s = .next u) :
    Only [.time, .ev, .recd, .afe, .loop, .host, .mbox, .core, .sec, .out, .regs] [] (s.clock t) u := by
  obtain rfl := live_next hp h
  generalize s.clock t = v
  refine (State.command_iff (fun _ _ => ?_) (by decide) (by decide)).2 Only.refl
  simp (disch := decide) only [Only.refl_iff, Only.step_iff (State.configApply_only _ _), Only.step_iff (State.configLoad_only _), State.ends_s, State.gives_s, Only.ite_iff, Only.iteFst_iff, implies_true, and_self, Only.iteDone_iff, State.answers_s, State.goesOn_s]

theorem State.stepSend_only (s : State) (b : Tm) (toTarget : Bool) (val : Int) : Only [.out] [] s (State.stepSend s b toTarget val) := by
  unfold State.stepSend
  simp (disch := decide) only [Only.refl_iff, Only.step_iff (State.emit_only _ _)]

theorem State.timeStep_only (s : State) (p : List Byte) : Only [.time, .out] [] s (State.timeStep s p).s := by
  unfold State.timeStep
  simp (disch := decide) only [Only.refl_iff, Only.set_time, State.ends_s, State.gives_s, Only.step_iff (State.stepSend_only _ _ _ _), Only.ite_iff, Only.iteDone_iff, implies_true, and_self, State.answers_s, State.goesOn_s]

theorem execTimeStep_only (t : Tm) (mb : Mb) (cmd : Cmd) {s u : State} (hp : s.pwr.por = false) (h : execTimeStep t mb cmd s = .next u) :
    Only [.time, .ev, .recd, .host, .mbox, .core, .out] [0x0F000302, 0x0F000303, 0x11000203, 0x11000204] (s.clock t) u := by
  obtain rfl := live_next hp h
  generalize s.clock t = v
  refine (State.command_iff (fun _ _ => ?_) (by decide) (by decide)).2 Only.refl
  simp (disch := decide) only [Only.refl_iff, Only.step_iff (State.timeStep_only _ _), Only.iteDone_iff, State.ends_s, State.gives_s, State.answers_s, State.goesOn_s]

theorem State.armAnswer_only {ps : List Part} {rs : List Nat} {s : State} (i : Nat) (r : State × Nat) (h : Only ps rs s r.1) :
    Only ps rs s (s.armAnswer i r).s := by
  unfold State.armAnswer
  split
  · exact h
  · exact Only.refl

theorem State.scheduleIn_only (s : State) (p : List Byte) (entry : Option Nat) : Only [.time, .ev, .recd, .core, .out] [0x0C000201, 0x0C000202, 0x0C000203, 0x0C000204, 0x0C000205, 0x0C00030E, 0x11000203, 0x11000204] s (State.scheduleIn s p entry).s := by
  unfold State.scheduleIn
  split
  · exact Only.refl
  · refine State.armAnswer_only _ _ ?_
    simp (disch := decide) only [Only.refl_iff, Only.step_iff (State.armEntry_only _ _ _), Only.put_iff]

theorem State.schedule_only (s : State) (p : List Byte) : Only [.time, .ev, .recd, .core, .out] [0x0C000201, 0x0C000202, 0x0C000203, 0x0C000204, 0x0C000205, 0x0C00030E, 0x11000203, 0x11000204] s (State.schedule s p).s := by
  unfold State.schedule
  simp (disch := decide) only [Only.refl_iff, State.ends_s, Only.step_iff (State.scheduleIn_only _ _ _), Only.ite_iff, Only.iteDone_iff, implies_true, and_self, State.gives_s, State.answers_s, State.goesOn_s]

theorem execSchedule_only (t : Tm) (mb : Mb) (cmd : Cmd) {s u : State} (hp : s.pwr.por = false) (h : execSchedule t mb cmd s = .next u) :
    Only [.time, .ev, .recd, .host, .mbox, .core, .out] [0x0C000201, 0x0C000202, 0x0C000203, 0x0C000204, 0x0C000205, 0x0C00030E, 0x0F000302, 0x0F000303, 0x11000203, 0x11000204] (s.clock t) u := by
  obtain rfl := live_next hp h
  generalize s.clock t = v
  refine (State.command_iff (fun _ _ => ?_) (by decide) (by decide)).2 Only.refl
  simp (disch := decide) only [Only.refl_iff, Only.step_iff (State.schedule_only _ _), Only.iteDone_iff, State.ends_s, State.gives_s, State.answers_s, State.goesOn_s]

end Sys2Proof.Machine
end

