-- ==== Sys2Proof/Laws/OnlyPowerUp.lean ====
section
/-! SUPPORT. What the operations of Machine/PowerUp.lean leave alone: one lemma for each. -/

namespace Sys2Proof.Machine

theorem State.keptFields_only (s old : State) (cause rail : Nat) : Only [] [0x0F000401, 0x12000001, 0x12000002, 0x12000004] s (State.keptFields s old cause rail) := by
  unfold State.keptFields
  simp (disch := decide) only [Only.refl_iff, Only.put_iff]

theorem State.held_only (s : State) (cause rail : Nat) : Only [.time, .ev, .recd, .afe, .dig, .tdc, .trg, .loop, .deck, .seam, .ctx, .fab, .lane, .ddr, .host, .mbox, .core, .mem, .press, .sec, .pwr, .out, .regs] [] s (State.held s cause rail) := by
  unfold State.held
  exact ⟨fun p hn => by cases p <;> first | rfl | exact absurd (by decide) hn, .inl (by decide)⟩

theorem State.startUp_only (s : State) : Only [.ev, .recd, .afe, .dig, .core, .pwr, .out] [0x01000008, 0x05000116, 0x11000203, 0x11000204, 0x12000001] s (State.startUp s) := by
  unfold State.startUp
  simp (disch := decide) only [Only.refl_iff, Only.set_core_pwr, Only.step_iff (State.blankAll_only _), Only.putB_iff, Only.step_iff (State.raise_only _ _), Only.ite_iff, Only.iteFst_iff, implies_true, and_self]

theorem State.restart_only (s : State) (cause rail : Nat) : Only [.time, .ev, .recd, .afe, .dig, .tdc, .trg, .loop, .deck, .seam, .ctx, .fab, .lane, .ddr, .host, .mbox, .core, .mem, .press, .sec, .pwr, .out, .regs] [] s (State.restart s cause rail) := by
  unfold State.restart
  simp (disch := decide) only [Only.refl_iff, Only.step_iff (State.held_only _ _ _), Only.step_iff (State.startUp_only _)]

theorem State.porTake_only (s : State) : Only [.time, .ev, .recd, .afe, .dig, .tdc, .trg, .loop, .deck, .seam, .ctx, .fab, .lane, .ddr, .host, .mbox, .core, .mem, .press, .sec, .pwr, .out, .regs] [] s (State.porTake s) := by
  unfold State.porTake
  simp (disch := decide) only [Only.refl_iff, Only.set_pwr, Only.step_iff (State.held_only _ _ _)]

theorem execPorNAssert_only (t : Tm) (width : Nat) {s u : State} (hp : s.pwr.por = false) (h : execPorNAssert t width s = .next u) :
    Only [.time, .ev, .recd, .afe, .dig, .tdc, .trg, .loop, .deck, .seam, .ctx, .fab, .lane, .ddr, .host, .mbox, .core, .mem, .press,
      .sec, .pwr, .out, .free, .regs] [] (s.clock t) u := by
  unfold execPorNAssert at h
  simp only [hp, Bool.false_eq_true, if_false] at h
  generalize s.clock t = v at h ⊢
  split at h
  · exact Host.Outcome.next.inj h ▸ Only.refl
  · split at h
    · obtain rfl := Host.Outcome.next.inj h
      simp (disch := decide) only [Only.refl_iff, Only.step_iff (State.porTake_only _)]
    · split at h
      · obtain rfl := Host.Outcome.next.inj h
        simp (disch := decide) only [Only.refl_iff, Only.step_iff (State.fresh_only _)]
      · obtain rfl := Host.Outcome.next.inj h
        simp (disch := decide) only [Only.refl_iff, Only.step_iff (State.fresh_only _), Only.step_iff (State.porTake_only _)]

theorem execPorNRelease_only (t : Tm) {s u : State} (h : execPorNRelease t s = .next u) :
    Only [.time, .ev, .recd, .afe, .dig, .core, .pwr, .out] [0x01000008, 0x05000116, 0x11000203, 0x11000204, 0x12000001] (s.clock t) u := by
  have hc : Only [.time, .ev, .recd, .afe, .dig, .core, .pwr, .out] [0x01000008, 0x05000116, 0x11000203, 0x11000204, 0x12000001] (s.clock t) s :=
    ((State.clock_only s t).mono (by decide) (by decide)).symm
  unfold execPorNRelease at h
  split at h
  · obtain rfl := Host.Outcome.next.inj h
    exact hc.trans ((State.startUp_only _).mono (by decide) (by decide))
  · exact Host.Outcome.next.inj h ▸ hc

theorem State.pierStart_only (s : State) : Only [.core] [] s (State.pierStart s) := by
  unfold State.pierStart
  simp (disch := first | decide | (intro _ _; simp (disch := decide) only [Only.refl_iff, Only.each_iff, Only.step_iff (State.modPier_only _ _ _)])) only [Only.refl_iff, Only.each_iff, Only.step_iff (State.modPier_only _ _ _)]

theorem execClkrefClassify_only (t : Tm) (count : Nat) {s u : State} (hp : s.pwr.por = false) (h : execClkrefClassify t count s = .next u) :
    Only [.ev, .recd, .core, .pwr, .out] [0x0A000205, 0x0F000401, 0x11000203, 0x11000204] (s.clock t) u := by
  obtain rfl := live_next hp h
  generalize s.clock t = v
  simp (disch := decide) only [Only.refl_iff, Only.set_pwr, Only.step_iff (State.clockHold_only _), Only.step_iff (State.pierStart_only _), Only.put_iff, Only.step_iff (State.raise_only _ _), Only.ite_iff, Only.iteFst_iff, implies_true, and_self]

theorem execPllLock_only (t : Tm) (pll : Fin 5) {s u : State} (hp : s.pwr.por = false) (h : execPllLock t pll s = .next u) :
    Only [.pwr] [0x0A000205] (s.clock t) u := by
  obtain rfl := live_next hp h
  generalize s.clock t = v
  simp (disch := decide) only [Only.refl_iff, Only.set_pwr, Only.putB_iff, Only.ite_iff, Only.iteFst_iff, implies_true, and_self]

theorem execCorePllLockLoss_only (t : Tm) {s u : State} (hp : s.pwr.por = false) (h : execCorePllLockLoss t s = .next u) :
    Only [.time, .ev, .recd, .afe, .dig, .tdc, .trg, .loop, .deck, .seam, .ctx, .fab, .lane, .ddr, .host, .mbox, .core, .mem, .press, .sec, .pwr, .out, .regs] [] (s.clock t) u := by
  obtain rfl := live_next hp h
  generalize s.clock t = v
  simp (disch := decide) only [Only.refl_iff, Only.step_iff (State.restart_only _ _ _)]

theorem execRailOutOfTolerance_only (t : Tm) (rail : Fin 9) (out : Bool) {s u : State} (hp : s.pwr.por = false) (h : execRailOutOfTolerance t rail out s = .next u) :
    Only [.ev, .recd, .out] [0x0F000406, 0x11000203, 0x11000204] (s.clock t) u := by
  obtain rfl := live_next hp h
  generalize s.clock t = v
  simp (disch := decide) only [Only.refl_iff, Only.put_iff, Only.step_iff (State.raiseIf_only _ _ _), Only.ite_iff, Only.iteFst_iff, implies_true, and_self]

theorem execBrownOut_only (t : Tm) (rail : Fin 9) {s u : State} (hp : s.pwr.por = false) (h : execBrownOut t rail s = .next u) :
    Only [.time, .ev, .recd, .afe, .dig, .tdc, .trg, .loop, .deck, .seam, .ctx, .fab, .lane, .ddr, .host, .mbox, .core, .mem, .press, .sec, .pwr, .out, .regs] [] (s.clock t) u := by
  obtain rfl := live_next hp h
  generalize s.clock t = v
  simp (disch := decide) only [Only.refl_iff, Only.set_pwr, Only.step_iff (State.held_only _ _ _), Only.step_iff (State.startUp_only _)]

theorem execOverlightRelease_only (t : Tm) (tile : Tile) (sum : Nat) {s u : State} (hp : s.pwr.por = false) (h : execOverlightRelease t tile sum s = .next u) :
    Only [.time, .ev, .recd, .afe, .loop, .core, .out] [0x01000101, 0x01000105, 0x05000101, 0x05000110, 0x05000113, 0x05000114, 0x0F000102, 0x0F000103, 0x11000203, 0x11000204] (s.clock t) u := by
  obtain rfl := live_next hp h
  generalize s.clock t = v
  simp (disch := decide) only [Only.refl_iff, Only.step_iff (State.drive_only _ _ _), Only.step_iff (State.modFe_only _ _ _), Only.step_iff (State.sumEval_only _ _), Only.step_iff (State.trip_only _ _), Only.ite_iff, Only.iteFst_iff, implies_true, and_self]

theorem execThermalReading_only (t : Tm) (sensor : Fin 17) (temp : Int) {s u : State} (hp : s.pwr.por = false) (h : execThermalReading t sensor temp s = .next u) :
    Only [.ev, .recd, .pwr, .out] [0x0F000404, 0x11000203, 0x11000204] (s.clock t) u := by
  obtain rfl := live_next hp h
  generalize s.clock t = v
  simp (disch := decide) only [Only.refl_iff, Only.set_pwr, Only.bump_iff, Only.put_iff, Only.putB_iff, Only.step_iff (State.raiseIf_only _ _ _), Only.ite_iff, Only.iteFst_iff, implies_true, and_self]

theorem execThermalShutdown_only (t : Tm) {s u : State} (hp : s.pwr.por = false) (h : execThermalShutdown t s = .next u) :
    Only [.time, .ev, .recd, .afe, .dig, .tdc, .trg, .loop, .deck, .seam, .ctx, .fab, .lane, .ddr, .host, .mbox, .core, .mem, .press, .sec, .pwr, .out, .regs] [] (s.clock t) u := by
  obtain rfl := live_next hp h
  generalize s.clock t = v
  simp (disch := decide) only [Only.refl_iff, Only.set_pwr, Only.step_iff (State.held_only _ _ _)]

theorem execThermalShutdownRelease_only (t : Tm) {s u : State} (h : execThermalShutdownRelease t s = .next u) :
    Only [.time, .ev, .recd, .afe, .dig, .core, .pwr, .out] [0x01000008, 0x05000116, 0x11000203, 0x11000204, 0x12000001] (s.clock t) u := by
  have hc : Only [.time, .ev, .recd, .afe, .dig, .core, .pwr, .out] [0x01000008, 0x05000116, 0x11000203, 0x11000204, 0x12000001] (s.clock t) s :=
    ((State.clock_only s t).mono (by decide) (by decide)).symm
  unfold execThermalShutdownRelease at h
  split at h
  · obtain rfl := Host.Outcome.next.inj h
    exact hc.trans ((State.startUp_only _).mono (by decide) (by decide))
  · exact Host.Outcome.next.inj h ▸ hc

end Sys2Proof.Machine
end

