-- ==== Sys2Proof/Laws/OnlyRegisters.lean ====
section
/-! SUPPORT. What the operations of Machine/Registers.lean leave alone: one lemma for each. -/

namespace Sys2Proof.Machine

theorem State.pierBoot_only (s : State) (i : Nat) : Only [.ev, .recd, .core, .out] [0x0F000006, 0x11000203, 0x11000204] s (State.pierBoot s i) := by
  unfold State.pierBoot
  simp (disch := decide) only [Only.refl_iff, Only.step_iff (State.bumpPier_only _ _), Only.step_iff (State.modPier_only _ _ _), Only.step_iff (State.raise_only _ _)]

theorem State.coreReset_only (s : State) : Only [.time, .ev, .recd, .seam, .ctx, .fab, .host, .mbox, .core, .out] [0x07000002, 0x07000003, 0x07000004, 0x07000005, 0x07000006, 0x07000205, 0x07000206, 0x07000207, 0x07000208, 0x08000015, 0x08000019, 0x08000101, 0x08000102, 0x08000201, 0x08000202, 0x08000204, 0x0A000006, 0x0A000008, 0x0F000001, 0x0F000006, 0x11000203, 0x11000204] s (State.coreReset s) := by
  unfold State.coreReset
  simp (disch := decide) only [Only.refl_iff, Only.set_host_core, Only.step_iff (State.coreShow_only _), Only.step_iff (State.ctxReturn_only _), Only.step_iff (State.mbDrop_only _), Only.step_iff (State.mbReady_only _), Only.step_iff (State.pierBoot_only _ _), Only.step_iff (State.raise_only _ _), Only.step_iff (State.seamReturn_only _), Only.step_iff (State.shadowsDrop_only _), Only.ite_iff, Only.iteFst_iff, implies_true, and_self]

theorem State.mb4Done_only (s : State) (status result : Nat) : Only [.ev, .recd, .host, .out] [0x11000203, 0x11000204] s (State.mb4Done s status result) := by
  unfold State.mb4Done
  simp (disch := decide) only [Only.refl_iff, Only.set_host, Only.step_iff (State.raise_only _ _)]

theorem State.mb4Load_only (s : State) (slot : Nat) (load : Option Load) : Only [.ev, .recd, .host, .sec, .out] [0x11000203, 0x11000204, 0x12000001] s (State.mb4Load s slot load) := by
  unfold State.mb4Load
  repeat' first
    | simp (disch := decide) only [Only.refl_iff, Only.set_host, Only.step_iff (State.loadSlot_only _ _ _ _ _), Only.step_iff (State.mb4Done_only _ _ _), Only.ite_iff, Only.iteFst_iff, implies_true, and_self]
    | split

theorem State.mb4Go_only (s : State) (load : Option Load) : Only [.time, .ev, .recd, .afe, .dig, .tdc, .trg, .loop, .deck, .seam, .ctx, .fab, .lane, .ddr, .host, .mbox, .core, .mem, .press, .sec, .pwr, .out, .regs] [] s (State.mb4Go s load) := by
  unfold State.mb4Go
  repeat' first
    | simp (disch := decide) only [Only.refl_iff, Only.set_host, Only.step_iff (State.coreReset_only _), Only.step_iff (State.mb4Done_only _ _ _), Only.step_iff (State.mb4Load_only _ _ _), Only.put_iff, Only.step_iff (State.raise_only _ _), Only.step_iff (State.restart_only _ _ _), Only.ite_iff, Only.iteFst_iff, implies_true, and_self]
    | split

theorem State.mb4Write_only (s : State) (op seq arg0 arg1 : Nat) : Only [.host] [] s (State.mb4Write s op seq arg0 arg1) := by
  unfold State.mb4Write
  simp (disch := decide) only [Only.refl_iff, Only.set_host, Only.ite_iff, Only.iteFst_iff, implies_true, and_self]

theorem State.mb4_only (s : State) (op seq arg0 arg1 : Nat) : Only [.time, .ev, .recd, .afe, .dig, .tdc, .trg, .loop, .deck, .seam, .ctx, .fab, .lane, .ddr, .host, .mbox, .core, .mem, .press, .sec, .pwr, .out, .regs] [] s (State.mb4 s op seq arg0 arg1) := by
  unfold State.mb4
  simp (disch := decide) only [Only.refl_iff, Only.step_iff (State.mb4Go_only _ _), Only.step_iff (State.mb4Write_only _ _ _ _ _), Only.ite_iff, Only.iteFst_iff, implies_true, and_self]

theorem execMb4Status_only (t : Tm) (seq : BitVec 16) {s u : State} (hp : s.pwr.por = false) (h : execMb4Status t seq s = .next u) :
    Only [.time, .ev, .recd, .afe, .dig, .tdc, .trg, .loop, .deck, .seam, .ctx, .fab, .lane, .ddr, .host, .mbox, .core, .mem, .press, .sec, .pwr, .out, .regs] [] (s.clock t) u := by
  obtain rfl := live_next hp h
  generalize s.clock t = v
  simp (disch := decide) only [Only.refl_iff, Only.step_iff (State.mb4_only _ _ _ _ _)]

theorem execMb4Reset_only (t : Tm) (seq : BitVec 16) (arg0 arg1 : BitVec 32) {s u : State} (hp : s.pwr.por = false) (h : execMb4Reset t seq arg0 arg1 s = .next u) :
    Only [.time, .ev, .recd, .afe, .dig, .tdc, .trg, .loop, .deck, .seam, .ctx, .fab, .lane, .ddr, .host, .mbox, .core, .mem, .press, .sec, .pwr, .out, .regs] [] (s.clock t) u := by
  obtain rfl := live_next hp h
  generalize s.clock t = v
  simp (disch := decide) only [Only.refl_iff, Only.step_iff (State.mb4_only _ _ _ _ _)]

theorem execMb4SlotSelect_only (t : Tm) (seq : BitVec 16) (arg0 : BitVec 32) {s u : State} (hp : s.pwr.por = false) (h : execMb4SlotSelect t seq arg0 s = .next u) :
    Only [.time, .ev, .recd, .afe, .dig, .tdc, .trg, .loop, .deck, .seam, .ctx, .fab, .lane, .ddr, .host, .mbox, .core, .mem, .press, .sec, .pwr, .out, .regs] [] (s.clock t) u := by
  obtain rfl := live_next hp h
  generalize s.clock t = v
  simp (disch := decide) only [Only.refl_iff, Only.step_iff (State.mb4_only _ _ _ _ _)]

theorem execMb4FwLoad_only (t : Tm) (seq : BitVec 16) (slot : Fin 2) (arg0 arg1 : BitVec 32) (bytes : Nat) (image : Image) (read : ReadEnd) {s u : State} (hp : s.pwr.por = false) (h : execMb4FwLoad t seq slot arg0 arg1 bytes image read s = .next u) :
    Only [.time, .ev, .recd, .afe, .dig, .tdc, .trg, .loop, .deck, .seam, .ctx, .fab, .lane, .ddr, .host, .mbox, .core, .mem, .press, .sec, .pwr, .out, .regs] [] (s.clock t) u := by
  obtain rfl := live_next hp h
  generalize s.clock t = v
  simp (disch := decide) only [Only.refl_iff, Only.step_iff (State.mb4Go_only _ _), Only.step_iff (State.mb4Write_only _ _ _ _ _), Only.ite_iff, Only.iteFst_iff, implies_true, and_self]

theorem execDeviceReadFail_only (t : Tm) (what : ReadFor) (how : ReadEnd) {s u : State} (hp : s.pwr.por = false) (h : execDeviceReadFail t what how s = .next u) :
    Only [.ev, .recd, .ctx, .host, .mbox, .press, .out] [0x08000015, 0x09000001, 0x09000002, 0x09000003, 0x09000202, 0x09000203, 0x11000203, 0x11000204] (s.clock t) u := by
  obtain rfl := live_next hp h
  generalize s.clock t = v
  repeat' first
    | simp (disch := decide) only [Only.refl_iff, Only.step_iff (State.ctxLost_only _ _), Only.step_iff (State.jobTimeout_only _ _), Only.step_iff (State.mb4Done_only _ _ _), Only.step_iff (State.modMb_only _ _ _), Only.step_iff (State.readFail_only _ _), Only.ite_iff, Only.iteFst_iff, implies_true, and_self]
    | split

theorem execSmbMb4Start_only (b : SmbAt) (opcode : BitVec 16) (seq : BitVec 16) (arg0 : BitVec 32) (arg1 : BitVec 32) (pecOk : Bool) {s u : State} (hp : s.pwr.por = false) (h : execSmbMb4Start b opcode seq arg0 arg1 pecOk s = .next u) :
    Only [.time, .ev, .recd, .afe, .dig, .tdc, .trg, .loop, .deck, .seam, .ctx, .fab, .lane, .ddr, .host, .mbox, .core, .mem, .press, .sec, .pwr, .out, .regs] [] (s.clock b.t) u := by
  obtain rfl := live_next hp h
  generalize s.clock b.t = v
  simp (disch := decide) only [Only.refl_iff, Only.step_iff (State.emit_only _ _), Only.step_iff (State.mb4Done_only _ _ _), Only.step_iff (State.mb4Go_only _ _), Only.step_iff (State.mb4Write_only _ _ _ _ _), Only.step_iff (State.pecFail_only _), Only.ite_iff, Only.iteFst_iff, implies_true, and_self]

theorem execSmbMb4Read_only (b : SmbAt) {s u : State} (hp : s.pwr.por = false) (h : execSmbMb4Read b s = .next u) :
    Only [.out] [] (s.clock b.t) u := by
  obtain rfl := live_next hp h
  generalize s.clock b.t = v
  simp (disch := decide) only [Only.refl_iff, Only.step_iff (State.emit_only _ _), Only.ite_iff, Only.iteFst_iff, implies_true, and_self]

theorem State.mbCfgWrite_only (s : State) (m v : Nat) : Only [.ev, .recd, .host, .mbox, .out] [0x11000203, 0x11000204] s (State.mbCfgWrite s m v) := by
  unfold State.mbCfgWrite
  simp (disch := decide) only [Only.refl_iff, Only.step_iff (State.mbEnable_only _ _ _), Only.step_iff (State.modMb_only _ _ _), Only.ite_iff, Only.iteFst_iff, implies_true, and_self]

theorem State.mbRegWrite_only (s : State) (m off v : Nat) : Only [.ev, .recd, .host, .mbox, .out] [0x11000203, 0x11000204] s (State.mbRegWrite s m off v) := by
  unfold State.mbRegWrite
  repeat' first
    | simp (disch := decide) only [Only.refl_iff, Only.step_iff (State.baseWrite_only _ _ _ _), Only.step_iff (State.mbCfgWrite_only _ _ _), Only.step_iff (State.modMb_only _ _ _)]
    | split

theorem State.ksRegWrite_only (s : State) (off v : Nat) : Only [.time, .ev, .recd, .afe, .dig, .tdc, .trg, .loop, .deck, .seam, .ctx, .fab, .lane, .ddr, .host, .mbox, .core, .mem, .press, .sec, .pwr, .out, .regs] [] s (State.ksRegWrite s off v) := by
  unfold State.ksRegWrite
  repeat' first
    | simp (disch := decide) only [Only.refl_iff, Only.step_iff (State.mb4Go_only _ _), Only.step_iff (State.mb4Write_only _ _ _ _ _), Only.ite_iff, Only.iteFst_iff, implies_true, and_self]
    | split

theorem State.msixTableWrite_only (s : State) (k v : Nat) : Only [.ev, .out] [] s (State.msixTableWrite s k v) := by
  unfold State.msixTableWrite
  repeat' first
    | simp (disch := decide) only [Only.refl_iff, Only.set_ev, Only.step_iff (State.msixFlush_only _ _ _), Only.step_iff (State.msixWrite_only _ _)]
    | split

theorem State.evRegWrite_only (s : State) (off v : Nat) : Only [.ev, .out] [] s (State.evRegWrite s off v) := by
  unfold State.evRegWrite
  simp (disch := decide) only [Only.refl_iff, Only.set_ev, Only.step_iff (State.evMask_only _ _ _), Only.step_iff (State.latchHost_only _ _), Only.ite_iff, Only.iteFst_iff, implies_true, and_self]

theorem State.bar0Write_only (s : State) (off v : Nat) : Only [.time, .ev, .recd, .afe, .dig, .tdc, .trg, .loop, .deck, .seam, .ctx, .fab, .lane, .ddr, .host, .mbox, .core, .mem, .press, .sec, .pwr, .out, .regs] [] s (State.bar0Write s off v) := by
  unfold State.bar0Write
  simp (disch := decide) only [Only.refl_iff, Only.set_host, Only.step_iff (State.evRegWrite_only _ _ _), Only.step_iff (State.ksRegWrite_only _ _ _), Only.step_iff (State.mbRegWrite_only _ _ _ _), Only.step_iff (State.msixTableWrite_only _ _ _), Only.ite_iff, Only.iteFst_iff, implies_true, and_self]

theorem State.bar2Write_only (s : State) (off v : Nat) : Only [.ev, .recd, .ctx, .out] [0x11000203, 0x11000204] s (State.bar2Write s off v) := by
  unfold State.bar2Write
  repeat' first
    | simp (disch := decide) only [Only.refl_iff, Only.step_iff (State.ctxDoorbell_only _ _ _), Only.step_iff (State.ctxReqDoorbell_only _ _ _), Only.step_iff (State.modCtx_only _ _ _), Only.ite_iff, Only.iteFst_iff, implies_true, and_self]
    | split

theorem State.barWrite_only (s : State) (bar off v : Nat) : Only [.time, .ev, .recd, .afe, .dig, .tdc, .trg, .loop, .deck, .seam, .ctx, .fab, .lane, .ddr, .host, .mbox, .core, .mem, .press, .sec, .pwr, .out, .regs] [] s (State.barWrite s bar off v) := by
  unfold State.barWrite
  simp (disch := decide) only [Only.refl_iff, Only.step_iff (State.bar0Write_only _ _ _), Only.step_iff (State.bar2Write_only _ _ _), Only.ite_iff, Only.iteFst_iff, implies_true, and_self]

theorem execRegisterWrite_only (t : Tm) (bar : Fin 2) (offset size : Nat) (value : W64) {s u : State} (hp : s.pwr.por = false) (h : execRegisterWrite t bar offset size value s = .next u) :
    Only [.time, .ev, .recd, .afe, .dig, .tdc, .trg, .loop, .deck, .seam, .ctx, .fab, .lane, .ddr, .host, .mbox, .core, .mem, .press, .sec, .pwr, .out, .regs] [] (s.clock t) u := by
  obtain rfl := live_next hp h
  generalize s.clock t = v
  simp (disch := decide) only [Only.refl_iff, Only.step_iff (State.barWrite_only _ _ _ _), Only.step_iff (State.baseWrite_only _ _ _ _), Only.ite_iff, Only.iteFst_iff, implies_true, and_self]

theorem State.snapRead_only (s : State) (slot off size : Nat) : Only [.host] [] s (State.snapRead s slot off size).1 := by
  unfold State.snapRead
  simp (disch := decide) only [Only.refl_iff, Only.step_iff (State.snapHigh_only _ _ _), Only.step_iff (State.snapLow_only _ _ _), Only.step_iff (State.snapWhole_only _ _ _), Only.ite_iff, Only.iteFst_iff, implies_true, and_self]

theorem State.barRead_only (s : State) (bar off size : Nat) : Only [.host] [] s (State.barRead s bar off size).1 := by
  unfold State.barRead
  repeat' first
    | simp (disch := decide) only [Only.refl_iff, Only.step_iff (State.snapRead_only _ _ _ _), Only.ite_iff, Only.iteFst_iff, implies_true, and_self]
    | split

theorem State.barAnswer_only (s : State) (bar off size : Nat) : Only [.host, .out] [] s (State.barAnswer s bar off size) := by
  unfold State.barAnswer
  simp (disch := decide) only [Only.refl_iff, Only.step_iff (State.barRead_only _ _ _ _), Only.step_iff (State.busAnswer_only _ _)]

theorem execSnapLowRead_only (t : Tm) (slot : Fin 4) (reg : Fin 7) {s u : State} (hp : s.pwr.por = false) (h : execSnapLowRead t slot reg s = .next u) :
    Only [.host, .out] [] (s.clock t) u := by
  obtain rfl := live_next hp h
  generalize s.clock t = v
  simp (disch := decide) only [Only.refl_iff, Only.step_iff (State.barAnswer_only _ _ _ _)]

theorem execSnapHighRead_only (t : Tm) (slot : Fin 4) (reg : Fin 7) {s u : State} (hp : s.pwr.por = false) (h : execSnapHighRead t slot reg s = .next u) :
    Only [.host, .out] [] (s.clock t) u := by
  obtain rfl := live_next hp h
  generalize s.clock t = v
  simp (disch := decide) only [Only.refl_iff, Only.step_iff (State.barAnswer_only _ _ _ _)]

theorem execSnapWholeRead_only (t : Tm) (slot : Fin 4) (reg : Fin 7) {s u : State} (hp : s.pwr.por = false) (h : execSnapWholeRead t slot reg s = .next u) :
    Only [.host, .out] [] (s.clock t) u := by
  obtain rfl := live_next hp h
  generalize s.clock t = v
  simp (disch := decide) only [Only.refl_iff, Only.step_iff (State.barAnswer_only _ _ _ _)]

theorem State.scanDrive_only (s : State) : Only [.out] [] s (State.scanDrive s) := by
  unfold State.scanDrive
  simp (disch := decide) only [Only.refl_iff, Only.set_out]

theorem execExtest_only (t : Tm) {s u : State} (hp : s.pwr.por = false) (h : execExtest t s = .next u) :
    Only [.afe, .dig, .pwr, .out] [0x01000004, 0x01000008, 0x05000116] (s.clock t) u := by
  obtain rfl := live_next hp h
  generalize s.clock t = v
  simp (disch := decide) only [Only.refl_iff, Only.step_iff (State.scanDrive_only _), Only.step_iff (State.tapSet_only _ _)]

theorem execIdcode_only (t : Tm) {s u : State} (hp : s.pwr.por = false) (h : execIdcode t s = .next u) :
    Only [.afe, .dig, .pwr, .out] [0x01000004, 0x01000008, 0x05000116] (s.clock t) u := by
  obtain rfl := live_next hp h
  generalize s.clock t = v
  simp (disch := decide) only [Only.refl_iff, Only.step_iff (State.emit_only _ _), Only.step_iff (State.tapSet_only _ _)]

theorem execSamplePreload_only (t : Tm) (cells : List Bool) {s u : State} (hp : s.pwr.por = false) (h : execSamplePreload t cells s = .next u) :
    Only [.afe, .dig, .pwr] [0x01000004, 0x01000008, 0x05000116] (s.clock t) u := by
  obtain rfl := live_next hp h
  generalize s.clock t = v
  simp (disch := decide) only [Only.refl_iff, Only.set_pwr, Only.step_iff (State.tapSet_only _ _)]

theorem execExtestPulse_only (t : Tm) {s u : State} (hp : s.pwr.por = false) (h : execExtestPulse t s = .next u) :
    Only [.afe, .dig, .pwr, .out] [0x01000004, 0x01000008, 0x05000116] (s.clock t) u := by
  obtain rfl := live_next hp h
  generalize s.clock t = v
  simp (disch := decide) only [Only.refl_iff, Only.step_iff (State.scanDrive_only _), Only.step_iff (State.tapSet_only _ _)]

theorem execExtestTrain_only (t : Tm) {s u : State} (hp : s.pwr.por = false) (h : execExtestTrain t s = .next u) :
    Only [.afe, .dig, .pwr, .out] [0x01000004, 0x01000008, 0x05000116] (s.clock t) u := by
  obtain rfl := live_next hp h
  generalize s.clock t = v
  simp (disch := decide) only [Only.refl_iff, Only.step_iff (State.scanDrive_only _), Only.step_iff (State.tapSet_only _ _)]

theorem execClamp_only (t : Tm) {s u : State} (hp : s.pwr.por = false) (h : execClamp t s = .next u) :
    Only [.afe, .dig, .pwr, .out] [0x01000004, 0x01000008, 0x05000116] (s.clock t) u := by
  obtain rfl := live_next hp h
  generalize s.clock t = v
  simp (disch := decide) only [Only.refl_iff, Only.step_iff (State.emit_only _ _), Only.step_iff (State.scanDrive_only _), Only.step_iff (State.tapSet_only _ _)]

theorem execHighz_only (t : Tm) {s u : State} (hp : s.pwr.por = false) (h : execHighz t s = .next u) :
    Only [.afe, .dig, .pwr, .out] [0x01000004, 0x01000008, 0x05000116] (s.clock t) u := by
  obtain rfl := live_next hp h
  generalize s.clock t = v
  simp (disch := decide) only [Only.refl_iff, Only.set_out, Only.step_iff (State.emit_only _ _), Only.step_iff (State.tapSet_only _ _)]

theorem execBypass_only (t : Tm) {s u : State} (hp : s.pwr.por = false) (h : execBypass t s = .next u) :
    Only [.afe, .dig, .pwr, .out] [0x01000004, 0x01000008, 0x05000116] (s.clock t) u := by
  obtain rfl := live_next hp h
  generalize s.clock t = v
  simp (disch := decide) only [Only.refl_iff, Only.step_iff (State.emit_only _ _), Only.step_iff (State.tapSet_only _ _)]

theorem execTrstNAssert_only (t : Tm) {s u : State} (hp : s.pwr.por = false) (h : execTrstNAssert t s = .next u) :
    Only [.afe, .dig, .mbox, .pwr] [0x01000004, 0x01000008, 0x05000116] (s.clock t) u := by
  obtain rfl := live_next hp h
  generalize s.clock t = v
  simp (disch := decide) only [Only.refl_iff, Only.set_mbox, Only.step_iff (State.muteWaits_only _ _), Only.step_iff (State.tapSet_only _ _)]

end Sys2Proof.Machine
end

