-- ==== Sys2Proof/Laws/OnlyRebase.lean ====
section
/-! SUPPORT. What the operations of Machine/Rebase.lean leave alone: one lemma for each. -/

namespace Sys2Proof.Machine

theorem State.rebaseTiles_only (s : State) (j : Int) : Only [.afe, .dig, .loop] [] s (State.rebaseTiles s j) := by
  unfold State.rebaseTiles
  simp (disch := first | decide | (intro _ _; simp (disch := decide) only [Only.refl_iff, Only.set_dig_loop, Only.each_iff, Only.step_iff (State.modFe_only _ _ _), Only.step_iff (State.modHk_only _ _ _), Only.step_iff (State.modLp_only _ _ _), Only.step_iff (State.modRot_only _ _ _)])) only [Only.refl_iff, Only.set_dig_loop, Only.each_iff, Only.step_iff (State.modFe_only _ _ _), Only.step_iff (State.modHk_only _ _ _), Only.step_iff (State.modLp_only _ _ _), Only.step_iff (State.modRot_only _ _ _)]

theorem State.rebaseTdc_only (s : State) (j : Int) : Only [.tdc] [] s (State.rebaseTdc s j) := by
  unfold State.rebaseTdc
  simp (disch := first | decide | (intro _ _; simp (disch := decide) only [Only.refl_iff, Only.each_iff, Only.step_iff (State.modGauge_only _ _ _), Only.step_iff (State.modPair_only _ _ _), Only.step_iff (State.modTd_only _ _ _)])) only [Only.refl_iff, Only.each_iff, Only.step_iff (State.modGauge_only _ _ _), Only.step_iff (State.modPair_only _ _ _), Only.step_iff (State.modTd_only _ _ _)]

theorem State.rebaseStreams_only (s : State) (j : Int) : Only [.seam, .ctx, .press] [] s (State.rebaseStreams s j) := by
  unfold State.rebaseStreams
  simp (disch := first | decide | (intro _ _; simp (disch := decide) only [Only.refl_iff, Only.set_seam_ctx_press, Only.each_iff, Only.step_iff (State.modSi_only _ _ _)])) only [Only.refl_iff, Only.set_seam_ctx_press, Only.each_iff, Only.step_iff (State.modSi_only _ _ _)]

theorem State.rebasePorts_only (s : State) (j : Int) : Only [.fab, .lane] [] s (State.rebasePorts s j) := by
  unfold State.rebasePorts
  simp (disch := first | decide | (intro _ _; simp (disch := decide) only [Only.refl_iff, Only.set_fab, Only.each_iff, Only.step_iff (State.modFp_only _ _ _), Only.step_iff (State.modLane_only _ _ _), Only.step_iff (State.modPortLane_only _ _ _)])) only [Only.refl_iff, Only.set_fab, Only.each_iff, Only.step_iff (State.modFp_only _ _ _), Only.step_iff (State.modLane_only _ _ _), Only.step_iff (State.modPortLane_only _ _ _)]

theorem State.rebaseCore_only (s : State) (j : Int) : Only [.time, .recd, .ddr, .mbox, .core, .mem, .sec] [] s (State.rebaseCore s j) := by
  unfold State.rebaseCore
  simp (disch := first | decide | (intro _ _; simp (disch := decide) only [Only.refl_iff, Only.set_time_recd_ddr_mbox_core_mem_sec, Only.each_iff, Only.step_iff (State.mastered_only _), Only.step_iff (State.modDc_only _ _ _), Only.step_iff (State.modPortTime_only _ _ _)])) only [Only.refl_iff, Only.set_time_recd_ddr_mbox_core_mem_sec, Only.each_iff, Only.step_iff (State.mastered_only _), Only.step_iff (State.modDc_only _ _ _), Only.step_iff (State.modPortTime_only _ _ _)]

theorem State.rebase_only (s : State) (j : Int) : Only [.time, .recd, .afe, .dig, .tdc, .trg, .loop, .seam, .ctx, .fab, .lane, .ddr, .mbox, .core, .mem, .press, .sec] [] s (State.rebase s j) := by
  unfold State.rebase
  simp (disch := decide) only [Only.refl_iff, Only.set_trg, Only.step_iff (State.rebaseCore_only _ _), Only.step_iff (State.rebasePorts_only _ _), Only.step_iff (State.rebaseStreams_only _ _), Only.step_iff (State.rebaseTdc_only _ _), Only.step_iff (State.rebaseTiles_only _ _)]

end Sys2Proof.Machine
end

