-- ==== Sys2Proof/Laws/OnlySpan.lean ====
section
/-! SUPPORT. What the operations of Machine/Span.lean leave alone: one lemma for each. -/

namespace Sys2Proof.Machine

theorem State.renameWaits_only (s : State) (b next : Tm) (ids : List Nat) : Only [.mbox] [] s (State.renameWaits s b next ids) := by
  unfold State.renameWaits
  simp (disch := decide) only [Only.refl_iff, Only.set_mbox, Only.ite_iff, Only.iteFst_iff, implies_true, and_self]

theorem State.swap_only (s : State) (b next : Tm) (badWords : List Nat) : Only [.time, .ev, .recd, .mbox, .mem, .out, .regs] [] s (State.swap s b next badWords).1 := by
  unfold State.swap
  repeat' first
    | simp (disch := first | decide | (intro _ _; repeat' first | simp (disch := decide) only [Only.refl_iff, Only.set_time_mem_regs, Only.each_iff, Only.step_iff (State.memUe_only _ _ _), Only.put_iff, Only.step_iff (State.renameWaits_only _ _ _ _), Only.foldl_iff, Only.ite_iff, Only.iteFst_iff, implies_true, and_self] | split)) only [Only.refl_iff, Only.set_time_mem_regs, Only.each_iff, Only.step_iff (State.memUe_only _ _ _), Only.put_iff, Only.step_iff (State.renameWaits_only _ _ _ _), Only.foldl_iff, Only.ite_iff, Only.iteFst_iff, implies_true, and_self]
    | split

theorem State.swapThreshold_only (s : State) (old : Tbl W64) (c : Nat) : Only [.afe] [] s (State.swapThreshold s old c) := by
  unfold State.swapThreshold
  repeat' first
    | simp (disch := decide) only [Only.refl_iff, Only.step_iff (State.modFeCh_only _ _ _), Only.ite_iff, Only.iteFst_iff, implies_true, and_self]
    | split

theorem State.swapCondition_only (s old : State) (b : Tm) (c : Nat) : Only [.tdc] [] s (State.swapCondition s old b c) := by
  unfold State.swapCondition
  simp (disch := decide) only [Only.refl_iff, Only.step_iff (State.modTd_only _ _ _)]

theorem State.swapTout_only (s old : State) (b : Tm) (programmed : List Nat) (x : Fin 8) : Only [.time, .ev, .recd, .out] [0x0C000106, 0x11000203, 0x11000204] s (State.swapTout s old b programmed x) := by
  unfold State.swapTout
  simp (disch := decide) only [Only.refl_iff, Only.step_iff (State.drive_only _ _ _), Only.step_iff (State.toutProgram_only _ _ _), Only.ite_iff, Only.iteFst_iff, implies_true, and_self]

theorem State.swapTrigOut_only (s old : State) (x : Fin 2) : Only [.trg, .out] [] s (State.swapTrigOut s old x) := by
  unfold State.swapTrigOut
  simp (disch := decide) only [Only.refl_iff, Only.step_iff (State.drive_only _ _ _), Only.step_iff (State.setPulses_only _ _ _), Only.ite_iff, Only.iteFst_iff, implies_true, and_self]

theorem State.swapGauge_only (s : State) (b : Tm) (g : Nat) : Only [.tdc] [0x03000004] s (State.swapGauge s b g) := by
  unfold State.swapGauge
  repeat' first
    | simp (disch := decide) only [Only.refl_iff, Only.step_iff (State.gaugeArm_only _ _ _), Only.ite_iff, Only.iteFst_iff, implies_true, and_self]
    | split

theorem State.swapFront_only (s old : State) (taken : List Pend) : Only [.afe, .dig, .out] [0x01000004, 0x01000008, 0x05000116] s (State.swapFront s old taken) := by
  unfold State.swapFront
  simp (disch := first | decide | (intro _ _; simp (disch := decide) only [Only.refl_iff, Only.step_iff (State.applyTrims_only _ _), Only.step_iff (State.blankAll_only _), Only.each_iff, State.eachTile_iff, Only.step_iff (State.hvDrive_only _ _ _), Only.step_iff (State.swapThreshold_only _ _ _), Only.ite_iff, Only.iteFst_iff, implies_true, and_self])) only [Only.refl_iff, Only.step_iff (State.applyTrims_only _ _), Only.step_iff (State.blankAll_only _), Only.each_iff, State.eachTile_iff, Only.step_iff (State.hvDrive_only _ _ _), Only.step_iff (State.swapThreshold_only _ _ _), Only.ite_iff, Only.iteFst_iff, implies_true, and_self]

theorem State.swapPps_only (s : State) : Only [.time, .out] [] s (State.swapPps s) := by
  unfold State.swapPps
  simp (disch := decide) only [Only.refl_iff, Only.set_time, Only.step_iff (State.drive_only _ _ _), Only.ite_iff, Only.iteFst_iff, implies_true, and_self]

theorem State.swapTiming_only (s old : State) (b : Tm) (taken : List Pend) : Only [.time, .ev, .recd, .tdc, .trg, .out] [0x03000004, 0x0400010C, 0x0C000106, 0x11000203, 0x11000204] s (State.swapTiming s old b taken) := by
  unfold State.swapTiming
  simp (disch := first | decide | (intro _ _; simp (disch := decide) only [Only.refl_iff, Only.each_iff, Only.step_iff (State.gaugesResume_only _ _), Only.step_iff (State.modTd_only _ _ _), Only.put_iff, Only.step_iff (State.swapCondition_only _ _ _ _), Only.step_iff (State.swapGauge_only _ _ _), Only.step_iff (State.swapPps_only _), Only.step_iff (State.swapTout_only _ _ _ _ _), Only.step_iff (State.swapTrigOut_only _ _ _), Only.dite_iff, implies_true, forall_const, Only.ite_iff, Only.iteFst_iff, and_self])) only [Only.refl_iff, Only.each_iff, Only.step_iff (State.gaugesResume_only _ _), Only.step_iff (State.modTd_only _ _ _), Only.put_iff, Only.step_iff (State.swapCondition_only _ _ _ _), Only.step_iff (State.swapGauge_only _ _ _), Only.step_iff (State.swapPps_only _), Only.step_iff (State.swapTout_only _ _ _ _ _), Only.step_iff (State.swapTrigOut_only _ _ _), Only.dite_iff, implies_true, forall_const, Only.ite_iff, Only.iteFst_iff, and_self]

theorem State.swapAreas_only (s old : State) (taken : List Pend) (at_ : Stamp) : Only [.ev, .recd, .deck, .ctx, .ddr, .out] [0x06000101, 0x06000102, 0x06000203, 0x06000206, 0x06000207, 0x06000208, 0x06000209, 0x0600020B, 0x0600020D, 0x11000203, 0x11000204] s (State.swapAreas s old taken at_) := by
  unfold State.swapAreas
  simp (disch := decide) only [Only.refl_iff, Only.set_ddr, Only.step_iff (State.deckEmpty_only _ _), Only.ite_iff, Only.iteFst_iff, implies_true, and_self]

theorem State.spanLength_only (s : State) (b : Tm) : Only [.time, .ev, .recd, .out] [0x11000203, 0x11000204] s (State.spanLength s b) := by
  unfold State.spanLength
  simp (disch := decide) only [Only.refl_iff, Only.set_time, Only.step_iff (State.raise_only _ _), Only.ite_iff, Only.iteFst_iff, implies_true, and_self]

theorem State.secondEnds_only (s : State) (b : Tm) : Only [.tdc, .deck] [0x03000006, 0x0600020A] s (State.secondEnds s b) := by
  unfold State.secondEnds
  simp (disch := first | decide | (intro _ _; simp (disch := decide) only [Only.refl_iff, Only.set_deck, Only.each_iff, Only.step_iff (State.modTd_only _ _ _), Only.put_iff, Only.ite_iff, Only.iteFst_iff, implies_true, and_self])) only [Only.refl_iff, Only.set_deck, Only.each_iff, Only.step_iff (State.modTd_only _ _ _), Only.put_iff, Only.ite_iff, Only.iteFst_iff, implies_true, and_self]

theorem State.spanNotes_only (s : State) : Only [.seam, .ddr] [] s (State.spanNotes s) := by
  unfold State.spanNotes
  simp (disch := first | decide | (intro _ _; simp (disch := decide) only [Only.refl_iff, Only.each_iff, Only.step_iff (State.modDc_only _ _ _), Only.step_iff (State.modSi_only _ _ _)])) only [Only.refl_iff, Only.each_iff, Only.step_iff (State.modDc_only _ _ _), Only.step_iff (State.modSi_only _ _ _)]

theorem State.groupLeave_only (s : State) (c g : Nat) : Only [.afe] [0x04000101, 0x04000102, 0x04000103, 0x04000104, 0x04000105, 0x04000106, 0x04000107, 0x04000108] s (State.groupLeave s c g) := by
  have h : ∀ w < 8, P.GROUP_MASK_MASK.pid + w ∈ [0x04000101, 0x04000102, 0x04000103, 0x04000104, 0x04000105, 0x04000106, 0x04000107, 0x04000108] := by
    decide
  have hw := Nat.mod_lt (c / 32) (show 0 < 8 by decide)
  have hf : P.GROUP_MASK_MASK.pid / 4096 % 4096 = 0 ∧ P.GROUP_MASK_MASK.pid % 4096 + c / 32 % 8 < 4096 :=
    ⟨by decide, by
      have : P.GROUP_MASK_MASK.pid % 4096 = 257 := by decide
      omega⟩
  unfold State.groupLeave
  split
  · exact (Only.set_afe (by decide)).2 ((Only.put_iff hf (.inr (h _ hw))).2 Only.refl)
  · exact Only.refl

theorem State.groupJoin_only (s : State) (c g : Nat) : Only [] [0x04000101, 0x04000102, 0x04000103, 0x04000104, 0x04000105, 0x04000106, 0x04000107, 0x04000108] s (State.groupJoin s c g) := by
  have h : ∀ w < 8, P.GROUP_MASK_MASK.pid + w ∈ [0x04000101, 0x04000102, 0x04000103, 0x04000104, 0x04000105, 0x04000106, 0x04000107, 0x04000108] := by
    decide
  have hw := Nat.mod_lt (c / 32) (show 0 < 8 by decide)
  have hf : P.GROUP_MASK_MASK.pid / 4096 % 4096 = 0 ∧ P.GROUP_MASK_MASK.pid % 4096 + c / 32 % 8 < 4096 :=
    ⟨by decide, by
      have : P.GROUP_MASK_MASK.pid % 4096 = 257 := by decide
      omega⟩
  unfold State.groupJoin
  split
  · exact Only.refl
  · exact (Only.put_iff hf (.inr (h _ hw))).2 Only.refl

theorem State.brokenOut_only (s : State) : Only [.afe] [] s (State.brokenOut s) := by
  unfold State.brokenOut
  simp (disch := decide) only [Only.refl_iff, Only.set_afe]

theorem State.brokenDone_only (s : State) : Only [.afe] [] s (State.brokenDone s) := by
  unfold State.brokenDone
  simp (disch := decide) only [Only.refl_iff, Only.set_afe]

theorem State.brokenMasks_only (s0 : State) : Only [.afe] [0x04000101, 0x04000102, 0x04000103, 0x04000104, 0x04000105, 0x04000106, 0x04000107, 0x04000108, 0x0400010C] s0 (State.brokenMasks s0) := by
  unfold State.brokenMasks
  simp (disch := first | decide | (intro _ _; simp (disch := first | decide | (intro _ _; simp (disch := decide) only [Only.refl_iff, Only.step_iff (State.brokenDone_only _), Only.step_iff (State.brokenOut_only _), Only.each_iff, Only.step_iff (State.groupJoin_only _ _ _), Only.step_iff (State.groupLeave_only _ _ _), Only.put_iff, Only.ite_iff, Only.iteFst_iff, implies_true, and_self])) only [Only.refl_iff, Only.step_iff (State.brokenDone_only _), Only.step_iff (State.brokenOut_only _), Only.each_iff, Only.step_iff (State.groupJoin_only _ _ _), Only.step_iff (State.groupLeave_only _ _ _), Only.put_iff, Only.ite_iff, Only.iteFst_iff, implies_true, and_self])) only [Only.refl_iff, Only.step_iff (State.brokenDone_only _), Only.step_iff (State.brokenOut_only _), Only.each_iff, Only.step_iff (State.groupJoin_only _ _ _), Only.step_iff (State.groupLeave_only _ _ _), Only.put_iff, Only.ite_iff, Only.iteFst_iff, implies_true, and_self]

theorem State.acquisition_only (s : State) : Only [.ev, .recd, .pwr, .out] [0x0F000401, 0x0F000402, 0x11000203, 0x11000204] s (State.acquisition s) := by
  unfold State.acquisition
  simp (disch := decide) only [Only.refl_iff, Only.set_pwr, Only.put_iff, Only.putB_iff, Only.step_iff (State.raise_only _ _), Only.step_iff (State.raiseIf_only _ _ _), Only.ite_iff, Only.iteFst_iff, implies_true, and_self]

theorem State.configDone_only (s : State) (b : Tm) : Only [.pwr] [] s (State.configDone s b) := by
  unfold State.configDone
  repeat' first
    | simp (disch := decide) only [Only.refl_iff, Only.set_pwr, Only.ite_iff, Only.iteFst_iff, implies_true, and_self]
    | split

theorem State.writerBoundary_only (s : State) (at_ : Stamp) : Only [.deck] [] s (State.writerBoundary s at_) := by
  unfold State.writerBoundary
  repeat' first
    | simp (disch := decide) only [Only.refl_iff, Only.set_deck, Only.ite_iff, Only.iteFst_iff, implies_true, and_self]
    | split

theorem State.stepWaits_only (s : State) (b : Tm) : Only [.time, .ev, .recd, .afe, .dig, .host, .mbox, .core, .out] [0x01000008, 0x05000116, 0x0C000202, 0x0C000205, 0x0C00030E, 0x0F000001, 0x0F000002, 0x0F000003, 0x11000203, 0x11000204] s (State.stepWaits s b) := by
  unfold State.stepWaits
  simp (disch := first | decide | (intro _ _; simp (disch := decide) only [Only.refl_iff, Only.set_time_mbox_core, State.act_iff, Only.step_iff (State.commit_only _ _), Only.each_iff, Only.ite_iff, Only.iteFst_iff, implies_true, and_self])) only [Only.refl_iff, Only.set_time_mbox_core, State.act_iff, Only.step_iff (State.commit_only _ _), Only.each_iff, Only.ite_iff, Only.iteFst_iff, implies_true, and_self]

theorem State.stepEpoch_only (s : State) (old new : Stamp) : Only [.ev, .recd, .tdc, .deck, .ctx, .out] [0x03000004, 0x03000306, 0x11000203, 0x11000204] s (State.stepEpoch s old new) := by
  unfold State.stepEpoch
  simp (disch := decide) only [Only.refl_iff, Only.set_deck, Only.step_iff (State.epochCut_only _ _ _), Only.step_iff (State.gaugesCut_only _)]

theorem State.stepTake_only (s : State) (b : Tm) (p : PendStep) : Only [.time, .ev, .recd, .afe, .dig, .tdc, .trg, .loop, .deck, .seam, .ctx, .fab, .lane, .ddr, .host, .mbox, .core, .mem, .press, .sec, .pwr, .out] [0x01000008, 0x03000004, 0x03000306, 0x05000116, 0x0C000106, 0x0C000202, 0x0C000205, 0x0C000306, 0x0C00030A, 0x0C00030E, 0x0F000001, 0x0F000002, 0x0F000003, 0x11000203, 0x11000204] s (State.stepTake s b p) := by
  unfold State.stepTake
  simp (disch := decide) only [Only.refl_iff, Only.set_time, Only.step_iff (State.blocksOpen_only _ _), Only.step_iff (State.blocksStep_only _ _ _), Only.step_iff (State.clock_only _ _), Only.putB_iff, Only.step_iff (State.raise_only _ _), Only.step_iff (State.rebase_only _ _), Only.step_iff (State.stepActs_only _ _ _ _), Only.step_iff (State.stepEpoch_only _ _ _), Only.step_iff (State.stepSet_only _ _ _), Only.step_iff (State.stepWaits_only _ _), Only.ite_iff, Only.iteFst_iff, implies_true, and_self]

theorem State.boundaryStep_only (s : State) (b : Tm) : Only [.time, .ev, .recd, .afe, .dig, .tdc, .trg, .loop, .deck, .seam, .ctx, .fab, .lane, .ddr, .host, .mbox, .core, .mem, .press, .sec, .pwr, .out] [0x01000008, 0x03000004, 0x03000306, 0x05000116, 0x0C000106, 0x0C000202, 0x0C000205, 0x0C000306, 0x0C00030A, 0x0C00030E, 0x0F000001, 0x0F000002, 0x0F000003, 0x11000203, 0x11000204] s (State.boundaryStep s b) := by
  unfold State.boundaryStep
  repeat' first
    | simp (disch := decide) only [Only.refl_iff, Only.step_iff (State.stepTake_only _ _ _)]
    | split

theorem State.anchor_only (s : State) (b : Tm) : Only [.time] [] s (State.anchor s b) := by
  unfold State.anchor
  simp (disch := decide) only [Only.refl_iff, Only.set_time]

theorem State.swapAll_only (s : State) (b : Tm) (badWords : List Nat) : Only [.time, .ev, .recd, .afe, .dig, .tdc, .trg, .deck, .ctx, .fab, .lane, .ddr, .mbox, .core, .mem, .out, .free, .regs] [] s (State.swapAll s b badWords) := by
  unfold State.swapAll
  simp (disch := decide) only [Only.refl_iff, Only.set_dig, Only.step_iff (State.laneEnables_only _), Only.step_iff (State.pressShow_only _), Only.step_iff (State.spanLength_only _ _), Only.step_iff (State.swap_only _ _ _ _), Only.step_iff (State.swapAreas_only _ _ _ _), Only.step_iff (State.swapFront_only _ _ _), Only.step_iff (State.swapTiming_only _ _ _ _)]

theorem State.partsBoundary_only (s : State) : Only [.time, .ev, .recd, .afe, .dig, .tdc, .deck, .seam, .ctx, .fab, .lane, .ddr, .host, .mbox, .core, .out, .free] [0x02000001, 0x02000102, 0x02000103, 0x03000004, 0x04000101, 0x04000102, 0x04000103, 0x04000104, 0x04000105, 0x04000106, 0x04000107, 0x04000108, 0x0400010C, 0x04000303, 0x06000101, 0x06000102, 0x06000203, 0x06000204, 0x06000205, 0x06000206, 0x06000207, 0x06000208, 0x06000209, 0x0600020B, 0x0600020D, 0x07000001, 0x07000002, 0x07000003, 0x07000004, 0x07000005, 0x07000006, 0x07000007, 0x07000201, 0x07000205, 0x07000206, 0x07000207, 0x07000208, 0x08000015, 0x08000019, 0x08000101, 0x08000102, 0x08000201, 0x08000202, 0x08000204, 0x0A000002, 0x0A000003, 0x0A000006, 0x0A000008, 0x0A000101, 0x0A000102, 0x0A000201, 0x0A000202, 0x0A000203, 0x0A000205, 0x0A000208, 0x0B000003, 0x0D000209, 0x0F000102, 0x0F000103, 0x11000203, 0x11000204, 0x11000208] s (State.partsBoundary s) := by
  unfold State.partsBoundary
  simp (disch := first | decide | (intro _ _; simp (disch := decide) only [Only.refl_iff, Only.set_core, Only.step_iff (State.brokenMasks_only _), Only.step_iff (State.ctxBoundary_only _), Only.step_iff (State.ddrReturn_only _), Only.each_iff, Only.step_iff (State.hopsAdopt_only _), Only.step_iff (State.maintGo_only _ _), Only.step_iff (State.rawPlaceAll_only _), Only.step_iff (State.rejoinArm_only _), Only.step_iff (State.rotBoundary_only _ _), Only.step_iff (State.routeApply_only _), Only.step_iff (State.seamBoundary_only _), Only.step_iff (State.transfersAdopt_only _), Only.foldl_iff])) only [Only.refl_iff, Only.set_core, Only.step_iff (State.brokenMasks_only _), Only.step_iff (State.ctxBoundary_only _), Only.step_iff (State.ddrReturn_only _), Only.each_iff, Only.step_iff (State.hopsAdopt_only _), Only.step_iff (State.maintGo_only _ _), Only.step_iff (State.rawPlaceAll_only _), Only.step_iff (State.rejoinArm_only _), Only.step_iff (State.rotBoundary_only _ _), Only.step_iff (State.routeApply_only _), Only.step_iff (State.seamBoundary_only _), Only.step_iff (State.transfersAdopt_only _), Only.foldl_iff]

theorem State.coreBoundary_only (s : State) : Only [.time, .ev, .recd, .dig, .tdc, .trg, .loop, .deck, .seam, .ctx, .fab, .host, .mbox, .core, .press, .out] [0x04000308, 0x05000113, 0x06000101, 0x06000102, 0x06000203, 0x07000002, 0x07000003, 0x07000004, 0x07000005, 0x07000006, 0x07000205, 0x07000206, 0x07000207, 0x07000208, 0x08000015, 0x08000201, 0x08000202, 0x09000001, 0x09000202, 0x0A000006, 0x0A000008, 0x0F000001, 0x0F000006, 0x0F000102, 0x11000203, 0x11000204] s (State.coreBoundary s) := by
  unfold State.coreBoundary
  simp (disch := decide) only [Only.refl_iff, Only.set_core, Only.step_iff (State.revoke_only _), Only.ite_iff, Only.iteFst_iff, implies_true, and_self]

theorem execSpanBoundary_only (t : Tm) (badWords : List Nat) {s u : State} (hp : s.pwr.por = false) (h : execSpanBoundary t badWords s = .next u) :
    Only [.time, .ev, .recd, .afe, .dig, .tdc, .trg, .loop, .deck, .seam, .ctx, .fab, .lane, .ddr, .host, .mbox, .core, .mem, .press, .sec, .pwr, .out, .free, .regs] [] (s.clock t) u := by
  obtain rfl := live_next hp h
  generalize s.clock t = v
  simp (disch := decide) only [Only.refl_iff, Only.step_iff (State.acquisition_only _), Only.step_iff (State.anchor_only _ _), Only.step_iff (State.boundaryStep_only _ _), Only.step_iff (State.configDone_only _ _), Only.step_iff (State.coreBoundary_only _), Only.step_iff (State.deckRates_only _), Only.step_iff (State.partsBoundary_only _), Only.step_iff (State.secondEnds_only _ _), Only.step_iff (State.spanNotes_only _), Only.step_iff (State.swapAll_only _ _ _), Only.step_iff (State.writerBoundary_only _ _), Only.ite_iff, Only.iteFst_iff, implies_true, and_self]

end Sys2Proof.Machine
end

