-- ==== Sys2Proof/WellFormed.lean ====
section
/-! DEFINITION. Well-formed commands: what a command carries fits the fields and lengths the spec gives it. -/

namespace Sys2Proof

/-- A mailbox command fits the header of R379 and carries at most 4,064 payload bytes. -/
def Cmd.wf (c : Cmd) : Bool :=
  decide (c.opcode < 65536) && decide (c.length ≤ 4064) && decide (c.payload.length = c.length) && decide (c.seq < 2 ^ 32)
    && decide (c.flags < 65536) && decide (c.context < 65536) && decide (c.target < 65536) && decide (c.timeoutMs < 65536)
    && decide (c.respAddr < 2 ^ 64) && decide (c.respMax < 2 ^ 32)

/-- A VC0 frame arrives as four parts of six bytes (R255). -/
def Vc0Parts.wf (p : Vc0Parts) : Bool := decide (p.tags.length = 4) && decide (p.bytes.length = 24)

/-- A data frame fits the SOF fields of R256 and carries 1 to 32 words. -/
def Frame.wf (f : Frame) : Bool :=
  decide (f.vc < 4) && decide (f.dest < 65536) && decide (f.src < 65536) && decide (f.seq < 256) && decide (f.seqRep < 256)
    && decide (f.kind < 16) && decide (f.stream < 8) && decide (1 ≤ f.payload.length) && decide (f.payload.length ≤ 32)

/-- A record fits the header of R14: whole words, at most 65,535 of them with the header. -/
def Rec.wf (r : Rec) : Bool :=
  decide (r.type < 256) && decide (r.flags < 256) && decide (r.origin < 65536) && decide (r.epoch < 65536)
    && decide (r.body.length % 8 = 0)

/-- A probe reply names an address of 16 bits and the device's four ports (R268). -/
def ProbeReply.wf (r : ProbeReply) : Bool := decide (r.addr < 65536) && decide (r.ports.length = 4)

/-- A route install fits the fields of R270. -/
def Install.wf (i : Install) : Bool :=
  decide (i.addr < 65536) && decide (i.upPort < 8) && decide (i.seamUp < 8)
    && (i.regions.all fun e => decide (e.1 < 256)) && i.members.all fun e => decide (e.1 < 256)

/-- A time message names a domain of 8 bits, a sequence and an epoch of 16 (R311, R312). -/
def TimeMsg.wf (m : TimeMsg) : Bool := decide (m.domain < 256) && decide (m.port < 65536) && decide (m.seq < 65536) && decide (m.epoch < 65536)

/-- A CREDIT block fits the fields of R258. -/
def Credit.wf (c : Credit) : Bool := decide (c.vc < 4) && decide (c.count < 4096) && decide (c.ack < 256)

/-- A mailbox message names a device of 16 bits, and a forwarded command is well formed (R390). -/
def MbFrame.wf : MbFrame → Bool
  | .request origin _ cmd => decide (origin < 65536) && cmd.wf
  | .reply _ _ _ _ _ response => decide (response.length ≤ 4064)

/-- A module has a capacity and 1 to 8 ranks (R335). -/
def Spd.wf (d : Spd) : Bool := decide (0 < d.gib) && decide (1 ≤ d.ranks) && decide (d.ranks ≤ 8)

/-- Each field of a signature block fits its place (R463). -/
def SigBlock.wf (b : SigBlock) : Bool :=
  decide (b.vEcdsa.length ≤ 96) && decide (b.vLms.length ≤ 1772) && decide (b.oEcdsaPub.length ≤ 96) && decide (b.oEcdsa.length ≤ 96)
    && decide (b.oLmsPub.length ≤ 56) && decide (b.oLms.length ≤ 1772)

/-- An image has a header of at most 256 bytes and digests of at most 48 and 32 (R462 to R464). -/
def Image.wf (v : Image) : Bool :=
  decide (v.header.length ≤ 256) && v.sigs.wf && decide (v.crypto.body.length ≤ 48) && decide (v.crypto.ecdsaDig.length ≤ 48)
    && decide (v.crypto.lmsDig.length ≤ 32)

/-- A command is well formed. -/
def Instr.wf : Instr → Bool
  | .leadingEdge _ _ => true
  | .trailingEdge _ _ => true
  | .totSaturate _ _ => true
  | .interpolatorFree _ _ _ => true
  | .hitComplete _ _ _ => true
  | .blockIntervalStart _ => true
  | .hitBlockEmit _ _ => true
  | .hkPassStart _ _ => true
  | .hkEntryStart _ _ => true
  | .hkConversionComplete _ _ _ _ _ => true
  | .hkUrgentRequest _ _ _ _ _ => true
  | .impedanceSlotStart _ _ => true
  | .impedanceVisitResult _ _ _ _ _ _ => true
  | .settleWindowExpire _ _ => true
  | .blankPinEdge _ _ _ => true
  | .blankGuardExpire _ _ => true
  | .conversionResume _ _ => true
  | .blankMaxAbandon _ _ => true
  | .tileCurrentCross _ _ _ => true
  | .glitchFilterExpire _ _ => true
  | .tripRampDone _ _ => true
  | .tripClear _ _ => true
  | .tripLimitWrite _ _ _ => true
  | .channelRestore _ _ => true
  | .rotationStart _ _ => true
  | .sliceMatchComplete _ _ _ _ => true
  | .sliceCalibrationComplete _ _ _ _ _ _ _ => true
  | .tdcCalVisitStart _ _ => true
  | .testConversionStart _ _ _ => true
  | .tdcCalVisitComplete _ _ _ _ _ => true
  | .tdcCalVisitTimeout _ _ => true
  | .transferStale _ _ => true
  | .dllLockLoss _ _ => true
  | .dllRelock _ _ => true
  | .gaugeEdge _ _ => true
  | .gaugeGateEnd _ _ => true
  | .conditionDecide _ _ _ => true
  | .timeoutHighExpire _ _ => true
  | .quietTimeoutExpire _ _ => true
  | .groupWindowClose _ _ => true
  | .groupSumComplete _ _ _ _ => true
  | .primitiveReceive _ _ parts => parts.wf
  | .primitiveEqualised _ origin seq => decide (origin < 65536) && decide (seq < 65536)
  | .rootWindowClose _ _ => true
  | .trigInEdge _ _ _ => true
  | .trigOutPulseEnd _ _ => true
  | .acceptReceive _ _ parts => parts.wf
  | .extractionStart _ => true
  | .extractionEnd _ _ => true
  | .eventBufferSpace _ _ => true
  | .extractionDrop _ => true
  | .deckReplyToExtractor _ _ _ => true
  | .loopPeriodStart _ => true
  | .loopCompute _ _ => true
  | .loopOutputApply _ => true
  | .curHoldExpire _ _ => true
  | .snippetRead _ _ _ _ => true
  | .deckWriteInterval _ => true
  | .rewindRequest _ _ desc => decide (desc.length = 64)
  | .deckSessionOpen _ _ => true
  | .deckReadComplete _ _ _ => true
  | .writePointAdvance _ _ => true
  | .hemMarkReceive _ _ mark => mark.wf
  | .hemMarkApply _ _ => true
  | .hemMarkPeriodic _ => true
  | .hemMarkGapExpire _ => true
  | .seamRecordArrive _ _ record => record.wf
  | .seamRelease _ => true
  | .frayTimeout _ _ => true
  | .spillWriteComplete _ _ => true
  | .spillReadback _ _ _ => true
  | .ctxDoorbellWrite _ _ _ => true
  | .ctxReqDoorbellWrite _ _ _ => true
  | .ctxNotifyArm _ _ => true
  | .ctxCreate _ _ => true
  | .ctxDestroy _ _ => true
  | .ctxRebind _ _ => true
  | .ctxDrainComplete _ _ => true
  | .requestEntryRead _ _ desc => decide (desc.length = 64)
  | .descriptorFetch _ _ desc => decide (desc.length = 16)
  | .schedulerGrant _ _ => true
  | .unitTransferComplete _ _ => true
  | .egressDetach _ _ => true
  | .coalescerTimeout _ _ => true
  | .pressCompressJob _ _ cmd => cmd.wf
  | .pressDecompressJob _ _ cmd => cmd.wf
  | .pressJobStart _ => true
  | .pressJobComplete _ _ _ _ _ => true
  | .pressContextJobComplete _ _ _ => true
  | .pressBufWrite _ _ cmd => cmd.wf
  | .pressBufRead _ _ cmd => cmd.wf
  | .alignBlock _ _ _ _ => true
  | .creditBlock _ _ credit => credit.wf
  | .recordFrame _ _ frame => frame.wf
  | .replayTimeout _ _ => true
  | .inboundCredit _ _ _ => true
  | .claimFrame _ _ _ => true
  | .claimWindowExpire _ => true
  | .discoveryProbe _ _ src _ => decide (src < 65536)
  | .discoveryReply _ reply => reply.wf
  | .routeInstall _ install => install.wf
  | .portChangeReport _ _ _ _ => true
  | .clockParentLost _ => true
  | .hopDelayMeasured _ _ _ => true
  | .laneCdrLock _ _ => true
  | .laneBlockLock _ _ => true
  | .laneLockLoss _ _ _ => true
  | .laneNoTransitions _ _ => true
  | .hello _ _ _ _ _ => true
  | .restripe _ _ _ _ => true
  | .restripeResend _ _ => true
  | .restripeTimeout _ _ => true
  | .laneReady _ _ _ => true
  | .rejoinHoldExpire _ _ => true
  | .laneRejoin _ _ => true
  | .laneRetrainTimeout _ _ => true
  | .loopReq _ _ _ _ => true
  | .loopAck _ _ _ _ => true
  | .farLoopTimeout _ _ => true
  | .laneLoopWrite _ _ _ => true
  | .prbsInject _ _ => true
  | .prbsCheckerLock _ _ _ _ _ => true
  | .timeMessage _ _ msg => msg.wf
  | .syncExchangeComplete _ _ _ => true
  | .slewComplete _ => true
  | .holdoverEnter _ => true
  | .ppsInEdge _ _ => true
  | .ppsInMissing _ => true
  | .timeStep _ _ cmd => cmd.wf
  | .swapCutoff _ => true
  | .spanBoundary _ badWords => badWords.all fun i => decide (i < 2 ^ 32)
  | .swapCommit _ _ cmd => cmd.wf
  | .swapCfgWrite _ _ => true
  | .toutPulse _ _ => true
  | .ppsOutEdge _ => true
  | .actCfgArm _ _ _ => true
  | .schedule _ _ cmd => cmd.wf
  | .actionPulser _ _ => true
  | .actionToutPulse _ _ => true
  | .actionSwapRelease _ _ => true
  | .actionFirmware _ _ => true
  | .ddrTrainingStep _ _ _ spd => spd.wf
  | .refreshDue _ _ => true
  | .panicBegin _ _ _ => true
  | .panicEnd _ _ _ => true
  | .refreshRepay _ _ => true
  | .ddrScrubRead _ _ _ _ => true
  | .ddrRetrainStep _ _ _ => true
  | .ddrAlert _ _ _ _ => true
  | .ddrReadComplete _ _ _ tries _ _ => decide (1 ≤ tries.length) && decide (tries.length ≤ 3)
  | .ddrFence _ => true
  | .spdTempRead _ _ _ => true
  | .mr4Read _ _ _ => true
  | .memRestart _ _ cmd => cmd.wf
  | .memRead _ _ cmd _ => cmd.wf
  | .memWrite _ _ cmd => cmd.wf
  | .regionRead _ _ cmd _ => cmd.wf
  | .snapLowRead _ _ _ => true
  | .snapHighRead _ _ _ => true
  | .snapWholeRead _ _ _ => true
  | .reg64HalfWrite _ _ _ _ => true
  | .evPendingClear _ _ _ _ => true
  | .evMaskWrite _ _ _ => true
  | .evTest _ _ => true
  | .hostReset _ => true
  | .hostLinkUp _ _ _ _ => true
  | .busMasterDisable _ => true
  | .powerStateChange _ _ => true
  | .deviceReadFail _ _ _ => true
  | .mbEnableWrite _ _ _ => true
  | .mbDoorbellWrite _ _ _ => true
  | .mbCqDoorbellWrite _ _ _ => true
  | .mbFetch _ _ slot => decide (slot.length = 4096)
  | .commandCommit _ => true
  | .backgroundComplete _ _ _ _ _ => true
  | .mailboxFrame _ frame => frame.wf
  | .remoteTimeout _ _ _ => true
  | .echo _ _ cmd => cmd.wf
  | .identify _ _ cmd => cmd.wf
  | .paramGet _ _ cmd => cmd.wf
  | .paramSet _ _ cmd => cmd.wf
  | .paramSetMulti _ _ cmd => cmd.wf
  | .atNsRelease _ _ => true
  | .configSave _ _ cmd => cmd.wf
  | .configSaveDeferred _ => true
  | .configLoad _ _ cmd => cmd.wf
  | .tdcCalVisit _ _ cmd => cmd.wf
  | .softAccept _ _ cmd => cmd.wf
  | .deckRewind _ _ cmd => cmd.wf
  | .holdCancel _ _ cmd => cmd.wf
  | .rootClaim _ _ cmd => cmd.wf
  | .rootRelease _ _ cmd => cmd.wf
  | .addrPlan _ _ cmd => cmd.wf
  | .topologyRead _ _ cmd => cmd.wf
  | .fwLoad _ _ cmd image _ => cmd.wf && image.wf
  | .slotSelect _ _ cmd => cmd.wf
  | .failover _ _ cmd => cmd.wf
  | .health _ _ cmd => cmd.wf
  | .checkerWriteRaw _ _ cmd _ => cmd.wf
  | .checkerReadRaw _ _ cmd _ => cmd.wf
  | .checkerInject _ _ cmd _ => cmd.wf
  | .injectApply _ => true
  | .recRead _ _ cmd => cmd.wf
  | .recClear _ _ cmd _ => cmd.wf
  | .nonce _ _ cmd => cmd.wf
  | .nonceExpire _ _ => true
  | .attest _ _ cmd => cmd.wf
  | .mb4Status _ _ => true
  | .mb4Reset _ _ _ _ => true
  | .mb4SlotSelect _ _ _ => true
  | .mb4FwLoad _ _ _ _ _ _ image _ => image.wf
  | .smbCmdAppend _ data _ => decide (1 ≤ data.length) && decide (data.length ≤ 255)
  | .smbCmdStart _ _ _ => true
  | .smbReadCompletion _ => true
  | .smbReadResponse _ _ => true
  | .smbMb4Start _ _ _ _ _ _ => true
  | .smbMb4Read _ => true
  | .mb5Data _ _ => true
  | .mb5Go _ => true
  | .mb5PtrReset _ => true
  | .extest _ => true
  | .idcode _ => true
  | .samplePreload _ _ => true
  | .extestPulse _ => true
  | .extestTrain _ => true
  | .clamp _ => true
  | .highz _ => true
  | .bypass _ => true
  | .trstNAssert _ => true
  | .leaseRenew _ _ _ => true
  | .healthWordPublish _ _ _ => true
  | .leaseExpire _ => true
  | .leaseGrant _ _ => true
  | .pierHealthTimeout _ _ => true
  | .heartbeatEmit _ _ => true
  | .checkpointMark _ _ _ => true
  | .checkpointAck _ _ => true
  | .checkpointAckTimeout _ => true
  | .fullCopy _ => true
  | .selfTestPassEnd _ _ => true
  | .maintStart _ _ unit _ => decide (unit < 512)
  | .maintDeferredStart _ _ unit => decide (unit < 512)
  | .sramScrubRead _ _ _ _ _ => true
  | .recOccurrence _ _ _ _ detail => decide (detail.length ≤ 224)
  | .recRepeatExpire _ => true
  | .recMramWriteComplete _ => true
  | .recScan _ => true
  | .mramScrubRead _ _ _ => true
  | .svnCommit _ => true
  | .ownerRequireWrite _ _ => true
  | .ownerLockWrite _ => true
  | .bootVerify _ slotA slotB => slotA.wf && slotB.wf
  | .porNAssert _ _ => true
  | .porNRelease _ => true
  | .clkrefClassify _ _ => true
  | .pllLock _ _ => true
  | .corePllLockLoss _ => true
  | .railOutOfTolerance _ _ _ => true
  | .brownOut _ _ => true
  | .overlightRelease _ _ _ => true
  | .thermalReading _ _ _ => true
  | .thermalShutdown _ => true
  | .thermalShutdownRelease _ => true
  | .registerWrite _ _ offset size _ => decide (offset % size = 0) && (size == 4 || size == 8)
  | .syncInterval _ _ => true
  | .distributedStep _ epoch _ _ _ => decide (epoch < 65536)
  | .routeInstallAck _ _ => true
  | .toutPulseEnd _ _ => true
  | .ppsOutFall _ => true
  | .msixMaskWrite _ _ => true
  | .perstNRelease _ => true

end Sys2Proof
end

