-- ==== Sys2Proof/Tests/Slice0.lean ====
section
/-! SUPPORT. Tests on small states, and for every statement a state and operands that meet its hypotheses together. -/

namespace Sys2Proof.Tests

open Sys2Proof Sys2Proof.Machine

/-- The state with the lease at a pier: 1 for Pier A, 2 for Pier B. -/
def withHolder (n : Nat) (s : State) : State := { s with core := { s.core with holder := n } }

/-- A visit of channel 7 of tile 3 that began at instant 9. -/
def wVisit : State :=
  (State.reset.modFe 3 fun f => { f with visit := some 7 }).maintBegin 0 55 false |>.clock 9 |> fun s =>
    { s with core := { s.core with run := s.core.run.map fun a => { a with since := 9 } } }

/-- A judged hit of a width condition of 3 to 5 cc. -/
def wCondHit : CondHit :=
  { CondHit.reset with
    done := some 9, hit := { HitSt.reset with tot := 4, at_ := ⟨0, 7⟩, cond := ⟨1, 3, 5, 0, 0, 0, false, 0, 0⟩ } }

/-- Channel 77 with that hit, enabled, acquiring, and group 63 watching it. -/
def wCond : State :=
  (((({ State.reset with pwr := { PwrSt.reset with acq := true } }).putB P.FAST_CFG_ENABLE 77 true).putB P.GROUP_CFG_ENABLE 63 true).put
    P.GROUP_MASK_MASK 63 (2 ^ 13) 2).modTd 77 fun x => { x with judged := [wCondHit] }

/-- A primitive of group 3 from device 3, for device 0. -/
def wVc0 : Vc0 :=
  ⟨1, false, false, false, false, 3, 3, 0, 30, 100, 2, 77, 0, 5, 1, false⟩

/-- An accept of class 9. -/
def wA : Acc := ⟨⟨0, 40 * usSt⟩, 9, 5, 3, false, false, 40 * usSt, false, false, none, []⟩
/-- It waits for extraction, with a window of 8 samples of two channels. -/
def wAcc : State :=
  ((({ State.reset with trg := { TrgSt.reset with accs := [wA] } }).put P.CLASS_CFG_PRE 9 4).put P.CLASS_CFG_POST 9 4).put P.CLASS_MASK_MASK 9 3
/-- Some time after that accept. -/
def wAccT : Tm := 44 * usSt + 7

/-- A record of device 9 with a given time. -/
def wRec (tb : Tm) : Rec := ⟨0x02, 0, 9, 0, tb, 3, List.replicate 16 0⟩

/-- Context 9, bound to the host with one buffer and one inbound record; the host can be reached. -/
def wCtx : State :=
  ({ State.reset with host := { HostSt.reset with linkUp := true, busMaster := true, gen := 5, width := 16 } }).modCtx 9 fun x =>
    { x with state := 1, bufs := [{ Buf.reset with size := 4096 }], inbound := [(3, wRec 50)], src := [(5, { CtxSrc.reset with on := true })] }

/-- A rewind request of context 9 for the hits of channel 0 in the first 30 ns. -/
def wReq : List Byte :=
  [1, 0] ++ le 2 9 ++ le 2 0 ++ le 2 0 ++ le 8 0 ++ le 8 30 ++ le 2 0 ++ [0, 0] ++ le 4 77 ++ [1] ++ List.replicate 31 0

/-- A deck record of channel 0. -/
def wDRec : DRec := ⟨40, ⟨0x01, 0, 0, 0, 700, 3, []⟩, 0, 900, 0⟩
/-- A session of context 9 over that record. -/
def wSessX (kind : Nat) : Sess :=
  { Sess.reset with ctx := 9, flags := 1, start := 0, stop := 5000, mask := 1, kind := kind, queued := false }
/-- A state with that session and record. -/
def wSess (kind : Nat) : State :=
  { wCtx with deck := { DeckSt.reset with sess := [(5, some (wSessX kind))], data := [wDRec], woff := 64, sized := 4096 } }

/-- Context 9 holds the oldest byte of a full egress queue. -/
def wDetach : State :=
  (({ State.reset with
    ctx := { CtxBlk.reset with
      egress := [⟨0, wRec 50, false⟩], egressEnd := egressSize, holdBy := some 9, holdFrom := some 5 },
    seam := { SeamSt.reset with late := [wRec 60] } }).putB P.CTX_CFG_DETACH 9 true).modCtx 9 fun x =>
      { x with state := 1, src := [(0, { CtxSrc.reset with on := true })] }

/-- A command with an opcode and a payload. -/
def wCmd (opcode : Nat) (payload : List Byte) : Cmd :=
  ⟨opcode, payload.length, 77, 0, 9, 0xFFFF, 0, 0, 0, payload, 3⟩
/-- The state with the lease at Pier A. -/
def wLease : State := withHolder 1 State.reset
/-- A host that can be reached, with mailbox 0 or 1 enabled and one slot posted. -/
def wHost (m : Nat) : State :=
  (({ wLease with host := { HostSt.reset with linkUp := true, busMaster := true, gen := 5, width := 16 } }).modMb m fun x =>
    { x with enable := true, ready := true, prod := 1, sqLog2 := 4, cqLog2 := 4, sqBase := 4096, cqBase := 65536 })
/-- A slot of ECHO without payload, and one of HOLD_CANCEL. -/
def wSlot (opcode len : Nat) : List Byte :=
  le 2 opcode ++ le 2 len ++ le 4 77 ++ le 2 0 ++ le 2 9 ++ le 2 0xFFFF ++ List.replicate 18 0 ++ List.replicate 64 0
/-- A command that waits for its commit. -/
def wWait (m : Nat) : Wait := { Wait.reset with who := { Who.reset with mb := m }, seq := 77, commit := 5 }
/-- A forwarded command of a mailbox. -/
def wRemote (m : Nat) : Remote := { Remote.reset with who := { Who.reset with mb := m }, seq := 77, due := some 5 }

/-- A pier `i` that has published a healthy word at uptime 0. -/
def wHealthy (i : Nat) (s : State) : State :=
  s.modPier i fun p => { p with held := false, word := 0x49, heard := some 0 }
/-- The lease at Pier A, the standby in step, a mark of boundary 100 outstanding. -/
def wMark : State :=
  { wLease with core := { wLease.core with sync := true, mark := some 100, markAt := 7 } }

/-- Port `p` up as a tree child on four lanes. -/
def wUp (p : Nat) (s : State) : State :=
  ((s.put P.FAB_PORT_STATUS_STATE p 4).put P.FAB_PORT_STATUS_WIDTH p 4)
/-- The root with port 2 up. -/
def wRoot : State := (wUp 2 wLease).putB P.FAB_ADDR_ROOT 0 true
/-- A frame of one word pair that holds a record for context 9. -/
def wFrame : Frame :=
  let f : Frame := ⟨3, true, true, 0xFFFF, 5, 0, 0, 3, [9, 0x0000000000030002, 0, 0], 0, 0⟩
  { f with crc := BitVec.ofNat 32 (frameCrc f) }
/-- A lane of state `n`, locked at both ends. -/
def wLane (l n : Nat) (s : State) : State :=
  ((((s.setLane l n).putB P.LANE_STATUS_BLOCK_LOCK l true).putB P.LANE_STATUS_CDR_LOCK l true).modLane l fun x => { x with peer := true })
/-- A claim command in the background. -/
def wBack (op : Nat) : Wait := { wWait 1 with opcode := op, background := true }
/-- A node of the topology. -/
def wNode (id : W64) (r : List Nat) : Node := { Node.reset with id := id, route := r, level := r.length, addr := 0x100 + r.length }

/-- A press job's descriptor: compress from host memory to the press buffer. -/
def wDesc : List Byte :=
  [1, 4, 0, 2] ++ le 4 5 ++ le 8 4096 ++ le 8 0 ++ le 8 64 ++ le 8 4096 ++ List.replicate 24 0
/-- Its job. -/
def wJob : Job := Job.parse { Who.reset with mb := 1 } 77 wDesc
/-- A context job of context 9 on link 0. -/
def wCtxJob : CtxUnit := { CtxUnit.reset with ctx := 9, src := 2, job := true, ready := false, starts := [0] }
/-- A module. -/
def wSpd : Spd := ⟨32, false, 1, true, true, 2, 77, 10000⟩
/-- A state of the memory with both channels in service. -/
def wDdr : State :=
  ((wLease.putB P.DDR_STATUS_ONLINE 0 true).put P.DDR_CH_STATUS_STATE 0 2).put P.DDR_CH_STATUS_STATE 1 2
/-- That memory with areas of 64 MiB each. -/
def wArea : State := (wDdr.put P.DDR_MAP_FW_MIB 0 64).put P.DDR_MAP_PRESS_MIB 0 64

/-- An operator token's bytes for the checker, and a test of it. -/
def wToken (d : List Byte) : List Byte := List.replicate 208 1 ++ d ++ List.replicate (32 - d.length) 0
/-- An image that passes every check. -/
def wImage : Image :=
  ⟨le 4 0x46574C59 ++ le 4 1 ++ le 4 0x010203 ++ le 4 0 ++ le 4 0 ++ le 2 5 ++ le 2 0 ++ le 8 0, ⟨[], [], [], [], [], []⟩,
    ⟨[], true, true, [], [], true, true⟩⟩
/-- An image whose vendor LMS signature fails. -/
def wBadImage : Image := { wImage with crypto := { wImage.crypto with vLms := false } }
/-- The host block with events unmasked. -/
def wEv (s : State) : State := { s with ev := { s.ev with mask := 0, msixEnable := true, vecMask := 0 } }

/-- A set of one parameter under a whole mask. -/
def wSet (id : Nat) (v : Nat) : List Byte := le 4 id ++ le 4 0 ++ le 8 v ++ le 8 0xFFFF
/-- Several sets, with a class and flags. -/
def wMulti (cls flags : Nat) (es : List (Nat × Nat)) : List Byte :=
  le 2 es.length ++ le 1 cls ++ le 1 flags ++ le 4 0 ++ le 8 0 ++ es.flatMap fun e => wSet e.1 e.2

/-- An adoption of epoch 3 and a backward step are pending in epoch 0. -/
def wSteps : State :=
  { State.reset with time := { TimeSt.reset with steps := [⟨5, 0, false, 7, some 3⟩, ⟨9, 0, false, -7, none⟩] } }

/-! ### Ill-formed commands are refused by WellFormed, one for each check -/

/-- A well-formed command: ECHO of two bytes. -/
def tCmd : Cmd := { wCmd 0x0001 [1, 2] with target := 0xFFFF }
/-- A well-formed CREDIT block, route install, time message and module. -/
def tCredit : Credit := ⟨0, 5, 7, false, false⟩
def tInstall : Install := ⟨3, 7, 0, 0, false, [(255, 0)], [(255, 0)], [], 0, 7, 0, 0⟩
def tTime : TimeMsg := ⟨0, 1, 3, 9, 0, true, 0, 0, .sync⟩

theorem test_wf_accepts :
    (Instr.echo 5 1 tCmd).wf = true ∧ (Instr.creditBlock 5 0 tCredit).wf = true ∧ (Instr.routeInstall 5 tInstall).wf = true ∧
    (Instr.timeMessage 5 0 tTime).wf = true ∧ (Instr.recordFrame 5 0 wFrame).wf = true ∧ (Instr.hemMarkReceive 5 0 (wRec 5)).wf = true ∧
    (Instr.ddrTrainingStep 5 0 true wSpd).wf = true ∧ (Instr.bootVerify 5 wImage wImage).wf = true := by
  decide

theorem test_wf_refuses_command :
    (Instr.echo 5 1 { tCmd with opcode := 65536 }).wf = false ∧ (Instr.echo 5 1 { tCmd with length := 3 }).wf = false ∧
    (Instr.echo 5 1 { tCmd with seq := 2 ^ 32 }).wf = false ∧ (Instr.echo 5 1 { tCmd with flags := 65536 }).wf = false ∧
    (Instr.echo 5 1 { tCmd with context := 65536 }).wf = false ∧ (Instr.echo 5 1 { tCmd with target := 65536 }).wf = false ∧
    (Instr.echo 5 1 { tCmd with timeoutMs := 65536 }).wf = false ∧ (Instr.echo 5 1 { tCmd with respAddr := 2 ^ 64 }).wf = false ∧
    (Instr.echo 5 1 { tCmd with respMax := 2 ^ 32 }).wf = false := by
  decide

theorem test_wf_refuses_frames :
    (Instr.recordFrame 5 0 { wFrame with vc := 4 }).wf = false ∧ (Instr.recordFrame 5 0 { wFrame with dest := 65536 }).wf = false ∧
    (Instr.recordFrame 5 0 { wFrame with src := 65536 }).wf = false ∧ (Instr.recordFrame 5 0 { wFrame with seq := 256 }).wf = false ∧
    (Instr.recordFrame 5 0 { wFrame with seqRep := 256 }).wf = false ∧ (Instr.recordFrame 5 0 { wFrame with kind := 16 }).wf = false ∧
    (Instr.recordFrame 5 0 { wFrame with stream := 8 }).wf = false ∧ (Instr.recordFrame 5 0 { wFrame with payload := [] }).wf = false ∧
    (Instr.primitiveReceive 5 0 ⟨[], List.replicate 24 0⟩).wf = false ∧ (Instr.acceptReceive 5 0 ⟨[0, 1, 2, 3], []⟩).wf = false ∧
    (Instr.creditBlock 5 0 { tCredit with vc := 4 }).wf = false ∧ (Instr.creditBlock 5 0 { tCredit with count := 4096 }).wf = false ∧
    (Instr.creditBlock 5 0 { tCredit with ack := 256 }).wf = false := by
  decide

theorem test_wf_refuses_records :
    (Instr.hemMarkReceive 5 0 { wRec 5 with type := 256 }).wf = false ∧ (Instr.hemMarkReceive 5 0 { wRec 5 with flags := 256 }).wf = false ∧
    (Instr.hemMarkReceive 5 0 { wRec 5 with origin := 65536 }).wf = false ∧
    (Instr.seamRecordArrive 5 0 { wRec 5 with epoch := 65536 }).wf = false ∧
    (Instr.seamRecordArrive 5 0 { wRec 5 with body := [1, 2, 3] }).wf = false ∧
    (Instr.rewindRequest 5 9 []).wf = false ∧ (Instr.requestEntryRead 5 9 []).wf = false ∧ (Instr.descriptorFetch 5 9 []).wf = false ∧
    (Instr.mbFetch 5 0 []).wf = false ∧ (Instr.smbCmdAppend ⟨5, 0x4C⟩ [] true).wf = false := by
  decide

theorem test_wf_refuses_detail : (Instr.recOccurrence 5 0 0 0 (List.replicate 225 0)).wf = false := by
  show decide ((List.replicate 225 (0 : Byte)).length ≤ 224) = false
  rw [List.length_replicate]
  rfl

theorem test_wf_refuses_topology :
    (Instr.routeInstall 5 { tInstall with addr := 65536 }).wf = false ∧ (Instr.routeInstall 5 { tInstall with upPort := 8 }).wf = false ∧
    (Instr.routeInstall 5 { tInstall with seamUp := 8 }).wf = false ∧ (Instr.routeInstall 5 { tInstall with regions := [(256, 0)] }).wf = false ∧
    (Instr.routeInstall 5 { tInstall with members := [(256, 0)] }).wf = false ∧
    (Instr.discoveryReply 5 ⟨1, 2, 0, 3, 65536, false, List.replicate 4 (0, false)⟩).wf = false ∧
    (Instr.discoveryReply 5 ⟨1, 2, 0, 3, 7, false, []⟩).wf = false ∧ (Instr.discoveryProbe 5 0 65536 0).wf = false ∧
    (Instr.timeMessage 5 0 { tTime with domain := 256 }).wf = false ∧ (Instr.timeMessage 5 0 { tTime with seq := 65536 }).wf = false ∧ (Instr.timeMessage 5 0 { tTime with port := 65536 }).wf = false ∧
    (Instr.timeMessage 5 0 { tTime with epoch := 65536 }).wf = false ∧ (Instr.distributedStep 5 65536 0 false 0).wf = false ∧
    (Instr.mailboxFrame 5 (.request 65536 0 tCmd)).wf = false ∧ (Instr.primitiveEqualised 5 65536 0).wf = false ∧
    (Instr.primitiveEqualised 5 0 65536).wf = false := by
  decide

theorem test_wf_refuses_units :
    (Instr.ddrTrainingStep 5 0 true { wSpd with gib := 0 }).wf = false ∧ (Instr.ddrTrainingStep 5 0 true { wSpd with ranks := 0 }).wf = false ∧
    (Instr.ddrTrainingStep 5 0 true { wSpd with ranks := 9 }).wf = false ∧ (Instr.ddrReadComplete 5 0 0 [] 0 0).wf = false ∧
    (Instr.ddrReadComplete 5 0 0 [0, 0, 0, 0] 0 0).wf = false ∧ (Instr.bootVerify 5 { wImage with crypto := { wImage.crypto with lmsDig := List.replicate 33 0 } } wImage).wf = false ∧
    (Instr.bootVerify 5 wImage { wImage with crypto := { wImage.crypto with lmsDig := List.replicate 33 0 } }).wf = false ∧ (Instr.spanBoundary 5 [2 ^ 32]).wf = false ∧
    (Instr.maintStart 5 0 512 false).wf = false ∧ (Instr.maintDeferredStart 5 0 512).wf = false ∧
    (Instr.registerWrite 5 0 2 4 0).wf = false ∧ (Instr.registerWrite 5 0 0 2 0).wf = false := by
  decide

/-! ### Figures that the manual itself gives -/

/-- The identifier of parameter 0x005 of block AFE for channel 37, as R8's example computes it. -/
theorem test_identifier : P.SLOW_CFG_CHOP_EN.id 37 0 = 0x01025005 := by decide

/-- The pipeline latency of 14 sample clocks is 28 core clocks and 28,672 stitches (chapter 00). -/
theorem test_latency : 14 * scSt = 28 * ccSt ∧ 28 * ccSt = 28672 := by decide

/-- At 24 GB/s, with an interval of 1 ms and 256 channels, the allowance is 93,744 B (R163's example). -/
theorem test_deck_allowance : deckCap 4 = 24000 ∧ deckAllow 24000 msSt 256 = 93744 := by decide

/-- No row of the table has bits, so no word spells a command, and the queue stays as it is. -/
theorem test_no_words : decodeTableWord 8 0 = none ∧ decodeTableWord 64 0xFFFF = none ∧ State.reset.withFetchWord 8 0 = State.reset :=
  ⟨rfl, rfl, rfl⟩

/-! ### One step each -/

/-- A step takes the front command and leaves the rest: an idle test write raises its source in the host latch alone (R366). -/
theorem test_step_evTest :
    (match step { State.reset with pending := [.evTest 5 200, .ddrFence 6] } with
      | .next u => u.ev.host.getLsbD 200 && !u.ev.fw.getLsbD 200 && decide (u.pending = [.ddrFence 6])
      | _ => false) = true := by
  decide

/-- An over-light limit above the fused one is refused; one at the fused limit stands (R60). -/
theorem test_trip_limit :
    (match exec (.tripLimitWrite 5 2 501) (State.reset.put P.TRIP_FUSED_FUSED 2 500),
        exec (.tripLimitWrite 5 2 500) (State.reset.put P.TRIP_FUSED_FUSED 2 500) with
      | .next u, .next v => u.get P.TRIP_LIMIT_LIMIT 2 != 501 && v.get P.TRIP_LIMIT_LIMIT 2 == 500
      | _, _ => false) = true := by
  decide

/-- A hit that has run 4,095 core clocks closes there with TOT_SAT (R97). -/
theorem test_tot_saturates :
    (match exec (.totSaturate (4096 * 1024) 77) (State.reset.modTd 77 fun x => { x with open_ := [{ HitSt.reset with lead := 1024 }] }) with
      | .next u => (u.td 77).open_.map (fun h => (h.tot, h.totSat)) == [(4095, true)]
      | _ => false) = true := by
  decide

/-- A command at the same instant as the last moves no time, and an earlier one does not move it back (R29). -/
theorem test_time_stays :
    (match exec (.ddrFence 90) (State.reset.clock 100) with | .next u => u.time.now == 100 | _ => false) = true := by
  decide

/-- While a whole-device reset is held, a command has no effect (R483). -/
theorem test_held_reset :
    exec (.tripLimitWrite 5 2 0) { State.reset with pwr := { PwrSt.reset with por := true } } =
      .next { State.reset with pwr := { PwrSt.reset with por := true } } := by
  rfl

/-- The reset memory is canonical, and a write of the value an unlisted byte reads as leaves no entry. -/
theorem test_memory_canonical :
    State.reset.MemoryCanonical ∧ (State.reset.ddrWrite 9 [0]).ddr.mem = [] ∧ (State.reset.ddrWrite 9 [0, 7]).ddr.mem = [(10, 7)] ∧
      ((State.reset.ddrWrite 9 [0, 7]).ddrWrite 10 [0]).ddr.mem = [] := by
  decide

/-! ### Every statement's hypotheses are met -/

/-- A state and operands that meet the hypotheses of clause 1 of FrontEndVisitsComplete. -/
theorem witness_FrontEndVisitsComplete_1 :
    ((withHolder 1 ((State.reset.putB P.IMP_CFG_ENABLE 3 true).modFe 3 fun f => { f with queue := [7, 2] }) : State).pwr.por = false) ∧
    ((withHolder 1 ((State.reset.putB P.IMP_CFG_ENABLE 3 true).modFe 3 fun f => { f with queue := [7, 2] }) : State).instant (3 * slotLen : Tm) % slotLen = 0) ∧
    ((withHolder 1 ((State.reset.putB P.IMP_CFG_ENABLE 3 true).modFe 3 fun f => { f with queue := [7, 2] }) : State).flag P.IMP_CFG_ENABLE (3 : Tile) = true) ∧
    ((withHolder 1 ((State.reset.putB P.IMP_CFG_ENABLE 3 true).modFe 3 fun f => { f with queue := [7, 2] }) : State).tripped (3 : Tile) = false) ∧
    ((withHolder 1 ((State.reset.putB P.IMP_CFG_ENABLE 3 true).modFe 3 fun f => { f with queue := [7, 2] }) : State).leased = true) ∧
    ((withHolder 1 ((State.reset.putB P.IMP_CFG_ENABLE 3 true).modFe 3 fun f => { f with queue := [7, 2] }) : State).abut = false) ∧
    (((withHolder 1 ((State.reset.putB P.IMP_CFG_ENABLE 3 true).modFe 3 fun f => { f with queue := [7, 2] }) : State).clock (3 * slotLen : Tm)).slotChannel (3 : Tile) = some (7 : Nat)) ∧
    ((withHolder 1 ((State.reset.putB P.IMP_CFG_ENABLE 3 true).modFe 3 fun f => { f with queue := [7, 2] }) : State).maintJudge 0 (16 * (3 : Tile).val + (7 : Nat)) = .run) := by
  decide

/-- A state and operands that meet the hypotheses of clause 2 of FrontEndVisitsComplete. -/
theorem witness_FrontEndVisitsComplete_2 :
    (wVisit : State).pwr.por = false ∧
    ((wVisit : State).fe (3 : Tile)).visit = some (7 : Nat) ∧
    ((wVisit : State).core.run.any (fun a => a.code == 0 && a.unit == 16 * (3 : Tile).val + (7 : Nat) && decide (a.since + visitLen ≤ (wVisit : State).instant (visitLen + 9 : Tm))) = true) ∧
    halvesDiffer (1000 : Nat) (900 : Nat) = false := by
  decide

/-- A state and operands that meet the hypotheses of clause 3 of FrontEndVisitsComplete. -/
theorem witness_FrontEndVisitsComplete_3 :
    (wVisit : State).pwr.por = false ∧
    ((wVisit : State).fe (3 : Tile)).visit = some (7 : Nat) ∧
    ((wVisit : State).core.run.any (fun a => a.code == 0 && a.unit == 16 * (3 : Tile).val + (7 : Nat) && decide (a.since + visitLen ≤ (wVisit : State).instant (visitLen + 9 : Tm))) = true) ∧
    halvesDiffer (1000 : Nat) (700 : Nat) = true := by
  decide

/-- A state and operands that meet the hypotheses of clause 4 of FrontEndVisitsComplete. -/
theorem witness_FrontEndVisitsComplete_4 :
    ({ State.reset.putB P.CH_STATUS_BROKEN 200 true with afe := { AfeSt.reset with leave := [200, 3] } } : State).pwr.por = false ∧
    ({ State.reset.putB P.CH_STATUS_BROKEN 200 true with afe := { AfeSt.reset with leave := [200, 3] } } : State).flag P.CH_STATUS_BROKEN (200 : Ch) = true := by
  decide

/-- A state and operands that meet the hypotheses of clause 1 of BlankingCompletes. -/
theorem witness_BlankingCompletes_1 :
    ((State.reset.putB P.BLANK_CFG0_ENABLE 0 true).put P.BLANK_CFG0_TILE_MASK 0 65535 : State).pwr.por = false := by
  decide

/-- A state and operands that meet the hypotheses of clause 2 of BlankingCompletes. -/
theorem witness_BlankingCompletes_2 :
    (((State.reset.modFe 2 fun f => { f with blanked := true, guardUntil := some 40 }).showBlank 2 : State).pwr.por = false) ∧
    ((((State.reset.modFe 2 fun f => { f with blanked := true, guardUntil := some 40 }).showBlank 2 : State).fe (2 : Tile)).guardUntil = some (40 : Tm)) ∧
    ((40 : Tm) ≤ ((State.reset.modFe 2 fun f => { f with blanked := true, guardUntil := some 40 }).showBlank 2 : State).instant (40 : Tm)) := by
  decide

/-- A state and operands that meet the hypotheses of clause 3 of BlankingCompletes. -/
theorem witness_BlankingCompletes_3 :
    ((State.reset.modHk 2 fun h => { h with run := some { Conv.reset with frozenAt := some 3 } } : State).pwr.por = false) ∧
    (((State.reset.modHk 2 fun h => { h with run := some { Conv.reset with frozenAt := some 3 } } : State).hk (2 : Tile)).run = some ({ Conv.reset with frozenAt := some 3 } : Conv)) ∧
    (((State.reset.modHk 2 fun h => { h with run := some { Conv.reset with frozenAt := some 3 } } : State).fe (2 : Tile)).blanked = false) ∧
    ({ Conv.reset with frozenAt := some 3 } : Conv).frozenAt ≠ none ∧
    (({ Conv.reset with frozenAt := some 3 } : Conv).seg ≤ (State.reset.modHk 2 fun h => { h with run := some { Conv.reset with frozenAt := some 3 } } : State).instant (40 : Tm)) := by
  decide

/-- A state and operands that meet the hypotheses of clause 4 of BlankingCompletes. -/
theorem witness_BlankingCompletes_4 :
    ((State.reset.modHk 2 fun h => { h with run := some { Conv.reset with frozenAt := some 3 }, urgent := [⟨17, 1, 0, none⟩] } : State).pwr.por = false) ∧
    (((State.reset.modHk 2 fun h => { h with run := some { Conv.reset with frozenAt := some 3 }, urgent := [⟨17, 1, 0, none⟩] } : State).hk (2 : Tile)).run = some ({ Conv.reset with frozenAt := some 3 } : Conv)) ∧
    ({ Conv.reset with frozenAt := some 3 } : Conv).frozenAt = some (3 : Tm) ∧
    ((3 : Tm) + (State.reset.modHk 2 fun h => { h with run := some { Conv.reset with frozenAt := some 3 }, urgent := [⟨17, 1, 0, none⟩] } : State).get P.BLANK_GUARD_BLANK_MAX 0 * usSt < (State.reset.modHk 2 fun h => { h with run := some { Conv.reset with frozenAt := some 3 }, urgent := [⟨17, 1, 0, none⟩] } : State).instant (secSt : Tm)) := by
  decide

/-- A state and operands that meet the hypotheses of clause 5 of BlankingCompletes. -/
theorem witness_BlankingCompletes_5 :
    ((State.reset.modFe 2 fun f => { f with settleOpen := true, settleUntil := 40 } : State).pwr.por = false) ∧
    (((State.reset.modFe 2 fun f => { f with settleOpen := true, settleUntil := 40 } : State).fe (2 : Tile)).settleOpen = true) ∧
    (((State.reset.modFe 2 fun f => { f with settleOpen := true, settleUntil := 40 } : State).fe (2 : Tile)).settleUntil ≤ (State.reset.modFe 2 fun f => { f with settleOpen := true, settleUntil := 40 } : State).instant (40 : Tm)) := by
  decide

/-- A state and operands that meet the hypotheses of clause 1 of OverlightTripCompletes. -/
theorem witness_OverlightTripCompletes_1 :
    (State.reset : State).pwr.por = false := by
  decide

/-- A state and operands that meet the hypotheses of clause 2 of OverlightTripCompletes. -/
theorem witness_OverlightTripCompletes_2 :
    ((State.reset.modFe 2 fun f => { f with filterFrom := some 40, visit := some 3 } : State).pwr.por = false) ∧
    (((State.reset.modFe 2 fun f => { f with filterFrom := some 40, visit := some 3 } : State).fe (2 : Tile)).filterFrom = some (40 : Tm)) ∧
    ((40 : Tm) + glitchMin ≤ (State.reset.modFe 2 fun f => { f with filterFrom := some 40, visit := some 3 } : State).instant (40 + glitchMin : Tm)) ∧
    ((State.reset.modFe 2 fun f => { f with filterFrom := some 40, visit := some 3 } : State).tripped (2 : Tile) = false) := by
  decide

/-- A state and operands that meet the hypotheses of clause 3 of OverlightTripCompletes. -/
theorem witness_OverlightTripCompletes_3 :
    ((State.reset.modFe 2 fun f => { f with rampFrom := some 40, rampCodes := List.replicate 16 2048 } : State).pwr.por = false) ∧
    (((State.reset.modFe 2 fun f => { f with rampFrom := some 40, rampCodes := List.replicate 16 2048 } : State).fe (2 : Tile)).rampFrom = some (40 : Tm)) ∧
    ((channelsOf (2 : Tile)).all (fun c => ((State.reset.modFe 2 fun f => { f with rampFrom := some 40, rampCodes := List.replicate 16 2048 } : State).clock (secSt : Tm)).trimNow c == 0) = true) := by
  decide

/-- A state and operands that meet the hypotheses of clause 4 of OverlightTripCompletes. -/
theorem witness_OverlightTripCompletes_4 :
    (withHolder 1 ((State.reset.putB P.TRIP_STATUS_TRIPPED 2 true).putB P.LOOP_STATUS_TRIP_HELD 2 true) : State).pwr.por = false ∧
    (withHolder 1 ((State.reset.putB P.TRIP_STATUS_TRIPPED 2 true).putB P.LOOP_STATUS_TRIP_HELD 2 true) : State).tripped (2 : Tile) = true ∧
    ((withHolder 1 ((State.reset.putB P.TRIP_STATUS_TRIPPED 2 true).putB P.LOOP_STATUS_TRIP_HELD 2 true) : State).clock (secSt : Tm)).tripClearable (2 : Tile) = true := by
  decide

/-- A state and operands that meet the hypotheses of clause 5 of OverlightTripCompletes. -/
theorem witness_OverlightTripCompletes_5 :
    ((State.reset.putB P.TRIP_STATUS_TRIPPED 2 true).putB P.LOOP_STATUS_TRIP_HELD 2 true : State).pwr.por = false ∧
    ((State.reset.putB P.TRIP_STATUS_TRIPPED 2 true).putB P.LOOP_STATUS_TRIP_HELD 2 true : State).tripped (2 : Tile) = true ∧
    (((State.reset.putB P.TRIP_STATUS_TRIPPED 2 true).putB P.LOOP_STATUS_TRIP_HELD 2 true : State).clock (secSt : Tm)).tripClearable (2 : Tile) = false := by
  decide

/-- A state and operands that meet the hypotheses of clause 6 of OverlightTripCompletes. -/
theorem witness_OverlightTripCompletes_6 :
    (State.reset.put P.TRIP_FUSED_FUSED 2 500 : State).pwr.por = false ∧
    (500 : BitVec 16).toNat ≤ (State.reset.put P.TRIP_FUSED_FUSED 2 500 : State).get P.TRIP_FUSED_FUSED (2 : Tile) := by
  decide

/-- A state and operands that meet the hypotheses of clause 7 of OverlightTripCompletes. -/
theorem witness_OverlightTripCompletes_7 :
    (State.reset.put P.TRIP_FUSED_FUSED 2 500 : State).pwr.por = false ∧
    (State.reset.put P.TRIP_FUSED_FUSED 2 500 : State).get P.TRIP_FUSED_FUSED (2 : Tile) < (501 : BitVec 16).toNat := by
  decide

/-- A state and operands that meet the hypotheses of clause 1 of HousekeepingCompletes. -/
theorem witness_HousekeepingCompletes_1 :
    ((State.reset.modHk 2 fun h => { h with passAt := some 0, entry := 3, seq := (upTo 32).map fun e => Regs.word [] P.HK_SEQ_INPUT 2 e } : State).pwr.por = false) ∧
    (passStart ((State.reset.modHk 2 fun h => { h with passAt := some 0, entry := 3, seq := (upTo 32).map fun e => Regs.word [] P.HK_SEQ_INPUT 2 e } : State).instant (1000 * usSt : Tm)) (if ((State.reset.modHk 2 fun h => { h with passAt := some 0, entry := 3, seq := (upTo 32).map fun e => Regs.word [] P.HK_SEQ_INPUT 2 e } : State).hk (2 : Tile)).passAt.isNone then (State.reset.modHk 2 fun h => { h with passAt := some 0, entry := 3, seq := (upTo 32).map fun e => Regs.word [] P.HK_SEQ_INPUT 2 e } : State).get P.HK_PASS_PERIOD_US (2 : Tile) else ((State.reset.modHk 2 fun h => { h with passAt := some 0, entry := 3, seq := (upTo 32).map fun e => Regs.word [] P.HK_SEQ_INPUT 2 e } : State).hk (2 : Tile)).period) = (1000 * usSt : Tm)) ∧
    (((State.reset.modHk 2 fun h => { h with passAt := some 0, entry := 3, seq := (upTo 32).map fun e => Regs.word [] P.HK_SEQ_INPUT 2 e } : State).hk (2 : Tile)).passAt ≠ some (1000 * usSt : Tm)) ∧
    ((State.reset.modHk 2 fun h => { h with passAt := some 0, entry := 3, seq := (upTo 32).map fun e => Regs.word [] P.HK_SEQ_INPUT 2 e } : State).stretchFrom ≤ (1000 * usSt : Tm)) ∧
    ((State.reset.modHk 2 fun h => { h with passAt := some 0, entry := 3, seq := (upTo 32).map fun e => Regs.word [] P.HK_SEQ_INPUT 2 e } : State).abut = false) := by
  decide

/-- A state and operands that meet the hypotheses of clause 2 of HousekeepingCompletes. -/
theorem witness_HousekeepingCompletes_2 :
    ((State.reset.modHk 2 fun h => { h with passAt := some 0, entry := 3, seq := (upTo 32).map fun e => Regs.word [] P.HK_SEQ_INPUT 2 e } : State).pwr.por = false) ∧
    (((State.reset.modHk 2 fun h => { h with passAt := some 0, entry := 3, seq := (upTo 32).map fun e => Regs.word [] P.HK_SEQ_INPUT 2 e } : State).hk (2 : Tile)).passAt = some (0 : Tm)) ∧
    (((State.reset.modHk 2 fun h => { h with passAt := some 0, entry := 3, seq := (upTo 32).map fun e => Regs.word [] P.HK_SEQ_INPUT 2 e } : State).hk (2 : Tile)).nextEnabled ((State.reset.modHk 2 fun h => { h with passAt := some 0, entry := 3, seq := (upTo 32).map fun e => Regs.word [] P.HK_SEQ_INPUT 2 e } : State).hk (2 : Tile)).entry 32 = (3 : Nat)) ∧
    (3 : Nat) < 32 ∧
    (((State.reset.modHk 2 fun h => { h with passAt := some 0, entry := 3, seq := (upTo 32).map fun e => Regs.word [] P.HK_SEQ_INPUT 2 e } : State).hk (2 : Tile)).run = none) ∧
    (((State.reset.modHk 2 fun h => { h with passAt := some 0, entry := 3, seq := (upTo 32).map fun e => Regs.word [] P.HK_SEQ_INPUT 2 e } : State).hk (2 : Tile)).urgent = []) ∧
    ((0 : Tm) + P.HK_SEQ_OFFSET_US.of (((State.reset.modHk 2 fun h => { h with passAt := some 0, entry := 3, seq := (upTo 32).map fun e => Regs.word [] P.HK_SEQ_INPUT 2 e } : State).hk (2 : Tile)).entryWord (3 : Nat)) * usSt ≤ (State.reset.modHk 2 fun h => { h with passAt := some 0, entry := 3, seq := (upTo 32).map fun e => Regs.word [] P.HK_SEQ_INPUT 2 e } : State).instant (500 * usSt : Tm)) ∧
    ((State.reset.modHk 2 fun h => { h with passAt := some 0, entry := 3, seq := (upTo 32).map fun e => Regs.word [] P.HK_SEQ_INPUT 2 e } : State).hkEdge (max ((State.reset.modHk 2 fun h => { h with passAt := some 0, entry := 3, seq := (upTo 32).map fun e => Regs.word [] P.HK_SEQ_INPUT 2 e } : State).instant (500 * usSt : Tm)) ((State.reset.modHk 2 fun h => { h with passAt := some 0, entry := 3, seq := (upTo 32).map fun e => Regs.word [] P.HK_SEQ_INPUT 2 e } : State).hk (2 : Tile)).lastEnd) < passStart (max (0 : Tm) ((State.reset.modHk 2 fun h => { h with passAt := some 0, entry := 3, seq := (upTo 32).map fun e => Regs.word [] P.HK_SEQ_INPUT 2 e } : State).stretchFrom - 1)) ((State.reset.modHk 2 fun h => { h with passAt := some 0, entry := 3, seq := (upTo 32).map fun e => Regs.word [] P.HK_SEQ_INPUT 2 e } : State).hk (2 : Tile)).period + ((State.reset.modHk 2 fun h => { h with passAt := some 0, entry := 3, seq := (upTo 32).map fun e => Regs.word [] P.HK_SEQ_INPUT 2 e } : State).hk (2 : Tile)).period * usSt) := by
  decide

/-- A state and operands that meet the hypotheses of clause 3 of HousekeepingCompletes. -/
theorem witness_HousekeepingCompletes_3 :
    (State.reset : State).pwr.por = false ∧
    (¬((18 : Fin 24).val = 22 ∧ (3 : Fin 8).val = 7)) ∧
    (State.reset : State).abut = false ∧
    ((State.reset : State).hk (2 : Tile)).asked + 1 + ((State.reset : State).clock (500 * usSt : Tm)).loopRemaining (2 : Tile) ≤ 16 := by
  decide

/-- A state and operands that meet the hypotheses of clause 4 of HousekeepingCompletes. -/
theorem witness_HousekeepingCompletes_4 :
    ((State.reset.modHk 2 fun h => { h with asked := 16 } : State).pwr.por = false) ∧
    (¬((18 : Fin 24).val = 22 ∧ (3 : Fin 8).val = 7)) ∧
    ((State.reset.modHk 2 fun h => { h with asked := 16 } : State).abut = false) ∧
    (16 < ((State.reset.modHk 2 fun h => { h with asked := 16 } : State).hk (2 : Tile)).asked + 1 + ((State.reset.modHk 2 fun h => { h with asked := 16 } : State).clock (500 * usSt : Tm)).loopRemaining (2 : Tile)) := by
  decide

set_option maxRecDepth 100000 in
/-- A state and operands that meet the hypotheses of clause 5 of HousekeepingCompletes. -/
theorem witness_HousekeepingCompletes_5 :
    ((State.reset.modHk 2 fun h => { h with run := some { Conv.reset with entry := 3, input := 4, avg := 8, shift := 3, range := 1 } } : State).pwr.por = false) ∧
    (((((State.reset.modHk 2 fun h => { h with run := some { Conv.reset with entry := 3, input := 4, avg := 8, shift := 3, range := 1 } } : State).clock (usSt * 300 * 20 : Tm)).rampTo (2 : Tile)).hk (2 : Tile)).run = some ({ Conv.reset with entry := 3, input := 4, avg := 8, shift := 3, range := 1 } : Conv)) ∧
    ({ Conv.reset with entry := 3, input := 4, avg := 8, shift := 3, range := 1 } : Conv).frozenAt = none ∧
    (({ Conv.reset with entry := 3, input := 4, avg := 8, shift := 3, range := 1 } : Conv).stop ≤ (State.reset.modHk 2 fun h => { h with run := some { Conv.reset with entry := 3, input := 4, avg := 8, shift := 3, range := 1 } } : State).instant (usSt * 300 * 20 : Tm)) := by
  decide

/-- A state and operands that meet the hypotheses of clause 1 of SliceRotationCompletes. -/
theorem witness_SliceRotationCompletes_1 :
    (withHolder 1 ((State.reset.putB P.ROT_CFG_ENABLE 2 true).putB P.IMP_CFG_ENABLE 2 false) : State).pwr.por = false ∧
    (withHolder 1 ((State.reset.putB P.ROT_CFG_ENABLE 2 true).putB P.IMP_CFG_ENABLE 2 false) : State).leased = true ∧
    (withHolder 1 ((State.reset.putB P.ROT_CFG_ENABLE 2 true).putB P.IMP_CFG_ENABLE 2 false) : State).abut = false ∧
    (withHolder 1 ((State.reset.putB P.ROT_CFG_ENABLE 2 true).putB P.IMP_CFG_ENABLE 2 false) : State).instant (secSt : Tm) % secSt = 0 ∧
    ((withHolder 1 ((State.reset.putB P.ROT_CFG_ENABLE 2 true).putB P.IMP_CFG_ENABLE 2 false) : State).clock (secSt : Tm)).rotPermits (2 : Tile) = true ∧
    (withHolder 1 ((State.reset.putB P.ROT_CFG_ENABLE 2 true).putB P.IMP_CFG_ENABLE 2 false) : State).get P.ROT_STATUS_STATE (2 : Tile) = 0 ∧
    (withHolder 1 ((State.reset.putB P.ROT_CFG_ENABLE 2 true).putB P.IMP_CFG_ENABLE 2 false) : State).maintJudge 1 (2 : Tile) = .run ∧
    ((withHolder 1 ((State.reset.putB P.ROT_CFG_ENABLE 2 true).putB P.IMP_CFG_ENABLE 2 false) : State).clock (secSt : Tm)).visitsDue (2 : Tile) = false := by
  decide

/-- A state and operands that meet the hypotheses of clause 2 of SliceRotationCompletes. -/
theorem witness_SliceRotationCompletes_2 :
    (((State.reset.put P.ROT_STATUS_STATE 2 1).put P.ROT_TOL_MEAN_MAX 0 8).put P.ROT_TOL_RMS_MAX 0 9 : State).pwr.por = false ∧
    (((State.reset.put P.ROT_STATUS_STATE 2 1).put P.ROT_TOL_MEAN_MAX 0 8).put P.ROT_TOL_RMS_MAX 0 9 : State).get P.ROT_STATUS_STATE (2 : Tile) = 1 ∧
    (((State.reset.put P.ROT_STATUS_STATE 2 1).put P.ROT_TOL_MEAN_MAX 0 8).put P.ROT_TOL_RMS_MAX 0 9 : State).get P.ROT_STATUS_STEP (2 : Tile) < 16 ∧
    ((((State.reset.put P.ROT_STATUS_STATE 2 1).put P.ROT_TOL_MEAN_MAX 0 8).put P.ROT_TOL_RMS_MAX 0 9 : State).rot (2 : Tile)).done = false ∧
    ((((State.reset.put P.ROT_STATUS_STATE 2 1).put P.ROT_TOL_MEAN_MAX 0 8).put P.ROT_TOL_RMS_MAX 0 9 : State).rot (2 : Tile)).since + matchLen ≤ (((State.reset.put P.ROT_STATUS_STATE 2 1).put P.ROT_TOL_MEAN_MAX 0 8).put P.ROT_TOL_RMS_MAX 0 9 : State).instant (secSt : Tm) ∧
    (((State.reset.put P.ROT_STATUS_STATE 2 1).put P.ROT_TOL_MEAN_MAX 0 8).put P.ROT_TOL_RMS_MAX 0 9 : State).matchOk (-8 : Int) (9 : Nat) = true := by
  decide

/-- A state and operands that meet the hypotheses of clause 3 of SliceRotationCompletes. -/
theorem witness_SliceRotationCompletes_3 :
    (((State.reset.put P.ROT_STATUS_STATE 2 4).put P.ROT_TOL_MEAN_MAX 0 8).put P.ROT_TOL_RMS_MAX 0 9 : State).pwr.por = false ∧
    (((State.reset.put P.ROT_STATUS_STATE 2 4).put P.ROT_TOL_MEAN_MAX 0 8).put P.ROT_TOL_RMS_MAX 0 9 : State).get P.ROT_STATUS_STATE (2 : Tile) = 4 ∧
    (((State.reset.put P.ROT_STATUS_STATE 2 4).put P.ROT_TOL_MEAN_MAX 0 8).put P.ROT_TOL_RMS_MAX 0 9 : State).get P.ROT_STATUS_STEP (2 : Tile) < 16 ∧
    ((((State.reset.put P.ROT_STATUS_STATE 2 4).put P.ROT_TOL_MEAN_MAX 0 8).put P.ROT_TOL_RMS_MAX 0 9 : State).rot (2 : Tile)).done = false ∧
    ((((State.reset.put P.ROT_STATUS_STATE 2 4).put P.ROT_TOL_MEAN_MAX 0 8).put P.ROT_TOL_RMS_MAX 0 9 : State).rot (2 : Tile)).since + matchLen ≤ (((State.reset.put P.ROT_STATUS_STATE 2 4).put P.ROT_TOL_MEAN_MAX 0 8).put P.ROT_TOL_RMS_MAX 0 9 : State).instant (secSt : Tm) ∧
    (((State.reset.put P.ROT_STATUS_STATE 2 4).put P.ROT_TOL_MEAN_MAX 0 8).put P.ROT_TOL_RMS_MAX 0 9 : State).matchOk (-8 : Int) (9 : Nat) = true := by
  decide

/-- A state and operands that meet the hypotheses of clause 4 of SliceRotationCompletes. -/
theorem witness_SliceRotationCompletes_4 :
    (((State.reset.put P.ROT_STATUS_STATE 2 1).put P.ROT_TOL_MEAN_MAX 0 8).put P.ROT_TOL_RMS_MAX 0 9 : State).pwr.por = false ∧
    (((State.reset.put P.ROT_STATUS_STATE 2 1).put P.ROT_TOL_MEAN_MAX 0 8).put P.ROT_TOL_RMS_MAX 0 9 : State).get P.ROT_STATUS_STATE (2 : Tile) = 1 ∧
    (((State.reset.put P.ROT_STATUS_STATE 2 1).put P.ROT_TOL_MEAN_MAX 0 8).put P.ROT_TOL_RMS_MAX 0 9 : State).get P.ROT_STATUS_STEP (2 : Tile) < 16 ∧
    ((((State.reset.put P.ROT_STATUS_STATE 2 1).put P.ROT_TOL_MEAN_MAX 0 8).put P.ROT_TOL_RMS_MAX 0 9 : State).rot (2 : Tile)).done = false ∧
    ((((State.reset.put P.ROT_STATUS_STATE 2 1).put P.ROT_TOL_MEAN_MAX 0 8).put P.ROT_TOL_RMS_MAX 0 9 : State).rot (2 : Tile)).failed = false ∧
    ((((State.reset.put P.ROT_STATUS_STATE 2 1).put P.ROT_TOL_MEAN_MAX 0 8).put P.ROT_TOL_RMS_MAX 0 9 : State).rot (2 : Tile)).since + matchLen ≤ (((State.reset.put P.ROT_STATUS_STATE 2 1).put P.ROT_TOL_MEAN_MAX 0 8).put P.ROT_TOL_RMS_MAX 0 9 : State).instant (secSt : Tm) ∧
    (((State.reset.put P.ROT_STATUS_STATE 2 1).put P.ROT_TOL_MEAN_MAX 0 8).put P.ROT_TOL_RMS_MAX 0 9 : State).matchOk (-9 : Int) (9 : Nat) = false := by
  decide

/-- A state and operands that meet the hypotheses of clause 5 of SliceRotationCompletes. -/
theorem witness_SliceRotationCompletes_5 :
    ((State.reset.put P.ROT_STATUS_STATE 2 3).put P.ROT_STATUS_STEP 2 7 : State).pwr.por = false ∧
    ((State.reset.put P.ROT_STATUS_STATE 2 3).put P.ROT_STATUS_STEP 2 7 : State).get P.ROT_STATUS_STATE (2 : Tile) = 3 ∧
    ((State.reset.put P.ROT_STATUS_STATE 2 3).put P.ROT_STATUS_STEP 2 7 : State).get P.ROT_STATUS_STEP (2 : Tile) = (7 : Fin 17).val ∧
    (((State.reset.put P.ROT_STATUS_STATE 2 3).put P.ROT_STATUS_STEP 2 7 : State).rot (2 : Tile)).since + calLen ≤ ((State.reset.put P.ROT_STATUS_STATE 2 3).put P.ROT_STATUS_STEP 2 7 : State).instant (secSt : Tm) ∧
    densityOk (100 : Nat) (25 : Nat) (175 : Nat) = true := by
  decide

/-- A state and operands that meet the hypotheses of clause 6 of SliceRotationCompletes. -/
theorem witness_SliceRotationCompletes_6 :
    ((State.reset.put P.ROT_STATUS_STATE 2 6).put P.ROT_STATUS_STEP 2 16 : State).pwr.por = false ∧
    ((State.reset.put P.ROT_STATUS_STATE 2 6).put P.ROT_STATUS_STEP 2 16 : State).get P.ROT_STATUS_STATE (2 : Tile) = 6 ∧
    (((State.reset.put P.ROT_STATUS_STATE 2 6).put P.ROT_STATUS_STEP 2 16 : State).rot (2 : Tile)).done = false ∧
    (16 : Fin 17).val = 16 ∧
    (((State.reset.put P.ROT_STATUS_STATE 2 6).put P.ROT_STATUS_STEP 2 16 : State).rot (2 : Tile)).since + calLen ≤ ((State.reset.put P.ROT_STATUS_STATE 2 6).put P.ROT_STATUS_STEP 2 16 : State).instant (secSt : Tm) ∧
    densityOk (100 : Nat) (25 : Nat) (175 : Nat) = true := by
  decide

/-- A state and operands that meet the hypotheses of clause 1 of BiasLoopCompletes. -/
theorem witness_BiasLoopCompletes_1 :
    ((State.reset.putB P.LOOP_MODE_MODE 3 true).putB P.LOOP_CFG_ENABLE 3 true : State).pwr.por = false ∧
    ((if ((State.reset.putB P.LOOP_MODE_MODE 3 true).putB P.LOOP_CFG_ENABLE 3 true : State).instant (3 * 100 * usSt : Tm) % secSt = 0 then ((State.reset.putB P.LOOP_MODE_MODE 3 true).putB P.LOOP_CFG_ENABLE 3 true : State).get P.LOOP_PERIOD_US 0 else ((State.reset.putB P.LOOP_MODE_MODE 3 true).putB P.LOOP_CFG_ENABLE 3 true : State).loop.period) = (100 : Nat)) ∧
    ((State.reset.putB P.LOOP_MODE_MODE 3 true).putB P.LOOP_CFG_ENABLE 3 true : State).instant (3 * 100 * usSt : Tm) % secSt % ((100 : Nat) * usSt) = 0 ∧
    ((State.reset.putB P.LOOP_MODE_MODE 3 true).putB P.LOOP_CFG_ENABLE 3 true : State).loop.start ≠ some (((State.reset.putB P.LOOP_MODE_MODE 3 true).putB P.LOOP_CFG_ENABLE 3 true : State).instant (3 * 100 * usSt : Tm)) := by
  decide

/-- A state and operands that meet the hypotheses of clause 2 of BiasLoopCompletes. -/
theorem witness_BiasLoopCompletes_2 :
    ((({ State.reset with loop := { LoopSt.reset with start := some 0, applied := false } }).putB P.LOOP_CFG_ENABLE 3 true |>.modHk 3 (fun h => { h with hv := some (5000, 3) }) |>.modLp 3 fun l => { l with asked := true } : State).pwr.por = false) ∧
    ((({ State.reset with loop := { LoopSt.reset with start := some 0, applied := false } }).putB P.LOOP_CFG_ENABLE 3 true |>.modHk 3 (fun h => { h with hv := some (5000, 3) }) |>.modLp 3 fun l => { l with asked := true } : State).loop.start = some (0 : Tm)) ∧
    (((({ State.reset with loop := { LoopSt.reset with start := some 0, applied := false } }).putB P.LOOP_CFG_ENABLE 3 true |>.modHk 3 (fun h => { h with hv := some (5000, 3) }) |>.modLp 3 fun l => { l with asked := true } : State).hk (3 : Tile)).hv = some ((5000, 3) : Nat × Tm)) ∧
    ((({ State.reset with loop := { LoopSt.reset with start := some 0, applied := false } }).putB P.LOOP_CFG_ENABLE 3 true |>.modHk 3 (fun h => { h with hv := some (5000, 3) }) |>.modLp 3 fun l => { l with asked := true } : State).loopReady (3 : Tile) = some (3 : Tm)) ∧
    ((({ State.reset with loop := { LoopSt.reset with start := some 0, applied := false } }).putB P.LOOP_CFG_ENABLE 3 true |>.modHk 3 (fun h => { h with hv := some (5000, 3) }) |>.modLp 3 fun l => { l with asked := true } : State).loopTurn (3 : Tile) (3 : Tm) = true) ∧
    ((3 : Tm) + loopCc ≤ (({ State.reset with loop := { LoopSt.reset with start := some 0, applied := false } }).putB P.LOOP_CFG_ENABLE 3 true |>.modHk 3 (fun h => { h with hv := some (5000, 3) }) |>.modLp 3 fun l => { l with asked := true } : State).instant (3 + loopCc : Tm)) ∧
    ((({ State.reset with loop := { LoopSt.reset with start := some 0, applied := false } }).putB P.LOOP_CFG_ENABLE 3 true |>.modHk 3 (fun h => { h with hv := some (5000, 3) }) |>.modLp 3 fun l => { l with asked := true } : State).loop.applied = false) ∧
    ((({ State.reset with loop := { LoopSt.reset with start := some 0, applied := false } }).putB P.LOOP_CFG_ENABLE 3 true |>.modHk 3 (fun h => { h with hv := some (5000, 3) }) |>.modLp 3 fun l => { l with asked := true } : State).instant (3 + loopCc : Tm) ≤ (0 : Tm) + (({ State.reset with loop := { LoopSt.reset with start := some 0, applied := false } }).putB P.LOOP_CFG_ENABLE 3 true |>.modHk 3 (fun h => { h with hv := some (5000, 3) }) |>.modLp 3 fun l => { l with asked := true } : State).loopLen / 2) ∧
    ((({ State.reset with loop := { LoopSt.reset with start := some 0, applied := false } }).putB P.LOOP_CFG_ENABLE 3 true |>.modHk 3 (fun h => { h with hv := some (5000, 3) }) |>.modLp 3 fun l => { l with asked := true } : State).flag P.LOOP_STATUS_MODE_NOW (3 : Tile) = false) := by
  decide

/-- A state and operands that meet the hypotheses of clause 3 of BiasLoopCompletes. -/
theorem witness_BiasLoopCompletes_3 :
    ((({ State.reset with loop := { LoopSt.reset with start := some 0, applied := false } }).putB P.LOOP_CFG_ENABLE 3 true |>.putB P.LOOP_STATUS_MODE_NOW 3 true |>.modHk 3 (fun h => { h with hv := some (5000, 3) }) |>.modLp 3 fun l => { l with asked := true } : State).pwr.por = false) ∧
    ((({ State.reset with loop := { LoopSt.reset with start := some 0, applied := false } }).putB P.LOOP_CFG_ENABLE 3 true |>.putB P.LOOP_STATUS_MODE_NOW 3 true |>.modHk 3 (fun h => { h with hv := some (5000, 3) }) |>.modLp 3 fun l => { l with asked := true } : State).loop.start = some (0 : Tm)) ∧
    (((({ State.reset with loop := { LoopSt.reset with start := some 0, applied := false } }).putB P.LOOP_CFG_ENABLE 3 true |>.putB P.LOOP_STATUS_MODE_NOW 3 true |>.modHk 3 (fun h => { h with hv := some (5000, 3) }) |>.modLp 3 fun l => { l with asked := true } : State).hk (3 : Tile)).hv = some ((5000, 3) : Nat × Tm)) ∧
    ((({ State.reset with loop := { LoopSt.reset with start := some 0, applied := false } }).putB P.LOOP_CFG_ENABLE 3 true |>.putB P.LOOP_STATUS_MODE_NOW 3 true |>.modHk 3 (fun h => { h with hv := some (5000, 3) }) |>.modLp 3 fun l => { l with asked := true } : State).loopReady (3 : Tile) = some (3 : Tm)) ∧
    ((({ State.reset with loop := { LoopSt.reset with start := some 0, applied := false } }).putB P.LOOP_CFG_ENABLE 3 true |>.putB P.LOOP_STATUS_MODE_NOW 3 true |>.modHk 3 (fun h => { h with hv := some (5000, 3) }) |>.modLp 3 fun l => { l with asked := true } : State).loopTurn (3 : Tile) (3 : Tm) = true) ∧
    ((3 : Tm) + loopCc ≤ (({ State.reset with loop := { LoopSt.reset with start := some 0, applied := false } }).putB P.LOOP_CFG_ENABLE 3 true |>.putB P.LOOP_STATUS_MODE_NOW 3 true |>.modHk 3 (fun h => { h with hv := some (5000, 3) }) |>.modLp 3 fun l => { l with asked := true } : State).instant (3 + loopCc : Tm)) ∧
    ((({ State.reset with loop := { LoopSt.reset with start := some 0, applied := false } }).putB P.LOOP_CFG_ENABLE 3 true |>.putB P.LOOP_STATUS_MODE_NOW 3 true |>.modHk 3 (fun h => { h with hv := some (5000, 3) }) |>.modLp 3 fun l => { l with asked := true } : State).loop.applied = false) ∧
    ((({ State.reset with loop := { LoopSt.reset with start := some 0, applied := false } }).putB P.LOOP_CFG_ENABLE 3 true |>.putB P.LOOP_STATUS_MODE_NOW 3 true |>.modHk 3 (fun h => { h with hv := some (5000, 3) }) |>.modLp 3 fun l => { l with asked := true } : State).instant (3 + loopCc : Tm) ≤ (0 : Tm) + (({ State.reset with loop := { LoopSt.reset with start := some 0, applied := false } }).putB P.LOOP_CFG_ENABLE 3 true |>.putB P.LOOP_STATUS_MODE_NOW 3 true |>.modHk 3 (fun h => { h with hv := some (5000, 3) }) |>.modLp 3 fun l => { l with asked := true } : State).loopLen / 2) ∧
    ((({ State.reset with loop := { LoopSt.reset with start := some 0, applied := false } }).putB P.LOOP_CFG_ENABLE 3 true |>.putB P.LOOP_STATUS_MODE_NOW 3 true |>.modHk 3 (fun h => { h with hv := some (5000, 3) }) |>.modLp 3 fun l => { l with asked := true } : State).flag P.LOOP_STATUS_MODE_NOW (3 : Tile) = true) := by
  decide

/-- A state and operands that meet the hypotheses of clause 4 of BiasLoopCompletes. -/
theorem witness_BiasLoopCompletes_4 :
    ((({ State.reset with loop := { LoopSt.reset with start := some 0, applied := false } }).putB P.LOOP_CFG_ENABLE 3 true |>.modLp 3 fun l => { l with nextU := some 700, asked := true } : State).pwr.por = false) ∧
    ((({ State.reset with loop := { LoopSt.reset with start := some 0, applied := false } }).putB P.LOOP_CFG_ENABLE 3 true |>.modLp 3 fun l => { l with nextU := some 700, asked := true } : State).loop.start = some (0 : Tm)) ∧
    ((({ State.reset with loop := { LoopSt.reset with start := some 0, applied := false } }).putB P.LOOP_CFG_ENABLE 3 true |>.modLp 3 fun l => { l with nextU := some 700, asked := true } : State).loop.applied = false) ∧
    ((0 : Tm) + (({ State.reset with loop := { LoopSt.reset with start := some 0, applied := false } }).putB P.LOOP_CFG_ENABLE 3 true |>.modLp 3 fun l => { l with nextU := some 700, asked := true } : State).loopLen / 2 ≤ (({ State.reset with loop := { LoopSt.reset with start := some 0, applied := false } }).putB P.LOOP_CFG_ENABLE 3 true |>.modLp 3 fun l => { l with nextU := some 700, asked := true } : State).instant (50 * usSt : Tm)) := by
  decide

/-- A state and operands that meet the hypotheses of clause 5 of BiasLoopCompletes. -/
theorem witness_BiasLoopCompletes_5 :
    (State.reset.putB P.LOOP_CFG_ENABLE 3 true : State).pwr.por = false ∧
    ((((State.reset.putB P.LOOP_CFG_ENABLE 3 true : State).lp (3 : Tile)).curAt.map fun a => decide (a + (State.reset.putB P.LOOP_CFG_ENABLE 3 true : State).get P.CUR_HOLD_MS 0 * msSt ≤ (State.reset.putB P.LOOP_CFG_ENABLE 3 true : State).instant (100 * secSt : Tm))).getD (decide ((State.reset.putB P.LOOP_CFG_ENABLE 3 true : State).get P.CUR_HOLD_MS 0 * msSt ≤ ((State.reset.putB P.LOOP_CFG_ENABLE 3 true : State).clock (100 * secSt : Tm)).time.up)) = true) ∧
    (State.reset.putB P.LOOP_CFG_ENABLE 3 true : State).loopRuns (3 : Tile) = true ∧
    (State.reset.putB P.LOOP_CFG_ENABLE 3 true : State).flag P.LOOP_STATUS_CUR_STALE (3 : Tile) = false := by
  decide

/-- A state and operands that meet the hypotheses of clause 1 of HitTimingCompletes. -/
theorem witness_HitTimingCompletes_1 :
    (State.reset.putB P.FAST_CFG_ENABLE 77 true : State).pwr.por = false ∧
    (State.reset.putB P.FAST_CFG_ENABLE 77 true : State).flag P.FAST_CFG_ENABLE (77 : Ch) = true ∧
    (State.reset.putB P.FAST_CFG_ENABLE 77 true : State).abut = false ∧
    (((State.reset.putB P.FAST_CFG_ENABLE 77 true : State).td (77 : Ch)).last.all (fun l => decide (l + 3072 ≤ (State.reset.putB P.FAST_CFG_ENABLE 77 true : State).instant (999999 : Tm))) = true) := by
  decide

/-- A state and operands that meet the hypotheses of clause 2 of HitTimingCompletes. -/
theorem witness_HitTimingCompletes_2 :
    (((State.reset.putB P.FAST_CFG_ENABLE 77 true).modTd 77 fun x => { x with last := some 5000, open_ := [{ HitSt.reset with trail := some 4 }] } : State).pwr.por = false) ∧
    (((State.reset.putB P.FAST_CFG_ENABLE 77 true).modTd 77 fun x => { x with last := some 5000, open_ := [{ HitSt.reset with trail := some 4 }] } : State).flag P.FAST_CFG_ENABLE (77 : Ch) = true) ∧
    (((State.reset.putB P.FAST_CFG_ENABLE 77 true).modTd 77 fun x => { x with last := some 5000, open_ := [{ HitSt.reset with trail := some 4 }] } : State).abut = false) ∧
    ((((State.reset.putB P.FAST_CFG_ENABLE 77 true).modTd 77 fun x => { x with last := some 5000, open_ := [{ HitSt.reset with trail := some 4 }] } : State).td (77 : Ch)).last = some (5000 : Tm)) ∧
    (((State.reset.putB P.FAST_CFG_ENABLE 77 true).modTd 77 fun x => { x with last := some 5000, open_ := [{ HitSt.reset with trail := some 4 }] } : State).instant (5900 : Tm) < (5000 : Tm) + 3072) := by
  decide

/-- A state and operands that meet the hypotheses of clause 3 of HitTimingCompletes. -/
theorem witness_HitTimingCompletes_3 :
    (State.reset.putB P.FAST_CFG_ENABLE 77 false : State).pwr.por = false ∧
    (State.reset.putB P.FAST_CFG_ENABLE 77 false : State).flag P.FAST_CFG_ENABLE (77 : Ch) = false := by
  decide

/-- A state and operands that meet the hypotheses of clause 4 of HitTimingCompletes. -/
theorem witness_HitTimingCompletes_4 :
    ((State.reset.modTd 77 fun x => { x with open_ := [{ HitSt.reset with lead := 1024 }] } : State).pwr.por = false) ∧
    (((State.reset.modTd 77 fun x => { x with open_ := [{ HitSt.reset with lead := 1024 }] } : State).td (77 : Ch)).open_.find? (·.trail.isNone) = some ({ HitSt.reset with lead := 1024 } : HitSt)) ∧
    ((State.reset.modTd 77 fun x => { x with open_ := [{ HitSt.reset with lead := 1024 }] } : State).instant (5900 : Tm) < ({ HitSt.reset with lead := 1024 } : HitSt).lead + 4095 * ccSt) := by
  decide

/-- A state and operands that meet the hypotheses of clause 5 of HitTimingCompletes. -/
theorem witness_HitTimingCompletes_5 :
    ((State.reset.modTd 77 fun x => { x with open_ := [{ HitSt.reset with lead := 1024 }] } : State).pwr.por = false) ∧
    (((State.reset.modTd 77 fun x => { x with open_ := [{ HitSt.reset with lead := 1024 }] } : State).td (77 : Ch)).open_.find? (·.trail.isNone) = some ({ HitSt.reset with lead := 1024 } : HitSt)) ∧
    (({ HitSt.reset with lead := 1024 } : HitSt).lead + 4095 * ccSt ≤ (State.reset.modTd 77 fun x => { x with open_ := [{ HitSt.reset with lead := 1024 }] } : State).instant (4096 * 1024 : Tm)) := by
  decide

/-- A state and operands that meet the hypotheses of clause 6 of HitTimingCompletes. -/
theorem witness_HitTimingCompletes_6 :
    (((State.reset.putB P.FAST_CFG_ENABLE 77 true).modTd 77 fun x => { x with open_ := [{ HitSt.reset with raw := 20480, lead := 20480, trail := some 24576, tot := 3, at_ := ⟨0, 900⟩ }] } : State).pwr.por = false) ∧
    ((((State.reset.putB P.FAST_CFG_ENABLE 77 true).modTd 77 fun x => { x with open_ := [{ HitSt.reset with raw := 20480, lead := 20480, trail := some 24576, tot := 3, at_ := ⟨0, 900⟩ }] } : State).td (77 : Ch)).open_ = ({ HitSt.reset with raw := 20480, lead := 20480, trail := some 24576, tot := 3, at_ := ⟨0, 900⟩ } : HitSt) :: ([] : List HitSt)) ∧
    ((((State.reset.putB P.FAST_CFG_ENABLE 77 true).modTd 77 fun x => { x with open_ := [{ HitSt.reset with raw := 20480, lead := 20480, trail := some 24576, tot := 3, at_ := ⟨0, 900⟩ }] } : State).clock (60000 : Tm)).hitReady (77 : Ch) ({ HitSt.reset with raw := 20480, lead := 20480, trail := some 24576, tot := 3, at_ := ⟨0, 900⟩ } : HitSt) = true) ∧
    (([⟨700, 44, false, false⟩, ⟨4000, 250, false, false⟩, ⟨650, 40, false, false⟩] : List Lvl).length = (((State.reset.putB P.FAST_CFG_ENABLE 77 true).modTd 77 fun x => { x with open_ := [{ HitSt.reset with raw := 20480, lead := 20480, trail := some 24576, tot := 3, at_ := ⟨0, 900⟩ }] } : State).peakWindow (77 : Ch) ({ HitSt.reset with raw := 20480, lead := 20480, trail := some 24576, tot := 3, at_ := ⟨0, 900⟩ } : HitSt)).2) := by
  decide

/-- A state and operands that meet the hypotheses of clause 7 of HitTimingCompletes. -/
theorem witness_HitTimingCompletes_7 :
    ((State.reset.modPair 270 fun p => { p with b := { Ip.reset with stop := 50, test := some 900 } } : State).pwr.por = false) ∧
    ((((State.reset.modPair 270 fun p => { p with b := { Ip.reset with stop := 50, test := some 900 } } : State).pair (270 : Fin 271)).ip (1 : Fin 2)).stop ≤ (State.reset.modPair 270 fun p => { p with b := { Ip.reset with stop := 50, test := some 900 } } : State).instant (50 : Tm)) := by
  decide

/-- A state and operands that meet the hypotheses of clause 8 of HitTimingCompletes. -/
theorem witness_HitTimingCompletes_8 :
    ({ State.reset.putB P.FAST_CFG_ENABLE 77 false with pwr := { PwrSt.reset with acq := true } } : State).pwr.por = false ∧
    ({ State.reset.putB P.FAST_CFG_ENABLE 77 false with pwr := { PwrSt.reset with acq := true } } : State).acquiring = true ∧
    (({ State.reset.putB P.FAST_CFG_ENABLE 77 false with pwr := { PwrSt.reset with acq := true } } : State).instant (5 * msSt : Tm) % msSt = 0 ∨ ({ State.reset.putB P.FAST_CFG_ENABLE 77 false with pwr := { PwrSt.reset with acq := true } } : State).instant (5 * msSt : Tm) = ({ State.reset.putB P.FAST_CFG_ENABLE 77 false with pwr := { PwrSt.reset with acq := true } } : State).time.last) ∧
    ({ State.reset.putB P.FAST_CFG_ENABLE 77 false with pwr := { PwrSt.reset with acq := true } } : State).tdc.interval ≠ some (({ State.reset.putB P.FAST_CFG_ENABLE 77 false with pwr := { PwrSt.reset with acq := true } } : State).clock (5 * msSt : Tm)).stamp := by
  decide

/-- A state and operands that meet the hypotheses of clause 9 of HitTimingCompletes. -/
theorem witness_HitTimingCompletes_9 :
    (((State.reset.putB P.DECK_STATUS_ONLINE 0 true).modTd 77 fun x => { x with blocks := [{ Blk.reset with due := 50, deck := true }] } : State).pwr.por = false) ∧
    (((((State.reset.putB P.DECK_STATUS_ONLINE 0 true).modTd 77 fun x => { x with blocks := [{ Blk.reset with due := 50, deck := true }] } : State).td (77 : Ch)).blocks.filter fun y => !(y.sent && decide (y.due ≤ ((State.reset.putB P.DECK_STATUS_ONLINE 0 true).modTd 77 fun x => { x with blocks := [{ Blk.reset with due := 50, deck := true }] } : State).instant (50 : Tm)))) = ({ Blk.reset with due := 50, deck := true } : Blk) :: ([] : List Blk)) ∧
    ({ Blk.reset with due := 50, deck := true } : Blk).sent = false ∧
    (({ Blk.reset with due := 50, deck := true } : Blk).due ≤ ((State.reset.putB P.DECK_STATUS_ONLINE 0 true).modTd 77 fun x => { x with blocks := [{ Blk.reset with due := 50, deck := true }] } : State).instant (50 : Tm)) := by
  decide

/-- A state and operands that meet the hypotheses of clause 1 of CalibrationAndGaugeComplete. -/
theorem witness_CalibrationAndGaugeComplete_1 :
    (((withHolder 1 { State.reset.putB P.TDC_CAL_ENABLE 0 false with mbox := { MboxSt.reset with tdcAsk := [3, 258] } }).modPair 258 fun p => { p with unlocked := false } : State).pwr.por = false) ∧
    (((withHolder 1 { State.reset.putB P.TDC_CAL_ENABLE 0 false with mbox := { MboxSt.reset with tdcAsk := [3, 258] } }).modPair 258 fun p => { p with unlocked := false } : State).leased = true) ∧
    (((withHolder 1 { State.reset.putB P.TDC_CAL_ENABLE 0 false with mbox := { MboxSt.reset with tdcAsk := [3, 258] } }).modPair 258 fun p => { p with unlocked := false } : State).abut = false) ∧
    ((((withHolder 1 { State.reset.putB P.TDC_CAL_ENABLE 0 false with mbox := { MboxSt.reset with tdcAsk := [3, 258] } }).modPair 258 fun p => { p with unlocked := false } : State).clock (50 : Tm)).visitNext (visitScope (258 : Fin 268)) = some (258 : Fin 268).val) ∧
    (((withHolder 1 { State.reset.putB P.TDC_CAL_ENABLE 0 false with mbox := { MboxSt.reset with tdcAsk := [3, 258] } }).modPair 258 fun p => { p with unlocked := false } : State).core.run.any (fun a => a.code == 2 && visitScope a.unit == visitScope (258 : Fin 268)) = false) ∧
    (((withHolder 1 { State.reset.putB P.TDC_CAL_ENABLE 0 false with mbox := { MboxSt.reset with tdcAsk := [3, 258] } }).modPair 258 fun p => { p with unlocked := false } : State).maintJudge 2 (258 : Fin 268) = .run) := by
  decide

/-- A state and operands that meet the hypotheses of clause 2 of CalibrationAndGaugeComplete. -/
theorem witness_CalibrationAndGaugeComplete_2 :
    ((State.reset.modPair 258 fun p => { p with visitAt := some 3, a := { p.a with n := 73728 }, b := { p.b with n := 73728 } } : State).pwr.por = false) ∧
    (((State.reset.modPair 258 fun p => { p with visitAt := some 3, a := { p.a with n := 73728 }, b := { p.b with n := 73728 } } : State).pair (visitOf (270 : Fin 271))).visitAt ≠ none) ∧
    ((270 : Fin 271).val < 268 ∨ (State.reset.modPair 258 fun p => { p with visitAt := some 3, a := { p.a with n := 73728 }, b := { p.b with n := 73728 } } : State).pairDone (visitOf (270 : Fin 271)) = true) ∧
    (((State.reset.modPair 258 fun p => { p with visitAt := some 3, a := { p.a with n := 73728 }, b := { p.b with n := 73728 } } : State).pair (270 : Fin 271)).a.free ((State.reset.modPair 258 fun p => { p with visitAt := some 3, a := { p.a with n := 73728 }, b := { p.b with n := 73728 } } : State).instant (50 : Tm)) = true) ∧
    (((State.reset.modPair 258 fun p => { p with visitAt := some 3, a := { p.a with n := 73728 }, b := { p.b with n := 73728 } } : State).pair (270 : Fin 271)).b.free ((State.reset.modPair 258 fun p => { p with visitAt := some 3, a := { p.a with n := 73728 }, b := { p.b with n := 73728 } } : State).instant (50 : Tm)) = true) ∧
    (((State.reset.modPair 258 fun p => { p with visitAt := some 3, a := { p.a with n := 73728 }, b := { p.b with n := 73728 } } : State).pair (270 : Fin 271)).edge.all (fun e => decide (e + 24 * ccSt ≤ (State.reset.modPair 258 fun p => { p with visitAt := some 3, a := { p.a with n := 73728 }, b := { p.b with n := 73728 } } : State).instant (50 : Tm))) = true) ∧
    (((((State.reset.modPair 258 fun p => { p with visitAt := some 3, a := { p.a with n := 73728 }, b := { p.b with n := 73728 } } : State).pair (270 : Fin 271)).ip (1 : Fin 2)).collect ((State.reset.modPair 258 fun p => { p with visitAt := some 3, a := { p.a with n := 73728 }, b := { p.b with n := 73728 } } : State).instant (50 : Tm))).n < (State.reset.modPair 258 fun p => { p with visitAt := some 3, a := { p.a with n := 73728 }, b := { p.b with n := 73728 } } : State).testsDue) := by
  decide

/-- A state and operands that meet the hypotheses of clause 3 of CalibrationAndGaugeComplete. -/
theorem witness_CalibrationAndGaugeComplete_3 :
    ((((State.reset.putB P.TDC_CAL_CD_EN 0 true).modPair 77 fun p => { p with visitAt := some 3, a := { p.a with n := 73728, hist := [(100, 65536)] }, b := { p.b with n := 73728 } }).maintBegin 2 77 false : State).pwr.por = false) ∧
    (((((State.reset.putB P.TDC_CAL_CD_EN 0 true).modPair 77 fun p => { p with visitAt := some 3, a := { p.a with n := 73728, hist := [(100, 65536)] }, b := { p.b with n := 73728 } }).maintBegin 2 77 false : State).pair (77 : Fin 268)).visitAt = some (3 : Tm)) ∧
    ((((State.reset.putB P.TDC_CAL_CD_EN 0 true).modPair 77 fun p => { p with visitAt := some 3, a := { p.a with n := 73728, hist := [(100, 65536)] }, b := { p.b with n := 73728 } }).maintBegin 2 77 false : State).instant (secSt : Tm) ≤ (3 : Tm) + secSt) ∧
    ((visitPairs (77 : Fin 268)).all (((((State.reset.putB P.TDC_CAL_CD_EN 0 true).modPair 77 fun p => { p with visitAt := some 3, a := { p.a with n := 73728, hist := [(100, 65536)] }, b := { p.b with n := 73728 } }).maintBegin 2 77 false : State).clock (secSt : Tm)).each (visitPairs (77 : Fin 268)) State.pairCollect).pairDone = true) := by
  decide

/-- A state and operands that meet the hypotheses of clause 4 of CalibrationAndGaugeComplete. -/
theorem witness_CalibrationAndGaugeComplete_4 :
    ((((State.reset.putB P.TDC_CAL_CD_EN 0 false).modPair 258 (fun p => { p with visitAt := some 3, a := { p.a with n := 8192 }, b := { p.b with n := 8192 } })).modPair 270 (fun p => { p with a := { p.a with n := 8192 }, b := { p.b with n := 8191 } }) : State).pwr.por = false) ∧
    (((((State.reset.putB P.TDC_CAL_CD_EN 0 false).modPair 258 (fun p => { p with visitAt := some 3, a := { p.a with n := 8192 }, b := { p.b with n := 8192 } })).modPair 270 (fun p => { p with a := { p.a with n := 8192 }, b := { p.b with n := 8191 } }) : State).pair (258 : Fin 268)).visitAt = some (3 : Tm)) ∧
    ((((State.reset.putB P.TDC_CAL_CD_EN 0 false).modPair 258 (fun p => { p with visitAt := some 3, a := { p.a with n := 8192 }, b := { p.b with n := 8192 } })).modPair 270 (fun p => { p with a := { p.a with n := 8192 }, b := { p.b with n := 8191 } }) : State).instant (secSt : Tm) ≤ (3 : Tm) + secSt) ∧
    ((visitPairs (258 : Fin 268)).all (((((State.reset.putB P.TDC_CAL_CD_EN 0 false).modPair 258 (fun p => { p with visitAt := some 3, a := { p.a with n := 8192 }, b := { p.b with n := 8192 } })).modPair 270 (fun p => { p with a := { p.a with n := 8192 }, b := { p.b with n := 8191 } }) : State).clock (secSt : Tm)).visitMade (258 : Fin 268) ([5] : List (BitVec 12)) ([] : List (BitVec 12)) ([(7, 9), (3, 4)] : List (BitVec 12 × BitVec 12))).pairDone = true) := by
  decide

/-- A state and operands that meet the hypotheses of clause 5 of CalibrationAndGaugeComplete. -/
theorem witness_CalibrationAndGaugeComplete_5 :
    (((State.reset.putB P.TDC_CAL_CD_EN 0 false).modPair 77 fun p => { p with visitAt := some 3, a := { p.a with n := 8190 }, b := { p.b with n := 8191 } } : State).pwr.por = false) ∧
    (77 : Fin 268).val < 256 ∧
    ((((State.reset.putB P.TDC_CAL_CD_EN 0 false).modPair 77 fun p => { p with visitAt := some 3, a := { p.a with n := 8190 }, b := { p.b with n := 8191 } } : State).pair (77 : Fin 268)).visitAt = some (3 : Tm)) ∧
    (((State.reset.putB P.TDC_CAL_CD_EN 0 false).modPair 77 fun p => { p with visitAt := some 3, a := { p.a with n := 8190 }, b := { p.b with n := 8191 } } : State).instant (secSt : Tm) ≤ (3 : Tm) + secSt) ∧
    ((3 : Tm) + 24 * ccSt * (2 * ((State.reset.putB P.TDC_CAL_CD_EN 0 false).modPair 77 fun p => { p with visitAt := some 3, a := { p.a with n := 8190 }, b := { p.b with n := 8191 } } : State).testsDue) ≤ ((State.reset.putB P.TDC_CAL_CD_EN 0 false).modPair 77 fun p => { p with visitAt := some 3, a := { p.a with n := 8190 }, b := { p.b with n := 8191 } } : State).instant (secSt : Tm)) ∧
    ((((State.reset.putB P.TDC_CAL_CD_EN 0 false).modPair 77 fun p => { p with visitAt := some 3, a := { p.a with n := 8190 }, b := { p.b with n := 8191 } } : State).pair (77 : Fin 268)).edge.all (fun e => decide (e ≤ (3 : Tm))) = true) ∧
    ((((State.reset.putB P.TDC_CAL_CD_EN 0 false).modPair 77 fun p => { p with visitAt := some 3, a := { p.a with n := 8190 }, b := { p.b with n := 8191 } } : State).pair (77 : Fin 268)).a.test = none ∧ (((State.reset.putB P.TDC_CAL_CD_EN 0 false).modPair 77 fun p => { p with visitAt := some 3, a := { p.a with n := 8190 }, b := { p.b with n := 8191 } } : State).pair (77 : Fin 268)).b.test = none) ∧
    ((((State.reset.putB P.TDC_CAL_CD_EN 0 false).modPair 77 fun p => { p with visitAt := some 3, a := { p.a with n := 8190 }, b := { p.b with n := 8191 } } : State).pair (77 : Fin 268)).a.n + ([5, 6] : List (BitVec 12)).length = ((State.reset.putB P.TDC_CAL_CD_EN 0 false).modPair 77 fun p => { p with visitAt := some 3, a := { p.a with n := 8190 }, b := { p.b with n := 8191 } } : State).testsDue) ∧
    ((((State.reset.putB P.TDC_CAL_CD_EN 0 false).modPair 77 fun p => { p with visitAt := some 3, a := { p.a with n := 8190 }, b := { p.b with n := 8191 } } : State).pair (77 : Fin 268)).b.n + ([7] : List (BitVec 12)).length = ((State.reset.putB P.TDC_CAL_CD_EN 0 false).modPair 77 fun p => { p with visitAt := some 3, a := { p.a with n := 8190 }, b := { p.b with n := 8191 } } : State).testsDue) := by
  decide

/-- A state and operands that meet the hypotheses of clause 6 of CalibrationAndGaugeComplete. -/
theorem witness_CalibrationAndGaugeComplete_6 :
    (((State.reset.modPair 77 fun p => { p with visitAt := some 3 }).maintBegin 2 77 false : State).pwr.por = false) ∧
    ((((State.reset.modPair 77 fun p => { p with visitAt := some 3 }).maintBegin 2 77 false : State).pair (77 : Fin 268)).visitAt = some (3 : Tm)) ∧
    ((3 : Tm) + secSt ≤ ((State.reset.modPair 77 fun p => { p with visitAt := some 3 }).maintBegin 2 77 false : State).instant (secSt + 3 : Tm)) := by
  decide

/-- A state and operands that meet the hypotheses of clause 7 of CalibrationAndGaugeComplete. -/
theorem witness_CalibrationAndGaugeComplete_7 :
    (((State.reset.putB P.TDC_CAL_STATUS_CAL_VALID 77 true).modTd 77 fun x => { x with blocks := [{ Blk.reset with stop := 100000 * secSt }] } : State).pwr.por = false) ∧
    (((State.reset.putB P.TDC_CAL_STATUS_CAL_VALID 77 true).modTd 77 fun x => { x with blocks := [{ Blk.reset with stop := 100000 * secSt }] } : State).flag P.TDC_CAL_STATUS_CAL_VALID (77 : Ch) = true) ∧
    ((((State.reset.putB P.TDC_CAL_STATUS_CAL_VALID 77 true).modTd 77 fun x => { x with blocks := [{ Blk.reset with stop := 100000 * secSt }] } : State).pair (77 : Ch)).fitAt + 3 * ((State.reset.putB P.TDC_CAL_STATUS_CAL_VALID 77 true).modTd 77 fun x => { x with blocks := [{ Blk.reset with stop := 100000 * secSt }] } : State).get P.TDC_CAL_EVERY 0 * secSt < ((State.reset.putB P.TDC_CAL_STATUS_CAL_VALID 77 true).modTd 77 fun x => { x with blocks := [{ Blk.reset with stop := 100000 * secSt }] } : State).instant (99999 * secSt : Tm)) := by
  decide

/-- A state and operands that meet the hypotheses of clause 8 of CalibrationAndGaugeComplete. -/
theorem witness_CalibrationAndGaugeComplete_8 :
    ((State.reset.modPair 267 fun p => { p with unlocked := false } : State).pwr.por = false) ∧
    (((State.reset.modPair 267 fun p => { p with unlocked := false } : State).pair (267 : Fin 268)).unlocked = false) := by
  decide

/-- A state and operands that meet the hypotheses of clause 9 of CalibrationAndGaugeComplete. -/
theorem witness_CalibrationAndGaugeComplete_9 :
    ((State.reset.modPair 77 fun p => { p with unlocked := true } : State).pwr.por = false) := by
  decide

/-- A state and operands that meet the hypotheses of clause 10 of CalibrationAndGaugeComplete. -/
theorem witness_CalibrationAndGaugeComplete_10 :
    ((State.reset.modGauge 3 fun x => { x with start := some 4, input := 1, prescale := 4, skip := 2 } : State).pwr.por = false) ∧
    (((State.reset.modGauge 3 fun x => { x with start := some 4, input := 1, prescale := 4, skip := 2 } : State).gauge (3 : Fin 8)).counts (false : Bool) = false) := by
  decide

/-- A state and operands that meet the hypotheses of clause 11 of CalibrationAndGaugeComplete. -/
theorem witness_CalibrationAndGaugeComplete_11 :
    ((State.reset.modGauge 3 fun x => { x with start := some 4, input := 1, prescale := 4, skip := 2 } : State).pwr.por = false) ∧
    ((State.reset.modGauge 3 fun x => { x with start := some 4, input := 1, prescale := 4, skip := 2 } : State).abut = false) ∧
    (((State.reset.modGauge 3 fun x => { x with start := some 4, input := 1, prescale := 4, skip := 2 } : State).gauge (3 : Fin 8)).start ≠ none) ∧
    (((State.reset.modGauge 3 fun x => { x with start := some 4, input := 1, prescale := 4, skip := 2 } : State).gauge (3 : Fin 8)).input ≠ 0x10) ∧
    (((State.reset.modGauge 3 fun x => { x with start := some 4, input := 1, prescale := 4, skip := 2 } : State).gauge (3 : Fin 8)).counts (true : Bool) = true) ∧
    (((State.reset.modGauge 3 fun x => { x with start := some 4, input := 1, prescale := 4, skip := 2 } : State).gauge (3 : Fin 8)).skip + 1 < ((State.reset.modGauge 3 fun x => { x with start := some 4, input := 1, prescale := 4, skip := 2 } : State).gauge (3 : Fin 8)).prescale) := by
  decide

/-- A state and operands that meet the hypotheses of clause 12 of CalibrationAndGaugeComplete. -/
theorem witness_CalibrationAndGaugeComplete_12 :
    ((State.reset.modGauge 3 fun x => { x with start := some 4, input := 1, prescale := 4, skip := 3 } : State).pwr.por = false) ∧
    ((State.reset.modGauge 3 fun x => { x with start := some 4, input := 1, prescale := 4, skip := 3 } : State).abut = false) ∧
    (((State.reset.modGauge 3 fun x => { x with start := some 4, input := 1, prescale := 4, skip := 3 } : State).gauge (3 : Fin 8)).start ≠ none) ∧
    (((State.reset.modGauge 3 fun x => { x with start := some 4, input := 1, prescale := 4, skip := 3 } : State).gauge (3 : Fin 8)).input ≠ 0x10) ∧
    (((State.reset.modGauge 3 fun x => { x with start := some 4, input := 1, prescale := 4, skip := 3 } : State).gauge (3 : Fin 8)).counts (true : Bool) = true) ∧
    (((State.reset.modGauge 3 fun x => { x with start := some 4, input := 1, prescale := 4, skip := 3 } : State).gauge (3 : Fin 8)).prescale ≤ ((State.reset.modGauge 3 fun x => { x with start := some 4, input := 1, prescale := 4, skip := 3 } : State).gauge (3 : Fin 8)).skip + 1) := by
  decide

/-- A state and operands that meet the hypotheses of clause 13 of CalibrationAndGaugeComplete. -/
theorem witness_CalibrationAndGaugeComplete_13 :
    (((State.reset.put P.GAUGE_SEL_INPUT 3 1).modGauge 3 fun x => { x with start := some 0, input := 1, prescale := 1, gate := 0, period := 1000000, stamps := [(3, 2000010), (2, 1000005), (1, 3)], count := 3 } : State).pwr.por = false) ∧
    (((State.reset.put P.GAUGE_SEL_INPUT 3 1).modGauge 3 fun x => { x with start := some 0, input := 1, prescale := 1, gate := 0, period := 1000000, stamps := [(3, 2000010), (2, 1000005), (1, 3)], count := 3 } : State).abut = false) ∧
    ((((State.reset.put P.GAUGE_SEL_INPUT 3 1).modGauge 3 fun x => { x with start := some 0, input := 1, prescale := 1, gate := 0, period := 1000000, stamps := [(3, 2000010), (2, 1000005), (1, 3)], count := 3 } : State).gauge (3 : Fin 8)).start = some (0 : Tm)) ∧
    (gateLen (((State.reset.put P.GAUGE_SEL_INPUT 3 1).modGauge 3 fun x => { x with start := some 0, input := 1, prescale := 1, gate := 0, period := 1000000, stamps := [(3, 2000010), (2, 1000005), (1, 3)], count := 3 } : State).gauge (3 : Fin 8)).gate = (msSt : Nat)) ∧
    ((0 : Tm) + (msSt : Nat) ≤ ((State.reset.put P.GAUGE_SEL_INPUT 3 1).modGauge 3 fun x => { x with start := some 0, input := 1, prescale := 1, gate := 0, period := 1000000, stamps := [(3, 2000010), (2, 1000005), (1, 3)], count := 3 } : State).instant (msSt : Tm)) ∧
    (storeStep (ceilDiv (msSt : Nat) (max 1 (((State.reset.put P.GAUGE_SEL_INPUT 3 1).modGauge 3 fun x => { x with start := some 0, input := 1, prescale := 1, gate := 0, period := 1000000, stamps := [(3, 2000010), (2, 1000005), (1, 3)], count := 3 } : State).gauge (3 : Fin 8)).nominal)) 1 40 = (1 : Nat)) := by
  decide

/-- A state and operands that meet the hypotheses of clause 1 of SpanSwapsComplete. -/
theorem witness_SpanSwapsComplete_1 :
    (withHolder 1 (({ State.reset with time := { TimeSt.reset with next := secSt, pend := [⟨7, 1, 2, none⟩, ⟨8, 1, 3, some secSt⟩] } }).put P.SWAP_CFG_ARMED 0 2) : State).pwr.por = false ∧
    (withHolder 1 (({ State.reset with time := { TimeSt.reset with next := secSt, pend := [⟨7, 1, 2, none⟩, ⟨8, 1, 3, some secSt⟩] } }).put P.SWAP_CFG_ARMED 0 2) : State).leased = true := by
  decide

/-- A state and operands that meet the hypotheses of clause 2 of SpanSwapsComplete. -/
theorem witness_SpanSwapsComplete_2 :
    (State.reset : State).pwr.por = false ∧
    (State.reset : State).leased = false := by
  decide

/-- A state and operands that meet the hypotheses of clause 3 of SpanSwapsComplete. -/
theorem witness_SpanSwapsComplete_3 :
    ({ State.reset with time := { TimeSt.reset with next := secSt, pend := [⟨7, 1, 2, none⟩, ⟨8, 1, 3, some secSt⟩] } } : State).pwr.por = false ∧
    ({ State.reset with time := { TimeSt.reset with next := secSt, pend := [⟨7, 1, 2, none⟩, ⟨8, 1, 3, some secSt⟩] } } : State).time.next ≤ ({ State.reset with time := { TimeSt.reset with next := secSt, pend := [⟨7, 1, 2, none⟩, ⟨8, 1, 3, some secSt⟩] } } : State).instant (secSt : Tm) + cutoffLen := by
  decide

/-- A state and operands that meet the hypotheses of clause 4 of SpanSwapsComplete. -/
theorem witness_SpanSwapsComplete_4 :
    (State.reset : State).pwr.por = false ∧
    ((State.reset : State).time.steps.any (fun p => p.b == (secSt : Tm) && p.epoch == (0 : Nat)) = false) ∧
    (0 : Nat) = (State.reset : State).time.epoch ∧
    (State.reset : State).time.next ≤ (secSt : Tm) := by
  decide

/-- A state and operands that meet the hypotheses of clause 5 of SpanSwapsComplete. -/
theorem witness_SpanSwapsComplete_5 :
    (State.reset : State).pwr.por = false ∧
    ((State.reset : State).time.steps.any (fun p => p.b == (secSt : Tm) && p.epoch == (1 : Nat)) = false) ∧
    ((1 : Nat) ≠ (State.reset : State).time.epoch ∨ (secSt : Tm) < (State.reset : State).time.next) := by
  decide

/-- A state and operands that meet the hypotheses of clause 6 of SpanSwapsComplete. -/
theorem witness_SpanSwapsComplete_6 :
    ({ wLease with time := { wLease.time with next := msSt } } : State).pwr.por = false ∧
    ({ wLease with time := { wLease.time with next := msSt } } : State).time.next ≤ ({ wLease with time := { wLease.time with next := msSt } } : State).instant (msSt : Tm) ∧
    ({ wLease with time := { wLease.time with next := msSt } } : State).time.steps = [] ∧
    max ({ wLease with time := { wLease.time with next := msSt } } : State).time.next (({ wLease with time := { wLease.time with next := msSt } } : State).instant (msSt : Tm) / ({ wLease with time := { wLease.time with next := msSt } } : State).spanLen * ({ wLease with time := { wLease.time with next := msSt } } : State).spanLen) = (msSt : Tm) := by
  decide

/-- A state and operands that meet the hypotheses of clause 7 of SpanSwapsComplete. -/
theorem witness_SpanSwapsComplete_7 :
    ({ wLease with time := { wLease.time with next := msSt, pend := [⟨P.DISC_THR_THRESHOLD.id 77 0, 300, 0, some 5⟩] } } : State).pwr.por = false ∧
    ({ wLease with time := { wLease.time with next := msSt, pend := [⟨P.DISC_THR_THRESHOLD.id 77 0, 300, 0, some 5⟩] } } : State).time.next ≤ ({ wLease with time := { wLease.time with next := msSt, pend := [⟨P.DISC_THR_THRESHOLD.id 77 0, 300, 0, some 5⟩] } } : State).instant (msSt : Tm) ∧
    ({ wLease with time := { wLease.time with next := msSt, pend := [⟨P.DISC_THR_THRESHOLD.id 77 0, 300, 0, some 5⟩] } } : State).time.steps = [] ∧
    max ({ wLease with time := { wLease.time with next := msSt, pend := [⟨P.DISC_THR_THRESHOLD.id 77 0, 300, 0, some 5⟩] } } : State).time.next (({ wLease with time := { wLease.time with next := msSt, pend := [⟨P.DISC_THR_THRESHOLD.id 77 0, 300, 0, some 5⟩] } } : State).instant (msSt : Tm) / ({ wLease with time := { wLease.time with next := msSt, pend := [⟨P.DISC_THR_THRESHOLD.id 77 0, 300, 0, some 5⟩] } } : State).spanLen * ({ wLease with time := { wLease.time with next := msSt, pend := [⟨P.DISC_THR_THRESHOLD.id 77 0, 300, 0, some 5⟩] } } : State).spanLen) = (msSt : Tm) ∧
    ([] : List Nat) = [] ∧
    ({ wLease with time := { wLease.time with next := msSt, pend := [⟨P.DISC_THR_THRESHOLD.id 77 0, 300, 0, some 5⟩] } } : State).mem.badWords = [] ∧
    ({ wLease with time := { wLease.time with next := msSt, pend := [⟨P.DISC_THR_THRESHOLD.id 77 0, 300, 0, some 5⟩] } } : State).time.staged = [] ∧
    ({ wLease with time := { wLease.time with next := msSt, pend := [⟨P.DISC_THR_THRESHOLD.id 77 0, 300, 0, some 5⟩] } } : State).time.pend = [(⟨P.DISC_THR_THRESHOLD.id 77 0, 300, 0, some 5⟩ : Pend)] ∧
    (⟨P.DISC_THR_THRESHOLD.id 77 0, 300, 0, some 5⟩ : Pend).id = P.DISC_THR_THRESHOLD.id (77 : Ch) 0 ∧
    (⟨P.DISC_THR_THRESHOLD.id 77 0, 300, 0, some 5⟩ : Pend).due = some (5 : Tm) ∧
    (5 : Tm) ≤ (msSt : Tm) := by
  decide

/-- A state and operands that meet the hypotheses of clause 1 of TimeExchangeCompletes. -/
theorem witness_TimeExchangeCompletes_1 :
    ((State.reset.putB P.TIME_PORT_CFG_SYNC_EN 2 true).put P.FAB_PORT_STATUS_STATE 2 3 : State).pwr.por = false ∧
    ((State.reset.putB P.TIME_PORT_CFG_SYNC_EN 2 true).put P.FAB_PORT_STATUS_STATE 2 3 : State).syncRuns (2 : Port) = true ∧
    (⟨0, 9, 3, 77, 5000, true, 0, 700, .sync⟩ : TimeMsg).domain = ((State.reset.putB P.TIME_PORT_CFG_SYNC_EN 2 true).put P.FAB_PORT_STATUS_STATE 2 3 : State).get P.TIME_CFG_DOMAIN 0 ∧
    (⟨0, 9, 3, 77, 5000, true, 0, 700, .sync⟩ : TimeMsg).body = .sync := by
  decide

/-- A state and operands that meet the hypotheses of clause 2 of TimeExchangeCompletes. -/
theorem witness_TimeExchangeCompletes_2 :
    ((State.reset.putB P.TIME_PORT_CFG_SYNC_EN 2 true).put P.FAB_PORT_STATUS_STATE 2 3 : State).pwr.por = false ∧
    ((State.reset.putB P.TIME_PORT_CFG_SYNC_EN 2 true).put P.FAB_PORT_STATUS_STATE 2 3 : State).syncRuns (2 : Port) = true ∧
    (⟨0, 9, 3, 0, 5000, true, 0, 700, .followUp 4000⟩ : TimeMsg).domain = ((State.reset.putB P.TIME_PORT_CFG_SYNC_EN 2 true).put P.FAB_PORT_STATUS_STATE 2 3 : State).get P.TIME_CFG_DOMAIN 0 ∧
    (⟨0, 9, 3, 0, 5000, true, 0, 700, .followUp 4000⟩ : TimeMsg).body = .followUp (4000 : Int) ∧
    (((State.reset.putB P.TIME_PORT_CFG_SYNC_EN 2 true).put P.FAB_PORT_STATUS_STATE 2 3 : State).portTime (2 : Port)).seq = (⟨0, 9, 3, 0, 5000, true, 0, 700, .followUp 4000⟩ : TimeMsg).seq := by
  decide

/-- A state and operands that meet the hypotheses of clause 3 of TimeExchangeCompletes. -/
theorem witness_TimeExchangeCompletes_3 :
    ((State.reset.putB P.TIME_PORT_CFG_SYNC_EN 2 true).put P.FAB_PORT_STATUS_STATE 2 3 : State).pwr.por = false ∧
    ((State.reset.putB P.TIME_PORT_CFG_SYNC_EN 2 true).put P.FAB_PORT_STATUS_STATE 2 3 : State).syncRuns (2 : Port) = true ∧
    (⟨0, 9, 3, 77, 5000, true, 0, 700, .delayReq⟩ : TimeMsg).domain = ((State.reset.putB P.TIME_PORT_CFG_SYNC_EN 2 true).put P.FAB_PORT_STATUS_STATE 2 3 : State).get P.TIME_CFG_DOMAIN 0 ∧
    (⟨0, 9, 3, 77, 5000, true, 0, 700, .delayReq⟩ : TimeMsg).body = .delayReq := by
  decide

/-- A state and operands that meet the hypotheses of clause 4 of TimeExchangeCompletes. -/
theorem witness_TimeExchangeCompletes_4 :
    ((State.reset.putB P.TIME_PORT_CFG_SYNC_EN 2 true).put P.FAB_PORT_STATUS_STATE 2 3 : State).pwr.por = false ∧
    ((State.reset.putB P.TIME_PORT_CFG_SYNC_EN 2 true).put P.FAB_PORT_STATUS_STATE 2 3 : State).syncRuns (2 : Port) = true ∧
    (⟨0, 9, 3, 0, 5000, true, 0, 700, .delayResp 4000⟩ : TimeMsg).domain = ((State.reset.putB P.TIME_PORT_CFG_SYNC_EN 2 true).put P.FAB_PORT_STATUS_STATE 2 3 : State).get P.TIME_CFG_DOMAIN 0 ∧
    (⟨0, 9, 3, 0, 5000, true, 0, 700, .delayResp 4000⟩ : TimeMsg).body = .delayResp (4000 : Int) ∧
    (((State.reset.putB P.TIME_PORT_CFG_SYNC_EN 2 true).put P.FAB_PORT_STATUS_STATE 2 3 : State).portTime (2 : Port)).sent = (⟨0, 9, 3, 0, 5000, true, 0, 700, .delayResp 4000⟩ : TimeMsg).seq := by
  decide

/-- A state and operands that meet the hypotheses of clause 5 of TimeExchangeCompletes. -/
theorem witness_TimeExchangeCompletes_5 :
    (State.reset : State).pwr.por = false ∧
    (⟨1, 9, 3, 0, 5000, true, 0, 700, .sync⟩ : TimeMsg).domain ≠ (State.reset : State).get P.TIME_CFG_DOMAIN 0 := by
  decide

/-- A state and operands that meet the hypotheses of clause 6 of TimeExchangeCompletes. -/
theorem witness_TimeExchangeCompletes_6 :
    ((State.reset.putB P.TIME_PORT_CFG_SYNC_EN 2 true).put P.FAB_PORT_STATUS_STATE 2 3 : State).pwr.por = false ∧
    ((State.reset.putB P.TIME_PORT_CFG_SYNC_EN 2 true).put P.FAB_PORT_STATUS_STATE 2 3 : State).syncRuns (2 : Port) = true := by
  decide

/-- A state and operands that meet the hypotheses of clause 7 of TimeExchangeCompletes. -/
theorem witness_TimeExchangeCompletes_7 :
    ((State.reset.modPortTime 2 fun p => { p with t1 := some 100, t2 := some 300, t3 := some 400, t4 := some 600, phase := some 0 } : State).pwr.por = false) ∧
    (((State.reset.modPortTime 2 fun p => { p with t1 := some 100, t2 := some 300, t3 := some 400, t4 := some 600, phase := some 0 } : State).portTime (2 : Port)).t1 = some (100 : Int) ∧ ((State.reset.modPortTime 2 fun p => { p with t1 := some 100, t2 := some 300, t3 := some 400, t4 := some 600, phase := some 0 } : State).portTime (2 : Port)).t2 = some (300 : Int) ∧ ((State.reset.modPortTime 2 fun p => { p with t1 := some 100, t2 := some 300, t3 := some 400, t4 := some 600, phase := some 0 } : State).portTime (2 : Port)).t3 = some (400 : Int) ∧ ((State.reset.modPortTime 2 fun p => { p with t1 := some 100, t2 := some 300, t3 := some 400, t4 := some 600, phase := some 0 } : State).portTime (2 : Port)).t4 = some (600 : Int)) ∧
    (roundDiv (((300 : Int) - (100 : Int)) + ((600 : Int) - (400 : Int))) 2 + (State.reset.modPortTime 2 fun p => { p with t1 := some 100, t2 := some 300, t3 := some 400, t4 := some 600, phase := some 0 } : State).int P.TIME_PORT_ASYM_ASYM (2 : Port) = (200 : Int)) ∧
    (300 : Int) - (100 : Int) - (200 : Int) = (0 : Int) ∧
    (((State.reset.modPortTime 2 fun p => { p with t1 := some 100, t2 := some 300, t3 := some 400, t4 := some 600, phase := some 0 } : State).portTime (2 : Port)).phase.elim (0 : Int) (fun m => refine (0 : Int) (((3000 : Nat) : Int) - m)) = (3000 : Int)) ∧
    2048 < ((0 : Int) - (3000 : Int)).natAbs := by
  decide

/-- A state and operands that meet the hypotheses of clause 8 of TimeExchangeCompletes. -/
theorem witness_TimeExchangeCompletes_8 :
    ((withHolder 1 ((State.reset.modPortTime 2 fun p => { p with t1 := some 100, t2 := some 300, t3 := some 400, t4 := some 600, phase := some 0 }).put P.FAB_TREE_UP_PORT 0 2) : State).pwr.por = false) ∧
    (((withHolder 1 ((State.reset.modPortTime 2 fun p => { p with t1 := some 100, t2 := some 300, t3 := some 400, t4 := some 600, phase := some 0 }).put P.FAB_TREE_UP_PORT 0 2) : State).portTime (2 : Port)).t1 = some (100 : Int) ∧ ((withHolder 1 ((State.reset.modPortTime 2 fun p => { p with t1 := some 100, t2 := some 300, t3 := some 400, t4 := some 600, phase := some 0 }).put P.FAB_TREE_UP_PORT 0 2) : State).portTime (2 : Port)).t2 = some (300 : Int) ∧ ((withHolder 1 ((State.reset.modPortTime 2 fun p => { p with t1 := some 100, t2 := some 300, t3 := some 400, t4 := some 600, phase := some 0 }).put P.FAB_TREE_UP_PORT 0 2) : State).portTime (2 : Port)).t3 = some (400 : Int) ∧ ((withHolder 1 ((State.reset.modPortTime 2 fun p => { p with t1 := some 100, t2 := some 300, t3 := some 400, t4 := some 600, phase := some 0 }).put P.FAB_TREE_UP_PORT 0 2) : State).portTime (2 : Port)).t4 = some (600 : Int)) ∧
    (roundDiv (((300 : Int) - (100 : Int)) + ((600 : Int) - (400 : Int))) 2 + (withHolder 1 ((State.reset.modPortTime 2 fun p => { p with t1 := some 100, t2 := some 300, t3 := some 400, t4 := some 600, phase := some 0 }).put P.FAB_TREE_UP_PORT 0 2) : State).int P.TIME_PORT_ASYM_ASYM (2 : Port) = (200 : Int)) ∧
    (300 : Int) - (100 : Int) - (200 : Int) = (0 : Int) ∧
    (((withHolder 1 ((State.reset.modPortTime 2 fun p => { p with t1 := some 100, t2 := some 300, t3 := some 400, t4 := some 600, phase := some 0 }).put P.FAB_TREE_UP_PORT 0 2) : State).portTime (2 : Port)).phase.elim (0 : Int) (fun m => refine (0 : Int) (((2000 : Nat) : Int) - m)) = (2000 : Int)) ∧
    ((0 : Int) - (2000 : Int)).natAbs ≤ 2048 ∧
    ((2 : Port).val = (withHolder 1 ((State.reset.modPortTime 2 fun p => { p with t1 := some 100, t2 := some 300, t3 := some 400, t4 := some 600, phase := some 0 }).put P.FAB_TREE_UP_PORT 0 2) : State).upPort ∧ (withHolder 1 ((State.reset.modPortTime 2 fun p => { p with t1 := some 100, t2 := some 300, t3 := some 400, t4 := some 600, phase := some 0 }).put P.FAB_TREE_UP_PORT 0 2) : State).isRoot = false ∧ (withHolder 1 ((State.reset.modPortTime 2 fun p => { p with t1 := some 100, t2 := some 300, t3 := some 400, t4 := some 600, phase := some 0 }).put P.FAB_TREE_UP_PORT 0 2) : State).abut = false ∧ (withHolder 1 ((State.reset.modPortTime 2 fun p => { p with t1 := some 100, t2 := some 300, t3 := some 400, t4 := some 600, phase := some 0 }).put P.FAB_TREE_UP_PORT 0 2) : State).leased = true) ∧
    (((withHolder 1 ((State.reset.modPortTime 2 fun p => { p with t1 := some 100, t2 := some 300, t3 := some 400, t4 := some 600, phase := some 0 }).put P.FAB_TREE_UP_PORT 0 2) : State).portTime (2 : Port)).masterEpoch = (withHolder 1 ((State.reset.modPortTime 2 fun p => { p with t1 := some 100, t2 := some 300, t3 := some 400, t4 := some 600, phase := some 0 }).put P.FAB_TREE_UP_PORT 0 2) : State).time.epoch) ∧
    ((withHolder 1 ((State.reset.modPortTime 2 fun p => { p with t1 := some 100, t2 := some 300, t3 := some 400, t4 := some 600, phase := some 0 }).put P.FAB_TREE_UP_PORT 0 2) : State).time.thetas.length + 1 < (withHolder 1 ((State.reset.modPortTime 2 fun p => { p with t1 := some 100, t2 := some 300, t3 := some 400, t4 := some 600, phase := some 0 }).put P.FAB_TREE_UP_PORT 0 2) : State).get P.TIME_SERVO_AVG 0) := by
  decide

/-- A state and operands that meet the hypotheses of clause 9 of TimeExchangeCompletes. -/
theorem witness_TimeExchangeCompletes_9 :
    ((withHolder 1 ((((({ State.reset with time := { TimeSt.reset with thetas := [1000, 1000, 1000, 1000, 1000, 1000, 1000] } }).modPortTime 2 fun p => { p with t1 := some 100, t2 := some 300, t3 := some 400, t4 := some 600, phase := some 0 }).put P.FAB_TREE_UP_PORT 0 2).put P.TIME_STATUS_STATE 0 2).put P.TIME_SERVO_AVG 0 8) : State).pwr.por = false) ∧
    (((withHolder 1 ((((({ State.reset with time := { TimeSt.reset with thetas := [1000, 1000, 1000, 1000, 1000, 1000, 1000] } }).modPortTime 2 fun p => { p with t1 := some 100, t2 := some 300, t3 := some 400, t4 := some 600, phase := some 0 }).put P.FAB_TREE_UP_PORT 0 2).put P.TIME_STATUS_STATE 0 2).put P.TIME_SERVO_AVG 0 8) : State).portTime (2 : Port)).t1 = some (100 : Int) ∧ ((withHolder 1 ((((({ State.reset with time := { TimeSt.reset with thetas := [1000, 1000, 1000, 1000, 1000, 1000, 1000] } }).modPortTime 2 fun p => { p with t1 := some 100, t2 := some 300, t3 := some 400, t4 := some 600, phase := some 0 }).put P.FAB_TREE_UP_PORT 0 2).put P.TIME_STATUS_STATE 0 2).put P.TIME_SERVO_AVG 0 8) : State).portTime (2 : Port)).t2 = some (300 : Int) ∧ ((withHolder 1 ((((({ State.reset with time := { TimeSt.reset with thetas := [1000, 1000, 1000, 1000, 1000, 1000, 1000] } }).modPortTime 2 fun p => { p with t1 := some 100, t2 := some 300, t3 := some 400, t4 := some 600, phase := some 0 }).put P.FAB_TREE_UP_PORT 0 2).put P.TIME_STATUS_STATE 0 2).put P.TIME_SERVO_AVG 0 8) : State).portTime (2 : Port)).t3 = some (400 : Int) ∧ ((withHolder 1 ((((({ State.reset with time := { TimeSt.reset with thetas := [1000, 1000, 1000, 1000, 1000, 1000, 1000] } }).modPortTime 2 fun p => { p with t1 := some 100, t2 := some 300, t3 := some 400, t4 := some 600, phase := some 0 }).put P.FAB_TREE_UP_PORT 0 2).put P.TIME_STATUS_STATE 0 2).put P.TIME_SERVO_AVG 0 8) : State).portTime (2 : Port)).t4 = some (600 : Int)) ∧
    (roundDiv (((300 : Int) - (100 : Int)) + ((600 : Int) - (400 : Int))) 2 + (withHolder 1 ((((({ State.reset with time := { TimeSt.reset with thetas := [1000, 1000, 1000, 1000, 1000, 1000, 1000] } }).modPortTime 2 fun p => { p with t1 := some 100, t2 := some 300, t3 := some 400, t4 := some 600, phase := some 0 }).put P.FAB_TREE_UP_PORT 0 2).put P.TIME_STATUS_STATE 0 2).put P.TIME_SERVO_AVG 0 8) : State).int P.TIME_PORT_ASYM_ASYM (2 : Port) = (200 : Int)) ∧
    (300 : Int) - (100 : Int) - (200 : Int) = (0 : Int) ∧
    (((withHolder 1 ((((({ State.reset with time := { TimeSt.reset with thetas := [1000, 1000, 1000, 1000, 1000, 1000, 1000] } }).modPortTime 2 fun p => { p with t1 := some 100, t2 := some 300, t3 := some 400, t4 := some 600, phase := some 0 }).put P.FAB_TREE_UP_PORT 0 2).put P.TIME_STATUS_STATE 0 2).put P.TIME_SERVO_AVG 0 8) : State).portTime (2 : Port)).phase.elim (0 : Int) (fun x => refine (0 : Int) (((1000 : Nat) : Int) - x)) = (1000 : Int)) ∧
    ((0 : Int) - (1000 : Int)).natAbs ≤ 2048 ∧
    ((2 : Port).val = (withHolder 1 ((((({ State.reset with time := { TimeSt.reset with thetas := [1000, 1000, 1000, 1000, 1000, 1000, 1000] } }).modPortTime 2 fun p => { p with t1 := some 100, t2 := some 300, t3 := some 400, t4 := some 600, phase := some 0 }).put P.FAB_TREE_UP_PORT 0 2).put P.TIME_STATUS_STATE 0 2).put P.TIME_SERVO_AVG 0 8) : State).upPort ∧ (withHolder 1 ((((({ State.reset with time := { TimeSt.reset with thetas := [1000, 1000, 1000, 1000, 1000, 1000, 1000] } }).modPortTime 2 fun p => { p with t1 := some 100, t2 := some 300, t3 := some 400, t4 := some 600, phase := some 0 }).put P.FAB_TREE_UP_PORT 0 2).put P.TIME_STATUS_STATE 0 2).put P.TIME_SERVO_AVG 0 8) : State).isRoot = false ∧ (withHolder 1 ((((({ State.reset with time := { TimeSt.reset with thetas := [1000, 1000, 1000, 1000, 1000, 1000, 1000] } }).modPortTime 2 fun p => { p with t1 := some 100, t2 := some 300, t3 := some 400, t4 := some 600, phase := some 0 }).put P.FAB_TREE_UP_PORT 0 2).put P.TIME_STATUS_STATE 0 2).put P.TIME_SERVO_AVG 0 8) : State).abut = false ∧ (withHolder 1 ((((({ State.reset with time := { TimeSt.reset with thetas := [1000, 1000, 1000, 1000, 1000, 1000, 1000] } }).modPortTime 2 fun p => { p with t1 := some 100, t2 := some 300, t3 := some 400, t4 := some 600, phase := some 0 }).put P.FAB_TREE_UP_PORT 0 2).put P.TIME_STATUS_STATE 0 2).put P.TIME_SERVO_AVG 0 8) : State).leased = true) ∧
    (((withHolder 1 ((((({ State.reset with time := { TimeSt.reset with thetas := [1000, 1000, 1000, 1000, 1000, 1000, 1000] } }).modPortTime 2 fun p => { p with t1 := some 100, t2 := some 300, t3 := some 400, t4 := some 600, phase := some 0 }).put P.FAB_TREE_UP_PORT 0 2).put P.TIME_STATUS_STATE 0 2).put P.TIME_SERVO_AVG 0 8) : State).portTime (2 : Port)).masterEpoch = (withHolder 1 ((((({ State.reset with time := { TimeSt.reset with thetas := [1000, 1000, 1000, 1000, 1000, 1000, 1000] } }).modPortTime 2 fun p => { p with t1 := some 100, t2 := some 300, t3 := some 400, t4 := some 600, phase := some 0 }).put P.FAB_TREE_UP_PORT 0 2).put P.TIME_STATUS_STATE 0 2).put P.TIME_SERVO_AVG 0 8) : State).time.epoch) ∧
    ((withHolder 1 ((((({ State.reset with time := { TimeSt.reset with thetas := [1000, 1000, 1000, 1000, 1000, 1000, 1000] } }).modPortTime 2 fun p => { p with t1 := some 100, t2 := some 300, t3 := some 400, t4 := some 600, phase := some 0 }).put P.FAB_TREE_UP_PORT 0 2).put P.TIME_STATUS_STATE 0 2).put P.TIME_SERVO_AVG 0 8) : State).get P.TIME_SERVO_AVG 0 ≤ (withHolder 1 ((((({ State.reset with time := { TimeSt.reset with thetas := [1000, 1000, 1000, 1000, 1000, 1000, 1000] } }).modPortTime 2 fun p => { p with t1 := some 100, t2 := some 300, t3 := some 400, t4 := some 600, phase := some 0 }).put P.FAB_TREE_UP_PORT 0 2).put P.TIME_STATUS_STATE 0 2).put P.TIME_SERVO_AVG 0 8) : State).time.thetas.length + 1) ∧
    (roundDiv ((withHolder 1 ((((({ State.reset with time := { TimeSt.reset with thetas := [1000, 1000, 1000, 1000, 1000, 1000, 1000] } }).modPortTime 2 fun p => { p with t1 := some 100, t2 := some 300, t3 := some 400, t4 := some 600, phase := some 0 }).put P.FAB_TREE_UP_PORT 0 2).put P.TIME_STATUS_STATE 0 2).put P.TIME_SERVO_AVG 0 8) : State).time.thetas ++ [(1000 : Int)]).sum ((withHolder 1 ((((({ State.reset with time := { TimeSt.reset with thetas := [1000, 1000, 1000, 1000, 1000, 1000, 1000] } }).modPortTime 2 fun p => { p with t1 := some 100, t2 := some 300, t3 := some 400, t4 := some 600, phase := some 0 }).put P.FAB_TREE_UP_PORT 0 2).put P.TIME_STATUS_STATE 0 2).put P.TIME_SERVO_AVG 0 8) : State).time.thetas.length + 1) = (1000 : Int)) ∧
    ((withHolder 1 ((((({ State.reset with time := { TimeSt.reset with thetas := [1000, 1000, 1000, 1000, 1000, 1000, 1000] } }).modPortTime 2 fun p => { p with t1 := some 100, t2 := some 300, t3 := some 400, t4 := some 600, phase := some 0 }).put P.FAB_TREE_UP_PORT 0 2).put P.TIME_STATUS_STATE 0 2).put P.TIME_SERVO_AVG 0 8) : State).get P.TIME_STATUS_STATE 0 ≠ 0) ∧
    ((1000 : Int) ≠ 0 ∧ (1000 : Int).natAbs ≤ (withHolder 1 ((((({ State.reset with time := { TimeSt.reset with thetas := [1000, 1000, 1000, 1000, 1000, 1000, 1000] } }).modPortTime 2 fun p => { p with t1 := some 100, t2 := some 300, t3 := some 400, t4 := some 600, phase := some 0 }).put P.FAB_TREE_UP_PORT 0 2).put P.TIME_STATUS_STATE 0 2).put P.TIME_SERVO_AVG 0 8) : State).jumpLen) := by
  decide

/-- A state and operands that meet the hypotheses of clause 10 of TimeExchangeCompletes. -/
theorem witness_TimeExchangeCompletes_10 :
    (State.reset.slew 50 : State).pwr.por = false ∧
    (State.reset.slew 50 : State).flag P.TIME_STATUS_SLEWING 0 = true ∧
    (State.reset.slew 50 : State).time.slew ≠ 0 ∧
    (State.reset.slew 50 : State).time.slewAt + (State.reset.slew 50 : State).slewLen ≤ (State.reset.slew 50 : State).instant (secSt : Tm) := by
  decide

/-- A state and operands that meet the hypotheses of clause 11 of TimeExchangeCompletes. -/
theorem witness_TimeExchangeCompletes_11 :
    (State.reset.put P.TIME_STATUS_STATE 0 1 : State).pwr.por = false ∧
    (State.reset.put P.TIME_STATUS_STATE 0 1 : State).get P.TIME_STATUS_STATE 0 = 1 ∧
    (State.reset.put P.TIME_STATUS_STATE 0 1 : State).isRoot = false ∧
    (State.reset.put P.TIME_STATUS_STATE 0 1 : State).time.mastered + 8 * (State.reset.put P.TIME_STATUS_STATE 0 1 : State).syncLen ≤ (State.reset.put P.TIME_STATUS_STATE 0 1 : State).instant (secSt : Tm) := by
  decide

/-- A state and operands that meet the hypotheses of clause 12 of TimeExchangeCompletes. -/
theorem witness_TimeExchangeCompletes_12 :
    (withHolder 1 ((({ State.reset with time := { TimeSt.reset with set := true } }).putB P.FAB_ADDR_ROOT 0 true).putB P.TIME_CFG_ROOT_SRC 0 true) : State).pwr.por = false ∧
    (withHolder 1 ((({ State.reset with time := { TimeSt.reset with set := true } }).putB P.FAB_ADDR_ROOT 0 true).putB P.TIME_CFG_ROOT_SRC 0 true) : State).isRoot = true ∧
    (withHolder 1 ((({ State.reset with time := { TimeSt.reset with set := true } }).putB P.FAB_ADDR_ROOT 0 true).putB P.TIME_CFG_ROOT_SRC 0 true) : State).flag P.TIME_CFG_ROOT_SRC 0 = true ∧
    (true : Bool) = !(withHolder 1 ((({ State.reset with time := { TimeSt.reset with set := true } }).putB P.FAB_ADDR_ROOT 0 true).putB P.TIME_CFG_ROOT_SRC 0 true) : State).flag P.PPS_CFG_IN_POL 0 := by
  decide

/-- A state and operands that meet the hypotheses of clause 13 of TimeExchangeCompletes. -/
theorem witness_TimeExchangeCompletes_13 :
    (State.reset : State).pwr.por = false ∧
    ((State.reset : State).isRoot = false ∨ (State.reset : State).flag P.TIME_CFG_ROOT_SRC 0 = false) ∧
    (true : Bool) = !(State.reset : State).flag P.PPS_CFG_IN_POL 0 := by
  decide

/-- A state and operands that meet the hypotheses of clause 14 of TimeExchangeCompletes. -/
theorem witness_TimeExchangeCompletes_14 :
    (State.reset : State).pwr.por = false ∧
    (false : Bool) = (State.reset : State).flag P.PPS_CFG_IN_POL 0 := by
  decide

/-- A state and operands that meet the hypotheses of clause 15 of TimeExchangeCompletes. -/
theorem witness_TimeExchangeCompletes_15 :
    (((State.reset.putB P.FAB_ADDR_ROOT 0 true).putB P.TIME_CFG_ROOT_SRC 0 true).put P.TIME_STATUS_STATE 0 1 : State).pwr.por = false ∧
    (((State.reset.putB P.FAB_ADDR_ROOT 0 true).putB P.TIME_CFG_ROOT_SRC 0 true).put P.TIME_STATUS_STATE 0 1 : State).isRoot = true ∧
    (((State.reset.putB P.FAB_ADDR_ROOT 0 true).putB P.TIME_CFG_ROOT_SRC 0 true).put P.TIME_STATUS_STATE 0 1 : State).flag P.TIME_CFG_ROOT_SRC 0 = true ∧
    ((((State.reset.putB P.FAB_ADDR_ROOT 0 true).putB P.TIME_CFG_ROOT_SRC 0 true).put P.TIME_STATUS_STATE 0 1 : State).clock (7 : Tm)).hasMaster = false ∧
    (((State.reset.putB P.FAB_ADDR_ROOT 0 true).putB P.TIME_CFG_ROOT_SRC 0 true).put P.TIME_STATUS_STATE 0 1 : State).get P.TIME_STATUS_STATE 0 = 1 := by
  decide

/-- A state and operands that meet the hypotheses of clause 1 of ScheduledActionsComplete. -/
theorem witness_ScheduledActionsComplete_1 :
    (withHolder 1 (State.reset.put P.ACT_TIME_TIME_NS 63 1000000000) : State).pwr.por = false ∧
    (withHolder 1 (State.reset.put P.ACT_TIME_TIME_NS 63 1000000000) : State).leased = true ∧
    (0 < (0x4005 : BitVec 32).toNat / 4096 % 8 ∧ (0x4005 : BitVec 32).toNat / 4096 % 8 ≤ 4) ∧
    ((withHolder 1 (State.reset.put P.ACT_TIME_TIME_NS 63 1000000000) : State).actOf (63 : Fin 64)).armed = false ∧
    (withHolder 1 (State.reset.put P.ACT_TIME_TIME_NS 63 1000000000) : State).get P.ACT_TIME_TIME_NS (63 : Fin 64) * nsSt + (0x4005 : BitVec 32).toNat % 4096 = (secSt + 5 : Tm) ∧
    (withHolder 1 (State.reset.put P.ACT_TIME_TIME_NS 63 1000000000) : State).commitAt + 10 * usSt ≤ (secSt + 5 : Tm) := by
  decide

/-- A state and operands that meet the hypotheses of clause 2 of ScheduledActionsComplete. -/
theorem witness_ScheduledActionsComplete_2 :
    (withHolder 1 State.reset : State).pwr.por = false ∧
    (0 < (0x4005 : BitVec 32).toNat / 4096 % 8 ∧ (0x4005 : BitVec 32).toNat / 4096 % 8 ≤ 4) ∧
    ((withHolder 1 State.reset : State).actOf (63 : Fin 64)).armed = false ∧
    (withHolder 1 State.reset : State).leased = true ∧
    (withHolder 1 State.reset : State).get P.ACT_TIME_TIME_NS (63 : Fin 64) * nsSt + (0x4005 : BitVec 32).toNat % 4096 < (withHolder 1 State.reset : State).commitAt + 10 * usSt ∧
    (0x4005 : BitVec 32).getLsbD 15 = false := by
  decide

/-- A state and operands that meet the hypotheses of clause 3 of ScheduledActionsComplete. -/
theorem witness_ScheduledActionsComplete_3 :
    (State.reset : State).pwr.por = false ∧
    (State.reset : State).leased = false := by
  decide

/-- A state and operands that meet the hypotheses of clause 4 of ScheduledActionsComplete. -/
theorem witness_ScheduledActionsComplete_4 :
    ((withHolder 1 (State.reset.modAct 63 fun a => { a with armed := true }) : State).pwr.por = false) ∧
    ((withHolder 1 (State.reset.modAct 63 fun a => { a with armed := true }) : State).leased = true) ∧
    (0x4005 : BitVec 32).toNat / 4096 % 8 ≠ 0 ∧
    (((withHolder 1 (State.reset.modAct 63 fun a => { a with armed := true }) : State).actOf (63 : Fin 64)).armed = true) := by
  decide

/-- A state and operands that meet the hypotheses of clause 5 of ScheduledActionsComplete. -/
theorem witness_ScheduledActionsComplete_5 :
    ((withHolder 1 (State.reset.modAct 63 fun a => { a with armed := true }) : State).pwr.por = false) ∧
    ((withHolder 1 (State.reset.modAct 63 fun a => { a with armed := true }) : State).leased = true) ∧
    (5 : BitVec 32).toNat / 4096 % 8 = 0 := by
  decide

/-- A state and operands that meet the hypotheses of clause 6 of ScheduledActionsComplete. -/
theorem witness_ScheduledActionsComplete_6 :
    (((((State.reset.put P.ACT_CFG_KIND 63 1).put P.ACT_ARG_ARG 63 0x70009).putB P.BLANK_INT_PULSER 0 true).modAct 63 fun a => { a with armed := true, due := 6 } : State).pwr.por = false) ∧
    ((((((State.reset.put P.ACT_CFG_KIND 63 1).put P.ACT_ARG_ARG 63 0x70009).putB P.BLANK_INT_PULSER 0 true).modAct 63 fun a => { a with armed := true, due := 6 } : State).clock (7 : Tm)).actDue (63 : Fin 64) 1 = some ((6 : Tm), (false : Bool))) ∧
    (((((State.reset.put P.ACT_CFG_KIND 63 1).put P.ACT_ARG_ARG 63 0x70009).putB P.BLANK_INT_PULSER 0 true).modAct 63 fun a => { a with armed := true, due := 6 } : State).abut = false) := by
  decide

/-- A state and operands that meet the hypotheses of clause 7 of ScheduledActionsComplete. -/
theorem witness_ScheduledActionsComplete_7 :
    ((({ State.reset with core := { CoreSt.reset with ks := 5 } }).put P.ACT_CFG_KIND 63 1 |>.modAct 63 fun a => { a with armed := true, due := 6 } : State).pwr.por = false) ∧
    (((({ State.reset with core := { CoreSt.reset with ks := 5 } }).put P.ACT_CFG_KIND 63 1 |>.modAct 63 fun a => { a with armed := true, due := 6 } : State).clock (7 : Tm)).actDue (63 : Fin 64) 1 = some ((6 : Tm), (false : Bool))) ∧
    ((({ State.reset with core := { CoreSt.reset with ks := 5 } }).put P.ACT_CFG_KIND 63 1 |>.modAct 63 fun a => { a with armed := true, due := 6 } : State).abut = true) := by
  decide

/-- A state and operands that meet the hypotheses of clause 8 of ScheduledActionsComplete. -/
theorem witness_ScheduledActionsComplete_8 :
    (((((State.reset.put P.ACT_CFG_KIND 63 2).put P.ACT_ARG_ARG 63 0x705).putB P.TOUT_CFG_ENABLE 5 true).modAct 63 fun a => { a with armed := true, due := 6 } : State).pwr.por = false) ∧
    ((((((State.reset.put P.ACT_CFG_KIND 63 2).put P.ACT_ARG_ARG 63 0x705).putB P.TOUT_CFG_ENABLE 5 true).modAct 63 fun a => { a with armed := true, due := 6 } : State).clock (7 : Tm)).actDue (63 : Fin 64) 2 = some ((6 : Tm), (false : Bool))) ∧
    (((((State.reset.put P.ACT_CFG_KIND 63 2).put P.ACT_ARG_ARG 63 0x705).putB P.TOUT_CFG_ENABLE 5 true).modAct 63 fun a => { a with armed := true, due := 6 } : State).abut = false) ∧
    (((((State.reset.put P.ACT_CFG_KIND 63 2).put P.ACT_ARG_ARG 63 0x705).putB P.TOUT_CFG_ENABLE 5 true).modAct 63 fun a => { a with armed := true, due := 6 } : State).get P.ACT_ARG_ARG (63 : Fin 64) % 8 = (5 : Fin 8).val) ∧
    (((((State.reset.put P.ACT_CFG_KIND 63 2).put P.ACT_ARG_ARG 63 0x705).putB P.TOUT_CFG_ENABLE 5 true).modAct 63 fun a => { a with armed := true, due := 6 } : State).flag P.TOUT_CFG_ENABLE (5 : Fin 8) = true) := by
  decide

/-- A state and operands that meet the hypotheses of clause 9 of ScheduledActionsComplete. -/
theorem witness_ScheduledActionsComplete_9 :
    ((({ State.reset with core := { CoreSt.reset with ks := 5 } }).put P.ACT_CFG_KIND 63 2 |>.modAct 63 fun a => { a with armed := true, due := 6 } : State).pwr.por = false) ∧
    (((({ State.reset with core := { CoreSt.reset with ks := 5 } }).put P.ACT_CFG_KIND 63 2 |>.modAct 63 fun a => { a with armed := true, due := 6 } : State).clock (7 : Tm)).actDue (63 : Fin 64) 2 = some ((6 : Tm), (false : Bool))) ∧
    ((({ State.reset with core := { CoreSt.reset with ks := 5 } }).put P.ACT_CFG_KIND 63 2 |>.modAct 63 fun a => { a with armed := true, due := 6 } : State).abut = true) := by
  decide

/-- A state and operands that meet the hypotheses of clause 10 of ScheduledActionsComplete. -/
theorem witness_ScheduledActionsComplete_10 :
    ((((({ State.reset with time := { TimeSt.reset with pend := [⟨7, 1, 2, none⟩] } }).put P.ACT_CFG_KIND 63 3).put P.ACT_ARG_ARG 63 4).put P.SWAP_CFG_ARMED 0 2 |>.modAct 63 fun a => { a with armed := true, due := 6 } : State).pwr.por = false) ∧
    (((((({ State.reset with time := { TimeSt.reset with pend := [⟨7, 1, 2, none⟩] } }).put P.ACT_CFG_KIND 63 3).put P.ACT_ARG_ARG 63 4).put P.SWAP_CFG_ARMED 0 2 |>.modAct 63 fun a => { a with armed := true, due := 6 } : State).clock (7 : Tm)).actDue (63 : Fin 64) 3 = some ((6 : Tm), (false : Bool))) ∧
    ((((({ State.reset with time := { TimeSt.reset with pend := [⟨7, 1, 2, none⟩] } }).put P.ACT_CFG_KIND 63 3).put P.ACT_ARG_ARG 63 4).put P.SWAP_CFG_ARMED 0 2 |>.modAct 63 fun a => { a with armed := true, due := 6 } : State).abut = false) := by
  decide

/-- A state and operands that meet the hypotheses of clause 11 of ScheduledActionsComplete. -/
theorem witness_ScheduledActionsComplete_11 :
    ((({ State.reset with core := { CoreSt.reset with ks := 5 } }).put P.ACT_CFG_KIND 63 3 |>.modAct 63 fun a => { a with armed := true, due := 6 } : State).pwr.por = false) ∧
    (((({ State.reset with core := { CoreSt.reset with ks := 5 } }).put P.ACT_CFG_KIND 63 3 |>.modAct 63 fun a => { a with armed := true, due := 6 } : State).clock (7 : Tm)).actDue (63 : Fin 64) 3 = some ((6 : Tm), (false : Bool))) ∧
    ((({ State.reset with core := { CoreSt.reset with ks := 5 } }).put P.ACT_CFG_KIND 63 3 |>.modAct 63 fun a => { a with armed := true, due := 6 } : State).abut = true) := by
  decide

/-- A state and operands that meet the hypotheses of clause 12 of ScheduledActionsComplete. -/
theorem witness_ScheduledActionsComplete_12 :
    (((State.reset.put P.ACT_CFG_KIND 63 4).modAct 63 fun a => { a with armed := true, due := 6 } : State).pwr.por = false) ∧
    ((((State.reset.put P.ACT_CFG_KIND 63 4).modAct 63 fun a => { a with armed := true, due := 6 } : State).clock (7 : Tm)).actDue (63 : Fin 64) 4 = some ((6 : Tm), (false : Bool))) ∧
    (((State.reset.put P.ACT_CFG_KIND 63 4).modAct 63 fun a => { a with armed := true, due := 6 } : State).abut = false) := by
  decide

/-- A state and operands that meet the hypotheses of clause 13 of ScheduledActionsComplete. -/
theorem witness_ScheduledActionsComplete_13 :
    ((({ State.reset with core := { CoreSt.reset with ks := 5 } }).put P.ACT_CFG_KIND 63 4 |>.modAct 63 fun a => { a with armed := true, due := 6 } : State).pwr.por = false) ∧
    (((({ State.reset with core := { CoreSt.reset with ks := 5 } }).put P.ACT_CFG_KIND 63 4 |>.modAct 63 fun a => { a with armed := true, due := 6 } : State).clock (7 : Tm)).actDue (63 : Fin 64) 4 = some ((6 : Tm), (false : Bool))) ∧
    ((({ State.reset with core := { CoreSt.reset with ks := 5 } }).put P.ACT_CFG_KIND 63 4 |>.modAct 63 fun a => { a with armed := true, due := 6 } : State).abut = true) := by
  decide

/-- A state and operands that meet the hypotheses of clause 14 of ScheduledActionsComplete. -/
theorem witness_ScheduledActionsComplete_14 :
    (((State.reset.putB P.TOUT_CFG_ENABLE 5 true).modTout 5 fun o => { o with next := some 40 } : State).pwr.por = false) ∧
    ((((State.reset.putB P.TOUT_CFG_ENABLE 5 true).modTout 5 fun o => { o with next := some 40 } : State).toutOf (5 : Fin 8)).next = some (40 : Tm)) ∧
    (round32 (40 : Tm) ≤ ((State.reset.putB P.TOUT_CFG_ENABLE 5 true).modTout 5 fun o => { o with next := some 40 } : State).instant (50 : Tm)) ∧
    (((State.reset.putB P.TOUT_CFG_ENABLE 5 true).modTout 5 fun o => { o with next := some 40 } : State).flag P.TOUT_CFG_ENABLE (5 : Fin 8) = true) := by
  decide

/-- A state and operands that meet the hypotheses of clause 15 of ScheduledActionsComplete. -/
theorem witness_ScheduledActionsComplete_15 :
    ((State.reset.modTout 5 fun o => { o with level := true, stop := 40 } : State).pwr.por = false) ∧
    (((State.reset.modTout 5 fun o => { o with level := true, stop := 40 } : State).toutOf (5 : Fin 8)).level = true) ∧
    (((State.reset.modTout 5 fun o => { o with level := true, stop := 40 } : State).toutOf (5 : Fin 8)).stop ≤ (State.reset.modTout 5 fun o => { o with level := true, stop := 40 } : State).instant (50 : Tm)) := by
  decide

/-- A state and operands that meet the hypotheses of clause 16 of ScheduledActionsComplete. -/
theorem witness_ScheduledActionsComplete_16 :
    ((State.reset.put P.TIME_STATUS_STATE 0 1).putB P.PPS_CFG_OUT_EN 0 true : State).pwr.por = false ∧
    ((State.reset.put P.TIME_STATUS_STATE 0 1).putB P.PPS_CFG_OUT_EN 0 true : State).instant (secSt : Tm) % secSt = 0 ∧
    ((State.reset.put P.TIME_STATUS_STATE 0 1).putB P.PPS_CFG_OUT_EN 0 true : State).get P.TIME_STATUS_STATE 0 ≠ 0 ∧
    ((State.reset.put P.TIME_STATUS_STATE 0 1).putB P.PPS_CFG_OUT_EN 0 true : State).flag P.PPS_CFG_OUT_EN 0 = true := by
  decide

/-- A state and operands that meet the hypotheses of clause 17 of ScheduledActionsComplete. -/
theorem witness_ScheduledActionsComplete_17 :
    ({ State.reset with time := { TimeSt.reset with ppsOut := true, ppsStop := 9 } } : State).pwr.por = false ∧
    ({ State.reset with time := { TimeSt.reset with ppsOut := true, ppsStop := 9 } } : State).time.ppsOut = true ∧
    ({ State.reset with time := { TimeSt.reset with ppsOut := true, ppsStop := 9 } } : State).time.ppsStop ≤ ({ State.reset with time := { TimeSt.reset with ppsOut := true, ppsStop := 9 } } : State).instant (9 : Tm) := by
  decide

/-- A state and operands that meet the hypotheses of clause 1 of ConditionsAndGroupsComplete. -/
theorem witness_ConditionsAndGroupsComplete_1 :
    (wCond : State).pwr.por = false ∧
    (((wCond : State).td (77 : Ch)).judged.find? (fun x => (((wCond : State).clock (9000 : Tm)).condDue (77 : Ch) x).any fun d => decide (d ≤ (wCond : State).instant (9000 : Tm))) = some (wCondHit : CondHit)) ∧
    ((wCondHit : CondHit).hit.cond.kind = 2 → ([] : List Lvl).length = (wCondHit : CondHit).hit.cond.win) ∧
    (wCond : State).condTrue (77 : Ch) (wCondHit : CondHit) ((wCond : State).samplesFrom (77 : Ch) ((wCond : State).runtFirst (77 : Ch) (wCondHit : CondHit).hit) ([] : List Lvl)) = true ∧
    ((wCond : State).clock (9000 : Tm)).condMay (77 : Ch) (wCondHit : CondHit).hit.at_ = true := by
  decide

/-- A state and operands that meet the hypotheses of clause 2 of ConditionsAndGroupsComplete. -/
theorem witness_ConditionsAndGroupsComplete_2 :
    ((State.reset.modTd 77 fun x => { x with judged := [{ wCondHit with hit := { wCondHit.hit with tot := 9 } }] } : State).pwr.por = false) ∧
    (((State.reset.modTd 77 fun x => { x with judged := [{ wCondHit with hit := { wCondHit.hit with tot := 9 } }] } : State).td (77 : Ch)).judged.find? (fun x => (((State.reset.modTd 77 fun x => { x with judged := [{ wCondHit with hit := { wCondHit.hit with tot := 9 } }] } : State).clock (9000 : Tm)).condDue (77 : Ch) x).any fun d => decide (d ≤ (State.reset.modTd 77 fun x => { x with judged := [{ wCondHit with hit := { wCondHit.hit with tot := 9 } }] } : State).instant (9000 : Tm))) = some ({ wCondHit with hit := { wCondHit.hit with tot := 9 } } : CondHit)) ∧
    (({ wCondHit with hit := { wCondHit.hit with tot := 9 } } : CondHit).hit.cond.kind = 2 → ([] : List Lvl).length = ({ wCondHit with hit := { wCondHit.hit with tot := 9 } } : CondHit).hit.cond.win) ∧
    ((State.reset.modTd 77 fun x => { x with judged := [{ wCondHit with hit := { wCondHit.hit with tot := 9 } }] } : State).condTrue (77 : Ch) ({ wCondHit with hit := { wCondHit.hit with tot := 9 } } : CondHit) ((State.reset.modTd 77 fun x => { x with judged := [{ wCondHit with hit := { wCondHit.hit with tot := 9 } }] } : State).samplesFrom (77 : Ch) ((State.reset.modTd 77 fun x => { x with judged := [{ wCondHit with hit := { wCondHit.hit with tot := 9 } }] } : State).runtFirst (77 : Ch) ({ wCondHit with hit := { wCondHit.hit with tot := 9 } } : CondHit).hit) ([] : List Lvl)) = false) := by
  decide

/-- A state and operands that meet the hypotheses of clause 3 of ConditionsAndGroupsComplete. -/
theorem witness_ConditionsAndGroupsComplete_3 :
    (((({ State.reset with pwr := { PwrSt.reset with acq := true } }).putB P.FAST_CFG_ENABLE 77 true).modTd 77 fun x => { x with quietAt := some 5 } : State).pwr.por = false) ∧
    ((((({ State.reset with pwr := { PwrSt.reset with acq := true } }).putB P.FAST_CFG_ENABLE 77 true).modTd 77 fun x => { x with quietAt := some 5 } : State).td (77 : Ch)).judged.find? (fun x => ((((({ State.reset with pwr := { PwrSt.reset with acq := true } }).putB P.FAST_CFG_ENABLE 77 true).modTd 77 fun x => { x with quietAt := some 5 } : State).clock (9000 : Tm)).condDue (77 : Ch) x).any fun d => decide (d ≤ ((({ State.reset with pwr := { PwrSt.reset with acq := true } }).putB P.FAST_CFG_ENABLE 77 true).modTd 77 fun x => { x with quietAt := some 5 } : State).instant (9000 : Tm))) = none) ∧
    ((((({ State.reset with pwr := { PwrSt.reset with acq := true } }).putB P.FAST_CFG_ENABLE 77 true).modTd 77 fun x => { x with quietAt := some 5 } : State).td (77 : Ch)).quietAt = some (5 : Tm)) ∧
    ((5 : Tm) + 2 * ccSt ≤ ((({ State.reset with pwr := { PwrSt.reset with acq := true } }).putB P.FAST_CFG_ENABLE 77 true).modTd 77 fun x => { x with quietAt := some 5 } : State).instant (9000 : Tm)) ∧
    ((((({ State.reset with pwr := { PwrSt.reset with acq := true } }).putB P.FAST_CFG_ENABLE 77 true).modTd 77 fun x => { x with quietAt := some 5 } : State).clock (9000 : Tm)).condMay (77 : Ch) ((((({ State.reset with pwr := { PwrSt.reset with acq := true } }).putB P.FAST_CFG_ENABLE 77 true).modTd 77 fun x => { x with quietAt := some 5 } : State).clock (9000 : Tm)).stampAt (5 : Tm)) = true) := by
  decide

/-- A state and operands that meet the hypotheses of clause 4 of ConditionsAndGroupsComplete. -/
theorem witness_ConditionsAndGroupsComplete_4 :
    (((State.reset.putB P.FAST_CFG_ENABLE 77 true).put P.COND_CFG_KIND 77 5).put P.COND_SLEW_S 77 100 : State).pwr.por = false ∧
    (((((State.reset.putB P.FAST_CFG_ENABLE 77 true).put P.COND_CFG_KIND 77 5).put P.COND_SLEW_S 77 100 : State).td (77 : Ch)).judged.find? (fun x => (((((State.reset.putB P.FAST_CFG_ENABLE 77 true).put P.COND_CFG_KIND 77 5).put P.COND_SLEW_S 77 100 : State).clock (99000 : Tm)).condDue (77 : Ch) x).any fun d => decide (d ≤ (((State.reset.putB P.FAST_CFG_ENABLE 77 true).put P.COND_CFG_KIND 77 5).put P.COND_SLEW_S 77 100 : State).instant (99000 : Tm))) = none) ∧
    ((((State.reset.putB P.FAST_CFG_ENABLE 77 true).put P.COND_CFG_KIND 77 5).put P.COND_SLEW_S 77 100 : State).td (77 : Ch)).quietAt = none ∧
    ((((State.reset.putB P.FAST_CFG_ENABLE 77 true).put P.COND_CFG_KIND 77 5).put P.COND_SLEW_S 77 100 : State).clock (99000 : Tm)).slewSample (77 : Ch) = ((State.reset.clock 99000).slewSample 77 : Int) ∧
    (((State.reset.putB P.FAST_CFG_ENABLE 77 true).put P.COND_CFG_KIND 77 5).put P.COND_SLEW_S 77 100 : State).condAt (77 : Ch) (((((State.reset.putB P.FAST_CFG_ENABLE 77 true).put P.COND_CFG_KIND 77 5).put P.COND_SLEW_S 77 100 : State).clock (99000 : Tm)).stampAt ((((State.reset.putB P.FAST_CFG_ENABLE 77 true).put P.COND_CFG_KIND 77 5).put P.COND_SLEW_S 77 100 : State).pinAt ((77 : Ch) / 16) (((State.reset.clock 99000).slewSample 77 : Int) - ((((State.reset.putB P.FAST_CFG_ENABLE 77 true).put P.COND_CFG_KIND 77 5).put P.COND_SLEW_S 77 100 : State).condOf (77 : Ch)).k))) = (((State.reset.put P.COND_CFG_KIND 77 5).put P.COND_SLEW_S 77 100).condOf 77 : Cond) ∧
    (((State.reset.put P.COND_CFG_KIND 77 5).put P.COND_SLEW_S 77 100).condOf 77 : Cond).kind = 5 ∧
    (List.replicate (State.reset.condOf 77).k ⟨500, 30, false, false⟩ ++ [⟨700, 44, false, false⟩] : List Lvl).length = (((State.reset.put P.COND_CFG_KIND 77 5).put P.COND_SLEW_S 77 100).condOf 77 : Cond).k + 1 ∧
    ((((State.reset.putB P.FAST_CFG_ENABLE 77 true).put P.COND_CFG_KIND 77 5).put P.COND_SLEW_S 77 100 : State).td (77 : Ch)).slewOff = false ∧
    ((((State.reset.put P.COND_CFG_KIND 77 5).put P.COND_SLEW_S 77 100).condOf 77 : Cond).slew : Int) ≤ ((((State.reset.putB P.FAST_CFG_ENABLE 77 true).put P.COND_CFG_KIND 77 5).put P.COND_SLEW_S 77 100 : State).amps (((State.reset.clock 99000).slewSample 77 : Int) - (((State.reset.put P.COND_CFG_KIND 77 5).put P.COND_SLEW_S 77 100).condOf 77 : Cond).k) ((((State.reset.putB P.FAST_CFG_ENABLE 77 true).put P.COND_CFG_KIND 77 5).put P.COND_SLEW_S 77 100 : State).samplesFrom (77 : Ch) (((State.reset.clock 99000).slewSample 77 : Int) - (((State.reset.put P.COND_CFG_KIND 77 5).put P.COND_SLEW_S 77 100).condOf 77 : Cond).k) (List.replicate (State.reset.condOf 77).k ⟨500, 30, false, false⟩ ++ [⟨700, 44, false, false⟩] : List Lvl))).getLastD 0 - ((((State.reset.putB P.FAST_CFG_ENABLE 77 true).put P.COND_CFG_KIND 77 5).put P.COND_SLEW_S 77 100 : State).amps (((State.reset.clock 99000).slewSample 77 : Int) - (((State.reset.put P.COND_CFG_KIND 77 5).put P.COND_SLEW_S 77 100).condOf 77 : Cond).k) ((((State.reset.putB P.FAST_CFG_ENABLE 77 true).put P.COND_CFG_KIND 77 5).put P.COND_SLEW_S 77 100 : State).samplesFrom (77 : Ch) (((State.reset.clock 99000).slewSample 77 : Int) - (((State.reset.put P.COND_CFG_KIND 77 5).put P.COND_SLEW_S 77 100).condOf 77 : Cond).k) (List.replicate (State.reset.condOf 77).k ⟨500, 30, false, false⟩ ++ [⟨700, 44, false, false⟩] : List Lvl))).headD 0 := by
  decide +kernel

/-- A state and operands that meet the hypotheses of clause 5 of ConditionsAndGroupsComplete. -/
theorem witness_ConditionsAndGroupsComplete_5 :
    ((State.reset.modTd 77 fun x => { x with open_ := [wCondHit.hit], judged := [{ wCondHit with hit := { wCondHit.hit with cond := { wCondHit.hit.cond with kind := 3 } } }] } : State).pwr.por = false) ∧
    (({ wCondHit with hit := { wCondHit.hit with cond := { wCondHit.hit.cond with kind := 3 } } } : CondHit) ∈ ((State.reset.modTd 77 fun x => { x with open_ := [wCondHit.hit], judged := [{ wCondHit with hit := { wCondHit.hit with cond := { wCondHit.hit.cond with kind := 3 } } }] } : State).td (77 : Ch)).judged) ∧
    (({ wCondHit with hit := { wCondHit.hit with cond := { wCondHit.hit.cond with kind := 3 } } } : CondHit).hit.cond.kind = 3 ∧ ({ wCondHit with hit := { wCondHit.hit with cond := { wCondHit.hit.cond with kind := 3 } } } : CondHit).hit.raw + ({ wCondHit with hit := { wCondHit.hit with cond := { wCondHit.hit.cond with kind := 3 } } } : CondHit).hit.cond.tmo * ccSt ≤ (State.reset.modTd 77 fun x => { x with open_ := [wCondHit.hit], judged := [{ wCondHit with hit := { wCondHit.hit with cond := { wCondHit.hit.cond with kind := 3 } } }] } : State).instant (9000 : Tm)) ∧
    (((State.reset.modTd 77 fun x => { x with open_ := [wCondHit.hit], judged := [{ wCondHit with hit := { wCondHit.hit with cond := { wCondHit.hit.cond with kind := 3 } } }] } : State).td (77 : Ch)).open_.any (fun h => h.lead == ({ wCondHit with hit := { wCondHit.hit with cond := { wCondHit.hit.cond with kind := 3 } } } : CondHit).hit.lead && h.trail.isNone) = true) := by
  decide

/-- A state and operands that meet the hypotheses of clause 6 of ConditionsAndGroupsComplete. -/
theorem witness_ConditionsAndGroupsComplete_6 :
    (State.reset.put P.COND_CFG_KIND 77 4 : State).pwr.por = false ∧
    ((State.reset.put P.COND_CFG_KIND 77 4 : State).condOf (77 : Ch)).kind = 4 ∧
    ((State.reset.put P.COND_CFG_KIND 77 4 : State).td (77 : Ch)).quietDone = false ∧
    ((State.reset.put P.COND_CFG_KIND 77 4 : State).td (77 : Ch)).quietFrom + ((State.reset.put P.COND_CFG_KIND 77 4 : State).condOf (77 : Ch)).quiet ≤ (State.reset.put P.COND_CFG_KIND 77 4 : State).instant (secSt : Tm) := by
  decide

/-- A state and operands that meet the hypotheses of clause 7 of ConditionsAndGroupsComplete. -/
theorem witness_ConditionsAndGroupsComplete_7 :
    (((({ State.reset with pwr := { PwrSt.reset with acq := true } }).put P.ROOT_CFG_ROOT_ADDR 0 0).putB P.ROOT_CFG_ROOT 0 true).put P.FAB_ADDR_ADDR 0 0 |>.setGrpWin 63 (some ⟨9, 0, 2, [3, 4], ⟨0, 7⟩, false, false, true, false⟩) : State).pwr.por = false ∧
    (((({ State.reset with pwr := { PwrSt.reset with acq := true } }).put P.ROOT_CFG_ROOT_ADDR 0 0).putB P.ROOT_CFG_ROOT 0 true).put P.FAB_ADDR_ADDR 0 0 |>.setGrpWin 63 (some ⟨9, 0, 2, [3, 4], ⟨0, 7⟩, false, false, true, false⟩) : State).grpWin (63 : Fin 64) = some (⟨9, 0, 2, [3, 4], ⟨0, 7⟩, false, false, true, false⟩ : GrpWin) ∧
    (⟨9, 0, 2, [3, 4], ⟨0, 7⟩, false, false, true, false⟩ : GrpWin).close ≤ (((({ State.reset with pwr := { PwrSt.reset with acq := true } }).put P.ROOT_CFG_ROOT_ADDR 0 0).putB P.ROOT_CFG_ROOT 0 true).put P.FAB_ADDR_ADDR 0 0 |>.setGrpWin 63 (some ⟨9, 0, 2, [3, 4], ⟨0, 7⟩, false, false, true, false⟩) : State).instant (9000 : Tm) ∧
    (⟨9, 0, 2, [3, 4], ⟨0, 7⟩, false, false, true, false⟩ : GrpWin).n ≤ (⟨9, 0, 2, [3, 4], ⟨0, 7⟩, false, false, true, false⟩ : GrpWin).chans.length ∧
    (((({ State.reset with pwr := { PwrSt.reset with acq := true } }).put P.ROOT_CFG_ROOT_ADDR 0 0).putB P.ROOT_CFG_ROOT 0 true).put P.FAB_ADDR_ADDR 0 0 |>.setGrpWin 63 (some ⟨9, 0, 2, [3, 4], ⟨0, 7⟩, false, false, true, false⟩) : State).acquiring = true := by
  decide

/-- A state and operands that meet the hypotheses of clause 8 of ConditionsAndGroupsComplete. -/
theorem witness_ConditionsAndGroupsComplete_8 :
    (State.reset.setGrpWin 63 (some ⟨9, 0, 2, [3], ⟨0, 7⟩, false, false, true, false⟩) : State).pwr.por = false ∧
    (State.reset.setGrpWin 63 (some ⟨9, 0, 2, [3], ⟨0, 7⟩, false, false, true, false⟩) : State).grpWin (63 : Fin 64) = some (⟨9, 0, 2, [3], ⟨0, 7⟩, false, false, true, false⟩ : GrpWin) ∧
    (⟨9, 0, 2, [3], ⟨0, 7⟩, false, false, true, false⟩ : GrpWin).close ≤ (State.reset.setGrpWin 63 (some ⟨9, 0, 2, [3], ⟨0, 7⟩, false, false, true, false⟩) : State).instant (9000 : Tm) ∧
    (⟨9, 0, 2, [3], ⟨0, 7⟩, false, false, true, false⟩ : GrpWin).chans.length < (⟨9, 0, 2, [3], ⟨0, 7⟩, false, false, true, false⟩ : GrpWin).n := by
  decide

/-- A state and operands that meet the hypotheses of clause 9 of ConditionsAndGroupsComplete. -/
theorem witness_ConditionsAndGroupsComplete_9 :
    (((((({ State.reset with pwr := { PwrSt.reset with acq := true } }).putB P.FAST_CFG_ENABLE 3 true).putB P.GROUP_CFG_ENABLE 63 true).put P.GROUP_CFG_RULE 63 1).put P.GROUP_SUM_THR 63 100).put P.GROUP_MASK_MASK 63 0x18 : State).pwr.por = false ∧
    (([(3, ⟨900, 60, false, false⟩), (4, ⟨400, 25, false, false⟩)] : List (Ch × Lvl)).map (fun x => x.1.val) = (((((({ State.reset with pwr := { PwrSt.reset with acq := true } }).putB P.FAST_CFG_ENABLE 3 true).putB P.GROUP_CFG_ENABLE 63 true).put P.GROUP_CFG_RULE 63 1).put P.GROUP_SUM_THR 63 100).put P.GROUP_MASK_MASK 63 0x18 : State).groupChans (63 : Fin 64)) ∧
    ((((((({ State.reset with pwr := { PwrSt.reset with acq := true } }).putB P.FAST_CFG_ENABLE 3 true).putB P.GROUP_CFG_ENABLE 63 true).put P.GROUP_CFG_RULE 63 1).put P.GROUP_SUM_THR 63 100).put P.GROUP_MASK_MASK 63 0x18 : State).clock (99000 : Tm)).sumReady (63 : Fin 64) (7 : Nat) = true ∧
    (((((({ State.reset with pwr := { PwrSt.reset with acq := true } }).putB P.FAST_CFG_ENABLE 3 true).putB P.GROUP_CFG_ENABLE 63 true).put P.GROUP_CFG_RULE 63 1).put P.GROUP_SUM_THR 63 100).put P.GROUP_MASK_MASK 63 0x18 : State).abut = false ∧
    ((((((({ State.reset with pwr := { PwrSt.reset with acq := true } }).putB P.FAST_CFG_ENABLE 3 true).putB P.GROUP_CFG_ENABLE 63 true).put P.GROUP_CFG_RULE 63 1).put P.GROUP_SUM_THR 63 100).put P.GROUP_MASK_MASK 63 0x18 : State).clock (99000 : Tm)).sumJudged (63 : Fin 64) = true ∧
    ((((((({ State.reset with pwr := { PwrSt.reset with acq := true } }).putB P.FAST_CFG_ENABLE 3 true).putB P.GROUP_CFG_ENABLE 63 true).put P.GROUP_CFG_RULE 63 1).put P.GROUP_SUM_THR 63 100).put P.GROUP_MASK_MASK 63 0x18 : State).get P.GROUP_SUM_THR (63 : Fin 64) : Int) ≤ (((((({ State.reset with pwr := { PwrSt.reset with acq := true } }).putB P.FAST_CFG_ENABLE 3 true).putB P.GROUP_CFG_ENABLE 63 true).put P.GROUP_CFG_RULE 63 1).put P.GROUP_SUM_THR 63 100).put P.GROUP_MASK_MASK 63 0x18 : State).sumOf (7 : Nat) ([(3, ⟨900, 60, false, false⟩), (4, ⟨400, 25, false, false⟩)] : List (Ch × Lvl)) := by
  decide

/-- A state and operands that meet the hypotheses of clause 10 of ConditionsAndGroupsComplete. -/
theorem witness_ConditionsAndGroupsComplete_10 :
    (State.reset.put P.GROUP_SUM_THR 63 100 : State).pwr.por = false ∧
    (State.reset.put P.GROUP_SUM_THR 63 100 : State).sumOf (7 : Nat) ([] : List (Ch × Lvl)) < ((State.reset.put P.GROUP_SUM_THR 63 100 : State).get P.GROUP_SUM_THR (63 : Fin 64) : Int) := by
  decide

set_option maxRecDepth 100000 in
/-- A state and operands that meet the hypotheses of clause 1 of TriggerRootCompletes. -/
theorem witness_TriggerRootCompletes_1 :
    (wUp 2 ((State.reset.putB P.ROOT_CFG_ROOT 0 true).put P.FAB_ADDR_ADDR 0 0) : State).pwr.por = false ∧
    (wUp 2 ((State.reset.putB P.ROOT_CFG_ROOT 0 true).put P.FAB_ADDR_ADDR 0 0) : State).portCarries (2 : Port) = true ∧
    (wUp 2 ((State.reset.putB P.ROOT_CFG_ROOT 0 true).put P.FAB_ADDR_ADDR 0 0) : State).striped (2 : Port) = false ∧
    vc0Decode (⟨[5, 5, 5, 5], vc0Encode wVc0⟩ : Vc0Parts) = some (wVc0 : Vc0) ∧
    (wVc0 : Vc0).kind = 1 ∧
    ((wUp 2 ((State.reset.putB P.ROOT_CFG_ROOT 0 true).put P.FAB_ADDR_ADDR 0 0) : State).vc0Route (wVc0 : Vc0).dest (wVc0 : Vc0).spread).2.1 = true ∧
    (wUp 2 ((State.reset.putB P.ROOT_CFG_ROOT 0 true).put P.FAB_ADDR_ADDR 0 0) : State).rootOn = true := by
  decide

set_option maxRecDepth 100000 in
/-- A state and operands that meet the hypotheses of clause 2 of TriggerRootCompletes. -/
theorem witness_TriggerRootCompletes_2 :
    (wUp 2 (wUp 1 ((State.reset.put P.FAB_ADDR_ADDR 0 0x102).put P.FAB_REGION_ROUTE_PORT0 0 1)) : State).pwr.por = false ∧
    (wUp 2 (wUp 1 ((State.reset.put P.FAB_ADDR_ADDR 0 0x102).put P.FAB_REGION_ROUTE_PORT0 0 1)) : State).portCarries (2 : Port) = true ∧
    (wUp 2 (wUp 1 ((State.reset.put P.FAB_ADDR_ADDR 0 0x102).put P.FAB_REGION_ROUTE_PORT0 0 1)) : State).striped (2 : Port) = false ∧
    vc0Decode (⟨[5, 5, 5, 5], vc0Encode wVc0⟩ : Vc0Parts) = some (wVc0 : Vc0) ∧
    (wVc0 : Vc0).kind = 1 ∧
    (wUp 2 (wUp 1 ((State.reset.put P.FAB_ADDR_ADDR 0 0x102).put P.FAB_REGION_ROUTE_PORT0 0 1)) : State).vc0Route (wVc0 : Vc0).dest (wVc0 : Vc0).spread = ([(1 : Nat)], false, (false : Bool)) ∧
    (wUp 2 (wUp 1 ((State.reset.put P.FAB_ADDR_ADDR 0 0x102).put P.FAB_REGION_ROUTE_PORT0 0 1)) : State).portCarries (1 : Nat) = true ∧
    ((wUp 2 (wUp 1 ((State.reset.put P.FAB_ADDR_ADDR 0 0x102).put P.FAB_REGION_ROUTE_PORT0 0 1)) : State).fp (1 : Nat)).vc0Busy ≤ (wUp 2 (wUp 1 ((State.reset.put P.FAB_ADDR_ADDR 0 0x102).put P.FAB_REGION_ROUTE_PORT0 0 1)) : State).instant (99000 : Tm) := by
  decide

/-- A state and operands that meet the hypotheses of clause 3 of TriggerRootCompletes. -/
theorem witness_TriggerRootCompletes_3 :
    (((({ State.reset with trg := { TrgSt.reset with prims := [⟨wVc0, ⟨0, 5⟩, 50⟩] } }).putB P.ROOT_CFG_ROOT 0 true).putB P.CLASS_CFG_ENABLE 9 true).put P.ROOT_GROUPS_LO_GROUPS 9 8 : State).pwr.por = false ∧
    ((((({ State.reset with trg := { TrgSt.reset with prims := [⟨wVc0, ⟨0, 5⟩, 50⟩] } }).putB P.ROOT_CFG_ROOT 0 true).putB P.CLASS_CFG_ENABLE 9 true).put P.ROOT_GROUPS_LO_GROUPS 9 8 : State).trg.prims.find? (fun y => y.frame.origin == (3 : Nat) && y.frame.seq == (77 : Nat) && decide (y.eq ≤ (((({ State.reset with trg := { TrgSt.reset with prims := [⟨wVc0, ⟨0, 5⟩, 50⟩] } }).putB P.ROOT_CFG_ROOT 0 true).putB P.CLASS_CFG_ENABLE 9 true).put P.ROOT_GROUPS_LO_GROUPS 9 8 : State).instant (99000 : Tm))) = some (⟨wVc0, ⟨0, 5⟩, 50⟩ : Prim)) ∧
    (((({ State.reset with trg := { TrgSt.reset with prims := [⟨wVc0, ⟨0, 5⟩, 50⟩] } }).putB P.ROOT_CFG_ROOT 0 true).putB P.CLASS_CFG_ENABLE 9 true).put P.ROOT_GROUPS_LO_GROUPS 9 8 : State).rootOn = true := by
  decide

/-- A state and operands that meet the hypotheses of clause 4 of TriggerRootCompletes. -/
theorem witness_TriggerRootCompletes_4 :
    ((State.reset.putB P.ROOT_CFG_ROOT 0 true).setRootWin 9 (some ⟨9, 1, 8, [3], ⟨0, 7⟩, 0⟩) : State).pwr.por = false ∧
    ((State.reset.putB P.ROOT_CFG_ROOT 0 true).setRootWin 9 (some ⟨9, 1, 8, [3], ⟨0, 7⟩, 0⟩) : State).rootWin (9 : Fin 16) = some (⟨9, 1, 8, [3], ⟨0, 7⟩, 0⟩ : RootWin) ∧
    (⟨9, 1, 8, [3], ⟨0, 7⟩, 0⟩ : RootWin).close ≤ ((State.reset.putB P.ROOT_CFG_ROOT 0 true).setRootWin 9 (some ⟨9, 1, 8, [3], ⟨0, 7⟩, 0⟩) : State).instant (99000 : Tm) ∧
    ((State.reset.putB P.ROOT_CFG_ROOT 0 true).setRootWin 9 (some ⟨9, 1, 8, [3], ⟨0, 7⟩, 0⟩) : State).rootOn = true ∧
    (⟨9, 1, 8, [3], ⟨0, 7⟩, 0⟩ : RootWin).n ≤ (⟨9, 1, 8, [3], ⟨0, 7⟩, 0⟩ : RootWin).origins.length := by
  decide

/-- A state and operands that meet the hypotheses of clause 5 of TriggerRootCompletes. -/
theorem witness_TriggerRootCompletes_5 :
    (State.reset.setRootWin 9 (some ⟨9, 2, 8, [3], ⟨0, 7⟩, 0⟩) : State).pwr.por = false ∧
    (State.reset.setRootWin 9 (some ⟨9, 2, 8, [3], ⟨0, 7⟩, 0⟩) : State).rootWin (9 : Fin 16) = some (⟨9, 2, 8, [3], ⟨0, 7⟩, 0⟩ : RootWin) ∧
    (⟨9, 2, 8, [3], ⟨0, 7⟩, 0⟩ : RootWin).close ≤ (State.reset.setRootWin 9 (some ⟨9, 2, 8, [3], ⟨0, 7⟩, 0⟩) : State).instant (99000 : Tm) ∧
    (⟨9, 2, 8, [3], ⟨0, 7⟩, 0⟩ : RootWin).origins.length < (⟨9, 2, 8, [3], ⟨0, 7⟩, 0⟩ : RootWin).n := by
  decide

/-- A state and operands that meet the hypotheses of clause 6 of TriggerRootCompletes. -/
theorem witness_TriggerRootCompletes_6 :
    (State.reset.putB P.TRIG_IN_CFG_EN1 0 true : State).pwr.por = false ∧
    ((if (1 : Fin 2) = 0 then (State.reset.putB P.TRIG_IN_CFG_EN1 0 true : State).flag P.TRIG_IN_CFG_EN0 0 else (State.reset.putB P.TRIG_IN_CFG_EN1 0 true : State).flag P.TRIG_IN_CFG_EN1 0) = true) ∧
    ((true : Bool) = !(if (1 : Fin 2) = 0 then (State.reset.putB P.TRIG_IN_CFG_EN1 0 true : State).flag P.TRIG_IN_CFG_POL0 0 else (State.reset.putB P.TRIG_IN_CFG_EN1 0 true : State).flag P.TRIG_IN_CFG_POL1 0)) ∧
    (State.reset.putB P.TRIG_IN_CFG_EN1 0 true : State).abut = false ∧
    ((Tbl.get none (State.reset.putB P.TRIG_IN_CFG_EN1 0 true : State).trg.lastIn (1 : Fin 2)).all (fun l => decide (l + 100 * nsSt ≤ (State.reset.putB P.TRIG_IN_CFG_EN1 0 true : State).instant (999000 : Tm))) = true) := by
  decide

/-- A state and operands that meet the hypotheses of clause 7 of TriggerRootCompletes. -/
theorem witness_TriggerRootCompletes_7 :
    (({ State.reset with trg := { TrgSt.reset with lastIn := [(1, some 998000)] } }).putB P.TRIG_IN_CFG_EN1 0 true : State).pwr.por = false ∧
    ((if (1 : Fin 2) = 0 then (({ State.reset with trg := { TrgSt.reset with lastIn := [(1, some 998000)] } }).putB P.TRIG_IN_CFG_EN1 0 true : State).flag P.TRIG_IN_CFG_EN0 0 else (({ State.reset with trg := { TrgSt.reset with lastIn := [(1, some 998000)] } }).putB P.TRIG_IN_CFG_EN1 0 true : State).flag P.TRIG_IN_CFG_EN1 0) = true) ∧
    ((true : Bool) = !(if (1 : Fin 2) = 0 then (({ State.reset with trg := { TrgSt.reset with lastIn := [(1, some 998000)] } }).putB P.TRIG_IN_CFG_EN1 0 true : State).flag P.TRIG_IN_CFG_POL0 0 else (({ State.reset with trg := { TrgSt.reset with lastIn := [(1, some 998000)] } }).putB P.TRIG_IN_CFG_EN1 0 true : State).flag P.TRIG_IN_CFG_POL1 0)) ∧
    (({ State.reset with trg := { TrgSt.reset with lastIn := [(1, some 998000)] } }).putB P.TRIG_IN_CFG_EN1 0 true : State).abut = false ∧
    Tbl.get none (({ State.reset with trg := { TrgSt.reset with lastIn := [(1, some 998000)] } }).putB P.TRIG_IN_CFG_EN1 0 true : State).trg.lastIn (1 : Fin 2) = some (998000 : Tm) ∧
    (({ State.reset with trg := { TrgSt.reset with lastIn := [(1, some 998000)] } }).putB P.TRIG_IN_CFG_EN1 0 true : State).instant (999000 : Tm) < (998000 : Tm) + 100 * nsSt := by
  decide

/-- A state and operands that meet the hypotheses of clause 8 of TriggerRootCompletes. -/
theorem witness_TriggerRootCompletes_8 :
    (State.reset : State).pwr.por = false ∧
    ((if (1 : Fin 2) = 0 then (State.reset : State).flag P.TRIG_IN_CFG_EN0 0 else (State.reset : State).flag P.TRIG_IN_CFG_EN1 0) = false) := by
  decide

set_option maxRecDepth 100000 in
/-- A state and operands that meet the hypotheses of clause 9 of TriggerRootCompletes. -/
theorem witness_TriggerRootCompletes_9 :
    (State.reset.setPulses 1 [(9, 998000), (998500, 998700)] : State).pwr.por = false ∧
    (State.reset.setPulses 1 [(9, 998000), (998500, 998700)] : State).pulsesOf (1 : Fin 2) = ((9 : Tm), (998000 : Tm)) :: ([(998500, 998700)] : List (Tm × Tm)) ∧
    (998000 : Tm) ≤ (State.reset.setPulses 1 [(9, 998000), (998500, 998700)] : State).instant (999000 : Tm) := by
  decide

set_option maxRecDepth 100000 in
/-- A state and operands that meet the hypotheses of clause 10 of TriggerRootCompletes. -/
theorem witness_TriggerRootCompletes_10 :
    (wUp 2 ((State.reset.putB P.CLASS_CFG_ENABLE 3 true).put P.FAB_ADDR_ADDR 0 0) : State).pwr.por = false ∧
    (wUp 2 ((State.reset.putB P.CLASS_CFG_ENABLE 3 true).put P.FAB_ADDR_ADDR 0 0) : State).portCarries (2 : Port) = true ∧
    (wUp 2 ((State.reset.putB P.CLASS_CFG_ENABLE 3 true).put P.FAB_ADDR_ADDR 0 0) : State).striped (2 : Port) = false ∧
    vc0Decode (⟨[5, 5, 5, 5], vc0Encode { wVc0 with kind := 2 }⟩ : Vc0Parts) = some ({ wVc0 with kind := 2 } : Vc0) ∧
    ({ wVc0 with kind := 2 } : Vc0).kind = 2 ∧
    ((wUp 2 ((State.reset.putB P.CLASS_CFG_ENABLE 3 true).put P.FAB_ADDR_ADDR 0 0) : State).vc0Route ({ wVc0 with kind := 2 } : Vc0).dest ({ wVc0 with kind := 2 } : Vc0).spread).2.1 = true ∧
    (wUp 2 ((State.reset.putB P.CLASS_CFG_ENABLE 3 true).put P.FAB_ADDR_ADDR 0 0) : State).abut = false ∧
    Tbl.get none (wUp 2 ((State.reset.putB P.CLASS_CFG_ENABLE 3 true).put P.FAB_ADDR_ADDR 0 0) : State).fab.baseline ({ wVc0 with kind := 2 } : Vc0).origin = none ∧
    (wUp 2 ((State.reset.putB P.CLASS_CFG_ENABLE 3 true).put P.FAB_ADDR_ADDR 0 0) : State).flag P.CLASS_CFG_ENABLE (({ wVc0 with kind := 2 } : Vc0).group % 16) = true ∧
    ((wUp 2 ((State.reset.putB P.CLASS_CFG_ENABLE 3 true).put P.FAB_ADDR_ADDR 0 0) : State).trg.seen.any (fun x => x.1 == ((wUp 2 ((State.reset.putB P.CLASS_CFG_ENABLE 3 true).put P.FAB_ADDR_ADDR 0 0) : State).clock (99000 : Tm)).vc0Time ({ wVc0 with kind := 2 } : Vc0) && x.2.1 == ({ wVc0 with kind := 2 } : Vc0).group % 16) = false) ∧
    (wUp 2 ((State.reset.putB P.CLASS_CFG_ENABLE 3 true).put P.FAB_ADDR_ADDR 0 0) : State).outstanding < 64 := by
  decide

set_option maxRecDepth 100000 in
/-- A state and operands that meet the hypotheses of clause 11 of TriggerRootCompletes. -/
theorem witness_TriggerRootCompletes_11 :
    (wUp 2 ((State.reset.putB P.CLASS_CFG_ENABLE 3 false).put P.FAB_ADDR_ADDR 0 0) : State).pwr.por = false ∧
    (wUp 2 ((State.reset.putB P.CLASS_CFG_ENABLE 3 false).put P.FAB_ADDR_ADDR 0 0) : State).portCarries (2 : Port) = true ∧
    (wUp 2 ((State.reset.putB P.CLASS_CFG_ENABLE 3 false).put P.FAB_ADDR_ADDR 0 0) : State).striped (2 : Port) = false ∧
    vc0Decode (⟨[5, 5, 5, 5], vc0Encode { wVc0 with kind := 2 }⟩ : Vc0Parts) = some ({ wVc0 with kind := 2 } : Vc0) ∧
    ({ wVc0 with kind := 2 } : Vc0).kind = 2 ∧
    ((wUp 2 ((State.reset.putB P.CLASS_CFG_ENABLE 3 false).put P.FAB_ADDR_ADDR 0 0) : State).vc0Route ({ wVc0 with kind := 2 } : Vc0).dest ({ wVc0 with kind := 2 } : Vc0).spread).2.1 = true ∧
    (wUp 2 ((State.reset.putB P.CLASS_CFG_ENABLE 3 false).put P.FAB_ADDR_ADDR 0 0) : State).abut = false ∧
    (wUp 2 ((State.reset.putB P.CLASS_CFG_ENABLE 3 false).put P.FAB_ADDR_ADDR 0 0) : State).flag P.CLASS_CFG_ENABLE (({ wVc0 with kind := 2 } : Vc0).group % 16) = false := by
  decide

set_option maxRecDepth 100000 in
/-- A state and operands that meet the hypotheses of clause 12 of TriggerRootCompletes. -/
theorem witness_TriggerRootCompletes_12 :
    (wUp 2 ((({ State.reset with trg := { TrgSt.reset with seen := [((State.reset.clock 99000).vc0Time wVc0, 3, 98000)] } }).putB P.CLASS_CFG_ENABLE 3 true).put P.FAB_ADDR_ADDR 0 0) : State).pwr.por = false ∧
    (wUp 2 ((({ State.reset with trg := { TrgSt.reset with seen := [((State.reset.clock 99000).vc0Time wVc0, 3, 98000)] } }).putB P.CLASS_CFG_ENABLE 3 true).put P.FAB_ADDR_ADDR 0 0) : State).portCarries (2 : Port) = true ∧
    (wUp 2 ((({ State.reset with trg := { TrgSt.reset with seen := [((State.reset.clock 99000).vc0Time wVc0, 3, 98000)] } }).putB P.CLASS_CFG_ENABLE 3 true).put P.FAB_ADDR_ADDR 0 0) : State).striped (2 : Port) = false ∧
    vc0Decode (⟨[5, 5, 5, 5], vc0Encode { wVc0 with kind := 2 }⟩ : Vc0Parts) = some ({ wVc0 with kind := 2 } : Vc0) ∧
    ({ wVc0 with kind := 2 } : Vc0).kind = 2 ∧
    ((wUp 2 ((({ State.reset with trg := { TrgSt.reset with seen := [((State.reset.clock 99000).vc0Time wVc0, 3, 98000)] } }).putB P.CLASS_CFG_ENABLE 3 true).put P.FAB_ADDR_ADDR 0 0) : State).vc0Route ({ wVc0 with kind := 2 } : Vc0).dest ({ wVc0 with kind := 2 } : Vc0).spread).2.1 = true ∧
    (wUp 2 ((({ State.reset with trg := { TrgSt.reset with seen := [((State.reset.clock 99000).vc0Time wVc0, 3, 98000)] } }).putB P.CLASS_CFG_ENABLE 3 true).put P.FAB_ADDR_ADDR 0 0) : State).abut = false ∧
    (wUp 2 ((({ State.reset with trg := { TrgSt.reset with seen := [((State.reset.clock 99000).vc0Time wVc0, 3, 98000)] } }).putB P.CLASS_CFG_ENABLE 3 true).put P.FAB_ADDR_ADDR 0 0) : State).flag P.CLASS_CFG_ENABLE (({ wVc0 with kind := 2 } : Vc0).group % 16) = true ∧
    ((wUp 2 ((({ State.reset with trg := { TrgSt.reset with seen := [((State.reset.clock 99000).vc0Time wVc0, 3, 98000)] } }).putB P.CLASS_CFG_ENABLE 3 true).put P.FAB_ADDR_ADDR 0 0) : State).trg.seen.any (fun x => decide ((wUp 2 ((({ State.reset with trg := { TrgSt.reset with seen := [((State.reset.clock 99000).vc0Time wVc0, 3, 98000)] } }).putB P.CLASS_CFG_ENABLE 3 true).put P.FAB_ADDR_ADDR 0 0) : State).instant (99000 : Tm) ≤ x.2.2 + 8192 * scSt) && x.1 == ((wUp 2 ((({ State.reset with trg := { TrgSt.reset with seen := [((State.reset.clock 99000).vc0Time wVc0, 3, 98000)] } }).putB P.CLASS_CFG_ENABLE 3 true).put P.FAB_ADDR_ADDR 0 0) : State).clock (99000 : Tm)).vc0Time ({ wVc0 with kind := 2 } : Vc0) && x.2.1 == ({ wVc0 with kind := 2 } : Vc0).group % 16) = true) := by
  decide

set_option maxRecDepth 100000 in
/-- A state and operands that meet the hypotheses of clause 13 of TriggerRootCompletes. -/
theorem witness_TriggerRootCompletes_13 :
    (wUp 2 (({ State.reset with fab := { FabSt.reset with baseline := [(3, some (70, 5))] } }).put P.FAB_ADDR_ADDR 0 0) : State).pwr.por = false ∧
    (wUp 2 (({ State.reset with fab := { FabSt.reset with baseline := [(3, some (70, 5))] } }).put P.FAB_ADDR_ADDR 0 0) : State).portCarries (2 : Port) = true ∧
    (wUp 2 (({ State.reset with fab := { FabSt.reset with baseline := [(3, some (70, 5))] } }).put P.FAB_ADDR_ADDR 0 0) : State).striped (2 : Port) = false ∧
    vc0Decode (⟨[5, 5, 5, 5], vc0Encode { wVc0 with kind := 2 }⟩ : Vc0Parts) = some ({ wVc0 with kind := 2 } : Vc0) ∧
    ({ wVc0 with kind := 2 } : Vc0).kind = 2 ∧
    ((wUp 2 (({ State.reset with fab := { FabSt.reset with baseline := [(3, some (70, 5))] } }).put P.FAB_ADDR_ADDR 0 0) : State).vc0Route ({ wVc0 with kind := 2 } : Vc0).dest ({ wVc0 with kind := 2 } : Vc0).spread).2.1 = true ∧
    (wUp 2 (({ State.reset with fab := { FabSt.reset with baseline := [(3, some (70, 5))] } }).put P.FAB_ADDR_ADDR 0 0) : State).abut = false ∧
    Tbl.get none (wUp 2 (({ State.reset with fab := { FabSt.reset with baseline := [(3, some (70, 5))] } }).put P.FAB_ADDR_ADDR 0 0) : State).fab.baseline ({ wVc0 with kind := 2 } : Vc0).origin = some ((70 : Nat), (5 : Tm)) ∧
    (1 < (({ wVc0 with kind := 2 } : Vc0).seq + 65536 - (70 : Nat) % 65536) % 65536 ∧ (({ wVc0 with kind := 2 } : Vc0).seq + 65536 - (70 : Nat) % 65536) % 65536 < 0x8000) := by
  decide

set_option maxRecDepth 100000 in
/-- A state and operands that meet the hypotheses of clause 1 of ExtractionCompletes. -/
theorem witness_ExtractionCompletes_1 :
    (wAcc : State).pwr.por = false ∧
    (wAcc : State).trg.run = none ∧
    (wAcc : State).trg.accs = (wA : Acc) :: ([] : List Acc) ∧
    ((wAcc : State).clock (wAccT : Tm)).accDue (wA : Acc) = true ∧
    (wAcc : State).abut = false ∧
    ((wAcc : State).clock (wAccT : Tm)).windowOf (wA : Acc) = some (((wAcc.clock wAccT).windowOf wA).getD Extract.reset : Extract) ∧
    ((wAcc : State).clock (wAccT : Tm)).pastRing (((wAcc.clock wAccT).windowOf wA).getD Extract.reset : Extract) = false ∧
    (wAcc : State).bufferFull (((wAcc.clock wAccT).windowOf wA).getD Extract.reset : Extract) = false := by
  decide

/-- A state and operands that meet the hypotheses of clause 2 of ExtractionCompletes. -/
theorem witness_ExtractionCompletes_2 :
    ({ wAcc with trg := { wAcc.trg with used := eventBuffer } } : State).pwr.por = false ∧
    ({ wAcc with trg := { wAcc.trg with used := eventBuffer } } : State).trg.run = none ∧
    ({ wAcc with trg := { wAcc.trg with used := eventBuffer } } : State).trg.accs = (wA : Acc) :: ([] : List Acc) ∧
    (({ wAcc with trg := { wAcc.trg with used := eventBuffer } } : State).clock (wAccT : Tm)).accDue (wA : Acc) = true ∧
    ({ wAcc with trg := { wAcc.trg with used := eventBuffer } } : State).abut = false ∧
    (({ wAcc with trg := { wAcc.trg with used := eventBuffer } } : State).clock (wAccT : Tm)).windowOf (wA : Acc) = some (((wAcc.clock wAccT).windowOf wA).getD Extract.reset : Extract) ∧
    (({ wAcc with trg := { wAcc.trg with used := eventBuffer } } : State).clock (wAccT : Tm)).pastRing (((wAcc.clock wAccT).windowOf wA).getD Extract.reset : Extract) = false ∧
    ({ wAcc with trg := { wAcc.trg with used := eventBuffer } } : State).bufferFull (((wAcc.clock wAccT).windowOf wA).getD Extract.reset : Extract) = true := by
  decide +kernel

/-- A state and operands that meet the hypotheses of clause 3 of ExtractionCompletes. -/
theorem witness_ExtractionCompletes_3 :
    ({ wAcc with time := { TimeSt.reset with anchors := [] } } : State).pwr.por = false ∧
    ({ wAcc with time := { TimeSt.reset with anchors := [] } } : State).trg.run = none ∧
    ({ wAcc with time := { TimeSt.reset with anchors := [] } } : State).trg.accs = (wA : Acc) :: ([] : List Acc) ∧
    (({ wAcc with time := { TimeSt.reset with anchors := [] } } : State).clock (wAccT : Tm)).accDue (wA : Acc) = true ∧
    ({ wAcc with time := { TimeSt.reset with anchors := [] } } : State).abut = false ∧
    (({ wAcc with time := { TimeSt.reset with anchors := [] } } : State).clock (wAccT : Tm)).windowOf (wA : Acc) = none := by
  decide

/-- A state and operands that meet the hypotheses of clause 4 of ExtractionCompletes. -/
theorem witness_ExtractionCompletes_4 :
    (wAcc.putB P.DECK_STATUS_ONLINE 0 true : State).pwr.por = false ∧
    (wAcc.putB P.DECK_STATUS_ONLINE 0 true : State).trg.run = none ∧
    (wAcc.putB P.DECK_STATUS_ONLINE 0 true : State).trg.accs = (wA : Acc) :: ([] : List Acc) ∧
    ((wAcc.putB P.DECK_STATUS_ONLINE 0 true : State).clock (msSt : Tm)).accDue (wA : Acc) = true ∧
    (wAcc.putB P.DECK_STATUS_ONLINE 0 true : State).abut = false ∧
    ((wAcc.putB P.DECK_STATUS_ONLINE 0 true : State).clock (msSt : Tm)).windowOf (wA : Acc) = some ((((wAcc.putB P.DECK_STATUS_ONLINE 0 true).clock msSt).windowOf wA).getD Extract.reset : Extract) ∧
    ((wAcc.putB P.DECK_STATUS_ONLINE 0 true : State).clock (msSt : Tm)).pastRing ((((wAcc.putB P.DECK_STATUS_ONLINE 0 true).clock msSt).windowOf wA).getD Extract.reset : Extract) = true ∧
    (wA : Acc).waits = false ∧
    (wAcc.putB P.DECK_STATUS_ONLINE 0 true : State).flag P.DECK_STATUS_ONLINE 0 = true := by
  decide +kernel

/-- A state and operands that meet the hypotheses of clause 5 of ExtractionCompletes. -/
theorem witness_ExtractionCompletes_5 :
    ({ wAcc with trg := { wAcc.trg with accs := [{ wA with waits := true }] } } : State).pwr.por = false ∧
    ({ wAcc with trg := { wAcc.trg with accs := [{ wA with waits := true }] } } : State).trg.accs = ({ wA with waits := true } : Acc) :: ([] : List Acc) ∧
    ({ wA with waits := true } : Acc).waits = true ∧
    (({ wAcc with trg := { wAcc.trg with accs := [{ wA with waits := true }] } } : State).clock (msSt : Tm)).windowOf ({ wA with waits := true } : Acc) = some (((wAcc.clock msSt).windowOf { wA with waits := true }).getD Extract.reset : Extract) ∧
    (({ wAcc with trg := { wAcc.trg with accs := [{ wA with waits := true }] } } : State).clock (msSt : Tm)).pastRing (((wAcc.clock msSt).windowOf { wA with waits := true }).getD Extract.reset : Extract) = true := by
  decide +kernel

/-- A state and operands that meet the hypotheses of clause 6 of ExtractionCompletes. -/
theorem witness_ExtractionCompletes_6 :
    ({ State.reset with trg := { TrgSt.reset with used := 90, taken := 50 } } : State).pwr.por = false ∧
    (({ State.reset with trg := { TrgSt.reset with used := 90, taken := 50 } } : State).trg.accs.head?.all (fun a => !a.waits) = true) := by
  decide

/-- A state and operands that meet the hypotheses of clause 7 of ExtractionCompletes. -/
theorem witness_ExtractionCompletes_7 :
    ({ wAcc with trg := { wAcc.trg with accs := [{ wA with waits := true }], used := eventBuffer, taken := eventBuffer } } : State).pwr.por = false ∧
    ({ wAcc with trg := { wAcc.trg with accs := [{ wA with waits := true }], used := eventBuffer, taken := eventBuffer } } : State).trg.run = none ∧
    ({ wAcc with trg := { wAcc.trg with accs := [{ wA with waits := true }], used := eventBuffer, taken := eventBuffer } } : State).trg.accs = ({ wA with waits := true } : Acc) :: ([] : List Acc) ∧
    ({ wA with waits := true } : Acc).waits = true ∧
    ({ wAcc with trg := { wAcc.trg with accs := [{ wA with waits := true }], used := eventBuffer, taken := eventBuffer } } : State).abut = false ∧
    (({ wAcc with trg := { wAcc.trg with accs := [{ wA with waits := true }], used := eventBuffer, taken := eventBuffer } } : State).clock (wAccT : Tm)).windowOf ({ wA with waits := true } : Acc) = some (((wAcc.clock wAccT).windowOf { wA with waits := true }).getD Extract.reset : Extract) ∧
    (({ wAcc with trg := { wAcc.trg with accs := [{ wA with waits := true }], used := eventBuffer, taken := eventBuffer } } : State).clock (wAccT : Tm)).pastRing (((wAcc.clock wAccT).windowOf { wA with waits := true }).getD Extract.reset : Extract) = false ∧
    ({ wAcc with trg := { wAcc.trg with accs := [{ wA with waits := true }], used := eventBuffer, taken := eventBuffer } } : State).trg.used - min (1000000 : Nat) ({ wAcc with trg := { wAcc.trg with accs := [{ wA with waits := true }], used := eventBuffer, taken := eventBuffer } } : State).trg.taken + (((wAcc.clock wAccT).windowOf { wA with waits := true }).getD Extract.reset : Extract).reserved ≤ eventBuffer := by
  decide +kernel

/-- A state and operands that meet the hypotheses of clause 8 of ExtractionCompletes. -/
theorem witness_ExtractionCompletes_8 :
    ({ State.reset with trg := { TrgSt.reset with run := some { Extract.reset with start := 5, acc := wA, mask := 1, pre := 4, post := 4, regs := (State.reset.putB P.FAST_CFG_ENABLE 0 true).regs } } } : State).pwr.por = false ∧
    ({ State.reset with trg := { TrgSt.reset with run := some { Extract.reset with start := 5, acc := wA, mask := 1, pre := 4, post := 4, regs := (State.reset.putB P.FAST_CFG_ENABLE 0 true).regs } } } : State).trg.run = some ({ Extract.reset with start := 5, acc := wA, mask := 1, pre := 4, post := 4, regs := (State.reset.putB P.FAST_CFG_ENABLE 0 true).regs } : Extract) ∧
    ({ State.reset with trg := { TrgSt.reset with run := some { Extract.reset with start := 5, acc := wA, mask := 1, pre := 4, post := 4, regs := (State.reset.putB P.FAST_CFG_ENABLE 0 true).regs } } } : State).abut = false ∧
    (({ Extract.reset with start := 5, acc := wA, mask := 1, pre := 4, post := 4, regs := (State.reset.putB P.FAST_CFG_ENABLE 0 true).regs } : Extract).chans.all (fun c => (windowData ([(0, List.replicate 8 ⟨700, 44, false, false⟩)] : List (Ch × List Lvl)) c).length == ({ Extract.reset with start := 5, acc := wA, mask := 1, pre := 4, post := 4, regs := (State.reset.putB P.FAST_CFG_ENABLE 0 true).regs } : Extract).len) = true) ∧
    ({ Extract.reset with start := 5, acc := wA, mask := 1, pre := 4, post := 4, regs := (State.reset.putB P.FAST_CFG_ENABLE 0 true).regs } : Extract).start + ({ Extract.reset with start := 5, acc := wA, mask := 1, pre := 4, post := 4, regs := (State.reset.putB P.FAST_CFG_ENABLE 0 true).regs } : Extract).time ≤ ({ State.reset with trg := { TrgSt.reset with run := some { Extract.reset with start := 5, acc := wA, mask := 1, pre := 4, post := 4, regs := (State.reset.putB P.FAST_CFG_ENABLE 0 true).regs } } } : State).instant (msSt : Tm) ∧
    ({ Extract.reset with start := 5, acc := wA, mask := 1, pre := 4, post := 4, regs := (State.reset.putB P.FAST_CFG_ENABLE 0 true).regs } : Extract).acc.late = false := by
  decide

/-- A state and operands that meet the hypotheses of clause 9 of ExtractionCompletes. -/
theorem witness_ExtractionCompletes_9 :
    ({ State.reset with trg := { TrgSt.reset with run := some { Extract.reset with start := 5, acc := { wA with late := true }, mask := 1, pre := 4, post := 4 } } } : State).pwr.por = false ∧
    ({ State.reset with trg := { TrgSt.reset with run := some { Extract.reset with start := 5, acc := { wA with late := true }, mask := 1, pre := 4, post := 4 } } } : State).trg.run = some ({ Extract.reset with start := 5, acc := { wA with late := true }, mask := 1, pre := 4, post := 4 } : Extract) ∧
    ({ State.reset with trg := { TrgSt.reset with run := some { Extract.reset with start := 5, acc := { wA with late := true }, mask := 1, pre := 4, post := 4 } } } : State).abut = false ∧
    (({ Extract.reset with start := 5, acc := { wA with late := true }, mask := 1, pre := 4, post := 4 } : Extract).chans.all (fun c => (windowData ([(0, List.replicate 8 ⟨700, 44, false, false⟩)] : List (Ch × List Lvl)) c).length == ({ Extract.reset with start := 5, acc := { wA with late := true }, mask := 1, pre := 4, post := 4 } : Extract).len) = true) ∧
    ({ Extract.reset with start := 5, acc := { wA with late := true }, mask := 1, pre := 4, post := 4 } : Extract).start + ({ Extract.reset with start := 5, acc := { wA with late := true }, mask := 1, pre := 4, post := 4 } : Extract).time ≤ ({ State.reset with trg := { TrgSt.reset with run := some { Extract.reset with start := 5, acc := { wA with late := true }, mask := 1, pre := 4, post := 4 } } } : State).instant (msSt : Tm) ∧
    ({ Extract.reset with start := 5, acc := { wA with late := true }, mask := 1, pre := 4, post := 4 } : Extract).acc.late = true := by
  decide

/-- A state and operands that meet the hypotheses of clause 1 of RecorderCompletes. -/
theorem witness_RecorderCompletes_1 :
    (withHolder 2 State.reset : State).pwr.por = false ∧
    (withHolder 2 State.reset : State).core.holder = (1 : Pier).val + 1 ∧
    (withHolder 2 State.reset : State).get P.REC_CFG_SEV_MIN 0 ≤ (5 : Fin 8).val ∧
    ((withHolder 2 State.reset : State).clock (5 : Tm)).openRepeat (0x101 : BitVec 16).toNat (5 : Fin 8) = none ∧
    secSt ≤ (((withHolder 2 State.reset : State).clock (5 : Tm)).bucketOf (0x101 : BitVec 16).toNat).level ∧
    ((withHolder 2 State.reset : State).clock (5 : Tm)).noRoom (((withHolder 2 State.reset : State).clock (5 : Tm)).newRecord (0x101 : BitVec 16).toNat (5 : Fin 8) (([1, 2, 3] : List Byte).take 224)) = false := by
  decide

/-- A state and operands that meet the hypotheses of clause 2 of RecorderCompletes. -/
theorem witness_RecorderCompletes_2 :
    ({ withHolder 2 State.reset with recd := { RecSt.reset with opened := true, staging := [{ LogRec.reset with code := 0x101, severity := 5 }] } } : State).pwr.por = false ∧
    ({ withHolder 2 State.reset with recd := { RecSt.reset with opened := true, staging := [{ LogRec.reset with code := 0x101, severity := 5 }] } } : State).core.holder = (1 : Pier).val + 1 ∧
    ({ withHolder 2 State.reset with recd := { RecSt.reset with opened := true, staging := [{ LogRec.reset with code := 0x101, severity := 5 }] } } : State).get P.REC_CFG_SEV_MIN 0 ≤ (5 : Fin 8).val ∧
    (({ withHolder 2 State.reset with recd := { RecSt.reset with opened := true, staging := [{ LogRec.reset with code := 0x101, severity := 5 }] } } : State).clock (5 : Tm)).openRepeat (0x101 : BitVec 16).toNat (5 : Fin 8) = some ({ LogRec.reset with code := 0x101, severity := 5 } : LogRec) := by
  decide

/-- A state and operands that meet the hypotheses of clause 3 of RecorderCompletes. -/
theorem witness_RecorderCompletes_3 :
    ((withHolder 2 State.reset).put P.REC_CFG_SEV_MIN 0 6 : State).pwr.por = false ∧
    ((withHolder 2 State.reset).put P.REC_CFG_SEV_MIN 0 6 : State).core.holder = (1 : Pier).val + 1 ∧
    (5 : Fin 8).val < ((withHolder 2 State.reset).put P.REC_CFG_SEV_MIN 0 6 : State).get P.REC_CFG_SEV_MIN 0 := by
  decide

/-- A state and operands that meet the hypotheses of clause 4 of RecorderCompletes. -/
theorem witness_RecorderCompletes_4 :
    (withHolder 1 State.reset : State).pwr.por = false ∧
    (withHolder 1 State.reset : State).core.holder ≠ (1 : Pier).val + 1 := by
  decide

/-- A state and operands that meet the hypotheses of clause 5 of RecorderCompletes. -/
theorem witness_RecorderCompletes_5 :
    ({ State.reset with recd := { RecSt.reset with opened := true, staging := [LogRec.reset] } } : State).pwr.por = false ∧
    ({ State.reset with recd := { RecSt.reset with opened := true, staging := [LogRec.reset] } } : State).recd.staging.getLast? = some (LogRec.reset : LogRec) ∧
    ({ State.reset with recd := { RecSt.reset with opened := true, staging := [LogRec.reset] } } : State).recd.opened = true ∧
    (({ State.reset with recd := { RecSt.reset with opened := true, staging := [LogRec.reset] } } : State).clock (100 * secSt : Tm)).place (LogRec.reset : LogRec).first + (({ State.reset with recd := { RecSt.reset with opened := true, staging := [LogRec.reset] } } : State).get P.REC_CFG_REPEAT_MS 0 * msSt : Nat) ≤ (({ State.reset with recd := { RecSt.reset with opened := true, staging := [LogRec.reset] } } : State).instant (100 * secSt : Tm) : Int) := by
  decide

/-- A state and operands that meet the hypotheses of clause 6 of RecorderCompletes. -/
theorem witness_RecorderCompletes_6 :
    ({ State.reset with recd := { RecSt.reset with staging := [LogRec.reset] } } : State).pwr.por = false ∧
    ({ State.reset with recd := { RecSt.reset with staging := [LogRec.reset] } } : State).recd.head = some (LogRec.reset : LogRec) ∧
    (({ State.reset with recd := { RecSt.reset with staging := [LogRec.reset] } } : State).clock (100 * secSt : Tm)).logScanHolds = false ∧
    (({ State.reset with recd := { RecSt.reset with staging := [LogRec.reset] } } : State).clock (100 * secSt : Tm)).budgetFill.logCost (LogRec.reset : LogRec) ≤ (({ State.reset with recd := { RecSt.reset with staging := [LogRec.reset] } } : State).clock (100 * secSt : Tm)).budgetFill.get P.REC_BUDGET_WORDS 0 := by
  decide

/-- A state and operands that meet the hypotheses of clause 7 of RecorderCompletes. -/
theorem witness_RecorderCompletes_7 :
    (State.reset : State).pwr.por = false := by
  decide

/-- A state and operands that meet the hypotheses of clause 1 of DeckWriterCompletes. -/
theorem witness_DeckWriterCompletes_1 :
    (({ State.reset with deck := { DeckSt.reset with blocks := [(7, { Blk.reset with start := ⟨0, 5⟩, stop := 90 })], sized := 4096 } }).putB P.DECK_STATUS_ONLINE 0 true : State).pwr.por = false ∧
    (({ State.reset with deck := { DeckSt.reset with blocks := [(7, { Blk.reset with start := ⟨0, 5⟩, stop := 90 })], sized := 4096 } }).putB P.DECK_STATUS_ONLINE 0 true : State).deckInterval = some ((⟨0, 5⟩ : Stamp), (90 : Tm)) ∧
    ((({ State.reset with deck := { DeckSt.reset with blocks := [(7, { Blk.reset with start := ⟨0, 5⟩, stop := 90 })], sized := 4096 } }).putB P.DECK_STATUS_ONLINE 0 true : State).clock (msSt : Tm)).endPlace ⟨(⟨0, 5⟩ : Stamp).epoch, (90 : Tm)⟩ + (6144 * ccSt : Nat) ≤ ((({ State.reset with deck := { DeckSt.reset with blocks := [(7, { Blk.reset with start := ⟨0, 5⟩, stop := 90 })], sized := 4096 } }).putB P.DECK_STATUS_ONLINE 0 true : State).instant (msSt : Tm) : Int) ∧
    (({ State.reset with deck := { DeckSt.reset with blocks := [(7, { Blk.reset with start := ⟨0, 5⟩, stop := 90 })], sized := 4096 } }).putB P.DECK_STATUS_ONLINE 0 true : State).flag P.DECK_STATUS_ONLINE 0 = true ∧
    ((({ State.reset with deck := { DeckSt.reset with blocks := [(7, { Blk.reset with start := ⟨0, 5⟩, stop := 90 })], sized := 4096 } }).putB P.DECK_STATUS_ONLINE 0 true : State).deck.floor.all (fun f => f.before ⟨(⟨0, 5⟩ : Stamp).epoch, (90 : Tm)⟩) = true) := by
  decide

/-- A state and operands that meet the hypotheses of clause 2 of DeckWriterCompletes. -/
theorem witness_DeckWriterCompletes_2 :
    (({ State.reset with deck := { DeckSt.reset with floor := some ⟨0, 90⟩, blocks := [(7, { Blk.reset with start := ⟨0, 5⟩, stop := 90 })] } }).putB P.DECK_STATUS_ONLINE 0 true : State).pwr.por = false ∧
    (({ State.reset with deck := { DeckSt.reset with floor := some ⟨0, 90⟩, blocks := [(7, { Blk.reset with start := ⟨0, 5⟩, stop := 90 })] } }).putB P.DECK_STATUS_ONLINE 0 true : State).deckInterval = some ((⟨0, 5⟩ : Stamp), (90 : Tm)) ∧
    ((({ State.reset with deck := { DeckSt.reset with floor := some ⟨0, 90⟩, blocks := [(7, { Blk.reset with start := ⟨0, 5⟩, stop := 90 })] } }).putB P.DECK_STATUS_ONLINE 0 true : State).clock (msSt : Tm)).endPlace ⟨(⟨0, 5⟩ : Stamp).epoch, (90 : Tm)⟩ + (6144 * ccSt : Nat) ≤ ((({ State.reset with deck := { DeckSt.reset with floor := some ⟨0, 90⟩, blocks := [(7, { Blk.reset with start := ⟨0, 5⟩, stop := 90 })] } }).putB P.DECK_STATUS_ONLINE 0 true : State).instant (msSt : Tm) : Int) ∧
    (({ State.reset with deck := { DeckSt.reset with floor := some ⟨0, 90⟩, blocks := [(7, { Blk.reset with start := ⟨0, 5⟩, stop := 90 })] } }).putB P.DECK_STATUS_ONLINE 0 true : State).flag P.DECK_STATUS_ONLINE 0 = true ∧
    (({ State.reset with deck := { DeckSt.reset with floor := some ⟨0, 90⟩, blocks := [(7, { Blk.reset with start := ⟨0, 5⟩, stop := 90 })] } }).putB P.DECK_STATUS_ONLINE 0 true : State).deck.floor = some (⟨0, 90⟩ : Stamp) ∧
    (⟨0, 90⟩ : Stamp).before ⟨(⟨0, 5⟩ : Stamp).epoch, (90 : Tm)⟩ = false := by
  decide

/-- A state and operands that meet the hypotheses of clause 3 of DeckWriterCompletes. -/
theorem witness_DeckWriterCompletes_3 :
    (({ State.reset with deck := { DeckSt.reset with bounds := [(⟨0, msSt⟩, 3)], sized := 4096 } }).putB P.DECK_STATUS_ONLINE 0 true : State).pwr.por = false ∧
    (({ State.reset with deck := { DeckSt.reset with bounds := [(⟨0, msSt⟩, 3)], sized := 4096 } }).putB P.DECK_STATUS_ONLINE 0 true : State).deckInterval = none ∧
    (({ State.reset with deck := { DeckSt.reset with bounds := [(⟨0, msSt⟩, 3)], sized := 4096 } }).putB P.DECK_STATUS_ONLINE 0 true : State).deck.bounds = ((⟨0, msSt⟩, 3) : Stamp × Nat) :: ([] : List (Stamp × Nat)) ∧
    ((({ State.reset with deck := { DeckSt.reset with bounds := [(⟨0, msSt⟩, 3)], sized := 4096 } }).putB P.DECK_STATUS_ONLINE 0 true : State).clock (2 * msSt : Tm)).place ((⟨0, msSt⟩, 3) : Stamp × Nat).1 + (6144 * ccSt : Nat) ≤ ((({ State.reset with deck := { DeckSt.reset with bounds := [(⟨0, msSt⟩, 3)], sized := 4096 } }).putB P.DECK_STATUS_ONLINE 0 true : State).instant (2 * msSt : Tm) : Int) ∧
    ((({ State.reset with deck := { DeckSt.reset with bounds := [(⟨0, msSt⟩, 3)], sized := 4096 } }).putB P.DECK_STATUS_ONLINE 0 true : State).tdc.ch.any (fun c => c.2.blocks.any fun k => k.deck && !k.sent && k.start.before ((⟨0, msSt⟩, 3) : Stamp × Nat).1) = false) ∧
    (({ State.reset with deck := { DeckSt.reset with bounds := [(⟨0, msSt⟩, 3)], sized := 4096 } }).putB P.DECK_STATUS_ONLINE 0 true : State).flag P.DECK_STATUS_ONLINE 0 = true := by
  decide

/-- A state and operands that meet the hypotheses of clause 4 of DeckWriterCompletes. -/
theorem witness_DeckWriterCompletes_4 :
    ({ State.reset with deck := { DeckSt.reset with want := [(77, ⟨0, 500⟩, 0)] } } : State).pwr.por = false ∧
    (({ State.reset with deck := { DeckSt.reset with want := [(77, ⟨0, 500⟩, 0)] } } : State).deck.want.find? (fun y => y.1 == (77 : Ch).val && y.2.1.tb == (500 : Tm)) = some ((77, ⟨0, 500⟩, 0) : Nat × Stamp × Nat)) ∧
    (({ State.reset with deck := { DeckSt.reset with want := [(77, ⟨0, 500⟩, 0)] } } : State).clock (msSt : Tm)).firstPin ((77 : Ch) / 16) ((({ State.reset with deck := { DeckSt.reset with want := [(77, ⟨0, 500⟩, 0)] } } : State).clock (msSt : Tm)).place ((77, ⟨0, 500⟩, 0) : Nat × Stamp × Nat).2.1) - (snipShape ((77, ⟨0, 500⟩, 0) : Nat × Stamp × Nat).2.2).2 = ((({ State.reset with deck := { DeckSt.reset with want := [(77, ⟨0, 500⟩, 0)] } } : State).clock msSt).firstPin 4 ((({ State.reset with deck := { DeckSt.reset with want := [(77, ⟨0, 500⟩, 0)] } } : State).clock msSt).place ⟨0, 500⟩) - (snipShape 0).2 : Int) ∧
    (List.replicate 16 ⟨700, 44, false, false⟩ : List Lvl).length = (snipShape ((77, ⟨0, 500⟩, 0) : Nat × Stamp × Nat).2.2).1 ∧
    (({ State.reset with deck := { DeckSt.reset with want := [(77, ⟨0, 500⟩, 0)] } } : State).clock (msSt : Tm)).readable ((77 : Ch) / 16) (((({ State.reset with deck := { DeckSt.reset with want := [(77, ⟨0, 500⟩, 0)] } } : State).clock msSt).firstPin 4 ((({ State.reset with deck := { DeckSt.reset with want := [(77, ⟨0, 500⟩, 0)] } } : State).clock msSt).place ⟨0, 500⟩) - (snipShape 0).2 : Int) + (snipShape ((77, ⟨0, 500⟩, 0) : Nat × Stamp × Nat).2.2).1 - 1) = true := by
  decide

/-- A state and operands that meet the hypotheses of clause 1 of DeckReaderCompletes. -/
theorem witness_DeckReaderCompletes_1 :
    ((((State.reset.putB P.DECK_STATUS_ONLINE 0 true).putB P.CTX_SRC_REWIND 9 true).modCtx 9 fun c => { c with state := 1 } : State).pwr.por = false) ∧
    (((((State.reset.putB P.DECK_STATUS_ONLINE 0 true).putB P.CTX_SRC_REWIND 9 true).modCtx 9 fun c => { c with state := 1 } : State).clock (secSt : Tm)).reqJudge (9 : Ctx) (Req.parse (wReq : List Byte)) = stOk) ∧
    (Req.parse (wReq : List Byte)).delivers = true := by
  decide

/-- A state and operands that meet the hypotheses of clause 2 of DeckReaderCompletes. -/
theorem witness_DeckReaderCompletes_2 :
    ((((State.reset.putB P.DECK_STATUS_ONLINE 0 true).putB P.CTX_SRC_REWIND 9 true).modCtx 9 fun c => { c with state := 1 } : State).pwr.por = false) ∧
    (((((State.reset.putB P.DECK_STATUS_ONLINE 0 true).putB P.CTX_SRC_REWIND 9 true).modCtx 9 fun c => { c with state := 1 } : State).clock (secSt : Tm)).reqJudge (9 : Ctx) (Req.parse ([8, 0] ++ wReq.drop 2 : List Byte)) = stOk) ∧
    (Req.parse ([8, 0] ++ wReq.drop 2 : List Byte)).delivers = false := by
  decide

/-- A state and operands that meet the hypotheses of clause 3 of DeckReaderCompletes. -/
theorem witness_DeckReaderCompletes_3 :
    (State.reset : State).pwr.por = false ∧
    ((State.reset : State).clock (secSt : Tm)).reqJudge (9 : Ctx) (Req.parse (wReq : List Byte)) ≠ stOk := by
  decide

/-- A state and operands that meet the hypotheses of clause 4 of DeckReaderCompletes. -/
theorem witness_DeckReaderCompletes_4 :
    (((({ State.reset with deck := { DeckSt.reset with placed := [9] } }).putB P.DECK_STATUS_ONLINE 0 true).modCtx 9 fun c => { c with state := 1, requests := [wReq] } : State).pwr.por = false) ∧
    (((({ State.reset with deck := { DeckSt.reset with placed := [9] } }).putB P.DECK_STATUS_ONLINE 0 true).modCtx 9 fun c => { c with state := 1, requests := [wReq] } : State).sess (5 : Fin 128) = none) ∧
    (((({ State.reset with deck := { DeckSt.reset with placed := [9] } }).putB P.DECK_STATUS_ONLINE 0 true).modCtx 9 fun c => { c with state := 1, requests := [wReq] } : State).flag P.DECK_STATUS_ONLINE 0 = true) ∧
    (5 : Fin 128).val < 64 ∧
    (((({ State.reset with deck := { DeckSt.reset with placed := [9] } }).putB P.DECK_STATUS_ONLINE 0 true).modCtx 9 fun c => { c with state := 1, requests := [wReq] } : State).nextRequest = some (9 : Nat)) ∧
    ((((({ State.reset with deck := { DeckSt.reset with placed := [9] } }).putB P.DECK_STATUS_ONLINE 0 true).modCtx 9 fun c => { c with state := 1, requests := [wReq] } : State).ctxOf (9 : Nat)).requests = (wReq : List Byte) :: ([] : List (List Byte))) ∧
    (((({ State.reset with deck := { DeckSt.reset with placed := [9] } }).putB P.DECK_STATUS_ONLINE 0 true).modCtx 9 fun c => { c with state := 1, requests := [wReq] } : State).servedFrom (Req.parse (wReq : List Byte)).epoch (Req.parse (wReq : List Byte)).start (Req.parse (wReq : List Byte)).stop = none) := by
  decide

/-- A state and operands that meet the hypotheses of clause 5 of DeckReaderCompletes. -/
theorem witness_DeckReaderCompletes_5 :
    (({ State.reset with trg := { TrgSt.reset with deckWait := [Extract.reset] } }).putB P.DECK_STATUS_ONLINE 0 true : State).pwr.por = false ∧
    (({ State.reset with trg := { TrgSt.reset with deckWait := [Extract.reset] } }).putB P.DECK_STATUS_ONLINE 0 true : State).sess (70 : Fin 128) = none ∧
    (({ State.reset with trg := { TrgSt.reset with deckWait := [Extract.reset] } }).putB P.DECK_STATUS_ONLINE 0 true : State).flag P.DECK_STATUS_ONLINE 0 = true ∧
    64 ≤ (70 : Fin 128).val ∧
    (({ State.reset with trg := { TrgSt.reset with deckWait := [Extract.reset] } }).putB P.DECK_STATUS_ONLINE 0 true : State).trg.deckWait = (Extract.reset : Extract) :: ([] : List Extract) ∧
    (({ State.reset with trg := { TrgSt.reset with deckWait := [Extract.reset] } }).putB P.DECK_STATUS_ONLINE 0 true : State).servedFrom (Extract.reset : Extract).acc.at_.epoch (Extract.reset : Extract).from (Extract.reset : Extract).to = none := by
  decide

/-- A state and operands that meet the hypotheses of clause 6 of DeckReaderCompletes. -/
theorem witness_DeckReaderCompletes_6 :
    (wSess 0 : State).pwr.por = false ∧
    (wSess 0 : State).sess (5 : Fin 128) = some (wSessX 0 : Sess) ∧
    ((wSess 0 : State).clock (secSt : Tm)).sessTurn (wSessX 0 : Sess) = true ∧
    (wSessX 0 : Sess).resume = false ∧
    (wSess 0 : State).deck.woff ≤ (wSessX 0 : Sess).pos + (wSess 0 : State).deck.sized ∧
    ((wSess 0 : State).deck.data.find? (fun y => decide ((wSessX 0 : Sess).pos ≤ y.pos)) = some (wDRec : DRec)) ∧
    (wSessX 0 : Sess).select (wDRec : DRec) = some (wDRec.data : Rec) ∧
    (.none : Poison) ≠ .header := by
  decide

/-- A state and operands that meet the hypotheses of clause 7 of DeckReaderCompletes. -/
theorem witness_DeckReaderCompletes_7 :
    ({ wSess 1 with deck := { (wSess 1).deck with data := [{ wDRec with chan := 3 }] } } : State).pwr.por = false ∧
    ({ wSess 1 with deck := { (wSess 1).deck with data := [{ wDRec with chan := 3 }] } } : State).sess (5 : Fin 128) = some (wSessX 1 : Sess) ∧
    (({ wSess 1 with deck := { (wSess 1).deck with data := [{ wDRec with chan := 3 }] } } : State).clock (secSt : Tm)).sessTurn (wSessX 1 : Sess) = true ∧
    (wSessX 1 : Sess).resume = false ∧
    ({ wSess 1 with deck := { (wSess 1).deck with data := [{ wDRec with chan := 3 }] } } : State).deck.woff ≤ (wSessX 1 : Sess).pos + ({ wSess 1 with deck := { (wSess 1).deck with data := [{ wDRec with chan := 3 }] } } : State).deck.sized ∧
    (({ wSess 1 with deck := { (wSess 1).deck with data := [{ wDRec with chan := 3 }] } } : State).deck.data.find? (fun y => decide ((wSessX 1 : Sess).pos ≤ y.pos)) = some ({ wDRec with chan := 3 } : DRec)) ∧
    (wSessX 1 : Sess).select ({ wDRec with chan := 3 } : DRec) = none ∧
    (wSessX 1 : Sess).past ({ wDRec with chan := 3 } : DRec) = false ∧
    (.none : Poison) ≠ .header := by
  decide

/-- A state and operands that meet the hypotheses of clause 8 of DeckReaderCompletes. -/
theorem witness_DeckReaderCompletes_8 :
    ({ wSess 0 with deck := { (wSess 0).deck with dir := [{ Dir.reset with first := 64 }] } } : State).pwr.por = false ∧
    ({ wSess 0 with deck := { (wSess 0).deck with dir := [{ Dir.reset with first := 64 }] } } : State).sess (5 : Fin 128) = some (wSessX 0 : Sess) ∧
    (({ wSess 0 with deck := { (wSess 0).deck with dir := [{ Dir.reset with first := 64 }] } } : State).clock (secSt : Tm)).sessTurn (wSessX 0 : Sess) = true ∧
    (wSessX 0 : Sess).resume = false ∧
    ({ wSess 0 with deck := { (wSess 0).deck with dir := [{ Dir.reset with first := 64 }] } } : State).deck.woff ≤ (wSessX 0 : Sess).pos + ({ wSess 0 with deck := { (wSess 0).deck with dir := [{ Dir.reset with first := 64 }] } } : State).deck.sized ∧
    (({ wSess 0 with deck := { (wSess 0).deck with dir := [{ Dir.reset with first := 64 }] } } : State).deck.data.find? (fun y => decide ((wSessX 0 : Sess).pos ≤ y.pos)) = some (wDRec : DRec)) ∧
    (.header : Poison) = .header ∧
    (({ wSess 0 with deck := { (wSess 0).deck with dir := [{ Dir.reset with first := 64 }] } } : State).deck.dir.find? (fun y => decide ((wSessX 0 : Sess).pos < y.first)) = some ({ Dir.reset with first := 64 } : Dir)) := by
  decide

/-- A state and operands that meet the hypotheses of clause 9 of DeckReaderCompletes. -/
theorem witness_DeckReaderCompletes_9 :
    (wSess 0 : State).pwr.por = false ∧
    (wSess 0 : State).sess (5 : Fin 128) = some (wSessX 0 : Sess) ∧
    ((wSess 0 : State).clock (secSt : Tm)).sessTurn (wSessX 0 : Sess) = true ∧
    (wSessX 0 : Sess).resume = false ∧
    (wSess 0 : State).deck.woff ≤ (wSessX 0 : Sess).pos + (wSess 0 : State).deck.sized ∧
    ((wSess 0 : State).deck.data.find? (fun y => decide ((wSessX 0 : Sess).pos ≤ y.pos)) = some (wDRec : DRec)) ∧
    (.header : Poison) = .header ∧
    ((wSess 0 : State).deck.dir.find? (fun y => decide ((wSessX 0 : Sess).pos < y.first)) = none) ∧
    (wSess 0 : State).sessOver (wSessX 0 : Sess) = false := by
  decide

/-- A state and operands that meet the hypotheses of clause 10 of DeckReaderCompletes. -/
theorem witness_DeckReaderCompletes_10 :
    ({ wSess 0 with deck := { (wSess 0).deck with data := [{ wDRec with data := { wDRec.data with tb := secSt }, from_ := secSt }], wpoint := ⟨0, secSt⟩ } } : State).pwr.por = false ∧
    ({ wSess 0 with deck := { (wSess 0).deck with data := [{ wDRec with data := { wDRec.data with tb := secSt }, from_ := secSt }], wpoint := ⟨0, secSt⟩ } } : State).sess (5 : Fin 128) = some (wSessX 0 : Sess) ∧
    (({ wSess 0 with deck := { (wSess 0).deck with data := [{ wDRec with data := { wDRec.data with tb := secSt }, from_ := secSt }], wpoint := ⟨0, secSt⟩ } } : State).clock (secSt : Tm)).sessTurn (wSessX 0 : Sess) = true ∧
    (wSessX 0 : Sess).resume = false ∧
    ({ wSess 0 with deck := { (wSess 0).deck with data := [{ wDRec with data := { wDRec.data with tb := secSt }, from_ := secSt }], wpoint := ⟨0, secSt⟩ } } : State).deck.woff ≤ (wSessX 0 : Sess).pos + ({ wSess 0 with deck := { (wSess 0).deck with data := [{ wDRec with data := { wDRec.data with tb := secSt }, from_ := secSt }], wpoint := ⟨0, secSt⟩ } } : State).deck.sized ∧
    (({ wSess 0 with deck := { (wSess 0).deck with data := [{ wDRec with data := { wDRec.data with tb := secSt }, from_ := secSt }], wpoint := ⟨0, secSt⟩ } } : State).deck.data.find? (fun y => decide ((wSessX 0 : Sess).pos ≤ y.pos)) = none ∧ ({ wSess 0 with deck := { (wSess 0).deck with data := [{ wDRec with data := { wDRec.data with tb := secSt }, from_ := secSt }], wpoint := ⟨0, secSt⟩ } } : State).sessOver (wSessX 0 : Sess) = true ∨ (.none : Poison) ≠ .header ∧ (({ wSess 0 with deck := { (wSess 0).deck with data := [{ wDRec with data := { wDRec.data with tb := secSt }, from_ := secSt }], wpoint := ⟨0, secSt⟩ } } : State).deck.data.find? fun d => decide ((wSessX 0 : Sess).pos ≤ d.pos)).any (fun d => ((wSessX 0 : Sess).select d).isNone && (wSessX 0 : Sess).past d) = true) ∧
    (wSessX 0 : Sess).kind = 0 := by
  decide

/-- A state and operands that meet the hypotheses of clause 11 of DeckReaderCompletes. -/
theorem witness_DeckReaderCompletes_11 :
    ({ wSess 0 with deck := { (wSess 0).deck with data := [] } } : State).pwr.por = false ∧
    ({ wSess 0 with deck := { (wSess 0).deck with data := [] } } : State).sess (5 : Fin 128) = some (wSessX 0 : Sess) ∧
    (({ wSess 0 with deck := { (wSess 0).deck with data := [] } } : State).clock (secSt : Tm)).sessTurn (wSessX 0 : Sess) = true ∧
    (wSessX 0 : Sess).resume = false ∧
    ({ wSess 0 with deck := { (wSess 0).deck with data := [] } } : State).deck.woff ≤ (wSessX 0 : Sess).pos + ({ wSess 0 with deck := { (wSess 0).deck with data := [] } } : State).deck.sized ∧
    (({ wSess 0 with deck := { (wSess 0).deck with data := [] } } : State).deck.data.find? (fun y => decide ((wSessX 0 : Sess).pos ≤ y.pos)) = none) ∧
    ({ wSess 0 with deck := { (wSess 0).deck with data := [] } } : State).sessOver (wSessX 0 : Sess) = false := by
  decide

/-- A state and operands that meet the hypotheses of clause 12 of DeckReaderCompletes. -/
theorem witness_DeckReaderCompletes_12 :
    ({ wSess 0 with deck := { (wSess 0).deck with woff := 99999 } } : State).pwr.por = false ∧
    ({ wSess 0 with deck := { (wSess 0).deck with woff := 99999 } } : State).sess (5 : Fin 128) = some (wSessX 0 : Sess) ∧
    (({ wSess 0 with deck := { (wSess 0).deck with woff := 99999 } } : State).clock (secSt : Tm)).sessTurn (wSessX 0 : Sess) = true ∧
    (wSessX 0 : Sess).pos + ({ wSess 0 with deck := { (wSess 0).deck with woff := 99999 } } : State).deck.sized < ({ wSess 0 with deck := { (wSess 0).deck with woff := 99999 } } : State).deck.woff ∧
    (wSessX 0 : Sess).kind = 0 := by
  decide

/-- A state and operands that meet the hypotheses of clause 13 of DeckReaderCompletes. -/
theorem witness_DeckReaderCompletes_13 :
    ({ State.reset with deck := { DeckSt.reset with woff := 99, sess := [(5, some { wSessX 0 with waits := true })] } } : State).pwr.por = false ∧
    ({ State.reset with deck := { DeckSt.reset with woff := 99, sess := [(5, some { wSessX 0 with waits := true })] } } : State).sess (5 : Fin 128) = some ({ wSessX 0 with waits := true } : Sess) ∧
    ({ wSessX 0 with waits := true } : Sess).waits = true ∧
    (({ State.reset with deck := { DeckSt.reset with woff := 99, sess := [(5, some { wSessX 0 with waits := true })] } } : State).sessOver ({ wSessX 0 with waits := true } : Sess) = true ∨ ({ wSessX 0 with waits := true } : Sess).epoch < ({ State.reset with deck := { DeckSt.reset with woff := 99, sess := [(5, some { wSessX 0 with waits := true })] } } : State).time.epoch ∨ (({ wSessX 0 with waits := true } : Sess).resume = false ∧ ({ wSessX 0 with waits := true } : Sess).pos < ({ State.reset with deck := { DeckSt.reset with woff := 99, sess := [(5, some { wSessX 0 with waits := true })] } } : State).deck.woff) ∨ (({ wSessX 0 with waits := true } : Sess).resume = true ∧ ({ State.reset with deck := { DeckSt.reset with woff := 99, sess := [(5, some { wSessX 0 with waits := true })] } } : State).deck.dir.any (fun y => decide (({ wSessX 0 with waits := true } : Sess).pos < y.first)) = true)) := by
  decide

/-- A state and operands that meet the hypotheses of clause 14 of DeckReaderCompletes. -/
theorem witness_DeckReaderCompletes_14 :
    ({ State.reset with trg := { TrgSt.reset with deckAccs := [({ Extract.reset with acc := wA, mask := 3 }, 70)] }, deck := { DeckSt.reset with sess := [(70, some { Sess.reset with kind := 1, ended := true })] } } : State).pwr.por = false ∧
    (({ State.reset with trg := { TrgSt.reset with deckAccs := [({ Extract.reset with acc := wA, mask := 3 }, 70)] }, deck := { DeckSt.reset with sess := [(70, some { Sess.reset with kind := 1, ended := true })] } } : State).trg.deckAccs.find? (fun e => e.1.acc.id == (5 : Nat) && e.1.acc.cls == (9 : Fin 16).val) = some (({ Extract.reset with acc := wA, mask := 3 } : Extract), (70 : Nat))) ∧
    ({ State.reset with trg := { TrgSt.reset with deckAccs := [({ Extract.reset with acc := wA, mask := 3 }, 70)] }, deck := { DeckSt.reset with sess := [(70, some { Sess.reset with kind := 1, ended := true })] } } : State).sess (70 : Nat) = some ({ Sess.reset with kind := 1, ended := true } : Sess) ∧
    ({ Sess.reset with kind := 1, ended := true } : Sess).ended = true := by
  decide

/-- A state and operands that meet the hypotheses of clause 1 of SeamCompletes. -/
theorem witness_SeamCompletes_1 :
    (State.reset.put P.SEAM_IN_STATUS_STATE 3 2 : State).pwr.por = false ∧
    (3 : SeamIn) ≠ 0 ∧
    (State.reset.put P.SEAM_IN_STATUS_STATE 3 2 : State).abut = false ∧
    (State.reset.put P.SEAM_IN_STATUS_STATE 3 2 : State).inState (3 : SeamIn) = 2 ∧
    (wRec 50 : Rec).flags.testBit 1 = false ∧
    (((State.reset.put P.SEAM_IN_STATUS_STATE 3 2 : State).si (3 : SeamIn)).hem.all (fun h => !(wRec 50 : Rec).stamp.before h) = true) ∧
    keyLt (wRec 50 : Rec).key ((State.reset.put P.SEAM_IN_STATUS_STATE 3 2 : State).si (3 : SeamIn)).lastKey = false := by
  decide

/-- A state and operands that meet the hypotheses of clause 2 of SeamCompletes. -/
theorem witness_SeamCompletes_2 :
    (State.reset.put P.SEAM_IN_STATUS_STATE 3 2 : State).pwr.por = false ∧
    (3 : SeamIn) ≠ 0 ∧
    (State.reset.put P.SEAM_IN_STATUS_STATE 3 2 : State).abut = false ∧
    ((State.reset.put P.SEAM_IN_STATUS_STATE 3 2 : State).inState (3 : SeamIn) ≠ 0 ∨ ((State.reset.put P.SEAM_IN_STATUS_STATE 3 2 : State).si (3 : SeamIn)).closing = true) ∧
    ({ wRec 50 with flags := 2 } : Rec).flags.testBit 1 = true := by
  decide

/-- A state and operands that meet the hypotheses of clause 3 of SeamCompletes. -/
theorem witness_SeamCompletes_3 :
    (((State.reset.put P.SEAM_IN_STATUS_STATE 3 2).modSi 3 fun x => { x with lastKey := (wRec 60).key } : State).pwr.por = false) ∧
    (3 : SeamIn) ≠ 0 ∧
    (((State.reset.put P.SEAM_IN_STATUS_STATE 3 2).modSi 3 fun x => { x with lastKey := (wRec 60).key } : State).abut = false) ∧
    (((State.reset.put P.SEAM_IN_STATUS_STATE 3 2).modSi 3 fun x => { x with lastKey := (wRec 60).key } : State).inState (3 : SeamIn) = 2) ∧
    (wRec 50 : Rec).flags.testBit 1 = false ∧
    (keyLt (wRec 50 : Rec).key (((State.reset.put P.SEAM_IN_STATUS_STATE 3 2).modSi 3 fun x => { x with lastKey := (wRec 60).key } : State).si (3 : SeamIn)).lastKey = true ∨ (((State.reset.put P.SEAM_IN_STATUS_STATE 3 2).modSi 3 fun x => { x with lastKey := (wRec 60).key } : State).si (3 : SeamIn)).hem.any (fun h => (wRec 50 : Rec).stamp.before h) = true) := by
  decide

/-- A state and operands that meet the hypotheses of clause 4 of SeamCompletes. -/
theorem witness_SeamCompletes_4 :
    ({ State.reset.put P.SEAM_IN_STATUS_STATE 0 2 with trg := { TrgSt.reset with buf := [wRec 50] } } : State).pwr.por = false ∧
    (0 : SeamIn) = 0 ∧
    ({ State.reset.put P.SEAM_IN_STATUS_STATE 0 2 with trg := { TrgSt.reset with buf := [wRec 50] } } : State).trg.buf = (wRec 50 : Rec) :: ([] : List Rec) ∧
    (({ State.reset.put P.SEAM_IN_STATUS_STATE 0 2 with trg := { TrgSt.reset with buf := [wRec 50] } } : State).clock (secSt : Tm)).placed (wRec 50 : Rec) = true ∧
    ({ State.reset.put P.SEAM_IN_STATUS_STATE 0 2 with trg := { TrgSt.reset with buf := [wRec 50] } } : State).flag P.SEAM_IN_STATUS_BACKPRESSURED 0 = false ∧
    ({ State.reset.put P.SEAM_IN_STATUS_STATE 0 2 with trg := { TrgSt.reset with buf := [wRec 50] } } : State).abut = false ∧
    ({ State.reset.put P.SEAM_IN_STATUS_STATE 0 2 with trg := { TrgSt.reset with buf := [wRec 50] } } : State).inState 0 ≠ 0 := by
  decide

set_option maxRecDepth 100000 in
/-- A state and operands that meet the hypotheses of clause 5 of SeamCompletes. -/
theorem witness_SeamCompletes_5 :
    ((((State.reset.putB P.SEAM_CFG_ENABLE 0 true).put P.SEAM_IN_STATUS_STATE 3 2).modSi 3 fun x => { x with hem := some ⟨0, 600⟩, q := [⟨wRec 50, false, false, 0⟩] } : State).pwr.por = false) ∧
    ((((State.reset.putB P.SEAM_CFG_ENABLE 0 true).put P.SEAM_IN_STATUS_STATE 3 2).modSi 3 fun x => { x with hem := some ⟨0, 600⟩, q := [⟨wRec 50, false, false, 0⟩] } : State).flag P.SEAM_CFG_ENABLE 0 = true) ∧
    ((((State.reset.putB P.SEAM_CFG_ENABLE 0 true).put P.SEAM_IN_STATUS_STATE 3 2).modSi 3 fun x => { x with hem := some ⟨0, 600⟩, q := [⟨wRec 50, false, false, 0⟩] } : State).abut = false) ∧
    (leastHead (((((State.reset.putB P.SEAM_CFG_ENABLE 0 true).put P.SEAM_IN_STATUS_STATE 3 2).modSi 3 fun x => { x with hem := some ⟨0, 600⟩, q := [⟨wRec 50, false, false, 0⟩] } : State).clock (99 : Tm)).seamEval).heads = some ((3 : Nat), (wRec 50 : Rec), false)) ∧
    ((wRec 50 : Rec).stamp.before (((((State.reset.putB P.SEAM_CFG_ENABLE 0 true).put P.SEAM_IN_STATUS_STATE 3 2).modSi 3 fun x => { x with hem := some ⟨0, 600⟩, q := [⟨wRec 50, false, false, 0⟩] } : State).clock (99 : Tm)).seamEval).seam.rp = true) ∧
    ((((((State.reset.putB P.SEAM_CFG_ENABLE 0 true).put P.SEAM_IN_STATUS_STATE 3 2).modSi 3 fun x => { x with hem := some ⟨0, 600⟩, q := [⟨wRec 50, false, false, 0⟩] } : State).clock (99 : Tm)).seamEval).egressRoom (wRec 50 : Rec) = true) := by
  decide

/-- A state and operands that meet the hypotheses of clause 6 of SeamCompletes. -/
theorem witness_SeamCompletes_6 :
    (State.reset.put P.SEAM_IN_STATUS_STATE 3 2 : State).pwr.por = false ∧
    ({ wRec 50 with type := 5, body := le 8 7 ++ le 8 2 } : Rec).type = 0x05 ∧
    ((State.reset.put P.SEAM_IN_STATUS_STATE 3 2 : State).inState ((2 : Port) + 1) ≠ 0 ∨ ((State.reset.put P.SEAM_IN_STATUS_STATE 3 2 : State).si ((2 : Port) + 1)).closing = true) ∧
    (State.reset.put P.SEAM_IN_STATUS_STATE 3 2 : State).abut = false := by
  decide

/-- A state and operands that meet the hypotheses of clause 7 of SeamCompletes. -/
theorem witness_SeamCompletes_7 :
    ((State.reset.modSi 3 fun x => { x with marks := [⟨⟨0, 700⟩, 0, true⟩] } : State).pwr.por = false) ∧
    (((State.reset.modSi 3 fun x => { x with marks := [⟨⟨0, 700⟩, 0, true⟩] } : State).si (3 : SeamIn)).marks = (⟨⟨0, 700⟩, 0, true⟩ : Mark) :: ([] : List Mark)) ∧
    ((⟨⟨0, 700⟩, 0, true⟩ : Mark).sent ≤ ((State.reset.modSi 3 fun x => { x with marks := [⟨⟨0, 700⟩, 0, true⟩] } : State).si (3 : SeamIn)).recv) ∧
    (((State.reset.modSi 3 fun x => { x with marks := [⟨⟨0, 700⟩, 0, true⟩] } : State).si (3 : SeamIn)).hem.all (fun h => !(⟨⟨0, 700⟩, 0, true⟩ : Mark).hem.before h) = true) := by
  decide

/-- A state and operands that meet the hypotheses of clause 8 of SeamCompletes. -/
theorem witness_SeamCompletes_8 :
    ((State.reset.modSi 3 fun x => { x with hem := some ⟨0, 800⟩, marks := [⟨⟨0, 700⟩, 0, false⟩] } : State).pwr.por = false) ∧
    (((State.reset.modSi 3 fun x => { x with hem := some ⟨0, 800⟩, marks := [⟨⟨0, 700⟩, 0, false⟩] } : State).si (3 : SeamIn)).marks = (⟨⟨0, 700⟩, 0, false⟩ : Mark) :: ([] : List Mark)) ∧
    ((⟨⟨0, 700⟩, 0, false⟩ : Mark).sent ≤ ((State.reset.modSi 3 fun x => { x with hem := some ⟨0, 800⟩, marks := [⟨⟨0, 700⟩, 0, false⟩] } : State).si (3 : SeamIn)).recv) ∧
    (((State.reset.modSi 3 fun x => { x with hem := some ⟨0, 800⟩, marks := [⟨⟨0, 700⟩, 0, false⟩] } : State).si (3 : SeamIn)).hem = some (⟨0, 800⟩ : Stamp)) ∧
    (⟨⟨0, 700⟩, 0, false⟩ : Mark).hem.before (⟨0, 800⟩ : Stamp) = true := by
  decide

set_option maxRecDepth 100000 in
/-- A state and operands that meet the hypotheses of clause 9 of SeamCompletes. -/
theorem witness_SeamCompletes_9 :
    (wUp 1 (State.reset.put P.SEAM_CFG_UP_PORT 0 1) : State).pwr.por = false ∧
    (wUp 1 (State.reset.put P.SEAM_CFG_UP_PORT 0 1) : State).instant (secSt : Tm) % secSt % ((wUp 1 (State.reset.put P.SEAM_CFG_UP_PORT 0 1) : State).get P.HEM_CFG_INTERVAL_US 0 * usSt) = 0 ∧
    (wUp 1 (State.reset.put P.SEAM_CFG_UP_PORT 0 1) : State).abut = false ∧
    (wUp 1 (State.reset.put P.SEAM_CFG_UP_PORT 0 1) : State).get P.SEAM_CFG_UP_PORT 0 = (1 : Port).val ∧
    (((wUp 1 (State.reset.put P.SEAM_CFG_UP_PORT 0 1) : State).clock (secSt : Tm)).seamEval).portCarries (1 : Port) = true ∧
    (((((wUp 1 (State.reset.put P.SEAM_CFG_UP_PORT 0 1) : State).clock (secSt : Tm)).seamEval).upOf (1 : Port)).lastMark.all (fun l => decide (l + (wUp 1 (State.reset.put P.SEAM_CFG_UP_PORT 0 1) : State).get P.HEM_CFG_GAP 0 * hkSt ≤ (wUp 1 (State.reset.put P.SEAM_CFG_UP_PORT 0 1) : State).instant (secSt : Tm))) = true) := by
  decide

set_option maxRecDepth 100000 in
/-- A state and operands that meet the hypotheses of clause 10 of SeamCompletes. -/
theorem witness_SeamCompletes_10 :
    ((wUp 1 ((State.reset.put P.SEAM_CFG_UP_PORT 0 1).modUp 1 fun x => { x with due := some 1, lastMark := some 5 }) : State).pwr.por = false) ∧
    (((((wUp 1 ((State.reset.put P.SEAM_CFG_UP_PORT 0 1).modUp 1 fun x => { x with due := some 1, lastMark := some 5 }) : State).clock (secSt : Tm)).seamEval).upOf (1 : Port)).due = some (1 : Nat)) ∧
    ((((wUp 1 ((State.reset.put P.SEAM_CFG_UP_PORT 0 1).modUp 1 fun x => { x with due := some 1, lastMark := some 5 }) : State).clock (secSt : Tm)).seamEval).portCarries (1 : Port) = true) ∧
    (((((wUp 1 ((State.reset.put P.SEAM_CFG_UP_PORT 0 1).modUp 1 fun x => { x with due := some 1, lastMark := some 5 }) : State).clock (secSt : Tm)).seamEval).upOf (1 : Port)).lastMark.all (fun l => decide (l + (wUp 1 ((State.reset.put P.SEAM_CFG_UP_PORT 0 1).modUp 1 fun x => { x with due := some 1, lastMark := some 5 }) : State).get P.HEM_CFG_GAP 0 * hkSt ≤ (wUp 1 ((State.reset.put P.SEAM_CFG_UP_PORT 0 1).modUp 1 fun x => { x with due := some 1, lastMark := some 5 }) : State).instant (secSt : Tm))) = true) := by
  decide

set_option maxRecDepth 100000 in
/-- A state and operands that meet the hypotheses of clause 11 of SeamCompletes. -/
theorem witness_SeamCompletes_11 :
    (((State.reset.put P.SEAM_IN_STATUS_STATE 3 2).modSi 3 fun x => { x with q := [⟨wRec 50, false, false, 0⟩] } : State).pwr.por = false) ∧
    (((State.reset.put P.SEAM_IN_STATUS_STATE 3 2).modSi 3 fun x => { x with q := [⟨wRec 50, false, false, 0⟩] } : State).inLive (3 : SeamIn) = true) ∧
    (((State.reset.put P.SEAM_IN_STATUS_STATE 3 2).modSi 3 fun x => { x with q := [⟨wRec 50, false, false, 0⟩] } : State).abut = false) ∧
    (((((State.reset.put P.SEAM_IN_STATUS_STATE 3 2).modSi 3 fun x => { x with q := [⟨wRec 50, false, false, 0⟩] } : State).clock (100 * secSt : Tm)).seamEval).flag P.SEAM_IN_STATUS_BACKPRESSURED (3 : SeamIn) = false) ∧
    ((((State.reset.put P.SEAM_IN_STATUS_STATE 3 2).modSi 3 fun x => { x with q := [⟨wRec 50, false, false, 0⟩] } : State).si (3 : SeamIn)).closing = false) ∧
    ((((((State.reset.put P.SEAM_IN_STATUS_STATE 3 2).modSi 3 fun x => { x with q := [⟨wRec 50, false, false, 0⟩] } : State).clock (100 * secSt : Tm)).seamEval).si (3 : SeamIn)).hemAt + ((State.reset.put P.SEAM_IN_STATUS_STATE 3 2).modSi 3 fun x => { x with q := [⟨wRec 50, false, false, 0⟩] } : State).get P.SEAM_IN_CFG_FRAY (3 : SeamIn) * 100 * usSt ≤ ((State.reset.put P.SEAM_IN_STATUS_STATE 3 2).modSi 3 fun x => { x with q := [⟨wRec 50, false, false, 0⟩] } : State).instant (100 * secSt : Tm)) := by
  decide

/-- A state and operands that meet the hypotheses of clause 12 of SeamCompletes. -/
theorem witness_SeamCompletes_12 :
    (((State.reset.putB P.DDR_STATUS_ONLINE 0 true).modSi 3 fun x => { x with q := [⟨wRec 50, true, false, 0⟩] } : State).pwr.por = false) ∧
    (((State.reset.putB P.DDR_STATUS_ONLINE 0 true).modSi 3 fun x => { x with q := [⟨wRec 50, true, false, 0⟩] } : State).spillOpen = true) ∧
    ((((State.reset.putB P.DDR_STATUS_ONLINE 0 true).modSi 3 fun x => { x with q := [⟨wRec 50, true, false, 0⟩] } : State).si (3 : SeamIn)).q.find? (fun y => y.spilled && !y.written) = some (⟨wRec 50, true, false, 0⟩ : SRec)) ∧
    ((⟨wRec 50, true, false, 0⟩ : SRec).data.bytes ≤ (((State.reset.putB P.DDR_STATUS_ONLINE 0 true).modSi 3 fun x => { x with q := [⟨wRec 50, true, false, 0⟩] } : State).si (3 : SeamIn)).spillPart + min 65472 ((((State.reset.putB P.DDR_STATUS_ONLINE 0 true).modSi 3 fun x => { x with q := [⟨wRec 50, true, false, 0⟩] } : State).si (3 : SeamIn)).backlog - (((State.reset.putB P.DDR_STATUS_ONLINE 0 true).modSi 3 fun x => { x with q := [⟨wRec 50, true, false, 0⟩] } : State).si (3 : SeamIn)).spillPart)) := by
  decide

/-- A state and operands that meet the hypotheses of clause 13 of SeamCompletes. -/
theorem witness_SeamCompletes_13 :
    (((State.reset.putB P.DDR_STATUS_ONLINE 0 true).modSi 3 fun x => { x with q := [⟨wRec 50, true, true, 0⟩] } : State).pwr.por = false) ∧
    ((((State.reset.putB P.DDR_STATUS_ONLINE 0 true).modSi 3 fun x => { x with q := [⟨wRec 50, true, true, 0⟩] } : State).si (3 : SeamIn)).q.find? (·.spilled) = some (⟨wRec 50, true, true, 0⟩ : SRec)) ∧
    (((State.reset.putB P.DDR_STATUS_ONLINE 0 true).modSi 3 fun x => { x with q := [⟨wRec 50, true, true, 0⟩] } : State).spillOpen = true ∧ (⟨wRec 50, true, true, 0⟩ : SRec).written = true) ∧
    (64 * (((State.reset.putB P.DDR_STATUS_ONLINE 0 true).modSi 3 fun x => { x with q := [⟨wRec 50, true, true, 0⟩] } : State).si (3 : SeamIn)).cells < 65536) ∧
    ((⟨wRec 50, true, true, 0⟩ : SRec).data.cells ≤ (((State.reset.putB P.DDR_STATUS_ONLINE 0 true).modSi 3 fun x => { x with q := [⟨wRec 50, true, true, 0⟩] } : State).reserve (3 : SeamIn) - min (((State.reset.putB P.DDR_STATUS_ONLINE 0 true).modSi 3 fun x => { x with q := [⟨wRec 50, true, true, 0⟩] } : State).reserve (3 : SeamIn)) (((State.reset.putB P.DDR_STATUS_ONLINE 0 true).modSi 3 fun x => { x with q := [⟨wRec 50, true, true, 0⟩] } : State).si (3 : SeamIn)).cells) + (((State.reset.putB P.DDR_STATUS_ONLINE 0 true).modSi 3 fun x => { x with q := [⟨wRec 50, true, true, 0⟩] } : State).poolSize - ((State.reset.putB P.DDR_STATUS_ONLINE 0 true).modSi 3 fun x => { x with q := [⟨wRec 50, true, true, 0⟩] } : State).poolUse)) ∧
    (.payload : Poison) ≠ .header ∧
    (((State.reset.putB P.DDR_STATUS_ONLINE 0 true).modSi 3 fun x => { x with q := [⟨wRec 50, true, true, 0⟩] } : State).inState (3 : SeamIn) ≠ 3) := by
  decide

/-- A state and operands that meet the hypotheses of clause 14 of SeamCompletes. -/
theorem witness_SeamCompletes_14 :
    ((((State.reset.putB P.DDR_STATUS_ONLINE 0 true).put P.SEAM_IN_STATUS_STATE 3 3).modSi 3 fun x => { x with q := [⟨wRec 50, true, true, 0⟩] } : State).pwr.por = false) ∧
    (((((State.reset.putB P.DDR_STATUS_ONLINE 0 true).put P.SEAM_IN_STATUS_STATE 3 3).modSi 3 fun x => { x with q := [⟨wRec 50, true, true, 0⟩] } : State).si (3 : SeamIn)).q.find? (·.spilled) = some (⟨wRec 50, true, true, 0⟩ : SRec)) ∧
    ((((State.reset.putB P.DDR_STATUS_ONLINE 0 true).put P.SEAM_IN_STATUS_STATE 3 3).modSi 3 fun x => { x with q := [⟨wRec 50, true, true, 0⟩] } : State).spillOpen = true ∧ (⟨wRec 50, true, true, 0⟩ : SRec).written = true) ∧
    (64 * ((((State.reset.putB P.DDR_STATUS_ONLINE 0 true).put P.SEAM_IN_STATUS_STATE 3 3).modSi 3 fun x => { x with q := [⟨wRec 50, true, true, 0⟩] } : State).si (3 : SeamIn)).cells < 65536) ∧
    ((⟨wRec 50, true, true, 0⟩ : SRec).data.cells ≤ ((((State.reset.putB P.DDR_STATUS_ONLINE 0 true).put P.SEAM_IN_STATUS_STATE 3 3).modSi 3 fun x => { x with q := [⟨wRec 50, true, true, 0⟩] } : State).reserve (3 : SeamIn) - min ((((State.reset.putB P.DDR_STATUS_ONLINE 0 true).put P.SEAM_IN_STATUS_STATE 3 3).modSi 3 fun x => { x with q := [⟨wRec 50, true, true, 0⟩] } : State).reserve (3 : SeamIn)) ((((State.reset.putB P.DDR_STATUS_ONLINE 0 true).put P.SEAM_IN_STATUS_STATE 3 3).modSi 3 fun x => { x with q := [⟨wRec 50, true, true, 0⟩] } : State).si (3 : SeamIn)).cells) + ((((State.reset.putB P.DDR_STATUS_ONLINE 0 true).put P.SEAM_IN_STATUS_STATE 3 3).modSi 3 fun x => { x with q := [⟨wRec 50, true, true, 0⟩] } : State).poolSize - (((State.reset.putB P.DDR_STATUS_ONLINE 0 true).put P.SEAM_IN_STATUS_STATE 3 3).modSi 3 fun x => { x with q := [⟨wRec 50, true, true, 0⟩] } : State).poolUse)) ∧
    (.none : Poison) ≠ .header ∧
    ((((State.reset.putB P.DDR_STATUS_ONLINE 0 true).put P.SEAM_IN_STATUS_STATE 3 3).modSi 3 fun x => { x with q := [⟨wRec 50, true, true, 0⟩] } : State).inState (3 : SeamIn) = 3) := by
  decide

/-- A state and operands that meet the hypotheses of clause 15 of SeamCompletes. -/
theorem witness_SeamCompletes_15 :
    (((State.reset.putB P.DDR_STATUS_ONLINE 0 true).modSi 3 fun x => { x with q := [⟨wRec 50, true, true, 0⟩] } : State).pwr.por = false) ∧
    ((((State.reset.putB P.DDR_STATUS_ONLINE 0 true).modSi 3 fun x => { x with q := [⟨wRec 50, true, true, 0⟩] } : State).si (3 : SeamIn)).q.find? (·.spilled) = some (⟨wRec 50, true, true, 0⟩ : SRec)) ∧
    (((State.reset.putB P.DDR_STATUS_ONLINE 0 true).modSi 3 fun x => { x with q := [⟨wRec 50, true, true, 0⟩] } : State).spillOpen = true ∧ (⟨wRec 50, true, true, 0⟩ : SRec).written = true) ∧
    (64 * (((State.reset.putB P.DDR_STATUS_ONLINE 0 true).modSi 3 fun x => { x with q := [⟨wRec 50, true, true, 0⟩] } : State).si (3 : SeamIn)).cells < 65536) ∧
    ((⟨wRec 50, true, true, 0⟩ : SRec).data.cells ≤ (((State.reset.putB P.DDR_STATUS_ONLINE 0 true).modSi 3 fun x => { x with q := [⟨wRec 50, true, true, 0⟩] } : State).reserve (3 : SeamIn) - min (((State.reset.putB P.DDR_STATUS_ONLINE 0 true).modSi 3 fun x => { x with q := [⟨wRec 50, true, true, 0⟩] } : State).reserve (3 : SeamIn)) (((State.reset.putB P.DDR_STATUS_ONLINE 0 true).modSi 3 fun x => { x with q := [⟨wRec 50, true, true, 0⟩] } : State).si (3 : SeamIn)).cells) + (((State.reset.putB P.DDR_STATUS_ONLINE 0 true).modSi 3 fun x => { x with q := [⟨wRec 50, true, true, 0⟩] } : State).poolSize - ((State.reset.putB P.DDR_STATUS_ONLINE 0 true).modSi 3 fun x => { x with q := [⟨wRec 50, true, true, 0⟩] } : State).poolUse)) ∧
    (.header : Poison) = .header := by
  decide

/-- A state and operands that meet the hypotheses of clause 1 of ContextServiceCompletes. -/
theorem witness_ContextServiceCompletes_1 :
    (wCtx.putB P.CTX_STATUS_FLOOR_DUE 9 true : State).pwr.por = false ∧
    (((wCtx.putB P.CTX_STATUS_FLOOR_DUE 9 true : State).clock (99 : Tm)).each (((wCtx.putB P.CTX_STATUS_FLOOR_DUE 9 true : State).ctx.c.filter fun e => (e.2.state == 1 || e.2.state == 2) && (wCtx.putB P.CTX_STATUS_FLOOR_DUE 9 true : State).linkOf e.1 == some (0 : Fin 6).val).map (·.1)) State.ctxEval = (((wCtx.putB P.CTX_STATUS_FLOOR_DUE 9 true).clock 99).each [9] State.ctxEval : State)) ∧
    (wCtx.putB P.CTX_STATUS_FLOOR_DUE 9 true : State).abut = false ∧
    Tbl.get 0 (wCtx.putB P.CTX_STATUS_FLOOR_DUE 9 true : State).ctx.grantFrom (0 : Fin 6) ≤ (wCtx.putB P.CTX_STATUS_FLOOR_DUE 9 true : State).instant (99 : Tm) ∧
    (((wCtx.putB P.CTX_STATUS_FLOOR_DUE 9 true).clock 99).each [9] State.ctxEval : State).floorNext (0 : Fin 6) = some (9 : Nat) ∧
    (((wCtx.putB P.CTX_STATUS_FLOOR_DUE 9 true).clock 99).each [9] State.ctxEval : State).grantable (9 : Nat) (0 : Fin 6) = some (((((wCtx.putB P.CTX_STATUS_FLOOR_DUE 9 true).clock 99).each [9] State.ctxEval).grantable 9 0).getD (State.reset, CtxUnit.reset) : State × CtxUnit) := by
  decide

/-- A state and operands that meet the hypotheses of clause 2 of ContextServiceCompletes. -/
theorem witness_ContextServiceCompletes_2 :
    (wCtx : State).pwr.por = false ∧
    (((wCtx : State).clock (99 : Tm)).each (((wCtx : State).ctx.c.filter fun e => (e.2.state == 1 || e.2.state == 2) && (wCtx : State).linkOf e.1 == some (0 : Fin 6).val).map (·.1)) State.ctxEval = ((wCtx.clock 99).each [9] State.ctxEval : State)) ∧
    (wCtx : State).abut = false ∧
    Tbl.get 0 (wCtx : State).ctx.grantFrom (0 : Fin 6) ≤ (wCtx : State).instant (99 : Tm) ∧
    ((wCtx.clock 99).each [9] State.ctxEval : State).floorNext (0 : Fin 6) = none ∧
    ((wCtx.clock 99).each [9] State.ctxEval : State).eligible (0 : Fin 6) = [(9 : Nat)] ∧
    Tbl.get 0 ((wCtx.clock 99).each [9] State.ctxEval : State).ctx.rr (4 * (0 : Fin 6).val + ((wCtx.clock 99).each [9] State.ctxEval : State).get P.CTX_CFG_CLASS (9 : Nat)) = 0 ∧
    min (((wCtx.clock 99).each [9] State.ctxEval : State).deficitCap (9 : Nat)) (((wCtx.clock 99).each [9] State.ctxEval : State).get P.CTX_DEFICIT_BYTES (9 : Nat) + ((wCtx.clock 99).each [9] State.ctxEval : State).get P.CTX_CFG_WEIGHT (9 : Nat) * 4096) = (4096 : Nat) ∧
    (((wCtx.clock 99).each [9] State.ctxEval : State).put P.CTX_DEFICIT_BYTES (9 : Nat) (4096 : Nat)).grantable (9 : Nat) (0 : Fin 6) = some (((((wCtx.clock 99).each [9] State.ctxEval).put P.CTX_DEFICIT_BYTES 9 4096).grantable 9 0).getD (State.reset, CtxUnit.reset) : State × CtxUnit) ∧
    (((((wCtx.clock 99).each [9] State.ctxEval).put P.CTX_DEFICIT_BYTES 9 4096).grantable 9 0).getD (State.reset, CtxUnit.reset) : State × CtxUnit).2.size ≤ (4096 : Nat) := by
  decide

/-- A state and operands that meet the hypotheses of clause 3 of ContextServiceCompletes. -/
theorem witness_ContextServiceCompletes_3 :
    (wCtx.setFlight 0 [{ CtxUnit.reset with ctx := 9, ready := true, data := [1, 2, 3], bytes := 3, ends := [3] }] : State).pwr.por = false ∧
    (wCtx.setFlight 0 [{ CtxUnit.reset with ctx := 9, ready := true, data := [1, 2, 3], bytes := 3, ends := [3] }] : State).nextUnit (0 : Fin 6) ((wCtx.setFlight 0 [{ CtxUnit.reset with ctx := 9, ready := true, data := [1, 2, 3], bytes := 3, ends := [3] }] : State).flight (0 : Fin 6)) [] = some ({ CtxUnit.reset with ctx := 9, ready := true, data := [1, 2, 3], bytes := 3, ends := [3] } : CtxUnit) := by
  decide

/-- A state and operands that meet the hypotheses of clause 4 of ContextServiceCompletes. -/
theorem witness_ContextServiceCompletes_4 :
    ((wCtx.modCtx 9 fun x => { x with coalesceFrom := some 5, bufs := [{ Buf.reset with size := 4096, used := 8, lastEnd := 8, start := true }] } : State).pwr.por = false) ∧
    (((wCtx.modCtx 9 fun x => { x with coalesceFrom := some 5, bufs := [{ Buf.reset with size := 4096, used := 8, lastEnd := 8, start := true }] } : State).ctxOf (9 : Ctx)).coalesceFrom = some (5 : Tm)) ∧
    ((5 : Tm) + (wCtx.modCtx 9 fun x => { x with coalesceFrom := some 5, bufs := [{ Buf.reset with size := 4096, used := 8, lastEnd := 8, start := true }] } : State).get P.MEM_COALESCE_US 0 * usSt ≤ (wCtx.modCtx 9 fun x => { x with coalesceFrom := some 5, bufs := [{ Buf.reset with size := 4096, used := 8, lastEnd := 8, start := true }] } : State).instant (secSt : Tm)) ∧
    ((wCtx.modCtx 9 fun x => { x with coalesceFrom := some 5, bufs := [{ Buf.reset with size := 4096, used := 8, lastEnd := 8, start := true }] } : State).linkOf (9 : Ctx) = some 0) ∧
    (((wCtx.modCtx 9 fun x => { x with coalesceFrom := some 5, bufs := [{ Buf.reset with size := 4096, used := 8, lastEnd := 8, start := true }] } : State).ctxOf (9 : Ctx)).bufs = ({ Buf.reset with size := 4096, used := 8, lastEnd := 8, start := true } : Buf) :: ([] : List Buf)) ∧
    (({ Buf.reset with size := 4096, used := 8, lastEnd := 8, start := true } : Buf).lastEnd ≠ 0 ∧ (wCtx.modCtx 9 fun x => { x with coalesceFrom := some 5, bufs := [{ Buf.reset with size := 4096, used := 8, lastEnd := 8, start := true }] } : State).hostMoves = true) := by
  decide

/-- A state and operands that meet the hypotheses of clause 5 of ContextServiceCompletes. -/
theorem witness_ContextServiceCompletes_5 :
    ((((State.reset.putB P.DDR_STATUS_ONLINE 0 true).put P.CTX_CFG_DEST_KIND 9 2).put P.CTX_DDR_DEST_SIZE_MIB 9 1 |>.modCtx 9 fun x => { x with coalesceFrom := some 5, tailUnit := [1, 2, 3] } : State).pwr.por = false) ∧
    (((((State.reset.putB P.DDR_STATUS_ONLINE 0 true).put P.CTX_CFG_DEST_KIND 9 2).put P.CTX_DDR_DEST_SIZE_MIB 9 1 |>.modCtx 9 fun x => { x with coalesceFrom := some 5, tailUnit := [1, 2, 3] } : State).ctxOf (9 : Ctx)).coalesceFrom = some (5 : Tm)) ∧
    ((5 : Tm) + (((State.reset.putB P.DDR_STATUS_ONLINE 0 true).put P.CTX_CFG_DEST_KIND 9 2).put P.CTX_DDR_DEST_SIZE_MIB 9 1 |>.modCtx 9 fun x => { x with coalesceFrom := some 5, tailUnit := [1, 2, 3] } : State).get P.MEM_COALESCE_US 0 * usSt ≤ (((State.reset.putB P.DDR_STATUS_ONLINE 0 true).put P.CTX_CFG_DEST_KIND 9 2).put P.CTX_DDR_DEST_SIZE_MIB 9 1 |>.modCtx 9 fun x => { x with coalesceFrom := some 5, tailUnit := [1, 2, 3] } : State).instant (secSt : Tm)) ∧
    ((((State.reset.putB P.DDR_STATUS_ONLINE 0 true).put P.CTX_CFG_DEST_KIND 9 2).put P.CTX_DDR_DEST_SIZE_MIB 9 1 |>.modCtx 9 fun x => { x with coalesceFrom := some 5, tailUnit := [1, 2, 3] } : State).linkOf (9 : Ctx) = some 5) ∧
    ((((State.reset.putB P.DDR_STATUS_ONLINE 0 true).put P.CTX_CFG_DEST_KIND 9 2).put P.CTX_DDR_DEST_SIZE_MIB 9 1 |>.modCtx 9 fun x => { x with coalesceFrom := some 5, tailUnit := [1, 2, 3] } : State).ddrOn = true) := by
  decide

/-- A state and operands that meet the hypotheses of clause 6 of ContextServiceCompletes. -/
theorem witness_ContextServiceCompletes_6 :
    ((((State.reset.put P.CTX_CFG_DEST_KIND 9 1).put P.CTX_FAB_DEST_ADDR 9 0x205).put P.FAB_REGION_ROUTE_PORT 2 3 |>.modCtx 9 fun x => { x with coalesceFrom := some 5, tailUnit := [1, 2, 3] } : State).pwr.por = false) ∧
    (((((State.reset.put P.CTX_CFG_DEST_KIND 9 1).put P.CTX_FAB_DEST_ADDR 9 0x205).put P.FAB_REGION_ROUTE_PORT 2 3 |>.modCtx 9 fun x => { x with coalesceFrom := some 5, tailUnit := [1, 2, 3] } : State).ctxOf (9 : Ctx)).coalesceFrom = some (5 : Tm)) ∧
    ((5 : Tm) + (((State.reset.put P.CTX_CFG_DEST_KIND 9 1).put P.CTX_FAB_DEST_ADDR 9 0x205).put P.FAB_REGION_ROUTE_PORT 2 3 |>.modCtx 9 fun x => { x with coalesceFrom := some 5, tailUnit := [1, 2, 3] } : State).get P.MEM_COALESCE_US 0 * usSt ≤ (((State.reset.put P.CTX_CFG_DEST_KIND 9 1).put P.CTX_FAB_DEST_ADDR 9 0x205).put P.FAB_REGION_ROUTE_PORT 2 3 |>.modCtx 9 fun x => { x with coalesceFrom := some 5, tailUnit := [1, 2, 3] } : State).instant (secSt : Tm)) ∧
    ((((State.reset.put P.CTX_CFG_DEST_KIND 9 1).put P.CTX_FAB_DEST_ADDR 9 0x205).put P.FAB_REGION_ROUTE_PORT 2 3 |>.modCtx 9 fun x => { x with coalesceFrom := some 5, tailUnit := [1, 2, 3] } : State).linkOf (9 : Ctx) = some ((3 : Port).val + 1)) := by
  decide

/-- A state and operands that meet the hypotheses of clause 7 of ContextServiceCompletes. -/
theorem witness_ContextServiceCompletes_7 :
    ((wCtx.modCtx 9 fun x => { x with prod := 4, fetched := 3 } : State).pwr.por = false) ∧
    (((wCtx.modCtx 9 fun x => { x with prod := 4, fetched := 3 } : State).ctxOf (9 : Ctx)).state = 1) ∧
    ((wCtx.modCtx 9 fun x => { x with prod := 4, fetched := 3 } : State).get P.CTX_CFG_DEST_KIND (9 : Ctx) = 0) ∧
    ((wCtx.modCtx 9 fun x => { x with prod := 4, fetched := 3 } : State).hostMoves = true) ∧
    (((wCtx.modCtx 9 fun x => { x with prod := 4, fetched := 3 } : State).ctxOf (9 : Ctx)).fetched ≠ ((wCtx.modCtx 9 fun x => { x with prod := 4, fetched := 3 } : State).ctxOf (9 : Ctx)).prod) ∧
    (((wCtx.modCtx 9 fun x => { x with prod := 4, fetched := 3 } : State).ctxOf (9 : Ctx)).bufs.length < 8) ∧
    descOk (field (le 8 0x1000 ++ le 4 8192 ++ le 4 0 : List Byte) 0 8) (field (le 8 0x1000 ++ le 4 8192 ++ le 4 0 : List Byte) 8 4) = true := by
  decide

/-- A state and operands that meet the hypotheses of clause 8 of ContextServiceCompletes. -/
theorem witness_ContextServiceCompletes_8 :
    ((wCtx.modCtx 9 fun x => { x with prod := 4, fetched := 3 } : State).pwr.por = false) ∧
    (((wCtx.modCtx 9 fun x => { x with prod := 4, fetched := 3 } : State).ctxOf (9 : Ctx)).state = 1) ∧
    ((wCtx.modCtx 9 fun x => { x with prod := 4, fetched := 3 } : State).get P.CTX_CFG_DEST_KIND (9 : Ctx) = 0) ∧
    ((wCtx.modCtx 9 fun x => { x with prod := 4, fetched := 3 } : State).hostMoves = true) ∧
    (((wCtx.modCtx 9 fun x => { x with prod := 4, fetched := 3 } : State).ctxOf (9 : Ctx)).fetched ≠ ((wCtx.modCtx 9 fun x => { x with prod := 4, fetched := 3 } : State).ctxOf (9 : Ctx)).prod) ∧
    (((wCtx.modCtx 9 fun x => { x with prod := 4, fetched := 3 } : State).ctxOf (9 : Ctx)).bufs.length < 8) ∧
    descOk (field (le 8 0x1001 ++ le 4 8192 ++ le 4 0 : List Byte) 0 8) (field (le 8 0x1001 ++ le 4 8192 ++ le 4 0 : List Byte) 8 4) = false := by
  decide

/-- A state and operands that meet the hypotheses of clause 9 of ContextServiceCompletes. -/
theorem witness_ContextServiceCompletes_9 :
    ((((wCtx.putB P.DECK_STATUS_ONLINE 0 true).putB P.CTX_SRC_REWIND 9 true).modCtx 9 fun x => { x with reqProd := 4, reqCons := 3 } : State).pwr.por = false) ∧
    (((((wCtx.putB P.DECK_STATUS_ONLINE 0 true).putB P.CTX_SRC_REWIND 9 true).modCtx 9 fun x => { x with reqProd := 4, reqCons := 3 } : State).ctxOf (9 : Ctx)).state = 1) ∧
    ((((wCtx.putB P.DECK_STATUS_ONLINE 0 true).putB P.CTX_SRC_REWIND 9 true).modCtx 9 fun x => { x with reqProd := 4, reqCons := 3 } : State).get P.CTX_CFG_DEST_KIND (9 : Ctx) = 0) ∧
    ((((wCtx.putB P.DECK_STATUS_ONLINE 0 true).putB P.CTX_SRC_REWIND 9 true).modCtx 9 fun x => { x with reqProd := 4, reqCons := 3 } : State).hostMoves = true) ∧
    (((((wCtx.putB P.DECK_STATUS_ONLINE 0 true).putB P.CTX_SRC_REWIND 9 true).modCtx 9 fun x => { x with reqProd := 4, reqCons := 3 } : State).ctxOf (9 : Ctx)).reqCons ≠ ((((wCtx.putB P.DECK_STATUS_ONLINE 0 true).putB P.CTX_SRC_REWIND 9 true).modCtx 9 fun x => { x with reqProd := 4, reqCons := 3 } : State).ctxOf (9 : Ctx)).reqProd) ∧
    ((if (Req.parse (wReq : List Byte)).ctx = (9 : Ctx).val then ((((wCtx.putB P.DECK_STATUS_ONLINE 0 true).putB P.CTX_SRC_REWIND 9 true).modCtx 9 fun x => { x with reqProd := 4, reqCons := 3 } : State).clock (secSt : Tm)).reqJudge (9 : Ctx) (Req.parse (wReq : List Byte)) else stBadParam) = (0 : Nat)) := by
  decide

/-- A state and operands that meet the hypotheses of clause 10 of ContextServiceCompletes. -/
theorem witness_ContextServiceCompletes_10 :
    (wCtx : State).pwr.por = false ∧
    ((wCtx : State).ctxOf (9 : Ctx)).state ≠ 0 := by
  decide

/-- A state and operands that meet the hypotheses of clause 11 of ContextServiceCompletes. -/
theorem witness_ContextServiceCompletes_11 :
    (wDetach : State).pwr.por = false ∧
    (((wDetach : State).clock (secSt : Tm)).egressTrim.egressHold).ctx.holdFrom = some (5 : Tm) ∧
    (((wDetach : State).clock (secSt : Tm)).egressTrim.egressHold).ctx.holdBy = some (9 : Ctx).val ∧
    (wDetach : State).flag P.CTX_CFG_DETACH (9 : Ctx) = true ∧
    (5 : Tm) + (wDetach : State).get P.CTX_DETACH_US (9 : Ctx) * usSt ≤ (wDetach : State).instant (secSt : Tm) := by
  decide

/-- A state and operands that meet the hypotheses of clause 1 of ContextLifeCompletes. -/
theorem witness_ContextLifeCompletes_1 :
    (State.reset : State).pwr.por = false ∧
    ((1 : BitVec 16).toNat + 65536 - ((State.reset : State).ctxOf (9 : Ctx)).cons) % 65536 ≤ 2 ^ (State.reset : State).get P.CTX_RING_CFG_LOG2 (9 : Ctx) := by
  decide

/-- A state and operands that meet the hypotheses of clause 2 of ContextLifeCompletes. -/
theorem witness_ContextLifeCompletes_2 :
    (State.reset : State).pwr.por = false ∧
    2 ^ (State.reset : State).get P.CTX_RING_CFG_LOG2 (9 : Ctx) < ((65535 : BitVec 16).toNat + 65536 - ((State.reset : State).ctxOf (9 : Ctx)).cons) % 65536 := by
  decide

/-- A state and operands that meet the hypotheses of clause 3 of ContextLifeCompletes. -/
theorem witness_ContextLifeCompletes_3 :
    (State.reset : State).pwr.por = false ∧
    ((1 : BitVec 16).toNat + 65536 - ((State.reset : State).ctxOf (9 : Ctx)).reqCons) % 65536 ≤ 2 ^ (State.reset : State).get P.CTX_RING_CFG_REQ_LOG2 (9 : Ctx) := by
  decide

/-- A state and operands that meet the hypotheses of clause 4 of ContextLifeCompletes. -/
theorem witness_ContextLifeCompletes_4 :
    (State.reset : State).pwr.por = false ∧
    2 ^ (State.reset : State).get P.CTX_RING_CFG_REQ_LOG2 (9 : Ctx) < ((65535 : BitVec 16).toNat + 65536 - ((State.reset : State).ctxOf (9 : Ctx)).reqCons) % 65536 := by
  decide

/-- A state and operands that meet the hypotheses of clause 5 of ContextLifeCompletes. -/
theorem witness_ContextLifeCompletes_5 :
    (State.reset : State).pwr.por = false := by
  decide

/-- A state and operands that meet the hypotheses of clause 6 of ContextLifeCompletes. -/
theorem witness_ContextLifeCompletes_6 :
    (State.reset.put P.CTX_CFG_DEST_KIND 9 2 : State).pwr.por = false ∧
    ((State.reset.put P.CTX_CFG_DEST_KIND 9 2 : State).ctxOf (9 : Ctx)).state = 0 ∧
    ((State.reset.put P.CTX_CFG_DEST_KIND 9 2 : State).ctxOf (9 : Ctx)).next = none ∧
    (¬((State.reset.put P.CTX_CFG_DEST_KIND 9 2 : State).nextGet P.CTX_CFG_DEST_KIND (9 : Ctx) = 1 ∧ 0 < (State.reset.put P.CTX_CFG_DEST_KIND 9 2 : State).inboundWindow (9 : Ctx))) ∧
    (((State.reset.put P.CTX_CFG_DEST_KIND 9 2 : State).linkFor ((State.reset.put P.CTX_CFG_DEST_KIND 9 2 : State).nextGet P.CTX_CFG_DEST_KIND (9 : Ctx)) ((State.reset.put P.CTX_CFG_DEST_KIND 9 2 : State).nextGet P.CTX_FAB_DEST_ADDR (9 : Ctx))).all (fun l => decide ((State.reset.put P.CTX_CFG_DEST_KIND 9 2 : State).bound l < (State.reset.put P.CTX_CFG_DEST_KIND 9 2 : State).nMax l (State.reset.put P.CTX_CFG_DEST_KIND 9 2 : State).spanUs)) = true) ∧
    (State.reset.put P.CTX_CFG_DEST_KIND 9 2 : State).ctx.inboundUsed + (State.reset.put P.CTX_CFG_DEST_KIND 9 2 : State).inboundWindow (9 : Ctx) ≤ 256 := by
  decide

/-- A state and operands that meet the hypotheses of clause 7 of ContextLifeCompletes. -/
theorem witness_ContextLifeCompletes_7 :
    ((State.reset.modCtx 9 fun x => { x with state := 1 } : State).pwr.por = false) ∧
    (((State.reset.modCtx 9 fun x => { x with state := 1 } : State).ctxOf (9 : Ctx)).state ≠ 0 ∨ ((State.reset.modCtx 9 fun x => { x with state := 1 } : State).ctxOf (9 : Ctx)).next ≠ none) := by
  decide

/-- A state and operands that meet the hypotheses of clause 8 of ContextLifeCompletes. -/
theorem witness_ContextLifeCompletes_8 :
    ((({ State.reset with deck := { DeckSt.reset with placed := [9, 8, 9] } }).modCtx 9 fun x => { x with state := 1, requests := [wReq, wReq] } : State).pwr.por = false) ∧
    (((({ State.reset with deck := { DeckSt.reset with placed := [9, 8, 9] } }).modCtx 9 fun x => { x with state := 1, requests := [wReq, wReq] } : State).ctxOf (9 : Ctx)).state = 1) := by
  decide

/-- A state and operands that meet the hypotheses of clause 9 of ContextLifeCompletes. -/
theorem witness_ContextLifeCompletes_9 :
    (State.reset : State).pwr.por = false ∧
    ((State.reset : State).ctxOf (9 : Ctx)).state ≠ 1 := by
  decide

/-- A state and operands that meet the hypotheses of clause 10 of ContextLifeCompletes. -/
theorem witness_ContextLifeCompletes_10 :
    ((State.reset.modCtx 9 fun x => { x with state := 2 } : State).pwr.por = false) ∧
    (((State.reset.modCtx 9 fun x => { x with state := 2 } : State).ctxOf (9 : Ctx)).state = 1 ∨ ((State.reset.modCtx 9 fun x => { x with state := 2 } : State).ctxOf (9 : Ctx)).state = 2) := by
  decide

/-- A state and operands that meet the hypotheses of clause 11 of ContextLifeCompletes. -/
theorem witness_ContextLifeCompletes_11 :
    (State.reset : State).pwr.por = false ∧
    (((State.reset : State).ctxOf (9 : Ctx)).state ≠ 1 ∧ ((State.reset : State).ctxOf (9 : Ctx)).state ≠ 2) := by
  decide

/-- A state and operands that meet the hypotheses of clause 12 of ContextLifeCompletes. -/
theorem witness_ContextLifeCompletes_12 :
    ((State.reset.modCtx 9 fun x => { x with state := 3 } : State).pwr.por = false) ∧
    (((State.reset.modCtx 9 fun x => { x with state := 3 } : State).ctxOf (9 : Ctx)).state = 3) ∧
    ((State.reset.modCtx 9 fun x => { x with state := 3 } : State).flying (9 : Ctx) = false) := by
  decide

/-- A state and operands that meet the hypotheses of clause 1 of MailboxTransportCompletes. -/
theorem witness_MailboxTransportCompletes_1 :
    (wLease : State).pwr.por = false ∧
    (true : Bool) = true ∧
    ((wLease : State).mbRegs (1 : Fin 2)).enable = false := by
  decide

/-- A state and operands that meet the hypotheses of clause 2 of MailboxTransportCompletes. -/
theorem witness_MailboxTransportCompletes_2 :
    ({ wHost 1 with mbox := { MboxSt.reset with wait := [wWait 1, wWait 0], remote := [wRemote 1] } } : State).pwr.por = false ∧
    (false : Bool) = false ∧
    (({ wHost 1 with mbox := { MboxSt.reset with wait := [wWait 1, wWait 0], remote := [wRemote 1] } } : State).mbRegs (1 : Fin 2)).enable = true := by
  decide

/-- A state and operands that meet the hypotheses of clause 3 of MailboxTransportCompletes. -/
theorem witness_MailboxTransportCompletes_3 :
    (wHost 1 : State).pwr.por = false := by
  decide

/-- A state and operands that meet the hypotheses of clause 4 of MailboxTransportCompletes. -/
theorem witness_MailboxTransportCompletes_4 :
    (wHost 1 : State).pwr.por = false := by
  decide

/-- A state and operands that meet the hypotheses of clause 5 of MailboxTransportCompletes. -/
theorem witness_MailboxTransportCompletes_5 :
    (wHost 1 : State).pwr.por = false ∧
    (1 : Mb).val < 2 ∧
    (wHost 1 : State).mbFetches (1 : Mb) = true ∧
    Cmd.parse (wSlot 0x0001 0 : List Byte) (((wHost 1 : State).mbRegs (1 : Mb)).cons % 2 ^ ((wHost 1 : State).mbRegs (1 : Mb)).sqLog2) = (Cmd.parse (wSlot 0x0001 0) 0 : Cmd) ∧
    ((Cmd.parse (wSlot 0x0001 0) 0 : Cmd).order && (wHost 1 : State).mbPending (1 : Mb)) = false ∧
    (wHost 1 : State).headerCheck { Who.reset with mb := (1 : Mb) } (Cmd.parse (wSlot 0x0001 0) 0 : Cmd) (headerRest (wSlot 0x0001 0 : List Byte)) = stOk ∧
    (wHost 1 : State).elsewhere (Cmd.parse (wSlot 0x0001 0) 0 : Cmd) = false ∧
    opClass (Cmd.parse (wSlot 0x0001 0) 0 : Cmd).opcode (Cmd.parse (wSlot 0x0001 0) 0 : Cmd).payload = some .r := by
  decide

/-- A state and operands that meet the hypotheses of clause 6 of MailboxTransportCompletes. -/
theorem witness_MailboxTransportCompletes_6 :
    (wHost 1 : State).pwr.por = false ∧
    (1 : Mb).val < 2 ∧
    (wHost 1 : State).mbFetches (1 : Mb) = true ∧
    Cmd.parse (wSlot 0x0301 4 : List Byte) (((wHost 1 : State).mbRegs (1 : Mb)).cons % 2 ^ ((wHost 1 : State).mbRegs (1 : Mb)).sqLog2) = (Cmd.parse (wSlot 0x0301 4) 0 : Cmd) ∧
    ((Cmd.parse (wSlot 0x0301 4) 0 : Cmd).order && (wHost 1 : State).mbPending (1 : Mb)) = false ∧
    (wHost 1 : State).headerCheck { Who.reset with mb := (1 : Mb) } (Cmd.parse (wSlot 0x0301 4) 0 : Cmd) (headerRest (wSlot 0x0301 4 : List Byte)) = stOk ∧
    (wHost 1 : State).elsewhere (Cmd.parse (wSlot 0x0301 4) 0 : Cmd) = false ∧
    opClass (Cmd.parse (wSlot 0x0301 4) 0 : Cmd).opcode (Cmd.parse (wSlot 0x0301 4) 0 : Cmd).payload = some .n ∧
    ((Tbl.get [] (wHost 1 : State).mbox.hist (1 : Mb).val).find? (fun h => h.seq == (Cmd.parse (wSlot 0x0301 4) 0 : Cmd).seq) = none) ∧
    (((wHost 1 : State).mbox.wait.any fun x => x.who.key == (1 : Mb).val && x.seq == (Cmd.parse (wSlot 0x0301 4) 0 : Cmd).seq) = false) ∧
    (wHost 1 : State).seqNew (1 : Mb) (Cmd.parse (wSlot 0x0301 4) 0 : Cmd).seq = true := by
  decide

/-- A state and operands that meet the hypotheses of clause 7 of MailboxTransportCompletes. -/
theorem witness_MailboxTransportCompletes_7 :
    (wHost 0 : State).pwr.por = false ∧
    (0 : Mb).val < 2 ∧
    (wHost 0 : State).mbFetches (0 : Mb) = true ∧
    Cmd.parse (wSlot 0x0F01 0 : List Byte) (((wHost 0 : State).mbRegs (0 : Mb)).cons % 2 ^ ((wHost 0 : State).mbRegs (0 : Mb)).sqLog2) = (Cmd.parse (wSlot 0x0F01 0) 0 : Cmd) ∧
    ((Cmd.parse (wSlot 0x0F01 0) 0 : Cmd).order && (wHost 0 : State).mbPending (0 : Mb)) = false ∧
    (wHost 0 : State).headerCheck { Who.reset with mb := (0 : Mb) } (Cmd.parse (wSlot 0x0F01 0) 0 : Cmd) (headerRest (wSlot 0x0F01 0 : List Byte)) = (stDenied : Nat) ∧
    (stDenied : Nat) ≠ stOk := by
  decide

/-- A state and operands that meet the hypotheses of clause 8 of MailboxTransportCompletes. -/
theorem witness_MailboxTransportCompletes_8 :
    (wHost 1 : State).pwr.por = false ∧
    (1 : Mb).val < 2 ∧
    (wHost 1 : State).mbFetches (1 : Mb) = true ∧
    Cmd.parse ((wSlot 0x0001 0).take 12 ++ [5, 0] ++ (wSlot 0x0001 0).drop 14 : List Byte) (((wHost 1 : State).mbRegs (1 : Mb)).cons % 2 ^ ((wHost 1 : State).mbRegs (1 : Mb)).sqLog2) = (Cmd.parse ((wSlot 0x0001 0).take 12 ++ [5, 0] ++ (wSlot 0x0001 0).drop 14) 0 : Cmd) ∧
    ((Cmd.parse ((wSlot 0x0001 0).take 12 ++ [5, 0] ++ (wSlot 0x0001 0).drop 14) 0 : Cmd).order && (wHost 1 : State).mbPending (1 : Mb)) = false ∧
    (wHost 1 : State).headerCheck { Who.reset with mb := (1 : Mb) } (Cmd.parse ((wSlot 0x0001 0).take 12 ++ [5, 0] ++ (wSlot 0x0001 0).drop 14) 0 : Cmd) (headerRest ((wSlot 0x0001 0).take 12 ++ [5, 0] ++ (wSlot 0x0001 0).drop 14 : List Byte)) = stOk ∧
    (wHost 1 : State).elsewhere (Cmd.parse ((wSlot 0x0001 0).take 12 ++ [5, 0] ++ (wSlot 0x0001 0).drop 14) 0 : Cmd) = true := by
  decide

/-- A state and operands that meet the hypotheses of clause 9 of MailboxTransportCompletes. -/
theorem witness_MailboxTransportCompletes_9 :
    ({ wHost 1 with core := { (wHost 1).core with committed := 9 }, mbox := { MboxSt.reset with wait := [{ wWait 1 with commit := 50 }, wWait 1] } } : State).pwr.por = false ∧
    ({ wHost 1 with core := { (wHost 1).core with committed := 9 }, mbox := { MboxSt.reset with wait := [{ wWait 1 with commit := 50 }, wWait 1] } } : State).leased = true ∧
    ((({ wHost 1 with core := { (wHost 1).core with committed := 9 }, mbox := { MboxSt.reset with wait := [{ wWait 1 with commit := 50 }, wWait 1] } } : State).mbox.wait.filter fun y => !y.background && decide (y.commit ≤ ({ wHost 1 with core := { (wHost 1).core with committed := 9 }, mbox := { MboxSt.reset with wait := [{ wWait 1 with commit := 50 }, wWait 1] } } : State).core.committed)) = [(wWait 1 : Wait)]) ∧
    (wWait 1 : Wait).who.mb = (1 : Fin 2).val ∧
    (({ wHost 1 with core := { (wHost 1).core with committed := 9 }, mbox := { MboxSt.reset with wait := [{ wWait 1 with commit := 50 }, wWait 1] } } : State).mbRegs (1 : Fin 2)).enable = true ∧
    ({ wHost 1 with core := { (wHost 1).core with committed := 9 }, mbox := { MboxSt.reset with wait := [{ wWait 1 with commit := 50 }, wWait 1] } } : State).hostMoves = true ∧
    (wWait 1 : Wait).mute = false := by
  decide

/-- A state and operands that meet the hypotheses of clause 10 of MailboxTransportCompletes. -/
theorem witness_MailboxTransportCompletes_10 :
    ({ wHost 1 with mbox := { MboxSt.reset with wait := [{ wWait 1 with background := true }, wWait 0] } } : State).pwr.por = false ∧
    ({ wHost 1 with mbox := { MboxSt.reset with wait := [{ wWait 1 with background := true }, wWait 0] } } : State).leased = true ∧
    (0 : Fin 16).val = stOk := by
  decide

/-- A state and operands that meet the hypotheses of clause 11 of MailboxTransportCompletes. -/
theorem witness_MailboxTransportCompletes_11 :
    ({ wHost 1 with mbox := { MboxSt.reset with wait := [wWait 0, { wWait 1 with background := true }] } } : State).pwr.por = false ∧
    ({ wHost 1 with mbox := { MboxSt.reset with wait := [wWait 0, { wWait 1 with background := true }] } } : State).leased = true ∧
    (5 : Fin 16).val ≠ stOk ∧
    (({ wHost 1 with mbox := { MboxSt.reset with wait := [wWait 0, { wWait 1 with background := true }] } } : State).mbox.wait.find? (fun y => y.background && (y.who.mb == (1 : Mb).val && y.seq == (77 : BitVec 32).toNat)) = some ({ wWait 1 with background := true } : Wait)) := by
  decide

/-- A state and operands that meet the hypotheses of clause 12 of MailboxTransportCompletes. -/
theorem witness_MailboxTransportCompletes_12 :
    (wLease.putB P.MB_CFG_ENABLE 2 true : State).pwr.por = false ∧
    (.request 5 1 (wCmd 1 []) : MbFrame) = .request (5 : Nat) (1 : Fin 6) (wCmd 1 [] : Cmd) ∧
    (wLease.putB P.MB_CFG_ENABLE 2 true : State).leased = true ∧
    (wLease.putB P.MB_CFG_ENABLE 2 true : State).flag P.MB_CFG_ENABLE 2 = true ∧
    (wLease.putB P.MB_CFG_ENABLE 2 true : State).headerCheck ⟨2, (5 : Nat), (1 : Fin 6)⟩ (wCmd 1 [] : Cmd) 0 = stOk ∧
    (wLease.putB P.MB_CFG_ENABLE 2 true : State).elsewhere (wCmd 1 [] : Cmd) = false ∧
    opClass (wCmd 1 [] : Cmd).opcode (wCmd 1 [] : Cmd).payload = some .r := by
  decide

/-- A state and operands that meet the hypotheses of clause 13 of MailboxTransportCompletes. -/
theorem witness_MailboxTransportCompletes_13 :
    ({ wLease with mbox := { MboxSt.reset with remote := [wRemote 3] } } : State).pwr.por = false ∧
    (.reply 3 77 0 false 5 [1, 2] : MbFrame) = .reply (3 : Fin 6) (77 : BitVec 32) (0 : Fin 16) false (5 : W64) ([1, 2] : List Byte) ∧
    ({ wLease with mbox := { MboxSt.reset with remote := [wRemote 3] } } : State).leased = true ∧
    (({ wLease with mbox := { MboxSt.reset with remote := [wRemote 3] } } : State).mbox.remote.find? (fun y => y.who.mb == (3 : Fin 6).val && y.seq == (77 : BitVec 32).toNat) = some (wRemote 3 : Remote)) ∧
    (3 : Fin 6).val = 3 ∧
    (wRemote 3 : Remote).respAddr = 0 := by
  decide

/-- A state and operands that meet the hypotheses of clause 14 of MailboxTransportCompletes. -/
theorem witness_MailboxTransportCompletes_14 :
    ({ wLease with mbox := { MboxSt.reset with remote := [wRemote 3] } } : State).pwr.por = false ∧
    (({ wLease with mbox := { MboxSt.reset with remote := [wRemote 3] } } : State).mbox.remote.find? (fun y => y.who.mb == (3 : Mb).val && y.seq == (77 : BitVec 32).toNat) = some (wRemote 3 : Remote)) ∧
    (wRemote 3 : Remote).due = some (5 : Tm) ∧
    (5 : Tm) ≤ ({ wLease with mbox := { MboxSt.reset with remote := [wRemote 3] } } : State).instant (99 : Tm) := by
  decide

/-- A state and operands that meet the hypotheses of clause 1 of ServiceMailboxesComplete. -/
theorem witness_ServiceMailboxesComplete_1 :
    ((State.reset.putB P.MB_CFG_ENABLE 3 true) : State).pwr.por = false ∧
    ((State.reset.putB P.MB_CFG_ENABLE 3 true) : State).smbMine (0x4C : BitVec 7) = true ∧
    ((State.reset.putB P.MB_CFG_ENABLE 3 true) : State).smbOn = true ∧
    (true : Bool) = true := by
  decide

/-- A state and operands that meet the hypotheses of clause 2 of ServiceMailboxesComplete. -/
theorem witness_ServiceMailboxesComplete_2 :
    (State.reset : State).pwr.por = false ∧
    (State.reset : State).smbMine (0x10 : BitVec 7) = false := by
  decide

/-- A state and operands that meet the hypotheses of clause 3 of ServiceMailboxesComplete. -/
theorem witness_ServiceMailboxesComplete_3 :
    ((State.reset.putB P.MB_CFG_ENABLE 3 true) : State).pwr.por = false ∧
    ((State.reset.putB P.MB_CFG_ENABLE 3 true) : State).smbMine (0x4C : BitVec 7) = true ∧
    ((State.reset.putB P.MB_CFG_ENABLE 3 true) : State).smbOn = true ∧
    (true : Bool) = true ∧
    ((State.reset.putB P.MB_CFG_ENABLE 3 true) : State).leased = false := by
  decide

/-- A state and operands that meet the hypotheses of clause 4 of ServiceMailboxesComplete. -/
theorem witness_ServiceMailboxesComplete_4 :
    ({ wLease.putB P.MB_CFG_ENABLE 3 true with mbox := { MboxSt.reset with cmdBuf := (wSlot 0x0001 0).take 32 } } : State).pwr.por = false ∧
    ({ wLease.putB P.MB_CFG_ENABLE 3 true with mbox := { MboxSt.reset with cmdBuf := (wSlot 0x0001 0).take 32 } } : State).smbMine (0x4C : BitVec 7) = true ∧
    ({ wLease.putB P.MB_CFG_ENABLE 3 true with mbox := { MboxSt.reset with cmdBuf := (wSlot 0x0001 0).take 32 } } : State).smbOn = true ∧
    (true : Bool) = true ∧
    ({ wLease.putB P.MB_CFG_ENABLE 3 true with mbox := { MboxSt.reset with cmdBuf := (wSlot 0x0001 0).take 32 } } : State).leased = true ∧
    ({ wLease.putB P.MB_CFG_ENABLE 3 true with mbox := { MboxSt.reset with cmdBuf := (wSlot 0x0001 0).take 32 } } : State).mbox.start5 = false ∧
    ({ wLease.putB P.MB_CFG_ENABLE 3 true with mbox := { MboxSt.reset with cmdBuf := (wSlot 0x0001 0).take 32 } } : State).mbBusy 3 = false ∧
    Cmd.parse (({ wLease.putB P.MB_CFG_ENABLE 3 true with mbox := { MboxSt.reset with cmdBuf := (wSlot 0x0001 0).take 32 } } : State).mbox.cmdBuf.take (32 : BitVec 32).toNat) 0 = (Cmd.parse ((wSlot 0x0001 0).take 32) 0 : Cmd) ∧
    ({ wLease.putB P.MB_CFG_ENABLE 3 true with mbox := { MboxSt.reset with cmdBuf := (wSlot 0x0001 0).take 32 } } : State).headerCheck { Who.reset with mb := 3 } (Cmd.parse ((wSlot 0x0001 0).take 32) 0 : Cmd) (headerRest (({ wLease.putB P.MB_CFG_ENABLE 3 true with mbox := { MboxSt.reset with cmdBuf := (wSlot 0x0001 0).take 32 } } : State).mbox.cmdBuf.take (32 : BitVec 32).toNat)) = stOk ∧
    ({ wLease.putB P.MB_CFG_ENABLE 3 true with mbox := { MboxSt.reset with cmdBuf := (wSlot 0x0001 0).take 32 } } : State).elsewhere (Cmd.parse ((wSlot 0x0001 0).take 32) 0 : Cmd) = false ∧
    opClass (Cmd.parse ((wSlot 0x0001 0).take 32) 0 : Cmd).opcode (Cmd.parse ((wSlot 0x0001 0).take 32) 0 : Cmd).payload = some .r := by
  decide

/-- A state and operands that meet the hypotheses of clause 5 of ServiceMailboxesComplete. -/
theorem witness_ServiceMailboxesComplete_5 :
    ((State.reset.putB P.MB_CFG_ENABLE 3 true) : State).pwr.por = false ∧
    ((State.reset.putB P.MB_CFG_ENABLE 3 true) : State).smbMine (0x4C : BitVec 7) = true ∧
    ((State.reset.putB P.MB_CFG_ENABLE 3 true) : State).smbOn = true ∧
    (false : Bool) = false := by
  decide

/-- A state and operands that meet the hypotheses of clause 6 of ServiceMailboxesComplete. -/
theorem witness_ServiceMailboxesComplete_6 :
    ((State.reset.putB P.MB_CFG_ENABLE 3 true) : State).pwr.por = false ∧
    ((State.reset.putB P.MB_CFG_ENABLE 3 true) : State).smbMine (0x4C : BitVec 7) = true ∧
    ((State.reset.putB P.MB_CFG_ENABLE 3 true) : State).smbOn = true := by
  decide

/-- A state and operands that meet the hypotheses of clause 7 of ServiceMailboxesComplete. -/
theorem witness_ServiceMailboxesComplete_7 :
    ({ State.reset.putB P.MB_CFG_ENABLE 3 true with mbox := { MboxSt.reset with resp3 := [1, 2, 3] } } : State).pwr.por = false ∧
    ({ State.reset.putB P.MB_CFG_ENABLE 3 true with mbox := { MboxSt.reset with resp3 := [1, 2, 3] } } : State).smbMine (0x4C : BitVec 7) = true ∧
    ({ State.reset.putB P.MB_CFG_ENABLE 3 true with mbox := { MboxSt.reset with resp3 := [1, 2, 3] } } : State).smbOn = true := by
  decide

/-- A state and operands that meet the hypotheses of clause 8 of ServiceMailboxesComplete. -/
theorem witness_ServiceMailboxesComplete_8 :
    (State.reset : State).pwr.por = false := by
  decide

/-- A state and operands that meet the hypotheses of clause 9 of ServiceMailboxesComplete. -/
theorem witness_ServiceMailboxesComplete_9 :
    ({ State.reset with mbox := { MboxSt.reset with jtagOut := [1, 2, 3, 4, 5, 6, 7, 8], jtagPtr := 4 } } : State).pwr.por = false := by
  decide

/-- A state and operands that meet the hypotheses of clause 10 of ServiceMailboxesComplete. -/
theorem witness_ServiceMailboxesComplete_10 :
    (State.reset.putB P.MB_CFG_ENABLE 5 true : State).pwr.por = false ∧
    (State.reset.putB P.MB_CFG_ENABLE 5 true : State).abut = false ∧
    (State.reset.putB P.MB_CFG_ENABLE 5 true : State).flag P.MB_CFG_ENABLE 5 = true ∧
    (State.reset.putB P.MB_CFG_ENABLE 5 true : State).leased = false := by
  decide

/-- A state and operands that meet the hypotheses of clause 11 of ServiceMailboxesComplete. -/
theorem witness_ServiceMailboxesComplete_11 :
    ({ wLease.putB P.MB_CFG_ENABLE 5 true with mbox := { MboxSt.reset with jtagBuf := (wSlot 0x0001 0).take 32 } } : State).pwr.por = false ∧
    ({ wLease.putB P.MB_CFG_ENABLE 5 true with mbox := { MboxSt.reset with jtagBuf := (wSlot 0x0001 0).take 32 } } : State).abut = false ∧
    ({ wLease.putB P.MB_CFG_ENABLE 5 true with mbox := { MboxSt.reset with jtagBuf := (wSlot 0x0001 0).take 32 } } : State).flag P.MB_CFG_ENABLE 5 = true ∧
    ({ wLease.putB P.MB_CFG_ENABLE 5 true with mbox := { MboxSt.reset with jtagBuf := (wSlot 0x0001 0).take 32 } } : State).leased = true ∧
    ({ wLease.putB P.MB_CFG_ENABLE 5 true with mbox := { MboxSt.reset with jtagBuf := (wSlot 0x0001 0).take 32 } } : State).mbox.start3 = none ∧
    ({ wLease.putB P.MB_CFG_ENABLE 5 true with mbox := { MboxSt.reset with jtagBuf := (wSlot 0x0001 0).take 32 } } : State).mbBusy 5 = false ∧
    Cmd.parse ({ wLease.putB P.MB_CFG_ENABLE 5 true with mbox := { MboxSt.reset with jtagBuf := (wSlot 0x0001 0).take 32 } } : State).mbox.jtagBuf 0 = (Cmd.parse ((wSlot 0x0001 0).take 32) 0 : Cmd) ∧
    ({ wLease.putB P.MB_CFG_ENABLE 5 true with mbox := { MboxSt.reset with jtagBuf := (wSlot 0x0001 0).take 32 } } : State).headerCheck { Who.reset with mb := 5 } (Cmd.parse ((wSlot 0x0001 0).take 32) 0 : Cmd) (headerRest ({ wLease.putB P.MB_CFG_ENABLE 5 true with mbox := { MboxSt.reset with jtagBuf := (wSlot 0x0001 0).take 32 } } : State).mbox.jtagBuf) = stOk ∧
    ({ wLease.putB P.MB_CFG_ENABLE 5 true with mbox := { MboxSt.reset with jtagBuf := (wSlot 0x0001 0).take 32 } } : State).elsewhere (Cmd.parse ((wSlot 0x0001 0).take 32) 0 : Cmd) = false ∧
    opClass (Cmd.parse ((wSlot 0x0001 0).take 32) 0 : Cmd).opcode (Cmd.parse ((wSlot 0x0001 0).take 32) 0 : Cmd).payload = some .r := by
  decide

/-- A state and operands that meet the hypotheses of clause 12 of ServiceMailboxesComplete. -/
theorem witness_ServiceMailboxesComplete_12 :
    ({ State.reset with mbox := { MboxSt.reset with jtagBuf := [1], jtagPtr := 4 } } : State).pwr.por = false := by
  decide

/-- A state and operands that meet the hypotheses of clause 1 of MailboxCommandsComplete. -/
theorem witness_MailboxCommandsComplete_1 :
    (wHost 1 : State).pwr.por = false ∧
    Served (wHost 1 : State) (99 : Tm) (1 : Mb) (wCmd 1 [1, 2, 3] : Cmd) (wCmd 1 [1, 2, 3] : Cmd).length .r := by
  decide

/-- A state and operands that meet the hypotheses of clause 2 of MailboxCommandsComplete. -/
theorem witness_MailboxCommandsComplete_2 :
    (wHost 1 : State).pwr.por = false ∧
    Served (wHost 1 : State) (99 : Tm) (1 : Mb) (wCmd 2 [] : Cmd) 0 .r := by
  decide

/-- A state and operands that meet the hypotheses of clause 3 of MailboxCommandsComplete. -/
theorem witness_MailboxCommandsComplete_3 :
    (wHost 1 : State).pwr.por = false ∧
    Served (wHost 1 : State) (99 : Tm) (1 : Mb) (wCmd 0x0F04 [] : Cmd) 0 .r := by
  decide

/-- A state and operands that meet the hypotheses of clause 4 of MailboxCommandsComplete. -/
theorem witness_MailboxCommandsComplete_4 :
    (wHost 1 : State).pwr.por = false ∧
    Served (wHost 1 : State) (99 : Tm) (1 : Mb) (wCmd 0x0301 [77, 0] : Cmd) 2 .n ∧
    field (wCmd 0x0301 [77, 0] : Cmd).payload 0 2 < 256 := by
  decide

/-- A state and operands that meet the hypotheses of clause 5 of MailboxCommandsComplete. -/
theorem witness_MailboxCommandsComplete_5 :
    (wHost 1 : State).pwr.por = false ∧
    Served (wHost 1 : State) (99 : Tm) (1 : Mb) (wCmd 0x0301 [77, 1] : Cmd) 2 .n ∧
    256 ≤ field (wCmd 0x0301 [77, 1] : Cmd).payload 0 2 := by
  decide

/-- A state and operands that meet the hypotheses of clause 6 of MailboxCommandsComplete. -/
theorem witness_MailboxCommandsComplete_6 :
    ((wHost 1).putB P.ROOT_CFG_ROOT 0 true : State).pwr.por = false ∧
    Served ((wHost 1).putB P.ROOT_CFG_ROOT 0 true : State) (99 : Tm) (1 : Mb) (wCmd 0x0401 ([9, 0, 0, 0] ++ le 2 5 ++ [0, 0] ++ le 8 1000) : Cmd) 16 .n ∧
    ((wHost 1).putB P.ROOT_CFG_ROOT 0 true : State).abut = false ∧
    ((wHost 1).putB P.ROOT_CFG_ROOT 0 true : State).flag P.ROOT_CFG_ROOT 0 = true ∧
    field (wCmd 0x0401 ([9, 0, 0, 0] ++ le 2 5 ++ [0, 0] ++ le 8 1000) : Cmd).payload 0 1 ≤ 15 ∧
    field (wCmd 0x0401 ([9, 0, 0, 0] ++ le 2 5 ++ [0, 0] ++ le 8 1000) : Cmd).payload 4 2 ≤ 3071 := by
  decide

/-- A state and operands that meet the hypotheses of clause 7 of MailboxCommandsComplete. -/
theorem witness_MailboxCommandsComplete_7 :
    ((wHost 1).putB P.ROOT_CFG_ROOT 0 false : State).pwr.por = false ∧
    Served ((wHost 1).putB P.ROOT_CFG_ROOT 0 false : State) (99 : Tm) (1 : Mb) (wCmd 0x0401 ([9, 0, 0, 0] ++ le 2 5 ++ [0, 0] ++ le 8 1000) : Cmd) 16 .n ∧
    ((wHost 1).putB P.ROOT_CFG_ROOT 0 false : State).flag P.ROOT_CFG_ROOT 0 = false := by
  decide

/-- A state and operands that meet the hypotheses of clause 8 of MailboxCommandsComplete. -/
theorem witness_MailboxCommandsComplete_8 :
    ((withHolder 1 (((State.reset.putB P.DECK_STATUS_ONLINE 0 true).putB P.CTX_SRC_REWIND 9 true).modCtx 9 fun c => { c with state := 1 }) : State).pwr.por = false) ∧
    (Served (withHolder 1 (((State.reset.putB P.DECK_STATUS_ONLINE 0 true).putB P.CTX_SRC_REWIND 9 true).modCtx 9 fun c => { c with state := 1 }) : State) (secSt : Tm) (1 : Mb) (wCmd 0x0601 wReq : Cmd) 64 .n) ∧
    (Req.parse (wCmd 0x0601 wReq : Cmd).payload).ctx = (9 : Nat) ∧
    (Req.parse ((wCmd 0x0601 wReq : Cmd).payload.take 64)).delivers = true ∧
    (((withHolder 1 (((State.reset.putB P.DECK_STATUS_ONLINE 0 true).putB P.CTX_SRC_REWIND 9 true).modCtx 9 fun c => { c with state := 1 }) : State).clock (secSt : Tm)).reqJudge (9 : Nat) (Req.parse ((wCmd 0x0601 wReq : Cmd).payload.take 64)) = stOk) := by
  decide

/-- A state and operands that meet the hypotheses of clause 9 of MailboxCommandsComplete. -/
theorem witness_MailboxCommandsComplete_9 :
    (withHolder 1 (State.reset.holdPlace 3 9 77 0 0 5 true) : State).pwr.por = false ∧
    Served (withHolder 1 (State.reset.holdPlace 3 9 77 0 0 5 true) : State) (99 : Tm) (1 : Mb) (wCmd 0x0602 (le 4 77) : Cmd) 4 .n ∧
    (wCmd 0x0602 (le 4 77) : Cmd).context < 1024 ∧
    (((upTo 64).find? fun j => ((withHolder 1 (State.reset.holdPlace 3 9 77 0 0 5 true) : State).holdOf j).used && ((withHolder 1 (State.reset.holdPlace 3 9 77 0 0 5 true) : State).holdOf j).only && ((withHolder 1 (State.reset.holdPlace 3 9 77 0 0 5 true) : State).holdOf j).ctx == (wCmd 0x0602 (le 4 77) : Cmd).context && ((withHolder 1 (State.reset.holdPlace 3 9 77 0 0 5 true) : State).holdOf j).tag == field (wCmd 0x0602 (le 4 77) : Cmd).payload 0 4) = some (3 : Nat)) := by
  decide

/-- A state and operands that meet the hypotheses of clause 10 of MailboxCommandsComplete. -/
theorem witness_MailboxCommandsComplete_10 :
    (wLease : State).pwr.por = false ∧
    Served (wLease : State) (99 : Tm) (1 : Mb) (wCmd 0x0602 (le 4 77) : Cmd) 4 .n ∧
    (wCmd 0x0602 (le 4 77) : Cmd).context < 1024 ∧
    (((upTo 64).find? fun j => ((wLease : State).holdOf j).used && ((wLease : State).holdOf j).only && ((wLease : State).holdOf j).ctx == (wCmd 0x0602 (le 4 77) : Cmd).context && ((wLease : State).holdOf j).tag == field (wCmd 0x0602 (le 4 77) : Cmd).payload 0 4) = none) := by
  decide

/-- A state and operands that meet the hypotheses of clause 11 of MailboxCommandsComplete. -/
theorem witness_MailboxCommandsComplete_11 :
    ({ wLease with core := { wLease.core with sync := true } } : State).pwr.por = false ∧
    Served ({ wLease with core := { wLease.core with sync := true } } : State) (99 : Tm) (1 : Mb) (wCmd 0x0F01 [] : Cmd) 0 .p ∧
    ({ wLease with core := { wLease.core with sync := true } } : State).core.sync = true := by
  decide

/-- A state and operands that meet the hypotheses of clause 12 of MailboxCommandsComplete. -/
theorem witness_MailboxCommandsComplete_12 :
    (wLease : State).pwr.por = false ∧
    Served (wLease : State) (99 : Tm) (1 : Mb) (wCmd 0x0F01 [] : Cmd) 0 .p ∧
    (wLease : State).core.sync = false := by
  decide

/-- A state and operands that meet the hypotheses of clause 1 of LeaseCompletes. -/
theorem witness_LeaseCompletes_1 :
    (wLease : State).pwr.por = false ∧
    (wLease : State).core.holder = (0 : Pier).val + 1 ∧
    (wLease : State).core.gen = (0 : BitVec 16).toNat := by
  decide

/-- A state and operands that meet the hypotheses of clause 2 of LeaseCompletes. -/
theorem witness_LeaseCompletes_2 :
    (wLease : State).pwr.por = false ∧
    ((wLease : State).core.holder ≠ (0 : Pier).val + 1 ∨ (wLease : State).core.gen ≠ (65535 : BitVec 16).toNat) := by
  decide

/-- A state and operands that meet the hypotheses of clause 3 of LeaseCompletes. -/
theorem witness_LeaseCompletes_3 :
    ({ wHealthy 1 State.reset with pwr := { PwrSt.reset with refWait := false } } : State).pwr.por = false ∧
    (({ wHealthy 1 State.reset with pwr := { PwrSt.reset with refWait := false } } : State).pierOf (1 : Pier)).held = false ∧
    ({ wHealthy 1 State.reset with pwr := { PwrSt.reset with refWait := false } } : State).pwr.refWait = false := by
  decide

/-- A state and operands that meet the hypotheses of clause 4 of LeaseCompletes. -/
theorem witness_LeaseCompletes_4 :
    ({ wHealthy 0 State.reset with pwr := { PwrSt.reset with refWait := false } } : State).pwr.por = false ∧
    (({ wHealthy 0 State.reset with pwr := { PwrSt.reset with refWait := false } } : State).clock (99 : Tm)).mayGrant (0 : Pier) = true ∧
    ({ wHealthy 0 State.reset with pwr := { PwrSt.reset with refWait := false } } : State).core.ks = 1 := by
  decide

/-- A state and operands that meet the hypotheses of clause 5 of LeaseCompletes. -/
theorem witness_LeaseCompletes_5 :
    ({ wHealthy 1 State.reset with pwr := { PwrSt.reset with refWait := false }, core := { (wHealthy 1 State.reset).core with ks := 4, sync := true, last := 1, ckpt := { Ckpt.reset with hist := [(1, [⟨77, 0, 5⟩])] } } } : State).pwr.por = false ∧
    (({ wHealthy 1 State.reset with pwr := { PwrSt.reset with refWait := false }, core := { (wHealthy 1 State.reset).core with ks := 4, sync := true, last := 1, ckpt := { Ckpt.reset with hist := [(1, [⟨77, 0, 5⟩])] } } } : State).clock (99 : Tm)).mayGrant (1 : Pier) = true ∧
    ({ wHealthy 1 State.reset with pwr := { PwrSt.reset with refWait := false }, core := { (wHealthy 1 State.reset).core with ks := 4, sync := true, last := 1, ckpt := { Ckpt.reset with hist := [(1, [⟨77, 0, 5⟩])] } } } : State).core.ks ≠ 1 ∧
    ({ wHealthy 1 State.reset with pwr := { PwrSt.reset with refWait := false }, core := { (wHealthy 1 State.reset).core with ks := 4, sync := true, last := 1, ckpt := { Ckpt.reset with hist := [(1, [⟨77, 0, 5⟩])] } } } : State).core.sync = true ∧
    ({ wHealthy 1 State.reset with pwr := { PwrSt.reset with refWait := false }, core := { (wHealthy 1 State.reset).core with ks := 4, sync := true, last := 1, ckpt := { Ckpt.reset with hist := [(1, [⟨77, 0, 5⟩])] } } } : State).core.last ≠ (1 : Pier).val + 1 := by
  decide

/-- A state and operands that meet the hypotheses of clause 6 of LeaseCompletes. -/
theorem witness_LeaseCompletes_6 :
    ({ wHealthy 1 State.reset with pwr := { PwrSt.reset with refWait := false }, core := { (wHealthy 1 State.reset).core with ks := 4, last := 1 } } : State).pwr.por = false ∧
    (({ wHealthy 1 State.reset with pwr := { PwrSt.reset with refWait := false }, core := { (wHealthy 1 State.reset).core with ks := 4, last := 1 } } : State).clock (99 : Tm)).mayGrant (1 : Pier) = true ∧
    ({ wHealthy 1 State.reset with pwr := { PwrSt.reset with refWait := false }, core := { (wHealthy 1 State.reset).core with ks := 4, last := 1 } } : State).core.ks ≠ 1 ∧
    (({ wHealthy 1 State.reset with pwr := { PwrSt.reset with refWait := false }, core := { (wHealthy 1 State.reset).core with ks := 4, last := 1 } } : State).core.sync = false ∨ ({ wHealthy 1 State.reset with pwr := { PwrSt.reset with refWait := false }, core := { (wHealthy 1 State.reset).core with ks := 4, last := 1 } } : State).core.last = (1 : Pier).val + 1) := by
  decide

/-- A state and operands that meet the hypotheses of clause 7 of LeaseCompletes. -/
theorem witness_LeaseCompletes_7 :
    ({ wLease with time := { wLease.time with next := secSt } } : State).pwr.por = false ∧
    ({ wLease with time := { wLease.time with next := secSt } } : State).leased = true ∧
    ({ wLease with time := { wLease.time with next := secSt } } : State).core.revokeAt = none ∧
    (({ wLease with time := { wLease.time with next := secSt } } : State).clock (4000000000 : Tm)).leaseOver ((({ wLease with time := { wLease.time with next := secSt } } : State).clock (4000000000 : Tm)).time.up - ({ wLease with time := { wLease.time with next := secSt } } : State).core.renewed) = true ∧
    (({ wLease with time := { wLease.time with next := secSt } } : State).clock (4000000000 : Tm)).holdWindow = false := by
  decide

/-- A state and operands that meet the hypotheses of clause 8 of LeaseCompletes. -/
theorem witness_LeaseCompletes_8 :
    ({ wLease with time := { wLease.time with next := 4000000001 } } : State).pwr.por = false ∧
    ({ wLease with time := { wLease.time with next := 4000000001 } } : State).leased = true ∧
    ({ wLease with time := { wLease.time with next := 4000000001 } } : State).core.revokeAt = none ∧
    (({ wLease with time := { wLease.time with next := 4000000001 } } : State).clock (4000000000 : Tm)).leaseOver ((({ wLease with time := { wLease.time with next := 4000000001 } } : State).clock (4000000000 : Tm)).time.up - ({ wLease with time := { wLease.time with next := 4000000001 } } : State).core.renewed) = true ∧
    (({ wLease with time := { wLease.time with next := 4000000001 } } : State).clock (4000000000 : Tm)).holdWindow = true := by
  decide

/-- A state and operands that meet the hypotheses of clause 9 of LeaseCompletes. -/
theorem witness_LeaseCompletes_9 :
    (({ State.reset.modPier 1 fun p => { p with held := false, resetAt := some 0 } with pwr := { PwrSt.reset with refWait := false } } : State).pwr.por = false) ∧
    ((({ State.reset.modPier 1 fun p => { p with held := false, resetAt := some 0 } with pwr := { PwrSt.reset with refWait := false } } : State).pierOf (1 : Pier)).resetAt = some (0 : Tm)) ∧
    (({ State.reset.modPier 1 fun p => { p with held := false, resetAt := some 0 } with pwr := { PwrSt.reset with refWait := false } } : State).pwr.refWait = false) ∧
    ((({ State.reset.modPier 1 fun p => { p with held := false, resetAt := some 0 } with pwr := { PwrSt.reset with refWait := false } } : State).pierOf (1 : Pier)).failed = false) ∧
    ((({ State.reset.modPier 1 fun p => { p with held := false, resetAt := some 0 } with pwr := { PwrSt.reset with refWait := false } } : State).clock (secSt : Tm)).healthy (1 : Pier) = false) ∧
    ((0 : Tm) + 500 * msSt ≤ (({ State.reset.modPier 1 fun p => { p with held := false, resetAt := some 0 } with pwr := { PwrSt.reset with refWait := false } } : State).clock (secSt : Tm)).time.up) := by
  decide

/-- A state and operands that meet the hypotheses of clause 1 of CheckpointCompletes. -/
theorem witness_CheckpointCompletes_1 :
    ({ wLease with time := { wLease.time with last := 100, next := secSt } } : State).pwr.por = false ∧
    ({ wLease with time := { wLease.time with last := 100, next := secSt } } : State).leased = true ∧
    ({ wLease with time := { wLease.time with last := 100, next := secSt } } : State).core.mark = none ∧
    ({ wLease with time := { wLease.time with last := 100, next := secSt } } : State).core.committed < ({ wLease with time := { wLease.time with last := 100, next := secSt } } : State).time.last ∧
    ({ wLease with time := { wLease.time with last := 100, next := secSt } } : State).time.last + 40 * usSt ≤ ({ wLease with time := { wLease.time with last := 100, next := secSt } } : State).instant (msSt : Tm) ∧
    (({ wLease with time := { wLease.time with last := 100, next := secSt } } : State).core.sync || ({ wLease with time := { wLease.time with last := 100, next := secSt } } : State).core.copied || ({ wLease with time := { wLease.time with last := 100, next := secSt } } : State).core.joined) = false := by
  decide

/-- A state and operands that meet the hypotheses of clause 2 of CheckpointCompletes. -/
theorem witness_CheckpointCompletes_2 :
    ({ wLease with time := { wLease.time with last := 100, next := secSt }, core := { wLease.core with sync := true } } : State).pwr.por = false ∧
    ({ wLease with time := { wLease.time with last := 100, next := secSt }, core := { wLease.core with sync := true } } : State).leased = true ∧
    ({ wLease with time := { wLease.time with last := 100, next := secSt }, core := { wLease.core with sync := true } } : State).core.mark = none ∧
    ({ wLease with time := { wLease.time with last := 100, next := secSt }, core := { wLease.core with sync := true } } : State).core.committed < ({ wLease with time := { wLease.time with last := 100, next := secSt }, core := { wLease.core with sync := true } } : State).time.last ∧
    ({ wLease with time := { wLease.time with last := 100, next := secSt }, core := { wLease.core with sync := true } } : State).time.last + 40 * usSt ≤ ({ wLease with time := { wLease.time with last := 100, next := secSt }, core := { wLease.core with sync := true } } : State).instant (msSt : Tm) ∧
    (({ wLease with time := { wLease.time with last := 100, next := secSt }, core := { wLease.core with sync := true } } : State).core.sync || ({ wLease with time := { wLease.time with last := 100, next := secSt }, core := { wLease.core with sync := true } } : State).core.copied || ({ wLease with time := { wLease.time with last := 100, next := secSt }, core := { wLease.core with sync := true } } : State).core.joined) = true ∧
    (true : Bool) = true := by
  decide

/-- A state and operands that meet the hypotheses of clause 3 of CheckpointCompletes. -/
theorem witness_CheckpointCompletes_3 :
    ({ wLease with time := { wLease.time with last := 100, next := secSt }, core := { wLease.core with sync := true } } : State).pwr.por = false ∧
    ({ wLease with time := { wLease.time with last := 100, next := secSt }, core := { wLease.core with sync := true } } : State).leased = true ∧
    ({ wLease with time := { wLease.time with last := 100, next := secSt }, core := { wLease.core with sync := true } } : State).core.mark = none ∧
    ({ wLease with time := { wLease.time with last := 100, next := secSt }, core := { wLease.core with sync := true } } : State).core.committed < ({ wLease with time := { wLease.time with last := 100, next := secSt }, core := { wLease.core with sync := true } } : State).time.last ∧
    ({ wLease with time := { wLease.time with last := 100, next := secSt }, core := { wLease.core with sync := true } } : State).time.last + 40 * usSt ≤ ({ wLease with time := { wLease.time with last := 100, next := secSt }, core := { wLease.core with sync := true } } : State).instant (msSt : Tm) ∧
    (({ wLease with time := { wLease.time with last := 100, next := secSt }, core := { wLease.core with sync := true } } : State).core.sync || ({ wLease with time := { wLease.time with last := 100, next := secSt }, core := { wLease.core with sync := true } } : State).core.copied || ({ wLease with time := { wLease.time with last := 100, next := secSt }, core := { wLease.core with sync := true } } : State).core.joined) = true ∧
    (false : Bool) = false ∧
    ({ wLease with time := { wLease.time with last := 100, next := secSt }, core := { wLease.core with sync := true } } : State).core.late = false := by
  decide

/-- A state and operands that meet the hypotheses of clause 4 of CheckpointCompletes. -/
theorem witness_CheckpointCompletes_4 :
    (wMark : State).pwr.por = false ∧
    (wMark : State).leased = true ∧
    (wMark : State).core.mark = some (100 : Tm) ∧
    (true : Bool) = true := by
  decide

/-- A state and operands that meet the hypotheses of clause 5 of CheckpointCompletes. -/
theorem witness_CheckpointCompletes_5 :
    ({ wMark with core := { wMark.core with sync := false, copied := true } } : State).pwr.por = false ∧
    ({ wMark with core := { wMark.core with sync := false, copied := true } } : State).leased = true ∧
    ({ wMark with core := { wMark.core with sync := false, copied := true } } : State).core.mark = some (100 : Tm) ∧
    (true : Bool) = true ∧
    ({ wMark with core := { wMark.core with sync := false, copied := true } } : State).core.sync = false ∧
    ({ wMark with core := { wMark.core with sync := false, copied := true } } : State).core.copied = true := by
  decide

/-- A state and operands that meet the hypotheses of clause 6 of CheckpointCompletes. -/
theorem witness_CheckpointCompletes_6 :
    ({ wMark with core := { wMark.core with handing := true, handAfter := 50 } } : State).pwr.por = false ∧
    ({ wMark with core := { wMark.core with handing := true, handAfter := 50 } } : State).leased = true ∧
    ({ wMark with core := { wMark.core with handing := true, handAfter := 50 } } : State).core.mark = some (100 : Tm) ∧
    (true : Bool) = true ∧
    ({ wMark with core := { wMark.core with handing := true, handAfter := 50 } } : State).core.sync = true ∧
    ({ wMark with core := { wMark.core with handing := true, handAfter := 50 } } : State).core.handing = true ∧
    ({ wMark with core := { wMark.core with handing := true, handAfter := 50 } } : State).core.handAfter ≤ (100 : Tm) := by
  decide

/-- A state and operands that meet the hypotheses of clause 7 of CheckpointCompletes. -/
theorem witness_CheckpointCompletes_7 :
    (wMark : State).pwr.por = false ∧
    (wMark : State).leased = true ∧
    (wMark : State).core.mark = some (100 : Tm) ∧
    (false : Bool) = false ∧
    (wMark : State).core.refused = 0 := by
  decide

/-- A state and operands that meet the hypotheses of clause 8 of CheckpointCompletes. -/
theorem witness_CheckpointCompletes_8 :
    ({ wMark with core := { wMark.core with refused := 1 } } : State).pwr.por = false ∧
    ({ wMark with core := { wMark.core with refused := 1 } } : State).leased = true ∧
    ({ wMark with core := { wMark.core with refused := 1 } } : State).core.mark = some (100 : Tm) ∧
    (false : Bool) = false ∧
    1 ≤ ({ wMark with core := { wMark.core with refused := 1 } } : State).core.refused := by
  decide

/-- A state and operands that meet the hypotheses of clause 9 of CheckpointCompletes. -/
theorem witness_CheckpointCompletes_9 :
    (wMark : State).pwr.por = false ∧
    (wMark : State).leased = true ∧
    (wMark : State).core.mark = some (100 : Tm) ∧
    (wMark : State).core.markAt + 20 * usSt ≤ (wMark : State).instant (msSt : Tm) := by
  decide

/-- A state and operands that meet the hypotheses of clause 10 of CheckpointCompletes. -/
theorem witness_CheckpointCompletes_10 :
    (({ (wLease.modPier 1 fun p => { p with held := false, word := 0xC8, heard := some 0 }) with pwr := { PwrSt.reset with refWait := false } } : State).pwr.por = false) ∧
    ((({ (wLease.modPier 1 fun p => { p with held := false, word := 0xC8, heard := some 0 }) with pwr := { PwrSt.reset with refWait := false } } : State).clock (99 : Tm)).pierWord (2 - ({ (wLease.modPier 1 fun p => { p with held := false, word := 0xC8, heard := some 0 }) with pwr := { PwrSt.reset with refWait := false } } : State).core.holder) = (0xC9 : Nat)) ∧
    (({ (wLease.modPier 1 fun p => { p with held := false, word := 0xC8, heard := some 0 }) with pwr := { PwrSt.reset with refWait := false } } : State).leased = true) ∧
    (({ (wLease.modPier 1 fun p => { p with held := false, word := 0xC8, heard := some 0 }) with pwr := { PwrSt.reset with refWait := false } } : State).core.sync = false) ∧
    (0xC9 : Nat).testBit 0 = true ∧
    (0xC9 : Nat).testBit 7 = true ∧
    3 ≤ wordState (0xC9 : Nat) ∧
    wordState (0xC9 : Nat) ≠ 6 := by
  decide

/-- A state and operands that meet the hypotheses of clause 1 of MaintenanceCompletes. -/
theorem witness_MaintenanceCompletes_1 :
    (wLease : State).pwr.por = false ∧
    (wLease : State).leased = true ∧
    (55 : Nat) < maintUnits (2 : Fin 8) ∧
    ((2 : Fin 8).val = 7 → (wLease : State).laneMayRetrain (55 : Nat) = true) ∧
    ((2 : Fin 8).val = 1 → (wLease : State).get P.ROT_STATUS_STATE (55 : Nat) ≠ 8) ∧
    ((wLease : State).maintJudge (2 : Fin 8) (55 : Nat) = .run ∨ (wLease : State).maintJudge (2 : Fin 8) (55 : Nat) = .suspend) := by
  decide

/-- A state and operands that meet the hypotheses of clause 2 of MaintenanceCompletes. -/
theorem witness_MaintenanceCompletes_2 :
    (wLease.maintBegin 2 55 false : State).pwr.por = false ∧
    (wLease.maintBegin 2 55 false : State).leased = true ∧
    (54 : Nat) < maintUnits (2 : Fin 8) ∧
    ((2 : Fin 8).val = 7 → (wLease.maintBegin 2 55 false : State).laneMayRetrain (54 : Nat) = true) ∧
    ((2 : Fin 8).val = 1 → (wLease.maintBegin 2 55 false : State).get P.ROT_STATUS_STATE (54 : Nat) ≠ 8) ∧
    (wLease.maintBegin 2 55 false : State).maintJudge (2 : Fin 8) (54 : Nat) = .defer := by
  decide

/-- A state and operands that meet the hypotheses of clause 3 of MaintenanceCompletes. -/
theorem witness_MaintenanceCompletes_3 :
    (wLease.maintBegin 1 3 false : State).pwr.por = false ∧
    (wLease.maintBegin 1 3 false : State).leased = true ∧
    (55 : Nat) < maintUnits (0 : Fin 8) ∧
    ((0 : Fin 8).val = 7 → (wLease.maintBegin 1 3 false : State).laneMayRetrain (55 : Nat) = true) ∧
    ((0 : Fin 8).val = 1 → (wLease.maintBegin 1 3 false : State).get P.ROT_STATUS_STATE (55 : Nat) ≠ 8) ∧
    (wLease.maintBegin 1 3 false : State).maintJudge (0 : Fin 8) (55 : Nat) = .interlock := by
  decide

/-- A state and operands that meet the hypotheses of clause 4 of MaintenanceCompletes. -/
theorem witness_MaintenanceCompletes_4 :
    ({ wLease with core := { wLease.core with wait := [⟨2, 55, false, 0, false, 1⟩] } } : State).pwr.por = false ∧
    (({ wLease with core := { wLease.core with wait := [⟨2, 55, false, 0, false, 1⟩] } } : State).core.wait.find? (fun x => x.code == (2 : Fin 8).val && x.unit == (55 : Nat)) = some (⟨2, 55, false, 0, false, 1⟩ : Act)) ∧
    ({ wLease with core := { wLease.core with wait := [⟨2, 55, false, 0, false, 1⟩] } } : State).leased = true ∧
    ({ wLease with core := { wLease.core with wait := [⟨2, 55, false, 0, false, 1⟩] } } : State).instant (5 : Tm) ≤ ({ wLease with core := { wLease.core with wait := [⟨2, 55, false, 0, false, 1⟩] } } : State).time.last + 2 * ccSt ∧
    (({ wLease with core := { wLease.core with wait := [⟨2, 55, false, 0, false, 1⟩] } } : State).maintJudge (⟨2, 55, false, 0, false, 1⟩ : Act).code (⟨2, 55, false, 0, false, 1⟩ : Act).unit = .run ∨ ({ wLease with core := { wLease.core with wait := [⟨2, 55, false, 0, false, 1⟩] } } : State).maintJudge (⟨2, 55, false, 0, false, 1⟩ : Act).code (⟨2, 55, false, 0, false, 1⟩ : Act).unit = .suspend) ∧
    (⟨2, 55, false, 0, false, 1⟩ : Act).code ≠ 1 := by
  decide

/-- A state and operands that meet the hypotheses of clause 5 of MaintenanceCompletes. -/
theorem witness_MaintenanceCompletes_5 :
    ({ wLease with core := { wLease.core with wait := [⟨2, 55, false, 0, false, 1⟩] } } : State).pwr.por = false ∧
    (({ wLease with core := { wLease.core with wait := [⟨2, 55, false, 0, false, 1⟩] } } : State).core.wait.find? (fun x => x.code == (2 : Fin 8).val && x.unit == (55 : Nat)) = some (⟨2, 55, false, 0, false, 1⟩ : Act)) ∧
    ({ wLease with core := { wLease.core with wait := [⟨2, 55, false, 0, false, 1⟩] } } : State).leased = true ∧
    ({ wLease with core := { wLease.core with wait := [⟨2, 55, false, 0, false, 1⟩] } } : State).instant (5 : Tm) ≤ ({ wLease with core := { wLease.core with wait := [⟨2, 55, false, 0, false, 1⟩] } } : State).time.last + 2 * ccSt ∧
    ({ wLease with core := { wLease.core with wait := [⟨2, 55, false, 0, false, 1⟩] } } : State).maintJudge (⟨2, 55, false, 0, false, 1⟩ : Act).code (⟨2, 55, false, 0, false, 1⟩ : Act).unit = .run ∧
    (2 : Fin 8).val = 2 := by
  decide

/-- A state and operands that meet the hypotheses of clause 6 of MaintenanceCompletes. -/
theorem witness_MaintenanceCompletes_6 :
    ({ wLease with core := { wLease.core with wait := [⟨1, 3, false, 0, false, 1⟩] } } : State).pwr.por = false ∧
    (({ wLease with core := { wLease.core with wait := [⟨1, 3, false, 0, false, 1⟩] } } : State).core.wait.find? (fun x => x.code == (1 : Fin 8).val && x.unit == (3 : Nat)) = some (⟨1, 3, false, 0, false, 1⟩ : Act)) ∧
    ({ wLease with core := { wLease.core with wait := [⟨1, 3, false, 0, false, 1⟩] } } : State).leased = true ∧
    ({ wLease with core := { wLease.core with wait := [⟨1, 3, false, 0, false, 1⟩] } } : State).instant (5 : Tm) ≤ ({ wLease with core := { wLease.core with wait := [⟨1, 3, false, 0, false, 1⟩] } } : State).time.last + 2 * ccSt ∧
    ({ wLease with core := { wLease.core with wait := [⟨1, 3, false, 0, false, 1⟩] } } : State).maintJudge (⟨1, 3, false, 0, false, 1⟩ : Act).code (⟨1, 3, false, 0, false, 1⟩ : Act).unit = .run ∧
    (1 : Fin 8).val = 1 ∧
    ({ wLease with core := { wLease.core with wait := [⟨1, 3, false, 0, false, 1⟩] } } : State).time.last % secSt = 0 := by
  decide

/-- A state and operands that meet the hypotheses of clause 7 of MaintenanceCompletes. -/
theorem witness_MaintenanceCompletes_7 :
    ((((wLease.putB P.STBY_TEST_ENABLE 0 true).maintBegin 6 0 false).modPier 1 fun p => { p with word := 0x20049 } : State).pwr.por = false) ∧
    ((((wLease.putB P.STBY_TEST_ENABLE 0 true).maintBegin 6 0 false).modPier 1 fun p => { p with word := 0x20049 } : State).leased = true) ∧
    (0 : BitVec 8) = 0 ∧
    (((((wLease.putB P.STBY_TEST_ENABLE 0 true).maintBegin 6 0 false).modPier 1 fun p => { p with word := 0x20049 } : State).core.run.find? fun a => a.code == 6).all (fun a => decide (a.since + (((wLease.putB P.STBY_TEST_ENABLE 0 true).maintBegin 6 0 false).modPier 1 fun p => { p with word := 0x20049 } : State).get P.STBY_TEST_PASS_S 0 * secSt ≤ (((wLease.putB P.STBY_TEST_ENABLE 0 true).maintBegin 6 0 false).modPier 1 fun p => { p with word := 0x20049 } : State).instant (100000 * secSt : Tm))) = true) ∧
    (2 - (((wLease.putB P.STBY_TEST_ENABLE 0 true).maintBegin 6 0 false).modPier 1 fun p => { p with word := 0x20049 } : State).core.holder = (1 : Nat)) ∧
    (((((wLease.putB P.STBY_TEST_ENABLE 0 true).maintBegin 6 0 false).modPier 1 fun p => { p with word := 0x20049 } : State).pierOf (1 : Nat)).word = (0x20049 : Nat)) := by
  decide

/-- A state and operands that meet the hypotheses of clause 8 of MaintenanceCompletes. -/
theorem witness_MaintenanceCompletes_8 :
    (((wLease.maintBegin 6 0 false).modPier 1 fun p => { p with word := 0x20049 } : State).pwr.por = false) ∧
    (((wLease.maintBegin 6 0 false).modPier 1 fun p => { p with word := 0x20049 } : State).leased = true) ∧
    (5 : BitVec 8) ≠ 0 ∧
    (2 - ((wLease.maintBegin 6 0 false).modPier 1 fun p => { p with word := 0x20049 } : State).core.holder = (1 : Nat)) ∧
    ((((wLease.maintBegin 6 0 false).modPier 1 fun p => { p with word := 0x20049 } : State).pierOf (1 : Nat)).word = (0x20049 : Nat)) := by
  decide

/-- A state and operands that meet the hypotheses of clause 9 of MaintenanceCompletes. -/
theorem witness_MaintenanceCompletes_9 :
    ({ (((State.reset.put P.FAB_TREE_UP_PORT 0 2).put P.FAB_PORT_STATUS_STATE 2 3).put P.FAB_PORT_STATUS_WIDTH 2 4) with core := { CoreSt.reset with ks := 5 } } : State).pwr.por = false ∧
    ({ (((State.reset.put P.FAB_TREE_UP_PORT 0 2).put P.FAB_PORT_STATUS_STATE 2 3).put P.FAB_PORT_STATUS_WIDTH 2 4) with core := { CoreSt.reset with ks := 5 } } : State).abut = true ∧
    ({ (((State.reset.put P.FAB_TREE_UP_PORT 0 2).put P.FAB_PORT_STATUS_STATE 2 3).put P.FAB_PORT_STATUS_WIDTH 2 4) with core := { CoreSt.reset with ks := 5 } } : State).core.lastBeat ≠ some ({ (((State.reset.put P.FAB_TREE_UP_PORT 0 2).put P.FAB_PORT_STATUS_STATE 2 3).put P.FAB_PORT_STATUS_WIDTH 2 4) with core := { CoreSt.reset with ks := 5 } } : State).time.last ∧
    ({ (((State.reset.put P.FAB_TREE_UP_PORT 0 2).put P.FAB_PORT_STATUS_STATE 2 3).put P.FAB_PORT_STATUS_WIDTH 2 4) with core := { CoreSt.reset with ks := 5 } } : State).upPort < 4 ∧
    ({ (((State.reset.put P.FAB_TREE_UP_PORT 0 2).put P.FAB_PORT_STATUS_STATE 2 3).put P.FAB_PORT_STATUS_WIDTH 2 4) with core := { CoreSt.reset with ks := 5 } } : State).portUp ({ (((State.reset.put P.FAB_TREE_UP_PORT 0 2).put P.FAB_PORT_STATUS_STATE 2 3).put P.FAB_PORT_STATUS_WIDTH 2 4) with core := { CoreSt.reset with ks := 5 } } : State).upPort = true := by
  decide

/-- A state and operands that meet the hypotheses of clause 10 of MaintenanceCompletes. -/
theorem witness_MaintenanceCompletes_10 :
    (wLease : State).pwr.por = false ∧
    (wLease : State).abut = false ∧
    ((match (wLease : State).core.lastBeat with | some b => decide (b / secSt < (wLease : State).time.last / secSt) || decide ((wLease : State).time.last < b) | none => true) = true) := by
  decide

set_option maxRecDepth 100000 in
/-- A state and operands that meet the hypotheses of clause 1 of FabricLinkCompletes. -/
theorem witness_FabricLinkCompletes_1 :
    (((wUp 2 wLease).modCtx 9 fun c => { c with state := 1 } : State).pwr.por = false) ∧
    (((wUp 2 wLease).modCtx 9 fun c => { c with state := 1 } : State).portCarries (2 : Port) = true) ∧
    (((wUp 2 wLease).modCtx 9 fun c => { c with state := 1 } : State).striped (2 : Port) = false) ∧
    frameGood (wFrame : Frame) = true ∧
    ((wFrame : Frame).seq = (((wUp 2 wLease).modCtx 9 fun c => { c with state := 1 } : State).fp (2 : Port)).rxSeq) ∧
    ((((wUp 2 wLease).modCtx 9 fun c => { c with state := 1 } : State).mem.flaws.any fun f => f.mem == 14) = false) ∧
    (((wUp 2 wLease).modCtx 9 fun c => { c with state := 1 } : State).dataEntry (wFrame : Frame).dest = 4) ∧
    ((wFrame : Frame).kind = 0 ∧ (wFrame : Frame).first = true ∧ (wFrame : Frame).last = true ∧ (wFrame : Frame).stream = 3 ∧ (wFrame : Frame).vc = 3) ∧
    ((wFrame : Frame).payload.headD 0).toNat % 1024 = (9 : Nat) ∧
    parseRec (((wFrame : Frame).payload.drop 1).flatMap wordBytes) = some (⟨2, 0, 0, 0, 0, 0, []⟩ : Rec) ∧
    ((((wUp 2 wLease).modCtx 9 fun c => { c with state := 1 } : State).ctxOf (9 : Nat)).state ≠ 0) := by
  decide

set_option maxRecDepth 100000 in
/-- A state and operands that meet the hypotheses of clause 2 of FabricLinkCompletes. -/
theorem witness_FabricLinkCompletes_2 :
    (wUp 2 wLease : State).pwr.por = false ∧
    (wUp 2 wLease : State).portCarries (2 : Port) = true ∧
    (wUp 2 wLease : State).striped (2 : Port) = false ∧
    frameGood ({ wFrame with crc := 0 } : Frame) = false ∧
    ((wUp 2 wLease : State).fp (2 : Port)).gap = false := by
  decide

/-- A state and operands that meet the hypotheses of clause 3 of FabricLinkCompletes. -/
theorem witness_FabricLinkCompletes_3 :
    (((wUp 2 wLease).modFp 2 fun x => { x with used := [(3, 9)], unacked := [(wFrame, 5)] } : State).pwr.por = false) ∧
    (((wUp 2 wLease).modFp 2 fun x => { x with used := [(3, 9)], unacked := [(wFrame, 5)] } : State).portCarries (2 : Port) = true) ∧
    (⟨3, 4, 0, false, true⟩ : Credit).nak = false ∧
    ((((wUp 2 wLease).modFp 2 fun x => { x with used := [(3, 9)], unacked := [(wFrame, 5)] } : State).fp (2 : Port)).waiting = 0) ∧
    (((wUp 2 wLease).modFp 2 fun x => { x with used := [(3, 9)], unacked := [(wFrame, 5)] } : State).get P.SEAM_CFG_UP_PORT 0 ≠ (2 : Port).val ∨ ((wUp 2 wLease).modFp 2 fun x => { x with used := [(3, 9)], unacked := [(wFrame, 5)] } : State).upNext = none) := by
  decide

/-- A state and operands that meet the hypotheses of clause 4 of FabricLinkCompletes. -/
theorem witness_FabricLinkCompletes_4 :
    (((wUp 2 wLease).modFp 2 fun x => { x with unacked := [(wFrame, 5)] } : State).pwr.por = false) ∧
    (((wUp 2 wLease).modFp 2 fun x => { x with unacked := [(wFrame, 5)] } : State).portCarries (2 : Port) = true) ∧
    (⟨0, 0, 255, true, false⟩ : Credit).nak = true ∧
    (⟨0, 0, 255, true, false⟩ : Credit).ackValid = false ∧
    ((((wUp 2 wLease).modFp 2 fun x => { x with unacked := [(wFrame, 5)] } : State).fp (2 : Port)).unacked ≠ []) ∧
    ((((wUp 2 wLease).modFp 2 fun x => { x with unacked := [(wFrame, 5)] } : State).fp (2 : Port)).tries < 8) := by
  decide

set_option maxRecDepth 100000 in
/-- A state and operands that meet the hypotheses of clause 5 of FabricLinkCompletes. -/
theorem witness_FabricLinkCompletes_5 :
    (((wUp 2 wLease).modFp 2 fun x => { x with unacked := [(wFrame, 5)] } : State).pwr.por = false) ∧
    ((((wUp 2 wLease).modFp 2 fun x => { x with unacked := [(wFrame, 5)] } : State).fp (2 : Port)).unacked = ((wFrame : Frame), (5 : Tm)) :: ([] : List (Frame × Tm))) ∧
    ((5 : Tm) + 2 * usSt ≤ ((wUp 2 wLease).modFp 2 fun x => { x with unacked := [(wFrame, 5)] } : State).instant (msSt : Tm)) ∧
    ((((wUp 2 wLease).modFp 2 fun x => { x with unacked := [(wFrame, 5)] } : State).fp (2 : Port)).tries < 8) := by
  decide

set_option maxRecDepth 100000 in
/-- A state and operands that meet the hypotheses of clause 6 of FabricLinkCompletes. -/
theorem witness_FabricLinkCompletes_6 :
    (((wUp 2 wLease).modFp 2 fun x => { x with unacked := [(wFrame, 5)], tries := 8 } : State).pwr.por = false) ∧
    ((((wUp 2 wLease).modFp 2 fun x => { x with unacked := [(wFrame, 5)], tries := 8 } : State).fp (2 : Port)).unacked = ((wFrame : Frame), (5 : Tm)) :: ([] : List (Frame × Tm))) ∧
    ((5 : Tm) + 2 * usSt ≤ ((wUp 2 wLease).modFp 2 fun x => { x with unacked := [(wFrame, 5)], tries := 8 } : State).instant (msSt : Tm)) ∧
    (8 ≤ (((wUp 2 wLease).modFp 2 fun x => { x with unacked := [(wFrame, 5)], tries := 8 } : State).fp (2 : Port)).tries) ∧
    ((((wUp 2 wLease).modFp 2 fun x => { x with unacked := [(wFrame, 5)], tries := 8 } : State).fp (2 : Port)).restriped = false) := by
  decide

/-- A state and operands that meet the hypotheses of clause 7 of FabricLinkCompletes. -/
theorem witness_FabricLinkCompletes_7 :
    (wLease : State).pwr.por = false ∧
    (wLease : State).get P.FAB_CLOCK_SOURCE 0 ≠ 2 := by
  decide

/-- A state and operands that meet the hypotheses of clause 8 of FabricLinkCompletes. -/
theorem witness_FabricLinkCompletes_8 :
    (wUp 2 wLease : State).pwr.por = false ∧
    (wUp 2 wLease : State).portUp (2 : Port) = true := by
  decide

/-- A state and operands that meet the hypotheses of clause 1 of FabricRootCompletes. -/
theorem witness_FabricRootCompletes_1 :
    ((wUp 2 wLease).put P.DDR_MAP_FW_MIB 0 64 : State).pwr.por = false ∧
    Served ((wUp 2 wLease).put P.DDR_MAP_FW_MIB 0 64 : State) (99 : Tm) (1 : Mb) (wCmd 0x0A01 [] : Cmd) 0 .p ∧
    ((wUp 2 wLease).put P.DDR_MAP_FW_MIB 0 64 : State).backgrounds (((wUp 2 wLease).put P.DDR_MAP_FW_MIB 0 64 : State).sentBy (99 : Tm) (1 : Mb) (wCmd 0x0A01 [] : Cmd)) < 16 ∧
    ((wUp 2 wLease).put P.DDR_MAP_FW_MIB 0 64 : State).rootId = 0 ∧
    ((wUp 2 wLease).put P.DDR_MAP_FW_MIB 0 64 : State).fab.claimUntil = none ∧
    64 ≤ ((wUp 2 wLease).put P.DDR_MAP_FW_MIB 0 64 : State).get P.DDR_MAP_FW_MIB 0 ∧
    (((wUp 2 wLease).put P.DDR_MAP_FW_MIB 0 64 : State).clock (99 : Tm)).lowClaim = none := by
  decide

/-- A state and operands that meet the hypotheses of clause 2 of FabricRootCompletes. -/
theorem witness_FabricRootCompletes_2 :
    (wUp 1 (wUp 2 wLease) : State).pwr.por = false ∧
    (wUp 1 (wUp 2 wLease) : State).leased = true ∧
    (wUp 1 (wUp 2 wLease) : State).portCarries (2 : Port) = true ∧
    ((wUp 1 (wUp 2 wLease) : State).clock (99 : Tm)).lowClaim = none ∧
    (wUp 1 (wUp 2 wLease) : State).rootId = 0 := by
  decide

/-- A state and operands that meet the hypotheses of clause 3 of FabricRootCompletes. -/
theorem witness_FabricRootCompletes_3 :
    ({ (wUp 2 wLease).putWord P.FAB_ID_ID 0 99 with fab := { (wUp 2 wLease).fab with low := some (99, 0), claimUntil := some secSt }, mbox := { MboxSt.reset with wait := [wBack 0x0A01] } } : State).pwr.por = false ∧
    ({ (wUp 2 wLease).putWord P.FAB_ID_ID 0 99 with fab := { (wUp 2 wLease).fab with low := some (99, 0), claimUntil := some secSt }, mbox := { MboxSt.reset with wait := [wBack 0x0A01] } } : State).leased = true ∧
    ({ (wUp 2 wLease).putWord P.FAB_ID_ID 0 99 with fab := { (wUp 2 wLease).fab with low := some (99, 0), claimUntil := some secSt }, mbox := { MboxSt.reset with wait := [wBack 0x0A01] } } : State).portCarries (2 : Port) = true ∧
    (({ (wUp 2 wLease).putWord P.FAB_ID_ID 0 99 with fab := { (wUp 2 wLease).fab with low := some (99, 0), claimUntil := some secSt }, mbox := { MboxSt.reset with wait := [wBack 0x0A01] } } : State).clock (99 : Tm)).lowClaim = some (99 : W64) ∧
    (77 : W64).toNat < (99 : W64).toNat ∧
    ({ (wUp 2 wLease).putWord P.FAB_ID_ID 0 99 with fab := { (wUp 2 wLease).fab with low := some (99, 0), claimUntil := some secSt }, mbox := { MboxSt.reset with wait := [wBack 0x0A01] } } : State).fab.claimUntil.isSome = true ∧
    (77 : W64).toNat < ({ (wUp 2 wLease).putWord P.FAB_ID_ID 0 99 with fab := { (wUp 2 wLease).fab with low := some (99, 0), claimUntil := some secSt }, mbox := { MboxSt.reset with wait := [wBack 0x0A01] } } : State).ownId.toNat := by
  decide

/-- A state and operands that meet the hypotheses of clause 4 of FabricRootCompletes. -/
theorem witness_FabricRootCompletes_4 :
    ({ (wUp 2 wLease).putWord P.FAB_ID_ID 0 99 with fab := { (wUp 2 wLease).fab with low := some (99, 0), claimUntil := some 5 } } : State).pwr.por = false ∧
    ({ (wUp 2 wLease).putWord P.FAB_ID_ID 0 99 with fab := { (wUp 2 wLease).fab with low := some (99, 0), claimUntil := some 5 } } : State).fab.claimUntil = some (5 : Tm) ∧
    (5 : Tm) ≤ ({ (wUp 2 wLease).putWord P.FAB_ID_ID 0 99 with fab := { (wUp 2 wLease).fab with low := some (99, 0), claimUntil := some 5 } } : State).instant (99 : Tm) ∧
    ({ (wUp 2 wLease).putWord P.FAB_ID_ID 0 99 with fab := { (wUp 2 wLease).fab with low := some (99, 0), claimUntil := some 5 } } : State).leased = true := by
  decide

/-- A state and operands that meet the hypotheses of clause 5 of FabricRootCompletes. -/
theorem witness_FabricRootCompletes_5 :
    (wUp 2 wLease : State).pwr.por = false ∧
    ((wUp 2 wLease : State).leased || (wUp 2 wLease : State).abut) = true ∧
    (wUp 2 wLease : State).portCarries (2 : Port) = true ∧
    (¬((1 : Nat) = (wUp 2 wLease : State).origin ∧ (wUp 2 wLease : State).isRoot = true)) := by
  decide

/-- A state and operands that meet the hypotheses of clause 6 of FabricRootCompletes. -/
theorem witness_FabricRootCompletes_6 :
    ({ wRoot with fab := { wRoot.fab with nodes := [wNode 99 []], probes := [[2], [1]], discovering := true } } : State).pwr.por = false ∧
    ({ wRoot with fab := { wRoot.fab with nodes := [wNode 99 []], probes := [[2], [1]], discovering := true } } : State).isRoot = true ∧
    ({ wRoot with fab := { wRoot.fab with nodes := [wNode 99 []], probes := [[2], [1]], discovering := true } } : State).leased = true ∧
    nodeOf ({ wRoot with fab := { wRoot.fab with nodes := [wNode 99 []], probes := [[2], [1]], discovering := true } } : State).fab.nodes (⟨77, 99, 2, 0, 0xFFFF, false, [(99, true), (0, false), (0, false), (0, false)]⟩ : ProbeReply).reachedFrom = some (wNode 99 [] : Node) ∧
    ({ wRoot with fab := { wRoot.fab with nodes := [wNode 99 []], probes := [[2], [1]], discovering := true } } : State).fab.probes.contains ((wNode 99 [] : Node).route ++ [(⟨77, 99, 2, 0, 0xFFFF, false, [(99, true), (0, false), (0, false), (0, false)]⟩ : ProbeReply).port.val]) = true ∧
    ({ wRoot with fab := { wRoot.fab with nodes := [wNode 99 []], probes := [[2], [1]], discovering := true } } : State).fab.probes.erase ((wNode 99 [] : Node).route ++ [(⟨77, 99, 2, 0, 0xFFFF, false, [(99, true), (0, false), (0, false), (0, false)]⟩ : ProbeReply).port.val]) ≠ [] ∧
    ((⟨77, 99, 2, 0, 0xFFFF, false, [(99, true), (0, false), (0, false), (0, false)]⟩ : ProbeReply).root = 0 ∨ (⟨77, 99, 2, 0, 0xFFFF, false, [(99, true), (0, false), (0, false), (0, false)]⟩ : ProbeReply).root = ({ wRoot with fab := { wRoot.fab with nodes := [wNode 99 []], probes := [[2], [1]], discovering := true } } : State).ownId) ∧
    (({ wRoot with fab := { wRoot.fab with nodes := [wNode 99 []], probes := [[2], [1]], discovering := true } } : State).fab.nodes.any (·.id == (⟨77, 99, 2, 0, 0xFFFF, false, [(99, true), (0, false), (0, false), (0, false)]⟩ : ProbeReply).identity)) = false := by
  decide

/-- A state and operands that meet the hypotheses of clause 7 of FabricRootCompletes. -/
theorem witness_FabricRootCompletes_7 :
    ({ wRoot with fab := { wRoot.fab with nodes := [wNode 0 []], probes := [[2]], discovering := true } } : State).pwr.por = false ∧
    ({ wRoot with fab := { wRoot.fab with nodes := [wNode 0 []], probes := [[2]], discovering := true } } : State).isRoot = true ∧
    ({ wRoot with fab := { wRoot.fab with nodes := [wNode 0 []], probes := [[2]], discovering := true } } : State).leased = true ∧
    nodeOf ({ wRoot with fab := { wRoot.fab with nodes := [wNode 0 []], probes := [[2]], discovering := true } } : State).fab.nodes (⟨77, 0, 2, 5, 0xFFFF, false, []⟩ : ProbeReply).reachedFrom = some (wNode 0 [] : Node) ∧
    ({ wRoot with fab := { wRoot.fab with nodes := [wNode 0 []], probes := [[2]], discovering := true } } : State).fab.probes = [(wNode 0 [] : Node).route ++ [(⟨77, 0, 2, 5, 0xFFFF, false, []⟩ : ProbeReply).port.val]] ∧
    ({ wRoot with fab := { wRoot.fab with nodes := [wNode 0 []], probes := [[2]], discovering := true } } : State).fab.toProbe = [] ∧
    ({ wRoot with fab := { wRoot.fab with nodes := [wNode 0 []], probes := [[2]], discovering := true } } : State).fab.discovering = true ∧
    (⟨77, 0, 2, 5, 0xFFFF, false, []⟩ : ProbeReply).root ≠ 0 ∧
    (⟨77, 0, 2, 5, 0xFFFF, false, []⟩ : ProbeReply).root ≠ ({ wRoot with fab := { wRoot.fab with nodes := [wNode 0 []], probes := [[2]], discovering := true } } : State).ownId := by
  decide

/-- A state and operands that meet the hypotheses of clause 8 of FabricRootCompletes. -/
theorem witness_FabricRootCompletes_8 :
    (wLease : State).pwr.por = false ∧
    (wLease : State).leased = true ∧
    (⟨5, 2, 1, 99, false, [], [], [], 0, 2, 0, 0⟩ : Install).boundary = 0 := by
  decide

/-- A state and operands that meet the hypotheses of clause 9 of FabricRootCompletes. -/
theorem witness_FabricRootCompletes_9 :
    (wLease : State).pwr.por = false ∧
    (wLease : State).leased = true ∧
    (⟨5, 2, 1, 99, false, [], [], [], 0, 2, 0, secSt⟩ : Install).boundary ≠ 0 ∧
    (wLease : State).instant (99 : Tm) + cutoffLen < (⟨5, 2, 1, 99, false, [], [], [], 0, 2, 0, secSt⟩ : Install).boundary := by
  decide

/-- A state and operands that meet the hypotheses of clause 10 of FabricRootCompletes. -/
theorem witness_FabricRootCompletes_10 :
    ({ wRoot with fab := { wRoot.fab with nodes := [wNode 99 [], wNode 77 [2]], installs := [(77, ⟨5, 2, 1, 99, false, [], [], [], 0, 2, 0, 0⟩)], mine := some ⟨5, 7, 0, 99, false, [], [], [], 0, 2, 0, 0⟩ } } : State).pwr.por = false ∧
    ({ wRoot with fab := { wRoot.fab with nodes := [wNode 99 [], wNode 77 [2]], installs := [(77, ⟨5, 2, 1, 99, false, [], [], [], 0, 2, 0, 0⟩)], mine := some ⟨5, 7, 0, 99, false, [], [], [], 0, 2, 0, 0⟩ } } : State).isRoot = true ∧
    ({ wRoot with fab := { wRoot.fab with nodes := [wNode 99 [], wNode 77 [2]], installs := [(77, ⟨5, 2, 1, 99, false, [], [], [], 0, 2, 0, 0⟩)], mine := some ⟨5, 7, 0, 99, false, [], [], [], 0, 2, 0, 0⟩ } } : State).leased = true ∧
    ({ wRoot with fab := { wRoot.fab with nodes := [wNode 99 [], wNode 77 [2]], installs := [(77, ⟨5, 2, 1, 99, false, [], [], [], 0, 2, 0, 0⟩)], mine := some ⟨5, 7, 0, 99, false, [], [], [], 0, 2, 0, 0⟩ } } : State).fab.installs.any (·.1 == (77 : W64)) = true ∧
    ({ wRoot with fab := { wRoot.fab with nodes := [wNode 99 [], wNode 77 [2]], installs := [(77, ⟨5, 2, 1, 99, false, [], [], [], 0, 2, 0, 0⟩)], mine := some ⟨5, 7, 0, 99, false, [], [], [], 0, 2, 0, 0⟩ } } : State).fab.mine = some (⟨5, 7, 0, 99, false, [], [], [], 0, 2, 0, 0⟩ : Install) ∧
    ({ wRoot with fab := { wRoot.fab with nodes := [wNode 99 [], wNode 77 [2]], installs := [(77, ⟨5, 2, 1, 99, false, [], [], [], 0, 2, 0, 0⟩)], mine := some ⟨5, 7, 0, 99, false, [], [], [], 0, 2, 0, 0⟩ } } : State).fab.named = none ∧
    ((({ wRoot with fab := { wRoot.fab with nodes := [wNode 99 [], wNode 77 [2]], installs := [(77, ⟨5, 2, 1, 99, false, [], [], [], 0, 2, 0, 0⟩)], mine := some ⟨5, 7, 0, 99, false, [], [], [], 0, 2, 0, 0⟩ } } : State).fab.installs.any fun e => ({ wRoot with fab := { wRoot.fab with nodes := [wNode 99 [], wNode 77 [2]], installs := [(77, ⟨5, 2, 1, 99, false, [], [], [], 0, 2, 0, 0⟩)], mine := some ⟨5, 7, 0, 99, false, [], [], [], 0, 2, 0, 0⟩ } } : State).fab.nodes.any fun x => x.id == e.1 && x.id != (77 : W64) && !x.acked && !x.stranded) = false) := by
  decide

/-- A state and operands that meet the hypotheses of clause 11 of FabricRootCompletes. -/
theorem witness_FabricRootCompletes_11 :
    ({ wRoot with fab := { wRoot.fab with nodes := [wNode 99 [], wNode 77 [2], { wNode 55 [1] with acked := false }], installs := [(77, ⟨5, 2, 1, 99, false, [], [], [], 0, 2, 0, 0⟩), (55, ⟨5, 2, 1, 99, false, [], [], [], 0, 2, 0, 0⟩)] } } : State).pwr.por = false ∧
    ({ wRoot with fab := { wRoot.fab with nodes := [wNode 99 [], wNode 77 [2], { wNode 55 [1] with acked := false }], installs := [(77, ⟨5, 2, 1, 99, false, [], [], [], 0, 2, 0, 0⟩), (55, ⟨5, 2, 1, 99, false, [], [], [], 0, 2, 0, 0⟩)] } } : State).isRoot = true ∧
    ({ wRoot with fab := { wRoot.fab with nodes := [wNode 99 [], wNode 77 [2], { wNode 55 [1] with acked := false }], installs := [(77, ⟨5, 2, 1, 99, false, [], [], [], 0, 2, 0, 0⟩), (55, ⟨5, 2, 1, 99, false, [], [], [], 0, 2, 0, 0⟩)] } } : State).leased = true ∧
    ({ wRoot with fab := { wRoot.fab with nodes := [wNode 99 [], wNode 77 [2], { wNode 55 [1] with acked := false }], installs := [(77, ⟨5, 2, 1, 99, false, [], [], [], 0, 2, 0, 0⟩), (55, ⟨5, 2, 1, 99, false, [], [], [], 0, 2, 0, 0⟩)] } } : State).fab.installs.any (·.1 == (77 : W64)) = true ∧
    nodeOf ({ wRoot with fab := { wRoot.fab with nodes := [wNode 99 [], wNode 77 [2], { wNode 55 [1] with acked := false }], installs := [(77, ⟨5, 2, 1, 99, false, [], [], [], 0, 2, 0, 0⟩), (55, ⟨5, 2, 1, 99, false, [], [], [], 0, 2, 0, 0⟩)] } } : State).fab.nodes (77 : W64) = some (wNode 77 [2] : Node) ∧
    ((({ wRoot with fab := { wRoot.fab with nodes := [wNode 99 [], wNode 77 [2], { wNode 55 [1] with acked := false }], installs := [(77, ⟨5, 2, 1, 99, false, [], [], [], 0, 2, 0, 0⟩), (55, ⟨5, 2, 1, 99, false, [], [], [], 0, 2, 0, 0⟩)] } } : State).fab.installs.any fun e => ({ wRoot with fab := { wRoot.fab with nodes := [wNode 99 [], wNode 77 [2], { wNode 55 [1] with acked := false }], installs := [(77, ⟨5, 2, 1, 99, false, [], [], [], 0, 2, 0, 0⟩), (55, ⟨5, 2, 1, 99, false, [], [], [], 0, 2, 0, 0⟩)] } } : State).fab.nodes.any fun y => y.id == e.1 && y.id != (77 : W64) && !y.acked && !y.stranded) = true) := by
  decide

/-- A state and operands that meet the hypotheses of clause 12 of FabricRootCompletes. -/
theorem witness_FabricRootCompletes_12 :
    ({ wRoot with fab := { wRoot.fab with nodes := [wNode 99 [], wNode 77 [2]] } } : State).pwr.por = false ∧
    ({ wRoot with fab := { wRoot.fab with nodes := [wNode 99 [], wNode 77 [2]] } } : State).isRoot = true ∧
    ({ wRoot with fab := { wRoot.fab with nodes := [wNode 99 [], wNode 77 [2]] } } : State).leased = true ∧
    (true : Bool) = true ∧
    nodeOf ({ wRoot with fab := { wRoot.fab with nodes := [wNode 99 [], wNode 77 [2]] } } : State).fab.nodes (77 : W64) = some (wNode 77 [2] : Node) ∧
    ({ wRoot with fab := { wRoot.fab with nodes := [wNode 99 [], wNode 77 [2]] } } : State).fab.mine = none ∧
    ({ wRoot with fab := { wRoot.fab with nodes := [wNode 99 [], wNode 77 [2]] } } : State).fab.toProbe = [] ∧
    ({ wRoot with fab := { wRoot.fab with nodes := [wNode 99 [], wNode 77 [2]] } } : State).fab.probes.length < 64 := by
  decide

/-- A state and operands that meet the hypotheses of clause 13 of FabricRootCompletes. -/
theorem witness_FabricRootCompletes_13 :
    ({ wRoot with fab := { wRoot.fab with nodes := [wNode 99 [], { wNode 77 [2] with links := [(1, 55), (0, 99)] }], mine := some ⟨5, 7, 0, 99, false, [], [], [], 0, 2, 0, 0⟩ } } : State).pwr.por = false ∧
    ({ wRoot with fab := { wRoot.fab with nodes := [wNode 99 [], { wNode 77 [2] with links := [(1, 55), (0, 99)] }], mine := some ⟨5, 7, 0, 99, false, [], [], [], 0, 2, 0, 0⟩ } } : State).isRoot = true ∧
    (false : Bool) = false ∧
    nodeOf ({ wRoot with fab := { wRoot.fab with nodes := [wNode 99 [], { wNode 77 [2] with links := [(1, 55), (0, 99)] }], mine := some ⟨5, 7, 0, 99, false, [], [], [], 0, 2, 0, 0⟩ } } : State).fab.nodes (77 : W64) = some ({ wNode 77 [2] with links := [(1, 55), (0, 99)] } : Node) ∧
    ({ wRoot with fab := { wRoot.fab with nodes := [wNode 99 [], { wNode 77 [2] with links := [(1, 55), (0, 99)] }], mine := some ⟨5, 7, 0, 99, false, [], [], [], 0, 2, 0, 0⟩ } } : State).fab.mine.isSome = true ∧
    ({ wRoot with fab := { wRoot.fab with nodes := [wNode 99 [], { wNode 77 [2] with links := [(1, 55), (0, 99)] }], mine := some ⟨5, 7, 0, 99, false, [], [], [], 0, 2, 0, 0⟩ } } : State).fab.discovering = false := by
  decide

/-- A state and operands that meet the hypotheses of clause 14 of FabricRootCompletes. -/
theorem witness_FabricRootCompletes_14 :
    (wRoot : State).pwr.por = false ∧
    Served (wRoot : State) (99 : Tm) (1 : Mb) (wCmd 0x0A02 [] : Cmd) 0 .p ∧
    (wRoot : State).isRoot = true := by
  decide

/-- A state and operands that meet the hypotheses of clause 15 of FabricRootCompletes. -/
theorem witness_FabricRootCompletes_15 :
    (wLease : State).pwr.por = false ∧
    Served (wLease : State) (99 : Tm) (1 : Mb) (wCmd 0x0A02 [] : Cmd) 0 .p ∧
    (wLease : State).isRoot = false := by
  decide

/-- A state and operands that meet the hypotheses of clause 16 of FabricRootCompletes. -/
theorem witness_FabricRootCompletes_16 :
    (wLease : State).pwr.por = false ∧
    field (wCmd 0x0A03 ([1, 0, 1, 0, 0, 0, 0, 0] ++ le 8 77 ++ le 8 0x0105) : Cmd).payload 0 2 = (1 : Nat) ∧
    Served (wLease : State) (99 : Tm) (1 : Mb) (wCmd 0x0A03 ([1, 0, 1, 0, 0, 0, 0, 0] ++ le 8 77 ++ le 8 0x0105) : Cmd) (8 + 16 * min 253 (1 : Nat)) .p ∧
    (1 : Nat) ≤ 253 ∧
    (field (wCmd 0x0A03 ([1, 0, 1, 0, 0, 0, 0, 0] ++ le 8 77 ++ le 8 0x0105) : Cmd).payload 2 1).testBit 1 = false := by
  decide

set_option maxRecDepth 100000 in
/-- A state and operands that meet the hypotheses of clause 17 of FabricRootCompletes. -/
theorem witness_FabricRootCompletes_17 :
    (wLease : State).pwr.por = false ∧
    field (wCmd 0x0A03 ([1, 0, 3, 0, 0, 0, 0, 0] ++ le 8 77 ++ le 8 0x0105) : Cmd).payload 0 2 = (1 : Nat) ∧
    Served (wLease : State) (99 : Tm) (1 : Mb) (wCmd 0x0A03 ([1, 0, 3, 0, 0, 0, 0, 0] ++ le 8 77 ++ le 8 0x0105) : Cmd) (8 + 16 * min 253 (1 : Nat)) .p ∧
    (1 : Nat) ≤ 253 ∧
    (field (wCmd 0x0A03 ([1, 0, 3, 0, 0, 0, 0, 0] ++ le 8 77 ++ le 8 0x0105) : Cmd).payload 2 1).testBit 1 = true ∧
    ((wLease : State).planOk ((if (field (wCmd 0x0A03 ([1, 0, 3, 0, 0, 0, 0, 0] ++ le 8 77 ++ le 8 0x0105) : Cmd).payload 2 1).testBit 0 then [] else (wLease : State).fab.planNext) ++ planEntries (wCmd 0x0A03 ([1, 0, 3, 0, 0, 0, 0, 0] ++ le 8 77 ++ le 8 0x0105) : Cmd).payload (1 : Nat)) = true) := by
  decide

/-- A state and operands that meet the hypotheses of clause 18 of FabricRootCompletes. -/
theorem witness_FabricRootCompletes_18 :
    ({ wRoot with fab := { wRoot.fab with nodes := [wNode 99 [], wNode 77 [2]] } } : State).pwr.por = false ∧
    Served ({ wRoot with fab := { wRoot.fab with nodes := [wNode 99 [], wNode 77 [2]] } } : State) (99 : Tm) (1 : Mb) (wCmd 0x0A04 (le 4 0 ++ le 4 9) : Cmd) 8 .r ∧
    ({ wRoot with fab := { wRoot.fab with nodes := [wNode 99 [], wNode 77 [2]] } } : State).isRoot = true := by
  decide

/-- A state and operands that meet the hypotheses of clause 1 of LaneTrainingCompletes. -/
theorem witness_LaneTrainingCompletes_1 :
    (wLease.setLane 9 1 : State).pwr.por = false ∧
    (wLease.setLane 9 1 : State).laneState (9 : Lane) = 1 := by
  decide

/-- A state and operands that meet the hypotheses of clause 2 of LaneTrainingCompletes. -/
theorem witness_LaneTrainingCompletes_2 :
    ((wLease.setLane 9 2).putB P.LANE_STATUS_CDR_LOCK 9 true : State).pwr.por = false ∧
    ((wLease.setLane 9 2).putB P.LANE_STATUS_CDR_LOCK 9 true : State).flag P.LANE_STATUS_CDR_LOCK (9 : Lane) = true ∧
    ((wLease.setLane 9 2).putB P.LANE_STATUS_CDR_LOCK 9 true : State).laneState (9 : Lane) = 2 := by
  decide

/-- A state and operands that meet the hypotheses of clause 3 of LaneTrainingCompletes. -/
theorem witness_LaneTrainingCompletes_3 :
    (wLease.setLane 9 3 : State).pwr.por = false ∧
    (1 : BitVec 2).toNat = (9 : Lane).val % 4 ∧
    (wLease.setLane 9 3 : State).laneState (9 : Lane) = 3 ∧
    ((wLease.setLane 9 3 : State).laneOf (9 : Lane)).aligns = 0 := by
  decide

/-- A state and operands that meet the hypotheses of clause 4 of LaneTrainingCompletes. -/
theorem witness_LaneTrainingCompletes_4 :
    (((wLease.setLane 9 3).modLane 9 fun x => { x with aligns := 1 } : State).pwr.por = false) ∧
    (1 : BitVec 2).toNat = (9 : Lane).val % 4 ∧
    (((wLease.setLane 9 3).modLane 9 fun x => { x with aligns := 1 } : State).laneState (9 : Lane) = 3) ∧
    ((((wLease.setLane 9 3).modLane 9 fun x => { x with aligns := 1 } : State).laneOf (9 : Lane)).aligns ≠ 0) ∧
    ((((wLease.setLane 9 3).modLane 9 fun x => { x with aligns := 1 } : State).laneOf (9 : Lane)).got ≠ 31) := by
  decide

/-- A state and operands that meet the hypotheses of clause 5 of LaneTrainingCompletes. -/
theorem witness_LaneTrainingCompletes_5 :
    (wUp 2 (wLease.setLane 9 5) : State).pwr.por = false ∧
    (1 : BitVec 2).toNat = (9 : Lane).val % 4 ∧
    (wUp 2 (wLease.setLane 9 5) : State).laneState (9 : Lane) = 5 ∧
    (wUp 2 (wLease.setLane 9 5) : State).portUp ((9 : Lane) / 4) = true ∧
    ((wUp 2 (wLease.setLane 9 5) : State).portLane ((9 : Lane) / 4)).stripeAt = none ∧
    (3 : BitVec 4) ≠ 0 := by
  decide

/-- A state and operands that meet the hypotheses of clause 6 of LaneTrainingCompletes. -/
theorem witness_LaneTrainingCompletes_6 :
    ((((wLease.setLane 9 4).putB P.LANE_STATUS_BLOCK_LOCK 9 true).modLane 9 fun x => { x with got := 15 } : State).pwr.por = false) ∧
    ((((wLease.setLane 9 4).putB P.LANE_STATUS_BLOCK_LOCK 9 true).modLane 9 fun x => { x with got := 15 } : State).laneState (9 : Lane) = 4) ∧
    (((((wLease.setLane 9 4).putB P.LANE_STATUS_BLOCK_LOCK 9 true).modLane 9 fun x => { x with got := 15 } : State).laneOf (9 : Lane)).got ||| 2 ^ (4 : Fin 5).val = 31) ∧
    (2 : BitVec 4).getLsbD ((9 : Lane) % 4) = true ∧
    ((((wLease.setLane 9 4).putB P.LANE_STATUS_BLOCK_LOCK 9 true).modLane 9 fun x => { x with got := 15 } : State).portUp ((9 : Lane) / 4) = false) ∧
    (laneSet (laneMask ((9 : Lane) / 4) fun l => (((wLease.setLane 9 4).putB P.LANE_STATUS_BLOCK_LOCK 9 true).modLane 9 fun x => { x with got := 15 } : State).flag P.LANE_STATUS_BLOCK_LOCK l && (2 : BitVec 4).getLsbD (l % 4) && (decide (4 ≤ (((wLease.setLane 9 4).putB P.LANE_STATUS_BLOCK_LOCK 9 true).modLane 9 fun x => { x with got := 15 } : State).laneState l) && decide ((((wLease.setLane 9 4).putB P.LANE_STATUS_BLOCK_LOCK 9 true).modLane 9 fun x => { x with got := 15 } : State).laneState l ≤ 6))) = (2 : Nat)) := by
  decide

/-- A state and operands that meet the hypotheses of clause 7 of LaneTrainingCompletes. -/
theorem witness_LaneTrainingCompletes_7 :
    (wLease.setLane 9 3 : State).pwr.por = false ∧
    (wLease.setLane 9 3 : State).laneState (9 : Lane) = 3 := by
  decide

/-- A state and operands that meet the hypotheses of clause 8 of LaneTrainingCompletes. -/
theorem witness_LaneTrainingCompletes_8 :
    ((wLane 9 6 wLease).put P.LANE_FLAP_MAX_LOSSES 0 2 : State).pwr.por = false ∧
    ((wLane 9 6 wLease).put P.LANE_FLAP_MAX_LOSSES 0 2 : State).laneState (9 : Lane) = 6 ∧
    (((((wLane 9 6 wLease).put P.LANE_FLAP_MAX_LOSSES 0 2 : State).laneOf (9 : Lane)).losses.filter fun x => decide (((wLane 9 6 wLease).put P.LANE_FLAP_MAX_LOSSES 0 2 : State).instant (99 : Tm) < x + 60 * secSt)).length + 1 ≤ ((wLane 9 6 wLease).put P.LANE_FLAP_MAX_LOSSES 0 2 : State).get P.LANE_FLAP_MAX_LOSSES 0) := by
  decide

/-- A state and operands that meet the hypotheses of clause 9 of LaneTrainingCompletes. -/
theorem witness_LaneTrainingCompletes_9 :
    ((wLane 9 6 wLease).put P.LANE_FLAP_MAX_LOSSES 0 0 : State).pwr.por = false ∧
    ((wLane 9 6 wLease).put P.LANE_FLAP_MAX_LOSSES 0 0 : State).laneState (9 : Lane) = 6 ∧
    (((wLane 9 6 wLease).put P.LANE_FLAP_MAX_LOSSES 0 0 : State).get P.LANE_FLAP_MAX_LOSSES 0 < ((((wLane 9 6 wLease).put P.LANE_FLAP_MAX_LOSSES 0 0 : State).laneOf (9 : Lane)).losses.filter fun x => decide (((wLane 9 6 wLease).put P.LANE_FLAP_MAX_LOSSES 0 0 : State).instant (99 : Tm) < x + 60 * secSt)).length + 1) := by
  decide

/-- A state and operands that meet the hypotheses of clause 10 of LaneTrainingCompletes. -/
theorem witness_LaneTrainingCompletes_10 :
    (wUp 2 (wLane 9 5 (wLane 8 5 wLease)) : State).pwr.por = false ∧
    (wUp 2 (wLane 9 5 (wLane 8 5 wLease)) : State).laneState (9 : Lane) = 5 ∧
    (laneSet (laneMask ((9 : Lane) / 4) fun l => decide (l ≠ (9 : Lane).val) && (decide (5 ≤ (wUp 2 (wLane 9 5 (wLane 8 5 wLease)) : State).laneState l) && (wUp 2 (wLane 9 5 (wLane 8 5 wLease)) : State).laneGood l)) = (1 : Nat)) ∧
    (1 : Nat) ≠ 0 := by
  decide

/-- A state and operands that meet the hypotheses of clause 11 of LaneTrainingCompletes. -/
theorem witness_LaneTrainingCompletes_11 :
    (wUp 2 (wLane 9 5 wLease) : State).pwr.por = false ∧
    (wUp 2 (wLane 9 5 wLease) : State).laneState (9 : Lane) = 5 ∧
    (laneSet (laneMask ((9 : Lane) / 4) fun l => decide (l ≠ (9 : Lane).val) && (decide (5 ≤ (wUp 2 (wLane 9 5 wLease) : State).laneState l) && (wUp 2 (wLane 9 5 wLease) : State).laneGood l)) = 0) := by
  decide

/-- A state and operands that meet the hypotheses of clause 12 of LaneTrainingCompletes. -/
theorem witness_LaneTrainingCompletes_12 :
    (((wLease.setLane 9 3).modLane 9 fun x => { x with retrainAt := some 5 } : State).pwr.por = false) ∧
    ((((wLease.setLane 9 3).modLane 9 fun x => { x with retrainAt := some 5 } : State).laneOf (9 : Lane)).retrainAt = some (5 : Tm)) ∧
    ((5 : Tm) + 100 * msSt ≤ ((wLease.setLane 9 3).modLane 9 fun x => { x with retrainAt := some 5 } : State).instant (secSt : Tm)) := by
  decide

/-- A state and operands that meet the hypotheses of clause 1 of LaneSetCompletes. -/
theorem witness_LaneSetCompletes_1 :
    (wUp 2 (wLane 9 5 (wLane 8 5 wLease)) : State).pwr.por = false ∧
    (wUp 2 (wLane 9 5 (wLane 8 5 wLease)) : State).striping (2 : Port) = true ∧
    laneSet (((wUp 2 (wLane 9 5 (wLane 8 5 wLease)) : State).peerLocks (2 : Port) (3 : BitVec 4).toNat).goodMask (2 : Port) &&& (3 : BitVec 4).toNat) = (3 : Nat) ∧
    (3 : Nat) ≠ 0 ∧
    (3 : BitVec 4).toNat = (3 : Nat) ∧
    (¬(((wUp 2 (wLane 9 5 (wLane 8 5 wLease)) : State).portLane (2 : Port)).stripeAt = none ∧ (wUp 2 (wLane 9 5 (wLane 8 5 wLease)) : State).get P.LANE_PORT_TX_MASK (2 : Port) = (3 : Nat) ∧ (wUp 2 (wLane 9 5 (wLane 8 5 wLease)) : State).get P.LANE_PORT_RX_MASK (2 : Port) = (3 : Nat))) := by
  decide

/-- A state and operands that meet the hypotheses of clause 2 of LaneSetCompletes. -/
theorem witness_LaneSetCompletes_2 :
    ((wUp 2 (wLane 9 5 (wLane 8 5 wLease))).put P.LANE_PORT_TX_MASK 2 3 |>.put P.LANE_PORT_RX_MASK 2 3 : State).pwr.por = false ∧
    ((wUp 2 (wLane 9 5 (wLane 8 5 wLease))).put P.LANE_PORT_TX_MASK 2 3 |>.put P.LANE_PORT_RX_MASK 2 3 : State).striping (2 : Port) = true ∧
    laneSet ((((wUp 2 (wLane 9 5 (wLane 8 5 wLease))).put P.LANE_PORT_TX_MASK 2 3 |>.put P.LANE_PORT_RX_MASK 2 3 : State).peerLocks (2 : Port) (3 : BitVec 4).toNat).goodMask (2 : Port) &&& (3 : BitVec 4).toNat) = (3 : Nat) ∧
    (3 : Nat) ≠ 0 ∧
    (3 : BitVec 4).toNat = (3 : Nat) ∧
    ((((wUp 2 (wLane 9 5 (wLane 8 5 wLease))).put P.LANE_PORT_TX_MASK 2 3 |>.put P.LANE_PORT_RX_MASK 2 3 : State).portLane (2 : Port)).stripeAt = none ∧ ((wUp 2 (wLane 9 5 (wLane 8 5 wLease))).put P.LANE_PORT_TX_MASK 2 3 |>.put P.LANE_PORT_RX_MASK 2 3 : State).get P.LANE_PORT_TX_MASK (2 : Port) = (3 : Nat) ∧ ((wUp 2 (wLane 9 5 (wLane 8 5 wLease))).put P.LANE_PORT_TX_MASK 2 3 |>.put P.LANE_PORT_RX_MASK 2 3 : State).get P.LANE_PORT_RX_MASK (2 : Port) = (3 : Nat)) ∧
    (((wUp 2 (wLane 9 5 (wLane 8 5 wLease))).put P.LANE_PORT_TX_MASK 2 3 |>.put P.LANE_PORT_RX_MASK 2 3 : State).portLane (2 : Port)).lead = false := by
  decide

/-- A state and operands that meet the hypotheses of clause 3 of LaneSetCompletes. -/
theorem witness_LaneSetCompletes_3 :
    (wUp 2 (wLane 9 5 (wLane 8 5 wLease)) : State).pwr.por = false ∧
    (wUp 2 (wLane 9 5 (wLane 8 5 wLease)) : State).striping (2 : Port) = true ∧
    laneSet (((wUp 2 (wLane 9 5 (wLane 8 5 wLease)) : State).peerLocks (2 : Port) (3 : BitVec 4).toNat).goodMask (2 : Port) &&& (3 : BitVec 4).toNat) = (3 : Nat) ∧
    (3 : Nat) ≠ 0 ∧
    (1 : BitVec 4).toNat ≠ (3 : Nat) ∧
    ((wUp 2 (wLane 9 5 (wLane 8 5 wLease)) : State).portLane (2 : Port)).stripeAt = none := by
  decide

/-- A state and operands that meet the hypotheses of clause 4 of LaneSetCompletes. -/
theorem witness_LaneSetCompletes_4 :
    (wUp 2 (wLane 9 5 wLease) : State).pwr.por = false ∧
    (wUp 2 (wLane 9 5 wLease) : State).striping (2 : Port) = true ∧
    laneSet (((wUp 2 (wLane 9 5 wLease) : State).peerLocks (2 : Port) (0 : BitVec 4).toNat).goodMask (2 : Port) &&& (0 : BitVec 4).toNat) = 0 := by
  decide

/-- A state and operands that meet the hypotheses of clause 5 of LaneSetCompletes. -/
theorem witness_LaneSetCompletes_5 :
    (((wUp 2 wLease).modPortLane 2 fun x => { x with stripeAt := some 5, sentAt := 5, sent := 3 } : State).pwr.por = false) ∧
    ((((wUp 2 wLease).modPortLane 2 fun x => { x with stripeAt := some 5, sentAt := 5, sent := 3 } : State).portLane (2 : Port)).stripeAt = some (5 : Tm)) ∧
    ((((wUp 2 wLease).modPortLane 2 fun x => { x with stripeAt := some 5, sentAt := 5, sent := 3 } : State).portLane (2 : Port)).sentAt + 128 * nsSt ≤ ((wUp 2 wLease).modPortLane 2 fun x => { x with stripeAt := some 5, sentAt := 5, sent := 3 } : State).instant (usSt : Tm)) ∧
    (((wUp 2 wLease).modPortLane 2 fun x => { x with stripeAt := some 5, sentAt := 5, sent := 3 } : State).instant (usSt : Tm) < (5 : Tm) + 2 * usSt) := by
  decide

/-- A state and operands that meet the hypotheses of clause 6 of LaneSetCompletes. -/
theorem witness_LaneSetCompletes_6 :
    (((wUp 2 wLease).modPortLane 2 fun x => { x with stripeAt := some 5, sentAt := 5, sent := 3 } : State).pwr.por = false) ∧
    ((((wUp 2 wLease).modPortLane 2 fun x => { x with stripeAt := some 5, sentAt := 5, sent := 3 } : State).portLane (2 : Port)).stripeAt = some (5 : Tm)) ∧
    ((5 : Tm) + 2 * usSt ≤ ((wUp 2 wLease).modPortLane 2 fun x => { x with stripeAt := some 5, sentAt := 5, sent := 3 } : State).instant (msSt : Tm)) := by
  decide

/-- A state and operands that meet the hypotheses of clause 7 of LaneSetCompletes. -/
theorem witness_LaneSetCompletes_7 :
    (wUp 2 (wLane 9 6 wLease) : State).pwr.por = false ∧
    (2 : BitVec 4).getLsbD (1 : Fin 4) = true ∧
    (wUp 2 (wLane 9 6 wLease) : State).laneState (4 * (2 : Port).val + (1 : Fin 4).val) = 6 ∧
    (wUp 2 (wLane 9 6 wLease) : State).flag P.LANE_STATUS_BLOCK_LOCK (4 * (2 : Port).val + (1 : Fin 4).val) = true := by
  decide

/-- A state and operands that meet the hypotheses of clause 8 of LaneSetCompletes. -/
theorem witness_LaneSetCompletes_8 :
    (((wLane 9 6 wLease).modLane 9 fun x => { x with goodFrom := some 5 } : State).pwr.por = false) ∧
    ((((wLane 9 6 wLease).modLane 9 fun x => { x with goodFrom := some 5 } : State).laneOf (9 : Lane)).goodFrom = some (5 : Tm)) ∧
    (((wLane 9 6 wLease).modLane 9 fun x => { x with goodFrom := some 5 } : State).laneState (9 : Lane) = 6) ∧
    (((wLane 9 6 wLease).modLane 9 fun x => { x with goodFrom := some 5 } : State).laneGood (9 : Lane) = true) ∧
    ((5 : Tm) + ((wLane 9 6 wLease).modLane 9 fun x => { x with goodFrom := some 5 } : State).get P.LANE_PORT_HOLD_MS ((9 : Lane) / 4) * msSt ≤ ((wLane 9 6 wLease).modLane 9 fun x => { x with goodFrom := some 5 } : State).instant (100 * secSt : Tm)) := by
  decide

/-- A state and operands that meet the hypotheses of clause 9 of LaneSetCompletes. -/
theorem witness_LaneSetCompletes_9 :
    ((((wUp 2 (wLane 9 6 (wLane 8 5 wLease))).modPortLane 2 fun x => { x with widen := some 5 }).modLane 9 fun x => { x with held := true, ready := true } : State).pwr.por = false) ∧
    (((((wUp 2 (wLane 9 6 (wLane 8 5 wLease))).modPortLane 2 fun x => { x with widen := some 5 }).modLane 9 fun x => { x with held := true, ready := true } : State).portLane (2 : Port)).widen.isSome = true) ∧
    ((((wUp 2 (wLane 9 6 (wLane 8 5 wLease))).modPortLane 2 fun x => { x with widen := some 5 }).modLane 9 fun x => { x with held := true, ready := true } : State).portUp (2 : Port) = true) := by
  decide

/-- A state and operands that meet the hypotheses of clause 10 of LaneSetCompletes. -/
theorem witness_LaneSetCompletes_10 :
    (wLane 9 6 wLease : State).pwr.por = false ∧
    ((5 : BitVec 3).toNat % 4 = 1 ∨ (5 : BitVec 3).toNat % 4 = 2) ∧
    (wLane 9 6 wLease : State).laneState (9 : Lane) ≠ 5 ∧
    (wLane 9 6 wLease : State).get P.LANE_LOOP_MODE (9 : Lane) ≠ (5 : BitVec 3).toNat % 4 := by
  decide

/-- A state and operands that meet the hypotheses of clause 11 of LaneSetCompletes. -/
theorem witness_LaneSetCompletes_11 :
    (wLane 9 6 wLease : State).pwr.por = false ∧
    (3 : BitVec 3).toNat % 4 = 3 ∧
    (wLane 9 6 wLease : State).laneState (9 : Lane) ≠ 5 ∧
    (wLane 9 6 wLease : State).get P.LANE_LOOP_MODE (9 : Lane) ≠ 3 := by
  decide

/-- A state and operands that meet the hypotheses of clause 12 of LaneSetCompletes. -/
theorem witness_LaneSetCompletes_12 :
    (wLane 9 5 wLease : State).pwr.por = false ∧
    (3 : BitVec 3).toNat % 4 ≠ 0 ∧
    (wLane 9 5 wLease : State).laneState (9 : Lane) = 5 := by
  decide

/-- A state and operands that meet the hypotheses of clause 13 of LaneSetCompletes. -/
theorem witness_LaneSetCompletes_13 :
    ((wLane 9 6 wLease).putB P.LANE_LOOP_FAR_ALLOW 9 true : State).pwr.por = false ∧
    (true : Bool) = true ∧
    (∀ j : Fin 4, (2 : BitVec 4).getLsbD j = true → ((wLane 9 6 wLease).putB P.LANE_LOOP_FAR_ALLOW 9 true : State).flag P.LANE_LOOP_FAR_ALLOW (4 * (2 : Port).val + j.val) = true ∧ ((wLane 9 6 wLease).putB P.LANE_LOOP_FAR_ALLOW 9 true : State).laneState (4 * (2 : Port).val + j.val) ≠ 5) ∧
    (2 : BitVec 4).getLsbD (1 : Fin 4) = true := by
  decide

/-- A state and operands that meet the hypotheses of clause 14 of LaneSetCompletes. -/
theorem witness_LaneSetCompletes_14 :
    ((wLane 9 6 wLease) : State).pwr.por = false ∧
    (true : Bool) = true ∧
    (2 : BitVec 4).getLsbD (1 : Fin 4) = true ∧
    (((wLane 9 6 wLease) : State).flag P.LANE_LOOP_FAR_ALLOW (4 * (2 : Port).val + (1 : Fin 4).val) = false ∨ ((wLane 9 6 wLease) : State).laneState (4 * (2 : Port).val + (1 : Fin 4).val) = 5) := by
  decide

/-- A state and operands that meet the hypotheses of clause 15 of LaneSetCompletes. -/
theorem witness_LaneSetCompletes_15 :
    (((wLane 9 7 wLease).modLane 9 fun x => { x with looped := true } : State).pwr.por = false) ∧
    (false : Bool) = false ∧
    (2 : BitVec 4).getLsbD (1 : Fin 4) = true := by
  decide

/-- A state and operands that meet the hypotheses of clause 16 of LaneSetCompletes. -/
theorem witness_LaneSetCompletes_16 :
    (((wLane 9 6 wLease).modLane 9 fun x => { x with far := some 5 } : State).pwr.por = false) ∧
    (true : Bool) = true ∧
    (2 : BitVec 4).getLsbD (1 : Fin 4) = true ∧
    ((((wLane 9 6 wLease).modLane 9 fun x => { x with far := some 5 } : State).laneOf (4 * (2 : Port).val + (1 : Fin 4).val)).far.isSome = true) := by
  decide

/-- A state and operands that meet the hypotheses of clause 17 of LaneSetCompletes. -/
theorem witness_LaneSetCompletes_17 :
    (((wLane 9 6 wLease).modLane 9 fun x => { x with far := some 5 } : State).pwr.por = false) ∧
    (false : Bool) = false ∧
    (2 : BitVec 4).getLsbD (1 : Fin 4) = true ∧
    ((((wLane 9 6 wLease).modLane 9 fun x => { x with far := some 5 } : State).laneOf (4 * (2 : Port).val + (1 : Fin 4).val)).far.isSome = true) := by
  decide

/-- A state and operands that meet the hypotheses of clause 18 of LaneSetCompletes. -/
theorem witness_LaneSetCompletes_18 :
    (({ (wLane 9 6 wLease).modLane 9 fun x => { x with far := some 5 } with mbox := { MboxSt.reset with wait := [{ wBack 4 with lanes := [9] }] } } : State).pwr.por = false) ∧
    ((({ (wLane 9 6 wLease).modLane 9 fun x => { x with far := some 5 } with mbox := { MboxSt.reset with wait := [{ wBack 4 with lanes := [9] }] } } : State).laneOf (9 : Lane)).far = some (5 : Tm)) ∧
    ((5 : Tm) + msSt ≤ ({ (wLane 9 6 wLease).modLane 9 fun x => { x with far := some 5 } with mbox := { MboxSt.reset with wait := [{ wBack 4 with lanes := [9] }] } } : State).instant (secSt : Tm)) ∧
    (({ (wLane 9 6 wLease).modLane 9 fun x => { x with far := some 5 } with mbox := { MboxSt.reset with wait := [{ wBack 4 with lanes := [9] }] } } : State).mbox.wait.find? (fun y => y.background && farWait (9 : Lane) y) = some ({ wBack 4 with lanes := [9] } : Wait)) := by
  decide

/-- A state and operands that meet the hypotheses of clause 19 of LaneSetCompletes. -/
theorem witness_LaneSetCompletes_19 :
    (wLease.putB P.PRBS_CFG_GEN_EN 2 true : State).pwr.por = false ∧
    (wLease.putB P.PRBS_CFG_GEN_EN 2 true : State).flag P.PRBS_CFG_GEN_EN (2 : Port) = true := by
  decide

/-- A state and operands that meet the hypotheses of clause 20 of LaneSetCompletes. -/
theorem witness_LaneSetCompletes_20 :
    (wLease.putB P.PRBS_CFG_CHK_EN 2 true : State).pwr.por = false ∧
    (wLease.putB P.PRBS_CFG_CHK_EN 2 true : State).flag P.PRBS_CFG_CHK_EN (2 : Port) = true := by
  decide

/-- A state and operands that meet the hypotheses of clause 21 of LaneSetCompletes. -/
theorem witness_LaneSetCompletes_21 :
    (((wLease.putB P.PRBS_CFG_CHK_EN 2 true).modPortLane 2 fun x => { x with prbs := { Prbs.reset with past := List.replicate 31 true, good := 63 } } : State).pwr.por = false) ∧
    ([false] : List Bool) = [(false : Bool)] ∧
    (((wLease.putB P.PRBS_CFG_CHK_EN 2 true).modPortLane 2 fun x => { x with prbs := { Prbs.reset with past := List.replicate 31 true, good := 63 } } : State).flag P.PRBS_CFG_CHK_EN (2 : Port) = true) ∧
    (((wLease.putB P.PRBS_CFG_CHK_EN 2 true).modPortLane 2 fun x => { x with prbs := { Prbs.reset with past := List.replicate 31 true, good := 63 } } : State).flag P.PRBS_STATUS_CHK_LOCK (2 : Port) = false) ∧
    ((prbsTaps (((wLease.putB P.PRBS_CFG_CHK_EN 2 true).modPortLane 2 fun x => { x with prbs := { Prbs.reset with past := List.replicate 31 true, good := 63 } } : State).get P.PRBS_CFG_POLY (2 : Port))).1 ≤ (((wLease.putB P.PRBS_CFG_CHK_EN 2 true).modPortLane 2 fun x => { x with prbs := { Prbs.reset with past := List.replicate 31 true, good := 63 } } : State).portLane (2 : Port)).prbs.past.length) ∧
    ((false : Bool) = prbsNext (((wLease.putB P.PRBS_CFG_CHK_EN 2 true).modPortLane 2 fun x => { x with prbs := { Prbs.reset with past := List.replicate 31 true, good := 63 } } : State).get P.PRBS_CFG_POLY (2 : Port)) (((wLease.putB P.PRBS_CFG_CHK_EN 2 true).modPortLane 2 fun x => { x with prbs := { Prbs.reset with past := List.replicate 31 true, good := 63 } } : State).portLane (2 : Port)).prbs.past) ∧
    (63 ≤ (((wLease.putB P.PRBS_CFG_CHK_EN 2 true).modPortLane 2 fun x => { x with prbs := { Prbs.reset with past := List.replicate 31 true, good := 63 } } : State).portLane (2 : Port)).prbs.good) := by
  decide

/-- A state and operands that meet the hypotheses of clause 22 of LaneSetCompletes. -/
theorem witness_LaneSetCompletes_22 :
    ((((wLease.putB P.PRBS_CFG_CHK_EN 2 true).putB P.PRBS_STATUS_CHK_LOCK 2 true).modPortLane 2 fun x => { x with prbs := { Prbs.reset with past := List.replicate 31 true } } : State).pwr.por = false) ∧
    ([true] : List Bool) = [(true : Bool)] ∧
    ((((wLease.putB P.PRBS_CFG_CHK_EN 2 true).putB P.PRBS_STATUS_CHK_LOCK 2 true).modPortLane 2 fun x => { x with prbs := { Prbs.reset with past := List.replicate 31 true } } : State).flag P.PRBS_CFG_CHK_EN (2 : Port) = true) ∧
    ((((wLease.putB P.PRBS_CFG_CHK_EN 2 true).putB P.PRBS_STATUS_CHK_LOCK 2 true).modPortLane 2 fun x => { x with prbs := { Prbs.reset with past := List.replicate 31 true } } : State).flag P.PRBS_STATUS_CHK_LOCK (2 : Port) = true) ∧
    (((xor (true : Bool) (prbsNext ((((wLease.putB P.PRBS_CFG_CHK_EN 2 true).putB P.PRBS_STATUS_CHK_LOCK 2 true).modPortLane 2 fun x => { x with prbs := { Prbs.reset with past := List.replicate 31 true } } : State).get P.PRBS_CFG_POLY (2 : Port)) ((((wLease.putB P.PRBS_CFG_CHK_EN 2 true).putB P.PRBS_STATUS_CHK_LOCK 2 true).modPortLane 2 fun x => { x with prbs := { Prbs.reset with past := List.replicate 31 true } } : State).portLane (2 : Port)).prbs.past) :: ((((wLease.putB P.PRBS_CFG_CHK_EN 2 true).putB P.PRBS_STATUS_CHK_LOCK 2 true).modPortLane 2 fun x => { x with prbs := { Prbs.reset with past := List.replicate 31 true } } : State).portLane (2 : Port)).prbs.wrong).take 1024).count true < 512) := by
  decide

set_option maxRecDepth 100000 in
/-- A state and operands that meet the hypotheses of clause 23 of LaneSetCompletes. -/
theorem witness_LaneSetCompletes_23 :
    ((((wLease.putB P.PRBS_CFG_CHK_EN 2 true).putB P.PRBS_STATUS_CHK_LOCK 2 true).modPortLane 2 fun x => { x with prbs := { Prbs.reset with past := List.replicate 31 true, wrong := List.replicate 600 true } } : State).pwr.por = false) ∧
    ([true] : List Bool) = [(true : Bool)] ∧
    ((((wLease.putB P.PRBS_CFG_CHK_EN 2 true).putB P.PRBS_STATUS_CHK_LOCK 2 true).modPortLane 2 fun x => { x with prbs := { Prbs.reset with past := List.replicate 31 true, wrong := List.replicate 600 true } } : State).flag P.PRBS_CFG_CHK_EN (2 : Port) = true) ∧
    ((((wLease.putB P.PRBS_CFG_CHK_EN 2 true).putB P.PRBS_STATUS_CHK_LOCK 2 true).modPortLane 2 fun x => { x with prbs := { Prbs.reset with past := List.replicate 31 true, wrong := List.replicate 600 true } } : State).flag P.PRBS_STATUS_CHK_LOCK (2 : Port) = true) ∧
    (512 ≤ ((xor (true : Bool) (prbsNext ((((wLease.putB P.PRBS_CFG_CHK_EN 2 true).putB P.PRBS_STATUS_CHK_LOCK 2 true).modPortLane 2 fun x => { x with prbs := { Prbs.reset with past := List.replicate 31 true, wrong := List.replicate 600 true } } : State).get P.PRBS_CFG_POLY (2 : Port)) ((((wLease.putB P.PRBS_CFG_CHK_EN 2 true).putB P.PRBS_STATUS_CHK_LOCK 2 true).modPortLane 2 fun x => { x with prbs := { Prbs.reset with past := List.replicate 31 true, wrong := List.replicate 600 true } } : State).portLane (2 : Port)).prbs.past) :: ((((wLease.putB P.PRBS_CFG_CHK_EN 2 true).putB P.PRBS_STATUS_CHK_LOCK 2 true).modPortLane 2 fun x => { x with prbs := { Prbs.reset with past := List.replicate 31 true, wrong := List.replicate 600 true } } : State).portLane (2 : Port)).prbs.wrong).take 1024).count true) := by
  decide

/-- A state and operands that meet the hypotheses of clause 1 of PressCompletes. -/
theorem witness_PressCompletes_1 :
    (wHost 1 : State).pwr.por = false ∧
    Served (wHost 1 : State) (99 : Tm) (1 : Mb) ({ wCmd 0x0901 wDesc with respAddr := 4096, respMax := 48 } : Cmd) 64 .n ∧
    (wHost 1 : State).backgrounds ((wHost 1 : State).sentBy (99 : Tm) (1 : Mb) ({ wCmd 0x0901 wDesc with respAddr := 4096, respMax := 48 } : Cmd)) < 16 ∧
    ({ wCmd 0x0901 wDesc with respAddr := 4096, respMax := 48 } : Cmd).respAddr ≠ 0 ∧
    (wHost 1 : State).jobBad ({ wCmd 0x0901 wDesc with respAddr := 4096, respMax := 48 } : Cmd).payload = false ∧
    (wHost 1 : State).get P.PRESS_CFG_MBOX_ENGINES 0 ≠ 0 ∧
    (wHost 1 : State).press.queue.length < 32 := by
  decide

/-- A state and operands that meet the hypotheses of clause 2 of PressCompletes. -/
theorem witness_PressCompletes_2 :
    ({ wHost 1 with press := { PressSt.reset with queue := List.replicate 32 wJob } } : State).pwr.por = false ∧
    Served ({ wHost 1 with press := { PressSt.reset with queue := List.replicate 32 wJob } } : State) (99 : Tm) (1 : Mb) ({ wCmd 0x0901 ([2] ++ wDesc.drop 1) with respAddr := 4096, respMax := 48 } : Cmd) 64 .n ∧
    ({ wCmd 0x0901 ([2] ++ wDesc.drop 1) with respAddr := 4096, respMax := 48 } : Cmd).respAddr ≠ 0 ∧
    ({ wHost 1 with press := { PressSt.reset with queue := List.replicate 32 wJob } } : State).jobBad ({ wCmd 0x0901 ([2] ++ wDesc.drop 1) with respAddr := 4096, respMax := 48 } : Cmd).payload = false ∧
    ({ wHost 1 with press := { PressSt.reset with queue := List.replicate 32 wJob } } : State).get P.PRESS_CFG_MBOX_ENGINES 0 ≠ 0 ∧
    32 ≤ ({ wHost 1 with press := { PressSt.reset with queue := List.replicate 32 wJob } } : State).press.queue.length := by
  decide

/-- A state and operands that meet the hypotheses of clause 3 of PressCompletes. -/
theorem witness_PressCompletes_3 :
    (wHost 1 : State).pwr.por = false ∧
    Served (wHost 1 : State) (99 : Tm) (1 : Mb) ({ wCmd 0x0901 ([2] ++ wDesc.drop 1) with respAddr := 4096, respMax := 48 } : Cmd) 64 .n ∧
    (wHost 1 : State).backgrounds ((wHost 1 : State).sentBy (99 : Tm) (1 : Mb) ({ wCmd 0x0901 ([2] ++ wDesc.drop 1) with respAddr := 4096, respMax := 48 } : Cmd)) < 16 ∧
    ({ wCmd 0x0901 ([2] ++ wDesc.drop 1) with respAddr := 4096, respMax := 48 } : Cmd).respAddr ≠ 0 ∧
    (wHost 1 : State).jobBad ({ wCmd 0x0901 ([2] ++ wDesc.drop 1) with respAddr := 4096, respMax := 48 } : Cmd).payload = false ∧
    (wHost 1 : State).get P.PRESS_CFG_MBOX_ENGINES 0 ≠ 0 ∧
    (wHost 1 : State).press.queue.length < 32 := by
  decide

/-- A state and operands that meet the hypotheses of clause 4 of PressCompletes. -/
theorem witness_PressCompletes_4 :
    ({ wHost 1 with press := { PressSt.reset with queue := [wJob] } } : State).pwr.por = false ∧
    ({ wHost 1 with press := { PressSt.reset with queue := [wJob] } } : State).press.queue = (wJob : Job) :: ([] : List Job) ∧
    ({ wHost 1 with press := { PressSt.reset with queue := [wJob] } } : State).mboxEngines.find? ({ wHost 1 with press := { PressSt.reset with queue := [wJob] } } : State).engineMay = some (5 : Nat) := by
  decide

/-- A state and operands that meet the hypotheses of clause 5 of PressCompletes. -/
theorem witness_PressCompletes_5 :
    ({ wHost 1 with press := { PressSt.reset with run := [(5, some wJob)] } } : State).pwr.por = false ∧
    Tbl.get none ({ wHost 1 with press := { PressSt.reset with run := [(5, some wJob)] } } : State).press.run (5 : Fin 6) = some (wJob : Job) ∧
    JobDue (({ wHost 1 with press := { PressSt.reset with run := [(5, some wJob)] } } : State).clock (99 : Tm)) (5 : Fin 6) (wJob : Job) ([] : List Byte) (false : Bool) (false : Bool) ∧
    (wJob : Job).dstKind = 2 := by
  decide

/-- A state and operands that meet the hypotheses of clause 6 of PressCompletes. -/
theorem witness_PressCompletes_6 :
    ({ wHost 1 with press := { PressSt.reset with run := [(5, some wJob)] }, mbox := { MboxSt.reset with wait := [wBack 0x0901] } } : State).pwr.por = false ∧
    Tbl.get none ({ wHost 1 with press := { PressSt.reset with run := [(5, some wJob)] }, mbox := { MboxSt.reset with wait := [wBack 0x0901] } } : State).press.run (5 : Fin 6) = some (wJob : Job) ∧
    JobDue (({ wHost 1 with press := { PressSt.reset with run := [(5, some wJob)] }, mbox := { MboxSt.reset with wait := [wBack 0x0901] } } : State).clock (99 : Tm)) (5 : Fin 6) (wJob : Job) ([] : List Byte) (false : Bool) (true : Bool) := by
  decide

/-- A state and operands that meet the hypotheses of clause 7 of PressCompletes. -/
theorem witness_PressCompletes_7 :
    ((wCtx.setFlight 0 [wCtxJob]) : State).pwr.por = false ∧
    (((upTo 6).findSome? fun k => ((((wCtx.setFlight 0 [wCtxJob]) : State).flight k).find? fun y => y.ctx == (9 : Ctx).val && y.job && !y.ready).map fun y => (k, y)) = some ((0 : Nat), (wCtxJob : CtxUnit))) ∧
    (false : Bool) = false ∧
    (((wCtx.setFlight 0 [wCtxJob]) : State).ctxOf (9 : Ctx)).state = 1 ∧
    (((upTo 6).find? fun e => Tbl.get none ((wCtx.setFlight 0 [wCtxJob]) : State).press.ctxRun e == some (9 : Ctx).val).any (fun e => !(((wCtx.setFlight 0 [wCtxJob]) : State).clock (99 : Tm)).engineDue e true (wCtxJob : CtxUnit).input.length) = false) := by
  decide

/-- A state and operands that meet the hypotheses of clause 8 of PressCompletes. -/
theorem witness_PressCompletes_8 :
    ((wCtx.setFlight 0 [wCtxJob]) : State).pwr.por = false ∧
    (((upTo 6).findSome? fun k => ((((wCtx.setFlight 0 [wCtxJob]) : State).flight k).find? fun y => y.ctx == (9 : Ctx).val && y.job && !y.ready).map fun y => (k, y)) = some ((0 : Nat), (wCtxJob : CtxUnit))) ∧
    (true : Bool) = true ∧
    (((wCtx.setFlight 0 [wCtxJob]) : State).ctxOf (9 : Ctx)).state = 1 := by
  decide

/-- A state and operands that meet the hypotheses of clause 9 of PressCompletes. -/
theorem witness_PressCompletes_9 :
    (wHost 1 : State).pwr.por = false ∧
    Served (wHost 1 : State) (99 : Tm) (1 : Mb) (wCmd 0x0902 (le 4 262140 ++ le 4 0 ++ [1, 2, 3, 4]) : Cmd) (max 8 (wCmd 0x0902 (le 4 262140 ++ le 4 0 ++ [1, 2, 3, 4]) : Cmd).length) .n ∧
    field (wCmd 0x0902 (le 4 262140 ++ le 4 0 ++ [1, 2, 3, 4]) : Cmd).payload 0 4 + (((wCmd 0x0902 (le 4 262140 ++ le 4 0 ++ [1, 2, 3, 4]) : Cmd).payload.take (wCmd 0x0902 (le 4 262140 ++ le 4 0 ++ [1, 2, 3, 4]) : Cmd).length).drop 8).length ≤ pressBufSize := by
  decide

/-- A state and operands that meet the hypotheses of clause 10 of PressCompletes. -/
theorem witness_PressCompletes_10 :
    (wHost 1 : State).pwr.por = false ∧
    Served (wHost 1 : State) (99 : Tm) (1 : Mb) (wCmd 0x0902 (le 4 262141 ++ le 4 0 ++ [1, 2, 3, 4]) : Cmd) (max 8 (wCmd 0x0902 (le 4 262141 ++ le 4 0 ++ [1, 2, 3, 4]) : Cmd).length) .n ∧
    pressBufSize < field (wCmd 0x0902 (le 4 262141 ++ le 4 0 ++ [1, 2, 3, 4]) : Cmd).payload 0 4 + (((wCmd 0x0902 (le 4 262141 ++ le 4 0 ++ [1, 2, 3, 4]) : Cmd).payload.take (wCmd 0x0902 (le 4 262141 ++ le 4 0 ++ [1, 2, 3, 4]) : Cmd).length).drop 8).length := by
  decide

/-- A state and operands that meet the hypotheses of clause 11 of PressCompletes. -/
theorem witness_PressCompletes_11 :
    (wHost 1 : State).pwr.por = false ∧
    Served (wHost 1 : State) (99 : Tm) (1 : Mb) (wCmd 0x0903 (le 4 262140 ++ le 4 4) : Cmd) 8 .r ∧
    field (wCmd 0x0903 (le 4 262140 ++ le 4 4) : Cmd).payload 0 4 + field (wCmd 0x0903 (le 4 262140 ++ le 4 4) : Cmd).payload 4 4 ≤ pressBufSize := by
  decide

/-- A state and operands that meet the hypotheses of clause 1 of DdrServiceCompletes. -/
theorem witness_DdrServiceCompletes_1 :
    ({ wLease with pwr := { PwrSt.reset with pll := 31 } } : State).pwr.por = false ∧
    ({ wLease with pwr := { PwrSt.reset with pll := 31 } } : State).pwr.pll.getLsbD (2 + (1 : DdrCh).val) = true ∧
    ({ wLease with pwr := { PwrSt.reset with pll := 31 } } : State).dcState (1 : DdrCh) < 2 ∧
    ({ wLease with pwr := { PwrSt.reset with pll := 31 } } : State).get P.DDR_CH_STATUS_LNK_STATE (1 : DdrCh) = 0 ∧
    (true : Bool) = true ∧
    spdOk (wSpd : Spd) = true := by
  decide

/-- A state and operands that meet the hypotheses of clause 2 of DdrServiceCompletes. -/
theorem witness_DdrServiceCompletes_2 :
    ({ wLease.put P.DDR_CH_STATUS_LNK_STATE 1 4 with pwr := { PwrSt.reset with pll := 31 } } : State).pwr.por = false ∧
    ({ wLease.put P.DDR_CH_STATUS_LNK_STATE 1 4 with pwr := { PwrSt.reset with pll := 31 } } : State).pwr.pll.getLsbD (2 + (1 : DdrCh).val) = true ∧
    ({ wLease.put P.DDR_CH_STATUS_LNK_STATE 1 4 with pwr := { PwrSt.reset with pll := 31 } } : State).dcState (1 : DdrCh) < 2 ∧
    ({ wLease.put P.DDR_CH_STATUS_LNK_STATE 1 4 with pwr := { PwrSt.reset with pll := 31 } } : State).get P.DDR_CH_STATUS_LNK_STATE (1 : DdrCh) = (4 : Nat) ∧
    (3 ≤ (4 : Nat) ∧ (4 : Nat) ≤ 6) ∧
    (true : Bool) = true := by
  decide

/-- A state and operands that meet the hypotheses of clause 3 of DdrServiceCompletes. -/
theorem witness_DdrServiceCompletes_3 :
    ({ wLease.put P.DDR_CH_STATUS_LNK_STATE 1 7 with pwr := { PwrSt.reset with pll := 31 } } : State).pwr.por = false ∧
    ({ wLease.put P.DDR_CH_STATUS_LNK_STATE 1 7 with pwr := { PwrSt.reset with pll := 31 } } : State).pwr.pll.getLsbD (2 + (1 : DdrCh).val) = true ∧
    ({ wLease.put P.DDR_CH_STATUS_LNK_STATE 1 7 with pwr := { PwrSt.reset with pll := 31 } } : State).dcState (1 : DdrCh) < 2 ∧
    ({ wLease.put P.DDR_CH_STATUS_LNK_STATE 1 7 with pwr := { PwrSt.reset with pll := 31 } } : State).get P.DDR_CH_STATUS_LNK_STATE (1 : DdrCh) = 7 ∧
    (true : Bool) = true := by
  decide

/-- A state and operands that meet the hypotheses of clause 4 of DdrServiceCompletes. -/
theorem witness_DdrServiceCompletes_4 :
    ({ wLease.put P.DDR_CH_STATUS_LNK_STATE 1 4 with pwr := { PwrSt.reset with pll := 31 } } : State).pwr.por = false ∧
    ({ wLease.put P.DDR_CH_STATUS_LNK_STATE 1 4 with pwr := { PwrSt.reset with pll := 31 } } : State).pwr.pll.getLsbD (2 + (1 : DdrCh).val) = true ∧
    ({ wLease.put P.DDR_CH_STATUS_LNK_STATE 1 4 with pwr := { PwrSt.reset with pll := 31 } } : State).dcState (1 : DdrCh) < 2 ∧
    ({ wLease.put P.DDR_CH_STATUS_LNK_STATE 1 4 with pwr := { PwrSt.reset with pll := 31 } } : State).get P.DDR_CH_STATUS_LNK_STATE (1 : DdrCh) = (4 : Nat) ∧
    1 ≤ (4 : Nat) ∧
    (false : Bool) = false ∧
    (({ wLease.put P.DDR_CH_STATUS_LNK_STATE 1 4 with pwr := { PwrSt.reset with pll := 31 } } : State).dc (1 : DdrCh)).fast = false ∧
    (({ wLease.put P.DDR_CH_STATUS_LNK_STATE 1 4 with pwr := { PwrSt.reset with pll := 31 } } : State).dc (1 : DdrCh)).failed = false := by
  decide

/-- A state and operands that meet the hypotheses of clause 5 of DdrServiceCompletes. -/
theorem witness_DdrServiceCompletes_5 :
    (({ (wLease.put P.DDR_CH_STATUS_LNK_STATE 1 4).modDc 1 fun x => { x with failed := true } with pwr := { PwrSt.reset with pll := 31 } } : State).pwr.por = false) ∧
    (({ (wLease.put P.DDR_CH_STATUS_LNK_STATE 1 4).modDc 1 fun x => { x with failed := true } with pwr := { PwrSt.reset with pll := 31 } } : State).pwr.pll.getLsbD (2 + (1 : DdrCh).val) = true) ∧
    (({ (wLease.put P.DDR_CH_STATUS_LNK_STATE 1 4).modDc 1 fun x => { x with failed := true } with pwr := { PwrSt.reset with pll := 31 } } : State).dcState (1 : DdrCh) < 2) ∧
    (({ (wLease.put P.DDR_CH_STATUS_LNK_STATE 1 4).modDc 1 fun x => { x with failed := true } with pwr := { PwrSt.reset with pll := 31 } } : State).get P.DDR_CH_STATUS_LNK_STATE (1 : DdrCh) = (4 : Nat)) ∧
    1 ≤ (4 : Nat) ∧
    (false : Bool) = false ∧
    ((({ (wLease.put P.DDR_CH_STATUS_LNK_STATE 1 4).modDc 1 fun x => { x with failed := true } with pwr := { PwrSt.reset with pll := 31 } } : State).dc (1 : DdrCh)).fast = false) ∧
    ((({ (wLease.put P.DDR_CH_STATUS_LNK_STATE 1 4).modDc 1 fun x => { x with failed := true } with pwr := { PwrSt.reset with pll := 31 } } : State).dc (1 : DdrCh)).failed = true) := by
  decide

/-- A state and operands that meet the hypotheses of clause 6 of DdrServiceCompletes. -/
theorem witness_DdrServiceCompletes_6 :
    (wDdr : State).pwr.por = false ∧
    (wDdr : State).dcState (1 : DdrCh) = 2 ∧
    ((wDdr : State).dc (1 : DdrCh)).refAt ≤ (wDdr : State).instant (99 : Tm) ∧
    (wDdr : State).flag P.DDR_CH_STATUS_PANIC (1 : DdrCh) = false := by
  decide

/-- A state and operands that meet the hypotheses of clause 7 of DdrServiceCompletes. -/
theorem witness_DdrServiceCompletes_7 :
    (wDdr.putB P.DDR_CH_STATUS_PANIC 1 true : State).pwr.por = false ∧
    (wDdr.putB P.DDR_CH_STATUS_PANIC 1 true : State).dcState (1 : DdrCh) = 2 ∧
    ((wDdr.putB P.DDR_CH_STATUS_PANIC 1 true : State).dc (1 : DdrCh)).refAt ≤ (wDdr.putB P.DDR_CH_STATUS_PANIC 1 true : State).instant (99 : Tm) ∧
    (wDdr.putB P.DDR_CH_STATUS_PANIC 1 true : State).flag P.DDR_CH_STATUS_PANIC (1 : DdrCh) = true ∧
    (wDdr.putB P.DDR_CH_STATUS_PANIC 1 true : State).get P.DDR_REFRESH_DEBT (1 : DdrCh) < 4 := by
  decide

/-- A state and operands that meet the hypotheses of clause 8 of DdrServiceCompletes. -/
theorem witness_DdrServiceCompletes_8 :
    ((wDdr.putB P.DDR_CH_STATUS_PANIC 1 true).put P.DDR_REFRESH_DEBT 1 4 : State).pwr.por = false ∧
    ((wDdr.putB P.DDR_CH_STATUS_PANIC 1 true).put P.DDR_REFRESH_DEBT 1 4 : State).dcState (1 : DdrCh) = 2 ∧
    (((wDdr.putB P.DDR_CH_STATUS_PANIC 1 true).put P.DDR_REFRESH_DEBT 1 4 : State).dc (1 : DdrCh)).refAt ≤ ((wDdr.putB P.DDR_CH_STATUS_PANIC 1 true).put P.DDR_REFRESH_DEBT 1 4 : State).instant (99 : Tm) ∧
    ((wDdr.putB P.DDR_CH_STATUS_PANIC 1 true).put P.DDR_REFRESH_DEBT 1 4 : State).flag P.DDR_CH_STATUS_PANIC (1 : DdrCh) = true ∧
    ((wDdr.putB P.DDR_CH_STATUS_PANIC 1 true).put P.DDR_REFRESH_DEBT 1 4 : State).get P.DDR_REFRESH_DEBT (1 : DdrCh) = 4 := by
  decide

/-- A state and operands that meet the hypotheses of clause 9 of DdrServiceCompletes. -/
theorem witness_DdrServiceCompletes_9 :
    (wDdr : State).pwr.por = false ∧
    (wDdr : State).dcState (1 : DdrCh) = 2 ∧
    (wDdr : State).flag P.DDR_CH_STATUS_PANIC (1 : DdrCh) = false ∧
    (wDdr : State).get P.DDR_PANIC_LEVEL_KIB 0 * 1024 < (100000000 : Nat) := by
  decide

/-- A state and operands that meet the hypotheses of clause 10 of DdrServiceCompletes. -/
theorem witness_DdrServiceCompletes_10 :
    (wDdr.putB P.DDR_CH_STATUS_PANIC 1 true : State).pwr.por = false ∧
    (0 : Nat) < (wDdr.putB P.DDR_CH_STATUS_PANIC 1 true : State).get P.DDR_PANIC_RELEASE_KIB 0 * 1024 := by
  decide

/-- A state and operands that meet the hypotheses of clause 11 of DdrServiceCompletes. -/
theorem witness_DdrServiceCompletes_11 :
    ((wDdr.put P.DDR_REFRESH_DEBT 1 3) : State).pwr.por = false ∧
    ((wDdr.put P.DDR_REFRESH_DEBT 1 3) : State).get P.DDR_REFRESH_DEBT (1 : DdrCh) = (2 : Nat) + 1 ∧
    ((wDdr.put P.DDR_REFRESH_DEBT 1 3) : State).flag P.DDR_CH_STATUS_PANIC (1 : DdrCh) = false ∧
    ((((wDdr.put P.DDR_REFRESH_DEBT 1 3) : State).dc (1 : DdrCh)).repaid = 0 ∨ (((wDdr.put P.DDR_REFRESH_DEBT 1 3) : State).dc (1 : DdrCh)).repaid + usSt ≤ ((wDdr.put P.DDR_REFRESH_DEBT 1 3) : State).instant (msSt : Tm)) := by
  decide

/-- A state and operands that meet the hypotheses of clause 12 of DdrServiceCompletes. -/
theorem witness_DdrServiceCompletes_12 :
    ((((wArea.putB P.DDR_SCRUB_ENABLE 0 true).maintBegin 3 0 false).maintBegin 3 1 false) : State).pwr.por = false ∧
    ((((wArea.putB P.DDR_SCRUB_ENABLE 0 true).maintBegin 3 0 false).maintBegin 3 1 false) : State).ddrOn = true ∧
    ((((wArea.putB P.DDR_SCRUB_ENABLE 0 true).maintBegin 3 0 false).maintBegin 3 1 false) : State).flag P.DDR_SCRUB_ENABLE 0 = true ∧
    ((((wArea.putB P.DDR_SCRUB_ENABLE 0 true).maintBegin 3 0 false).maintBegin 3 1 false) : State).flag P.THERM_STATUS_THROTTLED 0 = false ∧
    ((((wArea.putB P.DDR_SCRUB_ENABLE 0 true).maintBegin 3 0 false).maintBegin 3 1 false) : State).maintRuns 3 0 = true ∧
    ((((wArea.putB P.DDR_SCRUB_ENABLE 0 true).maintBegin 3 0 false).maintBegin 3 1 false) : State).maintRuns 3 1 = true ∧
    ((((wArea.putB P.DDR_SCRUB_ENABLE 0 true).maintBegin 3 0 false).maintBegin 3 1 false) : State).scrubReads (chOf (12345 : Nat)) = true ∧
    (12345 : Nat) / 64 < ((((wArea.putB P.DDR_SCRUB_ENABLE 0 true).maintBegin 3 0 false).maintBegin 3 1 false) : State).scrubTotal ∧
    ((((wArea.putB P.DDR_SCRUB_ENABLE 0 true).maintBegin 3 0 false).maintBegin 3 1 false) : State).ddr.scrubDue ≤ ((((wArea.putB P.DDR_SCRUB_ENABLE 0 true).maintBegin 3 0 false).maintBegin 3 1 false) : State).instant (99 : Tm) ∧
    ((((wArea.putB P.DDR_SCRUB_ENABLE 0 true).maintBegin 3 0 false).maintBegin 3 1 false) : State).ddr.scrubbed + 1 < ((((wArea.putB P.DDR_SCRUB_ENABLE 0 true).maintBegin 3 0 false).maintBegin 3 1 false) : State).scrubTotal := by
  decide

/-- A state and operands that meet the hypotheses of clause 13 of DdrServiceCompletes. -/
theorem witness_DdrServiceCompletes_13 :
    ({ (((wArea.putB P.DDR_SCRUB_ENABLE 0 true).maintBegin 3 0 false).maintBegin 3 1 false) with ddr := { wArea.ddr with scrubbed := 100000000 } } : State).pwr.por = false ∧
    ({ (((wArea.putB P.DDR_SCRUB_ENABLE 0 true).maintBegin 3 0 false).maintBegin 3 1 false) with ddr := { wArea.ddr with scrubbed := 100000000 } } : State).ddrOn = true ∧
    ({ (((wArea.putB P.DDR_SCRUB_ENABLE 0 true).maintBegin 3 0 false).maintBegin 3 1 false) with ddr := { wArea.ddr with scrubbed := 100000000 } } : State).flag P.DDR_SCRUB_ENABLE 0 = true ∧
    ({ (((wArea.putB P.DDR_SCRUB_ENABLE 0 true).maintBegin 3 0 false).maintBegin 3 1 false) with ddr := { wArea.ddr with scrubbed := 100000000 } } : State).flag P.THERM_STATUS_THROTTLED 0 = false ∧
    ({ (((wArea.putB P.DDR_SCRUB_ENABLE 0 true).maintBegin 3 0 false).maintBegin 3 1 false) with ddr := { wArea.ddr with scrubbed := 100000000 } } : State).maintRuns 3 0 = true ∧
    ({ (((wArea.putB P.DDR_SCRUB_ENABLE 0 true).maintBegin 3 0 false).maintBegin 3 1 false) with ddr := { wArea.ddr with scrubbed := 100000000 } } : State).maintRuns 3 1 = true ∧
    ({ (((wArea.putB P.DDR_SCRUB_ENABLE 0 true).maintBegin 3 0 false).maintBegin 3 1 false) with ddr := { wArea.ddr with scrubbed := 100000000 } } : State).scrubReads (chOf (12345 : Nat)) = true ∧
    (12345 : Nat) / 64 < ({ (((wArea.putB P.DDR_SCRUB_ENABLE 0 true).maintBegin 3 0 false).maintBegin 3 1 false) with ddr := { wArea.ddr with scrubbed := 100000000 } } : State).scrubTotal ∧
    ({ (((wArea.putB P.DDR_SCRUB_ENABLE 0 true).maintBegin 3 0 false).maintBegin 3 1 false) with ddr := { wArea.ddr with scrubbed := 100000000 } } : State).ddr.scrubDue ≤ ({ (((wArea.putB P.DDR_SCRUB_ENABLE 0 true).maintBegin 3 0 false).maintBegin 3 1 false) with ddr := { wArea.ddr with scrubbed := 100000000 } } : State).instant (99 : Tm) ∧
    ({ (((wArea.putB P.DDR_SCRUB_ENABLE 0 true).maintBegin 3 0 false).maintBegin 3 1 false) with ddr := { wArea.ddr with scrubbed := 100000000 } } : State).scrubTotal ≤ ({ (((wArea.putB P.DDR_SCRUB_ENABLE 0 true).maintBegin 3 0 false).maintBegin 3 1 false) with ddr := { wArea.ddr with scrubbed := 100000000 } } : State).ddr.scrubbed + 1 := by
  decide

/-- A state and operands that meet the hypotheses of clause 14 of DdrServiceCompletes. -/
theorem witness_DdrServiceCompletes_14 :
    (wDdr.maintBegin 4 1 false : State).pwr.por = false ∧
    (wDdr.maintBegin 4 1 false : State).maintRuns 4 (1 : DdrCh) = true ∧
    (wDdr.maintBegin 4 1 false : State).flag P.DDR_CH_STATUS_PANIC (1 : DdrCh) = false ∧
    ((match ((wDdr.maintBegin 4 1 false : State).dc (1 : DdrCh)).stepAt with | some a => decide ((wDdr.maintBegin 4 1 false : State).instant (99 : Tm) < a + 100 * usSt) | none => false) = false) ∧
    (wDdr.maintBegin 4 1 false : State).dcState (1 : DdrCh) = 2 ∧
    (true : Bool) = true ∧
    ((wDdr.maintBegin 4 1 false : State).dc (1 : DdrCh)).steps < 15 := by
  decide

/-- A state and operands that meet the hypotheses of clause 15 of DdrServiceCompletes. -/
theorem witness_DdrServiceCompletes_15 :
    (((wDdr.maintBegin 4 1 false).modDc 1 fun x => { x with steps := 15 } : State).pwr.por = false) ∧
    (((wDdr.maintBegin 4 1 false).modDc 1 fun x => { x with steps := 15 } : State).maintRuns 4 (1 : DdrCh) = true) ∧
    (((wDdr.maintBegin 4 1 false).modDc 1 fun x => { x with steps := 15 } : State).flag P.DDR_CH_STATUS_PANIC (1 : DdrCh) = false) ∧
    ((match (((wDdr.maintBegin 4 1 false).modDc 1 fun x => { x with steps := 15 } : State).dc (1 : DdrCh)).stepAt with | some a => decide (((wDdr.maintBegin 4 1 false).modDc 1 fun x => { x with steps := 15 } : State).instant (99 : Tm) < a + 100 * usSt) | none => false) = false) ∧
    (((wDdr.maintBegin 4 1 false).modDc 1 fun x => { x with steps := 15 } : State).dcState (1 : DdrCh) = 2) ∧
    (true : Bool) = true ∧
    (15 ≤ (((wDdr.maintBegin 4 1 false).modDc 1 fun x => { x with steps := 15 } : State).dc (1 : DdrCh)).steps) := by
  decide

/-- A state and operands that meet the hypotheses of clause 16 of DdrServiceCompletes. -/
theorem witness_DdrServiceCompletes_16 :
    (wDdr.maintBegin 4 1 false : State).pwr.por = false ∧
    (wDdr.maintBegin 4 1 false : State).maintRuns 4 (1 : DdrCh) = true ∧
    (wDdr.maintBegin 4 1 false : State).flag P.DDR_CH_STATUS_PANIC (1 : DdrCh) = false ∧
    ((match ((wDdr.maintBegin 4 1 false : State).dc (1 : DdrCh)).stepAt with | some a => decide ((wDdr.maintBegin 4 1 false : State).instant (99 : Tm) < a + 100 * usSt) | none => false) = false) ∧
    (wDdr.maintBegin 4 1 false : State).dcState (1 : DdrCh) = 2 ∧
    (false : Bool) = false ∧
    (wDdr.maintBegin 4 1 false : State).ddrOn = true := by
  decide

/-- A state and operands that meet the hypotheses of clause 17 of DdrServiceCompletes. -/
theorem witness_DdrServiceCompletes_17 :
    (wDdr : State).pwr.por = false ∧
    (wDdr : State).dcState (1 : DdrCh) = 2 ∧
    (false : Bool) = false ∧
    (2 : Nat) < 3 := by
  decide

/-- A state and operands that meet the hypotheses of clause 18 of DdrServiceCompletes. -/
theorem witness_DdrServiceCompletes_18 :
    (wDdr.putB P.DDR_CFG_WCRC_EN 0 true : State).pwr.por = false ∧
    (wDdr.putB P.DDR_CFG_WCRC_EN 0 true : State).dcState (1 : DdrCh) = 2 ∧
    (true : Bool) = true ∧
    (wDdr.putB P.DDR_CFG_WCRC_EN 0 true : State).flag P.DDR_CFG_WCRC_EN 0 = true ∧
    3 ≤ (3 : Nat) := by
  decide

/-- A state and operands that meet the hypotheses of clause 19 of DdrServiceCompletes. -/
theorem witness_DdrServiceCompletes_19 :
    (wDdr : State).pwr.por = false ∧
    (wDdr : State).ddrOn = true ∧
    (([2, 1] : List (Fin 3)).take 3).getLast? = some 1 := by
  decide

/-- A state and operands that meet the hypotheses of clause 20 of DdrServiceCompletes. -/
theorem witness_DdrServiceCompletes_20 :
    (wDdr : State).pwr.por = false ∧
    (wDdr : State).ddrOn = true ∧
    (([2, 2, 2] : List (Fin 3)).take 3).getLast? = some 2 ∧
    3 ≤ ([2, 2, 2] : List (Fin 3)).length := by
  decide

/-- A state and operands that meet the hypotheses of clause 21 of DdrServiceCompletes. -/
theorem witness_DdrServiceCompletes_21 :
    (wDdr : State).pwr.por = false ∧
    ((((wDdr : State).clock (99 : Tm)).ddrRun 0).ddrRun 1).ddrQuiet = true := by
  decide

/-- A state and operands that meet the hypotheses of clause 22 of DdrServiceCompletes. -/
theorem witness_DdrServiceCompletes_22 :
    (((wDdr.refresh 0).refresh 1).ddrUse 5 false 0 64 : State).pwr.por = false ∧
    ((((((wDdr.refresh 0).refresh 1).ddrUse 5 false 0 64 : State).clock (99 : Tm)).ddrRun 0).ddrRun 1).ddrQuiet = false := by
  decide

/-- A state and operands that meet the hypotheses of clause 23 of DdrServiceCompletes. -/
theorem witness_DdrServiceCompletes_23 :
    ((wDdr.modDc 1 fun x => { x with spd := some wSpd } : State).pwr.por = false) ∧
    (((wDdr.modDc 1 fun x => { x with spd := some wSpd } : State).dc (1 : DdrCh)).spd = some (wSpd : Spd)) ∧
    (9600 : Int) ≤ (wSpd : Spd).critical := by
  decide

/-- A state and operands that meet the hypotheses of clause 24 of DdrServiceCompletes. -/
theorem witness_DdrServiceCompletes_24 :
    ((wDdr.modDc 1 fun x => { x with spd := some wSpd } : State).pwr.por = false) ∧
    (((wDdr.modDc 1 fun x => { x with spd := some wSpd } : State).dc (1 : DdrCh)).spd = some (wSpd : Spd)) ∧
    (wSpd : Spd).critical < (10001 : Int) ∧
    ((wDdr.modDc 1 fun x => { x with spd := some wSpd } : State).dcState (1 : DdrCh) = 2) := by
  decide

/-- A state and operands that meet the hypotheses of clause 25 of DdrServiceCompletes. -/
theorem witness_DdrServiceCompletes_25 :
    (wDdr : State).pwr.por = false := by
  decide

/-- A state and operands that meet the hypotheses of clause 1 of DdrCommandsComplete. -/
theorem witness_DdrCommandsComplete_1 :
    (wLease.put P.DDR_CH_STATUS_STATE 1 3 : State).pwr.por = false ∧
    Served (wLease.put P.DDR_CH_STATUS_STATE 1 3 : State) (99 : Tm) (1 : Mb) (wCmd 0x0D01 [] : Cmd) 0 .p ∧
    (wLease.put P.DDR_CH_STATUS_STATE 1 3 : State).backgrounds ((wLease.put P.DDR_CH_STATUS_STATE 1 3 : State).sentBy (99 : Tm) (1 : Mb) (wCmd 0x0D01 [] : Cmd)) < 16 ∧
    (wLease.put P.DDR_CH_STATUS_STATE 1 3 : State).ddrOn = false ∧
    (wLease.put P.DDR_CH_STATUS_STATE 1 3 : State).ddr.back = false ∧
    (((wLease.put P.DDR_CH_STATUS_STATE 1 3 : State).mbox.wait.any fun y => y.background && y.opcode == 0x0D01) = false) ∧
    (wLease.put P.DDR_CH_STATUS_STATE 1 3 : State).dcState (1 : DdrCh) ≠ 2 := by
  decide

/-- A state and operands that meet the hypotheses of clause 2 of DdrCommandsComplete. -/
theorem witness_DdrCommandsComplete_2 :
    (wDdr : State).pwr.por = false ∧
    Served (wDdr : State) (99 : Tm) (1 : Mb) (wCmd 0x0D01 [] : Cmd) 0 .p ∧
    (wDdr : State).ddrOn = true := by
  decide

/-- A state and operands that meet the hypotheses of clause 3 of DdrCommandsComplete. -/
theorem witness_DdrCommandsComplete_3 :
    (wArea : State).pwr.por = false ∧
    field (wCmd 0x0D03 ([1, 0, 0, 0, 0, 0, 0, 0] ++ le 8 128 ++ le 4 3 ++ le 4 0 ++ [7, 8, 9]) : Cmd).payload 0 1 = (1 : Nat) ∧
    field (wCmd 0x0D03 ([1, 0, 0, 0, 0, 0, 0, 0] ++ le 8 128 ++ le 4 3 ++ le 4 0 ++ [7, 8, 9]) : Cmd).payload 16 4 = (3 : Nat) ∧
    ((wArea : State).area (1 : Nat)).1 + field (wCmd 0x0D03 ([1, 0, 0, 0, 0, 0, 0, 0] ++ le 8 128 ++ le 4 3 ++ le 4 0 ++ [7, 8, 9]) : Cmd).payload 8 8 = (67108992 : Nat) ∧
    Served (wArea : State) (99 : Tm) (1 : Mb) (wCmd 0x0D03 ([1, 0, 0, 0, 0, 0, 0, 0] ++ le 8 128 ++ le 4 3 ++ le 4 0 ++ [7, 8, 9]) : Cmd) (24 + min 4040 (3 : Nat)) .p ∧
    (1 : Nat) ≤ 2 ∧
    (3 : Nat) ≤ 4040 ∧
    (wArea : State).inArea (1 : Nat) (67108992 : Nat) (3 : Nat) = true ∧
    (wArea : State).ddrOn = true := by
  decide

/-- A state and operands that meet the hypotheses of clause 4 of DdrCommandsComplete. -/
theorem witness_DdrCommandsComplete_4 :
    (wArea : State).pwr.por = false ∧
    field (wCmd 0x0D03 ([1, 0, 0, 0, 0, 0, 0, 0] ++ le 8 67108862 ++ le 4 3 ++ le 4 0 ++ [7, 8, 9]) : Cmd).payload 0 1 = (1 : Nat) ∧
    field (wCmd 0x0D03 ([1, 0, 0, 0, 0, 0, 0, 0] ++ le 8 67108862 ++ le 4 3 ++ le 4 0 ++ [7, 8, 9]) : Cmd).payload 16 4 = (3 : Nat) ∧
    ((wArea : State).area (1 : Nat)).1 + field (wCmd 0x0D03 ([1, 0, 0, 0, 0, 0, 0, 0] ++ le 8 67108862 ++ le 4 3 ++ le 4 0 ++ [7, 8, 9]) : Cmd).payload 8 8 = (134217726 : Nat) ∧
    Served (wArea : State) (99 : Tm) (1 : Mb) (wCmd 0x0D03 ([1, 0, 0, 0, 0, 0, 0, 0] ++ le 8 67108862 ++ le 4 3 ++ le 4 0 ++ [7, 8, 9]) : Cmd) (24 + min 4040 (3 : Nat)) .p ∧
    (wArea : State).inArea (1 : Nat) (134217726 : Nat) (3 : Nat) = false := by
  decide

/-- A state and operands that meet the hypotheses of clause 5 of DdrCommandsComplete. -/
theorem witness_DdrCommandsComplete_5 :
    (wArea.ddrWrite 67108992 [7, 8, 9] : State).pwr.por = false ∧
    field (wCmd 0x0D02 ([1, 0, 0, 0, 0, 0, 0, 0] ++ le 8 128 ++ le 4 4) : Cmd).payload 0 1 = (1 : Nat) ∧
    field (wCmd 0x0D02 ([1, 0, 0, 0, 0, 0, 0, 0] ++ le 8 128 ++ le 4 4) : Cmd).payload 16 4 = (4 : Nat) ∧
    ((wArea.ddrWrite 67108992 [7, 8, 9] : State).area (1 : Nat)).1 + field (wCmd 0x0D02 ([1, 0, 0, 0, 0, 0, 0, 0] ++ le 8 128 ++ le 4 4) : Cmd).payload 8 8 = (67108992 : Nat) ∧
    Served (wArea.ddrWrite 67108992 [7, 8, 9] : State) (99 : Tm) (1 : Mb) (wCmd 0x0D02 ([1, 0, 0, 0, 0, 0, 0, 0] ++ le 8 128 ++ le 4 4) : Cmd) 20 .p ∧
    (1 : Nat) ≤ 2 ∧
    (4 : Nat) ≤ 2 * mib ∧
    (wArea.ddrWrite 67108992 [7, 8, 9] : State).inArea (1 : Nat) (67108992 : Nat) (4 : Nat) = true ∧
    (wArea.ddrWrite 67108992 [7, 8, 9] : State).ddrOn = true ∧
    (wArea.ddrWrite 67108992 [7, 8, 9] : State).poisonAt (unitAddrs (67108992 : Nat) (4 : Nat)) ([] : List Nat) = [] := by
  decide

/-- A state and operands that meet the hypotheses of clause 6 of DdrCommandsComplete. -/
theorem witness_DdrCommandsComplete_6 :
    (((((((wArea.put P.CTX_DDR_AREA_SIZE_MIB 0 64).put P.CTX_CFG_DEST_KIND 9 2).put P.CTX_DDR_DEST_SIZE_MIB 9 1).put P.CTX_DDR_WOFF_OFFSET 9 64).modCtx 9 fun x => { x with state := 1 }) : State).pwr.por = false) ∧
    (wCmd 0x0801 (le 4 16) : Cmd).context = (9 : Nat) ∧
    field (wCmd 0x0801 (le 4 16) : Cmd).payload 0 4 = (16 : Nat) ∧
    (((((((wArea.put P.CTX_DDR_AREA_SIZE_MIB 0 64).put P.CTX_CFG_DEST_KIND 9 2).put P.CTX_DDR_DEST_SIZE_MIB 9 1).put P.CTX_DDR_WOFF_OFFSET 9 64).modCtx 9 fun x => { x with state := 1 }) : State).regionSize (9 : Nat) = (1048576 : Nat)) ∧
    (Served ((((((wArea.put P.CTX_DDR_AREA_SIZE_MIB 0 64).put P.CTX_CFG_DEST_KIND 9 2).put P.CTX_DDR_DEST_SIZE_MIB 9 1).put P.CTX_DDR_WOFF_OFFSET 9 64).modCtx 9 fun x => { x with state := 1 }) : State) (99 : Tm) (1 : Mb) (wCmd 0x0801 (le 4 16) : Cmd) 4 .n) ∧
    (9 : Nat) < 1024 ∧
    (16 : Nat) % 8 = 0 ∧
    (16 : Nat) ≤ 2 * mib ∧
    ((((((((wArea.put P.CTX_DDR_AREA_SIZE_MIB 0 64).put P.CTX_CFG_DEST_KIND 9 2).put P.CTX_DDR_DEST_SIZE_MIB 9 1).put P.CTX_DDR_WOFF_OFFSET 9 64).modCtx 9 fun x => { x with state := 1 }) : State).ctxOf (9 : Nat)).state ≠ 0) ∧
    (((((((wArea.put P.CTX_DDR_AREA_SIZE_MIB 0 64).put P.CTX_CFG_DEST_KIND 9 2).put P.CTX_DDR_DEST_SIZE_MIB 9 1).put P.CTX_DDR_WOFF_OFFSET 9 64).modCtx 9 fun x => { x with state := 1 }) : State).get P.CTX_CFG_DEST_KIND (9 : Nat) = 2) ∧
    (1048576 : Nat) ≠ 0 ∧
    (((((((wArea.put P.CTX_DDR_AREA_SIZE_MIB 0 64).put P.CTX_CFG_DEST_KIND 9 2).put P.CTX_DDR_DEST_SIZE_MIB 9 1).put P.CTX_DDR_WOFF_OFFSET 9 64).modCtx 9 fun x => { x with state := 1 }) : State).inArea 2 (((((((wArea.put P.CTX_DDR_AREA_SIZE_MIB 0 64).put P.CTX_CFG_DEST_KIND 9 2).put P.CTX_DDR_DEST_SIZE_MIB 9 1).put P.CTX_DDR_WOFF_OFFSET 9 64).modCtx 9 fun x => { x with state := 1 }) : State).regionBase (9 : Nat)) (1048576 : Nat) = true) ∧
    (((((((wArea.put P.CTX_DDR_AREA_SIZE_MIB 0 64).put P.CTX_CFG_DEST_KIND 9 2).put P.CTX_DDR_DEST_SIZE_MIB 9 1).put P.CTX_DDR_WOFF_OFFSET 9 64).modCtx 9 fun x => { x with state := 1 }) : State).ddrOn = true) ∧
    (((((((wArea.put P.CTX_DDR_AREA_SIZE_MIB 0 64).put P.CTX_CFG_DEST_KIND 9 2).put P.CTX_DDR_DEST_SIZE_MIB 9 1).put P.CTX_DDR_WOFF_OFFSET 9 64).modCtx 9 fun x => { x with state := 1 }) : State).get P.CTX_DDR_RD_OFFSET (9 : Nat) % (1048576 : Nat) = (0 : Nat)) ∧
    (min (min (16 : Nat) (((((((wArea.put P.CTX_DDR_AREA_SIZE_MIB 0 64).put P.CTX_CFG_DEST_KIND 9 2).put P.CTX_DDR_DEST_SIZE_MIB 9 1).put P.CTX_DDR_WOFF_OFFSET 9 64).modCtx 9 fun x => { x with state := 1 }) : State).get P.CTX_DDR_WOFF_OFFSET (9 : Nat) - ((((((wArea.put P.CTX_DDR_AREA_SIZE_MIB 0 64).put P.CTX_CFG_DEST_KIND 9 2).put P.CTX_DDR_DEST_SIZE_MIB 9 1).put P.CTX_DDR_WOFF_OFFSET 9 64).modCtx 9 fun x => { x with state := 1 }) : State).get P.CTX_DDR_RD_OFFSET (9 : Nat))) (1048576 : Nat) = (16 : Nat)) ∧
    (0 : Nat) + (16 : Nat) ≤ (1048576 : Nat) ∧
    (((((((wArea.put P.CTX_DDR_AREA_SIZE_MIB 0 64).put P.CTX_CFG_DEST_KIND 9 2).put P.CTX_DDR_DEST_SIZE_MIB 9 1).put P.CTX_DDR_WOFF_OFFSET 9 64).modCtx 9 fun x => { x with state := 1 }) : State).poisonAt (unitAddrs (((((((wArea.put P.CTX_DDR_AREA_SIZE_MIB 0 64).put P.CTX_CFG_DEST_KIND 9 2).put P.CTX_DDR_DEST_SIZE_MIB 9 1).put P.CTX_DDR_WOFF_OFFSET 9 64).modCtx 9 fun x => { x with state := 1 }) : State).regionBase (9 : Nat) + (0 : Nat)) (16 : Nat)) ([] : List Nat) = []) := by
  decide

/-- A state and operands that meet the hypotheses of clause 7 of DdrCommandsComplete. -/
theorem witness_DdrCommandsComplete_7 :
    ((wDdr.modDc 1 fun x => { x with rq := [⟨false, 1, 64⟩], wq := [⟨true, 2, 192⟩] } : State).pwr.por = false) ∧
    (((wDdr.modDc 1 fun x => { x with rq := [⟨false, 1, 64⟩], wq := [⟨true, 2, 192⟩] } : State).dc (1 : DdrCh)).wait = []) ∧
    (((wDdr.modDc 1 fun x => { x with rq := [⟨false, 1, 64⟩], wq := [⟨true, 2, 192⟩] } : State).dc (1 : DdrCh)).rq = [(⟨false, 1, 64⟩ : DdrAcc)]) ∧
    (((wDdr.modDc 1 fun x => { x with rq := [⟨false, 1, 64⟩], wq := [⟨true, 2, 192⟩] } : State).dc (1 : DdrCh)).wq = [(⟨true, 2, 192⟩ : DdrAcc)]) ∧
    ((wDdr.modDc 1 fun x => { x with rq := [⟨false, 1, 64⟩], wq := [⟨true, 2, 192⟩] } : State).flag P.DDR_CH_STATUS_PANIC (1 : DdrCh) = false) ∧
    (((wDdr.modDc 1 fun x => { x with rq := [⟨false, 1, 64⟩], wq := [⟨true, 2, 192⟩] } : State).dc (1 : DdrCh)).free ((wDdr.modDc 1 fun x => { x with rq := [⟨false, 1, 64⟩], wq := [⟨true, 2, 192⟩] } : State).instant (99 : Tm)) (⟨false, 1, 64⟩ : DdrAcc) = true ∧ ((wDdr.modDc 1 fun x => { x with rq := [⟨false, 1, 64⟩], wq := [⟨true, 2, 192⟩] } : State).dc (1 : DdrCh)).free ((wDdr.modDc 1 fun x => { x with rq := [⟨false, 1, 64⟩], wq := [⟨true, 2, 192⟩] } : State).instant (99 : Tm)) (⟨true, 2, 192⟩ : DdrAcc) = true) := by
  decide

/-- A state and operands that meet the hypotheses of clause 8 of DdrCommandsComplete. -/
theorem witness_DdrCommandsComplete_8 :
    (((wDdr.modDc 1 fun x => { x with rq := [⟨false, 1, 64⟩], wq := [⟨true, 2, 192⟩] }).putB P.DDR_CH_STATUS_PANIC 1 true : State).pwr.por = false) ∧
    ((((wDdr.modDc 1 fun x => { x with rq := [⟨false, 1, 64⟩], wq := [⟨true, 2, 192⟩] }).putB P.DDR_CH_STATUS_PANIC 1 true : State).dc (1 : DdrCh)).wait = []) ∧
    ((((wDdr.modDc 1 fun x => { x with rq := [⟨false, 1, 64⟩], wq := [⟨true, 2, 192⟩] }).putB P.DDR_CH_STATUS_PANIC 1 true : State).dc (1 : DdrCh)).rq = [(⟨false, 1, 64⟩ : DdrAcc)]) ∧
    ((((wDdr.modDc 1 fun x => { x with rq := [⟨false, 1, 64⟩], wq := [⟨true, 2, 192⟩] }).putB P.DDR_CH_STATUS_PANIC 1 true : State).dc (1 : DdrCh)).wq = [(⟨true, 2, 192⟩ : DdrAcc)]) ∧
    (((wDdr.modDc 1 fun x => { x with rq := [⟨false, 1, 64⟩], wq := [⟨true, 2, 192⟩] }).putB P.DDR_CH_STATUS_PANIC 1 true : State).flag P.DDR_CH_STATUS_PANIC (1 : DdrCh) = true) ∧
    ((((wDdr.modDc 1 fun x => { x with rq := [⟨false, 1, 64⟩], wq := [⟨true, 2, 192⟩] }).putB P.DDR_CH_STATUS_PANIC 1 true : State).dc (1 : DdrCh)).free (((wDdr.modDc 1 fun x => { x with rq := [⟨false, 1, 64⟩], wq := [⟨true, 2, 192⟩] }).putB P.DDR_CH_STATUS_PANIC 1 true : State).instant (99 : Tm)) (⟨true, 2, 192⟩ : DdrAcc) = true) := by
  decide

/-- A state and operands that meet the hypotheses of clause 1 of BarAccessCompletes. -/
theorem witness_BarAccessCompletes_1 :
    (State.reset : State).pwr.por = false ∧
    (0 : Fin 7) ≠ 1 := by
  decide

/-- A state and operands that meet the hypotheses of clause 2 of BarAccessCompletes. -/
theorem witness_BarAccessCompletes_2 :
    ((State.reset.modSnap 2 fun x => { x with epoch := 7, stitch := 11 } : State).pwr.por = false) ∧
    (1 : Fin 7) = 1 := by
  decide

/-- A state and operands that meet the hypotheses of clause 3 of BarAccessCompletes. -/
theorem witness_BarAccessCompletes_3 :
    (State.reset : State).pwr.por = false ∧
    (1 : Fin 7) = 1 := by
  decide

/-- A state and operands that meet the hypotheses of clause 4 of BarAccessCompletes. -/
theorem witness_BarAccessCompletes_4 :
    ((State.reset.modSnap 2 fun x => { x with tag := some 5, high := 77 } : State).pwr.por = false) ∧
    (5 : Fin 7) ≠ 1 ∧
    (((State.reset.modSnap 2 fun x => { x with tag := some 5, high := 77 } : State).snapOf (2 : Fin 4)).tag = some (5 : Fin 7).val) := by
  decide

/-- A state and operands that meet the hypotheses of clause 5 of BarAccessCompletes. -/
theorem witness_BarAccessCompletes_5 :
    ((State.reset.modSnap 2 fun x => { x with tag := some 4, high := 77 } : State).pwr.por = false) ∧
    (5 : Fin 7) ≠ 1 ∧
    (((State.reset.modSnap 2 fun x => { x with tag := some 4, high := 77 } : State).snapOf (2 : Fin 4)).tag ≠ some (5 : Fin 7).val) := by
  decide

/-- A state and operands that meet the hypotheses of clause 6 of BarAccessCompletes. -/
theorem witness_BarAccessCompletes_6 :
    (State.reset : State).pwr.por = false := by
  decide

/-- A state and operands that meet the hypotheses of clause 7 of BarAccessCompletes. -/
theorem witness_BarAccessCompletes_7 :
    ((State.reset.modMb 1 fun x => { x with sqLow := 4096 } : State).pwr.por = false) ∧
    (((State.reset.modMb 1 fun x => { x with sqLow := 4096 } : State).mbRegs (1 : Fin 2)).enable = false) ∧
    (0 : Fin 2) = 0 ∧
    (.high 5 : HalfWrite) = .high (5 : BitVec 32) := by
  decide

/-- A state and operands that meet the hypotheses of clause 8 of BarAccessCompletes. -/
theorem witness_BarAccessCompletes_8 :
    (State.reset : State).pwr.por = false ∧
    ((State.reset : State).mbRegs (1 : Fin 2)).enable = false ∧
    (1 : Fin 2) = 1 ∧
    (.low 5 : HalfWrite) = .low (5 : BitVec 32) := by
  decide

/-- A state and operands that meet the hypotheses of clause 9 of BarAccessCompletes. -/
theorem witness_BarAccessCompletes_9 :
    (State.reset : State).pwr.por = false ∧
    ((State.reset : State).mbRegs (1 : Fin 2)).enable = false ∧
    (0 : Fin 2) = 0 ∧
    (.whole 0x123456789ABC : HalfWrite) = .whole (0x123456789ABC : W64) := by
  decide

/-- A state and operands that meet the hypotheses of clause 10 of BarAccessCompletes. -/
theorem witness_BarAccessCompletes_10 :
    (wHost 1 : State).pwr.por = false ∧
    ((wHost 1 : State).mbRegs (1 : Fin 2)).enable = true := by
  decide

/-- A state and operands that meet the hypotheses of clause 11 of BarAccessCompletes. -/
theorem witness_BarAccessCompletes_11 :
    ({ State.reset with ev := { EvSt.reset with host := BitVec.allOnes 256 } } : State).pwr.por = false ∧
    (0xFF : BitVec 32).getLsbD (7 : Fin 32) = true ∧
    (32 * (7 : Fin 8).val + (7 : Fin 32).val ≠ 234 ∧ 32 * (7 : Fin 8).val + (7 : Fin 32).val ≠ 235) := by
  decide

/-- A state and operands that meet the hypotheses of clause 12 of BarAccessCompletes. -/
theorem witness_BarAccessCompletes_12 :
    ({ State.reset with ev := { EvSt.reset with host := BitVec.allOnes 256 } } : State).pwr.por = false ∧
    (0xFF : BitVec 32).getLsbD (9 : Fin 32) = false ∧
    (0x0F : BitVec 32).getLsbD (9 : Fin 32) = false ∧
    (32 * (7 : Fin 8).val + (9 : Fin 32).val ≠ 234 ∧ 32 * (7 : Fin 8).val + (9 : Fin 32).val ≠ 235) := by
  decide

/-- A state and operands that meet the hypotheses of clause 13 of BarAccessCompletes. -/
theorem witness_BarAccessCompletes_13 :
    ({ State.reset with ev := { EvSt.reset with host := BitVec.allOnes 256 } } : State).pwr.por = false := by
  decide

/-- A state and operands that meet the hypotheses of clause 14 of BarAccessCompletes. -/
theorem witness_BarAccessCompletes_14 :
    ({ State.reset with ev := { EvSt.reset with host := BitVec.allOnes 256, msixEnable := true, vecMask := 0 } } : State).pwr.por = false ∧
    ({ State.reset with ev := { EvSt.reset with host := BitVec.allOnes 256, msixEnable := true, vecMask := 0 } } : State).ev.mask.getLsbD (32 * (7 : Fin 8).val + (9 : Fin 32).val) = true ∧
    (0xFF : BitVec 32).getLsbD (9 : Fin 32) = false ∧
    ({ State.reset with ev := { EvSt.reset with host := BitVec.allOnes 256, msixEnable := true, vecMask := 0 } } : State).ev.host.getLsbD (32 * (7 : Fin 8).val + (9 : Fin 32).val) = true ∧
    ({ State.reset with ev := { EvSt.reset with host := BitVec.allOnes 256, msixEnable := true, vecMask := 0 } } : State).ev.vector (32 * (7 : Fin 8).val + (9 : Fin 32).val) = (233 : Nat) ∧
    (({ State.reset with ev := { EvSt.reset with host := BitVec.allOnes 256, msixEnable := true, vecMask := 0 } } : State).ev.msixEnable = true ∧ ({ State.reset with ev := { EvSt.reset with host := BitVec.allOnes 256, msixEnable := true, vecMask := 0 } } : State).ev.funcMask = false ∧ ({ State.reset with ev := { EvSt.reset with host := BitVec.allOnes 256, msixEnable := true, vecMask := 0 } } : State).ev.vecMask.getLsbD (233 : Nat) = false ∧ ({ State.reset with ev := { EvSt.reset with host := BitVec.allOnes 256, msixEnable := true, vecMask := 0 } } : State).host.d3hot = false) := by
  decide

/-- A state and operands that meet the hypotheses of clause 15 of BarAccessCompletes. -/
theorem witness_BarAccessCompletes_15 :
    (State.reset : State).pwr.por = false := by
  decide

/-- A state and operands that meet the hypotheses of clause 16 of BarAccessCompletes. -/
theorem witness_BarAccessCompletes_16 :
    ({ State.reset with ev := { EvSt.reset with pba := BitVec.allOnes 256, msixEnable := true, vecMask := BitVec.allOnes 256 } } : State).pwr.por = false ∧
    (.vector 200 false : MsixWrite) = .vector (200 : Fin 256) false ∧
    ({ State.reset with ev := { EvSt.reset with pba := BitVec.allOnes 256, msixEnable := true, vecMask := BitVec.allOnes 256 } } : State).ev.pba.getLsbD (200 : Fin 256) = true ∧
    (({ State.reset with ev := { EvSt.reset with pba := BitVec.allOnes 256, msixEnable := true, vecMask := BitVec.allOnes 256 } } : State).ev.msixEnable = true ∧ ({ State.reset with ev := { EvSt.reset with pba := BitVec.allOnes 256, msixEnable := true, vecMask := BitVec.allOnes 256 } } : State).ev.funcMask = false ∧ ({ State.reset with ev := { EvSt.reset with pba := BitVec.allOnes 256, msixEnable := true, vecMask := BitVec.allOnes 256 } } : State).host.d3hot = false) := by
  decide

/-- A state and operands that meet the hypotheses of clause 17 of BarAccessCompletes. -/
theorem witness_BarAccessCompletes_17 :
    (State.reset : State).pwr.por = false ∧
    (.entry 200 4096 7 : MsixWrite) = .entry (200 : Fin 256) (4096 : W64) (7 : BitVec 32) := by
  decide

/-- A state and operands that meet the hypotheses of clause 1 of HostLinkCompletes. -/
theorem witness_HostLinkCompletes_1 :
    (wHost 1 : State).pwr.por = false := by
  decide

/-- A state and operands that meet the hypotheses of clause 2 of HostLinkCompletes. -/
theorem witness_HostLinkCompletes_2 :
    ({ State.reset with host := { HostSt.reset with perst := true } } : State).pwr.por = false := by
  decide

/-- A state and operands that meet the hypotheses of clause 3 of HostLinkCompletes. -/
theorem witness_HostLinkCompletes_3 :
    ({ State.reset with pwr := { PwrSt.reset with pll := 31 } } : State).pwr.por = false ∧
    (5 : Fin 6).val ≠ 0 ∧
    [1, 2, 4, 8].contains (8 : Fin 9).val = true ∧
    ({ State.reset with pwr := { PwrSt.reset with pll := 31 } } : State).pwr.pll.getLsbD 4 = true := by
  decide

/-- A state and operands that meet the hypotheses of clause 4 of HostLinkCompletes. -/
theorem witness_HostLinkCompletes_4 :
    (wHost 1 : State).pwr.por = false := by
  decide

/-- A state and operands that meet the hypotheses of clause 5 of HostLinkCompletes. -/
theorem witness_HostLinkCompletes_5 :
    (wHost 1 : State).pwr.por = false := by
  decide

/-- A state and operands that meet the hypotheses of clause 6 of HostLinkCompletes. -/
theorem witness_HostLinkCompletes_6 :
    (wHost 1 : State).pwr.por = false ∧
    (.slot 1 : ReadFor) = .slot (1 : Mb) ∧
    (1 : Mb).val < 2 ∧
    (.timeout : ReadEnd) = .timeout := by
  decide

/-- A state and operands that meet the hypotheses of clause 7 of HostLinkCompletes. -/
theorem witness_HostLinkCompletes_7 :
    (wCtx : State).pwr.por = false ∧
    (.descriptor 9 : ReadFor) = .descriptor (9 : Ctx) ∧
    (.poisoned : ReadEnd) = .poisoned := by
  decide

/-- A state and operands that meet the hypotheses of clause 1 of KeystoneMailboxCompletes. -/
theorem witness_KeystoneMailboxCompletes_1 :
    (State.reset : State).pwr.por = false ∧
    (State.reset : State).host.ksGo = false ∧
    ((State.reset : State).host.ksDone = false ∨ (State.reset : State).host.ksDoneSeq ≠ (77 : BitVec 16).toNat) := by
  decide

/-- A state and operands that meet the hypotheses of clause 2 of KeystoneMailboxCompletes. -/
theorem witness_KeystoneMailboxCompletes_2 :
    (wLease : State).pwr.por = false ∧
    (wLease : State).host.ksGo = false ∧
    ((wLease : State).host.ksDone = false ∨ (wLease : State).host.ksDoneSeq ≠ (77 : BitVec 16).toNat) ∧
    (0xA5A5 : BitVec 32).toNat = 0xA5A5 ∧
    (1 : BitVec 32).toNat = 1 := by
  decide

/-- A state and operands that meet the hypotheses of clause 3 of KeystoneMailboxCompletes. -/
theorem witness_KeystoneMailboxCompletes_3 :
    (wLease : State).pwr.por = false ∧
    (wLease : State).host.ksGo = false ∧
    ((wLease : State).host.ksDone = false ∨ (wLease : State).host.ksDoneSeq ≠ (77 : BitVec 16).toNat) ∧
    (0xA5A5 : BitVec 32).toNat = 0xA5A5 ∧
    (2 : BitVec 32).toNat = 2 := by
  decide

/-- A state and operands that meet the hypotheses of clause 4 of KeystoneMailboxCompletes. -/
theorem witness_KeystoneMailboxCompletes_4 :
    (wLease : State).pwr.por = false ∧
    (wLease : State).host.ksGo = false ∧
    ((wLease : State).host.ksDone = false ∨ (wLease : State).host.ksDoneSeq ≠ (77 : BitVec 16).toNat) ∧
    (0xA5A4 : BitVec 32).toNat ≠ 0xA5A5 := by
  decide

/-- A state and operands that meet the hypotheses of clause 5 of KeystoneMailboxCompletes. -/
theorem witness_KeystoneMailboxCompletes_5 :
    (wLease : State).pwr.por = false ∧
    (wLease : State).host.ksGo = false ∧
    ((wLease : State).host.ksDone = false ∨ (wLease : State).host.ksDoneSeq ≠ (77 : BitVec 16).toNat) ∧
    (1 : BitVec 32).toNat < 2 := by
  decide

/-- A state and operands that meet the hypotheses of clause 6 of KeystoneMailboxCompletes. -/
theorem witness_KeystoneMailboxCompletes_6 :
    (wLease : State).pwr.por = false ∧
    (wLease : State).host.ksGo = false ∧
    ((wLease : State).host.ksDone = false ∨ (wLease : State).host.ksDoneSeq ≠ (77 : BitVec 16).toNat) ∧
    (8192 : BitVec 32).toNat % 4096 = 0 ∧
    (wLease : State).slotRuns (1 : Fin 2) = false ∧
    (.ok : ReadEnd) = .ok ∧
    (wLease : State).verifies (wImage : Image) = true := by
  decide

/-- A state and operands that meet the hypotheses of clause 7 of KeystoneMailboxCompletes. -/
theorem witness_KeystoneMailboxCompletes_7 :
    (wLease : State).pwr.por = false ∧
    (wLease : State).host.ksGo = false ∧
    ((wLease : State).host.ksDone = false ∨ (wLease : State).host.ksDoneSeq ≠ (77 : BitVec 16).toNat) ∧
    (8192 : BitVec 32).toNat % 4096 = 0 ∧
    (wLease : State).slotRuns (1 : Fin 2) = false ∧
    (.ok : ReadEnd) = .ok ∧
    (wLease : State).verifies (wBadImage : Image) = false := by
  decide

/-- A state and operands that meet the hypotheses of clause 8 of KeystoneMailboxCompletes. -/
theorem witness_KeystoneMailboxCompletes_8 :
    (State.reset.putB P.MB_CFG_ENABLE 3 true : State).pwr.por = false ∧
    (State.reset.putB P.MB_CFG_ENABLE 3 true : State).smbMine (0x4C : BitVec 7) = true ∧
    (State.reset.putB P.MB_CFG_ENABLE 3 true : State).flag P.MB_CFG_ENABLE 3 = true ∧
    (true : Bool) = true ∧
    (State.reset.putB P.MB_CFG_ENABLE 3 true : State).host.ksGo = false ∧
    ((State.reset.putB P.MB_CFG_ENABLE 3 true : State).host.ksDone = false ∨ (State.reset.putB P.MB_CFG_ENABLE 3 true : State).host.ksDoneSeq ≠ (77 : BitVec 16).toNat) ∧
    (1 : BitVec 16).toNat = 1 := by
  decide

/-- A state and operands that meet the hypotheses of clause 9 of KeystoneMailboxCompletes. -/
theorem witness_KeystoneMailboxCompletes_9 :
    (State.reset.putB P.MB_CFG_ENABLE 3 true : State).pwr.por = false ∧
    (State.reset.putB P.MB_CFG_ENABLE 3 true : State).smbMine (0x4C : BitVec 7) = true ∧
    (State.reset.putB P.MB_CFG_ENABLE 3 true : State).flag P.MB_CFG_ENABLE 3 = true ∧
    (true : Bool) = true ∧
    (State.reset.putB P.MB_CFG_ENABLE 3 true : State).host.ksGo = false ∧
    ((State.reset.putB P.MB_CFG_ENABLE 3 true : State).host.ksDone = false ∨ (State.reset.putB P.MB_CFG_ENABLE 3 true : State).host.ksDoneSeq ≠ (77 : BitVec 16).toNat) ∧
    ((5 : BitVec 16).toNat = 4 ∨ (5 : BitVec 16).toNat = 5) := by
  decide

/-- A state and operands that meet the hypotheses of clause 10 of KeystoneMailboxCompletes. -/
theorem witness_KeystoneMailboxCompletes_10 :
    (State.reset.putB P.MB_CFG_ENABLE 3 true : State).pwr.por = false ∧
    (State.reset.putB P.MB_CFG_ENABLE 3 true : State).smbMine (0x4C : BitVec 7) = true ∧
    (State.reset.putB P.MB_CFG_ENABLE 3 true : State).flag P.MB_CFG_ENABLE 3 = true := by
  decide

/-- A state and operands that meet the hypotheses of clause 1 of RegisterWriteCompletes. -/
theorem witness_RegisterWriteCompletes_1 :
    (State.reset : State).pwr.por = false ∧
    (0 : Fin 2) = 0 ∧
    (0x010 : Nat) = 0x010 ∧
    (4 : Nat) = 4 := by
  decide

/-- A state and operands that meet the hypotheses of clause 2 of RegisterWriteCompletes. -/
theorem witness_RegisterWriteCompletes_2 :
    (State.reset : State).pwr.por = false ∧
    (0 : Fin 2) = 0 ∧
    (0x1044 : Nat) = 0x1044 ∧
    (4 : Nat) = 4 := by
  decide

/-- A state and operands that meet the hypotheses of clause 3 of RegisterWriteCompletes. -/
theorem witness_RegisterWriteCompletes_3 :
    (State.reset : State).pwr.por = false ∧
    (0 : Fin 2) = 0 ∧
    (0x3018 : Nat) = 0x2018 + 0x1000 * (1 : Fin 2).val ∧
    (4 : Nat) = 4 := by
  decide

/-- A state and operands that meet the hypotheses of clause 4 of RegisterWriteCompletes. -/
theorem witness_RegisterWriteCompletes_4 :
    (State.reset : State).pwr.por = false ∧
    (0 : Fin 2) = 0 ∧
    (0x3000 : Nat) = 0x2000 + 0x1000 * (1 : Fin 2).val ∧
    (8 : Nat) = 8 ∧
    ((State.reset : State).mbRegs (1 : Fin 2)).enable = false := by
  decide

/-- A state and operands that meet the hypotheses of clause 5 of RegisterWriteCompletes. -/
theorem witness_RegisterWriteCompletes_5 :
    ({ State.reset with host := { HostSt.reset with ksOp := 1 } } : State).pwr.por = false ∧
    (0 : Fin 2) = 0 ∧
    (0x401C : Nat) = 0x401C ∧
    (4 : Nat) = 4 ∧
    (1 : W64).toNat = 1 ∧
    ({ State.reset with host := { HostSt.reset with ksOp := 1 } } : State).host.ksGo = false ∧
    ({ State.reset with host := { HostSt.reset with ksOp := 1 } } : State).host.ksDone = false ∧
    ({ State.reset with host := { HostSt.reset with ksOp := 1 } } : State).host.ksOp = 1 := by
  decide

/-- A state and operands that meet the hypotheses of clause 6 of RegisterWriteCompletes. -/
theorem witness_RegisterWriteCompletes_6 :
    (wCtx : State).pwr.por = false ∧
    (1 : Fin 2) = 1 ∧
    (64 * 9 : Nat) = 64 * (9 : Ctx).val ∧
    (4 : Nat) = 4 ∧
    ((0 : W64).toNat + 65536 - ((wCtx : State).ctxOf (9 : Ctx)).cons) % 65536 ≤ 2 ^ (wCtx : State).get P.CTX_RING_CFG_LOG2 (9 : Ctx) := by
  decide

/-- A state and operands that meet the hypotheses of clause 7 of RegisterWriteCompletes. -/
theorem witness_RegisterWriteCompletes_7 :
    (wCtx : State).pwr.por = false ∧
    (1 : Fin 2) = 1 ∧
    (64 * 9 + 12 : Nat) = 64 * (9 : Ctx).val + 0x0C ∧
    (4 : Nat) = 4 ∧
    (1 : W64).toNat = 1 := by
  decide

/-- A state and operands that meet the hypotheses of clause 8 of RegisterWriteCompletes. -/
theorem witness_RegisterWriteCompletes_8 :
    (wHost 1 : State).pwr.por = false ∧
    (¬((4 : Nat) = 4 ∧ (577 : Nat) % 4 = 0)) ∧
    (¬((4 : Nat) = 8 ∧ (577 : Nat) % 8 = 0)) := by
  decide

/-- A state and operands that meet the hypotheses of clause 1 of TestPortCompletes. -/
theorem witness_TestPortCompletes_1 :
    ({ (State.reset.putB P.TRIP_STATUS_TRIPPED 3 true) with pwr := { PwrSt.reset with cells := [true, false] } } : State).pwr.por = false := by
  decide

/-- A state and operands that meet the hypotheses of clause 2 of TestPortCompletes. -/
theorem witness_TestPortCompletes_2 :
    ({ (State.reset.putB P.TRIP_STATUS_TRIPPED 3 true) with pwr := { PwrSt.reset with cells := [true, false] } } : State).pwr.por = false := by
  decide

/-- A state and operands that meet the hypotheses of clause 3 of TestPortCompletes. -/
theorem witness_TestPortCompletes_3 :
    ({ (State.reset.putB P.TRIP_STATUS_TRIPPED 3 true) with pwr := { PwrSt.reset with cells := [true, false] } } : State).pwr.por = false := by
  decide

/-- A state and operands that meet the hypotheses of clause 4 of TestPortCompletes. -/
theorem witness_TestPortCompletes_4 :
    ({ (State.reset.putB P.TRIP_STATUS_TRIPPED 3 true) with pwr := { PwrSt.reset with cells := [true, false] } } : State).pwr.por = false := by
  decide

/-- A state and operands that meet the hypotheses of clause 5 of TestPortCompletes. -/
theorem witness_TestPortCompletes_5 :
    (State.reset : State).pwr.por = false := by
  decide

/-- A state and operands that meet the hypotheses of clause 6 of TestPortCompletes. -/
theorem witness_TestPortCompletes_6 :
    (State.reset : State).pwr.por = false := by
  decide

/-- A state and operands that meet the hypotheses of clause 7 of TestPortCompletes. -/
theorem witness_TestPortCompletes_7 :
    (State.reset : State).pwr.por = false := by
  decide

/-- A state and operands that meet the hypotheses of clause 8 of TestPortCompletes. -/
theorem witness_TestPortCompletes_8 :
    (State.reset : State).pwr.por = false := by
  decide

/-- A state and operands that meet the hypotheses of clause 9 of TestPortCompletes. -/
theorem witness_TestPortCompletes_9 :
    ({ State.reset with mbox := { MboxSt.reset with jtagBuf := [1], wait := [wWait 5] } } : State).pwr.por = false := by
  decide

/-- A state and operands that meet the hypotheses of clause 1 of ParameterCommandsComplete. -/
theorem witness_ParameterCommandsComplete_1 :
    (wHost 1 : State).pwr.por = false ∧
    Served (wHost 1 : State) (987654321 : Tm) (1 : Mb) (wCmd 3 ([1, 0, 0, 0, 0, 0, 0, 0] ++ le 4 (P.FAB_CLAIM_CFG_WINDOW_MS.id 0 0)) : Cmd) (8 + 4 * field (wCmd 3 ([1, 0, 0, 0, 0, 0, 0, 0] ++ le 4 (P.FAB_CLAIM_CFG_WINDOW_MS.id 0 0)) : Cmd).payload 0 2) .r ∧
    field (wCmd 3 ([1, 0, 0, 0, 0, 0, 0, 0] ++ le 4 (P.FAB_CLAIM_CFG_WINDOW_MS.id 0 0)) : Cmd).payload 0 2 = 1 ∧
    field (wCmd 3 ([1, 0, 0, 0, 0, 0, 0, 0] ++ le 4 (P.FAB_CLAIM_CFG_WINDOW_MS.id 0 0)) : Cmd).payload 8 4 = (P.FAB_CLAIM_CFG_WINDOW_MS.id 0 0 : Nat) ∧
    named (P.FAB_CLAIM_CFG_WINDOW_MS.id 0 0 : Nat) = some ((named (P.FAB_CLAIM_CFG_WINDOW_MS.id 0 0)).getD ⟨⟨0, 1, 1, []⟩, 0, 0⟩ : Named) ∧
    ((named (P.FAB_CLAIM_CFG_WINDOW_MS.id 0 0)).getD ⟨⟨0, 1, 1, []⟩, 0, 0⟩ : Named).inst ≠ allInst := by
  decide

/-- A state and operands that meet the hypotheses of clause 2 of ParameterCommandsComplete. -/
theorem witness_ParameterCommandsComplete_2 :
    (wHost 1 : State).pwr.por = false ∧
    field (wCmd 3 ([2, 0, 0, 0, 0, 0, 0, 0] ++ le 4 0x0C000001 ++ le 4 77) : Cmd).payload 0 2 = (2 : Nat) ∧
    Served (wHost 1 : State) (987654321 : Tm) (1 : Mb) (wCmd 3 ([2, 0, 0, 0, 0, 0, 0, 0] ++ le 4 0x0C000001 ++ le 4 77) : Cmd) (8 + 4 * (2 : Nat)) .r ∧
    (1 ≤ (2 : Nat) ∧ (2 : Nat) ≤ 254) := by
  decide

/-- A state and operands that meet the hypotheses of clause 3 of ParameterCommandsComplete. -/
theorem witness_ParameterCommandsComplete_3 :
    (wHost 1 : State).pwr.por = false ∧
    Served (wHost 1 : State) (99 : Tm) (1 : Mb) (wCmd 4 (wSet (P.FAB_CLAIM_CFG_WINDOW_MS.id 0 0) 25) : Cmd) 24 .n ∧
    Entry.parse (wCmd 4 (wSet (P.FAB_CLAIM_CFG_WINDOW_MS.id 0 0) 25) : Cmd).payload 0 = (Entry.parse (wSet (P.FAB_CLAIM_CFG_WINDOW_MS.id 0 0) 25) 0 : Entry) ∧
    (Entry.parse (wSet (P.FAB_CLAIM_CFG_WINDOW_MS.id 0 0) 25) 0 : Entry).id = P.FAB_CLAIM_CFG_WINDOW_MS.id 0 0 ∧
    (((wHost 1 : State).met (99 : Tm) (1 : Mb) (wCmd 4 (wSet (P.FAB_CLAIM_CFG_WINDOW_MS.id 0 0) 25) : Cmd)).entrySet (field (wCmd 4 (wSet (P.FAB_CLAIM_CFG_WINDOW_MS.id 0 0) 25) : Cmd).payload 4 1) (Entry.parse (wSet (P.FAB_CLAIM_CFG_WINDOW_MS.id 0 0) 25) 0 : Entry)).status = stOk := by
  decide

/-- A state and operands that meet the hypotheses of clause 4 of ParameterCommandsComplete. -/
theorem witness_ParameterCommandsComplete_4 :
    (wHost 1 : State).pwr.por = false ∧
    ((.n : Cls) = .n ∨ (.n : Cls) = .p) ∧
    Served (wHost 1 : State) (99 : Tm) (1 : Mb) (wCmd 4 (wSet (P.DISC_THR_THRESHOLD.id 77 0) 300) : Cmd) 24 (.n : Cls) ∧
    Entry.parse (wCmd 4 (wSet (P.DISC_THR_THRESHOLD.id 77 0) 300) : Cmd).payload 0 = (Entry.parse (wSet (P.DISC_THR_THRESHOLD.id 77 0) 300) 0 : Entry) ∧
    field (wCmd 4 (wSet (P.DISC_THR_THRESHOLD.id 77 0) 300) : Cmd).payload 4 1 = (0 : Nat) ∧
    named (Entry.parse (wSet (P.DISC_THR_THRESHOLD.id 77 0) 300) 0 : Entry).id = some ((named (P.DISC_THR_THRESHOLD.id 77 0)).getD ⟨⟨0, 1, 1, []⟩, 0, 0⟩ : Named) ∧
    ((named (P.DISC_THR_THRESHOLD.id 77 0)).getD ⟨⟨0, 1, 1, []⟩, 0, 0⟩ : Named).inst ≠ allInst ∧
    ((named (P.DISC_THR_THRESHOLD.id 77 0)).getD ⟨⟨0, 1, 1, []⟩, 0, 0⟩ : Named).par.pid ≠ P.LANE_LOOP_MODE.pid ∧
    (Entry.parse (wSet (P.DISC_THR_THRESHOLD.id 77 0) 300) 0 : Entry).mask &&& ((named (P.DISC_THR_THRESHOLD.id 77 0)).getD ⟨⟨0, 1, 1, []⟩, 0, 0⟩ : Named).par.mask (Fld.has .rws) ≠ 0 ∧
    (((wHost 1 : State).met (99 : Tm) (1 : Mb) (wCmd 4 (wSet (P.DISC_THR_THRESHOLD.id 77 0) 300) : Cmd)).entrySet (0 : Nat) (Entry.parse (wSet (P.DISC_THR_THRESHOLD.id 77 0) 300) 0 : Entry)).status = stOk := by
  decide

/-- A state and operands that meet the hypotheses of clause 5 of ParameterCommandsComplete. -/
theorem witness_ParameterCommandsComplete_5 :
    (wHost 1 : State).pwr.por = false ∧
    ((.n : Cls) = .n ∨ (.n : Cls) = .p) ∧
    Served (wHost 1 : State) (99 : Tm) (1 : Mb) (wCmd 4 (wSet 0x01FFF777 300) : Cmd) 24 (.n : Cls) ∧
    (((wHost 1 : State).met (99 : Tm) (1 : Mb) (wCmd 4 (wSet 0x01FFF777 300) : Cmd)).entrySet (field (wCmd 4 (wSet 0x01FFF777 300) : Cmd).payload 4 1) (Entry.parse (wCmd 4 (wSet 0x01FFF777 300) : Cmd).payload 0)).status = (stBadParam : Nat) ∧
    (stBadParam : Nat) ≠ stOk := by
  decide

/-- A state and operands that meet the hypotheses of clause 6 of ParameterCommandsComplete. -/
theorem witness_ParameterCommandsComplete_6 :
    (wHost 1 : State).pwr.por = false ∧
    ((.n : Cls) = .n ∨ (.n : Cls) = .p) ∧
    field (wCmd 5 (wMulti 0 0 [(P.DISC_THR_THRESHOLD.id 77 0, 300), (P.DISC_THR_THRESHOLD.id 78 0, 301)]) : Cmd).payload 0 2 = (2 : Nat) ∧
    field (wCmd 5 (wMulti 0 0 [(P.DISC_THR_THRESHOLD.id 77 0, 300), (P.DISC_THR_THRESHOLD.id 78 0, 301)]) : Cmd).payload 2 1 = (0 : Nat) ∧
    (((upTo (2 : Nat)).map fun i => Entry.parse (wCmd 5 (wMulti 0 0 [(P.DISC_THR_THRESHOLD.id 77 0, 300), (P.DISC_THR_THRESHOLD.id 78 0, 301)]) : Cmd).payload (16 + 24 * i)) = ([Entry.parse (wSet (P.DISC_THR_THRESHOLD.id 77 0) 300) 0, Entry.parse (wSet (P.DISC_THR_THRESHOLD.id 78 0) 301) 0] : List Entry)) ∧
    Served (wHost 1 : State) (99 : Tm) (1 : Mb) (wCmd 5 (wMulti 0 0 [(P.DISC_THR_THRESHOLD.id 77 0, 300), (P.DISC_THR_THRESHOLD.id 78 0, 301)]) : Cmd) (16 + 24 * (2 : Nat)) (.n : Cls) ∧
    (1 ≤ (2 : Nat) ∧ (2 : Nat) ≤ 168) ∧
    (0 : Nat) ≤ 7 ∧
    (field (wCmd 5 (wMulti 0 0 [(P.DISC_THR_THRESHOLD.id 77 0, 300), (P.DISC_THR_THRESHOLD.id 78 0, 301)]) : Cmd).payload 3 1).testBit 0 = false ∧
    field (wCmd 5 (wMulti 0 0 [(P.DISC_THR_THRESHOLD.id 77 0, 300), (P.DISC_THR_THRESHOLD.id 78 0, 301)]) : Cmd).payload 8 8 = 0 ∧
    (((wHost 1 : State).met (99 : Tm) (1 : Mb) (wCmd 5 (wMulti 0 0 [(P.DISC_THR_THRESHOLD.id 77 0, 300), (P.DISC_THR_THRESHOLD.id 78 0, 301)]) : Cmd)).entriesSet (0 : Nat) false 0 ([Entry.parse (wSet (P.DISC_THR_THRESHOLD.id 77 0) 300) 0, Entry.parse (wSet (P.DISC_THR_THRESHOLD.id 78 0) 301) 0] : List Entry)).1.status = stOk ∧
    (((wHost 1 : State).met (99 : Tm) (1 : Mb) (wCmd 5 (wMulti 0 0 [(P.DISC_THR_THRESHOLD.id 77 0, 300), (P.DISC_THR_THRESHOLD.id 78 0, 301)]) : Cmd)).entriesSet (0 : Nat) false 0 ([Entry.parse (wSet (P.DISC_THR_THRESHOLD.id 77 0) 300) 0, Entry.parse (wSet (P.DISC_THR_THRESHOLD.id 78 0) 301) 0] : List Entry)).1.waits = false := by
  decide

/-- A state and operands that meet the hypotheses of clause 7 of ParameterCommandsComplete. -/
theorem witness_ParameterCommandsComplete_7 :
    (wHost 1 |>.put P.SWAP_CFG_ARMED 0 2 : State).pwr.por = false ∧
    ((.n : Cls) = .n ∨ (.n : Cls) = .p) ∧
    field (wCmd 5 (le 2 1 ++ [2, 0, 0, 0, 0, 0] ++ le 8 1000000000 ++ wSet (P.DISC_THR_THRESHOLD.id 77 0) 300) : Cmd).payload 0 2 = (1 : Nat) ∧
    field (wCmd 5 (le 2 1 ++ [2, 0, 0, 0, 0, 0] ++ le 8 1000000000 ++ wSet (P.DISC_THR_THRESHOLD.id 77 0) 300) : Cmd).payload 2 1 = (2 : Nat) ∧
    field (wCmd 5 (le 2 1 ++ [2, 0, 0, 0, 0, 0] ++ le 8 1000000000 ++ wSet (P.DISC_THR_THRESHOLD.id 77 0) 300) : Cmd).payload 8 8 = (1000000000 : Nat) ∧
    (((upTo (1 : Nat)).map fun i => Entry.parse (wCmd 5 (le 2 1 ++ [2, 0, 0, 0, 0, 0] ++ le 8 1000000000 ++ wSet (P.DISC_THR_THRESHOLD.id 77 0) 300) : Cmd).payload (16 + 24 * i)) = ([Entry.parse (wSet (P.DISC_THR_THRESHOLD.id 77 0) 300) 0] : List Entry)) ∧
    Served (wHost 1 |>.put P.SWAP_CFG_ARMED 0 2 : State) (99 : Tm) (1 : Mb) (wCmd 5 (le 2 1 ++ [2, 0, 0, 0, 0, 0] ++ le 8 1000000000 ++ wSet (P.DISC_THR_THRESHOLD.id 77 0) 300) : Cmd) (16 + 24 * (1 : Nat)) (.n : Cls) ∧
    (1 ≤ (1 : Nat) ∧ (1 : Nat) ≤ 168) ∧
    (1 ≤ (2 : Nat) ∧ (2 : Nat) ≤ 7) ∧
    (field (wCmd 5 (le 2 1 ++ [2, 0, 0, 0, 0, 0] ++ le 8 1000000000 ++ wSet (P.DISC_THR_THRESHOLD.id 77 0) 300) : Cmd).payload 3 1).testBit 0 = false ∧
    (1000000000 : Nat) ≠ 0 ∧
    (wHost 1 |>.put P.SWAP_CFG_ARMED 0 2 : State).armed (2 : Nat) = true ∧
    (1000000000 : Nat) * nsSt % ((wHost 1 |>.put P.SWAP_CFG_ARMED 0 2 : State).clock (99 : Tm)).spanLenAt ((1000000000 : Nat) * nsSt) = 0 ∧
    (wHost 1 |>.put P.SWAP_CFG_ARMED 0 2 : State).instant (99 : Tm) + cutoffLen < (1000000000 : Nat) * nsSt ∧
    (((wHost 1 |>.put P.SWAP_CFG_ARMED 0 2 : State).met (99 : Tm) (1 : Mb) (wCmd 5 (le 2 1 ++ [2, 0, 0, 0, 0, 0] ++ le 8 1000000000 ++ wSet (P.DISC_THR_THRESHOLD.id 77 0) 300) : Cmd)).entriesSet (2 : Nat) false 0 ([Entry.parse (wSet (P.DISC_THR_THRESHOLD.id 77 0) 300) 0] : List Entry)).1.status = stOk ∧
    (((wHost 1 |>.put P.SWAP_CFG_ARMED 0 2 : State).met (99 : Tm) (1 : Mb) (wCmd 5 (le 2 1 ++ [2, 0, 0, 0, 0, 0] ++ le 8 1000000000 ++ wSet (P.DISC_THR_THRESHOLD.id 77 0) 300) : Cmd)).entriesSet (2 : Nat) false 0 ([Entry.parse (wSet (P.DISC_THR_THRESHOLD.id 77 0) 300) 0] : List Entry)).1.waits = false := by
  decide

/-- A state and operands that meet the hypotheses of clause 8 of ParameterCommandsComplete. -/
theorem witness_ParameterCommandsComplete_8 :
    (wHost 1 : State).pwr.por = false ∧
    ((.n : Cls) = .n ∨ (.n : Cls) = .p) ∧
    field (wCmd 5 (wMulti 0 1 [(P.DISC_THR_THRESHOLD.id 77 0, 300), (77, 301)]) : Cmd).payload 0 2 = (2 : Nat) ∧
    field (wCmd 5 (wMulti 0 1 [(P.DISC_THR_THRESHOLD.id 77 0, 300), (77, 301)]) : Cmd).payload 2 1 = (0 : Nat) ∧
    (((upTo (2 : Nat)).map fun i => Entry.parse (wCmd 5 (wMulti 0 1 [(P.DISC_THR_THRESHOLD.id 77 0, 300), (77, 301)]) : Cmd).payload (16 + 24 * i)) = ([Entry.parse (wSet (P.DISC_THR_THRESHOLD.id 77 0) 300) 0, Entry.parse (wSet 77 301) 0] : List Entry)) ∧
    Served (wHost 1 : State) (99 : Tm) (1 : Mb) (wCmd 5 (wMulti 0 1 [(P.DISC_THR_THRESHOLD.id 77 0, 300), (77, 301)]) : Cmd) (16 + 24 * (2 : Nat)) (.n : Cls) ∧
    (1 ≤ (2 : Nat) ∧ (2 : Nat) ≤ 168) ∧
    (0 : Nat) ≤ 7 ∧
    (field (wCmd 5 (wMulti 0 1 [(P.DISC_THR_THRESHOLD.id 77 0, 300), (77, 301)]) : Cmd).payload 3 1).testBit 0 = true ∧
    field (wCmd 5 (wMulti 0 1 [(P.DISC_THR_THRESHOLD.id 77 0, 300), (77, 301)]) : Cmd).payload 8 8 = 0 := by
  decide

/-- A state and operands that meet the hypotheses of clause 9 of ParameterCommandsComplete. -/
theorem witness_ParameterCommandsComplete_9 :
    ({ (wHost 1).put P.SWAP_CFG_ARMED 0 127 with time := { TimeSt.reset with pend := [⟨77, 5, 3, none⟩, ⟨78, 5, 4, none⟩] } } : State).pwr.por = false ∧
    Served ({ (wHost 1).put P.SWAP_CFG_ARMED 0 127 with time := { TimeSt.reset with pend := [⟨77, 5, 3, none⟩, ⟨78, 5, 4, none⟩] } } : State) (99 : Tm) (1 : Mb) (wCmd 6 [8] : Cmd) 1 .n ∧
    (field (wCmd 6 [8] : Cmd).payload 0 1 / 2 * 2).testBit (3 : Fin 8) = true ∧
    ({ (wHost 1).put P.SWAP_CFG_ARMED 0 127 with time := { TimeSt.reset with pend := [⟨77, 5, 3, none⟩, ⟨78, 5, 4, none⟩] } } : State).armed (3 : Fin 8) = true := by
  decide

/-- A state and operands that meet the hypotheses of clause 10 of ParameterCommandsComplete. -/
theorem witness_ParameterCommandsComplete_10 :
    ({ (wHost 1).put P.SWAP_CFG_ARMED 0 127 with time := { TimeSt.reset with next := secSt, pend := [⟨77, 5, 3, none⟩] }, mbox := { MboxSt.reset with atNs := [⟨3, 5⟩] } } : State).pwr.por = false ∧
    (({ (wHost 1).put P.SWAP_CFG_ARMED 0 127 with time := { TimeSt.reset with next := secSt, pend := [⟨77, 5, 3, none⟩] }, mbox := { MboxSt.reset with atNs := [⟨3, 5⟩] } } : State).mbox.atNs.find? (fun y => y.cls == (3 : Fin 8).val && decide (y.at_ ≤ ({ (wHost 1).put P.SWAP_CFG_ARMED 0 127 with time := { TimeSt.reset with next := secSt, pend := [⟨77, 5, 3, none⟩] }, mbox := { MboxSt.reset with atNs := [⟨3, 5⟩] } } : State).time.next)) = some (⟨3, 5⟩ : AtNs)) ∧
    ({ (wHost 1).put P.SWAP_CFG_ARMED 0 127 with time := { TimeSt.reset with next := secSt, pend := [⟨77, 5, 3, none⟩] }, mbox := { MboxSt.reset with atNs := [⟨3, 5⟩] } } : State).leased = true ∧
    ({ (wHost 1).put P.SWAP_CFG_ARMED 0 127 with time := { TimeSt.reset with next := secSt, pend := [⟨77, 5, 3, none⟩] }, mbox := { MboxSt.reset with atNs := [⟨3, 5⟩] } } : State).armed (3 : Fin 8) = true := by
  decide

/-- A state and operands that meet the hypotheses of clause 1 of ConfigurationCompletes. -/
theorem witness_ConfigurationCompletes_1 :
    (wLease.putB P.FAST_CFG_ENABLE 77 true : State).pwr.por = false ∧
    Served (wLease.putB P.FAST_CFG_ENABLE 77 true : State) (99 : Tm) (1 : Mb) (wCmd 7 [] : Cmd) 0 .p ∧
    ((wLease.putB P.FAST_CFG_ENABLE 77 true : State).clock (99 : Tm)).maySave = true ∧
    ((match (wLease.putB P.FAST_CFG_ENABLE 77 true : State).sec.lastCopy with | some 0 => 1 | _ => 0) = (0 : Nat)) := by
  decide

/-- A state and operands that meet the hypotheses of clause 2 of ConfigurationCompletes. -/
theorem witness_ConfigurationCompletes_2 :
    ({ wLease with mbox := { MboxSt.reset with saves := some 5 } } : State).pwr.por = false ∧
    Served ({ wLease with mbox := { MboxSt.reset with saves := some 5 } } : State) (99 : Tm) (1 : Mb) (wCmd 7 [] : Cmd) 0 .p ∧
    ({ wLease with mbox := { MboxSt.reset with saves := some 5 } } : State).backgrounds (({ wLease with mbox := { MboxSt.reset with saves := some 5 } } : State).sentBy (99 : Tm) (1 : Mb) (wCmd 7 [] : Cmd)) < 16 ∧
    (({ wLease with mbox := { MboxSt.reset with saves := some 5 } } : State).clock (99 : Tm)).maySave = false := by
  decide

/-- A state and operands that meet the hypotheses of clause 3 of ConfigurationCompletes. -/
theorem witness_ConfigurationCompletes_3 :
    ({ wLease with mbox := { MboxSt.reset with saves := some 5, wait := [wBack 7] } } : State).pwr.por = false ∧
    ({ wLease with mbox := { MboxSt.reset with saves := some 5, wait := [wBack 7] } } : State).leased = true ∧
    (({ wLease with mbox := { MboxSt.reset with saves := some 5, wait := [wBack 7] } } : State).clock (100 * secSt : Tm)).maySave = true ∧
    ((({ wLease with mbox := { MboxSt.reset with saves := some 5, wait := [wBack 7] } } : State).mbox.wait.any fun y => y.background && y.opcode == 0x0007) = true) := by
  decide

/-- A state and operands that meet the hypotheses of clause 4 of ConfigurationCompletes. -/
theorem witness_ConfigurationCompletes_4 :
    ({ wLease with sec := { SecSt.reset with store := [(1, { Store.reset with valid := true, regs := (State.reset.put P.FAB_CLAIM_CFG_WINDOW_MS 0 25).regs })] } } : State).pwr.por = false ∧
    Served ({ wLease with sec := { SecSt.reset with store := [(1, { Store.reset with valid := true, regs := (State.reset.put P.FAB_CLAIM_CFG_WINDOW_MS 0 25).regs })] } } : State) (99 : Tm) (1 : Mb) (wCmd 8 [0] : Cmd) 1 .p ∧
    field (wCmd 8 [0] : Cmd).payload 0 1 = 0 ∧
    ({ wLease with sec := { SecSt.reset with store := [(1, { Store.reset with valid := true, regs := (State.reset.put P.FAB_CLAIM_CFG_WINDOW_MS 0 25).regs })] } } : State).sec.newest = some ((1 : Nat), ({ Store.reset with valid := true, regs := (State.reset.put P.FAB_CLAIM_CFG_WINDOW_MS 0 25).regs } : Store)) ∧
    ({ Store.reset with valid := true, regs := (State.reset.put P.FAB_CLAIM_CFG_WINDOW_MS 0 25).regs } : Store).version / 65536 = ({ wLease with sec := { SecSt.reset with store := [(1, { Store.reset with valid := true, regs := (State.reset.put P.FAB_CLAIM_CFG_WINDOW_MS 0 25).regs })] } } : State).host.fwVersion / 65536 := by
  decide

/-- A state and operands that meet the hypotheses of clause 5 of ConfigurationCompletes. -/
theorem witness_ConfigurationCompletes_5 :
    (wLease.put P.FAB_CLAIM_CFG_WINDOW_MS 0 25 : State).pwr.por = false ∧
    Served (wLease.put P.FAB_CLAIM_CFG_WINDOW_MS 0 25 : State) (99 : Tm) (1 : Mb) (wCmd 8 [1] : Cmd) 1 .p ∧
    field (wCmd 8 [1] : Cmd).payload 0 1 = 1 := by
  decide

/-- A state and operands that meet the hypotheses of clause 6 of ConfigurationCompletes. -/
theorem witness_ConfigurationCompletes_6 :
    (wLease : State).pwr.por = false ∧
    Served (wLease : State) (99 : Tm) (1 : Mb) (wCmd 0x0C01 (le 8 0 ++ le 8 (2 ^ 64 - 5) ++ le 8 0 ++ le 8 1000000000) : Cmd) 32 .p ∧
    field (wCmd 0x0C01 (le 8 0 ++ le 8 (2 ^ 64 - 5) ++ le 8 0 ++ le 8 1000000000) : Cmd).payload 0 1 = 0 ∧
    field (wCmd 0x0C01 (le 8 0 ++ le 8 (2 ^ 64 - 5) ++ le 8 0 ++ le 8 1000000000) : Cmd).payload 16 2 % 4096 = 0 ∧
    field (wCmd 0x0C01 (le 8 0 ++ le 8 (2 ^ 64 - 5) ++ le 8 0 ++ le 8 1000000000) : Cmd).payload 24 8 * nsSt = (secSt : Tm) ∧
    sext 64 (field (wCmd 0x0C01 (le 8 0 ++ le 8 (2 ^ 64 - 5) ++ le 8 0 ++ le 8 1000000000) : Cmd).payload 8 8) = (-5 : Int) ∧
    (secSt : Tm) % ((wLease : State).clock (99 : Tm)).spanLenAt (secSt : Tm) = 0 ∧
    (wLease : State).instant (99 : Tm) < (secSt : Tm) ∧
    (0 ≤ ((secSt : Tm) : Int) + (-5 : Int) ∧ ((secSt : Tm) : Int) + (-5 : Int) < (timeLimit * nsSt : Nat)) ∧
    ((wLease : State).clock (99 : Tm)).afterCommit ≤ (secSt : Tm) ∧
    (wLease : State).time.steps.any (·.b == (secSt : Tm)) = false ∧
    (¬((-5 : Int) < 0 ∧ (wLease : State).time.epoch = 0xFFFF)) := by
  decide

/-- A state and operands that meet the hypotheses of clause 7 of ConfigurationCompletes. -/
theorem witness_ConfigurationCompletes_7 :
    (wRoot : State).pwr.por = false ∧
    Served (wRoot : State) (99 : Tm) (1 : Mb) (wCmd 0x0C01 (le 8 3 ++ le 8 5000000000 ++ le 8 7 ++ le 8 1000000000) : Cmd) 32 .p ∧
    field (wCmd 0x0C01 (le 8 3 ++ le 8 5000000000 ++ le 8 7 ++ le 8 1000000000) : Cmd).payload 0 1 = 3 ∧
    field (wCmd 0x0C01 (le 8 3 ++ le 8 5000000000 ++ le 8 7 ++ le 8 1000000000) : Cmd).payload 16 2 % 4096 ≤ 3071 ∧
    field (wCmd 0x0C01 (le 8 3 ++ le 8 5000000000 ++ le 8 7 ++ le 8 1000000000) : Cmd).payload 24 8 * nsSt = (secSt : Tm) ∧
    field (wCmd 0x0C01 (le 8 3 ++ le 8 5000000000 ++ le 8 7 ++ le 8 1000000000) : Cmd).payload 8 8 * nsSt + field (wCmd 0x0C01 (le 8 3 ++ le 8 5000000000 ++ le 8 7 ++ le 8 1000000000) : Cmd).payload 16 2 % 4096 = (5 * secSt + 7 : Nat) ∧
    (secSt : Tm) % ((wRoot : State).clock (99 : Tm)).spanLenAt (secSt : Tm) = 0 ∧
    (wRoot : State).instant (99 : Tm) < (secSt : Tm) ∧
    (5 * secSt + 7 : Nat) < timeLimit * nsSt ∧
    (wRoot : State).isRoot = true ∧
    ((wRoot : State).clock (99 : Tm)).afterCommit ≤ (secSt : Tm) ∧
    (wRoot : State).instant (99 : Tm) + max (10 * (wRoot : State).spanLen) (10 * msSt) ≤ (secSt : Tm) ∧
    (wRoot : State).time.steps.any (·.b == (secSt : Tm)) = false ∧
    (¬((5 * secSt + 7 : Nat) < (secSt : Tm) ∧ (wRoot : State).time.epoch = 0xFFFF)) := by
  decide

/-- A state and operands that meet the hypotheses of clause 8 of ConfigurationCompletes. -/
theorem witness_ConfigurationCompletes_8 :
    (wLease : State).pwr.por = false ∧
    Served (wLease : State) (99 : Tm) (1 : Mb) (wCmd 0x0C02 (le 8 1000000000 ++ le 2 7 ++ [2, 0] ++ le 4 0 ++ le 4 5 ++ le 4 0) : Cmd) 24 .n ∧
    (1 ≤ field (wCmd 0x0C02 (le 8 1000000000 ++ le 2 7 ++ [2, 0] ++ le 4 0 ++ le 4 5 ++ le 4 0) : Cmd).payload 10 1 % 8 ∧ field (wCmd 0x0C02 (le 8 1000000000 ++ le 2 7 ++ [2, 0] ++ le 4 0 ++ le 4 5 ++ le 4 0) : Cmd).payload 10 1 % 8 ≤ 4) ∧
    field (wCmd 0x0C02 (le 8 1000000000 ++ le 2 7 ++ [2, 0] ++ le 4 0 ++ le 4 5 ++ le 4 0) : Cmd).payload 8 2 % 4096 ≤ 3071 ∧
    field (wCmd 0x0C02 (le 8 1000000000 ++ le 2 7 ++ [2, 0] ++ le 4 0 ++ le 4 5 ++ le 4 0) : Cmd).payload 0 8 < timeLimit ∧
    (field (wCmd 0x0C02 (le 8 1000000000 ++ le 2 7 ++ [2, 0] ++ le 4 0 ++ le 4 5 ++ le 4 0) : Cmd).payload 20 4 = 0 ∨ 1000 ≤ field (wCmd 0x0C02 (le 8 1000000000 ++ le 2 7 ++ [2, 0] ++ le 4 0 ++ le 4 5 ++ le 4 0) : Cmd).payload 20 4) ∧
    (wLease : State).emptyEntry = some (0 : Nat) ∧
    ((wLease : State).clock (99 : Tm)).commitAt + 10 * usSt ≤ field (wCmd 0x0C02 (le 8 1000000000 ++ le 2 7 ++ [2, 0] ++ le 4 0 ++ le 4 5 ++ le 4 0) : Cmd).payload 0 8 * nsSt + field (wCmd 0x0C02 (le 8 1000000000 ++ le 2 7 ++ [2, 0] ++ le 4 0 ++ le 4 5 ++ le 4 0) : Cmd).payload 8 2 % 4096 := by
  decide

set_option maxRecDepth 100000 in
/-- A state and operands that meet the hypotheses of clause 9 of ConfigurationCompletes. -/
theorem witness_ConfigurationCompletes_9 :
    (((upTo 64).foldl (fun s i => s.put P.ACT_CFG_KIND i 1) wLease : State).pwr.por = false) ∧
    (Served ((upTo 64).foldl (fun s i => s.put P.ACT_CFG_KIND i 1) wLease : State) (99 : Tm) (1 : Mb) (wCmd 0x0C02 (le 8 1000000000 ++ le 2 7 ++ [2, 0] ++ le 4 0 ++ le 4 5 ++ le 4 0) : Cmd) 24 .n) ∧
    (((upTo 64).foldl (fun s i => s.put P.ACT_CFG_KIND i 1) wLease : State).emptyEntry = none) := by
  decide

/-- A state and operands that meet the hypotheses of clause 1 of FirmwareCommandsComplete. -/
theorem witness_FirmwareCommandsComplete_1 :
    (wLease : State).pwr.por = false ∧
    Served (wLease : State) (99 : Tm) (1 : Mb) (wCmd 0x0F02 (le 8 1 ++ le 8 8192 ++ le 8 4096) : Cmd) 24 .p ∧
    field (wCmd 0x0F02 (le 8 1 ++ le 8 8192 ++ le 8 4096) : Cmd).payload 0 1 = (1 : Nat) ∧
    field (wCmd 0x0F02 (le 8 1 ++ le 8 8192 ++ le 8 4096) : Cmd).payload 16 8 = (4096 : Nat) ∧
    (1 : Nat) < 2 ∧
    field (wCmd 0x0F02 (le 8 1 ++ le 8 8192 ++ le 8 4096) : Cmd).payload 8 8 % 4096 = 0 ∧
    (4096 : Nat) ≤ 4194304 ∧
    (wLease : State).slotRuns (1 : Nat) = false ∧
    (.ok : ReadEnd) = .ok ∧
    (wLease : State).verifies (wImage : Image) = true := by
  decide

/-- A state and operands that meet the hypotheses of clause 2 of FirmwareCommandsComplete. -/
theorem witness_FirmwareCommandsComplete_2 :
    (wLease : State).pwr.por = false ∧
    Served (wLease : State) (99 : Tm) (1 : Mb) (wCmd 0x0F02 (le 8 1 ++ le 8 8192 ++ le 8 4096) : Cmd) 24 .p ∧
    field (wCmd 0x0F02 (le 8 1 ++ le 8 8192 ++ le 8 4096) : Cmd).payload 0 1 = (1 : Nat) ∧
    field (wCmd 0x0F02 (le 8 1 ++ le 8 8192 ++ le 8 4096) : Cmd).payload 16 8 = (4096 : Nat) ∧
    (1 : Nat) < 2 ∧
    field (wCmd 0x0F02 (le 8 1 ++ le 8 8192 ++ le 8 4096) : Cmd).payload 8 8 % 4096 = 0 ∧
    (4096 : Nat) ≤ 4194304 ∧
    (wLease : State).slotRuns (1 : Nat) = false ∧
    (.ok : ReadEnd) = .ok ∧
    (wLease : State).verifies (wBadImage : Image) = false := by
  decide

/-- A state and operands that meet the hypotheses of clause 3 of FirmwareCommandsComplete. -/
theorem witness_FirmwareCommandsComplete_3 :
    (wLease : State).pwr.por = false ∧
    Served (wLease : State) (99 : Tm) (1 : Mb) (wCmd 0x0F03 [1] : Cmd) 1 .p ∧
    field (wCmd 0x0F03 [1] : Cmd).payload 0 1 < 2 := by
  decide

/-- A state and operands that meet the hypotheses of clause 4 of FirmwareCommandsComplete. -/
theorem witness_FirmwareCommandsComplete_4 :
    ({ State.reset with pwr := { PwrSt.reset with refWait := false } } : State).pwr.por = false ∧
    ({ State.reset with pwr := { PwrSt.reset with refWait := false } } : State).core.booted = 0 ∧
    ({ State.reset with pwr := { PwrSt.reset with refWait := false } } : State).leased = false ∧
    ({ State.reset with pwr := { PwrSt.reset with refWait := false } } : State).abut = false ∧
    ({ State.reset with pwr := { PwrSt.reset with refWait := false } } : State).pwr.refWait = false ∧
    ({ State.reset with pwr := { PwrSt.reset with refWait := false } } : State).get P.SEC_STATUS_BOOT_SEL 0 = 0 ∧
    ({ State.reset with pwr := { PwrSt.reset with refWait := false } } : State).verifies (wImage : Image) = true := by
  decide

/-- A state and operands that meet the hypotheses of clause 5 of FirmwareCommandsComplete. -/
theorem witness_FirmwareCommandsComplete_5 :
    ({ State.reset with pwr := { PwrSt.reset with refWait := false } } : State).pwr.por = false ∧
    ({ State.reset with pwr := { PwrSt.reset with refWait := false } } : State).core.booted = 0 ∧
    ({ State.reset with pwr := { PwrSt.reset with refWait := false } } : State).leased = false ∧
    ({ State.reset with pwr := { PwrSt.reset with refWait := false } } : State).abut = false ∧
    ({ State.reset with pwr := { PwrSt.reset with refWait := false } } : State).pwr.refWait = false ∧
    ({ State.reset with pwr := { PwrSt.reset with refWait := false } } : State).get P.SEC_STATUS_BOOT_SEL 0 = 0 ∧
    ({ State.reset with pwr := { PwrSt.reset with refWait := false } } : State).verifies (wBadImage : Image) = false ∧
    ({ State.reset with pwr := { PwrSt.reset with refWait := false } } : State).verifies (wImage : Image) = true := by
  decide

/-- A state and operands that meet the hypotheses of clause 6 of FirmwareCommandsComplete. -/
theorem witness_FirmwareCommandsComplete_6 :
    ({ State.reset with pwr := { PwrSt.reset with refWait := false } } : State).pwr.por = false ∧
    ({ State.reset with pwr := { PwrSt.reset with refWait := false } } : State).core.booted = 0 ∧
    ({ State.reset with pwr := { PwrSt.reset with refWait := false } } : State).leased = false ∧
    ({ State.reset with pwr := { PwrSt.reset with refWait := false } } : State).abut = false ∧
    ({ State.reset with pwr := { PwrSt.reset with refWait := false } } : State).pwr.refWait = false ∧
    ({ State.reset with pwr := { PwrSt.reset with refWait := false } } : State).verifies (wBadImage : Image) = false ∧
    ({ State.reset with pwr := { PwrSt.reset with refWait := false } } : State).verifies (Image.none : Image) = false ∧
    ({ State.reset with pwr := { PwrSt.reset with refWait := false } } : State).get P.SEC_STATUS_BOOT_SEL 0 ≤ 1 := by
  decide

/-- A state and operands that meet the hypotheses of clause 7 of FirmwareCommandsComplete. -/
theorem witness_FirmwareCommandsComplete_7 :
    (wLease.put P.SEC_SVN_RUNNING 0 5 : State).pwr.por = false ∧
    (wLease.put P.SEC_SVN_RUNNING 0 5 : State).leased = true ∧
    max ((wLease.put P.SEC_SVN_RUNNING 0 5 : State).get P.SEC_SVN_MIN 0) ((wLease.put P.SEC_SVN_RUNNING 0 5 : State).get P.SEC_SVN_RUNNING 0) = (5 : Nat) := by
  decide

/-- A state and operands that meet the hypotheses of clause 8 of FirmwareCommandsComplete. -/
theorem witness_FirmwareCommandsComplete_8 :
    (State.reset : State).pwr.por = false ∧
    (State.reset : State).leased = false := by
  decide

/-- A state and operands that meet the hypotheses of clause 9 of FirmwareCommandsComplete. -/
theorem witness_FirmwareCommandsComplete_9 :
    ({ wLease with core := { wLease.core with booted := 1 }, sec := { SecSt.reset with slot := [(0, { Slot.reset with image := wImage })] } } : State).pwr.por = false ∧
    ({ wLease with core := { wLease.core with booted := 1 }, sec := { SecSt.reset with slot := [(0, { Slot.reset with image := wImage })] } } : State).leased = true ∧
    ({ wLease with core := { wLease.core with booted := 1 }, sec := { SecSt.reset with slot := [(0, { Slot.reset with image := wImage })] } } : State).ownerLocked = false ∧
    ((true : Bool) = true → 0 < ({ wLease with core := { wLease.core with booted := 1 }, sec := { SecSt.reset with slot := [(0, { Slot.reset with image := wImage })] } } : State).core.booted ∧ ({ wLease with core := { wLease.core with booted := 1 }, sec := { SecSt.reset with slot := [(0, { Slot.reset with image := wImage })] } } : State).ownerPair (({ wLease with core := { wLease.core with booted := 1 }, sec := { SecSt.reset with slot := [(0, { Slot.reset with image := wImage })] } } : State).slotOf (({ wLease with core := { wLease.core with booted := 1 }, sec := { SecSt.reset with slot := [(0, { Slot.reset with image := wImage })] } } : State).core.booted - 1)).image = true) ∧
    ({ wLease with core := { wLease.core with booted := 1 }, sec := { SecSt.reset with slot := [(0, { Slot.reset with image := wImage })] } } : State).ownerRequired ≠ (true : Bool) := by
  decide

/-- A state and operands that meet the hypotheses of clause 10 of FirmwareCommandsComplete. -/
theorem witness_FirmwareCommandsComplete_10 :
    (State.reset : State).pwr.por = false ∧
    (State.reset : State).leased = false := by
  decide

/-- A state and operands that meet the hypotheses of clause 11 of FirmwareCommandsComplete. -/
theorem witness_FirmwareCommandsComplete_11 :
    ((wLease.putB P.SEC_CFG_OWNER_LOCK 0 true) : State).pwr.por = false ∧
    ((wLease.putB P.SEC_CFG_OWNER_LOCK 0 true) : State).leased = true ∧
    ((wLease.putB P.SEC_CFG_OWNER_LOCK 0 true) : State).ownerLocked = true := by
  decide

/-- A state and operands that meet the hypotheses of clause 12 of FirmwareCommandsComplete. -/
theorem witness_FirmwareCommandsComplete_12 :
    ((State.reset.putB P.SEC_CFG_OWNER_REQUIRE 0 true) : State).pwr.por = false ∧
    ((State.reset.putB P.SEC_CFG_OWNER_REQUIRE 0 true) : State).leased = false := by
  decide

/-- A state and operands that meet the hypotheses of clause 13 of FirmwareCommandsComplete. -/
theorem witness_FirmwareCommandsComplete_13 :
    ((wLease.putB P.SEC_CFG_OWNER_REQUIRE 0 true) : State).pwr.por = false ∧
    ((wLease.putB P.SEC_CFG_OWNER_REQUIRE 0 true) : State).leased = true ∧
    ((wLease.putB P.SEC_CFG_OWNER_REQUIRE 0 true) : State).ownerRequired = true ∧
    ((wLease.putB P.SEC_CFG_OWNER_REQUIRE 0 true) : State).ownerLocked = false := by
  decide

/-- A state and operands that meet the hypotheses of clause 1 of TokenCommandsComplete. -/
theorem witness_TokenCommandsComplete_1 :
    (wLease : State).pwr.por = false ∧
    Served (wLease : State) (99 : Tm) (1 : Mb) (wCmd 0x1201 [] : Cmd) 0 .r := by
  decide

/-- A state and operands that meet the hypotheses of clause 2 of TokenCommandsComplete. -/
theorem witness_TokenCommandsComplete_2 :
    (wLease.setNonce 1 (some ⟨[], 5⟩) : State).pwr.por = false ∧
    (wLease.setNonce 1 (some ⟨[], 5⟩) : State).nonceOf (1 : Mb) = some (⟨[], 5⟩ : Nonce) ∧
    (⟨[], 5⟩ : Nonce).until_ ≤ (wLease.setNonce 1 (some ⟨[], 5⟩) : State).instant (99 : Tm) := by
  decide

/-- A state and operands that meet the hypotheses of clause 3 of TokenCommandsComplete. -/
theorem witness_TokenCommandsComplete_3 :
    (wLease : State).pwr.por = false ∧
    Served (wLease : State) (99 : Tm) (3 : Mb) (wCmd 0x1202 (List.replicate 48 7) : Cmd) 48 .r ∧
    (wLease : State).get P.SEC_HSS_NEXT 0 = (0 : Nat) ∧
    (wLease : State).sec.keyLost = false ∧
    (0 : Nat) < hssCount ∧
    secSt ≤ ((wLease : State).clock (99 : Tm)).attestLevel := by
  decide

/-- A state and operands that meet the hypotheses of clause 4 of TokenCommandsComplete. -/
theorem witness_TokenCommandsComplete_4 :
    (wLease : State).pwr.por = false ∧
    Served (wLease : State) (99 : Tm) (1 : Mb) (wCmd 0x1101 (le 8 0 ++ le 4 4096) : Cmd) 12 .r ∧
    (wLease : State).recReadable (field (wCmd 0x1101 (le 8 0 ++ le 4 4096) : Cmd).payload 0 8) = ([] : List LogRec) ∧
    takeRecs ([] : List LogRec) (field (wCmd 0x1101 (le 8 0 ++ le 4 4096) : Cmd).payload 8 4) = ([] : List LogRec) := by
  decide

set_option maxRecDepth 100000 in
/-- A state and operands that meet the hypotheses of clause 5 of TokenCommandsComplete. -/
theorem witness_TokenCommandsComplete_5 :
    (wLease : State).pwr.por = false ∧
    Served (wLease : State) (99 : Tm) (1 : Mb) (wCmd 0x1102 (wToken []) : Cmd) 208 .p ∧
    (wLease : State).recd.clears.length < clearMax := by
  decide

set_option maxRecDepth 100000 in
/-- A state and operands that meet the hypotheses of clause 6 of TokenCommandsComplete. -/
theorem witness_TokenCommandsComplete_6 :
    (wLease : State).pwr.por = false ∧
    Served (wLease : State) (99 : Tm) (1 : Mb) (wCmd 0x1001 (wToken ([1, 16, 0, 0] ++ le 4 7 ++ le 8 5)) : Cmd) 240 .d ∧
    field (((wCmd 0x1001 (wToken ([1, 16, 0, 0] ++ le 4 7 ++ le 8 5)) : Cmd).payload.drop 208).take 32) 0 1 = 1 ∧
    field (((wCmd 0x1001 (wToken ([1, 16, 0, 0] ++ le 4 7 ++ le 8 5)) : Cmd).payload.drop 208).take 32) 1 1 = (16 : Nat) ∧
    field (((wCmd 0x1001 (wToken ([1, 16, 0, 0] ++ le 4 7 ++ le 8 5)) : Cmd).payload.drop 208).take 32) 4 4 = (7 : Nat) ∧
    (16 : Nat) ≤ 16 ∧
    (7 : Nat) ≤ 7 := by
  decide

set_option maxRecDepth 100000 in
/-- A state and operands that meet the hypotheses of clause 7 of TokenCommandsComplete. -/
theorem witness_TokenCommandsComplete_7 :
    (wLease : State).pwr.por = false ∧
    Served (wLease : State) (99 : Tm) (1 : Mb) (wCmd 0x1001 (wToken ([2, 16, 0, 0] ++ le 4 7)) : Cmd) 240 .d ∧
    field (((wCmd 0x1001 (wToken ([2, 16, 0, 0] ++ le 4 7)) : Cmd).payload.drop 208).take 32) 0 1 = 2 ∧
    field (((wCmd 0x1001 (wToken ([2, 16, 0, 0] ++ le 4 7)) : Cmd).payload.drop 208).take 32) 1 1 = (16 : Nat) ∧
    field (((wCmd 0x1001 (wToken ([2, 16, 0, 0] ++ le 4 7)) : Cmd).payload.drop 208).take 32) 4 4 = (7 : Nat) ∧
    (16 : Nat) ≤ 16 ∧
    (7 : Nat) ≤ 7 := by
  decide

set_option maxRecDepth 100000 in
/-- A state and operands that meet the hypotheses of clause 8 of TokenCommandsComplete. -/
theorem witness_TokenCommandsComplete_8 :
    (wLease : State).pwr.por = false ∧
    Served (wLease : State) (99 : Tm) (1 : Mb) (wCmd 0x1001 (wToken ([3, 14, 0, 0] ++ le 4 7)) : Cmd) 240 .d ∧
    field (((wCmd 0x1001 (wToken ([3, 14, 0, 0] ++ le 4 7)) : Cmd).payload.drop 208).take 32) 0 1 = 3 ∧
    field (((wCmd 0x1001 (wToken ([3, 14, 0, 0] ++ le 4 7)) : Cmd).payload.drop 208).take 32) 1 1 = (14 : Nat) ∧
    field (((wCmd 0x1001 (wToken ([3, 14, 0, 0] ++ le 4 7)) : Cmd).payload.drop 208).take 32) 4 4 = (7 : Nat) ∧
    injectable (14 : Nat) = true ∧
    (wLease : State).mbox.injected = none := by
  decide

/-- A state and operands that meet the hypotheses of clause 1 of MemoryErrorsComplete. -/
theorem witness_MemoryErrorsComplete_1 :
    (wLease.putB P.MEM_SCRUB_ENABLE 0 true : State).pwr.por = false ∧
    scrubbed (12 : Fin 19) = true ∧
    (wLease.putB P.MEM_SCRUB_ENABLE 0 true : State).flag P.MEM_SCRUB_ENABLE 0 = true ∧
    (wLease.putB P.MEM_SCRUB_ENABLE 0 true : State).flag P.THERM_STATUS_THROTTLED 0 = false ∧
    (wLease.putB P.MEM_SCRUB_ENABLE 0 true : State).mem.scrubDue ≤ (wLease.putB P.MEM_SCRUB_ENABLE 0 true : State).instant (99 : Tm) ∧
    (wLease.putB P.MEM_SCRUB_ENABLE 0 true : State).mem.scrubAt + 1 < scrubWords := by
  decide

/-- A state and operands that meet the hypotheses of clause 2 of MemoryErrorsComplete. -/
theorem witness_MemoryErrorsComplete_2 :
    ({ wLease.putB P.MEM_SCRUB_ENABLE 0 true with mem := { MemSt.reset with scrubAt := 393215 } } : State).pwr.por = false ∧
    scrubbed (12 : Fin 19) = true ∧
    ({ wLease.putB P.MEM_SCRUB_ENABLE 0 true with mem := { MemSt.reset with scrubAt := 393215 } } : State).flag P.MEM_SCRUB_ENABLE 0 = true ∧
    ({ wLease.putB P.MEM_SCRUB_ENABLE 0 true with mem := { MemSt.reset with scrubAt := 393215 } } : State).flag P.THERM_STATUS_THROTTLED 0 = false ∧
    ({ wLease.putB P.MEM_SCRUB_ENABLE 0 true with mem := { MemSt.reset with scrubAt := 393215 } } : State).mem.scrubDue ≤ ({ wLease.putB P.MEM_SCRUB_ENABLE 0 true with mem := { MemSt.reset with scrubAt := 393215 } } : State).instant (99 : Tm) ∧
    scrubWords ≤ ({ wLease.putB P.MEM_SCRUB_ENABLE 0 true with mem := { MemSt.reset with scrubAt := 393215 } } : State).mem.scrubAt + 1 := by
  decide

/-- A state and operands that meet the hypotheses of clause 3 of MemoryErrorsComplete. -/
theorem witness_MemoryErrorsComplete_3 :
    (wLease.putB P.MEM_SCRUB_ENABLE 0 true : State).pwr.por = false ∧
    (3 : Fin 19).val < 4 ∧
    (wLease.putB P.MEM_SCRUB_ENABLE 0 true : State).core.holder ≠ (3 : Fin 19).val / 2 + 1 ∧
    (wLease.putB P.MEM_SCRUB_ENABLE 0 true : State).flag P.MEM_SCRUB_ENABLE 0 = true ∧
    (wLease.putB P.MEM_SCRUB_ENABLE 0 true : State).flag P.THERM_STATUS_THROTTLED 0 = false ∧
    (wLease.putB P.MEM_SCRUB_ENABLE 0 true : State).mem.scrubDue ≤ (wLease.putB P.MEM_SCRUB_ENABLE 0 true : State).instant (99 : Tm) ∧
    (2 : Fin 3) = 2 := by
  decide

/-- A state and operands that meet the hypotheses of clause 4 of MemoryErrorsComplete. -/
theorem witness_MemoryErrorsComplete_4 :
    ({ wLease with sec := { SecSt.reset with slot := [(1, { Slot.reset with ok := true })] } } : State).pwr.por = false ∧
    ({ wLease with sec := { SecSt.reset with slot := [(1, { Slot.reset with ok := true })] } } : State).flag P.THERM_STATUS_THROTTLED 0 = false ∧
    ({ wLease with sec := { SecSt.reset with slot := [(1, { Slot.reset with ok := true })] } } : State).sec.scrubDue ≤ ({ wLease with sec := { SecSt.reset with slot := [(1, { Slot.reset with ok := true })] } } : State).instant (99 : Tm) ∧
    (.slot true : MramWhere) = .slot (true : Bool) ∧
    (2 : Fin 3) = 2 := by
  decide

/-- A state and operands that meet the hypotheses of clause 5 of MemoryErrorsComplete. -/
theorem witness_MemoryErrorsComplete_5 :
    (wLease : State).pwr.por = false ∧
    (wLease : State).flag P.THERM_STATUS_THROTTLED 0 = false ∧
    (wLease : State).sec.scrubDue ≤ (wLease : State).instant (99 : Tm) ∧
    (.key true : MramWhere) = .key true ∧
    (2 : Fin 3) = 2 := by
  decide

/-- A state and operands that meet the hypotheses of clause 6 of MemoryErrorsComplete. -/
theorem witness_MemoryErrorsComplete_6 :
    (wLease : State).pwr.por = false ∧
    (wLease : State).flag P.THERM_STATUS_THROTTLED 0 = false ∧
    (wLease : State).sec.scrubDue ≤ (wLease : State).instant (99 : Tm) ∧
    (1 : Fin 3) = 1 := by
  decide

/-- A state and operands that meet the hypotheses of clause 7 of MemoryErrorsComplete. -/
theorem witness_MemoryErrorsComplete_7 :
    ({ wLease with mbox := { MboxSt.reset with injected := some (14, 3, 5) } } : State).pwr.por = false ∧
    ({ wLease with mbox := { MboxSt.reset with injected := some (14, 3, 5) } } : State).mbox.injected = some ((14 : Nat), (3 : Nat), (5 : Nat)) ∧
    ({ wLease with mbox := { MboxSt.reset with injected := some (14, 3, 5) } } : State).newestAt (14 : Nat) = some (0 : Nat) ∧
    popCount (5 : Nat) ≠ 0 := by
  decide

/-- A state and operands that meet the hypotheses of clause 1 of PowerCompletes. -/
theorem witness_PowerCompletes_1 :
    (wLease : State).pwr.por = false ∧
    porReset ≤ (5000000000 : Nat) ∧
    (.tout 7 : Pin) ∈ resetPins := by
  decide

/-- A state and operands that meet the hypotheses of clause 2 of PowerCompletes. -/
theorem witness_PowerCompletes_2 :
    (wLease : State).pwr.por = false ∧
    (0 : Nat) < porIgnored := by
  decide

/-- A state and operands that meet the hypotheses of clause 3 of PowerCompletes. -/
theorem witness_PowerCompletes_3 :
    (State.reset : State).pwr.por = false ∧
    (State.reset : State).pwr.refWait = true ∧
    refKind (2560 : Nat) ≠ 0 := by
  decide

/-- A state and operands that meet the hypotheses of clause 4 of PowerCompletes. -/
theorem witness_PowerCompletes_4 :
    ({ State.reset with pwr := { PwrSt.reset with refWait := false } } : State).pwr.por = false ∧
    ({ State.reset with pwr := { PwrSt.reset with refWait := false } } : State).pwr.refWait = false ∧
    ({ State.reset with pwr := { PwrSt.reset with refWait := false } } : State).get P.START_STATUS_REF_KIND 0 ≠ refKind (256 : Nat) := by
  decide

/-- A state and operands that meet the hypotheses of clause 5 of PowerCompletes. -/
theorem witness_PowerCompletes_5 :
    ({ State.reset with pwr := { PwrSt.reset with refWait := false } } : State).pwr.por = false ∧
    ((1 : Fin 5).val < 2 → ({ State.reset with pwr := { PwrSt.reset with refWait := false } } : State).pwr.refWait = false) ∧
    (((1 : Fin 5).val = 2 ∨ (1 : Fin 5).val = 3) → ({ State.reset with pwr := { PwrSt.reset with refWait := false } } : State).pwr.pll.getLsbD 1 = true) := by
  decide

/-- A state and operands that meet the hypotheses of clause 6 of PowerCompletes. -/
theorem witness_PowerCompletes_6 :
    (wLease : State).pwr.por = false := by
  decide

/-- A state and operands that meet the hypotheses of clause 7 of PowerCompletes. -/
theorem witness_PowerCompletes_7 :
    (wLease : State).pwr.por = false := by
  decide

/-- A state and operands that meet the hypotheses of clause 8 of PowerCompletes. -/
theorem witness_PowerCompletes_8 :
    (wLease : State).pwr.por = false := by
  decide

/-- A state and operands that meet the hypotheses of clause 9 of PowerCompletes. -/
theorem witness_PowerCompletes_9 :
    (((wLease.modFe 3 fun f => { f with overlightN := false }) : State).pwr.por = false) ∧
    ((((wLease.modFe 3 fun f => { f with overlightN := false }) : State).fe (3 : Tile)).overlightN = false) ∧
    (((wLease.modFe 3 fun f => { f with overlightN := false }) : State).tripped (3 : Tile) = false) ∧
    ((((wLease.modFe 3 fun f => { f with overlightN := false }) : State).get P.RAIL_STATUS_OUT 0).testBit 8 = false) ∧
    (100 * usSt ≤ (((wLease.modFe 3 fun f => { f with overlightN := false }) : State).clock (msSt : Tm)).time.up) ∧
    ((5 : Nat) < ((wLease.modFe 3 fun f => { f with overlightN := false }) : State).tripLimit (3 : Tile)) := by
  decide

/-- A state and operands that meet the hypotheses of clause 10 of PowerCompletes. -/
theorem witness_PowerCompletes_10 :
    (((wLease.modFe 3 fun f => { f with overlightN := false }) : State).pwr.por = false) ∧
    ((((wLease.modFe 3 fun f => { f with overlightN := false }) : State).fe (3 : Tile)).overlightN = false) ∧
    (((wLease.modFe 3 fun f => { f with overlightN := false }) : State).tripped (3 : Tile) = false) ∧
    ((((wLease.modFe 3 fun f => { f with overlightN := false }) : State).get P.RAIL_STATUS_OUT 0).testBit 8 = false) ∧
    (100 * usSt ≤ (((wLease.modFe 3 fun f => { f with overlightN := false }) : State).clock (msSt : Tm)).time.up) ∧
    (((wLease.modFe 3 fun f => { f with overlightN := false }) : State).tripLimit (3 : Tile) < (50000 : Nat)) := by
  decide

/-- A state and operands that meet the hypotheses of clause 11 of PowerCompletes. -/
theorem witness_PowerCompletes_11 :
    (wLease : State).pwr.por = false ∧
    hottest (Tbl.insert (1200 : Int) (wLease : State).pwr.sensors (16 : Fin 17)) = some (1200 : Int) := by
  decide

/-- A state and operands that meet the hypotheses of clause 12 of PowerCompletes. -/
theorem witness_PowerCompletes_12 :
    (wLease : State).pwr.por = false := by
  decide

/-- A state and operands that meet the hypotheses of clause 1 of HeldResetReleases. -/
theorem witness_HeldResetReleases_1 :
    ({ State.reset with pwr := { PwrSt.reset with por := true } } : State).pwr.por = true ∧
    ({ State.reset with pwr := { PwrSt.reset with por := true } } : State).pwr.shutdownHeld = false := by
  decide

/-- A state and operands that meet the hypotheses of clause 2 of HeldResetReleases. -/
theorem witness_HeldResetReleases_2 :
    ({ State.reset with pwr := { PwrSt.reset with por := true, shutdownHeld := true } } : State).pwr.por = true ∧
    ({ State.reset with pwr := { PwrSt.reset with por := true, shutdownHeld := true } } : State).pwr.shutdownHeld = true ∧
    ({ State.reset with pwr := { PwrSt.reset with por := true, shutdownHeld := true } } : State).pwr.locked = false := by
  decide

/-- A state and operands that meet the hypotheses of clause 3 of HeldResetReleases. -/
theorem witness_HeldResetReleases_3 :
    ({ State.reset with pwr := { PwrSt.reset with por := true, shutdownHeld := true } } : State).pwr.por = true ∧
    ({ State.reset with pwr := { PwrSt.reset with por := true, shutdownHeld := true } } : State).pwr.shutdownHeld = true := by
  decide

/-- A state and operands that meet the hypotheses of StepTakesTheFrontCommand. -/
theorem witness_StepTakesTheFrontCommand :
    step { State.reset with pending := [.leaseRenew 5 0 0, .ddrFence 6] } = exec (.leaseRenew 5 0 0) { State.reset with pending := [.ddrFence 6] } := by
  rfl

/-- A state and operands that meet the hypotheses of CommandsAnswerAndKeepTheQueue. -/
theorem witness_CommandsAnswerAndKeepTheQueue :
    (State.reset.withCommand (.ddrFence 6)).pending = .ddrFence 6 :: [] := by
  decide

/-- A state and operands that meet the hypotheses of MemoryStaysCanonical. -/
theorem witness_MemoryStaysCanonical :
    (State.reset.withCommand (.writePointAdvance 5 0)).MemoryCanonical := by
  decide

/-- A state and operands that meet the hypotheses of TimeNeverRunsBack. -/
theorem witness_TimeNeverRunsBack :
    ∀ p ∈ wSteps.time.steps, ∀ e, p.adopt = some e → wSteps.time.epoch < e := by
  simp [wSteps, State.reset, TimeSt.reset]

/-- A state and operands that meet the hypotheses of HeldResetIgnoresCommands. -/
theorem witness_HeldResetIgnoresCommands :
    ({ State.reset with pwr := { PwrSt.reset with por := true } } : State).pwr.por = true := by
  decide

/-- A state and operands that meet the hypotheses of clause 1 of FrozenConversionIsAbandoned. -/
theorem witness_FrozenConversionIsAbandoned_1 :
    ((State.reset.modHk 2 fun h => { h with run := some { Conv.reset with frozenAt := some 3 }, urgent := [⟨17, 1, 0, none⟩], entry := 9 } : State).pwr.por = false) ∧
    (((State.reset.modHk 2 fun h => { h with run := some { Conv.reset with frozenAt := some 3 }, urgent := [⟨17, 1, 0, none⟩], entry := 9 } : State).hk (2 : Tile)).run = some ({ Conv.reset with frozenAt := some 3 } : Conv)) ∧
    ({ Conv.reset with frozenAt := some 3 } : Conv).frozenAt = some (3 : Tm) ∧
    ((3 : Tm) + (State.reset.modHk 2 fun h => { h with run := some { Conv.reset with frozenAt := some 3 }, urgent := [⟨17, 1, 0, none⟩], entry := 9 } : State).get P.BLANK_GUARD_BLANK_MAX 0 * usSt < (State.reset.modHk 2 fun h => { h with run := some { Conv.reset with frozenAt := some 3 }, urgent := [⟨17, 1, 0, none⟩], entry := 9 } : State).instant (secSt : Tm)) := by
  decide

/-- A state and operands that meet the hypotheses of clause 2 of FrozenConversionIsAbandoned. -/
theorem witness_FrozenConversionIsAbandoned_2 :
    ((State.reset.modHk 2 fun h => { h with run := some { Conv.reset with frozenAt := some 3 } } : State).pwr.por = false) ∧
    (((State.reset.modHk 2 fun h => { h with run := some { Conv.reset with frozenAt := some 3 } } : State).hk (2 : Tile)).run = some ({ Conv.reset with frozenAt := some 3 } : Conv)) ∧
    ({ Conv.reset with frozenAt := some 3 } : Conv).frozenAt = some (3 : Tm) ∧
    ((State.reset.modHk 2 fun h => { h with run := some { Conv.reset with frozenAt := some 3 } } : State).instant (10000 * usSt + 3 : Tm) ≤ (3 : Tm) + (State.reset.modHk 2 fun h => { h with run := some { Conv.reset with frozenAt := some 3 } } : State).get P.BLANK_GUARD_BLANK_MAX 0 * usSt) := by
  decide

/-- A state and operands that meet the hypotheses of clause 1 of TimeOverThreshold. -/
theorem witness_TimeOverThreshold_1 :
    (State.reset.putB P.FAST_CFG_ENABLE 77 true : State).pwr.por = false ∧
    (State.reset.putB P.FAST_CFG_ENABLE 77 true : State).flag P.FAST_CFG_ENABLE (77 : Ch) = true ∧
    (State.reset.putB P.FAST_CFG_ENABLE 77 true : State).abut = false ∧
    (((State.reset.putB P.FAST_CFG_ENABLE 77 true : State).td (77 : Ch)).last.all (fun l => decide (l + 3072 ≤ (State.reset.putB P.FAST_CFG_ENABLE 77 true : State).instant (999999 : Tm))) = true) := by
  decide

/-- A state and operands that meet the hypotheses of clause 2 of TimeOverThreshold. -/
theorem witness_TimeOverThreshold_2 :
    ((State.reset.modTd 77 fun x => { x with open_ := [{ HitSt.reset with lead := 1024 }] } : State).pwr.por = false) ∧
    (((State.reset.modTd 77 fun x => { x with open_ := [{ HitSt.reset with lead := 1024 }] } : State).td (77 : Ch)).open_.find? (·.trail.isNone) = some ({ HitSt.reset with lead := 1024 } : HitSt)) ∧
    ((State.reset.modTd 77 fun x => { x with open_ := [{ HitSt.reset with lead := 1024 }] } : State).instant (5900 : Tm) < ({ HitSt.reset with lead := 1024 } : HitSt).lead + 4095 * ccSt) := by
  decide

/-- A state and operands that meet the hypotheses of clause 3 of TimeOverThreshold. -/
theorem witness_TimeOverThreshold_3 :
    ((State.reset.modTd 77 fun x => { x with open_ := [{ HitSt.reset with lead := 1024 }] } : State).pwr.por = false) ∧
    (((State.reset.modTd 77 fun x => { x with open_ := [{ HitSt.reset with lead := 1024 }] } : State).td (77 : Ch)).open_.find? (·.trail.isNone) = some ({ HitSt.reset with lead := 1024 } : HitSt)) ∧
    (({ HitSt.reset with lead := 1024 } : HitSt).lead + 4095 * ccSt ≤ (State.reset.modTd 77 fun x => { x with open_ := [{ HitSt.reset with lead := 1024 }] } : State).instant (4096 * 1024 : Tm)) := by
  decide

/-- A state and operands that meet the hypotheses of clause 4 of TimeOverThreshold. -/
theorem witness_TimeOverThreshold_4 :
    (((State.reset.modTd 77 fun x => { x with open_ := [{ HitSt.reset with lead := 1024, trail := some 5000, totSat := true, tot := 4095 }] }).modFeCh 77 fun x => { x with high := true } : State).pwr.por = false) ∧
    ((((State.reset.modTd 77 fun x => { x with open_ := [{ HitSt.reset with lead := 1024, trail := some 5000, totSat := true, tot := 4095 }] }).modFeCh 77 fun x => { x with high := true } : State).td (77 : Ch)).open_.all (fun h => h.trail.isSome) = true) := by
  decide

/-- A state and operands that meet the hypotheses of WriteBackNotifies. -/
theorem witness_WriteBackNotifies :
    (((State.reset.putB P.CTX_CFG_NOTIFY_EN 9 true).modCtx 9 fun x => { x with arm := true, bufs := [Buf.reset] }).flag P.CTX_CFG_NOTIFY_EN 9 = true ∧ (((State.reset.putB P.CTX_CFG_NOTIFY_EN 9 true).modCtx 9 fun x => { x with arm := true, bufs := [Buf.reset] }).ctxOf 9).arm = true ∧ (((State.reset.putB P.CTX_CFG_NOTIFY_EN 9 true).modCtx 9 fun x => { x with arm := true, bufs := [Buf.reset] }).ctxOf 9).bufs.length ≤ 1) := by
  decide

/-- A state and operands that meet the hypotheses of WriteBackNotifies. -/
theorem witness_WriteBackNotifies_2 :
    ¬(State.reset.flag P.CTX_CFG_NOTIFY_EN 9 = true ∧ (State.reset.ctxOf 9).arm = true) := by
  decide

/-- A state and operands that meet the hypotheses of clause 1 of InstancesStayApart. -/
theorem witness_InstancesStayApart_1 :
    (wVisit : State).pwr.por = false ∧
    ((wVisit : State).fe (3 : Tile)).visit = some (7 : Nat) ∧
    (7 : Nat) < 16 := by
  decide

/-- A state and operands that meet the hypotheses of clause 2 of InstancesStayApart. -/
theorem witness_InstancesStayApart_2 :
    ({ State.reset.putB P.CH_STATUS_BROKEN 200 true with afe := { AfeSt.reset with leave := [200, 3] } } : State).pwr.por = false := by
  decide

/-- A state and operands that meet the hypotheses of clause 3 of InstancesStayApart. -/
theorem witness_InstancesStayApart_3 :
    (State.reset.put P.TRIP_FUSED_FUSED 2 500 : State).pwr.por = false := by
  decide

/-- A state and operands that meet the hypotheses of clause 4 of InstancesStayApart. -/
theorem witness_InstancesStayApart_4 :
    (withHolder 1 ((State.reset.putB P.TRIP_STATUS_TRIPPED 2 true).putB P.LOOP_STATUS_TRIP_HELD 2 true) : State).pwr.por = false := by
  decide

/-- A state and operands that meet the hypotheses of clause 5 of InstancesStayApart. -/
theorem witness_InstancesStayApart_5 :
    (State.reset : State).pwr.por = false := by
  decide

/-- A state and operands that meet the hypotheses of clause 6 of InstancesStayApart. -/
theorem witness_InstancesStayApart_6 :
    (State.reset.putB P.FAST_CFG_ENABLE 77 true : State).pwr.por = false := by
  decide

/-- A state and operands that meet the hypotheses of clause 7 of InstancesStayApart. -/
theorem witness_InstancesStayApart_7 :
    ((State.reset.modGauge 3 fun x => { x with start := some 4, input := 1, prescale := 4, skip := 3 } : State).pwr.por = false) := by
  decide

/-- A state and operands that meet the hypotheses of clause 8 of InstancesStayApart. -/
theorem witness_InstancesStayApart_8 :
    (((State.reset.putB P.TOUT_CFG_ENABLE 5 true).modTout 5 fun o => { o with next := some 40 } : State).pwr.por = false) := by
  decide

/-- A state and operands that meet the hypotheses of clause 9 of InstancesStayApart. -/
theorem witness_InstancesStayApart_9 :
    (State.reset.put P.ACT_TIME_TIME_NS 63 1000000000 : State).pwr.por = false := by
  decide

/-- A state and operands that meet the hypotheses of clause 10 of InstancesStayApart. -/
theorem witness_InstancesStayApart_10 :
    (State.reset : State).pwr.por = false := by
  decide

/-- A state and operands that meet the hypotheses of clause 11 of InstancesStayApart. -/
theorem witness_InstancesStayApart_11 :
    (wCtx : State).pwr.por = false := by
  decide

/-- A state and operands that meet the hypotheses of clause 12 of InstancesStayApart. -/
theorem witness_InstancesStayApart_12 :
    (wCtx : State).pwr.por = false := by
  decide

/-- A state and operands that meet the hypotheses of clause 13 of InstancesStayApart. -/
theorem witness_InstancesStayApart_13 :
    ((wLease.setLane 9 2).putB P.LANE_STATUS_CDR_LOCK 9 true : State).pwr.por = false := by
  decide

/-- A state and operands that meet the hypotheses of clause 14 of InstancesStayApart. -/
theorem witness_InstancesStayApart_14 :
    (wHost 1 : State).pwr.por = false := by
  decide

/-- A state and operands that meet the hypotheses of clause 15 of InstancesStayApart. -/
theorem witness_InstancesStayApart_15 :
    (wLease.setNonce 1 (some ⟨[], 5⟩) : State).pwr.por = false := by
  decide

/-- A state and operands that meet the hypotheses of clause 16 of InstancesStayApart. -/
theorem witness_InstancesStayApart_16 :
    (wLease : State).pwr.por = false := by
  decide

/-- A state and operands that meet the hypotheses of MemoryBytesOutsideStoresStay. -/
theorem witness_MemoryBytesOutsideStoresStay :
    State.reset.pwr.por = false ∧ Tbl.get none ({ wHost 1 with press := { PressSt.reset with run := [(5, some wJob)] } } : State).press.run 5 = some wJob ∧ (wHost 1).pwr.por = false := by
  decide

/-- A state and operands that meet the hypotheses of MemoryBytesOutsideStoresStay. -/
theorem witness_MemoryBytesOutsideStoresStay_2 :
    ((State.reset.setFlight 5 [{ CtxUnit.reset with ctx := 9, ready := true }]).putB P.DDR_STATUS_ONLINE 0 true |>.clock 9).nextUnit 5 (((State.reset.setFlight 5 [{ CtxUnit.reset with ctx := 9, ready := true }]).putB P.DDR_STATUS_ONLINE 0 true).flight 5) [] = some { CtxUnit.reset with ctx := 9, ready := true } := by
  decide

/-- A state and operands that meet the hypotheses of FrontEndFrames. -/
theorem witness_FrontEndFrames :
    State.reset.pwr.por = false ∧ (match exec (.settleWindowExpire 5 3) State.reset with | .next _ => true | _ => false) = true := by
  decide

/-- A state and operands that meet the hypotheses of EventPathFrames. -/
theorem witness_EventPathFrames :
    State.reset.pwr.por = false ∧ (match exec (.writePointAdvance 5 0) State.reset with | .next _ => true | _ => false) = true := by
  decide

/-- A state and operands that meet the hypotheses of LinkFrames. -/
theorem witness_LinkFrames :
    State.reset.pwr.por = false ∧ (match exec (.ddrFence 5) State.reset with | .next _ => true | _ => false) = true := by
  decide

/-- A state and operands that meet the hypotheses of ControlFrames. -/
theorem witness_ControlFrames :
    State.reset.pwr.por = false ∧ (match exec (.leaseRenew 5 0 0) State.reset with | .next _ => true | _ => false) = true := by
  decide

end Sys2Proof.Tests
end

namespace Sys2Proof.Machine

open Sys2Proof

/-! ### What shared operations leave alone -/

@[simp] theorem State.raise_time (s : State) (n : Nat) : (s.raise n).time = s.time := (State.raise_only s n).1 .time (by decide)
@[simp] theorem State.raise_host (s : State) (n : Nat) : (s.raise n).host = s.host := (State.raise_only s n).1 .host (by decide)
@[simp] theorem State.raise_mbox (s : State) (n : Nat) : (s.raise n).mbox = s.mbox := (State.raise_only s n).1 .mbox (by decide)

@[simp] theorem State.record_time (s : State) (w : Who) (seq status : Nat) (result : W64) :
    (s.record w seq status result).time = s.time := rfl
@[simp] theorem State.record_wait (s : State) (w : Who) (seq status : Nat) (result : W64) :
    (s.record w seq status result).mbox.wait = s.mbox.wait := rfl

/-- The newest entry of a history is the completion just recorded (R388). -/
theorem State.record_newest (s : State) (w : Who) (seq status : Nat) (result : W64) :
    (Tbl.get [] (s.record w seq status result).mbox.hist w.key).head? = some ⟨seq, status, result⟩ := by
  simp [State.record]

@[simp] theorem State.post_time (s : State) (p : Post) : (s.post p).time = s.time := (State.post_only s p).1 .time (by decide)

/-- Posting on a host mailbox touches nothing of the firmware's tables. -/
theorem State.postHost_mbox (s : State) (p : Post) (m : Nat) : (s.postHost p m).mbox = s.mbox :=
  (State.postHost_only s p m).1 .mbox (by decide)

theorem State.raiseIf_mbox (s : State) (b : Bool) (n : Nat) : (s.raiseIf b n).mbox = s.mbox :=
  (State.raiseIf_only s b n).1 .mbox (by decide)

/-- A post leaves the histories and the waiting completions. -/
theorem State.post_tables (s : State) (p : Post) : (s.post p).mbox.hist = s.mbox.hist ∧ (s.post p).mbox.wait = s.mbox.wait := by
  unfold State.post
  dsimp only
  split
  · simp [State.postHost_mbox]
  · simp [State.postHost_mbox]
  · simp [State.raiseIf_mbox]
  · simp [State.raiseIf_mbox]
  · split <;> simp [State.raiseIf_mbox]

/-! ### The course of a mailbox command (R380, R384 to R388) -/

/-- A command is counted, and its sequence accepted (R388). -/
def State.noted (s : State) (w : Who) (seq : Nat) : State := (s.bump P.MB_STATS_COMMANDS w.mb).seqAccept w seq

theorem State.noted_only (s : State) (w : Who) (seq : Nat) : Only [.mbox] [0x0F000302, 0x0F000303] s (s.noted w seq) := by
  unfold State.noted
  simp (disch := decide) only [Only.refl_iff, Only.bump_iff, Only.step_iff (State.seqAccept_only _ _ _)]

@[simp] theorem State.noted_time (s : State) (w : Who) (seq : Nat) : (s.noted w seq).time = s.time :=
  (s.noted_only w seq).1 .time (by decide)

theorem State.noted_tables (s : State) (w : Who) (seq : Nat) :
    (s.noted w seq).mbox.wait = s.mbox.wait ∧ (s.noted w seq).mbox.atNs = s.mbox.atNs := by
  unfold State.noted State.seqAccept
  dsimp only
  split <;> simp

/-- A read posts its answer at once. -/
theorem State.finish_read (s : State) (w : Who) (c : Cmd) (d : Done) :
    s.finish w c .r d = (d.s.bump P.MB_STATS_COMMANDS w.mb).post (c.post w d.status d.result d.response true) := by
  rw [State.finish, if_pos rfl]

/-- A change that is done: its completion joins the waiting ones. -/
theorem State.finish_done {s : State} {w : Who} {c : Cmd} {k : Cls} {d : Done} (hk : k ≠ .r) (hb : d.background = false)
    (hs : d.status = stOk) :
    s.finish w c k d = { d.s.noted w c.seq with
      mbox := { (d.s.noted w c.seq).mbox with wait := (d.s.noted w c.seq).mbox.wait ++ [c.wait w d d.s.time.next] } } := by
  have ht : ((d.s.bump P.MB_STATS_COMMANDS w.mb).seqAccept w c.seq).time.next = d.s.time.next :=
    congrArg TimeSt.next (d.s.noted_time w c.seq)
  simp only [State.finish, if_neg hk, hb, hs, Bool.false_eq_true, if_false, if_true, ht]
  rfl

/-- A change that fails is recorded and posts at once. -/
theorem State.finish_failed {s : State} {w : Who} {c : Cmd} {k : Cls} {d : Done} (hk : k ≠ .r) (hb : d.background = false)
    (hs : d.status ≠ stOk) :
    s.finish w c k d = ((d.s.noted w c.seq).record w c.seq d.status d.result).post (c.post w d.status d.result d.response true) := by
  simp only [State.finish, if_neg hk, hb, Bool.false_eq_true, if_false, if_neg hs]
  rfl

section Done

variable {s : State} {w : Who} {c : Cmd} {k : Cls} {d : Done} (hk : k ≠ .r) (hb : d.background = false) (hs : d.status = stOk)
include hk hb hs

theorem State.finish_done_only : Only [.mbox] [0x0F000302, 0x0F000303] d.s (s.finish w c k d) := by
  rw [State.finish_done hk hb hs]
  exact (Only.set_mbox (by decide)).2 (d.s.noted_only w c.seq)

theorem State.finish_done_time : (s.finish w c k d).time = d.s.time := (State.finish_done_only hk hb hs).1 .time (by decide)
theorem State.finish_done_ev : (s.finish w c k d).ev = d.s.ev := (State.finish_done_only hk hb hs).1 .ev (by decide)
theorem State.finish_done_sec : (s.finish w c k d).sec = d.s.sec := (State.finish_done_only hk hb hs).1 .sec (by decide)

theorem State.finish_done_atNs : (s.finish w c k d).mbox.atNs = d.s.mbox.atNs := by
  rw [State.finish_done hk hb hs]
  exact (d.s.noted_tables w c.seq).2

/-- Its result waits for the commit of the next boundary (R387). -/
theorem State.finish_done_owed : Owed c w d.result (s.finish w c k d) := by
  rw [State.finish_done hk hb hs]
  simp [Owed, Cmd.wait, hb, hs]

end Done

section Failed

variable {s : State} {w : Who} {c : Cmd} {k : Cls} {d : Done} (hk : k ≠ .r) (hb : d.background = false) (hs : d.status ≠ stOk)
include hk hb hs

theorem State.finish_failed_time : (s.finish w c k d).time = d.s.time := by
  rw [State.finish_failed hk hb hs]
  simp

theorem State.finish_failed_wait : (s.finish w c k d).mbox.wait = d.s.mbox.wait := by
  rw [State.finish_failed hk hb hs, (State.post_tables _ _).2, State.record_wait, (d.s.noted_tables w c.seq).1]

theorem State.finish_failed_newest :
    (Tbl.get [] (s.finish w c k d).mbox.hist w.key).head? = some ⟨c.seq, d.status, d.result⟩ := by
  rw [State.finish_failed hk hb hs, (State.post_tables _ _).1, State.record_newest]

end Failed

/-- The effect of a command begins with it taken out of the accepted ones, and nothing else changed (R385). -/
theorem State.met_eq (s : State) (t : Tm) (mb : Mb) (c : Cmd) :
    ∃ x, s.met t mb c = { s.clock t with mbox := { s.mbox with fetched := x } } := by
  unfold State.met State.sender
  split
  · exact ⟨_, rfl⟩
  · exact ⟨s.mbox.fetched, rfl⟩

@[simp] theorem State.met_pend (s : State) (t : Tm) (mb : Mb) (c : Cmd) : (s.met t mb c).time.pend = s.time.pend := by
  obtain ⟨x, hx⟩ := s.met_eq t mb c
  rw [hx]; rfl
@[simp] theorem State.met_wait (s : State) (t : Tm) (mb : Mb) (c : Cmd) : (s.met t mb c).mbox.wait = s.mbox.wait := by
  obtain ⟨x, hx⟩ := s.met_eq t mb c
  rw [hx]
@[simp] theorem State.met_atNs (s : State) (t : Tm) (mb : Mb) (c : Cmd) : (s.met t mb c).mbox.atNs = s.mbox.atNs := by
  obtain ⟨x, hx⟩ := s.met_eq t mb c
  rw [hx]
@[simp] theorem State.met_regs (s : State) (t : Tm) (mb : Mb) (c : Cmd) : (s.met t mb c).regs = s.regs := by
  obtain ⟨x, hx⟩ := s.met_eq t mb c
  rw [hx]; rfl
@[simp] theorem State.met_now (s : State) (t : Tm) (mb : Mb) (c : Cmd) : (s.met t mb c).time.now = s.instant t := by
  obtain ⟨x, hx⟩ := s.met_eq t mb c
  rw [hx]; rfl
@[simp] theorem State.met_armed (s : State) (t : Tm) (mb : Mb) (c : Cmd) (cls : Nat) : (s.met t mb c).armed cls = s.armed cls := by
  obtain ⟨x, hx⟩ := s.met_eq t mb c
  rw [hx]; rfl
@[simp] theorem State.met_dueNow (s : State) (t : Tm) (mb : Mb) (c : Cmd) : (s.met t mb c).dueNow = (s.clock t).dueNow := by
  obtain ⟨x, hx⟩ := s.met_eq t mb c
  rw [hx]; rfl
@[simp] theorem State.met_dueFor (s : State) (t : Tm) (mb : Mb) (c : Cmd) (cls : Nat) :
    (s.met t mb c).dueFor cls = (s.clock t).dueFor cls := by
  obtain ⟨x, hx⟩ := s.met_eq t mb c
  rw [hx]; rfl
@[simp] theorem State.met_spanLenAt (s : State) (t : Tm) (mb : Mb) (c : Cmd) (b : Tm) :
    (s.met t mb c).spanLenAt b = (s.clock t).spanLenAt b := by
  obtain ⟨x, hx⟩ := s.met_eq t mb c
  rw [hx]; rfl

/-- A command that the lease holder takes for execution runs its effect and finishes. -/
theorem State.command_served {s : State} {t : Tm} {mb : Mb} {c : Cmd} {need : Nat} {k : Cls} (h : Served s t mb c need k)
    (f : State → Who → Done) :
    (s.clock t).command mb c need f = (s.met t mb c).finish (s.sentBy t mb c) c k (f (s.met t mb c) (s.sentBy t mb c)) := by
  obtain ⟨hl, he, ho, hv, hf⟩ := h
  have hl' : (s.clock t).leased = true := hl
  unfold State.met State.sentBy at *
  simp [State.command, hl', he, ho, hv, hf]

/-- To show what a mailbox command leaves, show it of its finished effect. -/
theorem acts_of_served {s : State} {t : Tm} {mb : Mb} {c : Cmd} {need : Nat} {k : Cls} {i : Instr} {f : State → Who → Done}
    {Q : State → Prop} (hp : s.pwr.por = false) (hi : exec i s = live t s fun s => s.command mb c need f) (h : Served s t mb c need k)
    (hQ : Q ((s.met t mb c).finish (s.sentBy t mb c) c k (f (s.met t mb c) (s.sentBy t mb c)))) : Acts i s Q :=
  ⟨_, by rw [hi, live_of hp, State.command_served h], hQ⟩

/-! ### Register writes (R6, R213, R360 to R363, R366, R367) -/

/-- An aligned 4-byte write acts on the register at its offset (R6, R360). -/
theorem acts_registerWrite_word {s u : State} {t : Tm} {bar : Fin 2} {offset : Nat} {value : W64} {P : State → Prop}
    (hp : s.pwr.por = false) (ha : offset % 4 = 0) (hu : (s.clock t).barWrite bar offset (value.toNat % 2 ^ 32) = u) (h : P u) :
    Acts (.registerWrite t bar offset 4 value) s P :=
  ⟨u, by simp [exec, execRegisterWrite, live_of hp, ha, ← hu], h⟩

/-- An aligned 8-byte write of a base of a host mailbox takes it whole (R366). -/
theorem exec_registerWrite_base {s : State} (hp : s.pwr.por = false) (t : Tm) (m : Fin 2) (value : W64) :
    exec (.registerWrite t 0 (0x2000 + 0x1000 * m.val) 8 value) s = .next ((s.clock t).baseWrite m.val 0 (.whole value)) := by
  have hm : (0x2000 + 0x1000 * m.val) / 0x1000 - 2 = m.val ∧ (0x2000 + 0x1000 * m.val) % 0x1000 = 0 := by omega
  have hr : 0x2000 + 0x1000 * m.val < 0x4000 ∧ (0x2000 + 0x1000 * m.val) % 8 = 0 := by omega
  simp [exec, execRegisterWrite, live_of hp, hm, hr]

/-- A write of any other size or alignment only brings the time base to its instant (R366). -/
theorem exec_registerWrite_other {s : State} (hp : s.pwr.por = false) (t : Tm) (bar : Fin 2) (value : W64) {offset size : Nat}
    (h4 : ¬(size = 4 ∧ offset % 4 = 0)) (h8 : ¬(size = 8 ∧ offset % 8 = 0)) :
    exec (.registerWrite t bar offset size value) s = .next (s.clock t) := by
  simp [exec, execRegisterWrite, live_of hp, h4, h8]

/-- BAR0 from 0x2000 on holds the blocks of MB0 and MB1 (R360, R362). -/
theorem State.bar0Write_mailbox (s : State) {m off : Nat} (v : Nat) (hm : m < 2) (ho : off < 0x1000) :
    s.bar0Write (0x2000 + 0x1000 * m + off) v = s.mbRegWrite m off v := by
  have hd : (0x2000 + 0x1000 * m + off) / 0x1000 - 2 = m ∧ (0x2000 + 0x1000 * m + off) % 0x1000 = off := by omega
  unfold State.bar0Write
  rw [if_neg (by omega), if_neg (by omega), if_neg (by omega), if_pos (by omega), hd.1, hd.2]

/-- A doorbell of a context stands at the start of its 64 bytes of BAR2 (R213). -/
theorem State.bar2Write_doorbell (s : State) {c : Nat} (v : Nat) (hc : c < 1024) :
    s.bar2Write (64 * c) v = s.ctxDoorbell c (v % 65536) := by
  have hd : 64 * c / 64 = c ∧ 64 * c % 64 = 0 := by omega
  simp [State.bar2Write, hd, hc]

/-- ARM of a context stands at 0x0C of its 64 bytes of BAR2 (R213, R214). -/
theorem State.bar2Write_arm (s : State) {c : Nat} (v : Nat) (hc : c < 1024) (hv : bitOf v 0 = true) :
    s.bar2Write (64 * c + 0x0C) v = s.modCtx c fun x => { x with arm := true } := by
  have hd : (64 * c + 12) / 64 = c ∧ (64 * c + 12) % 64 = 12 := by omega
  simp [State.bar2Write, hd, hc, hv]

/-- A doorbell within the ring stores its index (R213). -/
theorem State.ctxDoorbell_within {s : State} {c prod : Nat}
    (h : (prod + 65536 - (s.ctxOf c).cons) % 65536 ≤ 2 ^ s.get P.CTX_RING_CFG_LOG2 c) :
    s.ctxDoorbell c prod = s.modCtx c fun x => { x with prod := prod } := by
  rw [State.ctxDoorbell, if_neg (by omega)]

/-- GO with the STATUS opcode completes at once (R363, R394). -/
theorem State.ksRegWrite_go_status {s : State} (hg : s.host.ksGo = false) (hd : s.host.ksDone = false) (ho : s.host.ksOp = 1) :
    s.ksRegWrite 0x01C 1 = s.mb4Done stOk s.mb4Result := by
  simp [State.ksRegWrite, State.mb4Go, bitOf, hg, hd, ho]

/-- A completed MB4 command leaves its status and result in the window. -/
theorem State.mb4Done_window (s : State) (status result : Nat) :
    (s.mb4Done status result).host.ksStatus = status ∧ (s.mb4Done status result).host.ksResult = result := by
  simp [State.mb4Done]

/-- It raises source 4 (R363). -/
theorem State.mb4Done_raised (s : State) (status result : Nat) : Raised 4 (s.mb4Done status result) :=
  State.raise_raised _ (by decide)

/-- Settles O37: each clause finds the register that its write reaches. -/
theorem registerWriteCompletes : Obligations.RegisterWriteCompletes := by
  unfold Obligations.RegisterWriteCompletes
  intro s t hp
  refine ⟨?err, ?shared, ?doorbell, ?base, ?go, ?ctxDoorbell, ?arm, ?other⟩
  case err =>
    rintro _ _ _ value rfl rfl rfl
    exact acts_registerWrite_word hp (by decide) rfl rfl
  case shared =>
    rintro _ _ _ value rfl rfl rfl
    exact acts_registerWrite_word hp (by decide) rfl rfl
  case doorbell =>
    rintro _ _ _ value m rfl rfl rfl
    have ho : 0x2018 + 0x1000 * m.val = 0x2000 + 0x1000 * m.val + 0x018 := by omega
    refine acts_registerWrite_word hp (by omega) (ho ▸ State.bar0Write_mailbox _ _ m.isLt (by decide)) ?_
    simp [State.mbRegWrite]
  case base =>
    rintro _ _ _ value m rfl rfl rfl he
    refine ⟨_, exec_registerWrite_base hp t m value, ?_⟩
    have he' : ((s.clock t).mbRegs m.val).enable = false := he
    simp [State.baseWrite, he']
  case go =>
    rintro _ _ _ value rfl rfl rfl hv hg hd ho
    obtain ⟨hs, hr⟩ := (s.clock t).mb4Done_window stOk (s.clock t).mb4Result
    exact acts_registerWrite_word hp (by decide) (hv ▸ State.ksRegWrite_go_status hg hd ho) ⟨hs, hr, State.mb4Done_raised _ _ _⟩
  case ctxDoorbell =>
    rintro _ _ _ value c rfl rfl rfl h
    have hm : value.toNat % 2 ^ 32 % 65536 = value.toNat % 65536 := by omega
    have hw : (value.toNat % 65536 + 65536 - (s.ctxOf c).cons) % 65536 ≤ 2 ^ s.get P.CTX_RING_CFG_LOG2 c :=
      le_trans (by omega) h
    refine acts_registerWrite_word hp (by omega) (State.bar2Write_doorbell _ _ c.isLt) ?_
    rw [hm, State.ctxDoorbell_within (s := s.clock t) hw]
    simp
  case arm =>
    rintro _ _ _ value c rfl rfl rfl hv
    refine acts_registerWrite_word hp (by omega) (State.bar2Write_arm _ _ c.isLt (by rw [hv]; decide)) ?_
    simp
  case other =>
    intro bar offset size value h4 h8
    exact ⟨_, exec_registerWrite_other hp t bar value h4 h8, rfl⟩

/-! ### A release (R325) -/

/-- Nothing of a class is held any more, and the release has been reported. -/
abbrev Released (cls : Nat) (u : State) : Prop := (∀ x ∈ u.time.pend, x.cls = cls → x.due.isSome = true) ∧ Raised 70 u

/-- A held value of the class gets the boundary, every other value stays. -/
theorem State.releaseClass_pend (s : State) (cls : Nat) :
    (s.releaseClass cls).time.pend =
      s.time.pend.map fun p => if p.cls == cls && p.due.isNone then { p with due := some s.dueNow } else p := by
  simp [State.releaseClass]

theorem State.releaseClass_released (s : State) (cls : Nat) : Released cls (s.releaseClass cls) := by
  refine ⟨?_, State.raise_raised _ (by decide)⟩
  rw [State.releaseClass_pend]
  intro x hx hc
  obtain ⟨p, -, rfl⟩ := List.mem_map.1 hx
  by_cases h : p.cls == cls && p.due.isNone
  · simp [h]
  · rw [if_neg h] at hc ⊢
    simpa [hc, Option.isSome_iff_ne_none] using h

/-- The release of another class leaves a released one released. -/
theorem State.releaseClass_keeps {s : State} {cls : Nat} (k : Nat) (h : Released cls s) : Released cls (s.releaseClass k) := by
  refine ⟨?_, State.raise_keeps _ _ h.2⟩
  rw [State.releaseClass_pend]
  intro x hx hc
  obtain ⟨p, hp, rfl⟩ := List.mem_map.1 hx
  by_cases hk : p.cls == k && p.due.isNone
  · rw [if_pos hk]; rfl
  · rw [if_neg hk] at hc ⊢
    exact h.1 p hp hc

/-- Working through a list reaches every element of it. -/
theorem State.each_reaches {Q : State → Prop} {f : State → Nat → State} {k : Nat} (hr : ∀ s, Q (f s k))
    (hs : ∀ s j, Q s → Q (f s j)) {l : List Nat} (hk : k ∈ l) (s : State) : Q (s.each l f) := by
  have keep : ∀ (l : List Nat) (s : State), Q s → Q (s.each l f) := by
    intro l
    induction l with
    | nil => exact fun _ h => h
    | cons j l ih => exact fun s h => ih _ (hs s j h)
  induction l generalizing s with
  | nil => cases hk
  | cons j l ih =>
    rcases List.mem_cons.1 hk with rfl | hk
    · exact keep l _ (hr s)
    · exact ih hk _

/-- A release of a mask releases each armed class of it. -/
theorem State.release_released (s : State) {mask : Nat} (k : Fin 8) (hm : mask.testBit k = true) (ha : s.armed k = true) :
    Released k (s.release mask) :=
  State.each_reaches (fun s => s.releaseClass_released k) (fun _ j h => State.releaseClass_keeps j h)
    (List.mem_filter.2 ⟨List.mem_range.2 k.isLt, by simp [hm, ha]⟩) s

/-! ### Fields under a mask -/

/-- The mask of a field holds the bits of its place. -/
theorem Fld.mask_getLsbD (f : Fld) {j : Nat} (hj : j < f.width) (h : f.lo + f.width ≤ 64) : f.mask.getLsbD (f.lo + j) = true := by
  unfold Fld.mask
  rw [BitVec.getLsbD_ofNat, Nat.testBit_mul_two_pow, Nat.add_sub_cancel_left, Nat.testBit_two_pow_sub_one]
  simp only [Nat.le_add_right, decide_true, hj, Bool.and_self, Bool.and_true, decide_eq_true_eq]
  omega

/-- Words that agree under a field's mask hold the same value in it. -/
theorem Fld.of_congr {f : Fld} {a b : W64} (h : f.lo + f.width ≤ 64) (he : a &&& f.mask = b &&& f.mask) : f.of a = f.of b := by
  refine Nat.eq_of_testBit_eq fun j => ?_
  simp only [Fld.of, Nat.testBit_mod_two_pow, Nat.testBit_div_two_pow]
  by_cases hj : j < f.width
  · have hb := congrArg (fun w : W64 => w.getLsbD (f.lo + j)) he
    simp only [BitVec.getLsbD_and, Fld.mask_getLsbD f hj h, Bool.and_true] at hb
    simpa only [hj, decide_true, Bool.true_and, BitVec.testBit_toNat, Nat.add_comm] using hb
  · simp [hj]

/-- A mixed word takes a field from the mask alone: what else the mask covers does not matter. -/
theorem Fld.of_mixBits_and {f : Fld} (old new mask : W64) {m : W64} (h : f.lo + f.width ≤ 64) (hm : m &&& f.mask = f.mask) :
    f.of (mixBits old new (mask &&& m)) = f.of (mixBits old new mask) := by
  refine Fld.of_congr h (BitVec.eq_of_getLsbD_eq fun i _ => ?_)
  have hb := congrArg (fun w : W64 => w.getLsbD i) hm
  simp only [BitVec.getLsbD_and] at hb
  simp only [mixBits, BitVec.getLsbD_and, BitVec.getLsbD_or, BitVec.getLsbD_not]
  revert hb
  generalize f.mask.getLsbD i = x, m.getLsbD i = y
  cases x <;> cases y <;> simp

/-! ### One entry of a set (R325, R396) -/

/-- Parameters whose set does more than store the fields of its word. -/
def actingPids : List Nat :=
  [P.TRIP_LIMIT_LIMIT.pid, P.TRIP_STATUS_TRIPPED.pid, P.CH_STATUS_BROKEN.pid, P.HK_URGENT_INPUT.pid, P.LOOP_REP_N.pid, P.MAN_U_U.pid,
   P.HVSET_DUTY_DUTY.pid, P.CTX_CTRL_OP.pid, P.LANE_STATUS_FLAPPED.pid, P.LANE_LOOP_MODE.pid, P.PRBS_CFG_POLY.pid,
   P.PRBS_INJECT_ONE.pid, P.MAINT_CTRL_UNIT.pid, P.SWAP_CFG_ARMED.pid, P.ACT_CFG_KIND.pid, P.SEC_CFG_SVN_COMMIT.pid,
   P.OWNER_ECDSA_DIG_WORD.pid, P.OWNER_LMS_DIG_WORD.pid, P.OPER_KEY_LO_ID.pid, P.OPER_KEY_HI_ID.pid]

/-- A set of any other parameter has no effect beside its word. -/
theorem State.setEffect_of_not_acting (s : State) {n : Named} (h : n.par.pid ∉ actingPids) (i : Nat) (mask bits old new : W64) :
    s.setEffect n i mask bits old new = (s, some stOk) := by
  simp only [actingPids, List.mem_cons, List.not_mem_nil, or_false, not_or] at h
  simp [State.setEffect, h]

/-- The word of an index after a set's entry, as the table then holds it. -/
def State.entryWord (s : State) (n : Named) (i : Nat) (e : Entry) : W64 :=
  let cur := n.par.inTable s.regs (n.id i)
  let stored := if ownStore.contains n.par.pid then cur
    else mixBits cur e.value (e.mask &&& n.par.mask fun f => f.acc == .rw || f.acc == .rwm)
  stored &&& ~~~ (e.value &&& e.mask &&& n.clears)

/-- The state with that word. -/
def State.withEntry (s : State) (n : Named) (i : Nat) (e : Entry) : State :=
  { s with regs := n.par.setIn s.regs (n.id i) (s.entryWord n i e) }

theorem State.withEntry_time (s : State) (n : Named) (i : Nat) (e : Entry) : (s.withEntry n i e).time = s.time :=
  State.with_regs_time s _

/-- A set of a parameter that does not act, where it passes its checks, stores its word and keeps what is to be kept. -/
theorem State.instSet_of_not_acting {s : State} {n : Named} {cls i : Nat} {e : Entry} (h : n.par.pid ∉ actingPids)
    (hs : (s.instSet n cls e i).status = stOk) :
    s.instSet n cls e i = ⟨(s.withEntry n i e).instKeep n cls e i (s.newWord n i e), stOk, none, false⟩ := by
  have he : s.storeEntry n i e = (s.withEntry n i e, some stOk) := by
    simp only [State.storeEntry, State.setEffect_of_not_acting _ h, State.withEntry, State.entryWord]
  by_cases hc : s.instCheck n i cls e = stOk
  · simp [State.instSet, hc, he]
  · simp only [State.instSet, ne_eq, hc, not_false_eq_true, if_true] at hs

/-- An entry that passes acts on the indices it names. -/
theorem State.entrySet_passed {s : State} {n : Named} {cls : Nat} {e : Entry} (hn : named e.id = some n)
    (hs : (s.entrySet cls e).status = stOk) : s.entrySet cls e = s.instsSet n cls e false n.insts := by
  simp only [State.entrySet, hn] at hs ⊢
  split_ifs at hs ⊢
  · exact absurd (show stBadParam = stOk from hs) (by decide)
  · exact absurd (show stDenied = stOk from hs) (by decide)
  · rfl

/-- An entry for one index that passes is the set of that index (R8). -/
theorem State.entrySet_one {s : State} {n : Named} {cls : Nat} {e : Entry} (hn : named e.id = some n) (hi : n.inst ≠ allInst)
    (hs : (s.entrySet cls e).status = stOk) :
    (s.instSet n cls e n.inst).status = stOk ∧ (s.entrySet cls e).s = (s.instSet n cls e n.inst).s ∧
      (s.entrySet cls e).waits = (s.instSet n cls e n.inst).waits := by
  have hl : n.insts = [n.inst] := by rw [Named.insts, if_neg hi]
  have he := State.entrySet_passed hn hs
  rw [he, hl] at hs ⊢
  by_cases h : (s.instSet n cls e n.inst).status = stOk
  · simp [State.instsSet, h]
  · simp [State.instsSet, h] at hs

/-- What is kept of a word leaves the registers. -/
theorem State.instKeep_regs (s : State) (n : Named) (cls : Nat) (e : Entry) (i : Nat) (new : W64) :
    (s.instKeep n cls e i new).regs = s.regs := by
  unfold State.instKeep
  dsimp only
  split <;> rfl

/-- The store is out of date after a set of a parameter that it holds (R32). -/
theorem State.instKeep_dirty (s : State) {n : Named} (cls : Nat) (e : Entry) (i : Nat) (new : W64) (h : n.par.stored = true) :
    (s.instKeep n cls e i new).sec.dirty = true := by
  unfold State.instKeep
  dsimp only
  split <;> simp [h, State.pendAt]

/-- A swap-shadowed word becomes the newest pending value (R324). -/
theorem State.instKeep_pend (s : State) {n : Named} (cls : Nat) {e : Entry} (i : Nat) (new : W64) (h : e.shadowed n = true) :
    (s.instKeep n cls e i new).time.pend.getLast? = some ⟨n.id i, new, cls, s.dueFor cls⟩ := by
  simp only [State.instKeep, h, if_true, State.pendAt, List.getLast?_concat]

/-! ### Swap-shadowed parameters in the table of R7 -/

/-- No field satisfies a condition, no bit is in its mask. -/
theorem Par.mask_eq_zero {p : Par} {f : Fld → Bool} (h : p.fields.any f = false) : p.mask f = 0 := by
  have key : ∀ (l : List Fld) (m : W64), l.any f = false → l.foldl (fun m x => if f x then m ||| x.mask else m) m = m := by
    intro l
    induction l with
    | nil => exact fun _ _ => rfl
    | cons x l ih =>
      intro m hl
      obtain ⟨hx, hl⟩ := Bool.or_eq_false_iff.1 (List.any_cons ▸ hl)
      simp [hx, ih m hl]
  exact key p.fields 0 h

/-- What an identifier names stands in the table, and it is the index and word that the identifier says (R7). -/
theorem named_spec {id : Nat} {n : Named} (h : named id = some n) :
    n.par ∈ P.table ∧ n.inst < 4096 ∧ n.word < n.par.span ∧ n.par.pid % 4096 + n.word < 4096 := by
  unfold named at h
  split at h
  case h_2 => cases h
  case h_1 p hp =>
    have hq := List.find?_some hp
    simp only [Bool.and_eq_true, decide_eq_true_eq, beq_iff_eq] at hq
    obtain ⟨⟨-, hlo⟩, hhi⟩ := hq
    dsimp only at h
    split at h
    · cases h
      refine ⟨List.mem_of_find?_eq_some hp, ?_, ?_, ?_⟩ <;> dsimp only <;> omega
    · cases h

/-- A parameter with a swap-shadowed field does not act beside its word, and shares no identifier with SWAP_CFG. -/
def Par.swapsPlainly (p : Par) : Bool :=
  !p.fields.any (Fld.has .rws) || (!actingPids.contains p.pid && p.pid / 4096 % 4096 == 0 &&
    (decide (P.SWAP_CFG_ARMED.pid < p.pid) || decide (p.pid + p.span ≤ P.SWAP_CFG_ARMED.pid)))

theorem table_swapsPlainly : P.table.all Par.swapsPlainly = true := by
  decide +kernel

/-- An entry with swap-shadowed fields under its mask names a parameter that has such a field. -/
theorem Entry.shadowed_any (e : Entry) {n : Named} (h : e.shadowed n = true) : n.par.fields.any (Fld.has .rws) = true := by
  by_contra hf
  simp [Entry.shadowed, Par.mask_eq_zero (Bool.not_eq_true _ ▸ hf)] at h

/-- The boundary that a value written now joins depends on the time base alone (R324). -/
theorem State.dueNow_congr {s u : State} (h : u.time = s.time) : u.dueNow = s.dueNow := by
  unfold State.dueNow State.spanLen
  rw [h]

/-- A write of another word than SWAP_CFG's leaves the boundary that a class joins. -/
theorem State.withEntry_dueFor {s : State} {n : Named} {i : Nat} {e : Entry} (h : P.SWAP_CFG_ARMED.id 0 0 ≠ n.id i) (cls : Nat) :
    (s.withEntry n i e).dueFor cls = s.dueFor cls := by
  have hw : Regs.word (s.withEntry n i e).regs P.SWAP_CFG_ARMED 0 = Regs.word s.regs P.SWAP_CFG_ARMED 0 := by
    unfold Regs.word State.withEntry Par.setIn
    exact Tbl.get_set_ne _ _ _ _ h
  have ha : (s.withEntry n i e).armed cls = s.armed cls := by simp only [State.armed, State.get, Regs.get, hw]
  rw [State.dueFor, State.dueFor, ha, State.dueNow_congr (s.withEntry_time n i e)]

/-- A swap-shadowed entry for one index that passes leaves its new word as the newest pending value. -/
theorem State.entrySet_shadowed {s : State} {n : Named} {cls : Nat} {e : Entry} (hn : named e.id = some n) (hi : n.inst ≠ allInst)
    (he : e.shadowed n = true) (hs : (s.entrySet cls e).status = stOk) :
    (s.entrySet cls e).s.time.pend.getLast? = some ⟨n.id n.inst, s.newWord n n.inst e, cls, s.dueFor cls⟩ ∧
      (s.entrySet cls e).waits = false := by
  obtain ⟨hm, hinst, hword, hlow⟩ := named_spec hn
  have ht := List.all_eq_true.1 table_swapsPlainly n.par hm
  simp only [Par.swapsPlainly, e.shadowed_any he, Bool.not_true, Bool.false_or, Bool.and_eq_true, Bool.or_eq_true,
    Bool.not_eq_true', List.contains_eq_mem, decide_eq_false_iff_not, decide_eq_true_eq, beq_iff_eq] at ht
  obtain ⟨⟨hact, hpid⟩, hrange⟩ := ht
  have hid : P.SWAP_CFG_ARMED.id 0 0 ≠ n.id n.inst := by
    have hs : P.SWAP_CFG_ARMED.pid = 0x0C00030C := rfl
    simp only [Fld.id, Named.id, hs] at hrange ⊢
    omega
  obtain ⟨ho, hstate, hwaits⟩ := State.entrySet_one hn hi hs
  rw [hstate, hwaits, State.instSet_of_not_acting hact ho]
  exact ⟨by rw [State.instKeep_pend _ _ _ _ he, State.withEntry_dueFor hid], rfl⟩

/-! ### The parameter commands -/

/-- What FAB_CLAIM_CFG names, whose one field WINDOW_MS is plain. -/
def claimCfg : Named := ⟨⟨0x0A000204, 1, 1, [P.FAB_CLAIM_CFG_WINDOW_MS]⟩, 0, 0⟩

theorem named_claimCfg : named (P.FAB_CLAIM_CFG_WINDOW_MS.id 0 0) = some claimCfg := by
  decide

/-- A set of FAB_CLAIM_CFG puts the value under its mask into WINDOW_MS. -/
theorem State.withEntry_claimCfg (s : State) (e : Entry) :
    (s.withEntry claimCfg 0 e).get P.FAB_CLAIM_CFG_WINDOW_MS 0 =
      P.FAB_CLAIM_CFG_WINDOW_MS.of (mixBits (Regs.word s.regs P.FAB_CLAIM_CFG_WINDOW_MS 0) e.value e.mask) := by
  have hid : claimCfg.id 0 = P.FAB_CLAIM_CFG_WINDOW_MS.id 0 0 := by decide
  have hreset : claimCfg.par.resetAt (P.FAB_CLAIM_CFG_WINDOW_MS.id 0 0) =
      resetWord (P.FAB_CLAIM_CFG_WINDOW_MS.id 0 0) P.FAB_CLAIM_CFG_WINDOW_MS.word := by decide
  have hown : ownStore.contains claimCfg.par.pid = false := by decide
  have hclear : claimCfg.clears = 0#64 := by decide
  have hmask : (claimCfg.par.mask fun f => f.acc == .rw || f.acc == .rwm) = P.FAB_CLAIM_CFG_WINDOW_MS.mask := by decide
  have hword : s.entryWord claimCfg 0 e = mixBits (Regs.word s.regs P.FAB_CLAIM_CFG_WINDOW_MS 0) e.value
      (e.mask &&& P.FAB_CLAIM_CFG_WINDOW_MS.mask) := by
    simp only [State.entryWord, hown, hclear, hmask, Par.inTable, hid, hreset, Regs.word, Bool.false_eq_true, if_false,
      BitVec.and_zero, BitVec.not_zero, BitVec.and_allOnes]
  unfold State.get Regs.get
  rw [Regs.word, State.withEntry, Par.setIn, hid, hreset, Tbl.get_set_same, hword]
  exact Fld.of_mixBits_and _ _ _ (by decide) (by decide)

/-- A get of one known identifier answers its status and value (R395). -/
theorem State.getAll_one {s : State} {id : Nat} {n : Named} (hn : named id = some n) (hi : n.inst ≠ allInst) :
    s.getAll [id] = (s.readEffect n, stOk, le 4 id ++ [0, 0, 0, 0] ++ le 8 (s.readValue n id).toNat) := by
  simp [State.getAll, State.getOne, hn, hi, stOk]

/-- A set whose entry passes changes what the entry does, and its result names the boundary. -/
theorem State.paramSet_passed {s : State} {p : List Byte} (h : (s.entrySet (field p 4 1) (Entry.parse p 0)).status = stOk) :
    s.paramSet p = ⟨(s.entrySet (field p 4 1) (Entry.parse p 0)).s, stOk,
      setResult (Entry.parse p 0).swaps (s.dueFor (field p 4 1)), [], (s.entrySet (field p 4 1) (Entry.parse p 0)).waits⟩ := by
  simp only [State.paramSet, ne_eq, h, not_true_eq_false, if_false]

/-- A set whose entry fails leaves what it found, but for the count of refused urgent requests (R396). -/
theorem State.paramSet_refused {s : State} {p : List Byte} (h : (s.entrySet (field p 4 1) (Entry.parse p 0)).status ≠ stOk) :
    s.paramSet p = (s.setRefused (s.entrySet (field p 4 1) (Entry.parse p 0))).ends
      (s.entrySet (field p 4 1) (Entry.parse p 0)).status := by
  simp only [State.paramSet, ne_eq, h, not_false_eq_true, if_true]

theorem State.setRefused_time (s : State) (r : SetRun) : (s.setRefused r).time = s.time :=
  (s.setRefused_only r).1 .time (by decide)
theorem State.setRefused_mbox (s : State) (r : SetRun) : (s.setRefused r).mbox = s.mbox :=
  (s.setRefused_only r).1 .mbox (by decide)

/-- A change is no read. -/
theorem change_ne_read {k : Cls} (h : k = .n ∨ k = .p) : k ≠ .r := by
  rintro rfl
  simp at h

/-- A set of FAB_CLAIM_CFG that passes stores its value and puts the configuration store out of date (R32). -/
theorem State.entrySet_claimCfg {s : State} {cls : Nat} {e : Entry} (he : e.id = P.FAB_CLAIM_CFG_WINDOW_MS.id 0 0)
    (hs : (s.entrySet cls e).status = stOk) :
    (s.entrySet cls e).s.get P.FAB_CLAIM_CFG_WINDOW_MS 0 =
        P.FAB_CLAIM_CFG_WINDOW_MS.of (mixBits (Regs.word s.regs P.FAB_CLAIM_CFG_WINDOW_MS 0) e.value e.mask) ∧
      (s.entrySet cls e).s.sec.dirty = true ∧ (s.entrySet cls e).waits = false ∧ e.swaps = false := by
  have hn : named e.id = some claimCfg := he ▸ named_claimCfg
  obtain ⟨ho, hstate, hwaits⟩ := State.entrySet_one hn (by decide) hs
  rw [hstate, hwaits, State.instSet_of_not_acting (by decide) ho]
  refine ⟨?_, State.instKeep_dirty _ _ _ _ _ (by decide), rfl, ?_⟩
  · rw [State.get_congr (State.instKeep_regs ..)]
    exact s.withEntry_claimCfg e
  · have hmask : claimCfg.par.mask (Fld.has .rws) = 0 := by decide
    simp [Entry.swaps, hn, Entry.shadowed, hmask]

/-- The entries of a PARAM_SET_MULTI payload (R397). -/
def entriesOf (p : List Byte) : List Entry := (upTo (field p 0 2)).map fun i => Entry.parse p (16 + 24 * i)

section Multi

variable {s : State} {p : List Byte} (hn : 1 ≤ field p 0 2 ∧ field p 0 2 ≤ 168) (hc : field p 2 1 ≤ 7)
include hn hc

/-- Several sets that pass take effect together, and the result names their boundary. -/
theorem State.multiSet_passed (hb : (field p 3 1).testBit 0 = false) (ha : field p 8 8 = 0)
    (hs : (s.entriesSet (field p 2 1) false 0 (entriesOf p)).1.status = stOk) :
    s.multiSet p = ⟨(s.entriesSet (field p 2 1) false 0 (entriesOf p)).1.s, stOk,
      setResult ((entriesOf p).any Entry.swaps) (s.dueFor (field p 2 1)), [],
      (s.entriesSet (field p 2 1) false 0 (entriesOf p)).1.waits⟩ := by
  rw [State.multiSet, if_neg (by omega)]
  unfold entriesOf at *
  simp [hb, ha, hs]

/-- With a release asked for, it joins those that wait, and the result names its instant. -/
theorem State.multiSet_atNs (hb : (field p 3 1).testBit 0 = false) (ha : field p 8 8 ≠ 0)
    (hr : s.atNsCheck (field p 2 1) (field p 8 8 * nsSt) = stOk)
    (hs : (s.entriesSet (field p 2 1) false 0 (entriesOf p)).1.status = stOk) :
    (s.multiSet p).s.time = (s.entriesSet (field p 2 1) false 0 (entriesOf p)).1.s.time ∧
      (s.multiSet p).s.mbox.atNs = s.mbox.atNs ++ [⟨field p 2 1, field p 8 8 * nsSt⟩] ∧
      (s.multiSet p).status = stOk ∧ (s.multiSet p).result = BitVec.ofNat 64 (field p 8 8) ∧
      (s.multiSet p).background = (s.entriesSet (field p 2 1) false 0 (entriesOf p)).1.waits := by
  have hm : (s.entriesSet (field p 2 1) false 0 (entriesOf p)).1.s.mbox = s.mbox :=
    (State.entriesSet_only ..).1 .mbox (by decide)
  rw [State.multiSet, if_neg (by omega)]
  unfold entriesOf at *
  simp [hb, ha, hr, hs, hm]

/-- In check mode sets that pass give 0 and leave what they found. -/
theorem State.multiSet_checked (hb : (field p 3 1).testBit 0 = true) (ha : field p 8 8 = 0)
    (hs : (s.entriesSet (field p 2 1) false 0 (entriesOf p)).1.status = stOk) : s.multiSet p = s.gives 0 := by
  rw [State.multiSet, if_neg (by omega)]
  unfold entriesOf at *
  simp [hb, ha, hs]

/-- In check mode a set that fails ends all with its status and number, and leaves what they found. -/
theorem State.multiSet_checkFails (hb : (field p 3 1).testBit 0 = true) (ha : field p 8 8 = 0)
    (hs : (s.entriesSet (field p 2 1) false 0 (entriesOf p)).1.status ≠ stOk) :
    s.multiSet p = s.endsWith (s.entriesSet (field p 2 1) false 0 (entriesOf p)).1.status
      (s.entriesSet (field p 2 1) false 0 (entriesOf p)).2 := by
  rw [State.multiSet, if_neg (by omega)]
  unfold entriesOf at *
  simp [hb, ha, hs]

end Multi

/-- A release may be asked for a boundary that still lies ahead, in an armed class (R397). -/
theorem State.atNsCheck_ok {s : State} {cls : Nat} {b : Tm} (hc : 1 ≤ cls) (ha : s.armed cls = true) (hb : b % s.spanLenAt b = 0)
    (hl : s.time.now + cutoffLen < b) : s.atNsCheck cls b = stOk := by
  rw [State.atNsCheck, if_neg (by simp [ha, hb]; omega), if_neg (Nat.not_le.2 hl)]

/-- A due release of an armed class is taken out of those that wait, and releases it (R397). -/
theorem exec_atNsRelease_due {s : State} (hp : s.pwr.por = false) (t : Tm) {cls : Fin 8} {a : AtNs}
    (hf : s.mbox.atNs.find? (fun y => y.cls == cls.val && decide (y.at_ ≤ s.time.next)) = some a) (hl : s.leased = true)
    (ha : s.armed cls = true) :
    exec (.atNsRelease t cls) s =
      .next (({ s.clock t with mbox := { s.mbox with atNs := s.mbox.atNs.erase a } } : State).releaseClass cls) := by
  have hf' : (s.clock t).mbox.atNs.find? (fun y => y.cls == cls.val && decide (y.at_ ≤ (s.clock t).time.next)) = some a := hf
  have hl' : (s.clock t).leased = true := hl
  have ha' : ({ s.clock t with mbox := { s.mbox with atNs := s.mbox.atNs.erase a } } : State).armed cls = true := ha
  simp only [exec, execAtNsRelease, live_of hp, hf', hl', Bool.not_true, Bool.false_eq_true, if_false]
  exact congrArg Host.Outcome.next (if_pos ha')

/-- Settles O39: each command finishes the effect of its entries, whose outcome its hypotheses give. -/
theorem parameterCommandsComplete : Obligations.ParameterCommandsComplete := by
  unfold Obligations.ParameterCommandsComplete
  intro s t hp
  refine ⟨?getOne, ?getAll, ?plain, ?shadowed, ?refused, ?multi, ?atNs, ?check, ?commit, ?release⟩
  case getOne =>
    rintro mb cmd _ nm hserved hcount rfl hnm hinst
    refine acts_of_served hp rfl hserved ?_
    have hids : ((upTo (field cmd.payload 0 2)).map fun i => field cmd.payload (8 + 4 * i) 4) = [field cmd.payload 8 4] := by
      rw [hcount]; rfl
    rw [if_neg (by omega), State.finish_read, hids, State.getAll_one hnm hinst]
  case getAll =>
    rintro mb cmd _ rfl hserved hrange
    refine acts_of_served hp rfl hserved ?_
    rw [if_neg (by omega), State.finish_read]
  case plain =>
    rintro mb cmd _ hserved rfl hid hst
    refine acts_of_served hp rfl hserved ?_
    obtain ⟨hget, hdirty, hwaits, hswaps⟩ := State.entrySet_claimCfg hid hst
    rw [State.paramSet_passed hst, hwaits, hswaps]
    have hk : Cls.n ≠ .r := by decide
    refine ⟨?_, State.finish_done_owed hk rfl rfl, ?_⟩
    · rw [State.get_of_only (State.finish_done_only hk rfl rfl) (by decide) _ _ _ (by decide) (by decide), hget, State.met_regs]
    · rw [State.finish_done_sec hk rfl rfl, hdirty]
  case shadowed =>
    rintro mb cmd k _ n _ hk hserved rfl rfl hn hi - hm hst
    refine acts_of_served hp rfl hserved ?_
    have he : (Entry.parse cmd.payload 0).shadowed n = true := by simpa [Entry.shadowed] using hm
    have hswaps : (Entry.parse cmd.payload 0).swaps = true := by simp [Entry.swaps, hn, he]
    obtain ⟨hpend, hwaits⟩ := State.entrySet_shadowed hn hi he hst
    rw [State.paramSet_passed hst, hwaits, hswaps, ← State.met_dueFor s t mb cmd]
    refine ⟨?_, State.finish_done_owed (change_ne_read hk) rfl rfl⟩
    rw [State.finish_done_time (change_ne_read hk) rfl rfl, hpend]
  case refused =>
    rintro mb cmd k _ hk hserved rfl hst
    refine acts_of_served hp rfl hserved ?_
    rw [State.paramSet_refused hst]
    refine ⟨?_, ?_, State.finish_failed_newest (change_ne_read hk) rfl hst⟩
    · rw [State.finish_failed_time (change_ne_read hk) rfl hst, State.ends_s, State.setRefused_time, State.met_pend]
    · rw [State.finish_failed_wait (change_ne_read hk) rfl hst, State.ends_s, State.setRefused_mbox, State.met_wait]
  case multi =>
    rintro mb cmd k _ _ _ hk rfl rfl rfl hserved hn hc hb ha hst hwaits
    refine acts_of_served hp rfl hserved ?_
    rw [State.multiSet_passed hn hc hb ha hst, ← State.met_dueFor s t mb cmd]
    refine ⟨?_, State.finish_done_owed (change_ne_read hk) hwaits rfl⟩
    rw [State.finish_done_time (change_ne_read hk) hwaits rfl]
    rfl
  case atNs =>
    rintro mb cmd k _ _ _ _ hk rfl rfl rfl rfl hserved hn hc hb ha harmed hspan hlate hst hwaits
    refine acts_of_served hp rfl hserved ?_
    have hr : (s.met t mb cmd).atNsCheck (field cmd.payload 2 1) (field cmd.payload 8 8 * nsSt) = stOk :=
      State.atNsCheck_ok hc.1 (by simpa using harmed) (by simpa using hspan) (by simpa using hlate)
    obtain ⟨htime, hat, hok, hres, hbg⟩ := State.multiSet_atNs hn hc.2 hb ha hr hst
    have hbg' := hbg.trans hwaits
    refine ⟨?_, ?_, ?_⟩
    · rw [State.finish_done_time (change_ne_read hk) hbg' hok, htime]
      rfl
    · rw [State.finish_done_atNs (change_ne_read hk) hbg' hok, hat, State.met_atNs]
    · rw [← hres]
      exact State.finish_done_owed (change_ne_read hk) hbg' hok
  case check =>
    rintro mb cmd k _ _ _ hk rfl rfl rfl hserved hn hc hb ha
    refine acts_of_served hp rfl hserved ?_
    by_cases hst : ((s.met t mb cmd).entriesSet (field cmd.payload 2 1) false 0 (entriesOf cmd.payload)).1.status = stOk
    · rw [State.multiSet_checked hn hc hb ha hst]
      refine ⟨?_, fun _ => State.finish_done_owed (change_ne_read hk) rfl rfl, fun h => absurd hst h⟩
      rw [State.finish_done_time (change_ne_read hk) rfl rfl, State.gives_s, State.met_pend]
    · rw [State.multiSet_checkFails hn hc hb ha hst]
      refine ⟨?_, fun h => absurd h hst, fun _ => State.finish_failed_newest (change_ne_read hk) rfl hst⟩
      rw [State.finish_failed_time (change_ne_read hk) rfl hst, State.endsWith, State.met_pend]
  case commit =>
    intro mb cmd k hserved hm ha
    refine acts_of_served hp rfl hserved ?_
    have hk : Cls.n ≠ .r := by decide
    obtain ⟨hpend, hraised⟩ := (s.met t mb cmd).release_released k hm (by rw [State.met_armed, ha])
    rw [State.met_dueNow]
    refine ⟨?_, State.finish_done_owed hk rfl rfl, ?_⟩
    · rw [State.finish_done_time hk rfl rfl]
      exact hpend
    · rw [Raised, State.finish_done_ev hk rfl rfl]
      exact hraised
  case release =>
    intro cls a hfind hl ha
    obtain ⟨hpend, hraised⟩ := State.releaseClass_released
      ({ s.clock t with mbox := { s.mbox with atNs := s.mbox.atNs.erase a } } : State) cls
    exact ⟨_, exec_atNsRelease_due hp t hfind hl ha, by simp [State.releaseClass], hpend, hraised⟩

/-! ### Frames of the commands (O57 to O60) -/

/-- Settles O57: the frame of each command meaning in the front end, the digitiser, timing, the loops, the recorder and the time base. -/
theorem frontEndFrames : Obligations.FrontEndFrames := by
  unfold Obligations.FrontEndFrames
  intro s u t hp
  exact ⟨
    -- Picosecond timing and the gauge.
    fun edge => execLeadingEdge_only t edge hp,
    fun ch => execTrailingEdge_only t ch hp,
    fun ch => execTotSaturate_only t ch hp,
    fun unit ip => execInterpolatorFree_only t unit ip hp,
    fun ch window => execHitComplete_only t ch window hp,
    execBlockIntervalStart_only t hp,
    fun ch => execHitBlockEmit_only t ch hp,
    -- The digitiser.
    fun tile => execHkPassStart_only t tile hp,
    fun tile => execHkEntryStart_only t tile hp,
    fun tile sum sumQ ends => execHkConversionComplete_only t tile sum sumQ ends hp,
    fun tile input avg shift => execHkUrgentRequest_only t tile input avg shift hp,
    -- The front end.
    fun tile => execImpedanceSlotStart_only t tile hp,
    fun tile ire iim half1 half2 => execImpedanceVisitResult_only t tile ire iim half1 half2 hp,
    fun tile => execSettleWindowExpire_only t tile hp,
    fun pin level => execBlankPinEdge_only t pin level hp,
    fun tile => execBlankGuardExpire_only t tile hp,
    fun tile => execConversionResume_only t tile hp,
    fun tile => execBlankMaxAbandon_only t tile hp,
    fun tile sum => execTileCurrentCross_only t tile sum hp,
    fun tile => execGlitchFilterExpire_only t tile hp,
    fun tile => execTripRampDone_only t tile hp,
    fun tile => execTripClear_only t tile hp,
    fun tile limit => execTripLimitWrite_only t tile limit hp,
    fun ch => execChannelRestore_only t ch hp,
    -- The digitiser.
    fun tile => execRotationStart_only t tile hp,
    fun tile mean rms => execSliceMatchComplete_only t tile mean rms hp,
    fun tile slice high low expected bins => execSliceCalibrationComplete_only t tile slice high low expected bins hp,
    -- Picosecond timing and the gauge.
    fun unit => execTdcCalVisitStart_only t unit hp,
    fun unit test => execTestConversionStart_only t unit test hp,
    fun unit codesA codesB codesPair => execTdcCalVisitComplete_only t unit codesA codesB codesPair hp,
    fun unit => execTdcCalVisitTimeout_only t unit hp,
    fun ch => execTransferStale_only t ch hp,
    fun unit => execDllLockLoss_only t unit hp,
    fun unit => execDllRelock_only t unit hp,
    fun edge => execGaugeEdge_only t edge hp,
    fun g => execGaugeGateEnd_only t g hp,
    -- The bias loops.
    execLoopPeriodStart_only t hp,
    fun tile => execLoopCompute_only t tile hp,
    execLoopOutputApply_only t hp,
    fun tile => execCurHoldExpire_only t tile hp,
    -- Time, spans and scheduled actions.
    fun port msg => execTimeMessage_only t port msg hp,
    fun port ownPhase => execSyncExchangeComplete_only t port ownPhase hp,
    execSlewComplete_only t hp,
    execHoldoverEnter_only t hp,
    fun edge => execPpsInEdge_only t edge hp,
    execPpsInMissing_only t hp,
    execSwapCutoff_only t hp,
    fun armed => execSwapCfgWrite_only t armed hp,
    fun x => execToutPulse_only t x hp,
    execPpsOutEdge_only t hp,
    fun entry value => execActCfgArm_only t entry value hp,
    fun entry => execActionPulser_only t entry hp,
    fun entry => execActionToutPulse_only t entry hp,
    fun entry => execActionSwapRelease_only t entry hp,
    fun entry => execActionFirmware_only t entry hp,
    -- The event recorder.
    fun pier code severity detail => execRecOccurrence_only t pier code severity detail hp,
    execRecRepeatExpire_only t hp,
    execRecMramWriteComplete_only t hp,
    execRecScan_only t hp,
    -- Time, spans and scheduled actions.
    fun meas => execSyncInterval_only t meas hp,
    fun epoch b toTarget val => execDistributedStep_only t epoch b toTarget val hp,
    fun x => execToutPulseEnd_only t x hp,
    execPpsOutFall_only t hp⟩

/-- Settles O58: the frame of each command meaning of the trigger, the deck, the Seam, the contexts and the press engines. -/
theorem eventPathFrames : Obligations.EventPathFrames := by
  unfold Obligations.EventPathFrames
  intro s u t hp
  exact ⟨
    -- Trigger and event extraction.
    fun ch levels => execConditionDecide_only t ch levels hp,
    fun ch => execTimeoutHighExpire_only t ch hp,
    fun ch => execQuietTimeoutExpire_only t ch hp,
    fun g => execGroupWindowClose_only t g hp,
    fun g n levels => execGroupSumComplete_only t g n levels hp,
    fun port parts => execPrimitiveReceive_only t port parts hp,
    fun origin seq => execPrimitiveEqualised_only t origin seq hp,
    fun cls => execRootWindowClose_only t cls hp,
    fun pin edge => execTrigInEdge_only t pin edge hp,
    fun pin => execTrigOutPulseEnd_only t pin hp,
    fun port parts => execAcceptReceive_only t port parts hp,
    execExtractionStart_only t hp,
    fun window => execExtractionEnd_only t window hp,
    fun bytes => execEventBufferSpace_only t bytes hp,
    execExtractionDrop_only t hp,
    -- The deck.
    fun acceptId cls => execDeckReplyToExtractor_only t acceptId cls hp,
    fun ch hitTb levels => execSnippetRead_only t ch hitTb levels hp,
    execDeckWriteInterval_only t hp,
    fun ctx desc => execRewindRequest_only t ctx desc hp,
    fun sid => execDeckSessionOpen_only t sid hp,
    fun sid poison => execDeckReadComplete_only t sid poison hp,
    fun sid => execWritePointAdvance_only t sid hp,
    -- The Seam.
    fun port mark => execHemMarkReceive_only t port mark hp,
    fun input => execHemMarkApply_only t input hp,
    execHemMarkPeriodic_only t hp,
    execHemMarkGapExpire_only t hp,
    fun input record => execSeamRecordArrive_only t input record hp,
    execSeamRelease_only t hp,
    fun input => execFrayTimeout_only t input hp,
    fun input => execSpillWriteComplete_only t input hp,
    fun input poison => execSpillReadback_only t input poison hp,
    -- The contexts.
    fun ctx prod => execCtxDoorbellWrite_only t ctx prod hp,
    fun ctx prod => execCtxReqDoorbellWrite_only t ctx prod hp,
    fun ctx => execCtxNotifyArm_only t ctx hp,
    fun ctx => execCtxCreate_only t ctx hp,
    fun ctx => execCtxDestroy_only t ctx hp,
    fun ctx => execCtxRebind_only t ctx hp,
    fun ctx => execCtxDrainComplete_only t ctx hp,
    fun ctx desc => execRequestEntryRead_only t ctx desc hp,
    fun ctx desc => execDescriptorFetch_only t ctx desc hp,
    fun link => execSchedulerGrant_only t link hp,
    fun link => execUnitTransferComplete_only t link hp,
    fun ctx => execEgressDetach_only t ctx hp,
    fun ctx => execCoalescerTimeout_only t ctx hp,
    -- The press engines.
    fun mb cmd => execPressCompressJob_only t mb cmd hp,
    fun mb cmd => execPressDecompressJob_only t mb cmd hp,
    execPressJobStart_only t hp,
    fun engine input poisoned memError => execPressJobComplete_only t engine input poisoned memError hp,
    fun ctx failed => execPressContextJobComplete_only t ctx failed hp,
    fun mb cmd => execPressBufWrite_only t mb cmd hp,
    fun mb cmd => execPressBufRead_only t mb cmd hp,
    -- The contexts.
    fun ctx units => execInboundCredit_only t ctx units hp⟩

/-- Settles O59: the frame of each command meaning of the fabric, the lanes, DDR5, the host interface and the mailboxes. -/
theorem linkFrames : Obligations.LinkFrames := by
  unfold Obligations.LinkFrames
  intro s u t hp
  exact ⟨
    -- The lanes.
    fun lane mask index => execAlignBlock_only t lane mask index hp,
    -- The fabric.
    fun port credit => execCreditBlock_only t port credit hp,
    fun port frame => execRecordFrame_only t port frame hp,
    fun port => execReplayTimeout_only t port hp,
    fun port identity => execClaimFrame_only t port identity hp,
    execClaimWindowExpire_only t hp,
    fun port src route => execDiscoveryProbe_only t port src route hp,
    fun reply => execDiscoveryReply_only t reply hp,
    fun install => execRouteInstall_only t install hp,
    fun identity port up => execPortChangeReport_only t identity port up hp,
    execClockParentLost_only t hp,
    fun port delay => execHopDelayMeasured_only t port delay hp,
    -- The lanes.
    fun lane => execLaneCdrLock_only t lane hp,
    fun lane => execLaneBlockLock_only t lane hp,
    fun lane loss => execLaneLockLoss_only t lane loss hp,
    fun lane => execLaneNoTransitions_only t lane hp,
    fun lane part locked value => execHello_only t lane part locked value hp,
    fun port mask locked => execRestripe_only t port mask locked hp,
    fun port => execRestripeResend_only t port hp,
    fun port => execRestripeTimeout_only t port hp,
    fun port locked => execLaneReady_only t port locked hp,
    fun lane => execRejoinHoldExpire_only t lane hp,
    fun port => execLaneRejoin_only t port hp,
    fun lane => execLaneRetrainTimeout_only t lane hp,
    fun port mask start => execLoopReq_only t port mask start hp,
    fun port mask accepted => execLoopAck_only t port mask accepted hp,
    fun lane => execFarLoopTimeout_only t lane hp,
    fun lane value => execLaneLoopWrite_only t lane value hp,
    fun port => execPrbsInject_only t port hp,
    fun port received run more => execPrbsCheckerLock_only t port received run more hp,
    -- DDR5 memory.
    fun ch passed spd => execDdrTrainingStep_only t ch passed spd hp,
    fun ch => execRefreshDue_only t ch hp,
    fun ch level => execPanicBegin_only t ch level hp,
    fun ch level => execPanicEnd_only t ch level hp,
    fun ch => execRefreshRepay_only t ch hp,
    fun addr result written => execDdrScrubRead_only t addr result written hp,
    fun ch passed => execDdrRetrainStep_only t ch passed hp,
    fun ch writeCrc failedReplays => execDdrAlert_only t ch writeCrc failedReplays hp,
    fun ch addr tries device rank => execDdrReadComplete_only t ch addr tries device rank hp,
    execDdrFence_only t hp,
    fun ch temp => execSpdTempRead_only t ch temp hp,
    fun ch hot => execMr4Read_only t ch hot hp,
    fun mb cmd => execMemRestart_only t mb cmd hp,
    fun mb cmd poisoned => execMemRead_only t mb cmd poisoned hp,
    fun mb cmd => execMemWrite_only t mb cmd hp,
    fun mb cmd poisoned => execRegionRead_only t mb cmd poisoned hp,
    -- The host interface.
    fun mb reg half => execReg64HalfWrite_only t mb reg half hp,
    fun g value raised => execEvPendingClear_only t g value raised hp,
    fun g value => execEvMaskWrite_only t g value hp,
    fun source => execEvTest_only t source hp,
    execHostReset_only t hp,
    fun gen width mps => execHostLinkUp_only t gen width mps hp,
    execBusMasterDisable_only t hp,
    fun d3hot => execPowerStateChange_only t d3hot hp,
    -- The mailboxes.
    fun mb on => execMbEnableWrite_only t mb on hp,
    fun mb prod => execMbDoorbellWrite_only t mb prod hp,
    fun mb head => execMbCqDoorbellWrite_only t mb head hp,
    fun mb slot => execMbFetch_only t mb slot hp,
    execCommandCommit_only t hp,
    fun mb seq status result => execBackgroundComplete_only t mb seq status result hp,
    fun frame => execMailboxFrame_only t frame hp,
    fun mb seq => execRemoteTimeout_only t mb seq hp,
    fun mb cmd => execEcho_only t mb cmd hp,
    fun mb cmd => execIdentify_only t mb cmd hp,
    fun mb cmd => execTdcCalVisit_only t mb cmd hp,
    fun mb cmd => execSoftAccept_only t mb cmd hp,
    fun mb cmd => execDeckRewind_only t mb cmd hp,
    fun mb cmd => execHoldCancel_only t mb cmd hp,
    -- The fabric.
    fun mb cmd => execRootClaim_only t mb cmd hp,
    fun mb cmd => execRootRelease_only t mb cmd hp,
    fun mb cmd => execAddrPlan_only t mb cmd hp,
    fun mb cmd => execTopologyRead_only t mb cmd hp,
    -- The mailboxes.
    fun addr data pecOk => execSmbCmdAppend_only ⟨t, addr⟩ data pecOk hp,
    fun addr total pecOk => execSmbCmdStart_only ⟨t, addr⟩ total pecOk hp,
    fun addr => execSmbReadCompletion_only ⟨t, addr⟩ hp,
    fun addr n => execSmbReadResponse_only ⟨t, addr⟩ n hp,
    fun update => execMb5Data_only t update hp,
    execMb5Go_only t hp,
    execMb5PtrReset_only t hp,
    -- The fabric.
    fun identity => execRouteInstallAck_only t identity hp,
    -- The host interface.
    fun what => execMsixMaskWrite_only t what hp,
    execPerstNRelease_only t hp⟩

/-- Settles O60: the frame of each command meaning of the control cores, the settings, the memories, security, resets and test. -/
theorem controlFrames : Obligations.ControlFrames := by
  unfold Obligations.ControlFrames
  intro s u t hp
  exact ⟨
    -- Settings.
    fun mb cmd => execTimeStep_only t mb cmd hp,
    -- The span boundary.
    fun badWords => execSpanBoundary_only t badWords hp,
    -- Settings.
    fun mb cmd => execSwapCommit_only t mb cmd hp,
    fun mb cmd => execSchedule_only t mb cmd hp,
    -- Registers, MB4 and the test port.
    fun slot reg => execSnapLowRead_only t slot reg hp,
    fun slot reg => execSnapHighRead_only t slot reg hp,
    fun slot reg => execSnapWholeRead_only t slot reg hp,
    fun what how => execDeviceReadFail_only t what how hp,
    -- Settings.
    fun mb cmd => execParamGet_only t mb cmd hp,
    fun mb cmd => execParamSet_only t mb cmd hp,
    fun mb cmd => execParamSetMulti_only t mb cmd hp,
    fun cls => execAtNsRelease_only t cls hp,
    fun mb cmd => execConfigSave_only t mb cmd hp,
    execConfigSaveDeferred_only t hp,
    fun mb cmd => execConfigLoad_only t mb cmd hp,
    -- Security and the recorder log.
    fun mb cmd image read => execFwLoad_only t mb cmd image read hp,
    fun mb cmd => execSlotSelect_only t mb cmd hp,
    -- The control cores.
    fun mb cmd => execFailover_only t mb cmd hp,
    fun mb cmd => execHealth_only t mb cmd hp,
    -- On-die memories.
    fun mb cmd sigOk => execCheckerWriteRaw_only t mb cmd sigOk hp,
    fun mb cmd sigOk => execCheckerReadRaw_only t mb cmd sigOk hp,
    fun mb cmd sigOk => execCheckerInject_only t mb cmd sigOk hp,
    execInjectApply_only t hp,
    -- Security and the recorder log.
    fun mb cmd => execRecRead_only t mb cmd hp,
    fun mb cmd sigOk => execRecClear_only t mb cmd sigOk hp,
    fun mb cmd => execNonce_only t mb cmd hp,
    fun mb => execNonceExpire_only t mb hp,
    fun mb cmd => execAttest_only t mb cmd hp,
    -- Registers, MB4 and the test port.
    fun seq => execMb4Status_only t seq hp,
    fun seq arg0 arg1 => execMb4Reset_only t seq arg0 arg1 hp,
    fun seq arg0 => execMb4SlotSelect_only t seq arg0 hp,
    fun seq slot arg0 arg1 bytes image read => execMb4FwLoad_only t seq slot arg0 arg1 bytes image read hp,
    fun addr opcode seq arg0 arg1 pecOk => execSmbMb4Start_only ⟨t, addr⟩ opcode seq arg0 arg1 pecOk hp,
    fun addr => execSmbMb4Read_only ⟨t, addr⟩ hp,
    execExtest_only t hp,
    execIdcode_only t hp,
    fun cells => execSamplePreload_only t cells hp,
    execExtestPulse_only t hp,
    execExtestTrain_only t hp,
    execClamp_only t hp,
    execHighz_only t hp,
    execBypass_only t hp,
    execTrstNAssert_only t hp,
    -- The control cores.
    fun pier gen => execLeaseRenew_only t pier gen hp,
    fun pier word => execHealthWordPublish_only t pier word hp,
    execLeaseExpire_only t hp,
    fun pier => execLeaseGrant_only t pier hp,
    fun pier => execPierHealthTimeout_only t pier hp,
    fun temp => execHeartbeatEmit_only t temp hp,
    fun bytes crossed => execCheckpointMark_only t bytes crossed hp,
    fun accepted => execCheckpointAck_only t accepted hp,
    execCheckpointAckTimeout_only t hp,
    execFullCopy_only t hp,
    fun fault => execSelfTestPassEnd_only t fault hp,
    fun act unit byHost => execMaintStart_only t act unit byHost hp,
    fun act unit => execMaintDeferredStart_only t act unit hp,
    -- On-die memories.
    fun memory addr result _written => execSramScrubRead_only t memory addr result _written hp,
    -- Security and the recorder log.
    fun loc result => execMramScrubRead_only t loc result hp,
    execSvnCommit_only t hp,
    fun value => execOwnerRequireWrite_only t value hp,
    execOwnerLockWrite_only t hp,
    fun slotA slotB => execBootVerify_only t slotA slotB hp,
    -- Start-up, clocks, rails and temperature.
    fun width => execPorNAssert_only t width hp,
    execPorNRelease_only t,
    fun count => execClkrefClassify_only t count hp,
    fun pll => execPllLock_only t pll hp,
    execCorePllLockLoss_only t hp,
    fun rail out => execRailOutOfTolerance_only t rail out hp,
    fun rail => execBrownOut_only t rail hp,
    fun tile sum => execOverlightRelease_only t tile sum hp,
    fun sensor temp => execThermalReading_only t sensor temp hp,
    execThermalShutdown_only t hp,
    execThermalShutdownRelease_only t,
    -- Registers, MB4 and the test port.
    fun bar offset size value => execRegisterWrite_only t bar offset size value hp⟩

end Sys2Proof.Machine

namespace Sys2Proof.Machine

open Sys2Proof

/-! ### The time base stands (R306, R320)

Few operations move the time base: a step, the clock, a reset. What the others leave of it is said here once. -/

/-- What the time base reads, the present instant with its epoch, and the steps that wait to change it (R306, R320). -/
def State.dial (s : State) : (Tm × Nat) × List PendStep := ((s.time.now, s.time.epoch), s.time.steps)

/-- From `s` to `u` the time base neither moves nor gains or loses a step. -/
def Steady (s u : State) : Prop := u.dial = s.dial

namespace Steady

section Rules

variable {s u v : State}

theorem refl : Steady s s := rfl

theorem trans (h : Steady s u) (k : Steady u v) : Steady s v := Eq.trans k h

theorem of_time (h : u.time = s.time) : Steady s u := by rw [Steady, State.dial, State.dial, h]

/-- A frame that does not name the time base. -/
theorem of_only {ps : List Part} {rs : List Nat} (h : Only ps rs s u) (hp : decide (Part.time ∈ ps) = false) : Steady s u :=
  of_time (h.1 .time (of_decide_eq_false hp))

theorem refl_iff : Steady s s ↔ True := iff_true_intro refl

/-- One more operation, which leaves the time base. -/
theorem step_iff (h : Steady u v) : Steady s v ↔ Steady s u := by rw [Steady, Steady, h]

theorem only_iff {ps : List Part} {rs : List Nat} (h : Only ps rs u v) (hp : decide (Part.time ∈ ps) = false) :
    Steady s v ↔ Steady s u := step_iff (of_only h hp)

theorem put_iff {f : Fld} {i x w : Nat} : Steady s (u.put f i x w) ↔ Steady s u := step_iff (of_time (State.put_time ..))
theorem putB_iff {f : Fld} {i w : Nat} {b : Bool} : Steady s (u.putB f i b w) ↔ Steady s u := step_iff (of_time (State.putB_time ..))
theorem bump_iff {f : Fld} {i n : Nat} : Steady s (u.bump f i n) ↔ Steady s u := step_iff (of_time (State.bump_time ..))
theorem putWord_iff {f : Fld} {i : Nat} {x : W64} : Steady s (u.putWord f i x) ↔ Steady s u := step_iff (of_time (State.putWord_time ..))

/-- An update of any part but the time base. -/
theorem mk_iff {ev recd afe dig tdc trg loop deck seam ctx fab lane ddr host mbox core mem press sec pwr regs out free pending} :
    Steady s ⟨u.time, ev, recd, afe, dig, tdc, trg, loop, deck, seam, ctx, fab, lane, ddr, host, mbox, core, mem, press, sec, pwr, regs,
      out, free, pending⟩ ↔ Steady s u := Iff.rfl

/-- An update of the time base that leaves the instant, the epoch and the pending steps. -/
theorem mk_time_iff {up last next span slew slewAt thetas set master port lastPps mastered tout ppsOut ppsStop act pend staged anchors
    samples ev recd afe dig tdc trg loop deck seam ctx fab lane ddr host mbox core mem press sec pwr regs out free pending} :
    Steady s ⟨⟨u.time.now, u.time.epoch, up, last, next, span, slew, slewAt, u.time.steps, thetas, set, master, port, lastPps, mastered,
      tout, ppsOut, ppsStop, act, pend, staged, anchors, samples⟩, ev, recd, afe, dig, tdc, trg, loop, deck, seam, ctx, fab, lane, ddr,
      host, mbox, core, mem, press, sec, pwr, regs, out, free, pending⟩ ↔ Steady s u := Iff.rfl

theorem ite_iff {c : Prop} [Decidable c] {a b : State} : Steady s (if c then a else b) ↔ (c → Steady s a) ∧ (¬ c → Steady s b) := by
  split <;> simp [*]

theorem dite_iff {c : Prop} [Decidable c] {a : c → State} {b : ¬ c → State} :
    Steady s (if h : c then a h else b h) ↔ (∀ h, Steady s (a h)) ∧ ∀ h, Steady s (b h) := by split <;> simp [*]

theorem iteFst_iff {α : Type} {c : Prop} [Decidable c] {a b : State × α} :
    Steady s (if c then a else b).1 ↔ (c → Steady s a.1) ∧ (¬ c → Steady s b.1) := by split <;> simp [*]

theorem iteDone_iff {c : Prop} [Decidable c] {a b : Done} :
    Steady s (if c then a else b).s ↔ (c → Steady s a.s) ∧ (¬ c → Steady s b.s) := by split <;> simp [*]

/-- A list worked through. -/
theorem foldl {α : Type} {f : State → α → State} (hf : ∀ v a, Steady v (f v a)) (l : List α) : Steady u (l.foldl f u) := by
  induction l generalizing u with
  | nil => exact refl
  | cons a l ih => exact (hf u a).trans ih

theorem foldl_iff {α : Type} {f : State → α → State} {l : List α} (hf : ∀ v a, Steady v (f v a)) :
    Steady s (l.foldl f u) ↔ Steady s u := step_iff (foldl hf l)

theorem each_iff {f : State → Nat → State} {l : List Nat} (hf : ∀ v a, Steady v (f v a)) : Steady s (u.each l f) ↔ Steady s u :=
  foldl_iff hf

end Rules

/-! ### The operations that write the time base's record -/

theorem dropPend (s : State) (id : Nat) : Steady s (s.dropPend id) := by
  unfold State.dropPend
  simp only [refl_iff, mk_time_iff]

theorem loopTrip (s : State) (t : Nat) : Steady s (s.loopTrip t) := by
  unfold State.loopTrip
  simp only [refl_iff, step_iff (dropPend ..), only_iff (State.loopClear_only ..) rfl, only_iff (State.modLp_only ..) rfl,
    put_iff, putB_iff]

theorem trip (s : State) (t : Tile) : Steady s (s.trip t) := by
  unfold State.trip
  simp only [refl_iff, only_iff (State.drive_only ..) rfl, only_iff (State.hvDrive_only ..) rfl, step_iff (loopTrip ..),
    only_iff (State.modFe_only ..) rfl, only_iff (State.raise_only ..) rfl, only_iff (State.visitDrop_only ..) rfl, putB_iff,
    bump_iff]

theorem releaseClass (s : State) (cls : Nat) : Steady s (s.releaseClass cls) := by
  unfold State.releaseClass
  simp only [refl_iff, only_iff (State.raise_only ..) rfl, mk_time_iff]

theorem release (s : State) (mask : Nat) : Steady s (s.release mask) := by
  unfold State.release
  simp only [refl_iff, step_iff (releaseClass ..), each_iff, implies_true]

theorem writeArmed (s : State) (armed : Nat) : Steady s (s.writeArmed armed) := by
  unfold State.writeArmed
  simp only [refl_iff, step_iff (releaseClass ..), mk_time_iff, put_iff, each_iff, implies_true]

theorem slew (s : State) (d : Int) : Steady s (s.slew d) := by
  unfold State.slew
  simp only [refl_iff, mk_time_iff, putB_iff, ite_iff, implies_true, and_self]

theorem modPortTime (s : State) (p : Nat) (f : PortTime → PortTime) : Steady s (s.modPortTime p f) := by
  unfold State.modPortTime
  simp only [refl_iff, mk_time_iff]

theorem timeTake (s : State) (port : Port) (msg : TimeMsg) : Steady s (s.timeTake port msg) := by
  unfold State.timeTake
  dsimp only
  repeat' split
  all_goals simp only [refl_iff, only_iff (State.emit_only ..) rfl, step_iff (modPortTime ..),
    only_iff (State.pinEdge_only ..) rfl]

theorem mastered (s : State) : Steady s s.mastered := by
  unfold State.mastered
  simp only [refl_iff, mk_time_iff]

theorem modAct (s : State) (i : Nat) (f : ActSt → ActSt) : Steady s (s.modAct i f) := by
  unfold State.modAct
  simp only [refl_iff, mk_time_iff]

theorem runLate (s : State) (i : Nat) (due b : Tm) : Steady s (s.runLate i due b) := by
  unfold State.runLate
  simp only [refl_iff, only_iff (State.log_only ..) rfl, step_iff (modAct ..), only_iff (State.raise_only ..) rfl, put_iff,
    putB_iff, bump_iff]

theorem armEntry (s : State) (i value : Nat) : Steady s (s.armEntry i value).1 := by
  unfold State.armEntry
  simp only [refl_iff, step_iff (modAct ..), step_iff (runLate ..), put_iff, putB_iff, putWord_iff, ite_iff, implies_true,
    and_self, iteFst_iff]

theorem actDone (s : State) (i : Nat) (due : Tm) (late : Bool) : Steady s (s.actDone i due late) := by
  unfold State.actDone
  simp only [refl_iff, step_iff (modAct ..), put_iff, ite_iff, implies_true, and_self]

theorem act {f : State → Tm → State} (hf : ∀ v d, Steady v (f v d)) (s : State) (i kind tiles : Nat) :
    Steady s (s.act i kind tiles f) := by
  unfold State.act
  split
  · exact refl
  · simp only [refl_iff, step_iff (actDone ..), only_iff (State.actBlank_only ..) rfl, step_iff (hf _ _), bump_iff, ite_iff,
    implies_true, and_self]

theorem modTout (s : State) (x : Nat) (f : ToutSt → ToutSt) : Steady s (s.modTout x f) := by
  unfold State.modTout
  simp only [refl_iff, mk_time_iff]

theorem toutPulse (s : State) (x : Fin 8) (due : Tm) (width : Nat) : Steady s (s.toutPulse x due width) := by
  unfold State.toutPulse
  simp only [refl_iff, only_iff (State.drive_only ..) rfl, step_iff (modTout ..), bump_iff]

theorem toutProgram (s : State) (x : Fin 8) (b : Tm) : Steady s (s.toutProgram x b) := by
  unfold State.toutProgram
  dsimp only
  split
  · exact modTout ..
  · split <;> simp only [refl_iff, step_iff (modTout ..), only_iff (State.raise_only ..) rfl, putB_iff, ite_iff, implies_true,
    and_self]

theorem actPassed (s : State) (i : Nat) (new : Tm) : Steady s (s.actPassed i new) := by
  unfold State.actPassed
  simp only [refl_iff, step_iff (modAct ..), only_iff (State.raise_only ..) rfl, step_iff (runLate ..), put_iff, bump_iff,
    ite_iff, implies_true, and_self]

theorem redue (s : State) : Steady s s.redue := by
  unfold State.redue
  simp only [refl_iff, mk_time_iff]

theorem parentLane (s : State) : Steady s s.parentLane := by
  unfold State.parentLane
  simp only [refl_iff, mk_iff, ite_iff, implies_true, and_self]

theorem laneDetect (s : State) (l : Nat) : Steady s (s.laneDetect l) := by
  unfold State.laneDetect
  simp only [refl_iff, only_iff (State.modLane_only ..) rfl, step_iff (parentLane ..), only_iff (State.setLane_only ..) rfl,
    putB_iff]

theorem laneOff (s : State) (l : Nat) : Steady s (s.laneOff l) := by
  unfold State.laneOff
  simp only [refl_iff, step_iff (laneDetect ..), only_iff (State.retrained_only ..) rfl, only_iff (State.setLane_only ..) rfl]

theorem portFail (s : State) (p : Nat) : Steady s (s.portFail p) := by
  unfold State.portFail
  simp only [refl_iff, step_iff (laneDetect ..), only_iff (State.linkShow_only ..) rfl,
    only_iff (State.modPortLane_only ..) rfl, only_iff (State.portDown_only ..) rfl, only_iff (State.retrain_only ..) rfl,
    mk_time_iff, put_iff, each_iff, ite_iff, implies_true, and_self]

theorem restripe (s : State) (p : Nat) : Steady s (s.restripe p) := by
  unfold State.restripe
  simp only [refl_iff, step_iff (portFail ..), only_iff (State.stripeSend_only ..) rfl, ite_iff, implies_true, and_self]

theorem laneLost (s : State) (l : Nat) : Steady s (s.laneLost l) := by
  unfold State.laneLost
  simp only [refl_iff, step_iff (laneOff ..), only_iff (State.modLane_only ..) rfl, only_iff (State.modPortLane_only ..) rfl,
    only_iff (State.raise_only ..) rfl, step_iff (restripe ..), only_iff (State.retrain_only ..) rfl,
    only_iff (State.setLane_only ..) rfl, putB_iff, bump_iff, each_iff, ite_iff, implies_true, and_self]

theorem pendAt (s : State) (id : Nat) (v : W64) (cls : Nat) (due : Option Tm) : Steady s (s.pendAt id v cls due) := by
  unfold State.pendAt
  simp only [refl_iff, mk_time_iff]

theorem loadOne (s : State) (target : Tbl W64) (id : Nat) : Steady s (s.loadOne target id) := by
  unfold State.loadOne
  split <;>
    simp only [refl_iff, only_iff (State.modLp_only ..) rfl, step_iff (pendAt ..), mk_iff, ite_iff, implies_true, and_self]

theorem configApply (s : State) (target : Tbl W64) : Steady s (s.configApply target) := by
  unfold State.configApply
  simp only [refl_iff, step_iff (loadOne ..), only_iff (State.sumEval_only ..) rfl, each_iff, implies_true]

theorem configLoad (s : State) : Steady s s.configLoad := by
  unfold State.configLoad
  split <;>
    simp only [refl_iff, step_iff (configApply ..), only_iff (State.log_only ..) rfl, only_iff (State.raise_only ..) rfl,
      mk_iff, ite_iff, implies_true, and_self]

theorem replay (s : State) (p : Nat) : Steady s (s.replay p) := by
  unfold State.replay
  simp only [refl_iff, only_iff (State.emit_only ..) rfl, only_iff (State.modFp_only ..) rfl, step_iff (portFail ..),
    only_iff (State.raise_only ..) rfl, bump_iff, ite_iff, implies_true, and_self, foldl_iff]

theorem clockFollow (s : State) (i : Install) : Steady s (s.clockFollow i) := by
  unfold State.clockFollow
  simp only [refl_iff, only_iff (State.modFp_only ..) rfl, step_iff (parentLane ..), only_iff (State.raise_only ..) rfl,
    mk_time_iff, put_iff, bump_iff, each_iff, ite_iff, implies_true, and_self]

theorem noMaster (s : State) : Steady s s.noMaster := by
  unfold State.noMaster
  simp only [refl_iff, mk_time_iff]

theorem strand (s : State) (i : Install) : Steady s (s.strand i) := by
  unfold State.strand
  simp only [refl_iff, only_iff (State.clockHold_only ..) rfl, step_iff (noMaster ..), only_iff (State.raise_only ..) rfl,
    only_iff (State.setRoot_only ..) rfl, putB_iff]

theorem tableWrite (s : State) (f : Fld) (l : List (Nat × BitVec 7)) : Steady s (s.tableWrite f l) :=
  foldl (fun _ _ => putWord_iff.2 refl) l

theorem routeApply (s : State) : Steady s s.routeApply := by
  unfold State.routeApply
  split
  · exact refl
  · simp only [refl_iff, only_iff (State.alignOwn_only ..) rfl, only_iff (State.claimDone_only ..) rfl,
    step_iff (clockFollow ..), only_iff (State.linkShow_only ..) rfl, only_iff (State.portsFollow_only ..) rfl,
    only_iff (State.probePump_only ..) rfl, only_iff (State.raise_only ..) rfl, only_iff (State.routeChange_only ..) rfl,
    only_iff (State.seamFollow_only ..) rfl, only_iff (State.setRoot_only ..) rfl, step_iff (strand ..),
    step_iff (tableWrite ..), mk_iff, put_iff, putB_iff, bump_iff, ite_iff, implies_true, and_self]

theorem laneRestart (s : State) (l : Nat) : Steady s (s.laneRestart l) := by
  unfold State.laneRestart
  simp only [refl_iff, step_iff (laneDetect ..), only_iff (State.retrain_only ..) rfl]

theorem laneEnables (s : State) : Steady s s.laneEnables := by
  unfold State.laneEnables
  simp only [refl_iff, step_iff (laneDetect ..), step_iff (laneOff ..), step_iff (portFail ..), step_iff (restripe ..),
    only_iff (State.setLane_only ..) rfl, put_iff, each_iff, ite_iff, implies_true, and_self]

theorem testEnd (s : State) (l : Nat) : Steady s (s.testEnd l) := by
  unfold State.testEnd
  simp only [refl_iff, step_iff (laneOff ..), step_iff (laneRestart ..), ite_iff, implies_true, and_self]

theorem laneLoop (s : State) (l v : Nat) : Steady s (s.laneLoop l v).1 := by
  unfold State.laneLoop
  simp only [refl_iff, only_iff (State.linkSend_only ..) rfl, only_iff (State.modLane_only ..) rfl,
    only_iff (State.testBegin_only ..) rfl, step_iff (testEnd ..), put_iff, ite_iff, implies_true, and_self, iteFst_iff]

theorem prbsWrite (s : State) (p v : Nat) : Steady s (s.prbsWrite p v).1 := by
  unfold State.prbsWrite
  simp only [refl_iff, only_iff (State.emit_only ..) rfl, only_iff (State.modPortLane_only ..) rfl,
    only_iff (State.raise_only ..) rfl, only_iff (State.testBegin_only ..) rfl, step_iff (testEnd ..), putB_iff, bump_iff,
    putWord_iff, ite_iff, implies_true, and_self, iteFst_iff]

theorem shadowsDrop (s : State) : Steady s s.shadowsDrop := by
  unfold State.shadowsDrop
  simp only [refl_iff, mk_time_iff]

theorem abutEnter (s : State) (cause : Nat) : Steady s (s.abutEnter cause) := by
  unfold State.abutEnter
  simp only [refl_iff, only_iff (State.coreShow_only ..) rfl, only_iff (State.maintShow_only ..) rfl,
    only_iff (State.mbDrop_only ..) rfl, only_iff (State.mbReady_only ..) rfl, only_iff (State.planeStop_only ..) rfl,
    only_iff (State.raise_only ..) rfl, step_iff (shadowsDrop ..), mk_iff]

theorem abutCheck (s : State) : Steady s s.abutCheck := by
  unfold State.abutCheck
  simp only [refl_iff, step_iff (abutEnter ..), ite_iff, implies_true, and_self]

theorem revoke (s : State) : Steady s s.revoke := by
  unfold State.revoke
  simp only [refl_iff, step_iff (abutCheck ..), only_iff (State.coreShow_only ..) rfl, only_iff (State.mbDrop_only ..) rfl,
    only_iff (State.mbReady_only ..) rfl, only_iff (State.pierReset_only ..) rfl, only_iff (State.raise_only ..) rfl,
    step_iff (shadowsDrop ..), mk_iff]

theorem ckptTake (s : State) : Steady s s.ckptTake := by
  unfold State.ckptTake
  simp only [refl_iff, mk_time_iff, put_iff, each_iff, implies_true]

theorem bootConfig (s : State) : Steady s s.bootConfig := by
  unfold State.bootConfig
  simp only [refl_iff, step_iff (configLoad ..), mk_iff, ite_iff, implies_true, and_self]

theorem coldLoad (s : State) : Steady s s.coldLoad := by
  unfold State.coldLoad
  simp only [refl_iff, step_iff (bootConfig ..), only_iff (State.ctxReset_only ..) rfl, only_iff (State.histClear_only ..) rfl,
    each_iff, implies_true]

theorem handOver (s : State) : Steady s s.handOver := by
  unfold State.handOver
  simp only [refl_iff, only_iff (State.coreShow_only ..) rfl, only_iff (State.mbDrop_only ..) rfl,
    only_iff (State.mbReady_only ..) rfl, only_iff (State.raise_only ..) rfl, step_iff (shadowsDrop ..), mk_iff]

theorem commit (s : State) (b : Tm) : Steady s (s.commit b) := by
  unfold State.commit
  simp only [refl_iff, only_iff (State.commitPosts_only ..) rfl, only_iff (State.coreShow_only ..) rfl, step_iff (handOver ..),
    only_iff (State.raise_only ..) rfl, mk_iff, put_iff, putB_iff, bump_iff, ite_iff, implies_true, and_self]

theorem maintGo (s : State) (a : Act) : Steady s (s.maintGo a) := by
  unfold State.maintGo
  split <;>
    simp only [refl_iff, only_iff (State.compactStep_only ..) rfl, step_iff (laneRestart ..),
      only_iff (State.maintBegin_only ..) rfl, only_iff (State.modFe_only ..) rfl, only_iff (State.retrainBegin_only ..) rfl,
      only_iff (State.rotBegin_only ..) rfl, only_iff (State.visitBegin_only ..) rfl, ite_iff, implies_true, and_self]

theorem bankBad (s : State) : Steady s s.bankBad := by
  unfold State.bankBad
  split <;>
    simp only [refl_iff, step_iff (commit ..), only_iff (State.unsync_only ..) rfl, mk_iff, ite_iff, implies_true, and_self]

theorem scrubBad (s : State) (m addr : Nat) : Steady s (s.scrubBad m addr) := by
  unfold State.scrubBad
  simp only [refl_iff, step_iff (bankBad ..), only_iff (State.configWordBad_only ..) rfl, only_iff (State.memUe_only ..) rfl,
    only_iff (State.pierWordBad_only ..) rfl, ite_iff, implies_true, and_self]

theorem setEffect (s : State) (n : Named) (i : Nat) (mask bits old new : W64) : Steady s (s.setEffect n i mask bits old new).1
    := by
  unfold State.setEffect
  simp only [refl_iff, step_iff (armEntry ..), only_iff (State.channelRestore_only ..) rfl, only_iff (State.ctxOp_only ..) rfl,
    only_iff (State.dutyWrite_only ..) rfl, only_iff (State.emit_only ..) rfl, step_iff (laneLoop ..),
    step_iff (laneRestart ..), only_iff (State.maintStart_only ..) rfl, only_iff (State.manWrite_only ..) rfl,
    only_iff (State.modLp_only ..) rfl, only_iff (State.ownerWrite_only ..) rfl, step_iff (prbsWrite ..),
    only_iff (State.secWrite_only ..) rfl, only_iff (State.sumEval_only ..) rfl, only_iff (State.tripClear_only ..) rfl,
    only_iff (State.urgent_only ..) rfl, step_iff (writeArmed ..), ite_iff, implies_true, and_self, iteFst_iff]

theorem storeEntry (s : State) (n : Named) (i : Nat) (e : Entry) : Steady s (s.storeEntry n i e).1 := by
  unfold State.storeEntry
  simp only [refl_iff, step_iff (setEffect ..), mk_iff]

theorem instKeep (s : State) (n : Named) (cls : Nat) (e : Entry) (i : Nat) (new : W64) : Steady s (s.instKeep n cls e i new)
    := by
  unfold State.instKeep
  simp only [refl_iff, step_iff (pendAt ..), mk_iff, ite_iff, implies_true, and_self]

theorem instSet (s : State) (n : Named) (cls : Nat) (e : Entry) (i : Nat) : Steady s (s.instSet n cls e i).s := by
  unfold State.instSet
  dsimp only
  repeat' split
  all_goals simp only [refl_iff, step_iff (instKeep ..), step_iff (storeEntry ..)]

theorem instsSet (s : State) (n : Named) (cls : Nat) (e : Entry) (waits : Bool) (is : List Nat) :
    Steady s (s.instsSet n cls e waits is).s := by
  induction is generalizing s waits with
  | nil => exact refl
  | cons i is ih =>
    unfold State.instsSet
    dsimp only
    split
    · exact instSet ..
    · exact (instSet ..).trans (ih ..)

theorem entrySet (s : State) (cls : Nat) (e : Entry) : Steady s (s.entrySet cls e).s := by
  unfold State.entrySet
  split
  · exact refl
  · split
    · exact refl
    · split
      · exact refl
      · exact instsSet ..

theorem paramSet (s : State) (p : List Byte) : Steady s (s.paramSet p).s := by
  unfold State.paramSet
  dsimp only
  split
  · exact of_only (State.setRefused_only ..) rfl
  · exact entrySet ..

theorem entriesSet (s : State) (cls : Nat) (waits : Bool) (k : Nat) (es : List Entry) :
    Steady s (s.entriesSet cls waits k es).1.s := by
  induction es generalizing s waits k with
  | nil => exact refl
  | cons e es ih =>
    unfold State.entriesSet
    dsimp only
    split
    · exact entrySet ..
    · exact (entrySet ..).trans (ih ..)

theorem endsWith_s (s : State) (status result : Nat) : (s.endsWith status result).s = s := rfl

theorem multiSet (s : State) (p : List Byte) : Steady s (s.multiSet p).s := by
  unfold State.multiSet
  simp only [refl_iff, only_iff (State.setRefused_only ..) rfl, step_iff (entriesSet ..), mk_iff, ite_iff, iteDone_iff,
    State.ends_s, endsWith_s, State.gives_s, implies_true, and_self]

theorem armAnswer {s : State} {r : State × Nat} (i : Nat) (h : Steady s r.1) : Steady s (s.armAnswer i r).s := by
  unfold State.armAnswer
  split
  · exact h
  · exact refl

theorem scheduleIn (s : State) (p : List Byte) (entry : Option Nat) : Steady s (s.scheduleIn p entry).s := by
  unfold State.scheduleIn
  split
  · exact refl
  · refine armAnswer _ ?_
    simp only [refl_iff, step_iff (armEntry ..), put_iff]

theorem schedule (s : State) (p : List Byte) : Steady s (s.schedule p).s := by
  unfold State.schedule
  simp only [refl_iff, step_iff (scheduleIn ..), implies_true, and_self, iteDone_iff, State.ends_s]

theorem coreReset (s : State) : Steady s s.coreReset := by
  unfold State.coreReset
  simp only [refl_iff, only_iff (State.coreShow_only ..) rfl, only_iff (State.ctxReturn_only ..) rfl,
    only_iff (State.mbDrop_only ..) rfl, only_iff (State.mbReady_only ..) rfl, only_iff (State.pierBoot_only ..) rfl,
    only_iff (State.raise_only ..) rfl, only_iff (State.seamReturn_only ..) rfl, step_iff (shadowsDrop ..), mk_iff, ite_iff,
    implies_true, and_self]

theorem rebaseCore (s : State) (j : Int) : Steady s (s.rebaseCore j) := by
  unfold State.rebaseCore
  simp only [refl_iff, only_iff (State.modDc_only ..) rfl, step_iff (modPortTime ..), mk_time_iff, each_iff, implies_true]

theorem rebase (s : State) (j : Int) : Steady s (s.rebase j) := by
  unfold State.rebase
  simp only [refl_iff, step_iff (rebaseCore ..), only_iff (State.rebasePorts_only ..) rfl,
    only_iff (State.rebaseStreams_only ..) rfl, only_iff (State.rebaseTdc_only ..) rfl,
    only_iff (State.rebaseTiles_only ..) rfl, mk_iff]

theorem swap (s : State) (b next : Tm) (badWords : List Nat) : Steady s (s.swap b next badWords).1 := by
  unfold State.swap
  simp only [refl_iff, only_iff (State.memUe_only ..) rfl, only_iff (State.renameWaits_only ..) rfl, mk_time_iff, put_iff,
    each_iff, ite_iff, implies_true, and_self]

theorem swapTout (s old : State) (b : Tm) (programmed : List Nat) (x : Fin 8) : Steady s (s.swapTout old b programmed x) := by
  unfold State.swapTout
  simp only [refl_iff, only_iff (State.drive_only ..) rfl, step_iff (toutProgram ..), ite_iff, implies_true, and_self]

theorem swapPps (s : State) : Steady s s.swapPps := by
  unfold State.swapPps
  simp only [refl_iff, only_iff (State.drive_only ..) rfl, mk_time_iff, ite_iff, implies_true, and_self]

theorem swapTiming (s old : State) (b : Tm) (taken : List Pend) : Steady s (s.swapTiming old b taken) := by
  unfold State.swapTiming
  simp only [refl_iff, only_iff (State.gaugesResume_only ..) rfl, only_iff (State.modTd_only ..) rfl,
    only_iff (State.swapCondition_only ..) rfl, only_iff (State.swapGauge_only ..) rfl, step_iff (swapPps ..),
    step_iff (swapTout ..), only_iff (State.swapTrigOut_only ..) rfl, put_iff, each_iff, ite_iff, implies_true, and_self,
    dite_iff]

theorem spanLength (s : State) (b : Tm) : Steady s (s.spanLength b) := by
  unfold State.spanLength
  simp only [refl_iff, only_iff (State.raise_only ..) rfl, mk_time_iff, ite_iff, implies_true, and_self]

theorem stepWaits (s : State) (b : Tm) : Steady s (s.stepWaits b) := by
  unfold State.stepWaits
  simp only [refl_iff, mk_time_iff]

theorem anchor (s : State) (b : Tm) : Steady s (s.anchor b) := by
  unfold State.anchor
  simp only [refl_iff, mk_time_iff]

theorem swapAll (s : State) (b : Tm) (badWords : List Nat) : Steady s (s.swapAll b badWords) := by
  unfold State.swapAll
  simp only [refl_iff, step_iff (laneEnables ..), only_iff (State.pressShow_only ..) rfl, step_iff (spanLength ..),
    step_iff (swap ..), only_iff (State.swapAreas_only ..) rfl, only_iff (State.swapFront_only ..) rfl,
    step_iff (swapTiming ..), mk_iff]

theorem partsBoundary (s : State) : Steady s s.partsBoundary := by
  unfold State.partsBoundary
  simp only [refl_iff, only_iff (State.brokenMasks_only ..) rfl, only_iff (State.ctxBoundary_only ..) rfl,
    only_iff (State.ddrReturn_only ..) rfl, only_iff (State.hopsAdopt_only ..) rfl, step_iff (maintGo ..),
    only_iff (State.rawPlaceAll_only ..) rfl, only_iff (State.rejoinArm_only ..) rfl, only_iff (State.rotBoundary_only ..) rfl,
    step_iff (routeApply ..), only_iff (State.seamBoundary_only ..) rfl, only_iff (State.transfersAdopt_only ..) rfl, mk_iff,
    each_iff, foldl_iff, implies_true]

theorem coreBoundary (s : State) : Steady s s.coreBoundary := by
  unfold State.coreBoundary
  simp only [refl_iff, step_iff (revoke ..), mk_iff, ite_iff, implies_true, and_self]

/-! ### Mailbox commands (R380, R384 to R388) -/

/-- A finished command has the time base of its effect, or of the state that it began in, where the background is full (R384). -/
theorem finish (s : State) (w : Who) (c : Cmd) (k : Cls) (d : Done) :
    Steady s (s.finish w c k d) ∨ Steady d.s (s.finish w c k d) := by
  unfold State.finish
  dsimp only
  split
  · right; simp only [refl_iff, only_iff (State.post_only ..) rfl, bump_iff]
  · split
    · split
      · left; simp only [refl_iff, only_iff (State.post_only ..) rfl, only_iff (State.record_only ..) rfl,
          only_iff (State.seqAccept_only ..) rfl]
      · right; simp only [refl_iff, only_iff (State.post_only ..) rfl, only_iff (State.seqAccept_only ..) rfl, bump_iff, mk_iff,
        ite_iff, implies_true, and_self]
    · right; simp only [refl_iff, only_iff (State.post_only ..) rfl, only_iff (State.record_only ..) rfl,
      only_iff (State.seqAccept_only ..) rfl, bump_iff, mk_iff, ite_iff, implies_true, and_self]

/-- What a mailbox command does to the time base its effect does, begun in a state with the same time base. -/
theorem command_effect (s : State) (mb : Mb) (c : Cmd) (need : Nat) (f : State → Who → Done) :
    Steady s (s.command mb c need f) ∨ ∃ v w, Steady s v ∧ Steady (f v w).s (s.command mb c need f) := by
  have hs : Steady s (s.sender mb c).1 := of_only (State.sender_only ..) rfl
  unfold State.command
  dsimp only
  split
  · left; simp only [refl_iff, only_iff (State.deny_only ..) rfl, ite_iff, implies_true, and_self]
  · split
    · exact .inl (hs.trans (of_only (State.forward_only ..) rfl))
    · split
      · exact .inl (hs.trans (of_only (State.post_only ..) rfl))
      · split
        · exact .inl (hs.trans (of_only (State.post_only ..) rfl))
        · by_cases hf : c.fits need = stOk
          · rw [if_pos hf]
            exact (finish ..).imp hs.trans fun h => ⟨_, _, hs, h⟩
          · rw [if_neg hf]
            exact .inl (hs.trans ((finish ..).elim id id))

theorem command {f : State → Who → Done} (hf : ∀ v w, Steady v (f v w).s) (s : State) (mb : Mb) (c : Cmd) (need : Nat) :
    Steady s (s.command mb c need f) := by
  rcases command_effect s mb c need f with h | ⟨v, w, hv, h⟩
  · exact h
  · exact (hv.trans (hf v w)).trans h

/-! ### The commands that write the time base's record -/

section Commands

variable {s u : State} {t : Tm} {pin : Fin 2} {level : Bool} {tile : Tile} {armed : BitVec 8} {port : Port}
  {msg : TimeMsg} {meas : SyncMeas} {entry : Fin 64} {value : BitVec 32} {x : Fin 8} {credit : Credit} {mb : Mb}
  {cmd : Cmd} {lane : Lane} {loss : LockLoss} {mask locked : BitVec 4} {start : Bool} {pier : Pier} {bytes : Nat}
  {crossed accepted : Bool} {action : Fin 8} {unit : Nat} {slotA slotB : Image} {memory : Fin 19} {addr : Nat}
  {result : Fin 3} {written : Bool} {cls : Fin 8} {sum : Nat} {loopMode : BitVec 3} (hp : s.pwr.por = false)
include hp

theorem execBlankPinEdge (h : execBlankPinEdge t pin level s = .next u) : Steady (s.clock t) u := by
  unfold Machine.execBlankPinEdge at h
  rw [hp] at h
  obtain rfl := Host.Outcome.next.inj h
  simp only [refl_iff, only_iff (State.blankAll_only ..) rfl, only_iff (State.pinSet_only ..) rfl]

theorem execGlitchFilterExpire (h : execGlitchFilterExpire t tile s = .next u) : Steady (s.clock t) u := by
  obtain rfl := live_next hp h
  repeat' split
  all_goals
    simp only [refl_iff, step_iff (trip ..)]

theorem execSwapCfgWrite (h : execSwapCfgWrite t armed s = .next u) : Steady (s.clock t) u := by
  obtain rfl := live_next hp h
  simp only [refl_iff, only_iff (State.deny_only ..) rfl, step_iff (writeArmed ..), ite_iff, implies_true, and_self]

theorem execSwapCutoff (h : execSwapCutoff t s = .next u) : Steady (s.clock t) u := by
  obtain rfl := live_next hp h
  dsimp only
  repeat' split
  all_goals
    simp only [refl_iff, mk_time_iff]

theorem execTimeMessage (h : execTimeMessage t port msg s = .next u) : Steady (s.clock t) u := by
  obtain rfl := live_next hp h
  simp only [refl_iff, step_iff (timeTake ..), ite_iff, implies_true, and_self]

theorem execSyncInterval (h : execSyncInterval t meas s = .next u) : Steady (s.clock t) u := by
  obtain rfl := live_next hp h
  dsimp only
  repeat' split
  all_goals
    simp only [refl_iff, only_iff (State.emit_only ..) rfl, step_iff (modPortTime ..), only_iff (State.pinEdge_only ..) rfl,
      only_iff (State.portAdopt_only ..) rfl]

theorem execSlewComplete (h : execSlewComplete t s = .next u) : Steady (s.clock t) u := by
  obtain rfl := live_next hp h
  simp only [refl_iff, step_iff (slew ..), ite_iff, implies_true, and_self]

theorem execHoldoverEnter (h : execHoldoverEnter t s = .next u) : Steady (s.clock t) u := by
  obtain rfl := live_next hp h
  simp only [refl_iff, only_iff (State.raise_only ..) rfl, only_iff (State.timeState_only ..) rfl, ite_iff, implies_true,
    and_self]

theorem execActCfgArm (h : execActCfgArm t entry value s = .next u) : Steady (s.clock t) u := by
  obtain rfl := live_next hp h
  simp only [refl_iff, step_iff (armEntry ..), only_iff (State.deny_only ..) rfl, ite_iff, implies_true, and_self]

theorem execActionPulser (h : execActionPulser t entry s = .next u) : Steady (s.clock t) u := by
  obtain rfl := live_next hp h
  refine act (fun _ _ => ?_) ..
  simp only [refl_iff, only_iff (State.emit_only ..) rfl, only_iff (State.pulserBlank_only ..) rfl]

theorem execActionToutPulse (h : execActionToutPulse t entry s = .next u) : Steady (s.clock t) u := by
  obtain rfl := live_next hp h
  refine act (fun _ _ => ?_) ..
  simp only [refl_iff, step_iff (toutPulse ..), ite_iff, implies_true, and_self]

theorem execActionSwapRelease (h : execActionSwapRelease t entry s = .next u) : Steady (s.clock t) u := by
  obtain rfl := live_next hp h
  refine act (fun _ _ => ?_) ..
  simp only [refl_iff, step_iff (release ..)]

theorem execActionFirmware (h : execActionFirmware t entry s = .next u) : Steady (s.clock t) u := by
  obtain rfl := live_next hp h
  refine act (fun _ _ => ?_) ..
  simp only [refl_iff, only_iff (State.raise_only ..) rfl]

theorem execToutPulse (h : execToutPulse t x s = .next u) : Steady (s.clock t) u := by
  obtain rfl := live_next hp h
  repeat' split
  all_goals
    simp only [refl_iff, step_iff (modTout ..), step_iff (toutPulse ..)]

theorem execToutPulseEnd (h : execToutPulseEnd t x s = .next u) : Steady (s.clock t) u := by
  obtain rfl := live_next hp h
  simp only [refl_iff, only_iff (State.drive_only ..) rfl, step_iff (modTout ..), ite_iff, implies_true, and_self]

theorem execPpsOutEdge (h : execPpsOutEdge t s = .next u) : Steady (s.clock t) u := by
  obtain rfl := live_next hp h
  simp only [refl_iff, only_iff (State.drive_only ..) rfl, mk_time_iff, ite_iff, implies_true, and_self]

theorem execPpsOutFall (h : execPpsOutFall t s = .next u) : Steady (s.clock t) u := by
  obtain rfl := live_next hp h
  simp only [refl_iff, only_iff (State.drive_only ..) rfl, mk_time_iff, ite_iff, implies_true, and_self]

theorem execCreditBlock (h : execCreditBlock t port credit s = .next u) : Steady (s.clock t) u := by
  obtain rfl := live_next hp h
  simp only [refl_iff, only_iff (State.fabPump_only ..) rfl, only_iff (State.modFp_only ..) rfl, step_iff (replay ..),
    only_iff (State.showCredit_only ..) rfl, only_iff (State.upDrain_only ..) rfl, ite_iff, implies_true, and_self]

theorem execReplayTimeout (h : execReplayTimeout t port s = .next u) : Steady (s.clock t) u := by
  obtain rfl := live_next hp h
  repeat' split
  all_goals
    simp only [refl_iff, step_iff (replay ..)]

theorem execRootRelease (h : execRootRelease t mb cmd s = .next u) : Steady (s.clock t) u := by
  obtain rfl := live_next hp h
  refine command (fun _ _ => ?_) ..
  simp only [refl_iff, step_iff (mastered ..), only_iff (State.raise_only ..) rfl, only_iff (State.setRoot_only ..) rfl, mk_iff,
    putB_iff, implies_true, and_self, iteDone_iff, State.ends_s, State.gives_s]

theorem execLaneCdrLock (h : execLaneCdrLock t lane s = .next u) : Steady (s.clock t) u := by
  obtain rfl := live_next hp h
  simp only [refl_iff, step_iff (parentLane ..), only_iff (State.setLane_only ..) rfl, putB_iff, ite_iff, implies_true,
    and_self]

theorem execLaneLockLoss (h : execLaneLockLoss t lane loss s = .next u) : Steady (s.clock t) u := by
  obtain rfl := live_next hp h
  simp only [refl_iff, step_iff (laneLost ..), step_iff (parentLane ..), putB_iff, bump_iff, ite_iff, implies_true, and_self]

theorem execLaneNoTransitions (h : execLaneNoTransitions t lane s = .next u) : Steady (s.clock t) u := by
  obtain rfl := live_next hp h
  simp only [refl_iff, step_iff (laneLost ..), bump_iff]

theorem execLaneRetrainTimeout (h : execLaneRetrainTimeout t lane s = .next u) : Steady (s.clock t) u := by
  obtain rfl := live_next hp h
  repeat' split
  all_goals
    simp only [refl_iff, step_iff (laneDetect ..), only_iff (State.retrain_only ..) rfl, bump_iff]

theorem execRestripe (h : execRestripe t port mask locked s = .next u) : Steady (s.clock t) u := by
  obtain rfl := live_next hp h
  simp only [refl_iff, only_iff (State.linkSend_only ..) rfl, only_iff (State.peerLocks_only ..) rfl, step_iff (portFail ..),
    only_iff (State.stripeDone_only ..) rfl, only_iff (State.stripeSend_only ..) rfl, ite_iff, implies_true, and_self]

theorem execRestripeResend (h : execRestripeResend t port s = .next u) : Steady (s.clock t) u := by
  obtain rfl := live_next hp h
  dsimp only
  repeat' split
  all_goals
    simp only [refl_iff, only_iff (State.linkSend_only ..) rfl, only_iff (State.modPortLane_only ..) rfl]

theorem execRestripeTimeout (h : execRestripeTimeout t port s = .next u) : Steady (s.clock t) u := by
  obtain rfl := live_next hp h
  repeat' split
  all_goals
    simp only [refl_iff, step_iff (portFail ..)]

theorem execLaneLoopWrite (h : execLaneLoopWrite t lane loopMode s = .next u) : Steady (s.clock t) u := by
  obtain rfl := live_next hp h
  simp only [refl_iff, step_iff (laneLoop ..)]

theorem execLoopReq (h : execLoopReq t port mask start s = .next u) : Steady (s.clock t) u := by
  obtain rfl := live_next hp h
  simp only [refl_iff, only_iff (State.linkSend_only ..) rfl, only_iff (State.modLane_only ..) rfl,
    only_iff (State.testBegin_only ..) rfl, step_iff (testEnd ..), each_iff, ite_iff, implies_true, and_self]

theorem execLeaseExpire (h : execLeaseExpire t s = .next u) : Steady (s.clock t) u := by
  obtain rfl := live_next hp h
  simp only [refl_iff, step_iff (revoke ..), mk_iff, ite_iff, implies_true, and_self]

theorem execPierHealthTimeout (h : execPierHealthTimeout t pier s = .next u) : Steady (s.clock t) u := by
  obtain rfl := live_next hp h
  dsimp only
  repeat' split
  all_goals
    simp only [refl_iff, step_iff (abutCheck ..), only_iff (State.bumpPier_only ..) rfl, only_iff (State.modPier_only ..) rfl,
      only_iff (State.raise_only ..) rfl]

theorem execLeaseGrant (h : execLeaseGrant t pier s = .next u) : Steady (s.clock t) u := by
  obtain rfl := live_next hp h
  simp only [refl_iff, step_iff (bootConfig ..), step_iff (ckptTake ..), step_iff (coldLoad ..),
    only_iff (State.histClear_only ..) rfl, only_iff (State.holderStart_only ..) rfl, only_iff (State.leaseTake_only ..) rfl,
    only_iff (State.promoted_only ..) rfl, only_iff (State.takeoverPost_only ..) rfl, put_iff, ite_iff, implies_true, and_self]

theorem execCheckpointMark (h : execCheckpointMark t bytes crossed s = .next u) : Steady (s.clock t) u := by
  obtain rfl := live_next hp h
  simp only [refl_iff, step_iff (commit ..), only_iff (State.raise_only ..) rfl, mk_iff, put_iff, bump_iff, ite_iff,
    implies_true, and_self]

theorem execCheckpointAck (h : execCheckpointAck t accepted s = .next u) : Steady (s.clock t) u := by
  obtain rfl := live_next hp h
  dsimp only
  repeat' split
  all_goals
    simp only [refl_iff, step_iff (commit ..), only_iff (State.unsync_only ..) rfl, mk_iff]

theorem execCheckpointAckTimeout (h : execCheckpointAckTimeout t s = .next u) : Steady (s.clock t) u := by
  obtain rfl := live_next hp h
  repeat' split
  all_goals
    simp only [refl_iff, step_iff (commit ..), only_iff (State.unsync_only ..) rfl]

theorem execMaintDeferredStart (h : execMaintDeferredStart t action unit s = .next u) : Steady (s.clock t) u := by
  obtain rfl := live_next hp h
  repeat' split
  all_goals
    simp only [refl_iff, only_iff (State.maintDefer_only ..) rfl, step_iff (maintGo ..),
      only_iff (State.maintRefuse_only ..) rfl, only_iff (State.waitDrop_only ..) rfl]

theorem execBootVerify (h : execBootVerify t slotA slotB s = .next u) : Steady (s.clock t) u := by
  obtain rfl := live_next hp h
  simp only [refl_iff, step_iff (abutEnter ..), only_iff (State.askSigs_only ..) rfl, only_iff (State.bootFrom_only ..) rfl,
    only_iff (State.raise_only ..) rfl, only_iff (State.setSlot_only ..) rfl, putB_iff, ite_iff, implies_true, and_self]

theorem execSramScrubRead (h : execSramScrubRead t memory addr result written s = .next u) : Steady (s.clock t) u := by
  obtain rfl := live_next hp h
  dsimp only
  repeat' split
  all_goals
    simp only [refl_iff, only_iff (State.memCe_only ..) rfl, step_iff (scrubBad ..), mk_iff, bump_iff]

theorem execParamSet (h : execParamSet t mb cmd s = .next u) : Steady (s.clock t) u := by
  obtain rfl := live_next hp h
  refine command (fun _ _ => ?_) ..
  simp only [refl_iff, step_iff (paramSet ..)]

theorem execParamSetMulti (h : execParamSetMulti t mb cmd s = .next u) : Steady (s.clock t) u := by
  obtain rfl := live_next hp h
  refine command (fun _ _ => ?_) ..
  simp only [refl_iff, step_iff (multiSet ..)]

theorem execAtNsRelease (h : execAtNsRelease t cls s = .next u) : Steady (s.clock t) u := by
  obtain rfl := live_next hp h
  dsimp only
  repeat' split
  all_goals
    simp only [refl_iff, step_iff (releaseClass ..), mk_iff]

theorem execSwapCommit (h : execSwapCommit t mb cmd s = .next u) : Steady (s.clock t) u := by
  obtain rfl := live_next hp h
  refine command (fun _ _ => ?_) ..
  simp only [refl_iff, step_iff (release ..), State.gives_s]

theorem execConfigLoad (h : execConfigLoad t mb cmd s = .next u) : Steady (s.clock t) u := by
  obtain rfl := live_next hp h
  refine command (fun _ _ => ?_) ..
  simp only [refl_iff, step_iff (configApply ..), step_iff (configLoad ..), ite_iff, implies_true, and_self, iteDone_iff,
    State.ends_s, State.gives_s]

theorem execSchedule (h : execSchedule t mb cmd s = .next u) : Steady (s.clock t) u := by
  obtain rfl := live_next hp h
  refine command (fun _ _ => ?_) ..
  simp only [refl_iff, step_iff (schedule ..)]

theorem execOverlightRelease (h : execOverlightRelease t tile sum s = .next u) : Steady (s.clock t) u := by
  obtain rfl := live_next hp h
  simp only [refl_iff, only_iff (State.drive_only ..) rfl, only_iff (State.modFe_only ..) rfl,
    only_iff (State.sumEval_only ..) rfl, step_iff (trip ..), ite_iff, implies_true, and_self]

end Commands
end Steady

/-! ### The present stands (R306, R320)

The servo, an adoption and the steps' own records write the pending steps, and not the instant or its epoch. -/

/-- The present: the instant and its epoch (R306). -/
def State.face (s : State) : Tm × Nat := (s.time.now, s.time.epoch)

/-- From `s` to `u` the present stands. -/
def Faced (s u : State) : Prop := u.face = s.face

theorem Steady.faced {s u : State} (h : Steady s u) : Faced s u := congrArg Prod.fst h

namespace Faced

theorem refl {s : State} : Faced s s := rfl

theorem trans {s u v : State} (h : Faced s u) (k : Faced u v) : Faced s v := Eq.trans k h

theorem of_only {s u : State} {ps : List Part} {rs : List Nat} (h : Only ps rs s u) (hp : decide (Part.time ∈ ps) = false) :
    Faced s u :=
  (Steady.of_only h hp).faced

theorem refl_iff {s : State} : Faced s s ↔ True := iff_true_intro refl

/-- One more operation, which leaves the present. -/
theorem step_iff {s u v : State} (h : Faced u v) : Faced s v ↔ Faced s u := by rw [Faced, Faced, h]

theorem ite_iff {s : State} {c : Prop} [Decidable c] {a b : State} :
    Faced s (if c then a else b) ↔ (c → Faced s a) ∧ (¬ c → Faced s b) := by split <;> simp [*]

theorem iteDone {s : State} {c : Prop} [Decidable c] {a b : Done} (ha : Faced s a.s) (hb : Faced s b.s) :
    Faced s (if c then a else b).s := by split <;> assumption

theorem servo (s : State) (theta : Int) (masterEpoch : Nat) : Faced s (s.servo theta masterEpoch) := by
  have hput : Steady s (s.put P.TIME_OFFSET_ST 0 (satSigned 32 theta)) := .of_time (State.put_time ..)
  unfold State.servo
  dsimp only
  split
  · exact hput.faced
  · split
    · exact hput.faced.trans (of_only (State.jumpRefused_only ..) rfl)
    · refine hput.faced.trans (Steady.faced ?_)
      simp only [Steady.refl_iff, Steady.step_iff (Steady.slew ..), Steady.only_iff (State.timeState_only ..) rfl,
        Steady.putB_iff]

theorem theta (s : State) (th : Int) (masterEpoch : Nat) : Faced s (s.theta th masterEpoch) := by
  unfold State.theta
  dsimp only
  split
  · exact refl
  · split
    · exact refl
    · refine trans ?_ (servo ..)
      rfl

theorem adopt (s : State) (th : Int) (masterEpoch : Nat) : Faced s (s.adopt th masterEpoch) := by
  unfold State.adopt
  split
  · exact refl
  · rfl

theorem dropSteps (s : State) : Faced s s.dropSteps := by
  unfold State.dropSteps
  dsimp only
  split
  · exact refl
  · refine trans rfl (Steady.foldl (fun v _ => ?_) _).faced
    simp only [Steady.refl_iff, Steady.only_iff (State.raise_only ..) rfl, Steady.putB_iff]

theorem stepActs (s : State) (p : PendStep) (b : Tm) (oldEpoch : Nat) : Faced s (s.stepActs p b oldEpoch) := by
  unfold State.stepActs
  refine trans (Steady.faced ?_) (dropSteps _)
  simp only [Steady.refl_iff, Steady.step_iff (Steady.toutProgram ..), Steady.step_iff (Steady.actPassed ..),
    Steady.only_iff (State.timeState_only ..) rfl, Steady.step_iff (Steady.redue ..), Steady.step_iff (Steady.slew ..),
    Steady.only_iff (State.raise_only ..) rfl, Steady.put_iff, Steady.putB_iff, Steady.bump_iff, Steady.each_iff,
    Steady.ite_iff, Steady.dite_iff, implies_true, and_self]

theorem timeStep (s : State) (p : List Byte) : Faced s (s.timeStep p).s := by
  unfold State.timeStep
  dsimp only
  iterate 6 refine iteDone refl ?_
  simp only [State.gives_s, step_iff (of_only (State.stepSend_only ..) rfl), ite_iff]
  exact ⟨fun _ => rfl, fun _ => rfl⟩

theorem command {f : State → Who → Done} (hf : ∀ v w, Faced v (f v w).s) (s : State) (mb : Mb) (c : Cmd) (need : Nat) :
    Faced s (s.command mb c need f) := by
  rcases Steady.command_effect s mb c need f with h | ⟨v, w, hv, h⟩
  · exact h.faced
  · exact (hv.faced.trans (hf v w)).trans h.faced

section Commands

variable {s u : State} {t : Tm} {port : Port} {ownPhase epoch : Nat} {edge : PinEdge} {b : Tm} {toTarget : Bool} {val : Int}
  {mb : Mb} {cmd : Cmd} (hp : s.pwr.por = false)
include hp

theorem execSyncExchangeComplete (h : execSyncExchangeComplete t port ownPhase s = .next u) : Faced (s.clock t) u := by
  obtain rfl := live_next hp h
  dsimp only
  split
  · have hbump (v : State) : Faced v (v.bump P.TIME_STATUS_DISCARDS 0) := (Steady.of_time (State.bump_time ..)).faced
    have hput (v : State) (x : Nat) : Faced v (v.put P.TIME_PORT_DELAY_DELAY port x) := (Steady.of_time (State.put_time ..)).faced
    have hmod (v : State) (f) : Faced v (v.modPortTime port f) := (Steady.modPortTime ..).faced
    simp only [refl_iff, step_iff (adopt ..), step_iff (theta ..), step_iff (of_only (State.jumpRefused_only ..) rfl),
      step_iff (Steady.mastered _).faced, step_iff (hbump _), step_iff (hput _ _), step_iff (hmod _ _), ite_iff, implies_true,
      and_self]
  · exact refl

theorem execPpsInEdge (h : execPpsInEdge t edge s = .next u) : Faced (s.clock t) u := by
  obtain rfl := live_next hp h
  have hpin : Faced (s.clock t) ((s.clock t).pinEdge 270 edge.code.toNat).1 := of_only (State.pinEdge_only ..) rfl
  dsimp only
  split
  · exact refl
  · split
    · split
      · split
        · exact trans hpin (theta ..)
        · exact hpin
      · exact hpin
    · exact hpin

theorem execDistributedStep (h : execDistributedStep t epoch b toTarget val s = .next u) : Faced (s.clock t) u := by
  obtain rfl := live_next hp h
  dsimp only
  split
  · exact refl
  · exact trans rfl (dropSteps _)

theorem execTimeStep (h : execTimeStep t mb cmd s = .next u) : Faced (s.clock t) u := by
  obtain rfl := live_next hp h
  exact command (fun _ _ => timeStep ..) ..

end Commands

end Faced
/-! ### The step at a boundary (R306, R320, R321) -/

/-- `u` stands no earlier than `s`: in a later epoch, or in the same epoch at no earlier instant (R306). -/
def Later (s u : State) : Prop :=
  s.time.epoch < u.time.epoch ∨ (u.time.epoch = s.time.epoch ∧ s.time.now ≤ u.time.now)

/-- Every adoption that waits names a later epoch than the present one (R321). -/
def AdoptsLater (s : State) : Prop := ∀ p ∈ s.time.steps, ∀ e, p.adopt = some e → s.time.epoch < e

theorem Faced.now {s u : State} (h : Faced s u) : u.time.now = s.time.now := congrArg Prod.fst h

theorem Faced.epoch {s u : State} (h : Faced s u) : u.time.epoch = s.time.epoch := congrArg Prod.snd h

theorem Steady.steps {s u : State} (h : Steady s u) : u.time.steps = s.time.steps := congrArg Prod.snd h

theorem AdoptsLater.steady {s u : State} (h : AdoptsLater s) (k : Steady s u) : AdoptsLater u := by
  unfold AdoptsLater
  rw [k.steps, k.faced.epoch]
  exact h

namespace Later

theorem trans_faced {s u v : State} (h : Later s u) (k : Faced u v) : Later s v := by
  unfold Later
  rw [k.now, k.epoch]
  exact h

theorem of_faced {s u : State} (h : Faced s u) : Later s u := .inr ⟨h.epoch, h.now.ge⟩

theorem faced_trans {s u v : State} (h : Faced s u) (k : Later u v) : Later s v := by
  unfold Later
  rw [← h.now, ← h.epoch]
  exact k

theorem trans {s u v : State} (h : Later s u) (k : Later u v) : Later s v := by
  rcases h with h | ⟨he, hn⟩ <;> rcases k with k | ⟨ke, kn⟩
  · exact .inl (h.trans k)
  · exact .inl (ke ▸ h)
  · exact .inl (he ▸ k)
  · exact .inr ⟨ke.trans he, hn.trans kn⟩

theorem clock (s : State) (t : Tm) : Later s (s.clock t) := .inr ⟨rfl, le_max_left ..⟩

/-- A step that goes back opens the next epoch, an adoption goes to a later one, and any other step goes forward (R320). -/
theorem stepSet {s : State} {p : PendStep} (b : Tm) (h : ∀ e, p.adopt = some e → s.time.epoch < e) : Later s (s.stepSet p b) := by
  have hset : (s.stepSet p b).time.now = ((s.time.now : Int) + p.whole b).toNat ∧ (s.stepSet p b).time.epoch = s.stepEpochNo p :=
    ⟨rfl, rfl⟩
  unfold Later
  rw [hset.1, hset.2]
  unfold State.stepEpochNo
  cases hadopt : p.adopt with
  | some e => exact .inl (h e hadopt)
  | none =>
    dsimp only
    split
    · exact .inl (Nat.lt_succ_self _)
    · next hback =>
      have hwhole : 0 ≤ p.whole b := by
        have := Int.tdiv_nonneg (Int.not_lt.1 hback) (by decide : (0 : Int) ≤ 2048)
        exact le_max_of_le_left (by omega)
      exact .inr ⟨rfl, (Int.le_toNat (by omega)).2 (by omega)⟩

theorem stepTake {s : State} {p : PendStep} (b : Tm) (h : ∀ e, p.adopt = some e → s.time.epoch < e) : Later s (s.stepTake b p) := by
  unfold State.stepTake
  extract_lets time s0 start s1 old s2 new s3
  have herase : Faced s s0 := rfl
  split
  · refine of_faced (herase.trans (Steady.faced ?_))
    simp only [Steady.refl_iff, Steady.only_iff (State.raise_only ..) rfl, Steady.putB_iff]
  · have hopen : Faced s (if (s.acquiring && s.tdc.interval != some start) = true then s0.blocksOpen start else s0) := by
      simp only [Faced.step_iff (Faced.of_only (State.blocksOpen_only ..) rfl), Faced.ite_iff, herase, implies_true, and_self]
    have h1 : Later s s1 := faced_trans hopen (clock ..)
    have he : s1.time.epoch = s.time.epoch := hopen.epoch
    have hset : Later s (s1.stepSet p b) := h1.trans (stepSet b (he ▸ h))
    have h2 : Steady (s1.stepSet p b) s2 := (Steady.rebase ..).trans (Steady.stepWaits ..)
    have h3 : Steady s2 s3 := by
      simp only [s3, Steady.refl_iff, Steady.only_iff (State.blocksStep_only ..) rfl,
        Steady.only_iff (State.stepEpoch_only ..) rfl, Steady.ite_iff, implies_true, and_self]
    exact hset.trans_faced ((h2.trans h3).faced.trans (Faced.stepActs ..))

theorem boundaryStep {s : State} (b : Tm) (h : AdoptsLater s) : Later s (s.boundaryStep b) := by
  unfold State.boundaryStep
  split
  · exact of_faced Faced.refl
  · next p hp => exact stepTake b (h p (List.mem_of_find?_eq_some hp))

end Later

/-- What a boundary does before a step falls due leaves the time base. -/
theorem Steady.boundaryParts (s : State) (b : Tm) (badWords : List Nat) (at_ : Stamp) :
    Steady s (((((((s.swapAll b badWords).anchor b).secondEnds b).spanNotes.partsBoundary.configDone b).acquisition).writerBoundary
      at_).deckRates).coreBoundary := by
  simp only [refl_iff, step_iff (coreBoundary ..), only_iff (State.deckRates_only ..) rfl,
    only_iff (State.writerBoundary_only ..) rfl, only_iff (State.acquisition_only ..) rfl,
    only_iff (State.configDone_only ..) rfl, step_iff (partsBoundary ..), only_iff (State.spanNotes_only ..) rfl,
    only_iff (State.secondEnds_only ..) rfl, step_iff (anchor ..), step_iff (swapAll ..)]

theorem execSpanBoundary_later {s u : State} {t : Tm} {badWords : List Nat} (hp : s.pwr.por = false) (ha : AdoptsLater s)
    (h : execSpanBoundary t badWords s = .next u) : Later (s.clock t) u := by
  obtain rfl := live_next hp h
  dsimp only
  split
  · exact .of_faced .refl
  · have hparts := Steady.boundaryParts (s.clock t)
    exact .faced_trans (hparts ..).faced (.boundaryStep _ (AdoptsLater.steady (s := s.clock t) ha (hparts ..)))
/-! ### A whole-device reset sets the time base back (R483) -/

/-- The time base and the lease stand as a reset leaves them (R482, R483). -/
def Restarted (u : State) : Prop := u.time.now = 0 ∧ u.time.epoch = 0 ∧ u.time.set = false ∧ u.core.holder = 0

namespace Restarted

theorem of_reset {u : State} (ht : u.time = TimeSt.reset) (hc : u.core.holder = 0) : Restarted u := by
  unfold Restarted
  rw [ht]
  exact ⟨rfl, rfl, rfl, hc⟩

theorem of_parts {s u : State} (h : Restarted s) (ht : u.time = s.time) (hc : u.core.holder = s.core.holder) : Restarted u := by
  unfold Restarted
  rw [ht, hc]
  exact h

theorem of_only {s u : State} {ps : List Part} {rs : List Nat} (h : Restarted s) (k : Only ps rs s u)
    (ht : decide (Part.time ∈ ps) = false) (hc : decide (Part.core ∈ ps) = false) : Restarted u :=
  h.of_parts (k.1 .time (of_decide_eq_false ht)) (congrArg CoreSt.holder (k.1 .core (of_decide_eq_false hc)))

theorem keptFields {s : State} (h : Restarted s) (old : State) (cause rail : Nat) : Restarted (s.keptFields old cause rail) := by
  unfold Restarted State.keptFields at *
  simpa only [State.put_time, State.put_core] using h

theorem with_pwr {s : State} (h : Restarted s) (x : PwrSt) : Restarted { s with pwr := x } := h

theorem with_out {s : State} (h : Restarted s) (x : List Out) : Restarted { s with out := x } := h

theorem held (s : State) (cause rail : Nat) : Restarted (s.held cause rail) := by
  unfold State.held
  exact with_out (keptFields (of_reset rfl rfl) ..) _

theorem startUp {s : State} (h : Restarted s) : Restarted s.startUp := by
  unfold State.startUp
  extract_lets _ _ s1
  have h1 : Restarted s1 := h.of_parts rfl rfl
  refine of_only ?_ (State.blankAll_only ..) rfl rfl
  split
  · exact (h1.of_parts (State.putB_time ..) (congrArg CoreSt.holder (State.putB_core ..))).of_only (State.raise_only ..) rfl rfl
  · exact h1

theorem restart (s : State) (cause rail : Nat) : Restarted (s.restart cause rail) := startUp (held ..)

theorem porTake (s : State) : Restarted s.porTake := with_pwr (held s 0 s.startRail) _

section Commands

variable {s u : State} {t : Tm} {rail : Fin 9} (hp : s.pwr.por = false)
include hp

theorem execCorePllLockLoss (h : execCorePllLockLoss t s = .next u) : Restarted u := by
  obtain rfl := live_next hp h
  exact restart ..

theorem execBrownOut (h : execBrownOut t rail s = .next u) : Restarted u := by
  obtain rfl := live_next hp h
  exact startUp (with_pwr (held (s.clock t) 1 rail) _)

theorem execThermalShutdown (h : execThermalShutdown t s = .next u) : Restarted u := by
  obtain rfl := live_next hp h
  exact with_pwr (held (s.clock t) 3 _) _

end Commands

end Restarted

/-- The time base stands, or a whole-device reset has set it back. -/
def SteadyOrRestarted (s u : State) : Prop := Steady s u ∨ Restarted u

namespace SteadyOrRestarted

theorem steady_trans {s u v : State} (h : Steady s u) (k : SteadyOrRestarted u v) : SteadyOrRestarted s v := k.imp h.trans id

theorem of_only {s u : State} {ps : List Part} {rs : List Nat} (h : Only ps rs s u) (hp : decide (Part.time ∈ ps) = false) :
    SteadyOrRestarted s u := .inl (.of_only h hp)

/-- Of the MB4 commands RESET alone restarts the device, with its key and ARG0 = 2 (R394). -/
theorem mb4Go (s : State) (load : Option Load) : SteadyOrRestarted s (s.mb4Go load) := by
  unfold State.mb4Go
  split
  · refine .inl ?_
    simp only [Steady.refl_iff, Steady.only_iff (State.raise_only ..) rfl, Steady.mk_iff]
  · split
    · exact of_only (State.mb4Done_only ..) rfl
    · split
      · exact of_only (State.mb4Done_only ..) rfl
      · split
        · exact .inl ((Steady.coreReset _).trans (.of_only (State.mb4Done_only ..) rfl))
        · split
          · exact .inr (Restarted.restart ..)
          · exact of_only (State.mb4Done_only ..) rfl
    · split
      · refine .inl ?_
        simp only [Steady.refl_iff, Steady.only_iff (State.mb4Done_only ..) rfl, Steady.put_iff]
      · exact of_only (State.mb4Done_only ..) rfl
    · exact of_only (State.mb4Load_only ..) rfl
    · exact of_only (State.mb4Load_only ..) rfl
    · exact of_only (State.mb4Done_only ..) rfl

theorem mb4Write_go (s : State) (op seq arg0 arg1 : Nat) (load : Option Load) :
    SteadyOrRestarted s ((s.mb4Write op seq arg0 arg1).mb4Go load) :=
  steady_trans (.of_only (State.mb4Write_only ..) rfl) (mb4Go ..)

theorem mb4 (s : State) (op seq arg0 arg1 : Nat) : SteadyOrRestarted s (s.mb4 op seq arg0 arg1) := by
  unfold State.mb4
  split
  · exact .inl .refl
  · exact mb4Write_go ..

end SteadyOrRestarted

/-- Only the write of MB4's GO register can restart the device. -/
theorem Steady.ksRegWrite (s : State) {off : Nat} (v : Nat) (h : off ≠ 0x01C) : Steady s (s.ksRegWrite off v) := by
  unfold State.ksRegWrite
  split
  · exact .of_only (State.mb4Write_only ..) rfl
  · exact .of_only (State.mb4Write_only ..) rfl
  · exact .of_only (State.mb4Write_only ..) rfl
  · exact absurd rfl h
  · exact .refl

theorem SteadyOrRestarted.ksRegWrite (s : State) (off v : Nat) : SteadyOrRestarted s (s.ksRegWrite off v) := by
  by_cases h : off = 0x01C
  · subst h
    have hgo : s.ksRegWrite 0x01C v = if bitOf v 0 && !s.host.ksGo then s.mb4Go none else s := rfl
    rw [hgo]
    split
    · exact mb4Go ..
    · exact .inl .refl
  · exact .inl (.ksRegWrite s v h)

/-- Of the first register space only the write of MB4's GO register can restart the device. -/
theorem Steady.bar0Write (s : State) {off : Nat} (v : Nat) (h : off ≠ 0x401C) : Steady s (s.bar0Write off v) := by
  have hks : off - 0x4000 ≠ 0x01C := by omega
  unfold State.bar0Write
  simp only [refl_iff, step_iff (ksRegWrite _ v hks), only_iff (State.evRegWrite_only ..) rfl,
    only_iff (State.mbRegWrite_only ..) rfl, only_iff (State.msixTableWrite_only ..) rfl, mk_iff, ite_iff, implies_true,
    and_self]

theorem SteadyOrRestarted.bar0Write (s : State) (off v : Nat) : SteadyOrRestarted s (s.bar0Write off v) := by
  by_cases h : off = 0x401C
  · subst h
    exact ksRegWrite s 0x01C v
  · exact .inl (.bar0Write s v h)

theorem SteadyOrRestarted.barWrite (s : State) (bar off v : Nat) : SteadyOrRestarted s (s.barWrite bar off v) := by
  unfold State.barWrite
  split
  · exact bar0Write ..
  · exact of_only (State.bar2Write_only ..) rfl

theorem Steady.barWrite (s : State) (bar : Nat) {off : Nat} (v : Nat) (h : off ≠ 0x401C) : Steady s (s.barWrite bar off v) := by
  unfold State.barWrite
  split
  · exact bar0Write s v h
  · exact .of_only (State.bar2Write_only ..) rfl

namespace SteadyOrRestarted

section Commands

variable {s u : State} {t : Tm} {seq opcode : BitVec 16} {arg0 arg1 : BitVec 32} {slot : Fin 2} {bytes : Nat} {image : Image}
  {read : ReadEnd} {at_ : SmbAt} {pecOk : Bool} {bar : Fin 2} {offset size : Nat} {value : W64} (hp : s.pwr.por = false)
include hp

theorem execMb4Status (h : execMb4Status t seq s = .next u) : SteadyOrRestarted (s.clock t) u := by
  obtain rfl := live_next hp h
  exact mb4 ..

theorem execMb4Reset (h : execMb4Reset t seq arg0 arg1 s = .next u) : SteadyOrRestarted (s.clock t) u := by
  obtain rfl := live_next hp h
  exact mb4 ..

theorem execMb4SlotSelect (h : execMb4SlotSelect t seq arg0 s = .next u) : SteadyOrRestarted (s.clock t) u := by
  obtain rfl := live_next hp h
  exact mb4 ..

theorem execMb4FwLoad (h : execMb4FwLoad t seq slot arg0 arg1 bytes image read s = .next u) : SteadyOrRestarted (s.clock t) u := by
  obtain rfl := live_next hp h
  dsimp only
  split
  · exact .inl .refl
  · exact mb4Write_go ..

theorem execSmbMb4Start (h : execSmbMb4Start at_ opcode seq arg0 arg1 pecOk s = .next u) : SteadyOrRestarted (s.clock at_.t) u := by
  obtain rfl := live_next hp h
  dsimp only
  split
  · exact .inl .refl
  · split
    · exact of_only (State.emit_only ..) rfl
    · split
      · exact of_only (State.pecFail_only ..) rfl
      · split
        · exact .inl .refl
        · split
          · refine .inl ?_
            simp only [Steady.refl_iff, Steady.only_iff (State.mb4Done_only ..) rfl,
              Steady.only_iff (State.mb4Write_only ..) rfl]
          · exact mb4Write_go ..

/-- The first half of an aligned write of eight bytes is not MB4's GO register. -/
theorem execRegisterWrite (h : execRegisterWrite t bar offset size value s = .next u) : SteadyOrRestarted (s.clock t) u := by
  obtain rfl := live_next hp h
  split
  · exact barWrite ..
  · split
    · next hsize =>
      split
      · exact of_only (State.baseWrite_only ..) rfl
      · have hfirst : offset ≠ 0x401C := by omega
        exact steady_trans (.barWrite _ _ _ hfirst) (barWrite ..)
    · exact .inl .refl

end Commands

end SteadyOrRestarted
/-! ### Every command keeps the queue and runs on in time (R16 to R21, R306) -/

/-- `u` stands no earlier than `s`, or a whole-device reset has set its time base back (R306, R483). -/
def Onward (s u : State) : Prop := Later s u ∨ Restarted u

namespace Onward

variable {s u : State} {t : Tm}

theorem of_later (h : Later (s.clock t) u) : Onward s u := .inl ((Later.clock s t).trans h)

theorem of_faced (h : Faced (s.clock t) u) : Onward s u := of_later (.of_faced h)

theorem of_steady (h : Steady (s.clock t) u) : Onward s u := of_faced h.faced

theorem of_steadyOrRestarted (h : SteadyOrRestarted (s.clock t) u) : Onward s u := h.elim of_steady .inr

/-- Any change but one of the time base. -/
theorem of_time (h : u.time = s.time) : Onward s u := .inl (.of_faced (Steady.of_time h).faced)

end Onward

/-- What one command keeps: the queue of waiting commands, and the order of time where no adoption goes back. -/
structure Kept (s u : State) : Prop where
  queue : u.pending = s.pending
  onward : AdoptsLater s → Onward s u

namespace Kept

section Rules

variable {s u : State} {t : Tm} {ps : List Part} {rs : List Nat}

theorem of_onward (h : Only ps rs (s.clock t) u) (hq : decide (Part.pending ∈ ps) = false)
    (k : AdoptsLater s → Onward s u) : Kept s u :=
  ⟨h.1 .pending (of_decide_eq_false hq), k⟩

/-- A frame that names neither the time base nor the queue. -/
theorem of_untimed (h : Only ps rs (s.clock t) u) (ht : decide (Part.time ∈ ps) = false)
    (hq : decide (Part.pending ∈ ps) = false) : Kept s u :=
  of_onward h hq fun _ => .of_steady (.of_only h ht)

theorem of_time (hq : u.pending = s.pending) (ht : u.time = s.time) : Kept s u := ⟨hq, fun _ => .of_time ht⟩

theorem of_only (h : Only ps rs s u) (ht : decide (Part.time ∈ ps) = false) (hq : decide (Part.pending ∈ ps) = false) : Kept s u :=
  of_time (h.1 .pending (of_decide_eq_false hq)) (h.1 .time (of_decide_eq_false ht))

theorem refl : Kept s s := of_time rfl rfl

end Rules

section Resets

variable {s u : State} {t : Tm} {width : Nat} {pin : Fin 2} {level : Bool}

theorem porTake (s : State) : Kept s s.porTake := ⟨(State.porTake_only s).1 .pending (by decide), fun _ => .inr (.porTake s)⟩

theorem startUp (s : State) : Kept s s.startUp := of_only (State.startUp_only s) rfl rfl

/-- Nothing but the clock and the count of free values comes before the reset that POR_N takes. -/
theorem execPorNAssert (h : execPorNAssert t width s = .next u) : Kept s u := by
  unfold Machine.execPorNAssert at h
  extract_lets v at h
  have hq : v.pending = s.pending := by unfold v; split <;> rfl
  have hv : Later s v := by
    unfold v
    split
    · exact .of_faced .refl
    · exact .clock ..
  have hreset {w : State} (hw : w.pending = v.pending) : Kept s w.porTake :=
    ⟨(porTake w).queue.trans (hw.trans hq), fun _ => .inr (.porTake w)⟩
  split at h
  · exact Host.Outcome.next.inj h ▸ ⟨hq, fun _ => .inl hv⟩
  · split at h
    · exact Host.Outcome.next.inj h ▸ hreset rfl
    · split at h
      · exact Host.Outcome.next.inj h ▸ ⟨hq, fun _ => .inl hv⟩
      · exact Host.Outcome.next.inj h ▸ hreset rfl

theorem execPorNRelease (t : Tm) (h : execPorNRelease t s = .next u) : Kept s u := by
  unfold Machine.execPorNRelease at h
  split at h <;> obtain rfl := Host.Outcome.next.inj h
  · exact startUp s
  · exact refl

theorem execThermalShutdownRelease (t : Tm) (h : execThermalShutdownRelease t s = .next u) : Kept s u := by
  unfold Machine.execThermalShutdownRelease at h
  split at h <;> obtain rfl := Host.Outcome.next.inj h
  · exact startUp s
  · exact refl

theorem execBlankPinEdge_held (hp : s.pwr.por = true) (h : execBlankPinEdge t pin level s = .next u) : Kept s u := by
  unfold Machine.execBlankPinEdge at h
  rw [hp, if_pos rfl] at h
  obtain rfl := Host.Outcome.next.inj h
  exact of_only (State.pinSet_only ..) rfl rfl

end Resets

/-- A command outside a reset: no frame names the queue, and where one names the time base, a lemma of the command's own says how
the time base moves. -/
theorem exec_running {s u : State} (hp : s.pwr.por = false) : ∀ {c : Instr}, exec c s = .next u → Kept s u
  | .leadingEdge t edge, h => .of_untimed (execLeadingEdge_only t edge hp h) rfl rfl
  | .trailingEdge t ch, h => .of_untimed (execTrailingEdge_only t ch hp h) rfl rfl
  | .totSaturate t ch, h => .of_untimed (execTotSaturate_only t ch hp h) rfl rfl
  | .interpolatorFree t unit ip, h => .of_untimed (execInterpolatorFree_only t unit ip hp h) rfl rfl
  | .hitComplete t ch window, h => .of_untimed (execHitComplete_only t ch window hp h) rfl rfl
  | .blockIntervalStart t, h => .of_untimed (execBlockIntervalStart_only t hp h) rfl rfl
  | .hitBlockEmit t ch, h => .of_untimed (execHitBlockEmit_only t ch hp h) rfl rfl
  | .hkPassStart t tile, h => .of_untimed (execHkPassStart_only t tile hp h) rfl rfl
  | .hkEntryStart t tile, h => .of_untimed (execHkEntryStart_only t tile hp h) rfl rfl
  | .hkConversionComplete t tile sum sumQ ends, h =>
      .of_untimed (execHkConversionComplete_only t tile sum sumQ ends hp h) rfl rfl
  | .hkUrgentRequest t tile input avg shift, h => .of_untimed (execHkUrgentRequest_only t tile input avg shift hp h) rfl rfl
  | .impedanceSlotStart t tile, h => .of_untimed (execImpedanceSlotStart_only t tile hp h) rfl rfl
  | .impedanceVisitResult t tile ire iim half1 half2, h =>
      .of_untimed (execImpedanceVisitResult_only t tile ire iim half1 half2 hp h) rfl rfl
  | .settleWindowExpire t tile, h => .of_untimed (execSettleWindowExpire_only t tile hp h) rfl rfl
  | .blankPinEdge t pin level, h =>
      .of_onward (execBlankPinEdge_only t pin level hp h) rfl fun _ => .of_steady (Steady.execBlankPinEdge hp h)
  | .blankGuardExpire t tile, h => .of_untimed (execBlankGuardExpire_only t tile hp h) rfl rfl
  | .conversionResume t tile, h => .of_untimed (execConversionResume_only t tile hp h) rfl rfl
  | .blankMaxAbandon t tile, h => .of_untimed (execBlankMaxAbandon_only t tile hp h) rfl rfl
  | .tileCurrentCross t tile sum, h => .of_untimed (execTileCurrentCross_only t tile sum hp h) rfl rfl
  | .glitchFilterExpire t tile, h =>
      .of_onward (execGlitchFilterExpire_only t tile hp h) rfl fun _ => .of_steady (Steady.execGlitchFilterExpire hp h)
  | .tripRampDone t tile, h => .of_untimed (execTripRampDone_only t tile hp h) rfl rfl
  | .tripClear t tile, h => .of_untimed (execTripClear_only t tile hp h) rfl rfl
  | .tripLimitWrite t tile limit, h => .of_untimed (execTripLimitWrite_only t tile limit hp h) rfl rfl
  | .channelRestore t ch, h => .of_untimed (execChannelRestore_only t ch hp h) rfl rfl
  | .rotationStart t tile, h => .of_untimed (execRotationStart_only t tile hp h) rfl rfl
  | .sliceMatchComplete t tile mean rms, h => .of_untimed (execSliceMatchComplete_only t tile mean rms hp h) rfl rfl
  | .sliceCalibrationComplete t tile slice high low expected bins, h =>
      .of_untimed (execSliceCalibrationComplete_only t tile slice high low expected bins hp h) rfl rfl
  | .tdcCalVisitStart t unit, h => .of_untimed (execTdcCalVisitStart_only t unit hp h) rfl rfl
  | .testConversionStart t unit test, h => .of_untimed (execTestConversionStart_only t unit test hp h) rfl rfl
  | .tdcCalVisitComplete t unit codesA codesB codesPair, h =>
      .of_untimed (execTdcCalVisitComplete_only t unit codesA codesB codesPair hp h) rfl rfl
  | .tdcCalVisitTimeout t unit, h => .of_untimed (execTdcCalVisitTimeout_only t unit hp h) rfl rfl
  | .transferStale t ch, h => .of_untimed (execTransferStale_only t ch hp h) rfl rfl
  | .dllLockLoss t unit, h => .of_untimed (execDllLockLoss_only t unit hp h) rfl rfl
  | .dllRelock t unit, h => .of_untimed (execDllRelock_only t unit hp h) rfl rfl
  | .gaugeEdge t edge, h => .of_untimed (execGaugeEdge_only t edge hp h) rfl rfl
  | .gaugeGateEnd t g, h => .of_untimed (execGaugeGateEnd_only t g hp h) rfl rfl
  | .conditionDecide t ch levels, h => .of_untimed (execConditionDecide_only t ch levels hp h) rfl rfl
  | .timeoutHighExpire t ch, h => .of_untimed (execTimeoutHighExpire_only t ch hp h) rfl rfl
  | .quietTimeoutExpire t ch, h => .of_untimed (execQuietTimeoutExpire_only t ch hp h) rfl rfl
  | .groupWindowClose t g, h => .of_untimed (execGroupWindowClose_only t g hp h) rfl rfl
  | .groupSumComplete t g n levels, h => .of_untimed (execGroupSumComplete_only t g n levels hp h) rfl rfl
  | .primitiveReceive t port parts, h => .of_untimed (execPrimitiveReceive_only t port parts hp h) rfl rfl
  | .primitiveEqualised t origin seq, h => .of_untimed (execPrimitiveEqualised_only t origin seq hp h) rfl rfl
  | .rootWindowClose t cls, h => .of_untimed (execRootWindowClose_only t cls hp h) rfl rfl
  | .trigInEdge t pin edge, h => .of_untimed (execTrigInEdge_only t pin edge hp h) rfl rfl
  | .trigOutPulseEnd t pin, h => .of_untimed (execTrigOutPulseEnd_only t pin hp h) rfl rfl
  | .acceptReceive t port parts, h => .of_untimed (execAcceptReceive_only t port parts hp h) rfl rfl
  | .extractionStart t, h => .of_untimed (execExtractionStart_only t hp h) rfl rfl
  | .extractionEnd t window, h => .of_untimed (execExtractionEnd_only t window hp h) rfl rfl
  | .eventBufferSpace t bytes, h => .of_untimed (execEventBufferSpace_only t bytes hp h) rfl rfl
  | .extractionDrop t, h => .of_untimed (execExtractionDrop_only t hp h) rfl rfl
  | .deckReplyToExtractor t acceptId cls, h => .of_untimed (execDeckReplyToExtractor_only t acceptId cls hp h) rfl rfl
  | .loopPeriodStart t, h => .of_untimed (execLoopPeriodStart_only t hp h) rfl rfl
  | .loopCompute t tile, h => .of_untimed (execLoopCompute_only t tile hp h) rfl rfl
  | .loopOutputApply t, h => .of_untimed (execLoopOutputApply_only t hp h) rfl rfl
  | .curHoldExpire t tile, h => .of_untimed (execCurHoldExpire_only t tile hp h) rfl rfl
  | .snippetRead t ch hitTb levels, h => .of_untimed (execSnippetRead_only t ch hitTb levels hp h) rfl rfl
  | .deckWriteInterval t, h => .of_untimed (execDeckWriteInterval_only t hp h) rfl rfl
  | .rewindRequest t ctx desc, h => .of_untimed (execRewindRequest_only t ctx desc hp h) rfl rfl
  | .deckSessionOpen t sid, h => .of_untimed (execDeckSessionOpen_only t sid hp h) rfl rfl
  | .deckReadComplete t sid poison, h => .of_untimed (execDeckReadComplete_only t sid poison hp h) rfl rfl
  | .writePointAdvance t sid, h => .of_untimed (execWritePointAdvance_only t sid hp h) rfl rfl
  | .hemMarkReceive t port mark, h => .of_untimed (execHemMarkReceive_only t port mark hp h) rfl rfl
  | .hemMarkApply t input, h => .of_untimed (execHemMarkApply_only t input hp h) rfl rfl
  | .hemMarkPeriodic t, h => .of_untimed (execHemMarkPeriodic_only t hp h) rfl rfl
  | .hemMarkGapExpire t, h => .of_untimed (execHemMarkGapExpire_only t hp h) rfl rfl
  | .seamRecordArrive t input record, h => .of_untimed (execSeamRecordArrive_only t input record hp h) rfl rfl
  | .seamRelease t, h => .of_untimed (execSeamRelease_only t hp h) rfl rfl
  | .frayTimeout t input, h => .of_untimed (execFrayTimeout_only t input hp h) rfl rfl
  | .spillWriteComplete t input, h => .of_untimed (execSpillWriteComplete_only t input hp h) rfl rfl
  | .spillReadback t input poison, h => .of_untimed (execSpillReadback_only t input poison hp h) rfl rfl
  | .ctxDoorbellWrite t ctx prod, h => .of_untimed (execCtxDoorbellWrite_only t ctx prod hp h) rfl rfl
  | .ctxReqDoorbellWrite t ctx prod, h => .of_untimed (execCtxReqDoorbellWrite_only t ctx prod hp h) rfl rfl
  | .ctxNotifyArm t ctx, h => .of_untimed (execCtxNotifyArm_only t ctx hp h) rfl rfl
  | .ctxCreate t ctx, h => .of_untimed (execCtxCreate_only t ctx hp h) rfl rfl
  | .ctxDestroy t ctx, h => .of_untimed (execCtxDestroy_only t ctx hp h) rfl rfl
  | .ctxRebind t ctx, h => .of_untimed (execCtxRebind_only t ctx hp h) rfl rfl
  | .ctxDrainComplete t ctx, h => .of_untimed (execCtxDrainComplete_only t ctx hp h) rfl rfl
  | .requestEntryRead t ctx desc, h => .of_untimed (execRequestEntryRead_only t ctx desc hp h) rfl rfl
  | .descriptorFetch t ctx desc, h => .of_untimed (execDescriptorFetch_only t ctx desc hp h) rfl rfl
  | .schedulerGrant t link, h => .of_untimed (execSchedulerGrant_only t link hp h) rfl rfl
  | .unitTransferComplete t link, h => .of_untimed (execUnitTransferComplete_only t link hp h) rfl rfl
  | .egressDetach t ctx, h => .of_untimed (execEgressDetach_only t ctx hp h) rfl rfl
  | .coalescerTimeout t ctx, h => .of_untimed (execCoalescerTimeout_only t ctx hp h) rfl rfl
  | .pressCompressJob t mb cmd, h => .of_untimed (execPressCompressJob_only t mb cmd hp h) rfl rfl
  | .pressDecompressJob t mb cmd, h => .of_untimed (execPressDecompressJob_only t mb cmd hp h) rfl rfl
  | .pressJobStart t, h => .of_untimed (execPressJobStart_only t hp h) rfl rfl
  | .pressJobComplete t engine input poisoned memError, h =>
      .of_untimed (execPressJobComplete_only t engine input poisoned memError hp h) rfl rfl
  | .pressContextJobComplete t ctx failed, h => .of_untimed (execPressContextJobComplete_only t ctx failed hp h) rfl rfl
  | .pressBufWrite t mb cmd, h => .of_untimed (execPressBufWrite_only t mb cmd hp h) rfl rfl
  | .pressBufRead t mb cmd, h => .of_untimed (execPressBufRead_only t mb cmd hp h) rfl rfl
  | .alignBlock t lane mask index, h => .of_untimed (execAlignBlock_only t lane mask index hp h) rfl rfl
  | .creditBlock t port credit, h =>
      .of_onward (execCreditBlock_only t port credit hp h) rfl fun _ => .of_steady (Steady.execCreditBlock hp h)
  | .recordFrame t port frame, h => .of_untimed (execRecordFrame_only t port frame hp h) rfl rfl
  | .replayTimeout t port, h =>
      .of_onward (execReplayTimeout_only t port hp h) rfl fun _ => .of_steady (Steady.execReplayTimeout hp h)
  | .inboundCredit t ctx units, h => .of_untimed (execInboundCredit_only t ctx units hp h) rfl rfl
  | .claimFrame t port identity, h => .of_untimed (execClaimFrame_only t port identity hp h) rfl rfl
  | .claimWindowExpire t, h => .of_untimed (execClaimWindowExpire_only t hp h) rfl rfl
  | .discoveryProbe t port src route, h => .of_untimed (execDiscoveryProbe_only t port src route hp h) rfl rfl
  | .discoveryReply t reply, h => .of_untimed (execDiscoveryReply_only t reply hp h) rfl rfl
  | .routeInstall t install, h => .of_untimed (execRouteInstall_only t install hp h) rfl rfl
  | .portChangeReport t identity port up, h => .of_untimed (execPortChangeReport_only t identity port up hp h) rfl rfl
  | .clockParentLost t, h => .of_untimed (execClockParentLost_only t hp h) rfl rfl
  | .hopDelayMeasured t port delay, h => .of_untimed (execHopDelayMeasured_only t port delay hp h) rfl rfl
  | .laneCdrLock t lane, h =>
      .of_onward (execLaneCdrLock_only t lane hp h) rfl fun _ => .of_steady (Steady.execLaneCdrLock hp h)
  | .laneBlockLock t lane, h => .of_untimed (execLaneBlockLock_only t lane hp h) rfl rfl
  | .laneLockLoss t lane loss, h =>
      .of_onward (execLaneLockLoss_only t lane loss hp h) rfl fun _ => .of_steady (Steady.execLaneLockLoss hp h)
  | .laneNoTransitions t lane, h =>
      .of_onward (execLaneNoTransitions_only t lane hp h) rfl fun _ => .of_steady (Steady.execLaneNoTransitions hp h)
  | .hello t lane part locked value, h => .of_untimed (execHello_only t lane part locked value hp h) rfl rfl
  | .restripe t port mask locked, h =>
      .of_onward (execRestripe_only t port mask locked hp h) rfl fun _ => .of_steady (Steady.execRestripe hp h)
  | .restripeResend t port, h =>
      .of_onward (execRestripeResend_only t port hp h) rfl fun _ => .of_steady (Steady.execRestripeResend hp h)
  | .restripeTimeout t port, h =>
      .of_onward (execRestripeTimeout_only t port hp h) rfl fun _ => .of_steady (Steady.execRestripeTimeout hp h)
  | .laneReady t port locked, h => .of_untimed (execLaneReady_only t port locked hp h) rfl rfl
  | .rejoinHoldExpire t lane, h => .of_untimed (execRejoinHoldExpire_only t lane hp h) rfl rfl
  | .laneRejoin t port, h => .of_untimed (execLaneRejoin_only t port hp h) rfl rfl
  | .laneRetrainTimeout t lane, h =>
      .of_onward (execLaneRetrainTimeout_only t lane hp h) rfl fun _ => .of_steady (Steady.execLaneRetrainTimeout hp h)
  | .loopReq t port mask start, h =>
      .of_onward (execLoopReq_only t port mask start hp h) rfl fun _ => .of_steady (Steady.execLoopReq hp h)
  | .loopAck t port mask accepted, h => .of_untimed (execLoopAck_only t port mask accepted hp h) rfl rfl
  | .farLoopTimeout t lane, h => .of_untimed (execFarLoopTimeout_only t lane hp h) rfl rfl
  | .laneLoopWrite t lane value, h =>
      .of_onward (execLaneLoopWrite_only t lane value hp h) rfl fun _ => .of_steady (Steady.execLaneLoopWrite hp h)
  | .prbsInject t port, h => .of_untimed (execPrbsInject_only t port hp h) rfl rfl
  | .prbsCheckerLock t port received run more, h => .of_untimed (execPrbsCheckerLock_only t port received run more hp h) rfl rfl
  | .timeMessage t port msg, h =>
      .of_onward (execTimeMessage_only t port msg hp h) rfl fun _ => .of_steady (Steady.execTimeMessage hp h)
  | .syncExchangeComplete t port ownPhase, h =>
      .of_onward (execSyncExchangeComplete_only t port ownPhase hp h) rfl fun _ => .of_faced (Faced.execSyncExchangeComplete hp h)
  | .slewComplete t, h => .of_onward (execSlewComplete_only t hp h) rfl fun _ => .of_steady (Steady.execSlewComplete hp h)
  | .holdoverEnter t, h => .of_onward (execHoldoverEnter_only t hp h) rfl fun _ => .of_steady (Steady.execHoldoverEnter hp h)
  | .ppsInEdge t edge, h => .of_onward (execPpsInEdge_only t edge hp h) rfl fun _ => .of_faced (Faced.execPpsInEdge hp h)
  | .ppsInMissing t, h => .of_untimed (execPpsInMissing_only t hp h) rfl rfl
  | .timeStep t mb cmd, h => .of_onward (execTimeStep_only t mb cmd hp h) rfl fun _ => .of_faced (Faced.execTimeStep hp h)
  | .swapCutoff t, h => .of_onward (execSwapCutoff_only t hp h) rfl fun _ => .of_steady (Steady.execSwapCutoff hp h)
  | .spanBoundary t badWords, h =>
      .of_onward (execSpanBoundary_only t badWords hp h) rfl fun ha => .of_later (execSpanBoundary_later hp ha h)
  | .swapCommit t mb cmd, h =>
      .of_onward (execSwapCommit_only t mb cmd hp h) rfl fun _ => .of_steady (Steady.execSwapCommit hp h)
  | .swapCfgWrite t armed, h =>
      .of_onward (execSwapCfgWrite_only t armed hp h) rfl fun _ => .of_steady (Steady.execSwapCfgWrite hp h)
  | .toutPulse t x, h => .of_onward (execToutPulse_only t x hp h) rfl fun _ => .of_steady (Steady.execToutPulse hp h)
  | .ppsOutEdge t, h => .of_onward (execPpsOutEdge_only t hp h) rfl fun _ => .of_steady (Steady.execPpsOutEdge hp h)
  | .actCfgArm t entry value, h =>
      .of_onward (execActCfgArm_only t entry value hp h) rfl fun _ => .of_steady (Steady.execActCfgArm hp h)
  | .schedule t mb cmd, h => .of_onward (execSchedule_only t mb cmd hp h) rfl fun _ => .of_steady (Steady.execSchedule hp h)
  | .actionPulser t entry, h =>
      .of_onward (execActionPulser_only t entry hp h) rfl fun _ => .of_steady (Steady.execActionPulser hp h)
  | .actionToutPulse t entry, h =>
      .of_onward (execActionToutPulse_only t entry hp h) rfl fun _ => .of_steady (Steady.execActionToutPulse hp h)
  | .actionSwapRelease t entry, h =>
      .of_onward (execActionSwapRelease_only t entry hp h) rfl fun _ => .of_steady (Steady.execActionSwapRelease hp h)
  | .actionFirmware t entry, h =>
      .of_onward (execActionFirmware_only t entry hp h) rfl fun _ => .of_steady (Steady.execActionFirmware hp h)
  | .ddrTrainingStep t ch passed spd, h => .of_untimed (execDdrTrainingStep_only t ch passed spd hp h) rfl rfl
  | .refreshDue t ch, h => .of_untimed (execRefreshDue_only t ch hp h) rfl rfl
  | .panicBegin t ch level, h => .of_untimed (execPanicBegin_only t ch level hp h) rfl rfl
  | .panicEnd t ch level, h => .of_untimed (execPanicEnd_only t ch level hp h) rfl rfl
  | .refreshRepay t ch, h => .of_untimed (execRefreshRepay_only t ch hp h) rfl rfl
  | .ddrScrubRead t addr result written, h => .of_untimed (execDdrScrubRead_only t addr result written hp h) rfl rfl
  | .ddrRetrainStep t ch passed, h => .of_untimed (execDdrRetrainStep_only t ch passed hp h) rfl rfl
  | .ddrAlert t ch writeCrc failedReplays, h => .of_untimed (execDdrAlert_only t ch writeCrc failedReplays hp h) rfl rfl
  | .ddrReadComplete t ch addr tries device rank, h =>
      .of_untimed (execDdrReadComplete_only t ch addr tries device rank hp h) rfl rfl
  | .ddrFence t, h => .of_untimed (execDdrFence_only t hp h) rfl rfl
  | .spdTempRead t ch temp, h => .of_untimed (execSpdTempRead_only t ch temp hp h) rfl rfl
  | .mr4Read t ch hot, h => .of_untimed (execMr4Read_only t ch hot hp h) rfl rfl
  | .memRestart t mb cmd, h => .of_untimed (execMemRestart_only t mb cmd hp h) rfl rfl
  | .memRead t mb cmd poisoned, h => .of_untimed (execMemRead_only t mb cmd poisoned hp h) rfl rfl
  | .memWrite t mb cmd, h => .of_untimed (execMemWrite_only t mb cmd hp h) rfl rfl
  | .regionRead t mb cmd poisoned, h => .of_untimed (execRegionRead_only t mb cmd poisoned hp h) rfl rfl
  | .snapLowRead t slot reg, h => .of_untimed (execSnapLowRead_only t slot reg hp h) rfl rfl
  | .snapHighRead t slot reg, h => .of_untimed (execSnapHighRead_only t slot reg hp h) rfl rfl
  | .snapWholeRead t slot reg, h => .of_untimed (execSnapWholeRead_only t slot reg hp h) rfl rfl
  | .reg64HalfWrite t mb reg half, h => .of_untimed (execReg64HalfWrite_only t mb reg half hp h) rfl rfl
  | .evPendingClear t g value raised, h => .of_untimed (execEvPendingClear_only t g value raised hp h) rfl rfl
  | .evMaskWrite t g value, h => .of_untimed (execEvMaskWrite_only t g value hp h) rfl rfl
  | .evTest t source, h => .of_untimed (execEvTest_only t source hp h) rfl rfl
  | .hostReset t, h => .of_untimed (execHostReset_only t hp h) rfl rfl
  | .hostLinkUp t gen width mps, h => .of_untimed (execHostLinkUp_only t gen width mps hp h) rfl rfl
  | .busMasterDisable t, h => .of_untimed (execBusMasterDisable_only t hp h) rfl rfl
  | .powerStateChange t d3hot, h => .of_untimed (execPowerStateChange_only t d3hot hp h) rfl rfl
  | .deviceReadFail t what how, h => .of_untimed (execDeviceReadFail_only t what how hp h) rfl rfl
  | .mbEnableWrite t mb on, h => .of_untimed (execMbEnableWrite_only t mb on hp h) rfl rfl
  | .mbDoorbellWrite t mb prod, h => .of_untimed (execMbDoorbellWrite_only t mb prod hp h) rfl rfl
  | .mbCqDoorbellWrite t mb head, h => .of_untimed (execMbCqDoorbellWrite_only t mb head hp h) rfl rfl
  | .mbFetch t mb slot, h => .of_untimed (execMbFetch_only t mb slot hp h) rfl rfl
  | .commandCommit t, h => .of_untimed (execCommandCommit_only t hp h) rfl rfl
  | .backgroundComplete t mb seq status result, h =>
      .of_untimed (execBackgroundComplete_only t mb seq status result hp h) rfl rfl
  | .mailboxFrame t frame, h => .of_untimed (execMailboxFrame_only t frame hp h) rfl rfl
  | .remoteTimeout t mb seq, h => .of_untimed (execRemoteTimeout_only t mb seq hp h) rfl rfl
  | .echo t mb cmd, h => .of_untimed (execEcho_only t mb cmd hp h) rfl rfl
  | .identify t mb cmd, h => .of_untimed (execIdentify_only t mb cmd hp h) rfl rfl
  | .paramGet t mb cmd, h => .of_untimed (execParamGet_only t mb cmd hp h) rfl rfl
  | .paramSet t mb cmd, h => .of_onward (execParamSet_only t mb cmd hp h) rfl fun _ => .of_steady (Steady.execParamSet hp h)
  | .paramSetMulti t mb cmd, h =>
      .of_onward (execParamSetMulti_only t mb cmd hp h) rfl fun _ => .of_steady (Steady.execParamSetMulti hp h)
  | .atNsRelease t cls, h => .of_onward (execAtNsRelease_only t cls hp h) rfl fun _ => .of_steady (Steady.execAtNsRelease hp h)
  | .configSave t mb cmd, h => .of_untimed (execConfigSave_only t mb cmd hp h) rfl rfl
  | .configSaveDeferred t, h => .of_untimed (execConfigSaveDeferred_only t hp h) rfl rfl
  | .configLoad t mb cmd, h =>
      .of_onward (execConfigLoad_only t mb cmd hp h) rfl fun _ => .of_steady (Steady.execConfigLoad hp h)
  | .tdcCalVisit t mb cmd, h => .of_untimed (execTdcCalVisit_only t mb cmd hp h) rfl rfl
  | .softAccept t mb cmd, h => .of_untimed (execSoftAccept_only t mb cmd hp h) rfl rfl
  | .deckRewind t mb cmd, h => .of_untimed (execDeckRewind_only t mb cmd hp h) rfl rfl
  | .holdCancel t mb cmd, h => .of_untimed (execHoldCancel_only t mb cmd hp h) rfl rfl
  | .rootClaim t mb cmd, h => .of_untimed (execRootClaim_only t mb cmd hp h) rfl rfl
  | .rootRelease t mb cmd, h =>
      .of_onward (execRootRelease_only t mb cmd hp h) rfl fun _ => .of_steady (Steady.execRootRelease hp h)
  | .addrPlan t mb cmd, h => .of_untimed (execAddrPlan_only t mb cmd hp h) rfl rfl
  | .topologyRead t mb cmd, h => .of_untimed (execTopologyRead_only t mb cmd hp h) rfl rfl
  | .fwLoad t mb cmd image read, h => .of_untimed (execFwLoad_only t mb cmd image read hp h) rfl rfl
  | .slotSelect t mb cmd, h => .of_untimed (execSlotSelect_only t mb cmd hp h) rfl rfl
  | .failover t mb cmd, h => .of_untimed (execFailover_only t mb cmd hp h) rfl rfl
  | .health t mb cmd, h => .of_untimed (execHealth_only t mb cmd hp h) rfl rfl
  | .checkerWriteRaw t mb cmd sigOk, h => .of_untimed (execCheckerWriteRaw_only t mb cmd sigOk hp h) rfl rfl
  | .checkerReadRaw t mb cmd sigOk, h => .of_untimed (execCheckerReadRaw_only t mb cmd sigOk hp h) rfl rfl
  | .checkerInject t mb cmd sigOk, h => .of_untimed (execCheckerInject_only t mb cmd sigOk hp h) rfl rfl
  | .injectApply t, h => .of_untimed (execInjectApply_only t hp h) rfl rfl
  | .recRead t mb cmd, h => .of_untimed (execRecRead_only t mb cmd hp h) rfl rfl
  | .recClear t mb cmd sigOk, h => .of_untimed (execRecClear_only t mb cmd sigOk hp h) rfl rfl
  | .nonce t mb cmd, h => .of_untimed (execNonce_only t mb cmd hp h) rfl rfl
  | .nonceExpire t mb, h => .of_untimed (execNonceExpire_only t mb hp h) rfl rfl
  | .attest t mb cmd, h => .of_untimed (execAttest_only t mb cmd hp h) rfl rfl
  | .mb4Status t seq, h =>
      .of_onward (execMb4Status_only t seq hp h) rfl fun _ => .of_steadyOrRestarted (SteadyOrRestarted.execMb4Status hp h)
  | .mb4Reset t seq arg0 arg1, h =>
      .of_onward (execMb4Reset_only t seq arg0 arg1 hp h) rfl fun _ => .of_steadyOrRestarted (SteadyOrRestarted.execMb4Reset hp h)
  | .mb4SlotSelect t seq arg0, h =>
      .of_onward (execMb4SlotSelect_only t seq arg0 hp h) rfl fun _ => .of_steadyOrRestarted (SteadyOrRestarted.execMb4SlotSelect hp h)
  | .mb4FwLoad t seq slot arg0 arg1 bytes image read, h =>
      .of_onward (execMb4FwLoad_only t seq slot arg0 arg1 bytes image read hp h) rfl fun _ =>
        .of_steadyOrRestarted (SteadyOrRestarted.execMb4FwLoad hp h)
  | .smbCmdAppend b data pecOk, h => .of_untimed (execSmbCmdAppend_only b data pecOk hp h) rfl rfl
  | .smbCmdStart b total pecOk, h => .of_untimed (execSmbCmdStart_only b total pecOk hp h) rfl rfl
  | .smbReadCompletion b, h => .of_untimed (execSmbReadCompletion_only b hp h) rfl rfl
  | .smbReadResponse b n, h => .of_untimed (execSmbReadResponse_only b n hp h) rfl rfl
  | .smbMb4Start b opcode seq arg0 arg1 pecOk, h =>
      .of_onward (execSmbMb4Start_only b opcode seq arg0 arg1 pecOk hp h) rfl fun _ =>
        .of_steadyOrRestarted (SteadyOrRestarted.execSmbMb4Start hp h)
  | .smbMb4Read b, h => .of_untimed (execSmbMb4Read_only b hp h) rfl rfl
  | .mb5Data t update, h => .of_untimed (execMb5Data_only t update hp h) rfl rfl
  | .mb5Go t, h => .of_untimed (execMb5Go_only t hp h) rfl rfl
  | .mb5PtrReset t, h => .of_untimed (execMb5PtrReset_only t hp h) rfl rfl
  | .extest t, h => .of_untimed (execExtest_only t hp h) rfl rfl
  | .idcode t, h => .of_untimed (execIdcode_only t hp h) rfl rfl
  | .samplePreload t cells, h => .of_untimed (execSamplePreload_only t cells hp h) rfl rfl
  | .extestPulse t, h => .of_untimed (execExtestPulse_only t hp h) rfl rfl
  | .extestTrain t, h => .of_untimed (execExtestTrain_only t hp h) rfl rfl
  | .clamp t, h => .of_untimed (execClamp_only t hp h) rfl rfl
  | .highz t, h => .of_untimed (execHighz_only t hp h) rfl rfl
  | .bypass t, h => .of_untimed (execBypass_only t hp h) rfl rfl
  | .trstNAssert t, h => .of_untimed (execTrstNAssert_only t hp h) rfl rfl
  | .leaseRenew t pier gen, h => .of_untimed (execLeaseRenew_only t pier gen hp h) rfl rfl
  | .healthWordPublish t pier word, h => .of_untimed (execHealthWordPublish_only t pier word hp h) rfl rfl
  | .leaseExpire t, h => .of_onward (execLeaseExpire_only t hp h) rfl fun _ => .of_steady (Steady.execLeaseExpire hp h)
  | .leaseGrant t pier, h => .of_onward (execLeaseGrant_only t pier hp h) rfl fun _ => .of_steady (Steady.execLeaseGrant hp h)
  | .pierHealthTimeout t pier, h =>
      .of_onward (execPierHealthTimeout_only t pier hp h) rfl fun _ => .of_steady (Steady.execPierHealthTimeout hp h)
  | .heartbeatEmit t temp, h => .of_untimed (execHeartbeatEmit_only t temp hp h) rfl rfl
  | .checkpointMark t bytes crossed, h =>
      .of_onward (execCheckpointMark_only t bytes crossed hp h) rfl fun _ => .of_steady (Steady.execCheckpointMark hp h)
  | .checkpointAck t accepted, h =>
      .of_onward (execCheckpointAck_only t accepted hp h) rfl fun _ => .of_steady (Steady.execCheckpointAck hp h)
  | .checkpointAckTimeout t, h =>
      .of_onward (execCheckpointAckTimeout_only t hp h) rfl fun _ => .of_steady (Steady.execCheckpointAckTimeout hp h)
  | .fullCopy t, h => .of_untimed (execFullCopy_only t hp h) rfl rfl
  | .selfTestPassEnd t fault, h => .of_untimed (execSelfTestPassEnd_only t fault hp h) rfl rfl
  | .maintStart t act unit byHost, h => .of_untimed (execMaintStart_only t act unit byHost hp h) rfl rfl
  | .maintDeferredStart t act unit, h =>
      .of_onward (execMaintDeferredStart_only t act unit hp h) rfl fun _ => .of_steady (Steady.execMaintDeferredStart hp h)
  | .sramScrubRead t memory addr result written, h =>
      .of_onward (execSramScrubRead_only t memory addr result written hp h) rfl fun _ =>
        .of_steady (Steady.execSramScrubRead (written := written) hp h)
  | .recOccurrence t pier code severity detail, h =>
      .of_untimed (execRecOccurrence_only t pier code severity detail hp h) rfl rfl
  | .recRepeatExpire t, h => .of_untimed (execRecRepeatExpire_only t hp h) rfl rfl
  | .recMramWriteComplete t, h => .of_untimed (execRecMramWriteComplete_only t hp h) rfl rfl
  | .recScan t, h => .of_untimed (execRecScan_only t hp h) rfl rfl
  | .mramScrubRead t loc result, h => .of_untimed (execMramScrubRead_only t loc result hp h) rfl rfl
  | .svnCommit t, h => .of_untimed (execSvnCommit_only t hp h) rfl rfl
  | .ownerRequireWrite t value, h => .of_untimed (execOwnerRequireWrite_only t value hp h) rfl rfl
  | .ownerLockWrite t, h => .of_untimed (execOwnerLockWrite_only t hp h) rfl rfl
  | .bootVerify t slotA slotB, h =>
      .of_onward (execBootVerify_only t slotA slotB hp h) rfl fun _ => .of_steady (Steady.execBootVerify hp h)
  | .porNAssert _ _, h => .execPorNAssert h
  | .porNRelease t, h => .execPorNRelease t h
  | .clkrefClassify t count, h => .of_untimed (execClkrefClassify_only t count hp h) rfl rfl
  | .pllLock t pll, h => .of_untimed (execPllLock_only t pll hp h) rfl rfl
  | .corePllLockLoss t, h => .of_onward (execCorePllLockLoss_only t hp h) rfl fun _ => .inr (Restarted.execCorePllLockLoss hp h)
  | .railOutOfTolerance t rail out, h => .of_untimed (execRailOutOfTolerance_only t rail out hp h) rfl rfl
  | .brownOut t rail, h => .of_onward (execBrownOut_only t rail hp h) rfl fun _ => .inr (Restarted.execBrownOut hp h)
  | .overlightRelease t tile sum, h =>
      .of_onward (execOverlightRelease_only t tile sum hp h) rfl fun _ => .of_steady (Steady.execOverlightRelease hp h)
  | .thermalReading t sensor temp, h => .of_untimed (execThermalReading_only t sensor temp hp h) rfl rfl
  | .thermalShutdown t, h => .of_onward (execThermalShutdown_only t hp h) rfl fun _ => .inr (Restarted.execThermalShutdown hp h)
  | .thermalShutdownRelease t, h => .execThermalShutdownRelease t h
  | .registerWrite t bar offset size value, h =>
      .of_onward (execRegisterWrite_only t bar offset size value hp h) rfl fun _ =>
        .of_steadyOrRestarted (SteadyOrRestarted.execRegisterWrite hp h)
  | .syncInterval t meas, h =>
      .of_onward (execSyncInterval_only t meas hp h) rfl fun _ => .of_steady (Steady.execSyncInterval hp h)
  | .distributedStep t epoch b toTarget val, h =>
      .of_onward (execDistributedStep_only t epoch b toTarget val hp h) rfl fun _ => .of_faced (Faced.execDistributedStep hp h)
  | .routeInstallAck t identity, h => .of_untimed (execRouteInstallAck_only t identity hp h) rfl rfl
  | .toutPulseEnd t x, h => .of_onward (execToutPulseEnd_only t x hp h) rfl fun _ => .of_steady (Steady.execToutPulseEnd hp h)
  | .ppsOutFall t, h => .of_onward (execPpsOutFall_only t hp h) rfl fun _ => .of_steady (Steady.execPpsOutFall hp h)
  | .msixMaskWrite t what, h => .of_untimed (execMsixMaskWrite_only t what hp h) rfl rfl
  | .perstNRelease t, h => .of_untimed (execPerstNRelease_only t hp h) rfl rfl

end Kept

/-- Every command but four takes the clock and acts, and does nothing while a reset is held. -/
theorem exec_live_or (c : Instr) (s : State) :
    (∃ t f, exec c s = live t s f) ∨ (∃ t pin level, c = .blankPinEdge t pin level) ∨ (∃ t width, c = .porNAssert t width) ∨
      (∃ t, c = .porNRelease t) ∨ ∃ t, c = .thermalShutdownRelease t := by
  cases c
  case blankPinEdge t pin level => exact .inr (.inl ⟨t, pin, level, rfl⟩)
  case porNAssert t width => exact .inr (.inr (.inl ⟨t, width, rfl⟩))
  case porNRelease t => exact .inr (.inr (.inr (.inl ⟨t, rfl⟩)))
  case thermalShutdownRelease t => exact .inr (.inr (.inr (.inr ⟨t, rfl⟩)))
  all_goals
    left
    unfold exec
    exact ⟨_, _, rfl⟩

/-- A command met while a reset is held leaves the state, sets a pin, or is one of the reset's own (R482). -/
theorem Kept.exec_held {c : Instr} {s u : State} (hp : s.pwr.por = true) (h : exec c s = .next u) : Kept s u := by
  rcases exec_live_or c s with ⟨t, f, hlive⟩ | ⟨t, pin, level, rfl⟩ | ⟨t, width, rfl⟩ | ⟨t, rfl⟩ | ⟨t, rfl⟩
  · rw [hlive, live_held hp] at h
    exact Host.Outcome.next.inj h ▸ Kept.refl
  · exact Kept.execBlankPinEdge_held hp h
  · exact Kept.execPorNAssert h
  · exact Kept.execPorNRelease t h
  · exact Kept.execThermalShutdownRelease t h

theorem exec_kept {c : Instr} {s u : State} (h : exec c s = .next u) : Kept s u := by
  cases hp : s.pwr.por with
  | false => exact Kept.exec_running hp h
  | true => exact Kept.exec_held hp h

theorem live_answers (t : Tm) (s : State) (f : State → State) : ∃ u, live t s f = .next u := by
  cases hp : s.pwr.por with
  | false => exact ⟨_, live_of hp ..⟩
  | true => exact ⟨_, live_held hp ..⟩

/-- No command faults or is refused. -/
theorem exec_answers (c : Instr) (s : State) : ∃ u, exec c s = .next u := by
  rcases exec_live_or c s with ⟨t, f, hlive⟩ | ⟨t, pin, level, rfl⟩ | ⟨t, width, rfl⟩ | ⟨t, rfl⟩ | ⟨t, rfl⟩
  · exact hlive ▸ live_answers ..
  · show ∃ u, execBlankPinEdge t pin level s = .next u
    unfold execBlankPinEdge
    split <;> exact ⟨_, rfl⟩
  · show ∃ u, execPorNAssert t width s = .next u
    unfold execPorNAssert
    dsimp only
    repeat' split
    all_goals exact ⟨_, rfl⟩
  · show ∃ u, execPorNRelease t s = .next u
    unfold execPorNRelease
    split <;> exact ⟨_, rfl⟩
  · show ∃ u, execThermalShutdownRelease t s = .next u
    unfold execThermalShutdownRelease
    split <;> exact ⟨_, rfl⟩

/-- Settles O47: no command faults or is refused, and none writes the queue. -/
theorem commandsAnswerAndKeepTheQueue : Obligations.CommandsAnswerAndKeepTheQueue := by
  unfold Obligations.CommandsAnswerAndKeepTheQueue
  have hexec (c : Instr) (s : State) : ∃ u, exec c s = .next u ∧ u.pending = s.pending :=
    (exec_answers c s).imp fun _ h => ⟨h, (exec_kept h).queue⟩
  refine fun c s => ⟨hexec c s, fun cs hcs => ?_⟩
  have hstep : Machine.step s = exec c { s with pending := cs } := by rw [Machine.step, hcs]
  exact hstep ▸ hexec c { s with pending := cs }

/-- Settles O49: only a reset, a step at its boundary and the clock move the time base, and neither of the last two goes back
within an epoch. -/
theorem timeNeverRunsBack : Obligations.TimeNeverRunsBack := by
  unfold Obligations.TimeNeverRunsBack
  intro c s u hadopt h
  exact or_assoc.1 ((exec_kept h).onward hadopt)
end Sys2Proof.Machine

namespace Sys2Proof.Machine

open Sys2Proof

/-! ### The recorder (R443 to R456) -/

/-- A record that joins the open segment stands in the ring (R449). -/
theorem mem_segAppend {segs : List (Nat × List LogRec)} (h : segs ≠ []) (l : LogRec) : l ∈ (segAppend segs [l]).flatMap (·.2) := by
  obtain ⟨⟨q, rs⟩, hlast⟩ := List.getLast?_isSome.2 h |> Option.isSome_iff_exists.1
  simp [segAppend, hlast]

theorem segAppend_ne_nil {segs : List (Nat × List LogRec)} (h : segs ≠ []) (l : List LogRec) : segAppend segs l ≠ [] := by
  obtain ⟨⟨q, rs⟩, hlast⟩ := List.getLast?_isSome.2 h |> Option.isSome_iff_exists.1
  simp [segAppend, hlast]

/-- The records that stand in the log: the ring, the audit area and the clear records (R449, R451). -/
def RecSt.area (r : RecSt) : List LogRec := r.ringRecs ++ r.audit ++ r.clears

namespace State

@[simp] theorem latch_recd (s : State) (n : Nat) : (s.latch n).recd = s.recd := (State.latch_only s n).1 .recd (by decide)

theorem occurRepeat_area (s : State) (l : LogRec) : (s.occurRepeat l).recd.area = s.recd.area := rfl

theorem occurDrop_area (s : State) (code tokens : Nat) : (s.occurDrop code tokens).recd.area = s.recd.area := rfl

theorem occurRate_area (s : State) (code : Nat) : (s.occurRate code).1.recd.area = s.recd.area := by
  have hdrop : ((s.occurDrop code 0).bump P.REC_STATUS_DROPPED_RATE 0).recd = (s.occurDrop code 0).recd := State.bump_recd ..
  unfold State.occurRate
  extract_lets s1
  have h1 : s1.recd.area = s.recd.area := (congrArg RecSt.area hdrop).trans (occurDrop_area ..)
  split <;> exact h1

/-- A record that opens in staging, after any change of its code's bucket. -/
theorem opened_area (s : State) (code n : Nat) (b : Bucket) (staging : List LogRec) :
    (({ s.setBucket code b with recd := { (s.setBucket code b).recd with staging := staging, opened := true } } : State).put
      P.REC_NEXT_INDEX_INDEX 0 n).recd.area = s.recd.area := by
  rw [State.put_recd]
  rfl

theorem occurOpen_area (s : State) (code severity : Nat) (detail : List Byte) :
    (s.occurOpen code severity detail).recd.area = s.recd.area := opened_area ..

/-- An occurrence enters staging, and not the log (R446). -/
@[simp] theorem occur_area (s : State) (code severity : Nat) (detail : List Byte) :
    (s.occur code severity detail).1.recd.area = s.recd.area := by
  unfold State.occur
  split
  · rfl
  · split
    · exact occurRepeat_area ..
    · split
      · exact occurRate_area ..
      · split
        · rw [State.bump_recd]
          exact occurDrop_area ..
        · exact occurOpen_area ..

@[simp] theorem recRaises_area (s : State) (l : List Nat) : (s.recRaises l).recd.area = s.recd.area := by
  induction l generalizing s with
  | nil => rfl
  | cons n ns ih =>
    rw [State.recRaises, ih]
    split
    · rw [occur_area, latch_recd]
    · rw [latch_recd]

@[simp] theorem raise_area (s : State) (n : Nat) : (s.raise n).recd.area = s.recd.area := by
  unfold State.raise
  dsimp only
  split
  · rw [recRaises_area, occur_area, latch_recd]
  · rw [latch_recd]

@[simp] theorem raise_ctx (s : State) (n : Nat) : (s.raise n).ctx = s.ctx := (State.raise_only s n).1 .ctx (by decide)

end State

/-- From `s` to `u` the log keeps its records and the monitoring queue its own. -/
def SameLog (s u : State) : Prop := u.recd.area = s.recd.area ∧ u.ctx.mon = s.ctx.mon

namespace SameLog

theorem refl {s : State} : SameLog s s := ⟨rfl, rfl⟩

theorem trans {s u v : State} (h : SameLog s u) (k : SameLog u v) : SameLog s v := ⟨k.1.trans h.1, k.2.trans h.2⟩

/-- A context that skips (R204, R205). -/
theorem ctxSkip (s : State) (c src : Nat) (skipped : List Rec) (pos : Nat) : SameLog s (s.ctxSkip c src skipped pos) := by
  unfold SameLog State.ctxSkip
  split <;> simp [State.modCtx, State.takeSeq]

theorem monReposition (s : State) (dropped : List QRec) (pos : Nat) (l : List (Nat × CtxSt)) :
    SameLog s (s.monReposition dropped pos l) := by
  induction l generalizing s with
  | nil => exact refl
  | cons p rest ih =>
    unfold State.monReposition
    refine trans ?_ (ih _)
    have hbump (v : State) : SameLog v (v.bump P.MON_STATUS_RESETS 0) := ⟨by simp, by simp⟩
    split
    · dsimp only
      split
      · exact ctxSkip ..
      · exact (ctxSkip ..).trans (hbump _)
    · exact refl

end SameLog

/-- A record that is exported stands last in the monitoring queue, at its end (R205). -/
theorem State.monEmit_last (s : State) (r : Rec) :
    (s.monEmit r).recd.area = s.recd.area ∧ (s.monEmit r).ctx.mon.getLast? = some ⟨s.ctx.monEnd, r, false⟩ := by
  unfold State.monEmit State.monPut
  extract_lets e' keep dropped q pos ctx s1 s2
  have hput : s2.recd.area = s.recd.area ∧ s2.ctx.mon.getLast? = some q := by
    constructor
    · simp [s2, s1, RecSt.area]
    · simp [s2, s1]
  split
  · exact hput
  · obtain ⟨harea, hmon⟩ := SameLog.monReposition s2 dropped pos s2.ctx.c
    rw [harea, hmon]
    exact hput

namespace State

@[simp] theorem recOldest_recd (s : State) : s.recOldest.recd = s.recd := (State.recOldest_only s).1 .recd (by decide)
@[simp] theorem recOldest_ctx (s : State) : s.recOldest.ctx = s.ctx := (State.recOldest_only s).1 .ctx (by decide)
@[simp] theorem budgetTake_recd (s : State) (n : Nat) : (s.budgetTake n).recd = s.recd := (State.budgetTake_only s n).1 .recd (by decide)
@[simp] theorem budgetTake_ctx (s : State) (n : Nat) : (s.budgetTake n).ctx = s.ctx := (State.budgetTake_only s n).1 .ctx (by decide)
@[simp] theorem budgetFill_ctx (s : State) : s.budgetFill.ctx = s.ctx := (State.budgetFill_only s).1 .ctx (by decide)
@[simp] theorem maintBegin_recd (s : State) (code unit : Nat) (byHost : Bool) : (s.maintBegin code unit byHost).recd = s.recd :=
  (State.maintBegin_only ..).1 .recd (by decide)
@[simp] theorem maintEnd_recd (s : State) (code unit : Nat) : (s.maintEnd code unit).recd = s.recd :=
  (State.maintEnd_only ..).1 .recd (by decide)
@[simp] theorem logPlace_ctx (s : State) (r : LogRec) : (s.logPlace r).ctx = s.ctx := (State.logPlace_only s r).1 .ctx (by decide)

/-- A segment is open once the next one has been opened (R449, R450). -/
theorem segOpen_segs (s : State) : s.segOpen.recd.segs ≠ [] := by
  unfold State.segOpen
  extract_lets r segs s1 s2 last
  have hsegs : s2.recd.segs = segs := by
    unfold s2
    split <;> simp [s1]
  have hne : segs ≠ [] := by simp [segs]
  split
  · rw [hsegs]
    exact hne
  · next hfull =>
    obtain ⟨p, rest, hcons⟩ := List.exists_cons_of_ne_nil hne
    have hrest : rest ≠ [] := by
      rintro rfl
      simp [hcons] at hfull
    rw [hcons]
    simpa using segAppend_ne_nil hrest _

/-- A written record stands in its area (R449, R451). -/
theorem mem_logPlace (s : State) (r : LogRec) : r ∈ (s.logPlace r).recd.area := by
  unfold State.logPlace RecSt.area
  split
  · simp
  · split
    · simp
    · have hopen : (if s.recd.room < 8 * r.len then s.segOpen else s).recd.segs ≠ [] := by
        split
        · exact segOpen_segs s
        · next hroom =>
          intro hnil
          have hlen : 0 < r.len := by unfold LogRec.len; omega
          simp [RecSt.room, hnil] at hroom
          omega
      exact List.mem_append_left _ (List.mem_append_left _ (mem_segAppend hopen r))

section Occurrence

variable {s : State} {code severity : Nat} {detail : List Byte}

theorem occur_below (h : severity < s.get P.REC_CFG_SEV_MIN 0) : s.occur code severity detail = (s, []) := by
  rw [State.occur, if_pos h]

variable (hsev : s.get P.REC_CFG_SEV_MIN 0 ≤ severity)
include hsev

theorem occur_repeat {l : LogRec} (h : s.openRepeat code severity = some l) :
    s.occur code severity detail = (s.occurRepeat l, []) := by
  rw [State.occur, if_neg hsev.not_gt, h]

theorem occur_open (h : s.openRepeat code severity = none) (hlevel : secSt ≤ (s.bucketOf code).level)
    (hroom : s.noRoom (s.newRecord code severity detail) = false) :
    s.occur code severity detail = (s.occurOpen code severity detail, []) := by
  rw [State.occur, if_neg hsev.not_gt, h]
  dsimp only
  rw [if_neg hlevel.not_gt, hroom, if_neg Bool.false_ne_true]

end Occurrence

/-- A new record joins staging, open, and takes the next index (R443, R446). -/
theorem opened_staging (s : State) (code n : Nat) (b : Bucket) (staging : List LogRec) :
    let u := ({ s.setBucket code b with recd := { (s.setBucket code b).recd with staging := staging, opened := true } } : State).put
      P.REC_NEXT_INDEX_INDEX 0 n
    u.recd.staging = staging ∧ u.recd.opened = true ∧ u.get P.REC_NEXT_INDEX_INDEX 0 = n % 2 ^ 64 :=
  ⟨by rw [State.put_recd], by rw [State.put_recd], State.get_put_same _ _ _ _ _ (by decide)⟩

/-- The next index as the word it fills. -/
theorem nextIndex_get (s : State) : s.get P.REC_NEXT_INDEX_INDEX 0 = (Regs.word s.regs P.REC_NEXT_INDEX_INDEX 0).toNat := by
  have hw := (Regs.word s.regs P.REC_NEXT_INDEX_INDEX 0).isLt
  show (Regs.word s.regs P.REC_NEXT_INDEX_INDEX 0).toNat / 2 ^ 0 % 2 ^ 64 = _
  rw [pow_zero, Nat.div_one, Nat.mod_eq_of_lt hw]

theorem occurOpen_staging (s : State) (code severity : Nat) (detail : List Byte) :
    (s.occurOpen code severity detail).recd.staging = s.recd.staging ++ [s.newRecord code severity detail] ∧
      (s.occurOpen code severity detail).recd.opened = true ∧
      (s.occurOpen code severity detail).get P.REC_NEXT_INDEX_INDEX 0 = (s.get P.REC_NEXT_INDEX_INDEX 0 + 1) % 2 ^ 64 := by
  rw [nextIndex_get s]
  have h := opened_staging s code ((Regs.word s.regs P.REC_NEXT_INDEX_INDEX 0).toNat + 1)
  exact h _ _

/-- A repeat takes the place of the open record, which is the last of staging (R446). -/
theorem openRepeat_last {s : State} {code severity : Nat} {l : LogRec} (h : s.openRepeat code severity = some l) :
    s.recd.staging.getLast? = some l := (Option.filter_eq_some_iff.1 h).1

theorem occurRepeat_staging {s : State} {l : LogRec} (h : s.recd.staging.getLast? = some l) :
    (s.occurRepeat l).recd.staging.length = s.recd.staging.length ∧
      (s.occurRepeat l).recd.staging.getLast? = some { l with rep := l.rep + 1, lastTb := s.time.now } := by
  have hne : s.recd.staging ≠ [] := by
    rintro hnil
    simp [hnil] at h
  have hlen := List.length_pos_iff.2 hne
  simp [State.occurRepeat]
  omega

/-- A write without the lease is counted, and raises source 225 (R23). -/
theorem deny_done (s : State) : s.deny.core.denied = satTo 32 (s.core.denied + 1) ∧ Raised 225 s.deny := by
  refine ⟨?_, State.raise_raised _ (by decide)⟩
  unfold State.deny
  rw [(State.raise_only _ 225).1 .core (by decide)]

/-- A written record stands in the log, and last in the monitoring queue (R449, R455). -/
theorem logWrite_done (s : State) (l : LogRec) :
    l ∈ (s.logWrite l).recd.ringRecs ++ (s.logWrite l).recd.audit ++ (s.logWrite l).recd.clears ∧
      (s.logWrite l).ctx.mon.getLast?.map (fun q => (q.pos, q.data.type, q.data.body)) = some (s.ctx.monEnd, 0x0D, pad8 l.encode) := by
  unfold State.logWrite
  extract_lets s1
  obtain ⟨harea, hlast⟩ := State.monEmit_last s1 (s1.mkRec 0x0D 0 ⟨l.first.epoch, tbNs l.first.tb * nsSt⟩ l.encode)
  have hmem : l ∈ s1.recd.area := by
    simp only [s1, recOldest_recd]
    exact mem_logPlace ..
  have hctx : s1.ctx = s.ctx := by simp [s1]
  rw [← harea] at hmem
  refine ⟨hmem, ?_⟩
  rw [hlast, hctx]
  rfl

/-- What waits to be written waits after the budget is brought up to date too (R452). -/
theorem budgetFill_head (s : State) : s.budgetFill.recd.head = s.recd.head := by
  unfold State.budgetFill
  rw [State.put_recd]
  rfl

theorem budgetFill_logScanHolds (s : State) : s.budgetFill.logScanHolds = s.logScanHolds := by
  unfold State.budgetFill State.logScanHolds
  rw [State.put_recd, State.put_time]

end State

/-- To show what a command leaves, show it of what it does once the clock stands at its time. -/
theorem acts_of_live {i : Instr} {s : State} {t : Tm} {f : State → State} {Q : State → Prop} (hp : s.pwr.por = false)
    (hi : exec i s = live t s f) (hQ : Q (f (s.clock t))) : Acts i s Q := ⟨_, hi.trans (live_of hp t f), hQ⟩

/-- Settles O15: each command of the recorder by the rule of the operation it runs. -/
theorem recorderCompletes : Obligations.RecorderCompletes := by
  unfold Obligations.RecorderCompletes
  intro s t hp
  refine ⟨?_, ?_, ?_, ?_, ?_, ?_, ?_⟩
  · intro pier code severity detail hholder hsev hopen hlevel hroom
    have hoccur := State.occur_open (s := s.clock t) (by simpa using hsev) hopen hlevel hroom
    refine acts_of_live hp (Eq.refl (execRecOccurrence t pier code severity detail s)) ?_
    dsimp only
    rw [if_pos (by simpa using hholder), hoccur]
    have hdone := State.occurOpen_staging (s.clock t) code.toNat severity (detail.take 224)
    rw [State.clock_recd, State.clock_get] at hdone
    exact hdone
  · intro pier code severity detail l hholder hsev hopen
    have hoccur := State.occur_repeat (s := s.clock t) (detail := detail.take 224) (by simpa using hsev) hopen
    obtain ⟨hlen, hlast⟩ := State.occurRepeat_staging (State.openRepeat_last hopen)
    refine acts_of_live hp (Eq.refl (execRecOccurrence t pier code severity detail s)) ?_
    dsimp only
    rw [if_pos (by simpa using hholder), hoccur]
    exact ⟨hlen, hlast, State.clock_get s t ..⟩
  · intro pier code severity detail hholder hsev
    have hoccur := State.occur_below (s := s.clock t) (code := code.toNat) (detail := detail.take 224) (by simpa using hsev)
    refine acts_of_live hp (Eq.refl (execRecOccurrence t pier code severity detail s)) ?_
    dsimp only
    rw [if_pos (by simpa using hholder), hoccur]
    rfl
  · intro pier code severity detail hholder
    refine acts_of_live hp (Eq.refl (execRecOccurrence t pier code severity detail s)) ?_
    dsimp only
    rw [if_neg (by simpa using hholder)]
    exact State.deny_done (s.clock t)
  · intro l hlast hopened hplace
    refine acts_of_live hp (Eq.refl (execRecRepeatExpire t s)) ?_
    dsimp only
    rw [State.clock_recd, hlast]
    dsimp only
    rw [hopened, Bool.true_and, State.clock_get, if_pos (by exact decide_eq_true hplace)]
    exact ⟨rfl, rfl⟩
  · intro l hhead hscan hcost
    refine acts_of_live hp (Eq.refl (execRecMramWriteComplete t s)) ?_
    dsimp only
    rw [State.budgetFill_head, State.clock_recd, hhead]
    dsimp only
    rw [State.budgetFill_logScanHolds, hscan, if_neg (by simpa using hcost)]
    simpa using State.logWrite_done _ l
  · refine acts_of_live hp (Eq.refl (execRecScan t s)) ?_
    simp [State.logScanHolds]
end Sys2Proof.Machine

namespace Sys2Proof.Machine

open Sys2Proof

/-! ### The configuration store (R32, R358, R403, R461) -/

/-- A key that a table does not list reads as its default. -/
theorem Tbl.get_eq_default {α : Type} (d : α) {t : Tbl α} {i : Nat} (h : i ∉ t.map (·.1)) : Tbl.get d t i = d := by
  induction t with
  | nil => rfl
  | cons p r ih =>
    obtain ⟨k, v⟩ := p
    simp only [List.map_cons, List.mem_cons, not_or] at h
    rw [Tbl.get, if_neg (Ne.symm h.1), ih h.2]

/-- What every step of a list keeps, working through it keeps. -/
theorem State.each_keeps {Q : State → Prop} {f : State → Nat → State} (hf : ∀ s j, Q s → Q (f s j)) (l : List Nat)
    {s : State} (h : Q s) : Q (s.each l f) := by
  induction l generalizing s with
  | nil => exact h
  | cons j l ih => exact ih (hf s j h)

/-- A field reads from a mixed word what the new word holds, where the mask is the field's own. -/
theorem Fld.of_mixBits_mask {f : Fld} (old new : W64) (h : f.lo + f.width ≤ 64) : f.of (mixBits old new f.mask) = f.of new := by
  refine Fld.of_congr h (BitVec.eq_of_getLsbD_eq fun i _ => ?_)
  simp only [mixBits, BitVec.getLsbD_and, BitVec.getLsbD_or, BitVec.getLsbD_not]
  cases f.mask.getLsbD i <;> simp

namespace State

/-- A load of one parameter leaves every other word (R403). -/
theorem loadOne_other (s : State) (target : Tbl W64) {id k : Nat} (d : W64) (h : k ≠ id) :
    Tbl.get d (s.loadOne target id).regs k = Tbl.get d s.regs k := by
  unfold State.loadOne
  split
  · rfl
  · dsimp only
    split
    · rfl
    · split
      · exact Tbl.get_set_ne _ _ _ _ h
      · exact Tbl.get_set_ne _ _ _ _ h

/-- A load of FAB_CLAIM_CFG gives WINDOW_MS the value that the table loaded holds. -/
theorem loadOne_claimCfg (s : State) (target : Tbl W64) :
    (s.loadOne target (P.FAB_CLAIM_CFG_WINDOW_MS.id 0 0)).get P.FAB_CLAIM_CFG_WINDOW_MS 0 =
      Regs.get target P.FAB_CLAIM_CFG_WINDOW_MS 0 := by
  have hstored : claimCfg.par.stored = true := by decide
  have hheld : [P.CTX_FAB_DEST_ADDR.pid, P.CTX_DDR_DEST_BASE_MIB.pid].contains claimCfg.par.pid = false := by decide
  have hrwm : claimCfg.par.fields.any (Fld.has .rwm) = false := by decide
  have hplain : (claimCfg.par.mask fun f => f.acc == .rw || f.acc == .rwm) = P.FAB_CLAIM_CFG_WINDOW_MS.mask := by decide
  have hswap : claimCfg.par.mask (Fld.has .rws) = 0#64 := by decide
  have hreset : claimCfg.par.resetAt (P.FAB_CLAIM_CFG_WINDOW_MS.id 0 0) =
      resetWord (P.FAB_CLAIM_CFG_WINDOW_MS.id 0 0) P.FAB_CLAIM_CFG_WINDOW_MS.word := by decide
  unfold State.loadOne
  simp only [named_claimCfg, hstored, hheld, hrwm, hplain, hswap, Bool.not_true, Bool.and_false, Bool.false_and, Bool.or_self,
    Bool.false_eq_true, if_false, BitVec.and_zero, BitVec.ofNat_eq_ofNat, if_true]
  unfold State.get Regs.get
  rw [Regs.word, Par.setIn, hreset, Tbl.get_set_same, Fld.of_mixBits_mask _ _ (by decide), Par.inTable, hreset]
  rfl

/-- A configuration gives WINDOW_MS its value, or the reset value where it does not list it (R403). -/
theorem configApply_claimCfg (s : State) (target : Tbl W64) :
    (s.configApply target).get P.FAB_CLAIM_CFG_WINDOW_MS 0 = Regs.get target P.FAB_CLAIM_CFG_WINDOW_MS 0 := by
  have hkeep (v : State) (id : Nat) (h : v.get P.FAB_CLAIM_CFG_WINDOW_MS 0 = Regs.get target P.FAB_CLAIM_CFG_WINDOW_MS 0) :
      (v.loadOne target id).get P.FAB_CLAIM_CFG_WINDOW_MS 0 = Regs.get target P.FAB_CLAIM_CFG_WINDOW_MS 0 := by
    by_cases hid : P.FAB_CLAIM_CFG_WINDOW_MS.id 0 0 = id
    · exact hid ▸ loadOne_claimCfg v target
    · rw [← h]
      unfold State.get Regs.get Regs.word
      rw [loadOne_other _ _ _ hid]
  have hsum (v : State) (l : List Nat) : (v.each l State.sumEval).regs = v.regs :=
    State.each_keeps (f := State.sumEval) (Q := fun u => u.regs = v.regs) (fun _ _ h => h) l rfl
  unfold State.configApply
  extract_lets ids s1
  rw [State.get_congr (hsum ..)]
  by_cases hmem : P.FAB_CLAIM_CFG_WINDOW_MS.id 0 0 ∈ ids
  · exact State.each_reaches (Q := fun u => u.get P.FAB_CLAIM_CFG_WINDOW_MS 0 = Regs.get target P.FAB_CLAIM_CFG_WINDOW_MS 0)
      (fun v => loadOne_claimCfg v target) hkeep hmem s
  · refine State.each_keeps (Q := fun u => u.get P.FAB_CLAIM_CFG_WINDOW_MS 0 = Regs.get target P.FAB_CLAIM_CFG_WINDOW_MS 0) hkeep ids ?_
    simp only [ids, List.mem_eraseDups, List.mem_append, not_or] at hmem
    obtain ⟨⟨⟨htarget, hregs⟩, -⟩, -⟩ := hmem
    unfold State.get Regs.get Regs.word
    rw [Tbl.get_eq_default _ htarget, Tbl.get_eq_default _ hregs]

theorem configApply_sec (s : State) (target : Tbl W64) : (s.configApply target).sec = s.sec :=
  (State.configApply_only ..).1 .sec (by decide)

/-- The newest valid copy of the firmware's own major version is loaded (R358, R461). -/
theorem configLoad_newest {s : State} {k : Nat} {c : Store} (h : s.sec.newest = some (k, c))
    (hv : c.version / 65536 = s.host.fwVersion / 65536) :
    s.configLoad.get P.FAB_CLAIM_CFG_WINDOW_MS 0 = Regs.get c.regs P.FAB_CLAIM_CFG_WINDOW_MS 0 ∧
      s.configLoad.sec.lastCopy = some k ∧ s.configLoad.sec.dirty = false := by
  unfold State.configLoad
  rw [h]
  dsimp only
  rw [if_pos hv, configApply_claimCfg, configApply_sec]
  exact ⟨rfl, rfl, rfl⟩

/-! ### TIME_STEP and SCHEDULE (R320, R329, R330, R399, R400) -/

/-- The lowest empty entry is one of the 64, and unarmed (R330). -/
theorem emptyEntry_spec {s : State} {i : Nat} (h : s.emptyEntry = some i) : i < 64 ∧ (s.actOf i).armed = false := by
  have hmem := List.mem_of_find?_eq_some h
  have hp := List.find?_some h
  simp only [Bool.and_eq_true, Bool.not_eq_true'] at hp
  exact ⟨List.mem_range.1 hmem, hp.1⟩

/-- The word that an arming writes into ACT_CFG. -/
def armWord (value : Nat) : W64 := BitVec.ofNat 64 (value % 2 ^ 17 + value / 2 ^ 20 % 2 ^ 12 * 2 ^ 20)

/-- The word of ACT_CFG that a payload gives, as an arming writes it, holds the payload's kind and stitch. -/
theorem scheduleWord_fields (p : List Byte) :
    scheduleWord p / 4096 % 8 = field p 10 1 % 8 ∧ P.ACT_CFG_KIND.of (armWord (scheduleWord p)) = field p 10 1 % 8 ∧
      P.ACT_CFG_STITCH.of (armWord (scheduleWord p)) = field p 8 2 % 4096 := by
  unfold armWord scheduleWord Fld.of
  generalize field p 10 1 = bits, field p 8 2 = stitch, field p 12 2 = len
  simp only [P.ACT_CFG_KIND, P.ACT_CFG_STITCH, BitVec.toNat_ofNat]
  omega

/-- A field reads from the word just written what that word holds. -/
theorem get_putWord_same (s : State) {f g : Fld} (i : Nat) (v : W64) (hp : f.pid = g.pid) (hw : f.word = g.word) :
    (s.putWord f i v).get g i 0 = g.of v := by
  have hid : g.id i 0 = f.id i 0 := by unfold Fld.id; rw [hp]
  unfold State.putWord State.get Regs.get Regs.setWord Regs.word
  rw [hid, ← hw, Tbl.get_set_same]

theorem get_putWord_ne (s : State) {f g : Fld} (i j : Nat) (v : W64) (h : g.id j 0 ≠ f.id i 0) :
    (s.putWord f i v).get g j 0 = s.get g j 0 := by
  unfold State.putWord State.get Regs.get Regs.setWord Regs.word
  rw [Tbl.get_set_ne _ _ _ _ h]

section Arming

variable {s : State} {i value : Nat}

/-- An arming of an empty entry in time shows it armed, with its kind (R330). -/
theorem armEntry_inTime (hkind : 1 ≤ value / 4096 % 8 ∧ value / 4096 % 8 ≤ 4) (harmed : (s.actOf i).armed = false)
    (hdue : s.commitAt + 10 * usSt ≤ s.get P.ACT_TIME_TIME_NS i * nsSt + P.ACT_CFG_STITCH.of (armWord value)) :
    (s.armEntry i value).2 = stOk ∧ ((s.armEntry i value).1.actOf i).armed = true ∧
      (s.armEntry i value).1.get P.ACT_CFG_KIND i = P.ACT_CFG_KIND.of (armWord value) ∧
      (s.armEntry i value).1.get P.ACT_STATUS_STATE i = 1 := by
  have hid : P.ACT_TIME_TIME_NS.id i 0 ≠ P.ACT_CFG_KIND.id i 0 := by simp [Fld.id, P.ACT_TIME_TIME_NS, P.ACT_CFG_KIND]
  have hlate : ¬ (s.putWord P.ACT_CFG_KIND i (armWord value)).actTime i < s.commitAt + 10 * usSt := by
    unfold State.actTime
    rw [get_putWord_same (f := P.ACT_CFG_KIND) (g := P.ACT_CFG_STITCH) s i _ rfl rfl, get_putWord_ne s i i _ hid]
    exact Nat.not_lt.2 hdue
  have harm : ∃ a : ActSt, a.armed = true ∧ s.armEntry i value =
      (((((s.putWord P.ACT_CFG_KIND i (armWord value)).put P.ACT_STATUS_STATE i 1).putB P.ACT_STATUS_RAN_LATE i false).put
        P.ACT_STATUS_LATE_US i 0).modAct i fun _ => a, 0) := by
    unfold State.armEntry
    extract_lets kind w s1 due late s2 s3
    have hl : late = false := decide_eq_false hlate
    rw [if_neg (by omega), if_neg (by omega), harmed, if_neg Bool.false_ne_true, hl, Bool.false_and, if_neg Bool.false_ne_true,
      if_neg Bool.false_ne_true]
    exact ⟨_, rfl, rfl⟩
  obtain ⟨a, ha, he⟩ := harm
  rw [he]
  refine ⟨rfl, ?_, ?_, ?_⟩
  · simp [State.actOf, State.modAct, Tbl.mod, ha]
  · rw [State.get_congr (State.modAct_regs ..), State.putB, State.get_put_par _ _ _ _ _ _ _ _ (by decide) (by decide) (by decide),
      State.get_put_par _ _ _ _ _ _ _ _ (by decide) (by decide) (by decide),
      State.get_put_par _ _ _ _ _ _ _ _ (by decide) (by decide) (by decide), get_putWord_same _ _ _ rfl rfl]
  · rw [State.get_congr (State.modAct_regs ..), State.putB,
      State.get_put_apart _ P.ACT_STATUS_LATE_US P.ACT_STATUS_STATE _ _ _ (by decide) (by decide) rfl rfl,
      State.get_put_apart _ P.ACT_STATUS_RAN_LATE P.ACT_STATUS_STATE _ _ _ (by decide) (by decide) rfl rfl,
      State.get_put_same _ _ _ _ _ (by decide)]
    rfl

end Arming

section Payload

variable {s : State} {p : List Byte} {i : Nat}

/-- What SCHEDULE writes of its entry before it arms it (R400). -/
def scheduled (s : State) (p : List Byte) (i : Nat) : State :=
  ((s.put P.ACT_TIME_TIME_NS i (field p 0 8)).put P.ACT_ARG_ARG i (field p 16 4)).put P.ACT_PERIOD_NS i (field p 20 4)

theorem scheduled_time (ht : field p 0 8 < timeLimit) : (s.scheduled p i).get P.ACT_TIME_TIME_NS i = field p 0 8 := by
  unfold scheduled
  rw [State.get_put_par _ _ _ _ _ _ _ _ (by decide) (by decide) (by decide),
    State.get_put_par _ _ _ _ _ _ _ _ (by decide) (by decide) (by decide), State.get_put_same _ _ _ _ _ (by decide)]
  exact Nat.mod_eq_of_lt (ht.trans (by decide))

theorem scheduled_timeBase : (s.scheduled p i).time = s.time := by
  unfold scheduled
  rw [State.put_time, State.put_time, State.put_time]

/-- A schedule in time fills the lowest empty entry and arms it (R330, R400). -/
theorem schedule_inTime (hkind : 1 ≤ field p 10 1 % 8 ∧ field p 10 1 % 8 ≤ 4) (hstitch : field p 8 2 % 4096 ≤ 3071)
    (ht : field p 0 8 < timeLimit) (hperiod : field p 20 4 = 0 ∨ 1000 ≤ field p 20 4) (hi : s.emptyEntry = some i)
    (hdue : s.commitAt + 10 * usSt ≤ field p 0 8 * nsSt + field p 8 2 % 4096) :
    ∃ u : State, s.schedule p = u.gives i ∧ (u.actOf i).armed = true ∧ u.get P.ACT_TIME_TIME_NS i = field p 0 8 ∧
      u.get P.ACT_CFG_KIND i = field p 10 1 % 8 ∧ u.get P.ACT_STATUS_STATE i = 1 := by
  obtain ⟨hkindWord, hkindOf, hstitchOf⟩ := scheduleWord_fields p
  have hcommit : (s.scheduled p i).commitAt = s.commitAt := by rw [State.commitAt, scheduled_timeBase, State.commitAt]
  have hempty : ((s.scheduled p i).actOf i).armed = false := by
    rw [State.actOf, scheduled_timeBase]
    exact (emptyEntry_spec hi).2
  have hin : (s.scheduled p i).commitAt + 10 * usSt ≤
      (s.scheduled p i).get P.ACT_TIME_TIME_NS i * nsSt + P.ACT_CFG_STITCH.of (armWord (scheduleWord p)) := by
    rw [scheduled_time ht, hstitchOf, hcommit]
    exact hdue
  obtain ⟨hok, harmed, hkindGet, hstate⟩ := armEntry_inTime (hkindWord.symm ▸ hkind) hempty hin
  refine ⟨_, ?_, harmed, ?_, hkindGet.trans hkindOf, hstate⟩
  · unfold State.schedule
    dsimp only
    rw [if_neg (by omega), hi]
    exact if_pos hok
  · rw [State.get_of_only (State.armEntry_only ..) (by decide) _ _ _ (by decide) (by decide), scheduled_time ht]

/-- Without an empty entry nothing is scheduled (R400). -/
theorem schedule_full (h : s.emptyEntry = none) : ∃ status, status ≠ stOk ∧ s.schedule p = s.ends status := by
  unfold State.schedule
  dsimp only
  split
  · exact ⟨stBadParam, by decide, rfl⟩
  · exact ⟨stNoResource, by decide, by rw [h]; rfl⟩

end Payload

section Met

variable (s : State) (t : Tm) (mb : Mb) (c : Cmd)

@[simp] theorem met_sec : (s.met t mb c).sec = s.sec := by
  obtain ⟨x, hx⟩ := s.met_eq t mb c
  rw [hx]; rfl
@[simp] theorem met_host : (s.met t mb c).host = s.host := by
  obtain ⟨x, hx⟩ := s.met_eq t mb c
  rw [hx]; rfl
@[simp] theorem met_out : (s.met t mb c).out = s.out := by
  obtain ⟨x, hx⟩ := s.met_eq t mb c
  rw [hx]; rfl
@[simp] theorem met_act : (s.met t mb c).time.act = s.time.act := by
  obtain ⟨x, hx⟩ := s.met_eq t mb c
  rw [hx]; rfl
@[simp] theorem met_steps : (s.met t mb c).time.steps = s.time.steps := by
  obtain ⟨x, hx⟩ := s.met_eq t mb c
  rw [hx]; rfl
@[simp] theorem met_epoch : (s.met t mb c).time.epoch = s.time.epoch := by
  obtain ⟨x, hx⟩ := s.met_eq t mb c
  rw [hx]; rfl
@[simp] theorem met_isRoot : (s.met t mb c).isRoot = s.isRoot := by
  obtain ⟨x, hx⟩ := s.met_eq t mb c
  rw [hx]; rfl
@[simp] theorem met_spanLen : (s.met t mb c).spanLen = s.spanLen := by
  obtain ⟨x, hx⟩ := s.met_eq t mb c
  rw [hx]; rfl
@[simp] theorem met_commitAt : (s.met t mb c).commitAt = (s.clock t).commitAt := by
  obtain ⟨x, hx⟩ := s.met_eq t mb c
  rw [hx]; rfl
@[simp] theorem met_afterCommit : (s.met t mb c).afterCommit = (s.clock t).afterCommit := by
  obtain ⟨x, hx⟩ := s.met_eq t mb c
  rw [hx]; rfl
@[simp] theorem met_maySave : (s.met t mb c).maySave = (s.clock t).maySave := by
  obtain ⟨x, hx⟩ := s.met_eq t mb c
  rw [hx]; rfl
@[simp] theorem met_configOf : (s.met t mb c).configOf = s.configOf := by
  obtain ⟨x, hx⟩ := s.met_eq t mb c
  rw [hx]; rfl
@[simp] theorem met_emptyEntry : (s.met t mb c).emptyEntry = s.emptyEntry := by
  obtain ⟨x, hx⟩ := s.met_eq t mb c
  rw [hx]; rfl
@[simp] theorem met_backgrounds (w : Who) : (s.met t mb c).backgrounds w = s.backgrounds w := by
  obtain ⟨x, hx⟩ := s.met_eq t mb c
  rw [hx]; rfl

end Met

/-- The state with one more step kept for its boundary (R320). -/
def stepKept (s : State) (p : PendStep) : State := { s with time := { s.time with steps := s.time.steps ++ [p] } }

section TimeStep

variable {s : State} {p : List Byte} {b : Tm} (hb : field p 24 8 * nsSt = b) (hspan : b % s.spanLenAt b = 0) (hnow : s.time.now < b)
  (hafter : s.afterCommit ≤ b) (hbusy : s.time.steps.any (·.b == b) = false)
include hb hspan hnow hafter hbusy

/-- An offset of this device alone is kept for its boundary (R320, R399). -/
theorem timeStep_own {j : Int} (hflags : field p 0 1 = 0) (hstitch : field p 16 2 % 4096 = 0) (hj : sext 64 (field p 8 8) = j)
    (hreach : 0 ≤ (b : Int) + j ∧ (b : Int) + j < (timeLimit * nsSt : Nat)) (hepoch : ¬(j < 0 ∧ s.time.epoch = 0xFFFF)) :
    s.timeStep p = (s.stepKept ⟨b, s.time.epoch, false, j, none⟩).gives (tbNs b) := by
  unfold State.timeStep
  rw [hflags, hstitch, hb, hj]
  have hto : Nat.testBit 0 0 = false := rfl
  have hfabric : Nat.testBit 0 1 = false := rfl
  simp only [hto, hfabric, Bool.false_eq_true, if_false, Bool.false_and]
  rw [if_neg (by simpa [hspan, hnow, hreach] using hreach.2), if_neg hafter.not_gt, hbusy, if_neg Bool.false_ne_true, if_neg hepoch]
  rfl

/-- A target time of the whole fabric is kept for its boundary and distributed by the root (R320, R399). -/
theorem timeStep_fabric {x : Nat} (hflags : field p 0 1 = 3) (hstitch : field p 16 2 % 4096 ≤ 3071)
    (hx : field p 8 8 * nsSt + field p 16 2 % 4096 = x) (hlimit : x < timeLimit * nsSt) (hroot : s.isRoot = true)
    (hahead : s.time.now + max (10 * s.spanLen) (10 * msSt) ≤ b) (hepoch : ¬(x < b ∧ s.time.epoch = 0xFFFF)) :
    s.timeStep p = ((s.stepKept ⟨b, s.time.epoch, true, x, none⟩).stepSend b true x).gives (tbNs b) := by
  unfold State.timeStep
  rw [hflags, hb]
  dsimp only
  rw [hx]
  have hto : Nat.testBit 3 0 = true := rfl
  have hfabric : Nat.testBit 3 1 = true := rfl
  have hcast : (x : Int) < timeLimit * nsSt := by exact_mod_cast hlimit
  have hreached : (b : Int) + ((x : Int) - b) = x := by omega
  simp only [hto, hfabric, if_true, Bool.not_true, Bool.false_and, Bool.true_and, hroot, hreached, Bool.false_eq_true, if_false]
  rw [if_neg (by simpa [hspan, hnow, hstitch] using hcast), if_neg hafter.not_gt, if_neg (by simpa using hahead), hbusy,
    if_neg Bool.false_ne_true, if_neg (by omega)]
  rfl

end TimeStep

/-! ### Saves (R32, R384, R461) -/

/-- The copy that a save writes holds the configuration under the next number (R32, R461). -/
theorem saveNow_done {s : State} {k : Nat} (hk : s.saveNow.sec.lastCopy = some k) :
    (Tbl.get Store.reset s.saveNow.sec.store k).regs = s.configOf ∧
      (Tbl.get Store.reset s.saveNow.sec.store k).number = s.sec.saves + 1 ∧ s.saveNow.sec.dirty = false := by
  unfold State.saveNow at hk ⊢
  obtain rfl := Option.some.inj hk
  dsimp only
  rw [Tbl.get_set_same]
  exact ⟨rfl, rfl, rfl⟩

/-- The background commands that an end picks go on no longer (R384). -/
theorem backEnd_ended (s : State) {f : Wait → Bool} {status : Nat} {result : W64} {response : List Byte} {opcode : Nat}
    (hf : ∀ y : Wait, y.opcode = opcode → f y = true) :
    ∀ y ∈ (s.backEnd f status result response).mbox.wait, y.opcode = opcode → y.background = false := by
  intro y hy hop
  obtain ⟨x, -, rfl⟩ := List.mem_map.1 hy
  by_cases hx : x.background && f x
  · rw [if_pos hx]
  · rw [if_neg hx] at hop ⊢
    simpa [hf x hop] using hx

/-- A command that goes on in the background waits there, and leaves what the Keystone keeps in MRAM (R384). -/
theorem finish_goesOn {s : State} {w : Who} {c : Cmd} {k : Cls} (hk : k ≠ .r) (hroom : s.backgrounds w < 16) :
    (s.finish w c k s.goesOn).sec = s.sec ∧ GoesOn c w (s.finish w c k s.goesOn) := by
  unfold State.finish
  dsimp only
  rw [if_neg hk, if_pos (show s.goesOn.background = true from rfl), if_neg (Nat.not_le.2 hroom)]
  have hsec : (s.noted w c.seq).sec = s.sec := (s.noted_only w c.seq).1 .sec (by decide)
  have hwait (l : List Wait) : GoesOn c w { s.noted w c.seq with
      mbox := { (s.noted w c.seq).mbox with wait := l ++ [c.wait w s.goesOn 0] } } := by
    simp [Cmd.wait, State.goesOn]
  split
  · exact ⟨hsec, hwait _⟩
  · refine ⟨((State.post_only ..).1 .sec (by decide)).trans hsec, ?_⟩
    rw [GoesOn, (State.post_tables _ _).2]
    exact hwait _

end State

/-- Settles O40: each command finishes its effect, which the rule of its operation gives. -/
theorem configurationCompletes : Obligations.ConfigurationCompletes := by
  unfold Obligations.ConfigurationCompletes
  intro s t hp
  refine ⟨?save, ?later, ?deferred, ?load, ?resetValues, ?own, ?fabric, ?schedule, ?full⟩
  case save =>
    intro mb cmd k hserved hmay hk
    refine acts_of_served hp rfl hserved ?_
    have hd : Cls.p ≠ .r := by decide
    have hlast : (s.met t mb cmd).saveNow.sec.lastCopy = some k := by
      obtain ⟨x, hx⟩ := s.met_eq t mb cmd
      rw [← hk, hx]
      rfl
    obtain ⟨hregs, hnumber, hdirty⟩ := State.saveNow_done hlast
    rw [State.met_maySave, hmay, if_pos rfl, State.met_now]
    rw [State.finish_done_sec hd rfl rfl]
    rw [State.gives_s, hregs, State.met_configOf, hnumber, State.met_sec]
    exact ⟨rfl, rfl, hlast, hdirty, State.finish_done_owed hd rfl rfl⟩
  case later =>
    intro mb cmd hserved hroom hmay
    refine acts_of_served hp rfl hserved ?_
    obtain ⟨hsec, hwait⟩ := State.finish_goesOn (s := s.met t mb cmd) (c := cmd) (w := s.sentBy t mb cmd) (k := .p) (by decide)
      (by rw [State.met_backgrounds]; exact hroom)
    rw [State.met_maySave, hmay, if_neg Bool.false_ne_true]
    exact ⟨hsec.trans (State.met_sec ..), hwait⟩
  case deferred =>
    intro hl hmay hany
    refine acts_of_live hp (Eq.refl (execConfigSaveDeferred t s)) ?_
    have hl' : (s.clock t).leased = true := hl
    have hany' : ((s.clock t).mbox.wait.any fun y => y.background && y.opcode == 0x0007) = true := hany
    dsimp only
    rw [hl', hmay, hany', if_pos (by decide)]
    exact ⟨rfl, rfl, State.backEnd_ended _ fun y hy => by simpa using hy⟩
  case load =>
    intro mb cmd k c hserved hfrom hnewest hversion
    refine acts_of_served hp rfl hserved ?_
    have hd : Cls.p ≠ .r := by decide
    obtain ⟨hget, hlast, hdirty⟩ := State.configLoad_newest (s := s.met t mb cmd) (by rw [State.met_sec, hnewest])
      (by rw [State.met_host, hversion])
    rw [hfrom, if_neg (by decide), if_pos rfl, State.met_dueNow]
    refine ⟨?_, ?_, ?_, State.finish_done_owed hd rfl rfl⟩
    · rw [State.get_of_only (State.finish_done_only hd rfl rfl) (by decide) _ _ _ (by decide) (by decide)]
      exact hget
    · rw [State.finish_done_sec hd rfl rfl]
      exact hlast
    · rw [State.finish_done_sec hd rfl rfl]
      exact hdirty
  case resetValues =>
    intro mb cmd hserved hfrom
    refine acts_of_served hp rfl hserved ?_
    have hd : Cls.p ≠ .r := by decide
    rw [hfrom, if_neg (by decide), if_neg (by decide), State.met_dueNow]
    refine ⟨?_, ?_, State.finish_done_owed hd rfl rfl⟩
    · rw [State.get_of_only (State.finish_done_only hd rfl rfl) (by decide) _ _ _ (by decide) (by decide), State.gives_s,
        State.configApply_claimCfg]
      rfl
    · rw [State.finish_done_sec hd rfl rfl, State.gives_s, State.configApply_sec, State.met_sec]
  case own =>
    intro mb cmd b j hserved hflags hstitch hb hj hspan hnow hreach hafter hbusy hepoch
    refine acts_of_served hp rfl hserved ?_
    have hd : Cls.p ≠ .r := by decide
    rw [State.timeStep_own hb (by simpa using hspan) (by simpa using hnow) (by simpa using hafter) (by simpa using hbusy) hflags hstitch
      hj hreach (by simpa using hepoch)]
    refine ⟨?_, State.finish_done_owed hd rfl rfl⟩
    rw [State.finish_done_time hd rfl rfl]
    simp [State.stepKept]
  case fabric =>
    intro mb cmd b x hserved hflags hstitch hb hx hspan hnow hlimit hroot hafter hahead hbusy hepoch
    refine acts_of_served hp rfl hserved ?_
    have hd : Cls.p ≠ .r := by decide
    rw [State.timeStep_fabric hb (by simpa using hspan) (by simpa using hnow) (by simpa using hafter) (by simpa using hbusy) hflags
      hstitch hx hlimit (by simpa using hroot) (by simpa using hahead) (by simpa using hepoch)]
    refine ⟨?_, ?_, State.finish_done_owed hd rfl rfl⟩
    · rw [State.finish_done_time hd rfl rfl]
      simp [State.stepKept, State.stepSend]
    · rw [Emits, (State.finish_done_only hd rfl rfl).1 .out (by decide)]
      simp [State.stepKept, State.stepSend, b2n]
  case schedule =>
    intro mb cmd i hserved hkind hstitch ht hperiod hi hdue
    refine acts_of_served hp rfl hserved ?_
    have hd : Cls.n ≠ .r := by decide
    obtain ⟨u, hu, harmed, htime, hkindGet, hstate⟩ := State.schedule_inTime (s := s.met t mb cmd) hkind hstitch ht hperiod
      (by simpa using hi) (by simpa using hdue)
    rw [hu]
    have hget (f : Fld) (hf : f.pid / 4096 % 4096 = 0 ∧ f.pid % 4096 + 0 < 4096) (hr : f.pid + 0 ∉ [0x0F000302, 0x0F000303]) :
        ((s.met t mb cmd).finish (s.sentBy t mb cmd) cmd .n (u.gives i)).get f i = u.get f i :=
      State.get_of_only (State.finish_done_only hd rfl rfl) (by decide) f i 0 hf hr
    refine ⟨?_, ?_, ?_, ?_, State.finish_done_owed hd rfl rfl⟩
    · rw [State.actOf, State.finish_done_time hd rfl rfl]
      exact harmed
    · rw [hget _ (by decide) (by decide), htime]
    · rw [hget _ (by decide) (by decide), hkindGet]
    · rw [hget _ (by decide) (by decide), hstate]
  case full =>
    intro mb cmd hserved hnone
    refine acts_of_served hp rfl hserved ?_
    have hd : Cls.n ≠ .r := by decide
    obtain ⟨status, hstatus, hends⟩ := State.schedule_full (s := s.met t mb cmd) (p := cmd.payload) (by simpa using hnone)
    rw [hends]
    refine ⟨?_, ?_⟩
    · rw [State.finish_failed_time hd rfl hstatus, State.ends_s, State.met_act]
    · rw [State.finish_failed_wait hd rfl hstatus, State.ends_s, State.met_wait]

end Sys2Proof.Machine

namespace Sys2Proof.Machine

open Sys2Proof

/-! ### Readings of the state that an operation leaves alone -/

theorem State.fe_congr {s u : State} (h : u.afe = s.afe) (t : Nat) : u.fe t = s.fe t := by unfold State.fe; rw [h]
theorem State.feCh_congr {s u : State} (h : u.afe = s.afe) (c : Nat) : u.feCh c = s.feCh c := by unfold State.feCh; rw [h]
theorem State.hk_congr {s u : State} (h : u.dig = s.dig) (t : Nat) : u.hk t = s.hk t := by unfold State.hk; rw [h]
theorem State.lp_congr {s u : State} (h : u.loop = s.loop) (t : Nat) : u.lp t = s.lp t := by unfold State.lp; rw [h]
theorem State.td_congr {s u : State} (h : u.tdc = s.tdc) (c : Nat) : u.td c = s.td c := by unfold State.td; rw [h]
theorem State.pair_congr {s u : State} (h : u.tdc = s.tdc) (n : Nat) : u.pair n = s.pair n := by unfold State.pair; rw [h]
theorem State.gauge_congr {s u : State} (h : u.tdc = s.tdc) (g : Nat) : u.gauge g = s.gauge g := by unfold State.gauge; rw [h]
theorem State.actOf_congr {s u : State} (h : u.time = s.time) (i : Nat) : u.actOf i = s.actOf i := by unfold State.actOf; rw [h]
theorem State.toutOf_congr {s u : State} (h : u.time = s.time) (x : Nat) : u.toutOf x = s.toutOf x := by unfold State.toutOf; rw [h]

section Readings

variable {ps : List Part} {rs : List Nat} {s u : State} (h : Only ps rs s u)
include h

theorem State.flag_of_only (hp : Part.regs ∉ ps) (f : Fld) (i w : Nat) (hf : f.pid / 4096 % 4096 = 0 ∧ f.pid % 4096 + w < 4096)
    (hr : f.pid + w ∉ rs) : u.flag f i w = s.flag f i w := by
  rw [State.flag, State.flag, State.get_of_only h hp f i w hf hr]

theorem State.fe_of_only (hp : Part.afe ∉ ps) (t : Nat) : u.fe t = s.fe t := State.fe_congr (h.1 .afe hp) t
theorem State.feCh_of_only (hp : Part.afe ∉ ps) (c : Nat) : u.feCh c = s.feCh c := State.feCh_congr (h.1 .afe hp) c
theorem State.hk_of_only (hp : Part.dig ∉ ps) (t : Nat) : u.hk t = s.hk t := State.hk_congr (h.1 .dig hp) t
theorem State.lp_of_only (hp : Part.loop ∉ ps) (t : Nat) : u.lp t = s.lp t := State.lp_congr (h.1 .loop hp) t
theorem State.td_of_only (hp : Part.tdc ∉ ps) (c : Nat) : u.td c = s.td c := State.td_congr (h.1 .tdc hp) c
theorem State.pair_of_only (hp : Part.tdc ∉ ps) (n : Nat) : u.pair n = s.pair n := State.pair_congr (h.1 .tdc hp) n
theorem State.actOf_of_only (hp : Part.time ∉ ps) (i : Nat) : u.actOf i = s.actOf i := State.actOf_congr (h.1 .time hp) i
theorem State.toutOf_of_only (hp : Part.time ∉ ps) (x : Nat) : u.toutOf x = s.toutOf x := State.toutOf_congr (h.1 .time hp) x

end Readings

/-! ### A parameter after a write -/

/-- A flag reads as it was just set. -/
theorem State.flag_putB_same (s : State) (f : Fld) (i : Nat) (b : Bool) (h : f.lo + f.width ≤ 64 ∧ 1 ≤ f.width) :
    (s.putB f i b).flag f i = b := by
  have hw : 2 ≤ 2 ^ f.width := Nat.pow_le_pow_right (n := 2) (by decide) h.2
  have hb : b2n b < 2 ^ f.width := lt_of_lt_of_le (by cases b <;> decide) hw
  rw [State.flag, State.putB, State.get_put_same _ _ _ _ _ h.1, Nat.mod_eq_of_lt hb]
  cases b <;> rfl

/-- A value that fits its field reads back. -/
theorem State.get_put_fits (s : State) (f : Fld) (i : Nat) {v : Nat} (h : f.lo + f.width ≤ 64) (hv : v < 2 ^ f.width) :
    (s.put f i v).get f i = v := by
  rw [State.get_put_same _ _ _ _ _ h, Nat.mod_eq_of_lt hv]

theorem satTo_lt (w v : Nat) : satTo w v < 2 ^ w := by
  have : 0 < 2 ^ w := by positivity
  unfold satTo
  omega

/-- A counter reads one more, saturated at its width. -/
theorem State.get_bump_same (s : State) (f : Fld) (i n : Nat) (h : f.lo + f.width ≤ 64) :
    (s.bump f i n).get f i = satTo f.width (s.get f i + n) := State.get_put_fits _ _ _ h (satTo_lt _ _)

/-- A raised source leaves every parameter but the recorder's counters (R445, R446). -/
theorem State.raise_get (s : State) (n : Nat) (f : Fld) (i w : Nat) (hf : f.pid / 4096 % 4096 = 0 ∧ f.pid % 4096 + w < 4096)
    (hr : f.pid + w ∉ [0x11000203, 0x11000204]) : (s.raise n).get f i w = s.get f i w :=
  State.get_of_only (s.raise_only n) (by decide) f i w hf hr

theorem State.log_get (s : State) (code severity : Nat) (detail : List Byte) (f : Fld) (i w : Nat)
    (hf : f.pid / 4096 % 4096 = 0 ∧ f.pid % 4096 + w < 4096)
    (hr : f.pid + w ∉ [0x11000203, 0x11000204]) : (s.log code severity detail).get f i w = s.get f i w :=
  State.get_of_only (s.log_only code severity detail) (by decide) f i w hf hr

@[simp] theorem State.with_afe_get (s : State) (x : AfeSt) (f : Fld) (i w : Nat) :
    ({ s with afe := x } : State).get f i w = s.get f i w := State.get_congr (State.with_afe_regs s x) f i w

@[simp] theorem State.clock_flag (s : State) (t : Tm) (f : Fld) (i w : Nat) : (s.clock t).flag f i w = s.flag f i w := by
  rw [State.flag, State.flag, State.clock_get]
@[simp] theorem State.clock_fe (s : State) (t : Tm) (i : Nat) : (s.clock t).fe i = s.fe i := rfl
@[simp] theorem State.clock_hk (s : State) (t : Tm) (i : Nat) : (s.clock t).hk i = s.hk i := rfl
@[simp] theorem State.clock_leased (s : State) (t : Tm) : (s.clock t).leased = s.leased := rfl
@[simp] theorem State.clock_abut (s : State) (t : Tm) : (s.clock t).abut = s.abut := rfl
@[simp] theorem State.clock_tripped (s : State) (t : Tm) (i : Nat) : (s.clock t).tripped i = s.tripped i := State.clock_flag ..
@[simp] theorem State.clock_maintJudge (s : State) (t : Tm) (code unit : Nat) : (s.clock t).maintJudge code unit = s.maintJudge code unit := rfl
theorem State.clock_instant (s : State) (t : Tm) : (s.clock t).time.now = s.instant t := rfl

/-! ### Impedance visits (R46 to R51) -/

/-- An activity that begins runs, and MAINT_STATUS says so (R420). -/
theorem State.maintBegin_runs (s : State) (code unit : Nat) (byHost : Bool) :
    (s.maintBegin code unit byHost).maintRuns code unit = true ∧ (s.maintBegin code unit byHost).get P.MAINT_STATUS_STATE code = 1 := by
  constructor
  · simp [State.maintBegin, State.maintState, State.maintRuns]
  · rw [State.maintBegin, State.maintState, State.get_put_same _ _ _ _ _ (by decide), if_pos (by simp)]
    rfl

/-- An activity that ends runs no longer (R420). -/
theorem State.maintEnd_runs (s : State) (code unit : Nat) : (s.maintEnd code unit).maintRuns code unit = false := by
  unfold State.maintEnd
  split
  · next h =>
    simp only [State.maintRuns, State.maintState, State.put_core, List.any_eq_false, List.mem_map, List.mem_filter]
    rintro _ ⟨a, ⟨-, ha⟩, rfl⟩
    split <;> simpa [imp_iff_not_or] using ha
  · next h => simpa [State.maintRuns] using h

theorem State.log_run (s : State) (code severity : Nat) (detail : List Byte) : (s.log code severity detail).core.run = s.core.run := by
  have hdeny : s.deny.core.run = s.core.run := by
    unfold State.deny
    rw [(State.raise_only _ 225).1 .core (by decide)]
  unfold State.log
  dsimp only
  split
  · rw [(State.recRaises_only ..).1 .core (by decide), (State.occur_only ..).1 .core (by decide)]
  · exact hdeny

/-- What a visit's class leaves of the front end: a first opening only queues a visit (R48, R51). -/
theorem State.impAct_fe (s : State) (t i : Nat) (k : ImpClass) :
    (s.impAct t i k).fe = s.fe ∨ (s.impAct t i k).fe = (s.queueVisit t i).fe := by
  have hraise (v : State) (n : Nat) : (v.raise n).fe = v.fe := funext (State.fe_of_only (v.raise_only n) (by decide))
  have hlog (v : State) (l : List Byte) : (v.log 0x0101 5 l).fe = v.fe := funext (State.fe_of_only (v.log_only ..) (by decide))
  have hput (v : State) (f : Fld) (j : Nat) (b : Bool) : (v.putB f j b).fe = v.fe := by
    funext c; simp [State.fe]
  unfold State.impAct
  dsimp only
  split
  · left
    cases k
    · dsimp only
      rw [hlog, hraise]
      funext c
      simp [State.fe]
    · simp only [hraise, hput]
    · simp only [hraise, hput]
  · cases k
    · right
      have hafe (v : State) (n : Nat) : (v.raise n).afe = v.afe := (v.raise_only n).1 .afe (by decide)
      funext c
      simp [State.queueVisit, State.fe, State.modFe, hafe]
    · left
      simp only [hraise, hput]
    · exact .inl rfl

theorem State.impAct_visit (s : State) (t i : Nat) (k : ImpClass) : ((s.impAct t i k).fe t).visit = (s.fe t).visit := by
  rcases s.impAct_fe t i k with h | h
  · rw [h]
  · rw [h, State.queueVisit, State.modFe_same]

theorem State.impAct_fe_ne (s : State) {t j : Nat} (i : Nat) (k : ImpClass) (h : j ≠ t) : (s.impAct t i k).fe j = s.fe j := by
  rcases s.impAct_fe t i k with e | e
  · rw [e]
  · rw [e, State.queueVisit, State.modFe_ne _ h]

/-- A visit's class leaves the running activities (R48). -/
theorem State.impAct_run (s : State) (t i : Nat) (k : ImpClass) : (s.impAct t i k).core.run = s.core.run := by
  have hraise (v : State) (n : Nat) : (v.raise n).core = v.core := (v.raise_only n).1 .core (by decide)
  unfold State.impAct
  dsimp only
  split <;> cases k <;> simp [State.queueVisit, hraise, State.log_run]

/-- It leaves IMP_INVALID of its channel. -/
theorem State.impAct_impInvalid (s : State) (t i : Nat) (k : ImpClass) :
    (s.impAct t i k).get P.CH_STATUS_IMP_INVALID (16 * t + i) = s.get P.CH_STATUS_IMP_INVALID (16 * t + i) := by
  unfold State.impAct State.putB
  dsimp only
  split <;> cases k <;>
    simp (disch := decide) only [State.queueVisit, State.modFe_get, State.with_afe_get, State.log_get, State.raise_get,
      State.get_put_apart]

/-- The outcome of R47 fits its field. -/
theorem impField_lt (o : Option Int) (f : Fld) (args : List Int) : impField o f args < 2 ^ f.width := by
  have hp : 0 < 2 ^ f.width := by positivity
  unfold impField
  split
  · split
    · next h => exact h.2
    · exact Nat.mod_lt _ hp
  · exact Nat.mod_lt _ hp

/-- The visit of a tile is over. -/
def State.visitOver (s : State) (t i : Nat) : State := (s.modFe t fun f => { f with visit := none }).maintEnd 0 (16 * t + i)

theorem State.visitOver_fe (s : State) (t i : Nat) : (s.visitOver t i).fe = (s.modFe t fun f => { f with visit := none }).fe :=
  funext (State.fe_of_only (State.maintEnd_only ..) (by decide))

theorem State.visitOver_impC (s : State) (t i j : Nat) : (s.visitOver t i).get P.IMP_C_CAP j = s.get P.IMP_C_CAP j := by
  rw [State.visitOver, State.get_of_only (State.maintEnd_only ..) (by decide) _ _ _ (by decide) (by decide), State.modFe_get]

/-- The result of a visit stands in the registers. -/
def State.visitGiven (s : State) (t i : Nat) (ire iim : Int) : State :=
  (((s.visitOver t i).putB P.CH_STATUS_IMP_INVALID (16 * t + i) false).put P.IMP_C_CAP (16 * t + i)
    (impField (impCap ire iim) P.IMP_C_CAP [ire, iim])).put P.IMP_RES_RES (16 * t + i)
    (impField (impRes ire iim) P.IMP_RES_RES [ire, iim])

theorem State.visitGiven_afe (s : State) (t i : Nat) (ire iim : Int) : (s.visitGiven t i ire iim).afe = (s.visitOver t i).afe := by
  rw [State.visitGiven, State.put_afe, State.put_afe, State.putB_afe]

theorem State.visitGiven_regs (s : State) (t i : Nat) (ire iim : Int) :
    (s.visitGiven t i ire iim).get P.IMP_C_CAP (16 * t + i) = impField (impCap ire iim) P.IMP_C_CAP [ire, iim] ∧
      (s.visitGiven t i ire iim).get P.IMP_RES_RES (16 * t + i) = impField (impRes ire iim) P.IMP_RES_RES [ire, iim] ∧
      (s.visitGiven t i ire iim).flag P.CH_STATUS_IMP_INVALID (16 * t + i) = false := by
  refine ⟨?_, State.get_put_fits _ _ _ (by decide) (impField_lt ..), ?_⟩
  · rw [State.visitGiven, State.get_put_par _ _ _ _ _ _ _ _ (by decide) (by decide) (by decide)]
    exact State.get_put_fits _ _ _ (by decide) (impField_lt ..)
  · rw [State.visitGiven, State.flag, State.get_put_par _ _ _ _ _ _ _ _ (by decide) (by decide) (by decide),
      State.get_put_par _ _ _ _ _ _ _ _ (by decide) (by decide) (by decide)]
    exact State.flag_putB_same _ _ _ _ (by decide)

section Visit

variable {s : State} {tile : Tile} {i : Nat} {t : Tm} (ire iim : Int) {half1 half2 : Nat} (hp : s.pwr.por = false)
  (hvisit : (s.fe tile).visit = some i)
  (hdue : (s.core.run.any fun a => a.code == 0 && a.unit == 16 * tile.val + i && decide (a.since + visitLen ≤ s.instant t)) = true)
include hp hvisit hdue

/-- A visit whose halves agree gives its result, and its channel's class acts (R47, R48). -/
theorem exec_visitResult_agree (h : halvesDiffer half1 half2 = false) :
    exec (.impedanceVisitResult t tile ire iim half1 half2) s = .next (((s.clock t).visitGiven tile i ire iim).impAct tile i
      (((s.clock t).visitGiven tile i ire iim).impClassify (16 * tile + i)
        ((impCap ire iim).getD (impField (impCap ire iim) P.IMP_C_CAP [ire, iim]))
        ((impRes ire iim).getD (impField (impRes ire iim) P.IMP_RES_RES [ire, iim])))) := by
  have hvisit' : ((s.clock t).fe tile).visit = some i := hvisit
  simp only [exec, execImpedanceVisitResult, live_of hp, hvisit', h, Bool.false_eq_true, if_false]
  exact congrArg Host.Outcome.next (if_pos hdue)

/-- A visit whose halves differ gives no result and puts its channel first in the queue (R47). -/
theorem exec_visitResult_differ (h : halvesDiffer half1 half2 = true) :
    exec (.impedanceVisitResult t tile ire iim half1 half2) s =
      .next ((((s.clock t).visitOver tile i).putB P.CH_STATUS_IMP_INVALID (16 * tile + i) true).modFe tile fun f =>
        { f with queue := i :: f.queue.filter (· != i) }) := by
  have hvisit' : ((s.clock t).fe tile).visit = some i := hvisit
  simp only [exec, execImpedanceVisitResult, live_of hp, hvisit', h, if_true]
  exact congrArg Host.Outcome.next (if_pos hdue)

end Visit

/-- Settles O1: a slot begins an activity; a result ends it, and what its class then does leaves the result. -/
theorem frontEndVisitsComplete : Obligations.FrontEndVisitsComplete := by
  unfold Obligations.FrontEndVisitsComplete
  intro s t hp
  refine ⟨?start, ?agree, ?differ, ?restore⟩
  case start =>
    intro tile i hslot henable htrip hlease habut hchan hjudge
    refine acts_of_live hp (Eq.refl (execImpedanceSlotStart t tile s)) ?_
    have hdue : ((s.clock t).time.now % slotLen == 0) = true := beq_iff_eq.2 hslot
    obtain ⟨hruns, hstate⟩ := State.maintBegin_runs
      ((s.clock t).modFe tile fun f => { f with visit := some i, queue := f.queue.filter (· != i) }) 0 (16 * tile + i) false
    simp only [hdue, henable, htrip, hlease, habut, hchan, hjudge, State.clock_flag, State.clock_tripped, State.clock_leased,
      State.clock_abut, State.clock_maintJudge, Bool.not_false, Bool.and_self, if_true]
    rw [State.fe_of_only (State.maintBegin_only ..) (by decide), State.modFe_same]
    exact ⟨rfl, by simp, hruns, hstate⟩
  case agree =>
    intro tile i ire iim half1 half2 hvisit hdue hhalves
    obtain ⟨hcap, hres, hvalid⟩ := (s.clock t).visitGiven_regs tile i ire iim
    refine ⟨_, exec_visitResult_agree ire iim hp hvisit hdue hhalves, ?_, ?_, ?_, ?_, ?_⟩
    · rw [State.impAct_visit, State.fe_congr (State.visitGiven_afe ..), State.visitOver_fe, State.modFe_same]
    · rw [State.get_of_only (State.impAct_only ..) (by decide) _ _ _ (by decide) (by decide), hcap]
    · rw [State.get_of_only (State.impAct_only ..) (by decide) _ _ _ (by decide) (by decide), hres]
    · rw [State.flag, State.impAct_impInvalid]
      exact hvalid
    · rw [State.maintRuns, State.impAct_run, State.visitGiven, State.put_core, State.put_core, State.putB_core]
      exact State.maintEnd_runs ..
  case differ =>
    intro tile i ire iim half1 half2 hvisit hdue hhalves
    refine ⟨_, exec_visitResult_differ ire iim hp hvisit hdue hhalves, ?_, ?_, ?_, ?_⟩
    · rw [State.modFe_same, State.fe_congr (State.putB_afe ..), State.visitOver_fe, State.modFe_same]
    · rw [State.modFe_same]
      rfl
    · rw [State.flag, State.modFe_get]
      exact State.flag_putB_same _ _ _ _ (by decide)
    · rw [State.modFe_get, State.putB, State.get_put_par _ _ _ _ _ _ _ _ (by decide) (by decide) (by decide), State.visitOver_impC,
        State.clock_get]
  case restore =>
    intro ch hbroken
    refine acts_of_live hp (Eq.refl (execChannelRestore t ch s)) ?_
    have hbroken' : (s.clock t).flag P.CH_STATUS_BROKEN ch = true := by rw [State.clock_flag, hbroken]
    rw [State.channelRestore, if_pos hbroken']
    refine ⟨?_, by simp, by simp⟩
    rw [State.flag, State.with_afe_get]
    exact State.flag_putB_same _ _ _ _ (by decide)

end Sys2Proof.Machine

namespace Sys2Proof.Machine

open Sys2Proof

/-! ### One tile's front end (R43, R53 to R60) -/

theorem State.freeze_afe (s : State) (t : Nat) : (s.freeze t).afe = s.afe := by
  unfold State.freeze
  split
  · dsimp only
    split
    · exact State.modHk_afe ..
    · rfl
  · rfl

/-- From `s` to `u` the front end keeps the levels of the BLANK pins and every tile but `t`. -/
def TileAlone (t : Nat) (s u : State) : Prop :=
  (u.afe.pin0 = s.afe.pin0 ∧ u.afe.pin1 = s.afe.pin1) ∧ ∀ j, j ≠ t → u.fe j = s.fe j

namespace TileAlone

variable {t : Nat} {s u v : State}

theorem of_afe (h : u.afe = s.afe) : TileAlone t s u := ⟨by rw [h]; exact ⟨rfl, rfl⟩, fun _ _ => State.fe_congr h _⟩

theorem of_only {ps : List Part} {rs : List Nat} (h : Only ps rs s u) (hp : Part.afe ∉ ps) : TileAlone t s u := of_afe (h.1 .afe hp)

theorem refl : TileAlone t s s := of_afe rfl

theorem trans (h : TileAlone t s u) (k : TileAlone t u v) : TileAlone t s v :=
  ⟨⟨k.1.1.trans h.1.1, k.1.2.trans h.1.2⟩, fun j hj => (k.2 j hj).trans (h.2 j hj)⟩

theorem modFe (s : State) (t : Nat) (f : FeTile → FeTile) : TileAlone t s (s.modFe t f) :=
  ⟨⟨rfl, rfl⟩, fun _ hj => State.modFe_ne s hj f⟩

theorem settleAt (s : State) (t : Nat) (at_ : Tm) (n : Nat) : TileAlone t s (s.settleAt t at_ n) := by
  unfold State.settleAt
  dsimp only
  split
  · exact modFe ..
  · split
    · split
      · exact (modFe ..).trans (of_afe (by rw [State.bump_afe, State.modHk_afe]))
      · exact modFe ..
    · exact modFe ..

theorem maskEval (s : State) (p t : Nat) : TileAlone t s (s.maskEval p t) := modFe ..

theorem blankEval (s : State) (t : Nat) : TileAlone t s (s.blankEval t) := by
  have hmasks : TileAlone t s ((s.maskEval 0 t).maskEval 1 t) := (maskEval ..).trans (maskEval ..)
  have hblank (f : FeTile → FeTile) : TileAlone t s (((((s.maskEval 0 t).maskEval 1 t).modFe t f).showBlank t).freeze t) :=
    (hmasks.trans (modFe ..)).trans ((of_only (State.showBlank_only ..) (by decide)).trans (of_afe (State.freeze_afe ..)))
  unfold State.blankEval
  dsimp only
  split
  · exact hblank _
  · split
    · exact hblank _
    · split
      · exact hmasks.trans (modFe ..)
      · exact hmasks

end TileAlone

namespace State

/-- The pins of a tile act alike where their levels and the parameters are the same (R53). -/
theorem pinActive_congr {s u : State} (h0 : u.afe.pin0 = s.afe.pin0) (h1 : u.afe.pin1 = s.afe.pin1)
    (hg : ∀ f ∈ [P.BLANK_CFG0_ENABLE, P.BLANK_CFG0_POLARITY, P.BLANK_CFG0_TILE_MASK, P.BLANK_CFG1_ENABLE, P.BLANK_CFG1_POLARITY,
      P.BLANK_CFG1_TILE_MASK], u.get f 0 = s.get f 0) (p t : Nat) : u.pinActive p t = s.pinActive p t := by
  simp only [List.forall_mem_cons, List.not_mem_nil, false_implies, implies_true, and_true] at hg
  obtain ⟨a, b, c, d, e, f⟩ := hg
  simp only [pinActive, flag, a, b, c, d, e, f, h0, h1]

theorem maskEval_pinActive (s : State) (q p t j : Nat) : (s.maskEval q t).pinActive p j = s.pinActive p j :=
  pinActive_congr rfl rfl (fun f _ => State.modFe_get s t _ f 0 0) p j

theorem blankEval_pinActive (s : State) (p t j : Nat) : (s.blankEval t).pinActive p j = s.pinActive p j := by
  refine pinActive_congr (TileAlone.blankEval s t).1.1 (TileAlone.blankEval s t).1.2 (fun f hf => ?_) p j
  refine State.get_of_only (s.blankEval_only t) (by decide) f 0 0 ?_ ?_ <;> revert f <;> decide

/-- Where a pin acts in a tile, judging the tile's blank opens it with no guard; a pulse that has not ended opens it too; and none
that stands open is closed (R53). -/
theorem blankEval_fe (s : State) (t : Nat) : ∃ ms b g, (s.blankEval t).fe t = { s.fe t with masks := ms, blanked := b, guardUntil := g } ∧
    ((s.pinActive 0 t || s.pinActive 1 t || s.scanHold) = true → b = true ∧ g = none) ∧
    (((s.fe t).pulserUntil.any fun e => decide (s.time.now < e)) = true → b = true) ∧ ((s.fe t).blanked = true → b = true) := by
  have hfe : ∃ ms, ((s.maskEval 0 t).maskEval 1 t).fe t = { s.fe t with masks := ms } := by
    unfold State.maskEval
    dsimp only
    rw [State.modFe_same, State.modFe_same]
    exact ⟨_, rfl⟩
  have hshow (v : State) (f : FeTile → FeTile) : (((v.modFe t f).showBlank t).freeze t).fe t = f (v.fe t) := by
    rw [State.fe_congr (State.freeze_afe ..), State.fe_of_only (State.showBlank_only ..) (by decide), State.modFe_same]
  obtain ⟨ms, hms⟩ := hfe
  have hpin (p : Nat) : ((s.maskEval 0 t).maskEval 1 t).pinActive p t = s.pinActive p t := by
    rw [maskEval_pinActive, maskEval_pinActive]
  unfold State.blankEval
  extract_lets s0 f pin timed
  have hf : f = { s.fe t with masks := ms } := hms
  have hpins : pin = (s.pinActive 0 t || s.pinActive 1 t || s.scanHold) := by
    simp only [pin, s0, hpin]
    rfl
  rw [← hpins]
  split
  · exact ⟨ms, true, none, by rw [hshow, hms], fun _ => ⟨rfl, rfl⟩, fun _ => rfl, fun _ => rfl⟩
  · next hoff =>
    split
    · exact ⟨ms, true, _, by rw [hshow, hms], fun h => absurd h hoff, fun _ => rfl, fun _ => rfl⟩
    · next hnot =>
      have hpulse : ((s.fe t).pulserUntil.any fun e => decide (s.time.now < e)) ≠ true := fun h =>
        hnot (by simp only [timed, hf, h, Bool.true_or])
      split
      · exact ⟨ms, (s.fe t).blanked, _, by rw [State.modFe_same, hms], fun h => absurd h hoff, fun h => absurd h hpulse, id⟩
      · exact ⟨ms, (s.fe t).blanked, (s.fe t).guardUntil, hms, fun h => absurd h hoff, fun h => absurd h hpulse, id⟩

/-- A tile in which a pin acts is blanked, and no guard runs in it (R53). -/
def PinBlanked (p t : Nat) (u : State) : Prop := u.pinActive p t = true → (u.fe t).blanked = true ∧ (u.fe t).guardUntil = none

theorem blankEval_pinBlanked (s : State) (p : Fin 2) (t : Nat) : PinBlanked p t (s.blankEval t) := by
  intro h
  rw [blankEval_pinActive] at h
  obtain ⟨ms, b, g, he, hpin, -⟩ := s.blankEval_fe t
  have hany : (s.pinActive 0 t || s.pinActive 1 t || s.scanHold) = true := by
    match p, h with
    | 0, h => simp only [show s.pinActive 0 t = true from h, Bool.true_or]
    | 1, h => simp only [show s.pinActive 1 t = true from h, Bool.true_or, Bool.or_true]
  rw [he]
  exact hpin hany

/-- Judging every tile's blank keeps the levels of the pins, and blanks the tiles they act in (R53). -/
theorem blankAll_pinBlanked (s : State) (p : Fin 2) (tile : Tile) : PinBlanked p tile s.blankAll := by
  refine State.each_reaches (fun s => s.blankEval_pinBlanked p tile) (fun s j h => ?_) (List.mem_range.2 tile.isLt) s
  by_cases hj : tile.val = j
  · exact hj ▸ s.blankEval_pinBlanked p j
  · unfold PinBlanked
    rw [blankEval_pinActive, (TileAlone.blankEval s j).2 _ hj]
    exact h

theorem blankAll_pins (s : State) : s.blankAll.afe.pin0 = s.afe.pin0 ∧ s.blankAll.afe.pin1 = s.afe.pin1 :=
  State.each_keeps (Q := fun u => u.afe.pin0 = s.afe.pin0 ∧ u.afe.pin1 = s.afe.pin1)
    (fun u j h => ⟨(TileAlone.blankEval u j).1.1.trans h.1, (TileAlone.blankEval u j).1.2.trans h.2⟩) _ ⟨rfl, rfl⟩

/-- What a field reads after a write of it, at any index. -/
theorem get_put (s : State) (f : Fld) (i v j : Nat) (h : f.lo + f.width ≤ 64) (hp : f.pid / 4096 % 4096 = 0 ∧ f.pid % 4096 + 0 < 4096) :
    (s.put f i v).get f j = if i % 4096 = j % 4096 then v % 2 ^ f.width else s.get f j := by
  split
  · next hij =>
    have hid : f.id j 0 = f.id i 0 := by unfold Fld.id; rw [hij]
    have hread : (s.put f i v).get f j = (s.put f i v).get f i := by unfold State.get Regs.get Regs.word; rw [hid]
    rw [hread, State.get_put_same _ _ _ _ _ h]
  · next hij => exact State.get_put_inst _ _ _ _ _ _ _ _ hp hp hij

theorem mem_channelsOf (t : Nat) (i : Fin 16) : 16 * t + i.val ∈ channelsOf t :=
  List.mem_map.2 ⟨i.val, List.mem_range.2 i.isLt, rfl⟩

/-- CH_STATUS.BLANKED shows the blank of the tile in each of its channels. -/
theorem showBlank_shows (s : State) (t : Nat) (i : Fin 16) :
    (s.showBlank t).get P.CH_STATUS_BLANKED (16 * t + i) = b2n (s.fe t).blanked := by
  have hbit (b : Bool) : b2n b % 2 ^ P.CH_STATUS_BLANKED.width = b2n b := by cases b <;> rfl
  have key : (s.showBlank t).get P.CH_STATUS_BLANKED (16 * t + i) = b2n ((s.showBlank t).fe t).blanked := by
    refine State.each_reaches (Q := fun u => u.get P.CH_STATUS_BLANKED (16 * t + i) = b2n (u.fe t).blanked)
      (fun s => ?_) (fun s j h => ?_) (mem_channelsOf t i) s <;>
    · rw [State.fe_congr (State.putB_afe ..), State.putB, get_put _ _ _ _ _ (by decide) (by decide), hbit]
      simp [*]
  rw [key, State.fe_of_only (State.showBlank_only ..) (by decide)]

/-- A converter that is free takes the waiting urgent request, if any, and keeps its place in the sequence (R79, R82). -/
theorem hkNext_free {s : State} {t : Nat} (h : (s.hk t).run = none) :
    (((s.hkNext t).hk t).run.map fun d => (d.entry, d.input)) = ((s.hk t).urgent.head?.map fun d => (255, d.input)) ∧
      ((s.hkNext t).hk t).lastEnd = (s.hk t).lastEnd ∧ ((s.hkNext t).hk t).entry = (s.hk t).entry ∧
      ((s.hkNext t).hk t).passAt = (s.hk t).passAt := by
  unfold State.hkNext
  rw [h]
  cases hu : (s.hk t).urgent with
  | nil => simp [h]
  | cons u us => simp [State.hk_congr (State.put_dig ..), State.hkPending, State.hkStart]

/-- The conversion of a tile is abandoned at `t`, and the converter goes on (R56). -/
def abandoned (s : State) (t : Tm) (tile : Tile) : State :=
  ((((s.clock t).modHk tile fun h => { h with run := none, lastEnd := s.instant t }).bump P.BLANK_INT_ABANDONED 0).raise
    (96 + 2 * tile)).hkNext tile

variable (s : State) (t : Tm) (tile : Tile)

theorem abandoned_only : Only [.time, .ev, .recd, .dig, .out] [0x01000204, 0x02000107, 0x11000203, 0x11000204] s (s.abandoned t tile) := by
  unfold abandoned
  simp (disch := decide) only [Only.refl_iff, Only.bump_iff, Only.step_iff (State.clock_only _ _), Only.step_iff (State.modHk_only _ _ _),
    Only.step_iff (State.raise_only _ _), Only.step_iff (State.hkNext_only _ _)]

theorem abandoned_next : (((s.abandoned t tile).hk tile).run.map fun d => (d.entry, d.input)) =
      ((s.hk tile).urgent.head?.map fun d => (255, d.input)) ∧
    ((s.abandoned t tile).hk tile).lastEnd = s.instant t ∧ ((s.abandoned t tile).hk tile).entry = (s.hk tile).entry ∧
    ((s.abandoned t tile).hk tile).passAt = (s.hk tile).passAt := by
  have hhk : ((((s.clock t).modHk tile fun h => { h with run := none, lastEnd := s.instant t }).bump P.BLANK_INT_ABANDONED 0).raise
      (96 + 2 * tile)).hk tile = { s.hk tile with run := none, lastEnd := s.instant t } := by
    rw [State.hk_of_only (State.raise_only ..) (by decide), State.hk_congr (State.bump_dig ..), State.modHk_same, State.clock_hk]
  have h := hkNext_free (congrArg HkTile.run hhk)
  rw [hhk] at h
  exact h

theorem abandoned_counts : (s.abandoned t tile).get P.BLANK_INT_ABANDONED 0 =
    satTo P.BLANK_INT_ABANDONED.width (s.get P.BLANK_INT_ABANDONED 0 + 1) := by
  rw [abandoned, State.get_of_only (State.hkNext_only ..) (by decide) _ _ _ (by decide) (by decide),
    State.raise_get _ _ _ _ _ (by decide) (by decide), State.get_bump_same _ _ _ _ (by decide), State.modHk_get, State.clock_get]

theorem abandoned_raises : Raised (96 + 2 * tile) (s.abandoned t tile) := by
  have htile := tile.isLt
  rw [Raised, abandoned, (State.hkNext_only ..).1 .ev (by decide)]
  exact State.raise_raised _ (by omega)

end State

/-- A conversion frozen for longer than BLANK_MAX is abandoned (R56). -/
theorem exec_blankMaxAbandon_long {s : State} {t f : Tm} {tile : Tile} {c : Conv} (hp : s.pwr.por = false)
    (hrun : (s.hk tile).run = some c) (hfrozen : c.frozenAt = some f)
    (hlong : f + s.get P.BLANK_GUARD_BLANK_MAX 0 * usSt < s.instant t) :
    exec (.blankMaxAbandon t tile) s = .next (s.abandoned t tile) := by
  have hlong' : f + (s.clock t).get P.BLANK_GUARD_BLANK_MAX 0 * usSt < (s.clock t).time.now := by
    rw [State.clock_get]; exact hlong
  simp only [exec, execBlankMaxAbandon, live_of hp, State.clock_hk, hrun, hfrozen]
  exact congrArg Host.Outcome.next (if_pos hlong')

/-- Settles O2: each command by the rule of the operation that judges the blank, thaws or abandons. -/
theorem blankingCompletes : Obligations.BlankingCompletes := by
  unfold Obligations.BlankingCompletes
  intro s t hp
  refine ⟨?pin, ?guard, ?resume, ?abandon, ?settle⟩
  case pin =>
    intro pin level
    have hexec : exec (.blankPinEdge t pin level) s = .next ((s.clock t).pinSet pin level).blankAll := by
      simp [exec, execBlankPinEdge, hp]
    obtain ⟨h0, h1⟩ := State.blankAll_pins ((s.clock t).pinSet pin level)
    refine ⟨_, hexec, ?_, ?_, fun tile => State.blankAll_pinBlanked _ pin tile⟩
    · rw [h0, h1]
      unfold State.pinSet
      split <;> rfl
    · rw [h0, h1]
      unfold State.pinSet
      split <;> rfl
  case guard =>
    intro tile g hguard hdue
    refine acts_of_live hp (Eq.refl (execBlankGuardExpire t tile s)) ?_
    rw [State.clock_fe, hguard]
    dsimp only
    rw [if_pos (show g ≤ (s.clock t).time.now from hdue)]
    have hfe (j : Nat) (v : State) : ((v.showBlank tile).thaw tile g).fe j = v.fe j := by
      rw [State.fe_of_only (State.thaw_only ..) (by decide), State.fe_of_only (State.showBlank_only ..) (by decide)]
    refine ⟨by rw [hfe, State.modFe_same], by rw [hfe, State.modFe_same], fun i => ?_, fun j hj => ?_⟩
    · rw [State.flag_of_only (State.thaw_only ..) (by decide) _ _ _ (by decide) (by decide), State.flag, State.showBlank_shows,
        State.modFe_same]
      rfl
    · rw [hfe, State.modFe_ne _ hj, State.clock_fe]
  case resume =>
    intro tile c hrun hblank hfrozen hseg
    refine acts_of_live hp (Eq.refl (execConversionResume t tile s)) ?_
    have hseg' : decide (c.seg ≤ (s.clock t).time.now) = true := decide_eq_true hseg
    rw [State.clock_hk, hrun, State.clock_fe, hblank]
    dsimp only
    rw [Option.isSome_iff_ne_none.2 hfrozen, hseg', if_pos (by decide)]
    exact ⟨by rw [State.modHk_same]; rfl, fun j hj => State.modHk_ne _ hj _⟩
  case abandon =>
    intro tile c f hrun hfrozen hlong
    obtain ⟨hnext, hend, -, -⟩ := s.abandoned_next t tile
    refine ⟨_, exec_blankMaxAbandon_long hp hrun hfrozen hlong, hend, hnext, s.abandoned_counts t tile, s.abandoned_raises t tile⟩
  case settle =>
    intro tile hopen hdue
    refine acts_of_live hp (Eq.refl (execSettleWindowExpire t tile s)) ?_
    have hdue' : decide (((s.clock t).fe tile).settleUntil ≤ (s.clock t).time.now) = true := decide_eq_true hdue
    dsimp only
    rw [hdue', State.clock_fe, hopen, if_pos (by decide)]
    exact ⟨by rw [State.modFe_same, State.clock_fe], fun j hj => by rw [State.modFe_ne _ hj, State.clock_fe]⟩

/-- Settles O52: a conversion frozen for too long ends without a result; one frozen for no longer stays. -/
theorem frozenConversionIsAbandoned : Obligations.FrozenConversionIsAbandoned := by
  unfold Obligations.FrozenConversionIsAbandoned
  intro s t hp
  refine ⟨fun tile c f hrun hfrozen hlong => ?_, fun tile c f hrun hfrozen hshort => ?_⟩
  · obtain ⟨hnext, -, hentry, hpass⟩ := s.abandoned_next t tile
    refine ⟨_, exec_blankMaxAbandon_long hp hrun hfrozen hlong, by decide, hnext, fun j i => ?_, fun ch => ?_, ?_, hentry, hpass,
      s.abandoned_counts t tile, s.abandoned_raises t tile⟩
    · have hi := i.isLt
      refine State.get_of_only (s.abandoned_only t tile) (by decide) _ _ _ ?_ ?_ <;> simp [P.HK_RESULT_RESULT] <;> omega
    · exact State.get_of_only (s.abandoned_only t tile) (by decide) _ _ _ (by decide) (by decide)
    · rw [(s.abandoned_only t tile).1 .ctx (by decide)]
  · refine acts_of_live hp (Eq.refl (execBlankMaxAbandon t tile s)) ?_
    dsimp only
    rw [State.clock_hk, hrun]
    dsimp only
    rw [hfrozen]
    dsimp only
    rw [State.clock_get]
    exact if_neg (Nat.not_lt.2 hshort)

end Sys2Proof.Machine

namespace Sys2Proof.Machine

open Sys2Proof

/-! ### What is sent out stays sent (log entry 5) -/

/-- What stands above all that had been sent out before was sent out since. -/
theorem emits_of_suffix {o : Out} {l : List Out} {s u : State} (h : o :: l <:+ u.out) (hl : s.out <:+ l) : Emits o s u := by
  obtain ⟨front, hfront⟩ := h
  have hlen := hl.length_le
  refine List.mem_take_iff_getElem.2 ⟨front.length, ?_, ?_⟩
  · simp [← hfront]; omega
  · simp [← hfront]

namespace State

section Sent

variable {l : List Out} {s : State} (h : l <:+ s.out)
include h

theorem out_of_only {ps : List Part} {rs : List Nat} {u : State} (ho : Only ps rs s u) (hp : Part.out ∉ ps) : l <:+ u.out := by
  rw [ho.1 .out hp]; exact h

theorem emit_sent (o : Out) : l <:+ (s.emit o).out := h.trans (List.suffix_cons ..)

theorem msixDue_sent (v : Nat) : l <:+ (s.msixDue v).out := by
  unfold State.msixDue
  split
  · exact emit_sent h _
  · exact h

theorem latch_sent (n : Nat) : l <:+ (s.latch n).out := by
  unfold State.latch State.latchHost
  dsimp only
  split
  · exact msixDue_sent (by exact h) _
  · exact h

theorem recRaises_sent (ns : List Nat) : l <:+ (s.recRaises ns).out := by
  induction ns generalizing s with
  | nil => exact h
  | cons n ns ih =>
    unfold State.recRaises
    refine ih ?_
    split
    · exact out_of_only (latch_sent h n) (State.occur_only ..) (by decide)
    · exact latch_sent h n

/-- A raised source may send a message, and takes nothing back (R368). -/
theorem raise_sent (n : Nat) : l <:+ (s.raise n).out := by
  unfold State.raise
  dsimp only
  split
  · exact recRaises_sent (out_of_only (latch_sent h n) (State.occur_only ..) (by decide)) _
  · exact latch_sent h n

theorem hvDrive_sent (before : Nat) (t : Tile) : l <:+ (s.hvDrive before t).out := by
  unfold State.hvDrive
  split
  · exact h
  · exact emit_sent h _

end Sent

/-! ### Trims and the settle window (R43, R148) -/

/-- A change of the trims opens the settle window up to SETTLE after it (R148). -/
theorem settleAt_fe (s : State) (t : Nat) (at_ : Tm) (n : Nat) : (s.settleAt t at_ n).fe t =
    { s.fe t with settleOpen := true, settleUntil := at_ + s.get P.SETTLE_US t * usSt, trimAt := some at_ } := by
  unfold State.settleAt
  dsimp only
  split
  · exact State.modFe_same ..
  · split
    · split
      · rw [State.fe_congr (State.bump_afe ..), State.fe_congr (State.modHk_afe ..), State.modFe_same]
      · exact State.modFe_same ..
    · exact State.modFe_same ..

/-- The trims of a tile as its channels take them; whether the window opens is the rest of `State.applyTrims` (R43). -/
theorem applied_afe (s : State) (t : Nat) : (s.each (channelsOf t) fun s c =>
    (s.put P.TRIM_NOW_CODE c (s.trimCode c)).putB P.CH_STATUS_TRIM_CLAMPED c (s.trimSum c < 0 || 4095 < s.trimSum c)).afe = s.afe :=
  State.each_keeps (Q := fun u => u.afe = s.afe) (fun u c h => by rw [State.putB_afe, State.put_afe, h]) _ rfl

/-- The trims act on nothing of a tile but its settle window (R43, R148). -/
theorem applyTrims_fe (s : State) (t : Nat) : ∃ o e a, (s.applyTrims t).fe t =
      { s.fe t with settleOpen := o, settleUntil := e, trimAt := a } ∧
    ((s.fe t).rampFrom = none → ((channelsOf t).any fun c => s.trimCode c != s.get P.TRIM_NOW_CODE c) = true → o = true) := by
  unfold State.applyTrims
  dsimp only
  split
  · next h => exact ⟨_, _, _, rfl, fun hn => absurd h (by simp [hn])⟩
  · split
    · refine ⟨true, ?_, ?_, ?_, fun _ _ => rfl⟩
      rotate_left 2
      · rw [State.settle, settleAt_fe, State.fe_congr (applied_afe s t)]
    · next hc => exact ⟨_, _, _, State.fe_congr (applied_afe s t) t, fun _ h => absurd h hc⟩

/-- Bringing a ramp up to now leaves the trip ramps of every tile, and so the codes they give (R58). -/
theorem rampTo_ramp (s : State) (t j : Nat) :
    ((s.rampTo t).fe j).rampFrom = (s.fe j).rampFrom ∧ ((s.rampTo t).fe j).rampCodes = (s.fe j).rampCodes := by
  unfold State.rampTo
  dsimp only
  split
  · split
    · by_cases hj : j = t
      · rw [hj, settleAt_fe, State.modFe_same]
        exact ⟨rfl, rfl⟩
      · rw [(TileAlone.settleAt ..).2 j hj, State.modFe_ne _ hj]
        exact ⟨rfl, rfl⟩
    · exact ⟨rfl, rfl⟩
  · exact ⟨rfl, rfl⟩

theorem rampTo_trimNow (s : State) (t c : Nat) : (s.rampTo t).trimNow c = s.trimNow c := by
  unfold State.trimNow
  rw [(s.rampTo_ramp t (c / 16)).1, (s.rampTo_ramp t (c / 16)).2, (s.rampTo_only t).1 .time (by decide),
    State.get_of_only (s.rampTo_only t) (by decide) _ _ _ (by decide) (by decide)]

/-- The last steps of a ramp open the settle window (R58, R148). -/
theorem rampTo_settles {s : State} {t : Nat} {f : Tm} (hf : (s.fe t).rampFrom = some f)
    (hn : (s.fe t).rampSeen < (s.fe t).rampSteps s.time.now) :
    ((s.rampTo t).fe t).settleOpen = true ∧ ((s.rampTo t).fe t).settleUntil =
      f + ceilDiv ((s.fe t).rampSteps s.time.now * usSt) 256 + s.get P.SETTLE_US t * usSt := by
  unfold State.rampTo
  dsimp only
  rw [hf]
  dsimp only
  rw [if_pos hn, settleAt_fe, State.modFe_get]
  exact ⟨rfl, rfl⟩

/-! ### The over-light trip (R57 to R60, R145) -/

/-- What the comparator and the half-limit watch make of a tile's sum (R57, R59). -/
theorem sumEval_judges (s : State) (t : Nat) : ((s.sumEval t).fe t).sum = (s.fe t).sum ∧
    (((s.sumEval t).fe t).filterFrom = none ↔ (s.fe t).sum ≤ s.tripLimit t) ∧
    ((s.fe t).filterFrom = none → s.tripLimit t < (s.fe t).sum → ((s.sumEval t).fe t).filterFrom = some s.time.now) ∧
    (((s.sumEval t).fe t).halfFrom = none ↔ s.tripLimit t ≤ 2 * (s.fe t).sum) := by
  unfold State.sumEval
  dsimp only
  rw [State.modFe_same]
  refine ⟨rfl, ?_, fun hn hlt => ?_, ?_⟩
  · by_cases h : s.tripLimit t < (s.fe t).sum
    · cases (s.fe t).filterFrom <;> simp [h]
    · simp [h, Nat.not_lt.1 h]
  · simp [hn, hlt]
  · by_cases h : 2 * (s.fe t).sum < s.tripLimit t
    · cases (s.fe t).halfFrom <;> simp [h]
    · simp [h, Nat.not_lt.1 h]

/-- A tripped tile's visit is dropped (R61). -/
theorem visitDrop_fe (s : State) (t : Nat) : (s.visitDrop t).fe t = { s.fe t with visit := none } := by
  unfold State.visitDrop
  split
  · rw [State.fe_of_only (State.maintEnd_only ..) (by decide), State.modFe_same]
  · next h => rw [← h]

/-- The latch itself: TRIPPED, the count and the start of the ramp (R58). -/
def latchTrip (s : State) (t : Nat) : State :=
  ((s.putB P.TRIP_STATUS_TRIPPED t true).bump P.TRIP_STATUS_TRIP_COUNT t).modFe t fun f =>
    { f with rampFrom := some s.time.now, rampCodes := (channelsOf t).map s.trimNow, rampSeen := 0, common := -4096, overlightN := false }

/-- What a trip does once it is latched and its line pulled (R45, R58, R61, R145). -/
def afterLatch (s : State) (before : Nat) (t : Tile) : State := (((s.loopTrip t).hvDrive before t).visitDrop t).raise (97 + 2 * t)

theorem trip_eq (s : State) (t : Tile) :
    s.trip t = ((s.latchTrip t).drive (.overlightN t) false).afterLatch (s.hvOut t) t := rfl

section AfterLatch

variable (s : State) (before : Nat) (t : Tile)

theorem afterLatch_only : Only [.time, .ev, .recd, .afe, .loop, .core, .out]
    [0x01000101, 0x05000101, 0x05000110, 0x05000113, 0x05000114, 0x0F000102, 0x0F000103, 0x11000203, 0x11000204]
    s (s.afterLatch before t) := by
  unfold afterLatch
  simp (disch := decide) only [Only.refl_iff, Only.step_iff (State.loopTrip_only _ _), Only.step_iff (State.hvDrive_only _ _ _),
    Only.step_iff (State.visitDrop_only _ _), Only.step_iff (State.raise_only _ _)]

theorem afterLatch_fe : (s.afterLatch before t).fe t = { s.fe t with visit := none } := by
  unfold afterLatch
  rw [State.fe_of_only (State.raise_only ..) (by decide), visitDrop_fe, State.fe_of_only (State.hvDrive_only ..) (by decide),
    State.fe_of_only (State.loopTrip_only ..) (by decide)]

/-- The loop's output is held at zero bias (R145). -/
theorem afterLatch_loop : (s.afterLatch before t).flag P.LOOP_STATUS_TRIP_HELD t = true ∧
    (s.afterLatch before t).get P.LOOP_OUT_DUTY t = 0 ∧ ((s.afterLatch before t).lp t).u = -4096 * 256 := by
  have hget (f : Fld) (hf : f.pid / 4096 % 4096 = 0 ∧ f.pid % 4096 + 0 < 4096)
      (hr : f.pid + 0 ∉ [0x0F000102, 0x0F000103, 0x11000203, 0x11000204]) :
      (s.afterLatch before t).get f t = (s.loopTrip t).get f t := by
    have h : Only [.ev, .recd, .afe, .core, .out] [0x0F000102, 0x0F000103, 0x11000203, 0x11000204] (s.loopTrip t)
        (s.afterLatch before t) := by
      unfold afterLatch
      simp (disch := decide) only [Only.refl_iff, Only.step_iff (State.hvDrive_only _ _ _), Only.step_iff (State.visitDrop_only _ _),
        Only.step_iff (State.raise_only _ _)]
    exact State.get_of_only h (by decide) f t 0 hf hr
  refine ⟨?_, ?_, ?_⟩
  · rw [State.flag, hget _ (by decide) (by decide), State.loopTrip]
    rw [State.modLp_get, State.get_put_par _ _ _ _ _ _ _ _ (by decide) (by decide) (by decide),
      State.get_put_par _ _ _ _ _ _ _ _ (by decide) (by decide) (by decide)]
    exact State.flag_putB_same _ _ _ _ (by decide)
  · rw [hget _ (by decide) (by decide), State.loopTrip]
    rw [State.modLp_get, State.get_put_same _ _ _ _ _ (by decide)]
    rfl
  · unfold afterLatch
    rw [State.lp_of_only (State.raise_only ..) (by decide), State.lp_of_only (State.visitDrop_only ..) (by decide),
      State.lp_of_only (State.hvDrive_only ..) (by decide), State.loopTrip, State.modLp_same]

theorem afterLatch_sent {l : List Out} (h : l <:+ s.out) : l <:+ (s.afterLatch before t).out :=
  raise_sent (out_of_only (hvDrive_sent (out_of_only h (State.loopTrip_only ..) (by decide)) ..) (State.visitDrop_only ..) (by decide)) _

theorem afterLatch_raises : Raised (97 + 2 * t) (s.afterLatch before t) := State.raise_raised _ (by have := t.isLt; omega)

end AfterLatch

section Trip

variable (s : State) (t : Tile)

/-- What a trip leaves of its tile's front end (R58, R61). -/
theorem trip_fe : (s.trip t).fe t =
    { s.fe t with
      rampFrom := some s.time.now, rampCodes := (channelsOf t).map s.trimNow, rampSeen := 0, common := -4096, overlightN := false,
      visit := none } := by
  rw [trip_eq, afterLatch_fe, State.fe_congr (State.drive_afe ..), latchTrip, State.modFe_same, State.fe_congr (State.bump_afe ..),
    State.fe_congr (State.putB_afe ..)]

/-- TRIPPED is set and the trip is counted (R58). -/
theorem trip_status : (s.trip t).tripped t = true ∧
    (s.trip t).get P.TRIP_STATUS_TRIP_COUNT t = satTo P.TRIP_STATUS_TRIP_COUNT.width (s.get P.TRIP_STATUS_TRIP_COUNT t + 1) := by
  rw [trip_eq]
  constructor
  · rw [State.tripped, State.flag_of_only (afterLatch_only ..) (by decide) _ _ _ (by decide) (by decide), State.flag, State.drive_get,
      latchTrip, State.modFe_get, State.bump]
    simp (disch := decide) only [State.get_put_apart]
    exact State.flag_putB_same _ _ _ _ (by decide)
  · rw [State.get_of_only (afterLatch_only ..) (by decide) _ _ _ (by decide) (by decide), State.drive_get, latchTrip, State.modFe_get,
      State.get_bump_same _ _ _ _ (by decide), State.putB]
    simp (disch := decide) only [State.get_put_apart]

theorem trip_emits : Emits (.pin (.overlightN t) false) s (s.trip t) := by
  rw [trip_eq]
  refine emits_of_suffix (afterLatch_sent _ _ t List.suffix_rfl) ?_
  rw [latchTrip, State.modFe_out, State.bump_out, State.putB_out]

end Trip

/-- A cleared trip, before the trims follow (R59, R145). -/
def tripFreed (s : State) (t : Tile) : State :=
  (((s.putB P.TRIP_STATUS_TRIPPED t false).putB P.LOOP_STATUS_TRIP_HELD t false).modFe t fun f => { f with overlightN := true }).drive
    (.overlightN t) true

theorem tripClear_eq (s : State) (t : Tile) : s.tripClear t = (s.tripFreed t).applyTrims t := rfl

section Cleared

variable (s : State) (t : Tile)

theorem tripFreed_fe : (s.tripFreed t).fe t = { s.fe t with overlightN := true } := by
  rw [tripFreed, State.fe_congr (State.drive_afe ..), State.modFe_same, State.fe_congr (State.putB_afe ..),
    State.fe_congr (State.putB_afe ..)]

/-- The clear itself changes no trim (R43). -/
theorem tripFreed_trims (c : Nat) : (s.tripFreed t).trimCode c = s.trimCode c ∧
    (s.tripFreed t).get P.TRIM_NOW_CODE c = s.get P.TRIM_NOW_CODE c := by
  have honly : Only [.afe, .out] [0x01000105, 0x05000113] s (s.tripFreed t) := by
    unfold tripFreed
    simp (disch := decide) only [Only.refl_iff, Only.putB_iff, Only.step_iff (State.modFe_only _ _ _),
      Only.step_iff (State.drive_only _ _ _)]
  have hcommon (j : Nat) : ((s.tripFreed t).fe j).common = (s.fe j).common := by
    by_cases hj : j = t
    · rw [hj, tripFreed_fe]
    · rw [tripFreed, State.fe_congr (State.drive_afe ..), State.modFe_ne _ hj, State.fe_congr (State.putB_afe ..),
        State.fe_congr (State.putB_afe ..)]
  have hget (f : Fld) (hf : f.pid / 4096 % 4096 = 0 ∧ f.pid % 4096 + 0 < 4096) (hr : f.pid + 0 ∉ [0x01000105, 0x05000113]) :
      (s.tripFreed t).get f c = s.get f c := State.get_of_only honly (by decide) f c 0 hf hr
  refine ⟨?_, hget _ (by decide) (by decide)⟩
  rw [State.trimCode, State.trimCode, State.scanHold, State.scanHold, honly.1 .pwr (by decide), State.trimSum, State.trimSum, hcommon,
    hget _ (by decide) (by decide)]

theorem tripFreed_flags : (s.tripFreed t).flag P.TRIP_STATUS_TRIPPED t = false ∧
    (s.tripFreed t).flag P.LOOP_STATUS_TRIP_HELD t = false := by
  constructor
  · rw [State.flag, tripFreed, State.drive_get, State.modFe_get, State.putB,
      State.get_put_par _ _ _ _ _ _ _ _ (by decide) (by decide) (by decide)]
    exact State.flag_putB_same _ _ _ _ (by decide)
  · rw [State.flag, tripFreed, State.drive_get, State.modFe_get]
    exact State.flag_putB_same _ _ _ _ (by decide)

end Cleared

/-- A ramp that is over: every trim code of the tile is at 0 (R58). -/
def rampOver (s : State) (t : Nat) : State :=
  (s.modFe t fun f => { f with rampFrom := none, rampCodes := [] }).each (channelsOf t) fun s c =>
    (s.put P.TRIM_NOW_CODE c 0).putB P.CH_STATUS_TRIM_CLAMPED c (s.trimSum c < 0)

theorem rampOver_done (s : State) (t : Nat) : (s.rampOver t).fe t = { s.fe t with rampFrom := none, rampCodes := [] } ∧
    ∀ i : Fin 16, (s.rampOver t).get P.TRIM_NOW_CODE (16 * t + i.val) = 0 := by
  constructor
  · refine State.each_keeps (Q := fun u => u.fe t = { s.fe t with rampFrom := none, rampCodes := [] }) (fun u c h => ?_) _
      (State.modFe_same ..)
    rw [State.fe_congr (State.putB_afe ..), State.fe_congr (State.put_afe ..), h]
  · intro i
    refine State.each_reaches (Q := fun u => u.get P.TRIM_NOW_CODE (16 * t + i.val) = 0) (fun u => ?_) (fun u j h => ?_)
      (mem_channelsOf t i) _ <;>
    · rw [State.putB, State.get_put_par _ _ _ _ _ _ _ _ (by decide) (by decide) (by decide), get_put _ _ _ _ _ (by decide) (by decide)]
      simp [*]

end State

/-- Settles O3: the comparator's judgement, the trip, its ramp, its clear and a new limit, each by the rule of its operation. -/
theorem overlightTripCompletes : Obligations.OverlightTripCompletes := by
  unfold Obligations.OverlightTripCompletes
  intro s t hp
  refine ⟨?cross, ?trip, ?ramp, ?clear, ?refused, ?limit, ?above⟩
  case cross =>
    intro tile sum
    refine acts_of_live hp (Eq.refl (execTileCurrentCross t tile sum s)) ?_
    have h := State.sumEval_judges ((s.clock t).modFe tile fun f => { f with sum := sum }) tile
    rw [State.modFe_same, State.tripLimit, State.modFe_get, State.modFe_get, State.clock_get, State.clock_get] at h
    exact h
  case trip =>
    intro tile f hfilter hrun htrip
    have hdue : (decide (f + glitchMin ≤ (s.clock t).time.now) && !(s.clock t).tripped tile) = true := by
      rw [State.clock_tripped, htrip]
      exact Bool.and_eq_true_iff.2 ⟨decide_eq_true hrun, rfl⟩
    have hexec : exec (.glitchFilterExpire t tile) s = .next ((s.clock t).trip tile) := by
      simp only [exec, execGlitchFilterExpire, live_of hp, State.clock_fe, hfilter]
      exact congrArg Host.Outcome.next (if_pos hdue)
    obtain ⟨htripped, hcount⟩ := (s.clock t).trip_status tile
    have hfe := (s.clock t).trip_fe tile
    obtain ⟨hheld, hduty, hu⟩ := State.afterLatch_loop (((s.clock t).latchTrip tile).drive (.overlightN tile) false)
      ((s.clock t).hvOut tile) tile
    rw [State.clock_get] at hcount
    exact ⟨_, hexec, htripped, hcount, by rw [hfe], by rw [hfe]; rfl, by rw [hfe], by rw [hfe], by rw [hfe], hheld, hduty, hu,
      State.afterLatch_raises _ _ tile, (s.clock t).trip_emits tile⟩
  case ramp =>
    intro tile f hramp hzero
    have hramp' : (((s.clock t).rampTo tile).fe tile).rampFrom = some f := by
      rw [((s.clock t).rampTo_ramp tile tile).1, State.clock_fe, hramp]
    have hzero' : ((channelsOf tile).all fun c => ((s.clock t).rampTo tile).trimNow c == 0) = true := by
      simp only [State.rampTo_trimNow, hzero]
    have hexec : exec (.tripRampDone t tile) s = .next (((s.clock t).rampTo tile).rampOver tile) := by
      simp only [exec, execTripRampDone, live_of hp, hramp', hzero', Option.isSome_some, Bool.and_self, if_true]
      rfl
    obtain ⟨hfe, hcode⟩ := ((s.clock t).rampTo tile).rampOver_done tile
    refine ⟨_, hexec, by rw [hfe], hcode, fun hseen => ?_⟩
    have h := State.rampTo_settles (s := s.clock t) hramp hseen
    rw [State.clock_get] at h
    rw [hfe]
    exact h
  case clear =>
    intro tile htrip hclear
    have hexec : exec (.tripClear t tile) s = .next ((s.clock t).tripClear tile) := by
      simp only [exec, execTripClear, live_of hp, State.clock_tripped, htrip, hclear, Bool.and_self, if_true]
    obtain ⟨o, e, a, hfe, hopen⟩ := ((s.clock t).tripFreed tile).applyTrims_fe tile
    rw [State.tripFreed_fe] at hfe hopen
    have hflags := (s.clock t).tripFreed_flags tile
    refine ⟨_, hexec, ?_, ?_, ?_, fun hnone hany => ?_, ?_⟩
    · rw [State.tripClear_eq, State.tripped, State.flag_of_only (State.applyTrims_only ..) (by decide) _ _ _ (by decide) (by decide)]
      exact hflags.1
    · rw [State.tripClear_eq, State.flag_of_only (State.applyTrims_only ..) (by decide) _ _ _ (by decide) (by decide)]
      exact hflags.2
    · rw [State.tripClear_eq, hfe]
    · rw [State.tripClear_eq, hfe]
      refine hopen hnone ?_
      simp only [State.tripFreed_trims]
      simp only [State.clock_get]
      exact hany
    · rw [State.tripClear_eq, Emits, (State.applyTrims_only ..).1 .out (by decide)]
      exact emits_of_suffix (u := (s.clock t).tripFreed tile) List.suffix_rfl (by simp)
  case refused =>
    intro tile htrip hclear
    refine ⟨_, ?_, rfl⟩
    simp only [exec, execTripClear, live_of hp, State.clock_tripped, htrip, hclear, Bool.and_false, Bool.false_eq_true, if_false]
  case limit =>
    intro tile limit hlimit
    refine acts_of_live hp (Eq.refl (execTripLimitWrite t tile limit s)) ?_
    rw [State.clock_get, if_neg (Nat.not_lt.2 hlimit)]
    have hnew : ((s.clock t).put P.TRIP_LIMIT_LIMIT tile limit.toNat).get P.TRIP_LIMIT_LIMIT tile = limit.toNat :=
      State.get_put_fits _ _ _ (by decide) limit.isLt
    have hlim : ((s.clock t).put P.TRIP_LIMIT_LIMIT tile limit.toNat).tripLimit tile = limit.toNat := by
      rw [State.tripLimit, hnew, State.get_put_par _ _ _ _ _ _ _ _ (by decide) (by decide) (by decide), State.clock_get,
        Nat.min_eq_left hlimit]
    have hget (v : State) (f : Fld) : (v.sumEval tile).get f tile = v.get f tile := State.modFe_get ..
    obtain ⟨-, hjudge, -, -⟩ := State.sumEval_judges ((s.clock t).put P.TRIP_LIMIT_LIMIT tile limit.toNat) tile
    refine ⟨by rw [hget, hnew], ?_, ?_⟩
    · rw [State.tripLimit, hget, hget]
      exact hlim
    · rw [hjudge, hlim, State.fe_congr (State.put_afe ..), State.clock_fe]
  case above =>
    intro tile limit hlimit
    refine acts_of_live hp (Eq.refl (execTripLimitWrite t tile limit s)) ?_
    exact if_pos (by rw [State.clock_get]; exact hlimit)

end Sys2Proof.Machine

namespace Sys2Proof.Machine

open Sys2Proof

/-! ### Edges, hits and hit blocks (R86 to R99) -/

namespace State

@[simp] theorem modTd_pair (s : State) (c n : Nat) (f : TdcCh → TdcCh) : (s.modTd c f).pair n = s.pair n := rfl
@[simp] theorem modTd_gauge (s : State) (c g : Nat) (f : TdcCh → TdcCh) : (s.modTd c f).gauge g = s.gauge g := rfl
@[simp] theorem modPair_td (s : State) (n c : Nat) (f : Pair → Pair) : (s.modPair n f).td c = s.td c := rfl
@[simp] theorem modPair_gauge (s : State) (n g : Nat) (f : Pair → Pair) : (s.modPair n f).gauge g = s.gauge g := rfl
@[simp] theorem modGauge_td (s : State) (g c : Nat) (f : Gauge → Gauge) : (s.modGauge g f).td c = s.td c := rfl
@[simp] theorem modGauge_pair (s : State) (g n : Nat) (f : Gauge → Gauge) : (s.modGauge g f).pair n = s.pair n := rfl
@[simp] theorem clock_td (s : State) (t : Tm) (c : Nat) : (s.clock t).td c = s.td c := rfl
@[simp] theorem clock_pair (s : State) (t : Tm) (n : Nat) : (s.clock t).pair n = s.pair n := rfl

/-- What every step of a list that touches one of its members keeps, working through it keeps. -/
theorem each_keeps_mem {Q : State → Prop} {f : State → Nat → State} (l : List Nat) (hf : ∀ s, ∀ j ∈ l, Q s → Q (f s j)) {s : State}
    (h : Q s) : Q (s.each l f) := by
  induction l generalizing s with
  | nil => exact h
  | cons j l ih => exact ih (fun s k hk => hf s k (List.mem_cons_of_mem _ hk)) (hf s j List.mem_cons_self h)

/-- Working through a list without repetitions brings each member from `P`, which the others keep, to `Q`. -/
theorem each_once {P Q : State → Prop} {f : State → Nat → State} {k : Nat} (hP : ∀ s j, j ≠ k → P s → P (f s j))
    (hk : ∀ s, P s → Q (f s k)) (hQ : ∀ s j, j ≠ k → Q s → Q (f s j)) {l : List Nat} (hl : l.Nodup) (hm : k ∈ l) {s : State}
    (h : P s) : Q (s.each l f) := by
  induction l generalizing s with
  | nil => cases hm
  | cons j l ih =>
    obtain ⟨hj, hl⟩ := List.nodup_cons.1 hl
    by_cases hjk : j = k
    · subst hjk
      exact each_keeps_mem l (fun s i hi => hQ s i fun h => hj (h ▸ hi)) (hk s h)
    · exact ih hl ((List.mem_cons.1 hm).resolve_left (Ne.symm hjk)) (hP s j hjk h)

end State

/-- From `s` to `u` the time measurement of every channel but `c`, every interpolator pair and every channel's front end stay. -/
def ChannelAlone (c : Nat) (s u : State) : Prop :=
  (∀ j, j ≠ c → u.td j = s.td j) ∧ (∀ n, u.pair n = s.pair n) ∧ ∀ j, u.feCh j = s.feCh j

namespace ChannelAlone

variable {c : Nat} {s u v : State}

theorem of_same (h : u.tdc = s.tdc) (k : u.afe = s.afe) : ChannelAlone c s u :=
  ⟨fun j _ => State.td_congr h j, State.pair_congr h, State.feCh_congr k⟩

theorem of_only {ps : List Part} {rs : List Nat} (h : Only ps rs s u) (ht : Part.tdc ∉ ps) (ha : Part.afe ∉ ps) : ChannelAlone c s u :=
  of_same (h.1 .tdc ht) (h.1 .afe ha)

theorem trans (h : ChannelAlone c s u) (k : ChannelAlone c u v) : ChannelAlone c s v :=
  ⟨fun j hj => (k.1 j hj).trans (h.1 j hj), fun n => (k.2.1 n).trans (h.2.1 n), fun j => (k.2.2 j).trans (h.2.2 j)⟩

theorem modTd (s : State) (c : Nat) (f : TdcCh → TdcCh) : ChannelAlone c s (s.modTd c f) :=
  ⟨fun _ hj => State.modTd_ne s hj f, fun _ => rfl, fun _ => rfl⟩

theorem modGauge (s : State) (g : Nat) (f : Gauge → Gauge) : ChannelAlone c s (s.modGauge g f) := ⟨fun _ _ => rfl, fun _ => rfl, fun _ => rfl⟩

theorem blockOpen (s : State) (c : Nat) (start : Stamp) (stop head : Tm) (cont deck : Bool) :
    ChannelAlone c s (s.blockOpen c start stop head cont deck) :=
  (of_only (State.takeSeq_only s 0x01) (by decide) (by decide)).trans (modTd ..)

theorem blockFor (s : State) (c : Nat) (at_ : Stamp) : ChannelAlone c s (s.blockFor c at_).1 := by
  unfold State.blockFor
  split
  · exact of_same rfl rfl
  · split
    · exact modTd ..
    · exact (blockOpen ..).trans (modTd ..)

end ChannelAlone

namespace State

/-- A stamp depends on the time base alone (R69). -/
theorem stampAt_congr {s u : State} (h : u.time = s.time) (x : Int) : u.stampAt x = s.stampAt x := by
  have hpos (n : Nat) : u.countPos n = s.countPos n := by rw [State.countPos, State.countPos, h]
  have hin (l : List (Stamp × Nat)) : u.stampIn x l = s.stampIn x l := by
    induction l with
    | nil => simp only [State.stampIn, h]
    | cons a r ih => cases r <;> simp only [State.stampIn, hpos, ih]
  rw [State.stampAt, State.stampAt, hin, h]

/-- The block that a hit is given takes nothing of the channel's open hits (R99). -/
theorem blockFor_open (s : State) (c : Nat) (at_ : Stamp) : ((s.blockFor c at_).1.td c).open_ = (s.td c).open_ := by
  have htake (n : Nat) : (s.takeSeq n).td c = s.td c := State.td_of_only (State.takeSeq_only s n) (by decide) c
  unfold State.blockFor State.blockOpen
  split
  · rfl
  · split
    · rw [State.modTd_same]
    · rw [State.modTd_same, State.modTd_same, htake]
      rfl

/-- The instant of the pin that a new hit's stamp refers to (R89). -/
def hitPin (s : State) (c : Nat) (stamp : Option Tm) : Int := (stamp.getD (edge1 s.time.now - 512) : Int) - s.hitOffset c

/-- The hit that a leading edge opens (R86, R88, R89). -/
def newHit (s : State) (c : Nat) (stamp : Option Tm) : HitSt := {
  raw := stamp.getD (edge1 s.time.now - 512), ready := edge2 s.time.now + 12 * ccSt, lead := edge1 s.time.now,
  at_ := s.stampAt (s.hitPin c stamp), block := (s.blockFor c (s.stampAt (s.hitPin c stamp))).2.getD 0,
  noBlock := (s.blockFor c (s.stampAt (s.hitPin c stamp))).2.isNone, trail := none, tot := 0, merged := false,
  coarse := !stamp.isSome, totSat := false, deckPeak := s.get P.DECK_CH_CFG_DECK_PEAK c,
  snip := (Regs.word s.regs P.DECK_CH_CFG_SNIP_PEAK c).toNat, cond := s.condAt c (s.stampAt (s.hitPin c stamp)) }

/-- What a new hit does to its channel (R88, R107). -/
def openHit (s : State) (c : Nat) (stamp : Option Tm) (x : TdcCh) : TdcCh := { x with
  last := some s.time.now, open_ := x.open_ ++ [s.newHit c stamp], rate := x.rate + 1,
  judged := if (s.newHit c stamp).cond.kind = 1 ∨ (s.newHit c stamp).cond.kind = 2 ∨ (s.newHit c stamp).cond.kind = 3
    then x.judged ++ [{ CondHit.reset with hit := s.newHit c stamp }] else x.judged,
  edges := ((s.hitPin c stamp).toNat, !stamp.isSome) :: x.edges.filter fun e => decide (s.time.now < e.1 + 2048 * ccSt) }

/-- A hit without an interpolator counts as coarse (R88). -/
def hitBlocked (s : State) (c : Nat) (stamp : Option Tm) : State :=
  if stamp.isSome then (s.blockFor c (s.stampAt (s.hitPin c stamp))).1
  else (s.blockFor c (s.stampAt (s.hitPin c stamp))).1.bump P.TDC_CNT_COARSE c

/-- A new hit counts in the gauges that measure its channel (R101). -/
def gaugeHits (s : State) (c : Nat) (at_ : Stamp) : State := s.each (upTo 8) fun s g =>
  if (s.gauge g).start.isSome && (s.gauge g).input == 0x10 && (s.gauge g).unit == c
  then s.modGauge g fun x => x.edgeAt at_.tb true else s

theorem hitNew_eq (s : State) (c : Nat) (stamp : Option Tm) : s.hitNew c stamp =
    (((s.hitBlocked c stamp).modTd c (s.openHit c stamp)).hitCount c).gaugeHits c (s.stampAt (s.hitPin c stamp)) := rfl

theorem gaugeHits_keeps (s : State) (c : Nat) (at_ : Stamp) : (∀ j, (s.gaugeHits c at_).td j = s.td j) ∧
    ChannelAlone c s (s.gaugeHits c at_) ∧ ∀ f i, (s.gaugeHits c at_).get f i = s.get f i := by
  refine State.each_keeps (Q := fun u => (∀ j, u.td j = s.td j) ∧ ChannelAlone c s u ∧ ∀ f i, u.get f i = s.get f i) (fun u g h => ?_) _
    ⟨fun _ => rfl, ChannelAlone.of_same rfl rfl, fun _ _ => rfl⟩
  split
  · exact ⟨fun j => (State.modGauge_td ..).trans (h.1 j), h.2.1.trans (ChannelAlone.modGauge ..), fun f i => by
      rw [State.modGauge_get, h.2.2]⟩
  · exact h

theorem hitBlocked_alone (s : State) (c : Nat) (stamp : Option Tm) : ChannelAlone c s (s.hitBlocked c stamp) := by
  unfold State.hitBlocked
  split
  · exact ChannelAlone.blockFor ..
  · exact (ChannelAlone.blockFor ..).trans (ChannelAlone.of_same (State.bump_tdc ..) (State.bump_afe ..))

theorem hitBlocked_open (s : State) (c : Nat) (stamp : Option Tm) : ((s.hitBlocked c stamp).td c).open_ = (s.td c).open_ := by
  unfold State.hitBlocked
  split
  · exact blockFor_open ..
  · rw [State.td_congr (State.bump_tdc ..), blockFor_open]

section HitNew

variable (s : State) (c : Nat) (stamp : Option Tm)

/-- A new hit is its channel's alone. -/
theorem hitNew_alone : ChannelAlone c s (s.hitNew c stamp) := by
  rw [hitNew_eq]
  exact (((hitBlocked_alone ..).trans (ChannelAlone.modTd ..)).trans
    (ChannelAlone.of_only (State.hitCount_only ..) (by decide) (by decide))).trans (gaugeHits_keeps ..).2.1

theorem hitNew_td : ((s.hitNew c stamp).td c).open_ = (s.td c).open_ ++ [s.newHit c stamp] ∧
    ((s.hitNew c stamp).td c).last = some s.time.now := by
  rw [hitNew_eq, (gaugeHits_keeps ..).1, State.td_of_only (State.hitCount_only ..) (by decide), State.modTd_same, openHit, hitBlocked_open]
  exact ⟨rfl, rfl⟩

/-- A hit that no interpolator stamps is counted (R88). -/
theorem hitNew_coarse (h : stamp = none) : (s.hitNew c stamp).get P.TDC_CNT_COARSE c =
    satTo P.TDC_CNT_COARSE.width (s.get P.TDC_CNT_COARSE c + 1) := by
  rw [hitNew_eq, (gaugeHits_keeps ..).2.2, State.get_of_only (State.hitCount_only ..) (by decide) _ _ _ (by decide) (by decide),
    State.modTd_get, hitBlocked, h, if_neg (by decide), State.get_bump_same _ _ _ _ (by decide),
    State.get_of_only (State.blockFor_only ..) (by decide) _ _ _ (by decide) (by decide)]

end HitNew

/-- A leading edge begins: the channel is high, and its quiet time starts anew (R37, R107). -/
def edgeNoted (s : State) (c : Nat) : State :=
  (s.modFeCh c fun f => { f with high := true }).modTd c fun x => { x with quietFrom := s.time.now, quietDone := false }

theorem edgeNoted_get (s : State) (c : Nat) (f : Fld) (i w : Nat) : (s.edgeNoted c).get f i w = s.get f i w := by
  rw [edgeNoted, State.modTd_get, State.modFeCh_get]

theorem edgeNoted_td (s : State) (c : Nat) : (s.edgeNoted c).td c = { s.td c with quietFrom := s.time.now, quietDone := false } := by
  rw [edgeNoted, State.modTd_same, State.td_congr (State.modFeCh_tdc ..)]

theorem edgeNoted_high (s : State) (c : Nat) : ((s.edgeNoted c).feCh c).high = true := by
  rw [edgeNoted, State.feCh_congr (State.modTd_afe ..), State.modFeCh_same]

theorem edgeNoted_pair (s : State) (c n : Nat) : (s.edgeNoted c).pair n = s.pair n := by
  rw [edgeNoted, State.modTd_pair, State.pair_congr (State.modFeCh_tdc ..)]

/-- What a leading edge finds and leaves before its hit opens: the pair's stamp, and the channel as it was (R86, R88). -/
theorem edgePaired_spec (s : State) (c code : Nat) :
    ((s.edgeNoted c).pairEdge c code).1.pair c = ((s.pair c).take s.time.now code (Config.unstated 13 [c, code])).1 ∧
      ((s.edgeNoted c).pairEdge c code).2 = ((s.pair c).take s.time.now code (Config.unstated 13 [c, code])).2 ∧
      (((s.edgeNoted c).pairEdge c code).1.td c).open_ = (s.td c).open_ ∧
      (((s.edgeNoted c).pairEdge c code).1.feCh c).high = true ∧
      ∀ f i, ((s.edgeNoted c).pairEdge c code).1.get f i = s.get f i := by
  have htime : (s.edgeNoted c).time = s.time := rfl
  unfold State.pairEdge
  dsimp only
  rw [State.modPair_same, State.modPair_td, edgeNoted_td, State.feCh_congr (State.modPair_afe ..), edgeNoted_high, edgeNoted_pair, htime]
  exact ⟨rfl, rfl, rfl, rfl, fun f i => by rw [State.modPair_get, edgeNoted_get]⟩

end State

section LeadingEdge

variable {s : State} {t : Tm} {ch : Ch} (code : BitVec 12) (hp : s.pwr.por = false) (henable : s.flag P.FAST_CFG_ENABLE ch = true)
  (habut : s.abut = false)
include hp henable habut

/-- An edge at least 1 ns after the last opens a hit with the stamp that its interpolator gives it (R86, R88). -/
theorem exec_leadingEdge_new (hlast : ((s.td ch).last.all fun l => decide (l + 3072 ≤ s.instant t)) = true) :
    exec (.leadingEdge t ⟨ch, code⟩) s = .next ((((s.clock t).edgeNoted ch).pairEdge ch code.toNat).1.hitNew ch
      (((s.clock t).edgeNoted ch).pairEdge ch code.toNat).2) := by
  have hoff : (!(s.clock t).flag P.FAST_CFG_ENABLE ch || (s.clock t).abut) = false := by
    rw [State.clock_flag, State.clock_abut, henable, habut]
    rfl
  cases hl : (s.td ch).last with
  | none =>
    simp only [exec, execLeadingEdge, live_of hp, hoff, State.clock_td, hl, Bool.false_eq_true, if_false]
    rfl
  | some l =>
    rw [hl] at hlast
    have hapart : decide ((s.clock t).time.now < l + 3072) = false := decide_eq_false (Nat.not_lt.2 (of_decide_eq_true hlast))
    simp only [exec, execLeadingEdge, live_of hp, hoff, State.clock_td, hl, hapart, Bool.false_eq_true, if_false]
    rfl

/-- An edge less than 1 ns after the last merges into the latest hit (R88). -/
theorem exec_leadingEdge_merged {l : Tm} (hlast : (s.td ch).last = some l) (hclose : s.instant t < l + 3072) :
    exec (.leadingEdge t ⟨ch, code⟩) s = .next (((((s.clock t).edgeNoted ch).modPair ch fun p =>
      { p with a := p.a.abandon (s.instant t), b := p.b.abandon (s.instant t), edge := some (s.instant t) }).modTd ch fun x =>
      { x with open_ := mergeLast x.open_ }).bump P.TDC_CNT_MERGED ch) := by
  have hoff : (!(s.clock t).flag P.FAST_CFG_ENABLE ch || (s.clock t).abut) = false := by
    rw [State.clock_flag, State.clock_abut, henable, habut]
    rfl
  have hmerged : decide ((s.clock t).time.now < l + 3072) = true := decide_eq_true hclose
  simp only [exec, execLeadingEdge, live_of hp, hoff, State.clock_td, hlast, hmerged, Bool.false_eq_true, if_false, if_true]
  rfl

end LeadingEdge

/-- A disabled channel's edge, or any in abutment mode, only shows in the level (R18, R37). -/
theorem exec_leadingEdge_off {s : State} {t : Tm} {ch : Ch} (code : BitVec 12) (hp : s.pwr.por = false)
    (h : s.flag P.FAST_CFG_ENABLE ch = false ∨ s.abut = true) :
    exec (.leadingEdge t ⟨ch, code⟩) s = .next ((s.clock t).modFeCh ch fun f => { f with high := true }) := by
  have hoff : (!(s.clock t).flag P.FAST_CFG_ENABLE ch || (s.clock t).abut) = true := by
    rw [State.clock_flag, State.clock_abut]
    rcases h with h | h <;> simp [h]
  simp only [exec, execLeadingEdge, live_of hp, hoff, if_true]

theorem mergeLast_length (l : List HitSt) : (mergeLast l).length = l.length := by
  induction l using mergeLast.induct with
  | case1 => rfl
  | case2 => rfl
  | case3 h hs hne ih => simp [mergeLast, ih]

theorem mergeLast_last (l : List HitSt) : (mergeLast l).getLast?.map (fun h => (h.merged, h.trail)) =
    l.getLast?.map fun _ => (true, none) := by
  induction l using mergeLast.induct with
  | case1 => rfl
  | case2 => rfl
  | case3 h hs hne ih =>
    obtain ⟨x, xs, rfl⟩ := List.exists_cons_of_ne_nil hne
    obtain ⟨y, ys, hy⟩ := List.exists_cons_of_length_pos (l := mergeLast (x :: xs)) (by rw [mergeLast_length]; simp)
    rw [hy] at ih
    rw [mergeLast.eq_3 _ _ hne, hy, List.getLast?_cons_cons, List.getLast?_cons_cons, ih]

/-- The oldest hit of a list that has no trailing edge is the one that an edge closes (R97). -/
theorem closeHit_mem {trail : Tm} {l : List HitSt} {h : HitSt} (hf : l.find? (·.trail.isNone) = some h) (ht : trail < h.lead + 4095 * ccSt) :
    { h with trail := some trail, totSat := false, tot := (edge1 trail - h.lead) / ccSt } ∈ closeHit trail l ∧
      ((closeHit trail l).filter (·.trail.isNone)).length + 1 = (l.filter (·.trail.isNone)).length := by
  induction l with
  | nil => cases hf
  | cons x xs ih =>
    rw [List.find?_cons] at hf
    unfold closeHit
    split at hf
    · next hx =>
      obtain rfl := Option.some.inj hf
      rw [if_pos hx, if_neg ht.not_ge]
      exact ⟨List.mem_cons_self, by simp [hx]⟩
    · next hx =>
      obtain ⟨hm, hl⟩ := ih hf
      rw [if_neg (by simp [hx])]
      exact ⟨List.mem_cons_of_mem _ hm, by simpa [hx] using hl⟩

/-! ### Interpolators and blocks (R87, R92, R99) -/

theorem Ip.count_spec (i : Ip) (code : Nat) : (i.count code).n = i.n + 1 ∧ (i.count code).stop = i.stop := by
  unfold Ip.count
  split <;> exact ⟨rfl, rfl⟩

/-- An interpolator that has finished holds no test conversion any more, and the one it held has counted (R87, R92). -/
theorem Ip.collect_finished {i : Ip} {t : Tm} (h : i.stop ≤ t) : (i.collect t).test = none ∧ (i.collect t).free t = true ∧
    (i.collect t).n = i.n + if i.test.isSome then 1 else 0 := by
  have hfree : i.free t = true := decide_eq_true h
  unfold Ip.collect
  cases ht : i.test with
  | none => exact ⟨ht, hfree, rfl⟩
  | some code =>
    obtain ⟨hn, hstop⟩ := i.count_spec code
    dsimp only
    rw [if_pos hfree]
    exact ⟨rfl, by rw [Ip.free, hstop]; exact hfree, hn⟩

theorem Pair.ip_setIp (p : Pair) (n : Fin 2) (i : Ip) : (p.setIp n i).ip n = i ∧ (p.setIp n i).ip (1 - n.val) = p.ip (1 - n.val) := by
  fin_cases n <;> exact ⟨rfl, rfl⟩

namespace State

/-- The peak code and flags that the samples of a hit's window give it (R96, R98). -/
def hitBy (s : State) (c : Nat) (h : HitSt) (window : List Lvl) : Hit :=
  s.hitOf c h (s.peakWindow c h).1 (s.samplesFrom c (s.peakWindow c h).1 window)

/-- A hit of the channel is complete (R98, R99, R153). -/
def completed (s : State) (c : Nat) (h : HitSt) (window : List Lvl) : State :=
  let b : BHit := ⟨s.hitBy c h window, decide (h.deckPeak ≤ (s.hitBy c h window).peak), h.snip⟩
  ((((s.modTd c fun x => x.complete h b s.time.now s.acquiring).snipWant c h b).ringNote c (s.peakWindow c h).1 window)).blockFull c h

/-- A full block that is emitted keeps the channel's open and recent hits (R99). -/
theorem blockFull_td (s : State) (c : Nat) (h : HitSt) :
    ((s.blockFull c h).td c).open_ = (s.td c).open_ ∧ ((s.blockFull c h).td c).recent = (s.td c).recent := by
  unfold State.blockFull
  split
  · split
    · exact ⟨rfl, rfl⟩
    · rw [State.td_of_only (State.blockEmit_only ..) (by decide), State.modTd_same]
      exact ⟨rfl, rfl⟩
  · exact ⟨rfl, rfl⟩

theorem blockOpen_joins (s : State) (c : Nat) (start : Stamp) (stop head : Tm) (deck : Bool) : ∃ b : Blk,
    (b.start, b.stop, b.head, b.cont) = (start, stop, head, false) ∧
      (s.blockOpen c start stop head false deck).td c = (s.td c).join b := by
  unfold State.blockOpen
  extract_lets b
  refine ⟨b, rfl, ?_⟩
  rw [State.modTd_same, if_neg Bool.false_ne_true, State.td_of_only (State.takeSeq_only ..) (by decide)]

/-- The complete hit leaves the open ones and is the latest of the recent ones (R99, R129). -/
theorem completed_td (s : State) (c : Nat) (h : HitSt) (window : List Lvl) :
    ((s.completed c h window).td c).open_ = (s.td c).open_.drop 1 ∧
      ((s.completed c h window).td c).recent.head? = some (h.at_.epoch, s.hitBy c h window) := by
  unfold completed
  extract_lets b
  rw [(blockFull_td ..).1, (blockFull_td ..).2, State.td_of_only (State.ringNote_only ..) (by decide),
    State.td_of_only (State.snipWant_only ..) (by decide), State.modTd_same]
  exact ⟨rfl, rfl⟩

/-- A block that opens at an instant with the hits of its interval that came before it (R99). -/
def Opened (s : State) (c : Nat) (at_ : Stamp) (stop : Tm) (u : State) : Prop :=
  ∃ b : Blk, (b.start, b.stop, b.head, b.cont) = (at_, stop, at_.tb, false) ∧ u.td c = (s.td c).join b

/-- The blocks of an interval open for the enabled channels alone, each with its own interval's early hits (R99). -/
theorem blocksOpen_opened (s : State) (at_ : Stamp) (ch : Ch) (h : s.flag P.FAST_CFG_ENABLE ch = true) :
    s.Opened ch at_ (s.intervalEnd at_.tb) (s.blocksOpen at_) := by
  have hstep (v : State) (j : Nat) (stop head : Tm) (deck : Bool) :
      (v.blockOpen j at_ stop head false deck).time = v.time ∧
        ∀ k, k ≠ j → (v.blockOpen j at_ stop head false deck).td k = v.td k :=
    ⟨(State.blockOpen_only ..).1 .time (by decide), (ChannelAlone.blockOpen ..).1⟩
  refine State.each_once (P := fun u => u.time = s.time ∧ u.td ch = s.td ch) (Q := s.Opened ch at_ (s.intervalEnd at_.tb))
    (fun v j hj hv => ?_) (fun v hv => ?_) (fun v j hj hv => ?_) (List.nodup_range.filter _)
    (List.mem_filter.2 ⟨List.mem_range.2 ch.isLt, h⟩) ⟨rfl, rfl⟩
  · exact ⟨(hstep ..).1.trans hv.1, ((hstep v j ..).2 _ hj.symm).trans hv.2⟩
  · obtain ⟨b, hb, he⟩ := v.blockOpen_joins ch at_ (v.intervalEnd at_.tb) at_.tb
      (v.flag P.DECK_CH_CFG_ENABLE ch && v.deck.running)
    have hend : v.intervalEnd at_.tb = s.intervalEnd at_.tb := by rw [State.intervalEnd, State.intervalEnd, hv.1]
    exact ⟨b, by rw [hb, hend], by rw [he, hv.2]⟩
  · obtain ⟨b, hb, he⟩ := hv
    exact ⟨b, hb, ((hstep v j ..).2 _ hj.symm).trans he⟩

theorem blocksOpen_disabled (s : State) (at_ : Stamp) (ch : Ch) (h : s.flag P.FAST_CFG_ENABLE ch = false) :
    (s.blocksOpen at_).td ch = s.td ch := by
  refine State.each_keeps_mem (Q := fun u => u.td ch = s.td ch) _ (fun v j hj hv => ?_) rfl
  have hne : ch.val ≠ j := by
    rintro rfl
    simpa [h] using (List.mem_filter.1 hj).2
  exact ((ChannelAlone.blockOpen ..).1 _ hne).trans hv

theorem blocksOpen_interval (s : State) (at_ : Stamp) : (s.blocksOpen at_).tdc.interval = some at_ := by
  refine State.each_keeps (Q := fun u => u.tdc.interval = some at_) (fun v j hv => ?_) _ rfl
  exact (show (v.blockOpen j _ _ _ _ _).tdc.interval = v.tdc.interval from rfl).trans hv

end State

/-- Settles O7: each edge by what it leaves of its channel and its pair, each block by the channel it opens or closes in. -/
theorem hitTimingCompletes : Obligations.HitTimingCompletes := by
  unfold Obligations.HitTimingCompletes
  intro s t hp
  refine ⟨?fresh, ?merged, ?disabled, ?trailing, ?saturated, ?complete, ?free, ?interval, ?emit⟩
  case fresh =>
    intro ch code henable habut hlast
    refine ⟨_, exec_leadingEdge_new code hp henable habut hlast, ?_⟩
    obtain ⟨hpair, hstamp, htd, hhigh, hget⟩ := (s.clock t).edgePaired_spec ch code.toNat
    rw [State.clock_pair, State.clock_instant] at hpair hstamp
    obtain ⟨hopen, hlast'⟩ := (((s.clock t).edgeNoted ch).pairEdge ch code.toNat).1.hitNew_td ch
      (((s.clock t).edgeNoted ch).pairEdge ch code.toNat).2
    obtain ⟨-, hpairs, hfe⟩ := (((s.clock t).edgeNoted ch).pairEdge ch code.toNat).1.hitNew_alone ch
      (((s.clock t).edgeNoted ch).pairEdge ch code.toNat).2
    rw [hopen, List.getLast?_concat, htd, hpairs, hpair, hfe, hlast']
    refine ⟨by simp, ?_, ?_, ?_, fun hnone => ?_, rfl, rfl, hhigh⟩
    · rw [← hstamp]
      simp [State.newHit]
    · rw [← hstamp]
      rfl
    · have hoff : (((s.clock t).edgeNoted ch).pairEdge ch code.toNat).1.hitOffset ch = s.hitOffset ch := by
        simp only [State.hitOffset, State.int, hget, State.clock_get]
      simp only [Option.map_some]
      rw [← hoff, ← State.stampAt_congr (u := (((s.clock t).edgeNoted ch).pairEdge ch code.toNat).1) (s := s.clock t) rfl]
      rfl
    · rw [State.hitNew_coarse _ _ _ (hstamp.trans hnone), hget, State.clock_get]
  case merged =>
    intro ch code l henable habut hlast hclose
    refine ⟨_, exec_leadingEdge_merged code hp henable habut hlast hclose, ?_⟩
    dsimp only
    rw [State.td_congr (State.bump_tdc ..), State.modTd_same, State.modPair_td, State.edgeNoted_td, State.pair_congr (State.bump_tdc ..),
      State.modTd_pair, State.modPair_same, State.edgeNoted_pair, State.get_bump_same _ _ _ _ (by decide), State.modTd_get,
      State.modPair_get, State.edgeNoted_get, State.clock_get]
    exact ⟨mergeLast_length _, mergeLast_last _, rfl, rfl, rfl, rfl⟩
  case disabled =>
    intro ch code henable
    refine ⟨_, exec_leadingEdge_off code hp (.inl henable), ?_, ?_⟩
    · rw [State.modFeCh_tdc, State.clock_tdc]
    · rw [State.modFeCh_same]
  case trailing =>
    intro ch h hfind hbefore
    refine acts_of_live hp (Eq.refl (execTrailingEdge t ch s)) ?_
    rw [State.thrApply, State.modFeCh_same, State.feCh_congr (State.modTd_afe ..), State.modFeCh_same,
      State.td_congr (State.modFeCh_tdc ..), State.modTd_same, State.td_congr (State.modFeCh_tdc ..), State.clock_td]
    exact ⟨rfl, rfl, closeHit_mem hfind hbefore⟩
  case saturated =>
    intro ch h hfind hdue
    refine acts_of_live hp (Eq.refl (execTotSaturate t ch s)) ?_
    rw [State.clock_td, hfind]
    dsimp only
    rw [if_pos (show h.lead + 4095 * ccSt ≤ (s.clock t).time.now from hdue), State.thrApply, State.td_congr (State.modFeCh_tdc ..),
      State.modTd_same, State.clock_td]
    refine ⟨List.mem_map.2 ⟨h, List.mem_of_find?_eq_some hfind,
      if_pos (List.find?_some (p := fun y : HitSt => y.trail.isNone) hfind)⟩, fun y hy => ?_⟩
    obtain ⟨x, -, rfl⟩ := List.mem_map.1 hy
    split
    · simp
    · next hx => simpa using hx
  case complete =>
    intro ch window h rest hopen hready hlen
    have hopen' : ((s.clock t).td ch).open_ = h :: rest := hopen
    have hexec : exec (.hitComplete t ch window) s = .next ((s.clock t).completed ch h window) := by
      simp only [exec, execHitComplete, live_of hp, hopen', hready]
      exact congrArg Host.Outcome.next (if_neg (by simp; exact hlen))
    obtain ⟨hrest, hrecent⟩ := (s.clock t).completed_td ch h window
    refine ⟨_, hexec, ?_, ?_⟩
    · rw [hrest, hopen']
      rfl
    · rw [hrecent]
      rfl
  case free =>
    intro unit ip hstop
    refine acts_of_live hp (Eq.refl (execInterpolatorFree t unit ip s)) ?_
    obtain ⟨htest, hfree, hn⟩ := Ip.collect_finished (t := s.instant t) hstop
    rw [State.modPair_same, State.clock_pair, State.clock_instant, (Pair.ip_setIp ..).1, (Pair.ip_setIp ..).2]
    exact ⟨htest, hfree, hn, rfl⟩
  case interval =>
    intro hacq hdue hnew
    have hcond : ((s.clock t).acquiring && ((s.clock t).time.now % msSt == 0 || (s.clock t).time.now == (s.clock t).time.last) &&
        (s.clock t).tdc.interval != some (s.clock t).stamp) = true := by
      simp only [Bool.and_eq_true, Bool.or_eq_true, beq_iff_eq, bne_iff_ne]
      exact ⟨⟨hacq, hdue⟩, hnew⟩
    have hexec : exec (.blockIntervalStart t) s = .next ((s.clock t).blocksOpen (s.clock t).stamp) := by
      simp only [exec, execBlockIntervalStart, live_of hp]
      exact congrArg Host.Outcome.next (if_pos hcond)
    have hopen (ch : Ch) (h : s.flag P.FAST_CFG_ENABLE ch = true) :=
      (s.clock t).blocksOpen_opened (s.clock t).stamp ch (by rw [State.clock_flag, h])
    refine ⟨_, hexec, State.blocksOpen_interval .., fun ch h => ?_, fun ch h => ?_, fun ch h => ?_⟩
    · obtain ⟨b, hb, he⟩ := hopen ch h
      rw [he, TdcCh.join, List.getLast?_concat]
      exact congrArg some hb
    · obtain ⟨b, hb, he⟩ := hopen ch h
      rw [he, TdcCh.join, List.getLast?_concat]
      rfl
    · rw [State.blocksOpen_disabled _ _ _ (by rw [State.clock_flag, h]), State.clock_td]
  case emit =>
    intro ch b bs hblocks hsent hdue
    have hdue' : (!b.sent && decide (b.due ≤ s.instant t)) = true := by
      rw [hsent]
      exact decide_eq_true hdue
    refine acts_of_live hp (Eq.refl (execHitBlockEmit t ch s)) ?_
    dsimp only
    rw [State.modTd_same, State.clock_td, State.clock_instant, hblocks]
    dsimp only
    rw [if_pos hdue', State.td_of_only (State.blockEmit_only ..) (by decide), State.modTd_same]
    refine ⟨rfl, ?_⟩
    unfold State.blockEmit
    rw [State.flag, State.modTd_get, State.modTd_get, State.clock_get, ← State.flag]
    split
    · rfl
    · exact (List.append_nil _).symm

end Sys2Proof.Machine

namespace Sys2Proof.Machine

open Sys2Proof

/-! ### Scheduled actions (R329 to R331) -/

namespace State

@[simp] theorem clock_actOf (s : State) (t : Tm) (i : Nat) : (s.clock t).actOf i = s.actOf i := rfl
@[simp] theorem clock_toutOf (s : State) (t : Tm) (x : Nat) : (s.clock t).toutOf x = s.toutOf x := rfl
@[simp] theorem clock_toutPeriod (s : State) (t : Tm) (x : Nat) : (s.clock t).toutPeriod x = s.toutPeriod x := by
  rw [toutPeriod, toutPeriod, clock_get, clock_get]
@[simp] theorem modAct_toutOf (s : State) (i x : Nat) (f : ActSt → ActSt) : (s.modAct i f).toutOf x = s.toutOf x := rfl
theorem modAct_pend (s : State) (i : Nat) (f : ActSt → ActSt) : (s.modAct i f).time.pend = s.time.pend := rfl
@[simp] theorem modTout_actOf (s : State) (x i : Nat) (f : ToutSt → ToutSt) : (s.modTout x f).actOf i = s.actOf i := rfl

section Occurrence

variable {s : State} {i kind : Nat} {due : Tm} {late : Bool} (h : s.actDue i kind = some (due, late))
include h

/-- A due occurrence is that of an armed entry, and one that is not late comes at its due time (R330). -/
theorem actDue_spec : (s.actOf i).armed = true ∧ (late = false → (s.actOf i).due = due ∧ (s.actOf i).late = none) := by
  unfold State.actDue at h
  dsimp only at h
  split at h
  · cases h
  · next harmed =>
    have ha : (s.actOf i).armed = true := by
      by_contra hn
      simp [hn] at harmed
    refine ⟨ha, fun hl => ?_⟩
    subst hl
    split at h
    · split at h <;> cases h
    · next hlate =>
      split at h
      · cases h
        exact ⟨rfl, hlate⟩
      · cases h

/-- Outside abutment mode it acts, blanks and leaves the entry for what follows (R329). -/
theorem act_runs (tiles : Nat) (f : State → Tm → State) (ha : s.abut = false) :
    s.act i kind tiles f = ((f s due).actBlank i due tiles).actDone i due late := by
  unfold State.act
  rw [h]
  simp only [ha, Bool.false_eq_true, if_false]

/-- In abutment mode it only counts as skipped (R331). -/
theorem act_skips (tiles : Nat) (f : State → Tm → State) (ha : s.abut = true) :
    s.act i kind tiles f = (s.bump P.ACT_COUNTS_SKIPPED 0).actDone i due late := by
  unfold State.act
  rw [h]
  simp only [ha, if_true]

end Occurrence

theorem actDone_pend (s : State) (i : Nat) (due : Tm) (late : Bool) : (s.actDone i due late).time.pend = s.time.pend := by
  unfold State.actDone
  split
  · rw [modAct_pend, State.put_time, State.put_time]
  · exact modAct_pend ..

theorem actDone_toutOf (s : State) (i : Nat) (due : Tm) (late : Bool) (x : Nat) : (s.actDone i due late).toutOf x = s.toutOf x := by
  unfold State.actDone
  split
  · rw [State.modAct_toutOf, State.toutOf_congr (State.put_time ..), State.toutOf_congr (State.put_time ..)]
  · rfl

/-- A one-shot entry is empty after its occurrence, and a periodic one waits for its next (R329, R330). -/
theorem actDone_next {s v : State} {i : Nat} {due : Tm} {late : Bool} (hact : v.actOf i = s.actOf i)
    (hperiod : v.actPeriod i = s.actPeriod i) (harmed : (s.actOf i).armed = true) :
    (s.actPeriod i = 0 → (v.actDone i due late).actOf i = ActSt.reset ∧ (v.actDone i due late).get P.ACT_STATUS_STATE i = 2) ∧
      (s.actPeriod i ≠ 0 → late = false → (v.actDone i due late).actOf i = ⟨due + s.actPeriod i, none, true⟩) := by
  unfold State.actDone
  rw [hperiod]
  constructor
  · intro h0
    rw [if_pos h0, State.modAct_same, State.modAct_get, State.get_put_par _ _ _ _ _ _ _ _ (by decide) (by decide) (by decide)]
    exact ⟨rfl, State.get_put_fits _ _ _ (by decide) (by decide)⟩
  · rintro h0 rfl
    rw [if_neg h0, State.modAct_same, hact, harmed]
    rfl

/-- In abutment mode an occurrence leaves the front end, what waits and what was sent (R331). -/
theorem act_skipped {s : State} {i kind tiles : Nat} {f : State → Tm → State} {due : Tm} {late : Bool}
    (h : s.actDue i kind = some (due, late)) (ha : s.abut = true) :
    (s.act i kind tiles f).get P.ACT_COUNTS_SKIPPED 0 = satTo P.ACT_COUNTS_SKIPPED.width (s.get P.ACT_COUNTS_SKIPPED 0 + 1) ∧
      (s.act i kind tiles f).afe = s.afe ∧ (s.act i kind tiles f).time.pend = s.time.pend ∧ (s.act i kind tiles f).out = s.out := by
  rw [act_skips h tiles f ha]
  refine ⟨?_, ?_, ?_, ?_⟩
  · rw [State.get_of_only (State.actDone_only ..) (by decide) _ _ _ (by decide) (by decide), State.get_bump_same _ _ _ _ (by decide)]
  · rw [(State.actDone_only ..).1 .afe (by decide), State.bump_afe]
  · rw [actDone_pend, State.bump_time]
  · rw [(State.actDone_only ..).1 .out (by decide), State.bump_out]

/-- What an occurrence leaves of its entry, where its action leaves the entries and their periods (R329, R330). -/
theorem act_next {s : State} {i kind : Nat} (tiles : Nat) {f : State → Tm → State} {due : Tm} {late : Bool}
    (h : s.actDue i kind = some (due, late)) (ha : s.abut = false) (hact : (f s due).actOf i = s.actOf i)
    (hperiod : (f s due).get P.ACT_PERIOD_NS i = s.get P.ACT_PERIOD_NS i) :
    (s.actPeriod i = 0 → (s.act i kind tiles f).actOf i = ActSt.reset ∧ (s.act i kind tiles f).get P.ACT_STATUS_STATE i = 2) ∧
      (s.actPeriod i ≠ 0 → late = false → (s.act i kind tiles f).actOf i = ⟨due + s.actPeriod i, none, true⟩) := by
  rw [act_runs h tiles f ha]
  refine actDone_next ?_ ?_ (actDue_spec h).1
  · rw [State.actOf_of_only (State.actBlank_only ..) (by decide), hact]
  · rw [State.actPeriod, State.actPeriod, State.get_of_only (State.actBlank_only ..) (by decide) _ _ _ (by decide) (by decide), hperiod]

/-- The blanks of a list of tiles leave a tile blanked that was blanked before (R53). -/
theorem blankEval_keeps {s : State} {k : Nat} (j : Nat) (h : (s.fe k).blanked = true) : ((s.blankEval j).fe k).blanked = true := by
  by_cases hk : k = j
  · obtain ⟨ms, b, g, he, -, -, hb⟩ := s.blankEval_fe j
    rw [hk, he]
    exact hb (hk ▸ h)
  · rw [(TileAlone.blankEval s j).2 k hk, h]

theorem modFe_blanked {s : State} {k j : Nat} {f : FeTile → FeTile} (hf : ∀ x, (f x).blanked = x.blanked) (h : (s.fe k).blanked = true) :
    ((s.modFe j f).fe k).blanked = true := by
  by_cases hk : k = j
  · rw [hk, State.modFe_same, hf, ← hk, h]
  · rw [State.modFe_ne _ hk, h]

theorem laterOf_le (o : Option Tm) (b : Tm) : b ≤ laterOf o b := by
  cases o with
  | none => exact le_rfl
  | some x => exact le_max_right x b

/-- A pulse of the calibration pulser blanks the tiles of its mask where BLANK_INT says so (R53). -/
theorem pulserBlank_blanks {s : State} {tiles : Nat} (due : Tm) (h : s.flag P.BLANK_INT_PULSER 0 = true) (k : Tile)
    (hk : tiles.testBit k = true) : ((s.pulserBlank tiles due).fe k).blanked = true := by
  unfold State.pulserBlank
  rw [if_pos h]
  refine State.each_reaches (Q := fun u => (u.fe k).blanked = true) (fun v => ?_)
    (fun v j hv => by refine blankEval_keeps j (modFe_blanked ?_ hv); exact fun _ => rfl) (List.mem_filter.2 ⟨List.mem_range.2 k.isLt, hk⟩) s
  obtain ⟨ms, b, g, he, -, hb, -⟩ := State.blankEval_fe (v.modFe k fun f =>
    { f with pulserUntil := some (laterOf f.pulserUntil (max due v.time.now + 1)) }) k
  rw [he]
  refine hb ?_
  rw [State.modFe_same]
  exact decide_eq_true (lt_of_lt_of_le (Nat.lt_succ_of_le (le_max_right due v.time.now)) (laterOf_le ..))

theorem actBlank_keeps {s : State} {k : Nat} (i : Nat) (due : Tm) (tiles : Nat) (h : (s.fe k).blanked = true) :
    ((s.actBlank i due tiles).fe k).blanked = true := by
  unfold State.actBlank
  split
  · refine State.each_keeps (Q := fun u => (u.fe k).blanked = true) (fun v j hv => ?_) _ h
    refine blankEval_keeps j (modFe_blanked ?_ hv)
    exact fun _ => rfl
  · exact h

/-! ### Arming an entry (R330) -/

/-- An armed entry in the state that its arming write makes, in time (R330). -/
def entryArmed (s : State) (i value : Nat) (due : Tm) : State :=
  ((((s.putWord P.ACT_CFG_KIND i (armWord value)).put P.ACT_STATUS_STATE i 1).putB P.ACT_STATUS_RAN_LATE i false).put
    P.ACT_STATUS_LATE_US i 0).modAct i fun _ => ⟨due, none, true⟩

theorem armWord_fields (value : Nat) : P.ACT_CFG_KIND.of (armWord value) = value / 4096 % 8 ∧
    P.ACT_CFG_STITCH.of (armWord value) = value % 4096 ∧ P.ACT_CFG_RUN_LATE.of (armWord value) = value / 2 ^ 15 % 2 := by
  unfold armWord Fld.of
  simp only [P.ACT_CFG_KIND, P.ACT_CFG_STITCH, P.ACT_CFG_RUN_LATE, BitVec.toNat_ofNat]
  omega

/-- The due time of an entry once its word is written (R329). -/
theorem armed_actTime (s : State) (i value : Nat) : (s.putWord P.ACT_CFG_KIND i (armWord value)).actTime i =
    s.get P.ACT_TIME_TIME_NS i * nsSt + value % 4096 := by
  have hid : P.ACT_TIME_TIME_NS.id i 0 ≠ P.ACT_CFG_KIND.id i 0 := by simp [Fld.id, P.ACT_TIME_TIME_NS, P.ACT_CFG_KIND]
  rw [State.actTime, get_putWord_same (f := P.ACT_CFG_KIND) (g := P.ACT_CFG_STITCH) s i _ rfl rfl, get_putWord_ne s i i _ hid,
    (armWord_fields value).2.1]

theorem armEntry_armed {s : State} {i value : Nat} {due : Tm} (hkind : 0 < value / 4096 % 8 ∧ value / 4096 % 8 ≤ 4)
    (harmed : (s.actOf i).armed = false) (htime : s.get P.ACT_TIME_TIME_NS i * nsSt + value % 4096 = due)
    (hdue : s.commitAt + 10 * usSt ≤ due) : (s.armEntry i value).1 = s.entryArmed i value due := by
  have hpos : 0 < due := lt_of_lt_of_le (Nat.add_pos_right _ (by decide)) hdue
  have hfirst (period : Nat) : occurrenceAfter due period (due - 1) = due := if_pos (.inr (Nat.sub_lt hpos one_pos))
  unfold State.armEntry
  extract_lets kind w s1 d late s2 s3
  have hd : d = due := (armed_actTime s i value).trans htime
  have hlate : late = false := decide_eq_false (by rw [hd]; exact Nat.not_lt.2 hdue)
  simp only [s3, s2, if_neg (show ¬4 < kind from Nat.not_lt.2 hkind.2),
    if_neg (show ¬kind = 0 from Nat.pos_iff_ne_zero.1 hkind.1), harmed, hlate, hd, hfirst, Bool.false_and,
    Bool.false_eq_true, if_false]
  rfl

/-- An arming that comes too late changes nothing, unless it may run late (R330). -/
theorem armEntry_late {s : State} {i value : Nat} (hkind : 0 < value / 4096 % 8 ∧ value / 4096 % 8 ≤ 4)
    (harmed : (s.actOf i).armed = false) (hdue : s.get P.ACT_TIME_TIME_NS i * nsSt + value % 4096 < s.commitAt + 10 * usSt)
    (hrun : value.testBit 15 = false) : (s.armEntry i value).1 = s := by
  unfold State.armEntry
  extract_lets kind w s1 d late s2 s3
  have hlate : late = true := decide_eq_true (by rw [show d = _ from armed_actTime s i value]; exact hdue)
  have hflag : s1.flag P.ACT_CFG_RUN_LATE i = false := by
    have hof : s1.get P.ACT_CFG_RUN_LATE i = value / 2 ^ 15 % 2 :=
      (get_putWord_same (f := P.ACT_CFG_KIND) (g := P.ACT_CFG_RUN_LATE) s i (armWord value) rfl rfl).trans (armWord_fields value).2.2
    rw [Nat.testBit_eq_decide_div_mod_eq] at hrun
    have hbit := of_decide_eq_false hrun
    rw [State.flag, hof, show value / 2 ^ 15 % 2 = 0 by omega]
    rfl
  simp only [if_neg (show ¬4 < kind from Nat.not_lt.2 hkind.2),
    if_neg (show ¬kind = 0 from Nat.pos_iff_ne_zero.1 hkind.1), harmed, hlate, hflag, Bool.false_eq_true, if_false,
    Bool.not_false, Bool.and_self, if_true]

/-- An armed entry takes no other kind (R330). -/
theorem armEntry_busy {s : State} {i value : Nat} (hkind : value / 4096 % 8 ≠ 0) (harmed : (s.actOf i).armed = true) :
    (s.armEntry i value).1 = s := by
  unfold State.armEntry
  extract_lets kind w s1 d late s2 s3
  by_cases h4 : 4 < kind
  · rw [if_pos h4]
  · rw [if_neg h4, if_neg (show ¬kind = 0 from hkind), if_pos harmed]

/-- KIND 0 empties the entry (R330). -/
theorem armEntry_empties {s : State} {i value : Nat} (hkind : value / 4096 % 8 = 0) :
    (s.armEntry i value).1.actOf i = ActSt.reset ∧ (s.armEntry i value).1.get P.ACT_STATUS_STATE i = 0 ∧
      (s.armEntry i value).1.get P.ACT_CFG_KIND i = 0 := by
  have hid : P.ACT_STATUS_STATE.id i 0 ≠ P.ACT_CFG_KIND.id i 0 := by simp [Fld.id, P.ACT_STATUS_STATE, P.ACT_CFG_KIND]
  unfold State.armEntry
  extract_lets kind w s1 d late s2 s3
  rw [if_neg (show ¬4 < kind by omega), if_pos (show kind = 0 from hkind)]
  refine ⟨?_, ?_, ?_⟩
  · rw [State.actOf_congr (State.putWord_time ..), State.modAct_same]
  · rw [get_putWord_ne _ _ _ _ hid, State.modAct_get]
    exact State.get_put_fits _ _ _ (by decide) (by decide)
  · rw [get_putWord_same _ _ _ rfl rfl]
    exact (armWord_fields value).1.trans hkind

theorem entryArmed_regs (s : State) (i value : Nat) (due : Tm) :
    (s.entryArmed i value due).get P.ACT_CFG_KIND i = value / 4096 % 8 ∧ (s.entryArmed i value due).get P.ACT_STATUS_STATE i = 1 ∧
      (s.entryArmed i value due).flag P.ACT_STATUS_RAN_LATE i = false := by
  unfold entryArmed State.flag State.putB
  refine ⟨?_, ?_, ?_⟩ <;> rw [State.modAct_get]
  · simp (disch := decide) only [State.get_put_par]
    rw [get_putWord_same _ _ _ rfl rfl, (armWord_fields value).1]
  · simp (disch := decide) only [State.get_put_apart]
    exact State.get_put_fits _ _ _ (by decide) (by decide)
  · simp (disch := decide) only [State.get_put_apart]
    rw [State.get_put_fits _ _ _ (by decide) (by decide)]
    rfl

/-! ### Timed outputs (R327) -/

/-- A pulse begins: the output is active until the pulse's end, or a later one that ran already, and the pulse is counted (R327). -/
theorem toutPulse_spec (s : State) (x : Fin 8) (due : Tm) (width : Nat) :
    (s.toutPulse x due width).toutOf x = { s.toutOf x with
        level := true,
        stop := if (s.toutOf x).level then max (s.toutOf x).stop (round32 (due + 32 * width)) else round32 (due + 32 * width) } ∧
      (s.toutPulse x due width).get P.TOUT_STATUS_PULSES x =
        satTo P.TOUT_STATUS_PULSES.width (s.get P.TOUT_STATUS_PULSES x + 1) ∧
      (s.toutPulse x due width).out = .pin (.tout x) (!s.flag P.TOUT_CFG_POL x) :: s.out := by
  unfold State.toutPulse
  extract_lets stop s1
  have htout : s1.toutOf x = { s.toutOf x with level := true, stop := if (s.toutOf x).level then max (s.toutOf x).stop stop else stop } := by
    rw [State.toutOf_congr (State.bump_time ..), State.modTout_same]
  refine ⟨?_, ?_, ?_⟩
  · rw [State.toutOf_congr (State.drive_time ..), htout]
  · rw [State.drive_get, State.get_bump_same _ _ _ _ (by decide), State.modTout_get]
  · have hpol : s1.flag P.TOUT_CFG_POL x = s.flag P.TOUT_CFG_POL x := by
      simp (disch := decide) only [State.flag, s1, State.bump, State.get_put_par, State.modTout_get]
    rw [State.drive_out, State.bump_out, State.modTout_out, State.toutLevel, htout, hpol]
    cases s.flag P.TOUT_CFG_POL x <;> rfl

/-- Whatever entry had its output pulsed, every entry stays (R327, R329). -/
theorem toutPulse_actOf (s : State) (x : Fin 8) (due : Tm) (width i : Nat) : (s.toutPulse x due width).actOf i = s.actOf i := by
  rw [State.toutPulse, State.actOf_congr (State.drive_time ..), State.actOf_congr (State.bump_time ..), State.modTout_actOf]

theorem release_actOf (s : State) (mask i : Nat) : (s.release mask).actOf i = s.actOf i := by
  refine State.each_keeps (Q := fun u => u.actOf i = s.actOf i) (fun v j hv => ?_) _ rfl
  rw [State.releaseClass, State.actOf_of_only (State.raise_only ..) (by decide)]
  exact hv

end State

/-- The pulse of an action on an output; a disabled one ignores it (R327, R329). -/
def State.toutAct (x : Fin 8) (width : Nat) (s : State) (due : Tm) : State :=
  if s.flag P.TOUT_CFG_ENABLE x then s.toutPulse x due width else s

theorem exec_actionToutPulse {s : State} {t : Tm} {entry : Fin 64} {x : Fin 8} (hp : s.pwr.por = false)
    (hx : s.get P.ACT_ARG_ARG entry % 8 = x.val) : exec (.actionToutPulse t entry) s =
      .next ((s.clock t).act entry 2 0xFFFF (State.toutAct x (s.get P.ACT_ARG_ARG entry / 256 % 2 ^ 24))) := by
  obtain rfl : x = ⟨s.get P.ACT_ARG_ARG entry % 8, Nat.mod_lt _ (by decide)⟩ := Fin.ext hx.symm
  simp only [exec, execActionToutPulse, live_of hp, State.clock_get]
  rfl

/-- Settles O11: each arming by its case of R330, each occurrence by what its action does and leaves, each pulse by its rule. -/
theorem scheduledActionsComplete : Obligations.ScheduledActionsComplete := by
  unfold Obligations.ScheduledActionsComplete
  intro s t hp
  have harm (entry : Fin 64) (value : BitVec 32) (hl : s.leased = true) :
      exec (.actCfgArm t entry value) s = .next ((s.clock t).armEntry entry value.toNat).1 := by
    simp only [exec, execActCfgArm, live_of hp, State.clock_leased, hl, if_true]
  refine ⟨?inTime, ?late, ?noLease, ?busy, ?empties, ?pulser, ?pulserSkipped, ?tout, ?toutSkipped, ?release, ?releaseSkipped, ?firmware,
    ?firmwareSkipped, ?pulse, ?pulseEnd, ?ppsRises, ?ppsFalls⟩
  case inTime =>
    intro entry value due hlease hkind hempty htime hdue
    obtain ⟨hk, hst, hran⟩ := (s.clock t).entryArmed_regs entry value.toNat due
    have he := State.armEntry_armed (s := s.clock t) hkind hempty (by rw [State.clock_get, htime]) hdue
    refine ⟨_, (harm entry value hlease).trans (congrArg _ he), ?_, hk, hst, hran⟩
    rw [State.entryArmed, State.modAct_same]
  case late =>
    intro entry value hkind hempty hlease hdue hrun
    have he := State.armEntry_late (s := s.clock t) hkind hempty (by rw [State.clock_get]; exact hdue) hrun
    exact ⟨_, (harm entry value hlease).trans (congrArg _ he), rfl⟩
  case noLease =>
    intro entry value hlease
    have hexec : exec (.actCfgArm t entry value) s = .next (s.clock t).deny := by
      simp only [exec, execActCfgArm, live_of hp, State.clock_leased, hlease, Bool.false_eq_true, if_false]
    obtain ⟨hdenied, hraised⟩ := State.deny_done (s.clock t)
    refine ⟨_, hexec, ?_, ?_, hdenied, hraised⟩
    · rw [State.actOf_of_only (State.deny_only _) (by decide), State.clock_actOf]
    · rw [State.get_of_only (State.deny_only _) (by decide) _ _ _ (by decide) (by decide), State.clock_get]
  case busy =>
    intro entry value hlease hkind harmed
    have he := State.armEntry_busy (s := s.clock t) hkind harmed
    exact ⟨_, (harm entry value hlease).trans (congrArg _ he), rfl⟩
  case empties =>
    intro entry value hlease hkind
    exact ⟨_, harm entry value hlease, State.armEntry_empties hkind⟩
  case pulser =>
    intro entry due late hdue habut
    have hact (v : State) (amp : Nat) (n : Nat) :
        ((v.emit (.pulser (BitVec.ofNat 16 n) amp)).pulserBlank (n % 65536) due).actOf entry = v.actOf entry ∧
          ((v.emit (.pulser (BitVec.ofNat 16 n) amp)).pulserBlank (n % 65536) due).get P.ACT_PERIOD_NS entry = v.get P.ACT_PERIOD_NS entry := by
      rw [State.actOf_of_only (State.pulserBlank_only ..) (by decide), State.actOf_congr (State.emit_time ..),
        State.get_of_only (State.pulserBlank_only ..) (by decide) _ _ _ (by decide) (by decide), State.emit_get]
      exact ⟨rfl, rfl⟩
    refine acts_of_live hp (Eq.refl (execActionPulser t entry s)) ?_
    dsimp only
    rw [State.clock_get]
    obtain ⟨hone, hnext⟩ := State.act_next (s.get P.ACT_ARG_ARG entry % 65536)
      (f := fun s' due => (s'.emit (.pulser (BitVec.ofNat 16 (s.get P.ACT_ARG_ARG entry)) (s.get P.ACT_ARG_ARG entry / 65536 % 4096))).pulserBlank
        (s.get P.ACT_ARG_ARG entry % 65536) due) hdue habut (hact ..).1 (hact ..).2
    refine ⟨?_, fun hblank tile htile => ?_, hone, hnext⟩
    · rw [State.act_runs hdue _ _ habut, Emits, (State.actDone_only ..).1 .out (by decide), (State.actBlank_only ..).1 .out (by decide),
        (State.pulserBlank_only ..).1 .out (by decide), State.emit_out]
      simp
    · rw [State.act_runs hdue _ _ habut, State.fe_of_only (State.actDone_only ..) (by decide)]
      refine State.actBlank_keeps _ _ _ (State.pulserBlank_blanks due ?_ tile ?_)
      · rw [State.flag, State.emit_get]
        exact hblank
      · have htile' := tile.isLt
        rw [show 65536 = 2 ^ 16 from rfl, Nat.testBit_mod_two_pow, htile, decide_eq_true htile']
        rfl
  case pulserSkipped =>
    intro entry due late hdue habut
    obtain ⟨hskip, hafe, -, hout⟩ := State.act_skipped hdue habut
    refine acts_of_live hp (Eq.refl (execActionPulser t entry s)) ?_
    rw [State.clock_get] at hskip
    exact ⟨hskip, hafe, hout⟩
  case tout =>
    intro entry due late x hdue habut hx henable
    have hrun : State.toutAct x (s.get P.ACT_ARG_ARG entry / 256 % 2 ^ 24) (s.clock t) due =
        (s.clock t).toutPulse x due (s.get P.ACT_ARG_ARG entry / 256 % 2 ^ 24) := if_pos (by rw [State.clock_flag, henable])
    obtain ⟨htout, hcount, hsent⟩ := (s.clock t).toutPulse_spec x due (s.get P.ACT_ARG_ARG entry / 256 % 2 ^ 24)
    obtain ⟨hone, hnext⟩ := State.act_next 0xFFFF (f := State.toutAct x (s.get P.ACT_ARG_ARG entry / 256 % 2 ^ 24)) hdue habut
      (by rw [hrun, State.toutPulse_actOf])
      (by rw [hrun, State.get_of_only (State.toutPulse_only ..) (by decide) _ _ _ (by decide) (by decide)])
    refine ⟨_, exec_actionToutPulse hp hx, ?_, ?_, ?_, ?_, fun h0 => (hone h0).1, hnext⟩ <;> rw [State.act_runs hdue _ _ habut, hrun]
    · rw [State.actDone_toutOf, State.toutOf_of_only (State.actBlank_only ..) (by decide), htout]
    · rw [State.actDone_toutOf, State.toutOf_of_only (State.actBlank_only ..) (by decide), htout]
      dsimp only
      split
      · exact le_max_right ..
      · exact le_rfl
    · rw [State.get_of_only (State.actDone_only ..) (by decide) _ _ _ (by decide) (by decide),
        State.get_of_only (State.actBlank_only ..) (by decide) _ _ _ (by decide) (by decide), hcount, State.clock_get]
    · rw [Emits, (State.actDone_only ..).1 .out (by decide), (State.actBlank_only ..).1 .out (by decide), hsent, State.clock_flag]
      simp
  case toutSkipped =>
    intro entry due late hdue habut
    obtain ⟨hskip, -, hpend, hout⟩ := State.act_skipped hdue habut
    refine acts_of_live hp (Eq.refl (execActionToutPulse t entry s)) ?_
    rw [State.clock_get] at hskip
    exact ⟨hskip, hpend, hout⟩
  case release =>
    intro entry due late hdue habut
    have hact (v : State) (n : Nat) : (v.release n).actOf entry = v.actOf entry ∧
        (v.release n).get P.ACT_PERIOD_NS entry = v.get P.ACT_PERIOD_NS entry :=
      ⟨State.release_actOf .., State.get_of_only (State.release_only ..) (by decide) _ _ _ (by decide) (by decide)⟩
    refine acts_of_live hp (Eq.refl (execActionSwapRelease t entry s)) ?_
    obtain ⟨hone, hnext⟩ := State.act_next 0xFFFF (f := fun s _ => s.release (s.get P.ACT_ARG_ARG entry)) hdue habut (hact ..).1 (hact ..).2
    refine ⟨fun c hbit harmed => ?_, ?_, fun h0 => (hone h0).1, hnext⟩
    · obtain ⟨hpend, hraised⟩ := (s.clock t).release_released c (mask := (s.clock t).get P.ACT_ARG_ARG entry)
        (by rw [State.clock_get]; exact hbit) harmed
      rw [State.act_runs hdue _ _ habut, Raised, (State.actDone_only ..).1 .ev (by decide), (State.actBlank_only ..).1 .ev (by decide),
        State.actDone_pend, (State.actBlank_only ..).1 .time (by decide)]
      exact ⟨hraised, fun p hpm hc => Option.isSome_iff_ne_none.1 (hpend p hpm hc)⟩
    · rw [State.act_runs hdue _ _ habut, State.get_of_only (State.actDone_only ..) (by decide) _ _ _ (by decide) (by decide),
        State.get_of_only (State.actBlank_only ..) (by decide) _ _ _ (by decide) (by decide),
        State.get_of_only (State.release_only ..) (by decide) _ _ _ (by decide) (by decide), State.clock_get]
  case releaseSkipped =>
    intro entry due late hdue habut
    obtain ⟨hskip, -, hpend, hout⟩ := State.act_skipped hdue habut
    refine acts_of_live hp (Eq.refl (execActionSwapRelease t entry s)) ?_
    rw [State.clock_get] at hskip
    exact ⟨hskip, hpend, hout⟩
  case firmware =>
    intro entry due late hdue habut
    refine acts_of_live hp (Eq.refl (execActionFirmware t entry s)) ?_
    obtain ⟨hone, hnext⟩ := State.act_next 0xFFFF (f := fun s _ => s.raise 72) hdue habut
      (State.actOf_of_only (State.raise_only ..) (by decide) _) (State.raise_get _ _ _ _ _ (by decide) (by decide))
    refine ⟨?_, fun h0 => (hone h0).1, hnext⟩
    rw [State.act_runs hdue _ _ habut, Raised, (State.actDone_only ..).1 .ev (by decide), (State.actBlank_only ..).1 .ev (by decide)]
    exact State.raise_raised _ (by decide)
  case firmwareSkipped =>
    intro entry due late hdue habut
    obtain ⟨hskip, -, hpend, hout⟩ := State.act_skipped hdue habut
    refine acts_of_live hp (Eq.refl (execActionFirmware t entry s)) ?_
    rw [State.clock_get] at hskip
    exact ⟨hskip, hpend, hout⟩
  case pulse =>
    intro x n hnext hdue henable
    have hcond : (decide (round32 n ≤ (s.clock t).time.now) && (s.clock t).flag P.TOUT_CFG_ENABLE x) = true := by
      rw [State.clock_flag, henable]
      exact Bool.and_eq_true_iff.2 ⟨decide_eq_true hdue, rfl⟩
    obtain ⟨hout, hcount, hsent⟩ := (s.clock t).toutPulse_spec x n ((s.clock t).get P.TOUT_WIDTH_WIDTH x)
    refine acts_of_live hp (Eq.refl (execToutPulse t x s)) ?_
    rw [State.clock_toutOf, hnext]
    dsimp only
    rw [if_pos hcond, State.modTout_same, hout, State.modTout_get, hcount, Emits, State.modTout_out, hsent]
    simp [State.clock_get, State.clock_toutPeriod]
  case pulseEnd =>
    intro x hlevel hstop
    have hcond : (((s.clock t).toutOf x).level && decide (((s.clock t).toutOf x).stop ≤ (s.clock t).time.now)) = true := by
      rw [State.clock_toutOf, hlevel]
      exact decide_eq_true hstop
    refine acts_of_live hp (Eq.refl (execToutPulseEnd t x s)) ?_
    dsimp only
    rw [if_pos hcond, State.toutOf_congr (State.drive_time ..), State.modTout_same]
    refine ⟨rfl, ?_⟩
    rw [Emits, State.drive_out, State.toutLevel, State.modTout_same, State.flag, State.modTout_get, State.clock_get, ← State.flag]
    simp
  case ppsRises =>
    intro hsec hset hen
    have hcond : ((s.clock t).time.now % secSt == 0 && (s.clock t).get P.TIME_STATUS_STATE 0 != 0 &&
        (s.clock t).flag P.PPS_CFG_OUT_EN 0) = true := by
      rw [State.clock_flag, hen, State.clock_get]
      simp only [Bool.and_eq_true, beq_iff_eq, bne_iff_ne]
      exact ⟨⟨hsec, hset⟩, trivial⟩
    refine acts_of_live hp (Eq.refl (execPpsOutEdge t s)) ?_
    dsimp only
    rw [if_pos hcond, State.drive_time, Emits, State.drive_out]
    exact ⟨rfl, rfl, by simp⟩
  case ppsFalls =>
    intro hout hstop
    have hcond : ((s.clock t).time.ppsOut && decide ((s.clock t).time.ppsStop ≤ (s.clock t).time.now)) = true :=
      Bool.and_eq_true_iff.2 ⟨hout, decide_eq_true hstop⟩
    refine acts_of_live hp (Eq.refl (execPpsOutFall t s)) ?_
    dsimp only
    rw [if_pos hcond, State.drive_time, Emits, State.drive_out]
    exact ⟨rfl, by simp⟩

end Sys2Proof.Machine

namespace Sys2Proof.Machine

open Sys2Proof

/-! ### What a raise leaves of the log's ring (R446, R449) -/

namespace State

theorem occurRate_segs (s : State) (code : Nat) : (s.occurRate code).1.recd.segs = s.recd.segs := by
  have hdrop : ((s.occurDrop code 0).bump P.REC_STATUS_DROPPED_RATE 0).recd.segs = s.recd.segs := by
    rw [State.bump_recd]
    rfl
  unfold State.occurRate
  extract_lets s1
  split <;> exact hdrop

theorem opened_segs (s : State) (code n : Nat) (b : Bucket) (staging : List LogRec) :
    (({ s.setBucket code b with recd := { (s.setBucket code b).recd with staging := staging, opened := true } } : State).put
      P.REC_NEXT_INDEX_INDEX 0 n).recd.segs = s.recd.segs := by
  rw [State.put_recd]
  rfl

/-- An occurrence enters staging, and not the ring (R446). -/
theorem occur_segs (s : State) (code severity : Nat) (detail : List Byte) :
    (s.occur code severity detail).1.recd.segs = s.recd.segs := by
  unfold State.occur
  split
  · rfl
  · split
    · rfl
    · split
      · exact occurRate_segs ..
      · split
        · rw [State.bump_recd]
          rfl
        · exact opened_segs ..

theorem recRaises_segs (s : State) (l : List Nat) : (s.recRaises l).recd.segs = s.recd.segs := by
  induction l generalizing s with
  | nil => rfl
  | cons n ns ih =>
    rw [State.recRaises, ih]
    split
    · rw [occur_segs, latch_recd]
    · rw [latch_recd]

theorem raise_segs (s : State) (n : Nat) : (s.raise n).recd.segs = s.recd.segs := by
  unfold State.raise
  dsimp only
  split
  · rw [recRaises_segs, occur_segs, latch_recd]
  · rw [latch_recd]

/-! ### The whole-device reset (R482 to R484) -/

section Held

variable (s : State) (cause rail : Nat)

/-- The start-up latch takes the cause and the rail (R495). -/
theorem keptFields_latch (old : State) {cause rail : Nat} (hc : cause < 8) (hr : rail < 16) :
    (s.keptFields old cause rail).get P.START_STATUS_CAUSE 0 = cause ∧ (s.keptFields old cause rail).get P.START_STATUS_RAIL 0 = rail := by
  unfold State.keptFields
  constructor
  · simp (disch := decide) only [State.get_put_apart]
    exact State.get_put_fits _ _ _ (by decide) hc
  · simp (disch := decide) only [State.get_put_apart]
    exact State.get_put_fits _ _ _ (by decide) hr

/-- What a whole-device reset starts from, before the start-up latch and the outputs (R483). -/
def heldBase : State :=
  { State.reset with
    regs := keptRegs s.regs, recd := s.keptLog, sec := s.keptSec, out := s.out, free := s.free, pending := s.pending,
    core := { CoreSt.reset with ks := 0 }, afe := { AfeSt.reset with pin0 := s.afe.pin0, pin1 := s.afe.pin1 },
    host := { HostSt.reset with grade := s.host.grade, stepping := s.host.stepping },
    pwr := { PwrSt.reset with por := true, porAt := s.time.now, shutdowns := s.pwr.shutdowns, uptimeBase := s.keystoneTime } }

theorem held_eq : s.held cause rail =
    { s.heldBase.keptFields s cause rail with out := resetOuts ++ (s.heldBase.keptFields s cause rail).out } := rfl

theorem held_only_base : Only [.out, .regs] [] s.heldBase (s.held cause rail) := by
  rw [held_eq]
  exact (Only.set_out (by decide)).2 ((State.keptFields_only ..).mono (by decide) (by decide))

theorem held_latch {cause rail : Nat} (hc : cause < 8) (hr : rail < 16) :
    (s.held cause rail).get P.START_STATUS_CAUSE 0 = cause ∧ (s.held cause rail).get P.START_STATUS_RAIL 0 = rail := by
  have hget (f : Fld) : (s.held cause rail).get f 0 = (s.heldBase.keptFields s cause rail).get f 0 :=
    State.get_congr (State.with_out_regs ..) f 0 0
  rw [hget, hget]
  exact State.keptFields_latch _ s hc hr

theorem held_core : (s.held cause rail).core = { CoreSt.reset with ks := 0 } := (held_only_base ..).1 .core (by decide)

theorem held_segs : (s.held cause rail).recd.segs = s.recd.segs := by
  rw [(held_only_base s cause rail).1 .recd (by decide)]
  rfl

theorem held_slot : (s.held cause rail).sec.slot = s.sec.slot := by
  rw [(held_only_base s cause rail).1 .sec (by decide)]
  rfl

theorem held_por : (s.held cause rail).pwr.por = true :=
  congrArg PwrSt.por ((held_only_base ..).1 .pwr (by decide))

/-- The outputs go low (R484). -/
theorem held_out : (s.held cause rail).out = resetOuts ++ s.out :=
  congrArg (resetOuts ++ ·) ((State.keptFields_only s.heldBase s cause rail).1 .out (by decide))

theorem held_emits {o : Out} (ho : o ∈ resetOuts) {u : State} (hu : u.out = (s.held cause rail).out) : Emits o s u := by
  rw [Emits, hu, held_out]
  simpa using ho

end Held

theorem with_pwr_get (s : State) (x : PwrSt) (f : Fld) (i w : Nat) : ({ s with pwr := x } : State).get f i w = s.get f i w :=
  State.get_congr rfl f i w

theorem hvset_mem_resetOuts (tile : Tile) : Out.hvset tile (hvWidths 0) ∈ resetOuts := by
  refine List.mem_append_right _ (List.mem_map.2 ⟨tile.val, ?_, rfl⟩)
  simp

/-- The rail as it stands in the latch fits it. -/
theorem startRail_lt (s : State) : s.startRail < 16 := Nat.mod_lt _ (by decide)

theorem porTake_pwr (s : State) : s.porTake.pwr = { (s.held 0 s.startRail).pwr with shutdowns := [] } := by
  unfold State.porTake
  rfl

theorem porTake_only_pwr (s : State) : Only [.pwr] [] (s.held 0 s.startRail) s.porTake := by
  unfold State.porTake
  exact (Only.set_pwr (by decide)).2 .refl

section StartUp

variable (s : State)

theorem startUp_pwr : s.startUp.pwr = { s.pwr with por := false, shutdownHeld := false } := by
  unfold State.startUp
  rw [(State.blankAll_only _).1 .pwr (by decide)]
  dsimp only
  split
  · rw [(State.raise_only ..).1 .pwr (by decide), State.putB_pwr]
  · rfl

theorem startUp_core : s.startUp.core = { s.core with ks := 1, bootAt := s.time.up } := by
  unfold State.startUp
  rw [(State.blankAll_only _).1 .core (by decide)]
  dsimp only
  split
  · rw [(State.raise_only ..).1 .core (by decide), State.putB_core]
  · rfl

theorem startUp_segs : s.startUp.recd.segs = s.recd.segs := by
  unfold State.startUp
  rw [(State.blankAll_only _).1 .recd (by decide)]
  dsimp only
  split
  · rw [raise_segs, State.putB_recd]
  · rfl

/-- Start-up leaves the start-up latch (R495). -/
theorem startUp_latch : s.startUp.get P.START_STATUS_CAUSE 0 = s.get P.START_STATUS_CAUSE 0 ∧
    s.startUp.get P.START_STATUS_RAIL 0 = s.get P.START_STATUS_RAIL 0 :=
  ⟨State.get_of_only s.startUp_only (by decide) _ _ _ (by decide) (by decide),
    State.get_of_only s.startUp_only (by decide) _ _ _ (by decide) (by decide)⟩

end StartUp

/-! ### The reference, the PLLs and the rails (R481, R485, R486) -/

theorem pierStart_releases (s : State) : (s.pierStart.pierOf 0).held = false ∧ (s.pierStart.pierOf 1).held = false := by
  have h : s.pierStart = (s.modPier 0 fun p => { p with held := false, resetAt := some s.time.up }).modPier 1 fun p =>
      { p with held := false, resetAt := some s.time.up } := rfl
  rw [h, State.modPier_ne _ (by decide), State.modPier_same, State.modPier_same]
  exact ⟨rfl, rfl⟩

/-- A clock that holds its frequency over keeps the sources that stand (R262). -/
theorem clockHold_keeps {s : State} {n : Nat} (h : Raised n s) : Raised n s.clockHold := by
  unfold State.clockHold
  split
  · exact h
  · exact State.raise_keeps _ _ (by rw [Raised, State.put_ev]; exact h)

/-- A clock that followed a parent holds over from now on; source 40 (R262). -/
theorem clockHold_holds {s : State} (h : s.get P.FAB_CLOCK_SOURCE 0 = 0) :
    s.clockHold.get P.FAB_CLOCK_SOURCE 0 = 2 ∧ Raised 40 s.clockHold := by
  have h2 : s.get P.FAB_CLOCK_SOURCE 0 ≠ 2 := by rw [h]; decide
  rw [State.clockHold, if_neg h2]
  exact ⟨(State.raise_get _ _ _ _ _ (by decide) (by decide)).trans (State.get_put_fits _ _ _ (by decide) (by decide)),
    State.raise_raised _ (by decide)⟩

theorem raiseIf_get (s : State) (b : Bool) (n : Nat) (f : Fld) (i w : Nat) (hf : f.pid / 4096 % 4096 = 0 ∧ f.pid % 4096 + w < 4096)
    (hr : f.pid + w ∉ [0x11000203, 0x11000204]) : (s.raiseIf b n).get f i w = s.get f i w :=
  State.get_of_only (s.raiseIf_only b n) (by decide) f i w hf hr

theorem raiseIf_raised (s : State) {b : Bool} {n : Nat} (hb : b = true) (hn : n < 256) : Raised n (s.raiseIf b n) := by
  rw [State.raiseIf, if_pos hb]
  exact State.raise_raised s hn

theorem raiseIf_keeps {s : State} {n : Nat} (b : Bool) (k : Nat) (h : Raised n s) : Raised n (s.raiseIf b k) := by
  unfold State.raiseIf
  split
  · exact State.raise_keeps _ k h
  · exact h

/-! ### The over-light line after a reset (R57, R484) -/

/-- A reported sum as the comparator has judged it (R57). -/
def lineJudged (s : State) (tile : Tile) (sum : Nat) : State := (s.modFe tile fun f => { f with sum := sum }).sumEval tile

theorem lineJudged_only (s : State) (tile : Tile) (sum : Nat) : Only [.afe] [] s (s.lineJudged tile sum) := by
  unfold lineJudged
  simp (disch := decide) only [Only.refl_iff, Only.step_iff (State.sumEval_only _ _), Only.step_iff (State.modFe_only _ _ _)]

theorem lineJudged_tripLimit (s : State) (tile : Tile) (sum : Nat) : (s.lineJudged tile sum).tripLimit tile = s.tripLimit tile := by
  rw [State.tripLimit, State.tripLimit, State.get_of_only (lineJudged_only ..) (by decide) _ _ _ (by decide) (by decide),
    State.get_of_only (lineJudged_only ..) (by decide) _ _ _ (by decide) (by decide)]

section OverlightRelease

variable {s : State} {t : Tm} {tile : Tile} {sum : Nat} (hlow : (s.fe tile).overlightN = false) (htrip : s.tripped tile = false)
  (hrail : (s.get P.RAIL_STATUS_OUT 0).testBit 8 = false) (hup : 100 * usSt ≤ s.time.up)
include hlow htrip hrail hup

/-- The conditions of R57 under which the line is judged again. -/
theorem overlight_judged : ((s.fe tile).overlightN || s.tripped tile || (s.get P.RAIL_STATUS_OUT 0).testBit 8 ||
    decide (s.time.up < 100 * usSt)) = false := by
  rw [hlow, htrip, hrail, decide_eq_false (not_lt.2 hup)]
  rfl

end OverlightRelease

/-! ### Temperature (R491) -/

/-- A temperature flag after a reading of `hot`, with the threshold `at_` (R491). -/
def thermalFlag (at_ hyst hot : Int) (was : Bool) : Bool := decide (at_ < hot) || (was && decide (at_ - hyst < hot))

/-- What a reading of `hot` leaves of the temperature flags, which were `warn` and `slow` (R491). -/
def thermalShown (s : State) (hot : Int) (warn slow warn' slow' : Bool) : State :=
  let s1 := (((s.put P.THERM_STATUS_TJ_MAX 0 (satSigned 16 hot)).putB P.THERM_STATUS_WARN 0 warn').raiseIf (warn' && !warn) 242).putB
    P.THERM_STATUS_THROTTLED 0 slow'
  (if slow' && !slow then s1.bump P.THERM_STATUS_THROTTLES 0 else s1).raiseIf (slow' != slow) 243

section Thermal

variable (s : State) (hot : Int) (warn slow warn' slow' : Bool)

/-- The count of throttlings leaves the other fields of its word. -/
theorem throttles_get (v : State) (c : Bool) (f : Fld) (ha : P.THERM_STATUS_THROTTLES.apart f = true)
    (hp : P.THERM_STATUS_THROTTLES.pid = f.pid) (hw : P.THERM_STATUS_THROTTLES.word = f.word) :
    (if c then v.bump P.THERM_STATUS_THROTTLES 0 else v).get f 0 = v.get f 0 := by
  split
  · exact State.get_put_apart _ _ _ _ _ _ (by decide) ha hp hw
  · rfl

theorem thermalShown_hot :
    (s.thermalShown hot warn slow warn' slow').get P.THERM_STATUS_TJ_MAX 0 = satSigned 16 hot % 2 ^ P.THERM_STATUS_TJ_MAX.width := by
  rw [thermalShown, raiseIf_get _ _ _ _ _ _ (by decide) (by decide), throttles_get _ _ _ (by decide) (by decide) (by decide), State.putB]
  simp (disch := decide) only [State.get_put_apart]
  rw [raiseIf_get _ _ _ _ _ _ (by decide) (by decide), State.putB]
  simp (disch := decide) only [State.get_put_apart]
  exact State.get_put_same _ _ _ _ _ (by decide)

theorem thermalShown_warn : (s.thermalShown hot warn slow warn' slow').flag P.THERM_STATUS_WARN 0 = warn' := by
  rw [State.flag, thermalShown, raiseIf_get _ _ _ _ _ _ (by decide) (by decide), throttles_get _ _ _ (by decide) (by decide) (by decide),
    State.putB]
  simp (disch := decide) only [State.get_put_apart]
  rw [raiseIf_get _ _ _ _ _ _ (by decide) (by decide)]
  exact State.flag_putB_same _ _ _ _ (by decide)

theorem thermalShown_throttled : (s.thermalShown hot warn slow warn' slow').flag P.THERM_STATUS_THROTTLED 0 = slow' := by
  rw [State.flag, thermalShown, raiseIf_get _ _ _ _ _ _ (by decide) (by decide), throttles_get _ _ _ (by decide) (by decide) (by decide)]
  exact State.flag_putB_same _ _ _ _ (by decide)

/-- Source 242 tells that the warning came (R491). -/
theorem thermalShown_warns (h : (warn' && !warn) = true) : Raised 242 (s.thermalShown hot warn slow warn' slow') := by
  refine raiseIf_keeps _ _ ?_
  have hraised : Raised 242 (((s.put P.THERM_STATUS_TJ_MAX 0 (satSigned 16 hot)).putB P.THERM_STATUS_WARN 0 warn').raiseIf
      (warn' && !warn) 242) := raiseIf_raised _ h (by decide)
  split
  · rw [Raised, State.bump_ev, State.putB_ev]
    exact hraised
  · rw [Raised, State.putB_ev]
    exact hraised

/-- Source 243 tells that the throttling changed (R491). -/
theorem thermalShown_throttles (h : (slow' != slow) = true) : Raised 243 (s.thermalShown hot warn slow warn' slow') :=
  raiseIf_raised _ h (by decide)

end Thermal

end State

/-- A reading shows the hottest sensor and what follows from it (R491). -/
theorem exec_thermalReading (s : State) (t : Tm) (sensor : Fin 17) (temp : Int) :
    exec (.thermalReading t sensor temp) s = live t s fun s =>
      ({ s with pwr := { s.pwr with sensors := Tbl.insert temp s.pwr.sensors sensor } } : State).thermalShown
        ((hottest (Tbl.insert temp s.pwr.sensors sensor)).getD temp)
        (s.flag P.THERM_STATUS_WARN 0) (s.flag P.THERM_STATUS_THROTTLED 0)
        (State.thermalFlag (10 * (s.get P.THERM_CFG_WARN_C 0 : Int)) (10 * (s.get P.THERM_CFG_HYST_K 0 : Int))
          ((hottest (Tbl.insert temp s.pwr.sensors sensor)).getD temp) (s.flag P.THERM_STATUS_WARN 0))
        (State.thermalFlag (10 * (s.get P.THERM_CFG_THROTTLE_C 0 : Int)) (10 * (s.get P.THERM_CFG_HYST_K 0 : Int))
          ((hottest (Tbl.insert temp s.pwr.sensors sensor)).getD temp) (s.flag P.THERM_STATUS_THROTTLED 0)) := rfl

theorem refKind_lt (count : Nat) : refKind count < 4 := by
  unfold refKind
  split
  · decide
  · split <;> decide

/-- A rail's bit in RAIL_STATUS after its reading changes (R481). -/
theorem testBit_rail (v : BitVec 9) (rail : Fin 9) (out : Bool) :
    (if out then v ||| BitVec.ofNat 9 (2 ^ rail.val) else v &&& ~~~ BitVec.ofNat 9 (2 ^ rail.val)).toNat.testBit rail = out := by
  have hbit : (BitVec.ofNat 9 (2 ^ rail.val)).getLsbD rail = true := by
    rw [BitVec.getLsbD_ofNat, Nat.testBit_two_pow_self, decide_eq_true rail.isLt]
    rfl
  rw [BitVec.testBit_toNat]
  cases out
  · rw [if_neg Bool.false_ne_true, BitVec.getLsbD_and, BitVec.getLsbD_not, hbit]
    simp
  · rw [if_pos rfl, BitVec.getLsbD_or, hbit, Bool.or_true]

/-! ### Temperature (R491) -/

/-- A saturated value of 16 bits reads back with its sign. -/
theorem sext_satSigned_mod (v : Int) :
    sext P.THERM_STATUS_TJ_MAX.width (satSigned 16 v % 2 ^ P.THERM_STATUS_TJ_MAX.width) = max (-32768) (min 32767 v) := by
  have hwidth : P.THERM_STATUS_TJ_MAX.width = 16 := rfl
  unfold sext satSigned unsgn
  rw [hwidth]
  norm_num
  split <;> omega

/-- Settles O44: the reset, the reference, the PLLs, the rails, the over-light release and the temperature, each by what its
operation leaves. -/
theorem powerCompletes : Obligations.PowerCompletes := by
  unfold Obligations.PowerCompletes
  intro s t hp
  refine ⟨?reset, ?glitch, ?known, ?changed, ?pll, ?corePll, ?rail, ?brown, ?released, ?trips, ?thermal, ?shutdown⟩
  case reset =>
    intro width p hwidth hpin
    have hlong : ¬ width < porIgnored := ((by decide : porIgnored ≤ porReset).trans hwidth).not_gt
    have hexec : exec (.porNAssert t width) s = .next (s.clock t).porTake := by
      simp only [exec, execPorNAssert, hp, Bool.false_eq_true, if_false, if_neg hlong, if_pos hwidth]
    have hlow (o : Out) (ho : o ∈ resetOuts) : Emits o s (s.clock t).porTake :=
      (s.clock t).held_emits 0 _ ho ((State.porTake_only_pwr _).1 .out (by decide))
    refine ⟨_, hexec, ?_, ?_, hlow _ ?_, fun tile => hlow _ ?_, ?_, ?_, rfl⟩
    · rw [State.porTake_pwr]
      exact (s.clock t).held_por 0 (s.clock t).startRail
    · rw [State.get_of_only (State.porTake_only_pwr _) (by decide) _ _ _ (by decide) (by decide)]
      exact (State.held_latch _ (by decide) (State.startRail_lt _)).1
    · exact List.mem_append_left _ (List.mem_map_of_mem hpin)
    · exact State.hvset_mem_resetOuts tile
    · rw [(State.porTake_only_pwr _).1 .recd (by decide), State.held_segs]
      rfl
    · rw [(State.porTake_only_pwr _).1 .sec (by decide), State.held_slot]
      rfl
  case glitch =>
    intro width hwidth
    refine ⟨s.clock t, ?_, rfl⟩
    simp only [exec, execPorNAssert, hp, Bool.false_eq_true, if_false, if_pos hwidth]
  case known =>
    intro count hwait hkind
    refine acts_of_live hp (Eq.refl (execClkrefClassify t count s)) ?_
    dsimp only
    rw [if_pos (show (s.clock t).pwr.refWait = true from hwait), if_neg hkind]
    refine ⟨?_, ?_, State.pierStart_releases _⟩
    · rw [(State.pierStart_only _).1 .pwr (by decide), State.put_pwr]
    · rw [State.get_of_only (State.pierStart_only _) (by decide) _ _ _ (by decide) (by decide)]
      exact State.get_put_fits _ _ _ (by decide) (refKind_lt count)
  case changed =>
    intro count hwait hkind
    have hkind' : ¬ (s.clock t).get P.START_STATUS_REF_KIND 0 = refKind count := by rwa [State.clock_get]
    refine acts_of_live hp (Eq.refl (execClkrefClassify t count s)) ?_
    dsimp only
    rw [if_neg (show ¬ (s.clock t).pwr.refWait = true by rw [show (s.clock t).pwr.refWait = false from hwait]; decide), if_neg hkind']
    have hraised : Raised 245 (((s.clock t).put P.START_STATUS_REF_KIND 0 (refKind count)).raise 245) := State.raise_raised _ (by decide)
    have href : (((s.clock t).put P.START_STATUS_REF_KIND 0 (refKind count)).raise 245).get P.START_STATUS_REF_KIND 0 = refKind count :=
      (State.raise_get _ _ _ _ _ (by decide) (by decide)).trans (State.get_put_fits _ _ _ (by decide) (refKind_lt count))
    have hsource : (((s.clock t).put P.START_STATUS_REF_KIND 0 (refKind count)).raise 245).get P.FAB_CLOCK_SOURCE 0 =
        s.get P.FAB_CLOCK_SOURCE 0 := by
      rw [State.raise_get _ _ _ _ _ (by decide) (by decide),
        State.get_put_par _ _ _ _ _ _ _ _ (by decide) (by decide) (by decide), State.clock_get]
    split
    · next hfollows =>
      refine ⟨?_, State.clockHold_keeps hraised, fun _ => State.clockHold_holds hfollows⟩
      rw [State.get_of_only (State.clockHold_only _) (by decide) _ _ _ (by decide) (by decide), href]
    · next hown =>
      rw [hsource] at hown
      exact ⟨href, hraised, fun h => absurd h hown⟩
  case pll =>
    intro pll href hcore
    have hready : ¬ ((pll.val < 2 ∧ (s.clock t).pwr.refWait = true) ∨
        ((pll.val = 2 ∨ pll.val = 3) ∧ (s.clock t).pwr.pll.getLsbD 1 = false)) := by
      rintro (⟨h, hw⟩ | ⟨h, hl⟩)
      · exact absurd ((href h).symm.trans hw) (by decide)
      · exact absurd ((hcore h).symm.trans hl) (by decide)
    have hlock : ((s.clock t).pwr.pll ||| BitVec.ofNat 5 (2 ^ pll.val)).getLsbD pll = true := by
      rw [BitVec.getLsbD_or, BitVec.getLsbD_ofNat, Nat.testBit_two_pow_self, decide_eq_true pll.isLt, Bool.and_true, Bool.or_true]
    refine acts_of_live hp (Eq.refl (execPllLock t pll s)) ?_
    dsimp only
    rw [if_neg hready]
    split
    · refine ⟨?_, fun _ => State.flag_putB_same _ _ _ _ (by decide)⟩
      rw [State.putB_pwr]
      exact hlock
    · next hne => exact ⟨hlock, fun h => absurd (congrArg Fin.val h) hne⟩
  case corePll =>
    refine acts_of_live hp (Eq.refl (execCorePllLockLoss t s)) ?_
    rw [State.restart, (State.startUp_latch _).1, State.startUp_pwr, State.startUp_core, State.startUp_segs, State.held_core,
      State.held_segs]
    exact ⟨(State.held_latch _ (by decide) (State.startRail_lt _)).1, rfl, rfl, rfl, rfl⟩
  case rail =>
    intro rail out
    have hwas : (BitVec.ofNat 9 ((s.clock t).get P.RAIL_STATUS_OUT 0)).getLsbD rail = (s.get P.RAIL_STATUS_OUT 0).testBit rail := by
      rw [BitVec.getLsbD_ofNat, decide_eq_true rail.isLt, Bool.true_and, State.clock_get]
    refine acts_of_live hp (Eq.refl (execRailOutOfTolerance t rail out s)) ?_
    dsimp only
    rw [hwas]
    refine ⟨fun hin hout => State.raiseIf_raised _ (by rw [hin, hout]; rfl) (by decide), ?_⟩
    rw [State.raiseIf_get _ _ _ _ _ _ (by decide) (by decide), State.get_put_fits _ _ _ (by decide) ?_]
    · exact testBit_rail _ rail out
    · exact BitVec.isLt _
  case brown =>
    intro rail
    obtain ⟨hcause, hrail⟩ := (s.clock t).held_latch (cause := 1) (rail := rail) (by decide) (by omega)
    refine acts_of_live hp (Eq.refl (execBrownOut t rail s)) ?_
    dsimp only
    rw [(State.startUp_latch _).1, (State.startUp_latch _).2, State.startUp_pwr, State.startUp_core,
      State.with_pwr_get _ _ P.START_STATUS_CAUSE, State.with_pwr_get _ _ P.START_STATUS_RAIL]
    refine ⟨hcause, hrail, rfl, ?_⟩
    exact congrArg CoreSt.holder (State.held_core (s.clock t) 1 rail)
  case released =>
    intro tile sum hlow htrip hrail hup hsum
    have hjudged := State.overlight_judged (s := s.clock t) hlow (by rwa [State.clock_tripped]) (by rwa [State.clock_get]) hup
    have hbelow : sum < ((s.clock t).lineJudged tile sum).tripLimit tile := by
      rwa [State.lineJudged_tripLimit, State.tripLimit, State.clock_get, State.clock_get]
    have hout : ((s.clock t).lineJudged tile sum).out = s.out := (State.lineJudged_only ..).1 .out (by decide)
    refine acts_of_live hp (Eq.refl (execOverlightRelease t tile sum s)) ?_
    rw [if_neg (by rw [hjudged]; decide), ← State.lineJudged]
    dsimp only
    rw [if_neg hbelow.not_gt, if_pos hbelow]
    refine ⟨?_, ?_, ?_⟩
    · rw [State.fe_congr (State.drive_afe ..), State.modFe_same]
    · rw [Emits, State.drive_out, State.modFe_out, hout]
      simp
    · rw [State.tripped, State.flag, State.drive_get, State.modFe_get,
        State.get_of_only (State.lineJudged_only ..) (by decide) _ _ _ (by decide) (by decide), State.clock_get]
      exact htrip
  case trips =>
    intro tile sum hlow htrip hrail hup hsum
    have hjudged := State.overlight_judged (s := s.clock t) hlow (by rwa [State.clock_tripped]) (by rwa [State.clock_get]) hup
    have habove : ((s.clock t).lineJudged tile sum).tripLimit tile < sum := by
      rwa [State.lineJudged_tripLimit, State.tripLimit, State.clock_get, State.clock_get]
    refine acts_of_live hp (Eq.refl (execOverlightRelease t tile sum s)) ?_
    rw [if_neg (by rw [hjudged]; decide), ← State.lineJudged]
    dsimp only
    rw [if_pos habove, State.trip_fe]
    refine ⟨(State.trip_status ..).1, rfl, ?_⟩
    rw [State.trip_eq]
    exact State.afterLatch_raises ..
  case thermal =>
    intro sensor temp hot hhot
    have hhot' : (hottest (Tbl.insert temp (s.clock t).pwr.sensors sensor)).getD temp = hot := congrArg (Option.getD · temp) hhot
    refine acts_of_live hp (exec_thermalReading s t sensor temp) ?_
    dsimp only
    rw [hhot', State.thermalShown_warn, State.thermalShown_throttled, State.int, State.thermalShown_hot]
    simp only [State.clock_get, State.clock_flag]
    refine ⟨sext_satSigned_mod hot, rfl, fun h h0 => State.thermalShown_warns _ _ _ _ _ _ ?_, rfl,
      fun h => State.thermalShown_throttles _ _ _ _ _ _ (bne_iff_ne.2 h)⟩
    rw [h, h0]
    rfl
  case shutdown =>
    obtain ⟨hcause, -⟩ := (s.clock t).held_latch (cause := 3) (by decide) (State.startRail_lt (s.clock t))
    refine acts_of_live hp (Eq.refl (execThermalShutdown t s)) ?_
    dsimp only
    rw [State.with_pwr_get _ _ P.START_STATUS_CAUSE, State.held_por, State.held_core]
    refine ⟨rfl, rfl, hcause, ?_, rfl⟩
    rw [List.length_append]
    rfl

end Sys2Proof.Machine

namespace Sys2Proof.Machine

open Sys2Proof

/-! ### Instances that an operation leaves alone -/

/-- Two numbers of instances differ as the indices of parameters do. -/
theorem index_apart {n : Nat} (hn : n ≤ 4096) {i j : Fin n} (h : j ≠ i) : i.val % 4096 ≠ j.val % 4096 := by
  have := Fin.val_ne_of_ne h
  omega

namespace State

section Visit

variable (s : State) (tile : Tile) (i : Nat)

theorem visitOver_get (f : Fld) (j : Nat) (hf : f.pid / 4096 % 4096 = 0 ∧ f.pid % 4096 + 0 < 4096)
    (hr : f.pid + 0 ∉ [0x0F000102, 0x0F000103]) : (s.visitOver tile i).get f j = s.get f j := by
  rw [visitOver, State.get_of_only (State.maintEnd_only ..) (by decide) _ _ _ hf hr, State.modFe_get]

theorem visitOver_alone : TileAlone tile s (s.visitOver tile i) :=
  (TileAlone.modFe ..).trans (.of_only (State.maintEnd_only ..) (by decide))

/-- A visit's result is its channel's alone (R46). -/
theorem visitGiven_ne (ire iim : Int) {j : Nat} (h : (16 * tile.val + i) % 4096 ≠ j % 4096) :
    (s.visitGiven tile i ire iim).get P.IMP_C_CAP j = s.get P.IMP_C_CAP j ∧
      (s.visitGiven tile i ire iim).get P.IMP_RES_RES j = s.get P.IMP_RES_RES j := by
  unfold visitGiven State.putB
  constructor
  · rw [State.get_put_inst _ _ _ _ _ _ _ _ (by decide) (by decide) h, State.get_put_inst _ _ _ _ _ _ _ _ (by decide) (by decide) h,
      State.get_put_inst _ _ _ _ _ _ _ _ (by decide) (by decide) h, visitOver_get _ _ _ _ _ (by decide) (by decide)]
  · rw [State.get_put_inst _ _ _ _ _ _ _ _ (by decide) (by decide) h, State.get_put_inst _ _ _ _ _ _ _ _ (by decide) (by decide) h,
      State.get_put_inst _ _ _ _ _ _ _ _ (by decide) (by decide) h, visitOver_get _ _ _ _ _ (by decide) (by decide)]

end Visit

/-- A channel that comes back is the only one that joins the queue of returns (R51). -/
theorem channelRestore_ne (s : State) {ch c : Ch} (h : c ≠ ch) :
    (s.channelRestore ch).flag P.CH_STATUS_BROKEN c = s.flag P.CH_STATUS_BROKEN c ∧
      (c.val ∈ (s.channelRestore ch).afe.back → c.val ∈ s.afe.back) := by
  unfold State.channelRestore
  split
  · dsimp only
    refine ⟨?_, fun hc => ?_⟩
    · rw [State.flag, State.with_afe_get, State.putB,
        State.get_put_inst _ _ _ _ _ _ _ _ (by decide) (by decide) (index_apart (by decide) h), ← State.flag]
    · rw [State.putB_afe] at hc
      simpa [Fin.val_ne_of_ne h] using hc
  · exact ⟨rfl, id⟩

/-! ### Trips (R57 to R60) -/

theorem applyTrims_alone (s : State) (t : Nat) : TileAlone t s (s.applyTrims t) := by
  have hcodes : TileAlone t s (s.each (channelsOf t) fun s c =>
      (s.put P.TRIM_NOW_CODE c (s.trimCode c)).putB P.CH_STATUS_TRIM_CLAMPED c (s.trimSum c < 0 || 4095 < s.trimSum c)) :=
    State.each_keeps (fun u c hu => hu.trans (.of_afe (by rw [State.putB_afe, State.put_afe]))) _ .refl
  unfold State.applyTrims
  dsimp only
  split
  · exact .refl
  · split
    · exact hcodes.trans (.settleAt ..)
    · exact hcodes

theorem tripFreed_alone (s : State) (t : Tile) : TileAlone t s (s.tripFreed t) := by
  have hafe : ((s.putB P.TRIP_STATUS_TRIPPED t false).putB P.LOOP_STATUS_TRIP_HELD t false).afe = s.afe := by
    rw [State.putB_afe, State.putB_afe]
  exact (TileAlone.of_afe hafe).trans ((TileAlone.modFe ..).trans (.of_afe (State.drive_afe ..)))

/-- A cleared trip is its tile's alone (R59). -/
theorem tripClear_ne (s : State) {t j : Tile} (h : j ≠ t) : (s.tripClear t).tripped j = s.tripped j ∧
    (s.tripClear t).fe j = s.fe j ∧ (s.tripClear t).flag P.LOOP_STATUS_TRIP_HELD j = s.flag P.LOOP_STATUS_TRIP_HELD j := by
  have hinst := index_apart (by decide) h
  rw [tripClear_eq]
  refine ⟨?_, ((tripFreed_alone ..).trans (applyTrims_alone ..)).2 _ (Fin.val_ne_of_ne h), ?_⟩
  · rw [State.tripped, State.tripped, State.flag_of_only (State.applyTrims_only ..) (by decide) _ _ _ (by decide) (by decide), State.flag,
      tripFreed, State.drive_get, State.modFe_get, State.putB, State.putB,
      State.get_put_inst _ _ _ _ _ _ _ _ (by decide) (by decide) hinst, State.get_put_inst _ _ _ _ _ _ _ _ (by decide) (by decide) hinst,
      ← State.flag]
  · rw [State.flag_of_only (State.applyTrims_only ..) (by decide) _ _ _ (by decide) (by decide), State.flag,
      tripFreed, State.drive_get, State.modFe_get, State.putB, State.putB,
      State.get_put_inst _ _ _ _ _ _ _ _ (by decide) (by decide) hinst, State.get_put_inst _ _ _ _ _ _ _ _ (by decide) (by decide) hinst,
      ← State.flag]

/-! ### Housekeeping (R79, R148) -/

section Housekeeping

variable (s : State) {t j : Nat} (h : j ≠ t)
include h

theorem settleAt_hk_ne (at_ : Tm) (n : Nat) : (s.settleAt t at_ n).hk j = s.hk j := by
  unfold State.settleAt
  dsimp only
  split
  · exact State.hk_congr (State.modFe_dig ..) j
  · split
    · split
      · rw [State.hk_congr (State.bump_dig ..), State.modHk_ne _ h, State.hk_congr (State.modFe_dig ..)]
      · exact State.hk_congr (State.modFe_dig ..) j
    · exact State.hk_congr (State.modFe_dig ..) j

theorem rampTo_hk_ne : (s.rampTo t).hk j = s.hk j := by
  unfold State.rampTo
  dsimp only
  split
  · split
    · rw [settleAt_hk_ne _ h, State.hk_congr (State.modFe_dig ..)]
    · rfl
  · rfl

theorem hkStart_hk_ne (entry input avg shift : Nat) (loop : Option Tm) : (s.hkStart t entry input avg shift loop).hk j = s.hk j :=
  State.modHk_ne _ h _

/-! ### Loops (R135, R137, R138) -/

theorem loopTemp_lp_ne : (s.loopTemp t).lp j = s.lp j := by
  unfold State.loopTemp
  split
  · rw [State.modLp_ne _ h, State.lp_congr (State.putB_loop ..)]
  · rw [State.lp_of_only (State.raiseIf_only ..) (by decide), State.lp_congr (State.putB_loop ..)]
  · rfl

theorem loopCur_lp_ne : (s.loopCur t).lp j = s.lp j := by
  unfold State.loopCur
  dsimp only
  split
  · rw [State.modLp_ne _ h, State.lp_congr (State.putB_loop ..), State.lp_congr (State.put_loop ..)]
  · exact State.lp_congr (State.put_loop ..) j

end Housekeeping

theorem with_freeAt_lp (s : State) (x : Tm) (j : Nat) :
    ({ s with loop := { s.loop with freeAt := x } } : State).lp j = s.lp j := rfl

/-! ### Outputs and entries of the action table (R327, R330) -/

theorem toutPulse_ne (s : State) {x j : Fin 8} (due : Tm) (width : Nat) (h : j ≠ x) : (s.toutPulse x due width).toutOf j = s.toutOf j ∧
    (s.toutPulse x due width).get P.TOUT_STATUS_PULSES j = s.get P.TOUT_STATUS_PULSES j := by
  unfold State.toutPulse
  dsimp only
  constructor
  · rw [State.toutOf_congr (State.drive_time ..), State.toutOf_congr (State.bump_time ..), State.modTout_ne _ (Fin.val_ne_of_ne h)]
  · rw [State.drive_get, State.bump, State.get_put_inst _ _ _ _ _ _ _ _ (by decide) (by decide) (index_apart (by decide) h),
      State.modTout_get]

end State

/-- From `s` to `u` every entry of the action table but `i` stays, with its KIND and its STATE. -/
def EntryAlone (i : Fin 64) (s u : State) : Prop :=
  ∀ j : Fin 64, j ≠ i → u.actOf j = s.actOf j ∧ u.get P.ACT_CFG_KIND j = s.get P.ACT_CFG_KIND j ∧
    u.get P.ACT_STATUS_STATE j = s.get P.ACT_STATUS_STATE j

namespace EntryAlone

variable {i : Fin 64} {s u v : State}

theorem refl : EntryAlone i s s := fun _ _ => ⟨rfl, rfl, rfl⟩

theorem trans (h : EntryAlone i s u) (k : EntryAlone i u v) : EntryAlone i s v := fun j hj =>
  ⟨(k j hj).1.trans (h j hj).1, (k j hj).2.1.trans (h j hj).2.1, (k j hj).2.2.trans (h j hj).2.2⟩

theorem of_only {ps : List Part} {rs : List Nat} (h : Only ps rs s u) (ht : Part.time ∉ ps) (hp : Part.regs ∉ ps)
    (hc : P.ACT_CFG_KIND.pid + 0 ∉ rs) (hs : P.ACT_STATUS_STATE.pid + 0 ∉ rs) : EntryAlone i s u := fun j _ =>
  ⟨State.actOf_of_only h ht j, State.get_of_only h hp _ _ _ (by decide) hc, State.get_of_only h hp _ _ _ (by decide) hs⟩

theorem put (s : State) (i : Fin 64) (f : Fld) (x : Nat) (hf : f.pid / 4096 % 4096 = 0 ∧ f.pid % 4096 + 0 < 4096) :
    EntryAlone i s (s.put f i x) := fun j hj =>
  ⟨State.actOf_congr (State.put_time ..) j, State.get_put_inst _ _ _ _ _ _ _ _ hf (by decide) (index_apart (by decide) hj),
    State.get_put_inst _ _ _ _ _ _ _ _ hf (by decide) (index_apart (by decide) hj)⟩

theorem modAct (s : State) (i : Fin 64) (f : ActSt → ActSt) : EntryAlone i s (s.modAct i f) := fun _ hj =>
  ⟨State.modAct_ne _ (Fin.val_ne_of_ne hj) _, State.modAct_get .., State.modAct_get ..⟩

theorem putWord (s : State) (i : Fin 64) (x : W64) : EntryAlone i s (s.putWord P.ACT_CFG_KIND i x) := fun j hj => by
  have hinst := index_apart (by decide) hj
  have hid (f : Fld) (hf : f.pid / 4096 % 4096 = 0 ∧ f.pid % 4096 + 0 < 4096) : f.id j 0 ≠ P.ACT_CFG_KIND.id i 0 := by
    have : P.ACT_CFG_KIND.pid = 0x0C000202 := rfl
    unfold Fld.id
    omega
  exact ⟨State.actOf_congr (State.putWord_time ..) j, State.get_putWord_ne _ _ _ _ (hid _ (by decide)),
    State.get_putWord_ne _ _ _ _ (hid _ (by decide))⟩

theorem runLate (s : State) (i : Fin 64) (due b : Tm) : EntryAlone i s (s.runLate i due b) := by
  have hlate (v : State) : EntryAlone i v (((v.bump P.ACT_COUNTS_LATE 0).raise 71).log 0x0C01 2 (le 2 i)) := by
    have honly : Only [.ev, .recd, .core, .out] [0x0C00030E, 0x11000203, 0x11000204] v
        (((v.bump P.ACT_COUNTS_LATE 0).raise 71).log 0x0C01 2 (le 2 i)) := by
      simp (disch := decide) only [Only.refl_iff, Only.bump_iff, Only.step_iff (State.raise_only _ _), Only.step_iff (State.log_only _ _ _ _)]
    exact of_only honly (by decide) (by decide) (by decide) (by decide)
  unfold State.runLate
  exact (((modAct _ _ _).trans (put _ _ _ _ (by decide))).trans (put _ _ _ _ (by decide))).trans (hlate _)

/-- An arming write is its entry's alone (R330). -/
theorem armEntry (s : State) (i : Fin 64) (value : Nat) : EntryAlone i s (s.armEntry i value).1 := by
  unfold State.armEntry
  extract_lets kind w s1 due late s2 s3
  have h1 : EntryAlone i s s1 := putWord _ _ _
  have h2 : EntryAlone i s s2 :=
    ((h1.trans (put _ _ _ _ (by decide))).trans (put _ _ _ _ (by decide))).trans (put _ _ _ _ (by decide))
  have h3 : EntryAlone i s s3 := h2.trans (modAct _ _ _)
  split
  · exact refl
  · split
    · exact ((put _ _ P.ACT_STATUS_STATE _ (by decide)).trans (modAct _ _ _)).trans (putWord _ _ _)
    · split
      · exact refl
      · split
        · exact refl
        · dsimp only
          split
          · exact h3.trans (runLate _ _ _ _)
          · exact h3

end EntryAlone

namespace State

/-! ### Edges (R86, R101) -/

theorem edgeNoted_alone (s : State) {ch c : Ch} (h : c ≠ ch) : (s.edgeNoted ch).td c = s.td c ∧ (s.edgeNoted ch).feCh c = s.feCh c ∧
    (s.edgeNoted ch).pair c = s.pair c := by
  have hv := Fin.val_ne_of_ne h
  refine ⟨?_, ?_, edgeNoted_pair ..⟩
  · rw [edgeNoted, State.modTd_ne _ hv, State.td_congr (State.modFeCh_tdc ..)]
  · rw [edgeNoted, State.feCh_congr (State.modTd_afe ..), State.modFeCh_ne _ hv]

end State

/-- A leading edge is its channel's alone (R86, R88). -/
theorem exec_leadingEdge_alone {s : State} (t : Tm) (ch : Ch) (code : BitVec 12) (hp : s.pwr.por = false) :
    Acts (.leadingEdge t ⟨ch, code⟩) s fun u => ∀ c : Ch, c ≠ ch → u.td c = s.td c ∧ u.feCh c = s.feCh c ∧ u.pair c = s.pair c := by
  by_cases hon : s.flag P.FAST_CFG_ENABLE ch = true ∧ s.abut = false
  case neg =>
    refine ⟨_, exec_leadingEdge_off code hp (by simpa [imp_iff_not_or] using hon), fun c hc => ?_⟩
    exact ⟨State.td_congr (State.modFeCh_tdc ..) _, State.modFeCh_ne _ (Fin.val_ne_of_ne hc) _, State.pair_congr (State.modFeCh_tdc ..) _⟩
  case pos =>
    obtain ⟨henable, habut⟩ := hon
    by_cases hlast : ((s.td ch).last.all fun l => decide (l + 3072 ≤ s.instant t)) = true
    · refine ⟨_, exec_leadingEdge_new code hp henable habut hlast, fun c hc => ?_⟩
      obtain ⟨htd, hfe, hpair⟩ := (s.clock t).edgeNoted_alone hc
      have hv := Fin.val_ne_of_ne hc
      obtain ⟨ktd, kpair, kfe⟩ := (((s.clock t).edgeNoted ch).pairEdge ch code.toNat).1.hitNew_alone ch
        (((s.clock t).edgeNoted ch).pairEdge ch code.toNat).2
      refine ⟨(ktd c hv).trans ?_, (kfe c).trans ?_, (kpair c).trans ?_⟩
      · exact htd
      · exact hfe
      · rw [State.pairEdge, State.modPair_ne _ hv]
        exact hpair
    · obtain ⟨l, hl, hclose⟩ : ∃ l, (s.td ch).last = some l ∧ s.instant t < l + 3072 := by
        simpa [Option.all_eq_true] using hlast
      refine ⟨_, exec_leadingEdge_merged code hp henable habut hl hclose, fun c hc => ?_⟩
      obtain ⟨htd, hfe, hpair⟩ := (s.clock t).edgeNoted_alone hc
      have hv := Fin.val_ne_of_ne hc
      rw [State.td_congr (State.bump_tdc ..), State.feCh_congr (State.bump_afe ..), State.pair_congr (State.bump_tdc ..),
        State.modTd_ne _ hv, State.modTd_pair, State.modPair_ne _ hv]
      exact ⟨htd, hfe, hpair⟩

theorem State.setNonce_ne (s : State) {m j : Nat} (x : Option Nonce) (h : j ≠ m) : (s.setNonce m x).nonceOf j = s.nonceOf j :=
  Tbl.get_set_ne none none x s.sec.nonce h

/-- What a reading shows leaves the readings themselves (R491). -/
theorem State.thermalShown_pwr (s : State) (hot : Int) (warn slow warn' slow' : Bool) :
    (s.thermalShown hot warn slow warn' slow').pwr = s.pwr := by
  have honly : Only [.ev, .recd, .out] [0x0F000404, 0x11000203, 0x11000204] s (s.thermalShown hot warn slow warn' slow') := by
    unfold State.thermalShown
    simp (disch := decide) only [Only.refl_iff, Only.put_iff, Only.putB_iff, Only.bump_iff, Only.ite_iff,
      Only.step_iff (State.raiseIf_only _ _ _), implies_true, and_self]
  exact honly.1 .pwr (by decide)

/-- A visit's result is its channel's alone, and its tile's front end (R46 to R48). -/
theorem exec_visitResult_alone {s : State} (t : Tm) (tile : Tile) {i : Nat} (ire iim : Int) (half1 half2 : Nat) (hp : s.pwr.por = false)
    (hvisit : (s.fe tile).visit = some i) (hi : i < 16) : Acts (.impedanceVisitResult t tile ire iim half1 half2) s fun u =>
      (∀ c : Ch, c.val ≠ 16 * tile.val + i → u.get P.IMP_C_CAP c = s.get P.IMP_C_CAP c ∧ u.get P.IMP_RES_RES c = s.get P.IMP_RES_RES c) ∧
      (∀ j : Tile, j ≠ tile → u.fe j = s.fe j) := by
  have hvisit' : ((s.clock t).fe tile).visit = some i := hvisit
  by_cases hdue : (s.core.run.any fun a =>
      a.code == 0 && a.unit == 16 * tile.val + i && decide (a.since + visitLen ≤ s.instant t)) = true
  case neg =>
    refine ⟨s.clock t, ?_, fun c _ => ⟨State.clock_get .., State.clock_get ..⟩, fun j _ => rfl⟩
    simp only [exec, execImpedanceVisitResult, live_of hp, hvisit']
    exact congrArg Host.Outcome.next (if_neg hdue)
  case pos =>
    have happart (c : Ch) (hc : c.val ≠ 16 * tile.val + i) : (16 * tile.val + i) % 4096 ≠ c.val % 4096 := by
      have := c.isLt
      have := tile.isLt
      omega
    cases hhalves : halvesDiffer half1 half2 with
    | false =>
      refine ⟨_, exec_visitResult_agree ire iim hp hvisit hdue hhalves, fun c hc => ?_, fun j hj => ?_⟩
      · rw [State.get_of_only (State.impAct_only ..) (by decide) _ _ _ (by decide) (by decide),
          State.get_of_only (State.impAct_only ..) (by decide) _ _ _ (by decide) (by decide)]
        obtain ⟨hcap, hres⟩ := (s.clock t).visitGiven_ne tile i ire iim (happart c hc)
        exact ⟨hcap.trans (State.clock_get ..), hres.trans (State.clock_get ..)⟩
      · rw [State.impAct_fe_ne _ _ _ (Fin.val_ne_of_ne hj), State.fe_congr (State.visitGiven_afe ..)]
        exact (State.visitOver_alone ..).2 _ (Fin.val_ne_of_ne hj)
    | true =>
      refine ⟨_, exec_visitResult_differ ire iim hp hvisit hdue hhalves, fun c _ => ?_, fun j hj => ?_⟩
      · have hget (f : Fld) (hf : f.pid / 4096 % 4096 = 0 ∧ f.pid % 4096 + 0 < 4096)
            (hr : f.pid + 0 ∉ [0x0F000102, 0x0F000103]) (hne : f.pid + 0 ≠ P.CH_STATUS_IMP_INVALID.pid + 0) :
            ((((s.clock t).visitOver tile i).putB P.CH_STATUS_IMP_INVALID (16 * tile + i) true).modFe tile fun f =>
              { f with queue := i :: f.queue.filter (· != i) }).get f c = s.get f c := by
          rw [State.modFe_get, State.putB, State.get_put_par _ _ _ _ _ _ _ _ (by decide) hf hne, State.visitOver_get _ _ _ _ _ hf hr,
            State.clock_get]
        exact ⟨hget _ (by decide) (by decide) (by decide), hget _ (by decide) (by decide) (by decide)⟩
      · rw [State.modFe_ne _ (Fin.val_ne_of_ne hj), State.fe_congr (State.putB_afe ..)]
        exact (State.visitOver_alone ..).2 _ (Fin.val_ne_of_ne hj)

/-- From `s` to `u` every lane but `l` stays (R291). -/
def LaneAlone (l : Lane) (s u : State) : Prop := ∀ j : Lane, j ≠ l → u.laneState j = s.laneState j ∧ u.laneOf j = s.laneOf j

namespace LaneAlone

theorem trans {l : Lane} {s u v : State} (h : LaneAlone l s u) (k : LaneAlone l u v) : LaneAlone l s v := fun j hj =>
  ⟨(k j hj).1.trans (h j hj).1, (k j hj).2.trans (h j hj).2⟩

theorem put (s : State) (l : Lane) (f : Fld) (x : Nat) (hf : f.pid / 4096 % 4096 = 0 ∧ f.pid % 4096 + 0 < 4096) :
    LaneAlone l s (s.put f l x) := fun j hj => by
  refine ⟨State.get_put_inst _ _ _ _ _ _ _ _ hf (by decide) (index_apart (by decide) hj), ?_⟩
  rw [State.laneOf, State.put_lane]
  rfl

end LaneAlone

/-- Settles O55: each command by what its operation leaves of the other instances. -/
theorem instancesStayApart : Obligations.InstancesStayApart := by
  unfold Obligations.InstancesStayApart
  intro s t hp
  refine ⟨?visit, ?restore, ?limit, ?clear, ?entry, ?edge, ?gauge, ?pulse, ?arm, ?loop, ?bell, ?notify, ?lock, ?mbBell, ?nonce, ?sensor⟩
  case visit =>
    exact fun tile i ire iim half1 half2 hvisit hi => exec_visitResult_alone t tile ire iim half1 half2 hp hvisit hi
  case restore =>
    intro ch
    refine acts_of_live hp (Eq.refl (execChannelRestore t ch s)) fun c hc => ?_
    rw [← State.clock_flag s t]
    exact (s.clock t).channelRestore_ne hc
  case limit =>
    intro tile limit
    refine acts_of_live hp (Eq.refl (execTripLimitWrite t tile limit s)) ?_
    split
    · exact ⟨fun j _ => ⟨State.clock_get .., rfl⟩, fun j => State.clock_get ..⟩
    · refine ⟨fun j hj => ⟨?_, ?_⟩, fun j => ?_⟩
      · rw [State.sumEval, State.modFe_get, State.get_put_inst _ _ _ _ _ _ _ _ (by decide) (by decide) (index_apart (by decide) hj),
          State.clock_get]
      · rw [State.sumEval, State.modFe_ne _ (Fin.val_ne_of_ne hj), State.fe_congr (State.put_afe ..), State.clock_fe]
      · rw [State.sumEval, State.modFe_get, State.get_put_par _ _ _ _ _ _ _ _ (by decide) (by decide) (by decide), State.clock_get]
  case clear =>
    intro tile
    refine acts_of_live hp (Eq.refl (execTripClear t tile s)) fun j hj => ?_
    rw [← State.clock_tripped s t, ← State.clock_fe s t, ← State.clock_flag s t]
    split
    · exact (s.clock t).tripClear_ne hj
    · exact ⟨rfl, rfl, rfl⟩
  case entry =>
    intro tile
    refine acts_of_live hp (Eq.refl (execHkEntryStart t tile s)) fun j hj => ?_
    have hv := Fin.val_ne_of_ne hj
    have hramp : ((s.clock t).rampTo tile).hk j = s.hk j := (s.clock t).rampTo_hk_ne hv
    dsimp only
    split
    · exact hramp
    · split
      · split
        · rw [State.modHk_ne _ hv, State.hk_congr (State.bump_dig ..), hramp]
        · split
          · rw [State.hkStart_hk_ne _ hv, State.modHk_ne _ hv, hramp]
          · exact hramp
      · exact hramp
  case edge =>
    intro ch code
    exact exec_leadingEdge_alone t ch code hp
  case gauge =>
    intro g rising code
    refine acts_of_live hp (Eq.refl (execGaugeEdge t ⟨g, rising, code⟩ s)) ?_
    dsimp only
    split
    · exact ⟨fun _ _ => rfl, fun _ => ⟨rfl, rfl⟩⟩
    · split
      · exact ⟨fun j hj => State.modGauge_ne _ (Fin.val_ne_of_ne hj) _, fun _ => ⟨rfl, rfl⟩⟩
      · refine ⟨fun j hj => ?_, fun c => ⟨?_, ?_⟩⟩
        · exact State.modGauge_ne _ (Fin.val_ne_of_ne hj) _
        · rfl
        · have hpin : c.val ≠ 256 + g.val := by omega
          rw [State.modGauge_pair]
          exact State.modPair_ne _ hpin _
  case pulse =>
    intro x
    refine acts_of_live hp (Eq.refl (execToutPulse t x s)) fun j hj => ?_
    split
    · split
      · obtain ⟨hout, hcount⟩ := (s.clock t).toutPulse_ne ‹_› ((s.clock t).get P.TOUT_WIDTH_WIDTH x) hj
        rw [State.modTout_ne _ (Fin.val_ne_of_ne hj), State.modTout_get, hout, hcount]
        exact ⟨rfl, State.clock_get ..⟩
      · exact ⟨rfl, State.clock_get ..⟩
    · exact ⟨rfl, State.clock_get ..⟩
  case arm =>
    intro entry value
    have hclock : EntryAlone entry s (s.clock t) := fun j _ => ⟨rfl, State.clock_get .., State.clock_get ..⟩
    refine acts_of_live hp (Eq.refl (execActCfgArm t entry value s)) ?_
    split
    · exact hclock.trans (EntryAlone.armEntry _ _ _)
    · exact hclock.trans (.of_only (State.deny_only _) (by decide) (by decide) (by decide) (by decide))
  case loop =>
    intro tile
    refine acts_of_live hp (Eq.refl (execLoopCompute t tile s)) fun j hj => ?_
    have hv := Fin.val_ne_of_ne hj
    dsimp only
    split
    · split
      · rfl
      · exact (State.with_freeAt_lp ..).trans ((State.modLp_ne _ hv _).trans ((State.loopCur_lp_ne _ hv).trans (State.loopTemp_lp_ne _ hv)))
    · rfl
  case bell =>
    intro ctx prod
    refine acts_of_live hp (Eq.refl (execCtxDoorbellWrite t ctx prod s)) fun j hj => ?_
    unfold State.ctxDoorbell
    split
    · rw [State.ctxOf, State.raise_ctx]
      rfl
    · exact State.modCtx_ne _ (Fin.val_ne_of_ne hj) _
  case notify =>
    intro ctx
    exact acts_of_live hp (Eq.refl (execCtxNotifyArm t ctx s)) fun j hj => State.modCtx_ne _ (Fin.val_ne_of_ne hj) _
  case lock =>
    intro lane
    have hclock : LaneAlone lane s (s.clock t) := fun l _ => ⟨State.clock_get .., rfl⟩
    refine acts_of_live hp (Eq.refl (execLaneBlockLock t lane s)) ?_
    split
    · exact hclock
    · split
      · exact (hclock.trans (.put _ _ _ _ (by decide))).trans (.put _ _ _ _ (by decide))
      · split
        · exact hclock.trans (.put _ _ _ _ (by decide))
        · exact hclock
  case mbBell =>
    intro mb prod
    exact acts_of_live hp (Eq.refl (execMbDoorbellWrite t mb prod s)) fun j hj => State.modMb_ne _ (Fin.val_ne_of_ne hj) _
  case nonce =>
    intro mb
    refine acts_of_live hp (Eq.refl (execNonceExpire t mb s)) fun j hj => ?_
    split
    · split
      · exact (s.clock t).setNonce_ne _ (Fin.val_ne_of_ne hj)
      · rfl
    · rfl
  case sensor =>
    intro sensor temp
    refine acts_of_live hp (exec_thermalReading s t sensor temp) fun j hj => ?_
    rw [State.thermalShown_pwr]
    exact Tbl.get_insert_ne _ _ _ (Fin.val_ne_of_ne hj)

end Sys2Proof.Machine

namespace Sys2Proof.Machine

open Sys2Proof

/-! ### The words of a state right after reset -/

/-- Right after reset nothing is written: a field of a parameter outside the three families of `resetWord` reads from the word of
its parameter's map at every index. -/
theorem State.reset_get (f : Fld) (i : Nat) {v : Nat} (hf : f.pid / 4096 % 4096 = 0 ∧ f.pid % 4096 + 0 < 4096)
    (hplain : f.pid < 0x02000140 ∨ (0x02000160 ≤ f.pid ∧ f.pid ≠ 0x07000001 ∧ f.pid ≠ 0x11000001))
    (hv : f.of (BitVec.ofNat 64 f.word) = v) : State.reset.get f i = v := by
  have hbase : f.id i 0 / 16777216 * 16777216 + f.id i 0 % 4096 = f.pid := by
    unfold Fld.id
    omega
  have hword : resetWord (f.id i 0) f.word = BitVec.ofNat 64 f.word := by
    rw [resetWord, hbase, if_neg (by omega), if_neg (by omega), if_neg (by omega)]
  rw [← hv, ← hword]
  rfl

theorem State.reset_flag (f : Fld) (i : Nat) {b : Bool} (hf : f.pid / 4096 % 4096 = 0 ∧ f.pid % 4096 + 0 < 4096)
    (hplain : f.pid < 0x02000140 ∨ (0x02000160 ≤ f.pid ∧ f.pid ≠ 0x07000001 ∧ f.pid ≠ 0x11000001))
    (hv : (f.of (BitVec.ofNat 64 f.word) != 0) = b) : State.reset.flag f i = b := by
  rw [State.flag, State.reset_get f i hf hplain rfl, hv]

/-- Settles O51: the queue, the memories and the tables are empty, and every parameter reads its reset word. -/
theorem resetState : Obligations.ResetState := by
  unfold Obligations.ResetState
  refine ⟨rfl, rfl, rfl, ⟨rfl, rfl⟩, rfl, rfl, rfl, rfl, rfl, rfl, ?time, fun _ => ⟨rfl, rfl⟩, fun tile => ⟨rfl, ?tripped⟩,
    fun ch => ⟨?trim, ?peaking⟩, ?blankMax, ?period, ?jump, ?avg, ?ppm, ?width, fun ch => ⟨?floor, ?chop⟩⟩
  case tripped => exact State.reset_flag _ _ (by decide) (by decide) (by decide)
  case chop => exact State.reset_flag _ _ (by decide) (by decide) (by decide)
  all_goals exact State.reset_get _ _ (by decide) (by decide) (by decide)

end Sys2Proof.Machine

namespace Sys2Proof.Machine

open Sys2Proof

/-! ### The housekeeping converter (R78 to R83) -/

namespace State

theorem clock_stretchFrom (s : State) (t : Tm) : (s.clock t).stretchFrom = s.stretchFrom := rfl

theorem hkEdge_congr {s u : State} (h : u.dig.grid = s.dig.grid) (t : Tm) : u.hkEdge t = s.hkEdge t := by
  unfold State.hkEdge
  rw [h]

theorem modHk_hkEdge (s : State) (i : Nat) (f : HkTile → HkTile) (t : Tm) : (s.modHk i f).hkEdge t = s.hkEdge t := rfl

/-- A change of the trims may restart the conversion in progress, and touches nothing else of the converter (R148). -/
theorem settleAt_dig (s : State) (t : Nat) (at_ : Tm) (n : Nat) : ∃ r, (s.settleAt t at_ n).hk t = { s.hk t with run := r } ∧
    (r = none ↔ (s.hk t).run = none) ∧ (s.settleAt t at_ n).dig.grid = s.dig.grid := by
  have hkept (v : State) (hv : v.dig = s.dig) : ∃ r, v.hk t = { s.hk t with run := r } ∧
      (r = none ↔ (s.hk t).run = none) ∧ v.dig.grid = s.dig.grid := ⟨_, State.hk_congr hv t, Iff.rfl, congrArg DigSt.grid hv⟩
  unfold State.settleAt
  extract_lets s1
  have hs1 : s1.dig = s.dig := State.modFe_dig ..
  split
  · exact hkept _ hs1
  · split
    · next c hrun =>
      split
      · rw [State.hk_congr (State.bump_dig ..), State.bump_dig, State.modHk_same, State.hk_congr hs1]
        rw [State.hk_congr hs1] at hrun
        exact ⟨_, rfl, by simp [hrun], (congrArg DigSt.grid hs1 : s1.dig.grid = s.dig.grid)⟩
      · exact hkept _ hs1
    · exact hkept _ hs1

/-- Nor does a ramp that is brought up to now (R58, R148). -/
theorem rampTo_dig (s : State) (t : Nat) : ∃ r, (s.rampTo t).hk t = { s.hk t with run := r } ∧
    (r = none ↔ (s.hk t).run = none) ∧ (s.rampTo t).dig.grid = s.dig.grid := by
  unfold State.rampTo
  dsimp only
  split
  · split
    · exact settleAt_dig ..
    · exact ⟨_, rfl, Iff.rfl, rfl⟩
  · exact ⟨_, rfl, Iff.rfl, rfl⟩

@[simp] theorem rampTo_time (s : State) (t : Nat) : (s.rampTo t).time = s.time := (s.rampTo_only t).1 .time (by decide)
@[simp] theorem rampTo_ctx (s : State) (t : Nat) : (s.rampTo t).ctx = s.ctx := (s.rampTo_only t).1 .ctx (by decide)
@[simp] theorem rampTo_loop (s : State) (t : Nat) : (s.rampTo t).loop = s.loop := (s.rampTo_only t).1 .loop (by decide)

theorem rampTo_get (s : State) (t : Nat) (f : Fld) (i : Nat) (hf : f.pid / 4096 % 4096 = 0 ∧ f.pid % 4096 + 0 < 4096)
    (hr : f.pid + 0 ∉ [0x05000116]) : (s.rampTo t).get f i = s.get f i :=
  State.get_of_only (s.rampTo_only t) (by decide) f i 0 hf hr

/-- The loop's requests of a pass are counted by its times alone (R137). -/
theorem rampTo_loopRemaining (s : State) (t : Nat) : (s.rampTo t).loopRemaining t = s.loopRemaining t := by
  obtain ⟨r, hhk, -, -⟩ := s.rampTo_dig t
  unfold State.loopRemaining State.flag
  rw [hhk, rampTo_time, rampTo_loop, rampTo_get _ _ _ _ (by decide) (by decide)]

/-- A conversion that starts takes its first sample at the first edge at or after now and the end of the one before (R79). -/
theorem hkStart_runs (s : State) (t entry input avg shift : Nat) (loop : Option Tm) : ∃ c,
    (s.hkStart t entry input avg shift loop).hk t = { s.hk t with run := some c } ∧
      (c.entry, c.input, c.avg, c.shift, c.loop) = (entry, input, avg, shift, loop) ∧
      c.first = s.hkEdge (max s.time.now (s.hk t).lastEnd) := by
  unfold State.hkStart
  exact ⟨_, State.modHk_same .., rfl, rfl⟩

/-- A free converter takes the oldest waiting urgent request (R79, R82). -/
theorem hkNext_takes {s : State} {t : Nat} {u : Urg} {us : List Urg} (hrun : (s.hk t).run = none) (hurgent : (s.hk t).urgent = u :: us) :
    ∃ c, (s.hkNext t).hk t = { s.hk t with urgent := us, run := some c } ∧
      (c.entry, c.input, c.avg, c.shift, c.loop) = (255, u.input, u.avg, u.shift, u.loop) := by
  obtain ⟨c, hhk, hc, -⟩ := hkStart_runs (s.modHk t fun h => { h with urgent := us }) t 255 u.input u.avg u.shift u.loop
  rw [State.modHk_same] at hhk
  refine ⟨c, ?_, hc⟩
  unfold State.hkNext
  rw [hrun, hurgent]
  dsimp only
  rw [State.hkPending, State.hk_congr (State.put_dig ..), hhk]

/-- A busy converter goes on with its conversion. -/
theorem hkNext_busy {s : State} {t : Nat} (h : (s.hk t).run ≠ none) : s.hkNext t = s := by
  obtain ⟨c, hc⟩ := Option.ne_none_iff_exists'.1 h
  unfold State.hkNext
  rw [hc]

theorem hkNext_asked (s : State) (t : Nat) : ((s.hkNext t).hk t).asked = (s.hk t).asked := by
  by_cases hrun : (s.hk t).run = none
  · cases hurgent : (s.hk t).urgent with
    | nil => simp [State.hkNext, hrun, hurgent]
    | cons u us =>
      obtain ⟨c, hhk, -⟩ := hkNext_takes hrun hurgent
      rw [hhk]
  · rw [hkNext_busy hrun]

/-- The count of waiting requests leaves the other counts of its word. -/
theorem hkPending_get (s : State) (t : Nat) (f : Fld) (h : P.HK_STATUS_URGENT_PENDING.apart f = true)
    (hp : P.HK_STATUS_URGENT_PENDING.pid = f.pid) (hw : P.HK_STATUS_URGENT_PENDING.word = f.word) :
    (s.hkPending t).get f t = s.get f t := State.get_put_apart _ _ _ _ _ _ (by decide) h hp hw

theorem hkNext_get (s : State) (t : Nat) (f : Fld) (h : P.HK_STATUS_URGENT_PENDING.apart f = true)
    (hp : P.HK_STATUS_URGENT_PENDING.pid = f.pid) (hw : P.HK_STATUS_URGENT_PENDING.word = f.word) :
    (s.hkNext t).get f t = s.get f t := by
  unfold State.hkNext
  split
  · rw [hkPending_get _ _ _ h hp hw, State.hkStart, State.modHk_get, State.modHk_get]
  · rfl

section Urgent

variable (s : State) (t input avg shift : Nat)

/-- A request of which there are too many in the pass only counts (R82, R137). -/
theorem urgent_refused (h : 16 < (s.hk t).asked + 1 + s.loopRemaining t) :
    (s.urgent t input avg shift none).1 = s.bump P.HK_STATUS_URGENT_REFUSED t := by
  simp [State.urgent, h]

/-- The waiting requests of a converter with one more, which is counted in the pass (R82). -/
def urgentQueued : State :=
  (s.modHk t fun h => { h with urgent := h.urgent ++ [⟨input, avg, shift, none⟩], asked := h.asked + 1 }).hkPending t

theorem urgentQueued_hk : (s.urgentQueued t input avg shift).hk t =
    { s.hk t with urgent := (s.hk t).urgent ++ [⟨input, avg, shift, none⟩], asked := (s.hk t).asked + 1 } :=
  (State.hk_congr (State.put_dig ..) t).trans (State.modHk_same ..)

/-- Any other joins the queue, and the converter goes on (R82). -/
theorem urgent_accepted (h : (s.hk t).asked + 1 + s.loopRemaining t ≤ 16) :
    (s.urgent t input avg shift none).1 = (s.urgentQueued t input avg shift).hkNext t := by
  simp [State.urgent, h.not_gt, urgentQueued]

/-- On a busy converter a request that joins waits; on a free one that nothing waits for it starts at once (R79, R82). -/
theorem urgentQueued_next : (((s.urgentQueued t input avg shift).hkNext t).hk t).asked = (s.hk t).asked + 1 ∧
    ((s.hk t).run ≠ none → ((s.urgentQueued t input avg shift).hkNext t).hk t = (s.urgentQueued t input avg shift).hk t) ∧
    ((s.hk t).run = none → (s.hk t).urgent = [] → (((s.urgentQueued t input avg shift).hkNext t).hk t).urgent = [] ∧
      (((s.urgentQueued t input avg shift).hkNext t).hk t).run.map (fun c => (c.entry, c.input, c.avg, c.shift, c.loop)) =
        some (255, input, avg, shift, none)) ∧
    ((s.urgentQueued t input avg shift).hkNext t).get P.HK_STATUS_URGENT_REFUSED t = s.get P.HK_STATUS_URGENT_REFUSED t := by
  have hhk := s.urgentQueued_hk t input avg shift
  refine ⟨by rw [hkNext_asked, hhk], fun hbusy => ?_, fun hfree hempty => ?_, ?_⟩
  · rw [hkNext_busy (by rw [hhk]; exact hbusy)]
  · obtain ⟨c, hnext, hc⟩ := hkNext_takes (s := s.urgentQueued t input avg shift) (t := t) (u := ⟨input, avg, shift, none⟩) (us := [])
      (by rw [hhk]; exact hfree) (by rw [hhk, hempty]; rfl)
    rw [hnext]
    exact ⟨rfl, congrArg some hc⟩
  · rw [hkNext_get _ _ _ (by decide) (by decide) (by decide), urgentQueued,
      hkPending_get _ _ _ (by decide) (by decide) (by decide), State.modHk_get]

end Urgent

/-- A completed channel current shows in CUR_NOW and FLOOR_PART (R41, R42). -/
theorem slowResult_shows (s : State) (t : Nat) (c : Conv) (result floor : Nat) :
    (s.slowResult t c result floor).get P.CUR_NOW_CURRENT (16 * t + c.input) = satTo 32 (slowPa c.range c.avg c.shift result) ∧
      (s.slowResult t c result floor).flag P.CH_STATUS_FLOOR_PART (16 * t + c.input) = (floor == 1) := by
  unfold State.slowResult
  extract_lets ch pa s1 s2 s3 s4
  have h1 : s1.get P.CUR_NOW_CURRENT ch = pa ∧ s1.flag P.CH_STATUS_FLOOR_PART ch = (floor == 1) := by
    refine ⟨?_, State.flag_putB_same _ _ _ _ (by decide)⟩
    rw [show s1 = (s.put P.CUR_NOW_CURRENT ch pa).putB P.CH_STATUS_FLOOR_PART ch (floor == 1) from rfl, State.putB,
      State.get_put_par _ _ _ _ _ _ _ _ (by decide) (by decide) (by decide)]
    exact State.get_put_fits _ _ _ (by decide) (satTo_lt ..)
  have h3 (f : Fld) : s3.get f ch = s1.get f ch := by
    simp only [s3, s2]
    split <;> simp
  have h4 (f : Fld) (hf : f.pid / 4096 % 4096 = 0 ∧ f.pid % 4096 + 0 < 4096) (hr : f.pid + 0 ∉ [0x11000203, 0x11000204]) :
      s4.get f ch = (s3.putB P.CH_STATUS_BREAK_SUSPECT ch true).get f ch := State.raise_get _ _ _ _ _ hf hr
  split
  · rw [State.flag, State.modFe_get, State.modFe_get, h4 _ (by decide) (by decide), h4 _ (by decide) (by decide), State.putB,
      State.get_put_par _ _ _ _ _ _ _ _ (by decide) (by decide) (by decide),
      State.get_put_apart _ _ _ _ _ _ (by decide) (by decide) (by decide) (by decide), h3, h3]
    exact h1
  · rw [State.flag, h3, h3]
    exact h1

/-- The padding of a record's body stands behind what was given for it. -/
theorem take_pad8 {bs : List Byte} {n : Nat} (h : n ≤ bs.length) : (pad8 bs).take n = bs.take n :=
  List.take_append_of_le_length h

/-- The result of a conversion stands in HK_RESULT, and a channel current where its readers look (R83, R139). -/
def converted (s : State) (t : Nat) (c : Conv) (result floor : Nat) : State :=
  if c.input < 16 then (s.put P.HK_RESULT_RESULT t result (c.input % 24)).slowResult t c result floor
  else s.put P.HK_RESULT_RESULT t result (c.input % 24)

section Converted

variable (s : State) (t : Nat) (c : Conv) (result floor : Nat)

theorem converted_parts : (s.converted t c result floor).dig = s.dig ∧ (s.converted t c result floor).ctx = s.ctx := by
  unfold converted
  split
  · rw [(State.slowResult_only ..).1 .dig (by decide), (State.slowResult_only ..).1 .ctx (by decide), State.put_dig, State.put_ctx]
    exact ⟨rfl, rfl⟩
  · exact ⟨State.put_dig .., State.put_ctx ..⟩

theorem converted_result : (s.converted t c result floor).get P.HK_RESULT_RESULT t (c.input % 24) = result % 2 ^ 24 := by
  have hin : c.input % 24 < 24 := Nat.mod_lt _ (by decide)
  have hput : (s.put P.HK_RESULT_RESULT t result (c.input % 24)).get P.HK_RESULT_RESULT t (c.input % 24) = result % 2 ^ 24 :=
    State.get_put_same _ _ _ _ _ (by decide)
  unfold converted
  split
  · rw [State.get_of_only (State.slowResult_only ..) (by decide) _ _ _ ?_ ?_, hput] <;> simp [P.HK_RESULT_RESULT] <;> omega
  · exact hput

theorem converted_current (h : c.input < 16) :
    (s.converted t c result floor).get P.CUR_NOW_CURRENT (16 * t + c.input) = satTo 32 (slowPa c.range c.avg c.shift result) ∧
      (s.converted t c result floor).flag P.CH_STATUS_FLOOR_PART (16 * t + c.input) = (floor == 1) := by
  rw [converted, if_pos h]
  exact slowResult_shows ..

end Converted

/-- A conversion that has ended is noted in its converter, exported, and followed by the next (R79, R82, R83). -/
def conversionOver (s : State) (t : Nat) (f : HkTile → HkTile) (r : Rec) : State := ((s.modHk t f).monEmit r).hkNext t

section Over

variable (s : State) (t : Nat) (f : HkTile → HkTile) (r : Rec)

theorem conversionOver_get (g : Fld) (i w : Nat) (hg : g.pid / 4096 % 4096 = 0 ∧ g.pid % 4096 + w < 4096)
    (hr : g.pid + w ∉ [0x02000107, 0x08000015, 0x08000203, 0x11000203, 0x11000204]) :
    (s.conversionOver t f r).get g i w = s.get g i w := by
  have honly : Only [.ev, .recd, .dig, .ctx, .out] [0x02000107, 0x08000015, 0x08000203, 0x11000203, 0x11000204] s
      (s.conversionOver t f r) := by
    unfold conversionOver
    simp (disch := decide) only [Only.refl_iff, Only.step_iff (State.modHk_only _ _ _), Only.step_iff (State.monEmit_only _ _),
      Only.step_iff (State.hkNext_only _ _)]
  exact State.get_of_only honly (by decide) g i w hg hr

/-- The record stands last in the monitoring stream. -/
theorem conversionOver_mon : (s.conversionOver t f r).ctx.mon.getLast? = some ⟨s.ctx.monEnd, r, false⟩ := by
  rw [conversionOver, (State.hkNext_only ..).1 .ctx (by decide), (State.monEmit_last ..).2, State.modHk_ctx]

theorem conversionOver_next (h : (f (s.hk t)).run = none) :
    ((s.conversionOver t f r).hk t).lastEnd = (f (s.hk t)).lastEnd ∧
      (((s.conversionOver t f r).hk t).run.map fun d => (d.entry, d.input)) = ((f (s.hk t)).urgent.head?.map fun d => (255, d.input)) := by
  have hhk : ((s.modHk t f).monEmit r).hk t = f (s.hk t) := by
    rw [State.hk_of_only (State.monEmit_only ..) (by decide), State.modHk_same]
  obtain ⟨hrun, hend, -, -⟩ := hkNext_free ((congrArg HkTile.run hhk).trans h)
  rw [hhk] at hrun hend
  exact ⟨hend, hrun⟩

end Over

end State

/-- The converter after a conversion (R79, R137, R138). -/
def HkTile.ended (h : HkTile) (c : Conv) (result : Nat) (period : Option Tm) : HkTile :=
  { h with
    run := none, lastEnd := c.stop,
    temp := if c.input = 17 then some (result * 2 ^ c.shift * 256 / 2 ^ c.avg) else h.temp,
    hv := if c.input = 18 && c.loop.isSome && c.loop == period then some (result * 2 ^ c.shift * 256 / 2 ^ c.avg, c.stop) else h.hv }

/-- A conversion whose last sample is taken gives its result, its record and the converter's next conversion (R79, R83). -/
theorem exec_hkConversionComplete {s v : State} {t : Tm} {tile : Tile} {c : Conv} {sum result : Nat} (sumQ low high : Nat)
    (hp : s.pwr.por = false) (hv : (s.clock t).rampTo tile = v) (hrun : (v.hk tile).run = some c) (hfrozen : c.frozenAt = none)
    (hstop : c.stop ≤ s.instant t) (hresult : sum / 2 ^ c.shift % 2 ^ 24 = result) : ∃ resultQ floor,
    exec (.hkConversionComplete t tile sum sumQ ⟨low, high⟩) s = .next ((v.converted tile c result floor).conversionOver tile
      (fun h => h.ended c result v.loop.start) (v.hkRecord tile c result resultQ floor)) ∧
      (c.input < 16 → floor = floorOf low high (1000 * v.get P.FLOOR_FLOOR_NA (16 * tile.val + c.input))) := by
  have hcond : ¬((c.frozenAt.isSome || decide (v.time.now < c.stop)) = true) := by
    rw [← hv, State.rampTo_time, State.clock_instant, hfrozen, decide_eq_false hstop.not_gt]
    exact Bool.false_ne_true
  refine ⟨if c.input = 22 then sumQ / 2 ^ c.shift % 2 ^ 24 else 0,
    if c.input < 16 then floorOf low high (1000 * v.get P.FLOOR_FLOOR_NA (16 * tile.val + c.input)) else 3, ?_, fun h => if_pos h⟩
  subst hv hresult
  simp only [exec, execHkConversionComplete, live_of hp, hrun]
  exact congrArg Host.Outcome.next (if_neg hcond)

/-- A request for an input that may be averaged so is judged once the ramp is brought up to now (R80, R82). -/
theorem exec_hkUrgentRequest {s : State} (t : Tm) {tile : Tile} {input : Fin 24} {avg : Fin 8} (shift : Fin 9) (hp : s.pwr.por = false)
    (hinput : ¬(input.val = 22 ∧ avg.val = 7)) (habut : s.abut = false) : exec (.hkUrgentRequest t tile input avg shift) s =
      .next (((s.clock t).rampTo tile).urgent tile input (avg + 1) shift none).1 := by
  have hcond : ¬(input.val = 22 ∧ avg.val = 7 ∨ (s.clock t).abut = true) := by
    rw [State.clock_abut, habut]
    simpa using hinput
  simp only [exec, execHkUrgentRequest, live_of hp]
  exact congrArg Host.Outcome.next (if_neg hcond)

/-- Settles O4: a pass, an entry, a request and a finished conversion, each by what its operation leaves of the converter. -/
theorem housekeepingCompletes : Obligations.HousekeepingCompletes := by
  unfold Obligations.HousekeepingCompletes
  intro s t hp
  refine ⟨?pass, ?entry, ?accepted, ?refused, ?finished⟩
  case pass =>
    intro tile p hpass hnew hstretch habut
    have hcond : ¬(((s.hk tile).passAt = some p || decide (p < s.stretchFrom) || s.abut) = true) := by
      simp [hnew, hstretch, habut]
    refine acts_of_live hp (Eq.refl (execHkPassStart t tile s)) ?_
    dsimp only
    rw [State.clock_hk, State.clock_get, State.clock_instant, hpass, State.clock_abut, State.clock_stretchFrom, if_neg hcond,
      State.modHk_same, State.modHk_get, State.get_bump_same _ _ _ _ (by decide), State.clock_get]
    exact ⟨rfl, rfl, rfl, rfl, fun e => by simp [HkTile.entryWord, upTo, State.clock], rfl⟩
  case entry =>
    intro tile p e hpass hnext he hrun hurgent hdue hroom
    obtain ⟨r, hhk, hr, hgrid⟩ := (s.clock t).rampTo_dig tile
    obtain rfl := hr.2 hrun
    have hkept : ((s.clock t).rampTo tile).hk tile = s.hk tile := by rw [hhk, State.clock_hk, ← hrun]
    have hedge (x : Tm) : ((s.clock t).rampTo tile).hkEdge x = s.hkEdge x := State.hkEdge_congr hgrid x
    have hstretch : ((s.clock t).rampTo tile).stretchFrom = s.stretchFrom := by rw [State.stretchFrom, State.rampTo_time]; rfl
    have hfree : (decide (e < 32) && (s.hk tile).run.isNone && (s.hk tile).urgent.isEmpty) = true := by simp [he, hrun, hurgent]
    refine acts_of_live hp (Eq.refl (execHkEntryStart t tile s)) ?_
    dsimp only
    rw [hkept, hpass]
    dsimp only
    rw [hnext, hstretch, State.rampTo_time, State.clock_instant, max_eq_right hdue, hedge, if_pos hfree, if_neg hroom.not_ge, if_pos hdue]
    set v := ((s.clock t).rampTo tile).modHk tile fun h => { h with entry := e + 1 }
    have hv : v.hk tile = { s.hk tile with entry := e + 1 } := by rw [← hkept]; exact State.modHk_same ..
    obtain ⟨c, hstart, hc, hfirst⟩ := v.hkStart_runs tile e (P.HK_SEQ_INPUT.of ((s.hk tile).entryWord e))
      (P.HK_SEQ_AVG.of ((s.hk tile).entryWord e) + 1) (P.HK_SEQ_SHIFT.of ((s.hk tile).entryWord e)) none
    obtain ⟨hentry, hinput, havg, hshift, -⟩ : c.entry = _ ∧ c.input = _ ∧ c.avg = _ ∧ c.shift = _ ∧ c.loop = _ := by simpa using hc
    rw [hv, State.modHk_time, State.rampTo_time, State.clock_instant, State.modHk_hkEdge, hedge] at hfirst
    rw [hstart, hv, State.hkStart, State.modHk_get, State.modHk_get, State.rampTo_get _ _ _ _ (by decide) (by decide), State.clock_get]
    exact ⟨rfl, by rw [Option.map_some, hentry, hinput, havg, hshift, hfirst], rfl⟩
  case accepted =>
    intro tile input avg shift hinput habut hroom
    obtain ⟨r, hhk, hr, -⟩ := (s.clock t).rampTo_dig tile
    obtain ⟨hasked, hbusy, hfree, hrefused⟩ := ((s.clock t).rampTo tile).urgentQueued_next tile input (avg + 1) shift
    have hroom' : (((s.clock t).rampTo tile).hk tile).asked + 1 + ((s.clock t).rampTo tile).loopRemaining tile ≤ 16 := by
      rw [State.rampTo_loopRemaining, hhk]
      exact hroom
    refine ⟨_, exec_hkUrgentRequest t shift hp hinput habut, ?_⟩
    rw [State.urgent_accepted _ _ _ _ _ hroom']
    refine ⟨by rw [hasked, hhk]; rfl, fun h => ?_, fun h hempty => hfree (by rw [hhk]; exact hr.2 h) (by rw [hhk]; exact hempty), ?_⟩
    · rw [hbusy (by rw [hhk]; exact fun hn => h (hr.1 hn)), State.urgentQueued_hk]
      exact ⟨by rw [hhk]; rfl, rfl⟩
    · rw [hrefused, State.rampTo_get _ _ _ _ (by decide) (by decide), State.clock_get]
  case refused =>
    intro tile input avg shift hinput habut hroom
    obtain ⟨r, hhk, -, -⟩ := (s.clock t).rampTo_dig tile
    refine ⟨_, exec_hkUrgentRequest t shift hp hinput habut, ?_⟩
    rw [State.urgent_refused _ _ _ _ _ (by rw [State.rampTo_loopRemaining, hhk]; exact hroom)]
    dsimp only
    rw [State.hk_congr (State.bump_dig ..), State.get_bump_same _ _ _ _ (by decide), State.rampTo_get _ _ _ _ (by decide) (by decide),
      State.clock_get]
    exact ⟨rfl, rfl⟩
  case finished =>
    intro tile c sum sumQ low high hrun hfrozen hstop
    obtain ⟨resultQ, floor, hexec, hfloor⟩ := exec_hkConversionComplete (sum := sum) sumQ low high hp rfl hrun hfrozen hstop rfl
    set result := sum / 2 ^ c.shift % 2 ^ 24
    obtain ⟨r, hhk, -, -⟩ := (s.clock t).rampTo_dig tile
    set v := (s.clock t).rampTo tile
    have htime : v.time = (s.clock t).time := State.rampTo_time ..
    have hend : ((v.converted tile c result floor).hk tile).ended c result v.loop.start = ((s.hk tile).ended c result v.loop.start) := by
      rw [State.hk_congr (State.converted_parts ..).1, hhk]
      rfl
    obtain ⟨hlast, hnext⟩ := State.conversionOver_next (v.converted tile c result floor) tile
      (fun h => h.ended c result v.loop.start) (v.hkRecord tile c result resultQ floor) rfl
    have hmon := State.conversionOver_mon (v.converted tile c result floor) tile
      (fun h => h.ended c result v.loop.start) (v.hkRecord tile c result resultQ floor)
    rw [(State.converted_parts ..).2, show v.ctx = s.ctx from State.rampTo_ctx ..] at hmon
    refine ⟨_, hexec, ?_, ?_, ?_, fun hin => ?_, fun hin => ?_, ?_, ?_⟩
    · have hin : c.input % 24 < 24 := Nat.mod_lt _ (by decide)
      rw [State.conversionOver_get _ _ _ _ _ _ _ ?_ ?_, State.converted_result, Nat.mod_mod] <;> simp [P.HK_RESULT_RESULT] <;> omega
    · rw [hlast]
      rfl
    · rw [hnext, hend]
      rfl
    · rw [State.conversionOver_get _ _ _ _ _ _ _ (by decide) (by decide), (State.converted_current _ _ _ _ _ hin).1]
    · rw [State.flag, State.conversionOver_get _ _ _ _ _ _ _ (by decide) (by decide), ← State.flag,
        (State.converted_current _ _ _ _ _ hin).2, hfloor hin, State.rampTo_get _ _ _ _ (by decide) (by decide), State.clock_get]
    · rw [hmon, ← State.stampAt_congr htime]
      rfl
    · rw [hmon]
      refine congrArg some ?_
      exact State.take_pad8 (by simp [le])

end Sys2Proof.Machine

namespace Sys2Proof.Machine

open Sys2Proof

/-! ### Spare-slice rotation (R71 to R77) -/

/-- A fit of the spare sets the spare's coefficients, and no channel's (R66, R71). -/
theorem State.sliceFit_spare_get (s : State) (t : Nat) (offset gain lowOffset lowGain : Int) (f : Fld) (i : Nat) :
    (s.sliceFit t 16 offset gain lowOffset lowGain).get f i = s.get f i := by
  rw [State.sliceFit, if_pos rfl, State.modRot_get, State.modRot_get]

/-- Tile 0 calibrates a slice in CHANNEL_CAL while STEP names the spare, as no rotation does (R74, R77). -/
def spareInChannelCal : State := (State.reset.put P.ROT_STATUS_STATE 0 3).put P.ROT_STATUS_STEP 0 16

theorem spareInChannelCal_state : spareInChannelCal.get P.ROT_STATUS_STATE 0 = 3 := by
  rw [spareInChannelCal, State.get_put_apart _ _ _ _ _ _ (by decide) (by decide) (by decide) (by decide)]
  exact State.get_put_fits _ _ _ (by decide) (by decide)

theorem spareInChannelCal_step : spareInChannelCal.get P.ROT_STATUS_STEP 0 = 16 := State.get_put_fits _ _ _ (by decide) (by decide)

/-- No offset has been fitted yet. -/
theorem spareInChannelCal_offset (i : Nat) : spareInChannelCal.get P.SLICE_CORR_OFFSET i = 0 := by
  rw [spareInChannelCal, State.get_put_par _ _ _ _ _ _ _ _ (by decide) (by decide) (by decide),
    State.get_put_par _ _ _ _ _ _ _ _ (by decide) (by decide) (by decide)]
  exact State.reset_get _ _ (by decide) (by decide) (by decide)

/-- Its calibration began at the zero of the time base, and ends after T_cal (R71). -/
theorem spareInChannelCal_ended : (spareInChannelCal.rot 0).since + calLen ≤ spareInChannelCal.instant calLen :=
  (Nat.zero_add calLen).le.trans (le_max_right ..)

/-- A good calibration of the spare there sets no SLICE_CORR word. -/
theorem calibrate_spareInChannelCal (offset : Int) : Acts (.sliceCalibrationComplete calLen 0 16 ⟨offset, 0⟩ ⟨0, 0⟩ 0 ⟨0, 0⟩)
    spareInChannelCal fun u => ∀ i, u.get P.SLICE_CORR_OFFSET i = 0 := by
  have hstate : (spareInChannelCal.clock calLen).get P.ROT_STATUS_STATE ((0 : Tile) : Nat) = 3 :=
    (State.clock_get ..).trans spareInChannelCal_state
  have hstep : ((16 : Fin 17) : Nat) = (spareInChannelCal.clock calLen).get P.ROT_STATUS_STEP ((0 : Tile) : Nat) :=
    ((State.clock_get ..).trans spareInChannelCal_step).symm
  have hended : (!decide (((spareInChannelCal.clock calLen).rot ((0 : Tile) : Nat)).since + calLen ≤
      (spareInChannelCal.clock calLen).time.now)) = false := congrArg not (decide_eq_true spareInChannelCal_ended)
  refine acts_of_live rfl (Eq.refl (execSliceCalibrationComplete calLen 0 16 ⟨offset, 0⟩ ⟨0, 0⟩ 0 ⟨0, 0⟩ spareInChannelCal)) fun i => ?_
  dsimp only
  rw [if_pos ⟨hstate, hstep⟩, hended, if_neg Bool.false_ne_true, if_pos (by decide), State.modRot_get,
    State.get_put_par _ _ _ _ _ _ _ _ (by decide) (by decide) (by decide)]
  exact (State.sliceFit_spare_get ..).trans ((State.clock_get ..).trans (spareInChannelCal_offset i))

/-- Refutes O5: in CHANNEL_CAL the slice in hand may be the spare by the words of the clause, for STEP holds 16 as well; its fit then
sets the spare's coefficients, and the word at 16 × tile + 16 keeps its 0 instead of taking the offset 1. -/
theorem not_sliceRotationCompletes : ¬ Obligations.SliceRotationCompletes := by
  unfold Obligations.SliceRotationCompletes
  intro h
  obtain ⟨-, -, -, -, hcal, -⟩ := h spareInChannelCal calLen rfl
  obtain ⟨v, hv, hzero⟩ := calibrate_spareInChannelCal 1
  obtain ⟨u, hu, -, -, hoffset, -⟩ := hcal 0 16 1 0 0 0 0 0 0 spareInChannelCal_state spareInChannelCal_step spareInChannelCal_ended (by decide)
  obtain rfl : v = u := Host.Outcome.next.inj (hv.symm.trans hu)
  rw [hzero] at hoffset
  exact absurd hoffset (by decide)

end Sys2Proof.Machine

namespace Sys2Proof.Machine

open Sys2Proof

/-! ### The times that a boundary keeps (R323, R324)

Of what a boundary does after its swap, little touches the time base's record at all, and that little is the presence of a master,
the timed outputs and PPS_OUT. -/

/-- The time base's record but for the presence of a master and what the outputs drive. -/
def State.times (s : State) : TimeSt := { s.time with master := false, tout := [], ppsOut := false }

/-- From `s` to `u` the time base, its spans and the values that wait stand. -/
def SameTimes (s u : State) : Prop := u.times = s.times

namespace SameTimes

section Rules

variable {s u v : State}

theorem refl : SameTimes s s := rfl

theorem of_time (h : u.time = s.time) : SameTimes s u := by rw [SameTimes, State.times, State.times, h]

theorem last (h : SameTimes s u) : u.time.last = s.time.last := (congrArg TimeSt.last (show u.times = s.times from h) :)
theorem next (h : SameTimes s u) : u.time.next = s.time.next := (congrArg TimeSt.next (show u.times = s.times from h) :)
theorem span (h : SameTimes s u) : u.time.span = s.time.span := (congrArg TimeSt.span (show u.times = s.times from h) :)
theorem pend (h : SameTimes s u) : u.time.pend = s.time.pend := (congrArg TimeSt.pend (show u.times = s.times from h) :)
theorem staged (h : SameTimes s u) : u.time.staged = s.time.staged := (congrArg TimeSt.staged (show u.times = s.times from h) :)

theorem refl_iff : SameTimes s s ↔ True := iff_true_intro refl

/-- One more operation, which leaves the times. -/
theorem step_iff (h : SameTimes u v) : SameTimes s v ↔ SameTimes s u := by rw [SameTimes, SameTimes, h]

/-- A frame that does not name the time base. -/
theorem only_iff {ps : List Part} {rs : List Nat} (h : Only ps rs u v) (hp : decide (Part.time ∈ ps) = false) :
    SameTimes s v ↔ SameTimes s u := step_iff (of_time (h.1 .time (of_decide_eq_false hp)))

theorem put_iff {f : Fld} {i x w : Nat} : SameTimes s (u.put f i x w) ↔ SameTimes s u := step_iff (of_time (State.put_time ..))
theorem putB_iff {f : Fld} {i w : Nat} {b : Bool} : SameTimes s (u.putB f i b w) ↔ SameTimes s u :=
  step_iff (of_time (State.putB_time ..))
theorem bump_iff {f : Fld} {i n : Nat} : SameTimes s (u.bump f i n) ↔ SameTimes s u := step_iff (of_time (State.bump_time ..))
theorem putWord_iff {f : Fld} {i : Nat} {x : W64} : SameTimes s (u.putWord f i x) ↔ SameTimes s u :=
  step_iff (of_time (State.putWord_time ..))

/-- An update of any part but the time base. -/
theorem mk_iff {ev recd afe dig tdc trg loop deck seam ctx fab lane ddr host mbox core mem press sec pwr regs out free pending} :
    SameTimes s ⟨u.time, ev, recd, afe, dig, tdc, trg, loop, deck, seam, ctx, fab, lane, ddr, host, mbox, core, mem, press, sec, pwr,
      regs, out, free, pending⟩ ↔ SameTimes s u := Iff.rfl

/-- An update of any part and of the time base's presence of a master and outputs. -/
theorem mk_time_iff {master tout ppsOut ev recd afe dig tdc trg loop deck seam ctx fab lane ddr host mbox core mem press sec pwr regs out
    free pending} :
    SameTimes s ⟨⟨u.time.now, u.time.epoch, u.time.up, u.time.last, u.time.next, u.time.span, u.time.slew, u.time.slewAt,
      u.time.steps, u.time.thetas, u.time.set, master, u.time.port, u.time.lastPps, u.time.mastered, tout, ppsOut, u.time.ppsStop,
      u.time.act, u.time.pend, u.time.staged, u.time.anchors, u.time.samples⟩, ev, recd, afe, dig, tdc, trg, loop, deck, seam, ctx, fab,
      lane, ddr, host, mbox, core, mem, press, sec, pwr, regs, out, free, pending⟩ ↔ SameTimes s u := Iff.rfl

theorem ite_iff {c : Prop} [Decidable c] {a b : State} :
    SameTimes s (if c then a else b) ↔ (c → SameTimes s a) ∧ (¬ c → SameTimes s b) := by split <;> simp [*]

theorem dite_iff {c : Prop} [Decidable c] {a : c → State} {b : ¬ c → State} :
    SameTimes s (if h : c then a h else b h) ↔ (∀ h, SameTimes s (a h)) ∧ ∀ h, SameTimes s (b h) := by split <;> simp [*]

theorem foldl_iff {α : Type} {f : State → α → State} {l : List α} (hf : ∀ v a, SameTimes v (f v a)) :
    SameTimes s (l.foldl f u) ↔ SameTimes s u := by
  induction l generalizing u with
  | nil => exact Iff.rfl
  | cons a l ih => exact ih.trans (step_iff (hf u a))

theorem each_iff {f : State → Nat → State} {l : List Nat} (hf : ∀ v a, SameTimes v (f v a)) :
    SameTimes s (u.each l f) ↔ SameTimes s u := foldl_iff hf

end Rules

/-! ### The master and the outputs -/

theorem modTout (s : State) (x : Nat) (f : ToutSt → ToutSt) : SameTimes s (s.modTout x f) := rfl

theorem noMaster (s : State) : SameTimes s s.noMaster := rfl

theorem toutProgram (s : State) (x : Fin 8) (b : Tm) : SameTimes s (s.toutProgram x b) := by
  unfold State.toutProgram
  dsimp only
  split
  · exact modTout ..
  · split <;> simp only [refl_iff, step_iff (modTout ..), only_iff (State.raise_only ..) rfl, putB_iff, ite_iff, implies_true, and_self]

theorem swapTout (s old : State) (b : Tm) (programmed : List Nat) (x : Fin 8) : SameTimes s (s.swapTout old b programmed x) := by
  unfold State.swapTout
  simp only [refl_iff, only_iff (State.drive_only ..) rfl, step_iff (toutProgram ..), ite_iff, implies_true, and_self]

theorem swapPps (s : State) : SameTimes s s.swapPps := by
  unfold State.swapPps
  simp only [refl_iff, only_iff (State.drive_only ..) rfl, mk_time_iff, ite_iff, implies_true, and_self]

theorem swapTiming (s old : State) (b : Tm) (taken : List Pend) : SameTimes s (s.swapTiming old b taken) := by
  unfold State.swapTiming
  simp only [refl_iff, only_iff (State.gaugesResume_only ..) rfl, only_iff (State.modTd_only ..) rfl,
    only_iff (State.swapCondition_only ..) rfl, only_iff (State.swapGauge_only ..) rfl, step_iff (swapPps ..),
    step_iff (swapTout ..), only_iff (State.swapTrigOut_only ..) rfl, put_iff, each_iff, ite_iff, dite_iff, implies_true, and_self]

/-! ### Lanes, ports and routes (R293 to R296, R299) -/

theorem laneDetect (s : State) (l : Nat) : SameTimes s (s.laneDetect l) := by
  unfold State.laneDetect State.parentLane
  simp only [refl_iff, only_iff (State.modLane_only ..) rfl, only_iff (State.setLane_only ..) rfl, putB_iff, mk_iff, ite_iff,
    implies_true, and_self]

theorem laneOff (s : State) (l : Nat) : SameTimes s (s.laneOff l) := by
  unfold State.laneOff
  simp only [refl_iff, step_iff (laneDetect ..), only_iff (State.retrained_only ..) rfl, only_iff (State.setLane_only ..) rfl]

theorem portFail (s : State) (p : Nat) : SameTimes s (s.portFail p) := by
  unfold State.portFail
  simp only [refl_iff, step_iff (laneDetect ..), only_iff (State.linkShow_only ..) rfl, only_iff (State.modPortLane_only ..) rfl,
    only_iff (State.portDown_only ..) rfl, only_iff (State.retrain_only ..) rfl, mk_time_iff, put_iff, each_iff, ite_iff,
    implies_true, and_self]

theorem restripe (s : State) (p : Nat) : SameTimes s (s.restripe p) := by
  unfold State.restripe
  simp only [refl_iff, step_iff (portFail ..), only_iff (State.stripeSend_only ..) rfl, ite_iff, implies_true, and_self]

theorem laneEnables (s : State) : SameTimes s s.laneEnables := by
  unfold State.laneEnables
  simp only [refl_iff, step_iff (laneDetect ..), step_iff (laneOff ..), step_iff (portFail ..), step_iff (restripe ..),
    only_iff (State.setLane_only ..) rfl, put_iff, each_iff, ite_iff, implies_true, and_self]

theorem parentLane (s : State) : SameTimes s s.parentLane := by
  unfold State.parentLane
  simp only [refl_iff, mk_iff, ite_iff, implies_true, and_self]

theorem clockFollow (s : State) (i : Install) : SameTimes s (s.clockFollow i) := by
  unfold State.clockFollow
  simp only [refl_iff, step_iff (parentLane ..), only_iff (State.modFp_only ..) rfl, only_iff (State.raise_only ..) rfl,
    mk_time_iff, put_iff, bump_iff,
    each_iff, ite_iff, implies_true, and_self]

theorem routeApply (s : State) : SameTimes s s.routeApply := by
  have htable (v : State) (f : Fld) (l : List (Nat × BitVec 7)) : SameTimes v (v.tableWrite f l) :=
    (foldl_iff fun _ _ => putWord_iff.2 refl).2 refl
  have hstrand (v : State) (i : Install) : SameTimes v (v.strand i) := by
    unfold State.strand
    simp only [refl_iff, only_iff (State.clockHold_only ..) rfl, step_iff (noMaster ..), only_iff (State.raise_only ..) rfl,
      only_iff (State.setRoot_only ..) rfl, putB_iff]
  unfold State.routeApply
  split
  · exact refl
  · simp only [refl_iff, only_iff (State.alignOwn_only ..) rfl, only_iff (State.claimDone_only ..) rfl, step_iff (clockFollow ..),
      only_iff (State.linkShow_only ..) rfl, only_iff (State.portsFollow_only ..) rfl, only_iff (State.probePump_only ..) rfl,
      only_iff (State.raise_only ..) rfl, only_iff (State.routeChange_only ..) rfl, only_iff (State.seamFollow_only ..) rfl,
      only_iff (State.setRoot_only ..) rfl, step_iff (hstrand _ _), step_iff (htable _ _ _), mk_iff, put_iff, putB_iff, bump_iff,
      ite_iff, implies_true, and_self]

/-! ### The parts of the device at a boundary -/

theorem maintGo (s : State) (a : Act) : SameTimes s (s.maintGo a) := by
  unfold State.maintGo State.laneRestart
  split <;>
    simp only [refl_iff, only_iff (State.compactStep_only ..) rfl, step_iff (laneDetect ..), only_iff (State.retrain_only ..) rfl,
      only_iff (State.maintBegin_only ..) rfl, only_iff (State.modFe_only ..) rfl, only_iff (State.retrainBegin_only ..) rfl,
      only_iff (State.rotBegin_only ..) rfl, only_iff (State.visitBegin_only ..) rfl, ite_iff, implies_true, and_self]

theorem partsBoundary (s : State) : SameTimes s s.partsBoundary := by
  unfold State.partsBoundary
  simp only [refl_iff, only_iff (State.brokenMasks_only ..) rfl, only_iff (State.ctxBoundary_only ..) rfl,
    only_iff (State.ddrReturn_only ..) rfl, only_iff (State.hopsAdopt_only ..) rfl, step_iff (maintGo ..),
    only_iff (State.rawPlaceAll_only ..) rfl, only_iff (State.rejoinArm_only ..) rfl, only_iff (State.rotBoundary_only ..) rfl,
    step_iff (routeApply ..), only_iff (State.seamBoundary_only ..) rfl, only_iff (State.transfersAdopt_only ..) rfl, mk_iff,
    each_iff, foldl_iff, implies_true]

end SameTimes

end Sys2Proof.Machine

namespace Sys2Proof.Machine

open Sys2Proof

/-! ### A write of SWAP_CFG (R69, R323, R398) -/

/-- What a pending value is, apart from when it is due. -/
def pendKey (p : Pend) : Nat × W64 × Nat := (p.id, p.val, p.cls)

/-- ARMED has a bit for each class but class 0, which is always in force. -/
theorem State.testBit_armed (s : State) {c : Nat} (hc : 0 < c) : (s.get P.SWAP_CFG_ARMED 0 * 2).testBit c = s.armed c := by
  obtain ⟨n, rfl⟩ := Nat.exists_eq_add_of_lt hc
  simp [State.armed, Nat.testBit_succ]

/-- The classes that a write of ARMED disarms. -/
def State.disarmed (s : State) (armed : Nat) : List Nat :=
  (upTo 8).filter fun c => decide (0 < c) && (s.get P.SWAP_CFG_ARMED 0 * 2).testBit c && !armed.testBit c

/-- The classes that it arms. -/
def State.armedNow (s : State) (armed : Nat) : List Nat :=
  (upTo 8).filter fun c => decide (0 < c) && !(s.get P.SWAP_CFG_ARMED 0 * 2).testBit c && armed.testBit c

/-- A value of a class armed now is held when its cutoff lies ahead (R323). -/
def State.hold (s : State) (classes : List Nat) (p : Pend) : Pend :=
  match p.due with
  | some b => if classes.contains p.cls && decide (s.time.now + cutoffLen < b) then { p with due := none } else p
  | none => p

theorem State.mem_disarmed {s : State} {armed : Nat} (c : Fin 8) :
    c.val ∈ s.disarmed armed ↔ s.armed c = true ∧ armed.testBit c = false := by
  by_cases hc : 0 < c.val
  · simp [State.disarmed, upTo, State.testBit_armed s hc, hc]
  · simp [State.disarmed, State.armed, hc]

theorem State.mem_armedNow {s : State} {armed : Nat} (c : Fin 8) (hc : 0 < c.val) :
    c.val ∈ s.armedNow armed ↔ s.armed c = false ∧ armed.testBit c = true := by
  simp [State.armedNow, upTo, State.testBit_armed s hc, hc]

theorem State.hold_key (s : State) (classes : List Nat) (p : Pend) : pendKey (s.hold classes p) = pendKey p := by
  unfold State.hold
  split
  · split <;> rfl
  · rfl

theorem State.hold_cls (s : State) (classes : List Nat) (p : Pend) : (s.hold classes p).cls = p.cls :=
  congrArg (fun k => k.2.2) (s.hold_key classes p)

/-- A value of another class stays as it is. -/
theorem State.hold_other {s : State} {classes : List Nat} {p : Pend} (h : p.cls ∉ classes) : s.hold classes p = p := by
  unfold State.hold
  split
  · rw [if_neg (by simp [h])]
  · rfl

/-- A value of a class armed now keeps its boundary only when the cutoff of that has passed. -/
theorem State.hold_due {s : State} {classes : List Nat} {p : Pend} (h : p.cls ∈ classes) :
    (s.hold classes p).due.all (fun b => decide (b ≤ s.time.now + cutoffLen)) = true := by
  unfold State.hold
  split
  · next b hb =>
    by_cases hlate : s.time.now + cutoffLen < b
    · simp [h, hlate]
    · simp [hlate, hb, Nat.not_lt.1 hlate]
  · next hb => simp [hb]

theorem State.writeArmed_pend (s : State) (armed : Nat) :
    (s.writeArmed armed).time.pend = (s.each (s.disarmed armed) State.releaseClass).time.pend.map (s.hold (s.armedNow armed)) := by
  unfold State.writeArmed
  dsimp only
  rw [State.put_time]
  rfl

theorem State.writeArmed_ev (s : State) (armed : Nat) :
    (s.writeArmed armed).ev = (s.each (s.disarmed armed) State.releaseClass).ev := by
  unfold State.writeArmed
  dsimp only
  rw [State.put_ev]
  rfl

theorem State.writeArmed_armed (s : State) (armed : BitVec 8) : (s.writeArmed armed.toNat).get P.SWAP_CFG_ARMED 0 = armed.toNat / 2 := by
  have hw : armed.toNat / 2 < 2 ^ P.SWAP_CFG_ARMED.width := by
    have := armed.isLt
    simp only [P.SWAP_CFG_ARMED]
    omega
  unfold State.writeArmed
  dsimp only
  rw [State.get_congr (State.with_time_regs _ _), State.get_put_fits _ _ _ (by decide) hw]

/-- A release leaves what the pending values are. -/
theorem State.releaseClass_key (s : State) (k : Nat) : (s.releaseClass k).time.pend.map pendKey = s.time.pend.map pendKey := by
  rw [State.releaseClass_pend, List.map_map]
  refine List.map_congr_left fun p _ => ?_
  simp only [Function.comp_apply]
  split <;> rfl

/-- A value of a class disarmed is held no longer: it has a boundary, and source 70 is raised (R323). -/
theorem State.writeArmed_disarms {s : State} {armed : Nat} {c : Fin 8} (hold : s.armed c = true) (hnew : armed.testBit c = false) :
    Raised 70 (s.writeArmed armed) ∧ ∀ p ∈ (s.writeArmed armed).time.pend, p.cls = c.val → p.due ≠ none := by
  have hreleased : Released c.val (s.each (s.disarmed armed) State.releaseClass) :=
    State.each_reaches (fun v => v.releaseClass_released _) (fun _ k h => State.releaseClass_keeps k h)
      ((State.mem_disarmed c).2 ⟨hold, hnew⟩) s
  obtain ⟨hdue, hraised⟩ := hreleased
  refine ⟨?_, fun p hp hc => ?_⟩
  · rw [Raised, State.writeArmed_ev]
    exact hraised
  · rw [State.writeArmed_pend] at hp
    obtain ⟨q, hq, rfl⟩ := List.mem_map.1 hp
    rw [State.hold_cls] at hc
    have hpos : 0 < c.val := by
      simp only [State.armed, Bool.and_eq_true, decide_eq_true_eq] at hold
      exact hold.1
    have hother : q.cls ∉ s.armedNow armed := by
      rw [hc, State.mem_armedNow c hpos]
      simp [hnew]
    rw [State.hold_other hother]
    exact Option.isSome_iff_ne_none.1 (hdue q hq hc)

/-- A value of a class armed is held unless its cutoff has passed (R323). -/
theorem State.writeArmed_arms {s : State} {armed : Nat} {c : Fin 8} (hc : 0 < c.val) (hold : s.armed c = false)
    (hnew : armed.testBit c = true) :
    ∀ p ∈ (s.writeArmed armed).time.pend, p.cls = c.val → p.due.all (fun b => decide (b ≤ s.time.now + cutoffLen)) = true := by
  intro p hp hcls
  rw [State.writeArmed_pend] at hp
  obtain ⟨q, -, rfl⟩ := List.mem_map.1 hp
  rw [State.hold_cls] at hcls
  exact State.hold_due (hcls ▸ (State.mem_armedNow c hc).2 ⟨hold, hnew⟩)

/-- A write of ARMED changes when values are due, and neither which they are nor their order. -/
theorem State.writeArmed_key (s : State) (armed : Nat) : (s.writeArmed armed).time.pend.map pendKey = s.time.pend.map pendKey := by
  have hreleased : (s.each (s.disarmed armed) State.releaseClass).time.pend.map pendKey = s.time.pend.map pendKey :=
    State.each_keeps (Q := fun v => v.time.pend.map pendKey = s.time.pend.map pendKey)
      (fun v k h => (v.releaseClass_key k).trans h) _ rfl
  rw [State.writeArmed_pend, List.map_map, ← hreleased]
  exact List.map_congr_left fun p _ => s.hold_key _ p

/-! ### The cutoff (R324) -/

/-- A value that is not due by the next boundary is held or due later. -/
theorem not_any_le {α : Type} [LinearOrder α] (due : Option α) (n : α) :
    (!due.any fun b => decide (b ≤ n)) = due.all fun b => decide (n < b) := by
  cases due with
  | none => rfl
  | some b => simp [← not_le]

theorem execSwapCutoff_staged {s : State} {t : Tm} (hp : s.pwr.por = false) (h : s.time.next ≤ s.instant t + cutoffLen) :
    Acts (.swapCutoff t) s fun u =>
      u.time.staged = s.time.staged ++ s.time.pend.filter (fun p => p.due.any fun b => decide (b ≤ s.time.next)) ∧
        u.time.pend = s.time.pend.filter (fun p => p.due.all fun b => decide (s.time.next < b)) := by
  refine acts_of_live hp (Eq.refl (execSwapCutoff t s)) ?_
  dsimp only
  rw [if_pos (show (s.clock t).time.next ≤ (s.clock t).time.now + cutoffLen from h)]
  refine ⟨congrArg (s.time.staged ++ ·) (List.filter_congr fun p _ => ?_), List.filter_congr fun p _ => ?_⟩
  · cases hd : p.due <;> rfl
  · rw [← not_any_le]
    cases hd : p.due <;> rfl

end Sys2Proof.Machine

namespace Sys2Proof.Machine

open Sys2Proof

/-! ### Distributed steps (R320) -/

/-- A step of another epoch, or one whose boundary has passed. -/
def State.stepGone (s : State) (p : PendStep) : Bool := p.epoch != s.time.epoch || decide (p.b < s.time.next)

theorem State.stepGone_eq_false {s : State} {p : PendStep} : s.stepGone p = false ↔ p.epoch = s.time.epoch ∧ s.time.next ≤ p.b := by
  simp [State.stepGone]

theorem State.stepGone_eq_true {s : State} {p : PendStep} : s.stepGone p = true ↔ p.epoch ≠ s.time.epoch ∨ p.b < s.time.next := by
  simp [State.stepGone]

/-- What the discard of one step shows. -/
def State.stepDropped (s : State) : State := (s.putB P.TIME_STATUS_STEP_DROPPED 0 true).raise 66

abbrev DropShown (u : State) : Prop := u.flag P.TIME_STATUS_STEP_DROPPED 0 = true ∧ Raised 66 u

theorem State.stepDropped_time (s : State) : s.stepDropped.time = s.time := (State.raise_time ..).trans (State.putB_time ..)

theorem State.stepDropped_shown (s : State) : DropShown s.stepDropped := by
  refine ⟨?_, State.raise_raised _ (by decide)⟩
  rw [State.stepDropped, State.flag, State.raise_get _ _ _ _ _ (by decide) (by decide), ← State.flag,
    State.flag_putB_same _ _ _ _ (by decide)]

/-- The steps that fell due nowhere are discarded, and each is shown (R320). -/
theorem State.dropSteps_eq (s : State) :
    s.dropSteps = if (s.time.steps.filter s.stepGone).length = 0 then s else
      ({ s with time := { s.time with steps := s.time.steps.filter fun p => !s.stepGone p } } : State).each
        (upTo (s.time.steps.filter s.stepGone).length) fun v _ => v.stepDropped := rfl

theorem State.dropSteps_steps (s : State) : s.dropSteps.time.steps = s.time.steps.filter fun p => !s.stepGone p := by
  rw [State.dropSteps_eq]
  split
  · next hnone =>
    rw [List.length_eq_zero_iff, List.filter_eq_nil_iff] at hnone
    exact (List.filter_eq_self.2 fun p hp => by simpa using hnone p hp).symm
  · exact State.each_keeps (Q := fun v => v.time.steps = s.time.steps.filter fun p => !s.stepGone p)
      (fun v _ h => (congrArg TimeSt.steps v.stepDropped_time).trans h) _ rfl

theorem State.dropSteps_shown {s : State} {p : PendStep} (hp : p ∈ s.time.steps) (hgone : s.stepGone p = true) :
    DropShown s.dropSteps := by
  have hsome : 0 < (s.time.steps.filter s.stepGone).length := List.length_pos_of_mem (List.mem_filter.2 ⟨hp, hgone⟩)
  rw [State.dropSteps_eq, if_neg (by omega)]
  exact State.each_reaches (k := 0) (fun v => v.stepDropped_shown) (fun v _ _ => v.stepDropped_shown)
    (List.mem_range.2 hsome) _

/-- The state with a step that has come. -/
def State.stepCome (s : State) (p : PendStep) : State := { s with time := { s.time with steps := s.time.steps ++ [p] } }

theorem State.mem_stepCome (s : State) (p : PendStep) : p ∈ (s.stepCome p).time.steps :=
  List.mem_append_right _ (List.mem_singleton.2 rfl)

/-- A step that no pending one equals joins them, and those that are gone are discarded. -/
theorem exec_distributedStep_new {s : State} {t : Tm} {epoch : Nat} {b : Tm} {toTarget : Bool} {val : Int} (hp : s.pwr.por = false)
    (hnew : s.time.steps.any (fun p => p.b == b && p.epoch == epoch) = false) :
    exec (.distributedStep t epoch b toTarget val) s = .next ((s.clock t).stepCome ⟨b, epoch, toTarget, val, none⟩).dropSteps := by
  have hstays : ¬ (s.clock t).time.steps.any (fun p => p.b == b && p.epoch == epoch) = true := by
    rw [show (s.clock t).time.steps = s.time.steps from rfl, hnew]
    exact Bool.false_ne_true
  simp only [exec, execDistributedStep, live_of hp]
  rw [if_neg hstays]
  rfl

end Sys2Proof.Machine

namespace Sys2Proof.Machine

open Sys2Proof

/-! ### What the core does at a boundary (R411, R416)

A lease revoked there drops the shadows and leaves the boundary itself. -/

/-- From `s` to `u` the boundary and the mark of a late checkpoint stand, and values that were gone stay gone. -/
structure Turned (s u : State) : Prop where
  last : u.time.last = s.time.last
  next : u.time.next = s.time.next
  span : u.time.span = s.time.span
  late : u.core.late = s.core.late
  pend : s.time.pend = [] → u.time.pend = []
  staged : s.time.staged = [] → u.time.staged = []

/-- No checkpoint of the period that begins is late. -/
def State.lateCleared (s : State) : State := { s with core := { s.core with late := false } }

namespace Turned

variable {s u v : State}

theorem refl : Turned s s := ⟨rfl, rfl, rfl, rfl, id, id⟩

theorem trans (h : Turned s u) (k : Turned u v) : Turned s v :=
  ⟨k.last.trans h.last, k.next.trans h.next, k.span.trans h.span, k.late.trans h.late, k.pend ∘ h.pend, k.staged ∘ h.staged⟩

theorem of_parts (ht : u.time = s.time) (hc : u.core.late = s.core.late) : Turned s u := by
  refine ⟨?_, ?_, ?_, hc, ?_, ?_⟩ <;> rw [ht] <;> exact id

/-- An operation that names neither the time base nor the core. -/
theorem of_only {ps : List Part} {rs : List Nat} (h : Only ps rs s u) (hp : decide (Part.time ∈ ps) = false)
    (hc : decide (Part.core ∈ ps) = false) : Turned s u :=
  of_parts (h.1 .time (of_decide_eq_false hp)) (congrArg CoreSt.late (h.1 .core (of_decide_eq_false hc)))

theorem shadowsDrop (s : State) : Turned s s.shadowsDrop := ⟨rfl, rfl, rfl, rfl, fun _ => rfl, fun _ => rfl⟩

theorem pierReset (s : State) (i : Nat) : Turned s (s.pierReset i) := by
  unfold State.pierReset
  have hpier (f : PierSt → PierSt) : Turned s (s.modPier i f) := ⟨rfl, rfl, rfl, rfl, id, id⟩
  exact ((hpier _).trans (.of_only (State.bumpPier_only ..) rfl rfl)).trans (.of_only (State.raise_only ..) rfl rfl)

theorem abutEnter (s : State) (cause : Nat) : Turned s (s.abutEnter cause) := by
  unfold State.abutEnter
  extract_lets core s1
  have h1 : Turned s s1 := ⟨rfl, rfl, rfl, rfl, id, id⟩
  have hdrop := (h1.trans (shadowsDrop _)).trans (of_only (State.mbDrop_only _) rfl rfl)
  have hshow := ((hdrop.trans (of_only (State.planeStop_only _) rfl rfl)).trans (of_only (State.coreShow_only _) rfl rfl)).trans
    (of_only (State.maintShow_only _) rfl rfl)
  exact (hshow.trans (of_only (State.mbReady_only _) rfl rfl)).trans (of_only (State.raise_only ..) rfl rfl)

theorem abutCheck (s : State) : Turned s s.abutCheck := by
  unfold State.abutCheck
  split
  · exact abutEnter ..
  · exact refl

theorem revoke (s : State) : Turned s s.revoke := by
  unfold State.revoke
  extract_lets x core s1
  have h1 : Turned s s1 := ⟨rfl, rfl, rfl, rfl, id, id⟩
  have hdrop := (h1.trans (shadowsDrop _)).trans (of_only (State.mbDrop_only _) rfl rfl)
  have hshow := (hdrop.trans (of_only (State.coreShow_only _) rfl rfl)).trans (of_only (State.raise_only _ 224) rfl rfl)
  exact ((hshow.trans (pierReset _ (x - 1))).trans (of_only (State.mbReady_only _) rfl rfl)).trans (abutCheck _)

theorem coreBoundary (s : State) : Turned s.lateCleared s.coreBoundary := by
  unfold State.coreBoundary
  extract_lets core s1
  have h1 : Turned s.lateCleared s1 := ⟨rfl, rfl, rfl, rfl, id, id⟩
  split
  · exact h1.trans (revoke s1)
  · exact h1

end Turned

end Sys2Proof.Machine

namespace Sys2Proof.Machine

open Sys2Proof

/-! ### The swap and the boundary (R323, R324) -/

/-- What the parts do about the values just taken. -/
def State.swapParts (s old : State) (b : Tm) (taken : List Pend) (at_ : Stamp) : State :=
  ((((s.swapFront old taken).swapTiming old b taken).swapAreas old taken at_).laneEnables).pressShow

/-- The values taken are in force, and no part has acted on them. -/
def State.swapTaken (s : State) (b : Tm) (badWords : List Nat) : State :=
  let p := (s.swap b (boundaryAfter b s.spanLen) badWords).1
  { p with dig := { p.dig with was := s.regs } }

theorem State.swapAll_eq (s : State) (b : Tm) (badWords : List Nat) :
    s.swapAll b badWords =
      ((s.swapTaken b badWords).swapParts s b (s.swap b (boundaryAfter b s.spanLen) badWords).2 ⟨s.time.epoch, b⟩).spanLength b := rfl

/-- What a boundary does between its anchor and the core's part. -/
def State.boundaryActs (s : State) (b : Tm) (at_ : Stamp) : State :=
  ((((((s.secondEnds b).spanNotes.partsBoundary).configDone b).acquisition).writerBoundary at_).deckRates)

/-- No value stays staged over a swap. -/
theorem State.swap_staged (s : State) (b next : Tm) (badWords : List Nat) : (s.swap b next badWords).1.time.staged = [] := by
  unfold State.swap
  dsimp only
  split
  · rfl
  · rw [State.put_time]
    rfl

theorem SameTimes.swapParts (s old : State) (b : Tm) (taken : List Pend) (at_ : Stamp) : SameTimes s (s.swapParts old b taken at_) := by
  unfold State.swapParts
  simp only [refl_iff, only_iff (State.pressShow_only ..) rfl, step_iff (laneEnables ..), only_iff (State.swapAreas_only ..) rfl,
    step_iff (swapTiming ..), only_iff (State.swapFront_only ..) rfl]

/-- A new span length changes no value that waits. -/
theorem State.spanLength_values (s : State) (b : Tm) :
    (s.spanLength b).time.pend = s.time.pend ∧ (s.spanLength b).time.staged = s.time.staged := by
  unfold State.spanLength
  split
  · rw [State.raise_time]
    exact ⟨rfl, rfl⟩
  · exact ⟨rfl, rfl⟩

theorem State.swapAll_staged (s : State) (b : Tm) (badWords : List Nat) : (s.swapAll b badWords).time.staged = [] := by
  rw [State.swapAll_eq, (State.spanLength_values ..).2, (SameTimes.swapParts ..).staged]
  exact s.swap_staged ..

theorem State.swapAll_pend (s : State) (b : Tm) (badWords : List Nat) :
    (s.swapAll b badWords).time.pend = (s.swap b (boundaryAfter b s.spanLen) badWords).1.time.pend := by
  rw [State.swapAll_eq, (State.spanLength_values ..).1, (SameTimes.swapParts ..).pend]
  rfl

theorem SameTimes.boundaryActs (s : State) (b : Tm) (at_ : Stamp) : SameTimes s (s.boundaryActs b at_) := by
  unfold State.boundaryActs
  simp only [refl_iff, only_iff (State.deckRates_only ..) rfl, only_iff (State.writerBoundary_only ..) rfl,
    only_iff (State.acquisition_only ..) rfl, only_iff (State.configDone_only ..) rfl, step_iff (partsBoundary ..),
    only_iff (State.spanNotes_only ..) rfl, only_iff (State.secondEnds_only ..) rfl]

/-- The state at which a boundary without a step ends. -/
def State.turned (s : State) (b : Tm) (badWords : List Nat) : State :=
  (((s.swapAll b badWords).anchor b).boundaryActs b ⟨s.time.epoch, b⟩).coreBoundary

theorem Steady.turned (s : State) (b : Tm) (badWords : List Nat) : Steady s (s.turned b badWords) := by
  unfold State.turned State.boundaryActs
  exact boundaryParts ..

/-- Without a pending step a boundary that has come is one turn. -/
theorem exec_spanBoundary_turned {s : State} {t b : Tm} {badWords : List Nat} (hp : s.pwr.por = false) (hdue : s.time.next ≤ s.instant t)
    (hsteps : s.time.steps = []) (hb : max s.time.next (s.instant t / s.spanLen * s.spanLen) = b) :
    exec (.spanBoundary t badWords) s = .next ((s.clock t).turned b badWords) := by
  have hnone : ((s.clock t).turned b badWords).time.steps = [] := (Steady.turned ..).steps.trans hsteps
  have hstep : ((s.clock t).turned b badWords).boundaryStep b = (s.clock t).turned b badWords := by
    rw [State.boundaryStep, hnone]
    rfl
  have hcome : ¬ (s.clock t).time.now < (s.clock t).time.next := Nat.not_lt.2 hdue
  have hwhen : max (s.clock t).time.next ((s.clock t).time.now / (s.clock t).spanLen * (s.clock t).spanLen) = b := hb
  simp only [exec, execSpanBoundary, live_of hp]
  rw [if_neg hcome, hwhen]
  exact congrArg Host.Outcome.next hstep

/-- The anchor's boundary and values reach the end of the turn. -/
theorem State.turned_anchored (s : State) (b : Tm) (badWords : List Nat) :
    ∃ v, SameTimes ((s.swapAll b badWords).anchor b) v ∧ Turned v.lateCleared (s.turned b badWords) :=
  ⟨((s.swapAll b badWords).anchor b).boundaryActs b ⟨s.time.epoch, b⟩, SameTimes.boundaryActs .., Turned.coreBoundary _⟩

theorem State.turned_boundary (s : State) (b : Tm) (badWords : List Nat) :
    (s.turned b badWords).time.last = b ∧
      (s.turned b badWords).time.next = boundaryAfter b (s.turned b badWords).spanLen ∧
      (s.turned b badWords).core.late = false ∧ (s.turned b badWords).time.staged = [] := by
  obtain ⟨v, hsame, hturn⟩ := s.turned_anchored b badWords
  have hspan : (s.turned b badWords).time.span = (s.swapAll b badWords).time.span := hturn.span.trans hsame.span
  refine ⟨hturn.last.trans hsame.last, ?_, hturn.late, hturn.staged (hsame.staged.trans (s.swapAll_staged b badWords))⟩
  rw [State.spanLen, hspan]
  exact hturn.next.trans hsame.next

theorem State.turned_pend {s : State} {b : Tm} {badWords : List Nat}
    (h : (s.swap b (boundaryAfter b s.spanLen) badWords).1.time.pend = []) : (s.turned b badWords).time.pend = [] := by
  obtain ⟨v, hsame, hturn⟩ := s.turned_anchored b badWords
  exact hturn.pend (hsame.pend.trans ((s.swapAll_pend b badWords).trans h))

end Sys2Proof.Machine

namespace Sys2Proof.Machine

open Sys2Proof

/-! ### A discriminator threshold that swaps alone (R324) -/

/-- From `s` to `u` the thresholds and SWAP_LAST stand: no part owns them. -/
def SameSwap (s u : State) : Prop :=
  ∀ i, u.get P.DISC_THR_THRESHOLD i = s.get P.DISC_THR_THRESHOLD i ∧ u.get P.SWAP_LAST_TIME_NS i = s.get P.SWAP_LAST_TIME_NS i

namespace SameSwap

variable {s u v : State}

theorem refl : SameSwap s s := fun _ => ⟨rfl, rfl⟩

theorem trans (h : SameSwap s u) (k : SameSwap u v) : SameSwap s v := fun i => ⟨(k i).1.trans (h i).1, (k i).2.trans (h i).2⟩

theorem of_regs (h : u.regs = s.regs) : SameSwap s u := fun _ => ⟨State.get_congr h .., State.get_congr h ..⟩

/-- A frame that names neither register. -/
theorem of_only {ps : List Part} {rs : List Nat} (h : Only ps rs s u) (hp : decide (Part.regs ∈ ps) = false)
    (ht : decide (P.DISC_THR_THRESHOLD.pid ∈ rs) = false) (hl : decide (P.SWAP_LAST_TIME_NS.pid ∈ rs) = false) : SameSwap s u :=
  fun i => ⟨State.get_of_only h (of_decide_eq_false hp) _ i 0 (by decide) (of_decide_eq_false ht),
    State.get_of_only h (of_decide_eq_false hp) _ i 0 (by decide) (of_decide_eq_false hl)⟩

theorem swapParts (s old : State) (b : Tm) (taken : List Pend) (at_ : Stamp) : SameSwap s (s.swapParts old b taken at_) := by
  have hfront := (of_only (s.swapFront_only old taken) rfl rfl rfl).trans (of_only (State.swapTiming_only _ old b taken) rfl rfl rfl)
  have hareas := hfront.trans (of_only (State.swapAreas_only _ old taken at_) rfl rfl rfl)
  exact (hareas.trans (of_only (State.laneEnables_only _) rfl rfl rfl)).trans (of_only (State.pressShow_only _) rfl rfl rfl)

theorem swapAll (s : State) (b : Tm) (badWords : List Nat) :
    SameSwap (s.swap b (boundaryAfter b s.spanLen) badWords).1 (s.swapAll b badWords) := by
  rw [State.swapAll_eq]
  have htaken : SameSwap (s.swap b (boundaryAfter b s.spanLen) badWords).1 (s.swapTaken b badWords) := of_regs rfl
  exact (htaken.trans (swapParts _ s b _ _)).trans (of_only (State.spanLength_only ..) rfl rfl rfl)

theorem boundaryActs (s : State) (b : Tm) (at_ : Stamp) : SameSwap s (s.boundaryActs b at_) := by
  unfold State.boundaryActs
  have hspan := (of_only (s.secondEnds_only b) rfl rfl rfl).trans (of_only (State.spanNotes_only _) rfl rfl rfl)
  have hparts := (hspan.trans (of_only (State.partsBoundary_only _) rfl rfl rfl)).trans (of_only (State.configDone_only _ b) rfl rfl rfl)
  have hwriter := (hparts.trans (of_only (State.acquisition_only _) rfl rfl rfl)).trans
    (of_only (State.writerBoundary_only _ at_) rfl rfl rfl)
  exact hwriter.trans (of_only (State.deckRates_only _) rfl rfl rfl)

theorem turned (s : State) (b : Tm) (badWords : List Nat) :
    SameSwap (s.swap b (boundaryAfter b s.spanLen) badWords).1 (s.turned b badWords) := by
  have hanchor : SameSwap (s.swapAll b badWords) ((s.swapAll b badWords).anchor b) := of_regs rfl
  exact (((swapAll s b badWords).trans hanchor).trans (boundaryActs _ b _)).trans (of_only (State.coreBoundary_only _) rfl rfl rfl)

end SameSwap

/-- A mask that covers a field gives the field its new value. -/
theorem Fld.of_mixBits_covered {f : Fld} (old new : W64) {mask : W64} (h : f.lo + f.width ≤ 64) (hm : mask &&& f.mask = f.mask) :
    f.of (mixBits old new mask) = f.of new := by
  have hall : mixBits old new (BitVec.allOnes 64) = new := by
    rw [mixBits, BitVec.not_allOnes, BitVec.and_zero, BitVec.zero_or, BitVec.and_allOnes]
  have hcover := Fld.of_mixBits_and old new (BitVec.allOnes 64) h hm
  rwa [BitVec.allOnes_and, hall] at hcover

/-- The discriminators' register. -/
def discThrPar : Par := ⟨0x01000002, 1, 256, [P.DISC_THR_THRESHOLD, P.DISC_THR_HYST]⟩

theorem discThr_id (c : Ch) : P.DISC_THR_THRESHOLD.id c 0 = 0x01000002 + c * 4096 := by
  have := c.isLt
  simp only [Fld.id, P.DISC_THR_THRESHOLD]
  omega

theorem named_discThr (c : Ch) : named (P.DISC_THR_THRESHOLD.id c 0) = some ⟨discThrPar, c, 0⟩ := by
  have hblock : (0x01000002 + c * 4096 : Nat) / 2 ^ 24 = 1 := by omega
  have hoffset : (0x01000002 + c * 4096 : Nat) % 4096 = 2 := by omega
  have hinst : (0x01000002 + c * 4096 : Nat) / 4096 % 4096 = c := by omega
  have hfind : (P.table.find? fun p => p.pid / 2 ^ 24 == 1 && decide (p.pid % 4096 ≤ 2) && decide (2 < p.pid % 4096 + p.span)) =
      some discThrPar := by
    decide
  unfold named
  rw [discThr_id, hblock, hoffset, hinst, hfind]
  exact if_pos (Or.inl c.isLt)

/-- The new word gives the threshold its value. -/
theorem overlay_discThr (r : Tbl W64) {x : Pend} {c : Ch} (hx : x.id = P.DISC_THR_THRESHOLD.id c 0) :
    Regs.get (overlay r x) P.DISC_THR_THRESHOLD c = P.DISC_THR_THRESHOLD.of x.val := by
  have hreset : discThrPar.resetAt (P.DISC_THR_THRESHOLD.id c 0) =
      resetWord (P.DISC_THR_THRESHOLD.id c 0) P.DISC_THR_THRESHOLD.word := rfl
  have hcover : discThrPar.mask (Fld.has .rws) &&& P.DISC_THR_THRESHOLD.mask = P.DISC_THR_THRESHOLD.mask := by decide
  simp only [overlay, hx, named_discThr]
  rw [Regs.get, Regs.word, Par.setIn, hreset, Tbl.get_set_same, Fld.of_mixBits_covered _ _ (by decide) hcover]

/-- No stream and no job has to end before a threshold swaps. -/
theorem State.swapWaits_discThr (s : State) {x : Pend} {c : Ch} (hx : x.id = P.DISC_THR_THRESHOLD.id c 0) : s.swapWaits x = false := by
  have hring : ringPids.contains discThrPar.pid = false := by decide
  have hmap : (discThrPar.pid == P.DDR_MAP_FW_MIB.pid) = false := by decide
  simp only [State.swapWaits, hx, named_discThr, hring, hmap, Bool.false_and, Bool.or_false]

/-- One value is in force, and none is pending or staged. -/
def State.took (s : State) (x : Pend) : State :=
  { s with regs := overlay s.regs x, mem := { s.mem with badWords := [] }, time := { s.time with staged := [], pend := [] } }

/-- A value that alone is pending, due, good and free to swap is taken, and nothing waits after it. -/
theorem State.swap_single {s : State} {b d : Tm} (next : Tm) {x : Pend} (hstaged : s.time.staged = []) (hpend : s.time.pend = [x])
    (hdue : x.due = some d) (hd : d ≤ b) (hbad : s.mem.badWords = []) (hwaits : s.swapWaits x = false) :
    (s.swap b next []).1 = ((s.took x).renameWaits b next []).put P.SWAP_LAST_TIME_NS 0 (tbNs b) := by
  simp [State.swap, hstaged, hpend, hdue, hd, hbad, hwaits, State.each, State.took]

/-- Such a threshold takes effect at the boundary, and SWAP_LAST shows it. -/
theorem State.turned_threshold {s : State} {b d : Tm} {c : Ch} {x : Pend} (hstaged : s.time.staged = []) (hpend : s.time.pend = [x])
    (hx : x.id = P.DISC_THR_THRESHOLD.id c 0) (hdue : x.due = some d) (hd : d ≤ b) (hbad : s.mem.badWords = []) :
    (s.turned b []).get P.DISC_THR_THRESHOLD c = P.DISC_THR_THRESHOLD.of x.val ∧ (s.turned b []).time.pend = [] ∧
      (s.turned b []).get P.SWAP_LAST_TIME_NS 0 = tbNs b % 2 ^ P.SWAP_LAST_TIME_NS.width := by
  have hswap := State.swap_single (boundaryAfter b s.spanLen) hstaged hpend hdue hd hbad (s.swapWaits_discThr hx)
  refine ⟨?_, State.turned_pend ?_, ?_⟩
  · rw [(SameSwap.turned s b [] c).1, hswap, State.get_put_par _ _ _ _ _ _ _ _ (by decide) (by decide) (by decide)]
    exact overlay_discThr s.regs hx
  · rw [hswap, State.put_time]
    rfl
  · rw [(SameSwap.turned s b [] 0).2, hswap, State.get_put_same _ _ _ _ _ (by decide)]

end Sys2Proof.Machine

namespace Sys2Proof.Machine

open Sys2Proof

/-- Settles O9: a write of SWAP_CFG by the classes it disarms and arms, a step by the filter that discards it, and a boundary by what
its swap, its anchor and the core's part leave. -/
theorem spanSwapsComplete : Obligations.SpanSwapsComplete := by
  unfold Obligations.SpanSwapsComplete
  intro s t hp
  refine ⟨?armed, ?denied, execSwapCutoff_staged hp, ?pending, ?dropped, ?boundary, ?threshold⟩
  case armed =>
    intro armed hlease
    refine acts_of_live hp (Eq.refl (execSwapCfgWrite t armed s)) ?_
    rw [State.clock_leased, if_pos hlease]
    have harmed (c : Nat) : (s.clock t).armed c = s.armed c := by rw [State.armed, State.clock_get, ← State.armed]
    refine ⟨State.writeArmed_armed .., fun c hold hnew => ?_, fun c hc hold hnew => ?_, State.writeArmed_key ..⟩
    · exact State.writeArmed_disarms ((harmed c).trans hold) hnew
    · exact State.writeArmed_arms hc ((harmed c).trans hold) hnew
  case denied =>
    intro armed hlease
    refine acts_of_live hp (Eq.refl (execSwapCfgWrite t armed s)) ?_
    rw [State.clock_leased, hlease, if_neg Bool.false_ne_true]
    obtain ⟨hdenied, hraised⟩ := State.deny_done (s.clock t)
    refine ⟨?_, ?_, hdenied, hraised⟩
    · rw [State.get_of_only (State.deny_only _) (by decide) _ _ _ (by decide) (by decide), State.clock_get]
    · have htime : (s.clock t).deny.time = (s.clock t).time := (State.deny_only _).1 .time (by decide)
      exact congrArg (fun x => x.pend) htime
  case pending =>
    intro epoch b toTarget val hnew hepoch hb
    refine ⟨_, exec_distributedStep_new hp hnew, ?_, fun p hin => ?_⟩
    · rw [State.dropSteps_steps, List.mem_filter, Bool.not_eq_true', State.stepGone_eq_false]
      exact ⟨State.mem_stepCome .., hepoch, hb⟩
    · rw [State.dropSteps_steps, List.mem_filter, Bool.not_eq_true', State.stepGone_eq_false] at hin
      exact hin.2
  case dropped =>
    intro epoch b toTarget val hnew hgone
    have hdrop : ((s.clock t).stepCome ⟨b, epoch, toTarget, val, none⟩).stepGone ⟨b, epoch, toTarget, val, none⟩ = true :=
      State.stepGone_eq_true.2 hgone
    refine ⟨_, exec_distributedStep_new hp hnew, fun hin => ?_, State.dropSteps_shown (State.mem_stepCome ..) hdrop⟩
    rw [State.dropSteps_steps, List.mem_filter, hdrop] at hin
    exact Bool.false_ne_true hin.2
  case boundary =>
    intro badWords b hdue hsteps hb
    exact ⟨_, exec_spanBoundary_turned hp hdue hsteps hb, State.turned_boundary ..⟩
  case threshold =>
    intro badWords b d c x hdue hsteps hb hwords hbad hstaged hpend hx hd hle
    subst hwords
    exact ⟨_, exec_spanBoundary_turned hp hdue hsteps hb, State.turned_threshold hstaged hpend hx hd hle hbad⟩

end Sys2Proof.Machine

namespace Sys2Proof.Machine

open Sys2Proof

/-! ### The time over threshold (R97) -/

/-- The first core-clock edge strictly after an instant follows it by at most one cycle (R86). -/
theorem edge1_spec (t : Tm) : t < edge1 t ∧ edge1 t ≤ t + ccSt ∧ edge1 t % ccSt = 0 := by
  have hedge : edge1 t = t / ccSt * ccSt + ccSt := Nat.succ_mul ..
  refine ⟨?_, ?_, Nat.mul_mod_left ..⟩
  · rw [hedge]
    exact Nat.lt_div_mul_add (by decide)
  · rw [hedge]
    exact Nat.add_le_add_right (Nat.div_mul_le_self ..) _

/-- A trailing edge that finds no open hit changes none (R97). -/
theorem closeHit_closed {trail : Tm} {l : List HitSt} (h : (l.all fun y => y.trail.isSome) = true) : closeHit trail l = l := by
  induction l with
  | nil => rfl
  | cons x xs ih =>
    rw [List.all_cons, Bool.and_eq_true] at h
    obtain ⟨hx, hxs⟩ := h
    rw [closeHit, if_neg (by simpa [Option.isSome_iff_ne_none] using hx), ih hxs]

/-- An update that leaves a channel as it is leaves every channel. -/
theorem State.modTd_td_of_fixed {s : State} {k : Nat} {f : TdcCh → TdcCh} (h : f (s.td k) = s.td k) (j : Nat) :
    (s.modTd k f).td j = s.td j := by
  by_cases hj : j = k
  · subst hj
    rw [State.modTd_same, h]
  · exact State.modTd_ne s hj f

/-- Settles O53: the leading edge by the hit it opens, the trailing edge and the saturation by the close of the open hit, a later edge
by the close that finds none. -/
theorem timeOverThreshold : Obligations.TimeOverThreshold := by
  unfold Obligations.TimeOverThreshold
  intro s t hp
  obtain ⟨-, -, -, htrailing, hsaturated, -, -, -, -⟩ := hitTimingCompletes s t hp
  refine ⟨?leading, ?trailing, hsaturated, ?later⟩
  case leading =>
    intro ch code henable habut hlast
    refine ⟨_, exec_leadingEdge_new code hp henable habut hlast, edge1_spec _, ?_⟩
    obtain ⟨hopen, -⟩ := (((s.clock t).edgeNoted ch).pairEdge ch code.toNat).1.hitNew_td ch
      (((s.clock t).edgeNoted ch).pairEdge ch code.toNat).2
    rw [hopen, List.getLast?_concat]
    rfl
  case trailing =>
    intro ch h hfind hbefore
    obtain ⟨u, hu, hlow, -, hclosed, -⟩ := htrailing ch h hfind hbefore
    exact ⟨u, hu, hlow, hclosed⟩
  case later =>
    intro ch hclosed
    have hexec : exec (.trailingEdge t ch) s = execTrailingEdge t ch s := by rfl
    refine acts_of_live hp hexec ?_
    have honly := execTrailingEdge_only t ch hp (live_of hp t _)
    rw [State.thrApply, State.modFeCh_same, State.feCh_congr (State.modTd_afe ..), State.modFeCh_same]
    refine ⟨rfl, rfl, fun c => ?_, honly⟩
    rw [State.td_congr (State.modFeCh_tdc ..), State.modTd_td_of_fixed, State.td_congr (State.modFeCh_tdc ..), State.clock_td]
    rw [State.td_congr (State.modFeCh_tdc ..), State.clock_td, closeHit_closed hclosed]

end Sys2Proof.Machine

namespace Sys2Proof.Machine

open Sys2Proof

/-! ### Interpolator pairs under an operation (R86 to R94) -/

namespace State

/-- What an update leaves of every pair, it leaves of each. -/
theorem modPair_keeps {α : Type} {π : Pair → α} {f : Pair → Pair} (hf : ∀ p, π (f p) = π p) (s : State) (k n : Nat) :
    π ((s.modPair k f).pair n) = π (s.pair n) := by
  by_cases hn : n = k
  · rw [hn, State.modPair_same, hf]
  · rw [State.modPair_ne s hn]

/-- An update of some pairs, each once. -/
theorem each_modPair_pair (g : Pair → Pair) {l : List Nat} (hl : l.Nodup) (s : State) (n : Nat) :
    (s.each l fun v k => v.modPair k g).pair n = if n ∈ l then g (s.pair n) else s.pair n := by
  induction l generalizing s with
  | nil => simp [State.each]
  | cons k l ih =>
    obtain ⟨hk, hl⟩ := List.nodup_cons.1 hl
    refine (ih hl (s.modPair k g)).trans ?_
    by_cases hn : n = k
    · subst hn
      simp [hk]
    · simp [hn, State.modPair_ne s hn]

theorem each_modPair_only (g : Pair → Pair) (l : List Nat) (s : State) : Only [.tdc] [] s (s.each l fun v k => v.modPair k g) :=
  Only.each (fun v k => State.modPair_only v k g) l Only.refl

/-- A raised source stays raised when an occurrence is logged (R443). -/
theorem log_keeps {s : State} {n : Nat} (code severity : Nat) (detail : List Byte) (h : Raised n s) :
    Raised n (s.log code severity detail) := by
  unfold State.log
  split
  · have hlatched := State.recRaises_latched (s.occur code severity detail).1 (s.occur code severity detail).2 n
    rw [State.occur_ev] at hlatched
    obtain ⟨hhost, hfw, hrecd⟩ := h
    exact ⟨hlatched.1 hhost, hlatched.2.1 hfw, hlatched.2.2 hrecd⟩
  · exact State.raise_keeps _ 225 h

end State

/-! ### Calibration visits (R90 to R94) -/

theorem visitPairs_nodup (u : Nat) : (visitPairs u).Nodup := by
  unfold visitPairs
  split <;> simp

theorem mem_visitPairs (u : Nat) : u ∈ visitPairs u := by
  unfold visitPairs
  split <;> simp

theorem visitPairs_channel {u : Nat} (h : u < 256) : visitPairs u = [u] := if_neg fun k => (Nat.not_le.2 h) k.1

/-- A pair whose finished test conversions have counted (R90 to R92). -/
def Pair.collected (p : Pair) (t : Tm) : Pair := { p with a := p.a.collect t, b := p.b.collect t }

theorem Ip.collect_stop (i : Ip) (t : Tm) : (i.collect t).stop = i.stop := by
  unfold Ip.collect
  split
  · split
    · exact (i.count_spec _).2
    · rfl
  · rfl

theorem Ip.collect_idle {i : Ip} (t : Tm) (h : i.test = none) : i.collect t = i := by
  unfold Ip.collect
  rw [h]

theorem Pair.ip_collected (p : Pair) (t : Tm) (n : Nat) : (p.collected t).ip n = (p.ip n).collect t := by
  unfold Pair.ip
  split <;> rfl

theorem Ip.countAll_nil (i : Ip) (due : Nat) : i.countAll due [] = i := by
  unfold Ip.countAll
  rw [List.take_nil, List.foldl_nil]

/-- Codes that are no more than those due count all (R90, R91). -/
theorem Ip.countAll_due {i : Ip} {due : Nat} {codes : List (BitVec 12)} (h : i.n + codes.length = due) :
    i.countAll due codes = codes.foldl (fun i c => i.count c.toNat) i ∧ (i.countAll due codes).n = due := by
  have hall : i.countAll due codes = codes.foldl (fun i c => i.count c.toNat) i := by
    unfold Ip.countAll
    rw [List.take_of_length_le (by omega)]
  refine ⟨hall, ?_⟩
  rw [hall]
  clear hall
  induction codes generalizing i with
  | nil => exact h
  | cons c l ih =>
    have hrest : (i.count c.toNat).n + l.length = due := by
      rw [(i.count_spec c.toNat).1, ← h, List.length_cons]
      omega
    exact ih hrest

namespace State

/-- The finished conversions of some pairs count (R90 to R92). -/
theorem each_pairCollect (s : State) (l : List Nat) :
    s.each l State.pairCollect = s.each l fun v k => v.modPair k (Pair.collected · s.time.now) := by
  have hfrom (v : State) (hv : v.time = s.time) :
      v.each l State.pairCollect = v.each l fun v k => v.modPair k (Pair.collected · s.time.now) := by
    induction l generalizing v with
    | nil => rfl
    | cons k l ih =>
      refine (ih (v.pairCollect k) hv).trans ?_
      have hk : v.pairCollect k = v.modPair k (Pair.collected · s.time.now) := by rw [← hv]; rfl
      rw [hk]
      rfl
  exact hfrom s rfl

theorem collected_pair (s : State) (u n : Nat) : (s.each (visitPairs u) State.pairCollect).pair n =
    if n ∈ visitPairs u then (s.pair n).collected s.time.now else s.pair n := by
  rw [each_pairCollect, each_modPair_pair _ (visitPairs_nodup u)]

/-- Counting a visit's conversions touches nothing but the interpolators' counts (R90, R91). -/
theorem visitMade_visitAt (s : State) (u : Nat) (a b : List (BitVec 12)) (pair : List (BitVec 12 × BitVec 12)) (n : Nat) :
    ((s.visitMade u a b pair).pair n).visitAt = (s.pair n).visitAt := by
  have hcollect (v : State) (l : List Nat) : ((v.each l State.pairCollect).pair n).visitAt = (v.pair n).visitAt :=
    State.each_keeps (Q := fun w => (w.pair n).visitAt = (v.pair n).visitAt)
      (fun w j h => (modPair_keeps (π := Pair.visitAt) (by intro; rfl) w j n).trans h) l rfl
  have hcount (v : State) (k : Nat) (a b : List (BitVec 12)) : ((v.pairCount k a b).pair n).visitAt = (v.pair n).visitAt :=
    modPair_keeps (π := Pair.visitAt) (by intro; rfl) v k n
  have hcounts (v : State) (k : Nat) (a b c d : List (BitVec 12)) (l : List Nat) :
      (((v.pairCount k a b).each l fun w p => w.pairCount p c d).pair n).visitAt = (v.pair n).visitAt :=
    State.each_keeps (Q := fun w => (w.pair n).visitAt = (v.pair n).visitAt) (fun w j h => (hcount w j c d).trans h) l (hcount ..)
  rw [visitMade, ← hcollect s (visitPairs u), visitCount]
  dsimp only
  split
  · split
    · exact hcounts ..
    · rfl
  · rfl

theorem clock_testsDue (s : State) (t : Tm) : (s.clock t).testsDue = s.testsDue := by
  rw [State.testsDue, State.testsDue, State.clock_flag]

/-- The density check of a visit finds a difference above the tolerance (R91). -/
def visitFails (s : State) (u : Nat) : Bool := s.flag P.TDC_CAL_CD_EN 0 && decide (s.get P.CD_TOL_TOL 0 < s.visitDev u)

section VisitMade

variable (s : State) (u : Nat) (a b : List (BitVec 12)) (pair : List (BitVec 12 × BitVec 12))

theorem visitMade_now : (s.visitMade u a b pair).time.now = s.time.now :=
  congrArg TimeSt.now ((State.visitMade_only ..).1 .time (by decide))

theorem visitMade_get (f : Fld) (i : Nat) (hf : f.pid / 4096 % 4096 = 0 ∧ f.pid % 4096 + 0 < 4096) :
    (s.visitMade u a b pair).get f i = s.get f i :=
  State.get_of_only (State.visitMade_only ..) (by decide) f i 0 hf List.not_mem_nil

theorem visitMade_flag (f : Fld) (i : Nat) (hf : f.pid / 4096 % 4096 = 0 ∧ f.pid % 4096 + 0 < 4096) :
    (s.visitMade u a b pair).flag f i = s.flag f i := by
  rw [State.flag, State.flag, visitMade_get _ _ _ _ _ _ _ hf]

theorem visitMade_testsDue : (s.visitMade u a b pair).testsDue = s.testsDue := by
  rw [State.testsDue, State.testsDue, visitMade_flag _ _ _ _ _ _ _ (by decide)]

/-- Whether a visit fails depends on what it has counted (R91). -/
theorem visitMade_fails {dev : Nat} (hdev : (s.visitMade u a b pair).visitDev u = dev) (hcd : s.flag P.TDC_CAL_CD_EN 0 = true)
    (habove : s.get P.CD_TOL_TOL 0 < dev) : (s.visitMade u a b pair).visitFails u = true := by
  rw [State.visitFails, visitMade_flag _ _ _ _ _ _ _ (by decide), visitMade_get _ _ _ _ _ _ _ (by decide), hdev, hcd,
    decide_eq_true habove]
  rfl

end VisitMade

/-- A visit that brings no codes counts what has finished, and no more (R90 to R92). -/
theorem visitMade_nil_pair (s : State) (u n : Nat) :
    (s.visitMade u [] [] []).pair n = (s.each (visitPairs u) State.pairCollect).pair n := by
  have hcount (v : State) (k : Nat) : (v.pairCount k [] []).pair n = v.pair n :=
    modPair_keeps (π := id) (by intro p; simp only [Ip.countAll_nil]) v k n
  have hcounts (v : State) (k : Nat) (l : List Nat) :
      ((v.pairCount k [] []).each l fun w p => w.pairCount p [] []).pair n = v.pair n :=
    State.each_keeps (Q := fun w => w.pair n = v.pair n) (fun w j h => (hcount w j).trans h) l (hcount ..)
  rw [visitMade, visitCount]
  dsimp only
  split
  · split
    · exact hcounts ..
    · rfl
  · rfl

/-- What a visit that brings no codes finds of its pairs (R90, R91). -/
theorem visitMade_nil (s : State) (u : Nat) :
    (∀ n, (s.visitMade u [] [] []).pair n = (s.each (visitPairs u) State.pairCollect).pair n) ∧
    (s.visitMade u [] [] []).pairDone = (s.each (visitPairs u) State.pairCollect).pairDone ∧
    (s.visitMade u [] [] []).visitDev u = (s.each (visitPairs u) State.pairCollect).visitDev u := by
  have hdue : (s.visitMade u [] [] []).testsDue = (s.each (visitPairs u) State.pairCollect).testsDue := by
    rw [visitMade_testsDue, each_pairCollect, State.testsDue, State.testsDue,
      State.flag_of_only (each_modPair_only ..) (by decide) _ _ _ (by decide) List.not_mem_nil]
  refine ⟨visitMade_nil_pair s u, funext fun n => ?_, ?_⟩
  · simp only [State.pairDone, visitMade_nil_pair, hdue]
  · simp only [State.visitDev, visitMade_nil_pair]

/-- The codes that come with a channel's visit count whole where they are those due (R90, R91; log entry 114). -/
theorem visitMade_channel {s : State} {u : Nat} {v : Tm} {a b : List (BitVec 12)} (pair : List (BitVec 12 × BitVec 12)) (hu : u < 256)
    (hvisit : (s.pair u).visitAt = some v) (htime : v + 24 * ccSt * (2 * s.testsDue) ≤ s.time.now)
    (hstill : ((s.pair u).edge.all fun e => decide (e ≤ v)) = true) (hidle : (s.pair u).a.test = none ∧ (s.pair u).b.test = none)
    (ha : (s.pair u).a.n + a.length = s.testsDue) (hb : (s.pair u).b.n + b.length = s.testsDue) :
    (s.visitMade u a b pair).pair u =
      { s.pair u with a := (s.pair u).a.countAll s.testsDue a, b := (s.pair u).b.countAll s.testsDue b } := by
  have hpairs := visitPairs_channel hu
  have hcollected : (s.pairCollect u).pair u = s.pair u := by
    rw [State.pairCollect, State.modPair_same, Ip.collect_idle _ hidle.1, Ip.collect_idle _ hidle.2]
  have hdue : (s.pairCollect u).testsDue = s.testsDue := by rw [State.testsDue, State.testsDue]; rfl
  have hcounted : ((s.pairCollect u).pairCount u a b).pair u =
      { s.pair u with a := (s.pair u).a.countAll s.testsDue a, b := (s.pair u).b.countAll s.testsDue b } := by
    rw [State.pairCount, State.modPair_same, hcollected, hdue]
  have hmade : ((s.pairCollect u).pairCount u a b).testsMade u = 2 * s.testsDue := by
    rw [State.testsMade, hcounted, (Ip.countAll_due ha).2, (Ip.countAll_due hb).2, Nat.two_mul]
  have hall : (([u].all fun p => ((s.pairCollect u).pair p).edge.all fun e => decide (e ≤ v)) &&
      decide (v + 24 * ccSt * ([u].map ((s.pairCollect u).pairCount u a b).testsMade).sum ≤ (s.pairCollect u).time.now)) = true := by
    rw [List.all_cons, List.all_nil, hcollected, hstill, List.map_singleton, List.sum_singleton, hmade]
    exact decide_eq_true htime
  have hcount : (s.pairCollect u).visitCount u a b pair = (s.pairCollect u).pairCount u a b := by
    unfold State.visitCount
    rw [hcollected, hvisit, hpairs]
    exact if_pos hall
  rw [visitMade, hpairs]
  exact (congrArg (fun w => w.pair u) hcount).trans hcounted

/-! ### The start of a visit (R92, R94, R421) -/

/-- A visit that begins runs, with nothing counted, and is asked for no more (R92, R94). -/
theorem visitBegin_spec (s : State) (u : Nat) (byHost : Bool) : ((s.visitBegin u byHost).pair u).visitAt = some s.time.now ∧
    (∀ p ∈ visitPairs u, ((s.visitBegin u byHost).pair p).a.n = 0 ∧ ((s.visitBegin u byHost).pair p).b.n = 0) ∧
    (s.visitBegin u byHost).maintRuns 2 u = true ∧ u ∉ (s.visitBegin u byHost).mbox.tdcAsk := by
  unfold State.visitBegin
  extract_lets tdc mbox s1 s2
  have hmbox : s2.mbox = s1.mbox := (each_modPair_only ..).1 .mbox (by decide)
  refine ⟨?_, fun p hp => ?_, (State.maintBegin_runs ..).1, ?_⟩
  · rw [State.pair_of_only (State.maintBegin_only ..) (by decide), State.modPair_same]
  · rw [State.pair_of_only (State.maintBegin_only ..) (by decide),
      modPair_keeps (π := Pair.a) (by intro; rfl), modPair_keeps (π := Pair.b) (by intro; rfl),
      each_modPair_pair _ (visitPairs_nodup u), if_pos hp]
    exact ⟨rfl, rfl⟩
  · rw [(State.maintBegin_only ..).1 .mbox (by decide), State.modPair_mbox, hmbox]
    simp [s1]

/-! ### The end of a visit (R90, R91, R94, R106) -/

/-- The visit of a unit is over, and its fit waits (R90, R92). -/
def visitFitted (s : State) (u : Nat) : State :=
  ((s.each (visitPairs u) fun s p => s.modPair p Pair.fitNow).modPair u fun p =>
    { p with visitAt := none, visited := some s.time.now, temp := s.unitTemp u }).maintEnd 2 u

/-- What the visit shows (R91, R106). -/
def visitShown (s : State) (u : Nat) : State :=
  if u < 256 then (s.visitFitted u).visitShow u (s.flag P.TDC_CAL_CD_EN 0) (s.visitFails u) else s.visitFitted u

/-- The visit of a unit completes (R90, R91). -/
def visitEnded (s : State) (u : Nat) : State :=
  if s.visitFails u then ((s.visitShown u).raise 157).log 0x0301 3 (le 2 u) else s.visitShown u

/-- The fit's own pairs, before the visit's end shows in the maintenance registers. -/
theorem visitFitted_tdc (s : State) (u : Nat) : (s.visitFitted u).tdc =
    ((s.each (visitPairs u) fun s p => s.modPair p Pair.fitNow).modPair u fun p =>
      { p with visitAt := none, visited := some s.time.now, temp := s.unitTemp u }).tdc := (State.maintEnd_only ..).1 .tdc (by decide)

theorem visitFitted_get (s : State) (u : Nat) (f : Fld) (i : Nat) (hf : f.pid / 4096 % 4096 = 0 ∧ f.pid % 4096 + 0 < 4096)
    (hr : f.pid + 0 ∉ [0x0F000102, 0x0F000103]) : (s.visitFitted u).get f i = s.get f i := by
  rw [visitFitted, State.get_of_only (State.maintEnd_only ..) (by decide) _ _ _ hf hr, State.modPair_get,
    State.get_of_only (each_modPair_only ..) (by decide) _ _ _ hf List.not_mem_nil]

theorem visitFitted_fit {s : State} {u p : Nat} (h : p ∈ visitPairs u) : ((s.visitFitted u).pair p).fitted = true ∧
    ((s.visitFitted u).pair p).a.fit = (s.pair p).a.sums ∧ ((s.visitFitted u).pair p).b.fit = (s.pair p).b.sums := by
  rw [State.pair_congr (visitFitted_tdc s u), modPair_keeps (π := Pair.fitted) (by intro; rfl),
    modPair_keeps (π := Pair.a) (by intro; rfl), modPair_keeps (π := Pair.b) (by intro; rfl),
    each_modPair_pair _ (visitPairs_nodup u), if_pos h]
  exact ⟨rfl, rfl, rfl⟩

theorem visitFitted_sums (s : State) (u n : Nat) : ((s.visitFitted u).pair n).a.sums = (s.pair n).a.sums ∧
    ((s.visitFitted u).pair n).b.sums = (s.pair n).b.sums := by
  rw [State.pair_congr (visitFitted_tdc s u), modPair_keeps (π := Pair.a) (by intro; rfl),
    modPair_keeps (π := Pair.b) (by intro; rfl), each_modPair_pair _ (visitPairs_nodup u)]
  split <;> exact ⟨rfl, rfl⟩

/-- What a channel's visit shows of its fit, whatever the density check says (R106). -/
theorem visitShow_get (s : State) (c : Nat) (cd fail : Bool) :
    (s.visitShow c cd fail).get P.TDC_CAL_RESULT_INL_A c = satTo 8 (inlOf (s.pair c).a.sums) ∧
    (s.visitShow c cd fail).get P.TDC_CAL_RESULT_INL_B c = satTo 8 (inlOf (s.pair c).b.sums) ∧
    (s.visitShow c cd fail).get P.TDC_CAL_STATUS_VISITS c = satTo P.TDC_CAL_STATUS_VISITS.width (s.get P.TDC_CAL_STATUS_VISITS c + 1) := by
  have hfits (w v : Nat) : satTo w v % 2 ^ w = satTo w v := Nat.mod_eq_of_lt (satTo_lt w v)
  unfold State.visitShow State.bump State.putB
  refine ⟨?_, ?_, ?_⟩ <;> cases cd <;> cases fail <;>
    simp (disch := decide) only [Bool.false_eq_true, if_true, if_false, State.get_put_par, State.get_put_apart, State.get_put_same] <;>
    exact hfits ..

theorem visitShown_parts (s : State) (u : Nat) : (s.visitShown u).tdc = (s.visitFitted u).tdc ∧
    (s.visitShown u).core = (s.visitFitted u).core := by
  unfold visitShown
  split
  · exact ⟨(State.visitShow_only ..).1 .tdc (by decide), (State.visitShow_only ..).1 .core (by decide)⟩
  · exact ⟨rfl, rfl⟩

theorem visitEnded_parts (s : State) (u : Nat) : (s.visitEnded u).tdc = (s.visitFitted u).tdc ∧
    (s.visitEnded u).core.run = (s.visitFitted u).core.run := by
  obtain ⟨htdc, hcore⟩ := s.visitShown_parts u
  unfold visitEnded
  split
  · rw [(State.log_only ..).1 .tdc (by decide), (State.raise_only ..).1 .tdc (by decide), State.log_run,
      (State.raise_only ..).1 .core (by decide), htdc, hcore]
    exact ⟨rfl, rfl⟩
  · rw [htdc, hcore]
    exact ⟨rfl, rfl⟩

/-- A completed visit has ended, its fits wait for their boundary, and the activity runs no longer (R90, R92, R420). -/
theorem visitEnded_done (s : State) (u : Nat) : ((s.visitEnded u).pair u).visitAt = none ∧
    ((s.visitEnded u).pair u).visited = some s.time.now ∧
    (∀ p ∈ visitPairs u, ((s.visitEnded u).pair p).fitted = true ∧ ((s.visitEnded u).pair p).a.fit = (s.pair p).a.sums ∧
      ((s.visitEnded u).pair p).b.fit = (s.pair p).b.sums) ∧
    (s.visitEnded u).maintRuns 2 u = false := by
  obtain ⟨htdc, hrun⟩ := s.visitEnded_parts u
  simp only [State.pair_congr htdc]
  refine ⟨?_, ?_, fun p hp => visitFitted_fit hp, ?_⟩
  · rw [State.pair_congr (visitFitted_tdc s u), State.modPair_same]
  · rw [State.pair_congr (visitFitted_tdc s u), State.modPair_same]
  · rw [State.maintRuns, hrun]
    exact State.maintEnd_runs ..

/-- A channel's completed visit shows its INL and counts (R106). -/
theorem visitEnded_shows (s : State) {u : Nat} (hu : u < 256) :
    (s.visitEnded u).get P.TDC_CAL_RESULT_INL_A u = satTo 8 (inlOf (s.pair u).a.sums) ∧
    (s.visitEnded u).get P.TDC_CAL_RESULT_INL_B u = satTo 8 (inlOf (s.pair u).b.sums) ∧
    (s.visitEnded u).get P.TDC_CAL_STATUS_VISITS u = satTo P.TDC_CAL_STATUS_VISITS.width (s.get P.TDC_CAL_STATUS_VISITS u + 1) := by
  have hlogged (f : Fld) (hf : f.pid / 4096 % 4096 = 0 ∧ f.pid % 4096 + 0 < 4096) (hr : f.pid + 0 ∉ [0x11000203, 0x11000204]) :
      (s.visitEnded u).get f u = (s.visitShown u).get f u := by
    unfold visitEnded
    split
    · rw [State.log_get _ _ _ _ _ _ _ hf hr, State.raise_get _ _ _ _ _ hf hr]
    · rfl
  have hfit (f : Fld) (hf : f.pid / 4096 % 4096 = 0 ∧ f.pid % 4096 + 0 < 4096) (hr : f.pid + 0 ∉ [0x0F000102, 0x0F000103]) :=
    s.visitFitted_get u f u hf hr
  obtain ⟨ha, hb⟩ := s.visitFitted_sums u u
  obtain ⟨hshowA, hshowB, hvisits⟩ := (s.visitFitted u).visitShow_get u (s.flag P.TDC_CAL_CD_EN 0) (s.visitFails u)
  rw [hlogged _ (by decide) (by decide), hlogged _ (by decide) (by decide), hlogged _ (by decide) (by decide), visitShown, if_pos hu,
    hshowA, hshowB, hvisits, ha, hb, visitFitted_get _ _ _ _ (by decide) (by decide)]
  exact ⟨rfl, rfl, rfl⟩

/-- A difference above the tolerance raises source 157, and a channel's shows CD_FAIL (R91). -/
theorem visitEnded_fails {s : State} {u : Nat} (h : s.visitFails u = true) : Raised 157 (s.visitEnded u) ∧
    (u < 256 → (s.visitEnded u).flag P.TDC_CAL_STATUS_CD_FAIL u = true) := by
  rw [visitEnded, if_pos h]
  refine ⟨log_keeps _ _ _ (State.raise_raised _ (by decide)), fun hu => ?_⟩
  rw [State.flag_of_only (State.log_only ..) (by decide) _ _ _ (by decide) (by decide),
    State.flag_of_only (State.raise_only ..) (by decide) _ _ _ (by decide) (by decide), visitShown, if_pos hu, State.visitShow, h]
  exact State.flag_putB_same _ _ _ _ (by decide)

end State

/-- The next due visit starts (R92, R94, R421). -/
theorem exec_tdcCalVisitStart {s : State} {t : Tm} {unit : Fin 268} (hp : s.pwr.por = false) (hlease : s.leased = true)
    (habut : s.abut = false) (hnext : (s.clock t).visitNext (visitScope unit) = some unit.val)
    (hfree : (s.core.run.any fun a => a.code == 2 && visitScope a.unit == visitScope unit) = false)
    (hjudge : s.maintJudge 2 unit = .run) : exec (.tdcCalVisitStart t unit) s = .next ((s.clock t).visitBegin unit false) := by
  have hjudge' : (s.clock t).maintJudge 2 unit = .run := hjudge
  have hstart : ((s.clock t).leased && !(s.clock t).abut && (s.clock t).visitNext (visitScope unit) == some unit.val &&
      !(s.clock t).core.run.any fun a => a.code == 2 && visitScope a.unit == visitScope unit) = true := by
    rw [State.clock_leased, State.clock_abut, State.clock_core, hlease, habut, hnext, hfree]
    simp
  simp only [exec, execTdcCalVisitStart, live_of hp, hjudge']
  exact congrArg Host.Outcome.next (if_pos hstart)

/-- A test conversion starts in a visit whose pair is free and quiet (R90, R92). -/
theorem exec_testConversionStart {s : State} {t : Tm} {unit : Fin 271} {ip : Fin 2} (code : BitVec 12) (hp : s.pwr.por = false)
    (hvisit : (s.pair (visitOf unit)).visitAt ≠ none) (hturn : unit.val < 268 ∨ s.pairDone (visitOf unit) = true)
    (ha : (s.pair unit).a.free (s.instant t) = true) (hb : (s.pair unit).b.free (s.instant t) = true)
    (hquiet : ((s.pair unit).edge.all fun e => decide (e + 24 * ccSt ≤ s.instant t)) = true)
    (hdue : (((s.pair unit).ip ip).collect (s.instant t)).n < s.testsDue) :
    exec (.testConversionStart t unit ⟨ip, code⟩) s = .next (((s.clock t).pairCollect unit).modPair unit fun p =>
      p.setIp ip { p.ip ip with stop := s.instant t + 24 * ccSt, test := some code.toNat }) := by
  have hpair : ((s.clock t).pairCollect unit).pair unit = (s.pair unit).collected (s.instant t) := State.modPair_same ..
  have hvisitAt : (((s.clock t).pairCollect unit).pair (visitOf unit)).visitAt = (s.pair (visitOf unit)).visitAt :=
    State.modPair_keeps (π := Pair.visitAt) (by intro; rfl) _ _ _
  have hturn' : (unit.val < 268 || ((s.clock t).pairCollect unit).pairDone (visitOf unit)) = true := by
    rcases Nat.lt_or_ge unit.val 268 with hlow | hhigh
    · simp [hlow]
    · have hne : visitOf unit.val ≠ unit.val := by
        have := unit.isLt
        rw [visitOf, if_neg (Nat.not_lt.2 hhigh)]
        omega
      have hdone : ((s.clock t).pairCollect unit).pairDone (visitOf unit) = s.pairDone (visitOf unit) := by
        rw [State.pairDone, State.pairCollect, State.modPair_ne _ hne]
        rfl
      rw [hdone, hturn.resolve_left (Nat.not_lt.2 hhigh), Bool.or_true]
  have hquiet' : (match (s.pair unit).edge with | some e => decide (e + 24 * ccSt ≤ s.instant t) | none => true) = true := by
    cases hedge : (s.pair unit).edge with
    | none => rfl
    | some e => rwa [hedge] at hquiet
  have hfree (i : Ip) (h : i.free (s.instant t) = true) : (i.collect (s.instant t)).free (s.instant t) = true := by
    rw [Ip.free, Ip.collect_stop]
    exact h
  have hdue' : decide ((((s.pair unit).collected (s.instant t)).ip ip).n < s.testsDue) = true := by
    rw [Pair.ip_collected]
    exact decide_eq_true hdue
  have hstart : (((((s.clock t).pairCollect unit).pair (visitOf unit)).visitAt.isSome &&
      (unit.val < 268 || ((s.clock t).pairCollect unit).pairDone (visitOf unit))) &&
      ((s.pair unit).a.collect (s.instant t)).free (s.instant t) && ((s.pair unit).b.collect (s.instant t)).free (s.instant t) &&
      (match (s.pair unit).edge with | some e => decide (e + 24 * ccSt ≤ s.instant t) | none => true) &&
      decide ((((s.pair unit).collected (s.instant t)).ip ip).n < s.testsDue)) = true := by
    rw [hvisitAt, hturn', hfree _ ha, hfree _ hb, hquiet', hdue', Option.isSome_iff_ne_none.2 hvisit]
    rfl
  simp only [exec, execTestConversionStart, live_of hp, hpair]
  exact congrArg Host.Outcome.next (if_pos hstart)

/-- A visit whose conversions are all made within 1 s completes (R90, R92). -/
theorem exec_tdcCalVisitComplete {s : State} {t : Tm} {unit : Fin 268} {v : Tm} {codesA codesB : List (BitVec 12)}
    {codesPair : List (BitVec 12 × BitVec 12)} (hp : s.pwr.por = false) (hvisit : (s.pair unit).visitAt = some v)
    (hin : s.instant t ≤ v + secSt)
    (hdone : (visitPairs unit).all ((s.clock t).visitMade unit codesA codesB codesPair).pairDone = true) :
    exec (.tdcCalVisitComplete t unit codesA codesB codesPair) s =
      .next (((s.clock t).visitMade unit codesA codesB codesPair).visitEnded unit) := by
  have hvisit' : (((s.clock t).visitMade unit codesA codesB codesPair).pair unit).visitAt = some v :=
    (State.visitMade_visitAt ..).trans hvisit
  have hnow : ((s.clock t).visitMade unit codesA codesB codesPair).time.now = s.instant t := by
    rw [(State.visitMade_only ..).1 .time (by decide), State.clock_instant]
  have hopen : (decide (v + secSt < ((s.clock t).visitMade unit codesA codesB codesPair).time.now) ||
      !(visitPairs unit).all ((s.clock t).visitMade unit codesA codesB codesPair).pairDone) = false := by
    rw [hnow, hdone, decide_eq_false (Nat.not_lt.2 hin)]
    rfl
  simp only [exec, execTdcCalVisitComplete, live_of hp, hvisit', hopen]
  rfl

/-! ### Delay lines (R93, R106) -/

namespace State

/-- DLL_STATUS shows whether a delay line is unlocked (R106). -/
theorem dllShow_locked (s : State) : s.dllShow.flag P.DLL_STATUS_LOCKED 0 = (upTo 268).all fun k => !(s.pair k).unlocked :=
  State.flag_putB_same _ _ _ _ (by decide)

/-- A delay line has lost its lock (R93). -/
def lineLost (s : State) (u : Nat) : State :=
  ((((s.modPair u fun p => { p with unlocked := true, visitAt := none }).maintEnd 2 u).dllShow).bump P.DLL_STATUS_LOSSES 0).raise 157

/-- A lost lock stops the visit, keeps the transfer, counts and raises source 157 (R93, R106). -/
theorem lineLost_spec (s : State) {u : Nat} (hu : u < 268) : ((s.lineLost u).pair u).unlocked = true ∧
    ((s.lineLost u).pair u).visitAt = none ∧ ((s.lineLost u).pair u).fitAt = (s.pair u).fitAt ∧
    (s.lineLost u).maintRuns 2 u = false ∧ (s.lineLost u).flag P.DLL_STATUS_LOCKED 0 = false ∧
    (s.lineLost u).get P.DLL_STATUS_LOSSES 0 = satTo P.DLL_STATUS_LOSSES.width (s.get P.DLL_STATUS_LOSSES 0 + 1) ∧
    Raised 157 (s.lineLost u) := by
  have hended : ((s.modPair u fun p => { p with unlocked := true, visitAt := none }).maintEnd 2 u).pair u =
      { s.pair u with unlocked := true, visitAt := none } := by
    rw [State.pair_of_only (State.maintEnd_only ..) (by decide), State.modPair_same]
  have hpair : (s.lineLost u).pair u = { s.pair u with unlocked := true, visitAt := none } := by
    rw [lineLost, State.pair_of_only (State.raise_only ..) (by decide), State.pair_congr (State.bump_tdc ..),
      State.pair_of_only (State.dllShow_only _) (by decide), hended]
  rw [hpair]
  refine ⟨rfl, rfl, rfl, ?_, ?_, ?_, State.raise_raised _ (by decide)⟩
  · rw [lineLost, State.maintRuns, (State.raise_only ..).1 .core (by decide), State.bump_core, (State.dllShow_only _).1 .core (by decide)]
    exact State.maintEnd_runs ..
  · rw [lineLost, State.flag_of_only (State.raise_only ..) (by decide) _ _ _ (by decide) (by decide), State.bump, State.flag,
      State.get_put_apart _ _ _ _ _ _ (by decide) (by decide) (by decide) (by decide), ← State.flag, dllShow_locked]
    exact List.all_eq_false.2 ⟨u, List.mem_range.2 hu, by simp [hended]⟩
  · rw [lineLost, State.raise_get _ _ _ _ _ (by decide) (by decide), State.get_bump_same _ _ _ _ (by decide), State.dllShow, State.putB,
      State.get_put_apart _ _ _ _ _ _ (by decide) (by decide) (by decide) (by decide),
      State.get_of_only (State.maintEnd_only ..) (by decide) _ _ _ (by decide) (by decide), State.modPair_get]

end State

section LockLoss

variable {s : State} {t : Tm} {unit : Fin 268} (hp : s.pwr.por = false) (hlocked : (s.pair unit).unlocked = false)
include hp hlocked

theorem exec_dllLockLoss_channel (h : unit.val < 256) : exec (.dllLockLoss t unit) s = .next ((s.clock t).lineLost unit) := by
  have hlocked' : ((s.clock t).pair unit).unlocked = false := hlocked
  rw [exec, execDllLockLoss, live_of hp, hlocked', if_neg Bool.false_ne_true]
  exact congrArg Host.Outcome.next (if_pos h)

theorem exec_dllLockLoss_other (h : ¬ unit.val < 256) :
    exec (.dllLockLoss t unit) s = .next (((s.clock t).lineLost unit).log 0x0301 3 (le 2 unit)) := by
  have hlocked' : ((s.clock t).pair unit).unlocked = false := hlocked
  rw [exec, execDllLockLoss, live_of hp, hlocked', if_neg Bool.false_ne_true]
  exact congrArg Host.Outcome.next (if_neg h)

end LockLoss

/-! ### The gauge (R101 to R104) -/

theorem unsgn_lt (w : Nat) (x : Int) : unsgn w x < 2 ^ w := by
  unfold unsgn
  have hpos : (0 : Int) < 2 ^ w := by positivity
  have hlt := Int.emod_lt_of_pos x hpos
  have hnonneg := Int.emod_nonneg x hpos.ne'
  zify
  omega

/-- An edge of a running gauge that measures a pin or a lane, of those that EDGE selects (R18, R101). -/
theorem exec_gaugeEdge_counted {s : State} {t : Tm} {g : Fin 8} {rising : Bool} (code : BitVec 12) (hp : s.pwr.por = false)
    (habut : s.abut = false) (hruns : (s.gauge g).start ≠ none) (hinput : (s.gauge g).input ≠ 0x10)
    (hcounts : (s.gauge g).counts rising = true) :
    exec (.gaugeEdge t ⟨g, rising, code⟩) s = .next (if (s.gauge g).skip + 1 < (s.gauge g).prescale
      then (s.clock t).modGauge g fun x => x.edgeAt (s.instant t) true
      else ((s.clock t).pinEdge (256 + g) code.toNat).1.modGauge g fun x =>
        x.edgeAt (((s.clock t).pinEdge (256 + g) code.toNat).2.getD (s.instant t)).toNat
          ((s.clock t).pinEdge (256 + g) code.toNat).2.isSome) := by
  have hoff : ((s.gauge g).start.isNone || (s.gauge g).input == 0x10 || !(s.gauge g).counts rising || (s.clock t).abut) = false := by
    rw [hcounts, State.clock_abut, habut, Option.isNone_eq_false_iff.2 (Option.isSome_iff_ne_none.2 hruns), beq_false_of_ne hinput]
    rfl
  rw [exec, execGaugeEdge, live_of hp]
  exact congrArg Host.Outcome.next (if_neg (Bool.eq_false_iff.1 hoff))

/-- A pass of the prescaler counts, and is stamped where a stamp is given (R101). -/
theorem Gauge.edgeAt_passes {x : Gauge} (t : Tm) (stamped : Bool) (h : x.prescale ≤ x.skip + 1) : (x.edgeAt t stamped).skip = 0 ∧
    (x.edgeAt t stamped).count = x.count + 1 ∧ (stamped = true → (x.edgeAt t stamped).stamps = (x.count, t) :: x.stamps) ∧
    (stamped = false → (x.edgeAt t stamped).lost = (x.count, t) :: x.lost) := by
  unfold Gauge.edgeAt
  rw [if_neg (Nat.not_lt.2 h)]
  cases stamped
  · exact ⟨rfl, rfl, by simp, fun _ => rfl⟩
  · exact ⟨rfl, rfl, fun _ => rfl, by simp⟩

namespace State

theorem pinEdge_pair (s : State) (n code : Nat) :
    (s.pinEdge n code).1.pair n = ((s.pair n).take s.time.now code (Config.unstated 13 [n, code])).1 := State.modPair_same ..

theorem pinEdge_stamp (s : State) (n code : Nat) : (s.pinEdge n code).2 =
    ((s.pair n).take s.time.now code (Config.unstated 13 [n, code])).2.map fun x => (x : Int) - Config.pinFused n := rfl

/-- The next gate starts at the first aligned time, and the last result stays (R102). -/
theorem gaugeArm_spec (s : State) (g : Nat) (from_ : Tm) : ((s.gaugeArm g from_).gauge g).start =
    (if s.get P.GAUGE_SEL_INPUT g = 0 then none
      else some (ceilDiv from_ (gateLen (s.get P.GAUGE_GATE_GATE g)) * gateLen (s.get P.GAUGE_GATE_GATE g))) ∧
    ((s.gaugeArm g from_).gauge g).resultAt = (s.gauge g).resultAt := by
  unfold State.gaugeArm
  extract_lets s0 len on old x
  have hstart : x.start = if s.get P.GAUGE_SEL_INPUT g = 0 then none else some (ceilDiv from_ len * len) := by
    by_cases h : s.get P.GAUGE_SEL_INPUT g = 0 <;> simp [x, on, h]
  have hresult : x.resultAt = old.resultAt := rfl
  rw [State.modGauge_same, ← hstart]
  split <;> exact ⟨rfl, rfl⟩

/-- A gate's result: its record, what the registers show of it, and its sources (R103, R104). -/
def gateShown (s : State) (g : Nat) (r : Rec) (freq mean : Int) (flagged : Bool) : State :=
  (((((s.monEmit r).put P.GAUGE_FREQ_FREQ g (unsgn 64 freq)).put P.GAUGE_MEAN_MEAN g (unsgn 64 mean)).bump
    P.GAUGE_STATUS_GATES g).raise 88).raiseIf flagged 89

section GateShown

variable (s : State) (g : Nat) (r : Rec) (freq mean : Int) (flagged : Bool)

theorem gateShown_raised : Raised 88 (s.gateShown g r freq mean flagged) := raiseIf_keeps _ _ (State.raise_raised _ (by decide))

theorem gateShown_mon : (s.gateShown g r freq mean flagged).ctx.mon.getLast? = some ⟨s.ctx.monEnd, r, false⟩ := by
  rw [gateShown, (State.raiseIf_only ..).1 .ctx (by decide), State.raise_ctx, State.bump_ctx, State.put_ctx, State.put_ctx]
  exact (State.monEmit_last ..).2

/-- Of the gauge's own parameters the result writes three (R106). -/
theorem gateShown_get_other (f : Fld) (i : Nat) (hf : f.pid / 4096 % 4096 = 0 ∧ f.pid % 4096 + 0 < 4096)
    (hr : f.pid + 0 ∉ [0x03000306, 0x03000307, 0x03000308, 0x08000015, 0x08000203, 0x11000203, 0x11000204]) :
    (s.gateShown g r freq mean flagged).get f i = s.get f i := by
  have honly : Only [.ev, .recd, .ctx, .out] [0x03000306, 0x03000307, 0x03000308, 0x08000015, 0x08000203, 0x11000203, 0x11000204] s
      (s.gateShown g r freq mean flagged) := by
    unfold gateShown
    simp (disch := decide) only [Only.refl_iff, Only.bump_iff, Only.put_iff, Only.step_iff (State.raiseIf_only _ _ _),
      Only.step_iff (State.raise_only _ _), Only.step_iff (State.monEmit_only _ _)]
  exact State.get_of_only honly (by decide) _ _ _ hf hr

/-- The result registers (R103, R106). -/
theorem gateShown_get : (s.gateShown g r freq mean flagged).get P.GAUGE_FREQ_FREQ g = unsgn 64 freq ∧
    (s.gateShown g r freq mean flagged).get P.GAUGE_MEAN_MEAN g = unsgn 64 mean ∧
    (s.gateShown g r freq mean flagged).get P.GAUGE_STATUS_GATES g =
      satTo P.GAUGE_STATUS_GATES.width (s.get P.GAUGE_STATUS_GATES g + 1) := by
  have hraised (f : Fld) (hf : f.pid / 4096 % 4096 = 0 ∧ f.pid % 4096 + 0 < 4096) (hr : f.pid + 0 ∉ [0x11000203, 0x11000204])
      (v : State) : ((v.raise 88).raiseIf flagged 89).get f g = v.get f g := by
    rw [raiseIf_get _ _ _ _ _ _ hf hr, State.raise_get _ _ _ _ _ hf hr]
  unfold gateShown
  rw [hraised _ (by decide) (by decide), hraised _ (by decide) (by decide), hraised _ (by decide) (by decide)]
  refine ⟨?_, ?_, ?_⟩
  · rw [State.bump, State.get_put_par _ _ _ _ _ _ _ _ (by decide) (by decide) (by decide),
      State.get_put_par _ _ _ _ _ _ _ _ (by decide) (by decide) (by decide)]
    exact State.get_put_fits _ _ _ (by decide) (unsgn_lt ..)
  · rw [State.bump, State.get_put_par _ _ _ _ _ _ _ _ (by decide) (by decide) (by decide)]
    exact State.get_put_fits _ _ _ (by decide) (unsgn_lt ..)
  · rw [State.get_bump_same _ _ _ _ (by decide), State.get_put_par _ _ _ _ _ _ _ _ (by decide) (by decide) (by decide),
      State.get_put_par _ _ _ _ _ _ _ _ (by decide) (by decide) (by decide),
      State.get_of_only (State.monEmit_only ..) (by decide) _ _ _ (by decide) (by decide)]

end GateShown

end State

/-- The flags of a gate's record (R104). -/
def State.gateFlags (s : State) (x : Gauge) (t0 len : Nat) (f : GateFit) : Nat :=
  16 * b2n (over32 f.lo || over32 f.hi || decide (2 ^ 32 ≤ f.sd)) + 32 * b2n (decide (0 < x.missed t0 len)) +
    64 * b2n (decide (f.n < 3)) + 128 * b2n (s.flag P.TIME_STATUS_SLEWING 0 || decide (t0 < s.time.slewAt))

/-- What a gauge input keeps when its gate, which ended at `stop`, has given its result (R103). -/
def Gauge.gateKept (x : Gauge) (now stop half : Nat) (few : Bool) : Gauge := { x with
  resultAt := some now, few := few, stamps := x.stamps.filter fun y => decide (stop ≤ y.2 + half),
  lost := x.lost.filter fun y => decide (stop ≤ y.2) }

/-- A gate ends with a fit, and the next one starts (R102 to R104). -/
def State.gateEnded (s : State) (g t0 len : Nat) (f : GateFit) : State :=
  ((s.gateShown g (s.gaugeRec g (s.gauge g) t0 f ((s.gauge g).missed t0 len) (s.gateFlags (s.gauge g) t0 len f)) f.freq f.mean
    (s.gateFlags (s.gauge g) t0 len f != 0)).modGauge g fun x =>
      x.gateKept s.time.now (t0 + len) ((s.gauge g).nominal / 2) (decide (f.n < 3))).gaugeArm g (max (t0 + len) s.stretchFrom)

/-- The result of a gate that ended, its record and the start of the next gate (R102 to R104). -/
theorem State.gateEnded_spec (s : State) (g t0 len : Nat) (f : GateFit) :
    (s.gateEnded g t0 len f).get P.GAUGE_FREQ_FREQ g = unsgn 64 f.freq ∧
    (s.gateEnded g t0 len f).get P.GAUGE_MEAN_MEAN g = unsgn 64 f.mean ∧
    (s.gateEnded g t0 len f).get P.GAUGE_STATUS_GATES g = satTo P.GAUGE_STATUS_GATES.width (s.get P.GAUGE_STATUS_GATES g + 1) ∧
    Raised 88 (s.gateEnded g t0 len f) ∧ ((s.gateEnded g t0 len f).gauge g).resultAt = some s.time.now ∧
    ((s.gateEnded g t0 len f).gauge g).start = (if s.get P.GAUGE_SEL_INPUT g = 0 then none else
      some (ceilDiv (max (t0 + len) s.stretchFrom) (gateLen (s.get P.GAUGE_GATE_GATE g)) * gateLen (s.get P.GAUGE_GATE_GATE g))) ∧
    (s.gateEnded g t0 len f).ctx.mon.getLast?.map (fun q => (q.pos, q.data.type, q.data.tb)) = some (s.ctx.monEnd, 8, t0) := by
  unfold State.gateEnded
  generalize hr : s.gaugeRec g (s.gauge g) t0 f ((s.gauge g).missed t0 len) (s.gateFlags (s.gauge g) t0 len f) = r
  generalize (s.gateFlags (s.gauge g) t0 len f != 0) = flagged
  obtain ⟨hfreq, hmean, hgates⟩ := s.gateShown_get g r f.freq f.mean flagged
  have harmed (v : State) (x : Fld) (hx : x.pid / 4096 % 4096 = 0 ∧ x.pid % 4096 + 0 < 4096) (hr : x.pid + 0 ∉ [0x03000004])
      (h : Gauge → Gauge) (b : Tm) : ((v.modGauge g h).gaugeArm g b).get x g = v.get x g := by
    rw [State.get_of_only (State.gaugeArm_only ..) (by decide) _ _ _ hx hr, State.modGauge_get]
  have hev (v : State) (h : Gauge → Gauge) (b : Tm) : ((v.modGauge g h).gaugeArm g b).ev = v.ev :=
    (State.gaugeArm_only ..).1 .ev (by decide)
  have hctx (v : State) (h : Gauge → Gauge) (b : Tm) : ((v.modGauge g h).gaugeArm g b).ctx = v.ctx :=
    (State.gaugeArm_only ..).1 .ctx (by decide)
  rw [harmed _ _ (by decide) (by decide), harmed _ _ (by decide) (by decide), harmed _ _ (by decide) (by decide), hfreq, hmean, hgates,
    Raised, hev, (State.gaugeArm_spec ..).1, (State.gaugeArm_spec ..).2, State.modGauge_same, State.modGauge_get, State.modGauge_get,
    State.gateShown_get_other _ _ _ _ _ _ _ _ (by decide) (by decide), State.gateShown_get_other _ _ _ _ _ _ _ _ (by decide) (by decide),
    hctx, State.gateShown_mon, ← hr]
  exact ⟨rfl, rfl, rfl, State.gateShown_raised .., rfl, rfl, rfl⟩

/-- A gate whose time is over ends with the fit of its stamps (R103). -/
theorem exec_gaugeGateEnd {s : State} {t : Tm} {g : Fin 8} {t0 : Tm} (hp : s.pwr.por = false) (habut : s.abut = false)
    (hstart : (s.gauge g).start = some t0) (hended : t0 + gateLen (s.gauge g).gate ≤ s.instant t) :
    exec (.gaugeGateEnd t g) s = .next ((s.clock t).gateEnded g t0 (gateLen (s.gauge g).gate)
      (gateFit (s.gauge g).nominal (storeStep (ceilDiv (gateLen (s.gauge g).gate) (max 1 (s.gauge g).nominal)) 1 40)
        ((s.gauge g).residuals t0 (gateLen (s.gauge g).gate)))) := by
  have hstart' : ((s.clock t).gauge g).start = some t0 := hstart
  have hopen : (decide ((s.clock t).time.now < t0 + gateLen ((s.clock t).gauge g).gate) || (s.clock t).abut) = false := by
    rw [State.clock_abut, habut, Bool.or_false]
    exact decide_eq_false (Nat.not_lt.2 hended)
  rw [exec, execGaugeGateEnd, live_of hp]
  dsimp only
  rw [hstart']
  dsimp only
  rw [hopen]
  rfl

/-- Settles O8: a visit by what its start, its conversions and its end leave of its pairs, a delay line by what its lock shows, an
edge of the gauge by the count it adds, and a gate by its result and the start of the next. -/
theorem calibrationAndGaugeComplete : Obligations.CalibrationAndGaugeComplete := by
  unfold Obligations.CalibrationAndGaugeComplete
  intro s t hp
  refine ⟨?start, ?test, ?noCodes, ?codes, ?channel, ?timeout, ?stale, ?lost, ?relock, ?unselected, ?skipped, ?passed, ?gate⟩
  case start =>
    intro unit hlease habut hnext hfree hjudge
    exact ⟨_, exec_tdcCalVisitStart hp hlease habut hnext hfree hjudge, State.visitBegin_spec ..⟩
  case test =>
    intro unit ip code hvisit hturn ha hb hquiet hdue
    refine ⟨_, exec_testConversionStart code hp hvisit hturn ha hb hquiet hdue, ?_⟩
    have hpair : ((s.clock t).pairCollect unit).pair unit = (s.pair unit).collected (s.instant t) := State.modPair_same ..
    dsimp only
    rw [State.modPair_same, hpair, (Pair.ip_setIp ..).1, (Pair.ip_setIp ..).2, Pair.ip_collected, Pair.ip_collected]
    exact ⟨rfl, rfl⟩
  case noCodes =>
    intro unit v hvisit hin hdone
    obtain ⟨hmade, hmadeDone, hmadeDev⟩ := (s.clock t).visitMade_nil unit
    refine ⟨_, exec_tdcCalVisitComplete hp hvisit hin (hmadeDone ▸ hdone), ?_⟩
    obtain ⟨hopen, hvisited, hfits, hruns⟩ := ((s.clock t).visitMade unit [] [] []).visitEnded_done unit
    have hcollected (p : Nat) (hm : p ∈ visitPairs unit) :
        ((s.clock t).visitMade unit [] [] []).pair p = (s.pair p).collected (s.instant t) := by
      rw [hmade, State.collected_pair, if_pos hm]
      rfl
    refine ⟨hopen, hvisited.trans (congrArg some (State.visitMade_now ..)), fun p hm => ?_, hruns, fun hu => ?_, fun hcd hdev => ?_⟩
    · obtain ⟨hfitted, hfitA, hfitB⟩ := hfits p hm
      rw [hcollected p hm] at hfitA hfitB
      exact ⟨hfitted, hfitA, hfitB⟩
    · obtain ⟨hinlA, hinlB, hvisits⟩ := ((s.clock t).visitMade unit [] [] []).visitEnded_shows hu
      rw [hcollected unit (mem_visitPairs unit)] at hinlA hinlB
      rw [State.visitMade_get _ _ _ _ _ _ _ (by decide), State.clock_get] at hvisits
      exact ⟨hinlA, hinlB, hvisits⟩
    · exact State.visitEnded_fails (State.visitMade_fails _ _ _ _ _ hmadeDev ((State.clock_flag ..).trans hcd) (by rwa [State.clock_get]))
  case codes =>
    intro unit v codesA codesB codesPair hvisit hin hdone
    refine ⟨_, exec_tdcCalVisitComplete hp hvisit hin hdone, ?_⟩
    obtain ⟨hopen, hvisited, hfits, hruns⟩ := ((s.clock t).visitMade unit codesA codesB codesPair).visitEnded_done unit
    refine ⟨hopen, hvisited.trans (congrArg some (State.visitMade_now ..)), hfits, hruns, fun hcd hdev => ?_⟩
    exact State.visitEnded_fails (State.visitMade_fails _ _ _ _ _ rfl ((State.clock_flag ..).trans hcd) (by rwa [State.clock_get]))
  case channel =>
    intro unit v codesA codesB codesPair hu hvisit hin htime hstill hidle ha hb
    have hmade : ((s.clock t).visitMade unit codesA codesB codesPair).pair unit = { s.pair unit with
        a := (s.pair unit).a.countAll s.testsDue codesA, b := (s.pair unit).b.countAll s.testsDue codesB } :=
      (s.clock_testsDue t) ▸ State.visitMade_channel (s := s.clock t) codesPair hu hvisit htime hstill hidle ha hb
    obtain ⟨hallA, hdueA⟩ := Ip.countAll_due ha
    obtain ⟨hallB, hdueB⟩ := Ip.countAll_due hb
    have hdone : (visitPairs unit).all ((s.clock t).visitMade unit codesA codesB codesPair).pairDone = true := by
      rw [visitPairs_channel hu, List.all_cons, List.all_nil, State.pairDone, hmade, State.visitMade_testsDue]
      dsimp only
      rw [hdueA, hdueB, State.clock_testsDue, decide_eq_true le_rfl]
      rfl
    refine ⟨_, exec_tdcCalVisitComplete hp hvisit hin hdone, ?_⟩
    obtain ⟨hopen, -, hfits, -⟩ := ((s.clock t).visitMade unit codesA codesB codesPair).visitEnded_done unit
    obtain ⟨hfitted, hfitA, hfitB⟩ := hfits unit (mem_visitPairs unit)
    rw [hmade] at hfitA hfitB
    exact ⟨hopen, hfitted, by rw [hfitA, ← hallA], by rw [hfitB, ← hallB]⟩
  case timeout =>
    intro unit v hvisit hover
    have hvisit' : ((s.clock t).pair unit).visitAt = some v := hvisit
    refine acts_of_live hp (Eq.refl (execTdcCalVisitTimeout t unit s)) ?_
    rw [hvisit']
    dsimp only
    rw [if_pos (show v + secSt ≤ (s.clock t).time.now from hover), State.pair_of_only (State.maintEnd_only ..) (by decide),
      State.modPair_same]
    exact ⟨rfl, rfl, rfl, State.maintEnd_runs ..⟩
  case stale =>
    intro ch hvalid hold
    refine acts_of_live hp (Eq.refl (execTransferStale t ch s)) ?_
    have hcond : ((s.clock t).flag P.TDC_CAL_STATUS_CAL_VALID ch &&
        decide (((s.clock t).pair ch).fitAt + 3 * (s.clock t).get P.TDC_CAL_EVERY 0 * secSt < (s.clock t).time.now)) = true := by
      rw [State.clock_flag, hvalid, State.clock_get, State.clock_pair, State.clock_instant, decide_eq_true hold]
      rfl
    rw [if_pos hcond]
    refine ⟨?_, ?_, fun b hb => ?_⟩
    · rw [State.flag, State.modTd_get, ← State.flag]
      exact State.flag_putB_same _ _ _ _ (by decide)
    · rw [State.flag, State.modTd_get, State.putB, State.get_put_apart _ _ _ _ _ _ (by decide) (by decide) (by decide) (by decide),
        ← State.flag, State.clock_flag, hvalid]
    · rw [State.modTd_same] at hb
      obtain ⟨x, -, rfl⟩ := List.mem_map.1 hb
      split
      · next hclosed =>
        simp only [Bool.or_eq_true, bne_iff_ne, decide_eq_true_eq] at hclosed
        obtain (hcut | hepoch) | hstop := hclosed
        · exact .inl hcut
        · exact .inr (.inl hepoch)
        · exact .inr (.inr (.inl hstop))
      · exact .inr (.inr (.inr rfl))
  case lost =>
    intro unit hlocked
    obtain ⟨hunlocked, hopen, hfit, hruns, hshown, hlosses, hraised⟩ := (s.clock t).lineLost_spec unit.isLt
    rw [State.clock_get] at hlosses
    by_cases hch : unit.val < 256
    · refine ⟨_, exec_dllLockLoss_channel hp hlocked hch, ?_⟩
      exact ⟨hunlocked, hopen, hfit, hruns, hshown, hlosses, hraised⟩
    · refine ⟨_, exec_dllLockLoss_other hp hlocked hch, ?_⟩
      dsimp only
      rw [State.pair_of_only (State.log_only ..) (by decide), State.maintRuns, State.log_run,
        State.flag_of_only (State.log_only ..) (by decide) _ _ _ (by decide) (by decide),
        State.log_get _ _ _ _ _ _ _ (by decide) (by decide)]
      exact ⟨hunlocked, hopen, hfit, hruns, hshown, hlosses, State.log_keeps _ _ _ hraised⟩
  case relock =>
    intro unit
    refine acts_of_live hp (Eq.refl (execDllRelock t unit s)) ?_
    rw [State.dllShow_locked]
    have hpair (v : State) (n : Nat) : v.dllShow.pair n = v.pair n := State.pair_of_only (State.dllShow_only _) (by decide) n
    simp only [hpair, State.modPair_same, and_self]
  case unselected =>
    intro g rising code hcounts
    refine acts_of_live hp (Eq.refl (execGaugeEdge t ⟨g, rising, code⟩ s)) ?_
    have hskip : (((s.clock t).gauge g).start.isNone || ((s.clock t).gauge g).input == 0x10 || !((s.clock t).gauge g).counts rising ||
        (s.clock t).abut) = true := by
      have hcounts' : ((s.clock t).gauge g).counts rising = false := hcounts
      rw [hcounts']
      simp
    dsimp only
    rw [if_pos hskip]
    exact ⟨rfl, rfl⟩
  case skipped =>
    intro g rising code habut hruns hinput hcounts hskip
    refine ⟨_, exec_gaugeEdge_counted code hp habut hruns hinput hcounts, ?_⟩
    dsimp only
    rw [if_pos hskip, State.modGauge_same, Gauge.edgeAt]
    exact if_pos hskip
  case passed =>
    intro g rising code habut hruns hinput hcounts hpass
    refine ⟨_, exec_gaugeEdge_counted code hp habut hruns hinput hcounts, ?_⟩
    have hunit : ((256 + g.val : Nat) : Int) = 256 + (g.val : Int) := by rw [Nat.cast_add, Nat.cast_ofNat]
    dsimp only
    rw [if_neg (Nat.not_lt.2 hpass), State.modGauge_same, State.modGauge_pair, State.pinEdge_pair, State.pinEdge_stamp, hunit,
      State.clock_pair, State.clock_instant]
    have hgauge : ((s.clock t).pinEdge (256 + g) code.toNat).1.gauge g = s.gauge g := rfl
    rw [hgauge]
    cases hstamp : ((s.pair (256 + g)).take (s.instant t) code.toNat (Config.unstated 13 [256 + g.val, code.toNat])).2 with
    | none =>
      obtain ⟨hskip, hcount, -, hlost⟩ := Gauge.edgeAt_passes (s.instant t) false hpass
      exact ⟨hskip, hcount, rfl, fun _ => hlost rfl, rfl⟩
    | some x =>
      obtain ⟨hskip, hcount, hstamps, -⟩ := Gauge.edgeAt_passes ((x : Int) - Config.pinFused (256 + g)).toNat true hpass
      exact ⟨hskip, hcount, beq_iff_eq.2 (hstamps rfl), nofun, rfl⟩
  case gate =>
    rintro g t0 _ _ habut hstart rfl hended rfl
    refine ⟨_, exec_gaugeGateEnd hp habut hstart hended, ?_⟩
    exact (s.clock t).gateEnded_spec ..

end Sys2Proof.Machine

namespace Sys2Proof.Machine

open Sys2Proof

theorem satSigned_lt (w : Nat) (v : Int) : satSigned w v < 2 ^ w := unsgn_lt ..

/-- A parameter outside those that may change reads as before, word by word. -/
theorem State.word_of_only {ps : List Part} {rs : List Nat} {s u : State} (h : Only ps rs s u) (hp : Part.regs ∉ ps) (f : Fld) (i w : Nat)
    (hf : f.pid / 4096 % 4096 = 0 ∧ f.pid % 4096 + w < 4096) (hr : f.pid + w ∉ rs) :
    Regs.word u.regs f i w = Regs.word s.regs f i w := by
  have hi : parOf (f.id i w) = f.pid + w := by
    unfold parOf Fld.id
    omega
  exact h.regs_get hp (hi ▸ hr) _

/-! ### Time messages (R311, R312) -/

namespace State

@[simp] theorem clock_portTime (s : State) (t : Tm) (p : Nat) : (s.clock t).portTime p = s.portTime p := rfl
@[simp] theorem clock_isRoot (s : State) (t : Tm) : (s.clock t).isRoot = s.isRoot := clock_flag ..
@[simp] theorem clock_upPort (s : State) (t : Tm) : (s.clock t).upPort = s.upPort := State.clock_get ..
@[simp] theorem clock_syncRuns (s : State) (t : Tm) (p : Nat) : (s.clock t).syncRuns p = s.syncRuns p := rfl

theorem bump_portTime (s : State) (f : Fld) (i n p : Nat) : (s.bump f i n).portTime p = s.portTime p := by
  rw [State.portTime, State.portTime, State.bump_time]

@[simp] theorem pinEdge_portTime (s : State) (n code p : Nat) : (s.pinEdge n code).1.portTime p = s.portTime p := rfl
@[simp] theorem pinEdge_time (s : State) (n code : Nat) : (s.pinEdge n code).1.time = s.time := rfl
@[simp] theorem pinEdge_out (s : State) (n code : Nat) : (s.pinEdge n code).1.out = s.out := rfl

/-- What a port sends names its own domain, identity and port (R311, R312). -/
theorem timeMsg_of_only {ps : List Part} {rs : List Nat} {s u : State} (h : Only ps rs s u) (hp : Part.regs ∉ ps)
    (ht : u.time.epoch = s.time.epoch) (hd : P.TIME_CFG_DOMAIN.pid + 0 ∉ rs) (hi : P.FAB_ID_ID.pid + 0 ∉ rs)
    (port seq : Nat) (phase : BitVec 13) (valid : Bool) (b : TimeBody) :
    u.timeMsg port seq phase valid b = s.timeMsg port seq phase valid b := by
  rw [State.timeMsg, State.timeMsg, State.get_of_only h hp _ _ _ (by decide) hd, State.word_of_only h hp _ _ _ (by decide) hi, ht]

end State

section TimeMessage

variable {s : State} {t : Tm} {port : Port} {msg : TimeMsg} (hp : s.pwr.por = false)
include hp

/-- A message of the device's domain on a running port acts (R311). -/
theorem exec_timeMessage_own (hruns : s.syncRuns port = true) (hdomain : msg.domain = s.get P.TIME_CFG_DOMAIN 0) :
    exec (.timeMessage t port msg) s = .next ((s.clock t).timeTake port msg) := by
  have htaken : (!(s.clock t).syncRuns port || msg.domain != (s.clock t).get P.TIME_CFG_DOMAIN 0) = false := by
    rw [State.clock_syncRuns, State.clock_get, hruns, hdomain, bne_self_eq_false]
    rfl
  rw [exec, execTimeMessage, live_of hp, htaken]
  rfl

/-- A message of another domain is discarded (R311). -/
theorem exec_timeMessage_other (hdomain : msg.domain ≠ s.get P.TIME_CFG_DOMAIN 0) :
    exec (.timeMessage t port msg) s = .next (s.clock t) := by
  have hlost : (!(s.clock t).syncRuns port || msg.domain != (s.clock t).get P.TIME_CFG_DOMAIN 0) = true := by
    rw [State.clock_get, bne_iff_ne.2 hdomain, Bool.or_true]
  rw [exec, execTimeMessage, live_of hp, hlost]
  rfl

end TimeMessage

/-! ### The Sync interval (R94, R311, R312) -/

namespace State

/-- What a port sends at a Sync interval, and what it notes of it (R311, R312). -/
def syncSend (s : State) (meas : SyncMeas) : State :=
  let q := ((s.portTime meas.port).sent + 1) % 65536
  let m := s.timeMsg meas.port q meas.phase true
  let a := s.pinEdge (264 + meas.port) meas.syncCode.toNat
  let b := a.1.pinEdge (264 + meas.port) meas.reqCode.toNat
  let s1 := b.1.modPortTime meas.port fun p => { p with t3 := b.2, t4 := none, sent := q }
  let s2 := s1.emit (.time meas.port (m .sync))
  (match a.2 with | some x => s2.emit (.time meas.port (m (.followUp x))) | none => s2).emit (.time meas.port (m .delayReq))

theorem portAdopt_syncRuns (s : State) (p : Nat) : (s.portAdopt p).syncRuns p = s.syncRuns p := by
  rw [State.syncRuns, State.syncRuns, State.flag_of_only (State.portAdopt_only ..) (by decide) _ _ _ (by decide) (by decide),
    State.get_of_only (State.portAdopt_only ..) (by decide) _ _ _ (by decide) (by decide)]

/-- The sequence number of the messages that a port sends next (R311). -/
def nextSeq (s : State) (p : Nat) : Nat := ((s.portTime p).sent + 1) % 65536

/-- What the port notes of its own messages (R312). -/
theorem syncSend_portTime (s : State) (meas : SyncMeas) :
    ((s.syncSend meas).portTime meas.port).t3 =
      ((s.pinEdge (264 + meas.port) meas.syncCode.toNat).1.pinEdge (264 + meas.port) meas.reqCode.toNat).2 ∧
    ((s.syncSend meas).portTime meas.port).sent = s.nextSeq meas.port := by
  have hemit (v : State) (o : Out) (p : Nat) : (v.emit o).portTime p = v.portTime p := rfl
  unfold State.syncSend
  extract_lets q m a b s1 s2
  rw [hemit]
  have hnoted : s2.portTime meas.port = { s.portTime meas.port with t3 := b.2, t4 := none, sent := q } := by
    rw [hemit, State.modPortTime_same, State.pinEdge_portTime, State.pinEdge_portTime]
  split
  · rw [hemit, hnoted]
    exact ⟨rfl, rfl⟩
  · rw [hnoted]
    exact ⟨rfl, rfl⟩

/-- The messages of a Sync interval, the last first (R311): Sync, Follow_Up where Sync was stamped, and Delay_Req. -/
def syncMessages (s : State) (meas : SyncMeas) (stamp : Option Int) : List Out :=
  let m := fun b => Out.time meas.port (s.timeMsg meas.port (s.nextSeq meas.port) meas.phase true b)
  m .delayReq :: (stamp.toList.map fun x => m (.followUp x)) ++ [m .sync]

theorem syncSend_out (s : State) (meas : SyncMeas) : (s.syncSend meas).out =
    s.syncMessages meas (s.pinEdge (264 + meas.port) meas.syncCode.toNat).2 ++ s.out := by
  unfold State.syncSend State.syncMessages State.nextSeq
  extract_lets q m a b s1 s2 m'
  have hout : s2.out = m' .sync :: s.out := by
    rw [State.emit_out, State.modPortTime_out, State.pinEdge_out, State.pinEdge_out]
  rw [State.emit_out]
  cases a.2 with
  | none =>
    dsimp only
    rw [hout, Option.toList_none, List.map_nil, List.singleton_append, List.cons_append, List.singleton_append]
  | some x =>
    dsimp only
    rw [State.emit_out, hout, Option.toList_some, List.map_cons, List.map_nil, List.cons_append, List.singleton_append,
      List.cons_append, List.cons_append, List.singleton_append]

theorem portAdopt_time (s : State) (p : Nat) : (s.portAdopt p).time = s.time := (State.portAdopt_only ..).1 .time (by decide)

theorem portAdopt_nextSeq (s : State) (t : Tm) (p : Nat) : ((s.clock t).portAdopt p).nextSeq p = s.nextSeq p := by
  rw [State.nextSeq, State.portTime, portAdopt_time]
  rfl

/-- The new transfer of a port changes none of the messages (R94, R311). -/
theorem portAdopt_messages (s : State) (t : Tm) (meas : SyncMeas) (stamp : Option Int) :
    ((s.clock t).portAdopt meas.port).syncMessages meas stamp = s.syncMessages meas stamp := by
  have hmsg (q : Nat) (b : TimeBody) : ((s.clock t).portAdopt meas.port).timeMsg meas.port q meas.phase true b =
      s.timeMsg meas.port q meas.phase true b := by
    rw [timeMsg_of_only (State.portAdopt_only ..) (by decide) (by rw [portAdopt_time]) (by decide) (by decide),
      timeMsg_of_only (State.clock_only ..) (by decide) rfl (by decide) (by decide)]
  unfold State.syncMessages
  simp only [portAdopt_nextSeq, hmsg]

end State

/-- What stands in front of all that had been sent out before was sent out since. -/
theorem emits_of_append {o : Out} {l : List Out} {s u : State} (h : u.out = l ++ s.out) (ho : o ∈ l) : Emits o s u := by
  rw [Emits, h, List.length_append, Nat.add_sub_cancel, List.take_left]
  exact ho

/-- A Sync interval of a running port sends its messages, with the new transfer in force (R94, R311). -/
theorem exec_syncInterval {s : State} {t : Tm} {meas : SyncMeas} (hp : s.pwr.por = false) (hruns : s.syncRuns meas.port = true) :
    exec (.syncInterval t meas) s = .next (((s.clock t).portAdopt meas.port).syncSend meas) := by
  have hruns' : (!((s.clock t).portAdopt meas.port).syncRuns meas.port) = false := by
    rw [State.portAdopt_syncRuns, State.clock_syncRuns, hruns]
    rfl
  rw [exec, execSyncInterval, live_of hp]
  dsimp only
  rw [hruns']
  rfl

/-! ### Exchanges (R313 to R316) -/

namespace State

/-- An offset that leaves the average short only joins it (R315). -/
theorem theta_joins {s : State} (th : Int) (masterEpoch : Nat) (hlease : s.leased = true)
    (hshort : s.time.thetas.length + 1 < s.get P.TIME_SERVO_AVG 0) :
    s.theta th masterEpoch = { s with time := { s.time with thetas := s.time.thetas ++ [th] } } := by
  have hlen : (s.time.thetas ++ [th]).length < s.get P.TIME_SERVO_AVG 0 := by
    rw [List.length_append]
    exact hshort
  rw [State.theta, hlease]
  exact if_pos hlen

/-- The offset that completes an average makes the servo act on the mean (R315). -/
theorem theta_acts {s : State} (th : Int) (masterEpoch : Nat) (hlease : s.leased = true)
    (hfull : s.get P.TIME_SERVO_AVG 0 ≤ s.time.thetas.length + 1) :
    s.theta th masterEpoch = ({ s with time := { s.time with thetas := [] } } : State).servo
      (roundDiv (s.time.thetas ++ [th]).sum (s.time.thetas.length + 1)) masterEpoch := by
  have hlen : (s.time.thetas ++ [th]).length = s.time.thetas.length + 1 := List.length_append
  rw [← hlen] at hfull ⊢
  rw [State.theta, hlease]
  exact if_neg (Nat.not_lt.2 hfull)

/-- The servo locks and slews a mean within the threshold out (R315, R316, R318). -/
def servoSlewed (s : State) (m : Int) : State :=
  (((s.put P.TIME_OFFSET_ST 0 (satSigned 32 m)).putB P.TIME_STATUS_TIME_JUMP_REFUSED 0 false).timeState 1).slew (-m)

theorem servo_slews {s : State} {m : Int} (masterEpoch : Nat) (hstate : s.get P.TIME_STATUS_STATE 0 ≠ 0) (hm : m.natAbs ≤ s.jumpLen) :
    s.servo m masterEpoch = s.servoSlewed m := by
  rw [State.servo, if_neg hstate, if_neg (Nat.not_lt.2 hm)]
  rfl

/-- An average begins anew (R315). -/
def averaged (s : State) : State := { s with time := { s.time with thetas := [] } }

/-- A complete average whose mean is within the threshold is slewed out (R315, R316). -/
theorem theta_slews {s : State} {th m : Int} (masterEpoch : Nat) (hlease : s.leased = true)
    (hfull : s.get P.TIME_SERVO_AVG 0 ≤ s.time.thetas.length + 1)
    (hmean : roundDiv (s.time.thetas ++ [th]).sum (s.time.thetas.length + 1) = m)
    (hstate : s.get P.TIME_STATUS_STATE 0 ≠ 0) (hm : m.natAbs ≤ s.jumpLen) : s.theta th masterEpoch = s.averaged.servoSlewed m := by
  rw [theta_acts th masterEpoch hlease hfull, hmean]
  exact servo_slews (s := s.averaged) masterEpoch hstate hm

/-- STATE takes the value (R318). -/
theorem timeState_get (s : State) {n : Nat} (hn : n < 8) : (s.timeState n).get P.TIME_STATUS_STATE 0 = n := by
  unfold State.timeState
  split
  · next h => exact h
  · rw [State.raise_get _ _ _ _ _ (by decide) (by decide)]
    exact State.get_put_fits _ _ _ (by decide) hn

/-- Another field of TIME_STATUS stands when STATE changes. -/
theorem timeState_flag (s : State) (n : Nat) (f : Fld) (hf : f.pid / 4096 % 4096 = 0 ∧ f.pid % 4096 + 0 < 4096)
    (hr : f.pid + 0 ∉ [0x11000203, 0x11000204]) (ha : P.TIME_STATUS_STATE.apart f = true) (hpid : P.TIME_STATUS_STATE.pid = f.pid)
    (hword : P.TIME_STATUS_STATE.word = f.word) : (s.timeState n).flag f 0 = s.flag f 0 := by
  unfold State.timeState
  split
  · rfl
  · rw [State.flag, State.raise_get _ _ _ _ _ hf hr, State.get_put_apart _ _ _ _ _ _ (by decide) ha hpid hword, ← State.flag]

theorem timeState_time (s : State) (n : Nat) : (s.timeState n).time = s.time := (State.timeState_only ..).1 .time (by decide)

/-- A change of STATE raises source 64 (R318). -/
theorem timeState_raised {s : State} {n : Nat} (h : s.get P.TIME_STATUS_STATE 0 ≠ n) : Raised 64 (s.timeState n) := by
  rw [State.timeState, if_neg h]
  exact State.raise_raised _ (by decide)

/-- A slew that begins, or the end of one (R315). -/
theorem slew_spec {s : State} {d : Int} (h : d ≠ 0 ∨ s.time.slew ≠ 0) :
    (s.slew d).time = { s.time with slew := d, slewAt := s.time.now } ∧
    (s.slew d).flag P.TIME_STATUS_SLEWING 0 = (d != 0) ∧
    (s.slew d).get P.TIME_STATUS_STATE 0 = s.get P.TIME_STATUS_STATE 0 ∧
    (s.slew d).flag P.TIME_STATUS_TIME_JUMP_REFUSED 0 = s.flag P.TIME_STATUS_TIME_JUMP_REFUSED 0 := by
  have hnew : ¬ (d = 0 ∧ s.time.slew = 0) := fun k => h.elim (· k.1) (· k.2)
  rw [State.slew, if_neg hnew]
  refine ⟨State.putB_time .., State.flag_putB_same _ _ _ _ (by decide), ?_, ?_⟩
  · rw [State.putB, State.get_put_apart _ _ _ _ _ _ (by decide) (by decide) (by decide) (by decide)]
    rfl
  · rw [State.flag, State.putB, State.get_put_apart _ _ _ _ _ _ (by decide) (by decide) (by decide) (by decide)]
    rfl

/-- A mean that is slewed out shows in TIME_OFFSET and TIME_STATUS (R315, R316, R318). -/
theorem servoSlewed_spec {s : State} {m : Int} (hm : m ≠ 0) :
    (s.servoSlewed m).time = { s.time with slew := -m, slewAt := s.time.now } ∧
    (s.servoSlewed m).get P.TIME_OFFSET_ST 0 = satSigned 32 m ∧ (s.servoSlewed m).flag P.TIME_STATUS_TIME_JUMP_REFUSED 0 = false ∧
    (s.servoSlewed m).get P.TIME_STATUS_STATE 0 = 1 ∧ (s.servoSlewed m).flag P.TIME_STATUS_SLEWING 0 = true := by
  have hslew : -m ≠ 0 := neg_ne_zero.2 hm
  unfold servoSlewed
  obtain ⟨htime, hslewing, hstate, hrefused⟩ := slew_spec (s := (((s.put P.TIME_OFFSET_ST 0 (satSigned 32 m)).putB
    P.TIME_STATUS_TIME_JUMP_REFUSED 0 false).timeState 1)) (.inl hslew)
  refine ⟨?_, ?_, ?_, ?_, ?_⟩
  · rw [htime, timeState_time, State.putB_time, State.put_time]
  · rw [State.get_of_only (State.slew_only ..) (by decide) _ _ _ (by decide) (by decide),
      State.get_of_only (State.timeState_only ..) (by decide) _ _ _ (by decide) (by decide), State.putB,
      State.get_put_par _ _ _ _ _ _ _ _ (by decide) (by decide) (by decide)]
    exact State.get_put_fits _ _ _ (by decide) (satSigned_lt ..)
  · rw [hrefused, timeState_flag _ _ _ (by decide) (by decide) (by decide) (by decide) (by decide)]
    exact State.flag_putB_same _ _ _ _ (by decide)
  · rw [hstate, timeState_get _ (by decide)]
  · rw [hslewing]
    exact bne_iff_ne.2 hslew

/-- The four stamps of an exchange are taken (R313). -/
def exchangeTaken (s : State) (p : Nat) : State := s.modPortTime p fun x => { x with t1 := none, t2 := none, t3 := none, t4 := none }

theorem exchangeTaken_stamps (s : State) (p : Nat) :
    ((s.exchangeTaken p).portTime p).t1 = none ∧ ((s.exchangeTaken p).portTime p).t4 = none := by
  rw [exchangeTaken, State.modPortTime_same]
  exact ⟨rfl, rfl⟩

/-- A valid exchange at the up port: its delay is stored, and the device has a master (R313, R317). -/
def exchangeValid (s : State) (p : Nat) (d : Int) : State :=
  (((s.exchangeTaken p).put P.TIME_PORT_DELAY_DELAY p (satSigned 32 d)).modPortTime p fun x => { x with lastValid := s.time.now }).mastered

/-- The exchange of a port is complete, with its offset (R313, R314): the mean path delay `d`, the offset `th` and its refined value
`r`. -/
def Exchange (s : State) (port : Port) (ownPhase : Nat) (d th r : Int) : Prop :=
  ∃ t1 t2 t3 t4, ((s.portTime port).t1 = some t1 ∧ (s.portTime port).t2 = some t2 ∧ (s.portTime port).t3 = some t3 ∧
      (s.portTime port).t4 = some t4) ∧
    roundDiv ((t2 - t1) + (t4 - t3)) 2 + s.int P.TIME_PORT_ASYM_ASYM port = d ∧ t2 - t1 - d = th ∧
    (s.portTime port).phase.elim th (fun m => refine th ((ownPhase : Int) - m)) = r

/-- A complete exchange acts by its offset and its port (R313 to R316, R318, R321): its delay `d`, the offset `th` and its refined
value `r`. -/
def exchangeDone (s : State) (port : Port) (d th r : Int) : State :=
  if 2048 < (th - r).natAbs then (s.exchangeTaken port).bump P.TIME_STATUS_DISCARDS 0
  else if port.val = s.upPort && !s.isRoot && !s.abut then
    if !s.leased then s.exchangeValid port d
    else if s.time.epoch < (s.portTime port).masterEpoch && s.get P.TIME_STATUS_STATE 0 != 0 then
      (s.exchangeValid port d).adopt r (s.portTime port).masterEpoch
    else if (s.portTime port).masterEpoch < s.time.epoch then (s.exchangeValid port d).jumpRefused
    else (s.exchangeValid port d).theta r (s.portTime port).masterEpoch
  else (s.exchangeTaken port).put P.TIME_PORT_DELAY_DELAY port (satSigned 32 d)

/-- An offset that the phases put too far away is discarded (R314). -/
theorem exchangeDone_far {s : State} {port : Port} {th r : Int} (d : Int) (hfar : 2048 < (th - r).natAbs) :
    s.exchangeDone port d th r = (s.exchangeTaken port).bump P.TIME_STATUS_DISCARDS 0 := if_pos hfar

/-- A valid offset at the up port joins the average, the master's epoch being the device's (R314, R315). -/
theorem exchangeDone_near {s : State} {port : Port} {th r : Int} (d : Int) (hnear : (th - r).natAbs ≤ 2048)
    (hup : port.val = s.upPort ∧ s.isRoot = false ∧ s.abut = false ∧ s.leased = true)
    (hepoch : (s.portTime port).masterEpoch = s.time.epoch) :
    s.exchangeDone port d th r = (s.exchangeValid port d).theta r s.time.epoch := by
  obtain ⟨hport, hroot, habut, hlease⟩ := hup
  have htakes : (decide (port.val = s.upPort) && !s.isRoot && !s.abut) = true := by rw [decide_eq_true hport, hroot, habut]; rfl
  have hsame : ¬ (decide (s.time.epoch < s.time.epoch) && s.get P.TIME_STATUS_STATE 0 != 0) = true := by
    rw [decide_eq_false (Nat.lt_irrefl _)]
    exact Bool.false_ne_true
  unfold exchangeDone
  rw [if_neg (Nat.not_lt.2 hnear), if_pos htakes, hlease, Bool.not_true, if_neg Bool.false_ne_true, hepoch, if_neg hsame,
    if_neg (Nat.lt_irrefl _)]

end State

/-- A complete exchange acts by its offset and its port (R313 to R316). -/
theorem exec_syncExchange {s : State} {t : Tm} {port : Port} {ownPhase : Nat} {d th r : Int} (hp : s.pwr.por = false)
    (hex : s.Exchange port ownPhase d th r) :
    exec (.syncExchangeComplete t port ownPhase) s = .next ((s.clock t).exchangeDone port d th r) := by
  obtain ⟨t1, t2, t3, t4, ⟨h1, h2, h3, h4⟩, hd, hth, hr⟩ := hex
  have hasym : (s.clock t).int P.TIME_PORT_ASYM_ASYM port = s.int P.TIME_PORT_ASYM_ASYM port := by
    rw [State.int, State.int, State.clock_get]
  rw [exec, execSyncExchangeComplete, live_of hp]
  dsimp only
  rw [State.clock_portTime, h1, h2, h3, h4]
  dsimp only
  rw [hasym, hd, hth]
  cases hphase : (s.portTime port).phase with
  | none | some m =>
    rw [hphase] at hr
    dsimp only [Option.elim] at hr ⊢
    subst hr
    unfold State.exchangeDone
    rw [State.clock_portTime]
    rfl

/-- A valid exchange at the up port hands its offset to the average (R313 to R315). -/
theorem exec_syncExchange_near {s : State} {t : Tm} {port : Port} {ownPhase : Nat} {d th r : Int} (hp : s.pwr.por = false)
    (hex : s.Exchange port ownPhase d th r) (hnear : (th - r).natAbs ≤ 2048)
    (hup : port.val = s.upPort ∧ s.isRoot = false ∧ s.abut = false ∧ s.leased = true)
    (hepoch : (s.portTime port).masterEpoch = s.time.epoch) :
    exec (.syncExchangeComplete t port ownPhase) s = .next (((s.clock t).exchangeValid port d).theta r s.time.epoch) := by
  obtain ⟨hport, hroot, habut, hlease⟩ := hup
  have hup' : port.val = (s.clock t).upPort ∧ (s.clock t).isRoot = false ∧ (s.clock t).abut = false ∧ (s.clock t).leased = true :=
    ⟨hport.trans (State.clock_upPort s t).symm, (State.clock_isRoot s t).trans hroot, habut, hlease⟩
  rw [exec_syncExchange hp hex, State.exchangeDone_near d hnear hup' hepoch]
  rfl

namespace State

/-- An accepted exchange shows its delay and keeps the rest of the servo's state (R313, R317). -/
theorem exchangeValid_spec (s : State) (p : Nat) (d : Int) :
    (s.exchangeValid p d).get P.TIME_PORT_DELAY_DELAY p = satSigned 32 d ∧
    ((s.exchangeValid p d).portTime p).lastValid = s.time.now ∧
    (s.exchangeValid p d).time.mastered = s.time.now ∧ (s.exchangeValid p d).time.thetas = s.time.thetas ∧
    (s.exchangeValid p d).time.slew = s.time.slew ∧ (s.exchangeValid p d).time.now = s.time.now := by
  refine ⟨?_, ?_, rfl, rfl, rfl, rfl⟩
  · exact State.get_put_fits _ _ _ (by decide) (satSigned_lt ..)
  · exact congrArg PortTime.lastValid (State.modPortTime_same ((s.exchangeTaken p).put P.TIME_PORT_DELAY_DELAY p (satSigned 32 d)) p
      fun x => { x with lastValid := s.time.now })

theorem exchangeValid_only (s : State) (p : Nat) (d : Int) : Only [.time] [P.TIME_PORT_DELAY_DELAY.pid] s (s.exchangeValid p d) := by
  simp (disch := decide) only [exchangeValid, exchangeTaken, Only.refl_iff, Only.put_iff, Only.step_iff (State.modPortTime_only _ _ _),
    Only.step_iff (State.mastered_only _)]

theorem exchangeValid_get (s : State) (t : Tm) (p : Nat) (d : Int) (f : Fld) (i : Nat)
    (hf : f.pid / 4096 % 4096 = 0 ∧ f.pid % 4096 + 0 < 4096) (hr : f.pid + 0 ∉ [P.TIME_PORT_DELAY_DELAY.pid]) :
    ((s.clock t).exchangeValid p d).get f i = s.get f i := by
  rw [State.get_of_only (State.exchangeValid_only ..) (by decide) f i 0 hf hr, State.clock_get]

/-- The jump threshold is that of TIME_JUMP_NS (R316). -/
theorem exchangeValid_jumpLen (s : State) (t : Tm) (p : Nat) (d : Int) : ((s.clock t).exchangeValid p d).jumpLen = s.jumpLen := by
  rw [State.jumpLen, State.jumpLen, exchangeValid_get _ _ _ _ _ _ (by decide) (by decide)]

end State

/-! ### Slews, holdover and PPS_IN (R310, R315, R317) -/

namespace State

theorem clock_slewLen (s : State) (t : Tm) : (s.clock t).slewLen = s.slewLen := by
  rw [State.slewLen, State.slewLen, State.clock_get]
  rfl

theorem clock_syncLen (s : State) (t : Tm) : (s.clock t).syncLen = s.syncLen := by
  rw [State.syncLen, State.syncLen, State.int, State.int, State.clock_get]

/-- HOLDOVER entered from LOCKED shows and raises source 64 (R317, R318). -/
theorem held_of_locked {s : State} (h : s.get P.TIME_STATUS_STATE 0 = 1) :
    (s.timeState 2).get P.TIME_STATUS_STATE 0 = 2 ∧ Raised 64 (s.timeState 2) :=
  ⟨timeState_get s (by decide), timeState_raised (by rw [h]; decide)⟩

/-! The servo leaves the last PPS_IN edge. -/

theorem slew_lastPps (s : State) (d : Int) : (s.slew d).time.lastPps = s.time.lastPps := by
  unfold State.slew
  split
  · rfl
  · rw [State.putB_time]

theorem servo_lastPps (s : State) (th : Int) (masterEpoch : Nat) : (s.servo th masterEpoch).time.lastPps = s.time.lastPps := by
  unfold State.servo
  dsimp only
  split
  · rw [State.put_time]
  · split
    · rw [(State.jumpRefused_only _).1 .time (by decide), State.put_time]
    · rw [slew_lastPps, timeState_time, State.putB_time, State.put_time]

theorem theta_lastPps (s : State) (th : Int) (masterEpoch : Nat) : (s.theta th masterEpoch).time.lastPps = s.time.lastPps := by
  unfold State.theta
  split
  · rfl
  · dsimp only
    split
    · rfl
    · exact servo_lastPps ..

/-- An edge of PPS_IN as a root that follows it notes it (R310). -/
def ppsNoted (s : State) (code : Nat) : State :=
  { (s.pinEdge 270 code).1 with time := { (s.pinEdge 270 code).1.time with lastPps := some s.time.now } }

/-- What an edge of PPS_IN of the chosen polarity does (R94, R310). -/
def ppsTaken (s : State) (code : Nat) : State :=
  if s.isRoot && s.flag P.TIME_CFG_ROOT_SRC 0 then
    match (s.pinEdge 270 code).2 with
    | some x => if s.time.set && !s.abut then (s.ppsNoted code).theta (secondOffset x) s.time.epoch else s.ppsNoted code
    | none => s.ppsNoted code
  else (s.pinEdge 270 code).1

section PpsTaken

variable {s : State} (code : Nat)

theorem ppsTaken_stray (h : s.isRoot = false ∨ s.flag P.TIME_CFG_ROOT_SRC 0 = false) : s.ppsTaken code = (s.pinEdge 270 code).1 := by
  have hidle : ¬ (s.isRoot && s.flag P.TIME_CFG_ROOT_SRC 0) = true := by
    rw [Bool.and_eq_true_iff]
    exact fun k => h.elim (fun n => Bool.false_ne_true (n.symm.trans k.1)) fun n => Bool.false_ne_true (n.symm.trans k.2)
  exact if_neg hidle

variable (hroot : s.isRoot = true) (hsrc : s.flag P.TIME_CFG_ROOT_SRC 0 = true)
include hroot hsrc

/-- A root that follows PPS_IN steers by the stamp once its time is set (R310). -/
theorem ppsTaken_root : s.ppsTaken code = (s.pinEdge 270 code).2.elim (s.ppsNoted code) fun x =>
    if s.time.set && !s.abut then (s.ppsNoted code).theta (secondOffset x) s.time.epoch else s.ppsNoted code := by
  rw [ppsTaken, hroot, hsrc]
  cases (s.pinEdge 270 code).2 <;> rfl

theorem ppsTaken_unset (hset : s.time.set = false) : s.ppsTaken code = s.ppsNoted code := by
  rw [ppsTaken_root code hroot hsrc, hset]
  cases (s.pinEdge 270 code).2 <;> rfl

theorem ppsTaken_set (hset : s.time.set = true) (habut : s.abut = false) : s.ppsTaken code =
    (s.pinEdge 270 code).2.elim (s.ppsNoted code) fun x => (s.ppsNoted code).theta (secondOffset x) s.time.epoch := by
  rw [ppsTaken_root code hroot hsrc, hset, habut]
  rfl

/-- The edge is noted, and its interpolator pair took its stamp, steered or not (R94, R310). -/
theorem ppsTaken_notes : (s.ppsTaken code).time.lastPps = some s.time.now ∧
    (s.ppsTaken code).pair 270 = (s.pinEdge 270 code).1.pair 270 := by
  have htheta (x : Int) (e : Nat) : ((s.ppsNoted code).theta x e).pair 270 = (s.pinEdge 270 code).1.pair 270 := by
    rw [State.pair, (State.theta_only ..).1 .tdc (by decide)]
    rfl
  rw [ppsTaken_root code hroot hsrc]
  cases (s.pinEdge 270 code).2 with
  | none => exact ⟨rfl, rfl⟩
  | some x =>
    dsimp only [Option.elim]
    split
    · exact ⟨theta_lastPps .., htheta ..⟩
    · exact ⟨rfl, rfl⟩

end PpsTaken

end State

/-- An edge of PPS_IN of the chosen polarity is stamped, and a root that follows PPS_IN uses it (R310). -/
theorem exec_ppsInEdge_selected {s : State} {t : Tm} {rising : Bool} {code : BitVec 12} (hp : s.pwr.por = false)
    (hedge : rising = !s.flag P.PPS_CFG_IN_POL 0) :
    exec (.ppsInEdge t ⟨rising, code⟩) s = .next ((s.clock t).ppsTaken code.toNat) := by
  have hselected : (rising == (s.clock t).flag P.PPS_CFG_IN_POL 0) = false := by
    rw [State.clock_flag, hedge]
    cases s.flag P.PPS_CFG_IN_POL 0 <;> rfl
  rw [exec, execPpsInEdge, live_of hp]
  dsimp only
  rw [hselected]
  rfl

/-- The interpolator pair of a fabric port, as the unit it is (R94). -/
theorem portUnit_cast (port : Port) : ((264 + port.val : Nat) : Int) = 264 + (port.val : Int) := by rw [Nat.cast_add, Nat.cast_ofNat]

/-- Settles O10: each command of the time exchange by the rule of what it does to the port, the average, the slew or the state. -/
theorem timeExchangeCompletes : Obligations.TimeExchangeCompletes := by
  unfold Obligations.TimeExchangeCompletes
  intro s t hp
  refine ⟨?sync, ?followUp, ?delayReq, ?delayResp, ?other, ?interval, ?far, ?joins, ?slews, ?slewed, ?holdover, ?pps, ?elsewhere,
    ?polarity, ?missing⟩
  case sync =>
    intro port msg hruns hdomain hbody
    refine ⟨_, exec_timeMessage_own hp hruns hdomain, ?_⟩
    rw [State.timeTake, hbody]
    dsimp only
    rw [State.modPortTime_same]
    refine ⟨?_, ?_, rfl, rfl, rfl, rfl⟩
    · dsimp only
      rw [State.pinEdge_stamp, portUnit_cast, State.clock_pair, State.clock_instant]
    · refine (State.pinEdge_pair (s.clock t) (264 + port.val) msg.code.toNat).trans ?_
      rw [portUnit_cast]
      rfl
  case followUp =>
    intro port msg t1 hruns hdomain hbody hseq
    refine ⟨_, exec_timeMessage_own hp hruns hdomain, ?_⟩
    rw [State.timeTake, hbody]
    dsimp only
    rw [State.modPortTime_same, State.clock_portTime, if_pos hseq]
  case delayReq =>
    intro port msg hruns hdomain hbody
    refine ⟨_, exec_timeMessage_own hp hruns hdomain, ?_⟩
    rw [State.timeTake, hbody]
    dsimp only
    have hpair := State.pinEdge_pair (s.clock t) (264 + port.val) msg.code.toNat
    have hstamp := State.pinEdge_stamp (s.clock t) (264 + port.val) msg.code.toNat
    rw [portUnit_cast, State.clock_pair, State.clock_instant] at hpair hstamp
    rw [hstamp]
    cases ((s.pair (264 + port.val)).take (s.instant t) msg.code.toNat
      (Config.unstated 13 [264 + port.val, msg.code.toNat])).2 with
    | none => exact ⟨hpair, fun x hx => absurd hx (Option.not_mem_none x), fun _ => rfl⟩
    | some x =>
      refine ⟨hpair, ?_, fun h => absurd h (Option.some_ne_none x)⟩
      intro y hy
      obtain rfl : x = y := Option.some.inj hy
      have hmsg := State.timeMsg_of_only (State.clock_only s t) (by decide) rfl (by decide) (by decide) port.val msg.seq 0 false
        (.delayResp ((x : Int) - Config.pinFused (264 + port)))
      rw [hdomain]
      exact emits_of_append (l := [_]) rfl (List.mem_singleton.2 (congrArg (Out.time port) hmsg.symm))
  case delayResp =>
    intro port msg t4 hruns hdomain hbody hseq
    refine ⟨_, exec_timeMessage_own hp hruns hdomain, ?_⟩
    rw [State.timeTake, hbody]
    dsimp only
    rw [State.modPortTime_same, State.clock_portTime, if_pos hseq]
    exact ⟨rfl, rfl⟩
  case other =>
    intro port msg hdomain
    exact ⟨_, exec_timeMessage_other hp hdomain, rfl⟩
  case interval =>
    intro port syncCode reqCode phase hruns
    refine ⟨_, exec_syncInterval hp hruns, ?_⟩
    dsimp only
    obtain ⟨ht3, hsent⟩ := ((s.clock t).portAdopt port).syncSend_portTime ⟨port, syncCode, reqCode, phase⟩
    have hout := ((s.clock t).portAdopt port).syncSend_out ⟨port, syncCode, reqCode, phase⟩
    rw [s.portAdopt_messages t ⟨port, syncCode, reqCode, phase⟩, (State.portAdopt_only ..).1 .out (by decide), State.clock_out] at hout
    rw [State.portAdopt_nextSeq] at hsent
    refine ⟨ht3, hsent, emits_of_append hout ?_, fun x hx => emits_of_append hout ?_, emits_of_append hout ?_⟩
    · exact List.mem_append_right _ (List.mem_singleton_self _)
    · exact List.mem_append_left _ (List.mem_cons_of_mem _ (List.mem_map_of_mem (Option.mem_toList.2 hx)))
    · exact List.mem_append_left _ List.mem_cons_self
  case far =>
    intro port ownPhase t1 t2 t3 t4 d th r ht hd hth hr hfar
    have hex : s.Exchange port ownPhase d th r := ⟨t1, t2, t3, t4, ht, hd, hth, hr⟩
    refine ⟨_, exec_syncExchange hp hex, ?_⟩
    dsimp only
    rw [State.exchangeDone_far d hfar]
    refine ⟨?_, ?_, ?_, rfl⟩
    · rw [State.bump, State.get_put_par _ _ _ _ _ _ _ _ (by decide) (by decide) (by decide)]
      exact State.clock_get s t _ _ _
    · rw [State.get_bump_same _ _ _ _ (by decide)]
      exact congrArg (fun n => satTo 16 (n + 1)) (State.clock_get s t P.TIME_STATUS_DISCARDS 0 0)
    · rw [State.bump_portTime]
      exact (s.clock t).exchangeTaken_stamps port
  case joins =>
    intro port ownPhase t1 t2 t3 t4 d th r ht hd hth hr hnear hup hepoch hshort
    have hex : s.Exchange port ownPhase d th r := ⟨t1, t2, t3, t4, ht, hd, hth, hr⟩
    have ⟨_, _, _, hlease⟩ := hup
    obtain ⟨hdelay, hlast, hmastered, hthetas, hslew, -⟩ := (s.clock t).exchangeValid_spec port d
    refine ⟨_, exec_syncExchange_near hp hex hnear hup hepoch, ?_⟩
    have hshort' : ((s.clock t).exchangeValid port d).time.thetas.length + 1 <
        ((s.clock t).exchangeValid port d).get P.TIME_SERVO_AVG 0 := by
      rw [hthetas, State.exchangeValid_get _ _ _ _ _ _ (by decide) (by decide)]
      exact hshort
    dsimp only
    rw [State.theta_joins (s := (s.clock t).exchangeValid port d) r s.time.epoch hlease hshort']
    exact ⟨hdelay, hlast, hmastered, congrArg (· ++ [r]) hthetas, hslew⟩
  case slews =>
    intro port ownPhase t1 t2 t3 t4 d th r m ht hd hth hr hnear hup hepoch hfull hmean hstate hm
    have hex : s.Exchange port ownPhase d th r := ⟨t1, t2, t3, t4, ht, hd, hth, hr⟩
    have ⟨_, _, _, hlease⟩ := hup
    obtain ⟨-, -, -, hthetas, -, hnow⟩ := (s.clock t).exchangeValid_spec port d
    have hget := s.exchangeValid_get t port d
    refine ⟨_, exec_syncExchange_near hp hex hnear hup hepoch, ?_⟩
    have hfull' : ((s.clock t).exchangeValid port d).get P.TIME_SERVO_AVG 0 ≤
        ((s.clock t).exchangeValid port d).time.thetas.length + 1 := by
      rw [hthetas, hget _ _ (by decide) (by decide)]
      exact hfull
    have hmean' : roundDiv (((s.clock t).exchangeValid port d).time.thetas ++ [r]).sum
      (((s.clock t).exchangeValid port d).time.thetas.length + 1) = m := by
      rw [hthetas]
      exact hmean
    dsimp only
    rw [State.theta_slews (s := (s.clock t).exchangeValid port d) s.time.epoch hlease hfull' hmean'
      (by rwa [hget _ _ (by decide) (by decide)]) (by rw [State.exchangeValid_jumpLen]; exact hm.2)]
    obtain ⟨htime, hoffset, hrefused, hlocked, hslewing⟩ := ((s.clock t).exchangeValid port d).averaged.servoSlewed_spec hm.1
    rw [htime]
    exact ⟨rfl, hoffset, hrefused, hnow, rfl, hlocked, hslewing⟩
  case slewed =>
    intro hslewing hslew hover
    have hover' : (s.clock t).time.slewAt + (s.clock t).slewLen ≤ (s.clock t).time.now := by
      rw [State.clock_slewLen]
      exact hover
    have hends : ((s.clock t).flag P.TIME_STATUS_SLEWING 0 &&
        decide ((s.clock t).time.slewAt + (s.clock t).slewLen ≤ (s.clock t).time.now)) = true := by
      rw [State.clock_flag, hslewing, decide_eq_true hover']
      rfl
    obtain ⟨htime, hshown, -, -⟩ := State.slew_spec (s := s.clock t) (d := 0) (.inr hslew)
    refine acts_of_live hp (Eq.refl (execSlewComplete t s)) ?_
    rw [if_pos hends, htime]
    exact ⟨rfl, hshown⟩
  case holdover =>
    intro hstate hroot hlost
    have hlost' : (s.clock t).time.mastered + 8 * (s.clock t).syncLen ≤ (s.clock t).time.now := by
      rw [State.clock_syncLen]
      exact hlost
    have henters : ((s.clock t).get P.TIME_STATUS_STATE 0 = 1 && (!(s.clock t).isRoot &&
        decide ((s.clock t).time.mastered + 8 * (s.clock t).syncLen ≤ (s.clock t).time.now))) = true := by
      rw [State.clock_get, State.clock_isRoot, hroot, decide_eq_true hstate, decide_eq_true hlost']
      rfl
    refine acts_of_live hp (Eq.refl (execHoldoverEnter t s)) ?_
    dsimp only
    rw [if_pos henters]
    obtain ⟨hheld, hchanged⟩ := State.held_of_locked ((s.clock_get t P.TIME_STATUS_STATE 0 0).trans hstate)
    exact ⟨(State.raise_get _ _ _ _ _ (by decide) (by decide)).trans hheld, State.raise_keeps _ _ hchanged,
      State.raise_raised _ (by decide)⟩
  case pps =>
    intro rising code hroot hsrc hedge
    have hroot' : (s.clock t).isRoot = true := (s.clock_isRoot t).trans hroot
    have hsrc' : (s.clock t).flag P.TIME_CFG_ROOT_SRC 0 = true := (s.clock_flag t _ _ _).trans hsrc
    have hpair := State.pinEdge_pair (s.clock t) 270 code.toNat
    have hstamp := State.pinEdge_stamp (s.clock t) 270 code.toNat
    rw [State.clock_pair, State.clock_instant, Nat.cast_ofNat] at hpair hstamp
    obtain ⟨hnoted, htaken⟩ := State.ppsTaken_notes code.toNat hroot' hsrc'
    refine ⟨_, exec_ppsInEdge_selected hp hedge, hnoted, htaken.trans hpair, fun hset => ?_, fun hset habut hlease hshort => ?_⟩
    · rw [State.ppsTaken_unset (s := s.clock t) code.toNat hroot' hsrc' hset]
      exact ⟨rfl, rfl⟩
    · rw [State.ppsTaken_set (s := s.clock t) code.toNat hroot' hsrc' hset habut, hstamp]
      cases ((s.pair 270).take (s.instant t) code.toNat (Config.unstated 13 [270, code.toNat])).2 with
      | none => rfl
      | some x =>
        have hjoins := State.theta_joins (s := (s.clock t).ppsNoted code.toNat) (secondOffset ((x : Int) - Config.pinFused 270))
          s.time.epoch hlease hshort
        exact beq_iff_eq.2 (congrArg (fun v => v.time.thetas) hjoins)
  case elsewhere =>
    intro rising code hidle hedge
    have hidle' : (s.clock t).isRoot = false ∨ (s.clock t).flag P.TIME_CFG_ROOT_SRC 0 = false := by
      rwa [State.clock_isRoot, State.clock_flag]
    have hpair := State.pinEdge_pair (s.clock t) 270 code.toNat
    rw [State.clock_pair, State.clock_instant, Nat.cast_ofNat] at hpair
    refine ⟨_, exec_ppsInEdge_selected hp hedge, ?_⟩
    dsimp only
    rw [State.ppsTaken_stray code.toNat hidle']
    exact ⟨hpair, rfl, rfl⟩
  case polarity =>
    intro rising code hedge
    refine acts_of_live hp (Eq.refl (execPpsInEdge t ⟨rising, code⟩ s)) ?_
    have hskipped : (rising == (s.clock t).flag P.PPS_CFG_IN_POL 0) = true := by
      rw [State.clock_flag, hedge]
      exact beq_self_eq_true _
    exact if_pos hskipped
  case missing =>
    intro hroot hsrc hmaster hstate
    have henters : ((s.clock t).isRoot && (s.clock t).flag P.TIME_CFG_ROOT_SRC 0 && !(s.clock t).hasMaster &&
        (s.clock t).get P.TIME_STATUS_STATE 0 == 1) = true := by
      rw [State.clock_isRoot, State.clock_flag, State.clock_get, hroot, hsrc, hmaster, hstate]
      rfl
    refine acts_of_live hp (Eq.refl (execPpsInMissing t s)) ?_
    rw [if_pos henters]
    obtain ⟨hheld, hchanged⟩ := State.held_of_locked ((s.clock_get t P.TIME_STATUS_STATE 0 0).trans hstate)
    refine ⟨?_, State.raise_keeps _ _ (State.raise_keeps _ _ hchanged), State.raise_keeps _ _ (State.raise_raised _ (by decide)),
      State.raise_raised _ (by decide)⟩
    rw [State.raise_get _ _ _ _ _ (by decide) (by decide), State.raise_get _ _ _ _ _ (by decide) (by decide), hheld]

end Sys2Proof.Machine

namespace Sys2Proof.Machine

open Sys2Proof

/-! ### What a finished command leaves (R384 to R388) -/

/-- A channel added to those asked for is one of them, new or not. -/
theorem mem_asked (l : List Nat) (c : Nat) : c ∈ if l.contains c then l else l ++ [c] := by
  split
  · next h => exact List.contains_iff_mem.1 h
  · exact List.mem_append_right _ (List.mem_singleton_self c)

namespace State

/-- A post leaves the channels asked for. -/
theorem post_tdcAsk (s : State) (p : Post) : (s.post p).mbox.tdcAsk = s.mbox.tdcAsk := by
  unfold State.post
  dsimp only
  split
  · rw [State.postHost_mbox]
  · rw [State.postHost_mbox]
  · rw [State.raiseIf_mbox, State.emit_mbox]
  · rw [State.raiseIf_mbox, State.emit_mbox]
  · rw [State.raiseIf_mbox, State.emit_mbox]
    dsimp only
    split <;> rfl

theorem noted_tdcAsk (s : State) (w : Who) (seq : Nat) : (s.noted w seq).mbox.tdcAsk = s.mbox.tdcAsk := by
  unfold State.noted State.seqAccept
  split
  · rw [State.put_mbox, State.bump_mbox]
  · rw [State.bump_mbox]

section Finish

variable {s : State} {w : Who} {c : Cmd} {k : Cls} {d : Done} (hk : k ≠ .r) (hb : d.background = false)
include hk hb

theorem finish_done_tdcAsk (hs : d.status = stOk) : (s.finish w c k d).mbox.tdcAsk = d.s.mbox.tdcAsk := by
  rw [State.finish_done hk hb hs]
  exact noted_tdcAsk ..

theorem finish_failed_tdcAsk (hs : d.status ≠ stOk) : (s.finish w c k d).mbox.tdcAsk = d.s.mbox.tdcAsk := by
  rw [State.finish_failed hk hb hs, post_tdcAsk]
  exact noted_tdcAsk ..

/-- A command that fails leaves all but its answer (R388). -/
theorem finish_failed_only (hs : d.status ≠ stOk) : Only [.ev, .recd, .host, .mbox, .out] [0x0F000302, 0x0F000303, 0x11000203, 0x11000204]
    d.s (s.finish w c k d) := by
  rw [State.finish_failed hk hb hs]
  simp (disch := decide) only [Only.refl_iff, Only.step_iff (State.post_only _ _), Only.step_iff (State.record_only _ _ _ _ _),
    Only.step_iff (State.noted_only _ _ _)]

end Finish

section Met

variable (s : State) (t : Tm) (mb : Mb) (c : Cmd)

theorem met_core : (s.met t mb c).core = s.core := by
  obtain ⟨x, hx⟩ := s.met_eq t mb c
  rw [hx]; rfl
theorem met_trg : (s.met t mb c).trg = s.trg := by
  obtain ⟨x, hx⟩ := s.met_eq t mb c
  rw [hx]; rfl
theorem met_deck : (s.met t mb c).deck = s.deck := by
  obtain ⟨x, hx⟩ := s.met_eq t mb c
  rw [hx]; rfl
theorem met_ctxOf (n : Nat) : (s.met t mb c).ctxOf n = s.ctxOf n := by
  obtain ⟨x, hx⟩ := s.met_eq t mb c
  rw [hx]; rfl
theorem met_holdOf (i : Nat) : (s.met t mb c).holdOf i = s.holdOf i := by
  obtain ⟨x, hx⟩ := s.met_eq t mb c
  rw [hx]; rfl
theorem met_tdcAsk : (s.met t mb c).mbox.tdcAsk = s.mbox.tdcAsk := by
  obtain ⟨x, hx⟩ := s.met_eq t mb c
  rw [hx]
theorem met_flag (f : Fld) (i : Nat) : (s.met t mb c).flag f i = s.flag f i := by
  obtain ⟨x, hx⟩ := s.met_eq t mb c
  rw [hx]; rfl
theorem met_next : (s.met t mb c).time.next = s.time.next := by
  obtain ⟨x, hx⟩ := s.met_eq t mb c
  rw [hx]; rfl
theorem met_reqJudge (n : Nat) (r : Req) : (s.met t mb c).reqJudge n r = (s.clock t).reqJudge n r := by
  obtain ⟨x, hx⟩ := s.met_eq t mb c
  rw [hx]; rfl
theorem met_identity : (s.met t mb c).identity = s.identity := by
  obtain ⟨x, hx⟩ := s.met_eq t mb c
  rw [hx]; rfl
theorem met_ksStatus : (s.met t mb c).ksStatus = s.ksStatus := by
  obtain ⟨x, hx⟩ := s.met_eq t mb c
  rw [hx]; rfl
theorem met_pierWord (i : Nat) : (s.met t mb c).pierWord i = (s.clock t).pierWord i := by
  obtain ⟨x, hx⟩ := s.met_eq t mb c
  rw [hx]; rfl

end Met

end State

/-! ### The next accept id (R116) -/

namespace State

theorem setPulses_acceptId (s : State) (x : Nat) (l : List (Tm × Tm)) : (s.setPulses x l).trg.acceptId = s.trg.acceptId := rfl

theorem trigPulse_acceptId (s : State) (x : Fin 2) (at_ : Tm) : (s.trigPulse x at_).trg.acceptId = s.trg.acceptId := by
  unfold State.trigPulse
  split
  · rfl
  · dsimp only
    split
    · rw [State.drive_trg]
      rfl
    · rfl

theorem trigPulses_acceptId (s : State) (out0 out1 : Bool) (at_ : Tm) : (s.trigPulses out0 out1 at_).trg.acceptId = s.trg.acceptId := by
  cases out0 <;> cases out1 <;> simp [State.trigPulses, trigPulse_acceptId]

theorem localLoss_acceptId (s : State) (cause unit count : Nat) (key : Stamp) (first last : Tm) :
    (s.localLoss cause unit count key first last).trg.acceptId = s.trg.acceptId := by
  unfold State.localLoss
  dsimp only
  split
  · rw [(State.lateEmit_only ..).1 .trg (by decide), (State.takeSeq_only ..).1 .trg (by decide)]
  · rw [(State.takeSeq_only ..).1 .trg (by decide)]

/-- An accept taken by the device itself leaves the next id. -/
theorem acceptTake_acceptId (s : State) (f : Vc0) (arrival : Tm) : (s.acceptTake f arrival).trg.acceptId = s.trg.acceptId := by
  have hraise (v : State) (n : Nat) : (v.raise n).trg = v.trg := (State.raise_only ..).1 .trg (by decide)
  unfold State.acceptTake
  extract_lets cls at_ seen old s1 s2 s3
  have hpulsed : s3.trg.acceptId = s.trg.acceptId := by
    have hcounted : s2.trg.acceptId = s.trg.acceptId := by
      unfold s2
      split
      · rw [hraise, State.bump_trg]
      · rfl
    exact (trigPulses_acceptId ..).trans hcounted
  split
  · rfl
  split
  · rw [State.bump_trg]
  split
  · rw [State.bump_trg]
  split
  · rw [hraise, State.bump_trg, localLoss_acceptId, hpulsed]
  · rw [(State.accShow_only _).1 .trg (by decide)]
    exact hpulsed

/-- The accept that a root emits takes the next id (R116). -/
theorem acceptEmit_acceptId {s : State} (cls : Nat) (at_ : Stamp) (uncomp nohit ext coarse : Bool) (mult : Nat) (due : Tm)
    (habut : s.abut = false) :
    (s.acceptEmit cls at_ uncomp nohit ext coarse mult due).trg.acceptId = (s.trg.acceptId + 1) % 65536 := by
  rw [State.acceptEmit, habut, if_neg Bool.false_ne_true]
  rw [acceptTake_acceptId, trigPulses_acceptId, (State.vc0Forward_only ..).1 .trg (by decide)]

end State

/-! ### The requests of the contexts (R167, R207) -/

namespace State

/-- The contexts' queued requests and their order of placement stand. -/
def SameRequests (s u : State) : Prop := u.deck.placed = s.deck.placed ∧ ∀ c, (u.ctxOf c).requests = (s.ctxOf c).requests

theorem ctxOf_of_only {ps : List Part} {rs : List Nat} {s u : State} (h : Only ps rs s u) (hp : Part.ctx ∉ ps) (c : Nat) :
    u.ctxOf c = s.ctxOf c := by
  rw [State.ctxOf, State.ctxOf, h.1 .ctx hp]

namespace SameRequests

variable {s u v : State}

theorem refl : s.SameRequests s := ⟨rfl, fun _ => rfl⟩

theorem trans (h : s.SameRequests u) (k : u.SameRequests v) : s.SameRequests v :=
  ⟨k.1.trans h.1, fun c => (k.2 c).trans (h.2 c)⟩

theorem of_only {ps : List Part} {rs : List Nat} (h : s.SameRequests u) (ho : Only ps rs u v) (hd : Part.deck ∉ ps)
    (hc : Part.ctx ∉ ps) : s.SameRequests v :=
  h.trans ⟨by rw [ho.1 .deck hd], fun c => by rw [State.ctxOf_of_only ho hc]⟩

theorem of_parts (h : s.SameRequests u) (hd : v.deck.placed = u.deck.placed) (hc : v.ctx = u.ctx) : s.SameRequests v :=
  h.trans ⟨hd, fun c => by rw [State.ctxOf, State.ctxOf, hc]⟩

/-! What each operation of the reader leaves. -/

theorem takeSeq (h : s.SameRequests u) (type : Nat) : s.SameRequests (u.takeSeq type) := h

theorem modCtx (h : s.SameRequests u) (n : Nat) {f : CtxSt → CtxSt} (hf : ∀ x, (f x).requests = x.requests) :
    s.SameRequests (u.modCtx n f) := by
  refine h.trans ⟨rfl, fun c => ?_⟩
  by_cases hc : c = n
  · rw [hc, State.modCtx_same, hf]
  · rw [State.modCtx_ne _ hc]

theorem put (h : s.SameRequests u) (f : Fld) (i v : Nat) : s.SameRequests (u.put f i v) :=
  h.of_parts (by rw [State.put_deck]) (State.put_ctx ..)

theorem bump (h : s.SameRequests u) (f : Fld) (i n : Nat) : s.SameRequests (u.bump f i n) :=
  h.of_parts (by rw [State.bump_deck]) (State.bump_ctx ..)

theorem raise (h : s.SameRequests u) (n : Nat) : s.SameRequests (u.raise n) := h.of_only (State.raise_only ..) (by decide) (by decide)

theorem setSess (h : s.SameRequests u) (i : Nat) (x : Option Sess) : s.SameRequests (u.setSess i x) := by
  refine put ?_ ..
  exact h.of_parts rfl rfl

theorem holdFree (h : s.SameRequests u) (i : Nat) : s.SameRequests (u.holdFree i) := by
  refine put (of_only (u := { u with deck := { u.deck with hold := Tbl.set Hold.reset u.deck.hold i Hold.reset } }) ?_
    (State.holdShow_only ..) (by decide) (by decide)) ..
  exact h.of_parts rfl rfl

theorem holdPlace (h : s.SameRequests u) (i ctx tag epoch start stop : Nat) (only : Bool) :
    s.SameRequests (u.holdPlace i ctx tag epoch start stop only) := by
  refine of_only ?_ (State.holdShow_only ..) (by decide) (by decide)
  exact h.of_parts rfl rfl

theorem reqHold (h : s.SameRequests u) (ctx : Nat) (r : Req) : s.SameRequests (u.reqHold ctx r) := by
  unfold State.reqHold
  dsimp only
  split
  · exact h.holdPlace ..
  · split
    · split
      · exact h.holdPlace ..
      · exact h
    · exact h

theorem replyAdd (h : s.SameRequests u) (i : Nat) (r : Rec) (count : Bool) : s.SameRequests (u.replyAdd i r count) := by
  unfold State.replyAdd
  split
  · exact h
  · dsimp only
    split
    · exact h.setSess ..
    · split
      · exact (h.setSess ..).modCtx _ fun _ => rfl
      · exact (h.setSess ..).modCtx _ fun _ => rfl

theorem sessLoss (h : s.SameRequests u) (i cause count : Nat) (key : Stamp) (first last : Tm) :
    s.SameRequests (u.sessLoss i cause count key first last) := by
  unfold State.sessLoss
  split
  · exact h
  · exact (h.takeSeq _).replyAdd ..

theorem rawSkip (h : s.SameRequests u) (i : Nat) (x : Sess) : s.SameRequests (u.rawSkip i x) := by
  unfold State.rawSkip
  split
  · refine modCtx ?_ _ fun _ => rfl
    split
    · exact h.sessLoss ..
    · exact h
  · exact h

/-- The hold of a session, where it has one, is freed. -/
theorem holdGone (h : s.SameRequests u) (x : Sess) : s.SameRequests (match x.hold with | some i => u.holdFree i | none => u) := by
  split
  · exact h.holdFree _
  · exact h

theorem sessEnd (h : s.SameRequests u) (i : Nat) : s.SameRequests (u.sessEnd i) := by
  unfold State.sessEnd
  split
  · exact h
  · dsimp only
    split
    · exact ((h.holdGone _).setSess ..).modCtx _ fun _ => rfl
    · exact (h.holdGone _).setSess ..

theorem sessClose (h : s.SameRequests u) (i status : Nat) (at_ : Stamp) (overtaken epochEnd : Bool) :
    s.SameRequests (u.sessClose i status at_ overtaken epochEnd) := by
  unfold State.sessClose
  split
  · exact h
  · dsimp only
    split
    · exact ((h.takeSeq _).replyAdd ..).sessEnd _
    · split
      · exact (h.holdGone _).setSess ..
      · exact h.sessEnd _

theorem overtaken (h : s.SameRequests u) (i : Nat) : s.SameRequests (u.overtaken i) := by
  unfold State.overtaken
  split
  · exact h
  · dsimp only
    refine raise (bump (sessClose ?_ ..) ..) _
    split
    · exact (h.sessLoss ..).rawSkip ..
    · exact h.sessLoss ..

/-- The judgement of the holds leaves the requests (R173, R174). -/
theorem holdsJudge (h : s.SameRequests u) (woff : Nat) : s.SameRequests (u.holdsJudge woff) := by
  refine State.each_keeps (Q := s.SameRequests) (fun v i hv => ?_) _ h
  dsimp only
  split
  · split
    · exact hv.overtaken _
    · exact ((hv.holdFree i).bump ..).raise _
  · split
    · exact (hv.put ..).raise _
    · exact hv

end SameRequests

/-- A request joins those of its context, which is placed (R168, R207). -/
def queued (s : State) (c : Nat) (desc : List Byte) : State :=
  let p := s.modCtx c fun x => { x with requests := x.requests ++ [desc] }
  { p with deck := { p.deck with placed := p.deck.placed ++ [c] } }

/-- The holds are judged and shown when a request has been placed (R173, R177). -/
def rewound (s : State) (c : Nat) (desc : List Byte) : State :=
  let v := ((s.reqHold c (Req.parse desc)).queued c desc).reqShow c
  (v.holdsJudge v.deck.woff).holdsShow

theorem rewound_requests (s : State) (c : Nat) (desc : List Byte) :
    ((s.rewound c desc).ctxOf c).requests = (s.ctxOf c).requests ++ [desc] ∧ (s.rewound c desc).deck.placed = s.deck.placed ++ [c] := by
  obtain ⟨hheld, hreqs⟩ : s.SameRequests (s.reqHold c (Req.parse desc)) := SameRequests.refl.reqHold c (Req.parse desc)
  have hshown := (SameRequests.refl (s := (s.reqHold c (Req.parse desc)).queued c desc)).of_only (State.reqShow_only _ c)
    (by decide) (by decide)
  obtain ⟨hplaced, hlater⟩ : ((s.reqHold c (Req.parse desc)).queued c desc).SameRequests (s.rewound c desc) :=
    (hshown.holdsJudge _).of_only (State.holdsShow_only _) (by decide) (by decide)
  refine ⟨?_, ?_⟩
  · rw [hlater, ← hreqs]
    exact congrArg CtxSt.requests (State.modCtx_same ..)
  · rw [hplaced, ← hheld]
    rfl

/-- A request that delivers and breaks no condition is queued and placed (R167, R168, R207). -/
theorem rewind_placed {s : State} {c : Nat} {desc : List Byte} (hdelivers : (Req.parse desc).delivers = true)
    (hjudge : s.reqJudge c (Req.parse desc) = stOk) : s.rewind c desc = (s.rewound c desc, stOk) := by
  unfold State.rewind State.rewound
  dsimp only
  rw [if_neg (not_not_intro hjudge), if_pos hdelivers]
  rfl

end State

/-! ### A hold that is freed (R173) -/

/-- A freed hold is unused and shows so. -/
theorem State.holdFree_spec (s : State) (i : Nat) :
    ((s.holdFree i).holdOf i).used = false ∧ (s.holdFree i).get P.HOLD_STATE_STATE i = 0 := by
  unfold State.holdFree State.holdShow
  refine ⟨?_, ?_⟩
  · rw [State.holdOf, State.put_deck, State.put_deck, State.put_deck, State.put_deck, Tbl.get_set_same]
    rfl
  · rw [State.get_put_par _ _ _ _ _ _ _ _ (by decide) (by decide) (by decide),
      State.get_put_par _ _ _ _ _ _ _ _ (by decide) (by decide) (by decide),
      State.get_put_apart _ _ _ _ _ _ (by decide) (by decide) (by decide) (by decide)]
    exact State.get_put_fits _ _ _ (by decide) (by decide)

/-- Settles O23: each command by the rule of its effect, which the finished command keeps beside its answer. -/
theorem mailboxCommandsComplete : Obligations.MailboxCommandsComplete := by
  unfold Obligations.MailboxCommandsComplete
  intro s t hp
  have hn : Cls.n ≠ .r := by decide
  have hpc : Cls.p ≠ .r := by decide
  refine ⟨?echo, ?identify, ?health, ?visit, ?channel, ?accept, ?noRoot, ?rewind, ?cancel, ?unmatched, ?failover, ?alone⟩
  case echo =>
    intro mb cmd hserved
    refine acts_of_served hp rfl hserved ?_
    rw [State.finish_read]
    rfl
  case identify =>
    intro mb cmd hserved
    refine acts_of_served hp rfl hserved ?_
    rw [State.finish_read, State.met_identity]
    rfl
  case health =>
    intro mb cmd hserved
    refine acts_of_served hp rfl hserved ?_
    rw [State.finish_read, State.met_ksStatus, State.met_pierWord, State.met_pierWord, State.met_core]
    rfl
  case visit =>
    intro mb cmd hserved hchannel
    refine acts_of_served hp rfl hserved ?_
    dsimp only
    rw [if_neg (Nat.not_le.2 hchannel)]
    refine ⟨?_, State.finish_done_owed hn rfl rfl⟩
    rw [State.finish_done_tdcAsk hn rfl rfl, State.gives_s]
    exact mem_asked ..
  case channel =>
    intro mb cmd hserved hchannel
    refine acts_of_served hp rfl hserved ?_
    dsimp only
    rw [if_pos hchannel]
    have hbad : stBadParam ≠ stOk := by decide
    refine ⟨?_, ?_⟩
    · rw [State.finish_failed_tdcAsk hn rfl hbad, State.ends_s, State.met_tdcAsk]
    · rw [State.finish_failed_wait hn rfl hbad, State.ends_s, State.met_wait]
  case accept =>
    intro mb cmd hserved habut hroot hclass hstitch
    refine acts_of_served hp rfl hserved ?_
    have hfits : ¬ (15 < field cmd.payload 0 1 ∨ 3071 < field cmd.payload 4 2) := by omega
    have habut' : (s.met t mb cmd).abut = false := by rw [State.abut, State.met_core, ← State.abut, habut]
    dsimp only
    rw [State.met_flag, hroot, Bool.not_true, if_neg Bool.false_ne_true, if_neg hfits, State.met_trg]
    refine ⟨?_, State.finish_done_owed hn rfl rfl⟩
    rw [(State.finish_done_only hn rfl rfl).1 .trg (by decide), State.gives_s,
      State.acceptEmit_acceptId _ _ _ _ _ _ _ _ habut', State.met_trg]
  case noRoot =>
    intro mb cmd hserved hroot
    refine acts_of_served hp rfl hserved ?_
    have hdenied : stDenied ≠ stOk := by decide
    dsimp only
    rw [State.met_flag, hroot, Bool.not_false, if_pos rfl]
    refine ⟨?_, ?_⟩
    · rw [(State.finish_failed_only hn rfl hdenied).1 .trg (by decide), State.ends_s, State.met_trg]
    · rw [State.finish_failed_wait hn rfl hdenied, State.ends_s, State.met_wait]
  case rewind =>
    intro mb cmd c hserved hctx hdelivers hjudge
    refine acts_of_served hp rfl hserved ?_
    obtain ⟨hrequests, hplaced⟩ := (s.met t mb cmd).rewound_requests c (cmd.payload.take 64)
    rw [hctx, State.rewind_placed hdelivers ((s.met_reqJudge t mb cmd c _).trans hjudge)]
    have hkept := State.finish_done_only (s := s.met t mb cmd) (w := s.sentBy t mb cmd) (c := cmd)
      (d := ((s.met t mb cmd).rewound c (cmd.payload.take 64)).ends stOk) hn rfl rfl
    refine ⟨?_, ?_, State.finish_done_owed hn rfl rfl⟩
    · rw [State.met_ctxOf] at hrequests
      rw [← hrequests]
      exact congrArg CtxSt.requests (State.ctxOf_of_only hkept (by decide) c)
    · rw [State.met_deck] at hplaced
      rw [← hplaced]
      exact congrArg DeckSt.placed (hkept.1 .deck (by decide))
  case cancel =>
    intro mb cmd i hserved hctx hfound
    refine acts_of_served hp rfl hserved ?_
    rw [if_neg (Nat.not_le.2 hctx)]
    simp only [State.met_holdOf]
    rw [hfound]
    obtain ⟨hused, hstate⟩ := (s.met t mb cmd).holdFree_spec i
    have hkept := State.finish_done_only (s := s.met t mb cmd) (w := s.sentBy t mb cmd) (c := cmd)
      (d := ((s.met t mb cmd).holdFree i).gives 1) hn rfl rfl
    refine ⟨?_, ?_, State.finish_done_owed hn rfl rfl⟩
    · rw [← hused, State.holdOf, hkept.1 .deck (by decide)]
      rfl
    · exact (State.get_of_only hkept (by decide) _ _ _ (by decide) (by decide)).trans hstate
  case unmatched =>
    intro mb cmd hserved hctx hnone
    refine acts_of_served hp rfl hserved ?_
    rw [if_neg (Nat.not_le.2 hctx)]
    simp only [State.met_holdOf]
    rw [hnone]
    refine ⟨?_, State.finish_done_owed hn rfl rfl⟩
    rw [(State.finish_done_only hn rfl rfl).1 .deck (by decide), State.gives_s, State.met_deck]
  case failover =>
    intro mb cmd hserved hsync
    refine acts_of_served hp rfl hserved ?_
    rw [State.met_core, hsync, if_pos rfl]
    refine ⟨?_, ?_, State.finish_done_owed hpc rfl rfl⟩
    · rw [(State.finish_done_only hpc rfl rfl).1 .core (by decide)]
      rfl
    · rw [(State.finish_done_only hpc rfl rfl).1 .core (by decide)]
      exact congrArg₂ (· + ·) (State.met_next ..) (State.met_spanLen ..)
  case alone =>
    intro mb cmd hserved hsync
    refine acts_of_served hp rfl hserved ?_
    have hdenied : stDenied ≠ stOk := by decide
    rw [State.met_core, hsync, if_neg Bool.false_ne_true]
    refine ⟨?_, ?_⟩
    · rw [(State.finish_failed_only hpc rfl hdenied).1 .core (by decide), State.ends_s, State.met_core]
    · rw [State.finish_failed_wait hpc rfl hdenied, State.ends_s, State.met_wait]

end Sys2Proof.Machine

namespace Sys2Proof.Machine

open Sys2Proof

/-! ### What waits to be worked through in order (R109, R111, R116) -/

theorem insertBy_perm {α : Type} (lt : α → α → Bool) (x : α) (l : List α) : (insertBy lt x l).Perm (x :: l) := by
  induction l with
  | nil => exact .refl _
  | cons y l ih =>
    unfold insertBy
    split
    · exact (ih.cons y).trans (.swap x y l)
    · exact .refl _

theorem sortBy_perm {α : Type} (lt : α → α → Bool) (l : List α) : (sortBy lt l).Perm l := by
  induction l with
  | nil => exact .refl _
  | cons x l ih => exact (insertBy_perm lt x _).trans (ih.cons x)

/-- The open windows below number `n` whose close has come by an instant, by their numbers in an order of closes (R111, R116). -/
def dueOf {α : Type} (lt : Tm × Nat → Tm × Nat → Bool) (win : Nat → Option α) (close : α → Tm) (lim : Tm) (n : Nat) : List Nat :=
  (sortBy lt ((upTo n).filterMap fun k => (win k).bind fun w => if close w ≤ lim then some (close w, k) else none)).map (·.2)

/-- The windows that are due stand within the list's bound. -/
theorem dueOf_lt {α : Type} (lt : Tm × Nat → Tm × Nat → Bool) (win : Nat → Option α) (close : α → Tm) (lim : Tm) (n : Nat) {k : Nat}
    (h : k ∈ dueOf lt win close lim n) : k < n := by
  obtain ⟨x, hx, rfl⟩ := List.mem_map.1 h
  obtain ⟨j, hj, he⟩ := List.mem_filterMap.1 ((sortBy_perm lt _).mem_iff.1 hx)
  obtain ⟨w, -, he⟩ := Option.bind_eq_some_iff.1 he
  split at he
  · obtain rfl := Option.some.inj he
    exact List.mem_range.1 hj
  · cases he

/-- The windows of a list that are due, in order: each once, and all of them (R111, R116). -/
theorem dueOf_spec {α : Type} (lt : Tm × Nat → Tm × Nat → Bool) (win : Nat → Option α) (close : α → Tm) (lim : Tm) (n : Nat) :
    (dueOf lt win close lim n).Nodup ∧
      ∀ k w, k < n → win k = some w → close w ≤ lim →
        k ∈ dueOf lt win close lim n := by
  have hperm := (sortBy_perm lt ((upTo n).filterMap fun k => (win k).bind fun w => if close w ≤ lim then some (close w, k) else none)).map (·.2)
  refine ⟨hperm.nodup_iff.2 ?_, fun k w hk hw hc => hperm.mem_iff.2 ?_⟩
  · rw [List.map_filterMap]
    refine List.Nodup.filterMap (fun a b c ha hb => ?_) List.nodup_range
    simp only [Option.mem_def, Option.map_eq_some_iff, Option.bind_eq_some_iff] at ha hb
    grind
  · exact List.mem_map.2 ⟨(close w, k), List.mem_filterMap.2 ⟨k, List.mem_range.2 hk, by simp [hw, hc]⟩, rfl⟩

namespace State

theorem groupDue_lt {s : State} {lim : Tm} {k : Nat} (h : k ∈ s.groupDue lim) : k < 64 := dueOf_lt _ s.grpWin GrpWin.close _ 64 h

theorem groupDue_nodup (s : State) (lim : Tm) : (s.groupDue lim).Nodup := (dueOf_spec _ s.grpWin GrpWin.close _ 64).1

theorem mem_groupDue {s : State} {g : Fin 64} {w : GrpWin} (hw : s.grpWin g = some w) (hc : w.close ≤ s.time.now) :
    g.val ∈ s.groupDue w.close := (dueOf_spec _ s.grpWin GrpWin.close _ 64).2 g w g.isLt hw (le_min le_rfl hc)

theorem rootDue_nodup (s : State) (lim : Tm) : (s.rootDue lim).Nodup := (dueOf_spec _ s.rootWin RootWin.close _ 16).1

theorem mem_rootDue {s : State} {k : Fin 16} {w : RootWin} (hw : s.rootWin k = some w) (hc : w.close ≤ s.time.now) :
    k.val ∈ s.rootDue w.close := (dueOf_spec _ s.rootWin RootWin.close _ 16).2 k w k.isLt hw (le_min le_rfl hc)

/-! ### A group fires (R109 to R112) -/

theorem trigPulse_trg (s : State) (x : Fin 2) (at_ : Tm) : ∃ l, (s.trigPulse x at_).trg = { s.trg with trigOut := l } := by
  unfold State.trigPulse
  split
  · exact ⟨_, rfl⟩
  · dsimp only
    split
    · exact ⟨_, State.drive_trg ..⟩
    · exact ⟨_, rfl⟩

/-- The pulses that a primitive or an accept starts are all that it changes of the trigger (R119). -/
theorem trigPulses_trg (s : State) (out0 out1 : Bool) (at_ : Tm) : ∃ l, (s.trigPulses out0 out1 at_).trg = { s.trg with trigOut := l } := by
  obtain ⟨l0, h0⟩ := s.trigPulse_trg 0 at_
  obtain ⟨l1, h1⟩ := s.trigPulse_trg 1 at_
  obtain ⟨l, h⟩ := (s.trigPulse 0 at_).trigPulse_trg 1 at_
  cases out0 <;> cases out1
  · exact ⟨_, rfl⟩
  · exact ⟨l1, h1⟩
  · exact ⟨l0, h0⟩
  · exact ⟨l, h.trans (by rw [h0])⟩

/-- The primitive that the root logic holds for a frame (R115, R117). -/
def heldPrim (s : State) (f : Vc0) (arrival : Tm) (delay : Nat) : Prim :=
  let eq := arrival + s.get P.ROOT_ALIGN_ALIGN 0 * ccSt
  let late := decide (eq < s.time.now + delay)
  ⟨{ f with uncomp := f.uncomp || late }, s.vc0Time f, if late then s.time.now else eq - delay⟩

theorem raise_trg (s : State) (n : Nat) : (s.raise n).trg = s.trg := (State.raise_only ..).1 .trg (by decide)

/-- A primitive joins those that the root logic holds, where it runs (R115). -/
theorem rootTake_trg (s : State) (f : Vc0) (arrival : Tm) (delay : Nat) : (s.rootTake f arrival delay).trg =
    { s.trg with prims := s.trg.prims ++ if s.rootOn then [s.heldPrim f arrival delay] else [] } := by
  unfold State.rootTake
  cases s.rootOn
  · simp
  · simp only [Bool.not_true, Bool.false_eq_true, if_false, if_true]
    split
    · rw [raise_trg, State.bump_trg]
      rfl
    · rfl

section Fire

variable (s : State) (g : Nat) (at_ : Stamp) (coarse nohit : Bool) (mult : Nat) (out0 out1 : Bool) (done : Tm)

/-- The frame of the primitive that a group forms (R111, R112). -/
def primFrame : Vc0 := {
  kind := 1, uncomp := s.uncomp != 0, nohit := nohit, ext := false, coarse := coarse, group := g, origin := s.origin,
  epoch := at_.epoch, timeNs := tbNs at_.tb % 2 ^ 48, stitch := tbStitch at_.tb, mult := min 15 mult, seq := s.trg.seq,
  dest := s.get P.ROOT_CFG_ROOT_ADDR 0, wait := 0, hops := 0, spread := false }

/-- A group has formed a primitive: it is counted and starts its pulses (R111, R119). -/
def primFormed : State :=
  (({ s with trg := { s.trg with seq := (s.trg.seq + 1) % 65536 } } : State).bump P.GROUP_CNT_COUNT g).trigPulses out0 out1 (done + 6 * ccSt)

theorem groupFire_eq : s.groupFire g at_ coarse nohit mult out0 out1 done =
    if s.get P.ROOT_CFG_ROOT_ADDR 0 = 0xFFFF then s.primFormed g out0 out1 done
    else if s.get P.ROOT_CFG_ROOT_ADDR 0 = s.origin then
      (s.primFormed g out0 out1 done).rootTake (s.primFrame g at_ coarse nohit mult) (done + 6 * ccSt + 60 * ccSt) 0
    else ((s.primFormed g out0 out1 done).vc0Forward (s.primFrame g at_ coarse nohit mult) none).1 := rfl

theorem primFormed_only : Only [.trg, .out] [P.GROUP_CNT_COUNT.pid] s (s.primFormed g out0 out1 done) := by
  unfold primFormed
  exact ((Only.bump _ _ _ (by decide) (.inr (by decide)) ((Only.set_trg (by decide)).2 Only.refl)).trans
    ((State.trigPulses_only ..).mono (by decide) (by decide)))

theorem primFormed_trg : ∃ l, (s.primFormed g out0 out1 done).trg = { s.trg with seq := (s.trg.seq + 1) % 65536, trigOut := l } := by
  obtain ⟨l, hl⟩ := (({ s with trg := { s.trg with seq := (s.trg.seq + 1) % 65536 } } : State).bump P.GROUP_CNT_COUNT g).trigPulses_trg
    out0 out1 (done + 6 * ccSt)
  exact ⟨l, by rw [primFormed, hl, State.bump_trg]⟩

theorem primFormed_count : (s.primFormed g out0 out1 done).get P.GROUP_CNT_COUNT g =
    satTo P.GROUP_CNT_COUNT.width (s.get P.GROUP_CNT_COUNT g + 1) := by
  rw [primFormed, State.get_of_only (State.trigPulses_only ..) (by decide) _ _ _ (by decide) (by decide),
    State.get_bump_same _ _ _ _ (by decide)]
  rfl

/-- A group that fires takes the next primitive sequence; beside it only the pulses and the held primitives may change (R111, R112). -/
theorem groupFire_trg : ∃ l ps, (s.groupFire g at_ coarse nohit mult out0 out1 done).trg =
    { s.trg with seq := (s.trg.seq + 1) % 65536, trigOut := l, prims := s.trg.prims ++ ps } := by
  obtain ⟨l, hl⟩ := s.primFormed_trg g out0 out1 done
  rw [groupFire_eq]
  split
  · exact ⟨l, [], by rw [hl, List.append_nil]⟩
  split
  · exact ⟨l, _, by rw [rootTake_trg, hl]⟩
  · exact ⟨l, [], by rw [(State.vc0Forward_only ..).1 .trg (by decide), hl, List.append_nil]⟩

/-- At the root itself the primitive joins those held (R112, R115). -/
theorem groupFire_own (hdest : s.get P.ROOT_CFG_ROOT_ADDR 0 = s.origin) (hne : s.origin ≠ 0xFFFF) (hon : s.rootOn = true) :
    (s.groupFire g at_ coarse nohit mult out0 out1 done).trg.prims.getLast?.map
      (fun p => (p.frame.kind, p.frame.group, p.frame.mult, p.frame.seq, p.frame.epoch)) =
    some (1, g, min 15 mult, s.trg.seq, at_.epoch) := by
  have honly := s.primFormed_only g out0 out1 done
  have hroot : (s.primFormed g out0 out1 done).rootOn = true := by
    rw [State.rootOn, State.abut, State.flag_of_only honly (by decide) _ _ _ (by decide) (by decide), honly.1 .core (by decide)]
    exact hon
  rw [groupFire_eq, if_neg (by rw [hdest]; exact hne), if_pos hdest, rootTake_trg, hroot, if_pos rfl]
  simp [heldPrim, primFrame]

theorem groupFire_count : (s.groupFire g at_ coarse nohit mult out0 out1 done).get P.GROUP_CNT_COUNT g =
    satTo P.GROUP_CNT_COUNT.width (s.get P.GROUP_CNT_COUNT g + 1) := by
  rw [groupFire_eq]
  split
  · exact primFormed_count ..
  split
  · rw [State.get_of_only (State.rootTake_only ..) (by decide) _ _ _ (by decide) (by decide), primFormed_count]
  · rw [State.get_of_only (State.vc0Forward_only ..) (by decide) _ _ _ (by decide) (by decide), primFormed_count]

/-- A group that fires counts in its own count alone. -/
theorem groupFire_count_ne {j : Nat} (h : g % 4096 ≠ j % 4096) :
    (s.groupFire g at_ coarse nohit mult out0 out1 done).get P.GROUP_CNT_COUNT j = s.get P.GROUP_CNT_COUNT j := by
  have hformed : (s.primFormed g out0 out1 done).get P.GROUP_CNT_COUNT j = s.get P.GROUP_CNT_COUNT j := by
    rw [primFormed, State.get_of_only (State.trigPulses_only ..) (by decide) _ _ _ (by decide) (by decide), State.bump,
      State.get_put_inst _ _ _ _ _ _ _ _ (by decide) (by decide) h]
    rfl
  rw [groupFire_eq]
  split
  · exact hformed
  split
  · rw [State.get_of_only (State.rootTake_only ..) (by decide) _ _ _ (by decide) (by decide), hformed]
  · rw [State.get_of_only (State.vc0Forward_only ..) (by decide) _ _ _ (by decide) (by decide), hformed]

end Fire
/-! ### Majority windows open and close (R109, R111) -/

@[simp] theorem clock_grpWin (s : State) (t : Tm) (g : Nat) : (s.clock t).grpWin g = s.grpWin g := rfl
@[simp] theorem clock_groupChans (s : State) (t : Tm) (g : Nat) : (s.clock t).groupChans g = s.groupChans g := rfl
@[simp] theorem clock_sumOf (s : State) (t : Tm) (n : Nat) (l : List (Ch × Lvl)) : (s.clock t).sumOf n l = s.sumOf n l := rfl

theorem setGrpWin_same (s : State) (g : Nat) (w : Option GrpWin) : (s.setGrpWin g w).grpWin g = w := Tbl.get_set_same ..

theorem setGrpWin_ne (s : State) {g j : Nat} (h : j ≠ g) (w : Option GrpWin) : (s.setGrpWin g w).grpWin j = s.grpWin j :=
  Tbl.get_set_ne _ _ _ _ h

theorem groupFire_grpWin (s : State) (g : Nat) (at_ : Stamp) (coarse nohit : Bool) (mult : Nat) (out0 out1 : Bool) (done : Tm) (j : Nat) :
    (s.groupFire g at_ coarse nohit mult out0 out1 done).grpWin j = s.grpWin j := by
  obtain ⟨l, ps, h⟩ := s.groupFire_trg g at_ coarse nohit mult out0 out1 done
  rw [State.grpWin, h]
  rfl

theorem groupClose_none {s : State} {g : Nat} (h : s.grpWin g = none) : s.groupClose g = s := by
  rw [State.groupClose, h]

/-- A window past its close fires its group or not (R109). -/
theorem groupClose_due {s : State} {g : Nat} {w : GrpWin} (hw : s.grpWin g = some w) (hc : w.close ≤ s.time.now) : s.groupClose g =
    if (decide (w.n ≤ w.chans.length) && s.acquiring) = true then
      (s.setGrpWin g none).groupFire g w.at_ w.coarse w.nohit w.chans.length w.out0 w.out1 w.close
    else s.setGrpWin g none := by
  rw [State.groupClose, hw]
  exact if_neg (Nat.not_lt.2 hc)

/-- Other groups' windows and counts stand when a window closes (R109). -/
theorem groupClose_ne (s : State) {g j : Nat} (h : j ≠ g) : (s.groupClose g).grpWin j = s.grpWin j := by
  unfold State.groupClose
  split
  · rfl
  · split
    · rfl
    · dsimp only
      split
      · rw [groupFire_grpWin, setGrpWin_ne s h]
      · exact setGrpWin_ne s h _

theorem groupClose_count_ne (s : State) {g j : Nat} (h : g % 4096 ≠ j % 4096) :
    (s.groupClose g).get P.GROUP_CNT_COUNT j = s.get P.GROUP_CNT_COUNT j := by
  unfold State.groupClose
  split
  · rfl
  · split
    · rfl
    · dsimp only
      split
      · rw [groupFire_count_ne _ _ _ _ _ _ _ _ _ h]
        rfl
      · rfl

/-- What a window's close leaves of its own group (R109). -/
theorem groupClose_same {s : State} {g : Nat} {w : GrpWin} (hw : s.grpWin g = some w) (hc : w.close ≤ s.time.now) :
    (s.groupClose g).grpWin g = none ∧ (s.groupClose g).get P.GROUP_CNT_COUNT g =
      if (decide (w.n ≤ w.chans.length) && s.acquiring) = true then satTo P.GROUP_CNT_COUNT.width (s.get P.GROUP_CNT_COUNT g + 1)
      else s.get P.GROUP_CNT_COUNT g := by
  rw [groupClose_due hw hc]
  split
  · rw [groupFire_grpWin, setGrpWin_same, groupFire_count]
    exact ⟨rfl, rfl⟩
  · exact ⟨setGrpWin_same .., rfl⟩

/-- Working through a list without repetitions brings each member from `P`, which the list's others keep, to `Q`. -/
theorem each_once_mem {P Q : State → Prop} {f : State → Nat → State} {k : Nat} {l : List Nat} (hP : ∀ s, ∀ j ∈ l, j ≠ k → P s → P (f s j))
    (hk : ∀ s, P s → Q (f s k)) (hQ : ∀ s, ∀ j ∈ l, j ≠ k → Q s → Q (f s j)) (hl : l.Nodup) (hm : k ∈ l) {s : State}
    (h : P s) : Q (s.each l f) := by
  induction l generalizing s with
  | nil => cases hm
  | cons j l ih =>
    obtain ⟨hj, hl⟩ := List.nodup_cons.1 hl
    by_cases hjk : j = k
    · subst hjk
      exact each_keeps_mem l (fun s i hi => hQ s i (List.mem_cons_of_mem _ hi) fun h => hj (h ▸ hi)) (hk s h)
    · exact ih (fun s i hi => hP s i (List.mem_cons_of_mem _ hi)) (fun s i hi => hQ s i (List.mem_cons_of_mem _ hi)) hl
        ((List.mem_cons.1 hm).resolve_left (Ne.symm hjk)) (hP s j List.mem_cons_self hjk h)

/-- Of the windows that close together, one closes once, and the others leave it (R109, R111). -/
theorem groupsClose_spec {s : State} {g : Fin 64} {w : GrpWin} (hw : s.grpWin g = some w) (hc : w.close ≤ s.time.now) :
    (s.each (s.groupDue w.close) State.groupClose).grpWin g = none ∧
      (s.each (s.groupDue w.close) State.groupClose).get P.GROUP_CNT_COUNT g =
        if (decide (w.n ≤ w.chans.length) && s.acquiring) = true then satTo P.GROUP_CNT_COUNT.width (s.get P.GROUP_CNT_COUNT g + 1)
        else s.get P.GROUP_CNT_COUNT g := by
  have hne (j : Nat) (hj : j ∈ s.groupDue w.close) (h : j ≠ g) : j % 4096 ≠ g.val % 4096 := by
    have := groupDue_lt hj
    have := g.isLt
    omega
  refine each_once_mem
    (P := fun u => u.grpWin g = some w ∧ u.time = s.time ∧ u.acquiring = s.acquiring ∧ u.get P.GROUP_CNT_COUNT g = s.get P.GROUP_CNT_COUNT g)
    (Q := fun u => u.grpWin g = none ∧ u.get P.GROUP_CNT_COUNT g =
      if (decide (w.n ≤ w.chans.length) && s.acquiring) = true then satTo P.GROUP_CNT_COUNT.width (s.get P.GROUP_CNT_COUNT g + 1)
      else s.get P.GROUP_CNT_COUNT g)
    (fun u j hj h hu => ?_) (fun u hu => ?_) (fun u j hj h hu => ?_) (groupDue_nodup ..) (mem_groupDue hw hc) ⟨hw, rfl, rfl, rfl⟩
  · obtain ⟨hwin, htime, hacq, hcount⟩ := hu
    have honly := u.groupClose_only j
    refine ⟨(groupClose_ne u h.symm).trans hwin, (honly.1 .time (by decide)).trans htime, ?_,
      (groupClose_count_ne u (hne j hj h)).trans hcount⟩
    rw [← hacq, State.acquiring, State.acquiring, State.abut, State.abut, honly.1 .pwr (by decide), honly.1 .core (by decide)]
  · obtain ⟨hwin, htime, hacq, hcount⟩ := hu
    obtain ⟨hnone, hnew⟩ := groupClose_same hwin (by rw [htime]; exact hc)
    exact ⟨hnone, by rw [hnew, hacq, hcount]⟩
  · exact ⟨(groupClose_ne u h.symm).trans hu.1, (groupClose_count_ne u (hne j hj h)).trans hu.2⟩

/-- The window that a channel's true pulse opens at a group (R109). -/
def opened (s : State) (c : Nat) (at_ : Stamp) (coarse nohit : Bool) (g : Nat) : GrpWin :=
  ⟨s.time.now + s.get P.GROUP_CFG_WIN g * ccSt, s.groupMask g, s.get P.GROUP_CFG_N g, [c], at_, coarse, nohit,
    s.flag P.GROUP_CFG_OUT0 g, s.flag P.GROUP_CFG_OUT1 g⟩

/-- A group that a true pulse of a channel opens a window at (R109). -/
def opens (s : State) (c g : Nat) : Bool :=
  s.flag P.GROUP_CFG_ENABLE g && s.get P.GROUP_CFG_RULE g == 0 && (s.groupMask g).getLsbD c

theorem groupMask_congr {s u : State} {g : Nat} (h : ∀ w < 8, u.get P.GROUP_MASK_MASK g w = s.get P.GROUP_MASK_MASK g w) :
    u.groupMask g = s.groupMask g := by
  unfold State.groupMask
  refine congrArg (BitVec.ofNat 256) (List.foldl_ext _ _ _ fun a w hw => ?_)
  rw [h w (List.mem_range.1 hw)]

section Pulse

variable {ps : List Part} {rs : List Nat} {s u : State} (h : Only ps rs s u) (hp : decide (Part.regs ∈ ps) = false)
  (hr : rs.all (fun r => decide (r < 0x04000101 ∨ 0x04000109 < r)) = true)
include h hp hr

/-- The settings of a group stand where only other parameters change. -/
theorem group_of_only (f : Fld) (g : Nat) {w : Nat} (hw : w < 8) (hf : (f.pid = 0x04000101 ∨ f.pid = 0x04000109 ∧ w = 0)) :
    u.get f g w = s.get f g w := by
  refine State.get_of_only h (of_decide_eq_false hp) f g w (by rcases hf with hf | ⟨hf, -⟩ <;> rw [hf] <;> omega) fun hm => ?_
  have := of_decide_eq_true (List.all_eq_true.1 hr _ hm)
  omega

theorem groupMask_of_only (g : Nat) : u.groupMask g = s.groupMask g :=
  groupMask_congr fun _ hw => group_of_only h hp hr _ _ hw (.inl rfl)

theorem opens_of_only (c g : Nat) : u.opens c g = s.opens c g := by
  rw [opens, opens, State.flag, State.flag, groupMask_of_only h hp hr, group_of_only h hp hr _ _ (by decide) (.inr ⟨rfl, rfl⟩),
    group_of_only h hp hr _ _ (by decide) (.inr ⟨rfl, rfl⟩)]

theorem opened_of_only (ht : Part.time ∉ ps) (c : Nat) (at_ : Stamp) (coarse nohit : Bool) (g : Nat) :
    u.opened c at_ coarse nohit g = s.opened c at_ coarse nohit g := by
  rw [opened, opened, State.flag, State.flag, State.flag, State.flag, groupMask_of_only h hp hr, h.1 .time ht,
    group_of_only h hp hr _ _ (by decide) (.inr ⟨rfl, rfl⟩), group_of_only h hp hr _ _ (by decide) (.inr ⟨rfl, rfl⟩),
    group_of_only h hp hr _ _ (by decide) (.inr ⟨rfl, rfl⟩), group_of_only h hp hr _ _ (by decide) (.inr ⟨rfl, rfl⟩)]

end Pulse

theorem groupPulse_ne (s : State) (c : Nat) (at_ : Stamp) (coarse nohit : Bool) {g j : Nat} (h : j ≠ g) :
    (s.groupPulse c at_ coarse nohit g).grpWin j = s.grpWin j := by
  unfold State.groupPulse
  dsimp only
  split
  · split
    · exact (setGrpWin_ne _ h _).trans (groupClose_ne s h)
    · exact groupClose_ne s h
  · split
    · exact (setGrpWin_ne _ h _).trans (groupClose_ne s h)
    · exact groupClose_ne s h

theorem groupPulse_opens {s : State} {c g : Nat} (at_ : Stamp) (coarse nohit : Bool) (hw : s.grpWin g = none) (ho : s.opens c g = true) :
    (s.groupPulse c at_ coarse nohit g).grpWin g = some (s.opened c at_ coarse nohit g) := by
  unfold State.groupPulse
  dsimp only
  rw [groupClose_none hw, hw]
  exact (congrArg (State.grpWin · g) (if_pos ho)).trans (setGrpWin_same ..)

/-- A condition's true pulse counts and opens the window of every group that masks the channel and has none (R107, R109). -/
theorem truePulse_spec {s : State} {c : Nat} {at_ : Stamp} (coarse nohit : Bool) (hmay : s.condMay c at_ = true) :
    (s.truePulse c at_ coarse nohit).get P.COND_CNT_COUNT c = satTo P.COND_CNT_COUNT.width (s.get P.COND_CNT_COUNT c + 1) ∧
      ∀ g : Fin 64, s.grpWin g = none → s.opens c g = true →
        (s.truePulse c at_ coarse nohit).grpWin g = some (s.opened c at_ coarse nohit g) := by
  have hpulses (v : State) (g : Nat) := v.groupPulse_only c at_ coarse nohit g
  rw [State.truePulse, if_pos hmay]
  refine ⟨?_, fun g hw ho => ?_⟩
  · rw [State.get_of_only (Only.each hpulses _ Only.refl) (by decide) _ _ _ (by decide) (by decide), State.get_bump_same _ _ _ _ (by decide)]
  · refine State.each_once
      (P := fun u => Only [.ev, .recd, .trg, .fab, .out] [0x04000007, 0x0400010B, 0x0400030A, 0x0A000005, 0x11000203, 0x11000204] s u ∧
        u.grpWin g = none)
      (Q := fun u => u.grpWin g = some (s.opened c at_ coarse nohit g))
      (fun u j hj hu => ⟨hu.1.trans ((hpulses u j).mono (by decide) (by decide)), (groupPulse_ne _ _ _ _ _ hj.symm).trans hu.2⟩)
      (fun u hu => ?_) (fun u j hj hu => (groupPulse_ne _ _ _ _ _ hj.symm).trans hu) List.nodup_range (List.mem_range.2 g.isLt)
      ⟨Only.bump _ _ _ (by decide) (.inr (by decide)) Only.refl, ?_⟩
    · rw [groupPulse_opens _ _ _ hu.2 (by rw [opens_of_only hu.1 (by decide) (by decide)]; exact ho),
        opened_of_only hu.1 (by decide) (by decide) (by decide)]
    · rw [State.grpWin, State.bump_trg]
      exact hw

/-- What a decision of a channel looks at: its first due hit, else a quiet timeout, else the slew condition (R107). -/
def decided (s : State) (c : Nat) (levels : List Lvl) : State :=
  ((s.td c).judged.find? fun x => (s.condDue c x).any fun d => decide (d ≤ s.time.now)).elim
    ((s.td c).quietAt.elim (s.slewJudge c levels) fun q =>
      if q + 2 * ccSt ≤ s.time.now then (s.modTd c fun x => { x with quietAt := none }).truePulse c (s.stampAt q) false true else s)
    fun h => s.condJudge c h levels

section Decided

variable {s : State} {c : Nat} {levels : List Lvl}

theorem decided_hit {h : CondHit}
    (hfind : ((s.td c).judged.find? fun x => (s.condDue c x).any fun d => decide (d ≤ s.time.now)) = some h) :
    s.decided c levels = s.condJudge c h levels := by
  rw [decided, hfind]
  rfl

variable (hfind : ((s.td c).judged.find? fun x => (s.condDue c x).any fun d => decide (d ≤ s.time.now)) = none)
include hfind

theorem decided_quiet {q : Tm} (hquiet : (s.td c).quietAt = some q) (hdue : q + 2 * ccSt ≤ s.time.now) :
    s.decided c levels = (s.modTd c fun x => { x with quietAt := none }).truePulse c (s.stampAt q) false true := by
  rw [decided, hfind, hquiet]
  exact if_pos hdue

theorem decided_slew (hquiet : (s.td c).quietAt = none) : s.decided c levels = s.slewJudge c levels := by
  rw [decided, hfind, hquiet]
  rfl

end Decided

/-- A hit that is judged leaves the list, and is a true pulse where its condition holds (R107, R108). -/
theorem condJudge_eq {s : State} {c : Nat} {h : CondHit} {levels : List Lvl} (hlen : h.hit.cond.kind = 2 → levels.length = h.hit.cond.win) :
    s.condJudge c h levels = if s.condTrue c h (s.samplesFrom c (s.runtFirst c h.hit) levels) = true then
      (s.modTd c fun x => { x with judged := x.judged.erase h }).truePulse c h.hit.at_ h.hit.coarse false
    else s.modTd c fun x => { x with judged := x.judged.erase h } :=
  if_neg fun k => k.2 (hlen k.1)

/-- A channel's slew condition that was off the slope and is on it now (R107). -/
theorem slewJudge_fires {s : State} {c : Nat} {levels : List Lvl} {n : Int} {k : Cond} (hn : s.slewSample c = n)
    (hk : s.condAt c (s.stampAt (s.pinAt (c / 16) (n - (s.condOf c).k))) = k) (hkind : k.kind = 5) (hlen : levels.length = k.k + 1)
    (hoff : (s.td c).slewOff = false) (hslew : (k.slew : Int) ≤ (s.amps (n - k.k) (s.samplesFrom c (n - k.k) levels)).getLastD 0 -
      (s.amps (n - k.k) (s.samplesFrom c (n - k.k) levels)).headD 0) :
    s.slewJudge c levels =
      (s.modTd c fun x => { x with slewOff := true }).truePulse c (s.stampAt (s.pinAt (c / 16) (n - k.k))) false false := by
  subst hn hk
  unfold State.slewJudge
  dsimp only
  rw [if_neg (by simp [hkind, hlen]), if_neg (by simp [hoff]), if_pos hslew]

/-- A sum that fires its group: it notes the instant, counts and takes a primitive sequence (R110, R111). -/
theorem sumFire_spec (s : State) (g mult : Nat) (tn : Stamp) (first : Option (Tm × Bool)) :
    Tbl.get none (s.sumFire g mult tn first).trg.fired g = some s.time.now ∧
      (s.sumFire g mult tn first).get P.GROUP_CNT_COUNT g = satTo P.GROUP_CNT_COUNT.width (s.get P.GROUP_CNT_COUNT g + 1) ∧
      (s.sumFire g mult tn first).trg.seq = (s.trg.seq + 1) % 65536 := by
  let s1 : State := { s with trg := { s.trg with fired := Tbl.set none s.trg.fired g (some s.time.now) } }
  obtain ⟨at_, coarse, nohit, hfire⟩ : ∃ at_ coarse nohit, s.sumFire g mult tn first =
      s1.groupFire g at_ coarse nohit mult (s.flag P.GROUP_CFG_OUT0 g) (s.flag P.GROUP_CFG_OUT1 g) s.time.now := by
    cases first <;> exact ⟨_, _, _, rfl⟩
  obtain ⟨l, ps, htrg⟩ := s1.groupFire_trg g at_ coarse nohit mult (s.flag P.GROUP_CFG_OUT0 g) (s.flag P.GROUP_CFG_OUT1 g) s.time.now
  rw [hfire, htrg, groupFire_count]
  exact ⟨Tbl.get_set_same none (some s.time.now) s.trg.fired g, rfl, rfl⟩

/-- The reads of a sum leave all but the ring, its errors and their reports (R68, R70). -/
theorem ringReads_only (s : State) (n : Nat) (levels : List (Ch × Lvl)) : Only [.ev, .recd, .dig, .out] [0x02000104, 0x11000203, 0x11000204]
    s (levels.foldl (fun v x => v.ringRead x.1 n [x.2]) s) := Only.foldl (fun _ _ => State.ringRead_only ..) _ Only.refl

end State

theorem exec_conditionDecide {s : State} (t : Tm) (ch : Ch) (levels : List Lvl) (hp : s.pwr.por = false) :
    exec (.conditionDecide t ch levels) s = .next ((s.clock t).decided ch levels) := by
  simp only [exec, execConditionDecide, live_of hp, State.decided]
  refine congrArg Host.Outcome.next ?_
  have hfind {p q : CondHit → Bool} (h : ∀ x, p x = q x) : ((s.clock t).td ch).judged.find? p = ((s.clock t).td ch).judged.find? q := by
    rw [funext h]
  rw [hfind (q := fun x => ((s.clock t).condDue ch x).any fun d => decide (d ≤ (s.clock t).time.now))
    fun x => by cases (s.clock t).condDue ch x <;> rfl]
  split
  · next h hf => rw [hf]; rfl
  · next hf =>
    rw [hf]
    split
    · next q hq => rw [hq]; rfl
    · next hq => rw [hq]; rfl

/-- Settles O12: each decision by the true pulse it gives or not, each window by its close among those due with it, a sum by the group
that it fires. -/
theorem conditionsAndGroupsComplete : Obligations.ConditionsAndGroupsComplete := by
  unfold Obligations.ConditionsAndGroupsComplete
  intro s t hp
  have htd (v : State) (c : Nat) (at_ : Stamp) (coarse nohit : Bool) : (v.truePulse c at_ coarse nohit).td c = v.td c :=
    State.td_of_only (State.truePulse_only ..) (by decide) c
  refine ⟨?true, ?false, ?quiet, ?slew, ?high, ?timeout, ?enough, ?few, ?sum, ?below⟩
  case true =>
    intro ch levels h hfind hlen htrue hmay
    refine ⟨_, exec_conditionDecide t ch levels hp, ?_⟩
    have htrue' : (s.clock t).condTrue ch h ((s.clock t).samplesFrom ch ((s.clock t).runtFirst ch h.hit) levels) = true := htrue
    rw [State.decided_hit hfind, State.condJudge_eq hlen, if_pos htrue']
    obtain ⟨hcount, hopens⟩ := State.truePulse_spec (s := (s.clock t).modTd ch fun x => { x with judged := x.judged.erase h })
      h.hit.coarse false hmay
    refine ⟨?_, hcount, fun g hwin henable hrule hmask => hopens g hwin ?_⟩
    · rw [htd, State.modTd_same, State.clock_td]
    · exact Bool.and_eq_true_iff.2 ⟨Bool.and_eq_true_iff.2 ⟨henable, beq_iff_eq.2 hrule⟩, hmask⟩
  case false =>
    intro ch levels h hfind hlen hfalse
    refine ⟨_, exec_conditionDecide t ch levels hp, ?_⟩
    have hfalse' : (s.clock t).condTrue ch h ((s.clock t).samplesFrom ch ((s.clock t).runtFirst ch h.hit) levels) = false := hfalse
    rw [State.decided_hit hfind, State.condJudge_eq hlen, if_neg (ne_true_of_eq_false hfalse')]
    exact ⟨by rw [State.modTd_same, State.clock_td], rfl, rfl⟩
  case quiet =>
    intro ch levels q hfind hquiet hdue hmay
    refine ⟨_, exec_conditionDecide t ch levels hp, ?_⟩
    rw [State.decided_quiet hfind hquiet hdue]
    exact ⟨by rw [htd, State.modTd_same], (State.truePulse_spec (s := (s.clock t).modTd ch fun x => { x with quietAt := none }) _ _ hmay).1⟩
  case slew =>
    intro ch levels n k hfind hquiet hn hk hkind hlen hoff hslew
    refine ⟨_, exec_conditionDecide t ch levels hp, ?_⟩
    rw [State.decided_slew hfind hquiet, State.slewJudge_fires hn hk hkind hlen hoff hslew]
    exact ⟨by rw [htd, State.modTd_same], fun hmay =>
      (State.truePulse_spec (s := (s.clock t).modTd ch fun x => { x with slewOff := true }) _ _ hmay).1⟩
  case high =>
    intro ch j hj hdue hstill
    refine acts_of_live hp (Eq.refl (execTimeoutHighExpire t ch s)) ?_
    rw [State.modTd_same, State.clock_td]
    refine ⟨List.mem_map.2 ⟨j, hj, if_pos ?_⟩, List.length_map ..⟩
    exact Bool.and_eq_true_iff.2 ⟨Bool.and_eq_true_iff.2 ⟨beq_iff_eq.2 hdue.1, decide_eq_true hdue.2⟩, hstill⟩
  case timeout =>
    intro ch hkind hdone hdue
    have hfires : ((s.condOf ch).kind == 4 && !(s.td ch).quietDone && decide ((s.td ch).quietFrom + (s.condOf ch).quiet ≤ s.instant t)) = true := by
      rw [hkind, hdone]
      exact decide_eq_true hdue
    have hexec : exec (.quietTimeoutExpire t ch) s = .next ((s.clock t).modTd ch fun x =>
        { x with quietDone := true, quietAt := some ((s.td ch).quietFrom + (s.condOf ch).quiet) }) := by
      simp only [exec, execQuietTimeoutExpire, live_of hp]
      exact congrArg Host.Outcome.next (if_pos hfires)
    refine ⟨_, hexec, ?_⟩
    dsimp only
    rw [State.modTd_same]
    exact ⟨rfl, rfl⟩
  case enough =>
    intro g w hw hclose hn hacq
    have hfires : (decide (w.n ≤ w.chans.length) && (s.clock t).acquiring) = true := by
      rw [decide_eq_true hn]
      exact hacq
    obtain ⟨hnone, hcount⟩ := State.groupsClose_spec (s := s.clock t) hw hclose
    have hexec : exec (.groupWindowClose t g) s = .next ((s.clock t).each ((s.clock t).groupDue w.close) State.groupClose) := by
      simp only [exec, execGroupWindowClose, live_of hp, State.clock_grpWin, hw]
    rw [if_pos hfires] at hcount
    refine ⟨_, hexec, hnone, hcount, fun hdue => ?_, fun hdue haddr hne hroot => ?_⟩
    · obtain ⟨l, ps, htrg⟩ := ((s.clock t).setGrpWin g none).groupFire_trg g w.at_ w.coarse w.nohit w.chans.length w.out0 w.out1 w.close
      rw [hdue, State.each, List.foldl_cons, State.groupClose_due (s := s.clock t) hw hclose, if_pos hfires, List.foldl_nil, htrg]
      rfl
    · rw [hdue, State.each, List.foldl_cons, State.groupClose_due (s := s.clock t) hw hclose, if_pos hfires, List.foldl_nil]
      exact State.groupFire_own _ _ _ _ _ _ _ _ _ haddr hne hroot
  case few =>
    intro g w hw hclose hn
    have hfires : ¬ (decide (w.n ≤ w.chans.length) && (s.clock t).acquiring) = true := by
      rw [decide_eq_false (Nat.not_le.2 hn), Bool.false_and]
      decide
    obtain ⟨hnone, hcount⟩ := State.groupsClose_spec (s := s.clock t) hw hclose
    have hexec : exec (.groupWindowClose t g) s = .next ((s.clock t).each ((s.clock t).groupDue w.close) State.groupClose) := by
      simp only [exec, execGroupWindowClose, live_of hp, State.clock_grpWin, hw]
    rw [if_neg hfires] at hcount
    refine ⟨_, hexec, hnone, hcount, fun hdue => ?_⟩
    rw [hdue, State.each, List.foldl_cons, State.groupClose_due (s := s.clock t) hw hclose, if_neg hfires, List.foldl_nil]
    exact ⟨rfl, rfl⟩
  case sum =>
    intro g n levels hlevels hready habut hjudged hthr
    have honly := (s.clock t).ringReads_only n levels
    have hexec : exec (.groupSumComplete t g n levels) s = .next ((levels.foldl (fun v x => v.ringRead x.1 n [x.2]) (s.clock t)).sumFire g
        levels.length ((s.clock t).stampAt ((s.clock t).sumPin g n)) (earliestEdge ((s.clock t).sumEdges g
          ((s.clock t).get P.GROUP_CFG_WIN g * ccSt) ((s.clock t).sumPin g n).toNat))) := by
      have hread : ((levels.map fun x => x.1.val) != (s.clock t).groupChans g || !(s.clock t).sumReady g n || (s.clock t).abut) = false := by
        rw [hready, State.clock_abut, habut, State.clock_groupChans]
        simpa using hlevels
      have hfires : ((s.clock t).sumJudged g && decide (((s.clock t).get P.GROUP_SUM_THR g : Int) ≤ (s.clock t).sumOf n levels)) = true := by
        rw [hjudged]
        exact decide_eq_true hthr
      simp only [exec, execGroupSumComplete, live_of hp, hread, Bool.false_eq_true, if_false, hfires, if_true]
    obtain ⟨hfired, hcount, hseq⟩ := (levels.foldl (fun v x => v.ringRead x.1 n [x.2]) (s.clock t)).sumFire_spec g levels.length
      ((s.clock t).stampAt ((s.clock t).sumPin g n)) (earliestEdge ((s.clock t).sumEdges g
          ((s.clock t).get P.GROUP_CFG_WIN g * ccSt) ((s.clock t).sumPin g n).toNat))
    refine ⟨_, hexec, ?_, ?_, ?_⟩
    · rw [hfired, honly.1 .time (by decide)]
      rfl
    · rw [hcount, State.get_of_only honly (by decide) _ _ _ (by decide) (by decide), State.clock_get]
    · rw [hseq, honly.1 .trg (by decide), State.clock_trg]
  case below =>
    intro g n levels hthr
    have honly := (s.clock t).ringReads_only n levels
    have hrests : ((s.clock t).sumJudged g && decide (((s.clock t).get P.GROUP_SUM_THR g : Int) ≤ (s.clock t).sumOf n levels)) = false := by
      rw [State.clock_sumOf, State.clock_get, decide_eq_false (Int.not_le.2 hthr), Bool.and_false]
    refine acts_of_live hp (Eq.refl (execGroupSumComplete t g n levels s)) ?_
    dsimp only
    rw [hrests, if_neg Bool.false_ne_true]
    split
    · exact ⟨rfl, rfl⟩
    · exact ⟨honly.1 .trg (by decide), State.get_of_only honly (by decide) _ _ _ (by decide) (by decide)⟩

end Sys2Proof.Machine

namespace Sys2Proof.Machine

open Sys2Proof

/-! ### The extractor (R122 to R130) -/

namespace State

theorem accShow_trg (s : State) : s.accShow.trg = s.trg := (State.accShow_only s).1 .trg (by decide)

theorem accDrop_trg (s : State) (a : Acc) : (s.accDrop a).trg = { s.trg with accs := s.trg.accs.erase a } := accShow_trg _

/-- A loss record in the local input or the late stream is all that it changes of the trigger (R26). -/
theorem localLoss_trg (s : State) (cause unit count : Nat) (key : Stamp) (first last : Tm) :
    ∃ b, (s.localLoss cause unit count key first last).trg = { s.trg with buf := b } := by
  have htake : (s.takeSeq 0x06).trg = s.trg := (State.takeSeq_only ..).1 .trg (by decide)
  unfold State.localLoss
  dsimp only
  split
  · exact ⟨_, ((State.lateEmit_only ..).1 .trg (by decide)).trans htake⟩
  · exact ⟨_, by rw [htake]⟩

theorem notServed_spec (s : State) (a : Acc) (late : Bool) :
    (∃ b, (s.notServed a late).trg = { s.trg with buf := b }) ∧ Raised 131 (s.notServed a late) := by
  unfold State.notServed
  refine ⟨?_, State.raise_raised _ (by decide)⟩
  rw [raise_trg]
  split
  · exact ⟨_, ((State.lateEmit_only ..).1 .trg (by decide)).trans ((State.takeSeq_only ..).1 .trg (by decide))⟩
  · exact localLoss_trg ..

section ExtractOn

variable {s : State} {a : Acc} {x : Extract}

/-- An extraction starts inside the ring deadline where its space is free; one of a late accept counts with source 129 (R126 to R128). -/
theorem extractOn_begins (hpast : s.pastRing x = false) (hfull : s.bufferFull x = false) :
    (s.extractOn a (some x)).trg =
      { s.trg with accs := s.trg.accs.erase a, run := some x, used := s.trg.used + x.reserved } ∧
    (a.late = true → Raised 129 (s.extractOn a (some x)) ∧
      (s.extractOn a (some x)).get P.CLASS_LATE_LATE a.cls = satTo P.CLASS_LATE_LATE.width (s.get P.CLASS_LATE_LATE a.cls + 1)) := by
  have hon : s.extractOn a (some x) = (if a.late = true then ((s.extractBegin a x).bump P.CLASS_LATE_LATE a.cls).raise 129
      else s.extractBegin a x).accShow := by
    unfold State.extractOn
    dsimp only
    rw [hpast, hfull]
    rfl
  rw [hon]
  refine ⟨?_, fun hlate => ?_⟩
  · rw [accShow_trg]
    split
    · rw [raise_trg, State.bump_trg]
      rfl
    · rfl
  · rw [if_pos hlate]
    refine ⟨?_, ?_⟩
    · rw [Raised, (State.accShow_only _).1 .ev (by decide)]
      exact State.raise_raised _ (by decide)
    · rw [State.get_of_only (State.accShow_only _) (by decide) _ _ _ (by decide) (by decide),
        State.get_of_only (State.raise_only ..) (by decide) _ _ _ (by decide) (by decide), State.get_bump_same _ _ _ _ (by decide)]
      rfl

/-- An accept whose window the time base never held is lost (R122). -/
theorem extractOn_unmapped : (∃ b, (s.extractOn a none).trg = { s.trg with accs := s.trg.accs.erase a, buf := b }) ∧
    Raised 131 (s.extractOn a none) := by
  obtain ⟨⟨b, hb⟩, hraised⟩ := s.notServed_spec a false
  have hev : ((s.notServed a false).accDrop a).ev = (s.notServed a false).ev := (State.accDrop_only ..).1 .ev (by decide)
  refine ⟨⟨b, ?_⟩, ?_⟩
  · exact (accDrop_trg ..).trans (by rw [hb])
  · exact (show Raised 131 ((s.notServed a false).accDrop a) by rw [Raised, hev]; exact hraised)

/-- One that has waited for space up to the ring deadline is lost too (R128). -/
theorem extractOn_lost (hpast : s.pastRing x = true) (hwaits : a.waits = true) :
    (∃ b, (s.extractOn a (some x)).trg = { s.trg with accs := s.trg.accs.erase a, buf := b }) ∧ Raised 131 (s.extractOn a (some x)) := by
  have hon : s.extractOn a (some x) = ((s.localLoss 0x06 a.cls 1 a.at_ a.at_.tb a.at_.tb).accDrop a).raise 131 := by
    unfold State.extractOn
    dsimp only
    rw [hpast, hwaits]
    rfl
  obtain ⟨b, hb⟩ := s.localLoss_trg 0x06 a.cls 1 a.at_ a.at_.tb a.at_.tb
  rw [hon]
  exact ⟨⟨b, by rw [raise_trg, accDrop_trg, hb]⟩, State.raise_raised _ (by decide)⟩

/-- One past the ring deadline that has not waited goes to the deck (R127). -/
theorem extractOn_deck (hpast : s.pastRing x = true) (hwaits : a.waits = false) (honline : s.flag P.DECK_STATUS_ONLINE 0 = true) :
    (s.extractOn a (some x)).trg = { s.trg with accs := s.trg.accs.erase a, deckWait := s.trg.deckWait ++ [x] } := by
  have hon : s.extractOn a (some x) =
      ({ s.accDrop a with trg := { (s.accDrop a).trg with deckWait := (s.accDrop a).trg.deckWait ++ [x] } } : State).accShow := by
    unfold State.extractOn State.deckServe
    dsimp only
    rw [hpast, hwaits, honline]
    rfl
  rw [hon, accShow_trg, accDrop_trg]

/-- One that finds no room waits with the settings of its S (R27, R128). -/
theorem extractOn_waits (hpast : s.pastRing x = false) (hfull : s.bufferFull x = true) : s.extractOn a (some x) = s.accWait a := by
  unfold State.extractOn
  dsimp only
  rw [hpast, hfull]
  rfl

end ExtractOn

/-- The space that the Seam returns is free again (R128). -/
def spaceFreed (s : State) (bytes : Nat) : State :=
  { s with trg := { s.trg with taken := s.trg.taken - min bytes s.trg.taken, used := s.trg.used - min bytes s.trg.taken } }

/-- The window of an accept does not depend on the event buffer (R122). -/
theorem spaceFreed_windowOf (s : State) (bytes : Nat) (a : Acc) : (s.spaceFreed bytes).windowOf a = s.windowOf a := by
  have hstamp (x : Int) : (s.spaceFreed bytes).stampAt x = s.stampAt x :=
    stampAt_congr (s := s) (u := s.spaceFreed bytes) rfl x
  have htile (n : Nat) (at_ : Stamp) (pre len : Nat) : (s.spaceFreed bytes).tileWindow n at_ pre len = s.tileWindow n at_ pre len := by
    simp only [State.tileWindow, hstamp]
    rfl
  simp only [State.windowOf, htile, hstamp]
  rfl

/-- The event is counted, takes its sequence and frees its reservation (R128, R130). -/
def eventTaken (s : State) (x : Extract) : State :=
  let s1 := (s.takeSeq 0x02).bump P.CLASS_EVENTS_COUNT x.acc.cls
  { s1 with trg := { s1.trg with run := none, used := s1.trg.used - x.reserved } }

/-- An event in time joins the local input, and takes its own space in the event buffer (R128, R130). -/
def eventOffered (s : State) (r : Rec) : State :=
  { s with trg := { s.trg with buf := insertBy Rec.before r s.trg.buf, used := s.trg.used + r.bytes } }

/-- The channels' windows are read as the extraction reads them (R70, R129). -/
def windowRead (s : State) (x : Extract) (window : List (Ch × List Lvl)) : State :=
  s.each x.chans fun v c => v.ringRead c (x.first.getD (c / 16) 0 : Nat) (windowData window c)

/-- The record of an extraction that reads its windows (R129, R130). -/
def windowRec (s : State) (x : Extract) (window : List (Ch × List Lvl)) : Rec :=
  s.eventRec x (x.chans.map fun c => s.chanBlock x c
    (some (s.samplesFrom c (x.first.getD (c / 16) 0 : Nat) (windowData window c))) (s.windowHits x c)) [] false x.acc.late

/-- An event stands at its accept, with the next sequence of the events (R130). -/
theorem windowRec_fields (s : State) (x : Extract) (window : List (Ch × List Lvl)) : (s.windowRec x window).type = 0x02 ∧
    (s.windowRec x window).tb = x.acc.at_.tb ∧ (s.windowRec x window).epoch = x.acc.at_.epoch ∧
    (s.windowRec x window).seq = s.seqOf 0x02 := ⟨rfl, rfl, rfl, rfl⟩

theorem windowRead_only (s : State) (x : Extract) (window : List (Ch × List Lvl)) :
    Only [.ev, .recd, .dig, .out] [0x02000104, 0x11000203, 0x11000204] s (s.windowRead x window) :=
  Only.each (fun _ _ => State.ringRead_only ..) _ Only.refl

/-- What an event counted leaves, of whichever stream it goes to (R123, R128, R130). -/
theorem eventTaken_spec (s : State) (x : Extract) :
    (s.eventTaken x).trg = { s.trg with run := none, used := s.trg.used - x.reserved } ∧
      (s.eventTaken x).get P.CLASS_EVENTS_COUNT x.acc.cls =
        satTo P.CLASS_EVENTS_COUNT.width (s.get P.CLASS_EVENTS_COUNT x.acc.cls + 1) ∧
      (s.eventTaken x).seqOf 0x02 = (s.seqOf 0x02 + 1) % 2 ^ 32 := by
  have htake : (s.takeSeq 0x02).trg = s.trg := (State.takeSeq_only ..).1 .trg (by decide)
  unfold State.eventTaken
  refine ⟨?_, ?_, ?_⟩
  · dsimp only
    rw [State.bump_trg, htake]
  · exact (State.get_bump_same _ _ _ _ (by decide)).trans
      (by rw [State.get_of_only (State.takeSeq_only ..) (by decide) _ _ _ (by decide) (by decide)])
  · rw [State.seqOf, State.bump_ctx]
    exact Tbl.get_set_same ..

end State

/-- An extraction's end counts the event, builds its record and hands it over (R123, R129, R130). -/
theorem exec_extractionEnd {s : State} {t : Tm} {window : List (Ch × List Lvl)} {x : Extract} (hp : s.pwr.por = false)
    (hrun : s.trg.run = some x) (habut : s.abut = false) (hwindow : (x.chans.all fun c => (windowData window c).length == x.len) = true)
    (hdue : x.start + x.time ≤ s.instant t) : exec (.extractionEnd t window) s =
      .next (if x.acc.late = true then (((s.clock t).windowRead x window).eventTaken x).lateEmit ((s.clock t).windowRec x window)
        else (((s.clock t).windowRead x window).eventTaken x).eventOffered ((s.clock t).windowRec x window)).accShow := by
  have hready : (decide ((s.clock t).time.now < x.start + x.time) || (s.clock t).abut ||
      !x.chans.all fun c => (windowData window c).length == x.len) = false := by
    rw [State.clock_instant, decide_eq_false (Nat.not_lt.2 hdue), State.clock_abut, habut, hwindow]
    rfl
  simp only [exec, execExtractionEnd, live_of hp, State.clock_trg, hrun]
  exact congrArg Host.Outcome.next (if_neg (by rw [hready]; decide))

/-- The first due accept is taken up with its window (R122, R123). -/
theorem exec_extractionStart {s : State} {t : Tm} {a : Acc} {rest : List Acc} {w : Option Extract} (hp : s.pwr.por = false)
    (hrun : s.trg.run = none) (haccs : s.trg.accs = a :: rest) (hdue : (s.clock t).accDue a = true) (habut : s.abut = false)
    (hw : (s.clock t).windowOf a = w) : exec (.extractionStart t) s = .next ((s.clock t).extractOn a w) := by
  simp only [exec, execExtractionStart, live_of hp, State.clock_trg, hrun, haccs, State.extractTake, hw]
  exact congrArg Host.Outcome.next (if_pos (by rw [hdue, State.clock_abut, habut]; decide))

/-- The space that returns starts an extraction that waits for it, where none runs (R128). -/
theorem exec_eventBufferSpace_resumes {s : State} {t : Tm} {bytes : Nat} {a : Acc} {rest : List Acc} {w : Option Extract}
    (hp : s.pwr.por = false) (hrun : s.trg.run = none) (haccs : s.trg.accs = a :: rest) (hwaits : a.waits = true) (habut : s.abut = false)
    (hw : (s.clock t).windowOf a = w) :
    exec (.eventBufferSpace t bytes) s = .next (((s.clock t).spaceFreed bytes).extractOn a w) := by
  have hgo : (a.waits && !((s.clock t).spaceFreed bytes).abut) = true := by
    rw [hwaits, Bool.true_and]
    exact (congrArg not habut).trans rfl
  rw [← hw, ← (s.clock t).spaceFreed_windowOf bytes a]
  simp only [exec, execEventBufferSpace, live_of hp]
  refine congrArg Host.Outcome.next ?_
  split
  · next haccs' =>
    obtain ⟨rfl, rfl⟩ := List.cons.inj (haccs.symm.trans haccs')
    exact if_pos hgo
  · next hno => exact (hno a rest hrun haccs).elim

/-- Settles O14: each start by the way the extractor takes the accept, an end by the event that it counts. -/
theorem extractionCompletes : Obligations.ExtractionCompletes := by
  unfold Obligations.ExtractionCompletes
  intro s t hp
  refine ⟨?starts, ?full, ?unmapped, ?late, ?drop, ?space, ?resumes, ?event, ?lateEvent⟩
  case starts =>
    intro a rest x hrun haccs hdue habut hw hpast hfull
    obtain ⟨htrg, hlate⟩ := State.extractOn_begins (s := s.clock t) (a := a) hpast hfull
    rw [State.clock_trg, haccs, List.erase_cons_head] at htrg
    refine ⟨_, exec_extractionStart hp hrun haccs hdue habut hw, ?_, ?_, ?_, hlate⟩ <;> rw [htrg]
  case full =>
    intro a rest x hrun haccs hdue habut hw hpast hfull
    refine ⟨_, exec_extractionStart hp hrun haccs hdue habut hw, ?_⟩
    rw [State.extractOn_waits hpast hfull]
    refine ⟨hrun, ?_, rfl⟩
    rw [State.accWait, State.clock_trg, haccs]
    exact congrArg some (if_pos rfl)
  case unmapped =>
    intro a rest hrun haccs hdue habut hw
    obtain ⟨⟨b, htrg⟩, hraised⟩ := State.extractOn_unmapped (s := s.clock t) (a := a)
    rw [State.clock_trg, haccs, List.erase_cons_head] at htrg
    refine ⟨_, exec_extractionStart hp hrun haccs hdue habut hw, ?_, ?_, hraised⟩
    · rw [htrg]
      exact hrun
    · rw [htrg]
  case late =>
    intro a rest x hrun haccs hdue habut hw hpast hwaits honline
    have htrg := State.extractOn_deck (s := s.clock t) hpast hwaits honline
    rw [State.clock_trg, haccs, List.erase_cons_head] at htrg
    refine ⟨_, exec_extractionStart hp hrun haccs hdue habut hw, ?_, ?_, ?_⟩
    · rw [htrg]
      exact hrun
    · rw [htrg]
    · rw [htrg]
  case drop =>
    intro a rest x haccs hwaits hw hpast
    obtain ⟨⟨b, htrg⟩, hraised⟩ := State.extractOn_lost (s := s.clock t) hpast hwaits
    rw [State.clock_trg, haccs, List.erase_cons_head] at htrg
    have hexec : exec (.extractionDrop t) s = .next ((s.clock t).extractOn a (some x)) := by
      simp only [exec, execExtractionDrop, live_of hp, State.clock_trg, haccs, hwaits, hw, State.extractTake]
      exact congrArg Host.Outcome.next (if_pos hpast)
    refine ⟨_, hexec, ?_, ?_, ?_, hraised⟩ <;> rw [htrg]
  case space =>
    intro bytes hidle
    have hexec : exec (.eventBufferSpace t bytes) s = .next ((s.clock t).spaceFreed bytes) := by
      simp only [exec, execEventBufferSpace, live_of hp]
      refine congrArg Host.Outcome.next ?_
      split
      · next a rest hrun haccs =>
        have hhead : s.trg.accs = a :: rest := haccs
        rw [hhead] at hidle
        exact if_neg (by simpa using fun h => absurd hidle (by simp [h]))
      · rfl
    exact ⟨_, hexec, rfl, rfl, rfl⟩
  case resumes =>
    intro bytes a rest x hrun haccs hwaits habut hw hpast hroom
    have hfull : ((s.clock t).spaceFreed bytes).bufferFull x = false := decide_eq_false (Nat.not_lt.2 hroom)
    have htrg := (State.extractOn_begins (s := (s.clock t).spaceFreed bytes) (a := a) hpast hfull).1
    have hrest : ((s.clock t).spaceFreed bytes).trg.accs.erase a = rest := by
      rw [show ((s.clock t).spaceFreed bytes).trg.accs = a :: rest from haccs, List.erase_cons_head]
    refine ⟨_, exec_eventBufferSpace_resumes hp hrun haccs hwaits habut hw, ?_, ?_, ?_⟩ <;> rw [htrg]
    · exact hrest
    · rfl
  case event =>
    intro window x hrun habut hwindow hdue hlate
    obtain ⟨htrg, hcount, hseq⟩ := ((s.clock t).windowRead x window).eventTaken_spec x
    have honly := (s.clock t).windowRead_only x window
    have hexec := exec_extractionEnd hp hrun habut hwindow hdue
    rw [hlate, if_neg Bool.false_ne_true] at hexec
    rw [honly.1 .trg (by decide), State.clock_trg] at htrg
    refine ⟨_, hexec, ?_, ?_, ?_, ?_, ?_⟩
    · rw [State.accShow_trg, State.eventOffered, htrg]
    · rw [State.get_of_only (State.accShow_only _) (by decide) _ _ _ (by decide) (by decide)]
      exact hcount.trans (by rw [State.get_of_only honly (by decide) _ _ _ (by decide) (by decide), State.clock_get])
    · rw [State.seqOf, (State.accShow_only _).1 .ctx (by decide)]
      exact hseq.trans (by rw [State.seqOf, honly.1 .ctx (by decide)]; rfl)
    · rw [State.accShow_trg, State.eventOffered, htrg]
      exact (insertBy_perm ..).length_eq
    · rw [State.accShow_trg, State.eventOffered, htrg]
      refine List.any_eq_true.2 ⟨(s.clock t).windowRec x window, (insertBy_perm ..).mem_iff.2 List.mem_cons_self, ?_⟩
      obtain ⟨htype, htb, hepoch, hseq'⟩ := (s.clock t).windowRec_fields x window
      rw [htype, htb, hepoch, hseq', beq_self_eq_true, beq_self_eq_true, beq_self_eq_true]
      exact beq_self_eq_true (s.seqOf 0x02)
  case lateEvent =>
    intro window x hrun habut hwindow hdue hlate
    obtain ⟨htrg, hcount, -⟩ := ((s.clock t).windowRead x window).eventTaken_spec x
    have honly := (s.clock t).windowRead_only x window
    have hexec := exec_extractionEnd hp hrun habut hwindow hdue
    rw [hlate, if_pos rfl] at hexec
    have htrg' : ((((s.clock t).windowRead x window).eventTaken x).lateEmit ((s.clock t).windowRec x window)).accShow.trg =
        { s.trg with run := none, used := s.trg.used - x.reserved } := by
      rw [State.accShow_trg, (State.lateEmit_only ..).1 .trg (by decide), htrg, honly.1 .trg (by decide), State.clock_trg]
    refine ⟨_, hexec, ?_, ?_, ?_, ?_⟩
    · rw [htrg']
    · rw [State.get_of_only (State.accShow_only _) (by decide) _ _ _ (by decide) (by decide),
        State.get_of_only (State.lateEmit_only ..) (by decide) _ _ _ (by decide) (by decide), hcount,
        State.get_of_only honly (by decide) _ _ _ (by decide) (by decide), State.clock_get]
    · rw [htrg']
    · rw [htrg']
end Sys2Proof.Machine

namespace Sys2Proof.Machine

open Sys2Proof

/-! ### VC0 frames come and go (R113, R255, R271) -/

namespace State

@[simp] theorem clock_portCarries (s : State) (t : Tm) (p : Nat) : (s.clock t).portCarries p = s.portCarries p := rfl
@[simp] theorem clock_rootOn (s : State) (t : Tm) : (s.clock t).rootOn = s.rootOn := rfl

/-- A frame as it arrives on a port: UNCOMP is set where its hop is not compensated (R262, R281). -/
def arrived (s : State) (p : Nat) (f : Vc0) : Vc0 :=
  { f with uncomp := f.uncomp || (s.fp p).uncomp || !s.fab.routed || decide (0xFFFF ≤ f.wait) }

theorem vc0Arrive_some {s : State} {p : Nat} {parts : Vc0Parts} {f : Vc0} (hcarries : s.portCarries p = true) (hstriped : s.striped p = false)
    (hdecode : vc0Decode parts = some f) : s.vc0Arrive p parts = (s, some (s.arrived p f)) := by
  unfold State.vc0Arrive
  rw [hcarries, hstriped, if_neg (by decide : ¬ (!true) = true), if_neg Bool.false_ne_true, hdecode]
  rfl

/-- A frame that this device takes goes on to the ports of its route all the same (R271, R273). -/
theorem vc0Forward_taken {s : State} {f : Vc0} (inPort : Option Nat) (h : (s.vc0Route f.dest f.spread).2.1 = true) :
    (s.vc0Forward f inPort).2 = true := by
  unfold State.vc0Forward
  dsimp only
  rw [h, if_neg (by simp)]

/-- A frame for one port alone leaves on it, with one hop more (R271). -/
theorem vc0Forward_passed {s : State} {f : Vc0} {p q : Nat} {sp : Bool} (h : s.vc0Route f.dest f.spread = ([p], false, sp)) :
    s.vc0Forward f (some q) = (s.vc0Send p { f with spread := sp, hops := satTo 8 (f.hops + 1) }, false) := by
  unfold State.vc0Forward
  rw [h]
  rfl

/-- On an idle port that carries traffic a frame leaves at once (R277, R281). -/
theorem vc0Send_idle {s : State} {p : Nat} (f : Vc0) (hcarries : s.portCarries p = true) (hidle : (s.fp p).vc0Busy ≤ s.time.now) :
    (s.vc0Send p f).out = .vc0 p { f with wait := satTo 16 f.wait } :: s.out := by
  have hbusy : max s.time.now (s.fp p).vc0Busy - s.time.now = 0 := Nat.sub_eq_zero_of_le (max_le le_rfl hidle)
  have hceil (n : Nat) : ceilDiv 0 n = 0 := by
    rcases Nat.eq_zero_or_pos n with rfl | hn
    · rfl
    · exact Nat.div_eq_of_lt (show 0 + n - 1 < n by omega)
  unfold State.vc0Send
  dsimp only
  rw [hcarries, if_neg (by decide : ¬ (!true) = true), hbusy, hceil, if_neg (by decide), Nat.zero_div, Nat.add_zero]
  rfl

theorem vc0Time_of_only {ps : List Part} {rs : List Nat} {s u : State} (h : Only ps rs s u) (hp : Part.time ∉ ps) (f : Vc0) :
    u.vc0Time f = s.vc0Time f := by
  rw [State.vc0Time, State.vc0Time, h.1 .time hp]

theorem rootOn_of_only {ps : List Part} {rs : List Nat} {s u : State} (h : Only ps rs s u) (hp : Part.regs ∉ ps) (hc : Part.core ∉ ps)
    (hr : P.ROOT_CFG_ROOT.pid + 0 ∉ rs) : u.rootOn = s.rootOn := by
  rw [State.rootOn, State.rootOn, State.abut, State.abut, State.flag_of_only h hp _ _ _ (by decide) hr, h.1 .core hc]

end State

section Arrive

variable {s : State} {t : Tm} {port : Port} {parts : Vc0Parts} {f : Vc0} (hp : s.pwr.por = false) (hcarries : s.portCarries port = true)
  (hstriped : s.striped port = false) (hdecode : vc0Decode parts = some f)
include hp hcarries hstriped hdecode

/-- A primitive that arrives goes on along its route, and joins the root logic's where it is for this device (R113, R115). -/
theorem exec_primitiveReceive (hkind : f.kind = 1) : exec (.primitiveReceive t port parts) s =
    .next (if ((s.clock t).vc0Forward (s.arrived port f) (some port)).2 = true then
      ((s.clock t).vc0Forward (s.arrived port f) (some port)).1.rootTake (s.arrived port f) (s.instant t - f.wait * ccSt)
        ((s.clock t).pathDelay f.origin port)
      else ((s.clock t).vc0Forward (s.arrived port f) (some port)).1) := by
  have harrive := State.vc0Arrive_some (s := s.clock t) (p := port) hcarries hstriped hdecode
  have hk : ((s.clock t).arrived port f).kind = 1 := hkind
  simp only [exec, execPrimitiveReceive, live_of hp, harrive]
  exact congrArg Host.Outcome.next (if_neg (by rw [hk]; decide))

/-- An accept for this device goes on along its route, and is checked and taken (R113, R120, R284). -/
theorem exec_acceptReceive (hkind : f.kind = 2) (hroute : (s.vc0Route f.dest f.spread).2.1 = true) (habut : s.abut = false) :
    exec (.acceptReceive t port parts) s =
      .next ((((s.clock t).vc0Forward (s.arrived port f) (some port)).1.gapCheck (s.arrived port f) port ((s.clock t).vc0Time f)).acceptTake
        (s.arrived port f) (s.instant t)) := by
  have harrive := State.vc0Arrive_some (s := s.clock t) (p := port) hcarries hstriped hdecode
  have hk : ((s.clock t).arrived port f).kind = 2 := hkind
  have htaken : ((s.clock t).vc0Forward ((s.clock t).arrived port f) (some port)).2 = true := State.vc0Forward_taken _ hroute
  simp only [exec, execAcceptReceive, live_of hp, harrive]
  refine congrArg Host.Outcome.next ((if_neg (by rw [hk]; decide)).trans (if_pos ?_))
  rw [htaken, State.clock_abut, habut]
  rfl

end Arrive

namespace State

/-! ### Accepts taken (R119, R120, R123) -/

/-- The accepts received in the last 8,192 sc (R120). -/
def stillSeen (s : State) (arrival : Tm) : List (Stamp × Nat × Tm) := s.trg.seen.filter fun x => decide (arrival ≤ x.2.2 + 8192 * scSt)

/-- An accept is noted among those received (R120). -/
def acceptSeen (s : State) (f : Vc0) (arrival : Tm) : State :=
  { s with trg := { s.trg with seen := s.stillSeen arrival ++ [(s.vc0Time f, f.group % 16, arrival)] } }

/-- An accept that is acted on: one without compensation counts, and the pulses of its class start (R117, R119). -/
def acceptNoted (s : State) (f : Vc0) (arrival : Tm) : State :=
  (if f.uncomp = true then ((s.acceptSeen f arrival).bump P.TRIG_UNCOMP_COUNT 0).raise 132 else s.acceptSeen f arrival).trigPulses
    (s.flag P.CLASS_CFG_OUT0 (f.group % 16)) (s.flag P.CLASS_CFG_OUT1 (f.group % 16)) arrival

/-- The accept that becomes outstanding (R123). -/
def accOf (s v : State) (f : Vc0) (arrival : Tm) : Acc := {
  Acc.reset with
  at_ := s.vc0Time f, cls := f.group % 16, id := f.seq, root := f.origin, uncomp := f.uncomp, ext := f.ext, arrival := arrival,
  late := (s.vc0Time f).before (v.stampAt ((arrival : Int) - v.horizon)) }

theorem acceptTake_eq (s : State) (f : Vc0) (arrival : Tm) : s.acceptTake f arrival =
    if s.abut = true then s
    else if (!s.flag P.CLASS_CFG_ENABLE (f.group % 16)) = true then s.bump P.ACCEPT_STATUS_IGNORED 0
    else if ((s.stillSeen arrival).any fun x => x.1 == s.vc0Time f && x.2.1 == f.group % 16) = true then
      ({ s with trg := { s.trg with seen := s.stillSeen arrival } } : State).bump P.ACCEPT_STATUS_DUP 0
    else if 64 ≤ (s.acceptNoted f arrival).outstanding then
      (((s.acceptNoted f arrival).localLoss 0x05 (f.group % 16) 1 (s.vc0Time f) (s.vc0Time f).tb (s.vc0Time f).tb).bump
        P.EXTRACT_STATUS_REFUSED 0).raise 128
    else ({ s.acceptNoted f arrival with trg := { (s.acceptNoted f arrival).trg with
      accs := insertBy Acc.before (s.accOf s f arrival) (s.acceptNoted f arrival).trg.accs } } : State).accShow := rfl

theorem acceptNoted_only (s : State) (f : Vc0) (arrival : Tm) :
    Only [.ev, .recd, .trg, .out] [P.TRIG_UNCOMP_COUNT.pid, 0x11000203, 0x11000204] s (s.acceptNoted f arrival) := by
  unfold acceptNoted acceptSeen
  simp (disch := decide) only [Only.refl_iff, Only.step_iff (State.trigPulses_only _ _ _ _), Only.step_iff (State.raise_only _ _),
    Only.bump_iff, Only.set_trg, Only.ite_iff, implies_true, and_self]

theorem acceptNoted_trg (s : State) (f : Vc0) (arrival : Tm) : ∃ l, (s.acceptNoted f arrival).trg =
    { s.trg with trigOut := l, seen := s.stillSeen arrival ++ [(s.vc0Time f, f.group % 16, arrival)] } := by
  unfold acceptNoted
  split
  · obtain ⟨l, hl⟩ := (((s.acceptSeen f arrival).bump P.TRIG_UNCOMP_COUNT 0).raise 132).trigPulses_trg
      (s.flag P.CLASS_CFG_OUT0 (f.group % 16)) (s.flag P.CLASS_CFG_OUT1 (f.group % 16)) arrival
    exact ⟨l, by rw [hl, raise_trg, State.bump_trg]; rfl⟩
  · obtain ⟨l, hl⟩ := (s.acceptSeen f arrival).trigPulses_trg
      (s.flag P.CLASS_CFG_OUT0 (f.group % 16)) (s.flag P.CLASS_CFG_OUT1 (f.group % 16)) arrival
    exact ⟨l, hl⟩

/-- What an accept taken may change of the trigger: pulses, the accepts received and outstanding, and the local input (R119, R120, R123). -/
theorem acceptTake_trg (s : State) (f : Vc0) (arrival : Tm) : ∃ l seen accs b, (s.acceptTake f arrival).trg =
    { s.trg with trigOut := l, seen := seen, accs := accs, buf := b } := by
  obtain ⟨l, hl⟩ := s.acceptNoted_trg f arrival
  rw [acceptTake_eq]
  split
  · exact ⟨_, _, _, _, rfl⟩
  split
  · exact ⟨_, _, _, _, State.bump_trg ..⟩
  split
  · exact ⟨_, _, _, _, State.bump_trg ..⟩
  split
  · obtain ⟨b, hb⟩ := (s.acceptNoted f arrival).localLoss_trg 0x05 (f.group % 16) 1 (s.vc0Time f) (s.vc0Time f).tb (s.vc0Time f).tb
    exact ⟨l, _, _, b, by rw [raise_trg, State.bump_trg, hb, hl]⟩
  · exact ⟨l, _, _, _, by rw [accShow_trg, hl]⟩

section Take

variable {s : State} {f : Vc0} {arrival : Tm} (habut : s.abut = false)
include habut

/-- One of a disabled class is counted only (R120). -/
theorem acceptTake_disabled (hoff : s.flag P.CLASS_CFG_ENABLE (f.group % 16) = false) :
    s.acceptTake f arrival = s.bump P.ACCEPT_STATUS_IGNORED 0 := by
  rw [acceptTake_eq, habut, hoff]
  rfl

variable (hon : s.flag P.CLASS_CFG_ENABLE (f.group % 16) = true)
include hon

/-- A duplicate is counted only (R120). -/
theorem acceptTake_repeated (hseen : ((s.stillSeen arrival).any fun x => x.1 == s.vc0Time f && x.2.1 == f.group % 16) = true) :
    s.acceptTake f arrival = ({ s with trg := { s.trg with seen := s.stillSeen arrival } } : State).bump P.ACCEPT_STATUS_DUP 0 := by
  rw [acceptTake_eq, habut, hon, if_neg Bool.false_ne_true, if_neg (by decide), if_pos hseen]

/-- Any other becomes outstanding, while fewer than 64 are (R123). -/
theorem acceptTake_joins (hseen : ((s.stillSeen arrival).any fun x => x.1 == s.vc0Time f && x.2.1 == f.group % 16) = false)
    (hroom : s.outstanding < 64) :
    (s.acceptTake f arrival).trg.accs = insertBy Acc.before (s.accOf s f arrival) s.trg.accs ∧
      Only [.ev, .recd, .trg, .out] [0x04000308, 0x0400030A, 0x11000203, 0x11000204] s (s.acceptTake f arrival) := by
  obtain ⟨l, hl⟩ := s.acceptNoted_trg f arrival
  have hout : (s.acceptNoted f arrival).outstanding = s.outstanding := by
    rw [State.outstanding, hl]
    rfl
  rw [acceptTake_eq, habut, hon, if_neg Bool.false_ne_true, if_neg (by decide), hseen, if_neg Bool.false_ne_true, hout,
    if_neg (Nat.not_le.2 hroom), accShow_trg, hl]
  refine ⟨rfl, ?_⟩
  exact (((State.acceptNoted_only ..).mono (by decide) (by decide)).trans ((Only.set_trg (by decide)).2 Only.refl)).trans
    ((State.accShow_only _).mono (by decide) (by decide))

end Take
/-- An accept taken sets no latch bit back. -/
theorem acceptTake_latched (s : State) (f : Vc0) (arrival : Tm) : Latched s.ev (s.acceptTake f arrival).ev := by
  have hnoted : Latched s.ev (s.acceptNoted f arrival).ev := by
    unfold acceptNoted
    rw [(State.trigPulses_only ..).1 .ev (by decide)]
    split
    · refine Latched.trans ?_ (State.raise_latched _ 132)
      rw [State.bump_ev]
      exact .refl _
    · exact .refl _
  rw [acceptTake_eq]
  split
  · exact .refl _
  split
  · rw [State.bump_ev]; exact .refl _
  split
  · rw [State.bump_ev]; exact .refl _
  split
  · refine hnoted.trans (Latched.trans ?_ (State.raise_latched _ 128))
    rw [State.bump_ev, (State.localLoss_only ..).1 .ev (by decide)]
    exact .refl _
  · rw [(State.accShow_only _).1 .ev (by decide)]
    exact hnoted

/-! ### Accepts emitted and class windows (R116, R118) -/

/-- The frame of an accept that the device emits (R116). -/
def acceptFrame (s : State) (cls : Nat) (at_ : Stamp) (uncomp nohit ext coarse : Bool) (mult : Nat) : Vc0 := {
  kind := 2, uncomp := uncomp || s.uncomp != 0, nohit := nohit, ext := ext, coarse := coarse, group := cls % 16,
  origin := s.origin, epoch := at_.epoch, timeNs := tbNs at_.tb % 2 ^ 48, stitch := tbStitch at_.tb, mult := min 15 mult,
  seq := s.trg.acceptId, dest := s.acceptDest, wait := 0, hops := 0, spread := false }

theorem acceptEmit_eq (s : State) (cls : Nat) (at_ : Stamp) (uncomp nohit ext coarse : Bool) (mult : Nat) (due : Tm) :
    s.acceptEmit cls at_ uncomp nohit ext coarse mult due = if s.abut = true then s else
      (((({ s with trg := { s.trg with acceptId := (s.trg.acceptId + 1) % 65536 } } : State).vc0Forward
        (s.acceptFrame cls at_ uncomp nohit ext coarse mult) none).1.trigPulses (s.flag P.CLASS_CFG_OUT0 cls) (s.flag P.CLASS_CFG_OUT1 cls)
          due).acceptTake (s.acceptFrame cls at_ uncomp nohit ext coarse mult) due) := rfl

/-- What an accept emitted may change of the trigger (R116, R118). -/
theorem acceptEmit_trg (s : State) (cls : Nat) (at_ : Stamp) (uncomp nohit ext coarse : Bool) (mult : Nat) (due : Tm) :
    ∃ id l seen accs b, (s.acceptEmit cls at_ uncomp nohit ext coarse mult due).trg =
      { s.trg with acceptId := id, trigOut := l, seen := seen, accs := accs, buf := b } := by
  rw [acceptEmit_eq]
  split
  · exact ⟨_, _, _, _, _, rfl⟩
  · obtain ⟨l, hl⟩ := (({ s with trg := { s.trg with acceptId := (s.trg.acceptId + 1) % 65536 } } : State).vc0Forward
      (s.acceptFrame cls at_ uncomp nohit ext coarse mult) none).1.trigPulses_trg (s.flag P.CLASS_CFG_OUT0 cls)
      (s.flag P.CLASS_CFG_OUT1 cls) due
    obtain ⟨l', seen, accs, b, h⟩ := acceptTake_trg _ (s.acceptFrame cls at_ uncomp nohit ext coarse mult) due
    exact ⟨_, _, _, _, _, by rw [h, hl, (State.vc0Forward_only ..).1 .trg (by decide)]⟩

@[simp] theorem clock_rootWin (s : State) (t : Tm) (k : Nat) : (s.clock t).rootWin k = s.rootWin k := rfl

theorem setRootWin_same (s : State) (k : Nat) (w : Option RootWin) : (s.setRootWin k w).rootWin k = w := Tbl.get_set_same ..

theorem setRootWin_ne (s : State) {k j : Nat} (h : j ≠ k) (w : Option RootWin) : (s.setRootWin k w).rootWin j = s.rootWin j :=
  Tbl.get_set_ne _ _ _ _ h

theorem acceptEmit_keeps (s : State) (cls : Nat) (at_ : Stamp) (uncomp nohit ext coarse : Bool) (mult : Nat) (due : Tm) (j : Nat) :
    (s.acceptEmit cls at_ uncomp nohit ext coarse mult due).rootWin j = s.rootWin j ∧
      (s.acceptEmit cls at_ uncomp nohit ext coarse mult due).trg.prims = s.trg.prims ∧
      (s.acceptEmit cls at_ uncomp nohit ext coarse mult due).trg.lastIn = s.trg.lastIn := by
  obtain ⟨id, l, seen, accs, b, h⟩ := s.acceptEmit_trg cls at_ uncomp nohit ext coarse mult due
  rw [State.rootWin, h]
  exact ⟨rfl, rfl, rfl⟩

theorem rootClose_none {s : State} {k : Nat} (h : s.rootWin k = none) : s.rootClose k = s := by
  rw [State.rootClose, h]

/-- A class window past its close gives an accept or not (R116). -/
theorem rootClose_due {s : State} {k : Nat} {w : RootWin} (hw : s.rootWin k = some w) (hc : w.close ≤ s.time.now) : s.rootClose k =
    if (s.rootOn && decide (w.n ≤ w.origins.length)) = true then
      (s.setRootWin k none).acceptEmit k w.at_ (bitOf w.flags 0) (bitOf w.flags 1) (bitOf w.flags 2) (bitOf w.flags 3) w.origins.length
        (w.close + 4 * ccSt)
    else s.setRootWin k none := by
  rw [State.rootClose, hw]
  exact if_neg (Nat.not_lt.2 hc)

theorem rootClose_cleared {s : State} {k : Nat} {w : RootWin} (hw : s.rootWin k = some w) (hc : w.close ≤ s.time.now) :
    (s.rootClose k).rootWin k = none := by
  rw [rootClose_due hw hc]
  split
  · rw [(acceptEmit_keeps ..).1, setRootWin_same]
  · exact setRootWin_same ..

/-- A class window that closes leaves the other classes' windows and the primitives held (R116). -/
theorem rootClose_keeps (s : State) (k : Nat) : (s.rootClose k).trg.prims = s.trg.prims ∧
    ∀ j, j ≠ k → (s.rootClose k).rootWin j = s.rootWin j := by
  unfold State.rootClose
  split
  · exact ⟨rfl, fun _ _ => rfl⟩
  · split
    · exact ⟨rfl, fun _ _ => rfl⟩
    · dsimp only
      split
      · exact ⟨(acceptEmit_keeps _ _ _ _ _ _ _ _ _ 0).2.1, fun j h => ((acceptEmit_keeps ..).1).trans (setRootWin_ne s h _)⟩
      · exact ⟨rfl, fun j h => setRootWin_ne s h _⟩

/-- The window that a primitive opens at a class (R116). -/
def rootOpened (s : State) (p : Prim) (k : Nat) : RootWin :=
  ⟨p.eq + s.get P.ROOT_CFG_WIN 0 * ccSt, s.get P.ROOT_N_N k, s.rootGroups k, [p.frame.origin], p.at_, vc0Flags p.frame⟩

/-- A class that a primitive opens a window at (R116). -/
def rootOpens (s : State) (p : Prim) (k : Nat) : Bool := s.flag P.CLASS_CFG_ENABLE k && (s.rootGroups k).testBit (p.frame.group % 64)

theorem rootJoin_opens {s : State} {p : Prim} {k : Nat} (hw : s.rootWin k = none) (ho : s.rootOpens p k = true) :
    (s.rootJoin p k).rootWin k = some (s.rootOpened p k) := by
  unfold State.rootJoin
  dsimp only
  rw [rootClose_none hw, hw]
  exact (congrArg (State.rootWin · k) (if_pos ho)).trans (setRootWin_same ..)

theorem rootJoin_keeps (s : State) (p : Prim) (k : Nat) : (s.rootJoin p k).trg.prims = s.trg.prims ∧
    ∀ j, j ≠ k → (s.rootJoin p k).rootWin j = s.rootWin j := by
  obtain ⟨hprims, hwin⟩ := s.rootClose_keeps k
  unfold State.rootJoin
  dsimp only
  split
  · split
    · exact ⟨hprims, fun j h => (setRootWin_ne _ h _).trans (hwin j h)⟩
    · exact ⟨hprims, hwin⟩
  · split
    · exact ⟨hprims, fun j h => (setRootWin_ne _ h _).trans (hwin j h)⟩
    · exact ⟨hprims, hwin⟩
/-! ### The accept ids seen of each root (R284) -/

theorem baseline_of_only {ps : List Part} {rs : List Nat} {s u : State} (h : Only ps rs s u) (hp : Part.fab ∉ ps) :
    u.fab.baseline = s.fab.baseline := by rw [h.1 .fab hp]

theorem foldl_baseline {α : Type} {f : State → α → State} (hf : ∀ v a, (f v a).fab.baseline = v.fab.baseline) (l : List α) (s : State) :
    (l.foldl f s).fab.baseline = s.fab.baseline := by
  induction l generalizing s with
  | nil => rfl
  | cons a l ih => exact (ih _).trans (hf s a)

theorem modFp_baseline (s : State) (p : Nat) (f : FabPort → FabPort) : (s.modFp p f).fab.baseline = s.fab.baseline := rfl

theorem vc0Send_baseline (s : State) (p : Nat) (f : Vc0) : (s.vc0Send p f).fab.baseline = s.fab.baseline := by
  unfold State.vc0Send
  split
  · rw [State.bump_fab]
  · dsimp only
    split
    · rw [baseline_of_only (State.raise_only ..) (by decide), State.bump_fab]
    · rw [State.emit_fab, modFp_baseline]

theorem vc0Forward_baseline (s : State) (f : Vc0) (inPort : Option Nat) : (s.vc0Forward f inPort).1.fab.baseline = s.fab.baseline := by
  have hsent (g : Vc0) (l : List Nat) : (l.foldl (fun v p => v.vc0Send p g) s).fab.baseline = s.fab.baseline :=
    foldl_baseline (fun v p => v.vc0Send_baseline p g) l s
  unfold State.vc0Forward
  dsimp only
  split
  · cases inPort <;> dsimp only <;> split
    · exact hsent ..
    · exact (baseline_of_only (State.raise_only ..) (by decide)).trans (hsent ..)
    · rw [State.bump_fab]
      exact hsent ..
    · rw [baseline_of_only (State.raise_only ..) (by decide), State.bump_fab]
      exact hsent ..
  · exact hsent ..

theorem frameLeft_baseline (s : State) (f : Frame) : (s.frameLeft f).fab.baseline = s.fab.baseline := by
  unfold State.frameLeft State.creditBack
  split
  · rfl
  · split <;> rfl

theorem frameSend_baseline (s : State) (p : Nat) (f : Frame) : (s.frameSend p f).fab.baseline = s.fab.baseline := by
  unfold State.frameSend
  dsimp only
  rw [State.emit_fab, (State.showCredit_only ..).1 .fab (by decide), State.bump_fab, modFp_baseline, frameLeft_baseline]

theorem fabPump_baseline (s : State) (p n : Nat) : (s.fabPump p n).fab.baseline = s.fab.baseline := by
  induction n generalizing s with
  | zero => rfl
  | succ n ih =>
    unfold State.fabPump
    split
    · rfl
    · split
      · rfl
      · rw [ih, frameSend_baseline, modFp_baseline]

theorem fabSend_baseline (s : State) (p vc kind stream dest ctx : Nat) (bytes : List Byte) :
    (s.fabSend p vc kind stream dest ctx bytes).fab.baseline = s.fab.baseline := by
  unfold State.fabSend State.fabQueue
  dsimp only
  rw [fabPump_baseline, modFp_baseline]

theorem upPump_baseline (s : State) (n : Nat) : (s.upPump n).fab.baseline = s.fab.baseline := by
  induction n generalizing s with
  | zero => rfl
  | succ n ih =>
    unfold State.upPump
    dsimp only
    split
    · rfl
    · split
      · rfl
      · rw [ih, fabSend_baseline]
        split <;> rfl

theorem lateFlush_baseline (s : State) (n : Nat) : (s.lateFlush n).fab.baseline = s.fab.baseline := by
  induction n generalizing s with
  | zero => rfl
  | succ n ih =>
    unfold State.lateFlush
    split
    · rfl
    · split
      · rw [ih, State.egressWrite, baseline_of_only (State.egressTrim_only _) (by decide), upPump_baseline]
      · rfl

theorem localLoss_baseline (s : State) (cause unit count : Nat) (key : Stamp) (first last : Tm) :
    (s.localLoss cause unit count key first last).fab.baseline = s.fab.baseline := by
  unfold State.localLoss
  dsimp only
  split
  · rw [State.lateEmit, lateFlush_baseline, baseline_of_only (State.takeSeq_only ..) (by decide)]
  · show (s.takeSeq 0x06).fab.baseline = _
    exact baseline_of_only (State.takeSeq_only s 0x06) (by decide)

/-- An accept taken leaves the ids that the gap check compares with (R284). -/
theorem acceptTake_baseline (s : State) (f : Vc0) (arrival : Tm) : (s.acceptTake f arrival).fab.baseline = s.fab.baseline := by
  rw [acceptTake_eq]
  split
  · rfl
  split
  · rw [State.bump_fab]
  split
  · rw [State.bump_fab]
  split
  · rw [baseline_of_only (State.raise_only ..) (by decide), State.bump_fab, localLoss_baseline,
      baseline_of_only (acceptNoted_only ..) (by decide)]
  · rw [baseline_of_only (State.accShow_only _) (by decide)]
    show (s.acceptNoted f arrival).fab.baseline = _
    exact baseline_of_only (acceptNoted_only s f arrival) (by decide)

/-- The first accept of a root sets its baseline (R284). -/
theorem gapCheck_first {s : State} {f : Vc0} (port : Nat) (at_ : Stamp) (h : Tbl.get none s.fab.baseline f.origin = none) :
    Tbl.get none (s.gapCheck f port at_).fab.baseline f.origin = some (f.seq, at_.tb) := by
  unfold State.gapCheck
  rw [h]
  exact Tbl.get_set_same none (some (f.seq, at_.tb)) s.fab.baseline f.origin

/-- A gap in the ids counts with source 36 and moves the baseline on (R284). -/
theorem gapCheck_gap {s : State} {f : Vc0} (port : Nat) (at_ : Stamp) {last : Nat} {lastTb : Tm}
    (h : Tbl.get none s.fab.baseline f.origin = some (last, lastTb)) (hlow : 1 < (f.seq + 65536 - last % 65536) % 65536)
    (hhigh : (f.seq + 65536 - last % 65536) % 65536 < 0x8000) :
    Tbl.get none (s.gapCheck f port at_).fab.baseline f.origin = some (f.seq, at_.tb) ∧ Raised 36 (s.gapCheck f port at_) ∧
      (s.gapCheck f port at_).get P.FAB_ACCEPT_GAP_MISSED 0 =
        satTo P.FAB_ACCEPT_GAP_MISSED.width (s.get P.FAB_ACCEPT_GAP_MISSED 0 + ((f.seq + 65536 - last % 65536) % 65536 - 1)) := by
  unfold State.gapCheck
  rw [h]
  dsimp only
  rw [if_neg (by omega), if_neg (by omega)]
  refine ⟨?_, State.raise_raised _ (by decide), ?_⟩
  · rw [baseline_of_only (State.raise_only ..) (by decide), State.bump_fab, localLoss_baseline]
    exact Tbl.get_set_same none (some (f.seq, at_.tb)) s.fab.baseline f.origin
  · rw [State.get_of_only (State.raise_only ..) (by decide) _ _ _ (by decide) (by decide), State.get_bump_same _ _ _ _ (by decide),
      State.get_of_only (State.localLoss_only ..) (by decide) _ _ _ (by decide) (by decide)]
    rfl

/-- The gap check leaves the accepts received and outstanding (R284). -/
theorem gapCheck_trg (s : State) (f : Vc0) (port : Nat) (at_ : Stamp) : ∃ b, (s.gapCheck f port at_).trg = { s.trg with buf := b } := by
  unfold State.gapCheck
  split
  · exact ⟨_, rfl⟩
  · dsimp only
    split
    · exact ⟨_, rfl⟩
    split
    · exact ⟨_, rfl⟩
    · rw [raise_trg, State.bump_trg]
      exact localLoss_trg ..

end State
end Sys2Proof.Machine

namespace Sys2Proof.Machine

open Sys2Proof

theorem raised_of_latched {s u : State} {n : Nat} (h : Latched s.ev u.ev) (hs : Raised n s) : Raised n u := by
  obtain ⟨hhost, hfw, hrecd⟩ := h n
  exact ⟨hhost hs.1, hfw hs.2.1, hrecd hs.2.2⟩

namespace State

/-! ### Accepts received (R120, R284) -/

/-- The device with an accept received, gone on along its route and checked for a gap, before it is taken (R271, R284). -/
def acceptChecked (s : State) (t : Tm) (port : Nat) (f : Vc0) : State :=
  ((s.clock t).vc0Forward (s.arrived port f) (some port)).1.gapCheck (s.arrived port f) port ((s.clock t).vc0Time f)

section Checked

variable (s : State) (t : Tm) (port : Nat) (f : Vc0)

theorem acceptChecked_only : Only [.ev, .recd, .trg, .seam, .ctx, .fab, .out]
    [0x08000201, 0x08000202, 0x0A000005, 0x0A000006, 0x0A000008, 0x0A000207, 0x11000203, 0x11000204] (s.clock t)
    (s.acceptChecked t port f) :=
  ((State.vc0Forward_only (s.clock t) (s.arrived port f) (some port)).mono (by decide) (by decide)).trans
    ((State.gapCheck_only ..).mono (by decide) (by decide))

theorem acceptChecked_trg : ∃ b, (s.acceptChecked t port f).trg = { s.trg with buf := b } := by
  obtain ⟨b, hb⟩ := ((s.clock t).vc0Forward (s.arrived port f) (some port)).1.gapCheck_trg (s.arrived port f) port ((s.clock t).vc0Time f)
  exact ⟨b, hb.trans (by rw [(State.vc0Forward_only ..).1 .trg (by decide)]; rfl)⟩

theorem acceptChecked_abut : (s.acceptChecked t port f).abut = s.abut := by
  rw [State.abut, (acceptChecked_only s t port f).1 .core (by decide)]
  rfl

theorem acceptChecked_vc0Time : (s.acceptChecked t port f).vc0Time (s.arrived port f) = (s.clock t).vc0Time f :=
  vc0Time_of_only (acceptChecked_only s t port f) (by decide) _

theorem acceptChecked_enable (k : Nat) : (s.acceptChecked t port f).flag P.CLASS_CFG_ENABLE k = s.flag P.CLASS_CFG_ENABLE k :=
  State.flag_of_only (acceptChecked_only s t port f) (by decide) _ _ _ (by decide) (by decide)

theorem acceptChecked_stillSeen (arrival : Tm) : (s.acceptChecked t port f).stillSeen arrival = s.stillSeen arrival := by
  obtain ⟨b, hb⟩ := s.acceptChecked_trg t port f
  rw [stillSeen, hb]
  rfl

theorem forwarded_baseline : ((s.clock t).vc0Forward (s.arrived port f) (some port)).1.fab.baseline = s.fab.baseline :=
  vc0Forward_baseline ..

end Checked

/-! ### Class windows (R116) -/

/-- What a step of the root logic may change (R116). -/
def RootOnly (s u : State) : Prop := Only [.ev, .recd, .trg, .seam, .ctx, .fab, .out]
  [0x04000308, 0x04000309, 0x0400030A, 0x08000201, 0x08000202, 0x0A000005, 0x0A000006, 0x0A000008, 0x11000203, 0x11000204] s u

theorem abut_of_rootOn {s : State} (h : s.rootOn = true) : s.abut = false := by
  rw [State.rootOn, Bool.and_eq_true, Bool.not_eq_true'] at h
  exact h.2

namespace RootOnly

variable {s u : State} (h : RootOnly s u)
include h

theorem rootOn : u.rootOn = s.rootOn := rootOn_of_only h (by decide) (by decide) (by decide)

theorem time : u.time = s.time := h.1 .time (by decide)

theorem rootGroups (k : Nat) : u.rootGroups k = s.rootGroups k := by
  rw [State.rootGroups, State.rootGroups, State.get_of_only h (by decide) P.ROOT_GROUPS_LO_GROUPS _ _ (by decide) (by decide),
    State.get_of_only h (by decide) P.ROOT_GROUPS_HI_GROUPS _ _ (by decide) (by decide)]

theorem rootOpens (p : Prim) (k : Nat) : u.rootOpens p k = s.rootOpens p k := by
  rw [State.rootOpens, State.rootOpens, State.flag_of_only h (by decide) _ _ _ (by decide) (by decide), RootOnly.rootGroups h]

theorem rootOpened (p : Prim) (k : Nat) : u.rootOpened p k = s.rootOpened p k := by
  rw [State.rootOpened, State.rootOpened, RootOnly.rootGroups h,
    State.get_of_only h (by decide) P.ROOT_CFG_WIN _ _ (by decide) (by decide),
    State.get_of_only h (by decide) P.ROOT_N_N _ _ (by decide) (by decide)]

end RootOnly

/-- The class windows that close before a primitive's own time leave the primitives held (R116). -/
theorem rootCloses_prims (s : State) (l : List Nat) : (s.each l State.rootClose).trg.prims = s.trg.prims :=
  each_keeps_mem (Q := fun u => u.trg.prims = s.trg.prims) l (fun u j _ h => ((u.rootClose_keeps j).1).trans h) rfl

theorem rootCloses_none {s : State} {k : Nat} (h : s.rootWin k = none) (l : List Nat) : (s.each l State.rootClose).rootWin k = none := by
  refine each_keeps_mem (Q := fun u => u.rootWin k = none) l (fun u j _ hu => ?_) h
  by_cases hj : k = j
  · rwa [← hj, rootClose_none hu]
  · exact ((u.rootClose_keeps j).2 k hj).trans hu

theorem rootJoins_prims (s : State) (p : Prim) (l : List Nat) : (s.each l fun v k => v.rootJoin p k).trg.prims = s.trg.prims :=
  each_keeps_mem (Q := fun u => u.trg.prims = s.trg.prims) l (fun u j _ h => ((u.rootJoin_keeps p j).1).trans h) rfl

/-- A primitive opens the window of each enabled class that masks its group and has none open (R116). -/
theorem rootJoins_opens {s : State} {p : Prim} {k : Fin 16} (hw : s.rootWin k = none) (ho : s.rootOpens p k = true) :
    (s.each (upTo 16) fun v j => v.rootJoin p j).rootWin k = some (s.rootOpened p k) := by
  refine each_once (k := k.val) (P := fun u => RootOnly s u ∧ u.rootWin k = none) (Q := fun u => u.rootWin k = some (s.rootOpened p k))
    (fun u j hj hu => ?_) (fun u hu => ?_) (fun u j hj hu => ?_) List.nodup_range (List.mem_range.2 k.isLt) ⟨Only.refl, hw⟩
  · exact ⟨hu.1.trans (State.rootJoin_only u p j), ((u.rootJoin_keeps p j).2 k hj.symm).trans hu.2⟩
  · rw [rootJoin_opens hu.2 (by rw [hu.1.rootOpens]; exact ho), hu.1.rootOpened]
  · exact ((u.rootJoin_keeps p j).2 k hj.symm).trans hu

/-- The windows that close together: each of them is open no more (R116). -/
theorem rootCloses_cleared {s : State} {k : Fin 16} {w : RootWin} (hw : s.rootWin k = some w) (hc : w.close ≤ s.time.now) :
    (s.each (s.rootDue w.close) State.rootClose).rootWin k = none := by
  refine each_once (k := k.val) (P := fun u => u.time = s.time ∧ u.rootWin k = some w) (Q := fun u => u.rootWin k = none)
    (fun u j hj hu => ?_) (fun u hu => ?_) (fun u j hj hu => ?_) (rootDue_nodup ..) (mem_rootDue hw hc) ⟨rfl, hw⟩
  · exact ⟨((State.rootClose_only u j).1 .time (by decide)).trans hu.1, ((u.rootClose_keeps j).2 k hj.symm).trans hu.2⟩
  · exact rootClose_cleared hu.2 (by rw [hu.1]; exact hc)
  · exact ((u.rootClose_keeps j).2 k hj.symm).trans hu

/-- The device with a primitive held no more (R115). -/
def primErased (s : State) (p : Prim) : State := { s with trg := { s.trg with prims := s.trg.prims.erase p } }

/-- The device with a primitive at its t_eq worked on (R115, R116). -/
def primTaken (s : State) (p : Prim) : State :=
  ((s.each (s.rootDue p.eq) State.rootClose).primErased p).each (upTo 16) fun v k => v.rootJoin p k

theorem primTaken_opens {s : State} {p : Prim} {k : Fin 16} (hw : s.rootWin k = none) (ho : s.rootOpens p k = true) :
    (s.primTaken p).rootWin k = some (s.rootOpened p k) := by
  have hclosed : RootOnly s ((s.each (s.rootDue p.eq) State.rootClose).primErased p) :=
    (Only.set_trg (by decide)).2 (Only.each (fun v j => State.rootClose_only v j) _ Only.refl)
  have hnone : ((s.each (s.rootDue p.eq) State.rootClose).primErased p).rootWin k = none := rootCloses_none hw (s.rootDue p.eq)
  rw [primTaken, rootJoins_opens hnone (by rw [hclosed.rootOpens]; exact ho), hclosed.rootOpened]

/-! ### Edges at the TRIG_IN pins (R118) -/

/-- Whether an input is on (R118). -/
def trigInOn (s : State) (pin : Fin 2) : Bool := if pin = 0 then s.flag P.TRIG_IN_CFG_EN0 0 else s.flag P.TRIG_IN_CFG_EN1 0

/-- An input's polarity (R118). -/
def trigInPol (s : State) (pin : Fin 2) : Bool := if pin = 0 then s.flag P.TRIG_IN_CFG_POL0 0 else s.flag P.TRIG_IN_CFG_POL1 0

/-- Whether an edge comes less than 100 ns after one that formed an accept (R118). -/
def trigInSoon (s : State) (pin : Fin 2) : Bool :=
  match Tbl.get none s.trg.lastIn pin with | some l => decide (s.time.now < l + 100 * nsSt) | none => false

/-- The device with an edge at an input that forms an accept noted (R118). -/
def trigInNoted (s : State) (pin : Fin 2) (code : Nat) : State :=
  { (s.pinEdge (268 + pin) code).1 with
    trg := { (s.pinEdge (268 + pin) code).1.trg with
      lastIn := Tbl.set none (s.pinEdge (268 + pin) code).1.trg.lastIn pin (some s.time.now) } }

/-- The accept of an edge at an input (R118). -/
def trigInAccept (s : State) (pin : Fin 2) (code : Nat) : State :=
  (s.trigInNoted pin code).acceptEmit (if pin = 0 then s.get P.TRIG_IN_CFG_CLASS0 0 else s.get P.TRIG_IN_CFG_CLASS1 0)
    (s.stampAt ((s.pinEdge (268 + pin) code).2.getD ((edge1 s.time.now : Int) - 512 - Config.pinFused (268 + pin)) -
      (if pin = 0 then s.int P.TRIG_IN_DELAY0_DELAY 0 else s.int P.TRIG_IN_DELAY1_DELAY 0))) false false true false 0
    (s.time.now + 6 * ccSt)

theorem setPulses_pulsesOf (s : State) (x : Nat) (l : List (Tm × Tm)) : (s.setPulses x l).pulsesOf x = l := Tbl.get_set_same ..

theorem trigInNoted_lastIn (s : State) (pin : Fin 2) (code : Nat) :
    Tbl.get none (s.trigInNoted pin code).trg.lastIn pin = some s.time.now :=
  Tbl.get_set_same none (some s.time.now) s.trg.lastIn pin

end State

/-- A primitive at its t_eq is worked on, where the root logic runs (R115, R116). -/
theorem exec_primitiveEqualised {s : State} {t : Tm} {origin seq : Nat} {p : Prim} (hp : s.pwr.por = false)
    (hfind : s.trg.prims.find? (fun y => y.frame.origin == origin && y.frame.seq == seq && decide (y.eq ≤ s.instant t)) = some p)
    (hroot : s.rootOn = true) : exec (.primitiveEqualised t origin seq) s = .next ((s.clock t).primTaken p) := by
  have hfind' : (s.clock t).trg.prims.find?
      (fun y => y.frame.origin == origin && y.frame.seq == seq && decide (y.eq ≤ (s.clock t).time.now)) = some p := hfind
  simp only [exec, execPrimitiveEqualised, live_of hp, hfind']
  exact congrArg Host.Outcome.next (if_pos hroot)

/-- A TRIG_OUT pulse that ends gives way to the next one of its pin (R119). -/
theorem exec_trigOutPulseEnd {s : State} {t : Tm} {pin : Fin 2} {b e : Tm} {rest : List (Tm × Tm)} (hp : s.pwr.por = false)
    (hpulses : s.pulsesOf pin = (b, e) :: rest) (hend : e ≤ s.instant t) : exec (.trigOutPulseEnd t pin) s =
      .next (if rest.isEmpty then ((s.clock t).setPulses pin rest).drive (.trigOut pin) false
        else (((s.clock t).setPulses pin rest).drive (.trigOut pin) false).drive (.trigOut pin) true) := by
  have hpulses' : (s.clock t).pulsesOf pin = (b, e) :: rest := hpulses
  simp only [exec, execTrigOutPulseEnd, live_of hp, hpulses']
  exact congrArg Host.Outcome.next (if_pos hend)

/-- The windows that close with a class's (R116). -/
theorem exec_rootWindowClose {s : State} {t : Tm} {cls : Fin 16} {w : RootWin} (hp : s.pwr.por = false) (hw : s.rootWin cls = some w) :
    exec (.rootWindowClose t cls) s = .next ((s.clock t).each ((s.clock t).rootDue w.close) State.rootClose) := by
  simp only [exec, execRootWindowClose, live_of hp, State.clock_rootWin, hw]

/-- What an edge at an input does (R118). -/
theorem exec_trigInEdge {s : State} {t : Tm} (pin : Fin 2) (rising : Bool) (code : BitVec 12) (hp : s.pwr.por = false) :
    exec (.trigInEdge t pin ⟨rising, code⟩) s = .next (
      if rising == s.trigInPol pin then s.clock t
      else if !s.trigInOn pin || s.abut then ((s.clock t).pinEdge (268 + pin) code.toNat).1
      else if (s.clock t).trigInSoon pin then
        (((s.clock t).pinEdge (268 + pin) code.toNat).1.bump P.ACCEPT_STATUS_IGNORED 0).raise 133
      else (s.clock t).trigInAccept pin code.toNat) := by
  simp only [exec, execTrigInEdge, live_of hp]
  rfl

theorem trigInEdge_forms {s : State} {t : Tm} {pin : Fin 2} {rising : Bool} (code : BitVec 12) (hp : s.pwr.por = false)
    (hon : s.trigInOn pin = true) (hpol : rising = !s.trigInPol pin) (habut : s.abut = false)
    (hlast : (s.clock t).trigInSoon pin = false) :
    exec (.trigInEdge t pin ⟨rising, code⟩) s = .next ((s.clock t).trigInAccept pin code.toNat) := by
  rw [exec_trigInEdge pin rising code hp, hpol, hon, habut, hlast]
  cases s.trigInPol pin <;> rfl

theorem trigInEdge_early {s : State} {t : Tm} {pin : Fin 2} {rising : Bool} (code : BitVec 12) (hp : s.pwr.por = false)
    (hon : s.trigInOn pin = true) (hpol : rising = !s.trigInPol pin) (habut : s.abut = false)
    (hlast : (s.clock t).trigInSoon pin = true) :
    exec (.trigInEdge t pin ⟨rising, code⟩) s =
      .next ((((s.clock t).pinEdge (268 + pin) code.toNat).1.bump P.ACCEPT_STATUS_IGNORED 0).raise 133) := by
  rw [exec_trigInEdge pin rising code hp, hpol, hon, habut, hlast]
  cases s.trigInPol pin <;> rfl

/-- At an input that is off an edge reaches the interpolator alone (R118). -/
theorem trigInEdge_off {s : State} {t : Tm} {pin : Fin 2} (rising : Bool) (code : BitVec 12) (hp : s.pwr.por = false)
    (hoff : s.trigInOn pin = false) : ∃ u, exec (.trigInEdge t pin ⟨rising, code⟩) s = .next u ∧ Only [.tdc] [] (s.clock t) u := by
  rw [exec_trigInEdge pin rising code hp, hoff]
  refine ⟨_, rfl, ?_⟩
  split
  · exact Only.refl
  · exact State.pinEdge_only ..

/-- Settles O13: each command is brought to a step of the root logic, of the route or of the accepts received, whose effect a lemma
above names. -/
theorem triggerRootCompletes : Obligations.TriggerRootCompletes := by
  unfold Obligations.TriggerRootCompletes
  intro s t hp
  refine ⟨fun port parts f hcarries hstriped hdecode hkind hroute hroot => ?mine,
    fun port parts f p sp hcarries hstriped hdecode hkind hroute hout hidle => ?neighbour,
    fun origin seq p hfind hroot => ?equalised, fun cls w hw hc hroot hn => ?enough, fun cls w hw hc hn => ?tooFew,
    fun pin rising code hen hpol habut hlast => ?edge, fun pin rising code l hen hpol habut hlast hsoon => ?early,
    fun pin rising code hoff => ?off, fun pin b e rest hpulses hend => ?pulseEnd,
    fun port parts f hcarries hstriped hdecode hkind hroute habut hbase hon hnew hroom => ?joins,
    fun port parts f hcarries hstriped hdecode hkind hroute habut hoff => ?disabled,
    fun port parts f hcarries hstriped hdecode hkind hroute habut hon hdup => ?duplicate,
    fun port parts f last lastTb hcarries hstriped hdecode hkind hroute habut hbase hgap => ?gap⟩
  case mine =>
    have honly := State.vc0Forward_only (s.clock t) (s.arrived port f) (some port)
    refine ⟨_, exec_primitiveReceive hp hcarries hstriped hdecode hkind, ?_⟩
    rw [if_pos (State.vc0Forward_taken (s := s.clock t) (f := s.arrived port f) _ hroute)]
    dsimp only
    rw [State.rootTake_trg,
      State.rootOn_of_only honly (by decide) (by decide) (by decide), State.clock_rootOn, hroot, honly.1 .trg (by decide)]
    refine ⟨List.length_append, ?_⟩
    rw [if_pos rfl, List.getLast?_concat]
    dsimp only [Option.map_some, State.heldPrim]
    rw [State.vc0Time_of_only honly (by decide)]
    rfl
  case neighbour =>
    refine ⟨_, exec_primitiveReceive hp hcarries hstriped hdecode hkind, ?_⟩
    rw [State.vc0Forward_passed (s := s.clock t) (f := s.arrived port f) hroute, if_neg Bool.false_ne_true]
    exact ⟨emits_of_append (l := [_]) (State.vc0Send_idle (s := s.clock t) _ hout hidle) (List.mem_singleton.2 rfl),
      (State.vc0Send_only ..).1 .trg (by decide)⟩
  case equalised =>
    refine ⟨_, exec_primitiveEqualised hp hfind hroot, ?_, fun k hw hen hmask => ?_⟩
    · rw [State.primTaken, State.rootJoins_prims]
      exact congrArg (List.erase · p) (State.rootCloses_prims ..)
    · exact State.primTaken_opens hw (Bool.and_eq_true_iff.2 ⟨hen, hmask⟩)
  case enough =>
    refine ⟨_, exec_rootWindowClose hp hw, State.rootCloses_cleared (s := s.clock t) hw hc, fun hdue => ?_⟩
    rw [hdue]
    show ((s.clock t).rootClose cls.val).trg.acceptId = _
    rw [State.rootClose_due (s := s.clock t) hw hc, State.clock_rootOn, hroot, if_pos (by simpa using hn)]
    exact State.acceptEmit_acceptId _ _ _ _ _ _ _ _ (State.abut_of_rootOn hroot)
  case tooFew =>
    refine ⟨_, exec_rootWindowClose hp hw, State.rootCloses_cleared (s := s.clock t) hw hc, fun hdue => ?_⟩
    rw [hdue]
    show ((s.clock t).rootClose cls.val).trg.acceptId = _ ∧ ((s.clock t).rootClose cls.val).trg.accs = _
    rw [State.rootClose_due (s := s.clock t) hw hc, if_neg (by simp; omega)]
    exact ⟨rfl, rfl⟩
  case edge =>
    have hsoon : (s.clock t).trigInSoon pin = false := by
      rw [State.trigInSoon, State.clock_trg]
      split
      next l hl =>
        rw [hl] at hlast
        exact decide_eq_false (Nat.not_lt.2 (of_decide_eq_true hlast))
      next => rfl
    refine ⟨_, trigInEdge_forms code hp hen hpol habut hsoon, ?_, State.acceptEmit_acceptId _ _ _ _ _ _ _ _ habut, ?_⟩
    · rw [State.trigInAccept, (State.acceptEmit_keeps _ _ _ _ _ _ _ _ _ 0).2.2]
      exact State.trigInNoted_lastIn ..
    · rw [State.trigInAccept, State.pair, (State.acceptEmit_only ..).1 .tdc (by decide)]
      exact State.pinEdge_pair (s.clock t) (268 + pin.val) code.toNat
  case early =>
    have hsoon' : (s.clock t).trigInSoon pin = true := by
      rw [State.trigInSoon, State.clock_trg, hlast]
      exact decide_eq_true hsoon
    refine ⟨_, trigInEdge_early code hp hen hpol habut hsoon', ?_, State.raise_raised _ (by decide), ?_⟩
    · rw [State.get_of_only (State.raise_only ..) (by decide) _ _ _ (by decide) (by decide), State.get_bump_same _ _ _ _ (by decide)]
      rfl
    · rw [State.raise_trg, State.bump_trg, (State.pinEdge_only ..).1 .trg (by decide)]
      rfl
  case off =>
    obtain ⟨u, hu, honly⟩ := trigInEdge_off rising code hp hoff
    exact ⟨u, hu, honly.1 .trg (by decide), State.get_of_only honly (by decide) _ _ _ (by decide) (by decide)⟩
  case pulseEnd =>
    refine ⟨_, exec_trigOutPulseEnd hp hpulses hend, ?_⟩
    cases rest with
    | nil => exact ⟨State.setPulses_pulsesOf (s.clock t) pin [], emits_of_append (l := [_]) rfl (List.mem_singleton.2 rfl), fun h => absurd rfl h⟩
    | cons q rest =>
      exact ⟨State.setPulses_pulsesOf (s.clock t) pin (q :: rest), emits_of_append (l := [_, _]) rfl (by simp), fun _ => emits_of_append (l := [_, _]) rfl (by simp)⟩
  case joins =>
    obtain ⟨b, hb⟩ := s.acceptChecked_trg t port f
    have habut' := (s.acceptChecked_abut t port f).trans habut
    have hseen : (((s.acceptChecked t port f).stillSeen (s.instant t)).any fun x =>
        x.1 == (s.acceptChecked t port f).vc0Time (s.arrived port f) && x.2.1 == (s.arrived port f).group % 16) = false := by
      rw [State.acceptChecked_stillSeen, State.acceptChecked_vc0Time]
      rw [List.any_eq_false] at hnew ⊢
      exact fun x hx => hnew x (List.mem_of_mem_filter hx)
    have hroom' : (s.acceptChecked t port f).outstanding < 64 := by
      rw [State.outstanding, hb]
      exact hroom
    obtain ⟨haccs, honly⟩ := State.acceptTake_joins habut' (f := s.arrived port f) (arrival := s.instant t)
      ((s.acceptChecked_enable t port f _).trans hon) hseen hroom'
    refine ⟨_, exec_acceptReceive hp hcarries hstriped hdecode hkind hroute habut, ?_, ?_, ?_⟩
    · refine (congrArg List.length haccs).trans ?_
      rw [(insertBy_perm ..).length_eq, hb]
      rfl
    · refine (congrArg (List.any · _) haccs).trans (List.any_eq_true.2 ⟨_, (insertBy_perm ..).mem_iff.2 List.mem_cons_self, ?_⟩)
      dsimp only [State.accOf]
      rw [State.acceptChecked_vc0Time]
      simp [State.arrived]
    · rw [State.acceptTake_baseline]
      exact State.gapCheck_first (f := s.arrived port f) port ((s.clock t).vc0Time f)
        ((congrArg (Tbl.get none · f.origin) (State.forwarded_baseline ..)).trans hbase)
  case disabled =>
    obtain ⟨b, hb⟩ := s.acceptChecked_trg t port f
    have htake := State.acceptTake_disabled (f := s.arrived port f) (arrival := s.instant t) ((s.acceptChecked_abut t port f).trans habut)
      ((s.acceptChecked_enable t port f _).trans hoff)
    refine ⟨_, (exec_acceptReceive hp hcarries hstriped hdecode hkind hroute habut).trans (congrArg Host.Outcome.next htake), ?_, ?_⟩
    · rw [State.bump_trg, hb]
    · rw [State.get_bump_same _ _ _ _ (by decide), State.get_of_only (s.acceptChecked_only t port f) (by decide) _ _ _ (by decide) (by decide)]
      rfl
  case duplicate =>
    obtain ⟨b, hb⟩ := s.acceptChecked_trg t port f
    have hseen : (((s.acceptChecked t port f).stillSeen (s.instant t)).any fun x =>
        x.1 == (s.acceptChecked t port f).vc0Time (s.arrived port f) && x.2.1 == (s.arrived port f).group % 16) = true := by
      rw [State.acceptChecked_stillSeen, State.acceptChecked_vc0Time, State.stillSeen, List.any_filter]
      exact (congrArg (List.any s.trg.seen) (funext fun x => (Bool.and_assoc ..).symm)).trans hdup
    have htake := State.acceptTake_repeated (f := s.arrived port f) (arrival := s.instant t) ((s.acceptChecked_abut t port f).trans habut)
      ((s.acceptChecked_enable t port f _).trans hon) hseen
    refine ⟨_, (exec_acceptReceive hp hcarries hstriped hdecode hkind hroute habut).trans (congrArg Host.Outcome.next htake), ?_, ?_⟩
    · rw [State.bump_trg, hb]
    · rw [State.get_bump_same _ _ _ _ (by decide)]
      exact congrArg (fun n => satTo _ (n + 1))
        (State.get_of_only (s.acceptChecked_only t port f) (by decide) P.ACCEPT_STATUS_DUP 0 0 (by decide) (by decide))
  case gap =>
    have hforward := State.vc0Forward_only (s.clock t) (s.arrived port f) (some port)
    obtain ⟨hnew, hraised, hcount⟩ := State.gapCheck_gap (f := s.arrived port f) port ((s.clock t).vc0Time f)
      ((congrArg (Tbl.get none · f.origin) (s.forwarded_baseline t port f)).trans hbase) hgap.1 hgap.2
    refine ⟨_, exec_acceptReceive hp hcarries hstriped hdecode hkind hroute habut, ?_, raised_of_latched (State.acceptTake_latched _ _ _) hraised, ?_⟩
    · rw [State.get_of_only (State.acceptTake_only ..) (by decide) _ _ _ (by decide) (by decide)]
      refine hcount.trans ?_
      rw [State.get_of_only hforward (by decide) _ _ _ (by decide) (by decide)]
      rfl
    · rw [State.acceptTake_baseline]
      exact hnew

end Sys2Proof.Machine

namespace Sys2Proof.Machine

open Sys2Proof

/-! ### Sessions and their replies (R169, R170) -/

/-- A record as it joins a session's reply: LOSS after a loss record (R169). -/
def Sess.marked (x : Sess) (r : Rec) : Rec := if x.mark then r.withFlag flLoss else r

/-- A session with a record in its reply (R169). -/
def Sess.replied (x : Sess) (r : Rec) (count : Bool) : Sess :=
  { x with mark := r.type == 0x06, sent := if count then x.sent + 1 else x.sent,
           reply := if x.kind = 1 then x.reply ++ [x.marked r] else x.reply }

theorem Sess.marked_same (x : Sess) (r : Rec) : (x.marked r).type = r.type ∧ (x.marked r).tb = r.tb ∧ (x.marked r).body = r.body := by
  unfold Sess.marked
  split <;> exact ⟨rfl, rfl, rfl⟩

namespace State

@[simp] theorem clock_sess (s : State) (t : Tm) (i : Nat) : (s.clock t).sess i = s.sess i := rfl

theorem sess_of_only {ps : List Part} {rs : List Nat} {s u : State} (h : Only ps rs s u) (hp : Part.deck ∉ ps) (i : Nat) :
    u.sess i = s.sess i := by rw [State.sess, State.sess, h.1 .deck hp]

theorem setSess_same (s : State) (i : Nat) (x : Option Sess) : (s.setSess i x).sess i = x := by
  unfold State.setSess State.sess
  dsimp only
  rw [State.put_deck]
  exact Tbl.get_set_same ..

theorem setSess_rr (s : State) (i : Nat) (x : Option Sess) : (s.setSess i x).deck.rr = s.deck.rr := by
  unfold State.setSess
  dsimp only
  rw [State.put_deck]

theorem setSess_ctx (s : State) (i : Nat) (x : Option Sess) : (s.setSess i x).ctx = s.ctx := (State.setSess_only ..).1 .ctx (by decide)

theorem takeSeq_sess (s : State) (type i : Nat) : (s.takeSeq type).sess i = s.sess i := rfl

theorem takeSeq_ctxOf (s : State) (type c : Nat) : (s.takeSeq type).ctxOf c = s.ctxOf c := rfl

section Reply

variable {s : State} {i : Nat} {x : Sess} (hx : s.sess i = some x)
include hx

/-- What a session shows once a record has joined its reply (R169). -/
theorem replyAdd_sess (r : Rec) (count : Bool) : (s.replyAdd i r count).sess i = some (x.replied r count) := by
  unfold State.replyAdd
  rw [hx]
  dsimp only
  unfold Sess.replied Sess.marked
  split
  · exact setSess_same ..
  · split
    · exact setSess_same ..
    · exact setSess_same ..

theorem replyAdd_rr (r : Rec) (count : Bool) : (s.replyAdd i r count).deck.rr = s.deck.rr := by
  unfold State.replyAdd
  rw [hx]
  dsimp only
  split
  · exact setSess_rr ..
  · split
    · exact setSess_rr ..
    · exact setSess_rr ..

/-- A record for a context joins the reply that its link sends (R169, R207). -/
theorem replyAdd_reply (hk : x.kind = 0) (r : Rec) (count : Bool) :
    ((s.replyAdd i r count).ctxOf x.ctx).reply = (s.ctxOf x.ctx).reply ++ [x.marked r] ∧
      ((s.replyAdd i r count).ctxOf x.ctx).replyOn = (s.ctxOf x.ctx).replyOn := by
  unfold State.replyAdd
  rw [hx]
  dsimp only
  rw [if_neg (by omega), if_neg (by omega), State.modCtx_same, State.ctxOf, setSess_ctx]
  exact ⟨rfl, rfl⟩

/-- A record of a raw session joins the raw source (R206). -/
theorem replyAdd_raw (hk : x.kind = 2) (r : Rec) (count : Bool) :
    ((s.replyAdd i r count).ctxOf x.ctx).raw = (s.ctxOf x.ctx).raw ++ [x.marked r] := by
  unfold State.replyAdd
  rw [hx]
  dsimp only
  rw [if_neg (by omega), if_pos hk, State.modCtx_same, State.ctxOf, setSess_ctx]
  rfl

/-- A session that ends is free (R170). -/
theorem sessEnd_sess : (s.sessEnd i).sess i = none := by
  unfold State.sessEnd
  rw [hx]
  dsimp only
  split
  · exact setSess_same ..
  · exact setSess_same ..

theorem sessEnd_reply (hk : x.kind = 0) : ((s.sessEnd i).ctxOf x.ctx).reply = (s.ctxOf x.ctx).reply ∧
    ((s.sessEnd i).ctxOf x.ctx).replyOn = false := by
  unfold State.sessEnd
  rw [hx]
  dsimp only
  rw [if_pos hk, State.modCtx_same, State.ctxOf, setSess_ctx]
  refine ⟨?_, rfl⟩
  split
  · rw [(State.holdFree_only ..).1 .ctx (by decide)]
    rfl
  · rfl

/-- A loss record of the reader joins the session's reply (R169, R172). -/
theorem sessLoss_spec (cause count : Nat) (key : Stamp) (first last : Tm) : ∃ r : Rec, r.type = 0x06 ∧
    (s.sessLoss i cause count key first last).sess i = some (x.replied r true) ∧
    (x.kind = 0 → ((s.sessLoss i cause count key first last).ctxOf x.ctx).reply = (s.ctxOf x.ctx).reply ++ [x.marked r]) := by
  refine ⟨s.lossRec cause x.ctx count key first last, rfl, ?_⟩
  unfold State.sessLoss
  rw [hx]
  dsimp only
  exact ⟨replyAdd_sess (s := s.takeSeq 0x06) hx _ _, fun hk => (replyAdd_reply (s := s.takeSeq 0x06) hx hk _ _).1⟩

end Reply

/-- A rewind reply record names its kind and its status (R170). -/
theorem replyRec_spec (s : State) (x : Sess) (kind status : Nat) (at_ : Stamp) (flags records : Nat) (toNs : Tm) :
    (s.replyRec x kind status at_ flags records toNs).type = 0x0A ∧
      (s.replyRec x kind status at_ flags records toNs).body.take 2 = [BitVec.ofNat 8 kind, BitVec.ofNat 8 status] := ⟨rfl, rfl⟩

/-- A context's session closes with its closing record (R170). -/
theorem sessClose_spec {s : State} {i : Nat} {x : Sess} (hx : s.sess i = some x) (hk : x.kind = 0) (status : Nat) (at_ : Stamp)
    (overtaken epochEnd : Bool) :
    (s.sessClose i status at_ overtaken epochEnd).sess i = none ∧
      ((s.sessClose i status at_ overtaken epochEnd).ctxOf x.ctx).replyOn = false ∧
      ((s.sessClose i status at_ overtaken epochEnd).ctxOf x.ctx).reply.getLast?.map (fun y => (y.type, y.body.take 2)) =
        some (0x0A, [2, BitVec.ofNat 8 status]) := by
  unfold State.sessClose
  rw [hx]
  dsimp only
  rw [if_pos hk]
  have hsess := replyAdd_sess (s := s.takeSeq 0x0A) hx
    (s.replyRec x 2 status at_ (replyFlags x.truncated overtaken x.followed epochEnd false) x.sent x.stop) false
  obtain ⟨hreply, hoff⟩ : (_ : List Rec) = _ ∧ _ := sessEnd_reply hsess hk
  obtain ⟨hadded, -⟩ := replyAdd_reply (s := s.takeSeq 0x0A) hx hk
    (s.replyRec x 2 status at_ (replyFlags x.truncated overtaken x.followed epochEnd false) x.sent x.stop) false
  obtain ⟨htype, -, hbody⟩ := x.marked_same
    (s.replyRec x 2 status at_ (replyFlags x.truncated overtaken x.followed epochEnd false) x.sent x.stop)
  refine ⟨sessEnd_sess hsess, hoff, (congrArg (fun l : List Rec => l.getLast?.map fun y => (y.type, y.body.take 2)) (hreply.trans hadded)).trans ?_⟩
  rw [List.getLast?_concat, Option.map_some, htype, hbody]
  rfl

end State
end Sys2Proof.Machine

namespace Sys2Proof.Machine

open Sys2Proof

namespace State

/-! ### One read (R168 to R175) -/

/-- The round robin notes the place of the session that it serves (R168). -/
def turnTaken (s : State) (x : Sess) : State :=
  if s.sessClass x = 2 then { s with deck := { s.deck with rr := x.order } } else s

/-- A read begins: the session's turn is noted and its record comes out of the memory (R168, R343). -/
def readBegun (s : State) (x : Sess) : State :=
  (s.turnTaken x).ddrUse 1 false ((s.turnTaken x).deckBase + x.pos % max 1 (s.turnTaken x).deck.sized)
    ((((s.turnTaken x).deck.data.find? fun d => decide (x.pos ≤ d.pos)).map fun d => d.data.bytes).getD 0)

theorem turnTaken_deck (s : State) (x : Sess) :
    (s.turnTaken x).deck = { s.deck with rr := if s.sessClass x = 2 then x.order else s.deck.rr } := by
  unfold turnTaken
  split <;> rfl

theorem turnTaken_only (s : State) (x : Sess) : Only [.deck] [] s (s.turnTaken x) := by
  unfold turnTaken
  split
  · exact (Only.set_deck (by decide)).2 Only.refl
  · exact Only.refl

theorem readBegun_deck (s : State) (x : Sess) :
    (s.readBegun x).deck = { s.deck with rr := if s.sessClass x = 2 then x.order else s.deck.rr } := by
  rw [readBegun, (State.ddrUse_only ..).1 .deck (by decide), turnTaken_deck]

theorem readBegun_only (s : State) (x : Sess) : Only [.deck, .ddr] [] s (s.readBegun x) :=
  ((s.turnTaken_only x).mono (by decide) (by decide)).trans ((State.ddrUse_only ..).mono (by decide) (by decide))

theorem readBegun_sess (s : State) (x : Sess) (i : Nat) : (s.readBegun x).sess i = s.sess i := by
  rw [State.sess, readBegun_deck]
  rfl

theorem sessOver_congr {s u : State} (hpoint : u.deck.wpoint = s.deck.wpoint) (hblocks : u.deck.blocks = s.deck.blocks)
    (htime : u.time = s.time) (htdc : u.tdc = s.tdc) (x : Sess) : u.sessOver x = s.sessOver x := by
  rw [State.sessOver, State.sessOver, State.epochWritten, State.epochWritten, hpoint, hblocks, htime, htdc]

theorem readBegun_sessOver (s : State) (x : Sess) : (s.readBegun x).sessOver x = s.sessOver x := by
  have honly := s.readBegun_only x
  have hdeck := s.readBegun_deck x
  exact sessOver_congr (by rw [hdeck]) (by rw [hdeck]) (honly.1 .time (by decide)) (honly.1 .tdc (by decide)) x

section Read

variable {s : State} {i : Nat} {x : Sess}

/-- A session that was not overtaken reads the record at its position (R169, R174). -/
theorem sessRead_record {d : DRec} (poison : Poison) (hlate : s.deck.woff ≤ x.pos + s.deck.sized) (hresume : x.resume = false)
    (hfind : s.deck.data.find? (fun y => decide (x.pos ≤ y.pos)) = some d) : s.sessRead i x poison = s.sessRecord i x d poison := by
  rw [State.sessRead, if_neg (Nat.not_lt.2 hlate), hresume, if_neg Bool.false_ne_true, hfind]

/-- A poisoned header sends the session on to the next directory entry (R175). -/
theorem sessRecord_header (d : DRec) : s.sessRecord i x d .header = s.deckPoison.sessResume i x := rfl

/-- At the write point a session ends or waits (R171). -/
theorem sessRead_none (poison : Poison) (hlate : s.deck.woff ≤ x.pos + s.deck.sized) (hresume : x.resume = false)
    (hfind : s.deck.data.find? (fun y => decide (x.pos ≤ y.pos)) = none) :
    s.sessRead i x poison = if s.sessOver x = true then s.sessDone i x else s.sessWait i x := by
  rw [State.sessRead, if_neg (Nat.not_lt.2 hlate), hresume, if_neg Bool.false_ne_true, hfind]

/-- A context's session whose position was overwritten is overtaken (R174). -/
theorem sessRead_overtaken (poison : Poison) (hlate : x.pos + s.deck.sized < s.deck.woff) (hk : x.kind = 0) :
    s.sessRead i x poison = (s.overtaken i).reqShow x.ctx := by
  rw [State.sessRead, if_pos hlate]
  dsimp only
  rw [if_neg (by omega), if_pos hk]

/-- The session moved past a record (R169). -/
def movedPast (x : Sess) (d : DRec) : Sess := { x with pos := d.pos + d.data.bytes, at_ := max x.at_ (min x.stop d.data.tb) }

/-- A poisoned record counts, and leaves the sessions and their replies (R175). -/
theorem deckPoison_spec (s : State) : Raised 165 s.deckPoison ∧
    s.deckPoison.get P.DECK_POISON_COUNT 0 = satTo P.DECK_POISON_COUNT.width (s.get P.DECK_POISON_COUNT 0 + 1) := by
  unfold State.deckPoison
  refine ⟨State.raise_raised _ (by decide), ?_⟩
  rw [State.get_of_only (State.raise_only ..) (by decide) _ _ _ (by decide) (by decide), State.get_bump_same _ _ _ _ (by decide)]

/-- A selected record is delivered (R169, R175). -/
theorem sessRecord_delivers {d : DRec} {r : Rec} {poison : Poison} (hselect : x.select d = some r) (hp : poison ≠ .header) :
    ∃ r' : Rec, (r'.type = r.type ∧ r'.tb = r.tb ∧ r'.body = r.body) ∧ (poison = .payload → Raised 165 (s.sessRecord i x d poison)) ∧
      (s.sessRecord i x d poison).deck = ((s.setSess i (some (movedPast x d))).replyAdd i r' true).deck ∧
      (s.sessRecord i x d poison).ctx = ((s.setSess i (some (movedPast x d))).replyAdd i r' true).ctx := by
  unfold State.sessRecord
  rw [hselect]
  cases poison with
  | header => exact absurd rfl hp
  | payload =>
    exact ⟨r.withFlag flReduced, ⟨rfl, rfl, rfl⟩, fun _ => (deckPoison_spec _).1, (State.deckPoison_only _).1 .deck (by decide),
      (State.deckPoison_only _).1 .ctx (by decide)⟩
  | none => exact ⟨r, ⟨rfl, rfl, rfl⟩, fun h => absurd h (by decide), rfl, rfl⟩

/-- A record that the session does not take is skipped, or ends it (R169). -/
theorem sessRecord_skips {d : DRec} {poison : Poison} (hselect : x.select d = none) (hp : poison ≠ .header) :
    s.sessRecord i x d poison = if x.past d = true then s.sessDone i x else s.setSess i (some (movedPast x d)) := by
  unfold State.sessRecord
  rw [hselect]
  cases poison with
  | header => exact absurd rfl hp
  | payload => rfl
  | none => rfl

/-- The end of a context's interval, or of its epoch, closes its session (R170, R171). -/
theorem sessDone_spec (hx : s.sess i = some x) (hk : x.kind = 0) :
    (s.sessDone i x).sess i = none ∧ ((s.sessDone i x).ctxOf x.ctx).replyOn = false ∧
      ((s.sessDone i x).ctxOf x.ctx).reply.getLast?.map (fun y => (y.type, y.body.take 2)) = some (0x0A, [2, 0]) := by
  unfold State.sessDone
  dsimp only
  rw [if_pos hk, sess_of_only (State.reqShow_only ..) (by decide), ctxOf_of_only (State.reqShow_only ..) (by decide)]
  split
  · exact sessClose_spec hx hk ..
  · exact sessClose_spec hx hk ..

/-- A context's session that is overtaken gets a loss record and its closing record (R174). -/
theorem overtaken_spec (hx : s.sess i = some x) (hk : x.kind = 0) :
    (s.overtaken i).sess i = none ∧ Raised 163 (s.overtaken i) ∧
      (s.overtaken i).get P.DECK_COUNTS_OVERTAKEN 0 =
        satTo P.DECK_COUNTS_OVERTAKEN.width (s.get P.DECK_COUNTS_OVERTAKEN 0 + 1) ∧
      ((s.overtaken i).ctxOf x.ctx).reply.getLast?.map (fun y => (y.type, y.body.take 2)) = some (0x0A, [2, 10]) := by
  unfold State.overtaken
  rw [hx]
  dsimp only
  rw [if_neg (by omega)]
  obtain ⟨r, -, hsess, -⟩ := sessLoss_spec hx 0x02 (s.countSpans x.epoch (s.sessLost x) x.stop) ⟨x.epoch, s.sessLost x⟩ (s.sessLost x) x.stop
  obtain ⟨hnone, -, hlast⟩ := sessClose_spec hsess hk 10 ⟨x.epoch, s.sessLost x⟩ true false
  refine ⟨?_, State.raise_raised _ (by decide), ?_, ?_⟩
  · rw [sess_of_only (State.raise_only ..) (by decide), State.sess, State.bump_deck]
    exact hnone
  · rw [State.get_of_only (State.raise_only ..) (by decide) _ _ _ (by decide) (by decide), State.get_bump_same _ _ _ _ (by decide),
      State.get_of_only (State.sessClose_only ..) (by decide) _ _ _ (by decide) (by decide),
      State.get_of_only (State.sessLoss_only ..) (by decide) _ _ _ (by decide) (by decide)]
  · rw [ctxOf_of_only (State.raise_only ..) (by decide), State.ctxOf, State.bump_ctx]
    exact hlast

/-- After a poisoned header a session goes on at the next directory entry, with a loss record (R175). -/
theorem sessResume_entry {e : Dir} (hdir : s.deck.dir.find? (fun y => decide (x.pos < y.first)) = some e) :
    ((s.sessResume i x).sess i).map (fun y => y.pos) = some e.first ∧
      (x.kind = 0 → ((s.sessResume i x).ctxOf x.ctx).reply.getLast?.map (fun y => y.type) = some 0x06) := by
  unfold State.sessResume
  rw [hdir]
  dsimp only
  obtain ⟨r, htype, hsess, hreply⟩ := sessLoss_spec (setSess_same s i (some { x with
    pos := e.first, at_ := max x.at_ (if e.at_.epoch = x.epoch then min e.at_.tb x.stop else x.stop), resume := false, waits := false })) ..
  refine ⟨(congrArg (Option.map _) hsess).trans rfl, fun hk => ?_⟩
  refine (congrArg (fun l : List Rec => l.getLast?.map fun y => y.type) (hreply hk)).trans ?_
  rw [List.getLast?_concat, Option.map_some, (Sess.marked_same ..).1, htype]

/-- With no such entry yet the session waits for one (R175). -/
theorem sessResume_waits (hdir : s.deck.dir.find? (fun y => decide (x.pos < y.first)) = none) (hover : s.sessOver x = false) :
    s.sessResume i x = s.setSess i (some { x with resume := true, waits := true }) := by
  unfold State.sessResume
  rw [hdir]
  dsimp only
  rw [hover, if_neg Bool.false_ne_true]

end Read

end State

/-- The session whose turn it is reads (R168). -/
theorem exec_deckReadComplete {s : State} {t : Tm} {sid : Fin 128} {x : Sess} (poison : Poison) (hp : s.pwr.por = false)
    (hx : s.sess sid = some x) (hturn : (s.clock t).sessTurn x = true) :
    exec (.deckReadComplete t sid poison) s = .next ((((s.clock t).readBegun x).sessRead sid x poison).holdsShow) := by
  simp only [exec, execDeckReadComplete, live_of hp, State.clock_sess, hx]
  exact congrArg Host.Outcome.next (if_neg (by rw [hturn]; decide))

section Reading

variable {s : State} {t : Tm} {sid : Fin 128} {x : Sess} (poison : Poison) (hp : s.pwr.por = false) (hx : s.sess sid = some x)
  (hturn : (s.clock t).sessTurn x = true)
include hp hx hturn

theorem exec_read_record {d : DRec} (hresume : x.resume = false) (hlate : s.deck.woff ≤ x.pos + s.deck.sized)
    (hfind : s.deck.data.find? (fun y => decide (x.pos ≤ y.pos)) = some d) : exec (.deckReadComplete t sid poison) s =
      .next (((s.clock t).readBegun x).sessRecord sid x d poison).holdsShow := by
  have hdeck := (s.clock t).readBegun_deck x
  rw [exec_deckReadComplete poison hp hx hturn,
    State.sessRead_record poison (by rw [hdeck]; exact hlate) hresume (by rw [hdeck]; exact hfind)]

theorem exec_read_none (hresume : x.resume = false) (hlate : s.deck.woff ≤ x.pos + s.deck.sized)
    (hfind : s.deck.data.find? (fun y => decide (x.pos ≤ y.pos)) = none) : exec (.deckReadComplete t sid poison) s =
      .next (if s.sessOver x = true then ((s.clock t).readBegun x).sessDone sid x
        else ((s.clock t).readBegun x).sessWait sid x).holdsShow := by
  have hdeck := (s.clock t).readBegun_deck x
  rw [exec_deckReadComplete poison hp hx hturn,
    State.sessRead_none poison (by rw [hdeck]; exact hlate) hresume (by rw [hdeck]; exact hfind), State.readBegun_sessOver]
  rfl

theorem exec_read_overtaken (hlate : x.pos + s.deck.sized < s.deck.woff) (hk : x.kind = 0) :
    exec (.deckReadComplete t sid poison) s =
      .next ((((s.clock t).readBegun x).overtaken sid).reqShow x.ctx).holdsShow := by
  have hdeck := (s.clock t).readBegun_deck x
  rw [exec_deckReadComplete poison hp hx hturn, State.sessRead_overtaken poison (by rw [hdeck]; exact hlate) hk]

end Reading

end Sys2Proof.Machine

namespace Sys2Proof.Machine

open Sys2Proof

namespace State

/-! ### Sessions open (R127, R168, R170) -/

/-- The device with a context's next request taken off its queue (R168). -/
def requestTaken (s : State) (c : Nat) (ds : List (List Byte)) : State :=
  { s.modCtx c fun x => { x with requests := ds, replyOn := true } with
    deck := { (s.modCtx c fun x => { x with requests := ds, replyOn := true }).deck with
      placed := (s.modCtx c fun x => { x with requests := ds, replyOn := true }).deck.placed.erase c } }

/-- The session of a context's request before it opens (R168). -/
def requestSess (s : State) (c : Nat) (r : Req) : Sess := { Sess.reset with
  ctx := c, tag := r.tag, flags := r.flags, epoch := r.epoch, start := r.start, stop := r.stop, mask := r.mask, kind := 0,
  hold := s.holdFor c r.tag r.epoch r.stop }

/-- The device with a waiting accept given to the extractor's session (R127). -/
def acceptGiven (s : State) (i : Nat) (e : Extract) : State :=
  { s with trg := { s.trg with deckWait := s.trg.deckWait.erase e, deckAccs := s.trg.deckAccs ++ [(e, i)] } }

/-- The extractor's session before it opens (R127). -/
def acceptSess (e : Extract) : Sess := { Sess.reset with
  ctx := 0, tag := e.acc.id + e.acc.cls * 65536, flags := 3, epoch := e.acc.at_.epoch, start := e.from, stop := e.to, mask := e.mask,
  kind := 1 }

theorem ctxSessOpen_eq {s : State} {c : Nat} {d : List Byte} {ds : List (List Byte)} (i : Nat) (h : (s.ctxOf c).requests = d :: ds) :
    s.ctxSessOpen i c = ((s.requestTaken c ds).sessOpen i (s.requestSess c (Req.parse d))).reqShow c := by
  rw [State.ctxSessOpen, h]
  rfl

/-- A session that opens untruncated (R168, R170). -/
def sessOpened (s : State) (x : Sess) : Sess := { x with
  queued := false, order := s.deck.orders + 1, served := x.start, at_ := x.start, truncated := false,
  pos := s.sessOrder.1.deckOffset ⟨x.epoch, x.start⟩ }

/-- An untruncated session opens; a context's with its opening record (R170). -/
theorem sessOpen_eq {s : State} (i : Nat) {x : Sess} (h : s.servedFrom x.epoch x.start x.stop = none) :
    ∃ r : Rec, (r.type = 0x0A ∧ r.body.take 2 = [1, 0]) ∧ s.sessOpen i x = State.holdsShow
      (if x.kind = 0 then ((s.sessOrder.1.setSess i (some (s.sessOpened x))).takeSeq 0x0A).replyAdd i r false
        else s.sessOrder.1.setSess i (some (s.sessOpened x))) := by
  refine ⟨s.sessOrder.1.replyRec (s.sessOpened x) 1 0 ⟨x.epoch, x.start⟩ (replyFlags false false false false true) 0 x.start,
    replyRec_spec .., ?_⟩
  unfold State.sessOpen
  rw [h]
  rfl

/-- The device with a context's session placed, before its opening record joins the reply (R170). -/
def requestPlaced (s : State) (i c : Nat) (d : List Byte) (ds : List (List Byte)) : State :=
  ((s.requestTaken c ds).sessOrder.1.setSess i
    (some ((s.requestTaken c ds).sessOpened (s.requestSess c (Req.parse d))))).takeSeq 0x0A

theorem requestPlaced_sess (s : State) (i c : Nat) (d : List Byte) (ds : List (List Byte)) :
    (s.requestPlaced i c d ds).sess i = some ((s.requestTaken c ds).sessOpened (s.requestSess c (Req.parse d))) := by
  rw [requestPlaced, takeSeq_sess, setSess_same]

theorem requestPlaced_ctxOf (s : State) (i c : Nat) (d : List Byte) (ds : List (List Byte)) :
    (s.requestPlaced i c d ds).ctxOf c = { s.ctxOf c with requests := ds, replyOn := true } := by
  rw [requestPlaced, takeSeq_ctxOf, State.ctxOf, setSess_ctx]
  exact State.modCtx_same s c fun x => { x with requests := ds, replyOn := true }

/-- What a context's request leaves when its session opens (R168, R170). -/
theorem ctxSessOpen_spec {s : State} {c : Nat} {d : List Byte} {ds : List (List Byte)} (i : Nat) (h : (s.ctxOf c).requests = d :: ds)
    (hserved : s.servedFrom (Req.parse d).epoch (Req.parse d).start (Req.parse d).stop = none) :
    ∃ r : Rec, (s.ctxSessOpen i c).sess i =
        some (((s.requestTaken c ds).sessOpened (s.requestSess c (Req.parse d))).replied r false) ∧
      ((s.ctxSessOpen i c).ctxOf c).requests = ds ∧ ((s.ctxSessOpen i c).ctxOf c).replyOn = true ∧
      ((s.ctxSessOpen i c).ctxOf c).reply.getLast?.map (fun y => (y.type, y.body.take 2)) = some (0x0A, [1, 0]) := by
  obtain ⟨r, ⟨htype, hbody⟩, hopen⟩ := sessOpen_eq (s := s.requestTaken c ds) i (x := s.requestSess c (Req.parse d)) hserved
  rw [if_pos (show (s.requestSess c (Req.parse d)).kind = 0 from rfl)] at hopen
  have hsess := s.requestPlaced_sess i c d ds
  have hctx := s.requestPlaced_ctxOf i c d ds
  obtain ⟨hreply, hon⟩ := replyAdd_reply hsess rfl r false
  have hreqs := (SameRequests.refl (s := s.requestPlaced i c d ds)).replyAdd i r false
  have hfinal : ∀ j, (s.ctxSessOpen i c).sess j = ((s.requestPlaced i c d ds).replyAdd i r false).sess j ∧
      (s.ctxSessOpen i c).ctxOf j = ((s.requestPlaced i c d ds).replyAdd i r false).ctxOf j := by
    intro j
    rw [ctxSessOpen_eq i h, hopen, sess_of_only (State.reqShow_only ..) (by decide), sess_of_only (State.holdsShow_only _) (by decide),
      ctxOf_of_only (State.reqShow_only ..) (by decide), ctxOf_of_only (State.holdsShow_only _) (by decide)]
    exact ⟨rfl, rfl⟩
  refine ⟨r, ?_, ?_, ?_, ?_⟩
  · rw [(hfinal i).1]
    exact replyAdd_sess hsess r false
  · rw [(hfinal c).2, hreqs.2, hctx]
  · rw [(hfinal c).2]
    exact hon.trans (congrArg CtxSt.replyOn hctx)
  · rw [(hfinal c).2]
    refine (congrArg (fun l : List Rec => l.getLast?.map fun y => (y.type, y.body.take 2)) hreply).trans ?_
    rw [List.getLast?_concat, Option.map_some, (Sess.marked_same ..).1, (Sess.marked_same ..).2.2, htype, hbody]

/-- What a waiting accept leaves when its session opens (R127). -/
theorem extSessOpen_spec {s : State} {e : Extract} (i : Nat) (hserved : s.servedFrom e.acc.at_.epoch e.from e.to = none) :
    (s.extSessOpen i e).sess i = some ((s.acceptGiven i e).sessOpened (acceptSess e)) ∧
      (s.extSessOpen i e).trg = (s.acceptGiven i e).trg := by
  obtain ⟨r, -, hopen⟩ := sessOpen_eq (s := s.acceptGiven i e) i (x := acceptSess e) hserved
  have heq : s.extSessOpen i e = ((s.acceptGiven i e).sessOpen i (acceptSess e)).accShow := rfl
  rw [heq]
  refine ⟨?_, ?_⟩
  · rw [sess_of_only (State.accShow_only _) (by decide), hopen, sess_of_only (State.holdsShow_only _) (by decide),
      if_neg (show ¬ (acceptSess e).kind = 0 from one_ne_zero)]
    exact setSess_same ..
  · rw [(State.accShow_only _).1 .trg (by decide), (State.sessOpen_only ..).1 .trg (by decide)]

/-- A request without records leaves the queues (R173). -/
theorem rewind_holds {s : State} {c : Nat} {desc : List Byte} (hdelivers : (Req.parse desc).delivers = false)
    (hjudge : s.reqJudge c (Req.parse desc) = stOk) : s.SameRequests (s.rewind c desc).1 := by
  unfold State.rewind
  dsimp only
  rw [if_neg (not_not_intro hjudge), if_neg (by rw [hdelivers]; decide)]
  exact (((SameRequests.refl).reqHold c (Req.parse desc)).holdsJudge _).of_only (State.holdsShow_only _) (by decide) (by decide)

/-! ### Deck-served events (R127, R130) -/

/-- The device with the extractor's reply taken up, before its record leaves (R127, R130). -/
def replyTaken (s : State) (x : Extract) (i cls : Nat) : State :=
  (((((({ s with trg := { s.trg with deckAccs := s.trg.deckAccs.erase (x, i) } } : State).sessEnd i).takeSeq 0x02).bump
    P.CLASS_EVENTS_COUNT cls).bump P.CLASS_LATE_DECK cls).raise 130)

/-- The event record of the extractor's reply (R127, R131). -/
def replyRecord (s : State) (x : Extract) (k : Sess) : Rec :=
  s.eventRec x (x.chans.map fun c => s.chanBlock x c none (replyHits x c k.reply)) (replySnips x k.reply) true true

theorem upPump_seqs (s : State) (n : Nat) : (s.upPump n).ctx.seqs = s.ctx.seqs := by
  induction n generalizing s with
  | zero => rfl
  | succ n ih =>
    unfold State.upPump
    dsimp only
    split
    · rfl
    · split
      · rfl
      · rw [ih, (State.fabSend_only ..).1 .ctx (by decide)]
        split <;> rfl

theorem egressTrim_seqs (s : State) : s.egressTrim.ctx.seqs = s.ctx.seqs := by
  unfold State.egressTrim
  dsimp only
  split <;> simp only [State.put_ctx, State.putB_ctx]

/-- The late stream takes no sequence of a record type (R14, R189). -/
theorem lateFlush_seqs (s : State) (n : Nat) : (s.lateFlush n).ctx.seqs = s.ctx.seqs := by
  induction n generalizing s with
  | zero => rfl
  | succ n ih =>
    unfold State.lateFlush
    split
    · rfl
    · split
      · rw [ih, State.egressWrite, egressTrim_seqs, upPump_seqs]
      · rfl

theorem lateEmit_seqOf (s : State) (r : Rec) (type : Nat) : (s.lateEmit r).seqOf type = s.seqOf type := by
  rw [State.seqOf, State.lateEmit, lateFlush_seqs]
  rfl

theorem sessEnd_seqs (s : State) (i : Nat) : (s.sessEnd i).ctx.seqs = s.ctx.seqs := by
  have hfreed (x : Sess) (v : State) (hv : v.ctx = s.ctx) :
      (if x.kind = 0 then (v.setSess i none).modCtx x.ctx fun c => { c with replyOn := false } else v.setSess i none).ctx.seqs =
        s.ctx.seqs := by
    split
    · show (v.setSess i none).ctx.seqs = s.ctx.seqs
      rw [setSess_ctx, hv]
    · rw [setSess_ctx, hv]
  unfold State.sessEnd
  split
  · rfl
  · refine hfreed _ _ ?_
    split
    · exact (State.holdFree_only ..).1 .ctx (by decide)
    · rfl

/-- What the extractor's reply leaves (R127, R130). -/
theorem replyTaken_spec {s : State} {x : Extract} {i : Nat} {k : Sess} (cls : Nat) (hk : s.sess i = some k) :
    (s.replyTaken x i cls).trg.deckAccs = s.trg.deckAccs.erase (x, i) ∧ (s.replyTaken x i cls).sess i = none ∧
      (s.replyTaken x i cls).get P.CLASS_EVENTS_COUNT cls = satTo P.CLASS_EVENTS_COUNT.width (s.get P.CLASS_EVENTS_COUNT cls + 1) ∧
      (s.replyTaken x i cls).get P.CLASS_LATE_DECK cls = satTo P.CLASS_LATE_DECK.width (s.get P.CLASS_LATE_DECK cls + 1) ∧
      (s.replyTaken x i cls).seqOf 0x02 = (s.seqOf 0x02 + 1) % 2 ^ 32 ∧ Raised 130 (s.replyTaken x i cls) := by
  have hbump (v : State) : Only [] [P.CLASS_LATE_DECK.pid] v (v.bump P.CLASS_LATE_DECK cls) :=
    (Only.bump_iff (by decide) (by decide)).2 Only.refl
  have htaken : Only [.trg, .deck, .ctx] [0x06000101, 0x06000102, 0x06000203] s
      ((({ s with trg := { s.trg with deckAccs := s.trg.deckAccs.erase (x, i) } } : State).sessEnd i).takeSeq 0x02) :=
    (((Only.set_trg (by decide)).2 Only.refl).trans ((State.sessEnd_only ..).mono (by decide) (by decide))).trans
      ((State.takeSeq_only ..).mono (by decide) (by decide))
  have hcounted : Only [.trg, .deck, .ctx] [P.CLASS_EVENTS_COUNT.pid, 0x06000101, 0x06000102, 0x06000203] s
      (((({ s with trg := { s.trg with deckAccs := s.trg.deckAccs.erase (x, i) } } : State).sessEnd i).takeSeq 0x02).bump
        P.CLASS_EVENTS_COUNT cls) := (Only.bump_iff (by decide) (by decide)).2 (htaken.mono (by decide) (by decide))
  unfold replyTaken
  refine ⟨?_, ?_, ?_, ?_, ?_, State.raise_raised _ (by decide)⟩
  · rw [raise_trg, State.bump_trg, State.bump_trg, (State.takeSeq_only ..).1 .trg (by decide), (State.sessEnd_only ..).1 .trg (by decide)]
  · rw [sess_of_only (State.raise_only ..) (by decide), State.sess, State.bump_deck, State.bump_deck]
    exact sessEnd_sess (x := k) hk
  · rw [State.get_of_only (State.raise_only ..) (by decide) _ _ _ (by decide) (by decide),
      State.get_of_only (hbump ..) (by decide) _ _ _ (by decide) (by decide), State.get_bump_same _ _ _ _ (by decide),
      State.get_of_only htaken (by decide) _ _ _ (by decide) (by decide)]
  · rw [State.get_of_only (State.raise_only ..) (by decide) _ _ _ (by decide) (by decide), State.get_bump_same _ _ _ _ (by decide),
      State.get_of_only hcounted (by decide) _ _ _ (by decide) (by decide)]
  · rw [State.seqOf, (State.raise_only ..).1 .ctx (by decide), State.bump_ctx, State.bump_ctx]
    refine (Tbl.get_set_same ..).trans ?_
    rw [State.seqOf, sessEnd_seqs]
    rfl

end State

/-- A complete reply becomes an event record of the late stream (R127, R130, R131). -/
theorem exec_deckReplyToExtractor {s : State} {t : Tm} {acceptId : Nat} {cls : Fin 16} {x : Extract} {i : Nat} {k : Sess}
    (hp : s.pwr.por = false)
    (hfind : s.trg.deckAccs.find? (fun e => e.1.acc.id == acceptId && e.1.acc.cls == cls.val) = some (x, i))
    (hk : s.sess i = some k) (hended : k.ended = true) : exec (.deckReplyToExtractor t acceptId cls) s =
      .next (((s.clock t).replyTaken x i cls).lateEmit ((s.clock t).replyRecord x k)) := by
  have hfind' : (s.clock t).trg.deckAccs.find? (fun e => e.1.acc.id == acceptId && e.1.acc.cls == cls.val) = some (x, i) := hfind
  simp only [exec, execDeckReplyToExtractor, live_of hp, hfind', State.clock_sess, hk]
  exact congrArg Host.Outcome.next (if_neg (by rw [hended]; decide))

/-- A request is checked and placed (R167, R207). -/
theorem exec_rewindRequest {s : State} {t : Tm} (ctx : Ctx) (desc : List Byte) (hp : s.pwr.por = false) :
    exec (.rewindRequest t ctx desc) s = .next ((s.clock t).rewind ctx desc).1 := by
  simp only [exec, execRewindRequest, live_of hp]

section Open

variable {s : State} {t : Tm} {sid : Fin 128} (hp : s.pwr.por = false) (hfree : s.sess sid = none)
  (honline : s.flag P.DECK_STATUS_ONLINE 0 = true)
include hp hfree honline

/-- A free session of the 64 for contexts takes the next request (R168). -/
theorem exec_deckSessionOpen_context {c : Nat} (hlow : sid.val < 64) (hnext : s.nextRequest = some c) :
    exec (.deckSessionOpen t sid) s = .next ((s.clock t).ctxSessOpen sid c) := by
  have hnext' : (s.clock t).nextRequest = some c := hnext
  simp only [exec, execDeckSessionOpen, live_of hp, State.clock_sess, hfree, State.clock_flag, honline, hnext']
  exact congrArg Host.Outcome.next (if_pos hlow)

/-- A free session of the extractor takes its next waiting accept (R127). -/
theorem exec_deckSessionOpen_extractor {e : Extract} {rest : List Extract} (hhigh : 64 ≤ sid.val) (hwait : s.trg.deckWait = e :: rest) :
    exec (.deckSessionOpen t sid) s = .next ((s.clock t).extSessOpen sid e) := by
  simp only [exec, execDeckSessionOpen, live_of hp, State.clock_sess, hfree, State.clock_flag, honline, State.clock_trg, hwait]
  exact congrArg Host.Outcome.next (if_neg (Nat.not_lt.2 hhigh))

end Open

/-- A session that waited goes on once the writer has passed it (R171). -/
theorem exec_writePointAdvance {s : State} {t : Tm} {sid : Fin 128} {x : Sess} (hp : s.pwr.por = false) (hx : s.sess sid = some x)
    (hwaits : x.waits = true)
    (hmore : s.sessOver x = true ∨ x.epoch < s.time.epoch ∨ (x.resume = false ∧ x.pos < s.deck.woff) ∨
      (x.resume = true ∧ s.deck.dir.any (fun y => decide (x.pos < y.first)) = true)) :
    exec (.writePointAdvance t sid) s = .next ((s.clock t).setSess sid (some { x with waits := false })) := by
  simp only [exec, execWritePointAdvance, live_of hp, State.clock_sess, hx, hwaits, Bool.true_and]
  refine congrArg Host.Outcome.next (if_pos ?_)
  rcases hmore with hover | hepoch | ⟨hresume, hpos⟩ | ⟨hresume, hdir⟩
  · exact Bool.or_eq_true_iff.2 (Or.inl (Bool.or_eq_true_iff.2 (Or.inl hover)))
  · exact Bool.or_eq_true_iff.2 (Or.inl (Bool.or_eq_true_iff.2 (Or.inr (decide_eq_true hepoch))))
  · rw [hresume]
    exact Bool.or_eq_true_iff.2 (Or.inr (decide_eq_true hpos))
  · rw [hresume]
    exact Bool.or_eq_true_iff.2 (Or.inr hdir)

/-- Settles O17: each command is brought to an operation on one session, whose effect a lemma above names. -/
theorem deckReaderCompletes : Obligations.DeckReaderCompletes := by
  unfold Obligations.DeckReaderCompletes
  intro s t hp
  refine ⟨?placed, ?holdOnly, ?refused, ?opens, ?extractor, ?delivers, ?skips, ?poisoned, ?poisonWaits, ?done, ?waits, ?overtaken,
    ?goesOn, ?reply⟩
  case placed =>
    intro ctx desc hjudge hdelivers
    refine ⟨_, exec_rewindRequest ctx desc hp, ?_⟩
    rw [State.rewind_placed hdelivers hjudge]
    exact (s.clock t).rewound_requests ctx desc
  case holdOnly =>
    intro ctx desc hjudge hdelivers
    refine ⟨_, exec_rewindRequest ctx desc hp, ?_⟩
    obtain ⟨hplaced, hreqs⟩ := State.rewind_holds hdelivers hjudge
    exact ⟨hreqs ctx, hplaced⟩
  case refused =>
    intro ctx desc hjudge
    refine ⟨_, exec_rewindRequest ctx desc hp, ?_⟩
    exact congrArg Prod.fst (if_pos hjudge)
  case opens =>
    intro sid c d ds hfree honline hlow hnext hreqs hserved
    obtain ⟨r, hsess, hrest, hon, hlast⟩ := State.ctxSessOpen_spec (s := s.clock t) sid hreqs hserved
    refine ⟨_, exec_deckSessionOpen_context hp hfree honline hlow hnext, ?_, ?_, hrest, hon, hlast, ?_⟩ <;> rw [hsess] <;> rfl
  case extractor =>
    intro sid e rest hfree honline hhigh hwait hserved
    obtain ⟨hsess, htrg⟩ := State.extSessOpen_spec (s := s.clock t) (e := e) sid hserved
    refine ⟨_, exec_deckSessionOpen_extractor hp hfree honline hhigh hwait, ?_, ?_, ?_⟩
    · rw [hsess]
      rfl
    · rw [htrg]
      exact (congrArg (List.erase · e) hwait).trans (List.erase_cons_head ..)
    · rw [htrg]
      rfl
  case delivers =>
    intro sid poison x d r hx hturn hresume hlate hfind hselect hpoison
    have hdeck := (s.clock t).readBegun_deck x
    obtain ⟨r', ⟨htype, htb, hbody⟩, hraised, hdeck', hctx'⟩ := State.sessRecord_delivers (s := (s.clock t).readBegun x) (i := sid)
      hselect hpoison
    have hmoved := State.setSess_same ((s.clock t).readBegun x) sid (some (State.movedPast x d))
    have hctx (c : Nat) : (((s.clock t).readBegun x).setSess sid (some (State.movedPast x d))).ctxOf c = s.ctxOf c := by
      rw [State.ctxOf, State.setSess_ctx, ((s.clock t).readBegun_only x).1 .ctx (by decide)]
      rfl
    obtain ⟨htype', htb', hbody'⟩ := (State.movedPast x d).marked_same r'
    have hsess : ((((s.clock t).readBegun x).sessRecord sid x d poison).holdsShow).sess sid =
        some ((State.movedPast x d).replied r' true) := by
      rw [State.sess_of_only (State.holdsShow_only _) (by decide), State.sess, hdeck']
      exact State.replyAdd_sess hmoved r' true
    have hof (c : Nat) : ((((s.clock t).readBegun x).sessRecord sid x d poison).holdsShow).ctxOf c =
        ((((s.clock t).readBegun x).setSess sid (some (State.movedPast x d))).replyAdd sid r' true).ctxOf c := by
      rw [State.ctxOf_of_only (State.holdsShow_only _) (by decide), State.ctxOf, hctx']
      rfl
    refine ⟨_, exec_read_record poison hp hx hturn hresume hlate hfind, ?_, fun hk => ?_, fun hk => ?_, fun hk => ?_, fun hpay => ?_,
      fun hclass => ?_⟩
    · rw [hsess]
      rfl
    · rw [hof]
      refine (congrArg (fun l : List Rec => l.getLast?.map fun y => (y.type, y.tb, y.body)) (State.replyAdd_reply hmoved hk r' true).1).trans ?_
      rw [List.getLast?_concat, Option.map_some, htype', htb', hbody', htype, htb, hbody]
    · rw [hsess]
      have hk' : (State.movedPast x d).kind = 1 := hk
      rw [Sess.replied, if_pos hk']
      exact congrArg some List.length_append
    · rw [hof]
      refine (congrArg (fun l : List Rec => l.getLast?.map fun y => (y.type, y.tb, y.body)) (State.replyAdd_raw hmoved hk r' true)).trans ?_
      rw [List.getLast?_concat, Option.map_some, htype', htb', hbody', htype, htb, hbody]
    · rw [Raised, (State.holdsShow_only _).1 .ev (by decide)]
      exact hraised hpay
    · rw [(State.holdsShow_only _).1 .deck (by decide), hdeck', State.replyAdd_rr hmoved, State.setSess_rr, hdeck]
      exact if_pos hclass
  case skips =>
    intro sid poison x d hx hturn hresume hlate hfind hselect hpast hpoison
    refine ⟨_, exec_read_record poison hp hx hturn hresume hlate hfind, ?_⟩
    rw [State.sessRecord_skips hselect hpoison, hpast, if_neg Bool.false_ne_true]
    refine ⟨?_, ?_⟩
    · rw [State.sess_of_only (State.holdsShow_only _) (by decide), State.setSess_same]
      rfl
    · rw [(State.holdsShow_only _).1 .ctx (by decide), State.setSess_ctx, (State.readBegun_only ..).1 .ctx (by decide)]
      rfl
  case poisoned =>
    intro sid poison x d e hx hturn hresume hlate hfind hpoison hdir
    subst hpoison
    have hdir' : ((s.clock t).readBegun x).deckPoison.deck.dir.find? (fun y => decide (x.pos < y.first)) = some e := by
      rw [(State.deckPoison_only _).1 .deck (by decide), State.readBegun_deck]
      exact hdir
    obtain ⟨hpos, hlast⟩ := State.sessResume_entry (s := ((s.clock t).readBegun x).deckPoison) (i := sid) hdir'
    have hresumed := State.sessResume_only ((s.clock t).readBegun x).deckPoison sid x
    obtain ⟨hraised, hcount⟩ := ((s.clock t).readBegun x).deckPoison_spec
    refine ⟨_, exec_read_record .header hp hx hturn hresume hlate hfind, ?_, ?_, ?_, fun hk => ?_⟩ <;> rw [State.sessRecord_header]
    · rw [State.get_of_only (State.holdsShow_only _) (by decide) _ _ _ (by decide) (by decide),
        State.get_of_only hresumed (by decide) _ _ _ (by decide) (by decide), hcount,
        State.get_of_only (State.readBegun_only ..) (by decide) _ _ _ (by decide) (by decide)]
      rfl
    · rw [Raised, (State.holdsShow_only _).1 .ev (by decide), hresumed.1 .ev (by decide)]
      exact hraised
    · rw [State.sess_of_only (State.holdsShow_only _) (by decide)]
      exact hpos
    · rw [State.ctxOf_of_only (State.holdsShow_only _) (by decide)]
      exact hlast hk
  case poisonWaits =>
    intro sid poison x d hx hturn hresume hlate hfind hpoison hdir hover
    subst hpoison
    have honly := State.deckPoison_only ((s.clock t).readBegun x)
    have hdir' : ((s.clock t).readBegun x).deckPoison.deck.dir.find? (fun y => decide (x.pos < y.first)) = none := by
      rw [honly.1 .deck (by decide), State.readBegun_deck]
      exact hdir
    have hover' : ((s.clock t).readBegun x).deckPoison.sessOver x = false := by
      rw [State.sessOver_congr (by rw [honly.1 .deck (by decide)]) (by rw [honly.1 .deck (by decide)]) (honly.1 .time (by decide))
        (honly.1 .tdc (by decide)) x, State.readBegun_sessOver]
      exact hover
    obtain ⟨hraised, hcount⟩ := ((s.clock t).readBegun x).deckPoison_spec
    refine ⟨_, exec_read_record .header hp hx hturn hresume hlate hfind, ?_, ?_, ?_⟩ <;>
      rw [State.sessRecord_header, State.sessResume_waits hdir' hover']
    · rw [State.get_of_only (State.holdsShow_only _) (by decide) _ _ _ (by decide) (by decide),
        State.get_of_only (State.setSess_only ..) (by decide) _ _ _ (by decide) (by decide), hcount,
        State.get_of_only (State.readBegun_only ..) (by decide) _ _ _ (by decide) (by decide)]
      rfl
    · rw [Raised, (State.holdsShow_only _).1 .ev (by decide), (State.setSess_only ..).1 .ev (by decide)]
      exact hraised
    · rw [State.sess_of_only (State.holdsShow_only _) (by decide), State.setSess_same]
  case done =>
    intro sid poison x hx hturn hresume hlate hend hk
    obtain ⟨hnone, hoff, hlast⟩ := State.sessDone_spec (s := (s.clock t).readBegun x) (i := sid)
      (((s.clock t).readBegun_sess x sid).trans hx) hk
    have hexec : exec (.deckReadComplete t sid poison) s = .next (((s.clock t).readBegun x).sessDone sid x).holdsShow := by
      rcases hend with ⟨hfind, hover⟩ | ⟨hpoison, hpast⟩
      · rw [exec_read_none poison hp hx hturn hresume hlate hfind, if_pos hover]
      · cases hfind : s.deck.data.find? (fun y => decide (x.pos ≤ y.pos)) with
        | none =>
          rw [hfind] at hpast
          exact absurd hpast Bool.false_ne_true
        | some d =>
          rw [hfind] at hpast
          obtain ⟨hselect, hpast⟩ := Bool.and_eq_true_iff.1 (show ((x.select d).isNone && x.past d) = true from hpast)
          rw [exec_read_record poison hp hx hturn hresume hlate hfind, State.sessRecord_skips (Option.isNone_iff_eq_none.1 hselect) hpoison,
            if_pos hpast]
    refine ⟨_, hexec, ?_, ?_, ?_⟩
    · rw [State.sess_of_only (State.holdsShow_only _) (by decide), hnone]
    · rw [State.ctxOf_of_only (State.holdsShow_only _) (by decide), hoff]
    · rw [State.ctxOf_of_only (State.holdsShow_only _) (by decide), hlast]
  case waits =>
    intro sid poison x hx hturn hresume hlate hfind hover
    refine ⟨_, exec_read_none poison hp hx hturn hresume hlate hfind, ?_⟩
    rw [hover, if_neg Bool.false_ne_true, State.sessWait]
    refine ⟨?_, ?_⟩
    · rw [State.sess_of_only (State.holdsShow_only _) (by decide), State.setSess_same]
    · rw [(State.holdsShow_only _).1 .ctx (by decide), State.setSess_ctx, (State.readBegun_only ..).1 .ctx (by decide)]
      rfl
  case overtaken =>
    intro sid poison x hx hturn hlate hk
    obtain ⟨hnone, hraised, hcount, hlast⟩ := State.overtaken_spec (s := (s.clock t).readBegun x) (i := sid)
      (((s.clock t).readBegun_sess x sid).trans hx) hk
    have hshown : Only [] [0x06000102, 0x08000015] (((s.clock t).readBegun x).overtaken sid)
        ((((s.clock t).readBegun x).overtaken sid).reqShow x.ctx).holdsShow :=
      ((State.reqShow_only ..).mono (by decide) (by decide)).trans ((State.holdsShow_only _).mono (by decide) (by decide))
    refine ⟨_, exec_read_overtaken poison hp hx hturn hlate hk, ?_, ?_, ?_, ?_⟩
    · rw [State.sess_of_only hshown (by decide), hnone]
    · rw [State.get_of_only hshown (by decide) _ _ _ (by decide) (by decide), hcount,
        State.get_of_only (State.readBegun_only ..) (by decide) _ _ _ (by decide) (by decide)]
      rfl
    · rw [Raised, hshown.1 .ev (by decide)]
      exact hraised
    · rw [State.ctxOf_of_only hshown (by decide), hlast]
  case goesOn =>
    intro sid x hx hwaits hmore
    refine ⟨_, exec_writePointAdvance hp hx hwaits hmore, State.setSess_same ..⟩
  case reply =>
    intro acceptId cls x i k hfind hk hended
    obtain ⟨haccs, hsess, hcount, hdeck, hseq, hraised⟩ := State.replyTaken_spec (s := s.clock t) (x := x) cls hk
    have honly := ((s.clock t).replyTaken x i cls).lateEmit_only ((s.clock t).replyRecord x k)
    refine ⟨_, exec_deckReplyToExtractor hp hfind hk hended, ?_, ?_, ?_, ?_, ?_, ?_⟩
    · rw [honly.1 .trg (by decide), haccs]
      rfl
    · rw [State.sess_of_only honly (by decide), hsess]
    · rw [State.get_of_only honly (by decide) _ _ _ (by decide) (by decide), hcount]
      rfl
    · rw [State.get_of_only honly (by decide) _ _ _ (by decide) (by decide), hdeck]
      rfl
    · rw [State.lateEmit_seqOf, hseq]
      rfl
    · rw [Raised, honly.1 .ev (by decide)]
      exact hraised

end Sys2Proof.Machine

namespace Sys2Proof.Machine

open Sys2Proof

/-- What stands in front of all that had been sent out before was sent out since, whatever has been sent out after it. -/
theorem emits_of_sent {o : Out} {l : List Out} {s u : State} (h : l ++ s.out <:+ u.out) (ho : o ∈ l) : Emits o s u := by
  obtain ⟨front, hfront⟩ := h
  exact emits_of_append (l := front ++ l) (by rw [List.append_assoc, hfront]) (List.mem_append_right _ ho)

namespace State

/-! ### Answers take nothing back (R368, R386) -/

theorem raiseIf_latched (s : State) (b : Bool) (n : Nat) : Latched s.ev (s.raiseIf b n).ev := by
  unfold State.raiseIf
  split
  · exact State.raise_latched s n
  · exact .refl _

theorem raiseIf_sent {l : List Out} {s : State} (h : l <:+ s.out) (b : Bool) (n : Nat) : l <:+ (s.raiseIf b n).out := by
  unfold State.raiseIf
  split
  · exact raise_sent h n
  · exact h

theorem dmaData_sent {l : List Out} {s : State} (h : l <:+ s.out) (addr : Nat) (bs : List Byte) : l <:+ (s.dmaData addr bs).out := by
  unfold State.dmaData
  generalize tlpCut _ _ _ _ = writes
  induction writes generalizing s with
  | nil => exact h
  | cons w writes ih => exact ih (emit_sent (s := { s with host := _ }) h _)

/-- An entry posted on a host mailbox sets no latch bit back. -/
theorem postHost_latched (s : State) (p : Post) (m : Nat) : Latched s.ev (s.postHost p m).ev := by
  have hdma (v : State) (addr : Nat) (bs : List Byte) (f : MbRegs → MbRegs) (hv : v.ev = s.ev) :
      Latched s.ev ((v.modMb m f).dma addr bs).ev := by
    rw [(State.dma_only ..).1 .ev (by decide), (State.modMb_only ..).1 .ev (by decide), hv]
    exact .refl _
  have hgiven (b : Bool) (addr : Nat) (bs : List Byte) : (if b = true then s.dmaData addr bs else s).ev = s.ev := by
    split
    · exact (State.dmaData_only ..).1 .ev (by decide)
    · rfl
  unfold State.postHost
  dsimp only
  split
  · exact .refl _
  · split
    · exact hdma _ _ _ _ (hgiven ..)
    · exact (hdma _ _ _ _ (hgiven ..)).trans (State.raise_latched _ m)

theorem postHost_sent {l : List Out} {s : State} (h : l <:+ s.out) (p : Post) (m : Nat) : l <:+ (s.postHost p m).out := by
  have hdma (v : State) (addr : Nat) (bs : List Byte) (f : MbRegs → MbRegs) (hv : l <:+ v.out) :
      l <:+ ((v.modMb m f).dma addr bs).out := emit_sent (s := { v.modMb m f with host := _ }) hv _
  have hgiven (b : Bool) (addr : Nat) (bs : List Byte) : l <:+ (if b = true then s.dmaData addr bs else s).out := by
    split
    · exact dmaData_sent h ..
    · exact h
  unfold State.postHost
  dsimp only
  split
  · exact h
  · split
    · exact hdma _ _ _ _ (hgiven ..)
    · exact raise_sent (hdma _ _ _ _ (hgiven ..)) _

/-- A post sets no latch bit back. -/
theorem post_latched (s : State) (p : Post) : Latched s.ev (s.post p).ev := by
  have htold (v : State) (o : Out) (b : Bool) (n : Nat) (hv : v.ev = s.ev) : Latched s.ev ((v.emit o).raiseIf b n).ev := by
    rw [← hv]
    exact raiseIf_latched (v.emit o) b n
  unfold State.post
  dsimp only
  split
  · exact postHost_latched _ _ _
  · exact postHost_latched _ _ _
  · exact htold _ _ _ _ rfl
  · exact htold _ _ _ _ rfl
  · exact htold _ _ _ _ rfl

/-- A post takes nothing back that was sent out. -/
theorem post_sent {l : List Out} {s : State} (h : l <:+ s.out) (p : Post) : l <:+ (s.post p).out := by
  have htold (v : State) (o : Out) (b : Bool) (n : Nat) (hv : v.out = s.out) : l <:+ ((v.emit o).raiseIf b n).out := by
    rw [← hv] at h
    exact raiseIf_sent (emit_sent h o) b n
  unfold State.post
  dsimp only
  split
  · exact postHost_sent h ..
  · exact postHost_sent h ..
  · exact htold _ _ _ _ rfl
  · exact htold _ _ _ _ rfl
  · exact htold _ _ _ _ rfl

theorem waitPost_latched (s : State) (x : Wait) : Latched s.ev (s.waitPost x).ev := by
  unfold State.waitPost
  dsimp only
  split
  · exact .refl _
  · exact post_latched (s.record x.who x.seq x.status x.result) _

/-- A background command that fails sets no latch bit back. -/
theorem backFail_latched (s : State) (f : Wait → Bool) (status : Nat) (result : W64) :
    Latched s.ev (s.backFail f status result).ev := by
  unfold State.backFail
  split
  · next x _ => exact waitPost_latched { s with mbox := { s.mbox with wait := s.mbox.wait.erase x } } _
  · exact .refl _

/-! ### A command that goes on in the background (R384) -/

/-- The device with a command noted and waiting in the background. -/
def awaited (s : State) (w : Who) (c : Cmd) : State :=
  { s.noted w c.seq with mbox := { (s.noted w c.seq).mbox with wait := (s.noted w c.seq).mbox.wait ++ [c.wait w s.goesOn 0] } }

theorem awaited_only (s : State) (w : Who) (c : Cmd) : Only [.mbox] [0x0F000302, 0x0F000303] s (s.awaited w c) :=
  (Only.set_mbox (by decide)).2 (s.noted_only w c.seq)

section GoesOn

variable {s v : State} {w : Who} {c : Cmd} {k : Cls} (hk : k ≠ .r) (hroom : s.backgrounds w < 16)
include hk hroom

/-- A command that goes on posts at most an interim entry. -/
theorem finish_goesOn_eq : s.finish w c k v.goesOn = if c.isSet = true then v.awaited w c
    else (v.awaited w c).post { c.post w stPending 0 [] true with interim := true } := by
  unfold State.finish
  dsimp only
  rw [if_neg hk, if_pos (show v.goesOn.background = true from rfl), if_neg (Nat.not_le.2 hroom)]
  rfl

theorem finish_goesOn_only :
    Only [.ev, .recd, .host, .mbox, .out] [0x0F000302, 0x0F000303, 0x11000203, 0x11000204] v (s.finish w c k v.goesOn) := by
  rw [finish_goesOn_eq hk hroom]
  split
  · exact (v.awaited_only w c).mono (by decide) (by decide)
  · exact ((v.awaited_only w c).mono (by decide) (by decide)).trans ((State.post_only ..).mono (by decide) (by decide))

theorem finish_goesOn_sent {l : List Out} (h : l <:+ v.out) : l <:+ (s.finish w c k v.goesOn).out := by
  rw [finish_goesOn_eq hk hroom]
  have hawaited : l <:+ (v.awaited w c).out := out_of_only h (v.awaited_only w c) (by decide)
  split
  · exact hawaited
  · exact post_sent hawaited _

theorem finish_goesOn_waits (hv : v.backgrounds w < 16) : GoesOn c w (s.finish w c k v.goesOn) := by
  rw [(finish_goesOn_eq hk hroom).trans (finish_goesOn_eq hk hv).symm]
  exact (finish_goesOn hk hv).2

end GoesOn

/-! ### Claims and the root's identity (R265, R266) -/

theorem each_emit_out (g : Nat → Out) (l : List Nat) (s : State) :
    (s.each l fun v p => v.emit (g p)).out = (l.map g).reverse ++ s.out := by
  induction l generalizing s with
  | nil => rfl
  | cons p l ih =>
    refine (ih (s.emit (g p))).trans ?_
    rw [List.map_cons, List.reverse_cons, List.append_assoc]
    rfl

theorem each_emit_only (g : Nat → Out) (l : List Nat) (s : State) : Only [.out] [] s (s.each l fun v p => v.emit (g p)) :=
  Only.each (fun v p => State.emit_only v (g p)) l Only.refl

theorem foldl_emit_only {α : Type} (g : α → Out) (l : List α) (s : State) : Only [.out] [] s (l.foldl (fun v a => v.emit (g a)) s) :=
  Only.foldl (fun v a => State.emit_only v (g a)) l Only.refl

/-- A claim goes out on every port that carries traffic but the one it came in on (R265). -/
theorem claimSend_spec (s : State) (id : W64) (except : Option Nat) :
    (s.claimSend id except).fab = { s.fab with low := some (id, s.time.now) } ∧
      (s.claimSend id except).out =
        ((s.claimPorts.filter fun p => except != some p).map fun p => Out.claim p id).reverse ++ s.out :=
  ⟨(each_emit_only (fun p => Out.claim p id) ..).1 .fab (by decide), each_emit_out (fun p => Out.claim p id) _ _⟩

theorem claimSend_emits {s u : State} {id : W64} {except : Option Nat} (h : (s.claimSend id except).out <:+ u.out) {p : Nat}
    (hp : p ∈ s.claimPorts) (hne : except ≠ some p) : Emits (.claim p id) s u := by
  rw [(claimSend_spec ..).2] at h
  exact emits_of_sent h (List.mem_reverse.2 (List.mem_map.2 ⟨p, List.mem_filter.2 ⟨hp, bne_iff_ne.2 hne⟩, rfl⟩))

/-- The root's identity is the one that was set (R266). -/
theorem setRoot_rootId (s : State) (id : W64) : (s.setRoot id).rootId = id := by
  have hword : (s.putWord P.FAB_ROOT_ID_ID 0 id).rootId = id := by
    rw [State.rootId, State.putWord, Regs.word, Regs.setWord, Tbl.get_set_same]
  unfold State.setRoot
  dsimp only
  split
  · exact hword
  · have htold : Only [.out] [] (s.putWord P.FAB_ROOT_ID_ID 0 id) ((s.putWord P.FAB_ROOT_ID_ID 0 id).each
        ((upTo 4).filter (s.putWord P.FAB_ROOT_ID_ID 0 id).portUp) State.helloSend) :=
      Only.each (fun v p => State.helloSend_only v p) _ Only.refl
    rw [State.rootId, State.word_of_only htold (by decide) _ _ _ (by decide) (by decide)]
    exact hword

theorem rootId_of_only {ps : List Part} {rs : List Nat} {s u : State} (h : Only ps rs s u) (hp : Part.regs ∉ ps)
    (hr : P.FAB_ROOT_ID_ID.pid + 0 ∉ rs) : u.rootId = s.rootId := State.word_of_only h hp _ _ _ (by decide) hr

theorem isRoot_of_only {ps : List Part} {rs : List Nat} {s u : State} (h : Only ps rs s u) (hp : Part.regs ∉ ps)
    (hr : P.FAB_ADDR_ROOT.pid + 0 ∉ rs) : u.isRoot = s.isRoot := State.flag_of_only h hp _ _ _ (by decide) hr

end State
end Sys2Proof.Machine

namespace Sys2Proof.Machine

open Sys2Proof

namespace State

/-! ### Discovery and route sets (R264, R268, R270, R275) -/

/-- Probes sent out join those outstanding; nothing else of the fabric changes (R268). -/
theorem probePump_fab (s : State) (n : Nat) : ∃ a b, (s.probePump n).fab = { s.fab with toProbe := a, probes := s.fab.probes ++ b } := by
  induction n generalizing s with
  | zero => exact ⟨s.fab.toProbe, [], by rw [List.append_nil]; rfl⟩
  | succ n ih =>
    unfold State.probePump
    split
    · next r rest _ =>
      split
      · obtain ⟨a, b, h⟩ := ih (({ s with fab := { s.fab with toProbe := rest, probes := s.fab.probes ++ [r] } }).emit
          (.probe (probeWord r) r.length))
        exact ⟨a, r :: b, by rw [h, State.emit_fab, List.append_assoc]; rfl⟩
      · exact ⟨s.fab.toProbe, [], by rw [List.append_nil]⟩
    · exact ⟨s.fab.toProbe, [], by rw [List.append_nil]⟩

theorem probePump_idle {s : State} (n : Nat) (h : s.fab.toProbe = []) : s.probePump n = s := by
  cases n with
  | zero => rfl
  | succ n => rw [State.probePump, h]

/-- Whether an acknowledgement is still missing (R270). -/
def ackMissing (s : State) : Bool := s.fab.installs.any fun e => s.fab.nodes.any fun x => x.id == e.1 && !x.acked && !x.stranded

/-- The boundary that a route set named now takes (R270). -/
def routeBoundary (s : State) : Tm := ceilDiv (s.time.now + 2 * s.spanLen) s.spanLen * s.spanLen

/-- The device with the boundary of its route set named (R270). -/
def routeNamed (s : State) : State :=
  ({ s with fab := { s.fab with
    named := some s.routeBoundary, mine := s.fab.mine.map fun (i : Install) => { i with boundary := s.routeBoundary } } } : State).put
      P.FAB_ROUTE_PENDING_TIME_NS 0 (tbNs s.routeBoundary)

/-- The install that names the boundary to another device (R270). -/
def namedInstall (s : State) (e : W64 × Install) : Out := .install e.1 { e.2 with boundary := s.routeBoundary }

theorem routeName_eq (s : State) : s.routeName = if (s.ackMissing || s.fab.named.isSome || s.fab.mine.isNone) = true then s
    else s.fab.installs.foldl (fun v e => v.emit (s.namedInstall e)) s.routeNamed := rfl

theorem routeName_waits {s : State} (h : s.ackMissing = true) : s.routeName = s := by
  rw [routeName_eq, h]
  exact if_pos rfl

/-- Telling the boundary to the other devices touches nothing of this one (R270). -/
theorem routeTold_fab (s : State) : (s.fab.installs.foldl (fun v e => v.emit (s.namedInstall e)) s.routeNamed).fab =
    { s.fab with named := some s.routeBoundary,
                 mine := s.fab.mine.map fun (i : Install) => { i with boundary := s.routeBoundary } } := by
  rw [(foldl_emit_only s.namedInstall ..).1 .fab (by decide), routeNamed, State.put_fab]

/-- With no acknowledgement missing the boundary is named (R270). -/
theorem routeName_names {s : State} {i : Install} (h : s.ackMissing = false) (hnamed : s.fab.named = none) (hmine : s.fab.mine = some i) :
    s.routeName.fab = { s.fab with named := some s.routeBoundary, mine := some { i with boundary := s.routeBoundary } } := by
  rw [routeName_eq, if_neg (by rw [h, hnamed, hmine]; exact Bool.false_ne_true), routeTold_fab, hmine]
  rfl

/-- Naming the boundary touches nothing else of the fabric (R270). -/
theorem routeName_fab (s : State) : ∃ named mine, s.routeName.fab = { s.fab with named := named, mine := mine } := by
  rw [routeName_eq]
  split
  · exact ⟨s.fab.named, s.fab.mine, rfl⟩
  · exact ⟨_, _, s.routeTold_fab⟩

/-- A route set leaves the claim, the probes and the state of discovery (R270). -/
def SameClaim (s u : State) : Prop :=
  u.fab.claimUntil = s.fab.claimUntil ∧ u.fab.probes = s.fab.probes ∧ u.fab.discovering = s.fab.discovering

theorem SameClaim.trans {s u v : State} (h : s.SameClaim u) (k : u.SameClaim v) : s.SameClaim v :=
  ⟨k.1.trans h.1, k.2.1.trans h.2.1, k.2.2.trans h.2.2⟩

theorem SameClaim.of_only {ps : List Part} {rs : List Nat} {s u : State} (h : Only ps rs s u) (hp : Part.fab ∉ ps) : s.SameClaim u := by
  rw [SameClaim, h.1 .fab hp]
  exact ⟨rfl, rfl, rfl⟩

theorem routeName_claim (s : State) : s.SameClaim s.routeName := by
  obtain ⟨named, mine, h⟩ := s.routeName_fab
  rw [SameClaim, h]
  exact ⟨rfl, rfl, rfl⟩

theorem routeSet_claim (s : State) (ns : List Node) : s.SameClaim (s.routeSet ns) := by
  unfold State.routeSet
  dsimp only
  refine SameClaim.trans (SameClaim.trans ?_ (SameClaim.of_only (foldl_emit_only (fun e : W64 × Install => Out.install e.1 e.2) ..)
    (by decide))) (routeName_claim _)
  exact ⟨rfl, rfl, rfl⟩

theorem routeChange_claim (s : State) : s.SameClaim s.routeChange := by
  unfold State.routeChange
  split
  · exact ⟨rfl, rfl, rfl⟩
  split
  · exact ⟨rfl, rfl, rfl⟩
  · exact (SameClaim.of_only (State.raiseIf_only ..) (by decide)).trans (routeSet_claim ..)

theorem routeSet_ev (s : State) (ns : List Node) : (s.routeSet ns).ev = s.ev := (State.routeSet_only ..).1 .ev (by decide)

/-- While a probe is outstanding discovery goes on (R268). -/
theorem discovered_waits {s : State} (h : s.fab.probes ≠ []) : s.discovered = s := by
  unfold State.discovered
  rw [List.isEmpty_eq_false_iff.2 h]
  rfl

/-- With no probe left discovery ends, with source 34 and the first route set (R268, R270). -/
theorem discovered_ends {s : State} (hprobes : s.fab.probes = []) (hto : s.fab.toProbe = []) (hon : s.fab.discovering = true) :
    s.discovered.fab.discovering = false ∧ s.discovered.fab.probes = [] ∧ Raised 34 s.discovered := by
  unfold State.discovered
  rw [hprobes, hto, hon]
  dsimp only
  rw [if_neg (by decide), if_pos rfl]
  obtain ⟨-, hprobes', hon'⟩ := (SameClaim.of_only (State.raise_only ({ s with fab := { s.fab with discovering := false, last := [] } }) 34)
    (by decide)).trans (routeSet_claim _ (assign s.fab.plan [] (discoverTree s.fab.nodes)))
  refine ⟨hon', hprobes'.trans hprobes, ?_⟩
  rw [Raised, routeSet_ev]
  exact State.raise_raised _ (by decide)

/-- What follows a reply leaves the claim, and sets no latch bit back (R268). -/
theorem discovered_keeps (s : State) : s.discovered.fab.claimUntil = s.fab.claimUntil ∧ Latched s.ev s.discovered.ev := by
  unfold State.discovered
  split
  · exact ⟨rfl, .refl _⟩
  split
  · dsimp only
    refine ⟨((SameClaim.of_only (State.raise_only ({ s with fab := { s.fab with discovering := false, last := [] } }) 34)
      (by decide)).trans (routeSet_claim ..)).1, ?_⟩
    rw [routeSet_ev]
    exact State.raise_latched ({ s with fab := { s.fab with discovering := false, last := [] } }) 34
  · refine ⟨(routeChange_claim s).1, ?_⟩
    unfold State.routeChange
    split
    · exact .refl _
    split
    · exact .refl _
    · dsimp only
      rw [routeSet_ev]
      exact raiseIf_latched _ _ _

/-! ### The nodes of the topology (R268, R275) -/

/-- A change of nodes that keeps their identities finds each where it was. -/
theorem nodeOf_map {f : Node → Node} (hf : ∀ x, (f x).id = x.id) (ns : List Node) (id : W64) :
    nodeOf (ns.map f) id = (nodeOf ns id).map f := by
  unfold nodeOf
  rw [List.find?_map]
  congr 2
  funext x
  exact congrArg (· == id) (hf x)

theorem nodeOf_modNode {id : W64} {f : Node → Node} (hf : ∀ x, (f x).id = x.id) {ns : List Node} {x : Node}
    (hx : nodeOf ns id = some x) : nodeOf (modNode id f ns) id = some (f x) := by
  have hid : x.id = id := eq_of_beq (List.find?_some (p := fun y : Node => y.id == id) hx)
  unfold modNode
  rw [nodeOf_map (fun y => by split; exacts [hf y, rfl]), hx, Option.map_some, if_pos hid]

theorem any_modNode (id other : W64) {f : Node → Node} (hf : ∀ x, (f x).id = x.id) (ns : List Node) :
    ((modNode id f ns).any fun y => y.id == other) = ns.any fun y => y.id == other := by
  unfold modNode
  rw [List.any_map]
  congr 1
  funext y
  dsimp only [Function.comp]
  split
  · rw [hf]
  · rfl

/-- A node behind those that do not bear its identity is found there. -/
theorem nodeOf_append_new {ns : List Node} {y : Node} (h : (ns.any fun x => x.id == y.id) = false) : nodeOf (ns ++ [y]) y.id = some y := by
  have hnone : nodeOf ns y.id = none := List.find?_eq_none.2 fun x hx => List.any_eq_false.1 h x hx
  unfold nodeOf at hnone ⊢
  rw [List.find?_append, hnone]
  simp

/-- A link that another device's reply shows at a port (R268). -/
def linked (port : Nat) (id : W64) (x : Node) : Node := if x.links.any (·.1 == port) then x else { x with links := x.links ++ [(port, id)] }

/-- The node of an unknown device that replied (R268). -/
def newNode (s : State) (x : Node) (r : ProbeReply) : Node := { Node.reset with
  id := r.identity, addr := if r.abutment then r.addr else 0xFFFF, abut := r.abutment, level := x.level + 1,
  route := x.route ++ [r.port.val], links := replyLinks r, stranded := !s.fab.discovering }

/-- An unknown device extends the tree (R268). -/
theorem nodeTake_new {s : State} {x : Node} {r : ProbeReply} (hroot : r.root = 0 ∨ r.root = s.ownId)
    (hnew : (s.fab.nodes.any fun y => y.id == r.identity) = false) : (s.nodeTake x r).fab =
      { s.fab with nodes := modNode x.id (linked r.port r.identity) s.fab.nodes ++ [s.newNode x r],
                   toProbe := s.fab.toProbe ++ routesOn (s.newNode x r) } := by
  unfold State.nodeTake
  dsimp only
  rw [if_neg (by rintro ⟨h0, h1⟩; exact hroot.elim h0 h1), hnew, if_neg Bool.false_ne_true]
  rfl

/-- The tree finds the unknown device that replied (R268). -/
theorem nodeTake_finds {s : State} {x : Node} {r : ProbeReply} (hroot : r.root = 0 ∨ r.root = s.ownId)
    (hnew : (s.fab.nodes.any fun y => y.id == r.identity) = false) :
    nodeOf (s.nodeTake x r).fab.nodes r.identity = some (s.newNode x r) := by
  rw [nodeTake_new hroot hnew]
  refine nodeOf_append_new (y := s.newNode x r) ((any_modNode _ _ (fun y => ?_) _).trans hnew)
  unfold linked
  split <;> rfl

/-- A device of another root cuts the link to it alone (R267). -/
theorem nodeTake_foreign {s : State} {x : Node} {r : ProbeReply} (h0 : r.root ≠ 0) (hown : r.root ≠ s.ownId) :
    ∃ nodes, s.nodeTake x r = { s with fab := { s.fab with nodes := nodes } } := by
  unfold State.nodeTake
  exact ⟨_, if_pos ⟨h0, hown⟩⟩

end State
end Sys2Proof.Machine

namespace Sys2Proof.Machine

open Sys2Proof

/-! ### The fabric's commands and frames (R264 to R270, R275) -/

namespace State

section MetFab

variable (s : State) (t : Tm) (mb : Mb) (c : Cmd)

theorem met_fab : (s.met t mb c).fab = s.fab := by
  obtain ⟨x, hx⟩ := s.met_eq t mb c
  rw [hx]; rfl
theorem met_get (f : Fld) (i : Nat) : (s.met t mb c).get f i = s.get f i := by
  obtain ⟨x, hx⟩ := s.met_eq t mb c
  rw [hx]; rfl
theorem met_rootId : (s.met t mb c).rootId = s.rootId := by
  obtain ⟨x, hx⟩ := s.met_eq t mb c
  rw [hx]; rfl
theorem met_lowClaim : (s.met t mb c).lowClaim = (s.clock t).lowClaim := by
  obtain ⟨x, hx⟩ := s.met_eq t mb c
  rw [hx]; rfl
theorem met_ownId : (s.met t mb c).ownId = s.ownId := by
  obtain ⟨x, hx⟩ := s.met_eq t mb c
  rw [hx]; rfl
theorem met_claimWindow : (s.met t mb c).claimWindow = s.claimWindow := by
  obtain ⟨x, hx⟩ := s.met_eq t mb c
  rw [hx]; rfl
theorem met_claimPorts : (s.met t mb c).claimPorts = s.claimPorts := by
  obtain ⟨x, hx⟩ := s.met_eq t mb c
  rw [hx]; rfl
theorem met_planOk (plan : List (W64 × Nat)) : (s.met t mb c).planOk plan = s.planOk plan := by
  obtain ⟨x, hx⟩ := s.met_eq t mb c
  rw [hx]; rfl
theorem met_topologyEntry : (s.met t mb c).topologyEntry = s.topologyEntry := by
  obtain ⟨x, hx⟩ := s.met_eq t mb c
  rw [hx]; rfl

end MetFab

/-- A claim's window starts and the claim goes out (R265). -/
def claimBegun (s : State) : State :=
  State.claimSend { s with fab := { s.fab with claimUntil := some (s.time.now + s.claimWindow) } } s.ownId none

/-- A claimant withdraws before a lower identity (R265, R266). -/
def claimLost (s : State) (identity : W64) (port : Nat) : State :=
  { s.claimSend identity (some port) with fab := { (s.claimSend identity (some port)).fab with claimUntil := none } }

/-- The claimant becomes root (R265). -/
def rootBecome (s : State) : State :=
  ((({ s with fab := { s.fab with claimUntil := none } }).putB P.FAB_ADDR_ROOT 0 true).setRoot s.ownId).raise 33

/-- A root begins discovery at its own links (R268). -/
def discoveryBegun (s : State) : State := { s with fab := { s.fab with
  nodes := [s.ownNode], probes := [], toProbe := routesOn s.ownNode, discovering := true, installs := [], named := none, mine := none } }

/-- A root gives up its office (R266). -/
def rootReleased (s : State) : State :=
  State.raise (State.mastered { (s.putB P.FAB_ADDR_ROOT 0 false).setRoot 0 with
    fab := { ((s.putB P.FAB_ADDR_ROOT 0 false).setRoot 0).fab with discovering := false, probes := [], toProbe := [], again := false } }) 33

/-- The device with a probe no longer outstanding (R268). -/
def probeBack (s : State) (route : List Nat) : State := { s with fab := { s.fab with probes := s.fab.probes.erase route } }

/-- The device with an acknowledgement noted (R270). -/
def ackNoted (s : State) (identity : W64) : State :=
  { s with fab := { s.fab with nodes := modNode identity (fun x => { x with acked := true }) s.fab.nodes } }

theorem ackNoted_missing (s : State) (identity : W64) : (s.ackNoted identity).ackMissing =
    s.fab.installs.any fun e => s.fab.nodes.any fun x => x.id == e.1 && x.id != identity && !x.acked && !x.stranded := by
  refine congrArg (List.any s.fab.installs) (funext fun e => ?_)
  refine List.any_map.trans (congrArg (List.any s.fab.nodes) (funext fun x => ?_))
  dsimp only [Function.comp]
  by_cases hx : x.id = identity
  · rw [if_pos hx, hx, bne_self_eq_false, Bool.not_true, Bool.and_false]
    rfl
  · rw [if_neg hx, bne_iff_ne.2 hx, Bool.and_true]

theorem claimBegun_only (s : State) : Only [.fab, .out] [] s s.claimBegun :=
  ((Only.set_fab (by decide)).2 Only.refl).trans (State.claimSend_only ..)

theorem claimBegun_backgrounds (s : State) (w : Who) : s.claimBegun.backgrounds w = s.backgrounds w := by
  rw [State.backgrounds, State.backgrounds, s.claimBegun_only.1 .mbox (by decide)]

theorem claimBegun_claimUntil (s : State) : s.claimBegun.fab.claimUntil = some (s.time.now + s.claimWindow) := by
  rw [claimBegun, (claimSend_spec ..).1]

/-- The claim goes out on every port that carries traffic (R265). -/
theorem claimBegun_emits {s u : State} (h : s.claimBegun.out <:+ u.out) {p : Nat} (hp : p ∈ s.claimPorts) :
    Emits (.claim p s.ownId) s u :=
  claimSend_emits (s := { s with fab := { s.fab with claimUntil := some (s.time.now + s.claimWindow) } }) h hp (Option.some_ne_none p).symm

theorem rootBecome_spec (s : State) : s.rootBecome.isRoot = true ∧ s.rootBecome.rootId = s.ownId ∧ s.rootBecome.fab.claimUntil = none ∧
    Raised 33 s.rootBecome := by
  unfold rootBecome
  refine ⟨?_, ?_, ?_, State.raise_raised _ (by decide)⟩
  · rw [isRoot_of_only (State.raise_only ..) (by decide) (by decide), isRoot_of_only (State.setRoot_only ..) (by decide) (by decide)]
    exact State.flag_putB_same _ _ _ _ (by decide)
  · rw [rootId_of_only (State.raise_only ..) (by decide) (by decide), setRoot_rootId]
  · rw [(State.raise_only ..).1 .fab (by decide), (State.setRoot_only ..).1 .fab (by decide), State.putB_fab]

theorem rootReleased_spec (s : State) : s.rootReleased.isRoot = false ∧ s.rootReleased.rootId = 0 ∧ Raised 33 s.rootReleased := by
  unfold rootReleased
  refine ⟨?_, ?_, State.raise_raised _ (by decide)⟩
  · rw [isRoot_of_only (State.raise_only ..) (by decide) (by decide)]
    show ((s.putB P.FAB_ADDR_ROOT 0 false).setRoot 0).isRoot = false
    rw [isRoot_of_only (State.setRoot_only ..) (by decide) (by decide)]
    exact State.flag_putB_same _ _ _ _ (by decide)
  · rw [rootId_of_only (State.raise_only ..) (by decide) (by decide)]
    exact setRoot_rootId ..

/-- The probes that a new root sends and the first tree leave the claim and its office (R268). -/
theorem discoveryRun_keeps (s : State) : (s.discoveryBegun.probePump 64).discovered.isRoot = s.isRoot ∧
    (s.discoveryBegun.probePump 64).discovered.rootId = s.rootId ∧
    (s.discoveryBegun.probePump 64).discovered.fab.claimUntil = s.fab.claimUntil ∧
    Latched s.ev (s.discoveryBegun.probePump 64).discovered.ev := by
  have hpump := State.probePump_only s.discoveryBegun 64
  have hend := State.discovered_only (s.discoveryBegun.probePump 64)
  obtain ⟨a, b, hfab⟩ := s.discoveryBegun.probePump_fab 64
  obtain ⟨hclaim, hlatched⟩ := (s.discoveryBegun.probePump 64).discovered_keeps
  refine ⟨?_, ?_, ?_, ?_⟩
  · rw [isRoot_of_only hend (by decide) (by decide), isRoot_of_only hpump (by decide) (by decide)]
    rfl
  · rw [rootId_of_only hend (by decide) (by decide), rootId_of_only hpump (by decide) (by decide)]
    rfl
  · rw [hclaim, hfab]
    rfl
  · rw [hpump.1 .ev (by decide)] at hlatched
    exact hlatched

/-- A new link is probed, where none waits to be (R268, R275). -/
theorem probePump_one {s : State} {r : List Nat} (hto : s.fab.toProbe = [r]) (hroom : s.fab.probes.length < 64) :
    s.probePump 64 = ({ s with fab := { s.fab with toProbe := [], probes := s.fab.probes ++ [r] } } : State).emit
      (.probe (probeWord r) r.length) := by
  rw [State.probePump, hto]
  dsimp only
  rw [if_pos hroom, probePump_idle 63 rfl]

/-- A reply of an unknown device puts it into the tree, while other probes are outstanding (R268). -/
theorem reply_extends {s : State} {x : Node} {r : ProbeReply} (hroot : r.root = 0 ∨ r.root = s.ownId)
    (hnew : (s.fab.nodes.any fun y => y.id == r.identity) = false) (hleft : s.fab.probes ≠ []) :
    nodeOf ((s.nodeTake x r).probePump 64).discovered.fab.nodes r.identity = some (s.newNode x r) := by
  obtain ⟨a, b, hfab⟩ := (s.nodeTake x r).probePump_fab 64
  have hmore : ((s.nodeTake x r).probePump 64).fab.probes ≠ [] := by
    rw [hfab, nodeTake_new hroot hnew]
    exact fun h => hleft (List.append_eq_nil_iff.1 h).1
  rw [discovered_waits hmore, hfab]
  exact nodeTake_finds hroot hnew

/-- The last reply, of a device of another root, ends discovery (R267, R268). -/
theorem reply_ends {s : State} {x : Node} {r : ProbeReply} (h0 : r.root ≠ 0) (hown : r.root ≠ s.ownId) (hprobes : s.fab.probes = [])
    (hto : s.fab.toProbe = []) (hon : s.fab.discovering = true) :
    ((s.nodeTake x r).probePump 64).discovered.fab.discovering = false ∧
      ((s.nodeTake x r).probePump 64).discovered.fab.probes = [] ∧ Raised 34 ((s.nodeTake x r).probePump 64).discovered := by
  obtain ⟨nodes, htaken⟩ := nodeTake_foreign (x := x) h0 hown
  rw [probePump_idle 64 (by rw [htaken]; exact hto)]
  exact discovered_ends (by rw [htaken]; exact hprobes) (by rw [htaken]; exact hto) (by rw [htaken]; exact hon)

/-- A link that came up waits to be probed (R275). -/
def probeAsked (s : State) (route : List Nat) : State := { s with fab := { s.fab with toProbe := s.fab.toProbe ++ [route] } }

/-- What a lost link leaves of a node (R275). -/
def linkCut (identity : W64) (port : Nat) (far : Option W64) (y : Node) : Node :=
  if y.id = identity then { y with links := y.links.filter (·.1 != port) }
  else if some y.id = far ∧ (y.links.filter (·.2 == identity)).length = 1 then { y with links := y.links.filter (·.2 != identity) }
  else y

theorem linkCut_id (identity : W64) (port : Nat) (far : Option W64) (y : Node) : (linkCut identity port far y).id = y.id := by
  unfold linkCut
  split
  · rfl
  · split <;> rfl

/-- The device with a link of a node lost (R275). -/
def linkLost (s : State) (identity : W64) (x : Node) (port : Nat) : State := { s with fab := { s.fab with
  nodes := s.fab.nodes.map (linkCut identity port ((x.links.find? (·.1 == port)).map (·.2))),
  probes := s.fab.probes.filter fun r => !(x.route ++ [port]).isPrefixOf r,
  toProbe := s.fab.toProbe.filter fun r => !(x.route ++ [port]).isPrefixOf r } }

theorem linkLost_node {s : State} {identity : W64} {x : Node} (port : Nat) (hx : nodeOf s.fab.nodes identity = some x) :
    (nodeOf (s.linkLost identity x port).fab.nodes identity).map (·.links) = some (x.links.filter (·.1 != port)) := by
  have hid : x.id = identity := eq_of_beq (List.find?_some (p := fun y : Node => y.id == identity) hx)
  have hcut : linkCut identity port ((x.links.find? (·.1 == port)).map (·.2)) x = { x with links := x.links.filter (·.1 != port) } :=
    if_pos hid
  rw [linkLost, nodeOf_map (linkCut_id _ _ _), hx, Option.map_some, Option.map_some, hcut]

/-- With a route set in flight a change waits for its boundary (R285). -/
theorem routeChange_busy {s : State} (hroot : s.isRoot = true) (hmine : s.fab.mine.isSome = true) :
    s.routeChange = { s with fab := { s.fab with again := true } } := by
  unfold State.routeChange State.routeBusy
  rw [hroot, hmine]
  rfl

end State

/-! Each command of the fabric brought to its effect. -/

section Commands

variable {s : State} {t : Tm} {mb : Mb} {cmd : Cmd} (hp : s.pwr.por = false)
include hp

theorem exec_rootClaim (hserved : Served s t mb cmd 0 .p) (hroot : s.rootId = 0) (huntil : s.fab.claimUntil = none)
    (hmem : 64 ≤ s.get P.DDR_MAP_FW_MIB 0) (hlow : (s.clock t).lowClaim = none) : exec (.rootClaim t mb cmd) s =
      .next ((s.met t mb cmd).finish (s.sentBy t mb cmd) cmd .p (s.met t mb cmd).claimBegun.goesOn) := by
  simp only [exec, execRootClaim, live_of hp]
  rw [State.command_served hserved]
  refine congrArg (fun d => Host.Outcome.next (State.finish _ _ _ _ d)) ?_
  rw [if_neg, if_neg, State.met_lowClaim, hlow]
  · rfl
  · rw [State.met_get]
    omega
  · rw [State.met_rootId, State.met_fab, hroot, huntil]
    simp

theorem exec_rootRelease (hserved : Served s t mb cmd 0 .p) (hroot : s.isRoot = true) : exec (.rootRelease t mb cmd) s =
    .next ((s.met t mb cmd).finish (s.sentBy t mb cmd) cmd .p ((s.met t mb cmd).rootReleased.gives 0)) := by
  simp only [exec, execRootRelease, live_of hp]
  rw [State.command_served hserved]
  exact congrArg (fun d => Host.Outcome.next (State.finish _ _ _ _ d)) (if_neg (by rw [State.met_isRoot, hroot]; decide))

theorem exec_rootRelease_denied (hserved : Served s t mb cmd 0 .p) (hroot : s.isRoot = false) : exec (.rootRelease t mb cmd) s =
    .next ((s.met t mb cmd).finish (s.sentBy t mb cmd) cmd .p ((s.met t mb cmd).ends stDenied)) := by
  simp only [exec, execRootRelease, live_of hp]
  rw [State.command_served hserved]
  exact congrArg (fun d => Host.Outcome.next (State.finish _ _ _ _ d)) (if_pos (by rw [State.met_isRoot, hroot]; decide))

theorem exec_topologyRead (hserved : Served s t mb cmd 8 .r) (hroot : s.isRoot = true) : exec (.topologyRead t mb cmd) s =
    .next ((s.met t mb cmd).finish (s.sentBy t mb cmd) cmd .r ((s.met t mb cmd).answers
      (((s.fab.nodes.drop (field cmd.payload 0 4)).take (field cmd.payload 4 4)).flatMap s.topologyEntry))) := by
  simp only [exec, execTopologyRead, live_of hp]
  rw [State.command_served hserved, State.met_fab, State.met_topologyEntry]
  exact congrArg (fun d => Host.Outcome.next (State.finish _ _ _ _ d)) (if_neg (by rw [State.met_isRoot, hroot]; decide))

end Commands

/-- The entries of a plan held with those of a command (R264). -/
def planHeld (s : State) (cmd : Cmd) : List (W64 × Nat) :=
  (if (field cmd.payload 2 1).testBit 0 then [] else s.fab.planNext) ++ planEntries cmd.payload (field cmd.payload 0 2)

section Plan

variable {s : State} {t : Tm} {mb : Mb} {cmd : Cmd} (hp : s.pwr.por = false) (hserved : Served s t mb cmd (8 + 16 * min 253 (field cmd.payload 0 2)) .p)
  (hn : field cmd.payload 0 2 ≤ 253)
include hp hserved hn

theorem exec_addrPlan_part (hlast : (field cmd.payload 2 1).testBit 1 = false) : exec (.addrPlan t mb cmd) s =
    .next ((s.met t mb cmd).finish (s.sentBy t mb cmd) cmd .p
      (State.gives { s.met t mb cmd with fab := { s.fab with planNext := planHeld s cmd } } (planHeld s cmd).length)) := by
  simp only [exec, execAddrPlan, live_of hp]
  rw [State.command_served hserved, State.met_fab]
  refine congrArg (fun d => Host.Outcome.next (State.finish _ _ _ _ d)) ?_
  rw [if_neg (Nat.not_lt.2 hn), hlast]
  rfl

theorem exec_addrPlan_whole (hlast : (field cmd.payload 2 1).testBit 1 = true) (hok : s.planOk (planHeld s cmd) = true) :
    exec (.addrPlan t mb cmd) s = .next ((s.met t mb cmd).finish (s.sentBy t mb cmd) cmd .p
      (State.gives { s.met t mb cmd with fab := { s.fab with plan := planHeld s cmd, planNext := planHeld s cmd } }
        (planHeld s cmd).length)) := by
  simp only [exec, execAddrPlan, live_of hp]
  rw [State.command_served hserved, State.met_fab]
  refine congrArg (fun d => Host.Outcome.next (State.finish _ _ _ _ d)) ?_
  rw [if_neg (Nat.not_lt.2 hn), hlast, if_pos rfl, State.met_planOk]
  exact if_pos hok

end Plan

section Frames

variable {s : State} {t : Tm} (hp : s.pwr.por = false)
include hp

theorem exec_claimFrame_first {port : Port} (identity : W64) (hleased : s.leased = true) (hcarries : s.portCarries port = true)
    (hlow : (s.clock t).lowClaim = none) (hroot : s.rootId = 0) :
    exec (.claimFrame t port identity) s = .next ((s.clock t).claimSend identity (some port)) := by
  have hroot' : ¬ (s.clock t).rootId ≠ 0 := not_not_intro hroot
  have hgo : ¬ (!(s.clock t).leased || !(s.clock t).portCarries port) = true := by
    rw [State.clock_portCarries, hcarries, show (s.clock t).leased = true from hleased]
    decide
  simp only [exec, execClaimFrame, live_of hp, hlow]
  rw [if_neg hgo, if_neg hroot']

theorem exec_claimFrame_lower {port : Port} {identity low : W64} (hleased : s.leased = true) (hcarries : s.portCarries port = true)
    (hlow : (s.clock t).lowClaim = some low) (hless : identity.toNat < low.toNat) (huntil : s.fab.claimUntil.isSome = true)
    (hown : identity.toNat < s.ownId.toNat) : exec (.claimFrame t port identity) s =
      .next (((((s.clock t).claimLost identity port).setRoot identity).raise 33).backFail (isOp 0x0A01) stDenied 0) := by
  have hgo : ¬ (!(s.clock t).leased || !(s.clock t).portCarries port) = true := by
    rw [State.clock_portCarries, hcarries, show (s.clock t).leased = true from hleased]
    decide
  simp only [exec, execClaimFrame, live_of hp, hlow]
  rw [if_neg hgo, if_neg (Nat.not_le.2 hless)]
  exact congrArg Host.Outcome.next (if_pos (Bool.and_eq_true_iff.2 ⟨huntil, decide_eq_true hown⟩))

/-- A probe from a port that carries traffic is answered, unless it is the root's own (R268, R269). -/
theorem discoveryProbe_answers {port : Port} {src : Nat} (route : W64) (hon : (s.leased || s.abut) = true)
    (hcarries : s.portCarries port = true) (hother : ¬ (src = s.origin ∧ s.isRoot = true)) {o : Out}
    (ho : o = .probeReply ⟨s.ownId, Regs.word s.regs P.FAB_PORT_PEER_ID_ID port,
      Fin.ofNat 4 (bitsOf route.toNat (5 + 2 * (route.toNat % 32 - 1) + 1) (5 + 2 * (route.toNat % 32 - 1))), s.rootId, s.origin, s.abut,
      (upTo 4).map fun p => (Regs.word s.regs P.FAB_PORT_PEER_ID_ID p, s.portCarries p)⟩) :
    exec (.discoveryProbe t port src route) s = .next ((s.clock t).emit o) := by
  have hsrc : (decide (src = s.origin) && s.isRoot) = false :=
    Bool.eq_false_iff.2 fun h => hother (by rwa [Bool.and_eq_true, decide_eq_true_eq] at h)
  have hgo : (!((s.clock t).leased || (s.clock t).abut) || !(s.clock t).portCarries port ||
      (decide (src = (s.clock t).origin) && (s.clock t).isRoot)) = false := by
    show (!(s.leased || s.abut) || !s.portCarries port || (decide (src = s.origin) && s.isRoot)) = false
    rw [hon, hcarries, hsrc]
    rfl
  simp only [exec, execDiscoveryProbe, live_of hp]
  rw [if_neg (by rw [hgo]; decide), ho]
  rfl

theorem exec_claimWindowExpire {w : Tm} (huntil : s.fab.claimUntil = some w) (hw : w ≤ s.instant t) (hleased : s.leased = true) :
    exec (.claimWindowExpire t) s = .next ((s.clock t).rootBecome.discoveryBegun.probePump 64).discovered := by
  have huntil' : (s.clock t).fab.claimUntil = some w := huntil
  simp only [exec, execClaimWindowExpire, live_of hp, huntil']
  exact congrArg Host.Outcome.next (if_pos (Bool.and_eq_true_iff.2 ⟨decide_eq_true hw, hleased⟩))

/-- A reply to a probe that is outstanding is taken (R268). -/
theorem exec_discoveryReply {reply : ProbeReply} {x : Node} (hroot : s.isRoot = true) (hleased : s.leased = true)
    (hx : nodeOf s.fab.nodes reply.reachedFrom = some x) (hprobe : s.fab.probes.contains (x.route ++ [reply.port.val]) = true) :
    exec (.discoveryReply t reply) s =
      .next ((((s.clock t).probeBack (x.route ++ [reply.port.val])).nodeTake x reply).probePump 64).discovered := by
  have hx' : nodeOf (s.clock t).fab.nodes reply.reachedFrom = some x := hx
  have hgo : ¬ (!(s.clock t).isRoot || !(s.clock t).leased) = true := by
    rw [State.clock_isRoot, hroot, show (s.clock t).leased = true from hleased]
    decide
  simp only [exec, execDiscoveryReply, live_of hp, hx']
  rw [if_neg hgo]
  exact congrArg Host.Outcome.next (if_neg (by rw [show (s.clock t).fab.probes = s.fab.probes from rfl, hprobe]; decide))

theorem exec_routeInstallAck {identity : W64} (hroot : s.isRoot = true) (hleased : s.leased = true)
    (hinstalls : s.fab.installs.any (·.1 == identity) = true) :
    exec (.routeInstallAck t identity) s = .next ((s.clock t).ackNoted identity).routeName := by
  have hgo : ¬ (!(s.clock t).isRoot || !(s.clock t).leased || !((s.clock t).fab.installs.any (·.1 == identity))) = true := by
    rw [State.clock_isRoot, hroot, show (s.clock t).leased = true from hleased, show ((s.clock t).fab.installs.any (·.1 == identity)) = true
      from hinstalls]
    decide
  simp only [exec, execRouteInstallAck, live_of hp]
  exact congrArg Host.Outcome.next (if_neg hgo)

/-- A link that came up is probed, where no route set is in flight (R275). -/
theorem exec_portChangeReport_up {identity : W64} {port : Port} {x : Node} (hroot : s.isRoot = true) (hleased : s.leased = true)
    (hx : nodeOf s.fab.nodes identity = some x) (hmine : s.fab.mine = none) :
    exec (.portChangeReport t identity port true) s = .next (((s.clock t).probeAsked (x.route ++ [port.val])).probePump 64) := by
  have hx' : nodeOf (s.clock t).fab.nodes identity = some x := hx
  have hgo : ((s.clock t).leased && (s.clock t).fab.mine.isNone) = true := by
    show (s.leased && s.fab.mine.isNone) = true
    rw [hleased, hmine]
    rfl
  simp only [exec, execPortChangeReport, live_of hp, hx']
  rw [if_neg (by rw [State.clock_isRoot, hroot]; decide)]
  exact congrArg Host.Outcome.next (if_pos hgo)

/-- A link that was lost changes the tree (R275). -/
theorem exec_portChangeReport_down {identity : W64} {port : Port} {x : Node} (hroot : s.isRoot = true)
    (hx : nodeOf s.fab.nodes identity = some x) (hon : s.fab.discovering = false) :
    exec (.portChangeReport t identity port false) s = .next ((s.clock t).linkLost identity x port).routeChange := by
  have hx' : nodeOf (s.clock t).fab.nodes identity = some x := hx
  simp only [exec, execPortChangeReport, live_of hp, hx']
  rw [if_neg (by rw [State.clock_isRoot, hroot]; decide), if_neg Bool.false_ne_true]
  exact congrArg Host.Outcome.next (if_neg (by rw [show (s.clock t).fab.discovering = s.fab.discovering from rfl, hon]; decide))

end Frames

end Sys2Proof.Machine

namespace Sys2Proof.Machine

open Sys2Proof

/-- Settles O28: each command and frame is brought to its effect on the claim, the topology, the route set or the plan, which a lemma
above names. -/
theorem fabricRootCompletes : Obligations.FabricRootCompletes := by
  unfold Obligations.FabricRootCompletes
  intro s t hp
  refine ⟨?claim, ?firstClaim, ?lowerClaim, ?window, ?probe, ?reply, ?lastReply, ?install, ?boundary, ?lastAck, ?ack, ?linkUp, ?linkDown,
    ?release, ?denied, ?planPart, ?planWhole, ?topology⟩
  case claim =>
    intro mb cmd hserved hroom hroot huntil hmem hlow
    have hk : Cls.p ≠ .r := by decide
    have hroom' : (s.met t mb cmd).backgrounds (s.sentBy t mb cmd) < 16 := by rwa [State.met_backgrounds]
    refine ⟨_, exec_rootClaim hp hserved hroot huntil hmem hlow, ?_, fun p hport => ?_,
      State.finish_goesOn_waits hk hroom' (by rwa [State.claimBegun_backgrounds])⟩
    · rw [(State.finish_goesOn_only hk hroom').1 .fab (by decide), State.claimBegun_claimUntil, State.met_now, State.met_claimWindow]
    · have hsent := State.claimBegun_emits (s := s.met t mb cmd) (p := p) (State.finish_goesOn_sent (c := cmd) hk hroom' (List.suffix_refl _))
        (by rwa [State.met_claimPorts])
      rw [State.met_ownId, Emits, State.met_out] at hsent
      exact hsent
  case firstClaim =>
    intro port identity hleased hcarries hlow hroot
    refine ⟨_, exec_claimFrame_first hp identity hleased hcarries hlow hroot, ?_, fun p hport hne => ?_⟩
    · rw [(State.claimSend_spec ..).1]
      rfl
    · exact State.claimSend_emits (s := s.clock t) (List.suffix_refl _) hport fun h => hne (Option.some.inj h).symm
  case lowerClaim =>
    intro port identity low hleased hcarries hlow hless huntil hown
    refine ⟨_, exec_claimFrame_lower hp hleased hcarries hlow hless huntil hown, ?_, ?_, ?_⟩
    · rw [(State.backFail_only ..).1 .fab (by decide), (State.raise_only ..).1 .fab (by decide), (State.setRoot_only ..).1 .fab (by decide)]
      rfl
    · rw [State.rootId_of_only (State.backFail_only ..) (by decide) (by decide), State.rootId_of_only (State.raise_only ..) (by decide)
        (by decide), State.setRoot_rootId]
    · exact raised_of_latched (State.backFail_latched _ _ _ _) (State.raise_raised _ (by decide))
  case window =>
    intro w huntil hw hleased
    obtain ⟨hroot, hid, hclaim, hraised⟩ := (s.clock t).rootBecome_spec
    obtain ⟨hroot', hid', hclaim', hlatched⟩ := (s.clock t).rootBecome.discoveryRun_keeps
    exact ⟨_, exec_claimWindowExpire hp huntil hw hleased, hroot'.trans hroot, hid'.trans hid, hclaim'.trans hclaim,
      raised_of_latched hlatched hraised⟩
  case probe =>
    intro port src route hon hcarries hother
    exact ⟨_, discoveryProbe_answers hp route hon hcarries hother rfl, emits_of_append (l := [_]) rfl (List.mem_singleton.2 rfl)⟩
  case reply =>
    intro reply x hroot hleased hx hprobe hleft hsame hnew
    have hfound := State.reply_extends (s := (s.clock t).probeBack (x.route ++ [reply.port.val])) (x := x) hsame hnew hleft
    refine ⟨_, exec_discoveryReply hp hroot hleased hx hprobe, ?_⟩
    dsimp only
    rw [hfound]
    exact ⟨rfl, rfl⟩
  case lastReply =>
    intro reply x hroot hleased hx hprobes hto hon h0 hown
    have hgone : ((s.clock t).probeBack (x.route ++ [reply.port.val])).fab.probes = [] := by
      show s.fab.probes.erase (x.route ++ [reply.port.val]) = []
      rw [hprobes, List.erase_cons_head]
    exact ⟨_, exec_discoveryReply hp hroot hleased hx (by rw [hprobes]; simp), State.reply_ends h0 hown hgone hto hon⟩
  case install =>
    intro install hleased hboundary
    have hexec : exec (.routeInstall t install) s =
        .next (State.emit { s.clock t with fab := { s.fab with mine := some install } } (.control 0xFFFF [3, s.origin])) := by
      simp only [exec, execRouteInstall, live_of hp]
      rw [if_neg (by rw [show (s.clock t).leased = true from hleased]; decide), if_pos hboundary]
      rfl
    exact ⟨_, hexec, rfl, emits_of_append (l := [_]) rfl (List.mem_singleton.2 rfl)⟩
  case boundary =>
    intro install hleased hboundary hcut
    have hexec : exec (.routeInstall t install) s = .next (State.put { s.clock t with fab := { s.fab with mine := some install } }
        P.FAB_ROUTE_PENDING_TIME_NS 0 (tbNs install.boundary)) := by
      simp only [exec, execRouteInstall, live_of hp]
      rw [if_neg (by rw [show (s.clock t).leased = true from hleased]; decide), if_neg hboundary]
      exact congrArg Host.Outcome.next (if_neg (Nat.not_le.2 hcut))
    exact ⟨_, hexec, by rw [State.put_fab], State.get_put_same _ _ _ _ _ (by decide)⟩
  case lastAck =>
    intro identity i hroot hleased hinstalls hmine hnamed hall
    have hnames := State.routeName_names (s := (s.clock t).ackNoted identity) (((s.clock t).ackNoted_missing identity).trans hall) hnamed hmine
    refine ⟨_, exec_routeInstallAck hp hroot hleased hinstalls, ?_, ?_⟩
    · rw [hnames]
      rfl
    · rw [hnames]
      rfl
  case ack =>
    intro identity x hroot hleased hinstalls hx hmissing
    refine ⟨_, exec_routeInstallAck hp hroot hleased hinstalls, ?_⟩
    rw [State.routeName_waits (((s.clock t).ackNoted_missing identity).trans hmissing)]
    exact ⟨congrArg (Option.map (·.acked)) (State.nodeOf_modNode (f := fun y => { y with acked := true }) (fun _ => rfl) hx), rfl⟩
  case linkUp =>
    intro identity port up x hroot hleased hup hx hmine hto hroom
    subst hup
    have hasked : ((s.clock t).probeAsked (x.route ++ [port.val])).fab.toProbe = [x.route ++ [port.val]] := by
      show s.fab.toProbe ++ [x.route ++ [port.val]] = _
      rw [hto]
      rfl
    refine ⟨_, exec_portChangeReport_up hp hroot hleased hx hmine, ?_⟩
    rw [State.probePump_one hasked hroom]
    refine ⟨?_, rfl⟩
    rw [show x.route.length + 1 = (x.route ++ [port.val]).length from (List.length_append (bs := [port.val])).symm]
    exact emits_of_append (l := [_]) rfl (List.mem_singleton.2 rfl)
  case linkDown =>
    intro identity port up x hroot hup hx hmine hon
    subst hup
    refine ⟨_, exec_portChangeReport_down hp hroot hx hon, ?_⟩
    rw [State.routeChange_busy (s := (s.clock t).linkLost identity x port) hroot hmine]
    exact ⟨State.linkLost_node (s := s.clock t) port hx, rfl⟩
  case release =>
    intro mb cmd hserved hroot
    obtain ⟨hroot', hid, hraised⟩ := (s.met t mb cmd).rootReleased_spec
    have hk : Cls.p ≠ .r := by decide
    have honly := State.finish_done_only (s := s.met t mb cmd) (w := s.sentBy t mb cmd) (c := cmd) (d := (s.met t mb cmd).rootReleased.gives 0)
      hk rfl rfl
    refine ⟨_, exec_rootRelease hp hserved hroot, ?_, ?_, ?_, State.finish_done_owed hk rfl rfl⟩
    · rw [State.isRoot_of_only honly (by decide) (by decide)]
      exact hroot'
    · rw [State.rootId_of_only honly (by decide) (by decide)]
      exact hid
    · rw [Raised, honly.1 .ev (by decide)]
      exact hraised
  case denied =>
    intro mb cmd hserved hroot
    have hk : Cls.p ≠ .r := by decide
    have hs : ((s.met t mb cmd).ends stDenied).status ≠ stOk := show stDenied ≠ stOk by decide
    refine ⟨_, exec_rootRelease_denied hp hserved hroot, ?_, ?_⟩
    · rw [(State.finish_failed_only hk rfl hs).1 .fab (by decide)]
      exact State.met_fab ..
    · rw [State.finish_failed_wait hk rfl hs]
      exact State.met_wait ..
  case planPart =>
    rintro mb cmd _ rfl hserved hn hlast
    have honly := State.finish_done_only (s := s.met t mb cmd) (w := s.sentBy t mb cmd) (c := cmd) (k := .p)
      (d := State.gives { s.met t mb cmd with fab := { s.fab with planNext := planHeld s cmd } } (planHeld s cmd).length) (by decide) rfl rfl
    refine ⟨_, exec_addrPlan_part hp hserved hn hlast, ?_, ?_⟩
    · rw [honly.1 .fab (by decide)]
      rfl
    · rw [honly.1 .fab (by decide)]
      rfl
  case planWhole =>
    rintro mb cmd _ rfl hserved hn hlast hok
    have hk : Cls.p ≠ .r := by decide
    have honly := State.finish_done_only (s := s.met t mb cmd) (w := s.sentBy t mb cmd) (c := cmd)
      (d := State.gives { s.met t mb cmd with fab := { s.fab with plan := planHeld s cmd, planNext := planHeld s cmd } }
        (planHeld s cmd).length) hk rfl rfl
    refine ⟨_, exec_addrPlan_whole hp hserved hn hlast hok, ?_, ?_⟩
    · rw [honly.1 .fab (by decide)]
      rfl
    · rw [honly.1 .fab (by decide)]
      exact State.finish_done_owed hk rfl rfl
  case topology =>
    intro mb cmd hserved hroot
    refine ⟨_, exec_topologyRead hp hserved hroot, ?_⟩
    rw [State.finish_read]
    rfl

end Sys2Proof.Machine
